-- ==== Sys2Proof/Word.lean ====
section
/-! DEFINITION. The word types of the module: 32-bit registers (spec/00_scope.md), bytes, and the sparse
stores in which State keeps registers, memories and per-unit records. -/

namespace Sys2Proof

/-- A 32-bit register word (00, "Registers"). -/
abbrev Word := BitVec 32

/-- One byte of flash, OTP or a data field. -/
abbrev Byte := BitVec 8

/-- A sparse store: pairs of a key and a value with the keys strictly rising, and no pair whose value is
what an unlisted key reads as. `Machine.kget` and `Machine.kset` read and write it. -/
abbrev KMap (α : Type) := List (Nat × α)

end Sys2Proof
end

