-- ==== Sys2Proof/Syntax.lean ====
section
/-! DEFINITION. The commands of the module: one constructor for each row of spec/opcode_table.json, with the
operands that the rule named in the table needs. A command is one whole step of spec/95. Physical facts that the
spec leaves outside the module (measurements, received frames, verdicts of a signature) are operands. -/

namespace Sys2Proof

/-- Who makes an access (R23, R26): the image loader, S0, ring remote access, or hoist engine 0 to 7. -/
inductive Req where
  | loader
  | s0
  | ring
  | eng (e : Fin 8)
  deriving DecidableEq, Repr

/-- The two domains (R11). -/
inductive Dom where
  | a
  | b
  deriving DecidableEq, Repr

/-- A CAN frame (R296, R300): identifier word, DLC, flags, XL fields, LEN, data bytes in bus order, and the stamp of its start-of-frame
bit (R275). -/
structure Frame where
  idw : Word := 0
  dlc : Nat := 0
  rtr : Bool := false
  brs : Bool := false
  esi : Bool := false
  sec : Bool := false
  sdt : Nat := 0
  vcid : Nat := 0
  af : Word := 0
  data : List Byte := []
  ts : Nat := 0
  deriving DecidableEq, Repr

/-- A modulator period as the tile link delivers it (R132, R137, R176): the 3-bit code, whether the input lay out of range or the loop filter clamped in it, and
whether it did not arrive intact. -/
structure Period where
  code : Nat := 2
  ovr : Bool := false
  lost : Bool := false
  deriving DecidableEq, Repr

/-- Which register of a schedule a write names (R288). -/
inductive SchReg where
  | cfg
  | per
  | phase
  deriving DecidableEq, Repr

/-- Which configuration register of a check-value unit a write names (R489). -/
inductive CvReg where
  | cfg
  | poly
  | init
  | xorout
  deriving DecidableEq, Repr

/-- A protocol error that a CAN port detects (R311, R327): LEC less 1, whether it lies in a data phase, whether it lies after the arbitration
field and before the acknowledgement slot (R315), whether a dominant bit follows where ISO 11898-1 counts it (a transmitter's passive
error flag, the bit after a receiver's error flag), whether it is a stuff error during arbitration that leaves TEC alone, and how many further events at the
flag ISO 11898-1 counts by 8 (a bit error in an active flag, each run of dominant bits after it that is too long). -/
structure CanErr where
  lec : Fin 6 := 0
  data : Bool := false
  field : Bool := false
  dominant : Bool := false
  exempt : Bool := false
  runs : Nat := 0
  deriving DecidableEq, Repr

/-- A frame of the Casen ring (R461, R462): the header's fields and the payload in words. FLAGS: bit 0 DOWN, 1 TKO, 2 LAST, 3 STRAY, 4 FIRST,
5 SEG_LAST. -/
structure RFrame where
  ty : Byte := 0
  flags : Byte := 0
  dst : Byte := 0
  src : Byte := 0
  hops : Byte := 0
  seg : Byte := 0
  w1 : Word := 0
  w2 : Word := 0
  data : List Word := []
  deriving DecidableEq, Repr

/-- The commands, each in the order of the table: those with operands, then those without (a compiled program can build at most 244 constructors that have
operands). Each docstring names the row's rule. -/
inductive Instr where
  /-- REGISTER_WRITE (R582): A write to a register that has no row of its own is applied under the access codes, the locks and the replacement rules. -/
  | registerWrite (r : Req) (a : Word) (w : Word)
  /-- WIDE_READ_LOW (R22): A read of the lowest word of a wide value latches the whole value into the requester's read shadow. -/
  | wideReadLow (r : Req) (a : Word)
  /-- WIDE_READ_HIGH (R24): A read of a higher word of a wide value returns the shadow, or the live word when there is no matching shadow, which counts a miss. -/
  | wideReadHigh (r : Req) (a : Word)
  /-- WIDE_WRITE_LOWER (R25): A write of a lower word of a writable wide value goes into the requester's write shadow. -/
  | wideWriteLower (r : Req) (a : Word) (w : Word)
  /-- WIDE_WRITE_COMMIT (R25): A write of the highest word of a writable wide value commits the whole value at one edge of the owning island. -/
  | wideWriteCommit (r : Req) (a : Word) (w : Word)
  /-- SFDP_DISCOVERY (R419): At cold start each domain reads the SFDP of each S1 select and records the device parameters. -/
  | sfdpDiscovery (ok0 : Bool) (d0 : Word) (e0 : Word) (ok1 : Bool) (d1 : Word) (e1 : Word)
  /-- IMAGE_LOAD (R52): After SFDP discovery the loader reads both headers, ranks the slots, and checks and verifies them until one is selected or none passes. -/
  | imageLoad (d : Dom) (e0 : Fin 4) (e1 : Fin 4)
  /-- APPLY_PASS (R47): The apply pass performs the REGLIST writes and BLOB copies in record order, and every value and lock takes effect together at ENDREC. -/
  | applyPass (land : Bool) (time : BitVec 16)
  /-- ATTEST (R60): BT_CMD OP ATTEST takes the committed nonce and has the named domain sign an attestation report. -/
  | attest (r : Req) (arg : Fin 16)
  /-- KEY_PROG (R58): BT_CMD OP KEY_PROG programs the hash in BT_KEYBUF into a blank owner slot of OTP when its conditions hold. -/
  | keyProg (r : Req) (arg : Fin 16)
  /-- KEY_REVOKE (R58): BT_CMD OP KEY_REVOKE sets the revocation bit of an owner slot or the vendor slot when its conditions hold. -/
  | keyRevoke (r : Req) (arg : Fin 16)
  /-- ROLL_COMMIT (R58): BT_CMD OP ROLL_COMMIT raises the OTP rollback counter to the running image's ROLLBACK. -/
  | rollCommit (r : Req)
  /-- TRUST_CMD_DONE (R58): A running trust command completes: BUSY falls, RESULT is set, an attestation report replaces BT_ATT_BUF, and MOD_IRQ.BT is set. -/
  | trustCmdDone (ok : Bool)
  /-- DI_SAMPLE (R68): Every 10 µs of the tile's time base the tile samples each input comparator and advances debounce. -/
  | diSample (t : Fin 16) (raw : BitVec 8)
  /-- DI_EDGES_PRESET (R71): A host write of CH_DI_EDGES presets the tile's edge counter within 100 µs. -/
  | diEdgesPreset (r : Req) (n : Fin 256) (w : Word)
  /-- DO_CMD_WRITE (R74): A write of CH_DO_CMD.ON sets the commanded state, which the tile applies unless a protective or safe state prevents it. -/
  | doCmdWrite (r : Req) (n : Fin 256) (w : Word)
  /-- THERMAL_SHUTDOWN (R75): An output whose channel temperature exceeds the shutdown threshold turns off, and locks off after 16 shutdowns in a row. -/
  | thermalShutdown (n : Fin 256)
  /-- THERMAL_RESTART (R75): 10 ms after a thermal shutdown, the output turns on again if the channel has cooled, and otherwise as soon as it has. -/
  | thermalRestart (n : Fin 256)
  /-- CLAMP_EVENT_END (R76): At the end of a turn-off clamp event the tile records its energy and reports CLAMP when it exceeds 150 mJ. -/
  | clampEventEnd (n : Fin 256) (e : Nat)
  /-- PULLIN_END (R78): After PULLIN × 10 ms of full conduction, the output starts PWM hold. -/
  | pullinEnd (n : Fin 256)
  /-- DIGITAL_DIAG_DETECT (R84): A digital-channel diagnostic condition persists for its detection time and its active and latched bits are set. -/
  | digitalDiagDetect (n : Fin 256) (m : BitVec 12)
  /-- DIGITAL_DIAG_CLEAR (R84): A digital-channel diagnostic condition stays absent for its clearing time and its active bit clears. -/
  | digitalDiagClear (n : Fin 256) (b : Fin 12)
  /-- CH_DIAG_CLEAR (R83): A W1C write to CH_DIAG.LATCHED clears latched bits and releases a switch-on held back by CLAMP. -/
  | chDiagClear (r : Req) (n : Fin 256) (w : Word)
  /-- TILE_HOLD_EXPIRY (R88): The tile hold timer expires without a valid frame of the current epoch and the tile enters its safe state. -/
  | tileHoldExpiry (t : Fin 16)
  /-- TILE_FRAME_RECEIVE (R498): A tile receives a command frame, adopts its epoch or ignores it, and restarts its hold timer on frames it obeys. -/
  | tileFrameReceive (t : Fin 16) (d : Dom) (e : BitVec 16)
  /-- TILE_SAFE_WDOG_CLEAR (R87): A write of 1 to TILE_SAFE.WDOG after the watchdog service releases the WDOG cause of that tile; before the service it is ignored. -/
  | tileSafeWdogClear (r : Req) (t : Fin 16) (w : Word)
  /-- AO_SET_WRITE (R112): A write of CH_AO_SET sets the output current, clamping it at 48,000 with SET_CLAMP, and the tile applies it within 100 µs. -/
  | aoSetWrite (r : Req) (n : Fin 256) (w : Word)
  /-- AO_TRIM_WRITE (R113): A host write of CH_AO_TRIM changes the trim corrections within 100 µs and is journalled. -/
  | aoTrimWrite (r : Req) (n : Fin 256) (w : Word)
  /-- LP_HICCUP_OFF (R110): The LP limit has acted continuously for 100 ms and the tile switches LP off for the off-phase. -/
  | lpHiccupOff (n : Fin 256)
  /-- LP_HICCUP_ON (R110): The LP off-phase ends and LP is switched on again. -/
  | lpHiccupOn (n : Fin 256)
  /-- ANALOG_DIAG_DETECT (R124): An analog-channel diagnostic condition persists for its detection time and its bits are set, with its effect on the channel. -/
  | analogDiagDetect (n : Fin 256) (m : BitVec 12)
  /-- ANALOG_DIAG_CLEAR (R124): An analog-channel diagnostic condition stays absent for its clearing time and its active bit clears. -/
  | analogDiagClear (n : Fin 256) (b : Fin 12)
  /-- INJECT_ENTER (R121): A write of CH_AN_INJ.EN = 1 switches the channel to the test DAC within 100 µs, or is ignored in AO20. -/
  | injectEnter (r : Req) (n : Fin 256)
  /-- INJECT_EXIT (R121): A write of CH_AN_INJ.EN = 0 reconnects the channel's lands within 100 µs. -/
  | injectExit (r : Req) (n : Fin 256)
  /-- MODE_CHANGE (R125): A write of CH_AN_CFG.MODE changes the channel mode at the tile within 1 ms, in the given order. -/
  | modeChange (r : Req) (n : Fin 256) (w : Word)
  /-- TDAC_WRITE (R120): A write of TILE_TDAC.CODE sets the test DAC voltage, or is ignored with DENIED while a SWEEP holds the tile. -/
  | tdacWrite (r : Req) (t : Fin 16) (w : Word)
  /-- MODULATOR_LOOP_RESET (R138): After 16 consecutive clamped periods, the tile resets the modulator's loop filter and marks the next 64 periods over-range. -/
  | modulatorLoopReset (n : Fin 256)
  /-- CHAIN_OUTPUT (R185): A chain completes an output on its grid and numbers it, then suppresses it or delivers it as a sample. -/
  | chainOutput (n : Fin 256) (ps : List Period)
  /-- SYNC_LAND_EDGE (R143): An edge on the SYNC land is captured once stable and requests a SYNC, a dip or a PPS sample, as enabled. -/
  | syncLandEdge (rising : Bool)
  /-- CA_SYNC_GO (R141): A write of 1 to CA_SYNC.GO requests a REG SYNC and passes it to the standby. -/
  | caSyncGo (r : Req)
  /-- AUX_SLOT_END (R146): A tile's auxiliary slot ends, its result replaces TILE_AUXi, and the scan moves on to the next selected input. -/
  | auxSlotEnd (t : Fin 16) (raw : Int) (ovr : Bool)
  /-- INJ_REQUEST (R148): A write of CA_INJ requests an injected conversion on a tile and receives a response code. -/
  | injRequest (r : Req) (w : Word)
  /-- INJ_COMPLETE (R151): An injected conversion ends and its code, tick and tag are written to the tile, to the channel and to a requesting context. -/
  | injComplete (t : Fin 16) (raw : Int) (ovr : Bool)
  /-- CAL (R153): CA_CMD OP CAL asks the arbiter for a CAL permit, or is refused or ignored. -/
  | cal (r : Req)
  /-- CAL_OFFSET_MEANS (R154): The offset means M0 are taken and the inputs switch to the 2.048 V reference. -/
  | calOffsetMeans (sums : List Int)
  /-- CAL_GAIN_MEANS (R155): The gain means M1 are taken and the factors are computed, checked and written. -/
  | calGainMeans (sums : List Int) (marked : List Nat)
  /-- CAL_FACTOR_WRITE (R159): A host write of a factor register sets the factor, clears STALE, sets HOST and is journalled. -/
  | calFactorWrite (r : Req) (i : Fin 80) (gain : Bool) (w : Word)
  /-- SWEEP (R160): CA_CMD OP SWEEP asks for a SWEEP permit on the selected tiles, or is refused. -/
  | sweep (r : Req)
  /-- SWEEP_ABORT (R161): CA_CMD OP SWEEP_ABORT ends the sweep after the current step with RESULT ABORTED. -/
  | sweepAbort (r : Req)
  /-- SWEEP_STEP (R161): A sweep dwell ends: the DAC is measured, each selected channel's deviation is compared, and the next code is set or the sweep ends. -/
  | sweepStep (raw : List Int)
  /-- FC_CFG_WRITE (R184): A write of CH_FC_CFG or CH_FC_SHIFT that changes the preset, the shifts or EN resets the chain at the new grid point. -/
  | fcCfgWrite (r : Req) (n : Fin 256) (shift : Bool) (w : Word)
  /-- PDELAY_WRITE (R183): A write of CH_FC_DELAY changes the phase delay at a later modulator edge and resets the chain. -/
  | pdelayWrite (r : Req) (n : Fin 256) (w : Word)
  /-- PRESET_RECORD_WRITE (R193): A host write to a user preset record is applied and recomputed, or ignored with DENY while an enabled channel selects it. -/
  | presetRecordWrite (r : Req) (x : Fin 4) (o : Nat) (w : Word)
  /-- LINK_FRAMES_RESUME (R176): Valid frames resume on a tile link after more than 1 ms and the domain resets that tile's chains. -/
  | linkFramesResume (t : Fin 16) (d : Dom)
  /-- THRESHOLD_WRITE (R206): A host write to a threshold register takes effect in both domains at a later sample and makes the state undefined. -/
  | thresholdWrite (r : Req) (n : Fin 256) (x : Fin 2) (reg : Fin 3) (w : Word)
  /-- DI_EV_WRITE (R232): A host write of CH_DI_EV is journalled and restarts the rate-limit bucket. -/
  | diEvWrite (r : Req) (n : Fin 256) (w : Word)
  /-- MOD_IRQ_CLEAR (R215): A W1C write to MOD_IRQ clears bits, and IRQ_N is released when no enabled pair remains. -/
  | modIrqClear (r : Req) (w : Word)
  /-- DIP_REQUEST (R219): A write of MOD_DIP.GO requests a dip, which takes a FREE bank or is refused. -/
  | dipRequest (r : Req) (w : Word)
  /-- DIP_LATCH (R218): At the latch tick every dip item is fixed as of that tick. -/
  | dipLatch (b : Fin 2)
  /-- DIP_BANK_HELD (R221): A FILLING bank becomes HELD, a DIP pennant is raised and MOD_IRQ.DIP is set. -/
  | dipBankHeld (b : Fin 2)
  /-- DIP_RELEASE (R223): A write of 1 to EV_DIP_STAT.REL0 or REL1 makes a HELD bank FREE. -/
  | dipRelease (r : Req) (w : Word)
  /-- Q_CFG_WRITE (R233): A host write of Q_CFG that changes ESIZE or DEPTH re-places the queues and empties those that move. -/
  | qCfgWrite (r : Req) (q : Fin 128) (w : Word)
  /-- Q_POP_LO (R244): A read of Q_POP_LO removes the head entry into the requester's shadow and returns word 0, or the empty marker. -/
  | qPopLo (r : Req) (q : Fin 128)
  /-- Q_POP_HI (R245): A read of Q_POP_HI returns word 1 of the shadow and evaluates NEWER afresh. -/
  | qPopHi (r : Req) (q : Fin 128)
  /-- Q_POP_STREAM (R246): A read of Q_POP_STREAM returns the next word of the shadow, or pops the next entry. -/
  | qPopStream (r : Req) (q : Fin 128)
  /-- LOG_SCAN (R259): At start or takeover the log engine scans its region for the newest sector and the first erased record, then writes a RESUME record. -/
  | logScan (r : Fin 8)
  /-- LOG_RECORD_WRITE (R256): An entry at the log head is programmed as a record, SKIP or PART run in the region's current sector. -/
  | logRecordWrite (r : Fin 8) (q : Fin 128)
  /-- LOG_SECTOR_OPEN (R259): The log engine erases the next sector and writes its header. -/
  | logSectorOpen (r : Fin 8) (q : Fin 128)
  /-- TU_RATE_WRITE (R263): A host write of TU_RATE sets RATE while the source is FREE, and is otherwise ignored with SET_DENIED. -/
  | tuRateWrite (r : Req) (w : Word)
  /-- TU_STEP (R264): A write of TU_STEP adds a signed phase step to TU_NOW when the source allows it. -/
  | tuStep (r : Req) (w : Word)
  /-- TU_SET (R265): A commit of TU_SET steps TU_NOW to the written value when the source allows it. -/
  | tuSet (r : Req) (w : Word)
  /-- TU_SOURCE_CHANGE (R267): A change of TU_SRC takes effect at once and puts the time unit into ACQUIRING. -/
  | tuSourceChange (r : Req) (w : Word)
  /-- TU_CAN_REF_RECEIVE (R273): A follower receives a reference message and forms a servo sample when its SEQ follows on. -/
  | tuCanRefReceive (x : Frame)
  /-- RING_TIME_FRAME (R277): A module receives a time frame, forwards it with added latency and with source RING forms a sample or rejects it. -/
  | ringTimeFrame (x : Fin 2) (f : RFrame) (frac : Byte) (delay : BitVec 32)
  /-- SCHEDULE_FIRE (R280): TU_NOW reaches a schedule's NEXT, the schedule fires once by its kind, and NEXT advances, counting misses. -/
  | scheduleFire (j : Fin 16)
  /-- SCHEDULE_WRITE (R280): A write of TU_SCH_CFG that changes KIND, or a commit of TU_SCH_PER or TU_SCH_PHASE, recomputes NEXT. -/
  | scheduleWrite (r : Req) (j : Fin 16) (reg : SchReg) (w : Word)
  /-- TU_TOKEN_GO (R283): A write of TU_TOKEN with GO on the head requests a SYNC or DIP token with its target. -/
  | tuTokenGo (r : Req) (w : Word)
  /-- RING_TOKEN_RECEIVE (R284): A module acts on the first copy of a SYNC or DIP token, and ignores duplicates or tokens received while unlocked. -/
  | ringTokenReceive (x : Fin 2) (f : RFrame)
  /-- CAN_MODE_CHANGE (R291): A change of CAN_CFG.MODE takes effect at the end of the frame in progress. -/
  | canModeChange (p : Fin 4)
  /-- CAN_INTEGRATED (R291): After 11 consecutive recessive bits a port that is integrating takes part in the bus. -/
  | canIntegrated (p : Fin 4)
  /-- CAN_FRAME_RECEIVE (R297): A frame received without error passes through the filter pairs and is delivered to its targets. -/
  | canFrameReceive (p : Fin 4) (x : Frame)
  /-- LVB_LOCK_READ (R304): A read of word 0 of a latest-value buffer locks it for the requester. -/
  | lvbLockRead (r : Req) (p : Fin 4) (b : Fin 32)
  /-- LVB_STAT_READ (R304): A read of LVB_STAT returns the status and releases the requester's lock, promoting a shadow frame. -/
  | lvbStatRead (r : Req) (p : Fin 4) (b : Fin 32)
  /-- LVB_LOCK_TIMEOUT (R304): A lock not released within 1 ms is released by the port with TMO set. -/
  | lvbLockTimeout (r : Req) (p : Fin 4) (b : Fin 32)
  /-- CAN_TX_GO (R305): CAN_TX_CMD OP GO copies the requester's staging area into the transmit queue, or refuses with FORMAT or FULL. -/
  | canTxGo (r : Req) (p : Fin 4) (w : Word)
  /-- CAN_TX_FLUSH (R310): CAN_TX_CMD OP FLUSH abandons the host's entries that are not in an attempt. -/
  | canTxFlush (r : Req) (p : Fin 4)
  /-- CAN_ATTEMPT_START (R307): The port chooses the next entry by reference message, PRIO and age, and starts an attempt. -/
  | canAttemptStart (p : Fin 4)
  /-- CAN_ATTEMPT_SUCCESS (R309): An attempt completes without error, the entry leaves the queue, and a TX_DONE record is written when reported. -/
  | canAttemptSuccess (p : Fin 4)
  /-- CAN_ATTEMPT_ERROR (R308): An attempt ends in an error, updating error counters, ALONE and ID_CLASH counts, and possibly abandoning the entry. -/
  | canAttemptError (p : Fin 4) (e : CanErr)
  /-- CAN_ARBITRATION_LOST (R308): An attempt loses arbitration and the entry is abandoned at its ARB_RETRY limit. -/
  | canArbitrationLost (p : Fin 4)
  /-- CAN_BUSOFF_RECOVERY (R312): After 128 occurrences of 11 recessive bits a bus-off port recovers and writes a RECOVERED record. -/
  | canBusoffRecovery (p : Fin 4)
  /-- CAN_SLEEP_REQUEST (R318): A write of CAN_SLEEP.REQ = 1 puts the port to sleep at the end of the frame in progress. -/
  | canSleepRequest (r : Req) (p : Fin 4) (w : Word)
  /-- CAN_WAKE_HOST (R319): A write of CAN_SLEEP.REQ = 0 wakes the port. -/
  | canWakeHost (r : Req) (p : Fin 4) (w : Word)
  /-- CAN_WAKE_EDGE (R319): A dominant level of at least 5 µs wakes a port in EDGE mode. -/
  | canWakeEdge (p : Fin 4)
  /-- CAN_WAKE_FRAME (R319): A Classical frame that matches an enabled wake filter wakes a port in FRAME mode. -/
  | canWakeFrame (p : Fin 4) (x : Frame)
  /-- CTX_KICK (R360): CTX_CTL OP KICK triggers the context with cause KICK and value ARG. -/
  | ctxKick (r : Req) (c : Fin 160) (arg : BitVec 16)
  /-- CTX_ABORT (R360): CTX_CTL OP ABORT ends a run in progress FAULTED with ABORTED. -/
  | ctxAbort (r : Req) (c : Fin 160)
  /-- CTX_RESET (R360): CTX_CTL OP RESET returns an idle, done or faulted context to IDLE. -/
  | ctxReset (r : Req) (c : Fin 160)
  /-- SLICE_EXPIRY (R340): An engine that has executed SLICE × 64 instructions passes the context back to READY. -/
  | sliceExpiry (e : Fin 8)
  /-- RUNMAX_EXPIRY (R342): A run reaches RUNMAX seconds and ends FAULTED with RUNMAX. -/
  | runmaxExpiry (c : Fin 160)
  /-- CTX_INBOX_FRAME (R344): A frame delivered to a context enters its inbox and is evaluated by a waiting EXPECT or transfer. -/
  | ctxInboxFrame (c : Fin 160) (p : Fin 4) (k : Fin 64) (x : Frame)
  /-- EXPECT_TIMEOUT (R346): An EXPECT's timeout or timer passes with no outcome decided, and TIMEOUT is decided. -/
  | expectTimeout (c : Fin 160)
  /-- BACKOFF_EXPIRY (R351): A retry backoff ends: the inbox is emptied, the resync routine is called and execution continues at the retry point. -/
  | backoffExpiry (c : Fin 160)
  /-- CTX_WAIT_EXPIRY (R376): A context's WAIT or ALIGN deadline is reached and it becomes READY. -/
  | ctxWaitExpiry (c : Fin 160)
  /-- CHECKPOINT_COMMITTED (R353): The journal epoch carrying a checkpoint or ONCE record commits and the waiting context becomes READY. -/
  | checkpointCommitted (c : Fin 160)
  /-- CTX_UNBLOCK (R335): The resource a BLOCKED context waits for becomes available and the context becomes READY. -/
  | ctxUnblock (c : Fin 160)
  /-- HOIST_CACHE_FILL_DONE (R367): A hoist cache line fill from flash completes or fails, and the waiting context continues or ends FETCH_ERR. -/
  | hoistCacheFillDone (a : BitVec 26) (ok : Bool)
  /-- XFER_TIMER_EXPIRY (R394): An ISO 15765-2 timer of a transfer expires and decides TIMEOUT or sends the next flow control. -/
  | xferTimerExpiry (c : Fin 160)
  /-- HOIST_MEMORY_WRITE (R368): A host write to hoist memory is applied to both domains while CFG is 0, and refused otherwise. -/
  | hoistMemoryWrite (r : Req) (i : BitVec 16) (w : Word)
  /-- JMP (R374): Jumps to this address + 4 × K. -/
  | jmp (e : Fin 8)
  /-- BR (R372): Jumps when condition D holds. -/
  | br (e : Fin 8)
  /-- CALL (R374): Saves the return offset in V15 and jumps. -/
  | call (e : Fin 8)
  /-- RET (R374): Continues at CTX_PROG + V[D]. -/
  | ret (e : Fin 8)
  /-- LOOP (R374): Decrements V[D] and jumps while it is not 0. -/
  | loop (e : Fin 8)
  /-- END (R374): Ends the run DONE with VALUE V0. -/
  | endRun (e : Fin 8)
  /-- FAIL (R374): Ends the run FAULTED with code FAIL and VALUE op2. -/
  | fail (e : Fin 8)
  /-- WAIT (R376): Waits a time or until a timer expires. -/
  | wait (e : Fin 8)
  /-- ALIGN (R376): Waits until TU_NOW reaches the next multiple of op2 units. -/
  | align (e : Fin 8)
  /-- TSET (R376): Sets or clears a context timer deadline. -/
  | tset (e : Fin 8)
  /-- TNOW (R376): Loads TU_NOW into variables. -/
  | tnow (e : Fin 8)
  /-- MOVI (R377): Loads an immediate or extension word into V[D]. -/
  | movi (e : Fin 8)
  /-- MOV (R377): Copies op2 into V[D]. -/
  | mov (e : Fin 8)
  /-- ADD (R377): Adds op2 to V[A] into V[D], setting flags. -/
  | add (e : Fin 8)
  /-- SUB (R377): Subtracts op2 from V[A] into V[D], setting flags. -/
  | sub (e : Fin 8)
  /-- AND (R377): Bitwise AND into V[D]. -/
  | and (e : Fin 8)
  /-- OR (R377): Bitwise OR into V[D]. -/
  | or (e : Fin 8)
  /-- XOR (R377): Bitwise XOR into V[D]. -/
  | xor (e : Fin 8)
  /-- SHL (R377): Shifts V[A] left into V[D]. -/
  | shl (e : Fin 8)
  /-- SHR (R377): Shifts V[A] right logically into V[D]. -/
  | shr (e : Fin 8)
  /-- SAR (R377): Shifts V[A] right arithmetically into V[D]. -/
  | sar (e : Fin 8)
  /-- CMP (R377): Sets the flags of V[A] − op2. -/
  | cmp (e : Fin 8)
  /-- LDB (R378): Loads N bytes from the current frame or the variable array into V[D], setting F past the end. -/
  | ldb (e : Fin 8)
  /-- STB (R378): Stores the low N bytes of V[D] into the variable array. -/
  | stb (e : Fin 8)
  /-- FIELD (R377): Extracts a bit field of V[A] into V[D]. -/
  | field (e : Fin 8)
  /-- RDR (R379): Reads a register as the engine's requester into V[D]. -/
  | rdr (e : Fin 8)
  /-- WRR (R379): Writes V[D] to a register in a permitted block, or is refused. -/
  | wrr (e : Fin 8)
  /-- SEND (R381): Sends a message literal to the bound CAN port or over S2. -/
  | send (e : Fin 8)
  /-- SENDV (R381): Sends a frame whose data come from the variable array. -/
  | sendv (e : Fin 8)
  /-- EXPECT (R346): Waits for an outcome under an expectation descriptor. -/
  | expect (e : Fin 8)
  /-- EXPECTANY (R386): Waits for an outcome under a list of up to four descriptors. -/
  | expectany (e : Fin 8)
  /-- FLUSH (R381): Empties the inbox, discards latched events or abandons the context's own queued entries. -/
  | flush (e : Fin 8)
  /-- XFER_TX (R392): Sends a message under ISO 15765-2. -/
  | xferTx (e : Fin 8)
  /-- XFER_RX (R393): Receives a message under ISO 15765-2 into a reservation in the result queue. -/
  | xferRx (e : Fin 8)
  /-- CVSTART (R395): Takes the bound CV unit and sets its running value to INIT. -/
  | cvstart (e : Fin 8)
  /-- CVFEED (R395): Feeds bytes to the held CV unit. -/
  | cvfeed (e : Fin 8)
  /-- CVCHK (R395): Finishes the CV value, compares it and releases the unit. -/
  | cvchk (e : Fin 8)
  /-- DOUT (R396): Writes CH_DO_CMD.ON of a DO channel. -/
  | dout (e : Fin 8)
  /-- AOUT (R396): Writes CH_AO_SET of an analog output. -/
  | aout (e : Fin 8)
  /-- DIN (R396): Reads a channel's level, counter or latest value into variables. -/
  | din (e : Fin 8)
  /-- AIN (R396): Requests an injected conversion and waits for its result. -/
  | ain (e : Fin 8)
  /-- PUSH (R397): Writes variables or the current frame to the result queue, or commits or discards a reservation. -/
  | push (e : Fin 8)
  /-- PENNANT (R397): Raises a hoist pennant of type 0x80–0xFF. -/
  | pennant (e : Fin 8)
  /-- CHECKPOINT (R353): Writes a checkpoint record and waits for its commit. -/
  | checkpoint (e : Fin 8)
  /-- ONCE (R354): Writes a ONCE record, waits for its commit and opens a ONCE step. -/
  | once (e : Fin 8)
  /-- SIGNAL (R357): Writes a signal record with VALUE op2. -/
  | signal (e : Fin 8)
  /-- S0_NOP (R404): A complete NOP frame carries the reply of the previous frame and does nothing. -/
  | s0Nop (cmd : Word) (addr : Word) (room : List Word) (crc : Word) (late : List Nat) (extra : Bool)
  /-- S0_READ (R406): A complete READ frame performs its reads in address order, and its values are carried in the next frame's reply. -/
  | s0Read (cmd : Word) (addr : Word) (room : List Word) (crc : Word) (late : List Nat) (extra : Bool)
  /-- S0_WRITE (R406): A complete WRITE frame applies its words in address order, each refused or applied. -/
  | s0Write (cmd : Word) (addr : Word) (data : List Word) (crc : Word) (late : List Nat) (extra : Bool)
  /-- S0_MODE (R402): A MODE frame switches S0 between 1-1-1 and 4-4-4 at the next fall of select, or is refused. -/
  | s0Mode (cmd : Word) (addr : Word) (data : Word) (crc : Word) (late : List Nat) (extra : Bool)
  /-- S0_FRAME_ABORT (R415): S0_CS_N rises before the frame's last counted word is whole, and nothing is applied. -/
  | s0FrameAbort (ws : List Word) (n : Nat) (late : List Nat)
  /-- S0_FRAME_TIMEOUT (R416): A frame still open after 1 s is ended as an abort. -/
  | s0FrameTimeout (ws : List Word) (n : Nat) (late : List Nat)
  /-- FLASH_PAGE_PROGRAM (R422): A page piece of a window write is programmed and polled until done, failed or timed out. -/
  | flashPageProgram (o : Fin 3)
  /-- SP1_ERASE (R424): SP1_CMD OP ERASE erases the block at SP1_ADDR. -/
  | sp1Erase (r : Req) (etype : Fin 4) (cs : Fin 2)
  /-- SP1_RAW (R424): SP1_CMD OP RAW sends one raw frame on S1, or is refused. -/
  | sp1Raw (r : Req) (cs : Fin 2)
  /-- SP1_OP_DONE (R424): An SP1_CMD operation completes and SP1_STAT reports DONE and ERR, and a RAW on CS0 empties the hoist cache. -/
  | sp1OpDone (err : Fin 3) (rx : List Byte) (chg : List (Nat × Byte))
  /-- S2_GO (R430): SP2_CMD GO starts a host master transfer on S2, or is refused. -/
  | s2Go (r : Req) (ss : Fin 4) (cnt : Fin 256)
  /-- S2_TRANSFER_END (R430): An S2 master transfer ends, received words land in SP2_RX or the context's inbox, and S2 is freed. -/
  | s2TransferEnd (rx : List Word)
  /-- S2_SLAVE_FRAME_END (R432): A slave frame ends and its words are delivered to the queue or context, with FRAG for a partial word. -/
  | s2SlaveFrameEnd (rx : List Word) (frag : Bool)
  /-- S2_SLAVE_POST (R432): SP2_SLV_CMD POST posts a reply for the next slave frame. -/
  | s2SlavePost (r : Req) (cnt : Fin 32)
  /-- LINK_TRAIN_START (R451): A ring link starts training at step 1. -/
  | linkTrainStart (x : Fin 2)
  /-- LINK_TRAIN_STEP_DONE (R451): A ring training step of a link succeeds and the next step starts. -/
  | linkTrainStepDone (x : Fin 2) (v : Nat) (rt : List Nat)
  /-- LINK_TRAIN_TIMEOUT (R451): A ring training step times out, and the link retries, falls back or counts as having no partner. -/
  | linkTrainTimeout (x : Fin 2)
  /-- JOIN_LISTEN_EXPIRY (R449): After 2 ms of listening a module either stays in JOIN_WAIT or opens its bypass and trains. -/
  | joinListenExpiry (heard : Bool)
  /-- RING_RELOCK (R450): A returning module with matching epoch locks its receivers and opens its bypass. -/
  | ringRelock (epoch : BitVec 16)
  /-- PROBE (R453): A PROBE frame is answered or its reply completes a latency measurement. -/
  | probe (x : Fin 2) (f : RFrame) (a : BitVec 64) (r : BitVec 32)
  /-- REMEASURE (R453): A REMEASURE frame makes each module it passes re-measure its arrival link. -/
  | remeasure (x : Fin 2) (f : RFrame)
  /-- ENUM (R454): A member takes its address from the first ENUM, sends ROSTER and forwards ENUM. -/
  | enum (x : Fin 2) (f : RFrame)
  /-- ROSTER (R454): The head records a ROSTER frame in its roster and ends a side on LAST. -/
  | roster (x : Fin 2) (f : RFrame)
  /-- ENUM_DONE (R454): ENUM_DONE tells members the member count and whether the ring closed, setting hop counts and time ports. -/
  | enumDone (x : Fin 2) (f : RFrame)
  /-- LINK_DOWN (R458): A link loses symbol lock or sees too many code violations, returns to training and sends a LINK_DOWN alarm. -/
  | linkDown (x : Fin 2) (cv : Bool)
  /-- REROUTE (R459): A REROUTE frame makes members switch or restore their up and time ports. -/
  | reroute (x : Fin 2) (f : RFrame)
  /-- LINK_UP (R460): A link that completes latency again sends LINK_UP, and the head reroutes or marks it stray. -/
  | linkUp (x : Fin 2) (farEpoch : BitVec 16)
  /-- RETRAIN (R456): CSN_CMD OP RETRAIN on the head broadcasts a RETRAIN frame with a target tick. -/
  | retrain (r : Req) (w : Word)
  /-- RETRAIN_FRAME (R456): A module hears a RETRAIN frame and arms the retrain at its target tick. -/
  | retrainFrame (x : Fin 2) (f : RFrame)
  /-- RING_FRAME_FORWARD (R457): A frame not addressed to this module alone is forwarded cut-through or buffered, with CRC checking. -/
  | ringFrameForward (x : Fin 2) (f : RFrame) (crcOk : Bool)
  /-- PAUSE (R462): A PAUSE ordered set stops export frames on that port until it has been absent for 1 µs. -/
  | pause (x : Fin 2) (on : Bool)
  /-- RA_GO (R463): CSN_RA_CMD GO on the head sends a remote-access request, or ends at once. -/
  | raGo (r : Req) (w : Word)
  /-- RA_REQ (R464): A target executes a remote-access request as ring requester, or answers from its kept reply. -/
  | raReq (x : Fin 2) (f : RFrame)
  /-- RA_RSP (R465): The head receives a remote-access reply, fills CSN_RA_BUF and ends the command. -/
  | raRsp (x : Fin 2) (f : RFrame)
  /-- EXPORT_RECEIVE (R469): The head writes exported entries, joining segments, into its export queue. -/
  | exportReceive (x : Fin 2) (f : RFrame) (crcOk : Bool)
  /-- ALARM (R470): The head writes a received alarm as a record to its alarm queue and sets MOD_IRQ.RING. -/
  | alarm (x : Fin 2) (f : RFrame)
  /-- CV_START (R484): CV_CMD START takes the host hold and sets the running value to INIT. -/
  | cvStart (r : Req) (u : Fin 8)
  /-- CV_FINISH (R484): CV_CMD FINISH completes the value, writes CV_RESULT and ends the hold. -/
  | cvFinish (r : Req) (u : Fin 8)
  /-- CV_DMA (R485): CV_CMD DMA starts a pass over queue memory. -/
  | cvDma (r : Req) (u : Fin 8)
  /-- CV_ABORT (R484): CV_CMD ABORT discards the running value and stops any DMA. -/
  | cvAbort (r : Req) (u : Fin 8)
  /-- CV_DATA (R484): A write of CV_DATA feeds 4 bytes to the held unit. -/
  | cvData (r : Req) (u : Fin 8) (w : Word)
  /-- CV_DATA8 (R484): A write of CV_DATA8 feeds 1 byte to the held unit. -/
  | cvData8 (r : Req) (u : Fin 8) (w : Word)
  /-- CV_DMA_DONE (R485): A DMA pass completes and DMA_BUSY falls. -/
  | cvDmaDone (u : Fin 8)
  /-- CV_HOLD_TIMEOUT (R481): A host hold with no command for 100 ms ends with TMO. -/
  | cvHoldTimeout (u : Fin 8)
  /-- CV_CONFIG_WRITE (R483): A write of a CV configuration register applies, or is ignored with DENIED while the unit is in use. -/
  | cvConfigWrite (r : Req) (u : Fin 8) (reg : CvReg) (w : Word)
  /-- LOGIC_FEED_LOSS (R490): A logic feed below 0.85 V for 2 µs makes its domain ABSENT. -/
  | logicFeedLoss (d : Dom)
  /-- TILE_FEED_CHANGE (R491): A tile feed becomes OK or stops being OK after its qualification time. -/
  | tileFeedChange (t : Fin 16) (second : Bool) (ok : Bool) (carry : Fin 4)
  /-- TILE_POWER_LOSS (R585): The higher tile feed stays below brown-out for 100 µs and the tile loses power and state. -/
  | tilePowerLoss (t : Fin 16)
  /-- CLOCK_MONITOR_TRIP (R493): A domain's fabric clock stops or drifts for 10 µs and the domain is FENCED with CLOCK. -/
  | clockMonitorTrip (d : Dom)
  /-- HEARTBEAT_MISS (R493): Three missed or stalled heartbeats fence the domain with HEARTBEAT. -/
  | heartbeatMiss (d : Dom)
  /-- SELFCHECK_REPORT (R493): A domain reports a PLL unlock, uncorrectable error or failed slice and is FENCED. -/
  | selfcheckReport (d : Dom) (ecc : Bool)
  /-- DIGEST_FORM (R494): At the end of each millisecond each domain sends its output digest and corrupt-frame counts to the arbiter. -/
  | digestForm (d : Dom) (diff : BitVec 32) (bad : BitVec 16)
  /-- SELFCHECK_DONE (R495): The on-demand self-check ends, fencing a failed domain or raising DISAGREE. -/
  | selfcheckDone (failA : Bool) (failB : Bool)
  /-- TILE_CLOCK_SOURCE_SWITCH (R499): A tile's clock link delivers no edge for 2 periods and the tile takes edges from the other link. -/
  | tileClockSourceSwitch (t : Fin 16)
  /-- REJOIN_START (R503): A domain starts rejoining by reloading the image, training links and copying state. -/
  | rejoinStart (d : Dom)
  /-- REJOIN_COMPLETE (R503): A rejoining domain becomes IN_STEP at the next commit, or fails. -/
  | rejoinComplete (ok : Bool)
  /-- SWITCH (R509): SV_CMD OP SWITCH requests a SWITCH permit and starts a planned switchover. -/
  | switch (r : Req)
  /-- DOMTEST (R522): SV_CMD OP DOMTEST requests a permit and takes the standby offline for tests. -/
  | domtest (r : Req)
  /-- DOMTEST_END (R522): A DOMTEST ends and the standby rejoins, or is fenced with DOMTEST_FAIL. -/
  | domtestEnd (ok : Bool)
  /-- FEEDTEST (R514): SV_CMD OP FEEDTEST requests a feed test of one tile. -/
  | feedtest (r : Req) (t : Fin 16)
  /-- FEEDTEST_END (R514): The 10 ms feed test ends or fails early, marking a failed feed. -/
  | feedtestEnd (ok : Bool) (second : Bool)
  /-- LINKTRAIN (R522): SV_CMD OP LINKTRAIN retrains the standby's link to one tile and rejoins it. -/
  | linktrain (r : Req) (t : Fin 16)
  /-- NVMWRITE (R518): SV_CMD OP NVMWRITE requests the NVMWRITE permit. -/
  | nvmwrite (r : Req)
  /-- RELEASE (R518): SV_CMD OP RELEASE releases the NVMWRITE permit. -/
  | release (r : Req)
  /-- REJOIN (R504): SV_CMD OP REJOIN rejoins a FENCED domain. -/
  | rejoin (r : Req)
  /-- SCRUB (R512): The SECDED scrub reads a memory word and corrects or reports an error. -/
  | scrub (d : Dom) (m : Fin 4) (a : Word) (err : Fin 3) (pass : Bool)
  /-- BANK_MARCH (R512): Every 4 s the standby copies a queue bank to the spare, marches it and copies it back. -/
  | bankMarch (bad : Bool)
  /-- LOGIC_SLICE_TEST (R512): Every 10 ms the standby runs one logic self-test slice. -/
  | logicSliceTest (ok : Bool)
  /-- CAN_LOOPBACK_TEST (R512): Once a minute the standby loops back one port's settings on the test controller. -/
  | canLoopbackTest (ok : Bool)
  /-- BURGEE (R515): Every PERIOD seconds the active domain writes a burgee to its queue. -/
  | burgee (temps : Word)
  /-- WDOG_SERVICE (R517): A write of 0xA5 to MOD_WDOG.SERVICE services the watchdog and clears EXPIRED. -/
  | wdogService (r : Req)
  /-- POWER_REQ_RUN (R534): MOD_POWER.REQ RUN switches to RUN at an edge, or leaves DOZE. -/
  | powerReqRun (r : Req)
  /-- POWER_REQ_LEAN (R534): MOD_POWER.REQ LEAN switches to LEAN at an edge, or leaves DOZE. -/
  | powerReqLean (r : Req)
  /-- POWER_REQ_DOZE (R534): MOD_POWER.REQ DOZE stops acquisition and applies the DOZE safe states. -/
  | powerReqDoze (r : Req)
  /-- POWER_REQ_SLEEP (R535): MOD_POWER.REQ SLEEP waits for the module to be quiet before entering SLEEP. -/
  | powerReqSleep (r : Req)
  /-- WAKE_LAND_EDGE (R537): An edge on the WAKE land held for 50 µs wakes the module from DOZE or SLEEP. -/
  | wakeLandEdge (rising : Bool)
  /-- POWER_ON (R539): A first logic feed reaches 0.85 V with VDDIO present and the arbiter leaves reset. -/
  | powerOn (a : Bool) (b : Bool)
  /-- DOMAIN_RELEASE (R539): The arbiter, having read OTP, releases the domains whose feeds are OK and names the S1 driver. -/
  | domainRelease (a : Bool) (b : Bool)
  /-- TILE_LINK_TRAINED (R539): A tile link trains, image settings reach the tile and the IMAGE cause is released. -/
  | tileLinkTrained (t : Fin 16) (d : Dom)
  /-- TILE_LINK_RETRY (R540): A tile link that failed training is retried every 100 ms. -/
  | tileLinkRetry (t : Fin 16) (d : Dom)
  /-- COLD (R547): MOD_RESET OP COLD with the key causes a cold reset. -/
  | cold (r : Req) (key : BitVec 16)
  /-- WARM (R543): MOD_RESET OP WARM with the key resets both domains' runtime state while keeping the image and roles. -/
  | warm (r : Req) (key : BitVec 16)
  /-- TILE_RST (R544): TILE_RST GO with the key makes a per-tile reset. -/
  | tileRst (r : Req) (t : Fin 16) (key : BitVec 16)
  /-- CAN_RX_ERROR (R311): A port detects a protocol error, or meets a disabled format, while receiving a frame, and updates REC, error state, LEC and its counts, or BAD_CNT while asleep. -/
  | canRxError (p : Fin 4) (e : CanErr) (xl : Bool) (disabled : Bool)
  /-- RECEIVER_RELOCK (R453): A ring receiver that lost lock for less than 100 µs, as when a neighbour's bypass changes, locks again and the link's latency is re-measured within 1 ms. -/
  | receiverRelock (x : Fin 2)
  /-- TILE_LINK_LOSS (R176): A domain receives no valid frames on a tile link for more than 1 ms, so the tile's stream is lost to that domain, the standby can go OUT_OF_STEP and the module goes to half-mast. -/
  | tileLinkLoss (t : Fin 16) (d : Dom)
  /-- LOG_FLASH_DONE (R259): A program or erase that the log engine started on S1 completes, letting the engine write the sector header or next record, or fails and puts the region into error. -/
  | logFlashDone (r : Fin 8) (ok : Bool)
  /-- UNASSIGNED_OPCODE (R373): An engine fetches a word whose opcode is unassigned, including an erased word, executes nothing and ends the run with PROG_ERR. -/
  | unassignedOpcode (e : Fin 8)
  /-- IMAGE_REPORT_COMPARE (R54): The arbiter compares the two domains' slot, digest and reason reports and decides whether to apply, repeat selection, fence or enter NO_IMAGE. -/
  | imageReportCompare
  /-- SYNC_APPLY (R140): At the SYNC edge, every enabled chain is reset in all tiles at once and CA_SYNC_INFO and CA_SYNC_TS record it. -/
  | syncApply
  /-- AUTO_CAL_START (R153): With AUTO_CAL set, the module starts a calibration itself once the image has taken effect and the tile links are trained. -/
  | autoCalStart
  /-- CAL_PERMIT_GRANTED (R154): The CAL permit is granted, STATE becomes CAL_WAIT and the tiles finish or abandon their slots. -/
  | calPermitGranted
  /-- CAL_ENTER (R154): STATE becomes CAL, CAL markers are queued, the chains stop and the inputs switch to an internal short. -/
  | calEnter
  /-- CAL_END (R154): Calibration ends: the chains reset with a SYNC of source CAL, held injections run, the permit is released and RESULT is set. -/
  | calEnd
  /-- TU_CAN_REF_SEND (R270): Every PER × 10 ms a master queues a reference message carrying the stamp of the previous one. -/
  | tuCanRefSend
  /-- PPS_EDGE (R276): With source PPS, an edge on the SYNC land forms a servo sample within the window. -/
  | ppsEdge
  /-- RING_TIME_FRAME_SEND (R277): Every PER × 0.25 ms the head sends a time frame on each trained link. -/
  | ringTimeFrameSend
  /-- HOLDOVER_TIMEOUT (R268): A LOCKED time unit gets no valid sample for its holdover interval and enters HOLDOVER with RATE frozen. -/
  | holdoverTimeout
  /-- TOKEN_COPY_SEND (R283): The head sends a copy of a ring token at target − LEAD and then at 1 ms intervals, REP + 1 times. -/
  | tokenCopySend
  /-- ENGINE_DISPATCH (R339): A free engine takes up the highest-priority READY context in round-robin order. -/
  | engineDispatch
  /-- S0_EMPTY_FRAME (R415): S0_CS_N falls and rises with no SCK edge and the frame is counted as empty. -/
  | s0EmptyFrame
  /-- FLASH_WINDOW_READ_DONE (R414): A flash window read fills the S0 window buffer, ready for a repeated READ. -/
  | flashWindowReadDone
  /-- FLASH_WRITE_DONE (R422): The last page piece of a window write ends and WBUSY falls with DONE and ERR. -/
  | flashWriteDone
  /-- S2_MODF (R431): A low level on S2_SS0_N in multi-master mode ends any transfer and sets MODF. -/
  | s2Modf
  /-- S2_ROLE_CHANGE (R427): A change of SP2_CFG.ROLE takes effect once no transfer runs and S2_SS0_N is high. -/
  | s2RoleChange
  /-- RELOCK_TIMEOUT (R450): A receiver not locked within 1 ms closes the bypass and enters JOIN_WAIT with NO_RELOCK. -/
  | relockTimeout
  /-- ENUM_START (R454): The head increments its ring epoch and sends ENUM once its links are trained and ENUM_DELAY has passed. -/
  | enumStart
  /-- ENUM_TIMEOUT (R454): Enumeration of a side ends after 2 ms without a ROSTER frame. -/
  | enumTimeout
  /-- RETRAIN_EXECUTE (R456): At the retrain target tick each module drops its links, clears caps and restarts training. -/
  | retrainExecute
  /-- RA_TIMEOUT (R465): A remote-access request has no reply within TMO and is repeated or ends NO_REPLY. -/
  | raTimeout
  /-- EXPORT_SEND (R468): A member sends an export frame of queue entries upstream in its slot. -/
  | exportSend
  /-- ALARM_SEND (R470): A member sends an ALARM when an enabled MOD_IRQ bit rises, at most every 10 ms. -/
  | alarmSend
  /-- DIGEST_COMPARE (R495): The arbiter compares the two digests and resolves a mismatch as a link mismatch or by an on-demand self-check. -/
  | digestCompare
  /-- DISAGREE_CLEAR (R495): DISAGREE clears after 60 s without a mismatch. -/
  | disagreeClear
  /-- ARBITER_HEARTBEAT_LOSS (R496): The arbiter's heartbeat is missing for 1 ms, ARB_FAULT is set and FAULT_N asserted. -/
  | arbiterHeartbeatLoss
  /-- HALYARD_IMMEDIATE (R500): The standby receives and acknowledges an immediate message ahead of its effect. -/
  | halyardImmediate
  /-- IMMEDIATE_ACK_TIMEOUT (R500): An immediate message unacknowledged for 100 µs makes the standby OUT_OF_STEP. -/
  | immediateAckTimeout
  /-- JOURNAL_EPOCH_CLOSE (R502): The active domain closes a journal epoch and sends its commit record. -/
  | journalEpochClose
  /-- JOURNAL_COMMIT (R502): The standby applies an intact commit whole and acknowledges it. -/
  | journalCommit
  /-- JOURNAL_LAG_TIMEOUT (R502): A commit unacknowledged for 4 intervals makes the standby OUT_OF_STEP with JOURNAL. -/
  | journalLagTimeout
  /-- TAKEOVER (R505): The arbiter fences the old active domain, closes the outputs and assigns ACTIVE with a new epoch to the standby. -/
  | takeover
  /-- NEW_ACTIVE_READY (R506): The new active domain resumes from the last commit and the arbiter passes it the pads. -/
  | newActiveReady
  /-- SWITCHOVER_COMPLETE (R509): The final epoch commits and the arbiter hands ACTIVE to the standby. -/
  | switchoverComplete
  /-- SWITCH_WAIT_EXPIRY (R509): A switchover that cannot proceed within SWITCH_WAIT ends BUSY_CTX. -/
  | switchWaitExpiry
  /-- FEEDTEST_SCHEDULE (R514): Every FT_PER × 10 min the active domain requests a feed test of the next tile. -/
  | feedtestSchedule
  /-- WDOG_EXPIRY (R517): The watchdog period passes without a service, and every tile enters its WDOG safe state. -/
  | wdogExpiry
  /-- LEAN_SWITCH (R136): At an edge that is a multiple of 64 ticks, fM changes on every tile and the chains reset with a LEAN SYNC. -/
  | leanSwitch
  /-- SLEEP_ENTRY (R535): Once quiet, the module saves tile counters, puts ports to sleep, commits and powers the other domain down. -/
  | sleepEntry
  /-- SLEEP_ENTRY_TIMEOUT (R535): A SLEEP request not quiet within ENTRY_WAIT is refused with BUSY. -/
  | sleepEntryTimeout
  /-- IDLE_SLEEP_RETURN (R536): A woken module quiet for IDLE_SLEEP seconds returns to SLEEP. -/
  | idleSleepReturn
  /-- SLEEP_WAKE (R538): A wake cause in SLEEP starts the wake sequence in the retained domain. -/
  | sleepWake
  /-- WAKE_COMPLETE (R538): Wake completes: POWER becomes WAKE_TO, acquisition starts and contexts run. -/
  | wakeComplete
  /-- RESET_N (R542): RESET_N held low for 1 µs resets the arbiter logic, both domains and all tiles. -/
  | resetN
  /-- ARBITER_HEARTBEAT_RETURN (R516): The arbiter's heartbeat returns after being missing, ARB_FAULT and half-mast condition 3 clear and an ARB record with DETAIL returned is written. -/
  | arbiterHeartbeatReturn
  /-- TIME_LOCK_TIMEOUT (R455): Ring training step 7 reaches 200 ms without every member locked; the head returns to its normal time-frame period and a member that failed sets TIME_FAIL and runs on. -/
  | timeLockTimeout
  /-- S2_SLAVE_FRAME_START (R432): S2_SS0_N falls in the slave role, the time stamp is taken and the posted reply, or the repeated last word with UNDERRUN, is chosen for the frame. -/
  | s2SlaveFrameStart
  deriving DecidableEq, Repr

end Sys2Proof
end

