-- ==== Sys2Proof/Machine/Map.lean ====
section
/-! DEFINITION. Reading and writing of sparse stores in their one canonical form, and the bit-field,
sign and byte helpers that every unit uses. -/

namespace Sys2Proof.Machine

/-- What key `k` holds; `d` is what an unlisted key reads as. -/
def kget {α : Type} (d : α) : KMap α → Nat → α
  | [], _ => d
  | (j, v) :: m, k => if k = j then v else kget d m k

/-- Puts a pair in front of the first key above its own. -/
def kins {α : Type} (k : Nat) (v : α) : KMap α → KMap α
  | [] => [(k, v)]
  | (j, w) :: m => if k < j then (k, v) :: (j, w) :: m else (j, w) :: kins k v m

/-- Writes `v` at key `k`. A key that would hold `d` is taken out, so that equal contents are equal data. -/
def kset {α : Type} [DecidableEq α] (d : α) (m : KMap α) (k : Nat) (v : α) : KMap α :=
  if v = d then m.filter (fun p => p.1 ≠ k) else kins k v (m.filter (fun p => p.1 ≠ k))

/-- Every key of the store lies above `b`, the keys rise strictly, and nothing listed equals what its key
reads as unlisted (`dflt`). -/
def kwfAbove {α : Type} [DecidableEq α] (dflt : Nat → α) : Option Nat → KMap α → Bool
  | _, [] => true
  | b, (j, v) :: m =>
    (match b with
      | none => true
      | some x => decide (x < j)) && decide (v ≠ dflt j) && kwfAbove dflt (some j) m

/-- The canonical form of a store. -/
def kwf {α : Type} [DecidableEq α] (dflt : Nat → α) (m : KMap α) : Bool := kwfAbove dflt none m

/-- Bits `hi` to `lo` of a number. -/
def nbits (n hi lo : Nat) : Nat := n / 2 ^ lo % 2 ^ (hi + 1 - lo)

/-- Field [hi:lo] of a register word, as a number. -/
def bits (w : Word) (hi lo : Nat) : Nat := nbits w.toNat hi lo

/-- `w` with field [hi:lo] replaced by the low bits of `v`. -/
def setBits (w : Word) (hi lo v : Nat) : Word :=
  BitVec.ofNat 32 (w.toNat / 2 ^ (hi + 1) * 2 ^ (hi + 1) + v % 2 ^ (hi + 1 - lo) * 2 ^ lo + w.toNat % 2 ^ lo)

/-- Bit `i` of a word as a truth value. -/
def bitAt (w : Word) (i : Nat) : Bool := w.toNat.testBit i

/-- 1 for true, 0 for false. -/
def b2n (b : Bool) : Nat := if b then 1 else 0

/-- A number below 2^w read as two's complement. -/
def sext (w n : Nat) : Int := if n % 2 ^ w < 2 ^ (w - 1) then (n % 2 ^ w : Nat) else (n % 2 ^ w : Nat) - (2 ^ w : Nat)

/-- An integer as the w-bit number that represents it. -/
def toU (w : Nat) (i : Int) : Nat := (i % (2 ^ w : Nat)).toNat

/-- `i` limited to lo..hi. -/
def clampI (lo hi i : Int) : Int := if i < lo then lo else if hi < i then hi else i

/-- A number of `k` bytes, little-endian, as its bytes. -/
def leBytes : Nat → Nat → List Byte
  | 0, _ => []
  | k + 1, n => BitVec.ofNat 8 n :: leBytes k (n / 256)

/-- The number that little-endian bytes spell. -/
def leNat : List Byte → Nat
  | [] => 0
  | b :: r => b.toNat + 256 * leNat r

/-- The number that big-endian bytes spell. -/
def beNat (l : List Byte) : Nat := leNat l.reverse

/-- The bytes of little-endian words. -/
def wordsBytes (l : List Word) : List Byte := l.flatMap (fun w => leBytes 4 w.toNat)

/-- Bytes gathered into little-endian words; `k` bounds the number of words, the last is padded with 0. -/
def bytesWords : Nat → List Byte → List Word
  | 0, _ => []
  | _, [] => []
  | k + 1, l => BitVec.ofNat 32 (leNat (l.take 4)) :: bytesWords k (l.drop 4)

/-- A byte list as little-endian words, padded with 0x00 to whole words. -/
def packWords (l : List Byte) : List Word := bytesWords ((l.length + 3) / 4) l

/-- `w` as a word. -/
def wd (n : Nat) : Word := BitVec.ofNat 32 n

/-- A number assembled from fields (value, low bit). -/
def mk : List (Nat × Nat) → Nat
  | [] => 0
  | (v, lo) :: r => v * 2 ^ lo + mk r

end Sys2Proof.Machine
end

