-- ==== Sys2Proof/Machine/Sha3.lean ====
section
/-! DEFINITION. The hash functions of FIPS 202 that the chain of trust uses (spec/02, R49 to R51): SHA3-256, and the SHAKE functions inside ML-DSA. -/

namespace Sys2Proof.Machine

/-- A lane of the permutation's state. The state is the list of its 25 lanes; the lane in column `x` of row `y` stands at place x + 5y. -/
abbrev Lane := BitVec 64

def laneOf (s : List Lane) (x y : Nat) : Lane := s.getD (y % 5 * 5 + x % 5) 0

/-- A state given lane by lane, by column and row. -/
def eachLane (f : Nat → Nat → Lane) : List Lane := (List.range 25).map (fun i => f (i % 5) (i / 5))

/-- The column and row that the walk of ρ reaches after `t` moves from (1, 0). -/
def rhoPlace : Nat → Nat × Nat
  | 0 => (1, 0)
  | t + 1 => let p := rhoPlace t; (p.2, (2 * p.1 + 3 * p.2) % 5)

/-- How far ρ rotates the lane at a place: the triangular number of the move that reaches it, and 0 at (0, 0). -/
def rhoTurn (x y : Nat) : Nat :=
  (((List.range 24).find? (fun t => rhoPlace t = (x, y))).map (fun t => (t + 1) * (t + 2) / 2 % 64)).getD 0

/-- The register that gives the bits of ι, after `n` of its 255 steps. -/
def iotaReg : Nat → Nat
  | 0 => 1
  | n + 1 => let d := iotaReg n * 2; if 256 ≤ d then d ^^^ 0x171 else d

/-- The constant of round `r`: bit 2^j - 1 is the register's low bit after j + 7r steps. -/
def iotaLane (r : Nat) : Lane :=
  BitVec.ofNat 64 ((List.range 7).foldl (fun w j => w + iotaReg ((j + 7 * r) % 255) % 2 * 2 ^ (2 ^ j - 1)) 0)

/-- The parity of a column. -/
def parityAt (s : List Lane) (x : Nat) : Lane := (List.range 5).foldl (fun w y => w ^^^ laneOf s x y) 0

/-- Round `r`: θ, then ρ and π together, then χ and ι. -/
def permRound (s : List Lane) (r : Nat) : List Lane :=
  let par := (List.range 5).map (parityAt s)
  let th := eachLane (fun x y => laneOf s x y ^^^ par.getD ((x + 4) % 5) 0 ^^^ (par.getD ((x + 1) % 5) 0).rotateLeft 1)
  let rp := eachLane (fun x y => (laneOf th (x + 3 * y) x).rotateLeft (rhoTurn ((x + 3 * y) % 5) x))
  let ch := eachLane (fun x y => laneOf rp x y ^^^ (laneOf rp (x + 2) y &&& ~~~ laneOf rp (x + 1) y))
  (ch.headD 0 ^^^ iotaLane r) :: ch.drop 1

/-- The permutation of 24 rounds. -/
def permute (s : List Lane) : List Lane := (List.range 24).foldl permRound s

/-- Adds a block of bytes to the state and permutes it. -/
def absorbBlock (s : List Lane) (b : List Byte) : List Lane :=
  permute (s.zipIdx.map (fun p => p.1 ^^^ BitVec.ofNat 64 (leNat ((b.drop (8 * p.2)).take 8))))

/-- Absorbs `k` blocks of `rate` bytes. -/
def absorb (rate : Nat) : Nat → List Byte → List Lane → List Lane
  | 0, _, s => s
  | k + 1, l, s => absorb rate k (l.drop rate) (absorbBlock s (l.take rate))

/-- Squeezes `k` blocks of `rate` bytes. -/
def squeeze (rate : Nat) : Nat → List Lane → List Byte
  | 0, _ => []
  | k + 1, s => (s.flatMap (fun w => leBytes 8 w.toNat)).take rate ++ squeeze rate k (permute s)

/-- The bytes that pad a message of `n` bytes to whole blocks: `first` carries the function's suffix, the last byte's top bit ends the padding. -/
def padOf (rate n : Nat) (first : Byte) : List Byte :=
  let k := rate - n % rate
  (List.range k).map (fun i => (if i = 0 then first else 0) ||| (if i + 1 = k then 0x80 else 0))

/-- The sponge: `blocks` blocks of output. -/
def sponge (rate : Nat) (first : Byte) (blocks : Nat) (l : List Byte) : List Byte :=
  squeeze rate blocks (absorb rate (l.length / rate + 1) (l ++ padOf rate l.length first) (List.replicate 25 0))

/-- SHA3-256. -/
def sha3 (l : List Byte) : List Byte := (sponge 136 0x06 1 l).take 32

/-- SHAKE256 with `n` bytes of output, and SHAKE128 with `k` blocks of 168 bytes. -/
def shake256 (n : Nat) (l : List Byte) : List Byte := (sponge 136 0x1F ((n + 135) / 136) l).take n
def shake128 (k : Nat) (l : List Byte) : List Byte := sponge 168 0x1F k l

end Sys2Proof.Machine
end

