-- ==== Sys2Proof/Machine/MlDsa.lean ====
section
/-! DEFINITION. Verification of ML-DSA-44 (FIPS 204), which accepts or refuses an image's signature (spec/02, R49). Polynomials are lists of 256
coefficients modulo `dsaQ`. Where FIPS 204 samples from a stream without end, a bounded number of blocks is drawn: a stream that needs more occurs for no message
that a test could find. -/

namespace Sys2Proof.Machine

/-- The parameters of ML-DSA-44: the modulus, the range of the masks, twice the low-order rounding range, the largest norm of the response, the number of hint
bits. -/
def dsaQ : Nat := 8380417
def dsaGamma1 : Nat := 2 ^ 17
def dsaAlpha : Nat := 2 * 95232
def dsaZMax : Nat := dsaGamma1 - 78
def dsaOmega : Nat := 80

/-- A power modulo q, the exponent's bits taken one by one; `k` bounds them. -/
def powQ : Nat → Nat → Nat → Nat
  | 0, _, _ => 1
  | k + 1, b, e => (if e % 2 = 1 then b else 1) * powQ k (b * b % dsaQ) (e / 2) % dsaQ

/-- The eight bits of `n` in reverse. -/
def bitRev8 (n : Nat) : Nat := (List.range 8).foldl (fun r i => r + n / 2 ^ i % 2 * 2 ^ (7 - i)) 0

/-- The odd power of 1753 at which place `i` of a transform evaluates. -/
def rootAt (i : Nat) : Nat := powQ 9 1753 (2 * bitRev8 i + 1)

/-- The value of a polynomial at `x`. -/
def polyAt (x : Nat) (p : List Nat) : Nat := p.foldr (fun c v => (c + x * v) % dsaQ) 0

/-- The transform of a polynomial: its values at the 256 roots, in the order of FIPS 204. -/
def dsaNtt (p : List Nat) : List Nat := (List.range 256).map (fun i => polyAt (rootAt i) p)

/-- The polynomial that has a transform: the sum over places of value times root^(-j), divided by 256. -/
def dsaInv (v : List Nat) : List Nat :=
  (List.range 256).map (fun j =>
    (v.zipIdx.foldl (fun a p => (a + p.1 * powQ 10 (rootAt p.2) (512 - j)) % dsaQ) 0) * powQ 23 256 (dsaQ - 2) % dsaQ)

/-- Place by place: sum, product, difference of polynomials. -/
def polyAdd (a b : List Nat) : List Nat := (a.zip b).map (fun p => (p.1 + p.2) % dsaQ)
def polyMul (a b : List Nat) : List Nat := (a.zip b).map (fun p => p.1 * p.2 % dsaQ)
def polySub (a b : List Nat) : List Nat := (a.zip b).map (fun p => (p.1 + dsaQ - p.2) % dsaQ)

/-- Unpacks numbers of `w` bits, `n` of them, from little-endian bytes. -/
def unpackBits (w n : Nat) (l : List Byte) : List Nat :=
  let v := leNat l
  (List.range n).map (fun i => v / 2 ^ (w * i) % 2 ^ w)

/-- Coefficients below q from three-byte groups of a stream, the top bit of each dropped. -/
def rejectAbove (l : List Byte) : List Nat :=
  ((List.range (l.length / 3)).map (fun i => leNat ((l.drop (3 * i)).take 3) % 2 ^ 23)).filter (· < dsaQ)

/-- The transform of entry (r, s) of the public matrix. -/
def matrixAt (rho : List Byte) (r s : Nat) : List Nat := (rejectAbove (shake128 8 (rho ++ [BitVec.ofNat 8 s, BitVec.ofNat 8 r]))).take 256

/-- The challenge's places, from `j` on: `l` holds the stream after its first eight bytes, `signs` the sign bits left. -/
def ballFrom : Nat → Nat → Nat → List Byte → List Nat → List Nat
  | 0, _, _, _, c => c
  | k + 1, j, signs, l, c =>
    match l.dropWhile (fun b => decide (j < b.toNat)) with
    | [] => c
    | b :: l => ballFrom k (j + 1) (signs / 2) l ((c.set j (c.getD b.toNat 0)).set b.toNat (if signs % 2 = 1 then dsaQ - 1 else 1))

/-- The challenge polynomial of a seed: 39 coefficients of 1 or -1. -/
def challenge (seed : List Byte) : List Nat :=
  let h := shake256 (8 + 136 * 3) seed
  ballFrom 39 217 (leNat (h.take 8)) (h.drop 8) (List.replicate 256 0)

/-- The hint bits of polynomial `i`, as positions; `none` where the encoding is not the one of FIPS 204: `y` holds the 80 positions and the four ends. -/
def hintOf (y : List Byte) (i : Nat) : Option (List Nat) :=
  let last := fun (i : Nat) => (y.getD (dsaOmega + i) 0).toNat
  let lo := if i = 0 then 0 else last (i - 1)
  let hi := last i
  let l := ((y.take hi).drop lo).map (·.toNat)
  if hi < lo ∨ dsaOmega < hi ∨ ¬ (l.zip (l.drop 1)).all (fun p => decide (p.1 < p.2)) then none
  else if i = 3 ∧ ¬ ((y.take dsaOmega).drop hi).all (· == 0) then none
  else some l

/-- The high part of `r`, and its low part as an integer. -/
def dsaHigh (r : Nat) : Nat × Int :=
  let low : Int := if r % dsaAlpha ≤ dsaAlpha / 2 then (r % dsaAlpha : Nat) else (r % dsaAlpha : Nat) - (dsaAlpha : Nat)
  if (r : Int) - low = (dsaQ : Nat) - 1 then (0, low - 1) else ((((r : Int) - low) / (dsaAlpha : Nat)).toNat, low)

/-- The high part of `r` that a hint bit corrects. -/
def useHint (h : Bool) (r : Nat) : Nat :=
  let p := dsaHigh r
  if ¬ h then p.1 else if 0 < p.2 then (p.1 + 1) % 44 else (p.1 + 43) % 44

/-- The response's coefficient that a packed number stands for, as an integer. -/
def respOf (n : Nat) : Int := (dsaGamma1 : Nat) - (n : Int)

/-- Row `i` of the commitment that a signature claims: the public matrix times the response, less the challenge times the public key. -/
def claimedRow (rho t1 : List Byte) (c : List Nat) (z : List (List Nat)) (i : Nat) : List Nat :=
  let az := z.zipIdx.foldl (fun a p => polyAdd a (polyMul (matrixAt rho i p.2) p.1)) (List.replicate 256 0)
  let ti := (unpackBits 10 256 ((t1.drop (320 * i)).take 320)).map (fun n => n * 2 ^ 13 % dsaQ)
  dsaInv (polySub az (polyMul c (dsaNtt ti)))

/-- Whether ML-DSA-44 accepts: public key (1,312 bytes), message M', signature (2,420 bytes). -/
def dsaVerify (key msg sig : List Byte) : Bool :=
  let z : List (List Int) := (List.range 4).map (fun i => (unpackBits 18 256 ((sig.drop (32 + 576 * i)).take 576)).map respOf)
  let y := (sig.drop 2336).take 84
  let hints := (List.range 4).map (hintOf y)
  let seed := sig.take 32
  let zt := z.map (fun p => dsaNtt (p.map (fun x => (x % (dsaQ : Int)).toNat)))
  let c := dsaNtt (challenge seed)
  let rows := (List.range 4).map (fun i =>
    (claimedRow (key.take 32) (key.drop 32) c zt i).zipIdx.map (fun p => useHint (((hints.getD i none).getD []).contains p.2) p.1))
  let w1 := leBytes 768 ((rows.flatten.foldr (fun v a => v + 64 * a) 0))
  decide (key.length = 1312) && decide (sig.length = 2420) && hints.all (·.isSome) && z.all (fun p => p.all (fun x => decide (x.natAbs < dsaZMax)))
    && shake256 32 (shake256 64 (shake256 64 key ++ msg) ++ w1) == seed

end Sys2Proof.Machine
end

