-- ==== Sys2Proof/Machine/MlDsaSign.lean ====
section
/-! DEFINITION. Key generation and signing of ML-DSA-44 (FIPS 204), by which a domain's identity key comes about and signs attestation reports (spec/02, R59, R62). -/

namespace Sys2Proof.Machine

/-- A key pair as the seed of its generation gives it: the public seed, the signing key's secret, the two secret vectors, and the public vector's high and low
parts. Coefficients are modulo q. -/
structure DsaKeys where
  rho : List Byte
  secret : List Byte
  s1 : List (List Nat)
  s2 : List (List Nat)
  high : List (List Nat)
  low : List (List Nat)
  deriving DecidableEq, Repr

/-- An integer modulo q, and the size of a coefficient as the integer nearest 0 that it stands for. -/
def modQ (i : Int) : Nat := (i % (dsaQ : Int)).toNat
def sizeQ (n : Nat) : Nat := min n (dsaQ - n)

/-- A secret polynomial: coefficients -2 to 2 from the half bytes below 15 of a stream. -/
def secretPoly (seed : List Byte) (i : Nat) : List Nat :=
  let halves := (shake256 (136 * 4) (seed ++ leBytes 2 i)).flatMap (fun b => [b.toNat % 16, b.toNat / 16])
  ((halves.filter (· < 15)).take 256).map (fun b => modQ (2 - (b % 5 : Nat)))

/-- The public matrix times a vector of transforms, transformed back. -/
def matrixTimes (rho : List Byte) (v : List (List Nat)) : List (List Nat) :=
  (List.range 4).map (fun i => dsaInv (v.zipIdx.foldl (fun a p => polyAdd a (polyMul (matrixAt rho i p.2) p.1)) (List.replicate 256 0)))

/-- The low 13 bits of a coefficient as the integer nearest 0, modulo q, and the rest. -/
def splitLow (n : Nat) : Nat × Nat :=
  let r := n % 2 ^ 13
  if r ≤ 2 ^ 12 then (r, n / 2 ^ 13) else (dsaQ + r - 2 ^ 13, n / 2 ^ 13 + 1)

/-- Key generation from a seed of 32 bytes. -/
def dsaKeys (seed : List Byte) : DsaKeys :=
  let h := shake256 128 (seed ++ [4, 4])
  let rho := h.take 32
  let sp := (h.drop 32).take 64
  let s1 := (List.range 4).map (secretPoly sp)
  let s2 := (List.range 4).map (fun i => secretPoly sp (i + 4))
  let t := ((matrixTimes rho (s1.map dsaNtt)).zip s2).map (fun p => polyAdd p.1 p.2)
  { rho := rho, secret := h.drop 96, s1 := s1, s2 := s2, high := t.map (·.map (fun n => (splitLow n).2)), low := t.map (·.map (fun n => (splitLow n).1)) }

/-- Packs numbers of `w` bits into little-endian bytes. -/
def packBits (w : Nat) (l : List Nat) : List Byte := leBytes (l.length * w / 8) (l.foldr (fun v a => v + 2 ^ w * a) 0)

/-- The public key's 1,312 bytes. -/
def dsaPublic (k : DsaKeys) : List Byte := k.rho ++ k.high.flatMap (packBits 10)

/-- A mask polynomial. -/
def maskPoly (seed : List Byte) (i : Nat) : List Nat := (unpackBits 18 256 (shake256 576 (seed ++ leBytes 2 i))).map (fun n => modQ (respOf n))

/-- The hint's 84 bytes: the positions of each polynomial's bits, then where each polynomial's positions end. -/
def hintBytes (h : List (List Nat)) : List Byte :=
  let pos := h.flatten
  (pos ++ List.replicate (dsaOmega - pos.length) 0 ++ (List.range 4).map (fun i => ((h.take (i + 1)).flatten).length)).map (BitVec.ofNat 8)

/-- One attempt to sign, with the masks numbered from `kappa`; `none` where a bound fails. -/
def dsaAttempt (k : DsaKeys) (mu mask : List Byte) (kappa : Nat) : Option (List Byte) :=
  let y := (List.range 4).map (fun i => maskPoly mask (kappa + i))
  let w := matrixTimes k.rho (y.map dsaNtt)
  let seed := shake256 32 (mu ++ (w.flatMap (fun p => packBits 6 (p.map (fun n => (dsaHigh n).1)))))
  let c := dsaNtt (challenge seed)
  let times := fun (v : List (List Nat)) => v.map (fun p => dsaInv (polyMul c (dsaNtt p)))
  let z := (y.zip (times k.s1)).map (fun p => polyAdd p.1 p.2)
  let r := (w.zip (times k.s2)).map (fun p => polySub p.1 p.2)
  let ct := times k.low
  let hints := (r.zip ct).map (fun p => ((p.1.zip p.2).zipIdx.filter (fun x => (dsaHigh ((x.1.1 + x.1.2) % dsaQ)).1 ≠ (dsaHigh x.1.1).1)).map (·.2))
  if z.all (·.all (fun n => decide (sizeQ n < dsaZMax))) ∧ r.all (·.all (fun n => decide ((dsaHigh n).2.natAbs < dsaAlpha / 2 - 78)))
      ∧ ct.all (·.all (fun n => decide (sizeQ n < dsaAlpha / 2))) ∧ hints.flatten.length ≤ dsaOmega then
    some (seed ++ z.flatMap (fun p => packBits 18 (p.map (fun n => modQ (respOf n)))) ++ hintBytes hints)
  else none

/-- Attempts until one succeeds, at most `n`. -/
def dsaLoop (k : DsaKeys) (mu mask : List Byte) : Nat → Nat → Option (List Byte)
  | 0, _ => none
  | n + 1, kappa =>
    match dsaAttempt k mu mask kappa with
    | some l => some l
    | none => dsaLoop k mu mask n (kappa + 4)

/-- The signature of message M' with 32 random bytes. FIPS 204 lets a signer end after 814 attempts. -/
def dsaSign (k : DsaKeys) (msg rnd : List Byte) : Option (List Byte) :=
  let mu := shake256 64 (shake256 64 (dsaPublic k) ++ msg)
  dsaLoop k mu (shake256 64 (k.secret ++ rnd ++ mu)) 814 0

end Sys2Proof.Machine
end

