-- ==== Sys2Proof/Config.lean ====
section
/-! DEFINITION. What the spec leaves open and the model leaves without a value: constants with no body, of which
nothing can be proved but that they are what they are. -/

namespace Sys2Proof

/-- Whether the part is a PRX2560-XT, else a PRX2560-MT (R1): one per part. -/
opaque Config.gradeXt : Bool

/-- GRADE of `MOD_ID` (R28). -/
def Config.grade : BitVec 4 := if Config.gradeXt then 2 else 1

/-- A free value for the n-th use of one (assumption log 4): the spec gives the effect and not the value. -/
opaque Config.freeWord : Nat → BitVec 32

/-- The seed from which the identity key of a domain, `true` for B, was made at manufacture (R59): one per domain of a part. -/
opaque Config.idSeed : Bool → BitVec 256

/-- The vendor key hash that modules leave the factory with (R51), less one: a hash that is not 0. -/
opaque Config.vendorHash : Fin (2 ^ 256 - 2 + 1)

/-- The serial number that modules leave the factory with (R56): one per part. -/
opaque Config.serial : BitVec 128

end Sys2Proof
end

