-- ==== Sys2Proof/Machine/RegMap.lean ====
section
/-! DEFINITION. The register table of the address map (spec/18 and the register tables of chapters 01 to 17):
for every register its offset, its repetition, and its fields with access code (R4), reset value and retention
class (R6). Reads and writes of registers, resets and takeovers consult it. -/

namespace Sys2Proof.Machine

/-- Access codes of R4. -/
inductive Acc where
  | rw | ro | wo | w1c | rc | rwl
  deriving DecidableEq, Repr

/-- Retention classes of R6. -/
inductive Cls where
  | k | i | c | h | j | s
  deriving DecidableEq, Repr

/-- Items of a preset record whose value R178, R179, R583 and R201 give per preset. -/
inductive PrItem where
  | lean | order | ratio | norm | taps | dec | hbn | a1 | a2 | m2 | sh1 | sh2 | sh3 | sh4
  | supp | suppEff | leanNa | dcg | err | len | d | gd | tap
  deriving DecidableEq, Repr

/-- A reset value: a number, or one that depends on the register's indices. -/
inductive RVal where
  | n (v : Nat)
  | grade | chKind | chN | chA | qPolicy | qDepth | qEsize | facOfs | facGain
  | pr (x : PrItem)
  deriving DecidableEq, Repr

/-- Which channel positions a row of the channel block exists at (R90, R126): AO is positions 14 and 15. -/
inductive RKind where
  | any | di | do | an | ao
  deriving DecidableEq, Repr

/-- A field of a register: [hi:lo], access code, reset value, class. -/
structure FldDef where
  hi : Nat
  lo : Nat
  acc : Acc
  rst : RVal
  cls : Cls
  deriving DecidableEq, Repr

/-- A register, repeated `cnt` times at `st` bytes and `cnt2` times at `st2` bytes. -/
structure Row where
  off : Nat
  st : Nat
  cnt : Nat
  st2 : Nat
  cnt2 : Nat
  kind : RKind
  flds : List FldDef
  deriving DecidableEq, Repr

/-- A block of R551: base, stride, number of instances, bytes of one instance, registers. -/
structure Blk where
  base : Nat
  stride : Nat
  count : Nat
  size : Nat
  rows : List Row
  deriving DecidableEq, Repr

/-- Registers of block mod (spec chapters 01/02/07/16/17). -/
def rowsMod : List Row :=
  [
  -- MOD_ID (R28): PART, GRADE, REV_LETTER, REV_NUM
  ⟨0x0, 0, 1, 0, 1, .any, [.mk 31 16 .ro (.n 0x2560) .k, .mk 11 8 .ro .grade .k, .mk 7 4 .ro (.n 2) .k, .mk 3 0 .ro (.n 0) .k]⟩,
  -- MOD_STATE (R524): POWER, ROLE_A, ROLE_B, HALF_MAST, ACT_DOM
  ⟨0x4, 0, 1, 0, 1, .any, [.mk 31 28 .ro (.n 0) .s, .mk 27 26 .ro (.n 0) .s, .mk 25 24 .ro (.n 0) .s, .mk 23 23 .ro (.n 0) .s, .mk 22 22 .ro (.n 0) .s]⟩,
  -- MOD_RESET (R547): KEY, OP
  ⟨0x8, 0, 1, 0, 1, .any, [.mk 31 16 .wo (.n 0) .h, .mk 3 0 .wo (.n 0) .h]⟩,
  -- MOD_POWER (R548): ENTRY_WAIT, IDLE_SLEEP, WAKE_EN, WAKE_POL, BOOT, WAKE_TO, CFG_ADJ, RESULT, REQ
  ⟨0xC, 0, 1, 0, 1, .any, [.mk 31 24 .rwl (.n 0x0A) .i, .mk 23 16 .rwl (.n 0) .i, .mk 15 15 .rwl (.n 0) .i, .mk 14 14 .rwl (.n 0) .i, .mk 13 12 .rwl (.n 0) .i, .mk 11 10 .rwl (.n 0) .i, .mk 9 9 .ro (.n 0) .s, .mk 7 4 .ro (.n 0) .s, .mk 2 0 .wo (.n 0) .h]⟩,
  -- MOD_IRQ (R216): BITS
  ⟨0x10, 0, 1, 0, 1, .any, [.mk 11 0 .w1c (.n 0) .j]⟩,
  -- MOD_IRQ_EN (R217): BITS
  ⟨0x14, 0, 1, 0, 1, .any, [.mk 11 0 .rw (.n 0) .i]⟩,
  -- MOD_START (R549): CAUSE, STEP, FAIL, WAKE, WAKE_SRC, PREV, H_LOST, IGNORED
  ⟨0x18, 0, 1, 0, 1, .any, [.mk 31 28 .ro (.n 0) .s, .mk 27 24 .ro (.n 0) .s, .mk 23 20 .ro (.n 0) .s, .mk 19 16 .ro (.n 0) .s, .mk 15 12 .ro (.n 0) .s, .mk 11 8 .ro (.n 0) .s, .mk 3 3 .w1c (.n 0) .j, .mk 2 2 .w1c (.n 0) .h]⟩,
  -- MOD_DIP (R227): ID, REFUSED, AT, GO
  ⟨0x20, 0, 1, 0, 1, .any, [.mk 31 16 .rw (.n 0) .h, .mk 2 2 .w1c (.n 0) .h, .mk 1 1 .rw (.n 0) .h, .mk 0 0 .wo (.n 0) .h]⟩,
  -- MOD_DIP_TGT (R227): TGT
  ⟨0x28, 4, 2, 0, 1, .any, [.mk 31 0 .rw (.n 0) .h]⟩,
  -- MOD_WDOG (R525): SERVICE, EN, EXPIRED, CFG_ADJ, PERIOD
  ⟨0x30, 0, 1, 0, 1, .any, [.mk 31 24 .wo (.n 0) .h, .mk 23 23 .rwl (.n 0) .i, .mk 22 22 .ro (.n 0) .j, .mk 21 21 .ro (.n 0) .s, .mk 15 0 .rwl (.n 0x64) .i]⟩,
  -- MOD_XREAD (R29): MISS_CNT, MAX_LAT
  ⟨0x40, 0, 1, 0, 1, .any, [.mk 31 16 .rc (.n 0) .h, .mk 7 0 .rc (.n 0) .h]⟩,
  -- MOD_CFG_LOCK (R48): DENY_CNT, OTP, S0_RO, CFG
  ⟨0x48, 0, 1, 0, 1, .any, [.mk 31 16 .rc (.n 0) .h, .mk 2 2 .rwl (.n 0) .i, .mk 1 1 .rwl (.n 0) .i, .mk 0 0 .rwl (.n 0) .i]⟩]

/-- Registers of block sv (spec chapters 16). -/
def rowsSv : List Row :=
  [
  -- SV_CFG (R527): FT_PER, SWITCH_WAIT, AUTO_REJOIN, HM_FAULT, JEPOCH
  ⟨0x0, 0, 1, 0, 1, .any, [.mk 31 24 .rwl (.n 6) .i, .mk 23 16 .rwl (.n 0x32) .i, .mk 12 12 .rwl (.n 1) .i, .mk 11 11 .rwl (.n 1) .i, .mk 4 0 .rwl (.n 4) .i]⟩,
  -- SV_STAT (R526): ROLE_A, ROLE_B, STBY, ACT_DOM, HM_WHY, DISAGREE, ARB_FAULT, SWITCHING, CFG_ADJ, EPOCH
  ⟨0x4, 0, 1, 0, 1, .any, [.mk 31 30 .ro (.n 0) .s, .mk 29 28 .ro (.n 0) .s, .mk 27 25 .ro (.n 0) .s, .mk 24 24 .ro (.n 0) .s, .mk 23 20 .ro (.n 0) .s, .mk 19 19 .ro (.n 0) .s, .mk 18 18 .ro (.n 0) .s, .mk 17 17 .ro (.n 0) .s, .mk 16 16 .ro (.n 0) .s, .mk 15 0 .ro (.n 0) .s]⟩,
  -- SV_JSEQ (R528): JSEQ
  ⟨0x8, 0, 1, 0, 1, .any, [.mk 31 0 .ro (.n 0) .s]⟩,
  -- SV_JLAG (R528): MAX, LAST
  ⟨0xC, 0, 1, 0, 1, .any, [.mk 31 16 .rc (.n 0) .h, .mk 15 0 .ro (.n 0) .h]⟩,
  -- SV_FAIL (R528): CAUSE, DOM
  ⟨0x10, 0, 1, 0, 1, .any, [.mk 31 24 .ro (.n 0) .j, .mk 23 23 .ro (.n 0) .j]⟩,
  -- SV_FAIL_TS (R528): TS
  ⟨0x18, 4, 2, 0, 1, .any, [.mk 31 0 .ro (.n 0) .j]⟩,
  -- SV_CNT (R528): DISAGREE, LINKMISS
  ⟨0x20, 0, 1, 0, 1, .any, [.mk 15 8 .rc (.n 0) .h, .mk 7 0 .rc (.n 0) .h]⟩,
  -- SV_TKO (R528): TKO
  ⟨0x24, 0, 1, 0, 1, .any, [.mk 31 0 .ro (.n 0) .j]⟩,
  -- SV_CMD (R528): OP, TILE
  ⟨0x28, 0, 1, 0, 1, .any, [.mk 31 28 .wo (.n 0) .h, .mk 19 16 .wo (.n 0) .h]⟩,
  -- SV_PERMIT (R528): RESULT, CONFLICT, ACT, HELD
  ⟨0x2C, 0, 1, 0, 1, .any, [.mk 31 28 .ro (.n 0) .s, .mk 27 24 .ro (.n 0) .s, .mk 22 20 .ro (.n 0) .s, .mk 6 0 .ro (.n 0) .s]⟩,
  -- SV_BURGEE (R528): Q, PERIOD
  ⟨0x30, 0, 1, 0, 1, .any, [.mk 22 16 .rwl (.n 0x7F) .i, .mk 15 0 .rwl (.n 1) .i]⟩,
  -- SV_ECC (R528): CORR, UNCORR
  ⟨0x34, 0, 1, 0, 1, .any, [.mk 31 16 .rc (.n 0) .h, .mk 15 0 .rc (.n 0) .h]⟩]

/-- Registers of block tu (spec chapters 09). -/
def rowsTu : List Row :=
  [
  -- TU_NOW (R287): NOW
  ⟨0x0, 4, 2, 0, 1, .any, [.mk 31 0 .ro (.n 0) .s]⟩,
  -- TU_STAT (R285): STATE, SRC_EFF, STEP_CNT, REJ_CNT, EPOCH_SET, CLAMPED, SET_DENIED, STEPPED
  ⟨0x8, 0, 1, 0, 1, .any, [.mk 31 28 .ro (.n 0) .s, .mk 27 26 .ro (.n 0) .s, .mk 23 16 .rc (.n 0) .h, .mk 15 8 .rc (.n 0) .h, .mk 4 4 .ro (.n 0) .j, .mk 3 3 .ro (.n 0) .s, .mk 2 2 .w1c (.n 0) .h, .mk 1 1 .w1c (.n 0) .h]⟩,
  -- TU_SRC (R287): SRC
  ⟨0xC, 0, 1, 0, 1, .any, [.mk 1 0 .rwl (.n 0) .i]⟩,
  -- TU_RATE (R287): RATE
  ⟨0x10, 0, 1, 0, 1, .any, [.mk 31 0 .rw (.n 0) .s]⟩,
  -- TU_OFFSET (R287): OFF
  ⟨0x14, 0, 1, 0, 1, .any, [.mk 31 0 .ro (.n 0) .s]⟩,
  -- TU_SET (R287): SET
  ⟨0x18, 4, 2, 0, 1, .any, [.mk 31 0 .wo (.n 0) .h]⟩,
  -- TU_STEP (R287): STEP
  ⟨0x20, 0, 1, 0, 1, .any, [.mk 31 0 .wo (.n 0) .h]⟩,
  -- TU_SERVO (R286): STEP_THR, LOCK_THR, PSH, FSH
  ⟨0x24, 0, 1, 0, 1, .any, [.mk 31 16 .rwl (.n 0x800) .i, .mk 15 8 .rwl (.n 0x30) .i, .mk 7 4 .rwl (.n 3) .i, .mk 3 0 .rwl (.n 2) .i]⟩,
  -- TU_CAN_ID (R287): ID
  ⟨0x30, 0, 1, 0, 1, .any, [.mk 29 0 .rwl (.n 0) .i]⟩,
  -- TU_CAN_CFG (R287): CFG_ADJ, ROLE, PORT, PER
  ⟨0x34, 0, 1, 0, 1, .any, [.mk 31 31 .ro (.n 0) .s, .mk 25 24 .rwl (.n 0) .i, .mk 21 20 .rwl (.n 0) .i, .mk 15 0 .rwl (.n 0x64) .i]⟩,
  -- TU_CAN_COMP (R287): COMP
  ⟨0x38, 0, 1, 0, 1, .any, [.mk 23 0 .rwl (.n 0) .i]⟩,
  -- TU_CAN_STAT (R287): SEQ, SKIP_CNT, REF_CNT
  ⟨0x3C, 0, 1, 0, 1, .any, [.mk 31 24 .ro (.n 0) .h, .mk 23 16 .rc (.n 0) .h, .mk 15 0 .rc (.n 0) .h]⟩]
  ++ [
  -- TU_RING_CFG (R287): JUMP, PER
  ⟨0x40, 0, 1, 0, 1, .any, [.mk 15 8 .rwl (.n 8) .i, .mk 6 0 .rwl (.n 4) .i]⟩,
  -- TU_PPS_CFG (R287): WIN, COMP
  ⟨0x44, 0, 1, 0, 1, .any, [.mk 31 24 .rwl (.n 0x64) .i, .mk 23 0 .rwl (.n 0) .i]⟩,
  -- TU_TOKEN_CFG (R287): LEAD, REP
  ⟨0x48, 0, 1, 0, 1, .any, [.mk 31 8 .rwl (.n 0x1E00) .i, .mk 1 0 .rwl (.n 3) .i]⟩,
  -- TU_TOKEN (R287): ID, KIND, GO
  ⟨0x50, 0, 1, 0, 1, .any, [.mk 31 16 .wo (.n 0) .h, .mk 2 1 .wo (.n 0) .h, .mk 0 0 .wo (.n 0) .h]⟩,
  -- TU_TOKEN_TGT (R287): TGT
  ⟨0x58, 4, 2, 0, 1, .any, [.mk 31 0 .rw (.n 0) .h]⟩,
  -- TU_TOKEN_STAT (R287): LAST_ID, UNLOCK_CNT, LATE_CNT
  ⟨0x60, 0, 1, 0, 1, .any, [.mk 31 16 .ro (.n 0) .h, .mk 11 8 .rc (.n 0) .h, .mk 7 4 .rc (.n 0) .h]⟩]

/-- Registers of block sch (spec chapters 09). -/
def rowsSch : List Row :=
  [
  -- TU_SCH_CFG (R288): ARG, CFG_ADJ, FIRED, KIND
  ⟨0x0, 0, 1, 0, 1, .any, [.mk 31 16 .rw (.n 0) .i, .mk 6 6 .ro (.n 0) .i, .mk 5 5 .w1c (.n 0) .i, .mk 3 0 .rw (.n 0) .i]⟩,
  -- TU_SCH_MISS (R288): MISS
  ⟨0x4, 0, 1, 0, 1, .any, [.mk 15 0 .rc (.n 0) .h]⟩,
  -- TU_SCH_PER (R288): PER
  ⟨0x8, 4, 2, 0, 1, .any, [.mk 31 0 .rw (.n 0) .i]⟩,
  -- TU_SCH_PHASE (R288): PHASE
  ⟨0x10, 4, 2, 0, 1, .any, [.mk 31 0 .rw (.n 0) .i]⟩,
  -- TU_SCH_NEXT (R288): NEXT
  ⟨0x18, 4, 2, 0, 1, .any, [.mk 31 0 .ro (.n 0) .s]⟩]

/-- Registers of block cv (spec chapters 15). -/
def rowsCv : List Row :=
  [
  -- CV_CFG (R487): REFOUT, REFIN, WIDTH
  ⟨0x0, 0, 1, 0, 1, .any, [.mk 9 9 .rw (.n 0) .i, .mk 8 8 .rw (.n 0) .i, .mk 6 0 .rw (.n 0) .i]⟩,
  -- CV_STAT (R488): HOST, CTX_HOLD, REASON, CTX, CFG_ADJ, TKO, TMO, DENIED, REFUSED, DMA_BUSY, DONE
  ⟨0x4, 0, 1, 0, 1, .any, [.mk 31 31 .ro (.n 0) .s, .mk 30 30 .ro (.n 0) .s, .mk 27 24 .ro (.n 0) .h, .mk 23 16 .ro (.n 0) .s, .mk 6 6 .ro (.n 0) .s, .mk 5 5 .w1c (.n 0) .h, .mk 4 4 .w1c (.n 0) .h, .mk 3 3 .w1c (.n 0) .h, .mk 2 2 .w1c (.n 0) .h, .mk 1 1 .ro (.n 0) .s, .mk 0 0 .w1c (.n 0) .h]⟩,
  -- CV_CMD (R489): OP
  ⟨0x8, 0, 1, 0, 1, .any, [.mk 3 0 .wo (.n 0) .h]⟩,
  -- CV_DATA (R489): DATA
  ⟨0xC, 0, 1, 0, 1, .any, [.mk 31 0 .wo (.n 0) .h]⟩,
  -- CV_DATA8 (R489): DATA
  ⟨0x10, 0, 1, 0, 1, .any, [.mk 7 0 .wo (.n 0) .h]⟩,
  -- CV_DMA_LEN (R489): LEN
  ⟨0x14, 0, 1, 0, 1, .any, [.mk 23 0 .rw (.n 0) .h]⟩,
  -- CV_DMA_ADDR (R489): ADDR
  ⟨0x18, 0, 1, 0, 1, .any, [.mk 31 0 .rw (.n 0) .h]⟩,
  -- CV_POLY (R489): POLY
  ⟨0x20, 4, 2, 0, 1, .any, [.mk 31 0 .rw (.n 0) .i]⟩,
  -- CV_INIT (R489): INIT
  ⟨0x28, 4, 2, 0, 1, .any, [.mk 31 0 .rw (.n 0) .i]⟩,
  -- CV_XOROUT (R489): XOROUT
  ⟨0x30, 4, 2, 0, 1, .any, [.mk 31 0 .rw (.n 0) .i]⟩,
  -- CV_RESULT (R489): RESULT
  ⟨0x38, 4, 2, 0, 1, .any, [.mk 31 0 .ro (.n 0) .h]⟩]

/-- Registers of block bt (spec chapters 02). -/
def rowsBt : List Row :=
  [
  -- BT_STAT (R63): STATE, SLOT0_RES, SLOT1_RES, KEY_USED, SLOT, ID_SEL
  ⟨0x0, 0, 1, 0, 1, .any, [.mk 31 28 .ro (.n 0) .s, .mk 23 20 .ro (.n 1) .s, .mk 19 16 .ro (.n 1) .s, .mk 11 10 .ro (.n 3) .s, .mk 9 9 .ro (.n 0) .s, .mk 8 8 .rw (.n 0) .h]⟩,
  -- BT_IMG_VER (R62): VER
  ⟨0x4, 0, 1, 0, 1, .any, [.mk 31 0 .ro (.n 0) .s]⟩,
  -- BT_ROLL (R62): OTP, IMG
  ⟨0x8, 0, 1, 0, 1, .any, [.mk 23 16 .ro (.n 0) .s, .mk 7 0 .ro (.n 0) .s]⟩,
  -- BT_LOAD (R62): SKIP_CNT, TIME
  ⟨0xC, 0, 1, 0, 1, .any, [.mk 31 16 .ro (.n 0) .s, .mk 15 0 .ro (.n 0) .s]⟩,
  -- BT_CMD (R58): RESULT, BUSY, IGNORED, ARG, OP
  ⟨0x10, 0, 1, 0, 1, .any, [.mk 31 28 .ro (.n 0) .s, .mk 27 27 .ro (.n 0) .s, .mk 26 26 .w1c (.n 0) .h, .mk 7 4 .wo (.n 0) .h, .mk 3 0 .wo (.n 0) .h]⟩,
  -- BT_DIGEST (R62): DIGEST
  ⟨0x20, 4, 8, 0, 1, .any, [.mk 31 0 .ro (.n 0) .s]⟩,
  -- BT_ATT_NONCE (R62): NONCE
  ⟨0x40, 4, 8, 0, 1, .any, [.mk 31 0 .rw (.n 0) .h]⟩,
  -- BT_KEYBUF (R62): KEY
  ⟨0x80, 4, 8, 0, 1, .any, [.mk 31 0 .rw (.n 0) .h]⟩,
  -- BT_OTP (R62): OTP
  ⟨0x100, 4, 64, 0, 1, .any, [.mk 31 0 .ro (.n 0) .s]⟩,
  -- BT_IDKEY (R62): KEY
  ⟨0x200, 4, 328, 0, 1, .any, [.mk 31 0 .ro (.n 0) .s]⟩,
  -- BT_ATT_BUF (R62): ATT
  ⟨0x800, 4, 637, 0, 1, .any, [.mk 31 0 .ro (.n 0) .s]⟩]

/-- Registers of block sp0 (spec chapters 13). -/
def rowsSp0 : List Row :=
  [
  -- SP0_CFG (R438): RDLAT, QUAD_EN
  ⟨0x0, 0, 1, 0, 1, .any, [.mk 9 8 .rwl (.n 0) .i, .mk 0 0 .rwl (.n 0) .i]⟩,
  -- SP0_STAT (R438): FSEQ, QUAD
  ⟨0x4, 0, 1, 0, 1, .any, [.mk 31 24 .ro (.n 0) .s, .mk 8 8 .ro (.n 0) .s]⟩,
  -- SP0_CNT (R438): ABORT, CRC, UNDER, TRUNC
  ⟨0x8, 0, 1, 0, 1, .any, [.mk 31 24 .rc (.n 0) .h, .mk 23 16 .rc (.n 0) .h, .mk 15 8 .rc (.n 0) .h, .mk 7 0 .rc (.n 0) .h]⟩,
  -- SP0_CNT2 (R438): RETRY, OVCLK, EMPTY
  ⟨0xC, 0, 1, 0, 1, .any, [.mk 23 16 .rc (.n 0) .h, .mk 15 8 .rc (.n 0) .h, .mk 7 0 .rc (.n 0) .h]⟩]

/-- Registers of block sp1 (spec chapters 13). -/
def rowsSp1 : List Row :=
  [
  -- SP1_CFG (R439): DIV, RAW_EN, CS1_EN
  ⟨0x0, 0, 1, 0, 1, .any, [.mk 23 16 .rwl (.n 4) .i, .mk 8 8 .rwl (.n 0) .i, .mk 0 0 .rwl (.n 1) .i]⟩,
  -- SP1_WBASE (R439): CS, BASE
  ⟨0x4, 0, 1, 0, 1, .any, [.mk 31 31 .rw (.n 0) .h, .mk 28 16 .rw (.n 0) .h]⟩,
  -- SP1_STAT (R439): STATE, ERR, REFUSE, CFG_ADJ, IGNORED, CS1_ABSENT, WBUSY, DONE
  ⟨0x8, 0, 1, 0, 1, .any, [.mk 31 28 .ro (.n 0) .s, .mk 27 24 .ro (.n 0) .s, .mk 23 20 .ro (.n 0) .s, .mk 5 5 .ro (.n 0) .s, .mk 4 4 .w1c (.n 0) .s, .mk 3 3 .ro (.n 0) .s, .mk 1 1 .ro (.n 0) .s, .mk 0 0 .w1c (.n 0) .s]⟩,
  -- SP1_CMD (R439): OP, ETYPE, CS
  ⟨0xC, 0, 1, 0, 1, .any, [.mk 31 28 .wo (.n 0) .h, .mk 9 8 .wo (.n 0) .h, .mk 4 4 .wo (.n 0) .h]⟩,
  -- SP1_ADDR (R439): ADDR
  ⟨0x10, 0, 1, 0, 1, .any, [.mk 28 0 .rw (.n 0) .h]⟩,
  -- SP1_FRAME (R439): PATTERN, CMD16, ABYTES, DUMMY, WRITE, LEN
  ⟨0x14, 0, 1, 0, 1, .any, [.mk 31 28 .rw (.n 0) .h, .mk 27 27 .rw (.n 0) .h, .mk 25 24 .rw (.n 0) .h, .mk 20 16 .rw (.n 0) .h, .mk 11 11 .rw (.n 0) .h, .mk 8 0 .rw (.n 0) .h]⟩,
  -- SP1_RAWCMD (R439): CMD
  ⟨0x18, 0, 1, 0, 1, .any, [.mk 15 0 .rw (.n 0) .h]⟩,
  -- SP1_DISC (R439): PATTERN, SIZE, PAGE, ADDR4, VALID
  ⟨0x20, 4, 2, 0, 1, .any, [.mk 27 24 .ro (.n 0) .s, .mk 20 16 .ro (.n 0) .s, .mk 11 8 .ro (.n 0) .s, .mk 1 1 .ro (.n 0) .s, .mk 0 0 .ro (.n 0) .s]⟩,
  -- SP1_ERASE (R439): T4, T3, T2, T1
  ⟨0x28, 4, 2, 0, 1, .any, [.mk 31 24 .ro (.n 0) .s, .mk 23 16 .ro (.n 0) .s, .mk 15 8 .ro (.n 0) .s, .mk 7 0 .ro (.n 0) .s]⟩,
  -- SP1_BUF (R439): BUF
  ⟨0x100, 4, 64, 0, 1, .any, [.mk 31 0 .rw (.n 0) .h]⟩]

/-- Registers of block sp2 (spec chapters 13). -/
def rowsSp2 : List Row :=
  [
  -- SP2_CFG (R440): ROLE, FRAME, MM_EN, CPOL, CPHA, WLEN, DIV
  ⟨0x0, 0, 1, 0, 1, .any, [.mk 31 30 .rwl (.n 0) .i, .mk 29 29 .rwl (.n 0) .i, .mk 28 28 .rwl (.n 0) .i, .mk 27 27 .rwl (.n 0) .i, .mk 26 26 .rwl (.n 0) .i, .mk 20 16 .rwl (.n 7) .i, .mk 15 8 .rwl (.n 8) .i]⟩,
  -- SP2_SLV (R440): CTX_EN, CTX, Q_EN, Q
  ⟨0x4, 0, 1, 0, 1, .any, [.mk 31 31 .rwl (.n 0) .i, .mk 23 16 .rwl (.n 0) .i, .mk 15 15 .rwl (.n 0) .i, .mk 6 0 .rwl (.n 0) .i]⟩,
  -- SP2_STAT (R440): RESULT, MODF, FRAG, UNDERRUN, REFUSED, CFG_ADJ, CTX_HOLDS, BUSY
  ⟨0x8, 0, 1, 0, 1, .any, [.mk 31 28 .ro (.n 0) .h, .mk 7 7 .w1c (.n 0) .h, .mk 6 6 .w1c (.n 0) .h, .mk 5 5 .w1c (.n 0) .h, .mk 4 4 .w1c (.n 0) .h, .mk 3 3 .ro (.n 0) .h, .mk 2 2 .ro (.n 0) .h, .mk 1 1 .ro (.n 0) .h]⟩,
  -- SP2_CMD (R440): GO, SS, CNT
  ⟨0xC, 0, 1, 0, 1, .any, [.mk 31 31 .wo (.n 0) .h, .mk 25 24 .wo (.n 0) .h, .mk 7 0 .wo (.n 0) .h]⟩,
  -- SP2_FRAME (R440): PATTERN, CMD16, ABYTES, DUMMY, WRITE, LEN
  ⟨0x10, 0, 1, 0, 1, .any, [.mk 31 28 .rw (.n 0) .h, .mk 27 27 .rw (.n 0) .h, .mk 25 24 .rw (.n 0) .h, .mk 20 16 .rw (.n 0) .h, .mk 11 11 .rw (.n 0) .h, .mk 8 0 .rw (.n 0) .h]⟩,
  -- SP2_RAWCMD (R440): CMD
  ⟨0x14, 0, 1, 0, 1, .any, [.mk 7 0 .rw (.n 0) .h]⟩,
  -- SP2_TX (R440): TX
  ⟨0x100, 4, 64, 0, 1, .any, [.mk 31 0 .rw (.n 0) .h]⟩,
  -- SP2_RX (R440): RX
  ⟨0x200, 4, 64, 0, 1, .any, [.mk 31 0 .ro (.n 0) .s]⟩,
  -- SP2_SLV_TX (R440): TX
  ⟨0x300, 4, 32, 0, 1, .any, [.mk 31 0 .rw (.n 0) .h]⟩,
  -- SP2_SLV_CMD (R440): POST, CNT
  ⟨0x380, 0, 1, 0, 1, .any, [.mk 31 31 .wo (.n 0) .h, .mk 4 0 .wo (.n 0) .h]⟩]

/-- Registers of block csn (spec chapters 14). -/
def rowsCsn : List Row :=
  [
  -- CSN_CFG (R472): HEAD_SRC, RW_EN, ALARM_EN, GEN_MAX, ENUM_DELAY, EN
  ⟨0x0, 0, 1, 0, 1, .any, [.mk 31 30 .rwl (.n 0) .i, .mk 29 29 .rwl (.n 0) .i, .mk 28 28 .rwl (.n 0) .i, .mk 25 24 .rwl (.n 3) .i, .mk 23 16 .rwl (.n 0) .i, .mk 0 0 .rwl (.n 1) .i]⟩,
  -- CSN_STAT (R473): ADDR, N, STATE, RING, HEAD, HEALED, UP_PORT, TIME_PORT, ERR, CFG_ADJ, IGNORED
  ⟨0x4, 0, 1, 0, 1, .any, [.mk 31 24 .ro (.n 0xFF) .s, .mk 23 16 .ro (.n 0) .s, .mk 15 12 .ro (.n 0) .s, .mk 11 11 .ro (.n 0) .s, .mk 10 10 .ro (.n 0) .s, .mk 9 9 .ro (.n 0) .s, .mk 8 8 .ro (.n 0) .s, .mk 7 7 .ro (.n 0) .s, .mk 6 4 .ro (.n 0) .s, .mk 3 3 .ro (.n 0) .s, .mk 2 2 .w1c (.n 0) .h]⟩,
  -- CSN_EPOCH (R474): EPOCH
  ⟨0x8, 0, 1, 0, 1, .any, [.mk 15 0 .ro (.n 0) .j]⟩,
  -- CSN_HOPS (R474): H_LK1, H_LK2
  ⟨0xC, 0, 1, 0, 1, .any, [.mk 15 8 .ro (.n 0xFF) .s, .mk 7 0 .ro (.n 0xFF) .s]⟩,
  -- CSN_LK_STAT (R475): STEP, GEN, INV, PRESET, NOPART, UP
  ⟨0x10, 16, 2, 0, 1, .any, [.mk 31 28 .ro (.n 0) .s, .mk 25 24 .ro (.n 0) .s, .mk 20 20 .ro (.n 0) .s, .mk 18 16 .ro (.n 0) .s, .mk 8 8 .ro (.n 0) .s, .mk 0 0 .ro (.n 0) .s]⟩,
  -- CSN_LK_LAT (R475): LAT
  ⟨0x14, 16, 2, 0, 1, .any, [.mk 31 0 .ro (.n 0) .j]⟩,
  -- CSN_LK_ERR (R475): CRC, CV, DOWNS
  ⟨0x18, 16, 2, 0, 1, .any, [.mk 31 16 .rc (.n 0) .h, .mk 15 8 .rc (.n 0) .h, .mk 7 0 .rc (.n 0) .h]⟩,
  -- CSN_LK_FAIL (R475): FALLBACK, TRIES
  ⟨0x1C, 16, 2, 0, 1, .any, [.mk 15 8 .rc (.n 0) .h, .mk 7 0 .rc (.n 0) .h]⟩,
  -- CSN_CMD (R474): OP
  ⟨0x40, 0, 1, 0, 1, .any, [.mk 3 0 .wo (.n 0) .h]⟩,
  -- CSN_HEADQ (R474): EXP_EN, EXP_Q, ALM_EN, ALM_Q
  ⟨0x50, 0, 1, 0, 1, .any, [.mk 31 31 .rwl (.n 0) .i, .mk 30 24 .rwl (.n 0) .i, .mk 15 15 .rwl (.n 0) .i, .mk 14 8 .rwl (.n 0) .i]⟩,
  -- CSN_EXP_STAT (R474): LOST, BAD
  ⟨0x54, 0, 1, 0, 1, .any, [.mk 31 16 .rc (.n 0) .h, .mk 15 0 .rc (.n 0) .h]⟩,
  -- CSN_ALM_EN (R474): EN
  ⟨0x58, 0, 1, 0, 1, .any, [.mk 31 0 .rwl (.n 0) .i]⟩]
  ++ [
  -- CSN_SRC_STAT (R474): SKIP
  ⟨0x5C, 0, 1, 0, 1, .any, [.mk 15 0 .rc (.n 0) .h]⟩,
  -- CSN_RA_CMD (R476): M, OP, INC, CNT, GO
  ⟨0x80, 0, 1, 0, 1, .any, [.mk 31 24 .wo (.n 0) .h, .mk 23 20 .wo (.n 0) .h, .mk 17 17 .wo (.n 0) .h, .mk 13 8 .wo (.n 0) .h, .mk 0 0 .wo (.n 0) .h]⟩,
  -- CSN_RA_ADDR (R476): ADDR
  ⟨0x84, 0, 1, 0, 1, .any, [.mk 31 0 .rw (.n 0) .h]⟩,
  -- CSN_RA_STAT (R476): RESULT, BUSY, IGNORED, TKO, TRIES, RID
  ⟨0x88, 0, 1, 0, 1, .any, [.mk 31 28 .ro (.n 0) .s, .mk 27 27 .ro (.n 0) .s, .mk 26 26 .w1c (.n 0) .s, .mk 25 25 .ro (.n 0) .s, .mk 23 16 .ro (.n 0) .s, .mk 15 0 .ro (.n 0) .s]⟩,
  -- CSN_RA_CFG (R476): TMO, RETRIES
  ⟨0x8C, 0, 1, 0, 1, .any, [.mk 15 8 .rwl (.n 0xA) .i, .mk 3 0 .rwl (.n 3) .i]⟩,
  -- CSN_RA_BUF (R476): BUF
  ⟨0x100, 4, 64, 0, 1, .any, [.mk 31 0 .rw (.n 0) .h]⟩]

/-- Registers of block ros (spec chapters 14). -/
def rowsRos : List Row :=
  [
  -- CSN_ROS_SER (R477): SER
  ⟨0x0, 4, 4, 0, 1, .any, [.mk 31 0 .ro (.n 0) .s]⟩,
  -- CSN_ROS_ID (R477): ID
  ⟨0x10, 0, 1, 0, 1, .any, [.mk 31 0 .ro (.n 0) .s]⟩,
  -- CSN_ROS_STAT (R477): PRESENT, LAST, GEN
  ⟨0x14, 0, 1, 0, 1, .any, [.mk 31 31 .ro (.n 0) .s, .mk 30 30 .ro (.n 0) .s, .mk 25 24 .ro (.n 0) .s]⟩,
  -- CSN_ROS_LAT (R477): LAT
  ⟨0x18, 0, 1, 0, 1, .any, [.mk 31 0 .ro (.n 0) .s]⟩]

/-- Registers of block ev (spec chapters 07). -/
def rowsEv : List Row :=
  [
  -- EV_CFG (R228): DIAG_PEN, PEN_Q
  ⟨0x0, 0, 1, 0, 1, .any, [.mk 8 8 .rwl (.n 0) .i, .mk 6 0 .rwl (.n 0x7E) .i]⟩,
  -- EV_STAT (R228): PEN_LOST, PEN_CNT
  ⟨0x4, 0, 1, 0, 1, .any, [.mk 31 16 .rc (.n 0) .h, .mk 15 0 .rc (.n 0) .h]⟩,
  -- EV_DIP_CFG (R228): TOKEN_EN, LAND_EN
  ⟨0x10, 0, 1, 0, 1, .any, [.mk 1 1 .rwl (.n 1) .i, .mk 0 0 .rwl (.n 0) .i]⟩,
  -- EV_DIP_STAT (R229): LAND_ID, IGN_CNT, BUSY_CNT, LAST, REL1, REL0, STATE1, STATE0
  ⟨0x14, 0, 1, 0, 1, .any, [.mk 31 16 .rw (.n 0) .j, .mk 15 12 .rc (.n 0) .h, .mk 11 8 .rc (.n 0) .h, .mk 7 7 .ro (.n 0) .j, .mk 5 5 .w1c (.n 0) .j, .mk 4 4 .w1c (.n 0) .j, .mk 3 2 .ro (.n 0) .j, .mk 1 0 .ro (.n 0) .j]⟩,
  -- EV_DIP_SEL (R228): BANK
  ⟨0x18, 0, 1, 0, 1, .any, [.mk 0 0 .rw (.n 0) .h]⟩,
  -- DIP_WINDOW (R225): ITEM
  ⟨0x400, 4, 672, 0, 1, .any, [.mk 31 0 .ro (.n 0) .j]⟩]

/-- Registers of block ca (spec chapters 05). -/
def rowsCa : List Row :=
  [
  -- CA_CMD (R162): OP
  ⟨0x0, 0, 1, 0, 1, .any, [.mk 3 0 .wo (.n 0) .h]⟩,
  -- CA_STAT (R163): STATE, RESULT, FAIL_CNT, SWEEP_FAIL, IGNORED, LEAN, SYNC_MERGED, CAL_STALE
  ⟨0x4, 0, 1, 0, 1, .any, [.mk 31 28 .ro (.n 0) .s, .mk 27 24 .ro (.n 0) .s, .mk 23 16 .ro (.n 0) .s, .mk 5 5 .ro (.n 0) .s, .mk 4 4 .w1c (.n 0) .h, .mk 2 2 .ro (.n 0) .s, .mk 1 1 .w1c (.n 0) .h, .mk 0 0 .ro (.n 1) .s]⟩,
  -- CA_CFG (R164): AUTO_CAL, SYNC_SCHED_EN, SYNC_TOKEN_EN, SYNC_REG_EN, LAND_EDGE, SYNC_LAND_EN
  ⟨0x8, 0, 1, 0, 1, .any, [.mk 8 8 .rwl (.n 1) .i, .mk 5 5 .rwl (.n 1) .i, .mk 4 4 .rwl (.n 1) .i, .mk 3 3 .rwl (.n 1) .i, .mk 2 2 .rwl (.n 0) .i, .mk 1 1 .rwl (.n 0) .i]⟩,
  -- CA_SYNC (R166): GO
  ⟨0xC, 0, 1, 0, 1, .any, [.mk 0 0 .wo (.n 0) .h]⟩,
  -- CA_SYNC_TS (R166): TS
  ⟨0x10, 4, 2, 0, 1, .any, [.mk 31 0 .ro (.n 0) .s]⟩,
  -- CA_SYNC_INFO (R165): SRC, LATE, IGN_CNT, COUNT
  ⟨0x18, 0, 1, 0, 1, .any, [.mk 31 24 .ro (.n 0) .s, .mk 23 23 .ro (.n 0) .s, .mk 15 8 .rc (.n 0) .h, .mk 7 0 .ro (.n 0) .j]⟩,
  -- CA_INJ (R166): NOWAIT, TARGET, TILE, TAG
  ⟨0x20, 0, 1, 0, 1, .any, [.mk 31 31 .wo (.n 0) .h, .mk 28 24 .wo (.n 0) .h, .mk 19 16 .wo (.n 0) .h, .mk 15 0 .wo (.n 0) .h]⟩,
  -- CA_INJ_RESP (R166): RESP, TAG
  ⟨0x24, 0, 1, 0, 1, .any, [.mk 31 28 .ro (.n 0) .s, .mk 15 0 .ro (.n 0) .s]⟩,
  -- CA_SWEEP_CFG (R166): START, STEP, COUNT
  ⟨0x30, 0, 1, 0, 1, .any, [.mk 31 20 .rw (.n 0) .h, .mk 19 8 .rw (.n 0) .h, .mk 7 0 .rw (.n 0) .h]⟩,
  -- CA_SWEEP_SEL (R166): DWELL, POS, LIMIT, TILES
  ⟨0x34, 0, 1, 0, 1, .any, [.mk 31 24 .rw (.n 0) .h, .mk 23 20 .rw (.n 0) .h, .mk 19 16 .rw (.n 0) .h, .mk 15 0 .rw (.n 0) .h]⟩]

/-- Registers of block fc (spec chapters 06). -/
def rowsFc : List Row :=
  [
  -- FC_STAT (R200): DENY, UERR
  ⟨0x0, 0, 1, 0, 1, .any, [.mk 19 16 .w1c (.n 0) .h, .mk 11 8 .ro (.n 0xF) .s]⟩]

/-- Registers of block pr (spec chapters 06). -/
def rowsPr : List Row :=
  [
  -- PR_CIC (R201): LEANDIV, ORDER, RATIO
  ⟨0x0, 0, 1, 0, 1, .any, [.mk 31 31 .rwl (.pr .lean) .i, .mk 18 16 .rwl (.pr .order) .i, .mk 15 0 .rwl (.pr .ratio) .i]⟩,
  -- PR_NORM (R201): NORM
  ⟨0x4, 0, 1, 0, 1, .any, [.mk 23 0 .rwl (.pr .norm) .i]⟩,
  -- PR_FILT (R201): TAPS, DEC, HBN
  ⟨0x8, 0, 1, 0, 1, .any, [.mk 30 24 .rwl (.pr .taps) .i, .mk 19 16 .rwl (.pr .dec) .i, .mk 2 0 .rwl (.pr .hbn) .i]⟩,
  -- PR_AVG (R201): A1, A2, M2
  ⟨0xC, 0, 1, 0, 1, .any, [.mk 31 16 .rwl (.pr .a1) .i, .mk 13 8 .rwl (.pr .a2) .i, .mk 5 0 .rwl (.pr .m2) .i]⟩,
  -- PR_SHIFT (R197): SH4, SH3, SH2, SH1
  ⟨0x10, 0, 1, 0, 1, .any, [.mk 28 24 .rwl (.pr .sh4) .i, .mk 20 16 .rwl (.pr .sh3) .i, .mk 12 8 .rwl (.pr .sh2) .i, .mk 4 0 .rwl (.pr .sh1) .i]⟩,
  -- PR_SUPP (R201): SET
  ⟨0x14, 0, 1, 0, 1, .any, [.mk 7 0 .rwl (.pr .supp) .i]⟩,
  -- PR_STAT (R201): SUPP_EFF, LEAN_NA, DCG_NE1, SUPP_LOW, ERR
  ⟨0x18, 0, 1, 0, 1, .any, [.mk 31 24 .ro (.pr .suppEff) .s, .mk 3 3 .ro (.pr .leanNa) .s, .mk 2 2 .ro (.pr .dcg) .s, .mk 1 1 .ro (.n 0) .s, .mk 0 0 .ro (.pr .err) .s]⟩,
  -- PR_LEN (R201): LEN
  ⟨0x1C, 0, 1, 0, 1, .any, [.mk 31 0 .ro (.pr .len) .s]⟩,
  -- PR_DEC (R201): DEC
  ⟨0x20, 0, 1, 0, 1, .any, [.mk 31 0 .ro (.pr .d) .s]⟩,
  -- PR_GD (R201): GD
  ⟨0x24, 0, 1, 0, 1, .any, [.mk 31 0 .ro (.pr .gd) .s]⟩,
  -- PR_TAP (R201): TAP
  ⟨0x100, 4, 64, 0, 1, .any, [.mk 23 0 .rwl (.pr .tap) .i]⟩]

/-- Registers of block tile (spec chapters 03/04/05/07/16/17). -/
def rowsTile : List Row :=
  [
  -- TILE_CFG (R100): HOLD, CFG_ADJ, DI_THR
  ⟨0x0, 0, 1, 0, 1, .any, [.mk 24 16 .rwl (.n 0x32) .i, .mk 2 2 .ro (.n 0) .s, .mk 1 0 .rwl (.n 1) .i]⟩,
  -- TILE_SAFE (R101): ACTIVE, CNT_GAP, RESET, IMAGE, DOZE, WDOG, HOLD
  ⟨0x4, 0, 1, 0, 1, .any, [.mk 8 8 .ro (.n 0) .s, .mk 5 5 .w1c (.n 0) .h, .mk 4 4 .w1c (.n 0) .h, .mk 3 3 .ro (.n 0) .s, .mk 2 2 .ro (.n 0) .s, .mk 1 1 .w1c (.n 0) .h, .mk 0 0 .w1c (.n 0) .h]⟩,
  -- TILE_TDAC (R130): DENIED, CODE
  ⟨0x8, 0, 1, 0, 1, .any, [.mk 16 16 .w1c (.n 0) .h, .mk 11 0 .rw (.n 0) .h]⟩,
  -- TILE_AUX_MASK (R167): MASK
  ⟨0xC, 0, 1, 0, 1, .any, [.mk 15 0 .rwl (.n 0xFFFF) .i]⟩,
  -- TILE_INJ_STAT (R167): TAG, HELD, OVR, HOIST, TARGET, PEND
  ⟨0x10, 0, 1, 0, 1, .any, [.mk 31 16 .ro (.n 0) .s, .mk 15 15 .ro (.n 0) .s, .mk 14 14 .ro (.n 0) .s, .mk 13 13 .ro (.n 0) .s, .mk 12 8 .ro (.n 0) .s, .mk 2 0 .ro (.n 0) .s]⟩,
  -- TILE_INJ_RES (R167): CODE
  ⟨0x14, 0, 1, 0, 1, .any, [.mk 31 8 .ro (.n 0) .s]⟩,
  -- TILE_INJ_TS (R167): TS
  ⟨0x18, 4, 2, 0, 1, .any, [.mk 31 0 .ro (.n 0) .s]⟩,
  -- TILE_SWEEP_RES (R167): DEV
  ⟨0x20, 0, 1, 0, 1, .any, [.mk 31 0 .ro (.n 0xFFFFFFFF) .s]⟩,
  -- TILE_AUX_OFS (R167): STALE, FAIL, HOST, OFS
  ⟨0x24, 0, 1, 0, 1, .any, [.mk 31 31 .ro (.n 1) .s, .mk 30 30 .ro (.n 0) .s, .mk 29 29 .ro (.n 0) .s, .mk 23 0 .rw .facOfs .c]⟩,
  -- TILE_AUX_GAIN (R167): GAIN
  ⟨0x28, 0, 1, 0, 1, .any, [.mk 23 0 .rw .facGain .c]⟩,
  -- TILE_FEEDV (R529): VF_B, VF_A
  ⟨0x30, 0, 1, 0, 1, .any, [.mk 31 16 .ro (.n 0) .s, .mk 15 0 .ro (.n 0) .s]⟩,
  -- TILE_FEED (R529): STALE_CNT, LINK_B, LINK_A, TEST_FAIL, TEST, B_OK, A_OK, CARRY
  ⟨0x34, 0, 1, 0, 1, .any, [.mk 31 16 .rc (.n 0) .s, .mk 9 9 .ro (.n 0) .s, .mk 8 8 .ro (.n 0) .s, .mk 5 5 .w1c (.n 0) .s, .mk 4 4 .ro (.n 0) .s, .mk 3 3 .ro (.n 0) .s, .mk 2 2 .ro (.n 0) .s, .mk 1 0 .ro (.n 0) .s]⟩]
  ++ [
  -- TILE_RST (R550): KEY, GO
  ⟨0x38, 0, 1, 0, 1, .any, [.mk 31 16 .wo (.n 0) .h, .mk 0 0 .wo (.n 0) .h]⟩,
  -- TILE_AUX (R167): CODE, OVR, STALE
  ⟨0x40, 4, 16, 0, 1, .any, [.mk 31 8 .ro (.n 0) .s, .mk 1 1 .ro (.n 0) .s, .mk 0 0 .ro (.n 1) .s]⟩,
  -- TILE_WIN_CFG (R231): REENTER, EN
  ⟨0x80, 0, 1, 0, 1, .any, [.mk 31 16 .rw (.n 0) .i, .mk 15 0 .rw (.n 0) .i]⟩,
  -- TILE_WIN_HOLD (R231): HOLD
  ⟨0x84, 0, 1, 0, 1, .any, [.mk 3 0 .rw (.n 0) .i]⟩,
  -- TILE_WIN_STATE (R231): OUT
  ⟨0x88, 0, 1, 0, 1, .any, [.mk 15 0 .ro (.n 0) .s]⟩,
  -- TILE_WIN_LO (R231): LO
  ⟨0x100, 8, 16, 0, 1, .any, [.mk 23 0 .rw (.n 0x800000) .i]⟩,
  -- TILE_WIN_HI (R231): HI
  ⟨0x104, 8, 16, 0, 1, .any, [.mk 23 0 .rw (.n 0x7FFFFF) .i]⟩]

/-- Registers of block ch (spec chapters 03/04/05/06/07/08). -/
def rowsCh : List Row :=
  [
  -- CH_ID (R90): KIND, N
  ⟨0x0, 0, 1, 0, 1, .any, [.mk 11 8 .ro .chKind .k, .mk 7 0 .ro .chN .k]⟩,
  -- CH_DIAG (R91): LATCHED, ACTIVE
  ⟨0x4, 0, 1, 0, 1, .any, [.mk 27 16 .w1c (.n 0) .h, .mk 11 0 .ro (.n 0) .s]⟩,
  -- CH_DIAG_MASK (R92): FAULT_EN
  ⟨0x8, 0, 1, 0, 1, .any, [.mk 11 0 .rwl (.n 0xFFF) .i]⟩,
  -- CH_DI_CFG (R93): WB_EN, PER_EDGE, CNT_EDGE, DEB
  ⟨0x20, 0, 1, 0, 1, .di, [.mk 12 12 .rwl (.n 0) .i, .mk 11 10 .rwl (.n 0) .i, .mk 9 8 .rwl (.n 1) .i, .mk 7 0 .rwl (.n 0) .i]⟩,
  -- CH_DI_STATE (R94): PERIOD_SAT, RAW, LEVEL
  ⟨0x24, 0, 1, 0, 1, .di, [.mk 2 2 .ro (.n 0) .s, .mk 1 1 .ro (.n 0) .s, .mk 0 0 .ro (.n 0) .s]⟩,
  -- CH_DI_EDGES (R95): EDGES
  ⟨0x28, 0, 1, 0, 1, .di, [.mk 31 0 .rw (.n 0) .j]⟩,
  -- CH_DI_PERIOD (R95): PERIOD
  ⟨0x2C, 0, 1, 0, 1, .di, [.mk 31 0 .ro (.n 0) .j]⟩,
  -- CH_DI_TS (R95): TS
  ⟨0x30, 4, 2, 0, 1, .di, [.mk 31 0 .ro (.n 0) .j]⟩,
  -- CH_DI_IIN (R95): IIN
  ⟨0x38, 0, 1, 0, 1, .di, [.mk 15 0 .ro (.n 0) .s]⟩,
  -- CH_DI_EV (R232): RATE, BURST, IRQ, PEN, EDGE
  ⟨0x3C, 0, 1, 0, 1, .di, [.mk 23 16 .rw (.n 0) .i, .mk 15 8 .rw (.n 0) .i, .mk 3 3 .rw (.n 0) .i, .mk 2 2 .rw (.n 0) .i, .mk 1 0 .rw (.n 0) .i]⟩,
  -- CH_DO_CFG (R96): PWM_FREQ, PWM_DUTY, PULLIN, PWM_EN, OPEN_ON_EN, OFFTEST, PAIR, ILIM, SAFE
  ⟨0x40, 0, 1, 0, 1, .do, [.mk 30 24 .rwl (.n 0x32) .i, .mk 23 16 .rwl (.n 0xFF) .i, .mk 15 8 .rwl (.n 0) .i, .mk 6 6 .rwl (.n 0) .i, .mk 5 5 .rwl (.n 0) .i, .mk 4 4 .rwl (.n 0) .i, .mk 3 3 .rwl (.n 0) .i, .mk 2 2 .rwl (.n 0) .i, .mk 1 0 .rwl (.n 0) .i]⟩,
  -- CH_DO_CMD (R97): ON
  ⟨0x44, 0, 1, 0, 1, .do, [.mk 0 0 .rw (.n 0) .j]⟩]
  ++ [
  -- CH_DO_STATE (R98): CFG_ADJ, PAIRED, LOCKED, TSD, SAFE, OUT
  ⟨0x48, 0, 1, 0, 1, .do, [.mk 5 5 .ro (.n 0) .s, .mk 4 4 .ro (.n 0) .s, .mk 3 3 .ro (.n 0) .s, .mk 2 2 .ro (.n 0) .s, .mk 1 1 .ro (.n 0) .s, .mk 0 0 .ro (.n 0) .s]⟩,
  -- CH_DO_SWCNT (R99): CNT
  ⟨0x4C, 0, 1, 0, 1, .do, [.mk 31 0 .rw (.n 0) .j]⟩,
  -- CH_DO_ONTIME (R99): SEC
  ⟨0x50, 0, 1, 0, 1, .do, [.mk 31 0 .rw (.n 0) .j]⟩,
  -- CH_DO_CLAMP (R99): LAST_E
  ⟨0x54, 0, 1, 0, 1, .do, [.mk 15 0 .ro (.n 0) .s]⟩,
  -- CH_DO_CLAMP_SUM (R99): SUM
  ⟨0x58, 0, 1, 0, 1, .do, [.mk 31 0 .rw (.n 0) .j]⟩,
  -- CH_DO_MEAS (R99): VOUT, IOUT
  ⟨0x5C, 0, 1, 0, 1, .do, [.mk 31 16 .ro (.n 0) .s, .mk 15 0 .ro (.n 0) .s]⟩,
  -- CH_AN_CFG (R127): SAFE, NE43_EN, MODE
  ⟨0x80, 0, 1, 0, 1, .an, [.mk 9 8 .rwl (.n 0) .i, .mk 4 4 .rwl (.n 1) .i, .mk 2 0 .rwl (.n 0) .i]⟩,
  -- CH_AN_STATE (R128): LP_ON, LP_RETRY, INJ, SAT, SAFE, CFG_ADJ, SET_CLAMP, MODE_EFF
  ⟨0x84, 0, 1, 0, 1, .an, [.mk 10 10 .ro (.n 0) .s, .mk 9 9 .ro (.n 0) .s, .mk 8 8 .ro (.n 0) .s, .mk 7 7 .ro (.n 0) .s, .mk 6 6 .ro (.n 0) .s, .mk 5 5 .ro (.n 0) .s, .mk 4 4 .ro (.n 0) .s, .mk 2 0 .ro (.n 0) .s]⟩,
  -- CH_AO_SET (R129): SET
  ⟨0x88, 0, 1, 0, 1, .ao, [.mk 15 0 .rw (.n 0) .j]⟩,
  -- CH_AO_SAFE (R129): VALUE
  ⟨0x8C, 0, 1, 0, 1, .ao, [.mk 15 0 .rwl (.n 0) .i]⟩,
  -- CH_AO_TRIM (R129): TRIM_HI, TRIM_LO
  ⟨0x90, 0, 1, 0, 1, .ao, [.mk 31 16 .rw (.n 0) .i, .mk 15 0 .rw (.n 0) .i]⟩,
  -- CH_AN_INJ (R129): EN
  ⟨0x94, 0, 1, 0, 1, .an, [.mk 0 0 .rw (.n 0) .h]⟩]
  ++ [
  -- CH_AN_FAST (R129): FAST
  ⟨0x98, 0, 1, 0, 1, .an, [.mk 31 0 .ro (.n 0) .s]⟩,
  -- CH_AN_LP (R129): ILP, VLP
  ⟨0x9C, 0, 1, 0, 1, .an, [.mk 31 16 .ro (.n 0) .s, .mk 15 0 .ro (.n 0) .s]⟩,
  -- CH_FC_CFG (R196): SHIFT_OWN, EN, PRESET
  ⟨0xA0, 0, 1, 0, 1, .an, [.mk 12 12 .rwl (.n 0) .i, .mk 8 8 .rwl (.n 1) .i, .mk 3 0 .rwl (.n 1) .i]⟩,
  -- CH_FC_SHIFT (R197): SH4, SH3, SH2, SH1
  ⟨0xA4, 0, 1, 0, 1, .an, [.mk 28 24 .rwl (.n 0) .i, .mk 20 16 .rwl (.n 0) .i, .mk 12 8 .rwl (.n 0) .i, .mk 4 0 .rwl (.n 0) .i]⟩,
  -- CH_FC_DELAY (R198): PDELAY
  ⟨0xA8, 0, 1, 0, 1, .an, [.mk 11 0 .rwl (.n 0) .i]⟩,
  -- CH_FC_STATE (R199): SUPP_LEFT, PRESET_EFF, OVF, UNAVAIL, CFG_ERR, DCG_NE1, CFG_ADJ, DELIVERING
  ⟨0xAC, 0, 1, 0, 1, .an, [.mk 31 24 .ro (.n 0) .s, .mk 23 20 .ro (.n 0) .s, .mk 7 7 .w1c (.n 0) .h, .mk 5 5 .ro (.n 0) .s, .mk 4 4 .ro (.n 0) .s, .mk 3 3 .ro (.n 0) .s, .mk 2 2 .ro (.n 0) .s, .mk 0 0 .ro (.n 0) .s]⟩,
  -- CH_CAL_OFS (R168): STALE, FAIL, HOST, OFS
  ⟨0xB0, 0, 1, 0, 1, .an, [.mk 31 31 .ro (.n 1) .s, .mk 30 30 .ro (.n 0) .s, .mk 29 29 .ro (.n 0) .s, .mk 23 0 .rw .facOfs .c]⟩,
  -- CH_CAL_GAIN (R168): GAIN
  ⟨0xB4, 0, 1, 0, 1, .an, [.mk 23 0 .rw .facGain .c]⟩,
  -- CH_INJ_RES (R168): CODE, OVR, HELD
  ⟨0xB8, 0, 1, 0, 1, .an, [.mk 31 8 .ro (.n 0) .s, .mk 1 1 .ro (.n 0) .s, .mk 0 0 .ro (.n 0) .s]⟩,
  -- CH_INJ_TAG (R168): TAG
  ⟨0xBC, 0, 1, 0, 1, .an, [.mk 15 0 .ro (.n 0) .s]⟩,
  -- CH_LAST (R249): LAST
  ⟨0xC0, 0, 1, 0, 1, .an, [.mk 31 0 .ro (.n 0xC0) .s]⟩,
  -- CH_LAST_SEQ (R249): SEQ
  ⟨0xC4, 0, 1, 0, 1, .an, [.mk 31 0 .ro (.n 0) .s]⟩]
  ++ [
  -- CH_SEQ (R249): SEQ
  ⟨0xC8, 0, 1, 0, 1, .an, [.mk 31 0 .ro (.n 0) .s]⟩,
  -- CH_QBIND (R249): ERR, EN, Q
  ⟨0xCC, 0, 1, 0, 1, .an, [.mk 8 8 .ro (.n 0) .s, .mk 7 7 .rwl (.n 1) .i, .mk 6 0 .rwl .chA .i]⟩,
  -- CH_TH_CFG (R230): HOLDOFF, INIT_EV, TEST_OK, IRQ, PEN, DIR
  ⟨0xD0, 16, 2, 0, 1, .an, [.mk 31 24 .rw (.n 0) .i, .mk 7 7 .rw (.n 0) .i, .mk 6 6 .rw (.n 0) .i, .mk 5 5 .rw (.n 0) .i, .mk 4 4 .rw (.n 0) .i, .mk 1 0 .rw (.n 0) .i]⟩,
  -- CH_TH_LEVEL (R230): LEVEL
  ⟨0xD4, 16, 2, 0, 1, .an, [.mk 23 0 .rw (.n 0) .i]⟩,
  -- CH_TH_HYST (R230): HYST
  ⟨0xD8, 16, 2, 0, 1, .an, [.mk 23 0 .rw (.n 0) .i]⟩,
  -- CH_TH_STATE (R230): COUNT, VALID, ABOVE
  ⟨0xDC, 16, 2, 0, 1, .an, [.mk 31 24 .ro (.n 0) .s, .mk 1 1 .ro (.n 0) .s, .mk 0 0 .ro (.n 0) .s]⟩]

/-- Registers of block q (spec chapters 08). -/
def rowsQ : List Row :=
  [
  -- Q_CFG (R234): EXPORT, LOG, HOST, POLICY, DEPTH, ESIZE
  ⟨0x0, 0, 1, 0, 1, .any, [.mk 28 28 .rwl (.n 0) .i, .mk 27 27 .rwl (.n 0) .i, .mk 26 26 .rwl (.n 1) .i, .mk 25 24 .rwl .qPolicy .i, .mk 20 16 .rwl .qDepth .i, .mk 10 8 .rwl .qEsize .i]⟩,
  -- Q_BASE (R261): BASE
  ⟨0x4, 0, 1, 0, 1, .any, [.mk 22 0 .ro (.n 0) .s]⟩,
  -- Q_WM (R261): WM
  ⟨0x8, 0, 1, 0, 1, .any, [.mk 23 0 .rw (.n 0) .i]⟩,
  -- Q_LEVEL (R261): LEVEL
  ⟨0xC, 0, 1, 0, 1, .any, [.mk 23 0 .ro (.n 0) .s]⟩,
  -- Q_PEAK (R261): PEAK
  ⟨0x10, 0, 1, 0, 1, .any, [.mk 23 0 .rc (.n 0) .h]⟩,
  -- Q_STAT (R261): DROP_CNT, NOMEM, FOREIGN, CFG_ADJ, STALLED, WM
  ⟨0x14, 0, 1, 0, 1, .any, [.mk 31 16 .rc (.n 0) .h, .mk 7 7 .ro (.n 0) .h, .mk 6 6 .w1c (.n 0) .h, .mk 5 5 .ro (.n 0) .h, .mk 4 4 .ro (.n 0) .h, .mk 3 3 .w1c (.n 0) .h]⟩,
  -- Q_LOST (R261): LOST_HALF, OVWR_CNT
  ⟨0x18, 0, 1, 0, 1, .any, [.mk 31 16 .rc (.n 0) .h, .mk 15 0 .rc (.n 0) .h]⟩,
  -- Q_DUP (R261): TKO, LEFT
  ⟨0x1C, 0, 1, 0, 1, .any, [.mk 31 24 .ro (.n 0) .j, .mk 23 0 .ro (.n 0) .j]⟩,
  -- Q_POP_LO (R261): W
  ⟨0x20, 0, 1, 0, 1, .any, [.mk 31 0 .ro (.n 0xC0) .s]⟩,
  -- Q_POP_HI (R261): W
  ⟨0x24, 0, 1, 0, 1, .any, [.mk 31 0 .ro (.n 0) .s]⟩,
  -- Q_POP_ST (R248): EMPTY, NEWER, DUP, OVWR, NO_LO, HI_DONE, LEVEL
  ⟨0x28, 0, 1, 0, 1, .any, [.mk 31 31 .ro (.n 1) .s, .mk 30 30 .ro (.n 0) .s, .mk 29 29 .ro (.n 0) .s, .mk 28 28 .ro (.n 0) .s, .mk 27 27 .ro (.n 0) .s, .mk 26 26 .ro (.n 0) .s, .mk 23 0 .ro (.n 0) .s]⟩,
  -- Q_POP_STREAM (R261): W
  ⟨0x2C, 0, 1, 0, 1, .any, [.mk 31 0 .ro (.n 0xC0) .s]⟩]
  ++ [
  -- Q_POP_ADDR (R261): ADDR
  ⟨0x30, 0, 1, 0, 1, .any, [.mk 31 0 .ro (.n 0) .s]⟩,
  -- Q_EXPORT (R261): SEQ
  ⟨0x34, 0, 1, 0, 1, .any, [.mk 31 0 .ro (.n 0) .j]⟩]

/-- Registers of block log (spec chapters 08). -/
def rowsLog : List Row :=
  [
  -- LOG_BASE (R254): CS, ADDR
  ⟨0x0, 0, 1, 0, 1, .any, [.mk 31 31 .rwl (.n 0) .i, .mk 28 0 .rwl (.n 0) .i]⟩,
  -- LOG_SIZE (R254): SECTORS, SLOG2
  ⟨0x4, 0, 1, 0, 1, .any, [.mk 31 16 .rwl (.n 0) .i, .mk 4 0 .rwl (.n 0) .i]⟩,
  -- LOG_STAT (R254): STATE, ERR, SECTOR
  ⟨0x8, 0, 1, 0, 1, .any, [.mk 31 28 .ro (.n 0) .s, .mk 27 24 .ro (.n 0) .s, .mk 15 0 .ro (.n 0) .s]⟩,
  -- LOG_SEQ (R254): SEQ
  ⟨0xC, 0, 1, 0, 1, .any, [.mk 31 0 .ro (.n 0) .s]⟩,
  -- LOG_WPTR (R254): WPTR
  ⟨0x10, 0, 1, 0, 1, .any, [.mk 31 0 .ro (.n 0) .s]⟩,
  -- LOG_CNT (R254): TORN, FAIL
  ⟨0x14, 0, 1, 0, 1, .any, [.mk 31 16 .rc (.n 0) .h, .mk 15 0 .rc (.n 0) .h]⟩,
  -- LOG_QSEL (R254): Q
  ⟨0x18, 0, 1, 0, 1, .any, [.mk 6 0 .rw (.n 0) .i]⟩,
  -- LOG_QMAP (R254): REGION
  ⟨0x1C, 0, 1, 0, 1, .any, [.mk 2 0 .rwl (.n 0) .i]⟩]

/-- Registers of block ctx (spec chapters 11). -/
def rowsCtx : List Row :=
  [
  -- CTX_CFG (R362): EN, PRIO, HALT_ON_FAULT, REC_OK, REC_FAIL, IRQ_OK, IRQ_FAIL
  ⟨0x0, 0, 1, 0, 1, .any, [.mk 31 31 .rwl (.n 0) .i, .mk 29 28 .rwl (.n 3) .i, .mk 27 27 .rwl (.n 0) .i, .mk 26 26 .rwl (.n 1) .i, .mk 25 25 .rwl (.n 1) .i, .mk 24 24 .rwl (.n 0) .i, .mk 23 23 .rwl (.n 0) .i]⟩,
  -- CTX_PROG (R364): PROG
  ⟨0x4, 0, 1, 0, 1, .any, [.mk 31 0 .rwl (.n 0) .i]⟩,
  -- CTX_TRIG (R364): SCH_EN, SCH, DI_EN, DI_EDGE, DI_N
  ⟨0x8, 0, 1, 0, 1, .any, [.mk 31 31 .rwl (.n 0) .i, .mk 27 24 .rwl (.n 0) .i, .mk 23 23 .rwl (.n 0) .i, .mk 21 20 .rwl (.n 0) .i, .mk 15 8 .rwl (.n 0) .i]⟩,
  -- CTX_TRIG_PEN (R364): EN, ANY_SRC, TYPE, SRC_CLASS, SRC_INDEX
  ⟨0xC, 0, 1, 0, 1, .any, [.mk 31 31 .rwl (.n 0) .i, .mk 30 30 .rwl (.n 0) .i, .mk 23 16 .rwl (.n 0) .i, .mk 15 12 .rwl (.n 0) .i, .mk 11 0 .rwl (.n 0) .i]⟩,
  -- CTX_TRIG_CMP (R364): EN, COND, SRC
  ⟨0x10, 0, 1, 0, 1, .any, [.mk 31 31 .rwl (.n 0) .i, .mk 25 24 .rwl (.n 0) .i, .mk 7 0 .rwl (.n 0) .i]⟩,
  -- CTX_PARTNER (R364): KIND, PORT, SS
  ⟨0x14, 0, 1, 0, 1, .any, [.mk 31 30 .rwl (.n 0) .i, .mk 29 28 .rwl (.n 0) .i, .mk 25 24 .rwl (.n 0) .i]⟩,
  -- CTX_TXID (R364): ID
  ⟨0x18, 0, 1, 0, 1, .any, [.mk 31 0 .rwl (.n 0) .i]⟩,
  -- CTX_RETRY (R364): BUDGET, MODE, KEEP, BASE
  ⟨0x1C, 0, 1, 0, 1, .any, [.mk 31 24 .rwl (.n 0) .i, .mk 23 22 .rwl (.n 0) .i, .mk 21 21 .rwl (.n 0) .i, .mk 15 0 .rwl (.n 0) .i]⟩,
  -- CTX_LIMITS (R364): RUNMAX, BACKMAX
  ⟨0x20, 0, 1, 0, 1, .any, [.mk 31 16 .rwl (.n 0) .i, .mk 15 0 .rwl (.n 0) .i]⟩,
  -- CTX_RESYNC (R364): ADDR
  ⟨0x24, 0, 1, 0, 1, .any, [.mk 31 0 .rwl (.n 0) .i]⟩,
  -- CTX_SEQCFG (R364): RXPOS, RXW, RXBE, GAP_OK, TXRST, TXPOS, TXW, TXBE
  ⟨0x28, 0, 1, 0, 1, .any, [.mk 31 26 .rwl (.n 0) .i, .mk 24 20 .rwl (.n 0) .i, .mk 19 19 .rwl (.n 0) .i, .mk 18 18 .rwl (.n 0) .i, .mk 17 17 .rwl (.n 0) .i, .mk 15 10 .rwl (.n 0) .i, .mk 8 4 .rwl (.n 0) .i, .mk 3 3 .rwl (.n 0) .i]⟩,
  -- CTX_SEQSTART (R364): RX_START, TX_START
  ⟨0x2C, 0, 1, 0, 1, .any, [.mk 31 16 .rwl (.n 0) .i, .mk 15 0 .rwl (.n 0) .i]⟩]
  ++ [
  -- CTX_BIND (R364): RESQ_EN, RESQ, CVU_EN, CVU
  ⟨0x30, 0, 1, 0, 1, .any, [.mk 31 31 .rwl (.n 0) .i, .mk 30 24 .rwl (.n 0) .i, .mk 15 15 .rwl (.n 0) .i, .mk 10 8 .rwl (.n 0) .i]⟩,
  -- CTX_CTL (R364): ARG, OP
  ⟨0x34, 0, 1, 0, 1, .any, [.mk 31 16 .wo (.n 0) .h, .mk 3 0 .wo (.n 0) .h]⟩,
  -- CTX_STAT (R363): STATE, WAIT_ON, LAST_CODE, LAST_OUT, PEND, TKO, ONCE_OPEN, RX_VALID, ON_ENG, ENG, DENIED, IGNORED, CFG_ADJ
  ⟨0x38, 0, 1, 0, 1, .any, [.mk 31 28 .ro (.n 0) .j, .mk 27 24 .ro (.n 0) .j, .mk 23 16 .ro (.n 0) .j, .mk 15 12 .ro (.n 0) .j, .mk 11 11 .ro (.n 0) .j, .mk 10 10 .ro (.n 0) .j, .mk 9 9 .ro (.n 0) .j, .mk 8 8 .ro (.n 0) .j, .mk 7 7 .ro (.n 0) .s, .mk 6 4 .ro (.n 0) .s, .mk 3 3 .w1c (.n 0) .h, .mk 2 2 .w1c (.n 0) .h, .mk 1 1 .ro (.n 0) .s]⟩,
  -- CTX_SEQ (R364): RX_SEQ, TX_SEQ
  ⟨0x3C, 0, 1, 0, 1, .any, [.mk 31 16 .rw (.n 0) .j, .mk 15 0 .rw (.n 0) .j]⟩,
  -- CTX_V (R364): V
  ⟨0x40, 4, 16, 0, 1, .any, [.mk 31 0 .rw (.n 0) .i]⟩,
  -- CTX_PC (R364): PC
  ⟨0x80, 0, 1, 0, 1, .any, [.mk 31 0 .ro (.n 0) .s]⟩,
  -- CTX_T (R364): T
  ⟨0x84, 4, 3, 0, 1, .any, [.mk 31 0 .ro (.n 0) .s]⟩,
  -- CTX_RUNS (R364): RUNS
  ⟨0x90, 0, 1, 0, 1, .any, [.mk 31 0 .ro (.n 0) .j]⟩,
  -- CTX_CNT (R364): TRIG_LOST, RX_DROP, RETRIES
  ⟨0x94, 0, 1, 0, 1, .any, [.mk 31 24 .rc (.n 0) .h, .mk 23 16 .rc (.n 0) .h, .mk 15 0 .rc (.n 0) .h]⟩,
  -- CTX_CKPT (R364): VALID, ONCE, OFFSET
  ⟨0x98, 0, 1, 0, 1, .any, [.mk 31 31 .ro (.n 0) .j, .mk 30 30 .ro (.n 0) .j, .mk 23 0 .ro (.n 0) .j]⟩,
  -- CTX_TINFO (R364): T
  ⟨0xA0, 4, 4, 0, 1, .any, [.mk 31 0 .ro (.n 0) .j]⟩]

/-- Registers of block he (spec chapters 11). -/
def rowsHe : List Row :=
  [
  -- HE_CFG (R365): SLICE, ENG_EN
  ⟨0x0, 0, 1, 0, 1, .any, [.mk 15 8 .rwl (.n 0x10) .i, .mk 7 0 .rwl (.n 0xFF) .i]⟩,
  -- HE_STAT (R365): READY, BUSY
  ⟨0x4, 0, 1, 0, 1, .any, [.mk 31 24 .ro (.n 0) .s, .mk 15 8 .ro (.n 0) .s]⟩,
  -- HE_ENG (R365): BUSY, CTX
  ⟨0x10, 4, 8, 0, 1, .any, [.mk 31 31 .ro (.n 0) .s, .mk 7 0 .ro (.n 0) .s]⟩]

/-- Registers of block can (spec chapters 10). -/
def rowsCan : List Row :=
  [
  -- CAN_CFG (R324): SELF_RX, BO_FLUSH, PXD, XL_ERRSIG, TMS, XL_EN, FD_EN, STB_POL, MODE
  ⟨0x0, 0, 1, 0, 1, .any, [.mk 27 27 .rwl (.n 0) .i, .mk 26 26 .rwl (.n 0) .i, .mk 25 25 .rwl (.n 0) .i, .mk 24 24 .rwl (.n 1) .i, .mk 23 23 .rwl (.n 0) .i, .mk 22 22 .rwl (.n 0) .i, .mk 21 21 .rwl (.n 0) .i, .mk 18 18 .rwl (.n 0) .i, .mk 2 0 .rwl (.n 0) .i]⟩,
  -- CAN_NBT (R325): BRP, TSEG1, TSEG2, SJW
  ⟨0x4, 0, 1, 0, 1, .any, [.mk 31 24 .rwl (.n 1) .i, .mk 23 16 .rwl (.n 0x3E) .i, .mk 14 8 .rwl (.n 0xF) .i, .mk 6 0 .rwl (.n 0xF) .i]⟩,
  -- CAN_DXBT (R325): BRP, TSEG1, TSEG2, SJW
  ⟨0x8, 4, 2, 0, 1, .any, [.mk 31 24 .rwl (.n 1) .i, .mk 23 16 .rwl (.n 0x1F) .i, .mk 14 8 .rwl (.n 0xF) .i, .mk 6 0 .rwl (.n 0xF) .i]⟩,
  -- CAN_TDC (R327): EN, TDV, TDCF, TDCO
  ⟨0x10, 0, 1, 0, 1, .any, [.mk 31 31 .rwl (.n 0) .i, .mk 23 16 .ro (.n 0) .i, .mk 15 8 .rwl (.n 0) .i, .mk 7 0 .rwl (.n 0) .i]⟩,
  -- CAN_XLPWM (R327): PWMO, PWML, PWMS
  ⟨0x14, 0, 1, 0, 1, .any, [.mk 21 16 .rwl (.n 0) .i, .mk 13 8 .rwl (.n 0) .i, .mk 5 0 .rwl (.n 0) .i]⟩,
  -- CAN_RETRY (R327): ERR_RETRY, ARB_RETRY
  ⟨0x18, 0, 1, 0, 1, .any, [.mk 12 8 .rwl (.n 0xF) .i, .mk 7 0 .rwl (.n 0xFF) .i]⟩,
  -- CAN_RXQ (R327): NOMATCH, ERR1, ERR0, EN1, Q1, EN0, Q0
  ⟨0x1C, 0, 1, 0, 1, .any, [.mk 25 24 .rwl (.n 0) .i, .mk 17 17 .ro (.n 0) .i, .mk 16 16 .ro (.n 0) .i, .mk 15 15 .rwl (.n 0) .i, .mk 14 8 .rwl (.n 0) .i, .mk 7 7 .rwl (.n 0) .i, .mk 6 0 .rwl (.n 0) .i]⟩,
  -- CAN_STAT (R326): ERR_STATE, ALONE, ASLEEP, INTEG, ALONE_FR, TX_LEVEL, ACK_RUN, ID_CLASH, DENIED, CFG_ADJ, RX_LOST
  ⟨0x20, 0, 1, 0, 1, .any, [.mk 31 30 .ro (.n 0) .j, .mk 29 29 .ro (.n 0) .j, .mk 28 28 .ro (.n 0) .j, .mk 27 27 .ro (.n 0) .s, .mk 25 24 .ro (.n 0) .j, .mk 23 16 .ro (.n 0) .s, .mk 15 8 .ro (.n 0) .j, .mk 7 7 .w1c (.n 0) .j, .mk 6 6 .w1c (.n 0) .h, .mk 5 5 .ro (.n 0) .s, .mk 4 4 .w1c (.n 0) .h]⟩,
  -- CAN_ERRCNT (R327): REC, TEC
  ⟨0x24, 0, 1, 0, 1, .any, [.mk 31 16 .ro (.n 0) .j, .mk 15 0 .ro (.n 0) .j]⟩,
  -- CAN_BOCNT (R327): CNT
  ⟨0x28, 0, 1, 0, 1, .any, [.mk 31 0 .ro (.n 0) .j]⟩,
  -- CAN_LASTERR (R327): ERR_CNT, PX_CNT, DATA, LEC
  ⟨0x2C, 0, 1, 0, 1, .any, [.mk 31 16 .rc (.n 0) .h, .mk 15 8 .rc (.n 0) .h, .mk 3 3 .ro (.n 0) .h, .mk 2 0 .ro (.n 0) .h]⟩,
  -- CAN_FRCNT (R327): RX, TX
  ⟨0x30, 0, 1, 0, 1, .any, [.mk 31 16 .rc (.n 0) .h, .mk 15 0 .rc (.n 0) .h]⟩]
  ++ [
  -- CAN_RECMASK (R327): MASK
  ⟨0x34, 0, 1, 0, 1, .any, [.mk 15 0 .rw (.n 0x1FFE) .i]⟩,
  -- CAN_SLEEP (R328): REQ, WAKE_MODE, STB_SLEEP, WAKE_ON_TX, FLUSH
  ⟨0x40, 0, 1, 0, 1, .any, [.mk 31 31 .rw (.n 0) .j, .mk 9 8 .rwl (.n 0) .i, .mk 4 4 .rwl (.n 0) .i, .mk 3 3 .rwl (.n 0) .i, .mk 2 2 .rwl (.n 0) .i]⟩,
  -- CAN_WAKE_STAT (R328): CAUSE, FILTER, BAD_CNT
  ⟨0x44, 0, 1, 0, 1, .any, [.mk 31 28 .ro (.n 0) .h, .mk 21 20 .ro (.n 0) .h, .mk 15 0 .rc (.n 0) .h]⟩,
  -- CAN_WAKE_FRAME (R328): W
  ⟨0x60, 4, 6, 0, 1, .any, [.mk 31 0 .ro (.n 0) .s]⟩,
  -- WF_ID (R328): EN, ID
  ⟨0x80, 32, 4, 0, 1, .any, [.mk 31 31 .rwl (.n 0) .i, .mk 29 0 .rwl (.n 0) .i]⟩,
  -- WF_IDMASK (R328): MASK
  ⟨0x84, 32, 4, 0, 1, .any, [.mk 29 0 .rwl (.n 0) .i]⟩,
  -- WF_DATA0 (R328): D
  ⟨0x88, 32, 4, 0, 1, .any, [.mk 31 0 .rwl (.n 0) .i]⟩,
  -- WF_DATA1 (R328): D
  ⟨0x8C, 32, 4, 0, 1, .any, [.mk 31 0 .rwl (.n 0) .i]⟩,
  -- WF_DMASK0 (R328): D
  ⟨0x90, 32, 4, 0, 1, .any, [.mk 31 0 .rwl (.n 0) .i]⟩,
  -- WF_DMASK1 (R328): D
  ⟨0x94, 32, 4, 0, 1, .any, [.mk 31 0 .rwl (.n 0) .i]⟩,
  -- CAN_TX_CMD (R331): TAG, PRIO, REPORT, OP
  ⟨0x100, 0, 1, 0, 1, .any, [.mk 31 16 .wo (.n 0) .h, .mk 15 8 .wo (.n 0) .h, .mk 6 6 .wo (.n 0) .h, .mk 3 0 .wo (.n 0) .h]⟩,
  -- CAN_TX_STAT (R331): RESULT, HOST_LEVEL, LEVEL
  ⟨0x104, 0, 1, 0, 1, .any, [.mk 31 28 .ro (.n 0) .s, .mk 23 16 .ro (.n 0) .s, .mk 15 8 .ro (.n 0) .s]⟩]
  ++ [
  -- TXS_ID (R331): ID
  ⟨0x180, 0, 1, 0, 1, .any, [.mk 31 0 .rw (.n 0) .h]⟩,
  -- TXS_CTL (R331): LEN, DLC, RTR, BRS, ESI, SEC, TRUNC, SELF, PORT, SDT
  ⟨0x184, 0, 1, 0, 1, .any, [.mk 31 20 .rw (.n 0) .h, .mk 19 16 .rw (.n 0) .h, .mk 15 15 .rw (.n 0) .h, .mk 14 14 .rw (.n 0) .h, .mk 13 13 .rw (.n 0) .h, .mk 12 12 .rw (.n 0) .h, .mk 11 11 .rw (.n 0) .h, .mk 10 10 .rw (.n 0) .h, .mk 9 8 .rw (.n 0) .h, .mk 7 0 .rw (.n 0) .h]⟩,
  -- TXS_XL (R331): VCID
  ⟨0x188, 0, 1, 0, 1, .any, [.mk 31 24 .rw (.n 0) .h]⟩,
  -- TXS_AF (R331): AF
  ⟨0x18C, 0, 1, 0, 1, .any, [.mk 31 0 .rw (.n 0) .h]⟩,
  -- FLT_CTL (R329): EN, ALSO, RTR_MODE, TARGET, INDEX
  ⟨0x800, 32, 64, 0, 1, .any, [.mk 31 31 .rwl (.n 0) .i, .mk 30 30 .rwl (.n 0) .i, .mk 29 28 .rwl (.n 0) .i, .mk 18 16 .rwl (.n 0) .i, .mk 7 0 .rwl (.n 0) .i]⟩,
  -- FLT_ID (R329): ID
  ⟨0x804, 32, 64, 0, 1, .any, [.mk 31 0 .rwl (.n 0) .i]⟩,
  -- FLT_IDMASK (R329): MASK
  ⟨0x808, 32, 64, 0, 1, .any, [.mk 31 0 .rwl (.n 0) .i]⟩,
  -- FLT_XL (R329): SDT, VCID, SDTM, VCIDM
  ⟨0x80C, 32, 64, 0, 1, .any, [.mk 31 24 .rwl (.n 0) .i, .mk 23 16 .rwl (.n 0) .i, .mk 15 8 .rwl (.n 0) .i, .mk 7 0 .rwl (.n 0) .i]⟩,
  -- FLT_AF (R329): AF
  ⟨0x810, 32, 64, 0, 1, .any, [.mk 31 0 .rwl (.n 0) .i]⟩,
  -- FLT_AFMASK (R329): MASK
  ⟨0x814, 32, 64, 0, 1, .any, [.mk 31 0 .rwl (.n 0) .i]⟩,
  -- LVB_HDR0 (R330): W
  ⟨0x1000, 128, 32, 0, 1, .any, [.mk 31 0 .ro (.n 0) .s]⟩,
  -- LVB_HDR1 (R330): W
  ⟨0x1004, 128, 32, 0, 1, .any, [.mk 31 0 .ro (.n 0) .s]⟩]
  ++ [
  -- LVB_HDR2 (R330): W
  ⟨0x1008, 128, 32, 0, 1, .any, [.mk 31 0 .ro (.n 0) .s]⟩,
  -- LVB_HDR3 (R330): W
  ⟨0x100C, 128, 32, 0, 1, .any, [.mk 31 0 .ro (.n 0) .s]⟩,
  -- LVB_DATA (R330): W
  ⟨0x1010, 128, 32, 4, 16, .any, [.mk 31 0 .ro (.n 0) .s]⟩,
  -- LVB_STAT (R330): COUNT, LOST, TMO, LOCKED, VALID
  ⟨0x1050, 128, 32, 0, 1, .any, [.mk 31 16 .ro (.n 0) .s, .mk 15 8 .ro (.n 0) .s, .mk 2 2 .ro (.n 0) .s, .mk 1 1 .ro (.n 0) .s, .mk 0 0 .ro (.n 0) .s]⟩,
  -- TXS_DATA (R331): D
  ⟨0x2000, 4, 512, 0, 1, .any, [.mk 31 0 .rw (.n 0) .h]⟩]

/-- The blocks of R551 that hold registers. -/
def blocks : List Blk := [
  ⟨0x0, 0, 1, 4096, rowsMod⟩,
  ⟨0x1000, 0, 1, 4096, rowsSv⟩,
  ⟨0x2000, 0, 1, 256, rowsTu⟩,
  ⟨0x2100, 32, 16, 32, rowsSch⟩,
  ⟨0x3000, 64, 8, 64, rowsCv⟩,
  ⟨0x4000, 0, 1, 4096, rowsBt⟩,
  ⟨0x5000, 0, 1, 1024, rowsSp0⟩,
  ⟨0x5400, 0, 1, 1024, rowsSp1⟩,
  ⟨0x5800, 0, 1, 1024, rowsSp2⟩,
  ⟨0x6000, 0, 1, 4096, rowsCsn⟩,
  ⟨0x7000, 32, 251, 32, rowsRos⟩,
  ⟨0xC000, 0, 1, 4096, rowsEv⟩,
  ⟨0xD000, 0, 1, 4096, rowsCa⟩,
  ⟨0xE000, 0, 1, 2048, rowsFc⟩,
  ⟨0xE800, 512, 12, 512, rowsPr⟩,
  ⟨0x10000, 4096, 16, 4096, rowsTile⟩,
  ⟨0x20000, 256, 256, 256, rowsCh⟩,
  ⟨0x30000, 64, 128, 64, rowsQ⟩,
  ⟨0x32000, 32, 8, 32, rowsLog⟩,
  ⟨0x40000, 256, 160, 256, rowsCtx⟩,
  ⟨0x4F000, 0, 1, 4096, rowsHe⟩,
  ⟨0x50000, 16384, 4, 16384, rowsCan⟩]

/-- R179: ORDER, RATIO, NORM, HBN, TAPS, DEC, A1, A2, M2, SH1, SH3, LEANDIV of the named presets 0 to 7;
then R178's span, decimation and suppression count and R201's PR_GD. -/
def namedPresets : List (List Nat) := [
  [3, 64, 0x800000, 0, 0, 0, 48000, 10, 1, 18, 0, 1, 30720126, 3072000, 11, 30720125],
  [3, 64, 0x800000, 0, 0, 0, 4800, 1, 1, 18, 0, 1, 307326, 307200, 2, 307325],
  [1, 64, 0x800000, 0, 0, 0, 960, 1, 1, 6, 0, 1, 61440, 61440, 1, 61439],
  [1, 64, 0x800000, 0, 0, 0, 800, 1, 1, 6, 0, 1, 51200, 51200, 1, 51199],
  [4, 250, 0x465E66, 6, 48, 3, 1, 1, 1, 31, 23, 0, 975497, 48000, 6, 216000],
  [4, 128, 0x800000, 3, 48, 3, 1, 1, 1, 28, 23, 0, 62205, 3072, 6, 13824],
  [4, 32, 0x800000, 2, 48, 3, 1, 1, 1, 20, 23, 0, 7741, 384, 6, 1728],
  [4, 8, 0x800000, 2, 48, 3, 1, 1, 1, 12, 23, 0, 1933, 96, 6, 432]]

/-- R583: the 48 FIR taps of the fast presets. -/
def fastTaps : List Int := [
  206871, 879200, 1758401, 2249124, 2016979, 1448095,
  724047, 103435, -310306, -465459, -413741, -258588,
  -51718, 103435, 186184, 186184, 124122, 51718,
  -20687, -62061, -72405, -51718, -20687, 10344,
  31031, 31031, 20687, 10344, 1200, -10344,
  -12000, -9000, -4500, 1000, 3800, 4200,
  2900, 900, -800, -1700, -1600, -900,
  -100, 400, 600, 450, 200, 40]

/-- The value of item `it` of preset record `x`, tap `j` (R201): user records start at 0, in error, with a gain and a decimation of 0
(R181, R191). -/
def presetReset (it : PrItem) (x j : Nat) : Nat :=
  if 8 ≤ x then (if it = .err ∨ it = .dcg ∨ it = .leanNa then 1 else 0) else
  let g := fun k => (namedPresets.getD x []).getD k 0
  match it with
  | .order => g 0 | .ratio => g 1 | .norm => g 2 | .hbn => g 3 | .taps => g 4 | .dec => g 5
  | .a1 => g 6 | .a2 => g 7 | .m2 => g 8 | .sh1 => g 9 | .sh2 => 0 | .sh3 => g 10 | .sh4 => 0
  | .lean => g 11 | .len => g 12 | .d => g 13 | .suppEff => g 14 | .gd => g 15
  | .supp => 0 | .err => 0 | .dcg => 0
  | .leanNa => if x = 7 then 1 else 0
  | .tap => if 4 ≤ x then toU 24 (fastTaps.getD j 0) else 0

/-- Reset value of a field of instance `i`, sub-index `j`. The factory calibration values are those an
unprogrammed factory area gives; POWER_ON puts a programmed part's values in their place (R158). -/
def rvalOf (v : RVal) (i j : Nat) : Nat :=
  match v with
  | .n x => x
  | .grade => Config.grade.toNat
  | .chKind => if i % 16 < 8 then 0 else if i % 16 < 12 then 1 else 2
  | .chN => i
  | .chA => 4 * (i / 16) + (i % 16 - 12)
  | .qPolicy => if i < 64 ∨ i = 125 ∨ i = 127 then 1 else 0
  | .qDepth => if i < 64 then 13 else if i < 120 then 0 else if i < 125 then 8 else if i = 125 then 10
      else if i = 126 then 12 else 6
  | .qEsize => if i < 64 then 1 else if i < 120 then 0 else if i < 127 then 2 else 4
  | .facOfs => 0
  | .facGain => 0x800000
  | .pr it => presetReset it i j

/-- Whether a row of kind `k` exists in instance `i` of its block. -/
def kindHas (k : RKind) (i : Nat) : Bool :=
  match k with
  | .any => true
  | .di => i % 16 < 8
  | .do => 8 ≤ i % 16 && i % 16 < 12
  | .an => 12 ≤ i % 16
  | .ao => 14 ≤ i % 16

/-- The sub-index of offset `o` in row `r`, if `o` is one of the row's registers. -/
def rowIx (r : Row) (o : Nat) : Option Nat :=
  if o < r.off then none
  else if r.cnt2 = 1 then
    (if r.st = 0 then (if o = r.off then some 0 else none)
     else if (o - r.off) % r.st = 0 ∧ (o - r.off) / r.st < r.cnt then some ((o - r.off) / r.st) else none)
  else
    let k := (o - r.off) % r.st
    if (o - r.off) / r.st < r.cnt ∧ k % r.st2 = 0 ∧ k / r.st2 < r.cnt2 then some (k / r.st2) else none

/-- The row of offset `o` among `rows` in instance `i`, with its sub-index. -/
def findRow (i o : Nat) : List Row → Option (Row × Nat)
  | [] => none
  | r :: rs =>
    if kindHas r.kind i then
      match rowIx r o with
      | some j => some (r, j)
      | none => findRow i o rs
    else findRow i o rs

/-- The register at byte address `a`: its row, instance and sub-index. -/
def findReg (a : Nat) : List Blk → Option (Row × Nat × Nat)
  | [] => none
  | b :: bs =>
    if b.base ≤ a ∧ a < b.base + (if b.stride = 0 then b.size else b.stride * b.count) then
      let i := if b.stride = 0 then 0 else (a - b.base) / b.stride
      let o := if b.stride = 0 then a - b.base else (a - b.base) % b.stride
      match findRow i o b.rows with
      | some (r, j) => some (r, i, j)
      | none => none
    else findReg a bs

/-- The fields of the register at `a`; none where R552 leaves the offset unassigned. -/
def fieldsAt (a : Nat) : List FldDef :=
  match findReg a blocks with
  | some (r, _, _) => r.flds
  | none => []

/-- The reset value of the register at `a`; an unassigned offset reads 0 (R552). -/
def resetWord (a : Nat) : Word :=
  match findReg a blocks with
  | some (r, i, j) => r.flds.foldl (fun w f => setBits w f.hi f.lo (rvalOf f.rst i j)) 0
  | none => 0

/-- The bits of fields that satisfy `p`, as a mask. -/
def maskOf (p : FldDef → Bool) : List FldDef → Nat
  | [] => 0
  | f :: fs => (if p f then (2 ^ (f.hi + 1 - f.lo) - 1) * 2 ^ f.lo else 0) + maskOf p fs

/-- Whether the address lies in hoist memory (R368), 0x0008_0000 to 0x000B_FFFF. -/
def isHoistMem (a : Nat) : Bool := 0x80000 ≤ a && a < 0xC0000

/-- Bits of the register at `a` that a read returns: every defined field but a write-only one (R4, R5). -/
def readMask (a : Nat) : Nat :=
  if isHoistMem a then 0xFFFFFFFF else maskOf (fun f => f.acc ≠ .wo) (fieldsAt a)

/-- Bits of fields of class `c` in the register at `a`. -/
def classMask (c : Cls → Bool) (a : Nat) : Nat := maskOf (fun f => c f.cls) (fieldsAt a)

/-- `w` with the bits of `m` taken from `v`. -/
def blend (m : Nat) (w v : Word) : Word :=
  (w &&& ~~~ (BitVec.ofNat 32 m)) ||| (v &&& BitVec.ofNat 32 m)

end Sys2Proof.Machine
end

