-- ==== Sys2Proof/Machine/Regs.lean ====
section
/-! DEFINITION. The addresses of the module's registers (Reg) and their fields (FldRef), named as the register
tables of the spec's chapters name them. -/

namespace Sys2Proof.Machine

/-- A register field: the byte address of its register and its bits [hi:lo]. -/
structure FldRef where
  a : Nat
  hi : Nat
  lo : Nat
  deriving DecidableEq, Repr

/-- The bits of a register by what a write does to them (R4): RWL, RW, WO, W1C. -/
structure WMask where
  rwl : Nat
  rw : Nat
  wo : Nat
  w1c : Nat
  deriving DecidableEq, Repr

/-! Block mod (spec chapter 01/02/07/16/17). -/
/-- R28. -/
abbrev Reg.MOD_ID : Nat := 0x0
abbrev FldRef.MOD_ID_PART : FldRef := ⟨Reg.MOD_ID, 31, 16⟩
abbrev FldRef.MOD_ID_GRADE : FldRef := ⟨Reg.MOD_ID, 11, 8⟩
abbrev FldRef.MOD_ID_REV_LETTER : FldRef := ⟨Reg.MOD_ID, 7, 4⟩
abbrev FldRef.MOD_ID_REV_NUM : FldRef := ⟨Reg.MOD_ID, 3, 0⟩
/-- R524. -/
abbrev Reg.MOD_STATE : Nat := 0x4
abbrev FldRef.MOD_STATE_POWER : FldRef := ⟨Reg.MOD_STATE, 31, 28⟩
abbrev FldRef.MOD_STATE_ROLE_A : FldRef := ⟨Reg.MOD_STATE, 27, 26⟩
abbrev FldRef.MOD_STATE_ROLE_B : FldRef := ⟨Reg.MOD_STATE, 25, 24⟩
abbrev FldRef.MOD_STATE_HALF_MAST : FldRef := ⟨Reg.MOD_STATE, 23, 23⟩
abbrev FldRef.MOD_STATE_ACT_DOM : FldRef := ⟨Reg.MOD_STATE, 22, 22⟩
/-- R547. -/
abbrev Reg.MOD_RESET : Nat := 0x8
abbrev Msk.MOD_RESET : WMask := ⟨0, 0, 0xffff000f, 0⟩
abbrev FldRef.MOD_RESET_KEY : FldRef := ⟨Reg.MOD_RESET, 31, 16⟩
abbrev FldRef.MOD_RESET_OP : FldRef := ⟨Reg.MOD_RESET, 3, 0⟩
/-- R548. -/
abbrev Reg.MOD_POWER : Nat := 0xC
abbrev Msk.MOD_POWER : WMask := ⟨0xfffffc00, 0, 0x7, 0⟩
abbrev FldRef.MOD_POWER_ENTRY_WAIT : FldRef := ⟨Reg.MOD_POWER, 31, 24⟩
abbrev FldRef.MOD_POWER_IDLE_SLEEP : FldRef := ⟨Reg.MOD_POWER, 23, 16⟩
abbrev FldRef.MOD_POWER_WAKE_EN : FldRef := ⟨Reg.MOD_POWER, 15, 15⟩
abbrev FldRef.MOD_POWER_WAKE_POL : FldRef := ⟨Reg.MOD_POWER, 14, 14⟩
abbrev FldRef.MOD_POWER_BOOT : FldRef := ⟨Reg.MOD_POWER, 13, 12⟩
abbrev FldRef.MOD_POWER_WAKE_TO : FldRef := ⟨Reg.MOD_POWER, 11, 10⟩
abbrev FldRef.MOD_POWER_CFG_ADJ : FldRef := ⟨Reg.MOD_POWER, 9, 9⟩
abbrev FldRef.MOD_POWER_RESULT : FldRef := ⟨Reg.MOD_POWER, 7, 4⟩
abbrev FldRef.MOD_POWER_REQ : FldRef := ⟨Reg.MOD_POWER, 2, 0⟩
/-- R216. -/
abbrev Reg.MOD_IRQ : Nat := 0x10
abbrev Msk.MOD_IRQ : WMask := ⟨0, 0, 0, 0xfff⟩
abbrev FldRef.MOD_IRQ_BITS : FldRef := ⟨Reg.MOD_IRQ, 11, 0⟩
/-- R217. -/
abbrev Reg.MOD_IRQ_EN : Nat := 0x14
abbrev Msk.MOD_IRQ_EN : WMask := ⟨0, 0xfff, 0, 0⟩
abbrev FldRef.MOD_IRQ_EN_BITS : FldRef := ⟨Reg.MOD_IRQ_EN, 11, 0⟩
/-- R549. -/
abbrev Reg.MOD_START : Nat := 0x18
abbrev Msk.MOD_START : WMask := ⟨0, 0, 0, 0xc⟩
abbrev FldRef.MOD_START_CAUSE : FldRef := ⟨Reg.MOD_START, 31, 28⟩
abbrev FldRef.MOD_START_STEP : FldRef := ⟨Reg.MOD_START, 27, 24⟩
abbrev FldRef.MOD_START_FAIL : FldRef := ⟨Reg.MOD_START, 23, 20⟩
abbrev FldRef.MOD_START_WAKE : FldRef := ⟨Reg.MOD_START, 19, 16⟩
abbrev FldRef.MOD_START_WAKE_SRC : FldRef := ⟨Reg.MOD_START, 15, 12⟩
abbrev FldRef.MOD_START_PREV : FldRef := ⟨Reg.MOD_START, 11, 8⟩
abbrev FldRef.MOD_START_H_LOST : FldRef := ⟨Reg.MOD_START, 3, 3⟩
abbrev FldRef.MOD_START_IGNORED : FldRef := ⟨Reg.MOD_START, 2, 2⟩
/-- R227. -/
abbrev Reg.MOD_DIP : Nat := 0x20
abbrev Msk.MOD_DIP : WMask := ⟨0, 0xffff0002, 0x1, 0x4⟩
abbrev FldRef.MOD_DIP_ID : FldRef := ⟨Reg.MOD_DIP, 31, 16⟩
abbrev FldRef.MOD_DIP_REFUSED : FldRef := ⟨Reg.MOD_DIP, 2, 2⟩
abbrev FldRef.MOD_DIP_AT : FldRef := ⟨Reg.MOD_DIP, 1, 1⟩
abbrev FldRef.MOD_DIP_GO : FldRef := ⟨Reg.MOD_DIP, 0, 0⟩
/-- R227. -/
abbrev Reg.MOD_DIP_TGT (i : Nat) : Nat := 0x28 + 4 * i
abbrev Msk.MOD_DIP_TGT : WMask := ⟨0, 0xffffffff, 0, 0⟩
abbrev FldRef.MOD_DIP_TGT_TGT (i : Nat) : FldRef := ⟨Reg.MOD_DIP_TGT i, 31, 0⟩
/-- R525. -/
abbrev Reg.MOD_WDOG : Nat := 0x30
abbrev Msk.MOD_WDOG : WMask := ⟨0x80ffff, 0, 0xff000000, 0⟩
abbrev FldRef.MOD_WDOG_SERVICE : FldRef := ⟨Reg.MOD_WDOG, 31, 24⟩
abbrev FldRef.MOD_WDOG_EN : FldRef := ⟨Reg.MOD_WDOG, 23, 23⟩
abbrev FldRef.MOD_WDOG_EXPIRED : FldRef := ⟨Reg.MOD_WDOG, 22, 22⟩
abbrev FldRef.MOD_WDOG_CFG_ADJ : FldRef := ⟨Reg.MOD_WDOG, 21, 21⟩
abbrev FldRef.MOD_WDOG_PERIOD : FldRef := ⟨Reg.MOD_WDOG, 15, 0⟩
/-- R29. -/
abbrev Reg.MOD_XREAD : Nat := 0x40
abbrev FldRef.MOD_XREAD_MISS_CNT : FldRef := ⟨Reg.MOD_XREAD, 31, 16⟩
abbrev FldRef.MOD_XREAD_MAX_LAT : FldRef := ⟨Reg.MOD_XREAD, 7, 0⟩
/-- R48. -/
abbrev Reg.MOD_CFG_LOCK : Nat := 0x48
abbrev Msk.MOD_CFG_LOCK : WMask := ⟨0x7, 0, 0, 0⟩
abbrev FldRef.MOD_CFG_LOCK_DENY_CNT : FldRef := ⟨Reg.MOD_CFG_LOCK, 31, 16⟩
abbrev FldRef.MOD_CFG_LOCK_OTP : FldRef := ⟨Reg.MOD_CFG_LOCK, 2, 2⟩
abbrev FldRef.MOD_CFG_LOCK_S0_RO : FldRef := ⟨Reg.MOD_CFG_LOCK, 1, 1⟩
abbrev FldRef.MOD_CFG_LOCK_CFG : FldRef := ⟨Reg.MOD_CFG_LOCK, 0, 0⟩

/-! Block sv (spec chapter 16). -/
/-- R527. -/
abbrev Reg.SV_CFG : Nat := 0x1000
abbrev Msk.SV_CFG : WMask := ⟨0xffff181f, 0, 0, 0⟩
abbrev FldRef.SV_CFG_FT_PER : FldRef := ⟨Reg.SV_CFG, 31, 24⟩
abbrev FldRef.SV_CFG_SWITCH_WAIT : FldRef := ⟨Reg.SV_CFG, 23, 16⟩
abbrev FldRef.SV_CFG_AUTO_REJOIN : FldRef := ⟨Reg.SV_CFG, 12, 12⟩
abbrev FldRef.SV_CFG_HM_FAULT : FldRef := ⟨Reg.SV_CFG, 11, 11⟩
abbrev FldRef.SV_CFG_JEPOCH : FldRef := ⟨Reg.SV_CFG, 4, 0⟩
/-- R526. -/
abbrev Reg.SV_STAT : Nat := 0x1004
abbrev FldRef.SV_STAT_ROLE_A : FldRef := ⟨Reg.SV_STAT, 31, 30⟩
abbrev FldRef.SV_STAT_ROLE_B : FldRef := ⟨Reg.SV_STAT, 29, 28⟩
abbrev FldRef.SV_STAT_STBY : FldRef := ⟨Reg.SV_STAT, 27, 25⟩
abbrev FldRef.SV_STAT_ACT_DOM : FldRef := ⟨Reg.SV_STAT, 24, 24⟩
abbrev FldRef.SV_STAT_HM_WHY : FldRef := ⟨Reg.SV_STAT, 23, 20⟩
abbrev FldRef.SV_STAT_DISAGREE : FldRef := ⟨Reg.SV_STAT, 19, 19⟩
abbrev FldRef.SV_STAT_ARB_FAULT : FldRef := ⟨Reg.SV_STAT, 18, 18⟩
abbrev FldRef.SV_STAT_SWITCHING : FldRef := ⟨Reg.SV_STAT, 17, 17⟩
abbrev FldRef.SV_STAT_CFG_ADJ : FldRef := ⟨Reg.SV_STAT, 16, 16⟩
abbrev FldRef.SV_STAT_EPOCH : FldRef := ⟨Reg.SV_STAT, 15, 0⟩
/-- R528. -/
abbrev Reg.SV_JSEQ : Nat := 0x1008
abbrev FldRef.SV_JSEQ_JSEQ : FldRef := ⟨Reg.SV_JSEQ, 31, 0⟩
/-- R528. -/
abbrev Reg.SV_JLAG : Nat := 0x100C
abbrev FldRef.SV_JLAG_MAX : FldRef := ⟨Reg.SV_JLAG, 31, 16⟩
abbrev FldRef.SV_JLAG_LAST : FldRef := ⟨Reg.SV_JLAG, 15, 0⟩
/-- R528. -/
abbrev Reg.SV_FAIL : Nat := 0x1010
abbrev FldRef.SV_FAIL_CAUSE : FldRef := ⟨Reg.SV_FAIL, 31, 24⟩
abbrev FldRef.SV_FAIL_DOM : FldRef := ⟨Reg.SV_FAIL, 23, 23⟩
/-- R528. -/
abbrev Reg.SV_FAIL_TS (i : Nat) : Nat := 0x1018 + 4 * i
abbrev FldRef.SV_FAIL_TS_TS (i : Nat) : FldRef := ⟨Reg.SV_FAIL_TS i, 31, 0⟩
/-- R528. -/
abbrev Reg.SV_CNT : Nat := 0x1020
abbrev FldRef.SV_CNT_DISAGREE : FldRef := ⟨Reg.SV_CNT, 15, 8⟩
abbrev FldRef.SV_CNT_LINKMISS : FldRef := ⟨Reg.SV_CNT, 7, 0⟩
/-- R528. -/
abbrev Reg.SV_TKO : Nat := 0x1024
abbrev FldRef.SV_TKO_TKO : FldRef := ⟨Reg.SV_TKO, 31, 0⟩
/-- R528. -/
abbrev Reg.SV_CMD : Nat := 0x1028
abbrev Msk.SV_CMD : WMask := ⟨0, 0, 0xf00f0000, 0⟩
abbrev FldRef.SV_CMD_OP : FldRef := ⟨Reg.SV_CMD, 31, 28⟩
abbrev FldRef.SV_CMD_TILE : FldRef := ⟨Reg.SV_CMD, 19, 16⟩
/-- R528. -/
abbrev Reg.SV_PERMIT : Nat := 0x102C
abbrev FldRef.SV_PERMIT_RESULT : FldRef := ⟨Reg.SV_PERMIT, 31, 28⟩
abbrev FldRef.SV_PERMIT_CONFLICT : FldRef := ⟨Reg.SV_PERMIT, 27, 24⟩
abbrev FldRef.SV_PERMIT_ACT : FldRef := ⟨Reg.SV_PERMIT, 22, 20⟩
abbrev FldRef.SV_PERMIT_HELD : FldRef := ⟨Reg.SV_PERMIT, 6, 0⟩
/-- R528. -/
abbrev Reg.SV_BURGEE : Nat := 0x1030
abbrev Msk.SV_BURGEE : WMask := ⟨0x7fffff, 0, 0, 0⟩
abbrev FldRef.SV_BURGEE_Q : FldRef := ⟨Reg.SV_BURGEE, 22, 16⟩
abbrev FldRef.SV_BURGEE_PERIOD : FldRef := ⟨Reg.SV_BURGEE, 15, 0⟩
/-- R528. -/
abbrev Reg.SV_ECC : Nat := 0x1034
abbrev FldRef.SV_ECC_CORR : FldRef := ⟨Reg.SV_ECC, 31, 16⟩
abbrev FldRef.SV_ECC_UNCORR : FldRef := ⟨Reg.SV_ECC, 15, 0⟩

/-! Block tu (spec chapter 09). -/
/-- R287. -/
abbrev Reg.TU_NOW (i : Nat) : Nat := 0x2000 + 4 * i
abbrev FldRef.TU_NOW_NOW (i : Nat) : FldRef := ⟨Reg.TU_NOW i, 31, 0⟩
/-- R285. -/
abbrev Reg.TU_STAT : Nat := 0x2008
abbrev Msk.TU_STAT : WMask := ⟨0, 0, 0, 0x6⟩
abbrev FldRef.TU_STAT_STATE : FldRef := ⟨Reg.TU_STAT, 31, 28⟩
abbrev FldRef.TU_STAT_SRC_EFF : FldRef := ⟨Reg.TU_STAT, 27, 26⟩
abbrev FldRef.TU_STAT_STEP_CNT : FldRef := ⟨Reg.TU_STAT, 23, 16⟩
abbrev FldRef.TU_STAT_REJ_CNT : FldRef := ⟨Reg.TU_STAT, 15, 8⟩
abbrev FldRef.TU_STAT_EPOCH_SET : FldRef := ⟨Reg.TU_STAT, 4, 4⟩
abbrev FldRef.TU_STAT_CLAMPED : FldRef := ⟨Reg.TU_STAT, 3, 3⟩
abbrev FldRef.TU_STAT_SET_DENIED : FldRef := ⟨Reg.TU_STAT, 2, 2⟩
abbrev FldRef.TU_STAT_STEPPED : FldRef := ⟨Reg.TU_STAT, 1, 1⟩
/-- R287. -/
abbrev Reg.TU_SRC : Nat := 0x200C
abbrev Msk.TU_SRC : WMask := ⟨0x3, 0, 0, 0⟩
abbrev FldRef.TU_SRC_SRC : FldRef := ⟨Reg.TU_SRC, 1, 0⟩
/-- R287. -/
abbrev Reg.TU_RATE : Nat := 0x2010
abbrev Msk.TU_RATE : WMask := ⟨0, 0xffffffff, 0, 0⟩
abbrev FldRef.TU_RATE_RATE : FldRef := ⟨Reg.TU_RATE, 31, 0⟩
/-- R287. -/
abbrev Reg.TU_OFFSET : Nat := 0x2014
abbrev FldRef.TU_OFFSET_OFF : FldRef := ⟨Reg.TU_OFFSET, 31, 0⟩
/-- R287. -/
abbrev Reg.TU_SET (i : Nat) : Nat := 0x2018 + 4 * i
abbrev Msk.TU_SET : WMask := ⟨0, 0, 0xffffffff, 0⟩
abbrev FldRef.TU_SET_SET (i : Nat) : FldRef := ⟨Reg.TU_SET i, 31, 0⟩
/-- R287. -/
abbrev Reg.TU_STEP : Nat := 0x2020
abbrev Msk.TU_STEP : WMask := ⟨0, 0, 0xffffffff, 0⟩
abbrev FldRef.TU_STEP_STEP : FldRef := ⟨Reg.TU_STEP, 31, 0⟩
/-- R286. -/
abbrev Reg.TU_SERVO : Nat := 0x2024
abbrev Msk.TU_SERVO : WMask := ⟨0xffffffff, 0, 0, 0⟩
abbrev FldRef.TU_SERVO_STEP_THR : FldRef := ⟨Reg.TU_SERVO, 31, 16⟩
abbrev FldRef.TU_SERVO_LOCK_THR : FldRef := ⟨Reg.TU_SERVO, 15, 8⟩
abbrev FldRef.TU_SERVO_PSH : FldRef := ⟨Reg.TU_SERVO, 7, 4⟩
abbrev FldRef.TU_SERVO_FSH : FldRef := ⟨Reg.TU_SERVO, 3, 0⟩
/-- R287. -/
abbrev Reg.TU_CAN_ID : Nat := 0x2030
abbrev Msk.TU_CAN_ID : WMask := ⟨0x3fffffff, 0, 0, 0⟩
abbrev FldRef.TU_CAN_ID_ID : FldRef := ⟨Reg.TU_CAN_ID, 29, 0⟩
/-- R287. -/
abbrev Reg.TU_CAN_CFG : Nat := 0x2034
abbrev Msk.TU_CAN_CFG : WMask := ⟨0x330ffff, 0, 0, 0⟩
abbrev FldRef.TU_CAN_CFG_CFG_ADJ : FldRef := ⟨Reg.TU_CAN_CFG, 31, 31⟩
abbrev FldRef.TU_CAN_CFG_ROLE : FldRef := ⟨Reg.TU_CAN_CFG, 25, 24⟩
abbrev FldRef.TU_CAN_CFG_PORT : FldRef := ⟨Reg.TU_CAN_CFG, 21, 20⟩
abbrev FldRef.TU_CAN_CFG_PER : FldRef := ⟨Reg.TU_CAN_CFG, 15, 0⟩
/-- R287. -/
abbrev Reg.TU_CAN_COMP : Nat := 0x2038
abbrev Msk.TU_CAN_COMP : WMask := ⟨0xffffff, 0, 0, 0⟩
abbrev FldRef.TU_CAN_COMP_COMP : FldRef := ⟨Reg.TU_CAN_COMP, 23, 0⟩
/-- R287. -/
abbrev Reg.TU_CAN_STAT : Nat := 0x203C
abbrev FldRef.TU_CAN_STAT_SEQ : FldRef := ⟨Reg.TU_CAN_STAT, 31, 24⟩
abbrev FldRef.TU_CAN_STAT_SKIP_CNT : FldRef := ⟨Reg.TU_CAN_STAT, 23, 16⟩
abbrev FldRef.TU_CAN_STAT_REF_CNT : FldRef := ⟨Reg.TU_CAN_STAT, 15, 0⟩
/-- R287. -/
abbrev Reg.TU_RING_CFG : Nat := 0x2040
abbrev Msk.TU_RING_CFG : WMask := ⟨0xff7f, 0, 0, 0⟩
abbrev FldRef.TU_RING_CFG_JUMP : FldRef := ⟨Reg.TU_RING_CFG, 15, 8⟩
abbrev FldRef.TU_RING_CFG_PER : FldRef := ⟨Reg.TU_RING_CFG, 6, 0⟩
/-- R287. -/
abbrev Reg.TU_PPS_CFG : Nat := 0x2044
abbrev Msk.TU_PPS_CFG : WMask := ⟨0xffffffff, 0, 0, 0⟩
abbrev FldRef.TU_PPS_CFG_WIN : FldRef := ⟨Reg.TU_PPS_CFG, 31, 24⟩
abbrev FldRef.TU_PPS_CFG_COMP : FldRef := ⟨Reg.TU_PPS_CFG, 23, 0⟩
/-- R287. -/
abbrev Reg.TU_TOKEN_CFG : Nat := 0x2048
abbrev Msk.TU_TOKEN_CFG : WMask := ⟨0xffffff03, 0, 0, 0⟩
abbrev FldRef.TU_TOKEN_CFG_LEAD : FldRef := ⟨Reg.TU_TOKEN_CFG, 31, 8⟩
abbrev FldRef.TU_TOKEN_CFG_REP : FldRef := ⟨Reg.TU_TOKEN_CFG, 1, 0⟩
/-- R287. -/
abbrev Reg.TU_TOKEN : Nat := 0x2050
abbrev Msk.TU_TOKEN : WMask := ⟨0, 0, 0xffff0007, 0⟩
abbrev FldRef.TU_TOKEN_ID : FldRef := ⟨Reg.TU_TOKEN, 31, 16⟩
abbrev FldRef.TU_TOKEN_KIND : FldRef := ⟨Reg.TU_TOKEN, 2, 1⟩
abbrev FldRef.TU_TOKEN_GO : FldRef := ⟨Reg.TU_TOKEN, 0, 0⟩
/-- R287. -/
abbrev Reg.TU_TOKEN_TGT (i : Nat) : Nat := 0x2058 + 4 * i
abbrev Msk.TU_TOKEN_TGT : WMask := ⟨0, 0xffffffff, 0, 0⟩
abbrev FldRef.TU_TOKEN_TGT_TGT (i : Nat) : FldRef := ⟨Reg.TU_TOKEN_TGT i, 31, 0⟩
/-- R287. -/
abbrev Reg.TU_TOKEN_STAT : Nat := 0x2060
abbrev FldRef.TU_TOKEN_STAT_LAST_ID : FldRef := ⟨Reg.TU_TOKEN_STAT, 31, 16⟩
abbrev FldRef.TU_TOKEN_STAT_UNLOCK_CNT : FldRef := ⟨Reg.TU_TOKEN_STAT, 11, 8⟩
abbrev FldRef.TU_TOKEN_STAT_LATE_CNT : FldRef := ⟨Reg.TU_TOKEN_STAT, 7, 4⟩

/-! Block sch (spec chapter 09). -/
/-- R288. -/
abbrev Reg.TU_SCH_CFG (j : Nat) : Nat := 0x2100 + 0x20 * j
abbrev Msk.TU_SCH_CFG : WMask := ⟨0, 0xffff000f, 0, 0x20⟩
abbrev FldRef.TU_SCH_CFG_ARG (j : Nat) : FldRef := ⟨Reg.TU_SCH_CFG j, 31, 16⟩
abbrev FldRef.TU_SCH_CFG_CFG_ADJ (j : Nat) : FldRef := ⟨Reg.TU_SCH_CFG j, 6, 6⟩
abbrev FldRef.TU_SCH_CFG_FIRED (j : Nat) : FldRef := ⟨Reg.TU_SCH_CFG j, 5, 5⟩
abbrev FldRef.TU_SCH_CFG_KIND (j : Nat) : FldRef := ⟨Reg.TU_SCH_CFG j, 3, 0⟩
/-- R288. -/
abbrev Reg.TU_SCH_MISS (j : Nat) : Nat := 0x2104 + 0x20 * j
abbrev FldRef.TU_SCH_MISS_MISS (j : Nat) : FldRef := ⟨Reg.TU_SCH_MISS j, 15, 0⟩
/-- R288. -/
abbrev Reg.TU_SCH_PER (j i : Nat) : Nat := 0x2108 + 0x20 * j + 4 * i
abbrev Msk.TU_SCH_PER : WMask := ⟨0, 0xffffffff, 0, 0⟩
abbrev FldRef.TU_SCH_PER_PER (j i : Nat) : FldRef := ⟨Reg.TU_SCH_PER j i, 31, 0⟩
/-- R288. -/
abbrev Reg.TU_SCH_PHASE (j i : Nat) : Nat := 0x2110 + 0x20 * j + 4 * i
abbrev Msk.TU_SCH_PHASE : WMask := ⟨0, 0xffffffff, 0, 0⟩
abbrev FldRef.TU_SCH_PHASE_PHASE (j i : Nat) : FldRef := ⟨Reg.TU_SCH_PHASE j i, 31, 0⟩
/-- R288. -/
abbrev Reg.TU_SCH_NEXT (j i : Nat) : Nat := 0x2118 + 0x20 * j + 4 * i
abbrev FldRef.TU_SCH_NEXT_NEXT (j i : Nat) : FldRef := ⟨Reg.TU_SCH_NEXT j i, 31, 0⟩

/-! Block cv (spec chapter 15). -/
/-- R487. -/
abbrev Reg.CV_CFG (u : Nat) : Nat := 0x3000 + 0x40 * u
abbrev Msk.CV_CFG : WMask := ⟨0, 0x37f, 0, 0⟩
abbrev FldRef.CV_CFG_REFOUT (u : Nat) : FldRef := ⟨Reg.CV_CFG u, 9, 9⟩
abbrev FldRef.CV_CFG_REFIN (u : Nat) : FldRef := ⟨Reg.CV_CFG u, 8, 8⟩
abbrev FldRef.CV_CFG_WIDTH (u : Nat) : FldRef := ⟨Reg.CV_CFG u, 6, 0⟩
/-- R488. -/
abbrev Reg.CV_STAT (u : Nat) : Nat := 0x3004 + 0x40 * u
abbrev Msk.CV_STAT : WMask := ⟨0, 0, 0, 0x3d⟩
abbrev FldRef.CV_STAT_HOST (u : Nat) : FldRef := ⟨Reg.CV_STAT u, 31, 31⟩
abbrev FldRef.CV_STAT_CTX_HOLD (u : Nat) : FldRef := ⟨Reg.CV_STAT u, 30, 30⟩
abbrev FldRef.CV_STAT_REASON (u : Nat) : FldRef := ⟨Reg.CV_STAT u, 27, 24⟩
abbrev FldRef.CV_STAT_CTX (u : Nat) : FldRef := ⟨Reg.CV_STAT u, 23, 16⟩
abbrev FldRef.CV_STAT_CFG_ADJ (u : Nat) : FldRef := ⟨Reg.CV_STAT u, 6, 6⟩
abbrev FldRef.CV_STAT_TKO (u : Nat) : FldRef := ⟨Reg.CV_STAT u, 5, 5⟩
abbrev FldRef.CV_STAT_TMO (u : Nat) : FldRef := ⟨Reg.CV_STAT u, 4, 4⟩
abbrev FldRef.CV_STAT_DENIED (u : Nat) : FldRef := ⟨Reg.CV_STAT u, 3, 3⟩
abbrev FldRef.CV_STAT_REFUSED (u : Nat) : FldRef := ⟨Reg.CV_STAT u, 2, 2⟩
abbrev FldRef.CV_STAT_DMA_BUSY (u : Nat) : FldRef := ⟨Reg.CV_STAT u, 1, 1⟩
abbrev FldRef.CV_STAT_DONE (u : Nat) : FldRef := ⟨Reg.CV_STAT u, 0, 0⟩
/-- R489. -/
abbrev Reg.CV_CMD (u : Nat) : Nat := 0x3008 + 0x40 * u
abbrev Msk.CV_CMD : WMask := ⟨0, 0, 0xf, 0⟩
abbrev FldRef.CV_CMD_OP (u : Nat) : FldRef := ⟨Reg.CV_CMD u, 3, 0⟩
/-- R489. -/
abbrev Reg.CV_DATA (u : Nat) : Nat := 0x300C + 0x40 * u
abbrev Msk.CV_DATA : WMask := ⟨0, 0, 0xffffffff, 0⟩
abbrev FldRef.CV_DATA_DATA (u : Nat) : FldRef := ⟨Reg.CV_DATA u, 31, 0⟩
/-- R489. -/
abbrev Reg.CV_DATA8 (u : Nat) : Nat := 0x3010 + 0x40 * u
abbrev Msk.CV_DATA8 : WMask := ⟨0, 0, 0xff, 0⟩
abbrev FldRef.CV_DATA8_DATA (u : Nat) : FldRef := ⟨Reg.CV_DATA8 u, 7, 0⟩
/-- R489. -/
abbrev Reg.CV_DMA_LEN (u : Nat) : Nat := 0x3014 + 0x40 * u
abbrev Msk.CV_DMA_LEN : WMask := ⟨0, 0xffffff, 0, 0⟩
abbrev FldRef.CV_DMA_LEN_LEN (u : Nat) : FldRef := ⟨Reg.CV_DMA_LEN u, 23, 0⟩
/-- R489. -/
abbrev Reg.CV_DMA_ADDR (u : Nat) : Nat := 0x3018 + 0x40 * u
abbrev Msk.CV_DMA_ADDR : WMask := ⟨0, 0xffffffff, 0, 0⟩
abbrev FldRef.CV_DMA_ADDR_ADDR (u : Nat) : FldRef := ⟨Reg.CV_DMA_ADDR u, 31, 0⟩
/-- R489. -/
abbrev Reg.CV_POLY (u i : Nat) : Nat := 0x3020 + 0x40 * u + 4 * i
abbrev Msk.CV_POLY : WMask := ⟨0, 0xffffffff, 0, 0⟩
abbrev FldRef.CV_POLY_POLY (u i : Nat) : FldRef := ⟨Reg.CV_POLY u i, 31, 0⟩
/-- R489. -/
abbrev Reg.CV_INIT (u i : Nat) : Nat := 0x3028 + 0x40 * u + 4 * i
abbrev Msk.CV_INIT : WMask := ⟨0, 0xffffffff, 0, 0⟩
abbrev FldRef.CV_INIT_INIT (u i : Nat) : FldRef := ⟨Reg.CV_INIT u i, 31, 0⟩
/-- R489. -/
abbrev Reg.CV_XOROUT (u i : Nat) : Nat := 0x3030 + 0x40 * u + 4 * i
abbrev Msk.CV_XOROUT : WMask := ⟨0, 0xffffffff, 0, 0⟩
abbrev FldRef.CV_XOROUT_XOROUT (u i : Nat) : FldRef := ⟨Reg.CV_XOROUT u i, 31, 0⟩
/-- R489. -/
abbrev Reg.CV_RESULT (u i : Nat) : Nat := 0x3038 + 0x40 * u + 4 * i
abbrev FldRef.CV_RESULT_RESULT (u i : Nat) : FldRef := ⟨Reg.CV_RESULT u i, 31, 0⟩

/-! Block bt (spec chapter 02). -/
/-- R63. -/
abbrev Reg.BT_STAT : Nat := 0x4000
abbrev Msk.BT_STAT : WMask := ⟨0, 0x100, 0, 0⟩
abbrev FldRef.BT_STAT_STATE : FldRef := ⟨Reg.BT_STAT, 31, 28⟩
abbrev FldRef.BT_STAT_SLOT0_RES : FldRef := ⟨Reg.BT_STAT, 23, 20⟩
abbrev FldRef.BT_STAT_SLOT1_RES : FldRef := ⟨Reg.BT_STAT, 19, 16⟩
abbrev FldRef.BT_STAT_KEY_USED : FldRef := ⟨Reg.BT_STAT, 11, 10⟩
abbrev FldRef.BT_STAT_SLOT : FldRef := ⟨Reg.BT_STAT, 9, 9⟩
abbrev FldRef.BT_STAT_ID_SEL : FldRef := ⟨Reg.BT_STAT, 8, 8⟩
/-- R62. -/
abbrev Reg.BT_IMG_VER : Nat := 0x4004
abbrev FldRef.BT_IMG_VER_VER : FldRef := ⟨Reg.BT_IMG_VER, 31, 0⟩
/-- R62. -/
abbrev Reg.BT_ROLL : Nat := 0x4008
abbrev FldRef.BT_ROLL_OTP : FldRef := ⟨Reg.BT_ROLL, 23, 16⟩
abbrev FldRef.BT_ROLL_IMG : FldRef := ⟨Reg.BT_ROLL, 7, 0⟩
/-- R62. -/
abbrev Reg.BT_LOAD : Nat := 0x400C
abbrev FldRef.BT_LOAD_SKIP_CNT : FldRef := ⟨Reg.BT_LOAD, 31, 16⟩
abbrev FldRef.BT_LOAD_TIME : FldRef := ⟨Reg.BT_LOAD, 15, 0⟩
/-- R58. -/
abbrev Reg.BT_CMD : Nat := 0x4010
abbrev Msk.BT_CMD : WMask := ⟨0, 0, 0xff, 0x4000000⟩
abbrev FldRef.BT_CMD_RESULT : FldRef := ⟨Reg.BT_CMD, 31, 28⟩
abbrev FldRef.BT_CMD_BUSY : FldRef := ⟨Reg.BT_CMD, 27, 27⟩
abbrev FldRef.BT_CMD_IGNORED : FldRef := ⟨Reg.BT_CMD, 26, 26⟩
abbrev FldRef.BT_CMD_ARG : FldRef := ⟨Reg.BT_CMD, 7, 4⟩
abbrev FldRef.BT_CMD_OP : FldRef := ⟨Reg.BT_CMD, 3, 0⟩
/-- R62. -/
abbrev Reg.BT_DIGEST (i : Nat) : Nat := 0x4020 + 4 * i
abbrev FldRef.BT_DIGEST_DIGEST (i : Nat) : FldRef := ⟨Reg.BT_DIGEST i, 31, 0⟩
/-- R62. -/
abbrev Reg.BT_ATT_NONCE (i : Nat) : Nat := 0x4040 + 4 * i
abbrev Msk.BT_ATT_NONCE : WMask := ⟨0, 0xffffffff, 0, 0⟩
abbrev FldRef.BT_ATT_NONCE_NONCE (i : Nat) : FldRef := ⟨Reg.BT_ATT_NONCE i, 31, 0⟩
/-- R62. -/
abbrev Reg.BT_KEYBUF (i : Nat) : Nat := 0x4080 + 4 * i
abbrev Msk.BT_KEYBUF : WMask := ⟨0, 0xffffffff, 0, 0⟩
abbrev FldRef.BT_KEYBUF_KEY (i : Nat) : FldRef := ⟨Reg.BT_KEYBUF i, 31, 0⟩
/-- R62. -/
abbrev Reg.BT_OTP (i : Nat) : Nat := 0x4100 + 4 * i
abbrev FldRef.BT_OTP_OTP (i : Nat) : FldRef := ⟨Reg.BT_OTP i, 31, 0⟩
/-- R62. -/
abbrev Reg.BT_IDKEY (i : Nat) : Nat := 0x4200 + 4 * i
abbrev FldRef.BT_IDKEY_KEY (i : Nat) : FldRef := ⟨Reg.BT_IDKEY i, 31, 0⟩
/-- R62. -/
abbrev Reg.BT_ATT_BUF (i : Nat) : Nat := 0x4800 + 4 * i
abbrev FldRef.BT_ATT_BUF_ATT (i : Nat) : FldRef := ⟨Reg.BT_ATT_BUF i, 31, 0⟩

/-! Block sp0 (spec chapter 13). -/
/-- R438. -/
abbrev Reg.SP0_CFG : Nat := 0x5000
abbrev Msk.SP0_CFG : WMask := ⟨0x301, 0, 0, 0⟩
abbrev FldRef.SP0_CFG_RDLAT : FldRef := ⟨Reg.SP0_CFG, 9, 8⟩
abbrev FldRef.SP0_CFG_QUAD_EN : FldRef := ⟨Reg.SP0_CFG, 0, 0⟩
/-- R438. -/
abbrev Reg.SP0_STAT : Nat := 0x5004
abbrev FldRef.SP0_STAT_FSEQ : FldRef := ⟨Reg.SP0_STAT, 31, 24⟩
abbrev FldRef.SP0_STAT_QUAD : FldRef := ⟨Reg.SP0_STAT, 8, 8⟩
/-- R438. -/
abbrev Reg.SP0_CNT : Nat := 0x5008
abbrev FldRef.SP0_CNT_ABORT : FldRef := ⟨Reg.SP0_CNT, 31, 24⟩
abbrev FldRef.SP0_CNT_CRC : FldRef := ⟨Reg.SP0_CNT, 23, 16⟩
abbrev FldRef.SP0_CNT_UNDER : FldRef := ⟨Reg.SP0_CNT, 15, 8⟩
abbrev FldRef.SP0_CNT_TRUNC : FldRef := ⟨Reg.SP0_CNT, 7, 0⟩
/-- R438. -/
abbrev Reg.SP0_CNT2 : Nat := 0x500C
abbrev FldRef.SP0_CNT2_RETRY : FldRef := ⟨Reg.SP0_CNT2, 23, 16⟩
abbrev FldRef.SP0_CNT2_OVCLK : FldRef := ⟨Reg.SP0_CNT2, 15, 8⟩
abbrev FldRef.SP0_CNT2_EMPTY : FldRef := ⟨Reg.SP0_CNT2, 7, 0⟩

/-! Block sp1 (spec chapter 13). -/
/-- R439. -/
abbrev Reg.SP1_CFG : Nat := 0x5400
abbrev Msk.SP1_CFG : WMask := ⟨0xff0101, 0, 0, 0⟩
abbrev FldRef.SP1_CFG_DIV : FldRef := ⟨Reg.SP1_CFG, 23, 16⟩
abbrev FldRef.SP1_CFG_RAW_EN : FldRef := ⟨Reg.SP1_CFG, 8, 8⟩
abbrev FldRef.SP1_CFG_CS1_EN : FldRef := ⟨Reg.SP1_CFG, 0, 0⟩
/-- R439. -/
abbrev Reg.SP1_WBASE : Nat := 0x5404
abbrev Msk.SP1_WBASE : WMask := ⟨0, 0x9fff0000, 0, 0⟩
abbrev FldRef.SP1_WBASE_CS : FldRef := ⟨Reg.SP1_WBASE, 31, 31⟩
abbrev FldRef.SP1_WBASE_BASE : FldRef := ⟨Reg.SP1_WBASE, 28, 16⟩
/-- R439. -/
abbrev Reg.SP1_STAT : Nat := 0x5408
abbrev Msk.SP1_STAT : WMask := ⟨0, 0, 0, 0x11⟩
abbrev FldRef.SP1_STAT_STATE : FldRef := ⟨Reg.SP1_STAT, 31, 28⟩
abbrev FldRef.SP1_STAT_ERR : FldRef := ⟨Reg.SP1_STAT, 27, 24⟩
abbrev FldRef.SP1_STAT_REFUSE : FldRef := ⟨Reg.SP1_STAT, 23, 20⟩
abbrev FldRef.SP1_STAT_CFG_ADJ : FldRef := ⟨Reg.SP1_STAT, 5, 5⟩
abbrev FldRef.SP1_STAT_IGNORED : FldRef := ⟨Reg.SP1_STAT, 4, 4⟩
abbrev FldRef.SP1_STAT_CS1_ABSENT : FldRef := ⟨Reg.SP1_STAT, 3, 3⟩
abbrev FldRef.SP1_STAT_WBUSY : FldRef := ⟨Reg.SP1_STAT, 1, 1⟩
abbrev FldRef.SP1_STAT_DONE : FldRef := ⟨Reg.SP1_STAT, 0, 0⟩
/-- R439. -/
abbrev Reg.SP1_CMD : Nat := 0x540C
abbrev Msk.SP1_CMD : WMask := ⟨0, 0, 0xf0000310, 0⟩
abbrev FldRef.SP1_CMD_OP : FldRef := ⟨Reg.SP1_CMD, 31, 28⟩
abbrev FldRef.SP1_CMD_ETYPE : FldRef := ⟨Reg.SP1_CMD, 9, 8⟩
abbrev FldRef.SP1_CMD_CS : FldRef := ⟨Reg.SP1_CMD, 4, 4⟩
/-- R439. -/
abbrev Reg.SP1_ADDR : Nat := 0x5410
abbrev Msk.SP1_ADDR : WMask := ⟨0, 0x1fffffff, 0, 0⟩
abbrev FldRef.SP1_ADDR_ADDR : FldRef := ⟨Reg.SP1_ADDR, 28, 0⟩
/-- R439. -/
abbrev Reg.SP1_FRAME : Nat := 0x5414
abbrev Msk.SP1_FRAME : WMask := ⟨0, 0xfb1f09ff, 0, 0⟩
abbrev FldRef.SP1_FRAME_PATTERN : FldRef := ⟨Reg.SP1_FRAME, 31, 28⟩
abbrev FldRef.SP1_FRAME_CMD16 : FldRef := ⟨Reg.SP1_FRAME, 27, 27⟩
abbrev FldRef.SP1_FRAME_ABYTES : FldRef := ⟨Reg.SP1_FRAME, 25, 24⟩
abbrev FldRef.SP1_FRAME_DUMMY : FldRef := ⟨Reg.SP1_FRAME, 20, 16⟩
abbrev FldRef.SP1_FRAME_WRITE : FldRef := ⟨Reg.SP1_FRAME, 11, 11⟩
abbrev FldRef.SP1_FRAME_LEN : FldRef := ⟨Reg.SP1_FRAME, 8, 0⟩
/-- R439. -/
abbrev Reg.SP1_RAWCMD : Nat := 0x5418
abbrev Msk.SP1_RAWCMD : WMask := ⟨0, 0xffff, 0, 0⟩
abbrev FldRef.SP1_RAWCMD_CMD : FldRef := ⟨Reg.SP1_RAWCMD, 15, 0⟩
/-- R439. -/
abbrev Reg.SP1_DISC (i : Nat) : Nat := 0x5420 + 4 * i
abbrev FldRef.SP1_DISC_PATTERN (i : Nat) : FldRef := ⟨Reg.SP1_DISC i, 27, 24⟩
abbrev FldRef.SP1_DISC_SIZE (i : Nat) : FldRef := ⟨Reg.SP1_DISC i, 20, 16⟩
abbrev FldRef.SP1_DISC_PAGE (i : Nat) : FldRef := ⟨Reg.SP1_DISC i, 11, 8⟩
abbrev FldRef.SP1_DISC_ADDR4 (i : Nat) : FldRef := ⟨Reg.SP1_DISC i, 1, 1⟩
abbrev FldRef.SP1_DISC_VALID (i : Nat) : FldRef := ⟨Reg.SP1_DISC i, 0, 0⟩
/-- R439. -/
abbrev Reg.SP1_ERASE (i : Nat) : Nat := 0x5428 + 4 * i
abbrev FldRef.SP1_ERASE_T4 (i : Nat) : FldRef := ⟨Reg.SP1_ERASE i, 31, 24⟩
abbrev FldRef.SP1_ERASE_T3 (i : Nat) : FldRef := ⟨Reg.SP1_ERASE i, 23, 16⟩
abbrev FldRef.SP1_ERASE_T2 (i : Nat) : FldRef := ⟨Reg.SP1_ERASE i, 15, 8⟩
abbrev FldRef.SP1_ERASE_T1 (i : Nat) : FldRef := ⟨Reg.SP1_ERASE i, 7, 0⟩
/-- R439. -/
abbrev Reg.SP1_BUF (i : Nat) : Nat := 0x5500 + 4 * i
abbrev Msk.SP1_BUF : WMask := ⟨0, 0xffffffff, 0, 0⟩
abbrev FldRef.SP1_BUF_BUF (i : Nat) : FldRef := ⟨Reg.SP1_BUF i, 31, 0⟩

/-! Block sp2 (spec chapter 13). -/
/-- R440. -/
abbrev Reg.SP2_CFG : Nat := 0x5800
abbrev Msk.SP2_CFG : WMask := ⟨0xfc1fff00, 0, 0, 0⟩
abbrev FldRef.SP2_CFG_ROLE : FldRef := ⟨Reg.SP2_CFG, 31, 30⟩
abbrev FldRef.SP2_CFG_FRAME : FldRef := ⟨Reg.SP2_CFG, 29, 29⟩
abbrev FldRef.SP2_CFG_MM_EN : FldRef := ⟨Reg.SP2_CFG, 28, 28⟩
abbrev FldRef.SP2_CFG_CPOL : FldRef := ⟨Reg.SP2_CFG, 27, 27⟩
abbrev FldRef.SP2_CFG_CPHA : FldRef := ⟨Reg.SP2_CFG, 26, 26⟩
abbrev FldRef.SP2_CFG_WLEN : FldRef := ⟨Reg.SP2_CFG, 20, 16⟩
abbrev FldRef.SP2_CFG_DIV : FldRef := ⟨Reg.SP2_CFG, 15, 8⟩
/-- R440. -/
abbrev Reg.SP2_SLV : Nat := 0x5804
abbrev Msk.SP2_SLV : WMask := ⟨0x80ff807f, 0, 0, 0⟩
abbrev FldRef.SP2_SLV_CTX_EN : FldRef := ⟨Reg.SP2_SLV, 31, 31⟩
abbrev FldRef.SP2_SLV_CTX : FldRef := ⟨Reg.SP2_SLV, 23, 16⟩
abbrev FldRef.SP2_SLV_Q_EN : FldRef := ⟨Reg.SP2_SLV, 15, 15⟩
abbrev FldRef.SP2_SLV_Q : FldRef := ⟨Reg.SP2_SLV, 6, 0⟩
/-- R440. -/
abbrev Reg.SP2_STAT : Nat := 0x5808
abbrev Msk.SP2_STAT : WMask := ⟨0, 0, 0, 0xf0⟩
abbrev FldRef.SP2_STAT_RESULT : FldRef := ⟨Reg.SP2_STAT, 31, 28⟩
abbrev FldRef.SP2_STAT_MODF : FldRef := ⟨Reg.SP2_STAT, 7, 7⟩
abbrev FldRef.SP2_STAT_FRAG : FldRef := ⟨Reg.SP2_STAT, 6, 6⟩
abbrev FldRef.SP2_STAT_UNDERRUN : FldRef := ⟨Reg.SP2_STAT, 5, 5⟩
abbrev FldRef.SP2_STAT_REFUSED : FldRef := ⟨Reg.SP2_STAT, 4, 4⟩
abbrev FldRef.SP2_STAT_CFG_ADJ : FldRef := ⟨Reg.SP2_STAT, 3, 3⟩
abbrev FldRef.SP2_STAT_CTX_HOLDS : FldRef := ⟨Reg.SP2_STAT, 2, 2⟩
abbrev FldRef.SP2_STAT_BUSY : FldRef := ⟨Reg.SP2_STAT, 1, 1⟩
/-- R440. -/
abbrev Reg.SP2_CMD : Nat := 0x580C
abbrev Msk.SP2_CMD : WMask := ⟨0, 0, 0x830000ff, 0⟩
abbrev FldRef.SP2_CMD_GO : FldRef := ⟨Reg.SP2_CMD, 31, 31⟩
abbrev FldRef.SP2_CMD_SS : FldRef := ⟨Reg.SP2_CMD, 25, 24⟩
abbrev FldRef.SP2_CMD_CNT : FldRef := ⟨Reg.SP2_CMD, 7, 0⟩
/-- R440. -/
abbrev Reg.SP2_FRAME : Nat := 0x5810
abbrev Msk.SP2_FRAME : WMask := ⟨0, 0xfb1f09ff, 0, 0⟩
abbrev FldRef.SP2_FRAME_PATTERN : FldRef := ⟨Reg.SP2_FRAME, 31, 28⟩
abbrev FldRef.SP2_FRAME_CMD16 : FldRef := ⟨Reg.SP2_FRAME, 27, 27⟩
abbrev FldRef.SP2_FRAME_ABYTES : FldRef := ⟨Reg.SP2_FRAME, 25, 24⟩
abbrev FldRef.SP2_FRAME_DUMMY : FldRef := ⟨Reg.SP2_FRAME, 20, 16⟩
abbrev FldRef.SP2_FRAME_WRITE : FldRef := ⟨Reg.SP2_FRAME, 11, 11⟩
abbrev FldRef.SP2_FRAME_LEN : FldRef := ⟨Reg.SP2_FRAME, 8, 0⟩
/-- R440. -/
abbrev Reg.SP2_RAWCMD : Nat := 0x5814
abbrev Msk.SP2_RAWCMD : WMask := ⟨0, 0xff, 0, 0⟩
abbrev FldRef.SP2_RAWCMD_CMD : FldRef := ⟨Reg.SP2_RAWCMD, 7, 0⟩
/-- R440. -/
abbrev Reg.SP2_TX (i : Nat) : Nat := 0x5900 + 4 * i
abbrev Msk.SP2_TX : WMask := ⟨0, 0xffffffff, 0, 0⟩
abbrev FldRef.SP2_TX_TX (i : Nat) : FldRef := ⟨Reg.SP2_TX i, 31, 0⟩
/-- R440. -/
abbrev Reg.SP2_RX (i : Nat) : Nat := 0x5A00 + 4 * i
abbrev FldRef.SP2_RX_RX (i : Nat) : FldRef := ⟨Reg.SP2_RX i, 31, 0⟩
/-- R440. -/
abbrev Reg.SP2_SLV_TX (i : Nat) : Nat := 0x5B00 + 4 * i
abbrev Msk.SP2_SLV_TX : WMask := ⟨0, 0xffffffff, 0, 0⟩
abbrev FldRef.SP2_SLV_TX_TX (i : Nat) : FldRef := ⟨Reg.SP2_SLV_TX i, 31, 0⟩
/-- R440. -/
abbrev Reg.SP2_SLV_CMD : Nat := 0x5B80
abbrev Msk.SP2_SLV_CMD : WMask := ⟨0, 0, 0x8000001f, 0⟩
abbrev FldRef.SP2_SLV_CMD_POST : FldRef := ⟨Reg.SP2_SLV_CMD, 31, 31⟩
abbrev FldRef.SP2_SLV_CMD_CNT : FldRef := ⟨Reg.SP2_SLV_CMD, 4, 0⟩

/-! Block csn (spec chapter 14). -/
/-- R472. -/
abbrev Reg.CSN_CFG : Nat := 0x6000
abbrev Msk.CSN_CFG : WMask := ⟨0xf3ff0001, 0, 0, 0⟩
abbrev FldRef.CSN_CFG_HEAD_SRC : FldRef := ⟨Reg.CSN_CFG, 31, 30⟩
abbrev FldRef.CSN_CFG_RW_EN : FldRef := ⟨Reg.CSN_CFG, 29, 29⟩
abbrev FldRef.CSN_CFG_ALARM_EN : FldRef := ⟨Reg.CSN_CFG, 28, 28⟩
abbrev FldRef.CSN_CFG_GEN_MAX : FldRef := ⟨Reg.CSN_CFG, 25, 24⟩
abbrev FldRef.CSN_CFG_ENUM_DELAY : FldRef := ⟨Reg.CSN_CFG, 23, 16⟩
abbrev FldRef.CSN_CFG_EN : FldRef := ⟨Reg.CSN_CFG, 0, 0⟩
/-- R473. -/
abbrev Reg.CSN_STAT : Nat := 0x6004
abbrev Msk.CSN_STAT : WMask := ⟨0, 0, 0, 0x4⟩
abbrev FldRef.CSN_STAT_ADDR : FldRef := ⟨Reg.CSN_STAT, 31, 24⟩
abbrev FldRef.CSN_STAT_N : FldRef := ⟨Reg.CSN_STAT, 23, 16⟩
abbrev FldRef.CSN_STAT_STATE : FldRef := ⟨Reg.CSN_STAT, 15, 12⟩
abbrev FldRef.CSN_STAT_RING : FldRef := ⟨Reg.CSN_STAT, 11, 11⟩
abbrev FldRef.CSN_STAT_HEAD : FldRef := ⟨Reg.CSN_STAT, 10, 10⟩
abbrev FldRef.CSN_STAT_HEALED : FldRef := ⟨Reg.CSN_STAT, 9, 9⟩
abbrev FldRef.CSN_STAT_UP_PORT : FldRef := ⟨Reg.CSN_STAT, 8, 8⟩
abbrev FldRef.CSN_STAT_TIME_PORT : FldRef := ⟨Reg.CSN_STAT, 7, 7⟩
abbrev FldRef.CSN_STAT_ERR : FldRef := ⟨Reg.CSN_STAT, 6, 4⟩
abbrev FldRef.CSN_STAT_CFG_ADJ : FldRef := ⟨Reg.CSN_STAT, 3, 3⟩
abbrev FldRef.CSN_STAT_IGNORED : FldRef := ⟨Reg.CSN_STAT, 2, 2⟩
/-- R474. -/
abbrev Reg.CSN_EPOCH : Nat := 0x6008
abbrev FldRef.CSN_EPOCH_EPOCH : FldRef := ⟨Reg.CSN_EPOCH, 15, 0⟩
/-- R474. -/
abbrev Reg.CSN_HOPS : Nat := 0x600C
abbrev FldRef.CSN_HOPS_H_LK1 : FldRef := ⟨Reg.CSN_HOPS, 15, 8⟩
abbrev FldRef.CSN_HOPS_H_LK2 : FldRef := ⟨Reg.CSN_HOPS, 7, 0⟩
/-- R475. -/
abbrev Reg.CSN_LK_STAT (i : Nat) : Nat := 0x6010 + 0x10 * i
abbrev FldRef.CSN_LK_STAT_STEP (i : Nat) : FldRef := ⟨Reg.CSN_LK_STAT i, 31, 28⟩
abbrev FldRef.CSN_LK_STAT_GEN (i : Nat) : FldRef := ⟨Reg.CSN_LK_STAT i, 25, 24⟩
abbrev FldRef.CSN_LK_STAT_INV (i : Nat) : FldRef := ⟨Reg.CSN_LK_STAT i, 20, 20⟩
abbrev FldRef.CSN_LK_STAT_PRESET (i : Nat) : FldRef := ⟨Reg.CSN_LK_STAT i, 18, 16⟩
abbrev FldRef.CSN_LK_STAT_NOPART (i : Nat) : FldRef := ⟨Reg.CSN_LK_STAT i, 8, 8⟩
abbrev FldRef.CSN_LK_STAT_UP (i : Nat) : FldRef := ⟨Reg.CSN_LK_STAT i, 0, 0⟩
/-- R475. -/
abbrev Reg.CSN_LK_LAT (i : Nat) : Nat := 0x6014 + 0x10 * i
abbrev FldRef.CSN_LK_LAT_LAT (i : Nat) : FldRef := ⟨Reg.CSN_LK_LAT i, 31, 0⟩
/-- R475. -/
abbrev Reg.CSN_LK_ERR (i : Nat) : Nat := 0x6018 + 0x10 * i
abbrev FldRef.CSN_LK_ERR_CRC (i : Nat) : FldRef := ⟨Reg.CSN_LK_ERR i, 31, 16⟩
abbrev FldRef.CSN_LK_ERR_CV (i : Nat) : FldRef := ⟨Reg.CSN_LK_ERR i, 15, 8⟩
abbrev FldRef.CSN_LK_ERR_DOWNS (i : Nat) : FldRef := ⟨Reg.CSN_LK_ERR i, 7, 0⟩
/-- R475. -/
abbrev Reg.CSN_LK_FAIL (i : Nat) : Nat := 0x601C + 0x10 * i
abbrev FldRef.CSN_LK_FAIL_FALLBACK (i : Nat) : FldRef := ⟨Reg.CSN_LK_FAIL i, 15, 8⟩
abbrev FldRef.CSN_LK_FAIL_TRIES (i : Nat) : FldRef := ⟨Reg.CSN_LK_FAIL i, 7, 0⟩
/-- R474. -/
abbrev Reg.CSN_CMD : Nat := 0x6040
abbrev Msk.CSN_CMD : WMask := ⟨0, 0, 0xf, 0⟩
abbrev FldRef.CSN_CMD_OP : FldRef := ⟨Reg.CSN_CMD, 3, 0⟩
/-- R474. -/
abbrev Reg.CSN_HEADQ : Nat := 0x6050
abbrev Msk.CSN_HEADQ : WMask := ⟨0xff00ff00, 0, 0, 0⟩
abbrev FldRef.CSN_HEADQ_EXP_EN : FldRef := ⟨Reg.CSN_HEADQ, 31, 31⟩
abbrev FldRef.CSN_HEADQ_EXP_Q : FldRef := ⟨Reg.CSN_HEADQ, 30, 24⟩
abbrev FldRef.CSN_HEADQ_ALM_EN : FldRef := ⟨Reg.CSN_HEADQ, 15, 15⟩
abbrev FldRef.CSN_HEADQ_ALM_Q : FldRef := ⟨Reg.CSN_HEADQ, 14, 8⟩
/-- R474. -/
abbrev Reg.CSN_EXP_STAT : Nat := 0x6054
abbrev FldRef.CSN_EXP_STAT_LOST : FldRef := ⟨Reg.CSN_EXP_STAT, 31, 16⟩
abbrev FldRef.CSN_EXP_STAT_BAD : FldRef := ⟨Reg.CSN_EXP_STAT, 15, 0⟩
/-- R474. -/
abbrev Reg.CSN_ALM_EN : Nat := 0x6058
abbrev Msk.CSN_ALM_EN : WMask := ⟨0xffffffff, 0, 0, 0⟩
abbrev FldRef.CSN_ALM_EN_EN : FldRef := ⟨Reg.CSN_ALM_EN, 31, 0⟩
/-- R474. -/
abbrev Reg.CSN_SRC_STAT : Nat := 0x605C
abbrev FldRef.CSN_SRC_STAT_SKIP : FldRef := ⟨Reg.CSN_SRC_STAT, 15, 0⟩
/-- R476. -/
abbrev Reg.CSN_RA_CMD : Nat := 0x6080
abbrev Msk.CSN_RA_CMD : WMask := ⟨0, 0, 0xfff23f01, 0⟩
abbrev FldRef.CSN_RA_CMD_M : FldRef := ⟨Reg.CSN_RA_CMD, 31, 24⟩
abbrev FldRef.CSN_RA_CMD_OP : FldRef := ⟨Reg.CSN_RA_CMD, 23, 20⟩
abbrev FldRef.CSN_RA_CMD_INC : FldRef := ⟨Reg.CSN_RA_CMD, 17, 17⟩
abbrev FldRef.CSN_RA_CMD_CNT : FldRef := ⟨Reg.CSN_RA_CMD, 13, 8⟩
abbrev FldRef.CSN_RA_CMD_GO : FldRef := ⟨Reg.CSN_RA_CMD, 0, 0⟩
/-- R476. -/
abbrev Reg.CSN_RA_ADDR : Nat := 0x6084
abbrev Msk.CSN_RA_ADDR : WMask := ⟨0, 0xffffffff, 0, 0⟩
abbrev FldRef.CSN_RA_ADDR_ADDR : FldRef := ⟨Reg.CSN_RA_ADDR, 31, 0⟩
/-- R476. -/
abbrev Reg.CSN_RA_STAT : Nat := 0x6088
abbrev Msk.CSN_RA_STAT : WMask := ⟨0, 0, 0, 0x4000000⟩
abbrev FldRef.CSN_RA_STAT_RESULT : FldRef := ⟨Reg.CSN_RA_STAT, 31, 28⟩
abbrev FldRef.CSN_RA_STAT_BUSY : FldRef := ⟨Reg.CSN_RA_STAT, 27, 27⟩
abbrev FldRef.CSN_RA_STAT_IGNORED : FldRef := ⟨Reg.CSN_RA_STAT, 26, 26⟩
abbrev FldRef.CSN_RA_STAT_TKO : FldRef := ⟨Reg.CSN_RA_STAT, 25, 25⟩
abbrev FldRef.CSN_RA_STAT_TRIES : FldRef := ⟨Reg.CSN_RA_STAT, 23, 16⟩
abbrev FldRef.CSN_RA_STAT_RID : FldRef := ⟨Reg.CSN_RA_STAT, 15, 0⟩
/-- R476. -/
abbrev Reg.CSN_RA_CFG : Nat := 0x608C
abbrev Msk.CSN_RA_CFG : WMask := ⟨0xff0f, 0, 0, 0⟩
abbrev FldRef.CSN_RA_CFG_TMO : FldRef := ⟨Reg.CSN_RA_CFG, 15, 8⟩
abbrev FldRef.CSN_RA_CFG_RETRIES : FldRef := ⟨Reg.CSN_RA_CFG, 3, 0⟩
/-- R476. -/
abbrev Reg.CSN_RA_BUF (i : Nat) : Nat := 0x6100 + 4 * i
abbrev Msk.CSN_RA_BUF : WMask := ⟨0, 0xffffffff, 0, 0⟩
abbrev FldRef.CSN_RA_BUF_BUF (i : Nat) : FldRef := ⟨Reg.CSN_RA_BUF i, 31, 0⟩

/-! Block ros (spec chapter 14). -/
/-- R477. -/
abbrev Reg.CSN_ROS_SER (m i : Nat) : Nat := 0x7000 + 0x20 * m + 4 * i
abbrev FldRef.CSN_ROS_SER_SER (m i : Nat) : FldRef := ⟨Reg.CSN_ROS_SER m i, 31, 0⟩
/-- R477. -/
abbrev Reg.CSN_ROS_ID (m : Nat) : Nat := 0x7010 + 0x20 * m
abbrev FldRef.CSN_ROS_ID_ID (m : Nat) : FldRef := ⟨Reg.CSN_ROS_ID m, 31, 0⟩
/-- R477. -/
abbrev Reg.CSN_ROS_STAT (m : Nat) : Nat := 0x7014 + 0x20 * m
abbrev FldRef.CSN_ROS_STAT_PRESENT (m : Nat) : FldRef := ⟨Reg.CSN_ROS_STAT m, 31, 31⟩
abbrev FldRef.CSN_ROS_STAT_LAST (m : Nat) : FldRef := ⟨Reg.CSN_ROS_STAT m, 30, 30⟩
abbrev FldRef.CSN_ROS_STAT_GEN (m : Nat) : FldRef := ⟨Reg.CSN_ROS_STAT m, 25, 24⟩
/-- R477. -/
abbrev Reg.CSN_ROS_LAT (m : Nat) : Nat := 0x7018 + 0x20 * m
abbrev FldRef.CSN_ROS_LAT_LAT (m : Nat) : FldRef := ⟨Reg.CSN_ROS_LAT m, 31, 0⟩

/-! Block ev (spec chapter 07). -/
/-- R228. -/
abbrev Reg.EV_CFG : Nat := 0xC000
abbrev Msk.EV_CFG : WMask := ⟨0x17f, 0, 0, 0⟩
abbrev FldRef.EV_CFG_DIAG_PEN : FldRef := ⟨Reg.EV_CFG, 8, 8⟩
abbrev FldRef.EV_CFG_PEN_Q : FldRef := ⟨Reg.EV_CFG, 6, 0⟩
/-- R228. -/
abbrev Reg.EV_STAT : Nat := 0xC004
abbrev FldRef.EV_STAT_PEN_LOST : FldRef := ⟨Reg.EV_STAT, 31, 16⟩
abbrev FldRef.EV_STAT_PEN_CNT : FldRef := ⟨Reg.EV_STAT, 15, 0⟩
/-- R228. -/
abbrev Reg.EV_DIP_CFG : Nat := 0xC010
abbrev Msk.EV_DIP_CFG : WMask := ⟨0x3, 0, 0, 0⟩
abbrev FldRef.EV_DIP_CFG_TOKEN_EN : FldRef := ⟨Reg.EV_DIP_CFG, 1, 1⟩
abbrev FldRef.EV_DIP_CFG_LAND_EN : FldRef := ⟨Reg.EV_DIP_CFG, 0, 0⟩
/-- R229. -/
abbrev Reg.EV_DIP_STAT : Nat := 0xC014
abbrev Msk.EV_DIP_STAT : WMask := ⟨0, 0xffff0000, 0, 0x30⟩
abbrev FldRef.EV_DIP_STAT_LAND_ID : FldRef := ⟨Reg.EV_DIP_STAT, 31, 16⟩
abbrev FldRef.EV_DIP_STAT_IGN_CNT : FldRef := ⟨Reg.EV_DIP_STAT, 15, 12⟩
abbrev FldRef.EV_DIP_STAT_BUSY_CNT : FldRef := ⟨Reg.EV_DIP_STAT, 11, 8⟩
abbrev FldRef.EV_DIP_STAT_LAST : FldRef := ⟨Reg.EV_DIP_STAT, 7, 7⟩
abbrev FldRef.EV_DIP_STAT_REL1 : FldRef := ⟨Reg.EV_DIP_STAT, 5, 5⟩
abbrev FldRef.EV_DIP_STAT_REL0 : FldRef := ⟨Reg.EV_DIP_STAT, 4, 4⟩
abbrev FldRef.EV_DIP_STAT_STATE1 : FldRef := ⟨Reg.EV_DIP_STAT, 3, 2⟩
abbrev FldRef.EV_DIP_STAT_STATE0 : FldRef := ⟨Reg.EV_DIP_STAT, 1, 0⟩
/-- R228. -/
abbrev Reg.EV_DIP_SEL : Nat := 0xC018
abbrev Msk.EV_DIP_SEL : WMask := ⟨0, 0x1, 0, 0⟩
abbrev FldRef.EV_DIP_SEL_BANK : FldRef := ⟨Reg.EV_DIP_SEL, 0, 0⟩
/-- R225. -/
abbrev Reg.DIP_WINDOW (i : Nat) : Nat := 0xC400 + 4 * i
abbrev FldRef.DIP_WINDOW_ITEM (i : Nat) : FldRef := ⟨Reg.DIP_WINDOW i, 31, 0⟩

/-! Block ca (spec chapter 05). -/
/-- R162. -/
abbrev Reg.CA_CMD : Nat := 0xD000
abbrev Msk.CA_CMD : WMask := ⟨0, 0, 0xf, 0⟩
abbrev FldRef.CA_CMD_OP : FldRef := ⟨Reg.CA_CMD, 3, 0⟩
/-- R163. -/
abbrev Reg.CA_STAT : Nat := 0xD004
abbrev Msk.CA_STAT : WMask := ⟨0, 0, 0, 0x12⟩
abbrev FldRef.CA_STAT_STATE : FldRef := ⟨Reg.CA_STAT, 31, 28⟩
abbrev FldRef.CA_STAT_RESULT : FldRef := ⟨Reg.CA_STAT, 27, 24⟩
abbrev FldRef.CA_STAT_FAIL_CNT : FldRef := ⟨Reg.CA_STAT, 23, 16⟩
abbrev FldRef.CA_STAT_SWEEP_FAIL : FldRef := ⟨Reg.CA_STAT, 5, 5⟩
abbrev FldRef.CA_STAT_IGNORED : FldRef := ⟨Reg.CA_STAT, 4, 4⟩
abbrev FldRef.CA_STAT_LEAN : FldRef := ⟨Reg.CA_STAT, 2, 2⟩
abbrev FldRef.CA_STAT_SYNC_MERGED : FldRef := ⟨Reg.CA_STAT, 1, 1⟩
abbrev FldRef.CA_STAT_CAL_STALE : FldRef := ⟨Reg.CA_STAT, 0, 0⟩
/-- R164. -/
abbrev Reg.CA_CFG : Nat := 0xD008
abbrev Msk.CA_CFG : WMask := ⟨0x13e, 0, 0, 0⟩
abbrev FldRef.CA_CFG_AUTO_CAL : FldRef := ⟨Reg.CA_CFG, 8, 8⟩
abbrev FldRef.CA_CFG_SYNC_SCHED_EN : FldRef := ⟨Reg.CA_CFG, 5, 5⟩
abbrev FldRef.CA_CFG_SYNC_TOKEN_EN : FldRef := ⟨Reg.CA_CFG, 4, 4⟩
abbrev FldRef.CA_CFG_SYNC_REG_EN : FldRef := ⟨Reg.CA_CFG, 3, 3⟩
abbrev FldRef.CA_CFG_LAND_EDGE : FldRef := ⟨Reg.CA_CFG, 2, 2⟩
abbrev FldRef.CA_CFG_SYNC_LAND_EN : FldRef := ⟨Reg.CA_CFG, 1, 1⟩
/-- R166. -/
abbrev Reg.CA_SYNC : Nat := 0xD00C
abbrev Msk.CA_SYNC : WMask := ⟨0, 0, 0x1, 0⟩
abbrev FldRef.CA_SYNC_GO : FldRef := ⟨Reg.CA_SYNC, 0, 0⟩
/-- R166. -/
abbrev Reg.CA_SYNC_TS (i : Nat) : Nat := 0xD010 + 4 * i
abbrev FldRef.CA_SYNC_TS_TS (i : Nat) : FldRef := ⟨Reg.CA_SYNC_TS i, 31, 0⟩
/-- R165. -/
abbrev Reg.CA_SYNC_INFO : Nat := 0xD018
abbrev FldRef.CA_SYNC_INFO_SRC : FldRef := ⟨Reg.CA_SYNC_INFO, 31, 24⟩
abbrev FldRef.CA_SYNC_INFO_LATE : FldRef := ⟨Reg.CA_SYNC_INFO, 23, 23⟩
abbrev FldRef.CA_SYNC_INFO_IGN_CNT : FldRef := ⟨Reg.CA_SYNC_INFO, 15, 8⟩
abbrev FldRef.CA_SYNC_INFO_COUNT : FldRef := ⟨Reg.CA_SYNC_INFO, 7, 0⟩
/-- R166. -/
abbrev Reg.CA_INJ : Nat := 0xD020
abbrev Msk.CA_INJ : WMask := ⟨0, 0, 0x9f0fffff, 0⟩
abbrev FldRef.CA_INJ_NOWAIT : FldRef := ⟨Reg.CA_INJ, 31, 31⟩
abbrev FldRef.CA_INJ_TARGET : FldRef := ⟨Reg.CA_INJ, 28, 24⟩
abbrev FldRef.CA_INJ_TILE : FldRef := ⟨Reg.CA_INJ, 19, 16⟩
abbrev FldRef.CA_INJ_TAG : FldRef := ⟨Reg.CA_INJ, 15, 0⟩
/-- R166. -/
abbrev Reg.CA_INJ_RESP : Nat := 0xD024
abbrev FldRef.CA_INJ_RESP_RESP : FldRef := ⟨Reg.CA_INJ_RESP, 31, 28⟩
abbrev FldRef.CA_INJ_RESP_TAG : FldRef := ⟨Reg.CA_INJ_RESP, 15, 0⟩
/-- R166. -/
abbrev Reg.CA_SWEEP_CFG : Nat := 0xD030
abbrev Msk.CA_SWEEP_CFG : WMask := ⟨0, 0xffffffff, 0, 0⟩
abbrev FldRef.CA_SWEEP_CFG_START : FldRef := ⟨Reg.CA_SWEEP_CFG, 31, 20⟩
abbrev FldRef.CA_SWEEP_CFG_STEP : FldRef := ⟨Reg.CA_SWEEP_CFG, 19, 8⟩
abbrev FldRef.CA_SWEEP_CFG_COUNT : FldRef := ⟨Reg.CA_SWEEP_CFG, 7, 0⟩
/-- R166. -/
abbrev Reg.CA_SWEEP_SEL : Nat := 0xD034
abbrev Msk.CA_SWEEP_SEL : WMask := ⟨0, 0xffffffff, 0, 0⟩
abbrev FldRef.CA_SWEEP_SEL_DWELL : FldRef := ⟨Reg.CA_SWEEP_SEL, 31, 24⟩
abbrev FldRef.CA_SWEEP_SEL_POS : FldRef := ⟨Reg.CA_SWEEP_SEL, 23, 20⟩
abbrev FldRef.CA_SWEEP_SEL_LIMIT : FldRef := ⟨Reg.CA_SWEEP_SEL, 19, 16⟩
abbrev FldRef.CA_SWEEP_SEL_TILES : FldRef := ⟨Reg.CA_SWEEP_SEL, 15, 0⟩

/-! Block fc (spec chapter 06). -/
/-- R200. -/
abbrev Reg.FC_STAT : Nat := 0xE000
abbrev Msk.FC_STAT : WMask := ⟨0, 0, 0, 0xf0000⟩
abbrev FldRef.FC_STAT_DENY : FldRef := ⟨Reg.FC_STAT, 19, 16⟩
abbrev FldRef.FC_STAT_UERR : FldRef := ⟨Reg.FC_STAT, 11, 8⟩

/-! Block pr (spec chapter 06). -/
/-- R201. -/
abbrev Reg.PR_CIC (x : Nat) : Nat := 0xE800 + 0x200 * x
abbrev Msk.PR_CIC : WMask := ⟨0x8007ffff, 0, 0, 0⟩
abbrev FldRef.PR_CIC_LEANDIV (x : Nat) : FldRef := ⟨Reg.PR_CIC x, 31, 31⟩
abbrev FldRef.PR_CIC_ORDER (x : Nat) : FldRef := ⟨Reg.PR_CIC x, 18, 16⟩
abbrev FldRef.PR_CIC_RATIO (x : Nat) : FldRef := ⟨Reg.PR_CIC x, 15, 0⟩
/-- R201. -/
abbrev Reg.PR_NORM (x : Nat) : Nat := 0xE804 + 0x200 * x
abbrev Msk.PR_NORM : WMask := ⟨0xffffff, 0, 0, 0⟩
abbrev FldRef.PR_NORM_NORM (x : Nat) : FldRef := ⟨Reg.PR_NORM x, 23, 0⟩
/-- R201. -/
abbrev Reg.PR_FILT (x : Nat) : Nat := 0xE808 + 0x200 * x
abbrev Msk.PR_FILT : WMask := ⟨0x7f0f0007, 0, 0, 0⟩
abbrev FldRef.PR_FILT_TAPS (x : Nat) : FldRef := ⟨Reg.PR_FILT x, 30, 24⟩
abbrev FldRef.PR_FILT_DEC (x : Nat) : FldRef := ⟨Reg.PR_FILT x, 19, 16⟩
abbrev FldRef.PR_FILT_HBN (x : Nat) : FldRef := ⟨Reg.PR_FILT x, 2, 0⟩
/-- R201. -/
abbrev Reg.PR_AVG (x : Nat) : Nat := 0xE80C + 0x200 * x
abbrev Msk.PR_AVG : WMask := ⟨0xffff3f3f, 0, 0, 0⟩
abbrev FldRef.PR_AVG_A1 (x : Nat) : FldRef := ⟨Reg.PR_AVG x, 31, 16⟩
abbrev FldRef.PR_AVG_A2 (x : Nat) : FldRef := ⟨Reg.PR_AVG x, 13, 8⟩
abbrev FldRef.PR_AVG_M2 (x : Nat) : FldRef := ⟨Reg.PR_AVG x, 5, 0⟩
/-- R197. -/
abbrev Reg.PR_SHIFT (x : Nat) : Nat := 0xE810 + 0x200 * x
abbrev Msk.PR_SHIFT : WMask := ⟨0x1f1f1f1f, 0, 0, 0⟩
abbrev FldRef.PR_SHIFT_SH4 (x : Nat) : FldRef := ⟨Reg.PR_SHIFT x, 28, 24⟩
abbrev FldRef.PR_SHIFT_SH3 (x : Nat) : FldRef := ⟨Reg.PR_SHIFT x, 20, 16⟩
abbrev FldRef.PR_SHIFT_SH2 (x : Nat) : FldRef := ⟨Reg.PR_SHIFT x, 12, 8⟩
abbrev FldRef.PR_SHIFT_SH1 (x : Nat) : FldRef := ⟨Reg.PR_SHIFT x, 4, 0⟩
/-- R201. -/
abbrev Reg.PR_SUPP (x : Nat) : Nat := 0xE814 + 0x200 * x
abbrev Msk.PR_SUPP : WMask := ⟨0xff, 0, 0, 0⟩
abbrev FldRef.PR_SUPP_SET (x : Nat) : FldRef := ⟨Reg.PR_SUPP x, 7, 0⟩
/-- R201. -/
abbrev Reg.PR_STAT (x : Nat) : Nat := 0xE818 + 0x200 * x
abbrev FldRef.PR_STAT_SUPP_EFF (x : Nat) : FldRef := ⟨Reg.PR_STAT x, 31, 24⟩
abbrev FldRef.PR_STAT_LEAN_NA (x : Nat) : FldRef := ⟨Reg.PR_STAT x, 3, 3⟩
abbrev FldRef.PR_STAT_DCG_NE1 (x : Nat) : FldRef := ⟨Reg.PR_STAT x, 2, 2⟩
abbrev FldRef.PR_STAT_SUPP_LOW (x : Nat) : FldRef := ⟨Reg.PR_STAT x, 1, 1⟩
abbrev FldRef.PR_STAT_ERR (x : Nat) : FldRef := ⟨Reg.PR_STAT x, 0, 0⟩
/-- R201. -/
abbrev Reg.PR_LEN (x : Nat) : Nat := 0xE81C + 0x200 * x
abbrev FldRef.PR_LEN_LEN (x : Nat) : FldRef := ⟨Reg.PR_LEN x, 31, 0⟩
/-- R201. -/
abbrev Reg.PR_DEC (x : Nat) : Nat := 0xE820 + 0x200 * x
abbrev FldRef.PR_DEC_DEC (x : Nat) : FldRef := ⟨Reg.PR_DEC x, 31, 0⟩
/-- R201. -/
abbrev Reg.PR_GD (x : Nat) : Nat := 0xE824 + 0x200 * x
abbrev FldRef.PR_GD_GD (x : Nat) : FldRef := ⟨Reg.PR_GD x, 31, 0⟩
/-- R201. -/
abbrev Reg.PR_TAP (x i : Nat) : Nat := 0xE900 + 0x200 * x + 4 * i
abbrev Msk.PR_TAP : WMask := ⟨0xffffff, 0, 0, 0⟩
abbrev FldRef.PR_TAP_TAP (x i : Nat) : FldRef := ⟨Reg.PR_TAP x i, 23, 0⟩

/-! Block tile (spec chapter 03/04/05/07/16/17). -/
/-- R100. -/
abbrev Reg.TILE_CFG (t : Nat) : Nat := 0x10000 + 0x1000 * t
abbrev Msk.TILE_CFG : WMask := ⟨0x1ff0003, 0, 0, 0⟩
abbrev FldRef.TILE_CFG_HOLD (t : Nat) : FldRef := ⟨Reg.TILE_CFG t, 24, 16⟩
abbrev FldRef.TILE_CFG_CFG_ADJ (t : Nat) : FldRef := ⟨Reg.TILE_CFG t, 2, 2⟩
abbrev FldRef.TILE_CFG_DI_THR (t : Nat) : FldRef := ⟨Reg.TILE_CFG t, 1, 0⟩
/-- R101. -/
abbrev Reg.TILE_SAFE (t : Nat) : Nat := 0x10004 + 0x1000 * t
abbrev Msk.TILE_SAFE : WMask := ⟨0, 0, 0, 0x33⟩
abbrev FldRef.TILE_SAFE_ACTIVE (t : Nat) : FldRef := ⟨Reg.TILE_SAFE t, 8, 8⟩
abbrev FldRef.TILE_SAFE_CNT_GAP (t : Nat) : FldRef := ⟨Reg.TILE_SAFE t, 5, 5⟩
abbrev FldRef.TILE_SAFE_RESET (t : Nat) : FldRef := ⟨Reg.TILE_SAFE t, 4, 4⟩
abbrev FldRef.TILE_SAFE_IMAGE (t : Nat) : FldRef := ⟨Reg.TILE_SAFE t, 3, 3⟩
abbrev FldRef.TILE_SAFE_DOZE (t : Nat) : FldRef := ⟨Reg.TILE_SAFE t, 2, 2⟩
abbrev FldRef.TILE_SAFE_WDOG (t : Nat) : FldRef := ⟨Reg.TILE_SAFE t, 1, 1⟩
abbrev FldRef.TILE_SAFE_HOLD (t : Nat) : FldRef := ⟨Reg.TILE_SAFE t, 0, 0⟩
/-- R130. -/
abbrev Reg.TILE_TDAC (t : Nat) : Nat := 0x10008 + 0x1000 * t
abbrev Msk.TILE_TDAC : WMask := ⟨0, 0xfff, 0, 0x10000⟩
abbrev FldRef.TILE_TDAC_DENIED (t : Nat) : FldRef := ⟨Reg.TILE_TDAC t, 16, 16⟩
abbrev FldRef.TILE_TDAC_CODE (t : Nat) : FldRef := ⟨Reg.TILE_TDAC t, 11, 0⟩
/-- R167. -/
abbrev Reg.TILE_AUX_MASK (t : Nat) : Nat := 0x1000C + 0x1000 * t
abbrev Msk.TILE_AUX_MASK : WMask := ⟨0xffff, 0, 0, 0⟩
abbrev FldRef.TILE_AUX_MASK_MASK (t : Nat) : FldRef := ⟨Reg.TILE_AUX_MASK t, 15, 0⟩
/-- R167. -/
abbrev Reg.TILE_INJ_STAT (t : Nat) : Nat := 0x10010 + 0x1000 * t
abbrev FldRef.TILE_INJ_STAT_TAG (t : Nat) : FldRef := ⟨Reg.TILE_INJ_STAT t, 31, 16⟩
abbrev FldRef.TILE_INJ_STAT_HELD (t : Nat) : FldRef := ⟨Reg.TILE_INJ_STAT t, 15, 15⟩
abbrev FldRef.TILE_INJ_STAT_OVR (t : Nat) : FldRef := ⟨Reg.TILE_INJ_STAT t, 14, 14⟩
abbrev FldRef.TILE_INJ_STAT_HOIST (t : Nat) : FldRef := ⟨Reg.TILE_INJ_STAT t, 13, 13⟩
abbrev FldRef.TILE_INJ_STAT_TARGET (t : Nat) : FldRef := ⟨Reg.TILE_INJ_STAT t, 12, 8⟩
abbrev FldRef.TILE_INJ_STAT_PEND (t : Nat) : FldRef := ⟨Reg.TILE_INJ_STAT t, 2, 0⟩
/-- R167. -/
abbrev Reg.TILE_INJ_RES (t : Nat) : Nat := 0x10014 + 0x1000 * t
abbrev FldRef.TILE_INJ_RES_CODE (t : Nat) : FldRef := ⟨Reg.TILE_INJ_RES t, 31, 8⟩
/-- R167. -/
abbrev Reg.TILE_INJ_TS (t i : Nat) : Nat := 0x10018 + 0x1000 * t + 4 * i
abbrev FldRef.TILE_INJ_TS_TS (t i : Nat) : FldRef := ⟨Reg.TILE_INJ_TS t i, 31, 0⟩
/-- R167. -/
abbrev Reg.TILE_SWEEP_RES (t : Nat) : Nat := 0x10020 + 0x1000 * t
abbrev FldRef.TILE_SWEEP_RES_DEV (t : Nat) : FldRef := ⟨Reg.TILE_SWEEP_RES t, 31, 0⟩
/-- R167. -/
abbrev Reg.TILE_AUX_OFS (t : Nat) : Nat := 0x10024 + 0x1000 * t
abbrev Msk.TILE_AUX_OFS : WMask := ⟨0, 0xffffff, 0, 0⟩
abbrev FldRef.TILE_AUX_OFS_STALE (t : Nat) : FldRef := ⟨Reg.TILE_AUX_OFS t, 31, 31⟩
abbrev FldRef.TILE_AUX_OFS_FAIL (t : Nat) : FldRef := ⟨Reg.TILE_AUX_OFS t, 30, 30⟩
abbrev FldRef.TILE_AUX_OFS_HOST (t : Nat) : FldRef := ⟨Reg.TILE_AUX_OFS t, 29, 29⟩
abbrev FldRef.TILE_AUX_OFS_OFS (t : Nat) : FldRef := ⟨Reg.TILE_AUX_OFS t, 23, 0⟩
/-- R167. -/
abbrev Reg.TILE_AUX_GAIN (t : Nat) : Nat := 0x10028 + 0x1000 * t
abbrev Msk.TILE_AUX_GAIN : WMask := ⟨0, 0xffffff, 0, 0⟩
abbrev FldRef.TILE_AUX_GAIN_GAIN (t : Nat) : FldRef := ⟨Reg.TILE_AUX_GAIN t, 23, 0⟩
/-- R529. -/
abbrev Reg.TILE_FEEDV (t : Nat) : Nat := 0x10030 + 0x1000 * t
abbrev FldRef.TILE_FEEDV_VF_B (t : Nat) : FldRef := ⟨Reg.TILE_FEEDV t, 31, 16⟩
abbrev FldRef.TILE_FEEDV_VF_A (t : Nat) : FldRef := ⟨Reg.TILE_FEEDV t, 15, 0⟩
/-- R529. -/
abbrev Reg.TILE_FEED (t : Nat) : Nat := 0x10034 + 0x1000 * t
abbrev Msk.TILE_FEED : WMask := ⟨0, 0, 0, 0x20⟩
abbrev FldRef.TILE_FEED_STALE_CNT (t : Nat) : FldRef := ⟨Reg.TILE_FEED t, 31, 16⟩
abbrev FldRef.TILE_FEED_LINK_B (t : Nat) : FldRef := ⟨Reg.TILE_FEED t, 9, 9⟩
abbrev FldRef.TILE_FEED_LINK_A (t : Nat) : FldRef := ⟨Reg.TILE_FEED t, 8, 8⟩
abbrev FldRef.TILE_FEED_TEST_FAIL (t : Nat) : FldRef := ⟨Reg.TILE_FEED t, 5, 5⟩
abbrev FldRef.TILE_FEED_TEST (t : Nat) : FldRef := ⟨Reg.TILE_FEED t, 4, 4⟩
abbrev FldRef.TILE_FEED_B_OK (t : Nat) : FldRef := ⟨Reg.TILE_FEED t, 3, 3⟩
abbrev FldRef.TILE_FEED_A_OK (t : Nat) : FldRef := ⟨Reg.TILE_FEED t, 2, 2⟩
abbrev FldRef.TILE_FEED_CARRY (t : Nat) : FldRef := ⟨Reg.TILE_FEED t, 1, 0⟩
/-- R550. -/
abbrev Reg.TILE_RST (t : Nat) : Nat := 0x10038 + 0x1000 * t
abbrev Msk.TILE_RST : WMask := ⟨0, 0, 0xffff0001, 0⟩
abbrev FldRef.TILE_RST_KEY (t : Nat) : FldRef := ⟨Reg.TILE_RST t, 31, 16⟩
abbrev FldRef.TILE_RST_GO (t : Nat) : FldRef := ⟨Reg.TILE_RST t, 0, 0⟩
/-- R167. -/
abbrev Reg.TILE_AUX (t i : Nat) : Nat := 0x10040 + 0x1000 * t + 4 * i
abbrev FldRef.TILE_AUX_CODE (t i : Nat) : FldRef := ⟨Reg.TILE_AUX t i, 31, 8⟩
abbrev FldRef.TILE_AUX_OVR (t i : Nat) : FldRef := ⟨Reg.TILE_AUX t i, 1, 1⟩
abbrev FldRef.TILE_AUX_STALE (t i : Nat) : FldRef := ⟨Reg.TILE_AUX t i, 0, 0⟩
/-- R231. -/
abbrev Reg.TILE_WIN_CFG (t : Nat) : Nat := 0x10080 + 0x1000 * t
abbrev Msk.TILE_WIN_CFG : WMask := ⟨0, 0xffffffff, 0, 0⟩
abbrev FldRef.TILE_WIN_CFG_REENTER (t : Nat) : FldRef := ⟨Reg.TILE_WIN_CFG t, 31, 16⟩
abbrev FldRef.TILE_WIN_CFG_EN (t : Nat) : FldRef := ⟨Reg.TILE_WIN_CFG t, 15, 0⟩
/-- R231. -/
abbrev Reg.TILE_WIN_HOLD (t : Nat) : Nat := 0x10084 + 0x1000 * t
abbrev Msk.TILE_WIN_HOLD : WMask := ⟨0, 0xf, 0, 0⟩
abbrev FldRef.TILE_WIN_HOLD_HOLD (t : Nat) : FldRef := ⟨Reg.TILE_WIN_HOLD t, 3, 0⟩
/-- R231. -/
abbrev Reg.TILE_WIN_STATE (t : Nat) : Nat := 0x10088 + 0x1000 * t
abbrev FldRef.TILE_WIN_STATE_OUT (t : Nat) : FldRef := ⟨Reg.TILE_WIN_STATE t, 15, 0⟩
/-- R231. -/
abbrev Reg.TILE_WIN_LO (t i : Nat) : Nat := 0x10100 + 0x1000 * t + 8 * i
abbrev Msk.TILE_WIN_LO : WMask := ⟨0, 0xffffff, 0, 0⟩
abbrev FldRef.TILE_WIN_LO_LO (t i : Nat) : FldRef := ⟨Reg.TILE_WIN_LO t i, 23, 0⟩
/-- R231. -/
abbrev Reg.TILE_WIN_HI (t i : Nat) : Nat := 0x10104 + 0x1000 * t + 8 * i
abbrev Msk.TILE_WIN_HI : WMask := ⟨0, 0xffffff, 0, 0⟩
abbrev FldRef.TILE_WIN_HI_HI (t i : Nat) : FldRef := ⟨Reg.TILE_WIN_HI t i, 23, 0⟩

/-! Block ch (spec chapter 03/04/05/06/07/08). -/
/-- R90. -/
abbrev Reg.CH_ID (n : Nat) : Nat := 0x20000 + 0x100 * n
abbrev FldRef.CH_ID_KIND (n : Nat) : FldRef := ⟨Reg.CH_ID n, 11, 8⟩
abbrev FldRef.CH_ID_N (n : Nat) : FldRef := ⟨Reg.CH_ID n, 7, 0⟩
/-- R91. -/
abbrev Reg.CH_DIAG (n : Nat) : Nat := 0x20004 + 0x100 * n
abbrev Msk.CH_DIAG : WMask := ⟨0, 0, 0, 0xfff0000⟩
abbrev FldRef.CH_DIAG_LATCHED (n : Nat) : FldRef := ⟨Reg.CH_DIAG n, 27, 16⟩
abbrev FldRef.CH_DIAG_ACTIVE (n : Nat) : FldRef := ⟨Reg.CH_DIAG n, 11, 0⟩
/-- R92. -/
abbrev Reg.CH_DIAG_MASK (n : Nat) : Nat := 0x20008 + 0x100 * n
abbrev Msk.CH_DIAG_MASK : WMask := ⟨0xfff, 0, 0, 0⟩
abbrev FldRef.CH_DIAG_MASK_FAULT_EN (n : Nat) : FldRef := ⟨Reg.CH_DIAG_MASK n, 11, 0⟩
/-- R93. -/
abbrev Reg.CH_DI_CFG (n : Nat) : Nat := 0x20020 + 0x100 * n
abbrev Msk.CH_DI_CFG : WMask := ⟨0x1fff, 0, 0, 0⟩
abbrev FldRef.CH_DI_CFG_WB_EN (n : Nat) : FldRef := ⟨Reg.CH_DI_CFG n, 12, 12⟩
abbrev FldRef.CH_DI_CFG_PER_EDGE (n : Nat) : FldRef := ⟨Reg.CH_DI_CFG n, 11, 10⟩
abbrev FldRef.CH_DI_CFG_CNT_EDGE (n : Nat) : FldRef := ⟨Reg.CH_DI_CFG n, 9, 8⟩
abbrev FldRef.CH_DI_CFG_DEB (n : Nat) : FldRef := ⟨Reg.CH_DI_CFG n, 7, 0⟩
/-- R94. -/
abbrev Reg.CH_DI_STATE (n : Nat) : Nat := 0x20024 + 0x100 * n
abbrev FldRef.CH_DI_STATE_PERIOD_SAT (n : Nat) : FldRef := ⟨Reg.CH_DI_STATE n, 2, 2⟩
abbrev FldRef.CH_DI_STATE_RAW (n : Nat) : FldRef := ⟨Reg.CH_DI_STATE n, 1, 1⟩
abbrev FldRef.CH_DI_STATE_LEVEL (n : Nat) : FldRef := ⟨Reg.CH_DI_STATE n, 0, 0⟩
/-- R95. -/
abbrev Reg.CH_DI_EDGES (n : Nat) : Nat := 0x20028 + 0x100 * n
abbrev Msk.CH_DI_EDGES : WMask := ⟨0, 0xffffffff, 0, 0⟩
abbrev FldRef.CH_DI_EDGES_EDGES (n : Nat) : FldRef := ⟨Reg.CH_DI_EDGES n, 31, 0⟩
/-- R95. -/
abbrev Reg.CH_DI_PERIOD (n : Nat) : Nat := 0x2002C + 0x100 * n
abbrev FldRef.CH_DI_PERIOD_PERIOD (n : Nat) : FldRef := ⟨Reg.CH_DI_PERIOD n, 31, 0⟩
/-- R95. -/
abbrev Reg.CH_DI_TS (n i : Nat) : Nat := 0x20030 + 0x100 * n + 4 * i
abbrev FldRef.CH_DI_TS_TS (n i : Nat) : FldRef := ⟨Reg.CH_DI_TS n i, 31, 0⟩
/-- R95. -/
abbrev Reg.CH_DI_IIN (n : Nat) : Nat := 0x20038 + 0x100 * n
abbrev FldRef.CH_DI_IIN_IIN (n : Nat) : FldRef := ⟨Reg.CH_DI_IIN n, 15, 0⟩
/-- R232. -/
abbrev Reg.CH_DI_EV (n : Nat) : Nat := 0x2003C + 0x100 * n
abbrev Msk.CH_DI_EV : WMask := ⟨0, 0xffff0f, 0, 0⟩
abbrev FldRef.CH_DI_EV_RATE (n : Nat) : FldRef := ⟨Reg.CH_DI_EV n, 23, 16⟩
abbrev FldRef.CH_DI_EV_BURST (n : Nat) : FldRef := ⟨Reg.CH_DI_EV n, 15, 8⟩
abbrev FldRef.CH_DI_EV_IRQ (n : Nat) : FldRef := ⟨Reg.CH_DI_EV n, 3, 3⟩
abbrev FldRef.CH_DI_EV_PEN (n : Nat) : FldRef := ⟨Reg.CH_DI_EV n, 2, 2⟩
abbrev FldRef.CH_DI_EV_EDGE (n : Nat) : FldRef := ⟨Reg.CH_DI_EV n, 1, 0⟩
/-- R96. -/
abbrev Reg.CH_DO_CFG (n : Nat) : Nat := 0x20040 + 0x100 * n
abbrev Msk.CH_DO_CFG : WMask := ⟨0x7fffff7f, 0, 0, 0⟩
abbrev FldRef.CH_DO_CFG_PWM_FREQ (n : Nat) : FldRef := ⟨Reg.CH_DO_CFG n, 30, 24⟩
abbrev FldRef.CH_DO_CFG_PWM_DUTY (n : Nat) : FldRef := ⟨Reg.CH_DO_CFG n, 23, 16⟩
abbrev FldRef.CH_DO_CFG_PULLIN (n : Nat) : FldRef := ⟨Reg.CH_DO_CFG n, 15, 8⟩
abbrev FldRef.CH_DO_CFG_PWM_EN (n : Nat) : FldRef := ⟨Reg.CH_DO_CFG n, 6, 6⟩
abbrev FldRef.CH_DO_CFG_OPEN_ON_EN (n : Nat) : FldRef := ⟨Reg.CH_DO_CFG n, 5, 5⟩
abbrev FldRef.CH_DO_CFG_OFFTEST (n : Nat) : FldRef := ⟨Reg.CH_DO_CFG n, 4, 4⟩
abbrev FldRef.CH_DO_CFG_PAIR (n : Nat) : FldRef := ⟨Reg.CH_DO_CFG n, 3, 3⟩
abbrev FldRef.CH_DO_CFG_ILIM (n : Nat) : FldRef := ⟨Reg.CH_DO_CFG n, 2, 2⟩
abbrev FldRef.CH_DO_CFG_SAFE (n : Nat) : FldRef := ⟨Reg.CH_DO_CFG n, 1, 0⟩
/-- R97. -/
abbrev Reg.CH_DO_CMD (n : Nat) : Nat := 0x20044 + 0x100 * n
abbrev Msk.CH_DO_CMD : WMask := ⟨0, 0x1, 0, 0⟩
abbrev FldRef.CH_DO_CMD_ON (n : Nat) : FldRef := ⟨Reg.CH_DO_CMD n, 0, 0⟩
/-- R98. -/
abbrev Reg.CH_DO_STATE (n : Nat) : Nat := 0x20048 + 0x100 * n
abbrev FldRef.CH_DO_STATE_CFG_ADJ (n : Nat) : FldRef := ⟨Reg.CH_DO_STATE n, 5, 5⟩
abbrev FldRef.CH_DO_STATE_PAIRED (n : Nat) : FldRef := ⟨Reg.CH_DO_STATE n, 4, 4⟩
abbrev FldRef.CH_DO_STATE_LOCKED (n : Nat) : FldRef := ⟨Reg.CH_DO_STATE n, 3, 3⟩
abbrev FldRef.CH_DO_STATE_TSD (n : Nat) : FldRef := ⟨Reg.CH_DO_STATE n, 2, 2⟩
abbrev FldRef.CH_DO_STATE_SAFE (n : Nat) : FldRef := ⟨Reg.CH_DO_STATE n, 1, 1⟩
abbrev FldRef.CH_DO_STATE_OUT (n : Nat) : FldRef := ⟨Reg.CH_DO_STATE n, 0, 0⟩
/-- R99. -/
abbrev Reg.CH_DO_SWCNT (n : Nat) : Nat := 0x2004C + 0x100 * n
abbrev Msk.CH_DO_SWCNT : WMask := ⟨0, 0xffffffff, 0, 0⟩
abbrev FldRef.CH_DO_SWCNT_CNT (n : Nat) : FldRef := ⟨Reg.CH_DO_SWCNT n, 31, 0⟩
/-- R99. -/
abbrev Reg.CH_DO_ONTIME (n : Nat) : Nat := 0x20050 + 0x100 * n
abbrev Msk.CH_DO_ONTIME : WMask := ⟨0, 0xffffffff, 0, 0⟩
abbrev FldRef.CH_DO_ONTIME_SEC (n : Nat) : FldRef := ⟨Reg.CH_DO_ONTIME n, 31, 0⟩
/-- R99. -/
abbrev Reg.CH_DO_CLAMP (n : Nat) : Nat := 0x20054 + 0x100 * n
abbrev FldRef.CH_DO_CLAMP_LAST_E (n : Nat) : FldRef := ⟨Reg.CH_DO_CLAMP n, 15, 0⟩
/-- R99. -/
abbrev Reg.CH_DO_CLAMP_SUM (n : Nat) : Nat := 0x20058 + 0x100 * n
abbrev Msk.CH_DO_CLAMP_SUM : WMask := ⟨0, 0xffffffff, 0, 0⟩
abbrev FldRef.CH_DO_CLAMP_SUM_SUM (n : Nat) : FldRef := ⟨Reg.CH_DO_CLAMP_SUM n, 31, 0⟩
/-- R99. -/
abbrev Reg.CH_DO_MEAS (n : Nat) : Nat := 0x2005C + 0x100 * n
abbrev FldRef.CH_DO_MEAS_VOUT (n : Nat) : FldRef := ⟨Reg.CH_DO_MEAS n, 31, 16⟩
abbrev FldRef.CH_DO_MEAS_IOUT (n : Nat) : FldRef := ⟨Reg.CH_DO_MEAS n, 15, 0⟩
/-- R127. -/
abbrev Reg.CH_AN_CFG (n : Nat) : Nat := 0x20080 + 0x100 * n
abbrev Msk.CH_AN_CFG : WMask := ⟨0x317, 0, 0, 0⟩
abbrev FldRef.CH_AN_CFG_SAFE (n : Nat) : FldRef := ⟨Reg.CH_AN_CFG n, 9, 8⟩
abbrev FldRef.CH_AN_CFG_NE43_EN (n : Nat) : FldRef := ⟨Reg.CH_AN_CFG n, 4, 4⟩
abbrev FldRef.CH_AN_CFG_MODE (n : Nat) : FldRef := ⟨Reg.CH_AN_CFG n, 2, 0⟩
/-- R128. -/
abbrev Reg.CH_AN_STATE (n : Nat) : Nat := 0x20084 + 0x100 * n
abbrev FldRef.CH_AN_STATE_LP_ON (n : Nat) : FldRef := ⟨Reg.CH_AN_STATE n, 10, 10⟩
abbrev FldRef.CH_AN_STATE_LP_RETRY (n : Nat) : FldRef := ⟨Reg.CH_AN_STATE n, 9, 9⟩
abbrev FldRef.CH_AN_STATE_INJ (n : Nat) : FldRef := ⟨Reg.CH_AN_STATE n, 8, 8⟩
abbrev FldRef.CH_AN_STATE_SAT (n : Nat) : FldRef := ⟨Reg.CH_AN_STATE n, 7, 7⟩
abbrev FldRef.CH_AN_STATE_SAFE (n : Nat) : FldRef := ⟨Reg.CH_AN_STATE n, 6, 6⟩
abbrev FldRef.CH_AN_STATE_CFG_ADJ (n : Nat) : FldRef := ⟨Reg.CH_AN_STATE n, 5, 5⟩
abbrev FldRef.CH_AN_STATE_SET_CLAMP (n : Nat) : FldRef := ⟨Reg.CH_AN_STATE n, 4, 4⟩
abbrev FldRef.CH_AN_STATE_MODE_EFF (n : Nat) : FldRef := ⟨Reg.CH_AN_STATE n, 2, 0⟩
/-- R129. -/
abbrev Reg.CH_AO_SET (n : Nat) : Nat := 0x20088 + 0x100 * n
abbrev Msk.CH_AO_SET : WMask := ⟨0, 0xffff, 0, 0⟩
abbrev FldRef.CH_AO_SET_SET (n : Nat) : FldRef := ⟨Reg.CH_AO_SET n, 15, 0⟩
/-- R129. -/
abbrev Reg.CH_AO_SAFE (n : Nat) : Nat := 0x2008C + 0x100 * n
abbrev Msk.CH_AO_SAFE : WMask := ⟨0xffff, 0, 0, 0⟩
abbrev FldRef.CH_AO_SAFE_VALUE (n : Nat) : FldRef := ⟨Reg.CH_AO_SAFE n, 15, 0⟩
/-- R129. -/
abbrev Reg.CH_AO_TRIM (n : Nat) : Nat := 0x20090 + 0x100 * n
abbrev Msk.CH_AO_TRIM : WMask := ⟨0, 0xffffffff, 0, 0⟩
abbrev FldRef.CH_AO_TRIM_TRIM_HI (n : Nat) : FldRef := ⟨Reg.CH_AO_TRIM n, 31, 16⟩
abbrev FldRef.CH_AO_TRIM_TRIM_LO (n : Nat) : FldRef := ⟨Reg.CH_AO_TRIM n, 15, 0⟩
/-- R129. -/
abbrev Reg.CH_AN_INJ (n : Nat) : Nat := 0x20094 + 0x100 * n
abbrev Msk.CH_AN_INJ : WMask := ⟨0, 0x1, 0, 0⟩
abbrev FldRef.CH_AN_INJ_EN (n : Nat) : FldRef := ⟨Reg.CH_AN_INJ n, 0, 0⟩
/-- R129. -/
abbrev Reg.CH_AN_FAST (n : Nat) : Nat := 0x20098 + 0x100 * n
abbrev FldRef.CH_AN_FAST_FAST (n : Nat) : FldRef := ⟨Reg.CH_AN_FAST n, 31, 0⟩
/-- R129. -/
abbrev Reg.CH_AN_LP (n : Nat) : Nat := 0x2009C + 0x100 * n
abbrev FldRef.CH_AN_LP_ILP (n : Nat) : FldRef := ⟨Reg.CH_AN_LP n, 31, 16⟩
abbrev FldRef.CH_AN_LP_VLP (n : Nat) : FldRef := ⟨Reg.CH_AN_LP n, 15, 0⟩
/-- R196. -/
abbrev Reg.CH_FC_CFG (n : Nat) : Nat := 0x200A0 + 0x100 * n
abbrev Msk.CH_FC_CFG : WMask := ⟨0x110f, 0, 0, 0⟩
abbrev FldRef.CH_FC_CFG_SHIFT_OWN (n : Nat) : FldRef := ⟨Reg.CH_FC_CFG n, 12, 12⟩
abbrev FldRef.CH_FC_CFG_EN (n : Nat) : FldRef := ⟨Reg.CH_FC_CFG n, 8, 8⟩
abbrev FldRef.CH_FC_CFG_PRESET (n : Nat) : FldRef := ⟨Reg.CH_FC_CFG n, 3, 0⟩
/-- R197. -/
abbrev Reg.CH_FC_SHIFT (n : Nat) : Nat := 0x200A4 + 0x100 * n
abbrev Msk.CH_FC_SHIFT : WMask := ⟨0x1f1f1f1f, 0, 0, 0⟩
abbrev FldRef.CH_FC_SHIFT_SH4 (n : Nat) : FldRef := ⟨Reg.CH_FC_SHIFT n, 28, 24⟩
abbrev FldRef.CH_FC_SHIFT_SH3 (n : Nat) : FldRef := ⟨Reg.CH_FC_SHIFT n, 20, 16⟩
abbrev FldRef.CH_FC_SHIFT_SH2 (n : Nat) : FldRef := ⟨Reg.CH_FC_SHIFT n, 12, 8⟩
abbrev FldRef.CH_FC_SHIFT_SH1 (n : Nat) : FldRef := ⟨Reg.CH_FC_SHIFT n, 4, 0⟩
/-- R198. -/
abbrev Reg.CH_FC_DELAY (n : Nat) : Nat := 0x200A8 + 0x100 * n
abbrev Msk.CH_FC_DELAY : WMask := ⟨0xfff, 0, 0, 0⟩
abbrev FldRef.CH_FC_DELAY_PDELAY (n : Nat) : FldRef := ⟨Reg.CH_FC_DELAY n, 11, 0⟩
/-- R199. -/
abbrev Reg.CH_FC_STATE (n : Nat) : Nat := 0x200AC + 0x100 * n
abbrev Msk.CH_FC_STATE : WMask := ⟨0, 0, 0, 0x80⟩
abbrev FldRef.CH_FC_STATE_SUPP_LEFT (n : Nat) : FldRef := ⟨Reg.CH_FC_STATE n, 31, 24⟩
abbrev FldRef.CH_FC_STATE_PRESET_EFF (n : Nat) : FldRef := ⟨Reg.CH_FC_STATE n, 23, 20⟩
abbrev FldRef.CH_FC_STATE_OVF (n : Nat) : FldRef := ⟨Reg.CH_FC_STATE n, 7, 7⟩
abbrev FldRef.CH_FC_STATE_UNAVAIL (n : Nat) : FldRef := ⟨Reg.CH_FC_STATE n, 5, 5⟩
abbrev FldRef.CH_FC_STATE_CFG_ERR (n : Nat) : FldRef := ⟨Reg.CH_FC_STATE n, 4, 4⟩
abbrev FldRef.CH_FC_STATE_DCG_NE1 (n : Nat) : FldRef := ⟨Reg.CH_FC_STATE n, 3, 3⟩
abbrev FldRef.CH_FC_STATE_CFG_ADJ (n : Nat) : FldRef := ⟨Reg.CH_FC_STATE n, 2, 2⟩
abbrev FldRef.CH_FC_STATE_DELIVERING (n : Nat) : FldRef := ⟨Reg.CH_FC_STATE n, 0, 0⟩
/-- R168. -/
abbrev Reg.CH_CAL_OFS (n : Nat) : Nat := 0x200B0 + 0x100 * n
abbrev Msk.CH_CAL_OFS : WMask := ⟨0, 0xffffff, 0, 0⟩
abbrev FldRef.CH_CAL_OFS_STALE (n : Nat) : FldRef := ⟨Reg.CH_CAL_OFS n, 31, 31⟩
abbrev FldRef.CH_CAL_OFS_FAIL (n : Nat) : FldRef := ⟨Reg.CH_CAL_OFS n, 30, 30⟩
abbrev FldRef.CH_CAL_OFS_HOST (n : Nat) : FldRef := ⟨Reg.CH_CAL_OFS n, 29, 29⟩
abbrev FldRef.CH_CAL_OFS_OFS (n : Nat) : FldRef := ⟨Reg.CH_CAL_OFS n, 23, 0⟩
/-- R168. -/
abbrev Reg.CH_CAL_GAIN (n : Nat) : Nat := 0x200B4 + 0x100 * n
abbrev Msk.CH_CAL_GAIN : WMask := ⟨0, 0xffffff, 0, 0⟩
abbrev FldRef.CH_CAL_GAIN_GAIN (n : Nat) : FldRef := ⟨Reg.CH_CAL_GAIN n, 23, 0⟩
/-- R168. -/
abbrev Reg.CH_INJ_RES (n : Nat) : Nat := 0x200B8 + 0x100 * n
abbrev FldRef.CH_INJ_RES_CODE (n : Nat) : FldRef := ⟨Reg.CH_INJ_RES n, 31, 8⟩
abbrev FldRef.CH_INJ_RES_OVR (n : Nat) : FldRef := ⟨Reg.CH_INJ_RES n, 1, 1⟩
abbrev FldRef.CH_INJ_RES_HELD (n : Nat) : FldRef := ⟨Reg.CH_INJ_RES n, 0, 0⟩
/-- R168. -/
abbrev Reg.CH_INJ_TAG (n : Nat) : Nat := 0x200BC + 0x100 * n
abbrev FldRef.CH_INJ_TAG_TAG (n : Nat) : FldRef := ⟨Reg.CH_INJ_TAG n, 15, 0⟩
/-- R249. -/
abbrev Reg.CH_LAST (n : Nat) : Nat := 0x200C0 + 0x100 * n
abbrev FldRef.CH_LAST_LAST (n : Nat) : FldRef := ⟨Reg.CH_LAST n, 31, 0⟩
/-- R249. -/
abbrev Reg.CH_LAST_SEQ (n : Nat) : Nat := 0x200C4 + 0x100 * n
abbrev FldRef.CH_LAST_SEQ_SEQ (n : Nat) : FldRef := ⟨Reg.CH_LAST_SEQ n, 31, 0⟩
/-- R249. -/
abbrev Reg.CH_SEQ (n : Nat) : Nat := 0x200C8 + 0x100 * n
abbrev FldRef.CH_SEQ_SEQ (n : Nat) : FldRef := ⟨Reg.CH_SEQ n, 31, 0⟩
/-- R249. -/
abbrev Reg.CH_QBIND (n : Nat) : Nat := 0x200CC + 0x100 * n
abbrev Msk.CH_QBIND : WMask := ⟨0xff, 0, 0, 0⟩
abbrev FldRef.CH_QBIND_ERR (n : Nat) : FldRef := ⟨Reg.CH_QBIND n, 8, 8⟩
abbrev FldRef.CH_QBIND_EN (n : Nat) : FldRef := ⟨Reg.CH_QBIND n, 7, 7⟩
abbrev FldRef.CH_QBIND_Q (n : Nat) : FldRef := ⟨Reg.CH_QBIND n, 6, 0⟩
/-- R230. -/
abbrev Reg.CH_TH_CFG (n i : Nat) : Nat := 0x200D0 + 0x100 * n + 0x10 * i
abbrev Msk.CH_TH_CFG : WMask := ⟨0, 0xff0000f3, 0, 0⟩
abbrev FldRef.CH_TH_CFG_HOLDOFF (n i : Nat) : FldRef := ⟨Reg.CH_TH_CFG n i, 31, 24⟩
abbrev FldRef.CH_TH_CFG_INIT_EV (n i : Nat) : FldRef := ⟨Reg.CH_TH_CFG n i, 7, 7⟩
abbrev FldRef.CH_TH_CFG_TEST_OK (n i : Nat) : FldRef := ⟨Reg.CH_TH_CFG n i, 6, 6⟩
abbrev FldRef.CH_TH_CFG_IRQ (n i : Nat) : FldRef := ⟨Reg.CH_TH_CFG n i, 5, 5⟩
abbrev FldRef.CH_TH_CFG_PEN (n i : Nat) : FldRef := ⟨Reg.CH_TH_CFG n i, 4, 4⟩
abbrev FldRef.CH_TH_CFG_DIR (n i : Nat) : FldRef := ⟨Reg.CH_TH_CFG n i, 1, 0⟩
/-- R230. -/
abbrev Reg.CH_TH_LEVEL (n i : Nat) : Nat := 0x200D4 + 0x100 * n + 0x10 * i
abbrev Msk.CH_TH_LEVEL : WMask := ⟨0, 0xffffff, 0, 0⟩
abbrev FldRef.CH_TH_LEVEL_LEVEL (n i : Nat) : FldRef := ⟨Reg.CH_TH_LEVEL n i, 23, 0⟩
/-- R230. -/
abbrev Reg.CH_TH_HYST (n i : Nat) : Nat := 0x200D8 + 0x100 * n + 0x10 * i
abbrev Msk.CH_TH_HYST : WMask := ⟨0, 0xffffff, 0, 0⟩
abbrev FldRef.CH_TH_HYST_HYST (n i : Nat) : FldRef := ⟨Reg.CH_TH_HYST n i, 23, 0⟩
/-- R230. -/
abbrev Reg.CH_TH_STATE (n i : Nat) : Nat := 0x200DC + 0x100 * n + 0x10 * i
abbrev FldRef.CH_TH_STATE_COUNT (n i : Nat) : FldRef := ⟨Reg.CH_TH_STATE n i, 31, 24⟩
abbrev FldRef.CH_TH_STATE_VALID (n i : Nat) : FldRef := ⟨Reg.CH_TH_STATE n i, 1, 1⟩
abbrev FldRef.CH_TH_STATE_ABOVE (n i : Nat) : FldRef := ⟨Reg.CH_TH_STATE n i, 0, 0⟩

/-! Block q (spec chapter 08). -/
/-- R234. -/
abbrev Reg.Q_CFG (q : Nat) : Nat := 0x30000 + 0x40 * q
abbrev Msk.Q_CFG : WMask := ⟨0x1f1f0700, 0, 0, 0⟩
abbrev FldRef.Q_CFG_EXPORT (q : Nat) : FldRef := ⟨Reg.Q_CFG q, 28, 28⟩
abbrev FldRef.Q_CFG_LOG (q : Nat) : FldRef := ⟨Reg.Q_CFG q, 27, 27⟩
abbrev FldRef.Q_CFG_HOST (q : Nat) : FldRef := ⟨Reg.Q_CFG q, 26, 26⟩
abbrev FldRef.Q_CFG_POLICY (q : Nat) : FldRef := ⟨Reg.Q_CFG q, 25, 24⟩
abbrev FldRef.Q_CFG_DEPTH (q : Nat) : FldRef := ⟨Reg.Q_CFG q, 20, 16⟩
abbrev FldRef.Q_CFG_ESIZE (q : Nat) : FldRef := ⟨Reg.Q_CFG q, 10, 8⟩
/-- R261. -/
abbrev Reg.Q_BASE (q : Nat) : Nat := 0x30004 + 0x40 * q
abbrev FldRef.Q_BASE_BASE (q : Nat) : FldRef := ⟨Reg.Q_BASE q, 22, 0⟩
/-- R261. -/
abbrev Reg.Q_WM (q : Nat) : Nat := 0x30008 + 0x40 * q
abbrev Msk.Q_WM : WMask := ⟨0, 0xffffff, 0, 0⟩
abbrev FldRef.Q_WM_WM (q : Nat) : FldRef := ⟨Reg.Q_WM q, 23, 0⟩
/-- R261. -/
abbrev Reg.Q_LEVEL (q : Nat) : Nat := 0x3000C + 0x40 * q
abbrev FldRef.Q_LEVEL_LEVEL (q : Nat) : FldRef := ⟨Reg.Q_LEVEL q, 23, 0⟩
/-- R261. -/
abbrev Reg.Q_PEAK (q : Nat) : Nat := 0x30010 + 0x40 * q
abbrev FldRef.Q_PEAK_PEAK (q : Nat) : FldRef := ⟨Reg.Q_PEAK q, 23, 0⟩
/-- R261. -/
abbrev Reg.Q_STAT (q : Nat) : Nat := 0x30014 + 0x40 * q
abbrev Msk.Q_STAT : WMask := ⟨0, 0, 0, 0x48⟩
abbrev FldRef.Q_STAT_DROP_CNT (q : Nat) : FldRef := ⟨Reg.Q_STAT q, 31, 16⟩
abbrev FldRef.Q_STAT_NOMEM (q : Nat) : FldRef := ⟨Reg.Q_STAT q, 7, 7⟩
abbrev FldRef.Q_STAT_FOREIGN (q : Nat) : FldRef := ⟨Reg.Q_STAT q, 6, 6⟩
abbrev FldRef.Q_STAT_CFG_ADJ (q : Nat) : FldRef := ⟨Reg.Q_STAT q, 5, 5⟩
abbrev FldRef.Q_STAT_STALLED (q : Nat) : FldRef := ⟨Reg.Q_STAT q, 4, 4⟩
abbrev FldRef.Q_STAT_WM (q : Nat) : FldRef := ⟨Reg.Q_STAT q, 3, 3⟩
/-- R261. -/
abbrev Reg.Q_LOST (q : Nat) : Nat := 0x30018 + 0x40 * q
abbrev FldRef.Q_LOST_LOST_HALF (q : Nat) : FldRef := ⟨Reg.Q_LOST q, 31, 16⟩
abbrev FldRef.Q_LOST_OVWR_CNT (q : Nat) : FldRef := ⟨Reg.Q_LOST q, 15, 0⟩
/-- R261. -/
abbrev Reg.Q_DUP (q : Nat) : Nat := 0x3001C + 0x40 * q
abbrev FldRef.Q_DUP_TKO (q : Nat) : FldRef := ⟨Reg.Q_DUP q, 31, 24⟩
abbrev FldRef.Q_DUP_LEFT (q : Nat) : FldRef := ⟨Reg.Q_DUP q, 23, 0⟩
/-- R261. -/
abbrev Reg.Q_POP_LO (q : Nat) : Nat := 0x30020 + 0x40 * q
abbrev FldRef.Q_POP_LO_W (q : Nat) : FldRef := ⟨Reg.Q_POP_LO q, 31, 0⟩
/-- R261. -/
abbrev Reg.Q_POP_HI (q : Nat) : Nat := 0x30024 + 0x40 * q
abbrev FldRef.Q_POP_HI_W (q : Nat) : FldRef := ⟨Reg.Q_POP_HI q, 31, 0⟩
/-- R248. -/
abbrev Reg.Q_POP_ST (q : Nat) : Nat := 0x30028 + 0x40 * q
abbrev FldRef.Q_POP_ST_EMPTY (q : Nat) : FldRef := ⟨Reg.Q_POP_ST q, 31, 31⟩
abbrev FldRef.Q_POP_ST_NEWER (q : Nat) : FldRef := ⟨Reg.Q_POP_ST q, 30, 30⟩
abbrev FldRef.Q_POP_ST_DUP (q : Nat) : FldRef := ⟨Reg.Q_POP_ST q, 29, 29⟩
abbrev FldRef.Q_POP_ST_OVWR (q : Nat) : FldRef := ⟨Reg.Q_POP_ST q, 28, 28⟩
abbrev FldRef.Q_POP_ST_NO_LO (q : Nat) : FldRef := ⟨Reg.Q_POP_ST q, 27, 27⟩
abbrev FldRef.Q_POP_ST_HI_DONE (q : Nat) : FldRef := ⟨Reg.Q_POP_ST q, 26, 26⟩
abbrev FldRef.Q_POP_ST_LEVEL (q : Nat) : FldRef := ⟨Reg.Q_POP_ST q, 23, 0⟩
/-- R261. -/
abbrev Reg.Q_POP_STREAM (q : Nat) : Nat := 0x3002C + 0x40 * q
abbrev FldRef.Q_POP_STREAM_W (q : Nat) : FldRef := ⟨Reg.Q_POP_STREAM q, 31, 0⟩
/-- R261. -/
abbrev Reg.Q_POP_ADDR (q : Nat) : Nat := 0x30030 + 0x40 * q
abbrev FldRef.Q_POP_ADDR_ADDR (q : Nat) : FldRef := ⟨Reg.Q_POP_ADDR q, 31, 0⟩
/-- R261. -/
abbrev Reg.Q_EXPORT (q : Nat) : Nat := 0x30034 + 0x40 * q
abbrev FldRef.Q_EXPORT_SEQ (q : Nat) : FldRef := ⟨Reg.Q_EXPORT q, 31, 0⟩

/-! Block log (spec chapter 08). -/
/-- R254. -/
abbrev Reg.LOG_BASE (r : Nat) : Nat := 0x32000 + 0x20 * r
abbrev Msk.LOG_BASE : WMask := ⟨0x9fffffff, 0, 0, 0⟩
abbrev FldRef.LOG_BASE_CS (r : Nat) : FldRef := ⟨Reg.LOG_BASE r, 31, 31⟩
abbrev FldRef.LOG_BASE_ADDR (r : Nat) : FldRef := ⟨Reg.LOG_BASE r, 28, 0⟩
/-- R254. -/
abbrev Reg.LOG_SIZE (r : Nat) : Nat := 0x32004 + 0x20 * r
abbrev Msk.LOG_SIZE : WMask := ⟨0xffff001f, 0, 0, 0⟩
abbrev FldRef.LOG_SIZE_SECTORS (r : Nat) : FldRef := ⟨Reg.LOG_SIZE r, 31, 16⟩
abbrev FldRef.LOG_SIZE_SLOG2 (r : Nat) : FldRef := ⟨Reg.LOG_SIZE r, 4, 0⟩
/-- R254. -/
abbrev Reg.LOG_STAT (r : Nat) : Nat := 0x32008 + 0x20 * r
abbrev FldRef.LOG_STAT_STATE (r : Nat) : FldRef := ⟨Reg.LOG_STAT r, 31, 28⟩
abbrev FldRef.LOG_STAT_ERR (r : Nat) : FldRef := ⟨Reg.LOG_STAT r, 27, 24⟩
abbrev FldRef.LOG_STAT_SECTOR (r : Nat) : FldRef := ⟨Reg.LOG_STAT r, 15, 0⟩
/-- R254. -/
abbrev Reg.LOG_SEQ (r : Nat) : Nat := 0x3200C + 0x20 * r
abbrev FldRef.LOG_SEQ_SEQ (r : Nat) : FldRef := ⟨Reg.LOG_SEQ r, 31, 0⟩
/-- R254. -/
abbrev Reg.LOG_WPTR (r : Nat) : Nat := 0x32010 + 0x20 * r
abbrev FldRef.LOG_WPTR_WPTR (r : Nat) : FldRef := ⟨Reg.LOG_WPTR r, 31, 0⟩
/-- R254. -/
abbrev Reg.LOG_CNT (r : Nat) : Nat := 0x32014 + 0x20 * r
abbrev FldRef.LOG_CNT_TORN (r : Nat) : FldRef := ⟨Reg.LOG_CNT r, 31, 16⟩
abbrev FldRef.LOG_CNT_FAIL (r : Nat) : FldRef := ⟨Reg.LOG_CNT r, 15, 0⟩
/-- R254. -/
abbrev Reg.LOG_QSEL (r : Nat) : Nat := 0x32018 + 0x20 * r
abbrev Msk.LOG_QSEL : WMask := ⟨0, 0x7f, 0, 0⟩
abbrev FldRef.LOG_QSEL_Q (r : Nat) : FldRef := ⟨Reg.LOG_QSEL r, 6, 0⟩
/-- R254. -/
abbrev Reg.LOG_QMAP (r : Nat) : Nat := 0x3201C + 0x20 * r
abbrev Msk.LOG_QMAP : WMask := ⟨0x7, 0, 0, 0⟩
abbrev FldRef.LOG_QMAP_REGION (r : Nat) : FldRef := ⟨Reg.LOG_QMAP r, 2, 0⟩

/-! Block ctx (spec chapter 11). -/
/-- R362. -/
abbrev Reg.CTX_CFG (c : Nat) : Nat := 0x40000 + 0x100 * c
abbrev Msk.CTX_CFG : WMask := ⟨0xbf800000, 0, 0, 0⟩
abbrev FldRef.CTX_CFG_EN (c : Nat) : FldRef := ⟨Reg.CTX_CFG c, 31, 31⟩
abbrev FldRef.CTX_CFG_PRIO (c : Nat) : FldRef := ⟨Reg.CTX_CFG c, 29, 28⟩
abbrev FldRef.CTX_CFG_HALT_ON_FAULT (c : Nat) : FldRef := ⟨Reg.CTX_CFG c, 27, 27⟩
abbrev FldRef.CTX_CFG_REC_OK (c : Nat) : FldRef := ⟨Reg.CTX_CFG c, 26, 26⟩
abbrev FldRef.CTX_CFG_REC_FAIL (c : Nat) : FldRef := ⟨Reg.CTX_CFG c, 25, 25⟩
abbrev FldRef.CTX_CFG_IRQ_OK (c : Nat) : FldRef := ⟨Reg.CTX_CFG c, 24, 24⟩
abbrev FldRef.CTX_CFG_IRQ_FAIL (c : Nat) : FldRef := ⟨Reg.CTX_CFG c, 23, 23⟩
/-- R364. -/
abbrev Reg.CTX_PROG (c : Nat) : Nat := 0x40004 + 0x100 * c
abbrev Msk.CTX_PROG : WMask := ⟨0xffffffff, 0, 0, 0⟩
abbrev FldRef.CTX_PROG_PROG (c : Nat) : FldRef := ⟨Reg.CTX_PROG c, 31, 0⟩
/-- R364. -/
abbrev Reg.CTX_TRIG (c : Nat) : Nat := 0x40008 + 0x100 * c
abbrev Msk.CTX_TRIG : WMask := ⟨0x8fb0ff00, 0, 0, 0⟩
abbrev FldRef.CTX_TRIG_SCH_EN (c : Nat) : FldRef := ⟨Reg.CTX_TRIG c, 31, 31⟩
abbrev FldRef.CTX_TRIG_SCH (c : Nat) : FldRef := ⟨Reg.CTX_TRIG c, 27, 24⟩
abbrev FldRef.CTX_TRIG_DI_EN (c : Nat) : FldRef := ⟨Reg.CTX_TRIG c, 23, 23⟩
abbrev FldRef.CTX_TRIG_DI_EDGE (c : Nat) : FldRef := ⟨Reg.CTX_TRIG c, 21, 20⟩
abbrev FldRef.CTX_TRIG_DI_N (c : Nat) : FldRef := ⟨Reg.CTX_TRIG c, 15, 8⟩
/-- R364. -/
abbrev Reg.CTX_TRIG_PEN (c : Nat) : Nat := 0x4000C + 0x100 * c
abbrev Msk.CTX_TRIG_PEN : WMask := ⟨0xc0ffffff, 0, 0, 0⟩
abbrev FldRef.CTX_TRIG_PEN_EN (c : Nat) : FldRef := ⟨Reg.CTX_TRIG_PEN c, 31, 31⟩
abbrev FldRef.CTX_TRIG_PEN_ANY_SRC (c : Nat) : FldRef := ⟨Reg.CTX_TRIG_PEN c, 30, 30⟩
abbrev FldRef.CTX_TRIG_PEN_TYPE (c : Nat) : FldRef := ⟨Reg.CTX_TRIG_PEN c, 23, 16⟩
abbrev FldRef.CTX_TRIG_PEN_SRC_CLASS (c : Nat) : FldRef := ⟨Reg.CTX_TRIG_PEN c, 15, 12⟩
abbrev FldRef.CTX_TRIG_PEN_SRC_INDEX (c : Nat) : FldRef := ⟨Reg.CTX_TRIG_PEN c, 11, 0⟩
/-- R364. -/
abbrev Reg.CTX_TRIG_CMP (c : Nat) : Nat := 0x40010 + 0x100 * c
abbrev Msk.CTX_TRIG_CMP : WMask := ⟨0x830000ff, 0, 0, 0⟩
abbrev FldRef.CTX_TRIG_CMP_EN (c : Nat) : FldRef := ⟨Reg.CTX_TRIG_CMP c, 31, 31⟩
abbrev FldRef.CTX_TRIG_CMP_COND (c : Nat) : FldRef := ⟨Reg.CTX_TRIG_CMP c, 25, 24⟩
abbrev FldRef.CTX_TRIG_CMP_SRC (c : Nat) : FldRef := ⟨Reg.CTX_TRIG_CMP c, 7, 0⟩
/-- R364. -/
abbrev Reg.CTX_PARTNER (c : Nat) : Nat := 0x40014 + 0x100 * c
abbrev Msk.CTX_PARTNER : WMask := ⟨0xf3000000, 0, 0, 0⟩
abbrev FldRef.CTX_PARTNER_KIND (c : Nat) : FldRef := ⟨Reg.CTX_PARTNER c, 31, 30⟩
abbrev FldRef.CTX_PARTNER_PORT (c : Nat) : FldRef := ⟨Reg.CTX_PARTNER c, 29, 28⟩
abbrev FldRef.CTX_PARTNER_SS (c : Nat) : FldRef := ⟨Reg.CTX_PARTNER c, 25, 24⟩
/-- R364. -/
abbrev Reg.CTX_TXID (c : Nat) : Nat := 0x40018 + 0x100 * c
abbrev Msk.CTX_TXID : WMask := ⟨0xffffffff, 0, 0, 0⟩
abbrev FldRef.CTX_TXID_ID (c : Nat) : FldRef := ⟨Reg.CTX_TXID c, 31, 0⟩
/-- R364. -/
abbrev Reg.CTX_RETRY (c : Nat) : Nat := 0x4001C + 0x100 * c
abbrev Msk.CTX_RETRY : WMask := ⟨0xffe0ffff, 0, 0, 0⟩
abbrev FldRef.CTX_RETRY_BUDGET (c : Nat) : FldRef := ⟨Reg.CTX_RETRY c, 31, 24⟩
abbrev FldRef.CTX_RETRY_MODE (c : Nat) : FldRef := ⟨Reg.CTX_RETRY c, 23, 22⟩
abbrev FldRef.CTX_RETRY_KEEP (c : Nat) : FldRef := ⟨Reg.CTX_RETRY c, 21, 21⟩
abbrev FldRef.CTX_RETRY_BASE (c : Nat) : FldRef := ⟨Reg.CTX_RETRY c, 15, 0⟩
/-- R364. -/
abbrev Reg.CTX_LIMITS (c : Nat) : Nat := 0x40020 + 0x100 * c
abbrev Msk.CTX_LIMITS : WMask := ⟨0xffffffff, 0, 0, 0⟩
abbrev FldRef.CTX_LIMITS_RUNMAX (c : Nat) : FldRef := ⟨Reg.CTX_LIMITS c, 31, 16⟩
abbrev FldRef.CTX_LIMITS_BACKMAX (c : Nat) : FldRef := ⟨Reg.CTX_LIMITS c, 15, 0⟩
/-- R364. -/
abbrev Reg.CTX_RESYNC (c : Nat) : Nat := 0x40024 + 0x100 * c
abbrev Msk.CTX_RESYNC : WMask := ⟨0xffffffff, 0, 0, 0⟩
abbrev FldRef.CTX_RESYNC_ADDR (c : Nat) : FldRef := ⟨Reg.CTX_RESYNC c, 31, 0⟩
/-- R364. -/
abbrev Reg.CTX_SEQCFG (c : Nat) : Nat := 0x40028 + 0x100 * c
abbrev Msk.CTX_SEQCFG : WMask := ⟨0xfdfefdf8, 0, 0, 0⟩
abbrev FldRef.CTX_SEQCFG_RXPOS (c : Nat) : FldRef := ⟨Reg.CTX_SEQCFG c, 31, 26⟩
abbrev FldRef.CTX_SEQCFG_RXW (c : Nat) : FldRef := ⟨Reg.CTX_SEQCFG c, 24, 20⟩
abbrev FldRef.CTX_SEQCFG_RXBE (c : Nat) : FldRef := ⟨Reg.CTX_SEQCFG c, 19, 19⟩
abbrev FldRef.CTX_SEQCFG_GAP_OK (c : Nat) : FldRef := ⟨Reg.CTX_SEQCFG c, 18, 18⟩
abbrev FldRef.CTX_SEQCFG_TXRST (c : Nat) : FldRef := ⟨Reg.CTX_SEQCFG c, 17, 17⟩
abbrev FldRef.CTX_SEQCFG_TXPOS (c : Nat) : FldRef := ⟨Reg.CTX_SEQCFG c, 15, 10⟩
abbrev FldRef.CTX_SEQCFG_TXW (c : Nat) : FldRef := ⟨Reg.CTX_SEQCFG c, 8, 4⟩
abbrev FldRef.CTX_SEQCFG_TXBE (c : Nat) : FldRef := ⟨Reg.CTX_SEQCFG c, 3, 3⟩
/-- R364. -/
abbrev Reg.CTX_SEQSTART (c : Nat) : Nat := 0x4002C + 0x100 * c
abbrev Msk.CTX_SEQSTART : WMask := ⟨0xffffffff, 0, 0, 0⟩
abbrev FldRef.CTX_SEQSTART_RX_START (c : Nat) : FldRef := ⟨Reg.CTX_SEQSTART c, 31, 16⟩
abbrev FldRef.CTX_SEQSTART_TX_START (c : Nat) : FldRef := ⟨Reg.CTX_SEQSTART c, 15, 0⟩
/-- R364. -/
abbrev Reg.CTX_BIND (c : Nat) : Nat := 0x40030 + 0x100 * c
abbrev Msk.CTX_BIND : WMask := ⟨0xff008700, 0, 0, 0⟩
abbrev FldRef.CTX_BIND_RESQ_EN (c : Nat) : FldRef := ⟨Reg.CTX_BIND c, 31, 31⟩
abbrev FldRef.CTX_BIND_RESQ (c : Nat) : FldRef := ⟨Reg.CTX_BIND c, 30, 24⟩
abbrev FldRef.CTX_BIND_CVU_EN (c : Nat) : FldRef := ⟨Reg.CTX_BIND c, 15, 15⟩
abbrev FldRef.CTX_BIND_CVU (c : Nat) : FldRef := ⟨Reg.CTX_BIND c, 10, 8⟩
/-- R364. -/
abbrev Reg.CTX_CTL (c : Nat) : Nat := 0x40034 + 0x100 * c
abbrev Msk.CTX_CTL : WMask := ⟨0, 0, 0xffff000f, 0⟩
abbrev FldRef.CTX_CTL_ARG (c : Nat) : FldRef := ⟨Reg.CTX_CTL c, 31, 16⟩
abbrev FldRef.CTX_CTL_OP (c : Nat) : FldRef := ⟨Reg.CTX_CTL c, 3, 0⟩
/-- R363. -/
abbrev Reg.CTX_STAT (c : Nat) : Nat := 0x40038 + 0x100 * c
abbrev Msk.CTX_STAT : WMask := ⟨0, 0, 0, 0xc⟩
abbrev FldRef.CTX_STAT_STATE (c : Nat) : FldRef := ⟨Reg.CTX_STAT c, 31, 28⟩
abbrev FldRef.CTX_STAT_WAIT_ON (c : Nat) : FldRef := ⟨Reg.CTX_STAT c, 27, 24⟩
abbrev FldRef.CTX_STAT_LAST_CODE (c : Nat) : FldRef := ⟨Reg.CTX_STAT c, 23, 16⟩
abbrev FldRef.CTX_STAT_LAST_OUT (c : Nat) : FldRef := ⟨Reg.CTX_STAT c, 15, 12⟩
abbrev FldRef.CTX_STAT_PEND (c : Nat) : FldRef := ⟨Reg.CTX_STAT c, 11, 11⟩
abbrev FldRef.CTX_STAT_TKO (c : Nat) : FldRef := ⟨Reg.CTX_STAT c, 10, 10⟩
abbrev FldRef.CTX_STAT_ONCE_OPEN (c : Nat) : FldRef := ⟨Reg.CTX_STAT c, 9, 9⟩
abbrev FldRef.CTX_STAT_RX_VALID (c : Nat) : FldRef := ⟨Reg.CTX_STAT c, 8, 8⟩
abbrev FldRef.CTX_STAT_ON_ENG (c : Nat) : FldRef := ⟨Reg.CTX_STAT c, 7, 7⟩
abbrev FldRef.CTX_STAT_ENG (c : Nat) : FldRef := ⟨Reg.CTX_STAT c, 6, 4⟩
abbrev FldRef.CTX_STAT_DENIED (c : Nat) : FldRef := ⟨Reg.CTX_STAT c, 3, 3⟩
abbrev FldRef.CTX_STAT_IGNORED (c : Nat) : FldRef := ⟨Reg.CTX_STAT c, 2, 2⟩
abbrev FldRef.CTX_STAT_CFG_ADJ (c : Nat) : FldRef := ⟨Reg.CTX_STAT c, 1, 1⟩
/-- R364. -/
abbrev Reg.CTX_SEQ (c : Nat) : Nat := 0x4003C + 0x100 * c
abbrev Msk.CTX_SEQ : WMask := ⟨0, 0xffffffff, 0, 0⟩
abbrev FldRef.CTX_SEQ_RX_SEQ (c : Nat) : FldRef := ⟨Reg.CTX_SEQ c, 31, 16⟩
abbrev FldRef.CTX_SEQ_TX_SEQ (c : Nat) : FldRef := ⟨Reg.CTX_SEQ c, 15, 0⟩
/-- R364. -/
abbrev Reg.CTX_V (c i : Nat) : Nat := 0x40040 + 0x100 * c + 4 * i
abbrev Msk.CTX_V : WMask := ⟨0, 0xffffffff, 0, 0⟩
abbrev FldRef.CTX_V_V (c i : Nat) : FldRef := ⟨Reg.CTX_V c i, 31, 0⟩
/-- R364. -/
abbrev Reg.CTX_PC (c : Nat) : Nat := 0x40080 + 0x100 * c
abbrev FldRef.CTX_PC_PC (c : Nat) : FldRef := ⟨Reg.CTX_PC c, 31, 0⟩
/-- R364. -/
abbrev Reg.CTX_T (c i : Nat) : Nat := 0x40084 + 0x100 * c + 4 * i
abbrev FldRef.CTX_T_T (c i : Nat) : FldRef := ⟨Reg.CTX_T c i, 31, 0⟩
/-- R364. -/
abbrev Reg.CTX_RUNS (c : Nat) : Nat := 0x40090 + 0x100 * c
abbrev FldRef.CTX_RUNS_RUNS (c : Nat) : FldRef := ⟨Reg.CTX_RUNS c, 31, 0⟩
/-- R364. -/
abbrev Reg.CTX_CNT (c : Nat) : Nat := 0x40094 + 0x100 * c
abbrev FldRef.CTX_CNT_TRIG_LOST (c : Nat) : FldRef := ⟨Reg.CTX_CNT c, 31, 24⟩
abbrev FldRef.CTX_CNT_RX_DROP (c : Nat) : FldRef := ⟨Reg.CTX_CNT c, 23, 16⟩
abbrev FldRef.CTX_CNT_RETRIES (c : Nat) : FldRef := ⟨Reg.CTX_CNT c, 15, 0⟩
/-- R364. -/
abbrev Reg.CTX_CKPT (c : Nat) : Nat := 0x40098 + 0x100 * c
abbrev FldRef.CTX_CKPT_VALID (c : Nat) : FldRef := ⟨Reg.CTX_CKPT c, 31, 31⟩
abbrev FldRef.CTX_CKPT_ONCE (c : Nat) : FldRef := ⟨Reg.CTX_CKPT c, 30, 30⟩
abbrev FldRef.CTX_CKPT_OFFSET (c : Nat) : FldRef := ⟨Reg.CTX_CKPT c, 23, 0⟩
/-- R364. -/
abbrev Reg.CTX_TINFO (c i : Nat) : Nat := 0x400A0 + 0x100 * c + 4 * i
abbrev FldRef.CTX_TINFO_T (c i : Nat) : FldRef := ⟨Reg.CTX_TINFO c i, 31, 0⟩

/-! Block he (spec chapter 11). -/
/-- R365. -/
abbrev Reg.HE_CFG : Nat := 0x4F000
abbrev Msk.HE_CFG : WMask := ⟨0xffff, 0, 0, 0⟩
abbrev FldRef.HE_CFG_SLICE : FldRef := ⟨Reg.HE_CFG, 15, 8⟩
abbrev FldRef.HE_CFG_ENG_EN : FldRef := ⟨Reg.HE_CFG, 7, 0⟩
/-- R365. -/
abbrev Reg.HE_STAT : Nat := 0x4F004
abbrev FldRef.HE_STAT_READY : FldRef := ⟨Reg.HE_STAT, 31, 24⟩
abbrev FldRef.HE_STAT_BUSY : FldRef := ⟨Reg.HE_STAT, 15, 8⟩
/-- R365. -/
abbrev Reg.HE_ENG (i : Nat) : Nat := 0x4F010 + 4 * i
abbrev FldRef.HE_ENG_BUSY (i : Nat) : FldRef := ⟨Reg.HE_ENG i, 31, 31⟩
abbrev FldRef.HE_ENG_CTX (i : Nat) : FldRef := ⟨Reg.HE_ENG i, 7, 0⟩

/-! Block can (spec chapter 10). -/
/-- R324. -/
abbrev Reg.CAN_CFG (p : Nat) : Nat := 0x50000 + 0x4000 * p
abbrev Msk.CAN_CFG : WMask := ⟨0xfe40007, 0, 0, 0⟩
abbrev FldRef.CAN_CFG_SELF_RX (p : Nat) : FldRef := ⟨Reg.CAN_CFG p, 27, 27⟩
abbrev FldRef.CAN_CFG_BO_FLUSH (p : Nat) : FldRef := ⟨Reg.CAN_CFG p, 26, 26⟩
abbrev FldRef.CAN_CFG_PXD (p : Nat) : FldRef := ⟨Reg.CAN_CFG p, 25, 25⟩
abbrev FldRef.CAN_CFG_XL_ERRSIG (p : Nat) : FldRef := ⟨Reg.CAN_CFG p, 24, 24⟩
abbrev FldRef.CAN_CFG_TMS (p : Nat) : FldRef := ⟨Reg.CAN_CFG p, 23, 23⟩
abbrev FldRef.CAN_CFG_XL_EN (p : Nat) : FldRef := ⟨Reg.CAN_CFG p, 22, 22⟩
abbrev FldRef.CAN_CFG_FD_EN (p : Nat) : FldRef := ⟨Reg.CAN_CFG p, 21, 21⟩
abbrev FldRef.CAN_CFG_STB_POL (p : Nat) : FldRef := ⟨Reg.CAN_CFG p, 18, 18⟩
abbrev FldRef.CAN_CFG_MODE (p : Nat) : FldRef := ⟨Reg.CAN_CFG p, 2, 0⟩
/-- R325. -/
abbrev Reg.CAN_NBT (p : Nat) : Nat := 0x50004 + 0x4000 * p
abbrev Msk.CAN_NBT : WMask := ⟨0xffff7f7f, 0, 0, 0⟩
abbrev FldRef.CAN_NBT_BRP (p : Nat) : FldRef := ⟨Reg.CAN_NBT p, 31, 24⟩
abbrev FldRef.CAN_NBT_TSEG1 (p : Nat) : FldRef := ⟨Reg.CAN_NBT p, 23, 16⟩
abbrev FldRef.CAN_NBT_TSEG2 (p : Nat) : FldRef := ⟨Reg.CAN_NBT p, 14, 8⟩
abbrev FldRef.CAN_NBT_SJW (p : Nat) : FldRef := ⟨Reg.CAN_NBT p, 6, 0⟩
/-- R325. -/
abbrev Reg.CAN_DXBT (p i : Nat) : Nat := 0x50008 + 0x4000 * p + 4 * i
abbrev Msk.CAN_DXBT : WMask := ⟨0xffff7f7f, 0, 0, 0⟩
abbrev FldRef.CAN_DXBT_BRP (p i : Nat) : FldRef := ⟨Reg.CAN_DXBT p i, 31, 24⟩
abbrev FldRef.CAN_DXBT_TSEG1 (p i : Nat) : FldRef := ⟨Reg.CAN_DXBT p i, 23, 16⟩
abbrev FldRef.CAN_DXBT_TSEG2 (p i : Nat) : FldRef := ⟨Reg.CAN_DXBT p i, 14, 8⟩
abbrev FldRef.CAN_DXBT_SJW (p i : Nat) : FldRef := ⟨Reg.CAN_DXBT p i, 6, 0⟩
/-- R327. -/
abbrev Reg.CAN_TDC (p : Nat) : Nat := 0x50010 + 0x4000 * p
abbrev Msk.CAN_TDC : WMask := ⟨0x8000ffff, 0, 0, 0⟩
abbrev FldRef.CAN_TDC_EN (p : Nat) : FldRef := ⟨Reg.CAN_TDC p, 31, 31⟩
abbrev FldRef.CAN_TDC_TDV (p : Nat) : FldRef := ⟨Reg.CAN_TDC p, 23, 16⟩
abbrev FldRef.CAN_TDC_TDCF (p : Nat) : FldRef := ⟨Reg.CAN_TDC p, 15, 8⟩
abbrev FldRef.CAN_TDC_TDCO (p : Nat) : FldRef := ⟨Reg.CAN_TDC p, 7, 0⟩
/-- R327. -/
abbrev Reg.CAN_XLPWM (p : Nat) : Nat := 0x50014 + 0x4000 * p
abbrev Msk.CAN_XLPWM : WMask := ⟨0x3f3f3f, 0, 0, 0⟩
abbrev FldRef.CAN_XLPWM_PWMO (p : Nat) : FldRef := ⟨Reg.CAN_XLPWM p, 21, 16⟩
abbrev FldRef.CAN_XLPWM_PWML (p : Nat) : FldRef := ⟨Reg.CAN_XLPWM p, 13, 8⟩
abbrev FldRef.CAN_XLPWM_PWMS (p : Nat) : FldRef := ⟨Reg.CAN_XLPWM p, 5, 0⟩
/-- R327. -/
abbrev Reg.CAN_RETRY (p : Nat) : Nat := 0x50018 + 0x4000 * p
abbrev Msk.CAN_RETRY : WMask := ⟨0x1fff, 0, 0, 0⟩
abbrev FldRef.CAN_RETRY_ERR_RETRY (p : Nat) : FldRef := ⟨Reg.CAN_RETRY p, 12, 8⟩
abbrev FldRef.CAN_RETRY_ARB_RETRY (p : Nat) : FldRef := ⟨Reg.CAN_RETRY p, 7, 0⟩
/-- R327. -/
abbrev Reg.CAN_RXQ (p : Nat) : Nat := 0x5001C + 0x4000 * p
abbrev Msk.CAN_RXQ : WMask := ⟨0x300ffff, 0, 0, 0⟩
abbrev FldRef.CAN_RXQ_NOMATCH (p : Nat) : FldRef := ⟨Reg.CAN_RXQ p, 25, 24⟩
abbrev FldRef.CAN_RXQ_ERR1 (p : Nat) : FldRef := ⟨Reg.CAN_RXQ p, 17, 17⟩
abbrev FldRef.CAN_RXQ_ERR0 (p : Nat) : FldRef := ⟨Reg.CAN_RXQ p, 16, 16⟩
abbrev FldRef.CAN_RXQ_EN1 (p : Nat) : FldRef := ⟨Reg.CAN_RXQ p, 15, 15⟩
abbrev FldRef.CAN_RXQ_Q1 (p : Nat) : FldRef := ⟨Reg.CAN_RXQ p, 14, 8⟩
abbrev FldRef.CAN_RXQ_EN0 (p : Nat) : FldRef := ⟨Reg.CAN_RXQ p, 7, 7⟩
abbrev FldRef.CAN_RXQ_Q0 (p : Nat) : FldRef := ⟨Reg.CAN_RXQ p, 6, 0⟩
/-- R326. -/
abbrev Reg.CAN_STAT (p : Nat) : Nat := 0x50020 + 0x4000 * p
abbrev Msk.CAN_STAT : WMask := ⟨0, 0, 0, 0xd0⟩
abbrev FldRef.CAN_STAT_ERR_STATE (p : Nat) : FldRef := ⟨Reg.CAN_STAT p, 31, 30⟩
abbrev FldRef.CAN_STAT_ALONE (p : Nat) : FldRef := ⟨Reg.CAN_STAT p, 29, 29⟩
abbrev FldRef.CAN_STAT_ASLEEP (p : Nat) : FldRef := ⟨Reg.CAN_STAT p, 28, 28⟩
abbrev FldRef.CAN_STAT_INTEG (p : Nat) : FldRef := ⟨Reg.CAN_STAT p, 27, 27⟩
abbrev FldRef.CAN_STAT_ALONE_FR (p : Nat) : FldRef := ⟨Reg.CAN_STAT p, 25, 24⟩
abbrev FldRef.CAN_STAT_TX_LEVEL (p : Nat) : FldRef := ⟨Reg.CAN_STAT p, 23, 16⟩
abbrev FldRef.CAN_STAT_ACK_RUN (p : Nat) : FldRef := ⟨Reg.CAN_STAT p, 15, 8⟩
abbrev FldRef.CAN_STAT_ID_CLASH (p : Nat) : FldRef := ⟨Reg.CAN_STAT p, 7, 7⟩
abbrev FldRef.CAN_STAT_DENIED (p : Nat) : FldRef := ⟨Reg.CAN_STAT p, 6, 6⟩
abbrev FldRef.CAN_STAT_CFG_ADJ (p : Nat) : FldRef := ⟨Reg.CAN_STAT p, 5, 5⟩
abbrev FldRef.CAN_STAT_RX_LOST (p : Nat) : FldRef := ⟨Reg.CAN_STAT p, 4, 4⟩
/-- R327. -/
abbrev Reg.CAN_ERRCNT (p : Nat) : Nat := 0x50024 + 0x4000 * p
abbrev FldRef.CAN_ERRCNT_REC (p : Nat) : FldRef := ⟨Reg.CAN_ERRCNT p, 31, 16⟩
abbrev FldRef.CAN_ERRCNT_TEC (p : Nat) : FldRef := ⟨Reg.CAN_ERRCNT p, 15, 0⟩
/-- R327. -/
abbrev Reg.CAN_BOCNT (p : Nat) : Nat := 0x50028 + 0x4000 * p
abbrev FldRef.CAN_BOCNT_CNT (p : Nat) : FldRef := ⟨Reg.CAN_BOCNT p, 31, 0⟩
/-- R327. -/
abbrev Reg.CAN_LASTERR (p : Nat) : Nat := 0x5002C + 0x4000 * p
abbrev FldRef.CAN_LASTERR_ERR_CNT (p : Nat) : FldRef := ⟨Reg.CAN_LASTERR p, 31, 16⟩
abbrev FldRef.CAN_LASTERR_PX_CNT (p : Nat) : FldRef := ⟨Reg.CAN_LASTERR p, 15, 8⟩
abbrev FldRef.CAN_LASTERR_DATA (p : Nat) : FldRef := ⟨Reg.CAN_LASTERR p, 3, 3⟩
abbrev FldRef.CAN_LASTERR_LEC (p : Nat) : FldRef := ⟨Reg.CAN_LASTERR p, 2, 0⟩
/-- R327. -/
abbrev Reg.CAN_FRCNT (p : Nat) : Nat := 0x50030 + 0x4000 * p
abbrev FldRef.CAN_FRCNT_RX (p : Nat) : FldRef := ⟨Reg.CAN_FRCNT p, 31, 16⟩
abbrev FldRef.CAN_FRCNT_TX (p : Nat) : FldRef := ⟨Reg.CAN_FRCNT p, 15, 0⟩
/-- R327. -/
abbrev Reg.CAN_RECMASK (p : Nat) : Nat := 0x50034 + 0x4000 * p
abbrev Msk.CAN_RECMASK : WMask := ⟨0, 0xffff, 0, 0⟩
abbrev FldRef.CAN_RECMASK_MASK (p : Nat) : FldRef := ⟨Reg.CAN_RECMASK p, 15, 0⟩
/-- R328. -/
abbrev Reg.CAN_SLEEP (p : Nat) : Nat := 0x50040 + 0x4000 * p
abbrev Msk.CAN_SLEEP : WMask := ⟨0x31c, 0x80000000, 0, 0⟩
abbrev FldRef.CAN_SLEEP_REQ (p : Nat) : FldRef := ⟨Reg.CAN_SLEEP p, 31, 31⟩
abbrev FldRef.CAN_SLEEP_WAKE_MODE (p : Nat) : FldRef := ⟨Reg.CAN_SLEEP p, 9, 8⟩
abbrev FldRef.CAN_SLEEP_STB_SLEEP (p : Nat) : FldRef := ⟨Reg.CAN_SLEEP p, 4, 4⟩
abbrev FldRef.CAN_SLEEP_WAKE_ON_TX (p : Nat) : FldRef := ⟨Reg.CAN_SLEEP p, 3, 3⟩
abbrev FldRef.CAN_SLEEP_FLUSH (p : Nat) : FldRef := ⟨Reg.CAN_SLEEP p, 2, 2⟩
/-- R328. -/
abbrev Reg.CAN_WAKE_STAT (p : Nat) : Nat := 0x50044 + 0x4000 * p
abbrev FldRef.CAN_WAKE_STAT_CAUSE (p : Nat) : FldRef := ⟨Reg.CAN_WAKE_STAT p, 31, 28⟩
abbrev FldRef.CAN_WAKE_STAT_FILTER (p : Nat) : FldRef := ⟨Reg.CAN_WAKE_STAT p, 21, 20⟩
abbrev FldRef.CAN_WAKE_STAT_BAD_CNT (p : Nat) : FldRef := ⟨Reg.CAN_WAKE_STAT p, 15, 0⟩
/-- R328. -/
abbrev Reg.CAN_WAKE_FRAME (p i : Nat) : Nat := 0x50060 + 0x4000 * p + 4 * i
abbrev FldRef.CAN_WAKE_FRAME_W (p i : Nat) : FldRef := ⟨Reg.CAN_WAKE_FRAME p i, 31, 0⟩
/-- R328. -/
abbrev Reg.WF_ID (p i : Nat) : Nat := 0x50080 + 0x4000 * p + 0x20 * i
abbrev Msk.WF_ID : WMask := ⟨0xbfffffff, 0, 0, 0⟩
abbrev FldRef.WF_ID_EN (p i : Nat) : FldRef := ⟨Reg.WF_ID p i, 31, 31⟩
abbrev FldRef.WF_ID_ID (p i : Nat) : FldRef := ⟨Reg.WF_ID p i, 29, 0⟩
/-- R328. -/
abbrev Reg.WF_IDMASK (p i : Nat) : Nat := 0x50084 + 0x4000 * p + 0x20 * i
abbrev Msk.WF_IDMASK : WMask := ⟨0x3fffffff, 0, 0, 0⟩
abbrev FldRef.WF_IDMASK_MASK (p i : Nat) : FldRef := ⟨Reg.WF_IDMASK p i, 29, 0⟩
/-- R328. -/
abbrev Reg.WF_DATA0 (p i : Nat) : Nat := 0x50088 + 0x4000 * p + 0x20 * i
abbrev Msk.WF_DATA0 : WMask := ⟨0xffffffff, 0, 0, 0⟩
abbrev FldRef.WF_DATA0_D (p i : Nat) : FldRef := ⟨Reg.WF_DATA0 p i, 31, 0⟩
/-- R328. -/
abbrev Reg.WF_DATA1 (p i : Nat) : Nat := 0x5008C + 0x4000 * p + 0x20 * i
abbrev Msk.WF_DATA1 : WMask := ⟨0xffffffff, 0, 0, 0⟩
abbrev FldRef.WF_DATA1_D (p i : Nat) : FldRef := ⟨Reg.WF_DATA1 p i, 31, 0⟩
/-- R328. -/
abbrev Reg.WF_DMASK0 (p i : Nat) : Nat := 0x50090 + 0x4000 * p + 0x20 * i
abbrev Msk.WF_DMASK0 : WMask := ⟨0xffffffff, 0, 0, 0⟩
abbrev FldRef.WF_DMASK0_D (p i : Nat) : FldRef := ⟨Reg.WF_DMASK0 p i, 31, 0⟩
/-- R328. -/
abbrev Reg.WF_DMASK1 (p i : Nat) : Nat := 0x50094 + 0x4000 * p + 0x20 * i
abbrev Msk.WF_DMASK1 : WMask := ⟨0xffffffff, 0, 0, 0⟩
abbrev FldRef.WF_DMASK1_D (p i : Nat) : FldRef := ⟨Reg.WF_DMASK1 p i, 31, 0⟩
/-- R331. -/
abbrev Reg.CAN_TX_CMD (p : Nat) : Nat := 0x50100 + 0x4000 * p
abbrev Msk.CAN_TX_CMD : WMask := ⟨0, 0, 0xffffff4f, 0⟩
abbrev FldRef.CAN_TX_CMD_TAG (p : Nat) : FldRef := ⟨Reg.CAN_TX_CMD p, 31, 16⟩
abbrev FldRef.CAN_TX_CMD_PRIO (p : Nat) : FldRef := ⟨Reg.CAN_TX_CMD p, 15, 8⟩
abbrev FldRef.CAN_TX_CMD_REPORT (p : Nat) : FldRef := ⟨Reg.CAN_TX_CMD p, 6, 6⟩
abbrev FldRef.CAN_TX_CMD_OP (p : Nat) : FldRef := ⟨Reg.CAN_TX_CMD p, 3, 0⟩
/-- R331. -/
abbrev Reg.CAN_TX_STAT (p : Nat) : Nat := 0x50104 + 0x4000 * p
abbrev FldRef.CAN_TX_STAT_RESULT (p : Nat) : FldRef := ⟨Reg.CAN_TX_STAT p, 31, 28⟩
abbrev FldRef.CAN_TX_STAT_HOST_LEVEL (p : Nat) : FldRef := ⟨Reg.CAN_TX_STAT p, 23, 16⟩
abbrev FldRef.CAN_TX_STAT_LEVEL (p : Nat) : FldRef := ⟨Reg.CAN_TX_STAT p, 15, 8⟩
/-- R331. -/
abbrev Reg.TXS_ID (p : Nat) : Nat := 0x50180 + 0x4000 * p
abbrev Msk.TXS_ID : WMask := ⟨0, 0xffffffff, 0, 0⟩
abbrev FldRef.TXS_ID_ID (p : Nat) : FldRef := ⟨Reg.TXS_ID p, 31, 0⟩
/-- R331. -/
abbrev Reg.TXS_CTL (p : Nat) : Nat := 0x50184 + 0x4000 * p
abbrev Msk.TXS_CTL : WMask := ⟨0, 0xffffffff, 0, 0⟩
abbrev FldRef.TXS_CTL_LEN (p : Nat) : FldRef := ⟨Reg.TXS_CTL p, 31, 20⟩
abbrev FldRef.TXS_CTL_DLC (p : Nat) : FldRef := ⟨Reg.TXS_CTL p, 19, 16⟩
abbrev FldRef.TXS_CTL_RTR (p : Nat) : FldRef := ⟨Reg.TXS_CTL p, 15, 15⟩
abbrev FldRef.TXS_CTL_BRS (p : Nat) : FldRef := ⟨Reg.TXS_CTL p, 14, 14⟩
abbrev FldRef.TXS_CTL_ESI (p : Nat) : FldRef := ⟨Reg.TXS_CTL p, 13, 13⟩
abbrev FldRef.TXS_CTL_SEC (p : Nat) : FldRef := ⟨Reg.TXS_CTL p, 12, 12⟩
abbrev FldRef.TXS_CTL_TRUNC (p : Nat) : FldRef := ⟨Reg.TXS_CTL p, 11, 11⟩
abbrev FldRef.TXS_CTL_SELF (p : Nat) : FldRef := ⟨Reg.TXS_CTL p, 10, 10⟩
abbrev FldRef.TXS_CTL_PORT (p : Nat) : FldRef := ⟨Reg.TXS_CTL p, 9, 8⟩
abbrev FldRef.TXS_CTL_SDT (p : Nat) : FldRef := ⟨Reg.TXS_CTL p, 7, 0⟩
/-- R331. -/
abbrev Reg.TXS_XL (p : Nat) : Nat := 0x50188 + 0x4000 * p
abbrev Msk.TXS_XL : WMask := ⟨0, 0xff000000, 0, 0⟩
abbrev FldRef.TXS_XL_VCID (p : Nat) : FldRef := ⟨Reg.TXS_XL p, 31, 24⟩
/-- R331. -/
abbrev Reg.TXS_AF (p : Nat) : Nat := 0x5018C + 0x4000 * p
abbrev Msk.TXS_AF : WMask := ⟨0, 0xffffffff, 0, 0⟩
abbrev FldRef.TXS_AF_AF (p : Nat) : FldRef := ⟨Reg.TXS_AF p, 31, 0⟩
/-- R329. -/
abbrev Reg.FLT_CTL (p i : Nat) : Nat := 0x50800 + 0x4000 * p + 0x20 * i
abbrev Msk.FLT_CTL : WMask := ⟨0xf00700ff, 0, 0, 0⟩
abbrev FldRef.FLT_CTL_EN (p i : Nat) : FldRef := ⟨Reg.FLT_CTL p i, 31, 31⟩
abbrev FldRef.FLT_CTL_ALSO (p i : Nat) : FldRef := ⟨Reg.FLT_CTL p i, 30, 30⟩
abbrev FldRef.FLT_CTL_RTR_MODE (p i : Nat) : FldRef := ⟨Reg.FLT_CTL p i, 29, 28⟩
abbrev FldRef.FLT_CTL_TARGET (p i : Nat) : FldRef := ⟨Reg.FLT_CTL p i, 18, 16⟩
abbrev FldRef.FLT_CTL_INDEX (p i : Nat) : FldRef := ⟨Reg.FLT_CTL p i, 7, 0⟩
/-- R329. -/
abbrev Reg.FLT_ID (p i : Nat) : Nat := 0x50804 + 0x4000 * p + 0x20 * i
abbrev Msk.FLT_ID : WMask := ⟨0xffffffff, 0, 0, 0⟩
abbrev FldRef.FLT_ID_ID (p i : Nat) : FldRef := ⟨Reg.FLT_ID p i, 31, 0⟩
/-- R329. -/
abbrev Reg.FLT_IDMASK (p i : Nat) : Nat := 0x50808 + 0x4000 * p + 0x20 * i
abbrev Msk.FLT_IDMASK : WMask := ⟨0xffffffff, 0, 0, 0⟩
abbrev FldRef.FLT_IDMASK_MASK (p i : Nat) : FldRef := ⟨Reg.FLT_IDMASK p i, 31, 0⟩
/-- R329. -/
abbrev Reg.FLT_XL (p i : Nat) : Nat := 0x5080C + 0x4000 * p + 0x20 * i
abbrev Msk.FLT_XL : WMask := ⟨0xffffffff, 0, 0, 0⟩
abbrev FldRef.FLT_XL_SDT (p i : Nat) : FldRef := ⟨Reg.FLT_XL p i, 31, 24⟩
abbrev FldRef.FLT_XL_VCID (p i : Nat) : FldRef := ⟨Reg.FLT_XL p i, 23, 16⟩
abbrev FldRef.FLT_XL_SDTM (p i : Nat) : FldRef := ⟨Reg.FLT_XL p i, 15, 8⟩
abbrev FldRef.FLT_XL_VCIDM (p i : Nat) : FldRef := ⟨Reg.FLT_XL p i, 7, 0⟩
/-- R329. -/
abbrev Reg.FLT_AF (p i : Nat) : Nat := 0x50810 + 0x4000 * p + 0x20 * i
abbrev Msk.FLT_AF : WMask := ⟨0xffffffff, 0, 0, 0⟩
abbrev FldRef.FLT_AF_AF (p i : Nat) : FldRef := ⟨Reg.FLT_AF p i, 31, 0⟩
/-- R329. -/
abbrev Reg.FLT_AFMASK (p i : Nat) : Nat := 0x50814 + 0x4000 * p + 0x20 * i
abbrev Msk.FLT_AFMASK : WMask := ⟨0xffffffff, 0, 0, 0⟩
abbrev FldRef.FLT_AFMASK_MASK (p i : Nat) : FldRef := ⟨Reg.FLT_AFMASK p i, 31, 0⟩
/-- R330. -/
abbrev Reg.LVB_HDR0 (p i : Nat) : Nat := 0x51000 + 0x4000 * p + 0x80 * i
abbrev FldRef.LVB_HDR0_W (p i : Nat) : FldRef := ⟨Reg.LVB_HDR0 p i, 31, 0⟩
/-- R330. -/
abbrev Reg.LVB_HDR1 (p i : Nat) : Nat := 0x51004 + 0x4000 * p + 0x80 * i
abbrev FldRef.LVB_HDR1_W (p i : Nat) : FldRef := ⟨Reg.LVB_HDR1 p i, 31, 0⟩
/-- R330. -/
abbrev Reg.LVB_HDR2 (p i : Nat) : Nat := 0x51008 + 0x4000 * p + 0x80 * i
abbrev FldRef.LVB_HDR2_W (p i : Nat) : FldRef := ⟨Reg.LVB_HDR2 p i, 31, 0⟩
/-- R330. -/
abbrev Reg.LVB_HDR3 (p i : Nat) : Nat := 0x5100C + 0x4000 * p + 0x80 * i
abbrev FldRef.LVB_HDR3_W (p i : Nat) : FldRef := ⟨Reg.LVB_HDR3 p i, 31, 0⟩
/-- R330. -/
abbrev Reg.LVB_DATA (p i k : Nat) : Nat := 0x51010 + 0x4000 * p + 0x80 * i + 4 * k
abbrev FldRef.LVB_DATA_W (p i k : Nat) : FldRef := ⟨Reg.LVB_DATA p i k, 31, 0⟩
/-- R330. -/
abbrev Reg.LVB_STAT (p i : Nat) : Nat := 0x51050 + 0x4000 * p + 0x80 * i
abbrev FldRef.LVB_STAT_COUNT (p i : Nat) : FldRef := ⟨Reg.LVB_STAT p i, 31, 16⟩
abbrev FldRef.LVB_STAT_LOST (p i : Nat) : FldRef := ⟨Reg.LVB_STAT p i, 15, 8⟩
abbrev FldRef.LVB_STAT_TMO (p i : Nat) : FldRef := ⟨Reg.LVB_STAT p i, 2, 2⟩
abbrev FldRef.LVB_STAT_LOCKED (p i : Nat) : FldRef := ⟨Reg.LVB_STAT p i, 1, 1⟩
abbrev FldRef.LVB_STAT_VALID (p i : Nat) : FldRef := ⟨Reg.LVB_STAT p i, 0, 0⟩
/-- R331. -/
abbrev Reg.TXS_DATA (p i : Nat) : Nat := 0x52000 + 0x4000 * p + 4 * i
abbrev Msk.TXS_DATA : WMask := ⟨0, 0xffffffff, 0, 0⟩
abbrev FldRef.TXS_DATA_D (p i : Nat) : FldRef := ⟨Reg.TXS_DATA p i, 31, 0⟩

end Sys2Proof.Machine
end

