-- ==== Sys2Proof/Machine/State.lean ====
section
/-! DEFINITION. The state of the module as plain data. `State.regs` holds every register of the address map, and
hoist memory, by byte address (what an unlisted address reads as is `resetWord`, its reset value); the other
fields hold what the spec gives the machine without an address. -/

namespace Sys2Proof.Machine

/-- The fields of an instruction word (R369) and its extension word, as engine `e` has fetched them. -/
structure HWord where
  d : Nat := 0
  a : Nat := 0
  i : Bool := true
  x : Bool := false
  k : Nat := 0
  e : Word := 0
  deriving DecidableEq, Repr

/-- The read shadow of a requester (R22, R23): the words of the wide value it latched last, with its lowest address. -/
structure RShadow where
  addr : Nat
  words : List Word
  deriving DecidableEq, Repr

/-- The write shadow of a requester (R25): lower words of one wide value, by address. -/
structure WShadow where
  addr : Nat
  words : List (Nat × Word)
  deriving DecidableEq, Repr

/-- An entry of a queue (R238 to R253): where its words lie in the queue's region, which consumers have passed it,
the requester that keeps its place (R247), whether it lies in a duplicate window, whether it is half A of an
anchor, whether consumers see it (a reservation of R393 is not seen), its completion tick or `none`, and the words of an entry that
lies outside the region (the DUP_WINDOW anchor of R253). `no`: which entry of the queue it is, counted as they were written. -/
structure QEnt where
  no : Nat := 0
  pos : Nat := 0
  len : Nat := 0
  host : Bool := false
  log : Bool := false
  exp : Bool := false
  pin : Option Nat := none
  dup : Bool := false
  anc : Bool := false
  vis : Bool := true
  own : List Word := []
  deriving DecidableEq, Repr

/-- A queue beside its registers: whether it found no place (R233), its entries oldest first, the write position in the region, how many entries were
ever written, how many unpopped entries were displaced (R248), how many the log missed (R257), whether an OVERFLOW
anchor is due (R238), whether the watermark can be reached anew (R239), and whether the loss of a CAN frame has been recorded since it last took an entry (R302). -/
structure QSt where
  nofit : Bool := false
  ents : List QEnt := []
  wpos : Nat := 0
  wcnt : Nat := 0
  disp : Nat := 0
  missed : Nat := 0
  ovf : Bool := false
  wmArm : Bool := true
  lossRec : Bool := false
  deriving DecidableEq, Repr

/-- The pop shadow of one requester for one queue (R244 to R248). -/
structure PSh where
  words : List Word := []
  pos : Nat := 0
  addr : Nat := 0
  seen : Nat := 0
  disp : Nat := 0
  newer : Bool := false
  dup : Bool := false
  ovwr : Bool := false
  noLo : Bool := false
  hiDone : Bool := false
  deriving DecidableEq, Repr

/-- A received frame as a receive entry holds it (R300): port, deciding filter pair and delivery flags; `frame.data`
holds the bytes stored, `len` the frame's LEN; `at_`: the clock edge at which it came into an inbox (R349). -/
structure RxEnt where
  frame : Frame := {}
  len : Nat := 0
  port : Nat := 0
  filter : Nat := 0
  self : Bool := false
  trunc : Bool := false
  noMatch : Bool := false
  at_ : Nat := 0
  deriving DecidableEq, Repr

/-- A trigger record (R338): cause mask, source, value, time. -/
structure TrigRec where
  cause : Nat := 0
  source : Nat := 0
  value : Word := 0
  time : Nat := 0
  deriving DecidableEq, Repr

/-- A checkpoint, ONCE or run-start record of a context (R353, R354). -/
structure Ckpt where
  once : Bool := false
  onceAt : Nat := 0
  pc : Nat := 0
  v : List Word := []
  td : List (Option Nat) := []
  seq : Word := 0
  rxValid : Bool := false
  used : Nat := 0
  k : Nat := 0
  retryPt : Nat := 0
  cv : Option Nat := none
  deriving DecidableEq, Repr

/-- An EXPECT or EXPECTANY in progress: its address, the address after it, its descriptors (eight words each), the
variable that takes the deciding index, the clock edge at which it started, and the edge of the first item that came after its timeout had passed (R349). -/
structure ExpectW where
  at_ : Nat
  next : Nat
  descs : List (List Word)
  dreg : Option Nat
  start : Nat
  past : Option Nat := none
  deriving DecidableEq, Repr

/-- An XFER in progress (R388 to R394): direction, address, next address, descriptor words, message bytes still to
send or received so far, total length, next sequence number, frames left in the block (none: no limit), separation
time in ticks, deadline of the running ISO 15765-2 timer, FC.WAITs seen or sent, phase. Phases of a sender: 0 single frame queued, 1 first frame queued,
2 waits for flow control, 3 consecutive frame queued, 4 waits the separation time. Phases of a receiver: 8 waits for a
single or first frame, 9 flow control queued, 10 waits for a consecutive frame, 11 waits for room. `todo`: a frame that waits for a place in the
transmit queue; `rxdl`: length of the first frame received. -/
structure XferW where
  tx : Bool
  at_ : Nat
  next : Nat
  desc : List Word
  dreg : Nat := 0
  buf : List Byte := []
  total : Nat := 0
  sn : Nat := 0
  left : Option Nat := none
  bs : Option Nat := none
  stmin : Nat := 0
  deadline : Option Nat := none
  wft : Nat := 0
  phase : Nat := 0
  todo : Option Frame := none
  rxdl : Nat := 0
  deriving DecidableEq, Repr

/-- What a WAITING or BLOCKED context waits for (R334, R335). -/
inductive Wait where
  | none
  | time (deadline : Nat)
  | timer (i : Nat)
  | expect (w : ExpectW)
  | txDone (id : Nat)
  | s2
  | inj (d : Nat)
  | xfer (w : XferW)
  | commit
  | backoff (deadline : Nat) (resync : Bool)
  | room
  | fetch (addr : Nat)
  deriving DecidableEq, Repr

/-- A context beside its registers (R332): program counter, flags, timer deadlines, retry state, the flag P of R382,
the address to which a resynchronisation routine returns, inbox, current frame, latched port events with the clock edges at which they occurred, pending trigger, wait, transfer reservation (its queue and place, its message's length and
the bytes received), the records of its run with their count, and which settings hold a replacement (bit 0 KIND, 1 MODE, 2 RXW, 3 TXW). -/
structure CtxSt where
  pc : Nat := 0
  zf : Bool := false
  nf : Bool := false
  cf : Bool := false
  vf : Bool := false
  ff : Bool := false
  td : List (Option Nat) := []
  used : Nat := 0
  k : Nat := 0
  retryPt : Nat := 0
  retryPre : Bool := false
  inResync : Bool := false
  resyncRet : Nat := 0
  p : Bool := false
  inbox : List RxEnt := []
  cur : Option RxEnt := none
  evOff : Bool := false
  evAbs : Bool := false
  offAt : Nat := 0
  absAt : Nat := 0
  pend : Option TrigRec := none
  wait : Wait := .none
  resv : Option (Nat × Nat) := none
  resvLen : Nat := 0
  resvBytes : List Byte := []
  lost : Bool := false
  budget : Bool := false
  began : Nat := 0
  ckpt : Option Ckpt := none
  onceAt : Nat := 0
  blockNo : Nat := 0
  ckptNo : Nat := 0
  adj : Nat := 0
  deriving DecidableEq, Repr

/-- An engine: the context it executes, the instructions executed since it took it up (R340), and the RDR instructions executed in a
row (R379). -/
structure EngSt where
  ctx : Option Nat := none
  count : Nat := 0
  rdrs : Nat := 0
  deriving DecidableEq, Repr

/-- Who made a transmit entry (R305, R270, R381). -/
inductive TxSrc where
  | s0
  | ring
  | hoist (c : Nat)
  | tu
  deriving DecidableEq, Repr

/-- An entry of a port's transmit queue (R305 to R309, R315). `flush` holds a reason given while an attempt ran; `noStamp`: a reference message that carries no
stamp of the one before it (R271). -/
structure TxEnt where
  id : Nat
  src : TxSrc
  prio : Nat := 0
  tag : Nat := 0
  report : Bool := false
  frame : Frame
  errs : Nat := 0
  arbs : Nat := 0
  attempts : Nat := 0
  allAck : Bool := true
  lastBit : Bool := false
  clash : Bool := false
  tko : Bool := false
  sof : Option Nat := none
  flush : Option Nat := none
  noStamp : Bool := false
  deriving DecidableEq, Repr

/-- A latest-value buffer beside its registers (R303, R304): the shadow frame, and the requesters that hold a lock with the clock edge of their last read of word 0. -/
structure LvbSt where
  shadow : Option RxEnt := none
  locks : List (Nat × Nat) := []
  deriving DecidableEq, Repr

/-- A CAN port beside its registers: transmit queue, the entry in an attempt, entry numbering, RESULT of each host
requester, the ring requester's staging area (S0's lies in the registers), latest-value buffers, the mode in effect, whether the frame to which the port lost
arbitration is still in progress, a sleep pending at the end of the frame in progress, and which settings hold a replacement (bit 0 MODE, 1 to 3 bit timing). -/
structure CanSt where
  txq : List TxEnt := []
  att : Option Nat := none
  nextId : Nat := 0
  resS0 : Nat := 0
  resRing : Nat := 0
  rstage : KMap Word := []
  lvb : KMap LvbSt := []
  mode : Nat := 0
  busy : Bool := false
  sleepPend : Bool := false
  adj : Nat := 0
  deriving DecidableEq, Repr

/-- Who holds a check-value unit (R480). -/
inductive CvHold where
  | free
  | host (r : Nat)
  | ctx (c : Nat)
  deriving DecidableEq, Repr

/-- A check-value unit beside its registers (R478 to R486): running value, holder, DMA pass in progress (address,
bytes left), a FINISH that waits for it, and the clock edge of a host holder's last command or feed (R481). -/
structure CvSt where
  run : Nat := 0
  hold : CvHold := .free
  dma : Option (Nat × Nat) := none
  fin : Bool := false
  at_ : Nat := 0
  deriving DecidableEq, Repr

/-- A ring token, seen or to be sent (R283, R284): kind 1 SYNC, 2 DIP. -/
structure Token where
  kind : Nat
  id : Nat
  tgt : Nat
  deriving DecidableEq, Repr

/-- The time unit beside its registers: the accumulator of R262, the clock edges counted so far (what durations are measured by, assumption log 79), the land edges that have advanced LAND_ID, the servo of R269 with the clock edge of its last sample, the pairing of R273; of a master (R270, R271) the stamp of the last
message on the bus with its number, the next number, whether that message is the first, and the clock edge of the last send; ring samples of R277 and R279, the clock
edge at which a head last sent a time frame, tokens seen, and tokens being sent, each with its next copy and when that is due: a tick for the first, a clock
edge for the others (R283). -/
structure TuSt where
  acc : Nat := 0
  edges : Nat := 0
  lands : Nat := 0
  base : Int := 0
  offPrev : Int := 0
  first : Bool := true
  lockRun : Nat := 0
  held : Bool := false
  canF : Option Nat := none
  canSeq : Option Nat := none
  canS : Option Nat := none
  mStamp : Option (Nat × Nat) := none
  mSeq : Nat := 0
  mFirst : Bool := true
  refAt : Option Nat := none
  tfAt : Option Nat := none
  ringTx : Option Nat := none
  ringOff : Option Int := none
  rejRun : Nat := 0
  wantMeas : Bool := false
  lastSample : Nat := 0
  seen : List Token := []
  out : List (Token × Nat × Nat) := []
  deriving DecidableEq, Repr

/-- A dip bank (R218 to R226): header word, latch and target tick, the items latched, by window offset, and whether its latch tick has
passed. -/
structure DipBank where
  hdr : Word := 0
  tick : Nat := 0
  tgt : Nat := 0
  latched : Bool := false
  items : KMap Word := []
  deriving DecidableEq, Repr

/-- The roles of R492 and R59, coded 0 to 3. -/
inductive Role where
  | absent
  | active
  | standby
  | fenced
  deriving DecidableEq, Repr

/-- The conditions of a standby (R492, R526), coded 0 to 5. -/
inductive Stby where
  | none
  | inStep
  | rejoining
  | outOfStep
  | testing
  | warm
  deriving DecidableEq, Repr

/-- A domain's digest report for a millisecond (R494): the millisecond, the digest, the tiles with corrupt frames. -/
structure Digest where
  ms : Nat
  crc : Nat
  tiles : Nat
  deriving DecidableEq, Repr

/-- A sample delivered, as the digest of its millisecond counts it (R494): analog index, completion tick, the entry's two words. -/
structure DigEnt where
  a : Nat
  tick : Nat
  w0 : Word
  w1 : Word
  deriving DecidableEq, Repr

/-- Supervision (16) beside its registers: roles, the standby's condition, whether a domain holds the pads, the activation epoch, half-mast in force,
samples of the present digests, digest reports, when each tile last had a corrupt frame, the millisecond up to which a copy of chain states keeps digests from being
compared, a self-check running, the last mismatches, the old domain and cause of a takeover under way, whether the new domain has still to be ready and whether
it starts cold, tests in progress, feeds, automatic rejoins and restarts with their ticks, a rejoin in progress, the final epoch of a switchover, the watchdog's deadline, burgees, the
counts that burgees carry (R515), which wrap, and the clock edges of the last failure, the last burgee, the last test of each kind of R512, and the grants of
FEEDTEST and DOMTEST. -/
structure SvSt where
  roleA : Role := .absent
  roleB : Role := .absent
  stby : Stby := .none
  anyActive : Bool := false
  epoch : Nat := 0
  hm : Bool := false
  ents : List DigEnt := []
  digA : Option Digest := none
  digB : Option Digest := none
  corrupt : KMap Nat := []
  skipTo : Nat := 0
  selfCheck : Option Nat := none
  lastMismatch : Option Nat := none
  lastCheck : Option Nat := none
  tkoFrom : Option (Dom × Nat) := none
  ready : Bool := false
  cold : Bool := false
  feedTile : Option Nat := none
  trainTile : Option Nat := none
  ftNext : Nat := 0
  ftAt : Nat := 0
  switchAt : Option Nat := none
  feedA : Bool := false
  feedB : Bool := false
  autoA : Option Nat := none
  autoB : Option Nat := none
  stayA : Bool := false
  stayB : Bool := false
  restartAt : Option Nat := none
  rejoin : Option Dom := none
  rejoinAt : Nat := 0
  wdogDl : Option Nat := none
  burgeeNo : Nat := 0
  coldAt : Nat := 0
  disagrees : Nat := 0
  linkMiss : Nat := 0
  jlagMax : Nat := 0
  eccCorr : Nat := 0
  eccUncorr : Nat := 0
  scrubPasses : Nat := 0
  marched : Nat := 0
  spare : Bool := true
  slices : Nat := 0
  loops : Nat := 0
  ftPassed : Nat := 0
  ftFailed : Nat := 0
  failAt : Nat := 0
  burgeeAt : Nat := 0
  marchAt : Nat := 0
  sliceAt : Nat := 0
  loopAt : Nat := 0
  feedAt : Nat := 0
  domAt : Nat := 0
  deriving DecidableEq, Repr

/-- A pending injected conversion of a tile (R148): target, tag, the requesting context (`none`: host), the variable that takes
an AIN's result, whether it was held for a calibration (R152). -/
structure InjReq where
  target : Nat
  tag : Nat
  ctx : Option Nat := none
  held : Bool := false
  deriving DecidableEq, Repr

/-- A field tile beside its registers: power, the held activation epoch and the domain obeyed (R498), the source of its modulator
clock (R499), whether the hold timer has expired since the last obeyed frame (R87, R88) and the clock edge of that frame, window counters (R208) and the windows last seen above HI, pending
injections, the auxiliary slot in progress with the tick of its end and the scan input it converts (`none`: an injection, R149), the input that the scan converts
next at the earliest (R146), the clock edges of the scan results plus 1, link frames that were corrupt, by the ticks from and to which their periods end (R132), a SWEEP that holds it with
what it restores (R123), links lost for more than 1 ms (R176), links whose training is retried (R540), and whether it was powered again after SLEEP and has still to mark the gap in its
counts (R71). -/
structure TileSt where
  power : Bool := false
  epoch : Nat := 0
  obey : Option Dom := none
  clk : Option Dom := none
  holdC : Bool := false
  holdAt : Nat := 0
  win : KMap Nat := []
  winUp : Nat := 0
  inj : List InjReq := []
  slot : Option (Nat × Option Nat) := none
  scan : Nat := 0
  auxAt : KMap Nat := []
  bad : List (Int × Int) := []
  sweep : Bool := false
  swTdac : Nat := 0
  swInj : Nat := 0
  lostA : Bool := false
  lostB : Bool := false
  retryA : Bool := false
  retryB : Bool := false
  woke : Bool := false
  deriving DecidableEq, Repr

/-- A channel beside its registers. DI: the run of raw samples that differ and the tick of its first (R68), the last edge timed
(R70), the rate bucket, its last stamp and the edges suppressed (R209). DO: shutdowns in a row and the clock edge of the last (R75), the lock
of R75, the clock edge at which the output came on and up to which its on time is counted, edges and energy not yet counted
(R76, R79), PWM hold (R78). Outputs: what the output had when the safe state began (R86, R118). AO20: whether
`CH_AO_SET` was written since the image took effect, and the setting and trim that the tile holds (R115). Analog: whether MODE and the safe value hold a replacement (R104, R118). -/
structure ChSt where
  run : Nat := 0
  first : Nat := 0
  perEdge : Option Nat := none
  bucket : Int := 0
  lastTs : Int := 0
  suppr : Nat := 0
  tsdRow : Nat := 0
  tsdAt : Nat := 0
  lock75 : Bool := false
  onSince : Nat := 0
  onMark : Nat := 0
  onRem : Nat := 0
  clampRem : Nat := 0
  pwm : Bool := false
  heldOut : Bool := false
  heldMa : Option Nat := none
  setSeen : Bool := false
  tileSet : Option Nat := none
  tileTrim : Word := 0
  adjMode : Bool := false
  adjSafe : Bool := false
  deriving DecidableEq, Repr
/-- The regime under which a filter chain numbers and delivers its outputs (R184, R185): whether it runs, the tick of the edge to
which its grid is anchored, the anchor A of its numbering, its reset edge G, the preset and the own shifts in effect
(`none`: the preset's), whether fM is at its LEAN rate, and the phase delay in effect (R183). -/
structure Regime where
  on : Bool := false
  grid : Nat := 0
  anchor : Nat := 0
  rst : Nat := 0
  preset : Nat := 0
  own : Option Word := none
  lean : Bool := false
  pd : Nat := 0
  deriving DecidableEq, Repr

/-- A modulator period in a phase-delay line (R183): its code, 2 (level 0) where it did not arrive intact (R176), whether it counts as over-range (R137, R138), and
whether it was taken in inject mode (R121). -/
structure LPer where
  code : Nat := 2
  ovr : Bool := false
  test : Bool := false
  deriving DecidableEq, Repr

/-- A change of the scale by which modulator periods are dated, at a phase step or a change of fM: tick `at_` is `into` from now on, and what lies before it `num` / `den` as
far from it. -/
structure Rebase where
  at_ : Nat
  into : Int
  num : Nat := 1
  den : Nat := 1
  deriving DecidableEq, Repr

/-- A filter chain beside its registers: the regime in force and the one that a reset has ordered for outputs after its anchor,
the completion edge of the last output, whether GAP and a RESET or STEP anchor are due (R195, R241); the phase-delay line, newest period first, and the edge at which that
period ended (R183); the stretches of ticks in which periods count as over-range (R124, R138) and those in inject mode (R121); and the change of scale after the regime
in force, while outputs of it may still be due. -/
structure ChainSt where
  cur : Regime := {}
  nxt : Option Regime := none
  last : Nat := 0
  gap : Bool := false
  step : Bool := false
  line : List LPer := []
  lineAt : Option Int := none
  marks : List (Int × Int) := []
  tests : List (Int × Int) := []
  upto : Option Rebase := none
  deriving DecidableEq, Repr

/-- A SYNC that waits for its edge (R141): bit of `CA_SYNC_INFO.SRC` (0 LAND to 7 CAL), edge tick, LATE (R142). -/
structure SyncReq where
  src : Nat
  edge : Nat
  late : Bool := false
  deriving DecidableEq, Repr

/-- The conversion array beside its registers: SYNCs that wait, sources merged into a calibration (R143), the step of a
calibration (R154: 0 none, 1 permit asked, 2 CAL_WAIT, 3 CAL, 4 offset means taken, 5 gain means taken) and the clock edge at which CAL began, the sums of its offset
window by converter (0 to 63 analog, 64 to 79 auxiliary), the converters that fail it (R155, R157), the factor registers as they were before it wrote them (R157) and the words
written to them by calibrations since the last committed epoch, and a
sweep in progress: step, tile mask, positions, start and step codes, count, limit, dwell in ms, the clock edge at which the step began, whether SWEEP_ABORT was written;
whether CAL was started by AUTO_CAL, and the tick at which the modulator clock stopped. -/
structure CaSt where
  syncs : List SyncReq := []
  merged : Nat := 0
  calStep : Nat := 0
  calAt : Nat := 0
  s0 : List Int := []
  lost : List Nat := []
  prev : List (Nat × Word) := []
  wrote : List (Nat × Word) := []
  swStep : Option Nat := none
  swTiles : Nat := 0
  swPos : Nat := 0
  swStart : Int := 0
  swInc : Int := 0
  swCount : Nat := 0
  swLimit : Nat := 0
  swDwell : Nat := 0
  swAt : Nat := 0
  swAbort : Bool := false
  autoDone : Bool := false
  calFail : Nat := 0
  haltAt : Option Nat := none
  deriving DecidableEq, Repr

/-- Start-up, reset and power states (17) beside their registers: whether the module has power, the state of R530 (codes 0 to 6), the domain that
drives S1 at start-up, whether the tiles' first release is due (step 5 of R539), a switch of fM that waits for its edge with the state it leads to, a request
that is held PENDING, a SLEEP request and its tick, whether a wake arms the return of R536, a wake cause that waits
(WAKE and WAKE_SRC of R549), the ports that an entry to SLEEP put to sleep, the planned absence of R533, and the clock edge at which something last ended that kept the
module from being quiet (R535, R536). -/
structure PwSt where
  on : Bool := false
  power : Nat := 0
  drv : Dom := .a
  edge : Option Nat := none
  pend : Option Nat := none
  sleepReq : Bool := false
  sleepAt : Nat := 0
  woken : Bool := false
  wake : Option (Nat × Nat) := none
  slept : List Nat := []
  planned : Bool := false
  quietAt : Nat := 0
  deriving DecidableEq, Repr

/-- A job on a flash device: bytes to program from an address, an erase of 2^`log2` bytes, or a RAW frame. -/
inductive FlashJob where
  | prog (addr : Nat) (data : List Byte)
  | erase (addr log2 : Nat)
  | raw
  deriving DecidableEq, Repr

/-- The S0 window buffer (R414): the READ frame it serves (address, CNT, INC), the select and the base of the window as they were when its flash read
started, and, once that is done, its words. -/
structure WinBuf where
  addr : Nat
  cnt : Nat
  inc : Bool
  cs : Nat := 0
  base : Nat := 0
  words : Option (List Word) := none
  deriving DecidableEq, Repr

/-- The host port S0 (13) beside its registers: line mode in effect and the one that the next fall of select brings (R402); of the
previous frame, if there is a record of one: its number and the fields of its status word (R409), and the rest of the reply it still has to give (R408: filler
words, the values, or how many words of the window buffer, and whether a CRC word ends it); the window buffer, and the words that the last frame carried to
the host. -/
structure S0St where
  quad : Bool := false
  next : Option Bool := none
  has : Bool := false
  fseq : Nat := 0
  tag : Nat := 0
  result : Nat := 0
  busy : Bool := false
  trunc : Bool := false
  overclock : Bool := false
  crcErr : Bool := false
  abort : Bool := false
  underrun : Bool := false
  filler : Nat := 0
  vals : List Word := []
  win : Option Nat := none
  crcp : Bool := false
  buf : Option WinBuf := none
  out : List Word := []
  deriving DecidableEq, Repr

/-- The memory port S1 (13) beside its registers: which user runs a program, an erase or a RAW frame on each select (R425: 1 + log region,
9 window write, 10 `SP1_CMD`), the pieces of a window write with its select, its error and whether it has ended (R422), the job of
`SP1_CMD` with its select (R424), and whether DIV holds a replacement (R7). -/
structure Sp1St where
  run : KMap Nat := []
  win : Option Nat := none
  pieces : List (Nat × List Byte) := []
  winErr : Nat := 0
  cmd : Option (Nat × FlashJob) := none
  adj : Bool := false
  deriving DecidableEq, Repr

/-- A region of the flash log (R254 to R259): phase (0 off, 1 to be scanned, 2 writing, 3 a record in programming, 4 an erase, 5 a
header in programming), the job on S1 with its select, whether the region's place was written while that job ran, the offset of the next record in its sector, whether the next sector must be opened, whether a
RESUME record is due, and an entry being written in parts: its queue, its length and the bytes left. -/
structure LogSt where
  phase : Nat := 0
  job : Option FlashJob := none
  cs : Nat := 0
  rescan : Bool := false
  off : Nat := 0
  must : Bool := false
  resume : Bool := false
  fresh : Bool := false
  part : Option (Nat × Nat × List Byte) := none
  deriving DecidableEq, Repr

/-- A master transfer on S2 (R383, R430): the context that makes it (`none`: the host), select line, words or bytes, whether it runs in frame
mode, and the tick at which select was asserted. -/
structure S2Xfer where
  ctx : Option Nat := none
  ss : Nat := 0
  n : Nat := 0
  frame : Bool := false
  start : Nat := 0
  deriving DecidableEq, Repr

/-- A slave frame on S2 (R432): the stamp of the select's fall, the words of the reply, UNDERRUN. -/
structure S2Slave where
  stamp : Nat
  reply : List Word
  under : Bool
  deriving DecidableEq, Repr

/-- The general port S2 (13) beside its registers: the role in effect (R427), the transfer in progress, the reply posted, the last word
that S2_MISO sent, the slave frame in progress, which settings hold a replacement (bit 0 ROLE, 1 DIV), and the words that the last transfer
sent. -/
structure Sp2St where
  role : Nat := 0
  xfer : Option S2Xfer := none
  post : Option (List Word) := none
  last : Word := 0
  slave : Option S2Slave := none
  adj : Nat := 0
  sent : List Word := []
  deriving DecidableEq, Repr

/-- A ring link (R451 to R460) beside its registers: failed tries of the present step, the cap of R452 (0: none), whether it went down
after an enumeration, whether it carries probes only (R460), whether PAUSE holds its export,
whether an ENUM that a head met there bars enumeration through it (R442), the results so far of a latency measurement
under way, the clock edge at which the present try of a step, or the rest before step 1, began (R451, R452), and the export frames that PAUSE holds back (R462). -/
structure LinkSt where
  tries : Nat := 0
  cap : Nat := 0
  failed : Bool := false
  stray : Bool := false
  paused : Bool := false
  noEnum : Bool := false
  meas : Option (List Nat) := none
  at_ : Nat := 0
  held : List RFrame := []
  deriving DecidableEq, Repr

/-- An export entry being sent in segments (R468): its queue and place there, export sequence number, length in bytes, words left, next SEG. -/
structure SegOut where
  q : Nat
  pos : Nat
  seq : Word
  len : Nat
  rest : List Word
  ix : Nat
  deriving DecidableEq, Repr

/-- An export entry being joined at the head (R469): sequence number, length in bytes, words so far, next SEG. -/
structure SegIn where
  seq : Word := 0
  len : Nat := 0
  words : List Word := []
  ix : Nat := 0
  deriving DecidableEq, Repr

/-- The Casen ring (14) beside its registers: whether the bypass is closed (R446), listens after start-up (R449) or tries a relock
(R450), the HEAD land as the image found it (R442), which settings hold a replacement (bit 0 HEAD_SRC, 1 GEN_MAX), links, a waiting forward of
ENUM (R454), the up port, its far end's address and the time port of the enumeration (R460), the side being enumerated and its members (R443), the target of a RETRAIN
(R456), the broken hop of a ring, time frames sent, the reply a target keeps (R465) and whether its next one carries TKO, the head's request on its way and the tick at which it
left last, exports under way, `MOD_IRQ` bits already
alarmed and when (R470), the clock edge at which the present phase began (listening, training, a side of an enumeration, step 7), and the frames that the last command
sent, by port. -/
structure CsnSt where
  closed : Bool := true
  listen : Bool := false
  relock : Bool := false
  land : Bool := false
  adj : Nat := 0
  links : KMap LinkSt := []
  fwd : Bool := false
  up0 : Nat := 0
  far : Nat := 0xFF
  time0 : Nat := 0
  side : Nat := 1
  count : Nat := 0
  n2 : Nat := 0
  retrainAt : Option Nat := none
  cut : Option Nat := none
  tfNo : Nat := 0
  kept : Option (Nat × RFrame) := none
  tko : Bool := false
  raReq : Option (RFrame × Nat) := none
  seg : Option SegOut := none
  joins : KMap SegIn := []
  alSeen : Word := 0
  alAt : Option Nat := none
  phaseAt : Nat := 0
  sent : List (Nat × RFrame) := []
  deriving DecidableEq, Repr

/-- A domain's report to the arbiter (R54): the slot it selected, the digest, and the reasons of both slots; beside it `copy`, the domain's copy of that slot's
image in its queue memory, from which it applies it (R46). -/
structure BootRep where
  slot : Option Nat
  digest : List Byte
  res0 : Nat
  res1 : Nat
  copy : List Byte := []
  deriving DecidableEq, Repr

/-- A trust command under way (R58): OP; domain, slot or the counter to reach; the body of the report or the hash to program. -/
structure TrustCmd where
  op : Nat
  arg : Nat
  body : List Byte := []
  deriving DecidableEq, Repr

/-- Image and trust (02) beside their registers: SFDP discovery done, the reports, whether selection has been repeated, the slot to apply, the blobs of the running
image that hoist programs are fetched from (offset in S1_CS0_N and length), and the trust command under way. -/
structure BtSt where
  blobs : List (Nat × Nat) := []
  sfdp : Bool := false
  repA : Option BootRep := none
  repB : Option BootRep := none
  repeated : Bool := false
  apply : Option Nat := none
  cmd : Option TrustCmd := none
  deriving DecidableEq, Repr

/-- An event that can trigger contexts (R336). -/
inductive Trig where
  | sch (j arg inst : Nat)
  | pen (ty cls ix : Nat) (value : Word) (time : Nat)
  | di (n : Nat) (level : Bool) (ts : Nat)
  | cmp (src : Nat) (cond : Nat) (word0 : Word) (time : Nat)
  deriving DecidableEq, Repr

/-- Why a step can stop without a next state. The model has no such step. -/
inductive Fault where
  /-- Raised by no command: the module reports every fault in its state. Safe: nothing answers it. -/
  | none
  deriving DecidableEq, Repr

/-- Why a command can have no meaning. -/
inductive Refusal where
  /-- Raised by an arm of `exec` whose command has no meaning yet. Safe: the run stops. -/
  | notModelled (mnemonic : String)
  deriving DecidableEq, Repr

/-- What a committed journal epoch holds for the standby (R501, R502): its number, the tick and the clock edge at which it closed, and the registers, memories and units as they then were;
the time unit with its servo (R266), and how many late entries, late triggers and calibrated factors it covers. -/
structure JSnap where
  jseq : Nat := 0
  tick : Nat := 0
  edge : Nat := 0
  regs : KMap Word := []
  qmem : KMap Word := []
  queues : KMap QSt := []
  ctxs : KMap CtxSt := []
  cans : KMap CanSt := []
  dips : KMap DipBank := []
  tu : TuSt := {}
  lates : Nat := 0
  trigs : Nat := 0
  cals : Nat := 0
  deriving DecidableEq, Repr

/-- A unit of entries written after the last committed epoch (R251): queue, whether both domains write it, the channel that
writes it, the number of the first and the entries. -/
structure LateEnt where
  q : Nat
  both : Bool
  chan : Option Nat
  no : Nat := 0
  ents : List (List Word)
  deriving DecidableEq, Repr

/-- The state of the module. -/
structure State where
  regs : KMap Word := []
  rsh : KMap RShadow := []
  wsh : KMap WShadow := []
  qmem : KMap Word := []
  flash : KMap Byte := []
  otp : KMap Byte := []
  queues : KMap QSt := []
  pops : KMap PSh := []
  ctxs : KMap CtxSt := []
  engs : KMap EngSt := []
  cans : KMap CanSt := []
  cvs : KMap CvSt := []
  tiles : KMap TileSt := []
  chans : KMap ChSt := []
  chains : KMap ChainSt := []
  dips : KMap DipBank := []
  tu : TuSt := {}
  sv : SvSt := {}
  ca : CaSt := {}
  pw : PwSt := {}
  s0 : S0St := {}
  sp1 : Sp1St := {}
  sp2 : Sp2St := {}
  csn : CsnSt := {}
  bt : BtSt := {}
  late : List LateEnt := []
  ltrigs : List (List Trig) := []
  jpend : List JSnap := []
  jcom : Option JSnap := none
  jseq : Nat := 0
  hcache : KMap (List Nat) := []
  rrLast : KMap Nat := []
  ckptDone : KMap Nat := []
  logs : KMap LogSt := []
  logMap : KMap Nat := []
  rdata : Word := 0
  free : Nat := 0
  blockCtr : Nat := 0
  pending : List Instr := []
  deriving DecidableEq, Repr

/-- The module right after reset. -/
def State.reset : State := {}

/-- What a command answers. -/
abbrev Out := Host.Outcome State Fault Refusal

end Sys2Proof.Machine
end

