-- ==== Sys2Proof/Machine/Ops.lean ====
section
/-! DEFINITION. The named operations over registers, wide values, counters and memories that every unit uses. -/

namespace Sys2Proof.Machine

/-- What the register at byte address `a` holds. -/
def rd (s : State) (a : Nat) : Word := kget (resetWord a) s.regs a

/-- Stores `w` in the register at byte address `a`. -/
def wr (a : Nat) (w : Word) (s : State) : State := { s with regs := kset (resetWord a) s.regs a w }

/-- The value of a register field. -/
def State.get (s : State) (f : FldRef) : Nat := bits (rd s f.a) f.hi f.lo

/-- Stores `v` in a register field and leaves the register's other bits. -/
def State.put (s : State) (f : FldRef) (v : Nat) : State := wr f.a (setBits (rd s f.a) f.hi f.lo v) s

/-- Whether a one-bit field is 1. -/
def State.is (s : State) (f : FldRef) : Bool := s.get f == 1

/-- Sets a one-bit field. -/
def State.set1 (s : State) (f : FldRef) : State := s.put f 1

/-- Stores a truth value in a one-bit field. -/
def State.putB (s : State) (f : FldRef) (b : Bool) : State := s.put f (b2n b)

/-- The largest value of a field. -/
def FldRef.max (f : FldRef) : Nat := 2 ^ (f.hi + 1 - f.lo) - 1

/-- Adds `k` to a counter field that saturates at its largest value. -/
def State.addSat (s : State) (f : FldRef) (k : Nat) : State := s.put f (min (s.get f + k) f.max)

/-- Counts one in a saturating counter field. -/
def State.inc (s : State) (f : FldRef) : State := s.addSat f 1

/-- Counts one in a field that wraps. -/
def State.incWrap (s : State) (f : FldRef) : State := s.put f (s.get f + 1)

/-- A 64-bit value in two consecutive registers, low word first (R22). -/
def State.get64 (s : State) (a : Nat) : Nat := (rd s a).toNat + (rd s (a + 4)).toNat * 2 ^ 32

/-- Stores a 64-bit value in two consecutive registers. -/
def State.put64 (s : State) (a : Nat) (v : Nat) : State := wr (a + 4) (wd (v / 2 ^ 32)) (wr a (wd v) s)

/-- Applies `f` for every element of a list, from first to last. -/
def State.each {α : Type} (s : State) (l : List α) (f : α → State → State) : State := l.foldl (fun s x => f x s) s

/-- Applies `f` when `c` holds. -/
def State.when (s : State) (c : Bool) (f : State → State) : State := if c then f s else s

/-- The index of a requester: loader 0, S0 1, ring 2, engine e 3 + e. -/
def reqIx : Req → Nat
  | .loader => 0
  | .s0 => 1
  | .ring => 2
  | .eng e => 3 + e.val

/-- The channels of kind DI (R3): positions 0 to 7. -/
def isDI (n : Nat) : Bool := n < 256 && n % 16 < 8

/-- The channels of kind DO: positions 8 to 11. -/
def isDO (n : Nat) : Bool := n < 256 && 8 ≤ n % 16 && n % 16 < 12

/-- The analog channels: positions 12 to 15. -/
def isAN (n : Nat) : Bool := n < 256 && 12 ≤ n % 16

/-- The analog channels that can be current outputs: positions 14 and 15. -/
def isAO (n : Nat) : Bool := n < 256 && 14 ≤ n % 16

/-- The analog index of an analog channel (R3). -/
def anIx (n : Nat) : Nat := 4 * (n / 16) + (n % 16 - 12)

/-- The channel of analog index `a` (R3). -/
def anCh (a : Nat) : Nat := 16 * (a / 4) + 12 + a % 4

/-- All analog channels in ascending n. -/
def anChs : List Nat := (List.range 64).map anCh

/-- `TU_NOW` (R262): bits [95:32] of the accumulator. -/
def now (s : State) : Nat := s.tu.acc / 2 ^ 32 % 2 ^ 64

/-- The time that has passed, in edges of the 49.152 MHz clock (R262): durations are measured by it, and no step of `TU_NOW` changes it (assumption log 79). -/
def clk (s : State) : Nat := s.tu.edges

/-- Ticks of a millisecond, of 10 ms and of a second (R8). -/
def tickMs : Nat := 49152
def tick10Ms : Nat := 491520
def tickS : Nat := 49152000

/-- `MOD_START` shows the last step completed (R549). -/
def startStep (n : Nat) (s : State) : State := s.put .MOD_START_STEP (max n (s.get .MOD_START_STEP))

/-- Whether the module is at half-mast, as both domains have been told (R511). -/
def halfMast (s : State) : Bool := s.sv.hm

/-- A free value, and the state with the counter of free values advanced (assumption log 4). -/
def freeNow (s : State) : Word := Config.freeWord s.free
def State.useFree (s : State) : State := { s with free := s.free + 1 }

/-- Sets bit `b` of `MOD_IRQ` (R216). -/
def raiseIrq (b : Nat) (s : State) : State := s.put ⟨Reg.MOD_IRQ, b, b⟩ 1

/-- IRQ_N is asserted (R215, R532): a domain is active, the module is not in SLEEP, and some enabled bit of `MOD_IRQ` is set. -/
def irqAsserted (s : State) : Bool :=
  s.sv.anyActive && s.pw.power != 4 && (rd s Reg.MOD_IRQ &&& rd s Reg.MOD_IRQ_EN) != 0

/-- Bits of `MOD_IRQ` by name (R216). -/
def irqPen : Nat := 0
def irqDiag : Nat := 1
def irqDip : Nat := 2
def irqDipBusy : Nat := 3
def irqQueue : Nat := 4
def irqCtx : Nat := 5
def irqCan : Nat := 6
def irqSv : Nat := 7
def irqCal : Nat := 8
def irqBt : Nat := 9
def irqRing : Nat := 10
def irqPenDrop : Nat := 11

/-- CRC step of the reflected CRC-32 of R255. -/
def crc32Bit (c : Nat) : Nat := if c % 2 = 1 then (c / 2) ^^^ 0xEDB88320 else c / 2

def crc32Byte (c : Nat) (b : Byte) : Nat :=
  crc32Bit (crc32Bit (crc32Bit (crc32Bit (crc32Bit (crc32Bit (crc32Bit (crc32Bit (c ^^^ b.toNat))))))))

/-- The CRC-32 of IEEE 802.3 over bytes (R255). -/
def crc32 (l : List Byte) : Nat := (l.foldl crc32Byte 0xFFFFFFFF) ^^^ 0xFFFFFFFF

/-- Record of a sub-unit's state, with the same record for every unit that nothing has touched. -/
def State.queue (s : State) (q : Nat) : QSt := kget {} s.queues q
def State.setQueue (s : State) (q : Nat) (x : QSt) : State := { s with queues := kset {} s.queues q x }
def State.psh (s : State) (q : Nat) (r : Nat) : PSh := kget {} s.pops (q * 16 + r)
def State.setPsh (s : State) (q r : Nat) (x : PSh) : State := { s with pops := kset {} s.pops (q * 16 + r) x }
def State.ctx (s : State) (c : Nat) : CtxSt := kget {} s.ctxs c
def State.setCtx (s : State) (c : Nat) (x : CtxSt) : State := { s with ctxs := kset {} s.ctxs c x }
def State.modCtx (s : State) (c : Nat) (f : CtxSt → CtxSt) : State := s.setCtx c (f (s.ctx c))
def State.eng (s : State) (e : Nat) : EngSt := kget {} s.engs e
def State.setEng (s : State) (e : Nat) (x : EngSt) : State := { s with engs := kset {} s.engs e x }
def State.can (s : State) (p : Nat) : CanSt := kget {} s.cans p
def State.setCan (s : State) (p : Nat) (x : CanSt) : State := { s with cans := kset {} s.cans p x }
def State.modCan (s : State) (p : Nat) (f : CanSt → CanSt) : State := s.setCan p (f (s.can p))
def State.cv (s : State) (u : Nat) : CvSt := kget {} s.cvs u
def State.setCv (s : State) (u : Nat) (x : CvSt) : State := { s with cvs := kset {} s.cvs u x }
def State.tile (s : State) (t : Nat) : TileSt := kget {} s.tiles t
def State.setTile (s : State) (t : Nat) (x : TileSt) : State := { s with tiles := kset {} s.tiles t x }
def State.modTile (s : State) (t : Nat) (f : TileSt → TileSt) : State := s.setTile t (f (s.tile t))
def State.ch (s : State) (n : Nat) : ChSt := kget {} s.chans n
def State.setCh (s : State) (n : Nat) (x : ChSt) : State := { s with chans := kset {} s.chans n x }
def State.modCh (s : State) (n : Nat) (f : ChSt → ChSt) : State := s.setCh n (f (s.ch n))
def State.chain (s : State) (n : Nat) : ChainSt := kget {} s.chains n
def State.setChain (s : State) (n : Nat) (x : ChainSt) : State := { s with chains := kset {} s.chains n x }
def State.modTu (s : State) (f : TuSt → TuSt) : State := { s with tu := f s.tu }
def State.modSv (s : State) (f : SvSt → SvSt) : State := { s with sv := f s.sv }
def State.modCa (s : State) (f : CaSt → CaSt) : State := { s with ca := f s.ca }
def State.modPw (s : State) (f : PwSt → PwSt) : State := { s with pw := f s.pw }
def State.modS0 (s : State) (f : S0St → S0St) : State := { s with s0 := f s.s0 }
def State.modSp1 (s : State) (f : Sp1St → Sp1St) : State := { s with sp1 := f s.sp1 }
def State.modSp2 (s : State) (f : Sp2St → Sp2St) : State := { s with sp2 := f s.sp2 }
def State.modCsn (s : State) (f : CsnSt → CsnSt) : State := { s with csn := f s.csn }
def State.modBt (s : State) (f : BtSt → BtSt) : State := { s with bt := f s.bt }
def State.logr (s : State) (r : Nat) : LogSt := kget {} s.logs r
def State.setLogr (s : State) (r : Nat) (x : LogSt) : State := { s with logs := kset {} s.logs r x }
def State.link (s : State) (x : Nat) : LinkSt := kget {} s.csn.links x
def State.modLink (s : State) (x : Nat) (f : LinkSt → LinkSt) : State :=
  s.modCsn (fun c => { c with links := kset {} c.links x (f (s.link x)) })
def State.dip (s : State) (b : Nat) : DipBank := kget {} s.dips b
def State.setDip (s : State) (b : Nat) (x : DipBank) : State := { s with dips := kset {} s.dips b x }


end Sys2Proof.Machine
end

