-- ==== Sys2Proof/Machine/Queue.lean ====
section
/-! DEFINITION. Queues (spec/08): placement, writing under the overflow policies, heads of the three consumers,
pops and their shadows, watermarks. The words of an entry lie in queue memory at the entry's place in its region. -/

namespace Sys2Proof.Machine

/-- Bytes of queue memory in a domain (R233). -/
def qmemBytes : Nat := 8388608

/-- Bytes of one entry of a fixed-size queue (R234); 0 for a variable or disabled queue. -/
def fixedBytes (esize : Nat) : Nat :=
  match esize with
  | 1 => 8 | 2 => 16 | 3 => 32 | 4 => 64 | _ => 0

/-- Whether ESIZE names a kind of queue: fixed or variable (R234). -/
def esizeOn (esize : Nat) : Bool := 1 ≤ esize && esize ≤ 5

/-- The limits of DEPTH for an ESIZE (R234). -/
def depthMax (esize : Nat) : Nat :=
  match esize with
  | 1 => 20 | 2 => 19 | 3 => 18 | 4 => 17 | _ => 23

def depthMin (esize : Nat) : Nat := if esize = 5 then 12 else 1

/-- DEPTH as it is used (R7, R234): the nearer limit of the range that ESIZE gives; the field keeps what was written. -/
def depthUsed (esize depth : Nat) : Nat := max (depthMin esize) (min depth (depthMax esize))

/-- Bytes of the region of a queue (R234). -/
def regionBytes (s : State) (q : Nat) : Nat :=
  let e := s.get (.Q_CFG_ESIZE q)
  (if e = 5 then 1 else fixedBytes e) * 2 ^ depthUsed e (s.get (.Q_CFG_DEPTH q))

/-- A queue takes entries: ESIZE names a kind and the queue has been placed (R233). -/
def qOn (s : State) (q : Nat) : Bool :=
  decide (q < 128) && esizeOn (s.get (.Q_CFG_ESIZE q)) && !(s.queue q).nofit

/-- The queue takes fixed entries of `b` bytes. -/
def qFixed (s : State) (q b : Nat) : Bool := qOn s q && fixedBytes (s.get (.Q_CFG_ESIZE q)) == b && b != 0

/-- The queue takes variable entries. -/
def qVar (s : State) (q : Nat) : Bool := qOn s q && s.get (.Q_CFG_ESIZE q) == 5

/-- Whether every enabled consumer has passed an entry (R250). -/
def passedAll (s : State) (q : Nat) (e : QEnt) : Bool :=
  (!s.is (.Q_CFG_HOST q) || e.host) && (!s.is (.Q_CFG_LOG q) || e.log) && (!s.is (.Q_CFG_EXPORT q) || e.exp)

/-- The entries that still occupy the region: not passed by every enabled consumer, or kept under R247. -/
def liveEnts (s : State) (q : Nat) (l : List QEnt) : List QEnt :=
  l.filter (fun e => !e.vis || e.pin.isSome || !passedAll s q e)

/-- `Q_LEVEL` (R261): entries not yet passed by the slowest consumer, with those kept under R247 and R393. -/
def qLevel (s : State) (q : Nat) : Nat := (s.queue q).ents.length

/-- `Q_POP_ST.LEVEL` (R247, R248): entries that pops have still to remove, with a popped variable entry whose place is kept (assumption log 60). -/
def popLevel (s : State) (q : Nat) : Nat :=
  if s.is (.Q_CFG_HOST q) then ((s.queue q).ents.filter (fun e => e.vis && (!e.host || e.pin.isSome))).length else 0

/-- Records the level's rise or fall in `Q_PEAK` and the watermark (R239). -/
def qLevelChanged (q : Nat) (s : State) : State :=
  let lv := qLevel s q
  let wm := s.get (.Q_WM_WM q)
  let s1 := s.put (.Q_PEAK_PEAK q) (max lv (s.get (.Q_PEAK_PEAK q)))
  if lv < wm then s1.setQueue q { s1.queue q with wmArm := true }
  else if wm ≠ 0 ∧ (s.queue q).wmArm then
    raiseIrq irqQueue ((s1.setQueue q { s1.queue q with wmArm := false }).set1 (.Q_STAT_WM q))
  else s1

/-- `Q_PEAK` as it reads (R261): the highest level since the last read, which is no lower than the level now. -/
def qPeakVal (s : State) (q : Nat) : Nat := max (s.get (.Q_PEAK_PEAK q)) (qLevel s q)

/-- Stores the entries of a queue, less those whose space is freed (R250). -/
def qStore (q : Nat) (l : List QEnt) (s : State) : State :=
  qLevelChanged q (s.setQueue q { s.queue q with ents := liveEnts s q l })

/-- Whether two stretches of a ring of `size` bytes overlap. -/
def ringOverlap (size p l c n : Nat) : Bool :=
  decide ((c + size - p) % size < l) || decide ((p + size - c) % size < n)

/-- A place for `n` bytes in a region (assumption log 9): the write position, else the end of some entry, the
first that meets no live entry. -/
def findPlace (size wpos n : Nat) (l : List QEnt) : Option Nat :=
  if size < n then none else
  let live := l.filter (fun e => e.own.isEmpty)
  if live.isEmpty then some (wpos % size) else
  ((wpos % size) :: live.map (fun e => (e.pos + e.len) % size)).find?
    (fun c => live.all (fun e => !ringOverlap size e.pos e.len c n))

/-- Word address in queue memory of byte `o` of the region of queue `q`. -/
def qmemIx (s : State) (q o : Nat) : Nat := (s.get (.Q_BASE_BASE q) + o % max 1 (regionBytes s q)) / 4

/-- Writes words at a place of a queue's region. -/
def putWords (q pos : Nat) : List Word → State → State
  | [], s => s
  | w :: r, s => putWords q (pos + 4) r { s with qmem := kset 0 s.qmem (qmemIx s q pos) w }

/-- The words of an entry as stored. -/
def entWords (s : State) (q : Nat) (e : QEnt) : List Word :=
  if e.own.isEmpty then (List.range (e.len / 4)).map (fun i => kget 0 s.qmem (qmemIx s q (e.pos + 4 * i))) else e.own

/-- The channel that is bound to queue `q` (R236): the lowest enabled analog channel whose CH_QBIND names it, if the queue
has 8-byte entries. -/
def boundCh (s : State) (q : Nat) : Option Nat :=
  if s.get (.Q_CFG_ESIZE q) = 1 then
    anChs.find? (fun n => s.is (.CH_QBIND_EN n) && s.get (.CH_QBIND_Q n) == q)
  else none

/-- Who writes an entry. -/
inductive Prod where
  | chan (n : Nat)
  | both
  | active
  deriving DecidableEq, Repr

/-- A unit of entries as it counts until its epoch commits (R251). -/
def Prod.late (p : Prod) (q no : Nat) (es : List (List Word)) : LateEnt :=
  match p with
  | .chan n => ⟨q, true, some n, no, es⟩
  | .both => ⟨q, true, none, no, es⟩
  | .active => ⟨q, false, none, no, es⟩

/-- A producer other than the bound channel may not write a channel-bound queue (R236). -/
def qForeign (s : State) (q : Nat) (p : Prod) : Bool :=
  match boundCh s q with
  | some n => p ≠ .chan n
  | none => false

/-- The oldest unit that OVERWRITE_OLD may displace (R238): an entry in the region that some consumer has still to
pass and that no pop keeps; an anchor goes with its second half. Gives the entries left and the entries displaced. -/
def takeOldest : List QEnt → Option (List QEnt × List QEnt)
  | [] => none
  | e :: r =>
    if e.vis && e.pin.isNone && e.own.isEmpty then
      (match e.anc, r with
        | true, f :: r' => if f.pin.isNone then some (r', [e, f]) else some (f :: r', [e])
        | _, _ => some (r, [e]))
    else
      match takeOldest r with
      | some (k, d) => some (e :: k, d)
      | none => none

/-- Displaces oldest entries until `n` bytes fit; `fuel` bounds the number of steps. -/
def displace (size wpos n : Nat) : Nat → List QEnt → List QEnt → Option (List QEnt × List QEnt)
  | 0, l, d => if (findPlace size wpos n l).isSome then some (l, d) else none
  | k + 1, l, d =>
    if (findPlace size wpos n l).isSome then some (l, d) else
    match takeOldest l with
    | some (l', d') => displace size wpos n k l' (d ++ d')
    | none => none

/-- The decision of R238 on a unit of `n` bytes: refused, or accepted with the entries that stay and those displaced. -/
def qDecide (s : State) (q n : Nat) : Option (List QEnt × List QEnt) :=
  let x := s.queue q
  let l := liveEnts s q x.ents
  let size := regionBytes s q
  if (findPlace size x.wpos n l).isSome then some (l, [])
  else if s.get (.Q_CFG_POLICY q) = 1 then displace size x.wpos n l.length l []
  else none

/-- Whether a unit of entries would be accepted. -/
def qAccepts (s : State) (q : Nat) (p : Prod) (n : Nat) : Bool :=
  qOn s q && !qForeign s q p && (qDecide s q n).isSome

/-- Places the entries of a unit one after another from `pos`, numbered from `no`. -/
def placeEnts (q no pos : Nat) (anc : Bool) : List (List Word) → State → List QEnt × State
  | [], s => ([], s)
  | w :: r, s =>
    let p := placeEnts q (no + 1) (pos + 4 * w.length) false r (putWords q pos w s)
    ({ no := no, pos := pos % max 1 (regionBytes s q), len := 4 * w.length, anc := anc && !r.isEmpty } :: p.1, p.2)

/-- Bytes of a unit of entries. -/
def unitBytes (es : List (List Word)) : Nat := (es.map (fun w => 4 * w.length)).sum

/-- Records displaced entries (R238): each counts in OVWR_CNT, in the pops' OVWR and in the log's SKIP count; one of a duplicate window is no longer left
in it (R253). -/
def countDisplaced (q : Nat) (d : List QEnt) (s : State) : State :=
  let x := s.queue q
  let s1 := s.setQueue q { x with disp := x.disp + (d.filter (fun e => !e.host)).length,
                                  missed := x.missed + (if s.is (.Q_CFG_LOG q) then (d.filter (fun e => !e.log)).length else 0) }
  (s1.put (.Q_DUP_LEFT q) (s.get (.Q_DUP_LEFT q) - (d.filter (fun e => e.dup && !e.host)).length)).addSat (.Q_LOST_OVWR_CNT q) d.length

/-- Writes a unit of entries to queue `q` (R236 to R241). Entries of producers that run in both domains are kept for the standby's own copy (R251). A
discard makes an OVERFLOW anchor due, but for OVERWRITE_OLD. -/
def qPush1 (q : Nat) (p : Prod) (es : List (List Word)) (s : State) : State :=
  if !qOn s q then s
  else if qForeign s q p then s.set1 (.Q_STAT_FOREIGN q)
  else
    match qDecide s q (unitBytes es) with
    | none =>
      let x := s.queue q
      let s1 := s.setQueue q { x with ovf := x.ovf || s.get (.Q_CFG_POLICY q) != 1 }
      s1.inc (.Q_STAT_DROP_CNT q)
    | some (l, d) =>
      let s0 := countDisplaced q d s
      let x := s0.queue q
      let pos := (findPlace (regionBytes s q) x.wpos (unitBytes es) l).getD 0
      let pl := placeEnts q x.wcnt pos (es.length != 1) es s0
      let x' := pl.2.queue q
      let s2 := pl.2.setQueue q { x' with wpos := (pos + unitBytes es) % max 1 (regionBytes s q),
                                          wcnt := x'.wcnt + es.length, lossRec := false }
      let s3 := if s.sv.stby = .inStep ∨ s.sv.stby = .warm ∨ s.sv.tkoFrom.isSome then { s2 with late := s2.late ++ [p.late q x.wcnt es] } else s2
      qStore q (l ++ pl.1) s3

/-- The units in which the entries of one sample are written: an anchor with its second half goes with the sample that it precedes, but OVERWRITE_OLD makes
room for each by itself (R238, assumption log 9). -/
def pushUnits (s : State) (q : Nat) (es : List (List Word)) : List (List (List Word)) :=
  if s.get (.Q_CFG_POLICY q) = 1 ∧ 2 < es.length then [es.take 2, es.drop 2] else [es]

/-- Writes an entry, or an anchor with its second half and a sample, to queue `q`. -/
def qPush (q : Nat) (p : Prod) (es : List (List Word)) (s : State) : State := s.each (pushUnits s q es) (qPush1 q p)

/-- STALL for a producer that cannot wait acts as DROP_NEW and sets CFG_ADJ (R238); POLICY 3 is DROP_NEW. -/
def qPushDrop (q : Nat) (p : Prod) (es : List (List Word)) (s : State) : State :=
  let s1 := qPush q p es s
  if s.get (.Q_CFG_POLICY q) = 2 ∧ qOn s q ∧ ¬ qForeign s q p ∧ (qDecide s q (unitBytes es)).isNone then s1.set1 (.Q_STAT_CFG_ADJ q) else s1

/-- An entry of `b` bytes from a producer other than a channel: written where the queue has entries of that size. A queue that a channel is
bound to refuses it, with FOREIGN (R236). -/
def qPushFixed (b q : Nat) (p : Prod) (es : List (List Word)) (s : State) : State :=
  if qFixed s q b || qForeign s q p then qPushDrop q p es s else s

/-- Header of a variable entry (R243): LEN and the producer's fields, then the body padded to 8 bytes. -/
def varEntry (len low : Nat) (h1 : Word) (body : List Word) : List Word :=
  let pad := if body.length % 2 = 0 then [] else [(0 : Word)]
  wd (len * 2 ^ 15 + low) :: h1 :: (body ++ pad)

/-- A producer's variable entry larger than the region is refused and counted (R243); else it is written. -/
def qPushVar (q : Nat) (p : Prod) (e : List Word) (s : State) : State :=
  if qVar s q ∧ regionBytes s q < 4 * e.length then s.inc (.Q_STAT_DROP_CNT q) else qPushDrop q p [e] s

/-- Head of the host's pops: the first visible entry that no pop has taken, with its index. -/
def popHead : List QEnt → Option QEnt
  | [] => none
  | e :: r => if e.vis && !e.host then some e else popHead r

/-- Marks the first visible unpopped entry as popped, kept by requester `r` when the queue is variable (R247). -/
def markPopped (r : Option Nat) : List QEnt → List QEnt
  | [] => []
  | e :: l => if e.vis && !e.host then { e with host := true, pin := r } :: l else e :: markPopped r l

/-- Frees what requester `r` keeps (R247). -/
def unpin (r : Nat) (l : List QEnt) : List QEnt := l.map (fun e => if e.pin = some r then { e with pin := none } else e)

/-- Words of an entry that pops read (R246): all of a fixed entry, the header of a variable one. -/
def readable (s : State) (q : Nat) (e : QEnt) : List Word :=
  if s.get (.Q_CFG_ESIZE q) = 5 then (entWords s q e).take 2 else entWords s q e

/-- A pop by requester `r` (R244): the head entry goes into the shadow; an empty queue leaves an empty shadow. An unread word 1 of the
shadow before counts as lost. -/
def popNext (r q : Nat) (s : State) : State :=
  let sh := s.psh q r
  let s0 := if sh.words ≠ [] ∧ ¬ sh.hiDone then s.inc (.Q_LOST_LOST_HALF q) else s
  let s1 := qStore q (unpin r (s0.queue q).ents) s0
  let x := s1.queue q
  match (if s.is (.Q_CFG_HOST q) && qOn s q then popHead x.ents else none) with
  | none => s1.setPsh q r { disp := sh.disp }
  | some e =>
    let var := s.get (.Q_CFG_ESIZE q) == 5
    let s2 := s1.setPsh q r { words := readable s1 q e, pos := 1, seen := x.wcnt, disp := x.disp, dup := e.dup,
                              addr := if var then 0x800000 + 4 * qmemIx s1 q (e.pos + 8) else 0,
                              ovwr := decide (sh.disp ≠ x.disp) }
    let s3 := if e.dup then s2.put (.Q_DUP_LEFT q) (s2.get (.Q_DUP_LEFT q) - 1) else s2
    qStore q (markPopped (if var then some r else none) x.ents) s3

/-- The value a read of `Q_POP_LO` returns (R244). -/
def popLoVal (r q : Nat) (s : State) : Word :=
  let sh := (popNext r q s).psh q r
  if sh.words = [] then 0xC0 else sh.words.getD 0 0

/-- The effect of a read of `Q_POP_LO`. -/
def popLo (r q : Nat) (s : State) : State := popNext r q s

/-- The value a read of `Q_POP_HI` returns (R245). -/
def popHiVal (r q : Nat) (s : State) : Word := (s.psh q r).words.getD 1 0

/-- The effect of a read of `Q_POP_HI` (R245, R246): NEWER afresh, HI_DONE, or NO_LO with an empty shadow. -/
def popHi (r q : Nat) (s : State) : State :=
  let sh := s.psh q r
  if sh.words = [] then s.setPsh q r { sh with noLo := true, newer := false }
  else s.setPsh q r { sh with newer := decide (sh.seen < (s.queue q).wcnt), hiDone := true, noLo := false,
                              pos := if sh.pos = 1 then 2 else sh.pos }

/-- A stream read pops when the shadow is empty or read to its end (R246). -/
def streamPops (r q : Nat) (s : State) : Bool :=
  let sh := s.psh q r
  decide (sh.words = []) || decide (sh.words.length ≤ sh.pos)

/-- The value a read of `Q_POP_STREAM` returns (R246). -/
def popStreamVal (r q : Nat) (s : State) : Word :=
  if streamPops r q s then popLoVal r q s else (s.psh q r).words.getD (s.psh q r).pos 0

/-- The effect of a read of `Q_POP_STREAM` (R246): a read of word 1 counts as a read of `Q_POP_HI` for LOST_HALF and HI_DONE. -/
def popStream (r q : Nat) (s : State) : State :=
  if streamPops r q s then popLo r q s
  else
    let sh := s.psh q r
    if sh.pos = 1 then
      s.setPsh q r { sh with pos := 2, hiDone := true }
    else s.setPsh q r { sh with pos := sh.pos + 1 }

/-- `Q_POP_ST` as requester `r` reads it (R248). -/
def popSt (r q : Nat) (s : State) : Word :=
  let sh := s.psh q r
  wd (mk [(b2n (decide (sh.words = [])), 31), (b2n sh.newer, 30), (b2n sh.dup, 29), (b2n sh.ovwr, 28), (b2n sh.noLo, 27),
    (b2n sh.hiDone, 26), (min (popLevel s q) 0xFFFFFF, 0)])

/-- The log engine or export takes the head entry: the first visible entry its consumer has not passed. -/
def logHead : List QEnt → Option QEnt
  | [] => none
  | e :: r => if e.vis && !e.log then some e else logHead r

def expHead : List QEnt → Option QEnt
  | [] => none
  | e :: r => if e.vis && !e.exp then some e else expHead r

def markLogged : List QEnt → List QEnt
  | [] => []
  | e :: l => if e.vis && !e.log then { e with log := true } :: l else e :: markLogged l

def markExported : List QEnt → List QEnt
  | [] => []
  | e :: l => if e.vis && !e.exp then { e with exp := true } :: l else e :: markExported l

/-- The order in which R233 places queues. -/
def placeOrder : List Nat := (List.range 8).map (· + 120) ++ List.range 120

/-- Empties a queue; `nofit`: its region finds no place (R233). -/
def qEmpty (q : Nat) (nofit : Bool) (s : State) : State :=
  { ((s.put (.Q_DUP_LEFT q) 0).setQueue q { nofit := nofit }) with pops := s.pops.filter (fun p => p.1 / 16 ≠ q) }

/-- Places one queue at the first 64-byte boundary at or after `at_` (R233); a queue that moves is emptied. -/
def placeOne (q : Nat) (st : State × Nat) : State × Nat :=
  let s := st.1
  let at_ := st.2
  let sz := regionBytes s q
  if ¬ esizeOn (s.get (.Q_CFG_ESIZE q)) then (qEmpty q false (s.put (.Q_STAT_NOMEM q) 0), at_)
  else if qmemBytes < at_ + sz then (qEmpty q true (s.put (.Q_STAT_NOMEM q) 1), at_)
  else
    let moved := s.get (.Q_BASE_BASE q) ≠ at_ ∨ (s.queue q).nofit
    let s1 := (s.put (.Q_STAT_NOMEM q) 0).put (.Q_BASE_BASE q) at_
    ((if moved then qEmpty q false s1 else s1), (at_ + sz + 63) / 64 * 64)

/-- R233: places the enabled queues. Queues in `resized` are emptied with those that move. -/
def placeQueues (resized : List Nat) (s : State) : State :=
  let s0 := s.each resized (fun q s => qEmpty q (s.queue q).nofit s)
  let s1 := (placeOrder.foldl (fun st q => placeOne q st) (s0, 0)).1
  { s1 with queues := s1.queues.map (fun p => (p.1, { p.2 with lossRec := false })) }

/-- R236: recomputes `CH_QBIND.ERR` of every analog channel. -/
def bindErr (s : State) (n : Nat) : Bool :=
  s.is (.CH_QBIND_EN n) && (s.get (.Q_CFG_ESIZE (s.get (.CH_QBIND_Q n))) ≠ 1 || boundCh s (s.get (.CH_QBIND_Q n)) ≠ some n)

def rebind (s : State) : State := s.each anChs (fun n s => s.putB (.CH_QBIND_ERR n) (bindErr s n))

/-- R7, R233, R234: a write of `Q_CFG`. A POLICY of 3 and an ESIZE of 6 or 7 are replaced; a DEPTH out of the range that ESIZE gives is kept and used as the
nearer limit; each with CFG_ADJ. A change of ESIZE or DEPTH re-places the queues. `w` holds the new values of the fields that the write may change. -/
def qCfgApply (q : Nat) (w : Word) (s : State) : State :=
  let e := if 6 ≤ bits w 10 8 then 0 else bits w 10 8
  let d := bits w 20 16
  let p := if bits w 25 24 = 3 then 0 else bits w 25 24
  let adj := (esizeOn e && depthUsed e d ≠ d) || e ≠ bits w 10 8 || p ≠ bits w 25 24
  let old := (s.get (.Q_CFG_ESIZE q), s.get (.Q_CFG_DEPTH q))
  let s1 := (wr (Reg.Q_CFG q) (setBits (setBits w 10 8 e) 25 24 p) s).putB (.Q_STAT_CFG_ADJ q) adj
  let s2 := if old ≠ (e, d) then rebind (placeQueues [q] s1) else s1
  qStore q (s2.queue q).ents s2

/-- State of a bank: 0 FREE, 1 FILLING, 2 HELD (R226). -/
def bankState (s : State) (b : Nat) : Nat := if b = 0 then s.get .EV_DIP_STAT_STATE0 else s.get .EV_DIP_STAT_STATE1

/-- Stores words at consecutive offsets of a bank. -/
def putItems (o : Nat) : List Word → KMap Word → KMap Word
  | [], m => m
  | w :: l, m => putItems (o + 4) l (kset 0 m o w)

/-- What happened at tick `t` still belongs to a bank that has latched at that tick or after it, while the bank fills (R218): `f` brings its items up to it. -/
def dipPatch (t : Nat) (f : KMap Word → KMap Word) (s : State) : State :=
  s.each [0, 1] (fun b s => if bankState s b = 1 ∧ (s.dip b).latched ∧ t ≤ (s.dip b).tick then s.setDip b { s.dip b with items := f (s.dip b).items } else s)

/-- Entries written to queue `q` whose event lies at tick `t` count in the fill level of such a bank; `n` is the level before them. -/
def dipLevel (q t n : Nat) (s : State) : State :=
  dipPatch t (fun m => kset 0 m (0x880 + 4 * q) (wd ((kget 0 m (0x880 + 4 * q)).toNat + qLevel s q - n))) s

end Sys2Proof.Machine
end

