-- ==== Sys2Proof/Machine/Ctx.lean ====
section
/-! DEFINITION. Conversation contexts (spec/11): states, triggers, the start and the end of a run, completion records,
and what every suspension and resumption does. -/

namespace Sys2Proof.Machine

/-- States of R333. -/
def stIdle : Nat := 0
def stReady : Nat := 1
def stRunning : Nat := 2
def stWaiting : Nat := 3
def stBlocked : Nat := 4
def stDone : Nat := 5
def stFaulted : Nat := 6

/-- A run is in progress in READY, RUNNING, WAITING and BLOCKED (R333). -/
def inRun (s : State) (c : Nat) : Bool := 1 ≤ s.get (.CTX_STAT_STATE c) && s.get (.CTX_STAT_STATE c) ≤ 4

/-- Completion codes of R358. -/
def ccOk : Nat := 0x00
def ccFail : Nat := 0x01
def ccTkoUncertain : Nat := 0x20
def ccAborted : Nat := 0x21
def ccProgErr : Nat := 0x22
def ccFetchErr : Nat := 0x23
def ccRunmax : Nat := 0x24
def ccRefused : Nat := 0x25
def ccOnceRetry : Nat := 0x26

/-- Byte offset of an address from `CTX_PROG`. -/
def offOf (s : State) (c a : Nat) : Nat := (a + 2 ^ 32 - s.get (.CTX_PROG_PROG c)) % 2 ^ 32

/-- Takes context `c` off its engine, if an engine executes it (R340). -/
def offEngine (c : Nat) (s : State) : State :=
  let s1 := { s with engs := s.engs.filter (fun p => p.2.ctx ≠ some c) }
  (s1.put (.CTX_STAT_ON_ENG c) 0).put (.CTX_STAT_ENG c) 0

/-- Puts a context in a state, with the reason of a wait. -/
def ctxState (c st on : Nat) (s : State) : State := (s.put (.CTX_STAT_STATE c) st).put (.CTX_STAT_WAIT_ON c) on

/-- WAITING for `w`; the engine becomes free (R340). -/
def ctxWait (c on : Nat) (w : Wait) (s : State) : State :=
  (offEngine c (ctxState c stWaiting on s)).modCtx c (fun x => { x with wait := w })

/-- BLOCKED on the resource of WAIT_ON `on` (R335); `w` is kept where an EXPECT or a transfer goes on waiting. -/
def ctxBlock (c on : Nat) (w : Wait) (s : State) : State :=
  let s1 := (offEngine c (ctxState c stBlocked on s)).modCtx c (fun x => { x with wait := w, blockNo := s.blockCtr })
  { s1 with blockCtr := s.blockCtr + 1 }

/-- The awaited condition is met: READY (R334), execution goes on at `pc`. -/
def ctxResume (c pc : Nat) (s : State) : State :=
  (ctxState c stReady 0 s).modCtx c (fun x => { x with wait := .none, pc := pc })

/-- READY with the wait kept, to be tested again. -/
def ctxReady (c : Nat) (s : State) : State := ctxState c stReady 0 s

/-- Frees the check-value unit that context `c` holds (R335, R395). -/
def freeCv (c : Nat) (s : State) : State :=
  { s with cvs := s.cvs.map (fun p => if p.2.hold = .ctx c then (p.1, {}) else p)
      |>.filter (fun p => p.2 ≠ {}) }

/-- Discards the reservation that context `c` has in its result queue (R393). -/
def dropResv (c : Nat) (s : State) : State :=
  match (s.ctx c).resv with
  | none => s
  | some (q, pos) =>
    (qStore q ((s.queue q).ents.filter (fun e => e.vis || e.pos ≠ pos)) s).modCtx c (fun x => { x with resv := none, resvBytes := [] })

/-- The checkpoint record that the context's present state gives (R353). -/
def ckptOf (s : State) (c pc : Nat) (once : Bool) (onceAt : Nat) : Ckpt :=
  let x := s.ctx c
  { once := once, onceAt := onceAt, pc := pc,
    v := (List.range 16).map (fun i => rd s (Reg.CTX_V c i)), td := x.td,
    seq := rd s (Reg.CTX_SEQ c), rxValid := s.is (.CTX_STAT_RX_VALID c), used := x.used, k := x.k, retryPt := x.retryPt,
    cv := (s.cvs.find? (fun p => p.2.hold = .ctx c)).map (fun p => p.2.run) }

/-- A standby holds committed state (R353): IN_STEP or WARM. -/
def hasStandby (s : State) : Bool := s.sv.stby = .inStep || s.sv.stby = .warm

/-- `CTX_CKPT` for a committed record (R364). -/
def showCkpt (c : Nat) (r : Ckpt) (s : State) : State :=
  ((s.put (.CTX_CKPT_VALID c) 1).putB (.CTX_CKPT_ONCE c) r.once).put (.CTX_CKPT_OFFSET c) (offOf s c r.pc)

/-- Writes a checkpoint record; without a standby it counts as committed at once (R353). -/
def writeCkpt (c : Nat) (r : Ckpt) (s : State) : State :=
  let s1 := s.modCtx c (fun x => { x with ckpt := some r, onceAt := r.onceAt, ckptNo := x.ckptNo + 1 })
  if hasStandby s then s1 else showCkpt c r s1

/-- `CTX_TINFO` from a trigger record (R338, R364). -/
def putTinfo (c : Nat) (r : TrigRec) (s : State) : State :=
  wr (Reg.CTX_TINFO c 3) (wd (r.time / 2 ^ 32)) (wr (Reg.CTX_TINFO c 2) (wd r.time) (wr (Reg.CTX_TINFO c 1) r.value
    (wr (Reg.CTX_TINFO c 0) (wd (r.cause % 64 * 2 ^ 24 + r.source % 2 ^ 16)) s)))

/-- The start of a run (R332, R334, R338, R353, R371): READY, with the trigger record and a run-start record. -/
def startRun (c : Nat) (r : TrigRec) (s : State) : State :=
  let prog := s.get (.CTX_PROG_PROG c)
  let s1 := ctxState c stReady 0 s
  let s2 := ((s1.put (.CTX_STAT_PEND c) 0).put (.CTX_STAT_TKO c) 0).put (.CTX_STAT_ONCE_OPEN c) 0
  let s3 := putTinfo c r (s2.incWrap (.CTX_RUNS_RUNS c))
  let s4 := s3.modCtx c (fun x => { x with
    pc := prog, zf := false, nf := false, cf := false, vf := false, ff := false, td := [], used := 0, k := 0,
    retryPt := prog, retryPre := false, inResync := false, p := false, inbox := [], cur := none, evOff := false, evAbs := false,
    pend := none, wait := .none, resv := none, resvBytes := [], budget := false, began := clk s, onceAt := 0 })
  writeCkpt c (ckptOf s4 c prog false 0) s4

/-- Counts a lost trigger (R337). -/
def trigLost (c : Nat) (s : State) : State := (s.inc (.CTX_CNT_TRIG_LOST c)).modCtx c (fun x => { x with lost := true })

/-- Contexts run in RUN, LEAN and DOZE, and are held while the module wakes (R530, R538). -/
def ctxsHeld (s : State) : Bool := s.pw.power = 4 || s.pw.power = 5

/-- A context that only a KICK may start (R334). -/
def halted (s : State) (c : Nat) : Bool := s.get (.CTX_STAT_STATE c) = stFaulted && s.is (.CTX_CFG_HALT_ON_FAULT c)

/-- A trigger reaches a context (R334, R336, R337). `kick`: KICK is among its causes. -/
def acceptTrig (c : Nat) (r : TrigRec) (kick : Bool) (s : State) : State :=
  if ¬ s.is (.CTX_CFG_EN c) then s
  else if halted s c ∧ ¬ kick then trigLost c s
  else if inRun s c ∨ ctxsHeld s then
    if s.is (.CTX_STAT_PEND c) then trigLost c s
    else (s.set1 (.CTX_STAT_PEND c)).modCtx c (fun x => { x with pend := some r })
  else startRun c r s

/-- The record that event `t` makes for context `c` if the context's settings select it (R336, R338, R364). -/
def trigHit (s : State) (c : Nat) : Trig → Option TrigRec
  | .sch j arg inst =>
    if s.is (.CTX_TRIG_SCH_EN c) ∧ s.get (.CTX_TRIG_SCH c) = j then some ⟨1, j, wd arg, inst⟩ else none
  | .pen ty cls ix v t =>
    let want := s.get (.CTX_TRIG_PEN_TYPE c)
    if s.is (.CTX_TRIG_PEN_EN c) ∧ (want = 0 ∨ want = ty) ∧
        (s.is (.CTX_TRIG_PEN_ANY_SRC c) ∨ (s.get (.CTX_TRIG_PEN_SRC_CLASS c) = cls ∧ s.get (.CTX_TRIG_PEN_SRC_INDEX c) = ix)) then
      some ⟨2, cls * 2 ^ 12 + ix, v, t⟩ else none
  | .di n level ts =>
    let e := s.get (.CTX_TRIG_DI_EDGE c)
    if s.is (.CTX_TRIG_DI_EN c) ∧ s.get (.CTX_TRIG_DI_N c) = n ∧ isDI n ∧ (e = 3 ∨ e = (if level then 1 else 2)) then
      some ⟨4, n, wd (b2n level), ts⟩ else none
  | .cmp src cond w t =>
    let k := s.get (.CTX_TRIG_CMP_COND c)
    if s.is (.CTX_TRIG_CMP_EN c) ∧ s.get (.CTX_TRIG_CMP_SRC c) = src ∧ src < 160 ∧ (k = cond ∨ (k = 0 ∧ cond ≠ 3)) then
      some ⟨16, src, w, t⟩ else none

/-- The place of a single cause in the table of R338: SCH, PEN, DI, CMP, KICK. -/
def causeRank (k : Nat) : Nat := if k = 1 then 0 else if k = 2 then 1 else if k = 4 then 2 else if k = 16 then 3 else 4

/-- The first of some records in the table's order. -/
def firstCause (r : TrigRec) (l : List TrigRec) : TrigRec := l.foldl (fun b x => if causeRank x.cause < causeRank b.cause then x else b) r

/-- Several causes that arrive together form one trigger (R337): all causes, and the first in R338's order. -/
def mergeHits : List TrigRec → Option TrigRec
  | [] => none
  | r :: rs =>
    some { firstCause r rs with cause := rs.foldl (fun m x => m ||| x.cause) r.cause }

/-- The contexts whose `CTX_CFG.EN` is 1: those whose `CTX_CFG` differs from its reset value. -/
def enabledCtxs (s : State) : List Nat :=
  (s.regs.filterMap (fun p => if 0x40000 ≤ p.1 ∧ p.1 < 0x4A000 ∧ p.1 % 0x100 = 0 then some ((p.1 - 0x40000) / 0x100) else none)).filter
    (fun c => s.is (.CTX_CFG_EN c))

/-- Triggers that the standby decides for itself (R251, R355): schedules, inputs, and pennants that both domains raise. -/
def Trig.byBoth : Trig → Bool
  | .sch _ _ _ => true
  | .di _ _ _ => true
  | .pen _ cls _ _ _ => cls != 4
  | .cmp _ _ _ _ => false

/-- Triggers that come after the last committed epoch, up to the end of a takeover, reach idle contexts again at it (R355). -/
def noteTrigs (ts : List Trig) (s : State) : State :=
  if s.sv.stby = .inStep ∨ s.sv.tkoFrom.isSome then { s with ltrigs := s.ltrigs ++ [ts.filter Trig.byBoth] } else s

/-- What context `c` makes of events decided together (R336, R337). -/
def hitOf (s : State) (c : Nat) (ts : List Trig) : Option TrigRec := mergeHits (ts.filterMap (trigHit s c))

/-- Events decided together, in R338's order, trigger the contexts that select them (R336, R337). -/
def fireTrigs (ts : List Trig) (s : State) : State :=
  (noteTrigs ts s).each (enabledCtxs s) (fun c s =>
    match hitOf s c ts with
    | some r => acceptTrig c r false s
    | none => s)

/-- Word 0 of a completion or signal record (R357). -/
def recWord0 (s : State) (c kind code : Nat) : Word :=
  wd (mk [(kind, 24), (code, 16), (b2n (halfMast s), 15), (s.get (.CTX_STAT_TKO c), 14), (b2n (kind = 1 && (s.ctx c).budget), 13),
    (b2n (kind = 1 && (s.ctx c).lost), 12), (c, 0)])

/-- A completion or signal record (R357). -/
def ctxRecord (s : State) (c kind code : Nat) (value : Word) : List Word :=
  [recWord0 s c kind code, value, wd (now s), wd (s.get (.CTX_RUNS_RUNS c) % 65536 * 65536 + now s / 2 ^ 32 % 65536)]

/-- Writes a record to Q124, which must have 16-byte entries (R357), and raises CTX when asked and written (R359). -/
def pushCtxRecord (w : List Word) (irq : Bool) (s : State) : State :=
  let ok := qFixed s 124 16 && qAccepts s 124 .active 16
  let s1 := qPushFixed 16 124 .active [w] s
  if irq ∧ ok then raiseIrq irqCtx s1 else s1

/-- Something that kept the module from being quiet ends (R535, R536). -/
def unquiet (s : State) : State := s.modPw (fun w => { w with quietAt := clk s })

/-- What the end of a run gives up: engine, unit, reservation, inbox, current frame, latched events, ONCE step. -/
def releaseRun (c : Nat) (s : State) : State :=
  unquiet <| (freeCv c (dropResv c (offEngine c s))).modCtx c (fun x => { x with
    inbox := [], cur := none, evOff := false, evAbs := false, wait := .none, inResync := false })
  |>.put (.CTX_STAT_ONCE_OPEN c) 0

/-- The end of a run (R334, R337, R344, R357 to R359): state and code, completion record, what the run held is given
up, a pending trigger starts the next run, and CMP triggers fire. -/
def endRun (c code : Nat) (value : Word) (s : State) : State :=
  let ok := code == ccOk
  let r := ctxRecord s c 1 code value
  let wants := if ok then s.is (.CTX_CFG_REC_OK c) else s.is (.CTX_CFG_REC_FAIL c)
  let irq := if ok then s.is (.CTX_CFG_IRQ_OK c) else s.is (.CTX_CFG_IRQ_FAIL c)
  let s1 := (ctxState c (if ok then stDone else stFaulted) 0 (releaseRun c s)).put (.CTX_STAT_LAST_CODE c) code
  let s2 := (s1.when wants (pushCtxRecord r irq)).modCtx c (fun x => { x with lost := false, budget := false })
  let s3 := match (s2.ctx c).pend with
    | some p => if s2.is (.CTX_STAT_PEND c) then startRun c p s2 else s2
    | none => s2
  fireTrigs [.cmp c (if ok then 1 else 2) (r.getD 0 0) (now s)] s3

/-- Ends the run with PROG_ERR at the instruction at `pc` (R399). -/
def progErr (c pc : Nat) (s : State) : State := endRun c ccProgErr (wd (offOf s c pc)) s

/-- A port event for the contexts bound to port `p` (R343, R345): latched in contexts with a run in progress. -/
def latchPort (p : Nat) (off : Bool) (s : State) : State :=
  s.each (enabledCtxs s) (fun c s =>
    if inRun s c ∧ s.get (.CTX_PARTNER_KIND c) = 1 ∧ s.get (.CTX_PARTNER_PORT c) = p then
      s.modCtx c (fun x => if off then { x with evOff := true, offAt := if x.evOff then x.offAt else clk s }
                           else { x with evAbs := true, absAt := if x.evAbs then x.absAt else clk s })
    else s)

/-- Bytes of AF and data that an inbox frame keeps (R344): 64. -/
def cutFrame (e : RxEnt) : RxEnt :=
  let keep := if (bits e.frame.idw 31 31) = 1 then 60 else 64
  { e with frame := { e.frame with data := e.frame.data.take keep }, trunc := e.trunc || keep < e.frame.data.length }

/-- A frame delivered to a context enters its inbox, or is discarded and counted (R344). -/
def inboxPut (c : Nat) (e : RxEnt) (s : State) : State :=
  if inRun s c ∧ (s.ctx c).inbox.length < 4 then s.modCtx c (fun x => { x with inbox := x.inbox ++ [{ cutFrame e with at_ := clk s }] })
  else s.inc (.CTX_CNT_RX_DROP c)

end Sys2Proof.Machine
end

