-- ==== Sys2Proof/Machine/Events.lean ====
section
/-! DEFINITION. Pennants, event records and FAULT_N (spec/07, spec/03 R85, spec/16 R516). -/

namespace Sys2Proof.Machine

/-- FLAGS of a pennant (R212), bits 23 to 16 of word 0. -/
structure PFlags where
  irq : Bool := false
  up : Bool := false
  init : Bool := false
  late : Bool := false
  suppr : Bool := false
  test : Bool := false
  tko : Bool := false
  deriving DecidableEq, Repr

/-- A pennant's words (R212). HM is set at half-mast (R213). -/
def pennantWords (s : State) (ty : Nat) (f : PFlags) (cls ix : Nat) (value : Word) (time : Nat) : List Word :=
  [wd (mk [(ty, 24), (b2n f.irq, 23), (b2n f.up, 22), (b2n f.init, 21), (b2n f.late, 20), (b2n f.suppr, 19), (b2n f.test, 18),
    (b2n f.tko, 17), (b2n (halfMast s), 16), (cls, 12), (ix % 4096, 0)]), value, wd time, wd (time / 2 ^ 32)]

/-- Writes a pennant to the pennant queue (R211): counted when written, else lost and counted. -/
def writePennant (p : Prod) (w : List Word) (irq : Bool) (s : State) : State :=
  let q := s.get .EV_CFG_PEN_Q
  if qFixed s q 16 && qAccepts s q p 16 then
    let s1 := (qPush q p [w] s).inc .EV_STAT_PEN_CNT
    if irq then raiseIrq irqPen s1 else s1
  else
    let s1 := qPushFixed 16 q p [w] s
    raiseIrq irqPenDrop (s1.inc .EV_STAT_PEN_LOST)

/-- A pennant to be raised (R212). -/
structure Pen where
  ty : Nat
  flags : PFlags := {}
  cls : Nat := 0
  ix : Nat := 0
  value : Word := 0
  time : Nat := 0
  deriving DecidableEq, Repr

/-- Writes one pennant (R211, R212); a dip counts it at the tick of its event (R218). -/
def writePen (p : Prod) (x : Pen) (s : State) : State :=
  dipLevel (s.get .EV_CFG_PEN_Q) x.time (qLevel s (s.get .EV_CFG_PEN_Q)) <| writePennant p (pennantWords s x.ty x.flags x.cls x.ix x.value x.time) x.flags.irq s

/-- Raises pennants decided together: they are written in order, and trigger contexts as their events are decided (R211, R214, R336, R337). -/
def raisePennants (p : Prod) (l : List Pen) (s : State) : State :=
  fireTrigs (l.map (fun x => .pen x.ty x.cls x.ix x.value x.time)) (s.each l (writePen p))

/-- Raises one pennant. -/
def raisePennant (p : Prod) (ty : Nat) (f : PFlags) (cls ix : Nat) (value : Word) (time : Nat) (s : State) : State :=
  raisePennants p [{ ty := ty, flags := f, cls := cls, ix := ix, value := value, time := time }] s

/-- Whether FAULT_N is asserted by a diagnostic bit (R85): an active bit, or the latched PAIR_CONFLICT, under its mask. -/
def diagFault (s : State) (n : Nat) : Bool :=
  (s.get (.CH_DIAG_ACTIVE n) % 2048 + 2048 * (s.get (.CH_DIAG_LATCHED n) / 2048)) &&& s.get (.CH_DIAG_MASK_FAULT_EN n) != 0

/-- Some tile has power and exactly one of two facts about it holds. -/
def tileHalf (s : State) (f g : Nat → FldRef) : Bool :=
  (List.range 16).any (fun t => (s.is (f t)) != (s.is (g t)))

/-- The conditions of half-mast that hold (R510). -/
def hmWhy (s : State) : Nat :=
  mk [(b2n (s.sv.stby ≠ .inStep && s.sv.stby ≠ .warm), 0), (b2n (tileHalf s FldRef.TILE_FEED_A_OK FldRef.TILE_FEED_B_OK), 1),
    (b2n (tileHalf s FldRef.TILE_FEED_LINK_A FldRef.TILE_FEED_LINK_B), 2), (b2n (s.is .SV_STAT_ARB_FAULT), 3)]

/-- Whether FAULT_N is asserted (R15, R53, R85, R496, R511, R517, R539): no domain is active, NO_IMAGE, a watchdog that has expired, the
arbiter's heartbeat missing, half-mast with HM_FAULT (not condition 0 alone in a planned absence, R533), or an unmasked diagnostic. -/
def faultN (s : State) : Bool :=
  !s.sv.anyActive || s.pw.power = 6 || s.is .MOD_WDOG_EXPIRED || s.is .SV_STAT_ARB_FAULT
    || (s.is .SV_CFG_HM_FAULT && s.sv.hm && (!s.pw.planned || decide (hmWhy s / 2 ≠ 0)))
    || (List.range 256).any (diagFault s)

/-- A supervisory record (R516): written to Q125, with `MOD_IRQ.SV` set. -/
def svRecord (ty detail dom arg value : Nat) (s : State) : State :=
  let w := [wd (mk [(ty, 24), (detail % 256, 16), (b2n (halfMast s), 15), (dom, 8), (arg % 256, 0)]), wd value, wd (now s),
    wd (now s / 2 ^ 32)]
  raiseIrq irqSv (qPushFixed 16 125 .active [w] s)

/-- New latched diagnostic bits of a channel (R83, R210, R213, R216): `MOD_IRQ.DIAG`, and a DIAG event when enabled. -/
def diagLatch (n newBits : Nat) (s : State) : State :=
  let fresh := newBits &&& (0xFFF ^^^ s.get (.CH_DIAG_LATCHED n))
  if fresh = 0 then s else
    let s1 := raiseIrq irqDiag (s.put (.CH_DIAG_LATCHED n) (s.get (.CH_DIAG_LATCHED n) ||| fresh))
    if s.is .EV_CFG_DIAG_PEN then
      raisePennant .both 0x06 {} 0 n (wd (fresh * 65536 + s.get (.CH_DIAG_ACTIVE n))) (now s) s1
    else s1

/-- Sets the active diagnostic bits of mask `m`, and with them their latched bits (R83): bits found together make one event (R210). -/
def diagSet (n m : Nat) (s : State) : State :=
  if m = 0 then s else diagLatch n m (s.put (.CH_DIAG_ACTIVE n) (s.get (.CH_DIAG_ACTIVE n) ||| m))

/-- Those of the diagnostic bits of mask `m` that can be detected and are not active: what a detection of `m` sets. -/
def diagNew (can : Nat → Bool) (s : State) (n m : Nat) : Nat :=
  mk ((List.range 12).map (fun b => (b2n (m.testBit b && can b && !(s.get (.CH_DIAG_ACTIVE n)).testBit b), b)))

/-- Clears an active diagnostic bit. -/
def diagClear (n b : Nat) (s : State) : State :=
  s.put (.CH_DIAG_ACTIVE n) (s.get (.CH_DIAG_ACTIVE n) &&& (0xFFF ^^^ 2 ^ b))

/-- Whether diagnostic bit `b` of channel `n` is active or latched. -/
def diagActive (s : State) (n b : Nat) : Bool := (s.get (.CH_DIAG_ACTIVE n)).testBit b
def diagLatched (s : State) (n b : Nat) : Bool := (s.get (.CH_DIAG_LATCHED n)).testBit b

end Sys2Proof.Machine
end

