-- ==== Sys2Proof/Machine/Filter.lean ====
section
/-! DEFINITION. The arithmetic of a filter chain (spec/06, R169 to R178, R182; R156), as functions of the modulator
periods from which one output is computed. Lists run from the newest element to the oldest; what lies before the chain's
last reset is not in the list and counts as 0. -/

namespace Sys2Proof.Machine

/-- `rnd_shift` of R170: an arithmetic right shift that rounds ties toward +∞. -/
def rndShift (v : Int) (s : Nat) : Int := if s = 0 then v else (v + 2 ^ (s - 1)) / 2 ^ s

/-- `pass` of R170: a value between stages, as a 32-bit two's complement word. -/
def pass (v : Int) : Int := clampI (-2147483648) 2147483647 v

/-- Whether `pass` clamps. -/
def passOvf (v : Int) : Bool := decide (pass v ≠ v)

/-- Rounding half away from zero of a / b, for b > 0 (R155, R156). -/
def divAway (a : Int) (b : Nat) : Int :=
  if 0 ≤ a then (2 * a + b) / (2 * b) else -((2 * (-a) + b) / (2 * b))

/-- The parameters of a chain (R171 to R174) as they apply, LEAN included. -/
structure Par where
  order : Nat
  ratio : Nat
  norm : Nat
  hbn : Nat
  taps : List Int
  dec : Nat
  a1 : Nat
  a2 : Nat
  m2 : Nat
  sh1 : Nat
  sh2 : Nat
  sh3 : Nat
  sh4 : Nat
  deriving DecidableEq, Repr

/-- RATIO as the CIC stage uses it: 1 with ORDER 0 (R171). -/
def Par.r (p : Par) : Nat := if p.order = 0 then 1 else p.ratio

/-- DEC as the FIR stage uses it: 1 with TAPS 0 (R177). -/
def Par.f (p : Par) : Nat := if p.taps.isEmpty then 1 else p.dec

/-- The decimation D of a chain (R177). -/
def Par.d (p : Par) : Nat := p.r * 2 ^ p.hbn * p.f * p.a1 * p.m2

/-- The sum of the half-band terms of R182: every stage but the last has the short kernel. -/
def hbTerm (r : Nat) : Nat → Nat → Nat
  | _, 0 => 0
  | k, 1 => 22 * (r * 2 ^ k)
  | k, h + 1 => 6 * (r * 2 ^ k) + hbTerm r (k + 1) h

/-- The span L of a chain (R182). -/
def Par.span (p : Par) : Nat :=
  1 + (if p.order = 0 then 0 else p.order * (p.ratio - 1)) + hbTerm p.r 0 p.hbn
    + (p.taps.length - 1) * (p.r * 2 ^ p.hbn)
    + ((p.a1 - 1) + (p.a2 - 1) * p.a1) * (p.r * 2 ^ p.hbn * p.f)

/-- Every k-th element, the next one after `c` more. -/
def pick (k : Nat) : Nat → List Int → List Int
  | _, [] => []
  | 0, x :: l => x :: pick k (k - 1) l
  | c + 1, _ :: l => pick k c l

/-- The sum of the first `r` elements from every position on: an integrator and a comb. -/
def box (r : Nat) : List Int → List Int
  | [] => []
  | x :: l => ((x :: l).take r).sum :: box r l

/-- `o` integrators and `o` combs (R171). -/
def boxes (r : Nat) : Nat → List Int → List Int
  | 0, l => l
  | o + 1, l => boxes r o (box r l)

/-- Σ c_j × x_(newest − j). -/
def dot (c l : List Int) : Int := (List.zipWith (· * ·) c l).sum

/-- The convolution with coefficients `c` at every position. -/
def conv (c : List Int) : List Int → List Int
  | [] => []
  | x :: l => dot c (x :: l) :: conv c l

/-- The kernels of R172. -/
def hbShort : List Int := [-1, 0, 9, 16, 9, 0, -1]
def hbLong : List Int := [-2706, 0, 15300, 0, -30400, 0, 56150, 0, -108200, 0, 332000, 524288,
  332000, 0, -108200, 0, 56150, 0, -30400, 0, 15300, 0, -2706]

/-- Rounds and passes the values of a stage; tells whether one of the newest `n` values clamped. -/
def stage (s n : Nat) (l : List Int) : List Int × Bool :=
  (l.map (fun v => pass (rndShift v s)), (l.take n).any (fun v => passOvf (rndShift v s)))

/-- The half-band cascade (R172) without SH2; `n` values are new at its input. -/
def hbStages : Nat → Nat → List Int × Bool → List Int × Bool
  | 0, _, l => l
  | h + 1, n, l =>
    let k := if h = 0 then hbLong else hbShort
    let o := stage (if h = 0 then 20 else 5) (n / 2) (pick 2 0 (conv k l.1))
    hbStages h (n / 2) (o.1, l.2 || o.2)

/-- The chain output x before clipping (R169 to R174), and whether an intermediate value clamped since the output before,
from the input words of the span. -/
def chainX (p : Par) (w : List Int) : Int × Bool :=
  let n1 := p.d / p.r
  let c1 := if p.order = 0 then w else (pick p.ratio 0 (boxes p.ratio p.order w)).map (fun v => sext 64 (toU 64 v))
  let o1 := stage (23 + p.sh1) n1 (c1.map (fun v => v * (p.norm : Int)))
  let h := hbStages p.hbn n1 o1
  let n2 := n1 / 2 ^ p.hbn
  let o2 := stage p.sh2 n2 h.1
  let o3 := if p.taps.isEmpty then (o2.1, false) else stage p.sh3 (n2 / p.dec) (pick p.dec 0 (conv p.taps o2.1))
  let aw := p.a1 * p.a2
  let q := (2 * (o3.1.take aw).sum + aw) / (2 * aw)
  (rndShift q p.sh4, o1.2 || h.2 || o2.2 || o3.2)

/-- A code limited to 24 bits, and whether it was clipped (R139, R156, R175). -/
def clip24 (x : Int) : Int × Bool := (clampI (-8388608) 8388607 x, decide (clampI (-8388608) 8388607 x ≠ x))

/-- The calibration correction of R156. -/
def calCorrect (x ofs : Int) (gain : Nat) : Int × Bool := clip24 (divAway ((x - ofs) * gain) 8388608)

/-- The input word of a modulator code (R169). -/
def codeWord (c : Nat) : Int := ((c : Int) - 2) * 4194304

end Sys2Proof.Machine
end

