-- ==== Sys2Proof/Machine/Chain.lean ====
section
/-! DEFINITION. Filter chains as units of the machine: presets (R178 to R194), regimes and resets (R184 to R187), SYNC
(R140 to R143), and what the delivery of a sample does (R185, R195, R202 to R206, R236 to R241, R249). -/

namespace Sys2Proof.Machine

/-- Acquisition runs in RUN and LEAN (R530). -/
def acqRuns (s : State) : Bool := s.pw.power = 1 || s.pw.power = 2

/-- Whether fM is at its LEAN rate (R163). -/
def fmLean (s : State) : Bool := s.is .CA_STAT_LEAN

/-- Ticks of a modulator period (R133). -/
def perTicks (lean : Bool) : Nat := if lean then 64 else 16

def per (s : State) : Nat := perTicks (fmLean s)

/-- The first modulator edge at or after tick `t` (R133). -/
def edgeAt (s : State) (t : Nat) : Nat := (t + per s - 1) / per s * per s

/-- The taps of a preset record in use (R173, R201). -/
def prTaps (s : State) (x : Nat) : List Int :=
  (List.range (min 64 (s.get (.PR_FILT_TAPS x)))).map (fun j => sext 24 (s.get (.PR_TAP_TAP x j)))

/-- The parameters of preset `x` as stored, with own shifts in place of the preset's (R192). -/
def prPar (s : State) (x : Nat) (own : Option Word) : Par :=
  let sh := own.getD (rd s (Reg.PR_SHIFT x))
  { order := s.get (.PR_CIC_ORDER x), ratio := s.get (.PR_CIC_RATIO x), norm := s.get (.PR_NORM_NORM x),
    hbn := s.get (.PR_FILT_HBN x), taps := prTaps s x, dec := s.get (.PR_FILT_DEC x), a1 := s.get (.PR_AVG_A1 x),
    a2 := s.get (.PR_AVG_A2 x), m2 := s.get (.PR_AVG_M2 x), sh1 := bits sh 4 0, sh2 := bits sh 12 8, sh3 := bits sh 20 16,
    sh4 := bits sh 28 24 }

/-- LEANDIV divides the CIC ratio by 4 and takes 2 × ORDER from SH1 (R181). -/
def Par.leaned (p : Par) : Par := { p with ratio := p.ratio / 4, sh1 := p.sh1 - 2 * p.order }

/-- The parameters of a regime. -/
def regPar (s : State) (r : Regime) : Par :=
  let p := prPar s r.preset r.own
  if r.lean && s.is (.PR_CIC_LEANDIV r.preset) then p.leaned else p

/-- The smallest e with v ≤ 2^e. -/
def log2Up : Nat → Nat → Nat
  | 0, _ => 0
  | f + 1, v => if v ≤ 1 then 0 else 1 + log2Up f ((v + 1) / 2)

/-- SUPP_CALC of R190. -/
def suppCalc (p : Par) : Nat := (p.span + p.d - 1) / p.d

/-- The count a user preset suppresses (R190). -/
def suppSet (s : State) (x : Nat) (p : Par) : Nat := if s.get (.PR_SUPP_SET x) = 0 then suppCalc p else s.get (.PR_SUPP_SET x)

/-- R189: whether a user preset record is in error. -/
def prErr (s : State) (x : Nat) : Bool :=
  let p := prPar s x none
  let ld := s.is (.PR_CIC_LEANDIV x)
  decide (5 ≤ p.order) || (decide (1 ≤ p.order) && p.ratio == 0) || decide (40 < p.order * log2Up 17 p.ratio)
    || p.hbn == 7 || decide (64 < s.get (.PR_FILT_TAPS x)) || (s.get (.PR_FILT_TAPS x) != 0 && p.dec == 0)
    || p.a1 == 0 || p.a2 == 0 || p.m2 == 0 || decide (p.a2 < p.m2) || decide (p.d < 96) || decide (4294967295 < p.span)
    || (ld && (p.order == 0 || p.ratio % 4 != 0 || decide (p.sh1 < 2 * p.order))) || decide (255 < suppSet s x p)

/-- R191: whether |G_dc − 1| exceeds 2^−23. -/
def dcgNe1 (p : Par) : Bool :=
  let t : Int := if p.taps.isEmpty then 1 else p.taps.sum
  let num : Int := (p.r ^ p.order * p.norm : Nat) * t
  let den : Int := 2 ^ (23 + p.sh1 + p.sh2 + p.sh4 + (if p.taps.isEmpty then 0 else p.sh3))
  decide (den < (num - den).natAbs * 2 ^ 23)

/-- D in LEAN periods is below 384 (R181). -/
def leanNa (s : State) (x : Nat) : Bool :=
  let p := prPar s x none
  decide ((if s.is (.PR_CIC_LEANDIV x) then p.leaned else p).d < 384)

/-- A user preset's RO fields, recomputed whenever the record changes (R201). What a record in error has no value of reads 0: its span, decimation and delay, and
its suppression count (assumption log 83). -/
def prRefresh (x : Nat) (s : State) : State :=
  let e := prErr s x
  let p := prPar s x none
  let v := fun n => if e then 0 else n
  let s1 := s.putB (.PR_STAT_ERR x) e |>.putB (.PR_STAT_DCG_NE1 x) (dcgNe1 p)
    |>.putB (.PR_STAT_SUPP_LOW x) (s.get (.PR_SUPP_SET x) != 0 && decide (s.get (.PR_SUPP_SET x) < suppCalc p))
    |>.putB (.PR_STAT_LEAN_NA x) (leanNa s x) |>.put (.PR_STAT_SUPP_EFF x) (v (suppSet s x p))
    |>.put (.PR_LEN_LEN x) (v p.span) |>.put (.PR_DEC_DEC x) (v p.d) |>.put (.PR_GD_GD x) (v (p.span - 1))
  s1.putB ⟨Reg.FC_STAT, 8 + (x - 8), 8 + (x - 8)⟩ e

/-- The own shifts of channel `n`, where they apply (R192): SHIFT_OWN with a user preset. -/
def ownShift (s : State) (n : Nat) : Option Word :=
  if s.is (.CH_FC_CFG_SHIFT_OWN n) && decide (8 ≤ s.get (.CH_FC_CFG_PRESET n)) then some (rd s (Reg.CH_FC_SHIFT n)) else none

/-- Whether channel `n` could run preset `x` in LEAN (R181). -/
def leanAvail (s : State) (n : Nat) : Bool :=
  let x := s.get (.CH_FC_CFG_PRESET n)
  !s.is (.PR_STAT_LEAN_NA x)
    && (match ownShift s n with
        | some w => !s.is (.PR_CIC_LEANDIV x) || decide (2 * s.get (.PR_CIC_ORDER x) ≤ bits w 4 0)
        | none => true)

/-- Whether a chain would run if acquisition ran at fM's present rate: enabled, its preset neither in error nor unavailable. -/
def chainFit (s : State) (n : Nat) : Bool :=
  s.is (.CH_FC_CFG_EN n) && !s.is (.PR_STAT_ERR (s.get (.CH_FC_CFG_PRESET n))) && (!fmLean s || leanAvail s n)

/-- Whether a chain runs (R187). The channels of a tile under its IMAGE cause deliver nothing (R540). -/
def chainRuns (s : State) (n : Nat) : Bool :=
  acqRuns s && chainFit s n && s.get .CA_STAT_STATE != 2 && !s.is (.TILE_SAFE_IMAGE (n / 16))

/-- Status bits of `CH_FC_STATE` that follow from the settings (R181, R189, R191, R192, R196). -/
def fcRefresh (n : Nat) (s : State) : State :=
  let x := s.get (.CH_FC_CFG_PRESET n)
  let err := s.is (.PR_STAT_ERR x)
  (s.putB (.CH_FC_STATE_CFG_ERR n) err).putB (.CH_FC_STATE_UNAVAIL n) (fmLean s && !leanAvail s n)
    |>.putB (.CH_FC_STATE_DCG_NE1 n) (decide (8 ≤ x) && dcgNe1 (prPar s x (ownShift s n)))

/-- Ticks between outputs of a regime. -/
def stepTicks (s : State) (r : Regime) : Nat := (regPar s r).d * perTicks r.lean

/-- The completion edge of the first output of regime `r` after tick `t`, on the grid (R144, R177). -/
def gridAfter (s : State) (r : Regime) (t : Nat) : Nat :=
  if t < r.grid then r.grid + stepTicks s r
  else r.grid + ((t - r.grid) / max 1 (stepTicks s r) + 1) * stepTicks s r

/-- The completion edge of the next output of regime `r`, when the last one of the chain completed at `last`. -/
def nextEdge (s : State) (r : Regime) (last : Nat) : Nat := gridAfter s r (max r.anchor last)

/-- The sequence number of the output that completes at edge `e` (R185): 0 for the first grid point after A. -/
def seqOf (s : State) (r : Regime) (e : Nat) : Nat := (e - gridAfter s r r.anchor) / max 1 (stepTicks s r)

/-- SUPP of a regime's preset. -/
def suppOf (s : State) (r : Regime) : Nat := s.get (.PR_STAT_SUPP_EFF r.preset)

/-- Whether the output at edge `e` is suppressed (R185). -/
def suppressed (s : State) (r : Regime) (e : Nat) : Bool := decide (e ≤ r.rst + suppOf s r * stepTicks s r)

/-- The tick up to which outputs of the regime in force complete before one ordered with anchor `a`. -/
def ChainSt.limit (x : ChainSt) (a : Nat) : Nat := match x.upto with | some r => r.at_ | none => a

/-- Whether the next output belongs to the ordered regime: the chain stands, or every output up to the anchor has completed. -/
def duePast (s : State) (x : ChainSt) (r : Regime) : Bool := !x.cur.on || decide (x.limit r.anchor < nextEdge s x.cur x.last)

/-- The analog item of channel `n` in a bank (R218, R225): the last entry's word 0 and its sequence number, and LAST_VALID. -/
def dipLast (n : Nat) (w0 seq : Word) (m : KMap Word) : KMap Word :=
  let a := anIx n
  let m1 := putItems (0x080 + 8 * a) [w0, seq] m
  kset 0 m1 (0x038 + 4 * (a / 32)) (setBits (kget 0 m1 (0x038 + 4 * (a / 32))) (a % 32) (a % 32) (b2n (w0 != 0xC0)))

/-- Takes up the ordered regime when the outputs before its anchor have completed (R184 to R186): the latest value returns to
none (R249), the thresholds' states become undefined (R204), GAP and a RESET anchor are due (R195, R241). -/
def takeUp (n : Nat) (s : State) : State :=
  let x := s.chain n
  match x.nxt with
  | none => s
  | some r =>
    if duePast s x r then
      let last := if x.cur.on && x.upto.isNone then x.last else r.anchor
      let s1 := s.setChain n { x with cur := r, nxt := none, gap := true, step := false, last := last, upto := none }
      let s2 := wr (Reg.CH_LAST n) 0xC0 (wr (Reg.CH_LAST_SEQ n) 0 s1)
      dipPatch r.anchor (dipLast n 0xC0 0) ((wr (Reg.CH_TH_STATE n 0) 0 (wr (Reg.CH_TH_STATE n 1) 0 s2)).put (.CH_FC_STATE_PRESET_EFF n) r.preset)
    else s

/-- Chain `n` as it stands now: an ordered reset whose anchor has come, with every output before it completed, is taken up. -/
def settled (n : Nat) (s : State) : State :=
  match (s.chain n).nxt with
  | some r => if r.anchor ≤ now s then takeUp n s else s
  | none => s

/-- The last delivered sample of channel `n` and its sequence number as they read now (R249). -/
def lastWord (s : State) (n : Nat) : Word := rd (settled n s) (Reg.CH_LAST n)
def lastSeq (s : State) (n : Nat) : Word := rd (settled n s) (Reg.CH_LAST_SEQ n)

/-- A reset still pending (R186): an ordered regime, or one whose last suppressed output has not completed. -/
def pendingReset (s : State) (x : ChainSt) : Option Regime :=
  match x.nxt with
  | some r => some r
  | none =>
    if x.cur.on && suppressed s x.cur (nextEdge s x.cur x.last) && decide (0 < suppOf s x.cur) then
      some (match x.upto with
        | some q => { x.cur with rst := (x.cur.rst + (q.into - q.at_)).toNat }
        | none => x.cur)
    else none

/-- Orders a reset of chain `n` (R184, R186): `r` holds its grid, anchor and reset edge; `sync` tells a SYNC. -/
def orderReset (n : Nat) (sync : Bool) (r : Regime) (s : State) : State :=
  let x := s.chain n
  let r' := match pendingReset s x with
    | some q => if sync then { r with rst := max r.rst q.rst }
                else { r with anchor := min r.anchor q.anchor, rst := max r.rst q.rst, grid := q.grid }
    | none => r
  let s1 := s.setChain n { x with nxt := some r' }
  if r'.anchor ≤ now s then takeUp n s1 else s1

/-- The regime that chain `n` would have from its present settings. -/
def regimeOf (s : State) (n grid anchor rst : Nat) : Regime :=
  { on := chainRuns s n, grid := grid, anchor := anchor, rst := rst, preset := s.get (.CH_FC_CFG_PRESET n), own := ownShift s n,
    lean := fmLean s, pd := s.get (.CH_FC_DELAY_PDELAY n) }

/-- The edge to which the chain's grid is anchored. -/
def gridOf (s : State) (n : Nat) : Nat :=
  match (s.chain n).nxt with
  | some r => r.grid
  | none => (s.chain n).cur.grid

/-- A SYNC's reset of every chain at edge `e` (R140, R184); `disc`: its sources include STEP, LEAN or TAKEOVER, after which the
delay line still holds periods of the old grid. -/
def syncChains (e : Nat) (disc : Bool) (s : State) : State :=
  s.each anChs (fun n s =>
    if chainRuns s n then
      orderReset n true (regimeOf s n e e (if disc then e + s.get (.CH_FC_DELAY_PDELAY n) * per s else e)) s
    else s.setChain n { s.chain n with cur := { regimeOf s n e e e with on := false }, nxt := none, upto := none })

/-- A data discontinuity of a channel (R184, third row): X is the next modulator edge, G = X + P, the grid stays. -/
def discont (n : Nat) (s : State) : State :=
  if chainRuns s n then
    let g := edgeAt s (now s) + s.get (.CH_FC_DELAY_PDELAY n) * per s
    orderReset n false (regimeOf s n (gridOf s n) g g) s
  else s

/-- A change of the phase delay (R183, R184): G = A = X, the first edge at least 2 periods after the write. -/
def delayReset (n : Nat) (s : State) : State :=
  if chainRuns s n then
    let g := edgeAt s (now s + 2 * per s)
    orderReset n false (regimeOf s n (gridOf s n) g g) s
  else s

/-- A change of the preset, the shifts, or of EN to 1 (R184): G = A is the first point of the new preset's grid at least 2 periods after the write.
A chain that the settings stop delivers and numbers nothing (R187). -/
def presetRestart (n : Nat) (s : State) : State :=
  if chainRuns s n then
    let r := regimeOf s n (gridOf s n) 0 0
    let g := gridAfter s r (now s + 2 * per s - 1)
    orderReset n false { r with anchor := g, rst := g } s
  else s.setChain n { s.chain n with cur := { (s.chain n).cur with on := false, grid := gridOf s n, preset := s.get (.CH_FC_CFG_PRESET n) }, nxt := none,
                                        upto := none }

/-- Stops every chain where it stands (R187). -/
def stopChains (s : State) : State :=
  s.each anChs (fun n s => s.setChain n { s.chain n with cur := { (s.chain n).cur with on := false, grid := gridOf s n }, nxt := none, upto := none })

/-- Where tick `t` of a chain's line lies after a change of scale. -/
def Rebase.map (r : Rebase) (t : Int) : Int :=
  if (r.at_ : Int) < t then t - r.at_ + r.into else r.into - ((r.at_ : Int) - t) * r.num / r.den

/-- Dates everything of a chain's phase-delay line anew. -/
def ChainSt.redate (x : ChainSt) (f : Int → Int) : ChainSt :=
  { x with lineAt := x.lineAt.map f, marks := x.marks.map (fun m => (f m.1, f m.2)), tests := x.tests.map (fun m => (f m.1, f m.2)) }

/-- The scale by which the periods of every chain and every tile are dated changes; outputs of a regime in force that completed before stay due. -/
def rebaseAll (r : Rebase) (s : State) : State :=
  (s.each anChs (fun n s =>
    let x := s.chain n
    let u := match x.upto with
      | some q => { q with into := r.map q.into, num := q.num * r.num, den := q.den * r.den }
      | none => r
    s.setChain n { x.redate r.map with upto := if x.cur.on then some u else none })).each (List.range 16) (fun t s =>
    s.modTile t (fun x => { x with slot := x.slot.map (fun p => ((r.map p.1).toNat, p.2)), bad := x.bad.map (fun m => (r.map m.1, r.map m.2)) }))

/-- The modulator clock returns at edge `e` (R135, R187): the periods of the phase-delay lines follow one another as if it had not been absent. A line that has held
nothing yet begins empty there (assumption log 84). -/
def linesResume (e : Nat) (s : State) : State :=
  match s.ca.haltAt with
  | some h =>
    let s1 := s.each anChs (fun n s =>
      let x := s.chain n
      s.setChain n { x.redate (fun t => if (h : Int) < t then max t e else t + (e - h)) with
        upto := if x.cur.on then some { at_ := h, into := e } else none })
    (s1.each (List.range 16) (fun t s => s.modTile t (fun x => { x with slot := x.slot.map (fun p => (p.1 + (e - h), p.2)) }))).modCa
      (fun c => { c with haltAt := none })
  | none => s.each anChs (fun n s => if (s.chain n).lineAt.isNone then s.setChain n { s.chain n with lineAt := some (e : Int) } else s)

/-- A stretch of ticks that has not ended. -/
def openEnd : Int := 2 ^ 80

/-- Whether a stretch has not ended. -/
def isOpen (m : Int × Int) : Bool := decide (2 ^ 79 ≤ m.2)

/-- Begins a stretch at tick `t`, or ends the one that has not ended. -/
def markSet (on : Bool) (t : Int) (l : List (Int × Int)) : List (Int × Int) :=
  if on = l.any isOpen then l else if on then l ++ [(t, openEnd)] else l.map (fun m => if isOpen m then (m.1, t) else m)

/-- Whether a stretch of `l` meets the ticks from `a` to `b`. -/
def within (l : List (Int × Int)) (a b : Int) : Bool := l.any (fun m => decide (m.1 < b) && decide (a < m.2))

/-- What marks the periods of channel `n` from now on: its OVERVOLTAGE bit (R137), and inject mode from the next modulator edge (R121). -/
def noteMarks (n : Nat) (s : State) : State :=
  s.setChain n (let x := s.chain n
  { x with marks := markSet ((s.get (.CH_DIAG_ACTIVE n)).testBit 9) (now s) x.marks, tests := markSet (s.is (.CH_AN_STATE_INJ n)) (edgeAt s (now s)) x.tests })

/-- The start of acquisition at edge `e` (R187): every enabled chain anchors and resets at the modulator edge at which it starts. -/
def startChainsAt (e : Nat) (s : State) : State :=
  (linesResume e (s.each anChs (fun n s => noteMarks n (fcRefresh n s)))).each anChs (fun n s =>
    s.setChain n { s.chain n with nxt := some (regimeOf s n e e e), cur := { (s.chain n).cur with on := false }, upto := none } |> takeUp n)

/-- The start of acquisition at the next modulator edge. -/
def startChains (s : State) : State := startChainsAt (edgeAt s (now s)) s

/-- Sources of a SYNC: bit of `CA_SYNC_INFO.SRC`, less 24 (R165). -/
def srcLand : Nat := 0
def srcReg : Nat := 1
def srcSched : Nat := 2
def srcToken : Nat := 3
def srcStep : Nat := 4
def srcLean : Nat := 5
def srcTakeover : Nat := 6
def srcCal : Nat := 7

/-- Whether a source of SYNC is enabled (R141). -/
def syncEn (s : State) (src : Nat) : Bool :=
  if src = srcLand then s.is .CA_CFG_SYNC_LAND_EN else if src = srcReg then s.is .CA_CFG_SYNC_REG_EN
  else if src = srcSched then s.is .CA_CFG_SYNC_SCHED_EN else if src = srcToken then s.is .CA_CFG_SYNC_TOKEN_EN else true

/-- A SYNC arrives (R141 to R143): it waits for its edge, or is ignored and counted. `tgt`: a target tick. -/
def syncRequest (src : Nat) (tgt : Option Nat) (s : State) : State :=
  if acqRuns s && syncEn s src then
    let early := edgeAt s (now s + 2 * per s)
    let r : SyncReq := match tgt with
      | some t => if t < now s + 2 * per s then { src := src, edge := early, late := true } else { src := src, edge := edgeAt s t }
      | none => { src := src, edge := early }
    s.modCa (fun c => { c with syncs := c.syncs ++ [r] })
  else s.inc .CA_SYNC_INFO_IGN_CNT

/-- The chains' SYNC at edge `e` from the sources of mask `m` (R140, R165). Several on one edge are one (R143). -/
def syncApplyAt (e m : Nat) (late : Bool) (s : State) : State :=
  let s1 := syncChains e (m / 16 % 8 != 0) s
  let same := s.get .CA_SYNC_INFO_SRC != 0 && s.get64 (Reg.CA_SYNC_TS 0) == e
  ((s1.put .CA_SYNC_INFO_SRC (if same then m ||| s.get .CA_SYNC_INFO_SRC else m)).putB .CA_SYNC_INFO_LATE (late || same && s.is .CA_SYNC_INFO_LATE))
  |>.put .CA_SYNC_INFO_COUNT (s.get .CA_SYNC_INFO_COUNT + b2n (!same)) |>.put64 (Reg.CA_SYNC_TS 0) e

/-- What a phase step of `d` ticks does to acquisition at old tick `t` when it is too large to be absorbed (R134): everything is dated by the new scale, SYNCs that
wait for their first possible edge wait for it there, and a SYNC of source STEP comes at the new grid's first edge. -/
def stepSync (t : Nat) (d : Int) (s : State) : State :=
  let s1 := rebaseAll { at_ := t, into := (t : Int) + d } s
  let shift := fun (v : Nat) => ((v : Int) + d).toNat
  let s2 := s1.each anChs (fun n s => s.setChain n { s.chain n with
    nxt := (s.chain n).nxt.map (fun r => { r with grid := shift r.grid, anchor := shift r.anchor, rst := shift r.rst }) })
  s2.modCa (fun c => { c with
    haltAt := c.haltAt.map shift,
    syncs := c.syncs.map (fun q => if q.src ≤ srcReg ∨ q.late then { q with edge := edgeAt s (shift q.edge) } else q)
      ++ (if acqRuns s then [{ src := srcStep, edge := edgeAt s (now s) }] else []) })

/-- A phase step of `TU_NOW` by `d` ticks (R264, R134): small steps are absorbed, larger ones reset every chain at the first edge of the new grid; while acquisition
is stopped that SYNC is ignored and counted (R143). -/
def phaseStep (d : Int) (s : State) : State :=
  if d = 0 then s else
  let s1 := s.modTu (fun t => { t with acc := (((now s : Int) + d) % 2 ^ 64).toNat * 2 ^ 32 + t.acc % 2 ^ 32 })
  let s2 := (s1.set1 .TU_STAT_STEPPED).inc .TU_STAT_STEP_CNT
  if per s / 2 < d.natAbs then (stepSync (now s) d s2).when (!acqRuns s2) (·.inc .CA_SYNC_INFO_IGN_CNT)
  else if acqRuns s2 then s2.each anChs (fun n s => if (s.chain n).cur.on then s.setChain n { s.chain n with step := true } else s)
  else s2

/-- The link frame in which a modulator period that ends at tick `t` travels (R14, R132): the periods that end after the first tick and up to the second (assumption
log 85). -/
def frameOf (t : Int) : Int × Int := ((t - 1) / 512 * 512, (t - 1) / 512 * 512 + 512)

/-- Whether a period that ends at tick `t` travelled in one of the link frames `l`. -/
def inFrame (l : List (Int × Int)) (t : Int) : Bool := l.any (fun m => decide (m.1 < t) && decide (t ≤ m.2))

/-- The periods of channel `n` in its line that travelled in the corrupt frames `l` count as not arrived (R132, R176). -/
def lineSpoil (l : List (Int × Int)) (n : Nat) (s : State) : State :=
  let x := s.chain n
  match x.lineAt with
  | some e => s.setChain n { x with line := x.line.mapIdx (fun k y => if inFrame l (e - k * per s) then { y with code := 2, ovr := true } else y) }
  | none => s

/-- Link frames of tile `t` were corrupt (R132): the other channels' periods in them are lost too, and the frames count in their milliseconds (R494). -/
def framesBad (t : Nat) (l : List (Int × Int)) (s : State) : State :=
  if l = [] then s else
  let s1 := s.modTile t (fun x => { x with bad := (x.bad ++ l).filter (fun m => decide ((now s : Int) < m.2 + 2 ^ 32)) })
  let s2 := s1.modSv (fun v => { v with corrupt := l.foldl (fun k m => kset 0 k t (m.2.toNat / tickMs + 1)) v.corrupt })
  s2.each [12, 13, 14, 15] (fun k s => lineSpoil l (16 * t + k) s)

/-- A period that ends at tick `t` as the line of channel `n` takes it (R137, R138, R121, R176). -/
def linePer (s : State) (n : Nat) (t : Int) (p : Period) : LPer :=
  let x := s.chain n
  let lost := p.lost || decide (4 < p.code) || inFrame (s.tile (n / 16)).bad t
  { code := if lost then 2 else p.code, ovr := p.ovr || lost || within x.marks (t - per s) t, test := within x.tests (t - per s) t }

/-- How many periods a line keeps (R183): what its chain can still need. -/
def lineLen (s : State) (r : Regime) : Nat := 4095 + (regPar s r).span + (regPar s r).d

/-- The line of channel `n` takes the periods that end up to edge `e`; `ps` are those since it was last filled, newest first. One that `ps` does not hold did not
arrive. -/
def lineFill (n : Nat) (e : Int) (ps : List Period) (s : State) : State :=
  let x := s.chain n
  match x.lineAt with
  | none => s
  | some f =>
    let k := ((e - f) / per s).toNat
    let new := (List.range k).map (fun (j : Nat) => (e - j * per s, ps.getD j { lost := true }))
    let s1 := framesBad (n / 16) ((new.filter (fun q => 4 < q.2.code)).map (fun q => frameOf q.1)) s
    let y := s1.chain n
    if k = 0 then s else
    s1.setChain n { y with line := (new.map (fun q => linePer s1 n q.1 q.2) ++ y.line).take (lineLen s1 y.cur), lineAt := some e,
                           marks := y.marks.filter (fun m => decide (e < m.2)), tests := y.tests.filter (fun m => decide (e < m.2)) }

/-- Where edge `e` of the regime in force lies in the line's scale. -/
def lineEdge (x : ChainSt) (e : Nat) : Int := match x.upto with | some r => r.map e | none => e

/-- The periods that the phase-delay line has given to the chain up to edge `e` of the regime in force, newest first, back to the reset edge (R182, R183). -/
def delayed (s : State) (x : ChainSt) (e : Nat) : List LPer :=
  let off := ((x.lineAt.getD 0 - lineEdge x e) / per s).toNat
  (x.line.drop (off + x.cur.pd)).take ((e - x.cur.rst) / perTicks x.cur.lean)

/-- Evaluates threshold `x` of channel `n` on a delivered code (R203 to R205): the state after, and the event raised (UP, INIT). -/
def thEval (n x : Nat) (d : Int) (test : Bool) (s : State) : State × Option (Bool × Bool) :=
  if test && !s.is (.CH_TH_CFG_TEST_OK n x) then (s, none) else
  let level := sext 24 (s.get (.CH_TH_LEVEL_LEVEL n x))
  let hyst : Int := s.get (.CH_TH_HYST_HYST n x)
  let dir := s.get (.CH_TH_CFG_DIR n x)
  let has := fun (up : Bool) => if up then dir % 2 == 1 else dir / 2 == 1
  if ¬ s.is (.CH_TH_STATE_VALID n x) then
    let up := decide (level ≤ d)
    (((s.set1 (.CH_TH_STATE_VALID n x)).putB (.CH_TH_STATE_ABOVE n x) up).put (.CH_TH_STATE_COUNT n x) 0,
      if s.is (.CH_TH_CFG_INIT_EV n x) && has up then some (up, true) else none)
  else
    let above := s.is (.CH_TH_STATE_ABOVE n x)
    let want := if above then decide (d < level - hyst) else decide (level ≤ d)
    let count := s.get (.CH_TH_STATE_COUNT n x)
    if ¬ want then (s.put (.CH_TH_STATE_COUNT n x) 0, none)
    else if s.get (.CH_TH_CFG_HOLDOFF n x) < count + 1 then
      ((s.putB (.CH_TH_STATE_ABOVE n x) (!above)).put (.CH_TH_STATE_COUNT n x) 0, if has (!above) then some (!above, false) else none)
    else (s.put (.CH_TH_STATE_COUNT n x) (count + 1), none)

/-- The pennant of a threshold's event, if the threshold has PEN set (R211, R213). -/
def thPennant (s : State) (n x : Nat) (d : Int) (test : Bool) (tick : Nat) : Option (Bool × Bool) → List Pen
  | none => []
  | some (up, init) =>
    if s.is (.CH_TH_CFG_PEN n x) then
      [{ ty := 1 + x, flags := { irq := s.is (.CH_TH_CFG_IRQ n x), up := up, init := init, test := test }, cls := 0, ix := n,
         value := wd (toU 32 d), time := tick }]
    else []

/-- A delivered sample is evaluated by TH0 and TH1 (R202, R203). -/
def thresholds (n : Nat) (d : Int) (test : Bool) (tick : Nat) (s : State) : State :=
  let a := thEval n 0 d test s
  let b := thEval n 1 d test a.1
  raisePennants .both (thPennant s n 0 d test tick a.2 ++ thPennant s n 1 d test tick b.2) b.1

/-- The KIND of the anchor due before a sample (R241): RESET, OVERFLOW, STEP, PERIODIC. -/
def anchorDue (x : ChainSt) (ovf : Bool) (seq : Nat) : Option Nat :=
  if x.gap then some 1 else if ovf then some 2 else if x.step then some 4 else if seq % 1024 = 0 then some 0 else none

/-- The two entries of an anchor (R240). -/
def anchorEnts (hm : Bool) (kind preset : Nat) (lean : Bool) (seq time : Nat) : List (List Word) :=
  [[wd (mk [(time / 2 ^ 56 % 256, 24), (kind, 20), (preset, 16), (b2n lean, 15), (1, 6), (b2n hm, 0)]), wd seq],
   [wd (mk [(time / 2 ^ 32 % 2 ^ 24, 8), (2, 6)]), wd time]]

/-- Whether channel `n` writes to a queue (R236). -/
def writesQueue (s : State) (n : Nat) : Bool := s.is (.CH_QBIND_EN n) && boundCh s (s.get (.CH_QBIND_Q n)) == some n

/-- A sample's entry goes to the channel's queue, with the anchor due before it (R236, R238, R241). -/
def sampleWrite (n seq tick : Nat) (w0 : Word) (s : State) : State :=
  if writesQueue s n then
    let q := s.get (.CH_QBIND_Q n)
    let x := s.chain n
    let es := match anchorDue x (s.queue q).ovf seq with
      | some k => anchorEnts (halfMast s) k x.cur.preset x.cur.lean seq tick ++ [[w0, wd seq]]
      | none => [[w0, wd seq]]
    let ok := qAccepts s q (.chan n) (unitBytes es)
    let s1 := dipLevel q tick (qLevel s q) (qPushDrop q (.chan n) es s)
    if ok then s1.setQueue q { s1.queue q with ovf := false } else s1
  else s

/-- Word 0 of a sample entry (R195). -/
def sampleWord (s : State) (n : Nat) (y : Int) (ovr sat test gap : Bool) : Word :=
  wd (mk [(toU 24 y, 8), (b2n ovr, 5), (b2n sat, 4), (b2n test, 3), (b2n gap, 2), (s.get (.CH_CAL_OFS_STALE n), 1), (b2n (halfMast s), 0)])

/-- A delivered sample enters the digest of its millisecond (R494). -/
def noteDigest (n e seq : Nat) (w0 : Word) (s : State) : State :=
  if s.sv.stby = .inStep then s.modSv (fun v => { v with ents := v.ents ++ [⟨anIx n, e, w0, wd seq⟩] }) else s

/-- The output at edge `e` with chain result `x0` is delivered as a sample (R139, R156, R175, R185, R195); `l` holds the periods of its span. The first WAVE and DEEP
samples are steps 8 and 9 of R539. -/
def deliver (n e seq : Nat) (x0 : Int) (l : List LPer) (s : State) : State :=
  let x := s.chain n
  let k := clip24 x0
  let y := calCorrect k.1 (sext 24 (s.get (.CH_CAL_OFS_OFS n))) (s.get (.CH_CAL_GAIN_GAIN n))
  let test := l.any (·.test)
  let w0 := sampleWord s n y.1 (l.any (·.ovr)) (k.2 || y.2) test x.gap
  let s2 := sampleWrite n seq e w0 (noteDigest n e seq w0 (dipPatch e (dipLast n w0 (wd seq)) s))
  let s3 := (s2.setChain n { s2.chain n with gap := false, step := false }).when (decide (6 ≤ s.get .MOD_START_STEP)) (fun s =>
    if x.cur.preset = 4 then startStep 8 s else if x.cur.preset = 1 then startStep 9 s else s)
  thresholds n y.1 test e (wr (Reg.CH_LAST_SEQ n) (wd seq) (wr (Reg.CH_LAST n) w0 s3))

/-- Whether the output at edge `e` may complete now: its edge has come, on the scale of its regime and before the modulator clock stopped, and no SYNC waits whose edge
lies before it. -/
def outputDue (s : State) (x : ChainSt) (e : Nat) : Bool :=
  match x.upto, s.ca.haltAt with
  | some r, _ => decide (e ≤ r.at_)
  | none, some h => decide (e ≤ h)
  | none, none => decide (e ≤ now s) && s.ca.syncs.all (fun q => decide (e ≤ q.edge))

/-- A chain completes its next output, numbers it and delivers or suppresses it (R185). Nothing happens before the output's completion edge,
nor while the chain does not run. An intermediate value that clamps shows in OVF, be the output delivered or not (R175). -/
def chainOutput (n : Nat) (ps : List Period) (s : State) : State :=
  let s0 := takeUp n s
  let x := s0.chain n
  let e := nextEdge s0 x.cur x.last
  if isAN n && x.cur.on && decide (0 < stepTicks s0 x.cur) && outputDue s0 x e then
    let seq := seqOf s0 x.cur e
    let s1 := lineFill n (lineEdge x e) ps s0
    let p := regPar s1 x.cur
    let l := delayed s1 (s1.chain n) e
    let c := chainX p ((l.take (p.span + p.d)).map (fun y => codeWord y.code))
    let s2 := (wr (Reg.CH_SEQ n) (wd seq) (s1.setChain n { s1.chain n with last := e })).when c.2 (·.set1 (.CH_FC_STATE_OVF n))
    if suppressed s0 x.cur e then s2 else deliver n e seq c.1 (l.take p.span) s2
  else s

/-- `CH_FC_STATE` as it reads (R199): outputs still to be suppressed, and whether the chain delivers. -/
def fcStateVal (s : State) (n : Nat) : Word :=
  let x := (settled n s).chain n
  let r := x.cur
  let e := nextEdge s r x.last
  let t := stepTicks s r
  let left := if r.on && suppressed s r e then (r.rst + suppOf s r * t - e) / max 1 t + 1 else 0
  let w := rd s (Reg.CH_FC_STATE n)
  setBits (setBits (setBits w 31 24 (min left 255)) 23 20 r.preset) 0 0 (b2n (r.on && left == 0))

end Sys2Proof.Machine
end

