-- ==== Sys2Proof/Machine/Access.lean ====
section
/-! DEFINITION. Writes of registers: who may write what and when (R4, R5, R48, R53, R64, R530, R582), and the effect of an access code
on a register that a write only stores into. -/

namespace Sys2Proof.Machine

/-- Registers that accept writes from S0 in NO_IMAGE (R53): `BT_CMD`, `BT_KEYBUF`, `BT_ATT_NONCE`, `BT_STAT.ID_SEL`, the SP1
registers, `MOD_RESET`; the flash window is no register. -/
def noImageWritable (a : Nat) : Bool :=
  a == Reg.MOD_RESET || a == Reg.BT_CMD || a == Reg.BT_STAT || (decide (0x4040 ≤ a) && decide (a < 0x40A0))
    || (decide (0x5400 ≤ a) && decide (a < 0x5800))

/-- Whether a frame on S0 is served (R15, R64, R507, R530, R532): by the active domain, or by one that loads. -/
def s0Serves (s : State) : Bool :=
  s.pw.on && s.pw.power != 4
    && (s.sv.anyActive || (s.get .BT_STAT_STATE == 0 && decide (2 ≤ s.get .MOD_START_STEP) && (s.sv.roleA == .standby || s.sv.roleB == .standby)))

/-- Whether the module applies a register write now (R13, R15, R53, R64, R530): S0's while S0 is served, in NO_IMAGE to the registers of R53 and while loading
to `MOD_RESET` alone; those of the ring and the engines while a domain is active that runs an image. The image loader writes in its apply pass only (R47). -/
def served (s : State) (r : Req) (a : Nat) : Bool :=
  match r with
  | .loader => false
  | .s0 => s0Serves s && (if s.pw.power = 6 then noImageWritable a else if s.get .BT_STAT_STATE = 0 then a == Reg.MOD_RESET else true)
  | _ => s.sv.anyActive && s.pw.power != 6 && s.get .BT_STAT_STATE != 0

/-- Whether a register read is served (R13, R15, R530): on S0 while S0 is served, elsewhere while a domain is active. -/
def readServed (s : State) (r : Req) : Bool :=
  match r with
  | .s0 => s0Serves s
  | _ => s.sv.anyActive

/-- Whether a read of `a` by `r` crosses from one clock island into another (R19, R20): every read from S0 and from the ring does; a read by an engine or the
loader, which lie in the fabric island, does where `a` belongs to another island (assumption log 76). -/
def crossesIsland (r : Req) (a : Nat) : Bool :=
  match r with
  | .s0 | .ring => true
  | _ => (decide (0x2000 ≤ a) && decide (a < 0x3000)) || (decide (0x6000 ≤ a) && decide (a < 0x30000)) || (decide (0x50000 ≤ a) && decide (a < 0x60000))

/-- A cross-island read has completed (R21, R29): its latency, a free value of 1 to 40 fabric cycles, enters `MOD_XREAD.MAX_LAT`. The read of `MOD_XREAD` itself
completes with that read, and counts from none on. -/
def noteRead (r : Req) (a : Nat) (s : State) : State :=
  if crossesIsland r a ∧ a ≠ Reg.MOD_XREAD then (s.put .MOD_XREAD_MAX_LAT (max (s.get .MOD_XREAD_MAX_LAT) ((freeNow s).toNat % 40 + 1))).useFree else s

/-- Whether S0 is read-only for this requester (R48). -/
def s0ReadOnly (s : State) (r : Req) : Bool := r = .s0 && s.is .MOD_CFG_LOCK_S0_RO

/-- The bits that a lock keeps a write from (R48, R582): every bit but W1C ones and the watchdog's SERVICE under S0_RO; the RWL bits under CFG. -/
def lockedBits (s : State) (r : Req) (a : Nat) (m : WMask) : Nat :=
  if s0ReadOnly s r then m.rwl ||| m.rw ||| (if a = Reg.MOD_WDOG then m.wo &&& 0x00FFFFFF else m.wo)
  else if s.is .MOD_CFG_LOCK_CFG then m.rwl
  else 0

/-- A register with a field that S0_RO leaves writable (R48, R582): a W1C field, or SERVICE of the watchdog. -/
def s0Leaves (a : Nat) (m : WMask) : Bool := m.w1c != 0 || a == Reg.MOD_WDOG

/-- The lock leaves no field of the register writable: a write changes nothing (R582), the flags of R7 included. -/
def lockedOut (s : State) (r : Req) (a : Nat) (m : WMask) : Bool :=
  let all := m.rwl ||| m.rw ||| m.wo ||| m.w1c
  all != 0 && lockedBits s r a m &&& all == all

/-- Whether a write is refused, wholly or in part (R582): under S0_RO whatever its values, unless the register has a field that S0_RO leaves writable; there, and
under CFG, when it would change a locked field (assumption log 51). -/
def denied (s : State) (r : Req) (a : Nat) (m : WMask) (w : Word) : Bool :=
  if s0ReadOnly s r && !s0Leaves a m then decide (lockedBits s r a m ≠ 0)
  else (((rd s a &&& BitVec.ofNat 32 (m.rwl ||| m.rw)) ^^^ w) &&& BitVec.ofNat 32 (lockedBits s r a m)) != 0

/-- The word that a write carries once locked fields keep their values; locked command bits act as 0. -/
def effWord (s : State) (r : Req) (a : Nat) (m : WMask) (w : Word) : Word :=
  blend (lockedBits s r a m) w (rd s a &&& BitVec.ofNat 32 (m.rwl ||| m.rw))

/-- Counts a refused write (R582). -/
def countDenied (d : Bool) (s : State) : State := s.when d (·.inc .MOD_CFG_LOCK_DENY_CNT)

/-- A register write of requester `r`: `f` is what the register does with the word that the locks leave. A write of which the locks leave
nothing does nothing but count. -/
def regWrite (r : Req) (a : Nat) (m : WMask) (w : Word) (f : Word → State → State) (s : State) : State :=
  if served s r a then
    let s1 := countDenied (denied s r a m w) s
    if lockedOut s r a m then s1 else f (effWord s r a m w) s1
  else s

/-- The word a register holds after a write that only stores (R4): RW and RWL bits taken from `w`, W1C bits cleared where `w` has a 1. -/
def storedWord (m : WMask) (cur w : Word) : Word :=
  blend (m.rwl ||| m.rw) cur w &&& ~~~ (w &&& BitVec.ofNat 32 m.w1c)

/-- Stores a written word under the access codes. -/
def store (a : Nat) (m : WMask) (w : Word) (s : State) : State := wr a (storedWord m (rd s a) w) s

/-- The masks of a register, from its row in the register table. -/
def maskAt (a : Nat) : WMask :=
  let l := fieldsAt a
  ⟨maskOf (fun f => f.acc = .rwl) l, maskOf (fun f => f.acc = .rw) l, maskOf (fun f => f.acc = .wo) l, maskOf (fun f => f.acc = .w1c) l⟩

/-- The write shadow of a requester (R25). -/
def State.wshOf (s : State) (r : Nat) : WShadow := kget ⟨0, []⟩ s.wsh r
def State.setWsh (s : State) (r : Nat) (x : WShadow) : State := { s with wsh := kset ⟨0, []⟩ s.wsh r x }

/-- A write of a lower word of a wide value goes into the requester's shadow, which a write to another wide value empties first (R25).
`base`: the lowest address of the value. -/
def shadowPut (r : Req) (base a : Nat) (w : Word) (s : State) : State :=
  let x := s.wshOf (reqIx r)
  let l := if x.addr = base then x.words.filter (fun p => p.1 ≠ a) else []
  s.setWsh (reqIx r) ⟨base, l ++ [(a, w)]⟩

/-- The word at `a` that a commit takes: the shadow's, or the committed one (R25). -/
def shadowWord (s : State) (r : Req) (base a : Nat) : Word :=
  let x := s.wshOf (reqIx r)
  if x.addr = base then ((x.words.find? (fun p => p.1 = a)).map (·.2)).getD (rd s a) else rd s a

/-- A commit empties the shadow (R25). -/
def shadowDrop (r : Req) (s : State) : State := s.setWsh (reqIx r) ⟨0, []⟩

/-- The 64-bit value that a write of the highest word `w` commits. -/
def commit64 (s : State) (r : Req) (base : Nat) (w : Word) : Nat := (shadowWord s r base base).toNat + w.toNat * 2 ^ 32

end Sys2Proof.Machine
end

