-- ==== Sys2Proof/Machine/Dip.lean ====
section
/-! DEFINITION. The dip (spec/07, R218 to R229): requests, latching, banks and their window. -/

namespace Sys2Proof.Machine

/-- Sets a bank's state where `EV_DIP_STAT` and the bank's header show it; REL reads 1 while the bank is HELD (R226, R229). -/
def setBank (b v : Nat) (s : State) : State :=
  let s1 := if b = 0 then (s.put .EV_DIP_STAT_STATE0 v).putB .EV_DIP_STAT_REL0 (v == 2)
    else (s.put .EV_DIP_STAT_STATE1 v).putB .EV_DIP_STAT_REL1 (v == 2)
  s1.setDip b { s1.dip b with hdr := setBits (s1.dip b).hdr 7 6 v }

/-- The bank that a request takes (R221): a FREE one; of two FREE ones, that not used by the previous dip. -/
def freeBank (s : State) : Option Nat :=
  match bankState s 0 == 0, bankState s 1 == 0 with
  | true, true =>
    if bits (s.dip 0).hdr 11 8 = 0 ∧ bits (s.dip 1).hdr 11 8 = 0 then some 0 else some (1 - s.get .EV_DIP_STAT_LAST)
  | true, false => some 0
  | false, true => some 1
  | false, false => none

/-- A DIP_REFUSED pennant and its counts (R213, R222). -/
def dipRefuse (trig id : Nat) (s : State) : State :=
  raisePennant .both 0x08 {} 3 0 (wd (id * 65536 + trig * 4096)) (now s)
    ((raiseIrq irqDipBusy s).inc .EV_DIP_STAT_BUSY_CNT)

/-- Dips are ignored in STARTING, NO_IMAGE and SLEEP (R220). -/
def dipIgnored (s : State) : Bool := s.pw.power = 0 || s.pw.power = 6 || s.pw.power = 4

/-- A dip request (R219 to R222) with its target tick. -/
def dipRequest (trig id tgt : Nat) (s : State) : State :=
  if dipIgnored s then s.inc .EV_DIP_STAT_IGN_CNT
  else match freeBank s with
    | none => dipRefuse trig id s
    | some b =>
      let late := decide (tgt < now s + 4096)
      let t := if late then now s + 4096 else tgt
      let s1 := s.setDip b { hdr := wd (mk [(id % 65536, 16), (trig, 8), (b2n late, 2)]), tick := t, tgt := tgt }
      setBank b 1 (s1.put .EV_DIP_STAT_LAST b)

/-- Index of a digital input, i = 8t + k (R225). -/
def diIx (n : Nat) : Nat := 8 * (n / 16) + n % 16
def diCh (i : Nat) : Nat := 16 * (i / 8) + i % 8

/-- Channel of the digital output with index j = 4t + (k − 8). -/
def doCh (j : Nat) : Nat := 16 * (j / 4) + 8 + j % 4

/-- Packs bits f 0 … f (32 n − 1) into n words. -/
def bitWords (n : Nat) (f : Nat → Bool) : List Word :=
  (List.range n).map (fun i => wd ((List.range 32).foldl (fun a b => a + b2n (f (32 * i + b)) * 2 ^ b) 0))

/-- Words of CAN port `p` in a bank (R225): error counters, error state with ALONE, bus-off recoveries. -/
def dipPort (s : State) (p : Nat) : List Word :=
  [wd (s.get (.CAN_ERRCNT_REC p) * 65536 + s.get (.CAN_ERRCNT_TEC p)),
   wd (s.get (.CAN_STAT_ERR_STATE p) + 4 * s.get (.CAN_STAT_ALONE p)), rd s (Reg.CAN_BOCNT p), 0]

/-- On time to the second since it was last counted (R79). -/
def onTicks (s : State) (n : Nat) : Nat :=
  (s.ch n).onRem + (if s.is (.CH_DO_STATE_OUT n) then clk s - (s.ch n).onMark else 0)

/-- Counts the on time so far into `CH_DO_ONTIME`, which saturates (R79). -/
def countOn (n : Nat) (s : State) : State :=
  (s.addSat (.CH_DO_ONTIME_SEC n) (onTicks s n / tickS)).modCh n (fun x => { x with onRem := onTicks s n % tickS, onMark := clk s })

/-- `CH_DO_ONTIME` as it reads now (R79). -/
def onTimeVal (s : State) (n : Nat) : Word := rd (countOn n s) (Reg.CH_DO_ONTIME n)

/-- Whether the analog item of index `a` holds a delivered sample (R218). -/
def lastValid (s : State) (a : Nat) : Bool := lastWord s (anCh a) != 0xC0

/-- The items of a bank as the module holds them now (R218, R225), by window offset from 0x020 on. -/
def dipItems (s : State) : List (Nat × List Word) :=
  [(0x020, bitWords 4 (fun i => s.is (.CH_DI_STATE_LEVEL (diCh i)))), (0x030, bitWords 2 (fun j => s.is (.CH_DO_STATE_OUT (doCh j)))),
   (0x038, bitWords 2 (lastValid s))]
  ++ (List.range 4).map (fun p => (0x040 + 16 * p, dipPort s p))
  ++ (List.range 64).map (fun a => (0x080 + 8 * a, [lastWord s (anCh a), lastSeq s (anCh a)]))
  ++ (List.range 128).map (fun i => (0x280 + 8 * i, [rd s (Reg.CH_DI_EDGES (diCh i)), rd s (Reg.CH_DI_PERIOD (diCh i))]))
  ++ (List.range 64).map (fun j => (0x680 + 8 * j, [rd s (Reg.CH_DO_SWCNT (doCh j)), onTimeVal s (doCh j)]))
  ++ (List.range 128).map (fun q => (0x880 + 4 * q, [wd (qLevel s q)]))

/-- Fixes the items of bank `b` as of its latch tick, with the half-mast state (R218, R226). -/
def latchBank (b : Nat) (s : State) : State :=
  let x := s.dip b
  s.setDip b { x with hdr := setBits x.hdr 4 4 (b2n (halfMast s)), latched := true,
                      items := (dipItems s).foldl (fun m p => putItems p.1 p.2 m) [] }

/-- Whether bank `b` waits for its latch tick, and the tick has come. -/
def latchDue (s : State) (b : Nat) : Bool := bankState s b == 1 && !(s.dip b).latched && decide ((s.dip b).tick ≤ now s)

/-- An edge of digital input `n` stamped at `ts` that a debounce decides after a latch tick at or after it still counts in that
dip while the bank fills (R218). -/
def dipEdge (n ts : Nat) (s : State) : State :=
  let i := diIx n
  let o := 0x020 + 4 * (i / 32)
  dipPatch ts (fun m =>
    let m1 := putItems (0x280 + 8 * i) [rd s (Reg.CH_DI_EDGES n), rd s (Reg.CH_DI_PERIOD n)] m
    kset 0 m1 o (setBits (kget 0 m1 o) (i % 32) (i % 32) (s.get (.CH_DI_STATE_LEVEL n)))) s

/-- A FILLING bank that has latched becomes HELD, raises its pennant and sets `MOD_IRQ.DIP` (R221). -/
def holdBank (b : Nat) (s0 : State) : State :=
  let s := if s0.sv.tkoFrom.isSome then s0.setDip b { s0.dip b with hdr := setBits (s0.dip b).hdr 3 3 1 } else s0
  let x := s.dip b
  raisePennant .both 0x07 { late := bitAt x.hdr 2, tko := bitAt x.hdr 3 } 2 b (wd (bits x.hdr 31 16 * 65536 + bits x.hdr 11 8 * 4096)) x.tick
    (raiseIrq irqDip (setBank b 2 s))

/-- A read of the bank window at offset `o` (R225): a bank that is not HELD shows its header only. -/
def dipWindow (s : State) (o : Nat) : Word :=
  let b := s.get .EV_DIP_SEL_BANK
  let x := s.dip b
  if o = 0 then x.hdr
  else if bankState s b ≠ 2 then 0
  else if o = 0x008 then wd x.tick else if o = 0x00C then wd (x.tick / 2 ^ 32)
  else if o = 0x010 then wd x.tgt else if o = 0x014 then wd (x.tgt / 2 ^ 32)
  else kget 0 x.items o

/-- Releases bank `b` if it is HELD (R223). -/
def releaseBank (b : Nat) (s : State) : State := if bankState s b = 2 then setBank b 0 s else s

/-- DIP_REQUEST: a write of `MOD_DIP` (R219, R222, R227). GO requests a dip whose target is `MOD_DIP_TGT` with AT, else now; a
refused one sets REFUSED, an accepted one leaves it clear. -/
def modDipWrite (w : Word) (s : State) : State :=
  let s1 := store Reg.MOD_DIP Msk.MOD_DIP w s
  if bitAt w 0 then
    let ref := !dipIgnored s1 && (freeBank s1).isNone
    let s2 := if dipIgnored s1 then s1 else s1.putB .MOD_DIP_REFUSED ref
    dipRequest 1 (bits w 31 16) (if bitAt w 1 then s1.get64 (Reg.MOD_DIP_TGT 0) else now s1) s2
  else s1

def execDipRequest (r : Req) (w : Word) (s : State) : Out :=
  .next (regWrite r Reg.MOD_DIP Msk.MOD_DIP w modDipWrite s)

/-- The latch tick of a FILLING bank has come: its items are fixed (R218). -/
def dipLatch (b : Nat) (s : State) : State := if latchDue s b then latchBank b s else s

/-- DIP_LATCH: as the clock edge at the latch tick does; before the tick nothing happens. -/
def execDipLatch (b : Fin 2) (s : State) : Out := .next (dipLatch b s)

/-- DIP_BANK_HELD: a latched FILLING bank becomes HELD (R221). -/
def execDipBankHeld (b : Fin 2) (s : State) : Out :=
  .next (if bankState s b = 1 ∧ (s.dip b).latched then holdBank b s else s)

/-- A write of `EV_DIP_STAT` (R223, R229): LAND_ID is stored, a 1 in REL0 or REL1 releases a HELD bank. -/
def dipStatWrite (w : Word) (s : State) : State :=
  let s1 := s.put .EV_DIP_STAT_LAND_ID (bits w 31 16)
  ((s1.when (bitAt w 4) (releaseBank 0)).when (bitAt w 5) (releaseBank 1))

/-- DIP_RELEASE. -/
def execDipRelease (r : Req) (w : Word) (s : State) : Out :=
  .next (regWrite r Reg.EV_DIP_STAT Msk.EV_DIP_STAT w dipStatWrite s)

end Sys2Proof.Machine
end

