-- ==== Sys2Proof/Machine/Tu.lean ====
section
/-! DEFINITION. The time unit (spec/09): rate, steps, source, servo, PPS, schedules and ring tokens. CAN reference messages
and ring time frames use its servo from `Can` and `Ring`. -/

namespace Sys2Proof.Machine

/-- `TU_RATE` as a signed number of 0.1 ppb (R262). -/
def rateOf (s : State) : Int := sext 32 (s.get .TU_RATE_RATE)

/-- RATE limited to ±200 ppm, with CLAMPED while a limited value is in use (R263). -/
def setRate (r : Int) (s : State) : State :=
  let c := clampI (-2000000) 2000000 r
  (s.put .TU_RATE_RATE (toU 32 c)).putB .TU_STAT_CLAMPED (decide (c ≠ r))

/-- What the accumulator adds at a clock edge (R262): 2^32 + round(RATE × 2^32 / 10^10), ties away from zero. -/
def rateInc (r : Int) : Nat :=
  let n : Int := r * 4294967296
  let k : Nat := (2 * n.natAbs + 10000000000) / 20000000000
  (4294967296 + (if n < 0 then -(k : Int) else k)).toNat

/-- One edge of the 49.152 MHz clock (R262). -/
def clockEdge (s : State) : State :=
  dipLatch 1 (dipLatch 0 (s.modTu (fun t => { t with acc := (t.acc + rateInc (rateOf s)) % 2 ^ 96, edges := t.edges + 1 })))

/-- Whether the source allows `TU_STEP` and `TU_SET`: FREE or PPS (R265). -/
def stepAllowed (s : State) : Bool := s.get .TU_STAT_SRC_EFF = 0 || s.get .TU_STAT_SRC_EFF = 3

/-- A write of `TU_RATE` (R263). -/
def tuRateWrite (w : Word) (s : State) : State :=
  if s.get .TU_STAT_SRC_EFF = 0 then setRate (sext 32 w.toNat) s else s.set1 .TU_STAT_SET_DENIED

/-- A phase step by the host: the first sample after it only sets off_prev (R269). -/
def hostStep (d : Int) (s : State) : State := if d = 0 then s else phaseStep d (s.modTu (fun t => { t with first := true }))

/-- A write of `TU_STEP` (R264, R265). -/
def tuStepWrite (w : Word) (s : State) : State :=
  if stepAllowed s then hostStep (sext 32 w.toNat) s else s.set1 .TU_STAT_SET_DENIED

/-- A commit of `TU_SET` (R265). -/
def tuSetCommit (v : Nat) (s : State) : State :=
  if stepAllowed s then (hostStep ((v : Int) - now s) (s.put64 (Reg.TU_SET 0) v)).set1 .TU_STAT_EPOCH_SET
  else s.set1 .TU_STAT_SET_DENIED

/-- A change of source (R267). -/
def tuSource (src : Nat) (s : State) : State :=
  let s1 := (s.put .TU_STAT_SRC_EFF src).put .TU_STAT_STATE (if src = 0 then 0 else 1)
  (s1.put .TU_OFFSET_OFF 0).modTu (fun t => { t with first := true, lockRun := 0, canS := none, ringTx := none, ringOff := none, rejRun := 0,
                                                     wantMeas := false })

/-- A write of `TU_SRC` (R267). -/
def tuSrcWrite (w : Word) (s : State) : State :=
  let s1 := store Reg.TU_SRC Msk.TU_SRC w s
  if s1.get .TU_SRC_SRC = s.get .TU_STAT_SRC_EFF then s1 else tuSource (s1.get .TU_SRC_SRC) s1

/-- LOCK_THR in 1/256 tick; 0 counts as 1 tick (R286). -/
def lockThr (s : State) : Nat := 256 * max 1 (s.get .TU_SERVO_LOCK_THR)

/-- The state of the unit after a sample that takes no step (R268). -/
def servoState (off : Int) (s : State) : State :=
  let st := s.get .TU_STAT_STATE
  let ok := decide (off.natAbs ≤ lockThr s)
  let run := if ok then s.tu.lockRun + 1 else 0
  let s1 := s.modTu (fun t => { t with lockRun := run })
  if st = 3 then s1.put .TU_STAT_STATE (if ok then 2 else 1)
  else if st = 1 ∧ 8 ≤ run then s1.put .TU_STAT_STATE 2
  else s1

/-- The servo's arithmetic for one sample (R269): BASE and the rate before its limits. A dt of 0 has no quotient stated: `f1`
and `f2` stand for the two quotients then. -/
def servoMath (base offPrev rate off dt : Int) (psh fsh : Nat) (f1 f2 : Int) : Int × Int :=
  let q := fun (n f : Int) => if dt = 0 then f else (n * 39062500).tdiv dt
  let y := q (off - offPrev) f1 - rate
  let b := base + (-y - base) / 2 ^ fsh
  (b, b - q off f2 / 2 ^ psh)

/-- One valid sample (R268, R269): `off` in 1/256 tick, `dt` in ticks where a previous sample gives it. `master`: the source sets the epoch. -/
def servo (off : Int) (dt : Option Int) (master : Bool) (s : State) : State :=
  let s0 := (s.put .TU_OFFSET_OFF (toU 32 (clampI (-2147483648) 2147483647 off))).modTu (fun t => { t with lastSample := clk s })
  let thr := s.get .TU_SERVO_STEP_THR
  if thr ≠ 0 ∧ thr * 256 < off.natAbs then
    let s1 := phaseStep (-((off + 128) / 256)) s0
    let s2 := (s1.put .TU_STAT_STATE 1).modTu (fun t => { t with offPrev := 0, first := true, lockRun := 0 })
    s2.when master (·.set1 .TU_STAT_EPOCH_SET)
  else
    match s.tu.first, dt with
    | false, some d =>
      let m := servoMath s.tu.base s.tu.offPrev (rateOf s) off d (s.get .TU_SERVO_PSH) (s.get .TU_SERVO_FSH)
        (sext 32 (Config.freeWord s.free).toNat) (sext 32 (Config.freeWord (s.free + 1)).toNat)
      let s1 := if d = 0 then { s0 with free := s0.free + 2 } else s0
      servoState off ((setRate m.2 s1).modTu (fun t => { t with base := m.1, offPrev := off }))
    | _, _ => servoState off (s0.modTu (fun t => { t with offPrev := off, first := false }))

/-- HOLDOVER (R268): RATE at the frequency estimate; the first sample after it only sets off_prev. -/
def holdover (s : State) : State :=
  (setRate s.tu.base (s.put .TU_STAT_STATE 3)).modTu (fun t => { t with first := true, lockRun := 0 })

/-- Clock edges without a valid sample after which a LOCKED unit enters HOLDOVER (R268). -/
def holdTicks (s : State) : Nat :=
  match s.get .TU_STAT_SRC_EFF with
  | 1 => 4 * s.get .TU_CAN_CFG_PER * 491520
  | 2 => 16 * s.get .TU_RING_CFG_PER * 12288
  | _ => 196608000

/-- Whether the servo runs: in the active domain (R266), in the states in which the module has a source (R282). -/
def servoRuns (s : State) : Bool := s.sv.anyActive && s.pw.power ≠ 4 && s.pw.power ≠ 6 && s.pw.power ≠ 0

/-- The remainder of R276, in −24,576,000 to +24,575,999. -/
def modSec (c : Int) : Int := (c + 24576000) % 49152000 - 24576000

/-- The offset of a pulse captured at tick `c` (R276). -/
def ppsOff (s : State) (c : Nat) : Int := modSec ((c : Int) - 3) * 256 - sext 24 (s.get .TU_PPS_CFG_COMP)

/-- An edge lies outside the window of a LOCKED unit (R276). -/
def ppsOutside (s : State) (off : Int) : Bool :=
  s.get .TU_STAT_STATE = 2 && decide (max 1 (s.get .TU_PPS_CFG_WIN) * 49152 * 256 < off.natAbs * 1000)

/-- A reference message on a follower (R273): `seq`, the master's stamp S or `none` for all 0xFF, and the follower's own stamp `f`. -/
def canRef (seq : Nat) (stamp : Option Nat) (f : Nat) (s : State) : State :=
  let t := s.tu
  let s1 := (s.put .TU_CAN_STAT_SEQ seq).modTu (fun t => { t with canF := some f, canSeq := some seq })
  match t.canSeq, t.canF with
  | some k, some fk =>
    if seq = k then (if stamp.isNone then s1.inc .TU_CAN_STAT_SKIP_CNT else s1)
    else
      match (if seq = (k + 1) % 256 then stamp else none) with
      | some m =>
        let m64 : Int := (fk : Int) + ((m : Int) - fk + 2 ^ 55) % 2 ^ 56 - 2 ^ 55
        let off := ((fk : Int) - m64) * 256 - sext 24 (s.get .TU_CAN_COMP_COMP)
        let s2 := (s1.inc .TU_CAN_STAT_REF_CNT).modTu (fun t => { t with canS := some (m64 % 2 ^ 64).toNat })
        if s.get .TU_STAT_SRC_EFF = 1 then servo off (t.canS.map (fun p => m64 - (p : Int))) true s2 else s2
      | none => s1.inc .TU_CAN_STAT_SKIP_CNT
  | _, _ => if stamp.isNone then s1.inc .TU_CAN_STAT_SKIP_CNT else s1

/-- A ring sample (R277, R279): rejected when it jumps from the previous accepted one; 16 rejections in a row end in HOLDOVER and ask for a
measurement of the path. -/
def ringSample (off : Int) (tx : Nat) (s : State) : State :=
  let jump := max 1 (s.get .TU_RING_CFG_JUMP) * 256
  let bad := match s.tu.ringOff with
    | some p => decide (jump < (off - p).natAbs)
    | none => false
  if s.tu.wantMeas then s
  else if bad then
    let s1 := (s.inc .TU_STAT_REJ_CNT).modTu (fun t => { t with rejRun := t.rejRun + 1 })
    if 16 ≤ s1.tu.rejRun then (holdover s1).modTu (fun t => { t with wantMeas := true, rejRun := 0, ringOff := none }) else s1
  else
    let s1 := servo off (s.tu.ringTx.map (fun p => (tx : Int) - (p : Int))) true s
    s1.modTu (fun t => { t with rejRun := 0, ringTx := some tx, ringOff := if t.first then none else some off })

/-- A measurement that the unit asked for has been made: it accepts samples again, from ACQUIRING (R279). -/
def ringMeasured (s : State) : State :=
  if s.tu.wantMeas then (s.put .TU_STAT_STATE 1).modTu (fun t => { t with wantMeas := false, first := true, ringTx := none, ringOff := none }) else s

/-- The ring is trained: `CSN_STAT.STATE` is RUNNING (R473). -/
def ringTrained (s : State) : Bool := s.get .CSN_STAT_STATE = 5

/-- Tokens come from the head, or stay within a module whose ring is not trained (R281, R283). -/
def tokenSource (s : State) : Bool := !ringTrained s || s.is .CSN_STAT_HEAD

/-- LEAD in ticks; 0 counts as 64 units (R287). -/
def leadTicks (s : State) : Nat := 64 * (if s.get .TU_TOKEN_CFG_LEAD = 0 then 64 else s.get .TU_TOKEN_CFG_LEAD)

/-- The settings of a schedule. -/
def schKind (s : State) (j : Nat) : Nat := s.get (.TU_SCH_CFG_KIND j)
def schPer (s : State) (j : Nat) : Nat := s.get64 (Reg.TU_SCH_PER j 0)
def schPhase (s : State) (j : Nat) : Nat := s.get64 (Reg.TU_SCH_PHASE j 0)
def schNext (s : State) (j : Nat) : Nat := s.get64 (Reg.TU_SCH_NEXT j 0)

/-- The first instant after tick `t` of a schedule (R280). -/
def instantAfter (per phase t : Nat) : Nat :=
  let r := phase % per
  if t < r then r else r + ((t - r) / per + 1) * per

/-- PER and PHASE are multiples of 64 where the kind needs it (R281). -/
def schAligned (s : State) (j : Nat) : Bool := schPer s j % 64 = 0 && schPhase s j % 64 = 0

/-- A schedule is active: a kind with a meaning, a period, and for kinds 1 to 3 an aligned grid (R280, R281). -/
def schActive (s : State) (j : Nat) : Bool :=
  let k := schKind s j
  1 ≤ k && k ≤ 5 && schPer s j ≠ 0 && (4 ≤ k || schAligned s j)

/-- CFG_ADJ of a schedule (R281). -/
def schAdj (s : State) (j : Nat) : Bool :=
  let k := schKind s j
  6 ≤ k || (1 ≤ k && k ≤ 3 && !schAligned s j) || ((k = 2 || k = 3) && !tokenSource s)

/-- Whether the kind sends a token. -/
def schToken (s : State) (j : Nat) : Bool := schKind s j = 2 || schKind s j = 3

/-- Recomputes NEXT and CFG_ADJ (R280, R281). -/
def schRecompute (j : Nat) (s : State) : State :=
  let t := if schToken s j then now s + leadTicks s - 1 else now s
  (s.putB (.TU_SCH_CFG_CFG_ADJ j) (schAdj s j)).put64 (Reg.TU_SCH_NEXT j 0)
    (if schActive s j then instantAfter (schPer s j) (schPhase s j) t else 0)

/-- A write of `TU_SCH_CFG` (R280). -/
def schCfgWrite (j : Nat) (w : Word) (s : State) : State :=
  let s1 := store (Reg.TU_SCH_CFG j) Msk.TU_SCH_CFG w s
  if schKind s1 j = schKind s j then s1 else schRecompute j s1

/-- A commit of `TU_SCH_PER` or `TU_SCH_PHASE` (R280). -/
def schCommit (a j v : Nat) (s : State) : State := schRecompute j (s.put64 a v)

/-- A token takes effect here (R284): a SYNC of source TOKEN, or a dip of trigger 3; late ones count. -/
def tokenAct (k : Token) (s : State) : State :=
  let s0 := s.modTu (fun t => { t with seen := k :: t.seen })
  if k.kind = 1 then
    let s1 := if k.tgt < now s + 2 * per s then s0.inc .TU_TOKEN_STAT_LATE_CNT else s0
    syncRequest srcToken (some k.tgt) s1
  else if s.is .EV_DIP_CFG_TOKEN_EN then
    let s1 := if k.tgt < now s + 4096 then s0.inc .TU_TOKEN_STAT_LATE_CNT else s0
    dipRequest 3 k.id k.tgt (s1.put .TU_TOKEN_STAT_LAST_ID k.id)
  else s0.inc .EV_DIP_STAT_IGN_CNT

/-- A token is sent (R283): its first copy waits for its tick where the ring is trained, and it is delivered to the module itself. -/
def tokenSend (k : Token) (s : State) : State :=
  let s1 := if ringTrained s then s.modTu (fun t => { t with out := t.out ++ [(k, k.tgt - leadTicks s, 0)] }) else s
  tokenAct k s1

/-- A write of `TU_TOKEN` (R283, R287). -/
def tuTokenWrite (w : Word) (s : State) : State :=
  let kind := bits w 2 1
  if bitAt w 0 ∧ (kind = 1 ∨ kind = 2) ∧ tokenSource s then
    let t := s.get64 (Reg.TU_TOKEN_TGT 0)
    let lead := now s + leadTicks s
    tokenSend { kind := kind, id := bits w 31 16, tgt := if t < lead then (lead + 63) / 64 * 64 else t } s
  else s

/-- A module receives a copy of a token (R284). -/
def tokenReceive (k : Token) (s : State) : State :=
  if k ∈ s.tu.seen then s
  else if s.get .TU_STAT_STATE = 2 ∨ s.get .TU_STAT_STATE = 3 then tokenAct k s
  else s.inc .TU_TOKEN_STAT_UNLOCK_CNT

/-- A write of `TU_CAN_CFG` (R270, R287): a new role restarts numbering and pairing; ROLE 3 is none, with CFG_ADJ. -/
def tuCanCfgWrite (w : Word) (s : State) : State :=
  let s0 := store Reg.TU_CAN_CFG Msk.TU_CAN_CFG w s
  let none3 := s0.get .TU_CAN_CFG_ROLE == 3
  let s1 := if none3 then s0.put .TU_CAN_CFG_ROLE 0 else s0
  let s2 := s1.putB .TU_CAN_CFG_CFG_ADJ none3
  if s1.get .TU_CAN_CFG_ROLE = s.get .TU_CAN_CFG_ROLE then s2
  else s2.modTu (fun t => { t with mSeq := 0, mStamp := none, mFirst := true, refAt := none, canF := none, canSeq := none, canS := none })

/-- TU_RATE_WRITE (R263). -/
def execTuRateWrite (r : Req) (w : Word) (s : State) : Out := .next (regWrite r Reg.TU_RATE Msk.TU_RATE w tuRateWrite s)

/-- TU_STEP (R264). -/
def execTuStep (r : Req) (w : Word) (s : State) : Out := .next (regWrite r Reg.TU_STEP Msk.TU_STEP w tuStepWrite s)

/-- TU_SET (R265, R25): a write of the highest word commits the value with the lower word of the requester's write shadow. -/
def execTuSet (r : Req) (w : Word) (s : State) : Out :=
  .next (regWrite r (Reg.TU_SET 1) Msk.TU_SET w (fun w s => tuSetCommit (commit64 s r (Reg.TU_SET 0) w) (shadowDrop r s)) s)

/-- TU_SOURCE_CHANGE (R267). -/
def execTuSourceChange (r : Req) (w : Word) (s : State) : Out := .next (regWrite r Reg.TU_SRC Msk.TU_SRC w tuSrcWrite s)

/-- PPS_EDGE (R276): with source PPS, an edge of the SYNC land in the polarity of `CA_CFG.LAND_EDGE`, captured now. -/
def execPpsEdge (s : State) : Out :=
  let off := ppsOff s (now s)
  .next (if s.get .TU_STAT_SRC_EFF = 3 ∧ servoRuns s ∧ ¬ ppsOutside s off then servo off (some 49152000) false s else s)

/-- HOLDOVER_TIMEOUT (R268). -/
def execHoldoverTimeout (s : State) : Out :=
  .next (if s.get .TU_STAT_STATE = 2 ∧ servoRuns s ∧ s.tu.lastSample + holdTicks s ≤ clk s then holdover s else s)

/-- SCHEDULE_WRITE (R280): a write of `TU_SCH_CFG`, or of the highest word of PER or PHASE, of schedule `j`. -/
def execScheduleWrite (r : Req) (j : Fin 16) (reg : SchReg) (w : Word) (s : State) : Out :=
  .next (match reg with
    | .cfg => regWrite r (Reg.TU_SCH_CFG j) Msk.TU_SCH_CFG w (schCfgWrite j) s
    | .per => regWrite r (Reg.TU_SCH_PER j 1) Msk.TU_SCH_PER w
        (fun w s => schCommit (Reg.TU_SCH_PER j 0) j (commit64 s r (Reg.TU_SCH_PER j 0) w) (shadowDrop r s)) s
    | .phase => regWrite r (Reg.TU_SCH_PHASE j 1) Msk.TU_SCH_PHASE w
        (fun w s => schCommit (Reg.TU_SCH_PHASE j 0) j (commit64 s r (Reg.TU_SCH_PHASE j 0) w) (shadowDrop r s)) s)

/-- TU_TOKEN_GO (R283). -/
def execTuTokenGo (r : Req) (w : Word) (s : State) : Out := .next (regWrite r Reg.TU_TOKEN Msk.TU_TOKEN w tuTokenWrite s)

end Sys2Proof.Machine
end

