-- ==== Sys2Proof/Machine/Check.lean ====
section
/-! DEFINITION. The check-value units (spec/15). -/

namespace Sys2Proof.Machine

/-- The low `w` bits of `n` in reverse order. -/
def reflect : Nat → Nat → Nat
  | 0, _ => 0
  | w + 1, n => n % 2 * 2 ^ w + reflect w (n / 2)

/-- One bit of R478. -/
def cvBit (w poly reg : Nat) (b : Bool) : Nat :=
  let r := reg * 2 % 2 ^ w
  if reg.testBit (w - 1) != b then r ^^^ (poly % 2 ^ w) else r

/-- One byte of R478, most significant bit first. -/
def cvByte (w poly reg : Nat) (b : Nat) : Nat :=
  [7, 6, 5, 4, 3, 2, 1, 0].foldl (fun r i => cvBit w poly r (b.testBit i)) reg

/-- The settings of a unit (R478): WIDTH, POLY, INIT, XOROUT, REFIN, REFOUT. -/
structure CvPar where
  w : Nat
  poly : Nat
  init : Nat
  xorout : Nat
  refin : Bool
  refout : Bool
  deriving DecidableEq, Repr

/-- The running value at the start. -/
def CvPar.start (p : CvPar) : Nat := p.init % 2 ^ p.w

/-- The running value after more bytes. -/
def CvPar.feed (p : CvPar) (reg : Nat) (l : List Byte) : Nat :=
  l.foldl (fun r b => cvByte p.w p.poly r (if p.refin then reflect 8 b.toNat else b.toNat)) reg

/-- The result at the finish. -/
def CvPar.finish (p : CvPar) (reg : Nat) : Nat :=
  ((if p.refout then reflect p.w reg else reg) ^^^ p.xorout) % 2 ^ p.w

/-- The settings of unit `u`. -/
def cvPar (s : State) (u : Nat) : CvPar :=
  { w := s.get (.CV_CFG_WIDTH u), poly := s.get64 (Reg.CV_POLY u 0), init := s.get64 (Reg.CV_INIT u 0),
    xorout := s.get64 (Reg.CV_XOROUT u 0), refin := s.is (.CV_CFG_REFIN u), refout := s.is (.CV_CFG_REFOUT u) }

/-- A refused command or feed (R484). -/
def cvRefuse (u reason : Nat) (s : State) : State := (s.put (.CV_STAT_REASON u) reason).set1 (.CV_STAT_REFUSED u)

def cvBusy : Nat := 1
def cvNotHeld : Nat := 2
def cvDisabled : Nat := 3
def cvBadRange : Nat := 4

/-- As whom a requester uses a unit (R379, R480): an engine acts for its context. -/
def cvOwner (s : State) (r : Req) : CvHold :=
  match r with
  | .eng e => match (s.eng e).ctx with
    | some c => .ctx c
    | none => .host (reqIx r)
  | _ => .host (reqIx r)

/-- Whether `h` is a host's hold. -/
def CvHold.isHost : CvHold → Bool
  | .host _ => true
  | _ => false

/-- The running value is set to INIT and `h` holds the unit; a DMA pass stops (R484). -/
def cvTake (u : Nat) (h : CvHold) (s : State) : State :=
  s.setCv u { run := (cvPar s u).start, hold := h, at_ := if h.isHost then clk s else 0 }

/-- A command or a feed from the host that holds the unit begins its 100 ms anew (R481). -/
def cvTouch (u : Nat) (h : CvHold) (s : State) : State :=
  if (s.cv u).hold = h ∧ h.isHost then s.setCv u { s.cv u with at_ := clk s } else s

/-- FINISH (R484): the result goes to `CV_RESULT`, and the hold ends. -/
def cvFinishNow (u : Nat) (s : State) : State :=
  (s.setCv u {}).put64 (Reg.CV_RESULT u 0) ((cvPar s u).finish (s.cv u).run) |>.set1 (.CV_STAT_DONE u)

/-- The test of a command that needs the hold (R480, R484): passes, or the reason of the refusal. -/
def cvHeldBy (s : State) (u : Nat) (h : CvHold) : Option Nat :=
  let x := (s.cv u).hold
  if x = h then none
  else if h.isHost && x.isHost then some cvBusy
  else some cvNotHeld

/-- A byte of queue memory by its window address (R485). -/
def qmemByte (s : State) (a : Nat) : Byte :=
  BitVec.ofNat 8 ((kget 0 s.qmem ((a - 0x800000) / 4)).toNat / 2 ^ (8 * (a % 4)))

/-- A `CV_CMD` from holder `h` (R479, R480, R484, R485, R489). -/
def cvCmd (u : Nat) (h : CvHold) (op : Nat) (s0 : State) : State :=
  let s := cvTouch u h s0
  let x := s.cv u
  if op = 0 then s
  else if s.get (.CV_CFG_WIDTH u) = 0 then cvRefuse u cvDisabled s
  else if 5 ≤ op then cvRefuse u cvBusy s
  else if op = 1 then (if x.hold = .free ∨ x.hold = h then cvTake u h s else cvRefuse u cvBusy s)
  else match cvHeldBy s u h with
    | some why => cvRefuse u why s
    | none =>
      if op = 2 then (if x.dma.isSome then s.setCv u { x with fin := true } else cvFinishNow u s)
      else if op = 3 then
        let len := s.get (.CV_DMA_LEN_LEN u)
        let a := s.get (.CV_DMA_ADDR_ADDR u)
        if x.dma.isSome then cvRefuse u cvBusy s
        else if len = 0 then s
        else if a < 0x800000 ∨ 0x1000000 < a + len then cvRefuse u cvBadRange s
        else s.setCv u { x with dma := some (a, len) }
      else s.setCv u {}

/-- A feed from holder `h` (R484, R485). -/
def cvFeed (u : Nat) (h : CvHold) (l : List Byte) (s0 : State) : State :=
  let s := cvTouch u h s0
  let x := s.cv u
  if s.get (.CV_CFG_WIDTH u) = 0 then cvRefuse u cvDisabled s
  else match cvHeldBy s u h with
    | some why => cvRefuse u why s
    | none =>
      if x.dma.isSome then cvRefuse u cvBusy s
      else s.setCv u { x with run := (cvPar s u).feed x.run l }

/-- Someone holds the unit (R483). -/
def cvInUse (s : State) (u : Nat) : Bool := (s.cv u).hold != .free

/-- A write of `CV_CFG` (R479, R483): a WIDTH above 64 is stored as 64, with CFG_ADJ (R7). -/
def cvCfgWrite (u : Nat) (w : Word) (s : State) : State :=
  if cvInUse s u then s.set1 (.CV_STAT_DENIED u)
  else
    let s1 := store (Reg.CV_CFG u) Msk.CV_CFG w s
    let big := decide (64 < s1.get (.CV_CFG_WIDTH u))
    (if big then s1.put (.CV_CFG_WIDTH u) 64 else s1).putB (.CV_STAT_CFG_ADJ u) big

/-- A commit of `CV_POLY`, `CV_INIT` or `CV_XOROUT` (R483). -/
def cvWideWrite (u a v : Nat) (s : State) : State :=
  if cvInUse s u then s.set1 (.CV_STAT_DENIED u) else s.put64 a v

/-- `CV_STAT` as it reads (R488). -/
def cvStatVal (s : State) (u : Nat) : Word :=
  let x := s.cv u
  let c := match x.hold with
    | .ctx c => mk [(1, 30), (c, 16)]
    | .host _ => 2 ^ 31
    | .free => 0
  wd (rd s (Reg.CV_STAT u)).toNat ||| wd (c + 2 * b2n x.dma.isSome)

/-- CV_START (R484, R480). -/
def execCvStart (r : Req) (u : Fin 8) (s : State) : Out := .next (regWrite r (Reg.CV_CMD u) Msk.CV_CMD 1 (fun w s => cvCmd u (cvOwner s r) (bits w 3 0) s) s)

/-- CV_FINISH (R484). -/
def execCvFinish (r : Req) (u : Fin 8) (s : State) : Out := .next (regWrite r (Reg.CV_CMD u) Msk.CV_CMD 2 (fun w s => cvCmd u (cvOwner s r) (bits w 3 0) s) s)

/-- CV_DMA (R485). -/
def execCvDma (r : Req) (u : Fin 8) (s : State) : Out := .next (regWrite r (Reg.CV_CMD u) Msk.CV_CMD 3 (fun w s => cvCmd u (cvOwner s r) (bits w 3 0) s) s)

/-- CV_ABORT (R484). -/
def execCvAbort (r : Req) (u : Fin 8) (s : State) : Out := .next (regWrite r (Reg.CV_CMD u) Msk.CV_CMD 4 (fun w s => cvCmd u (cvOwner s r) (bits w 3 0) s) s)

/-- CV_DATA (R484): 4 bytes, [7:0] first. -/
def execCvData (r : Req) (u : Fin 8) (w : Word) (s : State) : Out :=
  .next (regWrite r (Reg.CV_DATA u) Msk.CV_DATA w (fun w s => cvFeed u (cvOwner s r) (leBytes 4 w.toNat) s) s)

/-- CV_DATA8 (R484): [7:0] alone. -/
def execCvData8 (r : Req) (u : Fin 8) (w : Word) (s : State) : Out :=
  .next (regWrite r (Reg.CV_DATA8 u) Msk.CV_DATA8 w (fun w s => cvFeed u (cvOwner s r) (leBytes 1 w.toNat) s) s)

/-- CV_DMA_DONE (R485): the pass has fed its bytes, as queue memory holds them; a FINISH that waited completes (assumption log 24). -/
def execCvDmaDone (u : Fin 8) (s : State) : Out :=
  let x := s.cv u
  .next (match x.dma with
    | none => s
    | some (a, len) =>
      let run := (cvPar s u).feed x.run ((List.range len).map (fun i => qmemByte s (a + i)))
      let s1 := s.setCv u { x with run := run, dma := none, fin := false }
      if x.fin then cvFinishNow u s1 else s1)

/-- CV_HOLD_TIMEOUT (R481): 100 ms have passed without a command or feed from a host that holds the unit. -/
def execCvHoldTimeout (u : Fin 8) (s : State) : Out :=
  .next (if (s.cv u).hold.isHost ∧ (s.cv u).at_ + 100 * tickMs ≤ clk s then (s.setCv u {}).set1 (.CV_STAT_TMO u) else s)

/-- CV_CONFIG_WRITE (R483): a write of `CV_CFG`, or of the highest word of `CV_POLY`, `CV_INIT` or `CV_XOROUT`. -/
def execCvConfigWrite (r : Req) (u : Fin 8) (reg : CvReg) (w : Word) (s : State) : Out :=
  .next (match reg with
    | .cfg => regWrite r (Reg.CV_CFG u) Msk.CV_CFG w (cvCfgWrite u) s
    | .poly => regWrite r (Reg.CV_POLY u 1) Msk.CV_POLY w
        (fun w s => cvWideWrite u (Reg.CV_POLY u 0) (commit64 s r (Reg.CV_POLY u 0) w) (shadowDrop r s)) s
    | .init => regWrite r (Reg.CV_INIT u 1) Msk.CV_INIT w
        (fun w s => cvWideWrite u (Reg.CV_INIT u 0) (commit64 s r (Reg.CV_INIT u 0) w) (shadowDrop r s)) s
    | .xorout => regWrite r (Reg.CV_XOROUT u 1) Msk.CV_XOROUT w
        (fun w s => cvWideWrite u (Reg.CV_XOROUT u 0) (commit64 s r (Reg.CV_XOROUT u 0) w) (shadowDrop r s)) s)

end Sys2Proof.Machine
end

