-- ==== Sys2Proof/Machine/Digital.lean ====
section
/-! DEFINITION. Digital field channels (spec/03): inputs, outputs, protection, pairs, diagnostics and safe states; and the
current outputs' part of the safe states (spec/04, R111 to R118), which a tile applies with them. -/

namespace Sys2Proof.Machine

/-- The tile of channel `n`. -/
def tileOf (n : Nat) : Nat := n / 16

/-- The partner of a digital output in its pair, and the pair's lower member (R82). -/
def partner (n : Nat) : Nat := if n % 2 = 0 then n + 1 else n - 1
def lowerOf (n : Nat) : Nat := n - n % 2

/-- Whether output `n` belongs to a declared pair (R82): PAIR is 1 on both members. -/
def paired (s : State) (n : Nat) : Bool := s.is (.CH_DO_CFG_PAIR n) && s.is (.CH_DO_CFG_PAIR (partner n))

/-- The member whose settings govern output `n` (R82). -/
def govern (s : State) (n : Nat) : Nat := if paired s n then lowerOf n else n

/-- Bits of `CH_DIAG` (R83). -/
def dgWireBreak : Nat := 0
def dgShort : Nat := 1
def dgShortVf : Nat := 2
def dgOpenOn : Nat := 3
def dgOpenOff : Nat := 4
def dgOverload : Nat := 5
def dgThermal : Nat := 6
def dgClamp : Nat := 7
def dgHeadroom : Nat := 8
def dgOvervoltage : Nat := 9
def dgNoSupply : Nat := 10
def dgPairConflict : Nat := 11

/-- Locked off under R75 or R76. -/
def doLocked (s : State) (n : Nat) : Bool := (s.ch n).lock75 || diagLatched s n dgClamp

/-- A protective state that keeps an output off (R75, R76, R84, R585). -/
def doPrevented (s : State) (n : Nat) : Bool :=
  s.is (.CH_DO_STATE_TSD n) || doLocked s n || diagActive s n dgNoSupply || !(s.tile (tileOf n)).power

/-- A safe-state cause of a tile holds (R87). -/
def tileCause (s : State) (t : Nat) : Bool :=
  (s.tile t).holdC || s.is (.TILE_SAFE_WDOG t) || s.is (.TILE_SAFE_DOZE t) || s.is (.TILE_SAFE_IMAGE t)

/-- What output `n` would do were nothing to prevent it: its commanded state, or its safe state (R86, R87). -/
def doWanted (s : State) (n : Nat) : Bool :=
  if s.is (.TILE_SAFE_IMAGE (tileOf n)) then false
  else if s.is (.TILE_SAFE_ACTIVE (tileOf n)) then
    match s.get (.CH_DO_CFG_SAFE (govern s n)) with
    | 1 => true
    | 2 => (s.ch (govern s n)).heldOut
    | _ => false
  else s.is (.CH_DO_CMD_ON (govern s n))

/-- Whether the switch of output `n` conducts or is in PWM (R74, R82, R98). -/
def doOn (s : State) (n : Nat) : Bool :=
  doWanted s n && !doPrevented s n && !(paired s n && doPrevented s (partner n))

/-- What the switch of output `n` does beside its registers when it conducts from now on (`on`) or not: pull-in starts at a switch-on and PWM after it, at once
where PULLIN is 0 (R78); 1 s of conduction breaks a row of shutdowns (R75, assumption log 80). -/
def doSwitch (s : State) (n : Nat) (on : Bool) (x : ChSt) : ChSt :=
  let was := s.is (.CH_DO_STATE_OUT n)
  let g := govern s n
  let free := was && decide (x.onSince + tickS ≤ clk s)
  { x with onSince := if on && !was then clk s else x.onSince,
           pwm := on && s.is (.CH_DO_CFG_PWM_EN g) && (s.get (.CH_DO_CFG_PULLIN g) == 0 || (was && x.pwm)),
           tsdRow := if free && !on then 0 else x.tsdRow }

/-- Status of output `n` follows from what holds now (R98): OUT, LOCKED, PAIRED, SAFE. OPEN_OFF ends when the output is on, OPEN_ON when it is off (R84). -/
def doRefresh1 (n : Nat) (s : State) : State :=
  let on := doOn s n
  let s1 := (countOn n s).modCh n (doSwitch s n on)
  let safe := s.is (.TILE_SAFE_ACTIVE (tileOf n))
  let s2 := (((s1.putB (.CH_DO_STATE_OUT n) on).putB (.CH_DO_STATE_LOCKED n) (doLocked s n)).putB (.CH_DO_STATE_PAIRED n) (paired s n)).putB
    (.CH_DO_STATE_SAFE n) safe
  diagClear n (if on then dgOpenOff else dgOpenOn) s2

/-- CFG_ADJ of output `n` as it reads (R7, R78, R86): a replaced PWM_FREQ, or SAFE = VALUE while the output is in its safe state (assumption log 58). -/
def doAdj (s : State) (n : Nat) : Bool :=
  s.is (.CH_DO_STATE_CFG_ADJ n)
    || (s.is (.TILE_SAFE_ACTIVE (tileOf n)) && !s.is (.TILE_SAFE_IMAGE (tileOf n)) && s.get (.CH_DO_CFG_SAFE (govern s n)) == 3)

/-- Both members of a pair are refreshed together (R82). -/
def doRefresh (n : Nat) (s : State) : State := doRefresh1 (partner n) (doRefresh1 n s)

/-- The converters of tile `t` by their number, the auxiliary one last (R155). -/
def tileConvs (t : Nat) : List Nat := [4 * t, 4 * t + 1, 4 * t + 2, 4 * t + 3, 64 + t]

/-- A tile reset, NO_SUPPLY or a link loss meets a calibration (R157): the tile's converters fail. -/
def calLose (t : Nat) (s : State) : State :=
  if 2 ≤ s.ca.calStep then s.modCa (fun c => { c with lost := tileConvs t ++ c.lost }) else s

/-- The active domain sends channel `n`'s setting and trim to the tile (R112, R113, R544), which holds them (R115). -/
def aoSend (n : Nat) (s : State) : State :=
  s.modCh n (fun x => { x with tileSet := if x.setSeen then some (s.get (.CH_AO_SET_SET n)) else none, tileTrim := rd s (Reg.CH_AO_TRIM n) })

/-- The setting that an AO20 output delivers, in 0.5 µA, or `none` for 0 mA (R115, R118, R124). -/
def aoSetting (s : State) (n : Nat) : Option Nat :=
  let t := tileOf n
  if s.get (.CH_AN_STATE_MODE_EFF n) ≠ 5 ∨ ¬ (s.tile t).power ∨ diagActive s n dgNoSupply ∨ diagActive s n dgThermal
      ∨ s.is (.TILE_SAFE_IMAGE t) then none
  else if s.is (.TILE_SAFE_ACTIVE t) then
    match s.get (.CH_AN_CFG_SAFE n) with
    | 2 => (s.ch n).heldMa
    | 3 => some (min 48000 (s.get (.CH_AO_SAFE_VALUE n)))
    | _ => none
  else (s.ch n).tileSet

/-- The DAC code of a setting under the trims (R113), rounded once, half away from zero. -/
def dacCode (lo hi : Int) (x : Nat) : Nat :=
  let num : Int := x * 65536 * 32000 + (lo * 32000 + (hi - lo) * ((x : Int) - 8000)) * 48000
  (clampI 0 65535 (divAway num (48000 * 32000))).toNat

/-- The DAC code of channel `n` under the trim that the tile holds; 0 mA is code 0. -/
def aoDac (s : State) (n : Nat) : Nat :=
  match aoSetting s n with
  | some x =>
    let t := (s.ch n).tileTrim
    dacCode (sext 16 (bits t (FldRef.CH_AO_TRIM_TRIM_LO n).hi (FldRef.CH_AO_TRIM_TRIM_LO n).lo))
      (sext 16 (bits t (FldRef.CH_AO_TRIM_TRIM_HI n).hi (FldRef.CH_AO_TRIM_TRIM_HI n).lo)) x
  | none => 0

/-- LP sources loop power in I20L unless in a hiccup, without supply or too hot (R103, R110, R124). -/
def lpOn (s : State) (n : Nat) : Bool :=
  s.get (.CH_AN_STATE_MODE_EFF n) == 4 && (s.tile (tileOf n)).power && !s.is (.CH_AN_STATE_LP_RETRY n)
    && !diagActive s n dgThermal && !diagActive s n dgNoSupply

/-- Status of analog channel `n` follows from what holds now (R118, R128), and with it what marks its periods (R121, R137). -/
def anRefresh (n : Nat) (s : State) : State :=
  let safe := s.is (.TILE_SAFE_ACTIVE (tileOf n)) && s.get (.CH_AN_STATE_MODE_EFF n) == 5
  noteMarks n ((s.putB (.CH_AN_STATE_LP_ON n) (lpOn s n)).putB (.CH_AN_STATE_SAFE n) safe)

/-- CFG_ADJ of analog channel `n` as it reads (R7, R104, R118, R121): a replaced MODE or safe value, an injection ignored or ended by AO20, or
SAFE = ON while the output is in its safe state (assumption log 58). -/
def anAdj (s : State) (n : Nat) : Bool :=
  s.is (.CH_AN_STATE_CFG_ADJ n) || (s.ch n).adjMode || (s.ch n).adjSafe
    || (s.is (.CH_AN_STATE_SAFE n) && !s.is (.TILE_SAFE_IMAGE (tileOf n)) && s.get (.CH_AN_CFG_SAFE n) == 1)

/-- Status of every output and analog channel of tile `t`. -/
def tileRefresh (t : Nat) (s : State) : State :=
  (s.each [8, 9, 10, 11] (fun k s => doRefresh1 (16 * t + k) s)).each [12, 13, 14, 15] (fun k s => anRefresh (16 * t + k) s)

/-- What the outputs of a tile had when the safe state began (R86, R118). -/
def captureHeld (t : Nat) (s : State) : State :=
  s.each (List.range 16) (fun k s0 =>
    let n := 16 * t + k
    s0.modCh n (fun x => { x with heldOut := s.is (.CH_DO_STATE_OUT n), heldMa := x.tileSet }))

/-- The tile's safe state follows its causes (R87): entered with what the outputs had, left once every cause is released. -/
def safeRefresh (t : Nat) (s : State) : State :=
  let c := tileCause s t
  let s1 := if c && !s.is (.TILE_SAFE_ACTIVE t) then captureHeld t s else s
  tileRefresh t (s1.putB (.TILE_SAFE_ACTIVE t) c)

/-- Every tile. -/
def allTiles (f : Nat → State → State) (s : State) : State := s.each (List.range 16) f

/-- PAIR_CONFLICT of output `n` (R82, R84): the latched bit only. -/
def pairConflict (n : Nat) (s : State) : State := diagLatch n (2 ^ dgPairConflict) s

/-- A write to output `n` that R82 refuses: the upper member of a pair, with a value other than the pair's state. -/
def doRefused (s : State) (n : Nat) (on : Bool) : Bool :=
  paired s n && n % 2 == 1 && on != s.is (.CH_DO_CMD_ON (lowerOf n))

/-- Sets the commanded state of one output (R74, R75, R79, R80): an off-to-on change counts, and SHORT_VF is not active while the output is commanded on; a
command to 0 releases the lock of R75. -/
def doSet1 (n : Nat) (on : Bool) (s : State) : State :=
  let s1 := if on && !s.is (.CH_DO_CMD_ON n) then s.inc (.CH_DO_SWCNT_CNT n) else s
  let s2 := s1.putB (.CH_DO_CMD_ON n) on
  if on then diagClear n dgShortVf s2 else s2.modCh n (fun x => { x with lock75 := false })

/-- A write of `CH_DO_CMD.ON` (R74, R82, R89). -/
def doCmd (n : Nat) (on : Bool) (s : State) : State :=
  if doRefused s n on then pairConflict n s
  else if paired s n then
    if n % 2 = 1 then s else doRefresh n (doSet1 n on (doSet1 (n + 1) on s))
  else doRefresh n (doSet1 n on s)

/-- DO_CMD_WRITE. -/
def execDoCmdWrite (r : Req) (n : Fin 256) (w : Word) (s : State) : Out :=
  .next (if isDO n then regWrite r (Reg.CH_DO_CMD n) Msk.CH_DO_CMD w (fun w => doCmd n (bitAt w 0)) s else s)

/-- A thermal shutdown is counted in its row; the 16th in a row locks the output off (R75). -/
def countShutdown (n : Nat) (s : State) : State :=
  let row := (s.ch n).tsdRow + 1
  s.modCh n (fun x => { x with tsdRow := row, tsdAt := clk s, lock75 := x.lock75 || decide (16 ≤ row) })

/-- THERMAL_SHUTDOWN (R75): the output turns off. -/
def execThermalShutdown (n : Fin 256) (s : State) : Out :=
  .next (if isDO n && s.is (.CH_DO_STATE_OUT n) then doRefresh n (countShutdown n (doRefresh n (s.set1 (.CH_DO_STATE_TSD n)))) else s)

/-- THERMAL_RESTART (R75): the channel has cooled, no sooner than 10 ms after the shutdown. -/
def execThermalRestart (n : Fin 256) (s : State) : Out :=
  .next (if isDO n && s.is (.CH_DO_STATE_TSD n) && decide ((s.ch n).tsdAt + tick10Ms ≤ clk s) then doRefresh n (s.put (.CH_DO_STATE_TSD n) 0) else s)

/-- A write of `CH_DO_ONTIME` or `CH_DO_CLAMP_SUM` (R79, R99): counting goes on from the value written, with no part of a unit carried over. -/
def onTimeWrite (n : Nat) (w : Word) (s : State) : State := (wr (Reg.CH_DO_ONTIME n) w s).modCh n (fun x => { x with onMark := clk s, onRem := 0 })
def clampSumWrite (n : Nat) (w : Word) (s : State) : State := (wr (Reg.CH_DO_CLAMP_SUM n) w s).modCh n (fun x => { x with clampRem := 0 })

/-- CLAMP_EVENT_END (R76, R99): `e` is the energy of the event in 0.01 mJ. The parts of 1 mJ of one event are added to the next (assumption log 80). -/
def execClampEventEnd (n : Fin 256) (e : Nat) (s : State) : Out :=
  .next (if isDO n && !s.is (.CH_DO_STATE_OUT n) && (s.tile (tileOf n)).power then
    let t := (s.ch n).clampRem + e
    let s1 := (s.put (.CH_DO_CLAMP_LAST_E n) (min e 0xFFFF)).addSat (.CH_DO_CLAMP_SUM_SUM n) (t / 100)
    let s2 := s1.modCh n (fun x => { x with clampRem := t % 100 })
    if 15000 < e then doRefresh n (diagSet n (2 ^ dgClamp) s2) else s2
  else s)

/-- PULLIN_END (R78): after PULLIN × 10 ms of full conduction the output starts PWM hold. -/
def execPullinEnd (n : Fin 256) (s : State) : Out :=
  .next (if isDO n && s.is (.CH_DO_STATE_OUT n) && s.is (.CH_DO_CFG_PWM_EN (govern s n))
      && decide ((s.ch n).onSince + s.get (.CH_DO_CFG_PULLIN (govern s n)) * tick10Ms ≤ clk s) then
    s.modCh n (fun x => { x with pwm := true })
  else s)

/-- Whether code `b` can be detected on digital channel `n` now (R84). NO_SUPPLY is the one that a tile without power shows too (assumption log 61). -/
def digDetectable (s : State) (n b : Nat) : Bool :=
  ((s.tile (tileOf n)).power || b == dgNoSupply) &&
  (if isDI n then (b == dgWireBreak && s.is (.CH_DI_CFG_WB_EN n)) || b == dgOvervoltage || b == dgNoSupply
   else isDO n && ((b == dgOpenOn && s.is (.CH_DO_CFG_OPEN_ON_EN (govern s n)) && s.is (.CH_DO_STATE_OUT n))
     || (b == dgOpenOff && s.is (.CH_DO_CFG_OFFTEST (govern s n)) && !s.is (.CH_DO_STATE_OUT n))
     || (b == dgShortVf && !s.is (.CH_DO_CMD_ON n)) || (b == dgOverload && s.is (.CH_DO_STATE_OUT n)) || b == dgThermal || b == dgNoSupply))

/-- DIGITAL_DIAG_DETECT (R83, R84): the conditions of the codes of mask `m` have persisted for their detection times. -/
def execDigitalDiagDetect (n : Fin 256) (m : BitVec 12) (s : State) : Out :=
  .next (let new := diagNew (digDetectable s n) s n m.toNat
  if new = 0 then s else if isDO n then doRefresh n (diagSet n new s) else diagSet n new s)

/-- DIGITAL_DIAG_CLEAR (R83, R84): the condition has stayed absent for its clearing time. CLAMP clears with its latched bit only, THERMAL not in a thermal
shutdown, and DI sampling resumes from the held level after NO_SUPPLY. -/
def execDigitalDiagClear (n : Fin 256) (b : Fin 12) (s : State) : Out :=
  .next (if (isDI n || isDO n) && diagActive s n b && b.val != dgClamp && !(isDO n && b.val == dgThermal && s.is (.CH_DO_STATE_TSD n)) then
    let s1 := diagClear n b s
    if isDO n then doRefresh n s1 else if b.val = dgNoSupply then s1.modCh n (fun x => { x with run := 0 }) else s1
  else s)

/-- A write of `CH_DIAG` (R83, R84, R76): clears latched bits; CLAMP's active bit clears with its latched bit and releases a switch-on held
back. -/
def diagWrite (n : Nat) (w : Word) (s : State) : State :=
  let m := bits w 27 16
  let s1 := s.put (.CH_DIAG_LATCHED n) (s.get (.CH_DIAG_LATCHED n) &&& (0xFFF ^^^ m))
  if isDO n then doRefresh n (if m.testBit dgClamp then diagClear n dgClamp s1 else s1) else s1

/-- CH_DIAG_CLEAR. -/
def execChDiagClear (r : Req) (n : Fin 256) (w : Word) (s : State) : Out :=
  .next (regWrite r (Reg.CH_DIAG n) Msk.CH_DIAG w (diagWrite n) s)

/-- Samples in a row that a debounce needs (R68). -/
def debRun (s : State) (n : Nat) : Nat := max 1 (10 * s.get (.CH_DI_CFG_DEB n))

/-- The counters of a debounced edge (R70): `up` its polarity, `ts` its stamp. -/
def diCount (n : Nat) (up : Bool) (ts : Nat) (s : State) : State :=
  let c := s.get (.CH_DI_CFG_CNT_EDGE n)
  let p := s.get (.CH_DI_CFG_PER_EDGE n)
  let s1 := s.put64 (Reg.CH_DI_TS n 0) ts
  let s2 := if c = 3 ∨ c = (if up then 1 else 2) then s1.incWrap (.CH_DI_EDGES_EDGES n) else s1
  if p ≠ 0 ∧ up = (p ≠ 2) then
    let s3 := match (s.ch n).perEdge with
      | some e => if ts - e ≤ 0xFFFFFFFF then (wr (Reg.CH_DI_PERIOD n) (wd (ts - e)) s2).put (.CH_DI_STATE_PERIOD_SAT n) 0
                  else (wr (Reg.CH_DI_PERIOD n) 0xFFFFFFFF s2).set1 (.CH_DI_STATE_PERIOD_SAT n)
      | none => s2
    s3.modCh n (fun x => { x with perEdge := some ts })
  else s2

/-- Ticks per event and the bucket's capacity (R209). -/
def evTicks (s : State) (n : Nat) : Nat := 49152000 / s.get (.CH_DI_EV_RATE n)
def evCap (s : State) (n : Nat) : Nat := max (s.get (.CH_DI_EV_BURST n)) 1 * evTicks s n

/-- Starts the bucket of R209 at the present tick, with the suppressed edges kept (R232). -/
def bucketStart (n : Nat) (s : State) : State :=
  s.modCh n (fun x => { x with bucket := evCap s n, lastTs := now s })

/-- R209: the rate limit of input `n` on an edge at `ts`: the channel after, and whether an event is raised. -/
def bucketStep (s : State) (n ts : Nat) : ChSt × Bool :=
  let x := s.ch n
  if s.get (.CH_DI_EV_RATE n) = 0 then ({ x with suppr := 0 }, true)
  else
    let b := min (evCap s n : Int) (x.bucket + max 0 ((ts : Int) - x.lastTs))
    let l := max x.lastTs ts
    if (evTicks s n : Int) ≤ b then ({ x with bucket := b - evTicks s n, lastTs := l, suppr := 0 }, true)
    else ({ x with bucket := b, lastTs := l, suppr := min (x.suppr + 1) 0xFFFF }, false)

/-- The event of a debounced edge (R209, R213): its pennant is written; the triggers it makes are returned. -/
def diEvent (n : Nat) (up : Bool) (ts : Nat) (s : State) : State × List Trig :=
  let e := s.get (.CH_DI_EV_EDGE n)
  if e = 3 ∨ e = (if up then 1 else 2) then
    let b := bucketStep s n ts
    let s1 := s.setCh n b.1
    if b.2 && s.is (.CH_DI_EV_PEN n) then
      let sup := (s.ch n).suppr
      let p : Pen := { ty := 0x05, flags := { irq := s.is (.CH_DI_EV_IRQ n), up := up, suppr := decide (sup ≠ 0) }, cls := 0, ix := n,
                       value := wd (sup * 65536 + b2n up), time := ts }
      (writePen .both p s1, [.pen p.ty p.cls p.ix p.value p.time])
    else (s1, [])
  else (s, [])

/-- A debounced edge: level, counters, dips that it still belongs to, event and triggers (R68, R70, R209, R218, R336). -/
def diEdge (n : Nat) (up : Bool) (ts : Nat) (s : State) : State × List Trig :=
  let s1 := ((s.putB (.CH_DI_STATE_LEVEL n) up).modCh n (fun x => { x with run := 0 }))
  let r := diEvent n up ts (dipEdge n ts (diCount n up ts s1))
  (r.1, r.2 ++ [.di n up ts])

/-- A write of `CH_DI_CFG` (R70, R93): a change of the edges that `CH_DI_PERIOD` times, 1 and 3 being the same, begins a new period (assumption log 80). -/
def diCfgWrite (n : Nat) (w : Word) (s : State) : State :=
  let edge := fun (s : State) => s.get (.CH_DI_CFG_PER_EDGE n) % 3 + s.get (.CH_DI_CFG_PER_EDGE n) / 3
  let s1 := store (Reg.CH_DI_CFG n) Msk.CH_DI_CFG w s
  if edge s1 = edge s then s1 else s1.modCh n (fun x => { x with perEdge := none })

/-- A running period past 2^32 − 1 ticks holds `CH_DI_PERIOD` at its limit (R70). -/
def diPeriodSat (n : Nat) (s : State) : State :=
  match (s.ch n).perEdge with
  | some e => if s.get (.CH_DI_CFG_PER_EDGE n) ≠ 0 ∧ e + 0xFFFFFFFF < now s then (wr (Reg.CH_DI_PERIOD n) 0xFFFFFFFF s).set1 (.CH_DI_STATE_PERIOD_SAT n) else s
  | none => s

/-- One sample of input `n` (R68, R84). -/
def diSample1 (n : Nat) (raw : Bool) (s : State) : State × List Trig :=
  if diagActive s n dgNoSupply then (s, []) else
  let s1 := diPeriodSat n (s.putB (.CH_DI_STATE_RAW n) raw)
  if raw = s.is (.CH_DI_STATE_LEVEL n) then (s1.modCh n (fun x => { x with run := 0 }), [])
  else
    let x := s.ch n
    let first := if x.run = 0 then now s else x.first
    if debRun s n ≤ x.run + 1 then diEdge n raw first s1
    else (s1.modCh n (fun x => { x with run := x.run + 1, first := first }), [])

/-- Samples of a tile's inputs from position `k` on. -/
def diSamples (t : Nat) (raw : BitVec 8) : List Nat → State × List Trig → State × List Trig
  | [], p => p
  | k :: ks, p =>
    let r := diSample1 (16 * t + k) (raw.toNat.testBit k) p.1
    diSamples t raw ks (r.1, p.2 ++ r.2)

/-- DI_SAMPLE: tile `t` samples its eight comparators (R68); contexts are triggered by what the sample decides. -/
def execDiSample (t : Fin 16) (raw : BitVec 8) (s : State) : Out :=
  .next (if (s.tile t).power then
    let r := diSamples t raw (List.range 8) (s, [])
    fireTrigs r.2 r.1
  else s)

/-- DI_EDGES_PRESET: a write of `CH_DI_EDGES` (R71). -/
def execDiEdgesPreset (r : Req) (n : Fin 256) (w : Word) (s : State) : Out :=
  .next (if isDI n then regWrite r (Reg.CH_DI_EDGES n) Msk.CH_DI_EDGES w (wr (Reg.CH_DI_EDGES n)) s else s)

/-- A write of `CH_DI_EV` restarts the bucket (R232). -/
def diEvWrite (n : Nat) (w : Word) (s : State) : State := bucketStart n (store (Reg.CH_DI_EV n) Msk.CH_DI_EV w s)

/-- DI_EV_WRITE. -/
def execDiEvWrite (r : Req) (n : Fin 256) (w : Word) (s : State) : Out :=
  .next (if isDI n then regWrite r (Reg.CH_DI_EV n) Msk.CH_DI_EV w (diEvWrite n) s else s)

/-- The edges of 0.9 × HOLD, before which the hold timer does not expire (R88): HOLD is in ms. -/
def holdMin (s : State) (t : Nat) : Nat := s.get (.TILE_CFG_HOLD t) * tick10Ms * 9 / 100

/-- TILE_HOLD_EXPIRY (R87, R88): the hold timer of tile `t` has expired. -/
def execTileHoldExpiry (t : Fin 16) (s : State) : Out :=
  .next (if (s.tile t).power && decide ((s.tile t).holdAt + holdMin s t ≤ clk s) then
    safeRefresh t ((s.set1 (.TILE_SAFE_HOLD t)).modTile t (fun x => { x with holdC := true }))
  else s)

/-- A write of `TILE_SAFE` (R87, R101): W1C; WDOG clears only while the watchdog has not expired. -/
def tileSafeWrite (t : Nat) (w : Word) (s : State) : State :=
  let w' := if s.is .MOD_WDOG_EXPIRED then setBits w 1 1 0 else w
  safeRefresh t (store (Reg.TILE_SAFE t) Msk.TILE_SAFE w' s)

/-- TILE_SAFE_WDOG_CLEAR. -/
def execTileSafeWdogClear (r : Req) (t : Fin 16) (w : Word) (s : State) : Out :=
  .next (regWrite r (Reg.TILE_SAFE t) Msk.TILE_SAFE w (tileSafeWrite t) s)

/-- A write of `TILE_CFG` (R100): HOLD outside 10 to 500 and DI_THR 3 are replaced, with CFG_ADJ. -/
def tileCfgWrite (t : Nat) (w : Word) (s : State) : State :=
  let h := bits w 24 16
  let h' := max 10 (min h 500)
  let d := bits w 1 0
  let d' := if d = 3 then 1 else d
  ((s.put (.TILE_CFG_HOLD t) h').put (.TILE_CFG_DI_THR t) d').putB (.TILE_CFG_CFG_ADJ t) (h ≠ h' || d ≠ d')

/-- A write of `CH_DO_CFG` (R78, R82, R96): PWM_FREQ outside 10 to 100 is replaced, with CFG_ADJ; pairs follow PAIR. -/
def doCfgWrite (n : Nat) (w : Word) (s : State) : State :=
  let f := bits w 30 24
  let f' := max 10 (min f 100)
  let s1 := store (Reg.CH_DO_CFG n) Msk.CH_DO_CFG (setBits w 30 24 f') s
  let s2 := s1.putB (.CH_DO_STATE_CFG_ADJ n) (f ≠ f')
  let s3 := if paired s2 n then s2.put (.CH_DO_CMD_ON (lowerOf n + 1)) (s2.get (.CH_DO_CMD_ON (lowerOf n))) else s2
  doRefresh n s3

end Sys2Proof.Machine
end

