-- ==== Sys2Proof/Machine/Wake.lean ====
section
/-! DEFINITION. The states of R530 as a change of state sets them, leaving DOZE (R534) and wake causes (R537). The commands are in `Power`. -/

namespace Sys2Proof.Machine

/-- The state that BOOT or WAKE_TO names (R548): 0 and 3 RUN, 1 LEAN, 2 DOZE. -/
def powerNamed (v : Nat) : Nat := if v = 1 then 2 else if v = 2 then 3 else 1

/-- The state after a wake. -/
def wakeTo (s : State) : Nat := powerNamed (s.get .MOD_POWER_WAKE_TO)

/-- A standby in step is IN_STEP in RUN and WARM in LEAN and DOZE (R530, R531). -/
def stbyFor (p : Nat) (x : Stby) : Stby :=
  match x with
  | .inStep => if p = 2 ∨ p = 3 then .warm else .inStep
  | .warm => if p = 1 then .inStep else .warm
  | y => y

/-- fM changes its rate at edge `e` (R136): modulator periods and auxiliary slots go on by their number. -/
def fmSet (e : Nat) (lean : Bool) (s : State) : State :=
  if fmLean s = lean then s
  else (rebaseAll { at_ := e, into := e, num := perTicks lean, den := per s } s).putB .CA_STAT_LEAN lean

/-- The module is in state `p` (R530) from edge `e`: in LEAN and DOZE fM is at its LEAN rate. -/
def setPowerAt (e p : Nat) (s : State) : State :=
  let s1 := (s.modPw (fun w => { w with power := p })).modSv (fun v => { v with stby := stbyFor p v.stby })
  if 1 ≤ p ∧ p ≤ 3 then fmSet e (p == 2 || p == 3) s1 else s1
def setPower (p : Nat) (s : State) : State := setPowerAt (now s) p s

/-- The edge at which acquisition starts on leaving DOZE (R534). -/
def edge64 (s : State) : Nat := (now s + 128 + 63) / 64 * 64

/-- Every tile's DOZE cause (R87). -/
def dozeCause (on : Bool) (s : State) : State := allTiles (fun t s => safeRefresh t (s.putB (.TILE_SAFE_DOZE t) on)) s

/-- Leaving DOZE (R534): fM, acquisition and the DOZE cause. -/
def leaveDoze (p : Nat) (s : State) : State :=
  if p = 3 then s else dozeCause false (startChainsAt (edge64 s) (setPowerAt (edge64 s) p s))

/-- `MOD_START` records a wake (R549). -/
def wakeRecord (cause src : Nat) (s : State) : State :=
  ((s.put .MOD_START_WAKE cause).put .MOD_START_WAKE_SRC src).put .MOD_START_PREV s.pw.power

/-- A wake cause of R537: it ends DOZE at once; in SLEEP it waits for the wake sequence. -/
def noteWake (cause src : Nat) (s : State) : State :=
  if s.pw.power = 3 then leaveDoze (wakeTo s) (wakeRecord cause src s)
  else if s.pw.power = 4 ∧ s.pw.wake.isNone then s.modPw (fun w => { w with wake := some (cause, src) })
  else s

end Sys2Proof.Machine
end

