-- ==== Sys2Proof/Machine/CanOps.lean ====
section
/-! DEFINITION. CAN frames, receive entries, status records and the transmit queue of a port (spec/10). What a port does on the bus is in
`CanPort`. -/

namespace Sys2Proof.Machine

/-- Format bits of an identifier word (R296). -/
def isXL (w : Word) : Bool := bitAt w 31
def isFD (w : Word) : Bool := bitAt w 30 && !bitAt w 31
def isIde (w : Word) : Bool := bitAt w 29

/-- Data lengths that DLC codes name (R289): ISO 11898-1. -/
def dlcLens : List Nat := [0, 1, 2, 3, 4, 5, 6, 7, 8, 12, 16, 20, 24, 32, 48, 64]

/-- LEN of a Classical or FD frame by its DLC (R300, R305). -/
def dlcLen (fd rtr : Bool) (dlc : Nat) : Nat :=
  if fd then dlcLens.getD (dlc % 16) 0 else if rtr then 0 else min (dlc % 16) 8

/-- The bytes of AF, little-endian, that stand before an XL frame's data (R300). -/
def afBytes (f : Frame) : List Byte := if isXL f.idw then leBytes 4 f.af.toNat else []

/-- A frame whose fields agree: LEN follows from the DLC, an XL frame has 1 to 2,048 bytes (R289, R300). -/
def frameOk (f : Frame) : Bool :=
  if isXL f.idw then bitAt f.idw 30 && !f.rtr && 1 ≤ f.data.length && f.data.length ≤ 2048
  else f.data.length == dlcLen (isFD f.idw) f.rtr f.dlc && decide (f.dlc < 16) && !(f.rtr && isFD f.idw)

/-- R306: whether a GO of the frame is refused with FORMAT. `len`: LEN as staged. -/
def formatBad (s : State) (p : Nat) (f : Frame) (len : Nat) : Bool :=
  let xl := isXL f.idw
  let fdf := bitAt f.idw 30
  (xl && !fdf) || (fdf && !s.is (.CAN_CFG_FD_EN p)) || (xl && !s.is (.CAN_CFG_XL_EN p)) || (f.rtr && fdf) || (isIde f.idw && xl)
    || (xl && (len = 0 || 2048 < len)) || (f.brs && !isFD f.idw) || (!isIde f.idw && bits f.idw 28 11 ≠ 0)

/-- The frame header of a receive entry (R300). -/
def rxHeader (e : RxEnt) : List Word :=
  let f := e.frame
  let xl := isXL f.idw
  [f.idw,
   wd (mk [(e.len % 4096, 20), (if xl then 0 else f.dlc % 16, 16), (b2n f.rtr, 15), (b2n f.brs, 14), (b2n f.esi, 13), (b2n f.sec, 12),
     (b2n e.trunc, 11), (b2n e.self, 10), (e.port % 4, 8), (if xl then f.sdt % 256 else 0, 0)]),
   wd f.ts,
   wd (mk [(if xl then f.vcid % 256 else 0, 24), (b2n e.noMatch, 22), (if e.noMatch then 0 else e.filter % 64, 16), (f.ts / 2 ^ 32 % 65536, 0)])]

/-- AF and data of a receive entry, in bytes (R300). -/
def rxBytes (e : RxEnt) : List Byte := afBytes e.frame ++ e.frame.data

/-- A receive entry cut to `n` bytes of AF and data (R301, R303): TRUNC when data is missing. -/
def rxCut (n : Nat) (e : RxEnt) : RxEnt :=
  let keep := n - (afBytes e.frame).length
  { e with frame := { e.frame with data := e.frame.data.take keep }, trunc := e.trunc || decide (keep < e.frame.data.length) }

/-- Pads a list of words with zeros to `n` words. -/
def padTo (n : Nat) (l : List Word) : List Word := l ++ List.replicate (n - l.length) 0

/-- A receive entry as an entry of a fixed queue of `b` bytes (R301): the header and as many bytes of AF and data as fit. -/
def rxFixed (b : Nat) (e : RxEnt) : List Word :=
  let x := rxCut (b - 16) e
  padTo (b / 4) (rxHeader x ++ packWords ((rxBytes x).take (b - 16)))

/-- The body of a receive entry in a variable queue (R301). -/
def rxBody (e : RxEnt) : List Word := rxHeader e ++ packWords (rxBytes e)

/-- Bytes of a receive entry. -/
def rxLen (e : RxEnt) : Nat := 16 + (rxBytes e).length

/-- Whether port `p`'s receive queue takes no frames (R301): disabled, of 8-byte entries, or channel-bound. -/
def rxqBad (s : State) (q : Nat) : Bool :=
  !qOn s q || s.get (.Q_CFG_ESIZE q) = 1 || (boundCh s q).isSome

/-- A status record of port `p` (R321): written under `CAN_RECMASK` to Q120 + p, with `MOD_IRQ.CAN` when written. -/
def canRecord (p ty detail : Nat) (tko hoist : Bool) (attempts : Nat) (w1 : Word) (tag stamp : Nat) (s : State) : State :=
  if bitAt (rd s (Reg.CAN_RECMASK p)) ty then
    let w0 := wd (mk [(ty, 24), (detail, 16), (s.get (.CAN_STAT_ERR_STATE p), 14), (s.get (.CAN_STAT_ALONE p), 13), (b2n tko, 12),
      (b2n (halfMast s), 11), (b2n hoist, 10), (min attempts 255, 0)])
    let ok := qFixed s (120 + p) 16 && qAccepts s (120 + p) .active 16
    let s1 := qPushFixed 16 (120 + p) .active [[w0, w1, wd (tag % 65536 * 65536 + stamp / 2 ^ 32 % 65536), wd stamp]] s
    if ok then raiseIrq irqCan s1 else s1
  else s

/-- A record of an event of the port itself, stamped now (R322). -/
def portRecord (p ty detail : Nat) (s : State) : State := canRecord p ty detail false false 0 0 0 (now s) s

/-- Whether a hoist program made the entry. -/
def TxSrc.isHoist : TxSrc → Bool
  | .hoist _ => true
  | _ => false

/-- Whether S0 or ring remote access made the entry (R306). -/
def TxSrc.isHost : TxSrc → Bool
  | .s0 => true
  | .ring => true
  | _ => false

/-- A record about entry `x` (R321, R322). -/
def entRecord (p ty detail : Nat) (x : TxEnt) (stamp : Nat) (s : State) : State :=
  canRecord p ty detail x.tko x.src.isHoist x.attempts x.frame.idw x.tag stamp s

/-- Entries queued in a port (R326, R331). A reference message goes ahead of all of them and is none of the 32 (R270, assumption log 87). -/
def txLevel (s : State) (p : Nat) : Nat := ((s.can p).txq.filter (fun x => x.src != .tu)).length
def txHostLevel (s : State) (p : Nat) : Nat := ((s.can p).txq.filter (fun x => x.src.isHost)).length

/-- The outcome of entry `id` reaches the context that waits for it under WAITTX (R381): F cleared when it completed, set when it was
abandoned. -/
def txOutcome (x : TxEnt) (ok : Bool) (s : State) : State :=
  match x.src with
  | .hoist c =>
    if (s.ctx c).wait = .txDone x.id then ctxResume c (s.ctx c).pc (s.modCtx c (fun y => { y with ff := !ok })) else s
  | .tu => if ok then s else s.modTu (fun t => { t with mStamp := none })
  | _ => s

/-- An entry leaves the queue. -/
def txDrop (p id : Nat) (s : State) : State :=
  s.modCan p (fun c => { c with txq := c.txq.filter (fun y => y.id ≠ id), att := if c.att = some id then none else c.att })

/-- A port's controller takes no part until it has integrated (R291). -/
def canIntegrate (p : Nat) (s : State) : State := s.putB (.CAN_STAT_INTEG p) ((s.can p).mode ≠ 0)

/-- A sleeping port wakes (R320): cause recorded, WAKE record with the identifier word of a wake frame (R321), integration. With a WAKE_MODE other than 0 it wakes the
module (R537). -/
def canWake (p cause stamp : Nat) (idw : Word) (s : State) : State :=
  if s.is (.CAN_STAT_ASLEEP p) then
    let s1 := (s.put (.CAN_STAT_ASLEEP p) 0).put (.CAN_WAKE_STAT_CAUSE p) cause
    let s2 := canIntegrate p (canRecord p 0x0C cause false false 0 idw 0 stamp s1)
    if s.get (.CAN_SLEEP_WAKE_MODE p) = 0 then s2 else noteWake 1 p s2
  else s

/-- An entry is queued (R305, R381); a sleeping port with WAKE_ON_TX wakes (R319). -/
def txQueue (p : Nat) (src : TxSrc) (prio tag : Nat) (report : Bool) (f : Frame) (s : State) : State :=
  let id := (s.can p).nextId
  let s1 := s.modCan p (fun c => { c with
    txq := c.txq ++ [{ id := id, src := src, prio := prio, tag := tag, report := report, frame := f, noStamp := src == .tu && s.tu.mFirst }],
    nextId := id + 1 })
  if s.is (.CAN_SLEEP_WAKE_ON_TX p) then canWake p 4 (now s) 0 s1 else s1

/-- `ALONE` is due and not set (R313). -/
def aloneDue (s : State) (p : Nat) : Bool :=
  !s.is (.CAN_STAT_ALONE p) && (s.get (.CAN_STAT_ALONE_FR p) = 3 || 96 ≤ s.get (.CAN_STAT_ACK_RUN p))

/-- Both counts of R313 start again. -/
def aloneRestart (p : Nat) (s : State) : State := (s.put (.CAN_STAT_ALONE_FR p) 0).put (.CAN_STAT_ACK_RUN p) 0

/-- `ALONE` clears (R314). -/
def aloneClear (p : Nat) (s : State) : State :=
  if s.is (.CAN_STAT_ALONE p) then portRecord p 0x08 0 (aloneRestart p (s.put (.CAN_STAT_ALONE p) 0)) else s

/-- The bit `ALONE` is set when it is due; what follows from it is `aloneTold` of the port. -/
def alonePut (p : Nat) (s : State) : State := if aloneDue s p then s.set1 (.CAN_STAT_ALONE p) else s

/-- An entry is abandoned (R309, R313, R322). Its record shows `ALONE` after it, and its context learns of it. -/
def txAbandon (p reason : Nat) (x : TxEnt) (s : State) : State :=
  let s1 := txDrop p x.id s
  let s2 := if reason = 2 then alonePut p (s1.addSat (.CAN_STAT_ALONE_FR p) 1) else aloneRestart p s1
  txOutcome x false (entRecord p 0x02 reason x (x.sof.getD (now s)) s2)

/-- Abandons the entries that `f` selects and that are in no attempt (R381, R394). -/
def txFlushIdle (p reason : Nat) (f : TxEnt → Bool) (s : State) : State :=
  s.each ((s.can p).txq.filter (fun x => f x && (s.can p).att ≠ some x.id)) (txAbandon p reason)

/-- Abandons the entries that `f` selects: those in no attempt now, one in an attempt when it has failed (R310). -/
def txFlush (p reason : Nat) (f : TxEnt → Bool) (s : State) : State :=
  txFlushIdle p reason f (s.modCan p (fun c => { c with
    txq := c.txq.map (fun x => if f x && c.att = some x.id then { x with flush := some reason } else x) }))

/-- The error state that the counters give (R311, ISO 11898-1): bus-off above 255, error-passive from 128. -/
def errStateOf (tec rec : Nat) : Nat := if 255 < tec then 2 else if 128 ≤ tec ∨ 128 ≤ rec then 1 else 0

/-- Word of `CAN_RXQ` as it reads (R301): ERR for an enabled queue that takes no frames. -/
def canRxqVal (s : State) (p : Nat) : Word :=
  let w := rd s (Reg.CAN_RXQ p)
  let e0 := bitAt w 7 && rxqBad s (bits w 6 0)
  let e1 := bitAt w 15 && rxqBad s (bits w 14 8)
  setBits w 17 16 (b2n e0 + 2 * b2n e1)

/-- `CAN_TX_STAT` as requester `r` reads it (R331). -/
def canTxStatVal (s : State) (p : Nat) (r : Req) : Word :=
  let c := s.can p
  let res := match r with
    | .ring => c.resRing
    | .s0 => c.resS0
    | _ => 0
  wd (mk [(res, 28), (txHostLevel s p, 16), (txLevel s p, 8)])

/-- The port takes part in the bus: a mode other than OFF, awake, integrated, a domain active (R53, R290, R291). -/
def canRuns (s : State) (p : Nat) : Bool :=
  s.sv.anyActive && (s.can p).mode != 0 && !s.is (.CAN_STAT_ASLEEP p) && !s.is (.CAN_STAT_INTEG p)
    && s.pw.power != 0 && s.pw.power != 4 && s.pw.power != 6

/-- Filter pair `f` matches a frame (R297, R298). -/
def filterHit (s : State) (p f : Nat) (x : Frame) : Bool :=
  let tgt := s.get (.FLT_CTL_TARGET p f)
  let ix := s.get (.FLT_CTL_INDEX p f)
  let m := s.get (.FLT_CTL_RTR_MODE p f)
  s.is (.FLT_CTL_EN p f) && !(tgt = 2 && 31 < ix) && !(tgt = 3 && 159 < ix)
    && ((x.idw ^^^ rd s (Reg.FLT_ID p f)) &&& rd s (Reg.FLT_IDMASK p f)) == 0
    && (decide (2 ≤ m) || (x.rtr == (m == 1)))
    && (!isXL x.idw ||
        (((x.sdt ^^^ s.get (.FLT_XL_SDT p f)) &&& s.get (.FLT_XL_SDTM p f)) == 0
          && ((x.vcid ^^^ s.get (.FLT_XL_VCID p f)) &&& s.get (.FLT_XL_VCIDM p f)) == 0
          && ((x.af ^^^ rd s (Reg.FLT_AF p f)) &&& rd s (Reg.FLT_AFMASK p f)) == 0))

/-- The pairs that deliver a frame, in order (R297): each that matches, up to the first without ALSO. -/
def filterPairs (s : State) (p : Nat) (x : Frame) : Nat → Nat → List Nat
  | _, 0 => []
  | f, n + 1 =>
    if filterHit s p f x then (if s.is (.FLT_CTL_ALSO p f) then f :: filterPairs s p x (f + 1) n else [f])
    else filterPairs s p x (f + 1) n

/-- The deliveries of a frame: target, index, pair, NOMATCH (R297, R298); each target at most once. -/
def deliveries (s : State) (p : Nat) (x : Frame) : List (Nat × Nat × Nat × Bool) :=
  match filterPairs s p x 0 64 with
  | [] =>
    let m := s.get (.CAN_RXQ_NOMATCH p)
    if m = 1 then [(0, 0, 0, true)] else if m = 2 then [(1, 0, 0, true)] else []
  | l =>
    l.foldl (fun acc f =>
      let tgt := s.get (.FLT_CTL_TARGET p f)
      let ix := if tgt = 2 ∨ tgt = 3 then s.get (.FLT_CTL_INDEX p f) else 0
      if acc.any (fun t => t.1 = tgt && t.2.1 = ix) then acc else acc ++ [(tgt, ix, f, false)]) []

/-- The port decodes the frame's format (R289, R324). -/
def canDecodes (s : State) (p : Nat) (x : Frame) : Bool :=
  (!isFD x.idw || s.is (.CAN_CFG_FD_EN p)) && (!isXL x.idw || s.is (.CAN_CFG_XL_EN p))

end Sys2Proof.Machine
end

