-- ==== Sys2Proof/Machine/Flags.lean ====
section
/-! DEFINITION. The flags of a context (R371) and the conditions of BR (R372). -/

namespace Sys2Proof.Machine

/-- Z, N, C, V (R371). -/
structure Flags where
  z : Bool
  n : Bool
  c : Bool
  v : Bool
  deriving DecidableEq, Repr

/-- Z and N of a result; C and V clear (R371). -/
def flagsOf (r : Word) : Flags := { z := r == 0, n := bitAt r 31, c := false, v := false }

/-- Flags of a + b (R371): C the carry, V signed overflow. -/
def addFlags (a b : Word) : Flags :=
  let r := a + b
  { z := r == 0, n := bitAt r 31, c := decide (2 ^ 32 ≤ a.toNat + b.toNat), v := decide (a.toInt + b.toInt ≠ r.toInt) }

/-- Flags of a − b (R371): C the borrow, V signed overflow. -/
def subFlags (a b : Word) : Flags :=
  let r := a - b
  { z := r == 0, n := bitAt r 31, c := decide (a.toNat < b.toNat), v := decide (a.toInt - b.toInt ≠ r.toInt) }

/-- Stores the flags of context `c`. -/
def setFlags (c : Nat) (f : Flags) (s : State) : State := s.modCtx c (fun x => { x with zf := f.z, nf := f.n, cf := f.c, vf := f.v })

/-- Stores F of context `c`. -/
def setF (c : Nat) (b : Bool) (s : State) : State := s.modCtx c (fun x => { x with ff := b })

/-- Whether condition `d` of R372 holds; `none` for 11 to 15. -/
def condition (x : CtxSt) (d : Nat) : Option Bool :=
  match d with
  | 0 => some true
  | 1 => some x.zf
  | 2 => some (!x.zf)
  | 3 => some (x.nf != x.vf)
  | 4 => some (x.nf == x.vf)
  | 5 => some x.cf
  | 6 => some (!x.cf)
  | 7 => some (!x.zf && x.nf == x.vf)
  | 8 => some (x.zf || x.nf != x.vf)
  | 9 => some x.ff
  | 10 => some (!x.ff)
  | _ => none

end Sys2Proof.Machine
end

