-- ==== Sys2Proof/Machine/Operands.lean ====
section
/-! DEFINITION. How an engine fetches and decodes an instruction (R366 to R373), the second operand, the variable array, and what every
instruction does around its own effect (R340, R399). -/

namespace Sys2Proof.Machine

/-- A byte of flash: select `cs`, byte address `a`; erased flash reads 0xFF. -/
def flashIx (cs a : Nat) : Nat := cs * 2 ^ 29 + a
def flashByte (s : State) (cs a : Nat) : Byte := kget 0xFF s.flash (flashIx cs a)

/-- Bytes of flash from address `a`. -/
def flashBytes (s : State) (cs a n : Nat) : List Byte := (List.range n).map (fun i => flashByte s cs (a + i))

/-- The region of a program base (R366): hoist memory, or the resident BLOB it lies in; its first address and the one past its last. -/
def regionOf (s : State) (p : Nat) : Option (Nat × Nat) :=
  if p % 4 ≠ 0 then none
  else if 0x80000 ≤ p ∧ p < 0xC0000 then some (0x80000, 0xC0000)
  else if 0x10000000 ≤ p ∧ p < 0x14000000 then
    match s.bt.blobs.find? (fun b => decide (b.1 ≤ p - 0x10000000) && decide (p - 0x10000000 < b.1 + b.2)) with
    | some b => some (0x10000000 + b.1, 0x10000000 + b.1 + b.2)
    | none => none
  else none

/-- What a fetch of a word gives (R366, R367). -/
inductive Fetched where
  | ok (l : List Word)
  | bad (a : Nat)
  | miss (a : Nat)
  deriving DecidableEq, Repr

/-- Set and tag of a flash address in the hoist cache (R367): 256 sets of 4 lines of 64 bytes. -/
def cacheSet (a : Nat) : Nat := a / 64 % 256
def cacheTag (a : Nat) : Nat := a / 64

/-- A line is in the cache. -/
def cached (s : State) (a : Nat) : Bool := (kget [] s.hcache (cacheSet a)).contains (cacheTag a)

/-- A line becomes the most recently used of its set; a fifth leaves (R367). -/
def cacheUse (a : Nat) (s : State) : State :=
  let l := kget [] s.hcache (cacheSet a)
  { s with hcache := kset [] s.hcache (cacheSet a) ((cacheTag a :: l.filter (fun t => t ≠ cacheTag a)).take 4) }

/-- The word that a program reads at an address. -/
def progWord (s : State) (a : Nat) : Word :=
  if a < 0x10000000 then rd s a else wd (leNat (flashBytes s 0 (a - 0x10000000) 4))

/-- One fetch for context `c` (R366, R367). -/
def fetchWord (s : State) (c a : Nat) : Fetched :=
  match regionOf s (s.get (.CTX_PROG_PROG c)) with
  | none => .bad a
  | some (lo, hi) =>
    if a % 4 ≠ 0 ∨ a < lo ∨ hi < a + 4 then .bad a
    else if 0x10000000 ≤ a ∧ ¬ cached s a then .miss a
    else .ok [progWord s a]

/-- Fetches `n` words from `a` on; the first that fails decides. -/
def fetchWords (s : State) (c : Nat) : Nat → Nat → Fetched
  | _, 0 => .ok []
  | a, n + 1 =>
    match fetchWord s c a with
    | .ok w =>
      (match fetchWords s c (a + 4) n with
        | .ok l => .ok (w ++ l)
        | e => e)
    | e => e

/-- Marks the lines of `n` words from `a` as used. -/
def touchLines (a n : Nat) (s : State) : State :=
  if a < 0x10000000 then s else s.each ((List.range n).map (fun i => a + 4 * i)) cacheUse

/-- Fetches words for context `c` and goes on with them; a word outside the region ends the run FETCH_ERR, one that is not in the cache
leaves the context BLOCKED with WAIT_ON 10 (R366, R367). -/
def withWords (c a n : Nat) (f : List Word → State → State) (s : State) : State :=
  match fetchWords s c a n with
  | .ok l => f l (touchLines a n s)
  | .bad x => endRun c ccFetchErr (wd x) s
  | .miss x => ctxBlock c 10 (.fetch x) s

/-- The fields of an instruction word (R369), and its opcode. -/
def opOf (w : Word) : Nat := bits w 31 26
def fieldsOf (w e : Word) : HWord :=
  { d := bits w 25 22, a := bits w 21 18, i := bitAt w 17, x := bitAt w 16, k := bits w 15 0, e := e }

/-- Assigned opcodes (R373). -/
def assignedOps : List Nat :=
  [0x01, 0x02, 0x03, 0x04, 0x05, 0x06, 0x07, 0x08, 0x09, 0x0A, 0x0B, 0x10, 0x11, 0x12, 0x13, 0x14, 0x15, 0x16, 0x18, 0x19, 0x1A, 0x1B, 0x1C,
   0x1D, 0x1E, 0x1F, 0x20, 0x21, 0x22, 0x23, 0x24, 0x25, 0x26, 0x27, 0x28, 0x29, 0x2A, 0x2C, 0x2D, 0x2E, 0x2F, 0x30, 0x31, 0x34, 0x35, 0x38]

/-- Whether X must be clear, set, or may be either (R370). -/
inductive XRule where
  | never
  | always
  | either
  deriving DecidableEq, Repr

def XRule.ok (r : XRule) (x : Bool) : Bool :=
  match r with
  | .never => !x
  | .always => x
  | .either => true

/-- V[i] of context `c`. -/
def getV (s : State) (c i : Nat) : Word := rd s (Reg.CTX_V c i)
def setV (c i : Nat) (w : Word) (s : State) : State := wr (Reg.CTX_V c i) w s

/-- The second operand is well encoded (R370). -/
def op2Ok (h : HWord) : Bool := h.i || h.k / 16 == 0

/-- op2 with K sign-extended, and with K zero-extended (R370). -/
def op2s (s : State) (c : Nat) (h : HWord) : Word := if h.i then wd (toU 32 (sext 16 h.k)) else getV s c (h.k % 16)
def op2z (s : State) (c : Nat) (h : HWord) : Word := if h.i then wd h.k else getV s c (h.k % 16)

/-- No second operand, and K is not named (R370). -/
def noK (h : HWord) : Bool := h.i && h.k == 0

/-- The address of RDR and WRR (R379): E, or V[A] + op2, which RDR sign-extends (R370). -/
def regAddr (s : State) (c : Nat) (h : HWord) (signed : Bool) : Nat :=
  if h.x then h.e.toNat else (getV s c h.a + (if signed then wd (toU 32 (sext 16 h.k)) else wd h.k)).toNat

/-- The address after the instruction (R369). -/
def nextPc (h : HWord) (pc : Nat) : Nat := (pc + (if h.x then 8 else 4)) % 2 ^ 32

/-- "This address + 4 × K" (R370). -/
def branchTo (h : HWord) (pc : Nat) : Nat := toU 32 ((pc : Int) + 4 * sext 16 h.k)

/-- The address of a literal or descriptor that E names, if E is a multiple of 4 (R370). -/
def refOf (s : State) (c : Nat) (e : Word) : Option Nat :=
  if e.toNat % 4 = 0 then some ((s.get (.CTX_PROG_PROG c) + e.toNat) % 2 ^ 32) else none

/-- The variable array (R370). -/
def varBytes (s : State) (c : Nat) : List Byte := (List.range 16).flatMap (fun i => leBytes 4 (getV s c i).toNat)

/-- Stores the variable array. -/
def putVarBytes (c : Nat) (l : List Byte) (s : State) : State :=
  s.each (List.range 16) (fun i s => setV c i (wd (leNat ((l.drop (4 * i)).take 4))) s)

/-- Replaces bytes of a list from offset `o`. -/
def overlay (l : List Byte) (o : Nat) (b : List Byte) : List Byte := l.take o ++ b ++ l.drop (o + b.length)

/-- The data bytes of the current frame (R378). -/
def curBytes (s : State) (c : Nat) : List Byte := ((s.ctx c).cur.map (fun e => e.frame.data)).getD []

/-- A refusal (R390): ends the run, or sets F. -/
def refuse (c pc : Nat) (nofault : Bool) (s : State) : State :=
  if nofault then setF c true s else endRun c ccRefused (wd (offOf s c pc)) s

/-- Instructions of a slice (R340, R365). -/
def sliceLen (s : State) : Nat := 64 * (if s.get .HE_CFG_SLICE = 0 then 16 else s.get .HE_CFG_SLICE)

/-- Whether engine `e` may still execute an instruction in its slice; a run of up to 8 RDR is not split (R340, R379). -/
def sliceLeft (s : State) (e : Nat) (rdr : Bool) : Bool :=
  let x := s.eng e
  decide (x.count < sliceLen s) || (rdr && decide (0 < x.rdrs) && decide (x.rdrs < 8))

/-- Counts an instruction of engine `e`. -/
def countInstr (e : Nat) (rdr : Bool) (s : State) : State :=
  let x := s.eng e
  s.setEng e { x with count := x.count + 1, rdrs := if rdr then x.rdrs + 1 else 0 }

/-- The context that engine `e` executes, in RUNNING. -/
def runningOn (s : State) (e : Nat) : Option Nat :=
  match (s.eng e).ctx with
  | some c => if s.get (.CTX_STAT_STATE c) = stRunning then some c else none
  | none => none

/-- Engine `e` fetches its context's next word, which must hold opcode `op`, checks X, and executes `f` (R340, R366, R370, R373). With another opcode
nothing happens: the command names another instruction. -/
def runInstr (op : Nat) (x : XRule) (e : Nat) (f : Nat → HWord → State → State) (s : State) : State :=
  match runningOn s e with
  | none => s
  | some c =>
    if ¬ sliceLeft s e (op == 0x26) then s else
    let pc := (s.ctx c).pc
    withWords c pc 1 (fun l s =>
      let w := l.getD 0 0
      if opOf w ≠ op then s
      else
        let s1 := countInstr e (op == 0x26) s
        if ¬ x.ok (bitAt w 16) then progErr c pc s1
        else if bitAt w 16 then withWords c ((pc + 4) % 2 ^ 32) 1 (fun l s => f c (fieldsOf w (l.getD 0 0)) s) s1
        else f c (fieldsOf w 0) s1) s

/-- Executes `f` when the encoding check holds, else PROG_ERR (R373, R399). -/
def checked (c : Nat) (ok : Bool) (f : State → State) (s : State) : State := if ok then f s else progErr c (s.ctx c).pc s

/-- Execution goes on at `pc`. -/
def setPc (c pc : Nat) (s : State) : State := s.modCtx c (fun x => { x with pc := pc })

/-- Execution goes on after the instruction. -/
def stepOver (c : Nat) (h : HWord) (s : State) : State := setPc c (nextPc h (s.ctx c).pc) s

/-- Execution goes on at `pc`: at once on an engine, else the context becomes READY. -/
def goOn (c pc : Nat) (s : State) : State :=
  if s.get (.CTX_STAT_STATE c) = stRunning then s.modCtx c (fun x => { x with pc := pc, wait := .none }) else ctxResume c pc s

end Sys2Proof.Machine
end

