-- ==== Sys2Proof/Machine/Expect.lean ====
section
/-! DEFINITION. Outcomes, actions, retries and sequence counters (R345 to R352, R382, R384 to R386). -/

namespace Sys2Proof.Machine

/-- Outcome codes (R346). -/
def ocMatch : Nat := 0
def ocTimeout : Nat := 1
def ocUnexpected : Nat := 2
def ocCorrupt : Nat := 3
def ocDuplicate : Nat := 4
def ocRestart : Nat := 5
def ocAbsent : Nat := 6
def ocPortOff : Nat := 7

/-- Widths of the sequence fields in use (R364): at most 16. -/
def rxw (s : State) (c : Nat) : Nat := min (s.get (.CTX_SEQCFG_RXW c)) 16
def txw (s : State) (c : Nat) : Nat := min (s.get (.CTX_SEQCFG_TXW c)) 16

/-- TX_SEQ advances by 1 modulo 2^TXW (R382). -/
def advanceTx (c : Nat) (s : State) : State := s.put (.CTX_SEQ_TX_SEQ c) ((s.get (.CTX_SEQ_TX_SEQ c) + 1) % 2 ^ txw s c)

/-- What an outcome does to the sequence counters, k and P (R348, R351, R382). `seq`: the frame's sequence number, when it was read. -/
def onOutcome (c o : Nat) (seq : Option Nat) (s : State) : State :=
  let s1 := s.put (.CTX_STAT_LAST_OUT c) o
  let s2 := match seq with
    | some q => if o = ocMatch ∨ o = ocRestart then (s1.put (.CTX_SEQ_RX_SEQ c) q).set1 (.CTX_STAT_RX_VALID c) else s1
    | none => s1
  if o = ocMatch then
    (if (s.ctx c).p then advanceTx c s2 else s2).modCtx c (fun x => { x with k := 0, p := false })
  else if o = ocRestart ∧ s.is (.CTX_SEQCFG_TXRST c) then
    (s2.put (.CTX_SEQ_TX_SEQ c) (s.get (.CTX_SEQSTART_TX_START c))).modCtx c (fun x => { x with p := false })
  else s2

/-- Completion code of an outcome (R358): outcome code + 0x0F. A run that MATCH ends FAULTED has no code stated: a free one, not OK's. -/
def outCode (s : State) (o : Nat) : Nat := if o = ocMatch then 1 + (freeNow s).toNat % 255 else o + 0x0F

/-- Ends the run FAULTED with an outcome's code (R350); `at_`: address of the deciding instruction. -/
def outcomeFail (c o at_ : Nat) (s : State) : State :=
  endRun c (outCode s o) (wd (offOf s c at_)) (if o = ocMatch then s.useFree else s)

/-- The backoff before the k-th retry, in ms (R352). -/
def backoffMs (s : State) (c k : Nat) : Nat :=
  let base := s.get (.CTX_RETRY_BASE c)
  let m := s.get (.CTX_RETRY_MODE c)
  let d := if m = 0 then 0 else if m = 1 then k * base else base * 2 ^ (k - 1)
  if s.get (.CTX_LIMITS_BACKMAX c) = 0 then d else min d (s.get (.CTX_LIMITS_BACKMAX c))

/-- RETRY or RESYNC (R351). -/
def retryRun (c o at_ : Nat) (resync : Bool) (s : State) : State :=
  let x := s.ctx c
  let b := s.get (.CTX_RETRY_BUDGET c)
  if x.inResync then outcomeFail c o at_ s
  else if b ≠ 255 ∧ b ≤ x.used then outcomeFail c o at_ (s.modCtx c (fun x => { x with budget := true }))
  else if s.is (.CTX_STAT_ONCE_OPEN c) ∧ x.retryPre then endRun c ccOnceRetry (wd (offOf s c at_)) s
  else
    let s1 := (s.inc (.CTX_CNT_RETRIES c)).modCtx c (fun x => { x with used := x.used + 1, k := x.k + 1, p := false })
    let rs := s.get (.CTX_RESYNC_ADDR c)
    ctxWait c 4 (.backoff (clk s + 49152 * backoffMs s c (x.k + 1)) resync) (setPc c (if resync ∧ rs ≠ 0 then rs else x.retryPt) s1)

/-- The end of a backoff (R351, R375). -/
def backoffEnd (c : Nat) (resync : Bool) (s : State) : State :=
  let s1 := if s.is (.CTX_RETRY_KEEP c) then s else s.modCtx c (fun x => { x with inbox := [] })
  let rs := s.get (.CTX_RESYNC_ADDR c)
  if resync ∧ rs ≠ 0 then
    ctxResume c rs ((setV c 15 (wd (offOf s c (s.ctx c).retryPt)) s1).modCtx c (fun x => { x with inResync := true, resyncRet := x.retryPt }))
  else ctxResume c (s.ctx c).retryPt s1

/-- Action of outcome `o` in a word of actions (R384, R385). -/
def actionOf (d6 : Word) (o : Nat) : Nat := bits d6 (3 * o + 2) (3 * o)

/-- A word of actions is valid (R385). -/
def actionsOk (d6 : Word) : Bool := bits d6 31 24 == 0 && (List.range 8).all (fun o => actionOf d6 o ≤ 5)

/-- The target of JUMP (R370, R384): JA on MATCH, JB otherwise, in words from `CTX_PROG`. -/
def jumpOf (s : State) (c o : Nat) (d7 : Word) : Nat :=
  toU 32 ((s.get (.CTX_PROG_PROG c) : Int) + 4 * sext 16 (if o = ocMatch then bits d7 31 16 else bits d7 15 0))

/-- Words of a descriptor. -/
def dw (d : List Word) (i : Nat) : Word := d.getD i 0

/-- A descriptor of an EXPECT is valid (R384, R385, R395); `unit`: the context has a CV unit. -/
def descOk (unit : Bool) (d : List Word) : Bool :=
  bits (dw d 4) 7 2 == 0 && bits (dw d 5) 27 24 == 0 && bits (dw d 5) 7 0 == 0 && actionsOk (dw d 6) && (!bitAt (dw d 5) 31 || unit)

/-- The CV unit that a context's check instructions use (R395, R479): bound, and not disabled. -/
def cvOf (s : State) (c : Nat) : Option Nat :=
  if s.is (.CTX_BIND_CVU_EN c) ∧ s.get (.CV_CFG_WIDTH (s.get (.CTX_BIND_CVU c))) ≠ 0 then some (s.get (.CTX_BIND_CVU c)) else none

/-- Test 1 of R347: the frame matches descriptor `d` (R384). Masked bytes past LEN do not match. -/
def frameMatch (d : List Word) (e : RxEnt) : Bool :=
  ((e.frame.idw ^^^ dw d 0) &&& dw d 1) == 0
    && (List.range 4).all (fun j =>
      let m := bits (dw d 3) (8 * j + 7) (8 * j)
      m == 0 ||
        (match e.frame.data[bits (dw d 4) 15 8 + j]? with
          | some b => (b.toNat ^^^ bits (dw d 2) (8 * j + 7) (8 * j)) &&& m == 0
          | none => false))

/-- Test 2 of R347: the check of descriptor `d` by a unit with settings `p` passes (R384). -/
def checkOk (p : CvPar) (d : List Word) (e : RxEnt) : Bool :=
  let n := bits (dw d 5) 29 28 + 1
  let from_ := bits (dw d 5) 23 16
  let tail := bits (dw d 5) 15 8
  let l := e.frame.data
  if l.length < from_ + tail + n then false
  else
    let end_ := l.length - tail - n
    let v := (l.drop end_).take n
    let want := if bitAt (dw d 5) 30 then beNat v else leNat v
    (p.finish (p.feed p.start ((l.take end_).drop from_))) % 2 ^ (8 * n) == want

/-- Test 3 of R347: the outcome and the sequence number read. -/
def seqTest (s : State) (c : Nat) (e : RxEnt) : Nat × Option Nat :=
  let w := rxw s c
  if w = 0 then (ocMatch, none)
  else
    let n := (w + 7) / 8
    let pos := s.get (.CTX_SEQCFG_RXPOS c)
    if e.frame.data.length < pos + n then (ocUnexpected, none)
    else
      let v := (e.frame.data.drop pos).take n
      let q := (if s.is (.CTX_SEQCFG_RXBE c) then beNat v else leNat v) % 2 ^ w
      let last := s.get (.CTX_SEQ_RX_SEQ c)
      if ¬ s.is (.CTX_STAT_RX_VALID c) then (ocMatch, some q)
      else if q = (last + 1) % 2 ^ w then (ocMatch, some q)
      else if q = last % 2 ^ w then (ocDuplicate, some q)
      else if q = s.get (.CTX_SEQSTART_RX_START c) % 2 ^ w then (ocRestart, some q)
      else if s.is (.CTX_SEQCFG_GAP_OK c) then (ocMatch, some q)
      else (ocUnexpected, some q)

/-- Bytes of a frame's LEN that an entry does not hold (R344). -/
def rxMissing (e : RxEnt) : Nat := e.len - e.frame.data.length

/-- A frame as its LEN gives it (R347, R384): bytes that its inbox entry does not hold are free values (assumption log 89). -/
def rxFull (s : State) (e : RxEnt) : RxEnt :=
  { e with frame := { e.frame with data := e.frame.data ++ (List.range (rxMissing e)).map (fun i => (Config.freeWord (s.free + i)).setWidth 8) } }

/-- What the classification of a frame gives (R347, R386, R395): an outcome with the deciding descriptor and the sequence number, a unit that
another holds, or a check made while the context holds the unit. -/
inductive Verdict where
  | out (o j : Nat) (seq : Option Nat)
  | busy
  | misheld
  deriving DecidableEq, Repr

/-- The first descriptor that a frame matches. -/
def firstMatch : Nat → List (List Word) → RxEnt → Option Nat
  | _, [], _ => none
  | j, d :: l, e => if frameMatch d e then some j else firstMatch (j + 1) l e

/-- R347, R386: classifies a frame. -/
def classify (s : State) (c : Nat) (w : ExpectW) (e : RxEnt) : Verdict :=
  match firstMatch 0 w.descs e with
  | none => .out ocUnexpected 0 none
  | some j =>
    let d := w.descs.getD j []
    let t := seqTest s c e
    if bitAt (dw d 5) 31 then
      match cvOf s c with
      | none => .misheld
      | some u =>
        if (s.cv u).hold = .ctx c then .misheld
        else if (s.cv u).hold ≠ .free then .busy
        else if checkOk (cvPar s u) d e then .out t.1 j t.2 else .out ocCorrupt j none
    else .out t.1 j t.2

/-- The action of an outcome (R350, R386). `j`: the deciding descriptor; `e`: the frame. UNEXPECTED and JB take descriptor 0's settings. -/
def expectAct (c : Nat) (w : ExpectW) (o j : Nat) (e : Option RxEnt) (s : State) : State :=
  let act := actionOf (dw (w.descs.getD (if o = ocUnexpected then 0 else j) []) 6) o
  if act = 2 ∧ e.isSome then s
  else
    let s1 := match w.dreg with
      | some v => setV c v (wd j) s
      | none => s
    if act ≤ 1 then
      let s2 := match e with
        | some f => s1.modCtx c (fun x => { x with cur := some f })
        | none => s1
      let d7 := dw (w.descs.getD (if o = ocMatch then j else 0) []) 7
      goOn c (if act = 0 then w.next else jumpOf s c o d7) s2
    else if act = 3 then retryRun c o w.at_ false s1
    else if act = 4 then retryRun c o w.at_ true s1
    else outcomeFail c o w.at_ s1

/-- An item that reaches a waiting context (R349). -/
inductive Item where
  | frame
  | off
  | abs
  deriving DecidableEq, Repr

/-- The items that a context has not evaluated, each with the clock edge at which it counts: what was there at edge `t`, the start, counts there. -/
def items (t : Nat) (x : CtxSt) : List (Nat × Item) :=
  (match x.inbox with
    | e :: _ => [(max t e.at_, .frame)]
    | [] => []) ++ (if x.evOff then [(max t x.offAt, .off)] else []) ++ (if x.evAbs then [(max t x.absAt, .abs)] else [])

/-- The item to be evaluated next (R349): the earliest, and of those of one cycle a frame before PORT_OFF before PARTNER_ABSENT. -/
def nextItem (t : Nat) (x : CtxSt) : Option (Nat × Item) :=
  match items t x with
  | [] => none
  | a :: l => some (l.foldl (fun b y => if y.1 < b.1 then y else b) a)

/-- TIMEOUT of an EXPECT (R346, R349). -/
def expectTimeout (c : Nat) (w : ExpectW) (s : State) : State := expectAct c w ocTimeout 0 none (onOutcome c ocTimeout none s)

/-- An EXPECT takes the oldest frame of the inbox. -/
def expectFrame (c : Nat) (w : ExpectW) (s : State) : State :=
  match (s.ctx c).inbox with
  | e :: r =>
    let s0 : State := { s with free := s.free + rxMissing e }
    match classify s c w (rxFull s e) with
    | .busy => ctxBlock c 8 (.expect w) s0
    | .misheld => endRun c ccProgErr (wd (offOf s c w.at_)) s0
    | .out o j q => expectAct c w o j (some e) (onOutcome c o q (s0.modCtx c (fun x => { x with inbox := r })))
  | [] => s

/-- An EXPECT takes the next item it has not evaluated (R349), or TIMEOUT where that came before it. `none`: there is none. -/
def expectNext (c : Nat) (w : ExpectW) (s : State) : Option State :=
  match nextItem w.start (s.ctx c) with
  | none => none
  | some (t, k) =>
    if (match w.past with | some o => decide (o ≤ t) | none => false) then some (expectTimeout c w s)
    else some (match k with
      | .frame => expectFrame c w s
      | .off => expectAct c w ocPortOff 0 none (onOutcome c ocPortOff none (s.modCtx c (fun x => { x with evOff := false })))
      | .abs => expectAct c w ocAbsent 0 none (onOutcome c ocAbsent none (s.modCtx c (fun x => { x with evAbs := false }))))

/-- The timeout or the timer of an EXPECT has passed (R384). -/
def expectDue (s : State) (c : Nat) (w : ExpectW) : Bool :=
  let d := w.descs.getD 0 []
  let ms := bits (dw d 4) 31 16
  let t := bits (dw d 4) 1 0
  (ms != 0 && decide (w.start + 49152 * ms ≤ clk s))
    || (t != 0 && (match (s.ctx c).td.getD (t - 1) none with
        | some dl => decide (dl ≤ now s)
        | none => false))

/-- The timeout or the timer of an EXPECT passed before this cycle. -/
def expectPast (s : State) (c : Nat) (w : ExpectW) : Bool :=
  let d := w.descs.getD 0 []
  let ms := bits (dw d 4) 31 16
  let t := bits (dw d 4) 1 0
  (ms != 0 && decide (w.start + 49152 * ms < clk s))
    || (t != 0 && (match (s.ctx c).td.getD (t - 1) none with
        | some dl => decide (dl < now s)
        | none => false))

/-- An item comes to a context whose EXPECT's timeout has passed already (R349): the EXPECT notes from when on. -/
def noteOver (c : Nat) (s : State) : State :=
  match (s.ctx c).wait with
  | .expect w => if w.past.isNone ∧ expectPast s c w then s.modCtx c (fun x => { x with wait := .expect { w with past := some (clk s) } }) else s
  | _ => s

end Sys2Proof.Machine
end

