-- ==== Sys2Proof/Machine/Xfer.lean ====
section
/-! DEFINITION. ISO 15765-2 transfers (R388 to R394), and the evaluation of what reaches a waiting context (R345, R349). -/

namespace Sys2Proof.Machine

/-- Fields of a transfer descriptor (R389). -/
def tAddr (d : List Word) : Nat := bits (dw d 2) 31 30
def tOff (d : List Word) : Nat := if tAddr d = 0 then 0 else 1
def tDl (d : List Word) : Nat := bits (dw d 3) 7 0
def tMs (n : Nat) : Nat := 49152 * (if n = 0 then 1000 else n)
def tBs (d : List Word) : Nat := tMs (bits (dw d 4) 31 16)
def tCr (d : List Word) : Nat := tBs d
def tAs (d : List Word) : Nat := tMs (bits (dw d 4) 15 0)
def tIdw (s : State) (c : Nat) (d : List Word) : Word := if dw d 0 = 0xFFFFFFFF then rd s (Reg.CTX_TXID c) else dw d 0
def tFd (s : State) (c : Nat) (d : List Word) : Bool := bitAt (tIdw s c d) 30
def tMaxLen (d : List Word) : Nat := if bits (dw d 7) 15 0 = 0 then 65535 else bits (dw d 7) 15 0

/-- A transfer descriptor is valid (R380, R388, R389); `tx`: for XFER_TX, whose source and LEN it holds. -/
def xferOk (s : State) (c : Nat) (tx : Bool) (d : List Word) : Bool :=
  let fd := tFd s c d
  let brs := bitAt (dw d 2) 28
  tAddr d != 3 && bits (dw d 2) 29 29 == 0 && bits (dw d 2) 27 24 == 0
    && (if fd then [8, 12, 16, 20, 24, 32, 48, 64].contains (tDl d) else tDl d == 8)
    && bits (dw d 5) 29 16 == 0 && actionsOk (dw d 8)
    && !isXL (tIdw s c d) && (!fd || s.is (.CAN_CFG_FD_EN (s.get (.CTX_PARTNER_PORT c)))) && (!brs || fd)
    && (isIde (tIdw s c d) || bits (tIdw s c d) 28 11 == 0)
    && (!tx || (bits (dw d 5) 31 30 ≤ 1 && bits (dw d 5) 15 0 != 0 && (bits (dw d 5) 31 30 == 0 || bits (dw d 5) 15 0 ≤ 64)))

/-- The length to which a frame of `n` bytes is padded (R388): 8, or the next length that a DLC codes. -/
def padLen (n : Nat) : Nat := ([8, 12, 16, 20, 24, 32, 48, 64].find? (fun x => n ≤ x)).getD 64

/-- The DLC that codes a length. -/
def dlcOf (n : Nat) : Nat := (dlcLens.idxOf? n).getD 0

/-- A frame of a transfer (R388, R389): the address byte, the content, padded with PAD. -/
def tFrame (s : State) (c : Nat) (d : List Word) (l : List Byte) : Frame :=
  let l1 := (if tAddr d = 0 then [] else [BitVec.ofNat 8 (bits (dw d 2) 23 16)]) ++ l
  let n := padLen l1.length
  { idw := tIdw s c d &&& 0x7FFFFFFF, dlc := dlcOf n, brs := bitAt (dw d 2) 28,
    data := l1 ++ List.replicate (n - l1.length) (BitVec.ofNat 8 (bits (dw d 2) 7 0)) }

def b8 (n : Nat) : Byte := BitVec.ofNat 8 n

/-- Stores the transfer in progress of context `c`. -/
def setXfer (c : Nat) (w : XferW) (s : State) : State := s.modCtx c (fun x => { x with wait := .xfer w })

/-- Queues a frame of the transfer (R391), or keeps it until the transmit queue has a place. -/
def xferQueue (c : Nat) (w : XferW) (f : Frame) (s : State) : State :=
  let p := s.get (.CTX_PARTNER_PORT c)
  if txLevel s p < 32 then setXfer c { w with todo := none } (txQueue p (.hoist c) 0 (0x8000 + c) false f s)
  else setXfer c { w with todo := some f } s

/-- Data bytes of a sender's single frame: below or with the escape (R388). -/
def sfMax (d : List Word) : Nat := if tDl d = 8 then 7 - tOff d else tDl d - 2 - tOff d

/-- A single frame of `l`. -/
def sfBytes (d : List Word) (l : List Byte) : List Byte :=
  if l.length ≤ 7 - tOff d then b8 l.length :: l else b8 0 :: b8 l.length :: l

/-- PCI of a first frame of a message of `n` bytes (R388). -/
def ffPci (n : Nat) : List Byte :=
  if n ≤ 4095 then [b8 (0x10 + n / 256), b8 n] else [0x10, 0, b8 (n / 2 ^ 24), b8 (n / 2 ^ 16), b8 (n / 256), b8 n]

/-- The start of XFER_TX (R392): a single frame, or a first frame. -/
def xferTxStart (c : Nat) (w : XferW) (s : State) : State :=
  let d := w.desc
  let dl := some (clk s + tAs d)
  if w.buf.length ≤ sfMax d then
    xferQueue c { w with phase := 0, deadline := dl, buf := [] } (tFrame s c d (sfBytes d w.buf)) s
  else
    let pci := ffPci w.total
    let n := tDl d - tOff d - pci.length
    xferQueue c { w with phase := 1, deadline := dl, buf := w.buf.drop n, sn := 1 } (tFrame s c d (pci ++ w.buf.take n)) s

/-- The next consecutive frame of a sender (R392). -/
def xferNextCf (c : Nat) (w : XferW) (s : State) : State :=
  let d := w.desc
  let n := tDl d - tOff d - 1
  xferQueue c { w with phase := 3, deadline := some (clk s + tAs d), buf := w.buf.drop n, sn := (w.sn + 1) % 16, left := w.left.map (· - 1) }
    (tFrame s c d (b8 (0x20 + w.sn) :: w.buf.take n)) s

/-- STmin in ticks (R388): a reserved value is treated as 0x7F. -/
def stTicks (v : Nat) : Nat :=
  if v ≤ 0x7F then 49152 * v else if 0xF1 ≤ v ∧ v ≤ 0xF9 then ((v - 0xF0) * 49152 + 9) / 10 else 49152 * 0x7F

/-- A flow control frame of a receiver, with flow status `fs` (R388, R389). -/
def xferFc (c : Nat) (w : XferW) (fs : Nat) (s : State) : State :=
  xferQueue c w (tFrame s c w.desc [b8 (0x30 + fs), b8 (bits (dw w.desc 3) 31 24), b8 (bits (dw w.desc 3) 23 16)]) s

/-- Abandons the transfer frames of a context that are in no attempt (R394). -/
def xferFlush (c : Nat) (s : State) : State :=
  txFlushIdle (s.get (.CTX_PARTNER_PORT c)) 5 (fun x => x.src = .hoist c) s

/-- An outcome of a transfer and its action (R350, R394); `frame`: it arose from a frame. IGNORE goes on with `keep`. -/
def xferOut (c : Nat) (w : XferW) (o : Nat) (frame : Bool) (keep : State → State) (s : State) : State :=
  let s0 := onOutcome c o none s
  let act := actionOf (dw w.desc 8) o
  if act = 2 ∧ frame then keep s0
  else
    let s1 := if o = ocMatch then s0 else xferFlush c (s0.modCtx c (fun x => { x with
      wait := .none, resvBytes := if w.tx then x.resvBytes else w.buf }))
    if act ≤ 1 then
      let s2 := if o = ocMatch ∧ ¬ w.tx then setV c w.dreg (wd w.total) s1 else s1
      goOn c (if act = 0 then w.next else jumpOf s c o (dw w.desc 9)) s2
    else if act = 3 then retryRun c o w.at_ false s1
    else if act = 4 then retryRun c o w.at_ true s1
    else outcomeFail c o w.at_ s1

/-- Reserves an entry of `n` bytes of message in the result queue (R393), invisible to consumers; `none`: it does not fit. -/
def reserve (c n : Nat) (s : State) : Option State :=
  let q := s.get (.CTX_BIND_RESQ c)
  let bytes := 8 + (n + 7) / 8 * 8
  if qForeign s q .active ∨ regionBytes s q < bytes then none
  else match qDecide s q bytes with
    | none => none
    | some (l, d) =>
      let s0 := countDisplaced q d s
      let x := s0.queue q
      let pos := (findPlace (regionBytes s q) x.wpos bytes l).getD 0
      let s1 := s0.setQueue q { x with wpos := (pos + bytes) % max 1 (regionBytes s q) }
      some ((qStore q (l ++ [{ pos := pos, len := bytes, vis := false }]) s1).modCtx c (fun y => { y with resv := some (q, pos), resvLen := n, resvBytes := [] }))

/-- A message has been received whole (R393): it fills the reservation. -/
def xferDone (c : Nat) (w : XferW) (s : State) : State :=
  xferOut c w ocMatch true (fun s => s) (s.modCtx c (fun x => { x with resvBytes := w.buf }))

/-- Reception goes on after a reservation (R393): a single frame is complete, a first frame is answered with CTS. -/
def xferReserved (c : Nat) (w : XferW) (s : State) : State :=
  if w.total ≤ w.buf.length then xferDone c { w with buf := w.buf.take w.total } s
  else xferFc c { w with phase := 9, deadline := some (clk s + tAs w.desc), bs := if bits (dw w.desc 3) 31 24 = 0 then none else some (bits (dw w.desc 3) 31 24),
                          left := if bits (dw w.desc 3) 31 24 = 0 then none else some (bits (dw w.desc 3) 31 24), sn := 1 } 0 s

/-- The transfer waits again for a single or first frame, with its deadline of FIRST unchanged or restarted. -/
def xferAgain (c : Nat) (w : XferW) (s : State) : State :=
  setXfer c { w with phase := 8, buf := [], total := 0, sn := 0, left := none, bs := none, wft := 0, rxdl := 0 } s

/-- A reservation fails (R393): FC.OVFLW, outcome UNEXPECTED. -/
def xferOvflw (c : Nat) (w : XferW) (s : State) : State :=
  let s1 := xferFc c w 2 s
  xferOut c w ocUnexpected true (xferAgain c w) s1

/-- A receiver tries its reservation (R393): it goes on, waits for room under STALL with FC.WAIT, which it tries again when the next FC is due (assumption log 90), or
fails. -/
def xferReserve (c : Nat) (w : XferW) (s : State) : State :=
  let q := s.get (.CTX_BIND_RESQ c)
  match reserve c w.total s with
  | some s1 => xferReserved c w s1
  | none =>
    if s.get (.Q_CFG_POLICY q) = 2 ∧ w.wft < bits (dw w.desc 3) 15 8 then
      xferFc c { w with phase := 11, wft := w.wft + 1, deadline := some (clk s + tBs w.desc / 2) } 1 s
    else xferOvflw c w s

/-- A single or first frame begins a message (R388, R393, R394). -/
def xferFirst (c : Nat) (w : XferW) (l : List Byte) (dlen : Nat) (s : State) : State :=
  let pci := (l.getD 0 0).toNat
  let w0 := { w with wft := 0 }
  if pci / 16 = 0 then
    let esc := decide (8 < dlen) && pci % 16 == 0
    let n := if esc then (l.getD 1 0).toNat else pci % 16
    let data := l.drop (if esc then 2 else 1)
    if n = 0 ∨ data.length < n then xferOut c w ocCorrupt true (fun s => s) s
    else xferReserve c { w0 with total := n, buf := data.take n } s
  else
    let n12 := pci % 16 * 256 + (l.getD 1 0).toNat
    let esc := n12 == 0
    if dlen < 8 then xferOut c w ocCorrupt true (fun s => s) s
    else
      let n := if esc then beNat ((l.drop 2).take 4) else n12
      let data := l.drop (if esc then 6 else 2)
      if esc ∧ n ≤ 4095 then xferOut c w ocUnexpected true (fun s => s) s
      else if tMaxLen w.desc < n then xferOvflw c w s
      else xferReserve c { w0 with total := n, buf := data, rxdl := dlen } s

/-- A consecutive frame reaches a receiver (R388, R394). -/
def xferCf (c : Nat) (w : XferW) (l : List Byte) (s : State) : State :=
  let sn := (l.getD 0 0).toNat % 16
  if w.phase = 8 ∨ w.phase = 11 then xferOut c w ocUnexpected true (fun s => s) s
  else if sn = w.sn then
    let want := min (w.rxdl - tOff w.desc - 1) (w.total - w.buf.length)
    if l.length < 1 + want then xferOut c w ocCorrupt true (fun s => s) s
    else
      let buf := w.buf ++ (l.drop 1).take (w.total - w.buf.length)
      let w1 := { w with buf := buf, sn := (w.sn + 1) % 16, left := w.left.map (· - 1) }
      if w.total ≤ buf.length then xferDone c w1 s
      else if w1.left = some 0 then xferFc c { w1 with phase := 9, deadline := some (clk s + tAs w.desc), left := w.bs } 0 s
      else setXfer c { w1 with phase := 10, deadline := some (clk s + tCr w.desc) } s
  else if (sn + 1) % 16 = w.sn then xferOut c w ocDuplicate true (fun s => s) s
  else xferOut c w ocUnexpected true (fun s => s) s

/-- A frame that a receiver consumes (R393, R394). -/
def xferRxFrame (c : Nat) (w : XferW) (l : List Byte) (dlen : Nat) (s : State) : State :=
  match l with
  | [] => xferOut c w ocCorrupt true (fun s => s) s
  | b :: _ =>
    let ty := b.toNat / 16
    if 4 ≤ ty then xferOut c w ocCorrupt true (fun s => s) s
    else if ty = 3 then s
    else if ty = 2 then xferCf c w l s
    else if w.phase = 8 then xferFirst c w l dlen s
    else
      xferOut c w ocRestart true (fun s =>
        xferFirst c { w with phase := 8, buf := [], total := 0, sn := 0, left := none, bs := none } l dlen (dropResv c s)) s

/-- A frame that a sender consumes (R392, R394): flow control while it waits for one, a single or first frame of the partner. -/
def xferTxFrame (c : Nat) (w : XferW) (l : List Byte) (s : State) : State :=
  match l with
  | [] => s
  | b :: _ =>
    let ty := b.toNat / 16
    if ty ≤ 1 then xferOut c w ocRestart true (fun s => s) s
    else if ty = 3 ∧ w.phase = 2 then
      let fs := b.toNat % 16
      if l.length < 3 then xferOut c w ocCorrupt true (fun s => s) s
      else if fs = 0 then
        let bs := (l.getD 1 0).toNat
        xferNextCf c { w with left := if bs = 0 then none else some bs, stmin := stTicks (l.getD 2 0).toNat, wft := 0 } s
      else if fs = 1 then
        if bits (dw w.desc 3) 15 8 < w.wft + 1 then xferOut c w ocTimeout false (fun s => s) s
        else setXfer c { w with wft := w.wft + 1, deadline := some (clk s + tBs w.desc) } s
      else xferOut c w ocUnexpected true (fun s => s) s
    else s

/-- Whether a transfer consumes an inbox frame (R389). -/
def xferTakes (d : List Word) (e : RxEnt) : Bool :=
  bits e.frame.idw 29 0 == bits (dw d 1) 29 0 && (tAddr d == 0 || (e.frame.data.head?.map (·.toNat)) == some (bits (dw d 2) 15 8))

/-- A transfer takes the next item that has reached it (R349, R389, R394). `none`: there is none. -/
def xferNext (c : Nat) (w : XferW) (s : State) : Option State :=
  let x := s.ctx c
  match x.inbox with
  | e :: r =>
    let s1 := s.modCtx c (fun x => { x with inbox := r })
    if xferTakes w.desc e then
      let l := e.frame.data.drop (tOff w.desc)
      some (if w.tx then xferTxFrame c w l s1 else xferRxFrame c w l e.frame.data.length s1)
    else some (s1.inc (.CTX_CNT_RX_DROP c))
  | [] =>
    if x.evOff then some (xferOut c w ocPortOff false (fun s => s) (s.modCtx c (fun x => { x with evOff := false })))
    else if x.evAbs then some (xferOut c w ocAbsent false (fun s => s) (s.modCtx c (fun x => { x with evAbs := false })))
    else none

/-- Whether context `c` evaluates what reaches it: on its engine at an EXPECT or transfer, or WAITING for a message (R345, R349). -/
def listening (s : State) (c : Nat) : Bool :=
  s.get (.CTX_STAT_STATE c) = stRunning || (s.get (.CTX_STAT_STATE c) = stWaiting && s.get (.CTX_STAT_WAIT_ON c) = 2)

/-- Evaluates what has reached context `c` until its EXPECT or transfer is decided or nothing is left; an inbox holds 4 frames and 2 events, and TIMEOUT may come among them. -/
def pump (c : Nat) : Nat → State → State
  | 0, s => s
  | n + 1, s =>
    if ¬ listening s c then s
    else
      match (s.ctx c).wait with
      | .expect w => (match expectNext c w s with
        | some s1 => pump c n s1
        | none => s)
      | .xfer w => (match xferNext c w s with
        | some s1 => pump c n s1
        | none => s)
      | _ => s

/-- Evaluation of everything present. -/
def evaluate (c : Nat) (s : State) : State := pump c 8 s

/-- A frame is delivered to a context (R344, R349). -/
def ctxFrame (c : Nat) (e : RxEnt) (s : State) : State := evaluate c (inboxPut c e (noteOver c s))

/-- A port event (R343, R345): latched in the contexts bound to the port, and evaluated by those that wait. -/
def portEvent (p : Nat) (off : Bool) (s : State) : State :=
  (latchPort p off (s.each (enabledCtxs s) noteOver)).each (enabledCtxs s) evaluate

/-- An EXPECT or transfer that has evaluated what was present and is not decided leaves its engine and waits (R334, R340). -/
def waitOn (c : Nat) (s : State) : State :=
  let w := (s.ctx c).wait
  if s.get (.CTX_STAT_STATE c) = stRunning then
    match w with
    | .expect e => if expectDue s c e then expectTimeout c e s else ctxWait c 2 w s
    | .xfer _ => ctxWait c 2 w s
    | _ => s
  else s

/-- A transfer frame of context `c` has completed on the bus (R392, R393). -/
def xferSent (c : Nat) (s : State) : State :=
  match (s.ctx c).wait with
  | .xfer w =>
    if w.tx then
      if w.phase = 0 then xferOut c w ocMatch false (fun s => s) s
      else if w.phase = 1 then setXfer c { w with phase := 2, deadline := some (clk s + tBs w.desc) } s
      else if w.phase = 3 then
        if w.buf.isEmpty then xferOut c w ocMatch false (fun s => s) s
        else if w.left = some 0 then setXfer c { w with phase := 2, deadline := some (clk s + tBs w.desc) } s
        else if w.stmin = 0 then xferNextCf c w s
        else setXfer c { w with phase := 4, deadline := some (clk s + w.stmin) } s
      else s
    else if w.phase = 9 then setXfer c { w with phase := 10, deadline := some (clk s + tCr w.desc) } s
    else s
  | _ => s

/-- A frame that waits for a place in the transmit queue of port `p` takes one (R391). -/
def xferPlace (c : Nat) (s : State) : State :=
  match (s.ctx c).wait with
  | .xfer w => (match w.todo with
    | some f => xferQueue c w f s
    | none => s)
  | _ => s

/-- An ISO 15765-2 timer expires (R392 to R394). -/
def xferTimer (c : Nat) (w : XferW) (s : State) : State :=
  if w.tx ∧ w.phase = 4 then xferNextCf c w s
  else if ¬ w.tx ∧ w.phase = 11 then xferReserve c w s
  else xferOut c w ocTimeout false (fun s => s) s

end Sys2Proof.Machine
end

