-- ==== Sys2Proof/Machine/CanPort.lean ====
section
/-! DEFINITION. What a CAN port does (spec/10): modes, receiving, latest-value buffers, transmitting, errors, sleep and wake, and the time
unit's reference messages on it (R270 to R273). -/

namespace Sys2Proof.Machine

/-- No domain drives the port: LOADING, NO_IMAGE, no active domain (a takeover among them) (R53, R290). -/
def canDead (s : State) : Bool := !s.sv.anyActive || s.pw.power == 6 || s.get .BT_STAT_STATE == 0

/-- CANp_TXD is held recessive, high (R290): the port sends no dominant bit, of a frame, an acknowledgement or a flag. -/
def canTxdHeld (s : State) (p : Nat) : Bool := (s.can p).mode != 1 || s.is (.CAN_STAT_ASLEEP p) || canDead s

/-- Level of CANp_STB (R290): the standby level while the port is OFF, while it sleeps with STB_SLEEP, and while the module does not run. -/
def canStb (s : State) (p : Nat) : Bool :=
  let standby := (s.can p).mode == 0 || (s.is (.CAN_STAT_ASLEEP p) && s.is (.CAN_SLEEP_STB_SLEEP p)) || canDead s
  standby != s.is (.CAN_CFG_STB_POL p)

/-- A change of the error state (R311, R312): its record; on bus-off PORT_OFF, and with BO_FLUSH every entry is abandoned. -/
def canErrState (p : Nat) (s : State) : State :=
  let old := s.get (.CAN_STAT_ERR_STATE p)
  let new := errStateOf (s.get (.CAN_ERRCNT_TEC p)) (s.get (.CAN_ERRCNT_REC p))
  if old = 2 ∨ new = old then s
  else
    let s1 := portRecord p (if new = 0 then 0x04 else if new = 1 then 0x03 else 0x05) 0 (s.put (.CAN_STAT_ERR_STATE p) new)
    if new = 2 then
      portEvent p true (if s.is (.CAN_CFG_BO_FLUSH p) then txFlush p 4 (fun _ => true) s1 else s1)
    else s1

/-- The port falls asleep (R318). -/
def canSleepNow (p : Nat) (s : State) : State :=
  let s1 := ((s.set1 (.CAN_STAT_ASLEEP p)).put (.CAN_WAKE_STAT_CAUSE p) 0).modCan p (fun c => { c with sleepPend := false })
  let s2 := portRecord p 0x0B 0 s1
  if s.is (.CAN_SLEEP_FLUSH p) then txFlush p 6 (fun _ => true) s2 else s2

/-- Frames of transfers that wait take the places that the port's queue has again (R391). -/
def portPlace (p : Nat) (s : State) : State :=
  s.each (enabledCtxs s) (fun c s => if s.get (.CTX_PARTNER_PORT c) = p then xferPlace c s else s)

/-- The end of a frame: a sleep that waits for it begins (R318), and waiting frames take places in the queue. -/
def frameEnd (p : Nat) (s : State) : State :=
  let s1 := s.modCan p (fun c => { c with busy := false })
  portPlace p (if (s.can p).sleepPend then canSleepNow p s1 else s1)

/-- A frame is in progress that the port sends, or lost arbitration to; every other reception is one step (assumption log 88). -/
def canBusy (s : State) (p : Nat) : Bool := (s.can p).att.isSome || (s.can p).busy

/-- An entry of `CAN_RXQ` (R301, R302): its queue takes the frame, or the loss is noted, with an RX_OVERFLOW record when one is due. -/
def rxqWrite (p x : Nat) (e : RxEnt) (s : State) : State :=
  let en := if x = 0 then s.is (.CAN_RXQ_EN0 p) else s.is (.CAN_RXQ_EN1 p)
  let q := if x = 0 then s.get (.CAN_RXQ_Q0 p) else s.get (.CAN_RXQ_Q1 p)
  if ¬ en then s
  else
    let b := fixedBytes (s.get (.Q_CFG_ESIZE q))
    let prod : Prod := if s.pw.power = 2 then .active else .both
    let ent := if s.get (.Q_CFG_ESIZE q) = 5 then varEntry (rxLen e) 0 0 (rxBody e) else rxFixed b e
    let ok := !rxqBad s q && qAccepts s q prod (4 * ent.length)
    if ok then qPushDrop q prod [ent] s
    else
      let s1 := if rxqBad s q then s else if s.get (.Q_CFG_ESIZE q) = 5 then qPushVar q prod ent s else qPushDrop q prod [ent] s
      let s2 := s1.set1 (.CAN_STAT_RX_LOST p)
      if (s.queue q).lossRec then s2
      else canRecord p 0x0A x false false 0 e.frame.idw 0 e.frame.ts (s2.setQueue q { s2.queue q with lossRec := true })

/-- Buffer `b` of port `p` beside its registers. -/
def lvbOf (s : State) (p b : Nat) : LvbSt := kget {} (s.can p).lvb b
def setLvb (p b : Nat) (x : LvbSt) (s : State) : State := s.modCan p (fun c => { c with lvb := kset {} c.lvb b x })

/-- Writes a frame into the front copy of a buffer (R303). -/
def lvbFront (p b : Nat) (e : RxEnt) (s : State) : State :=
  let x := rxCut 64 e
  let h := rxHeader x
  let s1 := wr (Reg.LVB_HDR3 p b) (h.getD 3 0) (wr (Reg.LVB_HDR2 p b) (h.getD 2 0) (wr (Reg.LVB_HDR1 p b) (h.getD 1 0)
    (wr (Reg.LVB_HDR0 p b) (h.getD 0 0) s)))
  let l := padTo 16 (packWords (rxBytes x))
  s1.each (List.range 16) (fun k s => wr (Reg.LVB_DATA p b k) (l.getD k 0) s)

/-- A frame is delivered to a buffer (R303). -/
def lvbWrite (p b : Nat) (e : RxEnt) (s : State) : State :=
  let x := lvbOf s p b
  let s1 := (s.inc (.LVB_STAT_COUNT p b)).set1 (.LVB_STAT_VALID p b)
  if x.locks.isEmpty then lvbFront p b e s1
  else setLvb p b { x with shadow := some e } (if x.shadow.isSome then s1.inc (.LVB_STAT_LOST p b) else s1)

/-- No lock remains on a buffer (R304): its shadow frame becomes the front copy, COUNT and LOST clear. -/
def lvbOpen (p b : Nat) (s : State) : State :=
  let x := lvbOf s p b
  let s1 := setLvb p b { x with shadow := none, locks := [] } ((s.put (.LVB_STAT_COUNT p b) 0).put (.LVB_STAT_LOST p b) 0)
  match x.shadow with
  | some e => lvbFront p b e s1
  | none => s1

/-- Requester `r` no longer locks the buffer. -/
def lvbUnlock (p b r : Nat) (s : State) : State :=
  let x := lvbOf s p b
  if x.locks.any (fun k => k.1 = r) then
    let l := x.locks.filter (fun k => k.1 ≠ r)
    if l.isEmpty then lvbOpen p b s else setLvb p b { x with locks := l } s
  else s

/-- `LVB_STAT` as it reads (R330). -/
def lvbStatVal (s : State) (p b : Nat) : Word := setBits (rd s (Reg.LVB_STAT p b)) 1 1 (b2n (!(lvbOf s p b).locks.isEmpty))

/-- The read of word 0 (R304): requester `r` locks the buffer, or extends its lock. -/
def lvbLock (p b r : Nat) (s : State) : State :=
  let x := lvbOf s p b
  setLvb p b { x with locks := x.locks.filter (fun k => k.1 ≠ r) ++ [(r, clk s)] } s

/-- A lock of requester `r` is 1 ms old (R304). -/
def lvbExpired (s : State) (p b r : Nat) : Bool := (lvbOf s p b).locks.any (fun k => k.1 == r && decide (k.2 + tickMs ≤ clk s))

/-- Delivery of a frame to one target (R298). -/
def canTarget (p tgt ix : Nat) (e : RxEnt) (s : State) : State :=
  match tgt with
  | 0 => rxqWrite p 0 e s
  | 1 => rxqWrite p 1 e s
  | 2 => lvbWrite p ix e s
  | 3 => ctxFrame ix e s
  | _ => s

/-- A frame passes the filters (R297 to R300). -/
def canFilter (p : Nat) (x : Frame) (self : Bool) (s : State) : State :=
  s.each (deliveries s p x) (fun t s =>
    canTarget p t.1 t.2.1 { frame := { x with ts := x.ts % 2 ^ 48 }, len := x.data.length, port := p, filter := t.2.2.1, self := self, noMatch := t.2.2.2 } s)

/-- REC after a frame received without error (R311, ISO 11898-1, assumption log 26): one less, or from 128 on some value in 119 to 127. -/
def recDown (p : Nat) (s : State) : State :=
  let r := s.get (.CAN_ERRCNT_REC p)
  if 128 ≤ r then (s.put (.CAN_ERRCNT_REC p) (119 + (freeNow s).toNat % 9)).useFree else s.put (.CAN_ERRCNT_REC p) (r - 1)

/-- A frame received without error (R297, R311, R314). -/
def canReceive (p : Nat) (x : Frame) (s : State) : State :=
  let s1 := s.inc (.CAN_FRCNT_RX p)
  let s2 := if (s.can p).mode = 1 then canErrState p (recDown p s1) else s1
  canFilter p x false (aloneClear p s2)

/-- The staging area of a requester (R305). -/
def stageWord (s : State) (p : Nat) (r : Req) (a : Nat) : Word :=
  match r with
  | .ring => kget 0 (s.can p).rstage (a - Reg.CAN_CFG p)
  | _ => rd s a

/-- The frame that a staging area holds, and its LEN as staged (R305). -/
def stagedFrame (s : State) (p : Nat) (r : Req) : Frame × Nat :=
  let idw := stageWord s p r (Reg.TXS_ID p)
  let ctl := stageWord s p r (Reg.TXS_CTL p)
  let xl := isXL idw
  let rtr := bitAt ctl 15
  let len := if xl then bits ctl 31 20 else dlcLen (isFD idw) rtr (bits ctl 19 16)
  let data := (wordsBytes ((List.range ((min len 2048 + 3) / 4)).map (fun i => stageWord s p r (Reg.TXS_DATA p i)))).take len
  ({ idw := idw, dlc := if xl then 0 else bits ctl 19 16, rtr := rtr, brs := bitAt ctl 14, sec := bitAt ctl 12,
     sdt := if xl then bits ctl 7 0 else 0, vcid := if xl then bits (stageWord s p r (Reg.TXS_XL p)) 31 24 else 0,
     af := if xl then stageWord s p r (Reg.TXS_AF p) else 0, data := data }, len)

/-- RESULT of a requester (R331). -/
def setTxRes (p : Nat) (r : Req) (v : Nat) (s : State) : State :=
  s.modCan p (fun c => if r = .ring then { c with resRing := v } else { c with resS0 := v })

/-- A write of `CAN_TX_CMD` (R305, R306, R310, R331). -/
def canTxCmd (p : Nat) (r : Req) (w : Word) (s : State) : State :=
  let op := bits w 3 0
  if op = 1 then
    let f := stagedFrame s p r
    if formatBad s p f.1 f.2 then setTxRes p r 2 s
    else if 24 ≤ txHostLevel s p ∨ 32 ≤ txLevel s p then setTxRes p r 1 s
    else setTxRes p r 0 (txQueue p (if r = .ring then .ring else .s0) (bits w 15 8) (bits w 31 16) (bitAt w 6) f.1 s)
  else if op = 2 then portPlace p (txFlush p 5 (fun x => x.src.isHost) s)
  else s

/-- A write into a staging area (R305). -/
def stageWrite (p a : Nat) (r : Req) (w : Word) (s : State) : State :=
  match r with
  | .ring => s.modCan p (fun c => { c with rstage := kset 0 c.rstage (a - Reg.CAN_CFG p) w })
  | _ => store a (maskAt a) w s

/-- The entry that the next attempt takes (R307): a reference message, else the lowest PRIO, else the earliest. -/
def nextTx : List TxEnt → Option TxEnt
  | [] => none
  | x :: l =>
    match nextTx l with
    | none => some x
    | some y => if y.src = .tu ∧ x.src ≠ .tu then some y else if x.src = .tu then some x else if y.prio < x.prio then some y else some x

/-- Replaces an entry of the queue. -/
def putTx (p : Nat) (x : TxEnt) (s : State) : State :=
  s.modCan p (fun c => { c with txq := c.txq.map (fun y => if y.id = x.id then x else y) })

/-- The entry in an attempt. -/
def inAttempt (s : State) (p : Nat) : Option TxEnt :=
  match (s.can p).att with
  | some i => (s.can p).txq.find? (fun x => x.id = i)
  | none => none

/-- The stamp that a reference message carries (R270, R271): that of the message before it, when that message has been on the bus. -/
def refStamp (s : State) (x : TxEnt) : List Byte :=
  match s.tu.mStamp with
  | some (n, m) => if x.noStamp ∨ (n + 1) % 256 ≠ (x.frame.data.getD 0 0).toNat then List.replicate 7 0xFF else leBytes 7 m
  | none => List.replicate 7 0xFF

/-- The frame of an attempt: ESI as the port now is, and the stamp of a reference message. -/
def attemptFrame (s : State) (p : Nat) (x : TxEnt) : Frame :=
  let f := { x.frame with esi := isFD x.frame.idw && s.get (.CAN_STAT_ERR_STATE p) = 1 }
  if x.src = .tu then { f with data := f.data.take 1 ++ refStamp s x } else f

/-- The loop delay that a port measures on its own FD and XL frames (R294), a free value: one below TDCF is ignored. -/
def tdvMeasure (p : Nat) (f : Frame) (s : State) : State :=
  if s.is (.CAN_TDC_EN p) ∧ (s.can p).mode = 1 ∧ (isFD f.idw ∨ isXL f.idw) then
    let v := bits (freeNow s) 7 0
    (s.put (.CAN_TDC_TDV p) (if v < s.get (.CAN_TDC_TDCF p) then s.get (.CAN_TDC_TDV p) else v)).useFree
  else s

/-- An attempt starts (R307, R272), except while a switchover waits for attempts to end (R509). -/
def attemptStart (p : Nat) (s : State) : State :=
  let md := (s.can p).mode
  if canRuns s p ∧ (md = 1 ∨ md = 3) ∧ s.get (.CAN_STAT_ERR_STATE p) ≠ 2 ∧ ¬ canBusy s p ∧ ¬ s.is .SV_STAT_SWITCHING then
    match nextTx (s.can p).txq with
    | none => s
    | some x => tdvMeasure p x.frame ((putTx p { x with attempts := x.attempts + 1, sof := some (now s), frame := attemptFrame s p x } s).modCan p
        (fun c => { c with att := some x.id }))
  else s

/-- An attempt completes without error (R309, R311, R313, R314, R299). -/
def attemptSuccess (p : Nat) (s : State) : State :=
  match inAttempt s p with
  | none => s
  | some x =>
    let sof := x.sof.getD (now s)
    let s1 := aloneClear p (aloneRestart p (txDrop p x.id (s.inc (.CAN_FRCNT_TX p))))
    let s2 := canErrState p (s1.put (.CAN_ERRCNT_TEC p) (s1.get (.CAN_ERRCNT_TEC p) - 1))
    let s3 := if x.report then entRecord p 0x01 0 x sof s2 else s2
    let s4 := txOutcome x true s3
    let s5 := match x.src with
      | .hoist c => evaluate c (xferSent c s4)
      | .tu => if x.tko then s4 else s4.modTu (fun t => { t with mStamp := some ((x.frame.data.getD 0 0).toNat, sof) })
      | _ => s4
    let s6 := if (s.can p).mode = 3 ∨ s.is (.CAN_CFG_SELF_RX p) then canFilter p { x.frame with ts := sof } true (s5.inc (.CAN_FRCNT_RX p)) else s5
    frameEnd p s6

/-- Transceiver mode switching is in effect (R295, R327): a PWM phase of 0 disables it. -/
def tmsOn (s : State) (p : Nat) : Bool := s.is (.CAN_CFG_TMS p) && s.get (.CAN_XLPWM_PWMS p) != 0 && s.get (.CAN_XLPWM_PWML p) != 0

/-- The attempt in progress switches the transceiver to fast mode for its data phase (R295). -/
def canFast (s : State) (p : Nat) : Bool :=
  tmsOn s p && (match inAttempt s p with
    | some x => isXL x.frame.idw
    | none => false)

/-- Error signalling is off in the XL data phase (R295). -/
def xlSilent (s : State) (p : Nat) (idw : Word) (e : CanErr) : Bool :=
  isXL idw && e.data && (!s.is (.CAN_CFG_XL_ERRSIG p) || tmsOn s p)

/-- `CAN_LASTERR` of an error (R327). -/
def noteErr (p : Nat) (e : CanErr) (s : State) : State :=
  ((s.inc (.CAN_LASTERR_ERR_CNT p)).put (.CAN_LASTERR_LEC p) (e.lec.val + 1)).putB (.CAN_LASTERR_DATA p) e.data

/-- TEC after a failed attempt (R311, ISO 11898-1, assumption log 26): 8 more, except a stuff error in arbitration and the acknowledgement
error of an error-passive transmitter that sees no dominant bit; and 8 more for each further event at its flag. -/
def tecUp (p : Nat) (e : CanErr) (s : State) : State :=
  s.addSat (.CAN_ERRCNT_TEC p) (8 * e.runs + if e.exempt ∨ (e.lec = 2 ∧ s.get (.CAN_STAT_ERR_STATE p) = 1 ∧ ¬ e.dominant) then 0 else 8)

/-- What REC grows by at an error of a receiver (R311, ISO 11898-1, assumption log 26): 1, 8 more for a dominant bit right after its flag, and 8 more for each
further event at the flag. -/
def recGrowth (e : CanErr) : Nat := 1 + 8 * (b2n e.dominant + e.runs)

/-- The counters of an error in an XL data phase without error signalling: a rule of ISO 11898-1 that the spec does not state. -/
def freeCounter (f : FldRef) (s : State) : State := (s.put f (bits (freeNow s) 15 0)).useFree

/-- `ALONE` has been set since state `o` (R313): its record, and PARTNER_ABSENT. -/
def aloneTold (o : State) (p : Nat) (s : State) : State :=
  if ¬ o.is (.CAN_STAT_ALONE p) ∧ s.is (.CAN_STAT_ALONE p) then portEvent p false (portRecord p 0x07 0 s) else s

/-- The entry after an attempt that ended in error `e` (R308, R313, R315). -/
def entErr (e : CanErr) (x : TxEnt) : TxEnt :=
  let bit := decide (e.lec = 3 ∨ e.lec = 4) && e.field
  { x with errs := x.errs + 1, allAck := x.allAck && e.lec = 2, lastBit := bit, clash := x.clash || (bit && x.lastBit) }

/-- An attempt ends in an error (R308, R311 to R315). In LOOP every attempt is acknowledged and CANp_RXD ignored: none does (R291). -/
def attemptError (p : Nat) (e : CanErr) (s : State) : State :=
  match inAttempt s p with
  | none => s
  | some x =>
    if (s.can p).mode = 3 then s else
    let x1 := entErr e x
    let s1 := noteErr p e ((putTx p x1 s).modCan p (fun c => { c with att := none }))
    let s2 := if xlSilent s p x.frame.idw e then canIntegrate p (freeCounter (.CAN_ERRCNT_TEC p) s1) else tecUp p e s1
    let s3 := if e.lec = 2 then alonePut p (s2.addSat (.CAN_STAT_ACK_RUN p) 1) else aloneRestart p s2
    let s4 := canErrState p s3
    let s5 := if x1.clash ∧ ¬ x.clash then entRecord p 0x09 0 { x with tag := 0, attempts := 0 } (x.sof.getD (now s)) (s4.set1 (.CAN_STAT_ID_CLASH p)) else s4
    let gone := (s5.can p).txq.all (fun y => y.id ≠ x.id)
    let n := s.get (.CAN_RETRY_ERR_RETRY p)
    let s6 := if gone then s5
      else if n ≠ 31 ∧ n + 1 ≤ x1.errs then txAbandon p (if x1.allAck then 2 else 1) x1 s5
      else match x1.flush with
        | some why => txAbandon p why x1 s5
        | none => s5
    frameEnd p (aloneTold s p s6)

/-- An attempt loses arbitration (R308, R310): the frame of the other node goes on. -/
def arbitrationLost (p : Nat) (s : State) : State :=
  match inAttempt s p with
  | none => s
  | some x =>
    if (s.can p).mode = 3 then s else
    let x1 := { x with arbs := x.arbs + 1 }
    let s1 := (putTx p x1 s).modCan p (fun c => { c with att := none, busy := true })
    let m := s.get (.CAN_RETRY_ARB_RETRY p)
    portPlace p (if m ≠ 255 ∧ m + 1 ≤ x1.arbs then txAbandon p 3 x1 s1
      else match x1.flush with
        | some why => txAbandon p why x1 s1
        | none => s1)

/-- A bus-off port recovers (R312): counters 0, error-active with its record, RECOVERED with the count. -/
def busoffRecovery (p : Nat) (s : State) : State :=
  if s.get (.CAN_STAT_ERR_STATE p) = 2 ∧ (s.can p).mode ≠ 0 then
    let s1 := (wr (Reg.CAN_ERRCNT p) 0 s).put (.CAN_STAT_ERR_STATE p) 0 |>.inc (.CAN_BOCNT_CNT p)
    let s2 := portRecord p 0x04 0 s1
    canRecord p 0x06 0 false false 0 (rd s2 (Reg.CAN_BOCNT p)) 0 (now s) s2
  else s

/-- An error while a frame is received (R311, R289, R319). `disabled`: the frame is of a format that the port has disabled; PXD answers it
with an error flag. -/
def canRxError (p : Nat) (e : CanErr) (xl disabled : Bool) (s : State) : State :=
  if s.is (.CAN_STAT_ASLEEP p) then (if disabled then s else s.addSat (.CAN_WAKE_STAT_BAD_CNT p) 1)
  else if ¬ canRuns s p ∨ (s.can p).mode = 3 ∨ s.get (.CAN_STAT_ERR_STATE p) = 2 then s
  else if disabled ∧ ¬ s.is (.CAN_CFG_PXD p) then frameEnd p (canIntegrate p (s.inc (.CAN_LASTERR_PX_CNT p)))
  else
    let s1 := noteErr p e s
    let silent := xlSilent s p (if xl then 0xC0000000 else 0) e
    let s2 := if silent then canIntegrate p s1 else s1
    frameEnd p (if (s.can p).mode = 2 then s2
      else canErrState p (if silent then freeCounter (.CAN_ERRCNT_REC p) s2 else s2.addSat (.CAN_ERRCNT_REC p) (recGrowth e)))

/-- A write of `CAN_SLEEP` (R318, R319). -/
def canSleepWrite (p : Nat) (w : Word) (s : State) : State :=
  let s1 := store (Reg.CAN_SLEEP p) Msk.CAN_SLEEP w s
  if s1.is (.CAN_SLEEP_REQ p) then
    if s.is (.CAN_STAT_ASLEEP p) then s1
    else if canBusy s p then s1.modCan p (fun c => { c with sleepPend := true })
    else canSleepNow p s1
  else canWake p 3 (now s) 0 (s1.modCan p (fun c => { c with sleepPend := false }))

/-- Wake filter `i` matches a frame (R319). -/
def wakeMatch (s : State) (p i : Nat) (x : Frame) : Bool :=
  let mask := leBytes 4 (rd s (Reg.WF_DMASK0 p i)).toNat ++ leBytes 4 (rd s (Reg.WF_DMASK1 p i)).toNat
  let val := leBytes 4 (rd s (Reg.WF_DATA0 p i)).toNat ++ leBytes 4 (rd s (Reg.WF_DATA1 p i)).toNat
  bitAt (rd s (Reg.WF_ID p i)) 31 && (((x.idw ^^^ rd s (Reg.WF_ID p i)) &&& rd s (Reg.WF_IDMASK p i)) &&& 0x3FFFFFFF) == 0
    && (List.range 8).all (fun j =>
      let m := mask.getD j 0
      m == 0 || (match x.data[j]? with
        | some b => (b ^^^ val.getD j 0) &&& m == 0
        | none => false))

/-- A frame wakes a port in FRAME mode (R319, R320). -/
def canWakeFrame (p : Nat) (x : Frame) (s : State) : State :=
  if s.is (.CAN_STAT_ASLEEP p) ∧ s.get (.CAN_SLEEP_WAKE_MODE p) = 2 ∧ frameOk x ∧ bits x.idw 31 30 = 0 ∧ ¬ x.rtr then
    match (List.range 4).find? (fun i => wakeMatch s p i x) with
    | none => s
    | some i =>
      let e : RxEnt := { frame := { x with ts := now s % 2 ^ 48 }, len := x.data.length, port := p }
      let l := padTo 6 (rxHeader e ++ packWords x.data)
      let s1 := (s.put (.CAN_WAKE_STAT_FILTER p) i).each (List.range 6) (fun k s => wr (Reg.CAN_WAKE_FRAME p k) (l.getD k 0) s)
      canWake p 2 (now s % 2 ^ 48) x.idw s1
  else s

/-- A field of bit timing as it is stored (R293, R7): a nominal TSEG of 1 as 2, a data-phase field above its range as the top. -/
def timingFix (nominal : Bool) (w : Word) : Word :=
  if nominal then
    wd (mk [(bits w 31 24, 24), (max 1 (bits w 23 16), 16), (max 1 (bits w 14 8), 8), (bits w 6 0, 0)])
  else wd (mk [(min 31 (bits w 31 24), 24), (min 31 (bits w 23 16), 16), (min 15 (bits w 14 8), 8), (min 15 (bits w 6 0), 0)])

/-- Notes whether setting `k` of a port holds a replacement. -/
def setAdj (p k : Nat) (b : Bool) (s : State) : State :=
  s.modCan p (fun c => { c with adj := if b then c.adj ||| 2 ^ k else c.adj &&& (15 ^^^ 2 ^ k) })

/-- A write of a bit timing register: `CAN_NBT` (k = 1), `CAN_DBT` (2) or `CAN_XBT` (3) (R292, R293). -/
def timingWrite (p k : Nat) (w : Word) (s : State) : State :=
  let a := Reg.CAN_CFG p + 4 * k
  if s.get (.CAN_CFG_MODE p) ≠ 0 then s.set1 (.CAN_STAT_DENIED p)
  else
    let s1 := store a Msk.CAN_NBT w s
    let v := timingFix (k == 1) (rd s1 a)
    setAdj p k (v != rd s1 a) (wr a v s1)

/-- A write of `CAN_TDC` or `CAN_XLPWM` (R292). -/
def canOffWrite (p a : Nat) (w : Word) (s : State) : State :=
  if s.get (.CAN_CFG_MODE p) ≠ 0 then s.set1 (.CAN_STAT_DENIED p) else store a (maskAt a) w s

/-- A write of `CAN_CFG` (R292, R324): protected fields change only while MODE reads OFF; a MODE of 4 to 7 stores 0. -/
def canCfgWrite (p : Nat) (w : Word) (s : State) : State :=
  let prot : Nat := 0x03E00000
  let cur := rd s (Reg.CAN_CFG p)
  let off := s.get (.CAN_CFG_MODE p) = 0
  let w1 := if off then w else blend prot w cur
  let den := !off && ((w ^^^ cur) &&& BitVec.ofNat 32 prot) != 0
  let big := decide (4 ≤ bits w1 2 0)
  let s1 := store (Reg.CAN_CFG p) Msk.CAN_CFG (if big then setBits w1 2 0 0 else w1) s
  setAdj p 0 big (if den then s1.set1 (.CAN_STAT_DENIED p) else s1)

/-- `CAN_STAT.CFG_ADJ` (R326): some setting of R293, R295, R298, R324 or R329 holds or is used with a replacement. -/
def canAdj (s : State) (p : Nat) : Bool :=
  let sjw := fun a => bits (rd s a) 14 8 < bits (rd s a) 6 0
  (s.can p).adj != 0 || sjw (Reg.CAN_NBT p) || sjw (Reg.CAN_DXBT p 0) || sjw (Reg.CAN_DXBT p 1)
    || (s.is (.CAN_CFG_TMS p) && (s.is (.CAN_CFG_XL_ERRSIG p) || s.get (.CAN_XLPWM_PWMS p) == 0 || s.get (.CAN_XLPWM_PWML p) == 0))
    || s.get (.CAN_RXQ_NOMATCH p) == 3 || s.get (.CAN_SLEEP_WAKE_MODE p) == 3
    || (List.range 64).any (fun f => s.is (.FLT_CTL_EN p f) &&
        (let t := s.get (.FLT_CTL_TARGET p f)
         let i := s.get (.FLT_CTL_INDEX p f)
         decide (5 ≤ t) || (t == 2 && decide (31 < i)) || (t == 3 && decide (159 < i))))

/-- `CAN_STAT` as it reads (R326). -/
def canStatVal (s : State) (p : Nat) : Word :=
  setBits (setBits (rd s (Reg.CAN_STAT p)) 23 16 (txLevel s p)) 5 5 (b2n (canAdj s p))

/-- A mode takes effect (R291): a port that leaves OFF integrates, and its buffers hold no frame since (R304). -/
def canModeTake (p : Nat) (s : State) : State :=
  let m := s.get (.CAN_CFG_MODE p)
  let old := (s.can p).mode
  if m = old ∨ canBusy s p then s
  else
    let s1 := s.modCan p (fun c => { c with mode := m })
    if old = 0 then canIntegrate p (s1.each (List.range 32) (fun b s => s.put (.LVB_STAT_VALID p b) 0))
    else if m = 0 then s1.put (.CAN_STAT_INTEG p) 0
    else s1

/-- CAN_MODE_CHANGE (R291): at the end of the frame in progress, or at once if the bus is idle. -/
def execCanModeChange (p : Fin 4) (s : State) : Out := .next (canModeTake p s)

/-- CAN_INTEGRATED (R291): 11 consecutive recessive bits have been seen. -/
def execCanIntegrated (p : Fin 4) (s : State) : Out := .next (s.put (.CAN_STAT_INTEG p) 0)

/-- CAN_FRAME_RECEIVE (R297): the reception is one step, at its SOF sample point, whose tick is the frame's stamp (R272, R275, assumption log 88). -/
def execCanFrameReceive (p : Fin 4) (x : Frame) (s : State) : Out :=
  let md := (s.can p).mode
  .next (if canRuns s p ∧ (md = 1 ∨ md = 2) ∧ s.get (.CAN_STAT_ERR_STATE p) ≠ 2 ∧ frameOk x ∧ canDecodes s p x then
    frameEnd p (canReceive p { x with ts := now s } s) else s)

/-- CAN_RX_ERROR (R311). -/
def execCanRxError (p : Fin 4) (e : CanErr) (xl disabled : Bool) (s : State) : Out := .next (canRxError p e xl disabled s)

/-- LVB_LOCK_READ (R304). -/
def execLvbLockRead (r : Req) (p : Fin 4) (b : Fin 32) (s : State) : Out :=
  .next (if readServed s r then { noteRead r (Reg.LVB_HDR0 p b) (lvbLock p b (reqIx r) s) with rdata := rd s (Reg.LVB_HDR0 p b) } else s)

/-- LVB_STAT_READ (R304). -/
def execLvbStatRead (r : Req) (p : Fin 4) (b : Fin 32) (s : State) : Out :=
  .next (if readServed s r then { noteRead r (Reg.LVB_STAT p b) (lvbUnlock p b (reqIx r) s) with rdata := lvbStatVal s p b } else s)

/-- LVB_LOCK_TIMEOUT (R304): a lock of requester `r` has not been released within 1 ms. -/
def execLvbLockTimeout (r : Req) (p : Fin 4) (b : Fin 32) (s : State) : Out :=
  .next (if lvbExpired s p b (reqIx r) then (lvbUnlock p b (reqIx r) s).set1 (.LVB_STAT_TMO p b) else s)

/-- CAN_TX_GO (R305, R306). -/
def execCanTxGo (r : Req) (p : Fin 4) (w : Word) (s : State) : Out :=
  .next (regWrite r (Reg.CAN_TX_CMD p) Msk.CAN_TX_CMD (setBits w 3 0 1) (canTxCmd p r) s)

/-- CAN_TX_FLUSH (R310). -/
def execCanTxFlush (r : Req) (p : Fin 4) (s : State) : Out :=
  .next (regWrite r (Reg.CAN_TX_CMD p) Msk.CAN_TX_CMD 2 (canTxCmd p r) s)

/-- CAN_ATTEMPT_START (R307). -/
def execCanAttemptStart (p : Fin 4) (s : State) : Out := .next (attemptStart p s)

/-- CAN_ATTEMPT_SUCCESS (R309). -/
def execCanAttemptSuccess (p : Fin 4) (s : State) : Out := .next (attemptSuccess p s)

/-- CAN_ATTEMPT_ERROR (R308). -/
def execCanAttemptError (p : Fin 4) (e : CanErr) (s : State) : Out := .next (attemptError p e s)

/-- CAN_ARBITRATION_LOST (R308). -/
def execCanArbitrationLost (p : Fin 4) (s : State) : Out := .next (arbitrationLost p s)

/-- CAN_BUSOFF_RECOVERY (R312). -/
def execCanBusoffRecovery (p : Fin 4) (s : State) : Out := .next (busoffRecovery p s)

/-- CAN_SLEEP_REQUEST (R318): a write of `CAN_SLEEP` with REQ = 1. -/
def execCanSleepRequest (r : Req) (p : Fin 4) (w : Word) (s : State) : Out :=
  .next (regWrite r (Reg.CAN_SLEEP p) Msk.CAN_SLEEP (setBits w 31 31 1) (canSleepWrite p) s)

/-- CAN_WAKE_HOST (R319): a write of `CAN_SLEEP` with REQ = 0. -/
def execCanWakeHost (r : Req) (p : Fin 4) (w : Word) (s : State) : Out :=
  .next (regWrite r (Reg.CAN_SLEEP p) Msk.CAN_SLEEP (setBits w 31 31 0) (canSleepWrite p) s)

/-- CAN_WAKE_EDGE (R319): CANp_RXD has been dominant for at least 5 µs. -/
def execCanWakeEdge (p : Fin 4) (s : State) : Out :=
  .next (if s.get (.CAN_SLEEP_WAKE_MODE p) % 2 = 1 then canWake p 1 (now s) 0 s else s)

/-- CAN_WAKE_FRAME (R319). -/
def execCanWakeFrame (p : Fin 4) (x : Frame) (s : State) : Out := .next (canWakeFrame p x s)

/-- The identifier word of reference messages (R287): with IDE 0 the identifier is in [10:0]. -/
def refId (s : State) : Word :=
  let w := rd s Reg.TU_CAN_ID
  if isIde w then w &&& 0x3FFFFFFF else w &&& 0x7FF

/-- A period of PER × 10 ms has passed since the last reference message (R270); the first one waits for none. -/
def refDue (s : State) : Bool :=
  match s.tu.refAt with
  | some t => decide (t + s.get .TU_CAN_CFG_PER * tick10Ms ≤ clk s)
  | none => true

/-- TU_CAN_REF_SEND (R270, R271): the period has passed at a master. The message takes the stamp of the one before it when its attempt starts. -/
def execTuCanRefSend (s : State) : Out :=
  let p := s.get .TU_CAN_CFG_PORT
  .next (if s.get .TU_CAN_CFG_ROLE = 1 ∧ s.get .TU_CAN_CFG_PER ≠ 0 ∧ servoRuns s ∧ refDue s then
      let f : Frame := { idw := refId s, dlc := 8, data := b8 s.tu.mSeq :: List.replicate 7 0xFF }
      let s1 := (s.put .TU_CAN_STAT_SEQ s.tu.mSeq).inc .TU_CAN_STAT_REF_CNT
      (txQueue p .tu 0 0 false f s1).modTu (fun t => { t with mSeq := (t.mSeq + 1) % 256, mFirst := false, refAt := some (clk s) })
    else s)

/-- TU_CAN_REF_RECEIVE (R273): a follower's port has received a frame, which is a reference message when identifier, format and DLC agree; its own stamp is the
tick of the step (R272). -/
def execTuCanRefReceive (x : Frame) (s : State) : Out :=
  let p := s.get .TU_CAN_CFG_PORT
  .next (if s.get .TU_CAN_CFG_ROLE = 2 ∧ canRuns s p ∧ ((s.can p).mode = 1 ∨ (s.can p).mode = 2) ∧ s.get (.CAN_STAT_ERR_STATE p) ≠ 2 ∧ servoRuns s ∧ frameOk x
        ∧ x.idw = refId s ∧ x.dlc = 8 ∧ ¬ x.rtr then
      let st := x.data.drop 1
      let stamp := if st.all (fun b => b == 0xFF) then none else some (leNat st)
      canRef (x.data.getD 0 0).toNat stamp (now s) s
    else s)

end Sys2Proof.Machine
end

