-- ==== Sys2Proof/Machine/Analog.lean ====
section
/-! DEFINITION. Analog field channels (spec/04): current outputs, loop power, inject mode, the test DAC, diagnostics and mode changes. -/

namespace Sys2Proof.Machine

/-- A setting above 48,000 is stored as 48,000 with SET_CLAMP (R112); the first one after the image takes effect ends the 0 mA of R115. -/
def aoSet (n v : Nat) (s : State) : State :=
  let s1 := (s.put (.CH_AO_SET_SET n) (min v 48000)).putB (.CH_AN_STATE_SET_CLAMP n) (decide (48000 < v))
  aoSend n (s1.modCh n (fun x => { x with setSeen := true }))

/-- AO_SET_WRITE (R112). -/
def execAoSetWrite (r : Req) (n : Fin 256) (w : Word) (s : State) : Out :=
  .next (if isAO n then regWrite r (Reg.CH_AO_SET n) Msk.CH_AO_SET w (fun w => aoSet n (bits w 15 0)) s else s)

/-- A write of `CH_AO_TRIM` (R113, R117). -/
def aoTrimWrite (n : Nat) (w : Word) (s : State) : State := aoSend n (store (Reg.CH_AO_TRIM n) Msk.CH_AO_TRIM w s)

/-- AO_TRIM_WRITE (R113). -/
def execAoTrimWrite (r : Req) (n : Fin 256) (w : Word) (s : State) : Out :=
  .next (if isAO n then regWrite r (Reg.CH_AO_TRIM n) Msk.CH_AO_TRIM w (aoTrimWrite n) s else s)

/-- Whether the output stage of channel `n` may be saturated without HEADROOM (R116): SAT reads a free value then (assumption log 4). -/
def satOpen (s : State) (n : Nat) : Bool := isAN n && decide (0 < (aoSetting s n).getD 0) && !diagActive s n dgHeadroom

/-- A write of `CH_AO_SAFE` (R118): a value above 48,000 is used as 48,000, with CFG_ADJ. -/
def aoSafeWrite (n : Nat) (w : Word) (s : State) : State :=
  let v := bits w 15 0
  (s.put (.CH_AO_SAFE_VALUE n) (min v 48000)).modCh n (fun x => { x with adjSafe := decide (48000 < v) })

/-- LP_HICCUP_OFF (R110): the limit has acted for 100 ms; LP goes off. -/
def execLpHiccupOff (n : Fin 256) (s : State) : Out :=
  .next (if isAN n && s.is (.CH_AN_STATE_LP_ON n) then anRefresh n (s.set1 (.CH_AN_STATE_LP_RETRY n)) else s)

/-- LP_HICCUP_ON (R110): the off-phase ends. -/
def execLpHiccupOn (n : Fin 256) (s : State) : Out :=
  .next (if isAN n && s.is (.CH_AN_STATE_LP_RETRY n) then
    let s1 := s.put (.CH_AN_STATE_LP_RETRY n) 0
    (s1.putB (.CH_AN_STATE_LP_ON n) (lpOn s1 n))
  else s)

/-- The mode in effect at the tile (R128). -/
def modeOf (s : State) (n : Nat) : Nat := s.get (.CH_AN_STATE_MODE_EFF n)

/-- Whether the channel is in inject mode (R121, R128). -/
def injecting (s : State) (n : Nat) : Bool := s.is (.CH_AN_STATE_INJ n)

/-- Whether the tile can set code `b` on analog channel `n` now (R121, R124); HEADROOM only on a setting above zero (R114). -/
def anDetectable (s : State) (n b : Nat) : Bool :=
  let m := modeOf s n
  let cur := m == 3 || m == 4
  ((s.tile (tileOf n)).power || b == dgNoSupply) && isAN n &&
  (((b == dgWireBreak || b == dgShort) && cur && s.is (.CH_AN_CFG_NE43_EN n) && !injecting s n)
   || (b == dgOverload && cur && (!injecting s n || m == 4))
   || (b == dgOvervoltage && decide (m ≤ 4) && !injecting s n)
   || (b == dgHeadroom && decide (0 < (aoSetting s n).getD 0)) || (b == dgThermal && (m == 4 || m == 5)) || b == dgNoSupply)

/-- ANALOG_DIAG_DETECT (R83, R116, R124): the conditions of the codes of mask `m` have persisted for their detection times. -/
def execAnalogDiagDetect (n : Fin 256) (m : BitVec 12) (s : State) : Out :=
  .next (let new := diagNew (anDetectable s n) s n m.toNat
  if new = 0 then s else anRefresh n (diagSet n new (if new.testBit dgNoSupply then calLose (tileOf n) s else s)))

/-- ANALOG_DIAG_CLEAR (R116, R121, R124). In inject mode WIRE_BREAK, SHORT and OVERVOLTAGE keep their state. -/
def execAnalogDiagClear (n : Fin 256) (b : Fin 12) (s : State) : Out :=
  .next (if isAN n && diagActive s n b
      && !(injecting s n && (b.val == dgWireBreak || b.val == dgShort || b.val == dgOvervoltage)) then
    anRefresh n (diagClear n b s)
  else s)

/-- Switches channel `n` into or out of inject mode (R121, R122, R184). -/
def setInject (n : Nat) (on : Bool) (s : State) : State :=
  let s1 := s.putB (.CH_AN_INJ_EN n) on
  if injecting s n = on then s1 else discont n (noteMarks n (s1.putB (.CH_AN_STATE_INJ n) on))

/-- A write of `CH_AN_INJ.EN` (R121, R123). -/
def anInjWrite (n : Nat) (on : Bool) (s : State) : State :=
  if (s.tile (tileOf n)).sweep then s.set1 (.TILE_TDAC_DENIED (tileOf n))
  else if on && modeOf s n == 5 then s.set1 (.CH_AN_STATE_CFG_ADJ n)
  else setInject n on s

/-- INJECT_ENTER. -/
def execInjectEnter (r : Req) (n : Fin 256) (s : State) : Out :=
  .next (if isAN n then regWrite r (Reg.CH_AN_INJ n) Msk.CH_AN_INJ 1 (fun _ => anInjWrite n true) s else s)

/-- INJECT_EXIT. -/
def execInjectExit (r : Req) (n : Fin 256) (s : State) : Out :=
  .next (if isAN n then regWrite r (Reg.CH_AN_INJ n) Msk.CH_AN_INJ 0 (fun _ => anInjWrite n false) s else s)

/-- The mode that a written MODE gives on channel `n` (R104). -/
def modeUsed (n m : Nat) : Nat := if 6 ≤ m ∨ (m = 5 ∧ ¬ isAO n) then 0 else m

/-- A mode change at the tile (R125): diagnostics are cleared and evaluated afresh, AO20 ends inject mode, the chain is reset. -/
def changeMode (n m : Nat) (s : State) : State :=
  let s1 := ((s.put (.CH_DIAG_ACTIVE n) 0).put (.CH_AN_STATE_MODE_EFF n) m).put (.CH_AN_STATE_LP_RETRY n) 0
  let s2 := if m = 5 ∧ injecting s n then
      ((s1.put (.CH_AN_INJ_EN n) 0).put (.CH_AN_STATE_INJ n) 0).set1 (.CH_AN_STATE_CFG_ADJ n)
    else s1
  anRefresh n (discont n s2)

/-- A write of `CH_AN_CFG` (R104, R125, R127). -/
def anCfgWrite (n : Nat) (w : Word) (s : State) : State :=
  let m := bits w 2 0
  let m' := modeUsed n m
  let s1 := (store (Reg.CH_AN_CFG n) Msk.CH_AN_CFG (setBits w 2 0 m') s).modCh n (fun x => { x with adjMode := decide (m ≠ m') })
  if modeOf s n = m' then anRefresh n s1 else changeMode n m' s1

/-- MODE_CHANGE. -/
def execModeChange (r : Req) (n : Fin 256) (w : Word) (s : State) : Out :=
  .next (if isAN n then regWrite r (Reg.CH_AN_CFG n) Msk.CH_AN_CFG w (anCfgWrite n) s else s)

/-- A write of `TILE_TDAC` (R123, R130): ignored with DENIED while a SWEEP holds the tile; a 1 clears DENIED. -/
def tdacWrite (t : Nat) (w : Word) (s : State) : State :=
  let s1 := if bitAt w 16 then s.put (.TILE_TDAC_DENIED t) 0 else s
  if (s.tile t).sweep then s1.set1 (.TILE_TDAC_DENIED t) else s1.put (.TILE_TDAC_CODE t) (bits w 11 0)

/-- TDAC_WRITE. -/
def execTdacWrite (r : Req) (t : Fin 16) (w : Word) (s : State) : Out :=
  .next (regWrite r (Reg.TILE_TDAC t) Msk.TILE_TDAC w (tdacWrite t) s)

end Sys2Proof.Machine
end

