-- ==== Sys2Proof/Machine/Permit.lean ====
section
/-! DEFINITION. Maintenance permits (spec/16, R518 to R523) and the arbiter's OTP as the calibration reads it (R56, R158). -/

namespace Sys2Proof.Machine

/-- Activities of R518. -/
def actCal : Nat := 1
def actSweep : Nat := 2
def actFeed : Nat := 3
def actDom : Nat := 4
def actLink : Nat := 5
def actNvm : Nat := 6
def actSwitch : Nat := 7

/-- RESULT codes of `SV_PERMIT` (R528). -/
def prGranted : Nat := 0
def prBusy : Nat := 1
def prHalfMast : Nat := 2
def prNotAllowed : Nat := 3
def prDone : Nat := 4
def prFailed : Nat := 5
def prAbandoned : Nat := 6
def prBusyCtx : Nat := 7

/-- The matrix of R520: the held activities against which activity `a` is refused. -/
def permitRefusedBy (a : Nat) : List Nat :=
  match a with
  | 1 => [1, 2, 4, 5]
  | 2 => [1, 2, 7]
  | 3 => [3, 4, 5, 7]
  | 4 => [1, 3, 4, 5, 7]
  | 5 => [1, 3, 4, 5, 7]
  | 6 => [6, 7]
  | 7 => [2, 3, 4, 5, 6, 7]
  | _ => []

/-- Whether the permit of activity `a` is held. -/
def permitHeld (s : State) (a : Nat) : Bool := (s.get .SV_PERMIT_HELD).testBit (a - 1)

/-- The held activity that refuses activity `a`, if any: the lowest (R520). -/
def permitConflict (s : State) (a : Nat) : Option Nat := (permitRefusedBy a).find? (permitHeld s)

/-- The arbiter's answer to a request (R520, R521), NOT_ALLOWED before HALF_MAST before BUSY (assumption log 21). -/
def permitAnswer (s : State) (a : Nat) : Nat :=
  if s.pw.power = 0 ∨ s.pw.power = 3 ∨ s.pw.power = 4 ∨ s.pw.power = 6 then prNotAllowed
  else if halfMast s ∧ (a = actFeed ∨ a = actDom ∨ a = actLink ∨ a = actSwitch) then prHalfMast
  else if (permitConflict s a).isSome then prBusy
  else prGranted

/-- `SV_PERMIT` shows the last request of activity `a` (R528). -/
def permitShow (a res conflict : Nat) (s : State) : State :=
  ((s.put .SV_PERMIT_RESULT res).put .SV_PERMIT_CONFLICT conflict).put .SV_PERMIT_ACT a

/-- Takes or gives back a permit. -/
def permitSet (a : Nat) (held : Bool) (s : State) : State :=
  s.put .SV_PERMIT_HELD (if held then s.get .SV_PERMIT_HELD ||| 2 ^ (a - 1) else s.get .SV_PERMIT_HELD &&& (0x7F ^^^ 2 ^ (a - 1)))

/-- The PERMIT record of R516: result, activity, and the tile that the activity names. -/
def permitRecord (a res tile : Nat) (s : State) : State := svRecord 5 res 0 a tile s

/-- Decides a request: shows the answer, takes the permit when granted, and records it (R516, R520, R528). -/
def permitDecideT (a ans tile : Nat) (s : State) : State :=
  let s1 := permitShow a ans (if ans = prBusy then (permitConflict s a).getD 0 else 0) s
  permitRecord a ans tile (if ans = prGranted then permitSet a true s1 else s1)

def permitDecide (a ans : Nat) (s : State) : State := permitDecideT a ans 0 s

/-- The end of a permit, with its result. -/
def permitEndT (a res tile : Nat) (s : State) : State := permitRecord a res tile (permitShow a res 0 (permitSet a false (unquiet s)))

def permitEnd (a res : Nat) (s : State) : State := permitEndT a res 0 s

/-- What an OTP byte holds when the module leaves the factory: a blank byte, but for the vendor key hash (R51), the serial number and the factory calibration
(R56, R158, R586; assumption log 11). -/
def otpBlank (a : Nat) : Byte :=
  if 0x40 ≤ a ∧ a < 0x60 then (leBytes 32 (Config.vendorHash.val + 1)).getD (a - 0x40) 0
  else if 0x74 ≤ a ∧ a < 0x84 then (leBytes 16 Config.serial.toNat).getD (a - 0x74) 0
  else if 0x100 ≤ a ∧ a < 0x2E0 ∧ (a - 0x100) % 6 = 5 then 0x80 else 0

/-- An OTP byte, and `k` bytes as a little-endian number. -/
def otpByte (s : State) (a : Nat) : Byte := kget (otpBlank a) s.otp a
def otpNat (s : State) (a k : Nat) : Nat := leNat ((List.range k).map (fun i => otpByte s (a + i)))

/-- Writes an OTP byte. -/
def otpPut (a : Nat) (b : Byte) (s : State) : State := { s with otp := kset (otpBlank a) s.otp a b }

/-- The reference deviation of tile `t` in µV (R158). -/
def devOf (s : State) (t : Nat) : Int := sext 16 (otpNat s (0x2E0 + 2 * t) 2)

end Sys2Proof.Machine
end

