-- ==== Sys2Proof/Machine/Filters.lean ====
section
/-! DEFINITION. The commands of the filter chains (spec/06) and of their thresholds (spec/07, R206). -/

namespace Sys2Proof.Machine

/-- The shifts in effect on channel `n` (R192). -/
def effShift (s : State) (n : Nat) : Word := (ownShift s n).getD (rd s (Reg.PR_SHIFT (s.get (.CH_FC_CFG_PRESET n))))

/-- Settles a channel after a write of its filter settings (R184): a change of the preset in effect, of the shifts in effect or of EN from 0
to 1 resets the chain, EN 0 stops it. `o` is the state before the write. -/
def fcSettle (n : Nat) (o s : State) : State :=
  let s1 := fcRefresh n s
  let same := s1.get (.CH_FC_CFG_PRESET n) == o.get (.CH_FC_CFG_PRESET n) && effShift s1 n == effShift o n
    && s1.is (.CH_FC_CFG_EN n) == o.is (.CH_FC_CFG_EN n) && chainRuns s1 n == chainRuns o n
  if same then s1 else presetRestart n s1

/-- A write of `CH_FC_CFG` (R184, R192, R196): PRESET 12 to 15 is replaced by DEEP; that, and SHIFT_OWN with a named preset, read in CFG_ADJ. -/
def fcCfgWrite (n : Nat) (w : Word) (s : State) : State :=
  let p := bits w 3 0
  let p' := if 12 ≤ p then 1 else p
  let s1 := store (Reg.CH_FC_CFG n) Msk.CH_FC_CFG (setBits w 3 0 p') s
  fcSettle n s (s1.putB (.CH_FC_STATE_CFG_ADJ n) (p ≠ p' || (bitAt w 12 && decide (p' < 8))))

/-- A write of `CH_FC_SHIFT` (R184, R192). -/
def fcShiftWrite (n : Nat) (w : Word) (s : State) : State :=
  fcSettle n s (store (Reg.CH_FC_SHIFT n) Msk.CH_FC_SHIFT w s)

/-- FC_CFG_WRITE: a write of `CH_FC_CFG`, or with `shift` of `CH_FC_SHIFT`. -/
def execFcCfgWrite (r : Req) (n : Fin 256) (shift : Bool) (w : Word) (s : State) : Out :=
  .next (if isAN n then
    if shift then regWrite r (Reg.CH_FC_SHIFT n) Msk.CH_FC_SHIFT w (fcShiftWrite n) s
    else regWrite r (Reg.CH_FC_CFG n) Msk.CH_FC_CFG w (fcCfgWrite n) s
  else s)

/-- A write of `CH_FC_DELAY` (R183, R184): a change of PDELAY resets the chain. -/
def fcDelayWrite (n : Nat) (w : Word) (s : State) : State :=
  let s1 := store (Reg.CH_FC_DELAY n) Msk.CH_FC_DELAY w s
  if s1.get (.CH_FC_DELAY_PDELAY n) = s.get (.CH_FC_DELAY_PDELAY n) then s1 else delayReset n s1

/-- PDELAY_WRITE. -/
def execPdelayWrite (r : Req) (n : Fin 256) (w : Word) (s : State) : Out :=
  .next (if isAN n then regWrite r (Reg.CH_FC_DELAY n) Msk.CH_FC_DELAY w (fcDelayWrite n) s else s)

/-- Whether some enabled channel selects the preset of a record that is not in error (R193). -/
def recordInUse (s : State) (x : Nat) : Bool :=
  !s.is (.PR_STAT_ERR x) && anChs.any (fun n => s.is (.CH_FC_CFG_EN n) && s.get (.CH_FC_CFG_PRESET n) == x)

/-- Whether `o` is the offset of a writable register of a preset record (R201): its masks. -/
def recordMask (o : Nat) : Option WMask :=
  if o = 0x00 then some Msk.PR_CIC else if o = 0x04 then some Msk.PR_NORM else if o = 0x08 then some Msk.PR_FILT
  else if o = 0x0C then some Msk.PR_AVG else if o = 0x10 then some Msk.PR_SHIFT else if o = 0x14 then some Msk.PR_SUPP
  else if 0x100 ≤ o ∧ o < 0x200 ∧ o % 4 = 0 then some Msk.PR_TAP else none

/-- A host write to user preset record `x` at offset `o` (R189 to R193): applied and recomputed, or ignored with DENY. The channels that select the record follow it:
one that its correction lets run again is reset as by a preset change. -/
def recordWrite (x o : Nat) (m : WMask) (w : Word) (s : State) : State :=
  if recordInUse s x then s.put ⟨Reg.FC_STAT, 16 + (x - 8), 16 + (x - 8)⟩ 1
  else
    let s1 := prRefresh x (store (Reg.PR_CIC x + o) m w s)
    s1.each anChs (fun n t => if s1.get (.CH_FC_CFG_PRESET n) = x then fcSettle n s t else t)

/-- PRESET_RECORD_WRITE: `x` is the user preset U0 to U3. -/
def execPresetRecordWrite (r : Req) (x : Fin 4) (o : Nat) (w : Word) (s : State) : Out :=
  .next (match recordMask o with
    | some m => regWrite r (Reg.PR_CIC (8 + x) + o) m w (recordWrite (8 + x) o m) s
    | none => s)

/-- CHAIN_OUTPUT: the chain of channel `n` completes its next output; `ps` are the modulator periods that the tile has sent since the chain's last output, up to the
completion edge, newest first (R183). -/
def execChainOutput (n : Fin 256) (ps : List Period) (s : State) : Out := .next (chainOutput n ps s)

/-- Whether the 16 periods before or the 64 after this moment meet an integration window of a calibration (R154, R155): 10 to 200 ms and 210 to 400 ms after CAL
began, four times as late in LEAN. -/
def calWindow (s : State) : Bool :=
  let t : Int := (clk s : Int) - s.ca.calAt
  let u : Int := (if fmLean s then 4 else 1) * tickMs
  s.get .CA_STAT_STATE == 2 && within [(10 * u, 200 * u), (210 * u, 400 * u)] (t - 16 * per s) (t + 64 * per s)

/-- MODULATOR_LOOP_RESET (R138): the next 64 modulator periods count as over-range; in a calibration's windows the converter fails (R155). -/
def execModulatorLoopReset (n : Fin 256) (s : State) : Out :=
  .next (if isAN n && (s.tile (tileOf n)).power then
    let e := edgeAt s (now s)
    let s1 := s.setChain n { s.chain n with marks := (s.chain n).marks ++ [((e : Int), (e : Int) + 64 * per s)] }
    if calWindow s then s1.modCa (fun c => { c with lost := anIx n :: c.lost }) else s1
  else s)

/-- A write of a threshold register (R204, R206): the state becomes undefined. `reg` is 0 CFG, 1 LEVEL, 2 HYST. -/
def thWrite (n x reg : Nat) (w : Word) (s : State) : State :=
  let s1 := match reg with
    | 0 => store (Reg.CH_TH_CFG n x) Msk.CH_TH_CFG w s
    | 1 => store (Reg.CH_TH_LEVEL n x) Msk.CH_TH_LEVEL w s
    | _ => store (Reg.CH_TH_HYST n x) Msk.CH_TH_HYST w s
  wr (Reg.CH_TH_STATE n x) 0 s1

/-- The masks of a threshold register. -/
def thMask (reg : Nat) : WMask := match reg with | 0 => Msk.CH_TH_CFG | 1 => Msk.CH_TH_LEVEL | _ => Msk.CH_TH_HYST

/-- THRESHOLD_WRITE. -/
def execThresholdWrite (r : Req) (n : Fin 256) (x : Fin 2) (reg : Fin 3) (w : Word) (s : State) : Out :=
  .next (if isAN n then
    regWrite r (Reg.CH_TH_CFG n x + 4 * reg.val) (thMask reg) w (thWrite n x reg) s
  else s)

/-- A write of `CH_QBIND` (R236): bindings are decided anew. -/
def qbindWrite (n : Nat) (w : Word) (s : State) : State := rebind (store (Reg.CH_QBIND n) Msk.CH_QBIND w s)

end Sys2Proof.Machine
end

