-- ==== Sys2Proof/Machine/Convert.lean ====
section
/-! DEFINITION. The conversion array (spec/05): SYNC, auxiliary scan and windows, injected conversions, calibration, sweeps. -/

namespace Sys2Proof.Machine

/-- The active domain, if any. -/
def activeDom (s : State) : Option Dom :=
  if s.sv.roleA = .active then some .a else if s.sv.roleB = .active then some .b else none

/-- Whether the link of tile `t` to domain `d` is trained (R529). -/
def linkUp (s : State) (t : Nat) (d : Dom) : Bool :=
  match d with | .a => s.is (.TILE_FEED_LINK_A t) | .b => s.is (.TILE_FEED_LINK_B t)

/-- A tile that is powered and whose link to the active domain is trained (R152). -/
def tileUp (s : State) (t : Nat) : Bool :=
  (s.tile t).power && (match activeDom s with | some d => linkUp s t d | none => false)

/-- SYNC_LAND_EDGE (R141, R143, R219, R276): `rising` is the polarity of a level change that has been stable. An edge of the chosen polarity requests a
SYNC and a dip; under PPS it does neither, and counts where it is enabled. -/
def execSyncLandEdge (rising : Bool) (s : State) : Out :=
  .next (if rising = s.is .CA_CFG_LAND_EDGE then s
  else if s.get .TU_SRC_SRC = 3 then
    (s.when (s.is .CA_CFG_SYNC_LAND_EN) (·.inc .CA_SYNC_INFO_IGN_CNT)).when (s.is .EV_DIP_CFG_LAND_EN) (·.inc .EV_DIP_STAT_IGN_CNT)
  else
    let s1 := syncRequest srcLand none s
    if s.is .EV_DIP_CFG_LAND_EN then
      let s2 := (s1.incWrap .EV_DIP_STAT_LAND_ID).modTu (fun t => { t with lands := t.lands + 1 })
      dipRequest 2 (s2.get .EV_DIP_STAT_LAND_ID) (now s + 4096) s2
    else s1)

/-- CA_SYNC_GO: a write of 1 to `CA_SYNC.GO` (R141). -/
def execCaSyncGo (r : Req) (s : State) : Out :=
  .next (regWrite r Reg.CA_SYNC Msk.CA_SYNC 1 (fun w s => s.when (bitAt w 0) (syncRequest srcReg none)) s)

/-- The earliest SYNC edge that has come. -/
def dueEdge (s : State) : Option Nat :=
  ((s.ca.syncs.filter (fun r => decide (r.edge ≤ now s))).map (·.edge)).min?

/-- The mask of sources of some SYNCs (R165). -/
def srcMask (l : List SyncReq) : Nat := l.foldl (fun m r => m ||| 2 ^ r.src) 0

/-- SYNC_APPLY (R140, R143): the SYNCs of the earliest edge that has come give one reset. In state CAL they merge into the CAL edge; while acquisition is
stopped they are ignored and counted. -/
def execSyncApply (s : State) : Out :=
  .next (match dueEdge s with
  | none => s
  | some e =>
    let l := s.ca.syncs.filter (fun r => r.edge = e)
    let s1 := s.modCa (fun c => { c with syncs := c.syncs.filter (fun r => r.edge ≠ e) })
    if ¬ acqRuns s then s1.addSat .CA_SYNC_INFO_IGN_CNT l.length
    else if s.get .CA_STAT_STATE = 2 then (s1.modCa (fun c => { c with merged := c.merged ||| srcMask l })).set1 .CA_STAT_SYNC_MERGED
    else syncApplyAt e (srcMask l) (l.any (·.late)) s1)

/-- The lowest selected auxiliary input at or above `i`, else the lowest selected (R146). -/
def scanFrom (mask i : Nat) : Option Nat :=
  match (List.range 16).find? (fun j => decide (i ≤ j) && mask.testBit j) with
  | some j => some j
  | none => (List.range 16).find? (fun j => mask.testBit j)

/-- Ticks of an auxiliary slot (R146). -/
def slotTicks (s : State) : Nat := 3072 * per s

/-- Whether a calibration is in CAL_WAIT or CAL (R147, R152). -/
def calBusy (s : State) : Bool := s.get .CA_STAT_STATE == 1 || s.get .CA_STAT_STATE == 2

/-- What the slot of tile `t` that begins now is for (R146, R149, R152): the oldest pending request, unless it is held; else the scan's next input, while acquisition
runs and no calibration does; else nothing. `some none` is an injected conversion. -/
def slotUse (s : State) (t : Nat) : Option (Option Nat) :=
  let x := s.tile t
  if ¬ tileUp s t then none
  else match x.inj with
    | r :: _ => if r.held && calBusy s then none else some none
    | [] => if acqRuns s && !calBusy s then (scanFrom (s.get (.TILE_AUX_MASK_MASK t)) x.scan).map some else none

/-- A slot of tile `t` begins at edge `e` (R146), or its converter is idle. -/
def slotBegin (t e : Nat) (s : State) : State :=
  s.modTile t (fun x => { x with slot := (slotUse s t).map (fun u => (e + slotTicks s, u)) })

/-- A converter that is idle, or that runs a scan slot which it abandons, begins a slot at the next modulator edge. -/
def slotRestart (t : Nat) (s : State) : State :=
  match (s.tile t).slot with
  | some (_, none) => s
  | _ => slotBegin t (edgeAt s (now s)) s

/-- Whether the slot that ends at tick `e` has come to its end. -/
def slotDone (s : State) (t e : Nat) : Bool := tileUp s t && s.ca.haltAt.isNone && decide (e ≤ now s)

/-- Whether `TILE_AUXi` is stale (R147): not selected, without a result, with one older than two scan periods, or while calibration runs. -/
def auxStale (s : State) (t i : Nat) : Bool :=
  let mask := s.get (.TILE_AUX_MASK_MASK t)
  let n := ((List.range 16).filter (fun j => mask.testBit j)).length
  let at_ := kget 0 (s.tile t).auxAt i
  !mask.testBit i || at_ == 0 || decide (at_ + 2 * n * slotTicks s < clk s + 1) || calBusy s

/-- A corrected auxiliary code (R156). -/
def auxCode (s : State) (t : Nat) (x : Int) : Int :=
  (calCorrect x (sext 24 (s.get (.TILE_AUX_OFS_OFS t))) (s.get (.TILE_AUX_GAIN_GAIN t))).1

/-- A window's evaluation of a result (R207, R208): the state after, and the event raised. -/
def winEval (t i : Nat) (d : Int) (s : State) : State × List Pen :=
  if ¬ (s.get (.TILE_WIN_CFG_EN t)).testBit i then (s, []) else
  let hi := sext 24 (s.get ⟨Reg.TILE_WIN_HI t i, 23, 0⟩)
  let lo := sext 24 (s.get ⟨Reg.TILE_WIN_LO t i, 23, 0⟩)
  let above := decide (hi < d)
  let outside := decide (d < lo) || above
  let isOut := (s.get (.TILE_WIN_STATE_OUT t)).testBit i
  let x := s.tile t
  let cnt := kget 0 x.win i
  let s1 := if outside then s.modTile t (fun x => { x with winUp := if above then x.winUp ||| 2 ^ i else x.winUp &&& (0xFFFF ^^^ 2 ^ i) }) else s
  if outside = isOut then (s1.modTile t (fun x => { x with win := kset 0 x.win i 0 }), [])
  else if cnt < s.get (.TILE_WIN_HOLD_HOLD t) then (s1.modTile t (fun x => { x with win := kset 0 x.win i (cnt + 1) }), [])
  else
    let s2 := (s1.modTile t (fun x => { x with win := kset 0 x.win i 0 })).put (.TILE_WIN_STATE_OUT t) (s.get (.TILE_WIN_STATE_OUT t) ^^^ 2 ^ i)
    let p : Pen := { ty := if outside then 3 else 4, flags := { up := if outside then above else x.winUp.testBit i }, cls := 1, ix := 16 * t + i,
                     value := wd (toU 32 d), time := now s }
    (s2, if outside || (s.get (.TILE_WIN_CFG_REENTER t)).testBit i then [p] else [])

/-- The scan's result on input `i` of tile `t` (R146, R156, R207): corrected, it replaces `TILE_AUXi`, and its window evaluates it. -/
def auxResult (t i : Nat) (raw : Int) (ovr : Bool) (s : State) : State :=
  let d := auxCode s t (clip24 raw).1
  let s1 := wr (Reg.TILE_AUX t i) (wd (mk [(toU 24 d, 8), (b2n ovr, 1)])) s
  let s2 := s1.modTile t (fun x => { x with auxAt := kset 0 x.auxAt i (clk s + 1), scan := i + 1 })
  if (s.get (.TILE_AUX_MASK_MASK t)).testBit i then
    let r := winEval t i d s2
    raisePennants .both r.2 r.1
  else s2

/-- AUX_SLOT_END (R146, R147): a scan slot of tile `t` ends and the next slot begins. `raw` is the converter's code before correction, `ovr` whether the input lies
beyond ±1.05 of its full scale. On an idle converter what waits for it begins. -/
def execAuxSlotEnd (t : Fin 16) (raw : Int) (ovr : Bool) (s : State) : Out :=
  .next (match (s.tile t).slot with
  | some (e, some i) => if slotDone s t e then slotBegin t e (auxResult t i raw ovr s) else s
  | some (_, none) => s
  | none => slotRestart t s)

/-- Response codes of R152. -/
def injAccepted : Nat := 0
def injBusy : Nat := 1
def injHeld : Nat := 2
def injTileDown : Nat := 3
def injBadTarget : Nat := 4

/-- The response to a request (R148, R152). Where several conditions hold, BAD_TARGET comes before TILE_DOWN, BUSY and HELD (assumption log 54). -/
def injResponse (s : State) (t target : Nat) (nowait : Bool) : Nat :=
  if 20 ≤ target then injBadTarget
  else if ¬ tileUp s t then injTileDown
  else if 4 ≤ (s.tile t).inj.length ∨ (nowait ∧ calBusy s) then injBusy
  else if calBusy s then injHeld
  else injAccepted

/-- The number of pending requests as `TILE_INJ_STAT` shows it. -/
def showPend (t : Nat) (s : State) : State := s.put (.TILE_INJ_STAT_PEND t) (s.tile t).inj.length

/-- Queues an accepted or held request (R148); an idle converter begins it at once. -/
def injQueue (t : Nat) (x : InjReq) (s : State) : State :=
  let s1 := showPend t (s.modTile t (fun y => { y with inj := y.inj ++ [x] }))
  if (s.tile t).slot.isNone then slotRestart t s1 else s1

/-- A write of `CA_INJ` (R148, R152, R166). `CA_INJ_RESP` holds the response to S0's last one. -/
def caInjWrite (r : Req) (w : Word) (s : State) : State :=
  let t := bits w 19 16
  let g := bits w 28 24
  let resp := injResponse s t g (bitAt w 31)
  let s1 := if r = .s0 then (s.put .CA_INJ_RESP_RESP resp).put .CA_INJ_RESP_TAG (bits w 15 0) else s
  if resp = injAccepted ∨ resp = injHeld then
    injQueue t { target := g, tag := bits w 15 0, held := decide (resp = injHeld) } s1
  else s1

/-- INJ_REQUEST. -/
def execInjRequest (r : Req) (w : Word) (s : State) : Out :=
  .next (regWrite r Reg.CA_INJ Msk.CA_INJ w (caInjWrite r) s)

/-- The result of an injected conversion in the tile's and the channel's registers (R150, R151). -/
def injStore (t : Nat) (x : InjReq) (d : Int) (ovr : Bool) (s : State) : State :=
  let s1 := wr (Reg.TILE_INJ_RES t) (wd (toU 24 d * 256)) s |>.put64 (Reg.TILE_INJ_TS t 0) (now s)
  let s2 := (((s1.put (.TILE_INJ_STAT_TAG t) x.tag).putB (.TILE_INJ_STAT_HELD t) x.held).putB (.TILE_INJ_STAT_OVR t) ovr).putB
    (.TILE_INJ_STAT_HOIST t) x.ctx.isSome |>.put (.TILE_INJ_STAT_TARGET t) x.target
  if 16 ≤ x.target then
    let n := 16 * t + (x.target - 4)
    (wr (Reg.CH_INJ_RES n) (wd (mk [(toU 24 d, 8), (b2n ovr, 1), (b2n x.held, 0)])) s2).put (.CH_INJ_TAG_TAG n) x.tag
  else s2

/-- A hoist request delivers its result to the context that waits for it (R151, R396): V[D] holds the code sign-extended, F = 0, V its OVR,
C INJ_HELD. -/
def ainDone (c : Nat) (d : Int) (ovr held : Bool) (s : State) : State :=
  match (s.ctx c).wait with
  | .inj v =>
    if s.get (.CTX_STAT_STATE c) = stWaiting then
      ctxResume c (s.ctx c).pc ((wr (Reg.CTX_V c v) (wd (toU 32 d)) s).modCtx c (fun x => { x with ff := false, vf := ovr, cf := held }))
    else s
  | _ => s

/-- INJ_COMPLETE (R149 to R151): the slot of tile `t`'s oldest pending request ends with the converter's code `raw`. -/
def execInjComplete (t : Fin 16) (raw : Int) (ovr : Bool) (s : State) : Out :=
  .next (match (s.tile t).slot, (s.tile t).inj with
  | some (e, none), x :: rest =>
    if slotDone s t e then
      let d := auxCode s t (clip24 raw).1
      let s1 := injStore t x d ovr (s.modTile t (fun y => { y with inj := rest }))
      let s2 := slotBegin t e (showPend t s1)
      match x.ctx with
      | some c => ainDone c d ovr x.held s2
      | none => s2
    else s
  | _, _ => s)

/-- RESULT codes of `CA_STAT` (R163). -/
def caOk : Nat := 0
def caRefused : Nat := 1
def caPartial : Nat := 2
def caAbandoned : Nat := 3
def caAborted : Nat := 4
def caNotAllowed : Nat := 5

/-- A CAL request (R153): a calibration that runs ignores it, a refusal shows in RESULT, else the permit is asked for. -/
def calRequest (s : State) : State :=
  if s.ca.calStep ≠ 0 then s.set1 .CA_STAT_IGNORED
  else if ¬ acqRuns s then s.put .CA_STAT_RESULT caNotAllowed
  else if permitAnswer s actCal ≠ prGranted then (permitDecide actCal (permitAnswer s actCal) s).put .CA_STAT_RESULT caRefused
  else s.modCa (fun c => { c with calStep := 1 })

/-- CAL. -/
def execCal (r : Req) (s : State) : Out :=
  .next (regWrite r Reg.CA_CMD Msk.CA_CMD 1 (fun w s => s.when (bits w 3 0 = 1) calRequest) s)

/-- Every powered tile's link to the active domain is trained. -/
def linksTrained (s : State) : Bool := (List.range 16).all (fun t => !(s.tile t).power || tileUp s t)

/-- AUTO_CAL_START (R153): once after each start, with AUTO_CAL set, the image in effect and the tile links trained. -/
def execAutoCalStart (s : State) : Out :=
  .next (if s.is .CA_CFG_AUTO_CAL && acqRuns s && linksTrained s && !s.ca.autoDone && s.ca.calStep == 0 then
    calRequest (s.modCa (fun c => { c with autoDone := true }))
  else s)

/-- Tiles whose converters a calibration cannot reach when it starts: no link to the active domain, or NO_SUPPLY (R157). -/
def calCannot (s : State) : List Nat :=
  ((List.range 16).filter (fun t => !tileUp s t || diagActive s (16 * t + 12) dgNoSupply)).flatMap tileConvs

/-- CAL_WAIT on tile `t` (R154, step 2): a running injection ends, a scan slot is abandoned for the oldest pending request, the other requests are held. -/
def calWaitTile (t : Nat) (s : State) : State :=
  slotRestart t (s.modTile t (fun y => { y with inj :=
    match y.inj with
    | [] => []
    | x :: l => x :: l.map (fun z => { z with held := true }) }))

/-- CAL_PERMIT_GRANTED (R154, step 2). -/
def execCalPermitGranted (s : State) : Out :=
  .next (if s.ca.calStep ≠ 1 then s
  else if permitAnswer s actCal ≠ prGranted ∨ ¬ acqRuns s then
    ((permitDecide actCal (permitAnswer s actCal) s).put .CA_STAT_RESULT caRefused).modCa (fun c => { c with calStep := 0 })
  else
    allTiles calWaitTile (((permitDecide actCal prGranted s).put .CA_STAT_STATE 1).modCa (fun c => { c with calStep := 2, lost := calCannot s })))

/-- A CAL marker (R242). -/
def calMarker (s : State) : List Word := [wd (mk [(1, 24), (3, 6), (b2n (halfMast s), 0)]), wd (now s)]

/-- CAL_ENTER (R154, step 3; R242, R187): every tile's converter has ended its slot; CAL markers, chains stop. -/
def execCalEnter (s : State) : Out :=
  .next (if s.ca.calStep = 2 ∧ (List.range 16).all (fun t => (s.tile t).slot.isNone || !tileUp s t) then
    let s1 := s.each anChs (fun n t =>
      if s.is (.CH_FC_CFG_EN n) && writesQueue t n then qPushDrop (t.get (.CH_QBIND_Q n)) (.chan n) [calMarker s] t else t)
    ((stopChains s1).put .CA_STAT_STATE 2).modCa (fun c => { c with calStep := 3, calAt := clk s })
  else s)

/-- Modulator periods of an integration window: 190 ms at 3.072 MHz, 760 ms at 0.768 MHz (R154). -/
def calPeriods : Nat := 583680

/-- Whether the time of a step of R154 has come: `run` ms after CAL began, or `lean` in LEAN. -/
def calPast (s : State) (run lean : Nat) : Bool := decide (s.ca.calAt + (if fmLean s then lean else run) * tickMs ≤ clk s)

/-- CAL_OFFSET_MEANS (R154, step 5): `sums` holds, for the 64 modulators and then the 16 auxiliary converters, the sum over the window of the
modulator output in units of 2^−23 MFS; M0 is that sum over the number of periods. -/
def execCalOffsetMeans (sums : List Int) (s : State) : Out :=
  .next (if s.ca.calStep = 3 ∧ calPast s 200 800 then s.modCa (fun c => { c with calStep := 4, s0 := sums }) else s)

/-- r_exp of R155. -/
def rExp (dev : Int) : Int := divAway (8388608 * (2048000 + dev)) 2560000

/-- The tile of a converter. -/
def convTile (i : Nat) : Nat := if i < 64 then i / 4 else i - 64

/-- Whether a converter fails (R155): offset, gain or a mark out of bounds. `a` and `b` are the window sums. -/
def convGain (dev a b : Int) : Int := if a < b then divAway (8388608 * rExp dev * calPeriods) (b - a).toNat else 0
def convFails (dev a b : Int) : Bool :=
  decide (83886 < (divAway a calPeriods).natAbs) || decide (convGain dev a b < 0x7D70A4) || decide (0x828F5C < convGain dev a b)

/-- Writes a converter's factors, or marks it failed (R155, R159). -/
def convWrite (i : Nat) (fail : Bool) (ofs gain : Int) (s : State) : State :=
  if i < 64 then
    let n := anCh i
    if fail then s.set1 (.CH_CAL_OFS_FAIL n)
    else (((s.put (.CH_CAL_OFS_OFS n) (toU 24 ofs)).put (.CH_CAL_GAIN_GAIN n) gain.toNat).put (.CH_CAL_OFS_STALE n) 0).put (.CH_CAL_OFS_FAIL n) 0
      |>.put (.CH_CAL_OFS_HOST n) 0
  else
    let t := i - 64
    if fail then s.set1 (.TILE_AUX_OFS_FAIL t)
    else (((s.put (.TILE_AUX_OFS_OFS t) (toU 24 ofs)).put (.TILE_AUX_GAIN_GAIN t) gain.toNat).put (.TILE_AUX_OFS_STALE t) 0).put (.TILE_AUX_OFS_FAIL t) 0
      |>.put (.TILE_AUX_OFS_HOST t) 0

/-- The factory factors of every converter, from OTP (R158, R159). -/
def factoryLoad (s : State) : State :=
  s.each (List.range 80) (fun i s =>
    let o := otpNat s (0x100 + 6 * i) 3
    let g := otpNat s (0x103 + 6 * i) 3
    if i < 64 then (s.put (.CH_CAL_OFS_OFS (anCh i)) o).put (.CH_CAL_GAIN_GAIN (anCh i)) g
    else (s.put (.TILE_AUX_OFS_OFS (i - 64)) o).put (.TILE_AUX_GAIN_GAIN (i - 64)) g)

/-- A converter's STALE bit. -/
def convStale (s : State) (i : Nat) : Bool := if i < 64 then s.is (.CH_CAL_OFS_STALE (anCh i)) else s.is (.TILE_AUX_OFS_STALE (i - 64))

/-- `CA_STAT.CAL_STALE` follows the STALE bits (R159). -/
def calStale (s : State) : State := s.putB .CA_STAT_CAL_STALE ((List.range 80).any (convStale s))

/-- The factors of every converter, computed, checked and written; failures are counted (R155). -/
def convAll (sums : List Int) (marked : List Nat) : List Nat → State × Nat → State × Nat
  | [], p => p
  | i :: l, p =>
    let s := p.1
    let a := s.ca.s0.getD i 0
    let b := sums.getD i 0
    let dev := devOf s (convTile i)
    let f := marked.contains i || s.ca.lost.contains i || !tileUp s (convTile i) || convFails dev a b
    convAll sums marked l (convWrite i f (divAway a calPeriods) (convGain dev a b) s, p.2 + b2n f)

/-- The two factor registers of converter `i`. -/
def convRegs (i : Nat) : List Nat :=
  if i < 64 then [Reg.CH_CAL_OFS (anCh i), Reg.CH_CAL_GAIN (anCh i)] else [Reg.TILE_AUX_OFS (i - 64), Reg.TILE_AUX_GAIN (i - 64)]

/-- The words of every converter's factor registers. -/
def factorWords (s : State) : List (Nat × Word) := ((List.range 80).flatMap convRegs).map (fun a => (a, rd s a))

/-- CAL_GAIN_MEANS (R154, steps 7 and 8; R155, R159): the sums of the gain window, and the converters that a clamp of their own loop marked; the factors are written
at the time of step 8. -/
def execCalGainMeans (sums : List Int) (marked : List Nat) (s : State) : Out :=
  .next (if s.ca.calStep = 4 ∧ calPast s 405 1620 then
    let r := convAll sums marked (List.range 80) (s, 0)
    ((calStale r.1).put .CA_STAT_FAIL_CNT r.2).modCa (fun c => { c with
      calStep := 5, calFail := r.2, prev := factorWords s, wrote := c.wrote ++ factorWords r.1 })
  else s)

/-- The end of a calibration (R154, step 9; R143, R157): the chains reset with source CAL and what was merged, the scan restarts, the permit is
released, RESULT is set. The first is step 7 of R539. -/
def calFinish (result permit : Nat) (s : State) : State :=
  let s1 := ((s.put .CA_STAT_STATE 0).put .CA_STAT_RESULT result).when (decide (6 ≤ s.get .MOD_START_STEP)) (startStep 7)
  let s2 := allTiles (fun t s => slotRestart t (s.modTile t (fun y => { y with scan := 0 }))) s1
  let s3 := raiseIrq irqCal (permitEnd actCal permit (s2.modCa (fun c => { c with calStep := 0, merged := 0, s0 := [], lost := [], prev := [] })))
  if acqRuns s3 then syncApplyAt (edgeAt s3 (now s3)) (128 ||| s.ca.merged) false s3 else s3

/-- CAL_END. -/
def execCalEnd (s : State) : Out :=
  .next (if s.ca.calStep = 5 ∧ calPast s 420 1650 then calFinish (if s.ca.calFail = 0 then caOk else caPartial) prDone s else s)

/-- The factors as they were before a calibration that is abandoned wrote them (R157). -/
def factorsBack (s : State) : State :=
  calStale ((s.each s.ca.prev (fun p s => wr p.1 p.2 s)).modCa (fun c => { c with wrote := c.wrote ++ c.prev }))

/-- A calibration abandoned (R157): factors unchanged, otherwise as at its end. One that only asked for its permit is dropped. -/
def calAbandon (s : State) : State :=
  if s.ca.calStep = 0 then s
  else if s.ca.calStep = 1 then (s.put .CA_STAT_RESULT caAbandoned).modCa (fun c => { c with calStep := 0 })
  else calFinish caAbandoned prAbandoned (factorsBack s)

/-- A host write of a factor (R159, R168): the factor is set, STALE clears, HOST is set. -/
def factorWrite (i : Nat) (gain : Bool) (w : Word) (s : State) : State :=
  let v := bits w 23 0
  let s1 := if i < 64 then
      let n := anCh i
      ((if gain then s.put (.CH_CAL_GAIN_GAIN n) v else s.put (.CH_CAL_OFS_OFS n) v).put (.CH_CAL_OFS_STALE n) 0).set1 (.CH_CAL_OFS_HOST n)
    else
      let t := i - 64
      ((if gain then s.put (.TILE_AUX_GAIN_GAIN t) v else s.put (.TILE_AUX_OFS_OFS t) v).put (.TILE_AUX_OFS_STALE t) 0).set1 (.TILE_AUX_OFS_HOST t)
  calStale (s1.modCa (fun c => { c with prev := c.prev.filter (fun p => !(convRegs i).contains p.1) }))

/-- The address and masks of a factor register: converters 0 to 63 by analog index, 64 to 79 auxiliary by tile. -/
def factorReg (i : Nat) (gain : Bool) : Nat × WMask :=
  if i < 64 then (if gain then (Reg.CH_CAL_GAIN (anCh i), Msk.CH_CAL_GAIN) else (Reg.CH_CAL_OFS (anCh i), Msk.CH_CAL_OFS))
  else if gain then (Reg.TILE_AUX_GAIN (i - 64), Msk.TILE_AUX_GAIN) else (Reg.TILE_AUX_OFS (i - 64), Msk.TILE_AUX_OFS)

/-- CAL_FACTOR_WRITE. -/
def execCalFactorWrite (r : Req) (i : Fin 80) (gain : Bool) (w : Word) (s : State) : Out :=
  .next (regWrite r (factorReg i gain).1 (factorReg i gain).2 w (factorWrite i gain) s)

/-- Whether the settings of a sweep are allowed (R160). -/
def sweepAllowed (s : State) : Bool :=
  let start := sext 12 (s.get .CA_SWEEP_CFG_START)
  let inc := sext 12 (s.get .CA_SWEEP_CFG_STEP)
  let cnt := s.get .CA_SWEEP_CFG_COUNT
  let last := start + (cnt - 1 : Nat) * inc
  cnt != 0 && s.get .CA_SWEEP_SEL_TILES != 0 && decide (-2048 ≤ last) && decide (last ≤ 2047) && acqRuns s

/-- Whether a sweep takes analog position 12 + j of tile `t`. -/
def swept (s : State) (t j : Nat) : Bool :=
  s.ca.swTiles.testBit t && s.ca.swPos.testBit j && modeOf s (16 * t + 12 + j) != 5 && (s.tile t).power

/-- Applies `f` for each channel that the sweep takes. -/
def eachSwept (f : Nat → Nat → State → State) (s : State) : State :=
  allTiles (fun t s => s.each [0, 1, 2, 3] (fun j s => if swept s t j then f t j s else s)) s

/-- Sets the test DAC of the swept tiles (R161). -/
def sweepCode (c : Int) (s : State) : State :=
  allTiles (fun t s => if s.ca.swTiles.testBit t then s.put (.TILE_TDAC_CODE t) (toU 12 c) else s) s

/-- Takes over the tiles of a sweep (R123, R161): remembers what it will restore, enters inject mode, sets the first code. -/
def sweepStart (s : State) : State :=
  let s1 := allTiles (fun t s =>
    if s.ca.swTiles.testBit t then
      let inj := mk ([0, 1, 2, 3].map (fun j => (s.get (.CH_AN_INJ_EN (16 * t + 12 + j)), j)))
      let res := mk ([0, 1, 2, 3].map (fun j => ((if swept s t j then 0 else 0xFF), 8 * j)))
      wr (Reg.TILE_SWEEP_RES t) (wd res) (s.modTile t (fun y => { y with sweep := true, swTdac := s.get (.TILE_TDAC_CODE t), swInj := inj }))
    else s) s
  sweepCode s.ca.swStart (eachSwept (fun t j s => setInject (16 * t + 12 + j) true s) s1)

/-- A SWEEP request (R160): refused, or granted and started. -/
def sweepRequest (s : State) : State :=
  if ¬ sweepAllowed s then s.put .CA_STAT_RESULT caNotAllowed
  else if permitAnswer s actSweep ≠ prGranted then (permitDecide actSweep (permitAnswer s actSweep) s).put .CA_STAT_RESULT caRefused
  else
    let lo := if fmLean s then 8 else 2
    let dw := s.get .CA_SWEEP_SEL_DWELL
    let s1 := (s.when (decide (dw < lo)) (·.set1 .CA_STAT_IGNORED)).put .CA_STAT_SWEEP_FAIL 0
    let s2 := s1.modCa (fun c => { c with
      swStep := some 0, swTiles := s.get .CA_SWEEP_SEL_TILES, swPos := s.get .CA_SWEEP_SEL_POS,
      swStart := sext 12 (s.get .CA_SWEEP_CFG_START), swInc := sext 12 (s.get .CA_SWEEP_CFG_STEP),
      swCount := s.get .CA_SWEEP_CFG_COUNT, swLimit := s.get .CA_SWEEP_SEL_LIMIT, swDwell := max dw lo, swAt := clk s, swAbort := false })
    sweepStart ((permitDecide actSweep prGranted s2).put .CA_STAT_STATE 3)

/-- SWEEP. -/
def execSweep (r : Req) (s : State) : Out :=
  .next (regWrite r Reg.CA_CMD Msk.CA_CMD 2 (fun w s => s.when (bits w 3 0 = 2) sweepRequest) s)

/-- A SWEEP_ABORT (R161): the sweep ends after the current step; without one the command is ignored. -/
def sweepAbortReq (s : State) : State :=
  if s.ca.swStep.isSome then s.modCa (fun c => { c with swAbort := true }) else s.set1 .CA_STAT_IGNORED

/-- SWEEP_ABORT. -/
def execSweepAbort (r : Req) (s : State) : Out :=
  .next (regWrite r Reg.CA_CMD Msk.CA_CMD 3 (fun w s => s.when (bits w 3 0 = 3) sweepAbortReq) s)

/-- A write of `CA_CMD` (R162). -/
def caCmdWrite (w : Word) (s : State) : State :=
  match bits w 3 0 with
  | 0 => s
  | 1 => calRequest s
  | 2 => sweepRequest s
  | 3 => sweepAbortReq s
  | _ => s.set1 .CA_STAT_IGNORED

/-- The code that channel `n` should show for a measured DAC code `d` of auxiliary input 15 (R106, R120, R145). -/
def sweepExpect (mode : Nat) (d : Int) : Int := if mode = 1 ∨ mode = 3 ∨ mode = 4 then 2 * d - 8388608 else d

/-- The comparison of R161 on one channel: the largest deviation is kept in 0.01 % of span, and SWEEP_FAIL shows one beyond LIMIT. A deviation is rounded down, and a
channel that has delivered nothing since its reset is not compared (assumption log 86). -/
def sweepCompare (d : List Int) (t j : Nat) (s : State) : State :=
  let n := 16 * t + 12 + j
  if lastWord s n = 0xC0 then s else
  let diff := (sext 24 (bits (lastWord s n) 31 8) - sweepExpect (modeOf s n) (d.getD t 0)).natAbs
  let dev := min 0xFE (diff * 10000 / 2 ^ 24)
  let f : FldRef := ⟨Reg.TILE_SWEEP_RES t, 8 * j + 7, 8 * j⟩
  let s1 := s.put f (max dev (s.get f))
  if s.ca.swLimit ≠ 0 ∧ s.ca.swLimit * 2 ^ 24 < diff * 2000 then s1.set1 .CA_STAT_SWEEP_FAIL else s1

/-- The end of a sweep (R123, R161): inject mode and the DAC return to what they were, the permit is released, RESULT is set. -/
def sweepEnd (result permit : Nat) (s : State) : State :=
  let s1 := allTiles (fun t s =>
    if s.ca.swTiles.testBit t && (s.tile t).sweep then
      let y := s.tile t
      let s1 := (s.put (.TILE_TDAC_CODE t) y.swTdac).modTile t (fun y => { y with sweep := false })
      s1.each [0, 1, 2, 3] (fun j s => if modeOf s (16 * t + 12 + j) = 5 then s else setInject (16 * t + 12 + j) (y.swInj.testBit j) s)
    else s) s
  raiseIrq irqCal ((permitEnd actSweep permit ((s1.put .CA_STAT_STATE 0).put .CA_STAT_RESULT result)).modCa
    (fun c => { c with swStep := none, swAbort := false }))

/-- A sweep's conversion has taken the last slot of the dwell, ahead of what the tile's converter was to do (R161). -/
def slotDelay (t : Nat) (s : State) : State :=
  s.modTile t (fun x => { x with slot := x.slot.map (fun p => (p.1 + slotTicks s, p.2)) })

/-- SWEEP_STEP (R161): a dwell ends; `raw` holds the converter's code of auxiliary input 15 by tile. The sweep's own conversion shows with TAG 0 (assumption log 86). -/
def execSweepStep (raw : List Int) (s : State) : Out :=
  .next (match s.ca.swStep with
  | none => s
  | some i =>
    if clk s < s.ca.swAt + s.ca.swDwell * tickMs then s else
    let d := (List.range 16).map (fun t => auxCode s t (clip24 (raw.getD t 0)).1)
    let s1 := allTiles (fun t s => if s.ca.swTiles.testBit t && tileUp s t then
      slotDelay t (injStore t { target := 15, tag := 0 } (d.getD t 0) false s) else s) s
    let s2 := eachSwept (sweepCompare d) s1
    if s.ca.swAbort then sweepEnd caAborted prAbandoned s2
    else if s.ca.swCount ≤ i + 1 then sweepEnd caOk prDone s2
    else sweepCode (s.ca.swStart + (i + 1 : Nat) * s.ca.swInc) (s2.modCa (fun c => { c with swStep := some (i + 1), swAt := clk s })))

/-- A write of `TILE_WIN_CFG` (R208, R231): a window that is enabled starts IN with its counter at 0. -/
def winCfgWrite (t : Nat) (w : Word) (s : State) : State :=
  let new := bits w 15 0 &&& (0xFFFF ^^^ s.get (.TILE_WIN_CFG_EN t))
  let s1 := store (Reg.TILE_WIN_CFG t) Msk.TILE_WIN_CFG w s
  (s1.put (.TILE_WIN_STATE_OUT t) (s.get (.TILE_WIN_STATE_OUT t) &&& (0xFFFF ^^^ new))).modTile t
    (fun y => { y with win := y.win.filter (fun p => !new.testBit p.1) })

/-- LINK_FRAMES_RESUME (R176): valid frames return on the link of tile `t` to domain `d` after more than 1 ms; the active domain resets the tile's
chains. -/
def execLinkFramesResume (t : Fin 16) (d : Dom) (s : State) : Out :=
  .next (let x := s.tile t
  let lost := match d with | .a => x.lostA | .b => x.lostB
  if lost then
    let s1 := match d with
      | .a => (s.modTile t (fun x => { x with lostA := false })).set1 (.TILE_FEED_LINK_A t)
      | .b => (s.modTile t (fun x => { x with lostB := false })).set1 (.TILE_FEED_LINK_B t)
    if activeDom s = some d then s1.each [12, 13, 14, 15] (fun k s => discont (16 * t + k) s) else s1
  else s)

end Sys2Proof.Machine
end

