-- ==== Sys2Proof/Machine/HoistData.lean ====
section
/-! DEFINITION. Hoist instructions of flow, time and data (R374, R376, R377, R378), and the word that is no instruction (R373). Each command names
the engine that executes; the word comes from memory. -/

namespace Sys2Proof.Machine

/-- No second operand and no K, and neither D nor A named. -/
def bare (h : HWord) : Bool := noK h && h.d == 0 && h.a == 0

/-- JMP (R374). -/
def execJmp (e : Fin 8) (s : State) : Out :=
  .next (runInstr 0x01 .never e.val (fun c h s =>
    checked c (h.d == 0 && h.a == 0 && h.i) (setPc c (branchTo h (s.ctx c).pc)) s) s)

/-- BR (R372, R374). -/
def execBr (e : Fin 8) (s : State) : Out :=
  .next (runInstr 0x02 .never e.val (fun c h s =>
    checked c (h.a == 0 && h.i && decide (h.d ≤ 10))
      (fun s => if condition (s.ctx c) h.d = some true then setPc c (branchTo h (s.ctx c).pc) s else stepOver c h s) s) s)

/-- CALL (R374). -/
def execCall (e : Fin 8) (s : State) : Out :=
  .next (runInstr 0x03 .never e.val (fun c h s =>
    checked c (h.d == 0 && h.a == 0 && h.i)
      (fun s => setPc c (branchTo h (s.ctx c).pc) (setV c 15 (wd (offOf s c (nextPc h (s.ctx c).pc))) s)) s) s)

/-- RET (R374, R375): a target that is no multiple of 4 or lies outside the region ends the run FETCH_ERR. A RET to the address
saved at its call ends a resynchronisation routine (R351). -/
def ret (c d : Nat) (s : State) : State :=
  let t := (s.get (.CTX_PROG_PROG c) + (getV s c d).toNat) % 2 ^ 32
  match fetchWord s c t with
  | .bad a => endRun c ccFetchErr (wd a) s
  | _ => s.modCtx c (fun x => { x with pc := t, inResync := x.inResync && x.resyncRet != t })

def execRet (e : Fin 8) (s : State) : Out :=
  .next (runInstr 0x04 .never e.val (fun c h s => checked c (noK h && h.a == 0) (ret c h.d) s) s)

/-- LOOP (R371, R374). -/
def execLoop (e : Fin 8) (s : State) : Out :=
  .next (runInstr 0x05 .never e.val (fun c h s =>
    checked c (h.a == 0 && h.i)
      (fun s =>
        let r := getV s c h.d - 1
        let s1 := setFlags c (flagsOf r) (setV c h.d r s)
        if r = 0 then stepOver c h s1 else setPc c (branchTo h (s.ctx c).pc) s1) s) s)

/-- END (R374): the open ONCE step ends with the run. -/
def execEnd (e : Fin 8) (s : State) : Out :=
  .next (runInstr 0x06 .never e.val (fun c h s =>
    checked c (bare h) (fun s => endRun c ccOk (getV s c 0) (stepOver c h s)) s) s)

/-- FAIL (R374). -/
def execFail (e : Fin 8) (s : State) : Out :=
  .next (runInstr 0x07 .never e.val (fun c h s =>
    checked c (h.d == 0 && h.a == 0 && op2Ok h) (fun s => endRun c ccFail (op2s s c h) s) s) s)

/-- Ticks of `n` units of R376, rounded up to the first tick at or after the deadline. -/
def unitTicks (u n : Nat) : Nat :=
  match u with
  | 0 => (n * 49152 + 999) / 1000
  | 1 => n * 49152
  | _ => n * 49152000

/-- A timer has not expired: it is set and its deadline lies ahead. -/
def timerRuns (s : State) (c i : Nat) : Bool :=
  match (s.ctx c).td.getD i none with
  | some d => decide (now s < d)
  | none => false

/-- WAIT (R376). -/
def execWait (e : Fin 8) (s : State) : Out :=
  .next (runInstr 0x08 .never e.val (fun c h s =>
    checked c (h.d == 0 && op2Ok h && decide (h.a ≤ 6) && h.a != 3)
      (fun s =>
        let n := (op2z s c h).toNat
        let s1 := stepOver c h s
        if h.a < 3 then (if n = 0 then s1 else ctxWait c 1 (.time (now s + unitTicks h.a n)) s1)
        else if timerRuns s c (h.a - 4) then ctxWait c 1 (.timer (h.a - 4)) s1 else s1) s) s)

/-- ALIGN (R376): the next multiple strictly after now. -/
def execAlign (e : Fin 8) (s : State) : Out :=
  .next (runInstr 0x09 .never e.val (fun c h s =>
    checked c (h.d == 0 && op2Ok h && (h.a == 1 || h.a == 2) && op2z s c h != 0)
      (fun s =>
        let p := unitTicks h.a (op2z s c h).toNat
        ctxWait c 1 (.time ((now s / p + 1) * p)) (stepOver c h s)) s) s)

/-- Stores timer `i`'s deadline. -/
def setTimer (c i : Nat) (d : Option Nat) (s : State) : State :=
  s.modCtx c (fun x => { x with td := (List.range 3).map (fun j => if j = i then d else x.td.getD j none) })

/-- TSET (R376). -/
def execTset (e : Fin 8) (s : State) : Out :=
  .next (runInstr 0x0A .never e.val (fun c h s =>
    checked c (decide (h.d ≤ 2) && decide (h.a ≤ 2) && op2Ok h)
      (fun s =>
        let n := (op2z s c h).toNat
        stepOver c h (setTimer c h.d (if n = 0 then none else some (now s + unitTicks h.a n)) s)) s) s)

/-- TNOW (R376). -/
def execTnow (e : Fin 8) (s : State) : Out :=
  .next (runInstr 0x0B .never e.val (fun c h s =>
    checked c (noK h && decide (h.a ≤ 2) && (h.a != 2 || decide (h.d ≤ 14)))
      (fun s =>
        let lo := wd (now s)
        let hi := wd (now s / 2 ^ 32)
        stepOver c h
          (match h.a with
            | 0 => setV c h.d lo s
            | 1 => setV c h.d hi s
            | _ => setV c (h.d + 1) hi (setV c h.d lo s))) s) s)

/-- A data instruction writes `r` to V[D], sets flags and goes on (R371, R377). -/
def result (c : Nat) (h : HWord) (r : Word) (f : Flags) (s : State) : State := stepOver c h (setFlags c f (setV c h.d r s))

/-- A data instruction of two operands, with op2 as `b` reads it. -/
def alu (op : Nat) (e : Fin 8) (b : State → Nat → HWord → Word) (f : Word → Word → Word) (fl : Word → Word → Flags) (s : State) : State :=
  runInstr op .never e.val (fun c h s =>
    checked c (op2Ok h) (fun s => result c h (f (getV s c h.a) (b s c h)) (fl (getV s c h.a) (b s c h)) s) s) s

/-- MOVI (R377): op2, or E with K = 0. -/
def execMovi (e : Fin 8) (s : State) : Out :=
  .next (runInstr 0x18 .either e.val (fun c h s =>
    checked c (h.a == 0 && (if h.x then noK h else op2Ok h))
      (fun s =>
        let r := if h.x then h.e else op2s s c h
        result c h r (flagsOf r) s) s) s)

/-- MOV (R377). -/
def execMov (e : Fin 8) (s : State) : Out :=
  .next (runInstr 0x19 .never e.val (fun c h s =>
    checked c (h.a == 0 && op2Ok h) (fun s => result c h (op2z s c h) (flagsOf (op2z s c h)) s) s) s)

/-- ADD (R371, R377). -/
def execAdd (e : Fin 8) (s : State) : Out := .next (alu 0x1A e op2s (· + ·) addFlags s)

/-- SUB (R371, R377). -/
def execSub (e : Fin 8) (s : State) : Out := .next (alu 0x1B e op2s (· - ·) subFlags s)

/-- AND (R377). -/
def execAnd (e : Fin 8) (s : State) : Out := .next (alu 0x1C e op2z (· &&& ·) (fun a b => flagsOf (a &&& b)) s)

/-- OR (R377). -/
def execOr (e : Fin 8) (s : State) : Out := .next (alu 0x1D e op2z (· ||| ·) (fun a b => flagsOf (a ||| b)) s)

/-- XOR (R377). -/
def execXor (e : Fin 8) (s : State) : Out := .next (alu 0x1E e op2z (· ^^^ ·) (fun a b => flagsOf (a ^^^ b)) s)

/-- Shifts by op2 mod 32 (R377). -/
def shl (a b : Word) : Word := a <<< (b.toNat % 32)
def shr (a b : Word) : Word := a >>> (b.toNat % 32)
def sar (a b : Word) : Word := a.sshiftRight (b.toNat % 32)

/-- SHL (R377). -/
def execShl (e : Fin 8) (s : State) : Out := .next (alu 0x1F e op2z shl (fun a b => flagsOf (shl a b)) s)

/-- SHR (R377). -/
def execShr (e : Fin 8) (s : State) : Out := .next (alu 0x20 e op2z shr (fun a b => flagsOf (shr a b)) s)

/-- SAR (R377). -/
def execSar (e : Fin 8) (s : State) : Out := .next (alu 0x21 e op2z sar (fun a b => flagsOf (sar a b)) s)

/-- CMP (R371, R377). -/
def execCmp (e : Fin 8) (s : State) : Out :=
  .next (runInstr 0x22 .never e.val (fun c h s =>
    checked c (h.d == 0 && op2Ok h) (fun s => stepOver c h (setFlags c (subFlags (getV s c h.a) (op2s s c h)) s)) s) s)

/-- The number that bytes spell in the order of A[1] (R378). -/
def orderNat (be : Bool) (l : List Byte) : Nat := if be then beNat l else leNat l

/-- LDB (R378): bytes past the end of the source read as 0 and set F. -/
def execLdb (e : Fin 8) (s : State) : Out :=
  .next (runInstr 0x23 .never e.val (fun c h s =>
    checked c (op2Ok h)
      (fun s =>
        let n := h.a / 4 + 1
        let src := if h.a % 2 = 1 then varBytes s c else curBytes s c
        let o := (op2z s c h).toNat
        let l := (List.range n).map (fun i => src.getD (o + i) 0)
        let r := wd (orderNat (h.a / 2 % 2 == 1) l)
        result c h r (flagsOf r) (setF c (decide (src.length < o + n)) s)) s) s)

/-- STB (R378). Z and N tell of the word V[D] it stores from (assumption log 30). -/
def execStb (e : Fin 8) (s : State) : Out :=
  .next (runInstr 0x24 .never e.val (fun c h s =>
    checked c (op2Ok h && h.a % 2 == 0 && decide ((op2z s c h).toNat + (h.a / 4 + 1) ≤ 64))
      (fun s =>
        let n := h.a / 4 + 1
        let v := (getV s c h.d).toNat % 2 ^ (8 * n)
        let l := leBytes n v
        stepOver c h (setFlags c (flagsOf (getV s c h.d))
          (putVarBytes c (overlay (varBytes s c) (op2z s c h).toNat (if h.a / 2 % 2 = 1 then l.reverse else l)) s))) s) s)

/-- FIELD (R377). -/
def execField (e : Fin 8) (s : State) : Out :=
  .next (runInstr 0x25 .never e.val (fun c h s =>
    let lo := h.k % 32
    let n := h.k / 32 % 32 + 1
    checked c (h.i && h.k / 2 ^ 11 == 0 && decide (lo + n ≤ 32))
      (fun s =>
        let f := bits (getV s c h.a) (lo + n - 1) lo
        let r := if h.k / 2 ^ 10 = 1 then wd (toU 32 (sext n f)) else wd f
        result c h r (flagsOf r) s) s) s)

/-- A word whose opcode is not assigned (R373): nothing executes and the run ends PROG_ERR. -/
def execUnassignedOpcode (e : Fin 8) (s : State) : Out :=
  .next (match runningOn s e.val with
    | none => s
    | some c =>
      if ¬ sliceLeft s e.val false then s
      else withWords c (s.ctx c).pc 1 (fun l s =>
        if assignedOps.contains (opOf (l.getD 0 0)) then s
        else progErr c (s.ctx c).pc (countInstr e.val false s)) s)

end Sys2Proof.Machine
end

