-- ==== Sys2Proof/Machine/Serial.lean ====
section
/-! DEFINITION. The memory port S1 and the general port S2 (spec/13, R417 to R433). S0 is in `Host`, the log engine in `FlashLog`. -/

namespace Sys2Proof.Machine

/-- A flash device answers on select `cs` (R417, R419). -/
def selOk (s : State) (cs : Nat) : Bool :=
  decide (cs < 2) && s.is (.SP1_DISC_VALID cs) && (cs == 0 || s.is .SP1_CFG_CS1_EN)

/-- Bytes of the device on select `cs`; 0 when it is absent. -/
def density (s : State) (cs : Nat) : Nat := if selOk s cs then 2 ^ s.get (.SP1_DISC_SIZE cs) else 0

/-- A flash byte as a read of the window gives it (R421). -/
def winByte (s : State) (cs a : Nat) : Byte := if a < density s cs then flashByte s cs a else 0

/-- log2 of the size of erase type `t` + 1 (R419); 0: not reported. -/
def eraseLog (s : State) (cs t : Nat) : Nat := bits (rd s (Reg.SP1_ERASE cs)) (8 * t + 7) (8 * t)

/-- NOR programming clears bits (R422). -/
def flashAnd (cs a : Nat) (b : Byte) (s : State) : State :=
  { s with flash := kset 0xFF s.flash (flashIx cs a) (flashByte s cs a &&& b) }
def flashProg (cs : Nat) : Nat → List Byte → State → State
  | _, [], s => s
  | a, b :: l, s => flashProg cs (a + 1) l (flashAnd cs a b s)

/-- An erase sets every byte of a block to 0xFF. -/
def flashErase (cs a n : Nat) (s : State) : State :=
  { s with flash := s.flash.filter (fun p => p.1 < flashIx cs a || flashIx cs (a + n) ≤ p.1) }

/-- Free values as bytes, and the state with their uses counted. -/
def freeBytes (s : State) (n : Nat) : List Byte := (List.range n).map (fun i => BitVec.ofNat 8 (Config.freeWord (s.free + i)).toNat)
def useFrees (n : Nat) (s : State) : State := { s with free := s.free + n }

/-- A program that fails leaves its bytes open: each keeps some of its bits (assumption log 31). -/
def flashTorn (cs a n : Nat) (s : State) : State := flashProg cs a (freeBytes s n) (useFrees n s)

/-- An erase that fails leaves every byte of its block open (assumption log 31). -/
def flashRuined (cs a n : Nat) (s : State) : State := flashProg cs a (freeBytes s n) (useFrees n (flashErase cs a n s))

/-- A job's whole effect, and what it leaves when it fails. -/
def jobDone (cs : Nat) (j : FlashJob) (s : State) : State :=
  match j with
  | .prog a l => flashProg cs a l s
  | .erase a n => flashErase cs a (2 ^ n) s
  | .raw => s
def jobFailed (cs : Nat) (j : FlashJob) (s : State) : State :=
  match j with
  | .prog a l => flashTorn cs a l.length s
  | .erase a n => flashRuined cs a (2 ^ n) s
  | .raw => s

/-- Which user runs on select `cs` (R425). -/
def s1Run (s : State) (cs : Nat) : Nat := kget 0 s.sp1.run cs
def setS1Run (cs u : Nat) (s : State) : State := s.modSp1 (fun x => { x with run := kset 0 x.run cs u })

/-- A job on S1 that runs or waits for region `r` of the log on select `cs`. -/
def logWants (s : State) (cs r : Nat) : Bool := (s.logr r).job.isSome && (s.logr r).cs == cs

/-- A free select goes to the next user in the order of R425: log engine, window write, `SP1_CMD`. -/
def s1Grant (cs : Nat) (s : State) : State :=
  if s1Run s cs ≠ 0 then s
  else match (List.range 8).find? (logWants s cs) with
    | some r => setS1Run cs (1 + r) s
    | none =>
      if s.sp1.win = some cs ∧ s.sp1.pieces ≠ [] then setS1Run cs 9 s
      else if s.sp1.cmd.map (·.1) = some cs then setS1Run cs 10 s else s

/-- `SP1_STAT.STATE`, WBUSY and CFG_ADJ (R418, R439). -/
def sp1Show (s : State) : State :=
  let st := match s.sp1.cmd with
    | some (_, .raw) => 4
    | some _ => 3
    | none => if s.sp1.win.isSome then 2 else if (s.s0.buf.map (·.words)) = some none then 1 else 0
  let dtr := decide (s.get .SP1_CFG_DIV < 4) && ((List.range 2).any (fun c => selOk s c && decide (8 ≤ s.get (.SP1_DISC_PATTERN c)))
    || decide (8 ≤ s.get .SP1_FRAME_PATTERN))
  ((s.put .SP1_STAT_STATE st).putB .SP1_STAT_WBUSY s.sp1.win.isSome).putB .SP1_STAT_CFG_ADJ
    (s.sp1.adj || dtr || s.get .SP1_FRAME_ABYTES == 3)

/-- Free selects go to the users that wait, and the status shows it. -/
def s1Go (s : State) : State := sp1Show (s1Grant 1 (s1Grant 0 s))

/-- The user on select `cs` has finished. -/
def s1Free (cs : Nat) (s : State) : State := s1Go (setS1Run cs 0 (unquiet s))

/-- Two stretches of bytes meet. -/
def meets (a n b m : Nat) : Bool := decide (a < b + m) && decide (b < a + n) && n != 0 && m != 0

/-- The region of log `r` on select `cs` is enabled, not in error and meets the bytes (R423). -/
def logMeets (s : State) (cs a n r : Nat) : Bool :=
  s.get (.LOG_BASE_CS r) == cs && s.get (.LOG_STAT_STATE r) != 4
    && meets a n (s.get (.LOG_BASE_ADDR r)) (s.get (.LOG_SIZE_SECTORS r) * 2 ^ s.get (.LOG_SIZE_SLOG2 r))

/-- R423: why a program or erase of `n` bytes at `a` is refused; 0 when it is not. `et`: the erase type of an erase. The first reason in the
table's order stands. -/
def flashRefusal (s : State) (r : Req) (cs a n : Nat) (et : Option Nat) : Nat :=
  let running := s.get .BT_STAT_STATE == 1
  let slot := fun k => cs == 0 && meets a n (k * 2 ^ 24) (2 ^ 24)
  let ident := cs == 0 && meets a n (2 ^ 25) (2 ^ 17)
  let me := s.get .BT_STAT_SLOT
  if running && slot me then 1
  else if running && (slot (1 - me) || ident) && !permitHeld s actNvm then 2
  else if density s cs < a + n then 3
  else if (match et with
    | some t => eraseLog s cs t == 0 || a % 2 ^ eraseLog s cs t != 0
    | none => false) then 4
  else if r = .s0 && (List.range 8).any (logMeets s cs a n) then 5
  else 0

/-- R422: the bytes of one run, split at page boundaries; `k` bounds the number of pieces. -/
def pages (pg : Nat) : Nat → Nat → List Byte → List (Nat × List Byte)
  | 0, _, _ => []
  | _, _, [] => []
  | k + 1, a, l =>
    let n := pg - a % pg
    (a, l.take n) :: pages pg k (a + n) (l.drop n)

/-- The flash byte that window address `x` names (R421). -/
def winAddr (s : State) (x : Nat) : Nat := s.get .SP1_WBASE_BASE * 65536 + x

/-- The stretches of bytes that a WRITE frame to the window writes. With INC = 0 every word goes to the one address. -/
def winRuns (a : Nat) (inc : Bool) (data : List Word) : List (Nat × List Byte) :=
  if inc then [(a, wordsBytes data)] else data.map (fun w => (a, leBytes 4 w.toNat))

/-- A complete WRITE frame to the window (R422, R423): the RESULT of R410 and the state. -/
def winWrite (x : Nat) (inc : Bool) (data : List Word) (s : State) : Nat × State :=
  let s0 := s.modS0 (fun h => { h with buf := none })
  let cs := s.get .SP1_WBASE_CS
  let a := winAddr s x
  let erasing := match s1Run s cs with
    | 0 => false
    | 9 => false
    | 10 => (match s.sp1.cmd with
      | some (_, .erase _ _) => true
      | _ => false)
    | u => (match (s.logr (u - 1)).job with
      | some (.erase _ _) => true
      | _ => false)
  if s.sp1.win.isSome || erasing then (4, sp1Show s0)
  else
    let n := if inc then 4 * data.length else 4
    let bad := flashRefusal s .s0 cs a n none
    if bad ≠ 0 then (5, sp1Show ((s0.put .SP1_STAT_ERR 0).put .SP1_STAT_REFUSE bad))
    else
      let pg := 2 ^ s.get (.SP1_DISC_PAGE cs)
      let ps := (winRuns a inc data).flatMap (fun p => pages pg (p.2.length + 1) p.1 p.2)
      (0, s1Go (((s0.put .SP1_STAT_ERR 0).put .SP1_STAT_REFUSE 0).modSp1 (fun p => { p with win := some cs, pieces := ps, winErr := 0 })))

/-- FLASH_PAGE_PROGRAM (R422): the running piece of a window write ends: 0 done, 1 the device reports a failure, 2 it is
still busy after its maximum time. An error stops the write. -/
def pageProgram (o : Nat) (s : State) : State :=
  match s.sp1.win, s.sp1.pieces with
  | some cs, (a, l) :: r =>
    if s1Run s cs ≠ 9 then s
    else if o = 0 then s1Free cs ((flashProg cs a l s).modSp1 (fun p => { p with pieces := r }))
    else s1Free cs ((flashTorn cs a l.length s).modSp1 (fun p => { p with pieces := [], winErr := if o = 1 then 1 else 3 }))
  | _, _ => s
def execFlashPageProgram (o : Fin 3) (s : State) : Out := .next (pageProgram o.val s)

/-- FLASH_WRITE_DONE (R422): WBUSY falls and DONE is set, with ERR. -/
def writeDone (s : State) : State :=
  if s.sp1.win.isSome ∧ s.sp1.pieces = [] then
    s1Go (((s.put .SP1_STAT_ERR s.sp1.winErr).set1 .SP1_STAT_DONE).modSp1 (fun p => { p with win := none, winErr := 0 }))
  else s
def execFlashWriteDone (s : State) : Out := .next (writeDone s)

/-- FLASH_WINDOW_READ_DONE (R414, R421, R425): the window buffer is filled. It waits while its select runs a program or an erase. -/
def windowRead (s : State) : State :=
  match s.s0.buf with
  | some b =>
    if b.words.isSome ∨ s1Run s b.cs ≠ 0 then s
    else
      let a := b.base * 65536 + b.addr
      let ws := (List.range (b.cnt + 1)).map (fun i =>
        let o := if b.inc then a + 4 * i else a
        wd (leNat [winByte s b.cs o, winByte s b.cs (o + 1), winByte s b.cs (o + 2), winByte s b.cs (o + 3)]))
      sp1Show (s.modS0 (fun h => { h with buf := some { b with words := some ws } }))
  | none => s
def execFlashWindowReadDone (s : State) : Out := .next (windowRead s)

/-- A write of `SP1_CMD` (R424, R439). -/
def sp1CmdWrite (r : Req) (w : Word) (s : State) : State :=
  let op := bits w 31 28
  if op = 0 then s
  else if s.get .SP1_STAT_STATE ≠ 0 ∨ 2 < op then s.set1 .SP1_STAT_IGNORED
  else
    let cs := bits w 4 4
    let a := s.get .SP1_ADDR_ADDR
    let n := eraseLog s cs (bits w 9 8)
    let bad := if op = 1 then flashRefusal s r cs a (if n = 0 then 1 else 2 ^ n) (some (bits w 9 8))
      else if s.get .BT_STAT_STATE = 2 ∨ s.is .SP1_CFG_RAW_EN then 0 else 6
    let s1 := (s.put .SP1_STAT_ERR 0).put .SP1_STAT_REFUSE bad
    if bad ≠ 0 then s1
    else s1Go (s1.modSp1 (fun p => { p with cmd := some (cs, if op = 1 then .erase a n else .raw) }))

/-- SP1_ERASE (R424). -/
def execSp1Erase (r : Req) (etype : Fin 4) (cs : Fin 2) (s : State) : Out :=
  .next (regWrite r Reg.SP1_CMD Msk.SP1_CMD (wd (mk [(1, 28), (etype.val, 8), (cs.val, 4)])) (sp1CmdWrite r) s)

/-- SP1_RAW (R424). -/
def execSp1Raw (r : Req) (cs : Fin 2) (s : State) : Out :=
  .next (regWrite r Reg.SP1_CMD Msk.SP1_CMD (wd (mk [(2, 28), (cs.val, 4)])) (sp1CmdWrite r) s)

/-- Stores bytes in a run of registers, four to a register, from byte 0. -/
def putBuf (base : Nat) (l : List Byte) (s : State) : State :=
  s.each (List.range ((l.length + 3) / 4)) (fun i s =>
    wr (base + 4 * i) (wd (leNat (overlay (leBytes 4 (rd s (base + 4 * i)).toNat) 0 ((l.drop (4 * i)).take 4)))) s)

/-- The changes that a RAW frame makes in the device, as the device's answer to the frame (R424): bytes by address. -/
def rawChanges (cs : Nat) (l : List (Nat × Byte)) (s : State) : State :=
  s.each l (fun p s => { s with flash := kset 0xFF s.flash (flashIx cs (p.1 % 2 ^ 29)) p.2 })

/-- SP1_OP_DONE (R424): the running ERASE or RAW ends with `err` (0 none, 2 ERASE_FAIL, 3 TIMEOUT). A RAW that reads puts the bytes of
`rx` into `SP1_BUF`; `chg` is what the device made of the frame. A RAW on S1_CS0_N empties the hoist cache. -/
def opDone (err : Nat) (rx : List Byte) (chg : List (Nat × Byte)) (s : State) : State :=
  match s.sp1.cmd with
  | some (cs, j) =>
    if s1Run s cs ≠ 10 then s
    else
      let s1 := match j with
        | .raw =>
          let s2 := rawChanges cs chg s
          let s3 := if s.is .SP1_FRAME_WRITE then s2 else putBuf (Reg.SP1_BUF 0) (rx.take (min (s.get .SP1_FRAME_LEN) 256)) s2
          if cs = 0 then { s3 with hcache := [] } else s3
        | j => if err = 0 then jobDone cs j s else jobFailed cs j s
      let e := if j = .raw then 0 else if err = 0 then 0 else if err = 1 then 2 else 3
      s1Free cs (((s1.put .SP1_STAT_ERR e).set1 .SP1_STAT_DONE).modSp1 (fun p => { p with cmd := none }))
  | none => s
def execSp1OpDone (err : Fin 3) (rx : List Byte) (chg : List (Nat × Byte)) (s : State) : Out := .next (opDone err.val rx chg s)

/-- A write of `SP1_CFG` (R439): DIV 0 to 2 is stored as 3. -/
def sp1CfgWrite (w : Word) (s : State) : State :=
  let s1 := store Reg.SP1_CFG Msk.SP1_CFG w s
  let low := decide (bits w 23 16 < 3)
  s1Go ((s1.put .SP1_CFG_DIV (if low then 3 else bits w 23 16)).modSp1 (fun p => { p with adj := low }))

/-- A write of `SP1_WBASE`, `SP1_FRAME` (R421, R439): stored; CFG_ADJ follows. -/
def sp1FrameWrite (w : Word) (s : State) : State := sp1Show (store Reg.SP1_FRAME Msk.SP1_FRAME w s)

/-- Bits of a word (R428). -/
def s2Bits (s : State) : Nat := s.get .SP2_CFG_WLEN + 1

/-- The slave target of a queue or a context is usable (R440). -/
def slvQ (s : State) : Bool := s.is .SP2_SLV_Q_EN && qVar s (s.get .SP2_SLV_Q)
def slvC (s : State) : Bool := s.is .SP2_SLV_CTX_EN && decide (s.get .SP2_SLV_CTX < 160)

/-- `SP2_STAT.CFG_ADJ`, BUSY and CTX_HOLDS (R428, R429, R440). -/
def sp2Show (s : State) : State :=
  let f := rd s Reg.SP2_FRAME
  let adj := s.sp2.adj != 0 || (s.is .SP2_CFG_FRAME && (s.get .SP2_CFG_ROLE == 2 || bits f 31 28 != 0 || bits f 25 24 == 3))
    || (s.is .SP2_SLV_Q_EN && !slvQ s) || (s.is .SP2_SLV_CTX_EN && !slvC s)
  let h := s.sp2.xfer.map (·.ctx)
  ((s.putB .SP2_STAT_CFG_ADJ adj).putB .SP2_STAT_BUSY (h == some none)).putB .SP2_STAT_CTX_HOLDS ((h.getD none).isSome)

/-- A write of `SP2_CFG` (R428, R440): ROLE 3 is OFF, DIV below 4 is 4, WLEN below 3 keeps the field. ROLE takes effect under R427. -/
def sp2CfgWrite (w : Word) (s : State) : State :=
  let wl := bits w 20 16
  let s1 := store Reg.SP2_CFG Msk.SP2_CFG w s
  let s2 := (s1.put .SP2_CFG_ROLE (if bits w 31 30 = 3 then 0 else bits w 31 30)).put .SP2_CFG_DIV (max 4 (bits w 15 8))
  let s3 := if wl < 3 then (s2.put .SP2_CFG_WLEN (s.get .SP2_CFG_WLEN)).set1 .SP2_STAT_REFUSED else s2
  sp2Show (s3.modSp2 (fun p => { p with adj := b2n (bits w 31 30 == 3) + 2 * b2n (decide (bits w 15 8 < 4)) }))

/-- A write of `SP2_SLV` or `SP2_FRAME`. -/
def sp2SlvWrite (w : Word) (s : State) : State := sp2Show (store Reg.SP2_SLV Msk.SP2_SLV w s)
def sp2FrameWrite (w : Word) (s : State) : State := sp2Show (store Reg.SP2_FRAME Msk.SP2_FRAME w s)

/-- S2_ROLE_CHANGE (R427): the role of `SP2_CFG` takes effect once nothing is transferred. -/
def roleChange (s : State) : State :=
  if s.sp2.xfer.isNone ∧ s.sp2.slave.isNone then s.modSp2 (fun p => { p with role := s.get .SP2_CFG_ROLE }) else s
def execS2RoleChange (s : State) : Out := .next (roleChange s)

/-- A master transfer starts; `ws` are the words or bytes sent. -/
def s2Start (x : S2Xfer) (ws : List Word) (s : State) : State :=
  sp2Show (s.modSp2 (fun p => { p with xfer := some x, sent := ws }))

/-- Byte `i` of the host's transmit buffer. -/
def s2TxByte (s : State) (i : Nat) : Byte := (leBytes 4 (rd s (Reg.SP2_TX (i / 4))).toNat).getD (i % 4) 0

/-- A write of `SP2_CMD` with GO (R430, R431). A frame that reads sends no data (R429, assumption log 90). -/
def sp2CmdWrite (w : Word) (s : State) : State :=
  if ¬ bitAt w 31 then s
  else if s.sp2.role ≠ 1 ∨ s.is .SP2_STAT_MODF then s.put .SP2_STAT_RESULT 3
  else if s.sp2.xfer.isSome then s.put .SP2_STAT_RESULT 1
  else
    let fr := s.is .SP2_CFG_FRAME
    let n := if fr then bits w 7 0 + 1 else bits w 5 0 + 1
    let ws := if fr ∧ ¬ s.is .SP2_FRAME_WRITE then [] else (List.range n).map (fun i =>
      if fr then wd (s2TxByte s i).toNat else wd ((rd s (Reg.SP2_TX i)).toNat % 2 ^ s2Bits s))
    s2Start { ss := bits w 25 24, n := n, frame := fr, start := now s } ws s

/-- S2_GO (R430). -/
def execS2Go (r : Req) (ss : Fin 4) (cnt : Fin 256) (s : State) : Out :=
  .next (regWrite r Reg.SP2_CMD Msk.SP2_CMD (wd (mk [(1, 31), (ss.val, 24), (cnt.val, 0)])) sp2CmdWrite s)

/-- Bytes of one word of S2 (R383, R432). -/
def wordBytes (s : State) : Nat := (s2Bits s + 7) / 8

/-- A context's send on S2 is refused (R383, R431). -/
def s2Refuses (s : State) (n : Nat) : Bool :=
  s.sp2.role != 1 || s.is .SP2_STAT_MODF || n == 0 || decide (64 < n)
    || (!s.is .SP2_CFG_FRAME && (s2Bits s % 8 != 0 || n % wordBytes s != 0))

/-- Bytes as words of `k` bytes, the first byte most significant. -/
def beWords (k : Nat) : Nat → List Byte → List Word
  | 0, _ => []
  | _, [] => []
  | f + 1, l => wd (beNat (l.take k)) :: beWords k f (l.drop k)

/-- A context's transfer starts (R383). -/
def s2Send (c : Nat) (l : List Byte) (s : State) : State :=
  let fr := s.is .SP2_CFG_FRAME
  let k := if fr then 1 else wordBytes s
  s2Start { ctx := some c, ss := s.get (.CTX_PARTNER_SS c), n := l.length / k, frame := fr, start := now s }
    (beWords k l.length l) s

/-- A frame that S2 delivers to an inbox (R383): its first 64 bytes (R432). -/
def s2Frame (l : List Byte) (stamp : Nat) : RxEnt :=
  { frame := { data := l.take 64, ts := stamp }, len := min 64 l.length, trunc := decide (64 < l.length) }

/-- Received words as bytes, the first byte of each most significant. -/
def rxBytesOf (k : Nat) (l : List Word) : List Byte := l.flatMap (fun w => (leBytes k w.toNat).reverse)

/-- S2_TRANSFER_END (R383, R430): the words (in frame mode, bytes) that were received. A host's frame that writes receives none (R429). -/
def transferEnd (rx : List Word) (s : State) : State :=
  match s.sp2.xfer with
  | none => s
  | some x =>
    let l := (List.range x.n).map (fun i => rx.getD i 0)
    let s1 := s.modSp2 (fun p => { p with xfer := none })
    match x.ctx with
    | none =>
      let s2 := if x.frame ∧ s.is .SP2_FRAME_WRITE then s1
        else if x.frame then putBuf (Reg.SP2_RX 0) (l.map (fun w => BitVec.ofNat 8 w.toNat)) s1
        else s1.each (List.range x.n) (fun i s => wr (Reg.SP2_RX i) (wd ((l.getD i 0).toNat % 2 ^ s2Bits s)) s)
      sp2Show (s2.put .SP2_STAT_RESULT 0)
    | some c =>
      let s2 := sp2Show s1
      let s3 := if (s.ctx c).wait = .s2 then ctxResume c (s.ctx c).pc s2 else s2
      ctxFrame c (s2Frame (rxBytesOf (if x.frame then 1 else wordBytes s) l) x.start) s3
def execS2TransferEnd (rx : List Word) (s : State) : Out := .next (transferEnd rx s)

/-- S2_MODF (R431): select 0 is pulled low in multi-master mode. -/
def modf (s : State) : State :=
  if s.sp2.role ≠ 1 ∨ ¬ s.is .SP2_CFG_MM_EN then s
  else
    let s1 := s.set1 .SP2_STAT_MODF
    match s.sp2.xfer with
    | none => s1
    | some x =>
      let s2 := s1.modSp2 (fun p => { p with xfer := none })
      match x.ctx with
      | none => sp2Show (s2.put .SP2_STAT_RESULT 2)
      | some c =>
        let s3 := (sp2Show s2).modCtx c (fun y => { y with evOff := true, offAt := if y.evOff then y.offAt else clk s })
        if (s.ctx c).wait = .s2 then ctxResume c (s.ctx c).pc s3 else s3
def execS2Modf (s : State) : Out := .next (modf s)

/-- A write of `SP2_SLV_CMD` (R432): posts words of `SP2_SLV_TX`. -/
def slvCmdWrite (w : Word) (s : State) : State :=
  if bitAt w 31 then
    s.modSp2 (fun p => { p with post := some ((List.range (bits w 4 0 + 1)).map (fun i => wd ((rd s (Reg.SP2_SLV_TX i)).toNat % 2 ^ s2Bits s))) })
  else s

/-- S2_SLAVE_POST (R432). -/
def execS2SlavePost (r : Req) (cnt : Fin 32) (s : State) : Out :=
  .next (regWrite r Reg.SP2_SLV_CMD Msk.SP2_SLV_CMD (wd (mk [(1, 31), (cnt.val, 0)])) slvCmdWrite s)

/-- S2_SLAVE_FRAME_START (R432): the stamp is taken, and the posted reply or the last word again is chosen. -/
def slaveStart (s : State) : State :=
  if s.sp2.role ≠ 2 ∨ s.sp2.slave.isSome then s
  else match s.sp2.post with
    | some l => s.modSp2 (fun p => { p with post := none, slave := some ⟨now s, l, false⟩ })
    | none => (s.set1 .SP2_STAT_UNDERRUN).modSp2 (fun p => { p with slave := some ⟨now s, [], true⟩ })
def execS2SlaveFrameStart (s : State) : Out := .next (slaveStart s)

/-- The word that slot `i` of a slave frame carries (R432). -/
def slaveSlot (s : State) (f : S2Slave) (i : Nat) : Word := if f.under then s.sp2.last else f.reply.getD i 0

/-- S2_SLAVE_FRAME_END (R432, R433): the whole words received; `frag`: select rose inside a word. -/
def slaveEnd (rx : List Word) (frag : Bool) (s : State) : State :=
  match s.sp2.slave with
  | none => s
  | some f =>
    let n := rx.length
    let l := rxBytesOf (wordBytes s) (rx.map (fun w => wd (w.toNat % 2 ^ s2Bits s)))
    let trunc := decide (n < f.reply.length)
    let s1 := (if frag then s.set1 .SP2_STAT_FRAG else s).modSp2 (fun p => { p with
      slave := none, last := if n = 0 then s.sp2.last else slaveSlot s f (n - 1), sent := (List.range n).map (slaveSlot s f) })
    if slvQ s then
      let low := mk [(4, 8), (b2n frag, 7), (b2n f.under, 6), (b2n trunc, 5)]
      qPushVar (s.get .SP2_SLV_Q) .active (varEntry l.length low (wd f.stamp) (packWords l)) s1
    else if slvC s then ctxFrame (s.get .SP2_SLV_CTX) (s2Frame l f.stamp) s1
    else s1
def execS2SlaveFrameEnd (rx : List Word) (frag : Bool) (s : State) : Out := .next (slaveEnd rx frag s)

end Sys2Proof.Machine
end

