-- ==== Sys2Proof/Machine/FlashLog.lean ====
section
/-! DEFINITION. Queue settings and pops as commands (R233, R244 to R246), and the flash log (R254 to R259). -/

namespace Sys2Proof.Machine

/-- Q_CFG_WRITE (R233, R234). -/
def execQCfgWrite (r : Req) (q : Fin 128) (w : Word) (s : State) : Out :=
  .next (regWrite r (Reg.Q_CFG q) Msk.Q_CFG w (fun w s => qCfgApply q (storedWord Msk.Q_CFG (rd s (Reg.Q_CFG q)) w) s) s)

/-- Q_POP_LO (R244). -/
def execQPopLo (r : Req) (q : Fin 128) (s : State) : Out :=
  .next (if readServed s r then { noteRead r (Reg.Q_POP_LO q) (popLo (reqIx r) q s) with rdata := popLoVal (reqIx r) q s } else s)

/-- Q_POP_HI (R245). -/
def execQPopHi (r : Req) (q : Fin 128) (s : State) : Out :=
  .next (if readServed s r then { noteRead r (Reg.Q_POP_HI q) (popHi (reqIx r) q s) with rdata := popHiVal (reqIx r) q s } else s)

/-- Q_POP_STREAM (R246). -/
def execQPopStream (r : Req) (q : Fin 128) (s : State) : Out :=
  .next (if readServed s r then { noteRead r (Reg.Q_POP_STREAM q) (popStream (reqIx r) q s) with rdata := popStreamVal (reqIx r) q s } else s)

/-- Bytes of a sector of region `r`, its sectors, and the address of sector `i`. -/
def sectBytes (s : State) (r : Nat) : Nat := 2 ^ s.get (.LOG_SIZE_SLOG2 r)
def sectCount (s : State) (r : Nat) : Nat := s.get (.LOG_SIZE_SECTORS r)
def sectAddr (s : State) (r i : Nat) : Nat := s.get (.LOG_BASE_ADDR r) + i * sectBytes s r

/-- R254: why a region is in error: 1 geometry, 2 overlap with the ranges of R33; 0: it is not. -/
def logError (s : State) (r : Nat) : Nat :=
  let cs := s.get (.LOG_BASE_CS r)
  let n := s.get (.LOG_SIZE_SLOG2 r)
  if sectCount s r = 1 ∨ n < 12 ∨ ¬ (List.range 4).any (fun t => eraseLog s cs t == n) ∨ s.get (.LOG_BASE_ADDR r) % 2 ^ n ≠ 0 then 1
  else if cs = 0 ∧ s.get (.LOG_BASE_ADDR r) < 0x2020000 ∧ sectCount s r ≠ 0 then 2
  else 0

/-- A number of `k` bytes read from flash at `a` of region `r`'s select. -/
def logNum (s : State) (r a k : Nat) : Nat := leNat (flashBytes s (s.get (.LOG_BASE_CS r)) a k)

/-- The header of sector `i` verifies (R255, R259): magic, format, CRC. -/
def headerOk (s : State) (r i : Nat) : Bool :=
  let a := sectAddr s r i
  logNum s r a 4 == 0x474F4C4E && logNum s r (a + 4) 2 == 1
    && logNum s r (a + 0x1C) 4 == crc32 (flashBytes s (s.get (.LOG_BASE_CS r)) a 0x1C)

/-- The sector whose header verifies and carries the highest SECT_SEQ, with that number (R259). -/
def newestSector (s : State) (r : Nat) : Option (Nat × Nat) :=
  (List.range (sectCount s r)).foldl (fun b i =>
    if headerOk s r i then
      let q := logNum s r (sectAddr s r i + 8) 4
      match b with
      | some (_, x) => if x < q then some (i, q) else b
      | none => some (i, q)
    else b) none

/-- Walks the records of the sector at `a` (R256, R259): the offset of the first erased record, or of a torn one. `k` bounds the number of
records. -/
def walk (s : State) (r a : Nat) : Nat → Nat → Nat × Bool
  | 0, off => (off, false)
  | k + 1, off =>
    if sectBytes s r < off + 8 then (off, false)
    else
      let len := logNum s r (a + off) 3
      if len = 0xFFFFFF then (off, false)
      else if sectBytes s r < off + 8 + len ∨ 0x82 < logNum s r (a + off + 3) 1 then (off, true)
      else
        let b := flashBytes s (s.get (.LOG_BASE_CS r))
        if crc32 (b (a + off) 4 ++ b (a + off + 8) len) ≠ logNum s r (a + off + 4) 4 then (off, true)
        else walk s r a k (off + 8 + (len + 7) / 8 * 8)

/-- Bytes of a record with body `l` (R256). -/
def recBytes (tag : Nat) (l : List Byte) : List Byte :=
  let h := leBytes 3 l.length ++ leBytes 1 tag
  h ++ leBytes 4 (crc32 (h ++ l)) ++ l ++ List.replicate ((l.length + 7) / 8 * 8 - l.length) 0

/-- `LOG_STAT`, `LOG_SEQ` and `LOG_WPTR` follow the engine (R254). -/
def logShow (r st : Nat) (s : State) : State :=
  let w := sectAddr s r (s.get (.LOG_STAT_SECTOR r)) + (s.logr r).off
  wr (Reg.LOG_WPTR r) (wd w) (s.put (.LOG_STAT_STATE r) st)

/-- The bytes left in the sector being written. -/
def logLeft (s : State) (r : Nat) : Nat := sectBytes s r - (s.logr r).off

/-- The engine starts a record: a program of its bytes at the next record's place (R256, R259). -/
def logStart (r tag : Nat) (body : List Byte) (s : State) : State :=
  let x := s.logr r
  let l := recBytes tag body
  let a := sectAddr s r (s.get (.LOG_STAT_SECTOR r)) + x.off
  s1Go (logShow r 2 (s.setLogr r { x with phase := 3, job := some (.prog a l), cs := s.get (.LOG_BASE_CS r), off := x.off + l.length }))

/-- Opening the next sector (R259): its erase starts. -/
def logOpen (r : Nat) (s : State) : State :=
  let x := s.logr r
  let i := if x.fresh then 0 else (s.get (.LOG_STAT_SECTOR r) + 1) % max 1 (sectCount s r)
  let s1 := s.put (.LOG_STAT_SECTOR r) i
  s1Go (logShow r 3 (s1.setLogr r { x with phase := 4, job := some (.erase (sectAddr s r i) (s.get (.LOG_SIZE_SLOG2 r))), cs := s.get (.LOG_BASE_CS r), off := 0 }))

/-- The RESUME record is due (R257): it is written when the sector has room, else the next sector is opened first. -/
def logResume (r : Nat) (s : State) : State :=
  let x := s.logr r
  if ¬ x.resume then s
  else if x.must ∨ logLeft s r < 16 then logOpen r s
  else logStart r 0x81 (leBytes 8 (now s)) (s.setLogr r { x with resume := false })

/-- The log runs: the image has taken effect, a domain is active and the module does not sleep (R47, R259, R532). -/
def logRuns (s : State) : Bool := s.get .BT_STAT_STATE == 1 && s.sv.anyActive && s.pw.power != 4

/-- LOG_SCAN (R254, R259): the region is checked and scanned, and a RESUME record begins. -/
def logScan (r : Nat) (s : State) : State :=
  let x := s.logr r
  if ¬ logRuns s ∨ x.phase ≠ 1 then s
  else if sectCount s r = 0 then logShow r 0 (s.setLogr r {})
  else if logError s r ≠ 0 then logShow r 4 ((s.put (.LOG_STAT_ERR r) (logError s r)).setLogr r {})
  else
    let s0 := s.put (.LOG_STAT_ERR r) 0
    match newestSector s r with
    | none => logResume r (logShow r 2 ((wr (Reg.LOG_SEQ r) 0 s0).setLogr r { phase := 2, must := true, fresh := true, resume := true }))
    | some (i, q) =>
      let w := walk s r (sectAddr s r i) (sectBytes s r / 8) 0x20
      let s1 := (wr (Reg.LOG_SEQ r) (wd q) s0).put (.LOG_STAT_SECTOR r) i
      let s2 := if w.2 then s1.inc (.LOG_CNT_TORN r) else s1
      logResume r (logShow r 2 (s2.setLogr r { phase := 2, off := w.1, must := w.2, resume := true }))
def execLogScan (r : Fin 8) (s : State) : Out := .next (logScan r s)

/-- The region that queue `q` logs to (R254). -/
def logRegion (s : State) (q : Nat) : Nat := kget 0 s.logMap q

/-- Sectors that an entry of `n` bytes needs when written in parts from here (R258). -/
def partSectors (s : State) (r n : Nat) : Nat :=
  let cap := sectBytes s r - 48
  let first := if (s.logr r).must ∨ logLeft s r < 64 then 0 else logLeft s r - 16
  (if first = 0 then 0 else 1) + (n - first + cap - 1) / max 1 cap

/-- What the engine writes next for queue `q` of region `r`: a record's tag and body, or `none` when it has nothing that fits in the
sector. The second value: the next sector has to be opened for it. -/
inductive LogNext where
  | nothing
  | openSector
  | skipEntry
  | write (tag : Nat) (body : List Byte) (takes : Bool) (missed : Bool) (part : Option (Nat × Nat × List Byte))
  deriving DecidableEq, Repr

/-- A PART record (R258). -/
def partRec (s : State) (r q total : Nat) (rest : List Byte) (first : Bool) : LogNext :=
  let n := min rest.length (logLeft s r - 16)
  let last := decide (rest.length ≤ n)
  .write 0x82 (leBytes 1 q ++ leBytes 3 (b2n first + 2 * b2n last) ++ leBytes 4 total ++ rest.take n) first false
    (if last then none else some (q, total, rest.drop n))

/-- The next piece of log work (R257, R258). Between the parts of an entry nothing else is written. -/
def logNext (s : State) (r q : Nat) : LogNext :=
  let x := s.logr r
  match x.part with
  | some (p, total, rest) =>
    if p ≠ q then .nothing else if x.must ∨ 0x20 < x.off then .openSector else partRec s r p total rest false
  | none =>
    if ¬ s.is (.Q_CFG_LOG q) ∨ logRegion s q ≠ r ∨ ¬ qOn s q then .nothing
    else if (s.queue q).missed ≠ 0 then
      if x.must ∨ logLeft s r < 16 then .openSector
      else .write 0x80 (leBytes 4 q ++ leBytes 4 (s.queue q).missed) false true none
    else match logHead (s.queue q).ents with
      | none => .nothing
      | some e =>
        let l := wordsBytes (entWords s q e)
        let need := 8 + (l.length + 7) / 8 * 8
        if need ≤ sectBytes s r - 32 then
          if x.must ∨ logLeft s r < need then .openSector else .write q l true false none
        else if sectCount s r - 1 < partSectors s r l.length then .skipEntry
        else if x.must ∨ logLeft s r < 64 then .openSector
        else partRec s r q l.length l true

/-- The log takes the head entry of queue `q` (R250). -/
def logTake (q : Nat) (s : State) : State := qStore q (markLogged (s.queue q).ents) s

/-- LOG_RECORD_WRITE (R256 to R258): the next record for queue `q` is programmed. An entry that can not be held is counted for a SKIP
record. -/
def logRecordWrite (r q : Nat) (s : State) : State :=
  let x := s.logr r
  if ¬ logRuns s ∨ x.phase ≠ 2 ∨ x.resume then s
  else match logNext s r q with
    | .write tag body takes missed part =>
      let s1 := if takes then logTake q s else s
      let s2 := if missed then s1.setQueue q { s1.queue q with missed := 0 } else s1
      logStart r tag body (s2.setLogr r { x with part := part })
    | .skipEntry => (logTake q s).setQueue q { (logTake q s).queue q with missed := (s.queue q).missed + 1 }
    | _ => s
def execLogRecordWrite (r : Fin 8) (q : Fin 128) (s : State) : Out := .next (logRecordWrite r q s)

/-- LOG_SECTOR_OPEN (R259): the work that is due needs the next sector. -/
def sectorOpen (r q : Nat) (s : State) : State :=
  let x := s.logr r
  if ¬ logRuns s ∨ x.phase ≠ 2 then s
  else if x.resume then logResume r s
  else if logNext s r q = .openSector then logOpen r s else s
def execLogSectorOpen (r : Fin 8) (q : Fin 128) (s : State) : Out := .next (sectorOpen r q s)

/-- The header of the sector being opened (R255). -/
def sectHeader (s : State) (r seq : Nat) : List Byte :=
  let l := leBytes 4 0x474F4C4E ++ leBytes 2 1 ++ leBytes 1 r ++ leBytes 1 (s.get (.LOG_SIZE_SLOG2 r)) ++ leBytes 4 seq ++ leBytes 4 0
    ++ leBytes 8 (now s) ++ leBytes 4 (rd s Reg.BT_IMG_VER).toNat
  l ++ leBytes 4 (crc32 l)

/-- A region without sectors is disabled; another one is scanned (R259). -/
def logScanShow (r : Nat) (s : State) : State := s.put (.LOG_STAT_STATE r) (if sectCount s r = 0 then 0 else 1)

/-- A region whose place has changed is scanned before anything more is written to it (R254, assumption log 53). -/
def logRescan (r : Nat) (s : State) : State := logScanShow r ((s.put (.LOG_STAT_ERR r) 0).setLogr r { phase := 1 })

/-- LOG_FLASH_DONE (R259): the region's program or erase on S1 ends. A failure puts the region into error. -/
def logFlashDone (r : Nat) (ok : Bool) (s : State) : State :=
  let x := s.logr r
  match x.job with
  | none => s
  | some j =>
    if s1Run s x.cs ≠ 1 + r then s
    else
      let s1 := if ok then jobDone x.cs j s else (jobFailed x.cs j s).inc (.LOG_CNT_FAIL r)
      if x.rescan then s1Free x.cs (logRescan r s1)
      else if ¬ ok then s1Free x.cs (logShow r 4 ((s1.put (.LOG_STAT_ERR r) (if x.phase = 4 then 4 else 3)).setLogr r {}))
      else
        let s2 := (setS1Run x.cs 0 s1).setLogr r { x with job := none, phase := 2 }
        if x.phase = 4 then
          let seq := if x.fresh then 0 else ((rd s (Reg.LOG_SEQ r)).toNat + 1) % 2 ^ 32
          let a := sectAddr s r (s.get (.LOG_STAT_SECTOR r))
          s1Go (logShow r 3 ((wr (Reg.LOG_SEQ r) (wd seq) s2).setLogr r { x with
            phase := 5, job := some (.prog a (sectHeader s r seq)), off := 0x20, must := false, fresh := false }))
        else s1Go (logResume r (logShow r 2 s2))
def execLogFlashDone (r : Fin 8) (ok : Bool) (s : State) : Out := .next (logFlashDone r ok s)

/-- The log engine begins again on every region (R259): at start and at takeover. What it had on S1 is gone. -/
def logRestart (s : State) : State :=
  s.each (List.range 8) logRescan

/-- A write of `LOG_QMAP` (R254): the region of the queue that `LOG_QSEL` selects. -/
def logQmapWrite (r : Nat) (w : Word) (s : State) : State :=
  { s with logMap := kset 0 s.logMap (s.get (.LOG_QSEL_Q r)) (bits w 2 0) }

/-- `LOG_QMAP` as it reads. -/
def logQmapVal (s : State) (r : Nat) : Word := wd (logRegion s (s.get (.LOG_QSEL_Q r)))

end Sys2Proof.Machine
end

