-- ==== Sys2Proof/Machine/HoistMsg.lean ====
section
/-! DEFINITION. Hoist instructions of messages (R380 to R394). -/

namespace Sys2Proof.Machine

/-- The partner of a context is CAN or S2 (R343, R399). -/
def hasPartner (s : State) (c : Nat) : Bool := s.get (.CTX_PARTNER_KIND c) == 1 || s.get (.CTX_PARTNER_KIND c) == 2
def onCan (s : State) (c : Nat) : Bool := s.get (.CTX_PARTNER_KIND c) == 1

/-- A message to be sent: its frame, LEN as the literal gives it. -/
structure Msg where
  frame : Frame
  len : Nat
  deriving DecidableEq, Repr

/-- The header words of a literal (R380): bits that must be 0. -/
def headOk (w : List Word) : Bool :=
  bits (dw w 1) 19 16 == 0 && bits (dw w 1) 13 13 == 0 && bits (dw w 1) 11 8 == 0 && bits (dw w 2) 23 0 == 0 && decide (bits (dw w 1) 31 20 ≤ 64)

/-- The message that header words and data make (R380). A remote frame has no data. -/
def msgOf (s : State) (c : Nat) (w : List Word) (data : List Byte) : Msg :=
  let idw := if dw w 0 = 0xFFFFFFFF then rd s (Reg.CTX_TXID c) else dw w 0
  let len := bits (dw w 1) 31 20
  let rtr := bitAt (dw w 1) 15
  { frame := { idw := idw, dlc := if isFD idw then dlcOf len else if isXL idw then 0 else len, rtr := rtr, brs := bitAt (dw w 1) 14,
               sec := bitAt (dw w 1) 12, sdt := bits (dw w 1) 7 0, vcid := bits (dw w 2) 31 24, af := dw w 3,
               data := if rtr && !isFD idw && !isXL idw then [] else data.take len },
    len := len }

/-- LEN belongs to the format, and R306 would accept the frame (R380). -/
def msgOk (s : State) (c : Nat) (m : Msg) : Bool :=
  (if isXL m.frame.idw then 1 ≤ m.len && m.len ≤ 64 else if isFD m.frame.idw then dlcLens.contains m.len else decide (m.len ≤ 8))
    && !formatBad s (s.get (.CTX_PARTNER_PORT c)) m.frame m.len

/-- A field of `k` bytes at byte `pos` of the data takes the low `w` bits of `v`; its other bits keep their value (R382). -/
def insertSeq (be : Bool) (w pos v : Nat) (l : List Byte) : List Byte :=
  let k := (w + 7) / 8
  let old := orderNat be ((l.drop pos).take k)
  let b := leBytes k (old / 2 ^ w * 2 ^ w + v % 2 ^ w)
  overlay l pos (if be then b.reverse else b)

/-- The sequence field does not fit the `n` bytes of LEN (R382). -/
def seqPast (s : State) (c : Nat) (noseq : Bool) (n : Nat) : Bool :=
  !noseq && txw s c != 0 && decide (n < s.get (.CTX_SEQCFG_TXPOS c) + (txw s c + 7) / 8)

/-- An inserting send (R382): the data with the number, and the counters after it. A remote frame has no data that could take it. -/
def withSeq (c : Nat) (noseq : Bool) (l : List Byte) (s : State) : List Byte × State :=
  if noseq ∨ txw s c = 0 then (l, s)
  else
    let s1 := if (s.ctx c).p then advanceTx c s else s
    ((insertSeq (s.is (.CTX_SEQCFG_TXBE c)) (txw s c) (s.get (.CTX_SEQCFG_TXPOS c)) (s1.get (.CTX_SEQ_TX_SEQ c)) l).take l.length,
      s1.modCtx c (fun x => { x with p := true }))

/-- The retry point moves to this instruction (R351), except inside a resynchronisation routine (R375). -/
def retryHere (c pc : Nat) (s : State) : State :=
  s.modCtx c (fun x => if x.inResync then x else { x with retryPt := pc, retryPre := false })

/-- SEND and SENDV (R381, R383): `m` is sent under the option bits of D and the PRIO of K. -/
def sendMsg (c : Nat) (h : HWord) (m : Msg) (s : State) : State :=
  let pc := (s.ctx c).pc
  let noseq := h.d % 2 == 1
  if onCan s c then
    let p := s.get (.CTX_PARTNER_PORT c)
    if ¬ msgOk s c m ∨ seqPast s c noseq m.len then progErr c pc s
    else if 32 ≤ txLevel s p then ctxBlock c 5 .none s
    else
      let id := (s.can p).nextId
      let x := withSeq c noseq m.frame.data (retryHere c pc s)
      let s1 := stepOver c h (txQueue p (.hoist c) (h.k % 256) (0x8000 + c) (h.d / 4 % 2 == 1) { m.frame with data := x.1 } x.2)
      if h.d / 2 % 2 = 1 then ctxWait c 2 (.txDone id) s1 else s1
  else if s2Refuses s m.len then (let s1 := refuse c pc (h.d / 8 == 1) s; if h.d / 8 = 1 then stepOver c h s1 else s1)
  else if seqPast s c noseq m.len then progErr c pc s
  else if s.sp2.xfer.isSome then ctxBlock c 7 .none s
  else
    let x := withSeq c noseq m.frame.data (retryHere c pc s)
    ctxWait c 2 .s2 (stepOver c h (s2Send c x.1 x.2))

/-- On S2 the identifier word, RTR and the other header fields have no effect: the data are LEN bytes (R383). -/
def plainOn (s : State) (c : Nat) (m : Msg) (data : List Byte) : Msg :=
  if onCan s c then m else { m with frame := { data := data.take m.len } }

/-- Reads the literal at E and goes on with its header words and data bytes (R370, R380). -/
def withLiteral (c : Nat) (h : HWord) (data : Bool) (f : List Word → List Byte → State → State) (s : State) : State :=
  match refOf s c h.e with
  | none => progErr c (s.ctx c).pc s
  | some a =>
    withWords c a 4 (fun w s =>
      if ¬ headOk w then progErr c (s.ctx c).pc s
      else if data then withWords c ((a + 16) % 2 ^ 32) ((bits (dw w 1) 31 20 + 3) / 4) (fun d s => f w (wordsBytes d) s) s
      else f w [] s) s

/-- SEND (R381). -/
def execSend (e : Fin 8) (s : State) : Out :=
  .next (runInstr 0x10 .always e.val (fun c h s =>
    checked c (h.a == 0 && h.i && h.k / 256 == 0 && hasPartner s c)
      (withLiteral c h true (fun w l s => sendMsg c h (plainOn s c (msgOf s c w l) l) s)) s) s)

/-- SENDV (R381): the data from byte 4 × A of the variable array. -/
def execSendv (e : Fin 8) (s : State) : Out :=
  .next (runInstr 0x11 .either e.val (fun c h s =>
    let go := fun (w : List Word) (s : State) =>
      let l := (varBytes s c).drop (4 * h.a)
      let m := plainOn s c (msgOf s c w l) l
      checked c (decide (4 * h.a + (if onCan s c && m.frame.rtr && !isFD m.frame.idw && !isXL m.frame.idw then 0 else m.len) ≤ 64)) (sendMsg c h m) s
    checked c (h.i && hasPartner s c && (if h.x then h.k / 256 == 0 else decide (h.k / 256 ≤ 8)))
      (fun s =>
        if h.x then withLiteral c h false (fun w _ s => go w s) s
        else go [rd s (Reg.CTX_TXID c), wd (h.k / 256 * 2 ^ 20), 0, 0] s) s) s)

/-- An EXPECT or EXPECTANY starts (R345, R349): what is present is evaluated, then the context waits. -/
def expectStart (c : Nat) (h : HWord) (ds : List (List Word)) (dreg : Option Nat) (s : State) : State :=
  let pc := (s.ctx c).pc
  let w : ExpectW := { at_ := pc, next := nextPc h pc, descs := ds, dreg := dreg, start := clk s }
  waitOn c (evaluate c (s.modCtx c (fun x => { x with pc := w.next, wait := .expect w })))

/-- Words in groups of `n`. -/
def groups (n : Nat) : Nat → List Word → List (List Word)
  | 0, _ => []
  | k + 1, l => l.take n :: groups n k (l.drop n)

/-- EXPECT (R346 to R350, R384, R385). -/
def execExpect (e : Fin 8) (s : State) : Out :=
  .next (runInstr 0x12 .always e.val (fun c h s =>
    checked c (bare h && hasPartner s c && (refOf s c h.e).isSome)
      (fun s => withWords c ((refOf s c h.e).getD 0) 8
        (fun d s => checked c (descOk (cvOf s c).isSome d) (expectStart c h [d] none) s) s) s) s)

/-- EXPECTANY (R386). -/
def execExpectany (e : Fin 8) (s : State) : Out :=
  .next (runInstr 0x13 .always e.val (fun c h s =>
    checked c (noK h && h.a == 0 && hasPartner s c && (refOf s c h.e).isSome)
      (fun s =>
        let a := (refOf s c h.e).getD 0
        withWords c a 1 (fun n s =>
          let n := (dw n 0).toNat
          checked c (1 ≤ n && n ≤ 4)
            (withWords c ((a + 4) % 2 ^ 32) (8 * n) (fun d s =>
              let ds := groups 8 n d
              checked c (ds.all (descOk (cvOf s c).isSome)) (expectStart c h ds (some h.d)) s)) s) s) s) s)

/-- FLUSH (R381). -/
def execFlush (e : Fin 8) (s : State) : Out :=
  .next (runInstr 0x14 .never e.val (fun c h s =>
    checked c (noK h && h.a == 0 && decide (h.d < 8) && hasPartner s c)
      (fun s =>
        let s1 := if h.d % 2 = 1 then s.modCtx c (fun x => { x with inbox := [], cur := none }) else s
        let s2 := if h.d / 2 % 2 = 1 then s1.modCtx c (fun x => { x with evOff := false, evAbs := false }) else s1
        stepOver c h (if h.d / 4 = 1 ∧ onCan s c then xferFlush c s2 else s2)) s) s)

/-- A transfer starts (R391, R394): it evaluates what is present, then the context waits. -/
def xferStart (c : Nat) (h : HWord) (w : XferW) (begin : Nat → XferW → State → State) (s : State) : State :=
  let s1 := s.modCtx c (fun x => { x with pc := nextPc h (s.ctx c).pc, wait := .xfer w })
  waitOn c (evaluate c (begin c w s1))

/-- The bytes of a transmit literal at address `a`, which may be no multiple of 4 (R389). -/
def withBytes (c a n : Nat) (f : List Byte → State → State) (s : State) : State :=
  withWords c (a / 4 * 4) ((a % 4 + n + 3) / 4) (fun l s => f (((wordsBytes l).drop (a % 4)).take n) s) s

/-- XFER_TX (R388 to R392). -/
def execXferTx (e : Fin 8) (s : State) : Out :=
  .next (runInstr 0x15 .always e.val (fun c h s =>
    checked c (bare h && onCan s c && (refOf s c h.e).isSome)
      (fun s => withWords c ((refOf s c h.e).getD 0) 10 (fun d s =>
        checked c (xferOk s c true d)
          (fun s =>
            let pc := (s.ctx c).pc
            let n := bits (dw d 5) 15 0
            let go := fun (l : List Byte) (s : State) =>
              xferStart c h { tx := true, at_ := pc, next := nextPc h pc, desc := d, buf := l, total := n } xferTxStart (retryHere c pc s)
            if bits (dw d 5) 31 30 = 1 then go ((varBytes s c).take n) s
            else withBytes c ((s.get (.CTX_PROG_PROG c) + (dw d 6).toNat) % 2 ^ 32) n go s) s) s) s) s)

/-- The result queue of a context, when it has one (R397). -/
def resQueue (s : State) (c : Nat) : Option Nat :=
  if s.is (.CTX_BIND_RESQ_EN c) ∧ qOn s (s.get (.CTX_BIND_RESQ c)) then some (s.get (.CTX_BIND_RESQ c)) else none

/-- XFER_RX (R388, R389, R393): it discards an earlier reservation. -/
def execXferRx (e : Fin 8) (s : State) : Out :=
  .next (runInstr 0x16 .always e.val (fun c h s =>
    checked c (noK h && h.a == 0 && onCan s c && (refOf s c h.e).isSome && ((resQueue s c).map (qVar s)).getD false)
      (fun s => withWords c ((refOf s c h.e).getD 0) 10 (fun d s =>
        checked c (xferOk s c false d)
          (fun s =>
            let pc := (s.ctx c).pc
            let first := bits (dw d 7) 31 16
            xferStart c h { tx := false, at_ := pc, next := nextPc h pc, desc := d, dreg := h.d, phase := 8,
                            deadline := if first = 0 then none else some (clk s + 49152 * first) }
              (fun c w s => setXfer c w (dropResv c s)) s) s) s) s) s)

end Sys2Proof.Machine
end

