-- ==== Sys2Proof/Machine/HoistField.lean ====
section
/-! DEFINITION. Hoist instructions of checks, field actions, results, recovery and host (R353, R354, R357, R395 to R397). -/

namespace Sys2Proof.Machine

/-- The context holds its unit (R395). -/
def holdsCv (s : State) (c : Nat) : Bool :=
  match cvOf s c with
  | some u => (s.cv u).hold == .ctx c
  | none => false

/-- The reserved message (R393): its bytes, those not received as the region holds them. `none`: there is no reservation. -/
def resvMsg (s : State) (c : Nat) : Option (List Byte) :=
  let x := s.ctx c
  match x.resv with
  | none => none
  | some (q, pos) =>
    match (s.queue q).ents.find? (fun e => !e.vis && e.pos == pos) with
    | none => none
    | some e => some (overlay (((wordsBytes (entWords s q e)).drop 8).take x.resvLen) 0 (x.resvBytes.take x.resvLen))

/-- CVSTART (R395). -/
def execCvstart (e : Fin 8) (s : State) : Out :=
  .next (runInstr 0x28 .never e.val (fun c h s =>
    checked c (bare h && (cvOf s c).isSome)
      (fun s =>
        let u := (cvOf s c).getD 0
        if (s.cv u).hold = .free ∨ (s.cv u).hold = .ctx c then stepOver c h (cvTake u (.ctx c) s) else ctxBlock c 8 .none s) s) s)

/-- The source of a CVFEED (R395). -/
def feedSource (s : State) (c a : Nat) : Option (List Byte) :=
  match a with
  | 0 => some (varBytes s c)
  | 1 => some (curBytes s c)
  | 2 => resvMsg s c
  | _ => none

/-- CVFEED (R395): a feed that runs past its source stops there and sets F. -/
def execCvfeed (e : Fin 8) (s : State) : Out :=
  .next (runInstr 0x29 .never e.val (fun c h s =>
    checked c (op2Ok h && decide (h.a ≤ 3) && holdsCv s c && (h.a == 3 || (feedSource s c h.a).isSome))
      (fun s =>
        let u := (cvOf s c).getD 0
        let v := getV s c h.d
        let o := (op2z s c h).toNat
        let src := (feedSource s c h.a).getD []
        let l := if h.a = 3 then leBytes 4 v.toNat else (src.drop o).take v.toNat
        let past := h.a != 3 && decide (src.length < o + v.toNat)
        stepOver c h (setF c past (cvFeed u (.ctx c) l s))) s) s)

/-- The comparison of a CVCHK (R395): `none` for A = 0. -/
def chkEqual (s : State) (c : Nat) (h : HWord) (w r : Nat) : Option Bool :=
  match h.a with
  | 0 => none
  | 1 => some (r % 2 ^ min w 32 == (op2z s c h).toNat % 2 ^ min w 32)
  | a =>
    let m := (resvMsg s c).getD []
    let k := (w + 7) / 8
    some (decide (k ≤ m.length) && (orderNat (a == 3) (m.drop (m.length - k)) == r))

/-- CVCHK (R395). It leaves `CV_RESULT` unchanged (R486). -/
def execCvchk (e : Fin 8) (s : State) : Out :=
  .next (runInstr 0x2A .never e.val (fun c h s =>
    checked c (op2Ok h && decide (h.a ≤ 3) && (h.a != 1 || !h.i) && holdsCv s c && (decide (h.a < 2) || (resvMsg s c).isSome))
      (fun s =>
        let u := (cvOf s c).getD 0
        let p := cvPar s u
        let r := p.finish (s.cv u).run
        let s1 := (setV c h.d (wd r) s).setCv u {}
        let s2 := match chkEqual s c h p.w r with
          | none => s1
          | some b => s1.modCtx c (fun x => { x with zf := b, ff := !b })
        stepOver c h s2) s) s)

/-- The channel that a field instruction names (R396); `top` bits of K may be set when I = 1. -/
def chanOf (s : State) (c : Nat) (h : HWord) (top : Nat) : Option Nat :=
  if h.i then (if h.k / 2 ^ top = 0 then some (h.k % 256) else none)
  else if h.k / 16 = 0 ∧ (getV s c h.k).toNat < 256 then some (getV s c h.k).toNat else none

/-- DOUT (R396). -/
def execDout (e : Fin 8) (s : State) : Out :=
  .next (runInstr 0x2C .never e.val (fun c h s =>
    let n := (chanOf s c h 9).getD 256
    checked c (decide (h.a < 2) && isDO n)
      (fun s =>
        let v := if h.i then h.k / 256 == 1 else bitAt (getV s c h.d) 0
        let s1 := doCmd n v s
        if doRefused s n v then (let s2 := refuse c (s.ctx c).pc (h.a == 1) s1; if h.a = 1 then stepOver c h s2 else s2)
        else stepOver c h (setF c false s1)) s) s)

/-- AOUT (R396). -/
def execAout (e : Fin 8) (s : State) : Out :=
  .next (runInstr 0x2D .never e.val (fun c h s =>
    let n := (chanOf s c h 8).getD 256
    checked c (h.a == 0 && isAO n) (fun s => stepOver c h (aoSet n (bits (getV s c h.d) 15 0) s)) s) s)

/-- What DIN reads (R396): the word, or `none` for a mode that the channel's kind does not define. -/
def dinWord (s : State) (n a : Nat) : Option Word :=
  if isDI n then
    (match a with
      | 0 => some (wd (s.get (.CH_DI_STATE_LEVEL n)))
      | 1 => some (rd s (Reg.CH_DI_EDGES n))
      | 2 => some (rd s (Reg.CH_DI_PERIOD n))
      | _ => none)
  else if isDO n then
    (match a with
      | 0 => some (wd (s.get (.CH_DO_STATE_OUT n)))
      | 1 => some (rd s (Reg.CH_DO_SWCNT n))
      | 2 => some (onTimeVal s n)
      | _ => none)
  else if isAN n then
    (match a with
      | 4 => some (lastWord s n)
      | 5 => some (freeNow s)
      | _ => none)
  else none

/-- DIN (R396). The tile's fast average is a measurement: a free value. -/
def execDin (e : Fin 8) (s : State) : Out :=
  .next (runInstr 0x2E .never e.val (fun c h s =>
    let n := (chanOf s c h 8).getD 256
    checked c ((dinWord s n h.a).isSome && (h.a != 4 || decide (h.d ≤ 14)))
      (fun s =>
        let v := (dinWord s n h.a).getD 0
        let s1 := setV c h.d v s
        stepOver c h
          (if h.a = 4 then setF c (v == 0xC0) (setV c (h.d + 1) (lastSeq s n) s1)
           else if h.a = 5 then s1.useFree else s1)) s) s)

/-- AIN (R152, R396). -/
def execAin (e : Fin 8) (s : State) : Out :=
  .next (runInstr 0x2F .never e.val (fun c h s =>
    checked c (h.i && h.k / 2 ^ 9 == 0 && decide (h.a < 4))
      (fun s =>
        let t := h.k % 16
        let g := h.k / 16
        let resp := injResponse s t g (h.a % 2 == 1)
        if resp = injAccepted ∨ resp = injHeld then
          injQueue t { target := g, tag := c, ctx := some c, held := resp == injHeld } (ctxWait c 2 (.inj h.d) (stepOver c h s))
        else if resp = injBusy ∧ 4 ≤ (s.tile t).inj.length then ctxBlock c 9 .none s
        else
          let s1 := refuse c (s.ctx c).pc (h.a / 2 == 1) (setV c h.d (wd resp) s)
          if h.a / 2 = 1 then stepOver c h s1 else s1) s) s)

/-- Header of a variable entry that a context writes (R397). -/
def ctxEntry (s : State) (c kind len : Nat) (body : List Word) : List Word :=
  varEntry len (kind * 256 + c) (wd (s.get (.CTX_RUNS_RUNS c) % 65536 * 65536 + s.get (.CTX_STAT_TKO c))) body

/-- The entry of a PUSH with A = 0 or 1 into queue `q` (R301, R397); `none`: the queue cannot take it, or a variable lies past V15. -/
def pushEntry (s : State) (c q : Nat) (h : HWord) : Option (List Word) :=
  let var := qVar s q
  let b := fixedBytes (s.get (.Q_CFG_ESIZE q))
  let e := if h.a = 0 then
      (if var then (if 4 * h.d + h.k ≤ 64 then some (ctxEntry s c 1 h.k (packWords (((varBytes s c).drop (4 * h.d)).take h.k))) else none)
       else if h.d + b / 4 ≤ 16 then some ((List.range (b / 4)).map (fun i => getV s c (h.d + i))) else none)
    else
      match (s.ctx c).cur with
      | none => none
      | some f =>
        if var then some (ctxEntry s c 2 (rxLen f) (rxBody f)) else if b = 8 then none else some (rxFixed b f)
  match e with
  | some l => if var ∧ regionBytes s q < 4 * l.length then none else some l
  | none => none

/-- Commits the reserved message (R393, R397): the entry is filled and consumers see it. -/
def commitResv (c : Nat) (m : List Byte) (s : State) : State :=
  match (s.ctx c).resv with
  | none => s
  | some (q, pos) =>
    let s1 := putWords q pos (ctxEntry s c 3 m.length (packWords m)) s
    let x := s1.queue q
    let s2 := s1.setQueue q { x with wcnt := x.wcnt + 1, lossRec := false }
    (qStore q (x.ents.map (fun e => if !e.vis && e.pos == pos then { e with vis := true } else e)) s2).modCtx c
      (fun y => { y with resv := none, resvLen := 0, resvBytes := [] })

/-- PUSH with A = 0 or 1: under STALL a full queue blocks the context (R335, R397). -/
def pushTo (c q : Nat) (h : HWord) (l : List Word) (s : State) : State :=
  let ok := qAccepts s q .active (4 * l.length)
  if s.get (.Q_CFG_POLICY q) = 2 ∧ ¬ ok ∧ ¬ qForeign s q .active then ctxBlock c 6 .none s
  else stepOver c h (setF c (!ok) (qPush q .active [l] s))

/-- PUSH (R397). -/
def execPush (e : Fin 8) (s : State) : Out :=
  .next (runInstr 0x30 .never e.val (fun c h s =>
    let q := (resQueue s c).getD 128
    checked c (h.i && (resQueue s c).isSome && decide (h.a ≤ 3)
        && (if h.a < 2 then (pushEntry s c q h).isSome else (resvMsg s c).isSome))
      (fun s =>
        match h.a with
        | 2 => stepOver c h (setF c false (commitResv c ((resvMsg s c).getD []) s))
        | 3 => stepOver c h (setF c false (dropResv c s))
        | _ => pushTo c q h ((pushEntry s c q h).getD []) s) s) s)

/-- PENNANT (R211 to R214, R397). -/
def execPennant (e : Fin 8) (s : State) : Out :=
  .next (runInstr 0x31 .never e.val (fun c h s =>
    checked c (h.i && decide (h.a < 2) && decide (0x80 ≤ h.k) && decide (h.k < 256))
      (fun s =>
        raisePennant .active h.k { irq := h.a == 1, tko := s.is (.CTX_STAT_TKO c) } 4 c (getV s c h.d) (now s) (stepOver c h s)) s) s)

/-- CHECKPOINT (R353): it closes a ONCE step, is the retry point from now on (R351), and waits for its commit when there is a standby. -/
def execCheckpoint (e : Fin 8) (s : State) : Out :=
  .next (runInstr 0x34 .never e.val (fun c h s =>
    checked c (bare h)
      (fun s =>
        let pc := (s.ctx c).pc
        let s1 := ((stepOver c h s).put (.CTX_STAT_ONCE_OPEN c) 0).modCtx c (fun x => { x with retryPt := pc, retryPre := false })
        let s2 := writeCkpt c (ckptOf s1 c (s1.ctx c).pc false 0) s1
        if hasStandby s then ctxWait c 3 .commit s2 else s2) s) s)

/-- A ONCE step opens (R351, R354): the retry point of before precedes it. -/
def onceOpens (c : Nat) (s : State) : State := (s.set1 (.CTX_STAT_ONCE_OPEN c)).modCtx c (fun x => { x with retryPre := true })

/-- ONCE (R354). -/
def execOnce (e : Fin 8) (s : State) : Out :=
  .next (runInstr 0x35 .never e.val (fun c h s =>
    checked c (bare h)
      (fun s =>
        let pc := (s.ctx c).pc
        let s1 := (stepOver c h s).put (.CTX_STAT_ONCE_OPEN c) 0
        let s2 := writeCkpt c (ckptOf s1 c (s1.ctx c).pc true pc) s1
        if hasStandby s then ctxWait c 3 .commit s2 else onceOpens c s2) s) s)

/-- SIGNAL (R336, R357, R359). -/
def execSignal (e : Fin 8) (s : State) : Out :=
  .next (runInstr 0x38 .never e.val (fun c h s =>
    checked c (h.d == 0 && h.a == 0 && op2Ok h)
      (fun s =>
        let w := ctxRecord s c 2 0 (op2s s c h)
        fireTrigs [.cmp c 3 (w.getD 0 0) (now s)] (pushCtxRecord w true (stepOver c h s))) s) s)

end Sys2Proof.Machine
end

