-- ==== Sys2Proof/Machine/Contexts.lean ====
section
/-! DEFINITION. Context rows of spec/11: host control (R360, R361), engines (R339, R340), time-outs, commits, resources, the hoist cache, hoist memory,
and writes of the context registers (R362 to R365). -/

namespace Sys2Proof.Machine

/-- A context's `CFG_ADJ` (R343, R352, R364): a replaced KIND, MODE or width, a DI_N that is no input, a SRC that is no context. -/
def ctxShow (c : Nat) (s : State) : State :=
  s.putB (.CTX_STAT_CFG_ADJ c) ((s.ctx c).adj != 0 || (s.is (.CTX_TRIG_DI_EN c) && !isDI (s.get (.CTX_TRIG_DI_N c)))
    || (s.is (.CTX_TRIG_CMP_EN c) && decide (160 ≤ s.get (.CTX_TRIG_CMP_SRC c))))

/-- KICK (R336, R360). -/
def kick (c arg : Nat) (s : State) : State :=
  if s.is (.CTX_CFG_EN c) then acceptTrig c ⟨8, 0, wd arg, now s⟩ true s else s.set1 (.CTX_STAT_IGNORED c)

/-- ABORT (R334, R360). -/
def ctxAbort (c : Nat) (s : State) : State :=
  if inRun s c then
    endRun c ccAborted (wd (offOf s c (s.ctx c).pc)) ((s.put (.CTX_STAT_PEND c) 0).modCtx c (fun x => { x with pend := none }))
  else s

/-- RESET (R334, R360). -/
def ctxReset (c : Nat) (s : State) : State :=
  if inRun s c then s.set1 (.CTX_STAT_IGNORED c)
  else (((s.put (.CTX_STAT_STATE c) stIdle).put (.CTX_STAT_PEND c) 0).put (.CTX_STAT_RX_VALID c) 0).modCtx c
    (fun x => { x with pend := none, inbox := [], evOff := false, evAbs := false })

/-- A write of `CTX_CTL` (R360). -/
def ctxCtlWrite (c : Nat) (w : Word) (s : State) : State :=
  match bits w 3 0 with
  | 0 => s
  | 1 => kick c (bits w 31 16) s
  | 2 => ctxAbort c s
  | 3 => ctxReset c s
  | _ => s.set1 (.CTX_STAT_IGNORED c)

/-- CTX_KICK, CTX_ABORT, CTX_RESET: writes of `CTX_CTL` with the OP. -/
def execCtxKick (r : Req) (c : Fin 160) (arg : BitVec 16) (s : State) : Out :=
  .next (regWrite r (Reg.CTX_CTL c) Msk.CTX_CTL (wd (mk [(arg.toNat, 16), (1, 0)])) (ctxCtlWrite c) s)
def execCtxAbort (r : Req) (c : Fin 160) (s : State) : Out :=
  .next (regWrite r (Reg.CTX_CTL c) Msk.CTX_CTL 2 (ctxCtlWrite c) s)
def execCtxReset (r : Req) (c : Fin 160) (s : State) : Out :=
  .next (regWrite r (Reg.CTX_CTL c) Msk.CTX_CTL 3 (ctxCtlWrite c) s)

/-- The registers of a context that are written outside a run only (R361), by offset, with their masks. -/
def ctxQuiet : List (Nat × WMask) :=
  [(0x00, Msk.CTX_CFG), (0x04, Msk.CTX_PROG), (0x08, Msk.CTX_TRIG), (0x0C, Msk.CTX_TRIG_PEN), (0x10, Msk.CTX_TRIG_CMP), (0x14, Msk.CTX_PARTNER),
   (0x18, Msk.CTX_TXID), (0x28, Msk.CTX_SEQCFG), (0x2C, Msk.CTX_SEQSTART), (0x30, Msk.CTX_BIND)]

/-- What the stored settings of a context become (R7, R343, R352, R361, R364): KIND 3 is 0, MODE 3 is 2, a width of 17 to 31 is 16, a context
that is disabled is IDLE. -/
def ctxSettle (c o : Nat) (s : State) : State :=
  let bit := fun (b : Nat) (on : Bool) (s : State) => s.modCtx c (fun x => { x with adj := if on then x.adj ||| 2 ^ b else x.adj &&& (15 ^^^ 2 ^ b) })
  let s1 :=
    if o = 0x14 then
      let bad := s.get (.CTX_PARTNER_KIND c) == 3
      bit 0 bad (if bad then s.put (.CTX_PARTNER_KIND c) 0 else s)
    else if o = 0x1C then
      let bad := s.get (.CTX_RETRY_MODE c) == 3
      bit 1 bad (if bad then s.put (.CTX_RETRY_MODE c) 2 else s)
    else if o = 0x28 then
      let r := decide (16 < s.get (.CTX_SEQCFG_RXW c))
      let t := decide (16 < s.get (.CTX_SEQCFG_TXW c))
      let s2 := if r then s.put (.CTX_SEQCFG_RXW c) 16 else s
      bit 2 r (bit 3 t (if t then s2.put (.CTX_SEQCFG_TXW c) 16 else s2))
    else if o = 0x00 ∧ ¬ s.is (.CTX_CFG_EN c) then s.put (.CTX_STAT_STATE c) stIdle
    else s
  ctxShow c s1

/-- A write of a context register at offset `o` (R361, R364). -/
def ctxRegWrite (c o : Nat) (m : WMask) (w : Word) (s : State) : State :=
  let a := Reg.CTX_CFG c + o
  if o = 0x34 then ctxCtlWrite c w s
  else if inRun s c ∧ (ctxQuiet.map (·.1)).contains o then s.set1 (.CTX_STAT_DENIED c)
  else ctxSettle c o (store a m w s)

/-- The hoist engines take up contexts (R47, R530): a domain is active, and the module is in RUN, LEAN or DOZE. -/
def hoistRuns (s : State) : Bool := s.sv.anyActive && !s.is .SV_STAT_SWITCHING && decide (1 ≤ s.pw.power) && decide (s.pw.power ≤ 3)

/-- The lowest enabled engine that is free (R339). -/
def freeEngine (s : State) : Option Nat :=
  (List.range 8).find? (fun e => (s.get .HE_CFG_ENG_EN).testBit e && (s.eng e).ctx.isNone)

/-- The READY contexts of priority `p`, ascending. -/
def readyAt (s : State) (p : Nat) : List Nat :=
  (enabledCtxs s).filter (fun c => s.get (.CTX_STAT_STATE c) == stReady && s.get (.CTX_CFG_PRIO c) == p)

/-- The context that R339 chooses: the highest priority present, the first after the one taken up last at that priority. -/
def nextReady (s : State) : Option (Nat × Nat) :=
  match (List.range 4).find? (fun p => !(readyAt s p).isEmpty) with
  | none => none
  | some p =>
    let l := readyAt s p
    let k := kget 0 s.rrLast p
    ((l.find? (fun c => k ≤ c)).or l.head?).map (fun c => (p, c))

/-- An engine empties its own read and pop shadows (R340). -/
def dropShadows (r : Nat) (s : State) : State :=
  let s1 := { s with rsh := s.rsh.filter (fun p => p.1 ≠ r), pops := s.pops.filter (fun p => p.1 % 16 ≠ r) }
  { s1 with queues := s1.queues.map (fun p => (p.1, { p.2 with ents := unpin r p.2.ents })) }

/-- An engine takes up a context (R334, R339, R340). An EXPECT or transfer that was released is evaluated again; otherwise the next word is
fetched (R366). -/
def takeUpCtx (e p c : Nat) (s : State) : State :=
  let s1 := dropShadows (3 + e) { s with rrLast := kset 0 s.rrLast p (c + 1) }
  let s2 := (ctxState c stRunning 0 (s1.setEng e { ctx := some c })).set1 (.CTX_STAT_ON_ENG c) |>.put (.CTX_STAT_ENG c) e
  match (s2.ctx c).wait with
  | .expect _ => waitOn c (evaluate c s2)
  | .xfer _ => waitOn c (evaluate c s2)
  | _ => withWords c (s2.ctx c).pc 1 (fun _ s => s) s2

/-- ENGINE_DISPATCH (R339, R340, R366). -/
def dispatch (s : State) : State :=
  if ¬ hoistRuns s then s
  else match freeEngine s, nextReady s with
    | some e, some (p, c) => takeUpCtx e p c s
    | _, _ => s
def execEngineDispatch (s : State) : Out := .next (dispatch s)

/-- The next word of a context is an RDR in a run of RDR that R379 does not split. -/
def rdrGoesOn (s : State) (e c : Nat) : Bool :=
  decide (0 < (s.eng e).rdrs) && decide ((s.eng e).rdrs < 8) &&
    (match fetchWord s c (s.ctx c).pc with
      | .ok l => opOf (l.getD 0 0) == 0x26
      | _ => false)

/-- SLICE_EXPIRY (R340). -/
def sliceExpiry (e : Nat) (s : State) : State :=
  match runningOn s e with
  | none => s
  | some c => if (s.eng e).count < sliceLen s ∨ rdrGoesOn s e c then s else ctxReady c (offEngine c s)
def execSliceExpiry (e : Fin 8) (s : State) : Out := .next (sliceExpiry e s)

/-- RUNMAX_EXPIRY (R342). -/
def runmaxExpiry (c : Nat) (s : State) : State :=
  let m := s.get (.CTX_LIMITS_RUNMAX c)
  if inRun s c ∧ m ≠ 0 ∧ (s.ctx c).began + 49152000 * m ≤ clk s then endRun c ccRunmax (wd (offOf s c (s.ctx c).pc)) s else s
def execRunmaxExpiry (c : Fin 160) (s : State) : Out := .next (runmaxExpiry c s)

/-- CTX_INBOX_FRAME (R298, R344): frame `x` of port `p` is delivered to context `c` by filter pair `k`, which targets it. -/
def execCtxInboxFrame (c : Fin 160) (p : Fin 4) (k : Fin 64) (x : Frame) (s : State) : Out :=
  .next (if canRuns s p ∧ frameOk x ∧ canDecodes s p x ∧ (3, c.val, k.val, false) ∈ deliveries s p x then
    ctxFrame c { frame := { x with ts := now s % 2 ^ 48 }, len := x.data.length, port := p, filter := k } s else s)

/-- EXPECT_TIMEOUT (R346, R349): what has reached the context was evaluated as it came. -/
def expectTimeoutDue (c : Nat) (s : State) : State :=
  match (s.ctx c).wait with
  | .expect w => if s.get (.CTX_STAT_STATE c) = stWaiting ∧ expectDue s c w then expectTimeout c w s else s
  | _ => s
def execExpectTimeout (c : Fin 160) (s : State) : Out := .next (expectTimeoutDue c s)

/-- BACKOFF_EXPIRY (R351, R352). -/
def backoffExpiry (c : Nat) (s : State) : State :=
  match (s.ctx c).wait with
  | .backoff d rs => if s.get (.CTX_STAT_STATE c) = stWaiting ∧ d ≤ clk s then backoffEnd c rs s else s
  | _ => s
def execBackoffExpiry (c : Fin 160) (s : State) : Out := .next (backoffExpiry c s)

/-- CTX_WAIT_EXPIRY (R376). -/
def waitExpiry (c : Nat) (s : State) : State :=
  if s.get (.CTX_STAT_STATE c) ≠ stWaiting then s
  else match (s.ctx c).wait with
    | .time d => if d ≤ now s then ctxResume c (s.ctx c).pc s else s
    | .timer i => if timerRuns s c i then s else ctxResume c (s.ctx c).pc s
    | _ => s
def execCtxWaitExpiry (c : Fin 160) (s : State) : Out := .next (waitExpiry c s)

/-- The context's last record has committed (R353): the standby has applied it, or there is none to wait for. -/
def ckptCommitted (s : State) (c : Nat) : Bool := !hasStandby s || kget 0 s.ckptDone c == (s.ctx c).ckptNo

/-- CHECKPOINT_COMMITTED (R353, R354): a ONCE step opens with its commit. -/
def checkpointCommitted (c : Nat) (s : State) : State :=
  if s.get (.CTX_STAT_STATE c) = stWaiting ∧ (s.ctx c).wait = .commit ∧ ckptCommitted s c then
    match (s.ctx c).ckpt with
    | some r =>
      let s1 := showCkpt c r s
      ctxResume c (s.ctx c).pc (if r.once then onceOpens c s1 else s1)
    | none => ctxResume c (s.ctx c).pc s
  else s
def execCheckpointCommitted (c : Fin 160) (s : State) : Out := .next (checkpointCommitted c s)

/-- The context evaluates an EXPECT or EXPECTANY: its program counter is past that instruction already. -/
def waitsExpect (s : State) (c : Nat) : Bool :=
  match (s.ctx c).wait with
  | .expect _ => true
  | _ => false

/-- The resource that a BLOCKED context waits for (R335): its cause, and which port, queue, unit or tile it is. -/
def blockedOn (s : State) (c : Nat) : Nat × Nat :=
  let on := s.get (.CTX_STAT_WAIT_ON c)
  let w := progWord s (s.ctx c).pc
  (on, match on with
    | 5 => s.get (.CTX_PARTNER_PORT c)
    | 6 => s.get (.CTX_BIND_RESQ c)
    | 8 => if !waitsExpect s c && opOf w == 0x27 then regAddr s c (fieldsOf w (progWord s ((s.ctx c).pc + 4))) false % 0x200 / 0x40 else s.get (.CTX_BIND_CVU c)
    | 9 => bits w 3 0
    | _ => 0)

/-- The resource is available (R335). -/
def resourceFree (s : State) (c : Nat) : Bool :=
  let r := blockedOn s c
  match r.1 with
  | 5 => decide (txLevel s r.2 < 32)
  | 6 =>
    (match pushEntry s c r.2 (fieldsOf (progWord s (s.ctx c).pc) 0) with
      | some l => qAccepts s r.2 .active (4 * l.length)
      | none => true)
  | 7 => s.sp2.xfer.isNone
  | 8 => (s.cv r.2).hold == .free
  | 9 => decide ((s.tile r.2).inj.length < 4)
  | _ => false

/-- No context that waits for the same resource blocked earlier (R335). -/
def firstBlocked (s : State) (c : Nat) : Bool :=
  (enabledCtxs s).all (fun d => s.get (.CTX_STAT_STATE d) != stBlocked || blockedOn s d != blockedOn s c || decide ((s.ctx c).blockNo ≤ (s.ctx d).blockNo))

/-- CTX_UNBLOCK (R334, R335): the context is READY and meets its instruction, or the frame that it was evaluating, again. -/
def unblock (c : Nat) (s : State) : State :=
  if s.get (.CTX_STAT_STATE c) = stBlocked ∧ s.get (.CTX_STAT_WAIT_ON c) ≠ 10 ∧ resourceFree s c ∧ firstBlocked s c then ctxReady c s else s
def execCtxUnblock (c : Fin 160) (s : State) : Out := .next (unblock c s)

/-- Context `c` is BLOCKED for the cache line of flash byte `a` (R367). -/
def wantsLine (s : State) (a c : Nat) : Bool :=
  match (s.ctx c).wait with
  | .fetch x => s.get (.CTX_STAT_STATE c) == stBlocked && decide ((x - 0x10000000) / 64 = a / 64)
  | _ => false

/-- HOIST_CACHE_FILL_DONE (R367, R425): the line of flash byte `a` arrives, or fails; S1_CS0_N must not run a program or an erase. Contexts that
wait for the line go on, or end FETCH_ERR. -/
def cacheFill (a : Nat) (ok : Bool) (s : State) : State :=
  let l := (enabledCtxs s).filter (wantsLine s a)
  if l.isEmpty ∨ s1Run s 0 ≠ 0 then s
  else
    let s0 := if ok then cacheUse (0x10000000 + a) s else s
    s0.each l (fun c s =>
      if ok then (ctxReady c s).modCtx c (fun x => { x with wait := .none })
      else match (s.ctx c).wait with
        | .fetch x => endRun c ccFetchErr (wd x) s
        | _ => s)
def execHoistCacheFillDone (a : BitVec 26) (ok : Bool) (s : State) : Out := .next (cacheFill a.toNat ok s)

/-- XFER_TIMER_EXPIRY (R394). -/
def xferTimerExpiry (c : Nat) (s : State) : State :=
  match (s.ctx c).wait with
  | .xfer w =>
    (match w.deadline with
      | some d => if s.get (.CTX_STAT_STATE c) = stWaiting ∧ d ≤ clk s then xferTimer c w s else s
      | none => s)
  | _ => s
def execXferTimerExpiry (c : Fin 160) (s : State) : Out := .next (xferTimerExpiry c s)

/-- Hoist memory is protected as an RWL field (R368). -/
def hoistMask : WMask := ⟨0xFFFFFFFF, 0, 0, 0⟩

/-- HOIST_MEMORY_WRITE (R368): word `i` of hoist memory. -/
def execHoistMemoryWrite (r : Req) (i : BitVec 16) (w : Word) (s : State) : Out :=
  .next (regWrite r (0x80000 + 4 * i.toNat) hoistMask w (wr (0x80000 + 4 * i.toNat)) s)

end Sys2Proof.Machine
end

