-- ==== Sys2Proof/Machine/RingLink.lean ====
section
/-! DEFINITION. The Casen ring's links and bypass (spec/14, R446 to R453, R456 to R458), and its frames as a module sends and forwards them
(R457, R461, R462). -/

namespace Sys2Proof.Machine

/-- States of `CSN_STAT` (R473). -/
def csOff : Nat := 0
def csJoinWait : Nat := 1
def csTraining : Nat := 2
def csEnum : Nat := 3
def csTimeLock : Nat := 4
def csRunning : Nat := 5

def csState (n : Nat) (s : State) : State := (s.put .CSN_STAT_STATE n).modCsn (fun c => { c with phaseAt := clk s })
def isHead (s : State) : Bool := s.is .CSN_STAT_HEAD
def upPort (s : State) : Nat := s.get .CSN_STAT_UP_PORT
def otherPort (x : Nat) : Nat := 1 - x
def linkUpR (s : State) (x : Nat) : Bool := s.is (.CSN_LK_STAT_UP x)

/-- The bypass must stay closed for a cause other than JOIN_WAIT (R446): no domain is active, the module is loading, in NO_IMAGE or SLEEP, or the ring
is not used. -/
def ringBarred (s : State) : Bool :=
  !s.sv.anyActive || s.get .BT_STAT_STATE != 1 || s.pw.power == 4 || !s.is .CSN_CFG_EN

/-- A link carries frames (R458, R460). -/
def carries (s : State) (x : Nat) : Bool := !s.csn.closed && linkUpR s x && !(s.link x).stray

/-- Hops to the head through a port (R474). -/
def putHops (x h : Nat) (s : State) : State := if x = 0 then s.put .CSN_HOPS_H_LK1 h else s.put .CSN_HOPS_H_LK2 h

/-- A command that sends begins with nothing sent. -/
def ringStart (s : State) : State := s.modCsn (fun c => { c with sent := [] })

/-- Sends a frame from a port that carries frames. -/
def sendOn (x : Nat) (f : RFrame) (s : State) : State := if carries s x then s.modCsn (fun c => { c with sent := c.sent ++ [(x, f)] }) else s

/-- The head sends a frame from every port that is up. -/
def sendBoth (f : RFrame) (s : State) : State := sendOn 1 f (sendOn 0 f s)

/-- A member sends a frame toward the head. -/
def sendUp (f : RFrame) (s : State) : State := sendOn (upPort s) f s

/-- A 64-bit number as two payload words. -/
def words64 (n : Nat) : List Word := [wd n, wd (n / 2 ^ 32)]
def num64 (l : List Word) : Nat := (l.getD 0 0).toNat + (l.getD 1 0).toNat * 2 ^ 32

/-- Ring address as SRC. -/
def myAddr (s : State) : Byte := BitVec.ofNat 8 (s.get .CSN_STAT_ADDR)

/-- Payload words of a frame type (R462); `none`: any number up to 64. -/
def payWords (ty : Nat) : Option Nat :=
  if ty = 0x03 ∨ ty = 0x0D then some 4
  else if ty = 0x04 ∨ ty = 0x05 ∨ ty = 0x07 ∨ ty = 0x0C then some 2
  else if ty = 0x09 then some 5
  else if ty = 0x08 ∨ ty = 0x0A ∨ ty = 0x0B ∨ ty = 0x0E then some 0
  else none

/-- A ring address, or 0xFF for none. -/
def addrOk (n : Nat) : Bool := decide (n ≤ 250) || n == 255

/-- DST and the ranges of W1 and W2 by type (R462). -/
def rfieldsOk (f : RFrame) : Bool :=
  let to0 := f.dst == 0
  let all := f.dst == 255
  match f.ty.toNat with
  | 0x01 => f.dst != 0
  | 0x02 => to0 && decide (bits f.w1 15 12 ≤ 3)
  | 0x03 => all
  | 0x04 => all && f.w2 == 0
  | 0x05 => all && f.w2 == 0
  | 0x06 => to0 && decide (bits f.w1 23 16 < 128)
  | 0x07 => to0 && decide (1 ≤ bits f.w1 31 24) && decide (bits f.w1 31 24 ≤ 4)
  | 0x08 => all && decide (bits f.w1 7 0 ≤ 250)
  | 0x09 => to0 && decide (1 ≤ bits f.w1 7 0) && decide (bits f.w1 7 0 ≤ 250)
  | 0x0A => all && decide (bits f.w1 7 0 ≤ 250)
  | 0x0B => all && addrOk (bits f.w1 15 8) && addrOk (bits f.w1 7 0)
  | 0x0C => all && f.w1 == 0
  | 0x0E => to0 && f.w2 == 0 && decide (1 ≤ f.w1.toNat) && decide (f.w1.toNat ≤ 250)
  | _ => true

/-- Fields of R461 and R462 that a receiver checks: a known TYPE, FLAGS, DST, LEN, SEG, and what the type says of W1 and W2. -/
def rframeOk (f : RFrame) : Bool :=
  1 ≤ f.ty.toNat && f.ty.toNat ≤ 0x0E && f.flags.toNat < 64 && addrOk f.dst.toNat && (f.seg == 0 || f.ty == 0x06) && rfieldsOk f
    && (match payWords f.ty.toNat with
      | some n => f.data.length == n
      | none => decide (f.data.length ≤ 64))

/-- The port by which a frame that came in at `x` leaves (R457): downstream by the other port, upstream by the port toward the head. -/
def outPort (s : State) (x : Nat) (f : RFrame) : Nat := if f.flags.toNat % 2 = 1 then otherPort x else upPort s

/-- A frame leaves by port `y`, except that PAUSE holds export frames back (R462). -/
def sendPast (y : Nat) (f : RFrame) (s : State) : State :=
  if f.ty = 0x06 ∧ (s.link y).paused then s.modLink y (fun l => { l with held := l.held ++ [f] }) else sendOn y f s

/-- A module forwards a frame (R457): a frame that reaches an end, or the head that sent it, is discarded. It leaves at once (assumption log 90). -/
def forward (x : Nat) (f : RFrame) (s : State) : State :=
  if isHead s ∨ outPort s x f = x then s else sendPast (outPort s x f) { f with hops := f.hops + 1 } s

/-- A frame arrives at port `x`: a port that carries frames, and a frame of type `ty`, which `g` handles. A frame with a bad field is discarded and
counted (R462). -/
def ringRecv (x ty : Nat) (f : RFrame) (g : State → State) (s : State) : State :=
  let s0 := ringStart s
  if ¬ carries s x then s0
  else if ¬ rframeOk f then s0.inc (.CSN_LK_ERR_CRC x)
  else if f.ty.toNat = ty then g s0 else s0

/-- RING_FRAME_FORWARD (R457, R461, R462): a frame for another module alone. One with a wrong CRC is counted, and its copy ends abandoned.
Broadcast frames, and frames on which every module acts that they pass, have commands of their own. -/
def execRingFrameForward (x : Fin 2) (f : RFrame) (crcOk : Bool) (s : State) : Out :=
  .next (let s0 := ringStart s
    if ¬ carries s x then s0
    else if ¬ crcOk ∨ ¬ rframeOk f then s0.inc (.CSN_LK_ERR_CRC x)
    else if f.dst = myAddr s ∨ f.dst = 255 ∨ f.ty = 0x0D ∨ f.ty = 0x0E then s0 else forward x f s0)

/-- A link begins step 1 (R451). -/
def trainLink (x : Nat) (s : State) : State :=
  (((s.put (.CSN_LK_STAT_UP x) 0).put (.CSN_LK_STAT_NOPART x) 0).put (.CSN_LK_STAT_STEP x) 1).modLink x
    (fun l => { l with tries := 0, meas := none, paused := false, at_ := clk s, held := [] })

/-- The bypass closes (R446): both ports are given up; `st` is the state shown. Link parameters stay (R450). -/
def ringClose (st : Nat) (s : State) : State :=
  let s1 := s.each [0, 1] (fun x s => ((s.put (.CSN_LK_STAT_UP x) 0).put (.CSN_LK_STAT_STEP x) 0).modLink x
    (fun l => { l with tries := 0, paused := false, meas := none, held := [] }))
  csState st (s1.modCsn (fun c => { c with closed := true, listen := false, relock := false, fwd := false, seg := none, joins := [] }))

/-- The module listens at the end of its start-up (R449). -/
def ringListen (s : State) : State :=
  let s1 := ringClose csOff s
  if ringBarred s then s1 else s1.modCsn (fun c => { c with listen := true })

/-- A module that held its link parameters returns (R450). -/
def ringReturn (s : State) : State :=
  let s1 := ringClose csOff s
  if ringBarred s then s1
  else if s.get .CSN_EPOCH_EPOCH = 0 then s1.modCsn (fun c => { c with listen := true })
  else s1.modCsn (fun c => { c with relock := true })

/-- The bypass opens and both links train from step 1 (R449, R456). The address and the rest of an enumeration are gone. -/
def ringTrain (s : State) : State :=
  let s1 := s.each [0, 1] (fun x s => (trainLink x s).modLink x (fun l => { l with cap := 0, failed := false, stray := false, noEnum := false }))
  let s2 := s1.modCsn (fun c => { c with closed := false, listen := false, relock := false, fwd := false, retrainAt := none, far := 0xFF })
  let s3 := ((s2.put .CSN_STAT_ADDR (if isHead s then 0 else 0xFF)).put .CSN_STAT_N 0).put .CSN_STAT_RING 0
  csState csTraining (wr Reg.CSN_HOPS 0xFFFF ((s3.put .CSN_STAT_HEALED 0).put .CSN_STAT_ERR 0))

/-- The present phase has lasted `n` clock edges. -/
def phasePast (n : Nat) (s : State) : Bool := decide (s.csn.phaseAt + n ≤ clk s)
def phaseBegin (s : State) : State := s.modCsn (fun c => { c with phaseAt := clk s })

/-- JOIN_LISTEN_EXPIRY (R449): 2 ms of listening are over; `heard`: time frames of a running ring. -/
def execJoinListenExpiry (heard : Bool) (s : State) : Out :=
  .next (let s0 := ringStart s
    if ¬ s.csn.listen ∨ ¬ phasePast (2 * tickMs) s then s0
    else if heard then csState csJoinWait (s0.modCsn (fun c => { c with listen := false }))
    else ringTrain s0)

/-- A link is measured again (R453): 16 probes leave, with their departure tick. -/
def measure (x : Nat) (s : State) : State :=
  if s.csn.closed ∨ ¬ linkUpR s x then s
  else (s.modLink x (fun l => { l with meas := some [], at_ := clk s })).modCsn (fun c => { c with
    sent := c.sent ++ (List.range 16).map (fun i => (x, { ty := 0x0D, src := myAddr s, w1 := wd i, data := words64 (256 * now s) ++ words64 0 })) })

/-- RING_RELOCK (R450): with the epoch heard equal to its own, the module locks its receivers, opens its bypass and measures its links anew (R453); else it
waits. -/
def execRingRelock (epoch : BitVec 16) (s : State) : Out :=
  .next (let s0 := ringStart s
    if ringBarred s ∨ ¬ (s.csn.relock ∨ (s.get .CSN_STAT_STATE = csJoinWait ∧ s.get .CSN_EPOCH_EPOCH ≠ 0 ∧ s.get .CSN_STAT_ADDR ≠ 0xFF)) then s0
    else if s.get .CSN_EPOCH_EPOCH = epoch.toNat then
      let s1 := s0.each [0, 1] (fun x s => if s.get (.CSN_LK_STAT_GEN x) = 0 then s else s.put (.CSN_LK_STAT_UP x) 1)
      let s2 := csState csRunning ((s1.put .CSN_STAT_ERR 0).modCsn (fun c => { c with closed := false, relock := false }))
      s2.each [0, 1] measure
    else if s.csn.relock then csState csJoinWait ((s0.put .CSN_STAT_ERR 4).modCsn (fun c => { c with relock := false }))
    else s0)

/-- RELOCK_TIMEOUT (R450): a receiver has not locked within 1 ms. -/
def execRelockTimeout (s : State) : Out :=
  .next (if s.csn.relock ∧ phasePast tickMs s then ringClose csJoinWait ((ringStart s).put .CSN_STAT_ERR 4) else ringStart s)

/-- LINK_TRAIN_START (R451, R452): a link whose training has rested for 100 ms begins step 1. -/
def execLinkTrainStart (x : Fin 2) (s : State) : Out :=
  .next (let s0 := ringStart s
    if s.csn.closed ∨ linkUpR s x ∨ s.get (.CSN_LK_STAT_STEP x) ≠ 0 ∨ clk s < (s.link x).at_ + 100 * tickMs then s0 else trainLink x s0)

/-- The generations that a link offers go up to this (R451, R452). -/
def genOffer (s : State) (x : Nat) : Nat :=
  let m := max 1 (s.get .CSN_CFG_GEN_MAX)
  if (s.link x).cap = 0 then m else min m (s.link x).cap

/-- Step 4 or 5 of a link fails (R452). -/
def stepFail (x : Nat) (s : State) : State :=
  let g := s.get (.CSN_LK_STAT_GEN x)
  let s1 := ((s.inc (.CSN_LK_FAIL_FALLBACK x)).put (.CSN_LK_STAT_UP x) 0).modLink x (fun l => { l with tries := 0, meas := none, at_ := clk s })
  if 1 < g then (s1.put (.CSN_LK_STAT_STEP x) 3).modLink x (fun l => { l with cap := g - 1 })
  else s1.put (.CSN_LK_STAT_STEP x) 0

/-- Mean one-way latency of 16 round trips less turnaround, and whether the results lie within 256 units (R451, R453). -/
def latMean (l : List Nat) : Nat := l.sum / (2 * max 1 l.length)
def latTight (l : List Nat) : Bool := l.all (fun a => l.all (fun b => decide (a ≤ b + 512)))

/-- A waiting ENUM leaves by the other port once that port is up (R454). -/
def enumFwd (s : State) : State :=
  let y := otherPort s.csn.up0
  if s.csn.fwd ∧ carries s y then
    (sendOn y { ty := 0x08, flags := 1, dst := 255, src := myAddr s, w1 := wd (s.get .CSN_STAT_ADDR), w2 := wd (s.get .CSN_EPOCH_EPOCH) } s).modCsn
      (fun c => { c with fwd := false })
  else s

/-- A link of a training module has settled: ENUM_DELAY runs from the last of them (R454). -/
def trainedAt (s : State) : State := if s.get .CSN_STAT_STATE = csTraining then phaseBegin s else s

/-- LINK_TRAIN_STEP_DONE (R451): the present step of link `x` succeeds. `v`: the polarity found (step 2), the highest generation the partner offers
(step 3), the preset chosen (step 4). `rt`: the 16 round trips less turnaround (step 5). -/
def stepDone (x v : Nat) (rt : List Nat) (s : State) : State :=
  let next := fun (k : Nat) (s : State) => (s.put (.CSN_LK_STAT_STEP x) k).modLink x (fun l => { l with tries := 0, at_ := clk s })
  match s.get (.CSN_LK_STAT_STEP x) with
  | 1 => next 2 (s.put (.CSN_LK_STAT_NOPART x) 0)
  | 2 => next 3 (s.put (.CSN_LK_STAT_INV x) (v % 2))
  | 3 => next 4 (s.put (.CSN_LK_STAT_GEN x) (max 1 (min v (genOffer s x))))
  | 4 => next 5 (s.put (.CSN_LK_STAT_PRESET x) (v % 8))
  | 5 =>
    if rt.length ≠ 16 ∨ ¬ latTight rt then s
    else
      let s1 := next 0 ((s.put (.CSN_LK_STAT_UP x) 1).put (.CSN_LK_LAT_LAT x) (latMean rt))
      let s2 := enumFwd (trainedAt (s1.modLink x (fun l => { l with stray := l.failed })))
      if x = s.get .CSN_STAT_TIME_PORT then ringMeasured s2 else s2
  | _ => s
def execLinkTrainStepDone (x : Fin 2) (v : Nat) (rt : List Nat) (s : State) : Out :=
  .next (if s.csn.closed then ringStart s else stepDone x v rt (ringStart s))

/-- Tries of a step before it fails (R451). -/
def stepTries (k : Nat) : Nat := if k = 4 then 1 else 3

/-- How long a try of step `k` takes before it fails, after `n` failed ones (R451): step 1 is tried every 100 ms after five. A measurement of a link that is up is a
try of step 5 (R453). -/
def tryTicks (k n : Nat) : Nat :=
  if k = 1 then (if n < 5 then 2 * tickMs else 100 * tickMs)
  else if k = 2 ∨ k = 3 then tickMs
  else if k = 4 then 20 * tickMs else 2 * tickMs

/-- A measurement of a link that is up fails a try (R451, R453). -/
def measFail (x : Nat) (s : State) : State :=
  let n := (s.link x).tries + 1
  let s1 := (s.inc (.CSN_LK_FAIL_TRIES x)).modLink x (fun k => { k with tries := n })
  if n < 3 then measure x s1 else stepFail x s1

/-- LINK_TRAIN_TIMEOUT (R451, R452): a try of the present step fails. -/
def stepTimeout (x : Nat) (s : State) : State :=
  let k := s.get (.CSN_LK_STAT_STEP x)
  let l := s.link x
  if clk s < l.at_ + tryTicks k l.tries then s
  else if k = 0 then (if l.meas.isSome then measFail x s else s)
  else
    let n := l.tries + 1
    let s1 := (s.inc (.CSN_LK_FAIL_TRIES x)).modLink x (fun l => { l with tries := n, at_ := clk s })
    if k = 1 then
      (if 5 ≤ n then (trainedAt (s1.put (.CSN_LK_STAT_NOPART x) 1)).modCsn (fun c => if x = otherPort c.up0 then { c with fwd := false } else c) else s1)
    else if n < stepTries k then s1
    else if k ≤ 3 then trainLink x s1
    else stepFail x s1
def execLinkTrainTimeout (x : Fin 2) (s : State) : Out :=
  .next (if s.csn.closed then ringStart s else stepTimeout x (ringStart s))

/-- RECEIVER_RELOCK (R447, R453): the receiver of link `x` has locked again within 100 µs. -/
def execReceiverRelock (x : Fin 2) (s : State) : Out := .next (measure x (ringStart s))

/-- A reply to a probe completes a result; 16 complete a measurement (R453). -/
def probeReply (x rt : Nat) (s : State) : State :=
  match (s.link x).meas with
  | none => s
  | some l =>
    let l1 := l ++ [rt]
    if l1.length < 16 then s.modLink x (fun k => { k with meas := some l1 })
    else if latTight l1 then
      let s1 := (s.put (.CSN_LK_LAT_LAT x) (latMean l1)).modLink x (fun k => { k with meas := none, tries := 0 })
      if x = s.get .CSN_STAT_TIME_PORT then ringMeasured s1 else s1
    else measFail x s

/-- PROBE (R453, R462): a probe (W2 = 0) is answered with the turnaround `r`; a reply ends with the arrival tick `a`, in 1/256 tick. -/
def execProbe (x : Fin 2) (f : RFrame) (a : BitVec 64) (r : BitVec 32) (s : State) : Out :=
  .next (let s0 := ringStart s
    if s.csn.closed ∨ ¬ linkUpR s x ∨ f.ty ≠ 0x0D then s0
    else if f.w2 = 0 then
      s0.modCsn (fun c => { c with sent := [(x.val, { f with src := myAddr s, w2 := r, data := f.data.take 2 ++ words64 a.toNat })] })
    else probeReply x (a.toNat - num64 f.data - f.w2.toNat) s0)

/-- REMEASURE (R453): the module measures the link on which the frame came, and forwards it. -/
def execRemeasure (x : Fin 2) (f : RFrame) (s : State) : Out := .next (ringRecv x 0x0E f (fun s => measure x (forward x f s)) s)

/-- PAUSE (R462): present, or absent for 1 µs, when the frames it held leave. -/
def pauseSet (x : Nat) (on : Bool) (s : State) : State :=
  let s1 := s.modLink x (fun l => { l with paused := on && linkUpR s x })
  if on then s1 else (s1.each (s.link x).held (sendOn x)).modLink x (fun l => { l with held := [] })
def execPause (x : Fin 2) (on : Bool) (s : State) : Out := .next (pauseSet x on (ringStart s))

/-- The module decides whether it is the head (R442). -/
def headNow (s : State) : Bool := if s.get .CSN_CFG_HEAD_SRC = 1 then true else if s.get .CSN_CFG_HEAD_SRC = 2 then false else s.csn.land
def headqBad (s : State) : Bool :=
  (s.is .CSN_HEADQ_EXP_EN && !qVar s (s.get .CSN_HEADQ_EXP_Q)) || (s.is .CSN_HEADQ_ALM_EN && !qFixed s (s.get .CSN_HEADQ_ALM_Q) 16)
def csnShow (s : State) : State := s.putB .CSN_STAT_CFG_ADJ (s.csn.adj != 0 || headqBad s)
/-- A write of `CSN_CFG` (R7, R442, R446, R470, R472): HEAD_SRC 3 is 0 and GEN_MAX 0 is 1, with CFG_ADJ; EN opens or closes the ring; a bit that is set already
does not rise when ALARM_EN is set. -/
def csnCfgWrite (w : Word) (s : State) : State :=
  let s1 := store Reg.CSN_CFG Msk.CSN_CFG w s
  let b0 := decide (bits w 31 30 = 3)
  let b1 := decide (bits w 25 24 = 0)
  let s2 := if b0 then s1.put .CSN_CFG_HEAD_SRC 0 else s1
  let s3 := (if b1 then s2.put .CSN_CFG_GEN_MAX 1 else s2).modCsn (fun c => { c with adj := b2n b0 + 2 * b2n b1 })
  let seen := if s.is .CSN_CFG_ALARM_EN then s3.csn.alSeen else s3.csn.alSeen ||| rd s Reg.MOD_IRQ
  let s4 := csnShow ((s3.modCsn (fun c => { c with alSeen := seen })).putB .CSN_STAT_HEAD (headNow s3))
  if s.is .CSN_CFG_EN ∧ ¬ s4.is .CSN_CFG_EN then ringClose csOff s4
  else if ¬ s.is .CSN_CFG_EN ∧ s4.is .CSN_CFG_EN then ringListen s4
  else s4
def csnHeadqWrite (w : Word) (s : State) : State := csnShow (store Reg.CSN_HEADQ Msk.CSN_HEADQ w s)

/-- A write of `CSN_ALM_EN` (R470): a bit that is set already does not rise when it is enabled. -/
def csnAlmWrite (w : Word) (s : State) : State :=
  let old := rd s Reg.CSN_ALM_EN
  (store Reg.CSN_ALM_EN Msk.CSN_ALM_EN w s).modCsn (fun c => { c with alSeen := c.alSeen ||| (rd s Reg.MOD_IRQ &&& ~~~ old) })

/-- The ring takes effect with the image (R442, R449): the head is decided, and the module listens. -/
def ringApply (land : Bool) (s : State) : State :=
  let s1 := s.modCsn (fun c => { c with land := land })
  let s2 := s1.putB .CSN_STAT_HEAD (headNow s1)
  ringListen (s2.put .CSN_STAT_ADDR (if headNow s1 then 0 else 0xFF))

end Sys2Proof.Machine
end

