-- ==== Sys2Proof/Machine/RingFrames.lean ====
section
/-! DEFINITION. Enumeration, healing, retraining, ring time, tokens, export and alarms of the Casen ring (spec/14, R442, R443, R454 to R460, R462,
R468 to R470; spec/09, R277, R279, R283, R284; spec/08, R260). -/

namespace Sys2Proof.Machine

/-- The ring epoch as frames carry it. -/
def epochW (s : State) : Word := wd (s.get .CSN_EPOCH_EPOCH)

/-- A frame carries this module's ring epoch. -/
def sameEpoch (s : State) (f : RFrame) : Bool := f.w2.toNat % 65536 == s.get .CSN_EPOCH_EPOCH

/-- A broadcast of the head. -/
def headFrame (s : State) (ty : Byte) (w1 w2 : Word) (data : List Word) : RFrame :=
  { ty := ty, flags := 1, dst := 255, src := myAddr s, w1 := w1, w2 := w2, data := data }

/-- A frame of a member to the head. -/
def memberFrame (s : State) (ty flags : Byte) (w1 w2 : Word) (data : List Word) : RFrame :=
  { ty := ty, flags := flags, dst := 0, src := myAddr s, w1 := w1, w2 := w2, data := data }

/-- The module's serial number (R57) and `MOD_ID`, as a ROSTER payload holds them. -/
def serialWords (s : State) : List Word := (List.range 4).map (fun i => wd (otpNat s (0x074 + 4 * i) 4))

/-- A remote access ends with its RESULT (R463, R467); MOD_IRQ.RING is set. -/
def raEnd (res : Nat) (s : State) : State :=
  raiseIrq irqRing (((s.modCsn (fun c => { c with raReq := none })).put .CSN_RA_STAT_BUSY 0).put .CSN_RA_STAT_RESULT res)

/-- Stores an entry of the roster (R477). -/
def rosterPut (m : Nat) (ser : List Word) (id : Word) (last : Bool) (gen : Nat) (lat : Word) (s : State) : State :=
  let s1 := s.each (List.range 4) (fun i s => wr (Reg.CSN_ROS_SER m i) (ser.getD i 0) s)
  let s2 := (((wr (Reg.CSN_ROS_ID m) id s1).put (.CSN_ROS_STAT_PRESENT m) 1).putB (.CSN_ROS_STAT_LAST m) last).put (.CSN_ROS_STAT_GEN m) gen
  wr (Reg.CSN_ROS_LAT m) lat s2

/-- Empties the roster (R477): every entry at its reset value. -/
def rosterClear (s : State) : State :=
  { s with regs := s.regs.filter (fun p => !(decide (Reg.CSN_ROS_SER 0 0 ≤ p.1) && decide (p.1 < Reg.CSN_ROS_SER 251 0))) }

/-- A link has finished its training for R454: it is up, or counts as having no partner. -/
def linkSettled (s : State) (x : Nat) : Bool := linkUpR s x || s.is (.CSN_LK_STAT_NOPART x)

/-- The head can enumerate through a port (R442, R454). -/
def enumPort (s : State) (x : Nat) : Bool := carries s x && !(s.link x).noEnum

/-- The head sends ENUM into a side (R443, R454). -/
def enumSide (x addr : Nat) (s : State) : State :=
  sendOn x (headFrame s 0x08 (wd addr) (epochW s) []) ((phaseBegin s).modCsn (fun c => { c with side := x, count := addr }))

/-- The head ends its enumeration (R454): ENUM_DONE is broadcast. -/
def enumFinish (n : Nat) (ring : Bool) (s : State) : State :=
  csState csTimeLock (sendBoth (headFrame s 0x0A (wd (n + 256 * b2n ring)) (epochW s) []) ((s.put .CSN_STAT_N n).putB .CSN_STAT_RING ring))

/-- Enumeration of a side ends (R443, R454): the LK1 side follows the LK2 side. -/
def sideEnd (s : State) : State :=
  let n := s.csn.count
  if s.csn.side = 1 then
    let s1 := s.modCsn (fun c => { c with n2 := n })
    if enumPort s1 0 then enumSide 0 n s1 else enumFinish n false s1
  else enumFinish n false s

/-- The head's ring is in enumeration. -/
def enumRuns (s : State) : Bool := isHead s && s.get .CSN_STAT_STATE == csEnum

/-- ENUM_START (R454): the head's links have finished training, and ENUM_DELAY has passed. -/
def enumStart (s : State) : State :=
  if ¬ isHead s ∨ s.csn.closed ∨ s.get .CSN_STAT_STATE ≠ csTraining ∨ ¬ (linkSettled s 0 ∧ linkSettled s 1) ∨ ¬ (enumPort s 0 ∨ enumPort s 1)
      ∨ ¬ phasePast (s.get .CSN_CFG_ENUM_DELAY * tickMs) s then s
  else
    let s1 := csState csEnum (rosterClear (s.incWrap .CSN_EPOCH_EPOCH))
    let s2 := rosterPut 0 (serialWords s) (rd s Reg.MOD_ID) false 0 0 (((s1.put .CSN_STAT_ADDR 0).put .CSN_STAT_N 0).put .CSN_STAT_RING 0)
    let s3 := s2.modCsn (fun c => { c with n2 := 0, count := 0, cut := none })
    if enumPort s3 1 then enumSide 1 0 s3 else enumSide 0 0 s3
def execEnumStart (s : State) : Out := .next (enumStart (ringStart s))

/-- A head receives ENUM (R442, R443): its own, sent from LK2, closes the ring at LK1; any other tells of a second head. -/
def enumHead (x : Nat) (f : RFrame) (s : State) : State :=
  if enumRuns s ∧ s.csn.side = 1 ∧ x = 0 ∧ sameEpoch s f then
    let n := f.w1.toNat % 256
    enumFinish n true (s.modCsn (fun c => { c with n2 := n, count := n }))
  else (s.put .CSN_STAT_ERR 1).modLink x (fun l => { l with noEnum := true })

/-- A member receives ENUM (R443, R454): it takes the address after the sender's, sends ROSTER, and forwards ENUM once it can. -/
def enumMember (x : Nat) (f : RFrame) (s : State) : State :=
  let m := f.w1.toNat % 256 + 1
  if s.get .CSN_STAT_ADDR ≠ 0xFF then s
  else if 250 < m then ringClose csJoinWait (s.put .CSN_STAT_ERR 2)
  else
    let y := otherPort x
    let last := s.is (.CSN_LK_STAT_NOPART y) && !linkUpR s y
    let s1 := ((s.put .CSN_STAT_ADDR m).put .CSN_STAT_UP_PORT x).put .CSN_STAT_TIME_PORT x
    let s2 := putHops y 0xFF (putHops x m (s1.put .CSN_EPOCH_EPOCH (f.w2.toNat % 65536)))
    let s3 := csState csEnum (s2.modCsn (fun c => { c with up0 := x, time0 := x, far := f.src.toNat, fwd := !last }))
    enumFwd (sendUp (memberFrame s3 0x09 (if last then 4 else 0) (wd (m + 256 * s.get (.CSN_LK_STAT_GEN x)))
      (rd s (Reg.CSN_LK_LAT x)) (serialWords s ++ [rd s Reg.MOD_ID])) s3)

/-- ENUM (R442, R454). -/
def execEnum (x : Fin 2) (f : RFrame) (s : State) : Out :=
  .next (ringRecv x 0x08 f (fun s => if isHead s then enumHead x f s else enumMember x f s) s)

/-- ROSTER (R454, R477): the head records it, and LAST ends a side; a member forwards it. -/
def rosterHead (f : RFrame) (s : State) : State :=
  let m := f.w1.toNat % 256
  if m = 0 ∨ 250 < m ∨ s.get .CSN_STAT_STATE < csEnum then s
  else
    let last := bitAt (wd f.flags.toNat) 2
    let s1 := rosterPut m (f.data.take 4) (f.data.getD 4 0) last (bits f.w1 9 8) f.w2 s
    if enumRuns s then
      let s2 := (phaseBegin s1).modCsn (fun c => { c with count := max c.count m })
      if last then sideEnd s2 else s2
    else s1
def execRoster (x : Fin 2) (f : RFrame) (s : State) : Out :=
  .next (ringRecv x 0x09 f (fun s => if isHead s then rosterHead f s else forward x f s) s)

/-- ENUM_TIMEOUT (R454): 2 ms without a ROSTER frame end the side. -/
def execEnumTimeout (s : State) : Out := .next (if enumRuns s ∧ phasePast (2 * tickMs) s then sideEnd (ringStart s) else ringStart s)

/-- Step 7 is over (R455). -/
def timeLockEnd (s : State) : State := if s.get .CSN_STAT_STATE = csTimeLock then csState csRunning s else s

/-- Hops to the head by the path of the enumeration and, in a ring, by the other (R443, R454). -/
def hopsOther (s : State) : Nat := if s.is .CSN_STAT_RING then s.get .CSN_STAT_N + 1 - s.get .CSN_STAT_ADDR else 0xFF

/-- ENUM_DONE (R454, R455): count of members, and in a ring the hop count of the other port and the time port. A member whose source is
not RING, or whose unit is LOCKED, has no step 7. -/
def enumDone (f : RFrame) (s : State) : State :=
  if ¬ sameEpoch s f ∨ s.get .CSN_STAT_STATE ≠ csEnum then s
  else
    let s1 := (s.put .CSN_STAT_N (f.w1.toNat % 256)).putB .CSN_STAT_RING (bitAt f.w1 8)
    let s2 := putHops (otherPort s1.csn.up0) (hopsOther s1) s1
    let tp := if s1.is .CSN_STAT_RING ∧ hopsOther s1 < s1.get .CSN_STAT_ADDR then otherPort s1.csn.up0 else s1.csn.up0
    let s3 := (s2.put .CSN_STAT_TIME_PORT tp).modCsn (fun c => { c with time0 := tp })
    csState (if s.get .TU_SRC_SRC = 2 ∧ s.get .TU_STAT_STATE ≠ 2 then csTimeLock else csRunning) s3
def execEnumDone (x : Fin 2) (f : RFrame) (s : State) : Out :=
  .next (ringRecv x 0x0A f (fun s => if isHead s then s else forward x f (enumDone f s)) s)

/-- A record of the head's alarm queue (R470), and `MOD_IRQ.RING`. -/
def almRecord (m code : Nat) (w2 : Word) (t : List Word) (s : State) : State :=
  let q := s.get .CSN_HEADQ_ALM_Q
  let e := [wd (mk [(m, 24), (code, 16)]), w2, t.getD 0 0, t.getD 1 0]
  raiseIrq irqRing (if s.is .CSN_HEADQ_ALM_EN then qPushFixed 16 q .active [e] s else s)

/-- A link or time alarm of this module (R470): a member sends it upstream, the head writes its own record with m = 0. -/
def sendAlarm (code : Nat) (w2 : Word) (s : State) : State :=
  if isHead s then almRecord 0 code w2 (words64 (now s)) s
  else sendUp (memberFrame s 0x07 0 (wd (code * 2 ^ 24)) w2 (words64 (now s))) s

/-- Number of a ring's hop from the addresses at its ends: hop i joins i − 1 and i, and hop N + 1 joins N and the head. -/
def hopIx (n a b : Nat) : Option Nat :=
  let lo := min a b
  let hi := max a b
  if hi = lo + 1 then some hi else if lo = 0 ∧ hi = n ∧ 1 < n then some (n + 1) else none

/-- The head broadcasts REROUTE naming a hop (R459), or none (R460). -/
def sendReroute (a b : Nat) (s : State) : State :=
  sendBoth (headFrame s 0x0B (wd (a % 256 * 256 + b % 256)) (epochW s) [])
    (s.modCsn (fun c => { c with cut := if a = 0xFF ∧ b = 0xFF then none else hopIx (s.get .CSN_STAT_N) a b }))

/-- TIME_LOCK_TIMEOUT (R451, R455): 200 ms of step 7 are over. A member that has not locked shows TIME_FAIL, sends its alarm, whose W2 the spec
does not state, and runs on. -/
def execTimeLockTimeout (s : State) : Out :=
  .next (let s0 := ringStart s
    if s.get .CSN_STAT_STATE ≠ csTimeLock ∨ ¬ phasePast (200 * tickMs) s then s0
    else if isHead s then csState csRunning s0
    else sendAlarm 4 (freeNow s) (csState csRunning ((s0.put .CSN_STAT_ERR 3).useFree)))

/-- Address at the far end of port `x`, 0xFF where the module does not know it (R462). -/
def farAddr (s : State) (x : Nat) : Nat :=
  let n := s.get .CSN_STAT_N
  if n = 0 then 0xFF
  else if isHead s then
    (if x = 1 then (if s.csn.n2 = 0 then 0xFF else 1)
     else if s.is .CSN_STAT_RING then n
     else if s.csn.n2 < n then s.csn.n2 + 1 else 0xFF)
  else if x = s.csn.up0 then s.csn.far
  else if s.get .CSN_STAT_ADDR < n then s.get .CSN_STAT_ADDR + 1
  else if s.is .CSN_STAT_RING then 0 else 0xFF

/-- A member takes its up port and time port from the other port (R459). -/
def switchUp (s : State) : State :=
  let x := upPort s
  let y := otherPort x
  putHops x 0xFF (((s.put .CSN_STAT_UP_PORT y).put .CSN_STAT_TIME_PORT y).put .CSN_STAT_HEALED 1)

/-- A link goes down (R458, R459). -/
def linkDown (x : Nat) (cv : Bool) (s : State) : State :=
  if s.csn.closed ∨ ¬ linkUpR s x then s
  else
    let s1 := (s.inc (.CSN_LK_ERR_DOWNS x)).when cv (·.inc (.CSN_LK_ERR_CV x))
    let enumd := decide (csEnum ≤ s.get .CSN_STAT_STATE)
    let s2 := (trainLink x s1).modLink x (fun l => { l with cap := 0, failed := l.failed || enumd, stray := false })
    let w2 := wd (256 * x + farAddr s x)
    if ¬ enumd then s2
    else if isHead s then sendReroute 0 (farAddr s x) (sendAlarm 2 w2 s2)
    else
      let s3 := if s.is .CSN_STAT_RING ∧ x = upPort s ∧ carries s2 (otherPort x) then switchUp s2 else s2
      sendAlarm 2 w2 s3

/-- LINK_DOWN (R458): more than 100 µs without symbol lock, or, with `cv`, more than 64 code violations within 1 ms. -/
def execLinkDown (x : Fin 2) (cv : Bool) (s : State) : Out := .next (linkDown x cv (ringStart s))

/-- The up path of a member crosses hop `i` (R459): by the enumeration's port it takes hops 1 to m, by the other hops m + 1 to N + 1. -/
def crosses (s : State) (i : Nat) : Bool :=
  if upPort s = s.csn.up0 then decide (i ≤ s.get .CSN_STAT_ADDR) else decide (s.get .CSN_STAT_ADDR < i)

/-- A member receives REROUTE (R459, R460). -/
def reroute (f : RFrame) (s : State) : State :=
  let a := bits f.w1 15 8
  let b := bits f.w1 7 0
  if ¬ sameEpoch s f ∨ s.get .CSN_STAT_ADDR = 0xFF then s
  else if a = 0xFF ∧ b = 0xFF then
    let s1 := ((s.put .CSN_STAT_UP_PORT s.csn.up0).put .CSN_STAT_TIME_PORT s.csn.time0).put .CSN_STAT_HEALED 0
    putHops (otherPort s.csn.up0) (hopsOther s) (putHops s.csn.up0 (s.get .CSN_STAT_ADDR) s1)
  else
    match hopIx (s.get .CSN_STAT_N) a b with
    | some i => if s.is .CSN_STAT_RING ∧ crosses s i ∧ carries s (otherPort (upPort s)) then switchUp s else s
    | none => s

/-- REROUTE (R459, R460): a member acts on it and forwards it downstream. -/
def execReroute (x : Fin 2) (f : RFrame) (s : State) : Out :=
  .next (ringRecv x 0x0B f (fun s => if isHead s then s else forward x f (reroute f s)) s)

/-- A down link has completed step 5 again (R460). -/
def linkUpAgain (x : Nat) (farEpoch : Nat) (s : State) : State :=
  if s.csn.closed ∨ ¬ linkUpR s x ∨ ¬ (s.link x).failed then s
  else
    let same := farEpoch == s.get .CSN_EPOCH_EPOCH
    let s1 := s.modLink x (fun l => { l with failed := !same, stray := !same })
    let w2 := wd (256 * x + farAddr s x)
    if isHead s then
      let s2 := sendAlarm 3 w2 s1
      if same then sendReroute 0xFF 0xFF s2 else s2
    else sendUp (memberFrame s1 0x07 (if same then 0 else 8) (wd (3 * 2 ^ 24)) w2 (words64 (now s))) s1

/-- LINK_UP (R460), with the ring epoch of the far end. -/
def execLinkUp (x : Fin 2) (farEpoch : BitVec 16) (s : State) : Out := .next (linkUpAgain x farEpoch.toNat (ringStart s))

/-- A write of `CSN_CMD` (R456, R474). -/
def csnCmdWrite (w : Word) (s : State) : State :=
  let op := bits w 3 0
  if op = 0 then s
  else if op = 1 ∧ isHead s then
    let t := (now s + 245760 + 63) / 64 * 64
    let f := headFrame s 0x0C 0 (epochW s) (words64 t)
    sendBoth f (sendBoth f (sendBoth f (s.modCsn (fun c => { c with retrainAt := some t }))))
  else s.set1 .CSN_STAT_IGNORED

/-- RETRAIN (R456): the frame leaves three times, 1 ms apart. -/
def execRetrain (r : Req) (w : Word) (s : State) : Out := .next (regWrite r Reg.CSN_CMD Msk.CSN_CMD w csnCmdWrite (ringStart s))

/-- RETRAIN_FRAME (R456): heard on a link, or by the taps in JOIN_WAIT. -/
def execRetrainFrame (x : Fin 2) (f : RFrame) (s : State) : Out :=
  .next (let arm := fun (s : State) => if isHead s then s else s.modCsn (fun c => { c with retrainAt := some (num64 f.data) })
    if s.csn.closed then
      (if s.get .CSN_STAT_STATE = csJoinWait ∧ rframeOk f ∧ f.ty = 0x0C then arm (ringStart s) else ringStart s)
    else ringRecv x 0x0C f (fun s => forward x f (arm s)) s)

/-- RETRAIN_EXECUTE (R456): at the target tick. -/
def execRetrainExecute (s : State) : Out :=
  .next (let s0 := ringStart s
    match s.csn.retrainAt with
    | some t =>
      if t ≤ now s then
        (if ringBarred s then ringClose csOff (s0.modCsn (fun c => { c with retrainAt := none })) else ringTrain s0)
      else s0
    | none => s0)

/-- Time frames come every PER × 0.25 ms, and every 0.25 ms in step 7 (R277, R455); `none`: none at all. -/
def tfTicks (s : State) : Option Nat :=
  if s.get .CSN_STAT_STATE = csTimeLock then some 12288 else if s.get .TU_RING_CFG_PER = 0 then none else some (12288 * s.get .TU_RING_CFG_PER)

/-- Whether a time frame is due: none has been sent, or a period ago. -/
def tfDue (s : State) : Bool :=
  match tfTicks s, s.tu.tfAt with
  | none, _ => false
  | some _, none => true
  | some n, some t => decide (t + n ≤ clk s)

/-- RING_TIME_FRAME_SEND (R277, R455): the head, at its period. -/
def execRingTimeFrameSend (s : State) : Out :=
  .next (let s0 := ringStart s
    if isHead s ∧ tfDue s then
      sendBoth (headFrame s 0x03 (wd s.csn.tfNo) (epochW s) (words64 (now s) ++ words64 0))
        ((s0.modCsn (fun c => { c with tfNo := (c.tfNo + 1) % 2 ^ 32 })).modTu (fun t => { t with tfAt := some (clk s) }))
    else s0)

/-- A member with source RING takes a sample from a time frame (R277, R279, R455). `frac`: the arrival tick's part in 1/256 tick. -/
def timeSample (x : Nat) (f : RFrame) (frac : Nat) (s : State) : State :=
  if x ≠ s.get .CSN_STAT_TIME_PORT ∨ s.get .TU_STAT_SRC_EFF ≠ 2 ∨ ¬ servoRuns s ∨ ¬ sameEpoch s f then s
  else
    let tx := num64 f.data
    let lc := num64 (f.data.drop 2)
    let off : Int := ((now s : Int) - tx) * 256 + frac - (lc + s.get (.CSN_LK_LAT_LAT x))
    let s1 := ringSample off tx s
    let s2 := if s1.tu.wantMeas ∧ ¬ s.tu.wantMeas then measure x (sendOn x (memberFrame s1 0x0E 0 (wd (s.get .CSN_STAT_ADDR)) 0 []) s1) else s1
    if s2.get .TU_STAT_STATE = 2 then timeLockEnd s2 else s2

/-- A time frame as it leaves again: LC has grown by the latency of the hop it came by and by `delay`, both in 1/256 tick (R277). -/
def timeOnward (x : Nat) (f : RFrame) (delay : Nat) (s : State) : RFrame :=
  { f with data := f.data.take 2 ++ words64 ((num64 (f.data.drop 2) + s.get (.CSN_LK_LAT_LAT x) + delay) % 2 ^ 64) }

/-- RING_TIME_FRAME (R277, R279). -/
def execRingTimeFrame (x : Fin 2) (f : RFrame) (frac : Byte) (delay : BitVec 32) (s : State) : Out :=
  .next (ringRecv x 0x03 f (fun s => if isHead s then s else timeSample x f frac.toNat (forward x (timeOnward x f delay.toNat s) s)) s)

/-- The first of the tokens being sent whose next copy is due (R283). -/
def copyDue (s : State) : Option (Token × Nat × Nat) := s.tu.out.find? (fun p => decide (p.2.1 ≤ if p.2.2 = 0 then now s else clk s))

/-- The tokens being sent once the copy that `p` lists has left: the next copy follows 1 ms later. -/
def copyNext (s : State) (p : Token × Nat × Nat) : List (Token × Nat × Nat) :=
  if p.2.2 < s.get .TU_TOKEN_CFG_REP then s.tu.out.map (fun q => if q = p then (p.1, clk s + tickMs, p.2.2 + 1) else q) else s.tu.out.erase p

/-- TOKEN_COPY_SEND (R283): a copy that is due leaves the head; the next one follows 1 ms after it, up to REP + 1 in all. -/
def execTokenCopySend (s : State) : Out :=
  .next (let s0 := ringStart s
    match copyDue s with
    | some (k, t, i) =>
      sendBoth (headFrame s (if k.kind = 1 then 0x04 else 0x05) (wd (k.id * 65536 + i % 4)) 0 (words64 k.tgt))
        (s0.modTu (fun u => { u with out := copyNext s (k, t, i) }))
    | none => s0)

/-- RING_TOKEN_RECEIVE (R284): a member acts on the first copy, and forwards each. -/
def execRingTokenReceive (x : Fin 2) (f : RFrame) (s : State) : Out :=
  .next (let k : Token := { kind := f.ty.toNat - 3, id := bits f.w1 31 16, tgt := num64 f.data }
    if f.ty = 0x04 ∨ f.ty = 0x05 then ringRecv x f.ty.toNat f (fun s => if isHead s then s else forward x f (tokenReceive k s)) s
    else ringStart s)

/-- Writes an exported entry to the head's export queue (R469). -/
def expWrite (m q : Nat) (seq : Word) (e : List Word) (len : Nat) (s : State) : State :=
  let h := s.get .CSN_HEADQ_EXP_Q
  if ¬ s.is .CSN_HEADQ_EXP_EN ∨ ¬ qVar s h then s
  else
    let ent := varEntry (8 + len) (5 * 256 + m) (wd (now s)) (wd (mk [(m, 24), (q, 16), (len, 0)]) :: seq :: e)
    let s1 := qPushVar h .active ent s
    if qAccepts s h .active (4 * ent.length) ∧ 4 * ent.length ≤ regionBytes s h then s1 else s1.inc .CSN_EXP_STAT_LOST

/-- The entries of a queue that export has still to pass (R260). -/
def expReady (s : State) (q : Nat) : List QEnt := (s.queue q).ents.filter (fun e => e.vis && !e.exp)

/-- The lowest queue with an entry to export. -/
def expQueue (s : State) : Option Nat :=
  (List.range 128).find? (fun q => s.is (.Q_CFG_EXPORT q) && qOn s q && !(expReady s q).isEmpty)

/-- Export passes the first `n` entries of a queue; each uses a sequence number (R260). -/
def expPass : Nat → List QEnt → List QEnt
  | 0, l => l
  | n + 1, l => expPass n (markExported l)
def expTaken (q n : Nat) (s : State) : State :=
  wr (Reg.Q_EXPORT q) (rd s (Reg.Q_EXPORT q) + wd n) (qStore q (expPass n (s.queue q).ents) s)

/-- An export frame. -/
def expFrame (s : State) (q len : Nat) (seq : Word) (flags ix : Nat) (data : List Word) : RFrame :=
  { memberFrame s 0x06 (BitVec.ofNat 8 flags) (wd (q * 65536 + len)) seq data with seg := BitVec.ofNat 8 ix }

/-- A member sends the next segment of a long entry; with the last it passes the entry (R468). -/
def expSegment (g : SegOut) (s : State) : State :=
  let last := decide (g.rest.length ≤ 64)
  let s1 := sendUp (expFrame s g.q g.len g.seq (16 * b2n (g.ix == 0) + 32 * b2n last) g.ix (g.rest.take 64)) s
  if last then
    let s2 := s1.modCsn (fun c => { c with seg := none })
    match expHead (s.queue g.q).ents with
    | some e => if e.pos = g.pos ∧ e.len = g.len ∧ rd s (Reg.Q_EXPORT g.q) = g.seq then expTaken g.q 1 s2 else s2
    | none => s2
  else s1.modCsn (fun c => { c with seg := some { g with rest := g.rest.drop 64, ix := g.ix + 1 } })

/-- The module exports from queue `q`, whose head entry is `e` (R468, R469). -/
def expNext (q : Nat) (e : QEnt) (s : State) : State :=
  let seq := rd s (Reg.Q_EXPORT q)
  if 65535 < e.len then (expTaken q 1 s).inc .CSN_SRC_STAT_SKIP
  else if isHead s then expTaken q 1 (expWrite 0 q seq (entWords s q e) e.len s)
  else if qVar s q then expSegment { q := q, pos := e.pos, seq := seq, len := e.len, rest := entWords s q e, ix := 0 } s
  else
    let l := (expReady s q).take (256 / max 1 e.len)
    expTaken q l.length (sendUp (expFrame s q e.len seq 0 0 (l.flatMap (entWords s q))) s)

/-- EXPORT_SEND (R468, R469): a member's next export frame; the head's next entry. -/
def exportSend (s : State) : State :=
  if ¬ isHead s ∧ ¬ (ringTrained s ∧ carries s (upPort s) ∧ ¬ (s.link (upPort s)).paused) then s
  else match s.csn.seg with
    | some g => expSegment g s
    | none => match expQueue s with
      | some q => (match expHead (s.queue q).ents with
        | some e => expNext q e s
        | none => s)
      | none => s
def execExportSend (s : State) : Out := .next (exportSend (ringStart s))

/-- Splits a run of fixed entries. -/
def chunks (k : Nat) : Nat → List Word → List (List Word)
  | 0, _ => []
  | n + 1, l => if l.isEmpty then [] else l.take k :: chunks k n (l.drop k)

/-- The head receives an export frame (R469). -/
def exportHead (f : RFrame) (s : State) : State :=
  let m := f.src.toNat
  let q := bits f.w1 23 16
  let len := bits f.w1 15 0
  let key := m * 256 + q
  let drop := fun (s : State) => s.modCsn (fun c => { c with joins := c.joins.filter (fun p => p.1 ≠ key) })
  let keep := fun (g : SegIn) (s : State) => s.modCsn (fun c => { c with joins := kset {} c.joins key g })
  let first := bitAt (wd f.flags.toNat) 4
  let last := bitAt (wd f.flags.toNat) 5
  let g := kget {} s.csn.joins key
  if first ∧ last then expWrite m q f.w2 f.data len (drop s)
  else if first then (if f.seg = 0 then keep { seq := f.w2, len := len, words := f.data, ix := 1 } (drop s) else drop s)
  else if last ∨ f.seg ≠ 0 then
    (if g.ix ≠ 0 ∧ g.ix = f.seg.toNat ∧ g.seq = f.w2 then
      (if last then expWrite m q f.w2 (g.words ++ f.data) len (drop s)
       else keep { g with words := g.words ++ f.data, ix := g.ix + 1 } s)
     else drop s)
  else
    (chunks (max 1 ((len + 3) / 4)) f.data.length f.data).zipIdx.foldl (fun s p => expWrite m q (f.w2 + wd p.2) p.1 len s) s

/-- EXPORT_RECEIVE (R469): at the head, a frame with a wrong CRC or a bad field is discarded and counted. -/
def execExportReceive (x : Fin 2) (f : RFrame) (crcOk : Bool) (s : State) : Out :=
  .next (let s0 := ringStart s
    if ¬ carries s x then s0
    else if ¬ isHead s then (if crcOk ∧ rframeOk f then forward x f s0 else s0.inc (.CSN_LK_ERR_CRC x))
    else if ¬ crcOk then (s0.inc (.CSN_LK_ERR_CRC x)).inc .CSN_EXP_STAT_BAD
    else if ¬ rframeOk f ∨ 128 ≤ bits f.w1 23 16 then s0.inc (.CSN_LK_ERR_CRC x)
    else if f.ty = 0x06 then exportHead f s0 else s0)

/-- Bits of `MOD_IRQ` that would raise an alarm (R470). -/
def almBits (s : State) : Word := rd s Reg.MOD_IRQ &&& rd s Reg.CSN_ALM_EN

/-- ALARM_SEND (R470): a member, at least 10 ms after its last IRQ alarm. -/
def execAlarmSend (s : State) : Out :=
  .next (let s0 := ringStart s
    let spaced : Bool := match s.csn.alAt with
      | some t => decide (t + tick10Ms ≤ clk s)
      | none => true
    if isHead s ∨ ¬ s.is .CSN_CFG_ALARM_EN ∨ almBits s &&& ~~~ s.csn.alSeen = 0 ∨ ¬ spaced ∨ ¬ carries s (upPort s) then s0
    else sendAlarm 1 (almBits s) (s0.modCsn (fun c => { c with alSeen := c.alSeen ||| almBits s, alAt := some (clk s) })))

/-- The head receives an alarm (R459, R460, R470). -/
def alarmHead (f : RFrame) (s : State) : State :=
  let code := bits f.w1 31 24
  let s1 := almRecord f.src.toNat code f.w2 f.data s
  if code = 2 then sendReroute f.src.toNat (bits f.w2 7 0) s1
  else if code = 3 ∧ ¬ bitAt (wd f.flags.toNat) 3 then sendReroute 0xFF 0xFF s1
  else s1
def execAlarm (x : Fin 2) (f : RFrame) (s : State) : Out :=
  .next (ringRecv x 0x07 f (fun s => if isHead s then alarmHead f s else forward x f s) s)

end Sys2Proof.Machine
end

