-- ==== Sys2Proof/Machine/Otp.lean ====
section
/-! DEFINITION. Programming of the arbiter's OTP and the end of a trust command (spec/02, R56 to R58). The commands are in `Trust`. -/

namespace Sys2Proof.Machine

/-- The number of consecutive 1 bits from bit 0 of `n`, at most `k`. -/
def onesFrom : Nat → Nat → Nat
  | 0, _ => 0
  | k + 1, n => if n % 2 = 1 then 1 + onesFrom k (n / 2) else 0

/-- The OTP rollback counter (R56). -/
def otpRoll (s : State) : Nat := onesFrom 128 (otpNat s 0x064 16)

/-- Programs OTP bits: byte `a` gains the 1 bits of `b` (R57). -/
def otpOr (a : Nat) (b : Byte) (s : State) : State := otpPut a (otpByte s a ||| b) s

/-- Programs the bytes of a list from address `a`. -/
def otpProgram (a : Nat) (l : List Byte) (s : State) : State := s.each l.zipIdx (fun p s => otpOr (a + p.2) p.1 s)

/-- What a trust command programs: the address and the bytes with the bits it sets (R58): the hash of a key slot, a revocation bit, the thermometer. -/
def trustBits (k : TrustCmd) : Nat × List Byte :=
  match k.op with
  | 2 => (0x20 * k.arg, k.body)
  | 3 => (0x060, [BitVec.ofNat 8 (2 ^ k.arg)])
  | 4 => (0x064, leBytes 16 (2 ^ k.arg - 1))
  | _ => (0, [])

/-- The bits of a command that are programmed once the first `n` of them are (R57). -/
def lowBits (n : Nat) (l : List Byte) : List Byte := leBytes l.length (leNat l % 2 ^ n)

/-- A command that ends before its last bit leaves an open number of its bits programmed, in ascending order (R57, assumption log 4). -/
def trustPart (k : TrustCmd) (s : State) : State :=
  let p := trustBits k
  otpProgram p.1 (lowBits ((freeNow s).toNat % (8 * p.2.length + 1)) p.2) s.useFree

/-- The end of a trust command with its RESULT; MOD_IRQ.BT (R58, R216). -/
def trustEnd (res : Nat) (s : State) : State :=
  raiseIrq irqBt (((s.modBt (fun b => { b with cmd := none })).put .BT_CMD_BUSY 0).put .BT_CMD_RESULT res)

/-- A takeover ends an ATTEST; an OTP command goes on in the arbiter (R57, R58). -/
def trustTko (s : State) : State :=
  match s.bt.cmd with
  | some k => if k.op = 1 then trustEnd 4 s else s
  | none => s

/-- A reset of the module cuts an OTP command short (R57). -/
def trustCut (s : State) : State :=
  match s.bt.cmd with
  | some k => if k.op = 1 then s else trustPart k s
  | none => s

end Sys2Proof.Machine
end

