-- ==== Sys2Proof/Machine/Reset.lean ====
section
/-! DEFINITION. What resets do to the module's state (spec/17, R541 to R546): fields by class, tiles, jobs on S1. The commands are in `Power`. -/

namespace Sys2Proof.Machine

/-- Registers rebuilt one by one: `f` gives the new word of each that `l` lists. -/
def rebuild (l : List Nat) (f : Nat → Word) : KMap Word := l.foldl (fun m a => kset (resetWord a) m a (f a)) []

/-- The addresses of the registers that differ from their reset values. -/
def regAddrs (m : KMap Word) : List Nat := m.map (·.1)

/-- Whether `a` holds a converter's offset with the flags that belong to its factors: STALE, FAIL and HOST (R159). -/
def heldFactor (a : Nat) : Bool :=
  (decide (0x20000 ≤ a) && decide (a < 0x30000) && isAN ((a - 0x20000) / 0x100) && a % 0x100 == 0xB0)
    || (decide (0x10000 ≤ a) && decide (a < 0x20000) && a % 0x1000 == 0x24)

/-- Whether `a` holds a converter's gain. -/
def factorGain (a : Nat) : Bool :=
  (decide (0x20000 ≤ a) && decide (a < 0x30000) && isAN ((a - 0x20000) / 0x100) && a % 0x100 == 0xB4)
    || (decide (0x10000 ≤ a) && decide (a < 0x20000) && a % 0x1000 == 0x28)

/-- The fields of class C stay with the flags of the factors, which only a power-on sets again (R159); every other field returns to its reset
value (R545). -/
def keepFactors (m : KMap Word) : KMap Word :=
  rebuild (regAddrs m) (fun a => blend (if heldFactor a then 0xFFFFFFFF else classMask (· = .c) a) (resetWord a) (kget (resetWord a) m a))

/-- The highest step whose failure is recorded (R540, R549). -/
def startFail (n : Nat) (s : State) : State := s.put .MOD_START_FAIL (max n (s.get .MOD_START_FAIL))

/-- The job that runs on select `cs`, if any. -/
def s1Job (s : State) (cs : Nat) : Option FlashJob :=
  match s1Run s cs with
  | 0 => none
  | 9 => s.sp1.pieces.head?.map (fun p => .prog p.1 p.2)
  | 10 => s.sp1.cmd.map (·.2)
  | u => (s.logr (u - 1)).job

/-- A program or an erase whose end no domain sees is lost: it leaves its bytes open (R426, assumption log 31). -/
def s1Lose (s : State) : State :=
  let s1 := s.each [0, 1] (fun cs s => match s1Job s cs with
    | some j => jobFailed cs j s
    | none => s)
  let s2 := s1.modSp1 (fun p => { p with run := [], win := none, pieces := [], winErr := 0, cmd := none })
  sp1Show (s2.each (List.range 8) (fun r s => s.setLogr r { s.logr r with job := none }))

/-- The channels of tile `t`. -/
def tileChs (t : Nat) : List Nat := (List.range 16).map (fun k => 16 * t + k)

/-- The counters and diagnostics of a channel return to their reset values (R71, R79, R544). -/
def chanReset (n : Nat) (s : State) : State :=
  let zero := fun (a : Nat) (s : State) => wr a (resetWord a) s
  if isDI n then
    ([Reg.CH_DIAG n, Reg.CH_DI_EDGES n, Reg.CH_DI_PERIOD n, Reg.CH_DI_TS n 0, Reg.CH_DI_TS n 1].foldl (fun s a => zero a s)
      (s.put (.CH_DI_STATE_PERIOD_SAT n) 0)).modCh n (fun x => { x with run := 0, perEdge := none })
  else if isDO n then
    ([Reg.CH_DIAG n, Reg.CH_DO_SWCNT n, Reg.CH_DO_ONTIME n, Reg.CH_DO_CLAMP n, Reg.CH_DO_CLAMP_SUM n].foldl (fun s a => zero a s)
      (s.put (.CH_DO_STATE_TSD n) 0)).modCh n (fun x => { x with onRem := 0, onMark := clk s, clampRem := 0, lock75 := false, tsdRow := 0 })
  else (zero (Reg.CH_DIAG n) s).put (.CH_AN_STATE_LP_RETRY n) 0

/-- What the standby holds once everything up to now is committed (R501, R502). -/
def snapOf (n : Nat) (s : State) : JSnap :=
  { jseq := n, tick := now s, edge := clk s, regs := s.regs, qmem := s.qmem, queues := s.queues, ctxs := s.ctxs, cans := s.cans, dips := s.dips, tu := s.tu }

/-- The windows of a tile begin again: none has been found out of range, and no count runs (R208). -/
def winReset (t : Nat) (s : State) : State := (s.put (.TILE_WIN_STATE_OUT t) 0).modTile t (fun x => { x with win := [], winUp := 0 })

/-- A per-tile reset (R544). The tile waits for its links; its outputs are off under IMAGE until then. An output whose safe state is HOLD and which another
cause holds too returns to what it had when that safe state began (assumption log 82). -/
def tileReset (t : Nat) (s : State) : State :=
  let s0 := if (s.tile t).sweep then sweepEnd caAbandoned prAbandoned s else s
  let s1 := s0.each (tileChs t) chanReset
  let s2 := (wr (Reg.TILE_TDAC t) (resetWord (Reg.TILE_TDAC t)) s1).each [12, 13, 14, 15] (fun k s => setInject (16 * t + k) false s)
  let s3 := ((s2.put (.TILE_FEED_LINK_A t) 0).put (.TILE_FEED_LINK_B t) 0).modTile t (fun x =>
    { x with epoch := 0, obey := none, clk := none, holdC := false, holdAt := clk s, slot := none, scan := 0, lostA := false, lostB := false, retryA := false,
             retryB := false, woke := false })
  let s4 := winReset t ((((s3.set1 (.TILE_SAFE_IMAGE t)).set1 (.TILE_SAFE_RESET t)).put (.TILE_SAFE_HOLD t) 0).put (.TILE_SAFE_CNT_GAP t) 0)
  let s5 := ((s4.putB (.TILE_SAFE_WDOG t) (s.is .MOD_WDOG_EXPIRED)).putB (.TILE_SAFE_DOZE t) (s.pw.power == 3))
  calLose t (safeRefresh t s5)

/-- What a tile keeps through a reset of the module is physical: which feeds are OK, which carries the load, and its power. -/
def feedKept (o : State) (t : Nat) (s : State) : State :=
  let s1 := (s.put (.TILE_FEED_A_OK t) (o.get (.TILE_FEED_A_OK t))).put (.TILE_FEED_B_OK t) (o.get (.TILE_FEED_B_OK t))
  let s2 := (s1.put (.TILE_FEED_CARRY t) (o.get (.TILE_FEED_CARRY t))).put (.TILE_SAFE_IMAGE t) 1
  s2.setTile t { holdAt := clk s, power := (o.tile t).power || o.is (.TILE_FEED_A_OK t) || o.is (.TILE_FEED_B_OK t) }

/-- Every tile, channel and chain beside its registers begins again; each tile is under its IMAGE cause. -/
def tilesStart (o : State) (s : State) : State :=
  allTiles (fun t s => safeRefresh t (feedKept o t s)) s

/-- RESET_N, a cold reset, an arbiter restart (R541, R545): what the arbiter, OTP, flash and the supplies hold stays, with the fields of class C;
everything else begins again. -/
def coldState (cause : Nat) (s : State) : State :=
  let k := trustCut (s1Lose s)
  let s1 : State := { regs := keepFactors s.regs, flash := k.flash, otp := k.otp, free := k.free, rdata := s.rdata, tu := { edges := s.tu.edges },
                      pending := s.pending, pw := { on := s.pw.on }, s0 := { out := s.s0.out },
                      sv := { coldAt := clk s, ftAt := clk s + 3600 * tickS, burgeeAt := clk s, marchAt := clk s, sliceAt := clk s, loopAt := clk s, epoch := s.sv.epoch, feedA := s.sv.feedA, feedB := s.sv.feedB, restartAt := s.sv.restartAt } }
  let s2 := ((s1.put .MOD_START_CAUSE cause).put .MOD_START_STEP 1).put .MOD_START_FAIL (s.get .MOD_START_FAIL)
  tilesStart s (calStale s2)

/-- The arbiter releases the domains whose feeds are OK and names the one that drives S1 (R539, step 2). A released domain is STANDBY until the image is
applied (assumption log 47). -/
def domainRelease (s : State) : State :=
  let s1 := s.modSv (fun v => { v with roleA := if v.feedA then .standby else .absent, roleB := if v.feedB then .standby else .absent })
  startStep 2 (s1.modPw (fun w => { w with drv := if s.sv.feedA then .a else .b }))

/-- A reset that begins at step 2 of R539 (R541). -/
def coldReset (cause : Nat) (s : State) : State :=
  let s1 := coldState cause s
  if s.sv.feedA ∨ s.sv.feedB then domainRelease s1 else s1

/-- Registers of a warm reset (R543, R545): the fields of classes H and J return to their reset values, but for the ring's link parameters (R450). -/
def warmRegs (m : KMap Word) : KMap Word :=
  rebuild (regAddrs m) (fun a =>
    let ring := decide (0x6000 ≤ a) && decide (a < 0x9000)
    blend (classMask (fun cl => cl = .h ∨ (cl = .j ∧ ¬ ring)) a) (kget (resetWord a) m a) (resetWord a))

/-- A context after a warm reset is IDLE; only its variables and settings stay (R361, R543). -/
def ctxWarm (c : Nat) (s : State) : State :=
  ctxShow c ((wr (Reg.CTX_STAT c) 0 s).modCtx c (fun x => { ({} : CtxSt) with adj := x.adj }))

/-- A CAN port after a warm reset keeps its mode and settings, and integrates with its counters at 0 (R543). -/
def canWarm (p : Nat) (s : State) : State :=
  let s1 := s.modCan p (fun x => { ({} : CanSt) with mode := x.mode, adj := x.adj })
  canIntegrate p (((wr (Reg.CAN_STAT p) 0 s1).put (.CAN_ERRCNT_TEC p) 0).put (.CAN_ERRCNT_REC p) 0)

/-- Tiles through a warm reset of the module in state `o`: their counters and commands begin again; their links, their epoch and the causes HOLD and IMAGE, which the
tile itself holds, stay (R87, R543, R545). -/
def tileWarm (o : State) (t : Nat) (s : State) : State :=
  let x := s.tile t
  let s1 := s.setTile t { power := x.power, epoch := x.epoch, obey := x.obey, clk := x.clk, holdC := x.holdC, holdAt := x.holdAt, lostA := x.lostA, lostB := x.lostB,
                          retryA := x.retryA, retryB := x.retryB }
  safeRefresh t ((winReset t s1).putB (.TILE_SAFE_IMAGE t) (o.is (.TILE_SAFE_IMAGE t)) |>.putB (.TILE_SAFE_DOZE t) (s.pw.power == 3))

/-- A channel through a warm reset: a replaced setting keeps its flag with it (R7), a switch what it does and how often it has shut down (R75, R78). What follows
from fields that begin again is as they say: PERIOD_SAT, INJ, SET_CLAMP, and CLAMP, whose latched bit is clear (R76). -/
def chWarm (n : Nat) (s : State) : State :=
  let x := s.ch n
  if isDI n then (s.put (.CH_DI_STATE_PERIOD_SAT n) 0).setCh n {}
  else if isDO n then
    (diagClear n dgClamp s).setCh n { tsdRow := x.tsdRow, tsdAt := x.tsdAt, onSince := x.onSince, onMark := clk s, pwm := x.pwm, heldOut := x.heldOut }
  else
    (((s.put (.CH_AN_STATE_CFG_ADJ n) 0).put (.CH_AN_STATE_INJ n) 0).put (.CH_AN_STATE_SET_CLAMP n) 0).setCh n
      { adjMode := x.adjMode, adjSafe := x.adjSafe, heldMa := x.heldMa, tileTrim := x.tileTrim }

/-- What a warm reset makes of the registers, memories and units at once (R543, R545). -/
def warmBase (s : State) : State :=
  let k := s1Lose s
  { s with
    regs := warmRegs s.regs, flash := k.flash, free := k.free, rsh := [], wsh := [], queues := [], pops := [], engs := [], cvs := [], dips := [],
    ca := { haltAt := s.ca.haltAt }, s0 := { out := s.s0.out }, sp1 := { adj := s.sp1.adj }, sp2 := { adj := s.sp2.adj, role := s.get .SP2_CFG_ROLE }, late := [], ltrigs := [], jpend := [], jcom := none,
    jseq := 0, ckptDone := [], logs := [],
    tu := { s.tu with seen := [], out := [], mStamp := none, mFirst := true, refAt := none, tfAt := none, canF := none, canS := none, canSeq := none },
    sv := { s.sv with ents := [], digA := none, digB := none, selfCheck := none, wdogDl := none },
    pw := { s.pw with edge := none, pend := none, sleepReq := false, quietAt := clk s } }

/-- A warm reset (R543): what stays is the image, the roles, the locks and the clock. -/
def warmReset (s : State) : State :=
  let s1 := warmBase s
  let s2 := ((s1.each (List.range 256) chWarm).each (enabledCtxs s) ctxWarm).each [0, 1, 2, 3] canWarm
  let s3 := ((rebind (placeQueues (List.range 128) s2)).put .CA_STAT_STATE 0).put .EV_DIP_STAT_STATE0 0 |>.put .EV_DIP_STAT_STATE1 0
  let s4 := permitSet actCal false (permitSet actSweep false s3)
  let s5 := allTiles (tileWarm s) (sp1Show (sp2Show (logRestart (wr Reg.SV_JSEQ 0 s4))))
  let s6 := ringReturn (s5.put .MOD_START_CAUSE 5)
  let s7 := if s.sv.stby = .inStep ∨ s.sv.stby = .warm then { s6 with jcom := some (snapOf 0 s6) } else s6
  if acqRuns s then startChains s7 else s7

end Sys2Proof.Machine
end

