-- ==== Sys2Proof/Machine/Power.lean ====
section
/-! DEFINITION. Power states, resets and the start of the supplies (spec/17), tiles' power and links (R491, R497 to R499, R529, R544, R585), and schedules
as they fire (R280 to R282). -/

namespace Sys2Proof.Machine

/-- RESULT codes of `MOD_POWER` (R548). -/
def pwOk : Nat := 0
def pwPending : Nat := 1
def pwBusy : Nat := 2
def pwNotAllowed : Nat := 3

def powerResult (v : Nat) (s : State) : State := s.put .MOD_POWER_RESULT v

/-- A permit other than CAL is held (R534, R535). -/
def busyPermit (s : State) : Bool := s.get .SV_PERMIT_HELD / 2 != 0

/-- A calibration or a sweep runs (R534). -/
def caRuns (s : State) : Bool := s.ca.calStep != 0 || s.ca.swStep.isSome

/-- No domain holds the pads, or a planned switchover is in progress (R534). -/
def roleChanging (s : State) : Bool := !s.sv.anyActive || s.is .SV_STAT_SWITCHING

/-- The module is quiet (R535). -/
def quiet (s : State) : Bool :=
  (enabledCtxs s).all (fun c => !inRun s c) && !busyPermit s && s1Run s 0 == 0 && s1Run s 1 == 0

/-- A calibration is abandoned and acquisition stops (R157, R534, R535); the scan ends with it (R152). -/
def acqStop (p : Nat) (s : State) : State := allTiles slotRestart (setPower p (stopChains (calAbandon s)))

/-- Entry to DOZE (R534). -/
def enterDoze (s : State) : State := powerResult pwOk (dozeCause true (acqStop 3 (s.modPw (fun w => { w with edge := none }))))

/-- A request for state `q` on which nothing holds (R534): 1 RUN, 2 LEAN, 3 DOZE, 4 SLEEP. -/
def powerAct (q : Nat) (s : State) : State :=
  if s.pw.power = q then powerResult pwOk s
  else if q = 3 then (if busyPermit s then powerResult pwBusy s else enterDoze s)
  else if q = 4 then
    if busyPermit s ∨ (s.get .MOD_POWER_ENTRY_WAIT = 0 ∧ ¬ quiet s) then powerResult pwBusy s
    else powerResult pwPending (s.modPw (fun w => { w with sleepReq := true, sleepAt := clk s }))
  else if s.pw.power = 3 then powerResult pwOk (leaveDoze q (wakeRecord 5 0 s))
  else if caRuns s then powerResult pwPending (s.modPw (fun w => { w with pend := some q }))
  else powerResult pwOk (s.modPw (fun w => { w with edge := some q, pend := none }))

/-- A write of `MOD_POWER.REQ` (R534, R536). -/
def powerReq (q : Nat) (s : State) : State :=
  if q = 0 then s
  else
    let s1 := s.modPw (fun w => { w with woken := false })
    if 5 ≤ q ∨ s.pw.power = 0 ∨ s.pw.power = 5 ∨ s.pw.power = 6 then powerResult pwNotAllowed s1
    else if roleChanging s then powerResult pwPending (s1.modPw (fun w => { w with pend := some q }))
    else powerAct q s1

/-- A request held through a takeover or a switchover is acted on (R534). -/
def powerResume (s : State) : State :=
  match s.pw.pend with
  | some q => if roleChanging s then s else powerAct q (s.modPw (fun w => { w with pend := none }))
  | none => s

/-- The settings of `MOD_POWER` (R548): BOOT and WAKE_TO 3 are RUN, with CFG_ADJ. -/
def powerSettings (w : Word) (s : State) : State :=
  let s1 := store Reg.MOD_POWER Msk.MOD_POWER w s
  let fix := fun (v : Nat) => if v = 3 then 0 else v
  let s2 := (s1.put .MOD_POWER_BOOT (fix (bits w 13 12))).put .MOD_POWER_WAKE_TO (fix (bits w 11 10))
  s2.putB .MOD_POWER_CFG_ADJ (bits w 13 12 = 3 || bits w 11 10 = 3)

/-- A write of `MOD_POWER` (R548): its settings, unless they are locked (`lk`), and the request. -/
def powerWrite (lk : Nat) (w : Word) (s : State) : State := powerReq (bits w 2 0) (if lk = 0 then powerSettings w s else s)

/-- POWER_REQ_RUN, POWER_REQ_LEAN, POWER_REQ_DOZE, POWER_REQ_SLEEP (R534): a write of REQ that leaves the other fields. -/
def powerCmd (r : Req) (q : Nat) (s : State) : Out :=
  .next (regWrite r Reg.MOD_POWER Msk.MOD_POWER (setBits (rd s Reg.MOD_POWER) 2 0 q) (fun w => powerReq (bits w 2 0)) s)
def execPowerReqRun (r : Req) (s : State) : Out := powerCmd r 1 s
def execPowerReqLean (r : Req) (s : State) : Out := powerCmd r 2 s
def execPowerReqDoze (r : Req) (s : State) : Out := powerCmd r 3 s
def execPowerReqSleep (r : Req) (s : State) : Out := powerCmd r 4 s

/-- The state to which fM switches at the next edge of R136: a request in effect, or one that a calibration or sweep held until now. -/
def switchDue (s : State) : Option Nat :=
  match s.pw.edge, s.pw.pend with
  | some q, _ => if caRuns s then none else some q
  | none, some q => if caRuns s ∨ roleChanging s ∨ 3 ≤ q then none else some q
  | none, none => none

/-- LEAN_SWITCH (R136, R534): at a tick that is a multiple of 64. -/
def leanSwitch (s : State) : State :=
  match switchDue s with
  | some q =>
    if acqRuns s ∧ now s % 64 = 0 then
      let s1 := setPower q (s.modPw (fun w => { w with edge := none, pend := none }))
      powerResult pwOk (syncApplyAt (now s) (2 ^ srcLean) false (s1.each anChs fcRefresh))
    else s
  | none => s
def execLeanSwitch (s : State) : Out := .next (leanSwitch s)

/-- A tile shuts down or has lost power (R532, R585): it drives nothing and its links are silent. -/
def tileOff (t : Nat) (s : State) : State :=
  let s1 := (calLose t s).each [8, 9, 10, 11] (fun k s => countOn (16 * t + k) s)
  let s2 := (s1.put (.TILE_FEED_LINK_A t) 0).put (.TILE_FEED_LINK_B t) 0
  tileRefresh t ((winReset t s2).modTile t (fun x =>
    { x with power := false, epoch := 0, obey := none, clk := none, lostA := false, lostB := false, slot := none }))

/-- The other domain has powered down or has no supply. -/
def journalDrop (s : State) : State := { s with late := [], ltrigs := [], jpend := [], jcom := none, ca := { s.ca with wrote := [] } }

/-- Domains: the other one, and roles. -/
def otherDom (d : Dom) : Dom := match d with | .a => .b | .b => .a
def domIx (d : Dom) : Nat := match d with | .a => 0 | .b => 1
def roleOf (s : State) (d : Dom) : Role := match d with | .a => s.sv.roleA | .b => s.sv.roleB
def setRole (d : Dom) (x : Role) (s : State) : State :=
  s.modSv (fun v => match d with | .a => { v with roleA := x } | .b => { v with roleB := x })

/-- SLEEP_ENTRY (R532, R533, R535): the four steps, once the module is quiet. -/
def enterSleep (s : State) : State :=
  let s1 := acqStop s.pw.power s
  let ports := [0, 1, 2, 3].filter (fun p => (s.can p).mode != 0 && !s.is (.CAN_STAT_ASLEEP p))
  let s2 := (allTiles tileOff (s1.modCa (fun c => { c with haltAt := some (c.haltAt.getD (now s)) }))).each ports canSleepNow
  let s3 := match activeDom s2 with
    | some d => if roleOf s2 (otherDom d) = Role.fenced then s2 else setRole (otherDom d) .absent s2
    | none => s2
  let s4 := journalDrop (ringClose csOff (s3.modSv (fun v => { v with stby := .none, rejoin := none })))
  powerResult pwOk (setPower 4 (s4.modPw (fun w => { w with sleepReq := false, edge := none, slept := ports, planned := true, wake := none })))
def execSleepEntry (s : State) : Out := .next (if s.pw.sleepReq ∧ quiet s ∧ ¬ roleChanging s then enterSleep s else s)

/-- SLEEP_ENTRY_TIMEOUT (R535). -/
def execSleepEntryTimeout (s : State) : Out :=
  .next (if s.pw.sleepReq ∧ ¬ quiet s ∧ s.pw.sleepAt + s.get .MOD_POWER_ENTRY_WAIT * tickS ≤ clk s then
    powerResult pwBusy (s.modPw (fun w => { w with sleepReq := false }))
  else s)

/-- IDLE_SLEEP_RETURN (R536): the woken module has been quiet for IDLE_SLEEP seconds without a break. -/
def execIdleSleepReturn (s : State) : Out :=
  .next (if s.pw.woken ∧ s.get .MOD_POWER_IDLE_SLEEP ≠ 0 ∧ 1 ≤ s.pw.power ∧ s.pw.power ≤ 3 ∧ quiet s ∧ ¬ roleChanging s
      ∧ s.pw.quietAt + s.get .MOD_POWER_IDLE_SLEEP * tickS ≤ clk s then enterSleep s else s)

/-- WAKE_LAND_EDGE (R537): an edge of the WAKE land held for 50 µs; `rising` is its polarity. -/
def execWakeLandEdge (rising : Bool) (s : State) : Out :=
  .next (if s.is .MOD_POWER_WAKE_EN ∧ rising ≠ s.is .MOD_POWER_WAKE_POL then noteWake 2 0 s else s)

/-- A tile powers up when a feed is OK: a reset of the tile (R539, R544), without the marks of a reset after SLEEP (R538). -/
def tileFed (s : State) (t : Nat) : Bool := s.is (.TILE_FEED_A_OK t) || s.is (.TILE_FEED_B_OK t)

/-- SLEEP_WAKE (R537, R538, steps 1 and 2). Each input goes on from the level, and the run of samples, that it had before SLEEP (assumption log 82). -/
def sleepWake (s : State) : State :=
  match s.pw.wake with
  | some (k, src) =>
    if s.pw.power ≠ 4 then s
    else
      let s1 := setPower 5 ((wakeRecord k src s).modPw (fun w => { w with wake := none, woken := true, slept := [], quietAt := clk s }))
      let s2 := s1.each s.pw.slept (fun p s => canWake p 3 (now s) 0 s)
      allTiles (fun t s => if tileFed s t then safeRefresh t ((s.set1 (.TILE_SAFE_IMAGE t)).modTile t (fun x => { x with power := true, holdAt := clk s, woke := true })) else s) s2
  | none => s
def execSleepWake (s : State) : Out := .next (sleepWake s)

/-- Pending triggers of contexts that run nothing are accepted (R338, R538). -/
def takePending (s : State) : State :=
  s.each (enabledCtxs s) (fun c s => match (s.ctx c).pend with
    | some p => if s.is (.CTX_STAT_PEND c) ∧ ¬ inRun s c then startRun c p s else s
    | none => s)

/-- WAKE_COMPLETE (R538, step 5). -/
def wakeComplete (s : State) : State :=
  if s.pw.power ≠ 5 then s
  else
    let p := wakeTo s
    let s1 := setPower p s
    let s2 := if p = 3 then dozeCause true s1 else startChains (dozeCause false s1)
    takePending (ringReturn s2)
def execWakeComplete (s : State) : Out := .next (wakeComplete s)

/-- Tile `t` has a trained link to some domain, or the arbiter retries one (R540). -/
def linkSeen (s : State) (t : Nat) : Bool :=
  !(s.tile t).power || tileUp s t || (match activeDom s with
    | some .a => (s.tile t).retryA
    | some .b => (s.tile t).retryB
    | none => false)

/-- Steps 5 and 6 of R539: once every tile's link to the active domain is trained, or has failed its training, the module enters the state in BOOT, and the ring
and a calibration may start. -/
def bootCheck (s : State) : State :=
  if s.pw.power = 0 ∧ s.get .BT_STAT_STATE = 1 ∧ s.sv.anyActive ∧ (List.range 16).all (linkSeen s) then
    let p := powerNamed (s.get .MOD_POWER_BOOT)
    let s1 := setPower p (startStep 6 s)
    if p = 3 then dozeCause true s1 else startChains s1
  else s

/-- Tile `t` has the settings and the commanded states: its IMAGE cause is released (R544). -/
def tileGo (t : Nat) (s : State) : State := safeRefresh t ((s.each [14, 15] (fun k s => aoSend (16 * t + k) s)).put (.TILE_SAFE_IMAGE t) 0)

/-- TILE_LINK_TRAINED (R539, step 5; R538, step 4; R544): the link of tile `t` to domain `d` trains. From the active domain the tile then has its settings,
commands and counters, and IMAGE is released. -/
def linkTrained (t : Nat) (d : Dom) (s : State) : State :=
  if ¬ (s.tile t).power then s
  else
    let s1 := match d with
      | .a => (s.set1 (.TILE_FEED_LINK_A t)).modTile t (fun x => { x with lostA := false, retryA := false })
      | .b => (s.set1 (.TILE_FEED_LINK_B t)).modTile t (fun x => { x with lostB := false, retryB := false })
    if activeDom s = some d ∧ s.get .BT_STAT_STATE = 1 then
      let s2 := if (s.tile t).woke then (s1.set1 (.TILE_SAFE_CNT_GAP t)).modTile t (fun x => { x with woke := false }) else s1
      let s3 := tileGo t s2
      bootCheck (if acqRuns s then s3.each [12, 13, 14, 15] (fun k s => discont (16 * t + k) s) else s3)
    else s1
def execTileLinkTrained (t : Fin 16) (d : Dom) (s : State) : Out := .next (linkTrained t d s)

/-- The power-on or return of one feed of the tile's supply starts the tile when it had no power (R491, R585): it has kept no
state. -/
def tileStart (t : Nat) (s : State) : State :=
  if s.pw.power = 4 ∨ ¬ s.pw.on then s
  else
    let s1 := s.each [0, 1, 2, 3, 4, 5, 6, 7] (fun k s => (s.put (.CH_DI_STATE_LEVEL (16 * t + k)) 0).put (.CH_DI_STATE_RAW (16 * t + k)) 0)
    tileReset t (s1.modTile t (fun x => { x with power := true }))

/-- TILE_FEED_CHANGE (R491, R516): a feed of tile `t` becomes OK or stops being OK. `feed`: 1 VF_A, 2 VF_B. `carry`: which feed then carries the load. -/
def feedChange (t feed : Nat) (ok : Bool) (carry : Nat) (s : State) : State :=
  let f : FldRef := if feed = 1 then .TILE_FEED_A_OK t else .TILE_FEED_B_OK t
  if s.is f = ok then s.put (.TILE_FEED_CARRY t) carry
  else
    let s1 := (s.putB f ok).put (.TILE_FEED_CARRY t) carry
    let s2 := if s.sv.anyActive ∧ s.pw.power ≠ 4 then svRecord 6 (b2n ok) 0 t feed s1 else s1
    if ok ∧ ¬ (s.tile t).power then tileStart t s2 else s2
def execTileFeedChange (t : Fin 16) (second ok : Bool) (carry : Fin 4) (s : State) : Out := .next (feedChange t (if second then 2 else 1) ok carry s)

/-- TILE_POWER_LOSS (R585): the higher feed has stayed below brown-out for 100 µs; the tile keeps no state. OK of its feeds falls later (R491). -/
def powerLoss (t : Nat) (s : State) : State :=
  if ¬ (s.tile t).power then s
  else
    let s0 := if (s.tile t).sweep then sweepEnd caAbandoned prAbandoned s else s
    tileOff t s0
def execTilePowerLoss (t : Fin 16) (s : State) : Out := .next (powerLoss t s)

/-- TILE_FRAME_RECEIVE (R498, R499): a command frame of domain `d` with epoch `e` reaches tile `t`. -/
def frameReceive (t : Nat) (d : Dom) (e : Nat) (s : State) : State :=
  let x := s.tile t
  let diff := (e + 65536 - x.epoch) % 65536
  if ¬ x.power then s
  else
    let adopt := e ≠ 0 ∧ 1 ≤ diff ∧ diff ≤ 32767 ∨ (x.epoch = 0 ∧ e ≠ 0)
    if adopt ∨ (x.epoch ≠ 0 ∧ e = x.epoch ∧ x.obey = some d) then
      safeRefresh t (s.modTile t (fun x => { x with epoch := e, obey := some d, clk := some d, holdC := false, holdAt := clk s }))
    else s.inc (.TILE_FEED_STALE_CNT t)
def execTileFrameReceive (t : Fin 16) (d : Dom) (e : BitVec 16) (s : State) : Out := .next (frameReceive t d e.toNat s)

/-- TILE_CLOCK_SOURCE_SWITCH (R499): the link from which tile `t` takes its modulator edges is silent; it takes them from the other one. -/
def execTileClockSourceSwitch (t : Fin 16) (s : State) : Out :=
  .next (s.modTile t (fun x => { x with clk := if x.power then x.clk.map otherDom else x.clk }))

/-- A write of `TILE_RST` (R544, R550). -/
def tileRstWrite (t : Nat) (w : Word) (s : State) : State :=
  if bits w 31 16 = 0xA55A ∧ bitAt w 0 ∧ (s.tile t).power then tileReset t s else s
def execTileRst (r : Req) (t : Fin 16) (key : BitVec 16) (s : State) : Out :=
  .next (regWrite r (Reg.TILE_RST t) Msk.TILE_RST (wd (mk [(key.toNat, 16), (1, 0)])) (tileRstWrite t) s)

/-- A write of `MOD_RESET` (R547). -/
def resetWrite (w : Word) (s : State) : State :=
  if bits w 31 16 ≠ 0xA55A then s.set1 .MOD_START_IGNORED
  else match bits w 3 0 with
    | 0 => s
    | 1 => if s.pw.on then coldReset 3 s else s
    | 2 => if s.pw.on then warmReset s else s
    | _ => s.set1 .MOD_START_IGNORED

/-- COLD and WARM (R541, R543, R547). -/
def execCold (r : Req) (key : BitVec 16) (s : State) : Out :=
  .next (regWrite r Reg.MOD_RESET Msk.MOD_RESET (wd (mk [(key.toNat, 16), (1, 0)])) resetWrite s)
def execWarm (r : Req) (key : BitVec 16) (s : State) : Out :=
  .next (regWrite r Reg.MOD_RESET Msk.MOD_RESET (wd (mk [(key.toNat, 16), (2, 0)])) resetWrite s)

/-- RESET_N (R541, R542): held low for 1 µs; at its rise step 2 of R539 follows. -/
def execResetN (s : State) : Out := .next (if s.pw.on then coldReset 2 s else s)

/-- Power-on: every supply was absent (R541, R545): OTP and flash stay, with what the tiles' feeds are. -/
def powerOn (a b : Bool) (s : State) : State :=
  let s1 : State := { flash := s.flash, otp := s.otp, free := s.free, rdata := s.rdata, pending := s.pending, pw := { on := true },
                      sv := { feedA := a, feedB := b, ftAt := 3600 * tickS } }
  tilesStart s (calStale (factoryLoad (startStep 1 s1)))

/-- POWER_ON (R539, step 1): `a` and `b` tell whether each logic feed has reached 0.85 V. -/
def execPowerOn (a b : Bool) (s : State) : Out := .next (if ¬ s.pw.on ∧ (a ∨ b) then powerOn a b s else s)

/-- Both domains have failed step 3, 10 s ago (R540). -/
def bothFailed (s : State) : Bool :=
  decide (s.pw.power = 0) && decide (2 ≤ s.get .MOD_START_STEP) && decide (s.get .MOD_START_STEP ≤ 3) && !s.sv.anyActive && s.sv.tkoFrom.isNone
    && s.sv.roleA != .standby && s.sv.roleB != .standby && decide (s.sv.failAt + 10 * tickS ≤ clk s)

/-- DOMAIN_RELEASE (R539, step 2; R540, R541): the feeds as the arbiter then finds them. With one feed the power-on is a single-feed one. -/
def execDomainRelease (a b : Bool) (s : State) : Out :=
  .next (if s.pw.on ∧ (s.get .MOD_START_STEP = 1 ∨ bothFailed s) then
    let s1 := s.modSv (fun v => { v with feedA := a, feedB := b })
    if a ∨ b then domainRelease (if a ≠ b ∧ s.get .MOD_START_CAUSE = 0 then s1.put .MOD_START_CAUSE 1 else s1) else s1
  else s)

/-- SCHEDULE_FIRE (R280 to R282): `TU_NOW` has reached NEXT of schedule `j`. A SYNC is raised up to four modulator periods ahead, so that it reaches the time island in
time for its own tick (R141, R142; assumption log 59). NEXT moves on by whole periods; the instants passed over count. -/
def schFire (j : Nat) (s : State) : State :=
  let x := schNext s j
  let lead := if schToken s j then leadTicks s else if schKind s j = 1 then 4 * per s else 0
  if ¬ schActive s j ∨ now s + lead < x then s
  else
    let per := schPer s j
    let past := (now s - x) / per
    let s1 := s.put64 (Reg.TU_SCH_NEXT j 0) (x + (past + 1) * per)
    let slept := s.pw.power == 4
    let kind := schKind s j
    let s2 := s1.addSat (.TU_SCH_MISS_MISS j) (past + b2n (slept && decide (kind ≤ 3)))
    if slept ∧ kind ≤ 3 then s2
    else match kind with
      | 1 => syncRequest srcSched (some x) s2
      | 2 => if tokenSource s then tokenSend { kind := 1, id := s.get (.TU_SCH_CFG_ARG j), tgt := x } s2 else s2
      | 3 => if tokenSource s then
          (tokenSend { kind := 2, id := s.get (.TU_SCH_CFG_ARG j), tgt := x } s2).incWrap (.TU_SCH_CFG_ARG j)
        else s2
      | 4 =>
        let s3 := fireTrigs [.sch j (s.get (.TU_SCH_CFG_ARG j)) x] s2
        if slept then noteWake 4 j s3 else s3
      | 5 => noteWake 3 j (s2.set1 (.TU_SCH_CFG_FIRED j))
      | _ => s2
def execScheduleFire (j : Fin 16) (s : State) : Out := .next (schFire j s)

end Sys2Proof.Machine
end

