-- ==== Sys2Proof/Machine/Roles.lean ====
section
/-! DEFINITION. Roles and verdicts, digests, permits and tests, burgees, the watchdog (spec/16, R490 to R496, R509 to R523). The journal and takeovers are in
`Takeover`. -/

namespace Sys2Proof.Machine

/-- Causes of R519. -/
def fcSupply : Nat := 1
def fcClock : Nat := 2
def fcHeartbeat : Nat := 3
def fcSelftest : Nat := 4
def fcDigest : Nat := 5
def fcJournal : Nat := 6
def fcImage : Nat := 7
def fcEcc : Nat := 8
def fcDomtest : Nat := 9

/-- Ticks of 24 hours and of 10 minutes. -/
def tick24h : Nat := 86400 * tickS
def tick10min : Nat := 600 * tickS

/-- The last failure (R519, R528). -/
def noteFail (d : Dom) (cause : Nat) (s : State) : State :=
  (((s.put .SV_FAIL_CAUSE cause).put .SV_FAIL_DOM (domIx d)).put64 (Reg.SV_FAIL_TS 0) (now s)).modSv (fun v => { v with failAt := clk s })

/-- The FENCE record (R516). -/
def fenceRecord (d : Dom) (cause : Nat) (s : State) : State := svRecord 2 cause (domIx d) 0 (rd s Reg.SV_JSEQ).toNat s

/-- What needs the standby ends: its tests and a switchover (R509, R522), and the journal. -/
def standbyTests (res : Nat) (s : State) : State :=
  let s1 := if permitHeld s actDom then permitEnd actDom res s else s
  let s2 := if permitHeld s1 actLink then permitEndT actLink res (s.sv.trainTile.getD 0) s1 else s1
  s2.modSv (fun v => { v with trainTile := none })
def standbyLost (s : State) : State :=
  let s1 := standbyTests prFailed s
  let s2 := if permitHeld s1 actSwitch then (permitEnd actSwitch prFailed s1).put .SV_STAT_SWITCHING 0 else s1
  journalDrop (s2.modSv (fun v => { v with stby := .none, rejoin := none, switchAt := none, selfCheck := none, ents := [], digA := none, digB := none }))

/-- The standby has lost the journal or a stream (R492, R500, R502). -/
def outOfStep (s : State) : State :=
  if hasStandby s then
    journalDrop (s.modSv (fun v => { v with stby := .outOfStep, ents := [], digA := none, digB := none }))
  else s

/-- The standby domain, if any. -/
def standbyDom (s : State) : Option Dom :=
  if s.sv.roleA = .standby then some .a else if s.sv.roleB = .standby then some .b else none

/-- A domain whose automatic rejoin lies within 24 hours stays FENCED (R504). -/
def noteFence (d : Dom) (s : State) : State :=
  let soon := fun (x : Option Nat) => match x with
    | some t => decide (clk s < t + tick24h)
    | none => false
  s.modSv (fun v => match d with
    | .a => { v with stayA := v.stayA || soon v.autoA }
    | .b => { v with stayB := v.stayB || soon v.autoB })

/-- No domain can be active (R496): the arbiter makes one cold restart; a second one within 24 hours does not follow. -/
def noDomain (s : State) : State :=
  if ¬ (s.sv.feedA ∨ s.sv.feedB) then { coldState 0 s with pw := {} }
  else
    let again := match s.sv.restartAt with
      | some t => decide (clk s < t + tick24h)
      | none => false
    if again then (ringClose csOff s).modSv (fun v => { v with anyActive := false, tkoFrom := none, ready := false })
    else (coldReset 4 s).modSv (fun v => { v with restartAt := some (clk s) })

/-- The active domain has failed (R493, R505): the pads are closed, and a takeover begins when there is a standby. In LEAN the modulator clock stops (R135). -/
def activeLost (d : Dom) (cause : Nat) (s : State) : State :=
  let s0 := if s.pw.power = 2 then s.modCa (fun c => { c with haltAt := some (now s) }) else s
  let s1 := (ringClose csOff s0).modSv (fun v => { v with anyActive := false, tkoFrom := some (d, cause), ready := false })
  if (standbyDom s1).isSome then s1 else noDomain s1

/-- A verdict of FENCED or ABSENT on domain `d` (R493). With the arbiter's heartbeat missing roles stay (R496). -/
def verdict (d : Dom) (fenced : Bool) (cause : Nat) (s : State) : State :=
  let was := roleOf s d
  if s.is .SV_STAT_ARB_FAULT ∨ was = .absent ∨ (was = .fenced ∧ fenced) then s
  else if was = .fenced then noteFail d cause (setRole d .absent s)
  else
    let s1 := noteFence d (noteFail d cause (setRole d (if fenced then .fenced else .absent) s))
    if was = .active then activeLost d cause s1
    else
      let s2 := standbyLost s1
      if s.sv.anyActive then s2.when fenced (fenceRecord d cause)
      else if s.sv.tkoFrom.isSome then noDomain s2 else s2

/-- LOGIC_FEED_LOSS (R490, R493). -/
def execLogicFeedLoss (d : Dom) (s : State) : Out :=
  .next (let s1 := s.modSv (fun v => match d with | .a => { v with feedA := false } | .b => { v with feedB := false })
    if ¬ s.pw.on then s
    else if ¬ (s1.sv.feedA ∨ s1.sv.feedB) then noDomain s1
    else verdict d false fcSupply s1)

/-- CLOCK_MONITOR_TRIP (R493, R540). -/
def execClockMonitorTrip (d : Dom) (s : State) : Out :=
  .next (verdict d true fcClock (if s.pw.power = 0 ∧ ¬ s.sv.anyActive ∧ s.sv.tkoFrom.isNone then
    (startFail 3 s).modPw (fun w => { w with drv := if w.drv = d then otherDom d else w.drv }) else s))

/-- HEARTBEAT_MISS (R493). -/
def execHeartbeatMiss (d : Dom) (s : State) : Out := .next (verdict d true fcHeartbeat s)

/-- SELFCHECK_REPORT (R493): a PLL unlock, an uncorrectable memory error or a failed slice. -/
def execSelfcheckReport (d : Dom) (ecc : Bool) (s : State) : Out := .next (verdict d true (if ecc then fcEcc else fcSelftest) s)

/-- The largest span of the chains of tile `t`, in ticks (R182, R495). -/
def tileSpan (s : State) (t : Nat) : Nat :=
  ([12, 13, 14, 15].map (fun k => let r := (s.chain (16 * t + k)).cur; (regPar s r).span * perTicks r.lean)).foldl max 0

/-- The digest of millisecond `m` over the samples delivered in it (R494): in ascending a, within a channel in sequence order. -/
def digestOf (s : State) (m : Nat) : Nat :=
  let l := s.sv.ents.filter (fun e => e.tick / tickMs == m)
  crc32 (wordsBytes ((List.range 64).flatMap (fun a => (l.filter (fun e => e.a == a)).flatMap (fun e => [e.w0, e.w1]))))

/-- DIGEST_FORM (R494, R511): at the end of a millisecond domain `d` reports its digest; `diff` is what its own samples differ by, `bad` the tiles from which it
received corrupt link frames. With the active domain's report a change of half-mast takes effect. -/
def digestForm (d : Dom) (diff : Nat) (bad : Nat) (s : State) : State :=
  if now s < tickMs ∨ ¬ s.sv.anyActive then s
  else
    let m := now s / tickMs - 1
    let s1 := s.modSv (fun v => { v with
      corrupt := (List.range 16).foldl (fun k t => if bad.testBit t then kset 0 k t (m + 1) else k) v.corrupt })
    let g : Digest := { ms := m, crc := digestOf s m ^^^ diff, tiles := bad }
    let s2 := s1.modSv (fun v => match d with | .a => { v with digA := some g } | .b => { v with digB := some g })
    if activeDom s = some d then s2.modSv (fun v => { v with hm := decide (hmWhy s ≠ 0), ents := v.ents.filter (fun e => decide (m ≤ e.tick / tickMs)) })
    else s2
def execDigestForm (d : Dom) (diff : BitVec 32) (bad : BitVec 16) (s : State) : Out := .next (digestForm d diff.toNat bad.toNat s)

/-- Some tile's frames were corrupt in millisecond `m`, or in the span before it of one of its chains (R495). -/
def linkFault (s : State) (m : Nat) : Bool :=
  (List.range 16).any (fun t => let c := kget 0 s.sv.corrupt t
    c != 0 && decide (c ≤ m + 1) && decide (m * tickMs ≤ c * tickMs + tileSpan s t))

/-- DIGEST_COMPARE (R494, R495). -/
def digestCompare (s : State) : State :=
  match s.sv.digA, s.sv.digB with
  | some x, some y =>
    let s1 := s.modSv (fun v => { v with digA := none, digB := none })
    if s.sv.stby ≠ .inStep ∨ x.ms ≠ y.ms ∨ x.crc = y.crc then s1
    else
      let s2 := s1.modSv (fun v => { v with lastMismatch := some (clk s) })
      if linkFault s x.ms then
        if x.ms ≤ s.sv.skipTo then s1
        else (s2.inc .SV_CNT_LINKMISS).modSv (fun v => { v with linkMiss := v.linkMiss + 1, skipTo := x.ms + 1 })
      else
        let recent := match s.sv.lastCheck with
          | some t => decide (clk s < t + 10 * tickS)
          | none => false
        if recent then (s2.inc .SV_CNT_DISAGREE).modSv (fun v => { v with disagrees := v.disagrees + 1 })
        else if s.sv.selfCheck.isSome then s2
        else s2.modSv (fun v => { v with selfCheck := some x.ms })
  | _, _ => s
def execDigestCompare (s : State) : Out := .next (digestCompare s)

/-- SELFCHECK_DONE (R495, R496): what the self-check of each domain found. -/
def selfcheckDone (failA failB : Bool) (s : State) : State :=
  match s.sv.selfCheck with
  | none => s
  | some m =>
    let s1 := s.modSv (fun v => { v with selfCheck := none })
    let fail := fun (d : Dom) => match d with | .a => failA | .b => failB
    match activeDom s with
    | none => s1
    | some d =>
      let s2 := if fail (otherDom d) then verdict (otherDom d) true fcDigest s1 else s1
      if fail d then verdict d true fcDigest s2
      else if fail (otherDom d) then s2
      else
        svRecord 4 0 (domIx d) 0 m (((s2.set1 .SV_STAT_DISAGREE).inc .SV_CNT_DISAGREE).modSv (fun v =>
          { v with disagrees := v.disagrees + 1, lastCheck := some (clk s) }))
def execSelfcheckDone (failA failB : Bool) (s : State) : Out := .next (selfcheckDone failA failB s)

/-- DISAGREE_CLEAR (R495): 60 s without a mismatch. -/
def execDisagreeClear (s : State) : Out :=
  .next (if s.is .SV_STAT_DISAGREE ∧ (s.sv.lastMismatch.getD 0) + 60 * tickS ≤ clk s then
    svRecord 4 1 ((activeDom s).elim 0 domIx) 0 (now s / tickMs) (s.put .SV_STAT_DISAGREE 0)
  else s)

/-- ARBITER_HEARTBEAT_LOSS and ARBITER_HEARTBEAT_RETURN (R496, R510, R516). -/
def execArbiterHeartbeatLoss (s : State) : Out :=
  .next (if s.is .SV_STAT_ARB_FAULT ∨ ¬ s.sv.anyActive then s else svRecord 9 0 0 0 0 (s.set1 .SV_STAT_ARB_FAULT))
def execArbiterHeartbeatReturn (s : State) : Out :=
  .next (if s.is .SV_STAT_ARB_FAULT then svRecord 9 1 0 0 0 (s.put .SV_STAT_ARB_FAULT 0) else s)

/-- A tile whose link to the active domain is lost serves no slot. -/
def slotIdle (t : Nat) (s : State) : State := if tileUp s t then s else s.modTile t (fun x => { x with slot := none })

/-- TILE_LINK_LOSS (R176, R492): no valid frames on the link of tile `t` to domain `d` for more than 1 ms. -/
def linkLoss (t : Nat) (d : Dom) (s : State) : State :=
  if ¬ linkUp s t d then s
  else
    let s1 := match d with
      | .a => (s.put (.TILE_FEED_LINK_A t) 0).modTile t (fun x => { x with lostA := true })
      | .b => (s.put (.TILE_FEED_LINK_B t) 0).modTile t (fun x => { x with lostB := true })
    let s2 := slotIdle t (calLose t s1)
    if standbyDom s = some d then outOfStep s2 else s2
def execTileLinkLoss (t : Fin 16) (d : Dom) (s : State) : Out := .next (linkLoss t d s)

/-- TILE_LINK_RETRY (R540): the link of tile `t` to domain `d` fails its training; it is retried every 100 ms. A LINKTRAIN of it fails (R522). A tile without power
has no link to train: the start's step 5 has failed. -/
def linkRetry (t : Nat) (d : Dom) (s : State) : State :=
  if linkUp s t d then s
  else if ¬ (s.tile t).power then s.when (decide (s.pw.power = 0)) (startFail 5)
  else
    let s1 := s.modTile t (fun x => match d with | .a => { x with retryA := true } | .b => { x with retryB := true })
    if standbyDom s = some d ∧ s.sv.trainTile = some t ∧ permitHeld s actLink then verdict d true fcDomtest s1
    else bootCheck (s1.when (decide (s.pw.power = 0)) (startFail 5))
def execTileLinkRetry (t : Fin 16) (d : Dom) (s : State) : Out := .next (linkRetry t d s)

/-- Replaces an entry, an instruction, a coefficient or a context word by 0 where nothing holds its value (R513); a context word is open (assumption log 48). -/
def wordLost (m a : Nat) (s : State) : State :=
  match m with
  | 0 =>
    s.each (List.range 128) (fun q s => s.each ((s.queue q).ents.filter (fun e =>
        (List.range (e.len / 4)).any (fun i => qmemIx s q (e.pos + 4 * i) == a / 4))) (fun e s =>
      putWords q e.pos (List.replicate (e.len / 4) 0) s))
  | 1 => if isHoistMem a then wr a 0 s else s
  | 2 => if Reg.PR_TAP 0 0 ≤ a ∧ a < Reg.PR_TAP 11 64 ∧ 0x100 ≤ (a - Reg.PR_CIC 0) % 0x200 then
      let x := (a - Reg.PR_CIC 0) / 0x200
      let s1 := wr a 0 s
      if 8 ≤ x then prRefresh x s1 else s1
    else s
  | _ => if 0x40000 ≤ a ∧ a < 0x4A000 ∧ 0x40 ≤ a % 0x100 ∧ a % 0x100 < 0x80 then (wr a (freeNow s) s).useFree else s

/-- SCRUB (R512, R513): domain `d` reads a word of memory `m` (0 queue, 1 hoist, 2 coefficient, 3 context) at `a`: `err` 0 intact, 1 a single-bit error, 2 a
double-bit error. `pass`: this word ends a pass. -/
def scrub (d : Dom) (m a err : Nat) (pass : Bool) (s : State) : State :=
  let s0 := s.when pass (·.modSv (fun v => { v with scrubPasses := v.scrubPasses + 1 }))
  if err = 0 ∨ ¬ s.sv.anyActive then s0
  else if err = 1 then (s0.inc .SV_ECC_CORR).modSv (fun v => { v with eccCorr := v.eccCorr + 1 })
  else
    let act := activeDom s == some d
    let s1 := (s0.inc .SV_ECC_UNCORR).modSv (fun v => { v with eccUncorr := v.eccUncorr + 1 })
    let s2 := svRecord 8 (b2n act) (domIx d) m a s1
    if act then (if hasStandby s then verdict d true fcEcc s2 else wordLost m a s2)
    else outOfStep s2
def execScrub (d : Dom) (m : Fin 4) (a : Word) (err : Fin 3) (pass : Bool) (s : State) : Out := .next (scrub d m a.toNat err pass s)

/-- A test of the standby that fails fences it (R512). -/
def standbyFails (s : State) : State := match standbyDom s with
  | some d => verdict d true fcSelftest s
  | none => s

/-- BANK_MARCH (R512): every 4 s a bank of the standby's queue memory is marched; `bad`: it fails. -/
def execBankMarch (bad : Bool) (s : State) : Out :=
  .next (if s.sv.stby ≠ .inStep ∨ clk s < s.sv.marchAt + 4 * tickS then s
  else
    let s1 := s.modSv (fun v => { v with marched := v.marched + 1, spare := v.spare && !bad, marchAt := clk s })
    if bad ∧ ¬ s.sv.spare then standbyFails s1 else s1)

/-- LOGIC_SLICE_TEST and CAN_LOOPBACK_TEST (R512): a slice every 10 ms, a port every minute. -/
def execLogicSliceTest (ok : Bool) (s : State) : Out :=
  .next (if s.sv.stby ≠ .inStep ∨ clk s < s.sv.sliceAt + tick10Ms then s
    else if ok then s.modSv (fun v => { v with slices := v.slices + 1, sliceAt := clk s }) else standbyFails s)
def execCanLoopbackTest (ok : Bool) (s : State) : Out :=
  .next (if s.sv.stby ≠ .inStep ∨ clk s < s.sv.loopAt + 60 * tickS then s
    else if ok then s.modSv (fun v => { v with loops := v.loops + 1, loopAt := clk s }) else standbyFails s)

/-- Codes of roles and conditions (R492, R526). -/
def roleCode (x : Role) : Nat := match x with | .absent => 0 | .active => 1 | .standby => 2 | .fenced => 3
def stbyCode (x : Stby) : Nat :=
  match x with | .none => 0 | .inStep => 1 | .rejoining => 2 | .outOfStep => 3 | .testing => 4 | .warm => 5

/-- The condition shown for domain `d`. -/
def stbyShown (s : State) (d : Dom) : Nat := if roleOf s d = .standby then stbyCode s.sv.stby else 0
def actDomBit (s : State) : Nat := b2n (s.sv.roleB == .active)

/-- Two facts per tile as a word, by bit positions. -/
def tileBits (f : Nat → Nat) : Nat := (List.range 16).foldl (fun n t => n + f t) 0

/-- The sixteen words of a burgee (R515); `temps` is word 9. -/
def burgeeWords (s : State) (temps : Word) : List Word :=
  let v := s.sv
  let since := if s.get .SV_FAIL_CAUSE = 0 then 0 else min 0xFFFF ((clk s - v.failAt) / tickS)
  [wd (mk [(roleCode v.roleA, 30), (roleCode v.roleB, 28), (stbyShown s .a, 25), (stbyShown s .b, 22), (b2n (halfMast s), 21), (s.get .SV_STAT_DISAGREE, 20),
     (s.get .SV_STAT_ARB_FAULT, 19), (actDomBit s, 18), (v.epoch % 65536, 0)]),
   wd v.burgeeNo, wd (now s), wd (now s / 2 ^ 32),
   wd (tileBits (fun t => s.get (.TILE_FEED_A_OK t) * 2 ^ (2 * t) + s.get (.TILE_FEED_B_OK t) * 2 ^ (2 * t + 1))),
   wd (tileBits (fun t => s.get (.TILE_FEED_LINK_A t) * 2 ^ t + s.get (.TILE_FEED_LINK_B t) * 2 ^ (16 + t))),
   wd (mk [((rd s Reg.SV_TKO).toNat % 65536, 16), (v.disagrees % 256, 8), (v.linkMiss % 256, 0)]),
   wd (mk [(v.jlagMax, 16), ((rd s Reg.SV_JSEQ).toNat % 65536, 0)]),
   wd (mk [(s.get .SV_FAIL_CAUSE, 24), (s.get .SV_FAIL_DOM, 23), (since, 0)]), temps,
   wd (mk [(v.eccCorr % 65536, 16), (v.eccUncorr % 65536, 0)]), wd (mk [(v.scrubPasses % 65536, 16), (v.marched % 65536, 0)]),
   wd (mk [(v.slices % 65536, 16), (v.loops % 256, 8), (v.ftPassed % 256, 0)]), wd (mk [(v.ftFailed % 65536, 16), (s.get .SV_PERMIT_HELD, 0)]),
   wd ((clk s - v.coldAt) / tickS), 0]

/-- BURGEE (R515): one period has passed. `temps`: the four temperatures. -/
def burgee (temps : Word) (s : State) : State :=
  if s.get .SV_BURGEE_PERIOD = 0 ∨ ¬ s.sv.anyActive ∨ s.pw.power = 0 ∨ s.pw.power = 4 ∨ s.pw.power = 6
      ∨ clk s < s.sv.burgeeAt + s.get .SV_BURGEE_PERIOD * tickS then s
  else
    let q := s.get .SV_BURGEE_Q
    let s1 := qPushFixed 64 q .active [burgeeWords s temps] s
    s1.modSv (fun v => { v with burgeeNo := (v.burgeeNo + 1) % 2 ^ 32, jlagMax := 0, burgeeAt := clk s })
def execBurgee (temps : Word) (s : State) : Out := .next (burgee temps s)

/-- PERIOD of the watchdog in ticks (R525). -/
def wdogTicks (s : State) : Nat := s.get .MOD_WDOG_PERIOD * tick10Ms

/-- The watchdog's deadline, as a clock edge. -/
def wdogDl (x : Option Nat) (s : State) : State := s.modSv (fun v => { v with wdogDl := x })

/-- The settings of `MOD_WDOG` (R517, R525): a PERIOD outside 1 to 6,000 is replaced, with CFG_ADJ. -/
def wdogSettings (w : Word) (s : State) : State :=
  let p := bits w 15 0
  let p' := max 1 (min p 6000)
  let on := bitAt w 23
  let s1 := ((s.put .MOD_WDOG_PERIOD p').putB .MOD_WDOG_CFG_ADJ (p ≠ p')).putB .MOD_WDOG_EN on
  if ¬ on then wdogDl none s1 else if s.is .MOD_WDOG_EN then s1 else wdogDl (some (clk s + wdogTicks s1)) s1

/-- A service of the watchdog (R517). -/
def wdogServe (s : State) : State :=
  let s1 := if s.is .MOD_WDOG_EN then wdogDl (some (clk s + wdogTicks s)) s else s
  if s.is .MOD_WDOG_EXPIRED then svRecord 7 1 0 0 (s.get .MOD_WDOG_PERIOD) (s1.put .MOD_WDOG_EXPIRED 0) else s1

/-- A write of `MOD_WDOG` (R517, R525): its settings, unless they are locked (`lk`), and a service where SERVICE is 0xA5. -/
def wdogWrite (lk : Nat) (w : Word) (s : State) : State :=
  let s1 := if lk = 0 then wdogSettings w s else s
  if bits w 31 24 = 0xA5 then wdogServe s1 else s1

/-- WDOG_SERVICE (R517): a write of `MOD_WDOG` whose SERVICE is 0xA5 and which leaves the settings. -/
def execWdogService (r : Req) (s : State) : Out :=
  .next (regWrite r Reg.MOD_WDOG Msk.MOD_WDOG (setBits (rd s Reg.MOD_WDOG) 31 24 0xA5) (fun w s => if bits w 31 24 = 0xA5 then wdogServe s else s) s)

/-- WDOG_EXPIRY (R517). -/
def wdogExpiry (s : State) : State :=
  match s.sv.wdogDl with
  | some t =>
    if t ≤ clk s ∧ s.sv.anyActive then
      let s1 := (s.set1 .MOD_WDOG_EXPIRED).modSv (fun v => { v with wdogDl := none })
      svRecord 7 0 0 0 (s.get .MOD_WDOG_PERIOD) (allTiles (fun t s => safeRefresh t (s.set1 (.TILE_SAFE_WDOG t))) s1)
    else s
  | none => s
def execWdogExpiry (s : State) : Out := .next (wdogExpiry s)

/-- The answer to a request for a permit with a tile (R521). -/
def feedAnswer (s : State) (t : Nat) : Nat :=
  if ¬ (s.is (.TILE_FEED_A_OK t) ∧ s.is (.TILE_FEED_B_OK t)) then prNotAllowed else permitAnswer s actFeed

/-- A feed test of tile `t` is asked for (R514, R518). -/
def feedRequest (t : Nat) (s : State) : State :=
  let a := feedAnswer s t
  let s1 := permitDecideT actFeed a t s
  if a = prGranted then (s1.set1 (.TILE_FEED_TEST t)).modSv (fun v => { v with feedTile := some t, feedAt := clk s }) else s1

/-- A LINKTRAIN of tile `t` (R522): the standby's link trains again, and then the standby rejoins. -/
def linkRequest (t : Nat) (s : State) : State :=
  let a := permitAnswer s actLink
  let s1 := permitDecideT actLink a t s
  if a = prGranted then
    match standbyDom s with
    | some d => (outOfStep (match d with | .a => s1.put (.TILE_FEED_LINK_A t) 0 | .b => s1.put (.TILE_FEED_LINK_B t) 0)).modSv
        (fun v => { v with trainTile := some t })
    | none => s1
  else s1

/-- A DOMTEST (R522). -/
def domtestRequest (s : State) : State :=
  let a := permitAnswer s actDom
  let s1 := permitDecide actDom a s
  if a = prGranted then (outOfStep s1).modSv (fun v => { v with stby := if v.stby = .outOfStep then .testing else v.stby, domAt := clk s }) else s1

/-- A SWITCH (R509). -/
def switchRequest (s : State) : State :=
  let a := permitAnswer s actSwitch
  let s1 := permitDecide actSwitch a s
  if a = prGranted then (s1.set1 .SV_STAT_SWITCHING).modSv (fun v => { v with switchAt := some (clk s) }) else s1

/-- NVMWRITE and its RELEASE (R518). -/
def nvmRequest (s : State) : State := permitDecide actNvm (permitAnswer s actNvm) s
def nvmRelease (s : State) : State := if permitHeld s actNvm then permitEnd actNvm prDone s else s

/-- Domain `d` begins to rejoin (R503, R504, R516). -/
def rejoinBegin (d : Dom) (s : State) : State :=
  svRecord 3 0 (domIx d) 0 0 ((setRole d .standby s).modSv (fun v => { v with stby := .rejoining, rejoin := some d, rejoinAt := clk s }))

/-- A module in which a domain can rejoin: one is active, and it is not asleep (R503, R532). -/
def canRejoin (s : State) (d : Dom) : Bool :=
  s.sv.anyActive && s.sv.rejoin.isNone && s.pw.power != 4 && s.pw.power != 6 && roleOf s d != .active

/-- A REJOIN (R504): the FENCED domain is reset and rejoins. -/
def rejoinRequest (s : State) : State :=
  let go := fun (d : Dom) (s : State) =>
    rejoinBegin d (s.modSv (fun v => match d with | .a => { v with stayA := false } | .b => { v with stayB := false }))
  if s.sv.roleA = .fenced ∧ canRejoin s .a then go .a s else if s.sv.roleB = .fenced ∧ canRejoin s .b then go .b s else s

/-- A write of `SV_CMD` (R528). -/
def svCmdWrite (w : Word) (s : State) : State :=
  let t := bits w 19 16
  match bits w 31 28 with
  | 1 => switchRequest s
  | 2 => domtestRequest s
  | 3 => feedRequest t s
  | 4 => linkRequest t s
  | 5 => nvmRequest s
  | 6 => nvmRelease s
  | 7 => rejoinRequest s
  | _ => s

/-- SWITCH, DOMTEST, FEEDTEST, LINKTRAIN, NVMWRITE, RELEASE, REJOIN: writes of `SV_CMD` with the OP. -/
def svCmd (r : Req) (op t : Nat) (s : State) : Out := .next (regWrite r Reg.SV_CMD Msk.SV_CMD (wd (mk [(op, 28), (t, 16)])) svCmdWrite s)
def execSwitch (r : Req) (s : State) : Out := svCmd r 1 0 s
def execDomtest (r : Req) (s : State) : Out := svCmd r 2 0 s
def execFeedtest (r : Req) (t : Fin 16) (s : State) : Out := svCmd r 3 t s
def execLinktrain (r : Req) (t : Fin 16) (s : State) : Out := svCmd r 4 t s
def execNvmwrite (r : Req) (s : State) : Out := svCmd r 5 0 s
def execRelease (r : Req) (s : State) : Out := svCmd r 6 0 s
def execRejoin (r : Req) (s : State) : Out := svCmd r 7 0 s

/-- DOMTEST_END (R522): after 2 s the standby rejoins; a test that fails fences it. -/
def domtestEnd (ok : Bool) (s : State) : State :=
  match standbyDom s with
  | some d => if s.sv.stby ≠ .testing ∨ (ok ∧ clk s < s.sv.domAt + 2 * tickS) then s else if ok then rejoinBegin d s else verdict d true fcDomtest s
  | none => s
def execDomtestEnd (ok : Bool) (s : State) : Out := .next (domtestEnd ok s)

/-- The next tile, in ascending t, whose two feeds are OK (R514). -/
def nextFeedTile (s : State) : Option Nat :=
  ((List.range 16).map (fun i => (s.sv.ftNext + i) % 16)).find? (fun t => s.is (.TILE_FEED_A_OK t) && s.is (.TILE_FEED_B_OK t))

/-- FEEDTEST_SCHEDULE (R514): the interval has passed; a refused request is repeated 10 minutes later. -/
def feedSchedule (s : State) : State :=
  let per := s.get .SV_CFG_FT_PER
  if per = 0 ∨ ¬ s.sv.anyActive ∨ clk s < s.sv.ftAt then s
  else match nextFeedTile s with
    | none => s.modSv (fun v => { v with ftAt := clk s + tick10min })
    | some t =>
      let ok := feedAnswer s t == prGranted
      (feedRequest t s).modSv (fun v => { v with ftAt := clk s + (if ok then per * tick10min else tick10min),
                                                  ftNext := if ok then (t + 1) % 16 else v.ftNext })
def execFeedtestSchedule (s : State) : Out := .next (feedSchedule s)

/-- FEEDTEST_END (R514): the test passed after its 10 ms, or failed early with the idle feed marked not OK; `second`: the idle feed is VF_B. -/
def feedtestEnd (ok second : Bool) (s : State) : State :=
  match s.sv.feedTile with
  | none => s
  | some t =>
    if ok ∧ clk s < s.sv.feedAt + tick10Ms then s else
    let s1 := (s.put (.TILE_FEED_TEST t) 0).modSv (fun v => { v with feedTile := none })
    if ok then permitEndT actFeed prDone t (s1.modSv (fun v => { v with ftPassed := v.ftPassed + 1 }))
    else
      let s2 := (s1.set1 (.TILE_FEED_TEST_FAIL t)).put (if second then .TILE_FEED_B_OK t else .TILE_FEED_A_OK t) 0
      permitEndT actFeed prFailed t (svRecord 6 2 0 t (if second then 2 else 1) (s2.modSv (fun v => { v with ftFailed := v.ftFailed + 1 })))
def execFeedtestEnd (ok second : Bool) (s : State) : Out := .next (feedtestEnd ok second s)

/-- A write of `SV_CFG` (R514, R527): JEPOCH 0 is 1, 17 to 31 is 16; a new interval between feed tests runs from now on. -/
def svCfgWrite (w : Word) (s : State) : State :=
  let j := bits w 4 0
  let j' := max 1 (min j 16)
  let s1 := (store Reg.SV_CFG Msk.SV_CFG (setBits w 4 0 j') s).putB .SV_STAT_CFG_ADJ (j ≠ j')
  let per := s1.get .SV_CFG_FT_PER
  if per = s.get .SV_CFG_FT_PER then s1 else s1.modSv (fun v => { v with ftAt := clk s + per * tick10min })

end Sys2Proof.Machine
end

