-- ==== Sys2Proof/Machine/Takeover.lean ====
section
/-! DEFINITION. The journal, rejoining, takeovers and planned switchovers (spec/16, R497, R500 to R509, R545, R546; the units' own rules R224, R252, R253, R271,
R317, R355, R450, R463, R481). -/

namespace Sys2Proof.Machine

/-- Ticks of a journal interval (R502). -/
def jTicks (s : State) : Nat := max 1 (s.get .SV_CFG_JEPOCH) * 12288

/-- HALYARD_IMMEDIATE (R500): an immediate message is received and acknowledged ahead of its effect; the effect is the command's that made it. -/
def execHalyardImmediate (s : State) : Out := .next s

/-- IMMEDIATE_ACK_TIMEOUT (R500). -/
def execImmediateAckTimeout (s : State) : Out := .next (outOfStep s)

/-- The clock edge at which the last epoch closed. -/
def lastClose (s : State) : Nat :=
  match s.jpend.getLast? with
  | some j => j.edge
  | none => (s.jcom.map (·.edge)).getD 0

/-- JOURNAL_EPOCH_CLOSE (R502): an interval has passed; the epoch's commit goes to the standby. -/
def epochClose (s : State) : State :=
  if hasStandby s ∧ s.sv.anyActive ∧ lastClose s + jTicks s ≤ clk s then
    let j := { snapOf s.jseq s with lates := s.late.length, trigs := s.ltrigs.length, cals := s.ca.wrote.length }
    { s with jpend := s.jpend ++ [j], jseq := (s.jseq + 1) % 2 ^ 32 }
  else s
def execJournalEpochClose (s : State) : Out := .next (epochClose s)

/-- What a commit makes known of each context: its records up to then are committed, and `CTX_CKPT` shows the last (R353, R364). -/
def ckptCommit (j : JSnap) (s : State) : State :=
  let s1 := s.each j.ctxs (fun p s => match p.2.ckpt with
    | some r => if kget 0 s.ckptDone p.1 = p.2.ckptNo then s else showCkpt p.1 r s
    | none => s)
  s1.each j.ctxs (fun p s => { s with ckptDone := kset 0 s.ckptDone p.1 p.2.ckptNo })

/-- JOURNAL_COMMIT (R502): the standby applies the oldest epoch whole and acknowledges it. -/
def journalCommit (s : State) : State :=
  match s.jpend with
  | [] => s
  | j :: rest =>
    if ¬ hasStandby s then s
    else
      let lag := min 0xFFFF ((clk s - j.edge) * 1000000 / tickS)
      let s1 := { s with
        jcom := some { j with lates := 0, trigs := 0, cals := 0 }, late := s.late.drop j.lates, ltrigs := s.ltrigs.drop j.trigs,
        ca := { s.ca with wrote := s.ca.wrote.drop j.cals },
        jpend := rest.map (fun k => { k with lates := k.lates - j.lates, trigs := k.trigs - j.trigs, cals := k.cals - j.cals }) }
      let s2 := ((wr Reg.SV_JSEQ (wd j.jseq) s1).put .SV_JLAG_LAST lag).put .SV_JLAG_MAX (max lag (s.get .SV_JLAG_MAX))
      ckptCommit j (s2.modSv (fun v => { v with jlagMax := max lag v.jlagMax }))
def execJournalCommit (s : State) : Out := .next (journalCommit s)

/-- JOURNAL_LAG_TIMEOUT (R502): the oldest unacknowledged commit is 4 intervals old. -/
def lagTimeout (s : State) : State :=
  match s.jpend, standbyDom s with
  | j :: _, some d => if j.edge + 4 * jTicks s ≤ clk s then noteFail d fcJournal (outOfStep s) else s
  | _, _ => s
def execJournalLagTimeout (s : State) : Out := .next (lagTimeout s)

/-- REJOIN_START (R503, R504): a standby that is OUT_OF_STEP, a FENCED domain with AUTO_REJOIN that has not been fenced again, or an ABSENT one whose feed has
returned. -/
def rejoinStart (d : Dom) (s : State) : State :=
  if ¬ canRejoin s d then s
  else match roleOf s d with
    | .standby => if s.sv.stby = .outOfStep then rejoinBegin d s else s
    | .fenced =>
      let stay : Bool := match d with | .a => s.sv.stayA | .b => s.sv.stayB
      if s.is .SV_CFG_AUTO_REJOIN ∧ ¬ stay then
        rejoinBegin d (s.modSv (fun v => match d with | .a => { v with autoA := some (clk s) } | .b => { v with autoB := some (clk s) }))
      else s
    | .absent => rejoinBegin d (s.modSv (fun v => match d with | .a => { v with feedA := true } | .b => { v with feedB := true }))
    | .active => s
def execRejoinStart (d : Dom) (s : State) : Out := .next (rejoinStart d s)

/-- Domain `d` has trained its links to the tiles that the active domain reaches (R503, step 2; assumption log 90). -/
def standbyLinked (s : State) (d : Dom) : Bool := (List.range 16).all (fun t => !tileUp s t || linkUp s t d)

/-- REJOIN_COMPLETE (R503, R516, R522, R533): the copy is made and the domain is in step, or its image differs. -/
def rejoinComplete (ok : Bool) (s : State) : State :=
  match s.sv.rejoin with
  | none => s
  | some d =>
    if ok ∧ ¬ standbyLinked s d then s else
    let ms := (clk s - s.sv.rejoinAt) / tickMs
    let s1 := (s.modSv (fun v => { v with rejoin := none })).modPw (fun w => { w with planned := false })
    if ok then
      let s2 := s1.modSv (fun v => { v with stby := stbyFor s.pw.power .inStep })
      let s3 := standbyTests prDone (svRecord 3 1 (domIx d) 0 ms (wr Reg.SV_JSEQ 0 s2))
      { journalDrop s3 with jseq := 0, jcom := some (snapOf 0 s3), ckptDone := s3.ctxs.map (fun p => (p.1, p.2.ckptNo)) |>.filter (fun p => p.2 ≠ 0) }
    else svRecord 3 2 (domIx d) 0 ms (verdict d true fcImage s1)
def execRejoinComplete (ok : Bool) (s : State) : Out := .next (rejoinComplete ok s)

/-- The next activation epoch (R497). -/
def nextEpoch (e : Nat) : Nat := if e % 65536 = 0xFFFF then 1 else e % 65536 + 1

/-- TAKEOVER (R505, R508): the arbiter assigns ACTIVE with the next epoch to the standby. A standby neither IN_STEP nor WARM starts cold. -/
def takeover (s : State) : State :=
  match s.sv.tkoFrom, standbyDom s with
  | some _, some d =>
    if s.is .SV_STAT_ARB_FAULT ∨ s.sv.ready then s
    else (setRole d .active s).modSv (fun v => { v with epoch := nextEpoch v.epoch, ready := true, cold := !hasStandby s, stby := .none, rejoin := none })
  | _, _ => s
def execTakeover (s : State) : Out := .next (takeover s)

/-- Registers that the tiles hold, so that a takeover reads them back (R546). -/
def tileHeldH (a : Nat) : Bool :=
  (decide (0x10000 ≤ a) && decide (a < 0x20000) && (a % 0x1000 == 4 || a % 0x1000 == 8))
    || (decide (0x20000 ≤ a) && decide (a < 0x30000) && (a % 0x100 == 4 || a % 0x100 == 0x94))

/-- Registers of which the new active domain has its own present values (R501): what the tiles, the chains, the event engine and the arbiter hold. -/
def ownValue (a : Nat) : Bool :=
  (decide (0x10000 ≤ a) && decide (a < 0x20000))
    || (decide (0x20000 ≤ a) && decide (a < 0x30000) && a % 0x100 != 0x44 && a % 0x100 != 0x88)
    || (decide (0x1000 ≤ a) && decide (a < 0x2000)) || (decide (0xC000 ≤ a) && decide (a < 0xE800)) || a == Reg.MOD_START || a == Reg.MOD_WDOG

/-- Registers whose status fields are journalled with the unit (R501): queues, log, contexts, engines, CAN but its buffers. -/
def unitValue (a : Nat) : Bool :=
  (decide (0x30000 ≤ a) && decide (a < 0x50000)) || (decide (0x50000 ≤ a) && decide (a < 0x60000) && decide (a % 0x4000 < 0x1000))

/-- Filter settings reach both domains with their edge (R188, R206). -/
def filterValue (a : Nat) : Bool :=
  (decide (0xE000 ≤ a) && decide (a < 0x10000))
    || (decide (0x20000 ≤ a) && decide (a < 0x30000) && ((decide (0xA0 ≤ a % 0x100) && decide (a % 0x100 < 0xB0)) || decide (0xD0 ≤ a % 0x100)))

/-- Latest-value buffers. -/
def isLvb (a : Nat) : Bool := decide (0x50000 ≤ a) && decide (a < 0x60000) && decide (0x1000 ≤ a % 0x4000) && decide (a % 0x4000 < 0x2000)

/-- A register in the new active domain (R545, R546): `w` is its value before the takeover, `v` the committed one. `lean`: the takeover is in LEAN, where
latest-value buffers come by journal (R316). -/
def tkoWord (lean : Bool) (a : Nat) (w v : Word) : Word :=
  if lean && isLvb a then v
  else
    let pick := fun (cl : Cls) (x : Word) (u : Word) => blend (classMask (fun x => x = cl) a) u x
    let img := classMask (fun x => x = Cls.i) a != 0
    pick Cls.h (if tileHeldH a then w else resetWord a) (pick Cls.i (if filterValue a then w else v) (pick Cls.j (if ownValue a then w else v)
      (pick Cls.s (if (unitValue a || img) && !ownValue a then v else w) w)))

/-- FIRED of the schedules, which both domains evaluate (R280): a firing after the commit stands, a clearing after it does not. -/
def firedOf (a : Nat) (w : Word) : Word :=
  if (List.range 16).any (fun j => a == Reg.TU_SCH_CFG j) then w &&& 0x20 else 0

/-- A converter's factors in the new active domain (R159, R168): the committed ones, or those that a calibration, which both domains compute, has written since. -/
def factorCom (l : List (Nat × Word)) (a : Nat) (v : Word) : Word := l.foldl (fun v p => if p.1 = a then p.2 else v) v

/-- The registers of the new active domain; `l` holds what calibrations have written since the commit. -/
def tkoRegs (lean : Bool) (l : List (Nat × Word)) (cur com : KMap Word) : KMap Word :=
  rebuild (regAddrs cur ++ regAddrs com) (fun a =>
    let w := kget (resetWord a) cur a
    let v := kget (resetWord a) com a
    if heldFactor a ∨ factorGain a then factorCom l a v else tkoWord lean a w v ||| firedOf a w)

/-- The entry number up to which the host, or nobody, had popped before the takeover. -/
def headReached (x : QSt) : Nat := ((x.ents.filter (fun e => e.vis && !e.host)).map (·.no)).min?.getD x.wcnt

/-- A queue as committed, with the entries between the committed head and the head reached marked (R252, R253). No pop has been before: nothing is displaced
since the last one (R248). -/
def rollQueue (cur com : QSt) : QSt :=
  { com with disp := 0,
             ents := (com.ents.filter (·.vis)).map (fun e => { e with pin := none, dup := e.dup || (!e.host && decide (e.no < headReached cur)) }) }

/-- The first sample of a duplicate window: its sequence number. -/
def dupSeq (s : State) (q : Nat) : List QEnt → Option Nat
  | [] => none
  | e :: r =>
    let w := entWords s q e
    if e.dup && !e.host && bits (w.getD 0 0) 7 6 == 0 then some (w.getD 1 0).toNat else dupSeq s q r

/-- The DUP_WINDOW anchor of a channel-bound queue (R241, R253), at the tick at which the queue goes on from its committed state; its SEQ is all
ones where the window holds no sample. -/
def dupAnchor (s : State) (q : Nat) : List QEnt :=
  match boundCh s q with
  | some n =>
    let r := (s.chain n).cur
    let seq := (dupSeq s q (s.queue q).ents).getD 0xFFFFFFFF
    (anchorEnts (halfMast s) 3 r.preset r.lean seq (now s)).map (fun w => { len := 8, own := w, log := true, exp := true })
  | none => []

/-- The duplicate window of a queue with the host as a consumer (R253). -/
def dupWindow (q : Nat) (s : State) : State :=
  let x := s.queue q
  let n := (x.ents.filter (fun e => e.dup && !e.host)).length
  if n = 0 ∨ ¬ s.is (.Q_CFG_HOST q) then s
  else
    let s1 := (s.incWrap (.Q_DUP_TKO q)).put (.Q_DUP_LEFT q) n
    s1.setQueue q { x with ents := dupAnchor s q ++ x.ents }

/-- The entries from number `no` on lie in the duplicate window (R253). -/
def markDup (q no : Nat) (s : State) : State :=
  s.setQueue q { s.queue q with ents := (s.queue q).ents.map (fun e => if no ≤ e.no then { e with dup := true } else e) }

/-- Entries of both domains that came after the commit, as the new active domain wrote them itself (R251, R252); those that the host had popped before the
takeover of `o` lie in the duplicate window (R253). -/
def latePush (o : State) (l : List LateEnt) (s : State) : State :=
  s.each (l.filter (·.both)) (fun e s =>
    let s1 := qPush e.q (match e.chan with | some n => .chan n | none => .both) e.ents s
    if e.no < headReached (o.queue e.q) then markDup e.q (s.queue e.q).wcnt s1 else s1)

/-- What no consumer has still to pass, and no pop keeps any more, is freed (R247). -/
def freeQueue (q : Nat) (s : State) : State := s.setQueue q { s.queue q with ents := liveEnts s q (s.queue q).ents }

/-- Queues at a takeover (R252, R253). -/
def tkoQueues (o : State) (com : JSnap) (s : State) : State :=
  let keys := (com.queues.map (·.1)) ++ (o.queues.map (·.1))
  let s1 : State := { s with
    qmem := com.qmem, pops := []
    queues := keys.foldl (fun m q => kset {} m q (rollQueue (o.queue q) (kget {} com.queues q))) [] }
  (latePush o (if o.pw.power = 2 then [] else o.late) (s1.each (List.range 128) freeQueue)).each (List.range 128) dupWindow

/-- A context that resumes from a record (R355): the run goes on from the recovery point, with every flag 0 (R371). -/
def ctxFrom (c : Nat) (r : Ckpt) (s : State) : State :=
  let s1 := s.each (List.range 16) (fun i s => wr (Reg.CTX_V c i) (r.v.getD i 0) s)
  let s2 := (wr (Reg.CTX_SEQ c) r.seq s1).putB (.CTX_STAT_RX_VALID c) r.rxValid
  let s3 := s2.modCtx c (fun x => { x with
    pc := r.pc, zf := false, nf := false, cf := false, vf := false, ff := false, td := r.td, used := r.used, k := r.k, retryPt := r.retryPt,
    retryPre := false, inResync := false, inbox := [], cur := none, evOff := false, evAbs := false, wait := .none, resv := none, resvBytes := [] })
  let s4 := match r.cv with
    | some run => s3.setCv (s3.get (.CTX_BIND_CVU c)) { run := run, hold := .ctx c }
    | none => s3
  ctxReady c s4

/-- A context outside a run at a takeover (R355). -/
def tkoIdle (c : Nat) (s : State) : State :=
  s.modCtx c (fun x => { x with inbox := [], cur := none, evOff := false, evAbs := false, wait := .none })

/-- A context in a run at a takeover (R355, R358): it resumes, or ends with the offset of its ONCE. -/
def tkoRun (c : Nat) (s : State) : State :=
  let s1 := (s.set1 (.CTX_STAT_TKO c)).put (.CTX_STAT_ON_ENG c) 0
  match (s.ctx c).ckpt with
  | none => s1
  | some r =>
    if r.once then
      let s2 := s1.each (List.range 16) (fun i s => wr (Reg.CTX_V c i) (r.v.getD i 0) s)
      endRun c ccTkoUncertain (wd (offOf s c r.onceAt)) (s2.modCtx c (fun x => { x with wait := .none }))
    else ctxFrom c r s1

/-- The contexts at a takeover: those outside a run first, as the end of a run can trigger them. -/
def tkoCtxs (s : State) : State :=
  let l := enabledCtxs s
  (s.each (l.filter (fun c => !inRun s c)) tkoIdle).each (l.filter (fun c => inRun s c)) tkoRun

/-- A CAN port at a takeover (R271, R304, R316, R317). -/
def tkoCan (o : State) (p : Nat) (s : State) : State :=
  let s1 := s.modCan p (fun x => { x with
    txq := x.txq.map (fun e => { e with errs := 0, arbs := 0, attempts := 0, allAck := true, lastBit := false, clash := false, tko := true, sof := none, flush := none, noStamp := e.src == .tu }),
    att := none, busy := false, resS0 := 0, resRing := 0, rstage := [], lvb := if o.pw.power = 2 then x.lvb else (o.can p).lvb })
  let s2 := s1.each ((s1.can p).lvb.map (·.1)) (fun b s => lvbOpen p b s)
  if s2.is (.CAN_STAT_ASLEEP p) then s2 else canIntegrate p s2

/-- A port whose committed state is bus-off or ALONE delivers its event once more (R355). -/
def tkoEvents (p : Nat) (s : State) : State :=
  let s1 := if s.get (.CAN_STAT_ERR_STATE p) = 2 then portEvent p true s else s
  if s1.is (.CAN_STAT_ALONE p) then portEvent p false s1 else s1

/-- Whether two banks hold the same dip. -/
def sameDip (x y : DipBank) : Bool := bits x.hdr 31 8 == bits y.hdr 31 8 && x.tick == y.tick && x.tgt == y.tgt

/-- A dip bank at a takeover (R223, R224): a release that was not committed, and that no dip has used, is lost; a FILLING one is completed with TKO. -/
def tkoDip (com : JSnap) (b : Nat) (s : State) : State :=
  let c := kget {} com.dips b
  if bankState s b = 0 ∧ ¬ (bits c.hdr 7 6 = 0 ∧ sameDip c (s.dip b)) then setBank b 2 s
  else if bankState s b = 1 then s.setDip b { s.dip b with hdr := setBits (s.dip b).hdr 3 3 1 }
  else s

/-- A field as committed. -/
def JSnap.get (j : JSnap) (f : FldRef) : Nat := bits (kget (resetWord f.a) j.regs f.a) f.hi f.lo

/-- LAND_ID at a takeover (R219, R229): the committed one, advanced by the land edges since, which both domains see. -/
def tkoLand (com : JSnap) (s : State) : State :=
  s.put .EV_DIP_STAT_LAND_ID (com.get .EV_DIP_STAT_LAND_ID + (s.tu.lands - com.tu.lands))

/-- Permits at an unplanned takeover (R157, R523): all but CAL and FEEDTEST end ABANDONED; in LEAN the calibration too. -/
def tkoPermits (s : State) : State :=
  let s1 := if s.ca.swStep.isSome then sweepEnd caAbandoned prAbandoned s else s
  let s2 := s1.each [actDom, actLink, actNvm, actSwitch] (fun a s => if permitHeld s a then permitEnd a prAbandoned s else s)
  let s3 := if permitHeld s actSwitch then (s2.put .SV_STAT_SWITCHING 0).modSv (fun v => { v with switchAt := none }) else s2
  if s.pw.power = 2 then calAbandon s3 else s3

/-- Triggers that the committed state does not show as taken reach the contexts `cs`, which it shows in no run, again (R338, R355): bit 5 of the cause tells it. -/
def lateTrigs (cs : List Nat) (l : List (List Trig)) (s : State) : State :=
  s.each l (fun ts s => s.each cs (fun c s =>
    match hitOf s c ts with
    | some r => acceptTrig c { r with cause := r.cause + 32 } false s
    | none => s))

/-- Everything that the old active domain alone had in progress is gone (R57, R252, R271, R383, R426, R463, R481). -/
def tkoUnits (s : State) : State :=
  let s1 := s1Lose s
  let s2 : State := { s1 with
    rsh := [], wsh := [], engs := [], hcache := [],
    cvs := [] }
  let s3 := s2.each (s1.cvs.filter (fun p => p.2.hold.isHost)) (fun p s => s.set1 (.CV_STAT_TKO p.1))
  let s4 := sp2Show (s3.modSp2 (fun p => { p with xfer := none, post := none, slave := none, sent := [] }))
  let s5 := s4.modS0 (fun h => { ({} : S0St) with quad := h.quad, next := h.next })
  let s6 := allTiles (fun t s => slotRestart t (showPend t (s.modTile t (fun y =>
    if y.inj.any (fun i => i.ctx.isSome) then { y with inj := y.inj.filter (fun i => i.ctx.isNone), slot := none } else y)))) s5
  let s7 := (s6.modTu (fun t => { t with mStamp := none, mFirst := true, refAt := none, tfAt := none })).modCsn (fun k => { k with kept := none, tko := true, retrainAt := none })
  let s8 := if s7.is .CSN_RA_STAT_BUSY then raEnd 8 s7 else s7
  logRestart (trustTko s8)

/-- The records of a takeover (R516): of the fence, and of the takeover. -/
def tkoRecords (d : Dom) (cause kind : Nat) (s : State) : State :=
  let s1 := if roleOf s d = .fenced then fenceRecord d cause s else s
  svRecord 1 cause (domIx d) kind s.sv.epoch s1

/-- The watchdog starts again with its full period (R506). -/
def wdogRestart (s : State) : State :=
  s.modSv (fun v => { v with wdogDl := if s.is .MOD_WDOG_EN && !s.is .MOD_WDOG_EXPIRED then some (clk s + wdogTicks s) else none })

/-- The end of every takeover (R506, R545, R546). -/
def tkoEnd (d : Dom) (cause kind : Nat) (s : State) : State :=
  let s1 := s.modSv (fun v => { v with anyActive := true, tkoFrom := none, ready := false, cold := false, digA := none, digB := none, ents := [], selfCheck := none })
  let s2 := (wr Reg.SV_TKO (rd s Reg.SV_TKO + 1) (wdogRestart s1)).set1 .MOD_START_H_LOST
  tkoRecords d cause kind (ringReturn (allTiles safeRefresh (journalDrop (unquiet { s2 with jseq := 0, ckptDone := [] }))))

/-- The time unit at a takeover (R266): the servo goes on from its committed state, on this domain's own time base and rate; NEXT of a schedule whose committed
settings are others than those before the takeover is formed again. -/
def tkoTu (o : State) (com : JSnap) (s : State) : State :=
  let c := com.tu
  let s1 := s.modTu (fun t => { t with base := c.base, offPrev := c.offPrev, first := c.first, lockRun := c.lockRun, canS := c.canS, mSeq := c.mSeq, ringTx := c.ringTx,
                                       ringOff := c.ringOff, rejRun := c.rejRun, wantMeas := c.wantMeas })
  let s2 := ((s1.put .TU_STAT_STATE (com.get .TU_STAT_STATE)).put .TU_STAT_SRC_EFF (com.get .TU_STAT_SRC_EFF)).put .TU_OFFSET_OFF (com.get .TU_OFFSET_OFF)
  s2.each (List.range 16) (fun j s =>
    if schKind s j = schKind o j ∧ schPer s j = schPer o j ∧ schPhase s j = schPhase o j then s else schRecompute j s)

/-- A takeover from the committed state `com` (R505, R506). -/
def tkoWarm (com : JSnap) (d : Dom) (cause : Nat) (s : State) : State :=
  let s1 : State := { s with
    regs := tkoRegs (s.pw.power == 2) s.ca.wrote s.regs com.regs, ctxs := com.ctxs, cans := com.cans }
  let s2 := tkoTu s com s1
  let s3 := tkoUnits (tkoQueues s com s2)
  let s4 := (tkoLand com (s3.each [0, 1] (tkoDip com))).each [0, 1, 2, 3] (tkoCan s)
  let s5 := tkoPermits ((tkoCtxs s4).each [0, 1, 2, 3] tkoEvents)
  let s6 := lateTrigs ((enabledCtxs s4).filter (fun c => !inRun s4 c)) (if s.pw.power = 1 then s.ltrigs else []) s5
  let s7 := tkoEnd d cause 0 s6
  let e := edgeAt s7 (now s7)
  if s.pw.power = 2 then syncApplyAt e (2 ^ srcTakeover) false (linesResume e s7) else s7

/-- A cold takeover (R508): the image is applied afresh; classes H and J are cleared as at a warm reset. -/
def tkoCold (d : Dom) (cause : Nat) (s : State) : State :=
  let s1 := tkoPermits s
  let s2 := (warmReset s1).put .MOD_START_CAUSE (s.get .MOD_START_CAUSE)
  let s3 := { s2 with regs := rebuild (regAddrs s2.regs) (fun a => blend (classMask (fun x => x = Cls.h) a) (rd s2 a) (if tileHeldH a then rd s a else rd s2 a)) }
  tkoEnd d cause 1 (tkoUnits (s3.modS0 (fun h => { h with quad := s.s0.quad, next := s.s0.next })))

/-- NEW_ACTIVE_READY (R505 to R508): the new active domain is ready and has the pads. -/
def newActiveReady (s : State) : State :=
  match s.sv.tkoFrom with
  | some (d, cause) =>
    if ¬ s.sv.ready then s
    else
      let s1 := match s.sv.cold, s.jcom with
        | false, some com => tkoWarm com d cause s
        | _, _ => tkoCold d cause s
      powerResume s1
  | none => s
def execNewActiveReady (s : State) : Out := .next (newActiveReady s)

/-- An erase on S1. -/
def FlashJob.isErase : FlashJob → Bool
  | .erase _ _ => true
  | _ => false

/-- What a switchover gives up for (R509): a context inside an XFER or an S2 transfer, a window write, an erase. -/
def switchHeld (s : State) : Bool :=
  s.ctxs.any (fun p => match p.2.wait with | .xfer _ => true | _ => false)
    || ((s.sp2.xfer.map (·.ctx)).getD none).isSome || s.sp1.win.isSome
    || ((s.sp1.cmd.map (·.2.isErase)).getD false) || (List.range 8).any (fun r => (((s.logr r).job.map (·.isErase)).getD false))

/-- Nothing keeps a planned switchover from proceeding (R509): beside those, it waits for an attempt on CAN, a host's transfer on S2 and
every job on S1 (assumption log 90). -/
def canSwitch (s : State) : Bool :=
  !switchHeld s && [0, 1, 2, 3].all (fun p => (s.can p).att.isNone) && s.sp2.xfer.isNone && s.sp1.cmd.isNone && s1Run s 0 == 0 && s1Run s 1 == 0

/-- SWITCHOVER_COMPLETE (R509): every running instruction has ended, the final epoch commits, and ACTIVE passes to the standby. Nothing is lost. -/
def switchover (s : State) : State :=
  match activeDom s, standbyDom s with
  | some d, some e =>
    if ¬ s.is .SV_STAT_SWITCHING ∨ ¬ canSwitch s ∨ ¬ hasStandby s then s
    else
      let s1 := s.each (List.range 8) (fun k s => match (s.eng k).ctx with
        | some c => ctxReady c (offEngine c s)
        | none => s)
      let s2 := (setRole e .active (setRole d .standby s1)).modSv (fun v => { v with epoch := nextEpoch v.epoch, switchAt := none })
      let s3 := permitEnd actSwitch prDone ((s2.put .SV_STAT_SWITCHING 0).modS0 (fun h => { ({} : S0St) with quad := h.quad, next := h.next }))
      let s4 := ringReturn (wr Reg.SV_TKO (rd s Reg.SV_TKO + 1) (ringClose csOff s3))
      let s5 := svRecord 1 0 (domIx d) 2 s4.sv.epoch s4
      powerResume { s5 with rsh := [], wsh := [], jpend := [], late := [], ltrigs := [], ca := { s5.ca with wrote := [] }, jcom := some (snapOf s5.jseq s5), jseq := (s5.jseq + 1) % 2 ^ 32 }
  | _, _ => s
def execSwitchoverComplete (s : State) : Out := .next (switchover s)

/-- SWITCH_WAIT_EXPIRY (R509): a switchover that cannot proceed within SWITCH_WAIT ends BUSY_CTX. -/
def switchExpiry (s : State) : State :=
  match s.sv.switchAt with
  | some t =>
    if s.is .SV_STAT_SWITCHING ∧ switchHeld s ∧ t + s.get .SV_CFG_SWITCH_WAIT * tick10Ms ≤ clk s then
      powerResume (permitEnd actSwitch prBusyCtx ((s.put .SV_STAT_SWITCHING 0).modSv (fun v => { v with switchAt := none })))
    else s
  | none => s
def execSwitchWaitExpiry (s : State) : Out := .next (switchExpiry s)

end Sys2Proof.Machine
end

