-- ==== Sys2Proof/Machine/Trust.lean ====
section
/-! DEFINITION. Trust commands and attestation (spec/02, R56 to R60, R62). -/

namespace Sys2Proof.Machine

/-- Whether the 32 bytes of a key slot (0, 1 owner, 2 vendor) are programmed (R51). -/
def slotSet (s : State) (x : Nat) : Bool := otpNat s (0x20 * x) 32 != 0

/-- Whether a key slot is revoked (R56). -/
def slotRevoked (s : State) (x : Nat) : Bool := (otpByte s 0x060).toNat.testBit x

/-- The bytes of `n` consecutive registers from `a`. -/
def regBytes (s : State) (a n : Nat) : List Byte := wordsBytes ((List.range n).map (fun i => rd s (a + 4 * i)))

/-- The 128-byte body of a report signed by domain `d` (R59). -/
def attestBody (s : State) (d : Dom) : List Byte :=
  let k := s.get .BT_STAT_KEY_USED
  let run : Bool := s.get .BT_STAT_STATE == 1
  let byte := fun (n : Nat) => leBytes 1 n
  [0x4E, 0x41, 0x54, 0x54, 0x01, 0x00, 0x80, 0x00] ++ regBytes s (Reg.BT_ATT_NONCE 0) 8 ++ regBytes s (Reg.BT_DIGEST 0) 8
    ++ leBytes 4 (rd s Reg.BT_IMG_VER).toNat ++ leBytes 2 (s.get .BT_ROLL_IMG) ++ leBytes 2 (otpRoll s) ++ leBytes 4 (rd s Reg.SV_TKO).toNat
    ++ byte (if run then s.get .BT_STAT_SLOT else 0xFF) ++ byte (domIx d) ++ byte (roleCode s.sv.roleA) ++ byte (roleCode s.sv.roleB)
    ++ leBytes 8 (now s) ++ (List.range 16).map (fun i => otpByte s (0x074 + i)) ++ byte (if k = 3 then 0xFF else k) ++ [otpByte s 0x060]
    ++ leBytes 2 (bits (rd s Reg.MOD_CFG_LOCK) 15 0) ++ leBytes 4 (rd s Reg.MOD_ID).toNat ++ leBytes 8 0

/-- The message M' of R49 over a pre-hash. -/
def signedMsg (hash : List Byte) : List Byte := [0x01, 0x00, 0x06, 0x09, 0x60, 0x86, 0x48, 0x01, 0x65, 0x03, 0x04, 0x02, 0x08] ++ hash

/-- A domain's identity key pair (R59): made at manufacture from a seed of its own. -/
def idKeys (d : Dom) : DsaKeys := dsaKeys (leBytes 32 (Config.idSeed (d = .b)).toNat)

/-- The signature over a report's body with the identity key of the domain that it names, made as in R49 (R59). The 32 random bytes are free values; without a
signature signing has not finished (R58). -/
def attestSign (d : Dom) (body : List Byte) (s : State) : Option (List Byte) :=
  dsaSign (idKeys d) (signedMsg (sha3 body)) (wordsBytes ((List.range 8).map (fun i => Config.freeWord (s.free + i))))

/-- The conditions of ATTEST and of the OTP commands (R58). -/
def attestOk (s : State) (d : Dom) : Bool := roleOf s d = .active || roleOf s d = .standby
def keyProgOk (s : State) (x : Nat) : Bool :=
  decide (x < 2) && !slotSet s x && (regBytes s (Reg.BT_KEYBUF 0) 8).any (· != 0)
    && ((!slotSet s 0 && !slotSet s 1) || (s.get .BT_STAT_STATE == 1 && decide (s.get .BT_STAT_KEY_USED < 2)))
def keyRevokeOk (s : State) (x : Nat) : Bool :=
  decide (x < 3) && s.get .BT_STAT_STATE == 1 && s.get .BT_STAT_KEY_USED != x
    && [0, 1].any (fun y => y != x && slotSet s y && !slotRevoked s y)
def rollOk (s : State) : Bool := s.get .BT_STAT_STATE == 1

/-- The domain that ARG of an ATTEST names. -/
def argDom (a : Nat) : Dom := if a = 0 then .a else .b

/-- What a command takes when it starts, or `none` when a condition refuses it; another OP is no command and is refused (assumption log 50). A report's TU_NOW is that
of the write of OP (assumption log 77). -/
def trustTake (s : State) (op arg : Nat) : Option TrustCmd :=
  match op with
  | 1 => if arg < 2 ∧ attestOk s (argDom arg) then some ⟨1, arg, attestBody s (argDom arg)⟩ else none
  | 2 => if keyProgOk s arg then some ⟨2, arg, regBytes s (Reg.BT_KEYBUF 0) 8⟩ else none
  | 3 => if keyRevokeOk s arg then some ⟨3, arg, []⟩ else none
  | 4 => if rollOk s then some ⟨4, s.get .BT_ROLL_IMG, []⟩ else none
  | _ => none

/-- A write of `BT_CMD` (R58). -/
def trustWrite (w : Word) (s : State) : State :=
  let s0 := if bitAt w 26 then s.put .BT_CMD_IGNORED 0 else s
  let op := bits w 3 0
  if op = 0 then s0
  else if s.is .BT_CMD_BUSY then s0.set1 .BT_CMD_IGNORED
  else if 2 ≤ op ∧ op ≤ 4 ∧ s.is .MOD_CFG_LOCK_OTP then trustEnd 2 s0
  else match trustTake s op (bits w 7 4) with
    | some k => (s0.set1 .BT_CMD_BUSY).modBt (fun b => { b with cmd := some k })
    | none => trustEnd 1 s0

/-- ATTEST, KEY_PROG, KEY_REVOKE, ROLL_COMMIT: writes of `BT_CMD` with the OP. -/
def trustCmd (r : Req) (op arg : Nat) (s : State) : Out :=
  .next (regWrite r Reg.BT_CMD Msk.BT_CMD (wd (mk [(arg, 4), (op, 0)])) trustWrite s)
def execAttest (r : Req) (arg : Fin 16) (s : State) : Out := trustCmd r 1 arg s
def execKeyProg (r : Req) (arg : Fin 16) (s : State) : Out := trustCmd r 2 arg s
def execKeyRevoke (r : Req) (arg : Fin 16) (s : State) : Out := trustCmd r 3 arg s
def execRollCommit (r : Req) (s : State) : Out := trustCmd r 4 0 s

/-- A command that ends well: the report, or the bits it programs (R58 to R60). -/
def trustDo (k : TrustCmd) (s : State) : State :=
  if k.op = 1 then
    match attestSign (argDom k.arg) k.body s with
    | some sig => trustEnd 0 { s.each (bytesWords 637 (k.body ++ sig)).zipIdx (fun p s => wr (Reg.BT_ATT_BUF p.2) p.1 s) with free := s.free + 8 }
    | none => trustEnd 3 s
  else trustEnd 0 (otpProgram (trustBits k).1 (trustBits k).2 s)

/-- TRUST_CMD_DONE (R58). `ok`: every bit verified, or signing finished in time. -/
def trustDone (ok : Bool) (s : State) : State :=
  match s.bt.cmd with
  | some k => if ok then trustDo k s else trustEnd 3 (if k.op = 1 then s else trustPart k s)
  | none => s
def execTrustCmdDone (ok : Bool) (s : State) : Out := .next (trustDone ok s)

end Sys2Proof.Machine
end

