-- ==== Sys2Proof/Machine/Bus.lean ====
section
/-! DEFINITION. Every register as S0, the ring and a context's RDR and WRR reach it by address (spec/18, R551 to R554; spec/01, R20 to R29): what a read returns
and does, and what a write does. -/

namespace Sys2Proof.Machine

/-- Addresses that exist (R551, R554): below 0x0100_0000, the flash window apart. -/
def busLimit : Nat := 0x1000000

/-- A register of a named preset, records 0 to 7, which is read-only (R189). -/
def namedRecord (a : Nat) : Bool := decide (Reg.PR_CIC 0 ≤ a) && decide (a < Reg.PR_CIC 8)

/-- The masks of a write at `a`. -/
def busMask (a : Nat) : WMask :=
  if isHoistMem a then hoistMask else if namedRecord a then ⟨0, 0, 0, 0⟩ else maskAt a

/-- The wide values (R22, R25, R62, R249, R364): the lowest address and the number of words of the value that `a` belongs to. Of the dip window (R225) DIP_TICK and
DIP_TGT are wide; its DI levels, DO states and LAST_VALID are single words (assumption log 81). -/
def wideOf (a : Nat) : Option (Nat × Nat) :=
  let two := fun (b : Nat) => if b ≤ a ∧ a < b + 8 then some (b, 2) else none
  let eight := fun (b : Nat) => if b ≤ a ∧ a < b + 32 then some (b, 8) else none
  if a < 0x1000 then two (Reg.MOD_DIP_TGT 0)
  else if a < 0x2000 then two (Reg.SV_FAIL_TS 0)
  else if a < 0x2100 then (two (Reg.TU_NOW 0)).or ((two (Reg.TU_SET 0)).or (two (Reg.TU_TOKEN_TGT 0)))
  else if a < 0x2300 then (if 8 ≤ a % 0x20 then some (a / 8 * 8, 2) else none)
  else if a < 0x3000 then none
  else if a < 0x3200 then (if 0x20 ≤ a % 0x40 then some (a / 8 * 8, 2) else none)
  else if a < 0x5000 then (eight (Reg.BT_DIGEST 0)).or ((eight (Reg.BT_ATT_NONCE 0)).or (eight (Reg.BT_KEYBUF 0)))
  else if a < 0x7000 then none
  else if a < Reg.CSN_ROS_SER 251 0 then (if a % 0x20 < 0x10 then some (a / 0x20 * 0x20, 4) else none)
  else if a < 0xD000 then (two 0xC408).or (two 0xC410)
  else if a < 0xE000 then two (Reg.CA_SYNC_TS 0)
  else if a < 0x10000 then none
  else if a < 0x20000 then (if 0x18 ≤ a % 0x1000 ∧ a % 0x1000 < 0x20 then some (a / 8 * 8, 2) else none)
  else if a < 0x30000 then
    let n := (a - 0x20000) / 0x100
    let o := a % 0x100
    if (isDI n ∧ 0x30 ≤ o ∧ o < 0x38) ∨ (isAN n ∧ 0xC0 ≤ o ∧ o < 0xC8) then some (a / 8 * 8, 2) else none
  else if 0x40000 ≤ a ∧ a < 0x4A000 ∧ 0xA8 ≤ a % 0x100 ∧ a % 0x100 < 0xB0 then some (a / 8 * 8, 2)
  else none

/-- A context that waits for room in queue `q` (R238, R335). -/
def qStalled (s : State) (q : Nat) : Bool :=
  (enabledCtxs s).any (fun c => inRun s c && s.get (.CTX_STAT_WAIT_ON c) == 6 && resQueue s c == some q)

/-- `MOD_STATE` and `SV_STAT` as they read (R524, R526). -/
def modState (s : State) : Word :=
  wd (mk [(s.pw.power, 28), (roleCode s.sv.roleA, 26), (roleCode s.sv.roleB, 24), (b2n (halfMast s), 23), (actDomBit s, 22)])
def svStat (s : State) : Word :=
  wd (mk [(roleCode s.sv.roleA, 30), (roleCode s.sv.roleB, 28), (stbyCode s.sv.stby, 25), (actDomBit s, 24), (hmWhy s, 20),
    (bits (rd s Reg.SV_STAT) 19 16, 16), (s.sv.epoch % 65536, 0)])

/-- A word of an identity key (R62): 0 while its domain is ABSENT or FENCED. -/
def idKeyWord (s : State) (i : Nat) : Word :=
  let d := argDom (s.get .BT_STAT_ID_SEL)
  if attestOk s d then (bytesWords 328 (dsaPublic (idKeys d))).getD i 0 else 0

/-- µs to a context's deadline, rounded up (R364, assumption log 52). -/
def timerLeft (s : State) (c j : Nat) : Word :=
  match (s.ctx c).td.getD j none with
  | some d => if d ≤ now s then 0 else wd (min 0xFFFFFFFF (((d - now s) * 1000000 + tickS - 1) / tickS))
  | none => 0

/-- Registers below 0x0001_0000 of which the word read is not the word held. -/
def viewLow (s : State) (a : Nat) : Option Word :=
  if a = Reg.MOD_STATE then some (modState s)
  else if a = Reg.SV_STAT then some (svStat s)
  else if a = Reg.TU_NOW 0 then some (wd (now s))
  else if a = Reg.TU_NOW 1 then some (wd (now s / 2 ^ 32))
  else if 0x2100 ≤ a ∧ a < 0x2300 ∧ a % 0x20 = 0 then
    some (setBits (rd s a) (FldRef.TU_SCH_CFG_CFG_ADJ 0).hi (FldRef.TU_SCH_CFG_CFG_ADJ 0).lo (b2n (schAdj s ((a - 0x2100) / 0x20))))
  else if 0x3000 ≤ a ∧ a < 0x3200 ∧ 0x38 ≤ a % 0x40 ∧ s.get (.CV_CFG_WIDTH ((a - 0x3000) / 0x40)) = 0 then some 0
  else if 0x3000 ≤ a ∧ a < 0x3200 ∧ a % 0x40 = 4 then some (cvStatVal s ((a - 0x3000) / 0x40))
  else if a = Reg.BT_ROLL then some (setBits (rd s a) 23 16 (otpRoll s))
  else if 0x4100 ≤ a ∧ a < 0x4200 then some (wd (otpNat s (a - 0x4100) 4))
  else if 0x4200 ≤ a ∧ a < 0x4720 then some (idKeyWord s ((a - 0x4200) / 4))
  else if a = Reg.SP0_STAT then some (wd (mk [(s.s0.fseq, FldRef.SP0_STAT_FSEQ.lo), (b2n s.s0.quad, FldRef.SP0_STAT_QUAD.lo)]))
  else if 0xC400 ≤ a ∧ a < 0xCE80 then some (dipWindow s (a - 0xC400))
  else none

/-- The same for tiles and channels. Voltages and currents that the tiles measure are free values. -/
def viewField (s : State) (a : Nat) : Option Word :=
  if a < 0x20000 then
    let t := (a - 0x10000) / 0x1000
    let o := a % 0x1000
    if o = 0x30 then some (freeNow s)
    else if 0x40 ≤ o ∧ o < 0x80 then some (setBits (rd s a) 0 0 (b2n (auxStale s t ((o - 0x40) / 4))))
    else none
  else
    let n := (a - 0x20000) / 0x100
    let o := a % 0x100
    if isDI n then (if o = 0x38 then some (freeNow s) else none)
    else if isDO n then (if o = 0x48 then some (setBits (rd s a) (FldRef.CH_DO_STATE_CFG_ADJ n).hi (FldRef.CH_DO_STATE_CFG_ADJ n).lo (b2n (doAdj s n)))
      else if o = 0x50 then some (onTimeVal s n) else if o = 0x5C then some (freeNow s) else none)
    else if o = 0x84 then
      some (setBits (setBits (rd s a) (FldRef.CH_AN_STATE_CFG_ADJ n).hi (FldRef.CH_AN_STATE_CFG_ADJ n).lo (b2n (anAdj s n)))
        (FldRef.CH_AN_STATE_SAT n).hi (FldRef.CH_AN_STATE_SAT n).lo
        (b2n (diagActive s n dgHeadroom || satOpen s n && bitAt (freeNow s) (FldRef.CH_AN_STATE_SAT n).lo)))
    else if o = 0x98 then some (freeNow s)
    else if o = 0x9C then some (if modeOf s n = 4 then freeNow s else 0)
    else if o = 0xAC then some (fcStateVal s n)
    else if o = 0xC0 then some (lastWord s n)
    else if o = 0xC4 then some (lastSeq s n)
    else if 0xD0 ≤ o ∧ o < 0xF0 ∧ o % 16 = 12 then some (rd (settled n s) a)
    else none

/-- The same for queues, the log, contexts, engines and CAN ports, as requester `r` reads them. -/
def viewUnit (s : State) (r : Req) (a : Nat) : Option Word :=
  let k := reqIx r
  if a < 0x32000 then
    let q := (a - 0x30000) / 0x40
    match a % 0x40 with
    | 0x0C => some (wd (qLevel s q))
    | 0x10 => some (wd (qPeakVal s q))
    | 0x14 => some (setBits (rd s a) (FldRef.Q_STAT_STALLED q).hi (FldRef.Q_STAT_STALLED q).lo (b2n (qStalled s q)))
    | 0x20 => some (popLoVal k q s)
    | 0x24 => some (popHiVal k q s)
    | 0x28 => some (popSt k q s)
    | 0x2C => some (popStreamVal k q s)
    | 0x30 => some (wd (s.psh q k).addr)
    | _ => none
  else if a < 0x40000 then (if a < 0x32100 ∧ a % 0x20 = 0x1C then some (logQmapVal s ((a - 0x32000) / 0x20)) else none)
  else if a < 0x4A000 then
    let c := (a - 0x40000) / 0x100
    let o := a % 0x100
    if o = 0x80 then some (if inRun s c then wd (s.ctx c).pc else 0)
    else if 0x84 ≤ o ∧ o < 0x90 then some (timerLeft s c ((o - 0x84) / 4))
    else none
  else if a < 0x50000 then
    let busy := fun (e : Nat) => (s.eng e).ctx.isSome
    if a = Reg.HE_STAT then
      let ready := ((enabledCtxs s).filter (fun c => s.get (.CTX_STAT_STATE c) == stReady)).length
      some (wd (mk [(min 255 ready, 24), ((List.range 8).foldl (fun n e => n + b2n (busy e) * 2 ^ e) 0, 8)]))
    else if Reg.HE_ENG 0 ≤ a ∧ a < Reg.HE_ENG 8 then
      let e := (a - Reg.HE_ENG 0) / 4
      some (wd (mk [(b2n (busy e), 31), ((s.eng e).ctx.getD 0, 0)]))
    else none
  else if a < 0x60000 then
    let p := (a - 0x50000) / 0x4000
    let o := a % 0x4000
    if o = 0x1C then some (canRxqVal s p)
    else if o = 0x20 then some (canStatVal s p)
    else if o = 0x104 then some (canTxStatVal s p r)
    else if (0x180 ≤ o ∧ o < 0x190) ∨ 0x2000 ≤ o then some (stageWord s p r a)
    else if 0x1000 ≤ o ∧ o < 0x2000 ∧ o % 0x80 = 0x50 then some (lvbStatVal s p ((o - 0x1000) / 0x80))
    else none
  else none

/-- The word at `a` as requester `r` would read it now, before what the read does (R4, R5, R552): a write-only field reads 0. -/
def liveWord (s : State) (r : Req) (a : Nat) : Word :=
  if 0x800000 ≤ a ∧ a < busLimit then kget 0 s.qmem ((a - 0x800000) / 4)
  else
    let v := if a < 0x10000 then viewLow s a else if a < 0x30000 then viewField s a else if a < 0x60000 then viewUnit s r a else none
    v.getD (rd s a) &&& BitVec.ofNat 32 (readMask a)

/-- Registers whose word holds a free value each time it is read. -/
def readsFree (s : State) (a : Nat) : Bool :=
  (decide (0x10000 ≤ a) && decide (a < 0x20000) && a % 0x1000 == 0x30)
    || (decide (0x20000 ≤ a) && decide (a < 0x30000) && (a % 0x100 == 0x38 || a % 0x100 == 0x5C || a % 0x100 == 0x98 || a % 0x100 == 0x9C))
    || (decide (0x20000 ≤ a) && decide (a < 0x30000) && a % 0x100 == 0x84 && satOpen s ((a - 0x20000) / 0x100))

/-- RC fields are cleared (R4). -/
def clearRc (a : Nat) (s : State) : State :=
  let m := maskOf (fun f => f.acc = .rc) (fieldsAt a)
  if m = 0 then s else wr a (blend m (rd s a) 0) s

/-- What a read of `a` does beside returning a word: pops (R244 to R246), locks (R304), and the clearing of RC fields. -/
def readEffect (r : Req) (a : Nat) (s : State) : State :=
  let k := reqIx r
  if 0x30000 ≤ a ∧ a < 0x32000 ∧ 0x20 ≤ a % 0x40 ∧ a % 0x40 ≤ 0x2C then
    let q := (a - 0x30000) / 0x40
    match a % 0x40 with
    | 0x20 => popLo k q s
    | 0x24 => popHi k q s
    | 0x2C => popStream k q s
    | _ => s
  else if 0x50000 ≤ a ∧ a < 0x60000 ∧ 0x1000 ≤ a % 0x4000 ∧ a % 0x4000 < 0x2000 then
    let p := (a - 0x50000) / 0x4000
    let b := (a % 0x4000 - 0x1000) / 0x80
    if a % 0x80 = 0 then lvbLock p b k s else if a % 0x80 = 0x50 then lvbUnlock p b k s else s
  else
    let s1 := clearRc a s
    if readsFree s a then s1.useFree else s1

/-- A read of one word by requester `r` at `a` (R22 to R24, R29): the word, and the state after. A higher word that the requester's shadow
holds is no request to another island. -/
def busRead (r : Req) (a : Nat) (s : State) : Word × State :=
  match wideOf a with
  | none => (liveWord s r a, noteRead r a (readEffect r a s))
  | some (b, n) =>
    if a = b then
      let l := (List.range n).map (fun i => liveWord s r (b + 4 * i))
      (l.getD 0 0, noteRead r a { s with rsh := kset ⟨0, []⟩ s.rsh (reqIx r) ⟨b, l⟩ })
    else
      let x := kget ⟨0, []⟩ s.rsh (reqIx r)
      if x.addr = b then (x.words.getD ((a - b) / 4) 0, s) else (liveWord s r a, noteRead r a (s.inc .MOD_XREAD_MISS_CNT))

/-- The commit of a wide value that only stores it (R25). -/
def commitStore (r : Req) (b n : Nat) (w : Word) (s : State) : State :=
  let s1 := s.each (List.range (n - 1)) (fun i t => wr (b + 4 * i) (shadowWord s r b (b + 4 * i)) t)
  shadowDrop r (wr (b + 4 * (n - 1)) w s1)

/-- A write of the highest word of the wide value from `b`, of `n` words. -/
def wideFn (r : Req) (b n : Nat) (w : Word) (s : State) : State :=
  let v := commit64 s r b w
  if b = Reg.TU_SET 0 then tuSetCommit v (shadowDrop r s)
  else if 0x2100 ≤ b ∧ b < 0x2300 then schCommit b ((b - 0x2100) / 0x20) v (shadowDrop r s)
  else if 0x3000 ≤ b ∧ b < 0x3200 then cvWideWrite ((b - 0x3000) / 0x40) b v (shadowDrop r s)
  else commitStore r b n w s

/-- A W1C write of `MOD_IRQ` (R215); a cleared bit can be alarmed anew (R470). -/
def irqWrite (w : Word) (s : State) : State :=
  (store Reg.MOD_IRQ Msk.MOD_IRQ w s).modCsn (fun k => { k with alSeen := k.alSeen &&& ~~~ w })

/-- `LOG_BASE` and `LOG_SIZE` (R254): a region whose place changes is scanned anew, at once or, with a job on S1, when that ends (assumption log 53). -/
def logWrite (r o : Nat) (w : Word) (s : State) : State :=
  let a := Reg.LOG_BASE r + o
  if o = 0x1C then logQmapWrite r w s
  else
    let s1 := store a (maskAt a) w s
    if 8 ≤ o ∨ rd s1 a = rd s a then s1
    else if (s.logr r).job.isNone then logRescan r s1 else s1.setLogr r { s.logr r with rescan := true }

/-- What a write does to a register below 0x0001_0000, once the locks have left `w`. -/
def fnLow (r : Req) (a : Nat) (w : Word) (s : State) : State :=
  if a = Reg.MOD_RESET then resetWrite w s
  else if a = Reg.MOD_POWER then powerWrite (lockedBits s r a Msk.MOD_POWER) w s
  else if a = Reg.MOD_IRQ then irqWrite w s
  else if a = Reg.MOD_DIP then modDipWrite w s
  else if a = Reg.MOD_WDOG then wdogWrite (lockedBits s r a Msk.MOD_WDOG) w s
  else if a = Reg.SV_CFG then svCfgWrite w s
  else if a = Reg.SV_CMD then svCmdWrite w s
  else if a = Reg.TU_SRC then tuSrcWrite w s
  else if a = Reg.TU_RATE then tuRateWrite w s
  else if a = Reg.TU_STEP then tuStepWrite w s
  else if a = Reg.TU_CAN_CFG then tuCanCfgWrite w s
  else if a = Reg.TU_TOKEN then tuTokenWrite w s
  else if 0x2100 ≤ a ∧ a < 0x2300 ∧ a % 0x20 = 0 then schCfgWrite ((a - 0x2100) / 0x20) w s
  else if 0x3000 ≤ a ∧ a < 0x3200 then
    let u := (a - 0x3000) / 0x40
    match a % 0x40 with
    | 0x00 => cvCfgWrite u w s
    | 0x08 => cvCmd u (cvOwner s r) (bits w 3 0) s
    | 0x0C => cvFeed u (cvOwner s r) (leBytes 4 w.toNat) s
    | 0x10 => cvFeed u (cvOwner s r) (leBytes 1 w.toNat) s
    | _ => store a (maskAt a) w s
  else if a = Reg.BT_CMD then trustWrite w s
  else if a = Reg.SP1_CFG then sp1CfgWrite w s
  else if a = Reg.SP1_CMD then sp1CmdWrite r w s
  else if a = Reg.SP1_FRAME then sp1FrameWrite w s
  else if a = Reg.SP2_CFG then sp2CfgWrite w s
  else if a = Reg.SP2_SLV then sp2SlvWrite w s
  else if a = Reg.SP2_CMD then sp2CmdWrite w s
  else if a = Reg.SP2_FRAME then sp2FrameWrite w s
  else if a = Reg.SP2_SLV_CMD then slvCmdWrite w s
  else if a = Reg.CSN_CFG then csnCfgWrite w s
  else if a = Reg.CSN_CMD then csnCmdWrite w (ringStart s)
  else if a = Reg.CSN_HEADQ then csnHeadqWrite w s
  else if a = Reg.CSN_RA_CMD then (if bitAt w 0 then s.set1 .CSN_RA_STAT_IGNORED else s)
  else if a = Reg.CSN_ALM_EN then csnAlmWrite w s
  else if a = Reg.EV_DIP_STAT then dipStatWrite w s
  else if a = Reg.CA_CMD then caCmdWrite w s
  else if a = Reg.CA_SYNC then s.when (bitAt w 0) (syncRequest srcReg none)
  else if a = Reg.CA_INJ then caInjWrite r w s
  else if Reg.PR_CIC 8 ≤ a ∧ a < Reg.PR_CIC 12 then
    let x := (a - Reg.PR_CIC 0) / 0x200
    recordWrite x (a - Reg.PR_CIC x) (maskAt a) w s
  else store a (busMask a) w s

/-- The same for tiles. -/
def fnTile (a : Nat) (w : Word) (s : State) : State :=
  let t := (a - 0x10000) / 0x1000
  match a % 0x1000 with
  | 0x00 => tileCfgWrite t w s
  | 0x04 => tileSafeWrite t w s
  | 0x08 => tdacWrite t w s
  | 0x24 => factorWrite (64 + t) false w s
  | 0x28 => factorWrite (64 + t) true w s
  | 0x38 => tileRstWrite t w s
  | 0x80 => winCfgWrite t w s
  | _ => store a (maskAt a) w s

/-- The same for channels. -/
def fnChan (a : Nat) (w : Word) (s : State) : State :=
  let n := (a - 0x20000) / 0x100
  let o := a % 0x100
  if o = 0x04 then diagWrite n w s
  else if isDI n then
    (match o with
      | 0x20 => diCfgWrite n w s
      | 0x28 => wr a w s
      | 0x3C => diEvWrite n w s
      | _ => store a (maskAt a) w s)
  else if isDO n then
    (match o with
      | 0x40 => doCfgWrite n w s
      | 0x44 => doCmd n (bitAt w 0) s
      | 0x50 => onTimeWrite n w s
      | 0x58 => clampSumWrite n w s
      | _ => store a (maskAt a) w s)
  else if 0xD0 ≤ o ∧ o < 0xF0 then (if o % 0x10 < 0xC then thWrite n ((o - 0xD0) / 0x10) (o % 0x10 / 4) w s else s)
  else match o with
    | 0x80 => anCfgWrite n w s
    | 0x88 => if isAO n then aoSet n (bits w 15 0) s else s
    | 0x8C => if isAO n then aoSafeWrite n w s else s
    | 0x90 => if isAO n then aoTrimWrite n w s else s
    | 0x94 => anInjWrite n (bitAt w 0) s
    | 0xA0 => fcCfgWrite n w s
    | 0xA4 => fcShiftWrite n w s
    | 0xA8 => fcDelayWrite n w s
    | 0xB0 => factorWrite (anIx n) false w s
    | 0xB4 => factorWrite (anIx n) true w s
    | 0xCC => qbindWrite n w s
    | _ => store a (maskAt a) w s

/-- A write of `Q_WM` (R239): a level that stands at the new watermark or above has not risen to it. -/
def qWmWrite (q : Nat) (w : Word) (s : State) : State :=
  let s1 := store (Reg.Q_WM q) Msk.Q_WM w s
  s1.setQueue q { s1.queue q with wmArm := decide (qLevel s q < s1.get (.Q_WM_WM q)) }

/-- The same for queues, the log, contexts and engines. -/
def fnUnit (a : Nat) (w : Word) (s : State) : State :=
  if a < 0x32000 then
    let q := (a - 0x30000) / 0x40
    match a % 0x40 with
    | 0x00 => qCfgApply q (storedWord Msk.Q_CFG (rd s a) w) s
    | 0x08 => qWmWrite q w s
    | _ => store a (maskAt a) w s
  else if a < 0x32100 then logWrite ((a - 0x32000) / 0x20) (a % 0x20) w s
  else if 0x40000 ≤ a ∧ a < 0x4A000 then ctxRegWrite ((a - 0x40000) / 0x100) (a % 0x100) (maskAt a) w s
  else store a (maskAt a) w s

/-- The same for CAN ports. -/
def fnCan (r : Req) (a : Nat) (w : Word) (s : State) : State :=
  let p := (a - 0x50000) / 0x4000
  let o := a % 0x4000
  if o = 0x00 then canCfgWrite p w s
  else if o = 0x04 ∨ o = 0x08 ∨ o = 0x0C then timingWrite p (o / 4) w s
  else if o = 0x10 ∨ o = 0x14 then canOffWrite p a w s
  else if o = 0x40 then canSleepWrite p w s
  else if o = 0x100 then canTxCmd p r w s
  else if (0x180 ≤ o ∧ o < 0x190) ∨ 0x2000 ≤ o then stageWrite p a r w s
  else store a (maskAt a) w s

/-- What a write does to the register at `a`, but for GO of `CSN_RA_CMD`, which is in `Remote`: a GO that a remote access itself writes finds it busy (R463). -/
def busFn0 (r : Req) (a : Nat) (w : Word) (s : State) : State :=
  match wideOf a with
  | some (b, n) =>
    if (busMask a).rw ||| (busMask a).rwl ||| (busMask a).wo = 0 then s
    else if a + 4 < b + 4 * n then shadowPut r b a w s else wideFn r b n w s
  | none =>
    if a < 0x10000 then fnLow r a w s
    else if a < 0x20000 then fnTile a w s
    else if a < 0x30000 then fnChan a w s
    else if a < 0x50000 then fnUnit a w s
    else if a < 0x60000 then fnCan r a w s
    else if isHoistMem a then wr a w s
    else s

/-- The word by which locks judge a write of `LOG_QMAP` is the one that it shows. -/
def busSync (a : Nat) (s : State) : State :=
  if 0x32000 ≤ a ∧ a < 0x32100 ∧ a % 0x20 = 0x1C then wr a (logQmapVal s ((a - 0x32000) / 0x20)) s else s

/-- Whether the module refuses a write, wholly or in part (R407, R582): it is not served now, or a lock is set. -/
def busDenied (s : State) (r : Req) (a : Nat) (w : Word) : Bool :=
  decide (a < 0x800000) && (!served s r a || denied (busSync a s) r a (busMask a) w)

end Sys2Proof.Machine
end

