-- ==== Sys2Proof/Machine/HoistBus.lean ====
section
/-! DEFINITION. RDR and WRR (spec/12, R379, R390): registers as a context reaches them. -/

namespace Sys2Proof.Machine

/-- The addresses of RDR and WRR (R379). -/
def hoistAddr (a : Nat) : Bool := a % 4 == 0 && (decide (a < 0xC0000) || (decide (0x800000 ≤ a) && decide (a < busLimit)))

/-- Where a WRR is applied (R379): channel blocks, the CV block, the SP2 block. -/
def wrrBlock (a : Nat) : Bool :=
  (decide (0x20000 ≤ a) && decide (a < 0x30000)) || (decide (0x3000 ≤ a) && decide (a < 0x3200)) || (decide (0x5800 ≤ a) && decide (a < 0x5C00))

/-- The encoding of RDR and WRR (R379): with X = 1, K is 0 and A is at most `top`; with X = 0, I is 1. -/
def regForm (h : HWord) (top : Nat) : Bool := if h.x then noK h && decide (h.a ≤ top) else h.i

/-- RDR (R371, R379): the word, with Z and N of it. -/
def execRdr (e : Fin 8) (s : State) : Out :=
  .next (runInstr 0x26 .either e.val (fun c h s =>
    let a := regAddr s c h true
    checked c (regForm h 0 && hoistAddr a)
      (fun s =>
        let p := busRead (.eng e) a s
        result c h p.1 (flagsOf p.1) p.2) s) s)

/-- A write of a context to the register at `a` (R379, R582). `CH_DO_CMD` and `CH_AO_SET` act as DOUT and AOUT. -/
def wrrWrite (e : Fin 8) (c a : Nat) (nofault : Bool) (h : HWord) (w : Word) (s : State) : State :=
  let n := (a - 0x20000) / 0x100
  let chan := decide (0x20000 ≤ a) && decide (a < 0x30000)
  let done := fun (s : State) => stepOver c h (setFlags c (flagsOf w) s)
  if chan && isDO n && a % 0x100 == 0x44 then
    let s1 := doCmd n (bitAt w 0) s
    if doRefused s n (bitAt w 0) then (let s2 := refuse c (s.ctx c).pc nofault s1; if nofault then stepOver c h s2 else s2)
    else done (setF c false s1)
  else if chan && isAO n && a % 0x100 == 0x88 then done (aoSet n (bits w 15 0) s)
  else
    let u := (a - 0x3000) / 0x40
    let cmd := decide (0x3000 ≤ a) && decide (a < 0x3200) && a % 0x40 == 0x08 && bits w 3 0 == 1
    if cmd && s.get (.CV_CFG_WIDTH u) != 0 && (s.cv u).hold != .free && (s.cv u).hold != .ctx c then ctxBlock c 8 .none s
    else done (regWrite (.eng e) a (busMask a) w (busFn0 (.eng e) a) s)

/-- WRR (R379, R390). -/
def execWrr (e : Fin 8) (s : State) : Out :=
  .next (runInstr 0x27 .either e.val (fun c h s =>
    let a := regAddr s c h false
    let nofault := h.x && h.a == 1
    checked c (regForm h 1 && hoistAddr a)
      (fun s =>
        if wrrBlock a then wrrWrite e c a nofault h (getV s c h.d) s
        else (let s2 := refuse c (s.ctx c).pc nofault s; if nofault then stepOver c h s2 else s2)) s) s)

end Sys2Proof.Machine
end

