-- ==== Sys2Proof/Machine/Remote.lean ====
section
/-! DEFINITION. Remote access over the ring (spec/14, R463 to R467), register writes and reads by address, and the rows that name them (R22 to R25, R215, R582). -/

namespace Sys2Proof.Machine

/-- RESULT codes of R467. -/
def raOk : Nat := 0
def raBadCmd : Nat := 1
def raBadAddr : Nat := 2
def raDenied : Nat := 3
def raNoReply : Nat := 4
def raNoModule : Nat := 5
def raNotHead : Nat := 6
def raSent : Nat := 7

/-- A request (R462): W1 and the address, with the write data. -/
structure RaReq where
  op : Nat
  inc : Bool
  cnt : Nat
  addr : Nat
  data : List Word
  deriving DecidableEq, Repr

/-- The addresses of the words of a request, in order. -/
def raAddrs (q : RaReq) : List Nat := (List.range (q.cnt + 1)).map (fun i => if q.inc then q.addr + 4 * i else q.addr)

/-- BAD_ADDR (R464). -/
def raBad (q : RaReq) : Bool := q.addr % 4 != 0 || (raAddrs q).any (fun a => decide (busLimit ≤ a))

/-- Reads words in order (R464). -/
def readWords (r : Req) : List Nat → State → List Word × State
  | [], s => ([], s)
  | a :: l, s =>
    let p := busRead r a s
    let q := readWords r l p.2
    (p.1 :: q.1, q.2)

/-- Writes words in order; whether one of them was refused. `f` is what a register does with a word. -/
def writeWords (r : Req) (f : Nat → Word → State → State) : List (Nat × Word) → State → Bool × State
  | [], s => (false, s)
  | (a, w) :: l, s =>
    let d := busDenied s r a w
    let q := writeWords r f l (if a < 0x800000 then regWrite r a (busMask a) w (f a) (busSync a s) else s)
    (d || q.1, q.2)

/-- A target executes a request (R464): RESULT, the words read, the state after. -/
def raExec (f : Nat → Word → State → State) (q : RaReq) (s : State) : Nat × List Word × State :=
  if raBad q then (raBadAddr, [], s)
  else if q.op = 1 then (let p := readWords .ring (raAddrs q) s; (raOk, p.1, p.2))
  else if q.op = 2 then
    if ¬ s.is .CSN_CFG_RW_EN then (raDenied, [], s)
    else (let p := writeWords .ring f ((raAddrs q).zip q.data) s; (if p.1 then raDenied else raOk, [], p.2))
  else (raBadCmd, [], s)

/-- W1 of a request. -/
def raW1 (rid : Nat) (q : RaReq) : Word := wd (mk [(rid, 16), (q.op, 12), (b2n q.inc, 11), (q.cnt, 0)])

/-- The request that a frame carries. -/
def raOf (f : RFrame) : RaReq := { op := bits f.w1 15 12, inc := bitAt f.w1 11, cnt := bits f.w1 5 0, addr := f.w2.toNat, data := f.data }

/-- The port by which the head reaches member `m` (R443, R459): the LK2 side first, the other past a broken hop. -/
def raPort (s : State) (m : Nat) : Nat :=
  if s.is .CSN_STAT_RING then (match s.csn.cut with
    | some i => if i ≤ m then 0 else 1
    | none => 1)
  else if m ≤ s.csn.n2 then 1 else 0

/-- Stores the words read (R463). -/
def raBuf (l : List Word) (s : State) : State := s.each (l.take 64).zipIdx (fun p s => wr (Reg.CSN_RA_BUF p.2) p.1 s)

/-- A GO starts a request: a new RID. -/
def raStart (tries : Nat) (s : State) : State :=
  ((s.incWrap .CSN_RA_STAT_RID).put .CSN_RA_STAT_TRIES tries).put .CSN_RA_STAT_TKO 0

/-- The command that a GO gives (R463). -/
def raCmd (s : State) (w : Word) : RaReq :=
  let c := bits w 13 8
  { op := bits w 23 20, inc := bitAt w 17, cnt := c, addr := (rd s Reg.CSN_RA_ADDR).toNat,
    data := if bits w 23 20 = 2 then (List.range (c + 1)).map (fun i => rd s (Reg.CSN_RA_BUF i)) else [] }

/-- A write of `CSN_RA_CMD` (R463, R466). -/
def raGo (w : Word) (s : State) : State :=
  let m := bits w 31 24
  let q := raCmd s w
  if ¬ bitAt w 0 then s
  else if s.is .CSN_RA_STAT_BUSY then s.set1 .CSN_RA_STAT_IGNORED
  else if ¬ isHead s then raEnd raNotHead (s.put .CSN_RA_STAT_TRIES 0)
  else if m = 255 then
    if q.op ≠ 2 then raEnd raBadCmd (s.put .CSN_RA_STAT_TRIES 0)
    else
      let s1 := raStart 1 s
      raEnd raSent (sendBoth (headFrame s1 0x01 (raW1 (s1.get .CSN_RA_STAT_RID) q) (wd q.addr) q.data) s1)
  else if m = 0 then
    let p := raExec (busFn0 .ring) q (raStart 1 s)
    raEnd p.1 (raBuf p.2.1 p.2.2)
  else if 250 < m ∨ ¬ s.is (.CSN_ROS_STAT_PRESENT m) then raEnd raNoModule (s.put .CSN_RA_STAT_TRIES 0)
  else
    let s1 := (raStart 1 s).set1 .CSN_RA_STAT_BUSY
    let f : RFrame := { headFrame s1 0x01 (raW1 (s1.get .CSN_RA_STAT_RID) q) (wd q.addr) q.data with dst := BitVec.ofNat 8 m }
    sendOn (raPort s1 m) f (s1.modCsn (fun k => { k with raReq := some (f, clk s) }))

/-- What a write does to the register at `a`. -/
def busFn (r : Req) (a : Nat) (w : Word) (s : State) : State := if a = Reg.CSN_RA_CMD then raGo w (ringStart s) else busFn0 r a w s

/-- A write of one word by requester `r` at `a` (R4, R48, R233, R552, R582). -/
def busWrite (r : Req) (a : Nat) (w : Word) (s : State) : State :=
  if a < 0x800000 then regWrite r a (busMask a) w (busFn r a) (busSync a s) else s

/-- RA_GO (R463): a write of `CSN_RA_CMD`. -/
def execRaGo (r : Req) (w : Word) (s : State) : Out := .next (busWrite r Reg.CSN_RA_CMD w s)

/-- The reply to a request. -/
def raReply (s : State) (f : RFrame) (res : Nat) (l : List Word) : RFrame :=
  memberFrame s 0x02 (if s.csn.tko then 2 else 0) (wd (mk [(bits f.w1 31 16, 16), (res, 12)])) f.w2 l

/-- A member executes a request once, and keeps the reply (R464, R465). `reply`: the request is for this member alone. -/
def raTarget (f : RFrame) (reply : Bool) (s : State) : State :=
  let rid := bits f.w1 31 16
  let again : Option RFrame := match s.csn.kept with
    | some (i, x) => if i = rid then some x else none
    | none => none
  match again with
  | some x => if reply then sendUp x s else s
  | none =>
    let p := raExec (busFn .ring) (raOf f) s
    let x := raReply s f p.1 p.2.1
    let s1 := p.2.2.modCsn (fun k => { k with kept := some (rid, x), tko := k.tko && !reply })
    if reply then sendUp x s1 else s1

/-- The payload of a request is that of its OP (R462). -/
def raLenOk (f : RFrame) : Bool := f.data.length == (if bits f.w1 15 12 = 2 then bits f.w1 5 0 + 1 else 0)

/-- RA_REQ (R457, R464 to R466): a member executes what is for it or for every module, and forwards what is not for it alone. -/
def execRaReq (x : Fin 2) (f : RFrame) (s : State) : Out :=
  .next (ringRecv x 0x01 f (fun s =>
    if isHead s then s
    else if ¬ raLenOk f then s.inc (.CSN_LK_ERR_CRC x)
    else if f.dst = 255 then forward x f (if bits f.w1 15 12 = 2 then raTarget f false s else s)
    else if f.dst = myAddr s then raTarget f true s
    else forward x f s) s)

/-- A reply reaches the head (R463, R465). -/
def raReceive (f : RFrame) (s : State) : State :=
  if s.is .CSN_RA_STAT_BUSY ∧ bits f.w1 31 16 = s.get .CSN_RA_STAT_RID then
    let res := bits f.w1 15 12
    raEnd res ((if res = raOk then raBuf f.data s else s).putB .CSN_RA_STAT_TKO (bitAt (wd f.flags.toNat) 1))
  else s

/-- RA_RSP (R457, R465). -/
def execRaRsp (x : Fin 2) (f : RFrame) (s : State) : Out :=
  .next (ringRecv x 0x02 f (fun s =>
    if 3 < bits f.w1 15 12 then s.inc (.CSN_LK_ERR_CRC x)
    else if isHead s then raReceive f s else forward x f s) s)

/-- TMO in tenths of a millisecond (R476). -/
def raTmo (s : State) : Nat := max 1 (s.get .CSN_RA_CFG_TMO)

/-- RA_TIMEOUT (R465): no reply within TMO of the last attempt. -/
def raTimeout (s : State) : State :=
  match s.csn.raReq with
  | none => s
  | some (f, t) =>
    if (clk s - t) * 10000 < raTmo s * tickS then s
    else if s.get .CSN_RA_STAT_TRIES ≤ s.get .CSN_RA_CFG_RETRIES then
      sendOn (raPort s f.dst.toNat) f ((s.inc .CSN_RA_STAT_TRIES).modCsn (fun k => { k with raReq := some (f, clk s) }))
    else raEnd raNoReply s
def execRaTimeout (s : State) : Out := .next (raTimeout (ringStart s))

/-- REGISTER_WRITE (R582): a write by requester `r` at `a`. -/
def execRegisterWrite (r : Req) (a : Word) (w : Word) (s : State) : Out := .next (if a.toNat % 4 = 0 then busWrite r a.toNat w s else s)

/-- Whether `a` is the lowest word of a wide value, and whether it is its highest. -/
def wideLow (a : Nat) : Bool := match wideOf a with | some (b, _) => a == b | none => false
def wideTop (a : Nat) : Bool := match wideOf a with | some (b, n) => a + 4 == b + 4 * n | none => false

/-- A read whose word goes to `rdata`. -/
def readTo (r : Req) (a : Nat) (s : State) : State := (busRead r a s).2 |> fun t => { t with rdata := (busRead r a s).1 }

/-- WIDE_READ_LOW (R22). -/
def execWideReadLow (r : Req) (a : Word) (s : State) : Out := .next (if a.toNat % 4 = 0 ∧ wideLow a.toNat ∧ readServed s r then readTo r a.toNat s else s)

/-- WIDE_READ_HIGH (R24). -/
def execWideReadHigh (r : Req) (a : Word) (s : State) : Out :=
  .next (if a.toNat % 4 = 0 ∧ (wideOf a.toNat).isSome ∧ ¬ wideLow a.toNat ∧ readServed s r then readTo r a.toNat s else s)

/-- WIDE_WRITE_LOWER (R25). -/
def execWideWriteLower (r : Req) (a w : Word) (s : State) : Out :=
  .next (if a.toNat % 4 = 0 ∧ (wideOf a.toNat).isSome ∧ ¬ wideTop a.toNat then busWrite r a.toNat w s else s)

/-- WIDE_WRITE_COMMIT (R25). -/
def execWideWriteCommit (r : Req) (a w : Word) (s : State) : Out := .next (if a.toNat % 4 = 0 ∧ wideTop a.toNat then busWrite r a.toNat w s else s)

/-- MOD_IRQ_CLEAR (R215). -/
def execModIrqClear (r : Req) (w : Word) (s : State) : Out := .next (regWrite r Reg.MOD_IRQ Msk.MOD_IRQ w irqWrite s)

end Sys2Proof.Machine
end

