-- ==== Sys2Proof/Machine/Image.lean ====
section
/-! DEFINITION. The configuration image: SFDP discovery, slot selection, the reports of both domains, the apply pass (spec/02, R36 to R54; R419). -/

namespace Sys2Proof.Machine

/-- SFDP_DISCOVERY (R419): for each select, whether a valid SFDP was found and the words that `SP1_DISC` and `SP1_ERASE` then show. A device above 512 MiB is
used as 512 MiB. -/
def sfdpDiscovery (ok0 : Bool) (d0 e0 : Word) (ok1 : Bool) (d1 e1 : Word) (s : State) : State :=
  if s.get .BT_STAT_STATE ≠ 0 ∨ s.bt.sfdp ∨ s.get .MOD_START_STEP ≠ 2 then s
  else
    let one := fun (k : Nat) (ok : Bool) (d e : Word) (s : State) =>
      let s1 := wr (Reg.SP1_DISC k) (if ok then d &&& BitVec.ofNat 32 (readMask (Reg.SP1_DISC k)) else 0) (wr (Reg.SP1_ERASE k) (if ok then e else 0) s)
      (s1.put (.SP1_DISC_SIZE k) (min 29 (s1.get (.SP1_DISC_SIZE k)))).putB (.SP1_DISC_VALID k) ok
    let s1 := (one 1 ok1 d1 e1 (one 0 ok0 d0 e0 s)).putB .SP1_STAT_CS1_ABSENT (!ok1)
    sp1Show (startStep 3 ((s1.when (!ok0) (startFail 3)).modBt (fun b => { b with sfdp := true })))
def execSfdpDiscovery (ok0 : Bool) (d0 e0 : Word) (ok1 : Bool) (d1 e1 : Word) (s : State) : Out := .next (sfdpDiscovery ok0 d0 e0 ok1 d1 e1 s)

/-- The first `k` bytes of slot `x` (R33), as a domain reads them from the flash. -/
def slotBytes (s : State) (x k : Nat) : List Byte := (List.range k).map (fun i => winByte s 0 (x * 2 ^ 24 + i))

/-- A little-endian number at offset `o` of an image's bytes. -/
def imgNum (m : List Byte) (o k : Nat) : Nat := leNat ((m.drop o).take k)

/-- Fields of the header (R37). LABEL, from 0x20 on, is not interpreted and stands in no register; the flash window shows it (assumption log 78). -/
def imgVersion (m : List Byte) : Nat := imgNum m 0x08 4
def imgRollback (m : List Byte) : Nat := imgNum m 0x0C 2
def imgLength (m : List Byte) : Nat := imgNum m 0x10 4

/-- The header of slot `x`, and the whole image in it, which each domain copies into its queue memory before it verifies it (R36, R37, R46). -/
def slotHeader (s : State) (x : Nat) : List Byte := slotBytes s x 64
def slotCopy (s : State) (x : Nat) : List Byte := slotBytes s x (imgLength (slotHeader s x) + 3732)

/-- The digest of R50, the key of R36, and the signature. -/
def imgDigest (m : List Byte) : List Byte := sha3 (m.take (imgLength m))
def imgKey (m : List Byte) : List Byte := (m.drop (imgLength m)).take 1312
def imgSig (m : List Byte) : List Byte := (m.drop (imgLength m + 1312)).take 2420

/-- Whether a header is of the format of R37 (BAD_FORMAT). -/
def formatOk (s : State) (m : List Byte) : Bool :=
  imgNum m 0x04 2 == 1 && imgNum m 0x06 2 == 0x40 && imgNum m 0x14 2 == 0x2560 && decide (imgNum m 0x16 1 ≤ bits (rd s Reg.MOD_ID) 7 0)
    && decide (imgRollback m ≤ 128) && imgNum m 0x0E 2 == 0 && imgNum m 0x17 9 == 0

/-- LENGTH (R37). -/
def lengthOk (n : Nat) : Bool := n % 4 == 0 && decide (68 ≤ n) && decide (n ≤ 8384876)

/-- The hash slots (0, 1 owner, 2 vendor) that hold a key's hash (R51). -/
def keySlots (s : State) (kh : List Byte) : List Nat :=
  [0, 1, 2].filter (fun i => slotSet s i && (List.range 32).map (fun j => otpByte s (0x20 * i + j)) == kh)

/-- R51, R52: reason of the key (0: accepted) and the slot that accepts it. -/
def keyCheck (s : State) (kh : List Byte) : Nat × Nat :=
  match keySlots s kh with
  | [] => (7, 3)
  | l =>
    match l.filter (fun i => !slotRevoked s i) with
    | [] => (8, 3)
    | i :: _ => if i = 2 ∧ (slotSet s 0 ∨ slotSet s 1) then (9, 3) else (0, i)

/-- A record (R38): register writes, a blob that is copied, one that stays in flash (offset on S1_CS0_N, length), a lock mask. -/
inductive Rec where
  | regs (addrs : List Nat) (vals : List Word)
  | copy (target : Nat) (bytes : List Byte)
  | resident (addr len : Nat)
  | lock (w : Nat)
  deriving DecidableEq, Repr

/-- Filter coefficient memory (R194): the taps of the user presets. -/
def inTaps (t n : Nat) : Bool := [8, 9, 10, 11].any (fun x => decide (Reg.PR_TAP x 0 ≤ t) && decide (t + n ≤ Reg.PR_TAP x 0 + 256))

/-- The content of a REGLIST (R39, R40). `u` gives a word of the slot. -/
def parseRegs (u : Nat → Nat) (o clen : Nat) : Option Rec :=
  let addr := u (o + 4)
  let w := u (o + 8)
  let mode := nbits w 17 16
  let n := nbits w 15 0
  let addrs := (List.range n).map (fun i => if mode = 0 then addr + 4 * i else addr)
  if clen < 8 ∨ addr % 4 ≠ 0 ∨ w / 2 ^ 18 ≠ 0 ∨ 1 < mode ∨ 16381 < n ∨ clen ≠ 8 + 4 * n
      ∨ addrs.any (fun a => decide (0x80000 ≤ a) || (findReg a blocks).isNone) then none
  else some (.regs addrs ((List.range n).map (fun i => wd (u (o + 12 + 4 * i)))))

/-- The content of a BLOB (R41, R42); the record lies at offset `o` of a slot whose base is `base`. A BLOB of which nothing is copied may name any TARGET
(assumption log 78). -/
def parseBlob (u : Nat → Nat) (base o clen : Nat) : Option Rec :=
  let t := u (o + 4)
  let w := u (o + 8)
  let n := nbits w 15 0
  let body := ((List.range ((n + 3) / 4)).map (fun i => leBytes 4 (u (o + 12 + 4 * i)))).flatten
  if clen < 8 ∨ t % 4 ≠ 0 ∨ nbits w 30 16 ≠ 0 ∨ 65524 < n ∨ clen ≠ 8 + (n + 3) / 4 * 4 ∨ (body.drop n).any (· != 0) then none
  else if w / 2 ^ 31 = 1 then (if t = base + o + 12 then some (.resident t n) else none)
  else if n = 0 ∨ (0x80000 ≤ t ∧ t + n ≤ 0xC0000) ∨ inTaps t n then some (.copy t (body.take n))
  else none

/-- One record (R38, R43); a set reserved bit is RECORD_ERR (assumption log 55). -/
def parseRec (u : Nat → Nat) (base o ty clen : Nat) : Option Rec :=
  match ty with
  | 1 => parseRegs u o clen
  | 2 => parseBlob u base o clen
  | 3 => if clen = 4 ∧ u (o + 4) < 8 then some (.lock (u (o + 4))) else none
  | _ => none

def Rec.isLock : Rec → Bool
  | .lock _ => true
  | _ => false

/-- The parse pass (R38 to R44, R46) from offset `o`, over at most `k` records; `locked`: a LOCK record came before. -/
def parseRecs (u : Nat → Nat) (base len : Nat) : Nat → Nat → Bool → Option (List Rec)
  | 0, _, _ => none
  | k + 1, o, locked =>
    let ty := u o % 65536
    let clen := u o / 65536
    if len < o + 4 + clen ∨ clen % 4 ≠ 0 then none
    else if ty = 0xF then (if clen = 0 ∧ o + 4 = len then some [] else none)
    else match parseRec u base o ty clen with
      | none => none
      | some r => if r.isLock && locked then none else (parseRecs u base len k (o + 4 + clen) (locked || r.isLock)).map (r :: ·)

/-- The records of the image `m` of slot `x`, or `none` (RECORD_ERR). -/
def imgRecords (m : List Byte) (x : Nat) : Option (List Rec) :=
  let n := imgLength m
  parseRecs (fun o => imgNum m o 4) (x * 2 ^ 24) n (n / 4) 64 false

/-- How a domain's reads of a slot go: intact, the header cannot be read, a later read fails, its copy is damaged so that no signature fits it. -/
abbrev SlotRead := Fin 4

/-- The reasons that stand whatever the other slot does (R52); 0: the slot is ranked. -/
def slotEarly (s : State) (x : Nat) (e : SlotRead) : Nat :=
  if ¬ s.is (.SP1_DISC_VALID 0) ∨ e = 1 then 2 else if imgNum (slotHeader s x) 0 4 ≠ 0x314C414E then 3 else 0

/-- The checks of a slot that is tried, in the order of R52. -/
def slotCheck (s : State) (x : Nat) (e : SlotRead) : Nat :=
  let h := slotHeader s x
  if e = 2 then 2
  else if ¬ formatOk s h then 4
  else if ¬ lengthOk (imgLength h) then 5
  else if imgRollback h < otpRoll s then 6
  else
    let m := slotCopy s x
    let r := (keyCheck s (sha3 (imgKey m))).1
    if r ≠ 0 then r
    else if e = 3 ∨ ¬ dsaVerify (imgKey m) (signedMsg (imgDigest m)) (imgSig m) then 0xA
    else if (imgRecords m x).isNone then 0xB
    else 0

/-- A domain selects a slot (R52). -/
def slotSelect (s : State) (e : Nat → SlotRead) : BootRep :=
  let try1 := fun x => if slotEarly s x (e x) ≠ 0 then slotEarly s x (e x) else slotCheck s x (e x)
  let f := if imgVersion (slotHeader s 0) < imgVersion (slotHeader s 1) then 1 else 0
  let a := try1 f
  let b := if a = 0 ∧ slotEarly s (1 - f) (e (1 - f)) = 0 then 1 else try1 (1 - f)
  let sel := if a = 0 then some f else if b = 0 then some (1 - f) else none
  let m := (sel.map (slotCopy s)).getD []
  { slot := sel, digest := if sel.isSome then imgDigest m else [], res0 := if f = 0 then a else b, res1 := if f = 0 then b else a, copy := m }

def repOf (s : State) (d : Dom) : Option BootRep := match d with | .a => s.bt.repA | .b => s.bt.repB

/-- IMAGE_LOAD (R52, R54): domain `d` selects and reports. -/
def imageLoad (d : Dom) (e0 e1 : SlotRead) (s : State) : State :=
  if ¬ s.bt.sfdp ∨ s.get .BT_STAT_STATE ≠ 0 ∨ roleOf s d ≠ .standby ∨ (repOf s d).isSome ∨ s.bt.apply.isSome then s
  else
    let r := some (slotSelect s (fun x => if x = 0 then e0 else e1))
    s.modBt (fun b => match d with | .a => { b with repA := r } | .b => { b with repB := r })
def execImageLoad (d : Dom) (e0 e1 : SlotRead) (s : State) : Out := .next (imageLoad d e0 e1 s)

/-- The domain that becomes ACTIVE: the one that drives S1, or the other one where that is gone. -/
def bootDom (s : State) : Dom := if roleOf s s.pw.drv = .standby then s.pw.drv else otherDom s.pw.drv

/-- The reasons that `BT_STAT` shows. -/
def showRep (r : BootRep) (s : State) : State := (s.put .BT_STAT_SLOT0_RES r.res0).put .BT_STAT_SLOT1_RES r.res1

/-- No domain is ACTIVE and none is about to be: the module starts (R539). -/
def noneActive (s : State) : Bool := (activeDom s).isNone && s.sv.tkoFrom.isNone

/-- The domain that drives S1 becomes ACTIVE with the next activation epoch (R497, R539). -/
def bootActive (s : State) : State :=
  let d := bootDom s
  if noneActive s then
    ((setRole d .active s).modSv (fun v => { v with anyActive := true, epoch := nextEpoch v.epoch })).modPw (fun w => { w with drv := d })
  else s

/-- NO_IMAGE (R53). -/
def noImage (r : BootRep) (s : State) : State :=
  let s1 := startFail 4 (showRep r ((s.put .BT_STAT_STATE 2).put .BT_STAT_KEY_USED 3))
  setPower 6 (bootActive s1)

/-- The arbiter has an agreed report (R54): both apply, or none does. -/
def imageAgreed (r : BootRep) (s : State) : State :=
  match r.slot with
  | some x => s.modBt (fun b => { b with apply := some x })
  | none => noImage r s

/-- A report is the report of a domain that is there. -/
def repHere (s : State) (d : Dom) : Option BootRep := if roleOf s d = .standby then repOf s d else none

/-- IMAGE_REPORT_COMPARE (R54): once every domain present has reported. -/
def imageCompare (s : State) : State :=
  let ready := fun (d : Dom) => decide (roleOf s d ≠ .standby) || (repOf s d).isSome
  if s.get .BT_STAT_STATE ≠ 0 ∨ s.bt.apply.isSome ∨ ¬ (ready .a ∧ ready .b) then s
  else match repHere s .a, repHere s .b with
    | some x, some y =>
      if x.slot = y.slot ∧ x.digest = y.digest then imageAgreed (if bootDom s = .a then x else y) s
      else if ¬ s.bt.repeated then s.modBt (fun b => { b with repA := none, repB := none, repeated := true })
      else
        let d := if x.slot.isNone then .b else if y.slot.isNone then .a else bootDom s
        imageAgreed (if d = .a then x else y) (verdict (otherDom d) true fcImage s)
    | some x, none => imageAgreed x s
    | none, some y => imageAgreed y s
    | none, none => s
def execImageReportCompare (s : State) : Out := .next (imageCompare s)

/-- The bits of the register at `a` that an image loads (R45). -/
def loadMask (a : Nat) : Nat :=
  let m := busMask a
  let l := m.rw ||| m.rwl ||| m.wo
  l &&& classMask (· = .i) a

/-- The bits of defined fields that it cannot load: a non-zero value there is counted (R45). -/
def skipMask (a : Nat) : Nat := let l := maskOf (fun _ => true) (fieldsAt a); l - (l &&& loadMask a)

/-- What a loaded word does to the register at `a`, once the other fields are filled in. Nothing runs yet, so no write is refused for what runs (R47). -/
def loadFn (a : Nat) (w : Word) (s : State) : State :=
  if Reg.PR_CIC 8 ≤ a ∧ a < Reg.PR_CIC 12 then prRefresh ((a - Reg.PR_CIC 0) / 0x200) (store a (maskAt a) w s)
  else if 0x50000 ≤ a ∧ a < 0x60000 ∧ a % 0x4000 < 0x18 then
    let p := (a - 0x50000) / 0x4000
    let s1 := busFn0 .loader a w (s.put (.CAN_CFG_MODE p) 0)
    if a % 0x4000 = 0 then s1 else s1.put (.CAN_CFG_MODE p) (s.get (.CAN_CFG_MODE p))
  else busFn0 .loader a w s

/-- One write of a REGLIST (R45). -/
def loadWord (a : Nat) (w : Word) (s : State) : State :=
  let m := loadMask a
  let s1 := s.when ((w.toNat &&& skipMask a) != 0) (·.inc .BT_LOAD_SKIP_CNT)
  if m = 0 then s1
  else
    let b := busMask a
    loadFn a (blend m (rd s a &&& BitVec.ofNat 32 (b.rw ||| b.rwl)) w) s1

/-- Copies bytes to words from address `t`; of a last word that is not whole only the bytes given change. -/
def loadBytes (t : Nat) (l : List Byte) (s : State) : State :=
  s.each (packWords l).zipIdx (fun p s =>
    let a := t + 4 * p.2
    let k := min 4 (l.length - 4 * p.2)
    let w := blend (2 ^ (8 * k) - 1) (rd s a) p.1
    if isHoistMem a then wr a w s else loadFn a (w &&& BitVec.ofNat 32 (loadMask a)) s)

/-- A record of the apply pass (R46). -/
def loadRec (r : Rec) (s : State) : State :=
  match r with
  | .regs addrs vals => s.each (addrs.zip vals) (fun p s => loadWord p.1 p.2 s)
  | .copy t l => loadBytes t l s
  | .resident a n => s.modBt (fun b => { b with blobs := b.blobs ++ [(a, n)] })
  | .lock _ => s

/-- The locks of the LOCK record (R43, R47); a lock that the image's own writes of `MOD_CFG_LOCK` set stays set (assumption log 78). -/
def loadLock (r : Rec) (s : State) : State :=
  match r with
  | .lock w => wr Reg.MOD_CFG_LOCK (rd s Reg.MOD_CFG_LOCK ||| wd w) s
  | _ => s

/-- What every unit makes of its settings at ENDREC (R47). -/
def unitsStart (land : Bool) (s : State) : State :=
  let s1 := { shadowDrop .loader s with chains := [], ca := { s.ca with haltAt := none } }
  let s2 := rebind (placeQueues (List.range 128) s1)
  let s3 := (s2.each [8, 9, 10, 11] prRefresh).each anChs fcRefresh
  let s4 := (s3.each [0, 1, 2, 3] canModeTake).each (List.range 16) schRecompute
  let s5 := sp2Show (s4.modSp2 (fun p => { p with role := s4.get .SP2_CFG_ROLE }))
  ringApply land (logRestart (sp1Show s5))

/-- What the BT block shows of the running image (R62, R63). -/
def showImage (x time : Nat) (r : BootRep) (s : State) : State :=
  let s1 := showRep r (((s.put .BT_STAT_STATE 1).put .BT_STAT_KEY_USED (keyCheck s (sha3 (imgKey r.copy))).2).put .BT_STAT_SLOT x)
  let s2 := ((wr Reg.BT_IMG_VER (wd (imgVersion r.copy)) s1).put .BT_ROLL_IMG (imgRollback r.copy)).put .BT_LOAD_TIME time
  s2.each (packWords r.digest).zipIdx (fun p s => wr (Reg.BT_DIGEST p.2) p.1 s)

/-- Roles at the end of step 4 of R539: ACTIVE and, where the other domain has applied the image too, a standby in step. -/
def rolesStart (s : State) : State :=
  let s1 := bootActive s
  let s2 := s1.modSv (fun v => { v with stby := if (standbyDom s1).isSome then .inStep else .none, ftAt := clk s + s.get .SV_CFG_FT_PER * tick10min })
  match [Dom.a, Dom.b].find? (fun d => decide (roleOf s2 d = .fenced)) with
  | some d => fenceRecord d (s2.get .SV_FAIL_CAUSE) s2
  | none => s2

/-- The tiles whose link to the active domain is trained take their settings, and IMAGE is released (R539, step 5). -/
def tilesRelease (s : State) : State :=
  match activeDom s with
  | some d => allTiles (fun t s => if linkUp s t d then tileGo t s else safeRefresh t s) s
  | none => s

/-- An output whose partner alone lacks PAIR is not paired and reports PAIR_CONFLICT when the image takes effect (R82). -/
def pairsChecked (s : State) : State :=
  s.each ((List.range 256).filter isDO) (fun n s => if s.is (.CH_DO_CFG_PAIR n) && !paired s n then pairConflict n s else s)

/-- APPLY_PASS (R45 to R47, R54): the records of the domain's copy in order; at ENDREC everything takes effect. `land`: the level of the HEAD land; `time`: the load time of R62. -/
def applyPass (land : Bool) (time : Nat) (s : State) : State :=
  match s.bt.apply, repHere s (bootDom s) with
  | some x, some r =>
    if s.get .BT_STAT_STATE ≠ 0 then s
    else
      let l := (imgRecords r.copy x).getD []
      let s1 := s.each l loadRec
      let s2 := rolesStart (showImage x time r (unitsStart land (s1.each l loadLock)))
      let s3 := startStep 4 (s2.modBt (fun b => { b with apply := none, repA := none, repB := none }))
      let s4 := if (standbyDom s3).isSome then { s3 with jcom := some (snapOf 0 s3) } else s3
      bootCheck (tilesRelease (pairsChecked s4))
  | _, _ => s
def execApplyPass (land : Bool) (time : BitVec 16) (s : State) : Out := .next (applyPass land time.toNat s)

end Sys2Proof.Machine
end

