-- ==== Sys2Proof/Machine/HostPort.lean ====
section
/-! DEFINITION. The host port S0: frames, their replies and what ends them (spec/13, R401 to R416; R64, R507, R509). -/

namespace Sys2Proof.Machine

/-- One bit of the CRC-16 of R405. -/
def crc16Bit (c : Nat) : Nat := if c / 2 ^ 15 % 2 = 1 then (c * 2 % 65536) ^^^ 0x1021 else c * 2 % 65536

def crc16Byte (c : Nat) (b : Byte) : Nat :=
  crc16Bit (crc16Bit (crc16Bit (crc16Bit (crc16Bit (crc16Bit (crc16Bit (crc16Bit (c ^^^ b.toNat * 256))))))))

/-- The CRC-16 of R405 over words in line order. -/
def crc16 (l : List Word) : Nat := (wordsBytes l).foldl crc16Byte 0xFFFF

/-- RESULT codes of R410. -/
def hrOk : Nat := 0
def hrBadCmd : Nat := 1
def hrBadAddr : Nat := 2
def hrDenied : Nat := 3
def hrRetry : Nat := 4
def hrDiscarded : Nat := 6

/-- The flash window (R421): its first address and its bytes. -/
def winBase : Nat := 0x10000000
def winSize : Nat := 0x4000000

/-- The fall of select: a line mode that a MODE frame chose takes effect (R402). -/
def s0Fall (s : State) : State :=
  s.modS0 (fun h => match h.next with
    | some q => { h with quad := q, next := none }
    | none => h)

/-- The words that the window buffer holds for the READ frame it serves (R414). -/
def winWords (s : State) : Option (List Word) := s.s0.buf.bind (·.words)

/-- RESULT and values of the reply as they stand when it begins (R414). -/
def replyResult (s : State) : Nat := match s.s0.win with
  | some _ => if (winWords s).isSome then hrOk else hrRetry
  | none => s.s0.result
def replyVals (s : State) : List Word := match s.s0.win with
  | some n => (winWords s).getD (List.replicate n 0)
  | none => s.s0.vals

/-- The status word (R409). -/
def statusWord (s : State) : Word :=
  let h := s.s0
  if h.has then
    wd (mk [(h.tag, 24), (replyResult s, 20), (0xA, 16), (b2n (irqAsserted s), 15), (b2n h.busy, 14), (b2n h.trunc, 13), (b2n h.overclock, 12),
      (b2n h.crcErr, 11), (b2n h.abort, 10), (b2n h.underrun, 9), (h.fseq, 0)])
  else wd (mk [(0xA, 16), (b2n (irqAsserted s), 15), (b2n (s.get .BT_STAT_STATE == 0), 14), (1, 8)])

/-- Values as they are sent (R413): one that is late is replaced by the previous word of the reply. -/
def sendVals (late : List Nat) : Nat → Word → List Word → List Word
  | _, _, [] => []
  | i, prev, v :: r => let w := if late.contains i then prev else v; w :: sendVals late (i + 1) w r

/-- The reply of the previous frame (R408): W is its length. -/
def replyWords (late : List Nat) (s : State) : List Word :=
  let st := statusWord s
  let f := s.s0.filler
  let l := st :: List.replicate f 0 ++ sendVals late 0 (if f = 0 then st else 0) (replyVals s)
  if s.s0.crcp then l ++ [wd (crc16 l)] else l

/-- Values can be late in 4-4-4 only, with no filler words, and not those of the window (R413, R414). -/
def lateOf (s : State) (late : List Nat) : List Nat :=
  if s.s0.quad ∧ s.s0.filler = 0 ∧ s.s0.win.isNone then (List.range s.s0.vals.length).filter (fun i => late.contains i) else []

/-- The frame carries the first words of the reply that it has room for, `n` of W (R411 to R413, R415); whether one was late; whether the reply was cut short. -/
def carryReply (late : List Nat) (n : Nat → Nat) (s : State) : State × Bool × Bool :=
  let bad := lateOf s late
  let l := replyWords bad s
  let c := n l.length
  let under := (bad.filter (fun i => decide (1 + i < c))).length
  let cut := decide (c < l.length)
  let s1 := (s.addSat .SP0_CNT_UNDER under).when cut (·.inc .SP0_CNT_TRUNC)
  let s2 := s1.when (s.s0.win.isSome && replyResult s == hrRetry) (·.inc .SP0_CNT2_RETRY)
  (s2.modS0 (fun h => { h with out := l.take c }), decide (under ≠ 0), cut)

/-- A frame that nobody serves: the lines are held at 0 (R507). -/
def s0Dead (n : Nat) (s : State) : State := s.modS0 (fun h => { h with out := List.replicate n 0 })

/-- Frame k is numbered (R409); what follows decides its outcome. -/
def s0Record (tag : Nat) (under cut : Bool) (s : State) : State :=
  s.modS0 (fun h => { quad := h.quad, next := h.next, buf := h.buf, out := h.out, has := true, fseq := if h.has then (h.fseq + 1) % 256 else 0, tag := tag,
                      busy := s.get .BT_STAT_STATE == 0, trunc := cut, underrun := under })

/-- The outcome of frame k, with a reply of its full length or of the status word alone. A frame that reset the module leaves no record (R409, R543). -/
def s0Result (n : Nat) (full : Bool) (cmd : Word) (s : State) : State :=
  s.modS0 (fun h =>
    if ¬ h.has then h
    else if full then
      let read := bits cmd 31 28 = 1
      { h with result := n, crcp := bitAt cmd 17, filler := if read then s.get .SP0_CFG_RDLAT else 0,
               vals := if read then List.replicate (bits cmd 27 20 + 1) 0 else [] }
    else { h with result := n })

/-- Host words after the address (R404). -/
def dataLen (quad : Bool) (cmd : Word) : Nat :=
  match bits cmd 31 28 with
  | 0 => if quad then 0 else bits cmd 27 20 + 1
  | 1 => if quad then 0 else bits cmd 27 20 + 1
  | 2 => bits cmd 27 20 + 1
  | 3 => 1
  | _ => 0

/-- The counted words of a frame (R404, R405). -/
def frameLen (quad : Bool) (cmd : Word) : Nat := 2 + dataLen quad cmd + b2n (bitAt cmd 17)

/-- BAD_CMD (R407): a set bit of the CRC word's upper half too (assumption log 57). -/
def badCmd (cmd crc : Word) (data : List Word) : Bool :=
  let op := bits cmd 31 28
  decide (3 < op) || bits cmd 19 18 != 0 || bits cmd 7 0 != 0 || (bitAt cmd 17 && bits crc 31 16 != 0)
    || (op == 3 && (bits cmd 27 20 != 0 || bits (data.getD 0 0) 31 1 != 0))

/-- The addresses of a frame's words. -/
def frameAddrs (cmd addr : Word) : List Nat :=
  (List.range (bits cmd 27 20 + 1)).map (fun i => if bitAt cmd 16 then addr.toNat + 4 * i else addr.toNat)

def inWindow (a : Nat) : Bool := decide (winBase ≤ a) && decide (a < winBase + winSize)

/-- BAD_ADDR (R404, R407): the ranges are those of the words that a READ or WRITE accesses (assumption log 57). -/
def badAddr (cmd addr : Word) : Bool :=
  let l := frameAddrs cmd addr
  let op := bits cmd 31 28
  addr.toNat % 4 != 0 || ((op == 1 || op == 2) && !(l.all (fun a => decide (a < busLimit)) || l.all inWindow))

/-- A READ frame (R406, R414). -/
def s0Read (cmd addr : Word) (s : State) : State :=
  let n := bits cmd 27 20
  if inWindow addr.toNat then
    let x := addr.toNat - winBase
    let keep := match s.s0.buf with
      | some b => decide (b.addr = x) && decide (b.cnt = n) && b.inc == bitAt cmd 16
      | none => false
    let s1 := if keep then s else s.modS0 (fun h => { h with buf := some { addr := x, cnt := n, inc := bitAt cmd 16, cs := s.get .SP1_WBASE_CS, base := s.get .SP1_WBASE_BASE } })
    sp1Show ((s0Result hrOk true cmd s1).modS0 (fun h => { h with vals := [], win := some (n + 1) }))
  else
    let s1 := s0Result hrOk true cmd s
    let p := readWords .s0 (frameAddrs cmd addr) s1
    p.2.modS0 (fun h => { h with vals := p.1 })

/-- Whether S0 may write to the flash window (R48, R53, R64). -/
def winOpen (s : State) : Bool := s.get .BT_STAT_STATE != 0 && !s.is .MOD_CFG_LOCK_S0_RO

/-- A WRITE frame (R406, R407, R422). -/
def s0Write (cmd addr : Word) (data : List Word) (s : State) : State :=
  if inWindow addr.toNat then
    if winOpen s then
      let p := winWrite (addr.toNat - winBase) (bitAt cmd 16) data s
      s0Result p.1 true cmd (p.2.when (p.1 == hrRetry) (·.inc .SP0_CNT2_RETRY))
    else s0Result hrDenied true cmd s
  else
    let p := writeWords .s0 (busFn .s0) ((frameAddrs cmd addr).zip data) s
    s0Result (if p.1 then hrDenied else hrOk) true cmd p.2

/-- A MODE frame (R402). -/
def s0ModeSet (cmd : Word) (data : List Word) (s : State) : State :=
  let q := bitAt (data.getD 0 0) 0
  if q ∧ (¬ s.is .SP0_CFG_QUAD_EN ∨ s.get .BT_STAT_STATE ≠ 1 ∨ s.s0.quad) then s0Result hrDenied true cmd s
  else (s0Result hrOk true cmd s).modS0 (fun h => { h with next := some q })

/-- A complete frame is examined and takes effect (R405 to R407, R415, R509). -/
def s0Examine (cmd addr : Word) (data : List Word) (crc : Word) (s : State) : State :=
  if bitAt cmd 17 ∧ bits crc 15 0 ≠ crc16 (cmd :: addr :: data) then
    (s0Result hrDiscarded true cmd (s.inc .SP0_CNT_CRC)).modS0 (fun h => { h with crcErr := true })
  else if s.is .SV_STAT_SWITCHING then s0Result hrRetry true cmd (s.inc .SP0_CNT2_RETRY)
  else if badCmd cmd crc data then s0Result hrBadCmd false cmd s
  else if badAddr cmd addr then s0Result hrBadAddr false cmd s
  else match bits cmd 31 28 with
    | 1 => s0Read cmd addr s
    | 2 => s0Write cmd addr data s
    | 3 => s0ModeSet cmd data s
    | _ => s0Result hrOk true cmd s

/-- A frame whose counted words all arrive (R403 to R415): command word, address word, the words after it as many as R404 counts, the CRC word where the
command announces one; `late`: values of the reply carried that are not ready in time; `extra`: clock edges followed. -/
def s0Frame (cmd addr : Word) (data : List Word) (crc : Word) (late : List Nat) (extra : Bool) (s : State) : State :=
  let s0 := s0Fall s
  let quad := s0.s0.quad
  let n := frameLen quad cmd
  if data.length ≠ dataLen quad cmd then s
  else if ¬ s0Serves s0 then s0Dead n s0
  else
    let p := carryReply late (fun w => if quad then w else min n w) s0
    let s1 := s0Record (bits cmd 15 8) p.2.1 p.2.2 p.1
    let s2 := if extra then (s1.inc .SP0_CNT2_OVCLK).modS0 (fun h => { h with overclock := true }) else s1
    s0Examine cmd addr data crc s2

/-- The frames of the rows differ by OP: 0 NOP, 1 READ, 2 WRITE, 3 MODE; an unassigned OP comes with NOP. -/
def s0Op (ok : Nat → Bool) (cmd addr : Word) (data : List Word) (crc : Word) (late : List Nat) (extra : Bool) (s : State) : Out :=
  .next (if ok (bits cmd 31 28) then s0Frame cmd addr data crc late extra s else s)

/-- S0_NOP, S0_READ, S0_WRITE, S0_MODE. -/
def execS0Nop (cmd addr : Word) (room : List Word) (crc : Word) (late : List Nat) (extra : Bool) (s : State) : Out :=
  s0Op (fun o => o == 0 || decide (3 < o)) cmd addr room crc late extra s
def execS0Read (cmd addr : Word) (room : List Word) (crc : Word) (late : List Nat) (extra : Bool) (s : State) : Out :=
  s0Op (· == 1) cmd addr room crc late extra s
def execS0Write (cmd addr : Word) (data : List Word) (crc : Word) (late : List Nat) (extra : Bool) (s : State) : Out :=
  s0Op (· == 2) cmd addr data crc late extra s
def execS0Mode (cmd addr data : Word) (crc : Word) (late : List Nat) (extra : Bool) (s : State) : Out :=
  s0Op (· == 3) cmd addr [data] crc late extra s

/-- A frame that ends before its last counted word (R415), or after 1 s (R416): `ws` are the words that arrived whole, `n` how many words of the reply a 4-4-4
frame carried. A frame without a whole command word has an open TAG (assumption log 4). -/
def s0Cut (ws : List Word) (n : Nat) (late : List Nat) (s : State) : State :=
  let s0 := s0Fall s
  if ¬ s0Serves s0 then s0Dead (n + ws.length) s0
  else
    let p := carryReply late (fun w => if s0.s0.quad then (if ws = [] then min n w else w) else min ws.length w) s0
    let s1 := match ws with
      | cmd :: _ => s0Record (bits cmd 15 8) p.2.1 p.2.2 p.1
      | [] => (s0Record ((freeNow s).toNat % 256) p.2.1 p.2.2 p.1).useFree
    (s1.inc .SP0_CNT_ABORT).modS0 (fun h => { h with result := hrDiscarded, abort := true })

/-- Whether words fall short of the frame that they open. -/
def frameShort (quad : Bool) (ws : List Word) : Bool := match ws with
  | [] => true
  | cmd :: _ => decide (ws.length < frameLen quad cmd)

/-- S0_FRAME_ABORT (R415). -/
def execS0FrameAbort (ws : List Word) (n : Nat) (late : List Nat) (s : State) : Out :=
  .next (if frameShort (s0Fall s).s0.quad ws then s0Cut ws n late s else s)

/-- S0_FRAME_TIMEOUT (R416). -/
def execS0FrameTimeout (ws : List Word) (n : Nat) (late : List Nat) (s : State) : Out := .next (s0Cut ws n late s)

/-- S0_EMPTY_FRAME (R415): the pending reply waits for the next frame. -/
def execS0EmptyFrame (s : State) : Out :=
  .next (let s0 := (s0Fall s).modS0 (fun h => { h with out := [] })
    if s0Serves s0 then s0.inc .SP0_CNT2_EMPTY else s0)

end Sys2Proof.Machine
end

