-- ==== Sys2Proof/Machine/Dispatch.lean ====
section
/-! DEFINITION. Every command to its meaning. -/

namespace Sys2Proof.Machine

/-- The effect of a command on everything but the queue. -/
def exec (i : Instr) (s : State) : Host.Outcome State Fault Refusal :=
  match i with
  | .registerWrite r a w => Sys2Proof.Machine.execRegisterWrite r a w s
  | .wideReadLow r a => Sys2Proof.Machine.execWideReadLow r a s
  | .wideReadHigh r a => Sys2Proof.Machine.execWideReadHigh r a s
  | .wideWriteLower r a w => Sys2Proof.Machine.execWideWriteLower r a w s
  | .wideWriteCommit r a w => Sys2Proof.Machine.execWideWriteCommit r a w s
  | .sfdpDiscovery ok0 d0 e0 ok1 d1 e1 => Sys2Proof.Machine.execSfdpDiscovery ok0 d0 e0 ok1 d1 e1 s
  | .imageLoad d e0 e1 => Sys2Proof.Machine.execImageLoad d e0 e1 s
  | .imageReportCompare => Sys2Proof.Machine.execImageReportCompare s
  | .applyPass land time => Sys2Proof.Machine.execApplyPass land time s
  | .attest r arg => Sys2Proof.Machine.execAttest r arg s
  | .keyProg r arg => Sys2Proof.Machine.execKeyProg r arg s
  | .keyRevoke r arg => Sys2Proof.Machine.execKeyRevoke r arg s
  | .rollCommit r => Sys2Proof.Machine.execRollCommit r s
  | .trustCmdDone ok => Sys2Proof.Machine.execTrustCmdDone ok s
  | .diSample t raw => Sys2Proof.Machine.execDiSample t raw s
  | .diEdgesPreset r n w => Sys2Proof.Machine.execDiEdgesPreset r n w s
  | .doCmdWrite r n w => Sys2Proof.Machine.execDoCmdWrite r n w s
  | .thermalShutdown n => Sys2Proof.Machine.execThermalShutdown n s
  | .thermalRestart n => Sys2Proof.Machine.execThermalRestart n s
  | .clampEventEnd n e => Sys2Proof.Machine.execClampEventEnd n e s
  | .pullinEnd n => Sys2Proof.Machine.execPullinEnd n s
  | .digitalDiagDetect n m => Sys2Proof.Machine.execDigitalDiagDetect n m s
  | .digitalDiagClear n b => Sys2Proof.Machine.execDigitalDiagClear n b s
  | .chDiagClear r n w => Sys2Proof.Machine.execChDiagClear r n w s
  | .tileHoldExpiry t => Sys2Proof.Machine.execTileHoldExpiry t s
  | .tileFrameReceive t d e => Sys2Proof.Machine.execTileFrameReceive t d e s
  | .tileSafeWdogClear r t w => Sys2Proof.Machine.execTileSafeWdogClear r t w s
  | .aoSetWrite r n w => Sys2Proof.Machine.execAoSetWrite r n w s
  | .aoTrimWrite r n w => Sys2Proof.Machine.execAoTrimWrite r n w s
  | .lpHiccupOff n => Sys2Proof.Machine.execLpHiccupOff n s
  | .lpHiccupOn n => Sys2Proof.Machine.execLpHiccupOn n s
  | .analogDiagDetect n m => Sys2Proof.Machine.execAnalogDiagDetect n m s
  | .analogDiagClear n b => Sys2Proof.Machine.execAnalogDiagClear n b s
  | .injectEnter r n => Sys2Proof.Machine.execInjectEnter r n s
  | .injectExit r n => Sys2Proof.Machine.execInjectExit r n s
  | .modeChange r n w => Sys2Proof.Machine.execModeChange r n w s
  | .tdacWrite r t w => Sys2Proof.Machine.execTdacWrite r t w s
  | .modulatorLoopReset n => Sys2Proof.Machine.execModulatorLoopReset n s
  | .chainOutput n ps => Sys2Proof.Machine.execChainOutput n ps s
  | .syncLandEdge rising => Sys2Proof.Machine.execSyncLandEdge rising s
  | .caSyncGo r => Sys2Proof.Machine.execCaSyncGo r s
  | .syncApply => Sys2Proof.Machine.execSyncApply s
  | .auxSlotEnd t raw ovr => Sys2Proof.Machine.execAuxSlotEnd t raw ovr s
  | .injRequest r w => Sys2Proof.Machine.execInjRequest r w s
  | .injComplete t raw ovr => Sys2Proof.Machine.execInjComplete t raw ovr s
  | .cal r => Sys2Proof.Machine.execCal r s
  | .autoCalStart => Sys2Proof.Machine.execAutoCalStart s
  | .calPermitGranted => Sys2Proof.Machine.execCalPermitGranted s
  | .calEnter => Sys2Proof.Machine.execCalEnter s
  | .calOffsetMeans sums => Sys2Proof.Machine.execCalOffsetMeans sums s
  | .calGainMeans sums marked => Sys2Proof.Machine.execCalGainMeans sums marked s
  | .calEnd => Sys2Proof.Machine.execCalEnd s
  | .calFactorWrite r j gain w => Sys2Proof.Machine.execCalFactorWrite r j gain w s
  | .sweep r => Sys2Proof.Machine.execSweep r s
  | .sweepAbort r => Sys2Proof.Machine.execSweepAbort r s
  | .sweepStep raw => Sys2Proof.Machine.execSweepStep raw s
  | .fcCfgWrite r n shift w => Sys2Proof.Machine.execFcCfgWrite r n shift w s
  | .pdelayWrite r n w => Sys2Proof.Machine.execPdelayWrite r n w s
  | .presetRecordWrite r x o w => Sys2Proof.Machine.execPresetRecordWrite r x o w s
  | .linkFramesResume t d => Sys2Proof.Machine.execLinkFramesResume t d s
  | .thresholdWrite r n x reg w => Sys2Proof.Machine.execThresholdWrite r n x reg w s
  | .diEvWrite r n w => Sys2Proof.Machine.execDiEvWrite r n w s
  | .modIrqClear r w => Sys2Proof.Machine.execModIrqClear r w s
  | .dipRequest r w => Sys2Proof.Machine.execDipRequest r w s
  | .dipLatch b => Sys2Proof.Machine.execDipLatch b s
  | .dipBankHeld b => Sys2Proof.Machine.execDipBankHeld b s
  | .dipRelease r w => Sys2Proof.Machine.execDipRelease r w s
  | .qCfgWrite r q w => Sys2Proof.Machine.execQCfgWrite r q w s
  | .qPopLo r q => Sys2Proof.Machine.execQPopLo r q s
  | .qPopHi r q => Sys2Proof.Machine.execQPopHi r q s
  | .qPopStream r q => Sys2Proof.Machine.execQPopStream r q s
  | .logScan r => Sys2Proof.Machine.execLogScan r s
  | .logRecordWrite r q => Sys2Proof.Machine.execLogRecordWrite r q s
  | .logSectorOpen r q => Sys2Proof.Machine.execLogSectorOpen r q s
  | .tuRateWrite r w => Sys2Proof.Machine.execTuRateWrite r w s
  | .tuStep r w => Sys2Proof.Machine.execTuStep r w s
  | .tuSet r w => Sys2Proof.Machine.execTuSet r w s
  | .tuSourceChange r w => Sys2Proof.Machine.execTuSourceChange r w s
  | .tuCanRefSend => Sys2Proof.Machine.execTuCanRefSend s
  | .tuCanRefReceive x => Sys2Proof.Machine.execTuCanRefReceive x s
  | .ppsEdge => Sys2Proof.Machine.execPpsEdge s
  | .ringTimeFrameSend => Sys2Proof.Machine.execRingTimeFrameSend s
  | .ringTimeFrame x f frac delay => Sys2Proof.Machine.execRingTimeFrame x f frac delay s
  | .holdoverTimeout => Sys2Proof.Machine.execHoldoverTimeout s
  | .scheduleFire j => Sys2Proof.Machine.execScheduleFire j s
  | .scheduleWrite r j reg w => Sys2Proof.Machine.execScheduleWrite r j reg w s
  | .tuTokenGo r w => Sys2Proof.Machine.execTuTokenGo r w s
  | .tokenCopySend => Sys2Proof.Machine.execTokenCopySend s
  | .ringTokenReceive x f => Sys2Proof.Machine.execRingTokenReceive x f s
  | .canModeChange p => Sys2Proof.Machine.execCanModeChange p s
  | .canIntegrated p => Sys2Proof.Machine.execCanIntegrated p s
  | .canFrameReceive p x => Sys2Proof.Machine.execCanFrameReceive p x s
  | .lvbLockRead r p b => Sys2Proof.Machine.execLvbLockRead r p b s
  | .lvbStatRead r p b => Sys2Proof.Machine.execLvbStatRead r p b s
  | .lvbLockTimeout r p b => Sys2Proof.Machine.execLvbLockTimeout r p b s
  | .canTxGo r p w => Sys2Proof.Machine.execCanTxGo r p w s
  | .canTxFlush r p => Sys2Proof.Machine.execCanTxFlush r p s
  | .canAttemptStart p => Sys2Proof.Machine.execCanAttemptStart p s
  | .canAttemptSuccess p => Sys2Proof.Machine.execCanAttemptSuccess p s
  | .canAttemptError p e => Sys2Proof.Machine.execCanAttemptError p e s
  | .canArbitrationLost p => Sys2Proof.Machine.execCanArbitrationLost p s
  | .canBusoffRecovery p => Sys2Proof.Machine.execCanBusoffRecovery p s
  | .canSleepRequest r p w => Sys2Proof.Machine.execCanSleepRequest r p w s
  | .canWakeHost r p w => Sys2Proof.Machine.execCanWakeHost r p w s
  | .canWakeEdge p => Sys2Proof.Machine.execCanWakeEdge p s
  | .canWakeFrame p x => Sys2Proof.Machine.execCanWakeFrame p x s
  | .ctxKick r c arg => Sys2Proof.Machine.execCtxKick r c arg s
  | .ctxAbort r c => Sys2Proof.Machine.execCtxAbort r c s
  | .ctxReset r c => Sys2Proof.Machine.execCtxReset r c s
  | .engineDispatch => Sys2Proof.Machine.execEngineDispatch s
  | .sliceExpiry e => Sys2Proof.Machine.execSliceExpiry e s
  | .runmaxExpiry c => Sys2Proof.Machine.execRunmaxExpiry c s
  | .ctxInboxFrame c p k x => Sys2Proof.Machine.execCtxInboxFrame c p k x s
  | .expectTimeout c => Sys2Proof.Machine.execExpectTimeout c s
  | .backoffExpiry c => Sys2Proof.Machine.execBackoffExpiry c s
  | .ctxWaitExpiry c => Sys2Proof.Machine.execCtxWaitExpiry c s
  | .checkpointCommitted c => Sys2Proof.Machine.execCheckpointCommitted c s
  | .ctxUnblock c => Sys2Proof.Machine.execCtxUnblock c s
  | .hoistCacheFillDone a ok => Sys2Proof.Machine.execHoistCacheFillDone a ok s
  | .xferTimerExpiry c => Sys2Proof.Machine.execXferTimerExpiry c s
  | .hoistMemoryWrite r j w => Sys2Proof.Machine.execHoistMemoryWrite r j w s
  | .jmp e => Sys2Proof.Machine.execJmp e s
  | .br e => Sys2Proof.Machine.execBr e s
  | .call e => Sys2Proof.Machine.execCall e s
  | .ret e => Sys2Proof.Machine.execRet e s
  | .loop e => Sys2Proof.Machine.execLoop e s
  | .endRun e => Sys2Proof.Machine.execEnd e s
  | .fail e => Sys2Proof.Machine.execFail e s
  | .wait e => Sys2Proof.Machine.execWait e s
  | .align e => Sys2Proof.Machine.execAlign e s
  | .tset e => Sys2Proof.Machine.execTset e s
  | .tnow e => Sys2Proof.Machine.execTnow e s
  | .movi e => Sys2Proof.Machine.execMovi e s
  | .mov e => Sys2Proof.Machine.execMov e s
  | .add e => Sys2Proof.Machine.execAdd e s
  | .sub e => Sys2Proof.Machine.execSub e s
  | .and e => Sys2Proof.Machine.execAnd e s
  | .or e => Sys2Proof.Machine.execOr e s
  | .xor e => Sys2Proof.Machine.execXor e s
  | .shl e => Sys2Proof.Machine.execShl e s
  | .shr e => Sys2Proof.Machine.execShr e s
  | .sar e => Sys2Proof.Machine.execSar e s
  | .cmp e => Sys2Proof.Machine.execCmp e s
  | .ldb e => Sys2Proof.Machine.execLdb e s
  | .stb e => Sys2Proof.Machine.execStb e s
  | .field e => Sys2Proof.Machine.execField e s
  | .rdr e => Sys2Proof.Machine.execRdr e s
  | .wrr e => Sys2Proof.Machine.execWrr e s
  | .send e => Sys2Proof.Machine.execSend e s
  | .sendv e => Sys2Proof.Machine.execSendv e s
  | .expect e => Sys2Proof.Machine.execExpect e s
  | .expectany e => Sys2Proof.Machine.execExpectany e s
  | .flush e => Sys2Proof.Machine.execFlush e s
  | .xferTx e => Sys2Proof.Machine.execXferTx e s
  | .xferRx e => Sys2Proof.Machine.execXferRx e s
  | .cvstart e => Sys2Proof.Machine.execCvstart e s
  | .cvfeed e => Sys2Proof.Machine.execCvfeed e s
  | .cvchk e => Sys2Proof.Machine.execCvchk e s
  | .dout e => Sys2Proof.Machine.execDout e s
  | .aout e => Sys2Proof.Machine.execAout e s
  | .din e => Sys2Proof.Machine.execDin e s
  | .ain e => Sys2Proof.Machine.execAin e s
  | .push e => Sys2Proof.Machine.execPush e s
  | .pennant e => Sys2Proof.Machine.execPennant e s
  | .checkpoint e => Sys2Proof.Machine.execCheckpoint e s
  | .once e => Sys2Proof.Machine.execOnce e s
  | .signal e => Sys2Proof.Machine.execSignal e s
  | .s0Nop cmd addr room crc late extra => Sys2Proof.Machine.execS0Nop cmd addr room crc late extra s
  | .s0Read cmd addr room crc late extra => Sys2Proof.Machine.execS0Read cmd addr room crc late extra s
  | .s0Write cmd addr data crc late extra => Sys2Proof.Machine.execS0Write cmd addr data crc late extra s
  | .s0Mode cmd addr data crc late extra => Sys2Proof.Machine.execS0Mode cmd addr data crc late extra s
  | .s0FrameAbort ws n late => Sys2Proof.Machine.execS0FrameAbort ws n late s
  | .s0EmptyFrame => Sys2Proof.Machine.execS0EmptyFrame s
  | .s0FrameTimeout ws n late => Sys2Proof.Machine.execS0FrameTimeout ws n late s
  | .flashWindowReadDone => Sys2Proof.Machine.execFlashWindowReadDone s
  | .flashPageProgram o => Sys2Proof.Machine.execFlashPageProgram o s
  | .flashWriteDone => Sys2Proof.Machine.execFlashWriteDone s
  | .sp1Erase r etype cs => Sys2Proof.Machine.execSp1Erase r etype cs s
  | .sp1Raw r cs => Sys2Proof.Machine.execSp1Raw r cs s
  | .sp1OpDone err rx chg => Sys2Proof.Machine.execSp1OpDone err rx chg s
  | .s2Go r ss cnt => Sys2Proof.Machine.execS2Go r ss cnt s
  | .s2TransferEnd rx => Sys2Proof.Machine.execS2TransferEnd rx s
  | .s2Modf => Sys2Proof.Machine.execS2Modf s
  | .s2SlaveFrameEnd rx frag => Sys2Proof.Machine.execS2SlaveFrameEnd rx frag s
  | .s2SlavePost r cnt => Sys2Proof.Machine.execS2SlavePost r cnt s
  | .s2RoleChange => Sys2Proof.Machine.execS2RoleChange s
  | .linkTrainStart x => Sys2Proof.Machine.execLinkTrainStart x s
  | .linkTrainStepDone x v rt => Sys2Proof.Machine.execLinkTrainStepDone x v rt s
  | .linkTrainTimeout x => Sys2Proof.Machine.execLinkTrainTimeout x s
  | .joinListenExpiry heard => Sys2Proof.Machine.execJoinListenExpiry heard s
  | .ringRelock epoch => Sys2Proof.Machine.execRingRelock epoch s
  | .relockTimeout => Sys2Proof.Machine.execRelockTimeout s
  | .probe x f a r => Sys2Proof.Machine.execProbe x f a r s
  | .remeasure x f => Sys2Proof.Machine.execRemeasure x f s
  | .enumStart => Sys2Proof.Machine.execEnumStart s
  | .enum x f => Sys2Proof.Machine.execEnum x f s
  | .roster x f => Sys2Proof.Machine.execRoster x f s
  | .enumTimeout => Sys2Proof.Machine.execEnumTimeout s
  | .enumDone x f => Sys2Proof.Machine.execEnumDone x f s
  | .linkDown x cv => Sys2Proof.Machine.execLinkDown x cv s
  | .reroute x f => Sys2Proof.Machine.execReroute x f s
  | .linkUp x farEpoch => Sys2Proof.Machine.execLinkUp x farEpoch s
  | .retrain r w => Sys2Proof.Machine.execRetrain r w s
  | .retrainFrame x f => Sys2Proof.Machine.execRetrainFrame x f s
  | .retrainExecute => Sys2Proof.Machine.execRetrainExecute s
  | .ringFrameForward x f crcOk => Sys2Proof.Machine.execRingFrameForward x f crcOk s
  | .pause x on => Sys2Proof.Machine.execPause x on s
  | .raGo r w => Sys2Proof.Machine.execRaGo r w s
  | .raReq x f => Sys2Proof.Machine.execRaReq x f s
  | .raRsp x f => Sys2Proof.Machine.execRaRsp x f s
  | .raTimeout => Sys2Proof.Machine.execRaTimeout s
  | .exportSend => Sys2Proof.Machine.execExportSend s
  | .exportReceive x f crcOk => Sys2Proof.Machine.execExportReceive x f crcOk s
  | .alarmSend => Sys2Proof.Machine.execAlarmSend s
  | .alarm x f => Sys2Proof.Machine.execAlarm x f s
  | .cvStart r u => Sys2Proof.Machine.execCvStart r u s
  | .cvFinish r u => Sys2Proof.Machine.execCvFinish r u s
  | .cvDma r u => Sys2Proof.Machine.execCvDma r u s
  | .cvAbort r u => Sys2Proof.Machine.execCvAbort r u s
  | .cvData r u w => Sys2Proof.Machine.execCvData r u w s
  | .cvData8 r u w => Sys2Proof.Machine.execCvData8 r u w s
  | .cvDmaDone u => Sys2Proof.Machine.execCvDmaDone u s
  | .cvHoldTimeout u => Sys2Proof.Machine.execCvHoldTimeout u s
  | .cvConfigWrite r u reg w => Sys2Proof.Machine.execCvConfigWrite r u reg w s
  | .logicFeedLoss d => Sys2Proof.Machine.execLogicFeedLoss d s
  | .tileFeedChange t second ok carry => Sys2Proof.Machine.execTileFeedChange t second ok carry s
  | .tilePowerLoss t => Sys2Proof.Machine.execTilePowerLoss t s
  | .clockMonitorTrip d => Sys2Proof.Machine.execClockMonitorTrip d s
  | .heartbeatMiss d => Sys2Proof.Machine.execHeartbeatMiss d s
  | .selfcheckReport d ecc => Sys2Proof.Machine.execSelfcheckReport d ecc s
  | .digestForm d diff bad => Sys2Proof.Machine.execDigestForm d diff bad s
  | .digestCompare => Sys2Proof.Machine.execDigestCompare s
  | .selfcheckDone failA failB => Sys2Proof.Machine.execSelfcheckDone failA failB s
  | .disagreeClear => Sys2Proof.Machine.execDisagreeClear s
  | .arbiterHeartbeatLoss => Sys2Proof.Machine.execArbiterHeartbeatLoss s
  | .tileClockSourceSwitch t => Sys2Proof.Machine.execTileClockSourceSwitch t s
  | .halyardImmediate => Sys2Proof.Machine.execHalyardImmediate s
  | .immediateAckTimeout => Sys2Proof.Machine.execImmediateAckTimeout s
  | .journalEpochClose => Sys2Proof.Machine.execJournalEpochClose s
  | .journalCommit => Sys2Proof.Machine.execJournalCommit s
  | .journalLagTimeout => Sys2Proof.Machine.execJournalLagTimeout s
  | .rejoinStart d => Sys2Proof.Machine.execRejoinStart d s
  | .rejoinComplete ok => Sys2Proof.Machine.execRejoinComplete ok s
  | .takeover => Sys2Proof.Machine.execTakeover s
  | .newActiveReady => Sys2Proof.Machine.execNewActiveReady s
  | .switch r => Sys2Proof.Machine.execSwitch r s
  | .switchoverComplete => Sys2Proof.Machine.execSwitchoverComplete s
  | .switchWaitExpiry => Sys2Proof.Machine.execSwitchWaitExpiry s
  | .domtest r => Sys2Proof.Machine.execDomtest r s
  | .domtestEnd ok => Sys2Proof.Machine.execDomtestEnd ok s
  | .feedtest r t => Sys2Proof.Machine.execFeedtest r t s
  | .feedtestSchedule => Sys2Proof.Machine.execFeedtestSchedule s
  | .feedtestEnd ok second => Sys2Proof.Machine.execFeedtestEnd ok second s
  | .linktrain r t => Sys2Proof.Machine.execLinktrain r t s
  | .nvmwrite r => Sys2Proof.Machine.execNvmwrite r s
  | .release r => Sys2Proof.Machine.execRelease r s
  | .rejoin r => Sys2Proof.Machine.execRejoin r s
  | .scrub d m a err pass => Sys2Proof.Machine.execScrub d m a err pass s
  | .bankMarch bad => Sys2Proof.Machine.execBankMarch bad s
  | .logicSliceTest ok => Sys2Proof.Machine.execLogicSliceTest ok s
  | .canLoopbackTest ok => Sys2Proof.Machine.execCanLoopbackTest ok s
  | .burgee temps => Sys2Proof.Machine.execBurgee temps s
  | .wdogService r => Sys2Proof.Machine.execWdogService r s
  | .wdogExpiry => Sys2Proof.Machine.execWdogExpiry s
  | .powerReqRun r => Sys2Proof.Machine.execPowerReqRun r s
  | .powerReqLean r => Sys2Proof.Machine.execPowerReqLean r s
  | .powerReqDoze r => Sys2Proof.Machine.execPowerReqDoze r s
  | .powerReqSleep r => Sys2Proof.Machine.execPowerReqSleep r s
  | .leanSwitch => Sys2Proof.Machine.execLeanSwitch s
  | .sleepEntry => Sys2Proof.Machine.execSleepEntry s
  | .sleepEntryTimeout => Sys2Proof.Machine.execSleepEntryTimeout s
  | .idleSleepReturn => Sys2Proof.Machine.execIdleSleepReturn s
  | .wakeLandEdge rising => Sys2Proof.Machine.execWakeLandEdge rising s
  | .sleepWake => Sys2Proof.Machine.execSleepWake s
  | .wakeComplete => Sys2Proof.Machine.execWakeComplete s
  | .powerOn a b => Sys2Proof.Machine.execPowerOn a b s
  | .domainRelease a b => Sys2Proof.Machine.execDomainRelease a b s
  | .tileLinkTrained t d => Sys2Proof.Machine.execTileLinkTrained t d s
  | .tileLinkRetry t d => Sys2Proof.Machine.execTileLinkRetry t d s
  | .resetN => Sys2Proof.Machine.execResetN s
  | .cold r key => Sys2Proof.Machine.execCold r key s
  | .warm r key => Sys2Proof.Machine.execWarm r key s
  | .tileRst r t key => Sys2Proof.Machine.execTileRst r t key s
  | .canRxError p e xl disabled => Sys2Proof.Machine.execCanRxError p e xl disabled s
  | .receiverRelock x => Sys2Proof.Machine.execReceiverRelock x s
  | .tileLinkLoss t d => Sys2Proof.Machine.execTileLinkLoss t d s
  | .arbiterHeartbeatReturn => Sys2Proof.Machine.execArbiterHeartbeatReturn s
  | .timeLockTimeout => Sys2Proof.Machine.execTimeLockTimeout s
  | .logFlashDone r ok => Sys2Proof.Machine.execLogFlashDone r ok s
  | .s2SlaveFrameStart => Sys2Proof.Machine.execS2SlaveFrameStart s
  | .unassignedOpcode e => Sys2Proof.Machine.execUnassignedOpcode e s

end Sys2Proof.Machine
end

