-- ==== Sys2Proof/Machine/Step.lean ====
section
/-! DEFINITION. One step of the module: it takes the command at the front of its queue. -/

namespace Sys2Proof.Machine

/-- With no command waiting one edge of the 49.152 MHz clock passes, while the module has power (assumption log 2). -/
def idle (s : State) : State := if s.pw.on then clockEdge s else s

/-- One step: the command at the front of the queue runs with the rest of the queue. -/
def step (s : State) : Host.Outcome State Fault Refusal :=
  match s.pending with
  | [] => .next (idle s)
  | c :: rest => exec c { s with pending := rest }

/-- `s` with the command that a word spells at the front of its queue. -/
def State.withFetchWord (s : State) (nbits w : Nat) : State :=
  match decodeTableWord nbits w with
  | some c => { s with pending := c :: s.pending }
  | none => s

end Sys2Proof.Machine
end

