-- ==== Sys2Proof/Safety.lean ====
section
/-! DEFINITION. What a well-formed state is, in the words that the statements use: canonical memories, the roles of the two domains, the
conditions under which a register write is applied, and an engine at an instruction. -/

namespace Sys2Proof.Machine

/-- A memory is in its one canonical form: addresses strictly rising, nothing listed that an unlisted address reads as (`dflt`). -/
def Memory.wf {α : Type} [DecidableEq α] (dflt : Nat → α) (m : KMap α) : Bool := kwf dflt m

/-- The memories of a committed epoch are canonical. -/
def JSnap.memWf (j : JSnap) : Bool := Memory.wf resetWord j.regs && Memory.wf (fun _ => 0) j.qmem

/-- Every memory of the state is canonical: registers with hoist memory, queue memory, flash and OTP, and the registers and queue memory
that a standby holds. -/
def State.memWf (s : State) : Bool :=
  Memory.wf resetWord s.regs && Memory.wf (fun _ => 0) s.qmem && Memory.wf (fun _ => 0xFF) s.flash && Memory.wf otpBlank s.otp
    && s.jpend.all JSnap.memWf && s.jcom.all JSnap.memWf

/-- At most one domain is ACTIVE, and none while a takeover waits for its new domain (R492, R505). -/
def SvSt.rolesOk (v : SvSt) : Prop :=
  ¬ (v.roleA = .active ∧ v.roleB = .active) ∧ (v.tkoFrom.isSome = true → v.ready = false → v.roleA ≠ .active ∧ v.roleB ≠ .active)

/-- The roles of the module are sound. -/
def State.rolesOk (s : State) : Prop := s.sv.rolesOk

/-- The module serves register writes of `r` at `a`, and no lock keeps any bit of them from the register (R5, R48, R53, R64, R530). -/
def Admitted (s : State) (r : Req) (a : Nat) (m : WMask) : Prop :=
  served s r a = true ∧ s0ReadOnly s r = false ∧ (s.is .MOD_CFG_LOCK_CFG = true → m.rwl = 0)

/-- Which of a command's possible effects an operation may have: on OTP, flash, queue memory, the roles (with a takeover's standing), the power state. -/
structure Eff where
  otp : Bool := false
  flash : Bool := false
  qmem : Bool := false
  roles : Bool := false
  power : Bool := false
  deriving DecidableEq, Repr

/-- The effects that each command may have on OTP (R56, R58), on flash (R422, R424, R426, R256), on queue memory (R238, R257), on the roles (R492, R493, R505,
R509) and on the power state (R530 to R538). A command that resets the module, or whose verdict may, is listed with what a reset does; a register write
that names its register in an operand, with what any register's write does. -/
def effects (c : Instr) : Eff :=
  match c with
  | .registerWrite .. | .wideWriteLower .. | .wideWriteCommit .. | .imageReportCompare | .applyPass .. | .wrr .. | .s0Nop .. | .s0Read .. | .s0Write .. |
    .s0Mode .. | .raGo .. | .raReq .. | .logicFeedLoss .. | .clockMonitorTrip .. | .heartbeatMiss .. | .selfcheckReport .. | .selfcheckDone .. |
    .rejoinComplete .. | .domtestEnd .. | .scrub .. | .bankMarch .. | .logicSliceTest .. | .canLoopbackTest .. | .tileLinkRetry .. | .resetN | .cold .. |
    .warm .. =>
    { otp := true, flash := true, qmem := true, roles := true, power := true }
  | .wideReadLow .. | .wideReadHigh .. | .sfdpDiscovery .. | .imageLoad .. | .attest .. | .keyProg .. | .keyRevoke .. | .rollCommit .. | .diEdgesPreset ..
    | .thermalShutdown .. | .thermalRestart .. | .pullinEnd .. | .digitalDiagClear .. | .chDiagClear .. | .tileHoldExpiry .. | .tileFrameReceive .. |
    .tileSafeWdogClear .. | .aoSetWrite .. | .aoTrimWrite .. | .lpHiccupOff .. | .lpHiccupOn .. | .analogDiagClear .. | .injectEnter .. | .injectExit .. |
    .modeChange .. | .tdacWrite .. | .modulatorLoopReset .. | .caSyncGo .. | .syncApply | .injRequest .. | .injComplete .. | .calOffsetMeans .. |
    .calGainMeans .. | .calFactorWrite .. | .sweepAbort .. | .fcCfgWrite .. | .pdelayWrite .. | .presetRecordWrite .. | .linkFramesResume .. |
    .thresholdWrite .. | .diEvWrite .. | .modIrqClear .. | .dipLatch .. | .dipRelease .. | .qCfgWrite .. | .qPopLo .. | .qPopHi .. | .qPopStream .. |
    .logScan .. | .logRecordWrite .. | .logSectorOpen .. | .tuRateWrite .. | .tuStep .. | .tuSet .. | .tuSourceChange .. | .tuCanRefReceive .. | .ppsEdge
    | .ringTimeFrameSend | .ringTimeFrame .. | .holdoverTimeout | .scheduleWrite .. | .tokenCopySend | .canModeChange .. | .canIntegrated .. |
    .lvbLockRead .. | .lvbStatRead .. | .lvbLockTimeout .. | .canAttemptStart .. | .sliceExpiry .. | .backoffExpiry .. | .ctxWaitExpiry .. |
    .checkpointCommitted .. | .ctxUnblock .. | .hoistMemoryWrite .. | .s0FrameAbort .. | .s0EmptyFrame | .s0FrameTimeout .. | .flashWindowReadDone |
    .flashWriteDone | .sp1Erase .. | .sp1Raw .. | .s2Go .. | .s2Modf | .s2SlavePost .. | .s2RoleChange | .linkTrainStart .. | .linkTrainStepDone .. |
    .linkTrainTimeout .. | .joinListenExpiry .. | .ringRelock .. | .relockTimeout | .probe .. | .remeasure .. | .enumStart | .enum .. | .roster .. |
    .enumTimeout | .enumDone .. | .reroute .. | .retrain .. | .retrainFrame .. | .retrainExecute | .ringFrameForward .. | .pause .. | .raRsp .. |
    .raTimeout | .cvStart .. | .cvFinish .. | .cvDma .. | .cvAbort .. | .cvData .. | .cvData8 .. | .cvDmaDone .. | .cvHoldTimeout .. | .cvConfigWrite .. |
    .digestForm .. | .digestCompare | .tileClockSourceSwitch .. | .halyardImmediate | .immediateAckTimeout | .journalEpochClose | .journalCommit |
    .journalLagTimeout | .sleepEntryTimeout | .receiverRelock .. | .tileLinkLoss .. | .s2SlaveFrameStart =>
    {}
  | .trustCmdDone .. =>
    { otp := true }
  | .diSample .. | .doCmdWrite .. | .clampEventEnd .. | .digitalDiagDetect .. | .analogDiagDetect .. | .chainOutput .. | .syncLandEdge .. | .auxSlotEnd ..
    | .cal .. | .autoCalStart | .calPermitGranted | .calEnter | .calEnd | .sweep .. | .sweepStep .. | .dipRequest .. | .dipBankHeld .. | .tuTokenGo .. |
    .ringTokenReceive .. | .canBusoffRecovery .. | .ctxKick .. | .ctxAbort .. | .ctxReset .. | .runmaxExpiry .. | .expectTimeout .. | .hoistCacheFillDone
    .. | .jmp .. | .br .. | .call .. | .ret .. | .loop .. | .endRun .. | .fail .. | .wait .. | .align .. | .tset .. | .tnow .. | .movi .. | .mov .. | .add
    .. | .sub .. | .and .. | .or .. | .xor .. | .shl .. | .shr .. | .sar .. | .cmp .. | .ldb .. | .stb .. | .field .. | .rdr .. | .flush .. | .cvstart ..
    | .cvfeed .. | .cvchk .. | .dout .. | .aout .. | .din .. | .ain .. | .push .. | .pennant .. | .checkpoint .. | .once .. | .signal .. | .linkDown .. |
    .linkUp .. | .exportSend | .exportReceive .. | .alarmSend | .alarm .. | .tileFeedChange .. | .tilePowerLoss .. | .disagreeClear |
    .arbiterHeartbeatLoss | .feedtestSchedule | .feedtestEnd .. | .burgee .. | .wdogService .. | .wdogExpiry | .tileRst .. | .arbiterHeartbeatReturn |
    .timeLockTimeout | .unassignedOpcode .. =>
    { qmem := true }
  | .tuCanRefSend | .scheduleFire .. | .canFrameReceive .. | .canTxGo .. | .canTxFlush .. | .canAttemptSuccess .. | .canAttemptError .. |
    .canArbitrationLost .. | .canSleepRequest .. | .canWakeHost .. | .canWakeEdge .. | .canWakeFrame .. | .engineDispatch | .ctxInboxFrame .. |
    .xferTimerExpiry .. | .send .. | .sendv .. | .expect .. | .expectany .. | .xferTx .. | .xferRx .. | .s2TransferEnd .. | .s2SlaveFrameEnd .. |
    .switchWaitExpiry | .powerReqRun .. | .powerReqLean .. | .powerReqDoze .. | .powerReqSleep .. | .sleepWake | .canRxError .. =>
    { qmem := true, power := true }
  | .flashPageProgram .. | .sp1OpDone .. | .logFlashDone .. =>
    { flash := true }
  | .rejoinStart .. | .switch .. | .domtest .. | .feedtest .. | .linktrain .. | .nvmwrite .. | .release .. | .rejoin .. =>
    { qmem := true, roles := true }
  | .takeover | .domainRelease .. =>
    { roles := true }
  | .newActiveReady =>
    { flash := true, qmem := true, roles := true, power := true }
  | .switchoverComplete | .sleepEntry | .idleSleepReturn | .powerOn .. =>
    { qmem := true, roles := true, power := true }
  | .leanSwitch | .wakeLandEdge .. | .wakeComplete | .tileLinkTrained .. =>
    { power := true }

/-- A register of the queues, or `MOD_IRQ` (R216, R261): what a write into a queue may change. -/
def queueReg (a : Nat) : Bool := (decide (0x30000 ≤ a) && decide (a < 0x32000)) || a == Reg.MOD_IRQ

/-- A register that an event may change (R211, R261, R336): of the queues, of the contexts, `MOD_IRQ`, and the pennants' counts. -/
def eventReg (a : Nat) : Bool := queueReg a || (decide (0x40000 ≤ a) && decide (a < 0x4A000)) || a == Reg.EV_STAT

/-- `s` but for its registers and what a write into a queue may change, taken from `t`: the queues and their memory, and the active domain's own entries. -/
def queuedFrom (s t : State) : State := { s with regs := t.regs, queues := t.queues, qmem := t.qmem, late := t.late }

/-- As `queuedFrom`, and with what an event may change: the dips that count it, the contexts that it triggers, and the triggers kept for a takeover. -/
def eventsFrom (s t : State) : State := { queuedFrom s t with dips := t.dips, ctxs := t.ctxs, ltrigs := t.ltrigs }

/-- A register that follows from what an output does (R79, R84, R98): its status, its on time, its diagnostics. -/
def outputReg (n a : Nat) : Bool := a == Reg.CH_DO_STATE n || a == Reg.CH_DO_ONTIME n || a == Reg.CH_DIAG n

/-- A register that follows from the safe state of tile `t` (R87): of one of its outputs or analog channels, or `TILE_SAFE`. -/
def tileSafeReg (t a : Nat) : Bool := a == Reg.TILE_SAFE t || (decide (a / 0x1000 = 0x20 + t) && decide (8 ≤ a / 0x100 % 16))

/-- A register that a reset of channel `n`'s chain returns (R184, R204, R249): its state, its latest value, its thresholds' states. -/
def chainReg (n a : Nat) : Bool :=
  a == Reg.CH_FC_STATE n || a == Reg.CH_LAST n || a == Reg.CH_LAST_SEQ n || a == Reg.CH_TH_STATE n 0 || a == Reg.CH_TH_STATE n 1

/-- A register that a reset of some analog channel's chain returns. -/
def anyChainReg (a : Nat) : Bool := anChs.any (fun n => chainReg n a)

/-- A register of CAN port `p` (R323). -/
def canReg (p a : Nat) : Bool := a / 0x4000 == 20 + p

/-- A register of context `c` (R362). -/
def ctxReg (c a : Nat) : Bool := a / 0x100 == 0x400 + c

/-- Whether converter `i` fails a calibration with gain sums `sums` and the loops' own marks `marked` (R155, R157): a mark, no converter reached, or an
offset or gain out of bounds. -/
def convFailed (s : State) (sums : List Int) (marked : List Nat) (i : Nat) : Bool :=
  marked.contains i || s.ca.lost.contains i || !tileUp s (convTile i) || convFails (devOf s (convTile i)) (s.ca.s0.getD i 0) (sums.getD i 0)

/-- Engine `e` executes context `c` within its slice, and the context's next word is `w`: an instruction with opcode `op` and without an extension word
(R340, R366, R369, R370). -/
def atWord (s : State) (e c op : Nat) (w : Word) : Bool :=
  runningOn s e == some c && sliceLeft s e (op == 0x26) && decide (fetchWords s c (s.ctx c).pc 1 = .ok [w]) && opOf w == op && !bitAt w 16

/-- The state in which an instruction with opcode `op` of context `c` has its effect: it has been fetched and counted (R340, R367). -/
def begun (e c op : Nat) (s : State) : State := countInstr e (op == 0x26) (touchLines (s.ctx c).pc 1 s)

/-- As `atWord`, for an instruction `w` with extension word `x` (R369). -/
def atWords (s : State) (e c op : Nat) (w x : Word) : Bool :=
  runningOn s e == some c && sliceLeft s e (op == 0x26) && decide (fetchWords s c (s.ctx c).pc 1 = .ok [w]) && opOf w == op && bitAt w 16
    && decide (fetchWords (begun e c op s) c (((s.ctx c).pc + 4) % 2 ^ 32) 1 = .ok [x])

/-- As `atWord`, for a word with X set: with opcodes that take no extension word no valid encoding (R370). -/
def atExt (s : State) (e c op : Nat) (w : Word) : Bool :=
  runningOn s e == some c && sliceLeft s e (op == 0x26) && decide (fetchWords s c (s.ctx c).pc 1 = .ok [w]) && opOf w == op && bitAt w 16

/-- Context `c` after a data instruction with result `r` (R371): the flags of `r` with carry `cf` and overflow `vf`, and execution at `pc`. -/
def ctxAfter (s : State) (c pc : Nat) (r : Word) (cf vf : Bool) : CtxSt :=
  { s.ctx c with pc := pc, zf := r == 0, nf := r.msb, cf := cf, vf := vf }

/-- What the send of message `m` by instruction `h` of context `c` to CAN port `p` leaves (R351, R381, R382): one more entry at the end of the port's queue, the
frame with the sequence number in it; execution at `pc`, the retry point here unless a resynchronisation runs, and under WAITTX the wait for that entry. -/
def sentOn (s t : State) (c p pc : Nat) (h : HWord) (m : Msg) : Bool :=
  (t.can p).txq == (s.can p).txq ++ [{
    id := (s.can p).nextId, src := .hoist c, prio := h.k % 256, tag := 0x8000 + c, report := h.d / 4 % 2 == 1,
    frame := { m.frame with data := (withSeq c (h.d % 2 == 1) m.frame.data s).1 } }]
  && (t.ctx c).pc == pc
  && (t.ctx c).retryPt == (if (s.ctx c).inResync then (s.ctx c).retryPt else (s.ctx c).pc)
  && (t.ctx c).wait == (if h.d / 2 % 2 = 1 then Wait.txDone (s.can p).nextId else (s.ctx c).wait)
  && t.get (.CTX_STAT_STATE c) == (if h.d / 2 % 2 = 1 then stWaiting else stRunning)

/-- As `begun`, with the extension word fetched. -/
def begunX (e c op : Nat) (s : State) : State := touchLines (((s.ctx c).pc + 4) % 2 ^ 32) 1 (begun e c op s)

/-- The row of the table that a frame on S0 is, by its OP (R404): 1 READ, 2 WRITE, 3 MODE, all others with NOP. -/
def s0Row (cmd addr : Word) (data : List Word) (crc : Word) (late : List Nat) (extra : Bool) : Instr :=
  match bits cmd 31 28 with
  | 1 => .s0Read cmd addr data crc late extra
  | 2 => .s0Write cmd addr data crc late extra
  | 3 => .s0Mode cmd addr (data.getD 0 0) crc late extra
  | _ => .s0Nop cmd addr data crc late extra

/-- The counted words of a frame all arrive, at a module that serves S0 (R404, R507). -/
def s0Arrives (s : State) (cmd : Word) (data : List Word) : Bool :=
  data.length == dataLen (s0Fall s).s0.quad cmd && s0Serves (s0Fall s)

/-- A frame is complete: its CRC word, where it announces one, matches (R405, R406). -/
def s0Complete (s : State) (cmd addr : Word) (data : List Word) (crc : Word) : Bool :=
  s0Arrives s cmd data && (!bitAt cmd 17 || bits crc 15 0 == crc16 (cmd :: addr :: data))

/-- A complete frame outside a switchover that no test refuses as a whole (R407, R509). -/
def s0Accepted (s : State) (cmd addr : Word) (data : List Word) (crc : Word) : Bool :=
  s0Complete s cmd addr data crc && !s.is .SV_STAT_SWITCHING && !badCmd cmd crc data && !badAddr cmd addr

/-- A frame has carried what it has room for of the pending reply, is numbered and named, and clock edges past its end are counted (R409 to R415). -/
def s0Begun (cmd : Word) (late : List Nat) (extra : Bool) (s : State) : State :=
  let q := (s0Fall s).s0.quad
  let p := carryReply late (fun w => if q then w else min (frameLen q cmd) w) (s0Fall s)
  let s1 := s0Record (bits cmd 15 8) p.2.1 p.2.2 p.1
  if extra then (s1.inc .SP0_CNT2_OVCLK).modS0 (fun h => { h with overclock := true }) else s1

/-- The window buffer holds, or is being filled with, the words that a READ of the window names (R414). -/
def winKept (s : State) (cmd addr : Word) : Bool :=
  match s.s0.buf with
  | some b => decide (b.addr = addr.toNat - winBase) && decide (b.cnt = bits cmd 27 20) && b.inc == bitAt cmd 16
  | none => false

/-- The rows of the ring's frames that a module handles by their TYPE alone (R462), with a frame `f` that came in at port `x`. -/
def ringRows (x : Fin 2) (f : RFrame) (frac : Byte) (delay : BitVec 32) : List Instr :=
  [.raReq x f, .raRsp x f, .ringTimeFrame x f frac delay, .alarm x f, .enum x f, .roster x f, .enumDone x f, .reroute x f, .remeasure x f]

/-- The TYPE of the frames of those rows (R462). -/
def ringType (c : Instr) : Nat :=
  match c with
  | .raReq .. => 1
  | .raRsp .. => 2
  | .ringTimeFrame .. => 3
  | .alarm .. => 7
  | .enum .. => 8
  | .roster .. => 9
  | .enumDone .. => 10
  | .reroute .. => 11
  | _ => 14

/-- A sound frame of type `ty` arrives at a port that carries frames (R458, R461, R462). -/
def ringGets (s : State) (x : Fin 2) (f : RFrame) (ty : Nat) : Bool := carries s x && rframeOk f && f.ty.toNat == ty

/-- The state in which a RETRAIN that the head gives is armed for tick `k` (R456). -/
def retrainArmed (k : Nat) (s : State) : State := (ringStart s).modCsn (fun c => { c with retrainAt := some k })

/-- A link that goes down begins step 1, counted, and marked for R460 where the module has been enumerated (R458). -/
def linkLost (x : Nat) (cv : Bool) (s : State) : State :=
  let s1 := ((ringStart s).inc (.CSN_LK_ERR_DOWNS x)).when cv (·.inc (.CSN_LK_ERR_CV x))
  (trainLink x s1).modLink x (fun l => { l with cap := 0, failed := l.failed || decide (csEnum ≤ s.get .CSN_STAT_STATE), stray := false })

/-- A try of link `x`'s present step has failed, and the next one begins (R451). -/
def tryLost (x : Nat) (s : State) : State :=
  ((ringStart s).inc (.CSN_LK_FAIL_TRIES x)).modLink x (fun l => { l with tries := (s.link x).tries + 1, at_ := clk s })

/-- The row of a request for state `q` of `MOD_POWER` (R534): 1 RUN, 2 LEAN, 3 DOZE, 4 SLEEP. -/
def powerRow (r : Req) (q : Fin 5) : Instr :=
  match q with
  | 2 => .powerReqLean r
  | 3 => .powerReqDoze r
  | 4 => .powerReqSleep r
  | _ => .powerReqRun r

/-- A request at `MOD_POWER` that is served (R534, R548): `S0_RO` alone keeps REQ from being written. A new request ends the wait for IDLE_SLEEP (R536). -/
def powerAsk (s : State) (r : Req) (q : Fin 5) : Bool := served s r Reg.MOD_POWER && !s0ReadOnly s r && q != 0
def powerHeard (s : State) : State := s.modPw (fun w => { w with woken := false })

/-- A request at `MOD_POWER` is acted on at once (R534): the module has started, is not asleep, and no role changes. -/
def powerNow (s : State) : Bool := decide (1 ≤ s.pw.power) && decide (s.pw.power ≤ 4) && !roleChanging s

/-- A register of the supervision block (R524 to R529). -/
def svReg (a : Nat) : Bool := decide (0x1000 ≤ a) && decide (a < 0x2000)

/-- What stands for domain `d`, of two values for A and B. -/
def byDom {α : Type} (d : Dom) (x y : α) : α := match d with | .a => x | .b => y

/-- Whether the logic feed of domain `d` is present, and the state without it. -/
def feedOf (s : State) (d : Dom) : Bool := match d with | .a => s.sv.feedA | .b => s.sv.feedB
def feedLost (d : Dom) (s : State) : State := s.modSv (fun v => match d with | .a => { v with feedA := false } | .b => { v with feedB := false })

/-- Whether `t`, the time of the arbiter's last restart or of an automatic rejoin, lies within 24 hours (R496, R504). -/
def within24h (s : State) (t : Option Nat) : Bool := match t with | some x => decide (clk s < x + tick24h) | none => false

end Sys2Proof.Machine
end

