-- ==== Sys2Proof/Certificates/Slice0/Obligations.lean ====
section
/-! DEFINITION. The statements about the module, from the numbered rules of the spec: the step and the reset, invariants and frames over every command, and
for each family of commands what each command does, as the next state that it answers. -/

section

open Sys2Proof Sys2Proof.Machine

/-- The command at the front of the queue runs with the queue's rest (the block's form of a step). -/
def Obligations.StepRunsFrontCommand : Prop :=
  ∀ (c : Instr) (rest : List Instr) (s : State), s.pending = c :: rest → step s = exec c { s with pending := rest }

/-- With no command waiting one edge of the 49.152 MHz clock passes while the module has power, and nothing happens without power: the model's choice (assumption
log 2). The edge is that of R262: the accumulator advances by its increment, modulo 2^96; a dip bank whose latch tick that reaches fixes its items (R218). -/
def Obligations.EmptyQueueTicksTheClock : Prop :=
  (∀ s : State, s.pending = [] → s.pw.on = false → step s = .next s) ∧
  (∀ s u : State, s.pending = [] → s.pw.on = true →
    u = { s with tu := { s.tu with acc := (s.tu.acc + rateInc (rateOf s)) % 2 ^ 96, edges := s.tu.edges + 1 } } →
    step s = .next (dipLatch 1 (dipLatch 0 u)) ∧
    (latchDue u 0 = false → latchDue u 1 = false → step s = .next u))

/-- Right after reset every register, hoist memory among them, reads as unlisted (`resetWord`, the register tables' reset values), the other memories are
blank, nothing is powered and no command waits. The blank memories are the model's choice (assumption log 11). -/
def Obligations.ResetIsTheRegisterTables : Prop :=
  (∀ a, rd State.reset a = resetWord a) ∧ State.reset.regs = [] ∧ State.reset.qmem = [] ∧ State.reset.flash = [] ∧ State.reset.otp = [] ∧
    rd State.reset Reg.MOD_CFG_LOCK = 0 ∧ rd State.reset Reg.SV_JSEQ = 0 ∧ rd State.reset Reg.MOD_IRQ = 0 ∧ rd State.reset Reg.MOD_IRQ_EN = 0 ∧
    State.reset.pw.on = false ∧ State.reset.sv.roleA = .absent ∧ State.reset.sv.roleB = .absent ∧ State.reset.sv.tkoFrom = none ∧
    State.reset.pending = []

/-- No command touches the queue of commands: it holds the queue's rest afterwards. -/
def Obligations.CommandsLeaveTheQueue : Prop :=
  ∀ (c : Instr) (s t : State), exec c s = .next t → t.pending = s.pending

/-- Every command has a next state: the module reports faults in its state, and nothing stops it. -/
def Obligations.EveryCommandHasANextState : Prop :=
  ∀ (c : Instr) (s : State), ∃ t, exec c s = .next t

/-- The canonical form of every memory is kept by every step: equal contents stay equal data. -/
def Obligations.StepKeepsMemoriesCanonical : Prop :=
  ∀ s t : State, s.memWf = true → step s = .next t → t.memWf = true

/-- At most one domain is ACTIVE, whatever the commands do (R492, R505, R509). -/
def Obligations.StepKeepsOneActiveDomain : Prop :=
  ∀ s t : State, s.rolesOk → step s = .next t → t.rolesOk

/-- OTP is programmed once: a bit that is set stays set through every step (R56). -/
def Obligations.StepNeverClearsOtpBits : Prop :=
  ∀ (s t : State) (a : Nat), step s = .next t → otpByte s a &&& otpByte t a = otpByte s a

/-- The invariants of StepKeepsMemoriesCanonical and of StepKeepsOneActiveDomain hold after reset, and no domain is ACTIVE there (R492). -/
def Obligations.ResetMeetsTheInvariants : Prop :=
  State.reset.memWf = true ∧ State.reset.rolesOk ∧ State.reset.sv.roleA ≠ .active ∧ State.reset.sv.roleB ≠ .active

/-- OTP changes only by programming (R56, R58); flash only by programs and erases that run on S1 (R422, R424, R256), or that a reset cuts short; queue memory
only by commands that write entries (R238), lose a word (R513) or take a committed copy (R505). `effects` lists which commands these are. -/
def Obligations.StoredBytesChangeOnlyWhereNamed : Prop :=
  (∀ (c : Instr) (s t : State) (a : Nat), (effects c).otp = false → exec c s = .next t → otpByte t a = otpByte s a) ∧
  (∀ (c : Instr) (s t : State) (cs a : Nat), (effects c).flash = false → exec c s = .next t → flashByte t cs a = flashByte s cs a) ∧
  (∀ (c : Instr) (s t : State) (a : Nat), (effects c).qmem = false → exec c s = .next t → kget 0 t.qmem a = kget 0 s.qmem a)

/-- Roles change only by verdicts, takeovers, switchovers, rejoins, sleep, the start and resets (R492, R493, R503, R505, R509, R533), the power state only by
requests, wakes, the start and resets (R530 to R538). -/
def Obligations.RolesAndPowerChangeOnlyWhereNamed : Prop :=
  (∀ (c : Instr) (s t : State), (effects c).roles = false → exec c s = .next t →
    t.sv.roleA = s.sv.roleA ∧ t.sv.roleB = s.sv.roleB ∧ t.sv.tkoFrom = s.sv.tkoFrom ∧ t.sv.ready = s.sv.ready) ∧
  (∀ (c : Instr) (s t : State), (effects c).power = false → exec c s = .next t → t.pw.on = s.pw.on ∧ t.pw.power = s.pw.power)

/-- REGISTER_WRITE and HOIST_MEMORY_WRITE (R4, R368, R582) of registers that do no more than hold what is written, and MOD_IRQ_CLEAR (R215). What a
write does to the other registers stands with their families. A cleared alarm can be raised anew (R470): `alSeen`. -/
def Obligations.RegisterWritesAreStored : Prop :=
  (∀ (s : State) (r : Req) (w : Word), Admitted s r Reg.MOD_IRQ_EN Msk.MOD_IRQ_EN → exec (.registerWrite r (wd Reg.MOD_IRQ_EN) w) s = .next (wr
    Reg.MOD_IRQ_EN (storedWord Msk.MOD_IRQ_EN (rd s Reg.MOD_IRQ_EN) w) s)) ∧
  (∀ (s : State) (r : Req) (w : Word), Admitted s r Reg.EV_CFG Msk.EV_CFG → exec (.registerWrite r (wd Reg.EV_CFG) w) s = .next (wr Reg.EV_CFG
    (storedWord Msk.EV_CFG (rd s Reg.EV_CFG) w) s)) ∧
  (∀ (s : State) (r : Req) (w : Word), Admitted s r Reg.SV_BURGEE Msk.SV_BURGEE → exec (.registerWrite r (wd Reg.SV_BURGEE) w) s = .next (wr
    Reg.SV_BURGEE (storedWord Msk.SV_BURGEE (rd s Reg.SV_BURGEE) w) s)) ∧
  (∀ (s : State) (r : Req) (a w : Word), a.toNat % 4 = 0 → isHoistMem a.toNat = true → Admitted s r a.toNat hoistMask → exec (.registerWrite r a w) s =
    .next (wr a.toNat w s)) ∧
  (∀ (s : State) (r : Req) (a w : Word), a.toNat % 4 ≠ 0 ∨ (served s r a.toNat = false ∧ a.toNat < 0x400000) → exec (.registerWrite r a w) s = .next s) ∧
  (∀ (s : State) (r : Req) (i : BitVec 16) (w : Word), Admitted s r (0x80000 + 4 * i.toNat) hoistMask → exec (.hoistMemoryWrite r i w) s = .next (wr
    (0x80000 + 4 * i.toNat) w s)) ∧
  (∀ (s : State) (r : Req) (i : BitVec 16) (w : Word), served s r (0x80000 + 4 * i.toNat) = false → exec (.hoistMemoryWrite r i w) s = .next s) ∧
  (∀ (s : State) (r : Req) (i : BitVec 16) (w : Word), served s r (0x80000 + 4 * i.toNat) = true → s0ReadOnly s r = true → exec (.hoistMemoryWrite r i
    w) s = .next (s.inc .MOD_CFG_LOCK_DENY_CNT)) ∧
  (∀ (s : State) (r : Req) (i : BitVec 16) (w : Word), served s r (0x80000 + 4 * i.toNat) = true → s0ReadOnly s r = false → s.is .MOD_CFG_LOCK_CFG =
    true → exec (.hoistMemoryWrite r i w) s = .next ((if rd s (0x80000 + 4 * i.toNat) = w then s else s.inc .MOD_CFG_LOCK_DENY_CNT))) ∧
  (∀ (s : State) (r : Req) (w : Word), served s r Reg.MOD_IRQ = true → ∃ t, exec (.modIrqClear r w) s = .next t ∧ (List.range 32).all (fun k => bits (rd
    t Reg.MOD_IRQ) k k == (if Msk.MOD_IRQ.w1c.testBit k && w.getLsbD k then 0 else bits (rd s Reg.MOD_IRQ) k k)) = true ∧ t.csn.alSeen = s.csn.alSeen &&&
    ~~~ w ∧ t = { s with regs := t.regs, csn := t.csn } ∧ ∀ a, a ≠ Reg.MOD_IRQ → a ≠ Reg.MOD_CFG_LOCK → rd t a = rd s a) ∧
  (∀ (s : State) (r : Req) (w : Word), served s r Reg.MOD_IRQ = false → exec (.modIrqClear r w) s = .next s)

/-- Under S0_RO a write of S0 is refused whatever its values, and counts once (R48, R582); fields that S0_RO leaves writable are a W1C field and the
watchdog's service. -/
def Obligations.ReadOnlyHostPortRefusesWrites : Prop :=
  (∀ (s : State) (a w : Word), a.toNat % 4 = 0 → a.toNat < 0x800000 → ¬ (0x32000 ≤ a.toNat ∧ a.toNat < 0x32100) → a.toNat ≠ Reg.MOD_WDOG → served s .s0
    a.toNat = true → s.is .MOD_CFG_LOCK_S0_RO = true → (busMask a.toNat).w1c = 0 → (busMask a.toNat).rwl ||| (busMask a.toNat).rw ||| (busMask a.toNat).wo
    ≠ 0 → exec (.registerWrite .s0 a w) s = .next (s.inc .MOD_CFG_LOCK_DENY_CNT))

/-- Under CFG a write that would change an RWL field is refused and counted, and the field keeps its value (R48, R582). -/
def Obligations.ConfigurationLockKeepsFields : Prop :=
  (∀ (s : State) (r : Req) (w : Word), served s r Reg.EV_CFG = true → s0ReadOnly s r = false → s.is .MOD_CFG_LOCK_CFG = true → exec (.registerWrite r
    (wd Reg.EV_CFG) w) s = .next ((if rd s Reg.EV_CFG &&& wd (maskAt Reg.EV_CFG).rwl = w &&& wd (maskAt Reg.EV_CFG).rwl then s else s.inc
    .MOD_CFG_LOCK_DENY_CNT)))

/-- Wide values read as a whole (R22 to R24): the low word latches all words, the higher words come from the latch of this requester, and a higher
word without it is the live one and is counted. Which reads cross islands is a reading of the spec (assumption log 76); the latency of a crossing is a
free value of 1 to 40 cycles (R21). -/
def Obligations.WideValuesReadWhole : Prop :=
  (∀ (s : State) (r : Req) (a : Word) (b n : Nat), a.toNat % 4 = 0 → wideOf a.toNat = some (b, n) → readServed s r = true → a.toNat = b → 0 < n → exec
    (.wideReadLow r a) s = .next
    ({ noteRead r b { s with rsh := kset ⟨0, []⟩ s.rsh (reqIx r) ⟨b, (List.range n).map (fun i => liveWord s r (b + 4 * i))⟩ } with rdata := liveWord s r b })) ∧
  (∀ (s : State) (r : Req) (a : Word) (b n : Nat), a.toNat % 4 = 0 → wideOf a.toNat = some (b, n) → readServed s r = true → a.toNat ≠ b → (kget ⟨0, []⟩
    s.rsh (reqIx r)).addr = b → exec (.wideReadHigh r a) s = .next ({ s with rdata := (kget ⟨0, []⟩ s.rsh (reqIx r)).words.getD ((a.toNat - b) / 4) 0 })) ∧
  (∀ (s : State) (r : Req) (a : Word) (b n : Nat), a.toNat % 4 = 0 → wideOf a.toNat = some (b, n) → readServed s r = true → a.toNat ≠ b → (kget ⟨0, []⟩
    s.rsh (reqIx r)).addr ≠ b → exec (.wideReadHigh r a) s = .next
    ({ noteRead r a.toNat (s.inc .MOD_XREAD_MISS_CNT) with rdata := liveWord s r a.toNat })) ∧
  (∀ (s : State) (r : Req) (a : Word) (b n : Nat), a.toNat % 4 = 0 → wideOf a.toNat = some (b, n) → readServed s r = true → a.toNat = b → 0 < n →
    crossesIsland r b = true → ∃ t, exec (.wideReadLow r a) s = .next t ∧ max 1 (s.get .MOD_XREAD_MAX_LAT) ≤ t.get .MOD_XREAD_MAX_LAT ∧ t.get
    .MOD_XREAD_MAX_LAT ≤ max 40 (s.get .MOD_XREAD_MAX_LAT) ∧ t = { s with regs := t.regs, rsh := t.rsh, rdata := t.rdata, free := t.free } ∧ ∀ a, a ≠
    Reg.MOD_XREAD → rd t a = rd s a) ∧
  (∀ (s : State) (r : Req) (a : Word), a.toNat % 4 ≠ 0 ∨ wideLow a.toNat = false ∨ readServed s r = false → exec (.wideReadLow r a) s = .next s) ∧
  (∀ (s : State) (r : Req) (a : Word), a.toNat % 4 ≠ 0 ∨ wideOf a.toNat = none ∨ wideLow a.toNat = true ∨ readServed s r = false → exec (.wideReadHigh r
    a) s = .next s)

/-- Wide values are written as a whole (R25): MOD_DIP_TGT, whose commit only stores; TU_SET, the schedules and the CV units stand with their families.
-/
def Obligations.WideValuesWriteWhole : Prop :=
  (∀ (s : State) (r : Req) (w : Word), Admitted s r (Reg.MOD_DIP_TGT 0) (maskAt (Reg.MOD_DIP_TGT 0)) → exec (.wideWriteLower r (wd (Reg.MOD_DIP_TGT 0))
    w) s = .next (shadowPut r (Reg.MOD_DIP_TGT 0) (Reg.MOD_DIP_TGT 0) w s)) ∧
  (∀ (s : State) (r : Req) (w : Word), Admitted s r (Reg.MOD_DIP_TGT 0) (maskAt (Reg.MOD_DIP_TGT 0)) → ∃ t, exec (.wideWriteLower r (wd (Reg.MOD_DIP_TGT
    0)) w) s = .next t ∧ shadowWord t r (Reg.MOD_DIP_TGT 0) (Reg.MOD_DIP_TGT 0) = w ∧ t = { s with wsh := t.wsh }) ∧
  (∀ (s : State) (r : Req) (w : Word), Admitted s r (Reg.MOD_DIP_TGT 1) (maskAt (Reg.MOD_DIP_TGT 1)) → ∃ t, exec (.wideWriteCommit r (wd
    (Reg.MOD_DIP_TGT 1)) w) s = .next t ∧ rd t (Reg.MOD_DIP_TGT 1) = w ∧ rd t (Reg.MOD_DIP_TGT 0) = shadowWord s r (Reg.MOD_DIP_TGT 0) (Reg.MOD_DIP_TGT 0)
    ∧ t.wshOf (reqIx r) = ⟨0, []⟩ ∧ t = { s with regs := t.regs, wsh := t.wsh } ∧ ∀ a, a ≠ Reg.MOD_DIP_TGT 0 → a ≠ Reg.MOD_DIP_TGT 1 → rd t a = rd s a) ∧
  (∀ (s : State) (r : Req) (a : Word) (w : Word), a.toNat % 4 ≠ 0 ∨ wideOf a.toNat = none ∨ wideTop a.toNat = true ∨ served s r a.toNat = false → exec
    (.wideWriteLower r a w) s = .next s) ∧
  (∀ (s : State) (r : Req) (a : Word) (w : Word), a.toNat % 4 ≠ 0 ∨ wideTop a.toNat = false ∨ served s r a.toNat = false → exec (.wideWriteCommit r a w)
    s = .next s)

/-- The start from flash: discovery, both domains' reports and their comparison (R52 to R54, R419). A report holds the domain's own copy of the image
that it selected (R46). -/
def Obligations.ImageStartReports : Prop :=
  (∀ (s : State) (x y : Bool) (d e f h : Word), s.get .BT_STAT_STATE = 0 → s.bt.sfdp = false → s.get .MOD_START_STEP = 2 → ∃ t, exec (.sfdpDiscovery x d
    e y f h) s = .next t ∧ t.bt = { s.bt with sfdp := true } ∧ t.get .MOD_START_STEP = 3 ∧ t.get .MOD_START_FAIL = (if x then s.get .MOD_START_FAIL else
    max 3 (s.get .MOD_START_FAIL)) ∧ t.get (.SP1_DISC_VALID 0) = b2n x ∧ t.get (.SP1_DISC_VALID 1) = b2n y ∧ t.get .SP1_STAT_CS1_ABSENT = b2n (!y) ∧ t =
    { s with regs := t.regs, bt := t.bt } ∧ ∀ a, a ≠ Reg.SP1_DISC 0 → a ≠ Reg.SP1_DISC 1 → a ≠ Reg.SP1_ERASE 0 → a ≠ Reg.SP1_ERASE 1 → a ≠ Reg.SP1_STAT →
    a ≠ Reg.MOD_START → rd t a = rd s a) ∧
  (∀ (s : State) (x y : Bool) (d e f h : Word), s.get .BT_STAT_STATE ≠ 0 ∨ s.bt.sfdp = true ∨ s.get .MOD_START_STEP ≠ 2 → exec (.sfdpDiscovery x d e y f
    h) s = .next s) ∧
  (∀ (s : State) (d : Dom) (e f : Fin 4), s.bt.sfdp = true → s.get .BT_STAT_STATE = 0 → roleOf s d = .standby → repOf s d = none → s.bt.apply = none → ∃
    t, exec (.imageLoad d e f) s = .next t ∧ repOf t d = some (slotSelect s (fun x => if x = 0 then e else f)) ∧ repOf t (otherDom d) = repOf s (otherDom
    d) ∧ t = { s with bt := t.bt }) ∧
  (∀ (s : State) (d : Dom) (e f : Fin 4), s.bt.sfdp = false ∨ s.get .BT_STAT_STATE ≠ 0 ∨ roleOf s d ≠ .standby ∨ repOf s d ≠ none ∨ s.bt.apply ≠ none →
    exec (.imageLoad d e f) s = .next s) ∧
  (∀ (s : State) (x y : BootRep) (k : Nat), s.get .BT_STAT_STATE = 0 → s.bt.apply = none → repHere s .a = some x → repHere s .b = some y → x.slot = some
    k → y.slot = some k → x.digest = y.digest → exec .imageReportCompare s = .next (s.modBt (fun b => { b with apply := some k }))) ∧
  (∀ (s : State) (x y : BootRep), s.get .BT_STAT_STATE = 0 → s.bt.apply = none → repHere s .a = some x → repHere s .b = some y → x.slot = none → y.slot
    = none → x.digest = y.digest → exec .imageReportCompare s = .next (noImage (if bootDom s = .a then x else y) s)) ∧
  (∀ (s : State) (x y : BootRep), s.get .BT_STAT_STATE = 0 → s.bt.apply = none → repHere s .a = some x → repHere s .b = some y → x.slot ≠ y.slot ∨
    x.digest ≠ y.digest → s.bt.repeated = false → exec .imageReportCompare s = .next (s.modBt (fun b =>
    { b with repA := none, repB := none, repeated := true }))) ∧
  (∀ (s : State) (x y : BootRep), s.get .BT_STAT_STATE = 0 → s.bt.apply = none → repHere s .a = some x → repHere s .b = some y → x.slot = none → y.slot
    ≠ none → s.bt.repeated = true → exec .imageReportCompare s = .next (imageAgreed y (verdict .a true fcImage s))) ∧
  (∀ (s : State) (x y : BootRep), s.get .BT_STAT_STATE = 0 → s.bt.apply = none → repHere s .a = some x → repHere s .b = some y → x.slot ≠ none → y.slot
    = none → s.bt.repeated = true → exec .imageReportCompare s = .next (imageAgreed x (verdict .b true fcImage s))) ∧
  (∀ (s : State) (x y : BootRep), s.get .BT_STAT_STATE = 0 → s.bt.apply = none → repHere s .a = some x → repHere s .b = some y → x.slot ≠ none → y.slot
    ≠ none → x.slot ≠ y.slot ∨ x.digest ≠ y.digest → s.bt.repeated = true → exec .imageReportCompare s = .next ((byDom (bootDom s) (imageAgreed x (verdict
    .b true fcImage s)) (imageAgreed y (verdict .a true fcImage s))))) ∧
  (∀ (s : State) (x : BootRep), s.get .BT_STAT_STATE = 0 → s.bt.apply = none → repHere s .a = some x → roleOf s .b ≠ .standby → exec .imageReportCompare
    s = .next (imageAgreed x s)) ∧
  (∀ (s : State) (x : BootRep), s.get .BT_STAT_STATE = 0 → s.bt.apply = none → repHere s .b = some x → roleOf s .a ≠ .standby → exec .imageReportCompare
    s = .next (imageAgreed x s)) ∧
  (∀ (s : State) (x : BootRep), s.get .BT_STAT_STATE = 0 → s.bt.apply = none → repHere s .a = some x → roleOf s .b ≠ .standby → x.slot = none →
    noneActive s = true → ∃ t, exec .imageReportCompare s = .next t ∧ t.get .BT_STAT_STATE = 2 ∧ t.pw.power = 6 ∧ t.sv.anyActive = true ∧ t.get
    .MOD_START_FAIL = max 4 (s.get .MOD_START_FAIL)) ∧
  (∀ (s : State), s.get .BT_STAT_STATE ≠ 0 ∨ s.bt.apply ≠ none ∨ (roleOf s .a = .standby ∧ s.bt.repA = none) ∨ (roleOf s .b = .standby ∧ s.bt.repB =
    none) ∨ (roleOf s .a ≠ .standby ∧ roleOf s .b ≠ .standby) → exec .imageReportCompare s = .next s)

/-- Trust commands (R56 to R60). A report's TU_NOW is taken at the write of OP: the model's choice (assumption log 77). The random bytes of a
signature, and how many bits a failed command has programmed, are free values (assumption logs 4 and 78). -/
def Obligations.TrustCommands : Prop :=
  (∀ (s : State) (r : Req) (x : Fin 16), Admitted s r Reg.BT_CMD Msk.BT_CMD → s.is .BT_CMD_BUSY = false → x.val < 2 → attestOk s (argDom x) = true →
    exec (.attest r x) s = .next ((s.set1 .BT_CMD_BUSY).modBt (fun b => { b with cmd := some ⟨1, x, attestBody s (argDom x)⟩ }))) ∧
  (∀ (s : State) (r : Req) (x : Fin 16), Admitted s r Reg.BT_CMD Msk.BT_CMD → s.is .BT_CMD_BUSY = false → 2 ≤ x.val ∨ attestOk s (argDom x) = false →
    exec (.attest r x) s = .next (trustEnd 1 s)) ∧
  (∀ (s : State) (r : Req) (x : Fin 16), Admitted s r Reg.BT_CMD Msk.BT_CMD → s.is .BT_CMD_BUSY = false → s.is .MOD_CFG_LOCK_OTP = false → keyProgOk s x
    = true → exec (.keyProg r x) s = .next ((s.set1 .BT_CMD_BUSY).modBt (fun b => { b with cmd := some ⟨2, x, regBytes s (Reg.BT_KEYBUF 0) 8⟩ }))) ∧
  (∀ (s : State) (r : Req) (x : Fin 16), Admitted s r Reg.BT_CMD Msk.BT_CMD → s.is .BT_CMD_BUSY = false → s.is .MOD_CFG_LOCK_OTP = false → keyProgOk s x
    = false → exec (.keyProg r x) s = .next (trustEnd 1 s)) ∧
  (∀ (s : State) (r : Req) (x : Fin 16), Admitted s r Reg.BT_CMD Msk.BT_CMD → s.is .BT_CMD_BUSY = false → s.is .MOD_CFG_LOCK_OTP = false → keyRevokeOk s
    x = true → exec (.keyRevoke r x) s = .next ((s.set1 .BT_CMD_BUSY).modBt (fun b => { b with cmd := some ⟨3, x, []⟩ }))) ∧
  (∀ (s : State) (r : Req) (x : Fin 16), Admitted s r Reg.BT_CMD Msk.BT_CMD → s.is .BT_CMD_BUSY = false → s.is .MOD_CFG_LOCK_OTP = false → keyRevokeOk s
    x = false → exec (.keyRevoke r x) s = .next (trustEnd 1 s)) ∧
  (∀ (s : State) (r : Req), Admitted s r Reg.BT_CMD Msk.BT_CMD → s.is .BT_CMD_BUSY = false → s.is .MOD_CFG_LOCK_OTP = false → rollOk s = true → exec
    (.rollCommit r) s = .next ((s.set1 .BT_CMD_BUSY).modBt (fun b => { b with cmd := some ⟨4, s.get .BT_ROLL_IMG, []⟩ }))) ∧
  (∀ (s : State) (r : Req), Admitted s r Reg.BT_CMD Msk.BT_CMD → s.is .BT_CMD_BUSY = false → s.is .MOD_CFG_LOCK_OTP = false → rollOk s = false → exec
    (.rollCommit r) s = .next (trustEnd 1 s)) ∧
  (∀ (s : State) (r : Req) (x : Fin 16), Admitted s r Reg.BT_CMD Msk.BT_CMD → s.is .BT_CMD_BUSY = false → s.is .MOD_CFG_LOCK_OTP = true → exec (.keyProg
    r x) s = .next (trustEnd 2 s)) ∧
  (∀ (s : State) (r : Req) (x : Fin 16), Admitted s r Reg.BT_CMD Msk.BT_CMD → s.is .BT_CMD_BUSY = false → s.is .MOD_CFG_LOCK_OTP = true → exec
    (.keyRevoke r x) s = .next (trustEnd 2 s)) ∧
  (∀ (s : State) (r : Req), Admitted s r Reg.BT_CMD Msk.BT_CMD → s.is .BT_CMD_BUSY = false → s.is .MOD_CFG_LOCK_OTP = true → exec (.rollCommit r) s =
    .next (trustEnd 2 s)) ∧
  (∀ (s : State) (r : Req) (x : Fin 16), Admitted s r Reg.BT_CMD Msk.BT_CMD → s.is .BT_CMD_BUSY = true → exec (.attest r x) s = .next (s.set1
    .BT_CMD_IGNORED)) ∧
  (∀ (s : State) (r : Req) (x : Fin 16), Admitted s r Reg.BT_CMD Msk.BT_CMD → s.is .BT_CMD_BUSY = true → exec (.keyProg r x) s = .next (s.set1
    .BT_CMD_IGNORED)) ∧
  (∀ (s : State) (r : Req) (x : Fin 16), Admitted s r Reg.BT_CMD Msk.BT_CMD → s.is .BT_CMD_BUSY = true → exec (.keyRevoke r x) s = .next (s.set1
    .BT_CMD_IGNORED)) ∧
  (∀ (s : State) (r : Req), Admitted s r Reg.BT_CMD Msk.BT_CMD → s.is .BT_CMD_BUSY = true → exec (.rollCommit r) s = .next (s.set1 .BT_CMD_IGNORED)) ∧
  (∀ (s : State) (x : Nat) (l : List Byte), s.bt.cmd = some ⟨1, x, l⟩ → exec (.trustCmdDone true) s = .next ((attestSign (argDom x) l s).elim (trustEnd
    3 s) (fun g => trustEnd 0 { s.each (bytesWords 637 (l ++ g)).zipIdx (fun p s => wr (Reg.BT_ATT_BUF p.2) p.1 s) with free := s.free + 8 }))) ∧
  (∀ (s : State) (x : Nat) (l : List Byte), s.bt.cmd = some ⟨2, x, l⟩ → l.length = 32 → x < 2 → ∃ t, exec (.trustCmdDone true) s = .next t ∧ (List.range
    0x300).all (fun a => otpByte t a == (if 0x20 * x ≤ a ∧ a < 0x20 * x + 32 then otpByte s a ||| l.getD (a - 0x20 * x) 0 else otpByte s a)) = true ∧
    t.get .BT_CMD_RESULT = 0 ∧ t.get .BT_CMD_BUSY = 0 ∧ t.bt.cmd = none ∧ bits (rd t Reg.MOD_IRQ) irqBt irqBt = 1 ∧ t =
    { s with regs := t.regs, bt := t.bt, otp := t.otp } ∧ ∀ a, a ≠ Reg.BT_CMD → a ≠ Reg.MOD_IRQ → rd t a = rd s a) ∧
  (∀ (s : State) (x : Nat), s.bt.cmd = some ⟨3, x, []⟩ → x < 3 → ∃ t, exec (.trustCmdDone true) s = .next t ∧ (List.range 0x300).all (fun a => otpByte t
    a == (if a = 0x60 then otpByte s a ||| BitVec.ofNat 8 (2 ^ x) else otpByte s a)) = true ∧ t.get .BT_CMD_RESULT = 0 ∧ t.get .BT_CMD_BUSY = 0 ∧ t.bt.cmd
    = none ∧ bits (rd t Reg.MOD_IRQ) irqBt irqBt = 1 ∧ t = { s with regs := t.regs, bt := t.bt, otp := t.otp } ∧ ∀ a, a ≠ Reg.BT_CMD → a ≠ Reg.MOD_IRQ →
    rd t a = rd s a) ∧
  (∀ (s : State) (x : Nat), s.bt.cmd = some ⟨4, x, []⟩ → x ≤ 128 → ∃ t, exec (.trustCmdDone true) s = .next t ∧ (List.range 0x300).all (fun a => otpByte
    t a == (if 0x64 ≤ a ∧ a < 0x74 then otpByte s a ||| (leBytes 16 (2 ^ x - 1)).getD (a - 0x64) 0 else otpByte s a)) = true ∧ t.get .BT_CMD_RESULT = 0 ∧
    t.get .BT_CMD_BUSY = 0 ∧ t.bt.cmd = none ∧ bits (rd t Reg.MOD_IRQ) irqBt irqBt = 1 ∧ t = { s with regs := t.regs, bt := t.bt, otp := t.otp } ∧ ∀ a, a
    ≠ Reg.BT_CMD → a ≠ Reg.MOD_IRQ → rd t a = rd s a) ∧
  (∀ (s : State) (x : Nat) (l : List Byte), s.bt.cmd = some ⟨1, x, l⟩ → exec (.trustCmdDone false) s = .next (trustEnd 3 s)) ∧
  (∀ (s : State) (k : TrustCmd), s.bt.cmd = some k → k.op ≠ 1 → exec (.trustCmdDone false) s = .next (trustEnd 3 (trustPart k s))) ∧
  (∀ (s : State) (k : TrustCmd), s.bt.cmd = some k → k.op ≠ 1 → ∃ t, exec (.trustCmdDone false) s = .next t ∧ (List.range 0x300).all (fun a => otpByte t
    a &&& otpByte s a == otpByte s a) = true ∧ t.get .BT_CMD_RESULT = 3 ∧ t.get .BT_CMD_BUSY = 0 ∧ t.bt.cmd = none ∧ bits (rd t Reg.MOD_IRQ) irqBt irqBt =
    1 ∧ t = { s with regs := t.regs, bt := t.bt, otp := t.otp, free := t.free } ∧ ∀ a, a ≠ Reg.BT_CMD → a ≠ Reg.MOD_IRQ → rd t a = rd s a) ∧
  (∀ (s : State) (ok : Bool), s.bt.cmd = none → exec (.trustCmdDone ok) s = .next s)

/-- The inputs of a tile (R68, R70): a sample that agrees with an input's held level ends its run of differing samples; a differing sample of a run
that is not yet complete is counted in it; the sample that completes the run changes the level, with the stamp of the run's first sample, and counts
the edge. An input without supply is not sampled (R84). -/
def Obligations.DigitalInputCommands : Prop :=
  (∀ (s : State) (t : Fin 16) (raw : BitVec 8), (s.tile t).power = true → (∀ k : Fin 8, diagActive s (16 * t + k) dgNoSupply = true ∨ s.is
    (.CH_DI_STATE_LEVEL (16 * t + k)) = raw.toNat.testBit k) → ∃ t', exec (.diSample t raw) s = .next t' ∧ (∀ k : Fin 8, t'.is (.CH_DI_STATE_LEVEL (16 * t
    + k)) = s.is (.CH_DI_STATE_LEVEL (16 * t + k)) ∧ (diagActive s (16 * t + k) dgNoSupply = false → t'.is (.CH_DI_STATE_RAW (16 * t + k)) =
    raw.toNat.testBit k ∧ (t'.ch (16 * t + k)).run = 0)) ∧ t' = { s with regs := t'.regs, chans := t'.chans, ltrigs := t'.ltrigs } ∧ ∀ a, ¬ (a / 0x1000 =
    0x20 + t.val) → rd t' a = rd s a) ∧
  (∀ (s : State) (t : Fin 16) (raw : BitVec 8) (j : Fin 8), (s.tile t).power = true → (∀ k : Fin 8, k ≠ j → diagActive s (16 * t + k) dgNoSupply = true
    ∨ s.is (.CH_DI_STATE_LEVEL (16 * t + k)) = raw.toNat.testBit k) → diagActive s (16 * t + j) dgNoSupply = false → s.is (.CH_DI_STATE_LEVEL (16 * t +
    j)) = !raw.toNat.testBit j → (s.ch (16 * t + j)).run + 1 < debRun s (16 * t + j) → ∃ t', exec (.diSample t raw) s = .next t' ∧ t'.is
    (.CH_DI_STATE_LEVEL (16 * t + j)) = s.is (.CH_DI_STATE_LEVEL (16 * t + j)) ∧ t'.is (.CH_DI_STATE_RAW (16 * t + j)) = raw.toNat.testBit j ∧ (t'.ch (16
    * t + j)).run = (s.ch (16 * t + j)).run + 1 ∧ (t'.ch (16 * t + j)).first = (if (s.ch (16 * t + j)).run = 0 then now s else (s.ch (16 * t + j)).first)
    ∧ t' = { s with regs := t'.regs, chans := t'.chans, ltrigs := t'.ltrigs } ∧ ∀ a, ¬ (a / 0x1000 = 0x20 + t.val) → rd t' a = rd s a) ∧
  (∀ (s : State) (t : Fin 16) (up : Bool) (x : ChSt), (s.tile t).power = true → enabledCtxs s = [] → bankState s 0 ≠ 1 → bankState s 1 ≠ 1 → (∀ k : Fin
    8, diagActive s (16 * t + k) dgNoSupply = false ∧ s.is (.CH_DI_STATE_LEVEL (16 * t + k)) = (if k = 0 then !up else false) ∧ (s.ch (16 * t +
    k)).perEdge = none) → s.get (.CH_DI_EV_EDGE (16 * t)) = 0 → s.get (.CH_DI_CFG_PER_EDGE (16 * t)) = 0 → s.get (.CH_DI_CFG_CNT_EDGE (16 * t)) = 3 → s.ch
    (16 * t) = x → 0 < x.run → debRun s (16 * t) ≤ x.run + 1 → x.first < 2 ^ 64 → ∃ t', exec (.diSample t (if up then 1 else 0)) s = .next t' ∧ t'.is
    (.CH_DI_STATE_LEVEL (16 * t)) = up ∧ t'.get64 (Reg.CH_DI_TS (16 * t) 0) = x.first ∧ rd t' (Reg.CH_DI_EDGES (16 * t)) = rd s (Reg.CH_DI_EDGES (16 * t))
    + 1 ∧ (t'.ch (16 * t)).run = 0 ∧ t' = { s with regs := t'.regs, chans := t'.chans, ltrigs := t'.ltrigs, dips := t'.dips } ∧ ∀ a, ¬ (a / 0x1000 = 0x20
    + t.val) → rd t' a = rd s a) ∧
  (∀ (s : State) (r : Req) (n : Fin 256) (w : Word), isDI n = true → Admitted s r (Reg.CH_DI_EDGES n) Msk.CH_DI_EDGES → exec (.diEdgesPreset r n w) s =
    .next (wr (Reg.CH_DI_EDGES n) w s)) ∧
  (∀ (s : State) (r : Req) (n : Fin 256) (w : Word), isDI n = true → Admitted s r (Reg.CH_DI_EV n) Msk.CH_DI_EV → ∃ t, exec (.diEvWrite r n w) s = .next
    t ∧ rd t (Reg.CH_DI_EV n) = storedWord Msk.CH_DI_EV (rd s (Reg.CH_DI_EV n)) w ∧ t.ch n = { s.ch n with bucket := evCap t n, lastTs := now s } ∧ t =
    { s with regs := t.regs, chans := t.chans } ∧ ∀ a, a ≠ Reg.CH_DI_EV n → rd t a = rd s a)

/-- The outputs (R74 to R79, R82): a command switches an output that nothing keeps off, and through the lower member both members of a pair; a
shutdown keeps it off and locks it at the sixteenth in a row; a restart, 10 ms later at the soonest, gives it back; a clamp event counts its energy,
and above 150 mJ locks the output off. `doOn` says when an output conducts: its command or safe state asks for it and nothing prevents it. That a row
of shutdowns is broken by 1 s of conduction at its end, and that parts of a mJ are carried from event to event, rests on assumption log 80. -/
def Obligations.DigitalOutputCommands : Prop :=
  (∀ (s : State) (r : Req) (n : Fin 256) (w : Word), isDO n = true → paired s n = false → Admitted s r (Reg.CH_DO_CMD n) Msk.CH_DO_CMD → ∃ t, exec
    (.doCmdWrite r n w) s = .next t ∧ t.is (.CH_DO_CMD_ON n) = bitAt w 0 ∧ t.get (.CH_DO_SWCNT_CNT n) = (if bitAt w 0 = true ∧ s.is (.CH_DO_CMD_ON n) =
    false then min (s.get (.CH_DO_SWCNT_CNT n) + 1) 0xFFFFFFFF else s.get (.CH_DO_SWCNT_CNT n)) ∧ (t.ch n).lock75 = (bitAt w 0 && (s.ch n).lock75) ∧ t.is
    (.CH_DO_STATE_OUT n) = doOn t n ∧ t = { s with regs := t.regs, chans := t.chans } ∧ ∀ a, a ≠ Reg.CH_DO_CMD n → a ≠ Reg.CH_DO_SWCNT n → ¬ (outputReg n
    a = true) → ¬ (outputReg (partner n) a = true) → rd t a = rd s a) ∧
  (∀ (s : State) (r : Req) (n : Fin 256) (w : Word) (m : Nat), isDO n = true → paired s n = true → n.val % 2 = 0 → m = n.val ∨ m = n.val + 1 → Admitted
    s r (Reg.CH_DO_CMD n) Msk.CH_DO_CMD → ∃ t, exec (.doCmdWrite r n w) s = .next t ∧ t.is (.CH_DO_CMD_ON m) = bitAt w 0 ∧ t.get (.CH_DO_SWCNT_CNT m) =
    (if bitAt w 0 = true ∧ s.is (.CH_DO_CMD_ON m) = false then min (s.get (.CH_DO_SWCNT_CNT m) + 1) 0xFFFFFFFF else s.get (.CH_DO_SWCNT_CNT m)) ∧ (t.ch
    m).lock75 = (bitAt w 0 && (s.ch m).lock75) ∧ t.is (.CH_DO_STATE_OUT m) = doOn t m) ∧
  (∀ (s : State) (r : Req) (n : Fin 256) (w : Word), isDO n = true → paired s n = true → n.val % 2 = 1 → bitAt w 0 = s.is (.CH_DO_CMD_ON (n - 1)) →
    Admitted s r (Reg.CH_DO_CMD n) Msk.CH_DO_CMD → exec (.doCmdWrite r n w) s = .next s) ∧
  (∀ (s : State) (r : Req) (n : Fin 256) (w : Word), isDO n = true → paired s n = true → n.val % 2 = 1 → bitAt w 0 ≠ s.is (.CH_DO_CMD_ON (n - 1)) →
    Admitted s r (Reg.CH_DO_CMD n) Msk.CH_DO_CMD → ∃ t, exec (.doCmdWrite r n w) s = .next t ∧ t.get (.CH_DIAG_LATCHED n) = s.get (.CH_DIAG_LATCHED n) |||
    2 ^ dgPairConflict ∧ t = eventsFrom s t ∧ ∀ a, eventReg a = false → a ≠ Reg.CH_DIAG n → rd t a = rd s a) ∧
  (∀ (s : State) (n : Fin 256), isDO n = true → s.is (.CH_DO_STATE_OUT n) = true → ∃ t, exec (.thermalShutdown n) s = .next t ∧ t.is (.CH_DO_STATE_TSD
    n) = true ∧ t.is (.CH_DO_STATE_OUT n) = false ∧ (paired s n = true → t.is (.CH_DO_STATE_OUT (partner n)) = false) ∧ (t.ch n).tsdRow = (if (s.ch
    n).onSince + tickS ≤ clk s then 1 else (s.ch n).tsdRow + 1) ∧ (16 ≤ (t.ch n).tsdRow → (t.ch n).lock75 = true) ∧ t =
    { s with regs := t.regs, chans := t.chans } ∧ ∀ a, ¬ (outputReg n a = true) → ¬ (outputReg (partner n) a = true) → rd t a = rd s a) ∧
  (∀ (s : State) (n : Fin 256), isDO n = true → s.is (.CH_DO_STATE_TSD n) = true → (s.ch n).tsdAt + tick10Ms ≤ clk s → ∃ t, exec (.thermalRestart n) s =
    .next t ∧ t.is (.CH_DO_STATE_TSD n) = false ∧ t.is (.CH_DO_STATE_OUT n) = doOn t n ∧ t.is (.CH_DO_STATE_OUT (partner n)) = doOn t (partner n) ∧ t =
    { s with regs := t.regs, chans := t.chans } ∧ ∀ a, ¬ (outputReg n a = true) → ¬ (outputReg (partner n) a = true) → rd t a = rd s a) ∧
  (∀ (s : State) (n : Fin 256) (e : Nat), isDO n = true → s.is (.CH_DO_STATE_OUT n) = false → (s.tile (n / 16)).power = true → e ≤ 15000 → ∃ t, exec
    (.clampEventEnd n e) s = .next t ∧ t.get (.CH_DO_CLAMP_LAST_E n) = e ∧ t.get (.CH_DO_CLAMP_SUM_SUM n) = min (s.get (.CH_DO_CLAMP_SUM_SUM n) + ((s.ch
    n).clampRem + e) / 100) 0xFFFFFFFF ∧ t.ch n = { s.ch n with clampRem := ((s.ch n).clampRem + e) % 100 } ∧ t =
    { s with regs := t.regs, chans := t.chans } ∧ ∀ a, a ≠ Reg.CH_DO_CLAMP n → a ≠ Reg.CH_DO_CLAMP_SUM n → rd t a = rd s a) ∧
  (∀ (s : State) (n : Fin 256) (e : Nat), isDO n = true → s.is (.CH_DO_STATE_OUT n) = false → (s.tile (n / 16)).power = true → 15000 < e → ∃ t, exec
    (.clampEventEnd n e) s = .next t ∧ t.get (.CH_DO_CLAMP_LAST_E n) = min e 0xFFFF ∧ t.get (.CH_DO_CLAMP_SUM_SUM n) = min (s.get (.CH_DO_CLAMP_SUM_SUM n)
    + ((s.ch n).clampRem + e) / 100) 0xFFFFFFFF ∧ diagActive t n dgClamp = true ∧ diagLatched t n dgClamp = true ∧ t.is (.CH_DO_STATE_OUT n) = false ∧ t =
    { eventsFrom s t with chans := t.chans } ∧ ∀ a, eventReg a = false → a ≠ Reg.CH_DO_CLAMP n → a ≠ Reg.CH_DO_CLAMP_SUM n → ¬ (outputReg n a = true) → ¬
    (outputReg (partner n) a = true) → rd t a = rd s a) ∧
  (∀ (s : State) (n : Fin 256), isDO n = true → s.is (.CH_DO_STATE_OUT n) = true → s.is (.CH_DO_CFG_PWM_EN (govern s n)) = true → (s.ch n).onSince +
    s.get (.CH_DO_CFG_PULLIN (govern s n)) * tick10Ms ≤ clk s → exec (.pullinEnd n) s = .next (s.setCh n { s.ch n with pwm := true }))

/-- Diagnostics (R83, R84, R124): a detection sets the active bits of the conditions that it names and that the channel can detect, and latches those
that were not active; the end of a condition clears its active bit and leaves the latched one; a write clears the latched bits that it names. CLAMP
clears with its latched bit only, THERMAL of an output not while TSD is set, and in inject mode three conditions keep their state. -/
def Obligations.DiagnosticCommands : Prop :=
  (∀ (s : State) (n : Fin 256) (m : BitVec 12), isDI n = true → ∃ t, exec (.digitalDiagDetect n m) s = .next t ∧ (∀ b : Fin 12, diagActive t n b =
    (diagActive s n b || (m.getLsbD b && digDetectable s n b)) ∧ diagLatched t n b = (diagLatched s n b || (m.getLsbD b && digDetectable s n b &&
    !diagActive s n b))) ∧ t = eventsFrom s t ∧ ∀ a, eventReg a = false → a ≠ Reg.CH_DIAG n → rd t a = rd s a) ∧
  (∀ (s : State) (n : Fin 256) (m : BitVec 12), isDO n = true → ∃ t, exec (.digitalDiagDetect n m) s = .next t ∧ (∀ b : Fin 12, b.val ≠ dgOpenOn → b.val
    ≠ dgOpenOff → diagActive t n b = (diagActive s n b || (m.getLsbD b && digDetectable s n b))) ∧ (∀ b : Fin 12, diagLatched t n b = (diagLatched s n b
    || (m.getLsbD b && digDetectable s n b && !diagActive s n b))) ∧ t = { eventsFrom s t with chans := t.chans } ∧ ∀ a, eventReg a = false → ¬ (outputReg
    n a = true) → ¬ (outputReg (partner n) a = true) → rd t a = rd s a) ∧
  (∀ (s : State) (n : Fin 256) (b : Fin 12), isDI n = true → diagActive s n b = true → b.val ≠ dgClamp → ∃ t, exec (.digitalDiagClear n b) s = .next t ∧
    t.get (.CH_DIAG_ACTIVE n) = s.get (.CH_DIAG_ACTIVE n) &&& (0xFFF ^^^ 2 ^ b.val) ∧ t.get (.CH_DIAG_LATCHED n) = s.get (.CH_DIAG_LATCHED n) ∧ t =
    { s with regs := t.regs, chans := t.chans } ∧ ∀ a, a ≠ Reg.CH_DIAG n → rd t a = rd s a) ∧
  (∀ (s : State) (n : Fin 256) (b : Fin 12), isDO n = true → diagActive s n b = true → b.val ≠ dgClamp → (b.val = dgThermal → s.is (.CH_DO_STATE_TSD n)
    = false) → ∃ t, exec (.digitalDiagClear n b) s = .next t ∧ diagActive t n b = false ∧ t.get (.CH_DIAG_LATCHED n) = s.get (.CH_DIAG_LATCHED n) ∧ t.is
    (.CH_DO_STATE_OUT n) = doOn t n ∧ t = { s with regs := t.regs, chans := t.chans } ∧ ∀ a, ¬ (outputReg n a = true) → ¬ (outputReg (partner n) a = true)
    → rd t a = rd s a) ∧
  (∀ (s : State) (r : Req) (n : Fin 256) (w : Word), isDO n = false → Admitted s r (Reg.CH_DIAG n) Msk.CH_DIAG → exec (.chDiagClear r n w) s = .next
    (s.put (.CH_DIAG_LATCHED n) (s.get (.CH_DIAG_LATCHED n) &&& (0xFFF ^^^ bits w 27 16)))) ∧
  (∀ (s : State) (r : Req) (n : Fin 256) (w : Word), isDO n = true → Admitted s r (Reg.CH_DIAG n) Msk.CH_DIAG → ∃ t, exec (.chDiagClear r n w) s = .next
    t ∧ t.get (.CH_DIAG_LATCHED n) = s.get (.CH_DIAG_LATCHED n) &&& (0xFFF ^^^ bits w 27 16) ∧ diagActive t n dgClamp = (diagActive s n dgClamp && !bitAt
    w 23) ∧ t.is (.CH_DO_STATE_OUT n) = doOn t n ∧ t = { s with regs := t.regs, chans := t.chans } ∧ ∀ a, ¬ (outputReg n a = true) → ¬ (outputReg (partner
    n) a = true) → rd t a = rd s a) ∧
  (∀ (s : State) (n : Fin 256) (m : BitVec 12), isAN n = true → ∃ t, exec (.analogDiagDetect n m) s = .next t ∧ (∀ b : Fin 12, diagActive t n b =
    (diagActive s n b || (m.getLsbD b && anDetectable s n b)) ∧ diagLatched t n b = (diagLatched s n b || (m.getLsbD b && anDetectable s n b &&
    !diagActive s n b))) ∧ t = { eventsFrom s t with ca := t.ca, chains := t.chains } ∧ ∀ a, eventReg a = false → a ≠ Reg.CH_DIAG n → a ≠ Reg.CH_AN_STATE
    n → rd t a = rd s a) ∧
  (∀ (s : State) (n : Fin 256) (b : Fin 12), isAN n = true → diagActive s n b = true → (injecting s n = true → b.val ≠ dgWireBreak ∧ b.val ≠ dgShort ∧
    b.val ≠ dgOvervoltage) → ∃ t, exec (.analogDiagClear n b) s = .next t ∧ t.get (.CH_DIAG_ACTIVE n) = s.get (.CH_DIAG_ACTIVE n) &&& (0xFFF ^^^ 2 ^
    b.val) ∧ t.get (.CH_DIAG_LATCHED n) = s.get (.CH_DIAG_LATCHED n) ∧ t = { s with regs := t.regs, chains := t.chains } ∧ ∀ a, a ≠ Reg.CH_DIAG n → a ≠
    Reg.CH_AN_STATE n → rd t a = rd s a)

/-- The tile's own fallback (R87, R88, R498): without frames of its domain it enters the safe state, which shows ACTIVE; a frame of the obeyed epoch
ends the cause; a frame of a stale epoch is only counted. Epochs are compared modulo 2^16. -/
def Obligations.TileSafeStates : Prop :=
  (∀ (s : State) (t : Fin 16) (m : Fin 256), (s.tile t).power = true → (s.tile t).holdAt + holdMin s t ≤ clk s → isDO m = true → m.val / 16 = t.val →
    s.get (.CH_DO_CFG_SAFE (govern s m)) = 0 → ∃ t', exec (.tileHoldExpiry t) s = .next t' ∧ t'.is (.TILE_SAFE_HOLD t) = true ∧ t'.is (.TILE_SAFE_ACTIVE
    t) = true ∧ (t'.tile t).holdC = true ∧ t'.is (.CH_DO_STATE_OUT m) = false ∧ t' =
    { s with regs := t'.regs, chans := t'.chans, chains := t'.chains, tiles := t'.tiles } ∧ ∀ a, ¬ (tileSafeReg t a = true) → rd t' a = rd s a) ∧
  (∀ (s : State) (t : Fin 16) (d : Dom) (e : BitVec 16), (s.tile t).power = true → (s.tile t).epoch ≠ 0 → (s.tile t).epoch = e.toNat → (s.tile t).obey =
    some d → ∃ t', exec (.tileFrameReceive t d e) s = .next t' ∧ t'.is (.TILE_SAFE_ACTIVE t) = (s.is (.TILE_SAFE_WDOG t) || s.is (.TILE_SAFE_DOZE t) ||
    s.is (.TILE_SAFE_IMAGE t)) ∧ t'.tile t = { s.tile t with clk := some d, holdC := false, holdAt := clk s } ∧ t' =
    { s with regs := t'.regs, chans := t'.chans, chains := t'.chains, tiles := t'.tiles } ∧ ∀ a, ¬ (tileSafeReg t a = true) → rd t' a = rd s a) ∧
  (∀ (s : State) (t : Fin 16) (d : Dom) (e : BitVec 16), (s.tile t).power = true → e ≠ 0 → (s.tile t).epoch = 0 ∨ (1 ≤ (e.toNat + 65536 - (s.tile
    t).epoch) % 65536 ∧ (e.toNat + 65536 - (s.tile t).epoch) % 65536 ≤ 32767) → ∃ t', exec (.tileFrameReceive t d e) s = .next t' ∧ t'.is
    (.TILE_SAFE_ACTIVE t) = (s.is (.TILE_SAFE_WDOG t) || s.is (.TILE_SAFE_DOZE t) || s.is (.TILE_SAFE_IMAGE t)) ∧ t'.tile t =
    { s.tile t with epoch := e.toNat, obey := some d, clk := some d, holdC := false, holdAt := clk s } ∧ t' =
    { s with regs := t'.regs, chans := t'.chans, chains := t'.chains, tiles := t'.tiles } ∧ ∀ a, ¬ (tileSafeReg t a = true) → rd t' a = rd s a) ∧
  (∀ (s : State) (t : Fin 16) (d : Dom) (e : BitVec 16), (s.tile t).power = true → (s.tile t).epoch ≠ 0 → e = 0 ∨ 32767 < (e.toNat + 65536 - (s.tile
    t).epoch) % 65536 ∨ ((e.toNat + 65536 - (s.tile t).epoch) % 65536 = 0 ∧ (s.tile t).obey ≠ some d) → e.toNat ≠ (s.tile t).epoch ∨ (s.tile t).obey ≠
    some d → exec (.tileFrameReceive t d e) s = .next (s.inc (.TILE_FEED_STALE_CNT t))) ∧
  (∀ (s : State) (r : Req) (t : Fin 16) (w : Word), Admitted s r (Reg.TILE_SAFE t) Msk.TILE_SAFE → ∃ t', exec (.tileSafeWdogClear r t w) s = .next t' ∧
    t'.is (.TILE_SAFE_WDOG t) = (s.is (.TILE_SAFE_WDOG t) && !(bitAt w 1 && !s.is .MOD_WDOG_EXPIRED)) ∧ t'.is (.TILE_SAFE_HOLD t) = (s.is (.TILE_SAFE_HOLD
    t) && !bitAt w 0) ∧ t'.is (.TILE_SAFE_ACTIVE t) = tileCause t' t ∧ t' = { s with regs := t'.regs, chans := t'.chans, chains := t'.chains } ∧ ∀ a, ¬
    (tileSafeReg t a = true) → rd t' a = rd s a)

/-- The analog channels (R104 to R130): a current setting is stored and limited, trims and the test DAC take what is written, and the tile holds what
is sent to it (R115); loop power follows its hiccup, inject mode and modes change at the tile, where no SWEEP holds it (R123). -/
def Obligations.CurrentOutputCommands : Prop :=
  (∀ (s : State) (r : Req) (n : Fin 256) (w : Word), isAO n = true → Admitted s r (Reg.CH_AO_SET n) Msk.CH_AO_SET → exec (.aoSetWrite r n w) s = .next
    (((s.put (.CH_AO_SET_SET n) (min (bits w 15 0) 48000)).putB (.CH_AN_STATE_SET_CLAMP n) (decide (48000 < bits w 15 0))).setCh n
    { s.ch n with setSeen := true, tileSet := some (min (bits w 15 0) 48000), tileTrim := rd s (Reg.CH_AO_TRIM n) })) ∧
  (∀ (s : State) (r : Req) (n : Fin 256) (w : Word), isAO n = true → Admitted s r (Reg.CH_AO_TRIM n) Msk.CH_AO_TRIM → ∃ t, exec (.aoTrimWrite r n w) s =
    .next t ∧ rd t (Reg.CH_AO_TRIM n) = storedWord Msk.CH_AO_TRIM (rd s (Reg.CH_AO_TRIM n)) w ∧ t.ch n =
    { s.ch n with tileTrim := rd t (Reg.CH_AO_TRIM n), tileSet := if (s.ch n).setSeen then some (s.get (.CH_AO_SET_SET n)) else none } ∧ t =
    { s with regs := t.regs, chans := t.chans } ∧ ∀ a, a ≠ Reg.CH_AO_TRIM n → rd t a = rd s a) ∧
  (∀ (s : State) (n : Fin 256), isAN n = true → s.is (.CH_AN_STATE_LP_ON n) = true → ∃ t, exec (.lpHiccupOff n) s = .next t ∧ t.is
    (.CH_AN_STATE_LP_RETRY n) = true ∧ t.is (.CH_AN_STATE_LP_ON n) = false ∧ t = { s with regs := t.regs, chains := t.chains } ∧ ∀ a, a ≠ Reg.CH_AN_STATE
    n → rd t a = rd s a) ∧
  (∀ (s : State) (n : Fin 256), isAN n = true → s.is (.CH_AN_STATE_LP_RETRY n) = true → ∃ t, exec (.lpHiccupOn n) s = .next t ∧ t.is
    (.CH_AN_STATE_LP_RETRY n) = false ∧ t.is (.CH_AN_STATE_LP_ON n) = (modeOf s n == 4 && (s.tile (n / 16)).power && !diagActive s n dgThermal &&
    !diagActive s n dgNoSupply) ∧ t = { s with regs := t.regs } ∧ ∀ a, a ≠ Reg.CH_AN_STATE n → rd t a = rd s a) ∧
  (∀ (s : State) (r : Req) (n : Fin 256), isAN n = true → Admitted s r (Reg.CH_AN_INJ n) Msk.CH_AN_INJ → (s.tile (n / 16)).sweep = false → modeOf s n ≠
    5 → ∃ t, exec (.injectEnter r n) s = .next t ∧ t.is (.CH_AN_INJ_EN n) = true ∧ injecting t n = true ∧ modeOf t n = modeOf s n ∧ t =
    { s with regs := t.regs, chains := t.chains, dips := t.dips }) ∧
  (∀ (s : State) (r : Req) (n : Fin 256), isAN n = true → Admitted s r (Reg.CH_AN_INJ n) Msk.CH_AN_INJ → (s.tile (n / 16)).sweep = false → modeOf s n =
    5 → exec (.injectEnter r n) s = .next (s.set1 (.CH_AN_STATE_CFG_ADJ n))) ∧
  (∀ (s : State) (r : Req) (n : Fin 256), isAN n = true → Admitted s r (Reg.CH_AN_INJ n) Msk.CH_AN_INJ → (s.tile (n / 16)).sweep = false → ∃ t, exec
    (.injectExit r n) s = .next t ∧ t.is (.CH_AN_INJ_EN n) = false ∧ injecting t n = false ∧ modeOf t n = modeOf s n ∧ t =
    { s with regs := t.regs, chains := t.chains, dips := t.dips }) ∧
  (∀ (s : State) (r : Req) (n : Fin 256), isAN n = true → Admitted s r (Reg.CH_AN_INJ n) Msk.CH_AN_INJ → (s.tile (n / 16)).sweep = true → exec
    (.injectEnter r n) s = .next (s.set1 (.TILE_TDAC_DENIED (n / 16)))) ∧
  (∀ (s : State) (r : Req) (n : Fin 256), isAN n = true → Admitted s r (Reg.CH_AN_INJ n) Msk.CH_AN_INJ → (s.tile (n / 16)).sweep = true → exec
    (.injectExit r n) s = .next (s.set1 (.TILE_TDAC_DENIED (n / 16)))) ∧
  (∀ (s : State) (r : Req) (t : Fin 16) (w : Word), Admitted s r (Reg.TILE_TDAC t) Msk.TILE_TDAC → ∃ t', exec (.tdacWrite r t w) s = .next t' ∧ t'.get
    (.TILE_TDAC_CODE t) = (if (s.tile t).sweep then s.get (.TILE_TDAC_CODE t) else bits w 11 0) ∧ t'.is (.TILE_TDAC_DENIED t) = ((s.tile t).sweep || (s.is
    (.TILE_TDAC_DENIED t) && !bitAt w 16)) ∧ t' = { s with regs := t'.regs } ∧ ∀ a, a ≠ Reg.TILE_TDAC t → rd t' a = rd s a) ∧
  (∀ (s : State) (r : Req) (n : Fin 256) (w : Word), isAN n = true → Admitted s r (Reg.CH_AN_CFG n) Msk.CH_AN_CFG → modeUsed n (bits w 2 0) ≠ modeOf s n
    → ∃ t, exec (.modeChange r n w) s = .next t ∧ modeOf t n = modeUsed n (bits w 2 0) ∧ t.get (.CH_AN_CFG_MODE n) = modeUsed n (bits w 2 0) ∧ t.get
    (.CH_DIAG_ACTIVE n) = 0 ∧ t.get (.CH_DIAG_LATCHED n) = s.get (.CH_DIAG_LATCHED n) ∧ (modeOf t n = 5 → injecting t n = false) ∧ t =
    { s with regs := t.regs, chans := t.chans, chains := t.chains, dips := t.dips })

/-- R104: for every analog channel and every write of MODE that no lock touches. V10B is mode 0. -/
def Obligations.ReplacedModes : Prop :=
  (∀ (s : State) (r : Req) (n : Fin 256) (w : Word), isAN n = true → Admitted s r (Reg.CH_AN_CFG n) Msk.CH_AN_CFG → (bits w 2 0 = 5 ∧ n.val % 16 < 14) ∨
    6 ≤ bits w 2 0 → ∃ t, exec (.modeChange r n w) s = .next t ∧ t.get (.CH_AN_CFG_MODE n) = 0 ∧ modeOf t n = 0 ∧ anAdj t n = true)

/-- SYNC (R140 to R143): an enabled source in RUN or LEAN waits for the next modulator edge at least two periods away, any other request is ignored
and counted; at the edge the module records the sources that it merges. An edge on the land may also request a dip (R219), and does neither under PPS
(R276). -/
def Obligations.SyncCommands : Prop :=
  (∀ (s : State) (rising : Bool), rising = s.is .CA_CFG_LAND_EDGE → exec (.syncLandEdge rising) s = .next s) ∧
  (∀ (s : State) (rising : Bool), rising = !s.is .CA_CFG_LAND_EDGE → s.get .TU_SRC_SRC = 3 → ∃ t, exec (.syncLandEdge rising) s = .next t ∧ t.get
    .CA_SYNC_INFO_IGN_CNT = (if s.is .CA_CFG_SYNC_LAND_EN then min (s.get .CA_SYNC_INFO_IGN_CNT + 1) (FldRef.max .CA_SYNC_INFO_IGN_CNT) else s.get
    .CA_SYNC_INFO_IGN_CNT) ∧ t.get .EV_DIP_STAT_IGN_CNT = (if s.is .EV_DIP_CFG_LAND_EN then min (s.get .EV_DIP_STAT_IGN_CNT + 1) (FldRef.max
    .EV_DIP_STAT_IGN_CNT) else s.get .EV_DIP_STAT_IGN_CNT) ∧ t = { s with regs := t.regs } ∧ ∀ a, a ≠ Reg.CA_SYNC_INFO → a ≠ Reg.EV_DIP_STAT → rd t a = rd
    s a) ∧
  (∀ (s : State) (rising : Bool), acqRuns s = true → s.is .CA_CFG_SYNC_LAND_EN = true → s.is .EV_DIP_CFG_LAND_EN = false → s.get .TU_SRC_SRC ≠ 3 →
    rising = !s.is .CA_CFG_LAND_EDGE → exec (.syncLandEdge rising) s = .next
    ({ s with ca := { s.ca with syncs := s.ca.syncs ++ [{ src := srcLand, edge := edgeAt s (now s + 2 * per s) }] } })) ∧
  (∀ (s : State) (rising : Bool), acqRuns s = false ∨ s.is .CA_CFG_SYNC_LAND_EN = false → s.is .EV_DIP_CFG_LAND_EN = false → s.get .TU_SRC_SRC ≠ 3 →
    rising = !s.is .CA_CFG_LAND_EDGE → exec (.syncLandEdge rising) s = .next (s.inc .CA_SYNC_INFO_IGN_CNT)) ∧
  (∀ (s : State) (rising : Bool) (b : Nat), s.is .EV_DIP_CFG_LAND_EN = true → s.get .TU_SRC_SRC ≠ 3 → rising = !s.is .CA_CFG_LAND_EDGE → dipIgnored s =
    false → freeBank s = some b → ∃ t, exec (.syncLandEdge rising) s = .next t ∧ t.get .EV_DIP_STAT_LAND_ID = (s.get .EV_DIP_STAT_LAND_ID + 1) % 2 ^ 16 ∧
    bankState t b = 1 ∧ (t.dip b).tick = now s + 4096 ∧ (t.dip b).tgt = now s + 4096 ∧ t.ca.syncs = (if acqRuns s = true ∧ s.is .CA_CFG_SYNC_LAND_EN =
    true then s.ca.syncs ++ [{ src := srcLand, edge := edgeAt s (now s + 2 * per s) }] else s.ca.syncs) ∧ t =
    { s with regs := t.regs, ca := t.ca, dips := t.dips, tu := t.tu } ∧ ∀ a, a ≠ Reg.CA_SYNC_INFO → a ≠ Reg.EV_DIP_STAT → rd t a = rd s a) ∧
  (∀ (s : State) (r : Req), Admitted s r Reg.CA_SYNC Msk.CA_SYNC → acqRuns s = true → s.is .CA_CFG_SYNC_REG_EN = true → exec (.caSyncGo r) s = .next
    ({ s with ca := { s.ca with syncs := s.ca.syncs ++ [{ src := srcReg, edge := edgeAt s (now s + 2 * per s) }] } })) ∧
  (∀ (s : State) (r : Req), Admitted s r Reg.CA_SYNC Msk.CA_SYNC → acqRuns s = false ∨ s.is .CA_CFG_SYNC_REG_EN = false → exec (.caSyncGo r) s = .next
    (s.inc .CA_SYNC_INFO_IGN_CNT)) ∧
  (∀ (s : State) (e m : Nat) (same : Bool), dueEdge s = some e → acqRuns s = true → s.get .CA_STAT_STATE ≠ 2 → e < 2 ^ 64 → (∀ r ∈ s.ca.syncs, r.src <
    8) → m = srcMask (s.ca.syncs.filter (fun r => r.edge = e)) → same = (s.get .CA_SYNC_INFO_SRC != 0 && s.get64 (Reg.CA_SYNC_TS 0) == e) → ∃ t, exec
    .syncApply s = .next t ∧ t.ca = { s.ca with syncs := s.ca.syncs.filter (fun r => r.edge ≠ e) } ∧ t.get64 (Reg.CA_SYNC_TS 0) = e ∧ t.get
    .CA_SYNC_INFO_SRC = (if same then m ||| s.get .CA_SYNC_INFO_SRC else m) ∧ t.is .CA_SYNC_INFO_LATE = ((s.ca.syncs.filter (fun r => r.edge = e)).any
    (·.late) || (same && s.is .CA_SYNC_INFO_LATE)) ∧ t.get .CA_SYNC_INFO_COUNT = (s.get .CA_SYNC_INFO_COUNT + (if same then 0 else 1)) % (FldRef.max
    .CA_SYNC_INFO_COUNT + 1) ∧ t = { s with regs := t.regs, ca := t.ca, chains := t.chains, dips := t.dips } ∧ ∀ a, a ≠ Reg.CA_SYNC_INFO → a ≠
    Reg.CA_SYNC_TS 0 → a ≠ Reg.CA_SYNC_TS 1 → ¬ (anyChainReg a = true) → rd t a = rd s a) ∧
  (∀ (s : State) (e : Nat), dueEdge s = some e → acqRuns s = true → s.get .CA_STAT_STATE = 2 → ∃ t, exec .syncApply s = .next t ∧ t.ca =
    { s.ca with syncs := s.ca.syncs.filter (fun r => r.edge ≠ e), merged := s.ca.merged ||| srcMask (s.ca.syncs.filter (fun r => r.edge = e)) } ∧ t.is
    .CA_STAT_SYNC_MERGED = true ∧ t = { s with regs := t.regs, ca := t.ca } ∧ ∀ a, a ≠ Reg.CA_STAT → rd t a = rd s a) ∧
  (∀ (s : State) (e : Nat), dueEdge s = some e → acqRuns s = false → ∃ t, exec .syncApply s = .next t ∧ t.ca =
    { s.ca with syncs := s.ca.syncs.filter (fun r => r.edge ≠ e) } ∧ t.get .CA_SYNC_INFO_IGN_CNT = min (s.get .CA_SYNC_INFO_IGN_CNT + (s.ca.syncs.filter
    (fun r => r.edge = e)).length) (FldRef.max .CA_SYNC_INFO_IGN_CNT) ∧ t = { s with regs := t.regs, ca := t.ca } ∧ ∀ a, a ≠ Reg.CA_SYNC_INFO → rd t a =
    rd s a) ∧
  (∀ (s : State), dueEdge s = none → exec .syncApply s = .next s)

/-- The auxiliary converter of a tile (R146 to R151): at the end of a scan slot the corrected result replaces TILE_AUXi and the next slot begins; an
idle converter begins what waits; an accepted or held request is queued and answered; the oldest request's result goes to the registers, or to the
context that waits for it. The idle converter's slot is the model's choice (assumption log 6). -/
def Obligations.AuxiliaryConversions : Prop :=
  (∀ (s : State) (t : Fin 16) (raw : Int) (ovr : Bool) (i e : Nat), (s.tile t).slot = some (e, some i) → slotDone s t e = true → i < 16 → ∃ t', exec
    (.auxSlotEnd t raw ovr) s = .next t' ∧ rd t' (Reg.TILE_AUX t i) = wd (mk [(toU 24 (auxCode s t (clip24 raw).1), 8), (b2n ovr, 1)]) ∧ kget 0 (t'.tile
    t).auxAt i = clk s + 1 ∧ (t'.tile t).scan = i + 1 ∧ (t'.tile t).slot = (slotUse t' t).map (fun u => (e + slotTicks s, u)) ∧ t' =
    { eventsFrom s t' with tiles := t'.tiles } ∧ ∀ a, eventReg a = false → a ≠ Reg.TILE_AUX t i → a ≠ Reg.TILE_WIN_STATE t → rd t' a = rd s a) ∧
  (∀ (s : State) (t : Fin 16) (raw : Int) (ovr : Bool), (s.tile t).slot = none → exec (.auxSlotEnd t raw ovr) s = .next (s.setTile t
    { s.tile t with slot := (slotUse s t).map (fun u => (edgeAt s (now s) + slotTicks s, u)) })) ∧
  (∀ (s : State) (t : Fin 16) (raw : Int) (ovr : Bool) (e : Nat) (u : Option Nat), (s.tile t).slot = some (e, u) → u = none ∨ slotDone s t e = false →
    exec (.auxSlotEnd t raw ovr) s = .next s) ∧
  (∀ (s : State) (r : Req) (w : Word) (t : Nat), Admitted s r Reg.CA_INJ Msk.CA_INJ → t = bits w 19 16 → bits w 28 24 < 20 → tileUp s t = true → (s.tile
    t).inj.length < 4 → calBusy s = false ∨ bitAt w 31 = false → ∃ t', exec (.injRequest r w) s = .next t' ∧ (t'.tile t).inj = (s.tile t).inj ++
    [{ target := bits w 28 24, tag := bits w 15 0, held := calBusy s }] ∧ t'.get (.TILE_INJ_STAT_PEND t) = (s.tile t).inj.length + 1 ∧ (r = .s0 → t'.get
    .CA_INJ_RESP_RESP = (if calBusy s then injHeld else injAccepted) ∧ t'.get .CA_INJ_RESP_TAG = bits w 15 0) ∧ t' =
    { s with regs := t'.regs, tiles := t'.tiles } ∧ ∀ a, a ≠ Reg.TILE_INJ_STAT t → a ≠ Reg.CA_INJ_RESP → rd t' a = rd s a) ∧
  (∀ (s : State) (r : Req) (w : Word) (t : Nat), Admitted s r Reg.CA_INJ Msk.CA_INJ → t = bits w 19 16 → 20 ≤ bits w 28 24 ∨ tileUp s t = false ∨ 4 ≤
    (s.tile t).inj.length ∨ (calBusy s = true ∧ bitAt w 31 = true) → ∃ t', exec (.injRequest r w) s = .next t' ∧ (r = .s0 → t'.get .CA_INJ_RESP_RESP =
    injResponse s t (bits w 28 24) (bitAt w 31) ∧ t'.get .CA_INJ_RESP_TAG = bits w 15 0) ∧ t' = { s with regs := t'.regs } ∧ ∀ a, a ≠ Reg.CA_INJ_RESP → rd
    t' a = rd s a) ∧
  (∀ (s : State) (t : Fin 16) (raw : Int) (ovr : Bool) (x : InjReq) (l : List InjReq) (e : Nat), (s.tile t).slot = some (e, none) → (s.tile t).inj = x
    :: l → slotDone s t e = true → x.target < 20 → l.length < 4 → x.ctx = none → ∃ t', exec (.injComplete t raw ovr) s = .next t' ∧ rd t'
    (Reg.TILE_INJ_RES t) = wd (toU 24 (auxCode s t (clip24 raw).1) * 256) ∧ t'.get64 (Reg.TILE_INJ_TS t 0) = now s ∧ (t'.tile t).inj = l ∧ t'.get
    (.TILE_INJ_STAT_PEND t) = l.length ∧ t'.is (.TILE_INJ_STAT_HELD t) = x.held ∧ t'.is (.TILE_INJ_STAT_OVR t) = ovr ∧ (16 ≤ x.target → bits (rd t'
    (Reg.CH_INJ_RES (16 * t + (x.target - 4)))) 31 8 = toU 24 (auxCode s t (clip24 raw).1)) ∧ t' = { s with regs := t'.regs, tiles := t'.tiles } ∧ ∀ a, a
    ≠ Reg.TILE_INJ_RES t → a ≠ Reg.TILE_INJ_TS t 0 → a ≠ Reg.TILE_INJ_TS t 1 → a ≠ Reg.TILE_INJ_STAT t → a ≠ Reg.CH_INJ_RES (16 * t + (x.target - 4)) → a
    ≠ Reg.CH_INJ_TAG (16 * t + (x.target - 4)) → rd t' a = rd s a) ∧
  (∀ (s : State) (t : Fin 16) (raw : Int) (ovr : Bool) (x : InjReq) (l : List InjReq) (e c v : Nat), (s.tile t).slot = some (e, none) → (s.tile t).inj =
    x :: l → slotDone s t e = true → x.target < 20 → x.ctx = some c → c < 160 → v < 16 → (s.ctx c).wait = .inj v → s.get (.CTX_STAT_STATE c) = stWaiting →
    ∃ t', exec (.injComplete t raw ovr) s = .next t' ∧ rd t' (Reg.CTX_V c v) = wd (toU 32 (auxCode s t (clip24 raw).1)) ∧ t'.get (.CTX_STAT_STATE c) =
    stReady ∧ (t'.ctx c).ff = false ∧ (t'.ctx c).vf = ovr ∧ (t'.ctx c).cf = x.held ∧ (t'.tile t).inj = l)

/-- A calibration (R153 to R157): a request with the permit free asks for it, the grant goes to CAL_WAIT, the entry stops every chain once every
converter has ended its slot, each window keeps its sums at its time, the second writes the factors of the converters that do not fail (`convFailed`)
and counts those that do, the end returns to no calibration. -/
def Obligations.Calibration : Prop :=
  (∀ (s : State) (r : Req), Admitted s r Reg.CA_CMD Msk.CA_CMD → s.ca.calStep ≠ 0 → exec (.cal r) s = .next (s.set1 .CA_STAT_IGNORED)) ∧
  (∀ (s : State) (r : Req), Admitted s r Reg.CA_CMD Msk.CA_CMD → s.ca.calStep = 0 → acqRuns s = false → exec (.cal r) s = .next (s.put .CA_STAT_RESULT
    caNotAllowed)) ∧
  (∀ (s : State) (r : Req), Admitted s r Reg.CA_CMD Msk.CA_CMD → s.ca.calStep = 0 → acqRuns s = true → permitAnswer s actCal = prGranted → exec (.cal r)
    s = .next ({ s with ca := { s.ca with calStep := 1 } })) ∧
  (∀ (s : State) (r : Req), Admitted s r Reg.CA_CMD Msk.CA_CMD → s.ca.calStep = 0 → acqRuns s = true → permitAnswer s actCal ≠ prGranted → ∃ t, exec
    (.cal r) s = .next t ∧ t.get .CA_STAT_RESULT = caRefused ∧ t.ca = s.ca ∧ t = queuedFrom s t ∧ ∀ a, queueReg a = false → a ≠ Reg.CA_STAT → a ≠
    Reg.SV_PERMIT → rd t a = rd s a) ∧
  (∀ (s : State), s.is .CA_CFG_AUTO_CAL = true → acqRuns s = true → linksTrained s = true → s.ca.autoDone = false → s.ca.calStep = 0 → permitAnswer s
    actCal = prGranted → exec .autoCalStart s = .next ({ s with ca := { s.ca with autoDone := true, calStep := 1 } })) ∧
  (∀ (s : State), s.ca.calStep = 1 → permitAnswer s actCal = prGranted → acqRuns s = true → ∃ t, exec .calPermitGranted s = .next t ∧ t.ca =
    { s.ca with calStep := 2, lost := calCannot s } ∧ t.get .CA_STAT_STATE = 1 ∧ t.get .SV_PERMIT_HELD = s.get .SV_PERMIT_HELD ||| 2 ^ (actCal - 1) ∧ t =
    { queuedFrom s t with ca := t.ca, tiles := t.tiles } ∧ ∀ a, queueReg a = false → a ≠ Reg.CA_STAT → a ≠ Reg.SV_PERMIT → rd t a = rd s a) ∧
  (∀ (s : State), s.ca.calStep = 1 → permitAnswer s actCal ≠ prGranted → ∃ t, exec .calPermitGranted s = .next t ∧ t.ca = { s.ca with calStep := 0 } ∧
    t.get .CA_STAT_RESULT = caRefused ∧ t = { queuedFrom s t with ca := t.ca } ∧ ∀ a, queueReg a = false → a ≠ Reg.CA_STAT → a ≠ Reg.SV_PERMIT → rd t a =
    rd s a) ∧
  (∀ (s : State), s.ca.calStep = 2 → (∀ k : Fin 16, (s.tile k).slot = none ∨ tileUp s k = false) → ∃ t, exec .calEnter s = .next t ∧ t.ca =
    { s.ca with calStep := 3, calAt := clk s } ∧ t.get .CA_STAT_STATE = 2 ∧ (∀ n ∈ anChs, (t.chain n).cur.on = false ∧ (t.chain n).nxt = none) ∧ t =
    { queuedFrom s t with ca := t.ca, chains := t.chains } ∧ ∀ a, queueReg a = false → a ≠ Reg.CA_STAT → rd t a = rd s a) ∧
  (∀ (s : State) (sums : List Int), s.ca.calStep = 3 → calPast s 200 800 = true → exec (.calOffsetMeans sums) s = .next
    ({ s with ca := { s.ca with calStep := 4, s0 := sums } })) ∧
  (∀ (s : State) (sums : List Int) (marked : List Nat), s.ca.calStep = 4 → calPast s 405 1620 = true → ∃ t, exec (.calGainMeans sums marked) s = .next t
    ∧ t.ca.calStep = 5 ∧ t.get .CA_STAT_FAIL_CNT = ((List.range 80).filter (convFailed s sums marked)).length ∧ t.ca.calFail = ((List.range 80).filter
    (convFailed s sums marked)).length ∧ t = { s with regs := t.regs, ca := t.ca } ∧ ∀ a, a ≠ Reg.CA_STAT → ¬ (a ∈ (List.range 80).flatMap convRegs) → rd
    t a = rd s a) ∧
  (∀ (s : State) (sums : List Int) (marked : List Nat) (i : Fin 64) (n : Nat), s.ca.calStep = 4 → calPast s 405 1620 = true → n = anCh i → ∃ t, exec
    (.calGainMeans sums marked) s = .next t ∧ t.is (.CH_CAL_OFS_FAIL n) = convFailed s sums marked i ∧ (convFailed s sums marked i = true → rd t
    (Reg.CH_CAL_GAIN n) = rd s (Reg.CH_CAL_GAIN n) ∧ t.get (.CH_CAL_OFS_OFS n) = s.get (.CH_CAL_OFS_OFS n)) ∧ (convFailed s sums marked i = false → t.get
    (.CH_CAL_OFS_OFS n) = toU 24 (divAway (s.ca.s0.getD i 0) calPeriods) ∧ t.get (.CH_CAL_GAIN_GAIN n) = (convGain (devOf s (i / 4)) (s.ca.s0.getD i 0)
    (sums.getD i 0)).toNat ∧ t.is (.CH_CAL_OFS_STALE n) = false ∧ t.is (.CH_CAL_OFS_HOST n) = false)) ∧
  (∀ (s : State) (sums : List Int) (marked : List Nat) (n : Fin 16), s.ca.calStep = 4 → calPast s 405 1620 = true → ∃ t, exec (.calGainMeans sums
    marked) s = .next t ∧ t.is (.TILE_AUX_OFS_FAIL n) = convFailed s sums marked (64 + n) ∧ (convFailed s sums marked (64 + n) = true → rd t
    (Reg.TILE_AUX_GAIN n) = rd s (Reg.TILE_AUX_GAIN n) ∧ t.get (.TILE_AUX_OFS_OFS n) = s.get (.TILE_AUX_OFS_OFS n)) ∧ (convFailed s sums marked (64 + n) =
    false → t.get (.TILE_AUX_OFS_OFS n) = toU 24 (divAway (s.ca.s0.getD (64 + n) 0) calPeriods) ∧ t.get (.TILE_AUX_GAIN_GAIN n) = (convGain (devOf s n)
    (s.ca.s0.getD (64 + n) 0) (sums.getD (64 + n) 0)).toNat ∧ t.is (.TILE_AUX_OFS_STALE n) = false ∧ t.is (.TILE_AUX_OFS_HOST n) = false)) ∧
  (∀ (s : State), s.ca.calStep = 5 → calPast s 420 1650 = true → ∃ t, exec .calEnd s = .next t ∧ t.ca =
    { s.ca with calStep := 0, merged := 0, s0 := [], lost := [], prev := [] } ∧ t.get .CA_STAT_STATE = 0 ∧ t.get .CA_STAT_RESULT = (if s.ca.calFail = 0
    then caOk else caPartial) ∧ t.get .SV_PERMIT_HELD = s.get .SV_PERMIT_HELD &&& (0x7F ^^^ 2 ^ (actCal - 1)) ∧ bits (rd t Reg.MOD_IRQ) irqCal irqCal = 1
    ∧ t = { queuedFrom s t with ca := t.ca, chains := t.chains, dips := t.dips, pw := t.pw, tiles := t.tiles } ∧ ∀ a, queueReg a = false → a ≠ Reg.CA_STAT
    → a ≠ Reg.CA_SYNC_INFO → a ≠ Reg.CA_SYNC_TS 0 → a ≠ Reg.CA_SYNC_TS 1 → a ≠ Reg.SV_PERMIT → a ≠ Reg.MOD_START → ¬ (anyChainReg a = true) → rd t a = rd
    s a) ∧
  (∀ (s : State) (r : Req) (i : Fin 80) (g : Bool) (w : Word), i.val < 64 → Admitted s r (factorReg i g).1 (factorReg i g).2 → ∃ t, exec
    (.calFactorWrite r i g w) s = .next t ∧ (if g then t.get (.CH_CAL_GAIN_GAIN (anCh i)) else t.get (.CH_CAL_OFS_OFS (anCh i))) = bits w 23 0 ∧ t.is
    (.CH_CAL_OFS_STALE (anCh i)) = false ∧ t.is (.CH_CAL_OFS_HOST (anCh i)) = true ∧ t = { s with regs := t.regs, ca := t.ca } ∧ ∀ a, a ≠ (factorReg i
    g).1 → a ≠ Reg.CH_CAL_OFS (anCh i) → a ≠ Reg.CA_STAT → rd t a = rd s a) ∧
  (∀ (s : State) (r : Req) (i : Fin 80) (g : Bool) (w : Word), 64 ≤ i.val → Admitted s r (factorReg i g).1 (factorReg i g).2 → ∃ t, exec
    (.calFactorWrite r i g w) s = .next t ∧ (if g then t.get (.TILE_AUX_GAIN_GAIN (i - 64)) else t.get (.TILE_AUX_OFS_OFS (i - 64))) = bits w 23 0 ∧ t.is
    (.TILE_AUX_OFS_STALE (i - 64)) = false ∧ t.is (.TILE_AUX_OFS_HOST (i - 64)) = true ∧ t = { s with regs := t.regs, ca := t.ca } ∧ ∀ a, a ≠ (factorReg i
    g).1 → a ≠ Reg.TILE_AUX_OFS (i - 64) → a ≠ Reg.CA_STAT → rd t a = rd s a)

/-- A SWEEP (R160, R161): allowed settings and a free permit start it with its settings as they then are, and it holds its tiles; a step comes at the
end of a dwell; an abort takes effect at the end of the step. -/
def Obligations.SweepCommands : Prop :=
  (∀ (s : State) (r : Req), Admitted s r Reg.CA_CMD Msk.CA_CMD → sweepAllowed s = false → exec (.sweep r) s = .next (s.put .CA_STAT_RESULT
    caNotAllowed)) ∧
  (∀ (s : State) (r : Req), Admitted s r Reg.CA_CMD Msk.CA_CMD → sweepAllowed s = true → permitAnswer s actSweep ≠ prGranted → ∃ t, exec (.sweep r) s =
    .next t ∧ t.get .CA_STAT_RESULT = caRefused ∧ t.ca = s.ca ∧ t = queuedFrom s t ∧ ∀ a, queueReg a = false → a ≠ Reg.CA_STAT → a ≠ Reg.SV_PERMIT → rd t
    a = rd s a) ∧
  (∀ (s : State) (r : Req), Admitted s r Reg.CA_CMD Msk.CA_CMD → sweepAllowed s = true → permitAnswer s actSweep = prGranted → ∃ t, exec (.sweep r) s =
    .next t ∧ t.ca.swStep = some 0 ∧ t.ca.swCount = s.get .CA_SWEEP_CFG_COUNT ∧ t.ca.swTiles = s.get .CA_SWEEP_SEL_TILES ∧ t.ca.swPos = s.get
    .CA_SWEEP_SEL_POS ∧ t.ca.swAbort = false ∧ t.ca.swAt = clk s ∧ t.get .CA_STAT_STATE = 3 ∧ t.get .SV_PERMIT_HELD = s.get .SV_PERMIT_HELD ||| 2 ^
    (actSweep - 1) ∧ (∀ k : Fin 16, (s.get .CA_SWEEP_SEL_TILES).testBit k = true → (t.tile k).sweep = true ∧ (t.tile k).swTdac = s.get (.TILE_TDAC_CODE k)
    ∧ t.get (.TILE_TDAC_CODE k) = s.get .CA_SWEEP_CFG_START) ∧ t =
    { queuedFrom s t with ca := t.ca, chains := t.chains, dips := t.dips, tiles := t.tiles } ∧ ∀ a, queueReg a = false → a ≠ Reg.CA_STAT → a ≠
    Reg.SV_PERMIT → ¬ (0x10000 ≤ a ∧ a < 0x30000) → rd t a = rd s a) ∧
  (∀ (s : State) (r : Req), Admitted s r Reg.CA_CMD Msk.CA_CMD → s.ca.swStep ≠ none → exec (.sweepAbort r) s = .next
    ({ s with ca := { s.ca with swAbort := true } })) ∧
  (∀ (s : State) (r : Req), Admitted s r Reg.CA_CMD Msk.CA_CMD → s.ca.swStep = none → exec (.sweepAbort r) s = .next (s.set1 .CA_STAT_IGNORED)) ∧
  (∀ (s : State) (raw : List Int) (i : Nat), s.ca.swStep = some i → s.ca.swAt + s.ca.swDwell * tickMs ≤ clk s → s.ca.swAbort = false → i + 1 <
    s.ca.swCount → ∃ t, exec (.sweepStep raw) s = .next t ∧ t.ca = { s.ca with swStep := some (i + 1), swAt := clk s } ∧ (∀ k : Fin 16,
    s.ca.swTiles.testBit k = true → t.get (.TILE_TDAC_CODE k) = toU 12 (s.ca.swStart + (i + 1 : Nat) * s.ca.swInc)) ∧ t =
    { s with regs := t.regs, ca := t.ca, tiles := t.tiles } ∧ ∀ a, a ≠ Reg.CA_STAT → ¬ (0x10000 ≤ a ∧ a < 0x30000) → rd t a = rd s a) ∧
  (∀ (s : State) (raw : List Int) (i : Nat), s.ca.swStep = some i → s.ca.swAt + s.ca.swDwell * tickMs ≤ clk s → s.ca.swAbort = true ∨ s.ca.swCount ≤ i +
    1 → ∃ t, exec (.sweepStep raw) s = .next t ∧ t.ca = { s.ca with swStep := none, swAbort := false } ∧ t.get .CA_STAT_STATE = 0 ∧ t.get .CA_STAT_RESULT
    = (if s.ca.swAbort = true then caAborted else caOk) ∧ t.get .SV_PERMIT_HELD = s.get .SV_PERMIT_HELD &&& (0x7F ^^^ 2 ^ (actSweep - 1)) ∧ (∀ k : Fin 16,
    s.ca.swTiles.testBit k = true → (s.tile k).sweep = true → (t.tile k).sweep = false ∧ t.get (.TILE_TDAC_CODE k) = (s.tile k).swTdac % 4096) ∧ t =
    { queuedFrom s t with ca := t.ca, chains := t.chains, dips := t.dips, pw := t.pw, tiles := t.tiles } ∧ ∀ a, queueReg a = false → a ≠ Reg.CA_STAT → a ≠
    Reg.SV_PERMIT → ¬ (0x10000 ≤ a ∧ a < 0x30000) → rd t a = rd s a) ∧
  (∀ (s : State) (raw : List Int), s.ca.swStep = none ∨ clk s < s.ca.swAt + s.ca.swDwell * tickMs → exec (.sweepStep raw) s = .next s)

/-- Settings of the filter chains and thresholds (R183, R184, R193, R204, R206): stored, with what they replace shown, and refused where a record is
in use. What they may reset beside is the chain and the registers that its reset returns (`chainReg`). -/
def Obligations.FilterSettings : Prop :=
  (∀ (s : State) (r : Req) (n : Fin 256) (w : Word), isAN n = true → Admitted s r (Reg.CH_FC_CFG n) Msk.CH_FC_CFG → ∃ t, exec (.fcCfgWrite r n false w)
    s = .next t ∧ t.get (.CH_FC_CFG_PRESET n) = (if 12 ≤ bits w 3 0 then 1 else bits w 3 0) ∧ t.is (.CH_FC_CFG_SHIFT_OWN n) = bitAt w 12 ∧ rd t
    (Reg.CH_FC_CFG n) = storedWord Msk.CH_FC_CFG (rd s (Reg.CH_FC_CFG n)) (setBits w 3 0 (if 12 ≤ bits w 3 0 then 1 else bits w 3 0)) ∧ t.is
    (.CH_FC_STATE_CFG_ADJ n) = (decide (12 ≤ bits w 3 0) || (bitAt w 12 && decide (bits w 3 0 < 8))) ∧ t =
    { s with regs := t.regs, chains := t.chains, dips := t.dips } ∧ ∀ a, a ≠ Reg.CH_FC_CFG n → ¬ (chainReg n a = true) → rd t a = rd s a) ∧
  (∀ (s : State) (r : Req) (n : Fin 256) (w : Word), isAN n = true → Admitted s r (Reg.CH_FC_SHIFT n) Msk.CH_FC_SHIFT → ∃ t, exec (.fcCfgWrite r n true
    w) s = .next t ∧ rd t (Reg.CH_FC_SHIFT n) = storedWord Msk.CH_FC_SHIFT (rd s (Reg.CH_FC_SHIFT n)) w ∧ t =
    { s with regs := t.regs, chains := t.chains, dips := t.dips } ∧ ∀ a, a ≠ Reg.CH_FC_SHIFT n → ¬ (chainReg n a = true) → rd t a = rd s a) ∧
  (∀ (s : State) (r : Req) (n : Fin 256) (w : Word), isAN n = true → Admitted s r (Reg.CH_FC_DELAY n) Msk.CH_FC_DELAY → ∃ t, exec (.pdelayWrite r n w) s
    = .next t ∧ t.get (.CH_FC_DELAY_PDELAY n) = bits w 11 0 ∧ t = { s with regs := t.regs, chains := t.chains, dips := t.dips } ∧ ∀ a, a ≠ Reg.CH_FC_DELAY
    n → ¬ (chainReg n a = true) → rd t a = rd s a) ∧
  (∀ (s : State) (r : Req) (x : Fin 4) (o : Nat) (m : WMask) (w : Word), recordMask o = some m → Admitted s r (Reg.PR_CIC (8 + x) + o) m → recordInUse s
    (8 + x) = true → exec (.presetRecordWrite r x o w) s = .next (s.put ⟨Reg.FC_STAT, 16 + x, 16 + x⟩ 1)) ∧
  (∀ (s : State) (r : Req) (x : Fin 4) (o : Nat) (m : WMask) (w : Word), recordMask o = some m → Admitted s r (Reg.PR_CIC (8 + x) + o) m → recordInUse s
    (8 + x) = false → ∃ t, exec (.presetRecordWrite r x o w) s = .next t ∧ rd t (Reg.PR_CIC (8 + x) + o) = storedWord m (rd s (Reg.PR_CIC (8 + x) + o)) w
    ∧ t.is (.PR_STAT_ERR (8 + x)) = prErr t (8 + x) ∧ t = { s with regs := t.regs, chains := t.chains, dips := t.dips } ∧ ∀ a, a ≠ Reg.PR_CIC (8 + x) + o
    → a ≠ Reg.PR_STAT (8 + x) → a ≠ Reg.PR_LEN (8 + x) → a ≠ Reg.PR_DEC (8 + x) → a ≠ Reg.PR_GD (8 + x) → a ≠ Reg.FC_STAT → ¬ (anyChainReg a = true) → rd
    t a = rd s a) ∧
  (∀ (s : State) (r : Req) (x : Fin 4) (o : Nat) (w : Word), recordMask o = none → exec (.presetRecordWrite r x o w) s = .next s) ∧
  (∀ (s : State) (r : Req) (n : Fin 256) (x : Fin 2) (k : Fin 3) (w : Word), isAN n = true → Admitted s r (Reg.CH_TH_CFG n x + 4 * k) (thMask k) → exec
    (.thresholdWrite r n x k w) s = .next (wr (Reg.CH_TH_STATE n x) 0 (wr (Reg.CH_TH_CFG n x + 4 * k) (storedWord (thMask k) (rd s (Reg.CH_TH_CFG n x + 4
    * k)) w) s))) ∧
  (∀ (s : State) (t : Fin 16), (s.tile t).lostA = true → activeDom s ≠ some .a → exec (.linkFramesResume t .a) s = .next ((s.setTile t
    { s.tile t with lostA := false }).set1 (.TILE_FEED_LINK_A t))) ∧
  (∀ (s : State) (t : Fin 16), (s.tile t).lostB = true → activeDom s ≠ some .b → exec (.linkFramesResume t .b) s = .next ((s.setTile t
    { s.tile t with lostB := false }).set1 (.TILE_FEED_LINK_B t))) ∧
  (∀ (s : State) (t : Fin 16), (s.tile t).lostA = true → activeDom s = some .a → ∃ t', exec (.linkFramesResume t .a) s = .next t' ∧ (t'.tile t).lostA =
    false ∧ t'.is (.TILE_FEED_LINK_A t) = true ∧ t' = { s with regs := t'.regs, chains := t'.chains, dips := t'.dips, tiles := t'.tiles } ∧ ∀ a, a ≠
    Reg.TILE_FEED t → ¬ (anyChainReg a = true) → rd t' a = rd s a) ∧
  (∀ (s : State) (t : Fin 16), (s.tile t).lostB = true → activeDom s = some .b → ∃ t', exec (.linkFramesResume t .b) s = .next t' ∧ (t'.tile t).lostB =
    false ∧ t'.is (.TILE_FEED_LINK_B t) = true ∧ t' = { s with regs := t'.regs, chains := t'.chains, dips := t'.dips, tiles := t'.tiles } ∧ ∀ a, a ≠
    Reg.TILE_FEED t → ¬ (anyChainReg a = true) → rd t' a = rd s a) ∧
  (∀ (s : State) (t : Fin 16) (d : Dom), ((d = .a → (s.tile t).lostA = false) ∧ (d = .b → (s.tile t).lostB = false)) → exec (.linkFramesResume t d) s =
    .next s)

/-- CHAIN_OUTPUT (R185, R156, R195) of a running chain, an ordered reset taken up where its anchor has been reached (`takeUp`), at or after the
output's completion edge: the periods that the tile has sent go through the phase-delay line (`lineFill`, R183) to the chain. And the mark that a
modulator reset leaves (R138). -/
def Obligations.ChainOutputs : Prop :=
  (∀ (s : State) (n : Fin 256) (ps : List Period) (v : State) (e : Nat), isAN n = true → v = takeUp n s → (v.chain n).cur.on = true → 0 < stepTicks v
    (v.chain n).cur → nextEdge v (v.chain n).cur (v.chain n).last = e → outputDue v (v.chain n) e = true → suppressed v (v.chain n).cur e = true → ∃ t,
    exec (.chainOutput n ps) s = .next t ∧ rd t (Reg.CH_SEQ n) = wd (seqOf v (v.chain n).cur e) ∧ (t.chain n).last = e ∧ rd t (Reg.CH_LAST n) = rd v
    (Reg.CH_LAST n) ∧ rd t (Reg.CH_LAST_SEQ n) = rd v (Reg.CH_LAST_SEQ n) ∧ t =
    { s with regs := t.regs, chains := t.chains, dips := t.dips, tiles := t.tiles, sv := t.sv } ∧ ∀ a, a ≠ Reg.CH_SEQ n → ¬ (chainReg n a = true) → rd t a
    = rd s a) ∧
  (∀ (s : State) (n : Fin 256) (ps : List Period) (v : State) (e : Nat) (u : State), isAN n = true → v = takeUp n s → (v.chain n).cur.on = true → 0 <
    stepTicks v (v.chain n).cur → nextEdge v (v.chain n).cur (v.chain n).last = e → outputDue v (v.chain n) e = true → suppressed v (v.chain n).cur e =
    false → u = lineFill n (lineEdge (v.chain n) e) ps v → ∃ t, exec (.chainOutput n ps) s = .next t ∧ rd t (Reg.CH_SEQ n) = wd (seqOf v (v.chain n).cur
    e) ∧ rd t (Reg.CH_LAST_SEQ n) = wd (seqOf v (v.chain n).cur e) ∧ bits (rd t (Reg.CH_LAST n)) 31 8 = toU 24 (calCorrect (clip24 (chainX (regPar v
    (v.chain n).cur) (((delayed u (u.chain n) e).take ((regPar v (v.chain n).cur).span + (regPar v (v.chain n).cur).d)).map (fun y => codeWord
    y.code))).1).1 (sext 24 (s.get (.CH_CAL_OFS_OFS n))) (s.get (.CH_CAL_GAIN_GAIN n))).1 ∧ (t.chain n).last = e ∧ t =
    { eventsFrom s t with chains := t.chains, tiles := t.tiles, sv := t.sv } ∧ ∀ a, eventReg a = false → a ≠ Reg.CH_SEQ n → a ≠ Reg.MOD_START → ¬
    (chainReg n a = true) → rd t a = rd s a) ∧
  (∀ (s : State) (n : Fin 256) (ps : List Period), isAN n = false ∨ ((s.chain n).nxt = none ∧ ((s.chain n).cur.on = false ∨ outputDue s (s.chain n)
    (nextEdge s (s.chain n).cur (s.chain n).last) = false)) → exec (.chainOutput n ps) s = .next s) ∧
  (∀ (s : State) (n : Fin 256), isAN n = true → (s.tile (n / 16)).power = true → calWindow s = false → exec (.modulatorLoopReset n) s = .next
    (s.setChain n { s.chain n with marks := (s.chain n).marks ++ [((edgeAt s (now s) : Int), (edgeAt s (now s) : Int) + 64 * per s)] })) ∧
  (∀ (s : State) (n : Fin 256), isAN n = true → (s.tile (n / 16)).power = true → calWindow s = true → exec (.modulatorLoopReset n) s = .next
    ((s.setChain n { s.chain n with marks := (s.chain n).marks ++ [((edgeAt s (now s) : Int), (edgeAt s (now s) : Int) + 64 * per s)] }).modCa (fun c =>
    { c with lost := anIx n :: c.lost })))

/-- The dip's banks (R218 to R223): a request takes a free bank, the latch tick fixes its items, the bank is then held until the host releases it. The
interrupt register (R215, R216) is W1C; a cleared flag can raise the ring's alarm anew. -/
def Obligations.DipsAndInterrupts : Prop :=
  (∀ (s : State) (r : Req) (w : Word) (b x : Nat), Admitted s r Reg.MOD_DIP Msk.MOD_DIP → bitAt w 0 = true → dipIgnored s = false → freeBank s = some b
    → x = (if bitAt w 1 then s.get64 (Reg.MOD_DIP_TGT 0) else now s) → ∃ t, exec (.dipRequest r w) s = .next t ∧ bankState t b = 1 ∧ (t.dip b).tgt = x ∧
    (t.dip b).tick = (if x < now s + 4096 then now s + 4096 else x) ∧ (t.dip b).latched = false ∧ t.is .MOD_DIP_REFUSED = false ∧ t =
    { s with regs := t.regs, dips := t.dips } ∧ ∀ a, a ≠ Reg.MOD_DIP → a ≠ Reg.EV_DIP_STAT → rd t a = rd s a) ∧
  (∀ (s : State) (r : Req) (w : Word), Admitted s r Reg.MOD_DIP Msk.MOD_DIP → bitAt w 0 = true → dipIgnored s = false → freeBank s = none → ∃ t, exec
    (.dipRequest r w) s = .next t ∧ t.is .MOD_DIP_REFUSED = true ∧ t.get .EV_DIP_STAT_BUSY_CNT = min (s.get .EV_DIP_STAT_BUSY_CNT + 1) (FldRef.max
    .EV_DIP_STAT_BUSY_CNT) ∧ bankState t 0 = bankState s 0 ∧ bankState t 1 = bankState s 1 ∧ t = eventsFrom s t ∧ ∀ a, eventReg a = false → a ≠
    Reg.MOD_DIP → a ≠ Reg.EV_DIP_STAT → rd t a = rd s a) ∧
  (∀ (s : State) (r : Req) (w : Word), Admitted s r Reg.MOD_DIP Msk.MOD_DIP → bitAt w 0 = true → dipIgnored s = true → ∃ t, exec (.dipRequest r w) s =
    .next t ∧ rd t Reg.MOD_DIP = storedWord Msk.MOD_DIP (rd s Reg.MOD_DIP) w ∧ t.get .EV_DIP_STAT_IGN_CNT = min (s.get .EV_DIP_STAT_IGN_CNT + 1)
    (FldRef.max .EV_DIP_STAT_IGN_CNT) ∧ bankState t 0 = bankState s 0 ∧ bankState t 1 = bankState s 1 ∧ t = { s with regs := t.regs } ∧ ∀ a, a ≠
    Reg.MOD_DIP → a ≠ Reg.EV_DIP_STAT → rd t a = rd s a) ∧
  (∀ (s : State) (r : Req) (w : Word), Admitted s r Reg.MOD_DIP Msk.MOD_DIP → bitAt w 0 = false → exec (.dipRequest r w) s = .next (wr Reg.MOD_DIP
    (storedWord Msk.MOD_DIP (rd s Reg.MOD_DIP) w) s)) ∧
  (∀ (s : State) (b : Fin 2), latchDue s b = true → exec (.dipLatch b) s = .next (s.setDip b
    { s.dip b with hdr := setBits (s.dip b).hdr 4 4 (b2n (halfMast s)), latched := true, items := (dipItems s).foldl (fun m p => putItems p.1 p.2 m) [] })) ∧
  (∀ (s : State) (b : Fin 2), latchDue s b = false → exec (.dipLatch b) s = .next s) ∧
  (∀ (s : State) (b : Fin 2), bankState s b = 1 → (s.dip b).latched = true → ∃ t, exec (.dipBankHeld b) s = .next t ∧ bankState t b = 2 ∧ bits (rd t
    Reg.MOD_IRQ) irqDip irqDip = 1 ∧ t = eventsFrom s t ∧ ∀ a, eventReg a = false → a ≠ Reg.EV_DIP_STAT → rd t a = rd s a) ∧
  (∀ (s : State) (b : Fin 2), bankState s b ≠ 1 ∨ (s.dip b).latched = false → exec (.dipBankHeld b) s = .next s) ∧
  (∀ (s : State) (r : Req) (w : Word), Admitted s r Reg.EV_DIP_STAT Msk.EV_DIP_STAT → ∃ t, exec (.dipRelease r w) s = .next t ∧ bankState t 0 = (if
    bankState s 0 = 2 ∧ bitAt w 4 = true then 0 else bankState s 0) ∧ bankState t 1 = (if bankState s 1 = 2 ∧ bitAt w 5 = true then 0 else bankState s 1)
    ∧ t.get .EV_DIP_STAT_LAND_ID = bits w 31 16 ∧ t = { s with regs := t.regs, dips := t.dips } ∧ ∀ a, a ≠ Reg.EV_DIP_STAT → rd t a = rd s a) ∧
  (∀ (s : State) (r : Req) (w : Word), Admitted s r Reg.MOD_IRQ Msk.MOD_IRQ → ∃ t, exec (.modIrqClear r w) s = .next t ∧ rd t Reg.MOD_IRQ = rd s
    Reg.MOD_IRQ &&& ~~~(w &&& wd Msk.MOD_IRQ.w1c) ∧ t.csn = { s.csn with alSeen := s.csn.alSeen &&& ~~~w } ∧ t = { s with regs := t.regs, csn := t.csn } ∧
    ∀ a, a ≠ Reg.MOD_IRQ → rd t a = rd s a)

/-- Queues (R233 to R248): a settings write is stored, with a kind or policy that does not exist replaced and a depth out of its kind's range kept but
used as the nearest one (R7); a pop returns the head entry's word 0 and keeps its words, of a variable entry the header, for the reads that follow.
Reads of the queues note their latency in MOD_XREAD (R21). -/
def Obligations.QueueCommands : Prop :=
  (∀ (s : State) (r : Req) (q : Fin 128) (w : Word) (v : Word), Admitted s r (Reg.Q_CFG q) Msk.Q_CFG → v = storedWord Msk.Q_CFG (rd s (Reg.Q_CFG q)) w →
    ∃ t, exec (.qCfgWrite r q w) s = .next t ∧ t.get (.Q_CFG_ESIZE q) = (if 6 ≤ bits v 10 8 then 0 else bits v 10 8) ∧ t.get (.Q_CFG_DEPTH q) = bits v 20
    16 ∧ t.get (.Q_CFG_POLICY q) = (if bits v 25 24 = 3 then 0 else bits v 25 24) ∧ t.is (.Q_CFG_HOST q) = bitAt v (FldRef.Q_CFG_HOST q).lo ∧ t.is
    (.Q_CFG_LOG q) = bitAt v (FldRef.Q_CFG_LOG q).lo ∧ t.is (.Q_CFG_EXPORT q) = bitAt v (FldRef.Q_CFG_EXPORT q).lo ∧ t.is (.Q_STAT_CFG_ADJ q) = (decide (6
    ≤ bits v 10 8) || decide (bits v 25 24 = 3) || (esizeOn (bits v 10 8) && depthUsed (bits v 10 8) (bits v 20 16) != bits v 20 16)) ∧ t =
    { s with regs := t.regs, queues := t.queues, pops := t.pops } ∧ ∀ a, ¬ (queueReg a = true) → ¬ (0x20000 ≤ a ∧ a < 0x30000 ∧ a % 0x100 = 0xCC) → rd t a
    = rd s a) ∧
  (∀ (s : State) (r : Req) (q : Fin 128) (e : QEnt), readServed s r = true → s.is (.Q_CFG_HOST q) = true → qOn s q = true → popHead (s.queue q).ents =
    some e → entWords s q e ≠ [] → ∃ t, exec (.qPopLo r q) s = .next t ∧ t.rdata = (entWords s q e).getD 0 0 ∧ (t.psh q (reqIx r)).words = (if s.get
    (.Q_CFG_ESIZE q) = 5 then (entWords s q e).take 2 else entWords s q e) ∧ (t.psh q (reqIx r)).pos = 1 ∧ (t.psh q (reqIx r)).dup = e.dup ∧ t =
    { s with regs := t.regs, queues := t.queues, pops := t.pops, free := t.free, rdata := t.rdata } ∧ ∀ a, a ≠ Reg.MOD_XREAD → ¬ (queueReg a = true) → rd
    t a = rd s a) ∧
  (∀ (s : State) (r : Req) (q : Fin 128), readServed s r = true → s.is (.Q_CFG_HOST q) = false ∨ qOn s q = false ∨ popHead (s.queue q).ents = none → ∃
    t, exec (.qPopLo r q) s = .next t ∧ t.rdata = 0xC0 ∧ (t.psh q (reqIx r)).words = [] ∧ t =
    { s with regs := t.regs, queues := t.queues, pops := t.pops, free := t.free, rdata := t.rdata } ∧ ∀ a, a ≠ Reg.MOD_XREAD → ¬ (queueReg a = true) → rd
    t a = rd s a) ∧
  (∀ (s : State) (r : Req) (q : Fin 128), readServed s r = true → (s.psh q (reqIx r)).words ≠ [] → ∃ t, exec (.qPopHi r q) s = .next t ∧ t.rdata =
    (s.psh q (reqIx r)).words.getD 1 0 ∧ (t.psh q (reqIx r)).hiDone = true ∧ (t.psh q (reqIx r)).noLo = false ∧ (t.psh q (reqIx r)).newer = decide ((s.psh
    q (reqIx r)).seen < (s.queue q).wcnt) ∧ (t.psh q (reqIx r)).words = (s.psh q (reqIx r)).words ∧ t =
    { s with regs := t.regs, pops := t.pops, free := t.free, rdata := t.rdata } ∧ ∀ a, a ≠ Reg.MOD_XREAD → rd t a = rd s a) ∧
  (∀ (s : State) (r : Req) (q : Fin 128), readServed s r = true → (s.psh q (reqIx r)).words = [] → ∃ t, exec (.qPopHi r q) s = .next t ∧ t.rdata = 0 ∧
    t.psh q (reqIx r) = { s.psh q (reqIx r) with noLo := true, newer := false } ∧ t =
    { s with regs := t.regs, pops := t.pops, free := t.free, rdata := t.rdata } ∧ ∀ a, a ≠ Reg.MOD_XREAD → rd t a = rd s a) ∧
  (∀ (s : State) (r : Req) (q : Fin 128), readServed s r = true → (s.psh q (reqIx r)).pos < (s.psh q (reqIx r)).words.length → ∃ t, exec (.qPopStream r
    q) s = .next t ∧ t.rdata = (s.psh q (reqIx r)).words.getD (s.psh q (reqIx r)).pos 0 ∧ t.psh q (reqIx r) =
    { s.psh q (reqIx r) with pos := (s.psh q (reqIx r)).pos + 1, hiDone := (s.psh q (reqIx r)).hiDone || (s.psh q (reqIx r)).pos == 1 } ∧ t =
    { s with regs := t.regs, pops := t.pops, free := t.free, rdata := t.rdata } ∧ ∀ a, a ≠ Reg.MOD_XREAD → rd t a = rd s a) ∧
  (∀ (s : State) (r : Req) (q : Fin 128) (e : QEnt), readServed s r = true → (s.psh q (reqIx r)).words.length ≤ (s.psh q (reqIx r)).pos → s.is
    (.Q_CFG_HOST q) = true → qOn s q = true → popHead (s.queue q).ents = some e → entWords s q e ≠ [] → ∃ t, exec (.qPopStream r q) s = .next t ∧ t.rdata
    = (entWords s q e).getD 0 0 ∧ (t.psh q (reqIx r)).words = (if s.get (.Q_CFG_ESIZE q) = 5 then (entWords s q e).take 2 else entWords s q e) ∧ (t.psh q
    (reqIx r)).pos = 1) ∧
  (∀ (s : State) (r : Req) (q : Fin 128), readServed s r = true → (s.psh q (reqIx r)).words.length ≤ (s.psh q (reqIx r)).pos → s.is (.Q_CFG_HOST q) =
    false ∨ qOn s q = false ∨ popHead (s.queue q).ents = none → ∃ t, exec (.qPopStream r q) s = .next t ∧ t.rdata = 0xC0 ∧ (t.psh q (reqIx r)).words = [])

/-- The log engine of a region (R254 to R259): a scan checks the region, finds its newest sector or opens the first one, and has a RESUME record due;
a record or an erase becomes the region's job on S1; a finished program frees the engine, a finished erase is followed by the sector's header, a
failure puts the region into error. -/
def Obligations.FlashLogCommands : Prop :=
  (∀ (s : State) (r : Fin 8), logRuns s = true → (s.logr r).phase = 1 → sectCount s r = 0 → ∃ s', exec (.logScan r) s = .next s' ∧ s'.get
    (.LOG_STAT_STATE r) = 0 ∧ s'.logr r = {} ∧ s' = { s with regs := s'.regs, logs := s'.logs } ∧ ∀ a, a ≠ Reg.LOG_STAT r → a ≠ Reg.LOG_WPTR r → rd s' a =
    rd s a) ∧
  (∀ (s : State) (r : Fin 8), logRuns s = true → (s.logr r).phase = 1 → sectCount s r ≠ 0 → logError s r ≠ 0 → ∃ s', exec (.logScan r) s = .next s' ∧
    s'.get (.LOG_STAT_STATE r) = 4 ∧ s'.get (.LOG_STAT_ERR r) = logError s r ∧ s'.logr r = {} ∧ s' = { s with regs := s'.regs, logs := s'.logs } ∧ ∀ a, a
    ≠ Reg.LOG_STAT r → a ≠ Reg.LOG_WPTR r → rd s' a = rd s a) ∧
  (∀ (s : State) (r : Fin 8), logRuns s = true → (s.logr r).phase = 1 → sectCount s r ≠ 0 → logError s r = 0 → newestSector s r = none → ∃ s', exec
    (.logScan r) s = .next s' ∧ rd s' (Reg.LOG_SEQ r) = 0 ∧ (s'.logr r).phase = 4 ∧ (s'.logr r).job = some (.erase (sectAddr s r 0) (s.get
    (.LOG_SIZE_SLOG2 r))) ∧ s'.get (.LOG_STAT_SECTOR r) = 0 ∧ s' = { s with regs := s'.regs, logs := s'.logs, sp1 := s'.sp1 } ∧ ∀ a, a ≠ Reg.LOG_STAT r →
    a ≠ Reg.LOG_SEQ r → a ≠ Reg.LOG_WPTR r → a ≠ Reg.SP1_STAT → rd s' a = rd s a) ∧
  (∀ (s : State) (r : Fin 8) (i q : Nat), logRuns s = true → (s.logr r).phase = 1 → sectCount s r ≠ 0 → logError s r = 0 → newestSector s r = some (i,
    q) → (walk s r (sectAddr s r i) (sectBytes s r / 8) 0x20).2 = false → (walk s r (sectAddr s r i) (sectBytes s r / 8) 0x20).1 + 16 ≤ sectBytes s r → ∃
    s', exec (.logScan r) s = .next s' ∧ rd s' (Reg.LOG_SEQ r) = wd q ∧ s'.get (.LOG_STAT_SECTOR r) = i % 65536 ∧ (s'.logr r).phase = 3 ∧ (s'.logr
    r).resume = false ∧ ∃ a, (s'.logr r).job = some (.prog a (recBytes 0x81 (leBytes 8 (now s)))) ∧ s' =
    { s with regs := s'.regs, logs := s'.logs, sp1 := s'.sp1 } ∧ ∀ a, a ≠ Reg.LOG_STAT r → a ≠ Reg.LOG_SEQ r → a ≠ Reg.LOG_WPTR r → a ≠ Reg.SP1_STAT → rd
    s' a = rd s a) ∧
  (∀ (s : State) (r : Fin 8) (q : Fin 128) (tag : Nat) (body : List Byte) (takes missed : Bool) (part : Option (Nat × Nat × List Byte)), logRuns s =
    true → (s.logr r).phase = 2 → (s.logr r).resume = false → logNext s r q = .write tag body takes missed part → ∃ s', exec (.logRecordWrite r q) s =
    .next s' ∧ (s'.logr r).phase = 3 ∧ (s'.logr r).job = some (.prog (sectAddr s r (s.get (.LOG_STAT_SECTOR r)) + (s.logr r).off) (recBytes tag body)) ∧
    (s'.logr r).off = (s.logr r).off + (recBytes tag body).length ∧ (s'.logr r).part = part ∧ s' =
    { s with regs := s'.regs, logs := s'.logs, queues := s'.queues, sp1 := s'.sp1 } ∧ ∀ a, a ≠ Reg.LOG_STAT r → a ≠ Reg.LOG_WPTR r → a ≠ Reg.SP1_STAT → ¬
    (queueReg a = true) → rd s' a = rd s a) ∧
  (∀ (s : State) (r : Fin 8) (q : Fin 128), logRuns s = true → (s.logr r).phase = 2 → (s.logr r).resume = false → logNext s r q = .skipEntry → ∃ s',
    exec (.logRecordWrite r q) s = .next s' ∧ (s'.queue q).missed = (s.queue q).missed + 1 ∧ s'.logs = s.logs ∧ s' =
    { s with regs := s'.regs, queues := s'.queues } ∧ ∀ a, ¬ (queueReg a = true) → rd s' a = rd s a) ∧
  (∀ (s : State) (r : Fin 8) (q : Fin 128), logRuns s = false ∨ (s.logr r).phase ≠ 2 ∨ (s.logr r).resume = true ∨ logNext s r q = .nothing ∨ logNext s r
    q = .openSector → exec (.logRecordWrite r q) s = .next s) ∧
  (∀ (s : State) (r : Fin 8) (q : Fin 128), logRuns s = true → (s.logr r).phase = 2 → (s.logr r).resume = false → logNext s r q = .openSector → ∃ s',
    exec (.logSectorOpen r q) s = .next s' ∧ (s'.logr r).phase = 4 ∧ (s'.logr r).job = some (.erase (sectAddr s r (if (s.logr r).fresh then 0 else (s.get
    (.LOG_STAT_SECTOR r) + 1) % max 1 (sectCount s r))) (s.get (.LOG_SIZE_SLOG2 r))) ∧ s' = { s with regs := s'.regs, logs := s'.logs, sp1 := s'.sp1 } ∧ ∀
    a, a ≠ Reg.LOG_STAT r → a ≠ Reg.LOG_WPTR r → a ≠ Reg.SP1_STAT → rd s' a = rd s a) ∧
  (∀ (s : State) (r : Fin 8) (q : Fin 128), logRuns s = false ∨ (s.logr r).phase ≠ 2 ∨ ((s.logr r).resume = false ∧ logNext s r q ≠ .openSector) → exec
    (.logSectorOpen r q) s = .next s) ∧
  (∀ (s : State) (r : Fin 8) (a : Nat) (l : List Byte), (s.logr r).job = some (.prog a l) → (s.logr r).phase ≠ 4 → (s.logr r).rescan = false → (s.logr
    r).resume = false → s1Run s (s.logr r).cs = 1 + r.val → ∃ s', exec (.logFlashDone r true) s = .next s' ∧ (s'.logr r).phase = 2 ∧ (s'.logr r).job =
    none ∧ s'.flash = (flashProg (s.logr r).cs a l s).flash ∧ s' = { s with regs := s'.regs, flash := s'.flash, logs := s'.logs, sp1 := s'.sp1 } ∧ ∀ a, a
    ≠ Reg.LOG_STAT r → a ≠ Reg.LOG_WPTR r → a ≠ Reg.SP1_STAT → rd s' a = rd s a) ∧
  (∀ (s : State) (r : Fin 8) (a n : Nat), (s.logr r).job = some (.erase a n) → (s.logr r).phase = 4 → (s.logr r).rescan = false → s1Run s (s.logr r).cs
    = 1 + r.val → ∃ s', exec (.logFlashDone r true) s = .next s' ∧ (s'.logr r).phase = 5 ∧ rd s' (Reg.LOG_SEQ r) = (if (s.logr r).fresh then 0 else rd s
    (Reg.LOG_SEQ r) + 1) ∧ (s'.logr r).job = some (.prog (sectAddr s r (s.get (.LOG_STAT_SECTOR r))) (sectHeader s r (rd s' (Reg.LOG_SEQ r)).toNat)) ∧
    s'.flash = (flashErase (s.logr r).cs a (2 ^ n) s).flash ∧ s' = { s with regs := s'.regs, flash := s'.flash, logs := s'.logs, sp1 := s'.sp1 } ∧ ∀ a, a
    ≠ Reg.LOG_STAT r → a ≠ Reg.LOG_SEQ r → a ≠ Reg.LOG_WPTR r → a ≠ Reg.SP1_STAT → rd s' a = rd s a) ∧
  (∀ (s : State) (r : Fin 8) (j : FlashJob), (s.logr r).job = some j → (s.logr r).rescan = false → s1Run s (s.logr r).cs = 1 + r.val → ∃ s', exec
    (.logFlashDone r false) s = .next s' ∧ s'.get (.LOG_STAT_STATE r) = 4 ∧ s'.get (.LOG_STAT_ERR r) = (if (s.logr r).phase = 4 then 4 else 3) ∧ s'.get
    (.LOG_CNT_FAIL r) = min (s.get (.LOG_CNT_FAIL r) + 1) (FldRef.max (.LOG_CNT_FAIL r)) ∧ s'.logr r = {} ∧ s' =
    { s with regs := s'.regs, flash := s'.flash, free := s'.free, logs := s'.logs, pw := s'.pw, sp1 := s'.sp1 } ∧ ∀ a, a ≠ Reg.LOG_STAT r → a ≠
    Reg.LOG_CNT r → a ≠ Reg.LOG_WPTR r → a ≠ Reg.SP1_STAT → rd s' a = rd s a) ∧
  (∀ (s : State) (r : Fin 8) (ok : Bool), (s.logr r).job = none ∨ s1Run s (s.logr r).cs ≠ 1 + r.val → exec (.logFlashDone r ok) s = .next s)

/-- The time unit (R262 to R276): rate writes are limited, steps and epochs move TU_NOW by what is asked, modulo 2^64 and with the fraction kept, a
source change goes to acquiring, a pulse gives an offset and steers the rate, the lack of samples gives holdover. -/
def Obligations.TimeSettings : Prop :=
  (∀ (s : State) (r : Req) (w : Word), Admitted s r Reg.TU_RATE Msk.TU_RATE → s.get .TU_STAT_SRC_EFF = 0 → ∃ t, exec (.tuRateWrite r w) s = .next t ∧
    rateOf t = clampI (-2000000) 2000000 (sext 32 w.toNat) ∧ t.is .TU_STAT_CLAMPED = decide (clampI (-2000000) 2000000 (sext 32 w.toNat) ≠ sext 32
    w.toNat) ∧ t = { s with regs := t.regs } ∧ ∀ a, a ≠ Reg.TU_RATE → a ≠ Reg.TU_STAT → rd t a = rd s a) ∧
  (∀ (s : State) (r : Req) (w : Word), Admitted s r Reg.TU_RATE Msk.TU_RATE → s.get .TU_STAT_SRC_EFF ≠ 0 → exec (.tuRateWrite r w) s = .next (s.set1
    .TU_STAT_SET_DENIED)) ∧
  (∀ (s : State) (r : Req) (w : Word), Admitted s r Reg.TU_STEP Msk.TU_STEP → stepAllowed s = true → w ≠ 0 → ∃ t, exec (.tuStep r w) s = .next t ∧ (now
    t : Int) = ((now s : Int) + sext 32 w.toNat) % 2 ^ 64 ∧ t.tu.acc % 2 ^ 32 = s.tu.acc % 2 ^ 32 ∧ t.is .TU_STAT_STEPPED = true ∧ t.get .TU_STAT_STEP_CNT
    = min (s.get .TU_STAT_STEP_CNT + 1) (FldRef.max .TU_STAT_STEP_CNT) ∧ t.tu.first = true ∧ t =
    { s with regs := t.regs, tu := t.tu, ca := t.ca, chains := t.chains, tiles := t.tiles } ∧ ∀ a, a ≠ Reg.TU_STAT → a ≠ Reg.CA_SYNC_INFO → rd t a = rd s
    a) ∧
  (∀ (s : State) (r : Req), Admitted s r Reg.TU_STEP Msk.TU_STEP → stepAllowed s = true → exec (.tuStep r 0) s = .next s) ∧
  (∀ (s : State) (r : Req) (w : Word), Admitted s r Reg.TU_STEP Msk.TU_STEP → stepAllowed s = false → exec (.tuStep r w) s = .next (s.set1
    .TU_STAT_SET_DENIED)) ∧
  (∀ (s : State) (r : Req) (w : Word), Admitted s r (Reg.TU_SET 1) Msk.TU_SET → stepAllowed s = true → ∃ t, exec (.tuSet r w) s = .next t ∧ now t =
    commit64 s r (Reg.TU_SET 0) w ∧ t.tu.acc % 2 ^ 32 = s.tu.acc % 2 ^ 32 ∧ t.get64 (Reg.TU_SET 0) = commit64 s r (Reg.TU_SET 0) w ∧ t.is
    .TU_STAT_EPOCH_SET = true ∧ t.wshOf (reqIx r) = ⟨0, []⟩ ∧ t =
    { s with regs := t.regs, tu := t.tu, ca := t.ca, chains := t.chains, tiles := t.tiles, wsh := t.wsh } ∧ ∀ a, a ≠ Reg.TU_SET 0 → a ≠ Reg.TU_SET 1 → a ≠
    Reg.TU_STAT → a ≠ Reg.CA_SYNC_INFO → rd t a = rd s a) ∧
  (∀ (s : State) (r : Req) (w : Word), Admitted s r (Reg.TU_SET 1) Msk.TU_SET → stepAllowed s = false → exec (.tuSet r w) s = .next ((shadowDrop r
    s).set1 .TU_STAT_SET_DENIED)) ∧
  (∀ (s : State) (r : Req) (w : Word), Admitted s r Reg.TU_SRC Msk.TU_SRC → bits w (FldRef.TU_SRC_SRC).hi (FldRef.TU_SRC_SRC).lo ≠ s.get
    .TU_STAT_SRC_EFF → ∃ t, exec (.tuSourceChange r w) s = .next t ∧ t.get .TU_STAT_SRC_EFF = bits w (FldRef.TU_SRC_SRC).hi (FldRef.TU_SRC_SRC).lo ∧ t.get
    .TU_STAT_STATE = (if t.get .TU_STAT_SRC_EFF = 0 then 0 else 1) ∧ t.get .TU_OFFSET_OFF = 0 ∧ t.tu.first = true ∧ now t = now s ∧ clk t = clk s ∧ t =
    { s with regs := t.regs, tu := t.tu } ∧ ∀ a, a ≠ Reg.TU_SRC → a ≠ Reg.TU_STAT → a ≠ Reg.TU_OFFSET → rd t a = rd s a) ∧
  (∀ (s : State) (r : Req) (w : Word), Admitted s r Reg.TU_SRC Msk.TU_SRC → bits w (FldRef.TU_SRC_SRC).hi (FldRef.TU_SRC_SRC).lo = s.get
    .TU_STAT_SRC_EFF → exec (.tuSourceChange r w) s = .next (wr Reg.TU_SRC (storedWord Msk.TU_SRC (rd s Reg.TU_SRC) w) s)) ∧
  (∀ (s : State), s.get .TU_STAT_SRC_EFF = 3 → servoRuns s = true → ppsOutside s (ppsOff s (now s)) = false → ∃ t, exec .ppsEdge s = .next t ∧ t.get
    .TU_OFFSET_OFF = toU 32 (ppsOff s (now s)) ∧ t.tu.lastSample = clk s ∧ t =
    { s with regs := t.regs, tu := t.tu, ca := t.ca, chains := t.chains, tiles := t.tiles } ∧ ∀ a, a ≠ Reg.TU_STAT → a ≠ Reg.TU_OFFSET → a ≠ Reg.TU_RATE →
    a ≠ Reg.CA_SYNC_INFO → rd t a = rd s a) ∧
  (∀ (s : State) (off : Int) (m : Int × Int), s.get .TU_STAT_SRC_EFF = 3 → servoRuns s = true → off = ppsOff s (now s) → ppsOutside s off = false →
    s.get .TU_SERVO_STEP_THR = 0 ∨ off.natAbs ≤ s.get .TU_SERVO_STEP_THR * 256 → s.tu.first = false → m = servoMath s.tu.base s.tu.offPrev (rateOf s) off
    49152000 (s.get .TU_SERVO_PSH) (s.get .TU_SERVO_FSH) 0 0 → ∃ t, exec .ppsEdge s = .next t ∧ rateOf t = clampI (-2000000) 2000000 m.2 ∧ t.tu.base = m.1
    ∧ t.tu.offPrev = off ∧ now t = now s) ∧
  (∀ (s : State), s.get .TU_STAT_SRC_EFF ≠ 3 ∨ servoRuns s = false ∨ ppsOutside s (ppsOff s (now s)) = true → exec .ppsEdge s = .next s) ∧
  (∀ (s : State), s.get .TU_STAT_STATE = 2 → servoRuns s = true → s.tu.lastSample + holdTicks s ≤ clk s → ∃ t, exec .holdoverTimeout s = .next t ∧ t.get
    .TU_STAT_STATE = 3 ∧ rateOf t = clampI (-2000000) 2000000 s.tu.base ∧ t.tu = { s.tu with first := true, lockRun := 0 } ∧ t =
    { s with regs := t.regs, tu := t.tu } ∧ ∀ a, a ≠ Reg.TU_STAT → a ≠ Reg.TU_RATE → rd t a = rd s a) ∧
  (∀ (s : State), s.get .TU_STAT_STATE ≠ 2 ∨ servoRuns s = false ∨ clk s < s.tu.lastSample + holdTicks s → exec .holdoverTimeout s = .next s)

/-- Schedules (R280) recompute their next instant from the settings; at an instant NEXT moves on by whole periods and the kind's action happens; a
token command's token takes effect in the module itself too. That a SYNC is raised up to four modulator periods ahead of its instant is the model's
reading (assumption log 59). -/
def Obligations.ScheduleCommands : Prop :=
  (∀ (s : State) (r : Req) (j : Fin 16) (w : Word), Admitted s r (Reg.TU_SCH_PER j 1) Msk.TU_SCH_PER → ∃ t, exec (.scheduleWrite r j .per w) s = .next t
    ∧ schPer t j = commit64 s r (Reg.TU_SCH_PER j 0) w ∧ schNext t j = (if schActive t j then instantAfter (schPer t j) (schPhase t j) (if schToken t j
    then now s + leadTicks s - 1 else now s) else 0) % 2 ^ 64 ∧ t = { s with regs := t.regs, wsh := t.wsh } ∧ ∀ a, a ≠ Reg.TU_SCH_CFG j → a ≠
    Reg.TU_SCH_PER j 0 → a ≠ Reg.TU_SCH_PER j 1 → a ≠ Reg.TU_SCH_NEXT j 0 → a ≠ Reg.TU_SCH_NEXT j 1 → rd t a = rd s a) ∧
  (∀ (s : State) (r : Req) (j : Fin 16) (w : Word), Admitted s r (Reg.TU_SCH_PHASE j 1) Msk.TU_SCH_PHASE → ∃ t, exec (.scheduleWrite r j .phase w) s =
    .next t ∧ schPhase t j = commit64 s r (Reg.TU_SCH_PHASE j 0) w ∧ schNext t j = (if schActive t j then instantAfter (schPer t j) (schPhase t j) (if
    schToken t j then now s + leadTicks s - 1 else now s) else 0) % 2 ^ 64 ∧ t = { s with regs := t.regs, wsh := t.wsh } ∧ ∀ a, a ≠ Reg.TU_SCH_CFG j → a ≠
    Reg.TU_SCH_PHASE j 0 → a ≠ Reg.TU_SCH_PHASE j 1 → a ≠ Reg.TU_SCH_NEXT j 0 → a ≠ Reg.TU_SCH_NEXT j 1 → rd t a = rd s a) ∧
  (∀ (s : State) (r : Req) (j : Fin 16) (w : Word), Admitted s r (Reg.TU_SCH_CFG j) Msk.TU_SCH_CFG → ∃ t, exec (.scheduleWrite r j .cfg w) s = .next t ∧
    schKind t j = bits w (FldRef.TU_SCH_CFG_KIND j).hi (FldRef.TU_SCH_CFG_KIND j).lo ∧ t.get (.TU_SCH_CFG_ARG j) = bits w (FldRef.TU_SCH_CFG_ARG j).hi
    (FldRef.TU_SCH_CFG_ARG j).lo ∧ (schKind t j = schKind s j → schNext t j = schNext s j) ∧ (schKind t j ≠ schKind s j → schNext t j = (if schActive t j
    then instantAfter (schPer t j) (schPhase t j) (if schToken t j then now s + leadTicks s - 1 else now s) else 0) % 2 ^ 64) ∧ t =
    { s with regs := t.regs } ∧ ∀ a, a ≠ Reg.TU_SCH_CFG j → a ≠ Reg.TU_SCH_NEXT j 0 → a ≠ Reg.TU_SCH_NEXT j 1 → rd t a = rd s a) ∧
  (∀ (s : State) (j : Fin 16), schActive s j = true → schKind s j = 1 → acqRuns s = true → s.is .CA_CFG_SYNC_SCHED_EN = true → now s + 2 * per s ≤
    schNext s j → schNext s j ≤ now s + 4 * per s → schNext s j + schPer s j < 2 ^ 64 → ∃ t, exec (.scheduleFire j) s = .next t ∧ schNext t j = schNext s
    j + schPer s j ∧ t.ca.syncs = s.ca.syncs ++ [{ src := srcSched, edge := edgeAt s (schNext s j) }] ∧ t.get (.TU_SCH_MISS_MISS j) = s.get
    (.TU_SCH_MISS_MISS j) ∧ t = { s with regs := t.regs, ca := t.ca } ∧ ∀ a, a ≠ Reg.TU_SCH_NEXT j 0 → a ≠ Reg.TU_SCH_NEXT j 1 → a ≠ Reg.TU_SCH_MISS j →
    rd t a = rd s a) ∧
  (∀ (s : State) (j : Fin 16), schActive s j = true → schKind s j = 1 → acqRuns s = true → s.is .CA_CFG_SYNC_SCHED_EN = true → schNext s j < now s + 2 *
    per s → now s + schPer s j < 2 ^ 64 → ∃ t, exec (.scheduleFire j) s = .next t ∧ schNext t j = schNext s j + ((now s - schNext s j) / schPer s j + 1) *
    schPer s j ∧ t.ca.syncs = s.ca.syncs ++ [{ src := srcSched, edge := edgeAt s (now s + 2 * per s), late := true }] ∧ t.get (.TU_SCH_MISS_MISS j) = min
    (s.get (.TU_SCH_MISS_MISS j) + (now s - schNext s j) / schPer s j) (FldRef.max (.TU_SCH_MISS_MISS j)) ∧ t = { s with regs := t.regs, ca := t.ca } ∧ ∀
    a, a ≠ Reg.TU_SCH_NEXT j 0 → a ≠ Reg.TU_SCH_NEXT j 1 → a ≠ Reg.TU_SCH_MISS j → rd t a = rd s a) ∧
  (∀ (s : State) (j : Fin 16), schActive s j = true → schKind s j = 2 ∨ schKind s j = 3 → s.pw.power ≠ 4 → tokenSource s = true → schNext s j ≤ now s +
    leadTicks s → now s + schPer s j < 2 ^ 64 → schNext s j + schPer s j < 2 ^ 64 → ∃ t, exec (.scheduleFire j) s = .next t ∧ schNext t j = schNext s j +
    ((now s - schNext s j) / schPer s j + 1) * schPer s j ∧ t.tu.seen = ⟨schKind s j - 1, s.get (.TU_SCH_CFG_ARG j), schNext s j⟩ :: s.tu.seen ∧ t.get
    (.TU_SCH_CFG_ARG j) = (if schKind s j = 3 then (s.get (.TU_SCH_CFG_ARG j) + 1) % 65536 else s.get (.TU_SCH_CFG_ARG j))) ∧
  (∀ (s : State) (j : Fin 16), schActive s j = true → schKind s j = 5 → schNext s j ≤ now s → now s + schPer s j < 2 ^ 64 → ∃ t, exec (.scheduleFire j)
    s = .next t ∧ t.is (.TU_SCH_CFG_FIRED j) = true ∧ schNext t j = schNext s j + ((now s - schNext s j) / schPer s j + 1) * schPer s j) ∧
  (∀ (s : State) (j : Fin 16) (c : Nat), schActive s j = true → schKind s j = 4 → s.pw.power ≠ 4 → schNext s j ≤ now s → now s + schPer s j < 2 ^ 64 → c
    < 160 → enabledCtxs s = [c] → s.is (.CTX_CFG_EN c) = true → s.is (.CTX_TRIG_SCH_EN c) = true → s.get (.CTX_TRIG_SCH c) = j.val → s.get
    (.CTX_TRIG_PEN_EN c) = 0 → s.get (.CTX_TRIG_DI_EN c) = 0 → s.get (.CTX_TRIG_CMP_EN c) = 0 → ctxsHeld s = false → s.get (.CTX_STAT_STATE c) = stIdle →
    ∃ t, exec (.scheduleFire j) s = .next t ∧ schNext t j = schNext s j + ((now s - schNext s j) / schPer s j + 1) * schPer s j ∧ t.get (.CTX_STAT_STATE
    c) = stReady ∧ (t.ctx c).pc = s.get (.CTX_PROG_PROG c)) ∧
  (∀ (s : State) (j : Fin 16), schActive s j = true → schKind s j ≤ 3 → s.pw.power = 4 → schNext s j ≤ now s → now s + schPer s j < 2 ^ 64 → ∃ t, exec
    (.scheduleFire j) s = .next t ∧ schNext t j = schNext s j + ((now s - schNext s j) / schPer s j + 1) * schPer s j ∧ t.get (.TU_SCH_MISS_MISS j) = min
    (s.get (.TU_SCH_MISS_MISS j) + (now s - schNext s j) / schPer s j + 1) (FldRef.max (.TU_SCH_MISS_MISS j)) ∧ t = { s with regs := t.regs } ∧ ∀ a, a ≠
    Reg.TU_SCH_NEXT j 0 → a ≠ Reg.TU_SCH_NEXT j 1 → a ≠ Reg.TU_SCH_MISS j → rd t a = rd s a) ∧
  (∀ (s : State) (j : Fin 16), schActive s j = false ∨ now s + leadTicks s + 4 * per s < schNext s j → exec (.scheduleFire j) s = .next s) ∧
  (∀ (s : State) (r : Req) (w : Word) (k : Token), Admitted s r Reg.TU_TOKEN Msk.TU_TOKEN → bitAt w 0 = true → bits w 2 1 = 1 ∨ bits w 2 1 = 2 →
    tokenSource s = true → k = ⟨bits w 2 1, bits w 31 16, if s.get64 (Reg.TU_TOKEN_TGT 0) < now s + leadTicks s then (now s + leadTicks s + 63) / 64 * 64
    else s.get64 (Reg.TU_TOKEN_TGT 0)⟩ → ∃ t, exec (.tuTokenGo r w) s = .next t ∧ t.tu.seen = k :: s.tu.seen ∧ t.tu.out = (if ringTrained s then s.tu.out
    ++ [(k, k.tgt - leadTicks s, 0)] else s.tu.out)) ∧
  (∀ (s : State) (r : Req) (w : Word), Admitted s r Reg.TU_TOKEN Msk.TU_TOKEN → bitAt w 0 = false ∨ bits w 2 1 = 0 ∨ bits w 2 1 = 3 ∨ tokenSource s =
    false → exec (.tuTokenGo r w) s = .next s)

/-- A port's mode, its integration, and sleep (R291, R318 to R320). A port asleep wakes by the host, an edge, or a frame that matches a wake filter
(R319). -/
def Obligations.CanModes : Prop :=
  (∀ (s : State) (p : Fin 4), (s.can p).mode = 0 → s.get (.CAN_CFG_MODE p) ≠ 0 → canBusy s p = false → ∃ t, exec (.canModeChange p) s = .next t ∧ t.can
    p = { s.can p with mode := s.get (.CAN_CFG_MODE p) } ∧ t.is (.CAN_STAT_INTEG p) = true ∧ (List.range 32).all (fun b => !t.is (.LVB_STAT_VALID p b)) =
    true ∧ t = { s with regs := t.regs, cans := t.cans } ∧ ∀ a, a ≠ Reg.CAN_STAT p → ¬ ((List.range 32).any (fun b => a == Reg.LVB_STAT p b) = true) → rd
    t a = rd s a) ∧
  (∀ (s : State) (p : Fin 4), (s.can p).mode ≠ 0 → s.get (.CAN_CFG_MODE p) ≠ (s.can p).mode → canBusy s p = false → exec (.canModeChange p) s = .next
    ((if s.get (.CAN_CFG_MODE p) = 0 then s.put (.CAN_STAT_INTEG p) 0 else s).modCan p (fun c => { c with mode := s.get (.CAN_CFG_MODE p) }))) ∧
  (∀ (s : State) (p : Fin 4), s.get (.CAN_CFG_MODE p) = (s.can p).mode ∨ canBusy s p = true → exec (.canModeChange p) s = .next s) ∧
  (∀ (s : State) (p : Fin 4), exec (.canIntegrated p) s = .next (s.put (.CAN_STAT_INTEG p) 0)) ∧
  (∀ (s : State) (r : Req) (p : Fin 4) (w : Word), Admitted s r (Reg.CAN_SLEEP p) Msk.CAN_SLEEP → s.is (.CAN_STAT_ASLEEP p) = false → canBusy s p =
    false → bitAt w (FldRef.CAN_SLEEP_FLUSH p).lo = false → ∃ t, exec (.canSleepRequest r p w) s = .next t ∧ t.is (.CAN_STAT_ASLEEP p) = true ∧ t.get
    (.CAN_WAKE_STAT_CAUSE p) = 0 ∧ t.can p = { s.can p with sleepPend := false } ∧ t = { queuedFrom s t with cans := t.cans } ∧ ∀ a, queueReg a = false →
    ¬ (canReg p a = true) → rd t a = rd s a) ∧
  (∀ (s : State) (r : Req) (p : Fin 4) (w : Word), Admitted s r (Reg.CAN_SLEEP p) Msk.CAN_SLEEP → s.is (.CAN_STAT_ASLEEP p) = false → canBusy s p =
    false → bitAt w (FldRef.CAN_SLEEP_FLUSH p).lo = true → ∃ t, exec (.canSleepRequest r p w) s = .next t ∧ t.is (.CAN_STAT_ASLEEP p) = true ∧ t.get
    (.CAN_WAKE_STAT_CAUSE p) = 0 ∧ (t.can p).txq = [] ∧ t = { eventsFrom s t with cans := t.cans, tu := t.tu } ∧ ∀ a, eventReg a = false → ¬ (canReg p a =
    true) → rd t a = rd s a) ∧
  (∀ (s : State) (r : Req) (p : Fin 4) (w : Word), Admitted s r (Reg.CAN_SLEEP p) Msk.CAN_SLEEP → s.is (.CAN_STAT_ASLEEP p) = false → canBusy s p = true
    → exec (.canSleepRequest r p w) s = .next ((store (Reg.CAN_SLEEP p) Msk.CAN_SLEEP (setBits w 31 31 1) s).modCan p (fun c =>
    { c with sleepPend := true }))) ∧
  (∀ (s : State) (r : Req) (p : Fin 4) (w : Word), Admitted s r (Reg.CAN_SLEEP p) Msk.CAN_SLEEP → s.is (.CAN_STAT_ASLEEP p) = true → exec
    (.canSleepRequest r p w) s = .next (store (Reg.CAN_SLEEP p) Msk.CAN_SLEEP (setBits w 31 31 1) s)) ∧
  (∀ (s : State) (r : Req) (p : Fin 4) (w : Word), Admitted s r (Reg.CAN_SLEEP p) Msk.CAN_SLEEP → s.is (.CAN_STAT_ASLEEP p) = true → ∃ t, exec
    (.canWakeHost r p w) s = .next t ∧ t.is (.CAN_STAT_ASLEEP p) = false ∧ t.get (.CAN_WAKE_STAT_CAUSE p) = 3 ∧ t.is (.CAN_STAT_INTEG p) = decide ((s.can
    p).mode ≠ 0) ∧ (s.pw.power ≠ 3 → t = { queuedFrom s t with cans := t.cans, pw := t.pw } ∧ ∀ a, queueReg a = false → ¬ (canReg p a = true) → rd t a =
    rd s a)) ∧
  (∀ (s : State) (r : Req) (p : Fin 4) (w : Word), Admitted s r (Reg.CAN_SLEEP p) Msk.CAN_SLEEP → s.is (.CAN_STAT_ASLEEP p) = false → exec (.canWakeHost
    r p w) s = .next ((store (Reg.CAN_SLEEP p) Msk.CAN_SLEEP (setBits w 31 31 0) s).modCan p (fun c => { c with sleepPend := false }))) ∧
  (∀ (s : State) (p : Fin 4), s.is (.CAN_STAT_ASLEEP p) = true → s.get (.CAN_SLEEP_WAKE_MODE p) % 2 = 1 → ∃ t, exec (.canWakeEdge p) s = .next t ∧ t.is
    (.CAN_STAT_ASLEEP p) = false ∧ t.get (.CAN_WAKE_STAT_CAUSE p) = 1 ∧ t.is (.CAN_STAT_INTEG p) = decide ((s.can p).mode ≠ 0) ∧ (s.pw.power ≠ 3 → t =
    { queuedFrom s t with pw := t.pw } ∧ ∀ a, queueReg a = false → ¬ (canReg p a = true) → rd t a = rd s a)) ∧
  (∀ (s : State) (p : Fin 4), s.is (.CAN_STAT_ASLEEP p) = false ∨ s.get (.CAN_SLEEP_WAKE_MODE p) % 2 = 0 → exec (.canWakeEdge p) s = .next s) ∧
  (∀ (s : State) (p : Fin 4) (x : Frame) (i : Nat), s.is (.CAN_STAT_ASLEEP p) = true → s.get (.CAN_SLEEP_WAKE_MODE p) = 2 → frameOk x = true → bits
    x.idw 31 30 = 0 → x.rtr = false → (List.range 4).find? (fun i => wakeMatch s p i x) = some i → ∃ t, exec (.canWakeFrame p x) s = .next t ∧ t.is
    (.CAN_STAT_ASLEEP p) = false ∧ t.get (.CAN_WAKE_STAT_CAUSE p) = 2 ∧ t.get (.CAN_WAKE_STAT_FILTER p) = i ∧ rd t (Reg.CAN_WAKE_FRAME p 0) = x.idw ∧ t.is
    (.CAN_STAT_INTEG p) = decide ((s.can p).mode ≠ 0) ∧ (s.pw.power ≠ 3 → t = { queuedFrom s t with pw := t.pw } ∧ ∀ a, queueReg a = false → ¬ (canReg p a
    = true) → rd t a = rd s a)) ∧
  (∀ (s : State) (p : Fin 4) (x : Frame), s.is (.CAN_STAT_ASLEEP p) = false ∨ s.get (.CAN_SLEEP_WAKE_MODE p) ≠ 2 ∨ frameOk x = false ∨ bits x.idw 31 30
    ≠ 0 ∨ x.rtr = true ∨ (List.range 4).find? (fun i => wakeMatch s p i x) = none → exec (.canWakeFrame p x) s = .next s)

/-- Receiving (R297 to R302, R311): a port that takes part counts the frame and sends it where its filters say. How much REC grows at an error, and
that it ends between 119 and 127 when it falls from 128 or more, are rules of ISO 11898-1 that the spec refers to and the model takes from there
(assumption log 26). -/
def Obligations.CanReceiving : Prop :=
  (∀ (s : State) (p : Fin 4) (x : Frame), canRuns s p = true → (s.can p).mode = 1 ∨ (s.can p).mode = 2 → s.get (.CAN_STAT_ERR_STATE p) ≠ 2 → frameOk x =
    true → canDecodes s p x = true → ∃ t, exec (.canFrameReceive p x) s = .next t ∧ t.get (.CAN_FRCNT_RX p) = min (s.get (.CAN_FRCNT_RX p) + 1)
    (FldRef.max (.CAN_FRCNT_RX p)) ∧ t.is (.CAN_STAT_ALONE p) = false ∧ ((s.can p).mode = 2 → t.get (.CAN_ERRCNT_REC p) = s.get (.CAN_ERRCNT_REC p)) ∧
    ((s.can p).mode = 1 → s.get (.CAN_ERRCNT_REC p) < 128 → t.get (.CAN_ERRCNT_REC p) = s.get (.CAN_ERRCNT_REC p) - 1) ∧ ((s.can p).mode = 1 → 128 ≤ s.get
    (.CAN_ERRCNT_REC p) → 119 ≤ t.get (.CAN_ERRCNT_REC p) ∧ t.get (.CAN_ERRCNT_REC p) ≤ 127)) ∧
  (∀ (s : State) (p : Fin 4) (x : Frame), canRuns s p = true → (s.can p).mode = 1 ∨ (s.can p).mode = 2 → s.get (.CAN_STAT_ERR_STATE p) ≠ 2 → frameOk x =
    true → canDecodes s p x = true → enabledCtxs s = [] → (deliveries s p x).all (fun d => d.1 != 3) = true → ∃ t, exec (.canFrameReceive p x) s = .next t
    ∧ t.can p = { t.can p with mode := (s.can p).mode } ∧ t = { eventsFrom s t with cans := t.cans, tu := t.tu, free := t.free } ∧ ∀ a, eventReg a = false
    → ¬ (canReg p a = true) → rd t a = rd s a) ∧
  (∀ (s : State) (p : Fin 4) (x : Frame) (f : Nat), canRuns s p = true → (s.can p).mode = 1 ∨ (s.can p).mode = 2 → s.get (.CAN_STAT_ERR_STATE p) ≠ 2 →
    frameOk x = true → canDecodes s p x = true → deliveries s p x = [(0, 0, f, false)] → s.is (.CAN_RXQ_EN0 p) = true → rxqBad s (s.get (.CAN_RXQ_Q0 p)) =
    true → ∃ t, exec (.canFrameReceive p x) s = .next t ∧ t.is (.CAN_STAT_RX_LOST p) = true) ∧
  (∀ (s : State) (p : Fin 4) (x : Frame), canRuns s p = false ∨ ((s.can p).mode ≠ 1 ∧ (s.can p).mode ≠ 2) ∨ s.get (.CAN_STAT_ERR_STATE p) = 2 ∨ frameOk
    x = false ∨ canDecodes s p x = false → exec (.canFrameReceive p x) s = .next s) ∧
  (∀ (s : State) (p : Fin 4) (e : CanErr) (xl d : Bool), s.is (.CAN_STAT_ASLEEP p) = true → exec (.canRxError p e xl d) s = .next (if d then s else
    s.addSat (.CAN_WAKE_STAT_BAD_CNT p) 1)) ∧
  (∀ (s : State) (p : Fin 4) (e : CanErr) (xl d : Bool), s.is (.CAN_STAT_ASLEEP p) = false → canRuns s p = false ∨ (s.can p).mode = 3 ∨ s.get
    (.CAN_STAT_ERR_STATE p) = 2 → exec (.canRxError p e xl d) s = .next s) ∧
  (∀ (s : State) (p : Fin 4) (e : CanErr) (xl : Bool), canRuns s p = true → (s.can p).mode ≠ 3 → s.get (.CAN_STAT_ERR_STATE p) ≠ 2 → s.is (.CAN_CFG_PXD
    p) = false → ∃ t, exec (.canRxError p e xl true) s = .next t ∧ t.get (.CAN_LASTERR_PX_CNT p) = min (s.get (.CAN_LASTERR_PX_CNT p) + 1) (FldRef.max
    (.CAN_LASTERR_PX_CNT p)) ∧ t.is (.CAN_STAT_INTEG p) = true ∧ rd t (Reg.CAN_ERRCNT p) = rd s (Reg.CAN_ERRCNT p) ∧ (enabledCtxs s = [] → t =
    { eventsFrom s t with cans := t.cans, tu := t.tu } ∧ ∀ a, eventReg a = false → ¬ (canReg p a = true) → rd t a = rd s a)) ∧
  (∀ (s : State) (p : Fin 4) (e : CanErr) (xl d : Bool), canRuns s p = true → (s.can p).mode = 1 → s.get (.CAN_STAT_ERR_STATE p) ≠ 2 → d = false ∨ s.is
    (.CAN_CFG_PXD p) = true → xlSilent s p (if xl then 0xC0000000 else 0) e = false → ∃ t, exec (.canRxError p e xl d) s = .next t ∧ t.get
    (.CAN_ERRCNT_REC p) = min (s.get (.CAN_ERRCNT_REC p) + (1 + 8 * (b2n e.dominant + e.runs))) (FldRef.max (.CAN_ERRCNT_REC p)) ∧ t.get
    (.CAN_STAT_ERR_STATE p) = errStateOf (s.get (.CAN_ERRCNT_TEC p)) (t.get (.CAN_ERRCNT_REC p)) ∧ t.get (.CAN_LASTERR_LEC p) = e.lec.val + 1 ∧ t.get
    (.CAN_LASTERR_ERR_CNT p) = min (s.get (.CAN_LASTERR_ERR_CNT p) + 1) (FldRef.max (.CAN_LASTERR_ERR_CNT p)) ∧ (enabledCtxs s = [] → t =
    { eventsFrom s t with cans := t.cans, tu := t.tu } ∧ ∀ a, eventReg a = false → ¬ (canReg p a = true) → rd t a = rd s a)) ∧
  (∀ (s : State) (p : Fin 4) (e : CanErr) (xl d : Bool), canRuns s p = true → (s.can p).mode ≠ 3 → s.get (.CAN_STAT_ERR_STATE p) ≠ 2 → d = false ∨ s.is
    (.CAN_CFG_PXD p) = true → xlSilent s p (if xl then 0xC0000000 else 0) e = true → ∃ t, exec (.canRxError p e xl d) s = .next t ∧ t.is (.CAN_STAT_INTEG
    p) = true ∧ t.get (.CAN_LASTERR_LEC p) = e.lec.val + 1 ∧ (enabledCtxs s = [] → t = { eventsFrom s t with cans := t.cans, tu := t.tu, free := t.free }
    ∧ ∀ a, eventReg a = false → ¬ (canReg p a = true) → rd t a = rd s a)) ∧
  (∀ (s : State) (p : Fin 4) (e : CanErr) (xl d : Bool), canRuns s p = true → (s.can p).mode = 2 → s.get (.CAN_STAT_ERR_STATE p) ≠ 2 → d = false ∨ s.is
    (.CAN_CFG_PXD p) = true → ∃ t, exec (.canRxError p e xl d) s = .next t ∧ rd t (Reg.CAN_ERRCNT p) = rd s (Reg.CAN_ERRCNT p) ∧ t.get (.CAN_LASTERR_LEC
    p) = e.lec.val + 1 ∧ t.get (.CAN_LASTERR_ERR_CNT p) = min (s.get (.CAN_LASTERR_ERR_CNT p) + 1) (FldRef.max (.CAN_LASTERR_ERR_CNT p)))

/-- Latest-value buffers (R303, R304): a frame delivered while no requester holds a lock goes to the front copy, one delivered under a lock to the
shadow; a lock lasts until its requester reads the status word, or 1 ms. A read notes its latency in MOD_XREAD (R21). A requester may read a buffer
again: its lock then counts from that read. -/
def Obligations.CanBuffers : Prop :=
  (∀ (s : State) (p : Fin 4) (x : Frame) (b f : Nat), canRuns s p = true → (s.can p).mode = 1 ∨ (s.can p).mode = 2 → s.get (.CAN_STAT_ERR_STATE p) ≠ 2 →
    frameOk x = true → canDecodes s p x = true → deliveries s p x = [(2, b, f, false)] → (lvbOf s p b).locks = [] → ∃ t, exec (.canFrameReceive p x) s =
    .next t ∧ rd t (Reg.LVB_HDR0 p b) = x.idw ∧ rd t (Reg.LVB_HDR2 p b) = wd (now s) ∧ t.is (.LVB_STAT_VALID p b) = true) ∧
  (∀ (s : State) (p : Fin 4) (x : Frame) (b f : Nat), canRuns s p = true → (s.can p).mode = 1 ∨ (s.can p).mode = 2 → s.get (.CAN_STAT_ERR_STATE p) ≠ 2 →
    frameOk x = true → canDecodes s p x = true → deliveries s p x = [(2, b, f, false)] → (lvbOf s p b).locks ≠ [] → ∃ t, exec (.canFrameReceive p x) s =
    .next t ∧ rd t (Reg.LVB_HDR0 p b) = rd s (Reg.LVB_HDR0 p b) ∧ (lvbOf t p b).locks = (lvbOf s p b).locks ∧ ((lvbOf t p b).shadow.map (fun e =>
    e.frame)) = some { x with ts := now s % 2 ^ 48 } ∧ t.get (.LVB_STAT_LOST p b) = (if (lvbOf s p b).shadow.isSome then min (s.get (.LVB_STAT_LOST p b) +
    1) (FldRef.max (.LVB_STAT_LOST p b)) else s.get (.LVB_STAT_LOST p b)) ∧ t.is (.LVB_STAT_VALID p b) = true) ∧
  (∀ (s : State) (r : Req) (p : Fin 4) (b : Fin 32), readServed s r = true → ∃ t, exec (.lvbLockRead r p b) s = .next t ∧ t.rdata = rd s (Reg.LVB_HDR0 p
    b) ∧ lvbOf t p b = { lvbOf s p b with locks := (lvbOf s p b).locks.filter (fun k => k.1 ≠ reqIx r) ++ [(reqIx r, clk s)] } ∧ t =
    { s with regs := t.regs, cans := t.cans, free := t.free, rdata := t.rdata } ∧ ∀ a, a ≠ Reg.MOD_XREAD → rd t a = rd s a) ∧
  (∀ (s : State) (r : Req) (p : Fin 4) (b : Fin 32) (k : Nat × Nat), readServed s r = true → (lvbOf s p b).locks = [k] → k.1 = reqIx r → ∃ t, exec
    (.lvbStatRead r p b) s = .next t ∧ t.rdata = lvbStatVal s p b ∧ bits t.rdata 1 1 = 1 ∧ lvbOf t p b = {} ∧ t.get (.LVB_STAT_COUNT p b) = 0 ∧ t.get
    (.LVB_STAT_LOST p b) = 0 ∧ rd t (Reg.LVB_HDR0 p b) = ((lvbOf s p b).shadow.map (fun e => e.frame.idw)).getD (rd s (Reg.LVB_HDR0 p b)) ∧ t =
    { s with regs := t.regs, cans := t.cans, free := t.free, rdata := t.rdata } ∧ ∀ a, a ≠ Reg.MOD_XREAD → ¬ (Reg.LVB_HDR0 p b ≤ a ∧ a ≤ Reg.LVB_STAT p b)
    → rd t a = rd s a) ∧
  (∀ (s : State) (r : Req) (p : Fin 4) (b : Fin 32), readServed s r = true → (lvbOf s p b).locks.any (fun k => k.1 == reqIx r) = true → (lvbOf s p
    b).locks.any (fun k => k.1 != reqIx r) = true → ∃ t, exec (.lvbStatRead r p b) s = .next t ∧ t.rdata = lvbStatVal s p b ∧ lvbOf t p b =
    { lvbOf s p b with locks := (lvbOf s p b).locks.filter (fun k => k.1 ≠ reqIx r) } ∧ t =
    { s with regs := t.regs, cans := t.cans, free := t.free, rdata := t.rdata } ∧ ∀ a, a ≠ Reg.MOD_XREAD → rd t a = rd s a) ∧
  (∀ (s : State) (r : Req) (p : Fin 4) (b : Fin 32), readServed s r = true → (lvbOf s p b).locks.any (fun k => k.1 == reqIx r) = false → ∃ t, exec
    (.lvbStatRead r p b) s = .next t ∧ t.rdata = lvbStatVal s p b ∧ t = { s with regs := t.regs, free := t.free, rdata := t.rdata } ∧ ∀ a, a ≠
    Reg.MOD_XREAD → rd t a = rd s a) ∧
  (∀ (s : State) (r : Req) (p : Fin 4) (b : Fin 32), readServed s r = false → exec (.lvbLockRead r p b) s = .next s) ∧
  (∀ (s : State) (r : Req) (p : Fin 4) (b : Fin 32), readServed s r = false → exec (.lvbStatRead r p b) s = .next s) ∧
  (∀ (s : State) (r : Req) (p : Fin 4) (b : Fin 32), lvbExpired s p b (reqIx r) = true → ∃ t, exec (.lvbLockTimeout r p b) s = .next t ∧ (∀ k ∈ (lvbOf t
    p b).locks, k.1 ≠ reqIx r) ∧ t.is (.LVB_STAT_TMO p b) = true ∧ t = { s with regs := t.regs, cans := t.cans } ∧ ∀ a, ¬ (Reg.LVB_HDR0 p b ≤ a ∧ a ≤
    Reg.LVB_STAT p b) → rd t a = rd s a) ∧
  (∀ (s : State) (r : Req) (p : Fin 4) (b : Fin 32), lvbExpired s p b (reqIx r) = false → exec (.lvbLockTimeout r p b) s = .next s)

/-- The transmit queue (R305 to R307). A measured loop delay is a free value (R294, assumption log 4). -/
def Obligations.CanTransmitQueue : Prop :=
  (∀ (s : State) (r : Req) (p : Fin 4) (w : Word), Admitted s r (Reg.CAN_TX_CMD p) Msk.CAN_TX_CMD → formatBad s p (stagedFrame s p r).1 (stagedFrame s p
    r).2 = false → txHostLevel s p < 24 → txLevel s p < 32 → ∃ t, exec (.canTxGo r p w) s = .next t ∧ (t.can p).txq = (s.can p).txq ++
    [{ id := (s.can p).nextId, src := if r = .ring then .ring else .s0, prio := bits w 15 8, tag := bits w 31 16, report := bitAt w 6, frame := (stagedFrame s p r).1 }]
    ∧ (if r = .ring then (t.can p).resRing else (t.can p).resS0) = 0 ∧ (s.is (.CAN_SLEEP_WAKE_ON_TX p) = false ∨ s.is (.CAN_STAT_ASLEEP p) = false → t =
    { s with cans := t.cans }) ∧ (s.is (.CAN_SLEEP_WAKE_ON_TX p) = true → s.is (.CAN_STAT_ASLEEP p) = true → t.is (.CAN_STAT_ASLEEP p) = false ∧ t.get
    (.CAN_WAKE_STAT_CAUSE p) = 4)) ∧
  (∀ (s : State) (r : Req) (p : Fin 4) (w : Word), Admitted s r (Reg.CAN_TX_CMD p) Msk.CAN_TX_CMD → formatBad s p (stagedFrame s p r).1 (stagedFrame s p
    r).2 = true → exec (.canTxGo r p w) s = .next (setTxRes p r 2 s)) ∧
  (∀ (s : State) (r : Req) (p : Fin 4) (w : Word), Admitted s r (Reg.CAN_TX_CMD p) Msk.CAN_TX_CMD → formatBad s p (stagedFrame s p r).1 (stagedFrame s p
    r).2 = false → 24 ≤ txHostLevel s p ∨ 32 ≤ txLevel s p → exec (.canTxGo r p w) s = .next (setTxRes p r 1 s)) ∧
  (∀ (s : State) (p : Fin 4) (x : TxEnt), canRuns s p = true → (s.can p).mode = 1 ∨ (s.can p).mode = 3 → s.get (.CAN_STAT_ERR_STATE p) ≠ 2 → canBusy s p
    = false → s.is .SV_STAT_SWITCHING = false → nextTx (s.can p).txq = some x → ∃ t, exec (.canAttemptStart p) s = .next t ∧ (t.can p).att = some x.id ∧
    (t.can p).txq = (s.can p).txq.map (fun y => if y.id = x.id then
    { x with attempts := x.attempts + 1, sof := some (now s), frame := attemptFrame s p x } else y) ∧ (s.is (.CAN_TDC_EN p) = false → t.regs = s.regs) ∧ t
    = { s with regs := t.regs, cans := t.cans, free := t.free } ∧ ∀ a, a ≠ Reg.CAN_TDC p → rd t a = rd s a) ∧
  (∀ (s : State) (p : Fin 4), canRuns s p = false ∨ ((s.can p).mode ≠ 1 ∧ (s.can p).mode ≠ 3) ∨ s.get (.CAN_STAT_ERR_STATE p) = 2 ∨ canBusy s p = true ∨
    s.is .SV_STAT_SWITCHING = true ∨ nextTx (s.can p).txq = none → exec (.canAttemptStart p) s = .next s)

/-- R310. Every entry of the queue has a number of its own (the hypothesis; the port numbers them in the order in which they are queued). The entry in
an attempt is marked and ends with its attempt (CanAttempts). -/
def Obligations.FlushAbandonsHostEntries : Prop :=
  (∀ (s : State) (r : Req) (p : Fin 4), Admitted s r (Reg.CAN_TX_CMD p) Msk.CAN_TX_CMD → (s.can p).txq.Pairwise (fun x y => x.id ≠ y.id) → ∃ t, exec
    (.canTxFlush r p) s = .next t ∧ (∀ x ∈ (t.can p).txq, x.src.isHost = true → (s.can p).att = some x.id ∧ x.flush = some 5) ∧ (∀ x ∈ (s.can p).txq,
    x.src.isHoist = true → x ∈ (t.can p).txq))

/-- The ends of an attempt (R308 to R315) and recovery from bus-off (R312). What TEC grows by is ISO 11898-1's rule, taken from there (assumption log
26). In LOOP no attempt ends in an error or loses arbitration (R291). -/
def Obligations.CanAttempts : Prop :=
  (∀ (s : State) (p : Fin 4) (x : TxEnt), inAttempt s p = some x → x.id < (s.can p).nextId → ∃ t, exec (.canAttemptSuccess p) s = .next t ∧ (t.can
    p).att = none ∧ (∀ y ∈ (t.can p).txq, y.id ≠ x.id) ∧ t.get (.CAN_FRCNT_TX p) = min (s.get (.CAN_FRCNT_TX p) + 1) (FldRef.max (.CAN_FRCNT_TX p)) ∧
    t.get (.CAN_FRCNT_RX p) = (if (s.can p).mode = 3 ∨ s.is (.CAN_CFG_SELF_RX p) = true then min (s.get (.CAN_FRCNT_RX p) + 1) (FldRef.max (.CAN_FRCNT_RX
    p)) else s.get (.CAN_FRCNT_RX p)) ∧ t.get (.CAN_ERRCNT_TEC p) = s.get (.CAN_ERRCNT_TEC p) - 1 ∧ t.is (.CAN_STAT_ALONE p) = false) ∧
  (∀ (s : State) (p : Fin 4) (x : TxEnt), inAttempt s p = some x → x.src.isHoist = false → enabledCtxs s = [] → (s.can p).mode ≠ 3 → s.is
    (.CAN_CFG_SELF_RX p) = false → ∃ t, exec (.canAttemptSuccess p) s = .next t ∧ t.can p = { t.can p with nextId := (s.can p).nextId } ∧ t =
    { eventsFrom s t with cans := t.cans, tu := t.tu } ∧ ∀ a, eventReg a = false → ¬ (canReg p a = true) → rd t a = rd s a) ∧
  (∀ (s : State) (p : Fin 4), inAttempt s p = none → exec (.canAttemptSuccess p) s = .next s) ∧
  (∀ (s : State) (p : Fin 4) (e : CanErr) (x : TxEnt), inAttempt s p = some x → (s.can p).mode ≠ 3 → xlSilent s p x.frame.idw e = false → x.id < (s.can
    p).nextId → ∃ t, exec (.canAttemptError p e) s = .next t ∧ (t.can p).att = none ∧ t.get (.CAN_LASTERR_LEC p) = e.lec.val + 1 ∧ t.get
    (.CAN_LASTERR_ERR_CNT p) = min (s.get (.CAN_LASTERR_ERR_CNT p) + 1) (FldRef.max (.CAN_LASTERR_ERR_CNT p)) ∧ t.get (.CAN_ERRCNT_TEC p) = min (s.get
    (.CAN_ERRCNT_TEC p) + (8 * e.runs + if e.exempt = true ∨ (e.lec = 2 ∧ s.get (.CAN_STAT_ERR_STATE p) = 1 ∧ e.dominant = false) then 0 else 8))
    (FldRef.max (.CAN_ERRCNT_TEC p)) ∧ (s.get (.CAN_RETRY_ERR_RETRY p) ≠ 31 → s.get (.CAN_RETRY_ERR_RETRY p) ≤ x.errs → ∀ y ∈ (t.can p).txq, y.id ≠ x.id)
    ∧ (enabledCtxs s = [] → t = { eventsFrom s t with cans := t.cans, tu := t.tu } ∧ ∀ a, eventReg a = false → ¬ (canReg p a = true) → rd t a = rd s a)) ∧
  (∀ (s : State) (p : Fin 4) (e : CanErr) (x : TxEnt), inAttempt s p = some x → (s.can p).mode ≠ 3 → x.flush = none → s.get (.CAN_RETRY_ERR_RETRY p) =
    31 ∨ x.errs < s.get (.CAN_RETRY_ERR_RETRY p) → s.is (.CAN_CFG_BO_FLUSH p) = false → (s.can p).sleepPend = false → enabledCtxs s = [] → ∃ t, exec
    (.canAttemptError p e) s = .next t ∧ (t.can p).txq = (s.can p).txq.map (fun y => if y.id = x.id then entErr e x else y)) ∧
  (∀ (s : State) (p : Fin 4) (e : CanErr) (x : TxEnt), inAttempt s p = some x → (s.can p).mode ≠ 3 → (s.can p).mode ≠ 0 → xlSilent s p x.frame.idw e =
    true → ∃ t, exec (.canAttemptError p e) s = .next t ∧ (t.can p).att = none ∧ t.is (.CAN_STAT_INTEG p) = true ∧ t.get (.CAN_LASTERR_LEC p) = e.lec.val
    + 1) ∧
  (∀ (s : State) (p : Fin 4) (e : CanErr), inAttempt s p = none ∨ (s.can p).mode = 3 → exec (.canAttemptError p e) s = .next s) ∧
  (∀ (s : State) (p : Fin 4) (x : TxEnt), inAttempt s p = some x → (s.can p).mode ≠ 3 → x.id < (s.can p).nextId → ∃ t, exec (.canArbitrationLost p) s =
    .next t ∧ (t.can p).att = none ∧ (t.can p).busy = true ∧ (s.get (.CAN_RETRY_ARB_RETRY p) ≠ 255 → s.get (.CAN_RETRY_ARB_RETRY p) ≤ x.arbs → ∀ y ∈
    (t.can p).txq, y.id ≠ x.id)) ∧
  (∀ (s : State) (p : Fin 4) (x : TxEnt), inAttempt s p = some x → (s.can p).mode ≠ 3 → x.flush = none → s.get (.CAN_RETRY_ARB_RETRY p) = 255 ∨ x.arbs <
    s.get (.CAN_RETRY_ARB_RETRY p) → enabledCtxs s = [] → ∃ t, exec (.canArbitrationLost p) s = .next t ∧ (t.can p).txq = (s.can p).txq.map (fun y => if
    y.id = x.id then { x with arbs := x.arbs + 1 } else y) ∧ t = { s with cans := t.cans }) ∧
  (∀ (s : State) (p : Fin 4), inAttempt s p = none ∨ (s.can p).mode = 3 → exec (.canArbitrationLost p) s = .next s) ∧
  (∀ (s : State) (p : Fin 4), s.get (.CAN_STAT_ERR_STATE p) = 2 → (s.can p).mode ≠ 0 → ∃ t, exec (.canBusoffRecovery p) s = .next t ∧ t.get
    (.CAN_STAT_ERR_STATE p) = 0 ∧ rd t (Reg.CAN_ERRCNT p) = 0 ∧ t.get (.CAN_BOCNT_CNT p) = min (s.get (.CAN_BOCNT_CNT p) + 1) (FldRef.max (.CAN_BOCNT_CNT
    p)) ∧ t = queuedFrom s t ∧ ∀ a, queueReg a = false → ¬ (canReg p a = true) → rd t a = rd s a) ∧
  (∀ (s : State) (p : Fin 4), s.get (.CAN_STAT_ERR_STATE p) ≠ 2 ∨ (s.can p).mode = 0 → exec (.canBusoffRecovery p) s = .next s)

/-- The time unit's CAN references (R270 to R273). A reference message is none of the port's 32 entries, and the first one waits for no period
(assumption log 87). Its stamp is put in when its attempt starts (CanTransmitQueue). -/
def Obligations.CanTimeReferences : Prop :=
  (∀ (s : State) (p : Nat), s.get .TU_CAN_CFG_ROLE = 1 → s.get .TU_CAN_CFG_PER ≠ 0 → servoRuns s = true → refDue s = true → s.get .TU_CAN_CFG_PORT = p →
    ∃ t, exec .tuCanRefSend s = .next t ∧ (t.can p).txq = (s.can p).txq ++
    [{ id := (s.can p).nextId, src := .tu, frame := { idw := refId s, dlc := 8, data := b8 s.tu.mSeq :: List.replicate 7 0xFF }, noStamp := s.tu.mFirst }]
    ∧ t.get .TU_CAN_STAT_SEQ = s.tu.mSeq % 256 ∧ t.get .TU_CAN_STAT_REF_CNT = min (s.get .TU_CAN_STAT_REF_CNT + 1) (FldRef.max .TU_CAN_STAT_REF_CNT) ∧
    t.tu = { s.tu with mSeq := (s.tu.mSeq + 1) % 256, mFirst := false, refAt := some (clk s) } ∧ (s.is (.CAN_SLEEP_WAKE_ON_TX p) = false → t =
    { s with regs := t.regs, cans := t.cans, tu := t.tu } ∧ ∀ a, a ≠ Reg.TU_CAN_STAT → rd t a = rd s a)) ∧
  (∀ (s : State), s.get .TU_CAN_CFG_ROLE ≠ 1 ∨ s.get .TU_CAN_CFG_PER = 0 ∨ servoRuns s = false ∨ refDue s = false → exec .tuCanRefSend s = .next s) ∧
  (∀ (s : State) (x : Frame) (p : Nat), s.get .TU_CAN_CFG_ROLE = 2 → s.get .TU_CAN_CFG_PORT = p → canRuns s p = true → (s.can p).mode = 1 ∨ (s.can
    p).mode = 2 → s.get (.CAN_STAT_ERR_STATE p) ≠ 2 → servoRuns s = true → frameOk x = true → x.idw = refId s → x.dlc = 8 → x.rtr = false → ∃ t, exec
    (.tuCanRefReceive x) s = .next t ∧ t.get .TU_CAN_STAT_SEQ = (x.data.getD 0 0).toNat ∧ t.tu.canF = some (now s) ∧ t.tu.canSeq = some (x.data.getD 0
    0).toNat ∧ t = { s with regs := t.regs, tu := t.tu, ca := t.ca, chains := t.chains, tiles := t.tiles, free := t.free } ∧ ∀ a, a ≠ Reg.TU_CAN_STAT → a
    ≠ Reg.TU_STAT → a ≠ Reg.TU_OFFSET → a ≠ Reg.TU_RATE → a ≠ Reg.CA_SYNC_INFO → rd t a = rd s a) ∧
  (∀ (s : State) (x : Frame) (p k f : Nat), s.get .TU_CAN_CFG_ROLE = 2 → s.get .TU_CAN_CFG_PORT = p → canRuns s p = true → (s.can p).mode = 1 ∨ (s.can
    p).mode = 2 → s.get (.CAN_STAT_ERR_STATE p) ≠ 2 → servoRuns s = true → frameOk x = true → x.idw = refId s → x.dlc = 8 → x.rtr = false → s.tu.canSeq =
    some k → s.tu.canF = some f → (x.data.getD 0 0).toNat = (k + 1) % 256 → (x.data.drop 1).all (fun b => b == 0xFF) = false → ∃ t, exec (.tuCanRefReceive
    x) s = .next t ∧ t.get .TU_CAN_STAT_REF_CNT = min (s.get .TU_CAN_STAT_REF_CNT + 1) (FldRef.max .TU_CAN_STAT_REF_CNT) ∧ t.get .TU_CAN_STAT_SKIP_CNT =
    s.get .TU_CAN_STAT_SKIP_CNT ∧ (s.get .TU_STAT_SRC_EFF ≠ 1 → t = { s with regs := t.regs, tu := t.tu } ∧ ∀ a, a ≠ Reg.TU_CAN_STAT → rd t a = rd s a) ∧
    (s.get .TU_STAT_SRC_EFF = 1 → t.tu.lastSample = clk s)) ∧
  (∀ (s : State) (x : Frame) (p k f : Nat), s.get .TU_CAN_CFG_ROLE = 2 → s.get .TU_CAN_CFG_PORT = p → canRuns s p = true → (s.can p).mode = 1 ∨ (s.can
    p).mode = 2 → s.get (.CAN_STAT_ERR_STATE p) ≠ 2 → servoRuns s = true → frameOk x = true → x.idw = refId s → x.dlc = 8 → x.rtr = false → s.tu.canSeq =
    some k → s.tu.canF = some f → (x.data.getD 0 0).toNat ≠ (k + 1) % 256 ∨ (x.data.drop 1).all (fun b => b == 0xFF) = true → k < 256 → ∃ t, exec
    (.tuCanRefReceive x) s = .next t ∧ t.get .TU_CAN_STAT_SKIP_CNT = (if (x.data.getD 0 0).toNat = k ∧ (x.data.drop 1).all (fun b => b == 0xFF) = false
    then s.get .TU_CAN_STAT_SKIP_CNT else min (s.get .TU_CAN_STAT_SKIP_CNT + 1) (FldRef.max .TU_CAN_STAT_SKIP_CNT)) ∧ t.get .TU_CAN_STAT_REF_CNT = s.get
    .TU_CAN_STAT_REF_CNT ∧ t = { s with regs := t.regs, tu := t.tu } ∧ ∀ a, a ≠ Reg.TU_CAN_STAT → rd t a = rd s a) ∧
  (∀ (s : State) (x : Frame), s.get .TU_CAN_CFG_ROLE ≠ 2 ∨ canRuns s (s.get .TU_CAN_CFG_PORT) = false ∨ ((s.can (s.get .TU_CAN_CFG_PORT)).mode ≠ 1 ∧
    (s.can (s.get .TU_CAN_CFG_PORT)).mode ≠ 2) ∨ s.get (.CAN_STAT_ERR_STATE (s.get .TU_CAN_CFG_PORT)) = 2 ∨ servoRuns s = false ∨ frameOk x = false ∨
    x.idw ≠ refId s ∨ x.dlc ≠ 8 ∨ x.rtr = true → exec (.tuCanRefReceive x) s = .next s)

/-- The flow instructions (R374). An engine is at the instruction (`atWord`), which has been fetched and counted (`begun`); `fieldsOf` splits the word
as R369 gives it. `endRun` is the end of a run: it writes the record, gives up what the run held, and may start other runs. -/
def Obligations.FlowInstructions : Prop :=
  (∀ (s : State) (e : Fin 8) (c : Nat) (w : Word) (h : HWord), atWord s e c 0x01 w = true → h = fieldsOf w 0#32 → h.d = 0 → h.a = 0 → h.i = true → ∃ t,
    exec (.jmp e) s = .next t ∧ t.ctx c = { s.ctx c with pc := toU 32 (((s.ctx c).pc : Int) + 4 * sext 16 h.k) } ∧ (t =
    { (begun e c 0x01 s) with ctxs := kset {} s.ctxs c (t.ctx c) })) ∧
  (∀ (s : State) (e : Fin 8) (c : Nat) (w : Word) (h : HWord), atWord s e c 0x01 w = true → h = fieldsOf w 0#32 → (h.d == 0 && h.a == 0 && h.i) = false
    → exec (.jmp e) s = .next (endRun c ccProgErr (wd (offOf s c (s.ctx c).pc)) (begun e c 0x01 s))) ∧
  (∀ (s : State) (e : Fin 8) (c : Nat) (w : Word), atExt s e c 0x01 w = true → exec (.jmp e) s = .next (endRun c ccProgErr (wd (offOf s c (s.ctx c).pc))
    (begun e c 0x01 s))) ∧
  (∀ (s : State) (e : Fin 8) (c : Nat) (w : Word) (h : HWord) (v : Bool), atWord s e c 0x02 w = true → h = fieldsOf w 0#32 → h.a = 0 → h.i = true →
    condition (s.ctx c) h.d = some v → ∃ t, exec (.br e) s = .next t ∧ t.ctx c =
    { s.ctx c with pc := if v then toU 32 (((s.ctx c).pc : Int) + 4 * sext 16 h.k) else ((s.ctx c).pc + 4) % 2 ^ 32 } ∧ (t =
    { (begun e c 0x02 s) with ctxs := kset {} s.ctxs c (t.ctx c) })) ∧
  (∀ (s : State) (e : Fin 8) (c : Nat) (w : Word) (h : HWord), atWord s e c 0x02 w = true → h = fieldsOf w 0#32 → (h.a == 0 && h.i && decide (h.d ≤ 10))
    = false → exec (.br e) s = .next (endRun c ccProgErr (wd (offOf s c (s.ctx c).pc)) (begun e c 0x02 s))) ∧
  (∀ (s : State) (e : Fin 8) (c : Nat) (w : Word), atExt s e c 0x02 w = true → exec (.br e) s = .next (endRun c ccProgErr (wd (offOf s c (s.ctx c).pc))
    (begun e c 0x02 s))) ∧
  (∀ (s : State) (e : Fin 8) (c : Nat) (w : Word) (h : HWord), atWord s e c 0x03 w = true → h = fieldsOf w 0#32 → h.d = 0 → h.a = 0 → h.i = true → ∃ t,
    exec (.call e) s = .next t ∧ t.ctx c = { s.ctx c with pc := toU 32 (((s.ctx c).pc : Int) + 4 * sext 16 h.k) } ∧ getV t c 15 = wd (offOf s c (((s.ctx
    c).pc + 4) % 2 ^ 32)) ∧ (t = { (begun e c 0x03 s) with regs := t.regs, ctxs := kset {} s.ctxs c (t.ctx c) } ∧ ∀ a, a ≠ Reg.CTX_V c 15 → rd t a = rd s
    a)) ∧
  (∀ (s : State) (e : Fin 8) (c : Nat) (w : Word) (h : HWord), atWord s e c 0x03 w = true → h = fieldsOf w 0#32 → (h.d == 0 && h.a == 0 && h.i) = false
    → exec (.call e) s = .next (endRun c ccProgErr (wd (offOf s c (s.ctx c).pc)) (begun e c 0x03 s))) ∧
  (∀ (s : State) (e : Fin 8) (c : Nat) (w : Word), atExt s e c 0x03 w = true → exec (.call e) s = .next (endRun c ccProgErr (wd (offOf s c (s.ctx
    c).pc)) (begun e c 0x03 s))) ∧
  (∀ (s : State) (e : Fin 8) (c : Nat) (w : Word) (h : HWord) (l : List Word), atWord s e c 0x04 w = true → h = fieldsOf w 0#32 → noK h = true → h.a = 0
    → fetchWord s c ((s.get (.CTX_PROG_PROG c) + (getV s c h.d).toNat) % 2 ^ 32) = .ok l → ∃ t, exec (.ret e) s = .next t ∧ (t.ctx c).pc = (s.get
    (.CTX_PROG_PROG c) + (getV s c h.d).toNat) % 2 ^ 32 ∧ (t = { (begun e c 0x04 s) with ctxs := kset {} s.ctxs c (t.ctx c) })) ∧
  (∀ (s : State) (e : Fin 8) (c : Nat) (w : Word) (h : HWord) (a : Nat), atWord s e c 0x04 w = true → h = fieldsOf w 0#32 → noK h = true → h.a = 0 →
    fetchWord s c ((s.get (.CTX_PROG_PROG c) + (getV s c h.d).toNat) % 2 ^ 32) = .bad a → exec (.ret e) s = .next (endRun c ccFetchErr (wd a) (begun e c
    0x04 s))) ∧
  (∀ (s : State) (e : Fin 8) (c : Nat) (w : Word) (h : HWord), atWord s e c 0x04 w = true → h = fieldsOf w 0#32 → (noK h && h.a == 0) = false → exec
    (.ret e) s = .next (endRun c ccProgErr (wd (offOf s c (s.ctx c).pc)) (begun e c 0x04 s))) ∧
  (∀ (s : State) (e : Fin 8) (c : Nat) (w : Word), atExt s e c 0x04 w = true → exec (.ret e) s = .next (endRun c ccProgErr (wd (offOf s c (s.ctx c).pc))
    (begun e c 0x04 s))) ∧
  (∀ (s : State) (e : Fin 8) (c : Nat) (w : Word) (h : HWord) (r : Word), atWord s e c 0x05 w = true → h = fieldsOf w 0#32 → h.a = 0 → h.i = true → r =
    getV s c h.d - 1 → ∃ t, exec (.loop e) s = .next t ∧ getV t c h.d = r ∧ t.ctx c = ctxAfter s c (if r = 0 then ((s.ctx c).pc + 4) % 2 ^ 32 else toU 32
    (((s.ctx c).pc : Int) + 4 * sext 16 h.k)) r false false ∧ (t = { (begun e c 0x05 s) with regs := t.regs, ctxs := kset {} s.ctxs c (t.ctx c) } ∧ ∀ a, a
    ≠ Reg.CTX_V c h.d → rd t a = rd s a)) ∧
  (∀ (s : State) (e : Fin 8) (c : Nat) (w : Word) (h : HWord), atWord s e c 0x05 w = true → h = fieldsOf w 0#32 → (h.a == 0 && h.i) = false → exec
    (.loop e) s = .next (endRun c ccProgErr (wd (offOf s c (s.ctx c).pc)) (begun e c 0x05 s))) ∧
  (∀ (s : State) (e : Fin 8) (c : Nat) (w : Word), atExt s e c 0x05 w = true → exec (.loop e) s = .next (endRun c ccProgErr (wd (offOf s c (s.ctx
    c).pc)) (begun e c 0x05 s))) ∧
  (∀ (s : State) (e : Fin 8) (c : Nat) (w : Word) (h : HWord), atWord s e c 0x06 w = true → h = fieldsOf w 0#32 → bare h = true → exec (.endRun e) s =
    .next (endRun c ccOk (getV s c 0) (stepOver c h (begun e c 0x06 s)))) ∧
  (∀ (s : State) (e : Fin 8) (c : Nat) (w : Word) (h : HWord), atWord s e c 0x06 w = true → h = fieldsOf w 0#32 → bare h = true → ∃ t, exec (.endRun e)
    s = .next t ∧ t.get (.CTX_STAT_LAST_CODE c) = ccOk) ∧
  (∀ (s : State) (e : Fin 8) (c : Nat) (w : Word) (h : HWord), atWord s e c 0x06 w = true → h = fieldsOf w 0#32 → bare h = true → (s.ctx c).pend = none
    → (enabledCtxs s).all (fun k => s.get (.CTX_TRIG_CMP_EN k) == 0) = true → ∃ t, exec (.endRun e) s = .next t ∧ t.get (.CTX_STAT_STATE c) = stDone ∧ t =
    { eventsFrom s t with cvs := t.cvs, engs := t.engs, hcache := t.hcache, pw := t.pw } ∧ ∀ a, eventReg a = false → a ≠ Reg.CTX_STAT c → rd t a = rd s a) ∧
  (∀ (s : State) (e : Fin 8) (c : Nat) (w : Word) (h : HWord), atWord s e c 0x06 w = true → h = fieldsOf w 0#32 → bare h = false → exec (.endRun e) s =
    .next (endRun c ccProgErr (wd (offOf s c (s.ctx c).pc)) (begun e c 0x06 s))) ∧
  (∀ (s : State) (e : Fin 8) (c : Nat) (w : Word), atExt s e c 0x06 w = true → exec (.endRun e) s = .next (endRun c ccProgErr (wd (offOf s c (s.ctx
    c).pc)) (begun e c 0x06 s))) ∧
  (∀ (s : State) (e : Fin 8) (c : Nat) (w : Word) (h : HWord), atWord s e c 0x07 w = true → h = fieldsOf w 0#32 → h.d = 0 → h.a = 0 → op2Ok h = true →
    exec (.fail e) s = .next (endRun c ccFail (op2s s c h) (begun e c 0x07 s))) ∧
  (∀ (s : State) (e : Fin 8) (c : Nat) (w : Word) (h : HWord), atWord s e c 0x07 w = true → h = fieldsOf w 0#32 → h.d = 0 → h.a = 0 → op2Ok h = true → ∃
    t, exec (.fail e) s = .next t ∧ t.get (.CTX_STAT_LAST_CODE c) = ccFail ∧ ((s.ctx c).pend = none → (enabledCtxs s).all (fun k => s.get
    (.CTX_TRIG_CMP_EN k) == 0) = true → t.get (.CTX_STAT_STATE c) = stFaulted)) ∧
  (∀ (s : State) (e : Fin 8) (c : Nat) (w : Word) (h : HWord), atWord s e c 0x07 w = true → h = fieldsOf w 0#32 → (h.d == 0 && h.a == 0 && op2Ok h) =
    false → exec (.fail e) s = .next (endRun c ccProgErr (wd (offOf s c (s.ctx c).pc)) (begun e c 0x07 s))) ∧
  (∀ (s : State) (e : Fin 8) (c : Nat) (w : Word), atExt s e c 0x07 w = true → exec (.fail e) s = .next (endRun c ccProgErr (wd (offOf s c (s.ctx
    c).pc)) (begun e c 0x07 s))) ∧
  (∀ (s : State) (e : Fin 8) (c : Nat) (w : Word), runningOn s e = some c → sliceLeft s e false = true → fetchWords s c (s.ctx c).pc 1 = .ok [w] →
    assignedOps.contains (opOf w) = false → exec (.unassignedOpcode e) s = .next (endRun c ccProgErr (wd (offOf s c (s.ctx c).pc)) (begun e c 0 s))) ∧
  (∀ (s : State) (e : Fin 8) (c : Nat) (w : Word), runningOn s e = some c → sliceLeft s e false = true → fetchWords s c (s.ctx c).pc 1 = .ok [w] →
    assignedOps.contains (opOf w) = false → ∃ t, exec (.unassignedOpcode e) s = .next t ∧ t.get (.CTX_STAT_LAST_CODE c) = ccProgErr) ∧
  (∀ (s : State) (e : Fin 8) (c a : Nat), runningOn s e = some c → sliceLeft s e false = true → fetchWords s c (s.ctx c).pc 1 = .bad a → exec
    (.unassignedOpcode e) s = .next (endRun c ccFetchErr (wd a) s)) ∧
  (∀ (s : State) (e : Fin 8) (c a : Nat), runningOn s e = some c → sliceLeft s e false = true → fetchWords s c (s.ctx c).pc 1 = .miss a → exec
    (.unassignedOpcode e) s = .next (ctxBlock c 10 (.fetch a) s)) ∧
  (∀ (s : State) (e : Fin 8), runningOn s e = none → exec (.unassignedOpcode e) s = .next s)

/-- The time instructions (R376). An engine is at the instruction (`atWord`); `begun` is the state with the word fetched and counted. -/
def Obligations.TimeInstructions : Prop :=
  (∀ (s : State) (e : Fin 8) (c : Nat) (w : Word) (h : HWord), atWord s e c 0x08 w = true → h = fieldsOf w 0#32 → h.d = 0 → op2Ok h = true → h.a < 3 →
    op2z s c h ≠ 0 → ∃ t, exec (.wait e) s = .next t ∧ t.get (.CTX_STAT_STATE c) = stWaiting ∧ t.get (.CTX_STAT_WAIT_ON c) = 1 ∧ t.ctx c =
    { s.ctx c with pc := ((s.ctx c).pc + 4) % 2 ^ 32, wait := .time (now s + unitTicks h.a (op2z s c h).toNat) } ∧ (t.eng e).ctx = none ∧ (t =
    { (begun e c 0x08 s) with regs := t.regs, ctxs := kset {} s.ctxs c (t.ctx c), engs := t.engs } ∧ ∀ a, a ≠ Reg.CTX_STAT c → rd t a = rd s a)) ∧
  (∀ (s : State) (e : Fin 8) (c : Nat) (w : Word) (h : HWord), atWord s e c 0x08 w = true → h = fieldsOf w 0#32 → h.d = 0 → op2Ok h = true → h.a < 3 →
    op2z s c h = 0 → ∃ t, exec (.wait e) s = .next t ∧ t.ctx c = { s.ctx c with pc := ((s.ctx c).pc + 4) % 2 ^ 32 } ∧ (t =
    { (begun e c 0x08 s) with ctxs := kset {} s.ctxs c (t.ctx c) })) ∧
  (∀ (s : State) (e : Fin 8) (c : Nat) (w : Word) (h : HWord), atWord s e c 0x08 w = true → h = fieldsOf w 0#32 → h.d = 0 → op2Ok h = true → 4 ≤ h.a →
    h.a ≤ 6 → timerRuns s c (h.a - 4) = true → ∃ t, exec (.wait e) s = .next t ∧ t.get (.CTX_STAT_STATE c) = stWaiting ∧ t.get (.CTX_STAT_WAIT_ON c) = 1 ∧
    t.ctx c = { s.ctx c with pc := ((s.ctx c).pc + 4) % 2 ^ 32, wait := .timer (h.a - 4) } ∧ (t.eng e).ctx = none ∧ (t =
    { (begun e c 0x08 s) with regs := t.regs, ctxs := kset {} s.ctxs c (t.ctx c), engs := t.engs } ∧ ∀ a, a ≠ Reg.CTX_STAT c → rd t a = rd s a)) ∧
  (∀ (s : State) (e : Fin 8) (c : Nat) (w : Word) (h : HWord), atWord s e c 0x08 w = true → h = fieldsOf w 0#32 → h.d = 0 → op2Ok h = true → 4 ≤ h.a →
    h.a ≤ 6 → timerRuns s c (h.a - 4) = false → ∃ t, exec (.wait e) s = .next t ∧ t.ctx c = { s.ctx c with pc := ((s.ctx c).pc + 4) % 2 ^ 32 } ∧ (t =
    { (begun e c 0x08 s) with ctxs := kset {} s.ctxs c (t.ctx c) })) ∧
  (∀ (s : State) (e : Fin 8) (c : Nat) (w : Word) (h : HWord), atWord s e c 0x08 w = true → h = fieldsOf w 0#32 → (h.d == 0 && op2Ok h && decide (h.a ≤
    6) && h.a != 3) = false → exec (.wait e) s = .next (endRun c ccProgErr (wd (offOf s c (s.ctx c).pc)) (begun e c 0x08 s))) ∧
  (∀ (s : State) (e : Fin 8) (c : Nat) (w : Word), atExt s e c 0x08 w = true → exec (.wait e) s = .next (endRun c ccProgErr (wd (offOf s c (s.ctx
    c).pc)) (begun e c 0x08 s))) ∧
  (∀ (s : State) (e : Fin 8) (c : Nat) (w : Word) (h : HWord) (p : Nat), atWord s e c 0x09 w = true → h = fieldsOf w 0#32 → h.d = 0 → op2Ok h = true → 1
    ≤ h.a → h.a ≤ 2 → op2z s c h ≠ 0 → p = unitTicks h.a (op2z s c h).toNat → ∃ t, exec (.align e) s = .next t ∧ t.get (.CTX_STAT_STATE c) = stWaiting ∧
    t.get (.CTX_STAT_WAIT_ON c) = 1 ∧ t.ctx c = { s.ctx c with pc := ((s.ctx c).pc + 4) % 2 ^ 32, wait := .time ((now s / p + 1) * p) } ∧ (t.eng e).ctx =
    none ∧ (t = { (begun e c 0x09 s) with regs := t.regs, ctxs := kset {} s.ctxs c (t.ctx c), engs := t.engs } ∧ ∀ a, a ≠ Reg.CTX_STAT c → rd t a = rd s
    a)) ∧
  (∀ (s : State) (e : Fin 8) (c : Nat) (w : Word) (h : HWord), atWord s e c 0x09 w = true → h = fieldsOf w 0#32 → (h.d == 0 && op2Ok h && (h.a == 1 ||
    h.a == 2) && op2z s c h != 0) = false → exec (.align e) s = .next (endRun c ccProgErr (wd (offOf s c (s.ctx c).pc)) (begun e c 0x09 s))) ∧
  (∀ (s : State) (e : Fin 8) (c : Nat) (w : Word), atExt s e c 0x09 w = true → exec (.align e) s = .next (endRun c ccProgErr (wd (offOf s c (s.ctx
    c).pc)) (begun e c 0x09 s))) ∧
  (∀ (s : State) (e : Fin 8) (c : Nat) (w : Word) (h : HWord), atWord s e c 0x0A w = true → h = fieldsOf w 0#32 → h.d ≤ 2 → h.a ≤ 2 → op2Ok h = true → ∃
    t, exec (.tset e) s = .next t ∧ t.ctx c =
    { s.ctx c with pc := ((s.ctx c).pc + 4) % 2 ^ 32, td := (List.range 3).map (fun j => if j = h.d then (if op2z s c h = 0 then none else some (now s + unitTicks h.a (op2z s c h).toNat)) else (s.ctx c).td.getD j none) }
    ∧ (t = { (begun e c 0x0A s) with ctxs := kset {} s.ctxs c (t.ctx c) })) ∧
  (∀ (s : State) (e : Fin 8) (c : Nat) (w : Word) (h : HWord), atWord s e c 0x0A w = true → h = fieldsOf w 0#32 → (decide (h.d ≤ 2) && decide (h.a ≤ 2)
    && op2Ok h) = false → exec (.tset e) s = .next (endRun c ccProgErr (wd (offOf s c (s.ctx c).pc)) (begun e c 0x0A s))) ∧
  (∀ (s : State) (e : Fin 8) (c : Nat) (w : Word), atExt s e c 0x0A w = true → exec (.tset e) s = .next (endRun c ccProgErr (wd (offOf s c (s.ctx
    c).pc)) (begun e c 0x0A s))) ∧
  (∀ (s : State) (e : Fin 8) (c : Nat) (w : Word) (h : HWord), atWord s e c 0x0B w = true → h = fieldsOf w 0#32 → noK h = true → h.a ≤ 1 → ∃ t, exec
    (.tnow e) s = .next t ∧ getV t c h.d = wd (if h.a = 0 then now s else now s / 2 ^ 32) ∧ t.ctx c = { s.ctx c with pc := ((s.ctx c).pc + 4) % 2 ^ 32 } ∧
    (t = { (begun e c 0x0B s) with regs := t.regs, ctxs := kset {} s.ctxs c (t.ctx c) } ∧ ∀ a, a ≠ Reg.CTX_V c h.d → rd t a = rd s a)) ∧
  (∀ (s : State) (e : Fin 8) (c : Nat) (w : Word) (h : HWord), atWord s e c 0x0B w = true → h = fieldsOf w 0#32 → noK h = true → h.a = 2 → h.d ≤ 14 → ∃
    t, exec (.tnow e) s = .next t ∧ getV t c h.d = wd (now s) ∧ getV t c (h.d + 1) = wd (now s / 2 ^ 32) ∧ t.ctx c =
    { s.ctx c with pc := ((s.ctx c).pc + 4) % 2 ^ 32 } ∧ (t = { (begun e c 0x0B s) with regs := t.regs, ctxs := kset {} s.ctxs c (t.ctx c) } ∧ ∀ a, a ≠
    Reg.CTX_V c h.d → a ≠ Reg.CTX_V c (h.d + 1) → rd t a = rd s a)) ∧
  (∀ (s : State) (e : Fin 8) (c : Nat) (w : Word) (h : HWord), atWord s e c 0x0B w = true → h = fieldsOf w 0#32 → (noK h && decide (h.a ≤ 2) && (h.a !=
    2 || decide (h.d ≤ 14))) = false → exec (.tnow e) s = .next (endRun c ccProgErr (wd (offOf s c (s.ctx c).pc)) (begun e c 0x0B s))) ∧
  (∀ (s : State) (e : Fin 8) (c : Nat) (w : Word), atExt s e c 0x0B w = true → exec (.tnow e) s = .next (endRun c ccProgErr (wd (offOf s c (s.ctx
    c).pc)) (begun e c 0x0B s)))

/-- The data instructions (R377, R378). An engine is at the instruction (`atWord`); `begun` is the state with the words fetched and counted, and
`ctxAfter` the context with Z and N of the result, the carry and the overflow, and execution at the next word. That STB sets Z and N of V[D] is the
model's reading (assumption log 30). -/
def Obligations.DataInstructions : Prop :=
  (∀ (s : State) (e : Fin 8) (c : Nat) (w : Word) (h : HWord) (r : Word), atWord s e c 0x18 w = true → h = fieldsOf w 0#32 → h.a = 0 → op2Ok h = true →
    r = op2s s c h → ∃ t, exec (.movi e) s = .next t ∧ getV t c h.d = r ∧ t.ctx c = ctxAfter s c (((s.ctx c).pc + 4) % 2 ^ 32) r false false ∧ (t =
    { (begun e c 0x18 s) with regs := t.regs, ctxs := kset {} s.ctxs c (t.ctx c) } ∧ ∀ a, a ≠ Reg.CTX_V c h.d → rd t a = rd s a)) ∧
  (∀ (s : State) (e : Fin 8) (c : Nat) (w : Word) (x : Word) (h : HWord), atWords s e c 0x18 w x = true → h = fieldsOf w x → h.a = 0 → noK h = true → ∃
    t, exec (.movi e) s = .next t ∧ getV t c h.d = x ∧ t.ctx c = ctxAfter s c (((s.ctx c).pc + 8) % 2 ^ 32) x false false ∧ (t =
    { (begunX e c 0x18 s) with regs := t.regs, ctxs := kset {} s.ctxs c (t.ctx c) } ∧ ∀ a, a ≠ Reg.CTX_V c h.d → rd t a = rd s a)) ∧
  (∀ (s : State) (e : Fin 8) (c : Nat) (w : Word) (h : HWord), atWord s e c 0x18 w = true → h = fieldsOf w 0#32 → (h.a == 0 && op2Ok h) = false → exec
    (.movi e) s = .next (endRun c ccProgErr (wd (offOf s c (s.ctx c).pc)) (begun e c 0x18 s))) ∧
  (∀ (s : State) (e : Fin 8) (c : Nat) (w : Word) (x : Word) (h : HWord), atWords s e c 0x18 w x = true → h = fieldsOf w x → (h.a == 0 && noK h) = false
    → exec (.movi e) s = .next (endRun c ccProgErr (wd (offOf s c (s.ctx c).pc)) (begunX e c 0x18 s))) ∧
  (∀ (s : State) (e : Fin 8) (c : Nat) (w : Word) (h : HWord) (r : Word), atWord s e c 0x19 w = true → h = fieldsOf w 0#32 → h.a = 0 → op2Ok h = true →
    r = op2z s c h → ∃ t, exec (.mov e) s = .next t ∧ getV t c h.d = r ∧ t.ctx c = ctxAfter s c (((s.ctx c).pc + 4) % 2 ^ 32) r false false ∧ (t =
    { (begun e c 0x19 s) with regs := t.regs, ctxs := kset {} s.ctxs c (t.ctx c) } ∧ ∀ a, a ≠ Reg.CTX_V c h.d → rd t a = rd s a)) ∧
  (∀ (s : State) (e : Fin 8) (c : Nat) (w : Word) (h : HWord), atWord s e c 0x19 w = true → h = fieldsOf w 0#32 → (h.a == 0 && op2Ok h) = false → exec
    (.mov e) s = .next (endRun c ccProgErr (wd (offOf s c (s.ctx c).pc)) (begun e c 0x19 s))) ∧
  (∀ (s : State) (e : Fin 8) (c : Nat) (w : Word), atExt s e c 0x19 w = true → exec (.mov e) s = .next (endRun c ccProgErr (wd (offOf s c (s.ctx c).pc))
    (begun e c 0x19 s))) ∧
  (∀ (s : State) (e : Fin 8) (c : Nat) (w : Word) (h : HWord) (u v : Word), atWord s e c 0x1A w = true → h = fieldsOf w 0#32 → op2Ok h = true → u = getV
    s c h.a → v = op2s s c h → ∃ t, exec (.add e) s = .next t ∧ getV t c h.d = u + v ∧ t.ctx c = ctxAfter s c (((s.ctx c).pc + 4) % 2 ^ 32) (u + v)
    (decide (2 ^ 32 ≤ u.toNat + v.toNat)) (decide ((u + v).toInt ≠ u.toInt + v.toInt)) ∧ (t =
    { (begun e c 0x1A s) with regs := t.regs, ctxs := kset {} s.ctxs c (t.ctx c) } ∧ ∀ a, a ≠ Reg.CTX_V c h.d → rd t a = rd s a)) ∧
  (∀ (s : State) (e : Fin 8) (c : Nat) (w : Word) (h : HWord), atWord s e c 0x1A w = true → h = fieldsOf w 0#32 → op2Ok h = false → exec (.add e) s =
    .next (endRun c ccProgErr (wd (offOf s c (s.ctx c).pc)) (begun e c 0x1A s))) ∧
  (∀ (s : State) (e : Fin 8) (c : Nat) (w : Word), atExt s e c 0x1A w = true → exec (.add e) s = .next (endRun c ccProgErr (wd (offOf s c (s.ctx c).pc))
    (begun e c 0x1A s))) ∧
  (∀ (s : State) (e : Fin 8) (c : Nat) (w : Word) (h : HWord) (u v : Word), atWord s e c 0x1B w = true → h = fieldsOf w 0#32 → op2Ok h = true → u = getV
    s c h.a → v = op2s s c h → ∃ t, exec (.sub e) s = .next t ∧ getV t c h.d = u - v ∧ t.ctx c = ctxAfter s c (((s.ctx c).pc + 4) % 2 ^ 32) (u - v)
    (decide (u.toNat < v.toNat)) (decide ((u - v).toInt ≠ u.toInt - v.toInt)) ∧ (t =
    { (begun e c 0x1B s) with regs := t.regs, ctxs := kset {} s.ctxs c (t.ctx c) } ∧ ∀ a, a ≠ Reg.CTX_V c h.d → rd t a = rd s a)) ∧
  (∀ (s : State) (e : Fin 8) (c : Nat) (w : Word) (h : HWord), atWord s e c 0x1B w = true → h = fieldsOf w 0#32 → op2Ok h = false → exec (.sub e) s =
    .next (endRun c ccProgErr (wd (offOf s c (s.ctx c).pc)) (begun e c 0x1B s))) ∧
  (∀ (s : State) (e : Fin 8) (c : Nat) (w : Word), atExt s e c 0x1B w = true → exec (.sub e) s = .next (endRun c ccProgErr (wd (offOf s c (s.ctx c).pc))
    (begun e c 0x1B s))) ∧
  (∀ (s : State) (e : Fin 8) (c : Nat) (w : Word) (h : HWord) (r : Word), atWord s e c 0x1C w = true → h = fieldsOf w 0#32 → op2Ok h = true → r = getV s
    c h.a &&& op2z s c h → ∃ t, exec (.and e) s = .next t ∧ getV t c h.d = r ∧ t.ctx c = ctxAfter s c (((s.ctx c).pc + 4) % 2 ^ 32) r false false ∧ (t =
    { (begun e c 0x1C s) with regs := t.regs, ctxs := kset {} s.ctxs c (t.ctx c) } ∧ ∀ a, a ≠ Reg.CTX_V c h.d → rd t a = rd s a)) ∧
  (∀ (s : State) (e : Fin 8) (c : Nat) (w : Word) (h : HWord), atWord s e c 0x1C w = true → h = fieldsOf w 0#32 → op2Ok h = false → exec (.and e) s =
    .next (endRun c ccProgErr (wd (offOf s c (s.ctx c).pc)) (begun e c 0x1C s))) ∧
  (∀ (s : State) (e : Fin 8) (c : Nat) (w : Word), atExt s e c 0x1C w = true → exec (.and e) s = .next (endRun c ccProgErr (wd (offOf s c (s.ctx c).pc))
    (begun e c 0x1C s))) ∧
  (∀ (s : State) (e : Fin 8) (c : Nat) (w : Word) (h : HWord) (r : Word), atWord s e c 0x1D w = true → h = fieldsOf w 0#32 → op2Ok h = true → r = getV s
    c h.a ||| op2z s c h → ∃ t, exec (.or e) s = .next t ∧ getV t c h.d = r ∧ t.ctx c = ctxAfter s c (((s.ctx c).pc + 4) % 2 ^ 32) r false false ∧ (t =
    { (begun e c 0x1D s) with regs := t.regs, ctxs := kset {} s.ctxs c (t.ctx c) } ∧ ∀ a, a ≠ Reg.CTX_V c h.d → rd t a = rd s a)) ∧
  (∀ (s : State) (e : Fin 8) (c : Nat) (w : Word) (h : HWord), atWord s e c 0x1D w = true → h = fieldsOf w 0#32 → op2Ok h = false → exec (.or e) s =
    .next (endRun c ccProgErr (wd (offOf s c (s.ctx c).pc)) (begun e c 0x1D s))) ∧
  (∀ (s : State) (e : Fin 8) (c : Nat) (w : Word), atExt s e c 0x1D w = true → exec (.or e) s = .next (endRun c ccProgErr (wd (offOf s c (s.ctx c).pc))
    (begun e c 0x1D s))) ∧
  (∀ (s : State) (e : Fin 8) (c : Nat) (w : Word) (h : HWord) (r : Word), atWord s e c 0x1E w = true → h = fieldsOf w 0#32 → op2Ok h = true → r = getV s
    c h.a ^^^ op2z s c h → ∃ t, exec (.xor e) s = .next t ∧ getV t c h.d = r ∧ t.ctx c = ctxAfter s c (((s.ctx c).pc + 4) % 2 ^ 32) r false false ∧ (t =
    { (begun e c 0x1E s) with regs := t.regs, ctxs := kset {} s.ctxs c (t.ctx c) } ∧ ∀ a, a ≠ Reg.CTX_V c h.d → rd t a = rd s a)) ∧
  (∀ (s : State) (e : Fin 8) (c : Nat) (w : Word) (h : HWord), atWord s e c 0x1E w = true → h = fieldsOf w 0#32 → op2Ok h = false → exec (.xor e) s =
    .next (endRun c ccProgErr (wd (offOf s c (s.ctx c).pc)) (begun e c 0x1E s))) ∧
  (∀ (s : State) (e : Fin 8) (c : Nat) (w : Word), atExt s e c 0x1E w = true → exec (.xor e) s = .next (endRun c ccProgErr (wd (offOf s c (s.ctx c).pc))
    (begun e c 0x1E s))) ∧
  (∀ (s : State) (e : Fin 8) (c : Nat) (w : Word) (h : HWord) (r : Word), atWord s e c 0x1F w = true → h = fieldsOf w 0#32 → op2Ok h = true → r = getV s
    c h.a <<< ((op2z s c h).toNat % 32) → ∃ t, exec (.shl e) s = .next t ∧ getV t c h.d = r ∧ t.ctx c = ctxAfter s c (((s.ctx c).pc + 4) % 2 ^ 32) r false
    false ∧ (t = { (begun e c 0x1F s) with regs := t.regs, ctxs := kset {} s.ctxs c (t.ctx c) } ∧ ∀ a, a ≠ Reg.CTX_V c h.d → rd t a = rd s a)) ∧
  (∀ (s : State) (e : Fin 8) (c : Nat) (w : Word) (h : HWord), atWord s e c 0x1F w = true → h = fieldsOf w 0#32 → op2Ok h = false → exec (.shl e) s =
    .next (endRun c ccProgErr (wd (offOf s c (s.ctx c).pc)) (begun e c 0x1F s))) ∧
  (∀ (s : State) (e : Fin 8) (c : Nat) (w : Word), atExt s e c 0x1F w = true → exec (.shl e) s = .next (endRun c ccProgErr (wd (offOf s c (s.ctx c).pc))
    (begun e c 0x1F s))) ∧
  (∀ (s : State) (e : Fin 8) (c : Nat) (w : Word) (h : HWord) (r : Word), atWord s e c 0x20 w = true → h = fieldsOf w 0#32 → op2Ok h = true → r = getV s
    c h.a >>> ((op2z s c h).toNat % 32) → ∃ t, exec (.shr e) s = .next t ∧ getV t c h.d = r ∧ t.ctx c = ctxAfter s c (((s.ctx c).pc + 4) % 2 ^ 32) r false
    false ∧ (t = { (begun e c 0x20 s) with regs := t.regs, ctxs := kset {} s.ctxs c (t.ctx c) } ∧ ∀ a, a ≠ Reg.CTX_V c h.d → rd t a = rd s a)) ∧
  (∀ (s : State) (e : Fin 8) (c : Nat) (w : Word) (h : HWord), atWord s e c 0x20 w = true → h = fieldsOf w 0#32 → op2Ok h = false → exec (.shr e) s =
    .next (endRun c ccProgErr (wd (offOf s c (s.ctx c).pc)) (begun e c 0x20 s))) ∧
  (∀ (s : State) (e : Fin 8) (c : Nat) (w : Word), atExt s e c 0x20 w = true → exec (.shr e) s = .next (endRun c ccProgErr (wd (offOf s c (s.ctx c).pc))
    (begun e c 0x20 s))) ∧
  (∀ (s : State) (e : Fin 8) (c : Nat) (w : Word) (h : HWord) (r : Word), atWord s e c 0x21 w = true → h = fieldsOf w 0#32 → op2Ok h = true → r = (getV
    s c h.a).sshiftRight ((op2z s c h).toNat % 32) → ∃ t, exec (.sar e) s = .next t ∧ getV t c h.d = r ∧ t.ctx c = ctxAfter s c (((s.ctx c).pc + 4) % 2 ^
    32) r false false ∧ (t = { (begun e c 0x21 s) with regs := t.regs, ctxs := kset {} s.ctxs c (t.ctx c) } ∧ ∀ a, a ≠ Reg.CTX_V c h.d → rd t a = rd s a)) ∧
  (∀ (s : State) (e : Fin 8) (c : Nat) (w : Word) (h : HWord), atWord s e c 0x21 w = true → h = fieldsOf w 0#32 → op2Ok h = false → exec (.sar e) s =
    .next (endRun c ccProgErr (wd (offOf s c (s.ctx c).pc)) (begun e c 0x21 s))) ∧
  (∀ (s : State) (e : Fin 8) (c : Nat) (w : Word), atExt s e c 0x21 w = true → exec (.sar e) s = .next (endRun c ccProgErr (wd (offOf s c (s.ctx c).pc))
    (begun e c 0x21 s))) ∧
  (∀ (s : State) (e : Fin 8) (c : Nat) (w : Word) (h : HWord) (u v : Word), atWord s e c 0x22 w = true → h = fieldsOf w 0#32 → h.d = 0 → op2Ok h = true
    → u = getV s c h.a → v = op2s s c h → ∃ t, exec (.cmp e) s = .next t ∧ t.ctx c = ctxAfter s c (((s.ctx c).pc + 4) % 2 ^ 32) (u - v) (decide (u.toNat <
    v.toNat)) (decide ((u - v).toInt ≠ u.toInt - v.toInt)) ∧ (t = { (begun e c 0x22 s) with ctxs := kset {} s.ctxs c (t.ctx c) })) ∧
  (∀ (s : State) (e : Fin 8) (c : Nat) (w : Word) (h : HWord), atWord s e c 0x22 w = true → h = fieldsOf w 0#32 → (h.d == 0 && op2Ok h) = false → exec
    (.cmp e) s = .next (endRun c ccProgErr (wd (offOf s c (s.ctx c).pc)) (begun e c 0x22 s))) ∧
  (∀ (s : State) (e : Fin 8) (c : Nat) (w : Word), atExt s e c 0x22 w = true → exec (.cmp e) s = .next (endRun c ccProgErr (wd (offOf s c (s.ctx c).pc))
    (begun e c 0x22 s))) ∧
  (∀ (s : State) (e : Fin 8) (c : Nat) (w : Word) (h : HWord) (n : Nat) (l : List Byte) (r : Word), atWord s e c 0x23 w = true → h = fieldsOf w 0#32 →
    op2Ok h = true → n = h.a / 4 + 1 → l = (List.range n).map (fun i => (if h.a % 2 = 1 then varBytes s c else curBytes s c).getD ((op2z s c h).toNat + i)
    0) → r = wd (if h.a / 2 % 2 = 1 then beNat l else leNat l) → ∃ t, exec (.ldb e) s = .next t ∧ getV t c h.d = r ∧ t.ctx c =
    { ctxAfter s c (((s.ctx c).pc + 4) % 2 ^ 32) r false false with ff := decide ((if h.a % 2 = 1 then varBytes s c else curBytes s c).length < (op2z s c h).toNat + n) }
    ∧ (t = { (begun e c 0x23 s) with regs := t.regs, ctxs := kset {} s.ctxs c (t.ctx c) } ∧ ∀ a, a ≠ Reg.CTX_V c h.d → rd t a = rd s a)) ∧
  (∀ (s : State) (e : Fin 8) (c : Nat) (w : Word) (h : HWord), atWord s e c 0x23 w = true → h = fieldsOf w 0#32 → op2Ok h = false → exec (.ldb e) s =
    .next (endRun c ccProgErr (wd (offOf s c (s.ctx c).pc)) (begun e c 0x23 s))) ∧
  (∀ (s : State) (e : Fin 8) (c : Nat) (w : Word), atExt s e c 0x23 w = true → exec (.ldb e) s = .next (endRun c ccProgErr (wd (offOf s c (s.ctx c).pc))
    (begun e c 0x23 s))) ∧
  (∀ (s : State) (e : Fin 8) (c : Nat) (w : Word) (h : HWord) (n : Nat) (l : List Byte), atWord s e c 0x24 w = true → h = fieldsOf w 0#32 → op2Ok h =
    true → h.a % 2 = 0 → n = h.a / 4 + 1 → (op2z s c h).toNat + n ≤ 64 → l = leBytes n ((getV s c h.d).toNat % 2 ^ (8 * n)) → ∃ t, exec (.stb e) s = .next
    t ∧ varBytes t c = overlay (varBytes s c) (op2z s c h).toNat (if h.a / 2 % 2 = 1 then l.reverse else l) ∧ t.ctx c = ctxAfter s c (((s.ctx c).pc + 4) %
    2 ^ 32) (getV s c h.d) false false ∧ (t = { (begun e c 0x24 s) with regs := t.regs, ctxs := kset {} s.ctxs c (t.ctx c) } ∧ ∀ a, ¬ (Reg.CTX_V c 0 ≤ a ∧
    a ≤ Reg.CTX_V c 15) → rd t a = rd s a)) ∧
  (∀ (s : State) (e : Fin 8) (c : Nat) (w : Word) (h : HWord), atWord s e c 0x24 w = true → h = fieldsOf w 0#32 → (op2Ok h && h.a % 2 == 0 && decide
    ((op2z s c h).toNat + (h.a / 4 + 1) ≤ 64)) = false → exec (.stb e) s = .next (endRun c ccProgErr (wd (offOf s c (s.ctx c).pc)) (begun e c 0x24 s))) ∧
  (∀ (s : State) (e : Fin 8) (c : Nat) (w : Word), atExt s e c 0x24 w = true → exec (.stb e) s = .next (endRun c ccProgErr (wd (offOf s c (s.ctx c).pc))
    (begun e c 0x24 s))) ∧
  (∀ (s : State) (e : Fin 8) (c : Nat) (w : Word) (h : HWord) (l n f : Nat) (r : Word), atWord s e c 0x25 w = true → h = fieldsOf w 0#32 → h.i = true →
    h.k < 2 ^ 11 → l = h.k % 32 → n = h.k / 32 % 32 + 1 → l + n ≤ 32 → f = bits (getV s c h.a) (l + n - 1) l → r = (if 2 ^ 10 ≤ h.k then wd (toU 32 (sext
    n f)) else wd f) → ∃ t, exec (.field e) s = .next t ∧ getV t c h.d = r ∧ t.ctx c = ctxAfter s c (((s.ctx c).pc + 4) % 2 ^ 32) r false false ∧ (t =
    { (begun e c 0x25 s) with regs := t.regs, ctxs := kset {} s.ctxs c (t.ctx c) } ∧ ∀ a, a ≠ Reg.CTX_V c h.d → rd t a = rd s a)) ∧
  (∀ (s : State) (e : Fin 8) (c : Nat) (w : Word) (h : HWord), atWord s e c 0x25 w = true → h = fieldsOf w 0#32 → (h.i && h.k / 2 ^ 11 == 0 && decide
    (h.k % 32 + (h.k / 32 % 32 + 1) ≤ 32)) = false → exec (.field e) s = .next (endRun c ccProgErr (wd (offOf s c (s.ctx c).pc)) (begun e c 0x25 s))) ∧
  (∀ (s : State) (e : Fin 8) (c : Nat) (w : Word), atExt s e c 0x25 w = true → exec (.field e) s = .next (endRun c ccProgErr (wd (offOf s c (s.ctx
    c).pc)) (begun e c 0x25 s)))

/-- The message instructions (R380 to R394). `sentOn` is what a send to a CAN port leaves, `withSeq` the data with the sequence number (R382),
`expectStart` and `xferStart` evaluate what has reached the context and then wait (ContextInputs tells what they do with it). Literals are read
through the cache, whose order of use may change. -/
def Obligations.MessageInstructions : Prop :=
  (∀ (s : State) (e : Fin 8) (c : Nat) (w : Word) (x : Word) (h : HWord) (b : State) (a : Nat) (l d : List Word) (p : Nat) (m : Msg), atWords s e c 0x10
    w x = true → h = fieldsOf w x → b = (begunX e c 0x10 s) → h.a = 0 → h.i = true → h.k / 256 = 0 → refOf s c h.e = some a → fetchWords b c a 4 = .ok l →
    headOk l = true → fetchWords (touchLines a 4 b) c ((a + 16) % 2 ^ 32) ((bits (dw l 1) 31 20 + 3) / 4) = .ok d → p = s.get (.CTX_PARTNER_PORT c) → m =
    msgOf s c l (wordsBytes d) → onCan s c = true → msgOk s c m = true → seqPast s c (h.d % 2 == 1) m.len = false → txLevel s p < 32 → ∃ t, exec (.send e)
    s = .next t ∧ sentOn s t c p (((s.ctx c).pc + 8) % 2 ^ 32) h m = true ∧ (s.is (.CAN_SLEEP_WAKE_ON_TX p) = false → (t =
    { (begunX e c 0x10 s) with regs := t.regs, ctxs := kset {} s.ctxs c (t.ctx c), cans := t.cans, engs := t.engs, hcache := t.hcache } ∧ ∀ a, a ≠
    Reg.CTX_STAT c → a ≠ Reg.CTX_SEQ c → rd t a = rd s a))) ∧
  (∀ (s : State) (e : Fin 8) (c : Nat) (w : Word) (x : Word) (h : HWord) (b : State) (a : Nat) (l d : List Word) (p : Nat) (m : Msg), atWords s e c 0x10
    w x = true → h = fieldsOf w x → b = (begunX e c 0x10 s) → h.a = 0 → h.i = true → h.k / 256 = 0 → refOf s c h.e = some a → fetchWords b c a 4 = .ok l →
    headOk l = true → fetchWords (touchLines a 4 b) c ((a + 16) % 2 ^ 32) ((bits (dw l 1) 31 20 + 3) / 4) = .ok d → p = s.get (.CTX_PARTNER_PORT c) → m =
    msgOf s c l (wordsBytes d) → onCan s c = true → msgOk s c m = true → seqPast s c (h.d % 2 == 1) m.len = false → 32 ≤ txLevel s p → ∃ t, exec (.send e)
    s = .next t ∧ t.get (.CTX_STAT_STATE c) = stBlocked ∧ t.get (.CTX_STAT_WAIT_ON c) = 5 ∧ (t.ctx c).pc = (s.ctx c).pc ∧ (t =
    { (begunX e c 0x10 s) with regs := t.regs, ctxs := kset {} s.ctxs c (t.ctx c), engs := t.engs, hcache := t.hcache, blockCtr := t.blockCtr } ∧ ∀ a, a ≠
    Reg.CTX_STAT c → rd t a = rd s a)) ∧
  (∀ (s : State) (e : Fin 8) (c : Nat) (w : Word) (x : Word) (h : HWord) (b : State) (a : Nat) (l d : List Word) (m : Msg), atWords s e c 0x10 w x =
    true → h = fieldsOf w x → b = (begunX e c 0x10 s) → h.a = 0 → h.i = true → h.k / 256 = 0 → refOf s c h.e = some a → fetchWords b c a 4 = .ok l →
    headOk l = true → fetchWords (touchLines a 4 b) c ((a + 16) % 2 ^ 32) ((bits (dw l 1) 31 20 + 3) / 4) = .ok d → m = msgOf s c l (wordsBytes d) → onCan
    s c = true → msgOk s c m = false ∨ seqPast s c (h.d % 2 == 1) m.len = true → exec (.send e) s = .next (endRun c ccProgErr (wd (offOf s c (s.ctx
    c).pc)) (touchLines ((a + 16) % 2 ^ 32) ((bits (dw l 1) 31 20 + 3) / 4) (touchLines a 4 b)))) ∧
  (∀ (s : State) (e : Fin 8) (c : Nat) (w : Word) (x : Word) (h : HWord) (b : State) (a : Nat) (l d : List Word) (m : Msg), atWords s e c 0x10 w x =
    true → h = fieldsOf w x → b = (begunX e c 0x10 s) → h.a = 0 → h.i = true → h.k / 256 = 0 → refOf s c h.e = some a → fetchWords b c a 4 = .ok l →
    headOk l = true → fetchWords (touchLines a 4 b) c ((a + 16) % 2 ^ 32) ((bits (dw l 1) 31 20 + 3) / 4) = .ok d → m = plainOn s c (msgOf s c l
    (wordsBytes d)) (wordsBytes d) → s.get (.CTX_PARTNER_KIND c) = 2 → s2Refuses s m.len = false → seqPast s c (h.d % 2 == 1) m.len = false → s.sp2.xfer =
    none → ∃ t, exec (.send e) s = .next t ∧ t.get (.CTX_STAT_STATE c) = stWaiting ∧ t.get (.CTX_STAT_WAIT_ON c) = 2 ∧ (t.ctx c).wait = .s2 ∧ (t.ctx c).pc
    = (((s.ctx c).pc + 8) % 2 ^ 32) ∧ t.sp2 = (s2Send c (withSeq c (h.d % 2 == 1) m.frame.data s).1 s).sp2 ∧ t.cans = s.cans) ∧
  (∀ (s : State) (e : Fin 8) (c : Nat) (w : Word) (x : Word) (h : HWord) (b : State) (a : Nat) (l d : List Word) (m : Msg), atWords s e c 0x10 w x =
    true → h = fieldsOf w x → b = (begunX e c 0x10 s) → h.a = 0 → h.i = true → h.k / 256 = 0 → refOf s c h.e = some a → fetchWords b c a 4 = .ok l →
    headOk l = true → fetchWords (touchLines a 4 b) c ((a + 16) % 2 ^ 32) ((bits (dw l 1) 31 20 + 3) / 4) = .ok d → m = plainOn s c (msgOf s c l
    (wordsBytes d)) (wordsBytes d) → s.get (.CTX_PARTNER_KIND c) = 2 → s2Refuses s m.len = false → seqPast s c (h.d % 2 == 1) m.len = false →
    s.sp2.xfer.isSome = true → ∃ t, exec (.send e) s = .next t ∧ t.get (.CTX_STAT_STATE c) = stBlocked ∧ t.get (.CTX_STAT_WAIT_ON c) = 7 ∧ (t.ctx c).pc =
    (s.ctx c).pc ∧ (t =
    { (begunX e c 0x10 s) with regs := t.regs, ctxs := kset {} s.ctxs c (t.ctx c), engs := t.engs, hcache := t.hcache, blockCtr := t.blockCtr } ∧ ∀ a, a ≠
    Reg.CTX_STAT c → rd t a = rd s a)) ∧
  (∀ (s : State) (e : Fin 8) (c : Nat) (w : Word) (x : Word) (h : HWord) (b : State) (a : Nat) (l d : List Word) (m : Msg), atWords s e c 0x10 w x =
    true → h = fieldsOf w x → b = (begunX e c 0x10 s) → h.a = 0 → h.i = true → h.k / 256 = 0 → refOf s c h.e = some a → fetchWords b c a 4 = .ok l →
    headOk l = true → fetchWords (touchLines a 4 b) c ((a + 16) % 2 ^ 32) ((bits (dw l 1) 31 20 + 3) / 4) = .ok d → m = plainOn s c (msgOf s c l
    (wordsBytes d)) (wordsBytes d) → s.get (.CTX_PARTNER_KIND c) = 2 → s2Refuses s m.len = true → 8 ≤ h.d → ∃ t, exec (.send e) s = .next t ∧ t.ctx c =
    { s.ctx c with pc := (((s.ctx c).pc + 8) % 2 ^ 32), ff := true } ∧ (t =
    { (begunX e c 0x10 s) with ctxs := kset {} s.ctxs c (t.ctx c), hcache := t.hcache })) ∧
  (∀ (s : State) (e : Fin 8) (c : Nat) (w : Word) (x : Word) (h : HWord) (b : State) (a : Nat) (l d : List Word) (m : Msg), atWords s e c 0x10 w x =
    true → h = fieldsOf w x → b = (begunX e c 0x10 s) → h.a = 0 → h.i = true → h.k / 256 = 0 → refOf s c h.e = some a → fetchWords b c a 4 = .ok l →
    headOk l = true → fetchWords (touchLines a 4 b) c ((a + 16) % 2 ^ 32) ((bits (dw l 1) 31 20 + 3) / 4) = .ok d → m = plainOn s c (msgOf s c l
    (wordsBytes d)) (wordsBytes d) → s.get (.CTX_PARTNER_KIND c) = 2 → s2Refuses s m.len = true → h.d < 8 → exec (.send e) s = .next (endRun c ccRefused
    (wd (offOf s c (s.ctx c).pc)) (touchLines ((a + 16) % 2 ^ 32) ((bits (dw l 1) 31 20 + 3) / 4) (touchLines a 4 b)))) ∧
  (∀ (s : State) (e : Fin 8) (c : Nat) (w : Word) (x : Word) (h : HWord) (b : State) (a : Nat) (l : List Word), atWords s e c 0x10 w x = true → h =
    fieldsOf w x → b = (begunX e c 0x10 s) → h.a = 0 → h.i = true → h.k / 256 = 0 → hasPartner s c = true → refOf s c h.e = some a → fetchWords b c a 4 =
    .ok l → headOk l = false → exec (.send e) s = .next (endRun c ccProgErr (wd (offOf s c (s.ctx c).pc)) (touchLines a 4 b))) ∧
  (∀ (s : State) (e : Fin 8) (c : Nat) (w : Word) (x : Word) (h : HWord), atWords s e c 0x10 w x = true → h = fieldsOf w x → (h.a == 0 && h.i && h.k /
    256 == 0 && hasPartner s c) = false ∨ refOf s c h.e = none → exec (.send e) s = .next (endRun c ccProgErr (wd (offOf s c (s.ctx c).pc)) (begunX e c
    0x10 s))) ∧
  (∀ (s : State) (e : Fin 8) (c : Nat) (w : Word) (h : HWord), atWord s e c 0x10 w = true → h = fieldsOf w 0#32 → exec (.send e) s = .next (endRun c
    ccProgErr (wd (offOf s c (s.ctx c).pc)) (begun e c 0x10 s))) ∧
  (∀ (s : State) (e : Fin 8) (c : Nat) (w : Word) (h : HWord) (p : Nat) (m : Msg), atWord s e c 0x11 w = true → h = fieldsOf w 0#32 → h.i = true → h.k /
    256 ≤ 8 → p = s.get (.CTX_PARTNER_PORT c) → m = msgOf s c [rd s (Reg.CTX_TXID c), wd (h.k / 256 * 2 ^ 20), 0, 0] ((varBytes s c).drop (4 * h.a)) →
    onCan s c = true → 4 * h.a + m.len ≤ 64 → msgOk s c m = true → seqPast s c (h.d % 2 == 1) m.len = false → txLevel s p < 32 → ∃ t, exec (.sendv e) s =
    .next t ∧ sentOn s t c p (((s.ctx c).pc + 4) % 2 ^ 32) h m = true ∧ (s.is (.CAN_SLEEP_WAKE_ON_TX p) = false → (t =
    { (begun e c 0x11 s) with regs := t.regs, ctxs := kset {} s.ctxs c (t.ctx c), cans := t.cans, engs := t.engs, hcache := t.hcache } ∧ ∀ a, a ≠
    Reg.CTX_STAT c → a ≠ Reg.CTX_SEQ c → rd t a = rd s a))) ∧
  (∀ (s : State) (e : Fin 8) (c : Nat) (w : Word) (h : HWord) (p n v : Nat) (m : Msg), atWord s e c 0x11 w = true → h = fieldsOf w 0#32 → h.i = true →
    h.k / 256 ≤ 8 → p = s.get (.CTX_PARTNER_PORT c) → m = msgOf s c [rd s (Reg.CTX_TXID c), wd (h.k / 256 * 2 ^ 20), 0, 0] ((varBytes s c).drop (4 * h.a))
    → onCan s c = true → 4 * h.a + m.len ≤ 64 → msgOk s c m = true → h.d % 2 = 0 → n = txw s c → 0 < n → s.get (.CTX_SEQCFG_TXPOS c) + (n + 7) / 8 ≤ m.len
    → v = (if (s.ctx c).p then (s.get (.CTX_SEQ_TX_SEQ c) + 1) % 2 ^ n else s.get (.CTX_SEQ_TX_SEQ c)) → txLevel s p < 32 → ∃ t, exec (.sendv e) s = .next
    t ∧ ((t.can p).txq.getLast?.map (fun y => y.frame.data)) = some ((insertSeq (s.is (.CTX_SEQCFG_TXBE c)) n (s.get (.CTX_SEQCFG_TXPOS c)) v
    m.frame.data).take m.frame.data.length) ∧ t.get (.CTX_SEQ_TX_SEQ c) = v ∧ (t.ctx c).p = true) ∧
  (∀ (s : State) (e : Fin 8) (c : Nat) (w : Word) (h : HWord) (m : Msg), atWord s e c 0x11 w = true → h = fieldsOf w 0#32 → h.i = true → h.k / 256 ≤ 8 →
    m = msgOf s c [rd s (Reg.CTX_TXID c), wd (h.k / 256 * 2 ^ 20), 0, 0] ((varBytes s c).drop (4 * h.a)) → onCan s c = true → m.frame.rtr = false → 64 < 4
    * h.a + m.len ∨ msgOk s c m = false ∨ seqPast s c (h.d % 2 == 1) m.len = true → exec (.sendv e) s = .next (endRun c ccProgErr (wd (offOf s c (s.ctx
    c).pc)) (begun e c 0x11 s))) ∧
  (∀ (s : State) (e : Fin 8) (c : Nat) (w : Word) (h : HWord) (p : Nat) (m : Msg), atWord s e c 0x11 w = true → h = fieldsOf w 0#32 → h.i = true → h.k /
    256 ≤ 8 → p = s.get (.CTX_PARTNER_PORT c) → m = msgOf s c [rd s (Reg.CTX_TXID c), wd (h.k / 256 * 2 ^ 20), 0, 0] ((varBytes s c).drop (4 * h.a)) →
    onCan s c = true → 4 * h.a + m.len ≤ 64 → msgOk s c m = true → seqPast s c (h.d % 2 == 1) m.len = false → 32 ≤ txLevel s p → ∃ t, exec (.sendv e) s =
    .next t ∧ t.get (.CTX_STAT_STATE c) = stBlocked ∧ t.get (.CTX_STAT_WAIT_ON c) = 5 ∧ (t.ctx c).pc = (s.ctx c).pc ∧ (t =
    { (begun e c 0x11 s) with regs := t.regs, ctxs := kset {} s.ctxs c (t.ctx c), engs := t.engs, blockCtr := t.blockCtr } ∧ ∀ a, a ≠ Reg.CTX_STAT c → rd
    t a = rd s a)) ∧
  (∀ (s : State) (e : Fin 8) (c : Nat) (w : Word) (h : HWord) (m : Msg), atWord s e c 0x11 w = true → h = fieldsOf w 0#32 → h.i = true → h.k / 256 ≤ 8 →
    m = plainOn s c (msgOf s c [rd s (Reg.CTX_TXID c), wd (h.k / 256 * 2 ^ 20), 0, 0] ((varBytes s c).drop (4 * h.a))) ((varBytes s c).drop (4 * h.a)) →
    s.get (.CTX_PARTNER_KIND c) = 2 → 4 * h.a + m.len ≤ 64 → s2Refuses s m.len = false → seqPast s c (h.d % 2 == 1) m.len = false → s.sp2.xfer = none → ∃
    t, exec (.sendv e) s = .next t ∧ t.get (.CTX_STAT_STATE c) = stWaiting ∧ t.get (.CTX_STAT_WAIT_ON c) = 2 ∧ (t.ctx c).wait = .s2 ∧ (t.ctx c).pc =
    (((s.ctx c).pc + 4) % 2 ^ 32) ∧ t.sp2 = (s2Send c (withSeq c (h.d % 2 == 1) m.frame.data s).1 s).sp2 ∧ t.cans = s.cans) ∧
  (∀ (s : State) (e : Fin 8) (c : Nat) (w : Word) (h : HWord) (m : Msg), atWord s e c 0x11 w = true → h = fieldsOf w 0#32 → h.i = true → h.k / 256 ≤ 8 →
    m = plainOn s c (msgOf s c [rd s (Reg.CTX_TXID c), wd (h.k / 256 * 2 ^ 20), 0, 0] ((varBytes s c).drop (4 * h.a))) ((varBytes s c).drop (4 * h.a)) →
    s.get (.CTX_PARTNER_KIND c) = 2 → 4 * h.a + m.len ≤ 64 → s2Refuses s m.len = true → 8 ≤ h.d → ∃ t, exec (.sendv e) s = .next t ∧ t.ctx c =
    { s.ctx c with pc := (((s.ctx c).pc + 4) % 2 ^ 32), ff := true } ∧ (t = { (begun e c 0x11 s) with ctxs := kset {} s.ctxs c (t.ctx c) })) ∧
  (∀ (s : State) (e : Fin 8) (c : Nat) (w : Word) (h : HWord) (m : Msg), atWord s e c 0x11 w = true → h = fieldsOf w 0#32 → h.i = true → h.k / 256 ≤ 8 →
    m = plainOn s c (msgOf s c [rd s (Reg.CTX_TXID c), wd (h.k / 256 * 2 ^ 20), 0, 0] ((varBytes s c).drop (4 * h.a))) ((varBytes s c).drop (4 * h.a)) →
    s.get (.CTX_PARTNER_KIND c) = 2 → 4 * h.a + m.len ≤ 64 → s2Refuses s m.len = true → h.d < 8 → exec (.sendv e) s = .next (endRun c ccRefused (wd (offOf
    s c (s.ctx c).pc)) (begun e c 0x11 s))) ∧
  (∀ (s : State) (e : Fin 8) (c : Nat) (w : Word) (h : HWord), atWord s e c 0x11 w = true → h = fieldsOf w 0#32 → (h.i && hasPartner s c && decide (h.k
    / 256 ≤ 8)) = false → exec (.sendv e) s = .next (endRun c ccProgErr (wd (offOf s c (s.ctx c).pc)) (begun e c 0x11 s))) ∧
  (∀ (s : State) (e : Fin 8) (c : Nat) (w : Word) (x : Word) (h : HWord) (b : State) (a : Nat) (l : List Word) (p : Nat) (m : Msg), atWords s e c 0x11 w
    x = true → h = fieldsOf w x → b = (begunX e c 0x11 s) → h.i = true → h.k / 256 = 0 → p = s.get (.CTX_PARTNER_PORT c) → onCan s c = true → refOf s c
    h.e = some a → fetchWords b c a 4 = .ok l → headOk l = true → m = msgOf s c l ((varBytes s c).drop (4 * h.a)) → 4 * h.a + (if m.frame.rtr && !isFD
    m.frame.idw && !isXL m.frame.idw then 0 else m.len) ≤ 64 → msgOk s c m = true → seqPast s c (h.d % 2 == 1) m.len = false → txLevel s p < 32 → ∃ t,
    exec (.sendv e) s = .next t ∧ sentOn s t c p (((s.ctx c).pc + 8) % 2 ^ 32) h m = true ∧ (s.is (.CAN_SLEEP_WAKE_ON_TX p) = false → (t =
    { (begunX e c 0x11 s) with regs := t.regs, ctxs := kset {} s.ctxs c (t.ctx c), cans := t.cans, engs := t.engs, hcache := t.hcache } ∧ ∀ a, a ≠
    Reg.CTX_STAT c → a ≠ Reg.CTX_SEQ c → rd t a = rd s a))) ∧
  (∀ (s : State) (e : Fin 8) (c : Nat) (w : Word) (x : Word) (h : HWord) (b : State) (a : Nat) (l : List Word) (m : Msg), atWords s e c 0x11 w x = true
    → h = fieldsOf w x → b = (begunX e c 0x11 s) → h.i = true → h.k / 256 = 0 → s.get (.CTX_PARTNER_KIND c) = 2 → refOf s c h.e = some a → fetchWords b c
    a 4 = .ok l → headOk l = true → m = plainOn s c (msgOf s c l ((varBytes s c).drop (4 * h.a))) ((varBytes s c).drop (4 * h.a)) → 4 * h.a + m.len ≤ 64 →
    exec (.sendv e) s = .next (sendMsg c h m (touchLines a 4 b))) ∧
  (∀ (s : State) (e : Fin 8) (c : Nat) (w : Word) (x : Word) (h : HWord), atWords s e c 0x11 w x = true → h = fieldsOf w x → (h.i && hasPartner s c &&
    h.k / 256 == 0) = false ∨ refOf s c h.e = none → exec (.sendv e) s = .next (endRun c ccProgErr (wd (offOf s c (s.ctx c).pc)) (begunX e c 0x11 s))) ∧
  (∀ (s : State) (e : Fin 8) (c : Nat) (w : Word) (x : Word) (h : HWord) (b : State) (a : Nat) (d : List Word), atWords s e c 0x12 w x = true → h =
    fieldsOf w x → b = (begunX e c 0x12 s) → bare h = true → hasPartner s c = true → refOf s c h.e = some a → fetchWords b c a 8 = .ok d → descOk (cvOf s
    c).isSome d = true → exec (.expect e) s = .next (expectStart c h [d] none (touchLines a 8 b))) ∧
  (∀ (s : State) (e : Fin 8) (c : Nat) (w : Word) (x : Word) (h : HWord) (b : State) (a : Nat) (d : List Word), atWords s e c 0x12 w x = true → h =
    fieldsOf w x → b = (begunX e c 0x12 s) → bare h = true → hasPartner s c = true → refOf s c h.e = some a → fetchWords b c a 8 = .ok d → descOk (cvOf s
    c).isSome d = true → bits (dw d 4) 31 16 = 0 → bits (dw d 4) 1 0 = 0 → (s.ctx c).inbox = [] → (s.ctx c).evOff = false → (s.ctx c).evAbs = false → ∃ t,
    exec (.expect e) s = .next t ∧ t.get (.CTX_STAT_STATE c) = stWaiting ∧ t.get (.CTX_STAT_WAIT_ON c) = 2 ∧ (t.ctx c).pc = (((s.ctx c).pc + 8) % 2 ^ 32)
    ∧ (t.eng e).ctx = none ∧ (t = { (begunX e c 0x12 s) with regs := t.regs, ctxs := kset {} s.ctxs c (t.ctx c), engs := t.engs, hcache := t.hcache } ∧ ∀
    a, a ≠ Reg.CTX_STAT c → rd t a = rd s a)) ∧
  (∀ (s : State) (e : Fin 8) (c : Nat) (w : Word) (x : Word) (h : HWord) (b : State) (a : Nat) (d : List Word) (f : RxEnt), atWords s e c 0x12 w x =
    true → h = fieldsOf w x → b = (begunX e c 0x12 s) → bare h = true → hasPartner s c = true → refOf s c h.e = some a → fetchWords b c a 8 = .ok d →
    descOk (cvOf s c).isSome d = true → bits (dw d 4) 31 16 = 0 → bits (dw d 4) 1 0 = 0 → (s.ctx c).inbox = [f] → rxMissing f = 0 → (s.ctx c).evOff =
    false → (s.ctx c).evAbs = false → frameMatch d f = true → bitAt (dw d 5) 31 = false → rxw s c = 0 → actionOf (dw d 6) ocMatch = 0 → ∃ t, exec (.expect
    e) s = .next t ∧ t.get (.CTX_STAT_STATE c) = stRunning ∧ t.get (.CTX_STAT_LAST_OUT c) = ocMatch ∧ (t.ctx c).pc = (((s.ctx c).pc + 8) % 2 ^ 32) ∧
    (t.ctx c).cur = some f ∧ (t.ctx c).inbox = [] ∧ (t.ctx c).wait = .none ∧ (t =
    { (begunX e c 0x12 s) with regs := t.regs, ctxs := kset {} s.ctxs c (t.ctx c), hcache := t.hcache } ∧ ∀ a, a ≠ Reg.CTX_STAT c → a ≠ Reg.CTX_SEQ c → rd
    t a = rd s a)) ∧
  (∀ (s : State) (e : Fin 8) (c : Nat) (w : Word) (x : Word) (h : HWord) (b : State) (a : Nat) (d : List Word), atWords s e c 0x12 w x = true → h =
    fieldsOf w x → b = (begunX e c 0x12 s) → bare h = true → hasPartner s c = true → refOf s c h.e = some a → fetchWords b c a 8 = .ok d → descOk (cvOf s
    c).isSome d = false → exec (.expect e) s = .next (endRun c ccProgErr (wd (offOf s c (s.ctx c).pc)) (touchLines a 8 b))) ∧
  (∀ (s : State) (e : Fin 8) (c : Nat) (w : Word) (x : Word) (h : HWord), atWords s e c 0x12 w x = true → h = fieldsOf w x → (bare h && hasPartner s c
    && (refOf s c h.e).isSome) = false → exec (.expect e) s = .next (endRun c ccProgErr (wd (offOf s c (s.ctx c).pc)) (begunX e c 0x12 s))) ∧
  (∀ (s : State) (e : Fin 8) (c : Nat) (w : Word) (h : HWord), atWord s e c 0x12 w = true → h = fieldsOf w 0#32 → exec (.expect e) s = .next (endRun c
    ccProgErr (wd (offOf s c (s.ctx c).pc)) (begun e c 0x12 s))) ∧
  (∀ (s : State) (e : Fin 8) (c : Nat) (w : Word) (x : Word) (h : HWord) (b : State) (a : Nat) (n : Word) (d : List Word), atWords s e c 0x13 w x = true
    → h = fieldsOf w x → b = (begunX e c 0x13 s) → noK h = true → h.a = 0 → hasPartner s c = true → refOf s c h.e = some a → fetchWords b c a 1 = .ok [n]
    → 1 ≤ n.toNat → n.toNat ≤ 4 → fetchWords (touchLines a 1 b) c ((a + 4) % 2 ^ 32) (8 * n.toNat) = .ok d → (groups 8 n.toNat d).all (descOk (cvOf s
    c).isSome) = true → exec (.expectany e) s = .next (expectStart c h (groups 8 n.toNat d) (some h.d) (touchLines ((a + 4) % 2 ^ 32) (8 * n.toNat)
    (touchLines a 1 b)))) ∧
  (∀ (s : State) (e : Fin 8) (c : Nat) (w : Word) (x : Word) (h : HWord) (b : State) (a : Nat) (n : Word) (d : List Word), atWords s e c 0x13 w x = true
    → h = fieldsOf w x → b = (begunX e c 0x13 s) → noK h = true → h.a = 0 → hasPartner s c = true → refOf s c h.e = some a → fetchWords b c a 1 = .ok [n]
    → 1 ≤ n.toNat → n.toNat ≤ 4 → fetchWords (touchLines a 1 b) c ((a + 4) % 2 ^ 32) (8 * n.toNat) = .ok d → (groups 8 n.toNat d).all (descOk (cvOf s
    c).isSome) = true → bits (dw d 4) 31 16 = 0 → bits (dw d 4) 1 0 = 0 → (s.ctx c).inbox = [] → (s.ctx c).evOff = false → (s.ctx c).evAbs = false → ∃ t,
    exec (.expectany e) s = .next t ∧ t.get (.CTX_STAT_STATE c) = stWaiting ∧ t.get (.CTX_STAT_WAIT_ON c) = 2 ∧ (t.ctx c).pc = (((s.ctx c).pc + 8) % 2 ^
    32) ∧ (t = { (begunX e c 0x13 s) with regs := t.regs, ctxs := kset {} s.ctxs c (t.ctx c), engs := t.engs, hcache := t.hcache } ∧ ∀ a, a ≠ Reg.CTX_STAT
    c → rd t a = rd s a)) ∧
  (∀ (s : State) (e : Fin 8) (c : Nat) (w : Word) (x : Word) (h : HWord) (b : State) (a : Nat) (n : Word), atWords s e c 0x13 w x = true → h = fieldsOf
    w x → b = (begunX e c 0x13 s) → noK h = true → h.a = 0 → hasPartner s c = true → refOf s c h.e = some a → fetchWords b c a 1 = .ok [n] → n.toNat = 0 ∨
    4 < n.toNat → exec (.expectany e) s = .next (endRun c ccProgErr (wd (offOf s c (s.ctx c).pc)) (touchLines a 1 b))) ∧
  (∀ (s : State) (e : Fin 8) (c : Nat) (w : Word) (x : Word) (h : HWord), atWords s e c 0x13 w x = true → h = fieldsOf w x → (noK h && h.a == 0 &&
    hasPartner s c && (refOf s c h.e).isSome) = false → exec (.expectany e) s = .next (endRun c ccProgErr (wd (offOf s c (s.ctx c).pc)) (begunX e c 0x13
    s))) ∧
  (∀ (s : State) (e : Fin 8) (c : Nat) (w : Word) (h : HWord), atWord s e c 0x13 w = true → h = fieldsOf w 0#32 → exec (.expectany e) s = .next (endRun
    c ccProgErr (wd (offOf s c (s.ctx c).pc)) (begun e c 0x13 s))) ∧
  (∀ (s : State) (e : Fin 8) (c : Nat) (w : Word) (h : HWord), atWord s e c 0x14 w = true → h = fieldsOf w 0#32 → noK h = true → h.a = 0 → h.d < 8 →
    hasPartner s c = true → h.d < 4 ∨ onCan s c = false → ∃ t, exec (.flush e) s = .next t ∧ (t.ctx c).inbox = (if h.d % 2 = 1 then [] else (s.ctx
    c).inbox) ∧ (t.ctx c).cur = (if h.d % 2 = 1 then none else (s.ctx c).cur) ∧ (t.ctx c).evOff = (decide (h.d / 2 % 2 = 0) && (s.ctx c).evOff) ∧ (t.ctx
    c).evAbs = (decide (h.d / 2 % 2 = 0) && (s.ctx c).evAbs) ∧ (t.ctx c).pc = (((s.ctx c).pc + 4) % 2 ^ 32) ∧ (t =
    { (begun e c 0x14 s) with ctxs := kset {} s.ctxs c (t.ctx c) })) ∧
  (∀ (s : State) (e : Fin 8) (c : Nat) (w : Word) (h : HWord) (p : Nat), atWord s e c 0x14 w = true → h = fieldsOf w 0#32 → noK h = true → h.a = 0 → 4 ≤
    h.d → h.d < 8 → onCan s c = true → p = s.get (.CTX_PARTNER_PORT c) → (s.can p).txq.Pairwise (fun x y => x.id ≠ y.id) → ∃ t, exec (.flush e) s = .next
    t ∧ (∀ y ∈ (t.can p).txq, y.src = .hoist c → (s.can p).att = some y.id) ∧ (∀ y ∈ (s.can p).txq, y.src ≠ .hoist c ∨ (s.can p).att = some y.id → y ∈
    (t.can p).txq) ∧ (t.ctx c).inbox = (if h.d % 2 = 1 then [] else (s.ctx c).inbox) ∧ (t.ctx c).pc = (((s.ctx c).pc + 4) % 2 ^ 32)) ∧
  (∀ (s : State) (e : Fin 8) (c : Nat) (w : Word) (h : HWord), atWord s e c 0x14 w = true → h = fieldsOf w 0#32 → (noK h && h.a == 0 && decide (h.d < 8)
    && hasPartner s c) = false → exec (.flush e) s = .next (endRun c ccProgErr (wd (offOf s c (s.ctx c).pc)) (begun e c 0x14 s))) ∧
  (∀ (s : State) (e : Fin 8) (c : Nat) (w : Word), atExt s e c 0x14 w = true → exec (.flush e) s = .next (endRun c ccProgErr (wd (offOf s c (s.ctx
    c).pc)) (begun e c 0x14 s))) ∧
  (∀ (s : State) (e : Fin 8) (c : Nat) (w : Word) (x : Word) (h : HWord) (b : State) (a : Nat) (d : List Word), atWords s e c 0x15 w x = true → h =
    fieldsOf w x → b = (begunX e c 0x15 s) → bare h = true → onCan s c = true → refOf s c h.e = some a → fetchWords b c a 10 = .ok d → xferOk s c true d =
    true → bits (dw d 5) 31 30 = 1 → exec (.xferTx e) s = .next (xferStart c h
    { tx := true, at_ := (s.ctx c).pc, next := nextPc h (s.ctx c).pc, desc := d, buf := (varBytes s c).take (bits (dw d 5) 15 0), total := bits (dw d 5) 15 0 }
    xferTxStart (retryHere c (s.ctx c).pc (touchLines a 10 b)))) ∧
  (∀ (s : State) (e : Fin 8) (c : Nat) (w : Word) (x : Word) (h : HWord) (b : State) (a : Nat) (d : List Word) (n : Nat) (l : List Word), atWords s e c
    0x15 w x = true → h = fieldsOf w x → b = (begunX e c 0x15 s) → bare h = true → onCan s c = true → refOf s c h.e = some a → fetchWords b c a 10 = .ok d
    → xferOk s c true d = true → bits (dw d 5) 31 30 ≠ 1 → n = (s.get (.CTX_PROG_PROG c) + (dw d 6).toNat) % 2 ^ 32 → fetchWords (touchLines a 10 b) c (n
    / 4 * 4) ((n % 4 + bits (dw d 5) 15 0 + 3) / 4) = .ok l → exec (.xferTx e) s = .next (xferStart c h
    { tx := true, at_ := (s.ctx c).pc, next := nextPc h (s.ctx c).pc, desc := d, buf := ((wordsBytes l).drop (n % 4)).take (bits (dw d 5) 15 0), total := bits (dw d 5) 15 0 }
    xferTxStart (retryHere c (s.ctx c).pc (touchLines (n / 4 * 4) ((n % 4 + bits (dw d 5) 15 0 + 3) / 4) (touchLines a 10 b))))) ∧
  (∀ (s : State) (e : Fin 8) (c : Nat) (w : Word) (x : Word) (h : HWord) (b : State) (a : Nat) (d : List Word), atWords s e c 0x15 w x = true → h =
    fieldsOf w x → b = (begunX e c 0x15 s) → bare h = true → onCan s c = true → refOf s c h.e = some a → fetchWords b c a 10 = .ok d → xferOk s c true d =
    false → exec (.xferTx e) s = .next (endRun c ccProgErr (wd (offOf s c (s.ctx c).pc)) (touchLines a 10 b))) ∧
  (∀ (s : State) (e : Fin 8) (c : Nat) (w : Word) (x : Word) (h : HWord), atWords s e c 0x15 w x = true → h = fieldsOf w x → (bare h && onCan s c &&
    (refOf s c h.e).isSome) = false → exec (.xferTx e) s = .next (endRun c ccProgErr (wd (offOf s c (s.ctx c).pc)) (begunX e c 0x15 s))) ∧
  (∀ (s : State) (e : Fin 8) (c : Nat) (w : Word) (h : HWord), atWord s e c 0x15 w = true → h = fieldsOf w 0#32 → exec (.xferTx e) s = .next (endRun c
    ccProgErr (wd (offOf s c (s.ctx c).pc)) (begun e c 0x15 s))) ∧
  (∀ (s : State) (e : Fin 8) (c : Nat) (w : Word) (x : Word) (h : HWord) (b : State) (a q : Nat) (d : List Word), atWords s e c 0x16 w x = true → h =
    fieldsOf w x → b = (begunX e c 0x16 s) → noK h = true → h.a = 0 → onCan s c = true → refOf s c h.e = some a → resQueue s c = some q → qVar s q = true
    → fetchWords b c a 10 = .ok d → xferOk s c false d = true → exec (.xferRx e) s = .next (xferStart c h
    { tx := false, at_ := (s.ctx c).pc, next := nextPc h (s.ctx c).pc, desc := d, dreg := h.d, phase := 8, deadline := if bits (dw d 7) 31 16 = 0 then none else some (clk s + 49152 * bits (dw d 7) 31 16) }
    (fun c w s => setXfer c w (dropResv c s)) (touchLines a 10 b))) ∧
  (∀ (s : State) (e : Fin 8) (c : Nat) (w : Word) (x : Word) (h : HWord) (b : State) (a q : Nat) (d : List Word), atWords s e c 0x16 w x = true → h =
    fieldsOf w x → b = (begunX e c 0x16 s) → noK h = true → h.a = 0 → onCan s c = true → refOf s c h.e = some a → resQueue s c = some q → qVar s q = true
    → fetchWords b c a 10 = .ok d → xferOk s c false d = true → (s.ctx c).inbox = [] → (s.ctx c).evOff = false → (s.ctx c).evAbs = false → (s.ctx c).resv
    = none → ∃ t, exec (.xferRx e) s = .next t ∧ t.get (.CTX_STAT_STATE c) = stWaiting ∧ t.get (.CTX_STAT_WAIT_ON c) = 2 ∧ (t.ctx c).pc = (((s.ctx c).pc +
    8) % 2 ^ 32) ∧ (t = { (begunX e c 0x16 s) with regs := t.regs, ctxs := kset {} s.ctxs c (t.ctx c), engs := t.engs, hcache := t.hcache } ∧ ∀ a, a ≠
    Reg.CTX_STAT c → rd t a = rd s a)) ∧
  (∀ (s : State) (e : Fin 8) (c : Nat) (w : Word) (x : Word) (h : HWord), atWords s e c 0x16 w x = true → h = fieldsOf w x → (noK h && h.a == 0 && onCan
    s c && (refOf s c h.e).isSome && ((resQueue s c).map (qVar s)).getD false) = false → exec (.xferRx e) s = .next (endRun c ccProgErr (wd (offOf s c
    (s.ctx c).pc)) (begunX e c 0x16 s))) ∧
  (∀ (s : State) (e : Fin 8) (c : Nat) (w : Word) (h : HWord), atWord s e c 0x16 w = true → h = fieldsOf w 0#32 → exec (.xferRx e) s = .next (endRun c
    ccProgErr (wd (offOf s c (s.ctx c).pc)) (begun e c 0x16 s)))

/-- The instructions of R379 and R395 to R397. What is read is read in the state in which the instruction has its effect (`begun`). `busRead` and
`busFn0` are what a read and a write of a register by that requester do, `doCmd` and `aoSet` what commands to outputs do (DigitalOutputCommands,
CurrentOutputCommands), `injQueue` a request for a conversion, `qPush` a write into a queue. DIN of a fast average reads a free value (assumption log
4). -/
def Obligations.UnitAndResultInstructions : Prop :=
  (∀ (s : State) (e : Fin 8) (c : Nat) (w : Word) (h : HWord) (p : Word × State), atWord s e c 0x26 w = true → h = fieldsOf w 0#32 → h.i = true →
    hoistAddr (regAddr s c h true) = true → p = busRead (.eng e) (regAddr s c h true) (begun e c 0x26 s) → ∃ t, exec (.rdr e) s = .next t ∧ getV t c h.d =
    p.1 ∧ t.ctx c = ctxAfter p.2 c (((s.ctx c).pc + 4) % 2 ^ 32) p.1 false false ∧ t = { p.2 with regs := t.regs, ctxs := kset {} p.2.ctxs c (t.ctx c) } ∧
    ∀ a, a ≠ Reg.CTX_V c h.d → rd t a = rd p.2 a) ∧
  (∀ (s : State) (e : Fin 8) (c : Nat) (w : Word) (x : Word) (h : HWord) (p : Word × State), atWords s e c 0x26 w x = true → h = fieldsOf w x → noK h =
    true → h.a = 0 → hoistAddr x.toNat = true → p = busRead (.eng e) x.toNat (begunX e c 0x26 s) → ∃ t, exec (.rdr e) s = .next t ∧ getV t c h.d = p.1 ∧
    t.ctx c = ctxAfter p.2 c (((s.ctx c).pc + 8) % 2 ^ 32) p.1 false false ∧ t = { p.2 with regs := t.regs, ctxs := kset {} p.2.ctxs c (t.ctx c) } ∧ ∀ a,
    a ≠ Reg.CTX_V c h.d → rd t a = rd p.2 a) ∧
  (∀ (s : State) (e : Fin 8) (c : Nat) (w : Word) (h : HWord), atWord s e c 0x26 w = true → h = fieldsOf w 0#32 → (h.i && hoistAddr (regAddr s c h
    true)) = false → exec (.rdr e) s = .next (endRun c ccProgErr (wd (offOf s c (s.ctx c).pc)) (begun e c 0x26 s))) ∧
  (∀ (s : State) (e : Fin 8) (c : Nat) (w : Word) (x : Word) (h : HWord), atWords s e c 0x26 w x = true → h = fieldsOf w x → (noK h && h.a == 0 &&
    hoistAddr x.toNat) = false → exec (.rdr e) s = .next (endRun c ccProgErr (wd (offOf s c (s.ctx c).pc)) (begunX e c 0x26 s))) ∧
  (∀ (s : State) (e : Fin 8) (c : Nat) (w : Word) (h : HWord) (g n : Nat) (v : Word), atWord s e c 0x27 w = true → h = fieldsOf w 0#32 → h.i = true → g
    = regAddr s c h false → hoistAddr g = true → v = getV s c h.d → n = (g - 0x20000) / 0x100 → 0x20000 ≤ g → g < 0x30000 → isDO n = true → g % 0x100 =
    0x44 → doRefused s n (bitAt v 0) = false → exec (.wrr e) s = .next (stepOver c h (setFlags c (flagsOf v) (setF c false (doCmd n (bitAt v 0) (begun e c
    0x27 s)))))) ∧
  (∀ (s : State) (e : Fin 8) (c : Nat) (w : Word) (h : HWord) (g n : Nat) (v : Word), atWord s e c 0x27 w = true → h = fieldsOf w 0#32 → h.i = true → g
    = regAddr s c h false → hoistAddr g = true → v = getV s c h.d → n = (g - 0x20000) / 0x100 → 0x20000 ≤ g → g < 0x30000 → isDO n = true → g % 0x100 =
    0x44 → doRefused s n (bitAt v 0) = true → exec (.wrr e) s = .next (endRun c ccRefused (wd (offOf s c (s.ctx c).pc)) (doCmd n (bitAt v 0) (begun e c
    0x27 s)))) ∧
  (∀ (s : State) (e : Fin 8) (c : Nat) (w : Word) (h : HWord) (g n : Nat) (v : Word), atWord s e c 0x27 w = true → h = fieldsOf w 0#32 → h.i = true → g
    = regAddr s c h false → hoistAddr g = true → v = getV s c h.d → n = (g - 0x20000) / 0x100 → 0x20000 ≤ g → g < 0x30000 → isAO n = true → g % 0x100 =
    0x88 → exec (.wrr e) s = .next (stepOver c h (setFlags c (flagsOf v) (aoSet n (bits v 15 0) (begun e c 0x27 s))))) ∧
  (∀ (s : State) (e : Fin 8) (c : Nat) (w : Word) (h : HWord) (g u : Nat) (v : Word), atWord s e c 0x27 w = true → h = fieldsOf w 0#32 → h.i = true → g
    = regAddr s c h false → hoistAddr g = true → v = getV s c h.d → u = (g - 0x3000) / 0x40 → 0x3000 ≤ g → g < 0x3200 → g % 0x40 = 0x08 → bits v 3 0 = 1 →
    s.get (.CV_CFG_WIDTH u) ≠ 0 → (s.cv u).hold ≠ .free → (s.cv u).hold ≠ .ctx c → exec (.wrr e) s = .next (ctxBlock c 8 .none (begun e c 0x27 s))) ∧
  (∀ (s : State) (e : Fin 8) (c : Nat) (w : Word) (h : HWord) (g : Nat) (v : Word), atWord s e c 0x27 w = true → h = fieldsOf w 0#32 → h.i = true → g =
    regAddr s c h false → hoistAddr g = true → v = getV s c h.d → wrrBlock g = true → (decide (0x20000 ≤ g) && decide (g < 0x30000) && ((isDO ((g -
    0x20000) / 0x100) && g % 0x100 == 0x44) || (isAO ((g - 0x20000) / 0x100) && g % 0x100 == 0x88))) = false → (decide (0x3000 ≤ g) && decide (g < 0x3200)
    && g % 0x40 == 0x08 && bits v 3 0 == 1) = false → exec (.wrr e) s = .next (stepOver c h (setFlags c (flagsOf v) (regWrite (.eng e) g (busMask g) v
    (busFn0 (.eng e) g) (begun e c 0x27 s))))) ∧
  (∀ (s : State) (e : Fin 8) (c : Nat) (w : Word) (h : HWord) (g : Nat), atWord s e c 0x27 w = true → h = fieldsOf w 0#32 → h.i = true → g = regAddr s c
    h false → hoistAddr g = true → wrrBlock g = false → exec (.wrr e) s = .next (endRun c ccRefused (wd (offOf s c (s.ctx c).pc)) (begun e c 0x27 s))) ∧
  (∀ (s : State) (e : Fin 8) (c : Nat) (w : Word) (x : Word) (h : HWord) (g n : Nat) (v : Word), atWords s e c 0x27 w x = true → h = fieldsOf w x → noK
    h = true → h.a ≤ 1 → g = x.toNat → hoistAddr g = true → v = getV s c h.d → n = (g - 0x20000) / 0x100 → 0x20000 ≤ g → g < 0x30000 → isDO n = true → g %
    0x100 = 0x44 → doRefused s n (bitAt v 0) = false → exec (.wrr e) s = .next (stepOver c h (setFlags c (flagsOf v) (setF c false (doCmd n (bitAt v 0)
    (begunX e c 0x27 s)))))) ∧
  (∀ (s : State) (e : Fin 8) (c : Nat) (w : Word) (x : Word) (h : HWord) (g n : Nat) (v : Word), atWords s e c 0x27 w x = true → h = fieldsOf w x → noK
    h = true → h.a ≤ 1 → g = x.toNat → hoistAddr g = true → v = getV s c h.d → n = (g - 0x20000) / 0x100 → 0x20000 ≤ g → g < 0x30000 → isDO n = true → g %
    0x100 = 0x44 → doRefused s n (bitAt v 0) = true → exec (.wrr e) s = .next (if (h.a == 1) then stepOver c h (setF c true (doCmd n (bitAt v 0) (begunX e
    c 0x27 s))) else endRun c ccRefused (wd (offOf s c (s.ctx c).pc)) (doCmd n (bitAt v 0) (begunX e c 0x27 s)))) ∧
  (∀ (s : State) (e : Fin 8) (c : Nat) (w : Word) (x : Word) (h : HWord) (g n : Nat) (v : Word), atWords s e c 0x27 w x = true → h = fieldsOf w x → noK
    h = true → h.a ≤ 1 → g = x.toNat → hoistAddr g = true → v = getV s c h.d → n = (g - 0x20000) / 0x100 → 0x20000 ≤ g → g < 0x30000 → isAO n = true → g %
    0x100 = 0x88 → exec (.wrr e) s = .next (stepOver c h (setFlags c (flagsOf v) (aoSet n (bits v 15 0) (begunX e c 0x27 s))))) ∧
  (∀ (s : State) (e : Fin 8) (c : Nat) (w : Word) (x : Word) (h : HWord) (g u : Nat) (v : Word), atWords s e c 0x27 w x = true → h = fieldsOf w x → noK
    h = true → h.a ≤ 1 → g = x.toNat → hoistAddr g = true → v = getV s c h.d → u = (g - 0x3000) / 0x40 → 0x3000 ≤ g → g < 0x3200 → g % 0x40 = 0x08 → bits
    v 3 0 = 1 → s.get (.CV_CFG_WIDTH u) ≠ 0 → (s.cv u).hold ≠ .free → (s.cv u).hold ≠ .ctx c → exec (.wrr e) s = .next (ctxBlock c 8 .none (begunX e c
    0x27 s))) ∧
  (∀ (s : State) (e : Fin 8) (c : Nat) (w : Word) (x : Word) (h : HWord) (g : Nat) (v : Word), atWords s e c 0x27 w x = true → h = fieldsOf w x → noK h
    = true → h.a ≤ 1 → g = x.toNat → hoistAddr g = true → v = getV s c h.d → wrrBlock g = true → (decide (0x20000 ≤ g) && decide (g < 0x30000) && ((isDO
    ((g - 0x20000) / 0x100) && g % 0x100 == 0x44) || (isAO ((g - 0x20000) / 0x100) && g % 0x100 == 0x88))) = false → (decide (0x3000 ≤ g) && decide (g <
    0x3200) && g % 0x40 == 0x08 && bits v 3 0 == 1) = false → exec (.wrr e) s = .next (stepOver c h (setFlags c (flagsOf v) (regWrite (.eng e) g (busMask
    g) v (busFn0 (.eng e) g) (begunX e c 0x27 s))))) ∧
  (∀ (s : State) (e : Fin 8) (c : Nat) (w : Word) (x : Word) (h : HWord) (g : Nat), atWords s e c 0x27 w x = true → h = fieldsOf w x → noK h = true →
    h.a ≤ 1 → g = x.toNat → hoistAddr g = true → wrrBlock g = false → exec (.wrr e) s = .next (if (h.a == 1) then stepOver c h (setF c true (begunX e c
    0x27 s)) else endRun c ccRefused (wd (offOf s c (s.ctx c).pc)) (begunX e c 0x27 s))) ∧
  (∀ (s : State) (e : Fin 8) (c : Nat) (w : Word) (h : HWord), atWord s e c 0x27 w = true → h = fieldsOf w 0#32 → (h.i && hoistAddr (regAddr s c h
    false)) = false → exec (.wrr e) s = .next (endRun c ccProgErr (wd (offOf s c (s.ctx c).pc)) (begun e c 0x27 s))) ∧
  (∀ (s : State) (e : Fin 8) (c : Nat) (w : Word) (x : Word) (h : HWord), atWords s e c 0x27 w x = true → h = fieldsOf w x → (noK h && decide (h.a ≤ 1)
    && hoistAddr x.toNat) = false → exec (.wrr e) s = .next (endRun c ccProgErr (wd (offOf s c (s.ctx c).pc)) (begunX e c 0x27 s))) ∧
  (∀ (s : State) (e : Fin 8) (c : Nat) (w : Word) (h : HWord) (u : Nat), atWord s e c 0x28 w = true → h = fieldsOf w 0#32 → bare h = true → cvOf s c =
    some u → (s.cv u).hold = .free ∨ (s.cv u).hold = .ctx c → ∃ t, exec (.cvstart e) s = .next t ∧ t.cv u = { run := (cvPar s u).start, hold := .ctx c } ∧
    t.ctx c = { s.ctx c with pc := (((s.ctx c).pc + 4) % 2 ^ 32) } ∧ (t = { (begun e c 0x28 s) with ctxs := kset {} s.ctxs c (t.ctx c), cvs := t.cvs })) ∧
  (∀ (s : State) (e : Fin 8) (c : Nat) (w : Word) (h : HWord) (u : Nat), atWord s e c 0x28 w = true → h = fieldsOf w 0#32 → bare h = true → cvOf s c =
    some u → (s.cv u).hold ≠ .free → (s.cv u).hold ≠ .ctx c → ∃ t, exec (.cvstart e) s = .next t ∧ t.get (.CTX_STAT_STATE c) = stBlocked ∧ t.get
    (.CTX_STAT_WAIT_ON c) = 8 ∧ (t.ctx c).pc = (s.ctx c).pc ∧ (t =
    { (begun e c 0x28 s) with regs := t.regs, ctxs := kset {} s.ctxs c (t.ctx c), engs := t.engs, blockCtr := t.blockCtr } ∧ ∀ a, a ≠ Reg.CTX_STAT c → rd
    t a = rd s a)) ∧
  (∀ (s : State) (e : Fin 8) (c : Nat) (w : Word) (h : HWord), atWord s e c 0x28 w = true → h = fieldsOf w 0#32 → (bare h && (cvOf s c).isSome) = false
    → exec (.cvstart e) s = .next (endRun c ccProgErr (wd (offOf s c (s.ctx c).pc)) (begun e c 0x28 s))) ∧
  (∀ (s : State) (e : Fin 8) (c : Nat) (w : Word), atExt s e c 0x28 w = true → exec (.cvstart e) s = .next (endRun c ccProgErr (wd (offOf s c (s.ctx
    c).pc)) (begun e c 0x28 s))) ∧
  (∀ (s : State) (e : Fin 8) (c : Nat) (w : Word) (h : HWord) (u : Nat), atWord s e c 0x29 w = true → h = fieldsOf w 0#32 → op2Ok h = true → h.a = 3 →
    cvOf s c = some u → (s.cv u).hold = .ctx c → (s.cv u).dma = none → ∃ t, exec (.cvfeed e) s = .next t ∧ t.cv u =
    { s.cv u with run := (cvPar s u).feed (s.cv u).run (leBytes 4 (getV s c h.d).toNat) } ∧ t.ctx c =
    { s.ctx c with pc := (((s.ctx c).pc + 4) % 2 ^ 32), ff := false } ∧ (t =
    { (begun e c 0x29 s) with ctxs := kset {} s.ctxs c (t.ctx c), cvs := t.cvs })) ∧
  (∀ (s : State) (e : Fin 8) (c : Nat) (w : Word) (h : HWord) (u : Nat) (l : List Byte) (o n : Nat), atWord s e c 0x29 w = true → h = fieldsOf w 0#32 →
    op2Ok h = true → h.a ≤ 2 → cvOf s c = some u → (s.cv u).hold = .ctx c → (s.cv u).dma = none → feedSource s c h.a = some l → o = (op2z s c h).toNat → n
    = (getV s c h.d).toNat → ∃ t, exec (.cvfeed e) s = .next t ∧ t.cv u = { s.cv u with run := (cvPar s u).feed (s.cv u).run ((l.drop o).take n) } ∧ t.ctx
    c = { s.ctx c with pc := (((s.ctx c).pc + 4) % 2 ^ 32), ff := decide (l.length < o + n) } ∧ (t =
    { (begun e c 0x29 s) with ctxs := kset {} s.ctxs c (t.ctx c), cvs := t.cvs })) ∧
  (∀ (s : State) (e : Fin 8) (c : Nat) (w : Word) (h : HWord), atWord s e c 0x29 w = true → h = fieldsOf w 0#32 → (op2Ok h && decide (h.a ≤ 3) &&
    holdsCv s c && (h.a == 3 || (feedSource s c h.a).isSome)) = false → exec (.cvfeed e) s = .next (endRun c ccProgErr (wd (offOf s c (s.ctx c).pc))
    (begun e c 0x29 s))) ∧
  (∀ (s : State) (e : Fin 8) (c : Nat) (w : Word), atExt s e c 0x29 w = true → exec (.cvfeed e) s = .next (endRun c ccProgErr (wd (offOf s c (s.ctx
    c).pc)) (begun e c 0x29 s))) ∧
  (∀ (s : State) (e : Fin 8) (c : Nat) (w : Word) (h : HWord) (u n : Nat), atWord s e c 0x2A w = true → h = fieldsOf w 0#32 → op2Ok h = true → h.a = 0 →
    cvOf s c = some u → (s.cv u).hold = .ctx c → n = (cvPar s u).finish (s.cv u).run → ∃ t, exec (.cvchk e) s = .next t ∧ getV t c h.d = wd n ∧ t.cv u =
    {} ∧ t.ctx c = { s.ctx c with pc := (((s.ctx c).pc + 4) % 2 ^ 32) } ∧ (t =
    { (begun e c 0x2A s) with regs := t.regs, ctxs := kset {} s.ctxs c (t.ctx c), cvs := t.cvs } ∧ ∀ a, a ≠ Reg.CTX_V c h.d → rd t a = rd s a)) ∧
  (∀ (s : State) (e : Fin 8) (c : Nat) (w : Word) (h : HWord) (u n k : Nat) (v : Bool), atWord s e c 0x2A w = true → h = fieldsOf w 0#32 → op2Ok h =
    true → h.a = 1 → h.i = false → cvOf s c = some u → (s.cv u).hold = .ctx c → n = (cvPar s u).finish (s.cv u).run → k = min (cvPar s u).w 32 → v =
    decide (n % 2 ^ k = (op2z s c h).toNat % 2 ^ k) → ∃ t, exec (.cvchk e) s = .next t ∧ getV t c h.d = wd n ∧ t.cv u = {} ∧ t.ctx c =
    { s.ctx c with pc := (((s.ctx c).pc + 4) % 2 ^ 32), zf := v, ff := !v } ∧ (t =
    { (begun e c 0x2A s) with regs := t.regs, ctxs := kset {} s.ctxs c (t.ctx c), cvs := t.cvs } ∧ ∀ a, a ≠ Reg.CTX_V c h.d → rd t a = rd s a)) ∧
  (∀ (s : State) (e : Fin 8) (c : Nat) (w : Word) (h : HWord) (u n k : Nat) (l : List Byte) (v : Bool), atWord s e c 0x2A w = true → h = fieldsOf w 0#32
    → op2Ok h = true → h.a = 2 ∨ h.a = 3 → cvOf s c = some u → (s.cv u).hold = .ctx c → resvMsg s c = some l → n = (cvPar s u).finish (s.cv u).run → k =
    ((cvPar s u).w + 7) / 8 → v = (decide (k ≤ l.length) && (if h.a = 3 then beNat (l.drop (l.length - k)) else leNat (l.drop (l.length - k))) == n) → ∃
    t, exec (.cvchk e) s = .next t ∧ getV t c h.d = wd n ∧ t.cv u = {} ∧ t.ctx c = { s.ctx c with pc := (((s.ctx c).pc + 4) % 2 ^ 32), zf := v, ff := !v }
    ∧ (t = { (begun e c 0x2A s) with regs := t.regs, ctxs := kset {} s.ctxs c (t.ctx c), cvs := t.cvs } ∧ ∀ a, a ≠ Reg.CTX_V c h.d → rd t a = rd s a)) ∧
  (∀ (s : State) (e : Fin 8) (c : Nat) (w : Word) (h : HWord), atWord s e c 0x2A w = true → h = fieldsOf w 0#32 → (op2Ok h && decide (h.a ≤ 3) && (h.a
    != 1 || !h.i) && holdsCv s c && (decide (h.a < 2) || (resvMsg s c).isSome)) = false → exec (.cvchk e) s = .next (endRun c ccProgErr (wd (offOf s c
    (s.ctx c).pc)) (begun e c 0x2A s))) ∧
  (∀ (s : State) (e : Fin 8) (c : Nat) (w : Word), atExt s e c 0x2A w = true → exec (.cvchk e) s = .next (endRun c ccProgErr (wd (offOf s c (s.ctx
    c).pc)) (begun e c 0x2A s))) ∧
  (∀ (s : State) (e : Fin 8) (c : Nat) (w : Word) (h : HWord) (n : Nat) (v : Bool), atWord s e c 0x2C w = true → h = fieldsOf w 0#32 → h.a ≤ 1 → chanOf
    s c h 9 = some n → isDO n = true → v = (if h.i then h.k / 256 == 1 else bitAt (getV s c h.d) 0) → doRefused s n v = false → exec (.dout e) s = .next
    (stepOver c h (setF c false (doCmd n v (begun e c 0x2C s))))) ∧
  (∀ (s : State) (e : Fin 8) (c : Nat) (w : Word) (h : HWord) (n : Nat) (v : Bool), atWord s e c 0x2C w = true → h = fieldsOf w 0#32 → h.a = 1 → chanOf
    s c h 9 = some n → isDO n = true → v = (if h.i then h.k / 256 == 1 else bitAt (getV s c h.d) 0) → doRefused s n v = true → exec (.dout e) s = .next
    (stepOver c h (setF c true (doCmd n v (begun e c 0x2C s))))) ∧
  (∀ (s : State) (e : Fin 8) (c : Nat) (w : Word) (h : HWord) (n : Nat) (v : Bool), atWord s e c 0x2C w = true → h = fieldsOf w 0#32 → h.a = 0 → chanOf
    s c h 9 = some n → isDO n = true → v = (if h.i then h.k / 256 == 1 else bitAt (getV s c h.d) 0) → doRefused s n v = true → exec (.dout e) s = .next
    (endRun c ccRefused (wd (offOf s c (s.ctx c).pc)) (doCmd n v (begun e c 0x2C s)))) ∧
  (∀ (s : State) (e : Fin 8) (c : Nat) (w : Word) (h : HWord), atWord s e c 0x2C w = true → h = fieldsOf w 0#32 → (decide (h.a < 2) && isDO ((chanOf s c
    h 9).getD 256)) = false → exec (.dout e) s = .next (endRun c ccProgErr (wd (offOf s c (s.ctx c).pc)) (begun e c 0x2C s))) ∧
  (∀ (s : State) (e : Fin 8) (c : Nat) (w : Word), atExt s e c 0x2C w = true → exec (.dout e) s = .next (endRun c ccProgErr (wd (offOf s c (s.ctx
    c).pc)) (begun e c 0x2C s))) ∧
  (∀ (s : State) (e : Fin 8) (c : Nat) (w : Word) (h : HWord) (n : Nat), atWord s e c 0x2D w = true → h = fieldsOf w 0#32 → h.a = 0 → chanOf s c h 8 =
    some n → isAO n = true → exec (.aout e) s = .next (stepOver c h (aoSet n (bits (getV s c h.d) 15 0) (begun e c 0x2D s)))) ∧
  (∀ (s : State) (e : Fin 8) (c : Nat) (w : Word) (h : HWord), atWord s e c 0x2D w = true → h = fieldsOf w 0#32 → (h.a == 0 && isAO ((chanOf s c h
    8).getD 256)) = false → exec (.aout e) s = .next (endRun c ccProgErr (wd (offOf s c (s.ctx c).pc)) (begun e c 0x2D s))) ∧
  (∀ (s : State) (e : Fin 8) (c : Nat) (w : Word), atExt s e c 0x2D w = true → exec (.aout e) s = .next (endRun c ccProgErr (wd (offOf s c (s.ctx
    c).pc)) (begun e c 0x2D s))) ∧
  (∀ (s : State) (e : Fin 8) (c : Nat) (w : Word) (h : HWord) (n : Nat) (v : Word), atWord s e c 0x2E w = true → h = fieldsOf w 0#32 → chanOf s c h 8 =
    some n → h.a ≤ 2 → dinWord s n h.a = some v → ∃ t, exec (.din e) s = .next t ∧ getV t c h.d = v ∧ t.ctx c =
    { s.ctx c with pc := (((s.ctx c).pc + 4) % 2 ^ 32) } ∧ (t = { (begun e c 0x2E s) with regs := t.regs, ctxs := kset {} s.ctxs c (t.ctx c) } ∧ ∀ a, a ≠
    Reg.CTX_V c h.d → rd t a = rd s a)) ∧
  (∀ (s : State) (e : Fin 8) (c : Nat) (w : Word) (h : HWord) (n : Nat) (v : Word), atWord s e c 0x2E w = true → h = fieldsOf w 0#32 → chanOf s c h 8 =
    some n → h.a = 4 → h.d ≤ 14 → isAN n = true → v = lastWord s n → ∃ t, exec (.din e) s = .next t ∧ getV t c h.d = v ∧ getV t c (h.d + 1) = lastSeq s n
    ∧ t.ctx c = { s.ctx c with pc := (((s.ctx c).pc + 4) % 2 ^ 32), ff := v == 0xC0 } ∧ (t =
    { (begun e c 0x2E s) with regs := t.regs, ctxs := kset {} s.ctxs c (t.ctx c) } ∧ ∀ a, a ≠ Reg.CTX_V c h.d → a ≠ Reg.CTX_V c (h.d + 1) → rd t a = rd s
    a)) ∧
  (∀ (s : State) (e : Fin 8) (c : Nat) (w : Word) (h : HWord) (n : Nat), atWord s e c 0x2E w = true → h = fieldsOf w 0#32 → chanOf s c h 8 = some n →
    h.a = 5 → isAN n = true → ∃ t, exec (.din e) s = .next t ∧ t.ctx c = { s.ctx c with pc := (((s.ctx c).pc + 4) % 2 ^ 32) } ∧ (t =
    { (begun e c 0x2E s) with regs := t.regs, ctxs := kset {} s.ctxs c (t.ctx c), free := t.free } ∧ ∀ a, a ≠ Reg.CTX_V c h.d → rd t a = rd s a)) ∧
  (∀ (s : State) (e : Fin 8) (c : Nat) (w : Word) (h : HWord), atWord s e c 0x2E w = true → h = fieldsOf w 0#32 → ((dinWord s ((chanOf s c h 8).getD
    256) h.a).isSome && (h.a != 4 || decide (h.d ≤ 14))) = false → exec (.din e) s = .next (endRun c ccProgErr (wd (offOf s c (s.ctx c).pc)) (begun e c
    0x2E s))) ∧
  (∀ (s : State) (e : Fin 8) (c : Nat) (w : Word), atExt s e c 0x2E w = true → exec (.din e) s = .next (endRun c ccProgErr (wd (offOf s c (s.ctx c).pc))
    (begun e c 0x2E s))) ∧
  (∀ (s : State) (e : Fin 8) (c : Nat) (w : Word) (h : HWord) (i r : Nat), atWord s e c 0x2F w = true → h = fieldsOf w 0#32 → h.i = true → h.k < 2 ^ 9 →
    h.a ≤ 3 → i = h.k % 16 → r = injResponse s i (h.k / 16) (h.a % 2 == 1) → r = injAccepted ∨ r = injHeld → exec (.ain e) s = .next (injQueue i
    { target := h.k / 16, tag := c, ctx := some c, held := r == injHeld } (ctxWait c 2 (.inj h.d) (stepOver c h (begun e c 0x2F s))))) ∧
  (∀ (s : State) (e : Fin 8) (c : Nat) (w : Word) (h : HWord) (r : Nat), atWord s e c 0x2F w = true → h = fieldsOf w 0#32 → h.i = true → h.k < 2 ^ 9 →
    h.a = 2 ∨ h.a = 3 → r = injResponse s (h.k % 16) (h.k / 16) (h.a % 2 == 1) → r ≠ injAccepted → r ≠ injHeld → r ≠ injBusy ∨ (s.tile (h.k %
    16)).inj.length < 4 → ∃ t, exec (.ain e) s = .next t ∧ getV t c h.d = wd r ∧ t.ctx c =
    { s.ctx c with pc := (((s.ctx c).pc + 4) % 2 ^ 32), ff := true } ∧ (t = { (begun e c 0x2F s) with regs := t.regs, ctxs := kset {} s.ctxs c (t.ctx c) }
    ∧ ∀ a, a ≠ Reg.CTX_V c h.d → rd t a = rd s a)) ∧
  (∀ (s : State) (e : Fin 8) (c : Nat) (w : Word) (h : HWord), atWord s e c 0x2F w = true → h = fieldsOf w 0#32 → h.i = true → h.k < 2 ^ 9 → h.a ≤ 3 →
    injResponse s (h.k % 16) (h.k / 16) (h.a % 2 == 1) = injBusy → 4 ≤ (s.tile (h.k % 16)).inj.length → ∃ t, exec (.ain e) s = .next t ∧ t.get
    (.CTX_STAT_STATE c) = stBlocked ∧ t.get (.CTX_STAT_WAIT_ON c) = 9 ∧ (t.ctx c).pc = (s.ctx c).pc ∧ (t =
    { (begun e c 0x2F s) with regs := t.regs, ctxs := kset {} s.ctxs c (t.ctx c), engs := t.engs, blockCtr := t.blockCtr } ∧ ∀ a, a ≠ Reg.CTX_STAT c → rd
    t a = rd s a)) ∧
  (∀ (s : State) (e : Fin 8) (c : Nat) (w : Word) (h : HWord) (r : Nat), atWord s e c 0x2F w = true → h = fieldsOf w 0#32 → h.i = true → h.k < 2 ^ 9 →
    h.a ≤ 1 → r = injResponse s (h.k % 16) (h.k / 16) (h.a % 2 == 1) → r ≠ injAccepted → r ≠ injHeld → r ≠ injBusy ∨ (s.tile (h.k % 16)).inj.length < 4 →
    exec (.ain e) s = .next (endRun c ccRefused (wd (offOf s c (s.ctx c).pc)) (setV c h.d (wd r) (begun e c 0x2F s)))) ∧
  (∀ (s : State) (e : Fin 8) (c : Nat) (w : Word) (h : HWord), atWord s e c 0x2F w = true → h = fieldsOf w 0#32 → (h.i && h.k / 2 ^ 9 == 0 && decide
    (h.a < 4)) = false → exec (.ain e) s = .next (endRun c ccProgErr (wd (offOf s c (s.ctx c).pc)) (begun e c 0x2F s))) ∧
  (∀ (s : State) (e : Fin 8) (c : Nat) (w : Word), atExt s e c 0x2F w = true → exec (.ain e) s = .next (endRun c ccProgErr (wd (offOf s c (s.ctx c).pc))
    (begun e c 0x2F s))) ∧
  (∀ (s : State) (e : Fin 8) (c : Nat) (w : Word) (h : HWord) (q : Nat) (l : List Word), atWord s e c 0x30 w = true → h = fieldsOf w 0#32 → h.i = true →
    h.a ≤ 1 → resQueue s c = some q → pushEntry s c q h = some l → qAccepts s q .active (4 * l.length) = true → exec (.push e) s = .next (stepOver c h
    (setF c false (qPush q .active [l] (begun e c 0x30 s))))) ∧
  (∀ (s : State) (e : Fin 8) (c : Nat) (w : Word) (h : HWord) (q : Nat) (l : List Word), atWord s e c 0x30 w = true → h = fieldsOf w 0#32 → h.i = true →
    h.a ≤ 1 → resQueue s c = some q → pushEntry s c q h = some l → qAccepts s q .active (4 * l.length) = false → s.get (.Q_CFG_POLICY q) = 2 → qForeign s
    q .active = false → ∃ t, exec (.push e) s = .next t ∧ t.get (.CTX_STAT_STATE c) = stBlocked ∧ t.get (.CTX_STAT_WAIT_ON c) = 6 ∧ (t.ctx c).pc = (s.ctx
    c).pc ∧ (t = { (begun e c 0x30 s) with regs := t.regs, ctxs := kset {} s.ctxs c (t.ctx c), engs := t.engs, blockCtr := t.blockCtr } ∧ ∀ a, a ≠
    Reg.CTX_STAT c → rd t a = rd s a)) ∧
  (∀ (s : State) (e : Fin 8) (c : Nat) (w : Word) (h : HWord) (q : Nat) (l : List Word), atWord s e c 0x30 w = true → h = fieldsOf w 0#32 → h.i = true →
    h.a ≤ 1 → resQueue s c = some q → pushEntry s c q h = some l → qAccepts s q .active (4 * l.length) = false → s.get (.Q_CFG_POLICY q) ≠ 2 ∨ qForeign s
    q .active = true → exec (.push e) s = .next (stepOver c h (setF c true (qPush q .active [l] (begun e c 0x30 s))))) ∧
  (∀ (s : State) (e : Fin 8) (c : Nat) (w : Word) (h : HWord) (l : List Byte), atWord s e c 0x30 w = true → h = fieldsOf w 0#32 → h.i = true → h.a = 2 →
    (resQueue s c).isSome = true → resvMsg s c = some l → exec (.push e) s = .next (stepOver c h (setF c false (commitResv c l (begun e c 0x30 s))))) ∧
  (∀ (s : State) (e : Fin 8) (c : Nat) (w : Word) (h : HWord), atWord s e c 0x30 w = true → h = fieldsOf w 0#32 → h.i = true → h.a = 3 → (resQueue s
    c).isSome = true → (resvMsg s c).isSome = true → exec (.push e) s = .next (stepOver c h (setF c false (dropResv c (begun e c 0x30 s))))) ∧
  (∀ (s : State) (e : Fin 8) (c : Nat) (w : Word) (h : HWord), atWord s e c 0x30 w = true → h = fieldsOf w 0#32 → (h.i && (resQueue s c).isSome &&
    decide (h.a ≤ 3) && (if h.a < 2 then (pushEntry s c ((resQueue s c).getD 128) h).isSome else (resvMsg s c).isSome)) = false → exec (.push e) s = .next
    (endRun c ccProgErr (wd (offOf s c (s.ctx c).pc)) (begun e c 0x30 s))) ∧
  (∀ (s : State) (e : Fin 8) (c : Nat) (w : Word), atExt s e c 0x30 w = true → exec (.push e) s = .next (endRun c ccProgErr (wd (offOf s c (s.ctx
    c).pc)) (begun e c 0x30 s))) ∧
  (∀ (s : State) (e : Fin 8) (c : Nat) (w : Word) (h : HWord), atWord s e c 0x31 w = true → h = fieldsOf w 0#32 → h.i = true → h.a ≤ 1 → 0x80 ≤ h.k →
    h.k < 256 → exec (.pennant e) s = .next (raisePennant .active h.k { irq := h.a == 1, tko := s.is (.CTX_STAT_TKO c) } 4 c (getV s c h.d) (now s)
    (stepOver c h (begun e c 0x31 s)))) ∧
  (∀ (s : State) (e : Fin 8) (c : Nat) (w : Word) (h : HWord), atWord s e c 0x31 w = true → h = fieldsOf w 0#32 → (h.i && decide (h.a < 2) && decide
    (0x80 ≤ h.k) && decide (h.k < 256)) = false → exec (.pennant e) s = .next (endRun c ccProgErr (wd (offOf s c (s.ctx c).pc)) (begun e c 0x31 s))) ∧
  (∀ (s : State) (e : Fin 8) (c : Nat) (w : Word), atExt s e c 0x31 w = true → exec (.pennant e) s = .next (endRun c ccProgErr (wd (offOf s c (s.ctx
    c).pc)) (begun e c 0x31 s))) ∧
  (∀ (s : State) (e : Fin 8) (c : Nat) (w : Word) (h : HWord), atWord s e c 0x34 w = true → h = fieldsOf w 0#32 → bare h = true → hasStandby s = true →
    ∃ t, exec (.checkpoint e) s = .next t ∧ t.get (.CTX_STAT_STATE c) = stWaiting ∧ t.get (.CTX_STAT_WAIT_ON c) = 3 ∧ t.is (.CTX_STAT_ONCE_OPEN c) = false
    ∧ (t.ctx c).wait = .commit ∧ (t.ctx c).pc = (((s.ctx c).pc + 4) % 2 ^ 32) ∧ (t.ctx c).retryPt = (s.ctx c).pc ∧ (t.ctx c).retryPre = false ∧ (t.ctx
    c).ckpt.map (fun k => (k.pc, k.once, k.v)) = some ((((s.ctx c).pc + 4) % 2 ^ 32), false, (List.range 16).map (getV s c)) ∧ (t.ctx c).ckptNo = (s.ctx
    c).ckptNo + 1 ∧ (t = { (begun e c 0x34 s) with regs := t.regs, ctxs := kset {} s.ctxs c (t.ctx c), engs := t.engs } ∧ ∀ a, a ≠ Reg.CTX_STAT c → rd t a
    = rd s a)) ∧
  (∀ (s : State) (e : Fin 8) (c : Nat) (w : Word) (h : HWord), atWord s e c 0x34 w = true → h = fieldsOf w 0#32 → bare h = true → hasStandby s = false →
    ∃ t, exec (.checkpoint e) s = .next t ∧ t.is (.CTX_CKPT_VALID c) = true ∧ t.is (.CTX_CKPT_ONCE c) = false ∧ t.get (.CTX_CKPT_OFFSET c) = offOf s c
    (((s.ctx c).pc + 4) % 2 ^ 32) % 2 ^ 24 ∧ t.is (.CTX_STAT_ONCE_OPEN c) = false ∧ (t.ctx c).retryPt = (s.ctx c).pc ∧ (t.ctx c).pc = (((s.ctx c).pc + 4)
    % 2 ^ 32) ∧ (t = { (begun e c 0x34 s) with regs := t.regs, ctxs := kset {} s.ctxs c (t.ctx c) } ∧ ∀ a, a ≠ Reg.CTX_STAT c → a ≠ Reg.CTX_CKPT c → rd t
    a = rd s a)) ∧
  (∀ (s : State) (e : Fin 8) (c : Nat) (w : Word) (h : HWord), atWord s e c 0x34 w = true → h = fieldsOf w 0#32 → bare h = false → exec (.checkpoint e)
    s = .next (endRun c ccProgErr (wd (offOf s c (s.ctx c).pc)) (begun e c 0x34 s))) ∧
  (∀ (s : State) (e : Fin 8) (c : Nat) (w : Word), atExt s e c 0x34 w = true → exec (.checkpoint e) s = .next (endRun c ccProgErr (wd (offOf s c (s.ctx
    c).pc)) (begun e c 0x34 s))) ∧
  (∀ (s : State) (e : Fin 8) (c : Nat) (w : Word) (h : HWord), atWord s e c 0x35 w = true → h = fieldsOf w 0#32 → bare h = true → hasStandby s = true →
    ∃ t, exec (.once e) s = .next t ∧ t.get (.CTX_STAT_STATE c) = stWaiting ∧ t.get (.CTX_STAT_WAIT_ON c) = 3 ∧ t.is (.CTX_STAT_ONCE_OPEN c) = false ∧
    (t.ctx c).wait = .commit ∧ (t.ctx c).pc = (((s.ctx c).pc + 4) % 2 ^ 32) ∧ (t.ctx c).ckpt.map (fun k => (k.pc, k.once, k.onceAt, k.v)) = some ((((s.ctx
    c).pc + 4) % 2 ^ 32), true, (s.ctx c).pc, (List.range 16).map (getV s c)) ∧ (t =
    { (begun e c 0x35 s) with regs := t.regs, ctxs := kset {} s.ctxs c (t.ctx c), engs := t.engs } ∧ ∀ a, a ≠ Reg.CTX_STAT c → rd t a = rd s a)) ∧
  (∀ (s : State) (e : Fin 8) (c : Nat) (w : Word) (h : HWord), atWord s e c 0x35 w = true → h = fieldsOf w 0#32 → bare h = true → hasStandby s = false →
    ∃ t, exec (.once e) s = .next t ∧ t.is (.CTX_STAT_ONCE_OPEN c) = true ∧ t.is (.CTX_CKPT_VALID c) = true ∧ t.is (.CTX_CKPT_ONCE c) = true ∧ (t.ctx
    c).retryPre = true ∧ (t.ctx c).pc = (((s.ctx c).pc + 4) % 2 ^ 32) ∧ (t =
    { (begun e c 0x35 s) with regs := t.regs, ctxs := kset {} s.ctxs c (t.ctx c) } ∧ ∀ a, a ≠ Reg.CTX_STAT c → a ≠ Reg.CTX_CKPT c → rd t a = rd s a)) ∧
  (∀ (s : State) (e : Fin 8) (c : Nat) (w : Word) (h : HWord), atWord s e c 0x35 w = true → h = fieldsOf w 0#32 → bare h = false → exec (.once e) s =
    .next (endRun c ccProgErr (wd (offOf s c (s.ctx c).pc)) (begun e c 0x35 s))) ∧
  (∀ (s : State) (e : Fin 8) (c : Nat) (w : Word), atExt s e c 0x35 w = true → exec (.once e) s = .next (endRun c ccProgErr (wd (offOf s c (s.ctx
    c).pc)) (begun e c 0x35 s))) ∧
  (∀ (s : State) (e : Fin 8) (c : Nat) (w : Word) (h : HWord) (l : List Word), atWord s e c 0x38 w = true → h = fieldsOf w 0#32 → h.d = 0 → h.a = 0 →
    op2Ok h = true → l = ctxRecord s c 2 0 (op2s s c h) → exec (.signal e) s = .next (fireTrigs [.cmp c 3 (l.getD 0 0) (now s)] (pushCtxRecord l true
    (stepOver c h (begun e c 0x38 s))))) ∧
  (∀ (s : State) (e : Fin 8) (c : Nat) (w : Word) (h : HWord), atWord s e c 0x38 w = true → h = fieldsOf w 0#32 → (h.d == 0 && h.a == 0 && op2Ok h) =
    false → exec (.signal e) s = .next (endRun c ccProgErr (wd (offOf s c (s.ctx c).pc)) (begun e c 0x38 s))) ∧
  (∀ (s : State) (e : Fin 8) (c : Nat) (w : Word), atExt s e c 0x38 w = true → exec (.signal e) s = .next (endRun c ccProgErr (wd (offOf s c (s.ctx
    c).pc)) (begun e c 0x38 s)))

/-- Contexts (R334 to R344, R360, R367): host control, engines, cache lines. `endRun` is the end of a run (FlowInstructions), `evaluate` what a
context makes of what has reached it. -/
def Obligations.ContextControl : Prop :=
  (∀ (s : State) (r : Req) (c : Fin 160) (arg : BitVec 16), Admitted s r (Reg.CTX_CTL c) Msk.CTX_CTL → s.is (.CTX_CFG_EN c) = true → inRun s c = false →
    ctxsHeld s = false → ∃ t, exec (.ctxKick r c arg) s = .next t ∧ t.get (.CTX_STAT_STATE c) = stReady ∧ (t.ctx c).pc = s.get (.CTX_PROG_PROG c) ∧ t.get
    (.CTX_RUNS_RUNS c) = (s.get (.CTX_RUNS_RUNS c) + 1) % 2 ^ 32 ∧ rd t (Reg.CTX_TINFO c 1) = wd arg.toNat ∧ bits (rd t (Reg.CTX_TINFO c 0)) 29 24 = 8 ∧
    (t.ctx c).inbox = [] ∧ (t.ctx c).wait = .none ∧ (t.ctx c).pend = none ∧ ((t.ctx c).zf || (t.ctx c).nf || (t.ctx c).cf || (t.ctx c).vf || (t.ctx c).ff)
    = false ∧ (t.ctx c).used = 0 ∧ (t.ctx c).began = clk s ∧ t = { s with regs := t.regs, ctxs := t.ctxs } ∧ ∀ a, ¬ (ctxReg c a = true) → rd t a = rd s a) ∧
  (∀ (s : State) (r : Req) (c : Fin 160) (arg : BitVec 16), Admitted s r (Reg.CTX_CTL c) Msk.CTX_CTL → s.is (.CTX_CFG_EN c) = true → inRun s c = true ∨
    ctxsHeld s = true → s.is (.CTX_STAT_PEND c) = false → exec (.ctxKick r c arg) s = .next ((s.set1 (.CTX_STAT_PEND c)).modCtx c (fun x =>
    { x with pend := some ⟨8, 0, wd arg.toNat, now s⟩ }))) ∧
  (∀ (s : State) (r : Req) (c : Fin 160) (arg : BitVec 16), Admitted s r (Reg.CTX_CTL c) Msk.CTX_CTL → s.is (.CTX_CFG_EN c) = true → inRun s c = true ∨
    ctxsHeld s = true → s.is (.CTX_STAT_PEND c) = true → exec (.ctxKick r c arg) s = .next ((s.addSat (.CTX_CNT_TRIG_LOST c) 1).modCtx c (fun x =>
    { x with lost := true }))) ∧
  (∀ (s : State) (r : Req) (c : Fin 160) (arg : BitVec 16), Admitted s r (Reg.CTX_CTL c) Msk.CTX_CTL → s.is (.CTX_CFG_EN c) = false → exec (.ctxKick r c
    arg) s = .next (s.set1 (.CTX_STAT_IGNORED c))) ∧
  (∀ (s : State) (r : Req) (c : Fin 160), Admitted s r (Reg.CTX_CTL c) Msk.CTX_CTL → inRun s c = true → exec (.ctxAbort r c) s = .next (endRun c
    ccAborted (wd (offOf s c (s.ctx c).pc)) ((s.put (.CTX_STAT_PEND c) 0).modCtx c (fun x => { x with pend := none })))) ∧
  (∀ (s : State) (r : Req) (c : Fin 160), Admitted s r (Reg.CTX_CTL c) Msk.CTX_CTL → inRun s c = true → (enabledCtxs s).all (fun k => s.get
    (.CTX_TRIG_CMP_EN k) == 0) = true → ∃ t, exec (.ctxAbort r c) s = .next t ∧ t.get (.CTX_STAT_LAST_CODE c) = ccAborted ∧ t.get (.CTX_STAT_STATE c) =
    stFaulted ∧ t.is (.CTX_STAT_PEND c) = false ∧ t = { eventsFrom s t with cvs := t.cvs, engs := t.engs, pw := t.pw } ∧ ∀ a, eventReg a = false → a ≠
    Reg.CTX_STAT c → rd t a = rd s a) ∧
  (∀ (s : State) (r : Req) (c : Fin 160), Admitted s r (Reg.CTX_CTL c) Msk.CTX_CTL → inRun s c = false → exec (.ctxAbort r c) s = .next s) ∧
  (∀ (s : State) (r : Req) (c : Fin 160), Admitted s r (Reg.CTX_CTL c) Msk.CTX_CTL → inRun s c = false → ∃ t, exec (.ctxReset r c) s = .next t ∧ t.get
    (.CTX_STAT_STATE c) = stIdle ∧ t.is (.CTX_STAT_PEND c) = false ∧ t.is (.CTX_STAT_RX_VALID c) = false ∧ t.ctx c =
    { s.ctx c with pend := none, inbox := [], evOff := false, evAbs := false } ∧ t = { s with regs := t.regs, ctxs := t.ctxs } ∧ ∀ a, a ≠ Reg.CTX_STAT c →
    rd t a = rd s a) ∧
  (∀ (s : State) (r : Req) (c : Fin 160), Admitted s r (Reg.CTX_CTL c) Msk.CTX_CTL → inRun s c = true → exec (.ctxReset r c) s = .next (s.set1
    (.CTX_STAT_IGNORED c))) ∧
  (∀ (s : State) (e p c : Nat), hoistRuns s = true → freeEngine s = some e → nextReady s = some (p, c) → (s.ctx c).wait = .none → fetchWord s c (s.ctx
    c).pc = .ok [0] → ∃ t, exec .engineDispatch s = .next t ∧ runningOn t e = some c ∧ (t.ctx c).pc = (s.ctx c).pc ∧ t.get (.CTX_STAT_ENG c) = e ∧ t.is
    (.CTX_STAT_ON_ENG c) = true ∧ kget 0 t.rrLast p = c + 1 ∧ t.ctxs = s.ctxs ∧ t =
    { s with regs := t.regs, rsh := t.rsh, pops := t.pops, queues := t.queues, rrLast := t.rrLast, engs := t.engs, hcache := t.hcache } ∧ ∀ a, a ≠
    Reg.CTX_STAT c → rd t a = rd s a) ∧
  (∀ (s : State) (e p c : Nat), hoistRuns s = true → freeEngine s = some e → nextReady s = some (p, c) → exec .engineDispatch s = .next (takeUpCtx e p c
    s)) ∧
  (∀ (s : State), hoistRuns s = false ∨ freeEngine s = none ∨ nextReady s = none → exec .engineDispatch s = .next s) ∧
  (∀ (s : State) (e : Fin 8) (c : Nat), runningOn s e = some c → sliceLen s ≤ (s.eng e).count → rdrGoesOn s e c = false → ∃ t, exec (.sliceExpiry e) s =
    .next t ∧ t.get (.CTX_STAT_STATE c) = stReady ∧ t.is (.CTX_STAT_ON_ENG c) = false ∧ (t.eng e).ctx = none ∧ t =
    { s with regs := t.regs, engs := t.engs } ∧ ∀ a, a ≠ Reg.CTX_STAT c → rd t a = rd s a) ∧
  (∀ (s : State) (e : Fin 8) (c : Nat), runningOn s e = some c → (s.eng e).count < sliceLen s ∨ rdrGoesOn s e c = true → exec (.sliceExpiry e) s = .next
    s) ∧
  (∀ (s : State) (e : Fin 8), runningOn s e = none → exec (.sliceExpiry e) s = .next s) ∧
  (∀ (s : State) (c : Fin 160), inRun s c = true → s.get (.CTX_LIMITS_RUNMAX c) ≠ 0 → (s.ctx c).began + 49152000 * s.get (.CTX_LIMITS_RUNMAX c) ≤ clk s
    → exec (.runmaxExpiry c) s = .next (endRun c ccRunmax (wd (offOf s c (s.ctx c).pc)) s)) ∧
  (∀ (s : State) (c : Fin 160), inRun s c = true → s.get (.CTX_LIMITS_RUNMAX c) ≠ 0 → (s.ctx c).began + 49152000 * s.get (.CTX_LIMITS_RUNMAX c) ≤ clk s
    → ∃ t, exec (.runmaxExpiry c) s = .next t ∧ t.get (.CTX_STAT_LAST_CODE c) = ccRunmax) ∧
  (∀ (s : State) (c : Fin 160), inRun s c = false ∨ s.get (.CTX_LIMITS_RUNMAX c) = 0 ∨ clk s < (s.ctx c).began + 49152000 * s.get (.CTX_LIMITS_RUNMAX c)
    → exec (.runmaxExpiry c) s = .next s) ∧
  (∀ (s : State) (a : BitVec 26) (l : List Nat), l = (enabledCtxs s).filter (wantsLine s a.toNat) → l ≠ [] → s1Run s 0 = 0 → exec (.hoistCacheFillDone a
    true) s = .next ((cacheUse (0x10000000 + a.toNat) s).each l (fun c s => (ctxReady c s).modCtx c (fun x => { x with wait := .none })))) ∧
  (∀ (s : State) (a : BitVec 26) (c : Nat), (enabledCtxs s).filter (wantsLine s a.toNat) = [c] → s1Run s 0 = 0 → ∃ t, exec (.hoistCacheFillDone a true)
    s = .next t ∧ cached t (0x10000000 + a.toNat) = true ∧ t.get (.CTX_STAT_STATE c) = stReady ∧ (t.ctx c).wait = .none ∧ t =
    { s with regs := t.regs, ctxs := t.ctxs, hcache := t.hcache } ∧ ∀ a, a ≠ Reg.CTX_STAT c → rd t a = rd s a) ∧
  (∀ (s : State) (a : BitVec 26) (c x : Nat), (enabledCtxs s).filter (wantsLine s a.toNat) = [c] → (s.ctx c).wait = .fetch x → s1Run s 0 = 0 → exec
    (.hoistCacheFillDone a false) s = .next (endRun c ccFetchErr (wd x) s)) ∧
  (∀ (s : State) (a : BitVec 26) (ok : Bool), (enabledCtxs s).filter (wantsLine s a.toNat) = [] ∨ s1Run s 0 ≠ 0 → exec (.hoistCacheFillDone a ok) s =
    .next s)

/-- The inputs and the ends of waits (R298, R335, R344, R346, R351, R353, R354, R376, R392 to R394). `xferOut` is a transfer's outcome with its
action, `xferReserve` a try to reserve room for a message. Timeouts, backoffs and transfer timers count clock edges, WAIT's time and timers TU_NOW
(assumption log 6). -/
def Obligations.ContextWaits : Prop :=
  (∀ (s : State) (c : Fin 160) (p : Fin 4) (k : Fin 64) (x : Frame), canRuns s p = true → frameOk x = true → canDecodes s p x = true → (3, c.val, k.val,
    false) ∈ deliveries s p x → inRun s c = true → (s.ctx c).inbox.length < 4 → listening s c = false → waitsExpect s c = false → exec (.ctxInboxFrame c p
    k x) s = .next (s.modCtx c (fun y =>
    { y with inbox := y.inbox ++ [{ cutFrame { frame := { x with ts := now s % 2 ^ 48 }, len := x.data.length, port := p, filter := k } with at_ := clk s }] }))) ∧
  (∀ (s : State) (c : Fin 160) (p : Fin 4) (k : Fin 64) (x : Frame), canRuns s p = true → frameOk x = true → canDecodes s p x = true → (3, c.val, k.val,
    false) ∈ deliveries s p x → inRun s c = false ∨ 4 ≤ (s.ctx c).inbox.length → listening s c = false → waitsExpect s c = false → exec (.ctxInboxFrame c
    p k x) s = .next (s.addSat (.CTX_CNT_RX_DROP c) 1)) ∧
  (∀ (s : State) (c : Fin 160) (p : Fin 4) (k : Fin 64) (x : Frame) (w : ExpectW) (d : List Word) (f : RxEnt), canRuns s p = true → frameOk x = true →
    canDecodes s p x = true → (3, c.val, k.val, false) ∈ deliveries s p x → s.get (.CTX_STAT_STATE c) = stWaiting → s.get (.CTX_STAT_WAIT_ON c) = 2 →
    (s.ctx c).wait = .expect w → w.descs = [d] → w.dreg = none → w.past = none → expectPast s c w = false → (s.ctx c).inbox = [] → (s.ctx c).evOff = false
    → (s.ctx c).evAbs = false → f =
    { cutFrame { frame := { x with ts := now s % 2 ^ 48 }, len := x.data.length, port := p, filter := k } with at_ := clk s } → f.trunc = false →
    frameMatch d f = true → bitAt (dw d 5) 31 = false → rxw s c = 0 → actionOf (dw d 6) ocMatch = 0 → ∃ t, exec (.ctxInboxFrame c p k x) s = .next t ∧
    t.get (.CTX_STAT_STATE c) = stReady ∧ (t.ctx c).pc = w.next ∧ (t.ctx c).wait = .none ∧ (t.ctx c).cur = some f ∧ (t.ctx c).inbox = [] ∧ t.get
    (.CTX_STAT_LAST_OUT c) = ocMatch ∧ t = { s with regs := t.regs, ctxs := t.ctxs } ∧ ∀ a, a ≠ Reg.CTX_STAT c → a ≠ Reg.CTX_SEQ c → rd t a = rd s a) ∧
  (∀ (s : State) (c : Fin 160) (p : Fin 4) (k : Fin 64) (x : Frame), canRuns s p = false ∨ frameOk x = false ∨ canDecodes s p x = false ∨ (3, c.val,
    k.val, false) ∉ deliveries s p x → exec (.ctxInboxFrame c p k x) s = .next s) ∧
  (∀ (s : State) (c : Fin 160) (d : Nat), s.get (.CTX_STAT_STATE c) = stWaiting → (s.ctx c).wait = .time d → d ≤ now s → ∃ t, exec (.ctxWaitExpiry c) s
    = .next t ∧ t.get (.CTX_STAT_STATE c) = stReady ∧ t.ctx c = { s.ctx c with wait := .none } ∧ t = { s with regs := t.regs, ctxs := t.ctxs } ∧ ∀ a, a ≠
    Reg.CTX_STAT c → rd t a = rd s a) ∧
  (∀ (s : State) (c : Fin 160) (i : Nat), s.get (.CTX_STAT_STATE c) = stWaiting → (s.ctx c).wait = .timer i → timerRuns s c i = false → ∃ t, exec
    (.ctxWaitExpiry c) s = .next t ∧ t.get (.CTX_STAT_STATE c) = stReady ∧ t.ctx c = { s.ctx c with wait := .none } ∧ t =
    { s with regs := t.regs, ctxs := t.ctxs } ∧ ∀ a, a ≠ Reg.CTX_STAT c → rd t a = rd s a) ∧
  (∀ (s : State) (c : Fin 160) (d : Nat), (s.ctx c).wait = .time d → now s < d → exec (.ctxWaitExpiry c) s = .next s) ∧
  (∀ (s : State) (c : Fin 160) (i : Nat), (s.ctx c).wait = .timer i → timerRuns s c i = true → exec (.ctxWaitExpiry c) s = .next s) ∧
  (∀ (s : State) (c : Fin 160), s.get (.CTX_STAT_STATE c) ≠ stWaiting → exec (.ctxWaitExpiry c) s = .next s) ∧
  (∀ (s : State) (c : Fin 160) (w : ExpectW), s.get (.CTX_STAT_STATE c) = stWaiting → (s.ctx c).wait = .expect w → expectDue s c w = true → exec
    (.expectTimeout c) s = .next (expectAct c w ocTimeout 0 none (onOutcome c ocTimeout none s))) ∧
  (∀ (s : State) (c : Fin 160) (w : ExpectW), s.get (.CTX_STAT_STATE c) = stWaiting → (s.ctx c).wait = .expect w → expectDue s c w = true → actionOf (dw
    (w.descs.getD 0 []) 6) ocTimeout = 0 → w.dreg = none → ∃ t, exec (.expectTimeout c) s = .next t ∧ t.get (.CTX_STAT_STATE c) = stReady ∧ t.get
    (.CTX_STAT_LAST_OUT c) = ocTimeout ∧ t.ctx c = { s.ctx c with wait := .none, pc := w.next } ∧ t = { s with regs := t.regs, ctxs := t.ctxs } ∧ ∀ a, a ≠
    Reg.CTX_STAT c → rd t a = rd s a) ∧
  (∀ (s : State) (c : Fin 160) (w : ExpectW), (s.ctx c).wait = .expect w → s.get (.CTX_STAT_STATE c) ≠ stWaiting ∨ expectDue s c w = false → exec
    (.expectTimeout c) s = .next s) ∧
  (∀ (s : State) (c : Fin 160) (d : Nat) (b : Bool), s.get (.CTX_STAT_STATE c) = stWaiting → (s.ctx c).wait = .backoff d b → d ≤ clk s → b = false ∨
    s.get (.CTX_RESYNC_ADDR c) = 0 → ∃ t, exec (.backoffExpiry c) s = .next t ∧ t.get (.CTX_STAT_STATE c) = stReady ∧ t.ctx c =
    { s.ctx c with wait := .none, pc := (s.ctx c).retryPt, inbox := if s.is (.CTX_RETRY_KEEP c) then (s.ctx c).inbox else [] } ∧ t =
    { s with regs := t.regs, ctxs := t.ctxs } ∧ ∀ a, a ≠ Reg.CTX_STAT c → rd t a = rd s a) ∧
  (∀ (s : State) (c : Fin 160) (d : Nat), s.get (.CTX_STAT_STATE c) = stWaiting → (s.ctx c).wait = .backoff d true → d ≤ clk s → s.get (.CTX_RESYNC_ADDR
    c) ≠ 0 → ∃ t, exec (.backoffExpiry c) s = .next t ∧ t.get (.CTX_STAT_STATE c) = stReady ∧ getV t c 15 = wd (offOf s c (s.ctx c).retryPt) ∧ t.ctx c =
    { s.ctx c with wait := .none, pc := s.get (.CTX_RESYNC_ADDR c), inResync := true, resyncRet := (s.ctx c).retryPt, inbox := if s.is (.CTX_RETRY_KEEP c) then (s.ctx c).inbox else [] }
    ∧ t = { s with regs := t.regs, ctxs := t.ctxs } ∧ ∀ a, a ≠ Reg.CTX_STAT c → a ≠ Reg.CTX_V c 15 → rd t a = rd s a) ∧
  (∀ (s : State) (c : Fin 160) (d : Nat) (b : Bool), (s.ctx c).wait = .backoff d b → s.get (.CTX_STAT_STATE c) ≠ stWaiting ∨ clk s < d → exec
    (.backoffExpiry c) s = .next s) ∧
  (∀ (s : State) (c : Fin 160) (r : Ckpt), s.get (.CTX_STAT_STATE c) = stWaiting → (s.ctx c).wait = .commit → ckptCommitted s c = true → (s.ctx c).ckpt
    = some r → ∃ t, exec (.checkpointCommitted c) s = .next t ∧ t.get (.CTX_STAT_STATE c) = stReady ∧ (t.ctx c).wait = .none ∧ (t.ctx c).pc = (s.ctx c).pc
    ∧ t.is (.CTX_CKPT_VALID c) = true ∧ t.is (.CTX_CKPT_ONCE c) = r.once ∧ t.get (.CTX_CKPT_OFFSET c) = offOf s c r.pc % 2 ^ 24 ∧ (r.once = true → t.is
    (.CTX_STAT_ONCE_OPEN c) = true ∧ (t.ctx c).retryPre = true) ∧ t = { s with regs := t.regs, ctxs := t.ctxs } ∧ ∀ a, a ≠ Reg.CTX_STAT c → a ≠
    Reg.CTX_CKPT c → rd t a = rd s a) ∧
  (∀ (s : State) (c : Fin 160), s.get (.CTX_STAT_STATE c) ≠ stWaiting ∨ (s.ctx c).wait ≠ .commit ∨ ckptCommitted s c = false → exec
    (.checkpointCommitted c) s = .next s) ∧
  (∀ (s : State) (c : Fin 160), s.get (.CTX_STAT_STATE c) = stBlocked → s.get (.CTX_STAT_WAIT_ON c) ≠ 10 → resourceFree s c = true → firstBlocked s c =
    true → ∃ t, exec (.ctxUnblock c) s = .next t ∧ t.get (.CTX_STAT_STATE c) = stReady ∧ t.get (.CTX_STAT_WAIT_ON c) = 0 ∧ t = { s with regs := t.regs } ∧
    ∀ a, a ≠ Reg.CTX_STAT c → rd t a = rd s a) ∧
  (∀ (s : State) (c : Fin 160), s.get (.CTX_STAT_STATE c) ≠ stBlocked ∨ s.get (.CTX_STAT_WAIT_ON c) = 10 ∨ resourceFree s c = false ∨ firstBlocked s c =
    false → exec (.ctxUnblock c) s = .next s) ∧
  (∀ (s : State) (c : Fin 160) (w : XferW) (d n p : Nat), s.get (.CTX_STAT_STATE c) = stWaiting → (s.ctx c).wait = .xfer w → w.deadline = some d → d ≤
    clk s → w.tx = true → w.phase = 4 → n = tDl w.desc - tOff w.desc - 1 → p = s.get (.CTX_PARTNER_PORT c) → txLevel s p < 32 → ∃ t, exec
    (.xferTimerExpiry c) s = .next t ∧ (t.can p).txq = (s.can p).txq ++
    [{ id := (s.can p).nextId, src := .hoist c, prio := 0, tag := 0x8000 + c, report := false, frame := tFrame s c w.desc (b8 (0x20 + w.sn) :: w.buf.take n) }]
    ∧ (t.ctx c).wait = .xfer
    { w with phase := 3, deadline := some (clk s + tAs w.desc), buf := w.buf.drop n, sn := (w.sn + 1) % 16, left := w.left.map (· - 1), todo := none }) ∧
  (∀ (s : State) (c : Fin 160) (w : XferW) (d : Nat), s.get (.CTX_STAT_STATE c) = stWaiting → (s.ctx c).wait = .xfer w → w.deadline = some d → d ≤ clk s
    → w.tx = false → w.phase = 11 → exec (.xferTimerExpiry c) s = .next (xferReserve c w s)) ∧
  (∀ (s : State) (c : Fin 160) (w : XferW) (d : Nat), s.get (.CTX_STAT_STATE c) = stWaiting → (s.ctx c).wait = .xfer w → w.deadline = some d → d ≤ clk s
    → (w.tx = true ∧ w.phase ≠ 4) ∨ (w.tx = false ∧ w.phase ≠ 11) → exec (.xferTimerExpiry c) s = .next (xferOut c w ocTimeout false (fun s => s) s)) ∧
  (∀ (s : State) (c : Fin 160) (w : XferW) (d : Nat), s.get (.CTX_STAT_STATE c) = stWaiting → (s.ctx c).wait = .xfer w → w.deadline = some d → d ≤ clk s
    → (w.tx = true ∧ w.phase ≠ 4) ∨ (w.tx = false ∧ w.phase ≠ 11) → actionOf (dw w.desc 8) ocTimeout = 0 → ∃ t, exec (.xferTimerExpiry c) s = .next t ∧
    t.get (.CTX_STAT_STATE c) = stReady ∧ t.get (.CTX_STAT_LAST_OUT c) = ocTimeout ∧ (t.ctx c).pc = w.next ∧ (t.ctx c).wait = .none) ∧
  (∀ (s : State) (c : Fin 160) (w : XferW), (s.ctx c).wait = .xfer w → w.deadline = none ∨ s.get (.CTX_STAT_STATE c) ≠ stWaiting → exec
    (.xferTimerExpiry c) s = .next s) ∧
  (∀ (s : State) (c : Fin 160) (w : XferW) (d : Nat), (s.ctx c).wait = .xfer w → w.deadline = some d → clk s < d → exec (.xferTimerExpiry c) s = .next
    s)

/-- The check-value units (R478 to R489). `CvPar.start`, `feed` and `finish` are the calculation of R478 with the unit's settings. `cvTouch` begins
the 100 ms of a host hold anew, and does nothing for other requesters. When a pass has fed its bytes is the DMA_DONE command's (assumption log 24). -/
def Obligations.CheckValueUnits : Prop :=
  (∀ (s : State) (r : Req) (u : Fin 8) (v : State), Admitted s r (Reg.CV_CMD u) Msk.CV_CMD → s.get (.CV_CFG_WIDTH u) ≠ 0 → (s.cv u).hold = .free ∨ (s.cv
    u).hold = cvOwner s r → v = cvTouch u (cvOwner s r) s → exec (.cvStart r u) s = .next (v.setCv u
    { run := (cvPar s u).start, hold := cvOwner s r, at_ := if (cvOwner s r).isHost then clk s else 0 })) ∧
  (∀ (s : State) (r : Req) (u : Fin 8), Admitted s r (Reg.CV_CMD u) Msk.CV_CMD → s.get (.CV_CFG_WIDTH u) ≠ 0 → (s.cv u).hold ≠ .free → (s.cv u).hold ≠
    cvOwner s r → exec (.cvStart r u) s = .next (cvRefuse u cvBusy s)) ∧
  (∀ (s : State) (r : Req) (u : Fin 8), Admitted s r (Reg.CV_CMD u) Msk.CV_CMD → s.get (.CV_CFG_WIDTH u) ≠ 0 → (s.cv u).hold ≠ cvOwner s r → exec
    (.cvFinish r u) s = .next (cvRefuse u (if (cvOwner s r).isHost && (s.cv u).hold.isHost then cvBusy else cvNotHeld) s)) ∧
  (∀ (s : State) (r : Req) (u : Fin 8), Admitted s r (Reg.CV_CMD u) Msk.CV_CMD → s.get (.CV_CFG_WIDTH u) ≠ 0 → (s.cv u).hold ≠ cvOwner s r → exec
    (.cvDma r u) s = .next (cvRefuse u (if (cvOwner s r).isHost && (s.cv u).hold.isHost then cvBusy else cvNotHeld) s)) ∧
  (∀ (s : State) (r : Req) (u : Fin 8), Admitted s r (Reg.CV_CMD u) Msk.CV_CMD → s.get (.CV_CFG_WIDTH u) ≠ 0 → (s.cv u).hold ≠ cvOwner s r → exec
    (.cvAbort r u) s = .next (cvRefuse u (if (cvOwner s r).isHost && (s.cv u).hold.isHost then cvBusy else cvNotHeld) s)) ∧
  (∀ (s : State) (r : Req) (u : Fin 8) (w : Word), Admitted s r (Reg.CV_DATA u) Msk.CV_DATA → s.get (.CV_CFG_WIDTH u) ≠ 0 → (s.cv u).hold ≠ cvOwner s r
    → exec (.cvData r u w) s = .next (cvRefuse u (if (cvOwner s r).isHost && (s.cv u).hold.isHost then cvBusy else cvNotHeld) s)) ∧
  (∀ (s : State) (r : Req) (u : Fin 8) (w : Word) (v : State), Admitted s r (Reg.CV_DATA u) Msk.CV_DATA → s.get (.CV_CFG_WIDTH u) ≠ 0 → (s.cv u).hold =
    cvOwner s r → (s.cv u).dma = none → v = cvTouch u (cvOwner s r) s → exec (.cvData r u w) s = .next (v.setCv u
    { v.cv u with run := (cvPar s u).feed (s.cv u).run (leBytes 4 w.toNat) })) ∧
  (∀ (s : State) (r : Req) (u : Fin 8) (w : Word) (v : State), Admitted s r (Reg.CV_DATA u) Msk.CV_DATA → s.get (.CV_CFG_WIDTH u) ≠ 0 → (s.cv u).hold =
    cvOwner s r → (s.cv u).dma ≠ none → v = cvTouch u (cvOwner s r) s → exec (.cvData r u w) s = .next (cvRefuse u cvBusy v)) ∧
  (∀ (s : State) (r : Req) (u : Fin 8) (w : Word), Admitted s r (Reg.CV_DATA u) Msk.CV_DATA → s.get (.CV_CFG_WIDTH u) = 0 → exec (.cvData r u w) s =
    .next (cvRefuse u cvDisabled (cvTouch u (cvOwner s r) s))) ∧
  (∀ (s : State) (r : Req) (u : Fin 8) (w : Word), Admitted s r (Reg.CV_DATA8 u) Msk.CV_DATA8 → s.get (.CV_CFG_WIDTH u) ≠ 0 → (s.cv u).hold ≠ cvOwner s
    r → exec (.cvData8 r u w) s = .next (cvRefuse u (if (cvOwner s r).isHost && (s.cv u).hold.isHost then cvBusy else cvNotHeld) s)) ∧
  (∀ (s : State) (r : Req) (u : Fin 8) (w : Word) (v : State), Admitted s r (Reg.CV_DATA8 u) Msk.CV_DATA8 → s.get (.CV_CFG_WIDTH u) ≠ 0 → (s.cv u).hold
    = cvOwner s r → (s.cv u).dma = none → v = cvTouch u (cvOwner s r) s → exec (.cvData8 r u w) s = .next (v.setCv u
    { v.cv u with run := (cvPar s u).feed (s.cv u).run (leBytes 1 w.toNat) })) ∧
  (∀ (s : State) (r : Req) (u : Fin 8) (w : Word) (v : State), Admitted s r (Reg.CV_DATA8 u) Msk.CV_DATA8 → s.get (.CV_CFG_WIDTH u) ≠ 0 → (s.cv u).hold
    = cvOwner s r → (s.cv u).dma ≠ none → v = cvTouch u (cvOwner s r) s → exec (.cvData8 r u w) s = .next (cvRefuse u cvBusy v)) ∧
  (∀ (s : State) (r : Req) (u : Fin 8) (w : Word), Admitted s r (Reg.CV_DATA8 u) Msk.CV_DATA8 → s.get (.CV_CFG_WIDTH u) = 0 → exec (.cvData8 r u w) s =
    .next (cvRefuse u cvDisabled (cvTouch u (cvOwner s r) s))) ∧
  (∀ (s : State) (r : Req) (u : Fin 8), Admitted s r (Reg.CV_CMD u) Msk.CV_CMD → s.get (.CV_CFG_WIDTH u) ≠ 0 → (s.cv u).hold = cvOwner s r → (s.cv
    u).dma = none → ∃ t, exec (.cvFinish r u) s = .next t ∧ t.get64 (Reg.CV_RESULT u 0) = (cvPar s u).finish (s.cv u).run % 2 ^ 64 ∧ t.is (.CV_STAT_DONE
    u) = true ∧ t.cv u = {} ∧ t = { s with regs := t.regs, cvs := t.cvs } ∧ ∀ a, a ≠ Reg.CV_STAT u → a ≠ Reg.CV_RESULT u 0 → a ≠ Reg.CV_RESULT u 1 → rd t
    a = rd s a) ∧
  (∀ (s : State) (r : Req) (u : Fin 8) (v : State), Admitted s r (Reg.CV_CMD u) Msk.CV_CMD → s.get (.CV_CFG_WIDTH u) ≠ 0 → (s.cv u).hold = cvOwner s r →
    (s.cv u).dma ≠ none → v = cvTouch u (cvOwner s r) s → exec (.cvFinish r u) s = .next (v.setCv u { v.cv u with fin := true })) ∧
  (∀ (s : State) (r : Req) (u : Fin 8) (v : State), Admitted s r (Reg.CV_CMD u) Msk.CV_CMD → s.get (.CV_CFG_WIDTH u) ≠ 0 → (s.cv u).hold = cvOwner s r →
    (s.cv u).dma ≠ none → v = cvTouch u (cvOwner s r) s → exec (.cvDma r u) s = .next (cvRefuse u cvBusy v)) ∧
  (∀ (s : State) (r : Req) (u : Fin 8), Admitted s r (Reg.CV_CMD u) Msk.CV_CMD → s.get (.CV_CFG_WIDTH u) ≠ 0 → (s.cv u).hold = cvOwner s r → (s.cv
    u).dma = none → s.get (.CV_DMA_LEN_LEN u) = 0 → exec (.cvDma r u) s = .next (cvTouch u (cvOwner s r) s)) ∧
  (∀ (s : State) (r : Req) (u : Fin 8) (v : State), Admitted s r (Reg.CV_CMD u) Msk.CV_CMD → s.get (.CV_CFG_WIDTH u) ≠ 0 → (s.cv u).hold = cvOwner s r →
    (s.cv u).dma = none → s.get (.CV_DMA_LEN_LEN u) ≠ 0 → 0x800000 ≤ s.get (.CV_DMA_ADDR_ADDR u) → s.get (.CV_DMA_ADDR_ADDR u) + s.get (.CV_DMA_LEN_LEN u)
    ≤ 0x1000000 → v = cvTouch u (cvOwner s r) s → exec (.cvDma r u) s = .next (v.setCv u
    { v.cv u with dma := some (s.get (.CV_DMA_ADDR_ADDR u), s.get (.CV_DMA_LEN_LEN u)) })) ∧
  (∀ (s : State) (r : Req) (u : Fin 8) (v : State), Admitted s r (Reg.CV_CMD u) Msk.CV_CMD → s.get (.CV_CFG_WIDTH u) ≠ 0 → (s.cv u).hold = cvOwner s r →
    (s.cv u).dma = none → s.get (.CV_DMA_LEN_LEN u) ≠ 0 → s.get (.CV_DMA_ADDR_ADDR u) < 0x800000 ∨ 0x1000000 < s.get (.CV_DMA_ADDR_ADDR u) + s.get
    (.CV_DMA_LEN_LEN u) → v = cvTouch u (cvOwner s r) s → exec (.cvDma r u) s = .next (cvRefuse u cvBadRange v)) ∧
  (∀ (s : State) (r : Req) (u : Fin 8), Admitted s r (Reg.CV_CMD u) Msk.CV_CMD → s.get (.CV_CFG_WIDTH u) ≠ 0 → (s.cv u).hold = cvOwner s r → ∃ t, exec
    (.cvAbort r u) s = .next t ∧ t.cv u = {} ∧ (∀ i, i ≠ u.val → t.cv i = s.cv i) ∧ t = { s with cvs := t.cvs }) ∧
  (∀ (s : State) (r : Req) (u : Fin 8), Admitted s r (Reg.CV_CMD u) Msk.CV_CMD → s.get (.CV_CFG_WIDTH u) = 0 → exec (.cvStart r u) s = .next (cvRefuse u
    cvDisabled (cvTouch u (cvOwner s r) s))) ∧
  (∀ (s : State) (r : Req) (u : Fin 8), Admitted s r (Reg.CV_CMD u) Msk.CV_CMD → s.get (.CV_CFG_WIDTH u) = 0 → exec (.cvFinish r u) s = .next (cvRefuse
    u cvDisabled (cvTouch u (cvOwner s r) s))) ∧
  (∀ (s : State) (r : Req) (u : Fin 8), Admitted s r (Reg.CV_CMD u) Msk.CV_CMD → s.get (.CV_CFG_WIDTH u) = 0 → exec (.cvDma r u) s = .next (cvRefuse u
    cvDisabled (cvTouch u (cvOwner s r) s))) ∧
  (∀ (s : State) (r : Req) (u : Fin 8), Admitted s r (Reg.CV_CMD u) Msk.CV_CMD → s.get (.CV_CFG_WIDTH u) = 0 → exec (.cvAbort r u) s = .next (cvRefuse u
    cvDisabled (cvTouch u (cvOwner s r) s))) ∧
  (∀ (s : State) (u : Fin 8) (a n : Nat), (s.cv u).dma = some (a, n) → (s.cv u).fin = false → exec (.cvDmaDone u) s = .next (s.setCv u
    { s.cv u with run := (cvPar s u).feed (s.cv u).run ((List.range n).map (fun i => qmemByte s (a + i))), dma := none })) ∧
  (∀ (s : State) (u : Fin 8) (a n : Nat), (s.cv u).dma = some (a, n) → (s.cv u).fin = true → ∃ t, exec (.cvDmaDone u) s = .next t ∧ t.get64
    (Reg.CV_RESULT u 0) = (cvPar s u).finish ((cvPar s u).feed (s.cv u).run ((List.range n).map (fun i => qmemByte s (a + i)))) % 2 ^ 64 ∧ t.is
    (.CV_STAT_DONE u) = true ∧ t.cv u = {} ∧ t = { s with regs := t.regs, cvs := t.cvs } ∧ ∀ a, a ≠ Reg.CV_STAT u → a ≠ Reg.CV_RESULT u 0 → a ≠
    Reg.CV_RESULT u 1 → rd t a = rd s a) ∧
  (∀ (s : State) (u : Fin 8), (s.cv u).dma = none → exec (.cvDmaDone u) s = .next s) ∧
  (∀ (s : State) (u : Fin 8), (s.cv u).hold.isHost = true → (s.cv u).at_ + 100 * tickMs ≤ clk s → exec (.cvHoldTimeout u) s = .next ((s.setCv u {}).set1
    (.CV_STAT_TMO u))) ∧
  (∀ (s : State) (u : Fin 8), (s.cv u).hold.isHost = false ∨ clk s < (s.cv u).at_ + 100 * tickMs → exec (.cvHoldTimeout u) s = .next s) ∧
  (∀ (s : State) (r : Req) (u : Fin 8) (w : Word), Admitted s r (Reg.CV_CFG u) Msk.CV_CFG → (s.cv u).hold ≠ .free → exec (.cvConfigWrite r u .cfg w) s =
    .next (s.set1 (.CV_STAT_DENIED u))) ∧
  (∀ (s : State) (r : Req) (u : Fin 8) (w : Word), Admitted s r (Reg.CV_CFG u) Msk.CV_CFG → (s.cv u).hold = .free → ∃ t, exec (.cvConfigWrite r u .cfg
    w) s = .next t ∧ t.get (.CV_CFG_WIDTH u) = min 64 (bits w (FldRef.CV_CFG_WIDTH u).hi (FldRef.CV_CFG_WIDTH u).lo) ∧ t.is (.CV_STAT_CFG_ADJ u) = decide
    (64 < bits w (FldRef.CV_CFG_WIDTH u).hi (FldRef.CV_CFG_WIDTH u).lo) ∧ t.is (.CV_CFG_REFIN u) = bitAt w (FldRef.CV_CFG_REFIN u).lo ∧ t.is
    (.CV_CFG_REFOUT u) = bitAt w (FldRef.CV_CFG_REFOUT u).lo ∧ t = { s with regs := t.regs } ∧ ∀ a, a ≠ Reg.CV_CFG u → a ≠ Reg.CV_STAT u → rd t a = rd s
    a) ∧
  (∀ (s : State) (r : Req) (u : Fin 8) (w : Word), Admitted s r (Reg.CV_POLY u 1) Msk.CV_POLY → (s.cv u).hold = .free → ∃ t, exec (.cvConfigWrite r u
    .poly w) s = .next t ∧ t.get64 (Reg.CV_POLY u 0) = commit64 s r (Reg.CV_POLY u 0) w % 2 ^ 64 ∧ t.wsh = (shadowDrop r s).wsh ∧ t =
    { s with regs := t.regs, wsh := t.wsh } ∧ ∀ a, a ≠ Reg.CV_POLY u 0 → a ≠ Reg.CV_POLY u 1 → rd t a = rd s a) ∧
  (∀ (s : State) (r : Req) (u : Fin 8) (w : Word), Admitted s r (Reg.CV_POLY u 1) Msk.CV_POLY → (s.cv u).hold ≠ .free → exec (.cvConfigWrite r u .poly
    w) s = .next ((shadowDrop r s).set1 (.CV_STAT_DENIED u))) ∧
  (∀ (s : State) (r : Req) (u : Fin 8) (w : Word), Admitted s r (Reg.CV_INIT u 1) Msk.CV_INIT → (s.cv u).hold = .free → ∃ t, exec (.cvConfigWrite r u
    .init w) s = .next t ∧ t.get64 (Reg.CV_INIT u 0) = commit64 s r (Reg.CV_INIT u 0) w % 2 ^ 64 ∧ t.wsh = (shadowDrop r s).wsh ∧ t =
    { s with regs := t.regs, wsh := t.wsh } ∧ ∀ a, a ≠ Reg.CV_INIT u 0 → a ≠ Reg.CV_INIT u 1 → rd t a = rd s a) ∧
  (∀ (s : State) (r : Req) (u : Fin 8) (w : Word), Admitted s r (Reg.CV_INIT u 1) Msk.CV_INIT → (s.cv u).hold ≠ .free → exec (.cvConfigWrite r u .init
    w) s = .next ((shadowDrop r s).set1 (.CV_STAT_DENIED u))) ∧
  (∀ (s : State) (r : Req) (u : Fin 8) (w : Word), Admitted s r (Reg.CV_XOROUT u 1) Msk.CV_XOROUT → (s.cv u).hold = .free → ∃ t, exec (.cvConfigWrite r
    u .xorout w) s = .next t ∧ t.get64 (Reg.CV_XOROUT u 0) = commit64 s r (Reg.CV_XOROUT u 0) w % 2 ^ 64 ∧ t.wsh = (shadowDrop r s).wsh ∧ t =
    { s with regs := t.regs, wsh := t.wsh } ∧ ∀ a, a ≠ Reg.CV_XOROUT u 0 → a ≠ Reg.CV_XOROUT u 1 → rd t a = rd s a) ∧
  (∀ (s : State) (r : Req) (u : Fin 8) (w : Word), Admitted s r (Reg.CV_XOROUT u 1) Msk.CV_XOROUT → (s.cv u).hold ≠ .free → exec (.cvConfigWrite r u
    .xorout w) s = .next ((shadowDrop r s).set1 (.CV_STAT_DENIED u))) ∧
  (∀ (s : State) (r : Req) (u : Fin 8), readServed s r = true → s.get (.CV_CFG_WIDTH u) = 0 → ∃ t, exec (.wideReadLow r (wd (Reg.CV_RESULT u 0))) s =
    .next t ∧ t.rdata = 0)

/-- Frames of S0 (R402 to R416). `s0Row` is the row of the table that a frame is, `s0Begun` the state in which its outcome falls: the line mode that
was chosen is in effect, the frame has carried what it has room for of the pending reply and is recorded with its number and TAG, edges past its end
counted. `s0Result` records the outcome and the reply's length. Where the tests overlap, R407's order decides; that a switchover is tested before them
is DEDUCED (assumption log 57). -/
def Obligations.HostPortFrames : Prop :=
  (∀ (s : State) (cmd addr : Word) (room : List Word) (crc : Word) (late : List Nat) (extra : Bool) (b : State), bits cmd 31 28 = 0 → s0Accepted s cmd
    addr room crc = true → b = s0Begun cmd late extra s → exec (.s0Nop cmd addr room crc late extra) s = .next (s0Result hrOk true cmd b)) ∧
  (∀ (s : State) (cmd addr : Word) (room : List Word) (crc : Word) (late : List Nat) (extra : Bool), bits cmd 31 28 = 0 → s0Accepted s cmd addr room crc
    = true → ∃ t, exec (.s0Nop cmd addr room crc late extra) s = .next t ∧ t.s0.has = true ∧ t.s0.tag = bits cmd 15 8 ∧ t.s0.result = hrOk ∧ t.s0.fseq =
    (if s.s0.has then (s.s0.fseq + 1) % 256 else 0) ∧ t.s0.next = none ∧ t.s0.quad = (s0Fall s).s0.quad ∧ t.s0.crcErr = false ∧ t.s0.abort = false ∧
    t.s0.overclock = extra ∧ t = { s with regs := t.regs, s0 := t.s0 } ∧ ∀ a, a ≠ Reg.SP0_CNT → a ≠ Reg.SP0_CNT2 → rd t a = rd s a) ∧
  (∀ (s : State) (cmd addr : Word) (room : List Word) (crc : Word) (late : List Nat) (extra : Bool) (b : State), bits cmd 31 28 = 1 → s0Accepted s cmd
    addr room crc = true → inWindow addr.toNat = false → b = s0Result hrOk true cmd (s0Begun cmd late extra s) → exec (.s0Read cmd addr room crc late
    extra) s = .next ((readWords .s0 (frameAddrs cmd addr) b).2.modS0 (fun h => { h with vals := (readWords .s0 (frameAddrs cmd addr) b).1 }))) ∧
  (∀ (s : State) (cmd addr : Word) (room : List Word) (crc : Word) (late : List Nat) (extra : Bool), bits cmd 31 28 = 1 → s0Accepted s cmd addr room crc
    = true → inWindow addr.toNat = true → winKept s cmd addr = true → ∃ t, exec (.s0Read cmd addr room crc late extra) s = .next t ∧ t.s0.buf = s.s0.buf ∧
    t.s0.win = some (bits cmd 27 20 + 1) ∧ t.s0.vals = [] ∧ t.s0.result = hrOk ∧ t = { s with regs := t.regs, s0 := t.s0 } ∧ ∀ a, a ≠ Reg.SP0_CNT → a ≠
    Reg.SP0_CNT2 → a ≠ Reg.SP1_STAT → rd t a = rd s a) ∧
  (∀ (s : State) (cmd addr : Word) (room : List Word) (crc : Word) (late : List Nat) (extra : Bool), bits cmd 31 28 = 1 → s0Accepted s cmd addr room crc
    = true → inWindow addr.toNat = true → winKept s cmd addr = false → ∃ t, exec (.s0Read cmd addr room crc late extra) s = .next t ∧ t.s0.buf = some
    { addr := addr.toNat - winBase, cnt := bits cmd 27 20, inc := bitAt cmd 16, cs := s.get .SP1_WBASE_CS, base := s.get .SP1_WBASE_BASE } ∧ t.s0.win =
    some (bits cmd 27 20 + 1) ∧ t.s0.vals = [] ∧ t.s0.result = hrOk ∧ t = { s with regs := t.regs, s0 := t.s0 } ∧ ∀ a, a ≠ Reg.SP0_CNT → a ≠ Reg.SP0_CNT2
    → a ≠ Reg.SP1_STAT → rd t a = rd s a) ∧
  (∀ (s : State) (cmd addr : Word) (data : List Word) (crc : Word) (late : List Nat) (extra : Bool) (b : State) (q : Bool × State), bits cmd 31 28 = 2 →
    s0Accepted s cmd addr data crc = true → inWindow addr.toNat = false → b = s0Begun cmd late extra s → q = writeWords .s0 (busFn .s0) ((frameAddrs cmd
    addr).zip data) b → exec (.s0Write cmd addr data crc late extra) s = .next (s0Result (if q.1 then hrDenied else hrOk) true cmd q.2)) ∧
  (∀ (s : State) (cmd addr : Word) (data : List Word) (crc : Word) (late : List Nat) (extra : Bool) (q : Nat × State), bits cmd 31 28 = 2 → s0Accepted s
    cmd addr data crc = true → inWindow addr.toNat = true → winOpen s = true → q = winWrite (addr.toNat - winBase) (bitAt cmd 16) data (s0Begun cmd late
    extra s) → exec (.s0Write cmd addr data crc late extra) s = .next (s0Result q.1 true cmd (if q.1 = hrRetry then q.2.inc .SP0_CNT2_RETRY else q.2))) ∧
  (∀ (s : State) (cmd addr : Word) (data : List Word) (crc : Word) (late : List Nat) (extra : Bool) (b : State), bits cmd 31 28 = 2 → s0Accepted s cmd
    addr data crc = true → inWindow addr.toNat = true → winOpen s = false → b = s0Begun cmd late extra s → exec (.s0Write cmd addr data crc late extra) s
    = .next (s0Result hrDenied true cmd b)) ∧
  (∀ (s : State) (cmd addr d crc : Word) (late : List Nat) (extra : Bool), bits cmd 31 28 = 3 → s0Accepted s cmd addr [d] crc = true → bitAt d 0 = false
    → ∃ t, exec (.s0Mode cmd addr d crc late extra) s = .next t ∧ t.s0.result = hrOk ∧ t.s0.next = some false ∧ t.s0.quad = (s0Fall s).s0.quad ∧ t.s0.tag
    = bits cmd 15 8 ∧ t = { s with regs := t.regs, s0 := t.s0 } ∧ ∀ a, a ≠ Reg.SP0_CNT → a ≠ Reg.SP0_CNT2 → rd t a = rd s a) ∧
  (∀ (s : State) (cmd addr d crc : Word) (late : List Nat) (extra : Bool), bits cmd 31 28 = 3 → s0Accepted s cmd addr [d] crc = true → bitAt d 0 = true
    → s.is .SP0_CFG_QUAD_EN = true → s.get .BT_STAT_STATE = 1 → (s0Fall s).s0.quad = false → ∃ t, exec (.s0Mode cmd addr d crc late extra) s = .next t ∧
    t.s0.result = hrOk ∧ t.s0.next = some true ∧ t.s0.quad = (s0Fall s).s0.quad ∧ t.s0.tag = bits cmd 15 8 ∧ t = { s with regs := t.regs, s0 := t.s0 } ∧ ∀
    a, a ≠ Reg.SP0_CNT → a ≠ Reg.SP0_CNT2 → rd t a = rd s a) ∧
  (∀ (s : State) (cmd addr d crc : Word) (late : List Nat) (extra : Bool), bits cmd 31 28 = 3 → s0Accepted s cmd addr [d] crc = true → bitAt d 0 = true
    → s.is .SP0_CFG_QUAD_EN = false ∨ s.get .BT_STAT_STATE ≠ 1 ∨ (s0Fall s).s0.quad = true → ∃ t, exec (.s0Mode cmd addr d crc late extra) s = .next t ∧
    t.s0.result = hrDenied ∧ t.s0.next = none ∧ t.s0.quad = (s0Fall s).s0.quad ∧ t.s0.tag = bits cmd 15 8 ∧ t = { s with regs := t.regs, s0 := t.s0 } ∧ ∀
    a, a ≠ Reg.SP0_CNT → a ≠ Reg.SP0_CNT2 → rd t a = rd s a) ∧
  (∀ (s : State) (cmd addr : Word) (data : List Word) (crc : Word) (late : List Nat) (extra : Bool), s0Arrives s cmd data = true → bitAt cmd 17 = true →
    bits crc 15 0 ≠ crc16 (cmd :: addr :: data) → ∃ t, exec (s0Row cmd addr data crc late extra) s = .next t ∧ t.s0.result = hrDiscarded ∧ t.s0.crcErr =
    true ∧ t.s0.tag = bits cmd 15 8 ∧ t.s0.fseq = (if s.s0.has then (s.s0.fseq + 1) % 256 else 0) ∧ t.get .SP0_CNT_CRC = min (s.get .SP0_CNT_CRC + 1) 255
    ∧ t = { s with regs := t.regs, s0 := t.s0 } ∧ ∀ a, a ≠ Reg.SP0_CNT → a ≠ Reg.SP0_CNT2 → rd t a = rd s a) ∧
  (∀ (s : State) (cmd addr : Word) (data : List Word) (crc : Word) (late : List Nat) (extra : Bool) (b : State), s0Complete s cmd addr data crc = true →
    s.is .SV_STAT_SWITCHING = true → b = s0Begun cmd late extra s → exec (s0Row cmd addr data crc late extra) s = .next (s0Result hrRetry true cmd (b.inc
    .SP0_CNT2_RETRY))) ∧
  (∀ (s : State) (cmd addr : Word) (data : List Word) (crc : Word) (late : List Nat) (extra : Bool) (b : State), s0Complete s cmd addr data crc = true →
    s.is .SV_STAT_SWITCHING = false → badCmd cmd crc data = true → b = s0Begun cmd late extra s → exec (s0Row cmd addr data crc late extra) s = .next
    (s0Result hrBadCmd false cmd b)) ∧
  (∀ (s : State) (cmd addr : Word) (data : List Word) (crc : Word) (late : List Nat) (extra : Bool) (b : State), s0Complete s cmd addr data crc = true →
    s.is .SV_STAT_SWITCHING = false → badCmd cmd crc data = false → badAddr cmd addr = true → b = s0Begun cmd late extra s → exec (s0Row cmd addr data crc
    late extra) s = .next (s0Result hrBadAddr false cmd b)) ∧
  (∀ (s : State) (cmd addr : Word) (data : List Word) (crc : Word) (late : List Nat) (extra : Bool), data.length = dataLen (s0Fall s).s0.quad cmd →
    s0Serves (s0Fall s) = false → exec (s0Row cmd addr data crc late extra) s = .next (s0Dead (frameLen (s0Fall s).s0.quad cmd) (s0Fall s))) ∧
  (∀ (s : State) (cmd addr : Word) (data : List Word) (crc : Word) (late : List Nat) (extra : Bool), bits cmd 31 28 ≠ 3 → data.length ≠ dataLen (s0Fall
    s).s0.quad cmd → exec (s0Row cmd addr data crc late extra) s = .next s) ∧
  (∀ (s : State) (cmd addr : Word) (data : List Word) (crc : Word) (late : List Nat) (extra : Bool), 1 ≤ bits cmd 31 28 → bits cmd 31 28 ≤ 3 → exec
    (.s0Nop cmd addr data crc late extra) s = .next s) ∧
  (∀ (s : State) (cmd addr : Word) (data : List Word) (crc : Word) (late : List Nat) (extra : Bool), bits cmd 31 28 ≠ 1 → exec (.s0Read cmd addr data
    crc late extra) s = .next s) ∧
  (∀ (s : State) (cmd addr : Word) (data : List Word) (crc : Word) (late : List Nat) (extra : Bool), bits cmd 31 28 ≠ 2 → exec (.s0Write cmd addr data
    crc late extra) s = .next s) ∧
  (∀ (s : State) (cmd addr d crc : Word) (late : List Nat) (extra : Bool), bits cmd 31 28 ≠ 3 → exec (.s0Mode cmd addr d crc late extra) s = .next s) ∧
  (∀ (s : State) (cmd : Word) (ws : List Word) (n : Nat) (late : List Nat), s0Serves (s0Fall s) = true → frameShort (s0Fall s).s0.quad (cmd :: ws) =
    true → ∃ t, exec (.s0FrameAbort (cmd :: ws) n late) s = .next t ∧ t.s0.tag = bits cmd 15 8 ∧ t.s0.result = hrDiscarded ∧ t.s0.abort = true ∧ t.s0.fseq
    = (if s.s0.has then (s.s0.fseq + 1) % 256 else 0) ∧ t.get .SP0_CNT_ABORT = min (s.get .SP0_CNT_ABORT + 1) 255 ∧ t =
    { s with regs := t.regs, s0 := t.s0 } ∧ ∀ a, a ≠ Reg.SP0_CNT → a ≠ Reg.SP0_CNT2 → rd t a = rd s a) ∧
  (∀ (s : State) (n : Nat) (late : List Nat), s0Serves (s0Fall s) = true → ∃ t, exec (.s0FrameAbort [] n late) s = .next t ∧ t.s0.result = hrDiscarded ∧
    t.s0.abort = true ∧ t.s0.fseq = (if s.s0.has then (s.s0.fseq + 1) % 256 else 0) ∧ t.get .SP0_CNT_ABORT = min (s.get .SP0_CNT_ABORT + 1) 255 ∧ t =
    { s with regs := t.regs, s0 := t.s0, free := t.free } ∧ ∀ a, a ≠ Reg.SP0_CNT → a ≠ Reg.SP0_CNT2 → rd t a = rd s a) ∧
  (∀ (s : State) (ws : List Word) (n : Nat) (late : List Nat), s0Serves (s0Fall s) = false → frameShort (s0Fall s).s0.quad ws = true → exec
    (.s0FrameAbort ws n late) s = .next (s0Dead (n + ws.length) (s0Fall s))) ∧
  (∀ (s : State) (cmd : Word) (ws : List Word) (n : Nat) (late : List Nat), s0Serves (s0Fall s) = true → ∃ t, exec (.s0FrameTimeout (cmd :: ws) n late)
    s = .next t ∧ t.s0.tag = bits cmd 15 8 ∧ t.s0.result = hrDiscarded ∧ t.s0.abort = true ∧ t.s0.fseq = (if s.s0.has then (s.s0.fseq + 1) % 256 else 0) ∧
    t.get .SP0_CNT_ABORT = min (s.get .SP0_CNT_ABORT + 1) 255 ∧ t = { s with regs := t.regs, s0 := t.s0 } ∧ ∀ a, a ≠ Reg.SP0_CNT → a ≠ Reg.SP0_CNT2 → rd t
    a = rd s a) ∧
  (∀ (s : State) (n : Nat) (late : List Nat), s0Serves (s0Fall s) = true → ∃ t, exec (.s0FrameTimeout [] n late) s = .next t ∧ t.s0.result = hrDiscarded
    ∧ t.s0.abort = true ∧ t.s0.fseq = (if s.s0.has then (s.s0.fseq + 1) % 256 else 0) ∧ t.get .SP0_CNT_ABORT = min (s.get .SP0_CNT_ABORT + 1) 255 ∧ t =
    { s with regs := t.regs, s0 := t.s0, free := t.free } ∧ ∀ a, a ≠ Reg.SP0_CNT → a ≠ Reg.SP0_CNT2 → rd t a = rd s a) ∧
  (∀ (s : State) (ws : List Word) (n : Nat) (late : List Nat), s0Serves (s0Fall s) = false → exec (.s0FrameTimeout ws n late) s = .next (s0Dead (n +
    ws.length) (s0Fall s))) ∧
  (∀ (s : State) (ws : List Word) (n : Nat) (late : List Nat), frameShort (s0Fall s).s0.quad ws = false → exec (.s0FrameAbort ws n late) s = .next s) ∧
  (∀ (s : State), s0Serves (s0Fall s) = true → exec .s0EmptyFrame s = .next (((s0Fall s).modS0 (fun h => { h with out := [] })).inc .SP0_CNT2_EMPTY)) ∧
  (∀ (s : State), s0Serves (s0Fall s) = false → exec .s0EmptyFrame s = .next ((s0Fall s).modS0 (fun h => { h with out := [] })))

/-- The memory port (R414, R421 to R425) and the general port (R427 to R433). `s1Go` gives free selects to the users that wait and shows it in
SP1_STAT, `s1Free` the same after the user of one is done. A window read waits for its select, which the order of R425 would serve last. What a failed
program or erase leaves in the flash is free (assumption log 31). -/
def Obligations.MemoryAndGeneralPorts : Prop :=
  (∀ (s : State) (b : WinBuf) (a : Nat), s.s0.buf = some b → b.words = none → s1Run s b.cs = 0 → a = b.base * 65536 + b.addr → b.inc = true → exec
    .flashWindowReadDone s = .next (sp1Show (s.modS0 (fun h =>
    { h with buf := some { b with words := some ((List.range (b.cnt + 1)).map (fun i => wd (leNat [winByte s b.cs (a + 4 * i), winByte s b.cs (a + 4 * i + 1), winByte s b.cs (a + 4 * i + 2), winByte s b.cs (a + 4 * i + 3)]))) } })))) ∧
  (∀ (s : State) (b : WinBuf) (a : Nat), s.s0.buf = some b → b.words = none → s1Run s b.cs = 0 → a = b.base * 65536 + b.addr → b.inc = false → exec
    .flashWindowReadDone s = .next (sp1Show (s.modS0 (fun h =>
    { h with buf := some { b with words := some ((List.range (b.cnt + 1)).map (fun i => wd (leNat [winByte s b.cs (a), winByte s b.cs (a + 1), winByte s b.cs (a + 2), winByte s b.cs (a + 3)]))) } })))) ∧
  (∀ (s : State) (b : WinBuf), s.s0.buf = some b → b.words ≠ none ∨ s1Run s b.cs ≠ 0 → exec .flashWindowReadDone s = .next s) ∧
  (∀ (s : State), s.s0.buf = none → exec .flashWindowReadDone s = .next s) ∧
  (∀ (s : State) (cs a : Nat) (l : List Byte) (r : List (Nat × List Byte)), s.sp1.win = some cs → s.sp1.pieces = (a, l) :: r → s1Run s cs = 9 → exec
    (.flashPageProgram 0) s = .next (s1Free cs ((flashProg cs a l s).modSp1 (fun p => { p with pieces := r })))) ∧
  (∀ (s : State) (cs a i : Nat) (l : List Byte) (r : List (Nat × List Byte)) (x : Byte), s.sp1.win = some cs → s.sp1.pieces = (a, l) :: r → s1Run s cs =
    9 → cs < 2 → a + l.length ≤ 2 ^ 29 → l[i]? = some x → ∃ t, exec (.flashPageProgram 0) s = .next t ∧ flashByte t cs (a + i) = flashByte s cs (a + i)
    &&& x ∧ (∀ b, b < a ∨ a + l.length ≤ b → b < 2 ^ 29 → flashByte t cs b = flashByte s cs b) ∧ t.sp1.pieces = r ∧ t.sp1.winErr = s.sp1.winErr) ∧
  (∀ (s : State) (cs a : Nat) (l : List Byte) (r : List (Nat × List Byte)) (o : Fin 3), s.sp1.win = some cs → s.sp1.pieces = (a, l) :: r → s1Run s cs =
    9 → o ≠ 0 → ∃ t, exec (.flashPageProgram o) s = .next t ∧ t.sp1.pieces = [] ∧ t.sp1.winErr = (if o = 1 then 1 else 3) ∧ t.sp1.win = some cs ∧ t =
    { s with regs := t.regs, sp1 := t.sp1, flash := t.flash, free := t.free, pw := t.pw } ∧ ∀ a, a ≠ Reg.SP1_STAT → rd t a = rd s a) ∧
  (∀ (s : State) (o : Fin 3), s.sp1.win = none ∨ s.sp1.pieces = [] → exec (.flashPageProgram o) s = .next s) ∧
  (∀ (s : State) (o : Fin 3) (cs : Nat), s.sp1.win = some cs → s1Run s cs ≠ 9 → exec (.flashPageProgram o) s = .next s) ∧
  (∀ (s : State), s.sp1.win.isSome = true → s.sp1.pieces = [] → ∃ t, exec .flashWriteDone s = .next t ∧ t.sp1.win = none ∧ t.is .SP1_STAT_WBUSY = false
    ∧ t.is .SP1_STAT_DONE = true ∧ t.get .SP1_STAT_ERR = s.sp1.winErr % 2 ^ ((FldRef.SP1_STAT_ERR).hi + 1 - (FldRef.SP1_STAT_ERR).lo) ∧ t =
    { s with regs := t.regs, sp1 := t.sp1 } ∧ ∀ a, a ≠ Reg.SP1_STAT → rd t a = rd s a) ∧
  (∀ (s : State), s.sp1.win = none ∨ s.sp1.pieces ≠ [] → exec .flashWriteDone s = .next s) ∧
  (∀ (s : State) (r : Req) (et : Fin 4) (cs : Fin 2), Admitted s r Reg.SP1_CMD Msk.SP1_CMD → s.get .SP1_STAT_STATE = 0 → flashRefusal s r cs (s.get
    .SP1_ADDR_ADDR) (if eraseLog s cs et = 0 then 1 else 2 ^ eraseLog s cs et) (some et) = 0 → exec (.sp1Erase r et cs) s = .next (s1Go (((s.put
    .SP1_STAT_ERR 0).put .SP1_STAT_REFUSE 0).modSp1 (fun p => { p with cmd := some (cs, .erase (s.get .SP1_ADDR_ADDR) (eraseLog s cs et)) })))) ∧
  (∀ (s : State) (r : Req) (et : Fin 4) (cs : Fin 2) (n : Nat), Admitted s r Reg.SP1_CMD Msk.SP1_CMD → s.get .SP1_STAT_STATE = 0 → flashRefusal s r cs
    (s.get .SP1_ADDR_ADDR) (if eraseLog s cs et = 0 then 1 else 2 ^ eraseLog s cs et) (some et) = n → n ≠ 0 → exec (.sp1Erase r et cs) s = .next ((s.put
    .SP1_STAT_ERR 0).put .SP1_STAT_REFUSE n)) ∧
  (∀ (s : State) (r : Req) (et : Fin 4) (cs : Fin 2), Admitted s r Reg.SP1_CMD Msk.SP1_CMD → s.get .SP1_STAT_STATE ≠ 0 → exec (.sp1Erase r et cs) s =
    .next (s.set1 .SP1_STAT_IGNORED)) ∧
  (∀ (s : State) (r : Req) (cs : Fin 2), Admitted s r Reg.SP1_CMD Msk.SP1_CMD → s.get .SP1_STAT_STATE = 0 → s.is .SP1_CFG_RAW_EN = true ∨ s.get
    .BT_STAT_STATE = 2 → exec (.sp1Raw r cs) s = .next (s1Go (((s.put .SP1_STAT_ERR 0).put .SP1_STAT_REFUSE 0).modSp1 (fun p =>
    { p with cmd := some (cs.val, .raw) })))) ∧
  (∀ (s : State) (r : Req) (cs : Fin 2), Admitted s r Reg.SP1_CMD Msk.SP1_CMD → s.get .SP1_STAT_STATE = 0 → s.is .SP1_CFG_RAW_EN = false → s.get
    .BT_STAT_STATE ≠ 2 → exec (.sp1Raw r cs) s = .next ((s.put .SP1_STAT_ERR 0).put .SP1_STAT_REFUSE 6)) ∧
  (∀ (s : State) (r : Req) (cs : Fin 2), Admitted s r Reg.SP1_CMD Msk.SP1_CMD → s.get .SP1_STAT_STATE ≠ 0 → exec (.sp1Raw r cs) s = .next (s.set1
    .SP1_STAT_IGNORED)) ∧
  (∀ (s : State) (cs a n : Nat) (rx : List Byte) (chg : List (Nat × Byte)), s.sp1.cmd = some (cs, .erase a n) → s1Run s cs = 10 → cs < 2 → a + 2 ^ n ≤ 2
    ^ 29 → ∃ t, exec (.sp1OpDone 0 rx chg) s = .next t ∧ (∀ x, a ≤ x ∧ x < a + 2 ^ n → flashByte t cs x = 0xFF) ∧ (∀ x, x < a ∨ a + 2 ^ n ≤ x → x < 2 ^ 29
    → flashByte t cs x = flashByte s cs x) ∧ t.sp1.cmd = none ∧ t.is .SP1_STAT_DONE = true ∧ t.get .SP1_STAT_ERR = 0 ∧ t =
    { s with regs := t.regs, sp1 := t.sp1, flash := t.flash, pw := t.pw } ∧ ∀ a, a ≠ Reg.SP1_STAT → rd t a = rd s a) ∧
  (∀ (s : State) (cs a n : Nat) (o : Fin 3) (rx : List Byte) (chg : List (Nat × Byte)), s.sp1.cmd = some (cs, .erase a n) → s1Run s cs = 10 → o ≠ 0 → ∃
    t, exec (.sp1OpDone o rx chg) s = .next t ∧ t.sp1.cmd = none ∧ t.is .SP1_STAT_DONE = true ∧ t.get .SP1_STAT_ERR = (if o = 1 then 2 else 3) ∧ t =
    { s with regs := t.regs, sp1 := t.sp1, flash := t.flash, free := t.free, pw := t.pw } ∧ ∀ a, a ≠ Reg.SP1_STAT → rd t a = rd s a) ∧
  (∀ (s : State) (cs : Nat) (o : Fin 3) (rx : List Byte) (chg : List (Nat × Byte)) (b : State), s.sp1.cmd = some (cs, .raw) → s1Run s cs = 10 → b = (if
    s.is .SP1_FRAME_WRITE then rawChanges cs chg s else putBuf (Reg.SP1_BUF 0) (rx.take (min (s.get .SP1_FRAME_LEN) 256)) (rawChanges cs chg s)) → exec
    (.sp1OpDone o rx chg) s = .next (s1Free cs ((({ b with hcache := if cs = 0 then [] else b.hcache }).put .SP1_STAT_ERR 0).set1 .SP1_STAT_DONE |>.modSp1
    (fun p => { p with cmd := none })))) ∧
  (∀ (s : State) (o : Fin 3) (rx : List Byte) (chg : List (Nat × Byte)), s.sp1.cmd = none → exec (.sp1OpDone o rx chg) s = .next s) ∧
  (∀ (s : State) (cs : Nat) (j : FlashJob) (o : Fin 3) (rx : List Byte) (chg : List (Nat × Byte)), s.sp1.cmd = some (cs, j) → s1Run s cs ≠ 10 → exec
    (.sp1OpDone o rx chg) s = .next s) ∧
  (∀ (s : State) (r : Req) (ss : Fin 4) (cnt : Fin 256), Admitted s r Reg.SP2_CMD Msk.SP2_CMD → s.sp2.role = 1 → s.is .SP2_STAT_MODF = false →
    s.sp2.xfer = none → s.is .SP2_CFG_FRAME = true → ∃ t, exec (.s2Go r ss cnt) s = .next t ∧ t.sp2 =
    { s.sp2 with xfer := some { ss := ss, n := cnt + 1, frame := true, start := now s }, sent := if s.is .SP2_FRAME_WRITE then (List.range (cnt + 1)).map (fun i => wd (s2TxByte s i).toNat) else [] }
    ∧ t.is .SP2_STAT_BUSY = true ∧ t = { s with regs := t.regs, sp2 := t.sp2 } ∧ ∀ a, a ≠ Reg.SP2_STAT → rd t a = rd s a) ∧
  (∀ (s : State) (r : Req) (ss : Fin 4) (cnt : Fin 256), Admitted s r Reg.SP2_CMD Msk.SP2_CMD → s.sp2.role = 1 → s.is .SP2_STAT_MODF = false →
    s.sp2.xfer = none → s.is .SP2_CFG_FRAME = false → ∃ t, exec (.s2Go r ss cnt) s = .next t ∧ t.sp2 =
    { s.sp2 with xfer := some { ss := ss, n := cnt.val % 64 + 1, frame := false, start := now s }, sent := (List.range (cnt.val % 64 + 1)).map (fun i => wd ((rd s (Reg.SP2_TX i)).toNat % 2 ^ s2Bits s)) }
    ∧ t.is .SP2_STAT_BUSY = true ∧ t = { s with regs := t.regs, sp2 := t.sp2 } ∧ ∀ a, a ≠ Reg.SP2_STAT → rd t a = rd s a) ∧
  (∀ (s : State) (r : Req) (ss : Fin 4) (cnt : Fin 256), Admitted s r Reg.SP2_CMD Msk.SP2_CMD → s.sp2.role = 1 → s.is .SP2_STAT_MODF = false →
    s.sp2.xfer ≠ none → exec (.s2Go r ss cnt) s = .next (s.put .SP2_STAT_RESULT 1)) ∧
  (∀ (s : State) (r : Req) (ss : Fin 4) (cnt : Fin 256), Admitted s r Reg.SP2_CMD Msk.SP2_CMD → s.sp2.role ≠ 1 ∨ s.is .SP2_STAT_MODF = true → exec
    (.s2Go r ss cnt) s = .next (s.put .SP2_STAT_RESULT 3)) ∧
  (∀ (s : State) (x : S2Xfer) (rx : List Word), s.sp2.xfer = some x → x.ctx = none → x.frame = false → exec (.s2TransferEnd rx) s = .next (sp2Show
    ((((s.modSp2 (fun p => { p with xfer := none })).each (List.range x.n) (fun i s' => wr (Reg.SP2_RX i) (wd ((((List.range x.n).map (fun i => rx.getD i
    0)).getD i 0).toNat % 2 ^ s2Bits s)) s'))).put .SP2_STAT_RESULT 0))) ∧
  (∀ (s : State) (x : S2Xfer) (rx : List Word), s.sp2.xfer = some x → x.ctx = none → x.frame = true → s.is .SP2_FRAME_WRITE = false → exec
    (.s2TransferEnd rx) s = .next (sp2Show ((putBuf (Reg.SP2_RX 0) ((List.range x.n).map (fun i => BitVec.ofNat 8 (rx.getD i 0).toNat)) (s.modSp2 (fun p
    => { p with xfer := none }))).put .SP2_STAT_RESULT 0))) ∧
  (∀ (s : State) (x : S2Xfer) (rx : List Word), s.sp2.xfer = some x → x.ctx = none → x.frame = true → s.is .SP2_FRAME_WRITE = true → exec
    (.s2TransferEnd rx) s = .next (sp2Show ((s.modSp2 (fun p => { p with xfer := none })).put .SP2_STAT_RESULT 0))) ∧
  (∀ (s : State) (x : S2Xfer) (c k : Nat) (rx : List Word) (b : State), s.sp2.xfer = some x → x.ctx = some c → k = (if x.frame then 1 else wordBytes s)
    → b = sp2Show (s.modSp2 (fun p => { p with xfer := none })) → exec (.s2TransferEnd rx) s = .next (ctxFrame c (s2Frame (rxBytesOf k ((List.range
    x.n).map (fun i => rx.getD i 0))) x.start) (if (s.ctx c).wait = .s2 then ctxResume c (s.ctx c).pc b else b))) ∧
  (∀ (s : State), s.sp2.xfer = none → exec (.s2TransferEnd []) s = .next s) ∧
  (∀ (s : State) (x : S2Xfer), s.sp2.role = 1 → s.is .SP2_CFG_MM_EN = true → s.sp2.xfer = some x → x.ctx = none → ∃ t, exec .s2Modf s = .next t ∧ t.is
    .SP2_STAT_MODF = true ∧ t.get .SP2_STAT_RESULT = 2 ∧ t.is .SP2_STAT_BUSY = false ∧ t.sp2 = { s.sp2 with xfer := none } ∧ t =
    { s with regs := t.regs, sp2 := t.sp2 } ∧ ∀ a, a ≠ Reg.SP2_STAT → rd t a = rd s a) ∧
  (∀ (s : State) (x : S2Xfer) (c : Nat) (b : State), s.sp2.role = 1 → s.is .SP2_CFG_MM_EN = true → s.sp2.xfer = some x → x.ctx = some c → b = (sp2Show
    ((s.set1 .SP2_STAT_MODF).modSp2 (fun p => { p with xfer := none }))).modCtx c (fun y =>
    { y with evOff := true, offAt := if y.evOff then y.offAt else clk s }) → exec .s2Modf s = .next ((if (s.ctx c).wait = .s2 then ctxResume c (s.ctx
    c).pc b else b))) ∧
  (∀ (s : State), s.sp2.role = 1 → s.is .SP2_CFG_MM_EN = true → s.sp2.xfer = none → exec .s2Modf s = .next (s.set1 .SP2_STAT_MODF)) ∧
  (∀ (s : State), s.sp2.role ≠ 1 ∨ s.is .SP2_CFG_MM_EN = false → exec .s2Modf s = .next s) ∧
  (∀ (s : State) (r : Req) (cnt : Fin 32), Admitted s r Reg.SP2_SLV_CMD Msk.SP2_SLV_CMD → exec (.s2SlavePost r cnt) s = .next (s.modSp2 (fun p =>
    { p with post := some ((List.range (cnt + 1)).map (fun i => wd ((rd s (Reg.SP2_SLV_TX i)).toNat % 2 ^ s2Bits s))) }))) ∧
  (∀ (s : State) (l : List Word), s.sp2.role = 2 → s.sp2.slave = none → s.sp2.post = some l → exec .s2SlaveFrameStart s = .next (s.modSp2 (fun p =>
    { p with post := none, slave := some ⟨now s, l, false⟩ }))) ∧
  (∀ (s : State), s.sp2.role = 2 → s.sp2.slave = none → s.sp2.post = none → exec .s2SlaveFrameStart s = .next ((s.set1 .SP2_STAT_UNDERRUN).modSp2 (fun p
    => { p with slave := some ⟨now s, [], true⟩ }))) ∧
  (∀ (s : State), s.sp2.role ≠ 2 ∨ s.sp2.slave ≠ none → exec .s2SlaveFrameStart s = .next s) ∧
  (∀ (s : State) (f : S2Slave) (rx : List Word) (frag : Bool) (b : State), s.sp2.slave = some f → slvQ s = false → slvC s = false → b = (if frag then
    s.set1 .SP2_STAT_FRAG else s).modSp2 (fun p =>
    { p with slave := none, last := if rx = [] then s.sp2.last else slaveSlot s f (rx.length - 1), sent := (List.range rx.length).map (slaveSlot s f) }) →
    exec (.s2SlaveFrameEnd rx frag) s = .next (b)) ∧
  (∀ (s : State) (f : S2Slave) (rx : List Word) (frag : Bool) (b : State) (l : List Byte), s.sp2.slave = some f → slvQ s = true → b = (if frag then
    s.set1 .SP2_STAT_FRAG else s).modSp2 (fun p =>
    { p with slave := none, last := if rx = [] then s.sp2.last else slaveSlot s f (rx.length - 1), sent := (List.range rx.length).map (slaveSlot s f) }) →
    l = rxBytesOf (wordBytes s) (rx.map (fun w => wd (w.toNat % 2 ^ s2Bits s))) → exec (.s2SlaveFrameEnd rx frag) s = .next (qPushVar (s.get .SP2_SLV_Q)
    .active (varEntry l.length (mk [(4, 8), (b2n frag, 7), (b2n f.under, 6), (b2n (decide (rx.length < f.reply.length)), 5)]) (wd f.stamp) (packWords l))
    b)) ∧
  (∀ (s : State) (f : S2Slave) (rx : List Word) (frag : Bool) (b : State) (l : List Byte), s.sp2.slave = some f → slvQ s = false → slvC s = true → b =
    (if frag then s.set1 .SP2_STAT_FRAG else s).modSp2 (fun p =>
    { p with slave := none, last := if rx = [] then s.sp2.last else slaveSlot s f (rx.length - 1), sent := (List.range rx.length).map (slaveSlot s f) }) →
    l = rxBytesOf (wordBytes s) (rx.map (fun w => wd (w.toNat % 2 ^ s2Bits s))) → exec (.s2SlaveFrameEnd rx frag) s = .next (ctxFrame (s.get .SP2_SLV_CTX)
    (s2Frame l f.stamp) b)) ∧
  (∀ (s : State) (rx : List Word) (frag : Bool), s.sp2.slave = none → exec (.s2SlaveFrameEnd rx frag) s = .next s) ∧
  (∀ (s : State), s.sp2.xfer = none → s.sp2.slave = none → exec .s2RoleChange s = .next (s.modSp2 (fun p => { p with role := s.get .SP2_CFG_ROLE }))) ∧
  (∀ (s : State), s.sp2.xfer ≠ none ∨ s.sp2.slave ≠ none → exec .s2RoleChange s = .next s)

/-- Links of the ring (R446 to R462). Each command begins with nothing sent (`ringStart`); `sendBoth` and `sendOn` put a frame into what the command
sent, where the port carries frames. Times are counted in clock edges (assumption log 6), the grid of RETRAIN in TU_NOW. -/
def Obligations.RingLinks : Prop :=
  (∀ (s : State), s.csn.listen = true → s.csn.phaseAt + 2 * tickMs ≤ clk s → ∃ t, exec (.joinListenExpiry false) s = .next t ∧ t.csn.closed = false ∧
    t.csn.listen = false ∧ t.csn.relock = false ∧ t.get .CSN_STAT_STATE = csTraining ∧ t.get .CSN_STAT_ADDR = (if isHead s then 0 else 0xFF) ∧ t.get
    .CSN_STAT_ERR = 0 ∧ t.get (.CSN_LK_STAT_STEP 0) = 1 ∧ t.get (.CSN_LK_STAT_STEP 1) = 1 ∧ linkUpR t 0 = false ∧ linkUpR t 1 = false ∧ t.csn.sent = [] ∧
    t = { s with regs := t.regs, csn := t.csn } ∧ ∀ a, a ≠ Reg.CSN_STAT → a ≠ Reg.CSN_HOPS → a ≠ Reg.CSN_LK_STAT 0 → a ≠ Reg.CSN_LK_STAT 1 → rd t a = rd s
    a) ∧
  (∀ (s : State), s.csn.listen = true → s.csn.phaseAt + 2 * tickMs ≤ clk s → exec (.joinListenExpiry true) s = .next (csState csJoinWait ((ringStart
    s).modCsn (fun c => { c with listen := false })))) ∧
  (∀ (s : State) (h : Bool), s.csn.listen = false ∨ clk s < s.csn.phaseAt + 2 * tickMs → exec (.joinListenExpiry h) s = .next (ringStart s)) ∧
  (∀ (s : State) (ep : BitVec 16), ringBarred s = false → s.csn.relock = true ∨ (s.get .CSN_STAT_STATE = csJoinWait ∧ s.get .CSN_EPOCH_EPOCH ≠ 0 ∧ s.get
    .CSN_STAT_ADDR ≠ 0xFF) → s.get .CSN_EPOCH_EPOCH = ep.toNat → ∃ t, exec (.ringRelock ep) s = .next t ∧ t.csn.closed = false ∧ t.csn.relock = false ∧
    t.get .CSN_STAT_STATE = csRunning ∧ t.get .CSN_STAT_ERR = 0 ∧ (List.range 2).all (fun x => (s.get (.CSN_LK_STAT_GEN x) == 0 || linkUpR t x) &&
    (!linkUpR t x || (t.link x).meas == some [])) = true ∧ t = { s with regs := t.regs, csn := t.csn } ∧ ∀ a, a ≠ Reg.CSN_STAT → a ≠ Reg.CSN_LK_STAT 0 → a
    ≠ Reg.CSN_LK_STAT 1 → rd t a = rd s a) ∧
  (∀ (s : State) (ep : BitVec 16), ringBarred s = false → s.csn.relock = true → s.get .CSN_EPOCH_EPOCH ≠ ep.toNat → exec (.ringRelock ep) s = .next
    (csState csJoinWait (((ringStart s).put .CSN_STAT_ERR 4).modCsn (fun c => { c with relock := false })))) ∧
  (∀ (s : State) (ep : BitVec 16), ringBarred s = true ∨ (s.csn.relock = false ∧ (s.get .CSN_STAT_STATE ≠ csJoinWait ∨ s.get .CSN_EPOCH_EPOCH ≠
    ep.toNat)) → exec (.ringRelock ep) s = .next (ringStart s)) ∧
  (∀ (s : State), s.csn.relock = true → s.csn.phaseAt + tickMs ≤ clk s → exec .relockTimeout s = .next (ringClose csJoinWait ((ringStart s).put
    .CSN_STAT_ERR 4))) ∧
  (∀ (s : State), s.csn.relock = false ∨ clk s < s.csn.phaseAt + tickMs → exec .relockTimeout s = .next (ringStart s)) ∧
  (∀ (s : State) (x : Fin 2), s.csn.closed = false → linkUpR s x = false → s.get (.CSN_LK_STAT_STEP x) = 0 → (s.link x).at_ + 100 * tickMs ≤ clk s →
    exec (.linkTrainStart x) s = .next (trainLink x (ringStart s))) ∧
  (∀ (s : State) (x : Fin 2), s.csn.closed = true ∨ linkUpR s x = true ∨ s.get (.CSN_LK_STAT_STEP x) ≠ 0 ∨ clk s < (s.link x).at_ + 100 * tickMs → exec
    (.linkTrainStart x) s = .next (ringStart s)) ∧
  (∀ (s : State) (x : Fin 2) (v : Nat) (rt : List Nat), s.csn.closed = false → s.get (.CSN_LK_STAT_STEP x) = 1 → exec (.linkTrainStepDone x v rt) s =
    .next ((((ringStart s).put (.CSN_LK_STAT_NOPART x) 0).put (.CSN_LK_STAT_STEP x) 2).modLink x (fun l => { l with tries := 0, at_ := clk s }))) ∧
  (∀ (s : State) (x : Fin 2) (v : Nat) (rt : List Nat), s.csn.closed = false → s.get (.CSN_LK_STAT_STEP x) = 2 → exec (.linkTrainStepDone x v rt) s =
    .next ((((ringStart s).put (.CSN_LK_STAT_INV x) (v % 2)).put (.CSN_LK_STAT_STEP x) 3).modLink x (fun l => { l with tries := 0, at_ := clk s }))) ∧
  (∀ (s : State) (x : Fin 2) (v : Nat) (rt : List Nat), s.csn.closed = false → s.get (.CSN_LK_STAT_STEP x) = 3 → exec (.linkTrainStepDone x v rt) s =
    .next ((((ringStart s).put (.CSN_LK_STAT_GEN x) (max 1 (min v (genOffer s x)))).put (.CSN_LK_STAT_STEP x) 4).modLink x (fun l =>
    { l with tries := 0, at_ := clk s }))) ∧
  (∀ (s : State) (x : Fin 2) (v : Nat) (rt : List Nat), s.csn.closed = false → s.get (.CSN_LK_STAT_STEP x) = 4 → exec (.linkTrainStepDone x v rt) s =
    .next ((((ringStart s).put (.CSN_LK_STAT_PRESET x) (v % 8)).put (.CSN_LK_STAT_STEP x) 5).modLink x (fun l => { l with tries := 0, at_ := clk s }))) ∧
  (∀ (s : State) (x : Fin 2) (v : Nat) (rt : List Nat), s.csn.closed = false → s.get (.CSN_LK_STAT_STEP x) = 5 → rt.length = 16 → latTight rt = true → ∃
    t, exec (.linkTrainStepDone x v rt) s = .next t ∧ linkUpR t x = true ∧ t.get (.CSN_LK_STAT_STEP x) = 0 ∧ t.get (.CSN_LK_LAT_LAT x) = latMean rt % 2 ^
    ((FldRef.CSN_LK_LAT_LAT x).hi + 1 - (FldRef.CSN_LK_LAT_LAT x).lo) ∧ (t.link x).stray = (s.link x).failed ∧ (s.csn.fwd = false → t.csn.sent = []) ∧
    (s.tu.wantMeas = true → x.val = s.get .CSN_STAT_TIME_PORT → t.tu.wantMeas = false ∧ t.get .TU_STAT_STATE = 1) ∧ t =
    { s with regs := t.regs, csn := t.csn, tu := t.tu } ∧ ∀ a, a ≠ Reg.CSN_LK_STAT x → a ≠ Reg.CSN_LK_LAT x → a ≠ Reg.TU_STAT → rd t a = rd s a) ∧
  (∀ (s : State) (x : Fin 2) (v : Nat) (rt : List Nat), s.csn.closed = true ∨ s.get (.CSN_LK_STAT_STEP x) = 0 ∨ 5 < s.get (.CSN_LK_STAT_STEP x) ∨ (s.get
    (.CSN_LK_STAT_STEP x) = 5 ∧ (rt.length ≠ 16 ∨ latTight rt = false)) → exec (.linkTrainStepDone x v rt) s = .next (ringStart s)) ∧
  (∀ (s : State) (x : Fin 2), s.csn.closed = false → s.get (.CSN_LK_STAT_STEP x) = 1 → (s.link x).at_ + tryTicks 1 (s.link x).tries ≤ clk s → (s.link
    x).tries + 1 < 5 → exec (.linkTrainTimeout x) s = .next (tryLost x s)) ∧
  (∀ (s : State) (x : Fin 2), s.csn.closed = false → s.get (.CSN_LK_STAT_STEP x) = 1 → (s.link x).at_ + tryTicks 1 (s.link x).tries ≤ clk s → 5 ≤
    (s.link x).tries + 1 → ∃ t, exec (.linkTrainTimeout x) s = .next t ∧ t.is (.CSN_LK_STAT_NOPART x) = true ∧ t.get (.CSN_LK_STAT_STEP x) = 1 ∧ (t.link
    x).tries = (s.link x).tries + 1 ∧ t.csn.fwd = (s.csn.fwd && x.val != otherPort s.csn.up0) ∧ t = { s with regs := t.regs, csn := t.csn } ∧ ∀ a, a ≠
    Reg.CSN_LK_STAT x → a ≠ Reg.CSN_LK_FAIL x → rd t a = rd s a) ∧
  (∀ (s : State) (x : Fin 2), s.csn.closed = false → s.get (.CSN_LK_STAT_STEP x) = 2 → (s.link x).at_ + tryTicks 2 (s.link x).tries ≤ clk s → (s.link
    x).tries + 1 < 3 → exec (.linkTrainTimeout x) s = .next (tryLost x s)) ∧
  (∀ (s : State) (x : Fin 2), s.csn.closed = false → s.get (.CSN_LK_STAT_STEP x) = 2 → (s.link x).at_ + tryTicks 2 (s.link x).tries ≤ clk s → 3 ≤
    (s.link x).tries + 1 → exec (.linkTrainTimeout x) s = .next (trainLink x (tryLost x s))) ∧
  (∀ (s : State) (x : Fin 2), s.csn.closed = false → s.get (.CSN_LK_STAT_STEP x) = 3 → (s.link x).at_ + tryTicks 3 (s.link x).tries ≤ clk s → (s.link
    x).tries + 1 < 3 → exec (.linkTrainTimeout x) s = .next (tryLost x s)) ∧
  (∀ (s : State) (x : Fin 2), s.csn.closed = false → s.get (.CSN_LK_STAT_STEP x) = 3 → (s.link x).at_ + tryTicks 3 (s.link x).tries ≤ clk s → 3 ≤
    (s.link x).tries + 1 → exec (.linkTrainTimeout x) s = .next (trainLink x (tryLost x s))) ∧
  (∀ (s : State) (x : Fin 2), s.csn.closed = false → s.get (.CSN_LK_STAT_STEP x) = 5 → (s.link x).at_ + tryTicks 5 (s.link x).tries ≤ clk s → (s.link
    x).tries + 1 < 3 → exec (.linkTrainTimeout x) s = .next (tryLost x s)) ∧
  (∀ (s : State) (x : Fin 2), s.csn.closed = false → s.get (.CSN_LK_STAT_STEP x) = 4 → (s.link x).at_ + tryTicks 4 (s.link x).tries ≤ clk s → ∃ t, exec
    (.linkTrainTimeout x) s = .next t ∧ t.get (.CSN_LK_STAT_STEP x) = (if 1 < s.get (.CSN_LK_STAT_GEN x) then 3 else 0) ∧ (1 < s.get (.CSN_LK_STAT_GEN x)
    → (t.link x).cap = s.get (.CSN_LK_STAT_GEN x) - 1) ∧ (t.link x).tries = 0 ∧ linkUpR t x = false ∧ t.get (.CSN_LK_FAIL_FALLBACK x) = min (s.get
    (.CSN_LK_FAIL_FALLBACK x) + 1) 255 ∧ t.csn.sent = [] ∧ t = { s with regs := t.regs, csn := t.csn } ∧ ∀ a, a ≠ Reg.CSN_LK_STAT x → a ≠ Reg.CSN_LK_FAIL
    x → rd t a = rd s a) ∧
  (∀ (s : State) (x : Fin 2), s.csn.closed = false → s.get (.CSN_LK_STAT_STEP x) = 5 → (s.link x).at_ + tryTicks 5 (s.link x).tries ≤ clk s → 3 ≤
    (s.link x).tries + 1 → ∃ t, exec (.linkTrainTimeout x) s = .next t ∧ t.get (.CSN_LK_STAT_STEP x) = (if 1 < s.get (.CSN_LK_STAT_GEN x) then 3 else 0) ∧
    (1 < s.get (.CSN_LK_STAT_GEN x) → (t.link x).cap = s.get (.CSN_LK_STAT_GEN x) - 1) ∧ (t.link x).tries = 0 ∧ linkUpR t x = false ∧ t.get
    (.CSN_LK_FAIL_FALLBACK x) = min (s.get (.CSN_LK_FAIL_FALLBACK x) + 1) 255 ∧ t.csn.sent = [] ∧ t = { s with regs := t.regs, csn := t.csn } ∧ ∀ a, a ≠
    Reg.CSN_LK_STAT x → a ≠ Reg.CSN_LK_FAIL x → rd t a = rd s a) ∧
  (∀ (s : State) (x : Fin 2), s.csn.closed = false → s.get (.CSN_LK_STAT_STEP x) = 0 → (s.link x).at_ + tryTicks 0 (s.link x).tries ≤ clk s → (s.link
    x).meas ≠ none → (s.link x).tries + 1 < 3 → exec (.linkTrainTimeout x) s = .next (measure x (((ringStart s).inc (.CSN_LK_FAIL_TRIES x)).modLink x (fun
    k => { k with tries := (s.link x).tries + 1 })))) ∧
  (∀ (s : State) (x : Fin 2), s.csn.closed = false → s.get (.CSN_LK_STAT_STEP x) = 0 → (s.link x).at_ + tryTicks 0 (s.link x).tries ≤ clk s → (s.link
    x).meas ≠ none → 3 ≤ (s.link x).tries + 1 → ∃ t, exec (.linkTrainTimeout x) s = .next t ∧ t.get (.CSN_LK_STAT_STEP x) = (if 1 < s.get
    (.CSN_LK_STAT_GEN x) then 3 else 0) ∧ (1 < s.get (.CSN_LK_STAT_GEN x) → (t.link x).cap = s.get (.CSN_LK_STAT_GEN x) - 1) ∧ (t.link x).tries = 0 ∧
    linkUpR t x = false ∧ t.get (.CSN_LK_FAIL_FALLBACK x) = min (s.get (.CSN_LK_FAIL_FALLBACK x) + 1) 255 ∧ t.csn.sent = [] ∧ t =
    { s with regs := t.regs, csn := t.csn } ∧ ∀ a, a ≠ Reg.CSN_LK_STAT x → a ≠ Reg.CSN_LK_FAIL x → rd t a = rd s a) ∧
  (∀ (s : State) (x : Fin 2) (k : Nat), k = s.get (.CSN_LK_STAT_STEP x) → s.csn.closed = true ∨ (k = 0 ∧ (s.link x).meas = none) ∨ clk s < (s.link
    x).at_ + tryTicks k (s.link x).tries → exec (.linkTrainTimeout x) s = .next (ringStart s)) ∧
  (∀ (s : State) (x : Fin 2), s.csn.closed = false → linkUpR s x = true → ∃ t, exec (.receiverRelock x) s = .next t ∧ t.csn.sent = (List.range 16).map
    (fun i => (x.val, { ty := 0x0D, src := myAddr s, w1 := wd i, data := words64 (256 * now s) ++ words64 0 })) ∧ (t.link x).meas = some [] ∧ t =
    { s with csn := t.csn }) ∧
  (∀ (s : State) (x : Fin 2), s.csn.closed = true ∨ linkUpR s x = false → exec (.receiverRelock x) s = .next (ringStart s)) ∧
  (∀ (s : State) (x : Fin 2) (f : RFrame) (a : BitVec 64) (r : BitVec 32), s.csn.closed = false → linkUpR s x = true → f.ty = 0x0D → f.w2 = 0 → exec
    (.probe x f a r) s = .next (s.modCsn (fun c =>
    { c with sent := [(x.val, { f with src := myAddr s, w2 := r, data := f.data.take 2 ++ words64 a.toNat })] }))) ∧
  (∀ (s : State) (x : Fin 2) (f : RFrame) (a : BitVec 64) (r : BitVec 32) (l : List Nat), s.csn.closed = false → linkUpR s x = true → f.ty = 0x0D → f.w2
    ≠ 0 → (s.link x).meas = some l → l.length < 15 → exec (.probe x f a r) s = .next ((ringStart s).modLink x (fun k =>
    { k with meas := some (l ++ [(a.toNat - num64 f.data - f.w2.toNat)]) }))) ∧
  (∀ (s : State) (x : Fin 2) (f : RFrame) (a : BitVec 64) (r : BitVec 32) (l : List Nat), s.csn.closed = false → linkUpR s x = true → f.ty = 0x0D → f.w2
    ≠ 0 → (s.link x).meas = some l → 15 ≤ l.length → latTight (l ++ [(a.toNat - num64 f.data - f.w2.toNat)]) = true → ∃ t, exec (.probe x f a r) s = .next
    t ∧ t.get (.CSN_LK_LAT_LAT x) = latMean (l ++ [(a.toNat - num64 f.data - f.w2.toNat)]) % 2 ^ ((FldRef.CSN_LK_LAT_LAT x).hi + 1 -
    (FldRef.CSN_LK_LAT_LAT x).lo) ∧ t.csn = (((ringStart s).modLink x (fun k => { k with meas := none, tries := 0 })).csn) ∧ (s.tu.wantMeas = true → x.val
    = s.get .CSN_STAT_TIME_PORT → t.tu.wantMeas = false ∧ t.get .TU_STAT_STATE = 1) ∧ t = { s with regs := t.regs, csn := t.csn, tu := t.tu } ∧ ∀ a, a ≠
    Reg.CSN_LK_LAT x → a ≠ Reg.TU_STAT → rd t a = rd s a) ∧
  (∀ (s : State) (x : Fin 2) (f : RFrame) (a : BitVec 64) (r : BitVec 32) (l : List Nat), s.csn.closed = false → linkUpR s x = true → f.ty = 0x0D → f.w2
    ≠ 0 → (s.link x).meas = some l → 15 ≤ l.length → latTight (l ++ [(a.toNat - num64 f.data - f.w2.toNat)]) = false → exec (.probe x f a r) s = .next
    (measFail x (ringStart s))) ∧
  (∀ (s : State) (x : Fin 2) (f : RFrame) (a : BitVec 64) (r : BitVec 32), s.csn.closed = true ∨ linkUpR s x = false ∨ f.ty ≠ 0x0D ∨ (f.w2 ≠ 0 ∧ (s.link
    x).meas = none) → exec (.probe x f a r) s = .next (ringStart s)) ∧
  (∀ (s : State) (x : Fin 2) (f : RFrame), ringGets s x f 0x0E = true → exec (.remeasure x f) s = .next (measure x (forward x f (ringStart s)))) ∧
  (∀ (s : State) (x : Fin 2), exec (.pause x true) s = .next ((ringStart s).modLink x (fun l => { l with paused := linkUpR s x }))) ∧
  (∀ (s : State) (x : Fin 2), exec (.pause x false) s = .next ((((ringStart s).modLink x (fun l => { l with paused := false })).each (s.link x).held
    (sendOn x)).modLink x (fun l => { l with held := [] }))) ∧
  (∀ (s : State) (r : Req) (w : Word) (k : Nat) (f : RFrame), Admitted s r Reg.CSN_CMD Msk.CSN_CMD → bits w 3 0 = 1 → isHead s = true → k = (now s +
    245760 + 63) / 64 * 64 → f = headFrame s 0x0C 0 (epochW s) (words64 k) → exec (.retrain r w) s = .next (sendBoth f (sendBoth f (sendBoth f
    (retrainArmed k s))))) ∧
  (∀ (s : State) (r : Req) (w : Word), Admitted s r Reg.CSN_CMD Msk.CSN_CMD → 1 < bits w 3 0 ∨ (bits w 3 0 = 1 ∧ isHead s = false) → exec (.retrain r w)
    s = .next ((ringStart s).set1 .CSN_STAT_IGNORED)) ∧
  (∀ (s : State) (r : Req) (w : Word), Admitted s r Reg.CSN_CMD Msk.CSN_CMD → bits w 3 0 = 0 → exec (.retrain r w) s = .next (ringStart s)) ∧
  (∀ (s : State) (x : Fin 2) (f : RFrame), ringGets s x f 0x0C = true → isHead s = false → exec (.retrainFrame x f) s = .next (forward x f (retrainArmed
    (num64 f.data) s))) ∧
  (∀ (s : State) (x : Fin 2) (f : RFrame), s.csn.closed = true → s.get .CSN_STAT_STATE = csJoinWait → rframeOk f = true → f.ty = 0x0C → isHead s = false
    → exec (.retrainFrame x f) s = .next (retrainArmed (num64 f.data) s)) ∧
  (∀ (s : State) (x : Fin 2) (f : RFrame), carries s x = false → s.csn.closed = false ∨ s.get .CSN_STAT_STATE ≠ csJoinWait ∨ rframeOk f = false ∨ f.ty ≠
    0x0C ∨ isHead s = true → exec (.retrainFrame x f) s = .next (ringStart s)) ∧
  (∀ (s : State) (k : Nat), s.csn.retrainAt = some k → k ≤ now s → ringBarred s = false → exec .retrainExecute s = .next (ringTrain (ringStart s))) ∧
  (∀ (s : State) (k : Nat), s.csn.retrainAt = some k → k ≤ now s → ringBarred s = true → exec .retrainExecute s = .next (ringClose csOff ((ringStart
    s).modCsn (fun c => { c with retrainAt := none })))) ∧
  (∀ (s : State) (k : Nat), s.csn.retrainAt = some k → now s < k → exec .retrainExecute s = .next (ringStart s)) ∧
  (∀ (s : State), s.csn.retrainAt = none → exec .retrainExecute s = .next (ringStart s)) ∧
  (∀ (s : State) (x : Fin 2) (cv : Bool), s.csn.closed = false → linkUpR s x = true → s.get .CSN_STAT_STATE < csEnum → exec (.linkDown x cv) s = .next
    (linkLost x cv s)) ∧
  (∀ (s : State) (x : Fin 2) (cv : Bool), s.csn.closed = false → linkUpR s x = true → ∃ t, exec (.linkDown x cv) s = .next t ∧ linkUpR t x = false ∧
    t.get (.CSN_LK_STAT_STEP x) = 1 ∧ t.get (.CSN_LK_ERR_DOWNS x) = min (s.get (.CSN_LK_ERR_DOWNS x) + 1) 255 ∧ (t.link x).failed = ((s.link x).failed ||
    decide (csEnum ≤ s.get .CSN_STAT_STATE)) ∧ t = { queuedFrom s t with csn := t.csn } ∧ ∀ a, queueReg a = false → a ≠ Reg.CSN_STAT → a ≠ Reg.CSN_HOPS →
    a ≠ Reg.CSN_LK_STAT x → a ≠ Reg.CSN_LK_ERR x → rd t a = rd s a) ∧
  (∀ (s : State) (x : Fin 2) (cv : Bool), s.csn.closed = false → linkUpR s x = true → csEnum ≤ s.get .CSN_STAT_STATE → isHead s = true → exec (.linkDown
    x cv) s = .next (sendReroute 0 (farAddr s x) (sendAlarm 2 (wd (256 * x.val + farAddr s x)) (linkLost x cv s)))) ∧
  (∀ (s : State) (x : Fin 2) (cv : Bool), s.csn.closed = false → linkUpR s x = true → csEnum ≤ s.get .CSN_STAT_STATE → isHead s = false → s.is
    .CSN_STAT_RING = true ∧ x.val = upPort s ∧ carries s (otherPort x) = true → exec (.linkDown x cv) s = .next (sendAlarm 2 (wd (256 * x.val + farAddr s
    x)) (switchUp (linkLost x cv s)))) ∧
  (∀ (s : State) (x : Fin 2) (cv : Bool), s.csn.closed = false → linkUpR s x = true → csEnum ≤ s.get .CSN_STAT_STATE → isHead s = false → s.is
    .CSN_STAT_RING = false ∨ x.val ≠ upPort s ∨ carries s (otherPort x) = false → exec (.linkDown x cv) s = .next (sendAlarm 2 (wd (256 * x.val + farAddr
    s x)) (linkLost x cv s))) ∧
  (∀ (s : State) (x : Fin 2) (cv : Bool), s.csn.closed = true ∨ linkUpR s x = false → exec (.linkDown x cv) s = .next (ringStart s)) ∧
  (∀ (s : State) (x : Fin 2) (ep : BitVec 16), s.csn.closed = false → linkUpR s x = true → (s.link x).failed = true → isHead s = true → ep.toNat = s.get
    .CSN_EPOCH_EPOCH → exec (.linkUp x ep) s = .next (sendReroute 0xFF 0xFF (sendAlarm 3 (wd (256 * x.val + farAddr s x)) ((ringStart s).modLink x (fun l
    => { l with failed := false, stray := false }))))) ∧
  (∀ (s : State) (x : Fin 2) (ep : BitVec 16), s.csn.closed = false → linkUpR s x = true → (s.link x).failed = true → isHead s = true → ep.toNat ≠ s.get
    .CSN_EPOCH_EPOCH → exec (.linkUp x ep) s = .next (sendAlarm 3 (wd (256 * x.val + farAddr s x)) ((ringStart s).modLink x (fun l =>
    { l with failed := true, stray := true })))) ∧
  (∀ (s : State) (x : Fin 2) (ep : BitVec 16) (e : Bool), s.csn.closed = false → linkUpR s x = true → (s.link x).failed = true → isHead s = false → e =
    (ep.toNat != s.get .CSN_EPOCH_EPOCH) → exec (.linkUp x ep) s = .next (sendUp (memberFrame s 0x07 (if e then 8 else 0) 0x03000000 (wd (256 * x.val +
    farAddr s x)) (words64 (now s))) ((ringStart s).modLink x (fun l => { l with failed := e, stray := e })))) ∧
  (∀ (s : State) (x : Fin 2) (ep : BitVec 16), s.csn.closed = true ∨ linkUpR s x = false ∨ (s.link x).failed = false → exec (.linkUp x ep) s = .next
    (ringStart s))

/-- Frames of the ring (R442, R443, R454 to R462, R277 to R284). `ringGets` says that a sound frame of a TYPE came in at a port that carries frames;
`forward` sends it on by the port of R457. Periods and phases count clock edges (assumption log 6). The W2 of a TIME_FAIL alarm is a free value
(assumption log 4). -/
def Obligations.RingEnumeration : Prop :=
  (∀ (s : State) (x : Fin 2) (f : RFrame) (fr : Byte) (d : BitVec 32) (i : Instr), i ∈ ringRows x f fr d → carries s x = false → exec i s = .next
    (ringStart s)) ∧
  (∀ (s : State) (x : Fin 2) (f : RFrame) (fr : Byte) (d : BitVec 32) (i : Instr), i ∈ ringRows x f fr d → carries s x = true → rframeOk f = false →
    exec i s = .next ((ringStart s).inc (.CSN_LK_ERR_CRC x))) ∧
  (∀ (s : State) (x : Fin 2) (f : RFrame) (fr : Byte) (d : BitVec 32) (i : Instr), i ∈ ringRows x f fr d → carries s x = true → rframeOk f = true →
    f.ty.toNat ≠ ringType i → exec i s = .next (ringStart s)) ∧
  (∀ (s : State) (p : Nat), isHead s = true → s.csn.closed = false → s.get .CSN_STAT_STATE = csTraining → linkSettled s 0 = true → linkSettled s 1 =
    true → s.csn.phaseAt + s.get .CSN_CFG_ENUM_DELAY * tickMs ≤ clk s → p = (if enumPort s 1 then 1 else 0) → enumPort s p = true → ∃ t, exec .enumStart s
    = .next t ∧ t.get .CSN_STAT_STATE = csEnum ∧ t.get .CSN_EPOCH_EPOCH = (s.get .CSN_EPOCH_EPOCH + 1) % 2 ^ 16 ∧ t.csn =
    { s.csn with n2 := 0, count := 0, cut := none, side := p, phaseAt := clk s, sent := [(p, headFrame t 0x08 0 (epochW t) [])] } ∧ t.get .CSN_STAT_N = 0
    ∧ t.is .CSN_STAT_RING = false ∧ t.get .CSN_STAT_ADDR = 0 ∧ (List.range 251).all (fun m => t.is (.CSN_ROS_STAT_PRESENT m) == (m == 0)) = true ∧ rd t
    (Reg.CSN_ROS_ID 0) = rd s Reg.MOD_ID ∧ t = { s with regs := t.regs, csn := t.csn } ∧ ∀ a, a ≠ Reg.CSN_STAT → a ≠ Reg.CSN_EPOCH → ¬ (Reg.CSN_ROS_SER 0
    0 ≤ a ∧ a < Reg.CSN_ROS_SER 251 0) → rd t a = rd s a) ∧
  (∀ (s : State), isHead s = false ∨ s.csn.closed = true ∨ s.get .CSN_STAT_STATE ≠ csTraining ∨ linkSettled s 0 = false ∨ linkSettled s 1 = false ∨
    (enumPort s 0 = false ∧ enumPort s 1 = false) ∨ clk s < s.csn.phaseAt + s.get .CSN_CFG_ENUM_DELAY * tickMs → exec .enumStart s = .next (ringStart s)) ∧
  (∀ (s : State) (x : Fin 2) (f : RFrame) (m y : Nat) (l : Bool), ringGets s x f 0x08 = true → isHead s = false → s.get .CSN_STAT_ADDR = 0xFF → m =
    f.w1.toNat % 256 + 1 → m ≤ 250 → y = otherPort x → l = (s.is (.CSN_LK_STAT_NOPART y) && !linkUpR s y) → ∃ t, exec (.enum x f) s = .next t ∧ t.get
    .CSN_STAT_ADDR = m ∧ t.get .CSN_STAT_UP_PORT = x ∧ t.get .CSN_STAT_TIME_PORT = x ∧ t.get .CSN_EPOCH_EPOCH = f.w2.toNat % 65536 ∧ t.get .CSN_STAT_STATE
    = csEnum ∧ rd t Reg.CSN_HOPS = rd (putHops y 0xFF (putHops x m s)) Reg.CSN_HOPS ∧ t.csn.far = f.src.toNat ∧ t.csn.fwd = (!l && !carries s y) ∧
    t.csn.sent = (x.val,
    { ty := 0x09, flags := if l then 4 else 0, dst := 0, src := BitVec.ofNat 8 m, w1 := wd (m + 256 * s.get (.CSN_LK_STAT_GEN x)), w2 := rd s (Reg.CSN_LK_LAT x), data := serialWords s ++ [rd s Reg.MOD_ID] })
    :: (if !l && carries s y then [(y, { ty := 0x08, flags := 1, dst := 255, src := BitVec.ofNat 8 m, w1 := wd m, w2 := wd (f.w2.toNat % 65536) })] else
    []) ∧ t = { s with regs := t.regs, csn := t.csn } ∧ ∀ a, a ≠ Reg.CSN_STAT → a ≠ Reg.CSN_EPOCH → a ≠ Reg.CSN_HOPS → rd t a = rd s a) ∧
  (∀ (s : State) (x : Fin 2) (f : RFrame), ringGets s x f 0x08 = true → isHead s = false → s.get .CSN_STAT_ADDR = 0xFF → f.w1.toNat % 256 = 250 → exec
    (.enum x f) s = .next (ringClose csJoinWait ((ringStart s).put .CSN_STAT_ERR 2))) ∧
  (∀ (s : State) (x : Fin 2) (f : RFrame), ringGets s x f 0x08 = true → isHead s = false → s.get .CSN_STAT_ADDR ≠ 0xFF → exec (.enum x f) s = .next
    (ringStart s)) ∧
  (∀ (s : State) (f : RFrame) (n : Nat), ringGets s 0 f 0x08 = true → enumRuns s = true → s.csn.side = 1 → sameEpoch s f = true → n = f.w1.toNat % 256 →
    ∃ t, exec (.enum 0 f) s = .next t ∧ t.get .CSN_STAT_N = n ∧ t.is .CSN_STAT_RING = true ∧ t.get .CSN_STAT_STATE = csTimeLock ∧ t.csn.n2 = n ∧
    t.csn.sent = (0, headFrame s 0x0A (wd (n + 256)) (epochW s) []) :: (if carries s 1 then [(1, headFrame s 0x0A (wd (n + 256)) (epochW s) [])] else [])
    ∧ t = { s with regs := t.regs, csn := t.csn } ∧ ∀ a, a ≠ Reg.CSN_STAT → rd t a = rd s a) ∧
  (∀ (s : State) (x : Fin 2) (f : RFrame), ringGets s x f 0x08 = true → isHead s = true → enumRuns s = false ∨ s.csn.side ≠ 1 ∨ x ≠ 0 ∨ sameEpoch s f =
    false → exec (.enum x f) s = .next (((ringStart s).put .CSN_STAT_ERR 1).modLink x (fun l => { l with noEnum := true }))) ∧
  (∀ (s : State) (x : Fin 2) (f : RFrame) (m : Nat), ringGets s x f 0x09 = true → isHead s = true → csEnum ≤ s.get .CSN_STAT_STATE → m = f.w1.toNat %
    256 → ∃ t, exec (.roster x f) s = .next t ∧ t.is (.CSN_ROS_STAT_PRESENT m) = true ∧ t.is (.CSN_ROS_STAT_LAST m) = bitAt (wd f.flags.toNat) 2 ∧ rd t
    (Reg.CSN_ROS_LAT m) = f.w2 ∧ rd t (Reg.CSN_ROS_ID m) = f.data.getD 4 0 ∧ (List.range 4).all (fun k => rd t (Reg.CSN_ROS_SER m k) == f.data.getD k 0) =
    true ∧ t = { s with regs := t.regs, csn := t.csn } ∧ ∀ a, a ≠ Reg.CSN_STAT → ¬ (Reg.CSN_ROS_SER m 0 ≤ a ∧ a < Reg.CSN_ROS_SER (m + 1) 0) → rd t a = rd
    s a) ∧
  (∀ (s : State) (x : Fin 2) (f : RFrame) (m : Nat) (b : State), ringGets s x f 0x09 = true → isHead s = true → enumRuns s = true → bitAt (wd
    f.flags.toNat) 2 = false → m = f.w1.toNat % 256 → b = rosterPut m (f.data.take 4) (f.data.getD 4 0) (bitAt (wd f.flags.toNat) 2) (bits f.w1 9 8) f.w2
    (ringStart s) → exec (.roster x f) s = .next ((phaseBegin b).modCsn (fun c => { c with count := max c.count m }))) ∧
  (∀ (s : State) (x : Fin 2) (f : RFrame) (m : Nat) (b : State), ringGets s x f 0x09 = true → isHead s = true → enumRuns s = true → bitAt (wd
    f.flags.toNat) 2 = true → m = f.w1.toNat % 256 → b = rosterPut m (f.data.take 4) (f.data.getD 4 0) (bitAt (wd f.flags.toNat) 2) (bits f.w1 9 8) f.w2
    (ringStart s) → exec (.roster x f) s = .next (sideEnd ((phaseBegin b).modCsn (fun c => { c with count := max c.count m })))) ∧
  (∀ (s : State) (x : Fin 2) (f : RFrame) (m : Nat) (b : State), ringGets s x f 0x09 = true → isHead s = true → csEnum < s.get .CSN_STAT_STATE → m =
    f.w1.toNat % 256 → b = rosterPut m (f.data.take 4) (f.data.getD 4 0) (bitAt (wd f.flags.toNat) 2) (bits f.w1 9 8) f.w2 (ringStart s) → exec (.roster x
    f) s = .next (b)) ∧
  (∀ (s : State) (x : Fin 2) (f : RFrame), ringGets s x f 0x09 = true → isHead s = true → s.get .CSN_STAT_STATE < csEnum → exec (.roster x f) s = .next
    (ringStart s)) ∧
  (∀ (s : State) (x : Fin 2) (f : RFrame), ringGets s x f 0x09 = true → isHead s = false → exec (.roster x f) s = .next (forward x f (ringStart s))) ∧
  (∀ (s : State), enumRuns s = true → s.csn.phaseAt + 2 * tickMs ≤ clk s → s.csn.side = 1 → enumPort s 0 = true → exec .enumTimeout s = .next (s.modCsn
    (fun c => { c with n2 := c.count, side := 0, phaseAt := clk s, sent := [(0, headFrame s 0x08 (wd c.count) (epochW s) [])] }))) ∧
  (∀ (s : State), enumRuns s = true → s.csn.phaseAt + 2 * tickMs ≤ clk s → s.csn.side ≠ 1 ∨ enumPort s 0 = false → ∃ t, exec .enumTimeout s = .next t ∧
    t.get .CSN_STAT_N = s.csn.count % 256 ∧ t.is .CSN_STAT_RING = false ∧ t.get .CSN_STAT_STATE = csTimeLock ∧ t.csn.phaseAt = clk s ∧ t.csn.sent = (if
    carries s 0 then [(0, headFrame s 0x0A (wd s.csn.count) (epochW s) [])] else []) ++ (if carries s 1 then [(1, headFrame s 0x0A (wd s.csn.count)
    (epochW s) [])] else []) ∧ t = { s with regs := t.regs, csn := t.csn } ∧ ∀ a, a ≠ Reg.CSN_STAT → rd t a = rd s a) ∧
  (∀ (s : State), enumRuns s = false ∨ clk s < s.csn.phaseAt + 2 * tickMs → exec .enumTimeout s = .next (ringStart s)) ∧
  (∀ (s : State) (x : Fin 2) (f : RFrame), ringGets s x f 0x0A = true → isHead s = false → sameEpoch s f = true → s.get .CSN_STAT_STATE = csEnum → ∃ t,
    exec (.enumDone x f) s = .next t ∧ t.get .CSN_STAT_N = f.w1.toNat % 256 ∧ t.is .CSN_STAT_RING = bitAt f.w1 8 ∧ t.get .CSN_STAT_STATE = (if s.get
    .TU_SRC_SRC = 2 ∧ s.get .TU_STAT_STATE ≠ 2 then csTimeLock else csRunning) ∧ t.csn.phaseAt = clk s ∧ t.csn.sent = (forward x f (ringStart s)).csn.sent
    ∧ t = { s with regs := t.regs, csn := t.csn } ∧ ∀ a, a ≠ Reg.CSN_STAT → a ≠ Reg.CSN_HOPS → rd t a = rd s a) ∧
  (∀ (s : State) (x : Fin 2) (f : RFrame), ringGets s x f 0x0A = true → isHead s = false → sameEpoch s f = true → s.get .CSN_STAT_STATE = csEnum → exec
    (.enumDone x f) s = .next (forward x f (enumDone f (ringStart s)))) ∧
  (∀ (s : State) (x : Fin 2) (f : RFrame), ringGets s x f 0x0A = true → isHead s = false → sameEpoch s f = false ∨ s.get .CSN_STAT_STATE ≠ csEnum → exec
    (.enumDone x f) s = .next (forward x f (ringStart s))) ∧
  (∀ (s : State) (x : Fin 2) (f : RFrame), ringGets s x f 0x0A = true → isHead s = true → exec (.enumDone x f) s = .next (ringStart s)) ∧
  (∀ (s : State) (x : Fin 2) (f : RFrame), ringGets s x f 0x0B = true → isHead s = true → exec (.reroute x f) s = .next (ringStart s)) ∧
  (∀ (s : State) (x : Fin 2) (f : RFrame) (fr : Byte) (d : BitVec 32), ringGets s x f 0x03 = true → isHead s = true → exec (.ringTimeFrame x f fr d) s =
    .next (ringStart s)) ∧
  (∀ (s : State) (x : Fin 2) (f : RFrame), ringGets s x f 0x0B = true → isHead s = false → sameEpoch s f = true → s.get .CSN_STAT_ADDR ≠ 0xFF →
    f.w1.toNat % 65536 = 0xFFFF → s.csn.up0 < 2 → s.csn.time0 < 2 → ∃ t, exec (.reroute x f) s = .next t ∧ t.get .CSN_STAT_UP_PORT = s.csn.up0 ∧ t.get
    .CSN_STAT_TIME_PORT = s.csn.time0 ∧ t.is .CSN_STAT_HEALED = false ∧ rd t Reg.CSN_HOPS = rd (putHops (otherPort s.csn.up0) (hopsOther s) (putHops
    s.csn.up0 (s.get .CSN_STAT_ADDR) s)) Reg.CSN_HOPS ∧ t = { s with regs := t.regs, csn := t.csn } ∧ ∀ a, a ≠ Reg.CSN_STAT → a ≠ Reg.CSN_HOPS → rd t a =
    rd s a) ∧
  (∀ (s : State) (x : Fin 2) (f : RFrame) (k : Nat), ringGets s x f 0x0B = true → isHead s = false → sameEpoch s f = true → s.get .CSN_STAT_ADDR ≠ 0xFF
    → f.w1.toNat % 65536 ≠ 0xFFFF → hopIx (s.get .CSN_STAT_N) (bits f.w1 15 8) (bits f.w1 7 0) = some k → s.is .CSN_STAT_RING = true → crosses s k = true
    → carries s (otherPort (upPort s)) = true → exec (.reroute x f) s = .next (forward x f (switchUp (ringStart s)))) ∧
  (∀ (s : State) (x : Fin 2) (f : RFrame) (k : Nat), ringGets s x f 0x0B = true → isHead s = false → sameEpoch s f = true → s.get .CSN_STAT_ADDR ≠ 0xFF
    → f.w1.toNat % 65536 ≠ 0xFFFF → hopIx (s.get .CSN_STAT_N) (bits f.w1 15 8) (bits f.w1 7 0) = some k → s.is .CSN_STAT_RING = false ∨ crosses s k =
    false ∨ carries s (otherPort (upPort s)) = false → exec (.reroute x f) s = .next (forward x f (ringStart s))) ∧
  (∀ (s : State) (x : Fin 2) (f : RFrame), ringGets s x f 0x0B = true → isHead s = false → sameEpoch s f = false ∨ s.get .CSN_STAT_ADDR = 0xFF ∨
    (f.w1.toNat % 65536 ≠ 0xFFFF ∧ hopIx (s.get .CSN_STAT_N) (bits f.w1 15 8) (bits f.w1 7 0) = none) → exec (.reroute x f) s = .next (forward x f
    (ringStart s))) ∧
  (∀ (s : State), isHead s = true → s.get .CSN_STAT_STATE = csTimeLock → s.csn.phaseAt + 200 * tickMs ≤ clk s → exec .timeLockTimeout s = .next (csState
    csRunning (ringStart s))) ∧
  (∀ (s : State), isHead s = false → s.get .CSN_STAT_STATE = csTimeLock → s.csn.phaseAt + 200 * tickMs ≤ clk s → exec .timeLockTimeout s = .next
    (sendAlarm 4 (freeNow s) (csState csRunning (((ringStart s).put .CSN_STAT_ERR 3).useFree)))) ∧
  (∀ (s : State), s.get .CSN_STAT_STATE ≠ csTimeLock ∨ clk s < s.csn.phaseAt + 200 * tickMs → exec .timeLockTimeout s = .next (ringStart s)) ∧
  (∀ (s : State) (x : Fin 2) (f : RFrame), carries s x = true → rframeOk f = true → f.dst ≠ myAddr s → f.dst ≠ 255 → f.ty ≠ 0x0D → f.ty ≠ 0x0E → exec
    (.ringFrameForward x f true) s = .next (forward x f (ringStart s))) ∧
  (∀ (s : State) (x : Fin 2) (f : RFrame) (ok : Bool), carries s x = true → ok = false ∨ rframeOk f = false → exec (.ringFrameForward x f ok) s = .next
    ((ringStart s).inc (.CSN_LK_ERR_CRC x))) ∧
  (∀ (s : State) (x : Fin 2) (f : RFrame) (ok : Bool), carries s x = false ∨ (ok = true ∧ rframeOk f = true ∧ (f.dst = myAddr s ∨ f.dst = 255 ∨ f.ty =
    0x0D ∨ f.ty = 0x0E)) → exec (.ringFrameForward x f ok) s = .next (ringStart s)) ∧
  (∀ (s : State) (f : RFrame), isHead s = true → tfDue s = true → f = headFrame s 0x03 (wd s.csn.tfNo) (epochW s) (words64 (now s) ++ words64 0) → exec
    .ringTimeFrameSend s = .next (sendBoth f ((s.modCsn (fun c => { c with sent := [], tfNo := (c.tfNo + 1) % 2 ^ 32 })).modTu (fun u =>
    { u with tfAt := some (clk s) })))) ∧
  (∀ (s : State), isHead s = false ∨ tfDue s = false → exec .ringTimeFrameSend s = .next (ringStart s)) ∧
  (∀ (s : State) (x : Fin 2) (f : RFrame) (fr : Byte) (d : BitVec 32) (b : State), ringGets s x f 0x03 = true → isHead s = false → x.val ≠ s.get
    .CSN_STAT_TIME_PORT ∨ s.get .TU_STAT_SRC_EFF ≠ 2 ∨ servoRuns s = false ∨ sameEpoch s f = false → b = forward x (timeOnward x f d.toNat s) (ringStart
    s) → exec (.ringTimeFrame x f fr d) s = .next (b)) ∧
  (∀ (s : State) (x : Fin 2) (f : RFrame) (fr : Byte) (d : BitVec 32) (b k : State), ringGets s x f 0x03 = true → isHead s = false → x.val = s.get
    .CSN_STAT_TIME_PORT → s.get .TU_STAT_SRC_EFF = 2 → servoRuns s = true → sameEpoch s f = true → b = forward x (timeOnward x f d.toNat s) (ringStart s)
    → k = ringSample (((now s : Int) - num64 f.data) * 256 + fr.toNat - (num64 (f.data.drop 2) + s.get (.CSN_LK_LAT_LAT x) : Nat)) (num64 f.data) b →
    k.tu.wantMeas = s.tu.wantMeas → exec (.ringTimeFrame x f fr d) s = .next ((if k.get .TU_STAT_STATE = 2 then timeLockEnd k else k))) ∧
  (∀ (s : State) (x : Fin 2) (f : RFrame) (fr : Byte) (d : BitVec 32) (b k : State), ringGets s x f 0x03 = true → isHead s = false → x.val = s.get
    .CSN_STAT_TIME_PORT → s.get .TU_STAT_SRC_EFF = 2 → servoRuns s = true → sameEpoch s f = true → b = forward x (timeOnward x f d.toNat s) (ringStart s)
    → k = ringSample (((now s : Int) - num64 f.data) * 256 + fr.toNat - (num64 (f.data.drop 2) + s.get (.CSN_LK_LAT_LAT x) : Nat)) (num64 f.data) b →
    k.tu.wantMeas = true → s.tu.wantMeas = false → exec (.ringTimeFrame x f fr d) s = .next (measure x (sendOn x (memberFrame k 0x0E 0 (wd (s.get
    .CSN_STAT_ADDR)) 0 []) k))) ∧
  (∀ (s : State) (k : Token) (a i : Nat), copyDue s = some (k, a, i) → exec .tokenCopySend s = .next (sendBoth (headFrame s (if k.kind = 1 then 0x04
    else 0x05) (wd (k.id * 65536 + i % 4)) 0 (words64 k.tgt)) ((ringStart s).modTu (fun u =>
    { u with out := if i < s.get .TU_TOKEN_CFG_REP then s.tu.out.map (fun q => if q = (k, a, i) then (k, clk s + tickMs, i + 1) else q) else s.tu.out.erase (k, a, i) })))) ∧
  (∀ (s : State), copyDue s = none → exec .tokenCopySend s = .next (ringStart s)) ∧
  (∀ (s : State) (x : Fin 2) (f : RFrame) (k : Token), ringGets s x f f.ty.toNat = true → f.ty = 0x04 ∨ f.ty = 0x05 → isHead s = false → k =
    { kind := f.ty.toNat - 3, id := bits f.w1 31 16, tgt := num64 f.data } → k ∈ s.tu.seen → exec (.ringTokenReceive x f) s = .next (forward x f
    (ringStart s))) ∧
  (∀ (s : State) (x : Fin 2) (f : RFrame) (k : Token), ringGets s x f f.ty.toNat = true → f.ty = 0x04 ∨ f.ty = 0x05 → isHead s = false → k =
    { kind := f.ty.toNat - 3, id := bits f.w1 31 16, tgt := num64 f.data } → k ∉ s.tu.seen → s.get .TU_STAT_STATE = 2 ∨ s.get .TU_STAT_STATE = 3 → exec
    (.ringTokenReceive x f) s = .next (forward x f (tokenAct k (ringStart s)))) ∧
  (∀ (s : State) (x : Fin 2) (f : RFrame) (k : Token), ringGets s x f f.ty.toNat = true → f.ty = 0x04 ∨ f.ty = 0x05 → isHead s = false → k =
    { kind := f.ty.toNat - 3, id := bits f.w1 31 16, tgt := num64 f.data } → k ∉ s.tu.seen → s.get .TU_STAT_STATE ≠ 2 → s.get .TU_STAT_STATE ≠ 3 → exec
    (.ringTokenReceive x f) s = .next (forward x f ((ringStart s).inc .TU_TOKEN_STAT_UNLOCK_CNT))) ∧
  (∀ (s : State) (x : Fin 2) (f : RFrame), carries s x = false ∨ (f.ty ≠ 0x04 ∧ f.ty ≠ 0x05) ∨ (rframeOk f = true ∧ isHead s = true) → exec
    (.ringTokenReceive x f) s = .next (ringStart s)) ∧
  (∀ (s : State) (x : Fin 2) (f : RFrame), carries s x = true → f.ty = 0x04 ∨ f.ty = 0x05 → rframeOk f = false → exec (.ringTokenReceive x f) s = .next
    ((ringStart s).inc (.CSN_LK_ERR_CRC x)))

/-- Remote access (R463 to R467), export (R260, R468, R469) and alarms (R470). `raExec` is what a target does with a request (R464), `expWrite` the
head's write of an exported entry into its export queue, `almRecord` a record of its alarm queue with MOD_IRQ.RING. Malformed frames, and those of
other types, are RingEnumeration's. Timeouts and the spacing of alarms count clock edges (assumption log 6). -/
def Obligations.RemoteAccessAndExport : Prop :=
  (∀ (s : State) (r : Req) (w : Word), Admitted s r Reg.CSN_RA_CMD Msk.CSN_RA_CMD → bitAt w 0 = false → exec (.raGo r w) s = .next (ringStart s)) ∧
  (∀ (s : State) (r : Req) (w : Word), Admitted s r Reg.CSN_RA_CMD Msk.CSN_RA_CMD → bitAt w 0 = true → s.is .CSN_RA_STAT_BUSY = true → exec (.raGo r w)
    s = .next ((ringStart s).set1 .CSN_RA_STAT_IGNORED)) ∧
  (∀ (s : State) (r : Req) (w : Word), Admitted s r Reg.CSN_RA_CMD Msk.CSN_RA_CMD → bitAt w 0 = true → s.is .CSN_RA_STAT_BUSY = false → isHead s = false
    → exec (.raGo r w) s = .next (raEnd raNotHead ((ringStart s).put .CSN_RA_STAT_TRIES 0))) ∧
  (∀ (s : State) (r : Req) (w : Word) (p : Nat × List Word × State), Admitted s r Reg.CSN_RA_CMD Msk.CSN_RA_CMD → bitAt w 0 = true → s.is
    .CSN_RA_STAT_BUSY = false → isHead s = true → bits w 31 24 = 0 → p = raExec (busFn0 .ring) (raCmd s w) (raStart 1 (ringStart s)) → exec (.raGo r w) s
    = .next (raEnd p.1 (raBuf p.2.1 p.2.2))) ∧
  (∀ (s : State) (r : Req) (w : Word) (b : State), Admitted s r Reg.CSN_RA_CMD Msk.CSN_RA_CMD → bitAt w 0 = true → s.is .CSN_RA_STAT_BUSY = false →
    isHead s = true → bits w 31 24 = 255 → bits w 23 20 = 2 → b = raStart 1 (ringStart s) → exec (.raGo r w) s = .next (raEnd raSent (sendBoth (headFrame
    s 0x01 (raW1 (b.get .CSN_RA_STAT_RID) (raCmd s w)) (wd (raCmd s w).addr) (raCmd s w).data) b))) ∧
  (∀ (s : State) (r : Req) (w : Word), Admitted s r Reg.CSN_RA_CMD Msk.CSN_RA_CMD → bitAt w 0 = true → s.is .CSN_RA_STAT_BUSY = false → isHead s = true
    → bits w 31 24 = 255 → bits w 23 20 ≠ 2 → exec (.raGo r w) s = .next (raEnd raBadCmd ((ringStart s).put .CSN_RA_STAT_TRIES 0))) ∧
  (∀ (s : State) (r : Req) (w : Word) (m : Nat) (f : RFrame), Admitted s r Reg.CSN_RA_CMD Msk.CSN_RA_CMD → bitAt w 0 = true → s.is .CSN_RA_STAT_BUSY =
    false → isHead s = true → bits w 31 24 = m → 1 ≤ m → m ≤ 250 → s.is (.CSN_ROS_STAT_PRESENT m) = true → f =
    { headFrame s 0x01 (raW1 ((s.get .CSN_RA_STAT_RID + 1) % 2 ^ 16) (raCmd s w)) (wd (raCmd s w).addr) (raCmd s w).data with dst := BitVec.ofNat 8 m } →
    ∃ t, exec (.raGo r w) s = .next t ∧ t.is .CSN_RA_STAT_BUSY = true ∧ t.get .CSN_RA_STAT_TRIES = 1 ∧ t.get .CSN_RA_STAT_RID = (s.get .CSN_RA_STAT_RID +
    1) % 2 ^ 16 ∧ t.is .CSN_RA_STAT_TKO = false ∧ t.csn =
    { s.csn with raReq := some (f, clk s), sent := if carries s (raPort s m) then [(raPort s m, f)] else [] } ∧ t =
    { s with regs := t.regs, csn := t.csn } ∧ ∀ a, a ≠ Reg.CSN_RA_STAT → rd t a = rd s a) ∧
  (∀ (s : State) (r : Req) (w : Word) (m : Nat), Admitted s r Reg.CSN_RA_CMD Msk.CSN_RA_CMD → bitAt w 0 = true → s.is .CSN_RA_STAT_BUSY = false → isHead
    s = true → bits w 31 24 = m → 1 ≤ m → m ≠ 255 → 250 < m ∨ s.is (.CSN_ROS_STAT_PRESENT m) = false → exec (.raGo r w) s = .next (raEnd raNoModule
    ((ringStart s).put .CSN_RA_STAT_TRIES 0))) ∧
  (∀ (s : State) (x : Fin 2) (f : RFrame) (p : Nat × List Word × State) (y : RFrame), ringGets s x f 0x01 = true → isHead s = false → raLenOk f = true →
    f.dst ≠ 255 → f.dst = myAddr s → s.csn.kept.map (fun k => k.1) ≠ some (bits f.w1 31 16) → p = raExec (busFn .ring) (raOf f) (ringStart s) → y =
    raReply s f p.1 p.2.1 → exec (.raReq x f) s = .next (sendUp y (p.2.2.modCsn (fun k => { k with kept := some (bits f.w1 31 16, y), tko := false })))) ∧
  (∀ (s : State) (x : Fin 2) (f : RFrame) (y : RFrame), ringGets s x f 0x01 = true → isHead s = false → raLenOk f = true → f.dst ≠ 255 → f.dst = myAddr
    s → s.csn.kept = some (bits f.w1 31 16, y) → exec (.raReq x f) s = .next (sendUp y (ringStart s))) ∧
  (∀ (s : State) (x : Fin 2) (f : RFrame) (p : Nat × List Word × State), ringGets s x f 0x01 = true → isHead s = false → raLenOk f = true → f.dst = 255
    → bits f.w1 15 12 = 2 → s.csn.kept.map (fun k => k.1) ≠ some (bits f.w1 31 16) → p = raExec (busFn .ring) (raOf f) (ringStart s) → exec (.raReq x f) s
    = .next (forward x f (p.2.2.modCsn (fun k => { k with kept := some (bits f.w1 31 16, raReply s f p.1 p.2.1) })))) ∧
  (∀ (s : State) (x : Fin 2) (f : RFrame), ringGets s x f 0x01 = true → isHead s = false → raLenOk f = true → f.dst = 255 → bits f.w1 15 12 ≠ 2 ∨
    s.csn.kept.map (fun k => k.1) = some (bits f.w1 31 16) → exec (.raReq x f) s = .next (forward x f (ringStart s))) ∧
  (∀ (s : State) (x : Fin 2) (f : RFrame), ringGets s x f 0x01 = true → isHead s = false → raLenOk f = true → f.dst ≠ 255 → f.dst ≠ myAddr s → exec
    (.raReq x f) s = .next (forward x f (ringStart s))) ∧
  (∀ (s : State) (x : Fin 2) (f : RFrame), ringGets s x f 0x01 = true → isHead s = false → raLenOk f = false → exec (.raReq x f) s = .next ((ringStart
    s).inc (.CSN_LK_ERR_CRC x))) ∧
  (∀ (s : State) (x : Fin 2) (f : RFrame), ringGets s x f 0x01 = true → isHead s = true → exec (.raReq x f) s = .next (ringStart s)) ∧
  (∀ (s : State) (x : Fin 2) (f : RFrame), ringGets s x f 0x02 = true → isHead s = true → s.is .CSN_RA_STAT_BUSY = true → bits f.w1 31 16 = s.get
    .CSN_RA_STAT_RID → ∃ t, exec (.raRsp x f) s = .next t ∧ t.is .CSN_RA_STAT_BUSY = false ∧ t.get .CSN_RA_STAT_RESULT = bits f.w1 15 12 ∧ t.is
    .CSN_RA_STAT_TKO = bitAt (wd f.flags.toNat) 1 ∧ t.csn = { s.csn with raReq := none, sent := [] } ∧ bitAt (rd t Reg.MOD_IRQ) irqRing = true ∧
    (List.range 64).all (fun i => rd t (Reg.CSN_RA_BUF i) == (if bits f.w1 15 12 = raOk then f.data.getD i (rd s (Reg.CSN_RA_BUF i)) else rd s
    (Reg.CSN_RA_BUF i))) = true ∧ t = { s with regs := t.regs, csn := t.csn } ∧ ∀ a, a ≠ Reg.CSN_RA_STAT → a ≠ Reg.MOD_IRQ → ¬ (Reg.CSN_RA_BUF 0 ≤ a ∧ a <
    Reg.CSN_RA_BUF 64) → rd t a = rd s a) ∧
  (∀ (s : State) (x : Fin 2) (f : RFrame), ringGets s x f 0x02 = true → isHead s = true → s.is .CSN_RA_STAT_BUSY = false ∨ bits f.w1 31 16 ≠ s.get
    .CSN_RA_STAT_RID → exec (.raRsp x f) s = .next (ringStart s)) ∧
  (∀ (s : State) (x : Fin 2) (f : RFrame), ringGets s x f 0x02 = true → isHead s = false → exec (.raRsp x f) s = .next (forward x f (ringStart s))) ∧
  (∀ (s : State) (f : RFrame) (a : Nat), s.csn.raReq = some (f, a) → raTmo s * tickS ≤ (clk s - a) * 10000 → s.get .CSN_RA_CFG_RETRIES < s.get
    .CSN_RA_STAT_TRIES → exec .raTimeout s = .next (raEnd raNoReply (ringStart s))) ∧
  (∀ (s : State) (f : RFrame) (a : Nat), s.csn.raReq = some (f, a) → raTmo s * tickS ≤ (clk s - a) * 10000 → s.get .CSN_RA_STAT_TRIES ≤ s.get
    .CSN_RA_CFG_RETRIES → exec .raTimeout s = .next (sendOn (raPort s f.dst.toNat) f (((ringStart s).inc .CSN_RA_STAT_TRIES).modCsn (fun k =>
    { k with raReq := some (f, clk s) })))) ∧
  (∀ (s : State) (f : RFrame) (a : Nat), s.csn.raReq = some (f, a) → (clk s - a) * 10000 < raTmo s * tickS → exec .raTimeout s = .next (ringStart s)) ∧
  (∀ (s : State), s.csn.raReq = none → exec .raTimeout s = .next (ringStart s)) ∧
  (∀ (s : State) (q : Nat) (e : QEnt), isHead s = true → s.csn.seg = none → expQueue s = some q → expHead (s.queue q).ents = some e → e.len ≤ 65535 →
    exec .exportSend s = .next (expTaken q 1 (expWrite 0 q (rd s (Reg.Q_EXPORT q)) (entWords s q e) e.len (ringStart s)))) ∧
  (∀ (s : State) (q : Nat) (e : QEnt), isHead s = true ∨ (ringTrained s = true ∧ carries s (upPort s) = true ∧ (s.link (upPort s)).paused = false) →
    s.csn.seg = none → expQueue s = some q → expHead (s.queue q).ents = some e → 65535 < e.len → exec .exportSend s = .next ((expTaken q 1 (ringStart
    s)).inc .CSN_SRC_STAT_SKIP)) ∧
  (∀ (s : State) (q : Nat) (e : QEnt) (l : List QEnt), isHead s = false → ringTrained s = true → carries s (upPort s) = true → (s.link (upPort
    s)).paused = false → s.csn.seg = none → expQueue s = some q → expHead (s.queue q).ents = some e → e.len ≤ 65535 → qVar s q = false → l = (expReady s
    q).take (256 / max 1 e.len) → exec .exportSend s = .next (expTaken q l.length (sendUp (expFrame s q e.len (rd s (Reg.Q_EXPORT q)) 0 0 (l.flatMap
    (entWords s q))) (ringStart s)))) ∧
  (∀ (s : State) (q : Nat) (e : QEnt), isHead s = false → ringTrained s = true → carries s (upPort s) = true → (s.link (upPort s)).paused = false →
    s.csn.seg = none → expQueue s = some q → expHead (s.queue q).ents = some e → e.len ≤ 65535 → qVar s q = true → exec .exportSend s = .next (expSegment
    { q := q, pos := e.pos, seq := rd s (Reg.Q_EXPORT q), len := e.len, rest := entWords s q e, ix := 0 } (ringStart s))) ∧
  (∀ (s : State) (g : SegOut), isHead s = false → ringTrained s = true → carries s (upPort s) = true → (s.link (upPort s)).paused = false → s.csn.seg =
    some g → 64 < g.rest.length → exec .exportSend s = .next (s.modCsn (fun c =>
    { c with sent := [(upPort s, expFrame s g.q g.len g.seq (16 * b2n (g.ix == 0) + 0) g.ix (g.rest.take 64))], seg := some { g with rest := g.rest.drop 64, ix := g.ix + 1 } }))) ∧
  (∀ (s : State) (g : SegOut) (e : QEnt), isHead s = false → ringTrained s = true → carries s (upPort s) = true → (s.link (upPort s)).paused = false →
    s.csn.seg = some g → g.rest.length ≤ 64 → expHead (s.queue g.q).ents = some e → e.pos = g.pos → e.len = g.len → rd s (Reg.Q_EXPORT g.q) = g.seq → exec
    .exportSend s = .next (expTaken g.q 1 (s.modCsn (fun c =>
    { c with sent := [(upPort s, expFrame s g.q g.len g.seq (16 * b2n (g.ix == 0) + 32) g.ix (g.rest.take 64))], seg := none })))) ∧
  (∀ (s : State) (g : SegOut), isHead s = false → ringTrained s = true → carries s (upPort s) = true → (s.link (upPort s)).paused = false → s.csn.seg =
    some g → g.rest.length ≤ 64 → (expHead (s.queue g.q).ents).map (fun e => (e.pos, e.len, rd s (Reg.Q_EXPORT g.q))) ≠ some (g.pos, g.len, g.seq) → exec
    .exportSend s = .next (s.modCsn (fun c =>
    { c with sent := [(upPort s, expFrame s g.q g.len g.seq (16 * b2n (g.ix == 0) + 32) g.ix (g.rest.take 64))], seg := none }))) ∧
  (∀ (s : State), isHead s = false → ringTrained s = false ∨ carries s (upPort s) = false ∨ (s.link (upPort s)).paused = true → exec .exportSend s =
    .next (ringStart s)) ∧
  (∀ (s : State), s.csn.seg = none → expQueue s = none → exec .exportSend s = .next (ringStart s)) ∧
  (∀ (s : State) (x : Fin 2) (f : RFrame) (m q n : Nat), ringGets s x f 0x06 = true → isHead s = true → m = f.src.toNat → q = bits f.w1 23 16 → n = bits
    f.w1 15 0 → bitAt (wd f.flags.toNat) 4 = true → bitAt (wd f.flags.toNat) 5 = true → exec (.exportReceive x f true) s = .next (expWrite m q f.w2 f.data
    n (s.modCsn (fun c => { c with sent := [], joins := c.joins.filter (fun p => p.1 ≠ m * 256 + q) })))) ∧
  (∀ (s : State) (x : Fin 2) (f : RFrame) (m q n : Nat), ringGets s x f 0x06 = true → isHead s = true → m = f.src.toNat → q = bits f.w1 23 16 → n = bits
    f.w1 15 0 → bitAt (wd f.flags.toNat) 4 = false → bitAt (wd f.flags.toNat) 5 = false → f.seg = 0 → exec (.exportReceive x f true) s = .next ((chunks
    (max 1 ((n + 3) / 4)) f.data.length f.data).zipIdx.foldl (fun s p => expWrite m q (f.w2 + wd p.2) p.1 n s) (ringStart s))) ∧
  (∀ (s : State) (x : Fin 2) (f : RFrame) (m q n : Nat), ringGets s x f 0x06 = true → isHead s = true → m = f.src.toNat → q = bits f.w1 23 16 → n = bits
    f.w1 15 0 → bitAt (wd f.flags.toNat) 4 = true → bitAt (wd f.flags.toNat) 5 = false → f.seg = 0 → exec (.exportReceive x f true) s = .next ((((s.modCsn
    (fun c => { c with sent := [], joins := c.joins.filter (fun p => p.1 ≠ m * 256 + q) }))).modCsn (fun c =>
    { c with joins := kset {} c.joins (m * 256 + q) { seq := f.w2, len := n, words := f.data, ix := 1 } })))) ∧
  (∀ (s : State) (x : Fin 2) (f : RFrame) (m q n : Nat), ringGets s x f 0x06 = true → isHead s = true → m = f.src.toNat → q = bits f.w1 23 16 → n = bits
    f.w1 15 0 → bitAt (wd f.flags.toNat) 4 = true → bitAt (wd f.flags.toNat) 5 = false → f.seg ≠ 0 → exec (.exportReceive x f true) s = .next ((s.modCsn
    (fun c => { c with sent := [], joins := c.joins.filter (fun p => p.1 ≠ m * 256 + q) })))) ∧
  (∀ (s : State) (x : Fin 2) (f : RFrame) (m q n : Nat) (j : SegIn), ringGets s x f 0x06 = true → isHead s = true → m = f.src.toNat → q = bits f.w1 23
    16 → n = bits f.w1 15 0 → bitAt (wd f.flags.toNat) 4 = false → bitAt (wd f.flags.toNat) 5 = true → j = kget {} s.csn.joins (m * 256 + q) → j.ix ≠ 0 →
    j.ix = f.seg.toNat → j.seq = f.w2 → exec (.exportReceive x f true) s = .next (expWrite m q f.w2 (j.words ++ f.data) n (s.modCsn (fun c =>
    { c with sent := [], joins := c.joins.filter (fun p => p.1 ≠ m * 256 + q) })))) ∧
  (∀ (s : State) (x : Fin 2) (f : RFrame) (m q n : Nat) (j : SegIn), ringGets s x f 0x06 = true → isHead s = true → m = f.src.toNat → q = bits f.w1 23
    16 → n = bits f.w1 15 0 → bitAt (wd f.flags.toNat) 4 = false → bitAt (wd f.flags.toNat) 5 = false → j = kget {} s.csn.joins (m * 256 + q) → j.ix ≠ 0 →
    j.ix = f.seg.toNat → j.seq = f.w2 → exec (.exportReceive x f true) s = .next (((ringStart s).modCsn (fun c =>
    { c with joins := kset {} c.joins (m * 256 + q) { j with words := j.words ++ f.data, ix := j.ix + 1 } })))) ∧
  (∀ (s : State) (x : Fin 2) (f : RFrame) (m q n : Nat) (j : SegIn), ringGets s x f 0x06 = true → isHead s = true → m = f.src.toNat → q = bits f.w1 23
    16 → n = bits f.w1 15 0 → bitAt (wd f.flags.toNat) 4 = false → bitAt (wd f.flags.toNat) 5 = true ∨ f.seg ≠ 0 → j = kget {} s.csn.joins (m * 256 + q) →
    j.ix = 0 ∨ j.ix ≠ f.seg.toNat ∨ j.seq ≠ f.w2 → exec (.exportReceive x f true) s = .next ((s.modCsn (fun c =>
    { c with sent := [], joins := c.joins.filter (fun p => p.1 ≠ m * 256 + q) })))) ∧
  (∀ (s : State) (x : Fin 2) (f : RFrame), carries s x = true → isHead s = true → exec (.exportReceive x f false) s = .next (((ringStart s).inc
    (.CSN_LK_ERR_CRC x)).inc .CSN_EXP_STAT_BAD)) ∧
  (∀ (s : State) (x : Fin 2) (f : RFrame), carries s x = true → isHead s = false → exec (.exportReceive x f false) s = .next ((ringStart s).inc
    (.CSN_LK_ERR_CRC x))) ∧
  (∀ (s : State) (x : Fin 2) (f : RFrame), carries s x = true → rframeOk f = false → exec (.exportReceive x f true) s = .next ((ringStart s).inc
    (.CSN_LK_ERR_CRC x))) ∧
  (∀ (s : State) (x : Fin 2) (f : RFrame), carries s x = true → rframeOk f = true → isHead s = false → exec (.exportReceive x f true) s = .next (forward
    x f (ringStart s))) ∧
  (∀ (s : State) (x : Fin 2) (f : RFrame) (ok : Bool), carries s x = false → exec (.exportReceive x f ok) s = .next (ringStart s)) ∧
  (∀ (s : State), isHead s = false → s.is .CSN_CFG_ALARM_EN = true → almBits s &&& ~~~ s.csn.alSeen ≠ 0 → carries s (upPort s) = true → s.csn.alAt =
    none → ∃ t, exec .alarmSend s = .next t ∧ t.csn =
    { s.csn with alAt := some (clk s), alSeen := s.csn.alSeen ||| almBits s, sent := [(upPort s, memberFrame s 0x07 0 0x01000000 (almBits s) (words64 (now s)))] }
    ∧ t = { s with csn := t.csn }) ∧
  (∀ (s : State) (k : Nat), isHead s = false → s.is .CSN_CFG_ALARM_EN = true → almBits s &&& ~~~ s.csn.alSeen ≠ 0 → carries s (upPort s) = true →
    s.csn.alAt = some k → k + tick10Ms ≤ clk s → ∃ t, exec .alarmSend s = .next t ∧ t.csn =
    { s.csn with alAt := some (clk s), alSeen := s.csn.alSeen ||| almBits s, sent := [(upPort s, memberFrame s 0x07 0 0x01000000 (almBits s) (words64 (now s)))] }
    ∧ t = { s with csn := t.csn }) ∧
  (∀ (s : State) (k : Nat), s.csn.alAt = some k → clk s < k + tick10Ms → exec .alarmSend s = .next (ringStart s)) ∧
  (∀ (s : State), isHead s = true ∨ s.is .CSN_CFG_ALARM_EN = false ∨ almBits s &&& ~~~ s.csn.alSeen = 0 ∨ carries s (upPort s) = false → exec .alarmSend
    s = .next (ringStart s)) ∧
  (∀ (s : State) (x : Fin 2) (f : RFrame), ringGets s x f 0x07 = true → isHead s = true → bits f.w1 31 24 = 1 ∨ bits f.w1 31 24 = 4 ∨ (bits f.w1 31 24 =
    3 ∧ bitAt (wd f.flags.toNat) 3 = true) → exec (.alarm x f) s = .next (almRecord f.src.toNat (bits f.w1 31 24) f.w2 f.data (ringStart s))) ∧
  (∀ (s : State) (x : Fin 2) (f : RFrame), ringGets s x f 0x07 = true → isHead s = true → bits f.w1 31 24 = 2 → exec (.alarm x f) s = .next (sendReroute
    f.src.toNat (bits f.w2 7 0) (almRecord f.src.toNat 2 f.w2 f.data (ringStart s)))) ∧
  (∀ (s : State) (x : Fin 2) (f : RFrame), ringGets s x f 0x07 = true → isHead s = true → bits f.w1 31 24 = 3 → bitAt (wd f.flags.toNat) 3 = false →
    exec (.alarm x f) s = .next (sendReroute 0xFF 0xFF (almRecord f.src.toNat 3 f.w2 f.data (ringStart s)))) ∧
  (∀ (s : State) (x : Fin 2) (f : RFrame), ringGets s x f 0x07 = true → isHead s = true → ∃ t, exec (.alarm x f) s = .next t ∧ bitAt (rd t Reg.MOD_IRQ)
    irqRing = true ∧ t = { queuedFrom s t with csn := t.csn } ∧ ∀ a, queueReg a = false → rd t a = rd s a) ∧
  (∀ (s : State) (x : Fin 2) (f : RFrame), ringGets s x f 0x07 = true → isHead s = false → exec (.alarm x f) s = .next (forward x f (ringStart s)))

/-- Verdicts (R490 to R496), takeovers (R505 to R508) and the planned switchover (R509). `verdict` takes a domain's role away; HEARTBEAT_MISS says
what it does. `tkoWarm` and `tkoCold` make the state of the new active domain. Times count clock edges (assumption log 6). -/
def Obligations.VerdictsAndTakeovers : Prop :=
  (∀ (s : State) (d : Dom), s.pw.on = true → feedOf s (otherDom d) = true → exec (.logicFeedLoss d) s = .next (verdict d false fcSupply (feedLost d s))) ∧
  (∀ (s : State) (d : Dom) (b : State), s.pw.on = true → feedOf s (otherDom d) = false → b = feedLost d s → exec (.logicFeedLoss d) s = .next
    ({ coldState 0 b with pw := {} })) ∧
  (∀ (s : State) (d : Dom), s.pw.on = true → feedOf s (otherDom d) = false → ∃ t, exec (.logicFeedLoss d) s = .next t ∧ t.pw = {} ∧ t.sv.anyActive =
    false ∧ t.sv.roleA = .absent ∧ t.sv.roleB = .absent) ∧
  (∀ (s : State) (d : Dom), s.pw.on = false → exec (.logicFeedLoss d) s = .next s) ∧
  (∀ (s : State) (d : Dom), s.pw.power ≠ 0 ∨ s.sv.anyActive = true ∨ s.sv.tkoFrom ≠ none → exec (.clockMonitorTrip d) s = .next (verdict d true fcClock
    s)) ∧
  (∀ (s : State) (d : Dom), s.pw.power = 0 → s.sv.anyActive = false → s.sv.tkoFrom = none → exec (.clockMonitorTrip d) s = .next (verdict d true fcClock
    ((startFail 3 s).modPw (fun w => { w with drv := if w.drv = d then otherDom d else w.drv })))) ∧
  (∀ (s : State) (d : Dom), exec (.heartbeatMiss d) s = .next (verdict d true fcHeartbeat s)) ∧
  (∀ (s : State) (d : Dom), s.is .SV_STAT_ARB_FAULT = false → roleOf s d = .standby → s.sv.anyActive = true → ∃ t, exec (.heartbeatMiss d) s = .next t ∧
    roleOf t d = .fenced ∧ roleOf t (otherDom d) = roleOf s (otherDom d) ∧ t.sv.stby = .none ∧ t.sv.anyActive = true ∧ t.sv.epoch = s.sv.epoch ∧ t.get
    .SV_FAIL_CAUSE = fcHeartbeat ∧ t.get .SV_FAIL_DOM = domIx d ∧ t.jcom = none ∧ t.jpend = [] ∧ t =
    { queuedFrom s t with sv := t.sv, pw := t.pw, ltrigs := t.ltrigs, jpend := t.jpend, jcom := t.jcom, ca := t.ca } ∧ ∀ a, queueReg a = false → ¬ (svReg
    a = true) → rd t a = rd s a) ∧
  (∀ (s : State) (d : Dom), s.is .SV_STAT_ARB_FAULT = false → roleOf s d = .active → roleOf s (otherDom d) = .standby → ∃ t, exec (.heartbeatMiss d) s =
    .next t ∧ roleOf t d = .fenced ∧ roleOf t (otherDom d) = .standby ∧ t.sv.anyActive = false ∧ t.sv.tkoFrom = some (d, fcHeartbeat) ∧ t.sv.ready = false
    ∧ t.csn.closed = true ∧ t = { s with regs := t.regs, sv := t.sv, csn := t.csn, ca := t.ca } ∧ ∀ a, ¬ (svReg a = true) → a ≠ Reg.CSN_STAT → a ≠
    Reg.CSN_LK_STAT 0 → a ≠ Reg.CSN_LK_STAT 1 → rd t a = rd s a) ∧
  (∀ (s : State) (d : Dom), s.is .SV_STAT_ARB_FAULT = false → roleOf s d = .active → roleOf s (otherDom d) ≠ .standby → feedOf s .a = true ∨ feedOf s .b
    = true → within24h s s.sv.restartAt = false → ∃ t, exec (.heartbeatMiss d) s = .next t ∧ t.get .MOD_START_CAUSE = 4 ∧ t.sv.restartAt = some (clk s) ∧
    t.sv.anyActive = false ∧ t.pw.power = 0 ∧ t.get .MOD_START_STEP = 2) ∧
  (∀ (s : State) (d : Dom), s.is .SV_STAT_ARB_FAULT = false → roleOf s d = .active → roleOf s (otherDom d) ≠ .standby → feedOf s .a = true ∨ feedOf s .b
    = true → within24h s s.sv.restartAt = true → ∃ t, exec (.heartbeatMiss d) s = .next t ∧ roleOf t d = .fenced ∧ t.sv.anyActive = false ∧ t.sv.tkoFrom =
    none ∧ t.csn.closed = true ∧ t = { s with regs := t.regs, sv := t.sv, csn := t.csn, ca := t.ca } ∧ ∀ a, ¬ (svReg a = true) → a ≠ Reg.CSN_STAT → a ≠
    Reg.CSN_LK_STAT 0 → a ≠ Reg.CSN_LK_STAT 1 → rd t a = rd s a) ∧
  (∀ (s : State) (d : Dom), s.is .SV_STAT_ARB_FAULT = true ∨ roleOf s d = .absent ∨ roleOf s d = .fenced → exec (.heartbeatMiss d) s = .next s) ∧
  (∀ (s : State) (d : Dom) (ecc : Bool), exec (.selfcheckReport d ecc) s = .next (verdict d true (if ecc then fcEcc else fcSelftest) s)) ∧
  (∀ (s : State) (d : Dom) (x : BitVec 32) (bad : BitVec 16), tickMs ≤ now s → s.sv.anyActive = true → ∃ t, exec (.digestForm d x bad) s = .next t ∧
    (byDom d (t.sv.digA) (t.sv.digB)) = some { ms := now s / tickMs - 1, crc := digestOf s (now s / tickMs - 1) ^^^ x.toNat, tiles := bad.toNat } ∧ (byDom
    d (t.sv.digB = s.sv.digB) (t.sv.digA = s.sv.digA)) ∧ t.sv.hm = (if activeDom s = some d then decide (hmWhy s ≠ 0) else s.sv.hm) ∧ t =
    { s with sv := t.sv }) ∧
  (∀ (s : State) (d : Dom) (x : BitVec 32) (bad : BitVec 16), now s < tickMs ∨ s.sv.anyActive = false → exec (.digestForm d x bad) s = .next s) ∧
  (∀ (s : State) (x y : Digest), s.sv.digA = some x → s.sv.digB = some y → s.sv.stby ≠ .inStep ∨ x.ms ≠ y.ms ∨ x.crc = y.crc → exec .digestCompare s =
    .next (s.modSv (fun v => { v with digA := none, digB := none }))) ∧
  (∀ (s : State) (x y : Digest), s.sv.digA = some x → s.sv.digB = some y → s.sv.stby = .inStep → x.ms = y.ms → x.crc ≠ y.crc → linkFault s x.ms = true →
    x.ms ≤ s.sv.skipTo → exec .digestCompare s = .next (s.modSv (fun v => { v with digA := none, digB := none }))) ∧
  (∀ (s : State) (x y : Digest), s.sv.digA = some x → s.sv.digB = some y → s.sv.stby = .inStep → x.ms = y.ms → x.crc ≠ y.crc → linkFault s x.ms = true →
    s.sv.skipTo < x.ms → exec .digestCompare s = .next ((s.inc .SV_CNT_LINKMISS).modSv (fun v =>
    { v with digA := none, digB := none, lastMismatch := some (clk s), linkMiss := v.linkMiss + 1, skipTo := x.ms + 1 }))) ∧
  (∀ (s : State) (x y : Digest), s.sv.digA = some x → s.sv.digB = some y → s.sv.stby = .inStep → x.ms = y.ms → x.crc ≠ y.crc → linkFault s x.ms = false
    → (s.sv.lastCheck.map (fun k => decide (clk s < k + 10 * tickS))).getD false = true → exec .digestCompare s = .next ((s.inc .SV_CNT_DISAGREE).modSv
    (fun v => { v with digA := none, digB := none, lastMismatch := some (clk s), disagrees := v.disagrees + 1 }))) ∧
  (∀ (s : State) (x y : Digest), s.sv.digA = some x → s.sv.digB = some y → s.sv.stby = .inStep → x.ms = y.ms → x.crc ≠ y.crc → linkFault s x.ms = false
    → (s.sv.lastCheck.map (fun k => decide (clk s < k + 10 * tickS))).getD false = false → exec .digestCompare s = .next (s.modSv (fun v =>
    { v with digA := none, digB := none, lastMismatch := some (clk s), selfCheck := some (v.selfCheck.getD x.ms) }))) ∧
  (∀ (s : State), s.sv.digA = none ∨ s.sv.digB = none → exec .digestCompare s = .next s) ∧
  (∀ (s : State) (m : Nat) (d : Dom), s.sv.selfCheck = some m → activeDom s = some d → exec (.selfcheckDone false false) s = .next (svRecord 4 0 (domIx
    d) 0 m (((s.set1 .SV_STAT_DISAGREE).inc .SV_CNT_DISAGREE).modSv (fun v =>
    { v with selfCheck := none, disagrees := v.disagrees + 1, lastCheck := some (clk s) })))) ∧
  (∀ (s : State) (m : Nat) (d : Dom) (a b : Bool), s.sv.selfCheck = some m → activeDom s = some d → (byDom d b a) = true → (byDom d a b) = false → exec
    (.selfcheckDone a b) s = .next (verdict (otherDom d) true fcDigest (s.modSv (fun v => { v with selfCheck := none })))) ∧
  (∀ (s : State) (m : Nat) (d : Dom) (a b : Bool), s.sv.selfCheck = some m → activeDom s = some d → (byDom d b a) = false → (byDom d a b) = true → exec
    (.selfcheckDone a b) s = .next (verdict d true fcDigest (s.modSv (fun v => { v with selfCheck := none })))) ∧
  (∀ (s : State) (m : Nat) (d : Dom), s.sv.selfCheck = some m → activeDom s = some d → exec (.selfcheckDone true true) s = .next (verdict d true
    fcDigest (verdict (otherDom d) true fcDigest (s.modSv (fun v => { v with selfCheck := none }))))) ∧
  (∀ (s : State) (a b : Bool), s.sv.selfCheck = none → exec (.selfcheckDone a b) s = .next s) ∧
  (∀ (s : State) (a b : Bool), activeDom s = none → exec (.selfcheckDone a b) s = .next (s.modSv (fun v => { v with selfCheck := none }))) ∧
  (∀ (s : State), s.is .SV_STAT_DISAGREE = true → (s.sv.lastMismatch.getD 0) + 60 * tickS ≤ clk s → exec .disagreeClear s = .next (svRecord 4 1
    ((activeDom s).elim 0 domIx) 0 (now s / tickMs) (s.put .SV_STAT_DISAGREE 0))) ∧
  (∀ (s : State), s.is .SV_STAT_DISAGREE = false ∨ clk s < (s.sv.lastMismatch.getD 0) + 60 * tickS → exec .disagreeClear s = .next s) ∧
  (∀ (s : State), s.is .SV_STAT_ARB_FAULT = false → s.sv.anyActive = true → exec .arbiterHeartbeatLoss s = .next (svRecord 9 0 0 0 0 (s.set1
    .SV_STAT_ARB_FAULT))) ∧
  (∀ (s : State), s.is .SV_STAT_ARB_FAULT = true ∨ s.sv.anyActive = false → exec .arbiterHeartbeatLoss s = .next s) ∧
  (∀ (s : State), s.is .SV_STAT_ARB_FAULT = true → exec .arbiterHeartbeatReturn s = .next (svRecord 9 1 0 0 0 (s.put .SV_STAT_ARB_FAULT 0))) ∧
  (∀ (s : State), s.is .SV_STAT_ARB_FAULT = false → exec .arbiterHeartbeatReturn s = .next s) ∧
  (∀ (s : State) (d : Dom), s.sv.tkoFrom ≠ none → standbyDom s = some d → s.is .SV_STAT_ARB_FAULT = false → s.sv.ready = false → ∃ t, exec .takeover s =
    .next t ∧ roleOf t d = .active ∧ roleOf t (otherDom d) = roleOf s (otherDom d) ∧ t.sv.epoch = nextEpoch s.sv.epoch ∧ t.sv.ready = true ∧ t.sv.cold =
    !hasStandby s ∧ t.sv.stby = .none ∧ t = { s with sv := t.sv }) ∧
  (∀ (s : State), s.sv.tkoFrom = none ∨ standbyDom s = none ∨ s.is .SV_STAT_ARB_FAULT = true ∨ s.sv.ready = true → exec .takeover s = .next s) ∧
  (∀ (s : State) (d : Dom) (k : Nat) (j : JSnap), s.sv.tkoFrom = some (d, k) → s.sv.ready = true → s.sv.cold = false → s.jcom = some j → exec
    .newActiveReady s = .next (powerResume (tkoWarm j d k s))) ∧
  (∀ (s : State) (d : Dom) (k : Nat), s.sv.tkoFrom = some (d, k) → s.sv.ready = true → s.sv.cold = true ∨ s.jcom = none → exec .newActiveReady s = .next
    (powerResume (tkoCold d k s))) ∧
  (∀ (s : State) (d : Dom) (k : Nat), s.sv.tkoFrom = some (d, k) → s.sv.ready = true → s.pw.pend = none → s.pw.power ≠ 2 → ∃ t, exec .newActiveReady s =
    .next t ∧ t.sv.anyActive = true ∧ t.sv.tkoFrom = none ∧ t.sv.ready = false ∧ t.jcom = none ∧ t.jpend = [] ∧ t.jseq = 0) ∧
  (∀ (s : State), s.sv.tkoFrom = none ∨ s.sv.ready = false → exec .newActiveReady s = .next s) ∧
  (∀ (s : State) (d e : Dom), activeDom s = some d → standbyDom s = some e → s.is .SV_STAT_SWITCHING = true → canSwitch s = true → hasStandby s = true →
    s.pw.pend = none → ∃ t, exec .switchoverComplete s = .next t ∧ roleOf t e = .active ∧ roleOf t d = .standby ∧ t.sv.epoch = nextEpoch s.sv.epoch ∧ t.is
    .SV_STAT_SWITCHING = false ∧ t.sv.switchAt = none ∧ t.sv.anyActive = s.sv.anyActive ∧ t.jpend = [] ∧ t.rsh = [] ∧ t.wsh = [] ∧ t.cvs = s.cvs ∧ t.flash
    = s.flash ∧ t.otp = s.otp) ∧
  (∀ (s : State), activeDom s = none ∨ standbyDom s = none ∨ s.is .SV_STAT_SWITCHING = false ∨ canSwitch s = false ∨ hasStandby s = false → exec
    .switchoverComplete s = .next s) ∧
  (∀ (s : State) (a : Nat), s.sv.switchAt = some a → s.is .SV_STAT_SWITCHING = true → switchHeld s = true → a + s.get .SV_CFG_SWITCH_WAIT * tick10Ms ≤
    clk s → exec .switchWaitExpiry s = .next (powerResume (permitEnd actSwitch prBusyCtx ((s.put .SV_STAT_SWITCHING 0).modSv (fun v =>
    { v with switchAt := none }))))) ∧
  (∀ (s : State), s.sv.switchAt = none ∨ s.is .SV_STAT_SWITCHING = false ∨ switchHeld s = false ∨ clk s < s.get .SV_CFG_SWITCH_WAIT * tick10Ms → exec
    .switchWaitExpiry s = .next s)

/-- The journal (R500 to R502), rejoining (R503, R504), background tests (R512, R513), burgees (R515) and the watchdog (R517). Intervals count clock
edges (assumption log 6); a lost word of context memory is a free value (assumption log 48). -/
def Obligations.JournalAndRejoining : Prop :=
  (∀ (s : State), exec .halyardImmediate s = .next s) ∧
  (∀ (s : State), hasStandby s = true → ∃ t, exec .immediateAckTimeout s = .next t ∧ t.sv.stby = .outOfStep ∧ t.jcom = none ∧ t.jpend = [] ∧ t.late = []
    ∧ t.ltrigs = [] ∧ t = { s with sv := t.sv, late := t.late, ltrigs := t.ltrigs, jpend := t.jpend, jcom := t.jcom, ca := t.ca }) ∧
  (∀ (s : State), hasStandby s = false → exec .immediateAckTimeout s = .next s) ∧
  (∀ (s : State), hasStandby s = true → s.sv.anyActive = true → lastClose s + jTicks s ≤ clk s → exec .journalEpochClose s = .next
    ({ s with jpend := s.jpend ++ [{ snapOf s.jseq s with lates := s.late.length, trigs := s.ltrigs.length, cals := s.ca.wrote.length }], jseq := (s.jseq + 1) % 2 ^ 32 })) ∧
  (∀ (s : State), hasStandby s = false ∨ s.sv.anyActive = false ∨ clk s < lastClose s + jTicks s → exec .journalEpochClose s = .next s) ∧
  (∀ (s : State) (j : JSnap) (l : List JSnap), s.jpend = j :: l → hasStandby s = true → ∃ t, exec .journalCommit s = .next t ∧ rd t Reg.SV_JSEQ = wd
    j.jseq ∧ t.get .SV_JLAG_LAST = (min 0xFFFF ((clk s - j.edge) * 1000000 / tickS)) ∧ t.get .SV_JLAG_MAX = max (min 0xFFFF ((clk s - j.edge) * 1000000 /
    tickS)) (s.get .SV_JLAG_MAX) ∧ t.jcom = some { j with lates := 0, trigs := 0, cals := 0 } ∧ t.jpend = l.map (fun k =>
    { k with lates := k.lates - j.lates, trigs := k.trigs - j.trigs, cals := k.cals - j.cals }) ∧ t.late = s.late.drop j.lates ∧ t.ltrigs = s.ltrigs.drop
    j.trigs ∧ t =
    { s with regs := t.regs, sv := t.sv, late := t.late, ltrigs := t.ltrigs, jpend := t.jpend, jcom := t.jcom, ca := t.ca, ckptDone := t.ckptDone } ∧ ∀ a,
    a ≠ Reg.SV_JSEQ → a ≠ Reg.SV_JLAG → ¬ ((List.range 160).any (fun c => a / 0x100 == 0x400 + c) = true) → rd t a = rd s a) ∧
  (∀ (s : State), s.jpend = [] ∨ hasStandby s = false → exec .journalCommit s = .next s) ∧
  (∀ (s : State) (j : JSnap) (l : List JSnap) (d : Dom), s.jpend = j :: l → standbyDom s = some d → j.edge + 4 * jTicks s ≤ clk s → exec
    .journalLagTimeout s = .next (noteFail d fcJournal (outOfStep s))) ∧
  (∀ (s : State) (j : JSnap) (l : List JSnap), s.jpend = j :: l → clk s < j.edge + 4 * jTicks s → exec .journalLagTimeout s = .next s) ∧
  (∀ (s : State), s.jpend = [] ∨ standbyDom s = none → exec .journalLagTimeout s = .next s) ∧
  (∀ (s : State) (d : Dom), canRejoin s d = true → roleOf s d = .standby → s.sv.stby = .outOfStep → ∃ t, exec (.rejoinStart d) s = .next t ∧ roleOf t d
    = .standby ∧ roleOf t (otherDom d) = roleOf s (otherDom d) ∧ t.sv.stby = .rejoining ∧ t.sv.rejoin = some d ∧ t.sv.rejoinAt = clk s ∧ t =
    { queuedFrom s t with sv := t.sv } ∧ ∀ a, queueReg a = false → rd t a = rd s a) ∧
  (∀ (s : State) (d : Dom), canRejoin s d = true → roleOf s d = .standby → s.sv.stby = .outOfStep → exec (.rejoinStart d) s = .next (rejoinBegin d s)) ∧
  (∀ (s : State) (d : Dom), canRejoin s d = true → roleOf s d = .absent → exec (.rejoinStart d) s = .next (rejoinBegin d (s.modSv (fun v => byDom d
    { v with feedA := true } { v with feedB := true })))) ∧
  (∀ (s : State) (d : Dom), canRejoin s d = true → roleOf s d = .fenced → s.is .SV_CFG_AUTO_REJOIN = true → (byDom d (s.sv.stayA) (s.sv.stayB)) = false
    → exec (.rejoinStart d) s = .next (rejoinBegin d (s.modSv (fun v => byDom d { v with autoA := some (clk s) } { v with autoB := some (clk s) })))) ∧
  (∀ (s : State) (d : Dom), canRejoin s d = false ∨ (roleOf s d = .standby ∧ s.sv.stby ≠ .outOfStep) ∨ (roleOf s d = .fenced ∧ (s.is .SV_CFG_AUTO_REJOIN
    = false ∨ (byDom d (s.sv.stayA) (s.sv.stayB)) = true)) → exec (.rejoinStart d) s = .next s) ∧
  (∀ (s : State) (d : Dom), s.sv.rejoin = some d → standbyLinked s d = true → ∃ t, exec (.rejoinComplete true) s = .next t ∧ t.sv.rejoin = none ∧ rd t
    Reg.SV_JSEQ = 0 ∧ t.jseq = 0 ∧ t.sv.stby = stbyFor s.pw.power .inStep ∧ t.jcom.isSome = true ∧ t.jpend = [] ∧ t.pw.planned = false ∧ t =
    { queuedFrom s t with sv := t.sv, pw := t.pw, ltrigs := t.ltrigs, jpend := t.jpend, jcom := t.jcom, jseq := t.jseq, ca := t.ca, ckptDone := t.ckptDone }
    ∧ ∀ a, queueReg a = false → ¬ (svReg a = true) → rd t a = rd s a) ∧
  (∀ (s : State) (d : Dom), s.sv.rejoin = some d → standbyLinked s d = false → exec (.rejoinComplete true) s = .next s) ∧
  (∀ (s : State) (d : Dom), s.sv.rejoin = some d → exec (.rejoinComplete false) s = .next (svRecord 3 2 (domIx d) 0 ((clk s - s.sv.rejoinAt) / tickMs)
    (verdict d true fcImage ((s.modSv (fun v => { v with rejoin := none })).modPw (fun w => { w with planned := false }))))) ∧
  (∀ (s : State) (ok : Bool), s.sv.rejoin = none → exec (.rejoinComplete ok) s = .next s) ∧
  (∀ (s : State) (r : Req), Admitted s r Reg.SV_CMD Msk.SV_CMD → s.sv.roleA = .fenced → canRejoin s .a = true → exec (.rejoin r) s = .next (rejoinBegin
    .a (s.modSv (fun v => { v with stayA := false })))) ∧
  (∀ (s : State) (r : Req), Admitted s r Reg.SV_CMD Msk.SV_CMD → s.sv.roleA ≠ .fenced → s.sv.roleB = .fenced → canRejoin s .b = true → exec (.rejoin r)
    s = .next (rejoinBegin .b (s.modSv (fun v => { v with stayB := false })))) ∧
  (∀ (s : State) (r : Req), Admitted s r Reg.SV_CMD Msk.SV_CMD → s.sv.roleA ≠ .fenced ∨ canRejoin s .a = false → s.sv.roleB ≠ .fenced ∨ canRejoin s .b =
    false → exec (.rejoin r) s = .next s) ∧
  (∀ (s : State) (d : Dom) (m : Fin 4) (a : Word) (p : Bool), exec (.scrub d m a 0 p) s = .next ((s.when p (·.modSv (fun v =>
    { v with scrubPasses := v.scrubPasses + 1 }))))) ∧
  (∀ (s : State) (d : Dom) (m : Fin 4) (a : Word) (p : Bool) (k : Fin 3), s.sv.anyActive = false → exec (.scrub d m a k p) s = .next ((s.when p (·.modSv
    (fun v => { v with scrubPasses := v.scrubPasses + 1 }))))) ∧
  (∀ (s : State) (d : Dom) (m : Fin 4) (a : Word) (p : Bool) (b : State), s.sv.anyActive = true → b = (s.when p (·.modSv (fun v =>
    { v with scrubPasses := v.scrubPasses + 1 }))) → exec (.scrub d m a 1 p) s = .next ((b.inc .SV_ECC_CORR).modSv (fun v =>
    { v with eccCorr := v.eccCorr + 1 }))) ∧
  (∀ (s : State) (d : Dom) (m : Fin 4) (a : Word) (p : Bool) (b : State), s.sv.anyActive = true → activeDom s = some d → hasStandby s = true → b =
    svRecord 8 1 (domIx d) m a.toNat (((s.when p (·.modSv (fun v => { v with scrubPasses := v.scrubPasses + 1 }))).inc .SV_ECC_UNCORR).modSv (fun v =>
    { v with eccUncorr := v.eccUncorr + 1 })) → exec (.scrub d m a 2 p) s = .next (verdict d true fcEcc b)) ∧
  (∀ (s : State) (d : Dom) (m : Fin 4) (a : Word) (p : Bool) (b : State), s.sv.anyActive = true → activeDom s = some d → hasStandby s = false → b =
    svRecord 8 1 (domIx d) m a.toNat (((s.when p (·.modSv (fun v => { v with scrubPasses := v.scrubPasses + 1 }))).inc .SV_ECC_UNCORR).modSv (fun v =>
    { v with eccUncorr := v.eccUncorr + 1 })) → exec (.scrub d m a 2 p) s = .next (wordLost m a.toNat b)) ∧
  (∀ (s : State) (d : Dom) (m : Fin 4) (a : Word) (p : Bool) (b : State), s.sv.anyActive = true → activeDom s ≠ some d → b = svRecord 8 0 (domIx d) m
    a.toNat (((s.when p (·.modSv (fun v => { v with scrubPasses := v.scrubPasses + 1 }))).inc .SV_ECC_UNCORR).modSv (fun v =>
    { v with eccUncorr := v.eccUncorr + 1 })) → exec (.scrub d m a 2 p) s = .next (outOfStep b)) ∧
  (∀ (s : State), s.sv.stby = .inStep → s.sv.marchAt + 4 * tickS ≤ clk s → exec (.bankMarch false) s = .next (s.modSv (fun v =>
    { v with marched := v.marched + 1, marchAt := clk s }))) ∧
  (∀ (s : State), s.sv.stby = .inStep → s.sv.marchAt + 4 * tickS ≤ clk s → s.sv.spare = true → exec (.bankMarch true) s = .next (s.modSv (fun v =>
    { v with marched := v.marched + 1, marchAt := clk s, spare := false }))) ∧
  (∀ (s : State) (d : Dom), s.sv.stby = .inStep → s.sv.marchAt + 4 * tickS ≤ clk s → s.sv.spare = false → standbyDom s = some d → exec (.bankMarch true)
    s = .next (verdict d true fcSelftest (s.modSv (fun v => { v with marched := v.marched + 1, marchAt := clk s })))) ∧
  (∀ (s : State) (k : Bool), s.sv.stby ≠ .inStep ∨ clk s < s.sv.marchAt + 4 * tickS → exec (.bankMarch k) s = .next s) ∧
  (∀ (s : State), s.sv.stby = .inStep → s.sv.sliceAt + tick10Ms ≤ clk s → exec (.logicSliceTest true) s = .next (s.modSv (fun v =>
    { v with slices := v.slices + 1, sliceAt := clk s }))) ∧
  (∀ (s : State) (d : Dom), s.sv.stby = .inStep → s.sv.sliceAt + tick10Ms ≤ clk s → standbyDom s = some d → exec (.logicSliceTest false) s = .next
    (verdict d true fcSelftest s)) ∧
  (∀ (s : State) (k : Bool), s.sv.stby ≠ .inStep ∨ clk s < s.sv.sliceAt + tick10Ms → exec (.logicSliceTest k) s = .next s) ∧
  (∀ (s : State), s.sv.stby = .inStep → s.sv.loopAt + 60 * tickS ≤ clk s → exec (.canLoopbackTest true) s = .next (s.modSv (fun v =>
    { v with loops := v.loops + 1, loopAt := clk s }))) ∧
  (∀ (s : State) (d : Dom), s.sv.stby = .inStep → s.sv.loopAt + 60 * tickS ≤ clk s → standbyDom s = some d → exec (.canLoopbackTest false) s = .next
    (verdict d true fcSelftest s)) ∧
  (∀ (s : State) (k : Bool), s.sv.stby ≠ .inStep ∨ clk s < s.sv.loopAt + 60 * tickS → exec (.canLoopbackTest k) s = .next s) ∧
  (∀ (s : State) (w : Word), s.get .SV_BURGEE_PERIOD ≠ 0 → s.sv.anyActive = true → s.pw.power ≠ 0 → s.pw.power ≠ 4 → s.pw.power ≠ 6 → s.sv.burgeeAt +
    s.get .SV_BURGEE_PERIOD * tickS ≤ clk s → exec (.burgee w) s = .next ((qPushFixed 64 (s.get .SV_BURGEE_Q) .active [burgeeWords s w] s).modSv (fun v =>
    { v with burgeeNo := (v.burgeeNo + 1) % 2 ^ 32, jlagMax := 0, burgeeAt := clk s }))) ∧
  (∀ (s : State) (w : Word), s.get .SV_BURGEE_PERIOD = 0 ∨ s.sv.anyActive = false ∨ s.pw.power = 0 ∨ s.pw.power = 4 ∨ s.pw.power = 6 ∨ clk s <
    s.sv.burgeeAt + s.get .SV_BURGEE_PERIOD * tickS → exec (.burgee w) s = .next s) ∧
  (∀ (s : State) (r : Req) (b : State), served s r Reg.MOD_WDOG = true → s.is .MOD_WDOG_EXPIRED = true → b = (if s.is .MOD_WDOG_EN then wdogDl (some
    (clk s + wdogTicks s)) s else s) → exec (.wdogService r) s = .next (svRecord 7 1 0 0 (s.get .MOD_WDOG_PERIOD) (b.put .MOD_WDOG_EXPIRED 0))) ∧
  (∀ (s : State) (r : Req) (b : State), served s r Reg.MOD_WDOG = true → s.is .MOD_WDOG_EXPIRED = false → b = (if s.is .MOD_WDOG_EN then wdogDl (some
    (clk s + wdogTicks s)) s else s) → exec (.wdogService r) s = .next (b)) ∧
  (∀ (s : State) (r : Req), served s r Reg.MOD_WDOG = false → exec (.wdogService r) s = .next s) ∧
  (∀ (s : State) (a : Nat), s.sv.wdogDl = some a → a ≤ clk s → s.sv.anyActive = true → exec .wdogExpiry s = .next (svRecord 7 0 0 0 (s.get
    .MOD_WDOG_PERIOD) (allTiles (fun t s => safeRefresh t (s.set1 (.TILE_SAFE_WDOG t))) ((s.set1 .MOD_WDOG_EXPIRED).modSv (fun v =>
    { v with wdogDl := none }))))) ∧
  (∀ (s : State) (a : Nat), s.sv.wdogDl = some a → clk s < a ∨ s.sv.anyActive = false → exec .wdogExpiry s = .next s) ∧
  (∀ (s : State), s.sv.wdogDl = none → exec .wdogExpiry s = .next s)

/-- Maintenance permits (R514, R518 to R523) and the tiles' supplies and links (R176, R491, R492, R499, R540, R544). `permitAnswer` decides a request
by the matrix of R520 and the refusals of R521; PERMIT and FEED records go to the event queues. Times count clock edges (assumption log 6). -/
def Obligations.PermitsAndTiles : Prop :=
  (∀ (s : State) (r : Req), Admitted s r Reg.SV_CMD Msk.SV_CMD → permitAnswer s actSwitch = prGranted → exec (.switch r) s = .next (((permitDecide
    actSwitch prGranted s).set1 .SV_STAT_SWITCHING).modSv (fun v => { v with switchAt := some (clk s) }))) ∧
  (∀ (s : State) (r : Req), Admitted s r Reg.SV_CMD Msk.SV_CMD → permitAnswer s actSwitch ≠ prGranted → exec (.switch r) s = .next (permitDecide
    actSwitch (permitAnswer s actSwitch) s)) ∧
  (∀ (s : State) (r : Req), Admitted s r Reg.SV_CMD Msk.SV_CMD → permitAnswer s actDom = prGranted → hasStandby s = true → ∃ t, exec (.domtest r) s =
    .next t ∧ t.sv.stby = .testing ∧ t.sv.domAt = clk s ∧ permitHeld t actDom = true ∧ t.jcom = none ∧ t.jpend = [] ∧ t.get .SV_PERMIT_RESULT = prGranted
    ∧ t.get .SV_PERMIT_ACT = actDom ∧ t = { queuedFrom s t with sv := t.sv, pw := t.pw, ltrigs := t.ltrigs, jpend := t.jpend, jcom := t.jcom, ca := t.ca }
    ∧ ∀ a, queueReg a = false → ¬ (svReg a = true) → rd t a = rd s a) ∧
  (∀ (s : State) (r : Req), Admitted s r Reg.SV_CMD Msk.SV_CMD → permitAnswer s actDom ≠ prGranted → exec (.domtest r) s = .next (permitDecide actDom
    (permitAnswer s actDom) s)) ∧
  (∀ (s : State) (d : Dom), standbyDom s = some d → s.sv.stby = .testing → s.sv.domAt + 2 * tickS ≤ clk s → exec (.domtestEnd true) s = .next
    (rejoinBegin d s)) ∧
  (∀ (s : State) (d : Dom), standbyDom s = some d → s.sv.stby = .testing → exec (.domtestEnd false) s = .next (verdict d true fcDomtest s)) ∧
  (∀ (s : State), s.sv.stby = .testing → clk s < s.sv.domAt + 2 * tickS → exec (.domtestEnd true) s = .next s) ∧
  (∀ (s : State) (k : Bool), standbyDom s = none ∨ s.sv.stby ≠ .testing → exec (.domtestEnd k) s = .next s) ∧
  (∀ (s : State) (r : Req) (x : Fin 16), Admitted s r Reg.SV_CMD Msk.SV_CMD → feedAnswer s x = prGranted → exec (.feedtest r x) s = .next
    (((permitDecideT actFeed prGranted x s).set1 (.TILE_FEED_TEST x)).modSv (fun v => { v with feedTile := some x.val, feedAt := clk s }))) ∧
  (∀ (s : State) (r : Req) (x : Fin 16), Admitted s r Reg.SV_CMD Msk.SV_CMD → feedAnswer s x ≠ prGranted → exec (.feedtest r x) s = .next (permitDecideT
    actFeed (feedAnswer s x) x s)) ∧
  (∀ (s : State) (r : Req) (x : Fin 16), Admitted s r Reg.SV_CMD Msk.SV_CMD → s.is (.TILE_FEED_A_OK x) = false ∨ s.is (.TILE_FEED_B_OK x) = false → exec
    (.feedtest r x) s = .next (permitDecideT actFeed prNotAllowed x s)) ∧
  (∀ (s : State) (x : Nat), s.get .SV_CFG_FT_PER ≠ 0 → s.sv.anyActive = true → s.sv.ftAt ≤ clk s → nextFeedTile s = some x → feedAnswer s x = prGranted
    → exec .feedtestSchedule s = .next ((feedRequest x s).modSv (fun v =>
    { v with ftAt := clk s + s.get .SV_CFG_FT_PER * tick10min, ftNext := (x + 1) % 16 }))) ∧
  (∀ (s : State) (x : Nat), s.get .SV_CFG_FT_PER ≠ 0 → s.sv.anyActive = true → s.sv.ftAt ≤ clk s → nextFeedTile s = some x → feedAnswer s x ≠ prGranted
    → exec .feedtestSchedule s = .next ((permitDecideT actFeed (feedAnswer s x) x s).modSv (fun v => { v with ftAt := clk s + tick10min }))) ∧
  (∀ (s : State), s.get .SV_CFG_FT_PER ≠ 0 → s.sv.anyActive = true → s.sv.ftAt ≤ clk s → nextFeedTile s = none → exec .feedtestSchedule s = .next
    (s.modSv (fun v => { v with ftAt := clk s + tick10min }))) ∧
  (∀ (s : State), s.get .SV_CFG_FT_PER = 0 ∨ s.sv.anyActive = false ∨ clk s < s.sv.ftAt → exec .feedtestSchedule s = .next s) ∧
  (∀ (s : State) (x : Nat) (b : Bool), s.sv.feedTile = some x → s.sv.feedAt + tick10Ms ≤ clk s → exec (.feedtestEnd true b) s = .next (permitEndT
    actFeed prDone x (((s.put (.TILE_FEED_TEST x) 0).modSv (fun v => { v with feedTile := none })).modSv (fun v =>
    { v with ftPassed := v.ftPassed + 1 })))) ∧
  (∀ (s : State) (x : Nat) (b : Bool), s.sv.feedTile = some x → x < 16 → ∃ t, exec (.feedtestEnd false b) s = .next t ∧ t.sv.feedTile = none ∧
    t.sv.ftFailed = s.sv.ftFailed + 1 ∧ t.is (.TILE_FEED_TEST x) = false ∧ t.is (.TILE_FEED_TEST_FAIL x) = true ∧ t.is (if b then .TILE_FEED_B_OK x else
    .TILE_FEED_A_OK x) = false ∧ permitHeld t actFeed = false ∧ t.get .SV_PERMIT_RESULT = prFailed ∧ t = { queuedFrom s t with sv := t.sv, pw := t.pw } ∧
    ∀ a, queueReg a = false → a ≠ Reg.TILE_FEED x → ¬ (svReg a = true) → rd t a = rd s a) ∧
  (∀ (s : State) (b : Bool), s.sv.feedTile ≠ none → clk s < s.sv.feedAt + tick10Ms → exec (.feedtestEnd true b) s = .next s) ∧
  (∀ (s : State) (k b : Bool), s.sv.feedTile = none → exec (.feedtestEnd k b) s = .next s) ∧
  (∀ (s : State) (r : Req) (x : Fin 16), Admitted s r Reg.SV_CMD Msk.SV_CMD → permitAnswer s actLink = prGranted → standbyDom s = some .a → exec
    (.linktrain r x) s = .next ((outOfStep ((permitDecideT actLink prGranted x s).put (.TILE_FEED_LINK_A x) 0)).modSv (fun v =>
    { v with trainTile := some x.val }))) ∧
  (∀ (s : State) (r : Req) (x : Fin 16), Admitted s r Reg.SV_CMD Msk.SV_CMD → permitAnswer s actLink = prGranted → standbyDom s = some .b → exec
    (.linktrain r x) s = .next ((outOfStep ((permitDecideT actLink prGranted x s).put (.TILE_FEED_LINK_B x) 0)).modSv (fun v =>
    { v with trainTile := some x.val }))) ∧
  (∀ (s : State) (r : Req) (x : Fin 16), Admitted s r Reg.SV_CMD Msk.SV_CMD → permitAnswer s actLink ≠ prGranted → exec (.linktrain r x) s = .next
    (permitDecideT actLink (permitAnswer s actLink) x s)) ∧
  (∀ (s : State) (r : Req), Admitted s r Reg.SV_CMD Msk.SV_CMD → exec (.nvmwrite r) s = .next (permitDecide actNvm (permitAnswer s actNvm) s)) ∧
  (∀ (s : State) (r : Req), Admitted s r Reg.SV_CMD Msk.SV_CMD → permitHeld s actNvm = true → exec (.release r) s = .next (permitEnd actNvm prDone s)) ∧
  (∀ (s : State) (r : Req), Admitted s r Reg.SV_CMD Msk.SV_CMD → permitHeld s actNvm = false → exec (.release r) s = .next s) ∧
  (∀ (s : State) (x : Fin 16) (b ok : Bool) (k : Fin 4), s.is (if b then .TILE_FEED_B_OK x else .TILE_FEED_A_OK x) = ok → exec (.tileFeedChange x b ok
    k) s = .next (s.put (.TILE_FEED_CARRY x) k)) ∧
  (∀ (s : State) (x : Fin 16) (b ok : Bool) (k : Fin 4), s.is (if b then .TILE_FEED_B_OK x else .TILE_FEED_A_OK x) = !ok → (s.tile x).power = true ∨ ok
    = false → s.sv.anyActive = true → s.pw.power ≠ 4 → exec (.tileFeedChange x b ok k) s = .next (svRecord 6 (b2n ok) 0 x (if b then 2 else 1) ((s.putB
    (if b then .TILE_FEED_B_OK x else .TILE_FEED_A_OK x) ok).put (.TILE_FEED_CARRY x) k))) ∧
  (∀ (s : State) (x : Fin 16) (b ok : Bool) (k : Fin 4), s.is (if b then .TILE_FEED_B_OK x else .TILE_FEED_A_OK x) = !ok → (s.tile x).power = true ∨ ok
    = false → s.sv.anyActive = false ∨ s.pw.power = 4 → exec (.tileFeedChange x b ok k) s = .next ((s.putB (if b then .TILE_FEED_B_OK x else
    .TILE_FEED_A_OK x) ok).put (.TILE_FEED_CARRY x) k)) ∧
  (∀ (s : State) (x : Fin 16) (b : Bool) (k : Fin 4), s.is (if b then .TILE_FEED_B_OK x else .TILE_FEED_A_OK x) = false → (s.tile x).power = false →
    s.sv.anyActive = true → s.pw.power ≠ 4 → exec (.tileFeedChange x b true k) s = .next (tileStart x (svRecord 6 (1) 0 x (if b then 2 else 1) ((s.putB
    (if b then .TILE_FEED_B_OK x else .TILE_FEED_A_OK x) true).put (.TILE_FEED_CARRY x) k)))) ∧
  (∀ (s : State) (x : Fin 16) (b : Bool) (k : Fin 4), s.is (if b then .TILE_FEED_B_OK x else .TILE_FEED_A_OK x) = false → (s.tile x).power = false →
    s.sv.anyActive = false ∨ s.pw.power = 4 → exec (.tileFeedChange x b true k) s = .next (tileStart x ((s.putB (if b then .TILE_FEED_B_OK x else
    .TILE_FEED_A_OK x) true).put (.TILE_FEED_CARRY x) k))) ∧
  (∀ (s : State) (x : Fin 16) (b : Bool) (k : Fin 4), s.is (if b then .TILE_FEED_B_OK x else .TILE_FEED_A_OK x) = false → (s.tile x).power = false →
    s.pw.on = true → s.pw.power ≠ 4 → ∃ t, exec (.tileFeedChange x b true k) s = .next t ∧ (t.tile x).power = true ∧ t.is (if b then .TILE_FEED_B_OK x
    else .TILE_FEED_A_OK x) = true ∧ t.is (.TILE_SAFE_IMAGE x) = true ∧ t.is (.TILE_SAFE_RESET x) = true ∧ linkUp t x .a = false ∧ linkUp t x .b = false ∧
    t.pw = s.pw ∧ t.jcom = s.jcom ∧ t.flash = s.flash ∧ t.otp = s.otp) ∧
  (∀ (s : State) (x : Fin 16), (s.tile x).power = false → exec (.tilePowerLoss x) s = .next s) ∧
  (∀ (s : State) (x : Fin 16), (s.tile x).power = true → (s.tile x).sweep = false → exec (.tilePowerLoss x) s = .next (tileOff x s)) ∧
  (∀ (s : State) (x : Fin 16), (s.tile x).power = true → (s.tile x).sweep = true → exec (.tilePowerLoss x) s = .next (tileOff x (sweepEnd caAbandoned
    prAbandoned s))) ∧
  (∀ (s : State) (x : Fin 16), (s.tile x).power = true → (s.tile x).sweep = false → ∃ t, exec (.tilePowerLoss x) s = .next t ∧ (t.tile x).power = false
    ∧ (t.tile x).epoch = 0 ∧ (t.tile x).obey = none ∧ (t.tile x).clk = none ∧ (t.tile x).win = [] ∧ linkUp t x .a = false ∧ linkUp t x .b = false ∧
    (List.range 16).all (fun y => y == x.val || decide (t.tile y = s.tile y)) = true ∧ t.sv = s.sv ∧ t.pw = s.pw ∧ t.jcom = s.jcom ∧ t.queues = s.queues) ∧
  (∀ (s : State) (x : Fin 16) (d : Dom), linkUp s x d = true → standbyDom s ≠ some d → ∃ t, exec (.tileLinkLoss x d) s = .next t ∧ linkUp t x d = false
    ∧ linkUp t x (otherDom d) = linkUp s x (otherDom d) ∧ (byDom d ((t.tile x).lostA) ((t.tile x).lostB)) = true ∧ (tileUp t x = false → (t.tile x).slot =
    none) ∧ t = { s with regs := t.regs, ca := t.ca, tiles := t.tiles } ∧ ∀ a, a ≠ Reg.TILE_FEED x → ¬ (((0x10000 ≤ a ∧ a < 0x20000 ∧ a % 0x1000 = 0x24) ∨
    isAN ((a - 0x20000) / 0x100) = true)) → rd t a = rd s a) ∧
  (∀ (s : State) (x : Fin 16) (d : Dom), linkUp s x d = true → standbyDom s = some d → hasStandby s = true → ∃ t, exec (.tileLinkLoss x d) s = .next t ∧
    linkUp t x d = false ∧ (byDom d ((t.tile x).lostA) ((t.tile x).lostB)) = true ∧ t.sv.stby = .outOfStep ∧ t.jcom = none ∧ t.jpend = [] ∧ t.sv.ents =
    []) ∧
  (∀ (s : State) (x : Fin 16) (d : Dom), linkUp s x d = false → exec (.tileLinkLoss x d) s = .next s) ∧
  (∀ (s : State) (x : Fin 16) (d : Dom), linkUp s x d = true → exec (.tileLinkRetry x d) s = .next s) ∧
  (∀ (s : State) (x : Fin 16) (d : Dom), linkUp s x d = false → (s.tile x).power = false → s.pw.power = 0 → exec (.tileLinkRetry x d) s = .next
    (startFail 5 s)) ∧
  (∀ (s : State) (x : Fin 16) (d : Dom), linkUp s x d = false → (s.tile x).power = false → s.pw.power ≠ 0 → exec (.tileLinkRetry x d) s = .next s) ∧
  (∀ (s : State) (x : Fin 16) (d : Dom), linkUp s x d = false → (s.tile x).power = true → standbyDom s = some d → s.sv.trainTile = some x.val →
    permitHeld s actLink = true → exec (.tileLinkRetry x d) s = .next (verdict d true fcDomtest (s.modTile x (fun y => byDom d { y with retryA := true }
    { y with retryB := true })))) ∧
  (∀ (s : State) (x : Fin 16) (d : Dom), linkUp s x d = false → (s.tile x).power = true → ¬ (standbyDom s = some d ∧ s.sv.trainTile = some x.val ∧
    permitHeld s actLink = true) → s.pw.power ≠ 0 → exec (.tileLinkRetry x d) s = .next (s.modTile x (fun y => byDom d { y with retryA := true }
    { y with retryB := true }))) ∧
  (∀ (s : State) (x : Fin 16) (d : Dom), linkUp s x d = false → (s.tile x).power = true → ¬ (standbyDom s = some d ∧ s.sv.trainTile = some x.val ∧
    permitHeld s actLink = true) → s.pw.power = 0 → exec (.tileLinkRetry x d) s = .next (bootCheck (startFail 5 (s.modTile x (fun y => byDom d
    { y with retryA := true } { y with retryB := true }))))) ∧
  (∀ (s : State) (x : Fin 16) (d : Dom), linkUp s x d = false → (s.tile x).power = true → ¬ (standbyDom s = some d ∧ s.sv.trainTile = some x.val ∧
    permitHeld s actLink = true) → s.pw.power = 0 → s.get .BT_STAT_STATE = 0 → ∃ t, exec (.tileLinkRetry x d) s = .next t ∧ t.get .MOD_START_FAIL = max 5
    (s.get .MOD_START_FAIL) ∧ (byDom d ((t.tile x).retryA) ((t.tile x).retryB)) = true ∧ t = { s with regs := t.regs, tiles := t.tiles } ∧ ∀ a, a ≠
    Reg.MOD_START → rd t a = rd s a) ∧
  (∀ (s : State) (x : Fin 16) (d : Dom), (s.tile x).power = true → (s.tile x).clk = some d → exec (.tileClockSourceSwitch x) s = .next (s.modTile x (fun
    y => { y with clk := some (otherDom d) }))) ∧
  (∀ (s : State) (x : Fin 16), (s.tile x).power = false ∨ (s.tile x).clk = none → ∃ t, exec (.tileClockSourceSwitch x) s = .next t ∧ t.tile x = s.tile x
    ∧ t = { s with tiles := t.tiles })

/-- Power states (R530 to R538). `powerRow` is the command of each request; `powerAsk` says when it is served, `powerNow` that it is acted on at once.
The level an input goes on from after SLEEP is the model's choice (assumption log 82), as is the moment of a DOZE entry (assumption log 84). -/
def Obligations.PowerStates : Prop :=
  (∀ (s : State) (r : Req) (q : Fin 5), powerAsk s r q = false → q ≠ 0 → served s r Reg.MOD_POWER = false → exec (powerRow r q) s = .next s) ∧
  (∀ (s : State) (r : Req) (q : Fin 5), powerAsk s r q = true → s.pw.power = 0 ∨ s.pw.power = 5 ∨ s.pw.power = 6 → ∃ t, exec (powerRow r q) s = .next t
    ∧ t.get .MOD_POWER_RESULT = pwNotAllowed ∧ t.pw.woken = false ∧ t.pw.power = s.pw.power ∧ t = { s with regs := t.regs, pw := t.pw } ∧ ∀ a, a ≠
    Reg.MOD_POWER → a ≠ Reg.MOD_CFG_LOCK → rd t a = rd s a) ∧
  (∀ (s : State) (r : Req) (q : Fin 5), powerAsk s r q = true → 1 ≤ s.pw.power → s.pw.power ≤ 4 → roleChanging s = true → ∃ t, exec (powerRow r q) s =
    .next t ∧ t.get .MOD_POWER_RESULT = pwPending ∧ t.pw.pend = some q.val ∧ t.pw.woken = false ∧ t.pw.power = s.pw.power ∧ t =
    { s with regs := t.regs, pw := t.pw } ∧ ∀ a, a ≠ Reg.MOD_POWER → a ≠ Reg.MOD_CFG_LOCK → rd t a = rd s a) ∧
  (∀ (s : State) (r : Req) (q : Fin 5), powerAsk s r q = true → powerNow s = true → s.pw.power = q.val → ∃ t, exec (powerRow r q) s = .next t ∧ t.get
    .MOD_POWER_RESULT = pwOk ∧ t.pw.woken = false ∧ t.pw.power = s.pw.power ∧ t.pw.edge = s.pw.edge ∧ t.pw.pend = s.pw.pend ∧ t =
    { s with regs := t.regs, pw := t.pw } ∧ ∀ a, a ≠ Reg.MOD_POWER → a ≠ Reg.MOD_CFG_LOCK → rd t a = rd s a) ∧
  (∀ (s : State) (r : Req), powerAsk s r 3 = true → powerNow s = true → s.pw.power ≠ 3 → busyPermit s = false → ∃ t, exec (.powerReqDoze r) s = .next t
    ∧ t.pw.power = 3 ∧ t.get .MOD_POWER_RESULT = pwOk ∧ t.pw.edge = none ∧ t.sv.stby = stbyFor 3 s.sv.stby ∧ t.ca.calStep = 0 ∧ (List.range 16).all (fun x
    => t.is (.TILE_SAFE_DOZE x)) = true ∧ t.sv.roleA = s.sv.roleA ∧ t.sv.roleB = s.sv.roleB ∧ t.flash = s.flash ∧ t.otp = s.otp) ∧
  (∀ (s : State) (r : Req), powerAsk s r 3 = true → powerNow s = true → s.pw.power ≠ 3 → busyPermit s = true → ∃ t, exec (.powerReqDoze r) s = .next t ∧
    t.pw.power = s.pw.power ∧ t.get .MOD_POWER_RESULT = pwBusy ∧ t = { s with regs := t.regs, pw := t.pw } ∧ ∀ a, a ≠ Reg.MOD_POWER → a ≠ Reg.MOD_CFG_LOCK
    → rd t a = rd s a) ∧
  (∀ (s : State) (r : Req), powerAsk s r 4 = true → powerNow s = true → s.pw.power ≠ 4 → busyPermit s = false → s.get .MOD_POWER_ENTRY_WAIT ≠ 0 ∨ quiet
    s = true → ∃ t, exec (.powerReqSleep r) s = .next t ∧ t.pw.sleepReq = true ∧ t.pw.sleepAt = clk s ∧ t.get .MOD_POWER_RESULT = pwPending ∧ t.pw.power =
    s.pw.power ∧ t = { s with regs := t.regs, pw := t.pw } ∧ ∀ a, a ≠ Reg.MOD_POWER → a ≠ Reg.MOD_CFG_LOCK → rd t a = rd s a) ∧
  (∀ (s : State) (r : Req), powerAsk s r 4 = true → powerNow s = true → s.pw.power ≠ 4 → busyPermit s = true ∨ (s.get .MOD_POWER_ENTRY_WAIT = 0 ∧ quiet
    s = false) → ∃ t, exec (.powerReqSleep r) s = .next t ∧ t.pw.sleepReq = s.pw.sleepReq ∧ t.get .MOD_POWER_RESULT = pwBusy ∧ t.pw.power = s.pw.power ∧ t
    = { s with regs := t.regs, pw := t.pw } ∧ ∀ a, a ≠ Reg.MOD_POWER → a ≠ Reg.MOD_CFG_LOCK → rd t a = rd s a) ∧
  (∀ (s : State) (r : Req), powerAsk s r 1 = true → powerNow s = true → s.pw.power ≠ 1 → s.pw.power ≠ 3 → caRuns s = false → ∃ t, exec (.powerReqRun r)
    s = .next t ∧ t.pw.edge = some 1 ∧ t.pw.pend = none ∧ t.get .MOD_POWER_RESULT = pwOk ∧ t.pw.power = s.pw.power ∧ t =
    { s with regs := t.regs, pw := t.pw } ∧ ∀ a, a ≠ Reg.MOD_POWER → a ≠ Reg.MOD_CFG_LOCK → rd t a = rd s a) ∧
  (∀ (s : State) (r : Req), powerAsk s r 1 = true → powerNow s = true → s.pw.power ≠ 1 → s.pw.power ≠ 3 → caRuns s = true → ∃ t, exec (.powerReqRun r) s
    = .next t ∧ t.pw.pend = some 1 ∧ t.pw.edge = s.pw.edge ∧ t.get .MOD_POWER_RESULT = pwPending ∧ t.pw.power = s.pw.power ∧ t =
    { s with regs := t.regs, pw := t.pw } ∧ ∀ a, a ≠ Reg.MOD_POWER → a ≠ Reg.MOD_CFG_LOCK → rd t a = rd s a) ∧
  (∀ (s : State) (r : Req), powerAsk s r 1 = true → powerNow s = true → s.pw.power ≠ 1 → s.pw.power = 3 → ∃ t, exec (.powerReqRun r) s = .next t ∧
    t.pw.power = 1 ∧ t.get .MOD_POWER_RESULT = pwOk ∧ (List.range 16).all (fun x => !t.is (.TILE_SAFE_DOZE x)) = true ∧ t.sv.roleA = s.sv.roleA ∧
    t.sv.roleB = s.sv.roleB ∧ t.flash = s.flash ∧ t.otp = s.otp) ∧
  (∀ (s : State) (r : Req), powerAsk s r 2 = true → powerNow s = true → s.pw.power ≠ 2 → s.pw.power ≠ 3 → caRuns s = false → ∃ t, exec (.powerReqLean r)
    s = .next t ∧ t.pw.edge = some 2 ∧ t.pw.pend = none ∧ t.get .MOD_POWER_RESULT = pwOk ∧ t.pw.power = s.pw.power ∧ t =
    { s with regs := t.regs, pw := t.pw } ∧ ∀ a, a ≠ Reg.MOD_POWER → a ≠ Reg.MOD_CFG_LOCK → rd t a = rd s a) ∧
  (∀ (s : State) (r : Req), powerAsk s r 2 = true → powerNow s = true → s.pw.power ≠ 2 → s.pw.power ≠ 3 → caRuns s = true → ∃ t, exec (.powerReqLean r)
    s = .next t ∧ t.pw.pend = some 2 ∧ t.pw.edge = s.pw.edge ∧ t.get .MOD_POWER_RESULT = pwPending ∧ t.pw.power = s.pw.power ∧ t =
    { s with regs := t.regs, pw := t.pw } ∧ ∀ a, a ≠ Reg.MOD_POWER → a ≠ Reg.MOD_CFG_LOCK → rd t a = rd s a) ∧
  (∀ (s : State) (r : Req), powerAsk s r 2 = true → powerNow s = true → s.pw.power ≠ 2 → s.pw.power = 3 → ∃ t, exec (.powerReqLean r) s = .next t ∧
    t.pw.power = 2 ∧ t.get .MOD_POWER_RESULT = pwOk ∧ (List.range 16).all (fun x => !t.is (.TILE_SAFE_DOZE x)) = true ∧ t.sv.roleA = s.sv.roleA ∧
    t.sv.roleB = s.sv.roleB ∧ t.flash = s.flash ∧ t.otp = s.otp) ∧
  (∀ (s : State) (q : Nat), switchDue s = some q → acqRuns s = true → now s % 64 = 0 → ∃ t, exec .leanSwitch s = .next t ∧ t.pw.power = q ∧ t.get
    .MOD_POWER_RESULT = pwOk ∧ t.pw.edge = none ∧ t.pw.pend = none ∧ t.sv.stby = stbyFor q s.sv.stby ∧ t.sv.roleA = s.sv.roleA ∧ t.sv.roleB = s.sv.roleB ∧
    t.queues = s.queues ∧ t.flash = s.flash ∧ t.ctxs = s.ctxs ∧ t.cans = s.cans) ∧
  (∀ (s : State) (q : Nat), switchDue s = some q → acqRuns s = true → now s % 64 = 0 → exec .leanSwitch s = .next (powerResult pwOk (syncApplyAt (now s)
    (2 ^ srcLean) false ((setPower q (s.modPw (fun w => { w with edge := none, pend := none }))).each anChs fcRefresh)))) ∧
  (∀ (s : State), switchDue s = none ∨ acqRuns s = false ∨ now s % 64 ≠ 0 → exec .leanSwitch s = .next s) ∧
  (∀ (s : State) (d : Dom), s.pw.sleepReq = true → quiet s = true → roleChanging s = false → activeDom s = some d → roleOf s (otherDom d) = .standby → ∃
    t, exec .sleepEntry s = .next t ∧ t.pw.power = 4 ∧ t.get .MOD_POWER_RESULT = pwOk ∧ t.pw.sleepReq = false ∧ t.pw.planned = true ∧ roleOf t (otherDom
    d) = .absent ∧ roleOf t d = .active ∧ t.sv.stby = .none ∧ t.jcom = none ∧ t.jpend = [] ∧ t.csn.closed = true ∧ (List.range 16).all (fun x => !(t.tile
    x).power && !linkUp t x .a && !linkUp t x .b) = true ∧ t.flash = s.flash ∧ t.otp = s.otp) ∧
  (∀ (s : State), s.pw.sleepReq = true → quiet s = true → roleChanging s = false → exec .sleepEntry s = .next (enterSleep s)) ∧
  (∀ (s : State), s.pw.sleepReq = false ∨ quiet s = false ∨ roleChanging s = true → exec .sleepEntry s = .next s) ∧
  (∀ (s : State), s.pw.sleepReq = true → quiet s = false → s.pw.sleepAt + s.get .MOD_POWER_ENTRY_WAIT * tickS ≤ clk s → exec .sleepEntryTimeout s =
    .next (powerResult pwBusy (s.modPw (fun w => { w with sleepReq := false })))) ∧
  (∀ (s : State), s.pw.sleepReq = false ∨ quiet s = true ∨ clk s < s.pw.sleepAt + s.get .MOD_POWER_ENTRY_WAIT * tickS → exec .sleepEntryTimeout s =
    .next s) ∧
  (∀ (s : State), s.pw.woken = true → s.get .MOD_POWER_IDLE_SLEEP ≠ 0 → 1 ≤ s.pw.power → s.pw.power ≤ 3 → quiet s = true → roleChanging s = false →
    s.pw.quietAt + s.get .MOD_POWER_IDLE_SLEEP * tickS ≤ clk s → ∃ t, exec .idleSleepReturn s = .next t ∧ t.pw.power = 4 ∧ t.get .MOD_POWER_RESULT = pwOk
    ∧ t.pw.sleepReq = false ∧ t.sv.stby = .none ∧ t.jcom = none ∧ t.flash = s.flash) ∧
  (∀ (s : State), s.pw.woken = true → s.get .MOD_POWER_IDLE_SLEEP ≠ 0 → 1 ≤ s.pw.power → s.pw.power ≤ 3 → quiet s = true → roleChanging s = false →
    s.pw.quietAt + s.get .MOD_POWER_IDLE_SLEEP * tickS ≤ clk s → exec .idleSleepReturn s = .next (enterSleep s)) ∧
  (∀ (s : State), s.pw.woken = false ∨ s.get .MOD_POWER_IDLE_SLEEP = 0 ∨ s.pw.power = 0 ∨ 3 < s.pw.power ∨ quiet s = false ∨ roleChanging s = true ∨ clk
    s < s.pw.quietAt + s.get .MOD_POWER_IDLE_SLEEP * tickS → exec .idleSleepReturn s = .next s) ∧
  (∀ (s : State) (b : Bool), s.is .MOD_POWER_WAKE_EN = true → s.is .MOD_POWER_WAKE_POL = !b → exec (.wakeLandEdge b) s = .next (noteWake 2 0 s)) ∧
  (∀ (s : State) (b : Bool), s.is .MOD_POWER_WAKE_EN = true → s.is .MOD_POWER_WAKE_POL = !b → s.pw.power = 4 → s.pw.wake = none → exec (.wakeLandEdge b)
    s = .next (s.modPw (fun w => { w with wake := some (2, 0) }))) ∧
  (∀ (s : State) (b : Bool), s.is .MOD_POWER_WAKE_EN = true → s.is .MOD_POWER_WAKE_POL = !b → s.pw.power = 3 → ∃ t, exec (.wakeLandEdge b) s = .next t ∧
    t.pw.power = wakeTo s ∧ t.sv.roleA = s.sv.roleA ∧ t.sv.roleB = s.sv.roleB ∧ t.flash = s.flash) ∧
  (∀ (s : State) (b : Bool), s.is .MOD_POWER_WAKE_EN = true → s.is .MOD_POWER_WAKE_POL = !b → s.pw.power ≠ 3 → s.pw.power ≠ 4 ∨ s.pw.wake ≠ none → exec
    (.wakeLandEdge b) s = .next s) ∧
  (∀ (s : State) (b : Bool), s.is .MOD_POWER_WAKE_EN = false ∨ s.is .MOD_POWER_WAKE_POL = b → exec (.wakeLandEdge b) s = .next s) ∧
  (∀ (s : State) (k x : Nat), s.pw.power = 4 → s.pw.wake = some (k, x) → ∃ t, exec .sleepWake s = .next t ∧ t.pw.power = 5 ∧ t.pw.wake = none ∧
    t.pw.woken = true ∧ t.pw.slept = [] ∧ t.pw.quietAt = clk s ∧ (List.range 16).all (fun y => !tileFed s y || (t.tile y).power && t.is (.TILE_SAFE_IMAGE
    y)) = true ∧ t.sv.roleA = s.sv.roleA ∧ t.sv.roleB = s.sv.roleB ∧ t.sv.stby = s.sv.stby ∧ t.flash = s.flash) ∧
  (∀ (s : State), s.pw.power ≠ 4 ∨ s.pw.wake = none → exec .sleepWake s = .next s) ∧
  (∀ (s : State), s.pw.power = 5 → ∃ t, exec .wakeComplete s = .next t ∧ t.pw.power = wakeTo s ∧ t.sv.roleA = s.sv.roleA ∧ t.sv.roleB = s.sv.roleB ∧
    t.sv.stby = stbyFor (wakeTo s) s.sv.stby ∧ t.flash = s.flash ∧ t.otp = s.otp ∧ t.jcom = s.jcom) ∧
  (∀ (s : State), s.pw.power ≠ 5 → exec .wakeComplete s = .next s)

/-- The start (R539, R540), the apply pass (R46, R47) and resets (R541 to R547). `coldReset` and `warmReset` keep what R545 lets stay; `loadRec` and
`loadLock` apply a record of the domain's copy of the image. A released domain is STANDBY until the image is applied (assumption log 47). -/
def Obligations.StartsAndResets : Prop :=
  (∀ (s : State) (a b : Bool), s.pw.on = false → (a || b) = true → ∃ t, exec (.powerOn a b) s = .next t ∧ t.pw.on = true ∧ t.pw.power = 0 ∧ t.get
    .MOD_START_STEP = 1 ∧ t.get .MOD_START_CAUSE = 0 ∧ t.flash = s.flash ∧ t.otp = s.otp ∧ t.free = s.free ∧ t.sv.feedA = a ∧ t.sv.feedB = b ∧
    t.sv.anyActive = false ∧ t.sv.roleA = .absent ∧ t.sv.roleB = .absent ∧ t.ctxs = [] ∧ t.cans = [] ∧ t.queues = [] ∧ t.jcom = none) ∧
  (∀ (s : State) (a b : Bool), s.pw.on = true ∨ (a || b) = false → exec (.powerOn a b) s = .next s) ∧
  (∀ (s : State) (a b : Bool), s.pw.on = true → s.get .MOD_START_STEP = 1 ∨ bothFailed s = true → (a || b) = true → ∃ t, exec (.domainRelease a b) s =
    .next t ∧ t.sv.roleA = (if a then .standby else .absent) ∧ t.sv.roleB = (if b then .standby else .absent) ∧ t.sv.feedA = a ∧ t.sv.feedB = b ∧ t.get
    .MOD_START_STEP = 2 ∧ t.pw.drv = (if a then .a else .b) ∧ t.get .MOD_START_CAUSE = (if a ≠ b ∧ s.get .MOD_START_CAUSE = 0 then 1 else s.get
    .MOD_START_CAUSE) ∧ t = { s with regs := t.regs, sv := t.sv, pw := t.pw } ∧ ∀ a, a ≠ Reg.MOD_START → rd t a = rd s a) ∧
  (∀ (s : State), s.pw.on = true → s.get .MOD_START_STEP = 1 ∨ bothFailed s = true → exec (.domainRelease false false) s = .next (s.modSv (fun v =>
    { v with feedA := false, feedB := false }))) ∧
  (∀ (s : State) (a b : Bool), s.pw.on = false ∨ (s.get .MOD_START_STEP ≠ 1 ∧ bothFailed s = false) → exec (.domainRelease a b) s = .next s) ∧
  (∀ (s : State) (land : Bool) (tm : BitVec 16) (x : Nat) (r : BootRep) (b c : State), s.bt.apply = some x → repHere s (bootDom s) = some r → s.get
    .BT_STAT_STATE = 0 → b = rolesStart (showImage x tm.toNat r (unitsStart land ((s.each ((imgRecords r.copy x).getD []) loadRec).each ((imgRecords
    r.copy x).getD []) loadLock))) → c = startStep 4 (b.modBt (fun y => { y with apply := none, repA := none, repB := none })) → exec (.applyPass land tm)
    s = .next (bootCheck (tilesRelease (pairsChecked (if (standbyDom c).isSome then { c with jcom := some (snapOf 0 c) } else c))))) ∧
  (∀ (s : State) (land : Bool) (tm : BitVec 16) (x : Nat) (r : BootRep), s.bt.apply = some x → repHere s (bootDom s) = some r → s.get .BT_STAT_STATE = 0
    → ∃ t, exec (.applyPass land tm) s = .next t ∧ t.get .BT_STAT_STATE = 1 ∧ t.bt.apply = none ∧ t.bt.repA = none ∧ t.bt.repB = none ∧ t.flash = s.flash) ∧
  (∀ (s : State) (land : Bool) (tm : BitVec 16), s.bt.apply = none ∨ repHere s (bootDom s) = none ∨ s.get .BT_STAT_STATE ≠ 0 → exec (.applyPass land tm)
    s = .next s) ∧
  (∀ (s : State) (x : Fin 16) (d : Dom), (s.tile x).power = false → exec (.tileLinkTrained x d) s = .next s) ∧
  (∀ (s : State) (x : Fin 16) (d : Dom), (s.tile x).power = true → activeDom s ≠ some d ∨ s.get .BT_STAT_STATE ≠ 1 → exec (.tileLinkTrained x d) s =
    .next (byDom d ((s.set1 (.TILE_FEED_LINK_A x)).modTile x (fun y => { y with lostA := false, retryA := false })) ((s.set1 (.TILE_FEED_LINK_B
    x)).modTile x (fun y => { y with lostB := false, retryB := false })))) ∧
  (∀ (s : State) (x : Fin 16) (d : Dom), (s.tile x).power = true → activeDom s = some d → s.get .BT_STAT_STATE = 1 → s.pw.power ≠ 0 → ∃ t, exec
    (.tileLinkTrained x d) s = .next t ∧ linkUp t x d = true ∧ t.is (.TILE_SAFE_IMAGE x) = false ∧ t.is (.TILE_SAFE_CNT_GAP x) = ((s.tile x).woke || s.is
    (.TILE_SAFE_CNT_GAP x)) ∧ (t.tile x).woke = false ∧ (byDom d ((t.tile x).retryA) ((t.tile x).retryB)) = false ∧ t.pw = s.pw ∧ t.sv = s.sv ∧ t.jcom =
    s.jcom ∧ t.queues = s.queues ∧ t.flash = s.flash) ∧
  (∀ (s : State) (x : Fin 16) (d : Dom), (s.tile x).power = true → activeDom s = some d → s.get .BT_STAT_STATE = 1 → s.pw.power = 0 → s.sv.anyActive =
    true → (List.range 16).all (fun y => y == x.val || linkSeen s y) = true → ∃ t, exec (.tileLinkTrained x d) s = .next t ∧ linkUp t x d = true ∧
    t.pw.power = powerNamed (s.get .MOD_POWER_BOOT) ∧ t.get .MOD_START_STEP = max 6 (s.get .MOD_START_STEP) ∧ t.is (.TILE_SAFE_IMAGE x) = false) ∧
  (∀ (s : State), s.pw.on = true → exec .resetN s = .next (coldReset 2 s)) ∧
  (∀ (s : State), s.pw.on = true → (s.sv.feedA || s.sv.feedB) = true → ∃ t, exec .resetN s = .next t ∧ t.get .MOD_START_CAUSE = 2 ∧ t.get
    .MOD_START_STEP = 2 ∧ t.pw.power = 0 ∧ t.sv.anyActive = false ∧ t.sv.epoch = s.sv.epoch ∧ t.sv.roleA = (if s.sv.feedA then .standby else .absent) ∧
    t.sv.roleB = (if s.sv.feedB then .standby else .absent) ∧ t.tu.edges = s.tu.edges ∧ t.queues = [] ∧ t.ctxs = [] ∧ t.cans = []) ∧
  (∀ (s : State), s.pw.on = false → exec .resetN s = .next s) ∧
  (∀ (s : State) (r : Req), Admitted s r Reg.MOD_RESET Msk.MOD_RESET → s.pw.on = true → exec (.cold r 0xA55A) s = .next (coldReset 3 s)) ∧
  (∀ (s : State) (r : Req), Admitted s r Reg.MOD_RESET Msk.MOD_RESET → s.pw.on = true → (s.sv.feedA || s.sv.feedB) = true → ∃ t, exec (.cold r 0xA55A) s
    = .next t ∧ t.get .MOD_START_CAUSE = 3 ∧ t.get .MOD_START_STEP = 2 ∧ t.pw.power = 0 ∧ t.sv.anyActive = false ∧ t.sv.epoch = s.sv.epoch) ∧
  (∀ (s : State) (r : Req), Admitted s r Reg.MOD_RESET Msk.MOD_RESET → s.pw.on = false → exec (.cold r 0xA55A) s = .next s) ∧
  (∀ (s : State) (r : Req) (k : BitVec 16), Admitted s r Reg.MOD_RESET Msk.MOD_RESET → k ≠ 0xA55A → exec (.cold r k) s = .next (s.set1
    .MOD_START_IGNORED)) ∧
  (∀ (s : State) (r : Req), Admitted s r Reg.MOD_RESET Msk.MOD_RESET → s.pw.on = true → exec (.warm r 0xA55A) s = .next (warmReset s)) ∧
  (∀ (s : State) (r : Req), Admitted s r Reg.MOD_RESET Msk.MOD_RESET → s.pw.on = true → s.sp1.run = [] → s.sv.stby = .none → ∃ t, exec (.warm r 0xA55A)
    s = .next t ∧ t.get .MOD_START_CAUSE = 5 ∧ t.sv.roleA = s.sv.roleA ∧ t.sv.roleB = s.sv.roleB ∧ t.sv.anyActive = s.sv.anyActive ∧ t.sv.epoch =
    s.sv.epoch ∧ t.otp = s.otp ∧ t.flash = s.flash ∧ t.qmem = s.qmem ∧ t.tu.acc = s.tu.acc ∧ t.pw.power = s.pw.power ∧ t.rsh = [] ∧ t.wsh = [] ∧ t.jpend =
    []) ∧
  (∀ (s : State) (r : Req), Admitted s r Reg.MOD_RESET Msk.MOD_RESET → s.pw.on = false → exec (.warm r 0xA55A) s = .next s) ∧
  (∀ (s : State) (r : Req) (k : BitVec 16), Admitted s r Reg.MOD_RESET Msk.MOD_RESET → k ≠ 0xA55A → exec (.warm r k) s = .next (s.set1
    .MOD_START_IGNORED)) ∧
  (∀ (s : State) (r : Req) (x : Fin 16), Admitted s r (Reg.TILE_RST x) Msk.TILE_RST → (s.tile x).power = true → exec (.tileRst r x 0xA55A) s = .next
    (tileReset x s)) ∧
  (∀ (s : State) (r : Req) (x : Fin 16), Admitted s r (Reg.TILE_RST x) Msk.TILE_RST → (s.tile x).power = true → (s.tile x).sweep = false → ∃ t, exec
    (.tileRst r x 0xA55A) s = .next t ∧ t.is (.TILE_SAFE_IMAGE x) = true ∧ t.is (.TILE_SAFE_RESET x) = true ∧ t.is (.TILE_SAFE_HOLD x) = false ∧ t.is
    (.TILE_SAFE_CNT_GAP x) = false ∧ linkUp t x .a = false ∧ linkUp t x .b = false ∧ (t.tile x).epoch = 0 ∧ (t.tile x).power = true ∧ (List.range 8).all
    (fun k => rd t (Reg.CH_DI_EDGES (16 * x + k)) == 0) = true ∧ t.sv = s.sv ∧ t.pw = s.pw ∧ t.queues = s.queues ∧ t.flash = s.flash ∧ t.jcom = s.jcom) ∧
  (∀ (s : State) (r : Req) (x : Fin 16) (k : BitVec 16), Admitted s r (Reg.TILE_RST x) Msk.TILE_RST → k ≠ 0xA55A ∨ (s.tile x).power = false → exec
    (.tileRst r x k) s = .next s)

end
end

