-- ==== Sys2Proof/Laws/Bits.lean ====
section
/-! SUPPORT. The laws of bit fields: a field that is written reads as written, every other field as before. -/

namespace Sys2Proof.Machine

theorem testBit_nbits (n hi lo i : Nat) : (nbits n hi lo).testBit i = (decide (i < hi + 1 - lo) && n.testBit (lo + i)) := by
  simp [nbits, Nat.testBit_mod_two_pow, Nat.testBit_div_two_pow, Nat.add_comm]

theorem testBit_setBits (w : Word) (hi lo v i : Nat) (hl : lo ≤ hi) :
    (setBits w hi lo v).toNat.testBit i =
      (decide (i < 32) && if lo ≤ i ∧ i ≤ hi then v.testBit (i - lo) else w.toNat.testBit i) := by
  have e : w.toNat / 2 ^ (hi + 1) * 2 ^ (hi + 1) + v % 2 ^ (hi + 1 - lo) * 2 ^ lo + w.toNat % 2 ^ lo
      = 2 ^ (hi + 1) * (w.toNat / 2 ^ (hi + 1)) + (2 ^ lo * (v % 2 ^ (hi + 1 - lo)) + w.toNat % 2 ^ lo) := by ring
  have h1 : w.toNat % 2 ^ lo < 2 ^ lo := Nat.mod_lt _ (by positivity)
  have h2 : 2 ^ lo * (v % 2 ^ (hi + 1 - lo)) + w.toNat % 2 ^ lo < 2 ^ (hi + 1) := by
    have : v % 2 ^ (hi + 1 - lo) + 1 ≤ 2 ^ (hi + 1 - lo) := Nat.mod_lt _ (by positivity)
    calc _ < 2 ^ lo * (v % 2 ^ (hi + 1 - lo)) + 2 ^ lo := by omega
      _ = 2 ^ lo * (v % 2 ^ (hi + 1 - lo) + 1) := by ring
      _ ≤ 2 ^ lo * 2 ^ (hi + 1 - lo) := Nat.mul_le_mul_left _ this
      _ = 2 ^ (hi + 1) := by rw [← pow_add]; congr 1; omega
  simp only [setBits, BitVec.toNat_ofNat, Nat.testBit_mod_two_pow, e]
  rw [Nat.testBit_two_pow_mul_add _ h2, Nat.testBit_two_pow_mul_add _ h1]
  congr 1
  by_cases c1 : i < hi + 1
  · by_cases c2 : i < lo
    · simp [c1, c2, Nat.testBit_mod_two_pow]
    · have : i - lo < hi + 1 - lo := by omega
      simp [c1, c2, Nat.testBit_mod_two_pow, this]
      omega
  · simp only [c1, if_false, Nat.testBit_div_two_pow]
    rw [if_neg (by omega)]
    congr 1; omega

theorem bits_setBits (w : Word) (hi lo v : Nat) (hl : lo ≤ hi) (h : hi < 32) :
    bits (setBits w hi lo v) hi lo = v % 2 ^ (hi + 1 - lo) := by
  refine Nat.eq_of_testBit_eq fun i => ?_
  simp only [bits, testBit_nbits, testBit_setBits _ _ _ _ _ hl, Nat.testBit_mod_two_pow]
  by_cases c : i < hi + 1 - lo
  · simp [c, show lo + i < 32 by omega, show lo + i ≤ hi by omega]
  · simp [c]

theorem bits_setBits_ne (w : Word) (hi lo v hi' lo' : Nat) (hl : lo ≤ hi) (h : hi' < 32) (d : hi' < lo ∨ hi < lo') :
    bits (setBits w hi lo v) hi' lo' = bits w hi' lo' := by
  refine Nat.eq_of_testBit_eq fun i => ?_
  simp only [bits, testBit_nbits, testBit_setBits _ _ _ _ _ hl]
  by_cases c : i < hi' + 1 - lo'
  · rw [if_neg (by omega)]
    simp [show lo' + i < 32 by omega]
  · simp [c]

/-- A field's value fits its width. -/
theorem bits_lt (w : Word) (hi lo : Nat) : bits w hi lo < 2 ^ (hi + 1 - lo) := Nat.mod_lt _ (by positivity)

end Sys2Proof.Machine
end

