-- ==== Sys2Proof/Laws/Map.lean ====
section
/-! SUPPORT. The laws of a sparse store: what a write changes, and that every operation keeps the canonical form. -/

namespace Sys2Proof.Machine

variable {α : Type}

/-- Reading past an inserted pair. -/
theorem kget_kins (d v : α) (k j : Nat) (m : KMap α) (h : ∀ p ∈ m, p.1 ≠ k) :
    kget d (kins k v m) j = if j = k then v else kget d m j := by
  induction m with
  | nil => simp [kins, kget]
  | cons p m ih =>
    obtain ⟨i, w⟩ := p
    have hi : i ≠ k := h (i, w) (by simp)
    have ih := ih (fun q hq => h q (by simp [hq]))
    simp only [kins]
    split
    · simp only [kget]
    · simp only [kget, ih]
      by_cases hj : j = i
      · subst hj; simp [hi]
      · simp [hj]

/-- Reading a store from which a key has been taken out. -/
theorem kget_filter_ne (d : α) (k j : Nat) (m : KMap α) :
    kget d (m.filter (fun p => p.1 ≠ k)) j = if j = k then d else kget d m j := by
  induction m with
  | nil => simp [kget]
  | cons p m ih =>
    obtain ⟨i, w⟩ := p
    by_cases hi : i = k
    · subst hi
      simp only [List.filter_cons, ne_eq, not_true_eq_false, decide_false, Bool.false_eq_true, if_false]
      simp only [ne_eq] at ih
      rw [ih]
      by_cases hj : j = i <;> simp [kget, hj]
    · simp only [List.filter_cons, ne_eq, hi, not_false_eq_true, decide_true, if_true]
      simp only [ne_eq] at ih
      simp only [kget, ih]
      by_cases hj : j = i
      · subst hj; simp [hi]
      · simp [hj]

variable [DecidableEq α]

/-- The one law of a write: the key holds the value, every other key what it held. -/
theorem kget_kset (d v : α) (k j : Nat) (m : KMap α) :
    kget d (kset d m k v) j = if j = k then v else kget d m j := by
  unfold kset
  split
  · next h => subst h; exact kget_filter_ne v k j m
  · rw [kget_kins]
    · rw [kget_filter_ne]
      by_cases hj : j = k <;> simp [hj]
    · intro p hp; simpa using (List.mem_filter.mp hp).2

@[simp] theorem kget_kset_same (d v : α) (k : Nat) (m : KMap α) : kget d (kset d m k v) k = v := by
  simp [kget_kset]

theorem kget_kset_ne (d d' v : α) (k j : Nat) (m : KMap α) (h : j ≠ k) :
    kget d (kset d' m k v) j = kget d m j := by
  have e : ∀ l : KMap α, kget d (l.filter (fun p => p.1 ≠ k)) j = kget d l j := fun l => by
    rw [kget_filter_ne]; simp [h]
  unfold kset
  split
  · exact e m
  · rw [kget_kins]
    · simp only [h, if_false]; exact e m
    · intro p hp; simpa using (List.mem_filter.mp hp).2

theorem kwfAbove_iff (dflt : Nat → α) (b : Option Nat) (m : KMap α) :
    kwfAbove dflt b m = true ↔
      (∀ x, b = some x → ∀ p ∈ m, x < p.1) ∧ m.Pairwise (fun p q => p.1 < q.1) ∧ ∀ p ∈ m, p.2 ≠ dflt p.1 := by
  induction m generalizing b with
  | nil => simp [kwfAbove]
  | cons p m ih =>
    obtain ⟨i, w⟩ := p
    cases b with
    | none =>
      simp only [kwfAbove, Bool.true_and, Bool.and_eq_true, decide_eq_true_eq, ih, List.pairwise_cons]
      constructor
      · rintro ⟨hw, h1, h2, h3⟩
        refine ⟨by simp, ⟨fun q hq => h1 i rfl q hq, h2⟩, ?_⟩
        simpa using ⟨hw, fun a b => h3 (a, b)⟩
      · rintro ⟨-, ⟨h1, h2⟩, h3⟩
        exact ⟨h3 (i, w) (by simp), fun x hx q hq => by cases hx; exact h1 q hq, h2, fun q hq => h3 q (by simp [hq])⟩
    | some x =>
      simp only [kwfAbove, Bool.and_eq_true, decide_eq_true_eq, ih, List.pairwise_cons]
      constructor
      · rintro ⟨⟨hx, hw⟩, h1, h2, h3⟩
        refine ⟨?_, ⟨fun q hq => h1 i rfl q hq, h2⟩, ?_⟩
        · rintro y hy q hq
          cases hy
          rcases List.mem_cons.mp hq with rfl | hq
          · exact hx
          · exact lt_trans hx (h1 i rfl q hq)
        · simpa using ⟨hw, fun a b => h3 (a, b)⟩
      · rintro ⟨h0, ⟨h1, h2⟩, h3⟩
        exact ⟨⟨h0 x rfl (i, w) (by simp), h3 (i, w) (by simp)⟩,
          fun y hy q hq => by cases hy; exact h1 q hq, h2, fun q hq => h3 q (by simp [hq])⟩

/-- The canonical form: the keys rise strictly, and nothing listed equals what its key reads as unlisted. -/
theorem kwf_iff (dflt : Nat → α) (m : KMap α) :
    kwf dflt m = true ↔ m.Pairwise (fun p q => p.1 < q.1) ∧ ∀ p ∈ m, p.2 ≠ dflt p.1 := by
  simp [kwf, kwfAbove_iff]

@[simp] theorem kwf_nil (dflt : Nat → α) : kwf dflt [] = true := rfl

theorem kwf_filter (dflt : Nat → α) (m : KMap α) (q : Nat × α → Bool) (h : kwf dflt m = true) :
    kwf dflt (m.filter q) = true := by
  rw [kwf_iff] at h ⊢
  exact ⟨h.1.filter q, fun p hp => h.2 p (List.mem_filter.mp hp).1⟩

theorem mem_kins (k : Nat) (v : α) (m : KMap α) (p : Nat × α) : p ∈ kins k v m ↔ p = (k, v) ∨ p ∈ m := by
  induction m with
  | nil => simp [kins]
  | cons q m ih =>
    obtain ⟨i, w⟩ := q
    simp only [kins]
    split
    · simp
    · simp only [List.mem_cons, ih]; tauto

theorem pairwise_kins (k : Nat) (v : α) (m : KMap α) (h : m.Pairwise (fun p q => p.1 < q.1)) (hk : ∀ p ∈ m, p.1 ≠ k) :
    (kins k v m).Pairwise (fun p q => p.1 < q.1) := by
  induction m with
  | nil => simp [kins]
  | cons q m ih =>
    obtain ⟨i, w⟩ := q
    rw [List.pairwise_cons] at h
    simp only [kins]
    split
    · next hlt =>
      refine List.pairwise_cons.mpr ⟨fun p hp => ?_, List.pairwise_cons.mpr h⟩
      rcases List.mem_cons.mp hp with rfl | hp
      · exact hlt
      · exact lt_trans hlt (h.1 p hp)
    · next hge =>
      refine List.pairwise_cons.mpr ⟨fun p hp => ?_, ih h.2 (fun p hp => hk p (by simp [hp]))⟩
      rcases (mem_kins k v m p).mp hp with rfl | hp
      · have := hk (i, w) (by simp); simp only at this; simp only; omega
      · exact h.1 p hp

/-- A write keeps the canonical form. -/
theorem kwf_kset (dflt : Nat → α) (d v : α) (k : Nat) (m : KMap α) (hd : dflt k = d) (h : kwf dflt m = true) :
    kwf dflt (kset d m k v) = true := by
  unfold kset
  have hf := kwf_filter dflt m (fun p => p.1 ≠ k) h
  split
  · exact hf
  · next hv =>
    rw [kwf_iff] at hf ⊢
    refine ⟨pairwise_kins k v _ hf.1 (fun p hp => by simpa using (List.mem_filter.mp hp).2), fun p hp => ?_⟩
    rcases (mem_kins k v _ p).mp hp with rfl | hp
    · simpa [hd] using hv
    · exact hf.2 p hp

/-- Two canonical stores that read alike are the same data. -/
theorem kget_of_mem (dflt : Nat → α) (m : KMap α) (h : kwf dflt m = true) (p : Nat × α) (hp : p ∈ m) :
    kget (dflt p.1) m p.1 = p.2 := by
  rw [kwf_iff] at h
  obtain ⟨h, -⟩ := h
  induction m with
  | nil => cases hp
  | cons q m ih =>
    obtain ⟨i, w⟩ := q
    rw [List.pairwise_cons] at h
    rcases List.mem_cons.mp hp with rfl | hp
    · simp [kget]
    · have := h.1 p hp
      simp only at this
      simp only [kget, show p.1 ≠ i by omega, if_false]
      exact ih hp h.2

end Sys2Proof.Machine
end

