-- ==== Sys2Proof/Laws/State.lean ====
section
/-! SUPPORT. What each named update of the state does to each of its fields: one lemma for each field. -/

namespace Sys2Proof.Machine

@[simp] theorem wr_rsh (a : Nat) (w : Word) (s : State) : (wr a w s).rsh = s.rsh := rfl
@[simp] theorem wr_wsh (a : Nat) (w : Word) (s : State) : (wr a w s).wsh = s.wsh := rfl
@[simp] theorem wr_qmem (a : Nat) (w : Word) (s : State) : (wr a w s).qmem = s.qmem := rfl
@[simp] theorem wr_flash (a : Nat) (w : Word) (s : State) : (wr a w s).flash = s.flash := rfl
@[simp] theorem wr_otp (a : Nat) (w : Word) (s : State) : (wr a w s).otp = s.otp := rfl
@[simp] theorem wr_queues (a : Nat) (w : Word) (s : State) : (wr a w s).queues = s.queues := rfl
@[simp] theorem wr_pops (a : Nat) (w : Word) (s : State) : (wr a w s).pops = s.pops := rfl
@[simp] theorem wr_ctxs (a : Nat) (w : Word) (s : State) : (wr a w s).ctxs = s.ctxs := rfl
@[simp] theorem wr_engs (a : Nat) (w : Word) (s : State) : (wr a w s).engs = s.engs := rfl
@[simp] theorem wr_cans (a : Nat) (w : Word) (s : State) : (wr a w s).cans = s.cans := rfl
@[simp] theorem wr_cvs (a : Nat) (w : Word) (s : State) : (wr a w s).cvs = s.cvs := rfl
@[simp] theorem wr_tiles (a : Nat) (w : Word) (s : State) : (wr a w s).tiles = s.tiles := rfl
@[simp] theorem wr_chans (a : Nat) (w : Word) (s : State) : (wr a w s).chans = s.chans := rfl
@[simp] theorem wr_chains (a : Nat) (w : Word) (s : State) : (wr a w s).chains = s.chains := rfl
@[simp] theorem wr_dips (a : Nat) (w : Word) (s : State) : (wr a w s).dips = s.dips := rfl
@[simp] theorem wr_tu (a : Nat) (w : Word) (s : State) : (wr a w s).tu = s.tu := rfl
@[simp] theorem wr_sv (a : Nat) (w : Word) (s : State) : (wr a w s).sv = s.sv := rfl
@[simp] theorem wr_ca (a : Nat) (w : Word) (s : State) : (wr a w s).ca = s.ca := rfl
@[simp] theorem wr_pw (a : Nat) (w : Word) (s : State) : (wr a w s).pw = s.pw := rfl
@[simp] theorem wr_s0 (a : Nat) (w : Word) (s : State) : (wr a w s).s0 = s.s0 := rfl
@[simp] theorem wr_sp1 (a : Nat) (w : Word) (s : State) : (wr a w s).sp1 = s.sp1 := rfl
@[simp] theorem wr_sp2 (a : Nat) (w : Word) (s : State) : (wr a w s).sp2 = s.sp2 := rfl
@[simp] theorem wr_csn (a : Nat) (w : Word) (s : State) : (wr a w s).csn = s.csn := rfl
@[simp] theorem wr_bt (a : Nat) (w : Word) (s : State) : (wr a w s).bt = s.bt := rfl
@[simp] theorem wr_late (a : Nat) (w : Word) (s : State) : (wr a w s).late = s.late := rfl
@[simp] theorem wr_ltrigs (a : Nat) (w : Word) (s : State) : (wr a w s).ltrigs = s.ltrigs := rfl
@[simp] theorem wr_jpend (a : Nat) (w : Word) (s : State) : (wr a w s).jpend = s.jpend := rfl
@[simp] theorem wr_jcom (a : Nat) (w : Word) (s : State) : (wr a w s).jcom = s.jcom := rfl
@[simp] theorem wr_jseq (a : Nat) (w : Word) (s : State) : (wr a w s).jseq = s.jseq := rfl
@[simp] theorem wr_hcache (a : Nat) (w : Word) (s : State) : (wr a w s).hcache = s.hcache := rfl
@[simp] theorem wr_rrLast (a : Nat) (w : Word) (s : State) : (wr a w s).rrLast = s.rrLast := rfl
@[simp] theorem wr_ckptDone (a : Nat) (w : Word) (s : State) : (wr a w s).ckptDone = s.ckptDone := rfl
@[simp] theorem wr_logs (a : Nat) (w : Word) (s : State) : (wr a w s).logs = s.logs := rfl
@[simp] theorem wr_logMap (a : Nat) (w : Word) (s : State) : (wr a w s).logMap = s.logMap := rfl
@[simp] theorem wr_rdata (a : Nat) (w : Word) (s : State) : (wr a w s).rdata = s.rdata := rfl
@[simp] theorem wr_free (a : Nat) (w : Word) (s : State) : (wr a w s).free = s.free := rfl
@[simp] theorem wr_blockCtr (a : Nat) (w : Word) (s : State) : (wr a w s).blockCtr = s.blockCtr := rfl
@[simp] theorem wr_pending (a : Nat) (w : Word) (s : State) : (wr a w s).pending = s.pending := rfl

@[simp] theorem State.put_rsh (s : State) (f : FldRef) (v : Nat) : (s.put f v).rsh = s.rsh := wr_rsh _ _ s
@[simp] theorem State.put_wsh (s : State) (f : FldRef) (v : Nat) : (s.put f v).wsh = s.wsh := wr_wsh _ _ s
@[simp] theorem State.put_qmem (s : State) (f : FldRef) (v : Nat) : (s.put f v).qmem = s.qmem := wr_qmem _ _ s
@[simp] theorem State.put_flash (s : State) (f : FldRef) (v : Nat) : (s.put f v).flash = s.flash := wr_flash _ _ s
@[simp] theorem State.put_otp (s : State) (f : FldRef) (v : Nat) : (s.put f v).otp = s.otp := wr_otp _ _ s
@[simp] theorem State.put_queues (s : State) (f : FldRef) (v : Nat) : (s.put f v).queues = s.queues := wr_queues _ _ s
@[simp] theorem State.put_pops (s : State) (f : FldRef) (v : Nat) : (s.put f v).pops = s.pops := wr_pops _ _ s
@[simp] theorem State.put_ctxs (s : State) (f : FldRef) (v : Nat) : (s.put f v).ctxs = s.ctxs := wr_ctxs _ _ s
@[simp] theorem State.put_engs (s : State) (f : FldRef) (v : Nat) : (s.put f v).engs = s.engs := wr_engs _ _ s
@[simp] theorem State.put_cans (s : State) (f : FldRef) (v : Nat) : (s.put f v).cans = s.cans := wr_cans _ _ s
@[simp] theorem State.put_cvs (s : State) (f : FldRef) (v : Nat) : (s.put f v).cvs = s.cvs := wr_cvs _ _ s
@[simp] theorem State.put_tiles (s : State) (f : FldRef) (v : Nat) : (s.put f v).tiles = s.tiles := wr_tiles _ _ s
@[simp] theorem State.put_chans (s : State) (f : FldRef) (v : Nat) : (s.put f v).chans = s.chans := wr_chans _ _ s
@[simp] theorem State.put_chains (s : State) (f : FldRef) (v : Nat) : (s.put f v).chains = s.chains := wr_chains _ _ s
@[simp] theorem State.put_dips (s : State) (f : FldRef) (v : Nat) : (s.put f v).dips = s.dips := wr_dips _ _ s
@[simp] theorem State.put_tu (s : State) (f : FldRef) (v : Nat) : (s.put f v).tu = s.tu := wr_tu _ _ s
@[simp] theorem State.put_sv (s : State) (f : FldRef) (v : Nat) : (s.put f v).sv = s.sv := wr_sv _ _ s
@[simp] theorem State.put_ca (s : State) (f : FldRef) (v : Nat) : (s.put f v).ca = s.ca := wr_ca _ _ s
@[simp] theorem State.put_pw (s : State) (f : FldRef) (v : Nat) : (s.put f v).pw = s.pw := wr_pw _ _ s
@[simp] theorem State.put_s0 (s : State) (f : FldRef) (v : Nat) : (s.put f v).s0 = s.s0 := wr_s0 _ _ s
@[simp] theorem State.put_sp1 (s : State) (f : FldRef) (v : Nat) : (s.put f v).sp1 = s.sp1 := wr_sp1 _ _ s
@[simp] theorem State.put_sp2 (s : State) (f : FldRef) (v : Nat) : (s.put f v).sp2 = s.sp2 := wr_sp2 _ _ s
@[simp] theorem State.put_csn (s : State) (f : FldRef) (v : Nat) : (s.put f v).csn = s.csn := wr_csn _ _ s
@[simp] theorem State.put_bt (s : State) (f : FldRef) (v : Nat) : (s.put f v).bt = s.bt := wr_bt _ _ s
@[simp] theorem State.put_late (s : State) (f : FldRef) (v : Nat) : (s.put f v).late = s.late := wr_late _ _ s
@[simp] theorem State.put_ltrigs (s : State) (f : FldRef) (v : Nat) : (s.put f v).ltrigs = s.ltrigs := wr_ltrigs _ _ s
@[simp] theorem State.put_jpend (s : State) (f : FldRef) (v : Nat) : (s.put f v).jpend = s.jpend := wr_jpend _ _ s
@[simp] theorem State.put_jcom (s : State) (f : FldRef) (v : Nat) : (s.put f v).jcom = s.jcom := wr_jcom _ _ s
@[simp] theorem State.put_jseq (s : State) (f : FldRef) (v : Nat) : (s.put f v).jseq = s.jseq := wr_jseq _ _ s
@[simp] theorem State.put_hcache (s : State) (f : FldRef) (v : Nat) : (s.put f v).hcache = s.hcache := wr_hcache _ _ s
@[simp] theorem State.put_rrLast (s : State) (f : FldRef) (v : Nat) : (s.put f v).rrLast = s.rrLast := wr_rrLast _ _ s
@[simp] theorem State.put_ckptDone (s : State) (f : FldRef) (v : Nat) : (s.put f v).ckptDone = s.ckptDone := wr_ckptDone _ _ s
@[simp] theorem State.put_logs (s : State) (f : FldRef) (v : Nat) : (s.put f v).logs = s.logs := wr_logs _ _ s
@[simp] theorem State.put_logMap (s : State) (f : FldRef) (v : Nat) : (s.put f v).logMap = s.logMap := wr_logMap _ _ s
@[simp] theorem State.put_rdata (s : State) (f : FldRef) (v : Nat) : (s.put f v).rdata = s.rdata := wr_rdata _ _ s
@[simp] theorem State.put_free (s : State) (f : FldRef) (v : Nat) : (s.put f v).free = s.free := wr_free _ _ s
@[simp] theorem State.put_blockCtr (s : State) (f : FldRef) (v : Nat) : (s.put f v).blockCtr = s.blockCtr := wr_blockCtr _ _ s
@[simp] theorem State.put_pending (s : State) (f : FldRef) (v : Nat) : (s.put f v).pending = s.pending := wr_pending _ _ s

@[simp] theorem State.set1_rsh (s : State) (f : FldRef) : (s.set1 f).rsh = s.rsh := wr_rsh _ _ s
@[simp] theorem State.set1_wsh (s : State) (f : FldRef) : (s.set1 f).wsh = s.wsh := wr_wsh _ _ s
@[simp] theorem State.set1_qmem (s : State) (f : FldRef) : (s.set1 f).qmem = s.qmem := wr_qmem _ _ s
@[simp] theorem State.set1_flash (s : State) (f : FldRef) : (s.set1 f).flash = s.flash := wr_flash _ _ s
@[simp] theorem State.set1_otp (s : State) (f : FldRef) : (s.set1 f).otp = s.otp := wr_otp _ _ s
@[simp] theorem State.set1_queues (s : State) (f : FldRef) : (s.set1 f).queues = s.queues := wr_queues _ _ s
@[simp] theorem State.set1_pops (s : State) (f : FldRef) : (s.set1 f).pops = s.pops := wr_pops _ _ s
@[simp] theorem State.set1_ctxs (s : State) (f : FldRef) : (s.set1 f).ctxs = s.ctxs := wr_ctxs _ _ s
@[simp] theorem State.set1_engs (s : State) (f : FldRef) : (s.set1 f).engs = s.engs := wr_engs _ _ s
@[simp] theorem State.set1_cans (s : State) (f : FldRef) : (s.set1 f).cans = s.cans := wr_cans _ _ s
@[simp] theorem State.set1_cvs (s : State) (f : FldRef) : (s.set1 f).cvs = s.cvs := wr_cvs _ _ s
@[simp] theorem State.set1_tiles (s : State) (f : FldRef) : (s.set1 f).tiles = s.tiles := wr_tiles _ _ s
@[simp] theorem State.set1_chans (s : State) (f : FldRef) : (s.set1 f).chans = s.chans := wr_chans _ _ s
@[simp] theorem State.set1_chains (s : State) (f : FldRef) : (s.set1 f).chains = s.chains := wr_chains _ _ s
@[simp] theorem State.set1_dips (s : State) (f : FldRef) : (s.set1 f).dips = s.dips := wr_dips _ _ s
@[simp] theorem State.set1_tu (s : State) (f : FldRef) : (s.set1 f).tu = s.tu := wr_tu _ _ s
@[simp] theorem State.set1_sv (s : State) (f : FldRef) : (s.set1 f).sv = s.sv := wr_sv _ _ s
@[simp] theorem State.set1_ca (s : State) (f : FldRef) : (s.set1 f).ca = s.ca := wr_ca _ _ s
@[simp] theorem State.set1_pw (s : State) (f : FldRef) : (s.set1 f).pw = s.pw := wr_pw _ _ s
@[simp] theorem State.set1_s0 (s : State) (f : FldRef) : (s.set1 f).s0 = s.s0 := wr_s0 _ _ s
@[simp] theorem State.set1_sp1 (s : State) (f : FldRef) : (s.set1 f).sp1 = s.sp1 := wr_sp1 _ _ s
@[simp] theorem State.set1_sp2 (s : State) (f : FldRef) : (s.set1 f).sp2 = s.sp2 := wr_sp2 _ _ s
@[simp] theorem State.set1_csn (s : State) (f : FldRef) : (s.set1 f).csn = s.csn := wr_csn _ _ s
@[simp] theorem State.set1_bt (s : State) (f : FldRef) : (s.set1 f).bt = s.bt := wr_bt _ _ s
@[simp] theorem State.set1_late (s : State) (f : FldRef) : (s.set1 f).late = s.late := wr_late _ _ s
@[simp] theorem State.set1_ltrigs (s : State) (f : FldRef) : (s.set1 f).ltrigs = s.ltrigs := wr_ltrigs _ _ s
@[simp] theorem State.set1_jpend (s : State) (f : FldRef) : (s.set1 f).jpend = s.jpend := wr_jpend _ _ s
@[simp] theorem State.set1_jcom (s : State) (f : FldRef) : (s.set1 f).jcom = s.jcom := wr_jcom _ _ s
@[simp] theorem State.set1_jseq (s : State) (f : FldRef) : (s.set1 f).jseq = s.jseq := wr_jseq _ _ s
@[simp] theorem State.set1_hcache (s : State) (f : FldRef) : (s.set1 f).hcache = s.hcache := wr_hcache _ _ s
@[simp] theorem State.set1_rrLast (s : State) (f : FldRef) : (s.set1 f).rrLast = s.rrLast := wr_rrLast _ _ s
@[simp] theorem State.set1_ckptDone (s : State) (f : FldRef) : (s.set1 f).ckptDone = s.ckptDone := wr_ckptDone _ _ s
@[simp] theorem State.set1_logs (s : State) (f : FldRef) : (s.set1 f).logs = s.logs := wr_logs _ _ s
@[simp] theorem State.set1_logMap (s : State) (f : FldRef) : (s.set1 f).logMap = s.logMap := wr_logMap _ _ s
@[simp] theorem State.set1_rdata (s : State) (f : FldRef) : (s.set1 f).rdata = s.rdata := wr_rdata _ _ s
@[simp] theorem State.set1_free (s : State) (f : FldRef) : (s.set1 f).free = s.free := wr_free _ _ s
@[simp] theorem State.set1_blockCtr (s : State) (f : FldRef) : (s.set1 f).blockCtr = s.blockCtr := wr_blockCtr _ _ s
@[simp] theorem State.set1_pending (s : State) (f : FldRef) : (s.set1 f).pending = s.pending := wr_pending _ _ s

@[simp] theorem State.putB_rsh (s : State) (f : FldRef) (b : Bool) : (s.putB f b).rsh = s.rsh := wr_rsh _ _ s
@[simp] theorem State.putB_wsh (s : State) (f : FldRef) (b : Bool) : (s.putB f b).wsh = s.wsh := wr_wsh _ _ s
@[simp] theorem State.putB_qmem (s : State) (f : FldRef) (b : Bool) : (s.putB f b).qmem = s.qmem := wr_qmem _ _ s
@[simp] theorem State.putB_flash (s : State) (f : FldRef) (b : Bool) : (s.putB f b).flash = s.flash := wr_flash _ _ s
@[simp] theorem State.putB_otp (s : State) (f : FldRef) (b : Bool) : (s.putB f b).otp = s.otp := wr_otp _ _ s
@[simp] theorem State.putB_queues (s : State) (f : FldRef) (b : Bool) : (s.putB f b).queues = s.queues := wr_queues _ _ s
@[simp] theorem State.putB_pops (s : State) (f : FldRef) (b : Bool) : (s.putB f b).pops = s.pops := wr_pops _ _ s
@[simp] theorem State.putB_ctxs (s : State) (f : FldRef) (b : Bool) : (s.putB f b).ctxs = s.ctxs := wr_ctxs _ _ s
@[simp] theorem State.putB_engs (s : State) (f : FldRef) (b : Bool) : (s.putB f b).engs = s.engs := wr_engs _ _ s
@[simp] theorem State.putB_cans (s : State) (f : FldRef) (b : Bool) : (s.putB f b).cans = s.cans := wr_cans _ _ s
@[simp] theorem State.putB_cvs (s : State) (f : FldRef) (b : Bool) : (s.putB f b).cvs = s.cvs := wr_cvs _ _ s
@[simp] theorem State.putB_tiles (s : State) (f : FldRef) (b : Bool) : (s.putB f b).tiles = s.tiles := wr_tiles _ _ s
@[simp] theorem State.putB_chans (s : State) (f : FldRef) (b : Bool) : (s.putB f b).chans = s.chans := wr_chans _ _ s
@[simp] theorem State.putB_chains (s : State) (f : FldRef) (b : Bool) : (s.putB f b).chains = s.chains := wr_chains _ _ s
@[simp] theorem State.putB_dips (s : State) (f : FldRef) (b : Bool) : (s.putB f b).dips = s.dips := wr_dips _ _ s
@[simp] theorem State.putB_tu (s : State) (f : FldRef) (b : Bool) : (s.putB f b).tu = s.tu := wr_tu _ _ s
@[simp] theorem State.putB_sv (s : State) (f : FldRef) (b : Bool) : (s.putB f b).sv = s.sv := wr_sv _ _ s
@[simp] theorem State.putB_ca (s : State) (f : FldRef) (b : Bool) : (s.putB f b).ca = s.ca := wr_ca _ _ s
@[simp] theorem State.putB_pw (s : State) (f : FldRef) (b : Bool) : (s.putB f b).pw = s.pw := wr_pw _ _ s
@[simp] theorem State.putB_s0 (s : State) (f : FldRef) (b : Bool) : (s.putB f b).s0 = s.s0 := wr_s0 _ _ s
@[simp] theorem State.putB_sp1 (s : State) (f : FldRef) (b : Bool) : (s.putB f b).sp1 = s.sp1 := wr_sp1 _ _ s
@[simp] theorem State.putB_sp2 (s : State) (f : FldRef) (b : Bool) : (s.putB f b).sp2 = s.sp2 := wr_sp2 _ _ s
@[simp] theorem State.putB_csn (s : State) (f : FldRef) (b : Bool) : (s.putB f b).csn = s.csn := wr_csn _ _ s
@[simp] theorem State.putB_bt (s : State) (f : FldRef) (b : Bool) : (s.putB f b).bt = s.bt := wr_bt _ _ s
@[simp] theorem State.putB_late (s : State) (f : FldRef) (b : Bool) : (s.putB f b).late = s.late := wr_late _ _ s
@[simp] theorem State.putB_ltrigs (s : State) (f : FldRef) (b : Bool) : (s.putB f b).ltrigs = s.ltrigs := wr_ltrigs _ _ s
@[simp] theorem State.putB_jpend (s : State) (f : FldRef) (b : Bool) : (s.putB f b).jpend = s.jpend := wr_jpend _ _ s
@[simp] theorem State.putB_jcom (s : State) (f : FldRef) (b : Bool) : (s.putB f b).jcom = s.jcom := wr_jcom _ _ s
@[simp] theorem State.putB_jseq (s : State) (f : FldRef) (b : Bool) : (s.putB f b).jseq = s.jseq := wr_jseq _ _ s
@[simp] theorem State.putB_hcache (s : State) (f : FldRef) (b : Bool) : (s.putB f b).hcache = s.hcache := wr_hcache _ _ s
@[simp] theorem State.putB_rrLast (s : State) (f : FldRef) (b : Bool) : (s.putB f b).rrLast = s.rrLast := wr_rrLast _ _ s
@[simp] theorem State.putB_ckptDone (s : State) (f : FldRef) (b : Bool) : (s.putB f b).ckptDone = s.ckptDone := wr_ckptDone _ _ s
@[simp] theorem State.putB_logs (s : State) (f : FldRef) (b : Bool) : (s.putB f b).logs = s.logs := wr_logs _ _ s
@[simp] theorem State.putB_logMap (s : State) (f : FldRef) (b : Bool) : (s.putB f b).logMap = s.logMap := wr_logMap _ _ s
@[simp] theorem State.putB_rdata (s : State) (f : FldRef) (b : Bool) : (s.putB f b).rdata = s.rdata := wr_rdata _ _ s
@[simp] theorem State.putB_free (s : State) (f : FldRef) (b : Bool) : (s.putB f b).free = s.free := wr_free _ _ s
@[simp] theorem State.putB_blockCtr (s : State) (f : FldRef) (b : Bool) : (s.putB f b).blockCtr = s.blockCtr := wr_blockCtr _ _ s
@[simp] theorem State.putB_pending (s : State) (f : FldRef) (b : Bool) : (s.putB f b).pending = s.pending := wr_pending _ _ s

@[simp] theorem State.addSat_rsh (s : State) (f : FldRef) (k : Nat) : (s.addSat f k).rsh = s.rsh := wr_rsh _ _ s
@[simp] theorem State.addSat_wsh (s : State) (f : FldRef) (k : Nat) : (s.addSat f k).wsh = s.wsh := wr_wsh _ _ s
@[simp] theorem State.addSat_qmem (s : State) (f : FldRef) (k : Nat) : (s.addSat f k).qmem = s.qmem := wr_qmem _ _ s
@[simp] theorem State.addSat_flash (s : State) (f : FldRef) (k : Nat) : (s.addSat f k).flash = s.flash := wr_flash _ _ s
@[simp] theorem State.addSat_otp (s : State) (f : FldRef) (k : Nat) : (s.addSat f k).otp = s.otp := wr_otp _ _ s
@[simp] theorem State.addSat_queues (s : State) (f : FldRef) (k : Nat) : (s.addSat f k).queues = s.queues := wr_queues _ _ s
@[simp] theorem State.addSat_pops (s : State) (f : FldRef) (k : Nat) : (s.addSat f k).pops = s.pops := wr_pops _ _ s
@[simp] theorem State.addSat_ctxs (s : State) (f : FldRef) (k : Nat) : (s.addSat f k).ctxs = s.ctxs := wr_ctxs _ _ s
@[simp] theorem State.addSat_engs (s : State) (f : FldRef) (k : Nat) : (s.addSat f k).engs = s.engs := wr_engs _ _ s
@[simp] theorem State.addSat_cans (s : State) (f : FldRef) (k : Nat) : (s.addSat f k).cans = s.cans := wr_cans _ _ s
@[simp] theorem State.addSat_cvs (s : State) (f : FldRef) (k : Nat) : (s.addSat f k).cvs = s.cvs := wr_cvs _ _ s
@[simp] theorem State.addSat_tiles (s : State) (f : FldRef) (k : Nat) : (s.addSat f k).tiles = s.tiles := wr_tiles _ _ s
@[simp] theorem State.addSat_chans (s : State) (f : FldRef) (k : Nat) : (s.addSat f k).chans = s.chans := wr_chans _ _ s
@[simp] theorem State.addSat_chains (s : State) (f : FldRef) (k : Nat) : (s.addSat f k).chains = s.chains := wr_chains _ _ s
@[simp] theorem State.addSat_dips (s : State) (f : FldRef) (k : Nat) : (s.addSat f k).dips = s.dips := wr_dips _ _ s
@[simp] theorem State.addSat_tu (s : State) (f : FldRef) (k : Nat) : (s.addSat f k).tu = s.tu := wr_tu _ _ s
@[simp] theorem State.addSat_sv (s : State) (f : FldRef) (k : Nat) : (s.addSat f k).sv = s.sv := wr_sv _ _ s
@[simp] theorem State.addSat_ca (s : State) (f : FldRef) (k : Nat) : (s.addSat f k).ca = s.ca := wr_ca _ _ s
@[simp] theorem State.addSat_pw (s : State) (f : FldRef) (k : Nat) : (s.addSat f k).pw = s.pw := wr_pw _ _ s
@[simp] theorem State.addSat_s0 (s : State) (f : FldRef) (k : Nat) : (s.addSat f k).s0 = s.s0 := wr_s0 _ _ s
@[simp] theorem State.addSat_sp1 (s : State) (f : FldRef) (k : Nat) : (s.addSat f k).sp1 = s.sp1 := wr_sp1 _ _ s
@[simp] theorem State.addSat_sp2 (s : State) (f : FldRef) (k : Nat) : (s.addSat f k).sp2 = s.sp2 := wr_sp2 _ _ s
@[simp] theorem State.addSat_csn (s : State) (f : FldRef) (k : Nat) : (s.addSat f k).csn = s.csn := wr_csn _ _ s
@[simp] theorem State.addSat_bt (s : State) (f : FldRef) (k : Nat) : (s.addSat f k).bt = s.bt := wr_bt _ _ s
@[simp] theorem State.addSat_late (s : State) (f : FldRef) (k : Nat) : (s.addSat f k).late = s.late := wr_late _ _ s
@[simp] theorem State.addSat_ltrigs (s : State) (f : FldRef) (k : Nat) : (s.addSat f k).ltrigs = s.ltrigs := wr_ltrigs _ _ s
@[simp] theorem State.addSat_jpend (s : State) (f : FldRef) (k : Nat) : (s.addSat f k).jpend = s.jpend := wr_jpend _ _ s
@[simp] theorem State.addSat_jcom (s : State) (f : FldRef) (k : Nat) : (s.addSat f k).jcom = s.jcom := wr_jcom _ _ s
@[simp] theorem State.addSat_jseq (s : State) (f : FldRef) (k : Nat) : (s.addSat f k).jseq = s.jseq := wr_jseq _ _ s
@[simp] theorem State.addSat_hcache (s : State) (f : FldRef) (k : Nat) : (s.addSat f k).hcache = s.hcache := wr_hcache _ _ s
@[simp] theorem State.addSat_rrLast (s : State) (f : FldRef) (k : Nat) : (s.addSat f k).rrLast = s.rrLast := wr_rrLast _ _ s
@[simp] theorem State.addSat_ckptDone (s : State) (f : FldRef) (k : Nat) : (s.addSat f k).ckptDone = s.ckptDone := wr_ckptDone _ _ s
@[simp] theorem State.addSat_logs (s : State) (f : FldRef) (k : Nat) : (s.addSat f k).logs = s.logs := wr_logs _ _ s
@[simp] theorem State.addSat_logMap (s : State) (f : FldRef) (k : Nat) : (s.addSat f k).logMap = s.logMap := wr_logMap _ _ s
@[simp] theorem State.addSat_rdata (s : State) (f : FldRef) (k : Nat) : (s.addSat f k).rdata = s.rdata := wr_rdata _ _ s
@[simp] theorem State.addSat_free (s : State) (f : FldRef) (k : Nat) : (s.addSat f k).free = s.free := wr_free _ _ s
@[simp] theorem State.addSat_blockCtr (s : State) (f : FldRef) (k : Nat) : (s.addSat f k).blockCtr = s.blockCtr := wr_blockCtr _ _ s
@[simp] theorem State.addSat_pending (s : State) (f : FldRef) (k : Nat) : (s.addSat f k).pending = s.pending := wr_pending _ _ s

@[simp] theorem State.inc_rsh (s : State) (f : FldRef) : (s.inc f).rsh = s.rsh := wr_rsh _ _ s
@[simp] theorem State.inc_wsh (s : State) (f : FldRef) : (s.inc f).wsh = s.wsh := wr_wsh _ _ s
@[simp] theorem State.inc_qmem (s : State) (f : FldRef) : (s.inc f).qmem = s.qmem := wr_qmem _ _ s
@[simp] theorem State.inc_flash (s : State) (f : FldRef) : (s.inc f).flash = s.flash := wr_flash _ _ s
@[simp] theorem State.inc_otp (s : State) (f : FldRef) : (s.inc f).otp = s.otp := wr_otp _ _ s
@[simp] theorem State.inc_queues (s : State) (f : FldRef) : (s.inc f).queues = s.queues := wr_queues _ _ s
@[simp] theorem State.inc_pops (s : State) (f : FldRef) : (s.inc f).pops = s.pops := wr_pops _ _ s
@[simp] theorem State.inc_ctxs (s : State) (f : FldRef) : (s.inc f).ctxs = s.ctxs := wr_ctxs _ _ s
@[simp] theorem State.inc_engs (s : State) (f : FldRef) : (s.inc f).engs = s.engs := wr_engs _ _ s
@[simp] theorem State.inc_cans (s : State) (f : FldRef) : (s.inc f).cans = s.cans := wr_cans _ _ s
@[simp] theorem State.inc_cvs (s : State) (f : FldRef) : (s.inc f).cvs = s.cvs := wr_cvs _ _ s
@[simp] theorem State.inc_tiles (s : State) (f : FldRef) : (s.inc f).tiles = s.tiles := wr_tiles _ _ s
@[simp] theorem State.inc_chans (s : State) (f : FldRef) : (s.inc f).chans = s.chans := wr_chans _ _ s
@[simp] theorem State.inc_chains (s : State) (f : FldRef) : (s.inc f).chains = s.chains := wr_chains _ _ s
@[simp] theorem State.inc_dips (s : State) (f : FldRef) : (s.inc f).dips = s.dips := wr_dips _ _ s
@[simp] theorem State.inc_tu (s : State) (f : FldRef) : (s.inc f).tu = s.tu := wr_tu _ _ s
@[simp] theorem State.inc_sv (s : State) (f : FldRef) : (s.inc f).sv = s.sv := wr_sv _ _ s
@[simp] theorem State.inc_ca (s : State) (f : FldRef) : (s.inc f).ca = s.ca := wr_ca _ _ s
@[simp] theorem State.inc_pw (s : State) (f : FldRef) : (s.inc f).pw = s.pw := wr_pw _ _ s
@[simp] theorem State.inc_s0 (s : State) (f : FldRef) : (s.inc f).s0 = s.s0 := wr_s0 _ _ s
@[simp] theorem State.inc_sp1 (s : State) (f : FldRef) : (s.inc f).sp1 = s.sp1 := wr_sp1 _ _ s
@[simp] theorem State.inc_sp2 (s : State) (f : FldRef) : (s.inc f).sp2 = s.sp2 := wr_sp2 _ _ s
@[simp] theorem State.inc_csn (s : State) (f : FldRef) : (s.inc f).csn = s.csn := wr_csn _ _ s
@[simp] theorem State.inc_bt (s : State) (f : FldRef) : (s.inc f).bt = s.bt := wr_bt _ _ s
@[simp] theorem State.inc_late (s : State) (f : FldRef) : (s.inc f).late = s.late := wr_late _ _ s
@[simp] theorem State.inc_ltrigs (s : State) (f : FldRef) : (s.inc f).ltrigs = s.ltrigs := wr_ltrigs _ _ s
@[simp] theorem State.inc_jpend (s : State) (f : FldRef) : (s.inc f).jpend = s.jpend := wr_jpend _ _ s
@[simp] theorem State.inc_jcom (s : State) (f : FldRef) : (s.inc f).jcom = s.jcom := wr_jcom _ _ s
@[simp] theorem State.inc_jseq (s : State) (f : FldRef) : (s.inc f).jseq = s.jseq := wr_jseq _ _ s
@[simp] theorem State.inc_hcache (s : State) (f : FldRef) : (s.inc f).hcache = s.hcache := wr_hcache _ _ s
@[simp] theorem State.inc_rrLast (s : State) (f : FldRef) : (s.inc f).rrLast = s.rrLast := wr_rrLast _ _ s
@[simp] theorem State.inc_ckptDone (s : State) (f : FldRef) : (s.inc f).ckptDone = s.ckptDone := wr_ckptDone _ _ s
@[simp] theorem State.inc_logs (s : State) (f : FldRef) : (s.inc f).logs = s.logs := wr_logs _ _ s
@[simp] theorem State.inc_logMap (s : State) (f : FldRef) : (s.inc f).logMap = s.logMap := wr_logMap _ _ s
@[simp] theorem State.inc_rdata (s : State) (f : FldRef) : (s.inc f).rdata = s.rdata := wr_rdata _ _ s
@[simp] theorem State.inc_free (s : State) (f : FldRef) : (s.inc f).free = s.free := wr_free _ _ s
@[simp] theorem State.inc_blockCtr (s : State) (f : FldRef) : (s.inc f).blockCtr = s.blockCtr := wr_blockCtr _ _ s
@[simp] theorem State.inc_pending (s : State) (f : FldRef) : (s.inc f).pending = s.pending := wr_pending _ _ s

@[simp] theorem State.incWrap_rsh (s : State) (f : FldRef) : (s.incWrap f).rsh = s.rsh := wr_rsh _ _ s
@[simp] theorem State.incWrap_wsh (s : State) (f : FldRef) : (s.incWrap f).wsh = s.wsh := wr_wsh _ _ s
@[simp] theorem State.incWrap_qmem (s : State) (f : FldRef) : (s.incWrap f).qmem = s.qmem := wr_qmem _ _ s
@[simp] theorem State.incWrap_flash (s : State) (f : FldRef) : (s.incWrap f).flash = s.flash := wr_flash _ _ s
@[simp] theorem State.incWrap_otp (s : State) (f : FldRef) : (s.incWrap f).otp = s.otp := wr_otp _ _ s
@[simp] theorem State.incWrap_queues (s : State) (f : FldRef) : (s.incWrap f).queues = s.queues := wr_queues _ _ s
@[simp] theorem State.incWrap_pops (s : State) (f : FldRef) : (s.incWrap f).pops = s.pops := wr_pops _ _ s
@[simp] theorem State.incWrap_ctxs (s : State) (f : FldRef) : (s.incWrap f).ctxs = s.ctxs := wr_ctxs _ _ s
@[simp] theorem State.incWrap_engs (s : State) (f : FldRef) : (s.incWrap f).engs = s.engs := wr_engs _ _ s
@[simp] theorem State.incWrap_cans (s : State) (f : FldRef) : (s.incWrap f).cans = s.cans := wr_cans _ _ s
@[simp] theorem State.incWrap_cvs (s : State) (f : FldRef) : (s.incWrap f).cvs = s.cvs := wr_cvs _ _ s
@[simp] theorem State.incWrap_tiles (s : State) (f : FldRef) : (s.incWrap f).tiles = s.tiles := wr_tiles _ _ s
@[simp] theorem State.incWrap_chans (s : State) (f : FldRef) : (s.incWrap f).chans = s.chans := wr_chans _ _ s
@[simp] theorem State.incWrap_chains (s : State) (f : FldRef) : (s.incWrap f).chains = s.chains := wr_chains _ _ s
@[simp] theorem State.incWrap_dips (s : State) (f : FldRef) : (s.incWrap f).dips = s.dips := wr_dips _ _ s
@[simp] theorem State.incWrap_tu (s : State) (f : FldRef) : (s.incWrap f).tu = s.tu := wr_tu _ _ s
@[simp] theorem State.incWrap_sv (s : State) (f : FldRef) : (s.incWrap f).sv = s.sv := wr_sv _ _ s
@[simp] theorem State.incWrap_ca (s : State) (f : FldRef) : (s.incWrap f).ca = s.ca := wr_ca _ _ s
@[simp] theorem State.incWrap_pw (s : State) (f : FldRef) : (s.incWrap f).pw = s.pw := wr_pw _ _ s
@[simp] theorem State.incWrap_s0 (s : State) (f : FldRef) : (s.incWrap f).s0 = s.s0 := wr_s0 _ _ s
@[simp] theorem State.incWrap_sp1 (s : State) (f : FldRef) : (s.incWrap f).sp1 = s.sp1 := wr_sp1 _ _ s
@[simp] theorem State.incWrap_sp2 (s : State) (f : FldRef) : (s.incWrap f).sp2 = s.sp2 := wr_sp2 _ _ s
@[simp] theorem State.incWrap_csn (s : State) (f : FldRef) : (s.incWrap f).csn = s.csn := wr_csn _ _ s
@[simp] theorem State.incWrap_bt (s : State) (f : FldRef) : (s.incWrap f).bt = s.bt := wr_bt _ _ s
@[simp] theorem State.incWrap_late (s : State) (f : FldRef) : (s.incWrap f).late = s.late := wr_late _ _ s
@[simp] theorem State.incWrap_ltrigs (s : State) (f : FldRef) : (s.incWrap f).ltrigs = s.ltrigs := wr_ltrigs _ _ s
@[simp] theorem State.incWrap_jpend (s : State) (f : FldRef) : (s.incWrap f).jpend = s.jpend := wr_jpend _ _ s
@[simp] theorem State.incWrap_jcom (s : State) (f : FldRef) : (s.incWrap f).jcom = s.jcom := wr_jcom _ _ s
@[simp] theorem State.incWrap_jseq (s : State) (f : FldRef) : (s.incWrap f).jseq = s.jseq := wr_jseq _ _ s
@[simp] theorem State.incWrap_hcache (s : State) (f : FldRef) : (s.incWrap f).hcache = s.hcache := wr_hcache _ _ s
@[simp] theorem State.incWrap_rrLast (s : State) (f : FldRef) : (s.incWrap f).rrLast = s.rrLast := wr_rrLast _ _ s
@[simp] theorem State.incWrap_ckptDone (s : State) (f : FldRef) : (s.incWrap f).ckptDone = s.ckptDone := wr_ckptDone _ _ s
@[simp] theorem State.incWrap_logs (s : State) (f : FldRef) : (s.incWrap f).logs = s.logs := wr_logs _ _ s
@[simp] theorem State.incWrap_logMap (s : State) (f : FldRef) : (s.incWrap f).logMap = s.logMap := wr_logMap _ _ s
@[simp] theorem State.incWrap_rdata (s : State) (f : FldRef) : (s.incWrap f).rdata = s.rdata := wr_rdata _ _ s
@[simp] theorem State.incWrap_free (s : State) (f : FldRef) : (s.incWrap f).free = s.free := wr_free _ _ s
@[simp] theorem State.incWrap_blockCtr (s : State) (f : FldRef) : (s.incWrap f).blockCtr = s.blockCtr := wr_blockCtr _ _ s
@[simp] theorem State.incWrap_pending (s : State) (f : FldRef) : (s.incWrap f).pending = s.pending := wr_pending _ _ s

@[simp] theorem State.put64_rsh (s : State) (a v : Nat) : (s.put64 a v).rsh = s.rsh := (wr_rsh _ _ _).trans (wr_rsh _ _ _)
@[simp] theorem State.put64_wsh (s : State) (a v : Nat) : (s.put64 a v).wsh = s.wsh := (wr_wsh _ _ _).trans (wr_wsh _ _ _)
@[simp] theorem State.put64_qmem (s : State) (a v : Nat) : (s.put64 a v).qmem = s.qmem := (wr_qmem _ _ _).trans (wr_qmem _ _ _)
@[simp] theorem State.put64_flash (s : State) (a v : Nat) : (s.put64 a v).flash = s.flash := (wr_flash _ _ _).trans (wr_flash _ _ _)
@[simp] theorem State.put64_otp (s : State) (a v : Nat) : (s.put64 a v).otp = s.otp := (wr_otp _ _ _).trans (wr_otp _ _ _)
@[simp] theorem State.put64_queues (s : State) (a v : Nat) : (s.put64 a v).queues = s.queues := (wr_queues _ _ _).trans (wr_queues _ _ _)
@[simp] theorem State.put64_pops (s : State) (a v : Nat) : (s.put64 a v).pops = s.pops := (wr_pops _ _ _).trans (wr_pops _ _ _)
@[simp] theorem State.put64_ctxs (s : State) (a v : Nat) : (s.put64 a v).ctxs = s.ctxs := (wr_ctxs _ _ _).trans (wr_ctxs _ _ _)
@[simp] theorem State.put64_engs (s : State) (a v : Nat) : (s.put64 a v).engs = s.engs := (wr_engs _ _ _).trans (wr_engs _ _ _)
@[simp] theorem State.put64_cans (s : State) (a v : Nat) : (s.put64 a v).cans = s.cans := (wr_cans _ _ _).trans (wr_cans _ _ _)
@[simp] theorem State.put64_cvs (s : State) (a v : Nat) : (s.put64 a v).cvs = s.cvs := (wr_cvs _ _ _).trans (wr_cvs _ _ _)
@[simp] theorem State.put64_tiles (s : State) (a v : Nat) : (s.put64 a v).tiles = s.tiles := (wr_tiles _ _ _).trans (wr_tiles _ _ _)
@[simp] theorem State.put64_chans (s : State) (a v : Nat) : (s.put64 a v).chans = s.chans := (wr_chans _ _ _).trans (wr_chans _ _ _)
@[simp] theorem State.put64_chains (s : State) (a v : Nat) : (s.put64 a v).chains = s.chains := (wr_chains _ _ _).trans (wr_chains _ _ _)
@[simp] theorem State.put64_dips (s : State) (a v : Nat) : (s.put64 a v).dips = s.dips := (wr_dips _ _ _).trans (wr_dips _ _ _)
@[simp] theorem State.put64_tu (s : State) (a v : Nat) : (s.put64 a v).tu = s.tu := (wr_tu _ _ _).trans (wr_tu _ _ _)
@[simp] theorem State.put64_sv (s : State) (a v : Nat) : (s.put64 a v).sv = s.sv := (wr_sv _ _ _).trans (wr_sv _ _ _)
@[simp] theorem State.put64_ca (s : State) (a v : Nat) : (s.put64 a v).ca = s.ca := (wr_ca _ _ _).trans (wr_ca _ _ _)
@[simp] theorem State.put64_pw (s : State) (a v : Nat) : (s.put64 a v).pw = s.pw := (wr_pw _ _ _).trans (wr_pw _ _ _)
@[simp] theorem State.put64_s0 (s : State) (a v : Nat) : (s.put64 a v).s0 = s.s0 := (wr_s0 _ _ _).trans (wr_s0 _ _ _)
@[simp] theorem State.put64_sp1 (s : State) (a v : Nat) : (s.put64 a v).sp1 = s.sp1 := (wr_sp1 _ _ _).trans (wr_sp1 _ _ _)
@[simp] theorem State.put64_sp2 (s : State) (a v : Nat) : (s.put64 a v).sp2 = s.sp2 := (wr_sp2 _ _ _).trans (wr_sp2 _ _ _)
@[simp] theorem State.put64_csn (s : State) (a v : Nat) : (s.put64 a v).csn = s.csn := (wr_csn _ _ _).trans (wr_csn _ _ _)
@[simp] theorem State.put64_bt (s : State) (a v : Nat) : (s.put64 a v).bt = s.bt := (wr_bt _ _ _).trans (wr_bt _ _ _)
@[simp] theorem State.put64_late (s : State) (a v : Nat) : (s.put64 a v).late = s.late := (wr_late _ _ _).trans (wr_late _ _ _)
@[simp] theorem State.put64_ltrigs (s : State) (a v : Nat) : (s.put64 a v).ltrigs = s.ltrigs := (wr_ltrigs _ _ _).trans (wr_ltrigs _ _ _)
@[simp] theorem State.put64_jpend (s : State) (a v : Nat) : (s.put64 a v).jpend = s.jpend := (wr_jpend _ _ _).trans (wr_jpend _ _ _)
@[simp] theorem State.put64_jcom (s : State) (a v : Nat) : (s.put64 a v).jcom = s.jcom := (wr_jcom _ _ _).trans (wr_jcom _ _ _)
@[simp] theorem State.put64_jseq (s : State) (a v : Nat) : (s.put64 a v).jseq = s.jseq := (wr_jseq _ _ _).trans (wr_jseq _ _ _)
@[simp] theorem State.put64_hcache (s : State) (a v : Nat) : (s.put64 a v).hcache = s.hcache := (wr_hcache _ _ _).trans (wr_hcache _ _ _)
@[simp] theorem State.put64_rrLast (s : State) (a v : Nat) : (s.put64 a v).rrLast = s.rrLast := (wr_rrLast _ _ _).trans (wr_rrLast _ _ _)
@[simp] theorem State.put64_ckptDone (s : State) (a v : Nat) : (s.put64 a v).ckptDone = s.ckptDone := (wr_ckptDone _ _ _).trans (wr_ckptDone _ _ _)
@[simp] theorem State.put64_logs (s : State) (a v : Nat) : (s.put64 a v).logs = s.logs := (wr_logs _ _ _).trans (wr_logs _ _ _)
@[simp] theorem State.put64_logMap (s : State) (a v : Nat) : (s.put64 a v).logMap = s.logMap := (wr_logMap _ _ _).trans (wr_logMap _ _ _)
@[simp] theorem State.put64_rdata (s : State) (a v : Nat) : (s.put64 a v).rdata = s.rdata := (wr_rdata _ _ _).trans (wr_rdata _ _ _)
@[simp] theorem State.put64_free (s : State) (a v : Nat) : (s.put64 a v).free = s.free := (wr_free _ _ _).trans (wr_free _ _ _)
@[simp] theorem State.put64_blockCtr (s : State) (a v : Nat) : (s.put64 a v).blockCtr = s.blockCtr := (wr_blockCtr _ _ _).trans (wr_blockCtr _ _ _)
@[simp] theorem State.put64_pending (s : State) (a v : Nat) : (s.put64 a v).pending = s.pending := (wr_pending _ _ _).trans (wr_pending _ _ _)

@[simp] theorem startStep_rsh (n : Nat) (s : State) : (startStep n s).rsh = s.rsh := State.put_rsh s _ _
@[simp] theorem startStep_wsh (n : Nat) (s : State) : (startStep n s).wsh = s.wsh := State.put_wsh s _ _
@[simp] theorem startStep_qmem (n : Nat) (s : State) : (startStep n s).qmem = s.qmem := State.put_qmem s _ _
@[simp] theorem startStep_flash (n : Nat) (s : State) : (startStep n s).flash = s.flash := State.put_flash s _ _
@[simp] theorem startStep_otp (n : Nat) (s : State) : (startStep n s).otp = s.otp := State.put_otp s _ _
@[simp] theorem startStep_queues (n : Nat) (s : State) : (startStep n s).queues = s.queues := State.put_queues s _ _
@[simp] theorem startStep_pops (n : Nat) (s : State) : (startStep n s).pops = s.pops := State.put_pops s _ _
@[simp] theorem startStep_ctxs (n : Nat) (s : State) : (startStep n s).ctxs = s.ctxs := State.put_ctxs s _ _
@[simp] theorem startStep_engs (n : Nat) (s : State) : (startStep n s).engs = s.engs := State.put_engs s _ _
@[simp] theorem startStep_cans (n : Nat) (s : State) : (startStep n s).cans = s.cans := State.put_cans s _ _
@[simp] theorem startStep_cvs (n : Nat) (s : State) : (startStep n s).cvs = s.cvs := State.put_cvs s _ _
@[simp] theorem startStep_tiles (n : Nat) (s : State) : (startStep n s).tiles = s.tiles := State.put_tiles s _ _
@[simp] theorem startStep_chans (n : Nat) (s : State) : (startStep n s).chans = s.chans := State.put_chans s _ _
@[simp] theorem startStep_chains (n : Nat) (s : State) : (startStep n s).chains = s.chains := State.put_chains s _ _
@[simp] theorem startStep_dips (n : Nat) (s : State) : (startStep n s).dips = s.dips := State.put_dips s _ _
@[simp] theorem startStep_tu (n : Nat) (s : State) : (startStep n s).tu = s.tu := State.put_tu s _ _
@[simp] theorem startStep_sv (n : Nat) (s : State) : (startStep n s).sv = s.sv := State.put_sv s _ _
@[simp] theorem startStep_ca (n : Nat) (s : State) : (startStep n s).ca = s.ca := State.put_ca s _ _
@[simp] theorem startStep_pw (n : Nat) (s : State) : (startStep n s).pw = s.pw := State.put_pw s _ _
@[simp] theorem startStep_s0 (n : Nat) (s : State) : (startStep n s).s0 = s.s0 := State.put_s0 s _ _
@[simp] theorem startStep_sp1 (n : Nat) (s : State) : (startStep n s).sp1 = s.sp1 := State.put_sp1 s _ _
@[simp] theorem startStep_sp2 (n : Nat) (s : State) : (startStep n s).sp2 = s.sp2 := State.put_sp2 s _ _
@[simp] theorem startStep_csn (n : Nat) (s : State) : (startStep n s).csn = s.csn := State.put_csn s _ _
@[simp] theorem startStep_bt (n : Nat) (s : State) : (startStep n s).bt = s.bt := State.put_bt s _ _
@[simp] theorem startStep_late (n : Nat) (s : State) : (startStep n s).late = s.late := State.put_late s _ _
@[simp] theorem startStep_ltrigs (n : Nat) (s : State) : (startStep n s).ltrigs = s.ltrigs := State.put_ltrigs s _ _
@[simp] theorem startStep_jpend (n : Nat) (s : State) : (startStep n s).jpend = s.jpend := State.put_jpend s _ _
@[simp] theorem startStep_jcom (n : Nat) (s : State) : (startStep n s).jcom = s.jcom := State.put_jcom s _ _
@[simp] theorem startStep_jseq (n : Nat) (s : State) : (startStep n s).jseq = s.jseq := State.put_jseq s _ _
@[simp] theorem startStep_hcache (n : Nat) (s : State) : (startStep n s).hcache = s.hcache := State.put_hcache s _ _
@[simp] theorem startStep_rrLast (n : Nat) (s : State) : (startStep n s).rrLast = s.rrLast := State.put_rrLast s _ _
@[simp] theorem startStep_ckptDone (n : Nat) (s : State) : (startStep n s).ckptDone = s.ckptDone := State.put_ckptDone s _ _
@[simp] theorem startStep_logs (n : Nat) (s : State) : (startStep n s).logs = s.logs := State.put_logs s _ _
@[simp] theorem startStep_logMap (n : Nat) (s : State) : (startStep n s).logMap = s.logMap := State.put_logMap s _ _
@[simp] theorem startStep_rdata (n : Nat) (s : State) : (startStep n s).rdata = s.rdata := State.put_rdata s _ _
@[simp] theorem startStep_free (n : Nat) (s : State) : (startStep n s).free = s.free := State.put_free s _ _
@[simp] theorem startStep_blockCtr (n : Nat) (s : State) : (startStep n s).blockCtr = s.blockCtr := State.put_blockCtr s _ _
@[simp] theorem startStep_pending (n : Nat) (s : State) : (startStep n s).pending = s.pending := State.put_pending s _ _

@[simp] theorem raiseIrq_rsh (b : Nat) (s : State) : (raiseIrq b s).rsh = s.rsh := State.put_rsh s _ _
@[simp] theorem raiseIrq_wsh (b : Nat) (s : State) : (raiseIrq b s).wsh = s.wsh := State.put_wsh s _ _
@[simp] theorem raiseIrq_qmem (b : Nat) (s : State) : (raiseIrq b s).qmem = s.qmem := State.put_qmem s _ _
@[simp] theorem raiseIrq_flash (b : Nat) (s : State) : (raiseIrq b s).flash = s.flash := State.put_flash s _ _
@[simp] theorem raiseIrq_otp (b : Nat) (s : State) : (raiseIrq b s).otp = s.otp := State.put_otp s _ _
@[simp] theorem raiseIrq_queues (b : Nat) (s : State) : (raiseIrq b s).queues = s.queues := State.put_queues s _ _
@[simp] theorem raiseIrq_pops (b : Nat) (s : State) : (raiseIrq b s).pops = s.pops := State.put_pops s _ _
@[simp] theorem raiseIrq_ctxs (b : Nat) (s : State) : (raiseIrq b s).ctxs = s.ctxs := State.put_ctxs s _ _
@[simp] theorem raiseIrq_engs (b : Nat) (s : State) : (raiseIrq b s).engs = s.engs := State.put_engs s _ _
@[simp] theorem raiseIrq_cans (b : Nat) (s : State) : (raiseIrq b s).cans = s.cans := State.put_cans s _ _
@[simp] theorem raiseIrq_cvs (b : Nat) (s : State) : (raiseIrq b s).cvs = s.cvs := State.put_cvs s _ _
@[simp] theorem raiseIrq_tiles (b : Nat) (s : State) : (raiseIrq b s).tiles = s.tiles := State.put_tiles s _ _
@[simp] theorem raiseIrq_chans (b : Nat) (s : State) : (raiseIrq b s).chans = s.chans := State.put_chans s _ _
@[simp] theorem raiseIrq_chains (b : Nat) (s : State) : (raiseIrq b s).chains = s.chains := State.put_chains s _ _
@[simp] theorem raiseIrq_dips (b : Nat) (s : State) : (raiseIrq b s).dips = s.dips := State.put_dips s _ _
@[simp] theorem raiseIrq_tu (b : Nat) (s : State) : (raiseIrq b s).tu = s.tu := State.put_tu s _ _
@[simp] theorem raiseIrq_sv (b : Nat) (s : State) : (raiseIrq b s).sv = s.sv := State.put_sv s _ _
@[simp] theorem raiseIrq_ca (b : Nat) (s : State) : (raiseIrq b s).ca = s.ca := State.put_ca s _ _
@[simp] theorem raiseIrq_pw (b : Nat) (s : State) : (raiseIrq b s).pw = s.pw := State.put_pw s _ _
@[simp] theorem raiseIrq_s0 (b : Nat) (s : State) : (raiseIrq b s).s0 = s.s0 := State.put_s0 s _ _
@[simp] theorem raiseIrq_sp1 (b : Nat) (s : State) : (raiseIrq b s).sp1 = s.sp1 := State.put_sp1 s _ _
@[simp] theorem raiseIrq_sp2 (b : Nat) (s : State) : (raiseIrq b s).sp2 = s.sp2 := State.put_sp2 s _ _
@[simp] theorem raiseIrq_csn (b : Nat) (s : State) : (raiseIrq b s).csn = s.csn := State.put_csn s _ _
@[simp] theorem raiseIrq_bt (b : Nat) (s : State) : (raiseIrq b s).bt = s.bt := State.put_bt s _ _
@[simp] theorem raiseIrq_late (b : Nat) (s : State) : (raiseIrq b s).late = s.late := State.put_late s _ _
@[simp] theorem raiseIrq_ltrigs (b : Nat) (s : State) : (raiseIrq b s).ltrigs = s.ltrigs := State.put_ltrigs s _ _
@[simp] theorem raiseIrq_jpend (b : Nat) (s : State) : (raiseIrq b s).jpend = s.jpend := State.put_jpend s _ _
@[simp] theorem raiseIrq_jcom (b : Nat) (s : State) : (raiseIrq b s).jcom = s.jcom := State.put_jcom s _ _
@[simp] theorem raiseIrq_jseq (b : Nat) (s : State) : (raiseIrq b s).jseq = s.jseq := State.put_jseq s _ _
@[simp] theorem raiseIrq_hcache (b : Nat) (s : State) : (raiseIrq b s).hcache = s.hcache := State.put_hcache s _ _
@[simp] theorem raiseIrq_rrLast (b : Nat) (s : State) : (raiseIrq b s).rrLast = s.rrLast := State.put_rrLast s _ _
@[simp] theorem raiseIrq_ckptDone (b : Nat) (s : State) : (raiseIrq b s).ckptDone = s.ckptDone := State.put_ckptDone s _ _
@[simp] theorem raiseIrq_logs (b : Nat) (s : State) : (raiseIrq b s).logs = s.logs := State.put_logs s _ _
@[simp] theorem raiseIrq_logMap (b : Nat) (s : State) : (raiseIrq b s).logMap = s.logMap := State.put_logMap s _ _
@[simp] theorem raiseIrq_rdata (b : Nat) (s : State) : (raiseIrq b s).rdata = s.rdata := State.put_rdata s _ _
@[simp] theorem raiseIrq_free (b : Nat) (s : State) : (raiseIrq b s).free = s.free := State.put_free s _ _
@[simp] theorem raiseIrq_blockCtr (b : Nat) (s : State) : (raiseIrq b s).blockCtr = s.blockCtr := State.put_blockCtr s _ _
@[simp] theorem raiseIrq_pending (b : Nat) (s : State) : (raiseIrq b s).pending = s.pending := State.put_pending s _ _

@[simp] theorem State.useFree_regs (s : State) : (s.useFree).regs = s.regs := rfl
@[simp] theorem State.useFree_rsh (s : State) : (s.useFree).rsh = s.rsh := rfl
@[simp] theorem State.useFree_wsh (s : State) : (s.useFree).wsh = s.wsh := rfl
@[simp] theorem State.useFree_qmem (s : State) : (s.useFree).qmem = s.qmem := rfl
@[simp] theorem State.useFree_flash (s : State) : (s.useFree).flash = s.flash := rfl
@[simp] theorem State.useFree_otp (s : State) : (s.useFree).otp = s.otp := rfl
@[simp] theorem State.useFree_queues (s : State) : (s.useFree).queues = s.queues := rfl
@[simp] theorem State.useFree_pops (s : State) : (s.useFree).pops = s.pops := rfl
@[simp] theorem State.useFree_ctxs (s : State) : (s.useFree).ctxs = s.ctxs := rfl
@[simp] theorem State.useFree_engs (s : State) : (s.useFree).engs = s.engs := rfl
@[simp] theorem State.useFree_cans (s : State) : (s.useFree).cans = s.cans := rfl
@[simp] theorem State.useFree_cvs (s : State) : (s.useFree).cvs = s.cvs := rfl
@[simp] theorem State.useFree_tiles (s : State) : (s.useFree).tiles = s.tiles := rfl
@[simp] theorem State.useFree_chans (s : State) : (s.useFree).chans = s.chans := rfl
@[simp] theorem State.useFree_chains (s : State) : (s.useFree).chains = s.chains := rfl
@[simp] theorem State.useFree_dips (s : State) : (s.useFree).dips = s.dips := rfl
@[simp] theorem State.useFree_tu (s : State) : (s.useFree).tu = s.tu := rfl
@[simp] theorem State.useFree_sv (s : State) : (s.useFree).sv = s.sv := rfl
@[simp] theorem State.useFree_ca (s : State) : (s.useFree).ca = s.ca := rfl
@[simp] theorem State.useFree_pw (s : State) : (s.useFree).pw = s.pw := rfl
@[simp] theorem State.useFree_s0 (s : State) : (s.useFree).s0 = s.s0 := rfl
@[simp] theorem State.useFree_sp1 (s : State) : (s.useFree).sp1 = s.sp1 := rfl
@[simp] theorem State.useFree_sp2 (s : State) : (s.useFree).sp2 = s.sp2 := rfl
@[simp] theorem State.useFree_csn (s : State) : (s.useFree).csn = s.csn := rfl
@[simp] theorem State.useFree_bt (s : State) : (s.useFree).bt = s.bt := rfl
@[simp] theorem State.useFree_late (s : State) : (s.useFree).late = s.late := rfl
@[simp] theorem State.useFree_ltrigs (s : State) : (s.useFree).ltrigs = s.ltrigs := rfl
@[simp] theorem State.useFree_jpend (s : State) : (s.useFree).jpend = s.jpend := rfl
@[simp] theorem State.useFree_jcom (s : State) : (s.useFree).jcom = s.jcom := rfl
@[simp] theorem State.useFree_jseq (s : State) : (s.useFree).jseq = s.jseq := rfl
@[simp] theorem State.useFree_hcache (s : State) : (s.useFree).hcache = s.hcache := rfl
@[simp] theorem State.useFree_rrLast (s : State) : (s.useFree).rrLast = s.rrLast := rfl
@[simp] theorem State.useFree_ckptDone (s : State) : (s.useFree).ckptDone = s.ckptDone := rfl
@[simp] theorem State.useFree_logs (s : State) : (s.useFree).logs = s.logs := rfl
@[simp] theorem State.useFree_logMap (s : State) : (s.useFree).logMap = s.logMap := rfl
@[simp] theorem State.useFree_rdata (s : State) : (s.useFree).rdata = s.rdata := rfl
@[simp] theorem State.useFree_blockCtr (s : State) : (s.useFree).blockCtr = s.blockCtr := rfl
@[simp] theorem State.useFree_pending (s : State) : (s.useFree).pending = s.pending := rfl
@[simp] theorem State.useFree_rd (s : State) (j : Nat) : rd (s.useFree) j = rd s j := rfl
@[simp] theorem State.useFree_get (s : State) (g : FldRef) : State.get (s.useFree) g = s.get g := rfl

@[simp] theorem State.setQueue_regs (s : State) (q : Nat) (x : QSt) : (s.setQueue q x).regs = s.regs := rfl
@[simp] theorem State.setQueue_rsh (s : State) (q : Nat) (x : QSt) : (s.setQueue q x).rsh = s.rsh := rfl
@[simp] theorem State.setQueue_wsh (s : State) (q : Nat) (x : QSt) : (s.setQueue q x).wsh = s.wsh := rfl
@[simp] theorem State.setQueue_qmem (s : State) (q : Nat) (x : QSt) : (s.setQueue q x).qmem = s.qmem := rfl
@[simp] theorem State.setQueue_flash (s : State) (q : Nat) (x : QSt) : (s.setQueue q x).flash = s.flash := rfl
@[simp] theorem State.setQueue_otp (s : State) (q : Nat) (x : QSt) : (s.setQueue q x).otp = s.otp := rfl
@[simp] theorem State.setQueue_pops (s : State) (q : Nat) (x : QSt) : (s.setQueue q x).pops = s.pops := rfl
@[simp] theorem State.setQueue_ctxs (s : State) (q : Nat) (x : QSt) : (s.setQueue q x).ctxs = s.ctxs := rfl
@[simp] theorem State.setQueue_engs (s : State) (q : Nat) (x : QSt) : (s.setQueue q x).engs = s.engs := rfl
@[simp] theorem State.setQueue_cans (s : State) (q : Nat) (x : QSt) : (s.setQueue q x).cans = s.cans := rfl
@[simp] theorem State.setQueue_cvs (s : State) (q : Nat) (x : QSt) : (s.setQueue q x).cvs = s.cvs := rfl
@[simp] theorem State.setQueue_tiles (s : State) (q : Nat) (x : QSt) : (s.setQueue q x).tiles = s.tiles := rfl
@[simp] theorem State.setQueue_chans (s : State) (q : Nat) (x : QSt) : (s.setQueue q x).chans = s.chans := rfl
@[simp] theorem State.setQueue_chains (s : State) (q : Nat) (x : QSt) : (s.setQueue q x).chains = s.chains := rfl
@[simp] theorem State.setQueue_dips (s : State) (q : Nat) (x : QSt) : (s.setQueue q x).dips = s.dips := rfl
@[simp] theorem State.setQueue_tu (s : State) (q : Nat) (x : QSt) : (s.setQueue q x).tu = s.tu := rfl
@[simp] theorem State.setQueue_sv (s : State) (q : Nat) (x : QSt) : (s.setQueue q x).sv = s.sv := rfl
@[simp] theorem State.setQueue_ca (s : State) (q : Nat) (x : QSt) : (s.setQueue q x).ca = s.ca := rfl
@[simp] theorem State.setQueue_pw (s : State) (q : Nat) (x : QSt) : (s.setQueue q x).pw = s.pw := rfl
@[simp] theorem State.setQueue_s0 (s : State) (q : Nat) (x : QSt) : (s.setQueue q x).s0 = s.s0 := rfl
@[simp] theorem State.setQueue_sp1 (s : State) (q : Nat) (x : QSt) : (s.setQueue q x).sp1 = s.sp1 := rfl
@[simp] theorem State.setQueue_sp2 (s : State) (q : Nat) (x : QSt) : (s.setQueue q x).sp2 = s.sp2 := rfl
@[simp] theorem State.setQueue_csn (s : State) (q : Nat) (x : QSt) : (s.setQueue q x).csn = s.csn := rfl
@[simp] theorem State.setQueue_bt (s : State) (q : Nat) (x : QSt) : (s.setQueue q x).bt = s.bt := rfl
@[simp] theorem State.setQueue_late (s : State) (q : Nat) (x : QSt) : (s.setQueue q x).late = s.late := rfl
@[simp] theorem State.setQueue_ltrigs (s : State) (q : Nat) (x : QSt) : (s.setQueue q x).ltrigs = s.ltrigs := rfl
@[simp] theorem State.setQueue_jpend (s : State) (q : Nat) (x : QSt) : (s.setQueue q x).jpend = s.jpend := rfl
@[simp] theorem State.setQueue_jcom (s : State) (q : Nat) (x : QSt) : (s.setQueue q x).jcom = s.jcom := rfl
@[simp] theorem State.setQueue_jseq (s : State) (q : Nat) (x : QSt) : (s.setQueue q x).jseq = s.jseq := rfl
@[simp] theorem State.setQueue_hcache (s : State) (q : Nat) (x : QSt) : (s.setQueue q x).hcache = s.hcache := rfl
@[simp] theorem State.setQueue_rrLast (s : State) (q : Nat) (x : QSt) : (s.setQueue q x).rrLast = s.rrLast := rfl
@[simp] theorem State.setQueue_ckptDone (s : State) (q : Nat) (x : QSt) : (s.setQueue q x).ckptDone = s.ckptDone := rfl
@[simp] theorem State.setQueue_logs (s : State) (q : Nat) (x : QSt) : (s.setQueue q x).logs = s.logs := rfl
@[simp] theorem State.setQueue_logMap (s : State) (q : Nat) (x : QSt) : (s.setQueue q x).logMap = s.logMap := rfl
@[simp] theorem State.setQueue_rdata (s : State) (q : Nat) (x : QSt) : (s.setQueue q x).rdata = s.rdata := rfl
@[simp] theorem State.setQueue_free (s : State) (q : Nat) (x : QSt) : (s.setQueue q x).free = s.free := rfl
@[simp] theorem State.setQueue_blockCtr (s : State) (q : Nat) (x : QSt) : (s.setQueue q x).blockCtr = s.blockCtr := rfl
@[simp] theorem State.setQueue_pending (s : State) (q : Nat) (x : QSt) : (s.setQueue q x).pending = s.pending := rfl
@[simp] theorem State.setQueue_rd (s : State) (q : Nat) (x : QSt) (j : Nat) : rd (s.setQueue q x) j = rd s j := rfl
@[simp] theorem State.setQueue_get (s : State) (q : Nat) (x : QSt) (g : FldRef) : State.get (s.setQueue q x) g = s.get g := rfl

@[simp] theorem State.setPsh_regs (s : State) (q r : Nat) (x : PSh) : (s.setPsh q r x).regs = s.regs := rfl
@[simp] theorem State.setPsh_rsh (s : State) (q r : Nat) (x : PSh) : (s.setPsh q r x).rsh = s.rsh := rfl
@[simp] theorem State.setPsh_wsh (s : State) (q r : Nat) (x : PSh) : (s.setPsh q r x).wsh = s.wsh := rfl
@[simp] theorem State.setPsh_qmem (s : State) (q r : Nat) (x : PSh) : (s.setPsh q r x).qmem = s.qmem := rfl
@[simp] theorem State.setPsh_flash (s : State) (q r : Nat) (x : PSh) : (s.setPsh q r x).flash = s.flash := rfl
@[simp] theorem State.setPsh_otp (s : State) (q r : Nat) (x : PSh) : (s.setPsh q r x).otp = s.otp := rfl
@[simp] theorem State.setPsh_queues (s : State) (q r : Nat) (x : PSh) : (s.setPsh q r x).queues = s.queues := rfl
@[simp] theorem State.setPsh_ctxs (s : State) (q r : Nat) (x : PSh) : (s.setPsh q r x).ctxs = s.ctxs := rfl
@[simp] theorem State.setPsh_engs (s : State) (q r : Nat) (x : PSh) : (s.setPsh q r x).engs = s.engs := rfl
@[simp] theorem State.setPsh_cans (s : State) (q r : Nat) (x : PSh) : (s.setPsh q r x).cans = s.cans := rfl
@[simp] theorem State.setPsh_cvs (s : State) (q r : Nat) (x : PSh) : (s.setPsh q r x).cvs = s.cvs := rfl
@[simp] theorem State.setPsh_tiles (s : State) (q r : Nat) (x : PSh) : (s.setPsh q r x).tiles = s.tiles := rfl
@[simp] theorem State.setPsh_chans (s : State) (q r : Nat) (x : PSh) : (s.setPsh q r x).chans = s.chans := rfl
@[simp] theorem State.setPsh_chains (s : State) (q r : Nat) (x : PSh) : (s.setPsh q r x).chains = s.chains := rfl
@[simp] theorem State.setPsh_dips (s : State) (q r : Nat) (x : PSh) : (s.setPsh q r x).dips = s.dips := rfl
@[simp] theorem State.setPsh_tu (s : State) (q r : Nat) (x : PSh) : (s.setPsh q r x).tu = s.tu := rfl
@[simp] theorem State.setPsh_sv (s : State) (q r : Nat) (x : PSh) : (s.setPsh q r x).sv = s.sv := rfl
@[simp] theorem State.setPsh_ca (s : State) (q r : Nat) (x : PSh) : (s.setPsh q r x).ca = s.ca := rfl
@[simp] theorem State.setPsh_pw (s : State) (q r : Nat) (x : PSh) : (s.setPsh q r x).pw = s.pw := rfl
@[simp] theorem State.setPsh_s0 (s : State) (q r : Nat) (x : PSh) : (s.setPsh q r x).s0 = s.s0 := rfl
@[simp] theorem State.setPsh_sp1 (s : State) (q r : Nat) (x : PSh) : (s.setPsh q r x).sp1 = s.sp1 := rfl
@[simp] theorem State.setPsh_sp2 (s : State) (q r : Nat) (x : PSh) : (s.setPsh q r x).sp2 = s.sp2 := rfl
@[simp] theorem State.setPsh_csn (s : State) (q r : Nat) (x : PSh) : (s.setPsh q r x).csn = s.csn := rfl
@[simp] theorem State.setPsh_bt (s : State) (q r : Nat) (x : PSh) : (s.setPsh q r x).bt = s.bt := rfl
@[simp] theorem State.setPsh_late (s : State) (q r : Nat) (x : PSh) : (s.setPsh q r x).late = s.late := rfl
@[simp] theorem State.setPsh_ltrigs (s : State) (q r : Nat) (x : PSh) : (s.setPsh q r x).ltrigs = s.ltrigs := rfl
@[simp] theorem State.setPsh_jpend (s : State) (q r : Nat) (x : PSh) : (s.setPsh q r x).jpend = s.jpend := rfl
@[simp] theorem State.setPsh_jcom (s : State) (q r : Nat) (x : PSh) : (s.setPsh q r x).jcom = s.jcom := rfl
@[simp] theorem State.setPsh_jseq (s : State) (q r : Nat) (x : PSh) : (s.setPsh q r x).jseq = s.jseq := rfl
@[simp] theorem State.setPsh_hcache (s : State) (q r : Nat) (x : PSh) : (s.setPsh q r x).hcache = s.hcache := rfl
@[simp] theorem State.setPsh_rrLast (s : State) (q r : Nat) (x : PSh) : (s.setPsh q r x).rrLast = s.rrLast := rfl
@[simp] theorem State.setPsh_ckptDone (s : State) (q r : Nat) (x : PSh) : (s.setPsh q r x).ckptDone = s.ckptDone := rfl
@[simp] theorem State.setPsh_logs (s : State) (q r : Nat) (x : PSh) : (s.setPsh q r x).logs = s.logs := rfl
@[simp] theorem State.setPsh_logMap (s : State) (q r : Nat) (x : PSh) : (s.setPsh q r x).logMap = s.logMap := rfl
@[simp] theorem State.setPsh_rdata (s : State) (q r : Nat) (x : PSh) : (s.setPsh q r x).rdata = s.rdata := rfl
@[simp] theorem State.setPsh_free (s : State) (q r : Nat) (x : PSh) : (s.setPsh q r x).free = s.free := rfl
@[simp] theorem State.setPsh_blockCtr (s : State) (q r : Nat) (x : PSh) : (s.setPsh q r x).blockCtr = s.blockCtr := rfl
@[simp] theorem State.setPsh_pending (s : State) (q r : Nat) (x : PSh) : (s.setPsh q r x).pending = s.pending := rfl
@[simp] theorem State.setPsh_rd (s : State) (q r : Nat) (x : PSh) (j : Nat) : rd (s.setPsh q r x) j = rd s j := rfl
@[simp] theorem State.setPsh_get (s : State) (q r : Nat) (x : PSh) (g : FldRef) : State.get (s.setPsh q r x) g = s.get g := rfl

@[simp] theorem State.setCtx_regs (s : State) (c : Nat) (x : CtxSt) : (s.setCtx c x).regs = s.regs := rfl
@[simp] theorem State.setCtx_rsh (s : State) (c : Nat) (x : CtxSt) : (s.setCtx c x).rsh = s.rsh := rfl
@[simp] theorem State.setCtx_wsh (s : State) (c : Nat) (x : CtxSt) : (s.setCtx c x).wsh = s.wsh := rfl
@[simp] theorem State.setCtx_qmem (s : State) (c : Nat) (x : CtxSt) : (s.setCtx c x).qmem = s.qmem := rfl
@[simp] theorem State.setCtx_flash (s : State) (c : Nat) (x : CtxSt) : (s.setCtx c x).flash = s.flash := rfl
@[simp] theorem State.setCtx_otp (s : State) (c : Nat) (x : CtxSt) : (s.setCtx c x).otp = s.otp := rfl
@[simp] theorem State.setCtx_queues (s : State) (c : Nat) (x : CtxSt) : (s.setCtx c x).queues = s.queues := rfl
@[simp] theorem State.setCtx_pops (s : State) (c : Nat) (x : CtxSt) : (s.setCtx c x).pops = s.pops := rfl
@[simp] theorem State.setCtx_engs (s : State) (c : Nat) (x : CtxSt) : (s.setCtx c x).engs = s.engs := rfl
@[simp] theorem State.setCtx_cans (s : State) (c : Nat) (x : CtxSt) : (s.setCtx c x).cans = s.cans := rfl
@[simp] theorem State.setCtx_cvs (s : State) (c : Nat) (x : CtxSt) : (s.setCtx c x).cvs = s.cvs := rfl
@[simp] theorem State.setCtx_tiles (s : State) (c : Nat) (x : CtxSt) : (s.setCtx c x).tiles = s.tiles := rfl
@[simp] theorem State.setCtx_chans (s : State) (c : Nat) (x : CtxSt) : (s.setCtx c x).chans = s.chans := rfl
@[simp] theorem State.setCtx_chains (s : State) (c : Nat) (x : CtxSt) : (s.setCtx c x).chains = s.chains := rfl
@[simp] theorem State.setCtx_dips (s : State) (c : Nat) (x : CtxSt) : (s.setCtx c x).dips = s.dips := rfl
@[simp] theorem State.setCtx_tu (s : State) (c : Nat) (x : CtxSt) : (s.setCtx c x).tu = s.tu := rfl
@[simp] theorem State.setCtx_sv (s : State) (c : Nat) (x : CtxSt) : (s.setCtx c x).sv = s.sv := rfl
@[simp] theorem State.setCtx_ca (s : State) (c : Nat) (x : CtxSt) : (s.setCtx c x).ca = s.ca := rfl
@[simp] theorem State.setCtx_pw (s : State) (c : Nat) (x : CtxSt) : (s.setCtx c x).pw = s.pw := rfl
@[simp] theorem State.setCtx_s0 (s : State) (c : Nat) (x : CtxSt) : (s.setCtx c x).s0 = s.s0 := rfl
@[simp] theorem State.setCtx_sp1 (s : State) (c : Nat) (x : CtxSt) : (s.setCtx c x).sp1 = s.sp1 := rfl
@[simp] theorem State.setCtx_sp2 (s : State) (c : Nat) (x : CtxSt) : (s.setCtx c x).sp2 = s.sp2 := rfl
@[simp] theorem State.setCtx_csn (s : State) (c : Nat) (x : CtxSt) : (s.setCtx c x).csn = s.csn := rfl
@[simp] theorem State.setCtx_bt (s : State) (c : Nat) (x : CtxSt) : (s.setCtx c x).bt = s.bt := rfl
@[simp] theorem State.setCtx_late (s : State) (c : Nat) (x : CtxSt) : (s.setCtx c x).late = s.late := rfl
@[simp] theorem State.setCtx_ltrigs (s : State) (c : Nat) (x : CtxSt) : (s.setCtx c x).ltrigs = s.ltrigs := rfl
@[simp] theorem State.setCtx_jpend (s : State) (c : Nat) (x : CtxSt) : (s.setCtx c x).jpend = s.jpend := rfl
@[simp] theorem State.setCtx_jcom (s : State) (c : Nat) (x : CtxSt) : (s.setCtx c x).jcom = s.jcom := rfl
@[simp] theorem State.setCtx_jseq (s : State) (c : Nat) (x : CtxSt) : (s.setCtx c x).jseq = s.jseq := rfl
@[simp] theorem State.setCtx_hcache (s : State) (c : Nat) (x : CtxSt) : (s.setCtx c x).hcache = s.hcache := rfl
@[simp] theorem State.setCtx_rrLast (s : State) (c : Nat) (x : CtxSt) : (s.setCtx c x).rrLast = s.rrLast := rfl
@[simp] theorem State.setCtx_ckptDone (s : State) (c : Nat) (x : CtxSt) : (s.setCtx c x).ckptDone = s.ckptDone := rfl
@[simp] theorem State.setCtx_logs (s : State) (c : Nat) (x : CtxSt) : (s.setCtx c x).logs = s.logs := rfl
@[simp] theorem State.setCtx_logMap (s : State) (c : Nat) (x : CtxSt) : (s.setCtx c x).logMap = s.logMap := rfl
@[simp] theorem State.setCtx_rdata (s : State) (c : Nat) (x : CtxSt) : (s.setCtx c x).rdata = s.rdata := rfl
@[simp] theorem State.setCtx_free (s : State) (c : Nat) (x : CtxSt) : (s.setCtx c x).free = s.free := rfl
@[simp] theorem State.setCtx_blockCtr (s : State) (c : Nat) (x : CtxSt) : (s.setCtx c x).blockCtr = s.blockCtr := rfl
@[simp] theorem State.setCtx_pending (s : State) (c : Nat) (x : CtxSt) : (s.setCtx c x).pending = s.pending := rfl
@[simp] theorem State.setCtx_rd (s : State) (c : Nat) (x : CtxSt) (j : Nat) : rd (s.setCtx c x) j = rd s j := rfl
@[simp] theorem State.setCtx_get (s : State) (c : Nat) (x : CtxSt) (g : FldRef) : State.get (s.setCtx c x) g = s.get g := rfl

@[simp] theorem State.modCtx_regs (s : State) (c : Nat) (f : CtxSt → CtxSt) : (s.modCtx c f).regs = s.regs := rfl
@[simp] theorem State.modCtx_rsh (s : State) (c : Nat) (f : CtxSt → CtxSt) : (s.modCtx c f).rsh = s.rsh := rfl
@[simp] theorem State.modCtx_wsh (s : State) (c : Nat) (f : CtxSt → CtxSt) : (s.modCtx c f).wsh = s.wsh := rfl
@[simp] theorem State.modCtx_qmem (s : State) (c : Nat) (f : CtxSt → CtxSt) : (s.modCtx c f).qmem = s.qmem := rfl
@[simp] theorem State.modCtx_flash (s : State) (c : Nat) (f : CtxSt → CtxSt) : (s.modCtx c f).flash = s.flash := rfl
@[simp] theorem State.modCtx_otp (s : State) (c : Nat) (f : CtxSt → CtxSt) : (s.modCtx c f).otp = s.otp := rfl
@[simp] theorem State.modCtx_queues (s : State) (c : Nat) (f : CtxSt → CtxSt) : (s.modCtx c f).queues = s.queues := rfl
@[simp] theorem State.modCtx_pops (s : State) (c : Nat) (f : CtxSt → CtxSt) : (s.modCtx c f).pops = s.pops := rfl
@[simp] theorem State.modCtx_engs (s : State) (c : Nat) (f : CtxSt → CtxSt) : (s.modCtx c f).engs = s.engs := rfl
@[simp] theorem State.modCtx_cans (s : State) (c : Nat) (f : CtxSt → CtxSt) : (s.modCtx c f).cans = s.cans := rfl
@[simp] theorem State.modCtx_cvs (s : State) (c : Nat) (f : CtxSt → CtxSt) : (s.modCtx c f).cvs = s.cvs := rfl
@[simp] theorem State.modCtx_tiles (s : State) (c : Nat) (f : CtxSt → CtxSt) : (s.modCtx c f).tiles = s.tiles := rfl
@[simp] theorem State.modCtx_chans (s : State) (c : Nat) (f : CtxSt → CtxSt) : (s.modCtx c f).chans = s.chans := rfl
@[simp] theorem State.modCtx_chains (s : State) (c : Nat) (f : CtxSt → CtxSt) : (s.modCtx c f).chains = s.chains := rfl
@[simp] theorem State.modCtx_dips (s : State) (c : Nat) (f : CtxSt → CtxSt) : (s.modCtx c f).dips = s.dips := rfl
@[simp] theorem State.modCtx_tu (s : State) (c : Nat) (f : CtxSt → CtxSt) : (s.modCtx c f).tu = s.tu := rfl
@[simp] theorem State.modCtx_sv (s : State) (c : Nat) (f : CtxSt → CtxSt) : (s.modCtx c f).sv = s.sv := rfl
@[simp] theorem State.modCtx_ca (s : State) (c : Nat) (f : CtxSt → CtxSt) : (s.modCtx c f).ca = s.ca := rfl
@[simp] theorem State.modCtx_pw (s : State) (c : Nat) (f : CtxSt → CtxSt) : (s.modCtx c f).pw = s.pw := rfl
@[simp] theorem State.modCtx_s0 (s : State) (c : Nat) (f : CtxSt → CtxSt) : (s.modCtx c f).s0 = s.s0 := rfl
@[simp] theorem State.modCtx_sp1 (s : State) (c : Nat) (f : CtxSt → CtxSt) : (s.modCtx c f).sp1 = s.sp1 := rfl
@[simp] theorem State.modCtx_sp2 (s : State) (c : Nat) (f : CtxSt → CtxSt) : (s.modCtx c f).sp2 = s.sp2 := rfl
@[simp] theorem State.modCtx_csn (s : State) (c : Nat) (f : CtxSt → CtxSt) : (s.modCtx c f).csn = s.csn := rfl
@[simp] theorem State.modCtx_bt (s : State) (c : Nat) (f : CtxSt → CtxSt) : (s.modCtx c f).bt = s.bt := rfl
@[simp] theorem State.modCtx_late (s : State) (c : Nat) (f : CtxSt → CtxSt) : (s.modCtx c f).late = s.late := rfl
@[simp] theorem State.modCtx_ltrigs (s : State) (c : Nat) (f : CtxSt → CtxSt) : (s.modCtx c f).ltrigs = s.ltrigs := rfl
@[simp] theorem State.modCtx_jpend (s : State) (c : Nat) (f : CtxSt → CtxSt) : (s.modCtx c f).jpend = s.jpend := rfl
@[simp] theorem State.modCtx_jcom (s : State) (c : Nat) (f : CtxSt → CtxSt) : (s.modCtx c f).jcom = s.jcom := rfl
@[simp] theorem State.modCtx_jseq (s : State) (c : Nat) (f : CtxSt → CtxSt) : (s.modCtx c f).jseq = s.jseq := rfl
@[simp] theorem State.modCtx_hcache (s : State) (c : Nat) (f : CtxSt → CtxSt) : (s.modCtx c f).hcache = s.hcache := rfl
@[simp] theorem State.modCtx_rrLast (s : State) (c : Nat) (f : CtxSt → CtxSt) : (s.modCtx c f).rrLast = s.rrLast := rfl
@[simp] theorem State.modCtx_ckptDone (s : State) (c : Nat) (f : CtxSt → CtxSt) : (s.modCtx c f).ckptDone = s.ckptDone := rfl
@[simp] theorem State.modCtx_logs (s : State) (c : Nat) (f : CtxSt → CtxSt) : (s.modCtx c f).logs = s.logs := rfl
@[simp] theorem State.modCtx_logMap (s : State) (c : Nat) (f : CtxSt → CtxSt) : (s.modCtx c f).logMap = s.logMap := rfl
@[simp] theorem State.modCtx_rdata (s : State) (c : Nat) (f : CtxSt → CtxSt) : (s.modCtx c f).rdata = s.rdata := rfl
@[simp] theorem State.modCtx_free (s : State) (c : Nat) (f : CtxSt → CtxSt) : (s.modCtx c f).free = s.free := rfl
@[simp] theorem State.modCtx_blockCtr (s : State) (c : Nat) (f : CtxSt → CtxSt) : (s.modCtx c f).blockCtr = s.blockCtr := rfl
@[simp] theorem State.modCtx_pending (s : State) (c : Nat) (f : CtxSt → CtxSt) : (s.modCtx c f).pending = s.pending := rfl
@[simp] theorem State.modCtx_rd (s : State) (c : Nat) (f : CtxSt → CtxSt) (j : Nat) : rd (s.modCtx c f) j = rd s j := rfl
@[simp] theorem State.modCtx_get (s : State) (c : Nat) (f : CtxSt → CtxSt) (g : FldRef) : State.get (s.modCtx c f) g = s.get g := rfl

@[simp] theorem State.setEng_regs (s : State) (e : Nat) (x : EngSt) : (s.setEng e x).regs = s.regs := rfl
@[simp] theorem State.setEng_rsh (s : State) (e : Nat) (x : EngSt) : (s.setEng e x).rsh = s.rsh := rfl
@[simp] theorem State.setEng_wsh (s : State) (e : Nat) (x : EngSt) : (s.setEng e x).wsh = s.wsh := rfl
@[simp] theorem State.setEng_qmem (s : State) (e : Nat) (x : EngSt) : (s.setEng e x).qmem = s.qmem := rfl
@[simp] theorem State.setEng_flash (s : State) (e : Nat) (x : EngSt) : (s.setEng e x).flash = s.flash := rfl
@[simp] theorem State.setEng_otp (s : State) (e : Nat) (x : EngSt) : (s.setEng e x).otp = s.otp := rfl
@[simp] theorem State.setEng_queues (s : State) (e : Nat) (x : EngSt) : (s.setEng e x).queues = s.queues := rfl
@[simp] theorem State.setEng_pops (s : State) (e : Nat) (x : EngSt) : (s.setEng e x).pops = s.pops := rfl
@[simp] theorem State.setEng_ctxs (s : State) (e : Nat) (x : EngSt) : (s.setEng e x).ctxs = s.ctxs := rfl
@[simp] theorem State.setEng_cans (s : State) (e : Nat) (x : EngSt) : (s.setEng e x).cans = s.cans := rfl
@[simp] theorem State.setEng_cvs (s : State) (e : Nat) (x : EngSt) : (s.setEng e x).cvs = s.cvs := rfl
@[simp] theorem State.setEng_tiles (s : State) (e : Nat) (x : EngSt) : (s.setEng e x).tiles = s.tiles := rfl
@[simp] theorem State.setEng_chans (s : State) (e : Nat) (x : EngSt) : (s.setEng e x).chans = s.chans := rfl
@[simp] theorem State.setEng_chains (s : State) (e : Nat) (x : EngSt) : (s.setEng e x).chains = s.chains := rfl
@[simp] theorem State.setEng_dips (s : State) (e : Nat) (x : EngSt) : (s.setEng e x).dips = s.dips := rfl
@[simp] theorem State.setEng_tu (s : State) (e : Nat) (x : EngSt) : (s.setEng e x).tu = s.tu := rfl
@[simp] theorem State.setEng_sv (s : State) (e : Nat) (x : EngSt) : (s.setEng e x).sv = s.sv := rfl
@[simp] theorem State.setEng_ca (s : State) (e : Nat) (x : EngSt) : (s.setEng e x).ca = s.ca := rfl
@[simp] theorem State.setEng_pw (s : State) (e : Nat) (x : EngSt) : (s.setEng e x).pw = s.pw := rfl
@[simp] theorem State.setEng_s0 (s : State) (e : Nat) (x : EngSt) : (s.setEng e x).s0 = s.s0 := rfl
@[simp] theorem State.setEng_sp1 (s : State) (e : Nat) (x : EngSt) : (s.setEng e x).sp1 = s.sp1 := rfl
@[simp] theorem State.setEng_sp2 (s : State) (e : Nat) (x : EngSt) : (s.setEng e x).sp2 = s.sp2 := rfl
@[simp] theorem State.setEng_csn (s : State) (e : Nat) (x : EngSt) : (s.setEng e x).csn = s.csn := rfl
@[simp] theorem State.setEng_bt (s : State) (e : Nat) (x : EngSt) : (s.setEng e x).bt = s.bt := rfl
@[simp] theorem State.setEng_late (s : State) (e : Nat) (x : EngSt) : (s.setEng e x).late = s.late := rfl
@[simp] theorem State.setEng_ltrigs (s : State) (e : Nat) (x : EngSt) : (s.setEng e x).ltrigs = s.ltrigs := rfl
@[simp] theorem State.setEng_jpend (s : State) (e : Nat) (x : EngSt) : (s.setEng e x).jpend = s.jpend := rfl
@[simp] theorem State.setEng_jcom (s : State) (e : Nat) (x : EngSt) : (s.setEng e x).jcom = s.jcom := rfl
@[simp] theorem State.setEng_jseq (s : State) (e : Nat) (x : EngSt) : (s.setEng e x).jseq = s.jseq := rfl
@[simp] theorem State.setEng_hcache (s : State) (e : Nat) (x : EngSt) : (s.setEng e x).hcache = s.hcache := rfl
@[simp] theorem State.setEng_rrLast (s : State) (e : Nat) (x : EngSt) : (s.setEng e x).rrLast = s.rrLast := rfl
@[simp] theorem State.setEng_ckptDone (s : State) (e : Nat) (x : EngSt) : (s.setEng e x).ckptDone = s.ckptDone := rfl
@[simp] theorem State.setEng_logs (s : State) (e : Nat) (x : EngSt) : (s.setEng e x).logs = s.logs := rfl
@[simp] theorem State.setEng_logMap (s : State) (e : Nat) (x : EngSt) : (s.setEng e x).logMap = s.logMap := rfl
@[simp] theorem State.setEng_rdata (s : State) (e : Nat) (x : EngSt) : (s.setEng e x).rdata = s.rdata := rfl
@[simp] theorem State.setEng_free (s : State) (e : Nat) (x : EngSt) : (s.setEng e x).free = s.free := rfl
@[simp] theorem State.setEng_blockCtr (s : State) (e : Nat) (x : EngSt) : (s.setEng e x).blockCtr = s.blockCtr := rfl
@[simp] theorem State.setEng_pending (s : State) (e : Nat) (x : EngSt) : (s.setEng e x).pending = s.pending := rfl
@[simp] theorem State.setEng_rd (s : State) (e : Nat) (x : EngSt) (j : Nat) : rd (s.setEng e x) j = rd s j := rfl
@[simp] theorem State.setEng_get (s : State) (e : Nat) (x : EngSt) (g : FldRef) : State.get (s.setEng e x) g = s.get g := rfl

@[simp] theorem State.setCan_regs (s : State) (p : Nat) (x : CanSt) : (s.setCan p x).regs = s.regs := rfl
@[simp] theorem State.setCan_rsh (s : State) (p : Nat) (x : CanSt) : (s.setCan p x).rsh = s.rsh := rfl
@[simp] theorem State.setCan_wsh (s : State) (p : Nat) (x : CanSt) : (s.setCan p x).wsh = s.wsh := rfl
@[simp] theorem State.setCan_qmem (s : State) (p : Nat) (x : CanSt) : (s.setCan p x).qmem = s.qmem := rfl
@[simp] theorem State.setCan_flash (s : State) (p : Nat) (x : CanSt) : (s.setCan p x).flash = s.flash := rfl
@[simp] theorem State.setCan_otp (s : State) (p : Nat) (x : CanSt) : (s.setCan p x).otp = s.otp := rfl
@[simp] theorem State.setCan_queues (s : State) (p : Nat) (x : CanSt) : (s.setCan p x).queues = s.queues := rfl
@[simp] theorem State.setCan_pops (s : State) (p : Nat) (x : CanSt) : (s.setCan p x).pops = s.pops := rfl
@[simp] theorem State.setCan_ctxs (s : State) (p : Nat) (x : CanSt) : (s.setCan p x).ctxs = s.ctxs := rfl
@[simp] theorem State.setCan_engs (s : State) (p : Nat) (x : CanSt) : (s.setCan p x).engs = s.engs := rfl
@[simp] theorem State.setCan_cvs (s : State) (p : Nat) (x : CanSt) : (s.setCan p x).cvs = s.cvs := rfl
@[simp] theorem State.setCan_tiles (s : State) (p : Nat) (x : CanSt) : (s.setCan p x).tiles = s.tiles := rfl
@[simp] theorem State.setCan_chans (s : State) (p : Nat) (x : CanSt) : (s.setCan p x).chans = s.chans := rfl
@[simp] theorem State.setCan_chains (s : State) (p : Nat) (x : CanSt) : (s.setCan p x).chains = s.chains := rfl
@[simp] theorem State.setCan_dips (s : State) (p : Nat) (x : CanSt) : (s.setCan p x).dips = s.dips := rfl
@[simp] theorem State.setCan_tu (s : State) (p : Nat) (x : CanSt) : (s.setCan p x).tu = s.tu := rfl
@[simp] theorem State.setCan_sv (s : State) (p : Nat) (x : CanSt) : (s.setCan p x).sv = s.sv := rfl
@[simp] theorem State.setCan_ca (s : State) (p : Nat) (x : CanSt) : (s.setCan p x).ca = s.ca := rfl
@[simp] theorem State.setCan_pw (s : State) (p : Nat) (x : CanSt) : (s.setCan p x).pw = s.pw := rfl
@[simp] theorem State.setCan_s0 (s : State) (p : Nat) (x : CanSt) : (s.setCan p x).s0 = s.s0 := rfl
@[simp] theorem State.setCan_sp1 (s : State) (p : Nat) (x : CanSt) : (s.setCan p x).sp1 = s.sp1 := rfl
@[simp] theorem State.setCan_sp2 (s : State) (p : Nat) (x : CanSt) : (s.setCan p x).sp2 = s.sp2 := rfl
@[simp] theorem State.setCan_csn (s : State) (p : Nat) (x : CanSt) : (s.setCan p x).csn = s.csn := rfl
@[simp] theorem State.setCan_bt (s : State) (p : Nat) (x : CanSt) : (s.setCan p x).bt = s.bt := rfl
@[simp] theorem State.setCan_late (s : State) (p : Nat) (x : CanSt) : (s.setCan p x).late = s.late := rfl
@[simp] theorem State.setCan_ltrigs (s : State) (p : Nat) (x : CanSt) : (s.setCan p x).ltrigs = s.ltrigs := rfl
@[simp] theorem State.setCan_jpend (s : State) (p : Nat) (x : CanSt) : (s.setCan p x).jpend = s.jpend := rfl
@[simp] theorem State.setCan_jcom (s : State) (p : Nat) (x : CanSt) : (s.setCan p x).jcom = s.jcom := rfl
@[simp] theorem State.setCan_jseq (s : State) (p : Nat) (x : CanSt) : (s.setCan p x).jseq = s.jseq := rfl
@[simp] theorem State.setCan_hcache (s : State) (p : Nat) (x : CanSt) : (s.setCan p x).hcache = s.hcache := rfl
@[simp] theorem State.setCan_rrLast (s : State) (p : Nat) (x : CanSt) : (s.setCan p x).rrLast = s.rrLast := rfl
@[simp] theorem State.setCan_ckptDone (s : State) (p : Nat) (x : CanSt) : (s.setCan p x).ckptDone = s.ckptDone := rfl
@[simp] theorem State.setCan_logs (s : State) (p : Nat) (x : CanSt) : (s.setCan p x).logs = s.logs := rfl
@[simp] theorem State.setCan_logMap (s : State) (p : Nat) (x : CanSt) : (s.setCan p x).logMap = s.logMap := rfl
@[simp] theorem State.setCan_rdata (s : State) (p : Nat) (x : CanSt) : (s.setCan p x).rdata = s.rdata := rfl
@[simp] theorem State.setCan_free (s : State) (p : Nat) (x : CanSt) : (s.setCan p x).free = s.free := rfl
@[simp] theorem State.setCan_blockCtr (s : State) (p : Nat) (x : CanSt) : (s.setCan p x).blockCtr = s.blockCtr := rfl
@[simp] theorem State.setCan_pending (s : State) (p : Nat) (x : CanSt) : (s.setCan p x).pending = s.pending := rfl
@[simp] theorem State.setCan_rd (s : State) (p : Nat) (x : CanSt) (j : Nat) : rd (s.setCan p x) j = rd s j := rfl
@[simp] theorem State.setCan_get (s : State) (p : Nat) (x : CanSt) (g : FldRef) : State.get (s.setCan p x) g = s.get g := rfl

@[simp] theorem State.modCan_regs (s : State) (p : Nat) (f : CanSt → CanSt) : (s.modCan p f).regs = s.regs := rfl
@[simp] theorem State.modCan_rsh (s : State) (p : Nat) (f : CanSt → CanSt) : (s.modCan p f).rsh = s.rsh := rfl
@[simp] theorem State.modCan_wsh (s : State) (p : Nat) (f : CanSt → CanSt) : (s.modCan p f).wsh = s.wsh := rfl
@[simp] theorem State.modCan_qmem (s : State) (p : Nat) (f : CanSt → CanSt) : (s.modCan p f).qmem = s.qmem := rfl
@[simp] theorem State.modCan_flash (s : State) (p : Nat) (f : CanSt → CanSt) : (s.modCan p f).flash = s.flash := rfl
@[simp] theorem State.modCan_otp (s : State) (p : Nat) (f : CanSt → CanSt) : (s.modCan p f).otp = s.otp := rfl
@[simp] theorem State.modCan_queues (s : State) (p : Nat) (f : CanSt → CanSt) : (s.modCan p f).queues = s.queues := rfl
@[simp] theorem State.modCan_pops (s : State) (p : Nat) (f : CanSt → CanSt) : (s.modCan p f).pops = s.pops := rfl
@[simp] theorem State.modCan_ctxs (s : State) (p : Nat) (f : CanSt → CanSt) : (s.modCan p f).ctxs = s.ctxs := rfl
@[simp] theorem State.modCan_engs (s : State) (p : Nat) (f : CanSt → CanSt) : (s.modCan p f).engs = s.engs := rfl
@[simp] theorem State.modCan_cvs (s : State) (p : Nat) (f : CanSt → CanSt) : (s.modCan p f).cvs = s.cvs := rfl
@[simp] theorem State.modCan_tiles (s : State) (p : Nat) (f : CanSt → CanSt) : (s.modCan p f).tiles = s.tiles := rfl
@[simp] theorem State.modCan_chans (s : State) (p : Nat) (f : CanSt → CanSt) : (s.modCan p f).chans = s.chans := rfl
@[simp] theorem State.modCan_chains (s : State) (p : Nat) (f : CanSt → CanSt) : (s.modCan p f).chains = s.chains := rfl
@[simp] theorem State.modCan_dips (s : State) (p : Nat) (f : CanSt → CanSt) : (s.modCan p f).dips = s.dips := rfl
@[simp] theorem State.modCan_tu (s : State) (p : Nat) (f : CanSt → CanSt) : (s.modCan p f).tu = s.tu := rfl
@[simp] theorem State.modCan_sv (s : State) (p : Nat) (f : CanSt → CanSt) : (s.modCan p f).sv = s.sv := rfl
@[simp] theorem State.modCan_ca (s : State) (p : Nat) (f : CanSt → CanSt) : (s.modCan p f).ca = s.ca := rfl
@[simp] theorem State.modCan_pw (s : State) (p : Nat) (f : CanSt → CanSt) : (s.modCan p f).pw = s.pw := rfl
@[simp] theorem State.modCan_s0 (s : State) (p : Nat) (f : CanSt → CanSt) : (s.modCan p f).s0 = s.s0 := rfl
@[simp] theorem State.modCan_sp1 (s : State) (p : Nat) (f : CanSt → CanSt) : (s.modCan p f).sp1 = s.sp1 := rfl
@[simp] theorem State.modCan_sp2 (s : State) (p : Nat) (f : CanSt → CanSt) : (s.modCan p f).sp2 = s.sp2 := rfl
@[simp] theorem State.modCan_csn (s : State) (p : Nat) (f : CanSt → CanSt) : (s.modCan p f).csn = s.csn := rfl
@[simp] theorem State.modCan_bt (s : State) (p : Nat) (f : CanSt → CanSt) : (s.modCan p f).bt = s.bt := rfl
@[simp] theorem State.modCan_late (s : State) (p : Nat) (f : CanSt → CanSt) : (s.modCan p f).late = s.late := rfl
@[simp] theorem State.modCan_ltrigs (s : State) (p : Nat) (f : CanSt → CanSt) : (s.modCan p f).ltrigs = s.ltrigs := rfl
@[simp] theorem State.modCan_jpend (s : State) (p : Nat) (f : CanSt → CanSt) : (s.modCan p f).jpend = s.jpend := rfl
@[simp] theorem State.modCan_jcom (s : State) (p : Nat) (f : CanSt → CanSt) : (s.modCan p f).jcom = s.jcom := rfl
@[simp] theorem State.modCan_jseq (s : State) (p : Nat) (f : CanSt → CanSt) : (s.modCan p f).jseq = s.jseq := rfl
@[simp] theorem State.modCan_hcache (s : State) (p : Nat) (f : CanSt → CanSt) : (s.modCan p f).hcache = s.hcache := rfl
@[simp] theorem State.modCan_rrLast (s : State) (p : Nat) (f : CanSt → CanSt) : (s.modCan p f).rrLast = s.rrLast := rfl
@[simp] theorem State.modCan_ckptDone (s : State) (p : Nat) (f : CanSt → CanSt) : (s.modCan p f).ckptDone = s.ckptDone := rfl
@[simp] theorem State.modCan_logs (s : State) (p : Nat) (f : CanSt → CanSt) : (s.modCan p f).logs = s.logs := rfl
@[simp] theorem State.modCan_logMap (s : State) (p : Nat) (f : CanSt → CanSt) : (s.modCan p f).logMap = s.logMap := rfl
@[simp] theorem State.modCan_rdata (s : State) (p : Nat) (f : CanSt → CanSt) : (s.modCan p f).rdata = s.rdata := rfl
@[simp] theorem State.modCan_free (s : State) (p : Nat) (f : CanSt → CanSt) : (s.modCan p f).free = s.free := rfl
@[simp] theorem State.modCan_blockCtr (s : State) (p : Nat) (f : CanSt → CanSt) : (s.modCan p f).blockCtr = s.blockCtr := rfl
@[simp] theorem State.modCan_pending (s : State) (p : Nat) (f : CanSt → CanSt) : (s.modCan p f).pending = s.pending := rfl
@[simp] theorem State.modCan_rd (s : State) (p : Nat) (f : CanSt → CanSt) (j : Nat) : rd (s.modCan p f) j = rd s j := rfl
@[simp] theorem State.modCan_get (s : State) (p : Nat) (f : CanSt → CanSt) (g : FldRef) : State.get (s.modCan p f) g = s.get g := rfl

@[simp] theorem State.setCv_regs (s : State) (u : Nat) (x : CvSt) : (s.setCv u x).regs = s.regs := rfl
@[simp] theorem State.setCv_rsh (s : State) (u : Nat) (x : CvSt) : (s.setCv u x).rsh = s.rsh := rfl
@[simp] theorem State.setCv_wsh (s : State) (u : Nat) (x : CvSt) : (s.setCv u x).wsh = s.wsh := rfl
@[simp] theorem State.setCv_qmem (s : State) (u : Nat) (x : CvSt) : (s.setCv u x).qmem = s.qmem := rfl
@[simp] theorem State.setCv_flash (s : State) (u : Nat) (x : CvSt) : (s.setCv u x).flash = s.flash := rfl
@[simp] theorem State.setCv_otp (s : State) (u : Nat) (x : CvSt) : (s.setCv u x).otp = s.otp := rfl
@[simp] theorem State.setCv_queues (s : State) (u : Nat) (x : CvSt) : (s.setCv u x).queues = s.queues := rfl
@[simp] theorem State.setCv_pops (s : State) (u : Nat) (x : CvSt) : (s.setCv u x).pops = s.pops := rfl
@[simp] theorem State.setCv_ctxs (s : State) (u : Nat) (x : CvSt) : (s.setCv u x).ctxs = s.ctxs := rfl
@[simp] theorem State.setCv_engs (s : State) (u : Nat) (x : CvSt) : (s.setCv u x).engs = s.engs := rfl
@[simp] theorem State.setCv_cans (s : State) (u : Nat) (x : CvSt) : (s.setCv u x).cans = s.cans := rfl
@[simp] theorem State.setCv_tiles (s : State) (u : Nat) (x : CvSt) : (s.setCv u x).tiles = s.tiles := rfl
@[simp] theorem State.setCv_chans (s : State) (u : Nat) (x : CvSt) : (s.setCv u x).chans = s.chans := rfl
@[simp] theorem State.setCv_chains (s : State) (u : Nat) (x : CvSt) : (s.setCv u x).chains = s.chains := rfl
@[simp] theorem State.setCv_dips (s : State) (u : Nat) (x : CvSt) : (s.setCv u x).dips = s.dips := rfl
@[simp] theorem State.setCv_tu (s : State) (u : Nat) (x : CvSt) : (s.setCv u x).tu = s.tu := rfl
@[simp] theorem State.setCv_sv (s : State) (u : Nat) (x : CvSt) : (s.setCv u x).sv = s.sv := rfl
@[simp] theorem State.setCv_ca (s : State) (u : Nat) (x : CvSt) : (s.setCv u x).ca = s.ca := rfl
@[simp] theorem State.setCv_pw (s : State) (u : Nat) (x : CvSt) : (s.setCv u x).pw = s.pw := rfl
@[simp] theorem State.setCv_s0 (s : State) (u : Nat) (x : CvSt) : (s.setCv u x).s0 = s.s0 := rfl
@[simp] theorem State.setCv_sp1 (s : State) (u : Nat) (x : CvSt) : (s.setCv u x).sp1 = s.sp1 := rfl
@[simp] theorem State.setCv_sp2 (s : State) (u : Nat) (x : CvSt) : (s.setCv u x).sp2 = s.sp2 := rfl
@[simp] theorem State.setCv_csn (s : State) (u : Nat) (x : CvSt) : (s.setCv u x).csn = s.csn := rfl
@[simp] theorem State.setCv_bt (s : State) (u : Nat) (x : CvSt) : (s.setCv u x).bt = s.bt := rfl
@[simp] theorem State.setCv_late (s : State) (u : Nat) (x : CvSt) : (s.setCv u x).late = s.late := rfl
@[simp] theorem State.setCv_ltrigs (s : State) (u : Nat) (x : CvSt) : (s.setCv u x).ltrigs = s.ltrigs := rfl
@[simp] theorem State.setCv_jpend (s : State) (u : Nat) (x : CvSt) : (s.setCv u x).jpend = s.jpend := rfl
@[simp] theorem State.setCv_jcom (s : State) (u : Nat) (x : CvSt) : (s.setCv u x).jcom = s.jcom := rfl
@[simp] theorem State.setCv_jseq (s : State) (u : Nat) (x : CvSt) : (s.setCv u x).jseq = s.jseq := rfl
@[simp] theorem State.setCv_hcache (s : State) (u : Nat) (x : CvSt) : (s.setCv u x).hcache = s.hcache := rfl
@[simp] theorem State.setCv_rrLast (s : State) (u : Nat) (x : CvSt) : (s.setCv u x).rrLast = s.rrLast := rfl
@[simp] theorem State.setCv_ckptDone (s : State) (u : Nat) (x : CvSt) : (s.setCv u x).ckptDone = s.ckptDone := rfl
@[simp] theorem State.setCv_logs (s : State) (u : Nat) (x : CvSt) : (s.setCv u x).logs = s.logs := rfl
@[simp] theorem State.setCv_logMap (s : State) (u : Nat) (x : CvSt) : (s.setCv u x).logMap = s.logMap := rfl
@[simp] theorem State.setCv_rdata (s : State) (u : Nat) (x : CvSt) : (s.setCv u x).rdata = s.rdata := rfl
@[simp] theorem State.setCv_free (s : State) (u : Nat) (x : CvSt) : (s.setCv u x).free = s.free := rfl
@[simp] theorem State.setCv_blockCtr (s : State) (u : Nat) (x : CvSt) : (s.setCv u x).blockCtr = s.blockCtr := rfl
@[simp] theorem State.setCv_pending (s : State) (u : Nat) (x : CvSt) : (s.setCv u x).pending = s.pending := rfl
@[simp] theorem State.setCv_rd (s : State) (u : Nat) (x : CvSt) (j : Nat) : rd (s.setCv u x) j = rd s j := rfl
@[simp] theorem State.setCv_get (s : State) (u : Nat) (x : CvSt) (g : FldRef) : State.get (s.setCv u x) g = s.get g := rfl

@[simp] theorem State.setTile_regs (s : State) (t : Nat) (x : TileSt) : (s.setTile t x).regs = s.regs := rfl
@[simp] theorem State.setTile_rsh (s : State) (t : Nat) (x : TileSt) : (s.setTile t x).rsh = s.rsh := rfl
@[simp] theorem State.setTile_wsh (s : State) (t : Nat) (x : TileSt) : (s.setTile t x).wsh = s.wsh := rfl
@[simp] theorem State.setTile_qmem (s : State) (t : Nat) (x : TileSt) : (s.setTile t x).qmem = s.qmem := rfl
@[simp] theorem State.setTile_flash (s : State) (t : Nat) (x : TileSt) : (s.setTile t x).flash = s.flash := rfl
@[simp] theorem State.setTile_otp (s : State) (t : Nat) (x : TileSt) : (s.setTile t x).otp = s.otp := rfl
@[simp] theorem State.setTile_queues (s : State) (t : Nat) (x : TileSt) : (s.setTile t x).queues = s.queues := rfl
@[simp] theorem State.setTile_pops (s : State) (t : Nat) (x : TileSt) : (s.setTile t x).pops = s.pops := rfl
@[simp] theorem State.setTile_ctxs (s : State) (t : Nat) (x : TileSt) : (s.setTile t x).ctxs = s.ctxs := rfl
@[simp] theorem State.setTile_engs (s : State) (t : Nat) (x : TileSt) : (s.setTile t x).engs = s.engs := rfl
@[simp] theorem State.setTile_cans (s : State) (t : Nat) (x : TileSt) : (s.setTile t x).cans = s.cans := rfl
@[simp] theorem State.setTile_cvs (s : State) (t : Nat) (x : TileSt) : (s.setTile t x).cvs = s.cvs := rfl
@[simp] theorem State.setTile_chans (s : State) (t : Nat) (x : TileSt) : (s.setTile t x).chans = s.chans := rfl
@[simp] theorem State.setTile_chains (s : State) (t : Nat) (x : TileSt) : (s.setTile t x).chains = s.chains := rfl
@[simp] theorem State.setTile_dips (s : State) (t : Nat) (x : TileSt) : (s.setTile t x).dips = s.dips := rfl
@[simp] theorem State.setTile_tu (s : State) (t : Nat) (x : TileSt) : (s.setTile t x).tu = s.tu := rfl
@[simp] theorem State.setTile_sv (s : State) (t : Nat) (x : TileSt) : (s.setTile t x).sv = s.sv := rfl
@[simp] theorem State.setTile_ca (s : State) (t : Nat) (x : TileSt) : (s.setTile t x).ca = s.ca := rfl
@[simp] theorem State.setTile_pw (s : State) (t : Nat) (x : TileSt) : (s.setTile t x).pw = s.pw := rfl
@[simp] theorem State.setTile_s0 (s : State) (t : Nat) (x : TileSt) : (s.setTile t x).s0 = s.s0 := rfl
@[simp] theorem State.setTile_sp1 (s : State) (t : Nat) (x : TileSt) : (s.setTile t x).sp1 = s.sp1 := rfl
@[simp] theorem State.setTile_sp2 (s : State) (t : Nat) (x : TileSt) : (s.setTile t x).sp2 = s.sp2 := rfl
@[simp] theorem State.setTile_csn (s : State) (t : Nat) (x : TileSt) : (s.setTile t x).csn = s.csn := rfl
@[simp] theorem State.setTile_bt (s : State) (t : Nat) (x : TileSt) : (s.setTile t x).bt = s.bt := rfl
@[simp] theorem State.setTile_late (s : State) (t : Nat) (x : TileSt) : (s.setTile t x).late = s.late := rfl
@[simp] theorem State.setTile_ltrigs (s : State) (t : Nat) (x : TileSt) : (s.setTile t x).ltrigs = s.ltrigs := rfl
@[simp] theorem State.setTile_jpend (s : State) (t : Nat) (x : TileSt) : (s.setTile t x).jpend = s.jpend := rfl
@[simp] theorem State.setTile_jcom (s : State) (t : Nat) (x : TileSt) : (s.setTile t x).jcom = s.jcom := rfl
@[simp] theorem State.setTile_jseq (s : State) (t : Nat) (x : TileSt) : (s.setTile t x).jseq = s.jseq := rfl
@[simp] theorem State.setTile_hcache (s : State) (t : Nat) (x : TileSt) : (s.setTile t x).hcache = s.hcache := rfl
@[simp] theorem State.setTile_rrLast (s : State) (t : Nat) (x : TileSt) : (s.setTile t x).rrLast = s.rrLast := rfl
@[simp] theorem State.setTile_ckptDone (s : State) (t : Nat) (x : TileSt) : (s.setTile t x).ckptDone = s.ckptDone := rfl
@[simp] theorem State.setTile_logs (s : State) (t : Nat) (x : TileSt) : (s.setTile t x).logs = s.logs := rfl
@[simp] theorem State.setTile_logMap (s : State) (t : Nat) (x : TileSt) : (s.setTile t x).logMap = s.logMap := rfl
@[simp] theorem State.setTile_rdata (s : State) (t : Nat) (x : TileSt) : (s.setTile t x).rdata = s.rdata := rfl
@[simp] theorem State.setTile_free (s : State) (t : Nat) (x : TileSt) : (s.setTile t x).free = s.free := rfl
@[simp] theorem State.setTile_blockCtr (s : State) (t : Nat) (x : TileSt) : (s.setTile t x).blockCtr = s.blockCtr := rfl
@[simp] theorem State.setTile_pending (s : State) (t : Nat) (x : TileSt) : (s.setTile t x).pending = s.pending := rfl
@[simp] theorem State.setTile_rd (s : State) (t : Nat) (x : TileSt) (j : Nat) : rd (s.setTile t x) j = rd s j := rfl
@[simp] theorem State.setTile_get (s : State) (t : Nat) (x : TileSt) (g : FldRef) : State.get (s.setTile t x) g = s.get g := rfl

@[simp] theorem State.modTile_regs (s : State) (t : Nat) (f : TileSt → TileSt) : (s.modTile t f).regs = s.regs := rfl
@[simp] theorem State.modTile_rsh (s : State) (t : Nat) (f : TileSt → TileSt) : (s.modTile t f).rsh = s.rsh := rfl
@[simp] theorem State.modTile_wsh (s : State) (t : Nat) (f : TileSt → TileSt) : (s.modTile t f).wsh = s.wsh := rfl
@[simp] theorem State.modTile_qmem (s : State) (t : Nat) (f : TileSt → TileSt) : (s.modTile t f).qmem = s.qmem := rfl
@[simp] theorem State.modTile_flash (s : State) (t : Nat) (f : TileSt → TileSt) : (s.modTile t f).flash = s.flash := rfl
@[simp] theorem State.modTile_otp (s : State) (t : Nat) (f : TileSt → TileSt) : (s.modTile t f).otp = s.otp := rfl
@[simp] theorem State.modTile_queues (s : State) (t : Nat) (f : TileSt → TileSt) : (s.modTile t f).queues = s.queues := rfl
@[simp] theorem State.modTile_pops (s : State) (t : Nat) (f : TileSt → TileSt) : (s.modTile t f).pops = s.pops := rfl
@[simp] theorem State.modTile_ctxs (s : State) (t : Nat) (f : TileSt → TileSt) : (s.modTile t f).ctxs = s.ctxs := rfl
@[simp] theorem State.modTile_engs (s : State) (t : Nat) (f : TileSt → TileSt) : (s.modTile t f).engs = s.engs := rfl
@[simp] theorem State.modTile_cans (s : State) (t : Nat) (f : TileSt → TileSt) : (s.modTile t f).cans = s.cans := rfl
@[simp] theorem State.modTile_cvs (s : State) (t : Nat) (f : TileSt → TileSt) : (s.modTile t f).cvs = s.cvs := rfl
@[simp] theorem State.modTile_chans (s : State) (t : Nat) (f : TileSt → TileSt) : (s.modTile t f).chans = s.chans := rfl
@[simp] theorem State.modTile_chains (s : State) (t : Nat) (f : TileSt → TileSt) : (s.modTile t f).chains = s.chains := rfl
@[simp] theorem State.modTile_dips (s : State) (t : Nat) (f : TileSt → TileSt) : (s.modTile t f).dips = s.dips := rfl
@[simp] theorem State.modTile_tu (s : State) (t : Nat) (f : TileSt → TileSt) : (s.modTile t f).tu = s.tu := rfl
@[simp] theorem State.modTile_sv (s : State) (t : Nat) (f : TileSt → TileSt) : (s.modTile t f).sv = s.sv := rfl
@[simp] theorem State.modTile_ca (s : State) (t : Nat) (f : TileSt → TileSt) : (s.modTile t f).ca = s.ca := rfl
@[simp] theorem State.modTile_pw (s : State) (t : Nat) (f : TileSt → TileSt) : (s.modTile t f).pw = s.pw := rfl
@[simp] theorem State.modTile_s0 (s : State) (t : Nat) (f : TileSt → TileSt) : (s.modTile t f).s0 = s.s0 := rfl
@[simp] theorem State.modTile_sp1 (s : State) (t : Nat) (f : TileSt → TileSt) : (s.modTile t f).sp1 = s.sp1 := rfl
@[simp] theorem State.modTile_sp2 (s : State) (t : Nat) (f : TileSt → TileSt) : (s.modTile t f).sp2 = s.sp2 := rfl
@[simp] theorem State.modTile_csn (s : State) (t : Nat) (f : TileSt → TileSt) : (s.modTile t f).csn = s.csn := rfl
@[simp] theorem State.modTile_bt (s : State) (t : Nat) (f : TileSt → TileSt) : (s.modTile t f).bt = s.bt := rfl
@[simp] theorem State.modTile_late (s : State) (t : Nat) (f : TileSt → TileSt) : (s.modTile t f).late = s.late := rfl
@[simp] theorem State.modTile_ltrigs (s : State) (t : Nat) (f : TileSt → TileSt) : (s.modTile t f).ltrigs = s.ltrigs := rfl
@[simp] theorem State.modTile_jpend (s : State) (t : Nat) (f : TileSt → TileSt) : (s.modTile t f).jpend = s.jpend := rfl
@[simp] theorem State.modTile_jcom (s : State) (t : Nat) (f : TileSt → TileSt) : (s.modTile t f).jcom = s.jcom := rfl
@[simp] theorem State.modTile_jseq (s : State) (t : Nat) (f : TileSt → TileSt) : (s.modTile t f).jseq = s.jseq := rfl
@[simp] theorem State.modTile_hcache (s : State) (t : Nat) (f : TileSt → TileSt) : (s.modTile t f).hcache = s.hcache := rfl
@[simp] theorem State.modTile_rrLast (s : State) (t : Nat) (f : TileSt → TileSt) : (s.modTile t f).rrLast = s.rrLast := rfl
@[simp] theorem State.modTile_ckptDone (s : State) (t : Nat) (f : TileSt → TileSt) : (s.modTile t f).ckptDone = s.ckptDone := rfl
@[simp] theorem State.modTile_logs (s : State) (t : Nat) (f : TileSt → TileSt) : (s.modTile t f).logs = s.logs := rfl
@[simp] theorem State.modTile_logMap (s : State) (t : Nat) (f : TileSt → TileSt) : (s.modTile t f).logMap = s.logMap := rfl
@[simp] theorem State.modTile_rdata (s : State) (t : Nat) (f : TileSt → TileSt) : (s.modTile t f).rdata = s.rdata := rfl
@[simp] theorem State.modTile_free (s : State) (t : Nat) (f : TileSt → TileSt) : (s.modTile t f).free = s.free := rfl
@[simp] theorem State.modTile_blockCtr (s : State) (t : Nat) (f : TileSt → TileSt) : (s.modTile t f).blockCtr = s.blockCtr := rfl
@[simp] theorem State.modTile_pending (s : State) (t : Nat) (f : TileSt → TileSt) : (s.modTile t f).pending = s.pending := rfl
@[simp] theorem State.modTile_rd (s : State) (t : Nat) (f : TileSt → TileSt) (j : Nat) : rd (s.modTile t f) j = rd s j := rfl
@[simp] theorem State.modTile_get (s : State) (t : Nat) (f : TileSt → TileSt) (g : FldRef) : State.get (s.modTile t f) g = s.get g := rfl

@[simp] theorem State.setCh_regs (s : State) (n : Nat) (x : ChSt) : (s.setCh n x).regs = s.regs := rfl
@[simp] theorem State.setCh_rsh (s : State) (n : Nat) (x : ChSt) : (s.setCh n x).rsh = s.rsh := rfl
@[simp] theorem State.setCh_wsh (s : State) (n : Nat) (x : ChSt) : (s.setCh n x).wsh = s.wsh := rfl
@[simp] theorem State.setCh_qmem (s : State) (n : Nat) (x : ChSt) : (s.setCh n x).qmem = s.qmem := rfl
@[simp] theorem State.setCh_flash (s : State) (n : Nat) (x : ChSt) : (s.setCh n x).flash = s.flash := rfl
@[simp] theorem State.setCh_otp (s : State) (n : Nat) (x : ChSt) : (s.setCh n x).otp = s.otp := rfl
@[simp] theorem State.setCh_queues (s : State) (n : Nat) (x : ChSt) : (s.setCh n x).queues = s.queues := rfl
@[simp] theorem State.setCh_pops (s : State) (n : Nat) (x : ChSt) : (s.setCh n x).pops = s.pops := rfl
@[simp] theorem State.setCh_ctxs (s : State) (n : Nat) (x : ChSt) : (s.setCh n x).ctxs = s.ctxs := rfl
@[simp] theorem State.setCh_engs (s : State) (n : Nat) (x : ChSt) : (s.setCh n x).engs = s.engs := rfl
@[simp] theorem State.setCh_cans (s : State) (n : Nat) (x : ChSt) : (s.setCh n x).cans = s.cans := rfl
@[simp] theorem State.setCh_cvs (s : State) (n : Nat) (x : ChSt) : (s.setCh n x).cvs = s.cvs := rfl
@[simp] theorem State.setCh_tiles (s : State) (n : Nat) (x : ChSt) : (s.setCh n x).tiles = s.tiles := rfl
@[simp] theorem State.setCh_chains (s : State) (n : Nat) (x : ChSt) : (s.setCh n x).chains = s.chains := rfl
@[simp] theorem State.setCh_dips (s : State) (n : Nat) (x : ChSt) : (s.setCh n x).dips = s.dips := rfl
@[simp] theorem State.setCh_tu (s : State) (n : Nat) (x : ChSt) : (s.setCh n x).tu = s.tu := rfl
@[simp] theorem State.setCh_sv (s : State) (n : Nat) (x : ChSt) : (s.setCh n x).sv = s.sv := rfl
@[simp] theorem State.setCh_ca (s : State) (n : Nat) (x : ChSt) : (s.setCh n x).ca = s.ca := rfl
@[simp] theorem State.setCh_pw (s : State) (n : Nat) (x : ChSt) : (s.setCh n x).pw = s.pw := rfl
@[simp] theorem State.setCh_s0 (s : State) (n : Nat) (x : ChSt) : (s.setCh n x).s0 = s.s0 := rfl
@[simp] theorem State.setCh_sp1 (s : State) (n : Nat) (x : ChSt) : (s.setCh n x).sp1 = s.sp1 := rfl
@[simp] theorem State.setCh_sp2 (s : State) (n : Nat) (x : ChSt) : (s.setCh n x).sp2 = s.sp2 := rfl
@[simp] theorem State.setCh_csn (s : State) (n : Nat) (x : ChSt) : (s.setCh n x).csn = s.csn := rfl
@[simp] theorem State.setCh_bt (s : State) (n : Nat) (x : ChSt) : (s.setCh n x).bt = s.bt := rfl
@[simp] theorem State.setCh_late (s : State) (n : Nat) (x : ChSt) : (s.setCh n x).late = s.late := rfl
@[simp] theorem State.setCh_ltrigs (s : State) (n : Nat) (x : ChSt) : (s.setCh n x).ltrigs = s.ltrigs := rfl
@[simp] theorem State.setCh_jpend (s : State) (n : Nat) (x : ChSt) : (s.setCh n x).jpend = s.jpend := rfl
@[simp] theorem State.setCh_jcom (s : State) (n : Nat) (x : ChSt) : (s.setCh n x).jcom = s.jcom := rfl
@[simp] theorem State.setCh_jseq (s : State) (n : Nat) (x : ChSt) : (s.setCh n x).jseq = s.jseq := rfl
@[simp] theorem State.setCh_hcache (s : State) (n : Nat) (x : ChSt) : (s.setCh n x).hcache = s.hcache := rfl
@[simp] theorem State.setCh_rrLast (s : State) (n : Nat) (x : ChSt) : (s.setCh n x).rrLast = s.rrLast := rfl
@[simp] theorem State.setCh_ckptDone (s : State) (n : Nat) (x : ChSt) : (s.setCh n x).ckptDone = s.ckptDone := rfl
@[simp] theorem State.setCh_logs (s : State) (n : Nat) (x : ChSt) : (s.setCh n x).logs = s.logs := rfl
@[simp] theorem State.setCh_logMap (s : State) (n : Nat) (x : ChSt) : (s.setCh n x).logMap = s.logMap := rfl
@[simp] theorem State.setCh_rdata (s : State) (n : Nat) (x : ChSt) : (s.setCh n x).rdata = s.rdata := rfl
@[simp] theorem State.setCh_free (s : State) (n : Nat) (x : ChSt) : (s.setCh n x).free = s.free := rfl
@[simp] theorem State.setCh_blockCtr (s : State) (n : Nat) (x : ChSt) : (s.setCh n x).blockCtr = s.blockCtr := rfl
@[simp] theorem State.setCh_pending (s : State) (n : Nat) (x : ChSt) : (s.setCh n x).pending = s.pending := rfl
@[simp] theorem State.setCh_rd (s : State) (n : Nat) (x : ChSt) (j : Nat) : rd (s.setCh n x) j = rd s j := rfl
@[simp] theorem State.setCh_get (s : State) (n : Nat) (x : ChSt) (g : FldRef) : State.get (s.setCh n x) g = s.get g := rfl

@[simp] theorem State.modCh_regs (s : State) (n : Nat) (f : ChSt → ChSt) : (s.modCh n f).regs = s.regs := rfl
@[simp] theorem State.modCh_rsh (s : State) (n : Nat) (f : ChSt → ChSt) : (s.modCh n f).rsh = s.rsh := rfl
@[simp] theorem State.modCh_wsh (s : State) (n : Nat) (f : ChSt → ChSt) : (s.modCh n f).wsh = s.wsh := rfl
@[simp] theorem State.modCh_qmem (s : State) (n : Nat) (f : ChSt → ChSt) : (s.modCh n f).qmem = s.qmem := rfl
@[simp] theorem State.modCh_flash (s : State) (n : Nat) (f : ChSt → ChSt) : (s.modCh n f).flash = s.flash := rfl
@[simp] theorem State.modCh_otp (s : State) (n : Nat) (f : ChSt → ChSt) : (s.modCh n f).otp = s.otp := rfl
@[simp] theorem State.modCh_queues (s : State) (n : Nat) (f : ChSt → ChSt) : (s.modCh n f).queues = s.queues := rfl
@[simp] theorem State.modCh_pops (s : State) (n : Nat) (f : ChSt → ChSt) : (s.modCh n f).pops = s.pops := rfl
@[simp] theorem State.modCh_ctxs (s : State) (n : Nat) (f : ChSt → ChSt) : (s.modCh n f).ctxs = s.ctxs := rfl
@[simp] theorem State.modCh_engs (s : State) (n : Nat) (f : ChSt → ChSt) : (s.modCh n f).engs = s.engs := rfl
@[simp] theorem State.modCh_cans (s : State) (n : Nat) (f : ChSt → ChSt) : (s.modCh n f).cans = s.cans := rfl
@[simp] theorem State.modCh_cvs (s : State) (n : Nat) (f : ChSt → ChSt) : (s.modCh n f).cvs = s.cvs := rfl
@[simp] theorem State.modCh_tiles (s : State) (n : Nat) (f : ChSt → ChSt) : (s.modCh n f).tiles = s.tiles := rfl
@[simp] theorem State.modCh_chains (s : State) (n : Nat) (f : ChSt → ChSt) : (s.modCh n f).chains = s.chains := rfl
@[simp] theorem State.modCh_dips (s : State) (n : Nat) (f : ChSt → ChSt) : (s.modCh n f).dips = s.dips := rfl
@[simp] theorem State.modCh_tu (s : State) (n : Nat) (f : ChSt → ChSt) : (s.modCh n f).tu = s.tu := rfl
@[simp] theorem State.modCh_sv (s : State) (n : Nat) (f : ChSt → ChSt) : (s.modCh n f).sv = s.sv := rfl
@[simp] theorem State.modCh_ca (s : State) (n : Nat) (f : ChSt → ChSt) : (s.modCh n f).ca = s.ca := rfl
@[simp] theorem State.modCh_pw (s : State) (n : Nat) (f : ChSt → ChSt) : (s.modCh n f).pw = s.pw := rfl
@[simp] theorem State.modCh_s0 (s : State) (n : Nat) (f : ChSt → ChSt) : (s.modCh n f).s0 = s.s0 := rfl
@[simp] theorem State.modCh_sp1 (s : State) (n : Nat) (f : ChSt → ChSt) : (s.modCh n f).sp1 = s.sp1 := rfl
@[simp] theorem State.modCh_sp2 (s : State) (n : Nat) (f : ChSt → ChSt) : (s.modCh n f).sp2 = s.sp2 := rfl
@[simp] theorem State.modCh_csn (s : State) (n : Nat) (f : ChSt → ChSt) : (s.modCh n f).csn = s.csn := rfl
@[simp] theorem State.modCh_bt (s : State) (n : Nat) (f : ChSt → ChSt) : (s.modCh n f).bt = s.bt := rfl
@[simp] theorem State.modCh_late (s : State) (n : Nat) (f : ChSt → ChSt) : (s.modCh n f).late = s.late := rfl
@[simp] theorem State.modCh_ltrigs (s : State) (n : Nat) (f : ChSt → ChSt) : (s.modCh n f).ltrigs = s.ltrigs := rfl
@[simp] theorem State.modCh_jpend (s : State) (n : Nat) (f : ChSt → ChSt) : (s.modCh n f).jpend = s.jpend := rfl
@[simp] theorem State.modCh_jcom (s : State) (n : Nat) (f : ChSt → ChSt) : (s.modCh n f).jcom = s.jcom := rfl
@[simp] theorem State.modCh_jseq (s : State) (n : Nat) (f : ChSt → ChSt) : (s.modCh n f).jseq = s.jseq := rfl
@[simp] theorem State.modCh_hcache (s : State) (n : Nat) (f : ChSt → ChSt) : (s.modCh n f).hcache = s.hcache := rfl
@[simp] theorem State.modCh_rrLast (s : State) (n : Nat) (f : ChSt → ChSt) : (s.modCh n f).rrLast = s.rrLast := rfl
@[simp] theorem State.modCh_ckptDone (s : State) (n : Nat) (f : ChSt → ChSt) : (s.modCh n f).ckptDone = s.ckptDone := rfl
@[simp] theorem State.modCh_logs (s : State) (n : Nat) (f : ChSt → ChSt) : (s.modCh n f).logs = s.logs := rfl
@[simp] theorem State.modCh_logMap (s : State) (n : Nat) (f : ChSt → ChSt) : (s.modCh n f).logMap = s.logMap := rfl
@[simp] theorem State.modCh_rdata (s : State) (n : Nat) (f : ChSt → ChSt) : (s.modCh n f).rdata = s.rdata := rfl
@[simp] theorem State.modCh_free (s : State) (n : Nat) (f : ChSt → ChSt) : (s.modCh n f).free = s.free := rfl
@[simp] theorem State.modCh_blockCtr (s : State) (n : Nat) (f : ChSt → ChSt) : (s.modCh n f).blockCtr = s.blockCtr := rfl
@[simp] theorem State.modCh_pending (s : State) (n : Nat) (f : ChSt → ChSt) : (s.modCh n f).pending = s.pending := rfl
@[simp] theorem State.modCh_rd (s : State) (n : Nat) (f : ChSt → ChSt) (j : Nat) : rd (s.modCh n f) j = rd s j := rfl
@[simp] theorem State.modCh_get (s : State) (n : Nat) (f : ChSt → ChSt) (g : FldRef) : State.get (s.modCh n f) g = s.get g := rfl

@[simp] theorem State.setChain_regs (s : State) (n : Nat) (x : ChainSt) : (s.setChain n x).regs = s.regs := rfl
@[simp] theorem State.setChain_rsh (s : State) (n : Nat) (x : ChainSt) : (s.setChain n x).rsh = s.rsh := rfl
@[simp] theorem State.setChain_wsh (s : State) (n : Nat) (x : ChainSt) : (s.setChain n x).wsh = s.wsh := rfl
@[simp] theorem State.setChain_qmem (s : State) (n : Nat) (x : ChainSt) : (s.setChain n x).qmem = s.qmem := rfl
@[simp] theorem State.setChain_flash (s : State) (n : Nat) (x : ChainSt) : (s.setChain n x).flash = s.flash := rfl
@[simp] theorem State.setChain_otp (s : State) (n : Nat) (x : ChainSt) : (s.setChain n x).otp = s.otp := rfl
@[simp] theorem State.setChain_queues (s : State) (n : Nat) (x : ChainSt) : (s.setChain n x).queues = s.queues := rfl
@[simp] theorem State.setChain_pops (s : State) (n : Nat) (x : ChainSt) : (s.setChain n x).pops = s.pops := rfl
@[simp] theorem State.setChain_ctxs (s : State) (n : Nat) (x : ChainSt) : (s.setChain n x).ctxs = s.ctxs := rfl
@[simp] theorem State.setChain_engs (s : State) (n : Nat) (x : ChainSt) : (s.setChain n x).engs = s.engs := rfl
@[simp] theorem State.setChain_cans (s : State) (n : Nat) (x : ChainSt) : (s.setChain n x).cans = s.cans := rfl
@[simp] theorem State.setChain_cvs (s : State) (n : Nat) (x : ChainSt) : (s.setChain n x).cvs = s.cvs := rfl
@[simp] theorem State.setChain_tiles (s : State) (n : Nat) (x : ChainSt) : (s.setChain n x).tiles = s.tiles := rfl
@[simp] theorem State.setChain_chans (s : State) (n : Nat) (x : ChainSt) : (s.setChain n x).chans = s.chans := rfl
@[simp] theorem State.setChain_dips (s : State) (n : Nat) (x : ChainSt) : (s.setChain n x).dips = s.dips := rfl
@[simp] theorem State.setChain_tu (s : State) (n : Nat) (x : ChainSt) : (s.setChain n x).tu = s.tu := rfl
@[simp] theorem State.setChain_sv (s : State) (n : Nat) (x : ChainSt) : (s.setChain n x).sv = s.sv := rfl
@[simp] theorem State.setChain_ca (s : State) (n : Nat) (x : ChainSt) : (s.setChain n x).ca = s.ca := rfl
@[simp] theorem State.setChain_pw (s : State) (n : Nat) (x : ChainSt) : (s.setChain n x).pw = s.pw := rfl
@[simp] theorem State.setChain_s0 (s : State) (n : Nat) (x : ChainSt) : (s.setChain n x).s0 = s.s0 := rfl
@[simp] theorem State.setChain_sp1 (s : State) (n : Nat) (x : ChainSt) : (s.setChain n x).sp1 = s.sp1 := rfl
@[simp] theorem State.setChain_sp2 (s : State) (n : Nat) (x : ChainSt) : (s.setChain n x).sp2 = s.sp2 := rfl
@[simp] theorem State.setChain_csn (s : State) (n : Nat) (x : ChainSt) : (s.setChain n x).csn = s.csn := rfl
@[simp] theorem State.setChain_bt (s : State) (n : Nat) (x : ChainSt) : (s.setChain n x).bt = s.bt := rfl
@[simp] theorem State.setChain_late (s : State) (n : Nat) (x : ChainSt) : (s.setChain n x).late = s.late := rfl
@[simp] theorem State.setChain_ltrigs (s : State) (n : Nat) (x : ChainSt) : (s.setChain n x).ltrigs = s.ltrigs := rfl
@[simp] theorem State.setChain_jpend (s : State) (n : Nat) (x : ChainSt) : (s.setChain n x).jpend = s.jpend := rfl
@[simp] theorem State.setChain_jcom (s : State) (n : Nat) (x : ChainSt) : (s.setChain n x).jcom = s.jcom := rfl
@[simp] theorem State.setChain_jseq (s : State) (n : Nat) (x : ChainSt) : (s.setChain n x).jseq = s.jseq := rfl
@[simp] theorem State.setChain_hcache (s : State) (n : Nat) (x : ChainSt) : (s.setChain n x).hcache = s.hcache := rfl
@[simp] theorem State.setChain_rrLast (s : State) (n : Nat) (x : ChainSt) : (s.setChain n x).rrLast = s.rrLast := rfl
@[simp] theorem State.setChain_ckptDone (s : State) (n : Nat) (x : ChainSt) : (s.setChain n x).ckptDone = s.ckptDone := rfl
@[simp] theorem State.setChain_logs (s : State) (n : Nat) (x : ChainSt) : (s.setChain n x).logs = s.logs := rfl
@[simp] theorem State.setChain_logMap (s : State) (n : Nat) (x : ChainSt) : (s.setChain n x).logMap = s.logMap := rfl
@[simp] theorem State.setChain_rdata (s : State) (n : Nat) (x : ChainSt) : (s.setChain n x).rdata = s.rdata := rfl
@[simp] theorem State.setChain_free (s : State) (n : Nat) (x : ChainSt) : (s.setChain n x).free = s.free := rfl
@[simp] theorem State.setChain_blockCtr (s : State) (n : Nat) (x : ChainSt) : (s.setChain n x).blockCtr = s.blockCtr := rfl
@[simp] theorem State.setChain_pending (s : State) (n : Nat) (x : ChainSt) : (s.setChain n x).pending = s.pending := rfl
@[simp] theorem State.setChain_rd (s : State) (n : Nat) (x : ChainSt) (j : Nat) : rd (s.setChain n x) j = rd s j := rfl
@[simp] theorem State.setChain_get (s : State) (n : Nat) (x : ChainSt) (g : FldRef) : State.get (s.setChain n x) g = s.get g := rfl

@[simp] theorem State.modTu_regs (s : State) (f : TuSt → TuSt) : (s.modTu f).regs = s.regs := rfl
@[simp] theorem State.modTu_rsh (s : State) (f : TuSt → TuSt) : (s.modTu f).rsh = s.rsh := rfl
@[simp] theorem State.modTu_wsh (s : State) (f : TuSt → TuSt) : (s.modTu f).wsh = s.wsh := rfl
@[simp] theorem State.modTu_qmem (s : State) (f : TuSt → TuSt) : (s.modTu f).qmem = s.qmem := rfl
@[simp] theorem State.modTu_flash (s : State) (f : TuSt → TuSt) : (s.modTu f).flash = s.flash := rfl
@[simp] theorem State.modTu_otp (s : State) (f : TuSt → TuSt) : (s.modTu f).otp = s.otp := rfl
@[simp] theorem State.modTu_queues (s : State) (f : TuSt → TuSt) : (s.modTu f).queues = s.queues := rfl
@[simp] theorem State.modTu_pops (s : State) (f : TuSt → TuSt) : (s.modTu f).pops = s.pops := rfl
@[simp] theorem State.modTu_ctxs (s : State) (f : TuSt → TuSt) : (s.modTu f).ctxs = s.ctxs := rfl
@[simp] theorem State.modTu_engs (s : State) (f : TuSt → TuSt) : (s.modTu f).engs = s.engs := rfl
@[simp] theorem State.modTu_cans (s : State) (f : TuSt → TuSt) : (s.modTu f).cans = s.cans := rfl
@[simp] theorem State.modTu_cvs (s : State) (f : TuSt → TuSt) : (s.modTu f).cvs = s.cvs := rfl
@[simp] theorem State.modTu_tiles (s : State) (f : TuSt → TuSt) : (s.modTu f).tiles = s.tiles := rfl
@[simp] theorem State.modTu_chans (s : State) (f : TuSt → TuSt) : (s.modTu f).chans = s.chans := rfl
@[simp] theorem State.modTu_chains (s : State) (f : TuSt → TuSt) : (s.modTu f).chains = s.chains := rfl
@[simp] theorem State.modTu_dips (s : State) (f : TuSt → TuSt) : (s.modTu f).dips = s.dips := rfl
@[simp] theorem State.modTu_tu (s : State) (f : TuSt → TuSt) : (s.modTu f).tu = f s.tu := rfl
@[simp] theorem State.modTu_sv (s : State) (f : TuSt → TuSt) : (s.modTu f).sv = s.sv := rfl
@[simp] theorem State.modTu_ca (s : State) (f : TuSt → TuSt) : (s.modTu f).ca = s.ca := rfl
@[simp] theorem State.modTu_pw (s : State) (f : TuSt → TuSt) : (s.modTu f).pw = s.pw := rfl
@[simp] theorem State.modTu_s0 (s : State) (f : TuSt → TuSt) : (s.modTu f).s0 = s.s0 := rfl
@[simp] theorem State.modTu_sp1 (s : State) (f : TuSt → TuSt) : (s.modTu f).sp1 = s.sp1 := rfl
@[simp] theorem State.modTu_sp2 (s : State) (f : TuSt → TuSt) : (s.modTu f).sp2 = s.sp2 := rfl
@[simp] theorem State.modTu_csn (s : State) (f : TuSt → TuSt) : (s.modTu f).csn = s.csn := rfl
@[simp] theorem State.modTu_bt (s : State) (f : TuSt → TuSt) : (s.modTu f).bt = s.bt := rfl
@[simp] theorem State.modTu_late (s : State) (f : TuSt → TuSt) : (s.modTu f).late = s.late := rfl
@[simp] theorem State.modTu_ltrigs (s : State) (f : TuSt → TuSt) : (s.modTu f).ltrigs = s.ltrigs := rfl
@[simp] theorem State.modTu_jpend (s : State) (f : TuSt → TuSt) : (s.modTu f).jpend = s.jpend := rfl
@[simp] theorem State.modTu_jcom (s : State) (f : TuSt → TuSt) : (s.modTu f).jcom = s.jcom := rfl
@[simp] theorem State.modTu_jseq (s : State) (f : TuSt → TuSt) : (s.modTu f).jseq = s.jseq := rfl
@[simp] theorem State.modTu_hcache (s : State) (f : TuSt → TuSt) : (s.modTu f).hcache = s.hcache := rfl
@[simp] theorem State.modTu_rrLast (s : State) (f : TuSt → TuSt) : (s.modTu f).rrLast = s.rrLast := rfl
@[simp] theorem State.modTu_ckptDone (s : State) (f : TuSt → TuSt) : (s.modTu f).ckptDone = s.ckptDone := rfl
@[simp] theorem State.modTu_logs (s : State) (f : TuSt → TuSt) : (s.modTu f).logs = s.logs := rfl
@[simp] theorem State.modTu_logMap (s : State) (f : TuSt → TuSt) : (s.modTu f).logMap = s.logMap := rfl
@[simp] theorem State.modTu_rdata (s : State) (f : TuSt → TuSt) : (s.modTu f).rdata = s.rdata := rfl
@[simp] theorem State.modTu_free (s : State) (f : TuSt → TuSt) : (s.modTu f).free = s.free := rfl
@[simp] theorem State.modTu_blockCtr (s : State) (f : TuSt → TuSt) : (s.modTu f).blockCtr = s.blockCtr := rfl
@[simp] theorem State.modTu_pending (s : State) (f : TuSt → TuSt) : (s.modTu f).pending = s.pending := rfl
@[simp] theorem State.modTu_rd (s : State) (f : TuSt → TuSt) (j : Nat) : rd (s.modTu f) j = rd s j := rfl
@[simp] theorem State.modTu_get (s : State) (f : TuSt → TuSt) (g : FldRef) : State.get (s.modTu f) g = s.get g := rfl

@[simp] theorem State.modSv_regs (s : State) (f : SvSt → SvSt) : (s.modSv f).regs = s.regs := rfl
@[simp] theorem State.modSv_rsh (s : State) (f : SvSt → SvSt) : (s.modSv f).rsh = s.rsh := rfl
@[simp] theorem State.modSv_wsh (s : State) (f : SvSt → SvSt) : (s.modSv f).wsh = s.wsh := rfl
@[simp] theorem State.modSv_qmem (s : State) (f : SvSt → SvSt) : (s.modSv f).qmem = s.qmem := rfl
@[simp] theorem State.modSv_flash (s : State) (f : SvSt → SvSt) : (s.modSv f).flash = s.flash := rfl
@[simp] theorem State.modSv_otp (s : State) (f : SvSt → SvSt) : (s.modSv f).otp = s.otp := rfl
@[simp] theorem State.modSv_queues (s : State) (f : SvSt → SvSt) : (s.modSv f).queues = s.queues := rfl
@[simp] theorem State.modSv_pops (s : State) (f : SvSt → SvSt) : (s.modSv f).pops = s.pops := rfl
@[simp] theorem State.modSv_ctxs (s : State) (f : SvSt → SvSt) : (s.modSv f).ctxs = s.ctxs := rfl
@[simp] theorem State.modSv_engs (s : State) (f : SvSt → SvSt) : (s.modSv f).engs = s.engs := rfl
@[simp] theorem State.modSv_cans (s : State) (f : SvSt → SvSt) : (s.modSv f).cans = s.cans := rfl
@[simp] theorem State.modSv_cvs (s : State) (f : SvSt → SvSt) : (s.modSv f).cvs = s.cvs := rfl
@[simp] theorem State.modSv_tiles (s : State) (f : SvSt → SvSt) : (s.modSv f).tiles = s.tiles := rfl
@[simp] theorem State.modSv_chans (s : State) (f : SvSt → SvSt) : (s.modSv f).chans = s.chans := rfl
@[simp] theorem State.modSv_chains (s : State) (f : SvSt → SvSt) : (s.modSv f).chains = s.chains := rfl
@[simp] theorem State.modSv_dips (s : State) (f : SvSt → SvSt) : (s.modSv f).dips = s.dips := rfl
@[simp] theorem State.modSv_tu (s : State) (f : SvSt → SvSt) : (s.modSv f).tu = s.tu := rfl
@[simp] theorem State.modSv_sv (s : State) (f : SvSt → SvSt) : (s.modSv f).sv = f s.sv := rfl
@[simp] theorem State.modSv_ca (s : State) (f : SvSt → SvSt) : (s.modSv f).ca = s.ca := rfl
@[simp] theorem State.modSv_pw (s : State) (f : SvSt → SvSt) : (s.modSv f).pw = s.pw := rfl
@[simp] theorem State.modSv_s0 (s : State) (f : SvSt → SvSt) : (s.modSv f).s0 = s.s0 := rfl
@[simp] theorem State.modSv_sp1 (s : State) (f : SvSt → SvSt) : (s.modSv f).sp1 = s.sp1 := rfl
@[simp] theorem State.modSv_sp2 (s : State) (f : SvSt → SvSt) : (s.modSv f).sp2 = s.sp2 := rfl
@[simp] theorem State.modSv_csn (s : State) (f : SvSt → SvSt) : (s.modSv f).csn = s.csn := rfl
@[simp] theorem State.modSv_bt (s : State) (f : SvSt → SvSt) : (s.modSv f).bt = s.bt := rfl
@[simp] theorem State.modSv_late (s : State) (f : SvSt → SvSt) : (s.modSv f).late = s.late := rfl
@[simp] theorem State.modSv_ltrigs (s : State) (f : SvSt → SvSt) : (s.modSv f).ltrigs = s.ltrigs := rfl
@[simp] theorem State.modSv_jpend (s : State) (f : SvSt → SvSt) : (s.modSv f).jpend = s.jpend := rfl
@[simp] theorem State.modSv_jcom (s : State) (f : SvSt → SvSt) : (s.modSv f).jcom = s.jcom := rfl
@[simp] theorem State.modSv_jseq (s : State) (f : SvSt → SvSt) : (s.modSv f).jseq = s.jseq := rfl
@[simp] theorem State.modSv_hcache (s : State) (f : SvSt → SvSt) : (s.modSv f).hcache = s.hcache := rfl
@[simp] theorem State.modSv_rrLast (s : State) (f : SvSt → SvSt) : (s.modSv f).rrLast = s.rrLast := rfl
@[simp] theorem State.modSv_ckptDone (s : State) (f : SvSt → SvSt) : (s.modSv f).ckptDone = s.ckptDone := rfl
@[simp] theorem State.modSv_logs (s : State) (f : SvSt → SvSt) : (s.modSv f).logs = s.logs := rfl
@[simp] theorem State.modSv_logMap (s : State) (f : SvSt → SvSt) : (s.modSv f).logMap = s.logMap := rfl
@[simp] theorem State.modSv_rdata (s : State) (f : SvSt → SvSt) : (s.modSv f).rdata = s.rdata := rfl
@[simp] theorem State.modSv_free (s : State) (f : SvSt → SvSt) : (s.modSv f).free = s.free := rfl
@[simp] theorem State.modSv_blockCtr (s : State) (f : SvSt → SvSt) : (s.modSv f).blockCtr = s.blockCtr := rfl
@[simp] theorem State.modSv_pending (s : State) (f : SvSt → SvSt) : (s.modSv f).pending = s.pending := rfl
@[simp] theorem State.modSv_rd (s : State) (f : SvSt → SvSt) (j : Nat) : rd (s.modSv f) j = rd s j := rfl
@[simp] theorem State.modSv_get (s : State) (f : SvSt → SvSt) (g : FldRef) : State.get (s.modSv f) g = s.get g := rfl

@[simp] theorem State.modCa_regs (s : State) (f : CaSt → CaSt) : (s.modCa f).regs = s.regs := rfl
@[simp] theorem State.modCa_rsh (s : State) (f : CaSt → CaSt) : (s.modCa f).rsh = s.rsh := rfl
@[simp] theorem State.modCa_wsh (s : State) (f : CaSt → CaSt) : (s.modCa f).wsh = s.wsh := rfl
@[simp] theorem State.modCa_qmem (s : State) (f : CaSt → CaSt) : (s.modCa f).qmem = s.qmem := rfl
@[simp] theorem State.modCa_flash (s : State) (f : CaSt → CaSt) : (s.modCa f).flash = s.flash := rfl
@[simp] theorem State.modCa_otp (s : State) (f : CaSt → CaSt) : (s.modCa f).otp = s.otp := rfl
@[simp] theorem State.modCa_queues (s : State) (f : CaSt → CaSt) : (s.modCa f).queues = s.queues := rfl
@[simp] theorem State.modCa_pops (s : State) (f : CaSt → CaSt) : (s.modCa f).pops = s.pops := rfl
@[simp] theorem State.modCa_ctxs (s : State) (f : CaSt → CaSt) : (s.modCa f).ctxs = s.ctxs := rfl
@[simp] theorem State.modCa_engs (s : State) (f : CaSt → CaSt) : (s.modCa f).engs = s.engs := rfl
@[simp] theorem State.modCa_cans (s : State) (f : CaSt → CaSt) : (s.modCa f).cans = s.cans := rfl
@[simp] theorem State.modCa_cvs (s : State) (f : CaSt → CaSt) : (s.modCa f).cvs = s.cvs := rfl
@[simp] theorem State.modCa_tiles (s : State) (f : CaSt → CaSt) : (s.modCa f).tiles = s.tiles := rfl
@[simp] theorem State.modCa_chans (s : State) (f : CaSt → CaSt) : (s.modCa f).chans = s.chans := rfl
@[simp] theorem State.modCa_chains (s : State) (f : CaSt → CaSt) : (s.modCa f).chains = s.chains := rfl
@[simp] theorem State.modCa_dips (s : State) (f : CaSt → CaSt) : (s.modCa f).dips = s.dips := rfl
@[simp] theorem State.modCa_tu (s : State) (f : CaSt → CaSt) : (s.modCa f).tu = s.tu := rfl
@[simp] theorem State.modCa_sv (s : State) (f : CaSt → CaSt) : (s.modCa f).sv = s.sv := rfl
@[simp] theorem State.modCa_ca (s : State) (f : CaSt → CaSt) : (s.modCa f).ca = f s.ca := rfl
@[simp] theorem State.modCa_pw (s : State) (f : CaSt → CaSt) : (s.modCa f).pw = s.pw := rfl
@[simp] theorem State.modCa_s0 (s : State) (f : CaSt → CaSt) : (s.modCa f).s0 = s.s0 := rfl
@[simp] theorem State.modCa_sp1 (s : State) (f : CaSt → CaSt) : (s.modCa f).sp1 = s.sp1 := rfl
@[simp] theorem State.modCa_sp2 (s : State) (f : CaSt → CaSt) : (s.modCa f).sp2 = s.sp2 := rfl
@[simp] theorem State.modCa_csn (s : State) (f : CaSt → CaSt) : (s.modCa f).csn = s.csn := rfl
@[simp] theorem State.modCa_bt (s : State) (f : CaSt → CaSt) : (s.modCa f).bt = s.bt := rfl
@[simp] theorem State.modCa_late (s : State) (f : CaSt → CaSt) : (s.modCa f).late = s.late := rfl
@[simp] theorem State.modCa_ltrigs (s : State) (f : CaSt → CaSt) : (s.modCa f).ltrigs = s.ltrigs := rfl
@[simp] theorem State.modCa_jpend (s : State) (f : CaSt → CaSt) : (s.modCa f).jpend = s.jpend := rfl
@[simp] theorem State.modCa_jcom (s : State) (f : CaSt → CaSt) : (s.modCa f).jcom = s.jcom := rfl
@[simp] theorem State.modCa_jseq (s : State) (f : CaSt → CaSt) : (s.modCa f).jseq = s.jseq := rfl
@[simp] theorem State.modCa_hcache (s : State) (f : CaSt → CaSt) : (s.modCa f).hcache = s.hcache := rfl
@[simp] theorem State.modCa_rrLast (s : State) (f : CaSt → CaSt) : (s.modCa f).rrLast = s.rrLast := rfl
@[simp] theorem State.modCa_ckptDone (s : State) (f : CaSt → CaSt) : (s.modCa f).ckptDone = s.ckptDone := rfl
@[simp] theorem State.modCa_logs (s : State) (f : CaSt → CaSt) : (s.modCa f).logs = s.logs := rfl
@[simp] theorem State.modCa_logMap (s : State) (f : CaSt → CaSt) : (s.modCa f).logMap = s.logMap := rfl
@[simp] theorem State.modCa_rdata (s : State) (f : CaSt → CaSt) : (s.modCa f).rdata = s.rdata := rfl
@[simp] theorem State.modCa_free (s : State) (f : CaSt → CaSt) : (s.modCa f).free = s.free := rfl
@[simp] theorem State.modCa_blockCtr (s : State) (f : CaSt → CaSt) : (s.modCa f).blockCtr = s.blockCtr := rfl
@[simp] theorem State.modCa_pending (s : State) (f : CaSt → CaSt) : (s.modCa f).pending = s.pending := rfl
@[simp] theorem State.modCa_rd (s : State) (f : CaSt → CaSt) (j : Nat) : rd (s.modCa f) j = rd s j := rfl
@[simp] theorem State.modCa_get (s : State) (f : CaSt → CaSt) (g : FldRef) : State.get (s.modCa f) g = s.get g := rfl

@[simp] theorem State.modPw_regs (s : State) (f : PwSt → PwSt) : (s.modPw f).regs = s.regs := rfl
@[simp] theorem State.modPw_rsh (s : State) (f : PwSt → PwSt) : (s.modPw f).rsh = s.rsh := rfl
@[simp] theorem State.modPw_wsh (s : State) (f : PwSt → PwSt) : (s.modPw f).wsh = s.wsh := rfl
@[simp] theorem State.modPw_qmem (s : State) (f : PwSt → PwSt) : (s.modPw f).qmem = s.qmem := rfl
@[simp] theorem State.modPw_flash (s : State) (f : PwSt → PwSt) : (s.modPw f).flash = s.flash := rfl
@[simp] theorem State.modPw_otp (s : State) (f : PwSt → PwSt) : (s.modPw f).otp = s.otp := rfl
@[simp] theorem State.modPw_queues (s : State) (f : PwSt → PwSt) : (s.modPw f).queues = s.queues := rfl
@[simp] theorem State.modPw_pops (s : State) (f : PwSt → PwSt) : (s.modPw f).pops = s.pops := rfl
@[simp] theorem State.modPw_ctxs (s : State) (f : PwSt → PwSt) : (s.modPw f).ctxs = s.ctxs := rfl
@[simp] theorem State.modPw_engs (s : State) (f : PwSt → PwSt) : (s.modPw f).engs = s.engs := rfl
@[simp] theorem State.modPw_cans (s : State) (f : PwSt → PwSt) : (s.modPw f).cans = s.cans := rfl
@[simp] theorem State.modPw_cvs (s : State) (f : PwSt → PwSt) : (s.modPw f).cvs = s.cvs := rfl
@[simp] theorem State.modPw_tiles (s : State) (f : PwSt → PwSt) : (s.modPw f).tiles = s.tiles := rfl
@[simp] theorem State.modPw_chans (s : State) (f : PwSt → PwSt) : (s.modPw f).chans = s.chans := rfl
@[simp] theorem State.modPw_chains (s : State) (f : PwSt → PwSt) : (s.modPw f).chains = s.chains := rfl
@[simp] theorem State.modPw_dips (s : State) (f : PwSt → PwSt) : (s.modPw f).dips = s.dips := rfl
@[simp] theorem State.modPw_tu (s : State) (f : PwSt → PwSt) : (s.modPw f).tu = s.tu := rfl
@[simp] theorem State.modPw_sv (s : State) (f : PwSt → PwSt) : (s.modPw f).sv = s.sv := rfl
@[simp] theorem State.modPw_ca (s : State) (f : PwSt → PwSt) : (s.modPw f).ca = s.ca := rfl
@[simp] theorem State.modPw_pw (s : State) (f : PwSt → PwSt) : (s.modPw f).pw = f s.pw := rfl
@[simp] theorem State.modPw_s0 (s : State) (f : PwSt → PwSt) : (s.modPw f).s0 = s.s0 := rfl
@[simp] theorem State.modPw_sp1 (s : State) (f : PwSt → PwSt) : (s.modPw f).sp1 = s.sp1 := rfl
@[simp] theorem State.modPw_sp2 (s : State) (f : PwSt → PwSt) : (s.modPw f).sp2 = s.sp2 := rfl
@[simp] theorem State.modPw_csn (s : State) (f : PwSt → PwSt) : (s.modPw f).csn = s.csn := rfl
@[simp] theorem State.modPw_bt (s : State) (f : PwSt → PwSt) : (s.modPw f).bt = s.bt := rfl
@[simp] theorem State.modPw_late (s : State) (f : PwSt → PwSt) : (s.modPw f).late = s.late := rfl
@[simp] theorem State.modPw_ltrigs (s : State) (f : PwSt → PwSt) : (s.modPw f).ltrigs = s.ltrigs := rfl
@[simp] theorem State.modPw_jpend (s : State) (f : PwSt → PwSt) : (s.modPw f).jpend = s.jpend := rfl
@[simp] theorem State.modPw_jcom (s : State) (f : PwSt → PwSt) : (s.modPw f).jcom = s.jcom := rfl
@[simp] theorem State.modPw_jseq (s : State) (f : PwSt → PwSt) : (s.modPw f).jseq = s.jseq := rfl
@[simp] theorem State.modPw_hcache (s : State) (f : PwSt → PwSt) : (s.modPw f).hcache = s.hcache := rfl
@[simp] theorem State.modPw_rrLast (s : State) (f : PwSt → PwSt) : (s.modPw f).rrLast = s.rrLast := rfl
@[simp] theorem State.modPw_ckptDone (s : State) (f : PwSt → PwSt) : (s.modPw f).ckptDone = s.ckptDone := rfl
@[simp] theorem State.modPw_logs (s : State) (f : PwSt → PwSt) : (s.modPw f).logs = s.logs := rfl
@[simp] theorem State.modPw_logMap (s : State) (f : PwSt → PwSt) : (s.modPw f).logMap = s.logMap := rfl
@[simp] theorem State.modPw_rdata (s : State) (f : PwSt → PwSt) : (s.modPw f).rdata = s.rdata := rfl
@[simp] theorem State.modPw_free (s : State) (f : PwSt → PwSt) : (s.modPw f).free = s.free := rfl
@[simp] theorem State.modPw_blockCtr (s : State) (f : PwSt → PwSt) : (s.modPw f).blockCtr = s.blockCtr := rfl
@[simp] theorem State.modPw_pending (s : State) (f : PwSt → PwSt) : (s.modPw f).pending = s.pending := rfl
@[simp] theorem State.modPw_rd (s : State) (f : PwSt → PwSt) (j : Nat) : rd (s.modPw f) j = rd s j := rfl
@[simp] theorem State.modPw_get (s : State) (f : PwSt → PwSt) (g : FldRef) : State.get (s.modPw f) g = s.get g := rfl

@[simp] theorem State.modS0_regs (s : State) (f : S0St → S0St) : (s.modS0 f).regs = s.regs := rfl
@[simp] theorem State.modS0_rsh (s : State) (f : S0St → S0St) : (s.modS0 f).rsh = s.rsh := rfl
@[simp] theorem State.modS0_wsh (s : State) (f : S0St → S0St) : (s.modS0 f).wsh = s.wsh := rfl
@[simp] theorem State.modS0_qmem (s : State) (f : S0St → S0St) : (s.modS0 f).qmem = s.qmem := rfl
@[simp] theorem State.modS0_flash (s : State) (f : S0St → S0St) : (s.modS0 f).flash = s.flash := rfl
@[simp] theorem State.modS0_otp (s : State) (f : S0St → S0St) : (s.modS0 f).otp = s.otp := rfl
@[simp] theorem State.modS0_queues (s : State) (f : S0St → S0St) : (s.modS0 f).queues = s.queues := rfl
@[simp] theorem State.modS0_pops (s : State) (f : S0St → S0St) : (s.modS0 f).pops = s.pops := rfl
@[simp] theorem State.modS0_ctxs (s : State) (f : S0St → S0St) : (s.modS0 f).ctxs = s.ctxs := rfl
@[simp] theorem State.modS0_engs (s : State) (f : S0St → S0St) : (s.modS0 f).engs = s.engs := rfl
@[simp] theorem State.modS0_cans (s : State) (f : S0St → S0St) : (s.modS0 f).cans = s.cans := rfl
@[simp] theorem State.modS0_cvs (s : State) (f : S0St → S0St) : (s.modS0 f).cvs = s.cvs := rfl
@[simp] theorem State.modS0_tiles (s : State) (f : S0St → S0St) : (s.modS0 f).tiles = s.tiles := rfl
@[simp] theorem State.modS0_chans (s : State) (f : S0St → S0St) : (s.modS0 f).chans = s.chans := rfl
@[simp] theorem State.modS0_chains (s : State) (f : S0St → S0St) : (s.modS0 f).chains = s.chains := rfl
@[simp] theorem State.modS0_dips (s : State) (f : S0St → S0St) : (s.modS0 f).dips = s.dips := rfl
@[simp] theorem State.modS0_tu (s : State) (f : S0St → S0St) : (s.modS0 f).tu = s.tu := rfl
@[simp] theorem State.modS0_sv (s : State) (f : S0St → S0St) : (s.modS0 f).sv = s.sv := rfl
@[simp] theorem State.modS0_ca (s : State) (f : S0St → S0St) : (s.modS0 f).ca = s.ca := rfl
@[simp] theorem State.modS0_pw (s : State) (f : S0St → S0St) : (s.modS0 f).pw = s.pw := rfl
@[simp] theorem State.modS0_s0 (s : State) (f : S0St → S0St) : (s.modS0 f).s0 = f s.s0 := rfl
@[simp] theorem State.modS0_sp1 (s : State) (f : S0St → S0St) : (s.modS0 f).sp1 = s.sp1 := rfl
@[simp] theorem State.modS0_sp2 (s : State) (f : S0St → S0St) : (s.modS0 f).sp2 = s.sp2 := rfl
@[simp] theorem State.modS0_csn (s : State) (f : S0St → S0St) : (s.modS0 f).csn = s.csn := rfl
@[simp] theorem State.modS0_bt (s : State) (f : S0St → S0St) : (s.modS0 f).bt = s.bt := rfl
@[simp] theorem State.modS0_late (s : State) (f : S0St → S0St) : (s.modS0 f).late = s.late := rfl
@[simp] theorem State.modS0_ltrigs (s : State) (f : S0St → S0St) : (s.modS0 f).ltrigs = s.ltrigs := rfl
@[simp] theorem State.modS0_jpend (s : State) (f : S0St → S0St) : (s.modS0 f).jpend = s.jpend := rfl
@[simp] theorem State.modS0_jcom (s : State) (f : S0St → S0St) : (s.modS0 f).jcom = s.jcom := rfl
@[simp] theorem State.modS0_jseq (s : State) (f : S0St → S0St) : (s.modS0 f).jseq = s.jseq := rfl
@[simp] theorem State.modS0_hcache (s : State) (f : S0St → S0St) : (s.modS0 f).hcache = s.hcache := rfl
@[simp] theorem State.modS0_rrLast (s : State) (f : S0St → S0St) : (s.modS0 f).rrLast = s.rrLast := rfl
@[simp] theorem State.modS0_ckptDone (s : State) (f : S0St → S0St) : (s.modS0 f).ckptDone = s.ckptDone := rfl
@[simp] theorem State.modS0_logs (s : State) (f : S0St → S0St) : (s.modS0 f).logs = s.logs := rfl
@[simp] theorem State.modS0_logMap (s : State) (f : S0St → S0St) : (s.modS0 f).logMap = s.logMap := rfl
@[simp] theorem State.modS0_rdata (s : State) (f : S0St → S0St) : (s.modS0 f).rdata = s.rdata := rfl
@[simp] theorem State.modS0_free (s : State) (f : S0St → S0St) : (s.modS0 f).free = s.free := rfl
@[simp] theorem State.modS0_blockCtr (s : State) (f : S0St → S0St) : (s.modS0 f).blockCtr = s.blockCtr := rfl
@[simp] theorem State.modS0_pending (s : State) (f : S0St → S0St) : (s.modS0 f).pending = s.pending := rfl
@[simp] theorem State.modS0_rd (s : State) (f : S0St → S0St) (j : Nat) : rd (s.modS0 f) j = rd s j := rfl
@[simp] theorem State.modS0_get (s : State) (f : S0St → S0St) (g : FldRef) : State.get (s.modS0 f) g = s.get g := rfl

@[simp] theorem State.modSp1_regs (s : State) (f : Sp1St → Sp1St) : (s.modSp1 f).regs = s.regs := rfl
@[simp] theorem State.modSp1_rsh (s : State) (f : Sp1St → Sp1St) : (s.modSp1 f).rsh = s.rsh := rfl
@[simp] theorem State.modSp1_wsh (s : State) (f : Sp1St → Sp1St) : (s.modSp1 f).wsh = s.wsh := rfl
@[simp] theorem State.modSp1_qmem (s : State) (f : Sp1St → Sp1St) : (s.modSp1 f).qmem = s.qmem := rfl
@[simp] theorem State.modSp1_flash (s : State) (f : Sp1St → Sp1St) : (s.modSp1 f).flash = s.flash := rfl
@[simp] theorem State.modSp1_otp (s : State) (f : Sp1St → Sp1St) : (s.modSp1 f).otp = s.otp := rfl
@[simp] theorem State.modSp1_queues (s : State) (f : Sp1St → Sp1St) : (s.modSp1 f).queues = s.queues := rfl
@[simp] theorem State.modSp1_pops (s : State) (f : Sp1St → Sp1St) : (s.modSp1 f).pops = s.pops := rfl
@[simp] theorem State.modSp1_ctxs (s : State) (f : Sp1St → Sp1St) : (s.modSp1 f).ctxs = s.ctxs := rfl
@[simp] theorem State.modSp1_engs (s : State) (f : Sp1St → Sp1St) : (s.modSp1 f).engs = s.engs := rfl
@[simp] theorem State.modSp1_cans (s : State) (f : Sp1St → Sp1St) : (s.modSp1 f).cans = s.cans := rfl
@[simp] theorem State.modSp1_cvs (s : State) (f : Sp1St → Sp1St) : (s.modSp1 f).cvs = s.cvs := rfl
@[simp] theorem State.modSp1_tiles (s : State) (f : Sp1St → Sp1St) : (s.modSp1 f).tiles = s.tiles := rfl
@[simp] theorem State.modSp1_chans (s : State) (f : Sp1St → Sp1St) : (s.modSp1 f).chans = s.chans := rfl
@[simp] theorem State.modSp1_chains (s : State) (f : Sp1St → Sp1St) : (s.modSp1 f).chains = s.chains := rfl
@[simp] theorem State.modSp1_dips (s : State) (f : Sp1St → Sp1St) : (s.modSp1 f).dips = s.dips := rfl
@[simp] theorem State.modSp1_tu (s : State) (f : Sp1St → Sp1St) : (s.modSp1 f).tu = s.tu := rfl
@[simp] theorem State.modSp1_sv (s : State) (f : Sp1St → Sp1St) : (s.modSp1 f).sv = s.sv := rfl
@[simp] theorem State.modSp1_ca (s : State) (f : Sp1St → Sp1St) : (s.modSp1 f).ca = s.ca := rfl
@[simp] theorem State.modSp1_pw (s : State) (f : Sp1St → Sp1St) : (s.modSp1 f).pw = s.pw := rfl
@[simp] theorem State.modSp1_s0 (s : State) (f : Sp1St → Sp1St) : (s.modSp1 f).s0 = s.s0 := rfl
@[simp] theorem State.modSp1_sp1 (s : State) (f : Sp1St → Sp1St) : (s.modSp1 f).sp1 = f s.sp1 := rfl
@[simp] theorem State.modSp1_sp2 (s : State) (f : Sp1St → Sp1St) : (s.modSp1 f).sp2 = s.sp2 := rfl
@[simp] theorem State.modSp1_csn (s : State) (f : Sp1St → Sp1St) : (s.modSp1 f).csn = s.csn := rfl
@[simp] theorem State.modSp1_bt (s : State) (f : Sp1St → Sp1St) : (s.modSp1 f).bt = s.bt := rfl
@[simp] theorem State.modSp1_late (s : State) (f : Sp1St → Sp1St) : (s.modSp1 f).late = s.late := rfl
@[simp] theorem State.modSp1_ltrigs (s : State) (f : Sp1St → Sp1St) : (s.modSp1 f).ltrigs = s.ltrigs := rfl
@[simp] theorem State.modSp1_jpend (s : State) (f : Sp1St → Sp1St) : (s.modSp1 f).jpend = s.jpend := rfl
@[simp] theorem State.modSp1_jcom (s : State) (f : Sp1St → Sp1St) : (s.modSp1 f).jcom = s.jcom := rfl
@[simp] theorem State.modSp1_jseq (s : State) (f : Sp1St → Sp1St) : (s.modSp1 f).jseq = s.jseq := rfl
@[simp] theorem State.modSp1_hcache (s : State) (f : Sp1St → Sp1St) : (s.modSp1 f).hcache = s.hcache := rfl
@[simp] theorem State.modSp1_rrLast (s : State) (f : Sp1St → Sp1St) : (s.modSp1 f).rrLast = s.rrLast := rfl
@[simp] theorem State.modSp1_ckptDone (s : State) (f : Sp1St → Sp1St) : (s.modSp1 f).ckptDone = s.ckptDone := rfl
@[simp] theorem State.modSp1_logs (s : State) (f : Sp1St → Sp1St) : (s.modSp1 f).logs = s.logs := rfl
@[simp] theorem State.modSp1_logMap (s : State) (f : Sp1St → Sp1St) : (s.modSp1 f).logMap = s.logMap := rfl
@[simp] theorem State.modSp1_rdata (s : State) (f : Sp1St → Sp1St) : (s.modSp1 f).rdata = s.rdata := rfl
@[simp] theorem State.modSp1_free (s : State) (f : Sp1St → Sp1St) : (s.modSp1 f).free = s.free := rfl
@[simp] theorem State.modSp1_blockCtr (s : State) (f : Sp1St → Sp1St) : (s.modSp1 f).blockCtr = s.blockCtr := rfl
@[simp] theorem State.modSp1_pending (s : State) (f : Sp1St → Sp1St) : (s.modSp1 f).pending = s.pending := rfl
@[simp] theorem State.modSp1_rd (s : State) (f : Sp1St → Sp1St) (j : Nat) : rd (s.modSp1 f) j = rd s j := rfl
@[simp] theorem State.modSp1_get (s : State) (f : Sp1St → Sp1St) (g : FldRef) : State.get (s.modSp1 f) g = s.get g := rfl

@[simp] theorem State.modSp2_regs (s : State) (f : Sp2St → Sp2St) : (s.modSp2 f).regs = s.regs := rfl
@[simp] theorem State.modSp2_rsh (s : State) (f : Sp2St → Sp2St) : (s.modSp2 f).rsh = s.rsh := rfl
@[simp] theorem State.modSp2_wsh (s : State) (f : Sp2St → Sp2St) : (s.modSp2 f).wsh = s.wsh := rfl
@[simp] theorem State.modSp2_qmem (s : State) (f : Sp2St → Sp2St) : (s.modSp2 f).qmem = s.qmem := rfl
@[simp] theorem State.modSp2_flash (s : State) (f : Sp2St → Sp2St) : (s.modSp2 f).flash = s.flash := rfl
@[simp] theorem State.modSp2_otp (s : State) (f : Sp2St → Sp2St) : (s.modSp2 f).otp = s.otp := rfl
@[simp] theorem State.modSp2_queues (s : State) (f : Sp2St → Sp2St) : (s.modSp2 f).queues = s.queues := rfl
@[simp] theorem State.modSp2_pops (s : State) (f : Sp2St → Sp2St) : (s.modSp2 f).pops = s.pops := rfl
@[simp] theorem State.modSp2_ctxs (s : State) (f : Sp2St → Sp2St) : (s.modSp2 f).ctxs = s.ctxs := rfl
@[simp] theorem State.modSp2_engs (s : State) (f : Sp2St → Sp2St) : (s.modSp2 f).engs = s.engs := rfl
@[simp] theorem State.modSp2_cans (s : State) (f : Sp2St → Sp2St) : (s.modSp2 f).cans = s.cans := rfl
@[simp] theorem State.modSp2_cvs (s : State) (f : Sp2St → Sp2St) : (s.modSp2 f).cvs = s.cvs := rfl
@[simp] theorem State.modSp2_tiles (s : State) (f : Sp2St → Sp2St) : (s.modSp2 f).tiles = s.tiles := rfl
@[simp] theorem State.modSp2_chans (s : State) (f : Sp2St → Sp2St) : (s.modSp2 f).chans = s.chans := rfl
@[simp] theorem State.modSp2_chains (s : State) (f : Sp2St → Sp2St) : (s.modSp2 f).chains = s.chains := rfl
@[simp] theorem State.modSp2_dips (s : State) (f : Sp2St → Sp2St) : (s.modSp2 f).dips = s.dips := rfl
@[simp] theorem State.modSp2_tu (s : State) (f : Sp2St → Sp2St) : (s.modSp2 f).tu = s.tu := rfl
@[simp] theorem State.modSp2_sv (s : State) (f : Sp2St → Sp2St) : (s.modSp2 f).sv = s.sv := rfl
@[simp] theorem State.modSp2_ca (s : State) (f : Sp2St → Sp2St) : (s.modSp2 f).ca = s.ca := rfl
@[simp] theorem State.modSp2_pw (s : State) (f : Sp2St → Sp2St) : (s.modSp2 f).pw = s.pw := rfl
@[simp] theorem State.modSp2_s0 (s : State) (f : Sp2St → Sp2St) : (s.modSp2 f).s0 = s.s0 := rfl
@[simp] theorem State.modSp2_sp1 (s : State) (f : Sp2St → Sp2St) : (s.modSp2 f).sp1 = s.sp1 := rfl
@[simp] theorem State.modSp2_sp2 (s : State) (f : Sp2St → Sp2St) : (s.modSp2 f).sp2 = f s.sp2 := rfl
@[simp] theorem State.modSp2_csn (s : State) (f : Sp2St → Sp2St) : (s.modSp2 f).csn = s.csn := rfl
@[simp] theorem State.modSp2_bt (s : State) (f : Sp2St → Sp2St) : (s.modSp2 f).bt = s.bt := rfl
@[simp] theorem State.modSp2_late (s : State) (f : Sp2St → Sp2St) : (s.modSp2 f).late = s.late := rfl
@[simp] theorem State.modSp2_ltrigs (s : State) (f : Sp2St → Sp2St) : (s.modSp2 f).ltrigs = s.ltrigs := rfl
@[simp] theorem State.modSp2_jpend (s : State) (f : Sp2St → Sp2St) : (s.modSp2 f).jpend = s.jpend := rfl
@[simp] theorem State.modSp2_jcom (s : State) (f : Sp2St → Sp2St) : (s.modSp2 f).jcom = s.jcom := rfl
@[simp] theorem State.modSp2_jseq (s : State) (f : Sp2St → Sp2St) : (s.modSp2 f).jseq = s.jseq := rfl
@[simp] theorem State.modSp2_hcache (s : State) (f : Sp2St → Sp2St) : (s.modSp2 f).hcache = s.hcache := rfl
@[simp] theorem State.modSp2_rrLast (s : State) (f : Sp2St → Sp2St) : (s.modSp2 f).rrLast = s.rrLast := rfl
@[simp] theorem State.modSp2_ckptDone (s : State) (f : Sp2St → Sp2St) : (s.modSp2 f).ckptDone = s.ckptDone := rfl
@[simp] theorem State.modSp2_logs (s : State) (f : Sp2St → Sp2St) : (s.modSp2 f).logs = s.logs := rfl
@[simp] theorem State.modSp2_logMap (s : State) (f : Sp2St → Sp2St) : (s.modSp2 f).logMap = s.logMap := rfl
@[simp] theorem State.modSp2_rdata (s : State) (f : Sp2St → Sp2St) : (s.modSp2 f).rdata = s.rdata := rfl
@[simp] theorem State.modSp2_free (s : State) (f : Sp2St → Sp2St) : (s.modSp2 f).free = s.free := rfl
@[simp] theorem State.modSp2_blockCtr (s : State) (f : Sp2St → Sp2St) : (s.modSp2 f).blockCtr = s.blockCtr := rfl
@[simp] theorem State.modSp2_pending (s : State) (f : Sp2St → Sp2St) : (s.modSp2 f).pending = s.pending := rfl
@[simp] theorem State.modSp2_rd (s : State) (f : Sp2St → Sp2St) (j : Nat) : rd (s.modSp2 f) j = rd s j := rfl
@[simp] theorem State.modSp2_get (s : State) (f : Sp2St → Sp2St) (g : FldRef) : State.get (s.modSp2 f) g = s.get g := rfl

@[simp] theorem State.modCsn_regs (s : State) (f : CsnSt → CsnSt) : (s.modCsn f).regs = s.regs := rfl
@[simp] theorem State.modCsn_rsh (s : State) (f : CsnSt → CsnSt) : (s.modCsn f).rsh = s.rsh := rfl
@[simp] theorem State.modCsn_wsh (s : State) (f : CsnSt → CsnSt) : (s.modCsn f).wsh = s.wsh := rfl
@[simp] theorem State.modCsn_qmem (s : State) (f : CsnSt → CsnSt) : (s.modCsn f).qmem = s.qmem := rfl
@[simp] theorem State.modCsn_flash (s : State) (f : CsnSt → CsnSt) : (s.modCsn f).flash = s.flash := rfl
@[simp] theorem State.modCsn_otp (s : State) (f : CsnSt → CsnSt) : (s.modCsn f).otp = s.otp := rfl
@[simp] theorem State.modCsn_queues (s : State) (f : CsnSt → CsnSt) : (s.modCsn f).queues = s.queues := rfl
@[simp] theorem State.modCsn_pops (s : State) (f : CsnSt → CsnSt) : (s.modCsn f).pops = s.pops := rfl
@[simp] theorem State.modCsn_ctxs (s : State) (f : CsnSt → CsnSt) : (s.modCsn f).ctxs = s.ctxs := rfl
@[simp] theorem State.modCsn_engs (s : State) (f : CsnSt → CsnSt) : (s.modCsn f).engs = s.engs := rfl
@[simp] theorem State.modCsn_cans (s : State) (f : CsnSt → CsnSt) : (s.modCsn f).cans = s.cans := rfl
@[simp] theorem State.modCsn_cvs (s : State) (f : CsnSt → CsnSt) : (s.modCsn f).cvs = s.cvs := rfl
@[simp] theorem State.modCsn_tiles (s : State) (f : CsnSt → CsnSt) : (s.modCsn f).tiles = s.tiles := rfl
@[simp] theorem State.modCsn_chans (s : State) (f : CsnSt → CsnSt) : (s.modCsn f).chans = s.chans := rfl
@[simp] theorem State.modCsn_chains (s : State) (f : CsnSt → CsnSt) : (s.modCsn f).chains = s.chains := rfl
@[simp] theorem State.modCsn_dips (s : State) (f : CsnSt → CsnSt) : (s.modCsn f).dips = s.dips := rfl
@[simp] theorem State.modCsn_tu (s : State) (f : CsnSt → CsnSt) : (s.modCsn f).tu = s.tu := rfl
@[simp] theorem State.modCsn_sv (s : State) (f : CsnSt → CsnSt) : (s.modCsn f).sv = s.sv := rfl
@[simp] theorem State.modCsn_ca (s : State) (f : CsnSt → CsnSt) : (s.modCsn f).ca = s.ca := rfl
@[simp] theorem State.modCsn_pw (s : State) (f : CsnSt → CsnSt) : (s.modCsn f).pw = s.pw := rfl
@[simp] theorem State.modCsn_s0 (s : State) (f : CsnSt → CsnSt) : (s.modCsn f).s0 = s.s0 := rfl
@[simp] theorem State.modCsn_sp1 (s : State) (f : CsnSt → CsnSt) : (s.modCsn f).sp1 = s.sp1 := rfl
@[simp] theorem State.modCsn_sp2 (s : State) (f : CsnSt → CsnSt) : (s.modCsn f).sp2 = s.sp2 := rfl
@[simp] theorem State.modCsn_csn (s : State) (f : CsnSt → CsnSt) : (s.modCsn f).csn = f s.csn := rfl
@[simp] theorem State.modCsn_bt (s : State) (f : CsnSt → CsnSt) : (s.modCsn f).bt = s.bt := rfl
@[simp] theorem State.modCsn_late (s : State) (f : CsnSt → CsnSt) : (s.modCsn f).late = s.late := rfl
@[simp] theorem State.modCsn_ltrigs (s : State) (f : CsnSt → CsnSt) : (s.modCsn f).ltrigs = s.ltrigs := rfl
@[simp] theorem State.modCsn_jpend (s : State) (f : CsnSt → CsnSt) : (s.modCsn f).jpend = s.jpend := rfl
@[simp] theorem State.modCsn_jcom (s : State) (f : CsnSt → CsnSt) : (s.modCsn f).jcom = s.jcom := rfl
@[simp] theorem State.modCsn_jseq (s : State) (f : CsnSt → CsnSt) : (s.modCsn f).jseq = s.jseq := rfl
@[simp] theorem State.modCsn_hcache (s : State) (f : CsnSt → CsnSt) : (s.modCsn f).hcache = s.hcache := rfl
@[simp] theorem State.modCsn_rrLast (s : State) (f : CsnSt → CsnSt) : (s.modCsn f).rrLast = s.rrLast := rfl
@[simp] theorem State.modCsn_ckptDone (s : State) (f : CsnSt → CsnSt) : (s.modCsn f).ckptDone = s.ckptDone := rfl
@[simp] theorem State.modCsn_logs (s : State) (f : CsnSt → CsnSt) : (s.modCsn f).logs = s.logs := rfl
@[simp] theorem State.modCsn_logMap (s : State) (f : CsnSt → CsnSt) : (s.modCsn f).logMap = s.logMap := rfl
@[simp] theorem State.modCsn_rdata (s : State) (f : CsnSt → CsnSt) : (s.modCsn f).rdata = s.rdata := rfl
@[simp] theorem State.modCsn_free (s : State) (f : CsnSt → CsnSt) : (s.modCsn f).free = s.free := rfl
@[simp] theorem State.modCsn_blockCtr (s : State) (f : CsnSt → CsnSt) : (s.modCsn f).blockCtr = s.blockCtr := rfl
@[simp] theorem State.modCsn_pending (s : State) (f : CsnSt → CsnSt) : (s.modCsn f).pending = s.pending := rfl
@[simp] theorem State.modCsn_rd (s : State) (f : CsnSt → CsnSt) (j : Nat) : rd (s.modCsn f) j = rd s j := rfl
@[simp] theorem State.modCsn_get (s : State) (f : CsnSt → CsnSt) (g : FldRef) : State.get (s.modCsn f) g = s.get g := rfl

@[simp] theorem State.modBt_regs (s : State) (f : BtSt → BtSt) : (s.modBt f).regs = s.regs := rfl
@[simp] theorem State.modBt_rsh (s : State) (f : BtSt → BtSt) : (s.modBt f).rsh = s.rsh := rfl
@[simp] theorem State.modBt_wsh (s : State) (f : BtSt → BtSt) : (s.modBt f).wsh = s.wsh := rfl
@[simp] theorem State.modBt_qmem (s : State) (f : BtSt → BtSt) : (s.modBt f).qmem = s.qmem := rfl
@[simp] theorem State.modBt_flash (s : State) (f : BtSt → BtSt) : (s.modBt f).flash = s.flash := rfl
@[simp] theorem State.modBt_otp (s : State) (f : BtSt → BtSt) : (s.modBt f).otp = s.otp := rfl
@[simp] theorem State.modBt_queues (s : State) (f : BtSt → BtSt) : (s.modBt f).queues = s.queues := rfl
@[simp] theorem State.modBt_pops (s : State) (f : BtSt → BtSt) : (s.modBt f).pops = s.pops := rfl
@[simp] theorem State.modBt_ctxs (s : State) (f : BtSt → BtSt) : (s.modBt f).ctxs = s.ctxs := rfl
@[simp] theorem State.modBt_engs (s : State) (f : BtSt → BtSt) : (s.modBt f).engs = s.engs := rfl
@[simp] theorem State.modBt_cans (s : State) (f : BtSt → BtSt) : (s.modBt f).cans = s.cans := rfl
@[simp] theorem State.modBt_cvs (s : State) (f : BtSt → BtSt) : (s.modBt f).cvs = s.cvs := rfl
@[simp] theorem State.modBt_tiles (s : State) (f : BtSt → BtSt) : (s.modBt f).tiles = s.tiles := rfl
@[simp] theorem State.modBt_chans (s : State) (f : BtSt → BtSt) : (s.modBt f).chans = s.chans := rfl
@[simp] theorem State.modBt_chains (s : State) (f : BtSt → BtSt) : (s.modBt f).chains = s.chains := rfl
@[simp] theorem State.modBt_dips (s : State) (f : BtSt → BtSt) : (s.modBt f).dips = s.dips := rfl
@[simp] theorem State.modBt_tu (s : State) (f : BtSt → BtSt) : (s.modBt f).tu = s.tu := rfl
@[simp] theorem State.modBt_sv (s : State) (f : BtSt → BtSt) : (s.modBt f).sv = s.sv := rfl
@[simp] theorem State.modBt_ca (s : State) (f : BtSt → BtSt) : (s.modBt f).ca = s.ca := rfl
@[simp] theorem State.modBt_pw (s : State) (f : BtSt → BtSt) : (s.modBt f).pw = s.pw := rfl
@[simp] theorem State.modBt_s0 (s : State) (f : BtSt → BtSt) : (s.modBt f).s0 = s.s0 := rfl
@[simp] theorem State.modBt_sp1 (s : State) (f : BtSt → BtSt) : (s.modBt f).sp1 = s.sp1 := rfl
@[simp] theorem State.modBt_sp2 (s : State) (f : BtSt → BtSt) : (s.modBt f).sp2 = s.sp2 := rfl
@[simp] theorem State.modBt_csn (s : State) (f : BtSt → BtSt) : (s.modBt f).csn = s.csn := rfl
@[simp] theorem State.modBt_bt (s : State) (f : BtSt → BtSt) : (s.modBt f).bt = f s.bt := rfl
@[simp] theorem State.modBt_late (s : State) (f : BtSt → BtSt) : (s.modBt f).late = s.late := rfl
@[simp] theorem State.modBt_ltrigs (s : State) (f : BtSt → BtSt) : (s.modBt f).ltrigs = s.ltrigs := rfl
@[simp] theorem State.modBt_jpend (s : State) (f : BtSt → BtSt) : (s.modBt f).jpend = s.jpend := rfl
@[simp] theorem State.modBt_jcom (s : State) (f : BtSt → BtSt) : (s.modBt f).jcom = s.jcom := rfl
@[simp] theorem State.modBt_jseq (s : State) (f : BtSt → BtSt) : (s.modBt f).jseq = s.jseq := rfl
@[simp] theorem State.modBt_hcache (s : State) (f : BtSt → BtSt) : (s.modBt f).hcache = s.hcache := rfl
@[simp] theorem State.modBt_rrLast (s : State) (f : BtSt → BtSt) : (s.modBt f).rrLast = s.rrLast := rfl
@[simp] theorem State.modBt_ckptDone (s : State) (f : BtSt → BtSt) : (s.modBt f).ckptDone = s.ckptDone := rfl
@[simp] theorem State.modBt_logs (s : State) (f : BtSt → BtSt) : (s.modBt f).logs = s.logs := rfl
@[simp] theorem State.modBt_logMap (s : State) (f : BtSt → BtSt) : (s.modBt f).logMap = s.logMap := rfl
@[simp] theorem State.modBt_rdata (s : State) (f : BtSt → BtSt) : (s.modBt f).rdata = s.rdata := rfl
@[simp] theorem State.modBt_free (s : State) (f : BtSt → BtSt) : (s.modBt f).free = s.free := rfl
@[simp] theorem State.modBt_blockCtr (s : State) (f : BtSt → BtSt) : (s.modBt f).blockCtr = s.blockCtr := rfl
@[simp] theorem State.modBt_pending (s : State) (f : BtSt → BtSt) : (s.modBt f).pending = s.pending := rfl
@[simp] theorem State.modBt_rd (s : State) (f : BtSt → BtSt) (j : Nat) : rd (s.modBt f) j = rd s j := rfl
@[simp] theorem State.modBt_get (s : State) (f : BtSt → BtSt) (g : FldRef) : State.get (s.modBt f) g = s.get g := rfl

@[simp] theorem State.setLogr_regs (s : State) (r : Nat) (x : LogSt) : (s.setLogr r x).regs = s.regs := rfl
@[simp] theorem State.setLogr_rsh (s : State) (r : Nat) (x : LogSt) : (s.setLogr r x).rsh = s.rsh := rfl
@[simp] theorem State.setLogr_wsh (s : State) (r : Nat) (x : LogSt) : (s.setLogr r x).wsh = s.wsh := rfl
@[simp] theorem State.setLogr_qmem (s : State) (r : Nat) (x : LogSt) : (s.setLogr r x).qmem = s.qmem := rfl
@[simp] theorem State.setLogr_flash (s : State) (r : Nat) (x : LogSt) : (s.setLogr r x).flash = s.flash := rfl
@[simp] theorem State.setLogr_otp (s : State) (r : Nat) (x : LogSt) : (s.setLogr r x).otp = s.otp := rfl
@[simp] theorem State.setLogr_queues (s : State) (r : Nat) (x : LogSt) : (s.setLogr r x).queues = s.queues := rfl
@[simp] theorem State.setLogr_pops (s : State) (r : Nat) (x : LogSt) : (s.setLogr r x).pops = s.pops := rfl
@[simp] theorem State.setLogr_ctxs (s : State) (r : Nat) (x : LogSt) : (s.setLogr r x).ctxs = s.ctxs := rfl
@[simp] theorem State.setLogr_engs (s : State) (r : Nat) (x : LogSt) : (s.setLogr r x).engs = s.engs := rfl
@[simp] theorem State.setLogr_cans (s : State) (r : Nat) (x : LogSt) : (s.setLogr r x).cans = s.cans := rfl
@[simp] theorem State.setLogr_cvs (s : State) (r : Nat) (x : LogSt) : (s.setLogr r x).cvs = s.cvs := rfl
@[simp] theorem State.setLogr_tiles (s : State) (r : Nat) (x : LogSt) : (s.setLogr r x).tiles = s.tiles := rfl
@[simp] theorem State.setLogr_chans (s : State) (r : Nat) (x : LogSt) : (s.setLogr r x).chans = s.chans := rfl
@[simp] theorem State.setLogr_chains (s : State) (r : Nat) (x : LogSt) : (s.setLogr r x).chains = s.chains := rfl
@[simp] theorem State.setLogr_dips (s : State) (r : Nat) (x : LogSt) : (s.setLogr r x).dips = s.dips := rfl
@[simp] theorem State.setLogr_tu (s : State) (r : Nat) (x : LogSt) : (s.setLogr r x).tu = s.tu := rfl
@[simp] theorem State.setLogr_sv (s : State) (r : Nat) (x : LogSt) : (s.setLogr r x).sv = s.sv := rfl
@[simp] theorem State.setLogr_ca (s : State) (r : Nat) (x : LogSt) : (s.setLogr r x).ca = s.ca := rfl
@[simp] theorem State.setLogr_pw (s : State) (r : Nat) (x : LogSt) : (s.setLogr r x).pw = s.pw := rfl
@[simp] theorem State.setLogr_s0 (s : State) (r : Nat) (x : LogSt) : (s.setLogr r x).s0 = s.s0 := rfl
@[simp] theorem State.setLogr_sp1 (s : State) (r : Nat) (x : LogSt) : (s.setLogr r x).sp1 = s.sp1 := rfl
@[simp] theorem State.setLogr_sp2 (s : State) (r : Nat) (x : LogSt) : (s.setLogr r x).sp2 = s.sp2 := rfl
@[simp] theorem State.setLogr_csn (s : State) (r : Nat) (x : LogSt) : (s.setLogr r x).csn = s.csn := rfl
@[simp] theorem State.setLogr_bt (s : State) (r : Nat) (x : LogSt) : (s.setLogr r x).bt = s.bt := rfl
@[simp] theorem State.setLogr_late (s : State) (r : Nat) (x : LogSt) : (s.setLogr r x).late = s.late := rfl
@[simp] theorem State.setLogr_ltrigs (s : State) (r : Nat) (x : LogSt) : (s.setLogr r x).ltrigs = s.ltrigs := rfl
@[simp] theorem State.setLogr_jpend (s : State) (r : Nat) (x : LogSt) : (s.setLogr r x).jpend = s.jpend := rfl
@[simp] theorem State.setLogr_jcom (s : State) (r : Nat) (x : LogSt) : (s.setLogr r x).jcom = s.jcom := rfl
@[simp] theorem State.setLogr_jseq (s : State) (r : Nat) (x : LogSt) : (s.setLogr r x).jseq = s.jseq := rfl
@[simp] theorem State.setLogr_hcache (s : State) (r : Nat) (x : LogSt) : (s.setLogr r x).hcache = s.hcache := rfl
@[simp] theorem State.setLogr_rrLast (s : State) (r : Nat) (x : LogSt) : (s.setLogr r x).rrLast = s.rrLast := rfl
@[simp] theorem State.setLogr_ckptDone (s : State) (r : Nat) (x : LogSt) : (s.setLogr r x).ckptDone = s.ckptDone := rfl
@[simp] theorem State.setLogr_logMap (s : State) (r : Nat) (x : LogSt) : (s.setLogr r x).logMap = s.logMap := rfl
@[simp] theorem State.setLogr_rdata (s : State) (r : Nat) (x : LogSt) : (s.setLogr r x).rdata = s.rdata := rfl
@[simp] theorem State.setLogr_free (s : State) (r : Nat) (x : LogSt) : (s.setLogr r x).free = s.free := rfl
@[simp] theorem State.setLogr_blockCtr (s : State) (r : Nat) (x : LogSt) : (s.setLogr r x).blockCtr = s.blockCtr := rfl
@[simp] theorem State.setLogr_pending (s : State) (r : Nat) (x : LogSt) : (s.setLogr r x).pending = s.pending := rfl
@[simp] theorem State.setLogr_rd (s : State) (r : Nat) (x : LogSt) (j : Nat) : rd (s.setLogr r x) j = rd s j := rfl
@[simp] theorem State.setLogr_get (s : State) (r : Nat) (x : LogSt) (g : FldRef) : State.get (s.setLogr r x) g = s.get g := rfl

@[simp] theorem State.modLink_regs (s : State) (x : Nat) (f : LinkSt → LinkSt) : (s.modLink x f).regs = s.regs := rfl
@[simp] theorem State.modLink_rsh (s : State) (x : Nat) (f : LinkSt → LinkSt) : (s.modLink x f).rsh = s.rsh := rfl
@[simp] theorem State.modLink_wsh (s : State) (x : Nat) (f : LinkSt → LinkSt) : (s.modLink x f).wsh = s.wsh := rfl
@[simp] theorem State.modLink_qmem (s : State) (x : Nat) (f : LinkSt → LinkSt) : (s.modLink x f).qmem = s.qmem := rfl
@[simp] theorem State.modLink_flash (s : State) (x : Nat) (f : LinkSt → LinkSt) : (s.modLink x f).flash = s.flash := rfl
@[simp] theorem State.modLink_otp (s : State) (x : Nat) (f : LinkSt → LinkSt) : (s.modLink x f).otp = s.otp := rfl
@[simp] theorem State.modLink_queues (s : State) (x : Nat) (f : LinkSt → LinkSt) : (s.modLink x f).queues = s.queues := rfl
@[simp] theorem State.modLink_pops (s : State) (x : Nat) (f : LinkSt → LinkSt) : (s.modLink x f).pops = s.pops := rfl
@[simp] theorem State.modLink_ctxs (s : State) (x : Nat) (f : LinkSt → LinkSt) : (s.modLink x f).ctxs = s.ctxs := rfl
@[simp] theorem State.modLink_engs (s : State) (x : Nat) (f : LinkSt → LinkSt) : (s.modLink x f).engs = s.engs := rfl
@[simp] theorem State.modLink_cans (s : State) (x : Nat) (f : LinkSt → LinkSt) : (s.modLink x f).cans = s.cans := rfl
@[simp] theorem State.modLink_cvs (s : State) (x : Nat) (f : LinkSt → LinkSt) : (s.modLink x f).cvs = s.cvs := rfl
@[simp] theorem State.modLink_tiles (s : State) (x : Nat) (f : LinkSt → LinkSt) : (s.modLink x f).tiles = s.tiles := rfl
@[simp] theorem State.modLink_chans (s : State) (x : Nat) (f : LinkSt → LinkSt) : (s.modLink x f).chans = s.chans := rfl
@[simp] theorem State.modLink_chains (s : State) (x : Nat) (f : LinkSt → LinkSt) : (s.modLink x f).chains = s.chains := rfl
@[simp] theorem State.modLink_dips (s : State) (x : Nat) (f : LinkSt → LinkSt) : (s.modLink x f).dips = s.dips := rfl
@[simp] theorem State.modLink_tu (s : State) (x : Nat) (f : LinkSt → LinkSt) : (s.modLink x f).tu = s.tu := rfl
@[simp] theorem State.modLink_sv (s : State) (x : Nat) (f : LinkSt → LinkSt) : (s.modLink x f).sv = s.sv := rfl
@[simp] theorem State.modLink_ca (s : State) (x : Nat) (f : LinkSt → LinkSt) : (s.modLink x f).ca = s.ca := rfl
@[simp] theorem State.modLink_pw (s : State) (x : Nat) (f : LinkSt → LinkSt) : (s.modLink x f).pw = s.pw := rfl
@[simp] theorem State.modLink_s0 (s : State) (x : Nat) (f : LinkSt → LinkSt) : (s.modLink x f).s0 = s.s0 := rfl
@[simp] theorem State.modLink_sp1 (s : State) (x : Nat) (f : LinkSt → LinkSt) : (s.modLink x f).sp1 = s.sp1 := rfl
@[simp] theorem State.modLink_sp2 (s : State) (x : Nat) (f : LinkSt → LinkSt) : (s.modLink x f).sp2 = s.sp2 := rfl
@[simp] theorem State.modLink_bt (s : State) (x : Nat) (f : LinkSt → LinkSt) : (s.modLink x f).bt = s.bt := rfl
@[simp] theorem State.modLink_late (s : State) (x : Nat) (f : LinkSt → LinkSt) : (s.modLink x f).late = s.late := rfl
@[simp] theorem State.modLink_ltrigs (s : State) (x : Nat) (f : LinkSt → LinkSt) : (s.modLink x f).ltrigs = s.ltrigs := rfl
@[simp] theorem State.modLink_jpend (s : State) (x : Nat) (f : LinkSt → LinkSt) : (s.modLink x f).jpend = s.jpend := rfl
@[simp] theorem State.modLink_jcom (s : State) (x : Nat) (f : LinkSt → LinkSt) : (s.modLink x f).jcom = s.jcom := rfl
@[simp] theorem State.modLink_jseq (s : State) (x : Nat) (f : LinkSt → LinkSt) : (s.modLink x f).jseq = s.jseq := rfl
@[simp] theorem State.modLink_hcache (s : State) (x : Nat) (f : LinkSt → LinkSt) : (s.modLink x f).hcache = s.hcache := rfl
@[simp] theorem State.modLink_rrLast (s : State) (x : Nat) (f : LinkSt → LinkSt) : (s.modLink x f).rrLast = s.rrLast := rfl
@[simp] theorem State.modLink_ckptDone (s : State) (x : Nat) (f : LinkSt → LinkSt) : (s.modLink x f).ckptDone = s.ckptDone := rfl
@[simp] theorem State.modLink_logs (s : State) (x : Nat) (f : LinkSt → LinkSt) : (s.modLink x f).logs = s.logs := rfl
@[simp] theorem State.modLink_logMap (s : State) (x : Nat) (f : LinkSt → LinkSt) : (s.modLink x f).logMap = s.logMap := rfl
@[simp] theorem State.modLink_rdata (s : State) (x : Nat) (f : LinkSt → LinkSt) : (s.modLink x f).rdata = s.rdata := rfl
@[simp] theorem State.modLink_free (s : State) (x : Nat) (f : LinkSt → LinkSt) : (s.modLink x f).free = s.free := rfl
@[simp] theorem State.modLink_blockCtr (s : State) (x : Nat) (f : LinkSt → LinkSt) : (s.modLink x f).blockCtr = s.blockCtr := rfl
@[simp] theorem State.modLink_pending (s : State) (x : Nat) (f : LinkSt → LinkSt) : (s.modLink x f).pending = s.pending := rfl
@[simp] theorem State.modLink_rd (s : State) (x : Nat) (f : LinkSt → LinkSt) (j : Nat) : rd (s.modLink x f) j = rd s j := rfl
@[simp] theorem State.modLink_get (s : State) (x : Nat) (f : LinkSt → LinkSt) (g : FldRef) : State.get (s.modLink x f) g = s.get g := rfl

@[simp] theorem State.setDip_regs (s : State) (b : Nat) (x : DipBank) : (s.setDip b x).regs = s.regs := rfl
@[simp] theorem State.setDip_rsh (s : State) (b : Nat) (x : DipBank) : (s.setDip b x).rsh = s.rsh := rfl
@[simp] theorem State.setDip_wsh (s : State) (b : Nat) (x : DipBank) : (s.setDip b x).wsh = s.wsh := rfl
@[simp] theorem State.setDip_qmem (s : State) (b : Nat) (x : DipBank) : (s.setDip b x).qmem = s.qmem := rfl
@[simp] theorem State.setDip_flash (s : State) (b : Nat) (x : DipBank) : (s.setDip b x).flash = s.flash := rfl
@[simp] theorem State.setDip_otp (s : State) (b : Nat) (x : DipBank) : (s.setDip b x).otp = s.otp := rfl
@[simp] theorem State.setDip_queues (s : State) (b : Nat) (x : DipBank) : (s.setDip b x).queues = s.queues := rfl
@[simp] theorem State.setDip_pops (s : State) (b : Nat) (x : DipBank) : (s.setDip b x).pops = s.pops := rfl
@[simp] theorem State.setDip_ctxs (s : State) (b : Nat) (x : DipBank) : (s.setDip b x).ctxs = s.ctxs := rfl
@[simp] theorem State.setDip_engs (s : State) (b : Nat) (x : DipBank) : (s.setDip b x).engs = s.engs := rfl
@[simp] theorem State.setDip_cans (s : State) (b : Nat) (x : DipBank) : (s.setDip b x).cans = s.cans := rfl
@[simp] theorem State.setDip_cvs (s : State) (b : Nat) (x : DipBank) : (s.setDip b x).cvs = s.cvs := rfl
@[simp] theorem State.setDip_tiles (s : State) (b : Nat) (x : DipBank) : (s.setDip b x).tiles = s.tiles := rfl
@[simp] theorem State.setDip_chans (s : State) (b : Nat) (x : DipBank) : (s.setDip b x).chans = s.chans := rfl
@[simp] theorem State.setDip_chains (s : State) (b : Nat) (x : DipBank) : (s.setDip b x).chains = s.chains := rfl
@[simp] theorem State.setDip_tu (s : State) (b : Nat) (x : DipBank) : (s.setDip b x).tu = s.tu := rfl
@[simp] theorem State.setDip_sv (s : State) (b : Nat) (x : DipBank) : (s.setDip b x).sv = s.sv := rfl
@[simp] theorem State.setDip_ca (s : State) (b : Nat) (x : DipBank) : (s.setDip b x).ca = s.ca := rfl
@[simp] theorem State.setDip_pw (s : State) (b : Nat) (x : DipBank) : (s.setDip b x).pw = s.pw := rfl
@[simp] theorem State.setDip_s0 (s : State) (b : Nat) (x : DipBank) : (s.setDip b x).s0 = s.s0 := rfl
@[simp] theorem State.setDip_sp1 (s : State) (b : Nat) (x : DipBank) : (s.setDip b x).sp1 = s.sp1 := rfl
@[simp] theorem State.setDip_sp2 (s : State) (b : Nat) (x : DipBank) : (s.setDip b x).sp2 = s.sp2 := rfl
@[simp] theorem State.setDip_csn (s : State) (b : Nat) (x : DipBank) : (s.setDip b x).csn = s.csn := rfl
@[simp] theorem State.setDip_bt (s : State) (b : Nat) (x : DipBank) : (s.setDip b x).bt = s.bt := rfl
@[simp] theorem State.setDip_late (s : State) (b : Nat) (x : DipBank) : (s.setDip b x).late = s.late := rfl
@[simp] theorem State.setDip_ltrigs (s : State) (b : Nat) (x : DipBank) : (s.setDip b x).ltrigs = s.ltrigs := rfl
@[simp] theorem State.setDip_jpend (s : State) (b : Nat) (x : DipBank) : (s.setDip b x).jpend = s.jpend := rfl
@[simp] theorem State.setDip_jcom (s : State) (b : Nat) (x : DipBank) : (s.setDip b x).jcom = s.jcom := rfl
@[simp] theorem State.setDip_jseq (s : State) (b : Nat) (x : DipBank) : (s.setDip b x).jseq = s.jseq := rfl
@[simp] theorem State.setDip_hcache (s : State) (b : Nat) (x : DipBank) : (s.setDip b x).hcache = s.hcache := rfl
@[simp] theorem State.setDip_rrLast (s : State) (b : Nat) (x : DipBank) : (s.setDip b x).rrLast = s.rrLast := rfl
@[simp] theorem State.setDip_ckptDone (s : State) (b : Nat) (x : DipBank) : (s.setDip b x).ckptDone = s.ckptDone := rfl
@[simp] theorem State.setDip_logs (s : State) (b : Nat) (x : DipBank) : (s.setDip b x).logs = s.logs := rfl
@[simp] theorem State.setDip_logMap (s : State) (b : Nat) (x : DipBank) : (s.setDip b x).logMap = s.logMap := rfl
@[simp] theorem State.setDip_rdata (s : State) (b : Nat) (x : DipBank) : (s.setDip b x).rdata = s.rdata := rfl
@[simp] theorem State.setDip_free (s : State) (b : Nat) (x : DipBank) : (s.setDip b x).free = s.free := rfl
@[simp] theorem State.setDip_blockCtr (s : State) (b : Nat) (x : DipBank) : (s.setDip b x).blockCtr = s.blockCtr := rfl
@[simp] theorem State.setDip_pending (s : State) (b : Nat) (x : DipBank) : (s.setDip b x).pending = s.pending := rfl
@[simp] theorem State.setDip_rd (s : State) (b : Nat) (x : DipBank) (j : Nat) : rd (s.setDip b x) j = rd s j := rfl
@[simp] theorem State.setDip_get (s : State) (b : Nat) (x : DipBank) (g : FldRef) : State.get (s.setDip b x) g = s.get g := rfl

@[simp] theorem State.setWsh_regs (s : State) (r : Nat) (x : WShadow) : (s.setWsh r x).regs = s.regs := rfl
@[simp] theorem State.setWsh_rsh (s : State) (r : Nat) (x : WShadow) : (s.setWsh r x).rsh = s.rsh := rfl
@[simp] theorem State.setWsh_qmem (s : State) (r : Nat) (x : WShadow) : (s.setWsh r x).qmem = s.qmem := rfl
@[simp] theorem State.setWsh_flash (s : State) (r : Nat) (x : WShadow) : (s.setWsh r x).flash = s.flash := rfl
@[simp] theorem State.setWsh_otp (s : State) (r : Nat) (x : WShadow) : (s.setWsh r x).otp = s.otp := rfl
@[simp] theorem State.setWsh_queues (s : State) (r : Nat) (x : WShadow) : (s.setWsh r x).queues = s.queues := rfl
@[simp] theorem State.setWsh_pops (s : State) (r : Nat) (x : WShadow) : (s.setWsh r x).pops = s.pops := rfl
@[simp] theorem State.setWsh_ctxs (s : State) (r : Nat) (x : WShadow) : (s.setWsh r x).ctxs = s.ctxs := rfl
@[simp] theorem State.setWsh_engs (s : State) (r : Nat) (x : WShadow) : (s.setWsh r x).engs = s.engs := rfl
@[simp] theorem State.setWsh_cans (s : State) (r : Nat) (x : WShadow) : (s.setWsh r x).cans = s.cans := rfl
@[simp] theorem State.setWsh_cvs (s : State) (r : Nat) (x : WShadow) : (s.setWsh r x).cvs = s.cvs := rfl
@[simp] theorem State.setWsh_tiles (s : State) (r : Nat) (x : WShadow) : (s.setWsh r x).tiles = s.tiles := rfl
@[simp] theorem State.setWsh_chans (s : State) (r : Nat) (x : WShadow) : (s.setWsh r x).chans = s.chans := rfl
@[simp] theorem State.setWsh_chains (s : State) (r : Nat) (x : WShadow) : (s.setWsh r x).chains = s.chains := rfl
@[simp] theorem State.setWsh_dips (s : State) (r : Nat) (x : WShadow) : (s.setWsh r x).dips = s.dips := rfl
@[simp] theorem State.setWsh_tu (s : State) (r : Nat) (x : WShadow) : (s.setWsh r x).tu = s.tu := rfl
@[simp] theorem State.setWsh_sv (s : State) (r : Nat) (x : WShadow) : (s.setWsh r x).sv = s.sv := rfl
@[simp] theorem State.setWsh_ca (s : State) (r : Nat) (x : WShadow) : (s.setWsh r x).ca = s.ca := rfl
@[simp] theorem State.setWsh_pw (s : State) (r : Nat) (x : WShadow) : (s.setWsh r x).pw = s.pw := rfl
@[simp] theorem State.setWsh_s0 (s : State) (r : Nat) (x : WShadow) : (s.setWsh r x).s0 = s.s0 := rfl
@[simp] theorem State.setWsh_sp1 (s : State) (r : Nat) (x : WShadow) : (s.setWsh r x).sp1 = s.sp1 := rfl
@[simp] theorem State.setWsh_sp2 (s : State) (r : Nat) (x : WShadow) : (s.setWsh r x).sp2 = s.sp2 := rfl
@[simp] theorem State.setWsh_csn (s : State) (r : Nat) (x : WShadow) : (s.setWsh r x).csn = s.csn := rfl
@[simp] theorem State.setWsh_bt (s : State) (r : Nat) (x : WShadow) : (s.setWsh r x).bt = s.bt := rfl
@[simp] theorem State.setWsh_late (s : State) (r : Nat) (x : WShadow) : (s.setWsh r x).late = s.late := rfl
@[simp] theorem State.setWsh_ltrigs (s : State) (r : Nat) (x : WShadow) : (s.setWsh r x).ltrigs = s.ltrigs := rfl
@[simp] theorem State.setWsh_jpend (s : State) (r : Nat) (x : WShadow) : (s.setWsh r x).jpend = s.jpend := rfl
@[simp] theorem State.setWsh_jcom (s : State) (r : Nat) (x : WShadow) : (s.setWsh r x).jcom = s.jcom := rfl
@[simp] theorem State.setWsh_jseq (s : State) (r : Nat) (x : WShadow) : (s.setWsh r x).jseq = s.jseq := rfl
@[simp] theorem State.setWsh_hcache (s : State) (r : Nat) (x : WShadow) : (s.setWsh r x).hcache = s.hcache := rfl
@[simp] theorem State.setWsh_rrLast (s : State) (r : Nat) (x : WShadow) : (s.setWsh r x).rrLast = s.rrLast := rfl
@[simp] theorem State.setWsh_ckptDone (s : State) (r : Nat) (x : WShadow) : (s.setWsh r x).ckptDone = s.ckptDone := rfl
@[simp] theorem State.setWsh_logs (s : State) (r : Nat) (x : WShadow) : (s.setWsh r x).logs = s.logs := rfl
@[simp] theorem State.setWsh_logMap (s : State) (r : Nat) (x : WShadow) : (s.setWsh r x).logMap = s.logMap := rfl
@[simp] theorem State.setWsh_rdata (s : State) (r : Nat) (x : WShadow) : (s.setWsh r x).rdata = s.rdata := rfl
@[simp] theorem State.setWsh_free (s : State) (r : Nat) (x : WShadow) : (s.setWsh r x).free = s.free := rfl
@[simp] theorem State.setWsh_blockCtr (s : State) (r : Nat) (x : WShadow) : (s.setWsh r x).blockCtr = s.blockCtr := rfl
@[simp] theorem State.setWsh_pending (s : State) (r : Nat) (x : WShadow) : (s.setWsh r x).pending = s.pending := rfl
@[simp] theorem State.setWsh_rd (s : State) (r : Nat) (x : WShadow) (j : Nat) : rd (s.setWsh r x) j = rd s j := rfl
@[simp] theorem State.setWsh_get (s : State) (r : Nat) (x : WShadow) (g : FldRef) : State.get (s.setWsh r x) g = s.get g := rfl

end Sys2Proof.Machine
end

