-- ==== Sys2Proof/Laws/Regs.lean ====
section
/-! SUPPORT. The laws of registers and fields: what a write makes a register and a field read as. -/

namespace Sys2Proof.Machine

theorem rd_wr (a b : Nat) (w : Word) (s : State) : rd (wr a w s) b = if b = a then w else rd s b := by
  unfold rd wr
  by_cases h : b = a
  · subst h; simp
  · simp only [h, if_false]; exact kget_kset_ne _ _ _ _ _ _ h

@[simp] theorem rd_wr_same (a : Nat) (w : Word) (s : State) : rd (wr a w s) a = w := by simp [rd_wr]

theorem rd_wr_ne (a b : Nat) (w : Word) (s : State) (h : b ≠ a) : rd (wr a w s) b = rd s b := by simp [rd_wr, h]

theorem rd_congr {s t : State} (h : t.regs = s.regs) (a : Nat) : rd t a = rd s a := by simp [rd, h]

theorem get_congr {s t : State} (h : t.regs = s.regs) (f : FldRef) : t.get f = s.get f := by simp [State.get, rd, h]

/-- A field lies in its register. -/
def FldRef.ok (f : FldRef) : Prop := f.lo ≤ f.hi ∧ f.hi < 32

/-- Two fields share no bit. -/
def FldRef.apart (f g : FldRef) : Prop := f.a ≠ g.a ∨ f.hi < g.lo ∨ g.hi < f.lo

theorem rd_put (s : State) (f : FldRef) (v b : Nat) :
    rd (s.put f v) b = if b = f.a then setBits (rd s f.a) f.hi f.lo v else rd s b := rd_wr _ _ _ _

theorem rd_put_ne (s : State) (f : FldRef) (v b : Nat) (h : b ≠ f.a) : rd (s.put f v) b = rd s b := rd_wr_ne _ _ _ _ h

/-- A field reads as it was written. -/
theorem get_put (s : State) (f : FldRef) (v : Nat) (h : f.lo ≤ f.hi) (h' : f.hi < 32) :
    (s.put f v).get f = v % 2 ^ (f.hi + 1 - f.lo) := by
  unfold State.get State.put
  rw [rd_wr_same]; exact bits_setBits _ _ _ _ h h'

/-- A field that shares no bit with the one written reads as before. -/
theorem get_put_apart (s : State) (f g : FldRef) (v : Nat) (h : f.lo ≤ f.hi) (h' : g.hi < 32) (d : f.apart g) :
    (s.put f v).get g = s.get g := by
  unfold State.get State.put
  by_cases e : g.a = f.a
  · rw [e, rd_wr_same]
    refine bits_setBits_ne _ _ _ _ _ _ h h' ?_
    rcases d with d | d | d
    · exact absurd e.symm d
    · exact .inr d
    · exact .inl d
  · rw [rd_wr_ne _ _ _ _ e]

theorem get_put_ne (s : State) (f g : FldRef) (v : Nat) (e : g.a ≠ f.a) : (s.put f v).get g = s.get g := by
  unfold State.get; rw [rd_put_ne _ _ _ _ e]

theorem get_wr_ne (a : Nat) (w : Word) (s : State) (g : FldRef) (h : g.a ≠ a) : (wr a w s).get g = s.get g := by
  unfold State.get; rw [rd_wr_ne _ _ _ _ h]

theorem get_wr (w : Word) (s : State) (g : FldRef) : (wr g.a w s).get g = bits w g.hi g.lo := by
  unfold State.get; rw [rd_wr_same]

theorem get_lt (s : State) (f : FldRef) : s.get f < 2 ^ (f.hi + 1 - f.lo) := bits_lt _ _ _

/-- A saturating counter after a count. -/
theorem get_addSat (s : State) (f : FldRef) (k : Nat) (h : f.lo ≤ f.hi) (h' : f.hi < 32) :
    (s.addSat f k).get f = min (s.get f + k) f.max := by
  unfold State.addSat
  rw [get_put _ _ _ h h', Nat.mod_eq_of_lt]
  have : 0 < 2 ^ (f.hi + 1 - f.lo) := by positivity
  unfold FldRef.max; omega

theorem get_inc (s : State) (f : FldRef) (h : f.lo ≤ f.hi) (h' : f.hi < 32) :
    (s.inc f).get f = min (s.get f + 1) f.max := get_addSat s f 1 h h'

theorem get_incWrap (s : State) (f : FldRef) (h : f.lo ≤ f.hi) (h' : f.hi < 32) :
    (s.incWrap f).get f = (s.get f + 1) % 2 ^ (f.hi + 1 - f.lo) := get_put _ _ _ h h'

theorem get_set1 (s : State) (f : FldRef) (h : f.lo ≤ f.hi) (h' : f.hi < 32) : (s.set1 f).get f = 1 := by
  unfold State.set1
  rw [get_put _ _ _ h h', Nat.mod_eq_of_lt]
  calc 1 < 2 ^ 1 := by decide
    _ ≤ _ := Nat.pow_le_pow_right (by decide) (by omega)

theorem get_putB (s : State) (f : FldRef) (b : Bool) (h : f.lo ≤ f.hi) (h' : f.hi < 32) : (s.putB f b).get f = b2n b := by
  unfold State.putB
  rw [get_put _ _ _ h h', Nat.mod_eq_of_lt]
  calc b2n b < 2 ^ 1 := by cases b <;> decide
    _ ≤ _ := Nat.pow_le_pow_right (by decide) (by omega)

theorem is_set1 (s : State) (f : FldRef) (h : f.lo ≤ f.hi) (h' : f.hi < 32) : (s.set1 f).is f = true := by
  simp [State.is, get_set1 s f h h']

theorem rd_put64 (a v b : Nat) (s : State) :
    rd (s.put64 a v) b = if b = a + 4 then wd (v / 2 ^ 32) else if b = a then wd v else rd s b := by
  simp [State.put64, rd_wr]

theorem get64_put64 (s : State) (a v : Nat) : (s.put64 a v).get64 a = v % 2 ^ 64 := by
  simp only [State.get64, rd_put64, wd, if_true, if_neg (show ¬ a = a + 4 by omega), BitVec.toNat_ofNat]
  omega

/-- What holds of a state and is kept by each application holds after all of them. -/
theorem each_ind {β : Type} (P : State → Prop) (l : List β) (f : β → State → State) (s : State) (h : P s)
    (hf : ∀ x ∈ l, ∀ t, P t → P (f x t)) : P (s.each l f) := by
  unfold State.each
  induction l generalizing s with
  | nil => exact h
  | cons x l ih =>
    exact ih (f x s) (hf x (by simp) s h) (fun y hy => hf y (by simp [hy]))

@[simp] theorem each_nil {β : Type} (f : β → State → State) (s : State) : s.each [] f = s := rfl
@[simp] theorem each_cons {β : Type} (x : β) (l : List β) (f : β → State → State) (s : State) :
    s.each (x :: l) f = (f x s).each l f := rfl
@[simp] theorem when_true (s : State) (f : State → State) : s.when true f = f s := rfl
@[simp] theorem when_false (s : State) (f : State → State) : s.when false f = s := rfl

theorem when_ind (P : State → Prop) (s : State) (c : Bool) (f : State → State) (h : P s) (hf : P s → P (f s)) :
    P (s.when c f) := by
  cases c
  · exact h
  · exact hf h

end Sys2Proof.Machine
end

