-- ==== Sys2Proof/Laws/Access.lean ====
section
/-! SUPPORT. What a register write does under the locks, said once: applied whole, refused whole, or not served. -/

namespace Sys2Proof.Machine

theorem blend_zero (x y : Word) : blend 0 x y = x := by
  have e : (BitVec.ofNat 32 0 : Word) = 0#32 := rfl
  unfold blend
  rw [e, BitVec.and_zero, BitVec.or_zero]
  have : ~~~(0#32 : Word) = BitVec.allOnes 32 := by decide
  rw [this, BitVec.and_allOnes]

/-- A write that no lock touches is applied as it is. -/
theorem regWrite_admitted (r : Req) (a : Nat) (m : WMask) (w : Word) (f : Word → State → State) (s : State) (h : Admitted s r a m) :
    regWrite r a m w f s = f w s := by
  obtain ⟨h1, h2, h3⟩ := h
  have hl : lockedBits s r a m = 0 := by
    unfold lockedBits
    rw [h2]
    simp only [Bool.false_eq_true, if_false]
    split
    · next h => exact h3 h
    · rfl
  have hd : denied s r a m w = false := by
    unfold denied
    rw [h2, hl]
    simp
  have ho : lockedOut s r a m = false := by
    unfold lockedOut
    dsimp only
    rw [hl, Nat.zero_and]
    generalize m.rwl ||| m.rw ||| m.wo ||| m.w1c = all
    cases all <;> simp
  simp [regWrite, h1, hd, ho, countDenied, effWord, hl, blend_zero]

/-- A write that is not served does nothing. -/
theorem regWrite_unserved (r : Req) (a : Nat) (m : WMask) (w : Word) (f : Word → State → State) (s : State) (h : served s r a = false) :
    regWrite r a m w f s = s := by
  simp [regWrite, h]

/-- A write that S0_RO refuses whole does nothing but count. -/
theorem regWrite_readOnly (r : Req) (a : Nat) (m : WMask) (w : Word) (f : Word → State → State) (s : State) (h : served s r a = true)
    (h1 : s0ReadOnly s r = true) (h2 : s0Leaves a m = false) (h3 : lockedBits s r a m ≠ 0) :
    regWrite r a m w f s = s.inc .MOD_CFG_LOCK_DENY_CNT := by
  obtain ⟨hw, ha⟩ : m.w1c = 0 ∧ a ≠ Reg.MOD_WDOG := by simpa [s0Leaves] using h2
  have hb : lockedBits s r a m = m.rwl ||| m.rw ||| m.wo := by simp [lockedBits, h1, ha]
  have ho : lockedOut s r a m = true := by
    unfold lockedOut
    dsimp only
    rw [hb, hw, Nat.or_zero, Nat.and_self]
    rw [hb] at h3
    simpa using h3
  simp [regWrite, h, ho, denied, h1, h2, h3, countDenied, State.when]

end Sys2Proof.Machine
end

