-- ==== Sys2Proof/Laws/Instr.lean ====
section
/-! SUPPORT. What the engine's part of an instruction does (R340, R366, R367, R370): its frame, and the instruction's own effect after it. -/

namespace Sys2Proof.Machine

/-- Marking cache lines changes the hoist cache only. -/
theorem touchLines_eq (a n : Nat) (s : State) : ∃ h, touchLines a n s = { s with hcache := h } := by
  unfold touchLines
  split
  · exact ⟨s.hcache, rfl⟩
  · refine each_ind (fun t => ∃ h, t = { s with hcache := h }) _ cacheUse s ⟨s.hcache, rfl⟩ ?_
    rintro x _ _ ⟨h, rfl⟩
    exact ⟨_, rfl⟩

/-- Fetching and counting an instruction changes the hoist cache and the engine's counters only. -/
theorem begun_eq (e c op : Nat) (s : State) : ∃ h g, begun e c op s = { s with hcache := h, engs := g } := by
  obtain ⟨h, q⟩ := touchLines_eq (s.ctx c).pc 1 s
  exact ⟨h, _, by rw [begun, q]; rfl⟩

theorem begunX_eq (e c op : Nat) (s : State) : ∃ h g, begunX e c op s = { s with hcache := h, engs := g } := by
  obtain ⟨h, g, q⟩ := begun_eq e c op s
  obtain ⟨k, p⟩ := touchLines_eq (((s.ctx c).pc + 4) % 2 ^ 32) 1 (begun e c op s)
  exact ⟨k, g, by rw [begunX, p, q]⟩

section
variable (e c op i : Nat) (s : State)

@[simp] theorem begun_ctx : (begun e c op s).ctx i = s.ctx i := by obtain ⟨_, _, q⟩ := begun_eq e c op s; rw [q]; rfl
@[simp] theorem begunX_ctx : (begunX e c op s).ctx i = s.ctx i := by obtain ⟨_, _, q⟩ := begunX_eq e c op s; rw [q]; rfl
@[simp] theorem begun_regs : (begun e c op s).regs = s.regs := by obtain ⟨_, _, q⟩ := begun_eq e c op s; rw [q]
@[simp] theorem begunX_regs : (begunX e c op s).regs = s.regs := by obtain ⟨_, _, q⟩ := begunX_eq e c op s; rw [q]
@[simp] theorem begun_rd : rd (begun e c op s) i = rd s i := rd_congr (begun_regs e c op s) i
@[simp] theorem begunX_rd : rd (begunX e c op s) i = rd s i := rd_congr (begunX_regs e c op s) i
@[simp] theorem begun_get (f : FldRef) : (begun e c op s).get f = s.get f := get_congr (begun_regs e c op s) f
@[simp] theorem begunX_get (f : FldRef) : (begunX e c op s).get f = s.get f := get_congr (begunX_regs e c op s) f
@[simp] theorem begun_getV (j : Nat) : getV (begun e c op s) i j = getV s i j := begun_rd e c op _ s
@[simp] theorem begunX_getV (j : Nat) : getV (begunX e c op s) i j = getV s i j := begunX_rd e c op _ s
@[simp] theorem begun_op2s (h : HWord) : op2s (begun e c op s) i h = op2s s i h := by simp [op2s]
@[simp] theorem begunX_op2s (h : HWord) : op2s (begunX e c op s) i h = op2s s i h := by simp [op2s]
@[simp] theorem begun_op2z (h : HWord) : op2z (begun e c op s) i h = op2z s i h := by simp [op2z]
@[simp] theorem begunX_op2z (h : HWord) : op2z (begunX e c op s) i h = op2z s i h := by simp [op2z]
@[simp] theorem begun_now : now (begun e c op s) = now s := by obtain ⟨_, _, q⟩ := begun_eq e c op s; rw [q]; rfl
@[simp] theorem begunX_now : now (begunX e c op s) = now s := by obtain ⟨_, _, q⟩ := begunX_eq e c op s; rw [q]; rfl
@[simp] theorem begun_varBytes : varBytes (begun e c op s) i = varBytes s i := by simp [varBytes]
@[simp] theorem begun_curBytes : curBytes (begun e c op s) i = curBytes s i := by simp [curBytes]
@[simp] theorem begun_timerRuns (j : Nat) : timerRuns (begun e c op s) i j = timerRuns s i j := by simp [timerRuns]
@[simp] theorem begun_offOf (a : Nat) : offOf (begun e c op s) i a = offOf s i a := by simp [offOf]
@[simp] theorem begunX_offOf (a : Nat) : offOf (begunX e c op s) i a = offOf s i a := by simp [offOf]
@[simp] theorem begunX_regAddr (h : HWord) (b : Bool) : regAddr (begunX e c op s) i h b = regAddr s i h b := by simp [regAddr]
@[simp] theorem begun_regAddr (h : HWord) (b : Bool) : regAddr (begun e c op s) i h b = regAddr s i h b := by simp [regAddr]

end

/-- An instruction without an extension word: PROG_ERR where X must be set, else its own effect on the state `begun`. -/
theorem runInstr_atWord (op : Nat) (x : XRule) (e c : Nat) (w : Word) (f : Nat → HWord → State → State) (s : State)
    (h : atWord s e c op w = true) :
    runInstr op x e f s = if x.ok false then f c (fieldsOf w 0#32) (begun e c op s) else progErr c (s.ctx c).pc (begun e c op s) := by
  simp only [atWord, Bool.and_eq_true, beq_iff_eq, decide_eq_true_eq, Bool.not_eq_true'] at h
  obtain ⟨⟨⟨⟨h1, h2⟩, h3⟩, h4⟩, h5⟩ := h
  simp [runInstr, h1, h2, h3, h4, h5, withWords, begun]
  cases x <;> simp [XRule.ok]

/-- An instruction with an extension word: PROG_ERR where X must be clear, else its own effect on the state `begunX`. -/
theorem runInstr_atWords (op : Nat) (r : XRule) (e c : Nat) (w x : Word) (f : Nat → HWord → State → State) (s : State)
    (h : atWords s e c op w x = true) :
    runInstr op r e f s = if r.ok true then f c (fieldsOf w x) (begunX e c op s) else progErr c (s.ctx c).pc (begun e c op s) := by
  simp only [atWords, Bool.and_eq_true, beq_iff_eq, decide_eq_true_eq] at h
  obtain ⟨⟨⟨⟨⟨h1, h2⟩, h3⟩, h4⟩, h5⟩, h6⟩ := h
  simp only [begun, Nat.reducePow] at h6
  simp [runInstr, h1, h2, h3, h4, h5, withWords, begun, begunX]
  cases r <;> simp [XRule.ok, h6]

end Sys2Proof.Machine
end

