-- ==== Sys2Proof/Laws/Frames.lean ====
section
/-! SUPPORT. Registers that a queue's pushes, triggers and the end of a run leave alone (R238, R336, R357). -/

namespace Sys2Proof.Machine

/-- A register that no push into a queue writes: it is neither a queue register nor `MOD_IRQ`. -/
def noQueueReg (a : Nat) : Prop := (a < 0x30000 ∨ 0x32000 ≤ a) ∧ a ≠ Reg.MOD_IRQ

theorem rd_qput {s : State} {a q : Nat} (f : FldRef) (v : Nat) (h : noQueueReg a) (hq : q < 128) (k : Nat) (hf : f.a = 0x30000 + k + 0x40 * q) (hk : k < 0x40) :
    rd (s.put f v) a = rd s a := by
  apply rd_put_ne
  rw [hf]
  obtain ⟨h1 | h1, -⟩ := h <;> omega

theorem qLevelChanged_rd {a q : Nat} (h : noQueueReg a) (hq : q < 128) (s : State) : rd (qLevelChanged q s) a = rd s a := by
  have p : ∀ t : State, ∀ v, rd (t.put (.Q_PEAK_PEAK q) v) a = rd t a := fun t v => rd_qput _ _ h hq 0x10 rfl (by decide)
  unfold qLevelChanged
  simp only []
  split_ifs
  · exact (rd_congr (State.setQueue_regs _ _ _) a).trans (p s _)
  · unfold raiseIrq State.set1
    rw [rd_put_ne _ _ _ _ h.2, rd_qput _ _ h hq 0x14 rfl (by decide)]
    exact (rd_congr (State.setQueue_regs _ _ _) a).trans (p s _)
  · exact p s _

theorem qStore_rd {a q : Nat} (h : noQueueReg a) (hq : q < 128) (l : List QEnt) (s : State) : rd (qStore q l s) a = rd s a := by
  unfold qStore
  rw [qLevelChanged_rd h hq]
  exact rd_congr rfl a

theorem putWords_regs (q : Nat) (l : List Word) : ∀ (pos : Nat) (s : State), (putWords q pos l s).regs = s.regs := by
  induction l with
  | nil => intro _ _; rfl
  | cons w l ih => intro pos s; rw [putWords, ih]

theorem placeEnts_regs (q : Nat) (es : List (List Word)) :
    ∀ (no pos : Nat) (b : Bool) (s : State), (placeEnts q no pos b es s).2.regs = s.regs := by
  induction es with
  | nil => intro _ _ _ _; rfl
  | cons w es ih => intro no pos b s; rw [placeEnts]; exact (ih _ _ _ _).trans (putWords_regs _ _ _ _)

theorem countDisplaced_rd {a q : Nat} (h : noQueueReg a) (hq : q < 128) (d : List QEnt) (s : State) : rd (countDisplaced q d s) a = rd s a := by
  unfold countDisplaced State.addSat
  simp only []
  rw [rd_qput _ _ h hq 0x18 rfl (by decide), rd_qput _ _ h hq 0x1C rfl (by decide)]
  exact rd_congr rfl a

theorem qPush1_rd {a : Nat} (h : noQueueReg a) (q : Nat) (p : Prod) (es : List (List Word)) (s : State) : rd (qPush1 q p es s) a = rd s a := by
  by_cases on : qOn s q = true
  swap
  · simp [qPush1, on]
  have hq : q < 128 := by simp only [qOn, Bool.and_eq_true, decide_eq_true_eq] at on; exact on.1.1
  unfold qPush1
  simp only []
  split_ifs
  · rfl
  · exact rd_qput _ _ h hq 0x14 rfl (by decide)
  all_goals
    split
    · exact (rd_qput _ _ h hq 0x14 rfl (by decide)).trans (rd_congr rfl a)
    · rename_i l d _
      rw [qStore_rd h hq]
      refine Eq.trans ?_ (countDisplaced_rd h hq d s)
      exact rd_congr (placeEnts_regs _ _ _ _ _ _) a

/-- A push changes queue registers and `MOD_IRQ` only. -/
theorem qPush_rd {a : Nat} (h : noQueueReg a) (q : Nat) (p : Prod) (es : List (List Word)) (s : State) : rd (qPush q p es s) a = rd s a :=
  each_ind (fun t => rd t a = rd s a) _ _ _ rfl fun u _ t ht => (qPush1_rd h q p u t).trans ht

theorem qPushDrop_rd {a : Nat} (h : noQueueReg a) (q : Nat) (p : Prod) (es : List (List Word)) (s : State) : rd (qPushDrop q p es s) a = rd s a := by
  unfold qPushDrop
  simp only []
  split_ifs with c
  · have hq : q < 128 := by have := c.2.1; simp only [qOn, Bool.and_eq_true, decide_eq_true_eq] at this; exact this.1.1
    exact (rd_qput _ _ h hq 0x14 rfl (by decide)).trans (qPush_rd h q p es s)
  · exact qPush_rd h q p es s

theorem qPushFixed_rd {a : Nat} (h : noQueueReg a) (b q : Nat) (p : Prod) (es : List (List Word)) (s : State) : rd (qPushFixed b q p es s) a = rd s a := by
  unfold qPushFixed
  split_ifs
  · exact qPushDrop_rd h q p es s
  · rfl

theorem pushCtxRecord_rd {a : Nat} (h : noQueueReg a) (w : List Word) (irq : Bool) (s : State) : rd (pushCtxRecord w irq s) a = rd s a := by
  unfold pushCtxRecord
  simp only []
  split_ifs
  · unfold raiseIrq
    rw [rd_put_ne _ _ _ _ h.2, qPushFixed_rd h]
  · exact qPushFixed_rd h _ _ _ _ s

theorem writeCkpt_lastCode (c d : Nat) (r : Ckpt) (s : State) : (writeCkpt d r s).get (.CTX_STAT_LAST_CODE c) = s.get (.CTX_STAT_LAST_CODE c) := by
  have n : Reg.CTX_STAT c ≠ Reg.CTX_CKPT d := by unfold Reg.CTX_STAT Reg.CTX_CKPT; omega
  have h : ∀ t : State, (showCkpt d r t).get (.CTX_STAT_LAST_CODE c) = t.get (.CTX_STAT_LAST_CODE c) := by
    intro t
    unfold showCkpt State.putB
    rw [get_put_ne _ _ _ _ n, get_put_ne _ _ _ _ n, get_put_ne _ _ _ _ n]
  unfold writeCkpt
  simp only []
  split
  · exact get_congr rfl _
  · rw [h]; exact get_congr rfl _

theorem startRun_lastCode (c d : Nat) (r : TrigRec) (s : State) : (startRun d r s).get (.CTX_STAT_LAST_CODE c) = s.get (.CTX_STAT_LAST_CODE c) := by
  have n : ∀ i, i < 4 → Reg.CTX_STAT c ≠ Reg.CTX_TINFO d i := by unfold Reg.CTX_STAT Reg.CTX_TINFO; omega
  have n' : Reg.CTX_STAT c ≠ Reg.CTX_RUNS d := by unfold Reg.CTX_STAT Reg.CTX_RUNS; omega
  unfold startRun
  simp only []
  rw [writeCkpt_lastCode, get_congr (State.modCtx_regs _ _ _)]
  unfold putTinfo
  rw [get_wr_ne _ _ _ _ (n 3 (by decide)), get_wr_ne _ _ _ _ (n 2 (by decide)), get_wr_ne _ _ _ _ (n 1 (by decide)), get_wr_ne _ _ _ _ (n 0 (by decide))]
  unfold State.incWrap
  rw [get_put_ne _ _ _ _ n']
  unfold ctxState
  iterate 5 rw [get_put_apart _ _ _ _ (by simp) (by simp) (by simp [FldRef.apart])]

theorem trigLost_lastCode (c d : Nat) (s : State) : (trigLost d s).get (.CTX_STAT_LAST_CODE c) = s.get (.CTX_STAT_LAST_CODE c) := by
  have n : Reg.CTX_STAT c ≠ Reg.CTX_CNT d := by unfold Reg.CTX_STAT Reg.CTX_CNT; omega
  unfold trigLost State.inc State.addSat
  rw [get_congr (State.modCtx_regs _ _ _), get_put_ne _ _ _ _ n]

theorem acceptTrig_lastCode (c d : Nat) (r : TrigRec) (k : Bool) (s : State) :
    (acceptTrig d r k s).get (.CTX_STAT_LAST_CODE c) = s.get (.CTX_STAT_LAST_CODE c) := by
  unfold acceptTrig
  split_ifs
  · exact trigLost_lastCode c d s
  · exact trigLost_lastCode c d s
  · rw [get_congr (State.modCtx_regs _ _ _)]
    exact get_put_apart _ _ _ _ (by simp) (by simp) (by simp [FldRef.apart])
  · exact startRun_lastCode c d r s
  · rfl

/-- Triggers change no context's last code. -/
theorem fireTrigs_lastCode (c : Nat) (l : List Trig) (s : State) : (fireTrigs l s).get (.CTX_STAT_LAST_CODE c) = s.get (.CTX_STAT_LAST_CODE c) := by
  unfold fireTrigs
  refine each_ind (fun t => t.get (.CTX_STAT_LAST_CODE c) = s.get (.CTX_STAT_LAST_CODE c)) _ _ _ ?_ ?_
  · unfold noteTrigs; split <;> exact get_congr rfl _
  · intro d _ t ht
    split
    · rw [acceptTrig_lastCode, ht]
    · exact ht

/-- The end of a run shows its code (R357, R358), whatever runs start then. -/
theorem endRun_lastCode (c code : Nat) (v : Word) (s : State) : (endRun c code v s).get (.CTX_STAT_LAST_CODE c) = code % 256 := by
  have n : noQueueReg (Reg.CTX_STAT c) := by unfold noQueueReg Reg.CTX_STAT Reg.MOD_IRQ; omega
  have p : ∀ (t : State) w irq, (pushCtxRecord w irq t).get (.CTX_STAT_LAST_CODE c) = t.get (.CTX_STAT_LAST_CODE c) := by
    intro t w irq
    unfold State.get
    rw [pushCtxRecord_rd n]
  have q : ∀ (t : State) b w irq, (t.when b (pushCtxRecord w irq)).get (.CTX_STAT_LAST_CODE c) = t.get (.CTX_STAT_LAST_CODE c) := by
    intro t b w irq
    cases b
    · rfl
    · exact p t w irq
  have r : ∀ t : State, (t.put (.CTX_STAT_LAST_CODE c) code).get (.CTX_STAT_LAST_CODE c) = code % 256 := by
    intro t
    rw [get_put _ _ _ (by simp) (by simp)]; rfl
  have m : ∀ t : State, (match (t.ctx c).pend with
      | some p => if t.is (.CTX_STAT_PEND c) then startRun c p t else t
      | none => t).get (.CTX_STAT_LAST_CODE c) = t.get (.CTX_STAT_LAST_CODE c) := by
    intro t
    split
    · rename_i p _
      by_cases b : t.is (.CTX_STAT_PEND c) = true
      · rw [if_pos b, startRun_lastCode]
      · rw [if_neg b]
    · rfl
  unfold endRun
  rw [fireTrigs_lastCode]
  refine (m _).trans ?_
  rw [get_congr (State.modCtx_regs _ _ _), q, r]

end Sys2Proof.Machine
end

