-- ==== Sys2Proof/Laws/Keeps.lean ====
section
/-! SUPPORT. What every operation of the module keeps: the queue of commands, canonical memories, set OTP bits and sound roles. The relation
`Keeps`, and its laws for the shared operations. -/

namespace Sys2Proof.Machine

/-- The fields of the supervision that tell the roles. -/
def SvSt.roleFields (v : SvSt) : Role × Role × Option (Dom × Nat) × Bool := (v.roleA, v.roleB, v.tkoFrom, v.ready)

/-- The fields of the power record that tell the power state. -/
def PwSt.powerFields (p : PwSt) : Bool × Nat := (p.on, p.power)

/-- From `s` to `t` the queue of commands stays, canonical memories stay canonical, no OTP bit clears, sound roles stay sound, and what `eff` does not name
stays as it is. -/
structure Keeps (eff : Eff) (s t : State) : Prop where
  pending : t.pending = s.pending
  mem : s.memWf = true → t.memWf = true
  otp : ∀ a, otpByte s a ||| otpByte t a = otpByte t a
  roles : s.rolesOk → t.rolesOk
  otpSame : eff.otp = false → t.otp = s.otp
  flashSame : eff.flash = false → t.flash = s.flash
  qmemSame : eff.qmem = false → t.qmem = s.qmem
  rolesSame : eff.roles = false → t.sv.roleFields = s.sv.roleFields
  powerSame : eff.power = false → t.pw.powerFields = s.pw.powerFields

variable {eff : Eff}

theorem Keeps.refl (s : State) : Keeps eff s s :=
  ⟨rfl, id, fun a => by simp, id, fun _ => rfl, fun _ => rfl, fun _ => rfl, fun _ => rfl, fun _ => rfl⟩

theorem Keeps.trans {s t u : State} (h : Keeps eff s t) (k : Keeps eff t u) : Keeps eff s u :=
  ⟨k.pending.trans h.pending, fun m => k.mem (h.mem m),
    fun a => by rw [← k.otp a, ← BitVec.or_assoc, h.otp a], fun r => k.roles (h.roles r), fun x => (k.otpSame x).trans (h.otpSame x),
    fun x => (k.flashSame x).trans (h.flashSame x), fun x => (k.qmemSame x).trans (h.qmemSame x), fun x => (k.rolesSame x).trans (h.rolesSame x),
    fun x => (k.powerSame x).trans (h.powerSame x)⟩

theorem State.memWf_iff (s : State) : s.memWf = true ↔
    (kwf resetWord s.regs = true ∧ kwf (fun _ => (0 : Word)) s.qmem = true ∧ kwf (fun _ => (0xFF : Byte)) s.flash = true ∧
      kwf otpBlank s.otp = true ∧ (∀ j ∈ s.jpend, j.memWf = true) ∧ ∀ j, s.jcom = some j → j.memWf = true) := by
  simp only [State.memWf, Memory.wf, Bool.and_eq_true, List.all_eq_true, and_assoc]
  cases s.jcom <;> simp

/-- An update of fields that hold no memory, no role and no command. -/
theorem Keeps.fields {s t : State} (h : Keeps eff s t) {x1 : KMap RShadow} {x2 : KMap WShadow} {x6 : KMap QSt} {x7 : KMap PSh} {x8 : KMap CtxSt}
    {x9 : KMap EngSt} {x10 : KMap CanSt} {x11 : KMap CvSt} {x12 : KMap TileSt} {x13 : KMap ChSt} {x14 : KMap ChainSt} {x15 : KMap DipBank} {x16
    : TuSt} {x18 : CaSt} {x20 : S0St} {x21 : Sp1St} {x22 : Sp2St} {x23 : CsnSt} {x24 : BtSt} {x25 : List LateEnt} {x26 : List (List Trig)}
    {x29 : Nat} {x30 : KMap (List Nat)} {x31 : KMap Nat} {x32 : KMap Nat} {x33 : KMap LogSt} {x34 : KMap Nat} {x35 : Word} {x36 : Nat} {x37 :
    Nat} :
    Keeps eff s
      ⟨t.regs, x1, x2, t.qmem, t.flash, t.otp, x6, x7, x8, x9, x10, x11, x12, x13, x14, x15, x16, t.sv, x18, t.pw, x20, x21, x22, x23, x24, x25,
      x26, t.jpend, t.jcom, x29, x30, x31, x32, x33, x34, x35, x36, x37, t.pending⟩ :=
  ⟨h.pending, h.mem, h.otp, h.roles, h.otpSame, h.flashSame, h.qmemSame, h.rolesSame, h.powerSame⟩

/-- No snapshot. -/
theorem noJ : (∀ j ∈ ([] : List JSnap), j.memWf = true) ∧ ∀ j, (none : Option JSnap) = some j → j.memWf = true := by simp

/-- A state put together afresh, with the commands and OTP kept. -/
theorem Keeps.rebuilt {s t : State} (h : Keeps eff s t) {x0 : KMap Word} {x1 : KMap RShadow} {x2 : KMap WShadow} {x3 : KMap Word} {x4 : KMap
    Byte} {x6 : KMap QSt} {x7 : KMap PSh} {x8 : KMap CtxSt} {x9 : KMap EngSt} {x10 : KMap CanSt} {x11 : KMap CvSt} {x12 : KMap TileSt} {x13 :
    KMap ChSt} {x14 : KMap ChainSt} {x15 : KMap DipBank} {x16 : TuSt} {x17 : SvSt} {x18 : CaSt} {x19 : PwSt} {x20 : S0St} {x21 : Sp1St} {x22 :
    Sp2St} {x23 : CsnSt} {x24 : BtSt} {x25 : List LateEnt} {x26 : List (List Trig)} {x27 : List JSnap} {x28 : Option JSnap} {x29 : Nat} {x30 : KMap
    (List Nat)} {x31 : KMap Nat} {x32 : KMap Nat} {x33 : KMap LogSt} {x34 : KMap Nat} {x35 : Word} {x36 : Nat} {x37 : Nat}
    (hm : t.memWf = true → kwf resetWord x0 = true ∧ kwf (fun _ => (0 : Word)) x3 = true ∧
      kwf (fun _ => (0xFF : Byte)) x4 = true ∧ (∀ j ∈ x27, j.memWf = true) ∧ ∀ j, x28 = some j → j.memWf = true)
    (hr : t.sv.rolesOk → x17.rolesOk) (k4 : eff.flash = false → x4 = t.flash) (k3 : eff.qmem = false → x3 = t.qmem)
    (k17 : eff.roles = false → x17.roleFields = t.sv.roleFields) (k19 : eff.power = false → x19.powerFields = t.pw.powerFields) :
    Keeps eff s
      ⟨x0, x1, x2, x3, x4, t.otp, x6, x7, x8, x9, x10, x11, x12, x13, x14, x15, x16, x17, x18, x19, x20, x21, x22, x23, x24, x25, x26, x27, x28,
      x29, x30, x31, x32, x33, x34, x35, x36, x37, t.pending⟩ :=
  ⟨h.pending, fun m => by
    have a := h.mem m
    have b := hm a
    rw [State.memWf_iff] at a ⊢
    exact ⟨b.1, b.2.1, b.2.2.1, a.2.2.2.1, b.2.2.2⟩, h.otp, fun r => hr (h.roles r), h.otpSame,
    fun x => (k4 x).trans (h.flashSame x), fun x => (k3 x).trans (h.qmemSame x), fun x => (k17 x).trans (h.rolesSame x),
    fun x => (k19 x).trans (h.powerSame x)⟩

theorem Keeps.setRegs {s t : State} (h : Keeps eff s t) (m : KMap Word) (hm : t.memWf = true → kwf resetWord m = true) : Keeps eff s { t with regs := m } :=
  ⟨h.pending, fun w => by
    have := h.mem w
    have k := hm this
    rw [State.memWf_iff] at this ⊢
    exact ⟨k, this.2⟩, h.otp, h.roles, h.otpSame, h.flashSame, h.qmemSame, h.rolesSame, h.powerSame⟩

theorem Keeps.setQmem {s t : State} (h : Keeps eff s t) (m : KMap Word) (hm : t.memWf = true → kwf (fun _ => (0 : Word)) m = true)
    (he : eff.qmem = true := by assumption) :
    Keeps eff s { t with qmem := m } :=
  ⟨h.pending, fun w => by
    have := h.mem w
    have k := hm this
    rw [State.memWf_iff] at this ⊢
    exact ⟨this.1, k, this.2.2⟩, h.otp, h.roles, h.otpSame, h.flashSame, fun x => by simp [he] at x, h.rolesSame, h.powerSame⟩

theorem Keeps.setFlash {s t : State} (h : Keeps eff s t) (m : KMap Byte) (hm : t.memWf = true → kwf (fun _ => (0xFF : Byte)) m = true)
    (he : eff.flash = true := by assumption) :
    Keeps eff s { t with flash := m } :=
  ⟨h.pending, fun w => by
    have := h.mem w
    have k := hm this
    rw [State.memWf_iff] at this ⊢
    exact ⟨this.1, this.2.1, k, this.2.2.2⟩, h.otp, h.roles, h.otpSame, fun x => by simp [he] at x, h.qmemSame, h.rolesSame, h.powerSame⟩

theorem Keeps.setJ {s t : State} (h : Keeps eff s t) (p : List JSnap) (c : Option JSnap)
    (hm : t.memWf = true → (∀ j ∈ p, j.memWf = true) ∧ ∀ j, c = some j → j.memWf = true) : Keeps eff s { t with jpend := p, jcom := c } :=
  ⟨h.pending, fun w => by
    have := h.mem w
    have k := hm this
    rw [State.memWf_iff] at this ⊢
    exact ⟨this.1, this.2.1, this.2.2.1, this.2.2.2.1, k⟩, h.otp, h.roles, h.otpSame, h.flashSame, h.qmemSame, h.rolesSame, h.powerSame⟩

theorem Keeps.ite {s a b : State} {c : Prop} [Decidable c] (ha : Keeps eff s a) (hb : Keeps eff s b) : Keeps eff s (if c then a else b) := by
  split <;> assumption

theorem wr_keeps {s : State} (a : Nat) (w : Word) (t : State) (h : Keeps eff s t) : Keeps eff s (wr a w t) :=
  h.setRegs _ fun m => kwf_kset _ _ _ _ _ rfl ((State.memWf_iff t).mp m).1

theorem State.put_keeps {s : State} (t : State) (f : FldRef) (v : Nat) (h : Keeps eff s t) : Keeps eff s (t.put f v) := wr_keeps _ _ _ h
theorem State.set1_keeps {s : State} (t : State) (f : FldRef) (h : Keeps eff s t) : Keeps eff s (t.set1 f) := wr_keeps _ _ _ h
theorem State.putB_keeps {s : State} (t : State) (f : FldRef) (b : Bool) (h : Keeps eff s t) : Keeps eff s (t.putB f b) := wr_keeps _ _ _ h
theorem State.addSat_keeps {s : State} (t : State) (f : FldRef) (k : Nat) (h : Keeps eff s t) : Keeps eff s (t.addSat f k) := wr_keeps _ _ _ h
theorem State.inc_keeps {s : State} (t : State) (f : FldRef) (h : Keeps eff s t) : Keeps eff s (t.inc f) := wr_keeps _ _ _ h
theorem State.incWrap_keeps {s : State} (t : State) (f : FldRef) (h : Keeps eff s t) : Keeps eff s (t.incWrap f) := wr_keeps _ _ _ h
theorem State.put64_keeps {s : State} (t : State) (a v : Nat) (h : Keeps eff s t) : Keeps eff s (t.put64 a v) := wr_keeps _ _ _ (wr_keeps _ _ _ h)

theorem State.each_keeps {β : Type} {s : State} (t : State) (l : List β) (f : β → State → State) (h : Keeps eff s t)
    (hf : ∀ x u, Keeps eff s u → Keeps eff s (f x u)) : Keeps eff s (t.each l f) := each_ind (Keeps eff s) l f t h fun x _ u => hf x u

theorem Keeps.foldl {β : Type} {s : State} (t : State) (l : List β) (f : State → β → State) (h : Keeps eff s t)
    (hf : ∀ u x, Keeps eff s u → Keeps eff s (f u x)) : Keeps eff s (l.foldl f t) := by
  induction l generalizing t with
  | nil => exact h
  | cons x l ih => exact ih _ (hf _ _ h)

theorem State.when_keeps {s : State} (t : State) (c : Bool) (f : State → State) (h : Keeps eff s t) (hf : ∀ u, Keeps eff s u → Keeps eff s (f u)) :
    Keeps eff s (t.when c f) := when_ind (Keeps eff s) t c f h (hf t)

theorem State.modSv_keeps {s : State} (t : State) (f : SvSt → SvSt) (h : Keeps eff s t) (hf : ∀ v, (f v).roleFields = v.roleFields) :
    Keeps eff s (t.modSv f) :=
  ⟨h.pending, h.mem, h.otp, fun r => by
    have := hf t.sv
    simp only [SvSt.roleFields, Prod.mk.injEq] at this
    have k := h.roles r
    simp only [State.rolesOk, SvSt.rolesOk, State.modSv_sv, this] at k ⊢
    exact k, h.otpSame, h.flashSame, h.qmemSame, fun x => (hf t.sv).trans (h.rolesSame x), h.powerSame⟩

/-- An update of the supervision's record that leaves the fields that tell the roles. -/
theorem State.modSv_fields {s : State} (t : State) (h : Keeps eff s t) {g2 : SvSt → Stby} {g3 : SvSt → Bool} {g4 : SvSt → Nat} {g5 : SvSt →
    Bool} {g6 : SvSt → List DigEnt} {g7 : SvSt → Option Digest} {g8 : SvSt → Option Digest} {g9 : SvSt → KMap Nat} {g10 : SvSt → Nat} {g11 :
    SvSt → Option Nat} {g12 : SvSt → Option Nat} {g13 : SvSt → Option Nat} {g16 : SvSt → Bool} {g17 : SvSt → Option Nat} {g18 : SvSt → Option
    Nat} {g19 : SvSt → Nat} {g20 : SvSt → Nat} {g21 : SvSt → Option Nat} {g22 : SvSt → Bool} {g23 : SvSt → Bool} {g24 : SvSt → Option Nat} {g25
    : SvSt → Option Nat} {g26 : SvSt → Bool} {g27 : SvSt → Bool} {g28 : SvSt → Option Nat} {g29 : SvSt → Option Dom} {g30 : SvSt → Nat} {g31 :
    SvSt → Option Nat} {g32 : SvSt → Nat} {g33 : SvSt → Nat} {g34 : SvSt → Nat} {g35 : SvSt → Nat} {g36 : SvSt → Nat} {g37 : SvSt → Nat} {g38 :
    SvSt → Nat} {g39 : SvSt → Nat} {g40 : SvSt → Nat} {g41 : SvSt → Bool} {g42 : SvSt → Nat} {g43 : SvSt → Nat} {g44 : SvSt → Nat} {g45 : SvSt →
    Nat} {g46 g47 g48 g49 g50 g51 g52 : SvSt → Nat} :
    Keeps eff s (t.modSv (fun v =>
      ⟨v.roleA, v.roleB, g2 v, g3 v, g4 v, g5 v, g6 v, g7 v, g8 v, g9 v, g10 v, g11 v, g12 v, g13 v, v.tkoFrom, v.ready, g16 v, g17 v, g18 v, g19
      v, g20 v, g21 v, g22 v, g23 v, g24 v, g25 v, g26 v, g27 v, g28 v, g29 v, g30 v, g31 v, g32 v, g33 v, g34 v, g35 v, g36 v, g37 v, g38 v, g39
      v, g40 v, g41 v, g42 v, g43 v, g44 v, g45 v, g46 v, g47 v, g48 v, g49 v, g50 v, g51 v, g52 v⟩)) :=
  ⟨h.pending, h.mem, h.otp, h.roles, h.otpSame, h.flashSame, h.qmemSame, h.rolesSame, h.powerSame⟩

/-- An update of the power record that leaves the power state. -/
theorem State.modPw_fields {s : State} (t : State) (h : Keeps eff s t) {g2 : PwSt → Dom} {g3 : PwSt → Option Nat} {g4 : PwSt → Option Nat}
    {g5 : PwSt → Bool} {g6 : PwSt → Nat} {g7 : PwSt → Bool} {g8 : PwSt → Option (Nat × Nat)} {g9 : PwSt → List Nat} {g10 : PwSt → Bool} {g11 : PwSt → Nat} :
    Keeps eff s (t.modPw (fun p =>
      ⟨p.on, p.power, g2 p, g3 p, g4 p, g5 p, g6 p, g7 p, g8 p, g9 p, g10 p, g11 p⟩)) :=
  ⟨h.pending, h.mem, h.otp, h.roles, h.otpSame, h.flashSame, h.qmemSame, h.rolesSame, h.powerSame⟩

/-- A change of the power state. -/
theorem State.modPw_power {s : State} (t : State) (f : PwSt → PwSt) (h : Keeps eff s t) (he : eff.power = true := by assumption) : Keeps eff s (t.modPw f) :=
  ⟨h.pending, h.mem, h.otp, h.roles, h.otpSame, h.flashSame, h.qmemSame, h.rolesSame, fun x => by simp [he] at x⟩

/-- A change of the supervision's record that leaves sound roles sound. -/
theorem State.modSv_roles {s : State} (t : State) (f : SvSt → SvSt) (h : Keeps eff s t) (hr : ∀ v, v.rolesOk → (f v).rolesOk)
    (he : eff.roles = true := by assumption) : Keeps eff s (t.modSv f) :=
  ⟨h.pending, h.mem, h.otp, fun r => hr _ (h.roles r), h.otpSame, h.flashSame, h.qmemSame, fun x => by simp [he] at x, h.powerSame⟩

/-- A change of the supervision's record after which the roles are sound. -/
theorem State.modSv_sound {s : State} (t : State) (f : SvSt → SvSt) (h : Keeps eff s t) (hr : s.rolesOk → (f t.sv).rolesOk)
    (he : eff.roles = true := by assumption) : Keeps eff s (t.modSv f) :=
  ⟨h.pending, h.mem, h.otp, hr, h.otpSame, h.flashSame, h.qmemSame, fun x => by simp [he] at x, h.powerSame⟩

theorem otpPut_keeps {s : State} (a : Nat) (b : Byte) (t : State) (h : Keeps eff s t) (hb : otpByte t a ||| b = b)
    (he : eff.otp = true := by assumption) : Keeps eff s (otpPut a b t) :=
  ⟨h.pending, fun w => by
    have := h.mem w
    rw [State.memWf_iff] at this ⊢
    exact ⟨this.1, this.2.1, this.2.2.1, kwf_kset _ _ _ _ _ rfl this.2.2.2.1, this.2.2.2.2⟩,
  fun x => by
    have k : otpByte t x ||| otpByte (otpPut a b t) x = otpByte (otpPut a b t) x := by
      by_cases e : x = a
      · subst e; rw [show otpByte (otpPut x b t) x = b from kget_kset_same _ _ _ _, hb]
      · rw [show otpByte (otpPut a b t) x = otpByte t x from kget_kset_ne _ _ _ _ _ _ e, BitVec.or_self]
    rw [← k, ← BitVec.or_assoc, h.otp x], h.roles, fun x => by simp [he] at x, h.flashSame, h.qmemSame, h.rolesSame, h.powerSame⟩

end Sys2Proof.Machine
end

