-- ==== Sys2Proof/Laws/KeepsUnits.lean ====
section
/-! SUPPORT. What the operations of registers, queues, contexts, events, chains, accesses, dips, digital and analog channels, the time unit and check values keep (`Keeps`): one lemma for each operation. -/

set_option linter.unreachableTactic false
set_option linter.unusedTactic false

namespace Sys2Proof.Machine

set_option Elab.async false

variable {eff : Eff}

theorem startStep_keeps {s : State} (n : Nat) (t : State) (h : Keeps eff s t)   :
    Keeps eff s (startStep n t) := by
  delta startStep
  try dsimp only
  repeat' first
    | with_reducible assumption
    | intro _
    | with_reducible apply Keeps.ite
    | with_reducible apply Keeps.foldl
    | with_reducible apply State.put_keeps
    | split
    | with_reducible apply Keeps.fields
    | with_reducible rfl

theorem State.useFree_keeps {s : State} (t : State) (h : Keeps eff s t)   :
    Keeps eff s (State.useFree t) := by
  delta State.useFree
  try dsimp only
  repeat' first
    | with_reducible assumption
    | intro _
    | with_reducible apply Keeps.ite
    | with_reducible apply Keeps.foldl
    | split
    | with_reducible apply Keeps.fields
    | with_reducible rfl

theorem raiseIrq_keeps {s : State} (b : Nat) (t : State) (h : Keeps eff s t)   :
    Keeps eff s (raiseIrq b t) := by
  delta raiseIrq
  try dsimp only
  repeat' first
    | with_reducible assumption
    | intro _
    | with_reducible apply Keeps.ite
    | with_reducible apply Keeps.foldl
    | with_reducible apply State.put_keeps
    | split
    | with_reducible apply Keeps.fields
    | with_reducible rfl

theorem State.setQueue_keeps {s : State} (t : State) (q : Nat) (x : QSt) (h : Keeps eff s t)   :
    Keeps eff s (State.setQueue t q x) := by
  delta State.setQueue
  try dsimp only
  repeat' first
    | with_reducible assumption
    | intro _
    | with_reducible apply Keeps.ite
    | with_reducible apply Keeps.foldl
    | split
    | with_reducible apply Keeps.fields
    | with_reducible rfl

theorem State.setPsh_keeps {s : State} (t : State) (q : Nat) (r : Nat) (x : PSh) (h : Keeps eff s t)   :
    Keeps eff s (State.setPsh t q r x) := by
  delta State.setPsh
  try dsimp only
  repeat' first
    | with_reducible assumption
    | intro _
    | with_reducible apply Keeps.ite
    | with_reducible apply Keeps.foldl
    | split
    | with_reducible apply Keeps.fields
    | with_reducible rfl

theorem State.setCtx_keeps {s : State} (t : State) (c : Nat) (x : CtxSt) (h : Keeps eff s t)   :
    Keeps eff s (State.setCtx t c x) := by
  delta State.setCtx
  try dsimp only
  repeat' first
    | with_reducible assumption
    | intro _
    | with_reducible apply Keeps.ite
    | with_reducible apply Keeps.foldl
    | split
    | with_reducible apply Keeps.fields
    | with_reducible rfl

theorem State.modCtx_keeps {s : State} (t : State) (c : Nat) (f : CtxSt → CtxSt) (h : Keeps eff s t)   :
    Keeps eff s (State.modCtx t c f) := by
  delta State.modCtx
  try dsimp only
  repeat' first
    | with_reducible assumption
    | intro _
    | with_reducible apply Keeps.ite
    | with_reducible apply Keeps.foldl
    | with_reducible apply State.setCtx_keeps
    | split
    | with_reducible apply Keeps.fields
    | with_reducible rfl

theorem State.setEng_keeps {s : State} (t : State) (e : Nat) (x : EngSt) (h : Keeps eff s t)   :
    Keeps eff s (State.setEng t e x) := by
  delta State.setEng
  try dsimp only
  repeat' first
    | with_reducible assumption
    | intro _
    | with_reducible apply Keeps.ite
    | with_reducible apply Keeps.foldl
    | split
    | with_reducible apply Keeps.fields
    | with_reducible rfl

theorem State.setCan_keeps {s : State} (t : State) (p : Nat) (x : CanSt) (h : Keeps eff s t)   :
    Keeps eff s (State.setCan t p x) := by
  delta State.setCan
  try dsimp only
  repeat' first
    | with_reducible assumption
    | intro _
    | with_reducible apply Keeps.ite
    | with_reducible apply Keeps.foldl
    | split
    | with_reducible apply Keeps.fields
    | with_reducible rfl

theorem State.modCan_keeps {s : State} (t : State) (p : Nat) (f : CanSt → CanSt) (h : Keeps eff s t)   :
    Keeps eff s (State.modCan t p f) := by
  delta State.modCan
  try dsimp only
  repeat' first
    | with_reducible assumption
    | intro _
    | with_reducible apply Keeps.ite
    | with_reducible apply Keeps.foldl
    | with_reducible apply State.setCan_keeps
    | split
    | with_reducible apply Keeps.fields
    | with_reducible rfl

theorem State.setCv_keeps {s : State} (t : State) (u : Nat) (x : CvSt) (h : Keeps eff s t)   :
    Keeps eff s (State.setCv t u x) := by
  delta State.setCv
  try dsimp only
  repeat' first
    | with_reducible assumption
    | intro _
    | with_reducible apply Keeps.ite
    | with_reducible apply Keeps.foldl
    | split
    | with_reducible apply Keeps.fields
    | with_reducible rfl

theorem State.setTile_keeps {s : State} (t : State) (t1 : Nat) (x : TileSt) (h : Keeps eff s t)   :
    Keeps eff s (State.setTile t t1 x) := by
  delta State.setTile
  try dsimp only
  repeat' first
    | with_reducible assumption
    | intro _
    | with_reducible apply Keeps.ite
    | with_reducible apply Keeps.foldl
    | split
    | with_reducible apply Keeps.fields
    | with_reducible rfl

theorem State.modTile_keeps {s : State} (t : State) (t1 : Nat) (f : TileSt → TileSt) (h : Keeps eff s t)   :
    Keeps eff s (State.modTile t t1 f) := by
  delta State.modTile
  try dsimp only
  repeat' first
    | with_reducible assumption
    | intro _
    | with_reducible apply Keeps.ite
    | with_reducible apply Keeps.foldl
    | with_reducible apply State.setTile_keeps
    | split
    | with_reducible apply Keeps.fields
    | with_reducible rfl

theorem State.setCh_keeps {s : State} (t : State) (n : Nat) (x : ChSt) (h : Keeps eff s t)   :
    Keeps eff s (State.setCh t n x) := by
  delta State.setCh
  try dsimp only
  repeat' first
    | with_reducible assumption
    | intro _
    | with_reducible apply Keeps.ite
    | with_reducible apply Keeps.foldl
    | split
    | with_reducible apply Keeps.fields
    | with_reducible rfl

theorem State.modCh_keeps {s : State} (t : State) (n : Nat) (f : ChSt → ChSt) (h : Keeps eff s t)   :
    Keeps eff s (State.modCh t n f) := by
  delta State.modCh
  try dsimp only
  repeat' first
    | with_reducible assumption
    | intro _
    | with_reducible apply Keeps.ite
    | with_reducible apply Keeps.foldl
    | with_reducible apply State.setCh_keeps
    | split
    | with_reducible apply Keeps.fields
    | with_reducible rfl

theorem State.setChain_keeps {s : State} (t : State) (n : Nat) (x : ChainSt) (h : Keeps eff s t)   :
    Keeps eff s (State.setChain t n x) := by
  delta State.setChain
  try dsimp only
  repeat' first
    | with_reducible assumption
    | intro _
    | with_reducible apply Keeps.ite
    | with_reducible apply Keeps.foldl
    | split
    | with_reducible apply Keeps.fields
    | with_reducible rfl

theorem State.modTu_keeps {s : State} (t : State) (f : TuSt → TuSt) (h : Keeps eff s t)   :
    Keeps eff s (State.modTu t f) := by
  delta State.modTu
  try dsimp only
  repeat' first
    | with_reducible assumption
    | intro _
    | with_reducible apply Keeps.ite
    | with_reducible apply Keeps.foldl
    | split
    | with_reducible apply Keeps.fields
    | with_reducible rfl

theorem State.modCa_keeps {s : State} (t : State) (f : CaSt → CaSt) (h : Keeps eff s t)   :
    Keeps eff s (State.modCa t f) := by
  delta State.modCa
  try dsimp only
  repeat' first
    | with_reducible assumption
    | intro _
    | with_reducible apply Keeps.ite
    | with_reducible apply Keeps.foldl
    | split
    | with_reducible apply Keeps.fields
    | with_reducible rfl

theorem State.modS0_keeps {s : State} (t : State) (f : S0St → S0St) (h : Keeps eff s t)   :
    Keeps eff s (State.modS0 t f) := by
  delta State.modS0
  try dsimp only
  repeat' first
    | with_reducible assumption
    | intro _
    | with_reducible apply Keeps.ite
    | with_reducible apply Keeps.foldl
    | split
    | with_reducible apply Keeps.fields
    | with_reducible rfl

theorem State.modSp1_keeps {s : State} (t : State) (f : Sp1St → Sp1St) (h : Keeps eff s t)   :
    Keeps eff s (State.modSp1 t f) := by
  delta State.modSp1
  try dsimp only
  repeat' first
    | with_reducible assumption
    | intro _
    | with_reducible apply Keeps.ite
    | with_reducible apply Keeps.foldl
    | split
    | with_reducible apply Keeps.fields
    | with_reducible rfl

theorem State.modSp2_keeps {s : State} (t : State) (f : Sp2St → Sp2St) (h : Keeps eff s t)   :
    Keeps eff s (State.modSp2 t f) := by
  delta State.modSp2
  try dsimp only
  repeat' first
    | with_reducible assumption
    | intro _
    | with_reducible apply Keeps.ite
    | with_reducible apply Keeps.foldl
    | split
    | with_reducible apply Keeps.fields
    | with_reducible rfl

theorem State.modCsn_keeps {s : State} (t : State) (f : CsnSt → CsnSt) (h : Keeps eff s t)   :
    Keeps eff s (State.modCsn t f) := by
  delta State.modCsn
  try dsimp only
  repeat' first
    | with_reducible assumption
    | intro _
    | with_reducible apply Keeps.ite
    | with_reducible apply Keeps.foldl
    | split
    | with_reducible apply Keeps.fields
    | with_reducible rfl

theorem State.modBt_keeps {s : State} (t : State) (f : BtSt → BtSt) (h : Keeps eff s t)   :
    Keeps eff s (State.modBt t f) := by
  delta State.modBt
  try dsimp only
  repeat' first
    | with_reducible assumption
    | intro _
    | with_reducible apply Keeps.ite
    | with_reducible apply Keeps.foldl
    | split
    | with_reducible apply Keeps.fields
    | with_reducible rfl

theorem State.setLogr_keeps {s : State} (t : State) (r : Nat) (x : LogSt) (h : Keeps eff s t)   :
    Keeps eff s (State.setLogr t r x) := by
  delta State.setLogr
  try dsimp only
  repeat' first
    | with_reducible assumption
    | intro _
    | with_reducible apply Keeps.ite
    | with_reducible apply Keeps.foldl
    | split
    | with_reducible apply Keeps.fields
    | with_reducible rfl

theorem State.modLink_keeps {s : State} (t : State) (x : Nat) (f : LinkSt → LinkSt) (h : Keeps eff s t)   :
    Keeps eff s (State.modLink t x f) := by
  delta State.modLink
  try dsimp only
  repeat' first
    | with_reducible assumption
    | intro _
    | with_reducible apply Keeps.ite
    | with_reducible apply Keeps.foldl
    | with_reducible apply State.modCsn_keeps
    | split
    | with_reducible apply Keeps.fields
    | with_reducible rfl

theorem State.setDip_keeps {s : State} (t : State) (b : Nat) (x : DipBank) (h : Keeps eff s t)   :
    Keeps eff s (State.setDip t b x) := by
  delta State.setDip
  try dsimp only
  repeat' first
    | with_reducible assumption
    | intro _
    | with_reducible apply Keeps.ite
    | with_reducible apply Keeps.foldl
    | split
    | with_reducible apply Keeps.fields
    | with_reducible rfl

theorem qLevelChanged_keeps {s : State} (q : Nat) (t : State) (h : Keeps eff s t)   :
    Keeps eff s (qLevelChanged q t) := by
  delta qLevelChanged
  try dsimp only
  repeat' first
    | with_reducible assumption
    | intro _
    | with_reducible apply Keeps.ite
    | with_reducible apply Keeps.foldl
    | with_reducible apply State.put_keeps
    | with_reducible apply State.set1_keeps
    | with_reducible apply raiseIrq_keeps
    | with_reducible apply State.setQueue_keeps
    | split
    | with_reducible apply Keeps.fields
    | with_reducible rfl

theorem qStore_keeps {s : State} (q : Nat) (l : List QEnt) (t : State) (h : Keeps eff s t)   :
    Keeps eff s (qStore q l t) := by
  delta qStore
  try dsimp only
  repeat' first
    | with_reducible assumption
    | intro _
    | with_reducible apply Keeps.ite
    | with_reducible apply Keeps.foldl
    | with_reducible apply State.setQueue_keeps
    | with_reducible apply qLevelChanged_keeps
    | split
    | with_reducible apply Keeps.fields
    | with_reducible rfl

theorem putWords_keeps {s : State} (q : Nat) (pos : Nat) (l : List Word) (t : State) (h : Keeps eff s t)
    (h_qmem : eff.qmem = true := by assumption) :
    Keeps eff s (putWords q pos l t) := by
  induction l generalizing pos t with
  | nil => exact h
  | cons w r ih => exact ih _ _ (h.setQmem _ (fun m => kwf_kset _ _ _ _ _ rfl ((State.memWf_iff t).mp m).2.1))

theorem placeEnts_keeps {s : State} (q : Nat) (no : Nat) (pos : Nat) (anc : Bool) (l : List (List Word)) (t : State) (h : Keeps eff s t)
    (h_qmem : eff.qmem = true := by assumption) :
    Keeps eff s (placeEnts q no pos anc l t).2 := by
  induction l generalizing no pos anc t with
  | nil => exact h
  | cons w r ih => exact ih _ _ _ _ (putWords_keeps _ _ _ _ h)

theorem countDisplaced_keeps {s : State} (q : Nat) (d : List QEnt) (t : State) (h : Keeps eff s t)   :
    Keeps eff s (countDisplaced q d t) := by
  delta countDisplaced
  try dsimp only
  repeat' first
    | with_reducible assumption
    | intro _
    | with_reducible apply Keeps.ite
    | with_reducible apply Keeps.foldl
    | with_reducible apply State.put_keeps
    | with_reducible apply State.addSat_keeps
    | with_reducible apply State.setQueue_keeps
    | split
    | with_reducible apply Keeps.fields
    | with_reducible rfl

theorem qPush1_keeps {s : State} (q : Nat) (p : Prod) (es : List (List Word)) (t : State) (h : Keeps eff s t)  (h_qmem : eff.qmem = true := by assumption) :
    Keeps eff s (qPush1 q p es t) := by
  delta qPush1
  try dsimp only
  repeat' first
    | with_reducible assumption
    | intro _
    | with_reducible apply Keeps.ite
    | with_reducible apply Keeps.foldl
    | with_reducible apply State.set1_keeps
    | with_reducible apply State.inc_keeps
    | with_reducible apply State.setQueue_keeps
    | with_reducible apply qStore_keeps
    | with_reducible apply countDisplaced_keeps
    | with_reducible apply placeEnts_keeps
    | split
    | with_reducible apply Keeps.fields
    | with_reducible rfl

theorem qPush_keeps {s : State} (q : Nat) (p : Prod) (es : List (List Word)) (t : State) (h : Keeps eff s t)  (h_qmem : eff.qmem = true := by assumption) :
    Keeps eff s (qPush q p es t) := by
  delta qPush
  try dsimp only
  repeat' first
    | with_reducible assumption
    | intro _
    | with_reducible apply Keeps.ite
    | with_reducible apply Keeps.foldl
    | with_reducible apply State.each_keeps
    | with_reducible apply qPush1_keeps
    | split
    | with_reducible apply Keeps.fields
    | with_reducible rfl

theorem qPushDrop_keeps {s : State} (q : Nat) (p : Prod) (es : List (List Word)) (t : State) (h : Keeps eff s t)  (h_qmem : eff.qmem = true := by assumption) :
    Keeps eff s (qPushDrop q p es t) := by
  delta qPushDrop
  try dsimp only
  repeat' first
    | with_reducible assumption
    | intro _
    | with_reducible apply Keeps.ite
    | with_reducible apply Keeps.foldl
    | with_reducible apply State.set1_keeps
    | with_reducible apply qPush_keeps
    | split
    | with_reducible apply Keeps.fields
    | with_reducible rfl

theorem qPushFixed_keeps {s : State} (b : Nat) (q : Nat) (p : Prod) (es : List (List Word)) (t : State) (h : Keeps eff s t)  (h_qmem : eff.qmem = true := by assumption) :
    Keeps eff s (qPushFixed b q p es t) := by
  delta qPushFixed
  try dsimp only
  repeat' first
    | with_reducible assumption
    | intro _
    | with_reducible apply Keeps.ite
    | with_reducible apply Keeps.foldl
    | with_reducible apply qPushDrop_keeps
    | split
    | with_reducible apply Keeps.fields
    | with_reducible rfl

theorem qPushVar_keeps {s : State} (q : Nat) (p : Prod) (e : List Word) (t : State) (h : Keeps eff s t)  (h_qmem : eff.qmem = true := by assumption) :
    Keeps eff s (qPushVar q p e t) := by
  delta qPushVar
  try dsimp only
  repeat' first
    | with_reducible assumption
    | intro _
    | with_reducible apply Keeps.ite
    | with_reducible apply Keeps.foldl
    | with_reducible apply State.inc_keeps
    | with_reducible apply qPushDrop_keeps
    | split
    | with_reducible apply Keeps.fields
    | with_reducible rfl

theorem popNext_keeps {s : State} (r : Nat) (q : Nat) (t : State) (h : Keeps eff s t)   :
    Keeps eff s (popNext r q t) := by
  delta popNext
  try dsimp only
  repeat' first
    | with_reducible assumption
    | intro _
    | with_reducible apply Keeps.ite
    | with_reducible apply Keeps.foldl
    | with_reducible apply State.put_keeps
    | with_reducible apply State.inc_keeps
    | with_reducible apply State.setPsh_keeps
    | with_reducible apply qStore_keeps
    | split
    | with_reducible apply Keeps.fields
    | with_reducible rfl

theorem popLo_keeps {s : State} (r : Nat) (q : Nat) (t : State) (h : Keeps eff s t)   :
    Keeps eff s (popLo r q t) := by
  delta popLo
  try dsimp only
  repeat' first
    | with_reducible assumption
    | intro _
    | with_reducible apply Keeps.ite
    | with_reducible apply Keeps.foldl
    | with_reducible apply popNext_keeps
    | split
    | with_reducible apply Keeps.fields
    | with_reducible rfl

theorem popHi_keeps {s : State} (r : Nat) (q : Nat) (t : State) (h : Keeps eff s t)   :
    Keeps eff s (popHi r q t) := by
  delta popHi
  try dsimp only
  repeat' first
    | with_reducible assumption
    | intro _
    | with_reducible apply Keeps.ite
    | with_reducible apply Keeps.foldl
    | with_reducible apply State.setPsh_keeps
    | split
    | with_reducible apply Keeps.fields
    | with_reducible rfl

theorem popStream_keeps {s : State} (r : Nat) (q : Nat) (t : State) (h : Keeps eff s t)   :
    Keeps eff s (popStream r q t) := by
  delta popStream
  try dsimp only
  repeat' first
    | with_reducible assumption
    | intro _
    | with_reducible apply Keeps.ite
    | with_reducible apply Keeps.foldl
    | with_reducible apply State.setPsh_keeps
    | with_reducible apply popLo_keeps
    | split
    | with_reducible apply Keeps.fields
    | with_reducible rfl

theorem qEmpty_keeps {s : State} (q : Nat) (nofit : Bool) (t : State) (h : Keeps eff s t)   :
    Keeps eff s (qEmpty q nofit t) := by
  delta qEmpty
  try dsimp only
  repeat' first
    | with_reducible assumption
    | intro _
    | with_reducible apply Keeps.ite
    | with_reducible apply Keeps.foldl
    | with_reducible apply State.put_keeps
    | with_reducible apply State.setQueue_keeps
    | split
    | with_reducible apply Keeps.fields
    | with_reducible rfl

theorem placeOne_keeps {s : State} (q : Nat) (p : State × Nat) (h : Keeps eff s p.1) : Keeps eff s (placeOne q p).1 := by
  delta placeOne
  dsimp only
  split
  · exact qEmpty_keeps _ _ _ (State.put_keeps _ _ _ h)
  · split
    · exact qEmpty_keeps _ _ _ (State.put_keeps _ _ _ h)
    · exact Keeps.ite (qEmpty_keeps _ _ _ (State.put_keeps _ _ _ (State.put_keeps _ _ _ h))) (State.put_keeps _ _ _ (State.put_keeps _ _ _ h))

theorem placeQueues_keeps {s : State} (resized : List Nat) (t : State) (h : Keeps eff s t) : Keeps eff s (placeQueues resized t) := by
  have hf : ∀ (l : List Nat) (p : State × Nat), Keeps eff s p.1 → Keeps eff s (l.foldl (fun st q => placeOne q st) p).1 := by
    intro l
    induction l with
    | nil => exact fun p h => h
    | cons q l ih => exact fun p h => ih _ (placeOne_keeps q p h)
  exact (hf placeOrder _ (State.each_keeps _ _ _ h fun q u hu => qEmpty_keeps _ _ _ hu)).fields

theorem rebind_keeps {s : State} (t : State) (h : Keeps eff s t)   :
    Keeps eff s (rebind t) := by
  delta rebind
  try dsimp only
  repeat' first
    | with_reducible assumption
    | intro _
    | with_reducible apply Keeps.ite
    | with_reducible apply Keeps.foldl
    | with_reducible apply State.putB_keeps
    | with_reducible apply State.each_keeps
    | split
    | with_reducible apply Keeps.fields
    | with_reducible rfl

theorem qCfgApply_keeps {s : State} (q : Nat) (w : Word) (t : State) (h : Keeps eff s t)   :
    Keeps eff s (qCfgApply q w t) := by
  delta qCfgApply
  try dsimp only
  repeat' first
    | with_reducible assumption
    | intro _
    | with_reducible apply Keeps.ite
    | with_reducible apply Keeps.foldl
    | with_reducible apply wr_keeps
    | with_reducible apply State.putB_keeps
    | with_reducible apply qStore_keeps
    | with_reducible apply placeQueues_keeps
    | with_reducible apply rebind_keeps
    | split
    | with_reducible apply Keeps.fields
    | with_reducible rfl

theorem dipPatch_keeps {s : State} (t0 : Nat) (f : KMap Word → KMap Word) (t : State) (h : Keeps eff s t)   :
    Keeps eff s (dipPatch t0 f t) := by
  delta dipPatch
  try dsimp only
  repeat' first
    | with_reducible assumption
    | intro _
    | with_reducible apply Keeps.ite
    | with_reducible apply Keeps.foldl
    | with_reducible apply State.each_keeps
    | with_reducible apply State.setDip_keeps
    | split
    | with_reducible apply Keeps.fields
    | with_reducible rfl

theorem dipLevel_keeps {s : State} (q : Nat) (t1 : Nat) (n : Nat) (t : State) (h : Keeps eff s t)   :
    Keeps eff s (dipLevel q t1 n t) := by
  delta dipLevel
  try dsimp only
  repeat' first
    | with_reducible assumption
    | intro _
    | with_reducible apply Keeps.ite
    | with_reducible apply Keeps.foldl
    | with_reducible apply dipPatch_keeps
    | split
    | with_reducible apply Keeps.fields
    | with_reducible rfl

theorem offEngine_keeps {s : State} (c : Nat) (t : State) (h : Keeps eff s t)   :
    Keeps eff s (offEngine c t) := by
  delta offEngine
  try dsimp only
  repeat' first
    | with_reducible assumption
    | intro _
    | with_reducible apply Keeps.ite
    | with_reducible apply Keeps.foldl
    | with_reducible apply State.put_keeps
    | split
    | with_reducible apply Keeps.fields
    | with_reducible rfl

theorem ctxState_keeps {s : State} (c : Nat) (st : Nat) (on : Nat) (t : State) (h : Keeps eff s t)   :
    Keeps eff s (ctxState c st on t) := by
  delta ctxState
  try dsimp only
  repeat' first
    | with_reducible assumption
    | intro _
    | with_reducible apply Keeps.ite
    | with_reducible apply Keeps.foldl
    | with_reducible apply State.put_keeps
    | split
    | with_reducible apply Keeps.fields
    | with_reducible rfl

theorem ctxWait_keeps {s : State} (c : Nat) (on : Nat) (w : Wait) (t : State) (h : Keeps eff s t)   :
    Keeps eff s (ctxWait c on w t) := by
  delta ctxWait
  try dsimp only
  repeat' first
    | with_reducible assumption
    | intro _
    | with_reducible apply Keeps.ite
    | with_reducible apply Keeps.foldl
    | with_reducible apply State.modCtx_keeps
    | with_reducible apply offEngine_keeps
    | with_reducible apply ctxState_keeps
    | split
    | with_reducible apply Keeps.fields
    | with_reducible rfl

theorem ctxBlock_keeps {s : State} (c : Nat) (on : Nat) (w : Wait) (t : State) (h : Keeps eff s t)   :
    Keeps eff s (ctxBlock c on w t) := by
  delta ctxBlock
  try dsimp only
  repeat' first
    | with_reducible assumption
    | intro _
    | with_reducible apply Keeps.ite
    | with_reducible apply Keeps.foldl
    | with_reducible apply State.modCtx_keeps
    | with_reducible apply offEngine_keeps
    | with_reducible apply ctxState_keeps
    | split
    | with_reducible apply Keeps.fields
    | with_reducible rfl

theorem ctxResume_keeps {s : State} (c : Nat) (pc : Nat) (t : State) (h : Keeps eff s t)   :
    Keeps eff s (ctxResume c pc t) := by
  delta ctxResume
  try dsimp only
  repeat' first
    | with_reducible assumption
    | intro _
    | with_reducible apply Keeps.ite
    | with_reducible apply Keeps.foldl
    | with_reducible apply State.modCtx_keeps
    | with_reducible apply ctxState_keeps
    | split
    | with_reducible apply Keeps.fields
    | with_reducible rfl

theorem ctxReady_keeps {s : State} (c : Nat) (t : State) (h : Keeps eff s t)   :
    Keeps eff s (ctxReady c t) := by
  delta ctxReady
  try dsimp only
  repeat' first
    | with_reducible assumption
    | intro _
    | with_reducible apply Keeps.ite
    | with_reducible apply Keeps.foldl
    | with_reducible apply ctxState_keeps
    | split
    | with_reducible apply Keeps.fields
    | with_reducible rfl

theorem freeCv_keeps {s : State} (c : Nat) (t : State) (h : Keeps eff s t)   :
    Keeps eff s (freeCv c t) := by
  delta freeCv
  try dsimp only
  repeat' first
    | with_reducible assumption
    | intro _
    | with_reducible apply Keeps.ite
    | with_reducible apply Keeps.foldl
    | split
    | with_reducible apply Keeps.fields
    | with_reducible rfl

theorem dropResv_keeps {s : State} (c : Nat) (t : State) (h : Keeps eff s t)   :
    Keeps eff s (dropResv c t) := by
  delta dropResv
  try dsimp only
  repeat' first
    | with_reducible assumption
    | intro _
    | with_reducible apply Keeps.ite
    | with_reducible apply Keeps.foldl
    | with_reducible apply State.modCtx_keeps
    | with_reducible apply qStore_keeps
    | split
    | with_reducible apply Keeps.fields
    | with_reducible rfl

theorem showCkpt_keeps {s : State} (c : Nat) (r : Ckpt) (t : State) (h : Keeps eff s t)   :
    Keeps eff s (showCkpt c r t) := by
  delta showCkpt
  try dsimp only
  repeat' first
    | with_reducible assumption
    | intro _
    | with_reducible apply Keeps.ite
    | with_reducible apply Keeps.foldl
    | with_reducible apply State.put_keeps
    | with_reducible apply State.putB_keeps
    | split
    | with_reducible apply Keeps.fields
    | with_reducible rfl

theorem writeCkpt_keeps {s : State} (c : Nat) (r : Ckpt) (t : State) (h : Keeps eff s t)   :
    Keeps eff s (writeCkpt c r t) := by
  delta writeCkpt
  try dsimp only
  repeat' first
    | with_reducible assumption
    | intro _
    | with_reducible apply Keeps.ite
    | with_reducible apply Keeps.foldl
    | with_reducible apply State.modCtx_keeps
    | with_reducible apply showCkpt_keeps
    | split
    | with_reducible apply Keeps.fields
    | with_reducible rfl

theorem putTinfo_keeps {s : State} (c : Nat) (r : TrigRec) (t : State) (h : Keeps eff s t)   :
    Keeps eff s (putTinfo c r t) := by
  delta putTinfo
  try dsimp only
  repeat' first
    | with_reducible assumption
    | intro _
    | with_reducible apply Keeps.ite
    | with_reducible apply Keeps.foldl
    | with_reducible apply wr_keeps
    | split
    | with_reducible apply Keeps.fields
    | with_reducible rfl

theorem startRun_keeps {s : State} (c : Nat) (r : TrigRec) (t : State) (h : Keeps eff s t)   :
    Keeps eff s (startRun c r t) := by
  delta startRun
  try dsimp only
  repeat' first
    | with_reducible assumption
    | intro _
    | with_reducible apply Keeps.ite
    | with_reducible apply Keeps.foldl
    | with_reducible apply State.put_keeps
    | with_reducible apply State.incWrap_keeps
    | with_reducible apply State.modCtx_keeps
    | with_reducible apply ctxState_keeps
    | with_reducible apply writeCkpt_keeps
    | with_reducible apply putTinfo_keeps
    | split
    | with_reducible apply Keeps.fields
    | with_reducible rfl

theorem trigLost_keeps {s : State} (c : Nat) (t : State) (h : Keeps eff s t)   :
    Keeps eff s (trigLost c t) := by
  delta trigLost
  try dsimp only
  repeat' first
    | with_reducible assumption
    | intro _
    | with_reducible apply Keeps.ite
    | with_reducible apply Keeps.foldl
    | with_reducible apply State.inc_keeps
    | with_reducible apply State.modCtx_keeps
    | split
    | with_reducible apply Keeps.fields
    | with_reducible rfl

theorem acceptTrig_keeps {s : State} (c : Nat) (r : TrigRec) (kick : Bool) (t : State) (h : Keeps eff s t)   :
    Keeps eff s (acceptTrig c r kick t) := by
  delta acceptTrig
  try dsimp only
  repeat' first
    | with_reducible assumption
    | intro _
    | with_reducible apply Keeps.ite
    | with_reducible apply Keeps.foldl
    | with_reducible apply State.set1_keeps
    | with_reducible apply State.modCtx_keeps
    | with_reducible apply startRun_keeps
    | with_reducible apply trigLost_keeps
    | split
    | with_reducible apply Keeps.fields
    | with_reducible rfl

theorem noteTrigs_keeps {s : State} (ts : List Trig) (t : State) (h : Keeps eff s t)   :
    Keeps eff s (noteTrigs ts t) := by
  delta noteTrigs
  try dsimp only
  repeat' first
    | with_reducible assumption
    | intro _
    | with_reducible apply Keeps.ite
    | with_reducible apply Keeps.foldl
    | split
    | with_reducible apply Keeps.fields
    | with_reducible rfl

theorem fireTrigs_keeps {s : State} (ts : List Trig) (t : State) (h : Keeps eff s t)   :
    Keeps eff s (fireTrigs ts t) := by
  delta fireTrigs
  try dsimp only
  repeat' first
    | with_reducible assumption
    | intro _
    | with_reducible apply Keeps.ite
    | with_reducible apply Keeps.foldl
    | with_reducible apply State.each_keeps
    | with_reducible apply acceptTrig_keeps
    | with_reducible apply noteTrigs_keeps
    | split
    | with_reducible apply Keeps.fields
    | with_reducible rfl

theorem pushCtxRecord_keeps {s : State} (w : List Word) (irq : Bool) (t : State) (h : Keeps eff s t)  (h_qmem : eff.qmem = true := by assumption) :
    Keeps eff s (pushCtxRecord w irq t) := by
  delta pushCtxRecord
  try dsimp only
  repeat' first
    | with_reducible assumption
    | intro _
    | with_reducible apply Keeps.ite
    | with_reducible apply Keeps.foldl
    | with_reducible apply raiseIrq_keeps
    | with_reducible apply qPushFixed_keeps
    | split
    | with_reducible apply Keeps.fields
    | with_reducible rfl

theorem unquiet_keeps {s : State} (t : State) (h : Keeps eff s t)   :
    Keeps eff s (unquiet t) := by
  delta unquiet
  try dsimp only
  repeat' first
    | with_reducible assumption
    | intro _
    | with_reducible apply Keeps.ite
    | with_reducible apply Keeps.foldl
    | with_reducible apply State.modPw_fields
    | split
    | with_reducible apply Keeps.fields
    | with_reducible rfl

theorem releaseRun_keeps {s : State} (c : Nat) (t : State) (h : Keeps eff s t)   :
    Keeps eff s (releaseRun c t) := by
  delta releaseRun
  try dsimp only
  repeat' first
    | with_reducible assumption
    | intro _
    | with_reducible apply Keeps.ite
    | with_reducible apply Keeps.foldl
    | with_reducible apply State.put_keeps
    | with_reducible apply State.modCtx_keeps
    | with_reducible apply offEngine_keeps
    | with_reducible apply freeCv_keeps
    | with_reducible apply dropResv_keeps
    | with_reducible apply unquiet_keeps
    | split
    | with_reducible apply Keeps.fields
    | with_reducible rfl

theorem endRun_keeps {s : State} (c : Nat) (code : Nat) (value : Word) (t : State) (h : Keeps eff s t)  (h_qmem : eff.qmem = true := by assumption) :
    Keeps eff s (endRun c code value t) := by
  delta endRun
  try dsimp only
  repeat' first
    | with_reducible assumption
    | intro _
    | with_reducible apply Keeps.ite
    | with_reducible apply Keeps.foldl
    | with_reducible apply State.put_keeps
    | with_reducible apply State.when_keeps
    | with_reducible apply State.modCtx_keeps
    | with_reducible apply ctxState_keeps
    | with_reducible apply startRun_keeps
    | with_reducible apply fireTrigs_keeps
    | with_reducible apply pushCtxRecord_keeps
    | with_reducible apply releaseRun_keeps
    | split
    | with_reducible apply Keeps.fields
    | with_reducible rfl

theorem progErr_keeps {s : State} (c : Nat) (pc : Nat) (t : State) (h : Keeps eff s t)  (h_qmem : eff.qmem = true := by assumption) :
    Keeps eff s (progErr c pc t) := by
  delta progErr
  try dsimp only
  repeat' first
    | with_reducible assumption
    | intro _
    | with_reducible apply Keeps.ite
    | with_reducible apply Keeps.foldl
    | with_reducible apply endRun_keeps
    | split
    | with_reducible apply Keeps.fields
    | with_reducible rfl

theorem latchPort_keeps {s : State} (p : Nat) (off : Bool) (t : State) (h : Keeps eff s t)   :
    Keeps eff s (latchPort p off t) := by
  delta latchPort
  try dsimp only
  repeat' first
    | with_reducible assumption
    | intro _
    | with_reducible apply Keeps.ite
    | with_reducible apply Keeps.foldl
    | with_reducible apply State.each_keeps
    | with_reducible apply State.modCtx_keeps
    | split
    | with_reducible apply Keeps.fields
    | with_reducible rfl

theorem inboxPut_keeps {s : State} (c : Nat) (e : RxEnt) (t : State) (h : Keeps eff s t)   :
    Keeps eff s (inboxPut c e t) := by
  delta inboxPut
  try dsimp only
  repeat' first
    | with_reducible assumption
    | intro _
    | with_reducible apply Keeps.ite
    | with_reducible apply Keeps.foldl
    | with_reducible apply State.inc_keeps
    | with_reducible apply State.modCtx_keeps
    | split
    | with_reducible apply Keeps.fields
    | with_reducible rfl

theorem writePennant_keeps {s : State} (p : Prod) (w : List Word) (irq : Bool) (t : State) (h : Keeps eff s t)  (h_qmem : eff.qmem = true := by assumption) :
    Keeps eff s (writePennant p w irq t) := by
  delta writePennant
  try dsimp only
  repeat' first
    | with_reducible assumption
    | intro _
    | with_reducible apply Keeps.ite
    | with_reducible apply Keeps.foldl
    | with_reducible apply State.inc_keeps
    | with_reducible apply raiseIrq_keeps
    | with_reducible apply qPush_keeps
    | with_reducible apply qPushFixed_keeps
    | split
    | with_reducible apply Keeps.fields
    | with_reducible rfl

theorem writePen_keeps {s : State} (p : Prod) (x : Pen) (t : State) (h : Keeps eff s t)  (h_qmem : eff.qmem = true := by assumption) :
    Keeps eff s (writePen p x t) := by
  delta writePen
  try dsimp only
  repeat' first
    | with_reducible assumption
    | intro _
    | with_reducible apply Keeps.ite
    | with_reducible apply Keeps.foldl
    | with_reducible apply dipLevel_keeps
    | with_reducible apply writePennant_keeps
    | split
    | with_reducible apply Keeps.fields
    | with_reducible rfl

theorem raisePennants_keeps {s : State} (p : Prod) (l : List Pen) (t : State) (h : Keeps eff s t)  (h_qmem : eff.qmem = true := by assumption) :
    Keeps eff s (raisePennants p l t) := by
  delta raisePennants
  try dsimp only
  repeat' first
    | with_reducible assumption
    | intro _
    | with_reducible apply Keeps.ite
    | with_reducible apply Keeps.foldl
    | with_reducible apply State.each_keeps
    | with_reducible apply fireTrigs_keeps
    | with_reducible apply writePen_keeps
    | split
    | with_reducible apply Keeps.fields
    | with_reducible rfl

theorem raisePennant_keeps {s : State} (p : Prod) (ty : Nat) (f : PFlags) (cls : Nat) (ix : Nat) (value : Word) (time : Nat) (t : State) (h : Keeps eff s t)  (h_qmem : eff.qmem = true := by assumption) :
    Keeps eff s (raisePennant p ty f cls ix value time t) := by
  delta raisePennant
  try dsimp only
  repeat' first
    | with_reducible assumption
    | intro _
    | with_reducible apply Keeps.ite
    | with_reducible apply Keeps.foldl
    | with_reducible apply raisePennants_keeps
    | split
    | with_reducible apply Keeps.fields
    | with_reducible rfl

theorem svRecord_keeps {s : State} (ty : Nat) (detail : Nat) (dom : Nat) (arg : Nat) (value : Nat) (t : State) (h : Keeps eff s t)  (h_qmem : eff.qmem = true := by assumption) :
    Keeps eff s (svRecord ty detail dom arg value t) := by
  delta svRecord
  try dsimp only
  repeat' first
    | with_reducible assumption
    | intro _
    | with_reducible apply Keeps.ite
    | with_reducible apply Keeps.foldl
    | with_reducible apply raiseIrq_keeps
    | with_reducible apply qPushFixed_keeps
    | split
    | with_reducible apply Keeps.fields
    | with_reducible rfl

theorem diagLatch_keeps {s : State} (n : Nat) (newBits : Nat) (t : State) (h : Keeps eff s t)  (h_qmem : eff.qmem = true := by assumption) :
    Keeps eff s (diagLatch n newBits t) := by
  delta diagLatch
  try dsimp only
  repeat' first
    | with_reducible assumption
    | intro _
    | with_reducible apply Keeps.ite
    | with_reducible apply Keeps.foldl
    | with_reducible apply State.put_keeps
    | with_reducible apply raiseIrq_keeps
    | with_reducible apply raisePennant_keeps
    | split
    | with_reducible apply Keeps.fields
    | with_reducible rfl

theorem diagSet_keeps {s : State} (n : Nat) (m : Nat) (t : State) (h : Keeps eff s t)  (h_qmem : eff.qmem = true := by assumption) :
    Keeps eff s (diagSet n m t) := by
  delta diagSet
  try dsimp only
  repeat' first
    | with_reducible assumption
    | intro _
    | with_reducible apply Keeps.ite
    | with_reducible apply Keeps.foldl
    | with_reducible apply State.put_keeps
    | with_reducible apply diagLatch_keeps
    | split
    | with_reducible apply Keeps.fields
    | with_reducible rfl

theorem diagClear_keeps {s : State} (n : Nat) (b : Nat) (t : State) (h : Keeps eff s t)   :
    Keeps eff s (diagClear n b t) := by
  delta diagClear
  try dsimp only
  repeat' first
    | with_reducible assumption
    | intro _
    | with_reducible apply Keeps.ite
    | with_reducible apply Keeps.foldl
    | with_reducible apply State.put_keeps
    | split
    | with_reducible apply Keeps.fields
    | with_reducible rfl

theorem prRefresh_keeps {s : State} (x : Nat) (t : State) (h : Keeps eff s t)   :
    Keeps eff s (prRefresh x t) := by
  delta prRefresh
  try dsimp only
  repeat' first
    | with_reducible assumption
    | intro _
    | with_reducible apply Keeps.ite
    | with_reducible apply Keeps.foldl
    | with_reducible apply State.put_keeps
    | with_reducible apply State.putB_keeps
    | split
    | with_reducible apply Keeps.fields
    | with_reducible rfl

theorem fcRefresh_keeps {s : State} (n : Nat) (t : State) (h : Keeps eff s t)   :
    Keeps eff s (fcRefresh n t) := by
  delta fcRefresh
  try dsimp only
  repeat' first
    | with_reducible assumption
    | intro _
    | with_reducible apply Keeps.ite
    | with_reducible apply Keeps.foldl
    | with_reducible apply State.putB_keeps
    | split
    | with_reducible apply Keeps.fields
    | with_reducible rfl

theorem takeUp_keeps {s : State} (n : Nat) (t : State) (h : Keeps eff s t)   :
    Keeps eff s (takeUp n t) := by
  delta takeUp
  try dsimp only
  repeat' first
    | with_reducible assumption
    | intro _
    | with_reducible apply Keeps.ite
    | with_reducible apply Keeps.foldl
    | with_reducible apply wr_keeps
    | with_reducible apply State.put_keeps
    | with_reducible apply State.setChain_keeps
    | with_reducible apply dipPatch_keeps
    | split
    | with_reducible apply Keeps.fields
    | with_reducible rfl

theorem settled_keeps {s : State} (n : Nat) (t : State) (h : Keeps eff s t)   :
    Keeps eff s (settled n t) := by
  delta settled
  try dsimp only
  repeat' first
    | with_reducible assumption
    | intro _
    | with_reducible apply Keeps.ite
    | with_reducible apply Keeps.foldl
    | with_reducible apply takeUp_keeps
    | split
    | with_reducible apply Keeps.fields
    | with_reducible rfl

theorem orderReset_keeps {s : State} (n : Nat) (sync : Bool) (r : Regime) (t : State) (h : Keeps eff s t)   :
    Keeps eff s (orderReset n sync r t) := by
  delta orderReset
  try dsimp only
  repeat' first
    | with_reducible assumption
    | intro _
    | with_reducible apply Keeps.ite
    | with_reducible apply Keeps.foldl
    | with_reducible apply State.setChain_keeps
    | with_reducible apply takeUp_keeps
    | split
    | with_reducible apply Keeps.fields
    | with_reducible rfl

theorem syncChains_keeps {s : State} (e : Nat) (disc : Bool) (t : State) (h : Keeps eff s t)   :
    Keeps eff s (syncChains e disc t) := by
  delta syncChains
  try dsimp only
  repeat' first
    | with_reducible assumption
    | intro _
    | with_reducible apply Keeps.ite
    | with_reducible apply Keeps.foldl
    | with_reducible apply State.each_keeps
    | with_reducible apply State.setChain_keeps
    | with_reducible apply orderReset_keeps
    | split
    | with_reducible apply Keeps.fields
    | with_reducible rfl

theorem discont_keeps {s : State} (n : Nat) (t : State) (h : Keeps eff s t)   :
    Keeps eff s (discont n t) := by
  delta discont
  try dsimp only
  repeat' first
    | with_reducible assumption
    | intro _
    | with_reducible apply Keeps.ite
    | with_reducible apply Keeps.foldl
    | with_reducible apply orderReset_keeps
    | split
    | with_reducible apply Keeps.fields
    | with_reducible rfl

theorem delayReset_keeps {s : State} (n : Nat) (t : State) (h : Keeps eff s t)   :
    Keeps eff s (delayReset n t) := by
  delta delayReset
  try dsimp only
  repeat' first
    | with_reducible assumption
    | intro _
    | with_reducible apply Keeps.ite
    | with_reducible apply Keeps.foldl
    | with_reducible apply orderReset_keeps
    | split
    | with_reducible apply Keeps.fields
    | with_reducible rfl

theorem presetRestart_keeps {s : State} (n : Nat) (t : State) (h : Keeps eff s t)   :
    Keeps eff s (presetRestart n t) := by
  delta presetRestart
  try dsimp only
  repeat' first
    | with_reducible assumption
    | intro _
    | with_reducible apply Keeps.ite
    | with_reducible apply Keeps.foldl
    | with_reducible apply State.setChain_keeps
    | with_reducible apply orderReset_keeps
    | split
    | with_reducible apply Keeps.fields
    | with_reducible rfl

theorem stopChains_keeps {s : State} (t : State) (h : Keeps eff s t)   :
    Keeps eff s (stopChains t) := by
  delta stopChains
  try dsimp only
  repeat' first
    | with_reducible assumption
    | intro _
    | with_reducible apply Keeps.ite
    | with_reducible apply Keeps.foldl
    | with_reducible apply State.each_keeps
    | with_reducible apply State.setChain_keeps
    | split
    | with_reducible apply Keeps.fields
    | with_reducible rfl

theorem rebaseAll_keeps {s : State} (r : Rebase) (t : State) (h : Keeps eff s t)   :
    Keeps eff s (rebaseAll r t) := by
  delta rebaseAll
  try dsimp only
  repeat' first
    | with_reducible assumption
    | intro _
    | with_reducible apply Keeps.ite
    | with_reducible apply Keeps.foldl
    | with_reducible apply State.each_keeps
    | with_reducible apply State.modTile_keeps
    | with_reducible apply State.setChain_keeps
    | split
    | with_reducible apply Keeps.fields
    | with_reducible rfl

theorem linesResume_keeps {s : State} (e : Nat) (t : State) (h : Keeps eff s t)   :
    Keeps eff s (linesResume e t) := by
  delta linesResume
  try dsimp only
  repeat' first
    | with_reducible assumption
    | intro _
    | with_reducible apply Keeps.ite
    | with_reducible apply Keeps.foldl
    | with_reducible apply State.each_keeps
    | with_reducible apply State.modTile_keeps
    | with_reducible apply State.setChain_keeps
    | with_reducible apply State.modCa_keeps
    | split
    | with_reducible apply Keeps.fields
    | with_reducible rfl

theorem noteMarks_keeps {s : State} (n : Nat) (t : State) (h : Keeps eff s t)   :
    Keeps eff s (noteMarks n t) := by
  delta noteMarks
  try dsimp only
  repeat' first
    | with_reducible assumption
    | intro _
    | with_reducible apply Keeps.ite
    | with_reducible apply Keeps.foldl
    | with_reducible apply State.setChain_keeps
    | split
    | with_reducible apply Keeps.fields
    | with_reducible rfl

theorem startChainsAt_keeps {s : State} (e : Nat) (t : State) (h : Keeps eff s t)   :
    Keeps eff s (startChainsAt e t) := by
  delta startChainsAt
  try dsimp only
  repeat' first
    | with_reducible assumption
    | intro _
    | with_reducible apply Keeps.ite
    | with_reducible apply Keeps.foldl
    | with_reducible apply State.each_keeps
    | with_reducible apply State.setChain_keeps
    | with_reducible apply fcRefresh_keeps
    | with_reducible apply takeUp_keeps
    | with_reducible apply linesResume_keeps
    | with_reducible apply noteMarks_keeps
    | split
    | with_reducible apply Keeps.fields
    | with_reducible rfl

theorem startChains_keeps {s : State} (t : State) (h : Keeps eff s t)   :
    Keeps eff s (startChains t) := by
  delta startChains
  try dsimp only
  repeat' first
    | with_reducible assumption
    | intro _
    | with_reducible apply Keeps.ite
    | with_reducible apply Keeps.foldl
    | with_reducible apply startChainsAt_keeps
    | split
    | with_reducible apply Keeps.fields
    | with_reducible rfl

theorem syncRequest_keeps {s : State} (src : Nat) (tgt : Option Nat) (t : State) (h : Keeps eff s t)   :
    Keeps eff s (syncRequest src tgt t) := by
  delta syncRequest
  try dsimp only
  repeat' first
    | with_reducible assumption
    | intro _
    | with_reducible apply Keeps.ite
    | with_reducible apply Keeps.foldl
    | with_reducible apply State.inc_keeps
    | with_reducible apply State.modCa_keeps
    | split
    | with_reducible apply Keeps.fields
    | with_reducible rfl

theorem syncApplyAt_keeps {s : State} (e : Nat) (m : Nat) (late : Bool) (t : State) (h : Keeps eff s t)   :
    Keeps eff s (syncApplyAt e m late t) := by
  delta syncApplyAt
  try dsimp only
  repeat' first
    | with_reducible assumption
    | intro _
    | with_reducible apply Keeps.ite
    | with_reducible apply Keeps.foldl
    | with_reducible apply State.put_keeps
    | with_reducible apply State.putB_keeps
    | with_reducible apply State.put64_keeps
    | with_reducible apply syncChains_keeps
    | split
    | with_reducible apply Keeps.fields
    | with_reducible rfl

theorem stepSync_keeps {s : State} (t0 : Nat) (d : Int) (t : State) (h : Keeps eff s t)   :
    Keeps eff s (stepSync t0 d t) := by
  delta stepSync
  try dsimp only
  repeat' first
    | with_reducible assumption
    | intro _
    | with_reducible apply Keeps.ite
    | with_reducible apply Keeps.foldl
    | with_reducible apply State.each_keeps
    | with_reducible apply State.setChain_keeps
    | with_reducible apply State.modCa_keeps
    | with_reducible apply rebaseAll_keeps
    | split
    | with_reducible apply Keeps.fields
    | with_reducible rfl

theorem phaseStep_keeps {s : State} (d : Int) (t : State) (h : Keeps eff s t)   :
    Keeps eff s (phaseStep d t) := by
  delta phaseStep
  try dsimp only
  repeat' first
    | with_reducible assumption
    | intro _
    | with_reducible apply Keeps.ite
    | with_reducible apply Keeps.foldl
    | with_reducible apply State.set1_keeps
    | with_reducible apply State.inc_keeps
    | with_reducible apply State.each_keeps
    | with_reducible apply State.when_keeps
    | with_reducible apply State.setChain_keeps
    | with_reducible apply State.modTu_keeps
    | with_reducible apply stepSync_keeps
    | split
    | with_reducible apply Keeps.fields
    | with_reducible rfl

theorem lineSpoil_keeps {s : State} (l : List (Int × Int)) (n : Nat) (t : State) (h : Keeps eff s t)   :
    Keeps eff s (lineSpoil l n t) := by
  delta lineSpoil
  try dsimp only
  repeat' first
    | with_reducible assumption
    | intro _
    | with_reducible apply Keeps.ite
    | with_reducible apply Keeps.foldl
    | with_reducible apply State.setChain_keeps
    | split
    | with_reducible apply Keeps.fields
    | with_reducible rfl

theorem framesBad_keeps {s : State} (t0 : Nat) (l : List (Int × Int)) (t : State) (h : Keeps eff s t)   :
    Keeps eff s (framesBad t0 l t) := by
  delta framesBad
  try dsimp only
  repeat' first
    | with_reducible assumption
    | intro _
    | with_reducible apply Keeps.ite
    | with_reducible apply Keeps.foldl
    | with_reducible apply State.modSv_fields
    | with_reducible apply State.each_keeps
    | with_reducible apply State.modTile_keeps
    | with_reducible apply State.modSv_keeps
    | with_reducible apply lineSpoil_keeps
    | split
    | with_reducible apply Keeps.fields
    | with_reducible rfl

theorem lineFill_keeps {s : State} (n : Nat) (e : Int) (ps : List Period) (t : State) (h : Keeps eff s t)   :
    Keeps eff s (lineFill n e ps t) := by
  delta lineFill
  try dsimp only
  repeat' first
    | with_reducible assumption
    | intro _
    | with_reducible apply Keeps.ite
    | with_reducible apply Keeps.foldl
    | with_reducible apply State.setChain_keeps
    | with_reducible apply framesBad_keeps
    | split
    | with_reducible apply Keeps.fields
    | with_reducible rfl

theorem thEval_keeps {s : State} (n : Nat) (x : Nat) (d : Int) (test : Bool) (t : State) (h : Keeps eff s t)   :
    Keeps eff s (thEval n x d test t).1 := by
  delta thEval
  try dsimp only
  repeat' first
    | with_reducible assumption
    | intro _
    | with_reducible apply Keeps.ite
    | with_reducible apply Keeps.foldl
    | with_reducible apply State.put_keeps
    | with_reducible apply State.set1_keeps
    | with_reducible apply State.putB_keeps
    | split
    | with_reducible apply Keeps.fields
    | with_reducible rfl

theorem thresholds_keeps {s : State} (n : Nat) (d : Int) (test : Bool) (tick : Nat) (t : State) (h : Keeps eff s t)  (h_qmem : eff.qmem = true := by assumption) :
    Keeps eff s (thresholds n d test tick t) := by
  delta thresholds
  try dsimp only
  repeat' first
    | with_reducible assumption
    | intro _
    | with_reducible apply Keeps.ite
    | with_reducible apply Keeps.foldl
    | with_reducible apply raisePennants_keeps
    | with_reducible apply thEval_keeps
    | split
    | with_reducible apply Keeps.fields
    | with_reducible rfl

theorem sampleWrite_keeps {s : State} (n : Nat) (seq : Nat) (tick : Nat) (w0 : Word) (t : State) (h : Keeps eff s t)  (h_qmem : eff.qmem = true := by assumption) :
    Keeps eff s (sampleWrite n seq tick w0 t) := by
  delta sampleWrite
  try dsimp only
  repeat' first
    | with_reducible assumption
    | intro _
    | with_reducible apply Keeps.ite
    | with_reducible apply Keeps.foldl
    | with_reducible apply State.setQueue_keeps
    | with_reducible apply qPushDrop_keeps
    | with_reducible apply dipLevel_keeps
    | split
    | with_reducible apply Keeps.fields
    | with_reducible rfl

theorem noteDigest_keeps {s : State} (n : Nat) (e : Nat) (seq : Nat) (w0 : Word) (t : State) (h : Keeps eff s t)   :
    Keeps eff s (noteDigest n e seq w0 t) := by
  delta noteDigest
  try dsimp only
  repeat' first
    | with_reducible assumption
    | intro _
    | with_reducible apply Keeps.ite
    | with_reducible apply Keeps.foldl
    | with_reducible apply State.modSv_fields
    | with_reducible apply State.modSv_keeps
    | split
    | with_reducible apply Keeps.fields
    | with_reducible rfl

theorem deliver_keeps {s : State} (n : Nat) (e : Nat) (seq : Nat) (x0 : Int) (l : List LPer) (t : State) (h : Keeps eff s t)  (h_qmem : eff.qmem = true := by assumption) :
    Keeps eff s (deliver n e seq x0 l t) := by
  delta deliver
  try dsimp only
  repeat' first
    | with_reducible assumption
    | intro _
    | with_reducible apply Keeps.ite
    | with_reducible apply Keeps.foldl
    | with_reducible apply wr_keeps
    | with_reducible apply State.when_keeps
    | with_reducible apply startStep_keeps
    | with_reducible apply State.setChain_keeps
    | with_reducible apply dipPatch_keeps
    | with_reducible apply thresholds_keeps
    | with_reducible apply sampleWrite_keeps
    | with_reducible apply noteDigest_keeps
    | split
    | with_reducible apply Keeps.fields
    | with_reducible rfl

theorem chainOutput_keeps {s : State} (n : Nat) (ps : List Period) (t : State) (h : Keeps eff s t)  (h_qmem : eff.qmem = true := by assumption) :
    Keeps eff s (chainOutput n ps t) := by
  delta chainOutput
  try dsimp only
  repeat' first
    | with_reducible assumption
    | intro _
    | with_reducible apply Keeps.ite
    | with_reducible apply Keeps.foldl
    | with_reducible apply wr_keeps
    | with_reducible apply State.set1_keeps
    | with_reducible apply State.when_keeps
    | with_reducible apply State.setChain_keeps
    | with_reducible apply takeUp_keeps
    | with_reducible apply lineFill_keeps
    | with_reducible apply deliver_keeps
    | split
    | with_reducible apply Keeps.fields
    | with_reducible rfl

theorem noteRead_keeps {s : State} (r : Req) (a : Nat) (t : State) (h : Keeps eff s t)   :
    Keeps eff s (noteRead r a t) := by
  delta noteRead
  try dsimp only
  repeat' first
    | with_reducible assumption
    | intro _
    | with_reducible apply Keeps.ite
    | with_reducible apply Keeps.foldl
    | with_reducible apply State.put_keeps
    | with_reducible apply State.useFree_keeps
    | split
    | with_reducible apply Keeps.fields
    | with_reducible rfl

theorem countDenied_keeps {s : State} (d : Bool) (t : State) (h : Keeps eff s t)   :
    Keeps eff s (countDenied d t) := by
  delta countDenied
  try dsimp only
  repeat' first
    | with_reducible assumption
    | intro _
    | with_reducible apply Keeps.ite
    | with_reducible apply Keeps.foldl
    | with_reducible apply State.inc_keeps
    | with_reducible apply State.when_keeps
    | split
    | with_reducible apply Keeps.fields
    | with_reducible rfl

theorem regWrite_keeps {s : State} (r : Req) (a : Nat) (m : WMask) (w : Word) (f : Word → State → State) (t : State) (h : Keeps eff s t) (hf : ∀ y0 u, Keeps eff s u → Keeps eff s (f y0 u))  :
    Keeps eff s (regWrite r a m w f t) := by
  delta regWrite
  try dsimp only
  repeat' first
    | with_reducible assumption
    | intro _
    | with_reducible apply Keeps.ite
    | with_reducible apply Keeps.foldl
    | with_reducible apply hf
    | with_reducible apply countDenied_keeps
    | split
    | with_reducible apply Keeps.fields
    | with_reducible rfl

theorem store_keeps {s : State} (a : Nat) (m : WMask) (w : Word) (t : State) (h : Keeps eff s t)   :
    Keeps eff s (store a m w t) := by
  delta store
  try dsimp only
  repeat' first
    | with_reducible assumption
    | intro _
    | with_reducible apply Keeps.ite
    | with_reducible apply Keeps.foldl
    | with_reducible apply wr_keeps
    | split
    | with_reducible apply Keeps.fields
    | with_reducible rfl

theorem State.setWsh_keeps {s : State} (t : State) (r : Nat) (x : WShadow) (h : Keeps eff s t)   :
    Keeps eff s (State.setWsh t r x) := by
  delta State.setWsh
  try dsimp only
  repeat' first
    | with_reducible assumption
    | intro _
    | with_reducible apply Keeps.ite
    | with_reducible apply Keeps.foldl
    | split
    | with_reducible apply Keeps.fields
    | with_reducible rfl

theorem shadowPut_keeps {s : State} (r : Req) (base : Nat) (a : Nat) (w : Word) (t : State) (h : Keeps eff s t)   :
    Keeps eff s (shadowPut r base a w t) := by
  delta shadowPut
  try dsimp only
  repeat' first
    | with_reducible assumption
    | intro _
    | with_reducible apply Keeps.ite
    | with_reducible apply Keeps.foldl
    | with_reducible apply State.setWsh_keeps
    | split
    | with_reducible apply Keeps.fields
    | with_reducible rfl

theorem shadowDrop_keeps {s : State} (r : Req) (t : State) (h : Keeps eff s t)   :
    Keeps eff s (shadowDrop r t) := by
  delta shadowDrop
  try dsimp only
  repeat' first
    | with_reducible assumption
    | intro _
    | with_reducible apply Keeps.ite
    | with_reducible apply Keeps.foldl
    | with_reducible apply State.setWsh_keeps
    | split
    | with_reducible apply Keeps.fields
    | with_reducible rfl

theorem setBank_keeps {s : State} (b : Nat) (v : Nat) (t : State) (h : Keeps eff s t)   :
    Keeps eff s (setBank b v t) := by
  delta setBank
  try dsimp only
  repeat' first
    | with_reducible assumption
    | intro _
    | with_reducible apply Keeps.ite
    | with_reducible apply Keeps.foldl
    | with_reducible apply State.put_keeps
    | with_reducible apply State.putB_keeps
    | with_reducible apply State.setDip_keeps
    | split
    | with_reducible apply Keeps.fields
    | with_reducible rfl

theorem dipRefuse_keeps {s : State} (trig : Nat) (id : Nat) (t : State) (h : Keeps eff s t)  (h_qmem : eff.qmem = true := by assumption) :
    Keeps eff s (dipRefuse trig id t) := by
  delta dipRefuse
  try dsimp only
  repeat' first
    | with_reducible assumption
    | intro _
    | with_reducible apply Keeps.ite
    | with_reducible apply Keeps.foldl
    | with_reducible apply State.inc_keeps
    | with_reducible apply raiseIrq_keeps
    | with_reducible apply raisePennant_keeps
    | split
    | with_reducible apply Keeps.fields
    | with_reducible rfl

theorem dipRequest_keeps {s : State} (trig : Nat) (id : Nat) (tgt : Nat) (t : State) (h : Keeps eff s t)  (h_qmem : eff.qmem = true := by assumption) :
    Keeps eff s (dipRequest trig id tgt t) := by
  delta dipRequest
  try dsimp only
  repeat' first
    | with_reducible assumption
    | intro _
    | with_reducible apply Keeps.ite
    | with_reducible apply Keeps.foldl
    | with_reducible apply State.put_keeps
    | with_reducible apply State.inc_keeps
    | with_reducible apply State.setDip_keeps
    | with_reducible apply setBank_keeps
    | with_reducible apply dipRefuse_keeps
    | split
    | with_reducible apply Keeps.fields
    | with_reducible rfl

theorem countOn_keeps {s : State} (n : Nat) (t : State) (h : Keeps eff s t)   :
    Keeps eff s (countOn n t) := by
  delta countOn
  try dsimp only
  repeat' first
    | with_reducible assumption
    | intro _
    | with_reducible apply Keeps.ite
    | with_reducible apply Keeps.foldl
    | with_reducible apply State.addSat_keeps
    | with_reducible apply State.modCh_keeps
    | split
    | with_reducible apply Keeps.fields
    | with_reducible rfl

theorem latchBank_keeps {s : State} (b : Nat) (t : State) (h : Keeps eff s t)   :
    Keeps eff s (latchBank b t) := by
  delta latchBank
  try dsimp only
  repeat' first
    | with_reducible assumption
    | intro _
    | with_reducible apply Keeps.ite
    | with_reducible apply Keeps.foldl
    | with_reducible apply State.setDip_keeps
    | split
    | with_reducible apply Keeps.fields
    | with_reducible rfl

theorem dipEdge_keeps {s : State} (n : Nat) (ts : Nat) (t : State) (h : Keeps eff s t)   :
    Keeps eff s (dipEdge n ts t) := by
  delta dipEdge
  try dsimp only
  repeat' first
    | with_reducible assumption
    | intro _
    | with_reducible apply Keeps.ite
    | with_reducible apply Keeps.foldl
    | with_reducible apply dipPatch_keeps
    | split
    | with_reducible apply Keeps.fields
    | with_reducible rfl

theorem holdBank_keeps {s : State} (b : Nat) (t : State) (h : Keeps eff s t)  (h_qmem : eff.qmem = true := by assumption) :
    Keeps eff s (holdBank b t) := by
  delta holdBank
  try dsimp only
  repeat' first
    | with_reducible assumption
    | intro _
    | with_reducible apply Keeps.ite
    | with_reducible apply Keeps.foldl
    | with_reducible apply raiseIrq_keeps
    | with_reducible apply State.setDip_keeps
    | with_reducible apply raisePennant_keeps
    | with_reducible apply setBank_keeps
    | split
    | with_reducible apply Keeps.fields
    | with_reducible rfl

theorem releaseBank_keeps {s : State} (b : Nat) (t : State) (h : Keeps eff s t)   :
    Keeps eff s (releaseBank b t) := by
  delta releaseBank
  try dsimp only
  repeat' first
    | with_reducible assumption
    | intro _
    | with_reducible apply Keeps.ite
    | with_reducible apply Keeps.foldl
    | with_reducible apply setBank_keeps
    | split
    | with_reducible apply Keeps.fields
    | with_reducible rfl

theorem modDipWrite_keeps {s : State} (w : Word) (t : State) (h : Keeps eff s t)  (h_qmem : eff.qmem = true := by assumption) :
    Keeps eff s (modDipWrite w t) := by
  delta modDipWrite
  try dsimp only
  repeat' first
    | with_reducible assumption
    | intro _
    | with_reducible apply Keeps.ite
    | with_reducible apply Keeps.foldl
    | with_reducible apply State.putB_keeps
    | with_reducible apply store_keeps
    | with_reducible apply dipRequest_keeps
    | split
    | with_reducible apply Keeps.fields
    | with_reducible rfl

theorem dipLatch_keeps {s : State} (b : Nat) (t : State) (h : Keeps eff s t)   :
    Keeps eff s (dipLatch b t) := by
  delta dipLatch
  try dsimp only
  repeat' first
    | with_reducible assumption
    | intro _
    | with_reducible apply Keeps.ite
    | with_reducible apply Keeps.foldl
    | with_reducible apply latchBank_keeps
    | split
    | with_reducible apply Keeps.fields
    | with_reducible rfl

theorem dipStatWrite_keeps {s : State} (w : Word) (t : State) (h : Keeps eff s t)   :
    Keeps eff s (dipStatWrite w t) := by
  delta dipStatWrite
  try dsimp only
  repeat' first
    | with_reducible assumption
    | intro _
    | with_reducible apply Keeps.ite
    | with_reducible apply Keeps.foldl
    | with_reducible apply State.put_keeps
    | with_reducible apply State.when_keeps
    | with_reducible apply releaseBank_keeps
    | split
    | with_reducible apply Keeps.fields
    | with_reducible rfl

theorem doRefresh1_keeps {s : State} (n : Nat) (t : State) (h : Keeps eff s t)   :
    Keeps eff s (doRefresh1 n t) := by
  delta doRefresh1
  try dsimp only
  repeat' first
    | with_reducible assumption
    | intro _
    | with_reducible apply Keeps.ite
    | with_reducible apply Keeps.foldl
    | with_reducible apply State.putB_keeps
    | with_reducible apply State.modCh_keeps
    | with_reducible apply diagClear_keeps
    | with_reducible apply countOn_keeps
    | split
    | with_reducible apply Keeps.fields
    | with_reducible rfl

theorem doRefresh_keeps {s : State} (n : Nat) (t : State) (h : Keeps eff s t)   :
    Keeps eff s (doRefresh n t) := by
  delta doRefresh
  try dsimp only
  repeat' first
    | with_reducible assumption
    | intro _
    | with_reducible apply Keeps.ite
    | with_reducible apply Keeps.foldl
    | with_reducible apply doRefresh1_keeps
    | split
    | with_reducible apply Keeps.fields
    | with_reducible rfl

theorem calLose_keeps {s : State} (t0 : Nat) (t : State) (h : Keeps eff s t)   :
    Keeps eff s (calLose t0 t) := by
  delta calLose
  try dsimp only
  repeat' first
    | with_reducible assumption
    | intro _
    | with_reducible apply Keeps.ite
    | with_reducible apply Keeps.foldl
    | with_reducible apply State.modCa_keeps
    | split
    | with_reducible apply Keeps.fields
    | with_reducible rfl

theorem aoSend_keeps {s : State} (n : Nat) (t : State) (h : Keeps eff s t)   :
    Keeps eff s (aoSend n t) := by
  delta aoSend
  try dsimp only
  repeat' first
    | with_reducible assumption
    | intro _
    | with_reducible apply Keeps.ite
    | with_reducible apply Keeps.foldl
    | with_reducible apply State.modCh_keeps
    | split
    | with_reducible apply Keeps.fields
    | with_reducible rfl

theorem anRefresh_keeps {s : State} (n : Nat) (t : State) (h : Keeps eff s t)   :
    Keeps eff s (anRefresh n t) := by
  delta anRefresh
  try dsimp only
  repeat' first
    | with_reducible assumption
    | intro _
    | with_reducible apply Keeps.ite
    | with_reducible apply Keeps.foldl
    | with_reducible apply State.putB_keeps
    | with_reducible apply noteMarks_keeps
    | split
    | with_reducible apply Keeps.fields
    | with_reducible rfl

theorem tileRefresh_keeps {s : State} (t0 : Nat) (t : State) (h : Keeps eff s t)   :
    Keeps eff s (tileRefresh t0 t) := by
  delta tileRefresh
  try dsimp only
  repeat' first
    | with_reducible assumption
    | intro _
    | with_reducible apply Keeps.ite
    | with_reducible apply Keeps.foldl
    | with_reducible apply State.each_keeps
    | with_reducible apply doRefresh1_keeps
    | with_reducible apply anRefresh_keeps
    | split
    | with_reducible apply Keeps.fields
    | with_reducible rfl

theorem captureHeld_keeps {s : State} (t0 : Nat) (t : State) (h : Keeps eff s t)   :
    Keeps eff s (captureHeld t0 t) := by
  delta captureHeld
  try dsimp only
  repeat' first
    | with_reducible assumption
    | intro _
    | with_reducible apply Keeps.ite
    | with_reducible apply Keeps.foldl
    | with_reducible apply State.each_keeps
    | with_reducible apply State.modCh_keeps
    | split
    | with_reducible apply Keeps.fields
    | with_reducible rfl

theorem safeRefresh_keeps {s : State} (t0 : Nat) (t : State) (h : Keeps eff s t)   :
    Keeps eff s (safeRefresh t0 t) := by
  delta safeRefresh
  try dsimp only
  repeat' first
    | with_reducible assumption
    | intro _
    | with_reducible apply Keeps.ite
    | with_reducible apply Keeps.foldl
    | with_reducible apply State.putB_keeps
    | with_reducible apply tileRefresh_keeps
    | with_reducible apply captureHeld_keeps
    | split
    | with_reducible apply Keeps.fields
    | with_reducible rfl

theorem allTiles_keeps {s : State} (f : Nat → State → State) (t : State) (h : Keeps eff s t) (hf : ∀ y0 u, Keeps eff s u → Keeps eff s (f y0 u))  :
    Keeps eff s (allTiles f t) := by
  delta allTiles
  try dsimp only
  repeat' first
    | with_reducible assumption
    | intro _
    | with_reducible apply Keeps.ite
    | with_reducible apply Keeps.foldl
    | with_reducible apply hf
    | with_reducible apply State.each_keeps
    | split
    | with_reducible apply Keeps.fields
    | with_reducible rfl

theorem pairConflict_keeps {s : State} (n : Nat) (t : State) (h : Keeps eff s t)  (h_qmem : eff.qmem = true := by assumption) :
    Keeps eff s (pairConflict n t) := by
  delta pairConflict
  try dsimp only
  repeat' first
    | with_reducible assumption
    | intro _
    | with_reducible apply Keeps.ite
    | with_reducible apply Keeps.foldl
    | with_reducible apply diagLatch_keeps
    | split
    | with_reducible apply Keeps.fields
    | with_reducible rfl

theorem doSet1_keeps {s : State} (n : Nat) (on : Bool) (t : State) (h : Keeps eff s t)   :
    Keeps eff s (doSet1 n on t) := by
  delta doSet1
  try dsimp only
  repeat' first
    | with_reducible assumption
    | intro _
    | with_reducible apply Keeps.ite
    | with_reducible apply Keeps.foldl
    | with_reducible apply State.putB_keeps
    | with_reducible apply State.inc_keeps
    | with_reducible apply State.modCh_keeps
    | with_reducible apply diagClear_keeps
    | split
    | with_reducible apply Keeps.fields
    | with_reducible rfl

theorem doCmd_keeps {s : State} (n : Nat) (on : Bool) (t : State) (h : Keeps eff s t)  (h_qmem : eff.qmem = true := by assumption) :
    Keeps eff s (doCmd n on t) := by
  delta doCmd
  try dsimp only
  repeat' first
    | with_reducible assumption
    | intro _
    | with_reducible apply Keeps.ite
    | with_reducible apply Keeps.foldl
    | with_reducible apply doRefresh_keeps
    | with_reducible apply pairConflict_keeps
    | with_reducible apply doSet1_keeps
    | split
    | with_reducible apply Keeps.fields
    | with_reducible rfl

theorem countShutdown_keeps {s : State} (n : Nat) (t : State) (h : Keeps eff s t)   :
    Keeps eff s (countShutdown n t) := by
  delta countShutdown
  try dsimp only
  repeat' first
    | with_reducible assumption
    | intro _
    | with_reducible apply Keeps.ite
    | with_reducible apply Keeps.foldl
    | with_reducible apply State.modCh_keeps
    | split
    | with_reducible apply Keeps.fields
    | with_reducible rfl

theorem onTimeWrite_keeps {s : State} (n : Nat) (w : Word) (t : State) (h : Keeps eff s t)   :
    Keeps eff s (onTimeWrite n w t) := by
  delta onTimeWrite
  try dsimp only
  repeat' first
    | with_reducible assumption
    | intro _
    | with_reducible apply Keeps.ite
    | with_reducible apply Keeps.foldl
    | with_reducible apply wr_keeps
    | with_reducible apply State.modCh_keeps
    | split
    | with_reducible apply Keeps.fields
    | with_reducible rfl

theorem clampSumWrite_keeps {s : State} (n : Nat) (w : Word) (t : State) (h : Keeps eff s t)   :
    Keeps eff s (clampSumWrite n w t) := by
  delta clampSumWrite
  try dsimp only
  repeat' first
    | with_reducible assumption
    | intro _
    | with_reducible apply Keeps.ite
    | with_reducible apply Keeps.foldl
    | with_reducible apply wr_keeps
    | with_reducible apply State.modCh_keeps
    | split
    | with_reducible apply Keeps.fields
    | with_reducible rfl

theorem diagWrite_keeps {s : State} (n : Nat) (w : Word) (t : State) (h : Keeps eff s t)   :
    Keeps eff s (diagWrite n w t) := by
  delta diagWrite
  try dsimp only
  repeat' first
    | with_reducible assumption
    | intro _
    | with_reducible apply Keeps.ite
    | with_reducible apply Keeps.foldl
    | with_reducible apply State.put_keeps
    | with_reducible apply diagClear_keeps
    | with_reducible apply doRefresh_keeps
    | split
    | with_reducible apply Keeps.fields
    | with_reducible rfl

theorem diCount_keeps {s : State} (n : Nat) (up : Bool) (ts : Nat) (t : State) (h : Keeps eff s t)   :
    Keeps eff s (diCount n up ts t) := by
  delta diCount
  try dsimp only
  repeat' first
    | with_reducible assumption
    | intro _
    | with_reducible apply Keeps.ite
    | with_reducible apply Keeps.foldl
    | with_reducible apply wr_keeps
    | with_reducible apply State.put_keeps
    | with_reducible apply State.set1_keeps
    | with_reducible apply State.incWrap_keeps
    | with_reducible apply State.put64_keeps
    | with_reducible apply State.modCh_keeps
    | split
    | with_reducible apply Keeps.fields
    | with_reducible rfl

theorem bucketStart_keeps {s : State} (n : Nat) (t : State) (h : Keeps eff s t)   :
    Keeps eff s (bucketStart n t) := by
  delta bucketStart
  try dsimp only
  repeat' first
    | with_reducible assumption
    | intro _
    | with_reducible apply Keeps.ite
    | with_reducible apply Keeps.foldl
    | with_reducible apply State.modCh_keeps
    | split
    | with_reducible apply Keeps.fields
    | with_reducible rfl

theorem diEvent_keeps {s : State} (n : Nat) (up : Bool) (ts : Nat) (t : State) (h : Keeps eff s t)  (h_qmem : eff.qmem = true := by assumption) :
    Keeps eff s (diEvent n up ts t).1 := by
  delta diEvent
  try dsimp only
  repeat' first
    | with_reducible assumption
    | intro _
    | with_reducible apply Keeps.ite
    | with_reducible apply Keeps.foldl
    | with_reducible apply State.setCh_keeps
    | with_reducible apply writePen_keeps
    | split
    | with_reducible apply Keeps.fields
    | with_reducible rfl

theorem diEdge_keeps {s : State} (n : Nat) (up : Bool) (ts : Nat) (t : State) (h : Keeps eff s t)  (h_qmem : eff.qmem = true := by assumption) :
    Keeps eff s (diEdge n up ts t).1 := by
  delta diEdge
  try dsimp only
  repeat' first
    | with_reducible assumption
    | intro _
    | with_reducible apply Keeps.ite
    | with_reducible apply Keeps.foldl
    | with_reducible apply State.putB_keeps
    | with_reducible apply State.modCh_keeps
    | with_reducible apply dipEdge_keeps
    | with_reducible apply diCount_keeps
    | with_reducible apply diEvent_keeps
    | split
    | with_reducible apply Keeps.fields
    | with_reducible rfl

theorem diCfgWrite_keeps {s : State} (n : Nat) (w : Word) (t : State) (h : Keeps eff s t)   :
    Keeps eff s (diCfgWrite n w t) := by
  delta diCfgWrite
  try dsimp only
  repeat' first
    | with_reducible assumption
    | intro _
    | with_reducible apply Keeps.ite
    | with_reducible apply Keeps.foldl
    | with_reducible apply State.modCh_keeps
    | with_reducible apply store_keeps
    | split
    | with_reducible apply Keeps.fields
    | with_reducible rfl

theorem diPeriodSat_keeps {s : State} (n : Nat) (t : State) (h : Keeps eff s t)   :
    Keeps eff s (diPeriodSat n t) := by
  delta diPeriodSat
  try dsimp only
  repeat' first
    | with_reducible assumption
    | intro _
    | with_reducible apply Keeps.ite
    | with_reducible apply Keeps.foldl
    | with_reducible apply wr_keeps
    | with_reducible apply State.set1_keeps
    | split
    | with_reducible apply Keeps.fields
    | with_reducible rfl

theorem diSample1_keeps {s : State} (n : Nat) (raw : Bool) (t : State) (h : Keeps eff s t)  (h_qmem : eff.qmem = true := by assumption) :
    Keeps eff s (diSample1 n raw t).1 := by
  delta diSample1
  try dsimp only
  repeat' first
    | with_reducible assumption
    | intro _
    | with_reducible apply Keeps.ite
    | with_reducible apply Keeps.foldl
    | with_reducible apply State.putB_keeps
    | with_reducible apply State.modCh_keeps
    | with_reducible apply diPeriodSat_keeps
    | with_reducible apply diEdge_keeps
    | split
    | with_reducible apply Keeps.fields
    | with_reducible rfl

theorem diSamples_keeps {s : State} (t : Nat) (raw : BitVec 8) (l : List Nat) (p : State × List Trig) (h : Keeps eff s p.1)
    (h_qmem : eff.qmem = true := by assumption) :
    Keeps eff s (diSamples t raw l p).1 := by
  induction l generalizing p with
  | nil => exact h
  | cons k l ih => exact ih _ (diSample1_keeps _ _ _ h)

theorem diEvWrite_keeps {s : State} (n : Nat) (w : Word) (t : State) (h : Keeps eff s t)   :
    Keeps eff s (diEvWrite n w t) := by
  delta diEvWrite
  try dsimp only
  repeat' first
    | with_reducible assumption
    | intro _
    | with_reducible apply Keeps.ite
    | with_reducible apply Keeps.foldl
    | with_reducible apply store_keeps
    | with_reducible apply bucketStart_keeps
    | split
    | with_reducible apply Keeps.fields
    | with_reducible rfl

theorem tileSafeWrite_keeps {s : State} (t0 : Nat) (w : Word) (t : State) (h : Keeps eff s t)   :
    Keeps eff s (tileSafeWrite t0 w t) := by
  delta tileSafeWrite
  try dsimp only
  repeat' first
    | with_reducible assumption
    | intro _
    | with_reducible apply Keeps.ite
    | with_reducible apply Keeps.foldl
    | with_reducible apply store_keeps
    | with_reducible apply safeRefresh_keeps
    | split
    | with_reducible apply Keeps.fields
    | with_reducible rfl

theorem tileCfgWrite_keeps {s : State} (t0 : Nat) (w : Word) (t : State) (h : Keeps eff s t)   :
    Keeps eff s (tileCfgWrite t0 w t) := by
  delta tileCfgWrite
  try dsimp only
  repeat' first
    | with_reducible assumption
    | intro _
    | with_reducible apply Keeps.ite
    | with_reducible apply Keeps.foldl
    | with_reducible apply State.put_keeps
    | with_reducible apply State.putB_keeps
    | split
    | with_reducible apply Keeps.fields
    | with_reducible rfl

theorem doCfgWrite_keeps {s : State} (n : Nat) (w : Word) (t : State) (h : Keeps eff s t)   :
    Keeps eff s (doCfgWrite n w t) := by
  delta doCfgWrite
  try dsimp only
  repeat' first
    | with_reducible assumption
    | intro _
    | with_reducible apply Keeps.ite
    | with_reducible apply Keeps.foldl
    | with_reducible apply State.put_keeps
    | with_reducible apply State.putB_keeps
    | with_reducible apply store_keeps
    | with_reducible apply doRefresh_keeps
    | split
    | with_reducible apply Keeps.fields
    | with_reducible rfl

theorem aoSet_keeps {s : State} (n : Nat) (v : Nat) (t : State) (h : Keeps eff s t)   :
    Keeps eff s (aoSet n v t) := by
  delta aoSet
  try dsimp only
  repeat' first
    | with_reducible assumption
    | intro _
    | with_reducible apply Keeps.ite
    | with_reducible apply Keeps.foldl
    | with_reducible apply State.put_keeps
    | with_reducible apply State.putB_keeps
    | with_reducible apply State.modCh_keeps
    | with_reducible apply aoSend_keeps
    | split
    | with_reducible apply Keeps.fields
    | with_reducible rfl

theorem aoTrimWrite_keeps {s : State} (n : Nat) (w : Word) (t : State) (h : Keeps eff s t)   :
    Keeps eff s (aoTrimWrite n w t) := by
  delta aoTrimWrite
  try dsimp only
  repeat' first
    | with_reducible assumption
    | intro _
    | with_reducible apply Keeps.ite
    | with_reducible apply Keeps.foldl
    | with_reducible apply store_keeps
    | with_reducible apply aoSend_keeps
    | split
    | with_reducible apply Keeps.fields
    | with_reducible rfl

theorem aoSafeWrite_keeps {s : State} (n : Nat) (w : Word) (t : State) (h : Keeps eff s t)   :
    Keeps eff s (aoSafeWrite n w t) := by
  delta aoSafeWrite
  try dsimp only
  repeat' first
    | with_reducible assumption
    | intro _
    | with_reducible apply Keeps.ite
    | with_reducible apply Keeps.foldl
    | with_reducible apply State.put_keeps
    | with_reducible apply State.modCh_keeps
    | split
    | with_reducible apply Keeps.fields
    | with_reducible rfl

theorem setInject_keeps {s : State} (n : Nat) (on : Bool) (t : State) (h : Keeps eff s t)   :
    Keeps eff s (setInject n on t) := by
  delta setInject
  try dsimp only
  repeat' first
    | with_reducible assumption
    | intro _
    | with_reducible apply Keeps.ite
    | with_reducible apply Keeps.foldl
    | with_reducible apply State.putB_keeps
    | with_reducible apply discont_keeps
    | with_reducible apply noteMarks_keeps
    | split
    | with_reducible apply Keeps.fields
    | with_reducible rfl

theorem anInjWrite_keeps {s : State} (n : Nat) (on : Bool) (t : State) (h : Keeps eff s t)   :
    Keeps eff s (anInjWrite n on t) := by
  delta anInjWrite
  try dsimp only
  repeat' first
    | with_reducible assumption
    | intro _
    | with_reducible apply Keeps.ite
    | with_reducible apply Keeps.foldl
    | with_reducible apply State.set1_keeps
    | with_reducible apply setInject_keeps
    | split
    | with_reducible apply Keeps.fields
    | with_reducible rfl

theorem changeMode_keeps {s : State} (n : Nat) (m : Nat) (t : State) (h : Keeps eff s t)   :
    Keeps eff s (changeMode n m t) := by
  delta changeMode
  try dsimp only
  repeat' first
    | with_reducible assumption
    | intro _
    | with_reducible apply Keeps.ite
    | with_reducible apply Keeps.foldl
    | with_reducible apply State.put_keeps
    | with_reducible apply State.set1_keeps
    | with_reducible apply discont_keeps
    | with_reducible apply anRefresh_keeps
    | split
    | with_reducible apply Keeps.fields
    | with_reducible rfl

theorem anCfgWrite_keeps {s : State} (n : Nat) (w : Word) (t : State) (h : Keeps eff s t)   :
    Keeps eff s (anCfgWrite n w t) := by
  delta anCfgWrite
  try dsimp only
  repeat' first
    | with_reducible assumption
    | intro _
    | with_reducible apply Keeps.ite
    | with_reducible apply Keeps.foldl
    | with_reducible apply State.modCh_keeps
    | with_reducible apply store_keeps
    | with_reducible apply anRefresh_keeps
    | with_reducible apply changeMode_keeps
    | split
    | with_reducible apply Keeps.fields
    | with_reducible rfl

theorem tdacWrite_keeps {s : State} (t0 : Nat) (w : Word) (t : State) (h : Keeps eff s t)   :
    Keeps eff s (tdacWrite t0 w t) := by
  delta tdacWrite
  try dsimp only
  repeat' first
    | with_reducible assumption
    | intro _
    | with_reducible apply Keeps.ite
    | with_reducible apply Keeps.foldl
    | with_reducible apply State.put_keeps
    | with_reducible apply State.set1_keeps
    | split
    | with_reducible apply Keeps.fields
    | with_reducible rfl

theorem setRate_keeps {s : State} (r : Int) (t : State) (h : Keeps eff s t)   :
    Keeps eff s (setRate r t) := by
  delta setRate
  try dsimp only
  repeat' first
    | with_reducible assumption
    | intro _
    | with_reducible apply Keeps.ite
    | with_reducible apply Keeps.foldl
    | with_reducible apply State.put_keeps
    | with_reducible apply State.putB_keeps
    | split
    | with_reducible apply Keeps.fields
    | with_reducible rfl

theorem clockEdge_keeps {s : State} (t : State) (h : Keeps eff s t)   :
    Keeps eff s (clockEdge t) := by
  delta clockEdge
  try dsimp only
  repeat' first
    | with_reducible assumption
    | intro _
    | with_reducible apply Keeps.ite
    | with_reducible apply Keeps.foldl
    | with_reducible apply State.modTu_keeps
    | with_reducible apply dipLatch_keeps
    | split
    | with_reducible apply Keeps.fields
    | with_reducible rfl

theorem tuRateWrite_keeps {s : State} (w : Word) (t : State) (h : Keeps eff s t)   :
    Keeps eff s (tuRateWrite w t) := by
  delta tuRateWrite
  try dsimp only
  repeat' first
    | with_reducible assumption
    | intro _
    | with_reducible apply Keeps.ite
    | with_reducible apply Keeps.foldl
    | with_reducible apply State.set1_keeps
    | with_reducible apply setRate_keeps
    | split
    | with_reducible apply Keeps.fields
    | with_reducible rfl

theorem hostStep_keeps {s : State} (d : Int) (t : State) (h : Keeps eff s t)   :
    Keeps eff s (hostStep d t) := by
  delta hostStep
  try dsimp only
  repeat' first
    | with_reducible assumption
    | intro _
    | with_reducible apply Keeps.ite
    | with_reducible apply Keeps.foldl
    | with_reducible apply State.modTu_keeps
    | with_reducible apply phaseStep_keeps
    | split
    | with_reducible apply Keeps.fields
    | with_reducible rfl

theorem tuStepWrite_keeps {s : State} (w : Word) (t : State) (h : Keeps eff s t)   :
    Keeps eff s (tuStepWrite w t) := by
  delta tuStepWrite
  try dsimp only
  repeat' first
    | with_reducible assumption
    | intro _
    | with_reducible apply Keeps.ite
    | with_reducible apply Keeps.foldl
    | with_reducible apply State.set1_keeps
    | with_reducible apply hostStep_keeps
    | split
    | with_reducible apply Keeps.fields
    | with_reducible rfl

theorem tuSetCommit_keeps {s : State} (v : Nat) (t : State) (h : Keeps eff s t)   :
    Keeps eff s (tuSetCommit v t) := by
  delta tuSetCommit
  try dsimp only
  repeat' first
    | with_reducible assumption
    | intro _
    | with_reducible apply Keeps.ite
    | with_reducible apply Keeps.foldl
    | with_reducible apply State.set1_keeps
    | with_reducible apply State.put64_keeps
    | with_reducible apply hostStep_keeps
    | split
    | with_reducible apply Keeps.fields
    | with_reducible rfl

theorem tuSource_keeps {s : State} (src : Nat) (t : State) (h : Keeps eff s t)   :
    Keeps eff s (tuSource src t) := by
  delta tuSource
  try dsimp only
  repeat' first
    | with_reducible assumption
    | intro _
    | with_reducible apply Keeps.ite
    | with_reducible apply Keeps.foldl
    | with_reducible apply State.put_keeps
    | with_reducible apply State.modTu_keeps
    | split
    | with_reducible apply Keeps.fields
    | with_reducible rfl

theorem tuSrcWrite_keeps {s : State} (w : Word) (t : State) (h : Keeps eff s t)   :
    Keeps eff s (tuSrcWrite w t) := by
  delta tuSrcWrite
  try dsimp only
  repeat' first
    | with_reducible assumption
    | intro _
    | with_reducible apply Keeps.ite
    | with_reducible apply Keeps.foldl
    | with_reducible apply store_keeps
    | with_reducible apply tuSource_keeps
    | split
    | with_reducible apply Keeps.fields
    | with_reducible rfl

theorem servoState_keeps {s : State} (off : Int) (t : State) (h : Keeps eff s t)   :
    Keeps eff s (servoState off t) := by
  delta servoState
  try dsimp only
  repeat' first
    | with_reducible assumption
    | intro _
    | with_reducible apply Keeps.ite
    | with_reducible apply Keeps.foldl
    | with_reducible apply State.put_keeps
    | with_reducible apply State.modTu_keeps
    | split
    | with_reducible apply Keeps.fields
    | with_reducible rfl

theorem servo_keeps {s : State} (off : Int) (dt : Option Int) (master : Bool) (t : State) (h : Keeps eff s t)   :
    Keeps eff s (servo off dt master t) := by
  delta servo
  try dsimp only
  repeat' first
    | with_reducible assumption
    | intro _
    | with_reducible apply Keeps.ite
    | with_reducible apply Keeps.foldl
    | with_reducible apply State.put_keeps
    | with_reducible apply State.set1_keeps
    | with_reducible apply State.when_keeps
    | with_reducible apply State.modTu_keeps
    | with_reducible apply phaseStep_keeps
    | with_reducible apply setRate_keeps
    | with_reducible apply servoState_keeps
    | split
    | with_reducible apply Keeps.fields
    | with_reducible rfl

theorem holdover_keeps {s : State} (t : State) (h : Keeps eff s t)   :
    Keeps eff s (holdover t) := by
  delta holdover
  try dsimp only
  repeat' first
    | with_reducible assumption
    | intro _
    | with_reducible apply Keeps.ite
    | with_reducible apply Keeps.foldl
    | with_reducible apply State.put_keeps
    | with_reducible apply State.modTu_keeps
    | with_reducible apply setRate_keeps
    | split
    | with_reducible apply Keeps.fields
    | with_reducible rfl

theorem canRef_keeps {s : State} (seq : Nat) (stamp : Option Nat) (f : Nat) (t : State) (h : Keeps eff s t)   :
    Keeps eff s (canRef seq stamp f t) := by
  delta canRef
  try dsimp only
  repeat' first
    | with_reducible assumption
    | intro _
    | with_reducible apply Keeps.ite
    | with_reducible apply Keeps.foldl
    | with_reducible apply State.put_keeps
    | with_reducible apply State.inc_keeps
    | with_reducible apply State.modTu_keeps
    | with_reducible apply servo_keeps
    | split
    | with_reducible apply Keeps.fields
    | with_reducible rfl

theorem ringSample_keeps {s : State} (off : Int) (tx : Nat) (t : State) (h : Keeps eff s t)   :
    Keeps eff s (ringSample off tx t) := by
  delta ringSample
  try dsimp only
  repeat' first
    | with_reducible assumption
    | intro _
    | with_reducible apply Keeps.ite
    | with_reducible apply Keeps.foldl
    | with_reducible apply State.inc_keeps
    | with_reducible apply State.modTu_keeps
    | with_reducible apply servo_keeps
    | with_reducible apply holdover_keeps
    | split
    | with_reducible apply Keeps.fields
    | with_reducible rfl

theorem ringMeasured_keeps {s : State} (t : State) (h : Keeps eff s t)   :
    Keeps eff s (ringMeasured t) := by
  delta ringMeasured
  try dsimp only
  repeat' first
    | with_reducible assumption
    | intro _
    | with_reducible apply Keeps.ite
    | with_reducible apply Keeps.foldl
    | with_reducible apply State.put_keeps
    | with_reducible apply State.modTu_keeps
    | split
    | with_reducible apply Keeps.fields
    | with_reducible rfl

theorem schRecompute_keeps {s : State} (j : Nat) (t : State) (h : Keeps eff s t)   :
    Keeps eff s (schRecompute j t) := by
  delta schRecompute
  try dsimp only
  repeat' first
    | with_reducible assumption
    | intro _
    | with_reducible apply Keeps.ite
    | with_reducible apply Keeps.foldl
    | with_reducible apply State.putB_keeps
    | with_reducible apply State.put64_keeps
    | split
    | with_reducible apply Keeps.fields
    | with_reducible rfl

theorem schCfgWrite_keeps {s : State} (j : Nat) (w : Word) (t : State) (h : Keeps eff s t)   :
    Keeps eff s (schCfgWrite j w t) := by
  delta schCfgWrite
  try dsimp only
  repeat' first
    | with_reducible assumption
    | intro _
    | with_reducible apply Keeps.ite
    | with_reducible apply Keeps.foldl
    | with_reducible apply store_keeps
    | with_reducible apply schRecompute_keeps
    | split
    | with_reducible apply Keeps.fields
    | with_reducible rfl

theorem schCommit_keeps {s : State} (a : Nat) (j : Nat) (v : Nat) (t : State) (h : Keeps eff s t)   :
    Keeps eff s (schCommit a j v t) := by
  delta schCommit
  try dsimp only
  repeat' first
    | with_reducible assumption
    | intro _
    | with_reducible apply Keeps.ite
    | with_reducible apply Keeps.foldl
    | with_reducible apply State.put64_keeps
    | with_reducible apply schRecompute_keeps
    | split
    | with_reducible apply Keeps.fields
    | with_reducible rfl

theorem tokenAct_keeps {s : State} (k : Token) (t : State) (h : Keeps eff s t)  (h_qmem : eff.qmem = true := by assumption) :
    Keeps eff s (tokenAct k t) := by
  delta tokenAct
  try dsimp only
  repeat' first
    | with_reducible assumption
    | intro _
    | with_reducible apply Keeps.ite
    | with_reducible apply Keeps.foldl
    | with_reducible apply State.put_keeps
    | with_reducible apply State.inc_keeps
    | with_reducible apply State.modTu_keeps
    | with_reducible apply syncRequest_keeps
    | with_reducible apply dipRequest_keeps
    | split
    | with_reducible apply Keeps.fields
    | with_reducible rfl

theorem tokenSend_keeps {s : State} (k : Token) (t : State) (h : Keeps eff s t)  (h_qmem : eff.qmem = true := by assumption) :
    Keeps eff s (tokenSend k t) := by
  delta tokenSend
  try dsimp only
  repeat' first
    | with_reducible assumption
    | intro _
    | with_reducible apply Keeps.ite
    | with_reducible apply Keeps.foldl
    | with_reducible apply State.modTu_keeps
    | with_reducible apply tokenAct_keeps
    | split
    | with_reducible apply Keeps.fields
    | with_reducible rfl

theorem tuTokenWrite_keeps {s : State} (w : Word) (t : State) (h : Keeps eff s t)  (h_qmem : eff.qmem = true := by assumption) :
    Keeps eff s (tuTokenWrite w t) := by
  delta tuTokenWrite
  try dsimp only
  repeat' first
    | with_reducible assumption
    | intro _
    | with_reducible apply Keeps.ite
    | with_reducible apply Keeps.foldl
    | with_reducible apply tokenSend_keeps
    | split
    | with_reducible apply Keeps.fields
    | with_reducible rfl

theorem tokenReceive_keeps {s : State} (k : Token) (t : State) (h : Keeps eff s t)  (h_qmem : eff.qmem = true := by assumption) :
    Keeps eff s (tokenReceive k t) := by
  delta tokenReceive
  try dsimp only
  repeat' first
    | with_reducible assumption
    | intro _
    | with_reducible apply Keeps.ite
    | with_reducible apply Keeps.foldl
    | with_reducible apply State.inc_keeps
    | with_reducible apply tokenAct_keeps
    | split
    | with_reducible apply Keeps.fields
    | with_reducible rfl

theorem tuCanCfgWrite_keeps {s : State} (w : Word) (t : State) (h : Keeps eff s t)   :
    Keeps eff s (tuCanCfgWrite w t) := by
  delta tuCanCfgWrite
  try dsimp only
  repeat' first
    | with_reducible assumption
    | intro _
    | with_reducible apply Keeps.ite
    | with_reducible apply Keeps.foldl
    | with_reducible apply State.put_keeps
    | with_reducible apply State.putB_keeps
    | with_reducible apply State.modTu_keeps
    | with_reducible apply store_keeps
    | split
    | with_reducible apply Keeps.fields
    | with_reducible rfl

theorem cvRefuse_keeps {s : State} (u : Nat) (reason : Nat) (t : State) (h : Keeps eff s t)   :
    Keeps eff s (cvRefuse u reason t) := by
  delta cvRefuse
  try dsimp only
  repeat' first
    | with_reducible assumption
    | intro _
    | with_reducible apply Keeps.ite
    | with_reducible apply Keeps.foldl
    | with_reducible apply State.put_keeps
    | with_reducible apply State.set1_keeps
    | split
    | with_reducible apply Keeps.fields
    | with_reducible rfl

theorem cvTake_keeps {s : State} (u : Nat) (h1 : CvHold) (t : State) (h : Keeps eff s t)   :
    Keeps eff s (cvTake u h1 t) := by
  delta cvTake
  try dsimp only
  repeat' first
    | with_reducible assumption
    | intro _
    | with_reducible apply Keeps.ite
    | with_reducible apply Keeps.foldl
    | with_reducible apply State.setCv_keeps
    | split
    | with_reducible apply Keeps.fields
    | with_reducible rfl

theorem cvTouch_keeps {s : State} (u : Nat) (h1 : CvHold) (t : State) (h : Keeps eff s t)   :
    Keeps eff s (cvTouch u h1 t) := by
  delta cvTouch
  try dsimp only
  repeat' first
    | with_reducible assumption
    | intro _
    | with_reducible apply Keeps.ite
    | with_reducible apply Keeps.foldl
    | with_reducible apply State.setCv_keeps
    | split
    | with_reducible apply Keeps.fields
    | with_reducible rfl

theorem cvFinishNow_keeps {s : State} (u : Nat) (t : State) (h : Keeps eff s t)   :
    Keeps eff s (cvFinishNow u t) := by
  delta cvFinishNow
  try dsimp only
  repeat' first
    | with_reducible assumption
    | intro _
    | with_reducible apply Keeps.ite
    | with_reducible apply Keeps.foldl
    | with_reducible apply State.set1_keeps
    | with_reducible apply State.put64_keeps
    | with_reducible apply State.setCv_keeps
    | split
    | with_reducible apply Keeps.fields
    | with_reducible rfl

theorem cvCmd_keeps {s : State} (u : Nat) (h1 : CvHold) (op : Nat) (t : State) (h : Keeps eff s t)   :
    Keeps eff s (cvCmd u h1 op t) := by
  delta cvCmd
  try dsimp only
  repeat' first
    | with_reducible assumption
    | intro _
    | with_reducible apply Keeps.ite
    | with_reducible apply Keeps.foldl
    | with_reducible apply State.setCv_keeps
    | with_reducible apply cvRefuse_keeps
    | with_reducible apply cvTake_keeps
    | with_reducible apply cvTouch_keeps
    | with_reducible apply cvFinishNow_keeps
    | split
    | with_reducible apply Keeps.fields
    | with_reducible rfl

theorem cvFeed_keeps {s : State} (u : Nat) (h1 : CvHold) (l : List Byte) (t : State) (h : Keeps eff s t)   :
    Keeps eff s (cvFeed u h1 l t) := by
  delta cvFeed
  try dsimp only
  repeat' first
    | with_reducible assumption
    | intro _
    | with_reducible apply Keeps.ite
    | with_reducible apply Keeps.foldl
    | with_reducible apply State.setCv_keeps
    | with_reducible apply cvRefuse_keeps
    | with_reducible apply cvTouch_keeps
    | split
    | with_reducible apply Keeps.fields
    | with_reducible rfl

theorem cvCfgWrite_keeps {s : State} (u : Nat) (w : Word) (t : State) (h : Keeps eff s t)   :
    Keeps eff s (cvCfgWrite u w t) := by
  delta cvCfgWrite
  try dsimp only
  repeat' first
    | with_reducible assumption
    | intro _
    | with_reducible apply Keeps.ite
    | with_reducible apply Keeps.foldl
    | with_reducible apply State.put_keeps
    | with_reducible apply State.set1_keeps
    | with_reducible apply State.putB_keeps
    | with_reducible apply store_keeps
    | split
    | with_reducible apply Keeps.fields
    | with_reducible rfl

theorem cvWideWrite_keeps {s : State} (u : Nat) (a : Nat) (v : Nat) (t : State) (h : Keeps eff s t)   :
    Keeps eff s (cvWideWrite u a v t) := by
  delta cvWideWrite
  try dsimp only
  repeat' first
    | with_reducible assumption
    | intro _
    | with_reducible apply Keeps.ite
    | with_reducible apply Keeps.foldl
    | with_reducible apply State.set1_keeps
    | with_reducible apply State.put64_keeps
    | split
    | with_reducible apply Keeps.fields
    | with_reducible rfl

theorem fmSet_keeps {s : State} (e : Nat) (lean : Bool) (t : State) (h : Keeps eff s t)   :
    Keeps eff s (fmSet e lean t) := by
  delta fmSet
  try dsimp only
  repeat' first
    | with_reducible assumption
    | intro _
    | with_reducible apply Keeps.ite
    | with_reducible apply Keeps.foldl
    | with_reducible apply State.putB_keeps
    | with_reducible apply rebaseAll_keeps
    | split
    | with_reducible apply Keeps.fields
    | with_reducible rfl

theorem setPowerAt_keeps {s : State} (e p : Nat) (t : State) (h : Keeps eff s t)
    (h_power : eff.power = true := by assumption) : Keeps eff s (setPowerAt e p t) := by
  delta setPowerAt
  dsimp only
  have k : Keeps eff s ((t.modPw (fun w => { w with power := p })).modSv (fun v => { v with stby := stbyFor p v.stby })) := by
    with_reducible apply State.modSv_fields
    exact State.modPw_power t (fun w => { w with power := p }) h
  exact Keeps.ite (fmSet_keeps _ _ _ k) k

theorem setPower_keeps {s : State} (p : Nat) (t : State) (h : Keeps eff s t)
    (h_power : eff.power = true := by assumption) : Keeps eff s (setPower p t) := setPowerAt_keeps _ _ _ h

theorem dozeCause_keeps {s : State} (on : Bool) (t : State) (h : Keeps eff s t)   :
    Keeps eff s (dozeCause on t) := by
  delta dozeCause
  try dsimp only
  repeat' first
    | with_reducible assumption
    | intro _
    | with_reducible apply Keeps.ite
    | with_reducible apply Keeps.foldl
    | with_reducible apply State.putB_keeps
    | with_reducible apply safeRefresh_keeps
    | with_reducible apply allTiles_keeps
    | split
    | with_reducible apply Keeps.fields
    | with_reducible rfl

theorem leaveDoze_keeps {s : State} (p : Nat) (t : State) (h : Keeps eff s t)  (h_power : eff.power = true := by assumption) :
    Keeps eff s (leaveDoze p t) := by
  delta leaveDoze
  try dsimp only
  repeat' first
    | with_reducible assumption
    | intro _
    | with_reducible apply Keeps.ite
    | with_reducible apply Keeps.foldl
    | with_reducible apply startChainsAt_keeps
    | with_reducible apply setPowerAt_keeps
    | with_reducible apply dozeCause_keeps
    | split
    | with_reducible apply Keeps.fields
    | with_reducible rfl

theorem wakeRecord_keeps {s : State} (cause : Nat) (src : Nat) (t : State) (h : Keeps eff s t)   :
    Keeps eff s (wakeRecord cause src t) := by
  delta wakeRecord
  try dsimp only
  repeat' first
    | with_reducible assumption
    | intro _
    | with_reducible apply Keeps.ite
    | with_reducible apply Keeps.foldl
    | with_reducible apply State.put_keeps
    | split
    | with_reducible apply Keeps.fields
    | with_reducible rfl

theorem noteWake_keeps {s : State} (cause : Nat) (src : Nat) (t : State) (h : Keeps eff s t)  (h_power : eff.power = true := by assumption) :
    Keeps eff s (noteWake cause src t) := by
  delta noteWake
  try dsimp only
  repeat' first
    | with_reducible assumption
    | intro _
    | with_reducible apply Keeps.ite
    | with_reducible apply Keeps.foldl
    | with_reducible apply State.modPw_fields
    | with_reducible apply leaveDoze_keeps
    | with_reducible apply wakeRecord_keeps
    | split
    | with_reducible apply Keeps.fields
    | with_reducible rfl

end Sys2Proof.Machine
end

