-- ==== Sys2Proof/Laws/KeepsHoist.lean ====
section
/-! SUPPORT. What the operations of CAN operations, hoist operands, flags, EXPECT and transfers keep (`Keeps`): one lemma for each operation. -/

set_option linter.unreachableTactic false
set_option linter.unusedTactic false

namespace Sys2Proof.Machine

set_option Elab.async false

variable {eff : Eff}

theorem canRecord_keeps {s : State} (p : Nat) (ty : Nat) (detail : Nat) (tko : Bool) (hoist : Bool) (attempts : Nat) (w1 : Word) (tag : Nat) (stamp : Nat) (t : State) (h : Keeps eff s t)  (h_qmem : eff.qmem = true := by assumption) :
    Keeps eff s (canRecord p ty detail tko hoist attempts w1 tag stamp t) := by
  delta canRecord
  try dsimp only
  repeat' first
    | with_reducible assumption
    | intro _
    | with_reducible apply Keeps.ite
    | with_reducible apply Keeps.foldl
    | with_reducible apply raiseIrq_keeps
    | with_reducible apply qPushFixed_keeps
    | split
    | with_reducible apply Keeps.fields
    | with_reducible rfl

theorem portRecord_keeps {s : State} (p : Nat) (ty : Nat) (detail : Nat) (t : State) (h : Keeps eff s t)  (h_qmem : eff.qmem = true := by assumption) :
    Keeps eff s (portRecord p ty detail t) := by
  delta portRecord
  try dsimp only
  repeat' first
    | with_reducible assumption
    | intro _
    | with_reducible apply Keeps.ite
    | with_reducible apply Keeps.foldl
    | with_reducible apply canRecord_keeps
    | split
    | with_reducible apply Keeps.fields
    | with_reducible rfl

theorem entRecord_keeps {s : State} (p : Nat) (ty : Nat) (detail : Nat) (x : TxEnt) (stamp : Nat) (t : State) (h : Keeps eff s t)  (h_qmem : eff.qmem = true := by assumption) :
    Keeps eff s (entRecord p ty detail x stamp t) := by
  delta entRecord
  try dsimp only
  repeat' first
    | with_reducible assumption
    | intro _
    | with_reducible apply Keeps.ite
    | with_reducible apply Keeps.foldl
    | with_reducible apply canRecord_keeps
    | split
    | with_reducible apply Keeps.fields
    | with_reducible rfl

theorem txOutcome_keeps {s : State} (x : TxEnt) (ok : Bool) (t : State) (h : Keeps eff s t)   :
    Keeps eff s (txOutcome x ok t) := by
  delta txOutcome
  try dsimp only
  repeat' first
    | with_reducible assumption
    | intro _
    | with_reducible apply Keeps.ite
    | with_reducible apply Keeps.foldl
    | with_reducible apply State.modCtx_keeps
    | with_reducible apply State.modTu_keeps
    | with_reducible apply ctxResume_keeps
    | split
    | with_reducible apply Keeps.fields
    | with_reducible rfl

theorem txDrop_keeps {s : State} (p : Nat) (id : Nat) (t : State) (h : Keeps eff s t)   :
    Keeps eff s (txDrop p id t) := by
  delta txDrop
  try dsimp only
  repeat' first
    | with_reducible assumption
    | intro _
    | with_reducible apply Keeps.ite
    | with_reducible apply Keeps.foldl
    | with_reducible apply State.modCan_keeps
    | split
    | with_reducible apply Keeps.fields
    | with_reducible rfl

theorem canIntegrate_keeps {s : State} (p : Nat) (t : State) (h : Keeps eff s t)   :
    Keeps eff s (canIntegrate p t) := by
  delta canIntegrate
  try dsimp only
  repeat' first
    | with_reducible assumption
    | intro _
    | with_reducible apply Keeps.ite
    | with_reducible apply Keeps.foldl
    | with_reducible apply State.putB_keeps
    | split
    | with_reducible apply Keeps.fields
    | with_reducible rfl

theorem canWake_keeps {s : State} (p : Nat) (cause : Nat) (stamp : Nat) (idw : Word) (t : State) (h : Keeps eff s t)  (h_qmem : eff.qmem = true := by assumption) (h_power : eff.power = true := by assumption) :
    Keeps eff s (canWake p cause stamp idw t) := by
  delta canWake
  try dsimp only
  repeat' first
    | with_reducible assumption
    | intro _
    | with_reducible apply Keeps.ite
    | with_reducible apply Keeps.foldl
    | with_reducible apply State.put_keeps
    | with_reducible apply noteWake_keeps
    | with_reducible apply canRecord_keeps
    | with_reducible apply canIntegrate_keeps
    | split
    | with_reducible apply Keeps.fields
    | with_reducible rfl

theorem txQueue_keeps {s : State} (p : Nat) (src : TxSrc) (prio : Nat) (tag : Nat) (report : Bool) (f : Frame) (t : State) (h : Keeps eff s t)  (h_qmem : eff.qmem = true := by assumption) (h_power : eff.power = true := by assumption) :
    Keeps eff s (txQueue p src prio tag report f t) := by
  delta txQueue
  try dsimp only
  repeat' first
    | with_reducible assumption
    | intro _
    | with_reducible apply Keeps.ite
    | with_reducible apply Keeps.foldl
    | with_reducible apply State.modCan_keeps
    | with_reducible apply canWake_keeps
    | split
    | with_reducible apply Keeps.fields
    | with_reducible rfl

theorem aloneRestart_keeps {s : State} (p : Nat) (t : State) (h : Keeps eff s t)   :
    Keeps eff s (aloneRestart p t) := by
  delta aloneRestart
  try dsimp only
  repeat' first
    | with_reducible assumption
    | intro _
    | with_reducible apply Keeps.ite
    | with_reducible apply Keeps.foldl
    | with_reducible apply State.put_keeps
    | split
    | with_reducible apply Keeps.fields
    | with_reducible rfl

theorem aloneClear_keeps {s : State} (p : Nat) (t : State) (h : Keeps eff s t)  (h_qmem : eff.qmem = true := by assumption) :
    Keeps eff s (aloneClear p t) := by
  delta aloneClear
  try dsimp only
  repeat' first
    | with_reducible assumption
    | intro _
    | with_reducible apply Keeps.ite
    | with_reducible apply Keeps.foldl
    | with_reducible apply State.put_keeps
    | with_reducible apply portRecord_keeps
    | with_reducible apply aloneRestart_keeps
    | split
    | with_reducible apply Keeps.fields
    | with_reducible rfl

theorem alonePut_keeps {s : State} (p : Nat) (t : State) (h : Keeps eff s t)   :
    Keeps eff s (alonePut p t) := by
  delta alonePut
  try dsimp only
  repeat' first
    | with_reducible assumption
    | intro _
    | with_reducible apply Keeps.ite
    | with_reducible apply Keeps.foldl
    | with_reducible apply State.set1_keeps
    | split
    | with_reducible apply Keeps.fields
    | with_reducible rfl

theorem txAbandon_keeps {s : State} (p : Nat) (reason : Nat) (x : TxEnt) (t : State) (h : Keeps eff s t)  (h_qmem : eff.qmem = true := by assumption) :
    Keeps eff s (txAbandon p reason x t) := by
  delta txAbandon
  try dsimp only
  repeat' first
    | with_reducible assumption
    | intro _
    | with_reducible apply Keeps.ite
    | with_reducible apply Keeps.foldl
    | with_reducible apply State.addSat_keeps
    | with_reducible apply entRecord_keeps
    | with_reducible apply txOutcome_keeps
    | with_reducible apply txDrop_keeps
    | with_reducible apply aloneRestart_keeps
    | with_reducible apply alonePut_keeps
    | split
    | with_reducible apply Keeps.fields
    | with_reducible rfl

theorem txFlushIdle_keeps {s : State} (p : Nat) (reason : Nat) (f : TxEnt → Bool) (t : State) (h : Keeps eff s t)  (h_qmem : eff.qmem = true := by assumption) :
    Keeps eff s (txFlushIdle p reason f t) := by
  delta txFlushIdle
  try dsimp only
  repeat' first
    | with_reducible assumption
    | intro _
    | with_reducible apply Keeps.ite
    | with_reducible apply Keeps.foldl
    | with_reducible apply State.each_keeps
    | with_reducible apply txAbandon_keeps
    | split
    | with_reducible apply Keeps.fields
    | with_reducible rfl

theorem txFlush_keeps {s : State} (p : Nat) (reason : Nat) (f : TxEnt → Bool) (t : State) (h : Keeps eff s t)  (h_qmem : eff.qmem = true := by assumption) :
    Keeps eff s (txFlush p reason f t) := by
  delta txFlush
  try dsimp only
  repeat' first
    | with_reducible assumption
    | intro _
    | with_reducible apply Keeps.ite
    | with_reducible apply Keeps.foldl
    | with_reducible apply State.modCan_keeps
    | with_reducible apply txFlushIdle_keeps
    | split
    | with_reducible apply Keeps.fields
    | with_reducible rfl

theorem setFlags_keeps {s : State} (c : Nat) (f : Flags) (t : State) (h : Keeps eff s t)   :
    Keeps eff s (setFlags c f t) := by
  delta setFlags
  try dsimp only
  repeat' first
    | with_reducible assumption
    | intro _
    | with_reducible apply Keeps.ite
    | with_reducible apply Keeps.foldl
    | with_reducible apply State.modCtx_keeps
    | split
    | with_reducible apply Keeps.fields
    | with_reducible rfl

theorem setF_keeps {s : State} (c : Nat) (b : Bool) (t : State) (h : Keeps eff s t)   :
    Keeps eff s (setF c b t) := by
  delta setF
  try dsimp only
  repeat' first
    | with_reducible assumption
    | intro _
    | with_reducible apply Keeps.ite
    | with_reducible apply Keeps.foldl
    | with_reducible apply State.modCtx_keeps
    | split
    | with_reducible apply Keeps.fields
    | with_reducible rfl

theorem cacheUse_keeps {s : State} (a : Nat) (t : State) (h : Keeps eff s t)   :
    Keeps eff s (cacheUse a t) := by
  delta cacheUse
  try dsimp only
  repeat' first
    | with_reducible assumption
    | intro _
    | with_reducible apply Keeps.ite
    | with_reducible apply Keeps.foldl
    | split
    | with_reducible apply Keeps.fields
    | with_reducible rfl

theorem touchLines_keeps {s : State} (a : Nat) (n : Nat) (t : State) (h : Keeps eff s t)   :
    Keeps eff s (touchLines a n t) := by
  delta touchLines
  try dsimp only
  repeat' first
    | with_reducible assumption
    | intro _
    | with_reducible apply Keeps.ite
    | with_reducible apply Keeps.foldl
    | with_reducible apply State.each_keeps
    | with_reducible apply cacheUse_keeps
    | split
    | with_reducible apply Keeps.fields
    | with_reducible rfl

theorem withWords_keeps {s : State} (c : Nat) (a : Nat) (n : Nat) (f : List Word → State → State) (t : State) (h : Keeps eff s t) (hf : ∀ y0 u, Keeps eff s u → Keeps eff s (f y0 u)) (h_qmem : eff.qmem = true := by assumption) :
    Keeps eff s (withWords c a n f t) := by
  delta withWords
  try dsimp only
  repeat' first
    | with_reducible assumption
    | intro _
    | with_reducible apply Keeps.ite
    | with_reducible apply Keeps.foldl
    | with_reducible apply hf
    | with_reducible apply ctxBlock_keeps
    | with_reducible apply endRun_keeps
    | with_reducible apply touchLines_keeps
    | split
    | with_reducible apply Keeps.fields
    | with_reducible rfl

theorem setV_keeps {s : State} (c : Nat) (i : Nat) (w : Word) (t : State) (h : Keeps eff s t)   :
    Keeps eff s (setV c i w t) := by
  delta setV
  try dsimp only
  repeat' first
    | with_reducible assumption
    | intro _
    | with_reducible apply Keeps.ite
    | with_reducible apply Keeps.foldl
    | with_reducible apply wr_keeps
    | split
    | with_reducible apply Keeps.fields
    | with_reducible rfl

theorem putVarBytes_keeps {s : State} (c : Nat) (l : List Byte) (t : State) (h : Keeps eff s t)   :
    Keeps eff s (putVarBytes c l t) := by
  delta putVarBytes
  try dsimp only
  repeat' first
    | with_reducible assumption
    | intro _
    | with_reducible apply Keeps.ite
    | with_reducible apply Keeps.foldl
    | with_reducible apply State.each_keeps
    | with_reducible apply setV_keeps
    | split
    | with_reducible apply Keeps.fields
    | with_reducible rfl

theorem refuse_keeps {s : State} (c : Nat) (pc : Nat) (nofault : Bool) (t : State) (h : Keeps eff s t)  (h_qmem : eff.qmem = true := by assumption) :
    Keeps eff s (refuse c pc nofault t) := by
  delta refuse
  try dsimp only
  repeat' first
    | with_reducible assumption
    | intro _
    | with_reducible apply Keeps.ite
    | with_reducible apply Keeps.foldl
    | with_reducible apply endRun_keeps
    | with_reducible apply setF_keeps
    | split
    | with_reducible apply Keeps.fields
    | with_reducible rfl

theorem countInstr_keeps {s : State} (e : Nat) (rdr : Bool) (t : State) (h : Keeps eff s t)   :
    Keeps eff s (countInstr e rdr t) := by
  delta countInstr
  try dsimp only
  repeat' first
    | with_reducible assumption
    | intro _
    | with_reducible apply Keeps.ite
    | with_reducible apply Keeps.foldl
    | with_reducible apply State.setEng_keeps
    | split
    | with_reducible apply Keeps.fields
    | with_reducible rfl

theorem runInstr_keeps {s : State} (op : Nat) (x : XRule) (e : Nat) (f : Nat → HWord → State → State) (t : State) (h : Keeps eff s t) (hf : ∀ y0 y1 u, Keeps eff s u → Keeps eff s (f y0 y1 u)) (h_qmem : eff.qmem = true := by assumption) :
    Keeps eff s (runInstr op x e f t) := by
  delta runInstr
  try dsimp only
  repeat' first
    | with_reducible assumption
    | intro _
    | with_reducible apply Keeps.ite
    | with_reducible apply Keeps.foldl
    | with_reducible apply hf
    | with_reducible apply progErr_keeps
    | with_reducible apply withWords_keeps
    | with_reducible apply countInstr_keeps
    | split
    | with_reducible apply Keeps.fields
    | with_reducible rfl

theorem checked_keeps {s : State} (c : Nat) (ok : Bool) (f : State → State) (t : State) (h : Keeps eff s t) (hf : ∀ u, Keeps eff s u → Keeps eff s (f u)) (h_qmem : eff.qmem = true := by assumption) :
    Keeps eff s (checked c ok f t) := by
  delta checked
  try dsimp only
  repeat' first
    | with_reducible assumption
    | intro _
    | with_reducible apply Keeps.ite
    | with_reducible apply Keeps.foldl
    | with_reducible apply hf
    | with_reducible apply progErr_keeps
    | split
    | with_reducible apply Keeps.fields
    | with_reducible rfl

theorem setPc_keeps {s : State} (c : Nat) (pc : Nat) (t : State) (h : Keeps eff s t)   :
    Keeps eff s (setPc c pc t) := by
  delta setPc
  try dsimp only
  repeat' first
    | with_reducible assumption
    | intro _
    | with_reducible apply Keeps.ite
    | with_reducible apply Keeps.foldl
    | with_reducible apply State.modCtx_keeps
    | split
    | with_reducible apply Keeps.fields
    | with_reducible rfl

theorem stepOver_keeps {s : State} (c : Nat) (h1 : HWord) (t : State) (h : Keeps eff s t)   :
    Keeps eff s (stepOver c h1 t) := by
  delta stepOver
  try dsimp only
  repeat' first
    | with_reducible assumption
    | intro _
    | with_reducible apply Keeps.ite
    | with_reducible apply Keeps.foldl
    | with_reducible apply setPc_keeps
    | split
    | with_reducible apply Keeps.fields
    | with_reducible rfl

theorem goOn_keeps {s : State} (c : Nat) (pc : Nat) (t : State) (h : Keeps eff s t)   :
    Keeps eff s (goOn c pc t) := by
  delta goOn
  try dsimp only
  repeat' first
    | with_reducible assumption
    | intro _
    | with_reducible apply Keeps.ite
    | with_reducible apply Keeps.foldl
    | with_reducible apply State.modCtx_keeps
    | with_reducible apply ctxResume_keeps
    | split
    | with_reducible apply Keeps.fields
    | with_reducible rfl

theorem advanceTx_keeps {s : State} (c : Nat) (t : State) (h : Keeps eff s t)   :
    Keeps eff s (advanceTx c t) := by
  delta advanceTx
  try dsimp only
  repeat' first
    | with_reducible assumption
    | intro _
    | with_reducible apply Keeps.ite
    | with_reducible apply Keeps.foldl
    | with_reducible apply State.put_keeps
    | split
    | with_reducible apply Keeps.fields
    | with_reducible rfl

theorem onOutcome_keeps {s : State} (c : Nat) (o : Nat) (seq : Option Nat) (t : State) (h : Keeps eff s t)   :
    Keeps eff s (onOutcome c o seq t) := by
  delta onOutcome
  try dsimp only
  repeat' first
    | with_reducible assumption
    | intro _
    | with_reducible apply Keeps.ite
    | with_reducible apply Keeps.foldl
    | with_reducible apply State.put_keeps
    | with_reducible apply State.set1_keeps
    | with_reducible apply State.modCtx_keeps
    | with_reducible apply advanceTx_keeps
    | split
    | with_reducible apply Keeps.fields
    | with_reducible rfl

theorem outcomeFail_keeps {s : State} (c : Nat) (o : Nat) (at_ : Nat) (t : State) (h : Keeps eff s t)  (h_qmem : eff.qmem = true := by assumption) :
    Keeps eff s (outcomeFail c o at_ t) := by
  delta outcomeFail
  try dsimp only
  repeat' first
    | with_reducible assumption
    | intro _
    | with_reducible apply Keeps.ite
    | with_reducible apply Keeps.foldl
    | with_reducible apply State.useFree_keeps
    | with_reducible apply endRun_keeps
    | split
    | with_reducible apply Keeps.fields
    | with_reducible rfl

theorem retryRun_keeps {s : State} (c : Nat) (o : Nat) (at_ : Nat) (resync : Bool) (t : State) (h : Keeps eff s t)  (h_qmem : eff.qmem = true := by assumption) :
    Keeps eff s (retryRun c o at_ resync t) := by
  delta retryRun
  try dsimp only
  repeat' first
    | with_reducible assumption
    | intro _
    | with_reducible apply Keeps.ite
    | with_reducible apply Keeps.foldl
    | with_reducible apply State.inc_keeps
    | with_reducible apply State.modCtx_keeps
    | with_reducible apply ctxWait_keeps
    | with_reducible apply endRun_keeps
    | with_reducible apply setPc_keeps
    | with_reducible apply outcomeFail_keeps
    | split
    | with_reducible apply Keeps.fields
    | with_reducible rfl

theorem backoffEnd_keeps {s : State} (c : Nat) (resync : Bool) (t : State) (h : Keeps eff s t)   :
    Keeps eff s (backoffEnd c resync t) := by
  delta backoffEnd
  try dsimp only
  repeat' first
    | with_reducible assumption
    | intro _
    | with_reducible apply Keeps.ite
    | with_reducible apply Keeps.foldl
    | with_reducible apply State.modCtx_keeps
    | with_reducible apply ctxResume_keeps
    | with_reducible apply setV_keeps
    | split
    | with_reducible apply Keeps.fields
    | with_reducible rfl

theorem expectAct_keeps {s : State} (c : Nat) (w : ExpectW) (o : Nat) (j : Nat) (e : Option RxEnt) (t : State) (h : Keeps eff s t)  (h_qmem : eff.qmem = true := by assumption) :
    Keeps eff s (expectAct c w o j e t) := by
  delta expectAct
  try dsimp only
  repeat' first
    | with_reducible assumption
    | intro _
    | with_reducible apply Keeps.ite
    | with_reducible apply Keeps.foldl
    | with_reducible apply State.modCtx_keeps
    | with_reducible apply setV_keeps
    | with_reducible apply goOn_keeps
    | with_reducible apply outcomeFail_keeps
    | with_reducible apply retryRun_keeps
    | split
    | with_reducible apply Keeps.fields
    | with_reducible rfl

theorem expectTimeout_keeps {s : State} (c : Nat) (w : ExpectW) (t : State) (h : Keeps eff s t)  (h_qmem : eff.qmem = true := by assumption) :
    Keeps eff s (expectTimeout c w t) := by
  delta expectTimeout
  try dsimp only
  repeat' first
    | with_reducible assumption
    | intro _
    | with_reducible apply Keeps.ite
    | with_reducible apply Keeps.foldl
    | with_reducible apply onOutcome_keeps
    | with_reducible apply expectAct_keeps
    | split
    | with_reducible apply Keeps.fields
    | with_reducible rfl

theorem expectFrame_keeps {s : State} (c : Nat) (w : ExpectW) (t : State) (h : Keeps eff s t)  (h_qmem : eff.qmem = true := by assumption) :
    Keeps eff s (expectFrame c w t) := by
  delta expectFrame
  try dsimp only
  repeat' first
    | with_reducible assumption
    | intro _
    | with_reducible apply Keeps.ite
    | with_reducible apply Keeps.foldl
    | with_reducible apply State.modCtx_keeps
    | with_reducible apply ctxBlock_keeps
    | with_reducible apply endRun_keeps
    | with_reducible apply onOutcome_keeps
    | with_reducible apply expectAct_keeps
    | split
    | with_reducible apply Keeps.fields
    | with_reducible rfl

theorem expectNext_keeps {s : State} (c : Nat) (w : ExpectW) (t : State) (h : Keeps eff s t) (u : State) (e : expectNext c w t = some u)
    (h_qmem : eff.qmem = true := by assumption) :
    Keeps eff s u := by
  unfold expectNext at e
  repeat' split at e
  all_goals first
    | (injection e with e; subst e)
    | injection e
  all_goals repeat' first
    | with_reducible assumption
    | with_reducible apply expectTimeout_keeps
    | with_reducible apply expectFrame_keeps
    | with_reducible apply expectAct_keeps
    | with_reducible apply onOutcome_keeps
    | with_reducible apply State.modCtx_keeps
    | split

theorem noteOver_keeps {s : State} (c : Nat) (t : State) (h : Keeps eff s t)   :
    Keeps eff s (noteOver c t) := by
  delta noteOver
  try dsimp only
  repeat' first
    | with_reducible assumption
    | intro _
    | with_reducible apply Keeps.ite
    | with_reducible apply Keeps.foldl
    | with_reducible apply State.modCtx_keeps
    | split
    | with_reducible apply Keeps.fields
    | with_reducible rfl

theorem setXfer_keeps {s : State} (c : Nat) (w : XferW) (t : State) (h : Keeps eff s t)   :
    Keeps eff s (setXfer c w t) := by
  delta setXfer
  try dsimp only
  repeat' first
    | with_reducible assumption
    | intro _
    | with_reducible apply Keeps.ite
    | with_reducible apply Keeps.foldl
    | with_reducible apply State.modCtx_keeps
    | split
    | with_reducible apply Keeps.fields
    | with_reducible rfl

theorem xferQueue_keeps {s : State} (c : Nat) (w : XferW) (f : Frame) (t : State) (h : Keeps eff s t)  (h_qmem : eff.qmem = true := by assumption) (h_power : eff.power = true := by assumption) :
    Keeps eff s (xferQueue c w f t) := by
  delta xferQueue
  try dsimp only
  repeat' first
    | with_reducible assumption
    | intro _
    | with_reducible apply Keeps.ite
    | with_reducible apply Keeps.foldl
    | with_reducible apply txQueue_keeps
    | with_reducible apply setXfer_keeps
    | split
    | with_reducible apply Keeps.fields
    | with_reducible rfl

theorem xferTxStart_keeps {s : State} (c : Nat) (w : XferW) (t : State) (h : Keeps eff s t)  (h_qmem : eff.qmem = true := by assumption) (h_power : eff.power = true := by assumption) :
    Keeps eff s (xferTxStart c w t) := by
  delta xferTxStart
  try dsimp only
  repeat' first
    | with_reducible assumption
    | intro _
    | with_reducible apply Keeps.ite
    | with_reducible apply Keeps.foldl
    | with_reducible apply xferQueue_keeps
    | split
    | with_reducible apply Keeps.fields
    | with_reducible rfl

theorem xferNextCf_keeps {s : State} (c : Nat) (w : XferW) (t : State) (h : Keeps eff s t)  (h_qmem : eff.qmem = true := by assumption) (h_power : eff.power = true := by assumption) :
    Keeps eff s (xferNextCf c w t) := by
  delta xferNextCf
  try dsimp only
  repeat' first
    | with_reducible assumption
    | intro _
    | with_reducible apply Keeps.ite
    | with_reducible apply Keeps.foldl
    | with_reducible apply xferQueue_keeps
    | split
    | with_reducible apply Keeps.fields
    | with_reducible rfl

theorem xferFc_keeps {s : State} (c : Nat) (w : XferW) (fs : Nat) (t : State) (h : Keeps eff s t)  (h_qmem : eff.qmem = true := by assumption) (h_power : eff.power = true := by assumption) :
    Keeps eff s (xferFc c w fs t) := by
  delta xferFc
  try dsimp only
  repeat' first
    | with_reducible assumption
    | intro _
    | with_reducible apply Keeps.ite
    | with_reducible apply Keeps.foldl
    | with_reducible apply xferQueue_keeps
    | split
    | with_reducible apply Keeps.fields
    | with_reducible rfl

theorem xferFlush_keeps {s : State} (c : Nat) (t : State) (h : Keeps eff s t)  (h_qmem : eff.qmem = true := by assumption) :
    Keeps eff s (xferFlush c t) := by
  delta xferFlush
  try dsimp only
  repeat' first
    | with_reducible assumption
    | intro _
    | with_reducible apply Keeps.ite
    | with_reducible apply Keeps.foldl
    | with_reducible apply txFlushIdle_keeps
    | split
    | with_reducible apply Keeps.fields
    | with_reducible rfl

theorem xferOut_keeps {s : State} (c : Nat) (w : XferW) (o : Nat) (frame : Bool) (keep : State → State) (t : State) (h : Keeps eff s t) (hkeep : ∀ u, Keeps eff s u → Keeps eff s (keep u)) (h_qmem : eff.qmem = true := by assumption) :
    Keeps eff s (xferOut c w o frame keep t) := by
  delta xferOut
  try dsimp only
  repeat' first
    | with_reducible assumption
    | intro _
    | with_reducible apply Keeps.ite
    | with_reducible apply Keeps.foldl
    | with_reducible apply hkeep
    | with_reducible apply State.modCtx_keeps
    | with_reducible apply setV_keeps
    | with_reducible apply goOn_keeps
    | with_reducible apply onOutcome_keeps
    | with_reducible apply outcomeFail_keeps
    | with_reducible apply retryRun_keeps
    | with_reducible apply xferFlush_keeps
    | split
    | with_reducible apply Keeps.fields
    | with_reducible rfl

theorem reserve_keeps {s : State} (c n : Nat) (t : State) (h : Keeps eff s t) (u : State) (e : reserve c n t = some u) : Keeps eff s u := by
  unfold reserve at e
  dsimp only at e
  repeat' split at e
  all_goals first
    | (injection e with e; subst e)
    | injection e
  all_goals repeat' first
    | with_reducible assumption
    | with_reducible apply qStore_keeps
    | with_reducible apply countDisplaced_keeps
    | with_reducible apply State.setQueue_keeps
    | with_reducible apply State.modCtx_keeps

theorem xferDone_keeps {s : State} (c : Nat) (w : XferW) (t : State) (h : Keeps eff s t)  (h_qmem : eff.qmem = true := by assumption) :
    Keeps eff s (xferDone c w t) := by
  delta xferDone
  try dsimp only
  repeat' first
    | with_reducible assumption
    | intro _
    | with_reducible apply Keeps.ite
    | with_reducible apply Keeps.foldl
    | with_reducible apply State.modCtx_keeps
    | with_reducible apply xferOut_keeps
    | split
    | with_reducible apply Keeps.fields
    | with_reducible rfl

theorem xferReserved_keeps {s : State} (c : Nat) (w : XferW) (t : State) (h : Keeps eff s t)  (h_qmem : eff.qmem = true := by assumption) (h_power : eff.power = true := by assumption) :
    Keeps eff s (xferReserved c w t) := by
  delta xferReserved
  try dsimp only
  repeat' first
    | with_reducible assumption
    | intro _
    | with_reducible apply Keeps.ite
    | with_reducible apply Keeps.foldl
    | with_reducible apply xferFc_keeps
    | with_reducible apply xferDone_keeps
    | split
    | with_reducible apply Keeps.fields
    | with_reducible rfl

theorem xferAgain_keeps {s : State} (c : Nat) (w : XferW) (t : State) (h : Keeps eff s t)   :
    Keeps eff s (xferAgain c w t) := by
  delta xferAgain
  try dsimp only
  repeat' first
    | with_reducible assumption
    | intro _
    | with_reducible apply Keeps.ite
    | with_reducible apply Keeps.foldl
    | with_reducible apply setXfer_keeps
    | split
    | with_reducible apply Keeps.fields
    | with_reducible rfl

theorem xferOvflw_keeps {s : State} (c : Nat) (w : XferW) (t : State) (h : Keeps eff s t)  (h_qmem : eff.qmem = true := by assumption) (h_power : eff.power = true := by assumption) :
    Keeps eff s (xferOvflw c w t) := by
  delta xferOvflw
  try dsimp only
  repeat' first
    | with_reducible assumption
    | intro _
    | with_reducible apply Keeps.ite
    | with_reducible apply Keeps.foldl
    | with_reducible apply xferFc_keeps
    | with_reducible apply xferOut_keeps
    | with_reducible apply xferAgain_keeps
    | split
    | with_reducible apply Keeps.fields
    | with_reducible rfl

theorem xferReserve_keeps {s : State} (c : Nat) (w : XferW) (t : State) (h : Keeps eff s t)  (h_qmem : eff.qmem = true := by assumption) (h_power : eff.power = true := by assumption) :
    Keeps eff s (xferReserve c w t) := by
  delta xferReserve
  try dsimp only
  repeat' first
    | with_reducible assumption
    | intro _
    | with_reducible apply Keeps.ite
    | with_reducible apply Keeps.foldl
    | with_reducible apply xferFc_keeps
    | with_reducible apply xferReserved_keeps
    | with_reducible apply xferOvflw_keeps
    | (refine reserve_keeps _ _ _ ?_ _ (by assumption))
    | split
    | with_reducible apply Keeps.fields
    | with_reducible rfl

theorem xferFirst_keeps {s : State} (c : Nat) (w : XferW) (l : List Byte) (dlen : Nat) (t : State) (h : Keeps eff s t)  (h_qmem : eff.qmem = true := by assumption) (h_power : eff.power = true := by assumption) :
    Keeps eff s (xferFirst c w l dlen t) := by
  delta xferFirst
  try dsimp only
  repeat' first
    | with_reducible assumption
    | intro _
    | with_reducible apply Keeps.ite
    | with_reducible apply Keeps.foldl
    | with_reducible apply xferOut_keeps
    | with_reducible apply xferOvflw_keeps
    | with_reducible apply xferReserve_keeps
    | split
    | with_reducible apply Keeps.fields
    | with_reducible rfl

theorem xferCf_keeps {s : State} (c : Nat) (w : XferW) (l : List Byte) (t : State) (h : Keeps eff s t)  (h_qmem : eff.qmem = true := by assumption) (h_power : eff.power = true := by assumption) :
    Keeps eff s (xferCf c w l t) := by
  delta xferCf
  try dsimp only
  repeat' first
    | with_reducible assumption
    | intro _
    | with_reducible apply Keeps.ite
    | with_reducible apply Keeps.foldl
    | with_reducible apply setXfer_keeps
    | with_reducible apply xferFc_keeps
    | with_reducible apply xferOut_keeps
    | with_reducible apply xferDone_keeps
    | split
    | with_reducible apply Keeps.fields
    | with_reducible rfl

theorem xferRxFrame_keeps {s : State} (c : Nat) (w : XferW) (l : List Byte) (dlen : Nat) (t : State) (h : Keeps eff s t)  (h_qmem : eff.qmem = true := by assumption) (h_power : eff.power = true := by assumption) :
    Keeps eff s (xferRxFrame c w l dlen t) := by
  delta xferRxFrame
  try dsimp only
  repeat' first
    | with_reducible assumption
    | intro _
    | with_reducible apply Keeps.ite
    | with_reducible apply Keeps.foldl
    | with_reducible apply dropResv_keeps
    | with_reducible apply xferOut_keeps
    | with_reducible apply xferFirst_keeps
    | with_reducible apply xferCf_keeps
    | split
    | with_reducible apply Keeps.fields
    | with_reducible rfl

theorem xferTxFrame_keeps {s : State} (c : Nat) (w : XferW) (l : List Byte) (t : State) (h : Keeps eff s t)  (h_qmem : eff.qmem = true := by assumption) (h_power : eff.power = true := by assumption) :
    Keeps eff s (xferTxFrame c w l t) := by
  delta xferTxFrame
  try dsimp only
  repeat' first
    | with_reducible assumption
    | intro _
    | with_reducible apply Keeps.ite
    | with_reducible apply Keeps.foldl
    | with_reducible apply setXfer_keeps
    | with_reducible apply xferNextCf_keeps
    | with_reducible apply xferOut_keeps
    | split
    | with_reducible apply Keeps.fields
    | with_reducible rfl

theorem xferNext_keeps {s : State} (c : Nat) (w : XferW) (t : State) (h : Keeps eff s t) (u : State) (e : xferNext c w t = some u)
    (h_qmem : eff.qmem = true := by assumption) (h_power : eff.power = true := by assumption) :
    Keeps eff s u := by
  unfold xferNext at e
  dsimp only at e
  repeat' split at e
  all_goals first
    | (injection e with e; subst e)
    | injection e
  all_goals repeat' first
    | with_reducible assumption
    | with_reducible apply Keeps.ite
    | with_reducible apply xferTxFrame_keeps
    | with_reducible apply xferRxFrame_keeps
    | with_reducible apply State.inc_keeps
    | with_reducible apply xferOut_keeps
    | with_reducible apply State.modCtx_keeps
    | intro _

theorem pump_keeps {s : State} (c : Nat) (n : Nat) (t : State) (h : Keeps eff s t)
    (h_qmem : eff.qmem = true := by assumption) (h_power : eff.power = true := by assumption) : Keeps eff s (pump c n t) := by
  induction n generalizing t with
  | zero => exact h
  | succ n ih =>
    unfold pump
    split
    · exact h
    · split
      · split
        · next e => exact ih _ (expectNext_keeps _ _ _ h _ e)
        · exact h
      · split
        · next e => exact ih _ (xferNext_keeps _ _ _ h _ e)
        · exact h
      · exact h

theorem evaluate_keeps {s : State} (c : Nat) (t : State) (h : Keeps eff s t)  (h_qmem : eff.qmem = true := by assumption) (h_power : eff.power = true := by assumption) :
    Keeps eff s (evaluate c t) := by
  delta evaluate
  try dsimp only
  repeat' first
    | with_reducible assumption
    | intro _
    | with_reducible apply Keeps.ite
    | with_reducible apply Keeps.foldl
    | with_reducible apply pump_keeps
    | split
    | with_reducible apply Keeps.fields
    | with_reducible rfl

theorem ctxFrame_keeps {s : State} (c : Nat) (e : RxEnt) (t : State) (h : Keeps eff s t)  (h_qmem : eff.qmem = true := by assumption) (h_power : eff.power = true := by assumption) :
    Keeps eff s (ctxFrame c e t) := by
  delta ctxFrame
  try dsimp only
  repeat' first
    | with_reducible assumption
    | intro _
    | with_reducible apply Keeps.ite
    | with_reducible apply Keeps.foldl
    | with_reducible apply inboxPut_keeps
    | with_reducible apply noteOver_keeps
    | with_reducible apply evaluate_keeps
    | split
    | with_reducible apply Keeps.fields
    | with_reducible rfl

theorem portEvent_keeps {s : State} (p : Nat) (off : Bool) (t : State) (h : Keeps eff s t)  (h_qmem : eff.qmem = true := by assumption) (h_power : eff.power = true := by assumption) :
    Keeps eff s (portEvent p off t) := by
  delta portEvent
  try dsimp only
  repeat' first
    | with_reducible assumption
    | intro _
    | with_reducible apply Keeps.ite
    | with_reducible apply Keeps.foldl
    | with_reducible apply State.each_keeps
    | with_reducible apply latchPort_keeps
    | with_reducible apply noteOver_keeps
    | with_reducible apply evaluate_keeps
    | split
    | with_reducible apply Keeps.fields
    | with_reducible rfl

theorem waitOn_keeps {s : State} (c : Nat) (t : State) (h : Keeps eff s t)  (h_qmem : eff.qmem = true := by assumption) :
    Keeps eff s (waitOn c t) := by
  delta waitOn
  try dsimp only
  repeat' first
    | with_reducible assumption
    | intro _
    | with_reducible apply Keeps.ite
    | with_reducible apply Keeps.foldl
    | with_reducible apply ctxWait_keeps
    | with_reducible apply expectTimeout_keeps
    | split
    | with_reducible apply Keeps.fields
    | with_reducible rfl

theorem xferSent_keeps {s : State} (c : Nat) (t : State) (h : Keeps eff s t)  (h_qmem : eff.qmem = true := by assumption) (h_power : eff.power = true := by assumption) :
    Keeps eff s (xferSent c t) := by
  delta xferSent
  try dsimp only
  repeat' first
    | with_reducible assumption
    | intro _
    | with_reducible apply Keeps.ite
    | with_reducible apply Keeps.foldl
    | with_reducible apply setXfer_keeps
    | with_reducible apply xferNextCf_keeps
    | with_reducible apply xferOut_keeps
    | split
    | with_reducible apply Keeps.fields
    | with_reducible rfl

theorem xferPlace_keeps {s : State} (c : Nat) (t : State) (h : Keeps eff s t)  (h_qmem : eff.qmem = true := by assumption) (h_power : eff.power = true := by assumption) :
    Keeps eff s (xferPlace c t) := by
  delta xferPlace
  try dsimp only
  repeat' first
    | with_reducible assumption
    | intro _
    | with_reducible apply Keeps.ite
    | with_reducible apply Keeps.foldl
    | with_reducible apply xferQueue_keeps
    | split
    | with_reducible apply Keeps.fields
    | with_reducible rfl

theorem xferTimer_keeps {s : State} (c : Nat) (w : XferW) (t : State) (h : Keeps eff s t)  (h_qmem : eff.qmem = true := by assumption) (h_power : eff.power = true := by assumption) :
    Keeps eff s (xferTimer c w t) := by
  delta xferTimer
  try dsimp only
  repeat' first
    | with_reducible assumption
    | intro _
    | with_reducible apply Keeps.ite
    | with_reducible apply Keeps.foldl
    | with_reducible apply xferNextCf_keeps
    | with_reducible apply xferOut_keeps
    | with_reducible apply xferReserve_keeps
    | split
    | with_reducible apply Keeps.fields
    | with_reducible rfl

theorem ret_keeps {s : State} (c : Nat) (d : Nat) (t : State) (h : Keeps eff s t)  (h_qmem : eff.qmem = true := by assumption) :
    Keeps eff s (ret c d t) := by
  delta ret
  try dsimp only
  repeat' first
    | with_reducible assumption
    | intro _
    | with_reducible apply Keeps.ite
    | with_reducible apply Keeps.foldl
    | with_reducible apply State.modCtx_keeps
    | with_reducible apply endRun_keeps
    | split
    | with_reducible apply Keeps.fields
    | with_reducible rfl

theorem setTimer_keeps {s : State} (c : Nat) (i : Nat) (d : Option Nat) (t : State) (h : Keeps eff s t)   :
    Keeps eff s (setTimer c i d t) := by
  delta setTimer
  try dsimp only
  repeat' first
    | with_reducible assumption
    | intro _
    | with_reducible apply Keeps.ite
    | with_reducible apply Keeps.foldl
    | with_reducible apply State.modCtx_keeps
    | split
    | with_reducible apply Keeps.fields
    | with_reducible rfl

theorem result_keeps {s : State} (c : Nat) (h1 : HWord) (r : Word) (f : Flags) (t : State) (h : Keeps eff s t)   :
    Keeps eff s (result c h1 r f t) := by
  delta result
  try dsimp only
  repeat' first
    | with_reducible assumption
    | intro _
    | with_reducible apply Keeps.ite
    | with_reducible apply Keeps.foldl
    | with_reducible apply setFlags_keeps
    | with_reducible apply setV_keeps
    | with_reducible apply stepOver_keeps
    | split
    | with_reducible apply Keeps.fields
    | with_reducible rfl

theorem alu_keeps {s : State} (op : Nat) (e : Fin 8) (b : State → Nat → HWord → Word) (f : Word → Word → Word) (fl : Word → Word → Flags) (t : State) (h : Keeps eff s t)  (h_qmem : eff.qmem = true := by assumption) :
    Keeps eff s (alu op e b f fl t) := by
  delta alu
  try dsimp only
  repeat' first
    | with_reducible assumption
    | intro _
    | with_reducible apply Keeps.ite
    | with_reducible apply Keeps.foldl
    | with_reducible apply runInstr_keeps
    | with_reducible apply checked_keeps
    | with_reducible apply result_keeps
    | split
    | with_reducible apply Keeps.fields
    | with_reducible rfl

end Sys2Proof.Machine
end

