-- ==== Sys2Proof/Laws/KeepsPorts.lean ====
section
/-! SUPPORT. What the operations of permits, serial ports, the flash log, hoist messages, CAN ports, filters, converters and context commands keep (`Keeps`): one lemma for each operation. -/

set_option linter.unreachableTactic false
set_option linter.unusedTactic false

namespace Sys2Proof.Machine

set_option Elab.async false

variable {eff : Eff}

theorem permitShow_keeps {s : State} (a : Nat) (res : Nat) (conflict : Nat) (t : State) (h : Keeps eff s t)   :
    Keeps eff s (permitShow a res conflict t) := by
  delta permitShow
  try dsimp only
  repeat' first
    | with_reducible assumption
    | intro _
    | with_reducible apply Keeps.ite
    | with_reducible apply Keeps.foldl
    | with_reducible apply State.put_keeps
    | split
    | with_reducible apply Keeps.fields
    | with_reducible rfl

theorem permitSet_keeps {s : State} (a : Nat) (held : Bool) (t : State) (h : Keeps eff s t)   :
    Keeps eff s (permitSet a held t) := by
  delta permitSet
  try dsimp only
  repeat' first
    | with_reducible assumption
    | intro _
    | with_reducible apply Keeps.ite
    | with_reducible apply Keeps.foldl
    | with_reducible apply State.put_keeps
    | split
    | with_reducible apply Keeps.fields
    | with_reducible rfl

theorem permitRecord_keeps {s : State} (a : Nat) (res : Nat) (tile : Nat) (t : State) (h : Keeps eff s t)  (h_qmem : eff.qmem = true := by assumption) :
    Keeps eff s (permitRecord a res tile t) := by
  delta permitRecord
  try dsimp only
  repeat' first
    | with_reducible assumption
    | intro _
    | with_reducible apply Keeps.ite
    | with_reducible apply Keeps.foldl
    | with_reducible apply svRecord_keeps
    | split
    | with_reducible apply Keeps.fields
    | with_reducible rfl

theorem permitDecideT_keeps {s : State} (a : Nat) (ans : Nat) (tile : Nat) (t : State) (h : Keeps eff s t)  (h_qmem : eff.qmem = true := by assumption) :
    Keeps eff s (permitDecideT a ans tile t) := by
  delta permitDecideT
  try dsimp only
  repeat' first
    | with_reducible assumption
    | intro _
    | with_reducible apply Keeps.ite
    | with_reducible apply Keeps.foldl
    | with_reducible apply permitShow_keeps
    | with_reducible apply permitSet_keeps
    | with_reducible apply permitRecord_keeps
    | split
    | with_reducible apply Keeps.fields
    | with_reducible rfl

theorem permitDecide_keeps {s : State} (a : Nat) (ans : Nat) (t : State) (h : Keeps eff s t)  (h_qmem : eff.qmem = true := by assumption) :
    Keeps eff s (permitDecide a ans t) := by
  delta permitDecide
  try dsimp only
  repeat' first
    | with_reducible assumption
    | intro _
    | with_reducible apply Keeps.ite
    | with_reducible apply Keeps.foldl
    | with_reducible apply permitDecideT_keeps
    | split
    | with_reducible apply Keeps.fields
    | with_reducible rfl

theorem permitEndT_keeps {s : State} (a : Nat) (res : Nat) (tile : Nat) (t : State) (h : Keeps eff s t)  (h_qmem : eff.qmem = true := by assumption) :
    Keeps eff s (permitEndT a res tile t) := by
  delta permitEndT
  try dsimp only
  repeat' first
    | with_reducible assumption
    | intro _
    | with_reducible apply Keeps.ite
    | with_reducible apply Keeps.foldl
    | with_reducible apply unquiet_keeps
    | with_reducible apply permitShow_keeps
    | with_reducible apply permitSet_keeps
    | with_reducible apply permitRecord_keeps
    | split
    | with_reducible apply Keeps.fields
    | with_reducible rfl

theorem permitEnd_keeps {s : State} (a : Nat) (res : Nat) (t : State) (h : Keeps eff s t)  (h_qmem : eff.qmem = true := by assumption) :
    Keeps eff s (permitEnd a res t) := by
  delta permitEnd
  try dsimp only
  repeat' first
    | with_reducible assumption
    | intro _
    | with_reducible apply Keeps.ite
    | with_reducible apply Keeps.foldl
    | with_reducible apply permitEndT_keeps
    | split
    | with_reducible apply Keeps.fields
    | with_reducible rfl

theorem flashAnd_keeps {s : State} (cs : Nat) (a : Nat) (b : Byte) (t : State) (h : Keeps eff s t)
    (h_flash : eff.flash = true := by assumption) : Keeps eff s (flashAnd cs a b t) :=
  h.setFlash _ fun m => kwf_kset _ _ _ _ _ rfl ((State.memWf_iff t).mp m).2.2.1

theorem flashProg_keeps {s : State} (cs : Nat) (a : Nat) (l : List Byte) (t : State) (h : Keeps eff s t)
    (h_flash : eff.flash = true := by assumption) :
    Keeps eff s (flashProg cs a l t) := by
  induction l generalizing a t with
  | nil => exact h
  | cons b l ih => exact ih _ _ (flashAnd_keeps _ _ _ _ h)

theorem flashErase_keeps {s : State} (cs : Nat) (a : Nat) (n : Nat) (t : State) (h : Keeps eff s t)
    (h_flash : eff.flash = true := by assumption) : Keeps eff s (flashErase cs a n t) :=
  h.setFlash _ fun m => kwf_filter _ _ _ ((State.memWf_iff t).mp m).2.2.1

theorem useFrees_keeps {s : State} (n : Nat) (t : State) (h : Keeps eff s t)   :
    Keeps eff s (useFrees n t) := by
  delta useFrees
  try dsimp only
  repeat' first
    | with_reducible assumption
    | intro _
    | with_reducible apply Keeps.ite
    | with_reducible apply Keeps.foldl
    | split
    | with_reducible apply Keeps.fields
    | with_reducible rfl

theorem flashTorn_keeps {s : State} (cs : Nat) (a : Nat) (n : Nat) (t : State) (h : Keeps eff s t)  (h_flash : eff.flash = true := by assumption) :
    Keeps eff s (flashTorn cs a n t) := by
  delta flashTorn
  try dsimp only
  repeat' first
    | with_reducible assumption
    | intro _
    | with_reducible apply Keeps.ite
    | with_reducible apply Keeps.foldl
    | with_reducible apply flashProg_keeps
    | with_reducible apply useFrees_keeps
    | split
    | with_reducible apply Keeps.fields
    | with_reducible rfl

theorem flashRuined_keeps {s : State} (cs : Nat) (a : Nat) (n : Nat) (t : State) (h : Keeps eff s t)  (h_flash : eff.flash = true := by assumption) :
    Keeps eff s (flashRuined cs a n t) := by
  delta flashRuined
  try dsimp only
  repeat' first
    | with_reducible assumption
    | intro _
    | with_reducible apply Keeps.ite
    | with_reducible apply Keeps.foldl
    | with_reducible apply flashProg_keeps
    | with_reducible apply flashErase_keeps
    | with_reducible apply useFrees_keeps
    | split
    | with_reducible apply Keeps.fields
    | with_reducible rfl

theorem jobDone_keeps {s : State} (cs : Nat) (j : FlashJob) (t : State) (h : Keeps eff s t)  (h_flash : eff.flash = true := by assumption) :
    Keeps eff s (jobDone cs j t) := by
  delta jobDone
  try dsimp only
  repeat' first
    | with_reducible assumption
    | intro _
    | with_reducible apply Keeps.ite
    | with_reducible apply Keeps.foldl
    | with_reducible apply flashProg_keeps
    | with_reducible apply flashErase_keeps
    | split
    | with_reducible apply Keeps.fields
    | with_reducible rfl

theorem jobFailed_keeps {s : State} (cs : Nat) (j : FlashJob) (t : State) (h : Keeps eff s t)  (h_flash : eff.flash = true := by assumption) :
    Keeps eff s (jobFailed cs j t) := by
  delta jobFailed
  try dsimp only
  repeat' first
    | with_reducible assumption
    | intro _
    | with_reducible apply Keeps.ite
    | with_reducible apply Keeps.foldl
    | with_reducible apply flashTorn_keeps
    | with_reducible apply flashRuined_keeps
    | split
    | with_reducible apply Keeps.fields
    | with_reducible rfl

theorem setS1Run_keeps {s : State} (cs : Nat) (u : Nat) (t : State) (h : Keeps eff s t)   :
    Keeps eff s (setS1Run cs u t) := by
  delta setS1Run
  try dsimp only
  repeat' first
    | with_reducible assumption
    | intro _
    | with_reducible apply Keeps.ite
    | with_reducible apply Keeps.foldl
    | with_reducible apply State.modSp1_keeps
    | split
    | with_reducible apply Keeps.fields
    | with_reducible rfl

theorem s1Grant_keeps {s : State} (cs : Nat) (t : State) (h : Keeps eff s t)   :
    Keeps eff s (s1Grant cs t) := by
  delta s1Grant
  try dsimp only
  repeat' first
    | with_reducible assumption
    | intro _
    | with_reducible apply Keeps.ite
    | with_reducible apply Keeps.foldl
    | with_reducible apply setS1Run_keeps
    | split
    | with_reducible apply Keeps.fields
    | with_reducible rfl

theorem sp1Show_keeps {s : State} (t : State) (h : Keeps eff s t)   :
    Keeps eff s (sp1Show t) := by
  delta sp1Show
  try dsimp only
  repeat' first
    | with_reducible assumption
    | intro _
    | with_reducible apply Keeps.ite
    | with_reducible apply Keeps.foldl
    | with_reducible apply State.put_keeps
    | with_reducible apply State.putB_keeps
    | split
    | with_reducible apply Keeps.fields
    | with_reducible rfl

theorem s1Go_keeps {s : State} (t : State) (h : Keeps eff s t)   :
    Keeps eff s (s1Go t) := by
  delta s1Go
  try dsimp only
  repeat' first
    | with_reducible assumption
    | intro _
    | with_reducible apply Keeps.ite
    | with_reducible apply Keeps.foldl
    | with_reducible apply s1Grant_keeps
    | with_reducible apply sp1Show_keeps
    | split
    | with_reducible apply Keeps.fields
    | with_reducible rfl

theorem s1Free_keeps {s : State} (cs : Nat) (t : State) (h : Keeps eff s t)   :
    Keeps eff s (s1Free cs t) := by
  delta s1Free
  try dsimp only
  repeat' first
    | with_reducible assumption
    | intro _
    | with_reducible apply Keeps.ite
    | with_reducible apply Keeps.foldl
    | with_reducible apply unquiet_keeps
    | with_reducible apply setS1Run_keeps
    | with_reducible apply s1Go_keeps
    | split
    | with_reducible apply Keeps.fields
    | with_reducible rfl

theorem winWrite_keeps {s : State} (x : Nat) (inc : Bool) (data : List Word) (t : State) (h : Keeps eff s t)   :
    Keeps eff s (winWrite x inc data t).2 := by
  delta winWrite
  try dsimp only
  repeat' first
    | with_reducible assumption
    | intro _
    | with_reducible apply Keeps.ite
    | with_reducible apply Keeps.foldl
    | with_reducible apply State.put_keeps
    | with_reducible apply State.modS0_keeps
    | with_reducible apply State.modSp1_keeps
    | with_reducible apply sp1Show_keeps
    | with_reducible apply s1Go_keeps
    | split
    | with_reducible apply Keeps.fields
    | with_reducible rfl

theorem pageProgram_keeps {s : State} (o : Nat) (t : State) (h : Keeps eff s t)  (h_flash : eff.flash = true := by assumption) :
    Keeps eff s (pageProgram o t) := by
  delta pageProgram
  try dsimp only
  repeat' first
    | with_reducible assumption
    | intro _
    | with_reducible apply Keeps.ite
    | with_reducible apply Keeps.foldl
    | with_reducible apply State.modSp1_keeps
    | with_reducible apply flashProg_keeps
    | with_reducible apply flashTorn_keeps
    | with_reducible apply s1Free_keeps
    | split
    | with_reducible apply Keeps.fields
    | with_reducible rfl

theorem writeDone_keeps {s : State} (t : State) (h : Keeps eff s t)   :
    Keeps eff s (writeDone t) := by
  delta writeDone
  try dsimp only
  repeat' first
    | with_reducible assumption
    | intro _
    | with_reducible apply Keeps.ite
    | with_reducible apply Keeps.foldl
    | with_reducible apply State.put_keeps
    | with_reducible apply State.set1_keeps
    | with_reducible apply State.modSp1_keeps
    | with_reducible apply s1Go_keeps
    | split
    | with_reducible apply Keeps.fields
    | with_reducible rfl

theorem windowRead_keeps {s : State} (t : State) (h : Keeps eff s t)   :
    Keeps eff s (windowRead t) := by
  delta windowRead
  try dsimp only
  repeat' first
    | with_reducible assumption
    | intro _
    | with_reducible apply Keeps.ite
    | with_reducible apply Keeps.foldl
    | with_reducible apply State.modS0_keeps
    | with_reducible apply sp1Show_keeps
    | split
    | with_reducible apply Keeps.fields
    | with_reducible rfl

theorem sp1CmdWrite_keeps {s : State} (r : Req) (w : Word) (t : State) (h : Keeps eff s t)   :
    Keeps eff s (sp1CmdWrite r w t) := by
  delta sp1CmdWrite
  try dsimp only
  repeat' first
    | with_reducible assumption
    | intro _
    | with_reducible apply Keeps.ite
    | with_reducible apply Keeps.foldl
    | with_reducible apply State.put_keeps
    | with_reducible apply State.set1_keeps
    | with_reducible apply State.modSp1_keeps
    | with_reducible apply s1Go_keeps
    | split
    | with_reducible apply Keeps.fields
    | with_reducible rfl

theorem putBuf_keeps {s : State} (base : Nat) (l : List Byte) (t : State) (h : Keeps eff s t)   :
    Keeps eff s (putBuf base l t) := by
  delta putBuf
  try dsimp only
  repeat' first
    | with_reducible assumption
    | intro _
    | with_reducible apply Keeps.ite
    | with_reducible apply Keeps.foldl
    | with_reducible apply wr_keeps
    | with_reducible apply State.each_keeps
    | split
    | with_reducible apply Keeps.fields
    | with_reducible rfl

theorem rawChanges_keeps {s : State} (cs : Nat) (l : List (Nat × Byte)) (t : State) (h : Keeps eff s t)
    (h_flash : eff.flash = true := by assumption) : Keeps eff s (rawChanges cs l t) :=
  State.each_keeps _ _ _ h fun _ u hu => hu.setFlash _ fun m => kwf_kset _ _ _ _ _ rfl ((State.memWf_iff u).mp m).2.2.1

theorem opDone_keeps {s : State} (err : Nat) (rx : List Byte) (chg : List (Nat × Byte)) (t : State) (h : Keeps eff s t)  (h_flash : eff.flash = true := by assumption) :
    Keeps eff s (opDone err rx chg t) := by
  delta opDone
  try dsimp only
  repeat' first
    | with_reducible assumption
    | intro _
    | with_reducible apply Keeps.ite
    | with_reducible apply Keeps.foldl
    | with_reducible apply State.put_keeps
    | with_reducible apply State.set1_keeps
    | with_reducible apply State.modSp1_keeps
    | with_reducible apply jobDone_keeps
    | with_reducible apply jobFailed_keeps
    | with_reducible apply s1Free_keeps
    | with_reducible apply putBuf_keeps
    | with_reducible apply rawChanges_keeps
    | split
    | with_reducible apply Keeps.fields
    | with_reducible rfl

theorem sp1CfgWrite_keeps {s : State} (w : Word) (t : State) (h : Keeps eff s t)   :
    Keeps eff s (sp1CfgWrite w t) := by
  delta sp1CfgWrite
  try dsimp only
  repeat' first
    | with_reducible assumption
    | intro _
    | with_reducible apply Keeps.ite
    | with_reducible apply Keeps.foldl
    | with_reducible apply State.put_keeps
    | with_reducible apply State.modSp1_keeps
    | with_reducible apply store_keeps
    | with_reducible apply s1Go_keeps
    | split
    | with_reducible apply Keeps.fields
    | with_reducible rfl

theorem sp1FrameWrite_keeps {s : State} (w : Word) (t : State) (h : Keeps eff s t)   :
    Keeps eff s (sp1FrameWrite w t) := by
  delta sp1FrameWrite
  try dsimp only
  repeat' first
    | with_reducible assumption
    | intro _
    | with_reducible apply Keeps.ite
    | with_reducible apply Keeps.foldl
    | with_reducible apply store_keeps
    | with_reducible apply sp1Show_keeps
    | split
    | with_reducible apply Keeps.fields
    | with_reducible rfl

theorem sp2Show_keeps {s : State} (t : State) (h : Keeps eff s t)   :
    Keeps eff s (sp2Show t) := by
  delta sp2Show
  try dsimp only
  repeat' first
    | with_reducible assumption
    | intro _
    | with_reducible apply Keeps.ite
    | with_reducible apply Keeps.foldl
    | with_reducible apply State.putB_keeps
    | split
    | with_reducible apply Keeps.fields
    | with_reducible rfl

theorem sp2CfgWrite_keeps {s : State} (w : Word) (t : State) (h : Keeps eff s t)   :
    Keeps eff s (sp2CfgWrite w t) := by
  delta sp2CfgWrite
  try dsimp only
  repeat' first
    | with_reducible assumption
    | intro _
    | with_reducible apply Keeps.ite
    | with_reducible apply Keeps.foldl
    | with_reducible apply State.put_keeps
    | with_reducible apply State.set1_keeps
    | with_reducible apply State.modSp2_keeps
    | with_reducible apply store_keeps
    | with_reducible apply sp2Show_keeps
    | split
    | with_reducible apply Keeps.fields
    | with_reducible rfl

theorem sp2SlvWrite_keeps {s : State} (w : Word) (t : State) (h : Keeps eff s t)   :
    Keeps eff s (sp2SlvWrite w t) := by
  delta sp2SlvWrite
  try dsimp only
  repeat' first
    | with_reducible assumption
    | intro _
    | with_reducible apply Keeps.ite
    | with_reducible apply Keeps.foldl
    | with_reducible apply store_keeps
    | with_reducible apply sp2Show_keeps
    | split
    | with_reducible apply Keeps.fields
    | with_reducible rfl

theorem sp2FrameWrite_keeps {s : State} (w : Word) (t : State) (h : Keeps eff s t)   :
    Keeps eff s (sp2FrameWrite w t) := by
  delta sp2FrameWrite
  try dsimp only
  repeat' first
    | with_reducible assumption
    | intro _
    | with_reducible apply Keeps.ite
    | with_reducible apply Keeps.foldl
    | with_reducible apply store_keeps
    | with_reducible apply sp2Show_keeps
    | split
    | with_reducible apply Keeps.fields
    | with_reducible rfl

theorem roleChange_keeps {s : State} (t : State) (h : Keeps eff s t)   :
    Keeps eff s (roleChange t) := by
  delta roleChange
  try dsimp only
  repeat' first
    | with_reducible assumption
    | intro _
    | with_reducible apply Keeps.ite
    | with_reducible apply Keeps.foldl
    | with_reducible apply State.modSp2_keeps
    | split
    | with_reducible apply Keeps.fields
    | with_reducible rfl

theorem s2Start_keeps {s : State} (x : S2Xfer) (ws : List Word) (t : State) (h : Keeps eff s t)   :
    Keeps eff s (s2Start x ws t) := by
  delta s2Start
  try dsimp only
  repeat' first
    | with_reducible assumption
    | intro _
    | with_reducible apply Keeps.ite
    | with_reducible apply Keeps.foldl
    | with_reducible apply State.modSp2_keeps
    | with_reducible apply sp2Show_keeps
    | split
    | with_reducible apply Keeps.fields
    | with_reducible rfl

theorem sp2CmdWrite_keeps {s : State} (w : Word) (t : State) (h : Keeps eff s t)   :
    Keeps eff s (sp2CmdWrite w t) := by
  delta sp2CmdWrite
  try dsimp only
  repeat' first
    | with_reducible assumption
    | intro _
    | with_reducible apply Keeps.ite
    | with_reducible apply Keeps.foldl
    | with_reducible apply State.put_keeps
    | with_reducible apply s2Start_keeps
    | split
    | with_reducible apply Keeps.fields
    | with_reducible rfl

theorem s2Send_keeps {s : State} (c : Nat) (l : List Byte) (t : State) (h : Keeps eff s t)   :
    Keeps eff s (s2Send c l t) := by
  delta s2Send
  try dsimp only
  repeat' first
    | with_reducible assumption
    | intro _
    | with_reducible apply Keeps.ite
    | with_reducible apply Keeps.foldl
    | with_reducible apply s2Start_keeps
    | split
    | with_reducible apply Keeps.fields
    | with_reducible rfl

theorem transferEnd_keeps {s : State} (rx : List Word) (t : State) (h : Keeps eff s t)  (h_qmem : eff.qmem = true := by assumption) (h_power : eff.power = true := by assumption) :
    Keeps eff s (transferEnd rx t) := by
  delta transferEnd
  try dsimp only
  repeat' first
    | with_reducible assumption
    | intro _
    | with_reducible apply Keeps.ite
    | with_reducible apply Keeps.foldl
    | with_reducible apply wr_keeps
    | with_reducible apply State.put_keeps
    | with_reducible apply State.each_keeps
    | with_reducible apply State.modSp2_keeps
    | with_reducible apply ctxResume_keeps
    | with_reducible apply ctxFrame_keeps
    | with_reducible apply putBuf_keeps
    | with_reducible apply sp2Show_keeps
    | split
    | with_reducible apply Keeps.fields
    | with_reducible rfl

theorem modf_keeps {s : State} (t : State) (h : Keeps eff s t)   :
    Keeps eff s (modf t) := by
  delta modf
  try dsimp only
  repeat' first
    | with_reducible assumption
    | intro _
    | with_reducible apply Keeps.ite
    | with_reducible apply Keeps.foldl
    | with_reducible apply State.put_keeps
    | with_reducible apply State.set1_keeps
    | with_reducible apply State.modCtx_keeps
    | with_reducible apply State.modSp2_keeps
    | with_reducible apply ctxResume_keeps
    | with_reducible apply sp2Show_keeps
    | split
    | with_reducible apply Keeps.fields
    | with_reducible rfl

theorem slvCmdWrite_keeps {s : State} (w : Word) (t : State) (h : Keeps eff s t)   :
    Keeps eff s (slvCmdWrite w t) := by
  delta slvCmdWrite
  try dsimp only
  repeat' first
    | with_reducible assumption
    | intro _
    | with_reducible apply Keeps.ite
    | with_reducible apply Keeps.foldl
    | with_reducible apply State.modSp2_keeps
    | split
    | with_reducible apply Keeps.fields
    | with_reducible rfl

theorem slaveStart_keeps {s : State} (t : State) (h : Keeps eff s t)   :
    Keeps eff s (slaveStart t) := by
  delta slaveStart
  try dsimp only
  repeat' first
    | with_reducible assumption
    | intro _
    | with_reducible apply Keeps.ite
    | with_reducible apply Keeps.foldl
    | with_reducible apply State.set1_keeps
    | with_reducible apply State.modSp2_keeps
    | split
    | with_reducible apply Keeps.fields
    | with_reducible rfl

theorem slaveEnd_keeps {s : State} (rx : List Word) (frag : Bool) (t : State) (h : Keeps eff s t)  (h_qmem : eff.qmem = true := by assumption) (h_power : eff.power = true := by assumption) :
    Keeps eff s (slaveEnd rx frag t) := by
  delta slaveEnd
  try dsimp only
  repeat' first
    | with_reducible assumption
    | intro _
    | with_reducible apply Keeps.ite
    | with_reducible apply Keeps.foldl
    | with_reducible apply State.set1_keeps
    | with_reducible apply State.modSp2_keeps
    | with_reducible apply qPushVar_keeps
    | with_reducible apply ctxFrame_keeps
    | split
    | with_reducible apply Keeps.fields
    | with_reducible rfl

theorem logShow_keeps {s : State} (r : Nat) (st : Nat) (t : State) (h : Keeps eff s t)   :
    Keeps eff s (logShow r st t) := by
  delta logShow
  try dsimp only
  repeat' first
    | with_reducible assumption
    | intro _
    | with_reducible apply Keeps.ite
    | with_reducible apply Keeps.foldl
    | with_reducible apply wr_keeps
    | with_reducible apply State.put_keeps
    | split
    | with_reducible apply Keeps.fields
    | with_reducible rfl

theorem logStart_keeps {s : State} (r : Nat) (tag : Nat) (body : List Byte) (t : State) (h : Keeps eff s t)   :
    Keeps eff s (logStart r tag body t) := by
  delta logStart
  try dsimp only
  repeat' first
    | with_reducible assumption
    | intro _
    | with_reducible apply Keeps.ite
    | with_reducible apply Keeps.foldl
    | with_reducible apply State.setLogr_keeps
    | with_reducible apply s1Go_keeps
    | with_reducible apply logShow_keeps
    | split
    | with_reducible apply Keeps.fields
    | with_reducible rfl

theorem logOpen_keeps {s : State} (r : Nat) (t : State) (h : Keeps eff s t)   :
    Keeps eff s (logOpen r t) := by
  delta logOpen
  try dsimp only
  repeat' first
    | with_reducible assumption
    | intro _
    | with_reducible apply Keeps.ite
    | with_reducible apply Keeps.foldl
    | with_reducible apply State.put_keeps
    | with_reducible apply State.setLogr_keeps
    | with_reducible apply s1Go_keeps
    | with_reducible apply logShow_keeps
    | split
    | with_reducible apply Keeps.fields
    | with_reducible rfl

theorem logResume_keeps {s : State} (r : Nat) (t : State) (h : Keeps eff s t)   :
    Keeps eff s (logResume r t) := by
  delta logResume
  try dsimp only
  repeat' first
    | with_reducible assumption
    | intro _
    | with_reducible apply Keeps.ite
    | with_reducible apply Keeps.foldl
    | with_reducible apply State.setLogr_keeps
    | with_reducible apply logStart_keeps
    | with_reducible apply logOpen_keeps
    | split
    | with_reducible apply Keeps.fields
    | with_reducible rfl

theorem logScan_keeps {s : State} (r : Nat) (t : State) (h : Keeps eff s t)   :
    Keeps eff s (logScan r t) := by
  delta logScan
  try dsimp only
  repeat' first
    | with_reducible assumption
    | intro _
    | with_reducible apply Keeps.ite
    | with_reducible apply Keeps.foldl
    | with_reducible apply wr_keeps
    | with_reducible apply State.put_keeps
    | with_reducible apply State.inc_keeps
    | with_reducible apply State.setLogr_keeps
    | with_reducible apply logShow_keeps
    | with_reducible apply logResume_keeps
    | split
    | with_reducible apply Keeps.fields
    | with_reducible rfl

theorem logTake_keeps {s : State} (q : Nat) (t : State) (h : Keeps eff s t)   :
    Keeps eff s (logTake q t) := by
  delta logTake
  try dsimp only
  repeat' first
    | with_reducible assumption
    | intro _
    | with_reducible apply Keeps.ite
    | with_reducible apply Keeps.foldl
    | with_reducible apply qStore_keeps
    | split
    | with_reducible apply Keeps.fields
    | with_reducible rfl

theorem logRecordWrite_keeps {s : State} (r : Nat) (q : Nat) (t : State) (h : Keeps eff s t)   :
    Keeps eff s (logRecordWrite r q t) := by
  delta logRecordWrite
  try dsimp only
  repeat' first
    | with_reducible assumption
    | intro _
    | with_reducible apply Keeps.ite
    | with_reducible apply Keeps.foldl
    | with_reducible apply State.setQueue_keeps
    | with_reducible apply State.setLogr_keeps
    | with_reducible apply logStart_keeps
    | with_reducible apply logTake_keeps
    | split
    | with_reducible apply Keeps.fields
    | with_reducible rfl

theorem sectorOpen_keeps {s : State} (r : Nat) (q : Nat) (t : State) (h : Keeps eff s t)   :
    Keeps eff s (sectorOpen r q t) := by
  delta sectorOpen
  try dsimp only
  repeat' first
    | with_reducible assumption
    | intro _
    | with_reducible apply Keeps.ite
    | with_reducible apply Keeps.foldl
    | with_reducible apply logOpen_keeps
    | with_reducible apply logResume_keeps
    | split
    | with_reducible apply Keeps.fields
    | with_reducible rfl

theorem logScanShow_keeps {s : State} (r : Nat) (t : State) (h : Keeps eff s t)   :
    Keeps eff s (logScanShow r t) := by
  delta logScanShow
  try dsimp only
  repeat' first
    | with_reducible assumption
    | intro _
    | with_reducible apply Keeps.ite
    | with_reducible apply Keeps.foldl
    | with_reducible apply State.put_keeps
    | split
    | with_reducible apply Keeps.fields
    | with_reducible rfl

theorem logRescan_keeps {s : State} (r : Nat) (t : State) (h : Keeps eff s t)   :
    Keeps eff s (logRescan r t) := by
  delta logRescan
  try dsimp only
  repeat' first
    | with_reducible assumption
    | intro _
    | with_reducible apply Keeps.ite
    | with_reducible apply Keeps.foldl
    | with_reducible apply State.put_keeps
    | with_reducible apply State.setLogr_keeps
    | with_reducible apply logScanShow_keeps
    | split
    | with_reducible apply Keeps.fields
    | with_reducible rfl

theorem logFlashDone_keeps {s : State} (r : Nat) (ok : Bool) (t : State) (h : Keeps eff s t)  (h_flash : eff.flash = true := by assumption) :
    Keeps eff s (logFlashDone r ok t) := by
  delta logFlashDone
  try dsimp only
  repeat' first
    | with_reducible assumption
    | intro _
    | with_reducible apply Keeps.ite
    | with_reducible apply Keeps.foldl
    | with_reducible apply wr_keeps
    | with_reducible apply State.put_keeps
    | with_reducible apply State.inc_keeps
    | with_reducible apply State.setLogr_keeps
    | with_reducible apply jobDone_keeps
    | with_reducible apply jobFailed_keeps
    | with_reducible apply setS1Run_keeps
    | with_reducible apply s1Go_keeps
    | with_reducible apply s1Free_keeps
    | with_reducible apply logShow_keeps
    | with_reducible apply logResume_keeps
    | with_reducible apply logRescan_keeps
    | split
    | with_reducible apply Keeps.fields
    | with_reducible rfl

theorem logRestart_keeps {s : State} (t : State) (h : Keeps eff s t)   :
    Keeps eff s (logRestart t) := by
  delta logRestart
  try dsimp only
  repeat' first
    | with_reducible assumption
    | intro _
    | with_reducible apply Keeps.ite
    | with_reducible apply Keeps.foldl
    | with_reducible apply State.each_keeps
    | with_reducible apply logRescan_keeps
    | split
    | with_reducible apply Keeps.fields
    | with_reducible rfl

theorem logQmapWrite_keeps {s : State} (r : Nat) (w : Word) (t : State) (h : Keeps eff s t)   :
    Keeps eff s (logQmapWrite r w t) := by
  delta logQmapWrite
  try dsimp only
  repeat' first
    | with_reducible assumption
    | intro _
    | with_reducible apply Keeps.ite
    | with_reducible apply Keeps.foldl
    | split
    | with_reducible apply Keeps.fields
    | with_reducible rfl

theorem withSeq_keeps {s : State} (c : Nat) (noseq : Bool) (l : List Byte) (t : State) (h : Keeps eff s t)   :
    Keeps eff s (withSeq c noseq l t).2 := by
  delta withSeq
  try dsimp only
  repeat' first
    | with_reducible assumption
    | intro _
    | with_reducible apply Keeps.ite
    | with_reducible apply Keeps.foldl
    | with_reducible apply State.modCtx_keeps
    | with_reducible apply advanceTx_keeps
    | split
    | with_reducible apply Keeps.fields
    | with_reducible rfl

theorem retryHere_keeps {s : State} (c : Nat) (pc : Nat) (t : State) (h : Keeps eff s t)   :
    Keeps eff s (retryHere c pc t) := by
  delta retryHere
  try dsimp only
  repeat' first
    | with_reducible assumption
    | intro _
    | with_reducible apply Keeps.ite
    | with_reducible apply Keeps.foldl
    | with_reducible apply State.modCtx_keeps
    | split
    | with_reducible apply Keeps.fields
    | with_reducible rfl

theorem sendMsg_keeps {s : State} (c : Nat) (h1 : HWord) (m : Msg) (t : State) (h : Keeps eff s t)  (h_qmem : eff.qmem = true := by assumption) (h_power : eff.power = true := by assumption) :
    Keeps eff s (sendMsg c h1 m t) := by
  delta sendMsg
  try dsimp only
  repeat' first
    | with_reducible assumption
    | intro _
    | with_reducible apply Keeps.ite
    | with_reducible apply Keeps.foldl
    | with_reducible apply ctxWait_keeps
    | with_reducible apply ctxBlock_keeps
    | with_reducible apply progErr_keeps
    | with_reducible apply txQueue_keeps
    | with_reducible apply refuse_keeps
    | with_reducible apply stepOver_keeps
    | with_reducible apply s2Send_keeps
    | with_reducible apply retryHere_keeps
    | with_reducible apply withSeq_keeps
    | split
    | with_reducible apply Keeps.fields
    | with_reducible rfl

theorem withLiteral_keeps {s : State} (c : Nat) (h1 : HWord) (data : Bool) (f : List Word → List Byte → State → State) (t : State) (h : Keeps eff s t) (hf : ∀ y0 y1 u, Keeps eff s u → Keeps eff s (f y0 y1 u)) (h_qmem : eff.qmem = true := by assumption) :
    Keeps eff s (withLiteral c h1 data f t) := by
  delta withLiteral
  try dsimp only
  repeat' first
    | with_reducible assumption
    | intro _
    | with_reducible apply Keeps.ite
    | with_reducible apply Keeps.foldl
    | with_reducible apply hf
    | with_reducible apply progErr_keeps
    | with_reducible apply withWords_keeps
    | split
    | with_reducible apply Keeps.fields
    | with_reducible rfl

theorem expectStart_keeps {s : State} (c : Nat) (h1 : HWord) (ds : List (List Word)) (dreg : Option Nat) (t : State) (h : Keeps eff s t)  (h_qmem : eff.qmem = true := by assumption) (h_power : eff.power = true := by assumption) :
    Keeps eff s (expectStart c h1 ds dreg t) := by
  delta expectStart
  try dsimp only
  repeat' first
    | with_reducible assumption
    | intro _
    | with_reducible apply Keeps.ite
    | with_reducible apply Keeps.foldl
    | with_reducible apply State.modCtx_keeps
    | with_reducible apply evaluate_keeps
    | with_reducible apply waitOn_keeps
    | split
    | with_reducible apply Keeps.fields
    | with_reducible rfl

theorem xferStart_keeps {s : State} (c : Nat) (h1 : HWord) (w : XferW) (begin : Nat → XferW → State → State) (t : State) (h : Keeps eff s t) (hbegin : ∀ y0 y1 u, Keeps eff s u → Keeps eff s (begin y0 y1 u)) (h_qmem : eff.qmem = true := by assumption) (h_power : eff.power = true := by assumption) :
    Keeps eff s (xferStart c h1 w begin t) := by
  delta xferStart
  try dsimp only
  repeat' first
    | with_reducible assumption
    | intro _
    | with_reducible apply Keeps.ite
    | with_reducible apply Keeps.foldl
    | with_reducible apply hbegin
    | with_reducible apply State.modCtx_keeps
    | with_reducible apply evaluate_keeps
    | with_reducible apply waitOn_keeps
    | split
    | with_reducible apply Keeps.fields
    | with_reducible rfl

theorem withBytes_keeps {s : State} (c : Nat) (a : Nat) (n : Nat) (f : List Byte → State → State) (t : State) (h : Keeps eff s t) (hf : ∀ y0 u, Keeps eff s u → Keeps eff s (f y0 u)) (h_qmem : eff.qmem = true := by assumption) :
    Keeps eff s (withBytes c a n f t) := by
  delta withBytes
  try dsimp only
  repeat' first
    | with_reducible assumption
    | intro _
    | with_reducible apply Keeps.ite
    | with_reducible apply Keeps.foldl
    | with_reducible apply hf
    | with_reducible apply withWords_keeps
    | split
    | with_reducible apply Keeps.fields
    | with_reducible rfl

theorem canErrState_keeps {s : State} (p : Nat) (t : State) (h : Keeps eff s t)  (h_qmem : eff.qmem = true := by assumption) (h_power : eff.power = true := by assumption) :
    Keeps eff s (canErrState p t) := by
  delta canErrState
  try dsimp only
  repeat' first
    | with_reducible assumption
    | intro _
    | with_reducible apply Keeps.ite
    | with_reducible apply Keeps.foldl
    | with_reducible apply State.put_keeps
    | with_reducible apply portRecord_keeps
    | with_reducible apply txFlush_keeps
    | with_reducible apply portEvent_keeps
    | split
    | with_reducible apply Keeps.fields
    | with_reducible rfl

theorem canSleepNow_keeps {s : State} (p : Nat) (t : State) (h : Keeps eff s t)  (h_qmem : eff.qmem = true := by assumption) :
    Keeps eff s (canSleepNow p t) := by
  delta canSleepNow
  try dsimp only
  repeat' first
    | with_reducible assumption
    | intro _
    | with_reducible apply Keeps.ite
    | with_reducible apply Keeps.foldl
    | with_reducible apply State.put_keeps
    | with_reducible apply State.set1_keeps
    | with_reducible apply State.modCan_keeps
    | with_reducible apply portRecord_keeps
    | with_reducible apply txFlush_keeps
    | split
    | with_reducible apply Keeps.fields
    | with_reducible rfl

theorem portPlace_keeps {s : State} (p : Nat) (t : State) (h : Keeps eff s t)  (h_qmem : eff.qmem = true := by assumption) (h_power : eff.power = true := by assumption) :
    Keeps eff s (portPlace p t) := by
  delta portPlace
  try dsimp only
  repeat' first
    | with_reducible assumption
    | intro _
    | with_reducible apply Keeps.ite
    | with_reducible apply Keeps.foldl
    | with_reducible apply State.each_keeps
    | with_reducible apply xferPlace_keeps
    | split
    | with_reducible apply Keeps.fields
    | with_reducible rfl

theorem frameEnd_keeps {s : State} (p : Nat) (t : State) (h : Keeps eff s t)  (h_qmem : eff.qmem = true := by assumption) (h_power : eff.power = true := by assumption) :
    Keeps eff s (frameEnd p t) := by
  delta frameEnd
  try dsimp only
  repeat' first
    | with_reducible assumption
    | intro _
    | with_reducible apply Keeps.ite
    | with_reducible apply Keeps.foldl
    | with_reducible apply State.modCan_keeps
    | with_reducible apply canSleepNow_keeps
    | with_reducible apply portPlace_keeps
    | split
    | with_reducible apply Keeps.fields
    | with_reducible rfl

theorem rxqWrite_keeps {s : State} (p : Nat) (x : Nat) (e : RxEnt) (t : State) (h : Keeps eff s t)  (h_qmem : eff.qmem = true := by assumption) :
    Keeps eff s (rxqWrite p x e t) := by
  delta rxqWrite
  try dsimp only
  repeat' first
    | with_reducible assumption
    | intro _
    | with_reducible apply Keeps.ite
    | with_reducible apply Keeps.foldl
    | with_reducible apply State.set1_keeps
    | with_reducible apply State.setQueue_keeps
    | with_reducible apply qPushDrop_keeps
    | with_reducible apply qPushVar_keeps
    | with_reducible apply canRecord_keeps
    | split
    | with_reducible apply Keeps.fields
    | with_reducible rfl

theorem setLvb_keeps {s : State} (p : Nat) (b : Nat) (x : LvbSt) (t : State) (h : Keeps eff s t)   :
    Keeps eff s (setLvb p b x t) := by
  delta setLvb
  try dsimp only
  repeat' first
    | with_reducible assumption
    | intro _
    | with_reducible apply Keeps.ite
    | with_reducible apply Keeps.foldl
    | with_reducible apply State.modCan_keeps
    | split
    | with_reducible apply Keeps.fields
    | with_reducible rfl

theorem lvbFront_keeps {s : State} (p : Nat) (b : Nat) (e : RxEnt) (t : State) (h : Keeps eff s t)   :
    Keeps eff s (lvbFront p b e t) := by
  delta lvbFront
  try dsimp only
  repeat' first
    | with_reducible assumption
    | intro _
    | with_reducible apply Keeps.ite
    | with_reducible apply Keeps.foldl
    | with_reducible apply wr_keeps
    | with_reducible apply State.each_keeps
    | split
    | with_reducible apply Keeps.fields
    | with_reducible rfl

theorem lvbWrite_keeps {s : State} (p : Nat) (b : Nat) (e : RxEnt) (t : State) (h : Keeps eff s t)   :
    Keeps eff s (lvbWrite p b e t) := by
  delta lvbWrite
  try dsimp only
  repeat' first
    | with_reducible assumption
    | intro _
    | with_reducible apply Keeps.ite
    | with_reducible apply Keeps.foldl
    | with_reducible apply State.set1_keeps
    | with_reducible apply State.inc_keeps
    | with_reducible apply setLvb_keeps
    | with_reducible apply lvbFront_keeps
    | split
    | with_reducible apply Keeps.fields
    | with_reducible rfl

theorem lvbOpen_keeps {s : State} (p : Nat) (b : Nat) (t : State) (h : Keeps eff s t)   :
    Keeps eff s (lvbOpen p b t) := by
  delta lvbOpen
  try dsimp only
  repeat' first
    | with_reducible assumption
    | intro _
    | with_reducible apply Keeps.ite
    | with_reducible apply Keeps.foldl
    | with_reducible apply State.put_keeps
    | with_reducible apply setLvb_keeps
    | with_reducible apply lvbFront_keeps
    | split
    | with_reducible apply Keeps.fields
    | with_reducible rfl

theorem lvbUnlock_keeps {s : State} (p : Nat) (b : Nat) (r : Nat) (t : State) (h : Keeps eff s t)   :
    Keeps eff s (lvbUnlock p b r t) := by
  delta lvbUnlock
  try dsimp only
  repeat' first
    | with_reducible assumption
    | intro _
    | with_reducible apply Keeps.ite
    | with_reducible apply Keeps.foldl
    | with_reducible apply setLvb_keeps
    | with_reducible apply lvbOpen_keeps
    | split
    | with_reducible apply Keeps.fields
    | with_reducible rfl

theorem lvbLock_keeps {s : State} (p : Nat) (b : Nat) (r : Nat) (t : State) (h : Keeps eff s t)   :
    Keeps eff s (lvbLock p b r t) := by
  delta lvbLock
  try dsimp only
  repeat' first
    | with_reducible assumption
    | intro _
    | with_reducible apply Keeps.ite
    | with_reducible apply Keeps.foldl
    | with_reducible apply setLvb_keeps
    | split
    | with_reducible apply Keeps.fields
    | with_reducible rfl

theorem canTarget_keeps {s : State} (p : Nat) (tgt : Nat) (ix : Nat) (e : RxEnt) (t : State) (h : Keeps eff s t)  (h_qmem : eff.qmem = true := by assumption) (h_power : eff.power = true := by assumption) :
    Keeps eff s (canTarget p tgt ix e t) := by
  delta canTarget
  try dsimp only
  repeat' first
    | with_reducible assumption
    | intro _
    | with_reducible apply Keeps.ite
    | with_reducible apply Keeps.foldl
    | with_reducible apply ctxFrame_keeps
    | with_reducible apply rxqWrite_keeps
    | with_reducible apply lvbWrite_keeps
    | split
    | with_reducible apply Keeps.fields
    | with_reducible rfl

theorem canFilter_keeps {s : State} (p : Nat) (x : Frame) (self : Bool) (t : State) (h : Keeps eff s t)  (h_qmem : eff.qmem = true := by assumption) (h_power : eff.power = true := by assumption) :
    Keeps eff s (canFilter p x self t) := by
  delta canFilter
  try dsimp only
  repeat' first
    | with_reducible assumption
    | intro _
    | with_reducible apply Keeps.ite
    | with_reducible apply Keeps.foldl
    | with_reducible apply State.each_keeps
    | with_reducible apply canTarget_keeps
    | split
    | with_reducible apply Keeps.fields
    | with_reducible rfl

theorem recDown_keeps {s : State} (p : Nat) (t : State) (h : Keeps eff s t)   :
    Keeps eff s (recDown p t) := by
  delta recDown
  try dsimp only
  repeat' first
    | with_reducible assumption
    | intro _
    | with_reducible apply Keeps.ite
    | with_reducible apply Keeps.foldl
    | with_reducible apply State.put_keeps
    | with_reducible apply State.useFree_keeps
    | split
    | with_reducible apply Keeps.fields
    | with_reducible rfl

theorem canReceive_keeps {s : State} (p : Nat) (x : Frame) (t : State) (h : Keeps eff s t)  (h_qmem : eff.qmem = true := by assumption) (h_power : eff.power = true := by assumption) :
    Keeps eff s (canReceive p x t) := by
  delta canReceive
  try dsimp only
  repeat' first
    | with_reducible assumption
    | intro _
    | with_reducible apply Keeps.ite
    | with_reducible apply Keeps.foldl
    | with_reducible apply State.inc_keeps
    | with_reducible apply aloneClear_keeps
    | with_reducible apply canErrState_keeps
    | with_reducible apply canFilter_keeps
    | with_reducible apply recDown_keeps
    | split
    | with_reducible apply Keeps.fields
    | with_reducible rfl

theorem setTxRes_keeps {s : State} (p : Nat) (r : Req) (v : Nat) (t : State) (h : Keeps eff s t)   :
    Keeps eff s (setTxRes p r v t) := by
  delta setTxRes
  try dsimp only
  repeat' first
    | with_reducible assumption
    | intro _
    | with_reducible apply Keeps.ite
    | with_reducible apply Keeps.foldl
    | with_reducible apply State.modCan_keeps
    | split
    | with_reducible apply Keeps.fields
    | with_reducible rfl

theorem canTxCmd_keeps {s : State} (p : Nat) (r : Req) (w : Word) (t : State) (h : Keeps eff s t)  (h_qmem : eff.qmem = true := by assumption) (h_power : eff.power = true := by assumption) :
    Keeps eff s (canTxCmd p r w t) := by
  delta canTxCmd
  try dsimp only
  repeat' first
    | with_reducible assumption
    | intro _
    | with_reducible apply Keeps.ite
    | with_reducible apply Keeps.foldl
    | with_reducible apply txQueue_keeps
    | with_reducible apply txFlush_keeps
    | with_reducible apply portPlace_keeps
    | with_reducible apply setTxRes_keeps
    | split
    | with_reducible apply Keeps.fields
    | with_reducible rfl

theorem stageWrite_keeps {s : State} (p : Nat) (a : Nat) (r : Req) (w : Word) (t : State) (h : Keeps eff s t)   :
    Keeps eff s (stageWrite p a r w t) := by
  delta stageWrite
  try dsimp only
  repeat' first
    | with_reducible assumption
    | intro _
    | with_reducible apply Keeps.ite
    | with_reducible apply Keeps.foldl
    | with_reducible apply State.modCan_keeps
    | with_reducible apply store_keeps
    | split
    | with_reducible apply Keeps.fields
    | with_reducible rfl

theorem putTx_keeps {s : State} (p : Nat) (x : TxEnt) (t : State) (h : Keeps eff s t)   :
    Keeps eff s (putTx p x t) := by
  delta putTx
  try dsimp only
  repeat' first
    | with_reducible assumption
    | intro _
    | with_reducible apply Keeps.ite
    | with_reducible apply Keeps.foldl
    | with_reducible apply State.modCan_keeps
    | split
    | with_reducible apply Keeps.fields
    | with_reducible rfl

theorem tdvMeasure_keeps {s : State} (p : Nat) (f : Frame) (t : State) (h : Keeps eff s t)   :
    Keeps eff s (tdvMeasure p f t) := by
  delta tdvMeasure
  try dsimp only
  repeat' first
    | with_reducible assumption
    | intro _
    | with_reducible apply Keeps.ite
    | with_reducible apply Keeps.foldl
    | with_reducible apply State.put_keeps
    | with_reducible apply State.useFree_keeps
    | split
    | with_reducible apply Keeps.fields
    | with_reducible rfl

theorem attemptStart_keeps {s : State} (p : Nat) (t : State) (h : Keeps eff s t)   :
    Keeps eff s (attemptStart p t) := by
  delta attemptStart
  try dsimp only
  repeat' first
    | with_reducible assumption
    | intro _
    | with_reducible apply Keeps.ite
    | with_reducible apply Keeps.foldl
    | with_reducible apply State.modCan_keeps
    | with_reducible apply putTx_keeps
    | with_reducible apply tdvMeasure_keeps
    | split
    | with_reducible apply Keeps.fields
    | with_reducible rfl

theorem attemptSuccess_keeps {s : State} (p : Nat) (t : State) (h : Keeps eff s t)  (h_qmem : eff.qmem = true := by assumption) (h_power : eff.power = true := by assumption) :
    Keeps eff s (attemptSuccess p t) := by
  delta attemptSuccess
  try dsimp only
  repeat' first
    | with_reducible assumption
    | intro _
    | with_reducible apply Keeps.ite
    | with_reducible apply Keeps.foldl
    | with_reducible apply State.put_keeps
    | with_reducible apply State.inc_keeps
    | with_reducible apply State.modTu_keeps
    | with_reducible apply entRecord_keeps
    | with_reducible apply txOutcome_keeps
    | with_reducible apply txDrop_keeps
    | with_reducible apply aloneRestart_keeps
    | with_reducible apply aloneClear_keeps
    | with_reducible apply evaluate_keeps
    | with_reducible apply xferSent_keeps
    | with_reducible apply canErrState_keeps
    | with_reducible apply frameEnd_keeps
    | with_reducible apply canFilter_keeps
    | split
    | with_reducible apply Keeps.fields
    | with_reducible rfl

theorem noteErr_keeps {s : State} (p : Nat) (e : CanErr) (t : State) (h : Keeps eff s t)   :
    Keeps eff s (noteErr p e t) := by
  delta noteErr
  try dsimp only
  repeat' first
    | with_reducible assumption
    | intro _
    | with_reducible apply Keeps.ite
    | with_reducible apply Keeps.foldl
    | with_reducible apply State.put_keeps
    | with_reducible apply State.putB_keeps
    | with_reducible apply State.inc_keeps
    | split
    | with_reducible apply Keeps.fields
    | with_reducible rfl

theorem tecUp_keeps {s : State} (p : Nat) (e : CanErr) (t : State) (h : Keeps eff s t)   :
    Keeps eff s (tecUp p e t) := by
  delta tecUp
  try dsimp only
  repeat' first
    | with_reducible assumption
    | intro _
    | with_reducible apply Keeps.ite
    | with_reducible apply Keeps.foldl
    | with_reducible apply State.addSat_keeps
    | split
    | with_reducible apply Keeps.fields
    | with_reducible rfl

theorem freeCounter_keeps {s : State} (f : FldRef) (t : State) (h : Keeps eff s t)   :
    Keeps eff s (freeCounter f t) := by
  delta freeCounter
  try dsimp only
  repeat' first
    | with_reducible assumption
    | intro _
    | with_reducible apply Keeps.ite
    | with_reducible apply Keeps.foldl
    | with_reducible apply State.put_keeps
    | with_reducible apply State.useFree_keeps
    | split
    | with_reducible apply Keeps.fields
    | with_reducible rfl

theorem aloneTold_keeps {s : State} (o : State) (p : Nat) (t : State) (h : Keeps eff s t)  (h_qmem : eff.qmem = true := by assumption) (h_power : eff.power = true := by assumption) :
    Keeps eff s (aloneTold o p t) := by
  delta aloneTold
  try dsimp only
  repeat' first
    | with_reducible assumption
    | intro _
    | with_reducible apply Keeps.ite
    | with_reducible apply Keeps.foldl
    | with_reducible apply portRecord_keeps
    | with_reducible apply portEvent_keeps
    | split
    | with_reducible apply Keeps.fields
    | with_reducible rfl

theorem attemptError_keeps {s : State} (p : Nat) (e : CanErr) (t : State) (h : Keeps eff s t)  (h_qmem : eff.qmem = true := by assumption) (h_power : eff.power = true := by assumption) :
    Keeps eff s (attemptError p e t) := by
  delta attemptError
  try dsimp only
  repeat' first
    | with_reducible assumption
    | intro _
    | with_reducible apply Keeps.ite
    | with_reducible apply Keeps.foldl
    | with_reducible apply State.set1_keeps
    | with_reducible apply State.addSat_keeps
    | with_reducible apply State.modCan_keeps
    | with_reducible apply entRecord_keeps
    | with_reducible apply canIntegrate_keeps
    | with_reducible apply aloneRestart_keeps
    | with_reducible apply alonePut_keeps
    | with_reducible apply txAbandon_keeps
    | with_reducible apply canErrState_keeps
    | with_reducible apply frameEnd_keeps
    | with_reducible apply putTx_keeps
    | with_reducible apply noteErr_keeps
    | with_reducible apply tecUp_keeps
    | with_reducible apply freeCounter_keeps
    | with_reducible apply aloneTold_keeps
    | split
    | with_reducible apply Keeps.fields
    | with_reducible rfl

theorem arbitrationLost_keeps {s : State} (p : Nat) (t : State) (h : Keeps eff s t)  (h_qmem : eff.qmem = true := by assumption) (h_power : eff.power = true := by assumption) :
    Keeps eff s (arbitrationLost p t) := by
  delta arbitrationLost
  try dsimp only
  repeat' first
    | with_reducible assumption
    | intro _
    | with_reducible apply Keeps.ite
    | with_reducible apply Keeps.foldl
    | with_reducible apply State.modCan_keeps
    | with_reducible apply txAbandon_keeps
    | with_reducible apply portPlace_keeps
    | with_reducible apply putTx_keeps
    | split
    | with_reducible apply Keeps.fields
    | with_reducible rfl

theorem busoffRecovery_keeps {s : State} (p : Nat) (t : State) (h : Keeps eff s t)  (h_qmem : eff.qmem = true := by assumption) :
    Keeps eff s (busoffRecovery p t) := by
  delta busoffRecovery
  try dsimp only
  repeat' first
    | with_reducible assumption
    | intro _
    | with_reducible apply Keeps.ite
    | with_reducible apply Keeps.foldl
    | with_reducible apply wr_keeps
    | with_reducible apply State.put_keeps
    | with_reducible apply State.inc_keeps
    | with_reducible apply canRecord_keeps
    | with_reducible apply portRecord_keeps
    | split
    | with_reducible apply Keeps.fields
    | with_reducible rfl

theorem canRxError_keeps {s : State} (p : Nat) (e : CanErr) (xl : Bool) (disabled : Bool) (t : State) (h : Keeps eff s t)  (h_qmem : eff.qmem = true := by assumption) (h_power : eff.power = true := by assumption) :
    Keeps eff s (canRxError p e xl disabled t) := by
  delta canRxError
  try dsimp only
  repeat' first
    | with_reducible assumption
    | intro _
    | with_reducible apply Keeps.ite
    | with_reducible apply Keeps.foldl
    | with_reducible apply State.addSat_keeps
    | with_reducible apply State.inc_keeps
    | with_reducible apply canIntegrate_keeps
    | with_reducible apply canErrState_keeps
    | with_reducible apply frameEnd_keeps
    | with_reducible apply noteErr_keeps
    | with_reducible apply freeCounter_keeps
    | split
    | with_reducible apply Keeps.fields
    | with_reducible rfl

theorem canSleepWrite_keeps {s : State} (p : Nat) (w : Word) (t : State) (h : Keeps eff s t)  (h_qmem : eff.qmem = true := by assumption) (h_power : eff.power = true := by assumption) :
    Keeps eff s (canSleepWrite p w t) := by
  delta canSleepWrite
  try dsimp only
  repeat' first
    | with_reducible assumption
    | intro _
    | with_reducible apply Keeps.ite
    | with_reducible apply Keeps.foldl
    | with_reducible apply State.modCan_keeps
    | with_reducible apply store_keeps
    | with_reducible apply canWake_keeps
    | with_reducible apply canSleepNow_keeps
    | split
    | with_reducible apply Keeps.fields
    | with_reducible rfl

theorem canWakeFrame_keeps {s : State} (p : Nat) (x : Frame) (t : State) (h : Keeps eff s t)  (h_qmem : eff.qmem = true := by assumption) (h_power : eff.power = true := by assumption) :
    Keeps eff s (canWakeFrame p x t) := by
  delta canWakeFrame
  try dsimp only
  repeat' first
    | with_reducible assumption
    | intro _
    | with_reducible apply Keeps.ite
    | with_reducible apply Keeps.foldl
    | with_reducible apply wr_keeps
    | with_reducible apply State.put_keeps
    | with_reducible apply State.each_keeps
    | with_reducible apply canWake_keeps
    | split
    | with_reducible apply Keeps.fields
    | with_reducible rfl

theorem setAdj_keeps {s : State} (p : Nat) (k : Nat) (b : Bool) (t : State) (h : Keeps eff s t)   :
    Keeps eff s (setAdj p k b t) := by
  delta setAdj
  try dsimp only
  repeat' first
    | with_reducible assumption
    | intro _
    | with_reducible apply Keeps.ite
    | with_reducible apply Keeps.foldl
    | with_reducible apply State.modCan_keeps
    | split
    | with_reducible apply Keeps.fields
    | with_reducible rfl

theorem timingWrite_keeps {s : State} (p : Nat) (k : Nat) (w : Word) (t : State) (h : Keeps eff s t)   :
    Keeps eff s (timingWrite p k w t) := by
  delta timingWrite
  try dsimp only
  repeat' first
    | with_reducible assumption
    | intro _
    | with_reducible apply Keeps.ite
    | with_reducible apply Keeps.foldl
    | with_reducible apply wr_keeps
    | with_reducible apply State.set1_keeps
    | with_reducible apply store_keeps
    | with_reducible apply setAdj_keeps
    | split
    | with_reducible apply Keeps.fields
    | with_reducible rfl

theorem canOffWrite_keeps {s : State} (p : Nat) (a : Nat) (w : Word) (t : State) (h : Keeps eff s t)   :
    Keeps eff s (canOffWrite p a w t) := by
  delta canOffWrite
  try dsimp only
  repeat' first
    | with_reducible assumption
    | intro _
    | with_reducible apply Keeps.ite
    | with_reducible apply Keeps.foldl
    | with_reducible apply State.set1_keeps
    | with_reducible apply store_keeps
    | split
    | with_reducible apply Keeps.fields
    | with_reducible rfl

theorem canCfgWrite_keeps {s : State} (p : Nat) (w : Word) (t : State) (h : Keeps eff s t)   :
    Keeps eff s (canCfgWrite p w t) := by
  delta canCfgWrite
  try dsimp only
  repeat' first
    | with_reducible assumption
    | intro _
    | with_reducible apply Keeps.ite
    | with_reducible apply Keeps.foldl
    | with_reducible apply State.set1_keeps
    | with_reducible apply store_keeps
    | with_reducible apply setAdj_keeps
    | split
    | with_reducible apply Keeps.fields
    | with_reducible rfl

theorem canModeTake_keeps {s : State} (p : Nat) (t : State) (h : Keeps eff s t)   :
    Keeps eff s (canModeTake p t) := by
  delta canModeTake
  try dsimp only
  repeat' first
    | with_reducible assumption
    | intro _
    | with_reducible apply Keeps.ite
    | with_reducible apply Keeps.foldl
    | with_reducible apply State.put_keeps
    | with_reducible apply State.each_keeps
    | with_reducible apply State.modCan_keeps
    | with_reducible apply canIntegrate_keeps
    | split
    | with_reducible apply Keeps.fields
    | with_reducible rfl

theorem fcSettle_keeps {s : State} (n : Nat) (o : State) (t : State) (h : Keeps eff s t)   :
    Keeps eff s (fcSettle n o t) := by
  delta fcSettle
  try dsimp only
  repeat' first
    | with_reducible assumption
    | intro _
    | with_reducible apply Keeps.ite
    | with_reducible apply Keeps.foldl
    | with_reducible apply fcRefresh_keeps
    | with_reducible apply presetRestart_keeps
    | split
    | with_reducible apply Keeps.fields
    | with_reducible rfl

theorem fcCfgWrite_keeps {s : State} (n : Nat) (w : Word) (t : State) (h : Keeps eff s t)   :
    Keeps eff s (fcCfgWrite n w t) := by
  delta fcCfgWrite
  try dsimp only
  repeat' first
    | with_reducible assumption
    | intro _
    | with_reducible apply Keeps.ite
    | with_reducible apply Keeps.foldl
    | with_reducible apply State.putB_keeps
    | with_reducible apply store_keeps
    | with_reducible apply fcSettle_keeps
    | split
    | with_reducible apply Keeps.fields
    | with_reducible rfl

theorem fcShiftWrite_keeps {s : State} (n : Nat) (w : Word) (t : State) (h : Keeps eff s t)   :
    Keeps eff s (fcShiftWrite n w t) := by
  delta fcShiftWrite
  try dsimp only
  repeat' first
    | with_reducible assumption
    | intro _
    | with_reducible apply Keeps.ite
    | with_reducible apply Keeps.foldl
    | with_reducible apply store_keeps
    | with_reducible apply fcSettle_keeps
    | split
    | with_reducible apply Keeps.fields
    | with_reducible rfl

theorem fcDelayWrite_keeps {s : State} (n : Nat) (w : Word) (t : State) (h : Keeps eff s t)   :
    Keeps eff s (fcDelayWrite n w t) := by
  delta fcDelayWrite
  try dsimp only
  repeat' first
    | with_reducible assumption
    | intro _
    | with_reducible apply Keeps.ite
    | with_reducible apply Keeps.foldl
    | with_reducible apply delayReset_keeps
    | with_reducible apply store_keeps
    | split
    | with_reducible apply Keeps.fields
    | with_reducible rfl

theorem recordWrite_keeps {s : State} (x : Nat) (o : Nat) (m : WMask) (w : Word) (t : State) (h : Keeps eff s t)   :
    Keeps eff s (recordWrite x o m w t) := by
  delta recordWrite
  try dsimp only
  repeat' first
    | with_reducible assumption
    | intro _
    | with_reducible apply Keeps.ite
    | with_reducible apply Keeps.foldl
    | with_reducible apply State.put_keeps
    | with_reducible apply State.each_keeps
    | with_reducible apply prRefresh_keeps
    | with_reducible apply store_keeps
    | with_reducible apply fcSettle_keeps
    | split
    | with_reducible apply Keeps.fields
    | with_reducible rfl

theorem thWrite_keeps {s : State} (n : Nat) (x : Nat) (reg : Nat) (w : Word) (t : State) (h : Keeps eff s t)   :
    Keeps eff s (thWrite n x reg w t) := by
  delta thWrite
  try dsimp only
  repeat' first
    | with_reducible assumption
    | intro _
    | with_reducible apply Keeps.ite
    | with_reducible apply Keeps.foldl
    | with_reducible apply wr_keeps
    | with_reducible apply store_keeps
    | split
    | with_reducible apply Keeps.fields
    | with_reducible rfl

theorem qbindWrite_keeps {s : State} (n : Nat) (w : Word) (t : State) (h : Keeps eff s t)   :
    Keeps eff s (qbindWrite n w t) := by
  delta qbindWrite
  try dsimp only
  repeat' first
    | with_reducible assumption
    | intro _
    | with_reducible apply Keeps.ite
    | with_reducible apply Keeps.foldl
    | with_reducible apply rebind_keeps
    | with_reducible apply store_keeps
    | split
    | with_reducible apply Keeps.fields
    | with_reducible rfl

theorem slotBegin_keeps {s : State} (t0 : Nat) (e : Nat) (t : State) (h : Keeps eff s t)   :
    Keeps eff s (slotBegin t0 e t) := by
  delta slotBegin
  try dsimp only
  repeat' first
    | with_reducible assumption
    | intro _
    | with_reducible apply Keeps.ite
    | with_reducible apply Keeps.foldl
    | with_reducible apply State.modTile_keeps
    | split
    | with_reducible apply Keeps.fields
    | with_reducible rfl

theorem slotRestart_keeps {s : State} (t0 : Nat) (t : State) (h : Keeps eff s t)   :
    Keeps eff s (slotRestart t0 t) := by
  delta slotRestart
  try dsimp only
  repeat' first
    | with_reducible assumption
    | intro _
    | with_reducible apply Keeps.ite
    | with_reducible apply Keeps.foldl
    | with_reducible apply slotBegin_keeps
    | split
    | with_reducible apply Keeps.fields
    | with_reducible rfl

theorem winEval_keeps {s : State} (t0 : Nat) (i : Nat) (d : Int) (t : State) (h : Keeps eff s t)   :
    Keeps eff s (winEval t0 i d t).1 := by
  delta winEval
  try dsimp only
  repeat' first
    | with_reducible assumption
    | intro _
    | with_reducible apply Keeps.ite
    | with_reducible apply Keeps.foldl
    | with_reducible apply State.put_keeps
    | with_reducible apply State.modTile_keeps
    | split
    | with_reducible apply Keeps.fields
    | with_reducible rfl

theorem auxResult_keeps {s : State} (t0 : Nat) (i : Nat) (raw : Int) (ovr : Bool) (t : State) (h : Keeps eff s t)  (h_qmem : eff.qmem = true := by assumption) :
    Keeps eff s (auxResult t0 i raw ovr t) := by
  delta auxResult
  try dsimp only
  repeat' first
    | with_reducible assumption
    | intro _
    | with_reducible apply Keeps.ite
    | with_reducible apply Keeps.foldl
    | with_reducible apply wr_keeps
    | with_reducible apply State.modTile_keeps
    | with_reducible apply raisePennants_keeps
    | with_reducible apply winEval_keeps
    | split
    | with_reducible apply Keeps.fields
    | with_reducible rfl

theorem showPend_keeps {s : State} (t0 : Nat) (t : State) (h : Keeps eff s t)   :
    Keeps eff s (showPend t0 t) := by
  delta showPend
  try dsimp only
  repeat' first
    | with_reducible assumption
    | intro _
    | with_reducible apply Keeps.ite
    | with_reducible apply Keeps.foldl
    | with_reducible apply State.put_keeps
    | split
    | with_reducible apply Keeps.fields
    | with_reducible rfl

theorem injQueue_keeps {s : State} (t0 : Nat) (x : InjReq) (t : State) (h : Keeps eff s t)   :
    Keeps eff s (injQueue t0 x t) := by
  delta injQueue
  try dsimp only
  repeat' first
    | with_reducible assumption
    | intro _
    | with_reducible apply Keeps.ite
    | with_reducible apply Keeps.foldl
    | with_reducible apply State.modTile_keeps
    | with_reducible apply slotRestart_keeps
    | with_reducible apply showPend_keeps
    | split
    | with_reducible apply Keeps.fields
    | with_reducible rfl

theorem caInjWrite_keeps {s : State} (r : Req) (w : Word) (t : State) (h : Keeps eff s t)   :
    Keeps eff s (caInjWrite r w t) := by
  delta caInjWrite
  try dsimp only
  repeat' first
    | with_reducible assumption
    | intro _
    | with_reducible apply Keeps.ite
    | with_reducible apply Keeps.foldl
    | with_reducible apply State.put_keeps
    | with_reducible apply injQueue_keeps
    | split
    | with_reducible apply Keeps.fields
    | with_reducible rfl

theorem injStore_keeps {s : State} (t0 : Nat) (x : InjReq) (d : Int) (ovr : Bool) (t : State) (h : Keeps eff s t)   :
    Keeps eff s (injStore t0 x d ovr t) := by
  delta injStore
  try dsimp only
  repeat' first
    | with_reducible assumption
    | intro _
    | with_reducible apply Keeps.ite
    | with_reducible apply Keeps.foldl
    | with_reducible apply wr_keeps
    | with_reducible apply State.put_keeps
    | with_reducible apply State.putB_keeps
    | with_reducible apply State.put64_keeps
    | split
    | with_reducible apply Keeps.fields
    | with_reducible rfl

theorem ainDone_keeps {s : State} (c : Nat) (d : Int) (ovr : Bool) (held : Bool) (t : State) (h : Keeps eff s t)   :
    Keeps eff s (ainDone c d ovr held t) := by
  delta ainDone
  try dsimp only
  repeat' first
    | with_reducible assumption
    | intro _
    | with_reducible apply Keeps.ite
    | with_reducible apply Keeps.foldl
    | with_reducible apply wr_keeps
    | with_reducible apply State.modCtx_keeps
    | with_reducible apply ctxResume_keeps
    | split
    | with_reducible apply Keeps.fields
    | with_reducible rfl

theorem calRequest_keeps {s : State} (t : State) (h : Keeps eff s t)  (h_qmem : eff.qmem = true := by assumption) :
    Keeps eff s (calRequest t) := by
  delta calRequest
  try dsimp only
  repeat' first
    | with_reducible assumption
    | intro _
    | with_reducible apply Keeps.ite
    | with_reducible apply Keeps.foldl
    | with_reducible apply State.put_keeps
    | with_reducible apply State.set1_keeps
    | with_reducible apply State.modCa_keeps
    | with_reducible apply permitDecide_keeps
    | split
    | with_reducible apply Keeps.fields
    | with_reducible rfl

theorem calWaitTile_keeps {s : State} (t0 : Nat) (t : State) (h : Keeps eff s t)   :
    Keeps eff s (calWaitTile t0 t) := by
  delta calWaitTile
  try dsimp only
  repeat' first
    | with_reducible assumption
    | intro _
    | with_reducible apply Keeps.ite
    | with_reducible apply Keeps.foldl
    | with_reducible apply State.modTile_keeps
    | with_reducible apply slotRestart_keeps
    | split
    | with_reducible apply Keeps.fields
    | with_reducible rfl

theorem convWrite_keeps {s : State} (i : Nat) (fail : Bool) (ofs : Int) (gain : Int) (t : State) (h : Keeps eff s t)   :
    Keeps eff s (convWrite i fail ofs gain t) := by
  delta convWrite
  try dsimp only
  repeat' first
    | with_reducible assumption
    | intro _
    | with_reducible apply Keeps.ite
    | with_reducible apply Keeps.foldl
    | with_reducible apply State.put_keeps
    | with_reducible apply State.set1_keeps
    | split
    | with_reducible apply Keeps.fields
    | with_reducible rfl

theorem factoryLoad_keeps {s : State} (t : State) (h : Keeps eff s t)   :
    Keeps eff s (factoryLoad t) := by
  delta factoryLoad
  try dsimp only
  repeat' first
    | with_reducible assumption
    | intro _
    | with_reducible apply Keeps.ite
    | with_reducible apply Keeps.foldl
    | with_reducible apply State.put_keeps
    | with_reducible apply State.each_keeps
    | split
    | with_reducible apply Keeps.fields
    | with_reducible rfl

theorem calStale_keeps {s : State} (t : State) (h : Keeps eff s t)   :
    Keeps eff s (calStale t) := by
  delta calStale
  try dsimp only
  repeat' first
    | with_reducible assumption
    | intro _
    | with_reducible apply Keeps.ite
    | with_reducible apply Keeps.foldl
    | with_reducible apply State.putB_keeps
    | split
    | with_reducible apply Keeps.fields
    | with_reducible rfl

theorem convAll_keeps {s : State} (sums : List Int) (marked : List Nat) (l : List Nat) (p : State × Nat) (h : Keeps eff s p.1) :
    Keeps eff s (convAll sums marked l p).1 := by
  induction l generalizing p with
  | nil => exact h
  | cons k l ih => exact ih _ (convWrite_keeps _ _ _ _ _ h)

theorem calFinish_keeps {s : State} (result : Nat) (permit : Nat) (t : State) (h : Keeps eff s t)  (h_qmem : eff.qmem = true := by assumption) :
    Keeps eff s (calFinish result permit t) := by
  delta calFinish
  try dsimp only
  repeat' first
    | with_reducible assumption
    | intro _
    | with_reducible apply Keeps.ite
    | with_reducible apply Keeps.foldl
    | with_reducible apply State.put_keeps
    | with_reducible apply State.when_keeps
    | with_reducible apply startStep_keeps
    | with_reducible apply raiseIrq_keeps
    | with_reducible apply State.modTile_keeps
    | with_reducible apply State.modCa_keeps
    | with_reducible apply syncApplyAt_keeps
    | with_reducible apply allTiles_keeps
    | with_reducible apply permitEnd_keeps
    | with_reducible apply slotRestart_keeps
    | split
    | with_reducible apply Keeps.fields
    | with_reducible rfl

theorem factorsBack_keeps {s : State} (t : State) (h : Keeps eff s t)   :
    Keeps eff s (factorsBack t) := by
  delta factorsBack
  try dsimp only
  repeat' first
    | with_reducible assumption
    | intro _
    | with_reducible apply Keeps.ite
    | with_reducible apply Keeps.foldl
    | with_reducible apply wr_keeps
    | with_reducible apply State.each_keeps
    | with_reducible apply State.modCa_keeps
    | with_reducible apply calStale_keeps
    | split
    | with_reducible apply Keeps.fields
    | with_reducible rfl

theorem calAbandon_keeps {s : State} (t : State) (h : Keeps eff s t)  (h_qmem : eff.qmem = true := by assumption) :
    Keeps eff s (calAbandon t) := by
  delta calAbandon
  try dsimp only
  repeat' first
    | with_reducible assumption
    | intro _
    | with_reducible apply Keeps.ite
    | with_reducible apply Keeps.foldl
    | with_reducible apply State.put_keeps
    | with_reducible apply State.modCa_keeps
    | with_reducible apply calFinish_keeps
    | with_reducible apply factorsBack_keeps
    | split
    | with_reducible apply Keeps.fields
    | with_reducible rfl

theorem factorWrite_keeps {s : State} (i : Nat) (gain : Bool) (w : Word) (t : State) (h : Keeps eff s t)   :
    Keeps eff s (factorWrite i gain w t) := by
  delta factorWrite
  try dsimp only
  repeat' first
    | with_reducible assumption
    | intro _
    | with_reducible apply Keeps.ite
    | with_reducible apply Keeps.foldl
    | with_reducible apply State.put_keeps
    | with_reducible apply State.set1_keeps
    | with_reducible apply State.modCa_keeps
    | with_reducible apply calStale_keeps
    | split
    | with_reducible apply Keeps.fields
    | with_reducible rfl

theorem eachSwept_keeps {s : State} (f : Nat → Nat → State → State) (t : State) (h : Keeps eff s t) (hf : ∀ y0 y1 u, Keeps eff s u → Keeps eff s (f y0 y1 u))  :
    Keeps eff s (eachSwept f t) := by
  delta eachSwept
  try dsimp only
  repeat' first
    | with_reducible assumption
    | intro _
    | with_reducible apply Keeps.ite
    | with_reducible apply Keeps.foldl
    | with_reducible apply hf
    | with_reducible apply State.each_keeps
    | with_reducible apply allTiles_keeps
    | split
    | with_reducible apply Keeps.fields
    | with_reducible rfl

theorem sweepCode_keeps {s : State} (c : Int) (t : State) (h : Keeps eff s t)   :
    Keeps eff s (sweepCode c t) := by
  delta sweepCode
  try dsimp only
  repeat' first
    | with_reducible assumption
    | intro _
    | with_reducible apply Keeps.ite
    | with_reducible apply Keeps.foldl
    | with_reducible apply State.put_keeps
    | with_reducible apply allTiles_keeps
    | split
    | with_reducible apply Keeps.fields
    | with_reducible rfl

theorem sweepStart_keeps {s : State} (t : State) (h : Keeps eff s t)   :
    Keeps eff s (sweepStart t) := by
  delta sweepStart
  try dsimp only
  repeat' first
    | with_reducible assumption
    | intro _
    | with_reducible apply Keeps.ite
    | with_reducible apply Keeps.foldl
    | with_reducible apply wr_keeps
    | with_reducible apply State.modTile_keeps
    | with_reducible apply allTiles_keeps
    | with_reducible apply setInject_keeps
    | with_reducible apply eachSwept_keeps
    | with_reducible apply sweepCode_keeps
    | split
    | with_reducible apply Keeps.fields
    | with_reducible rfl

theorem sweepRequest_keeps {s : State} (t : State) (h : Keeps eff s t)  (h_qmem : eff.qmem = true := by assumption) :
    Keeps eff s (sweepRequest t) := by
  delta sweepRequest
  try dsimp only
  repeat' first
    | with_reducible assumption
    | intro _
    | with_reducible apply Keeps.ite
    | with_reducible apply Keeps.foldl
    | with_reducible apply State.put_keeps
    | with_reducible apply State.set1_keeps
    | with_reducible apply State.when_keeps
    | with_reducible apply State.modCa_keeps
    | with_reducible apply permitDecide_keeps
    | with_reducible apply sweepStart_keeps
    | split
    | with_reducible apply Keeps.fields
    | with_reducible rfl

theorem sweepAbortReq_keeps {s : State} (t : State) (h : Keeps eff s t)   :
    Keeps eff s (sweepAbortReq t) := by
  delta sweepAbortReq
  try dsimp only
  repeat' first
    | with_reducible assumption
    | intro _
    | with_reducible apply Keeps.ite
    | with_reducible apply Keeps.foldl
    | with_reducible apply State.set1_keeps
    | with_reducible apply State.modCa_keeps
    | split
    | with_reducible apply Keeps.fields
    | with_reducible rfl

theorem caCmdWrite_keeps {s : State} (w : Word) (t : State) (h : Keeps eff s t)  (h_qmem : eff.qmem = true := by assumption) :
    Keeps eff s (caCmdWrite w t) := by
  delta caCmdWrite
  try dsimp only
  repeat' first
    | with_reducible assumption
    | intro _
    | with_reducible apply Keeps.ite
    | with_reducible apply Keeps.foldl
    | with_reducible apply State.set1_keeps
    | with_reducible apply calRequest_keeps
    | with_reducible apply sweepRequest_keeps
    | with_reducible apply sweepAbortReq_keeps
    | split
    | with_reducible apply Keeps.fields
    | with_reducible rfl

theorem sweepCompare_keeps {s : State} (d : List Int) (t1 : Nat) (j : Nat) (t : State) (h : Keeps eff s t)   :
    Keeps eff s (sweepCompare d t1 j t) := by
  delta sweepCompare
  try dsimp only
  repeat' first
    | with_reducible assumption
    | intro _
    | with_reducible apply Keeps.ite
    | with_reducible apply Keeps.foldl
    | with_reducible apply State.put_keeps
    | with_reducible apply State.set1_keeps
    | split
    | with_reducible apply Keeps.fields
    | with_reducible rfl

theorem sweepEnd_keeps {s : State} (result : Nat) (permit : Nat) (t : State) (h : Keeps eff s t)  (h_qmem : eff.qmem = true := by assumption) :
    Keeps eff s (sweepEnd result permit t) := by
  delta sweepEnd
  try dsimp only
  repeat' first
    | with_reducible assumption
    | intro _
    | with_reducible apply Keeps.ite
    | with_reducible apply Keeps.foldl
    | with_reducible apply State.put_keeps
    | with_reducible apply State.each_keeps
    | with_reducible apply raiseIrq_keeps
    | with_reducible apply State.modTile_keeps
    | with_reducible apply State.modCa_keeps
    | with_reducible apply allTiles_keeps
    | with_reducible apply setInject_keeps
    | with_reducible apply permitEnd_keeps
    | split
    | with_reducible apply Keeps.fields
    | with_reducible rfl

theorem slotDelay_keeps {s : State} (t0 : Nat) (t : State) (h : Keeps eff s t)   :
    Keeps eff s (slotDelay t0 t) := by
  delta slotDelay
  try dsimp only
  repeat' first
    | with_reducible assumption
    | intro _
    | with_reducible apply Keeps.ite
    | with_reducible apply Keeps.foldl
    | with_reducible apply State.modTile_keeps
    | split
    | with_reducible apply Keeps.fields
    | with_reducible rfl

theorem winCfgWrite_keeps {s : State} (t0 : Nat) (w : Word) (t : State) (h : Keeps eff s t)   :
    Keeps eff s (winCfgWrite t0 w t) := by
  delta winCfgWrite
  try dsimp only
  repeat' first
    | with_reducible assumption
    | intro _
    | with_reducible apply Keeps.ite
    | with_reducible apply Keeps.foldl
    | with_reducible apply State.put_keeps
    | with_reducible apply State.modTile_keeps
    | with_reducible apply store_keeps
    | split
    | with_reducible apply Keeps.fields
    | with_reducible rfl

theorem commitResv_keeps {s : State} (c : Nat) (m : List Byte) (t : State) (h : Keeps eff s t)  (h_qmem : eff.qmem = true := by assumption) :
    Keeps eff s (commitResv c m t) := by
  delta commitResv
  try dsimp only
  repeat' first
    | with_reducible assumption
    | intro _
    | with_reducible apply Keeps.ite
    | with_reducible apply Keeps.foldl
    | with_reducible apply State.setQueue_keeps
    | with_reducible apply State.modCtx_keeps
    | with_reducible apply qStore_keeps
    | with_reducible apply putWords_keeps
    | split
    | with_reducible apply Keeps.fields
    | with_reducible rfl

theorem pushTo_keeps {s : State} (c : Nat) (q : Nat) (h2 : HWord) (l : List Word) (t : State) (h : Keeps eff s t)  (h_qmem : eff.qmem = true := by assumption) :
    Keeps eff s (pushTo c q h2 l t) := by
  delta pushTo
  try dsimp only
  repeat' first
    | with_reducible assumption
    | intro _
    | with_reducible apply Keeps.ite
    | with_reducible apply Keeps.foldl
    | with_reducible apply qPush_keeps
    | with_reducible apply ctxBlock_keeps
    | with_reducible apply setF_keeps
    | with_reducible apply stepOver_keeps
    | split
    | with_reducible apply Keeps.fields
    | with_reducible rfl

theorem onceOpens_keeps {s : State} (c : Nat) (t : State) (h : Keeps eff s t)   :
    Keeps eff s (onceOpens c t) := by
  delta onceOpens
  try dsimp only
  repeat' first
    | with_reducible assumption
    | intro _
    | with_reducible apply Keeps.ite
    | with_reducible apply Keeps.foldl
    | with_reducible apply State.set1_keeps
    | with_reducible apply State.modCtx_keeps
    | split
    | with_reducible apply Keeps.fields
    | with_reducible rfl

theorem ctxShow_keeps {s : State} (c : Nat) (t : State) (h : Keeps eff s t)   :
    Keeps eff s (ctxShow c t) := by
  delta ctxShow
  try dsimp only
  repeat' first
    | with_reducible assumption
    | intro _
    | with_reducible apply Keeps.ite
    | with_reducible apply Keeps.foldl
    | with_reducible apply State.putB_keeps
    | split
    | with_reducible apply Keeps.fields
    | with_reducible rfl

theorem kick_keeps {s : State} (c : Nat) (arg : Nat) (t : State) (h : Keeps eff s t)   :
    Keeps eff s (kick c arg t) := by
  delta kick
  try dsimp only
  repeat' first
    | with_reducible assumption
    | intro _
    | with_reducible apply Keeps.ite
    | with_reducible apply Keeps.foldl
    | with_reducible apply State.set1_keeps
    | with_reducible apply acceptTrig_keeps
    | split
    | with_reducible apply Keeps.fields
    | with_reducible rfl

theorem ctxAbort_keeps {s : State} (c : Nat) (t : State) (h : Keeps eff s t)  (h_qmem : eff.qmem = true := by assumption) :
    Keeps eff s (ctxAbort c t) := by
  delta ctxAbort
  try dsimp only
  repeat' first
    | with_reducible assumption
    | intro _
    | with_reducible apply Keeps.ite
    | with_reducible apply Keeps.foldl
    | with_reducible apply State.put_keeps
    | with_reducible apply State.modCtx_keeps
    | with_reducible apply endRun_keeps
    | split
    | with_reducible apply Keeps.fields
    | with_reducible rfl

theorem ctxReset_keeps {s : State} (c : Nat) (t : State) (h : Keeps eff s t)   :
    Keeps eff s (ctxReset c t) := by
  delta ctxReset
  try dsimp only
  repeat' first
    | with_reducible assumption
    | intro _
    | with_reducible apply Keeps.ite
    | with_reducible apply Keeps.foldl
    | with_reducible apply State.put_keeps
    | with_reducible apply State.set1_keeps
    | with_reducible apply State.modCtx_keeps
    | split
    | with_reducible apply Keeps.fields
    | with_reducible rfl

theorem ctxCtlWrite_keeps {s : State} (c : Nat) (w : Word) (t : State) (h : Keeps eff s t)  (h_qmem : eff.qmem = true := by assumption) :
    Keeps eff s (ctxCtlWrite c w t) := by
  delta ctxCtlWrite
  try dsimp only
  repeat' first
    | with_reducible assumption
    | intro _
    | with_reducible apply Keeps.ite
    | with_reducible apply Keeps.foldl
    | with_reducible apply State.set1_keeps
    | with_reducible apply kick_keeps
    | with_reducible apply ctxAbort_keeps
    | with_reducible apply ctxReset_keeps
    | split
    | with_reducible apply Keeps.fields
    | with_reducible rfl

theorem ctxSettle_keeps {s : State} (c : Nat) (o : Nat) (t : State) (h : Keeps eff s t)   :
    Keeps eff s (ctxSettle c o t) := by
  delta ctxSettle
  try dsimp only
  repeat' first
    | with_reducible assumption
    | intro _
    | with_reducible apply Keeps.ite
    | with_reducible apply Keeps.foldl
    | with_reducible apply State.put_keeps
    | with_reducible apply State.modCtx_keeps
    | with_reducible apply ctxShow_keeps
    | split
    | with_reducible apply Keeps.fields
    | with_reducible rfl

theorem ctxRegWrite_keeps {s : State} (c : Nat) (o : Nat) (m : WMask) (w : Word) (t : State) (h : Keeps eff s t)  (h_qmem : eff.qmem = true := by assumption) :
    Keeps eff s (ctxRegWrite c o m w t) := by
  delta ctxRegWrite
  try dsimp only
  repeat' first
    | with_reducible assumption
    | intro _
    | with_reducible apply Keeps.ite
    | with_reducible apply Keeps.foldl
    | with_reducible apply State.set1_keeps
    | with_reducible apply store_keeps
    | with_reducible apply ctxCtlWrite_keeps
    | with_reducible apply ctxSettle_keeps
    | split
    | with_reducible apply Keeps.fields
    | with_reducible rfl

theorem dropShadows_keeps {s : State} (r : Nat) (t : State) (h : Keeps eff s t)   :
    Keeps eff s (dropShadows r t) := by
  delta dropShadows
  try dsimp only
  repeat' first
    | with_reducible assumption
    | intro _
    | with_reducible apply Keeps.ite
    | with_reducible apply Keeps.foldl
    | split
    | with_reducible apply Keeps.fields
    | with_reducible rfl

theorem takeUpCtx_keeps {s : State} (e : Nat) (p : Nat) (c : Nat) (t : State) (h : Keeps eff s t)  (h_qmem : eff.qmem = true := by assumption) (h_power : eff.power = true := by assumption) :
    Keeps eff s (takeUpCtx e p c t) := by
  delta takeUpCtx
  try dsimp only
  repeat' first
    | with_reducible assumption
    | intro _
    | with_reducible apply Keeps.ite
    | with_reducible apply Keeps.foldl
    | with_reducible apply State.put_keeps
    | with_reducible apply State.set1_keeps
    | with_reducible apply State.setEng_keeps
    | with_reducible apply ctxState_keeps
    | with_reducible apply withWords_keeps
    | with_reducible apply evaluate_keeps
    | with_reducible apply waitOn_keeps
    | with_reducible apply dropShadows_keeps
    | split
    | with_reducible apply Keeps.fields
    | with_reducible rfl

theorem dispatch_keeps {s : State} (t : State) (h : Keeps eff s t)  (h_qmem : eff.qmem = true := by assumption) (h_power : eff.power = true := by assumption) :
    Keeps eff s (dispatch t) := by
  delta dispatch
  try dsimp only
  repeat' first
    | with_reducible assumption
    | intro _
    | with_reducible apply Keeps.ite
    | with_reducible apply Keeps.foldl
    | with_reducible apply takeUpCtx_keeps
    | split
    | with_reducible apply Keeps.fields
    | with_reducible rfl

theorem sliceExpiry_keeps {s : State} (e : Nat) (t : State) (h : Keeps eff s t)   :
    Keeps eff s (sliceExpiry e t) := by
  delta sliceExpiry
  try dsimp only
  repeat' first
    | with_reducible assumption
    | intro _
    | with_reducible apply Keeps.ite
    | with_reducible apply Keeps.foldl
    | with_reducible apply offEngine_keeps
    | with_reducible apply ctxReady_keeps
    | split
    | with_reducible apply Keeps.fields
    | with_reducible rfl

theorem runmaxExpiry_keeps {s : State} (c : Nat) (t : State) (h : Keeps eff s t)  (h_qmem : eff.qmem = true := by assumption) :
    Keeps eff s (runmaxExpiry c t) := by
  delta runmaxExpiry
  try dsimp only
  repeat' first
    | with_reducible assumption
    | intro _
    | with_reducible apply Keeps.ite
    | with_reducible apply Keeps.foldl
    | with_reducible apply endRun_keeps
    | split
    | with_reducible apply Keeps.fields
    | with_reducible rfl

theorem expectTimeoutDue_keeps {s : State} (c : Nat) (t : State) (h : Keeps eff s t)  (h_qmem : eff.qmem = true := by assumption) :
    Keeps eff s (expectTimeoutDue c t) := by
  delta expectTimeoutDue
  try dsimp only
  repeat' first
    | with_reducible assumption
    | intro _
    | with_reducible apply Keeps.ite
    | with_reducible apply Keeps.foldl
    | with_reducible apply expectTimeout_keeps
    | split
    | with_reducible apply Keeps.fields
    | with_reducible rfl

theorem backoffExpiry_keeps {s : State} (c : Nat) (t : State) (h : Keeps eff s t)   :
    Keeps eff s (backoffExpiry c t) := by
  delta backoffExpiry
  try dsimp only
  repeat' first
    | with_reducible assumption
    | intro _
    | with_reducible apply Keeps.ite
    | with_reducible apply Keeps.foldl
    | with_reducible apply backoffEnd_keeps
    | split
    | with_reducible apply Keeps.fields
    | with_reducible rfl

theorem waitExpiry_keeps {s : State} (c : Nat) (t : State) (h : Keeps eff s t)   :
    Keeps eff s (waitExpiry c t) := by
  delta waitExpiry
  try dsimp only
  repeat' first
    | with_reducible assumption
    | intro _
    | with_reducible apply Keeps.ite
    | with_reducible apply Keeps.foldl
    | with_reducible apply ctxResume_keeps
    | split
    | with_reducible apply Keeps.fields
    | with_reducible rfl

theorem checkpointCommitted_keeps {s : State} (c : Nat) (t : State) (h : Keeps eff s t)   :
    Keeps eff s (checkpointCommitted c t) := by
  delta checkpointCommitted
  try dsimp only
  repeat' first
    | with_reducible assumption
    | intro _
    | with_reducible apply Keeps.ite
    | with_reducible apply Keeps.foldl
    | with_reducible apply ctxResume_keeps
    | with_reducible apply showCkpt_keeps
    | with_reducible apply onceOpens_keeps
    | split
    | with_reducible apply Keeps.fields
    | with_reducible rfl

theorem unblock_keeps {s : State} (c : Nat) (t : State) (h : Keeps eff s t)   :
    Keeps eff s (unblock c t) := by
  delta unblock
  try dsimp only
  repeat' first
    | with_reducible assumption
    | intro _
    | with_reducible apply Keeps.ite
    | with_reducible apply Keeps.foldl
    | with_reducible apply ctxReady_keeps
    | split
    | with_reducible apply Keeps.fields
    | with_reducible rfl

theorem cacheFill_keeps {s : State} (a : Nat) (ok : Bool) (t : State) (h : Keeps eff s t)  (h_qmem : eff.qmem = true := by assumption) :
    Keeps eff s (cacheFill a ok t) := by
  delta cacheFill
  try dsimp only
  repeat' first
    | with_reducible assumption
    | intro _
    | with_reducible apply Keeps.ite
    | with_reducible apply Keeps.foldl
    | with_reducible apply State.each_keeps
    | with_reducible apply State.modCtx_keeps
    | with_reducible apply ctxReady_keeps
    | with_reducible apply endRun_keeps
    | with_reducible apply cacheUse_keeps
    | split
    | with_reducible apply Keeps.fields
    | with_reducible rfl

theorem xferTimerExpiry_keeps {s : State} (c : Nat) (t : State) (h : Keeps eff s t)  (h_qmem : eff.qmem = true := by assumption) (h_power : eff.power = true := by assumption) :
    Keeps eff s (xferTimerExpiry c t) := by
  delta xferTimerExpiry
  try dsimp only
  repeat' first
    | with_reducible assumption
    | intro _
    | with_reducible apply Keeps.ite
    | with_reducible apply Keeps.foldl
    | with_reducible apply xferTimer_keeps
    | split
    | with_reducible apply Keeps.fields
    | with_reducible rfl

end Sys2Proof.Machine
end

