-- ==== Sys2Proof/Laws/KeepsModule.lean ====
section
/-! SUPPORT. What the operations of the ring, OTP, resets, power, roles and takeovers keep (`Keeps`): one lemma for each operation. -/

set_option linter.unreachableTactic false
set_option linter.unusedTactic false

namespace Sys2Proof.Machine

set_option Elab.async false

variable {eff : Eff}

theorem csState_keeps {s : State} (n : Nat) (t : State) (h : Keeps eff s t)   :
    Keeps eff s (csState n t) := by
  delta csState
  try dsimp only
  repeat' first
    | with_reducible assumption
    | intro _
    | with_reducible apply Keeps.ite
    | with_reducible apply Keeps.foldl
    | with_reducible apply State.put_keeps
    | with_reducible apply State.modCsn_keeps
    | split
    | with_reducible apply Keeps.fields
    | with_reducible rfl

theorem putHops_keeps {s : State} (x : Nat) (h1 : Nat) (t : State) (h : Keeps eff s t)   :
    Keeps eff s (putHops x h1 t) := by
  delta putHops
  try dsimp only
  repeat' first
    | with_reducible assumption
    | intro _
    | with_reducible apply Keeps.ite
    | with_reducible apply Keeps.foldl
    | with_reducible apply State.put_keeps
    | split
    | with_reducible apply Keeps.fields
    | with_reducible rfl

theorem ringStart_keeps {s : State} (t : State) (h : Keeps eff s t)   :
    Keeps eff s (ringStart t) := by
  delta ringStart
  try dsimp only
  repeat' first
    | with_reducible assumption
    | intro _
    | with_reducible apply Keeps.ite
    | with_reducible apply Keeps.foldl
    | with_reducible apply State.modCsn_keeps
    | split
    | with_reducible apply Keeps.fields
    | with_reducible rfl

theorem sendOn_keeps {s : State} (x : Nat) (f : RFrame) (t : State) (h : Keeps eff s t)   :
    Keeps eff s (sendOn x f t) := by
  delta sendOn
  try dsimp only
  repeat' first
    | with_reducible assumption
    | intro _
    | with_reducible apply Keeps.ite
    | with_reducible apply Keeps.foldl
    | with_reducible apply State.modCsn_keeps
    | split
    | with_reducible apply Keeps.fields
    | with_reducible rfl

theorem sendBoth_keeps {s : State} (f : RFrame) (t : State) (h : Keeps eff s t)   :
    Keeps eff s (sendBoth f t) := by
  delta sendBoth
  try dsimp only
  repeat' first
    | with_reducible assumption
    | intro _
    | with_reducible apply Keeps.ite
    | with_reducible apply Keeps.foldl
    | with_reducible apply sendOn_keeps
    | split
    | with_reducible apply Keeps.fields
    | with_reducible rfl

theorem sendUp_keeps {s : State} (f : RFrame) (t : State) (h : Keeps eff s t)   :
    Keeps eff s (sendUp f t) := by
  delta sendUp
  try dsimp only
  repeat' first
    | with_reducible assumption
    | intro _
    | with_reducible apply Keeps.ite
    | with_reducible apply Keeps.foldl
    | with_reducible apply sendOn_keeps
    | split
    | with_reducible apply Keeps.fields
    | with_reducible rfl

theorem sendPast_keeps {s : State} (y : Nat) (f : RFrame) (t : State) (h : Keeps eff s t)   :
    Keeps eff s (sendPast y f t) := by
  delta sendPast
  try dsimp only
  repeat' first
    | with_reducible assumption
    | intro _
    | with_reducible apply Keeps.ite
    | with_reducible apply Keeps.foldl
    | with_reducible apply State.modLink_keeps
    | with_reducible apply sendOn_keeps
    | split
    | with_reducible apply Keeps.fields
    | with_reducible rfl

theorem forward_keeps {s : State} (x : Nat) (f : RFrame) (t : State) (h : Keeps eff s t)   :
    Keeps eff s (forward x f t) := by
  delta forward
  try dsimp only
  repeat' first
    | with_reducible assumption
    | intro _
    | with_reducible apply Keeps.ite
    | with_reducible apply Keeps.foldl
    | with_reducible apply sendPast_keeps
    | split
    | with_reducible apply Keeps.fields
    | with_reducible rfl

theorem ringRecv_keeps {s : State} (x : Nat) (ty : Nat) (f : RFrame) (g : State → State) (t : State) (h : Keeps eff s t) (hg : ∀ u, Keeps eff s u → Keeps eff s (g u))  :
    Keeps eff s (ringRecv x ty f g t) := by
  delta ringRecv
  try dsimp only
  repeat' first
    | with_reducible assumption
    | intro _
    | with_reducible apply Keeps.ite
    | with_reducible apply Keeps.foldl
    | with_reducible apply hg
    | with_reducible apply State.inc_keeps
    | with_reducible apply ringStart_keeps
    | split
    | with_reducible apply Keeps.fields
    | with_reducible rfl

theorem trainLink_keeps {s : State} (x : Nat) (t : State) (h : Keeps eff s t)   :
    Keeps eff s (trainLink x t) := by
  delta trainLink
  try dsimp only
  repeat' first
    | with_reducible assumption
    | intro _
    | with_reducible apply Keeps.ite
    | with_reducible apply Keeps.foldl
    | with_reducible apply State.put_keeps
    | with_reducible apply State.modLink_keeps
    | split
    | with_reducible apply Keeps.fields
    | with_reducible rfl

theorem ringClose_keeps {s : State} (st : Nat) (t : State) (h : Keeps eff s t)   :
    Keeps eff s (ringClose st t) := by
  delta ringClose
  try dsimp only
  repeat' first
    | with_reducible assumption
    | intro _
    | with_reducible apply Keeps.ite
    | with_reducible apply Keeps.foldl
    | with_reducible apply State.put_keeps
    | with_reducible apply State.each_keeps
    | with_reducible apply State.modCsn_keeps
    | with_reducible apply State.modLink_keeps
    | with_reducible apply csState_keeps
    | split
    | with_reducible apply Keeps.fields
    | with_reducible rfl

theorem ringListen_keeps {s : State} (t : State) (h : Keeps eff s t)   :
    Keeps eff s (ringListen t) := by
  delta ringListen
  try dsimp only
  repeat' first
    | with_reducible assumption
    | intro _
    | with_reducible apply Keeps.ite
    | with_reducible apply Keeps.foldl
    | with_reducible apply State.modCsn_keeps
    | with_reducible apply ringClose_keeps
    | split
    | with_reducible apply Keeps.fields
    | with_reducible rfl

theorem ringReturn_keeps {s : State} (t : State) (h : Keeps eff s t)   :
    Keeps eff s (ringReturn t) := by
  delta ringReturn
  try dsimp only
  repeat' first
    | with_reducible assumption
    | intro _
    | with_reducible apply Keeps.ite
    | with_reducible apply Keeps.foldl
    | with_reducible apply State.modCsn_keeps
    | with_reducible apply ringClose_keeps
    | split
    | with_reducible apply Keeps.fields
    | with_reducible rfl

theorem ringTrain_keeps {s : State} (t : State) (h : Keeps eff s t)   :
    Keeps eff s (ringTrain t) := by
  delta ringTrain
  try dsimp only
  repeat' first
    | with_reducible assumption
    | intro _
    | with_reducible apply Keeps.ite
    | with_reducible apply Keeps.foldl
    | with_reducible apply wr_keeps
    | with_reducible apply State.put_keeps
    | with_reducible apply State.each_keeps
    | with_reducible apply State.modCsn_keeps
    | with_reducible apply State.modLink_keeps
    | with_reducible apply csState_keeps
    | with_reducible apply trainLink_keeps
    | split
    | with_reducible apply Keeps.fields
    | with_reducible rfl

theorem phaseBegin_keeps {s : State} (t : State) (h : Keeps eff s t)   :
    Keeps eff s (phaseBegin t) := by
  delta phaseBegin
  try dsimp only
  repeat' first
    | with_reducible assumption
    | intro _
    | with_reducible apply Keeps.ite
    | with_reducible apply Keeps.foldl
    | with_reducible apply State.modCsn_keeps
    | split
    | with_reducible apply Keeps.fields
    | with_reducible rfl

theorem measure_keeps {s : State} (x : Nat) (t : State) (h : Keeps eff s t)   :
    Keeps eff s (measure x t) := by
  delta measure
  try dsimp only
  repeat' first
    | with_reducible assumption
    | intro _
    | with_reducible apply Keeps.ite
    | with_reducible apply Keeps.foldl
    | with_reducible apply State.modCsn_keeps
    | with_reducible apply State.modLink_keeps
    | split
    | with_reducible apply Keeps.fields
    | with_reducible rfl

theorem stepFail_keeps {s : State} (x : Nat) (t : State) (h : Keeps eff s t)   :
    Keeps eff s (stepFail x t) := by
  delta stepFail
  try dsimp only
  repeat' first
    | with_reducible assumption
    | intro _
    | with_reducible apply Keeps.ite
    | with_reducible apply Keeps.foldl
    | with_reducible apply State.put_keeps
    | with_reducible apply State.inc_keeps
    | with_reducible apply State.modLink_keeps
    | split
    | with_reducible apply Keeps.fields
    | with_reducible rfl

theorem enumFwd_keeps {s : State} (t : State) (h : Keeps eff s t)   :
    Keeps eff s (enumFwd t) := by
  delta enumFwd
  try dsimp only
  repeat' first
    | with_reducible assumption
    | intro _
    | with_reducible apply Keeps.ite
    | with_reducible apply Keeps.foldl
    | with_reducible apply State.modCsn_keeps
    | with_reducible apply sendOn_keeps
    | split
    | with_reducible apply Keeps.fields
    | with_reducible rfl

theorem trainedAt_keeps {s : State} (t : State) (h : Keeps eff s t)   :
    Keeps eff s (trainedAt t) := by
  delta trainedAt
  try dsimp only
  repeat' first
    | with_reducible assumption
    | intro _
    | with_reducible apply Keeps.ite
    | with_reducible apply Keeps.foldl
    | with_reducible apply phaseBegin_keeps
    | split
    | with_reducible apply Keeps.fields
    | with_reducible rfl

theorem stepDone_keeps {s : State} (x : Nat) (v : Nat) (rt : List Nat) (t : State) (h : Keeps eff s t)   :
    Keeps eff s (stepDone x v rt t) := by
  delta stepDone
  try dsimp only
  repeat' first
    | with_reducible assumption
    | intro _
    | with_reducible apply Keeps.ite
    | with_reducible apply Keeps.foldl
    | with_reducible apply State.put_keeps
    | with_reducible apply State.modLink_keeps
    | with_reducible apply ringMeasured_keeps
    | with_reducible apply enumFwd_keeps
    | with_reducible apply trainedAt_keeps
    | split
    | with_reducible apply Keeps.fields
    | with_reducible rfl

theorem measFail_keeps {s : State} (x : Nat) (t : State) (h : Keeps eff s t)   :
    Keeps eff s (measFail x t) := by
  delta measFail
  try dsimp only
  repeat' first
    | with_reducible assumption
    | intro _
    | with_reducible apply Keeps.ite
    | with_reducible apply Keeps.foldl
    | with_reducible apply State.inc_keeps
    | with_reducible apply State.modLink_keeps
    | with_reducible apply measure_keeps
    | with_reducible apply stepFail_keeps
    | split
    | with_reducible apply Keeps.fields
    | with_reducible rfl

theorem stepTimeout_keeps {s : State} (x : Nat) (t : State) (h : Keeps eff s t)   :
    Keeps eff s (stepTimeout x t) := by
  delta stepTimeout
  try dsimp only
  repeat' first
    | with_reducible assumption
    | intro _
    | with_reducible apply Keeps.ite
    | with_reducible apply Keeps.foldl
    | with_reducible apply State.put_keeps
    | with_reducible apply State.inc_keeps
    | with_reducible apply State.modCsn_keeps
    | with_reducible apply State.modLink_keeps
    | with_reducible apply trainLink_keeps
    | with_reducible apply stepFail_keeps
    | with_reducible apply trainedAt_keeps
    | with_reducible apply measFail_keeps
    | split
    | with_reducible apply Keeps.fields
    | with_reducible rfl

theorem probeReply_keeps {s : State} (x : Nat) (rt : Nat) (t : State) (h : Keeps eff s t)   :
    Keeps eff s (probeReply x rt t) := by
  delta probeReply
  try dsimp only
  repeat' first
    | with_reducible assumption
    | intro _
    | with_reducible apply Keeps.ite
    | with_reducible apply Keeps.foldl
    | with_reducible apply State.put_keeps
    | with_reducible apply State.modLink_keeps
    | with_reducible apply ringMeasured_keeps
    | with_reducible apply measFail_keeps
    | split
    | with_reducible apply Keeps.fields
    | with_reducible rfl

theorem pauseSet_keeps {s : State} (x : Nat) (on : Bool) (t : State) (h : Keeps eff s t)   :
    Keeps eff s (pauseSet x on t) := by
  delta pauseSet
  try dsimp only
  repeat' first
    | with_reducible assumption
    | intro _
    | with_reducible apply Keeps.ite
    | with_reducible apply Keeps.foldl
    | with_reducible apply State.each_keeps
    | with_reducible apply State.modLink_keeps
    | with_reducible apply sendOn_keeps
    | split
    | with_reducible apply Keeps.fields
    | with_reducible rfl

theorem csnShow_keeps {s : State} (t : State) (h : Keeps eff s t)   :
    Keeps eff s (csnShow t) := by
  delta csnShow
  try dsimp only
  repeat' first
    | with_reducible assumption
    | intro _
    | with_reducible apply Keeps.ite
    | with_reducible apply Keeps.foldl
    | with_reducible apply State.putB_keeps
    | split
    | with_reducible apply Keeps.fields
    | with_reducible rfl

theorem csnCfgWrite_keeps {s : State} (w : Word) (t : State) (h : Keeps eff s t)   :
    Keeps eff s (csnCfgWrite w t) := by
  delta csnCfgWrite
  try dsimp only
  repeat' first
    | with_reducible assumption
    | intro _
    | with_reducible apply Keeps.ite
    | with_reducible apply Keeps.foldl
    | with_reducible apply State.put_keeps
    | with_reducible apply State.putB_keeps
    | with_reducible apply State.modCsn_keeps
    | with_reducible apply store_keeps
    | with_reducible apply ringClose_keeps
    | with_reducible apply ringListen_keeps
    | with_reducible apply csnShow_keeps
    | split
    | with_reducible apply Keeps.fields
    | with_reducible rfl

theorem csnHeadqWrite_keeps {s : State} (w : Word) (t : State) (h : Keeps eff s t)   :
    Keeps eff s (csnHeadqWrite w t) := by
  delta csnHeadqWrite
  try dsimp only
  repeat' first
    | with_reducible assumption
    | intro _
    | with_reducible apply Keeps.ite
    | with_reducible apply Keeps.foldl
    | with_reducible apply store_keeps
    | with_reducible apply csnShow_keeps
    | split
    | with_reducible apply Keeps.fields
    | with_reducible rfl

theorem csnAlmWrite_keeps {s : State} (w : Word) (t : State) (h : Keeps eff s t)   :
    Keeps eff s (csnAlmWrite w t) := by
  delta csnAlmWrite
  try dsimp only
  repeat' first
    | with_reducible assumption
    | intro _
    | with_reducible apply Keeps.ite
    | with_reducible apply Keeps.foldl
    | with_reducible apply State.modCsn_keeps
    | with_reducible apply store_keeps
    | split
    | with_reducible apply Keeps.fields
    | with_reducible rfl

theorem ringApply_keeps {s : State} (land : Bool) (t : State) (h : Keeps eff s t)   :
    Keeps eff s (ringApply land t) := by
  delta ringApply
  try dsimp only
  repeat' first
    | with_reducible assumption
    | intro _
    | with_reducible apply Keeps.ite
    | with_reducible apply Keeps.foldl
    | with_reducible apply State.put_keeps
    | with_reducible apply State.putB_keeps
    | with_reducible apply State.modCsn_keeps
    | with_reducible apply ringListen_keeps
    | split
    | with_reducible apply Keeps.fields
    | with_reducible rfl

theorem raEnd_keeps {s : State} (res : Nat) (t : State) (h : Keeps eff s t)   :
    Keeps eff s (raEnd res t) := by
  delta raEnd
  try dsimp only
  repeat' first
    | with_reducible assumption
    | intro _
    | with_reducible apply Keeps.ite
    | with_reducible apply Keeps.foldl
    | with_reducible apply State.put_keeps
    | with_reducible apply raiseIrq_keeps
    | with_reducible apply State.modCsn_keeps
    | split
    | with_reducible apply Keeps.fields
    | with_reducible rfl

theorem rosterPut_keeps {s : State} (m : Nat) (ser : List Word) (id : Word) (last : Bool) (gen : Nat) (lat : Word) (t : State) (h : Keeps eff s t)   :
    Keeps eff s (rosterPut m ser id last gen lat t) := by
  delta rosterPut
  try dsimp only
  repeat' first
    | with_reducible assumption
    | intro _
    | with_reducible apply Keeps.ite
    | with_reducible apply Keeps.foldl
    | with_reducible apply wr_keeps
    | with_reducible apply State.put_keeps
    | with_reducible apply State.putB_keeps
    | with_reducible apply State.each_keeps
    | split
    | with_reducible apply Keeps.fields
    | with_reducible rfl

theorem rosterClear_keeps {s : State} (t : State) (h : Keeps eff s t) : Keeps eff s (rosterClear t) :=
  h.setRegs _ fun m => kwf_filter _ _ _ ((State.memWf_iff t).mp m).1

theorem enumSide_keeps {s : State} (x : Nat) (addr : Nat) (t : State) (h : Keeps eff s t)   :
    Keeps eff s (enumSide x addr t) := by
  delta enumSide
  try dsimp only
  repeat' first
    | with_reducible assumption
    | intro _
    | with_reducible apply Keeps.ite
    | with_reducible apply Keeps.foldl
    | with_reducible apply State.modCsn_keeps
    | with_reducible apply sendOn_keeps
    | with_reducible apply phaseBegin_keeps
    | split
    | with_reducible apply Keeps.fields
    | with_reducible rfl

theorem enumFinish_keeps {s : State} (n : Nat) (ring : Bool) (t : State) (h : Keeps eff s t)   :
    Keeps eff s (enumFinish n ring t) := by
  delta enumFinish
  try dsimp only
  repeat' first
    | with_reducible assumption
    | intro _
    | with_reducible apply Keeps.ite
    | with_reducible apply Keeps.foldl
    | with_reducible apply State.put_keeps
    | with_reducible apply State.putB_keeps
    | with_reducible apply csState_keeps
    | with_reducible apply sendBoth_keeps
    | split
    | with_reducible apply Keeps.fields
    | with_reducible rfl

theorem sideEnd_keeps {s : State} (t : State) (h : Keeps eff s t)   :
    Keeps eff s (sideEnd t) := by
  delta sideEnd
  try dsimp only
  repeat' first
    | with_reducible assumption
    | intro _
    | with_reducible apply Keeps.ite
    | with_reducible apply Keeps.foldl
    | with_reducible apply State.modCsn_keeps
    | with_reducible apply enumSide_keeps
    | with_reducible apply enumFinish_keeps
    | split
    | with_reducible apply Keeps.fields
    | with_reducible rfl

theorem enumStart_keeps {s : State} (t : State) (h : Keeps eff s t)   :
    Keeps eff s (enumStart t) := by
  delta enumStart
  try dsimp only
  repeat' first
    | with_reducible assumption
    | intro _
    | with_reducible apply Keeps.ite
    | with_reducible apply Keeps.foldl
    | with_reducible apply State.put_keeps
    | with_reducible apply State.incWrap_keeps
    | with_reducible apply State.modCsn_keeps
    | with_reducible apply csState_keeps
    | with_reducible apply rosterPut_keeps
    | with_reducible apply rosterClear_keeps
    | with_reducible apply enumSide_keeps
    | split
    | with_reducible apply Keeps.fields
    | with_reducible rfl

theorem enumHead_keeps {s : State} (x : Nat) (f : RFrame) (t : State) (h : Keeps eff s t)   :
    Keeps eff s (enumHead x f t) := by
  delta enumHead
  try dsimp only
  repeat' first
    | with_reducible assumption
    | intro _
    | with_reducible apply Keeps.ite
    | with_reducible apply Keeps.foldl
    | with_reducible apply State.put_keeps
    | with_reducible apply State.modCsn_keeps
    | with_reducible apply State.modLink_keeps
    | with_reducible apply enumFinish_keeps
    | split
    | with_reducible apply Keeps.fields
    | with_reducible rfl

theorem enumMember_keeps {s : State} (x : Nat) (f : RFrame) (t : State) (h : Keeps eff s t)   :
    Keeps eff s (enumMember x f t) := by
  delta enumMember
  try dsimp only
  repeat' first
    | with_reducible assumption
    | intro _
    | with_reducible apply Keeps.ite
    | with_reducible apply Keeps.foldl
    | with_reducible apply State.put_keeps
    | with_reducible apply State.modCsn_keeps
    | with_reducible apply csState_keeps
    | with_reducible apply putHops_keeps
    | with_reducible apply sendUp_keeps
    | with_reducible apply ringClose_keeps
    | with_reducible apply enumFwd_keeps
    | split
    | with_reducible apply Keeps.fields
    | with_reducible rfl

theorem rosterHead_keeps {s : State} (f : RFrame) (t : State) (h : Keeps eff s t)   :
    Keeps eff s (rosterHead f t) := by
  delta rosterHead
  try dsimp only
  repeat' first
    | with_reducible assumption
    | intro _
    | with_reducible apply Keeps.ite
    | with_reducible apply Keeps.foldl
    | with_reducible apply State.modCsn_keeps
    | with_reducible apply phaseBegin_keeps
    | with_reducible apply rosterPut_keeps
    | with_reducible apply sideEnd_keeps
    | split
    | with_reducible apply Keeps.fields
    | with_reducible rfl

theorem timeLockEnd_keeps {s : State} (t : State) (h : Keeps eff s t)   :
    Keeps eff s (timeLockEnd t) := by
  delta timeLockEnd
  try dsimp only
  repeat' first
    | with_reducible assumption
    | intro _
    | with_reducible apply Keeps.ite
    | with_reducible apply Keeps.foldl
    | with_reducible apply csState_keeps
    | split
    | with_reducible apply Keeps.fields
    | with_reducible rfl

theorem enumDone_keeps {s : State} (f : RFrame) (t : State) (h : Keeps eff s t)   :
    Keeps eff s (enumDone f t) := by
  delta enumDone
  try dsimp only
  repeat' first
    | with_reducible assumption
    | intro _
    | with_reducible apply Keeps.ite
    | with_reducible apply Keeps.foldl
    | with_reducible apply State.put_keeps
    | with_reducible apply State.putB_keeps
    | with_reducible apply State.modCsn_keeps
    | with_reducible apply csState_keeps
    | with_reducible apply putHops_keeps
    | split
    | with_reducible apply Keeps.fields
    | with_reducible rfl

theorem almRecord_keeps {s : State} (m : Nat) (code : Nat) (w2 : Word) (t3 : List Word) (t : State) (h : Keeps eff s t)  (h_qmem : eff.qmem = true := by assumption) :
    Keeps eff s (almRecord m code w2 t3 t) := by
  delta almRecord
  try dsimp only
  repeat' first
    | with_reducible assumption
    | intro _
    | with_reducible apply Keeps.ite
    | with_reducible apply Keeps.foldl
    | with_reducible apply raiseIrq_keeps
    | with_reducible apply qPushFixed_keeps
    | split
    | with_reducible apply Keeps.fields
    | with_reducible rfl

theorem sendAlarm_keeps {s : State} (code : Nat) (w2 : Word) (t : State) (h : Keeps eff s t)  (h_qmem : eff.qmem = true := by assumption) :
    Keeps eff s (sendAlarm code w2 t) := by
  delta sendAlarm
  try dsimp only
  repeat' first
    | with_reducible assumption
    | intro _
    | with_reducible apply Keeps.ite
    | with_reducible apply Keeps.foldl
    | with_reducible apply sendUp_keeps
    | with_reducible apply almRecord_keeps
    | split
    | with_reducible apply Keeps.fields
    | with_reducible rfl

theorem sendReroute_keeps {s : State} (a : Nat) (b : Nat) (t : State) (h : Keeps eff s t)   :
    Keeps eff s (sendReroute a b t) := by
  delta sendReroute
  try dsimp only
  repeat' first
    | with_reducible assumption
    | intro _
    | with_reducible apply Keeps.ite
    | with_reducible apply Keeps.foldl
    | with_reducible apply State.modCsn_keeps
    | with_reducible apply sendBoth_keeps
    | split
    | with_reducible apply Keeps.fields
    | with_reducible rfl

theorem switchUp_keeps {s : State} (t : State) (h : Keeps eff s t)   :
    Keeps eff s (switchUp t) := by
  delta switchUp
  try dsimp only
  repeat' first
    | with_reducible assumption
    | intro _
    | with_reducible apply Keeps.ite
    | with_reducible apply Keeps.foldl
    | with_reducible apply State.put_keeps
    | with_reducible apply putHops_keeps
    | split
    | with_reducible apply Keeps.fields
    | with_reducible rfl

theorem linkDown_keeps {s : State} (x : Nat) (cv : Bool) (t : State) (h : Keeps eff s t)  (h_qmem : eff.qmem = true := by assumption) :
    Keeps eff s (linkDown x cv t) := by
  delta linkDown
  try dsimp only
  repeat' first
    | with_reducible assumption
    | intro _
    | with_reducible apply Keeps.ite
    | with_reducible apply Keeps.foldl
    | with_reducible apply State.inc_keeps
    | with_reducible apply State.when_keeps
    | with_reducible apply State.modLink_keeps
    | with_reducible apply trainLink_keeps
    | with_reducible apply sendAlarm_keeps
    | with_reducible apply sendReroute_keeps
    | with_reducible apply switchUp_keeps
    | split
    | with_reducible apply Keeps.fields
    | with_reducible rfl

theorem reroute_keeps {s : State} (f : RFrame) (t : State) (h : Keeps eff s t)   :
    Keeps eff s (reroute f t) := by
  delta reroute
  try dsimp only
  repeat' first
    | with_reducible assumption
    | intro _
    | with_reducible apply Keeps.ite
    | with_reducible apply Keeps.foldl
    | with_reducible apply State.put_keeps
    | with_reducible apply putHops_keeps
    | with_reducible apply switchUp_keeps
    | split
    | with_reducible apply Keeps.fields
    | with_reducible rfl

theorem linkUpAgain_keeps {s : State} (x : Nat) (farEpoch : Nat) (t : State) (h : Keeps eff s t)  (h_qmem : eff.qmem = true := by assumption) :
    Keeps eff s (linkUpAgain x farEpoch t) := by
  delta linkUpAgain
  try dsimp only
  repeat' first
    | with_reducible assumption
    | intro _
    | with_reducible apply Keeps.ite
    | with_reducible apply Keeps.foldl
    | with_reducible apply State.modLink_keeps
    | with_reducible apply sendUp_keeps
    | with_reducible apply sendAlarm_keeps
    | with_reducible apply sendReroute_keeps
    | split
    | with_reducible apply Keeps.fields
    | with_reducible rfl

theorem csnCmdWrite_keeps {s : State} (w : Word) (t : State) (h : Keeps eff s t)   :
    Keeps eff s (csnCmdWrite w t) := by
  delta csnCmdWrite
  try dsimp only
  repeat' first
    | with_reducible assumption
    | intro _
    | with_reducible apply Keeps.ite
    | with_reducible apply Keeps.foldl
    | with_reducible apply State.set1_keeps
    | with_reducible apply State.modCsn_keeps
    | with_reducible apply sendBoth_keeps
    | split
    | with_reducible apply Keeps.fields
    | with_reducible rfl

theorem timeSample_keeps {s : State} (x : Nat) (f : RFrame) (frac : Nat) (t : State) (h : Keeps eff s t)   :
    Keeps eff s (timeSample x f frac t) := by
  delta timeSample
  try dsimp only
  repeat' first
    | with_reducible assumption
    | intro _
    | with_reducible apply Keeps.ite
    | with_reducible apply Keeps.foldl
    | with_reducible apply ringSample_keeps
    | with_reducible apply sendOn_keeps
    | with_reducible apply measure_keeps
    | with_reducible apply timeLockEnd_keeps
    | split
    | with_reducible apply Keeps.fields
    | with_reducible rfl

theorem expWrite_keeps {s : State} (m : Nat) (q : Nat) (seq : Word) (e : List Word) (len : Nat) (t : State) (h : Keeps eff s t)  (h_qmem : eff.qmem = true := by assumption) :
    Keeps eff s (expWrite m q seq e len t) := by
  delta expWrite
  try dsimp only
  repeat' first
    | with_reducible assumption
    | intro _
    | with_reducible apply Keeps.ite
    | with_reducible apply Keeps.foldl
    | with_reducible apply State.inc_keeps
    | with_reducible apply qPushVar_keeps
    | split
    | with_reducible apply Keeps.fields
    | with_reducible rfl

theorem expTaken_keeps {s : State} (q : Nat) (n : Nat) (t : State) (h : Keeps eff s t)   :
    Keeps eff s (expTaken q n t) := by
  delta expTaken
  try dsimp only
  repeat' first
    | with_reducible assumption
    | intro _
    | with_reducible apply Keeps.ite
    | with_reducible apply Keeps.foldl
    | with_reducible apply wr_keeps
    | with_reducible apply qStore_keeps
    | split
    | with_reducible apply Keeps.fields
    | with_reducible rfl

theorem expSegment_keeps {s : State} (g : SegOut) (t : State) (h : Keeps eff s t)   :
    Keeps eff s (expSegment g t) := by
  delta expSegment
  try dsimp only
  repeat' first
    | with_reducible assumption
    | intro _
    | with_reducible apply Keeps.ite
    | with_reducible apply Keeps.foldl
    | with_reducible apply State.modCsn_keeps
    | with_reducible apply sendUp_keeps
    | with_reducible apply expTaken_keeps
    | split
    | with_reducible apply Keeps.fields
    | with_reducible rfl

theorem expNext_keeps {s : State} (q : Nat) (e : QEnt) (t : State) (h : Keeps eff s t)  (h_qmem : eff.qmem = true := by assumption) :
    Keeps eff s (expNext q e t) := by
  delta expNext
  try dsimp only
  repeat' first
    | with_reducible assumption
    | intro _
    | with_reducible apply Keeps.ite
    | with_reducible apply Keeps.foldl
    | with_reducible apply State.inc_keeps
    | with_reducible apply sendUp_keeps
    | with_reducible apply expWrite_keeps
    | with_reducible apply expTaken_keeps
    | with_reducible apply expSegment_keeps
    | split
    | with_reducible apply Keeps.fields
    | with_reducible rfl

theorem exportSend_keeps {s : State} (t : State) (h : Keeps eff s t)  (h_qmem : eff.qmem = true := by assumption) :
    Keeps eff s (exportSend t) := by
  delta exportSend
  try dsimp only
  repeat' first
    | with_reducible assumption
    | intro _
    | with_reducible apply Keeps.ite
    | with_reducible apply Keeps.foldl
    | with_reducible apply expSegment_keeps
    | with_reducible apply expNext_keeps
    | split
    | with_reducible apply Keeps.fields
    | with_reducible rfl

theorem exportHead_keeps {s : State} (f : RFrame) (t : State) (h : Keeps eff s t)  (h_qmem : eff.qmem = true := by assumption) :
    Keeps eff s (exportHead f t) := by
  delta exportHead
  try dsimp only
  repeat' first
    | with_reducible assumption
    | intro _
    | with_reducible apply Keeps.ite
    | with_reducible apply Keeps.foldl
    | with_reducible apply State.modCsn_keeps
    | with_reducible apply expWrite_keeps
    | split
    | with_reducible apply Keeps.fields
    | with_reducible rfl

theorem alarmHead_keeps {s : State} (f : RFrame) (t : State) (h : Keeps eff s t)  (h_qmem : eff.qmem = true := by assumption) :
    Keeps eff s (alarmHead f t) := by
  delta alarmHead
  try dsimp only
  repeat' first
    | with_reducible assumption
    | intro _
    | with_reducible apply Keeps.ite
    | with_reducible apply Keeps.foldl
    | with_reducible apply almRecord_keeps
    | with_reducible apply sendReroute_keeps
    | split
    | with_reducible apply Keeps.fields
    | with_reducible rfl

theorem otpOr_keeps {s : State} (a : Nat) (b : Byte) (t : State) (h : Keeps eff s t)
    (h_otp : eff.otp = true := by assumption) : Keeps eff s (otpOr a b t) :=
  otpPut_keeps _ _ _ h (by rw [← BitVec.or_assoc, BitVec.or_self])

theorem otpProgram_keeps {s : State} (a : Nat) (l : List Byte) (t : State) (h : Keeps eff s t)  (h_otp : eff.otp = true := by assumption) :
    Keeps eff s (otpProgram a l t) := by
  delta otpProgram
  try dsimp only
  repeat' first
    | with_reducible assumption
    | intro _
    | with_reducible apply Keeps.ite
    | with_reducible apply Keeps.foldl
    | with_reducible apply State.each_keeps
    | with_reducible apply otpOr_keeps
    | split
    | with_reducible apply Keeps.fields
    | with_reducible rfl

theorem trustPart_keeps {s : State} (k : TrustCmd) (t : State) (h : Keeps eff s t)  (h_otp : eff.otp = true := by assumption) :
    Keeps eff s (trustPart k t) := by
  delta trustPart
  try dsimp only
  repeat' first
    | with_reducible assumption
    | intro _
    | with_reducible apply Keeps.ite
    | with_reducible apply Keeps.foldl
    | with_reducible apply State.useFree_keeps
    | with_reducible apply otpProgram_keeps
    | split
    | with_reducible apply Keeps.fields
    | with_reducible rfl

theorem trustEnd_keeps {s : State} (res : Nat) (t : State) (h : Keeps eff s t)   :
    Keeps eff s (trustEnd res t) := by
  delta trustEnd
  try dsimp only
  repeat' first
    | with_reducible assumption
    | intro _
    | with_reducible apply Keeps.ite
    | with_reducible apply Keeps.foldl
    | with_reducible apply State.put_keeps
    | with_reducible apply raiseIrq_keeps
    | with_reducible apply State.modBt_keeps
    | split
    | with_reducible apply Keeps.fields
    | with_reducible rfl

theorem trustTko_keeps {s : State} (t : State) (h : Keeps eff s t)   :
    Keeps eff s (trustTko t) := by
  delta trustTko
  try dsimp only
  repeat' first
    | with_reducible assumption
    | intro _
    | with_reducible apply Keeps.ite
    | with_reducible apply Keeps.foldl
    | with_reducible apply trustEnd_keeps
    | split
    | with_reducible apply Keeps.fields
    | with_reducible rfl

theorem trustCut_keeps {s : State} (t : State) (h : Keeps eff s t)  (h_otp : eff.otp = true := by assumption) :
    Keeps eff s (trustCut t) := by
  delta trustCut
  try dsimp only
  repeat' first
    | with_reducible assumption
    | intro _
    | with_reducible apply Keeps.ite
    | with_reducible apply Keeps.foldl
    | with_reducible apply trustPart_keeps
    | split
    | with_reducible apply Keeps.fields
    | with_reducible rfl

theorem startFail_keeps {s : State} (n : Nat) (t : State) (h : Keeps eff s t)   :
    Keeps eff s (startFail n t) := by
  delta startFail
  try dsimp only
  repeat' first
    | with_reducible assumption
    | intro _
    | with_reducible apply Keeps.ite
    | with_reducible apply Keeps.foldl
    | with_reducible apply State.put_keeps
    | split
    | with_reducible apply Keeps.fields
    | with_reducible rfl

theorem s1Lose_keeps {s : State} (t : State) (h : Keeps eff s t)  (h_flash : eff.flash = true := by assumption) :
    Keeps eff s (s1Lose t) := by
  delta s1Lose
  try dsimp only
  repeat' first
    | with_reducible assumption
    | intro _
    | with_reducible apply Keeps.ite
    | with_reducible apply Keeps.foldl
    | with_reducible apply State.each_keeps
    | with_reducible apply State.modSp1_keeps
    | with_reducible apply State.setLogr_keeps
    | with_reducible apply jobFailed_keeps
    | with_reducible apply sp1Show_keeps
    | split
    | with_reducible apply Keeps.fields
    | with_reducible rfl

theorem chanReset_keeps {s : State} (n : Nat) (t : State) (h : Keeps eff s t)   :
    Keeps eff s (chanReset n t) := by
  delta chanReset
  try dsimp only
  repeat' first
    | with_reducible assumption
    | intro _
    | with_reducible apply Keeps.ite
    | with_reducible apply Keeps.foldl
    | with_reducible apply wr_keeps
    | with_reducible apply State.put_keeps
    | with_reducible apply State.modCh_keeps
    | split
    | with_reducible apply Keeps.fields
    | with_reducible rfl

theorem snapOf_memWf (n : Nat) (t : State) (h : t.memWf = true) : (snapOf n t).memWf = true := by
  rw [State.memWf_iff] at h
  simp only [JSnap.memWf, Memory.wf, snapOf, Bool.and_eq_true]
  exact ⟨h.1, h.2.1⟩

theorem setJcom_keeps {s : State} (n : Nat) (t : State) (h : Keeps eff s t) : Keeps eff s { t with jcom := some (snapOf n t) } :=
  h.setJ t.jpend _ fun m => ⟨((State.memWf_iff t).mp m).2.2.2.2.1, by intro j e; cases e; exact snapOf_memWf n t m⟩

theorem winReset_keeps {s : State} (t0 : Nat) (t : State) (h : Keeps eff s t)   :
    Keeps eff s (winReset t0 t) := by
  delta winReset
  try dsimp only
  repeat' first
    | with_reducible assumption
    | intro _
    | with_reducible apply Keeps.ite
    | with_reducible apply Keeps.foldl
    | with_reducible apply State.put_keeps
    | with_reducible apply State.modTile_keeps
    | split
    | with_reducible apply Keeps.fields
    | with_reducible rfl

theorem tileReset_keeps {s : State} (t0 : Nat) (t : State) (h : Keeps eff s t)  (h_qmem : eff.qmem = true := by assumption) :
    Keeps eff s (tileReset t0 t) := by
  delta tileReset
  try dsimp only
  repeat' first
    | with_reducible assumption
    | intro _
    | with_reducible apply Keeps.ite
    | with_reducible apply Keeps.foldl
    | with_reducible apply wr_keeps
    | with_reducible apply State.put_keeps
    | with_reducible apply State.set1_keeps
    | with_reducible apply State.putB_keeps
    | with_reducible apply State.each_keeps
    | with_reducible apply State.modTile_keeps
    | with_reducible apply calLose_keeps
    | with_reducible apply safeRefresh_keeps
    | with_reducible apply setInject_keeps
    | with_reducible apply sweepEnd_keeps
    | with_reducible apply chanReset_keeps
    | with_reducible apply winReset_keeps
    | split
    | with_reducible apply Keeps.fields
    | with_reducible rfl

theorem feedKept_keeps {s : State} (o : State) (t1 : Nat) (t : State) (h : Keeps eff s t)   :
    Keeps eff s (feedKept o t1 t) := by
  delta feedKept
  try dsimp only
  repeat' first
    | with_reducible assumption
    | intro _
    | with_reducible apply Keeps.ite
    | with_reducible apply Keeps.foldl
    | with_reducible apply State.put_keeps
    | with_reducible apply State.setTile_keeps
    | split
    | with_reducible apply Keeps.fields
    | with_reducible rfl

theorem tilesStart_keeps {s : State} (o : State) (t : State) (h : Keeps eff s t)   :
    Keeps eff s (tilesStart o t) := by
  delta tilesStart
  try dsimp only
  repeat' first
    | with_reducible assumption
    | intro _
    | with_reducible apply Keeps.ite
    | with_reducible apply Keeps.foldl
    | with_reducible apply safeRefresh_keeps
    | with_reducible apply allTiles_keeps
    | with_reducible apply feedKept_keeps
    | split
    | with_reducible apply Keeps.fields
    | with_reducible rfl

theorem kwf_rebuild (l : List Nat) (f : Nat → Word) : kwf resetWord (rebuild l f) = true := by
  unfold rebuild
  suffices ∀ m : KMap Word, kwf resetWord m = true → kwf resetWord (l.foldl (fun m a => kset (resetWord a) m a (f a)) m) = true from
    this [] rfl
  induction l with
  | nil => exact fun m h => h
  | cons a l ih => exact fun m h => ih _ (kwf_kset _ _ _ _ _ rfl h)

theorem coldState_keeps {s : State} (cause : Nat) (t : State) (h : Keeps eff s t)
    (h_otp : eff.otp = true := by assumption) (h_flash : eff.flash = true := by assumption) (h_qmem : eff.qmem = true := by assumption) (h_roles : eff.roles = true := by assumption) (h_power : eff.power = true := by assumption) : Keeps eff s (coldState cause t) := by
  have hk : Keeps eff s (trustCut (s1Lose t)) := trustCut_keeps _ (s1Lose_keeps _ h)
  delta coldState
  dsimp only
  refine tilesStart_keeps _ _ (calStale_keeps _ (State.put_keeps _ _ _ (State.put_keeps _ _ _ (State.put_keeps _ _ _ ?_))))
  have hl : Keeps eff s { trustCut (s1Lose t) with pending := t.pending } :=
    ⟨h.pending, hk.mem, hk.otp, hk.roles, hk.otpSame, hk.flashSame, hk.qmemSame, hk.rolesSame, hk.powerSame⟩
  exact hl.rebuilt (fun m => ⟨kwf_rebuild _ _, rfl, ((State.memWf_iff _).mp m).2.2.1, noJ.1, noJ.2⟩) (fun _ => by simp [SvSt.rolesOk])
    (fun _ => rfl) (fun x => by simp [h_qmem] at x) (fun x => by simp [h_roles] at x) (fun x => by simp [h_power] at x)

theorem domainRelease_keeps {s : State} (t : State) (h : Keeps eff s t)
    (h_roles : eff.roles = true := by assumption) : Keeps eff s (domainRelease t) := by
  delta domainRelease
  dsimp only
  refine startStep_keeps _ _ (State.modPw_fields _ (State.modSv_roles _ _ h fun _ _ => ?_))
  simp only [SvSt.rolesOk]
  refine ⟨?_, fun _ _ => ?_⟩ <;> split <;> split <;> simp

theorem coldReset_keeps {s : State} (cause : Nat) (t : State) (h : Keeps eff s t)  (h_otp : eff.otp = true := by assumption) (h_flash : eff.flash = true := by assumption) (h_qmem : eff.qmem = true := by assumption) (h_roles : eff.roles = true := by assumption) (h_power : eff.power = true := by assumption) :
    Keeps eff s (coldReset cause t) := by
  delta coldReset
  try dsimp only
  repeat' first
    | with_reducible assumption
    | intro _
    | with_reducible apply Keeps.ite
    | with_reducible apply Keeps.foldl
    | with_reducible apply coldState_keeps
    | with_reducible apply domainRelease_keeps
    | split
    | with_reducible apply Keeps.fields
    | with_reducible rfl

theorem ctxWarm_keeps {s : State} (c : Nat) (t : State) (h : Keeps eff s t)   :
    Keeps eff s (ctxWarm c t) := by
  delta ctxWarm
  try dsimp only
  repeat' first
    | with_reducible assumption
    | intro _
    | with_reducible apply Keeps.ite
    | with_reducible apply Keeps.foldl
    | with_reducible apply wr_keeps
    | with_reducible apply State.modCtx_keeps
    | with_reducible apply ctxShow_keeps
    | split
    | with_reducible apply Keeps.fields
    | with_reducible rfl

theorem canWarm_keeps {s : State} (p : Nat) (t : State) (h : Keeps eff s t)   :
    Keeps eff s (canWarm p t) := by
  delta canWarm
  try dsimp only
  repeat' first
    | with_reducible assumption
    | intro _
    | with_reducible apply Keeps.ite
    | with_reducible apply Keeps.foldl
    | with_reducible apply wr_keeps
    | with_reducible apply State.put_keeps
    | with_reducible apply State.modCan_keeps
    | with_reducible apply canIntegrate_keeps
    | split
    | with_reducible apply Keeps.fields
    | with_reducible rfl

theorem tileWarm_keeps {s : State} (o : State) (t1 : Nat) (t : State) (h : Keeps eff s t)   :
    Keeps eff s (tileWarm o t1 t) := by
  delta tileWarm
  try dsimp only
  repeat' first
    | with_reducible assumption
    | intro _
    | with_reducible apply Keeps.ite
    | with_reducible apply Keeps.foldl
    | with_reducible apply State.putB_keeps
    | with_reducible apply State.setTile_keeps
    | with_reducible apply safeRefresh_keeps
    | with_reducible apply winReset_keeps
    | split
    | with_reducible apply Keeps.fields
    | with_reducible rfl

theorem chWarm_keeps {s : State} (n : Nat) (t : State) (h : Keeps eff s t)   :
    Keeps eff s (chWarm n t) := by
  delta chWarm
  try dsimp only
  repeat' first
    | with_reducible assumption
    | intro _
    | with_reducible apply Keeps.ite
    | with_reducible apply Keeps.foldl
    | with_reducible apply State.put_keeps
    | with_reducible apply State.setCh_keeps
    | with_reducible apply diagClear_keeps
    | split
    | with_reducible apply Keeps.fields
    | with_reducible rfl

theorem warmBase_keeps {s : State} (t : State) (h : Keeps eff s t)
    (h_flash : eff.flash = true := by assumption) : Keeps eff s (warmBase t) := by
  have hk : Keeps { flash := true } t (s1Lose t) := s1Lose_keeps _ (Keeps.refl t) rfl
  delta warmBase
  dsimp only
  refine h.rebuilt (fun m => ?_) (fun r => r) (fun x => by simp [h_flash] at x) (fun _ => rfl) (fun _ => rfl) (fun _ => rfl)
  have a := (State.memWf_iff _).mp m
  have b := (State.memWf_iff _).mp (hk.mem m)
  exact ⟨kwf_rebuild _ _, a.2.1, b.2.2.1, noJ.1, noJ.2⟩

theorem warmReset_keeps {s : State} (t : State) (h : Keeps eff s t)  (h_flash : eff.flash = true := by assumption) :
    Keeps eff s (warmReset t) := by
  delta warmReset
  try dsimp only
  repeat' first
    | with_reducible assumption
    | intro _
    | with_reducible apply Keeps.ite
    | with_reducible apply Keeps.foldl
    | with_reducible apply wr_keeps
    | with_reducible apply State.put_keeps
    | with_reducible apply State.each_keeps
    | with_reducible apply placeQueues_keeps
    | with_reducible apply rebind_keeps
    | with_reducible apply startChains_keeps
    | with_reducible apply allTiles_keeps
    | with_reducible apply permitSet_keeps
    | with_reducible apply sp1Show_keeps
    | with_reducible apply sp2Show_keeps
    | with_reducible apply logRestart_keeps
    | with_reducible apply ringReturn_keeps
    | with_reducible apply ctxWarm_keeps
    | with_reducible apply canWarm_keeps
    | with_reducible apply tileWarm_keeps
    | with_reducible apply chWarm_keeps
    | with_reducible apply warmBase_keeps
    | with_reducible apply setJcom_keeps
    | split
    | with_reducible apply Keeps.fields
    | with_reducible rfl

theorem powerResult_keeps {s : State} (v : Nat) (t : State) (h : Keeps eff s t)   :
    Keeps eff s (powerResult v t) := by
  delta powerResult
  try dsimp only
  repeat' first
    | with_reducible assumption
    | intro _
    | with_reducible apply Keeps.ite
    | with_reducible apply Keeps.foldl
    | with_reducible apply State.put_keeps
    | split
    | with_reducible apply Keeps.fields
    | with_reducible rfl

theorem acqStop_keeps {s : State} (p : Nat) (t : State) (h : Keeps eff s t)  (h_qmem : eff.qmem = true := by assumption) (h_power : eff.power = true := by assumption) :
    Keeps eff s (acqStop p t) := by
  delta acqStop
  try dsimp only
  repeat' first
    | with_reducible assumption
    | intro _
    | with_reducible apply Keeps.ite
    | with_reducible apply Keeps.foldl
    | with_reducible apply stopChains_keeps
    | with_reducible apply allTiles_keeps
    | with_reducible apply setPower_keeps
    | with_reducible apply slotRestart_keeps
    | with_reducible apply calAbandon_keeps
    | split
    | with_reducible apply Keeps.fields
    | with_reducible rfl

theorem enterDoze_keeps {s : State} (t : State) (h : Keeps eff s t)  (h_qmem : eff.qmem = true := by assumption) (h_power : eff.power = true := by assumption) :
    Keeps eff s (enterDoze t) := by
  delta enterDoze
  try dsimp only
  repeat' first
    | with_reducible assumption
    | intro _
    | with_reducible apply Keeps.ite
    | with_reducible apply Keeps.foldl
    | with_reducible apply State.modPw_fields
    | with_reducible apply dozeCause_keeps
    | with_reducible apply powerResult_keeps
    | with_reducible apply acqStop_keeps
    | split
    | with_reducible apply Keeps.fields
    | with_reducible rfl

theorem powerAct_keeps {s : State} (q : Nat) (t : State) (h : Keeps eff s t)  (h_qmem : eff.qmem = true := by assumption) (h_power : eff.power = true := by assumption) :
    Keeps eff s (powerAct q t) := by
  delta powerAct
  try dsimp only
  repeat' first
    | with_reducible assumption
    | intro _
    | with_reducible apply Keeps.ite
    | with_reducible apply Keeps.foldl
    | with_reducible apply State.modPw_fields
    | with_reducible apply leaveDoze_keeps
    | with_reducible apply wakeRecord_keeps
    | with_reducible apply powerResult_keeps
    | with_reducible apply enterDoze_keeps
    | split
    | with_reducible apply Keeps.fields
    | with_reducible rfl

theorem powerReq_keeps {s : State} (q : Nat) (t : State) (h : Keeps eff s t)  (h_qmem : eff.qmem = true := by assumption) (h_power : eff.power = true := by assumption) :
    Keeps eff s (powerReq q t) := by
  delta powerReq
  try dsimp only
  repeat' first
    | with_reducible assumption
    | intro _
    | with_reducible apply Keeps.ite
    | with_reducible apply Keeps.foldl
    | with_reducible apply State.modPw_fields
    | with_reducible apply powerResult_keeps
    | with_reducible apply powerAct_keeps
    | split
    | with_reducible apply Keeps.fields
    | with_reducible rfl

theorem powerResume_keeps {s : State} (t : State) (h : Keeps eff s t)  (h_qmem : eff.qmem = true := by assumption) (h_power : eff.power = true := by assumption) :
    Keeps eff s (powerResume t) := by
  delta powerResume
  try dsimp only
  repeat' first
    | with_reducible assumption
    | intro _
    | with_reducible apply Keeps.ite
    | with_reducible apply Keeps.foldl
    | with_reducible apply State.modPw_fields
    | with_reducible apply powerAct_keeps
    | split
    | with_reducible apply Keeps.fields
    | with_reducible rfl

theorem powerSettings_keeps {s : State} (w : Word) (t : State) (h : Keeps eff s t)   :
    Keeps eff s (powerSettings w t) := by
  delta powerSettings
  try dsimp only
  repeat' first
    | with_reducible assumption
    | intro _
    | with_reducible apply Keeps.ite
    | with_reducible apply Keeps.foldl
    | with_reducible apply State.put_keeps
    | with_reducible apply State.putB_keeps
    | with_reducible apply store_keeps
    | split
    | with_reducible apply Keeps.fields
    | with_reducible rfl

theorem powerWrite_keeps {s : State} (lk : Nat) (w : Word) (t : State) (h : Keeps eff s t)  (h_qmem : eff.qmem = true := by assumption) (h_power : eff.power = true := by assumption) :
    Keeps eff s (powerWrite lk w t) := by
  delta powerWrite
  try dsimp only
  repeat' first
    | with_reducible assumption
    | intro _
    | with_reducible apply Keeps.ite
    | with_reducible apply Keeps.foldl
    | with_reducible apply powerReq_keeps
    | with_reducible apply powerSettings_keeps
    | split
    | with_reducible apply Keeps.fields
    | with_reducible rfl

theorem leanSwitch_keeps {s : State} (t : State) (h : Keeps eff s t)  (h_power : eff.power = true := by assumption) :
    Keeps eff s (leanSwitch t) := by
  delta leanSwitch
  try dsimp only
  repeat' first
    | with_reducible assumption
    | intro _
    | with_reducible apply Keeps.ite
    | with_reducible apply Keeps.foldl
    | with_reducible apply State.modPw_fields
    | with_reducible apply State.each_keeps
    | with_reducible apply fcRefresh_keeps
    | with_reducible apply syncApplyAt_keeps
    | with_reducible apply setPower_keeps
    | with_reducible apply powerResult_keeps
    | split
    | with_reducible apply Keeps.fields
    | with_reducible rfl

theorem tileOff_keeps {s : State} (t0 : Nat) (t : State) (h : Keeps eff s t)   :
    Keeps eff s (tileOff t0 t) := by
  delta tileOff
  try dsimp only
  repeat' first
    | with_reducible assumption
    | intro _
    | with_reducible apply Keeps.ite
    | with_reducible apply Keeps.foldl
    | with_reducible apply State.put_keeps
    | with_reducible apply State.each_keeps
    | with_reducible apply State.modTile_keeps
    | with_reducible apply countOn_keeps
    | with_reducible apply calLose_keeps
    | with_reducible apply tileRefresh_keeps
    | with_reducible apply winReset_keeps
    | split
    | with_reducible apply Keeps.fields
    | with_reducible rfl

theorem journalDrop_keeps {s : State} (t : State) (h : Keeps eff s t) : Keeps eff s (journalDrop t) :=
  Keeps.fields (h.setJ [] none fun _ => ⟨by simp, by simp⟩)

theorem setRole_keeps {s : State} (d : Dom) (x : Role) (t : State) (h : Keeps eff s t) (hx : x ≠ .active)
    (h_roles : eff.roles = true := by assumption) : Keeps eff s (setRole d x t) := by
  delta setRole
  refine State.modSv_roles _ _ h fun v r => ?_
  cases d
  · exact ⟨fun e => hx e.1, fun a b => ⟨hx, (r.2 a b).2⟩⟩
  · exact ⟨fun e => hx e.2, fun a b => ⟨(r.2 a b).1, hx⟩⟩

theorem enterSleep_keeps {s : State} (t : State) (h : Keeps eff s t)
    (h_qmem : eff.qmem = true := by assumption) (h_roles : eff.roles = true := by assumption) (h_power : eff.power = true := by assumption) : Keeps eff s (enterSleep t) := by
  delta enterSleep
  try dsimp only
  repeat' first
    | with_reducible assumption
    | intro _
    | with_reducible apply Keeps.ite
    | with_reducible apply powerResult_keeps
    | with_reducible apply State.modCa_keeps
    | with_reducible apply setPower_keeps
    | with_reducible apply State.modPw_fields
    | with_reducible apply journalDrop_keeps
    | with_reducible apply ringClose_keeps
    | with_reducible apply State.modSv_fields
    | with_reducible apply setRole_keeps
    | with_reducible apply State.each_keeps
    | with_reducible apply allTiles_keeps
    | with_reducible apply tileOff_keeps
    | with_reducible apply canSleepNow_keeps
    | with_reducible apply acqStop_keeps
    | with_reducible rfl
    | contradiction
    | split

theorem sleepWake_keeps {s : State} (t : State) (h : Keeps eff s t)  (h_qmem : eff.qmem = true := by assumption) (h_power : eff.power = true := by assumption) :
    Keeps eff s (sleepWake t) := by
  delta sleepWake
  try dsimp only
  repeat' first
    | with_reducible assumption
    | intro _
    | with_reducible apply Keeps.ite
    | with_reducible apply Keeps.foldl
    | with_reducible apply State.modPw_fields
    | with_reducible apply State.set1_keeps
    | with_reducible apply State.each_keeps
    | with_reducible apply State.modTile_keeps
    | with_reducible apply safeRefresh_keeps
    | with_reducible apply allTiles_keeps
    | with_reducible apply setPower_keeps
    | with_reducible apply wakeRecord_keeps
    | with_reducible apply canWake_keeps
    | split
    | with_reducible apply Keeps.fields
    | with_reducible rfl

theorem takePending_keeps {s : State} (t : State) (h : Keeps eff s t)   :
    Keeps eff s (takePending t) := by
  delta takePending
  try dsimp only
  repeat' first
    | with_reducible assumption
    | intro _
    | with_reducible apply Keeps.ite
    | with_reducible apply Keeps.foldl
    | with_reducible apply State.each_keeps
    | with_reducible apply startRun_keeps
    | split
    | with_reducible apply Keeps.fields
    | with_reducible rfl

theorem wakeComplete_keeps {s : State} (t : State) (h : Keeps eff s t)  (h_power : eff.power = true := by assumption) :
    Keeps eff s (wakeComplete t) := by
  delta wakeComplete
  try dsimp only
  repeat' first
    | with_reducible assumption
    | intro _
    | with_reducible apply Keeps.ite
    | with_reducible apply Keeps.foldl
    | with_reducible apply startChains_keeps
    | with_reducible apply setPower_keeps
    | with_reducible apply dozeCause_keeps
    | with_reducible apply ringReturn_keeps
    | with_reducible apply takePending_keeps
    | split
    | with_reducible apply Keeps.fields
    | with_reducible rfl

theorem bootCheck_keeps {s : State} (t : State) (h : Keeps eff s t)  (h_power : eff.power = true := by assumption) :
    Keeps eff s (bootCheck t) := by
  delta bootCheck
  try dsimp only
  repeat' first
    | with_reducible assumption
    | intro _
    | with_reducible apply Keeps.ite
    | with_reducible apply Keeps.foldl
    | with_reducible apply startStep_keeps
    | with_reducible apply startChains_keeps
    | with_reducible apply setPower_keeps
    | with_reducible apply dozeCause_keeps
    | split
    | with_reducible apply Keeps.fields
    | with_reducible rfl

theorem tileGo_keeps {s : State} (t0 : Nat) (t : State) (h : Keeps eff s t)   :
    Keeps eff s (tileGo t0 t) := by
  delta tileGo
  try dsimp only
  repeat' first
    | with_reducible assumption
    | intro _
    | with_reducible apply Keeps.ite
    | with_reducible apply Keeps.foldl
    | with_reducible apply State.put_keeps
    | with_reducible apply State.each_keeps
    | with_reducible apply aoSend_keeps
    | with_reducible apply safeRefresh_keeps
    | split
    | with_reducible apply Keeps.fields
    | with_reducible rfl

theorem linkTrained_keeps {s : State} (t0 : Nat) (d : Dom) (t : State) (h : Keeps eff s t)  (h_power : eff.power = true := by assumption) :
    Keeps eff s (linkTrained t0 d t) := by
  delta linkTrained
  try dsimp only
  repeat' first
    | with_reducible assumption
    | intro _
    | with_reducible apply Keeps.ite
    | with_reducible apply Keeps.foldl
    | with_reducible apply State.set1_keeps
    | with_reducible apply State.each_keeps
    | with_reducible apply State.modTile_keeps
    | with_reducible apply discont_keeps
    | with_reducible apply bootCheck_keeps
    | with_reducible apply tileGo_keeps
    | split
    | with_reducible apply Keeps.fields
    | with_reducible rfl

theorem tileStart_keeps {s : State} (t0 : Nat) (t : State) (h : Keeps eff s t)  (h_qmem : eff.qmem = true := by assumption) :
    Keeps eff s (tileStart t0 t) := by
  delta tileStart
  try dsimp only
  repeat' first
    | with_reducible assumption
    | intro _
    | with_reducible apply Keeps.ite
    | with_reducible apply Keeps.foldl
    | with_reducible apply State.put_keeps
    | with_reducible apply State.each_keeps
    | with_reducible apply State.modTile_keeps
    | with_reducible apply tileReset_keeps
    | split
    | with_reducible apply Keeps.fields
    | with_reducible rfl

theorem feedChange_keeps {s : State} (t0 : Nat) (feed : Nat) (ok : Bool) (carry : Nat) (t : State) (h : Keeps eff s t)  (h_qmem : eff.qmem = true := by assumption) :
    Keeps eff s (feedChange t0 feed ok carry t) := by
  delta feedChange
  try dsimp only
  repeat' first
    | with_reducible assumption
    | intro _
    | with_reducible apply Keeps.ite
    | with_reducible apply Keeps.foldl
    | with_reducible apply State.put_keeps
    | with_reducible apply State.putB_keeps
    | with_reducible apply svRecord_keeps
    | with_reducible apply tileStart_keeps
    | split
    | with_reducible apply Keeps.fields
    | with_reducible rfl

theorem powerLoss_keeps {s : State} (t0 : Nat) (t : State) (h : Keeps eff s t)  (h_qmem : eff.qmem = true := by assumption) :
    Keeps eff s (powerLoss t0 t) := by
  delta powerLoss
  try dsimp only
  repeat' first
    | with_reducible assumption
    | intro _
    | with_reducible apply Keeps.ite
    | with_reducible apply Keeps.foldl
    | with_reducible apply sweepEnd_keeps
    | with_reducible apply tileOff_keeps
    | split
    | with_reducible apply Keeps.fields
    | with_reducible rfl

theorem frameReceive_keeps {s : State} (t0 : Nat) (d : Dom) (e : Nat) (t : State) (h : Keeps eff s t)   :
    Keeps eff s (frameReceive t0 d e t) := by
  delta frameReceive
  try dsimp only
  repeat' first
    | with_reducible assumption
    | intro _
    | with_reducible apply Keeps.ite
    | with_reducible apply Keeps.foldl
    | with_reducible apply State.inc_keeps
    | with_reducible apply State.modTile_keeps
    | with_reducible apply safeRefresh_keeps
    | split
    | with_reducible apply Keeps.fields
    | with_reducible rfl

theorem tileRstWrite_keeps {s : State} (t0 : Nat) (w : Word) (t : State) (h : Keeps eff s t)  (h_qmem : eff.qmem = true := by assumption) :
    Keeps eff s (tileRstWrite t0 w t) := by
  delta tileRstWrite
  try dsimp only
  repeat' first
    | with_reducible assumption
    | intro _
    | with_reducible apply Keeps.ite
    | with_reducible apply Keeps.foldl
    | with_reducible apply tileReset_keeps
    | split
    | with_reducible apply Keeps.fields
    | with_reducible rfl

theorem resetWrite_keeps {s : State} (w : Word) (t : State) (h : Keeps eff s t)  (h_otp : eff.otp = true := by assumption) (h_flash : eff.flash = true := by assumption) (h_qmem : eff.qmem = true := by assumption) (h_roles : eff.roles = true := by assumption) (h_power : eff.power = true := by assumption) :
    Keeps eff s (resetWrite w t) := by
  delta resetWrite
  try dsimp only
  repeat' first
    | with_reducible assumption
    | intro _
    | with_reducible apply Keeps.ite
    | with_reducible apply Keeps.foldl
    | with_reducible apply State.set1_keeps
    | with_reducible apply coldReset_keeps
    | with_reducible apply warmReset_keeps
    | split
    | with_reducible apply Keeps.fields
    | with_reducible rfl

theorem powerOn_keeps {s : State} (a b : Bool) (t : State) (h : Keeps eff s t)
    (h_qmem : eff.qmem = true := by assumption) (h_roles : eff.roles = true := by assumption) (h_power : eff.power = true := by assumption) : Keeps eff s (powerOn a b t) := by
  delta powerOn
  dsimp only
  refine tilesStart_keeps _ _ (calStale_keeps _ (factoryLoad_keeps _ (startStep_keeps _ _ ?_)))
  exact h.rebuilt (fun m => ⟨rfl, rfl, ((State.memWf_iff _).mp m).2.2.1, noJ.1, noJ.2⟩)
    (fun _ => by simp [SvSt.rolesOk])
    (fun _ => rfl) (fun x => by simp [h_qmem] at x) (fun x => by simp [h_roles] at x) (fun x => by simp [h_power] at x)

theorem schFire_keeps {s : State} (j : Nat) (t : State) (h : Keeps eff s t)  (h_qmem : eff.qmem = true := by assumption) (h_power : eff.power = true := by assumption) :
    Keeps eff s (schFire j t) := by
  delta schFire
  try dsimp only
  repeat' first
    | with_reducible assumption
    | intro _
    | with_reducible apply Keeps.ite
    | with_reducible apply Keeps.foldl
    | with_reducible apply State.set1_keeps
    | with_reducible apply State.addSat_keeps
    | with_reducible apply State.incWrap_keeps
    | with_reducible apply State.put64_keeps
    | with_reducible apply fireTrigs_keeps
    | with_reducible apply syncRequest_keeps
    | with_reducible apply tokenSend_keeps
    | with_reducible apply noteWake_keeps
    | split
    | with_reducible apply Keeps.fields
    | with_reducible rfl

theorem noteFail_keeps {s : State} (d : Dom) (cause : Nat) (t : State) (h : Keeps eff s t)   :
    Keeps eff s (noteFail d cause t) := by
  delta noteFail
  try dsimp only
  repeat' first
    | with_reducible assumption
    | intro _
    | with_reducible apply Keeps.ite
    | with_reducible apply Keeps.foldl
    | with_reducible apply State.modSv_fields
    | with_reducible apply State.put_keeps
    | with_reducible apply State.put64_keeps
    | with_reducible apply State.modSv_keeps
    | split
    | with_reducible apply Keeps.fields
    | with_reducible rfl
    | (cases ‹Dom› <;> rfl)

theorem fenceRecord_keeps {s : State} (d : Dom) (cause : Nat) (t : State) (h : Keeps eff s t)  (h_qmem : eff.qmem = true := by assumption) :
    Keeps eff s (fenceRecord d cause t) := by
  delta fenceRecord
  try dsimp only
  repeat' first
    | with_reducible assumption
    | intro _
    | with_reducible apply Keeps.ite
    | with_reducible apply Keeps.foldl
    | with_reducible apply svRecord_keeps
    | split
    | with_reducible apply Keeps.fields
    | with_reducible rfl

theorem standbyTests_keeps {s : State} (res : Nat) (t : State) (h : Keeps eff s t)  (h_qmem : eff.qmem = true := by assumption) :
    Keeps eff s (standbyTests res t) := by
  delta standbyTests
  try dsimp only
  repeat' first
    | with_reducible assumption
    | intro _
    | with_reducible apply Keeps.ite
    | with_reducible apply Keeps.foldl
    | with_reducible apply State.modSv_fields
    | with_reducible apply State.modSv_keeps
    | with_reducible apply permitEndT_keeps
    | with_reducible apply permitEnd_keeps
    | split
    | with_reducible apply Keeps.fields
    | with_reducible rfl
    | (cases ‹Dom› <;> rfl)

theorem standbyLost_keeps {s : State} (t : State) (h : Keeps eff s t)  (h_qmem : eff.qmem = true := by assumption) :
    Keeps eff s (standbyLost t) := by
  delta standbyLost
  try dsimp only
  repeat' first
    | with_reducible assumption
    | intro _
    | with_reducible apply Keeps.ite
    | with_reducible apply Keeps.foldl
    | with_reducible apply State.modSv_fields
    | with_reducible apply State.put_keeps
    | with_reducible apply State.modSv_keeps
    | with_reducible apply permitEnd_keeps
    | with_reducible apply journalDrop_keeps
    | with_reducible apply standbyTests_keeps
    | split
    | with_reducible apply Keeps.fields
    | with_reducible rfl

theorem outOfStep_keeps {s : State} (t : State) (h : Keeps eff s t)   :
    Keeps eff s (outOfStep t) := by
  delta outOfStep
  try dsimp only
  repeat' first
    | with_reducible assumption
    | intro _
    | with_reducible apply Keeps.ite
    | with_reducible apply Keeps.foldl
    | with_reducible apply State.modSv_fields
    | with_reducible apply State.modSv_keeps
    | with_reducible apply journalDrop_keeps
    | split
    | with_reducible apply Keeps.fields
    | with_reducible rfl

theorem noteFence_keeps {s : State} (d : Dom) (t : State) (h : Keeps eff s t)   :
    Keeps eff s (noteFence d t) := by
  delta noteFence
  try dsimp only
  repeat' first
    | with_reducible assumption
    | intro _
    | with_reducible apply Keeps.ite
    | with_reducible apply Keeps.foldl
    | with_reducible apply State.modSv_fields
    | with_reducible apply State.modSv_keeps
    | split
    | with_reducible apply Keeps.fields
    | with_reducible rfl
    | (cases ‹Dom› <;> rfl)

theorem coldPw_keeps {s : State} (p : PwSt) (t : State) (h : Keeps eff s t) (he : eff.power = true := by assumption) :
    Keeps eff s { t with pw := p } :=
  ⟨h.pending, h.mem, h.otp, h.roles, h.otpSame, h.flashSame, h.qmemSame, h.rolesSame, fun x => by simp [he] at x⟩

theorem noDomain_keeps {s : State} (t : State) (h : Keeps eff s t)
    (h_otp : eff.otp = true := by assumption) (h_flash : eff.flash = true := by assumption) (h_qmem : eff.qmem = true := by assumption) (h_roles : eff.roles = true := by assumption) (h_power : eff.power = true := by assumption) : Keeps eff s (noDomain t) := by
  delta noDomain
  dsimp only
  refine Keeps.ite ((coldPw_keeps _ _ (coldState_keeps _ _ h))) (Keeps.ite ?_ (State.modSv_fields _ (coldReset_keeps _ _ h)))
  exact State.modSv_roles _ _ (ringClose_keeps _ _ h) fun v r => ⟨r.1, fun e => nomatch e⟩

theorem ringClose_sv (st : Nat) (t : State) : (ringClose st t).sv = t.sv := by
  have e : ∀ u : State, (csState st u).sv = u.sv := fun u => by delta csState; rw [State.modCsn_sv, State.put_sv]
  delta ringClose
  dsimp only
  rw [e, State.modCsn_sv]
  exact each_ind (fun u => u.sv = t.sv) _ _ _ rfl fun x _ u hu => by rw [State.modLink_sv, State.put_sv, State.put_sv, hu]

theorem activeLost_keeps {s : State} (d : Dom) (cause : Nat) (t : State) (h : Keeps eff s t)
    (hn : s.rolesOk → t.sv.roleA ≠ .active ∧ t.sv.roleB ≠ .active)
    (h_otp : eff.otp = true := by assumption) (h_flash : eff.flash = true := by assumption) (h_qmem : eff.qmem = true := by assumption) (h_roles : eff.roles = true := by assumption) (h_power : eff.power = true := by assumption) : Keeps eff s (activeLost d cause t) := by
  have h1 : ∀ u : State, u.sv = t.sv → Keeps eff s u →
      Keeps eff s ((ringClose csOff u).modSv (fun v => { v with anyActive := false, tkoFrom := some (d, cause), ready := false })) := fun u hu hk => by
    refine State.modSv_sound _ _ (ringClose_keeps _ _ hk) fun r => ?_
    have k := hn r
    rw [ringClose_sv, hu]
    exact ⟨fun e => k.1 e.1, fun _ _ => k⟩
  have h2 := h1 _ (by split <;> simp) (Keeps.ite (c := t.pw.power = 2) (State.modCa_keeps _ (fun c => { c with haltAt := some (now t) }) h) h)
  delta activeLost
  dsimp only
  exact Keeps.ite h2 (noDomain_keeps _ h2)

theorem verdict_keeps {s : State} (d : Dom) (fenced : Bool) (cause : Nat) (t : State) (h : Keeps eff s t)
    (h_otp : eff.otp = true := by assumption) (h_flash : eff.flash = true := by assumption) (h_qmem : eff.qmem = true := by assumption) (h_roles : eff.roles = true := by assumption) (h_power : eff.power = true := by assumption) : Keeps eff s (verdict d fenced cause t) := by
  have hx : (if fenced then Role.fenced else Role.absent) ≠ Role.active := by cases fenced <;> simp
  have h1 := noteFence_keeps d _ (noteFail_keeps d cause _ (setRole_keeps d _ _ h hx))
  delta verdict
  dsimp only
  refine Keeps.ite h (Keeps.ite (noteFail_keeps _ _ _ (setRole_keeps _ _ _ h (by decide))) ?_)
  split
  · next hw =>
    refine activeLost_keeps _ _ _ h1 fun r => ?_
    have k := (h.roles r).1
    simp only [noteFence, noteFail, setRole, State.modSv_sv, State.put64_sv, State.put_sv]
    cases d <;> simp only [roleOf] at hw <;> simp_all
  · have h2 := standbyLost_keeps _ h1
    exact Keeps.ite (State.when_keeps _ _ _ h2 fun u hu => fenceRecord_keeps _ _ _ hu) (Keeps.ite (noDomain_keeps _ h2) h2)

theorem digestForm_keeps {s : State} (d : Dom) (diff : Nat) (bad : Nat) (t : State) (h : Keeps eff s t)   :
    Keeps eff s (digestForm d diff bad t) := by
  delta digestForm
  try dsimp only
  repeat' first
    | with_reducible assumption
    | intro _
    | with_reducible apply Keeps.ite
    | with_reducible apply Keeps.foldl
    | with_reducible apply State.modSv_fields
    | with_reducible apply State.modSv_keeps
    | split
    | with_reducible apply Keeps.fields
    | with_reducible rfl
    | (cases ‹Dom› <;> rfl)

theorem digestCompare_keeps {s : State} (t : State) (h : Keeps eff s t)   :
    Keeps eff s (digestCompare t) := by
  delta digestCompare
  try dsimp only
  repeat' first
    | with_reducible assumption
    | intro _
    | with_reducible apply Keeps.ite
    | with_reducible apply Keeps.foldl
    | with_reducible apply State.modSv_fields
    | with_reducible apply State.inc_keeps
    | with_reducible apply State.modSv_keeps
    | split
    | with_reducible apply Keeps.fields
    | with_reducible rfl

theorem selfcheckDone_keeps {s : State} (failA : Bool) (failB : Bool) (t : State) (h : Keeps eff s t)  (h_otp : eff.otp = true := by assumption) (h_flash : eff.flash = true := by assumption) (h_qmem : eff.qmem = true := by assumption) (h_roles : eff.roles = true := by assumption) (h_power : eff.power = true := by assumption) :
    Keeps eff s (selfcheckDone failA failB t) := by
  delta selfcheckDone
  try dsimp only
  repeat' first
    | with_reducible assumption
    | intro _
    | with_reducible apply Keeps.ite
    | with_reducible apply Keeps.foldl
    | with_reducible apply State.modSv_fields
    | with_reducible apply State.set1_keeps
    | with_reducible apply State.inc_keeps
    | with_reducible apply State.modSv_keeps
    | with_reducible apply svRecord_keeps
    | with_reducible apply verdict_keeps
    | split
    | with_reducible apply Keeps.fields
    | with_reducible rfl
    | (cases ‹Dom› <;> rfl)

theorem slotIdle_keeps {s : State} (t0 : Nat) (t : State) (h : Keeps eff s t)   :
    Keeps eff s (slotIdle t0 t) := by
  delta slotIdle
  try dsimp only
  repeat' first
    | with_reducible assumption
    | intro _
    | with_reducible apply Keeps.ite
    | with_reducible apply Keeps.foldl
    | with_reducible apply State.modTile_keeps
    | split
    | with_reducible apply Keeps.fields
    | with_reducible rfl

theorem linkLoss_keeps {s : State} (t0 : Nat) (d : Dom) (t : State) (h : Keeps eff s t)   :
    Keeps eff s (linkLoss t0 d t) := by
  delta linkLoss
  try dsimp only
  repeat' first
    | with_reducible assumption
    | intro _
    | with_reducible apply Keeps.ite
    | with_reducible apply Keeps.foldl
    | with_reducible apply State.put_keeps
    | with_reducible apply State.modTile_keeps
    | with_reducible apply calLose_keeps
    | with_reducible apply outOfStep_keeps
    | with_reducible apply slotIdle_keeps
    | split
    | with_reducible apply Keeps.fields
    | with_reducible rfl

theorem linkRetry_keeps {s : State} (t0 : Nat) (d : Dom) (t : State) (h : Keeps eff s t)  (h_otp : eff.otp = true := by assumption) (h_flash : eff.flash = true := by assumption) (h_qmem : eff.qmem = true := by assumption) (h_roles : eff.roles = true := by assumption) (h_power : eff.power = true := by assumption) :
    Keeps eff s (linkRetry t0 d t) := by
  delta linkRetry
  try dsimp only
  repeat' first
    | with_reducible assumption
    | intro _
    | with_reducible apply Keeps.ite
    | with_reducible apply Keeps.foldl
    | with_reducible apply State.when_keeps
    | with_reducible apply State.modTile_keeps
    | with_reducible apply startFail_keeps
    | with_reducible apply bootCheck_keeps
    | with_reducible apply verdict_keeps
    | split
    | with_reducible apply Keeps.fields
    | with_reducible rfl

theorem wordLost_keeps {s : State} (m : Nat) (a : Nat) (t : State) (h : Keeps eff s t)  (h_qmem : eff.qmem = true := by assumption) :
    Keeps eff s (wordLost m a t) := by
  delta wordLost
  try dsimp only
  repeat' first
    | with_reducible assumption
    | intro _
    | with_reducible apply Keeps.ite
    | with_reducible apply Keeps.foldl
    | with_reducible apply wr_keeps
    | with_reducible apply State.each_keeps
    | with_reducible apply State.useFree_keeps
    | with_reducible apply putWords_keeps
    | with_reducible apply prRefresh_keeps
    | split
    | with_reducible apply Keeps.fields
    | with_reducible rfl

theorem scrub_keeps {s : State} (d : Dom) (m : Nat) (a : Nat) (err : Nat) (pass : Bool) (t : State) (h : Keeps eff s t)  (h_otp : eff.otp = true := by assumption) (h_flash : eff.flash = true := by assumption) (h_qmem : eff.qmem = true := by assumption) (h_roles : eff.roles = true := by assumption) (h_power : eff.power = true := by assumption) :
    Keeps eff s (scrub d m a err pass t) := by
  delta scrub
  try dsimp only
  repeat' first
    | with_reducible assumption
    | intro _
    | with_reducible apply Keeps.ite
    | with_reducible apply Keeps.foldl
    | with_reducible apply State.modSv_fields
    | with_reducible apply State.inc_keeps
    | with_reducible apply State.when_keeps
    | with_reducible apply State.modSv_keeps
    | with_reducible apply svRecord_keeps
    | with_reducible apply outOfStep_keeps
    | with_reducible apply verdict_keeps
    | with_reducible apply wordLost_keeps
    | split
    | with_reducible apply Keeps.fields
    | with_reducible rfl
    | (cases ‹Dom› <;> rfl)

theorem standbyFails_keeps {s : State} (t : State) (h : Keeps eff s t)  (h_otp : eff.otp = true := by assumption) (h_flash : eff.flash = true := by assumption) (h_qmem : eff.qmem = true := by assumption) (h_roles : eff.roles = true := by assumption) (h_power : eff.power = true := by assumption) :
    Keeps eff s (standbyFails t) := by
  delta standbyFails
  try dsimp only
  repeat' first
    | with_reducible assumption
    | intro _
    | with_reducible apply Keeps.ite
    | with_reducible apply Keeps.foldl
    | with_reducible apply verdict_keeps
    | split
    | with_reducible apply Keeps.fields
    | with_reducible rfl

theorem burgee_keeps {s : State} (temps : Word) (t : State) (h : Keeps eff s t)  (h_qmem : eff.qmem = true := by assumption) :
    Keeps eff s (burgee temps t) := by
  delta burgee
  try dsimp only
  repeat' first
    | with_reducible assumption
    | intro _
    | with_reducible apply Keeps.ite
    | with_reducible apply Keeps.foldl
    | with_reducible apply State.modSv_fields
    | with_reducible apply State.modSv_keeps
    | with_reducible apply qPushFixed_keeps
    | split
    | with_reducible apply Keeps.fields
    | with_reducible rfl

theorem wdogDl_keeps {s : State} (x : Option Nat) (t : State) (h : Keeps eff s t)   :
    Keeps eff s (wdogDl x t) := by
  delta wdogDl
  try dsimp only
  repeat' first
    | with_reducible assumption
    | intro _
    | with_reducible apply Keeps.ite
    | with_reducible apply Keeps.foldl
    | with_reducible apply State.modSv_fields
    | with_reducible apply State.modSv_keeps
    | split
    | with_reducible apply Keeps.fields
    | with_reducible rfl

theorem wdogSettings_keeps {s : State} (w : Word) (t : State) (h : Keeps eff s t)   :
    Keeps eff s (wdogSettings w t) := by
  delta wdogSettings
  try dsimp only
  repeat' first
    | with_reducible assumption
    | intro _
    | with_reducible apply Keeps.ite
    | with_reducible apply Keeps.foldl
    | with_reducible apply State.put_keeps
    | with_reducible apply State.putB_keeps
    | with_reducible apply wdogDl_keeps
    | split
    | with_reducible apply Keeps.fields
    | with_reducible rfl

theorem wdogServe_keeps {s : State} (t : State) (h : Keeps eff s t)  (h_qmem : eff.qmem = true := by assumption) :
    Keeps eff s (wdogServe t) := by
  delta wdogServe
  try dsimp only
  repeat' first
    | with_reducible assumption
    | intro _
    | with_reducible apply Keeps.ite
    | with_reducible apply Keeps.foldl
    | with_reducible apply State.put_keeps
    | with_reducible apply svRecord_keeps
    | with_reducible apply wdogDl_keeps
    | split
    | with_reducible apply Keeps.fields
    | with_reducible rfl

theorem wdogWrite_keeps {s : State} (lk : Nat) (w : Word) (t : State) (h : Keeps eff s t)  (h_qmem : eff.qmem = true := by assumption) :
    Keeps eff s (wdogWrite lk w t) := by
  delta wdogWrite
  try dsimp only
  repeat' first
    | with_reducible assumption
    | intro _
    | with_reducible apply Keeps.ite
    | with_reducible apply Keeps.foldl
    | with_reducible apply wdogSettings_keeps
    | with_reducible apply wdogServe_keeps
    | split
    | with_reducible apply Keeps.fields
    | with_reducible rfl

theorem wdogExpiry_keeps {s : State} (t : State) (h : Keeps eff s t)  (h_qmem : eff.qmem = true := by assumption) :
    Keeps eff s (wdogExpiry t) := by
  delta wdogExpiry
  try dsimp only
  repeat' first
    | with_reducible assumption
    | intro _
    | with_reducible apply Keeps.ite
    | with_reducible apply Keeps.foldl
    | with_reducible apply State.modSv_fields
    | with_reducible apply State.set1_keeps
    | with_reducible apply State.modSv_keeps
    | with_reducible apply svRecord_keeps
    | with_reducible apply safeRefresh_keeps
    | with_reducible apply allTiles_keeps
    | split
    | with_reducible apply Keeps.fields
    | with_reducible rfl

theorem feedRequest_keeps {s : State} (t0 : Nat) (t : State) (h : Keeps eff s t)  (h_qmem : eff.qmem = true := by assumption) :
    Keeps eff s (feedRequest t0 t) := by
  delta feedRequest
  try dsimp only
  repeat' first
    | with_reducible assumption
    | intro _
    | with_reducible apply Keeps.ite
    | with_reducible apply Keeps.foldl
    | with_reducible apply State.modSv_fields
    | with_reducible apply State.set1_keeps
    | with_reducible apply State.modSv_keeps
    | with_reducible apply permitDecideT_keeps
    | split
    | with_reducible apply Keeps.fields
    | with_reducible rfl

theorem linkRequest_keeps {s : State} (t0 : Nat) (t : State) (h : Keeps eff s t)  (h_qmem : eff.qmem = true := by assumption) :
    Keeps eff s (linkRequest t0 t) := by
  delta linkRequest
  try dsimp only
  repeat' first
    | with_reducible assumption
    | intro _
    | with_reducible apply Keeps.ite
    | with_reducible apply Keeps.foldl
    | with_reducible apply State.modSv_fields
    | with_reducible apply State.put_keeps
    | with_reducible apply State.modSv_keeps
    | with_reducible apply permitDecideT_keeps
    | with_reducible apply outOfStep_keeps
    | split
    | with_reducible apply Keeps.fields
    | with_reducible rfl
    | (cases ‹Dom› <;> rfl)

theorem domtestRequest_keeps {s : State} (t : State) (h : Keeps eff s t)  (h_qmem : eff.qmem = true := by assumption) :
    Keeps eff s (domtestRequest t) := by
  delta domtestRequest
  try dsimp only
  repeat' first
    | with_reducible assumption
    | intro _
    | with_reducible apply Keeps.ite
    | with_reducible apply Keeps.foldl
    | with_reducible apply State.modSv_fields
    | with_reducible apply State.modSv_keeps
    | with_reducible apply permitDecide_keeps
    | with_reducible apply outOfStep_keeps
    | split
    | with_reducible apply Keeps.fields
    | with_reducible rfl
    | (cases ‹Dom› <;> rfl)

theorem switchRequest_keeps {s : State} (t : State) (h : Keeps eff s t)  (h_qmem : eff.qmem = true := by assumption) :
    Keeps eff s (switchRequest t) := by
  delta switchRequest
  try dsimp only
  repeat' first
    | with_reducible assumption
    | intro _
    | with_reducible apply Keeps.ite
    | with_reducible apply Keeps.foldl
    | with_reducible apply State.modSv_fields
    | with_reducible apply State.set1_keeps
    | with_reducible apply State.modSv_keeps
    | with_reducible apply permitDecide_keeps
    | split
    | with_reducible apply Keeps.fields
    | with_reducible rfl

theorem nvmRequest_keeps {s : State} (t : State) (h : Keeps eff s t)  (h_qmem : eff.qmem = true := by assumption) :
    Keeps eff s (nvmRequest t) := by
  delta nvmRequest
  try dsimp only
  repeat' first
    | with_reducible assumption
    | intro _
    | with_reducible apply Keeps.ite
    | with_reducible apply Keeps.foldl
    | with_reducible apply permitDecide_keeps
    | split
    | with_reducible apply Keeps.fields
    | with_reducible rfl

theorem nvmRelease_keeps {s : State} (t : State) (h : Keeps eff s t)  (h_qmem : eff.qmem = true := by assumption) :
    Keeps eff s (nvmRelease t) := by
  delta nvmRelease
  try dsimp only
  repeat' first
    | with_reducible assumption
    | intro _
    | with_reducible apply Keeps.ite
    | with_reducible apply Keeps.foldl
    | with_reducible apply permitEnd_keeps
    | split
    | with_reducible apply Keeps.fields
    | with_reducible rfl

theorem rejoinBegin_keeps {s : State} (d : Dom) (t : State) (h : Keeps eff s t)
    (h_qmem : eff.qmem = true := by assumption) (h_roles : eff.roles = true := by assumption) : Keeps eff s (rejoinBegin d t) :=
  svRecord_keeps _ _ _ _ _ _ (State.modSv_fields _ (setRole_keeps _ _ _ h (by decide)))

theorem rejoinRequest_keeps {s : State} (t : State) (h : Keeps eff s t)  (h_qmem : eff.qmem = true := by assumption) (h_roles : eff.roles = true := by assumption) :
    Keeps eff s (rejoinRequest t) := by
  delta rejoinRequest
  try dsimp only
  repeat' first
    | with_reducible assumption
    | intro _
    | with_reducible apply Keeps.ite
    | with_reducible apply Keeps.foldl
    | with_reducible apply State.modSv_fields
    | with_reducible apply State.modSv_keeps
    | with_reducible apply rejoinBegin_keeps
    | split
    | with_reducible apply Keeps.fields
    | with_reducible rfl
    | (cases ‹Dom› <;> rfl)

theorem svCmdWrite_keeps {s : State} (w : Word) (t : State) (h : Keeps eff s t)  (h_qmem : eff.qmem = true := by assumption) (h_roles : eff.roles = true := by assumption) :
    Keeps eff s (svCmdWrite w t) := by
  delta svCmdWrite
  try dsimp only
  repeat' first
    | with_reducible assumption
    | intro _
    | with_reducible apply Keeps.ite
    | with_reducible apply Keeps.foldl
    | with_reducible apply feedRequest_keeps
    | with_reducible apply linkRequest_keeps
    | with_reducible apply domtestRequest_keeps
    | with_reducible apply switchRequest_keeps
    | with_reducible apply nvmRequest_keeps
    | with_reducible apply nvmRelease_keeps
    | with_reducible apply rejoinRequest_keeps
    | split
    | with_reducible apply Keeps.fields
    | with_reducible rfl

theorem domtestEnd_keeps {s : State} (ok : Bool) (t : State) (h : Keeps eff s t)  (h_otp : eff.otp = true := by assumption) (h_flash : eff.flash = true := by assumption) (h_qmem : eff.qmem = true := by assumption) (h_roles : eff.roles = true := by assumption) (h_power : eff.power = true := by assumption) :
    Keeps eff s (domtestEnd ok t) := by
  delta domtestEnd
  try dsimp only
  repeat' first
    | with_reducible assumption
    | intro _
    | with_reducible apply Keeps.ite
    | with_reducible apply Keeps.foldl
    | with_reducible apply verdict_keeps
    | with_reducible apply rejoinBegin_keeps
    | split
    | with_reducible apply Keeps.fields
    | with_reducible rfl

theorem feedSchedule_keeps {s : State} (t : State) (h : Keeps eff s t)  (h_qmem : eff.qmem = true := by assumption) :
    Keeps eff s (feedSchedule t) := by
  delta feedSchedule
  try dsimp only
  repeat' first
    | with_reducible assumption
    | intro _
    | with_reducible apply Keeps.ite
    | with_reducible apply Keeps.foldl
    | with_reducible apply State.modSv_fields
    | with_reducible apply State.modSv_keeps
    | with_reducible apply feedRequest_keeps
    | split
    | with_reducible apply Keeps.fields
    | with_reducible rfl

theorem feedtestEnd_keeps {s : State} (ok : Bool) (second : Bool) (t : State) (h : Keeps eff s t)  (h_qmem : eff.qmem = true := by assumption) :
    Keeps eff s (feedtestEnd ok second t) := by
  delta feedtestEnd
  try dsimp only
  repeat' first
    | with_reducible assumption
    | intro _
    | with_reducible apply Keeps.ite
    | with_reducible apply Keeps.foldl
    | with_reducible apply State.modSv_fields
    | with_reducible apply State.put_keeps
    | with_reducible apply State.set1_keeps
    | with_reducible apply State.modSv_keeps
    | with_reducible apply svRecord_keeps
    | with_reducible apply permitEndT_keeps
    | split
    | with_reducible apply Keeps.fields
    | with_reducible rfl

theorem svCfgWrite_keeps {s : State} (w : Word) (t : State) (h : Keeps eff s t)   :
    Keeps eff s (svCfgWrite w t) := by
  delta svCfgWrite
  try dsimp only
  repeat' first
    | with_reducible assumption
    | intro _
    | with_reducible apply Keeps.ite
    | with_reducible apply Keeps.foldl
    | with_reducible apply State.modSv_fields
    | with_reducible apply State.putB_keeps
    | with_reducible apply State.modSv_keeps
    | with_reducible apply store_keeps
    | split
    | with_reducible apply Keeps.fields
    | with_reducible rfl

theorem epochClose_keeps {s : State} (t : State) (h : Keeps eff s t) : Keeps eff s (epochClose t) := by
  delta epochClose
  dsimp only
  refine Keeps.ite ?_ h
  refine h.rebuilt (fun m => ?_) (fun r => r) (fun _ => rfl) (fun _ => rfl) (fun _ => rfl) (fun _ => rfl)
  have a := (State.memWf_iff _).mp m
  refine ⟨a.1, a.2.1, a.2.2.1, fun j hj => ?_, a.2.2.2.2.2⟩
  rcases List.mem_append.mp hj with hj | hj
  · exact a.2.2.2.2.1 j hj
  · rw [List.mem_singleton] at hj
    subst hj
    exact snapOf_memWf t.jseq t m

theorem ckptCommit_keeps {s : State} (j : JSnap) (t : State) (h : Keeps eff s t)   :
    Keeps eff s (ckptCommit j t) := by
  delta ckptCommit
  try dsimp only
  repeat' first
    | with_reducible assumption
    | intro _
    | with_reducible apply Keeps.ite
    | with_reducible apply Keeps.foldl
    | with_reducible apply State.each_keeps
    | with_reducible apply showCkpt_keeps
    | split
    | with_reducible apply Keeps.fields
    | with_reducible rfl

theorem journalCommit_keeps {s : State} (t : State) (h : Keeps eff s t) : Keeps eff s (journalCommit t) := by
  delta journalCommit
  dsimp only
  split
  · exact h
  · next j rest e =>
    refine Keeps.ite h (ckptCommit_keeps _ _ (State.modSv_fields _ (State.put_keeps _ _ _ (State.put_keeps _ _ _ (wr_keeps _ _ _ ?_)))))
    refine h.rebuilt (fun m => ?_) (fun r => r) (fun _ => rfl) (fun _ => rfl) (fun _ => rfl) (fun _ => rfl)
    have a := (State.memWf_iff _).mp m
    have b := a.2.2.2.2.1
    rw [e] at b
    refine ⟨a.1, a.2.1, a.2.2.1, fun k hk => ?_, fun k hk => ?_⟩
    · obtain ⟨k', hk', rfl⟩ := List.mem_map.mp hk
      exact b k' (List.mem_cons_of_mem _ hk')
    · cases hk
      exact b j (List.mem_cons_self ..)

theorem lagTimeout_keeps {s : State} (t : State) (h : Keeps eff s t)   :
    Keeps eff s (lagTimeout t) := by
  delta lagTimeout
  try dsimp only
  repeat' first
    | with_reducible assumption
    | intro _
    | with_reducible apply Keeps.ite
    | with_reducible apply Keeps.foldl
    | with_reducible apply noteFail_keeps
    | with_reducible apply outOfStep_keeps
    | split
    | with_reducible apply Keeps.fields
    | with_reducible rfl

theorem rejoinStart_keeps {s : State} (d : Dom) (t : State) (h : Keeps eff s t)  (h_qmem : eff.qmem = true := by assumption) (h_roles : eff.roles = true := by assumption) :
    Keeps eff s (rejoinStart d t) := by
  delta rejoinStart
  try dsimp only
  repeat' first
    | with_reducible assumption
    | intro _
    | with_reducible apply Keeps.ite
    | with_reducible apply Keeps.foldl
    | with_reducible apply State.modSv_fields
    | with_reducible apply State.modSv_keeps
    | with_reducible apply rejoinBegin_keeps
    | split
    | with_reducible apply Keeps.fields
    | with_reducible rfl
    | (cases ‹Dom› <;> rfl)

theorem jcomAfresh_keeps {s : State} (n : Nat) (c : KMap Nat) (t : State) (h : Keeps eff s t) :
    Keeps eff s { journalDrop t with jseq := n, jcom := some (snapOf 0 t), ckptDone := c } :=
  h.rebuilt (fun m => by
    have a := (State.memWf_iff _).mp m
    exact ⟨a.1, a.2.1, a.2.2.1, noJ.1, fun j hj => by cases hj; exact snapOf_memWf _ _ m⟩) (fun r => r) (fun _ => rfl) (fun _ => rfl) (fun _ => rfl) (fun _ => rfl)

theorem rejoinComplete_keeps {s : State} (ok : Bool) (t : State) (h : Keeps eff s t)
    (h_otp : eff.otp = true := by assumption) (h_flash : eff.flash = true := by assumption) (h_qmem : eff.qmem = true := by assumption) (h_roles : eff.roles = true := by assumption) (h_power : eff.power = true := by assumption) : Keeps eff s (rejoinComplete ok t) := by
  delta rejoinComplete
  dsimp only
  split
  · exact h
  · next d e =>
    have h1 : Keeps eff s ((t.modSv (fun v => { v with rejoin := none })).modPw (fun w => { w with planned := false })) :=
      State.modPw_fields _ (State.modSv_fields _ h)
    generalize (t.modSv (fun v => { v with rejoin := none })).modPw (fun w => { w with planned := false }) = u at h1 ⊢
    refine Keeps.ite h (Keeps.ite ?_ (svRecord_keeps _ _ _ _ _ _ (verdict_keeps _ _ _ _ h1)))
    exact jcomAfresh_keeps _ _ _ (standbyTests_keeps _ _ (svRecord_keeps _ _ _ _ _ _ (wr_keeps _ _ _ (State.modSv_fields u h1))))

theorem takeover_keeps {s : State} (t : State) (h : Keeps eff s t)
    (h_roles : eff.roles = true := by assumption) : Keeps eff s (takeover t) := by
  delta takeover
  split
  · next x d e1 e2 =>
    split
    · exact h
    · next hr =>
      refine ⟨h.pending, h.mem, h.otp, fun r => ?_, h.otpSame, h.flashSame, h.qmemSame, fun x => by simp [h_roles] at x, h.powerSame⟩
      have k := (h.roles r).2 (by rw [e1]; rfl) (by simp_all)
      cases d
      · exact ⟨fun e => k.2 e.2, fun _ e => nomatch e⟩
      · exact ⟨fun e => k.1 e.1, fun _ e => nomatch e⟩
  · exact h

theorem dupWindow_keeps {s : State} (q : Nat) (t : State) (h : Keeps eff s t)   :
    Keeps eff s (dupWindow q t) := by
  delta dupWindow
  try dsimp only
  repeat' first
    | with_reducible assumption
    | intro _
    | with_reducible apply Keeps.ite
    | with_reducible apply Keeps.foldl
    | with_reducible apply State.put_keeps
    | with_reducible apply State.incWrap_keeps
    | with_reducible apply State.setQueue_keeps
    | split
    | with_reducible apply Keeps.fields
    | with_reducible rfl

theorem markDup_keeps {s : State} (q : Nat) (no : Nat) (t : State) (h : Keeps eff s t)   :
    Keeps eff s (markDup q no t) := by
  delta markDup
  try dsimp only
  repeat' first
    | with_reducible assumption
    | intro _
    | with_reducible apply Keeps.ite
    | with_reducible apply Keeps.foldl
    | with_reducible apply State.setQueue_keeps
    | split
    | with_reducible apply Keeps.fields
    | with_reducible rfl

theorem latePush_keeps {s : State} (o : State) (l : List LateEnt) (t : State) (h : Keeps eff s t)  (h_qmem : eff.qmem = true := by assumption) :
    Keeps eff s (latePush o l t) := by
  delta latePush
  try dsimp only
  repeat' first
    | with_reducible assumption
    | intro _
    | with_reducible apply Keeps.ite
    | with_reducible apply Keeps.foldl
    | with_reducible apply State.each_keeps
    | with_reducible apply qPush_keeps
    | with_reducible apply markDup_keeps
    | split
    | with_reducible apply Keeps.fields
    | with_reducible rfl

theorem freeQueue_keeps {s : State} (q : Nat) (t : State) (h : Keeps eff s t)   :
    Keeps eff s (freeQueue q t) := by
  delta freeQueue
  try dsimp only
  repeat' first
    | with_reducible assumption
    | intro _
    | with_reducible apply Keeps.ite
    | with_reducible apply Keeps.foldl
    | with_reducible apply State.setQueue_keeps
    | split
    | with_reducible apply Keeps.fields
    | with_reducible rfl

theorem tkoQueues_keeps {s : State} (o : State) (com : JSnap) (t : State) (h : Keeps eff s t) (hc : s.memWf = true → com.memWf = true)
    (h_qmem : eff.qmem = true := by assumption) :
    Keeps eff s (tkoQueues o com t) := by
  delta tkoQueues
  dsimp only
  refine State.each_keeps _ _ _ (latePush_keeps _ _ _ (State.each_keeps _ _ _ ?_ fun q u hu => freeQueue_keeps _ _ hu)) fun q u hu => dupWindow_keeps _ _ hu
  have h1 : Keeps eff s { t with qmem := com.qmem } := by
    refine ⟨h.pending, fun m => ?_, h.otp, h.roles, h.otpSame, h.flashSame, fun x => by simp [h_qmem] at x, h.rolesSame, h.powerSame⟩
    have a := h.mem m
    have b := hc m
    simp only [JSnap.memWf, Memory.wf, Bool.and_eq_true] at b
    rw [State.memWf_iff] at a ⊢
    exact ⟨a.1, b.2, a.2.2⟩
  exact h1.fields

theorem ctxFrom_keeps {s : State} (c : Nat) (r : Ckpt) (t : State) (h : Keeps eff s t)   :
    Keeps eff s (ctxFrom c r t) := by
  delta ctxFrom
  try dsimp only
  repeat' first
    | with_reducible assumption
    | intro _
    | with_reducible apply Keeps.ite
    | with_reducible apply Keeps.foldl
    | with_reducible apply wr_keeps
    | with_reducible apply State.putB_keeps
    | with_reducible apply State.each_keeps
    | with_reducible apply State.modCtx_keeps
    | with_reducible apply State.setCv_keeps
    | with_reducible apply ctxReady_keeps
    | split
    | with_reducible apply Keeps.fields
    | with_reducible rfl

theorem tkoIdle_keeps {s : State} (c : Nat) (t : State) (h : Keeps eff s t)   :
    Keeps eff s (tkoIdle c t) := by
  delta tkoIdle
  try dsimp only
  repeat' first
    | with_reducible assumption
    | intro _
    | with_reducible apply Keeps.ite
    | with_reducible apply Keeps.foldl
    | with_reducible apply State.modCtx_keeps
    | split
    | with_reducible apply Keeps.fields
    | with_reducible rfl

theorem tkoRun_keeps {s : State} (c : Nat) (t : State) (h : Keeps eff s t)  (h_qmem : eff.qmem = true := by assumption) :
    Keeps eff s (tkoRun c t) := by
  delta tkoRun
  try dsimp only
  repeat' first
    | with_reducible assumption
    | intro _
    | with_reducible apply Keeps.ite
    | with_reducible apply Keeps.foldl
    | with_reducible apply wr_keeps
    | with_reducible apply State.put_keeps
    | with_reducible apply State.set1_keeps
    | with_reducible apply State.each_keeps
    | with_reducible apply State.modCtx_keeps
    | with_reducible apply endRun_keeps
    | with_reducible apply ctxFrom_keeps
    | split
    | with_reducible apply Keeps.fields
    | with_reducible rfl

theorem tkoCtxs_keeps {s : State} (t : State) (h : Keeps eff s t)  (h_qmem : eff.qmem = true := by assumption) :
    Keeps eff s (tkoCtxs t) := by
  delta tkoCtxs
  try dsimp only
  repeat' first
    | with_reducible assumption
    | intro _
    | with_reducible apply Keeps.ite
    | with_reducible apply Keeps.foldl
    | with_reducible apply State.each_keeps
    | with_reducible apply tkoIdle_keeps
    | with_reducible apply tkoRun_keeps
    | split
    | with_reducible apply Keeps.fields
    | with_reducible rfl

theorem tkoCan_keeps {s : State} (o : State) (p : Nat) (t : State) (h : Keeps eff s t)   :
    Keeps eff s (tkoCan o p t) := by
  delta tkoCan
  try dsimp only
  repeat' first
    | with_reducible assumption
    | intro _
    | with_reducible apply Keeps.ite
    | with_reducible apply Keeps.foldl
    | with_reducible apply State.each_keeps
    | with_reducible apply State.modCan_keeps
    | with_reducible apply canIntegrate_keeps
    | with_reducible apply lvbOpen_keeps
    | split
    | with_reducible apply Keeps.fields
    | with_reducible rfl

theorem tkoEvents_keeps {s : State} (p : Nat) (t : State) (h : Keeps eff s t)  (h_qmem : eff.qmem = true := by assumption) (h_power : eff.power = true := by assumption) :
    Keeps eff s (tkoEvents p t) := by
  delta tkoEvents
  try dsimp only
  repeat' first
    | with_reducible assumption
    | intro _
    | with_reducible apply Keeps.ite
    | with_reducible apply Keeps.foldl
    | with_reducible apply portEvent_keeps
    | split
    | with_reducible apply Keeps.fields
    | with_reducible rfl

theorem tkoDip_keeps {s : State} (com : JSnap) (b : Nat) (t : State) (h : Keeps eff s t)   :
    Keeps eff s (tkoDip com b t) := by
  delta tkoDip
  try dsimp only
  repeat' first
    | with_reducible assumption
    | intro _
    | with_reducible apply Keeps.ite
    | with_reducible apply Keeps.foldl
    | with_reducible apply State.setDip_keeps
    | with_reducible apply setBank_keeps
    | split
    | with_reducible apply Keeps.fields
    | with_reducible rfl

theorem tkoLand_keeps {s : State} (com : JSnap) (t : State) (h : Keeps eff s t)   :
    Keeps eff s (tkoLand com t) := by
  delta tkoLand
  try dsimp only
  repeat' first
    | with_reducible assumption
    | intro _
    | with_reducible apply Keeps.ite
    | with_reducible apply Keeps.foldl
    | with_reducible apply State.put_keeps
    | split
    | with_reducible apply Keeps.fields
    | with_reducible rfl

theorem tkoPermits_keeps {s : State} (t : State) (h : Keeps eff s t)  (h_qmem : eff.qmem = true := by assumption) :
    Keeps eff s (tkoPermits t) := by
  delta tkoPermits
  try dsimp only
  repeat' first
    | with_reducible assumption
    | intro _
    | with_reducible apply Keeps.ite
    | with_reducible apply Keeps.foldl
    | with_reducible apply State.modSv_fields
    | with_reducible apply State.put_keeps
    | with_reducible apply State.each_keeps
    | with_reducible apply State.modSv_keeps
    | with_reducible apply permitEnd_keeps
    | with_reducible apply calAbandon_keeps
    | with_reducible apply sweepEnd_keeps
    | split
    | with_reducible apply Keeps.fields
    | with_reducible rfl
    | (cases ‹Dom› <;> rfl)

theorem lateTrigs_keeps {s : State} (cs : List Nat) (l : List (List Trig)) (t : State) (h : Keeps eff s t)   :
    Keeps eff s (lateTrigs cs l t) := by
  delta lateTrigs
  try dsimp only
  repeat' first
    | with_reducible assumption
    | intro _
    | with_reducible apply Keeps.ite
    | with_reducible apply Keeps.foldl
    | with_reducible apply State.each_keeps
    | with_reducible apply acceptTrig_keeps
    | split
    | with_reducible apply Keeps.fields
    | with_reducible rfl

theorem tkoUnits_keeps {s : State} (t : State) (h : Keeps eff s t)  (h_flash : eff.flash = true := by assumption) :
    Keeps eff s (tkoUnits t) := by
  delta tkoUnits
  try dsimp only
  repeat' first
    | with_reducible assumption
    | intro _
    | with_reducible apply Keeps.ite
    | with_reducible apply Keeps.foldl
    | with_reducible apply State.set1_keeps
    | with_reducible apply State.each_keeps
    | with_reducible apply State.modTile_keeps
    | with_reducible apply State.modTu_keeps
    | with_reducible apply State.modS0_keeps
    | with_reducible apply State.modSp2_keeps
    | with_reducible apply State.modCsn_keeps
    | with_reducible apply allTiles_keeps
    | with_reducible apply sp2Show_keeps
    | with_reducible apply logRestart_keeps
    | with_reducible apply slotRestart_keeps
    | with_reducible apply showPend_keeps
    | with_reducible apply raEnd_keeps
    | with_reducible apply trustTko_keeps
    | with_reducible apply s1Lose_keeps
    | split
    | with_reducible apply Keeps.fields
    | with_reducible rfl

theorem tkoRecords_keeps {s : State} (d : Dom) (cause : Nat) (kind : Nat) (t : State) (h : Keeps eff s t)  (h_qmem : eff.qmem = true := by assumption) :
    Keeps eff s (tkoRecords d cause kind t) := by
  delta tkoRecords
  try dsimp only
  repeat' first
    | with_reducible assumption
    | intro _
    | with_reducible apply Keeps.ite
    | with_reducible apply Keeps.foldl
    | with_reducible apply svRecord_keeps
    | with_reducible apply fenceRecord_keeps
    | split
    | with_reducible apply Keeps.fields
    | with_reducible rfl

theorem wdogRestart_keeps {s : State} (t : State) (h : Keeps eff s t)   :
    Keeps eff s (wdogRestart t) := by
  delta wdogRestart
  try dsimp only
  repeat' first
    | with_reducible assumption
    | intro _
    | with_reducible apply Keeps.ite
    | with_reducible apply Keeps.foldl
    | with_reducible apply State.modSv_fields
    | with_reducible apply State.modSv_keeps
    | split
    | with_reducible apply Keeps.fields
    | with_reducible rfl

theorem tkoEnd_keeps {s : State} (d : Dom) (cause kind : Nat) (t : State) (h : Keeps eff s t)
    (h_qmem : eff.qmem = true := by assumption) (h_roles : eff.roles = true := by assumption) : Keeps eff s (tkoEnd d cause kind t) := by
  delta tkoEnd
  dsimp only
  refine tkoRecords_keeps _ _ _ _ (ringReturn_keeps _ (allTiles_keeps _ _ (journalDrop_keeps _ (unquiet_keeps _ (Keeps.fields ?_))) fun _ _ hu => safeRefresh_keeps _ _ hu))
  refine State.set1_keeps _ _ (wr_keeps _ _ _ (wdogRestart_keeps _ ?_))
  exact State.modSv_roles _ _ h fun v r => ⟨r.1, fun e => nomatch e⟩

theorem tkoTu_keeps {s : State} (o : State) (com : JSnap) (t : State) (h : Keeps eff s t)   :
    Keeps eff s (tkoTu o com t) := by
  delta tkoTu
  try dsimp only
  repeat' first
    | with_reducible assumption
    | intro _
    | with_reducible apply Keeps.ite
    | with_reducible apply Keeps.foldl
    | with_reducible apply State.put_keeps
    | with_reducible apply State.each_keeps
    | with_reducible apply State.modTu_keeps
    | with_reducible apply schRecompute_keeps
    | split
    | with_reducible apply Keeps.fields
    | with_reducible rfl

theorem tkoWarm_keeps {s : State} (com : JSnap) (d : Dom) (cause : Nat) (t : State) (h : Keeps eff s t) (hc : s.memWf = true → com.memWf = true)
    (h_flash : eff.flash = true := by assumption) (h_qmem : eff.qmem = true := by assumption) (h_roles : eff.roles = true := by assumption) (h_power : eff.power = true := by assumption) :
    Keeps eff s (tkoWarm com d cause t) := by
  have h1 : ∀ a b, Keeps eff s { t with regs := tkoRegs a b t.regs com.regs, ctxs := com.ctxs, cans := com.cans } :=
    fun a b => (h.setRegs _ fun _ => kwf_rebuild _ _).fields
  have h4 : ∀ u, Keeps eff s u → Keeps eff s ((tkoLand com (u.each [0, 1] (tkoDip com))).each [0, 1, 2, 3] (tkoCan t)) := fun u hu =>
    State.each_keeps _ _ _ (tkoLand_keeps com _ (State.each_keeps _ _ _ hu fun b v hv => tkoDip_keeps _ _ _ hv)) fun p v hv => tkoCan_keeps _ _ _ hv
  have h7 : ∀ u cs l, Keeps eff s u → Keeps eff s (tkoEnd d cause 0 (lateTrigs cs l (tkoPermits ((tkoCtxs u).each [0, 1, 2, 3] tkoEvents)))) := fun u cs l hu =>
    tkoEnd_keeps _ _ _ _ (lateTrigs_keeps _ _ _ (tkoPermits_keeps _ (State.each_keeps _ _ _ (tkoCtxs_keeps _ hu) fun p v hv => tkoEvents_keeps _ _ hv)))
  delta tkoWarm
  dsimp only
  have hq := h4 _ (tkoUnits_keeps _ (tkoQueues_keeps t com _ (tkoTu_keeps t com _ (h1 (t.pw.power == 2) t.ca.wrote)) hc))
  exact Keeps.ite (syncApplyAt_keeps _ _ _ _ (linesResume_keeps _ _ (h7 _ _ _ hq))) (h7 _ _ _ hq)

theorem tkoCold_keeps {s : State} (d : Dom) (cause : Nat) (t : State) (h : Keeps eff s t)
    (h_flash : eff.flash = true := by assumption) (h_qmem : eff.qmem = true := by assumption) (h_roles : eff.roles = true := by assumption) : Keeps eff s (tkoCold d cause t) := by
  delta tkoCold
  dsimp only
  refine tkoEnd_keeps _ _ _ _ (tkoUnits_keeps _ (State.modS0_keeps _ _ (Keeps.setRegs ?_ _ fun _ => kwf_rebuild _ _)))
  exact State.put_keeps _ _ _ (warmReset_keeps _ (tkoPermits_keeps _ h))

theorem newActiveReady_keeps {s : State} (t : State) (h : Keeps eff s t)
    (h_flash : eff.flash = true := by assumption) (h_qmem : eff.qmem = true := by assumption) (h_roles : eff.roles = true := by assumption) (h_power : eff.power = true := by assumption) : Keeps eff s (newActiveReady t) := by
  delta newActiveReady
  dsimp only
  split
  · next d cause e =>
    refine Keeps.ite h (powerResume_keeps _ ?_)
    split
    · next com e1 e2 => exact tkoWarm_keeps _ _ _ _ h fun m => ((State.memWf_iff _).mp (h.mem m)).2.2.2.2.2 com e2
    · exact tkoCold_keeps _ _ _ h
  · exact h

theorem jcomNext_keeps {s : State} (t : State) (h : Keeps eff s t) :
    Keeps eff s { t with rsh := [], wsh := [], jpend := [], late := [], ltrigs := [], ca := { t.ca with wrote := [] }, jcom := some (snapOf t.jseq t), jseq := (t.jseq + 1) % 2 ^ 32 } :=
  h.rebuilt (fun m => by
    have a := (State.memWf_iff _).mp m
    exact ⟨a.1, a.2.1, a.2.2.1, noJ.1, fun j hj => by cases hj; exact snapOf_memWf _ _ m⟩) (fun r => r) (fun _ => rfl) (fun _ => rfl) (fun _ => rfl) (fun _ => rfl)

theorem switchover_keeps {s : State} (t : State) (h : Keeps eff s t)
    (h_qmem : eff.qmem = true := by assumption) (h_roles : eff.roles = true := by assumption) (h_power : eff.power = true := by assumption) : Keeps eff s (switchover t) := by
  delta switchover
  dsimp only
  split
  · next d e hd he =>
    refine Keeps.ite h ?_
    have h1 : Keeps eff s (t.each (List.range 8) (fun k s => match (s.eng k).ctx with
        | some c => ctxReady c (offEngine c s)
        | none => s)) := State.each_keeps _ _ _ h fun k u hu => by
      split
      · exact ctxReady_keeps _ _ (offEngine_keeps _ _ hu)
      · exact hu
    have hv : (t.each (List.range 8) (fun k s => match (s.eng k).ctx with
        | some c => ctxReady c (offEngine c s)
        | none => s)).sv = t.sv := each_ind (fun u => u.sv = t.sv) _ _ _ rfl fun k _ u hu => by
      split
      · rw [ctxReady, ctxState, State.put_sv, State.put_sv, offEngine, State.put_sv, State.put_sv, hu]
      · exact hu
    generalize (t.each (List.range 8) (fun k s => match (s.eng k).ctx with
        | some c => ctxReady c (offEngine c s)
        | none => s)) = u at h1 hv ⊢
    have hde : (d = .a ∧ e = .b ∧ t.sv.roleA = .active) ∨ (d = .b ∧ e = .a ∧ t.sv.roleB = .active) := by
      unfold activeDom at hd
      unfold standbyDom at he
      split at hd <;> split at he <;> first | cases hd | skip
      all_goals first | cases he | skip
      all_goals simp_all
    have h2 : Keeps eff s ((setRole e .active (setRole d .standby u)).modSv (fun v => { v with epoch := nextEpoch v.epoch, switchAt := none })) := by
      refine ⟨h1.pending, h1.mem, h1.otp, fun r => ?_, h1.otpSame, h1.flashSame, h1.qmemSame, fun x => by simp [h_roles] at x, h1.powerSame⟩
      have k := (h.roles r).2
      rw [← hv] at k hde
      rcases hde with ⟨rfl, rfl, ha⟩ | ⟨rfl, rfl, ha⟩
      · exact ⟨fun q => (by simpa [setRole] using q.1), fun a b => absurd ha (k a b).1⟩
      · exact ⟨fun q => (by simpa [setRole] using q.2), fun a b => absurd ha (k a b).2⟩
    generalize (setRole e .active (setRole d .standby u)).modSv (fun v => { v with epoch := nextEpoch v.epoch, switchAt := none }) = w at h2 ⊢
    refine powerResume_keeps _ (jcomNext_keeps _ ?_)
    exact svRecord_keeps _ _ _ _ _ _ (ringReturn_keeps _ (wr_keeps _ _ _ (ringClose_keeps _ _ (permitEnd_keeps _ _ _ (State.modS0_keeps _ _
      (State.put_keeps _ _ _ h2))))))
  · exact h

theorem switchExpiry_keeps {s : State} (t : State) (h : Keeps eff s t)  (h_qmem : eff.qmem = true := by assumption) (h_power : eff.power = true := by assumption) :
    Keeps eff s (switchExpiry t) := by
  delta switchExpiry
  try dsimp only
  repeat' first
    | with_reducible assumption
    | intro _
    | with_reducible apply Keeps.ite
    | with_reducible apply Keeps.foldl
    | with_reducible apply State.modSv_fields
    | with_reducible apply State.put_keeps
    | with_reducible apply State.modSv_keeps
    | with_reducible apply permitEnd_keeps
    | with_reducible apply powerResume_keeps
    | split
    | with_reducible apply Keeps.fields
    | with_reducible rfl

end Sys2Proof.Machine
end

