-- ==== Sys2Proof/Laws/KeepsHost.lean ====
section
/-! SUPPORT. What the operations of trust commands, register accesses, remote accesses, images, the host port and the step keep (`Keeps`): one lemma for each operation. -/

set_option linter.unreachableTactic false
set_option linter.unusedTactic false

namespace Sys2Proof.Machine

set_option Elab.async false

variable {eff : Eff}

theorem trustWrite_keeps {s : State} (w : Word) (t : State) (h : Keeps eff s t)   :
    Keeps eff s (trustWrite w t) := by
  delta trustWrite
  try dsimp only
  repeat' first
    | with_reducible assumption
    | intro _
    | with_reducible apply Keeps.ite
    | with_reducible apply Keeps.foldl
    | with_reducible apply State.put_keeps
    | with_reducible apply State.set1_keeps
    | with_reducible apply State.modBt_keeps
    | with_reducible apply trustEnd_keeps
    | split
    | with_reducible apply Keeps.fields
    | with_reducible rfl

theorem trustDo_keeps {s : State} (k : TrustCmd) (t : State) (h : Keeps eff s t)
    (h_otp : eff.otp = true := by assumption) : Keeps eff s (trustDo k t) := by
  delta trustDo
  refine Keeps.ite ?_ (trustEnd_keeps _ _ (otpProgram_keeps _ _ _ h))
  generalize attestSign (argDom k.arg) k.body t = o
  cases o with
  | none => exact trustEnd_keeps _ _ h
  | some sig =>
    dsimp only
    generalize (bytesWords 637 (k.body ++ sig)).zipIdx = l
    exact trustEnd_keeps _ _ (State.each_keeps t l _ h fun p u hu => wr_keeps _ _ _ hu).fields

theorem trustDone_keeps {s : State} (ok : Bool) (t : State) (h : Keeps eff s t)  (h_otp : eff.otp = true := by assumption) :
    Keeps eff s (trustDone ok t) := by
  delta trustDone
  try dsimp only
  repeat' first
    | with_reducible assumption
    | intro _
    | with_reducible apply Keeps.ite
    | with_reducible apply Keeps.foldl
    | with_reducible apply trustPart_keeps
    | with_reducible apply trustEnd_keeps
    | with_reducible apply trustDo_keeps
    | split
    | with_reducible apply Keeps.fields
    | with_reducible rfl

theorem clearRc_keeps {s : State} (a : Nat) (t : State) (h : Keeps eff s t)   :
    Keeps eff s (clearRc a t) := by
  delta clearRc
  try dsimp only
  repeat' first
    | with_reducible assumption
    | intro _
    | with_reducible apply Keeps.ite
    | with_reducible apply Keeps.foldl
    | with_reducible apply wr_keeps
    | split
    | with_reducible apply Keeps.fields
    | with_reducible rfl

theorem readEffect_keeps {s : State} (r : Req) (a : Nat) (t : State) (h : Keeps eff s t)   :
    Keeps eff s (readEffect r a t) := by
  delta readEffect
  try dsimp only
  repeat' first
    | with_reducible assumption
    | intro _
    | with_reducible apply Keeps.ite
    | with_reducible apply Keeps.foldl
    | with_reducible apply State.useFree_keeps
    | with_reducible apply popLo_keeps
    | with_reducible apply popHi_keeps
    | with_reducible apply popStream_keeps
    | with_reducible apply lvbUnlock_keeps
    | with_reducible apply lvbLock_keeps
    | with_reducible apply clearRc_keeps
    | split
    | with_reducible apply Keeps.fields
    | with_reducible rfl

theorem busRead_keeps {s : State} (r : Req) (a : Nat) (t : State) (h : Keeps eff s t)   :
    Keeps eff s (busRead r a t).2 := by
  delta busRead
  try dsimp only
  repeat' first
    | with_reducible assumption
    | intro _
    | with_reducible apply Keeps.ite
    | with_reducible apply Keeps.foldl
    | with_reducible apply State.inc_keeps
    | with_reducible apply noteRead_keeps
    | with_reducible apply readEffect_keeps
    | split
    | with_reducible apply Keeps.fields
    | with_reducible rfl

theorem commitStore_keeps {s : State} (r : Req) (b : Nat) (n : Nat) (w : Word) (t : State) (h : Keeps eff s t)   :
    Keeps eff s (commitStore r b n w t) := by
  delta commitStore
  try dsimp only
  repeat' first
    | with_reducible assumption
    | intro _
    | with_reducible apply Keeps.ite
    | with_reducible apply Keeps.foldl
    | with_reducible apply wr_keeps
    | with_reducible apply State.each_keeps
    | with_reducible apply shadowDrop_keeps
    | split
    | with_reducible apply Keeps.fields
    | with_reducible rfl

theorem wideFn_keeps {s : State} (r : Req) (b : Nat) (n : Nat) (w : Word) (t : State) (h : Keeps eff s t)   :
    Keeps eff s (wideFn r b n w t) := by
  delta wideFn
  try dsimp only
  repeat' first
    | with_reducible assumption
    | intro _
    | with_reducible apply Keeps.ite
    | with_reducible apply Keeps.foldl
    | with_reducible apply shadowDrop_keeps
    | with_reducible apply tuSetCommit_keeps
    | with_reducible apply schCommit_keeps
    | with_reducible apply cvWideWrite_keeps
    | with_reducible apply commitStore_keeps
    | split
    | with_reducible apply Keeps.fields
    | with_reducible rfl

theorem irqWrite_keeps {s : State} (w : Word) (t : State) (h : Keeps eff s t)   :
    Keeps eff s (irqWrite w t) := by
  delta irqWrite
  try dsimp only
  repeat' first
    | with_reducible assumption
    | intro _
    | with_reducible apply Keeps.ite
    | with_reducible apply Keeps.foldl
    | with_reducible apply State.modCsn_keeps
    | with_reducible apply store_keeps
    | split
    | with_reducible apply Keeps.fields
    | with_reducible rfl

theorem logWrite_keeps {s : State} (r : Nat) (o : Nat) (w : Word) (t : State) (h : Keeps eff s t)   :
    Keeps eff s (logWrite r o w t) := by
  delta logWrite
  try dsimp only
  repeat' first
    | with_reducible assumption
    | intro _
    | with_reducible apply Keeps.ite
    | with_reducible apply Keeps.foldl
    | with_reducible apply State.setLogr_keeps
    | with_reducible apply store_keeps
    | with_reducible apply logRescan_keeps
    | with_reducible apply logQmapWrite_keeps
    | split
    | with_reducible apply Keeps.fields
    | with_reducible rfl

theorem fnLow_keeps {s : State} (r : Req) (a : Nat) (w : Word) (t : State) (h : Keeps eff s t)  (h_otp : eff.otp = true := by assumption) (h_flash : eff.flash = true := by assumption) (h_qmem : eff.qmem = true := by assumption) (h_roles : eff.roles = true := by assumption) (h_power : eff.power = true := by assumption) :
    Keeps eff s (fnLow r a w t) := by
  delta fnLow
  try dsimp only
  repeat' first
    | with_reducible assumption
    | intro _
    | with_reducible apply Keeps.ite
    | with_reducible apply Keeps.foldl
    | with_reducible apply State.set1_keeps
    | with_reducible apply State.when_keeps
    | with_reducible apply syncRequest_keeps
    | with_reducible apply store_keeps
    | with_reducible apply modDipWrite_keeps
    | with_reducible apply dipStatWrite_keeps
    | with_reducible apply tuRateWrite_keeps
    | with_reducible apply tuStepWrite_keeps
    | with_reducible apply tuSrcWrite_keeps
    | with_reducible apply schCfgWrite_keeps
    | with_reducible apply tuTokenWrite_keeps
    | with_reducible apply tuCanCfgWrite_keeps
    | with_reducible apply cvCmd_keeps
    | with_reducible apply cvFeed_keeps
    | with_reducible apply cvCfgWrite_keeps
    | with_reducible apply sp1CmdWrite_keeps
    | with_reducible apply sp1CfgWrite_keeps
    | with_reducible apply sp1FrameWrite_keeps
    | with_reducible apply sp2CfgWrite_keeps
    | with_reducible apply sp2SlvWrite_keeps
    | with_reducible apply sp2FrameWrite_keeps
    | with_reducible apply sp2CmdWrite_keeps
    | with_reducible apply slvCmdWrite_keeps
    | with_reducible apply recordWrite_keeps
    | with_reducible apply caInjWrite_keeps
    | with_reducible apply caCmdWrite_keeps
    | with_reducible apply ringStart_keeps
    | with_reducible apply csnCfgWrite_keeps
    | with_reducible apply csnHeadqWrite_keeps
    | with_reducible apply csnAlmWrite_keeps
    | with_reducible apply csnCmdWrite_keeps
    | with_reducible apply powerWrite_keeps
    | with_reducible apply resetWrite_keeps
    | with_reducible apply wdogWrite_keeps
    | with_reducible apply svCmdWrite_keeps
    | with_reducible apply svCfgWrite_keeps
    | with_reducible apply trustWrite_keeps
    | with_reducible apply irqWrite_keeps
    | split
    | with_reducible apply Keeps.fields
    | with_reducible rfl

theorem fnTile_keeps {s : State} (a : Nat) (w : Word) (t : State) (h : Keeps eff s t)  (h_qmem : eff.qmem = true := by assumption) :
    Keeps eff s (fnTile a w t) := by
  delta fnTile
  try dsimp only
  repeat' first
    | with_reducible assumption
    | intro _
    | with_reducible apply Keeps.ite
    | with_reducible apply Keeps.foldl
    | with_reducible apply store_keeps
    | with_reducible apply tileSafeWrite_keeps
    | with_reducible apply tileCfgWrite_keeps
    | with_reducible apply tdacWrite_keeps
    | with_reducible apply factorWrite_keeps
    | with_reducible apply winCfgWrite_keeps
    | with_reducible apply tileRstWrite_keeps
    | split
    | with_reducible apply Keeps.fields
    | with_reducible rfl

theorem fnChan_keeps {s : State} (a : Nat) (w : Word) (t : State) (h : Keeps eff s t)  (h_qmem : eff.qmem = true := by assumption) :
    Keeps eff s (fnChan a w t) := by
  delta fnChan
  try dsimp only
  repeat' first
    | with_reducible assumption
    | intro _
    | with_reducible apply Keeps.ite
    | with_reducible apply Keeps.foldl
    | with_reducible apply wr_keeps
    | with_reducible apply store_keeps
    | with_reducible apply doCmd_keeps
    | with_reducible apply onTimeWrite_keeps
    | with_reducible apply clampSumWrite_keeps
    | with_reducible apply diagWrite_keeps
    | with_reducible apply diCfgWrite_keeps
    | with_reducible apply diEvWrite_keeps
    | with_reducible apply doCfgWrite_keeps
    | with_reducible apply aoSet_keeps
    | with_reducible apply aoTrimWrite_keeps
    | with_reducible apply aoSafeWrite_keeps
    | with_reducible apply anInjWrite_keeps
    | with_reducible apply anCfgWrite_keeps
    | with_reducible apply fcCfgWrite_keeps
    | with_reducible apply fcShiftWrite_keeps
    | with_reducible apply fcDelayWrite_keeps
    | with_reducible apply thWrite_keeps
    | with_reducible apply qbindWrite_keeps
    | with_reducible apply factorWrite_keeps
    | split
    | with_reducible apply Keeps.fields
    | with_reducible rfl

theorem qWmWrite_keeps {s : State} (q : Nat) (w : Word) (t : State) (h : Keeps eff s t)   :
    Keeps eff s (qWmWrite q w t) := by
  delta qWmWrite
  try dsimp only
  repeat' first
    | with_reducible assumption
    | intro _
    | with_reducible apply Keeps.ite
    | with_reducible apply Keeps.foldl
    | with_reducible apply State.setQueue_keeps
    | with_reducible apply store_keeps
    | split
    | with_reducible apply Keeps.fields
    | with_reducible rfl

theorem fnUnit_keeps {s : State} (a : Nat) (w : Word) (t : State) (h : Keeps eff s t)  (h_qmem : eff.qmem = true := by assumption) :
    Keeps eff s (fnUnit a w t) := by
  delta fnUnit
  try dsimp only
  repeat' first
    | with_reducible assumption
    | intro _
    | with_reducible apply Keeps.ite
    | with_reducible apply Keeps.foldl
    | with_reducible apply qCfgApply_keeps
    | with_reducible apply store_keeps
    | with_reducible apply ctxRegWrite_keeps
    | with_reducible apply logWrite_keeps
    | with_reducible apply qWmWrite_keeps
    | split
    | with_reducible apply Keeps.fields
    | with_reducible rfl

theorem fnCan_keeps {s : State} (r : Req) (a : Nat) (w : Word) (t : State) (h : Keeps eff s t)  (h_qmem : eff.qmem = true := by assumption) (h_power : eff.power = true := by assumption) :
    Keeps eff s (fnCan r a w t) := by
  delta fnCan
  try dsimp only
  repeat' first
    | with_reducible assumption
    | intro _
    | with_reducible apply Keeps.ite
    | with_reducible apply Keeps.foldl
    | with_reducible apply store_keeps
    | with_reducible apply canTxCmd_keeps
    | with_reducible apply stageWrite_keeps
    | with_reducible apply canSleepWrite_keeps
    | with_reducible apply timingWrite_keeps
    | with_reducible apply canOffWrite_keeps
    | with_reducible apply canCfgWrite_keeps
    | split
    | with_reducible apply Keeps.fields
    | with_reducible rfl

theorem busFn0_keeps {s : State} (r : Req) (a : Nat) (w : Word) (t : State) (h : Keeps eff s t)  (h_otp : eff.otp = true := by assumption) (h_flash : eff.flash = true := by assumption) (h_qmem : eff.qmem = true := by assumption) (h_roles : eff.roles = true := by assumption) (h_power : eff.power = true := by assumption) :
    Keeps eff s (busFn0 r a w t) := by
  delta busFn0
  try dsimp only
  repeat' first
    | with_reducible assumption
    | intro _
    | with_reducible apply Keeps.ite
    | with_reducible apply Keeps.foldl
    | with_reducible apply wr_keeps
    | with_reducible apply shadowPut_keeps
    | with_reducible apply wideFn_keeps
    | with_reducible apply fnLow_keeps
    | with_reducible apply fnTile_keeps
    | with_reducible apply fnChan_keeps
    | with_reducible apply fnUnit_keeps
    | with_reducible apply fnCan_keeps
    | split
    | with_reducible apply Keeps.fields
    | with_reducible rfl

theorem busSync_keeps {s : State} (a : Nat) (t : State) (h : Keeps eff s t)   :
    Keeps eff s (busSync a t) := by
  delta busSync
  try dsimp only
  repeat' first
    | with_reducible assumption
    | intro _
    | with_reducible apply Keeps.ite
    | with_reducible apply Keeps.foldl
    | with_reducible apply wr_keeps
    | split
    | with_reducible apply Keeps.fields
    | with_reducible rfl

theorem wrrWrite_keeps {s : State} (e : Fin 8) (c : Nat) (a : Nat) (nofault : Bool) (h4 : HWord) (w : Word) (t : State) (h : Keeps eff s t)  (h_otp : eff.otp = true := by assumption) (h_flash : eff.flash = true := by assumption) (h_qmem : eff.qmem = true := by assumption) (h_roles : eff.roles = true := by assumption) (h_power : eff.power = true := by assumption) :
    Keeps eff s (wrrWrite e c a nofault h4 w t) := by
  delta wrrWrite
  try dsimp only
  repeat' first
    | with_reducible assumption
    | intro _
    | with_reducible apply Keeps.ite
    | with_reducible apply Keeps.foldl
    | with_reducible apply ctxBlock_keeps
    | with_reducible apply regWrite_keeps
    | with_reducible apply doCmd_keeps
    | with_reducible apply aoSet_keeps
    | with_reducible apply setFlags_keeps
    | with_reducible apply setF_keeps
    | with_reducible apply refuse_keeps
    | with_reducible apply stepOver_keeps
    | with_reducible apply busFn0_keeps
    | split
    | with_reducible apply Keeps.fields
    | with_reducible rfl

theorem readWords_keeps {s : State} (r : Req) (l : List Nat) (t : State) (h : Keeps eff s t) : Keeps eff s (readWords r l t).2 := by
  induction l generalizing t with
  | nil => exact h
  | cons a l ih => exact ih _ (busRead_keeps _ _ _ h)

theorem writeWords_keeps {s : State} (r : Req) (f : Nat → Word → State → State) (l : List (Nat × Word)) (t : State) (h : Keeps eff s t)
    (hf : ∀ a w u, Keeps eff s u → Keeps eff s (f a w u)) : Keeps eff s (writeWords r f l t).2 := by
  induction l generalizing t with
  | nil => exact h
  | cons p l ih =>
    obtain ⟨a, w⟩ := p
    exact ih _ (Keeps.ite (regWrite_keeps _ _ _ _ _ _ (busSync_keeps _ _ h) fun w u hu => hf a w u hu) h)

theorem raExec_keeps {s : State} (f : Nat → Word → State → State) (q : RaReq) (t : State) (h : Keeps eff s t) (hf : ∀ y0 y1 u, Keeps eff s u → Keeps eff s (f y0 y1 u))  :
    Keeps eff s (raExec f q t).2.2 := by
  delta raExec
  try dsimp only
  repeat' first
    | with_reducible assumption
    | intro _
    | with_reducible apply Keeps.ite
    | with_reducible apply Keeps.foldl
    | with_reducible apply hf
    | with_reducible apply readWords_keeps
    | with_reducible apply writeWords_keeps
    | split
    | with_reducible apply Keeps.fields
    | with_reducible rfl

theorem raBuf_keeps {s : State} (l : List Word) (t : State) (h : Keeps eff s t)   :
    Keeps eff s (raBuf l t) := by
  delta raBuf
  try dsimp only
  repeat' first
    | with_reducible assumption
    | intro _
    | with_reducible apply Keeps.ite
    | with_reducible apply Keeps.foldl
    | with_reducible apply wr_keeps
    | with_reducible apply State.each_keeps
    | split
    | with_reducible apply Keeps.fields
    | with_reducible rfl

theorem raStart_keeps {s : State} (tries : Nat) (t : State) (h : Keeps eff s t)   :
    Keeps eff s (raStart tries t) := by
  delta raStart
  try dsimp only
  repeat' first
    | with_reducible assumption
    | intro _
    | with_reducible apply Keeps.ite
    | with_reducible apply Keeps.foldl
    | with_reducible apply State.put_keeps
    | with_reducible apply State.incWrap_keeps
    | split
    | with_reducible apply Keeps.fields
    | with_reducible rfl

theorem raGo_keeps {s : State} (w : Word) (t : State) (h : Keeps eff s t)  (h_otp : eff.otp = true := by assumption) (h_flash : eff.flash = true := by assumption) (h_qmem : eff.qmem = true := by assumption) (h_roles : eff.roles = true := by assumption) (h_power : eff.power = true := by assumption) :
    Keeps eff s (raGo w t) := by
  delta raGo
  try dsimp only
  repeat' first
    | with_reducible assumption
    | intro _
    | with_reducible apply Keeps.ite
    | with_reducible apply Keeps.foldl
    | with_reducible apply State.put_keeps
    | with_reducible apply State.set1_keeps
    | with_reducible apply State.modCsn_keeps
    | with_reducible apply sendOn_keeps
    | with_reducible apply sendBoth_keeps
    | with_reducible apply raEnd_keeps
    | with_reducible apply busFn0_keeps
    | with_reducible apply raBuf_keeps
    | with_reducible apply raStart_keeps
    | with_reducible apply raExec_keeps
    | split
    | with_reducible apply Keeps.fields
    | with_reducible rfl

theorem busFn_keeps {s : State} (r : Req) (a : Nat) (w : Word) (t : State) (h : Keeps eff s t)  (h_otp : eff.otp = true := by assumption) (h_flash : eff.flash = true := by assumption) (h_qmem : eff.qmem = true := by assumption) (h_roles : eff.roles = true := by assumption) (h_power : eff.power = true := by assumption) :
    Keeps eff s (busFn r a w t) := by
  delta busFn
  try dsimp only
  repeat' first
    | with_reducible assumption
    | intro _
    | with_reducible apply Keeps.ite
    | with_reducible apply Keeps.foldl
    | with_reducible apply ringStart_keeps
    | with_reducible apply busFn0_keeps
    | with_reducible apply raGo_keeps
    | split
    | with_reducible apply Keeps.fields
    | with_reducible rfl

theorem busWrite_keeps {s : State} (r : Req) (a : Nat) (w : Word) (t : State) (h : Keeps eff s t)  (h_otp : eff.otp = true := by assumption) (h_flash : eff.flash = true := by assumption) (h_qmem : eff.qmem = true := by assumption) (h_roles : eff.roles = true := by assumption) (h_power : eff.power = true := by assumption) :
    Keeps eff s (busWrite r a w t) := by
  delta busWrite
  try dsimp only
  repeat' first
    | with_reducible assumption
    | intro _
    | with_reducible apply Keeps.ite
    | with_reducible apply Keeps.foldl
    | with_reducible apply regWrite_keeps
    | with_reducible apply busSync_keeps
    | with_reducible apply busFn_keeps
    | split
    | with_reducible apply Keeps.fields
    | with_reducible rfl

theorem raTarget_keeps {s : State} (f : RFrame) (reply : Bool) (t : State) (h : Keeps eff s t)  (h_otp : eff.otp = true := by assumption) (h_flash : eff.flash = true := by assumption) (h_qmem : eff.qmem = true := by assumption) (h_roles : eff.roles = true := by assumption) (h_power : eff.power = true := by assumption) :
    Keeps eff s (raTarget f reply t) := by
  delta raTarget
  try dsimp only
  repeat' first
    | with_reducible assumption
    | intro _
    | with_reducible apply Keeps.ite
    | with_reducible apply Keeps.foldl
    | with_reducible apply State.modCsn_keeps
    | with_reducible apply sendUp_keeps
    | with_reducible apply busFn_keeps
    | with_reducible apply raExec_keeps
    | split
    | with_reducible apply Keeps.fields
    | with_reducible rfl

theorem raReceive_keeps {s : State} (f : RFrame) (t : State) (h : Keeps eff s t)   :
    Keeps eff s (raReceive f t) := by
  delta raReceive
  try dsimp only
  repeat' first
    | with_reducible assumption
    | intro _
    | with_reducible apply Keeps.ite
    | with_reducible apply Keeps.foldl
    | with_reducible apply State.putB_keeps
    | with_reducible apply raEnd_keeps
    | with_reducible apply raBuf_keeps
    | split
    | with_reducible apply Keeps.fields
    | with_reducible rfl

theorem raTimeout_keeps {s : State} (t : State) (h : Keeps eff s t)   :
    Keeps eff s (raTimeout t) := by
  delta raTimeout
  try dsimp only
  repeat' first
    | with_reducible assumption
    | intro _
    | with_reducible apply Keeps.ite
    | with_reducible apply Keeps.foldl
    | with_reducible apply State.inc_keeps
    | with_reducible apply State.modCsn_keeps
    | with_reducible apply sendOn_keeps
    | with_reducible apply raEnd_keeps
    | split
    | with_reducible apply Keeps.fields
    | with_reducible rfl

theorem readTo_keeps {s : State} (r : Req) (a : Nat) (t : State) (h : Keeps eff s t)   :
    Keeps eff s (readTo r a t) := by
  delta readTo
  try dsimp only
  repeat' first
    | with_reducible assumption
    | intro _
    | with_reducible apply Keeps.ite
    | with_reducible apply Keeps.foldl
    | with_reducible apply busRead_keeps
    | split
    | with_reducible apply Keeps.fields
    | with_reducible rfl

theorem sfdpDiscovery_keeps {s : State} (ok0 : Bool) (d0 : Word) (e0 : Word) (ok1 : Bool) (d1 : Word) (e1 : Word) (t : State) (h : Keeps eff s t)   :
    Keeps eff s (sfdpDiscovery ok0 d0 e0 ok1 d1 e1 t) := by
  delta sfdpDiscovery
  try dsimp only
  repeat' first
    | with_reducible assumption
    | intro _
    | with_reducible apply Keeps.ite
    | with_reducible apply Keeps.foldl
    | with_reducible apply wr_keeps
    | with_reducible apply State.put_keeps
    | with_reducible apply State.putB_keeps
    | with_reducible apply State.when_keeps
    | with_reducible apply startStep_keeps
    | with_reducible apply State.modBt_keeps
    | with_reducible apply sp1Show_keeps
    | with_reducible apply startFail_keeps
    | split
    | with_reducible apply Keeps.fields
    | with_reducible rfl

theorem imageLoad_keeps {s : State} (d : Dom) (e0 : SlotRead) (e1 : SlotRead) (t : State) (h : Keeps eff s t)   :
    Keeps eff s (imageLoad d e0 e1 t) := by
  delta imageLoad
  try dsimp only
  repeat' first
    | with_reducible assumption
    | intro _
    | with_reducible apply Keeps.ite
    | with_reducible apply Keeps.foldl
    | with_reducible apply State.modBt_keeps
    | split
    | with_reducible apply Keeps.fields
    | with_reducible rfl

theorem showRep_keeps {s : State} (r : BootRep) (t : State) (h : Keeps eff s t)   :
    Keeps eff s (showRep r t) := by
  delta showRep
  try dsimp only
  repeat' first
    | with_reducible assumption
    | intro _
    | with_reducible apply Keeps.ite
    | with_reducible apply Keeps.foldl
    | with_reducible apply State.put_keeps
    | split
    | with_reducible apply Keeps.fields
    | with_reducible rfl

theorem bootActive_keeps {s : State} (t : State) (h : Keeps eff s t)
    (h_roles : eff.roles = true := by assumption) : Keeps eff s (bootActive t) := by
  delta bootActive
  dsimp only
  split
  swap
  · exact h
  next k =>
  refine State.modPw_fields _ ?_
  refine ⟨h.pending, h.mem, h.otp, fun r => ?_, h.otpSame, h.flashSame, h.qmemSame, fun x => by simp [h_roles] at x, h.powerSame⟩
  simp only [noneActive, Bool.and_eq_true, Option.isNone_iff_eq_none, activeDom] at k
  obtain ⟨k1, k2⟩ := k
  split at k1
  · cases k1
  · split at k1
    · cases k1
    · next ha hb =>
      cases bootDom t
      · exact ⟨fun e => hb e.2, fun e => by rw [show (((setRole .a .active t).modSv (fun v => { v with anyActive := true, epoch := nextEpoch v.epoch })).sv.tkoFrom) = t.sv.tkoFrom from rfl, k2] at e; cases e⟩
      · exact ⟨fun e => ha e.1, fun e => by rw [show (((setRole .b .active t).modSv (fun v => { v with anyActive := true, epoch := nextEpoch v.epoch })).sv.tkoFrom) = t.sv.tkoFrom from rfl, k2] at e; cases e⟩

theorem noImage_keeps {s : State} (r : BootRep) (t : State) (h : Keeps eff s t)  (h_roles : eff.roles = true := by assumption) (h_power : eff.power = true := by assumption) :
    Keeps eff s (noImage r t) := by
  delta noImage
  try dsimp only
  repeat' first
    | with_reducible assumption
    | intro _
    | with_reducible apply Keeps.ite
    | with_reducible apply Keeps.foldl
    | with_reducible apply State.put_keeps
    | with_reducible apply setPower_keeps
    | with_reducible apply startFail_keeps
    | with_reducible apply showRep_keeps
    | with_reducible apply bootActive_keeps
    | split
    | with_reducible apply Keeps.fields
    | with_reducible rfl

theorem imageAgreed_keeps {s : State} (r : BootRep) (t : State) (h : Keeps eff s t)  (h_roles : eff.roles = true := by assumption) (h_power : eff.power = true := by assumption) :
    Keeps eff s (imageAgreed r t) := by
  delta imageAgreed
  try dsimp only
  repeat' first
    | with_reducible assumption
    | intro _
    | with_reducible apply Keeps.ite
    | with_reducible apply Keeps.foldl
    | with_reducible apply State.modBt_keeps
    | with_reducible apply noImage_keeps
    | split
    | with_reducible apply Keeps.fields
    | with_reducible rfl

theorem imageCompare_keeps {s : State} (t : State) (h : Keeps eff s t)  (h_otp : eff.otp = true := by assumption) (h_flash : eff.flash = true := by assumption) (h_qmem : eff.qmem = true := by assumption) (h_roles : eff.roles = true := by assumption) (h_power : eff.power = true := by assumption) :
    Keeps eff s (imageCompare t) := by
  delta imageCompare
  try dsimp only
  repeat' first
    | with_reducible assumption
    | intro _
    | with_reducible apply Keeps.ite
    | with_reducible apply Keeps.foldl
    | with_reducible apply State.modBt_keeps
    | with_reducible apply verdict_keeps
    | with_reducible apply imageAgreed_keeps
    | split
    | with_reducible apply Keeps.fields
    | with_reducible rfl

theorem loadFn_keeps {s : State} (a : Nat) (w : Word) (t : State) (h : Keeps eff s t)  (h_otp : eff.otp = true := by assumption) (h_flash : eff.flash = true := by assumption) (h_qmem : eff.qmem = true := by assumption) (h_roles : eff.roles = true := by assumption) (h_power : eff.power = true := by assumption) :
    Keeps eff s (loadFn a w t) := by
  delta loadFn
  try dsimp only
  repeat' first
    | with_reducible assumption
    | intro _
    | with_reducible apply Keeps.ite
    | with_reducible apply Keeps.foldl
    | with_reducible apply State.put_keeps
    | with_reducible apply prRefresh_keeps
    | with_reducible apply store_keeps
    | with_reducible apply busFn0_keeps
    | split
    | with_reducible apply Keeps.fields
    | with_reducible rfl

theorem loadWord_keeps {s : State} (a : Nat) (w : Word) (t : State) (h : Keeps eff s t)  (h_otp : eff.otp = true := by assumption) (h_flash : eff.flash = true := by assumption) (h_qmem : eff.qmem = true := by assumption) (h_roles : eff.roles = true := by assumption) (h_power : eff.power = true := by assumption) :
    Keeps eff s (loadWord a w t) := by
  delta loadWord
  try dsimp only
  repeat' first
    | with_reducible assumption
    | intro _
    | with_reducible apply Keeps.ite
    | with_reducible apply Keeps.foldl
    | with_reducible apply State.inc_keeps
    | with_reducible apply State.when_keeps
    | with_reducible apply loadFn_keeps
    | split
    | with_reducible apply Keeps.fields
    | with_reducible rfl

theorem loadBytes_keeps {s : State} (t0 : Nat) (l : List Byte) (t : State) (h : Keeps eff s t)  (h_otp : eff.otp = true := by assumption) (h_flash : eff.flash = true := by assumption) (h_qmem : eff.qmem = true := by assumption) (h_roles : eff.roles = true := by assumption) (h_power : eff.power = true := by assumption) :
    Keeps eff s (loadBytes t0 l t) := by
  delta loadBytes
  try dsimp only
  repeat' first
    | with_reducible assumption
    | intro _
    | with_reducible apply Keeps.ite
    | with_reducible apply Keeps.foldl
    | with_reducible apply wr_keeps
    | with_reducible apply State.each_keeps
    | with_reducible apply loadFn_keeps
    | split
    | with_reducible apply Keeps.fields
    | with_reducible rfl

theorem loadRec_keeps {s : State} (r : Rec) (t : State) (h : Keeps eff s t)  (h_otp : eff.otp = true := by assumption) (h_flash : eff.flash = true := by assumption) (h_qmem : eff.qmem = true := by assumption) (h_roles : eff.roles = true := by assumption) (h_power : eff.power = true := by assumption) :
    Keeps eff s (loadRec r t) := by
  delta loadRec
  try dsimp only
  repeat' first
    | with_reducible assumption
    | intro _
    | with_reducible apply Keeps.ite
    | with_reducible apply Keeps.foldl
    | with_reducible apply State.each_keeps
    | with_reducible apply State.modBt_keeps
    | with_reducible apply loadWord_keeps
    | with_reducible apply loadBytes_keeps
    | split
    | with_reducible apply Keeps.fields
    | with_reducible rfl

theorem loadLock_keeps {s : State} (r : Rec) (t : State) (h : Keeps eff s t)   :
    Keeps eff s (loadLock r t) := by
  delta loadLock
  try dsimp only
  repeat' first
    | with_reducible assumption
    | intro _
    | with_reducible apply Keeps.ite
    | with_reducible apply Keeps.foldl
    | with_reducible apply wr_keeps
    | split
    | with_reducible apply Keeps.fields
    | with_reducible rfl

theorem unitsStart_keeps {s : State} (land : Bool) (t : State) (h : Keeps eff s t)   :
    Keeps eff s (unitsStart land t) := by
  delta unitsStart
  try dsimp only
  repeat' first
    | with_reducible assumption
    | intro _
    | with_reducible apply Keeps.ite
    | with_reducible apply Keeps.foldl
    | with_reducible apply State.each_keeps
    | with_reducible apply State.modSp2_keeps
    | with_reducible apply placeQueues_keeps
    | with_reducible apply rebind_keeps
    | with_reducible apply prRefresh_keeps
    | with_reducible apply fcRefresh_keeps
    | with_reducible apply shadowDrop_keeps
    | with_reducible apply schRecompute_keeps
    | with_reducible apply sp1Show_keeps
    | with_reducible apply sp2Show_keeps
    | with_reducible apply logRestart_keeps
    | with_reducible apply canModeTake_keeps
    | with_reducible apply ringApply_keeps
    | split
    | with_reducible apply Keeps.fields
    | with_reducible rfl

theorem showImage_keeps {s : State} (x : Nat) (time : Nat) (r : BootRep) (t : State) (h : Keeps eff s t)   :
    Keeps eff s (showImage x time r t) := by
  delta showImage
  try dsimp only
  repeat' first
    | with_reducible assumption
    | intro _
    | with_reducible apply Keeps.ite
    | with_reducible apply Keeps.foldl
    | with_reducible apply wr_keeps
    | with_reducible apply State.put_keeps
    | with_reducible apply State.each_keeps
    | with_reducible apply showRep_keeps
    | split
    | with_reducible apply Keeps.fields
    | with_reducible rfl

theorem rolesStart_keeps {s : State} (t : State) (h : Keeps eff s t)  (h_qmem : eff.qmem = true := by assumption) (h_roles : eff.roles = true := by assumption) :
    Keeps eff s (rolesStart t) := by
  delta rolesStart
  try dsimp only
  repeat' first
    | with_reducible assumption
    | intro _
    | with_reducible apply Keeps.ite
    | with_reducible apply Keeps.foldl
    | with_reducible apply State.modSv_fields
    | with_reducible apply State.modSv_keeps
    | with_reducible apply fenceRecord_keeps
    | with_reducible apply bootActive_keeps
    | split
    | with_reducible apply Keeps.fields
    | with_reducible rfl
    | (cases ‹Dom› <;> rfl)

theorem tilesRelease_keeps {s : State} (t : State) (h : Keeps eff s t)   :
    Keeps eff s (tilesRelease t) := by
  delta tilesRelease
  try dsimp only
  repeat' first
    | with_reducible assumption
    | intro _
    | with_reducible apply Keeps.ite
    | with_reducible apply Keeps.foldl
    | with_reducible apply safeRefresh_keeps
    | with_reducible apply allTiles_keeps
    | with_reducible apply tileGo_keeps
    | split
    | with_reducible apply Keeps.fields
    | with_reducible rfl

theorem pairsChecked_keeps {s : State} (t : State) (h : Keeps eff s t)  (h_qmem : eff.qmem = true := by assumption) :
    Keeps eff s (pairsChecked t) := by
  delta pairsChecked
  try dsimp only
  repeat' first
    | with_reducible assumption
    | intro _
    | with_reducible apply Keeps.ite
    | with_reducible apply Keeps.foldl
    | with_reducible apply State.each_keeps
    | with_reducible apply pairConflict_keeps
    | split
    | with_reducible apply Keeps.fields
    | with_reducible rfl

theorem applyPass_keeps {s : State} (land : Bool) (time : Nat) (t : State) (h : Keeps eff s t)  (h_otp : eff.otp = true := by assumption) (h_flash : eff.flash = true := by assumption) (h_qmem : eff.qmem = true := by assumption) (h_roles : eff.roles = true := by assumption) (h_power : eff.power = true := by assumption) :
    Keeps eff s (applyPass land time t) := by
  delta applyPass
  try dsimp only
  repeat' first
    | with_reducible assumption
    | intro _
    | with_reducible apply Keeps.ite
    | with_reducible apply Keeps.foldl
    | with_reducible apply State.each_keeps
    | with_reducible apply startStep_keeps
    | with_reducible apply State.modBt_keeps
    | with_reducible apply bootCheck_keeps
    | with_reducible apply loadRec_keeps
    | with_reducible apply loadLock_keeps
    | with_reducible apply unitsStart_keeps
    | with_reducible apply showImage_keeps
    | with_reducible apply rolesStart_keeps
    | with_reducible apply tilesRelease_keeps
    | with_reducible apply pairsChecked_keeps
    | with_reducible apply setJcom_keeps
    | split
    | with_reducible apply Keeps.fields
    | with_reducible rfl

theorem s0Fall_keeps {s : State} (t : State) (h : Keeps eff s t)   :
    Keeps eff s (s0Fall t) := by
  delta s0Fall
  try dsimp only
  repeat' first
    | with_reducible assumption
    | intro _
    | with_reducible apply Keeps.ite
    | with_reducible apply Keeps.foldl
    | with_reducible apply State.modS0_keeps
    | split
    | with_reducible apply Keeps.fields
    | with_reducible rfl

theorem carryReply_keeps {s : State} (late : List Nat) (n : Nat → Nat) (t : State) (h : Keeps eff s t)   :
    Keeps eff s (carryReply late n t).1 := by
  delta carryReply
  try dsimp only
  repeat' first
    | with_reducible assumption
    | intro _
    | with_reducible apply Keeps.ite
    | with_reducible apply Keeps.foldl
    | with_reducible apply State.addSat_keeps
    | with_reducible apply State.inc_keeps
    | with_reducible apply State.when_keeps
    | with_reducible apply State.modS0_keeps
    | split
    | with_reducible apply Keeps.fields
    | with_reducible rfl

theorem s0Dead_keeps {s : State} (n : Nat) (t : State) (h : Keeps eff s t)   :
    Keeps eff s (s0Dead n t) := by
  delta s0Dead
  try dsimp only
  repeat' first
    | with_reducible assumption
    | intro _
    | with_reducible apply Keeps.ite
    | with_reducible apply Keeps.foldl
    | with_reducible apply State.modS0_keeps
    | split
    | with_reducible apply Keeps.fields
    | with_reducible rfl

theorem s0Record_keeps {s : State} (tag : Nat) (under : Bool) (cut : Bool) (t : State) (h : Keeps eff s t)   :
    Keeps eff s (s0Record tag under cut t) := by
  delta s0Record
  try dsimp only
  repeat' first
    | with_reducible assumption
    | intro _
    | with_reducible apply Keeps.ite
    | with_reducible apply Keeps.foldl
    | with_reducible apply State.modS0_keeps
    | split
    | with_reducible apply Keeps.fields
    | with_reducible rfl

theorem s0Result_keeps {s : State} (n : Nat) (full : Bool) (cmd : Word) (t : State) (h : Keeps eff s t)   :
    Keeps eff s (s0Result n full cmd t) := by
  delta s0Result
  try dsimp only
  repeat' first
    | with_reducible assumption
    | intro _
    | with_reducible apply Keeps.ite
    | with_reducible apply Keeps.foldl
    | with_reducible apply State.modS0_keeps
    | split
    | with_reducible apply Keeps.fields
    | with_reducible rfl

theorem s0Read_keeps {s : State} (cmd : Word) (addr : Word) (t : State) (h : Keeps eff s t)   :
    Keeps eff s (s0Read cmd addr t) := by
  delta s0Read
  try dsimp only
  repeat' first
    | with_reducible assumption
    | intro _
    | with_reducible apply Keeps.ite
    | with_reducible apply Keeps.foldl
    | with_reducible apply State.modS0_keeps
    | with_reducible apply sp1Show_keeps
    | with_reducible apply s0Result_keeps
    | with_reducible apply readWords_keeps
    | split
    | with_reducible apply Keeps.fields
    | with_reducible rfl

theorem s0Write_keeps {s : State} (cmd : Word) (addr : Word) (data : List Word) (t : State) (h : Keeps eff s t)  (h_otp : eff.otp = true := by assumption) (h_flash : eff.flash = true := by assumption) (h_qmem : eff.qmem = true := by assumption) (h_roles : eff.roles = true := by assumption) (h_power : eff.power = true := by assumption) :
    Keeps eff s (s0Write cmd addr data t) := by
  delta s0Write
  try dsimp only
  repeat' first
    | with_reducible assumption
    | intro _
    | with_reducible apply Keeps.ite
    | with_reducible apply Keeps.foldl
    | with_reducible apply State.inc_keeps
    | with_reducible apply State.when_keeps
    | with_reducible apply busFn_keeps
    | with_reducible apply s0Result_keeps
    | with_reducible apply winWrite_keeps
    | with_reducible apply writeWords_keeps
    | split
    | with_reducible apply Keeps.fields
    | with_reducible rfl

theorem s0ModeSet_keeps {s : State} (cmd : Word) (data : List Word) (t : State) (h : Keeps eff s t)   :
    Keeps eff s (s0ModeSet cmd data t) := by
  delta s0ModeSet
  try dsimp only
  repeat' first
    | with_reducible assumption
    | intro _
    | with_reducible apply Keeps.ite
    | with_reducible apply Keeps.foldl
    | with_reducible apply State.modS0_keeps
    | with_reducible apply s0Result_keeps
    | split
    | with_reducible apply Keeps.fields
    | with_reducible rfl

theorem s0Examine_keeps {s : State} (cmd : Word) (addr : Word) (data : List Word) (crc : Word) (t : State) (h : Keeps eff s t)  (h_otp : eff.otp = true := by assumption) (h_flash : eff.flash = true := by assumption) (h_qmem : eff.qmem = true := by assumption) (h_roles : eff.roles = true := by assumption) (h_power : eff.power = true := by assumption) :
    Keeps eff s (s0Examine cmd addr data crc t) := by
  delta s0Examine
  try dsimp only
  repeat' first
    | with_reducible assumption
    | intro _
    | with_reducible apply Keeps.ite
    | with_reducible apply Keeps.foldl
    | with_reducible apply State.inc_keeps
    | with_reducible apply State.modS0_keeps
    | with_reducible apply s0Result_keeps
    | with_reducible apply s0Read_keeps
    | with_reducible apply s0Write_keeps
    | with_reducible apply s0ModeSet_keeps
    | split
    | with_reducible apply Keeps.fields
    | with_reducible rfl

theorem s0Frame_keeps {s : State} (cmd : Word) (addr : Word) (data : List Word) (crc : Word) (late : List Nat) (extra : Bool) (t : State) (h : Keeps eff s t)  (h_otp : eff.otp = true := by assumption) (h_flash : eff.flash = true := by assumption) (h_qmem : eff.qmem = true := by assumption) (h_roles : eff.roles = true := by assumption) (h_power : eff.power = true := by assumption) :
    Keeps eff s (s0Frame cmd addr data crc late extra t) := by
  delta s0Frame
  try dsimp only
  repeat' first
    | with_reducible assumption
    | intro _
    | with_reducible apply Keeps.ite
    | with_reducible apply Keeps.foldl
    | with_reducible apply State.inc_keeps
    | with_reducible apply State.modS0_keeps
    | with_reducible apply s0Fall_keeps
    | with_reducible apply s0Dead_keeps
    | with_reducible apply s0Record_keeps
    | with_reducible apply s0Examine_keeps
    | with_reducible apply carryReply_keeps
    | split
    | with_reducible apply Keeps.fields
    | with_reducible rfl

theorem s0Cut_keeps {s : State} (ws : List Word) (n : Nat) (late : List Nat) (t : State) (h : Keeps eff s t)   :
    Keeps eff s (s0Cut ws n late t) := by
  delta s0Cut
  try dsimp only
  repeat' first
    | with_reducible assumption
    | intro _
    | with_reducible apply Keeps.ite
    | with_reducible apply Keeps.foldl
    | with_reducible apply State.inc_keeps
    | with_reducible apply State.useFree_keeps
    | with_reducible apply State.modS0_keeps
    | with_reducible apply s0Fall_keeps
    | with_reducible apply s0Dead_keeps
    | with_reducible apply s0Record_keeps
    | with_reducible apply carryReply_keeps
    | split
    | with_reducible apply Keeps.fields
    | with_reducible rfl

theorem idle_keeps {s : State} (t : State) (h : Keeps eff s t)   :
    Keeps eff s (idle t) := by
  delta idle
  try dsimp only
  repeat' first
    | with_reducible assumption
    | intro _
    | with_reducible apply Keeps.ite
    | with_reducible apply Keeps.foldl
    | with_reducible apply clockEdge_keeps
    | split
    | with_reducible apply Keeps.fields
    | with_reducible rfl

end Sys2Proof.Machine
end

