-- ==== Sys2Proof/Laws/KeepsExec.lean ====
section
/-! SUPPORT. Every command answers a next state and keeps what `Keeps` says: one lemma for each meaning. -/

set_option linter.unreachableTactic false
set_option linter.unusedTactic false

namespace Sys2Proof.Machine

set_option Elab.async false

variable {eff : Eff}

theorem execDipRequest_keeps (r : Req) (w : Word) (s : State)  (h_qmem : eff.qmem = true := by assumption) : ∃ t, execDipRequest r w s = .next t ∧ Keeps eff s t := by
  delta execDipRequest
  try dsimp only
  refine ⟨_, rfl, ?_⟩
  repeat' first
    | with_reducible assumption
    | intro _
    | with_reducible exact Keeps.refl _
    | with_reducible apply Keeps.ite
    | with_reducible apply Keeps.foldl
    | with_reducible apply regWrite_keeps
    | with_reducible apply modDipWrite_keeps
    | split
    | with_reducible apply Keeps.fields
    | with_reducible rfl

theorem execDipLatch_keeps (b : Fin 2) (s : State)   : ∃ t, execDipLatch b s = .next t ∧ Keeps eff s t := by
  delta execDipLatch
  try dsimp only
  refine ⟨_, rfl, ?_⟩
  repeat' first
    | with_reducible assumption
    | intro _
    | with_reducible exact Keeps.refl _
    | with_reducible apply Keeps.ite
    | with_reducible apply Keeps.foldl
    | with_reducible apply dipLatch_keeps
    | split
    | with_reducible apply Keeps.fields
    | with_reducible rfl

theorem execDipBankHeld_keeps (b : Fin 2) (s : State)  (h_qmem : eff.qmem = true := by assumption) : ∃ t, execDipBankHeld b s = .next t ∧ Keeps eff s t := by
  delta execDipBankHeld
  try dsimp only
  refine ⟨_, rfl, ?_⟩
  repeat' first
    | with_reducible assumption
    | intro _
    | with_reducible exact Keeps.refl _
    | with_reducible apply Keeps.ite
    | with_reducible apply Keeps.foldl
    | with_reducible apply holdBank_keeps
    | split
    | with_reducible apply Keeps.fields
    | with_reducible rfl

theorem execDipRelease_keeps (r : Req) (w : Word) (s : State)   : ∃ t, execDipRelease r w s = .next t ∧ Keeps eff s t := by
  delta execDipRelease
  try dsimp only
  refine ⟨_, rfl, ?_⟩
  repeat' first
    | with_reducible assumption
    | intro _
    | with_reducible exact Keeps.refl _
    | with_reducible apply Keeps.ite
    | with_reducible apply Keeps.foldl
    | with_reducible apply regWrite_keeps
    | with_reducible apply dipStatWrite_keeps
    | split
    | with_reducible apply Keeps.fields
    | with_reducible rfl

theorem execDoCmdWrite_keeps (r : Req) (n : Fin 256) (w : Word) (s : State)  (h_qmem : eff.qmem = true := by assumption) : ∃ t, execDoCmdWrite r n w s = .next t ∧ Keeps eff s t := by
  delta execDoCmdWrite
  try dsimp only
  refine ⟨_, rfl, ?_⟩
  repeat' first
    | with_reducible assumption
    | intro _
    | with_reducible exact Keeps.refl _
    | with_reducible apply Keeps.ite
    | with_reducible apply Keeps.foldl
    | with_reducible apply regWrite_keeps
    | with_reducible apply doCmd_keeps
    | split
    | with_reducible apply Keeps.fields
    | with_reducible rfl

theorem execThermalShutdown_keeps (n : Fin 256) (s : State)   : ∃ t, execThermalShutdown n s = .next t ∧ Keeps eff s t := by
  delta execThermalShutdown
  try dsimp only
  refine ⟨_, rfl, ?_⟩
  repeat' first
    | with_reducible assumption
    | intro _
    | with_reducible exact Keeps.refl _
    | with_reducible apply Keeps.ite
    | with_reducible apply Keeps.foldl
    | with_reducible apply State.set1_keeps
    | with_reducible apply doRefresh_keeps
    | with_reducible apply countShutdown_keeps
    | split
    | with_reducible apply Keeps.fields
    | with_reducible rfl

theorem execThermalRestart_keeps (n : Fin 256) (s : State)   : ∃ t, execThermalRestart n s = .next t ∧ Keeps eff s t := by
  delta execThermalRestart
  try dsimp only
  refine ⟨_, rfl, ?_⟩
  repeat' first
    | with_reducible assumption
    | intro _
    | with_reducible exact Keeps.refl _
    | with_reducible apply Keeps.ite
    | with_reducible apply Keeps.foldl
    | with_reducible apply State.put_keeps
    | with_reducible apply doRefresh_keeps
    | split
    | with_reducible apply Keeps.fields
    | with_reducible rfl

theorem execClampEventEnd_keeps (n : Fin 256) (e : Nat) (s : State)  (h_qmem : eff.qmem = true := by assumption) : ∃ t, execClampEventEnd n e s = .next t ∧ Keeps eff s t := by
  delta execClampEventEnd
  try dsimp only
  refine ⟨_, rfl, ?_⟩
  repeat' first
    | with_reducible assumption
    | intro _
    | with_reducible exact Keeps.refl _
    | with_reducible apply Keeps.ite
    | with_reducible apply Keeps.foldl
    | with_reducible apply State.put_keeps
    | with_reducible apply State.addSat_keeps
    | with_reducible apply State.modCh_keeps
    | with_reducible apply diagSet_keeps
    | with_reducible apply doRefresh_keeps
    | split
    | with_reducible apply Keeps.fields
    | with_reducible rfl

theorem execPullinEnd_keeps (n : Fin 256) (s : State)   : ∃ t, execPullinEnd n s = .next t ∧ Keeps eff s t := by
  delta execPullinEnd
  try dsimp only
  refine ⟨_, rfl, ?_⟩
  repeat' first
    | with_reducible assumption
    | intro _
    | with_reducible exact Keeps.refl _
    | with_reducible apply Keeps.ite
    | with_reducible apply Keeps.foldl
    | with_reducible apply State.modCh_keeps
    | split
    | with_reducible apply Keeps.fields
    | with_reducible rfl

theorem execDigitalDiagDetect_keeps (n : Fin 256) (m : BitVec 12) (s : State)  (h_qmem : eff.qmem = true := by assumption) : ∃ t, execDigitalDiagDetect n m s = .next t ∧ Keeps eff s t := by
  delta execDigitalDiagDetect
  try dsimp only
  refine ⟨_, rfl, ?_⟩
  repeat' first
    | with_reducible assumption
    | intro _
    | with_reducible exact Keeps.refl _
    | with_reducible apply Keeps.ite
    | with_reducible apply Keeps.foldl
    | with_reducible apply diagSet_keeps
    | with_reducible apply doRefresh_keeps
    | split
    | with_reducible apply Keeps.fields
    | with_reducible rfl

theorem execDigitalDiagClear_keeps (n : Fin 256) (b : Fin 12) (s : State)   : ∃ t, execDigitalDiagClear n b s = .next t ∧ Keeps eff s t := by
  delta execDigitalDiagClear
  try dsimp only
  refine ⟨_, rfl, ?_⟩
  repeat' first
    | with_reducible assumption
    | intro _
    | with_reducible exact Keeps.refl _
    | with_reducible apply Keeps.ite
    | with_reducible apply Keeps.foldl
    | with_reducible apply State.modCh_keeps
    | with_reducible apply diagClear_keeps
    | with_reducible apply doRefresh_keeps
    | split
    | with_reducible apply Keeps.fields
    | with_reducible rfl

theorem execChDiagClear_keeps (r : Req) (n : Fin 256) (w : Word) (s : State)   : ∃ t, execChDiagClear r n w s = .next t ∧ Keeps eff s t := by
  delta execChDiagClear
  try dsimp only
  refine ⟨_, rfl, ?_⟩
  repeat' first
    | with_reducible assumption
    | intro _
    | with_reducible exact Keeps.refl _
    | with_reducible apply Keeps.ite
    | with_reducible apply Keeps.foldl
    | with_reducible apply regWrite_keeps
    | with_reducible apply diagWrite_keeps
    | split
    | with_reducible apply Keeps.fields
    | with_reducible rfl

theorem execDiSample_keeps (t0 : Fin 16) (raw : BitVec 8) (s : State)  (h_qmem : eff.qmem = true := by assumption) : ∃ t, execDiSample t0 raw s = .next t ∧ Keeps eff s t := by
  delta execDiSample
  try dsimp only
  refine ⟨_, rfl, ?_⟩
  repeat' first
    | with_reducible assumption
    | intro _
    | with_reducible exact Keeps.refl _
    | with_reducible apply Keeps.ite
    | with_reducible apply Keeps.foldl
    | with_reducible apply fireTrigs_keeps
    | with_reducible apply diSamples_keeps
    | split
    | with_reducible apply Keeps.fields
    | with_reducible rfl

theorem execDiEdgesPreset_keeps (r : Req) (n : Fin 256) (w : Word) (s : State)   : ∃ t, execDiEdgesPreset r n w s = .next t ∧ Keeps eff s t := by
  delta execDiEdgesPreset
  try dsimp only
  refine ⟨_, rfl, ?_⟩
  repeat' first
    | with_reducible assumption
    | intro _
    | with_reducible exact Keeps.refl _
    | with_reducible apply Keeps.ite
    | with_reducible apply Keeps.foldl
    | with_reducible apply wr_keeps
    | with_reducible apply regWrite_keeps
    | split
    | with_reducible apply Keeps.fields
    | with_reducible rfl

theorem execDiEvWrite_keeps (r : Req) (n : Fin 256) (w : Word) (s : State)   : ∃ t, execDiEvWrite r n w s = .next t ∧ Keeps eff s t := by
  delta execDiEvWrite
  try dsimp only
  refine ⟨_, rfl, ?_⟩
  repeat' first
    | with_reducible assumption
    | intro _
    | with_reducible exact Keeps.refl _
    | with_reducible apply Keeps.ite
    | with_reducible apply Keeps.foldl
    | with_reducible apply regWrite_keeps
    | with_reducible apply diEvWrite_keeps
    | split
    | with_reducible apply Keeps.fields
    | with_reducible rfl

theorem execTileHoldExpiry_keeps (t0 : Fin 16) (s : State)   : ∃ t, execTileHoldExpiry t0 s = .next t ∧ Keeps eff s t := by
  delta execTileHoldExpiry
  try dsimp only
  refine ⟨_, rfl, ?_⟩
  repeat' first
    | with_reducible assumption
    | intro _
    | with_reducible exact Keeps.refl _
    | with_reducible apply Keeps.ite
    | with_reducible apply Keeps.foldl
    | with_reducible apply State.set1_keeps
    | with_reducible apply State.modTile_keeps
    | with_reducible apply safeRefresh_keeps
    | split
    | with_reducible apply Keeps.fields
    | with_reducible rfl

theorem execTileSafeWdogClear_keeps (r : Req) (t1 : Fin 16) (w : Word) (s : State)   : ∃ t, execTileSafeWdogClear r t1 w s = .next t ∧ Keeps eff s t := by
  delta execTileSafeWdogClear
  try dsimp only
  refine ⟨_, rfl, ?_⟩
  repeat' first
    | with_reducible assumption
    | intro _
    | with_reducible exact Keeps.refl _
    | with_reducible apply Keeps.ite
    | with_reducible apply Keeps.foldl
    | with_reducible apply regWrite_keeps
    | with_reducible apply tileSafeWrite_keeps
    | split
    | with_reducible apply Keeps.fields
    | with_reducible rfl

theorem execAoSetWrite_keeps (r : Req) (n : Fin 256) (w : Word) (s : State)   : ∃ t, execAoSetWrite r n w s = .next t ∧ Keeps eff s t := by
  delta execAoSetWrite
  try dsimp only
  refine ⟨_, rfl, ?_⟩
  repeat' first
    | with_reducible assumption
    | intro _
    | with_reducible exact Keeps.refl _
    | with_reducible apply Keeps.ite
    | with_reducible apply Keeps.foldl
    | with_reducible apply regWrite_keeps
    | with_reducible apply aoSet_keeps
    | split
    | with_reducible apply Keeps.fields
    | with_reducible rfl

theorem execAoTrimWrite_keeps (r : Req) (n : Fin 256) (w : Word) (s : State)   : ∃ t, execAoTrimWrite r n w s = .next t ∧ Keeps eff s t := by
  delta execAoTrimWrite
  try dsimp only
  refine ⟨_, rfl, ?_⟩
  repeat' first
    | with_reducible assumption
    | intro _
    | with_reducible exact Keeps.refl _
    | with_reducible apply Keeps.ite
    | with_reducible apply Keeps.foldl
    | with_reducible apply regWrite_keeps
    | with_reducible apply aoTrimWrite_keeps
    | split
    | with_reducible apply Keeps.fields
    | with_reducible rfl

theorem execLpHiccupOff_keeps (n : Fin 256) (s : State)   : ∃ t, execLpHiccupOff n s = .next t ∧ Keeps eff s t := by
  delta execLpHiccupOff
  try dsimp only
  refine ⟨_, rfl, ?_⟩
  repeat' first
    | with_reducible assumption
    | intro _
    | with_reducible exact Keeps.refl _
    | with_reducible apply Keeps.ite
    | with_reducible apply Keeps.foldl
    | with_reducible apply State.set1_keeps
    | with_reducible apply anRefresh_keeps
    | split
    | with_reducible apply Keeps.fields
    | with_reducible rfl

theorem execLpHiccupOn_keeps (n : Fin 256) (s : State)   : ∃ t, execLpHiccupOn n s = .next t ∧ Keeps eff s t := by
  delta execLpHiccupOn
  try dsimp only
  refine ⟨_, rfl, ?_⟩
  repeat' first
    | with_reducible assumption
    | intro _
    | with_reducible exact Keeps.refl _
    | with_reducible apply Keeps.ite
    | with_reducible apply Keeps.foldl
    | with_reducible apply State.put_keeps
    | with_reducible apply State.putB_keeps
    | split
    | with_reducible apply Keeps.fields
    | with_reducible rfl

theorem execAnalogDiagDetect_keeps (n : Fin 256) (m : BitVec 12) (s : State)  (h_qmem : eff.qmem = true := by assumption) : ∃ t, execAnalogDiagDetect n m s = .next t ∧ Keeps eff s t := by
  delta execAnalogDiagDetect
  try dsimp only
  refine ⟨_, rfl, ?_⟩
  repeat' first
    | with_reducible assumption
    | intro _
    | with_reducible exact Keeps.refl _
    | with_reducible apply Keeps.ite
    | with_reducible apply Keeps.foldl
    | with_reducible apply diagSet_keeps
    | with_reducible apply calLose_keeps
    | with_reducible apply anRefresh_keeps
    | split
    | with_reducible apply Keeps.fields
    | with_reducible rfl

theorem execAnalogDiagClear_keeps (n : Fin 256) (b : Fin 12) (s : State)   : ∃ t, execAnalogDiagClear n b s = .next t ∧ Keeps eff s t := by
  delta execAnalogDiagClear
  try dsimp only
  refine ⟨_, rfl, ?_⟩
  repeat' first
    | with_reducible assumption
    | intro _
    | with_reducible exact Keeps.refl _
    | with_reducible apply Keeps.ite
    | with_reducible apply Keeps.foldl
    | with_reducible apply diagClear_keeps
    | with_reducible apply anRefresh_keeps
    | split
    | with_reducible apply Keeps.fields
    | with_reducible rfl

theorem execInjectEnter_keeps (r : Req) (n : Fin 256) (s : State)   : ∃ t, execInjectEnter r n s = .next t ∧ Keeps eff s t := by
  delta execInjectEnter
  try dsimp only
  refine ⟨_, rfl, ?_⟩
  repeat' first
    | with_reducible assumption
    | intro _
    | with_reducible exact Keeps.refl _
    | with_reducible apply Keeps.ite
    | with_reducible apply Keeps.foldl
    | with_reducible apply regWrite_keeps
    | with_reducible apply anInjWrite_keeps
    | split
    | with_reducible apply Keeps.fields
    | with_reducible rfl

theorem execInjectExit_keeps (r : Req) (n : Fin 256) (s : State)   : ∃ t, execInjectExit r n s = .next t ∧ Keeps eff s t := by
  delta execInjectExit
  try dsimp only
  refine ⟨_, rfl, ?_⟩
  repeat' first
    | with_reducible assumption
    | intro _
    | with_reducible exact Keeps.refl _
    | with_reducible apply Keeps.ite
    | with_reducible apply Keeps.foldl
    | with_reducible apply regWrite_keeps
    | with_reducible apply anInjWrite_keeps
    | split
    | with_reducible apply Keeps.fields
    | with_reducible rfl

theorem execModeChange_keeps (r : Req) (n : Fin 256) (w : Word) (s : State)   : ∃ t, execModeChange r n w s = .next t ∧ Keeps eff s t := by
  delta execModeChange
  try dsimp only
  refine ⟨_, rfl, ?_⟩
  repeat' first
    | with_reducible assumption
    | intro _
    | with_reducible exact Keeps.refl _
    | with_reducible apply Keeps.ite
    | with_reducible apply Keeps.foldl
    | with_reducible apply regWrite_keeps
    | with_reducible apply anCfgWrite_keeps
    | split
    | with_reducible apply Keeps.fields
    | with_reducible rfl

theorem execTdacWrite_keeps (r : Req) (t1 : Fin 16) (w : Word) (s : State)   : ∃ t, execTdacWrite r t1 w s = .next t ∧ Keeps eff s t := by
  delta execTdacWrite
  try dsimp only
  refine ⟨_, rfl, ?_⟩
  repeat' first
    | with_reducible assumption
    | intro _
    | with_reducible exact Keeps.refl _
    | with_reducible apply Keeps.ite
    | with_reducible apply Keeps.foldl
    | with_reducible apply regWrite_keeps
    | with_reducible apply tdacWrite_keeps
    | split
    | with_reducible apply Keeps.fields
    | with_reducible rfl

theorem execTuRateWrite_keeps (r : Req) (w : Word) (s : State)   : ∃ t, execTuRateWrite r w s = .next t ∧ Keeps eff s t := by
  delta execTuRateWrite
  try dsimp only
  refine ⟨_, rfl, ?_⟩
  repeat' first
    | with_reducible assumption
    | intro _
    | with_reducible exact Keeps.refl _
    | with_reducible apply Keeps.ite
    | with_reducible apply Keeps.foldl
    | with_reducible apply regWrite_keeps
    | with_reducible apply tuRateWrite_keeps
    | split
    | with_reducible apply Keeps.fields
    | with_reducible rfl

theorem execTuStep_keeps (r : Req) (w : Word) (s : State)   : ∃ t, execTuStep r w s = .next t ∧ Keeps eff s t := by
  delta execTuStep
  try dsimp only
  refine ⟨_, rfl, ?_⟩
  repeat' first
    | with_reducible assumption
    | intro _
    | with_reducible exact Keeps.refl _
    | with_reducible apply Keeps.ite
    | with_reducible apply Keeps.foldl
    | with_reducible apply regWrite_keeps
    | with_reducible apply tuStepWrite_keeps
    | split
    | with_reducible apply Keeps.fields
    | with_reducible rfl

theorem execTuSet_keeps (r : Req) (w : Word) (s : State)   : ∃ t, execTuSet r w s = .next t ∧ Keeps eff s t := by
  delta execTuSet
  try dsimp only
  refine ⟨_, rfl, ?_⟩
  repeat' first
    | with_reducible assumption
    | intro _
    | with_reducible exact Keeps.refl _
    | with_reducible apply Keeps.ite
    | with_reducible apply Keeps.foldl
    | with_reducible apply regWrite_keeps
    | with_reducible apply shadowDrop_keeps
    | with_reducible apply tuSetCommit_keeps
    | split
    | with_reducible apply Keeps.fields
    | with_reducible rfl

theorem execTuSourceChange_keeps (r : Req) (w : Word) (s : State)   : ∃ t, execTuSourceChange r w s = .next t ∧ Keeps eff s t := by
  delta execTuSourceChange
  try dsimp only
  refine ⟨_, rfl, ?_⟩
  repeat' first
    | with_reducible assumption
    | intro _
    | with_reducible exact Keeps.refl _
    | with_reducible apply Keeps.ite
    | with_reducible apply Keeps.foldl
    | with_reducible apply regWrite_keeps
    | with_reducible apply tuSrcWrite_keeps
    | split
    | with_reducible apply Keeps.fields
    | with_reducible rfl

theorem execPpsEdge_keeps (s : State)   : ∃ t, execPpsEdge s = .next t ∧ Keeps eff s t := by
  delta execPpsEdge
  try dsimp only
  refine ⟨_, rfl, ?_⟩
  repeat' first
    | with_reducible assumption
    | intro _
    | with_reducible exact Keeps.refl _
    | with_reducible apply Keeps.ite
    | with_reducible apply Keeps.foldl
    | with_reducible apply servo_keeps
    | split
    | with_reducible apply Keeps.fields
    | with_reducible rfl

theorem execHoldoverTimeout_keeps (s : State)   : ∃ t, execHoldoverTimeout s = .next t ∧ Keeps eff s t := by
  delta execHoldoverTimeout
  try dsimp only
  refine ⟨_, rfl, ?_⟩
  repeat' first
    | with_reducible assumption
    | intro _
    | with_reducible exact Keeps.refl _
    | with_reducible apply Keeps.ite
    | with_reducible apply Keeps.foldl
    | with_reducible apply holdover_keeps
    | split
    | with_reducible apply Keeps.fields
    | with_reducible rfl

theorem execScheduleWrite_keeps (r : Req) (j : Fin 16) (reg : SchReg) (w : Word) (s : State)   : ∃ t, execScheduleWrite r j reg w s = .next t ∧ Keeps eff s t := by
  delta execScheduleWrite
  try dsimp only
  refine ⟨_, rfl, ?_⟩
  repeat' first
    | with_reducible assumption
    | intro _
    | with_reducible exact Keeps.refl _
    | with_reducible apply Keeps.ite
    | with_reducible apply Keeps.foldl
    | with_reducible apply regWrite_keeps
    | with_reducible apply shadowDrop_keeps
    | with_reducible apply schCfgWrite_keeps
    | with_reducible apply schCommit_keeps
    | split
    | with_reducible apply Keeps.fields
    | with_reducible rfl

theorem execTuTokenGo_keeps (r : Req) (w : Word) (s : State)  (h_qmem : eff.qmem = true := by assumption) : ∃ t, execTuTokenGo r w s = .next t ∧ Keeps eff s t := by
  delta execTuTokenGo
  try dsimp only
  refine ⟨_, rfl, ?_⟩
  repeat' first
    | with_reducible assumption
    | intro _
    | with_reducible exact Keeps.refl _
    | with_reducible apply Keeps.ite
    | with_reducible apply Keeps.foldl
    | with_reducible apply regWrite_keeps
    | with_reducible apply tuTokenWrite_keeps
    | split
    | with_reducible apply Keeps.fields
    | with_reducible rfl

theorem execCvStart_keeps (r : Req) (u : Fin 8) (s : State)   : ∃ t, execCvStart r u s = .next t ∧ Keeps eff s t := by
  delta execCvStart
  try dsimp only
  refine ⟨_, rfl, ?_⟩
  repeat' first
    | with_reducible assumption
    | intro _
    | with_reducible exact Keeps.refl _
    | with_reducible apply Keeps.ite
    | with_reducible apply Keeps.foldl
    | with_reducible apply regWrite_keeps
    | with_reducible apply cvCmd_keeps
    | split
    | with_reducible apply Keeps.fields
    | with_reducible rfl

theorem execCvFinish_keeps (r : Req) (u : Fin 8) (s : State)   : ∃ t, execCvFinish r u s = .next t ∧ Keeps eff s t := by
  delta execCvFinish
  try dsimp only
  refine ⟨_, rfl, ?_⟩
  repeat' first
    | with_reducible assumption
    | intro _
    | with_reducible exact Keeps.refl _
    | with_reducible apply Keeps.ite
    | with_reducible apply Keeps.foldl
    | with_reducible apply regWrite_keeps
    | with_reducible apply cvCmd_keeps
    | split
    | with_reducible apply Keeps.fields
    | with_reducible rfl

theorem execCvDma_keeps (r : Req) (u : Fin 8) (s : State)   : ∃ t, execCvDma r u s = .next t ∧ Keeps eff s t := by
  delta execCvDma
  try dsimp only
  refine ⟨_, rfl, ?_⟩
  repeat' first
    | with_reducible assumption
    | intro _
    | with_reducible exact Keeps.refl _
    | with_reducible apply Keeps.ite
    | with_reducible apply Keeps.foldl
    | with_reducible apply regWrite_keeps
    | with_reducible apply cvCmd_keeps
    | split
    | with_reducible apply Keeps.fields
    | with_reducible rfl

theorem execCvAbort_keeps (r : Req) (u : Fin 8) (s : State)   : ∃ t, execCvAbort r u s = .next t ∧ Keeps eff s t := by
  delta execCvAbort
  try dsimp only
  refine ⟨_, rfl, ?_⟩
  repeat' first
    | with_reducible assumption
    | intro _
    | with_reducible exact Keeps.refl _
    | with_reducible apply Keeps.ite
    | with_reducible apply Keeps.foldl
    | with_reducible apply regWrite_keeps
    | with_reducible apply cvCmd_keeps
    | split
    | with_reducible apply Keeps.fields
    | with_reducible rfl

theorem execCvData_keeps (r : Req) (u : Fin 8) (w : Word) (s : State)   : ∃ t, execCvData r u w s = .next t ∧ Keeps eff s t := by
  delta execCvData
  try dsimp only
  refine ⟨_, rfl, ?_⟩
  repeat' first
    | with_reducible assumption
    | intro _
    | with_reducible exact Keeps.refl _
    | with_reducible apply Keeps.ite
    | with_reducible apply Keeps.foldl
    | with_reducible apply regWrite_keeps
    | with_reducible apply cvFeed_keeps
    | split
    | with_reducible apply Keeps.fields
    | with_reducible rfl

theorem execCvData8_keeps (r : Req) (u : Fin 8) (w : Word) (s : State)   : ∃ t, execCvData8 r u w s = .next t ∧ Keeps eff s t := by
  delta execCvData8
  try dsimp only
  refine ⟨_, rfl, ?_⟩
  repeat' first
    | with_reducible assumption
    | intro _
    | with_reducible exact Keeps.refl _
    | with_reducible apply Keeps.ite
    | with_reducible apply Keeps.foldl
    | with_reducible apply regWrite_keeps
    | with_reducible apply cvFeed_keeps
    | split
    | with_reducible apply Keeps.fields
    | with_reducible rfl

theorem execCvDmaDone_keeps (u : Fin 8) (s : State)   : ∃ t, execCvDmaDone u s = .next t ∧ Keeps eff s t := by
  delta execCvDmaDone
  try dsimp only
  refine ⟨_, rfl, ?_⟩
  repeat' first
    | with_reducible assumption
    | intro _
    | with_reducible exact Keeps.refl _
    | with_reducible apply Keeps.ite
    | with_reducible apply Keeps.foldl
    | with_reducible apply State.setCv_keeps
    | with_reducible apply cvFinishNow_keeps
    | split
    | with_reducible apply Keeps.fields
    | with_reducible rfl

theorem execCvHoldTimeout_keeps (u : Fin 8) (s : State)   : ∃ t, execCvHoldTimeout u s = .next t ∧ Keeps eff s t := by
  delta execCvHoldTimeout
  try dsimp only
  refine ⟨_, rfl, ?_⟩
  repeat' first
    | with_reducible assumption
    | intro _
    | with_reducible exact Keeps.refl _
    | with_reducible apply Keeps.ite
    | with_reducible apply Keeps.foldl
    | with_reducible apply State.set1_keeps
    | with_reducible apply State.setCv_keeps
    | split
    | with_reducible apply Keeps.fields
    | with_reducible rfl

theorem execCvConfigWrite_keeps (r : Req) (u : Fin 8) (reg : CvReg) (w : Word) (s : State)   : ∃ t, execCvConfigWrite r u reg w s = .next t ∧ Keeps eff s t := by
  delta execCvConfigWrite
  try dsimp only
  refine ⟨_, rfl, ?_⟩
  repeat' first
    | with_reducible assumption
    | intro _
    | with_reducible exact Keeps.refl _
    | with_reducible apply Keeps.ite
    | with_reducible apply Keeps.foldl
    | with_reducible apply regWrite_keeps
    | with_reducible apply shadowDrop_keeps
    | with_reducible apply cvCfgWrite_keeps
    | with_reducible apply cvWideWrite_keeps
    | split
    | with_reducible apply Keeps.fields
    | with_reducible rfl

theorem execJmp_keeps (e : Fin 8) (s : State)  (h_qmem : eff.qmem = true := by assumption) : ∃ t, execJmp e s = .next t ∧ Keeps eff s t := by
  delta execJmp
  try dsimp only
  refine ⟨_, rfl, ?_⟩
  repeat' first
    | with_reducible assumption
    | intro _
    | with_reducible exact Keeps.refl _
    | with_reducible apply Keeps.ite
    | with_reducible apply Keeps.foldl
    | with_reducible apply runInstr_keeps
    | with_reducible apply checked_keeps
    | with_reducible apply setPc_keeps
    | split
    | with_reducible apply Keeps.fields
    | with_reducible rfl

theorem execBr_keeps (e : Fin 8) (s : State)  (h_qmem : eff.qmem = true := by assumption) : ∃ t, execBr e s = .next t ∧ Keeps eff s t := by
  delta execBr
  try dsimp only
  refine ⟨_, rfl, ?_⟩
  repeat' first
    | with_reducible assumption
    | intro _
    | with_reducible exact Keeps.refl _
    | with_reducible apply Keeps.ite
    | with_reducible apply Keeps.foldl
    | with_reducible apply runInstr_keeps
    | with_reducible apply checked_keeps
    | with_reducible apply setPc_keeps
    | with_reducible apply stepOver_keeps
    | split
    | with_reducible apply Keeps.fields
    | with_reducible rfl

theorem execCall_keeps (e : Fin 8) (s : State)  (h_qmem : eff.qmem = true := by assumption) : ∃ t, execCall e s = .next t ∧ Keeps eff s t := by
  delta execCall
  try dsimp only
  refine ⟨_, rfl, ?_⟩
  repeat' first
    | with_reducible assumption
    | intro _
    | with_reducible exact Keeps.refl _
    | with_reducible apply Keeps.ite
    | with_reducible apply Keeps.foldl
    | with_reducible apply setV_keeps
    | with_reducible apply runInstr_keeps
    | with_reducible apply checked_keeps
    | with_reducible apply setPc_keeps
    | split
    | with_reducible apply Keeps.fields
    | with_reducible rfl

theorem execRet_keeps (e : Fin 8) (s : State)  (h_qmem : eff.qmem = true := by assumption) : ∃ t, execRet e s = .next t ∧ Keeps eff s t := by
  delta execRet
  try dsimp only
  refine ⟨_, rfl, ?_⟩
  repeat' first
    | with_reducible assumption
    | intro _
    | with_reducible exact Keeps.refl _
    | with_reducible apply Keeps.ite
    | with_reducible apply Keeps.foldl
    | with_reducible apply runInstr_keeps
    | with_reducible apply checked_keeps
    | with_reducible apply ret_keeps
    | split
    | with_reducible apply Keeps.fields
    | with_reducible rfl

theorem execLoop_keeps (e : Fin 8) (s : State)  (h_qmem : eff.qmem = true := by assumption) : ∃ t, execLoop e s = .next t ∧ Keeps eff s t := by
  delta execLoop
  try dsimp only
  refine ⟨_, rfl, ?_⟩
  repeat' first
    | with_reducible assumption
    | intro _
    | with_reducible exact Keeps.refl _
    | with_reducible apply Keeps.ite
    | with_reducible apply Keeps.foldl
    | with_reducible apply setFlags_keeps
    | with_reducible apply setV_keeps
    | with_reducible apply runInstr_keeps
    | with_reducible apply checked_keeps
    | with_reducible apply setPc_keeps
    | with_reducible apply stepOver_keeps
    | split
    | with_reducible apply Keeps.fields
    | with_reducible rfl

theorem execEnd_keeps (e : Fin 8) (s : State)  (h_qmem : eff.qmem = true := by assumption) : ∃ t, execEnd e s = .next t ∧ Keeps eff s t := by
  delta execEnd
  try dsimp only
  refine ⟨_, rfl, ?_⟩
  repeat' first
    | with_reducible assumption
    | intro _
    | with_reducible exact Keeps.refl _
    | with_reducible apply Keeps.ite
    | with_reducible apply Keeps.foldl
    | with_reducible apply endRun_keeps
    | with_reducible apply runInstr_keeps
    | with_reducible apply checked_keeps
    | with_reducible apply stepOver_keeps
    | split
    | with_reducible apply Keeps.fields
    | with_reducible rfl

theorem execFail_keeps (e : Fin 8) (s : State)  (h_qmem : eff.qmem = true := by assumption) : ∃ t, execFail e s = .next t ∧ Keeps eff s t := by
  delta execFail
  try dsimp only
  refine ⟨_, rfl, ?_⟩
  repeat' first
    | with_reducible assumption
    | intro _
    | with_reducible exact Keeps.refl _
    | with_reducible apply Keeps.ite
    | with_reducible apply Keeps.foldl
    | with_reducible apply endRun_keeps
    | with_reducible apply runInstr_keeps
    | with_reducible apply checked_keeps
    | split
    | with_reducible apply Keeps.fields
    | with_reducible rfl

theorem execWait_keeps (e : Fin 8) (s : State)  (h_qmem : eff.qmem = true := by assumption) : ∃ t, execWait e s = .next t ∧ Keeps eff s t := by
  delta execWait
  try dsimp only
  refine ⟨_, rfl, ?_⟩
  repeat' first
    | with_reducible assumption
    | intro _
    | with_reducible exact Keeps.refl _
    | with_reducible apply Keeps.ite
    | with_reducible apply Keeps.foldl
    | with_reducible apply ctxWait_keeps
    | with_reducible apply runInstr_keeps
    | with_reducible apply checked_keeps
    | with_reducible apply stepOver_keeps
    | split
    | with_reducible apply Keeps.fields
    | with_reducible rfl

theorem execAlign_keeps (e : Fin 8) (s : State)  (h_qmem : eff.qmem = true := by assumption) : ∃ t, execAlign e s = .next t ∧ Keeps eff s t := by
  delta execAlign
  try dsimp only
  refine ⟨_, rfl, ?_⟩
  repeat' first
    | with_reducible assumption
    | intro _
    | with_reducible exact Keeps.refl _
    | with_reducible apply Keeps.ite
    | with_reducible apply Keeps.foldl
    | with_reducible apply ctxWait_keeps
    | with_reducible apply runInstr_keeps
    | with_reducible apply checked_keeps
    | with_reducible apply stepOver_keeps
    | split
    | with_reducible apply Keeps.fields
    | with_reducible rfl

theorem execTset_keeps (e : Fin 8) (s : State)  (h_qmem : eff.qmem = true := by assumption) : ∃ t, execTset e s = .next t ∧ Keeps eff s t := by
  delta execTset
  try dsimp only
  refine ⟨_, rfl, ?_⟩
  repeat' first
    | with_reducible assumption
    | intro _
    | with_reducible exact Keeps.refl _
    | with_reducible apply Keeps.ite
    | with_reducible apply Keeps.foldl
    | with_reducible apply runInstr_keeps
    | with_reducible apply checked_keeps
    | with_reducible apply stepOver_keeps
    | with_reducible apply setTimer_keeps
    | split
    | with_reducible apply Keeps.fields
    | with_reducible rfl

theorem execTnow_keeps (e : Fin 8) (s : State)  (h_qmem : eff.qmem = true := by assumption) : ∃ t, execTnow e s = .next t ∧ Keeps eff s t := by
  delta execTnow
  try dsimp only
  refine ⟨_, rfl, ?_⟩
  repeat' first
    | with_reducible assumption
    | intro _
    | with_reducible exact Keeps.refl _
    | with_reducible apply Keeps.ite
    | with_reducible apply Keeps.foldl
    | with_reducible apply setV_keeps
    | with_reducible apply runInstr_keeps
    | with_reducible apply checked_keeps
    | with_reducible apply stepOver_keeps
    | split
    | with_reducible apply Keeps.fields
    | with_reducible rfl

theorem execMovi_keeps (e : Fin 8) (s : State)  (h_qmem : eff.qmem = true := by assumption) : ∃ t, execMovi e s = .next t ∧ Keeps eff s t := by
  delta execMovi
  try dsimp only
  refine ⟨_, rfl, ?_⟩
  repeat' first
    | with_reducible assumption
    | intro _
    | with_reducible exact Keeps.refl _
    | with_reducible apply Keeps.ite
    | with_reducible apply Keeps.foldl
    | with_reducible apply runInstr_keeps
    | with_reducible apply checked_keeps
    | with_reducible apply result_keeps
    | split
    | with_reducible apply Keeps.fields
    | with_reducible rfl

theorem execMov_keeps (e : Fin 8) (s : State)  (h_qmem : eff.qmem = true := by assumption) : ∃ t, execMov e s = .next t ∧ Keeps eff s t := by
  delta execMov
  try dsimp only
  refine ⟨_, rfl, ?_⟩
  repeat' first
    | with_reducible assumption
    | intro _
    | with_reducible exact Keeps.refl _
    | with_reducible apply Keeps.ite
    | with_reducible apply Keeps.foldl
    | with_reducible apply runInstr_keeps
    | with_reducible apply checked_keeps
    | with_reducible apply result_keeps
    | split
    | with_reducible apply Keeps.fields
    | with_reducible rfl

theorem execAdd_keeps (e : Fin 8) (s : State)  (h_qmem : eff.qmem = true := by assumption) : ∃ t, execAdd e s = .next t ∧ Keeps eff s t := by
  delta execAdd
  try dsimp only
  refine ⟨_, rfl, ?_⟩
  repeat' first
    | with_reducible assumption
    | intro _
    | with_reducible exact Keeps.refl _
    | with_reducible apply Keeps.ite
    | with_reducible apply Keeps.foldl
    | with_reducible apply alu_keeps
    | split
    | with_reducible apply Keeps.fields
    | with_reducible rfl

theorem execSub_keeps (e : Fin 8) (s : State)  (h_qmem : eff.qmem = true := by assumption) : ∃ t, execSub e s = .next t ∧ Keeps eff s t := by
  delta execSub
  try dsimp only
  refine ⟨_, rfl, ?_⟩
  repeat' first
    | with_reducible assumption
    | intro _
    | with_reducible exact Keeps.refl _
    | with_reducible apply Keeps.ite
    | with_reducible apply Keeps.foldl
    | with_reducible apply alu_keeps
    | split
    | with_reducible apply Keeps.fields
    | with_reducible rfl

theorem execAnd_keeps (e : Fin 8) (s : State)  (h_qmem : eff.qmem = true := by assumption) : ∃ t, execAnd e s = .next t ∧ Keeps eff s t := by
  delta execAnd
  try dsimp only
  refine ⟨_, rfl, ?_⟩
  repeat' first
    | with_reducible assumption
    | intro _
    | with_reducible exact Keeps.refl _
    | with_reducible apply Keeps.ite
    | with_reducible apply Keeps.foldl
    | with_reducible apply alu_keeps
    | split
    | with_reducible apply Keeps.fields
    | with_reducible rfl

theorem execOr_keeps (e : Fin 8) (s : State)  (h_qmem : eff.qmem = true := by assumption) : ∃ t, execOr e s = .next t ∧ Keeps eff s t := by
  delta execOr
  try dsimp only
  refine ⟨_, rfl, ?_⟩
  repeat' first
    | with_reducible assumption
    | intro _
    | with_reducible exact Keeps.refl _
    | with_reducible apply Keeps.ite
    | with_reducible apply Keeps.foldl
    | with_reducible apply alu_keeps
    | split
    | with_reducible apply Keeps.fields
    | with_reducible rfl

theorem execXor_keeps (e : Fin 8) (s : State)  (h_qmem : eff.qmem = true := by assumption) : ∃ t, execXor e s = .next t ∧ Keeps eff s t := by
  delta execXor
  try dsimp only
  refine ⟨_, rfl, ?_⟩
  repeat' first
    | with_reducible assumption
    | intro _
    | with_reducible exact Keeps.refl _
    | with_reducible apply Keeps.ite
    | with_reducible apply Keeps.foldl
    | with_reducible apply alu_keeps
    | split
    | with_reducible apply Keeps.fields
    | with_reducible rfl

theorem execShl_keeps (e : Fin 8) (s : State)  (h_qmem : eff.qmem = true := by assumption) : ∃ t, execShl e s = .next t ∧ Keeps eff s t := by
  delta execShl
  try dsimp only
  refine ⟨_, rfl, ?_⟩
  repeat' first
    | with_reducible assumption
    | intro _
    | with_reducible exact Keeps.refl _
    | with_reducible apply Keeps.ite
    | with_reducible apply Keeps.foldl
    | with_reducible apply alu_keeps
    | split
    | with_reducible apply Keeps.fields
    | with_reducible rfl

theorem execShr_keeps (e : Fin 8) (s : State)  (h_qmem : eff.qmem = true := by assumption) : ∃ t, execShr e s = .next t ∧ Keeps eff s t := by
  delta execShr
  try dsimp only
  refine ⟨_, rfl, ?_⟩
  repeat' first
    | with_reducible assumption
    | intro _
    | with_reducible exact Keeps.refl _
    | with_reducible apply Keeps.ite
    | with_reducible apply Keeps.foldl
    | with_reducible apply alu_keeps
    | split
    | with_reducible apply Keeps.fields
    | with_reducible rfl

theorem execSar_keeps (e : Fin 8) (s : State)  (h_qmem : eff.qmem = true := by assumption) : ∃ t, execSar e s = .next t ∧ Keeps eff s t := by
  delta execSar
  try dsimp only
  refine ⟨_, rfl, ?_⟩
  repeat' first
    | with_reducible assumption
    | intro _
    | with_reducible exact Keeps.refl _
    | with_reducible apply Keeps.ite
    | with_reducible apply Keeps.foldl
    | with_reducible apply alu_keeps
    | split
    | with_reducible apply Keeps.fields
    | with_reducible rfl

theorem execCmp_keeps (e : Fin 8) (s : State)  (h_qmem : eff.qmem = true := by assumption) : ∃ t, execCmp e s = .next t ∧ Keeps eff s t := by
  delta execCmp
  try dsimp only
  refine ⟨_, rfl, ?_⟩
  repeat' first
    | with_reducible assumption
    | intro _
    | with_reducible exact Keeps.refl _
    | with_reducible apply Keeps.ite
    | with_reducible apply Keeps.foldl
    | with_reducible apply setFlags_keeps
    | with_reducible apply runInstr_keeps
    | with_reducible apply checked_keeps
    | with_reducible apply stepOver_keeps
    | split
    | with_reducible apply Keeps.fields
    | with_reducible rfl

theorem execLdb_keeps (e : Fin 8) (s : State)  (h_qmem : eff.qmem = true := by assumption) : ∃ t, execLdb e s = .next t ∧ Keeps eff s t := by
  delta execLdb
  try dsimp only
  refine ⟨_, rfl, ?_⟩
  repeat' first
    | with_reducible assumption
    | intro _
    | with_reducible exact Keeps.refl _
    | with_reducible apply Keeps.ite
    | with_reducible apply Keeps.foldl
    | with_reducible apply setF_keeps
    | with_reducible apply runInstr_keeps
    | with_reducible apply checked_keeps
    | with_reducible apply result_keeps
    | split
    | with_reducible apply Keeps.fields
    | with_reducible rfl

theorem execStb_keeps (e : Fin 8) (s : State)  (h_qmem : eff.qmem = true := by assumption) : ∃ t, execStb e s = .next t ∧ Keeps eff s t := by
  delta execStb
  try dsimp only
  refine ⟨_, rfl, ?_⟩
  repeat' first
    | with_reducible assumption
    | intro _
    | with_reducible exact Keeps.refl _
    | with_reducible apply Keeps.ite
    | with_reducible apply Keeps.foldl
    | with_reducible apply setFlags_keeps
    | with_reducible apply putVarBytes_keeps
    | with_reducible apply runInstr_keeps
    | with_reducible apply checked_keeps
    | with_reducible apply stepOver_keeps
    | split
    | with_reducible apply Keeps.fields
    | with_reducible rfl

theorem execField_keeps (e : Fin 8) (s : State)  (h_qmem : eff.qmem = true := by assumption) : ∃ t, execField e s = .next t ∧ Keeps eff s t := by
  delta execField
  try dsimp only
  refine ⟨_, rfl, ?_⟩
  repeat' first
    | with_reducible assumption
    | intro _
    | with_reducible exact Keeps.refl _
    | with_reducible apply Keeps.ite
    | with_reducible apply Keeps.foldl
    | with_reducible apply runInstr_keeps
    | with_reducible apply checked_keeps
    | with_reducible apply result_keeps
    | split
    | with_reducible apply Keeps.fields
    | with_reducible rfl

theorem execUnassignedOpcode_keeps (e : Fin 8) (s : State)  (h_qmem : eff.qmem = true := by assumption) : ∃ t, execUnassignedOpcode e s = .next t ∧ Keeps eff s t := by
  delta execUnassignedOpcode
  try dsimp only
  refine ⟨_, rfl, ?_⟩
  repeat' first
    | with_reducible assumption
    | intro _
    | with_reducible exact Keeps.refl _
    | with_reducible apply Keeps.ite
    | with_reducible apply Keeps.foldl
    | with_reducible apply progErr_keeps
    | with_reducible apply withWords_keeps
    | with_reducible apply countInstr_keeps
    | split
    | with_reducible apply Keeps.fields
    | with_reducible rfl

theorem execFlashPageProgram_keeps (o : Fin 3) (s : State)  (h_flash : eff.flash = true := by assumption) : ∃ t, execFlashPageProgram o s = .next t ∧ Keeps eff s t := by
  delta execFlashPageProgram
  try dsimp only
  refine ⟨_, rfl, ?_⟩
  repeat' first
    | with_reducible assumption
    | intro _
    | with_reducible exact Keeps.refl _
    | with_reducible apply Keeps.ite
    | with_reducible apply Keeps.foldl
    | with_reducible apply pageProgram_keeps
    | split
    | with_reducible apply Keeps.fields
    | with_reducible rfl

theorem execFlashWriteDone_keeps (s : State)   : ∃ t, execFlashWriteDone s = .next t ∧ Keeps eff s t := by
  delta execFlashWriteDone
  try dsimp only
  refine ⟨_, rfl, ?_⟩
  repeat' first
    | with_reducible assumption
    | intro _
    | with_reducible exact Keeps.refl _
    | with_reducible apply Keeps.ite
    | with_reducible apply Keeps.foldl
    | with_reducible apply writeDone_keeps
    | split
    | with_reducible apply Keeps.fields
    | with_reducible rfl

theorem execFlashWindowReadDone_keeps (s : State)   : ∃ t, execFlashWindowReadDone s = .next t ∧ Keeps eff s t := by
  delta execFlashWindowReadDone
  try dsimp only
  refine ⟨_, rfl, ?_⟩
  repeat' first
    | with_reducible assumption
    | intro _
    | with_reducible exact Keeps.refl _
    | with_reducible apply Keeps.ite
    | with_reducible apply Keeps.foldl
    | with_reducible apply windowRead_keeps
    | split
    | with_reducible apply Keeps.fields
    | with_reducible rfl

theorem execSp1Erase_keeps (r : Req) (etype : Fin 4) (cs : Fin 2) (s : State)   : ∃ t, execSp1Erase r etype cs s = .next t ∧ Keeps eff s t := by
  delta execSp1Erase
  try dsimp only
  refine ⟨_, rfl, ?_⟩
  repeat' first
    | with_reducible assumption
    | intro _
    | with_reducible exact Keeps.refl _
    | with_reducible apply Keeps.ite
    | with_reducible apply Keeps.foldl
    | with_reducible apply regWrite_keeps
    | with_reducible apply sp1CmdWrite_keeps
    | split
    | with_reducible apply Keeps.fields
    | with_reducible rfl

theorem execSp1Raw_keeps (r : Req) (cs : Fin 2) (s : State)   : ∃ t, execSp1Raw r cs s = .next t ∧ Keeps eff s t := by
  delta execSp1Raw
  try dsimp only
  refine ⟨_, rfl, ?_⟩
  repeat' first
    | with_reducible assumption
    | intro _
    | with_reducible exact Keeps.refl _
    | with_reducible apply Keeps.ite
    | with_reducible apply Keeps.foldl
    | with_reducible apply regWrite_keeps
    | with_reducible apply sp1CmdWrite_keeps
    | split
    | with_reducible apply Keeps.fields
    | with_reducible rfl

theorem execSp1OpDone_keeps (err : Fin 3) (rx : List Byte) (chg : List (Nat × Byte)) (s : State)  (h_flash : eff.flash = true := by assumption) : ∃ t, execSp1OpDone err rx chg s = .next t ∧ Keeps eff s t := by
  delta execSp1OpDone
  try dsimp only
  refine ⟨_, rfl, ?_⟩
  repeat' first
    | with_reducible assumption
    | intro _
    | with_reducible exact Keeps.refl _
    | with_reducible apply Keeps.ite
    | with_reducible apply Keeps.foldl
    | with_reducible apply opDone_keeps
    | split
    | with_reducible apply Keeps.fields
    | with_reducible rfl

theorem execS2RoleChange_keeps (s : State)   : ∃ t, execS2RoleChange s = .next t ∧ Keeps eff s t := by
  delta execS2RoleChange
  try dsimp only
  refine ⟨_, rfl, ?_⟩
  repeat' first
    | with_reducible assumption
    | intro _
    | with_reducible exact Keeps.refl _
    | with_reducible apply Keeps.ite
    | with_reducible apply Keeps.foldl
    | with_reducible apply roleChange_keeps
    | split
    | with_reducible apply Keeps.fields
    | with_reducible rfl

theorem execS2Go_keeps (r : Req) (ss : Fin 4) (cnt : Fin 256) (s : State)   : ∃ t, execS2Go r ss cnt s = .next t ∧ Keeps eff s t := by
  delta execS2Go
  try dsimp only
  refine ⟨_, rfl, ?_⟩
  repeat' first
    | with_reducible assumption
    | intro _
    | with_reducible exact Keeps.refl _
    | with_reducible apply Keeps.ite
    | with_reducible apply Keeps.foldl
    | with_reducible apply regWrite_keeps
    | with_reducible apply sp2CmdWrite_keeps
    | split
    | with_reducible apply Keeps.fields
    | with_reducible rfl

theorem execS2TransferEnd_keeps (rx : List Word) (s : State)  (h_qmem : eff.qmem = true := by assumption) (h_power : eff.power = true := by assumption) : ∃ t, execS2TransferEnd rx s = .next t ∧ Keeps eff s t := by
  delta execS2TransferEnd
  try dsimp only
  refine ⟨_, rfl, ?_⟩
  repeat' first
    | with_reducible assumption
    | intro _
    | with_reducible exact Keeps.refl _
    | with_reducible apply Keeps.ite
    | with_reducible apply Keeps.foldl
    | with_reducible apply transferEnd_keeps
    | split
    | with_reducible apply Keeps.fields
    | with_reducible rfl

theorem execS2Modf_keeps (s : State)   : ∃ t, execS2Modf s = .next t ∧ Keeps eff s t := by
  delta execS2Modf
  try dsimp only
  refine ⟨_, rfl, ?_⟩
  repeat' first
    | with_reducible assumption
    | intro _
    | with_reducible exact Keeps.refl _
    | with_reducible apply Keeps.ite
    | with_reducible apply Keeps.foldl
    | with_reducible apply modf_keeps
    | split
    | with_reducible apply Keeps.fields
    | with_reducible rfl

theorem execS2SlavePost_keeps (r : Req) (cnt : Fin 32) (s : State)   : ∃ t, execS2SlavePost r cnt s = .next t ∧ Keeps eff s t := by
  delta execS2SlavePost
  try dsimp only
  refine ⟨_, rfl, ?_⟩
  repeat' first
    | with_reducible assumption
    | intro _
    | with_reducible exact Keeps.refl _
    | with_reducible apply Keeps.ite
    | with_reducible apply Keeps.foldl
    | with_reducible apply regWrite_keeps
    | with_reducible apply slvCmdWrite_keeps
    | split
    | with_reducible apply Keeps.fields
    | with_reducible rfl

theorem execS2SlaveFrameStart_keeps (s : State)   : ∃ t, execS2SlaveFrameStart s = .next t ∧ Keeps eff s t := by
  delta execS2SlaveFrameStart
  try dsimp only
  refine ⟨_, rfl, ?_⟩
  repeat' first
    | with_reducible assumption
    | intro _
    | with_reducible exact Keeps.refl _
    | with_reducible apply Keeps.ite
    | with_reducible apply Keeps.foldl
    | with_reducible apply slaveStart_keeps
    | split
    | with_reducible apply Keeps.fields
    | with_reducible rfl

theorem execS2SlaveFrameEnd_keeps (rx : List Word) (frag : Bool) (s : State)  (h_qmem : eff.qmem = true := by assumption) (h_power : eff.power = true := by assumption) : ∃ t, execS2SlaveFrameEnd rx frag s = .next t ∧ Keeps eff s t := by
  delta execS2SlaveFrameEnd
  try dsimp only
  refine ⟨_, rfl, ?_⟩
  repeat' first
    | with_reducible assumption
    | intro _
    | with_reducible exact Keeps.refl _
    | with_reducible apply Keeps.ite
    | with_reducible apply Keeps.foldl
    | with_reducible apply slaveEnd_keeps
    | split
    | with_reducible apply Keeps.fields
    | with_reducible rfl

theorem execQCfgWrite_keeps (r : Req) (q : Fin 128) (w : Word) (s : State)   : ∃ t, execQCfgWrite r q w s = .next t ∧ Keeps eff s t := by
  delta execQCfgWrite
  try dsimp only
  refine ⟨_, rfl, ?_⟩
  repeat' first
    | with_reducible assumption
    | intro _
    | with_reducible exact Keeps.refl _
    | with_reducible apply Keeps.ite
    | with_reducible apply Keeps.foldl
    | with_reducible apply qCfgApply_keeps
    | with_reducible apply regWrite_keeps
    | split
    | with_reducible apply Keeps.fields
    | with_reducible rfl

theorem execQPopLo_keeps (r : Req) (q : Fin 128) (s : State)   : ∃ t, execQPopLo r q s = .next t ∧ Keeps eff s t := by
  delta execQPopLo
  try dsimp only
  refine ⟨_, rfl, ?_⟩
  repeat' first
    | with_reducible assumption
    | intro _
    | with_reducible exact Keeps.refl _
    | with_reducible apply Keeps.ite
    | with_reducible apply Keeps.foldl
    | with_reducible apply popLo_keeps
    | with_reducible apply noteRead_keeps
    | split
    | with_reducible apply Keeps.fields
    | with_reducible rfl

theorem execQPopHi_keeps (r : Req) (q : Fin 128) (s : State)   : ∃ t, execQPopHi r q s = .next t ∧ Keeps eff s t := by
  delta execQPopHi
  try dsimp only
  refine ⟨_, rfl, ?_⟩
  repeat' first
    | with_reducible assumption
    | intro _
    | with_reducible exact Keeps.refl _
    | with_reducible apply Keeps.ite
    | with_reducible apply Keeps.foldl
    | with_reducible apply popHi_keeps
    | with_reducible apply noteRead_keeps
    | split
    | with_reducible apply Keeps.fields
    | with_reducible rfl

theorem execQPopStream_keeps (r : Req) (q : Fin 128) (s : State)   : ∃ t, execQPopStream r q s = .next t ∧ Keeps eff s t := by
  delta execQPopStream
  try dsimp only
  refine ⟨_, rfl, ?_⟩
  repeat' first
    | with_reducible assumption
    | intro _
    | with_reducible exact Keeps.refl _
    | with_reducible apply Keeps.ite
    | with_reducible apply Keeps.foldl
    | with_reducible apply popStream_keeps
    | with_reducible apply noteRead_keeps
    | split
    | with_reducible apply Keeps.fields
    | with_reducible rfl

theorem execLogScan_keeps (r : Fin 8) (s : State)   : ∃ t, execLogScan r s = .next t ∧ Keeps eff s t := by
  delta execLogScan
  try dsimp only
  refine ⟨_, rfl, ?_⟩
  repeat' first
    | with_reducible assumption
    | intro _
    | with_reducible exact Keeps.refl _
    | with_reducible apply Keeps.ite
    | with_reducible apply Keeps.foldl
    | with_reducible apply logScan_keeps
    | split
    | with_reducible apply Keeps.fields
    | with_reducible rfl

theorem execLogRecordWrite_keeps (r : Fin 8) (q : Fin 128) (s : State)   : ∃ t, execLogRecordWrite r q s = .next t ∧ Keeps eff s t := by
  delta execLogRecordWrite
  try dsimp only
  refine ⟨_, rfl, ?_⟩
  repeat' first
    | with_reducible assumption
    | intro _
    | with_reducible exact Keeps.refl _
    | with_reducible apply Keeps.ite
    | with_reducible apply Keeps.foldl
    | with_reducible apply logRecordWrite_keeps
    | split
    | with_reducible apply Keeps.fields
    | with_reducible rfl

theorem execLogSectorOpen_keeps (r : Fin 8) (q : Fin 128) (s : State)   : ∃ t, execLogSectorOpen r q s = .next t ∧ Keeps eff s t := by
  delta execLogSectorOpen
  try dsimp only
  refine ⟨_, rfl, ?_⟩
  repeat' first
    | with_reducible assumption
    | intro _
    | with_reducible exact Keeps.refl _
    | with_reducible apply Keeps.ite
    | with_reducible apply Keeps.foldl
    | with_reducible apply sectorOpen_keeps
    | split
    | with_reducible apply Keeps.fields
    | with_reducible rfl

theorem execLogFlashDone_keeps (r : Fin 8) (ok : Bool) (s : State)  (h_flash : eff.flash = true := by assumption) : ∃ t, execLogFlashDone r ok s = .next t ∧ Keeps eff s t := by
  delta execLogFlashDone
  try dsimp only
  refine ⟨_, rfl, ?_⟩
  repeat' first
    | with_reducible assumption
    | intro _
    | with_reducible exact Keeps.refl _
    | with_reducible apply Keeps.ite
    | with_reducible apply Keeps.foldl
    | with_reducible apply logFlashDone_keeps
    | split
    | with_reducible apply Keeps.fields
    | with_reducible rfl

theorem execSend_keeps (e : Fin 8) (s : State)  (h_qmem : eff.qmem = true := by assumption) (h_power : eff.power = true := by assumption) : ∃ t, execSend e s = .next t ∧ Keeps eff s t := by
  delta execSend
  try dsimp only
  refine ⟨_, rfl, ?_⟩
  repeat' first
    | with_reducible assumption
    | intro _
    | with_reducible exact Keeps.refl _
    | with_reducible apply Keeps.ite
    | with_reducible apply Keeps.foldl
    | with_reducible apply runInstr_keeps
    | with_reducible apply checked_keeps
    | with_reducible apply sendMsg_keeps
    | with_reducible apply withLiteral_keeps
    | split
    | with_reducible apply Keeps.fields
    | with_reducible rfl

theorem execSendv_keeps (e : Fin 8) (s : State)  (h_qmem : eff.qmem = true := by assumption) (h_power : eff.power = true := by assumption) : ∃ t, execSendv e s = .next t ∧ Keeps eff s t := by
  delta execSendv
  try dsimp only
  refine ⟨_, rfl, ?_⟩
  repeat' first
    | with_reducible assumption
    | intro _
    | with_reducible exact Keeps.refl _
    | with_reducible apply Keeps.ite
    | with_reducible apply Keeps.foldl
    | with_reducible apply runInstr_keeps
    | with_reducible apply checked_keeps
    | with_reducible apply sendMsg_keeps
    | with_reducible apply withLiteral_keeps
    | split
    | with_reducible apply Keeps.fields
    | with_reducible rfl

theorem execExpect_keeps (e : Fin 8) (s : State)  (h_qmem : eff.qmem = true := by assumption) (h_power : eff.power = true := by assumption) : ∃ t, execExpect e s = .next t ∧ Keeps eff s t := by
  delta execExpect
  try dsimp only
  refine ⟨_, rfl, ?_⟩
  repeat' first
    | with_reducible assumption
    | intro _
    | with_reducible exact Keeps.refl _
    | with_reducible apply Keeps.ite
    | with_reducible apply Keeps.foldl
    | with_reducible apply withWords_keeps
    | with_reducible apply runInstr_keeps
    | with_reducible apply checked_keeps
    | with_reducible apply expectStart_keeps
    | split
    | with_reducible apply Keeps.fields
    | with_reducible rfl

theorem execExpectany_keeps (e : Fin 8) (s : State)  (h_qmem : eff.qmem = true := by assumption) (h_power : eff.power = true := by assumption) : ∃ t, execExpectany e s = .next t ∧ Keeps eff s t := by
  delta execExpectany
  try dsimp only
  refine ⟨_, rfl, ?_⟩
  repeat' first
    | with_reducible assumption
    | intro _
    | with_reducible exact Keeps.refl _
    | with_reducible apply Keeps.ite
    | with_reducible apply Keeps.foldl
    | with_reducible apply withWords_keeps
    | with_reducible apply runInstr_keeps
    | with_reducible apply checked_keeps
    | with_reducible apply expectStart_keeps
    | split
    | with_reducible apply Keeps.fields
    | with_reducible rfl

theorem execFlush_keeps (e : Fin 8) (s : State)  (h_qmem : eff.qmem = true := by assumption) : ∃ t, execFlush e s = .next t ∧ Keeps eff s t := by
  delta execFlush
  try dsimp only
  refine ⟨_, rfl, ?_⟩
  repeat' first
    | with_reducible assumption
    | intro _
    | with_reducible exact Keeps.refl _
    | with_reducible apply Keeps.ite
    | with_reducible apply Keeps.foldl
    | with_reducible apply State.modCtx_keeps
    | with_reducible apply runInstr_keeps
    | with_reducible apply checked_keeps
    | with_reducible apply stepOver_keeps
    | with_reducible apply xferFlush_keeps
    | split
    | with_reducible apply Keeps.fields
    | with_reducible rfl

theorem execXferTx_keeps (e : Fin 8) (s : State)  (h_qmem : eff.qmem = true := by assumption) (h_power : eff.power = true := by assumption) : ∃ t, execXferTx e s = .next t ∧ Keeps eff s t := by
  delta execXferTx
  try dsimp only
  refine ⟨_, rfl, ?_⟩
  repeat' first
    | with_reducible assumption
    | intro _
    | with_reducible exact Keeps.refl _
    | with_reducible apply Keeps.ite
    | with_reducible apply Keeps.foldl
    | with_reducible apply withWords_keeps
    | with_reducible apply runInstr_keeps
    | with_reducible apply checked_keeps
    | with_reducible apply xferTxStart_keeps
    | with_reducible apply retryHere_keeps
    | with_reducible apply xferStart_keeps
    | with_reducible apply withBytes_keeps
    | split
    | with_reducible apply Keeps.fields
    | with_reducible rfl

theorem execXferRx_keeps (e : Fin 8) (s : State)  (h_qmem : eff.qmem = true := by assumption) (h_power : eff.power = true := by assumption) : ∃ t, execXferRx e s = .next t ∧ Keeps eff s t := by
  delta execXferRx
  try dsimp only
  refine ⟨_, rfl, ?_⟩
  repeat' first
    | with_reducible assumption
    | intro _
    | with_reducible exact Keeps.refl _
    | with_reducible apply Keeps.ite
    | with_reducible apply Keeps.foldl
    | with_reducible apply dropResv_keeps
    | with_reducible apply withWords_keeps
    | with_reducible apply runInstr_keeps
    | with_reducible apply checked_keeps
    | with_reducible apply setXfer_keeps
    | with_reducible apply xferStart_keeps
    | split
    | with_reducible apply Keeps.fields
    | with_reducible rfl

theorem execCanModeChange_keeps (p : Fin 4) (s : State)   : ∃ t, execCanModeChange p s = .next t ∧ Keeps eff s t := by
  delta execCanModeChange
  try dsimp only
  refine ⟨_, rfl, ?_⟩
  repeat' first
    | with_reducible assumption
    | intro _
    | with_reducible exact Keeps.refl _
    | with_reducible apply Keeps.ite
    | with_reducible apply Keeps.foldl
    | with_reducible apply canModeTake_keeps
    | split
    | with_reducible apply Keeps.fields
    | with_reducible rfl

theorem execCanIntegrated_keeps (p : Fin 4) (s : State)   : ∃ t, execCanIntegrated p s = .next t ∧ Keeps eff s t := by
  delta execCanIntegrated
  try dsimp only
  refine ⟨_, rfl, ?_⟩
  repeat' first
    | with_reducible assumption
    | intro _
    | with_reducible exact Keeps.refl _
    | with_reducible apply Keeps.ite
    | with_reducible apply Keeps.foldl
    | with_reducible apply State.put_keeps
    | split
    | with_reducible apply Keeps.fields
    | with_reducible rfl

theorem execCanFrameReceive_keeps (p : Fin 4) (x : Frame) (s : State)  (h_qmem : eff.qmem = true := by assumption) (h_power : eff.power = true := by assumption) : ∃ t, execCanFrameReceive p x s = .next t ∧ Keeps eff s t := by
  delta execCanFrameReceive
  try dsimp only
  refine ⟨_, rfl, ?_⟩
  repeat' first
    | with_reducible assumption
    | intro _
    | with_reducible exact Keeps.refl _
    | with_reducible apply Keeps.ite
    | with_reducible apply Keeps.foldl
    | with_reducible apply frameEnd_keeps
    | with_reducible apply canReceive_keeps
    | split
    | with_reducible apply Keeps.fields
    | with_reducible rfl

theorem execCanRxError_keeps (p : Fin 4) (e : CanErr) (xl : Bool) (disabled : Bool) (s : State)  (h_qmem : eff.qmem = true := by assumption) (h_power : eff.power = true := by assumption) : ∃ t, execCanRxError p e xl disabled s = .next t ∧ Keeps eff s t := by
  delta execCanRxError
  try dsimp only
  refine ⟨_, rfl, ?_⟩
  repeat' first
    | with_reducible assumption
    | intro _
    | with_reducible exact Keeps.refl _
    | with_reducible apply Keeps.ite
    | with_reducible apply Keeps.foldl
    | with_reducible apply canRxError_keeps
    | split
    | with_reducible apply Keeps.fields
    | with_reducible rfl

theorem execLvbLockRead_keeps (r : Req) (p : Fin 4) (b : Fin 32) (s : State)   : ∃ t, execLvbLockRead r p b s = .next t ∧ Keeps eff s t := by
  delta execLvbLockRead
  try dsimp only
  refine ⟨_, rfl, ?_⟩
  repeat' first
    | with_reducible assumption
    | intro _
    | with_reducible exact Keeps.refl _
    | with_reducible apply Keeps.ite
    | with_reducible apply Keeps.foldl
    | with_reducible apply noteRead_keeps
    | with_reducible apply lvbLock_keeps
    | split
    | with_reducible apply Keeps.fields
    | with_reducible rfl

theorem execLvbStatRead_keeps (r : Req) (p : Fin 4) (b : Fin 32) (s : State)   : ∃ t, execLvbStatRead r p b s = .next t ∧ Keeps eff s t := by
  delta execLvbStatRead
  try dsimp only
  refine ⟨_, rfl, ?_⟩
  repeat' first
    | with_reducible assumption
    | intro _
    | with_reducible exact Keeps.refl _
    | with_reducible apply Keeps.ite
    | with_reducible apply Keeps.foldl
    | with_reducible apply noteRead_keeps
    | with_reducible apply lvbUnlock_keeps
    | split
    | with_reducible apply Keeps.fields
    | with_reducible rfl

theorem execLvbLockTimeout_keeps (r : Req) (p : Fin 4) (b : Fin 32) (s : State)   : ∃ t, execLvbLockTimeout r p b s = .next t ∧ Keeps eff s t := by
  delta execLvbLockTimeout
  try dsimp only
  refine ⟨_, rfl, ?_⟩
  repeat' first
    | with_reducible assumption
    | intro _
    | with_reducible exact Keeps.refl _
    | with_reducible apply Keeps.ite
    | with_reducible apply Keeps.foldl
    | with_reducible apply State.set1_keeps
    | with_reducible apply lvbUnlock_keeps
    | split
    | with_reducible apply Keeps.fields
    | with_reducible rfl

theorem execCanTxGo_keeps (r : Req) (p : Fin 4) (w : Word) (s : State)  (h_qmem : eff.qmem = true := by assumption) (h_power : eff.power = true := by assumption) : ∃ t, execCanTxGo r p w s = .next t ∧ Keeps eff s t := by
  delta execCanTxGo
  try dsimp only
  refine ⟨_, rfl, ?_⟩
  repeat' first
    | with_reducible assumption
    | intro _
    | with_reducible exact Keeps.refl _
    | with_reducible apply Keeps.ite
    | with_reducible apply Keeps.foldl
    | with_reducible apply regWrite_keeps
    | with_reducible apply canTxCmd_keeps
    | split
    | with_reducible apply Keeps.fields
    | with_reducible rfl

theorem execCanTxFlush_keeps (r : Req) (p : Fin 4) (s : State)  (h_qmem : eff.qmem = true := by assumption) (h_power : eff.power = true := by assumption) : ∃ t, execCanTxFlush r p s = .next t ∧ Keeps eff s t := by
  delta execCanTxFlush
  try dsimp only
  refine ⟨_, rfl, ?_⟩
  repeat' first
    | with_reducible assumption
    | intro _
    | with_reducible exact Keeps.refl _
    | with_reducible apply Keeps.ite
    | with_reducible apply Keeps.foldl
    | with_reducible apply regWrite_keeps
    | with_reducible apply canTxCmd_keeps
    | split
    | with_reducible apply Keeps.fields
    | with_reducible rfl

theorem execCanAttemptStart_keeps (p : Fin 4) (s : State)   : ∃ t, execCanAttemptStart p s = .next t ∧ Keeps eff s t := by
  delta execCanAttemptStart
  try dsimp only
  refine ⟨_, rfl, ?_⟩
  repeat' first
    | with_reducible assumption
    | intro _
    | with_reducible exact Keeps.refl _
    | with_reducible apply Keeps.ite
    | with_reducible apply Keeps.foldl
    | with_reducible apply attemptStart_keeps
    | split
    | with_reducible apply Keeps.fields
    | with_reducible rfl

theorem execCanAttemptSuccess_keeps (p : Fin 4) (s : State)  (h_qmem : eff.qmem = true := by assumption) (h_power : eff.power = true := by assumption) : ∃ t, execCanAttemptSuccess p s = .next t ∧ Keeps eff s t := by
  delta execCanAttemptSuccess
  try dsimp only
  refine ⟨_, rfl, ?_⟩
  repeat' first
    | with_reducible assumption
    | intro _
    | with_reducible exact Keeps.refl _
    | with_reducible apply Keeps.ite
    | with_reducible apply Keeps.foldl
    | with_reducible apply attemptSuccess_keeps
    | split
    | with_reducible apply Keeps.fields
    | with_reducible rfl

theorem execCanAttemptError_keeps (p : Fin 4) (e : CanErr) (s : State)  (h_qmem : eff.qmem = true := by assumption) (h_power : eff.power = true := by assumption) : ∃ t, execCanAttemptError p e s = .next t ∧ Keeps eff s t := by
  delta execCanAttemptError
  try dsimp only
  refine ⟨_, rfl, ?_⟩
  repeat' first
    | with_reducible assumption
    | intro _
    | with_reducible exact Keeps.refl _
    | with_reducible apply Keeps.ite
    | with_reducible apply Keeps.foldl
    | with_reducible apply attemptError_keeps
    | split
    | with_reducible apply Keeps.fields
    | with_reducible rfl

theorem execCanArbitrationLost_keeps (p : Fin 4) (s : State)  (h_qmem : eff.qmem = true := by assumption) (h_power : eff.power = true := by assumption) : ∃ t, execCanArbitrationLost p s = .next t ∧ Keeps eff s t := by
  delta execCanArbitrationLost
  try dsimp only
  refine ⟨_, rfl, ?_⟩
  repeat' first
    | with_reducible assumption
    | intro _
    | with_reducible exact Keeps.refl _
    | with_reducible apply Keeps.ite
    | with_reducible apply Keeps.foldl
    | with_reducible apply arbitrationLost_keeps
    | split
    | with_reducible apply Keeps.fields
    | with_reducible rfl

theorem execCanBusoffRecovery_keeps (p : Fin 4) (s : State)  (h_qmem : eff.qmem = true := by assumption) : ∃ t, execCanBusoffRecovery p s = .next t ∧ Keeps eff s t := by
  delta execCanBusoffRecovery
  try dsimp only
  refine ⟨_, rfl, ?_⟩
  repeat' first
    | with_reducible assumption
    | intro _
    | with_reducible exact Keeps.refl _
    | with_reducible apply Keeps.ite
    | with_reducible apply Keeps.foldl
    | with_reducible apply busoffRecovery_keeps
    | split
    | with_reducible apply Keeps.fields
    | with_reducible rfl

theorem execCanSleepRequest_keeps (r : Req) (p : Fin 4) (w : Word) (s : State)  (h_qmem : eff.qmem = true := by assumption) (h_power : eff.power = true := by assumption) : ∃ t, execCanSleepRequest r p w s = .next t ∧ Keeps eff s t := by
  delta execCanSleepRequest
  try dsimp only
  refine ⟨_, rfl, ?_⟩
  repeat' first
    | with_reducible assumption
    | intro _
    | with_reducible exact Keeps.refl _
    | with_reducible apply Keeps.ite
    | with_reducible apply Keeps.foldl
    | with_reducible apply regWrite_keeps
    | with_reducible apply canSleepWrite_keeps
    | split
    | with_reducible apply Keeps.fields
    | with_reducible rfl

theorem execCanWakeHost_keeps (r : Req) (p : Fin 4) (w : Word) (s : State)  (h_qmem : eff.qmem = true := by assumption) (h_power : eff.power = true := by assumption) : ∃ t, execCanWakeHost r p w s = .next t ∧ Keeps eff s t := by
  delta execCanWakeHost
  try dsimp only
  refine ⟨_, rfl, ?_⟩
  repeat' first
    | with_reducible assumption
    | intro _
    | with_reducible exact Keeps.refl _
    | with_reducible apply Keeps.ite
    | with_reducible apply Keeps.foldl
    | with_reducible apply regWrite_keeps
    | with_reducible apply canSleepWrite_keeps
    | split
    | with_reducible apply Keeps.fields
    | with_reducible rfl

theorem execCanWakeEdge_keeps (p : Fin 4) (s : State)  (h_qmem : eff.qmem = true := by assumption) (h_power : eff.power = true := by assumption) : ∃ t, execCanWakeEdge p s = .next t ∧ Keeps eff s t := by
  delta execCanWakeEdge
  try dsimp only
  refine ⟨_, rfl, ?_⟩
  repeat' first
    | with_reducible assumption
    | intro _
    | with_reducible exact Keeps.refl _
    | with_reducible apply Keeps.ite
    | with_reducible apply Keeps.foldl
    | with_reducible apply canWake_keeps
    | split
    | with_reducible apply Keeps.fields
    | with_reducible rfl

theorem execCanWakeFrame_keeps (p : Fin 4) (x : Frame) (s : State)  (h_qmem : eff.qmem = true := by assumption) (h_power : eff.power = true := by assumption) : ∃ t, execCanWakeFrame p x s = .next t ∧ Keeps eff s t := by
  delta execCanWakeFrame
  try dsimp only
  refine ⟨_, rfl, ?_⟩
  repeat' first
    | with_reducible assumption
    | intro _
    | with_reducible exact Keeps.refl _
    | with_reducible apply Keeps.ite
    | with_reducible apply Keeps.foldl
    | with_reducible apply canWakeFrame_keeps
    | split
    | with_reducible apply Keeps.fields
    | with_reducible rfl

theorem execTuCanRefSend_keeps (s : State)  (h_qmem : eff.qmem = true := by assumption) (h_power : eff.power = true := by assumption) : ∃ t, execTuCanRefSend s = .next t ∧ Keeps eff s t := by
  delta execTuCanRefSend
  try dsimp only
  refine ⟨_, rfl, ?_⟩
  repeat' first
    | with_reducible assumption
    | intro _
    | with_reducible exact Keeps.refl _
    | with_reducible apply Keeps.ite
    | with_reducible apply Keeps.foldl
    | with_reducible apply State.put_keeps
    | with_reducible apply State.inc_keeps
    | with_reducible apply State.modTu_keeps
    | with_reducible apply txQueue_keeps
    | split
    | with_reducible apply Keeps.fields
    | with_reducible rfl

theorem execTuCanRefReceive_keeps (x : Frame) (s : State)   : ∃ t, execTuCanRefReceive x s = .next t ∧ Keeps eff s t := by
  delta execTuCanRefReceive
  try dsimp only
  refine ⟨_, rfl, ?_⟩
  repeat' first
    | with_reducible assumption
    | intro _
    | with_reducible exact Keeps.refl _
    | with_reducible apply Keeps.ite
    | with_reducible apply Keeps.foldl
    | with_reducible apply canRef_keeps
    | split
    | with_reducible apply Keeps.fields
    | with_reducible rfl

theorem execFcCfgWrite_keeps (r : Req) (n : Fin 256) (shift : Bool) (w : Word) (s : State)   : ∃ t, execFcCfgWrite r n shift w s = .next t ∧ Keeps eff s t := by
  delta execFcCfgWrite
  try dsimp only
  refine ⟨_, rfl, ?_⟩
  repeat' first
    | with_reducible assumption
    | intro _
    | with_reducible exact Keeps.refl _
    | with_reducible apply Keeps.ite
    | with_reducible apply Keeps.foldl
    | with_reducible apply regWrite_keeps
    | with_reducible apply fcCfgWrite_keeps
    | with_reducible apply fcShiftWrite_keeps
    | split
    | with_reducible apply Keeps.fields
    | with_reducible rfl

theorem execPdelayWrite_keeps (r : Req) (n : Fin 256) (w : Word) (s : State)   : ∃ t, execPdelayWrite r n w s = .next t ∧ Keeps eff s t := by
  delta execPdelayWrite
  try dsimp only
  refine ⟨_, rfl, ?_⟩
  repeat' first
    | with_reducible assumption
    | intro _
    | with_reducible exact Keeps.refl _
    | with_reducible apply Keeps.ite
    | with_reducible apply Keeps.foldl
    | with_reducible apply regWrite_keeps
    | with_reducible apply fcDelayWrite_keeps
    | split
    | with_reducible apply Keeps.fields
    | with_reducible rfl

theorem execPresetRecordWrite_keeps (r : Req) (x : Fin 4) (o : Nat) (w : Word) (s : State)   : ∃ t, execPresetRecordWrite r x o w s = .next t ∧ Keeps eff s t := by
  delta execPresetRecordWrite
  try dsimp only
  refine ⟨_, rfl, ?_⟩
  repeat' first
    | with_reducible assumption
    | intro _
    | with_reducible exact Keeps.refl _
    | with_reducible apply Keeps.ite
    | with_reducible apply Keeps.foldl
    | with_reducible apply regWrite_keeps
    | with_reducible apply recordWrite_keeps
    | split
    | with_reducible apply Keeps.fields
    | with_reducible rfl

theorem execChainOutput_keeps (n : Fin 256) (ps : List Period) (s : State)  (h_qmem : eff.qmem = true := by assumption) : ∃ t, execChainOutput n ps s = .next t ∧ Keeps eff s t := by
  delta execChainOutput
  try dsimp only
  refine ⟨_, rfl, ?_⟩
  repeat' first
    | with_reducible assumption
    | intro _
    | with_reducible exact Keeps.refl _
    | with_reducible apply Keeps.ite
    | with_reducible apply Keeps.foldl
    | with_reducible apply chainOutput_keeps
    | split
    | with_reducible apply Keeps.fields
    | with_reducible rfl

theorem execModulatorLoopReset_keeps (n : Fin 256) (s : State)   : ∃ t, execModulatorLoopReset n s = .next t ∧ Keeps eff s t := by
  delta execModulatorLoopReset
  try dsimp only
  refine ⟨_, rfl, ?_⟩
  repeat' first
    | with_reducible assumption
    | intro _
    | with_reducible exact Keeps.refl _
    | with_reducible apply Keeps.ite
    | with_reducible apply Keeps.foldl
    | with_reducible apply State.setChain_keeps
    | with_reducible apply State.modCa_keeps
    | split
    | with_reducible apply Keeps.fields
    | with_reducible rfl

theorem execThresholdWrite_keeps (r : Req) (n : Fin 256) (x : Fin 2) (reg : Fin 3) (w : Word) (s : State)   : ∃ t, execThresholdWrite r n x reg w s = .next t ∧ Keeps eff s t := by
  delta execThresholdWrite
  try dsimp only
  refine ⟨_, rfl, ?_⟩
  repeat' first
    | with_reducible assumption
    | intro _
    | with_reducible exact Keeps.refl _
    | with_reducible apply Keeps.ite
    | with_reducible apply Keeps.foldl
    | with_reducible apply regWrite_keeps
    | with_reducible apply thWrite_keeps
    | split
    | with_reducible apply Keeps.fields
    | with_reducible rfl

theorem execSyncLandEdge_keeps (rising : Bool) (s : State)  (h_qmem : eff.qmem = true := by assumption) : ∃ t, execSyncLandEdge rising s = .next t ∧ Keeps eff s t := by
  delta execSyncLandEdge
  try dsimp only
  refine ⟨_, rfl, ?_⟩
  repeat' first
    | with_reducible assumption
    | intro _
    | with_reducible exact Keeps.refl _
    | with_reducible apply Keeps.ite
    | with_reducible apply Keeps.foldl
    | with_reducible apply State.inc_keeps
    | with_reducible apply State.incWrap_keeps
    | with_reducible apply State.when_keeps
    | with_reducible apply State.modTu_keeps
    | with_reducible apply syncRequest_keeps
    | with_reducible apply dipRequest_keeps
    | split
    | with_reducible apply Keeps.fields
    | with_reducible rfl

theorem execCaSyncGo_keeps (r : Req) (s : State)   : ∃ t, execCaSyncGo r s = .next t ∧ Keeps eff s t := by
  delta execCaSyncGo
  try dsimp only
  refine ⟨_, rfl, ?_⟩
  repeat' first
    | with_reducible assumption
    | intro _
    | with_reducible exact Keeps.refl _
    | with_reducible apply Keeps.ite
    | with_reducible apply Keeps.foldl
    | with_reducible apply State.when_keeps
    | with_reducible apply syncRequest_keeps
    | with_reducible apply regWrite_keeps
    | split
    | with_reducible apply Keeps.fields
    | with_reducible rfl

theorem execSyncApply_keeps (s : State)   : ∃ t, execSyncApply s = .next t ∧ Keeps eff s t := by
  delta execSyncApply
  try dsimp only
  refine ⟨_, rfl, ?_⟩
  repeat' first
    | with_reducible assumption
    | intro _
    | with_reducible exact Keeps.refl _
    | with_reducible apply Keeps.ite
    | with_reducible apply Keeps.foldl
    | with_reducible apply State.set1_keeps
    | with_reducible apply State.addSat_keeps
    | with_reducible apply State.modCa_keeps
    | with_reducible apply syncApplyAt_keeps
    | split
    | with_reducible apply Keeps.fields
    | with_reducible rfl

theorem execAuxSlotEnd_keeps (t0 : Fin 16) (raw : Int) (ovr : Bool) (s : State)  (h_qmem : eff.qmem = true := by assumption) : ∃ t, execAuxSlotEnd t0 raw ovr s = .next t ∧ Keeps eff s t := by
  delta execAuxSlotEnd
  try dsimp only
  refine ⟨_, rfl, ?_⟩
  repeat' first
    | with_reducible assumption
    | intro _
    | with_reducible exact Keeps.refl _
    | with_reducible apply Keeps.ite
    | with_reducible apply Keeps.foldl
    | with_reducible apply slotBegin_keeps
    | with_reducible apply slotRestart_keeps
    | with_reducible apply auxResult_keeps
    | split
    | with_reducible apply Keeps.fields
    | with_reducible rfl

theorem execInjRequest_keeps (r : Req) (w : Word) (s : State)   : ∃ t, execInjRequest r w s = .next t ∧ Keeps eff s t := by
  delta execInjRequest
  try dsimp only
  refine ⟨_, rfl, ?_⟩
  repeat' first
    | with_reducible assumption
    | intro _
    | with_reducible exact Keeps.refl _
    | with_reducible apply Keeps.ite
    | with_reducible apply Keeps.foldl
    | with_reducible apply regWrite_keeps
    | with_reducible apply caInjWrite_keeps
    | split
    | with_reducible apply Keeps.fields
    | with_reducible rfl

theorem execInjComplete_keeps (t0 : Fin 16) (raw : Int) (ovr : Bool) (s : State)   : ∃ t, execInjComplete t0 raw ovr s = .next t ∧ Keeps eff s t := by
  delta execInjComplete
  try dsimp only
  refine ⟨_, rfl, ?_⟩
  repeat' first
    | with_reducible assumption
    | intro _
    | with_reducible exact Keeps.refl _
    | with_reducible apply Keeps.ite
    | with_reducible apply Keeps.foldl
    | with_reducible apply State.modTile_keeps
    | with_reducible apply slotBegin_keeps
    | with_reducible apply showPend_keeps
    | with_reducible apply injStore_keeps
    | with_reducible apply ainDone_keeps
    | split
    | with_reducible apply Keeps.fields
    | with_reducible rfl

theorem execCal_keeps (r : Req) (s : State)  (h_qmem : eff.qmem = true := by assumption) : ∃ t, execCal r s = .next t ∧ Keeps eff s t := by
  delta execCal
  try dsimp only
  refine ⟨_, rfl, ?_⟩
  repeat' first
    | with_reducible assumption
    | intro _
    | with_reducible exact Keeps.refl _
    | with_reducible apply Keeps.ite
    | with_reducible apply Keeps.foldl
    | with_reducible apply State.when_keeps
    | with_reducible apply regWrite_keeps
    | with_reducible apply calRequest_keeps
    | split
    | with_reducible apply Keeps.fields
    | with_reducible rfl

theorem execAutoCalStart_keeps (s : State)  (h_qmem : eff.qmem = true := by assumption) : ∃ t, execAutoCalStart s = .next t ∧ Keeps eff s t := by
  delta execAutoCalStart
  try dsimp only
  refine ⟨_, rfl, ?_⟩
  repeat' first
    | with_reducible assumption
    | intro _
    | with_reducible exact Keeps.refl _
    | with_reducible apply Keeps.ite
    | with_reducible apply Keeps.foldl
    | with_reducible apply State.modCa_keeps
    | with_reducible apply calRequest_keeps
    | split
    | with_reducible apply Keeps.fields
    | with_reducible rfl

theorem execCalPermitGranted_keeps (s : State)  (h_qmem : eff.qmem = true := by assumption) : ∃ t, execCalPermitGranted s = .next t ∧ Keeps eff s t := by
  delta execCalPermitGranted
  try dsimp only
  refine ⟨_, rfl, ?_⟩
  repeat' first
    | with_reducible assumption
    | intro _
    | with_reducible exact Keeps.refl _
    | with_reducible apply Keeps.ite
    | with_reducible apply Keeps.foldl
    | with_reducible apply State.put_keeps
    | with_reducible apply State.modCa_keeps
    | with_reducible apply allTiles_keeps
    | with_reducible apply permitDecide_keeps
    | with_reducible apply calWaitTile_keeps
    | split
    | with_reducible apply Keeps.fields
    | with_reducible rfl

theorem execCalEnter_keeps (s : State)  (h_qmem : eff.qmem = true := by assumption) : ∃ t, execCalEnter s = .next t ∧ Keeps eff s t := by
  delta execCalEnter
  try dsimp only
  refine ⟨_, rfl, ?_⟩
  repeat' first
    | with_reducible assumption
    | intro _
    | with_reducible exact Keeps.refl _
    | with_reducible apply Keeps.ite
    | with_reducible apply Keeps.foldl
    | with_reducible apply State.put_keeps
    | with_reducible apply State.each_keeps
    | with_reducible apply State.modCa_keeps
    | with_reducible apply qPushDrop_keeps
    | with_reducible apply stopChains_keeps
    | split
    | with_reducible apply Keeps.fields
    | with_reducible rfl

theorem execCalOffsetMeans_keeps (sums : List Int) (s : State)   : ∃ t, execCalOffsetMeans sums s = .next t ∧ Keeps eff s t := by
  delta execCalOffsetMeans
  try dsimp only
  refine ⟨_, rfl, ?_⟩
  repeat' first
    | with_reducible assumption
    | intro _
    | with_reducible exact Keeps.refl _
    | with_reducible apply Keeps.ite
    | with_reducible apply Keeps.foldl
    | with_reducible apply State.modCa_keeps
    | split
    | with_reducible apply Keeps.fields
    | with_reducible rfl

theorem execCalGainMeans_keeps (sums : List Int) (marked : List Nat) (s : State)   : ∃ t, execCalGainMeans sums marked s = .next t ∧ Keeps eff s t := by
  delta execCalGainMeans
  try dsimp only
  refine ⟨_, rfl, ?_⟩
  repeat' first
    | with_reducible assumption
    | intro _
    | with_reducible exact Keeps.refl _
    | with_reducible apply Keeps.ite
    | with_reducible apply Keeps.foldl
    | with_reducible apply State.put_keeps
    | with_reducible apply State.modCa_keeps
    | with_reducible apply calStale_keeps
    | with_reducible apply convAll_keeps
    | split
    | with_reducible apply Keeps.fields
    | with_reducible rfl

theorem execCalEnd_keeps (s : State)  (h_qmem : eff.qmem = true := by assumption) : ∃ t, execCalEnd s = .next t ∧ Keeps eff s t := by
  delta execCalEnd
  try dsimp only
  refine ⟨_, rfl, ?_⟩
  repeat' first
    | with_reducible assumption
    | intro _
    | with_reducible exact Keeps.refl _
    | with_reducible apply Keeps.ite
    | with_reducible apply Keeps.foldl
    | with_reducible apply calFinish_keeps
    | split
    | with_reducible apply Keeps.fields
    | with_reducible rfl

theorem execCalFactorWrite_keeps (r : Req) (i : Fin 80) (gain : Bool) (w : Word) (s : State)   : ∃ t, execCalFactorWrite r i gain w s = .next t ∧ Keeps eff s t := by
  delta execCalFactorWrite
  try dsimp only
  refine ⟨_, rfl, ?_⟩
  repeat' first
    | with_reducible assumption
    | intro _
    | with_reducible exact Keeps.refl _
    | with_reducible apply Keeps.ite
    | with_reducible apply Keeps.foldl
    | with_reducible apply regWrite_keeps
    | with_reducible apply factorWrite_keeps
    | split
    | with_reducible apply Keeps.fields
    | with_reducible rfl

theorem execSweep_keeps (r : Req) (s : State)  (h_qmem : eff.qmem = true := by assumption) : ∃ t, execSweep r s = .next t ∧ Keeps eff s t := by
  delta execSweep
  try dsimp only
  refine ⟨_, rfl, ?_⟩
  repeat' first
    | with_reducible assumption
    | intro _
    | with_reducible exact Keeps.refl _
    | with_reducible apply Keeps.ite
    | with_reducible apply Keeps.foldl
    | with_reducible apply State.when_keeps
    | with_reducible apply regWrite_keeps
    | with_reducible apply sweepRequest_keeps
    | split
    | with_reducible apply Keeps.fields
    | with_reducible rfl

theorem execSweepAbort_keeps (r : Req) (s : State)   : ∃ t, execSweepAbort r s = .next t ∧ Keeps eff s t := by
  delta execSweepAbort
  try dsimp only
  refine ⟨_, rfl, ?_⟩
  repeat' first
    | with_reducible assumption
    | intro _
    | with_reducible exact Keeps.refl _
    | with_reducible apply Keeps.ite
    | with_reducible apply Keeps.foldl
    | with_reducible apply State.when_keeps
    | with_reducible apply regWrite_keeps
    | with_reducible apply sweepAbortReq_keeps
    | split
    | with_reducible apply Keeps.fields
    | with_reducible rfl

theorem execSweepStep_keeps (raw : List Int) (s : State)  (h_qmem : eff.qmem = true := by assumption) : ∃ t, execSweepStep raw s = .next t ∧ Keeps eff s t := by
  delta execSweepStep
  try dsimp only
  refine ⟨_, rfl, ?_⟩
  repeat' first
    | with_reducible assumption
    | intro _
    | with_reducible exact Keeps.refl _
    | with_reducible apply Keeps.ite
    | with_reducible apply Keeps.foldl
    | with_reducible apply State.modCa_keeps
    | with_reducible apply allTiles_keeps
    | with_reducible apply injStore_keeps
    | with_reducible apply eachSwept_keeps
    | with_reducible apply sweepCode_keeps
    | with_reducible apply sweepCompare_keeps
    | with_reducible apply sweepEnd_keeps
    | with_reducible apply slotDelay_keeps
    | split
    | with_reducible apply Keeps.fields
    | with_reducible rfl

theorem execLinkFramesResume_keeps (t0 : Fin 16) (d : Dom) (s : State)   : ∃ t, execLinkFramesResume t0 d s = .next t ∧ Keeps eff s t := by
  delta execLinkFramesResume
  try dsimp only
  refine ⟨_, rfl, ?_⟩
  repeat' first
    | with_reducible assumption
    | intro _
    | with_reducible exact Keeps.refl _
    | with_reducible apply Keeps.ite
    | with_reducible apply Keeps.foldl
    | with_reducible apply State.set1_keeps
    | with_reducible apply State.each_keeps
    | with_reducible apply State.modTile_keeps
    | with_reducible apply discont_keeps
    | split
    | with_reducible apply Keeps.fields
    | with_reducible rfl

theorem execCvstart_keeps (e : Fin 8) (s : State)  (h_qmem : eff.qmem = true := by assumption) : ∃ t, execCvstart e s = .next t ∧ Keeps eff s t := by
  delta execCvstart
  try dsimp only
  refine ⟨_, rfl, ?_⟩
  repeat' first
    | with_reducible assumption
    | intro _
    | with_reducible exact Keeps.refl _
    | with_reducible apply Keeps.ite
    | with_reducible apply Keeps.foldl
    | with_reducible apply ctxBlock_keeps
    | with_reducible apply cvTake_keeps
    | with_reducible apply runInstr_keeps
    | with_reducible apply checked_keeps
    | with_reducible apply stepOver_keeps
    | split
    | with_reducible apply Keeps.fields
    | with_reducible rfl

theorem execCvfeed_keeps (e : Fin 8) (s : State)  (h_qmem : eff.qmem = true := by assumption) : ∃ t, execCvfeed e s = .next t ∧ Keeps eff s t := by
  delta execCvfeed
  try dsimp only
  refine ⟨_, rfl, ?_⟩
  repeat' first
    | with_reducible assumption
    | intro _
    | with_reducible exact Keeps.refl _
    | with_reducible apply Keeps.ite
    | with_reducible apply Keeps.foldl
    | with_reducible apply cvFeed_keeps
    | with_reducible apply setF_keeps
    | with_reducible apply runInstr_keeps
    | with_reducible apply checked_keeps
    | with_reducible apply stepOver_keeps
    | split
    | with_reducible apply Keeps.fields
    | with_reducible rfl

theorem execCvchk_keeps (e : Fin 8) (s : State)  (h_qmem : eff.qmem = true := by assumption) : ∃ t, execCvchk e s = .next t ∧ Keeps eff s t := by
  delta execCvchk
  try dsimp only
  refine ⟨_, rfl, ?_⟩
  repeat' first
    | with_reducible assumption
    | intro _
    | with_reducible exact Keeps.refl _
    | with_reducible apply Keeps.ite
    | with_reducible apply Keeps.foldl
    | with_reducible apply State.modCtx_keeps
    | with_reducible apply State.setCv_keeps
    | with_reducible apply setV_keeps
    | with_reducible apply runInstr_keeps
    | with_reducible apply checked_keeps
    | with_reducible apply stepOver_keeps
    | split
    | with_reducible apply Keeps.fields
    | with_reducible rfl

theorem execDout_keeps (e : Fin 8) (s : State)  (h_qmem : eff.qmem = true := by assumption) : ∃ t, execDout e s = .next t ∧ Keeps eff s t := by
  delta execDout
  try dsimp only
  refine ⟨_, rfl, ?_⟩
  repeat' first
    | with_reducible assumption
    | intro _
    | with_reducible exact Keeps.refl _
    | with_reducible apply Keeps.ite
    | with_reducible apply Keeps.foldl
    | with_reducible apply doCmd_keeps
    | with_reducible apply setF_keeps
    | with_reducible apply refuse_keeps
    | with_reducible apply runInstr_keeps
    | with_reducible apply checked_keeps
    | with_reducible apply stepOver_keeps
    | split
    | with_reducible apply Keeps.fields
    | with_reducible rfl

theorem execAout_keeps (e : Fin 8) (s : State)  (h_qmem : eff.qmem = true := by assumption) : ∃ t, execAout e s = .next t ∧ Keeps eff s t := by
  delta execAout
  try dsimp only
  refine ⟨_, rfl, ?_⟩
  repeat' first
    | with_reducible assumption
    | intro _
    | with_reducible exact Keeps.refl _
    | with_reducible apply Keeps.ite
    | with_reducible apply Keeps.foldl
    | with_reducible apply aoSet_keeps
    | with_reducible apply runInstr_keeps
    | with_reducible apply checked_keeps
    | with_reducible apply stepOver_keeps
    | split
    | with_reducible apply Keeps.fields
    | with_reducible rfl

theorem execDin_keeps (e : Fin 8) (s : State)  (h_qmem : eff.qmem = true := by assumption) : ∃ t, execDin e s = .next t ∧ Keeps eff s t := by
  delta execDin
  try dsimp only
  refine ⟨_, rfl, ?_⟩
  repeat' first
    | with_reducible assumption
    | intro _
    | with_reducible exact Keeps.refl _
    | with_reducible apply Keeps.ite
    | with_reducible apply Keeps.foldl
    | with_reducible apply State.useFree_keeps
    | with_reducible apply setF_keeps
    | with_reducible apply setV_keeps
    | with_reducible apply runInstr_keeps
    | with_reducible apply checked_keeps
    | with_reducible apply stepOver_keeps
    | split
    | with_reducible apply Keeps.fields
    | with_reducible rfl

theorem execAin_keeps (e : Fin 8) (s : State)  (h_qmem : eff.qmem = true := by assumption) : ∃ t, execAin e s = .next t ∧ Keeps eff s t := by
  delta execAin
  try dsimp only
  refine ⟨_, rfl, ?_⟩
  repeat' first
    | with_reducible assumption
    | intro _
    | with_reducible exact Keeps.refl _
    | with_reducible apply Keeps.ite
    | with_reducible apply Keeps.foldl
    | with_reducible apply ctxWait_keeps
    | with_reducible apply ctxBlock_keeps
    | with_reducible apply setV_keeps
    | with_reducible apply refuse_keeps
    | with_reducible apply runInstr_keeps
    | with_reducible apply checked_keeps
    | with_reducible apply stepOver_keeps
    | with_reducible apply injQueue_keeps
    | split
    | with_reducible apply Keeps.fields
    | with_reducible rfl

theorem execPush_keeps (e : Fin 8) (s : State)  (h_qmem : eff.qmem = true := by assumption) : ∃ t, execPush e s = .next t ∧ Keeps eff s t := by
  delta execPush
  try dsimp only
  refine ⟨_, rfl, ?_⟩
  repeat' first
    | with_reducible assumption
    | intro _
    | with_reducible exact Keeps.refl _
    | with_reducible apply Keeps.ite
    | with_reducible apply Keeps.foldl
    | with_reducible apply dropResv_keeps
    | with_reducible apply setF_keeps
    | with_reducible apply runInstr_keeps
    | with_reducible apply checked_keeps
    | with_reducible apply stepOver_keeps
    | with_reducible apply commitResv_keeps
    | with_reducible apply pushTo_keeps
    | split
    | with_reducible apply Keeps.fields
    | with_reducible rfl

theorem execPennant_keeps (e : Fin 8) (s : State)  (h_qmem : eff.qmem = true := by assumption) : ∃ t, execPennant e s = .next t ∧ Keeps eff s t := by
  delta execPennant
  try dsimp only
  refine ⟨_, rfl, ?_⟩
  repeat' first
    | with_reducible assumption
    | intro _
    | with_reducible exact Keeps.refl _
    | with_reducible apply Keeps.ite
    | with_reducible apply Keeps.foldl
    | with_reducible apply raisePennant_keeps
    | with_reducible apply runInstr_keeps
    | with_reducible apply checked_keeps
    | with_reducible apply stepOver_keeps
    | split
    | with_reducible apply Keeps.fields
    | with_reducible rfl

theorem execCheckpoint_keeps (e : Fin 8) (s : State)  (h_qmem : eff.qmem = true := by assumption) : ∃ t, execCheckpoint e s = .next t ∧ Keeps eff s t := by
  delta execCheckpoint
  try dsimp only
  refine ⟨_, rfl, ?_⟩
  repeat' first
    | with_reducible assumption
    | intro _
    | with_reducible exact Keeps.refl _
    | with_reducible apply Keeps.ite
    | with_reducible apply Keeps.foldl
    | with_reducible apply State.put_keeps
    | with_reducible apply State.modCtx_keeps
    | with_reducible apply ctxWait_keeps
    | with_reducible apply writeCkpt_keeps
    | with_reducible apply runInstr_keeps
    | with_reducible apply checked_keeps
    | with_reducible apply stepOver_keeps
    | split
    | with_reducible apply Keeps.fields
    | with_reducible rfl

theorem execOnce_keeps (e : Fin 8) (s : State)  (h_qmem : eff.qmem = true := by assumption) : ∃ t, execOnce e s = .next t ∧ Keeps eff s t := by
  delta execOnce
  try dsimp only
  refine ⟨_, rfl, ?_⟩
  repeat' first
    | with_reducible assumption
    | intro _
    | with_reducible exact Keeps.refl _
    | with_reducible apply Keeps.ite
    | with_reducible apply Keeps.foldl
    | with_reducible apply State.put_keeps
    | with_reducible apply ctxWait_keeps
    | with_reducible apply writeCkpt_keeps
    | with_reducible apply runInstr_keeps
    | with_reducible apply checked_keeps
    | with_reducible apply stepOver_keeps
    | with_reducible apply onceOpens_keeps
    | split
    | with_reducible apply Keeps.fields
    | with_reducible rfl

theorem execSignal_keeps (e : Fin 8) (s : State)  (h_qmem : eff.qmem = true := by assumption) : ∃ t, execSignal e s = .next t ∧ Keeps eff s t := by
  delta execSignal
  try dsimp only
  refine ⟨_, rfl, ?_⟩
  repeat' first
    | with_reducible assumption
    | intro _
    | with_reducible exact Keeps.refl _
    | with_reducible apply Keeps.ite
    | with_reducible apply Keeps.foldl
    | with_reducible apply fireTrigs_keeps
    | with_reducible apply pushCtxRecord_keeps
    | with_reducible apply runInstr_keeps
    | with_reducible apply checked_keeps
    | with_reducible apply stepOver_keeps
    | split
    | with_reducible apply Keeps.fields
    | with_reducible rfl

theorem execCtxKick_keeps (r : Req) (c : Fin 160) (arg : BitVec 16) (s : State)  (h_qmem : eff.qmem = true := by assumption) : ∃ t, execCtxKick r c arg s = .next t ∧ Keeps eff s t := by
  delta execCtxKick
  try dsimp only
  refine ⟨_, rfl, ?_⟩
  repeat' first
    | with_reducible assumption
    | intro _
    | with_reducible exact Keeps.refl _
    | with_reducible apply Keeps.ite
    | with_reducible apply Keeps.foldl
    | with_reducible apply regWrite_keeps
    | with_reducible apply ctxCtlWrite_keeps
    | split
    | with_reducible apply Keeps.fields
    | with_reducible rfl

theorem execCtxAbort_keeps (r : Req) (c : Fin 160) (s : State)  (h_qmem : eff.qmem = true := by assumption) : ∃ t, execCtxAbort r c s = .next t ∧ Keeps eff s t := by
  delta execCtxAbort
  try dsimp only
  refine ⟨_, rfl, ?_⟩
  repeat' first
    | with_reducible assumption
    | intro _
    | with_reducible exact Keeps.refl _
    | with_reducible apply Keeps.ite
    | with_reducible apply Keeps.foldl
    | with_reducible apply regWrite_keeps
    | with_reducible apply ctxCtlWrite_keeps
    | split
    | with_reducible apply Keeps.fields
    | with_reducible rfl

theorem execCtxReset_keeps (r : Req) (c : Fin 160) (s : State)  (h_qmem : eff.qmem = true := by assumption) : ∃ t, execCtxReset r c s = .next t ∧ Keeps eff s t := by
  delta execCtxReset
  try dsimp only
  refine ⟨_, rfl, ?_⟩
  repeat' first
    | with_reducible assumption
    | intro _
    | with_reducible exact Keeps.refl _
    | with_reducible apply Keeps.ite
    | with_reducible apply Keeps.foldl
    | with_reducible apply regWrite_keeps
    | with_reducible apply ctxCtlWrite_keeps
    | split
    | with_reducible apply Keeps.fields
    | with_reducible rfl

theorem execEngineDispatch_keeps (s : State)  (h_qmem : eff.qmem = true := by assumption) (h_power : eff.power = true := by assumption) : ∃ t, execEngineDispatch s = .next t ∧ Keeps eff s t := by
  delta execEngineDispatch
  try dsimp only
  refine ⟨_, rfl, ?_⟩
  repeat' first
    | with_reducible assumption
    | intro _
    | with_reducible exact Keeps.refl _
    | with_reducible apply Keeps.ite
    | with_reducible apply Keeps.foldl
    | with_reducible apply dispatch_keeps
    | split
    | with_reducible apply Keeps.fields
    | with_reducible rfl

theorem execSliceExpiry_keeps (e : Fin 8) (s : State)   : ∃ t, execSliceExpiry e s = .next t ∧ Keeps eff s t := by
  delta execSliceExpiry
  try dsimp only
  refine ⟨_, rfl, ?_⟩
  repeat' first
    | with_reducible assumption
    | intro _
    | with_reducible exact Keeps.refl _
    | with_reducible apply Keeps.ite
    | with_reducible apply Keeps.foldl
    | with_reducible apply sliceExpiry_keeps
    | split
    | with_reducible apply Keeps.fields
    | with_reducible rfl

theorem execRunmaxExpiry_keeps (c : Fin 160) (s : State)  (h_qmem : eff.qmem = true := by assumption) : ∃ t, execRunmaxExpiry c s = .next t ∧ Keeps eff s t := by
  delta execRunmaxExpiry
  try dsimp only
  refine ⟨_, rfl, ?_⟩
  repeat' first
    | with_reducible assumption
    | intro _
    | with_reducible exact Keeps.refl _
    | with_reducible apply Keeps.ite
    | with_reducible apply Keeps.foldl
    | with_reducible apply runmaxExpiry_keeps
    | split
    | with_reducible apply Keeps.fields
    | with_reducible rfl

theorem execCtxInboxFrame_keeps (c : Fin 160) (p : Fin 4) (k : Fin 64) (x : Frame) (s : State)  (h_qmem : eff.qmem = true := by assumption) (h_power : eff.power = true := by assumption) : ∃ t, execCtxInboxFrame c p k x s = .next t ∧ Keeps eff s t := by
  delta execCtxInboxFrame
  try dsimp only
  refine ⟨_, rfl, ?_⟩
  repeat' first
    | with_reducible assumption
    | intro _
    | with_reducible exact Keeps.refl _
    | with_reducible apply Keeps.ite
    | with_reducible apply Keeps.foldl
    | with_reducible apply ctxFrame_keeps
    | split
    | with_reducible apply Keeps.fields
    | with_reducible rfl

theorem execExpectTimeout_keeps (c : Fin 160) (s : State)  (h_qmem : eff.qmem = true := by assumption) : ∃ t, execExpectTimeout c s = .next t ∧ Keeps eff s t := by
  delta execExpectTimeout
  try dsimp only
  refine ⟨_, rfl, ?_⟩
  repeat' first
    | with_reducible assumption
    | intro _
    | with_reducible exact Keeps.refl _
    | with_reducible apply Keeps.ite
    | with_reducible apply Keeps.foldl
    | with_reducible apply expectTimeoutDue_keeps
    | split
    | with_reducible apply Keeps.fields
    | with_reducible rfl

theorem execBackoffExpiry_keeps (c : Fin 160) (s : State)   : ∃ t, execBackoffExpiry c s = .next t ∧ Keeps eff s t := by
  delta execBackoffExpiry
  try dsimp only
  refine ⟨_, rfl, ?_⟩
  repeat' first
    | with_reducible assumption
    | intro _
    | with_reducible exact Keeps.refl _
    | with_reducible apply Keeps.ite
    | with_reducible apply Keeps.foldl
    | with_reducible apply backoffExpiry_keeps
    | split
    | with_reducible apply Keeps.fields
    | with_reducible rfl

theorem execCtxWaitExpiry_keeps (c : Fin 160) (s : State)   : ∃ t, execCtxWaitExpiry c s = .next t ∧ Keeps eff s t := by
  delta execCtxWaitExpiry
  try dsimp only
  refine ⟨_, rfl, ?_⟩
  repeat' first
    | with_reducible assumption
    | intro _
    | with_reducible exact Keeps.refl _
    | with_reducible apply Keeps.ite
    | with_reducible apply Keeps.foldl
    | with_reducible apply waitExpiry_keeps
    | split
    | with_reducible apply Keeps.fields
    | with_reducible rfl

theorem execCheckpointCommitted_keeps (c : Fin 160) (s : State)   : ∃ t, execCheckpointCommitted c s = .next t ∧ Keeps eff s t := by
  delta execCheckpointCommitted
  try dsimp only
  refine ⟨_, rfl, ?_⟩
  repeat' first
    | with_reducible assumption
    | intro _
    | with_reducible exact Keeps.refl _
    | with_reducible apply Keeps.ite
    | with_reducible apply Keeps.foldl
    | with_reducible apply checkpointCommitted_keeps
    | split
    | with_reducible apply Keeps.fields
    | with_reducible rfl

theorem execCtxUnblock_keeps (c : Fin 160) (s : State)   : ∃ t, execCtxUnblock c s = .next t ∧ Keeps eff s t := by
  delta execCtxUnblock
  try dsimp only
  refine ⟨_, rfl, ?_⟩
  repeat' first
    | with_reducible assumption
    | intro _
    | with_reducible exact Keeps.refl _
    | with_reducible apply Keeps.ite
    | with_reducible apply Keeps.foldl
    | with_reducible apply unblock_keeps
    | split
    | with_reducible apply Keeps.fields
    | with_reducible rfl

theorem execHoistCacheFillDone_keeps (a : BitVec 26) (ok : Bool) (s : State)  (h_qmem : eff.qmem = true := by assumption) : ∃ t, execHoistCacheFillDone a ok s = .next t ∧ Keeps eff s t := by
  delta execHoistCacheFillDone
  try dsimp only
  refine ⟨_, rfl, ?_⟩
  repeat' first
    | with_reducible assumption
    | intro _
    | with_reducible exact Keeps.refl _
    | with_reducible apply Keeps.ite
    | with_reducible apply Keeps.foldl
    | with_reducible apply cacheFill_keeps
    | split
    | with_reducible apply Keeps.fields
    | with_reducible rfl

theorem execXferTimerExpiry_keeps (c : Fin 160) (s : State)  (h_qmem : eff.qmem = true := by assumption) (h_power : eff.power = true := by assumption) : ∃ t, execXferTimerExpiry c s = .next t ∧ Keeps eff s t := by
  delta execXferTimerExpiry
  try dsimp only
  refine ⟨_, rfl, ?_⟩
  repeat' first
    | with_reducible assumption
    | intro _
    | with_reducible exact Keeps.refl _
    | with_reducible apply Keeps.ite
    | with_reducible apply Keeps.foldl
    | with_reducible apply xferTimerExpiry_keeps
    | split
    | with_reducible apply Keeps.fields
    | with_reducible rfl

theorem execHoistMemoryWrite_keeps (r : Req) (i : BitVec 16) (w : Word) (s : State)   : ∃ t, execHoistMemoryWrite r i w s = .next t ∧ Keeps eff s t := by
  delta execHoistMemoryWrite
  try dsimp only
  refine ⟨_, rfl, ?_⟩
  repeat' first
    | with_reducible assumption
    | intro _
    | with_reducible exact Keeps.refl _
    | with_reducible apply Keeps.ite
    | with_reducible apply Keeps.foldl
    | with_reducible apply wr_keeps
    | with_reducible apply regWrite_keeps
    | split
    | with_reducible apply Keeps.fields
    | with_reducible rfl

theorem execRingFrameForward_keeps (x : Fin 2) (f : RFrame) (crcOk : Bool) (s : State)   : ∃ t, execRingFrameForward x f crcOk s = .next t ∧ Keeps eff s t := by
  delta execRingFrameForward
  try dsimp only
  refine ⟨_, rfl, ?_⟩
  repeat' first
    | with_reducible assumption
    | intro _
    | with_reducible exact Keeps.refl _
    | with_reducible apply Keeps.ite
    | with_reducible apply Keeps.foldl
    | with_reducible apply State.inc_keeps
    | with_reducible apply ringStart_keeps
    | with_reducible apply forward_keeps
    | split
    | with_reducible apply Keeps.fields
    | with_reducible rfl

theorem execJoinListenExpiry_keeps (heard : Bool) (s : State)   : ∃ t, execJoinListenExpiry heard s = .next t ∧ Keeps eff s t := by
  delta execJoinListenExpiry
  try dsimp only
  refine ⟨_, rfl, ?_⟩
  repeat' first
    | with_reducible assumption
    | intro _
    | with_reducible exact Keeps.refl _
    | with_reducible apply Keeps.ite
    | with_reducible apply Keeps.foldl
    | with_reducible apply State.modCsn_keeps
    | with_reducible apply csState_keeps
    | with_reducible apply ringStart_keeps
    | with_reducible apply ringTrain_keeps
    | split
    | with_reducible apply Keeps.fields
    | with_reducible rfl

theorem execRingRelock_keeps (epoch : BitVec 16) (s : State)   : ∃ t, execRingRelock epoch s = .next t ∧ Keeps eff s t := by
  delta execRingRelock
  try dsimp only
  refine ⟨_, rfl, ?_⟩
  repeat' first
    | with_reducible assumption
    | intro _
    | with_reducible exact Keeps.refl _
    | with_reducible apply Keeps.ite
    | with_reducible apply Keeps.foldl
    | with_reducible apply State.put_keeps
    | with_reducible apply State.each_keeps
    | with_reducible apply State.modCsn_keeps
    | with_reducible apply csState_keeps
    | with_reducible apply ringStart_keeps
    | with_reducible apply measure_keeps
    | split
    | with_reducible apply Keeps.fields
    | with_reducible rfl

theorem execRelockTimeout_keeps (s : State)   : ∃ t, execRelockTimeout s = .next t ∧ Keeps eff s t := by
  delta execRelockTimeout
  try dsimp only
  refine ⟨_, rfl, ?_⟩
  repeat' first
    | with_reducible assumption
    | intro _
    | with_reducible exact Keeps.refl _
    | with_reducible apply Keeps.ite
    | with_reducible apply Keeps.foldl
    | with_reducible apply State.put_keeps
    | with_reducible apply ringStart_keeps
    | with_reducible apply ringClose_keeps
    | split
    | with_reducible apply Keeps.fields
    | with_reducible rfl

theorem execLinkTrainStart_keeps (x : Fin 2) (s : State)   : ∃ t, execLinkTrainStart x s = .next t ∧ Keeps eff s t := by
  delta execLinkTrainStart
  try dsimp only
  refine ⟨_, rfl, ?_⟩
  repeat' first
    | with_reducible assumption
    | intro _
    | with_reducible exact Keeps.refl _
    | with_reducible apply Keeps.ite
    | with_reducible apply Keeps.foldl
    | with_reducible apply ringStart_keeps
    | with_reducible apply trainLink_keeps
    | split
    | with_reducible apply Keeps.fields
    | with_reducible rfl

theorem execLinkTrainStepDone_keeps (x : Fin 2) (v : Nat) (rt : List Nat) (s : State)   : ∃ t, execLinkTrainStepDone x v rt s = .next t ∧ Keeps eff s t := by
  delta execLinkTrainStepDone
  try dsimp only
  refine ⟨_, rfl, ?_⟩
  repeat' first
    | with_reducible assumption
    | intro _
    | with_reducible exact Keeps.refl _
    | with_reducible apply Keeps.ite
    | with_reducible apply Keeps.foldl
    | with_reducible apply ringStart_keeps
    | with_reducible apply stepDone_keeps
    | split
    | with_reducible apply Keeps.fields
    | with_reducible rfl

theorem execLinkTrainTimeout_keeps (x : Fin 2) (s : State)   : ∃ t, execLinkTrainTimeout x s = .next t ∧ Keeps eff s t := by
  delta execLinkTrainTimeout
  try dsimp only
  refine ⟨_, rfl, ?_⟩
  repeat' first
    | with_reducible assumption
    | intro _
    | with_reducible exact Keeps.refl _
    | with_reducible apply Keeps.ite
    | with_reducible apply Keeps.foldl
    | with_reducible apply ringStart_keeps
    | with_reducible apply stepTimeout_keeps
    | split
    | with_reducible apply Keeps.fields
    | with_reducible rfl

theorem execReceiverRelock_keeps (x : Fin 2) (s : State)   : ∃ t, execReceiverRelock x s = .next t ∧ Keeps eff s t := by
  delta execReceiverRelock
  try dsimp only
  refine ⟨_, rfl, ?_⟩
  repeat' first
    | with_reducible assumption
    | intro _
    | with_reducible exact Keeps.refl _
    | with_reducible apply Keeps.ite
    | with_reducible apply Keeps.foldl
    | with_reducible apply ringStart_keeps
    | with_reducible apply measure_keeps
    | split
    | with_reducible apply Keeps.fields
    | with_reducible rfl

theorem execProbe_keeps (x : Fin 2) (f : RFrame) (a : BitVec 64) (r : BitVec 32) (s : State)   : ∃ t, execProbe x f a r s = .next t ∧ Keeps eff s t := by
  delta execProbe
  try dsimp only
  refine ⟨_, rfl, ?_⟩
  repeat' first
    | with_reducible assumption
    | intro _
    | with_reducible exact Keeps.refl _
    | with_reducible apply Keeps.ite
    | with_reducible apply Keeps.foldl
    | with_reducible apply State.modCsn_keeps
    | with_reducible apply ringStart_keeps
    | with_reducible apply probeReply_keeps
    | split
    | with_reducible apply Keeps.fields
    | with_reducible rfl

theorem execRemeasure_keeps (x : Fin 2) (f : RFrame) (s : State)   : ∃ t, execRemeasure x f s = .next t ∧ Keeps eff s t := by
  delta execRemeasure
  try dsimp only
  refine ⟨_, rfl, ?_⟩
  repeat' first
    | with_reducible assumption
    | intro _
    | with_reducible exact Keeps.refl _
    | with_reducible apply Keeps.ite
    | with_reducible apply Keeps.foldl
    | with_reducible apply forward_keeps
    | with_reducible apply ringRecv_keeps
    | with_reducible apply measure_keeps
    | split
    | with_reducible apply Keeps.fields
    | with_reducible rfl

theorem execPause_keeps (x : Fin 2) (on : Bool) (s : State)   : ∃ t, execPause x on s = .next t ∧ Keeps eff s t := by
  delta execPause
  try dsimp only
  refine ⟨_, rfl, ?_⟩
  repeat' first
    | with_reducible assumption
    | intro _
    | with_reducible exact Keeps.refl _
    | with_reducible apply Keeps.ite
    | with_reducible apply Keeps.foldl
    | with_reducible apply ringStart_keeps
    | with_reducible apply pauseSet_keeps
    | split
    | with_reducible apply Keeps.fields
    | with_reducible rfl

theorem execEnumStart_keeps (s : State)   : ∃ t, execEnumStart s = .next t ∧ Keeps eff s t := by
  delta execEnumStart
  try dsimp only
  refine ⟨_, rfl, ?_⟩
  repeat' first
    | with_reducible assumption
    | intro _
    | with_reducible exact Keeps.refl _
    | with_reducible apply Keeps.ite
    | with_reducible apply Keeps.foldl
    | with_reducible apply ringStart_keeps
    | with_reducible apply enumStart_keeps
    | split
    | with_reducible apply Keeps.fields
    | with_reducible rfl

theorem execEnum_keeps (x : Fin 2) (f : RFrame) (s : State)   : ∃ t, execEnum x f s = .next t ∧ Keeps eff s t := by
  delta execEnum
  try dsimp only
  refine ⟨_, rfl, ?_⟩
  repeat' first
    | with_reducible assumption
    | intro _
    | with_reducible exact Keeps.refl _
    | with_reducible apply Keeps.ite
    | with_reducible apply Keeps.foldl
    | with_reducible apply ringRecv_keeps
    | with_reducible apply enumHead_keeps
    | with_reducible apply enumMember_keeps
    | split
    | with_reducible apply Keeps.fields
    | with_reducible rfl

theorem execRoster_keeps (x : Fin 2) (f : RFrame) (s : State)   : ∃ t, execRoster x f s = .next t ∧ Keeps eff s t := by
  delta execRoster
  try dsimp only
  refine ⟨_, rfl, ?_⟩
  repeat' first
    | with_reducible assumption
    | intro _
    | with_reducible exact Keeps.refl _
    | with_reducible apply Keeps.ite
    | with_reducible apply Keeps.foldl
    | with_reducible apply forward_keeps
    | with_reducible apply ringRecv_keeps
    | with_reducible apply rosterHead_keeps
    | split
    | with_reducible apply Keeps.fields
    | with_reducible rfl

theorem execEnumTimeout_keeps (s : State)   : ∃ t, execEnumTimeout s = .next t ∧ Keeps eff s t := by
  delta execEnumTimeout
  try dsimp only
  refine ⟨_, rfl, ?_⟩
  repeat' first
    | with_reducible assumption
    | intro _
    | with_reducible exact Keeps.refl _
    | with_reducible apply Keeps.ite
    | with_reducible apply Keeps.foldl
    | with_reducible apply ringStart_keeps
    | with_reducible apply sideEnd_keeps
    | split
    | with_reducible apply Keeps.fields
    | with_reducible rfl

theorem execEnumDone_keeps (x : Fin 2) (f : RFrame) (s : State)   : ∃ t, execEnumDone x f s = .next t ∧ Keeps eff s t := by
  delta execEnumDone
  try dsimp only
  refine ⟨_, rfl, ?_⟩
  repeat' first
    | with_reducible assumption
    | intro _
    | with_reducible exact Keeps.refl _
    | with_reducible apply Keeps.ite
    | with_reducible apply Keeps.foldl
    | with_reducible apply forward_keeps
    | with_reducible apply ringRecv_keeps
    | with_reducible apply enumDone_keeps
    | split
    | with_reducible apply Keeps.fields
    | with_reducible rfl

theorem execTimeLockTimeout_keeps (s : State)  (h_qmem : eff.qmem = true := by assumption) : ∃ t, execTimeLockTimeout s = .next t ∧ Keeps eff s t := by
  delta execTimeLockTimeout
  try dsimp only
  refine ⟨_, rfl, ?_⟩
  repeat' first
    | with_reducible assumption
    | intro _
    | with_reducible exact Keeps.refl _
    | with_reducible apply Keeps.ite
    | with_reducible apply Keeps.foldl
    | with_reducible apply State.put_keeps
    | with_reducible apply State.useFree_keeps
    | with_reducible apply csState_keeps
    | with_reducible apply ringStart_keeps
    | with_reducible apply sendAlarm_keeps
    | split
    | with_reducible apply Keeps.fields
    | with_reducible rfl

theorem execLinkDown_keeps (x : Fin 2) (cv : Bool) (s : State)  (h_qmem : eff.qmem = true := by assumption) : ∃ t, execLinkDown x cv s = .next t ∧ Keeps eff s t := by
  delta execLinkDown
  try dsimp only
  refine ⟨_, rfl, ?_⟩
  repeat' first
    | with_reducible assumption
    | intro _
    | with_reducible exact Keeps.refl _
    | with_reducible apply Keeps.ite
    | with_reducible apply Keeps.foldl
    | with_reducible apply ringStart_keeps
    | with_reducible apply linkDown_keeps
    | split
    | with_reducible apply Keeps.fields
    | with_reducible rfl

theorem execReroute_keeps (x : Fin 2) (f : RFrame) (s : State)   : ∃ t, execReroute x f s = .next t ∧ Keeps eff s t := by
  delta execReroute
  try dsimp only
  refine ⟨_, rfl, ?_⟩
  repeat' first
    | with_reducible assumption
    | intro _
    | with_reducible exact Keeps.refl _
    | with_reducible apply Keeps.ite
    | with_reducible apply Keeps.foldl
    | with_reducible apply forward_keeps
    | with_reducible apply ringRecv_keeps
    | with_reducible apply reroute_keeps
    | split
    | with_reducible apply Keeps.fields
    | with_reducible rfl

theorem execLinkUp_keeps (x : Fin 2) (farEpoch : BitVec 16) (s : State)  (h_qmem : eff.qmem = true := by assumption) : ∃ t, execLinkUp x farEpoch s = .next t ∧ Keeps eff s t := by
  delta execLinkUp
  try dsimp only
  refine ⟨_, rfl, ?_⟩
  repeat' first
    | with_reducible assumption
    | intro _
    | with_reducible exact Keeps.refl _
    | with_reducible apply Keeps.ite
    | with_reducible apply Keeps.foldl
    | with_reducible apply ringStart_keeps
    | with_reducible apply linkUpAgain_keeps
    | split
    | with_reducible apply Keeps.fields
    | with_reducible rfl

theorem execRetrain_keeps (r : Req) (w : Word) (s : State)   : ∃ t, execRetrain r w s = .next t ∧ Keeps eff s t := by
  delta execRetrain
  try dsimp only
  refine ⟨_, rfl, ?_⟩
  repeat' first
    | with_reducible assumption
    | intro _
    | with_reducible exact Keeps.refl _
    | with_reducible apply Keeps.ite
    | with_reducible apply Keeps.foldl
    | with_reducible apply regWrite_keeps
    | with_reducible apply ringStart_keeps
    | with_reducible apply csnCmdWrite_keeps
    | split
    | with_reducible apply Keeps.fields
    | with_reducible rfl

theorem execRetrainFrame_keeps (x : Fin 2) (f : RFrame) (s : State)   : ∃ t, execRetrainFrame x f s = .next t ∧ Keeps eff s t := by
  delta execRetrainFrame
  try dsimp only
  refine ⟨_, rfl, ?_⟩
  repeat' first
    | with_reducible assumption
    | intro _
    | with_reducible exact Keeps.refl _
    | with_reducible apply Keeps.ite
    | with_reducible apply Keeps.foldl
    | with_reducible apply State.modCsn_keeps
    | with_reducible apply ringStart_keeps
    | with_reducible apply forward_keeps
    | with_reducible apply ringRecv_keeps
    | split
    | with_reducible apply Keeps.fields
    | with_reducible rfl

theorem execRetrainExecute_keeps (s : State)   : ∃ t, execRetrainExecute s = .next t ∧ Keeps eff s t := by
  delta execRetrainExecute
  try dsimp only
  refine ⟨_, rfl, ?_⟩
  repeat' first
    | with_reducible assumption
    | intro _
    | with_reducible exact Keeps.refl _
    | with_reducible apply Keeps.ite
    | with_reducible apply Keeps.foldl
    | with_reducible apply State.modCsn_keeps
    | with_reducible apply ringStart_keeps
    | with_reducible apply ringClose_keeps
    | with_reducible apply ringTrain_keeps
    | split
    | with_reducible apply Keeps.fields
    | with_reducible rfl

theorem execRingTimeFrameSend_keeps (s : State)   : ∃ t, execRingTimeFrameSend s = .next t ∧ Keeps eff s t := by
  delta execRingTimeFrameSend
  try dsimp only
  refine ⟨_, rfl, ?_⟩
  repeat' first
    | with_reducible assumption
    | intro _
    | with_reducible exact Keeps.refl _
    | with_reducible apply Keeps.ite
    | with_reducible apply Keeps.foldl
    | with_reducible apply State.modTu_keeps
    | with_reducible apply State.modCsn_keeps
    | with_reducible apply ringStart_keeps
    | with_reducible apply sendBoth_keeps
    | split
    | with_reducible apply Keeps.fields
    | with_reducible rfl

theorem execRingTimeFrame_keeps (x : Fin 2) (f : RFrame) (frac : Byte) (delay : BitVec 32) (s : State)   : ∃ t, execRingTimeFrame x f frac delay s = .next t ∧ Keeps eff s t := by
  delta execRingTimeFrame
  try dsimp only
  refine ⟨_, rfl, ?_⟩
  repeat' first
    | with_reducible assumption
    | intro _
    | with_reducible exact Keeps.refl _
    | with_reducible apply Keeps.ite
    | with_reducible apply Keeps.foldl
    | with_reducible apply forward_keeps
    | with_reducible apply ringRecv_keeps
    | with_reducible apply timeSample_keeps
    | split
    | with_reducible apply Keeps.fields
    | with_reducible rfl

theorem execTokenCopySend_keeps (s : State)   : ∃ t, execTokenCopySend s = .next t ∧ Keeps eff s t := by
  delta execTokenCopySend
  try dsimp only
  refine ⟨_, rfl, ?_⟩
  repeat' first
    | with_reducible assumption
    | intro _
    | with_reducible exact Keeps.refl _
    | with_reducible apply Keeps.ite
    | with_reducible apply Keeps.foldl
    | with_reducible apply State.modTu_keeps
    | with_reducible apply ringStart_keeps
    | with_reducible apply sendBoth_keeps
    | split
    | with_reducible apply Keeps.fields
    | with_reducible rfl

theorem execRingTokenReceive_keeps (x : Fin 2) (f : RFrame) (s : State)  (h_qmem : eff.qmem = true := by assumption) : ∃ t, execRingTokenReceive x f s = .next t ∧ Keeps eff s t := by
  delta execRingTokenReceive
  try dsimp only
  refine ⟨_, rfl, ?_⟩
  repeat' first
    | with_reducible assumption
    | intro _
    | with_reducible exact Keeps.refl _
    | with_reducible apply Keeps.ite
    | with_reducible apply Keeps.foldl
    | with_reducible apply tokenReceive_keeps
    | with_reducible apply ringStart_keeps
    | with_reducible apply forward_keeps
    | with_reducible apply ringRecv_keeps
    | split
    | with_reducible apply Keeps.fields
    | with_reducible rfl

theorem execExportSend_keeps (s : State)  (h_qmem : eff.qmem = true := by assumption) : ∃ t, execExportSend s = .next t ∧ Keeps eff s t := by
  delta execExportSend
  try dsimp only
  refine ⟨_, rfl, ?_⟩
  repeat' first
    | with_reducible assumption
    | intro _
    | with_reducible exact Keeps.refl _
    | with_reducible apply Keeps.ite
    | with_reducible apply Keeps.foldl
    | with_reducible apply ringStart_keeps
    | with_reducible apply exportSend_keeps
    | split
    | with_reducible apply Keeps.fields
    | with_reducible rfl

theorem execExportReceive_keeps (x : Fin 2) (f : RFrame) (crcOk : Bool) (s : State)  (h_qmem : eff.qmem = true := by assumption) : ∃ t, execExportReceive x f crcOk s = .next t ∧ Keeps eff s t := by
  delta execExportReceive
  try dsimp only
  refine ⟨_, rfl, ?_⟩
  repeat' first
    | with_reducible assumption
    | intro _
    | with_reducible exact Keeps.refl _
    | with_reducible apply Keeps.ite
    | with_reducible apply Keeps.foldl
    | with_reducible apply State.inc_keeps
    | with_reducible apply ringStart_keeps
    | with_reducible apply forward_keeps
    | with_reducible apply exportHead_keeps
    | split
    | with_reducible apply Keeps.fields
    | with_reducible rfl

theorem execAlarmSend_keeps (s : State)  (h_qmem : eff.qmem = true := by assumption) : ∃ t, execAlarmSend s = .next t ∧ Keeps eff s t := by
  delta execAlarmSend
  try dsimp only
  refine ⟨_, rfl, ?_⟩
  repeat' first
    | with_reducible assumption
    | intro _
    | with_reducible exact Keeps.refl _
    | with_reducible apply Keeps.ite
    | with_reducible apply Keeps.foldl
    | with_reducible apply State.modCsn_keeps
    | with_reducible apply ringStart_keeps
    | with_reducible apply sendAlarm_keeps
    | split
    | with_reducible apply Keeps.fields
    | with_reducible rfl

theorem execAlarm_keeps (x : Fin 2) (f : RFrame) (s : State)  (h_qmem : eff.qmem = true := by assumption) : ∃ t, execAlarm x f s = .next t ∧ Keeps eff s t := by
  delta execAlarm
  try dsimp only
  refine ⟨_, rfl, ?_⟩
  repeat' first
    | with_reducible assumption
    | intro _
    | with_reducible exact Keeps.refl _
    | with_reducible apply Keeps.ite
    | with_reducible apply Keeps.foldl
    | with_reducible apply forward_keeps
    | with_reducible apply ringRecv_keeps
    | with_reducible apply alarmHead_keeps
    | split
    | with_reducible apply Keeps.fields
    | with_reducible rfl

theorem powerCmd_keeps (r : Req) (q : Nat) (s : State)  (h_qmem : eff.qmem = true := by assumption) (h_power : eff.power = true := by assumption) : ∃ t, powerCmd r q s = .next t ∧ Keeps eff s t := by
  delta powerCmd
  try dsimp only
  refine ⟨_, rfl, ?_⟩
  repeat' first
    | with_reducible assumption
    | intro _
    | with_reducible exact Keeps.refl _
    | with_reducible apply Keeps.ite
    | with_reducible apply Keeps.foldl
    | with_reducible apply regWrite_keeps
    | with_reducible apply powerReq_keeps
    | split
    | with_reducible apply Keeps.fields
    | with_reducible rfl

theorem execPowerReqRun_keeps (r : Req) (s : State)  (h_qmem : eff.qmem = true := by assumption) (h_power : eff.power = true := by assumption) : ∃ t, execPowerReqRun r s = .next t ∧ Keeps eff s t := by
  delta execPowerReqRun
  try dsimp only
  repeat' first
    | apply powerCmd_keeps
    | split
    | (refine ⟨_, rfl, ?_⟩)
    | with_reducible assumption
    | intro _
    | with_reducible exact Keeps.refl _
    | with_reducible apply Keeps.ite
    | with_reducible apply Keeps.foldl
    | split
    | with_reducible apply Keeps.fields
    | with_reducible rfl

theorem execPowerReqLean_keeps (r : Req) (s : State)  (h_qmem : eff.qmem = true := by assumption) (h_power : eff.power = true := by assumption) : ∃ t, execPowerReqLean r s = .next t ∧ Keeps eff s t := by
  delta execPowerReqLean
  try dsimp only
  repeat' first
    | apply powerCmd_keeps
    | split
    | (refine ⟨_, rfl, ?_⟩)
    | with_reducible assumption
    | intro _
    | with_reducible exact Keeps.refl _
    | with_reducible apply Keeps.ite
    | with_reducible apply Keeps.foldl
    | split
    | with_reducible apply Keeps.fields
    | with_reducible rfl

theorem execPowerReqDoze_keeps (r : Req) (s : State)  (h_qmem : eff.qmem = true := by assumption) (h_power : eff.power = true := by assumption) : ∃ t, execPowerReqDoze r s = .next t ∧ Keeps eff s t := by
  delta execPowerReqDoze
  try dsimp only
  repeat' first
    | apply powerCmd_keeps
    | split
    | (refine ⟨_, rfl, ?_⟩)
    | with_reducible assumption
    | intro _
    | with_reducible exact Keeps.refl _
    | with_reducible apply Keeps.ite
    | with_reducible apply Keeps.foldl
    | split
    | with_reducible apply Keeps.fields
    | with_reducible rfl

theorem execPowerReqSleep_keeps (r : Req) (s : State)  (h_qmem : eff.qmem = true := by assumption) (h_power : eff.power = true := by assumption) : ∃ t, execPowerReqSleep r s = .next t ∧ Keeps eff s t := by
  delta execPowerReqSleep
  try dsimp only
  repeat' first
    | apply powerCmd_keeps
    | split
    | (refine ⟨_, rfl, ?_⟩)
    | with_reducible assumption
    | intro _
    | with_reducible exact Keeps.refl _
    | with_reducible apply Keeps.ite
    | with_reducible apply Keeps.foldl
    | split
    | with_reducible apply Keeps.fields
    | with_reducible rfl

theorem execLeanSwitch_keeps (s : State)  (h_power : eff.power = true := by assumption) : ∃ t, execLeanSwitch s = .next t ∧ Keeps eff s t := by
  delta execLeanSwitch
  try dsimp only
  refine ⟨_, rfl, ?_⟩
  repeat' first
    | with_reducible assumption
    | intro _
    | with_reducible exact Keeps.refl _
    | with_reducible apply Keeps.ite
    | with_reducible apply Keeps.foldl
    | with_reducible apply leanSwitch_keeps
    | split
    | with_reducible apply Keeps.fields
    | with_reducible rfl

theorem execSleepEntry_keeps (s : State)  (h_qmem : eff.qmem = true := by assumption) (h_roles : eff.roles = true := by assumption) (h_power : eff.power = true := by assumption) : ∃ t, execSleepEntry s = .next t ∧ Keeps eff s t := by
  delta execSleepEntry
  try dsimp only
  refine ⟨_, rfl, ?_⟩
  repeat' first
    | with_reducible assumption
    | intro _
    | with_reducible exact Keeps.refl _
    | with_reducible apply Keeps.ite
    | with_reducible apply Keeps.foldl
    | with_reducible apply enterSleep_keeps
    | split
    | with_reducible apply Keeps.fields
    | with_reducible rfl

theorem execSleepEntryTimeout_keeps (s : State)   : ∃ t, execSleepEntryTimeout s = .next t ∧ Keeps eff s t := by
  delta execSleepEntryTimeout
  try dsimp only
  refine ⟨_, rfl, ?_⟩
  repeat' first
    | with_reducible assumption
    | intro _
    | with_reducible exact Keeps.refl _
    | with_reducible apply Keeps.ite
    | with_reducible apply Keeps.foldl
    | with_reducible apply State.modPw_fields
    | with_reducible apply powerResult_keeps
    | split
    | with_reducible apply Keeps.fields
    | with_reducible rfl

theorem execIdleSleepReturn_keeps (s : State)  (h_qmem : eff.qmem = true := by assumption) (h_roles : eff.roles = true := by assumption) (h_power : eff.power = true := by assumption) : ∃ t, execIdleSleepReturn s = .next t ∧ Keeps eff s t := by
  delta execIdleSleepReturn
  try dsimp only
  refine ⟨_, rfl, ?_⟩
  repeat' first
    | with_reducible assumption
    | intro _
    | with_reducible exact Keeps.refl _
    | with_reducible apply Keeps.ite
    | with_reducible apply Keeps.foldl
    | with_reducible apply enterSleep_keeps
    | split
    | with_reducible apply Keeps.fields
    | with_reducible rfl

theorem execWakeLandEdge_keeps (rising : Bool) (s : State)  (h_power : eff.power = true := by assumption) : ∃ t, execWakeLandEdge rising s = .next t ∧ Keeps eff s t := by
  delta execWakeLandEdge
  try dsimp only
  refine ⟨_, rfl, ?_⟩
  repeat' first
    | with_reducible assumption
    | intro _
    | with_reducible exact Keeps.refl _
    | with_reducible apply Keeps.ite
    | with_reducible apply Keeps.foldl
    | with_reducible apply noteWake_keeps
    | split
    | with_reducible apply Keeps.fields
    | with_reducible rfl

theorem execSleepWake_keeps (s : State)  (h_qmem : eff.qmem = true := by assumption) (h_power : eff.power = true := by assumption) : ∃ t, execSleepWake s = .next t ∧ Keeps eff s t := by
  delta execSleepWake
  try dsimp only
  refine ⟨_, rfl, ?_⟩
  repeat' first
    | with_reducible assumption
    | intro _
    | with_reducible exact Keeps.refl _
    | with_reducible apply Keeps.ite
    | with_reducible apply Keeps.foldl
    | with_reducible apply sleepWake_keeps
    | split
    | with_reducible apply Keeps.fields
    | with_reducible rfl

theorem execWakeComplete_keeps (s : State)  (h_power : eff.power = true := by assumption) : ∃ t, execWakeComplete s = .next t ∧ Keeps eff s t := by
  delta execWakeComplete
  try dsimp only
  refine ⟨_, rfl, ?_⟩
  repeat' first
    | with_reducible assumption
    | intro _
    | with_reducible exact Keeps.refl _
    | with_reducible apply Keeps.ite
    | with_reducible apply Keeps.foldl
    | with_reducible apply wakeComplete_keeps
    | split
    | with_reducible apply Keeps.fields
    | with_reducible rfl

theorem execTileLinkTrained_keeps (t0 : Fin 16) (d : Dom) (s : State)  (h_power : eff.power = true := by assumption) : ∃ t, execTileLinkTrained t0 d s = .next t ∧ Keeps eff s t := by
  delta execTileLinkTrained
  try dsimp only
  refine ⟨_, rfl, ?_⟩
  repeat' first
    | with_reducible assumption
    | intro _
    | with_reducible exact Keeps.refl _
    | with_reducible apply Keeps.ite
    | with_reducible apply Keeps.foldl
    | with_reducible apply linkTrained_keeps
    | split
    | with_reducible apply Keeps.fields
    | with_reducible rfl

theorem execTileFeedChange_keeps (t0 : Fin 16) (second : Bool) (ok : Bool) (carry : Fin 4) (s : State)  (h_qmem : eff.qmem = true := by assumption) : ∃ t, execTileFeedChange t0 second ok carry s = .next t ∧ Keeps eff s t := by
  delta execTileFeedChange
  try dsimp only
  refine ⟨_, rfl, ?_⟩
  repeat' first
    | with_reducible assumption
    | intro _
    | with_reducible exact Keeps.refl _
    | with_reducible apply Keeps.ite
    | with_reducible apply Keeps.foldl
    | with_reducible apply feedChange_keeps
    | split
    | with_reducible apply Keeps.fields
    | with_reducible rfl

theorem execTilePowerLoss_keeps (t0 : Fin 16) (s : State)  (h_qmem : eff.qmem = true := by assumption) : ∃ t, execTilePowerLoss t0 s = .next t ∧ Keeps eff s t := by
  delta execTilePowerLoss
  try dsimp only
  refine ⟨_, rfl, ?_⟩
  repeat' first
    | with_reducible assumption
    | intro _
    | with_reducible exact Keeps.refl _
    | with_reducible apply Keeps.ite
    | with_reducible apply Keeps.foldl
    | with_reducible apply powerLoss_keeps
    | split
    | with_reducible apply Keeps.fields
    | with_reducible rfl

theorem execTileFrameReceive_keeps (t0 : Fin 16) (d : Dom) (e : BitVec 16) (s : State)   : ∃ t, execTileFrameReceive t0 d e s = .next t ∧ Keeps eff s t := by
  delta execTileFrameReceive
  try dsimp only
  refine ⟨_, rfl, ?_⟩
  repeat' first
    | with_reducible assumption
    | intro _
    | with_reducible exact Keeps.refl _
    | with_reducible apply Keeps.ite
    | with_reducible apply Keeps.foldl
    | with_reducible apply frameReceive_keeps
    | split
    | with_reducible apply Keeps.fields
    | with_reducible rfl

theorem execTileClockSourceSwitch_keeps (t0 : Fin 16) (s : State)   : ∃ t, execTileClockSourceSwitch t0 s = .next t ∧ Keeps eff s t := by
  delta execTileClockSourceSwitch
  try dsimp only
  refine ⟨_, rfl, ?_⟩
  repeat' first
    | with_reducible assumption
    | intro _
    | with_reducible exact Keeps.refl _
    | with_reducible apply Keeps.ite
    | with_reducible apply Keeps.foldl
    | with_reducible apply State.modTile_keeps
    | split
    | with_reducible apply Keeps.fields
    | with_reducible rfl

theorem execTileRst_keeps (r : Req) (t1 : Fin 16) (key : BitVec 16) (s : State)  (h_qmem : eff.qmem = true := by assumption) : ∃ t, execTileRst r t1 key s = .next t ∧ Keeps eff s t := by
  delta execTileRst
  try dsimp only
  refine ⟨_, rfl, ?_⟩
  repeat' first
    | with_reducible assumption
    | intro _
    | with_reducible exact Keeps.refl _
    | with_reducible apply Keeps.ite
    | with_reducible apply Keeps.foldl
    | with_reducible apply regWrite_keeps
    | with_reducible apply tileRstWrite_keeps
    | split
    | with_reducible apply Keeps.fields
    | with_reducible rfl

theorem execCold_keeps (r : Req) (key : BitVec 16) (s : State)  (h_otp : eff.otp = true := by assumption) (h_flash : eff.flash = true := by assumption) (h_qmem : eff.qmem = true := by assumption) (h_roles : eff.roles = true := by assumption) (h_power : eff.power = true := by assumption) : ∃ t, execCold r key s = .next t ∧ Keeps eff s t := by
  delta execCold
  try dsimp only
  refine ⟨_, rfl, ?_⟩
  repeat' first
    | with_reducible assumption
    | intro _
    | with_reducible exact Keeps.refl _
    | with_reducible apply Keeps.ite
    | with_reducible apply Keeps.foldl
    | with_reducible apply regWrite_keeps
    | with_reducible apply resetWrite_keeps
    | split
    | with_reducible apply Keeps.fields
    | with_reducible rfl

theorem execWarm_keeps (r : Req) (key : BitVec 16) (s : State)  (h_otp : eff.otp = true := by assumption) (h_flash : eff.flash = true := by assumption) (h_qmem : eff.qmem = true := by assumption) (h_roles : eff.roles = true := by assumption) (h_power : eff.power = true := by assumption) : ∃ t, execWarm r key s = .next t ∧ Keeps eff s t := by
  delta execWarm
  try dsimp only
  refine ⟨_, rfl, ?_⟩
  repeat' first
    | with_reducible assumption
    | intro _
    | with_reducible exact Keeps.refl _
    | with_reducible apply Keeps.ite
    | with_reducible apply Keeps.foldl
    | with_reducible apply regWrite_keeps
    | with_reducible apply resetWrite_keeps
    | split
    | with_reducible apply Keeps.fields
    | with_reducible rfl

theorem execResetN_keeps (s : State)  (h_otp : eff.otp = true := by assumption) (h_flash : eff.flash = true := by assumption) (h_qmem : eff.qmem = true := by assumption) (h_roles : eff.roles = true := by assumption) (h_power : eff.power = true := by assumption) : ∃ t, execResetN s = .next t ∧ Keeps eff s t := by
  delta execResetN
  try dsimp only
  refine ⟨_, rfl, ?_⟩
  repeat' first
    | with_reducible assumption
    | intro _
    | with_reducible exact Keeps.refl _
    | with_reducible apply Keeps.ite
    | with_reducible apply Keeps.foldl
    | with_reducible apply coldReset_keeps
    | split
    | with_reducible apply Keeps.fields
    | with_reducible rfl

theorem execPowerOn_keeps (a : Bool) (b : Bool) (s : State)  (h_qmem : eff.qmem = true := by assumption) (h_roles : eff.roles = true := by assumption) (h_power : eff.power = true := by assumption) : ∃ t, execPowerOn a b s = .next t ∧ Keeps eff s t := by
  delta execPowerOn
  try dsimp only
  refine ⟨_, rfl, ?_⟩
  repeat' first
    | with_reducible assumption
    | intro _
    | with_reducible exact Keeps.refl _
    | with_reducible apply Keeps.ite
    | with_reducible apply Keeps.foldl
    | with_reducible apply powerOn_keeps
    | split
    | with_reducible apply Keeps.fields
    | with_reducible rfl

theorem execDomainRelease_keeps (a : Bool) (b : Bool) (s : State)  (h_roles : eff.roles = true := by assumption) : ∃ t, execDomainRelease a b s = .next t ∧ Keeps eff s t := by
  delta execDomainRelease
  try dsimp only
  refine ⟨_, rfl, ?_⟩
  repeat' first
    | with_reducible assumption
    | intro _
    | with_reducible exact Keeps.refl _
    | with_reducible apply Keeps.ite
    | with_reducible apply Keeps.foldl
    | with_reducible apply State.modSv_fields
    | with_reducible apply State.put_keeps
    | with_reducible apply State.modSv_keeps
    | with_reducible apply domainRelease_keeps
    | split
    | with_reducible apply Keeps.fields
    | with_reducible rfl
    | (cases ‹Dom› <;> rfl)

theorem execScheduleFire_keeps (j : Fin 16) (s : State)  (h_qmem : eff.qmem = true := by assumption) (h_power : eff.power = true := by assumption) : ∃ t, execScheduleFire j s = .next t ∧ Keeps eff s t := by
  delta execScheduleFire
  try dsimp only
  refine ⟨_, rfl, ?_⟩
  repeat' first
    | with_reducible assumption
    | intro _
    | with_reducible exact Keeps.refl _
    | with_reducible apply Keeps.ite
    | with_reducible apply Keeps.foldl
    | with_reducible apply schFire_keeps
    | split
    | with_reducible apply Keeps.fields
    | with_reducible rfl

theorem execLogicFeedLoss_keeps (d : Dom) (s : State)  (h_otp : eff.otp = true := by assumption) (h_flash : eff.flash = true := by assumption) (h_qmem : eff.qmem = true := by assumption) (h_roles : eff.roles = true := by assumption) (h_power : eff.power = true := by assumption) : ∃ t, execLogicFeedLoss d s = .next t ∧ Keeps eff s t := by
  delta execLogicFeedLoss
  try dsimp only
  refine ⟨_, rfl, ?_⟩
  repeat' first
    | with_reducible assumption
    | intro _
    | with_reducible exact Keeps.refl _
    | with_reducible apply Keeps.ite
    | with_reducible apply Keeps.foldl
    | with_reducible apply State.modSv_fields
    | with_reducible apply State.modSv_keeps
    | with_reducible apply noDomain_keeps
    | with_reducible apply verdict_keeps
    | split
    | with_reducible apply Keeps.fields
    | with_reducible rfl
    | (cases ‹Dom› <;> rfl)

theorem execClockMonitorTrip_keeps (d : Dom) (s : State)  (h_otp : eff.otp = true := by assumption) (h_flash : eff.flash = true := by assumption) (h_qmem : eff.qmem = true := by assumption) (h_roles : eff.roles = true := by assumption) (h_power : eff.power = true := by assumption) : ∃ t, execClockMonitorTrip d s = .next t ∧ Keeps eff s t := by
  delta execClockMonitorTrip
  try dsimp only
  refine ⟨_, rfl, ?_⟩
  repeat' first
    | with_reducible assumption
    | intro _
    | with_reducible exact Keeps.refl _
    | with_reducible apply Keeps.ite
    | with_reducible apply Keeps.foldl
    | with_reducible apply State.modPw_fields
    | with_reducible apply startFail_keeps
    | with_reducible apply verdict_keeps
    | split
    | with_reducible apply Keeps.fields
    | with_reducible rfl

theorem execHeartbeatMiss_keeps (d : Dom) (s : State)  (h_otp : eff.otp = true := by assumption) (h_flash : eff.flash = true := by assumption) (h_qmem : eff.qmem = true := by assumption) (h_roles : eff.roles = true := by assumption) (h_power : eff.power = true := by assumption) : ∃ t, execHeartbeatMiss d s = .next t ∧ Keeps eff s t := by
  delta execHeartbeatMiss
  try dsimp only
  refine ⟨_, rfl, ?_⟩
  repeat' first
    | with_reducible assumption
    | intro _
    | with_reducible exact Keeps.refl _
    | with_reducible apply Keeps.ite
    | with_reducible apply Keeps.foldl
    | with_reducible apply verdict_keeps
    | split
    | with_reducible apply Keeps.fields
    | with_reducible rfl

theorem execSelfcheckReport_keeps (d : Dom) (ecc : Bool) (s : State)  (h_otp : eff.otp = true := by assumption) (h_flash : eff.flash = true := by assumption) (h_qmem : eff.qmem = true := by assumption) (h_roles : eff.roles = true := by assumption) (h_power : eff.power = true := by assumption) : ∃ t, execSelfcheckReport d ecc s = .next t ∧ Keeps eff s t := by
  delta execSelfcheckReport
  try dsimp only
  refine ⟨_, rfl, ?_⟩
  repeat' first
    | with_reducible assumption
    | intro _
    | with_reducible exact Keeps.refl _
    | with_reducible apply Keeps.ite
    | with_reducible apply Keeps.foldl
    | with_reducible apply verdict_keeps
    | split
    | with_reducible apply Keeps.fields
    | with_reducible rfl

theorem execDigestForm_keeps (d : Dom) (diff : BitVec 32) (bad : BitVec 16) (s : State)   : ∃ t, execDigestForm d diff bad s = .next t ∧ Keeps eff s t := by
  delta execDigestForm
  try dsimp only
  refine ⟨_, rfl, ?_⟩
  repeat' first
    | with_reducible assumption
    | intro _
    | with_reducible exact Keeps.refl _
    | with_reducible apply Keeps.ite
    | with_reducible apply Keeps.foldl
    | with_reducible apply digestForm_keeps
    | split
    | with_reducible apply Keeps.fields
    | with_reducible rfl

theorem execDigestCompare_keeps (s : State)   : ∃ t, execDigestCompare s = .next t ∧ Keeps eff s t := by
  delta execDigestCompare
  try dsimp only
  refine ⟨_, rfl, ?_⟩
  repeat' first
    | with_reducible assumption
    | intro _
    | with_reducible exact Keeps.refl _
    | with_reducible apply Keeps.ite
    | with_reducible apply Keeps.foldl
    | with_reducible apply digestCompare_keeps
    | split
    | with_reducible apply Keeps.fields
    | with_reducible rfl

theorem execSelfcheckDone_keeps (failA : Bool) (failB : Bool) (s : State)  (h_otp : eff.otp = true := by assumption) (h_flash : eff.flash = true := by assumption) (h_qmem : eff.qmem = true := by assumption) (h_roles : eff.roles = true := by assumption) (h_power : eff.power = true := by assumption) : ∃ t, execSelfcheckDone failA failB s = .next t ∧ Keeps eff s t := by
  delta execSelfcheckDone
  try dsimp only
  refine ⟨_, rfl, ?_⟩
  repeat' first
    | with_reducible assumption
    | intro _
    | with_reducible exact Keeps.refl _
    | with_reducible apply Keeps.ite
    | with_reducible apply Keeps.foldl
    | with_reducible apply selfcheckDone_keeps
    | split
    | with_reducible apply Keeps.fields
    | with_reducible rfl

theorem execDisagreeClear_keeps (s : State)  (h_qmem : eff.qmem = true := by assumption) : ∃ t, execDisagreeClear s = .next t ∧ Keeps eff s t := by
  delta execDisagreeClear
  try dsimp only
  refine ⟨_, rfl, ?_⟩
  repeat' first
    | with_reducible assumption
    | intro _
    | with_reducible exact Keeps.refl _
    | with_reducible apply Keeps.ite
    | with_reducible apply Keeps.foldl
    | with_reducible apply State.put_keeps
    | with_reducible apply svRecord_keeps
    | split
    | with_reducible apply Keeps.fields
    | with_reducible rfl

theorem execArbiterHeartbeatLoss_keeps (s : State)  (h_qmem : eff.qmem = true := by assumption) : ∃ t, execArbiterHeartbeatLoss s = .next t ∧ Keeps eff s t := by
  delta execArbiterHeartbeatLoss
  try dsimp only
  refine ⟨_, rfl, ?_⟩
  repeat' first
    | with_reducible assumption
    | intro _
    | with_reducible exact Keeps.refl _
    | with_reducible apply Keeps.ite
    | with_reducible apply Keeps.foldl
    | with_reducible apply State.set1_keeps
    | with_reducible apply svRecord_keeps
    | split
    | with_reducible apply Keeps.fields
    | with_reducible rfl

theorem execArbiterHeartbeatReturn_keeps (s : State)  (h_qmem : eff.qmem = true := by assumption) : ∃ t, execArbiterHeartbeatReturn s = .next t ∧ Keeps eff s t := by
  delta execArbiterHeartbeatReturn
  try dsimp only
  refine ⟨_, rfl, ?_⟩
  repeat' first
    | with_reducible assumption
    | intro _
    | with_reducible exact Keeps.refl _
    | with_reducible apply Keeps.ite
    | with_reducible apply Keeps.foldl
    | with_reducible apply State.put_keeps
    | with_reducible apply svRecord_keeps
    | split
    | with_reducible apply Keeps.fields
    | with_reducible rfl

theorem execTileLinkLoss_keeps (t0 : Fin 16) (d : Dom) (s : State)   : ∃ t, execTileLinkLoss t0 d s = .next t ∧ Keeps eff s t := by
  delta execTileLinkLoss
  try dsimp only
  refine ⟨_, rfl, ?_⟩
  repeat' first
    | with_reducible assumption
    | intro _
    | with_reducible exact Keeps.refl _
    | with_reducible apply Keeps.ite
    | with_reducible apply Keeps.foldl
    | with_reducible apply linkLoss_keeps
    | split
    | with_reducible apply Keeps.fields
    | with_reducible rfl

theorem execTileLinkRetry_keeps (t0 : Fin 16) (d : Dom) (s : State)  (h_otp : eff.otp = true := by assumption) (h_flash : eff.flash = true := by assumption) (h_qmem : eff.qmem = true := by assumption) (h_roles : eff.roles = true := by assumption) (h_power : eff.power = true := by assumption) : ∃ t, execTileLinkRetry t0 d s = .next t ∧ Keeps eff s t := by
  delta execTileLinkRetry
  try dsimp only
  refine ⟨_, rfl, ?_⟩
  repeat' first
    | with_reducible assumption
    | intro _
    | with_reducible exact Keeps.refl _
    | with_reducible apply Keeps.ite
    | with_reducible apply Keeps.foldl
    | with_reducible apply linkRetry_keeps
    | split
    | with_reducible apply Keeps.fields
    | with_reducible rfl

theorem execScrub_keeps (d : Dom) (m : Fin 4) (a : Word) (err : Fin 3) (pass : Bool) (s : State)  (h_otp : eff.otp = true := by assumption) (h_flash : eff.flash = true := by assumption) (h_qmem : eff.qmem = true := by assumption) (h_roles : eff.roles = true := by assumption) (h_power : eff.power = true := by assumption) : ∃ t, execScrub d m a err pass s = .next t ∧ Keeps eff s t := by
  delta execScrub
  try dsimp only
  refine ⟨_, rfl, ?_⟩
  repeat' first
    | with_reducible assumption
    | intro _
    | with_reducible exact Keeps.refl _
    | with_reducible apply Keeps.ite
    | with_reducible apply Keeps.foldl
    | with_reducible apply scrub_keeps
    | split
    | with_reducible apply Keeps.fields
    | with_reducible rfl

theorem execBankMarch_keeps (bad : Bool) (s : State)  (h_otp : eff.otp = true := by assumption) (h_flash : eff.flash = true := by assumption) (h_qmem : eff.qmem = true := by assumption) (h_roles : eff.roles = true := by assumption) (h_power : eff.power = true := by assumption) : ∃ t, execBankMarch bad s = .next t ∧ Keeps eff s t := by
  delta execBankMarch
  try dsimp only
  refine ⟨_, rfl, ?_⟩
  repeat' first
    | with_reducible assumption
    | intro _
    | with_reducible exact Keeps.refl _
    | with_reducible apply Keeps.ite
    | with_reducible apply Keeps.foldl
    | with_reducible apply State.modSv_fields
    | with_reducible apply State.modSv_keeps
    | with_reducible apply standbyFails_keeps
    | split
    | with_reducible apply Keeps.fields
    | with_reducible rfl

theorem execLogicSliceTest_keeps (ok : Bool) (s : State)  (h_otp : eff.otp = true := by assumption) (h_flash : eff.flash = true := by assumption) (h_qmem : eff.qmem = true := by assumption) (h_roles : eff.roles = true := by assumption) (h_power : eff.power = true := by assumption) : ∃ t, execLogicSliceTest ok s = .next t ∧ Keeps eff s t := by
  delta execLogicSliceTest
  try dsimp only
  refine ⟨_, rfl, ?_⟩
  repeat' first
    | with_reducible assumption
    | intro _
    | with_reducible exact Keeps.refl _
    | with_reducible apply Keeps.ite
    | with_reducible apply Keeps.foldl
    | with_reducible apply State.modSv_fields
    | with_reducible apply State.modSv_keeps
    | with_reducible apply standbyFails_keeps
    | split
    | with_reducible apply Keeps.fields
    | with_reducible rfl

theorem execCanLoopbackTest_keeps (ok : Bool) (s : State)  (h_otp : eff.otp = true := by assumption) (h_flash : eff.flash = true := by assumption) (h_qmem : eff.qmem = true := by assumption) (h_roles : eff.roles = true := by assumption) (h_power : eff.power = true := by assumption) : ∃ t, execCanLoopbackTest ok s = .next t ∧ Keeps eff s t := by
  delta execCanLoopbackTest
  try dsimp only
  refine ⟨_, rfl, ?_⟩
  repeat' first
    | with_reducible assumption
    | intro _
    | with_reducible exact Keeps.refl _
    | with_reducible apply Keeps.ite
    | with_reducible apply Keeps.foldl
    | with_reducible apply State.modSv_fields
    | with_reducible apply State.modSv_keeps
    | with_reducible apply standbyFails_keeps
    | split
    | with_reducible apply Keeps.fields
    | with_reducible rfl

theorem execBurgee_keeps (temps : Word) (s : State)  (h_qmem : eff.qmem = true := by assumption) : ∃ t, execBurgee temps s = .next t ∧ Keeps eff s t := by
  delta execBurgee
  try dsimp only
  refine ⟨_, rfl, ?_⟩
  repeat' first
    | with_reducible assumption
    | intro _
    | with_reducible exact Keeps.refl _
    | with_reducible apply Keeps.ite
    | with_reducible apply Keeps.foldl
    | with_reducible apply burgee_keeps
    | split
    | with_reducible apply Keeps.fields
    | with_reducible rfl

theorem execWdogService_keeps (r : Req) (s : State)  (h_qmem : eff.qmem = true := by assumption) : ∃ t, execWdogService r s = .next t ∧ Keeps eff s t := by
  delta execWdogService
  try dsimp only
  refine ⟨_, rfl, ?_⟩
  repeat' first
    | with_reducible assumption
    | intro _
    | with_reducible exact Keeps.refl _
    | with_reducible apply Keeps.ite
    | with_reducible apply Keeps.foldl
    | with_reducible apply regWrite_keeps
    | with_reducible apply wdogServe_keeps
    | split
    | with_reducible apply Keeps.fields
    | with_reducible rfl

theorem execWdogExpiry_keeps (s : State)  (h_qmem : eff.qmem = true := by assumption) : ∃ t, execWdogExpiry s = .next t ∧ Keeps eff s t := by
  delta execWdogExpiry
  try dsimp only
  refine ⟨_, rfl, ?_⟩
  repeat' first
    | with_reducible assumption
    | intro _
    | with_reducible exact Keeps.refl _
    | with_reducible apply Keeps.ite
    | with_reducible apply Keeps.foldl
    | with_reducible apply wdogExpiry_keeps
    | split
    | with_reducible apply Keeps.fields
    | with_reducible rfl

theorem svCmd_keeps (r : Req) (op : Nat) (t2 : Nat) (s : State)  (h_qmem : eff.qmem = true := by assumption) (h_roles : eff.roles = true := by assumption) : ∃ t, svCmd r op t2 s = .next t ∧ Keeps eff s t := by
  delta svCmd
  try dsimp only
  refine ⟨_, rfl, ?_⟩
  repeat' first
    | with_reducible assumption
    | intro _
    | with_reducible exact Keeps.refl _
    | with_reducible apply Keeps.ite
    | with_reducible apply Keeps.foldl
    | with_reducible apply regWrite_keeps
    | with_reducible apply svCmdWrite_keeps
    | split
    | with_reducible apply Keeps.fields
    | with_reducible rfl

theorem execSwitch_keeps (r : Req) (s : State)  (h_qmem : eff.qmem = true := by assumption) (h_roles : eff.roles = true := by assumption) : ∃ t, execSwitch r s = .next t ∧ Keeps eff s t := by
  delta execSwitch
  try dsimp only
  repeat' first
    | apply svCmd_keeps
    | split
    | (refine ⟨_, rfl, ?_⟩)
    | with_reducible assumption
    | intro _
    | with_reducible exact Keeps.refl _
    | with_reducible apply Keeps.ite
    | with_reducible apply Keeps.foldl
    | split
    | with_reducible apply Keeps.fields
    | with_reducible rfl

theorem execDomtest_keeps (r : Req) (s : State)  (h_qmem : eff.qmem = true := by assumption) (h_roles : eff.roles = true := by assumption) : ∃ t, execDomtest r s = .next t ∧ Keeps eff s t := by
  delta execDomtest
  try dsimp only
  repeat' first
    | apply svCmd_keeps
    | split
    | (refine ⟨_, rfl, ?_⟩)
    | with_reducible assumption
    | intro _
    | with_reducible exact Keeps.refl _
    | with_reducible apply Keeps.ite
    | with_reducible apply Keeps.foldl
    | split
    | with_reducible apply Keeps.fields
    | with_reducible rfl

theorem execFeedtest_keeps (r : Req) (t1 : Fin 16) (s : State)  (h_qmem : eff.qmem = true := by assumption) (h_roles : eff.roles = true := by assumption) : ∃ t, execFeedtest r t1 s = .next t ∧ Keeps eff s t := by
  delta execFeedtest
  try dsimp only
  repeat' first
    | apply svCmd_keeps
    | split
    | (refine ⟨_, rfl, ?_⟩)
    | with_reducible assumption
    | intro _
    | with_reducible exact Keeps.refl _
    | with_reducible apply Keeps.ite
    | with_reducible apply Keeps.foldl
    | split
    | with_reducible apply Keeps.fields
    | with_reducible rfl

theorem execLinktrain_keeps (r : Req) (t1 : Fin 16) (s : State)  (h_qmem : eff.qmem = true := by assumption) (h_roles : eff.roles = true := by assumption) : ∃ t, execLinktrain r t1 s = .next t ∧ Keeps eff s t := by
  delta execLinktrain
  try dsimp only
  repeat' first
    | apply svCmd_keeps
    | split
    | (refine ⟨_, rfl, ?_⟩)
    | with_reducible assumption
    | intro _
    | with_reducible exact Keeps.refl _
    | with_reducible apply Keeps.ite
    | with_reducible apply Keeps.foldl
    | split
    | with_reducible apply Keeps.fields
    | with_reducible rfl

theorem execNvmwrite_keeps (r : Req) (s : State)  (h_qmem : eff.qmem = true := by assumption) (h_roles : eff.roles = true := by assumption) : ∃ t, execNvmwrite r s = .next t ∧ Keeps eff s t := by
  delta execNvmwrite
  try dsimp only
  repeat' first
    | apply svCmd_keeps
    | split
    | (refine ⟨_, rfl, ?_⟩)
    | with_reducible assumption
    | intro _
    | with_reducible exact Keeps.refl _
    | with_reducible apply Keeps.ite
    | with_reducible apply Keeps.foldl
    | split
    | with_reducible apply Keeps.fields
    | with_reducible rfl

theorem execRelease_keeps (r : Req) (s : State)  (h_qmem : eff.qmem = true := by assumption) (h_roles : eff.roles = true := by assumption) : ∃ t, execRelease r s = .next t ∧ Keeps eff s t := by
  delta execRelease
  try dsimp only
  repeat' first
    | apply svCmd_keeps
    | split
    | (refine ⟨_, rfl, ?_⟩)
    | with_reducible assumption
    | intro _
    | with_reducible exact Keeps.refl _
    | with_reducible apply Keeps.ite
    | with_reducible apply Keeps.foldl
    | split
    | with_reducible apply Keeps.fields
    | with_reducible rfl

theorem execRejoin_keeps (r : Req) (s : State)  (h_qmem : eff.qmem = true := by assumption) (h_roles : eff.roles = true := by assumption) : ∃ t, execRejoin r s = .next t ∧ Keeps eff s t := by
  delta execRejoin
  try dsimp only
  repeat' first
    | apply svCmd_keeps
    | split
    | (refine ⟨_, rfl, ?_⟩)
    | with_reducible assumption
    | intro _
    | with_reducible exact Keeps.refl _
    | with_reducible apply Keeps.ite
    | with_reducible apply Keeps.foldl
    | split
    | with_reducible apply Keeps.fields
    | with_reducible rfl

theorem execDomtestEnd_keeps (ok : Bool) (s : State)  (h_otp : eff.otp = true := by assumption) (h_flash : eff.flash = true := by assumption) (h_qmem : eff.qmem = true := by assumption) (h_roles : eff.roles = true := by assumption) (h_power : eff.power = true := by assumption) : ∃ t, execDomtestEnd ok s = .next t ∧ Keeps eff s t := by
  delta execDomtestEnd
  try dsimp only
  refine ⟨_, rfl, ?_⟩
  repeat' first
    | with_reducible assumption
    | intro _
    | with_reducible exact Keeps.refl _
    | with_reducible apply Keeps.ite
    | with_reducible apply Keeps.foldl
    | with_reducible apply domtestEnd_keeps
    | split
    | with_reducible apply Keeps.fields
    | with_reducible rfl

theorem execFeedtestSchedule_keeps (s : State)  (h_qmem : eff.qmem = true := by assumption) : ∃ t, execFeedtestSchedule s = .next t ∧ Keeps eff s t := by
  delta execFeedtestSchedule
  try dsimp only
  refine ⟨_, rfl, ?_⟩
  repeat' first
    | with_reducible assumption
    | intro _
    | with_reducible exact Keeps.refl _
    | with_reducible apply Keeps.ite
    | with_reducible apply Keeps.foldl
    | with_reducible apply feedSchedule_keeps
    | split
    | with_reducible apply Keeps.fields
    | with_reducible rfl

theorem execFeedtestEnd_keeps (ok : Bool) (second : Bool) (s : State)  (h_qmem : eff.qmem = true := by assumption) : ∃ t, execFeedtestEnd ok second s = .next t ∧ Keeps eff s t := by
  delta execFeedtestEnd
  try dsimp only
  refine ⟨_, rfl, ?_⟩
  repeat' first
    | with_reducible assumption
    | intro _
    | with_reducible exact Keeps.refl _
    | with_reducible apply Keeps.ite
    | with_reducible apply Keeps.foldl
    | with_reducible apply feedtestEnd_keeps
    | split
    | with_reducible apply Keeps.fields
    | with_reducible rfl

theorem execHalyardImmediate_keeps (s : State)   : ∃ t, execHalyardImmediate s = .next t ∧ Keeps eff s t := by
  delta execHalyardImmediate
  try dsimp only
  refine ⟨_, rfl, ?_⟩
  repeat' first
    | with_reducible assumption
    | intro _
    | with_reducible exact Keeps.refl _
    | with_reducible apply Keeps.ite
    | with_reducible apply Keeps.foldl
    | split
    | with_reducible apply Keeps.fields
    | with_reducible rfl

theorem execImmediateAckTimeout_keeps (s : State)   : ∃ t, execImmediateAckTimeout s = .next t ∧ Keeps eff s t := by
  delta execImmediateAckTimeout
  try dsimp only
  refine ⟨_, rfl, ?_⟩
  repeat' first
    | with_reducible assumption
    | intro _
    | with_reducible exact Keeps.refl _
    | with_reducible apply Keeps.ite
    | with_reducible apply Keeps.foldl
    | with_reducible apply outOfStep_keeps
    | split
    | with_reducible apply Keeps.fields
    | with_reducible rfl

theorem execJournalEpochClose_keeps (s : State)   : ∃ t, execJournalEpochClose s = .next t ∧ Keeps eff s t := by
  delta execJournalEpochClose
  try dsimp only
  refine ⟨_, rfl, ?_⟩
  repeat' first
    | with_reducible assumption
    | intro _
    | with_reducible exact Keeps.refl _
    | with_reducible apply Keeps.ite
    | with_reducible apply Keeps.foldl
    | with_reducible apply epochClose_keeps
    | split
    | with_reducible apply Keeps.fields
    | with_reducible rfl

theorem execJournalCommit_keeps (s : State)   : ∃ t, execJournalCommit s = .next t ∧ Keeps eff s t := by
  delta execJournalCommit
  try dsimp only
  refine ⟨_, rfl, ?_⟩
  repeat' first
    | with_reducible assumption
    | intro _
    | with_reducible exact Keeps.refl _
    | with_reducible apply Keeps.ite
    | with_reducible apply Keeps.foldl
    | with_reducible apply journalCommit_keeps
    | split
    | with_reducible apply Keeps.fields
    | with_reducible rfl

theorem execJournalLagTimeout_keeps (s : State)   : ∃ t, execJournalLagTimeout s = .next t ∧ Keeps eff s t := by
  delta execJournalLagTimeout
  try dsimp only
  refine ⟨_, rfl, ?_⟩
  repeat' first
    | with_reducible assumption
    | intro _
    | with_reducible exact Keeps.refl _
    | with_reducible apply Keeps.ite
    | with_reducible apply Keeps.foldl
    | with_reducible apply lagTimeout_keeps
    | split
    | with_reducible apply Keeps.fields
    | with_reducible rfl

theorem execRejoinStart_keeps (d : Dom) (s : State)  (h_qmem : eff.qmem = true := by assumption) (h_roles : eff.roles = true := by assumption) : ∃ t, execRejoinStart d s = .next t ∧ Keeps eff s t := by
  delta execRejoinStart
  try dsimp only
  refine ⟨_, rfl, ?_⟩
  repeat' first
    | with_reducible assumption
    | intro _
    | with_reducible exact Keeps.refl _
    | with_reducible apply Keeps.ite
    | with_reducible apply Keeps.foldl
    | with_reducible apply rejoinStart_keeps
    | split
    | with_reducible apply Keeps.fields
    | with_reducible rfl

theorem execRejoinComplete_keeps (ok : Bool) (s : State)  (h_otp : eff.otp = true := by assumption) (h_flash : eff.flash = true := by assumption) (h_qmem : eff.qmem = true := by assumption) (h_roles : eff.roles = true := by assumption) (h_power : eff.power = true := by assumption) : ∃ t, execRejoinComplete ok s = .next t ∧ Keeps eff s t := by
  delta execRejoinComplete
  try dsimp only
  refine ⟨_, rfl, ?_⟩
  repeat' first
    | with_reducible assumption
    | intro _
    | with_reducible exact Keeps.refl _
    | with_reducible apply Keeps.ite
    | with_reducible apply Keeps.foldl
    | with_reducible apply rejoinComplete_keeps
    | split
    | with_reducible apply Keeps.fields
    | with_reducible rfl

theorem execTakeover_keeps (s : State)  (h_roles : eff.roles = true := by assumption) : ∃ t, execTakeover s = .next t ∧ Keeps eff s t := by
  delta execTakeover
  try dsimp only
  refine ⟨_, rfl, ?_⟩
  repeat' first
    | with_reducible assumption
    | intro _
    | with_reducible exact Keeps.refl _
    | with_reducible apply Keeps.ite
    | with_reducible apply Keeps.foldl
    | with_reducible apply takeover_keeps
    | split
    | with_reducible apply Keeps.fields
    | with_reducible rfl

theorem execNewActiveReady_keeps (s : State)  (h_flash : eff.flash = true := by assumption) (h_qmem : eff.qmem = true := by assumption) (h_roles : eff.roles = true := by assumption) (h_power : eff.power = true := by assumption) : ∃ t, execNewActiveReady s = .next t ∧ Keeps eff s t := by
  delta execNewActiveReady
  try dsimp only
  refine ⟨_, rfl, ?_⟩
  repeat' first
    | with_reducible assumption
    | intro _
    | with_reducible exact Keeps.refl _
    | with_reducible apply Keeps.ite
    | with_reducible apply Keeps.foldl
    | with_reducible apply newActiveReady_keeps
    | split
    | with_reducible apply Keeps.fields
    | with_reducible rfl

theorem execSwitchoverComplete_keeps (s : State)  (h_qmem : eff.qmem = true := by assumption) (h_roles : eff.roles = true := by assumption) (h_power : eff.power = true := by assumption) : ∃ t, execSwitchoverComplete s = .next t ∧ Keeps eff s t := by
  delta execSwitchoverComplete
  try dsimp only
  refine ⟨_, rfl, ?_⟩
  repeat' first
    | with_reducible assumption
    | intro _
    | with_reducible exact Keeps.refl _
    | with_reducible apply Keeps.ite
    | with_reducible apply Keeps.foldl
    | with_reducible apply switchover_keeps
    | split
    | with_reducible apply Keeps.fields
    | with_reducible rfl

theorem execSwitchWaitExpiry_keeps (s : State)  (h_qmem : eff.qmem = true := by assumption) (h_power : eff.power = true := by assumption) : ∃ t, execSwitchWaitExpiry s = .next t ∧ Keeps eff s t := by
  delta execSwitchWaitExpiry
  try dsimp only
  refine ⟨_, rfl, ?_⟩
  repeat' first
    | with_reducible assumption
    | intro _
    | with_reducible exact Keeps.refl _
    | with_reducible apply Keeps.ite
    | with_reducible apply Keeps.foldl
    | with_reducible apply switchExpiry_keeps
    | split
    | with_reducible apply Keeps.fields
    | with_reducible rfl

theorem trustCmd_keeps (r : Req) (op : Nat) (arg : Nat) (s : State)   : ∃ t, trustCmd r op arg s = .next t ∧ Keeps eff s t := by
  delta trustCmd
  try dsimp only
  refine ⟨_, rfl, ?_⟩
  repeat' first
    | with_reducible assumption
    | intro _
    | with_reducible exact Keeps.refl _
    | with_reducible apply Keeps.ite
    | with_reducible apply Keeps.foldl
    | with_reducible apply regWrite_keeps
    | with_reducible apply trustWrite_keeps
    | split
    | with_reducible apply Keeps.fields
    | with_reducible rfl

theorem execAttest_keeps (r : Req) (arg : Fin 16) (s : State)   : ∃ t, execAttest r arg s = .next t ∧ Keeps eff s t := by
  delta execAttest
  try dsimp only
  repeat' first
    | apply trustCmd_keeps
    | split
    | (refine ⟨_, rfl, ?_⟩)
    | with_reducible assumption
    | intro _
    | with_reducible exact Keeps.refl _
    | with_reducible apply Keeps.ite
    | with_reducible apply Keeps.foldl
    | split
    | with_reducible apply Keeps.fields
    | with_reducible rfl

theorem execKeyProg_keeps (r : Req) (arg : Fin 16) (s : State)   : ∃ t, execKeyProg r arg s = .next t ∧ Keeps eff s t := by
  delta execKeyProg
  try dsimp only
  repeat' first
    | apply trustCmd_keeps
    | split
    | (refine ⟨_, rfl, ?_⟩)
    | with_reducible assumption
    | intro _
    | with_reducible exact Keeps.refl _
    | with_reducible apply Keeps.ite
    | with_reducible apply Keeps.foldl
    | split
    | with_reducible apply Keeps.fields
    | with_reducible rfl

theorem execKeyRevoke_keeps (r : Req) (arg : Fin 16) (s : State)   : ∃ t, execKeyRevoke r arg s = .next t ∧ Keeps eff s t := by
  delta execKeyRevoke
  try dsimp only
  repeat' first
    | apply trustCmd_keeps
    | split
    | (refine ⟨_, rfl, ?_⟩)
    | with_reducible assumption
    | intro _
    | with_reducible exact Keeps.refl _
    | with_reducible apply Keeps.ite
    | with_reducible apply Keeps.foldl
    | split
    | with_reducible apply Keeps.fields
    | with_reducible rfl

theorem execRollCommit_keeps (r : Req) (s : State)   : ∃ t, execRollCommit r s = .next t ∧ Keeps eff s t := by
  delta execRollCommit
  try dsimp only
  repeat' first
    | apply trustCmd_keeps
    | split
    | (refine ⟨_, rfl, ?_⟩)
    | with_reducible assumption
    | intro _
    | with_reducible exact Keeps.refl _
    | with_reducible apply Keeps.ite
    | with_reducible apply Keeps.foldl
    | split
    | with_reducible apply Keeps.fields
    | with_reducible rfl

theorem execTrustCmdDone_keeps (ok : Bool) (s : State)  (h_otp : eff.otp = true := by assumption) : ∃ t, execTrustCmdDone ok s = .next t ∧ Keeps eff s t := by
  delta execTrustCmdDone
  try dsimp only
  refine ⟨_, rfl, ?_⟩
  repeat' first
    | with_reducible assumption
    | intro _
    | with_reducible exact Keeps.refl _
    | with_reducible apply Keeps.ite
    | with_reducible apply Keeps.foldl
    | with_reducible apply trustDone_keeps
    | split
    | with_reducible apply Keeps.fields
    | with_reducible rfl

theorem execRdr_keeps (e : Fin 8) (s : State)  (h_qmem : eff.qmem = true := by assumption) : ∃ t, execRdr e s = .next t ∧ Keeps eff s t := by
  delta execRdr
  try dsimp only
  refine ⟨_, rfl, ?_⟩
  repeat' first
    | with_reducible assumption
    | intro _
    | with_reducible exact Keeps.refl _
    | with_reducible apply Keeps.ite
    | with_reducible apply Keeps.foldl
    | with_reducible apply runInstr_keeps
    | with_reducible apply checked_keeps
    | with_reducible apply result_keeps
    | with_reducible apply busRead_keeps
    | split
    | with_reducible apply Keeps.fields
    | with_reducible rfl

theorem execWrr_keeps (e : Fin 8) (s : State)  (h_otp : eff.otp = true := by assumption) (h_flash : eff.flash = true := by assumption) (h_qmem : eff.qmem = true := by assumption) (h_roles : eff.roles = true := by assumption) (h_power : eff.power = true := by assumption) : ∃ t, execWrr e s = .next t ∧ Keeps eff s t := by
  delta execWrr
  try dsimp only
  refine ⟨_, rfl, ?_⟩
  repeat' first
    | with_reducible assumption
    | intro _
    | with_reducible exact Keeps.refl _
    | with_reducible apply Keeps.ite
    | with_reducible apply Keeps.foldl
    | with_reducible apply refuse_keeps
    | with_reducible apply runInstr_keeps
    | with_reducible apply checked_keeps
    | with_reducible apply stepOver_keeps
    | with_reducible apply wrrWrite_keeps
    | split
    | with_reducible apply Keeps.fields
    | with_reducible rfl

theorem execRaGo_keeps (r : Req) (w : Word) (s : State)  (h_otp : eff.otp = true := by assumption) (h_flash : eff.flash = true := by assumption) (h_qmem : eff.qmem = true := by assumption) (h_roles : eff.roles = true := by assumption) (h_power : eff.power = true := by assumption) : ∃ t, execRaGo r w s = .next t ∧ Keeps eff s t := by
  delta execRaGo
  try dsimp only
  refine ⟨_, rfl, ?_⟩
  repeat' first
    | with_reducible assumption
    | intro _
    | with_reducible exact Keeps.refl _
    | with_reducible apply Keeps.ite
    | with_reducible apply Keeps.foldl
    | with_reducible apply busWrite_keeps
    | split
    | with_reducible apply Keeps.fields
    | with_reducible rfl

theorem execRaReq_keeps (x : Fin 2) (f : RFrame) (s : State)  (h_otp : eff.otp = true := by assumption) (h_flash : eff.flash = true := by assumption) (h_qmem : eff.qmem = true := by assumption) (h_roles : eff.roles = true := by assumption) (h_power : eff.power = true := by assumption) : ∃ t, execRaReq x f s = .next t ∧ Keeps eff s t := by
  delta execRaReq
  try dsimp only
  refine ⟨_, rfl, ?_⟩
  repeat' first
    | with_reducible assumption
    | intro _
    | with_reducible exact Keeps.refl _
    | with_reducible apply Keeps.ite
    | with_reducible apply Keeps.foldl
    | with_reducible apply State.inc_keeps
    | with_reducible apply forward_keeps
    | with_reducible apply ringRecv_keeps
    | with_reducible apply raTarget_keeps
    | split
    | with_reducible apply Keeps.fields
    | with_reducible rfl

theorem execRaRsp_keeps (x : Fin 2) (f : RFrame) (s : State)   : ∃ t, execRaRsp x f s = .next t ∧ Keeps eff s t := by
  delta execRaRsp
  try dsimp only
  refine ⟨_, rfl, ?_⟩
  repeat' first
    | with_reducible assumption
    | intro _
    | with_reducible exact Keeps.refl _
    | with_reducible apply Keeps.ite
    | with_reducible apply Keeps.foldl
    | with_reducible apply State.inc_keeps
    | with_reducible apply forward_keeps
    | with_reducible apply ringRecv_keeps
    | with_reducible apply raReceive_keeps
    | split
    | with_reducible apply Keeps.fields
    | with_reducible rfl

theorem execRaTimeout_keeps (s : State)   : ∃ t, execRaTimeout s = .next t ∧ Keeps eff s t := by
  delta execRaTimeout
  try dsimp only
  refine ⟨_, rfl, ?_⟩
  repeat' first
    | with_reducible assumption
    | intro _
    | with_reducible exact Keeps.refl _
    | with_reducible apply Keeps.ite
    | with_reducible apply Keeps.foldl
    | with_reducible apply ringStart_keeps
    | with_reducible apply raTimeout_keeps
    | split
    | with_reducible apply Keeps.fields
    | with_reducible rfl

theorem execRegisterWrite_keeps (r : Req) (a : Word) (w : Word) (s : State)  (h_otp : eff.otp = true := by assumption) (h_flash : eff.flash = true := by assumption) (h_qmem : eff.qmem = true := by assumption) (h_roles : eff.roles = true := by assumption) (h_power : eff.power = true := by assumption) : ∃ t, execRegisterWrite r a w s = .next t ∧ Keeps eff s t := by
  delta execRegisterWrite
  try dsimp only
  refine ⟨_, rfl, ?_⟩
  repeat' first
    | with_reducible assumption
    | intro _
    | with_reducible exact Keeps.refl _
    | with_reducible apply Keeps.ite
    | with_reducible apply Keeps.foldl
    | with_reducible apply busWrite_keeps
    | split
    | with_reducible apply Keeps.fields
    | with_reducible rfl

theorem execWideReadLow_keeps (r : Req) (a : Word) (s : State)   : ∃ t, execWideReadLow r a s = .next t ∧ Keeps eff s t := by
  delta execWideReadLow
  try dsimp only
  refine ⟨_, rfl, ?_⟩
  repeat' first
    | with_reducible assumption
    | intro _
    | with_reducible exact Keeps.refl _
    | with_reducible apply Keeps.ite
    | with_reducible apply Keeps.foldl
    | with_reducible apply readTo_keeps
    | split
    | with_reducible apply Keeps.fields
    | with_reducible rfl

theorem execWideReadHigh_keeps (r : Req) (a : Word) (s : State)   : ∃ t, execWideReadHigh r a s = .next t ∧ Keeps eff s t := by
  delta execWideReadHigh
  try dsimp only
  refine ⟨_, rfl, ?_⟩
  repeat' first
    | with_reducible assumption
    | intro _
    | with_reducible exact Keeps.refl _
    | with_reducible apply Keeps.ite
    | with_reducible apply Keeps.foldl
    | with_reducible apply readTo_keeps
    | split
    | with_reducible apply Keeps.fields
    | with_reducible rfl

theorem execWideWriteLower_keeps (r : Req) (a : Word) (w : Word) (s : State)  (h_otp : eff.otp = true := by assumption) (h_flash : eff.flash = true := by assumption) (h_qmem : eff.qmem = true := by assumption) (h_roles : eff.roles = true := by assumption) (h_power : eff.power = true := by assumption) : ∃ t, execWideWriteLower r a w s = .next t ∧ Keeps eff s t := by
  delta execWideWriteLower
  try dsimp only
  refine ⟨_, rfl, ?_⟩
  repeat' first
    | with_reducible assumption
    | intro _
    | with_reducible exact Keeps.refl _
    | with_reducible apply Keeps.ite
    | with_reducible apply Keeps.foldl
    | with_reducible apply busWrite_keeps
    | split
    | with_reducible apply Keeps.fields
    | with_reducible rfl

theorem execWideWriteCommit_keeps (r : Req) (a : Word) (w : Word) (s : State)  (h_otp : eff.otp = true := by assumption) (h_flash : eff.flash = true := by assumption) (h_qmem : eff.qmem = true := by assumption) (h_roles : eff.roles = true := by assumption) (h_power : eff.power = true := by assumption) : ∃ t, execWideWriteCommit r a w s = .next t ∧ Keeps eff s t := by
  delta execWideWriteCommit
  try dsimp only
  refine ⟨_, rfl, ?_⟩
  repeat' first
    | with_reducible assumption
    | intro _
    | with_reducible exact Keeps.refl _
    | with_reducible apply Keeps.ite
    | with_reducible apply Keeps.foldl
    | with_reducible apply busWrite_keeps
    | split
    | with_reducible apply Keeps.fields
    | with_reducible rfl

theorem execModIrqClear_keeps (r : Req) (w : Word) (s : State)   : ∃ t, execModIrqClear r w s = .next t ∧ Keeps eff s t := by
  delta execModIrqClear
  try dsimp only
  refine ⟨_, rfl, ?_⟩
  repeat' first
    | with_reducible assumption
    | intro _
    | with_reducible exact Keeps.refl _
    | with_reducible apply Keeps.ite
    | with_reducible apply Keeps.foldl
    | with_reducible apply regWrite_keeps
    | with_reducible apply irqWrite_keeps
    | split
    | with_reducible apply Keeps.fields
    | with_reducible rfl

theorem execSfdpDiscovery_keeps (ok0 : Bool) (d0 : Word) (e0 : Word) (ok1 : Bool) (d1 : Word) (e1 : Word) (s : State)   : ∃ t, execSfdpDiscovery ok0 d0 e0 ok1 d1 e1 s = .next t ∧ Keeps eff s t := by
  delta execSfdpDiscovery
  try dsimp only
  refine ⟨_, rfl, ?_⟩
  repeat' first
    | with_reducible assumption
    | intro _
    | with_reducible exact Keeps.refl _
    | with_reducible apply Keeps.ite
    | with_reducible apply Keeps.foldl
    | with_reducible apply sfdpDiscovery_keeps
    | split
    | with_reducible apply Keeps.fields
    | with_reducible rfl

theorem execImageLoad_keeps (d : Dom) (e0 : SlotRead) (e1 : SlotRead) (s : State)   : ∃ t, execImageLoad d e0 e1 s = .next t ∧ Keeps eff s t := by
  delta execImageLoad
  try dsimp only
  refine ⟨_, rfl, ?_⟩
  repeat' first
    | with_reducible assumption
    | intro _
    | with_reducible exact Keeps.refl _
    | with_reducible apply Keeps.ite
    | with_reducible apply Keeps.foldl
    | with_reducible apply imageLoad_keeps
    | split
    | with_reducible apply Keeps.fields
    | with_reducible rfl

theorem execImageReportCompare_keeps (s : State)  (h_otp : eff.otp = true := by assumption) (h_flash : eff.flash = true := by assumption) (h_qmem : eff.qmem = true := by assumption) (h_roles : eff.roles = true := by assumption) (h_power : eff.power = true := by assumption) : ∃ t, execImageReportCompare s = .next t ∧ Keeps eff s t := by
  delta execImageReportCompare
  try dsimp only
  refine ⟨_, rfl, ?_⟩
  repeat' first
    | with_reducible assumption
    | intro _
    | with_reducible exact Keeps.refl _
    | with_reducible apply Keeps.ite
    | with_reducible apply Keeps.foldl
    | with_reducible apply imageCompare_keeps
    | split
    | with_reducible apply Keeps.fields
    | with_reducible rfl

theorem execApplyPass_keeps (land : Bool) (time : BitVec 16) (s : State)  (h_otp : eff.otp = true := by assumption) (h_flash : eff.flash = true := by assumption) (h_qmem : eff.qmem = true := by assumption) (h_roles : eff.roles = true := by assumption) (h_power : eff.power = true := by assumption) : ∃ t, execApplyPass land time s = .next t ∧ Keeps eff s t := by
  delta execApplyPass
  try dsimp only
  refine ⟨_, rfl, ?_⟩
  repeat' first
    | with_reducible assumption
    | intro _
    | with_reducible exact Keeps.refl _
    | with_reducible apply Keeps.ite
    | with_reducible apply Keeps.foldl
    | with_reducible apply applyPass_keeps
    | split
    | with_reducible apply Keeps.fields
    | with_reducible rfl

theorem s0Op_keeps (ok : Nat → Bool) (cmd : Word) (addr : Word) (data : List Word) (crc : Word) (late : List Nat) (extra : Bool) (s : State)  (h_otp : eff.otp = true := by assumption) (h_flash : eff.flash = true := by assumption) (h_qmem : eff.qmem = true := by assumption) (h_roles : eff.roles = true := by assumption) (h_power : eff.power = true := by assumption) : ∃ t, s0Op ok cmd addr data crc late extra s = .next t ∧ Keeps eff s t := by
  delta s0Op
  try dsimp only
  refine ⟨_, rfl, ?_⟩
  repeat' first
    | with_reducible assumption
    | intro _
    | with_reducible exact Keeps.refl _
    | with_reducible apply Keeps.ite
    | with_reducible apply Keeps.foldl
    | with_reducible apply s0Frame_keeps
    | split
    | with_reducible apply Keeps.fields
    | with_reducible rfl

theorem execS0Nop_keeps (cmd : Word) (addr : Word) (room : List Word) (crc : Word) (late : List Nat) (extra : Bool) (s : State)  (h_otp : eff.otp = true := by assumption) (h_flash : eff.flash = true := by assumption) (h_qmem : eff.qmem = true := by assumption) (h_roles : eff.roles = true := by assumption) (h_power : eff.power = true := by assumption) : ∃ t, execS0Nop cmd addr room crc late extra s = .next t ∧ Keeps eff s t := by
  delta execS0Nop
  try dsimp only
  repeat' first
    | apply s0Op_keeps
    | split
    | (refine ⟨_, rfl, ?_⟩)
    | with_reducible assumption
    | intro _
    | with_reducible exact Keeps.refl _
    | with_reducible apply Keeps.ite
    | with_reducible apply Keeps.foldl
    | split
    | with_reducible apply Keeps.fields
    | with_reducible rfl

theorem execS0Read_keeps (cmd : Word) (addr : Word) (room : List Word) (crc : Word) (late : List Nat) (extra : Bool) (s : State)  (h_otp : eff.otp = true := by assumption) (h_flash : eff.flash = true := by assumption) (h_qmem : eff.qmem = true := by assumption) (h_roles : eff.roles = true := by assumption) (h_power : eff.power = true := by assumption) : ∃ t, execS0Read cmd addr room crc late extra s = .next t ∧ Keeps eff s t := by
  delta execS0Read
  try dsimp only
  repeat' first
    | apply s0Op_keeps
    | split
    | (refine ⟨_, rfl, ?_⟩)
    | with_reducible assumption
    | intro _
    | with_reducible exact Keeps.refl _
    | with_reducible apply Keeps.ite
    | with_reducible apply Keeps.foldl
    | split
    | with_reducible apply Keeps.fields
    | with_reducible rfl

theorem execS0Write_keeps (cmd : Word) (addr : Word) (data : List Word) (crc : Word) (late : List Nat) (extra : Bool) (s : State)  (h_otp : eff.otp = true := by assumption) (h_flash : eff.flash = true := by assumption) (h_qmem : eff.qmem = true := by assumption) (h_roles : eff.roles = true := by assumption) (h_power : eff.power = true := by assumption) : ∃ t, execS0Write cmd addr data crc late extra s = .next t ∧ Keeps eff s t := by
  delta execS0Write
  try dsimp only
  repeat' first
    | apply s0Op_keeps
    | split
    | (refine ⟨_, rfl, ?_⟩)
    | with_reducible assumption
    | intro _
    | with_reducible exact Keeps.refl _
    | with_reducible apply Keeps.ite
    | with_reducible apply Keeps.foldl
    | split
    | with_reducible apply Keeps.fields
    | with_reducible rfl

theorem execS0Mode_keeps (cmd : Word) (addr : Word) (data : Word) (crc : Word) (late : List Nat) (extra : Bool) (s : State)  (h_otp : eff.otp = true := by assumption) (h_flash : eff.flash = true := by assumption) (h_qmem : eff.qmem = true := by assumption) (h_roles : eff.roles = true := by assumption) (h_power : eff.power = true := by assumption) : ∃ t, execS0Mode cmd addr data crc late extra s = .next t ∧ Keeps eff s t := by
  delta execS0Mode
  try dsimp only
  repeat' first
    | apply s0Op_keeps
    | split
    | (refine ⟨_, rfl, ?_⟩)
    | with_reducible assumption
    | intro _
    | with_reducible exact Keeps.refl _
    | with_reducible apply Keeps.ite
    | with_reducible apply Keeps.foldl
    | split
    | with_reducible apply Keeps.fields
    | with_reducible rfl

theorem execS0FrameAbort_keeps (ws : List Word) (n : Nat) (late : List Nat) (s : State)   : ∃ t, execS0FrameAbort ws n late s = .next t ∧ Keeps eff s t := by
  delta execS0FrameAbort
  try dsimp only
  refine ⟨_, rfl, ?_⟩
  repeat' first
    | with_reducible assumption
    | intro _
    | with_reducible exact Keeps.refl _
    | with_reducible apply Keeps.ite
    | with_reducible apply Keeps.foldl
    | with_reducible apply s0Fall_keeps
    | with_reducible apply s0Cut_keeps
    | split
    | with_reducible apply Keeps.fields
    | with_reducible rfl

theorem execS0FrameTimeout_keeps (ws : List Word) (n : Nat) (late : List Nat) (s : State)   : ∃ t, execS0FrameTimeout ws n late s = .next t ∧ Keeps eff s t := by
  delta execS0FrameTimeout
  try dsimp only
  refine ⟨_, rfl, ?_⟩
  repeat' first
    | with_reducible assumption
    | intro _
    | with_reducible exact Keeps.refl _
    | with_reducible apply Keeps.ite
    | with_reducible apply Keeps.foldl
    | with_reducible apply s0Cut_keeps
    | split
    | with_reducible apply Keeps.fields
    | with_reducible rfl

theorem execS0EmptyFrame_keeps (s : State)   : ∃ t, execS0EmptyFrame s = .next t ∧ Keeps eff s t := by
  delta execS0EmptyFrame
  try dsimp only
  refine ⟨_, rfl, ?_⟩
  repeat' first
    | with_reducible assumption
    | intro _
    | with_reducible exact Keeps.refl _
    | with_reducible apply Keeps.ite
    | with_reducible apply Keeps.foldl
    | with_reducible apply State.inc_keeps
    | with_reducible apply State.modS0_keeps
    | with_reducible apply s0Fall_keeps
    | split
    | with_reducible apply Keeps.fields
    | with_reducible rfl

/-- Every command answers a next state, and has no effect beyond those that `effects` names. -/
theorem exec_keeps (i : Instr) (s : State) : ∃ t, exec i s = .next t ∧ Keeps (effects i) s t := by
  cases i
  case registerWrite => exact execRegisterWrite_keeps (h_otp := rfl) (h_flash := rfl) (h_qmem := rfl) (h_roles := rfl) (h_power := rfl) ..
  case wideReadLow => exact execWideReadLow_keeps ..
  case wideReadHigh => exact execWideReadHigh_keeps ..
  case wideWriteLower => exact execWideWriteLower_keeps (h_otp := rfl) (h_flash := rfl) (h_qmem := rfl) (h_roles := rfl) (h_power := rfl) ..
  case wideWriteCommit => exact execWideWriteCommit_keeps (h_otp := rfl) (h_flash := rfl) (h_qmem := rfl) (h_roles := rfl) (h_power := rfl) ..
  case sfdpDiscovery => exact execSfdpDiscovery_keeps ..
  case imageLoad => exact execImageLoad_keeps ..
  case imageReportCompare => exact execImageReportCompare_keeps (h_otp := rfl) (h_flash := rfl) (h_qmem := rfl) (h_roles := rfl) (h_power := rfl) ..
  case applyPass => exact execApplyPass_keeps (h_otp := rfl) (h_flash := rfl) (h_qmem := rfl) (h_roles := rfl) (h_power := rfl) ..
  case attest => exact execAttest_keeps ..
  case keyProg => exact execKeyProg_keeps ..
  case keyRevoke => exact execKeyRevoke_keeps ..
  case rollCommit => exact execRollCommit_keeps ..
  case trustCmdDone => exact execTrustCmdDone_keeps (h_otp := rfl) ..
  case diSample => exact execDiSample_keeps (h_qmem := rfl) ..
  case diEdgesPreset => exact execDiEdgesPreset_keeps ..
  case doCmdWrite => exact execDoCmdWrite_keeps (h_qmem := rfl) ..
  case thermalShutdown => exact execThermalShutdown_keeps ..
  case thermalRestart => exact execThermalRestart_keeps ..
  case clampEventEnd => exact execClampEventEnd_keeps (h_qmem := rfl) ..
  case pullinEnd => exact execPullinEnd_keeps ..
  case digitalDiagDetect => exact execDigitalDiagDetect_keeps (h_qmem := rfl) ..
  case digitalDiagClear => exact execDigitalDiagClear_keeps ..
  case chDiagClear => exact execChDiagClear_keeps ..
  case tileHoldExpiry => exact execTileHoldExpiry_keeps ..
  case tileFrameReceive => exact execTileFrameReceive_keeps ..
  case tileSafeWdogClear => exact execTileSafeWdogClear_keeps ..
  case aoSetWrite => exact execAoSetWrite_keeps ..
  case aoTrimWrite => exact execAoTrimWrite_keeps ..
  case lpHiccupOff => exact execLpHiccupOff_keeps ..
  case lpHiccupOn => exact execLpHiccupOn_keeps ..
  case analogDiagDetect => exact execAnalogDiagDetect_keeps (h_qmem := rfl) ..
  case analogDiagClear => exact execAnalogDiagClear_keeps ..
  case injectEnter => exact execInjectEnter_keeps ..
  case injectExit => exact execInjectExit_keeps ..
  case modeChange => exact execModeChange_keeps ..
  case tdacWrite => exact execTdacWrite_keeps ..
  case modulatorLoopReset => exact execModulatorLoopReset_keeps ..
  case chainOutput => exact execChainOutput_keeps (h_qmem := rfl) ..
  case syncLandEdge => exact execSyncLandEdge_keeps (h_qmem := rfl) ..
  case caSyncGo => exact execCaSyncGo_keeps ..
  case syncApply => exact execSyncApply_keeps ..
  case auxSlotEnd => exact execAuxSlotEnd_keeps (h_qmem := rfl) ..
  case injRequest => exact execInjRequest_keeps ..
  case injComplete => exact execInjComplete_keeps ..
  case cal => exact execCal_keeps (h_qmem := rfl) ..
  case autoCalStart => exact execAutoCalStart_keeps (h_qmem := rfl) ..
  case calPermitGranted => exact execCalPermitGranted_keeps (h_qmem := rfl) ..
  case calEnter => exact execCalEnter_keeps (h_qmem := rfl) ..
  case calOffsetMeans => exact execCalOffsetMeans_keeps ..
  case calGainMeans => exact execCalGainMeans_keeps ..
  case calEnd => exact execCalEnd_keeps (h_qmem := rfl) ..
  case calFactorWrite => exact execCalFactorWrite_keeps ..
  case sweep => exact execSweep_keeps (h_qmem := rfl) ..
  case sweepAbort => exact execSweepAbort_keeps ..
  case sweepStep => exact execSweepStep_keeps (h_qmem := rfl) ..
  case fcCfgWrite => exact execFcCfgWrite_keeps ..
  case pdelayWrite => exact execPdelayWrite_keeps ..
  case presetRecordWrite => exact execPresetRecordWrite_keeps ..
  case linkFramesResume => exact execLinkFramesResume_keeps ..
  case thresholdWrite => exact execThresholdWrite_keeps ..
  case diEvWrite => exact execDiEvWrite_keeps ..
  case modIrqClear => exact execModIrqClear_keeps ..
  case dipRequest => exact execDipRequest_keeps (h_qmem := rfl) ..
  case dipLatch => exact execDipLatch_keeps ..
  case dipBankHeld => exact execDipBankHeld_keeps (h_qmem := rfl) ..
  case dipRelease => exact execDipRelease_keeps ..
  case qCfgWrite => exact execQCfgWrite_keeps ..
  case qPopLo => exact execQPopLo_keeps ..
  case qPopHi => exact execQPopHi_keeps ..
  case qPopStream => exact execQPopStream_keeps ..
  case logScan => exact execLogScan_keeps ..
  case logRecordWrite => exact execLogRecordWrite_keeps ..
  case logSectorOpen => exact execLogSectorOpen_keeps ..
  case tuRateWrite => exact execTuRateWrite_keeps ..
  case tuStep => exact execTuStep_keeps ..
  case tuSet => exact execTuSet_keeps ..
  case tuSourceChange => exact execTuSourceChange_keeps ..
  case tuCanRefSend => exact execTuCanRefSend_keeps (h_qmem := rfl) (h_power := rfl) ..
  case tuCanRefReceive => exact execTuCanRefReceive_keeps ..
  case ppsEdge => exact execPpsEdge_keeps ..
  case ringTimeFrameSend => exact execRingTimeFrameSend_keeps ..
  case ringTimeFrame => exact execRingTimeFrame_keeps ..
  case holdoverTimeout => exact execHoldoverTimeout_keeps ..
  case scheduleFire => exact execScheduleFire_keeps (h_qmem := rfl) (h_power := rfl) ..
  case scheduleWrite => exact execScheduleWrite_keeps ..
  case tuTokenGo => exact execTuTokenGo_keeps (h_qmem := rfl) ..
  case tokenCopySend => exact execTokenCopySend_keeps ..
  case ringTokenReceive => exact execRingTokenReceive_keeps (h_qmem := rfl) ..
  case canModeChange => exact execCanModeChange_keeps ..
  case canIntegrated => exact execCanIntegrated_keeps ..
  case canFrameReceive => exact execCanFrameReceive_keeps (h_qmem := rfl) (h_power := rfl) ..
  case lvbLockRead => exact execLvbLockRead_keeps ..
  case lvbStatRead => exact execLvbStatRead_keeps ..
  case lvbLockTimeout => exact execLvbLockTimeout_keeps ..
  case canTxGo => exact execCanTxGo_keeps (h_qmem := rfl) (h_power := rfl) ..
  case canTxFlush => exact execCanTxFlush_keeps (h_qmem := rfl) (h_power := rfl) ..
  case canAttemptStart => exact execCanAttemptStart_keeps ..
  case canAttemptSuccess => exact execCanAttemptSuccess_keeps (h_qmem := rfl) (h_power := rfl) ..
  case canAttemptError => exact execCanAttemptError_keeps (h_qmem := rfl) (h_power := rfl) ..
  case canArbitrationLost => exact execCanArbitrationLost_keeps (h_qmem := rfl) (h_power := rfl) ..
  case canBusoffRecovery => exact execCanBusoffRecovery_keeps (h_qmem := rfl) ..
  case canSleepRequest => exact execCanSleepRequest_keeps (h_qmem := rfl) (h_power := rfl) ..
  case canWakeHost => exact execCanWakeHost_keeps (h_qmem := rfl) (h_power := rfl) ..
  case canWakeEdge => exact execCanWakeEdge_keeps (h_qmem := rfl) (h_power := rfl) ..
  case canWakeFrame => exact execCanWakeFrame_keeps (h_qmem := rfl) (h_power := rfl) ..
  case ctxKick => exact execCtxKick_keeps (h_qmem := rfl) ..
  case ctxAbort => exact execCtxAbort_keeps (h_qmem := rfl) ..
  case ctxReset => exact execCtxReset_keeps (h_qmem := rfl) ..
  case engineDispatch => exact execEngineDispatch_keeps (h_qmem := rfl) (h_power := rfl) ..
  case sliceExpiry => exact execSliceExpiry_keeps ..
  case runmaxExpiry => exact execRunmaxExpiry_keeps (h_qmem := rfl) ..
  case ctxInboxFrame => exact execCtxInboxFrame_keeps (h_qmem := rfl) (h_power := rfl) ..
  case expectTimeout => exact execExpectTimeout_keeps (h_qmem := rfl) ..
  case backoffExpiry => exact execBackoffExpiry_keeps ..
  case ctxWaitExpiry => exact execCtxWaitExpiry_keeps ..
  case checkpointCommitted => exact execCheckpointCommitted_keeps ..
  case ctxUnblock => exact execCtxUnblock_keeps ..
  case hoistCacheFillDone => exact execHoistCacheFillDone_keeps (h_qmem := rfl) ..
  case xferTimerExpiry => exact execXferTimerExpiry_keeps (h_qmem := rfl) (h_power := rfl) ..
  case hoistMemoryWrite => exact execHoistMemoryWrite_keeps ..
  case jmp => exact execJmp_keeps (h_qmem := rfl) ..
  case br => exact execBr_keeps (h_qmem := rfl) ..
  case call => exact execCall_keeps (h_qmem := rfl) ..
  case ret => exact execRet_keeps (h_qmem := rfl) ..
  case loop => exact execLoop_keeps (h_qmem := rfl) ..
  case endRun => exact execEnd_keeps (h_qmem := rfl) ..
  case fail => exact execFail_keeps (h_qmem := rfl) ..
  case wait => exact execWait_keeps (h_qmem := rfl) ..
  case align => exact execAlign_keeps (h_qmem := rfl) ..
  case tset => exact execTset_keeps (h_qmem := rfl) ..
  case tnow => exact execTnow_keeps (h_qmem := rfl) ..
  case movi => exact execMovi_keeps (h_qmem := rfl) ..
  case mov => exact execMov_keeps (h_qmem := rfl) ..
  case add => exact execAdd_keeps (h_qmem := rfl) ..
  case sub => exact execSub_keeps (h_qmem := rfl) ..
  case and => exact execAnd_keeps (h_qmem := rfl) ..
  case or => exact execOr_keeps (h_qmem := rfl) ..
  case xor => exact execXor_keeps (h_qmem := rfl) ..
  case shl => exact execShl_keeps (h_qmem := rfl) ..
  case shr => exact execShr_keeps (h_qmem := rfl) ..
  case sar => exact execSar_keeps (h_qmem := rfl) ..
  case cmp => exact execCmp_keeps (h_qmem := rfl) ..
  case ldb => exact execLdb_keeps (h_qmem := rfl) ..
  case stb => exact execStb_keeps (h_qmem := rfl) ..
  case field => exact execField_keeps (h_qmem := rfl) ..
  case rdr => exact execRdr_keeps (h_qmem := rfl) ..
  case wrr => exact execWrr_keeps (h_otp := rfl) (h_flash := rfl) (h_qmem := rfl) (h_roles := rfl) (h_power := rfl) ..
  case send => exact execSend_keeps (h_qmem := rfl) (h_power := rfl) ..
  case sendv => exact execSendv_keeps (h_qmem := rfl) (h_power := rfl) ..
  case expect => exact execExpect_keeps (h_qmem := rfl) (h_power := rfl) ..
  case expectany => exact execExpectany_keeps (h_qmem := rfl) (h_power := rfl) ..
  case flush => exact execFlush_keeps (h_qmem := rfl) ..
  case xferTx => exact execXferTx_keeps (h_qmem := rfl) (h_power := rfl) ..
  case xferRx => exact execXferRx_keeps (h_qmem := rfl) (h_power := rfl) ..
  case cvstart => exact execCvstart_keeps (h_qmem := rfl) ..
  case cvfeed => exact execCvfeed_keeps (h_qmem := rfl) ..
  case cvchk => exact execCvchk_keeps (h_qmem := rfl) ..
  case dout => exact execDout_keeps (h_qmem := rfl) ..
  case aout => exact execAout_keeps (h_qmem := rfl) ..
  case din => exact execDin_keeps (h_qmem := rfl) ..
  case ain => exact execAin_keeps (h_qmem := rfl) ..
  case push => exact execPush_keeps (h_qmem := rfl) ..
  case pennant => exact execPennant_keeps (h_qmem := rfl) ..
  case checkpoint => exact execCheckpoint_keeps (h_qmem := rfl) ..
  case once => exact execOnce_keeps (h_qmem := rfl) ..
  case signal => exact execSignal_keeps (h_qmem := rfl) ..
  case s0Nop => exact execS0Nop_keeps (h_otp := rfl) (h_flash := rfl) (h_qmem := rfl) (h_roles := rfl) (h_power := rfl) ..
  case s0Read => exact execS0Read_keeps (h_otp := rfl) (h_flash := rfl) (h_qmem := rfl) (h_roles := rfl) (h_power := rfl) ..
  case s0Write => exact execS0Write_keeps (h_otp := rfl) (h_flash := rfl) (h_qmem := rfl) (h_roles := rfl) (h_power := rfl) ..
  case s0Mode => exact execS0Mode_keeps (h_otp := rfl) (h_flash := rfl) (h_qmem := rfl) (h_roles := rfl) (h_power := rfl) ..
  case s0FrameAbort => exact execS0FrameAbort_keeps ..
  case s0EmptyFrame => exact execS0EmptyFrame_keeps ..
  case s0FrameTimeout => exact execS0FrameTimeout_keeps ..
  case flashWindowReadDone => exact execFlashWindowReadDone_keeps ..
  case flashPageProgram => exact execFlashPageProgram_keeps (h_flash := rfl) ..
  case flashWriteDone => exact execFlashWriteDone_keeps ..
  case sp1Erase => exact execSp1Erase_keeps ..
  case sp1Raw => exact execSp1Raw_keeps ..
  case sp1OpDone => exact execSp1OpDone_keeps (h_flash := rfl) ..
  case s2Go => exact execS2Go_keeps ..
  case s2TransferEnd => exact execS2TransferEnd_keeps (h_qmem := rfl) (h_power := rfl) ..
  case s2Modf => exact execS2Modf_keeps ..
  case s2SlaveFrameEnd => exact execS2SlaveFrameEnd_keeps (h_qmem := rfl) (h_power := rfl) ..
  case s2SlavePost => exact execS2SlavePost_keeps ..
  case s2RoleChange => exact execS2RoleChange_keeps ..
  case linkTrainStart => exact execLinkTrainStart_keeps ..
  case linkTrainStepDone => exact execLinkTrainStepDone_keeps ..
  case linkTrainTimeout => exact execLinkTrainTimeout_keeps ..
  case joinListenExpiry => exact execJoinListenExpiry_keeps ..
  case ringRelock => exact execRingRelock_keeps ..
  case relockTimeout => exact execRelockTimeout_keeps ..
  case probe => exact execProbe_keeps ..
  case remeasure => exact execRemeasure_keeps ..
  case enumStart => exact execEnumStart_keeps ..
  case enum => exact execEnum_keeps ..
  case roster => exact execRoster_keeps ..
  case enumTimeout => exact execEnumTimeout_keeps ..
  case enumDone => exact execEnumDone_keeps ..
  case linkDown => exact execLinkDown_keeps (h_qmem := rfl) ..
  case reroute => exact execReroute_keeps ..
  case linkUp => exact execLinkUp_keeps (h_qmem := rfl) ..
  case retrain => exact execRetrain_keeps ..
  case retrainFrame => exact execRetrainFrame_keeps ..
  case retrainExecute => exact execRetrainExecute_keeps ..
  case ringFrameForward => exact execRingFrameForward_keeps ..
  case pause => exact execPause_keeps ..
  case raGo => exact execRaGo_keeps (h_otp := rfl) (h_flash := rfl) (h_qmem := rfl) (h_roles := rfl) (h_power := rfl) ..
  case raReq => exact execRaReq_keeps (h_otp := rfl) (h_flash := rfl) (h_qmem := rfl) (h_roles := rfl) (h_power := rfl) ..
  case raRsp => exact execRaRsp_keeps ..
  case raTimeout => exact execRaTimeout_keeps ..
  case exportSend => exact execExportSend_keeps (h_qmem := rfl) ..
  case exportReceive => exact execExportReceive_keeps (h_qmem := rfl) ..
  case alarmSend => exact execAlarmSend_keeps (h_qmem := rfl) ..
  case alarm => exact execAlarm_keeps (h_qmem := rfl) ..
  case cvStart => exact execCvStart_keeps ..
  case cvFinish => exact execCvFinish_keeps ..
  case cvDma => exact execCvDma_keeps ..
  case cvAbort => exact execCvAbort_keeps ..
  case cvData => exact execCvData_keeps ..
  case cvData8 => exact execCvData8_keeps ..
  case cvDmaDone => exact execCvDmaDone_keeps ..
  case cvHoldTimeout => exact execCvHoldTimeout_keeps ..
  case cvConfigWrite => exact execCvConfigWrite_keeps ..
  case logicFeedLoss => exact execLogicFeedLoss_keeps (h_otp := rfl) (h_flash := rfl) (h_qmem := rfl) (h_roles := rfl) (h_power := rfl) ..
  case tileFeedChange => exact execTileFeedChange_keeps (h_qmem := rfl) ..
  case tilePowerLoss => exact execTilePowerLoss_keeps (h_qmem := rfl) ..
  case clockMonitorTrip => exact execClockMonitorTrip_keeps (h_otp := rfl) (h_flash := rfl) (h_qmem := rfl) (h_roles := rfl) (h_power := rfl) ..
  case heartbeatMiss => exact execHeartbeatMiss_keeps (h_otp := rfl) (h_flash := rfl) (h_qmem := rfl) (h_roles := rfl) (h_power := rfl) ..
  case selfcheckReport => exact execSelfcheckReport_keeps (h_otp := rfl) (h_flash := rfl) (h_qmem := rfl) (h_roles := rfl) (h_power := rfl) ..
  case digestForm => exact execDigestForm_keeps ..
  case digestCompare => exact execDigestCompare_keeps ..
  case selfcheckDone => exact execSelfcheckDone_keeps (h_otp := rfl) (h_flash := rfl) (h_qmem := rfl) (h_roles := rfl) (h_power := rfl) ..
  case disagreeClear => exact execDisagreeClear_keeps (h_qmem := rfl) ..
  case arbiterHeartbeatLoss => exact execArbiterHeartbeatLoss_keeps (h_qmem := rfl) ..
  case tileClockSourceSwitch => exact execTileClockSourceSwitch_keeps ..
  case halyardImmediate => exact execHalyardImmediate_keeps ..
  case immediateAckTimeout => exact execImmediateAckTimeout_keeps ..
  case journalEpochClose => exact execJournalEpochClose_keeps ..
  case journalCommit => exact execJournalCommit_keeps ..
  case journalLagTimeout => exact execJournalLagTimeout_keeps ..
  case rejoinStart => exact execRejoinStart_keeps (h_qmem := rfl) (h_roles := rfl) ..
  case rejoinComplete => exact execRejoinComplete_keeps (h_otp := rfl) (h_flash := rfl) (h_qmem := rfl) (h_roles := rfl) (h_power := rfl) ..
  case takeover => exact execTakeover_keeps (h_roles := rfl) ..
  case newActiveReady => exact execNewActiveReady_keeps (h_flash := rfl) (h_qmem := rfl) (h_roles := rfl) (h_power := rfl) ..
  case switch => exact execSwitch_keeps (h_qmem := rfl) (h_roles := rfl) ..
  case switchoverComplete => exact execSwitchoverComplete_keeps (h_qmem := rfl) (h_roles := rfl) (h_power := rfl) ..
  case switchWaitExpiry => exact execSwitchWaitExpiry_keeps (h_qmem := rfl) (h_power := rfl) ..
  case domtest => exact execDomtest_keeps (h_qmem := rfl) (h_roles := rfl) ..
  case domtestEnd => exact execDomtestEnd_keeps (h_otp := rfl) (h_flash := rfl) (h_qmem := rfl) (h_roles := rfl) (h_power := rfl) ..
  case feedtest => exact execFeedtest_keeps (h_qmem := rfl) (h_roles := rfl) ..
  case feedtestSchedule => exact execFeedtestSchedule_keeps (h_qmem := rfl) ..
  case feedtestEnd => exact execFeedtestEnd_keeps (h_qmem := rfl) ..
  case linktrain => exact execLinktrain_keeps (h_qmem := rfl) (h_roles := rfl) ..
  case nvmwrite => exact execNvmwrite_keeps (h_qmem := rfl) (h_roles := rfl) ..
  case release => exact execRelease_keeps (h_qmem := rfl) (h_roles := rfl) ..
  case rejoin => exact execRejoin_keeps (h_qmem := rfl) (h_roles := rfl) ..
  case scrub => exact execScrub_keeps (h_otp := rfl) (h_flash := rfl) (h_qmem := rfl) (h_roles := rfl) (h_power := rfl) ..
  case bankMarch => exact execBankMarch_keeps (h_otp := rfl) (h_flash := rfl) (h_qmem := rfl) (h_roles := rfl) (h_power := rfl) ..
  case logicSliceTest => exact execLogicSliceTest_keeps (h_otp := rfl) (h_flash := rfl) (h_qmem := rfl) (h_roles := rfl) (h_power := rfl) ..
  case canLoopbackTest => exact execCanLoopbackTest_keeps (h_otp := rfl) (h_flash := rfl) (h_qmem := rfl) (h_roles := rfl) (h_power := rfl) ..
  case burgee => exact execBurgee_keeps (h_qmem := rfl) ..
  case wdogService => exact execWdogService_keeps (h_qmem := rfl) ..
  case wdogExpiry => exact execWdogExpiry_keeps (h_qmem := rfl) ..
  case powerReqRun => exact execPowerReqRun_keeps (h_qmem := rfl) (h_power := rfl) ..
  case powerReqLean => exact execPowerReqLean_keeps (h_qmem := rfl) (h_power := rfl) ..
  case powerReqDoze => exact execPowerReqDoze_keeps (h_qmem := rfl) (h_power := rfl) ..
  case powerReqSleep => exact execPowerReqSleep_keeps (h_qmem := rfl) (h_power := rfl) ..
  case leanSwitch => exact execLeanSwitch_keeps (h_power := rfl) ..
  case sleepEntry => exact execSleepEntry_keeps (h_qmem := rfl) (h_roles := rfl) (h_power := rfl) ..
  case sleepEntryTimeout => exact execSleepEntryTimeout_keeps ..
  case idleSleepReturn => exact execIdleSleepReturn_keeps (h_qmem := rfl) (h_roles := rfl) (h_power := rfl) ..
  case wakeLandEdge => exact execWakeLandEdge_keeps (h_power := rfl) ..
  case sleepWake => exact execSleepWake_keeps (h_qmem := rfl) (h_power := rfl) ..
  case wakeComplete => exact execWakeComplete_keeps (h_power := rfl) ..
  case powerOn => exact execPowerOn_keeps (h_qmem := rfl) (h_roles := rfl) (h_power := rfl) ..
  case domainRelease => exact execDomainRelease_keeps (h_roles := rfl) ..
  case tileLinkTrained => exact execTileLinkTrained_keeps (h_power := rfl) ..
  case tileLinkRetry => exact execTileLinkRetry_keeps (h_otp := rfl) (h_flash := rfl) (h_qmem := rfl) (h_roles := rfl) (h_power := rfl) ..
  case resetN => exact execResetN_keeps (h_otp := rfl) (h_flash := rfl) (h_qmem := rfl) (h_roles := rfl) (h_power := rfl) ..
  case cold => exact execCold_keeps (h_otp := rfl) (h_flash := rfl) (h_qmem := rfl) (h_roles := rfl) (h_power := rfl) ..
  case warm => exact execWarm_keeps (h_otp := rfl) (h_flash := rfl) (h_qmem := rfl) (h_roles := rfl) (h_power := rfl) ..
  case tileRst => exact execTileRst_keeps (h_qmem := rfl) ..
  case canRxError => exact execCanRxError_keeps (h_qmem := rfl) (h_power := rfl) ..
  case receiverRelock => exact execReceiverRelock_keeps ..
  case tileLinkLoss => exact execTileLinkLoss_keeps ..
  case arbiterHeartbeatReturn => exact execArbiterHeartbeatReturn_keeps (h_qmem := rfl) ..
  case timeLockTimeout => exact execTimeLockTimeout_keeps (h_qmem := rfl) ..
  case logFlashDone => exact execLogFlashDone_keeps (h_flash := rfl) ..
  case s2SlaveFrameStart => exact execS2SlaveFrameStart_keeps ..
  case unassignedOpcode => exact execUnassignedOpcode_keeps (h_qmem := rfl) ..

end Sys2Proof.Machine
end

