-- ==== Sys2Proof/WellFormed.lean ====
section
/-! DEFINITION. Well-formed commands: operands that the rules of the command's row admit whatever the state. -/

namespace Sys2Proof

/-- A register is written by S0, ring remote access or an engine; the image loader writes in its apply pass only (R23, R47). -/
def Req.wf (r : Req) : Bool := decide (r ≠ .loader)

/-- A word's address is a multiple of 4 (R20). -/
def addrWf (a : Word) : Bool := a.toNat % 4 == 0

/-- Positions in a tile (R3): 0 to 7 DI, 8 to 11 DO, 12 to 15 analog, of which 14 and 15 can be current outputs. -/
def diWf (n : Fin 256) : Bool := decide (n.val % 16 < 8)
def doWf (n : Fin 256) : Bool := decide (8 ≤ n.val % 16) && decide (n.val % 16 < 12)
def digWf (n : Fin 256) : Bool := decide (n.val % 16 < 12)
def anWf (n : Fin 256) : Bool := decide (12 ≤ n.val % 16)
def aoWf (n : Fin 256) : Bool := decide (14 ≤ n.val % 16)

/-- A CAN frame carries at most 2,048 bytes, and its DLC has 4 bits in every format but XL (R296). -/
def Frame.wf (f : Frame) : Bool := decide (f.data.length ≤ 2048)

/-- A ring frame carries at most 64 payload words (R461). -/
def RFrame.wf (f : RFrame) : Bool := decide (f.data.length ≤ 64)

/-- A modulator period has a code of 3 bits (R132). -/
def Period.wf (p : Period) : Bool := decide (p.code < 8)

/-- A register of a preset record (R201). -/
def recordWf (o : Nat) : Bool := o % 4 == 0 && (decide (o < 0x18) || (decide (0x100 ≤ o) && decide (o < 0x200)))

/-- A calibration sums the output of 80 converters (R154). -/
def sumsWf (l : List Int) : Bool := l.length == 80

/-- OP and CNT of an S0 command word (R403). -/
def s0Op4 (cmd : Word) : Nat := cmd.toNat / 2 ^ 28
def s0Cnt (cmd : Word) : Nat := cmd.toNat / 2 ^ 20 % 256

/-- Words of an S0 frame after the address (R404): for READ and NOP none in 4-4-4, CNT + 1 in 1-1-1. -/
def roomWf (cmd : Word) (l : List Word) : Bool := l.length == s0Cnt cmd + 1 || l.length == 0
def nopWf (cmd : Word) (l : List Word) : Bool := if s0Op4 cmd = 0 then roomWf cmd l else decide (3 < s0Op4 cmd) && l.length == 0
def readWf (cmd : Word) (l : List Word) : Bool := s0Op4 cmd == 1 && roomWf cmd l
def writeWf (cmd : Word) (l : List Word) : Bool := s0Op4 cmd == 2 && l.length == s0Cnt cmd + 1
def modeWf (cmd : Word) : Bool := s0Op4 cmd == 3

/-- A command is well-formed. -/
def Instr.wf (i : Instr) : Bool :=
  match i with
  | .registerWrite r a _ => r.wf && addrWf a
  | .wideReadLow r a => r.wf && addrWf a
  | .wideReadHigh r a => r.wf && addrWf a
  | .wideWriteLower r a _ => r.wf && addrWf a
  | .wideWriteCommit r a _ => r.wf && addrWf a
  | .sfdpDiscovery _ _ _ _ _ _ => true
  | .imageLoad _ _ _ => true
  | .imageReportCompare => true
  | .applyPass _ _ => true
  | .attest r _ => r.wf
  | .keyProg r _ => r.wf
  | .keyRevoke r _ => r.wf
  | .rollCommit r => r.wf
  | .trustCmdDone _ => true
  | .diSample _ _ => true
  | .diEdgesPreset r n _ => r.wf && diWf n
  | .doCmdWrite r n _ => r.wf && doWf n
  | .thermalShutdown n => doWf n
  | .thermalRestart n => doWf n
  | .clampEventEnd n _ => doWf n
  | .pullinEnd n => doWf n
  | .digitalDiagDetect n _ => digWf n
  | .digitalDiagClear n _ => digWf n
  | .chDiagClear r _ _ => r.wf
  | .tileHoldExpiry _ => true
  | .tileFrameReceive _ _ _ => true
  | .tileSafeWdogClear r _ _ => r.wf
  | .aoSetWrite r n _ => r.wf && aoWf n
  | .aoTrimWrite r n _ => r.wf && aoWf n
  | .lpHiccupOff n => anWf n
  | .lpHiccupOn n => anWf n
  | .analogDiagDetect n _ => anWf n
  | .analogDiagClear n _ => anWf n
  | .injectEnter r n => r.wf && anWf n
  | .injectExit r n => r.wf && anWf n
  | .modeChange r n _ => r.wf && anWf n
  | .tdacWrite r _ _ => r.wf
  | .modulatorLoopReset n => anWf n
  | .chainOutput n ps => anWf n && ps.all Period.wf
  | .syncLandEdge _ => true
  | .caSyncGo r => r.wf
  | .syncApply => true
  | .auxSlotEnd _ _ _ => true
  | .injRequest r _ => r.wf
  | .injComplete _ _ _ => true
  | .cal r => r.wf
  | .autoCalStart => true
  | .calPermitGranted => true
  | .calEnter => true
  | .calOffsetMeans sums => sumsWf sums
  | .calGainMeans sums _ => sumsWf sums
  | .calEnd => true
  | .calFactorWrite r _ _ _ => r.wf
  | .sweep r => r.wf
  | .sweepAbort r => r.wf
  | .sweepStep _ => true
  | .fcCfgWrite r n _ _ => r.wf && anWf n
  | .pdelayWrite r n _ => r.wf && anWf n
  | .presetRecordWrite r _ o _ => r.wf && recordWf o
  | .linkFramesResume _ _ => true
  | .thresholdWrite r n _ _ _ => r.wf && anWf n
  | .diEvWrite r n _ => r.wf && diWf n
  | .modIrqClear r _ => r.wf
  | .dipRequest r _ => r.wf
  | .dipLatch _ => true
  | .dipBankHeld _ => true
  | .dipRelease r _ => r.wf
  | .qCfgWrite r _ _ => r.wf
  | .qPopLo r _ => r.wf
  | .qPopHi r _ => r.wf
  | .qPopStream r _ => r.wf
  | .logScan _ => true
  | .logRecordWrite _ _ => true
  | .logSectorOpen _ _ => true
  | .tuRateWrite r _ => r.wf
  | .tuStep r _ => r.wf
  | .tuSet r _ => r.wf
  | .tuSourceChange r _ => r.wf
  | .tuCanRefSend => true
  | .tuCanRefReceive x => x.wf
  | .ppsEdge => true
  | .ringTimeFrameSend => true
  | .ringTimeFrame _ f _ _ => f.wf
  | .holdoverTimeout => true
  | .scheduleFire _ => true
  | .scheduleWrite r _ _ _ => r.wf
  | .tuTokenGo r _ => r.wf
  | .tokenCopySend => true
  | .ringTokenReceive _ f => f.wf
  | .canModeChange _ => true
  | .canIntegrated _ => true
  | .canFrameReceive _ x => x.wf
  | .lvbLockRead r _ _ => r.wf
  | .lvbStatRead r _ _ => r.wf
  | .lvbLockTimeout r _ _ => r.wf
  | .canTxGo r _ _ => r.wf
  | .canTxFlush r _ => r.wf
  | .canAttemptStart _ => true
  | .canAttemptSuccess _ => true
  | .canAttemptError _ _ => true
  | .canArbitrationLost _ => true
  | .canBusoffRecovery _ => true
  | .canSleepRequest r _ _ => r.wf
  | .canWakeHost r _ _ => r.wf
  | .canWakeEdge _ => true
  | .canWakeFrame _ x => x.wf
  | .ctxKick r _ _ => r.wf
  | .ctxAbort r _ => r.wf
  | .ctxReset r _ => r.wf
  | .engineDispatch => true
  | .sliceExpiry _ => true
  | .runmaxExpiry _ => true
  | .ctxInboxFrame _ _ _ x => x.wf
  | .expectTimeout _ => true
  | .backoffExpiry _ => true
  | .ctxWaitExpiry _ => true
  | .checkpointCommitted _ => true
  | .ctxUnblock _ => true
  | .hoistCacheFillDone _ _ => true
  | .xferTimerExpiry _ => true
  | .hoistMemoryWrite r _ _ => r.wf
  | .jmp _ => true
  | .br _ => true
  | .call _ => true
  | .ret _ => true
  | .loop _ => true
  | .endRun _ => true
  | .fail _ => true
  | .wait _ => true
  | .align _ => true
  | .tset _ => true
  | .tnow _ => true
  | .movi _ => true
  | .mov _ => true
  | .add _ => true
  | .sub _ => true
  | .and _ => true
  | .or _ => true
  | .xor _ => true
  | .shl _ => true
  | .shr _ => true
  | .sar _ => true
  | .cmp _ => true
  | .ldb _ => true
  | .stb _ => true
  | .field _ => true
  | .rdr _ => true
  | .wrr _ => true
  | .send _ => true
  | .sendv _ => true
  | .expect _ => true
  | .expectany _ => true
  | .flush _ => true
  | .xferTx _ => true
  | .xferRx _ => true
  | .cvstart _ => true
  | .cvfeed _ => true
  | .cvchk _ => true
  | .dout _ => true
  | .aout _ => true
  | .din _ => true
  | .ain _ => true
  | .push _ => true
  | .pennant _ => true
  | .checkpoint _ => true
  | .once _ => true
  | .signal _ => true
  | .s0Nop cmd _ room _ _ _ => nopWf cmd room
  | .s0Read cmd _ room _ _ _ => readWf cmd room
  | .s0Write cmd _ data _ _ _ => writeWf cmd data
  | .s0Mode cmd _ _ _ _ _ => modeWf cmd
  | .s0FrameAbort _ _ _ => true
  | .s0EmptyFrame => true
  | .s0FrameTimeout _ _ _ => true
  | .flashWindowReadDone => true
  | .flashPageProgram _ => true
  | .flashWriteDone => true
  | .sp1Erase r _ _ => r.wf
  | .sp1Raw r _ => r.wf
  | .sp1OpDone _ _ _ => true
  | .s2Go r _ _ => r.wf
  | .s2TransferEnd _ => true
  | .s2Modf => true
  | .s2SlaveFrameEnd _ _ => true
  | .s2SlavePost r _ => r.wf
  | .s2RoleChange => true
  | .linkTrainStart _ => true
  | .linkTrainStepDone _ _ _ => true
  | .linkTrainTimeout _ => true
  | .joinListenExpiry _ => true
  | .ringRelock _ => true
  | .relockTimeout => true
  | .probe _ f _ _ => f.wf
  | .remeasure _ f => f.wf
  | .enumStart => true
  | .enum _ f => f.wf
  | .roster _ f => f.wf
  | .enumTimeout => true
  | .enumDone _ f => f.wf
  | .linkDown _ _ => true
  | .reroute _ f => f.wf
  | .linkUp _ _ => true
  | .retrain r _ => r.wf
  | .retrainFrame _ f => f.wf
  | .retrainExecute => true
  | .ringFrameForward _ f _ => f.wf
  | .pause _ _ => true
  | .raGo r _ => r.wf
  | .raReq _ f => f.wf
  | .raRsp _ f => f.wf
  | .raTimeout => true
  | .exportSend => true
  | .exportReceive _ f _ => f.wf
  | .alarmSend => true
  | .alarm _ f => f.wf
  | .cvStart r _ => r.wf
  | .cvFinish r _ => r.wf
  | .cvDma r _ => r.wf
  | .cvAbort r _ => r.wf
  | .cvData r _ _ => r.wf
  | .cvData8 r _ _ => r.wf
  | .cvDmaDone _ => true
  | .cvHoldTimeout _ => true
  | .cvConfigWrite r _ _ _ => r.wf
  | .logicFeedLoss _ => true
  | .tileFeedChange _ _ _ _ => true
  | .tilePowerLoss _ => true
  | .clockMonitorTrip _ => true
  | .heartbeatMiss _ => true
  | .selfcheckReport _ _ => true
  | .digestForm _ _ _ => true
  | .digestCompare => true
  | .selfcheckDone _ _ => true
  | .disagreeClear => true
  | .arbiterHeartbeatLoss => true
  | .tileClockSourceSwitch _ => true
  | .halyardImmediate => true
  | .immediateAckTimeout => true
  | .journalEpochClose => true
  | .journalCommit => true
  | .journalLagTimeout => true
  | .rejoinStart _ => true
  | .rejoinComplete _ => true
  | .takeover => true
  | .newActiveReady => true
  | .switch r => r.wf
  | .switchoverComplete => true
  | .switchWaitExpiry => true
  | .domtest r => r.wf
  | .domtestEnd _ => true
  | .feedtest r _ => r.wf
  | .feedtestSchedule => true
  | .feedtestEnd _ _ => true
  | .linktrain r _ => r.wf
  | .nvmwrite r => r.wf
  | .release r => r.wf
  | .rejoin r => r.wf
  | .scrub _ _ _ _ _ => true
  | .bankMarch _ => true
  | .logicSliceTest _ => true
  | .canLoopbackTest _ => true
  | .burgee _ => true
  | .wdogService r => r.wf
  | .wdogExpiry => true
  | .powerReqRun r => r.wf
  | .powerReqLean r => r.wf
  | .powerReqDoze r => r.wf
  | .powerReqSleep r => r.wf
  | .leanSwitch => true
  | .sleepEntry => true
  | .sleepEntryTimeout => true
  | .idleSleepReturn => true
  | .wakeLandEdge _ => true
  | .sleepWake => true
  | .wakeComplete => true
  | .powerOn _ _ => true
  | .domainRelease _ _ => true
  | .tileLinkTrained _ _ => true
  | .tileLinkRetry _ _ => true
  | .resetN => true
  | .cold r _ => r.wf
  | .warm r _ => r.wf
  | .tileRst r _ _ => r.wf
  | .canRxError _ _ _ _ => true
  | .receiverRelock _ => true
  | .tileLinkLoss _ _ => true
  | .arbiterHeartbeatReturn => true
  | .timeLockTimeout => true
  | .logFlashDone _ _ => true
  | .s2SlaveFrameStart => true
  | .unassignedOpcode _ => true

end Sys2Proof
end

