-- ==== Sys2Proof/Tests/Slice0.lean ====
section
/-! SUPPORT. Tests: an ill-formed command for each check of well-formedness, values that the spec works out, and for each statement with hypotheses a state and
operands that meet them. -/

namespace Sys2Proof.Tests

open Sys2Proof Sys2Proof.Machine

set_option Elab.async false

/-! ### Well-formedness -/

theorem test_wf_loader_is_no_requester : (Instr.caSyncGo .loader).wf = false := by decide
theorem test_wf_address_not_aligned : (Instr.registerWrite .s0 0x22 0).wf = false := by decide
theorem test_wf_input_position : (Instr.diEdgesPreset .s0 8 0).wf = false := by decide
theorem test_wf_output_position : (Instr.thermalShutdown 12).wf = false := by decide
theorem test_wf_digital_position : (Instr.digitalDiagDetect 12 0).wf = false := by decide
theorem test_wf_analog_position : (Instr.lpHiccupOn 11).wf = false := by decide
theorem test_wf_current_output_position : (Instr.aoSetWrite .s0 13 0).wf = false := by decide
theorem test_wf_frame_too_long : (Instr.canFrameReceive 0 { idw := 0, data := List.replicate 2049 0 }).wf = false := by decide +kernel
theorem test_wf_ring_frame_too_long : (Instr.enum 0 { data := List.replicate 65 0 }).wf = false := by decide
theorem test_wf_period_code : (Instr.chainOutput 12 [{ code := 8 }]).wf = false := by decide
theorem test_wf_record_register : (Instr.presetRecordWrite .s0 0 0x18 0).wf = false := by decide
theorem test_wf_calibration_sums : (Instr.calOffsetMeans [0]).wf = false := by decide
theorem test_wf_nop_room : (Instr.s0Nop 0x00100600 0 [0] 0 [] false).wf = false := by decide
theorem test_wf_read_op : (Instr.s0Read 0x20210500 0 [0, 0, 0] 0 [] false).wf = false := by decide
theorem test_wf_write_data : (Instr.s0Write 0x20210500 0 [0, 0] 0 [] false).wf = false := by decide
theorem test_wf_mode_op : (Instr.s0Mode 0x10000000 0 0 0 [] false).wf = false := by decide
theorem test_wf_read_accepted : (Instr.s0Read 0x10210500 0x000305A0 [0, 0, 0] 0 [] false).wf = true := by decide

/-! ### Values of the spec -/

/-- The nine ASCII bytes "123456789". -/
def digits : List Byte := [0x31, 0x32, 0x33, 0x34, 0x35, 0x36, 0x37, 0x38, 0x39]

/-- R405: over "123456789" the CRC of an S0 frame is 0x29B1. -/
theorem test_s0_crc : digits.foldl crc16Byte 0xFFFF = 0x29B1 := by decide +kernel

/-- The settings of the two units with test vectors (15_check_value_units). -/
def cv2 : CvPar := { w := 16, poly := 0x8005, init := 0xFFFF, xorout := 0, refin := true, refout := true }
def cv4 : CvPar := { w := 32, poly := 0x04C11DB7, init := 0xFFFFFFFF, xorout := 0xFFFFFFFF, refin := true, refout := true }

theorem test_cv2_vector : cv2.finish (cv2.feed cv2.start digits) = 0x4B37 := by decide +kernel
theorem test_cv4_vector : cv4.finish (cv4.feed cv4.start digits) = 0xCBF43926 := by decide +kernel
theorem test_cv2_no_bytes : cv2.finish cv2.start = 0xFFFF := by decide +kernel
theorem test_cv4_no_bytes : cv4.finish cv4.start = 0 := by decide +kernel

/-- The worked user preset (06_filter_chain), written to U0 of a module in RUN. -/
def presetU0 : State :=
  [(0x00, 0x80040040), (0x04, 0x00800000), (0x08, 0x05010003), (0x0C, 0x01770101), (0x10, 0x00170018), (0x14, 0),
   (0x100, 0x00080000), (0x104, 0x00200000), (0x108, 0x00300000), (0x10C, 0x00200000), (0x110, 0x00080000)].foldl
    (fun s p => match exec (.presetRecordWrite .s0 0 p.1 (BitVec.ofNat 32 p.2)) s with | .next t => t | _ => s)
    ({ pw := { on := true, power := 1 }, sv := { roleA := .active, anyActive := true } : State }.put .BT_STAT_STATE 1)

theorem test_preset_decimation : rd presetU0 0xF820 = 0x0002EE00 := by decide +kernel
theorem test_preset_span : rd presetU0 0xF81C = 0x00030F7D := by decide +kernel
theorem test_preset_delay : rd presetU0 0xF824 = 200572 := by decide +kernel
theorem test_preset_suppression : (presetU0.get (.PR_STAT_SUPP_EFF 8), presetU0.is (.PR_STAT_ERR 8), presetU0.is (.PR_STAT_DCG_NE1 8)) = (2, false, false) := by
  decide +kernel

/-- The worked conversation with the wind sensor (12_hoist_programs): instruction words and their fields. -/
theorem test_word_ldb : (opOf 0x8C5A0001, (fieldsOf 0x8C5A0001 0).d, (fieldsOf 0x8C5A0001 0).a, (fieldsOf 0x8C5A0001 0).i, (fieldsOf 0x8C5A0001 0).k) =
    (0x23, 1, 6, true, 1) := by decide
theorem test_word_shl : (opOf 0x7C460010, (fieldsOf 0x7C460010 0).d, (fieldsOf 0x7C460010 0).a, (fieldsOf 0x7C460010 0).i, (fieldsOf 0x7C460010 0).k) =
    (0x1F, 1, 1, true, 16) := by decide
theorem test_word_or : (opOf 0x74440002, (fieldsOf 0x74440002 0).d, (fieldsOf 0x74440002 0).a, (fieldsOf 0x74440002 0).i, (fieldsOf 0x74440002 0).k) =
    (0x1D, 1, 1, false, 2) := by decide

/-- The block addresses that the spec names: channel 61's CH_FC_CFG, the pop registers of Q22, unit CV4's block. -/
theorem test_addresses : (Reg.CH_FC_CFG 61, Reg.Q_POP_LO 22, Reg.CV_CFG 4) = (0x23DA0, 0x305A0, 0x3100) := by decide

/-- The channel of T05.17 is 93, an analog position; 88 is an output (00_scope, 19_electrical_package_life). -/
theorem test_positions : (isAN 93, isDO 88, isDI 93) = (true, true, false) := by decide

/-! ### States of a module -/

/-- a module in RUN -/
def runS : State :=
  let s : State := { pw := { on := true, power := 1 }, sv := { roleA := .active, roleB := .standby, stby := .inStep, anyActive := true, feedA := true, feedB := true, epoch := 5 },
                     tu := { acc := 49152000 * 2 ^ 32 * 100 },
                     tiles := (List.range 16).map (fun t => (t, { power := true, epoch := 5, obey := some .a })) }
  s.put .BT_STAT_STATE 1
def qS : State := { ((runS.put (.Q_CFG_ESIZE 5) 1).put (.Q_CFG_DEPTH 5) 4).set1 (.Q_CFG_HOST 5) with
  queues := [(5, { ents := [{ pos := 0, len := 8 }], wpos := 8, wcnt := 1 })], qmem := [(0, 0x11), (1, 0x22)] }
/-- a log region of two sectors of 4 KiB on select 0 -/
def logS : State := (((((runS.put (.LOG_BASE_ADDR 2) 0x3000000).put (.LOG_SIZE_SLOG2 2) 12).put (.LOG_SIZE_SECTORS 2) 2).put ⟨Reg.SP1_ERASE 0, 7, 0⟩ 12).put (.SP1_DISC_VALID 0) 1).put (.SP1_DISC_SIZE 0) 26
def logQ : State := { ((((((qS.set1 (.Q_CFG_LOG 5)).put (.LOG_BASE_ADDR 2) 0x3000000).put (.LOG_SIZE_SLOG2 2) 12).put (.LOG_SIZE_SECTORS 2) 2).put ⟨Reg.SP1_ERASE 0, 7, 0⟩ 12).put (.SP1_DISC_VALID 0) 1).put (.SP1_DISC_SIZE 0) 26 with logMap := [(5, 2)] }
/-- an instruction word -/
def iw (op d a i x k : Nat) : Word := BitVec.ofNat 32 (op * 2 ^ 26 + d * 2 ^ 22 + a * 2 ^ 18 + i * 2 ^ 17 + x * 2 ^ 16 + k)
/-- engine 2 executes context 3, whose next words are `ws` -/
def hoS (ws : List Word) : State :=
  let s : State := { runS with engs := [(2, { ctx := some 3 })] }
  let s := ((s.set1 (.CTX_CFG_EN 3)).put (.CTX_STAT_STATE 3) 2).set1 (.CTX_STAT_ON_ENG 3) |>.put (.CTX_STAT_ENG 3) 2
  let s := wr (Reg.CTX_PROG 3) 0x80000 (s.modCtx 3 (fun x => { x with pc := 0x80010 }))
  let s := setV 3 1 0x80000005 (setV 3 2 3 (setV 3 4 0xFFFFFFFF s))
  (ws.zipIdx).foldl (fun s p => wr (0x80010 + 4 * p.2) p.1 s) s
/-- a module with both ring links up, running at address `a`; address 0 is the head -/
def ringS (a : Nat) : State :=
  let s := (((((runS.set1 .CSN_CFG_EN).set1 (.CSN_LK_STAT_UP 0)).set1 (.CSN_LK_STAT_UP 1)).put .CSN_STAT_STATE 5).put .CSN_STAT_ADDR a).putB .CSN_STAT_HEAD (a = 0)
  ((s.put .CSN_STAT_N 3).put .CSN_EPOCH_EPOCH 7).modCsn (fun c => { c with closed := false })
/-- a boot report on image slot 0 -/
def bootR : BootRep := { slot := some 0, digest := [], res0 := 0, res1 := 0 }
/-- a module whose boot walk has reported and whose image may be applied -/
def bootS : State :=
  let s : State := { pw := { on := true }, sv := { roleA := .standby, roleB := .absent, feedA := true } }
  s.modBt (fun b => { b with apply := some 0, repA := some bootR })

/-! ### Hypotheses met: the step, the reset, invariants and frames -/

theorem witness_StepRunsFrontCommand : ∃ (c : Instr) (rest : List Instr) (s : State), s.pending = c :: rest :=
  ⟨.caSyncGo .s0, [], { pending := [.caSyncGo .s0] }, rfl⟩

theorem witness_EmptyQueueTicksTheClock :
    (∃ s : State, s.pending = [] ∧ s.pw.on = false) ∧
    (∃ s u : State, s.pending = [] ∧ s.pw.on = true ∧
      u = { s with tu := { s.tu with acc := (s.tu.acc + rateInc (rateOf s)) % 2 ^ 96, edges := s.tu.edges + 1 } } ∧ latchDue u 0 = false ∧ latchDue u 1 = false) :=
  ⟨⟨{}, rfl, rfl⟩, ⟨runS, _, rfl, rfl, rfl, by decide +kernel, by decide +kernel⟩⟩

theorem witness_CommandsLeaveTheQueue : ∃ (c : Instr) (s t : State), exec c s = .next t :=
  ⟨.canIntegrated 1, runS, _, rfl⟩

/-- A module in RUN with a command waiting. -/
def waiting : State := { runS with pending := [.canIntegrated 1] }

theorem witness_StepKeepsMemoriesCanonical : ∃ s t : State, s.memWf = true ∧ step s = .next t :=
  ⟨waiting, _, by decide +kernel, rfl⟩

theorem witness_StepKeepsOneActiveDomain : ∃ s t : State, s.rolesOk ∧ step s = .next t :=
  ⟨waiting, _, ⟨by decide +kernel, by decide +kernel⟩, rfl⟩

theorem witness_StepNeverClearsOtpBits : ∃ s t : State, step s = .next t :=
  ⟨waiting, _, rfl⟩

theorem witness_StoredBytesChangeOnlyWhereNamed :
    (∃ (c : Instr) (s t : State), (effects c).otp = false ∧ exec c s = .next t) ∧ (∃ (c : Instr) (s t : State), (effects c).flash = false ∧ exec c s = .next t) ∧
    (∃ (c : Instr) (s t : State), (effects c).qmem = false ∧ exec c s = .next t) :=
  ⟨⟨.canIntegrated 1, runS, _, rfl, rfl⟩, ⟨.canIntegrated 1, runS, _, rfl, rfl⟩, ⟨.canIntegrated 1, runS, _, rfl, rfl⟩⟩

theorem witness_RolesAndPowerChangeOnlyWhereNamed :
    (∃ (c : Instr) (s t : State), (effects c).roles = false ∧ exec c s = .next t) ∧ (∃ (c : Instr) (s t : State), (effects c).power = false ∧ exec c s = .next t) :=
  ⟨⟨.canIntegrated 1, runS, _, rfl, rfl⟩, ⟨.canIntegrated 1, runS, _, rfl, rfl⟩⟩

/-! ### Hypotheses met: register access, the image, trust commands and the families of commands -/

theorem witness_RegisterWritesAreStored :
    (∃ (s : State) (r : Req), Admitted s r Reg.MOD_IRQ_EN Msk.MOD_IRQ_EN) ∧
    (∃ (s : State) (r : Req), Admitted s r Reg.EV_CFG Msk.EV_CFG) ∧
    (∃ (s : State) (r : Req), Admitted s r Reg.SV_BURGEE Msk.SV_BURGEE) ∧
    (∃ (s : State) (r : Req) (a : Word), a.toNat % 4 = 0 ∧ isHoistMem a.toNat = true ∧ Admitted s r a.toNat hoistMask) ∧
    (∃ (s : State) (r : Req) (a : Word), (a.toNat % 4 ≠ 0 ∨ (served s r a.toNat = false ∧ a.toNat < 0x400000))) ∧
    (∃ (s : State) (r : Req) (i : BitVec 16), Admitted s r (0x80000 + 4 * i.toNat) hoistMask) ∧
    (∃ (s : State) (r : Req) (i : BitVec 16), served s r (0x80000 + 4 * i.toNat) = false) ∧
    (∃ (s : State) (r : Req) (i : BitVec 16), served s r (0x80000 + 4 * i.toNat) = true ∧ s0ReadOnly s r = true) ∧
    (∃ (s : State) (r : Req) (i : BitVec 16), served s r (0x80000 + 4 * i.toNat) = true ∧ s0ReadOnly s r = false ∧ s.is .MOD_CFG_LOCK_CFG = true) ∧
    (∃ (s : State) (r : Req), served s r Reg.MOD_IRQ = true) ∧
    (∃ (s : State) (r : Req), served s r Reg.MOD_IRQ = false) :=
  ⟨⟨runS, .s0, ⟨by decide +kernel, by decide +kernel, by decide +kernel⟩⟩,
   ⟨runS, .s0, ⟨by decide +kernel, by decide +kernel, by decide +kernel⟩⟩,
   ⟨runS, .s0, ⟨by decide +kernel, by decide +kernel, by decide +kernel⟩⟩,
   ⟨runS, .s0, 0x80010, by decide +kernel, by decide +kernel, ⟨by decide +kernel, by decide +kernel, by decide +kernel⟩⟩,
   ⟨runS, .s0, 0x80011, by decide +kernel⟩,
   ⟨runS, .s0, 5, ⟨by decide +kernel, by decide +kernel, by decide +kernel⟩⟩,
   ⟨{}, .s0, 5, by decide +kernel⟩,
   ⟨runS.set1 .MOD_CFG_LOCK_S0_RO, .s0, 5, by decide +kernel, by decide +kernel⟩,
   ⟨runS.set1 .MOD_CFG_LOCK_CFG, .s0, 5, by decide +kernel, by decide +kernel, by decide +kernel⟩,
   ⟨runS.put ⟨Reg.MOD_IRQ, 3, 0⟩ 15, .s0, by decide +kernel⟩,
   ⟨{}, .s0, by decide +kernel⟩⟩

theorem witness_ReadOnlyHostPortRefusesWrites :
    (∃ (s : State) (a : Word), a.toNat % 4 = 0 ∧ a.toNat < 0x800000 ∧ (¬ (0x32000 ≤ a.toNat ∧ a.toNat < 0x32100)) ∧ a.toNat ≠ Reg.MOD_WDOG ∧ served s .s0
      a.toNat = true ∧ s.is .MOD_CFG_LOCK_S0_RO = true ∧ (busMask a.toNat).w1c = 0 ∧ (busMask a.toNat).rwl ||| (busMask a.toNat).rw ||| (busMask a.toNat).wo
      ≠ 0) :=
  ⟨runS.set1 .MOD_CFG_LOCK_S0_RO, wd Reg.EV_CFG, by decide +kernel, by decide +kernel, by decide +kernel, by decide +kernel, by decide +kernel,
     by decide +kernel, by decide +kernel, by decide +kernel⟩

theorem witness_ConfigurationLockKeepsFields :
    (∃ (s : State) (r : Req), served s r Reg.EV_CFG = true ∧ s0ReadOnly s r = false ∧ s.is .MOD_CFG_LOCK_CFG = true) :=
  ⟨runS.set1 .MOD_CFG_LOCK_CFG, .ring, by decide +kernel, by decide +kernel, by decide +kernel⟩

theorem witness_WideValuesReadWhole :
    (∃ (s : State) (r : Req) (a : Word) (b : Nat) (n : Nat), a.toNat % 4 = 0 ∧ wideOf a.toNat = some (b, n) ∧ readServed s r = true ∧ a.toNat = b ∧ 0 < n) ∧
    (∃ (s : State) (r : Req) (a : Word) (b : Nat) (n : Nat), a.toNat % 4 = 0 ∧ wideOf a.toNat = some (b, n) ∧ readServed s r = true ∧ a.toNat ≠ b ∧ (kget
      ⟨0, []⟩ s.rsh (reqIx r)).addr = b) ∧
    (∃ (s : State) (r : Req) (a : Word) (b : Nat) (n : Nat), a.toNat % 4 = 0 ∧ wideOf a.toNat = some (b, n) ∧ readServed s r = true ∧ a.toNat ≠ b ∧ (kget
      ⟨0, []⟩ s.rsh (reqIx r)).addr ≠ b) ∧
    (∃ (s : State) (r : Req) (a : Word) (b : Nat) (n : Nat), a.toNat % 4 = 0 ∧ wideOf a.toNat = some (b, n) ∧ readServed s r = true ∧ a.toNat = b ∧ 0 < n
      ∧ crossesIsland r b = true) ∧
    (∃ (s : State) (r : Req) (a : Word), (a.toNat % 4 ≠ 0 ∨ wideLow a.toNat = false ∨ readServed s r = false)) ∧
    (∃ (s : State) (r : Req) (a : Word), (a.toNat % 4 ≠ 0 ∨ wideOf a.toNat = none ∨ wideLow a.toNat = true ∨ readServed s r = false)) :=
  ⟨⟨runS, .s0, 0x28, 0x28, 2, by decide +kernel, by decide +kernel, by decide +kernel, by decide +kernel, by decide +kernel⟩,
   ⟨{ runS with rsh := [(1, ⟨0x28, [1, 2]⟩)] }, .s0, 0x2C, 0x28, 2, by decide +kernel, by decide +kernel, by decide +kernel, by decide +kernel,
     by decide +kernel⟩,
   ⟨runS, .s0, 0x2C, 0x28, 2, by decide +kernel, by decide +kernel, by decide +kernel, by decide +kernel, by decide +kernel⟩,
   ⟨runS, .s0, 0x28, 0x28, 2, by decide +kernel, by decide +kernel, by decide +kernel, by decide +kernel, by decide +kernel, by decide +kernel⟩,
   ⟨runS, .s0, 0x2C, by decide +kernel⟩,
   ⟨runS, .s0, 0x28, by decide +kernel⟩⟩

theorem witness_WideValuesWriteWhole :
    (∃ (s : State) (r : Req), Admitted s r (Reg.MOD_DIP_TGT 0) (maskAt (Reg.MOD_DIP_TGT 0))) ∧
    (∃ (s : State) (r : Req), Admitted s r (Reg.MOD_DIP_TGT 0) (maskAt (Reg.MOD_DIP_TGT 0))) ∧
    (∃ (s : State) (r : Req), Admitted s r (Reg.MOD_DIP_TGT 1) (maskAt (Reg.MOD_DIP_TGT 1))) ∧
    (∃ (s : State) (r : Req) (a : Word), (a.toNat % 4 ≠ 0 ∨ wideOf a.toNat = none ∨ wideTop a.toNat = true ∨ served s r a.toNat = false)) ∧
    (∃ (s : State) (r : Req) (a : Word), (a.toNat % 4 ≠ 0 ∨ wideTop a.toNat = false ∨ served s r a.toNat = false)) :=
  ⟨⟨runS, .s0, ⟨by decide +kernel, by decide +kernel, by decide +kernel⟩⟩,
   ⟨runS, .s0, ⟨by decide +kernel, by decide +kernel, by decide +kernel⟩⟩,
   ⟨shadowPut .s0 (Reg.MOD_DIP_TGT 0) (Reg.MOD_DIP_TGT 0) 9 runS, .s0, ⟨by decide +kernel, by decide +kernel, by decide +kernel⟩⟩,
   ⟨runS, .s0, wd (Reg.MOD_DIP_TGT 1), by decide +kernel⟩,
   ⟨runS, .s0, wd (Reg.MOD_DIP_TGT 0), by decide +kernel⟩⟩

theorem witness_ImageStartReports :
    (∃ (s : State), s.get .BT_STAT_STATE = 0 ∧ s.bt.sfdp = false ∧ s.get .MOD_START_STEP = 2) ∧
    (∃ (s : State), (s.get .BT_STAT_STATE ≠ 0 ∨ s.bt.sfdp = true ∨ s.get .MOD_START_STEP ≠ 2)) ∧
    (∃ (s : State) (d : Dom), s.bt.sfdp = true ∧ s.get .BT_STAT_STATE = 0 ∧ roleOf s d = .standby ∧ repOf s d = none ∧ s.bt.apply = none) ∧
    (∃ (s : State) (d : Dom), (s.bt.sfdp = false ∨ s.get .BT_STAT_STATE ≠ 0 ∨ roleOf s d ≠ .standby ∨ repOf s d ≠ none ∨ s.bt.apply ≠ none)) ∧
    (∃ (s : State) (x : BootRep) (y : BootRep) (k : Nat), s.get .BT_STAT_STATE = 0 ∧ s.bt.apply = none ∧ repHere s .a = some x ∧ repHere s .b = some y ∧
      x.slot = some k ∧ y.slot = some k ∧ x.digest = y.digest) ∧
    (∃ (s : State) (x : BootRep) (y : BootRep), s.get .BT_STAT_STATE = 0 ∧ s.bt.apply = none ∧ repHere s .a = some x ∧ repHere s .b = some y ∧ x.slot =
      none ∧ y.slot = none ∧ x.digest = y.digest) ∧
    (∃ (s : State) (x : BootRep) (y : BootRep), s.get .BT_STAT_STATE = 0 ∧ s.bt.apply = none ∧ repHere s .a = some x ∧ repHere s .b = some y ∧ (x.slot ≠
      y.slot ∨ x.digest ≠ y.digest) ∧ s.bt.repeated = false) ∧
    (∃ (s : State) (x : BootRep) (y : BootRep), s.get .BT_STAT_STATE = 0 ∧ s.bt.apply = none ∧ repHere s .a = some x ∧ repHere s .b = some y ∧ x.slot =
      none ∧ y.slot ≠ none ∧ s.bt.repeated = true) ∧
    (∃ (s : State) (x : BootRep) (y : BootRep), s.get .BT_STAT_STATE = 0 ∧ s.bt.apply = none ∧ repHere s .a = some x ∧ repHere s .b = some y ∧ x.slot ≠
      none ∧ y.slot = none ∧ s.bt.repeated = true) ∧
    (∃ (s : State) (x : BootRep) (y : BootRep), s.get .BT_STAT_STATE = 0 ∧ s.bt.apply = none ∧ repHere s .a = some x ∧ repHere s .b = some y ∧ x.slot ≠
      none ∧ y.slot ≠ none ∧ (x.slot ≠ y.slot ∨ x.digest ≠ y.digest) ∧ s.bt.repeated = true) ∧
    (∃ (s : State) (x : BootRep), s.get .BT_STAT_STATE = 0 ∧ s.bt.apply = none ∧ repHere s .a = some x ∧ roleOf s .b ≠ .standby) ∧
    (∃ (s : State) (x : BootRep), s.get .BT_STAT_STATE = 0 ∧ s.bt.apply = none ∧ repHere s .b = some x ∧ roleOf s .a ≠ .standby) ∧
    (∃ (s : State) (x : BootRep), s.get .BT_STAT_STATE = 0 ∧ s.bt.apply = none ∧ repHere s .a = some x ∧ roleOf s .b ≠ .standby ∧ x.slot = none ∧
      noneActive s = true) ∧
    (∃ (s : State), (s.get .BT_STAT_STATE ≠ 0 ∨ s.bt.apply ≠ none ∨ (roleOf s .a = .standby ∧ s.bt.repA = none) ∨ (roleOf s .b = .standby ∧ s.bt.repB =
      none) ∨ (roleOf s .a ≠ .standby ∧ roleOf s .b ≠ .standby))) :=
  ⟨⟨({ pw := { on := true } } : State).put .MOD_START_STEP 2, by decide +kernel, by decide +kernel, by decide +kernel⟩,
   ⟨runS, by decide +kernel⟩,
   ⟨({ pw := { on := true }, sv := { roleA := .standby } } : State).modBt (fun b => { b with sfdp := true }), .a, by decide +kernel, by decide +kernel,
     by decide +kernel, by decide +kernel, by decide +kernel⟩,
   ⟨runS, .a, by decide +kernel⟩,
   ⟨(({ pw := { on := true }, sv := { roleA := .standby, roleB := .standby, feedA := true, feedB := true } } : State).modBt (fun b =>
     { b with repA := some bootR, repB := some bootR })), bootR, bootR, 0, by decide +kernel, by decide +kernel, by decide +kernel, by decide +kernel,
     by decide +kernel, by decide +kernel, by decide +kernel⟩,
   ⟨(({ pw := { on := true }, sv := { roleA := .standby, roleB := .standby, feedA := true, feedB := true } } : State).modBt (fun b =>
     { b with repA := some { bootR with slot := none }, repB := some { bootR with slot := none } })), { bootR with slot := none },
     { bootR with slot := none }, by decide +kernel, by decide +kernel, by decide +kernel, by decide +kernel, by decide +kernel, by decide +kernel,
     by decide +kernel⟩,
   ⟨(({ pw := { on := true }, sv := { roleA := .standby, roleB := .standby, feedA := true, feedB := true } } : State).modBt (fun b =>
     { b with repA := some bootR, repB := some { bootR with slot := some 1 } })), bootR, { bootR with slot := some 1 }, by decide +kernel,
     by decide +kernel, by decide +kernel, by decide +kernel, by decide +kernel, by decide +kernel⟩,
   ⟨(({ pw := { on := true }, sv := { roleA := .standby, roleB := .standby, feedA := true, feedB := true } } : State).modBt (fun b =>
     { b with repA := some { bootR with slot := none }, repB := some bootR, repeated := true })), { bootR with slot := none }, bootR, by decide +kernel,
     by decide +kernel, by decide +kernel, by decide +kernel, by decide +kernel, by decide +kernel, by decide +kernel⟩,
   ⟨(({ pw := { on := true }, sv := { roleA := .standby, roleB := .standby, feedA := true, feedB := true } } : State).modBt (fun b =>
     { b with repA := some bootR, repB := some { bootR with slot := none }, repeated := true })), bootR, { bootR with slot := none }, by decide +kernel,
     by decide +kernel, by decide +kernel, by decide +kernel, by decide +kernel, by decide +kernel, by decide +kernel⟩,
   ⟨(({ pw := { on := true }, sv := { roleA := .standby, roleB := .standby, feedA := true, feedB := true } } : State).modBt (fun b =>
     { b with repA := some bootR, repB := some { bootR with slot := some 1 }, repeated := true })), bootR, { bootR with slot := some 1 },
     by decide +kernel, by decide +kernel, by decide +kernel, by decide +kernel, by decide +kernel, by decide +kernel, by decide +kernel,
     by decide +kernel⟩,
   ⟨(({ pw := { on := true }, sv := { roleA := .standby, roleB := .standby, feedA := true, feedB := true } } : State).modBt (fun b =>
     { b with repA := some bootR, repB := some bootR })).modSv (fun v => { v with roleB := .absent }), bootR, by decide +kernel, by decide +kernel,
     by decide +kernel, by decide +kernel⟩,
   ⟨(({ pw := { on := true }, sv := { roleA := .standby, roleB := .standby, feedA := true, feedB := true } } : State).modBt (fun b =>
     { b with repA := some bootR, repB := some bootR })).modSv (fun v => { v with roleA := .absent }), bootR, by decide +kernel, by decide +kernel,
     by decide +kernel, by decide +kernel⟩,
   ⟨(({ pw := { on := true }, sv := { roleA := .standby, roleB := .standby, feedA := true, feedB := true } } : State).modBt (fun b =>
     { b with repA := some { bootR with slot := none }, repB := some { bootR with slot := none } })).modSv (fun v => { v with roleB := .absent }),
     { bootR with slot := none }, by decide +kernel, by decide +kernel, by decide +kernel, by decide +kernel, by decide +kernel, by decide +kernel⟩,
   ⟨runS, by decide +kernel⟩⟩

theorem witness_TrustCommands :
    (∃ (s : State) (r : Req) (x : Fin 16), Admitted s r Reg.BT_CMD Msk.BT_CMD ∧ s.is .BT_CMD_BUSY = false ∧ x.val < 2 ∧ attestOk s (argDom x) = true) ∧
    (∃ (s : State) (r : Req) (x : Fin 16), Admitted s r Reg.BT_CMD Msk.BT_CMD ∧ s.is .BT_CMD_BUSY = false ∧ (2 ≤ x.val ∨ attestOk s (argDom x) = false)) ∧
    (∃ (s : State) (r : Req) (x : Fin 16), Admitted s r Reg.BT_CMD Msk.BT_CMD ∧ s.is .BT_CMD_BUSY = false ∧ s.is .MOD_CFG_LOCK_OTP = false ∧ keyProgOk s x
      = true) ∧
    (∃ (s : State) (r : Req) (x : Fin 16), Admitted s r Reg.BT_CMD Msk.BT_CMD ∧ s.is .BT_CMD_BUSY = false ∧ s.is .MOD_CFG_LOCK_OTP = false ∧ keyProgOk s x
      = false) ∧
    (∃ (s : State) (r : Req) (x : Fin 16), Admitted s r Reg.BT_CMD Msk.BT_CMD ∧ s.is .BT_CMD_BUSY = false ∧ s.is .MOD_CFG_LOCK_OTP = false ∧ keyRevokeOk s
      x = true) ∧
    (∃ (s : State) (r : Req) (x : Fin 16), Admitted s r Reg.BT_CMD Msk.BT_CMD ∧ s.is .BT_CMD_BUSY = false ∧ s.is .MOD_CFG_LOCK_OTP = false ∧ keyRevokeOk s
      x = false) ∧
    (∃ (s : State) (r : Req), Admitted s r Reg.BT_CMD Msk.BT_CMD ∧ s.is .BT_CMD_BUSY = false ∧ s.is .MOD_CFG_LOCK_OTP = false ∧ rollOk s = true) ∧
    (∃ (s : State) (r : Req), Admitted s r Reg.BT_CMD Msk.BT_CMD ∧ s.is .BT_CMD_BUSY = false ∧ s.is .MOD_CFG_LOCK_OTP = false ∧ rollOk s = false) ∧
    (∃ (s : State) (r : Req), Admitted s r Reg.BT_CMD Msk.BT_CMD ∧ s.is .BT_CMD_BUSY = false ∧ s.is .MOD_CFG_LOCK_OTP = true) ∧
    (∃ (s : State) (r : Req), Admitted s r Reg.BT_CMD Msk.BT_CMD ∧ s.is .BT_CMD_BUSY = false ∧ s.is .MOD_CFG_LOCK_OTP = true) ∧
    (∃ (s : State) (r : Req), Admitted s r Reg.BT_CMD Msk.BT_CMD ∧ s.is .BT_CMD_BUSY = false ∧ s.is .MOD_CFG_LOCK_OTP = true) ∧
    (∃ (s : State) (r : Req), Admitted s r Reg.BT_CMD Msk.BT_CMD ∧ s.is .BT_CMD_BUSY = true) ∧
    (∃ (s : State) (r : Req), Admitted s r Reg.BT_CMD Msk.BT_CMD ∧ s.is .BT_CMD_BUSY = true) ∧
    (∃ (s : State) (r : Req), Admitted s r Reg.BT_CMD Msk.BT_CMD ∧ s.is .BT_CMD_BUSY = true) ∧
    (∃ (s : State) (r : Req), Admitted s r Reg.BT_CMD Msk.BT_CMD ∧ s.is .BT_CMD_BUSY = true) ∧
    (∃ (s : State) (x : Nat) (l : List Byte), s.bt.cmd = some ⟨1, x, l⟩) ∧
    (∃ (s : State) (x : Nat) (l : List Byte), s.bt.cmd = some ⟨2, x, l⟩ ∧ l.length = 32 ∧ x < 2) ∧
    (∃ (s : State) (x : Nat), s.bt.cmd = some ⟨3, x, []⟩ ∧ x < 3) ∧
    (∃ (s : State) (x : Nat), s.bt.cmd = some ⟨4, x, []⟩ ∧ x ≤ 128) ∧
    (∃ (s : State) (x : Nat) (l : List Byte), s.bt.cmd = some ⟨1, x, l⟩) ∧
    (∃ (s : State) (k : TrustCmd), s.bt.cmd = some k ∧ k.op ≠ 1) ∧
    (∃ (s : State) (k : TrustCmd), s.bt.cmd = some k ∧ k.op ≠ 1) ∧
    (∃ (s : State), s.bt.cmd = none) :=
  ⟨⟨runS, .s0, 1, ⟨by decide +kernel, by decide +kernel, by decide +kernel⟩, by decide +kernel, by decide +kernel, by decide +kernel⟩,
   ⟨runS, .s0, 5, ⟨by decide +kernel, by decide +kernel, by decide +kernel⟩, by decide +kernel, by decide +kernel⟩,
   ⟨wr (Reg.BT_KEYBUF 0) 5 runS, .s0, 1, ⟨by decide +kernel, by decide +kernel, by decide +kernel⟩, by decide +kernel, by decide +kernel,
     by decide +kernel⟩,
   ⟨runS, .s0, 1, ⟨by decide +kernel, by decide +kernel, by decide +kernel⟩, by decide +kernel, by decide +kernel, by decide +kernel⟩,
   ⟨{ runS with otp := [(0, 1)] }.put .BT_STAT_KEY_USED 0, .s0, 1, ⟨by decide +kernel, by decide +kernel, by decide +kernel⟩, by decide +kernel,
     by decide +kernel, by decide +kernel⟩,
   ⟨runS, .s0, 1, ⟨by decide +kernel, by decide +kernel, by decide +kernel⟩, by decide +kernel, by decide +kernel, by decide +kernel⟩,
   ⟨runS, .s0, ⟨by decide +kernel, by decide +kernel, by decide +kernel⟩, by decide +kernel, by decide +kernel, by decide +kernel⟩,
   ⟨runS.put .BT_STAT_STATE 2, .s0, ⟨by decide +kernel, by decide +kernel, by decide +kernel⟩, by decide +kernel, by decide +kernel, by decide +kernel⟩,
   ⟨runS.set1 .MOD_CFG_LOCK_OTP, .s0, ⟨by decide +kernel, by decide +kernel, by decide +kernel⟩, by decide +kernel, by decide +kernel⟩,
   ⟨runS.set1 .MOD_CFG_LOCK_OTP, .s0, ⟨by decide +kernel, by decide +kernel, by decide +kernel⟩, by decide +kernel, by decide +kernel⟩,
   ⟨runS.set1 .MOD_CFG_LOCK_OTP, .s0, ⟨by decide +kernel, by decide +kernel, by decide +kernel⟩, by decide +kernel, by decide +kernel⟩,
   ⟨runS.set1 .BT_CMD_BUSY, .s0, ⟨by decide +kernel, by decide +kernel, by decide +kernel⟩, by decide +kernel⟩,
   ⟨runS.set1 .BT_CMD_BUSY, .s0, ⟨by decide +kernel, by decide +kernel, by decide +kernel⟩, by decide +kernel⟩,
   ⟨runS.set1 .BT_CMD_BUSY, .s0, ⟨by decide +kernel, by decide +kernel, by decide +kernel⟩, by decide +kernel⟩,
   ⟨runS.set1 .BT_CMD_BUSY, .s0, ⟨by decide +kernel, by decide +kernel, by decide +kernel⟩, by decide +kernel⟩,
   ⟨runS.modBt (fun b => { b with cmd := some ⟨1, 0, []⟩ }), 0, [], by decide +kernel⟩,
   ⟨runS.modBt (fun b => { b with cmd := some ⟨2, 1, List.replicate 32 3⟩ }), 1, List.replicate 32 3, by decide +kernel, by decide +kernel,
     by decide +kernel⟩,
   ⟨runS.modBt (fun b => { b with cmd := some ⟨3, 1, []⟩ }), 1, by decide +kernel, by decide +kernel⟩,
   ⟨runS.modBt (fun b => { b with cmd := some ⟨4, 5, []⟩ }), 5, by decide +kernel, by decide +kernel⟩,
   ⟨runS.modBt (fun b => { b with cmd := some ⟨1, 0, []⟩ }), 0, [], by decide +kernel⟩,
   ⟨runS.modBt (fun b => { b with cmd := some ⟨3, 1, []⟩ }), ⟨3, 1, []⟩, by decide +kernel, by decide +kernel⟩,
   ⟨runS.modBt (fun b => { b with cmd := some ⟨3, 1, []⟩ }), ⟨3, 1, []⟩, by decide +kernel, by decide +kernel⟩,
   ⟨runS, by decide +kernel⟩⟩

theorem witness_DigitalInputCommands :
    (∃ (s : State) (t : Fin 16) (raw : BitVec 8), (s.tile t).power = true ∧ (∀ k : Fin 8, diagActive s (16 * t + k) dgNoSupply = true ∨ s.is
      (.CH_DI_STATE_LEVEL (16 * t + k)) = raw.toNat.testBit k)) ∧
    (∃ (s : State) (t : Fin 16) (raw : BitVec 8) (j : Fin 8), (s.tile t).power = true ∧ (∀ k : Fin 8, k ≠ j → diagActive s (16 * t + k) dgNoSupply = true
      ∨ s.is (.CH_DI_STATE_LEVEL (16 * t + k)) = raw.toNat.testBit k) ∧ diagActive s (16 * t + j) dgNoSupply = false ∧ s.is (.CH_DI_STATE_LEVEL (16 * t +
      j)) = !raw.toNat.testBit j ∧ (s.ch (16 * t + j)).run + 1 < debRun s (16 * t + j)) ∧
    (∃ (s : State) (t : Fin 16) (up : Bool) (x : ChSt), (s.tile t).power = true ∧ enabledCtxs s = [] ∧ bankState s 0 ≠ 1 ∧ bankState s 1 ≠ 1 ∧ (∀ k : Fin
      8, diagActive s (16 * t + k) dgNoSupply = false ∧ s.is (.CH_DI_STATE_LEVEL (16 * t + k)) = (if k = 0 then !up else false) ∧ (s.ch (16 * t +
      k)).perEdge = none) ∧ s.get (.CH_DI_EV_EDGE (16 * t)) = 0 ∧ s.get (.CH_DI_CFG_PER_EDGE (16 * t)) = 0 ∧ s.get (.CH_DI_CFG_CNT_EDGE (16 * t)) = 3 ∧ s.ch
      (16 * t) = x ∧ 0 < x.run ∧ debRun s (16 * t) ≤ x.run + 1 ∧ x.first < 2 ^ 64) ∧
    (∃ (s : State) (r : Req) (n : Fin 256), isDI n = true ∧ Admitted s r (Reg.CH_DI_EDGES n) Msk.CH_DI_EDGES) ∧
    (∃ (s : State) (r : Req) (n : Fin 256), isDI n = true ∧ Admitted s r (Reg.CH_DI_EV n) Msk.CH_DI_EV) :=
  ⟨⟨runS, 2, 0, by decide +kernel, by decide +kernel⟩,
   ⟨runS.put (.CH_DI_CFG_DEB 35) 2, 2, 8, 3, by decide +kernel, by decide +kernel, by decide +kernel, by decide +kernel, by decide +kernel⟩,
   ⟨((runS.setCh 32 { run := 20, first := 77 }).put (.CH_DI_CFG_CNT_EDGE 32) 3).put (.CH_DI_CFG_DEB 32) 2, 2, true, { run := 20, first := 77 },
     by decide +kernel, by decide +kernel, by decide +kernel, by decide +kernel, by decide +kernel, by decide +kernel, by decide +kernel,
     by decide +kernel, by decide +kernel, by decide +kernel, by decide +kernel, by decide +kernel⟩,
   ⟨runS, .s0, 7, by decide +kernel, ⟨by decide +kernel, by decide +kernel, by decide +kernel⟩⟩,
   ⟨runS, .s0, 7, by decide +kernel, ⟨by decide +kernel, by decide +kernel, by decide +kernel⟩⟩⟩

theorem witness_DigitalOutputCommands :
    (∃ (s : State) (r : Req) (n : Fin 256), isDO n = true ∧ paired s n = false ∧ Admitted s r (Reg.CH_DO_CMD n) Msk.CH_DO_CMD) ∧
    (∃ (s : State) (r : Req) (n : Fin 256) (m : Nat), isDO n = true ∧ paired s n = true ∧ n.val % 2 = 0 ∧ (m = n.val ∨ m = n.val + 1) ∧ Admitted s r
      (Reg.CH_DO_CMD n) Msk.CH_DO_CMD) ∧
    (∃ (s : State) (r : Req) (n : Fin 256) (w : Word), isDO n = true ∧ paired s n = true ∧ n.val % 2 = 1 ∧ bitAt w 0 = s.is (.CH_DO_CMD_ON (n - 1)) ∧
      Admitted s r (Reg.CH_DO_CMD n) Msk.CH_DO_CMD) ∧
    (∃ (s : State) (r : Req) (n : Fin 256) (w : Word), isDO n = true ∧ paired s n = true ∧ n.val % 2 = 1 ∧ bitAt w 0 ≠ s.is (.CH_DO_CMD_ON (n - 1)) ∧
      Admitted s r (Reg.CH_DO_CMD n) Msk.CH_DO_CMD) ∧
    (∃ (s : State) (n : Fin 256), isDO n = true ∧ s.is (.CH_DO_STATE_OUT n) = true) ∧
    (∃ (s : State) (n : Fin 256), isDO n = true ∧ s.is (.CH_DO_STATE_TSD n) = true ∧ (s.ch n).tsdAt + tick10Ms ≤ clk s) ∧
    (∃ (s : State) (n : Fin 256) (e : Nat), isDO n = true ∧ s.is (.CH_DO_STATE_OUT n) = false ∧ (s.tile (n / 16)).power = true ∧ e ≤ 15000) ∧
    (∃ (s : State) (n : Fin 256) (e : Nat), isDO n = true ∧ s.is (.CH_DO_STATE_OUT n) = false ∧ (s.tile (n / 16)).power = true ∧ 15000 < e) ∧
    (∃ (s : State) (n : Fin 256), isDO n = true ∧ s.is (.CH_DO_STATE_OUT n) = true ∧ s.is (.CH_DO_CFG_PWM_EN (govern s n)) = true ∧ (s.ch n).onSince +
      s.get (.CH_DO_CFG_PULLIN (govern s n)) * tick10Ms ≤ clk s) :=
  ⟨⟨runS, .s0, 8, by decide +kernel, by decide +kernel, ⟨by decide +kernel, by decide +kernel, by decide +kernel⟩⟩,
   ⟨(runS.set1 (.CH_DO_CFG_PAIR 8)).set1 (.CH_DO_CFG_PAIR 9), .s0, 8, 9, by decide +kernel, by decide +kernel, by decide +kernel, by decide +kernel,
     ⟨by decide +kernel, by decide +kernel, by decide +kernel⟩⟩,
   ⟨(runS.set1 (.CH_DO_CFG_PAIR 8)).set1 (.CH_DO_CFG_PAIR 9), .s0, 9, 0, by decide +kernel, by decide +kernel, by decide +kernel, by decide +kernel,
     ⟨by decide +kernel, by decide +kernel, by decide +kernel⟩⟩,
   ⟨(runS.set1 (.CH_DO_CFG_PAIR 8)).set1 (.CH_DO_CFG_PAIR 9), .s0, 9, 1, by decide +kernel, by decide +kernel, by decide +kernel, by decide +kernel,
     ⟨by decide +kernel, by decide +kernel, by decide +kernel⟩⟩,
   ⟨runS.set1 (.CH_DO_STATE_OUT 8), 8, by decide +kernel, by decide +kernel⟩,
   ⟨(runS.set1 (.CH_DO_STATE_TSD 8)).modTu (fun x => { x with edges := 600000 }), 8, by decide +kernel, by decide +kernel, by decide +kernel⟩,
   ⟨runS, 8, 1234, by decide +kernel, by decide +kernel, by decide +kernel, by decide +kernel⟩,
   ⟨runS, 8, 15001, by decide +kernel, by decide +kernel, by decide +kernel, by decide +kernel⟩,
   ⟨(runS.set1 (.CH_DO_STATE_OUT 8)).set1 (.CH_DO_CFG_PWM_EN 8), 8, by decide +kernel, by decide +kernel, by decide +kernel, by decide +kernel⟩⟩

theorem witness_DiagnosticCommands :
    (∃ (s : State) (n : Fin 256), isDI n = true) ∧
    (∃ (s : State) (n : Fin 256), isDO n = true) ∧
    (∃ (s : State) (n : Fin 256) (b : Fin 12), isDI n = true ∧ diagActive s n b = true ∧ b.val ≠ dgClamp) ∧
    (∃ (s : State) (n : Fin 256) (b : Fin 12), isDO n = true ∧ diagActive s n b = true ∧ b.val ≠ dgClamp ∧ (b.val = dgThermal → s.is (.CH_DO_STATE_TSD n)
      = false)) ∧
    (∃ (s : State) (r : Req) (n : Fin 256), isDO n = false ∧ Admitted s r (Reg.CH_DIAG n) Msk.CH_DIAG) ∧
    (∃ (s : State) (r : Req) (n : Fin 256), isDO n = true ∧ Admitted s r (Reg.CH_DIAG n) Msk.CH_DIAG) ∧
    (∃ (s : State) (n : Fin 256), isAN n = true) ∧
    (∃ (s : State) (n : Fin 256) (b : Fin 12), isAN n = true ∧ diagActive s n b = true ∧ (injecting s n = true → b.val ≠ dgWireBreak ∧ b.val ≠ dgShort ∧
      b.val ≠ dgOvervoltage)) :=
  ⟨⟨runS, 3, by decide +kernel⟩,
   ⟨runS, 8, by decide +kernel⟩,
   ⟨runS.put (.CH_DIAG_ACTIVE 3) 0x600, 3, 9, by decide +kernel, by decide +kernel, by decide +kernel⟩,
   ⟨runS.put (.CH_DIAG_ACTIVE 8) 0x440, 8, 6, by decide +kernel, by decide +kernel, by decide +kernel, by decide +kernel⟩,
   ⟨runS.put (.CH_DIAG_LATCHED 3) 0x600, .ring, 3, by decide +kernel, ⟨by decide +kernel, by decide +kernel, by decide +kernel⟩⟩,
   ⟨(runS.put (.CH_DIAG_LATCHED 8) 0x80).put (.CH_DIAG_ACTIVE 8) 0x80, .ring, 8, by decide +kernel, ⟨by decide +kernel, by decide +kernel,
     by decide +kernel⟩⟩,
   ⟨runS.put (.CH_AN_STATE_MODE_EFF 14) 5, 14, by decide +kernel⟩,
   ⟨runS.put (.CH_DIAG_ACTIVE 14) 0x100, 14, 8, by decide +kernel, by decide +kernel, by decide +kernel⟩⟩

theorem witness_TileSafeStates :
    (∃ (s : State) (t : Fin 16) (m : Fin 256), (s.tile t).power = true ∧ (s.tile t).holdAt + holdMin s t ≤ clk s ∧ isDO m = true ∧ m.val / 16 = t.val ∧
      s.get (.CH_DO_CFG_SAFE (govern s m)) = 0) ∧
    (∃ (s : State) (t : Fin 16) (d : Dom) (e : BitVec 16), (s.tile t).power = true ∧ (s.tile t).epoch ≠ 0 ∧ (s.tile t).epoch = e.toNat ∧ (s.tile t).obey =
      some d) ∧
    (∃ (s : State) (t : Fin 16) (e : BitVec 16), (s.tile t).power = true ∧ e ≠ 0 ∧ ((s.tile t).epoch = 0 ∨ (1 ≤ (e.toNat + 65536 - (s.tile t).epoch) %
      65536 ∧ (e.toNat + 65536 - (s.tile t).epoch) % 65536 ≤ 32767))) ∧
    (∃ (s : State) (t : Fin 16) (d : Dom) (e : BitVec 16), (s.tile t).power = true ∧ (s.tile t).epoch ≠ 0 ∧ (e = 0 ∨ 32767 < (e.toNat + 65536 - (s.tile
      t).epoch) % 65536 ∨ ((e.toNat + 65536 - (s.tile t).epoch) % 65536 = 0 ∧ (s.tile t).obey ≠ some d)) ∧ (e.toNat ≠ (s.tile t).epoch ∨ (s.tile t).obey ≠
      some d)) ∧
    (∃ (s : State) (r : Req) (t : Fin 16), Admitted s r (Reg.TILE_SAFE t) Msk.TILE_SAFE) :=
  ⟨⟨runS.modTu (fun x => { x with edges := 49152000 }), 3, 56, by decide +kernel, by decide +kernel, by decide +kernel, by decide +kernel,
     by decide +kernel⟩,
   ⟨(((runS.set1 (.TILE_SAFE_ACTIVE 3)).modTile 3 (fun x => { x with holdC := true })).put (.TILE_SAFE_IMAGE 3) 0), 3, .a, 5, by decide +kernel,
     by decide +kernel, by decide +kernel, by decide +kernel⟩,
   ⟨runS, 3, 6, by decide +kernel, by decide +kernel, by decide +kernel⟩,
   ⟨runS, 3, .b, 4, by decide +kernel, by decide +kernel, by decide +kernel, by decide +kernel⟩,
   ⟨(runS.set1 (.TILE_SAFE_WDOG 3)), .s0, 3, ⟨by decide +kernel, by decide +kernel, by decide +kernel⟩⟩⟩

theorem witness_CurrentOutputCommands :
    (∃ (s : State) (r : Req) (n : Fin 256), isAO n = true ∧ Admitted s r (Reg.CH_AO_SET n) Msk.CH_AO_SET) ∧
    (∃ (s : State) (r : Req) (n : Fin 256), isAO n = true ∧ Admitted s r (Reg.CH_AO_TRIM n) Msk.CH_AO_TRIM) ∧
    (∃ (s : State) (n : Fin 256), isAN n = true ∧ s.is (.CH_AN_STATE_LP_ON n) = true) ∧
    (∃ (s : State) (n : Fin 256), isAN n = true ∧ s.is (.CH_AN_STATE_LP_RETRY n) = true) ∧
    (∃ (s : State) (r : Req) (n : Fin 256), isAN n = true ∧ Admitted s r (Reg.CH_AN_INJ n) Msk.CH_AN_INJ ∧ (s.tile (n / 16)).sweep = false ∧ modeOf s n ≠
      5) ∧
    (∃ (s : State) (r : Req) (n : Fin 256), isAN n = true ∧ Admitted s r (Reg.CH_AN_INJ n) Msk.CH_AN_INJ ∧ (s.tile (n / 16)).sweep = false ∧ modeOf s n =
      5) ∧
    (∃ (s : State) (r : Req) (n : Fin 256), isAN n = true ∧ Admitted s r (Reg.CH_AN_INJ n) Msk.CH_AN_INJ ∧ (s.tile (n / 16)).sweep = false) ∧
    (∃ (s : State) (r : Req) (n : Fin 256), isAN n = true ∧ Admitted s r (Reg.CH_AN_INJ n) Msk.CH_AN_INJ ∧ (s.tile (n / 16)).sweep = true) ∧
    (∃ (s : State) (r : Req) (n : Fin 256), isAN n = true ∧ Admitted s r (Reg.CH_AN_INJ n) Msk.CH_AN_INJ ∧ (s.tile (n / 16)).sweep = true) ∧
    (∃ (s : State) (r : Req) (t : Fin 16), Admitted s r (Reg.TILE_TDAC t) Msk.TILE_TDAC) ∧
    (∃ (s : State) (r : Req) (n : Fin 256) (w : Word), isAN n = true ∧ Admitted s r (Reg.CH_AN_CFG n) Msk.CH_AN_CFG ∧ modeUsed n (bits w 2 0) ≠ modeOf s
      n) :=
  ⟨⟨runS, .s0, 14, by decide +kernel, ⟨by decide +kernel, by decide +kernel, by decide +kernel⟩⟩,
   ⟨runS, .s0, 14, by decide +kernel, ⟨by decide +kernel, by decide +kernel, by decide +kernel⟩⟩,
   ⟨runS.set1 (.CH_AN_STATE_LP_ON 12), 12, by decide +kernel, by decide +kernel⟩,
   ⟨(runS.set1 (.CH_AN_STATE_LP_RETRY 12)).put (.CH_AN_STATE_MODE_EFF 12) 4, 12, by decide +kernel, by decide +kernel⟩,
   ⟨runS, .s0, 12, by decide +kernel, ⟨by decide +kernel, by decide +kernel, by decide +kernel⟩, by decide +kernel, by decide +kernel⟩,
   ⟨runS.put (.CH_AN_STATE_MODE_EFF 14) 5, .s0, 14, by decide +kernel, ⟨by decide +kernel, by decide +kernel, by decide +kernel⟩, by decide +kernel,
     by decide +kernel⟩,
   ⟨runS.set1 (.CH_AN_STATE_INJ 12), .s0, 12, by decide +kernel, ⟨by decide +kernel, by decide +kernel, by decide +kernel⟩, by decide +kernel⟩,
   ⟨runS.modTile 0 (fun x => { x with sweep := true }), .s0, 12, by decide +kernel, ⟨by decide +kernel, by decide +kernel, by decide +kernel⟩,
     by decide +kernel⟩,
   ⟨runS.modTile 0 (fun x => { x with sweep := true }), .s0, 12, by decide +kernel, ⟨by decide +kernel, by decide +kernel, by decide +kernel⟩,
     by decide +kernel⟩,
   ⟨runS, .s0, 3, ⟨by decide +kernel, by decide +kernel, by decide +kernel⟩⟩,
   ⟨runS, .s0, 14, 5, by decide +kernel, ⟨by decide +kernel, by decide +kernel, by decide +kernel⟩, by decide +kernel⟩⟩

theorem witness_ReplacedModes :
    (∃ (s : State) (r : Req) (n : Fin 256) (w : Word), isAN n = true ∧ Admitted s r (Reg.CH_AN_CFG n) Msk.CH_AN_CFG ∧ ((bits w 2 0 = 5 ∧ n.val % 16 < 14)
      ∨ 6 ≤ bits w 2 0)) :=
  ⟨runS.put (.CH_AN_STATE_MODE_EFF 12) 2, .s0, 12, 5, by decide +kernel, ⟨by decide +kernel, by decide +kernel, by decide +kernel⟩, by decide +kernel⟩

theorem witness_SyncCommands :
    (∃ (s : State) (rising : Bool), rising = s.is .CA_CFG_LAND_EDGE) ∧
    (∃ (s : State) (rising : Bool), rising = !s.is .CA_CFG_LAND_EDGE ∧ s.get .TU_SRC_SRC = 3) ∧
    (∃ (s : State) (rising : Bool), acqRuns s = true ∧ s.is .CA_CFG_SYNC_LAND_EN = true ∧ s.is .EV_DIP_CFG_LAND_EN = false ∧ s.get .TU_SRC_SRC ≠ 3 ∧
      rising = !s.is .CA_CFG_LAND_EDGE) ∧
    (∃ (s : State) (rising : Bool), (acqRuns s = false ∨ s.is .CA_CFG_SYNC_LAND_EN = false) ∧ s.is .EV_DIP_CFG_LAND_EN = false ∧ s.get .TU_SRC_SRC ≠ 3 ∧
      rising = !s.is .CA_CFG_LAND_EDGE) ∧
    (∃ (s : State) (rising : Bool) (b : Nat), s.is .EV_DIP_CFG_LAND_EN = true ∧ s.get .TU_SRC_SRC ≠ 3 ∧ rising = !s.is .CA_CFG_LAND_EDGE ∧ dipIgnored s =
      false ∧ freeBank s = some b) ∧
    (∃ (s : State) (r : Req), Admitted s r Reg.CA_SYNC Msk.CA_SYNC ∧ acqRuns s = true ∧ s.is .CA_CFG_SYNC_REG_EN = true) ∧
    (∃ (s : State) (r : Req), Admitted s r Reg.CA_SYNC Msk.CA_SYNC ∧ (acqRuns s = false ∨ s.is .CA_CFG_SYNC_REG_EN = false)) ∧
    (∃ (s : State) (e : Nat) (m : Nat) (same : Bool), dueEdge s = some e ∧ acqRuns s = true ∧ s.get .CA_STAT_STATE ≠ 2 ∧ e < 2 ^ 64 ∧ (∀ r ∈ s.ca.syncs,
      r.src < 8) ∧ m = srcMask (s.ca.syncs.filter (fun r => r.edge = e)) ∧ same = (s.get .CA_SYNC_INFO_SRC != 0 && s.get64 (Reg.CA_SYNC_TS 0) == e)) ∧
    (∃ (s : State) (e : Nat), dueEdge s = some e ∧ acqRuns s = true ∧ s.get .CA_STAT_STATE = 2) ∧
    (∃ (s : State) (e : Nat), dueEdge s = some e ∧ acqRuns s = false) ∧
    (∃ (s : State), dueEdge s = none) :=
  ⟨⟨runS, false, by decide +kernel⟩,
   ⟨(runS.set1 .CA_CFG_SYNC_LAND_EN).put .TU_SRC_SRC 3, true, by decide +kernel, by decide +kernel⟩,
   ⟨(runS.set1 .CA_CFG_SYNC_LAND_EN).put .TU_SRC_SRC 0, true, by decide +kernel, by decide +kernel, by decide +kernel, by decide +kernel,
     by decide +kernel⟩,
   ⟨runS.put .TU_SRC_SRC 0, true, by decide +kernel, by decide +kernel, by decide +kernel, by decide +kernel⟩,
   ⟨(runS.set1 .EV_DIP_CFG_LAND_EN).put .TU_SRC_SRC 0, true, 0, by decide +kernel, by decide +kernel, by decide +kernel, by decide +kernel,
     by decide +kernel⟩,
   ⟨runS.set1 .CA_CFG_SYNC_REG_EN, .s0, ⟨by decide +kernel, by decide +kernel, by decide +kernel⟩, by decide +kernel, by decide +kernel⟩,
   ⟨runS.put .CA_CFG_SYNC_REG_EN 0, .s0, ⟨by decide +kernel, by decide +kernel, by decide +kernel⟩, by decide +kernel⟩,
   ⟨runS.modCa (fun c => { c with syncs := [{ src := 1, edge := 160 }, { src := 0, edge := 320 }] }), 160, 2, false, by decide +kernel,
     by decide +kernel, by decide +kernel, by decide +kernel, by decide +kernel, by decide +kernel, by decide +kernel⟩,
   ⟨(runS.put .CA_STAT_STATE 2).modCa (fun c => { c with syncs := [{ src := 1, edge := 160 }] }), 160, by decide +kernel, by decide +kernel,
     by decide +kernel⟩,
   ⟨(runS.modPw (fun x => { x with power := 3 })).modCa (fun c => { c with syncs := [{ src := 1, edge := 160 }] }), 160, by decide +kernel,
     by decide +kernel⟩,
   ⟨runS, by decide +kernel⟩⟩

theorem witness_AuxiliaryConversions :
    (∃ (s : State) (t : Fin 16) (i : Nat) (e : Nat), (s.tile t).slot = some (e, some i) ∧ slotDone s t e = true ∧ i < 16) ∧
    (∃ (s : State) (t : Fin 16), (s.tile t).slot = none) ∧
    (∃ (s : State) (t : Fin 16) (e : Nat) (u : Option Nat), (s.tile t).slot = some (e, u) ∧ (u = none ∨ slotDone s t e = false)) ∧
    (∃ (s : State) (r : Req) (w : Word) (t : Nat), Admitted s r Reg.CA_INJ Msk.CA_INJ ∧ t = bits w 19 16 ∧ bits w 28 24 < 20 ∧ tileUp s t = true ∧ (s.tile
      t).inj.length < 4 ∧ (calBusy s = false ∨ bitAt w 31 = false)) ∧
    (∃ (s : State) (r : Req) (w : Word) (t : Nat), Admitted s r Reg.CA_INJ Msk.CA_INJ ∧ t = bits w 19 16 ∧ (20 ≤ bits w 28 24 ∨ tileUp s t = false ∨ 4 ≤
      (s.tile t).inj.length ∨ (calBusy s = true ∧ bitAt w 31 = true))) ∧
    (∃ (s : State) (t : Fin 16) (x : InjReq) (l : List InjReq) (e : Nat), (s.tile t).slot = some (e, none) ∧ (s.tile t).inj = x :: l ∧ slotDone s t e =
      true ∧ x.target < 20 ∧ l.length < 4 ∧ x.ctx = none) ∧
    (∃ (s : State) (t : Fin 16) (x : InjReq) (l : List InjReq) (e : Nat) (c : Nat) (v : Nat), (s.tile t).slot = some (e, none) ∧ (s.tile t).inj = x :: l ∧
      slotDone s t e = true ∧ x.target < 20 ∧ x.ctx = some c ∧ c < 160 ∧ v < 16 ∧ (s.ctx c).wait = .inj v ∧ s.get (.CTX_STAT_STATE c) = stWaiting) :=
  ⟨⟨(runS.set1 (.TILE_FEED_LINK_A 3)).modTile 3 (fun x => { x with slot := some (100, some 0) }), 3, 0, 100, by decide +kernel, by decide +kernel,
     by decide +kernel⟩,
   ⟨runS.set1 (.TILE_FEED_LINK_A 3), 3, by decide +kernel⟩,
   ⟨runS.modTile 3 (fun x => { x with slot := some (100, none) }), 3, 100, none, by decide +kernel, by decide +kernel⟩,
   ⟨runS.set1 (.TILE_FEED_LINK_A 3), .s0, 0x11030077, 3, ⟨by decide +kernel, by decide +kernel, by decide +kernel⟩, by decide +kernel, by decide +kernel,
     by decide +kernel, by decide +kernel, by decide +kernel⟩,
   ⟨runS, .s0, 0x11030077, 3, ⟨by decide +kernel, by decide +kernel, by decide +kernel⟩, by decide +kernel, by decide +kernel⟩,
   ⟨(runS.set1 (.TILE_FEED_LINK_A 3)).modTile 3 (fun x => { x with slot := some (100, none), inj := [{ target := 17, tag := 5 }] }), 3,
     { target := 17, tag := 5 }, [], 100, by decide +kernel, by decide +kernel, by decide +kernel, by decide +kernel, by decide +kernel, by decide +kernel⟩,
   ⟨((runS.set1 (.TILE_FEED_LINK_A 3)).modTile 3 (fun x => { x with slot := some (100, none), inj := [{ target := 1, tag := 5, ctx := some 7 }] })).put
     (.CTX_STAT_STATE 7) 3 |>.modCtx 7 (fun x => { x with wait := .inj 4 }), 3, { target := 1, tag := 5, ctx := some 7 }, [], 100, 7, 4, by decide +kernel,
     by decide +kernel, by decide +kernel, by decide +kernel, by decide +kernel, by decide +kernel, by decide +kernel, by decide +kernel,
     by decide +kernel⟩⟩

theorem witness_Calibration :
    (∃ (s : State) (r : Req), Admitted s r Reg.CA_CMD Msk.CA_CMD ∧ s.ca.calStep ≠ 0) ∧
    (∃ (s : State) (r : Req), Admitted s r Reg.CA_CMD Msk.CA_CMD ∧ s.ca.calStep = 0 ∧ acqRuns s = false) ∧
    (∃ (s : State) (r : Req), Admitted s r Reg.CA_CMD Msk.CA_CMD ∧ s.ca.calStep = 0 ∧ acqRuns s = true ∧ permitAnswer s actCal = prGranted) ∧
    (∃ (s : State) (r : Req), Admitted s r Reg.CA_CMD Msk.CA_CMD ∧ s.ca.calStep = 0 ∧ acqRuns s = true ∧ permitAnswer s actCal ≠ prGranted) ∧
    (∃ (s : State), s.is .CA_CFG_AUTO_CAL = true ∧ acqRuns s = true ∧ linksTrained s = true ∧ s.ca.autoDone = false ∧ s.ca.calStep = 0 ∧ permitAnswer s
      actCal = prGranted) ∧
    (∃ (s : State), s.ca.calStep = 1 ∧ permitAnswer s actCal = prGranted ∧ acqRuns s = true) ∧
    (∃ (s : State), s.ca.calStep = 1 ∧ permitAnswer s actCal ≠ prGranted) ∧
    (∃ (s : State), s.ca.calStep = 2 ∧ (∀ k : Fin 16, (s.tile k).slot = none ∨ tileUp s k = false)) ∧
    (∃ (s : State), s.ca.calStep = 3 ∧ calPast s 200 800 = true) ∧
    (∃ (s : State), s.ca.calStep = 4 ∧ calPast s 405 1620 = true) ∧
    (∃ (s : State) (i : Fin 64) (n : Nat), s.ca.calStep = 4 ∧ calPast s 405 1620 = true ∧ n = anCh i) ∧
    (∃ (s : State), s.ca.calStep = 4 ∧ calPast s 405 1620 = true) ∧
    (∃ (s : State), s.ca.calStep = 5 ∧ calPast s 420 1650 = true) ∧
    (∃ (s : State) (r : Req) (i : Fin 80) (g : Bool), i.val < 64 ∧ Admitted s r (factorReg i g).1 (factorReg i g).2) ∧
    (∃ (s : State) (r : Req) (i : Fin 80) (g : Bool), 64 ≤ i.val ∧ Admitted s r (factorReg i g).1 (factorReg i g).2) :=
  ⟨⟨runS.modCa (fun c => { c with calStep := 3 }), .s0, ⟨by decide +kernel, by decide +kernel, by decide +kernel⟩, by decide +kernel⟩,
   ⟨runS.modPw (fun x => { x with power := 3 }), .s0, ⟨by decide +kernel, by decide +kernel, by decide +kernel⟩, by decide +kernel, by decide +kernel⟩,
   ⟨runS, .s0, ⟨by decide +kernel, by decide +kernel, by decide +kernel⟩, by decide +kernel, by decide +kernel, by decide +kernel⟩,
   ⟨runS.put .SV_PERMIT_HELD 2, .s0, ⟨by decide +kernel, by decide +kernel, by decide +kernel⟩, by decide +kernel, by decide +kernel, by decide +kernel⟩,
   ⟨{ runS.set1 .CA_CFG_AUTO_CAL with tiles := [] }, by decide +kernel, by decide +kernel, by decide +kernel, by decide +kernel, by decide +kernel,
     by decide +kernel⟩,
   ⟨runS.modCa (fun c => { c with calStep := 1 }), by decide +kernel, by decide +kernel, by decide +kernel⟩,
   ⟨(runS.put .SV_PERMIT_HELD 2).modCa (fun c => { c with calStep := 1 }), by decide +kernel, by decide +kernel⟩,
   ⟨runS.modCa (fun c => { c with calStep := 2 }), by decide +kernel, by decide +kernel⟩,
   ⟨(runS.modCa (fun c => { c with calStep := 3 })).modTu (fun x => { x with edges := 49152000 }), by decide +kernel, by decide +kernel⟩,
   ⟨{ (runS.modCa (fun c => { c with calStep := 4 })).modTu (fun x => { x with edges := 49152000 }) with tiles := [] }, by decide +kernel,
     by decide +kernel⟩,
   ⟨(runS.modCa (fun c => { c with calStep := 4 })).modTu (fun x => { x with edges := 49152000 }), 5, 29, by decide +kernel, by decide +kernel,
     by decide +kernel⟩,
   ⟨(runS.modCa (fun c => { c with calStep := 4 })).modTu (fun x => { x with edges := 49152000 }), by decide +kernel, by decide +kernel⟩,
   ⟨(runS.modCa (fun c => { c with calStep := 5, calFail := 3 })).modTu (fun x => { x with edges := 49152000 }), by decide +kernel, by decide +kernel⟩,
   ⟨runS, .s0, 5, false, by decide +kernel, ⟨by decide +kernel, by decide +kernel, by decide +kernel⟩⟩,
   ⟨runS, .s0, 69, true, by decide +kernel, ⟨by decide +kernel, by decide +kernel, by decide +kernel⟩⟩⟩

theorem witness_SweepCommands :
    (∃ (s : State) (r : Req), Admitted s r Reg.CA_CMD Msk.CA_CMD ∧ sweepAllowed s = false) ∧
    (∃ (s : State) (r : Req), Admitted s r Reg.CA_CMD Msk.CA_CMD ∧ sweepAllowed s = true ∧ permitAnswer s actSweep ≠ prGranted) ∧
    (∃ (s : State) (r : Req), Admitted s r Reg.CA_CMD Msk.CA_CMD ∧ sweepAllowed s = true ∧ permitAnswer s actSweep = prGranted) ∧
    (∃ (s : State) (r : Req), Admitted s r Reg.CA_CMD Msk.CA_CMD ∧ s.ca.swStep ≠ none) ∧
    (∃ (s : State) (r : Req), Admitted s r Reg.CA_CMD Msk.CA_CMD ∧ s.ca.swStep = none) ∧
    (∃ (s : State) (i : Nat), s.ca.swStep = some i ∧ s.ca.swAt + s.ca.swDwell * tickMs ≤ clk s ∧ s.ca.swAbort = false ∧ i + 1 < s.ca.swCount) ∧
    (∃ (s : State) (i : Nat), s.ca.swStep = some i ∧ s.ca.swAt + s.ca.swDwell * tickMs ≤ clk s ∧ (s.ca.swAbort = true ∨ s.ca.swCount ≤ i + 1)) ∧
    (∃ (s : State), (s.ca.swStep = none ∨ clk s < s.ca.swAt + s.ca.swDwell * tickMs)) :=
  ⟨⟨runS, .s0, ⟨by decide +kernel, by decide +kernel, by decide +kernel⟩, by decide +kernel⟩,
   ⟨((runS.put .CA_SWEEP_CFG_COUNT 2).put .CA_SWEEP_SEL_TILES 1).put .SV_PERMIT_HELD 1, .s0, ⟨by decide +kernel, by decide +kernel, by decide +kernel⟩,
     by decide +kernel, by decide +kernel⟩,
   ⟨(runS.put .CA_SWEEP_CFG_COUNT 2).put .CA_SWEEP_SEL_TILES 1, .s0, ⟨by decide +kernel, by decide +kernel, by decide +kernel⟩, by decide +kernel,
     by decide +kernel⟩,
   ⟨runS.modCa (fun c => { c with swStep := some 1 }), .s0, ⟨by decide +kernel, by decide +kernel, by decide +kernel⟩, by decide +kernel⟩,
   ⟨runS, .s0, ⟨by decide +kernel, by decide +kernel, by decide +kernel⟩, by decide +kernel⟩,
   ⟨runS.modCa (fun c => { c with swStep := some 1, swCount := 5 }), 1, by decide +kernel, by decide +kernel, by decide +kernel, by decide +kernel⟩,
   ⟨runS.modCa (fun c => { c with swStep := some 1, swCount := 2 }), 1, by decide +kernel, by decide +kernel, by decide +kernel⟩,
   ⟨runS, by decide +kernel⟩⟩

theorem witness_FilterSettings :
    (∃ (s : State) (r : Req) (n : Fin 256), isAN n = true ∧ Admitted s r (Reg.CH_FC_CFG n) Msk.CH_FC_CFG) ∧
    (∃ (s : State) (r : Req) (n : Fin 256), isAN n = true ∧ Admitted s r (Reg.CH_FC_SHIFT n) Msk.CH_FC_SHIFT) ∧
    (∃ (s : State) (r : Req) (n : Fin 256), isAN n = true ∧ Admitted s r (Reg.CH_FC_DELAY n) Msk.CH_FC_DELAY) ∧
    (∃ (s : State) (r : Req) (x : Fin 4) (o : Nat) (m : WMask), recordMask o = some m ∧ Admitted s r (Reg.PR_CIC (8 + x) + o) m ∧ recordInUse s (8 + x) =
      true) ∧
    (∃ (s : State) (r : Req) (x : Fin 4) (o : Nat) (m : WMask), recordMask o = some m ∧ Admitted s r (Reg.PR_CIC (8 + x) + o) m ∧ recordInUse s (8 + x) =
      false) ∧
    (∃ (s : State) (o : Nat), recordMask o = none) ∧
    (∃ (s : State) (r : Req) (n : Fin 256) (x : Fin 2) (k : Fin 3), isAN n = true ∧ Admitted s r (Reg.CH_TH_CFG n x + 4 * k) (thMask k)) ∧
    (∃ (s : State) (t : Fin 16), (s.tile t).lostA = true ∧ activeDom s ≠ some .a) ∧
    (∃ (s : State) (t : Fin 16), (s.tile t).lostB = true ∧ activeDom s ≠ some .b) ∧
    (∃ (s : State) (t : Fin 16), (s.tile t).lostA = true ∧ activeDom s = some .a) ∧
    (∃ (s : State) (t : Fin 16), (s.tile t).lostB = true ∧ activeDom s = some .b) ∧
    (∃ (s : State) (t : Fin 16) (d : Dom), ((d = .a → (s.tile t).lostA = false) ∧ (d = .b → (s.tile t).lostB = false))) :=
  ⟨⟨runS, .s0, 12, by decide +kernel, ⟨by decide +kernel, by decide +kernel, by decide +kernel⟩⟩,
   ⟨runS, .s0, 12, by decide +kernel, ⟨by decide +kernel, by decide +kernel, by decide +kernel⟩⟩,
   ⟨runS, .s0, 12, by decide +kernel, ⟨by decide +kernel, by decide +kernel, by decide +kernel⟩⟩,
   ⟨(((runS.set1 (.CH_FC_CFG_EN 12)).put (.CH_FC_CFG_PRESET 12) 9).put (.PR_STAT_ERR 9) 0), .s0, 1, 0x14, Msk.PR_SUPP, by decide +kernel,
     ⟨by decide +kernel, by decide +kernel, by decide +kernel⟩, by decide +kernel⟩,
   ⟨runS, .s0, 1, 0x14, Msk.PR_SUPP, by decide +kernel, ⟨by decide +kernel, by decide +kernel, by decide +kernel⟩, by decide +kernel⟩,
   ⟨runS, 0x18, by decide +kernel⟩,
   ⟨runS, .s0, 12, 1, 1, by decide +kernel, ⟨by decide +kernel, by decide +kernel, by decide +kernel⟩⟩,
   ⟨((runS.modTile 3 (fun x => { x with lostA := true })).modSv (fun v => { v with roleA := .standby, roleB := .active })), 3, by decide +kernel,
     by decide +kernel⟩,
   ⟨runS.modTile 3 (fun x => { x with lostB := true }), 3, by decide +kernel, by decide +kernel⟩,
   ⟨runS.modTile 3 (fun x => { x with lostA := true }), 3, by decide +kernel, by decide +kernel⟩,
   ⟨((runS.modTile 3 (fun x => { x with lostB := true })).modSv (fun v => { v with roleA := .standby, roleB := .active })), 3, by decide +kernel,
     by decide +kernel⟩,
   ⟨runS, 3, .a, by decide +kernel⟩⟩

theorem witness_ChainOutputs :
    (∃ (s : State) (n : Fin 256) (v : State) (e : Nat), isAN n = true ∧ v = takeUp n s ∧ (v.chain n).cur.on = true ∧ 0 < stepTicks v (v.chain n).cur ∧
      nextEdge v (v.chain n).cur (v.chain n).last = e ∧ outputDue v (v.chain n) e = true ∧ suppressed v (v.chain n).cur e = true) ∧
    (∃ (s : State) (n : Fin 256) (ps : List Period) (v : State) (e : Nat) (u : State), isAN n = true ∧ v = takeUp n s ∧ (v.chain n).cur.on = true ∧ 0 <
      stepTicks v (v.chain n).cur ∧ nextEdge v (v.chain n).cur (v.chain n).last = e ∧ outputDue v (v.chain n) e = true ∧ suppressed v (v.chain n).cur e =
      false ∧ u = lineFill n (lineEdge (v.chain n) e) ps v) ∧
    (∃ (s : State) (n : Fin 256), (isAN n = false ∨ ((s.chain n).nxt = none ∧ ((s.chain n).cur.on = false ∨ outputDue s (s.chain n) (nextEdge s (s.chain
      n).cur (s.chain n).last) = false)))) ∧
    (∃ (s : State) (n : Fin 256), isAN n = true ∧ (s.tile (n / 16)).power = true ∧ calWindow s = false) ∧
    (∃ (s : State) (n : Fin 256), isAN n = true ∧ (s.tile (n / 16)).power = true ∧ calWindow s = true) :=
  ⟨⟨runS.setChain 12 { cur := { on := true, preset := 4, rst := 3072000 * 16 * 3 * 100 } }, 12, runS.setChain 12
     { cur := { on := true, preset := 4, rst := 3072000 * 16 * 3 * 100 } }, 768000, by decide +kernel, rfl, by decide +kernel, by decide +kernel,
     by decide +kernel, by decide +kernel, by decide +kernel⟩,
   ⟨runS.setChain 12 { cur := { on := true, preset := 4 }, last := 15360000 }, 12, [], runS.setChain 12
     { cur := { on := true, preset := 4 }, last := 15360000 }, 16128000, runS.setChain 12 { cur := { on := true, preset := 4 }, last := 15360000 },
     by decide +kernel, rfl, by decide +kernel, by decide +kernel, by decide +kernel, by decide +kernel, by decide +kernel, rfl⟩,
   ⟨runS, 12, by decide +kernel⟩,
   ⟨runS, 12, by decide +kernel, by decide +kernel, by decide +kernel⟩,
   ⟨(runS.put .CA_STAT_STATE 2).modTu (fun x => { x with edges := 100 * tickMs }), 12, by decide +kernel, by decide +kernel, by decide +kernel⟩⟩

theorem witness_DipsAndInterrupts :
    (∃ (s : State) (r : Req) (w : Word) (b : Nat) (x : Nat), Admitted s r Reg.MOD_DIP Msk.MOD_DIP ∧ bitAt w 0 = true ∧ dipIgnored s = false ∧ freeBank s =
      some b ∧ x = (if bitAt w 1 then s.get64 (Reg.MOD_DIP_TGT 0) else now s)) ∧
    (∃ (s : State) (r : Req) (w : Word), Admitted s r Reg.MOD_DIP Msk.MOD_DIP ∧ bitAt w 0 = true ∧ dipIgnored s = false ∧ freeBank s = none) ∧
    (∃ (s : State) (r : Req) (w : Word), Admitted s r Reg.MOD_DIP Msk.MOD_DIP ∧ bitAt w 0 = true ∧ dipIgnored s = true) ∧
    (∃ (s : State) (r : Req) (w : Word), Admitted s r Reg.MOD_DIP Msk.MOD_DIP ∧ bitAt w 0 = false) ∧
    (∃ (s : State) (b : Fin 2), latchDue s b = true) ∧
    (∃ (s : State) (b : Fin 2), latchDue s b = false) ∧
    (∃ (s : State) (b : Fin 2), bankState s b = 1 ∧ (s.dip b).latched = true) ∧
    (∃ (s : State) (b : Fin 2), (bankState s b ≠ 1 ∨ (s.dip b).latched = false)) ∧
    (∃ (s : State) (r : Req), Admitted s r Reg.EV_DIP_STAT Msk.EV_DIP_STAT) ∧
    (∃ (s : State) (r : Req), Admitted s r Reg.MOD_IRQ Msk.MOD_IRQ) :=
  ⟨⟨runS, .s0, 0x00070001, 0, 4915200000, ⟨by decide +kernel, by decide +kernel, by decide +kernel⟩, by decide +kernel, by decide +kernel,
     by decide +kernel, by decide +kernel⟩,
   ⟨setBank 0 1 (setBank 1 2 runS), .s0, 0x00070001, ⟨by decide +kernel, by decide +kernel, by decide +kernel⟩, by decide +kernel, by decide +kernel,
     by decide +kernel⟩,
   ⟨runS.modPw (fun x => { x with power := 0 }), .s0, 0x00070001, ⟨by decide +kernel, by decide +kernel, by decide +kernel⟩, by decide +kernel,
     by decide +kernel⟩,
   ⟨runS, .s0, 0x00070002, ⟨by decide +kernel, by decide +kernel, by decide +kernel⟩, by decide +kernel⟩,
   ⟨setBank 0 1 (runS.setDip 0 { tick := 5 }), 0, by decide +kernel⟩,
   ⟨runS, 0, by decide +kernel⟩,
   ⟨(setBank 0 1 runS).setDip 0 { latched := true }, 0, by decide +kernel, by decide +kernel⟩,
   ⟨runS, 0, by decide +kernel⟩,
   ⟨setBank 0 2 runS, .s0, ⟨by decide +kernel, by decide +kernel, by decide +kernel⟩⟩,
   ⟨runS.put ⟨Reg.MOD_IRQ, 5, 0⟩ 63, .s0, ⟨by decide +kernel, by decide +kernel, by decide +kernel⟩⟩⟩

theorem witness_QueueCommands :
    (∃ (s : State) (r : Req) (q : Fin 128) (w : Word) (v : Word), Admitted s r (Reg.Q_CFG q) Msk.Q_CFG ∧ v = storedWord Msk.Q_CFG (rd s (Reg.Q_CFG q)) w) ∧
    (∃ (s : State) (r : Req) (q : Fin 128) (e : QEnt), readServed s r = true ∧ s.is (.Q_CFG_HOST q) = true ∧ qOn s q = true ∧ popHead (s.queue q).ents =
      some e ∧ entWords s q e ≠ []) ∧
    (∃ (s : State) (r : Req) (q : Fin 128), readServed s r = true ∧ (s.is (.Q_CFG_HOST q) = false ∨ qOn s q = false ∨ popHead (s.queue q).ents = none)) ∧
    (∃ (s : State) (r : Req) (q : Fin 128), readServed s r = true ∧ (s.psh q (reqIx r)).words ≠ []) ∧
    (∃ (s : State) (r : Req) (q : Fin 128), readServed s r = true ∧ (s.psh q (reqIx r)).words = []) ∧
    (∃ (s : State) (r : Req) (q : Fin 128), readServed s r = true ∧ (s.psh q (reqIx r)).pos < (s.psh q (reqIx r)).words.length) ∧
    (∃ (s : State) (r : Req) (q : Fin 128) (e : QEnt), readServed s r = true ∧ (s.psh q (reqIx r)).words.length ≤ (s.psh q (reqIx r)).pos ∧ s.is
      (.Q_CFG_HOST q) = true ∧ qOn s q = true ∧ popHead (s.queue q).ents = some e ∧ entWords s q e ≠ []) ∧
    (∃ (s : State) (r : Req) (q : Fin 128), readServed s r = true ∧ (s.psh q (reqIx r)).words.length ≤ (s.psh q (reqIx r)).pos ∧ (s.is (.Q_CFG_HOST q) =
      false ∨ qOn s q = false ∨ popHead (s.queue q).ents = none)) :=
  ⟨⟨runS, .s0, 5, 0x00040201, storedWord Msk.Q_CFG (rd runS (Reg.Q_CFG 5)) 0x00040201, ⟨by decide +kernel, by decide +kernel, by decide +kernel⟩,
     by decide +kernel⟩,
   ⟨qS, .s0, 5, { pos := 0, len := 8 }, by decide +kernel, by decide +kernel, by decide +kernel, by decide +kernel, by decide +kernel⟩,
   ⟨runS, .s0, 5, by decide +kernel, by decide +kernel⟩,
   ⟨runS.setPsh 5 1 { words := [3, 4], pos := 1 }, .s0, 5, by decide +kernel, by decide +kernel⟩,
   ⟨runS, .s0, 5, by decide +kernel, by decide +kernel⟩,
   ⟨runS.setPsh 5 1 { words := [3, 4], pos := 1 }, .s0, 5, by decide +kernel, by decide +kernel⟩,
   ⟨qS, .s0, 5, { pos := 0, len := 8 }, by decide +kernel, by decide +kernel, by decide +kernel, by decide +kernel, by decide +kernel, by decide +kernel⟩,
   ⟨runS, .s0, 5, by decide +kernel, by decide +kernel, by decide +kernel⟩⟩

theorem witness_FlashLogCommands :
    (∃ (s : State) (r : Fin 8), logRuns s = true ∧ (s.logr r).phase = 1 ∧ sectCount s r = 0) ∧
    (∃ (s : State) (r : Fin 8), logRuns s = true ∧ (s.logr r).phase = 1 ∧ sectCount s r ≠ 0 ∧ logError s r ≠ 0) ∧
    (∃ (s : State) (r : Fin 8), logRuns s = true ∧ (s.logr r).phase = 1 ∧ sectCount s r ≠ 0 ∧ logError s r = 0 ∧ newestSector s r = none) ∧
    (∃ (s : State) (r : Fin 8) (i : Nat) (q : Nat), logRuns s = true ∧ (s.logr r).phase = 1 ∧ sectCount s r ≠ 0 ∧ logError s r = 0 ∧ newestSector s r =
      some (i, q) ∧ (walk s r (sectAddr s r i) (sectBytes s r / 8) 0x20).2 = false ∧ (walk s r (sectAddr s r i) (sectBytes s r / 8) 0x20).1 + 16 ≤ sectBytes
      s r) ∧
    (∃ (s : State) (r : Fin 8) (q : Fin 128) (tag : Nat) (body : List Byte) (takes : Bool) (missed : Bool) (part : Option (Nat × Nat × List Byte)),
      logRuns s = true ∧ (s.logr r).phase = 2 ∧ (s.logr r).resume = false ∧ logNext s r q = .write tag body takes missed part) ∧
    (∃ (s : State) (r : Fin 8) (q : Fin 128), logRuns s = true ∧ (s.logr r).phase = 2 ∧ (s.logr r).resume = false ∧ logNext s r q = .skipEntry) ∧
    (∃ (s : State) (r : Fin 8) (q : Fin 128), (logRuns s = false ∨ (s.logr r).phase ≠ 2 ∨ (s.logr r).resume = true ∨ logNext s r q = .nothing ∨ logNext s
      r q = .openSector)) ∧
    (∃ (s : State) (r : Fin 8) (q : Fin 128), logRuns s = true ∧ (s.logr r).phase = 2 ∧ (s.logr r).resume = false ∧ logNext s r q = .openSector) ∧
    (∃ (s : State) (r : Fin 8) (q : Fin 128), (logRuns s = false ∨ (s.logr r).phase ≠ 2 ∨ ((s.logr r).resume = false ∧ logNext s r q ≠ .openSector))) ∧
    (∃ (s : State) (r : Fin 8) (a : Nat) (l : List Byte), (s.logr r).job = some (.prog a l) ∧ (s.logr r).phase ≠ 4 ∧ (s.logr r).rescan = false ∧ (s.logr
      r).resume = false ∧ s1Run s (s.logr r).cs = 1 + r.val) ∧
    (∃ (s : State) (r : Fin 8) (a : Nat) (n : Nat), (s.logr r).job = some (.erase a n) ∧ (s.logr r).phase = 4 ∧ (s.logr r).rescan = false ∧ s1Run s
      (s.logr r).cs = 1 + r.val) ∧
    (∃ (s : State) (r : Fin 8) (j : FlashJob), (s.logr r).job = some j ∧ (s.logr r).rescan = false ∧ s1Run s (s.logr r).cs = 1 + r.val) ∧
    (∃ (s : State) (r : Fin 8), ((s.logr r).job = none ∨ s1Run s (s.logr r).cs ≠ 1 + r.val)) :=
  ⟨⟨runS.setLogr 2 { phase := 1 }, 2, by decide +kernel, by decide +kernel, by decide +kernel⟩,
   ⟨((runS.put (.LOG_SIZE_SECTORS 2) 2).put (.LOG_BASE_ADDR 2) 0x1000).setLogr 2 { phase := 1 }, 2, by decide +kernel, by decide +kernel,
     by decide +kernel, by decide +kernel⟩,
   ⟨logS.setLogr 2 { phase := 1 }, 2, by decide +kernel, by decide +kernel, by decide +kernel, by decide +kernel, by decide +kernel⟩,
   ⟨flashProg 0 0x3001000 (leBytes 4 0x474F4C4E ++ leBytes 2 1 ++ leBytes 1 2 ++ leBytes 1 12 ++ leBytes 4 7 ++ leBytes 4 0 ++ leBytes 8 5 ++ leBytes 4 0
     ++ leBytes 4 (crc32 (leBytes 4 0x474F4C4E ++ leBytes 2 1 ++ leBytes 1 2 ++ leBytes 1 12 ++ leBytes 4 7 ++ leBytes 4 0 ++ leBytes 8 5 ++ leBytes 4 0)))
     (logS.setLogr 2 { phase := 1 }), 2, 1, 7, by decide +kernel, by decide +kernel, by decide +kernel, by decide +kernel, by decide +kernel,
     by decide +kernel, by decide +kernel⟩,
   ⟨logQ.setLogr 2 { phase := 2, off := 0x20 }, 2, 5, 5, [0x11, 0, 0, 0, 0x22, 0, 0, 0], true, false, none, by decide +kernel, by decide +kernel,
     by decide +kernel, by decide +kernel⟩,
   ⟨((((logQ.put (.Q_CFG_ESIZE 5) 5).put (.Q_CFG_DEPTH 5) 15).put (.Q_BASE_BASE 5) 0).setQueue 5
     { ents := [{ pos := 0, len := 16384 }], wpos := 16384, wcnt := 1 }).setLogr 2 { phase := 2, off := 0x20 }, 2, 5, by decide +kernel, by decide +kernel,
     by decide +kernel, by decide +kernel⟩,
   ⟨runS, 2, 5, by decide +kernel⟩,
   ⟨logQ.setLogr 2 { phase := 2, off := 0x20, must := true }, 2, 5, by decide +kernel, by decide +kernel, by decide +kernel, by decide +kernel⟩,
   ⟨runS, 2, 5, by decide +kernel⟩,
   ⟨(logS.setLogr 2 { phase := 3, job := some (.prog 0x3000020 [1, 2]) }).modSp1 (fun x => { x with run := [(0, 3)] }), 2, 0x3000020, [1, 2],
     by decide +kernel, by decide +kernel, by decide +kernel, by decide +kernel, by decide +kernel⟩,
   ⟨(logS.setLogr 2 { phase := 4, job := some (.erase 0x3000000 12) }).modSp1 (fun x => { x with run := [(0, 3)] }), 2, 0x3000000, 12, by decide +kernel,
     by decide +kernel, by decide +kernel, by decide +kernel⟩,
   ⟨(logS.setLogr 2 { phase := 4, job := some (.erase 0x3000000 1) }).modSp1 (fun x => { x with run := [(0, 3)] }), 2, .erase 0x3000000 1,
     by decide +kernel, by decide +kernel, by decide +kernel⟩,
   ⟨runS, 2, by decide +kernel⟩⟩

theorem witness_TimeSettings :
    (∃ (s : State) (r : Req), Admitted s r Reg.TU_RATE Msk.TU_RATE ∧ s.get .TU_STAT_SRC_EFF = 0) ∧
    (∃ (s : State) (r : Req), Admitted s r Reg.TU_RATE Msk.TU_RATE ∧ s.get .TU_STAT_SRC_EFF ≠ 0) ∧
    (∃ (s : State) (r : Req) (w : Word), Admitted s r Reg.TU_STEP Msk.TU_STEP ∧ stepAllowed s = true ∧ w ≠ 0) ∧
    (∃ (s : State) (r : Req), Admitted s r Reg.TU_STEP Msk.TU_STEP ∧ stepAllowed s = true) ∧
    (∃ (s : State) (r : Req), Admitted s r Reg.TU_STEP Msk.TU_STEP ∧ stepAllowed s = false) ∧
    (∃ (s : State) (r : Req), Admitted s r (Reg.TU_SET 1) Msk.TU_SET ∧ stepAllowed s = true) ∧
    (∃ (s : State) (r : Req), Admitted s r (Reg.TU_SET 1) Msk.TU_SET ∧ stepAllowed s = false) ∧
    (∃ (s : State) (r : Req) (w : Word), Admitted s r Reg.TU_SRC Msk.TU_SRC ∧ bits w (FldRef.TU_SRC_SRC).hi (FldRef.TU_SRC_SRC).lo ≠ s.get
      .TU_STAT_SRC_EFF) ∧
    (∃ (s : State) (r : Req) (w : Word), Admitted s r Reg.TU_SRC Msk.TU_SRC ∧ bits w (FldRef.TU_SRC_SRC).hi (FldRef.TU_SRC_SRC).lo = s.get
      .TU_STAT_SRC_EFF) ∧
    (∃ (s : State), s.get .TU_STAT_SRC_EFF = 3 ∧ servoRuns s = true ∧ ppsOutside s (ppsOff s (now s)) = false) ∧
    (∃ (s : State) (off : Int) (m : Int × Int), s.get .TU_STAT_SRC_EFF = 3 ∧ servoRuns s = true ∧ off = ppsOff s (now s) ∧ ppsOutside s off = false ∧
      (s.get .TU_SERVO_STEP_THR = 0 ∨ off.natAbs ≤ s.get .TU_SERVO_STEP_THR * 256) ∧ s.tu.first = false ∧ m = servoMath s.tu.base s.tu.offPrev (rateOf s)
      off 49152000 (s.get .TU_SERVO_PSH) (s.get .TU_SERVO_FSH) 0 0) ∧
    (∃ (s : State), (s.get .TU_STAT_SRC_EFF ≠ 3 ∨ servoRuns s = false ∨ ppsOutside s (ppsOff s (now s)) = true)) ∧
    (∃ (s : State), s.get .TU_STAT_STATE = 2 ∧ servoRuns s = true ∧ s.tu.lastSample + holdTicks s ≤ clk s) ∧
    (∃ (s : State), (s.get .TU_STAT_STATE ≠ 2 ∨ servoRuns s = false ∨ clk s < s.tu.lastSample + holdTicks s)) :=
  ⟨⟨runS, .s0, ⟨by decide +kernel, by decide +kernel, by decide +kernel⟩, by decide +kernel⟩,
   ⟨runS.put .TU_STAT_SRC_EFF 1, .s0, ⟨by decide +kernel, by decide +kernel, by decide +kernel⟩, by decide +kernel⟩,
   ⟨runS, .s0, 0xFFFFFFF0, ⟨by decide +kernel, by decide +kernel, by decide +kernel⟩, by decide +kernel, by decide +kernel⟩,
   ⟨runS, .s0, ⟨by decide +kernel, by decide +kernel, by decide +kernel⟩, by decide +kernel⟩,
   ⟨runS.put .TU_STAT_SRC_EFF 1, .s0, ⟨by decide +kernel, by decide +kernel, by decide +kernel⟩, by decide +kernel⟩,
   ⟨runS, .s0, ⟨by decide +kernel, by decide +kernel, by decide +kernel⟩, by decide +kernel⟩,
   ⟨runS.put .TU_STAT_SRC_EFF 1, .s0, ⟨by decide +kernel, by decide +kernel, by decide +kernel⟩, by decide +kernel⟩,
   ⟨runS, .s0, 3, ⟨by decide +kernel, by decide +kernel, by decide +kernel⟩, by decide +kernel⟩,
   ⟨runS, .s0, 0, ⟨by decide +kernel, by decide +kernel, by decide +kernel⟩, by decide +kernel⟩,
   ⟨runS.put .TU_STAT_SRC_EFF 3, by decide +kernel, by decide +kernel, by decide +kernel⟩,
   ⟨(runS.put .TU_STAT_SRC_EFF 3).modTu (fun x => { x with first := false, acc := 49152000 * 2 ^ 32 * 100 + 4 * 2 ^ 32 }), 256, servoMath 0 0 0 256
     49152000 ((runS).get .TU_SERVO_PSH) ((runS).get .TU_SERVO_FSH) 0 0, by decide +kernel, by decide +kernel, by decide +kernel, by decide +kernel,
     by decide +kernel, by decide +kernel, by decide +kernel⟩,
   ⟨runS, by decide +kernel⟩,
   ⟨(runS.put .TU_STAT_STATE 2).modTu (fun x => { x with edges := 196608000 }), by decide +kernel, by decide +kernel, by decide +kernel⟩,
   ⟨runS, by decide +kernel⟩⟩

theorem witness_ScheduleCommands :
    (∃ (s : State) (r : Req) (j : Fin 16), Admitted s r (Reg.TU_SCH_PER j 1) Msk.TU_SCH_PER) ∧
    (∃ (s : State) (r : Req) (j : Fin 16), Admitted s r (Reg.TU_SCH_PHASE j 1) Msk.TU_SCH_PHASE) ∧
    (∃ (s : State) (r : Req) (j : Fin 16), Admitted s r (Reg.TU_SCH_CFG j) Msk.TU_SCH_CFG) ∧
    (∃ (s : State) (j : Fin 16), schActive s j = true ∧ schKind s j = 1 ∧ acqRuns s = true ∧ s.is .CA_CFG_SYNC_SCHED_EN = true ∧ now s + 2 * per s ≤
      schNext s j ∧ schNext s j ≤ now s + 4 * per s ∧ schNext s j + schPer s j < 2 ^ 64) ∧
    (∃ (s : State) (j : Fin 16), schActive s j = true ∧ schKind s j = 1 ∧ acqRuns s = true ∧ s.is .CA_CFG_SYNC_SCHED_EN = true ∧ schNext s j < now s + 2 *
      per s ∧ now s + schPer s j < 2 ^ 64) ∧
    (∃ (s : State) (j : Fin 16), schActive s j = true ∧ (schKind s j = 2 ∨ schKind s j = 3) ∧ s.pw.power ≠ 4 ∧ tokenSource s = true ∧ schNext s j ≤ now s
      + leadTicks s ∧ now s + schPer s j < 2 ^ 64 ∧ schNext s j + schPer s j < 2 ^ 64) ∧
    (∃ (s : State) (j : Fin 16), schActive s j = true ∧ schKind s j = 5 ∧ schNext s j ≤ now s ∧ now s + schPer s j < 2 ^ 64) ∧
    (∃ (s : State) (j : Fin 16) (c : Nat), schActive s j = true ∧ schKind s j = 4 ∧ s.pw.power ≠ 4 ∧ schNext s j ≤ now s ∧ now s + schPer s j < 2 ^ 64 ∧ c
      < 160 ∧ enabledCtxs s = [c] ∧ s.is (.CTX_CFG_EN c) = true ∧ s.is (.CTX_TRIG_SCH_EN c) = true ∧ s.get (.CTX_TRIG_SCH c) = j.val ∧ s.get
      (.CTX_TRIG_PEN_EN c) = 0 ∧ s.get (.CTX_TRIG_DI_EN c) = 0 ∧ s.get (.CTX_TRIG_CMP_EN c) = 0 ∧ ctxsHeld s = false ∧ s.get (.CTX_STAT_STATE c) = stIdle) ∧
    (∃ (s : State) (j : Fin 16), schActive s j = true ∧ schKind s j ≤ 3 ∧ s.pw.power = 4 ∧ schNext s j ≤ now s ∧ now s + schPer s j < 2 ^ 64) ∧
    (∃ (s : State) (j : Fin 16), (schActive s j = false ∨ now s + leadTicks s + 4 * per s < schNext s j)) ∧
    (∃ (s : State) (r : Req) (w : Word) (k : Token), Admitted s r Reg.TU_TOKEN Msk.TU_TOKEN ∧ bitAt w 0 = true ∧ (bits w 2 1 = 1 ∨ bits w 2 1 = 2) ∧
      tokenSource s = true ∧ k = ⟨bits w 2 1, bits w 31 16, if s.get64 (Reg.TU_TOKEN_TGT 0) < now s + leadTicks s then (now s + leadTicks s + 63) / 64 * 64
      else s.get64 (Reg.TU_TOKEN_TGT 0)⟩) ∧
    (∃ (s : State) (r : Req) (w : Word), Admitted s r Reg.TU_TOKEN Msk.TU_TOKEN ∧ (bitAt w 0 = false ∨ bits w 2 1 = 0 ∨ bits w 2 1 = 3 ∨ tokenSource s =
      false)) :=
  ⟨⟨runS, .s0, 3, ⟨by decide +kernel, by decide +kernel, by decide +kernel⟩⟩,
   ⟨runS, .s0, 3, ⟨by decide +kernel, by decide +kernel, by decide +kernel⟩⟩,
   ⟨runS, .s0, 3, ⟨by decide +kernel, by decide +kernel, by decide +kernel⟩⟩,
   ⟨(((runS.put (.TU_SCH_CFG_KIND 3) 1).put64 (Reg.TU_SCH_PER 3 0) 64).put64 (Reg.TU_SCH_NEXT 3 0) 4915200064).set1 .CA_CFG_SYNC_SCHED_EN, 3,
     by decide +kernel, by decide +kernel, by decide +kernel, by decide +kernel, by decide +kernel, by decide +kernel, by decide +kernel⟩,
   ⟨(((runS.put (.TU_SCH_CFG_KIND 3) 1).put64 (Reg.TU_SCH_PER 3 0) 64).put64 (Reg.TU_SCH_NEXT 3 0) 4915199000).set1 .CA_CFG_SYNC_SCHED_EN, 3,
     by decide +kernel, by decide +kernel, by decide +kernel, by decide +kernel, by decide +kernel, by decide +kernel⟩,
   ⟨(((runS.put (.TU_SCH_CFG_KIND 3) 3).put64 (Reg.TU_SCH_PER 3 0) 64).put64 (Reg.TU_SCH_NEXT 3 0) 4915200000), 3, by decide +kernel, by decide +kernel,
     by decide +kernel, by decide +kernel, by decide +kernel, by decide +kernel, by decide +kernel⟩,
   ⟨(((runS.put (.TU_SCH_CFG_KIND 3) 5).put64 (Reg.TU_SCH_PER 3 0) 64).put64 (Reg.TU_SCH_NEXT 3 0) 4915200000), 3, by decide +kernel, by decide +kernel,
     by decide +kernel, by decide +kernel⟩,
   ⟨(((((runS.put (.TU_SCH_CFG_KIND 3) 4).put64 (Reg.TU_SCH_PER 3 0) 64).put64 (Reg.TU_SCH_NEXT 3 0) 4915200000).set1 (.CTX_CFG_EN 5)).set1
     (.CTX_TRIG_SCH_EN 5)).put (.CTX_TRIG_SCH 5) 3, 3, 5, by decide +kernel, by decide +kernel, by decide +kernel, by decide +kernel, by decide +kernel,
     by decide +kernel, by decide +kernel, by decide +kernel, by decide +kernel, by decide +kernel, by decide +kernel, by decide +kernel,
     by decide +kernel, by decide +kernel, by decide +kernel⟩,
   ⟨((((runS.put (.TU_SCH_CFG_KIND 3) 1).put64 (Reg.TU_SCH_PER 3 0) 64).put64 (Reg.TU_SCH_NEXT 3 0) 4915199000)).modPw (fun x => { x with power := 4 }),
     3, by decide +kernel, by decide +kernel, by decide +kernel, by decide +kernel, by decide +kernel⟩,
   ⟨runS, 3, by decide +kernel⟩,
   ⟨runS.put64 (Reg.TU_TOKEN_TGT 0) 9915200000, .s0, 0x00050003, ⟨1, 5, 9915200000⟩, ⟨by decide +kernel, by decide +kernel, by decide +kernel⟩,
     by decide +kernel, by decide +kernel, by decide +kernel, by decide +kernel⟩,
   ⟨runS, .s0, 0, ⟨by decide +kernel, by decide +kernel, by decide +kernel⟩, by decide +kernel⟩⟩

theorem witness_CanModes :
    (∃ (s : State) (p : Fin 4), (s.can p).mode = 0 ∧ s.get (.CAN_CFG_MODE p) ≠ 0 ∧ canBusy s p = false) ∧
    (∃ (s : State) (p : Fin 4), (s.can p).mode ≠ 0 ∧ s.get (.CAN_CFG_MODE p) ≠ (s.can p).mode ∧ canBusy s p = false) ∧
    (∃ (s : State) (p : Fin 4), (s.get (.CAN_CFG_MODE p) = (s.can p).mode ∨ canBusy s p = true)) ∧
    (∃ (s : State) (r : Req) (p : Fin 4) (w : Word), Admitted s r (Reg.CAN_SLEEP p) Msk.CAN_SLEEP ∧ s.is (.CAN_STAT_ASLEEP p) = false ∧ canBusy s p =
      false ∧ bitAt w (FldRef.CAN_SLEEP_FLUSH p).lo = false) ∧
    (∃ (s : State) (r : Req) (p : Fin 4) (w : Word), Admitted s r (Reg.CAN_SLEEP p) Msk.CAN_SLEEP ∧ s.is (.CAN_STAT_ASLEEP p) = false ∧ canBusy s p =
      false ∧ bitAt w (FldRef.CAN_SLEEP_FLUSH p).lo = true) ∧
    (∃ (s : State) (r : Req) (p : Fin 4), Admitted s r (Reg.CAN_SLEEP p) Msk.CAN_SLEEP ∧ s.is (.CAN_STAT_ASLEEP p) = false ∧ canBusy s p = true) ∧
    (∃ (s : State) (r : Req) (p : Fin 4), Admitted s r (Reg.CAN_SLEEP p) Msk.CAN_SLEEP ∧ s.is (.CAN_STAT_ASLEEP p) = true) ∧
    (∃ (s : State) (r : Req) (p : Fin 4), Admitted s r (Reg.CAN_SLEEP p) Msk.CAN_SLEEP ∧ s.is (.CAN_STAT_ASLEEP p) = true) ∧
    (∃ (s : State) (r : Req) (p : Fin 4), Admitted s r (Reg.CAN_SLEEP p) Msk.CAN_SLEEP ∧ s.is (.CAN_STAT_ASLEEP p) = false) ∧
    (∃ (s : State) (p : Fin 4), s.is (.CAN_STAT_ASLEEP p) = true ∧ s.get (.CAN_SLEEP_WAKE_MODE p) % 2 = 1) ∧
    (∃ (s : State) (p : Fin 4), (s.is (.CAN_STAT_ASLEEP p) = false ∨ s.get (.CAN_SLEEP_WAKE_MODE p) % 2 = 0)) ∧
    (∃ (s : State) (p : Fin 4) (x : Frame) (i : Nat), s.is (.CAN_STAT_ASLEEP p) = true ∧ s.get (.CAN_SLEEP_WAKE_MODE p) = 2 ∧ frameOk x = true ∧ bits
      x.idw 31 30 = 0 ∧ x.rtr = false ∧ (List.range 4).find? (fun i => wakeMatch s p i x) = some i) ∧
    (∃ (s : State) (p : Fin 4) (x : Frame), (s.is (.CAN_STAT_ASLEEP p) = false ∨ s.get (.CAN_SLEEP_WAKE_MODE p) ≠ 2 ∨ frameOk x = false ∨ bits x.idw 31 30
      ≠ 0 ∨ x.rtr = true ∨ (List.range 4).find? (fun i => wakeMatch s p i x) = none)) :=
  ⟨⟨runS.put (.CAN_CFG_MODE 1) 1, 1, by decide +kernel, by decide +kernel, by decide +kernel⟩,
   ⟨(runS.put (.CAN_CFG_MODE 1) 2).setCan 1 { mode := 1 }, 1, by decide +kernel, by decide +kernel, by decide +kernel⟩,
   ⟨runS, 1, by decide +kernel⟩,
   ⟨runS, .s0, 1, 0, ⟨by decide +kernel, by decide +kernel, by decide +kernel⟩, by decide +kernel, by decide +kernel, by decide +kernel⟩,
   ⟨runS.setCan 1 { mode := 1, txq := [{ id := 4, src := .s0, frame := { idw := 0x123 } }], nextId := 5 }, .s0, 1, 4, ⟨by decide +kernel,
     by decide +kernel, by decide +kernel⟩, by decide +kernel, by decide +kernel, by decide +kernel⟩,
   ⟨runS.setCan 1 { mode := 1, busy := true }, .s0, 1, ⟨by decide +kernel, by decide +kernel, by decide +kernel⟩, by decide +kernel, by decide +kernel⟩,
   ⟨runS.set1 (.CAN_STAT_ASLEEP 1), .s0, 1, ⟨by decide +kernel, by decide +kernel, by decide +kernel⟩, by decide +kernel⟩,
   ⟨runS.set1 (.CAN_STAT_ASLEEP 1), .s0, 1, ⟨by decide +kernel, by decide +kernel, by decide +kernel⟩, by decide +kernel⟩,
   ⟨runS, .s0, 1, ⟨by decide +kernel, by decide +kernel, by decide +kernel⟩, by decide +kernel⟩,
   ⟨(runS.set1 (.CAN_STAT_ASLEEP 1)).put (.CAN_SLEEP_WAKE_MODE 1) 1, 1, by decide +kernel, by decide +kernel⟩,
   ⟨runS, 1, by decide +kernel⟩,
   ⟨wr (Reg.WF_ID 1 2) 0x80000123 (wr (Reg.WF_IDMASK 1 2) 0x3FFFFFFF ((runS.set1 (.CAN_STAT_ASLEEP 1)).put (.CAN_SLEEP_WAKE_MODE 1) 2)), 1,
     { idw := 0x123 }, 2, by decide +kernel, by decide +kernel, by decide +kernel, by decide +kernel, by decide +kernel, by decide +kernel⟩,
   ⟨runS, 1, { idw := 0x123 }, by decide +kernel⟩⟩

theorem witness_CanReceiving :
    (∃ (s : State) (p : Fin 4) (x : Frame), canRuns s p = true ∧ ((s.can p).mode = 1 ∨ (s.can p).mode = 2) ∧ s.get (.CAN_STAT_ERR_STATE p) ≠ 2 ∧ frameOk x
      = true ∧ canDecodes s p x = true) ∧
    (∃ (s : State) (p : Fin 4) (x : Frame), canRuns s p = true ∧ ((s.can p).mode = 1 ∨ (s.can p).mode = 2) ∧ s.get (.CAN_STAT_ERR_STATE p) ≠ 2 ∧ frameOk x
      = true ∧ canDecodes s p x = true ∧ enabledCtxs s = [] ∧ (deliveries s p x).all (fun d => d.1 != 3) = true) ∧
    (∃ (s : State) (p : Fin 4) (x : Frame) (f : Nat), canRuns s p = true ∧ ((s.can p).mode = 1 ∨ (s.can p).mode = 2) ∧ s.get (.CAN_STAT_ERR_STATE p) ≠ 2 ∧
      frameOk x = true ∧ canDecodes s p x = true ∧ deliveries s p x = [(0, 0, f, false)] ∧ s.is (.CAN_RXQ_EN0 p) = true ∧ rxqBad s (s.get (.CAN_RXQ_Q0 p)) =
      true) ∧
    (∃ (s : State) (p : Fin 4) (x : Frame), (canRuns s p = false ∨ ((s.can p).mode ≠ 1 ∧ (s.can p).mode ≠ 2) ∨ s.get (.CAN_STAT_ERR_STATE p) = 2 ∨ frameOk
      x = false ∨ canDecodes s p x = false)) ∧
    (∃ (s : State) (p : Fin 4), s.is (.CAN_STAT_ASLEEP p) = true) ∧
    (∃ (s : State) (p : Fin 4), s.is (.CAN_STAT_ASLEEP p) = false ∧ (canRuns s p = false ∨ (s.can p).mode = 3 ∨ s.get (.CAN_STAT_ERR_STATE p) = 2)) ∧
    (∃ (s : State) (p : Fin 4), canRuns s p = true ∧ (s.can p).mode ≠ 3 ∧ s.get (.CAN_STAT_ERR_STATE p) ≠ 2 ∧ s.is (.CAN_CFG_PXD p) = false) ∧
    (∃ (s : State) (p : Fin 4) (e : CanErr) (xl : Bool) (d : Bool), canRuns s p = true ∧ (s.can p).mode = 1 ∧ s.get (.CAN_STAT_ERR_STATE p) ≠ 2 ∧ (d =
      false ∨ s.is (.CAN_CFG_PXD p) = true) ∧ xlSilent s p (if xl then 0xC0000000 else 0) e = false) ∧
    (∃ (s : State) (p : Fin 4) (e : CanErr) (xl : Bool) (d : Bool), canRuns s p = true ∧ (s.can p).mode ≠ 3 ∧ s.get (.CAN_STAT_ERR_STATE p) ≠ 2 ∧ (d =
      false ∨ s.is (.CAN_CFG_PXD p) = true) ∧ xlSilent s p (if xl then 0xC0000000 else 0) e = true) ∧
    (∃ (s : State) (p : Fin 4) (d : Bool), canRuns s p = true ∧ (s.can p).mode = 2 ∧ s.get (.CAN_STAT_ERR_STATE p) ≠ 2 ∧ (d = false ∨ s.is (.CAN_CFG_PXD
      p) = true)) :=
  ⟨⟨runS.setCan 1 { mode := 2 }, 1, { idw := 0x123 }, by decide +kernel, by decide +kernel, by decide +kernel, by decide +kernel, by decide +kernel⟩,
   ⟨runS.setCan 1 { mode := 1 }, 1, { idw := 0x123 }, by decide +kernel, by decide +kernel, by decide +kernel, by decide +kernel, by decide +kernel,
     by decide +kernel, by decide +kernel⟩,
   ⟨(((runS.set1 (.FLT_CTL_EN 1 0)).put (.FLT_CTL_TARGET 1 0) 0).set1 (.CAN_RXQ_EN0 1)).setCan 1 { mode := 2 }, 1, { idw := 0x123 }, 0,
     by decide +kernel, by decide +kernel, by decide +kernel, by decide +kernel, by decide +kernel, by decide +kernel, by decide +kernel,
     by decide +kernel⟩,
   ⟨runS, 1, { idw := 0x123 }, by decide +kernel⟩,
   ⟨runS.set1 (.CAN_STAT_ASLEEP 1), 1, by decide +kernel⟩,
   ⟨runS, 1, by decide +kernel, by decide +kernel⟩,
   ⟨runS.setCan 1 { mode := 1 }, 1, by decide +kernel, by decide +kernel, by decide +kernel, by decide +kernel⟩,
   ⟨runS.setCan 1 { mode := 1 }, 1, { lec := 2, dominant := true }, false, false, by decide +kernel, by decide +kernel, by decide +kernel,
     by decide +kernel, by decide +kernel⟩,
   ⟨(runS.put (.CAN_CFG_XL_ERRSIG 1) 0).setCan 1 { mode := 1 }, 1, { lec := 2, data := true }, true, false, by decide +kernel, by decide +kernel,
     by decide +kernel, by decide +kernel, by decide +kernel⟩,
   ⟨runS.setCan 1 { mode := 2 }, 1, false, by decide +kernel, by decide +kernel, by decide +kernel, by decide +kernel⟩⟩

theorem witness_CanBuffers :
    (∃ (s : State) (p : Fin 4) (x : Frame) (b : Nat) (f : Nat), canRuns s p = true ∧ ((s.can p).mode = 1 ∨ (s.can p).mode = 2) ∧ s.get
      (.CAN_STAT_ERR_STATE p) ≠ 2 ∧ frameOk x = true ∧ canDecodes s p x = true ∧ deliveries s p x = [(2, b, f, false)] ∧ (lvbOf s p b).locks = []) ∧
    (∃ (s : State) (p : Fin 4) (x : Frame) (b : Nat) (f : Nat), canRuns s p = true ∧ ((s.can p).mode = 1 ∨ (s.can p).mode = 2) ∧ s.get
      (.CAN_STAT_ERR_STATE p) ≠ 2 ∧ frameOk x = true ∧ canDecodes s p x = true ∧ deliveries s p x = [(2, b, f, false)] ∧ (lvbOf s p b).locks ≠ []) ∧
    (∃ (s : State) (r : Req), readServed s r = true) ∧
    (∃ (s : State) (r : Req) (p : Fin 4) (b : Fin 32) (k : Nat × Nat), readServed s r = true ∧ (lvbOf s p b).locks = [k] ∧ k.1 = reqIx r) ∧
    (∃ (s : State) (r : Req) (p : Fin 4) (b : Fin 32), readServed s r = true ∧ (lvbOf s p b).locks.any (fun k => k.1 == reqIx r) = true ∧ (lvbOf s p
      b).locks.any (fun k => k.1 != reqIx r) = true) ∧
    (∃ (s : State) (r : Req) (p : Fin 4) (b : Fin 32), readServed s r = true ∧ (lvbOf s p b).locks.any (fun k => k.1 == reqIx r) = false) ∧
    (∃ (s : State) (r : Req), readServed s r = false) ∧
    (∃ (s : State) (r : Req), readServed s r = false) ∧
    (∃ (s : State) (r : Req) (p : Fin 4) (b : Fin 32), lvbExpired s p b (reqIx r) = true) ∧
    (∃ (s : State) (r : Req) (p : Fin 4) (b : Fin 32), lvbExpired s p b (reqIx r) = false) :=
  ⟨⟨((runS.set1 (.FLT_CTL_EN 1 0)).put (.FLT_CTL_TARGET 1 0) 2).put (.FLT_CTL_INDEX 1 0) 7 |>.setCan 1 { mode := 2 }, 1, { idw := 0x123 }, 7, 0,
     by decide +kernel, by decide +kernel, by decide +kernel, by decide +kernel, by decide +kernel, by decide +kernel, by decide +kernel⟩,
   ⟨((runS.set1 (.FLT_CTL_EN 1 0)).put (.FLT_CTL_TARGET 1 0) 2).put (.FLT_CTL_INDEX 1 0) 7 |>.setCan 1
     { mode := 2, lvb := [(7, { locks := [(1, 0)] })] }, 1, { idw := 0x123 }, 7, 0, by decide +kernel, by decide +kernel, by decide +kernel,
     by decide +kernel, by decide +kernel, by decide +kernel, by decide +kernel⟩,
   ⟨runS, .s0, by decide +kernel⟩,
   ⟨setLvb 1 7 { locks := [(1, 5)] } runS, .s0, 1, 7, (1, 5), by decide +kernel, by decide +kernel, by decide +kernel⟩,
   ⟨setLvb 1 7 { locks := [(1, 5), (0, 9)] } runS, .s0, 1, 7, by decide +kernel, by decide +kernel, by decide +kernel⟩,
   ⟨runS, .s0, 1, 7, by decide +kernel, by decide +kernel⟩,
   ⟨runS.modSv (fun x => { x with anyActive := false }), .s0, by decide +kernel⟩,
   ⟨runS.modSv (fun x => { x with anyActive := false }), .s0, by decide +kernel⟩,
   ⟨(setLvb 1 7 { locks := [(1, 5)] } runS).modTu (fun x => { x with edges := 9000000 }), .s0, 1, 7, by decide +kernel⟩,
   ⟨runS, .s0, 1, 7, by decide +kernel⟩⟩

theorem witness_CanTransmitQueue :
    (∃ (s : State) (r : Req) (p : Fin 4), Admitted s r (Reg.CAN_TX_CMD p) Msk.CAN_TX_CMD ∧ formatBad s p (stagedFrame s p r).1 (stagedFrame s p r).2 =
      false ∧ txHostLevel s p < 24 ∧ txLevel s p < 32) ∧
    (∃ (s : State) (r : Req) (p : Fin 4), Admitted s r (Reg.CAN_TX_CMD p) Msk.CAN_TX_CMD ∧ formatBad s p (stagedFrame s p r).1 (stagedFrame s p r).2 =
      true) ∧
    (∃ (s : State) (r : Req) (p : Fin 4), Admitted s r (Reg.CAN_TX_CMD p) Msk.CAN_TX_CMD ∧ formatBad s p (stagedFrame s p r).1 (stagedFrame s p r).2 =
      false ∧ (24 ≤ txHostLevel s p ∨ 32 ≤ txLevel s p)) ∧
    (∃ (s : State) (p : Fin 4) (x : TxEnt), canRuns s p = true ∧ ((s.can p).mode = 1 ∨ (s.can p).mode = 3) ∧ s.get (.CAN_STAT_ERR_STATE p) ≠ 2 ∧ canBusy s
      p = false ∧ s.is .SV_STAT_SWITCHING = false ∧ nextTx (s.can p).txq = some x) ∧
    (∃ (s : State) (p : Fin 4), (canRuns s p = false ∨ ((s.can p).mode ≠ 1 ∧ (s.can p).mode ≠ 3) ∨ s.get (.CAN_STAT_ERR_STATE p) = 2 ∨ canBusy s p = true
      ∨ s.is .SV_STAT_SWITCHING = true ∨ nextTx (s.can p).txq = none)) :=
  ⟨⟨runS, .s0, 1, ⟨by decide +kernel, by decide +kernel, by decide +kernel⟩, by decide +kernel, by decide +kernel, by decide +kernel⟩,
   ⟨wr (Reg.TXS_ID 1) 0x40000000 runS, .s0, 1, ⟨by decide +kernel, by decide +kernel, by decide +kernel⟩, by decide +kernel⟩,
   ⟨runS.setCan 1 { txq := List.replicate 24 { id := 4, src := .s0, frame := { idw := 0x123 } } }, .s0, 1, ⟨by decide +kernel, by decide +kernel,
     by decide +kernel⟩, by decide +kernel, by decide +kernel⟩,
   ⟨runS.setCan 1 { mode := 1, txq := [{ id := 4, src := .s0, frame := { idw := 0x123 } }], nextId := 5 }, 1,
     { id := 4, src := .s0, frame := { idw := 0x123 } }, by decide +kernel, by decide +kernel, by decide +kernel, by decide +kernel, by decide +kernel,
     by decide +kernel⟩,
   ⟨runS, 1, by decide +kernel⟩⟩

theorem witness_FlushAbandonsHostEntries :
    (∃ (s : State) (r : Req) (p : Fin 4), Admitted s r (Reg.CAN_TX_CMD p) Msk.CAN_TX_CMD ∧ (s.can p).txq.Pairwise (fun x y => x.id ≠ y.id)) :=
  ⟨runS.setCan 1
     { mode := 1, txq := [{ id := 4, src := .s0, frame := { idw := 0x123 } }, { id := 5, src := .hoist 3, frame := { idw := 0x124 } }, { id := 6, src := .ring, frame := {} }], nextId := 7, att := some 6 },
     .s0, 1, ⟨by decide +kernel, by decide +kernel, by decide +kernel⟩, by decide +kernel⟩

theorem witness_CanAttempts :
    (∃ (s : State) (p : Fin 4) (x : TxEnt), inAttempt s p = some x ∧ x.id < (s.can p).nextId) ∧
    (∃ (s : State) (p : Fin 4) (x : TxEnt), inAttempt s p = some x ∧ x.src.isHoist = false ∧ enabledCtxs s = [] ∧ (s.can p).mode ≠ 3 ∧ s.is
      (.CAN_CFG_SELF_RX p) = false) ∧
    (∃ (s : State) (p : Fin 4), inAttempt s p = none) ∧
    (∃ (s : State) (p : Fin 4) (e : CanErr) (x : TxEnt), inAttempt s p = some x ∧ (s.can p).mode ≠ 3 ∧ xlSilent s p x.frame.idw e = false ∧ x.id < (s.can
      p).nextId) ∧
    (∃ (s : State) (p : Fin 4) (x : TxEnt), inAttempt s p = some x ∧ (s.can p).mode ≠ 3 ∧ x.flush = none ∧ (s.get (.CAN_RETRY_ERR_RETRY p) = 31 ∨ x.errs <
      s.get (.CAN_RETRY_ERR_RETRY p)) ∧ s.is (.CAN_CFG_BO_FLUSH p) = false ∧ (s.can p).sleepPend = false ∧ enabledCtxs s = []) ∧
    (∃ (s : State) (p : Fin 4) (e : CanErr) (x : TxEnt), inAttempt s p = some x ∧ (s.can p).mode ≠ 3 ∧ (s.can p).mode ≠ 0 ∧ xlSilent s p x.frame.idw e =
      true) ∧
    (∃ (s : State) (p : Fin 4), (inAttempt s p = none ∨ (s.can p).mode = 3)) ∧
    (∃ (s : State) (p : Fin 4) (x : TxEnt), inAttempt s p = some x ∧ (s.can p).mode ≠ 3 ∧ x.id < (s.can p).nextId) ∧
    (∃ (s : State) (p : Fin 4) (x : TxEnt), inAttempt s p = some x ∧ (s.can p).mode ≠ 3 ∧ x.flush = none ∧ (s.get (.CAN_RETRY_ARB_RETRY p) = 255 ∨ x.arbs
      < s.get (.CAN_RETRY_ARB_RETRY p)) ∧ enabledCtxs s = []) ∧
    (∃ (s : State) (p : Fin 4), (inAttempt s p = none ∨ (s.can p).mode = 3)) ∧
    (∃ (s : State) (p : Fin 4), s.get (.CAN_STAT_ERR_STATE p) = 2 ∧ (s.can p).mode ≠ 0) ∧
    (∃ (s : State) (p : Fin 4), (s.get (.CAN_STAT_ERR_STATE p) ≠ 2 ∨ (s.can p).mode = 0)) :=
  ⟨⟨(runS.put (.CAN_ERRCNT_TEC 1) 9).setCan 1 { mode := 1, txq := [{ id := 4, src := .s0, frame := { idw := 0x123 } }], nextId := 5, att := some 4 }, 1,
     { id := 4, src := .s0, frame := { idw := 0x123 } }, by decide +kernel, by decide +kernel⟩,
   ⟨runS.setCan 1 { mode := 1, txq := [{ id := 4, src := .s0, frame := { idw := 0x123 } }], nextId := 5, att := some 4 }, 1,
     { id := 4, src := .s0, frame := { idw := 0x123 } }, by decide +kernel, by decide +kernel, by decide +kernel, by decide +kernel, by decide +kernel⟩,
   ⟨runS, 1, by decide +kernel⟩,
   ⟨(runS.put (.CAN_ERRCNT_TEC 1) 9).setCan 1 { mode := 1, txq := [{ id := 4, src := .s0, frame := { idw := 0x123 } }], nextId := 5, att := some 4 }, 1,
     { lec := 2 }, { id := 4, src := .s0, frame := { idw := 0x123 } }, by decide +kernel, by decide +kernel, by decide +kernel, by decide +kernel⟩,
   ⟨(runS.put (.CAN_RETRY_ERR_RETRY 1) 31).setCan 1
     { mode := 1, txq := [{ id := 4, src := .s0, frame := { idw := 0x123 } }], nextId := 5, att := some 4 }, 1,
     { id := 4, src := .s0, frame := { idw := 0x123 } }, by decide +kernel, by decide +kernel, by decide +kernel, by decide +kernel, by decide +kernel,
     by decide +kernel, by decide +kernel⟩,
   ⟨(runS.put (.CAN_CFG_XL_ERRSIG 1) 0).setCan 1
     { mode := 1, txq := [{ id := 4, src := .s0, frame := { idw := 0xC0000123, data := [1] } }], nextId := 5, att := some 4 }, 1,
     { lec := 2, data := true }, { id := 4, src := .s0, frame := { idw := 0xC0000123, data := [1] } }, by decide +kernel, by decide +kernel,
     by decide +kernel, by decide +kernel⟩,
   ⟨runS, 1, by decide +kernel⟩,
   ⟨runS.setCan 1 { mode := 1, txq := [{ id := 4, src := .s0, frame := { idw := 0x123 } }], nextId := 5, att := some 4 }, 1,
     { id := 4, src := .s0, frame := { idw := 0x123 } }, by decide +kernel, by decide +kernel, by decide +kernel⟩,
   ⟨(runS.put (.CAN_RETRY_ARB_RETRY 1) 255).setCan 1
     { mode := 1, txq := [{ id := 4, src := .s0, frame := { idw := 0x123 } }], nextId := 5, att := some 4 }, 1,
     { id := 4, src := .s0, frame := { idw := 0x123 } }, by decide +kernel, by decide +kernel, by decide +kernel, by decide +kernel, by decide +kernel⟩,
   ⟨runS, 1, by decide +kernel⟩,
   ⟨(runS.put (.CAN_STAT_ERR_STATE 1) 2).setCan 1 { mode := 1 }, 1, by decide +kernel, by decide +kernel⟩,
   ⟨runS, 1, by decide +kernel⟩⟩

theorem witness_CanTimeReferences :
    (∃ (s : State) (p : Nat), s.get .TU_CAN_CFG_ROLE = 1 ∧ s.get .TU_CAN_CFG_PER ≠ 0 ∧ servoRuns s = true ∧ refDue s = true ∧ s.get .TU_CAN_CFG_PORT = p) ∧
    (∃ (s : State), (s.get .TU_CAN_CFG_ROLE ≠ 1 ∨ s.get .TU_CAN_CFG_PER = 0 ∨ servoRuns s = false ∨ refDue s = false)) ∧
    (∃ (s : State) (x : Frame) (p : Nat), s.get .TU_CAN_CFG_ROLE = 2 ∧ s.get .TU_CAN_CFG_PORT = p ∧ canRuns s p = true ∧ ((s.can p).mode = 1 ∨ (s.can
      p).mode = 2) ∧ s.get (.CAN_STAT_ERR_STATE p) ≠ 2 ∧ servoRuns s = true ∧ frameOk x = true ∧ x.idw = refId s ∧ x.dlc = 8 ∧ x.rtr = false) ∧
    (∃ (s : State) (x : Frame) (p : Nat) (k : Nat) (f : Nat), s.get .TU_CAN_CFG_ROLE = 2 ∧ s.get .TU_CAN_CFG_PORT = p ∧ canRuns s p = true ∧ ((s.can
      p).mode = 1 ∨ (s.can p).mode = 2) ∧ s.get (.CAN_STAT_ERR_STATE p) ≠ 2 ∧ servoRuns s = true ∧ frameOk x = true ∧ x.idw = refId s ∧ x.dlc = 8 ∧ x.rtr =
      false ∧ s.tu.canSeq = some k ∧ s.tu.canF = some f ∧ (x.data.getD 0 0).toNat = (k + 1) % 256 ∧ (x.data.drop 1).all (fun b => b == 0xFF) = false) ∧
    (∃ (s : State) (x : Frame) (p : Nat) (k : Nat) (f : Nat), s.get .TU_CAN_CFG_ROLE = 2 ∧ s.get .TU_CAN_CFG_PORT = p ∧ canRuns s p = true ∧ ((s.can
      p).mode = 1 ∨ (s.can p).mode = 2) ∧ s.get (.CAN_STAT_ERR_STATE p) ≠ 2 ∧ servoRuns s = true ∧ frameOk x = true ∧ x.idw = refId s ∧ x.dlc = 8 ∧ x.rtr =
      false ∧ s.tu.canSeq = some k ∧ s.tu.canF = some f ∧ ((x.data.getD 0 0).toNat ≠ (k + 1) % 256 ∨ (x.data.drop 1).all (fun b => b == 0xFF) = true) ∧ k <
      256) ∧
    (∃ (s : State) (x : Frame), (s.get .TU_CAN_CFG_ROLE ≠ 2 ∨ canRuns s (s.get .TU_CAN_CFG_PORT) = false ∨ ((s.can (s.get .TU_CAN_CFG_PORT)).mode ≠ 1 ∧
      (s.can (s.get .TU_CAN_CFG_PORT)).mode ≠ 2) ∨ s.get (.CAN_STAT_ERR_STATE (s.get .TU_CAN_CFG_PORT)) = 2 ∨ servoRuns s = false ∨ frameOk x = false ∨
      x.idw ≠ refId s ∨ x.dlc ≠ 8 ∨ x.rtr = true)) :=
  ⟨⟨(runS.put .TU_CAN_CFG_ROLE 1).put .TU_CAN_CFG_PER 10, 0, by decide +kernel, by decide +kernel, by decide +kernel, by decide +kernel,
     by decide +kernel⟩,
   ⟨runS, by decide +kernel⟩,
   ⟨(runS.put .TU_CAN_CFG_ROLE 2).setCan 0 { mode := 1 }, { idw := 0, dlc := 8, data := [3, 0, 0, 0, 0, 0, 0, 0], ts := 700 }, 0, by decide +kernel,
     by decide +kernel, by decide +kernel, by decide +kernel, by decide +kernel, by decide +kernel, by decide +kernel, by decide +kernel,
     by decide +kernel, by decide +kernel⟩,
   ⟨((runS.put .TU_CAN_CFG_ROLE 2).setCan 0 { mode := 1 }).modTu (fun t => { t with canSeq := some 2, canF := some 600 }),
     { idw := 0, dlc := 8, data := [3, 0, 0, 0, 0, 0, 0, 0], ts := 700 }, 0, 2, 600, by decide +kernel, by decide +kernel, by decide +kernel,
     by decide +kernel, by decide +kernel, by decide +kernel, by decide +kernel, by decide +kernel, by decide +kernel, by decide +kernel,
     by decide +kernel, by decide +kernel, by decide +kernel, by decide +kernel⟩,
   ⟨((runS.put .TU_CAN_CFG_ROLE 2).setCan 0 { mode := 1 }).modTu (fun t => { t with canSeq := some 2, canF := some 600 }),
     { idw := 0, dlc := 8, data := [9, 0, 0, 0, 0, 0, 0, 0], ts := 700 }, 0, 2, 600, by decide +kernel, by decide +kernel, by decide +kernel,
     by decide +kernel, by decide +kernel, by decide +kernel, by decide +kernel, by decide +kernel, by decide +kernel, by decide +kernel,
     by decide +kernel, by decide +kernel, by decide +kernel, by decide +kernel⟩,
   ⟨runS, { idw := 0, dlc := 8, data := [3, 0, 0, 0, 0, 0, 0, 0] }, by decide +kernel⟩⟩

theorem witness_FlowInstructions :
    (∃ (s : State) (e : Fin 8) (c : Nat) (w : Word) (h : HWord), atWord s e c 0x01 w = true ∧ h = fieldsOf w 0#32 ∧ h.d = 0 ∧ h.a = 0 ∧ h.i = true) ∧
    (∃ (s : State) (e : Fin 8) (c : Nat) (w : Word) (h : HWord), atWord s e c 0x01 w = true ∧ h = fieldsOf w 0#32 ∧ (h.d == 0 && h.a == 0 && h.i) = false) ∧
    (∃ (s : State) (e : Fin 8) (c : Nat) (w : Word), atExt s e c 0x01 w = true) ∧
    (∃ (s : State) (e : Fin 8) (c : Nat) (w : Word) (h : HWord) (v : Bool), atWord s e c 0x02 w = true ∧ h = fieldsOf w 0#32 ∧ h.a = 0 ∧ h.i = true ∧
      condition (s.ctx c) h.d = some v) ∧
    (∃ (s : State) (e : Fin 8) (c : Nat) (w : Word) (h : HWord), atWord s e c 0x02 w = true ∧ h = fieldsOf w 0#32 ∧ (h.a == 0 && h.i && decide (h.d ≤ 10))
      = false) ∧
    (∃ (s : State) (e : Fin 8) (c : Nat) (w : Word), atExt s e c 0x02 w = true) ∧
    (∃ (s : State) (e : Fin 8) (c : Nat) (w : Word) (h : HWord), atWord s e c 0x03 w = true ∧ h = fieldsOf w 0#32 ∧ h.d = 0 ∧ h.a = 0 ∧ h.i = true) ∧
    (∃ (s : State) (e : Fin 8) (c : Nat) (w : Word) (h : HWord), atWord s e c 0x03 w = true ∧ h = fieldsOf w 0#32 ∧ (h.d == 0 && h.a == 0 && h.i) = false) ∧
    (∃ (s : State) (e : Fin 8) (c : Nat) (w : Word), atExt s e c 0x03 w = true) ∧
    (∃ (s : State) (e : Fin 8) (c : Nat) (w : Word) (h : HWord) (l : List Word), atWord s e c 0x04 w = true ∧ h = fieldsOf w 0#32 ∧ noK h = true ∧ h.a = 0
      ∧ fetchWord s c ((s.get (.CTX_PROG_PROG c) + (getV s c h.d).toNat) % 2 ^ 32) = .ok l) ∧
    (∃ (s : State) (e : Fin 8) (c : Nat) (w : Word) (h : HWord) (a : Nat), atWord s e c 0x04 w = true ∧ h = fieldsOf w 0#32 ∧ noK h = true ∧ h.a = 0 ∧
      fetchWord s c ((s.get (.CTX_PROG_PROG c) + (getV s c h.d).toNat) % 2 ^ 32) = .bad a) ∧
    (∃ (s : State) (e : Fin 8) (c : Nat) (w : Word) (h : HWord), atWord s e c 0x04 w = true ∧ h = fieldsOf w 0#32 ∧ (noK h && h.a == 0) = false) ∧
    (∃ (s : State) (e : Fin 8) (c : Nat) (w : Word), atExt s e c 0x04 w = true) ∧
    (∃ (s : State) (e : Fin 8) (c : Nat) (w : Word) (h : HWord) (r : Word), atWord s e c 0x05 w = true ∧ h = fieldsOf w 0#32 ∧ h.a = 0 ∧ h.i = true ∧ r =
      getV s c h.d - 1) ∧
    (∃ (s : State) (e : Fin 8) (c : Nat) (w : Word) (h : HWord), atWord s e c 0x05 w = true ∧ h = fieldsOf w 0#32 ∧ (h.a == 0 && h.i) = false) ∧
    (∃ (s : State) (e : Fin 8) (c : Nat) (w : Word), atExt s e c 0x05 w = true) ∧
    (∃ (s : State) (e : Fin 8) (c : Nat) (w : Word) (h : HWord), atWord s e c 0x06 w = true ∧ h = fieldsOf w 0#32 ∧ bare h = true) ∧
    (∃ (s : State) (e : Fin 8) (c : Nat) (w : Word) (h : HWord), atWord s e c 0x06 w = true ∧ h = fieldsOf w 0#32 ∧ bare h = true) ∧
    (∃ (s : State) (e : Fin 8) (c : Nat) (w : Word) (h : HWord), atWord s e c 0x06 w = true ∧ h = fieldsOf w 0#32 ∧ bare h = true ∧ (s.ctx c).pend = none
      ∧ (enabledCtxs s).all (fun k => s.get (.CTX_TRIG_CMP_EN k) == 0) = true) ∧
    (∃ (s : State) (e : Fin 8) (c : Nat) (w : Word) (h : HWord), atWord s e c 0x06 w = true ∧ h = fieldsOf w 0#32 ∧ bare h = false) ∧
    (∃ (s : State) (e : Fin 8) (c : Nat) (w : Word), atExt s e c 0x06 w = true) ∧
    (∃ (s : State) (e : Fin 8) (c : Nat) (w : Word) (h : HWord), atWord s e c 0x07 w = true ∧ h = fieldsOf w 0#32 ∧ h.d = 0 ∧ h.a = 0 ∧ op2Ok h = true) ∧
    (∃ (s : State) (e : Fin 8) (c : Nat) (w : Word) (h : HWord), atWord s e c 0x07 w = true ∧ h = fieldsOf w 0#32 ∧ h.d = 0 ∧ h.a = 0 ∧ op2Ok h = true) ∧
    (∃ (s : State) (e : Fin 8) (c : Nat) (w : Word) (h : HWord), atWord s e c 0x07 w = true ∧ h = fieldsOf w 0#32 ∧ (h.d == 0 && h.a == 0 && op2Ok h) =
      false) ∧
    (∃ (s : State) (e : Fin 8) (c : Nat) (w : Word), atExt s e c 0x07 w = true) ∧
    (∃ (s : State) (e : Fin 8) (c : Nat) (w : Word), runningOn s e = some c ∧ sliceLeft s e false = true ∧ fetchWords s c (s.ctx c).pc 1 = .ok [w] ∧
      assignedOps.contains (opOf w) = false) ∧
    (∃ (s : State) (e : Fin 8) (c : Nat) (w : Word), runningOn s e = some c ∧ sliceLeft s e false = true ∧ fetchWords s c (s.ctx c).pc 1 = .ok [w] ∧
      assignedOps.contains (opOf w) = false) ∧
    (∃ (s : State) (e : Fin 8) (c : Nat) (a : Nat), runningOn s e = some c ∧ sliceLeft s e false = true ∧ fetchWords s c (s.ctx c).pc 1 = .bad a) ∧
    (∃ (s : State) (e : Fin 8) (c : Nat) (a : Nat), runningOn s e = some c ∧ sliceLeft s e false = true ∧ fetchWords s c (s.ctx c).pc 1 = .miss a) ∧
    (∃ (s : State) (e : Fin 8), runningOn s e = none) :=
  ⟨⟨hoS [iw 1 0 0 1 0 0xFFFD], 2, 3, iw 1 0 0 1 0 0xFFFD, fieldsOf (iw 1 0 0 1 0 0xFFFD) (0), by decide +kernel, rfl, by decide +kernel,
     by decide +kernel, by decide +kernel⟩,
   ⟨hoS [iw 0x01 1 0 1 0 4], 2, 3, iw 0x01 1 0 1 0 4, fieldsOf (iw 0x01 1 0 1 0 4) (0), by decide +kernel, rfl, by decide +kernel⟩,
   ⟨hoS [iw 0x01 0 0 1 1 0], 2, 3, iw 0x01 0 0 1 1 0, by decide +kernel⟩,
   ⟨hoS [iw 2 2 0 1 0 4], 2, 3, iw 2 2 0 1 0 4, fieldsOf (iw 2 2 0 1 0 4) (0), true, by decide +kernel, rfl, by decide +kernel, by decide +kernel,
     by decide +kernel⟩,
   ⟨hoS [iw 0x02 11 0 1 0 4], 2, 3, iw 0x02 11 0 1 0 4, fieldsOf (iw 0x02 11 0 1 0 4) (0), by decide +kernel, rfl, by decide +kernel⟩,
   ⟨hoS [iw 0x02 0 0 1 1 0], 2, 3, iw 0x02 0 0 1 1 0, by decide +kernel⟩,
   ⟨hoS [iw 3 0 0 1 0 4], 2, 3, iw 3 0 0 1 0 4, fieldsOf (iw 3 0 0 1 0 4) (0), by decide +kernel, rfl, by decide +kernel, by decide +kernel,
     by decide +kernel⟩,
   ⟨hoS [iw 0x03 0 0 0 0 4], 2, 3, iw 0x03 0 0 0 0 4, fieldsOf (iw 0x03 0 0 0 0 4) (0), by decide +kernel, rfl, by decide +kernel⟩,
   ⟨hoS [iw 0x03 0 0 1 1 0], 2, 3, iw 0x03 0 0 1 1 0, by decide +kernel⟩,
   ⟨hoS [iw 4 3 0 1 0 0], 2, 3, iw 4 3 0 1 0 0, fieldsOf (iw 4 3 0 1 0 0) (0), [0], by decide +kernel, rfl, by decide +kernel, by decide +kernel,
     by decide +kernel⟩,
   ⟨hoS [iw 4 1 0 1 0 0], 2, 3, iw 4 1 0 1 0 0, fieldsOf (iw 4 1 0 1 0 0) (0), 0x80080005, by decide +kernel, rfl, by decide +kernel, by decide +kernel,
     by decide +kernel⟩,
   ⟨hoS [iw 0x04 3 0 1 0 4], 2, 3, iw 0x04 3 0 1 0 4, fieldsOf (iw 0x04 3 0 1 0 4) (0), by decide +kernel, rfl, by decide +kernel⟩,
   ⟨hoS [iw 0x04 0 0 1 1 0], 2, 3, iw 0x04 0 0 1 1 0, by decide +kernel⟩,
   ⟨hoS [iw 5 2 0 1 0 0xFFFC], 2, 3, iw 5 2 0 1 0 0xFFFC, fieldsOf (iw 5 2 0 1 0 0xFFFC) (0), 2, by decide +kernel, rfl, by decide +kernel,
     by decide +kernel, by decide +kernel⟩,
   ⟨hoS [iw 0x05 2 1 1 0 4], 2, 3, iw 0x05 2 1 1 0 4, fieldsOf (iw 0x05 2 1 1 0 4) (0), by decide +kernel, rfl, by decide +kernel⟩,
   ⟨hoS [iw 0x05 0 0 1 1 0], 2, 3, iw 0x05 0 0 1 1 0, by decide +kernel⟩,
   ⟨hoS [iw 6 0 0 1 0 0], 2, 3, iw 6 0 0 1 0 0, fieldsOf (iw 6 0 0 1 0 0) (0), by decide +kernel, rfl, by decide +kernel⟩,
   ⟨hoS [iw 6 0 0 1 0 0], 2, 3, iw 6 0 0 1 0 0, fieldsOf (iw 6 0 0 1 0 0) (0), by decide +kernel, rfl, by decide +kernel⟩,
   ⟨hoS [iw 6 0 0 1 0 0], 2, 3, iw 6 0 0 1 0 0, fieldsOf (iw 6 0 0 1 0 0) (0), by decide +kernel, rfl, by decide +kernel, by decide +kernel,
     by decide +kernel⟩,
   ⟨hoS [iw 0x06 1 0 1 0 0], 2, 3, iw 0x06 1 0 1 0 0, fieldsOf (iw 0x06 1 0 1 0 0) (0), by decide +kernel, rfl, by decide +kernel⟩,
   ⟨hoS [iw 0x06 0 0 1 1 0], 2, 3, iw 0x06 0 0 1 1 0, by decide +kernel⟩,
   ⟨hoS [iw 7 0 0 1 0 0x8001], 2, 3, iw 7 0 0 1 0 0x8001, fieldsOf (iw 7 0 0 1 0 0x8001) (0), by decide +kernel, rfl, by decide +kernel,
     by decide +kernel, by decide +kernel⟩,
   ⟨hoS [iw 7 0 0 1 0 0x8001], 2, 3, iw 7 0 0 1 0 0x8001, fieldsOf (iw 7 0 0 1 0 0x8001) (0), by decide +kernel, rfl, by decide +kernel,
     by decide +kernel, by decide +kernel⟩,
   ⟨hoS [iw 0x07 0 1 1 0 0], 2, 3, iw 0x07 0 1 1 0 0, fieldsOf (iw 0x07 0 1 1 0 0) (0), by decide +kernel, rfl, by decide +kernel⟩,
   ⟨hoS [iw 0x07 0 0 1 1 0], 2, 3, iw 0x07 0 0 1 1 0, by decide +kernel⟩,
   ⟨hoS [0], 2, 3, 0, by decide +kernel, by decide +kernel, by decide +kernel, by decide +kernel⟩,
   ⟨hoS [0], 2, 3, 0, by decide +kernel, by decide +kernel, by decide +kernel, by decide +kernel⟩,
   ⟨(hoS [0]).modCtx 3 (fun x => { x with pc := 0x20000000 }), 2, 3, 0x20000000, by decide +kernel, by decide +kernel, by decide +kernel⟩,
   ⟨(((hoS [0]).modBt (fun b => { b with blobs := [(0, 4096)] })).put (.CTX_PROG_PROG 3) 0x10000000).modCtx 3 (fun x => { x with pc := 0x10000040 }), 2,
     3, 0x10000040, by decide +kernel, by decide +kernel, by decide +kernel⟩,
   ⟨runS, 2, by decide +kernel⟩⟩

theorem witness_TimeInstructions :
    (∃ (s : State) (e : Fin 8) (c : Nat) (w : Word) (h : HWord), atWord s e c 0x08 w = true ∧ h = fieldsOf w 0#32 ∧ h.d = 0 ∧ op2Ok h = true ∧ h.a < 3 ∧
      op2z s c h ≠ 0) ∧
    (∃ (s : State) (e : Fin 8) (c : Nat) (w : Word) (h : HWord), atWord s e c 0x08 w = true ∧ h = fieldsOf w 0#32 ∧ h.d = 0 ∧ op2Ok h = true ∧ h.a < 3 ∧
      op2z s c h = 0) ∧
    (∃ (s : State) (e : Fin 8) (c : Nat) (w : Word) (h : HWord), atWord s e c 0x08 w = true ∧ h = fieldsOf w 0#32 ∧ h.d = 0 ∧ op2Ok h = true ∧ 4 ≤ h.a ∧
      h.a ≤ 6 ∧ timerRuns s c (h.a - 4) = true) ∧
    (∃ (s : State) (e : Fin 8) (c : Nat) (w : Word) (h : HWord), atWord s e c 0x08 w = true ∧ h = fieldsOf w 0#32 ∧ h.d = 0 ∧ op2Ok h = true ∧ 4 ≤ h.a ∧
      h.a ≤ 6 ∧ timerRuns s c (h.a - 4) = false) ∧
    (∃ (s : State) (e : Fin 8) (c : Nat) (w : Word) (h : HWord), atWord s e c 0x08 w = true ∧ h = fieldsOf w 0#32 ∧ (h.d == 0 && op2Ok h && decide (h.a ≤
      6) && h.a != 3) = false) ∧
    (∃ (s : State) (e : Fin 8) (c : Nat) (w : Word), atExt s e c 0x08 w = true) ∧
    (∃ (s : State) (e : Fin 8) (c : Nat) (w : Word) (h : HWord) (p : Nat), atWord s e c 0x09 w = true ∧ h = fieldsOf w 0#32 ∧ h.d = 0 ∧ op2Ok h = true ∧ 1
      ≤ h.a ∧ h.a ≤ 2 ∧ op2z s c h ≠ 0 ∧ p = unitTicks h.a (op2z s c h).toNat) ∧
    (∃ (s : State) (e : Fin 8) (c : Nat) (w : Word) (h : HWord), atWord s e c 0x09 w = true ∧ h = fieldsOf w 0#32 ∧ (h.d == 0 && op2Ok h && (h.a == 1 ||
      h.a == 2) && op2z s c h != 0) = false) ∧
    (∃ (s : State) (e : Fin 8) (c : Nat) (w : Word), atExt s e c 0x09 w = true) ∧
    (∃ (s : State) (e : Fin 8) (c : Nat) (w : Word) (h : HWord), atWord s e c 0x0A w = true ∧ h = fieldsOf w 0#32 ∧ h.d ≤ 2 ∧ h.a ≤ 2 ∧ op2Ok h = true) ∧
    (∃ (s : State) (e : Fin 8) (c : Nat) (w : Word) (h : HWord), atWord s e c 0x0A w = true ∧ h = fieldsOf w 0#32 ∧ (decide (h.d ≤ 2) && decide (h.a ≤ 2)
      && op2Ok h) = false) ∧
    (∃ (s : State) (e : Fin 8) (c : Nat) (w : Word), atExt s e c 0x0A w = true) ∧
    (∃ (s : State) (e : Fin 8) (c : Nat) (w : Word) (h : HWord), atWord s e c 0x0B w = true ∧ h = fieldsOf w 0#32 ∧ noK h = true ∧ h.a ≤ 1) ∧
    (∃ (s : State) (e : Fin 8) (c : Nat) (w : Word) (h : HWord), atWord s e c 0x0B w = true ∧ h = fieldsOf w 0#32 ∧ noK h = true ∧ h.a = 2 ∧ h.d ≤ 14) ∧
    (∃ (s : State) (e : Fin 8) (c : Nat) (w : Word) (h : HWord), atWord s e c 0x0B w = true ∧ h = fieldsOf w 0#32 ∧ (noK h && decide (h.a ≤ 2) && (h.a !=
      2 || decide (h.d ≤ 14))) = false) ∧
    (∃ (s : State) (e : Fin 8) (c : Nat) (w : Word), atExt s e c 0x0B w = true) :=
  ⟨⟨hoS [iw 8 0 1 1 0 7], 2, 3, iw 8 0 1 1 0 7, fieldsOf (iw 8 0 1 1 0 7) (0), by decide +kernel, rfl, by decide +kernel, by decide +kernel,
     by decide +kernel, by decide +kernel⟩,
   ⟨hoS [iw 8 0 1 1 0 0], 2, 3, iw 8 0 1 1 0 0, fieldsOf (iw 8 0 1 1 0 0) (0), by decide +kernel, rfl, by decide +kernel, by decide +kernel,
     by decide +kernel, by decide +kernel⟩,
   ⟨(fun s => setTimer 3 2 (some (now s + 5)) s) (hoS [iw 8 0 6 1 0 0]), 2, 3, iw 8 0 6 1 0 0, fieldsOf (iw 8 0 6 1 0 0) (0), by decide +kernel, rfl,
     by decide +kernel, by decide +kernel, by decide +kernel, by decide +kernel, by decide +kernel⟩,
   ⟨hoS [iw 8 0 6 1 0 0], 2, 3, iw 8 0 6 1 0 0, fieldsOf (iw 8 0 6 1 0 0) (0), by decide +kernel, rfl, by decide +kernel, by decide +kernel,
     by decide +kernel, by decide +kernel, by decide +kernel⟩,
   ⟨hoS [iw 0x08 0 3 1 0 5], 2, 3, iw 0x08 0 3 1 0 5, fieldsOf (iw 0x08 0 3 1 0 5) (0), by decide +kernel, rfl, by decide +kernel⟩,
   ⟨hoS [iw 0x08 0 0 1 1 0], 2, 3, iw 0x08 0 0 1 1 0, by decide +kernel⟩,
   ⟨hoS [iw 9 0 1 1 0 10], 2, 3, iw 9 0 1 1 0 10, fieldsOf (iw 9 0 1 1 0 10) (0), 491520, by decide +kernel, rfl, by decide +kernel, by decide +kernel,
     by decide +kernel, by decide +kernel, by decide +kernel, by decide +kernel⟩,
   ⟨hoS [iw 0x09 0 1 1 0 0], 2, 3, iw 0x09 0 1 1 0 0, fieldsOf (iw 0x09 0 1 1 0 0) (0), by decide +kernel, rfl, by decide +kernel⟩,
   ⟨hoS [iw 0x09 0 0 1 1 0], 2, 3, iw 0x09 0 0 1 1 0, by decide +kernel⟩,
   ⟨hoS [iw 10 1 2 1 0 10], 2, 3, iw 10 1 2 1 0 10, fieldsOf (iw 10 1 2 1 0 10) (0), by decide +kernel, rfl, by decide +kernel, by decide +kernel,
     by decide +kernel⟩,
   ⟨hoS [iw 0x0A 3 1 1 0 0], 2, 3, iw 0x0A 3 1 1 0 0, fieldsOf (iw 0x0A 3 1 1 0 0) (0), by decide +kernel, rfl, by decide +kernel⟩,
   ⟨hoS [iw 0x0A 0 0 1 1 0], 2, 3, iw 0x0A 0 0 1 1 0, by decide +kernel⟩,
   ⟨hoS [iw 11 5 1 1 0 0], 2, 3, iw 11 5 1 1 0 0, fieldsOf (iw 11 5 1 1 0 0) (0), by decide +kernel, rfl, by decide +kernel, by decide +kernel⟩,
   ⟨hoS [iw 11 14 2 1 0 0], 2, 3, iw 11 14 2 1 0 0, fieldsOf (iw 11 14 2 1 0 0) (0), by decide +kernel, rfl, by decide +kernel, by decide +kernel,
     by decide +kernel⟩,
   ⟨hoS [iw 0x0B 15 2 1 0 0], 2, 3, iw 0x0B 15 2 1 0 0, fieldsOf (iw 0x0B 15 2 1 0 0) (0), by decide +kernel, rfl, by decide +kernel⟩,
   ⟨hoS [iw 0x0B 0 0 1 1 0], 2, 3, iw 0x0B 0 0 1 1 0, by decide +kernel⟩⟩

theorem witness_DataInstructions :
    (∃ (s : State) (e : Fin 8) (c : Nat) (w : Word) (h : HWord) (r : Word), atWord s e c 0x18 w = true ∧ h = fieldsOf w 0#32 ∧ h.a = 0 ∧ op2Ok h = true ∧
      r = op2s s c h) ∧
    (∃ (s : State) (e : Fin 8) (c : Nat) (w : Word) (x : Word) (h : HWord), atWords s e c 0x18 w x = true ∧ h = fieldsOf w x ∧ h.a = 0 ∧ noK h = true) ∧
    (∃ (s : State) (e : Fin 8) (c : Nat) (w : Word) (h : HWord), atWord s e c 0x18 w = true ∧ h = fieldsOf w 0#32 ∧ (h.a == 0 && op2Ok h) = false) ∧
    (∃ (s : State) (e : Fin 8) (c : Nat) (w : Word) (x : Word) (h : HWord), atWords s e c 0x18 w x = true ∧ h = fieldsOf w x ∧ (h.a == 0 && noK h) =
      false) ∧
    (∃ (s : State) (e : Fin 8) (c : Nat) (w : Word) (h : HWord) (r : Word), atWord s e c 0x19 w = true ∧ h = fieldsOf w 0#32 ∧ h.a = 0 ∧ op2Ok h = true ∧
      r = op2z s c h) ∧
    (∃ (s : State) (e : Fin 8) (c : Nat) (w : Word) (h : HWord), atWord s e c 0x19 w = true ∧ h = fieldsOf w 0#32 ∧ (h.a == 0 && op2Ok h) = false) ∧
    (∃ (s : State) (e : Fin 8) (c : Nat) (w : Word), atExt s e c 0x19 w = true) ∧
    (∃ (s : State) (e : Fin 8) (c : Nat) (w : Word) (h : HWord) (u : Word) (v : Word), atWord s e c 0x1A w = true ∧ h = fieldsOf w 0#32 ∧ op2Ok h = true ∧
      u = getV s c h.a ∧ v = op2s s c h) ∧
    (∃ (s : State) (e : Fin 8) (c : Nat) (w : Word) (h : HWord), atWord s e c 0x1A w = true ∧ h = fieldsOf w 0#32 ∧ op2Ok h = false) ∧
    (∃ (s : State) (e : Fin 8) (c : Nat) (w : Word), atExt s e c 0x1A w = true) ∧
    (∃ (s : State) (e : Fin 8) (c : Nat) (w : Word) (h : HWord) (u : Word) (v : Word), atWord s e c 0x1B w = true ∧ h = fieldsOf w 0#32 ∧ op2Ok h = true ∧
      u = getV s c h.a ∧ v = op2s s c h) ∧
    (∃ (s : State) (e : Fin 8) (c : Nat) (w : Word) (h : HWord), atWord s e c 0x1B w = true ∧ h = fieldsOf w 0#32 ∧ op2Ok h = false) ∧
    (∃ (s : State) (e : Fin 8) (c : Nat) (w : Word), atExt s e c 0x1B w = true) ∧
    (∃ (s : State) (e : Fin 8) (c : Nat) (w : Word) (h : HWord) (r : Word), atWord s e c 0x1C w = true ∧ h = fieldsOf w 0#32 ∧ op2Ok h = true ∧ r = getV s
      c h.a &&& op2z s c h) ∧
    (∃ (s : State) (e : Fin 8) (c : Nat) (w : Word) (h : HWord), atWord s e c 0x1C w = true ∧ h = fieldsOf w 0#32 ∧ op2Ok h = false) ∧
    (∃ (s : State) (e : Fin 8) (c : Nat) (w : Word), atExt s e c 0x1C w = true) ∧
    (∃ (s : State) (e : Fin 8) (c : Nat) (w : Word) (h : HWord) (r : Word), atWord s e c 0x1D w = true ∧ h = fieldsOf w 0#32 ∧ op2Ok h = true ∧ r = getV s
      c h.a ||| op2z s c h) ∧
    (∃ (s : State) (e : Fin 8) (c : Nat) (w : Word) (h : HWord), atWord s e c 0x1D w = true ∧ h = fieldsOf w 0#32 ∧ op2Ok h = false) ∧
    (∃ (s : State) (e : Fin 8) (c : Nat) (w : Word), atExt s e c 0x1D w = true) ∧
    (∃ (s : State) (e : Fin 8) (c : Nat) (w : Word) (h : HWord) (r : Word), atWord s e c 0x1E w = true ∧ h = fieldsOf w 0#32 ∧ op2Ok h = true ∧ r = getV s
      c h.a ^^^ op2z s c h) ∧
    (∃ (s : State) (e : Fin 8) (c : Nat) (w : Word) (h : HWord), atWord s e c 0x1E w = true ∧ h = fieldsOf w 0#32 ∧ op2Ok h = false) ∧
    (∃ (s : State) (e : Fin 8) (c : Nat) (w : Word), atExt s e c 0x1E w = true) ∧
    (∃ (s : State) (e : Fin 8) (c : Nat) (w : Word) (h : HWord) (r : Word), atWord s e c 0x1F w = true ∧ h = fieldsOf w 0#32 ∧ op2Ok h = true ∧ r = getV s
      c h.a <<< ((op2z s c h).toNat % 32)) ∧
    (∃ (s : State) (e : Fin 8) (c : Nat) (w : Word) (h : HWord), atWord s e c 0x1F w = true ∧ h = fieldsOf w 0#32 ∧ op2Ok h = false) ∧
    (∃ (s : State) (e : Fin 8) (c : Nat) (w : Word), atExt s e c 0x1F w = true) ∧
    (∃ (s : State) (e : Fin 8) (c : Nat) (w : Word) (h : HWord) (r : Word), atWord s e c 0x20 w = true ∧ h = fieldsOf w 0#32 ∧ op2Ok h = true ∧ r = getV s
      c h.a >>> ((op2z s c h).toNat % 32)) ∧
    (∃ (s : State) (e : Fin 8) (c : Nat) (w : Word) (h : HWord), atWord s e c 0x20 w = true ∧ h = fieldsOf w 0#32 ∧ op2Ok h = false) ∧
    (∃ (s : State) (e : Fin 8) (c : Nat) (w : Word), atExt s e c 0x20 w = true) ∧
    (∃ (s : State) (e : Fin 8) (c : Nat) (w : Word) (h : HWord) (r : Word), atWord s e c 0x21 w = true ∧ h = fieldsOf w 0#32 ∧ op2Ok h = true ∧ r = (getV
      s c h.a).sshiftRight ((op2z s c h).toNat % 32)) ∧
    (∃ (s : State) (e : Fin 8) (c : Nat) (w : Word) (h : HWord), atWord s e c 0x21 w = true ∧ h = fieldsOf w 0#32 ∧ op2Ok h = false) ∧
    (∃ (s : State) (e : Fin 8) (c : Nat) (w : Word), atExt s e c 0x21 w = true) ∧
    (∃ (s : State) (e : Fin 8) (c : Nat) (w : Word) (h : HWord) (u : Word) (v : Word), atWord s e c 0x22 w = true ∧ h = fieldsOf w 0#32 ∧ h.d = 0 ∧ op2Ok
      h = true ∧ u = getV s c h.a ∧ v = op2s s c h) ∧
    (∃ (s : State) (e : Fin 8) (c : Nat) (w : Word) (h : HWord), atWord s e c 0x22 w = true ∧ h = fieldsOf w 0#32 ∧ (h.d == 0 && op2Ok h) = false) ∧
    (∃ (s : State) (e : Fin 8) (c : Nat) (w : Word), atExt s e c 0x22 w = true) ∧
    (∃ (s : State) (e : Fin 8) (c : Nat) (w : Word) (h : HWord) (n : Nat) (l : List Byte) (r : Word), atWord s e c 0x23 w = true ∧ h = fieldsOf w 0#32 ∧
      op2Ok h = true ∧ n = h.a / 4 + 1 ∧ l = (List.range n).map (fun i => (if h.a % 2 = 1 then varBytes s c else curBytes s c).getD ((op2z s c h).toNat + i)
      0) ∧ r = wd (if h.a / 2 % 2 = 1 then beNat l else leNat l)) ∧
    (∃ (s : State) (e : Fin 8) (c : Nat) (w : Word) (h : HWord), atWord s e c 0x23 w = true ∧ h = fieldsOf w 0#32 ∧ op2Ok h = false) ∧
    (∃ (s : State) (e : Fin 8) (c : Nat) (w : Word), atExt s e c 0x23 w = true) ∧
    (∃ (s : State) (e : Fin 8) (c : Nat) (w : Word) (h : HWord) (n : Nat) (l : List Byte), atWord s e c 0x24 w = true ∧ h = fieldsOf w 0#32 ∧ op2Ok h =
      true ∧ h.a % 2 = 0 ∧ n = h.a / 4 + 1 ∧ (op2z s c h).toNat + n ≤ 64 ∧ l = leBytes n ((getV s c h.d).toNat % 2 ^ (8 * n))) ∧
    (∃ (s : State) (e : Fin 8) (c : Nat) (w : Word) (h : HWord), atWord s e c 0x24 w = true ∧ h = fieldsOf w 0#32 ∧ (op2Ok h && h.a % 2 == 0 && decide
      ((op2z s c h).toNat + (h.a / 4 + 1) ≤ 64)) = false) ∧
    (∃ (s : State) (e : Fin 8) (c : Nat) (w : Word), atExt s e c 0x24 w = true) ∧
    (∃ (s : State) (e : Fin 8) (c : Nat) (w : Word) (h : HWord) (l : Nat) (n : Nat) (f : Nat) (r : Word), atWord s e c 0x25 w = true ∧ h = fieldsOf w 0#32
      ∧ h.i = true ∧ h.k < 2 ^ 11 ∧ l = h.k % 32 ∧ n = h.k / 32 % 32 + 1 ∧ l + n ≤ 32 ∧ f = bits (getV s c h.a) (l + n - 1) l ∧ r = (if 2 ^ 10 ≤ h.k then wd
      (toU 32 (sext n f)) else wd f)) ∧
    (∃ (s : State) (e : Fin 8) (c : Nat) (w : Word) (h : HWord), atWord s e c 0x25 w = true ∧ h = fieldsOf w 0#32 ∧ (h.i && h.k / 2 ^ 11 == 0 && decide
      (h.k % 32 + (h.k / 32 % 32 + 1) ≤ 32)) = false) ∧
    (∃ (s : State) (e : Fin 8) (c : Nat) (w : Word), atExt s e c 0x25 w = true) :=
  ⟨⟨hoS [iw 0x18 5 0 1 0 0x8000], 2, 3, iw 0x18 5 0 1 0 0x8000, fieldsOf (iw 0x18 5 0 1 0 0x8000) (0), 0xFFFF8000, by decide +kernel, rfl,
     by decide +kernel, by decide +kernel, by decide +kernel⟩,
   ⟨hoS [iw 0x18 5 0 1 1 0, 0xDEADBEEF], 2, 3, iw 0x18 5 0 1 1 0, 0xDEADBEEF, fieldsOf (iw 0x18 5 0 1 1 0) (0xDEADBEEF), by decide +kernel, rfl,
     by decide +kernel, by decide +kernel⟩,
   ⟨hoS [iw 0x18 5 1 1 0 0], 2, 3, iw 0x18 5 1 1 0 0, fieldsOf (iw 0x18 5 1 1 0 0) (0), by decide +kernel, rfl, by decide +kernel⟩,
   ⟨hoS [iw 0x18 5 0 1 1 4, 5], 2, 3, iw 0x18 5 0 1 1 4, 5, fieldsOf (iw 0x18 5 0 1 1 4) (5), by decide +kernel, rfl, by decide +kernel⟩,
   ⟨hoS [iw 0x19 5 0 0 0 1], 2, 3, iw 0x19 5 0 0 0 1, fieldsOf (iw 0x19 5 0 0 0 1) (0), 0x80000005, by decide +kernel, rfl, by decide +kernel,
     by decide +kernel, by decide +kernel⟩,
   ⟨hoS [iw 0x19 5 0 0 0 16], 2, 3, iw 0x19 5 0 0 0 16, fieldsOf (iw 0x19 5 0 0 0 16) (0), by decide +kernel, rfl, by decide +kernel⟩,
   ⟨hoS [iw 0x19 0 0 1 1 0], 2, 3, iw 0x19 0 0 1 1 0, by decide +kernel⟩,
   ⟨hoS [iw 0x1A 5 1 0 0 4], 2, 3, iw 0x1A 5 1 0 0 4, fieldsOf (iw 0x1A 5 1 0 0 4) (0), 0x80000005, 0xFFFFFFFF, by decide +kernel, rfl,
     by decide +kernel, by decide +kernel, by decide +kernel⟩,
   ⟨hoS [iw 0x1A 5 1 0 0 16], 2, 3, iw 0x1A 5 1 0 0 16, fieldsOf (iw 0x1A 5 1 0 0 16) (0), by decide +kernel, rfl, by decide +kernel⟩,
   ⟨hoS [iw 0x1A 0 0 1 1 0], 2, 3, iw 0x1A 0 0 1 1 0, by decide +kernel⟩,
   ⟨hoS [iw 0x1B 5 1 0 0 4], 2, 3, iw 0x1B 5 1 0 0 4, fieldsOf (iw 0x1B 5 1 0 0 4) (0), 0x80000005, 0xFFFFFFFF, by decide +kernel, rfl,
     by decide +kernel, by decide +kernel, by decide +kernel⟩,
   ⟨hoS [iw 0x1B 5 1 0 0 16], 2, 3, iw 0x1B 5 1 0 0 16, fieldsOf (iw 0x1B 5 1 0 0 16) (0), by decide +kernel, rfl, by decide +kernel⟩,
   ⟨hoS [iw 0x1B 0 0 1 1 0], 2, 3, iw 0x1B 0 0 1 1 0, by decide +kernel⟩,
   ⟨hoS [iw 0x1C 5 1 1 0 0x8004], 2, 3, iw 0x1C 5 1 1 0 0x8004, fieldsOf (iw 0x1C 5 1 1 0 0x8004) (0), 4, by decide +kernel, rfl, by decide +kernel,
     by decide +kernel⟩,
   ⟨hoS [iw 0x1C 5 1 0 0 16], 2, 3, iw 0x1C 5 1 0 0 16, fieldsOf (iw 0x1C 5 1 0 0 16) (0), by decide +kernel, rfl, by decide +kernel⟩,
   ⟨hoS [iw 0x1C 0 0 1 1 0], 2, 3, iw 0x1C 0 0 1 1 0, by decide +kernel⟩,
   ⟨hoS [iw 0x1D 5 1 1 0 0x8004], 2, 3, iw 0x1D 5 1 1 0 0x8004, fieldsOf (iw 0x1D 5 1 1 0 0x8004) (0), 0x80008005, by decide +kernel, rfl,
     by decide +kernel, by decide +kernel⟩,
   ⟨hoS [iw 0x1D 5 1 0 0 16], 2, 3, iw 0x1D 5 1 0 0 16, fieldsOf (iw 0x1D 5 1 0 0 16) (0), by decide +kernel, rfl, by decide +kernel⟩,
   ⟨hoS [iw 0x1D 0 0 1 1 0], 2, 3, iw 0x1D 0 0 1 1 0, by decide +kernel⟩,
   ⟨hoS [iw 0x1E 5 1 0 0 1], 2, 3, iw 0x1E 5 1 0 0 1, fieldsOf (iw 0x1E 5 1 0 0 1) (0), 0, by decide +kernel, rfl, by decide +kernel, by decide +kernel⟩,
   ⟨hoS [iw 0x1E 5 1 0 0 16], 2, 3, iw 0x1E 5 1 0 0 16, fieldsOf (iw 0x1E 5 1 0 0 16) (0), by decide +kernel, rfl, by decide +kernel⟩,
   ⟨hoS [iw 0x1E 0 0 1 1 0], 2, 3, iw 0x1E 0 0 1 1 0, by decide +kernel⟩,
   ⟨hoS [iw 0x1F 5 1 1 0 35], 2, 3, iw 0x1F 5 1 1 0 35, fieldsOf (iw 0x1F 5 1 1 0 35) (0), 40, by decide +kernel, rfl, by decide +kernel,
     by decide +kernel⟩,
   ⟨hoS [iw 0x1F 5 1 0 0 16], 2, 3, iw 0x1F 5 1 0 0 16, fieldsOf (iw 0x1F 5 1 0 0 16) (0), by decide +kernel, rfl, by decide +kernel⟩,
   ⟨hoS [iw 0x1F 0 0 1 1 0], 2, 3, iw 0x1F 0 0 1 1 0, by decide +kernel⟩,
   ⟨hoS [iw 0x20 5 1 1 0 31], 2, 3, iw 0x20 5 1 1 0 31, fieldsOf (iw 0x20 5 1 1 0 31) (0), 1, by decide +kernel, rfl, by decide +kernel,
     by decide +kernel⟩,
   ⟨hoS [iw 0x20 5 1 0 0 16], 2, 3, iw 0x20 5 1 0 0 16, fieldsOf (iw 0x20 5 1 0 0 16) (0), by decide +kernel, rfl, by decide +kernel⟩,
   ⟨hoS [iw 0x20 0 0 1 1 0], 2, 3, iw 0x20 0 0 1 1 0, by decide +kernel⟩,
   ⟨hoS [iw 0x21 5 1 1 0 31], 2, 3, iw 0x21 5 1 1 0 31, fieldsOf (iw 0x21 5 1 1 0 31) (0), 0xFFFFFFFF, by decide +kernel, rfl, by decide +kernel,
     by decide +kernel⟩,
   ⟨hoS [iw 0x21 5 1 0 0 16], 2, 3, iw 0x21 5 1 0 0 16, fieldsOf (iw 0x21 5 1 0 0 16) (0), by decide +kernel, rfl, by decide +kernel⟩,
   ⟨hoS [iw 0x21 0 0 1 1 0], 2, 3, iw 0x21 0 0 1 1 0, by decide +kernel⟩,
   ⟨hoS [iw 0x22 0 2 1 0 3], 2, 3, iw 0x22 0 2 1 0 3, fieldsOf (iw 0x22 0 2 1 0 3) (0), 3, 3, by decide +kernel, rfl, by decide +kernel,
     by decide +kernel, by decide +kernel, by decide +kernel⟩,
   ⟨hoS [iw 0x22 5 1 0 0 1], 2, 3, iw 0x22 5 1 0 0 1, fieldsOf (iw 0x22 5 1 0 0 1) (0), by decide +kernel, rfl, by decide +kernel⟩,
   ⟨hoS [iw 0x22 0 0 1 1 0], 2, 3, iw 0x22 0 0 1 1 0, by decide +kernel⟩,
   ⟨hoS [iw 0x23 5 7 1 0 63], 2, 3, iw 0x23 5 7 1 0 63, fieldsOf (iw 0x23 5 7 1 0 63) (0), 2, [0, 0], 0, by decide +kernel, rfl, by decide +kernel,
     by decide +kernel, by decide +kernel, by decide +kernel⟩,
   ⟨hoS [iw 0x23 5 1 0 0 16], 2, 3, iw 0x23 5 1 0 0 16, fieldsOf (iw 0x23 5 1 0 0 16) (0), by decide +kernel, rfl, by decide +kernel⟩,
   ⟨hoS [iw 0x23 0 0 1 1 0], 2, 3, iw 0x23 0 0 1 1 0, by decide +kernel⟩,
   ⟨hoS [iw 0x24 1 6 1 0 62], 2, 3, iw 0x24 1 6 1 0 62, fieldsOf (iw 0x24 1 6 1 0 62) (0), 2, [5, 0], by decide +kernel, rfl, by decide +kernel,
     by decide +kernel, by decide +kernel, by decide +kernel, by decide +kernel⟩,
   ⟨hoS [iw 0x24 1 6 1 0 63], 2, 3, iw 0x24 1 6 1 0 63, fieldsOf (iw 0x24 1 6 1 0 63) (0), by decide +kernel, rfl, by decide +kernel⟩,
   ⟨hoS [iw 0x24 0 0 1 1 0], 2, 3, iw 0x24 0 0 1 1 0, by decide +kernel⟩,
   ⟨hoS [iw 0x25 5 1 1 0 1148], 2, 3, iw 0x25 5 1 1 0 1148, fieldsOf (iw 0x25 5 1 1 0 1148) (0), 28, 4, 8, 0xFFFFFFF8, by decide +kernel, rfl,
     by decide +kernel, by decide +kernel, by decide +kernel, by decide +kernel, by decide +kernel, by decide +kernel, by decide +kernel⟩,
   ⟨hoS [iw 0x25 5 1 1 0 63], 2, 3, iw 0x25 5 1 1 0 63, fieldsOf (iw 0x25 5 1 1 0 63) (0), by decide +kernel, rfl, by decide +kernel⟩,
   ⟨hoS [iw 0x25 0 0 1 1 0], 2, 3, iw 0x25 0 0 1 1 0, by decide +kernel⟩⟩

theorem witness_MessageInstructions_1 :
    (∃ (s : State) (e : Fin 8) (c : Nat) (w : Word) (x : Word) (h : HWord) (b : State) (a : Nat) (l : List Word) (d : List Word) (p : Nat) (m : Msg),
      atWords s e c 0x10 w x = true ∧ h = fieldsOf w x ∧ b = (begunX e c 0x10 s) ∧ h.a = 0 ∧ h.i = true ∧ h.k / 256 = 0 ∧ refOf s c h.e = some a ∧
      fetchWords b c a 4 = .ok l ∧ headOk l = true ∧ fetchWords (touchLines a 4 b) c ((a + 16) % 2 ^ 32) ((bits (dw l 1) 31 20 + 3) / 4) = .ok d ∧ p = s.get
      (.CTX_PARTNER_PORT c) ∧ m = msgOf s c l (wordsBytes d) ∧ onCan s c = true ∧ msgOk s c m = true ∧ seqPast s c (h.d % 2 == 1) m.len = false ∧ txLevel s
      p < 32) ∧
    (∃ (s : State) (e : Fin 8) (c : Nat) (w : Word) (x : Word) (h : HWord) (b : State) (a : Nat) (l : List Word) (d : List Word) (p : Nat) (m : Msg),
      atWords s e c 0x10 w x = true ∧ h = fieldsOf w x ∧ b = (begunX e c 0x10 s) ∧ h.a = 0 ∧ h.i = true ∧ h.k / 256 = 0 ∧ refOf s c h.e = some a ∧
      fetchWords b c a 4 = .ok l ∧ headOk l = true ∧ fetchWords (touchLines a 4 b) c ((a + 16) % 2 ^ 32) ((bits (dw l 1) 31 20 + 3) / 4) = .ok d ∧ p = s.get
      (.CTX_PARTNER_PORT c) ∧ m = msgOf s c l (wordsBytes d) ∧ onCan s c = true ∧ msgOk s c m = true ∧ seqPast s c (h.d % 2 == 1) m.len = false ∧ 32 ≤
      txLevel s p) ∧
    (∃ (s : State) (e : Fin 8) (c : Nat) (w : Word) (x : Word) (h : HWord) (b : State) (a : Nat) (l : List Word) (d : List Word) (m : Msg), atWords s e c
      0x10 w x = true ∧ h = fieldsOf w x ∧ b = (begunX e c 0x10 s) ∧ h.a = 0 ∧ h.i = true ∧ h.k / 256 = 0 ∧ refOf s c h.e = some a ∧ fetchWords b c a 4 =
      .ok l ∧ headOk l = true ∧ fetchWords (touchLines a 4 b) c ((a + 16) % 2 ^ 32) ((bits (dw l 1) 31 20 + 3) / 4) = .ok d ∧ m = msgOf s c l (wordsBytes d)
      ∧ onCan s c = true ∧ (msgOk s c m = false ∨ seqPast s c (h.d % 2 == 1) m.len = true)) :=
  ⟨⟨(fun s => (s.put (.CTX_PARTNER_KIND 3) 1).put (.CTX_PARTNER_PORT 3) 1) (hoS [iw 0x10 2 0 1 1 5, 0x18, 0x123, 0x00200000, 0, 0, 0x1122]), 2, 3, iw
     0x10 2 0 1 1 5, 0x18, fieldsOf (iw 0x10 2 0 1 1 5) (0x18), (begunX 2 3 0x10 ((fun s => (s.put (.CTX_PARTNER_KIND 3) 1).put (.CTX_PARTNER_PORT 3) 1)
     (hoS [iw 0x10 2 0 1 1 5, 0x18, 0x123, 0x00200000, 0, 0, 0x1122]))), 0x80018, [0x123, 0x00200000, 0, 0], [0x1122], 1, msgOf ((fun s => (s.put
     (.CTX_PARTNER_KIND 3) 1).put (.CTX_PARTNER_PORT 3) 1) (hoS [iw 0x10 2 0 1 1 5, 0x18, 0x123, 0x00200000, 0, 0, 0x1122])) 3 [0x123, 0x00200000, 0, 0]
     (wordsBytes [0x1122]), by decide +kernel, rfl, rfl, by decide +kernel, by decide +kernel, by decide +kernel, by decide +kernel, by decide +kernel,
     by decide +kernel, by decide +kernel, by decide +kernel, by decide +kernel, by decide +kernel, by decide +kernel, by decide +kernel,
     by decide +kernel⟩,
   ⟨(fun s => ((s.put (.CTX_PARTNER_KIND 3) 1).put (.CTX_PARTNER_PORT 3) 1).setCan 1
     { mode := 1, txq := (List.range 32).map (fun i => { id := i, src := .s0, frame := {} }) }) (hoS [iw 0x10 0 0 1 1 5, 0x18, 0x123, 0x00200000, 0, 0,
     0x1122]), 2, 3, iw 0x10 0 0 1 1 5, 0x18, fieldsOf (iw 0x10 0 0 1 1 5) (0x18), (begunX 2 3 0x10 ((fun s => ((s.put (.CTX_PARTNER_KIND 3) 1).put
     (.CTX_PARTNER_PORT 3) 1).setCan 1 { mode := 1, txq := (List.range 32).map (fun i => { id := i, src := .s0, frame := {} }) }) (hoS [iw 0x10 0 0 1 1 5,
     0x18, 0x123, 0x00200000, 0, 0, 0x1122]))), 0x80018, [0x123, 0x00200000, 0, 0], [0x1122], 1, msgOf ((fun s => ((s.put (.CTX_PARTNER_KIND 3) 1).put
     (.CTX_PARTNER_PORT 3) 1).setCan 1 { mode := 1, txq := (List.range 32).map (fun i => { id := i, src := .s0, frame := {} }) }) (hoS [iw 0x10 0 0 1 1 5,
     0x18, 0x123, 0x00200000, 0, 0, 0x1122])) 3 [0x123, 0x00200000, 0, 0] (wordsBytes [0x1122]), by decide +kernel, rfl, rfl, by decide +kernel,
     by decide +kernel, by decide +kernel, by decide +kernel, by decide +kernel, by decide +kernel, by decide +kernel, by decide +kernel,
     by decide +kernel, by decide +kernel, by decide +kernel, by decide +kernel, by decide +kernel⟩,
   ⟨(fun s => (s.put (.CTX_PARTNER_KIND 3) 1).put (.CTX_PARTNER_PORT 3) 1) (hoS [iw 0x10 0 0 1 1 5, 0x18, 0x123, 0x00900000, 0, 0, 1, 2, 3]), 2, 3, iw
     0x10 0 0 1 1 5, 0x18, fieldsOf (iw 0x10 0 0 1 1 5) (0x18), (begunX 2 3 0x10 ((fun s => (s.put (.CTX_PARTNER_KIND 3) 1).put (.CTX_PARTNER_PORT 3) 1)
     (hoS [iw 0x10 0 0 1 1 5, 0x18, 0x123, 0x00900000, 0, 0, 1, 2, 3]))), 0x80018, [0x123, 0x00900000, 0, 0], [1, 2, 3], msgOf ((fun s => (s.put
     (.CTX_PARTNER_KIND 3) 1).put (.CTX_PARTNER_PORT 3) 1) (hoS [iw 0x10 0 0 1 1 5, 0x18, 0x123, 0x00900000, 0, 0, 1, 2, 3])) 3 [0x123, 0x00900000, 0, 0]
     (wordsBytes [1, 2, 3]), by decide +kernel, rfl, rfl, by decide +kernel, by decide +kernel, by decide +kernel, by decide +kernel, by decide +kernel,
     by decide +kernel, by decide +kernel, by decide +kernel, by decide +kernel, by decide +kernel⟩⟩

theorem witness_MessageInstructions_2 :
    (∃ (s : State) (e : Fin 8) (c : Nat) (w : Word) (x : Word) (h : HWord) (b : State) (a : Nat) (l : List Word) (d : List Word) (m : Msg), atWords s e c
      0x10 w x = true ∧ h = fieldsOf w x ∧ b = (begunX e c 0x10 s) ∧ h.a = 0 ∧ h.i = true ∧ h.k / 256 = 0 ∧ refOf s c h.e = some a ∧ fetchWords b c a 4 =
      .ok l ∧ headOk l = true ∧ fetchWords (touchLines a 4 b) c ((a + 16) % 2 ^ 32) ((bits (dw l 1) 31 20 + 3) / 4) = .ok d ∧ m = plainOn s c (msgOf s c l
      (wordsBytes d)) (wordsBytes d) ∧ s.get (.CTX_PARTNER_KIND c) = 2 ∧ s2Refuses s m.len = false ∧ seqPast s c (h.d % 2 == 1) m.len = false ∧ s.sp2.xfer =
      none) ∧
    (∃ (s : State) (e : Fin 8) (c : Nat) (w : Word) (x : Word) (h : HWord) (b : State) (a : Nat) (l : List Word) (d : List Word) (m : Msg), atWords s e c
      0x10 w x = true ∧ h = fieldsOf w x ∧ b = (begunX e c 0x10 s) ∧ h.a = 0 ∧ h.i = true ∧ h.k / 256 = 0 ∧ refOf s c h.e = some a ∧ fetchWords b c a 4 =
      .ok l ∧ headOk l = true ∧ fetchWords (touchLines a 4 b) c ((a + 16) % 2 ^ 32) ((bits (dw l 1) 31 20 + 3) / 4) = .ok d ∧ m = plainOn s c (msgOf s c l
      (wordsBytes d)) (wordsBytes d) ∧ s.get (.CTX_PARTNER_KIND c) = 2 ∧ s2Refuses s m.len = false ∧ seqPast s c (h.d % 2 == 1) m.len = false ∧
      s.sp2.xfer.isSome = true) ∧
    (∃ (s : State) (e : Fin 8) (c : Nat) (w : Word) (x : Word) (h : HWord) (b : State) (a : Nat) (l : List Word) (d : List Word) (m : Msg), atWords s e c
      0x10 w x = true ∧ h = fieldsOf w x ∧ b = (begunX e c 0x10 s) ∧ h.a = 0 ∧ h.i = true ∧ h.k / 256 = 0 ∧ refOf s c h.e = some a ∧ fetchWords b c a 4 =
      .ok l ∧ headOk l = true ∧ fetchWords (touchLines a 4 b) c ((a + 16) % 2 ^ 32) ((bits (dw l 1) 31 20 + 3) / 4) = .ok d ∧ m = plainOn s c (msgOf s c l
      (wordsBytes d)) (wordsBytes d) ∧ s.get (.CTX_PARTNER_KIND c) = 2 ∧ s2Refuses s m.len = true ∧ 8 ≤ h.d) :=
  ⟨⟨(fun s => { ((s.put (.CTX_PARTNER_KIND 3) 2).set1 .SP2_CFG_FRAME) with sp2 := { s.sp2 with role := 1 } }) (hoS [iw 0x10 0 0 1 1 5, 0x18, 0x123,
     0x00200000, 0, 0, 0x1122]), 2, 3, iw 0x10 0 0 1 1 5, 0x18, fieldsOf (iw 0x10 0 0 1 1 5) (0x18), (begunX 2 3 0x10 ((fun s =>
     { ((s.put (.CTX_PARTNER_KIND 3) 2).set1 .SP2_CFG_FRAME) with sp2 := { s.sp2 with role := 1 } }) (hoS [iw 0x10 0 0 1 1 5, 0x18, 0x123, 0x00200000, 0,
     0, 0x1122]))), 0x80018, [0x123, 0x00200000, 0, 0], [0x1122], plainOn ((fun s =>
     { ((s.put (.CTX_PARTNER_KIND 3) 2).set1 .SP2_CFG_FRAME) with sp2 := { s.sp2 with role := 1 } }) (hoS [iw 0x10 0 0 1 1 5, 0x18, 0x123, 0x00200000, 0,
     0, 0x1122])) 3 (msgOf ((fun s => { ((s.put (.CTX_PARTNER_KIND 3) 2).set1 .SP2_CFG_FRAME) with sp2 := { s.sp2 with role := 1 } }) (hoS [iw 0x10 0 0 1 1
     5, 0x18, 0x123, 0x00200000, 0, 0, 0x1122])) 3 [0x123, 0x00200000, 0, 0] (wordsBytes [0x1122])) (wordsBytes [0x1122]), by decide +kernel, rfl, rfl,
     by decide +kernel, by decide +kernel, by decide +kernel, by decide +kernel, by decide +kernel, by decide +kernel, by decide +kernel,
     by decide +kernel, by decide +kernel, by decide +kernel, by decide +kernel, by decide +kernel⟩,
   ⟨(fun s =>
     { ((s.put (.CTX_PARTNER_KIND 3) 2).set1 .SP2_CFG_FRAME) with sp2 := { s.sp2 with role := 1, xfer := some { ctx := none, ss := 0, n := 1, frame := true, start := 0 } } })
     (hoS [iw 0x10 0 0 1 1 5, 0x18, 0x123, 0x00200000, 0, 0, 0x1122]), 2, 3, iw 0x10 0 0 1 1 5, 0x18, fieldsOf (iw 0x10 0 0 1 1 5) (0x18), (begunX 2 3 0x10
     ((fun s =>
     { ((s.put (.CTX_PARTNER_KIND 3) 2).set1 .SP2_CFG_FRAME) with sp2 := { s.sp2 with role := 1, xfer := some { ctx := none, ss := 0, n := 1, frame := true, start := 0 } } })
     (hoS [iw 0x10 0 0 1 1 5, 0x18, 0x123, 0x00200000, 0, 0, 0x1122]))), 0x80018, [0x123, 0x00200000, 0, 0], [0x1122], plainOn ((fun s =>
     { ((s.put (.CTX_PARTNER_KIND 3) 2).set1 .SP2_CFG_FRAME) with sp2 := { s.sp2 with role := 1, xfer := some { ctx := none, ss := 0, n := 1, frame := true, start := 0 } } })
     (hoS [iw 0x10 0 0 1 1 5, 0x18, 0x123, 0x00200000, 0, 0, 0x1122])) 3 (msgOf ((fun s =>
     { ((s.put (.CTX_PARTNER_KIND 3) 2).set1 .SP2_CFG_FRAME) with sp2 := { s.sp2 with role := 1, xfer := some { ctx := none, ss := 0, n := 1, frame := true, start := 0 } } })
     (hoS [iw 0x10 0 0 1 1 5, 0x18, 0x123, 0x00200000, 0, 0, 0x1122])) 3 [0x123, 0x00200000, 0, 0] (wordsBytes [0x1122])) (wordsBytes [0x1122]),
     by decide +kernel, rfl, rfl, by decide +kernel, by decide +kernel, by decide +kernel, by decide +kernel, by decide +kernel, by decide +kernel,
     by decide +kernel, by decide +kernel, by decide +kernel, by decide +kernel, by decide +kernel, by decide +kernel⟩,
   ⟨(fun s => s.put (.CTX_PARTNER_KIND 3) 2) (hoS [iw 0x10 8 0 1 1 5, 0x18, 0x123, 0x00200000, 0, 0, 0x1122]), 2, 3, iw 0x10 8 0 1 1 5, 0x18, fieldsOf
     (iw 0x10 8 0 1 1 5) (0x18), (begunX 2 3 0x10 ((fun s => s.put (.CTX_PARTNER_KIND 3) 2) (hoS [iw 0x10 8 0 1 1 5, 0x18, 0x123, 0x00200000, 0, 0,
     0x1122]))), 0x80018, [0x123, 0x00200000, 0, 0], [0x1122], plainOn ((fun s => s.put (.CTX_PARTNER_KIND 3) 2) (hoS [iw 0x10 8 0 1 1 5, 0x18, 0x123,
     0x00200000, 0, 0, 0x1122])) 3 (msgOf ((fun s => s.put (.CTX_PARTNER_KIND 3) 2) (hoS [iw 0x10 8 0 1 1 5, 0x18, 0x123, 0x00200000, 0, 0, 0x1122])) 3
     [0x123, 0x00200000, 0, 0] (wordsBytes [0x1122])) (wordsBytes [0x1122]), by decide +kernel, rfl, rfl, by decide +kernel, by decide +kernel,
     by decide +kernel, by decide +kernel, by decide +kernel, by decide +kernel, by decide +kernel, by decide +kernel, by decide +kernel,
     by decide +kernel, by decide +kernel⟩⟩

theorem witness_MessageInstructions_3 :
    (∃ (s : State) (e : Fin 8) (c : Nat) (w : Word) (x : Word) (h : HWord) (b : State) (a : Nat) (l : List Word) (d : List Word) (m : Msg), atWords s e c
      0x10 w x = true ∧ h = fieldsOf w x ∧ b = (begunX e c 0x10 s) ∧ h.a = 0 ∧ h.i = true ∧ h.k / 256 = 0 ∧ refOf s c h.e = some a ∧ fetchWords b c a 4 =
      .ok l ∧ headOk l = true ∧ fetchWords (touchLines a 4 b) c ((a + 16) % 2 ^ 32) ((bits (dw l 1) 31 20 + 3) / 4) = .ok d ∧ m = plainOn s c (msgOf s c l
      (wordsBytes d)) (wordsBytes d) ∧ s.get (.CTX_PARTNER_KIND c) = 2 ∧ s2Refuses s m.len = true ∧ h.d < 8) ∧
    (∃ (s : State) (e : Fin 8) (c : Nat) (w : Word) (x : Word) (h : HWord) (b : State) (a : Nat) (l : List Word), atWords s e c 0x10 w x = true ∧ h =
      fieldsOf w x ∧ b = (begunX e c 0x10 s) ∧ h.a = 0 ∧ h.i = true ∧ h.k / 256 = 0 ∧ hasPartner s c = true ∧ refOf s c h.e = some a ∧ fetchWords b c a 4 =
      .ok l ∧ headOk l = false) ∧
    (∃ (s : State) (e : Fin 8) (c : Nat) (w : Word) (x : Word) (h : HWord), atWords s e c 0x10 w x = true ∧ h = fieldsOf w x ∧ ((h.a == 0 && h.i && h.k /
      256 == 0 && hasPartner s c) = false ∨ refOf s c h.e = none)) :=
  ⟨⟨(fun s => s.put (.CTX_PARTNER_KIND 3) 2) (hoS [iw 0x10 0 0 1 1 5, 0x18, 0x123, 0x00200000, 0, 0, 0x1122]), 2, 3, iw 0x10 0 0 1 1 5, 0x18, fieldsOf
     (iw 0x10 0 0 1 1 5) (0x18), (begunX 2 3 0x10 ((fun s => s.put (.CTX_PARTNER_KIND 3) 2) (hoS [iw 0x10 0 0 1 1 5, 0x18, 0x123, 0x00200000, 0, 0,
     0x1122]))), 0x80018, [0x123, 0x00200000, 0, 0], [0x1122], plainOn ((fun s => s.put (.CTX_PARTNER_KIND 3) 2) (hoS [iw 0x10 0 0 1 1 5, 0x18, 0x123,
     0x00200000, 0, 0, 0x1122])) 3 (msgOf ((fun s => s.put (.CTX_PARTNER_KIND 3) 2) (hoS [iw 0x10 0 0 1 1 5, 0x18, 0x123, 0x00200000, 0, 0, 0x1122])) 3
     [0x123, 0x00200000, 0, 0] (wordsBytes [0x1122])) (wordsBytes [0x1122]), by decide +kernel, rfl, rfl, by decide +kernel, by decide +kernel,
     by decide +kernel, by decide +kernel, by decide +kernel, by decide +kernel, by decide +kernel, by decide +kernel, by decide +kernel,
     by decide +kernel, by decide +kernel⟩,
   ⟨(fun s => (s.put (.CTX_PARTNER_KIND 3) 1).put (.CTX_PARTNER_PORT 3) 1) (hoS [iw 0x10 0 0 1 1 5, 0x18, 0x123, 0x00000100, 0, 0]), 2, 3, iw 0x10 0 0 1
     1 5, 0x18, fieldsOf (iw 0x10 0 0 1 1 5) (0x18), (begunX 2 3 0x10 ((fun s => (s.put (.CTX_PARTNER_KIND 3) 1).put (.CTX_PARTNER_PORT 3) 1) (hoS [iw 0x10
     0 0 1 1 5, 0x18, 0x123, 0x00000100, 0, 0]))), 0x80018, [0x123, 0x100, 0, 0], by decide +kernel, rfl, rfl, by decide +kernel, by decide +kernel,
     by decide +kernel, by decide +kernel, by decide +kernel, by decide +kernel, by decide +kernel⟩,
   ⟨hoS [iw 0x10 0 0 1 1 5, 0x18], 2, 3, iw 0x10 0 0 1 1 5, 0x18, fieldsOf (iw 0x10 0 0 1 1 5) (0x18), by decide +kernel, rfl, by decide +kernel⟩⟩

theorem witness_MessageInstructions_4 :
    (∃ (s : State) (e : Fin 8) (c : Nat) (w : Word) (h : HWord), atWord s e c 0x10 w = true ∧ h = fieldsOf w 0#32) ∧
    (∃ (s : State) (e : Fin 8) (c : Nat) (w : Word) (h : HWord) (p : Nat) (m : Msg), atWord s e c 0x11 w = true ∧ h = fieldsOf w 0#32 ∧ h.i = true ∧ h.k /
      256 ≤ 8 ∧ p = s.get (.CTX_PARTNER_PORT c) ∧ m = msgOf s c [rd s (Reg.CTX_TXID c), wd (h.k / 256 * 2 ^ 20), 0, 0] ((varBytes s c).drop (4 * h.a)) ∧
      onCan s c = true ∧ 4 * h.a + m.len ≤ 64 ∧ msgOk s c m = true ∧ seqPast s c (h.d % 2 == 1) m.len = false ∧ txLevel s p < 32) ∧
    (∃ (s : State) (e : Fin 8) (c : Nat) (w : Word) (h : HWord) (p : Nat) (n : Nat) (v : Nat) (m : Msg), atWord s e c 0x11 w = true ∧ h = fieldsOf w 0#32
      ∧ h.i = true ∧ h.k / 256 ≤ 8 ∧ p = s.get (.CTX_PARTNER_PORT c) ∧ m = msgOf s c [rd s (Reg.CTX_TXID c), wd (h.k / 256 * 2 ^ 20), 0, 0] ((varBytes s
      c).drop (4 * h.a)) ∧ onCan s c = true ∧ 4 * h.a + m.len ≤ 64 ∧ msgOk s c m = true ∧ h.d % 2 = 0 ∧ n = txw s c ∧ 0 < n ∧ s.get (.CTX_SEQCFG_TXPOS c) +
      (n + 7) / 8 ≤ m.len ∧ v = (if (s.ctx c).p then (s.get (.CTX_SEQ_TX_SEQ c) + 1) % 2 ^ n else s.get (.CTX_SEQ_TX_SEQ c)) ∧ txLevel s p < 32) :=
  ⟨⟨hoS [iw 0x10 0 0 1 0 5], 2, 3, iw 0x10 0 0 1 0 5, fieldsOf (iw 0x10 0 0 1 0 5) (0), by decide +kernel, rfl⟩,
   ⟨(fun s => wr (Reg.CTX_TXID 3) 0x123 ((s.put (.CTX_PARTNER_KIND 3) 1).put (.CTX_PARTNER_PORT 3) 1)) (hoS [iw 0x11 4 1 1 0 0x0405]), 2, 3, iw 0x11 4 1
     1 0 0x0405, fieldsOf (iw 0x11 4 1 1 0 0x0405) (0), 1, msgOf ((fun s => wr (Reg.CTX_TXID 3) 0x123 ((s.put (.CTX_PARTNER_KIND 3) 1).put
     (.CTX_PARTNER_PORT 3) 1)) (hoS [iw 0x11 4 1 1 0 0x0405])) 3 [rd ((fun s => wr (Reg.CTX_TXID 3) 0x123 ((s.put (.CTX_PARTNER_KIND 3) 1).put
     (.CTX_PARTNER_PORT 3) 1)) (hoS [iw 0x11 4 1 1 0 0x0405])) (Reg.CTX_TXID 3), 0x00400000, 0, 0] ((varBytes ((fun s => wr (Reg.CTX_TXID 3) 0x123 ((s.put
     (.CTX_PARTNER_KIND 3) 1).put (.CTX_PARTNER_PORT 3) 1)) (hoS [iw 0x11 4 1 1 0 0x0405])) 3).drop 4), by decide +kernel, rfl, by decide +kernel,
     by decide +kernel, by decide +kernel, by decide +kernel, by decide +kernel, by decide +kernel, by decide +kernel, by decide +kernel,
     by decide +kernel⟩,
   ⟨(fun s => (wr (Reg.CTX_TXID 3) 0x123 ((s.put (.CTX_PARTNER_KIND 3) 1).put (.CTX_PARTNER_PORT 3) 1)).put (.CTX_SEQCFG_TXW 3) 8) (hoS [iw 0x11 4 1 1 0
     0x0405]), 2, 3, iw 0x11 4 1 1 0 0x0405, fieldsOf (iw 0x11 4 1 1 0 0x0405) (0), 1, 8, 0, msgOf ((fun s => (wr (Reg.CTX_TXID 3) 0x123 ((s.put
     (.CTX_PARTNER_KIND 3) 1).put (.CTX_PARTNER_PORT 3) 1)).put (.CTX_SEQCFG_TXW 3) 8) (hoS [iw 0x11 4 1 1 0 0x0405])) 3 [rd ((fun s => (wr (Reg.CTX_TXID
     3) 0x123 ((s.put (.CTX_PARTNER_KIND 3) 1).put (.CTX_PARTNER_PORT 3) 1)).put (.CTX_SEQCFG_TXW 3) 8) (hoS [iw 0x11 4 1 1 0 0x0405])) (Reg.CTX_TXID 3),
     0x00400000, 0, 0] ((varBytes ((fun s => (wr (Reg.CTX_TXID 3) 0x123 ((s.put (.CTX_PARTNER_KIND 3) 1).put (.CTX_PARTNER_PORT 3) 1)).put (.CTX_SEQCFG_TXW
     3) 8) (hoS [iw 0x11 4 1 1 0 0x0405])) 3).drop 4), by decide +kernel, rfl, by decide +kernel, by decide +kernel, by decide +kernel, by decide +kernel,
     by decide +kernel, by decide +kernel, by decide +kernel, by decide +kernel, by decide +kernel, by decide +kernel, by decide +kernel,
     by decide +kernel, by decide +kernel⟩⟩

theorem witness_MessageInstructions_5 :
    (∃ (s : State) (e : Fin 8) (c : Nat) (w : Word) (h : HWord) (m : Msg), atWord s e c 0x11 w = true ∧ h = fieldsOf w 0#32 ∧ h.i = true ∧ h.k / 256 ≤ 8 ∧
      m = msgOf s c [rd s (Reg.CTX_TXID c), wd (h.k / 256 * 2 ^ 20), 0, 0] ((varBytes s c).drop (4 * h.a)) ∧ onCan s c = true ∧ m.frame.rtr = false ∧ (64 <
      4 * h.a + m.len ∨ msgOk s c m = false ∨ seqPast s c (h.d % 2 == 1) m.len = true)) ∧
    (∃ (s : State) (e : Fin 8) (c : Nat) (w : Word) (h : HWord) (p : Nat) (m : Msg), atWord s e c 0x11 w = true ∧ h = fieldsOf w 0#32 ∧ h.i = true ∧ h.k /
      256 ≤ 8 ∧ p = s.get (.CTX_PARTNER_PORT c) ∧ m = msgOf s c [rd s (Reg.CTX_TXID c), wd (h.k / 256 * 2 ^ 20), 0, 0] ((varBytes s c).drop (4 * h.a)) ∧
      onCan s c = true ∧ 4 * h.a + m.len ≤ 64 ∧ msgOk s c m = true ∧ seqPast s c (h.d % 2 == 1) m.len = false ∧ 32 ≤ txLevel s p) ∧
    (∃ (s : State) (e : Fin 8) (c : Nat) (w : Word) (h : HWord) (m : Msg), atWord s e c 0x11 w = true ∧ h = fieldsOf w 0#32 ∧ h.i = true ∧ h.k / 256 ≤ 8 ∧
      m = plainOn s c (msgOf s c [rd s (Reg.CTX_TXID c), wd (h.k / 256 * 2 ^ 20), 0, 0] ((varBytes s c).drop (4 * h.a))) ((varBytes s c).drop (4 * h.a)) ∧
      s.get (.CTX_PARTNER_KIND c) = 2 ∧ 4 * h.a + m.len ≤ 64 ∧ s2Refuses s m.len = false ∧ seqPast s c (h.d % 2 == 1) m.len = false ∧ s.sp2.xfer = none) :=
  ⟨⟨(fun s => wr (Reg.CTX_TXID 3) 0x123 ((s.put (.CTX_PARTNER_KIND 3) 1).put (.CTX_PARTNER_PORT 3) 1)) (hoS [iw 0x11 4 15 1 0 0x0805]), 2, 3, iw 0x11 4
     15 1 0 0x0805, fieldsOf (iw 0x11 4 15 1 0 0x0805) (0), msgOf ((fun s => wr (Reg.CTX_TXID 3) 0x123 ((s.put (.CTX_PARTNER_KIND 3) 1).put
     (.CTX_PARTNER_PORT 3) 1)) (hoS [iw 0x11 4 15 1 0 0x0805])) 3 [rd ((fun s => wr (Reg.CTX_TXID 3) 0x123 ((s.put (.CTX_PARTNER_KIND 3) 1).put
     (.CTX_PARTNER_PORT 3) 1)) (hoS [iw 0x11 4 15 1 0 0x0805])) (Reg.CTX_TXID 3), 0x00800000, 0, 0] ((varBytes ((fun s => wr (Reg.CTX_TXID 3) 0x123 ((s.put
     (.CTX_PARTNER_KIND 3) 1).put (.CTX_PARTNER_PORT 3) 1)) (hoS [iw 0x11 4 15 1 0 0x0805])) 3).drop 60), by decide +kernel, rfl, by decide +kernel,
     by decide +kernel, by decide +kernel, by decide +kernel, by decide +kernel, by decide +kernel⟩,
   ⟨(fun s => (wr (Reg.CTX_TXID 3) 0x123 ((s.put (.CTX_PARTNER_KIND 3) 1).put (.CTX_PARTNER_PORT 3) 1)).setCan 1
     { mode := 1, txq := (List.range 32).map (fun i => { id := i, src := .s0, frame := {} }) }) (hoS [iw 0x11 4 1 1 0 0x0405]), 2, 3, iw 0x11 4 1 1 0
     0x0405, fieldsOf (iw 0x11 4 1 1 0 0x0405) (0), 1, msgOf ((fun s => (wr (Reg.CTX_TXID 3) 0x123 ((s.put (.CTX_PARTNER_KIND 3) 1).put (.CTX_PARTNER_PORT
     3) 1)).setCan 1 { mode := 1, txq := (List.range 32).map (fun i => { id := i, src := .s0, frame := {} }) }) (hoS [iw 0x11 4 1 1 0 0x0405])) 3 [rd ((fun
     s => (wr (Reg.CTX_TXID 3) 0x123 ((s.put (.CTX_PARTNER_KIND 3) 1).put (.CTX_PARTNER_PORT 3) 1)).setCan 1
     { mode := 1, txq := (List.range 32).map (fun i => { id := i, src := .s0, frame := {} }) }) (hoS [iw 0x11 4 1 1 0 0x0405])) (Reg.CTX_TXID 3),
     0x00400000, 0, 0] ((varBytes ((fun s => (wr (Reg.CTX_TXID 3) 0x123 ((s.put (.CTX_PARTNER_KIND 3) 1).put (.CTX_PARTNER_PORT 3) 1)).setCan 1
     { mode := 1, txq := (List.range 32).map (fun i => { id := i, src := .s0, frame := {} }) }) (hoS [iw 0x11 4 1 1 0 0x0405])) 3).drop 4),
     by decide +kernel, rfl, by decide +kernel, by decide +kernel, by decide +kernel, by decide +kernel, by decide +kernel, by decide +kernel,
     by decide +kernel, by decide +kernel, by decide +kernel⟩,
   ⟨(fun s => { ((s.put (.CTX_PARTNER_KIND 3) 2).set1 .SP2_CFG_FRAME) with sp2 := { s.sp2 with role := 1 } }) (hoS [iw 0x11 0 1 1 0 0x0400]), 2, 3, iw
     0x11 0 1 1 0 0x0400, fieldsOf (iw 0x11 0 1 1 0 0x0400) (0), plainOn ((fun s =>
     { ((s.put (.CTX_PARTNER_KIND 3) 2).set1 .SP2_CFG_FRAME) with sp2 := { s.sp2 with role := 1 } }) (hoS [iw 0x11 0 1 1 0 0x0400])) 3 (msgOf ((fun s =>
     { ((s.put (.CTX_PARTNER_KIND 3) 2).set1 .SP2_CFG_FRAME) with sp2 := { s.sp2 with role := 1 } }) (hoS [iw 0x11 0 1 1 0 0x0400])) 3 [rd ((fun s =>
     { ((s.put (.CTX_PARTNER_KIND 3) 2).set1 .SP2_CFG_FRAME) with sp2 := { s.sp2 with role := 1 } }) (hoS [iw 0x11 0 1 1 0 0x0400])) (Reg.CTX_TXID 3),
     0x00400000, 0, 0] ((varBytes ((fun s => { ((s.put (.CTX_PARTNER_KIND 3) 2).set1 .SP2_CFG_FRAME) with sp2 := { s.sp2 with role := 1 } }) (hoS [iw 0x11
     0 1 1 0 0x0400])) 3).drop 4)) ((varBytes ((fun s => { ((s.put (.CTX_PARTNER_KIND 3) 2).set1 .SP2_CFG_FRAME) with sp2 := { s.sp2 with role := 1 } })
     (hoS [iw 0x11 0 1 1 0 0x0400])) 3).drop 4), by decide +kernel, rfl, by decide +kernel, by decide +kernel, by decide +kernel, by decide +kernel,
     by decide +kernel, by decide +kernel, by decide +kernel, by decide +kernel⟩⟩

theorem witness_MessageInstructions_6 :
    (∃ (s : State) (e : Fin 8) (c : Nat) (w : Word) (h : HWord) (m : Msg), atWord s e c 0x11 w = true ∧ h = fieldsOf w 0#32 ∧ h.i = true ∧ h.k / 256 ≤ 8 ∧
      m = plainOn s c (msgOf s c [rd s (Reg.CTX_TXID c), wd (h.k / 256 * 2 ^ 20), 0, 0] ((varBytes s c).drop (4 * h.a))) ((varBytes s c).drop (4 * h.a)) ∧
      s.get (.CTX_PARTNER_KIND c) = 2 ∧ 4 * h.a + m.len ≤ 64 ∧ s2Refuses s m.len = true ∧ 8 ≤ h.d) ∧
    (∃ (s : State) (e : Fin 8) (c : Nat) (w : Word) (h : HWord) (m : Msg), atWord s e c 0x11 w = true ∧ h = fieldsOf w 0#32 ∧ h.i = true ∧ h.k / 256 ≤ 8 ∧
      m = plainOn s c (msgOf s c [rd s (Reg.CTX_TXID c), wd (h.k / 256 * 2 ^ 20), 0, 0] ((varBytes s c).drop (4 * h.a))) ((varBytes s c).drop (4 * h.a)) ∧
      s.get (.CTX_PARTNER_KIND c) = 2 ∧ 4 * h.a + m.len ≤ 64 ∧ s2Refuses s m.len = true ∧ h.d < 8) ∧
    (∃ (s : State) (e : Fin 8) (c : Nat) (w : Word) (h : HWord), atWord s e c 0x11 w = true ∧ h = fieldsOf w 0#32 ∧ (h.i && hasPartner s c && decide (h.k
      / 256 ≤ 8)) = false) :=
  ⟨⟨(fun s => s.put (.CTX_PARTNER_KIND 3) 2) (hoS [iw 0x11 8 1 1 0 0x0400]), 2, 3, iw 0x11 8 1 1 0 0x0400, fieldsOf (iw 0x11 8 1 1 0 0x0400) (0), plainOn
     ((fun s => s.put (.CTX_PARTNER_KIND 3) 2) (hoS [iw 0x11 8 1 1 0 0x0400])) 3 (msgOf ((fun s => s.put (.CTX_PARTNER_KIND 3) 2) (hoS [iw 0x11 8 1 1 0
     0x0400])) 3 [rd ((fun s => s.put (.CTX_PARTNER_KIND 3) 2) (hoS [iw 0x11 8 1 1 0 0x0400])) (Reg.CTX_TXID 3), 0x00400000, 0, 0] ((varBytes ((fun s =>
     s.put (.CTX_PARTNER_KIND 3) 2) (hoS [iw 0x11 8 1 1 0 0x0400])) 3).drop 4)) ((varBytes ((fun s => s.put (.CTX_PARTNER_KIND 3) 2) (hoS [iw 0x11 8 1 1 0
     0x0400])) 3).drop 4), by decide +kernel, rfl, by decide +kernel, by decide +kernel, by decide +kernel, by decide +kernel, by decide +kernel,
     by decide +kernel, by decide +kernel⟩,
   ⟨(fun s => s.put (.CTX_PARTNER_KIND 3) 2) (hoS [iw 0x11 0 1 1 0 0x0400]), 2, 3, iw 0x11 0 1 1 0 0x0400, fieldsOf (iw 0x11 0 1 1 0 0x0400) (0), plainOn
     ((fun s => s.put (.CTX_PARTNER_KIND 3) 2) (hoS [iw 0x11 0 1 1 0 0x0400])) 3 (msgOf ((fun s => s.put (.CTX_PARTNER_KIND 3) 2) (hoS [iw 0x11 0 1 1 0
     0x0400])) 3 [rd ((fun s => s.put (.CTX_PARTNER_KIND 3) 2) (hoS [iw 0x11 0 1 1 0 0x0400])) (Reg.CTX_TXID 3), 0x00400000, 0, 0] ((varBytes ((fun s =>
     s.put (.CTX_PARTNER_KIND 3) 2) (hoS [iw 0x11 0 1 1 0 0x0400])) 3).drop 4)) ((varBytes ((fun s => s.put (.CTX_PARTNER_KIND 3) 2) (hoS [iw 0x11 0 1 1 0
     0x0400])) 3).drop 4), by decide +kernel, rfl, by decide +kernel, by decide +kernel, by decide +kernel, by decide +kernel, by decide +kernel,
     by decide +kernel, by decide +kernel⟩,
   ⟨hoS [iw 0x11 0 1 1 0 0x0400], 2, 3, iw 0x11 0 1 1 0 0x0400, fieldsOf (iw 0x11 0 1 1 0 0x0400) (0), by decide +kernel, rfl, by decide +kernel⟩⟩

theorem witness_MessageInstructions_7 :
    (∃ (s : State) (e : Fin 8) (c : Nat) (w : Word) (x : Word) (h : HWord) (b : State) (a : Nat) (l : List Word) (p : Nat) (m : Msg), atWords s e c 0x11 w
      x = true ∧ h = fieldsOf w x ∧ b = (begunX e c 0x11 s) ∧ h.i = true ∧ h.k / 256 = 0 ∧ p = s.get (.CTX_PARTNER_PORT c) ∧ onCan s c = true ∧ refOf s c
      h.e = some a ∧ fetchWords b c a 4 = .ok l ∧ headOk l = true ∧ m = msgOf s c l ((varBytes s c).drop (4 * h.a)) ∧ 4 * h.a + (if m.frame.rtr && !isFD
      m.frame.idw && !isXL m.frame.idw then 0 else m.len) ≤ 64 ∧ msgOk s c m = true ∧ seqPast s c (h.d % 2 == 1) m.len = false ∧ txLevel s p < 32) ∧
    (∃ (s : State) (e : Fin 8) (c : Nat) (w : Word) (x : Word) (h : HWord) (b : State) (a : Nat) (l : List Word) (m : Msg), atWords s e c 0x11 w x = true
      ∧ h = fieldsOf w x ∧ b = (begunX e c 0x11 s) ∧ h.i = true ∧ h.k / 256 = 0 ∧ s.get (.CTX_PARTNER_KIND c) = 2 ∧ refOf s c h.e = some a ∧ fetchWords b c
      a 4 = .ok l ∧ headOk l = true ∧ m = plainOn s c (msgOf s c l ((varBytes s c).drop (4 * h.a))) ((varBytes s c).drop (4 * h.a)) ∧ 4 * h.a + m.len ≤ 64) ∧
    (∃ (s : State) (e : Fin 8) (c : Nat) (w : Word) (x : Word) (h : HWord), atWords s e c 0x11 w x = true ∧ h = fieldsOf w x ∧ ((h.i && hasPartner s c &&
      h.k / 256 == 0) = false ∨ refOf s c h.e = none)) :=
  ⟨⟨(fun s => (s.put (.CTX_PARTNER_KIND 3) 1).put (.CTX_PARTNER_PORT 3) 1) (hoS [iw 0x11 2 1 1 1 5, 0x18, 0x123, 0x00200000, 0, 0]), 2, 3, iw 0x11 2 1 1
     1 5, 0x18, fieldsOf (iw 0x11 2 1 1 1 5) (0x18), (begunX 2 3 0x11 ((fun s => (s.put (.CTX_PARTNER_KIND 3) 1).put (.CTX_PARTNER_PORT 3) 1) (hoS [iw 0x11
     2 1 1 1 5, 0x18, 0x123, 0x00200000, 0, 0]))), 0x80018, [0x123, 0x00200000, 0, 0], 1, msgOf ((fun s => (s.put (.CTX_PARTNER_KIND 3) 1).put
     (.CTX_PARTNER_PORT 3) 1) (hoS [iw 0x11 2 1 1 1 5, 0x18, 0x123, 0x00200000, 0, 0])) 3 [0x123, 0x00200000, 0, 0] ((varBytes ((fun s => (s.put
     (.CTX_PARTNER_KIND 3) 1).put (.CTX_PARTNER_PORT 3) 1) (hoS [iw 0x11 2 1 1 1 5, 0x18, 0x123, 0x00200000, 0, 0])) 3).drop 4), by decide +kernel, rfl,
     rfl, by decide +kernel, by decide +kernel, by decide +kernel, by decide +kernel, by decide +kernel, by decide +kernel, by decide +kernel,
     by decide +kernel, by decide +kernel, by decide +kernel, by decide +kernel, by decide +kernel⟩,
   ⟨(fun s => { ((s.put (.CTX_PARTNER_KIND 3) 2).set1 .SP2_CFG_FRAME) with sp2 := { s.sp2 with role := 1 } }) (hoS [iw 0x11 2 1 1 1 5, 0x18, 0x123,
     0x00200000, 0, 0]), 2, 3, iw 0x11 2 1 1 1 5, 0x18, fieldsOf (iw 0x11 2 1 1 1 5) (0x18), (begunX 2 3 0x11 ((fun s =>
     { ((s.put (.CTX_PARTNER_KIND 3) 2).set1 .SP2_CFG_FRAME) with sp2 := { s.sp2 with role := 1 } }) (hoS [iw 0x11 2 1 1 1 5, 0x18, 0x123, 0x00200000, 0,
     0]))), 0x80018, [0x123, 0x00200000, 0, 0], plainOn ((fun s =>
     { ((s.put (.CTX_PARTNER_KIND 3) 2).set1 .SP2_CFG_FRAME) with sp2 := { s.sp2 with role := 1 } }) (hoS [iw 0x11 2 1 1 1 5, 0x18, 0x123, 0x00200000, 0,
     0])) 3 (msgOf ((fun s => { ((s.put (.CTX_PARTNER_KIND 3) 2).set1 .SP2_CFG_FRAME) with sp2 := { s.sp2 with role := 1 } }) (hoS [iw 0x11 2 1 1 1 5,
     0x18, 0x123, 0x00200000, 0, 0])) 3 [0x123, 0x00200000, 0, 0] ((varBytes ((fun s =>
     { ((s.put (.CTX_PARTNER_KIND 3) 2).set1 .SP2_CFG_FRAME) with sp2 := { s.sp2 with role := 1 } }) (hoS [iw 0x11 2 1 1 1 5, 0x18, 0x123, 0x00200000, 0,
     0])) 3).drop 4)) ((varBytes ((fun s => { ((s.put (.CTX_PARTNER_KIND 3) 2).set1 .SP2_CFG_FRAME) with sp2 := { s.sp2 with role := 1 } }) (hoS [iw 0x11 2
     1 1 1 5, 0x18, 0x123, 0x00200000, 0, 0])) 3).drop 4), by decide +kernel, rfl, rfl, by decide +kernel, by decide +kernel, by decide +kernel,
     by decide +kernel, by decide +kernel, by decide +kernel, by decide +kernel, by decide +kernel⟩,
   ⟨hoS [iw 0x11 0 1 1 1 0x0400, 0x18], 2, 3, iw 0x11 0 1 1 1 0x0400, 0x18, fieldsOf (iw 0x11 0 1 1 1 0x0400) (0x18), by decide +kernel, rfl,
     by decide +kernel⟩⟩

theorem witness_MessageInstructions_8 :
    (∃ (s : State) (e : Fin 8) (c : Nat) (w : Word) (x : Word) (h : HWord) (b : State) (a : Nat) (d : List Word), atWords s e c 0x12 w x = true ∧ h =
      fieldsOf w x ∧ b = (begunX e c 0x12 s) ∧ bare h = true ∧ hasPartner s c = true ∧ refOf s c h.e = some a ∧ fetchWords b c a 8 = .ok d ∧ descOk (cvOf s
      c).isSome d = true) ∧
    (∃ (s : State) (e : Fin 8) (c : Nat) (w : Word) (x : Word) (h : HWord) (b : State) (a : Nat) (d : List Word), atWords s e c 0x12 w x = true ∧ h =
      fieldsOf w x ∧ b = (begunX e c 0x12 s) ∧ bare h = true ∧ hasPartner s c = true ∧ refOf s c h.e = some a ∧ fetchWords b c a 8 = .ok d ∧ descOk (cvOf s
      c).isSome d = true ∧ bits (dw d 4) 31 16 = 0 ∧ bits (dw d 4) 1 0 = 0 ∧ (s.ctx c).inbox = [] ∧ (s.ctx c).evOff = false ∧ (s.ctx c).evAbs = false) ∧
    (∃ (s : State) (e : Fin 8) (c : Nat) (w : Word) (x : Word) (h : HWord) (b : State) (a : Nat) (d : List Word) (f : RxEnt), atWords s e c 0x12 w x =
      true ∧ h = fieldsOf w x ∧ b = (begunX e c 0x12 s) ∧ bare h = true ∧ hasPartner s c = true ∧ refOf s c h.e = some a ∧ fetchWords b c a 8 = .ok d ∧
      descOk (cvOf s c).isSome d = true ∧ bits (dw d 4) 31 16 = 0 ∧ bits (dw d 4) 1 0 = 0 ∧ (s.ctx c).inbox = [f] ∧ rxMissing f = 0 ∧ (s.ctx c).evOff =
      false ∧ (s.ctx c).evAbs = false ∧ frameMatch d f = true ∧ bitAt (dw d 5) 31 = false ∧ rxw s c = 0 ∧ actionOf (dw d 6) ocMatch = 0) :=
  ⟨⟨(fun s => (s.put (.CTX_PARTNER_KIND 3) 1).put (.CTX_PARTNER_PORT 3) 1) (hoS [iw 0x12 0 0 1 1 0, 0x18, 0x123, 0x3FFFFFFF, 0, 0, 0x000A0000, 0, 0x5,
     0]), 2, 3, iw 0x12 0 0 1 1 0, 0x18, fieldsOf (iw 0x12 0 0 1 1 0) (0x18), (begunX 2 3 0x12 ((fun s => (s.put (.CTX_PARTNER_KIND 3) 1).put
     (.CTX_PARTNER_PORT 3) 1) (hoS [iw 0x12 0 0 1 1 0, 0x18, 0x123, 0x3FFFFFFF, 0, 0, 0x000A0000, 0, 0x5, 0]))), 0x80018, [0x123, 0x3FFFFFFF, 0, 0,
     0x000A0000, 0, 0x5, 0], by decide +kernel, rfl, rfl, by decide +kernel, by decide +kernel, by decide +kernel, by decide +kernel, by decide +kernel⟩,
   ⟨(fun s => (s.put (.CTX_PARTNER_KIND 3) 1).put (.CTX_PARTNER_PORT 3) 1) (hoS [iw 0x12 0 0 1 1 0, 0x18, 0x123, 0x3FFFFFFF, 0, 0, 0, 0, 0x5, 0]), 2, 3,
     iw 0x12 0 0 1 1 0, 0x18, fieldsOf (iw 0x12 0 0 1 1 0) (0x18), (begunX 2 3 0x12 ((fun s => (s.put (.CTX_PARTNER_KIND 3) 1).put (.CTX_PARTNER_PORT 3) 1)
     (hoS [iw 0x12 0 0 1 1 0, 0x18, 0x123, 0x3FFFFFFF, 0, 0, 0, 0, 0x5, 0]))), 0x80018, [0x123, 0x3FFFFFFF, 0, 0, 0, 0, 0x5, 0], by decide +kernel, rfl,
     rfl, by decide +kernel, by decide +kernel, by decide +kernel, by decide +kernel, by decide +kernel, by decide +kernel, by decide +kernel,
     by decide +kernel, by decide +kernel, by decide +kernel⟩,
   ⟨(fun s => ((s.put (.CTX_PARTNER_KIND 3) 1).put (.CTX_PARTNER_PORT 3) 1).modCtx 3 (fun x => { x with inbox := [{ frame := { idw := 0x123 } }] })) (hoS
     [iw 0x12 0 0 1 1 0, 0x18, 0x123, 0x3FFFFFFF, 0, 0, 0, 0, 0x0, 0]), 2, 3, iw 0x12 0 0 1 1 0, 0x18, fieldsOf (iw 0x12 0 0 1 1 0) (0x18), (begunX 2 3
     0x12 ((fun s => ((s.put (.CTX_PARTNER_KIND 3) 1).put (.CTX_PARTNER_PORT 3) 1).modCtx 3 (fun x => { x with inbox := [{ frame := { idw := 0x123 } }] }))
     (hoS [iw 0x12 0 0 1 1 0, 0x18, 0x123, 0x3FFFFFFF, 0, 0, 0, 0, 0x0, 0]))), 0x80018, [0x123, 0x3FFFFFFF, 0, 0, 0, 0, 0x0, 0],
     { frame := { idw := 0x123 } }, by decide +kernel, rfl, rfl, by decide +kernel, by decide +kernel, by decide +kernel, by decide +kernel,
     by decide +kernel, by decide +kernel, by decide +kernel, by decide +kernel, by decide +kernel, by decide +kernel, by decide +kernel,
     by decide +kernel, by decide +kernel, by decide +kernel, by decide +kernel⟩⟩

theorem witness_MessageInstructions_9 :
    (∃ (s : State) (e : Fin 8) (c : Nat) (w : Word) (x : Word) (h : HWord) (b : State) (a : Nat) (d : List Word), atWords s e c 0x12 w x = true ∧ h =
      fieldsOf w x ∧ b = (begunX e c 0x12 s) ∧ bare h = true ∧ hasPartner s c = true ∧ refOf s c h.e = some a ∧ fetchWords b c a 8 = .ok d ∧ descOk (cvOf s
      c).isSome d = false) ∧
    (∃ (s : State) (e : Fin 8) (c : Nat) (w : Word) (x : Word) (h : HWord), atWords s e c 0x12 w x = true ∧ h = fieldsOf w x ∧ (bare h && hasPartner s c
      && (refOf s c h.e).isSome) = false) ∧
    (∃ (s : State) (e : Fin 8) (c : Nat) (w : Word) (h : HWord), atWord s e c 0x12 w = true ∧ h = fieldsOf w 0#32) :=
  ⟨⟨(fun s => (s.put (.CTX_PARTNER_KIND 3) 1).put (.CTX_PARTNER_PORT 3) 1) (hoS [iw 0x12 0 0 1 1 0, 0x18, 0x123, 0x3FFFFFFF, 0, 0, 4, 0, 0x5, 0]), 2, 3,
     iw 0x12 0 0 1 1 0, 0x18, fieldsOf (iw 0x12 0 0 1 1 0) (0x18), (begunX 2 3 0x12 ((fun s => (s.put (.CTX_PARTNER_KIND 3) 1).put (.CTX_PARTNER_PORT 3) 1)
     (hoS [iw 0x12 0 0 1 1 0, 0x18, 0x123, 0x3FFFFFFF, 0, 0, 4, 0, 0x5, 0]))), 0x80018, [0x123, 0x3FFFFFFF, 0, 0, 4, 0, 0x5, 0], by decide +kernel, rfl,
     rfl, by decide +kernel, by decide +kernel, by decide +kernel, by decide +kernel, by decide +kernel⟩,
   ⟨hoS [iw 0x12 0 0 1 1 0, 0x18], 2, 3, iw 0x12 0 0 1 1 0, 0x18, fieldsOf (iw 0x12 0 0 1 1 0) (0x18), by decide +kernel, rfl, by decide +kernel⟩,
   ⟨hoS [iw 0x12 0 0 1 0 0], 2, 3, iw 0x12 0 0 1 0 0, fieldsOf (iw 0x12 0 0 1 0 0) (0), by decide +kernel, rfl⟩⟩

theorem witness_MessageInstructions_10 :
    (∃ (s : State) (e : Fin 8) (c : Nat) (w : Word) (x : Word) (h : HWord) (b : State) (a : Nat) (n : Word) (d : List Word), atWords s e c 0x13 w x = true
      ∧ h = fieldsOf w x ∧ b = (begunX e c 0x13 s) ∧ noK h = true ∧ h.a = 0 ∧ hasPartner s c = true ∧ refOf s c h.e = some a ∧ fetchWords b c a 1 = .ok [n]
      ∧ 1 ≤ n.toNat ∧ n.toNat ≤ 4 ∧ fetchWords (touchLines a 1 b) c ((a + 4) % 2 ^ 32) (8 * n.toNat) = .ok d ∧ (groups 8 n.toNat d).all (descOk (cvOf s
      c).isSome) = true) ∧
    (∃ (s : State) (e : Fin 8) (c : Nat) (w : Word) (x : Word) (h : HWord) (b : State) (a : Nat) (n : Word) (d : List Word), atWords s e c 0x13 w x = true
      ∧ h = fieldsOf w x ∧ b = (begunX e c 0x13 s) ∧ noK h = true ∧ h.a = 0 ∧ hasPartner s c = true ∧ refOf s c h.e = some a ∧ fetchWords b c a 1 = .ok [n]
      ∧ 1 ≤ n.toNat ∧ n.toNat ≤ 4 ∧ fetchWords (touchLines a 1 b) c ((a + 4) % 2 ^ 32) (8 * n.toNat) = .ok d ∧ (groups 8 n.toNat d).all (descOk (cvOf s
      c).isSome) = true ∧ bits (dw d 4) 31 16 = 0 ∧ bits (dw d 4) 1 0 = 0 ∧ (s.ctx c).inbox = [] ∧ (s.ctx c).evOff = false ∧ (s.ctx c).evAbs = false) ∧
    (∃ (s : State) (e : Fin 8) (c : Nat) (w : Word) (x : Word) (h : HWord) (b : State) (a : Nat) (n : Word), atWords s e c 0x13 w x = true ∧ h = fieldsOf
      w x ∧ b = (begunX e c 0x13 s) ∧ noK h = true ∧ h.a = 0 ∧ hasPartner s c = true ∧ refOf s c h.e = some a ∧ fetchWords b c a 1 = .ok [n] ∧ (n.toNat = 0
      ∨ 4 < n.toNat)) :=
  ⟨⟨(fun s => (s.put (.CTX_PARTNER_KIND 3) 1).put (.CTX_PARTNER_PORT 3) 1) (hoS [iw 0x13 5 0 1 1 0, 0x18, 1, 0x123, 0x3FFFFFFF, 0, 0, 0x000A0000, 0, 0x5,
     0]), 2, 3, iw 0x13 5 0 1 1 0, 0x18, fieldsOf (iw 0x13 5 0 1 1 0) (0x18), (begunX 2 3 0x13 ((fun s => (s.put (.CTX_PARTNER_KIND 3) 1).put
     (.CTX_PARTNER_PORT 3) 1) (hoS [iw 0x13 5 0 1 1 0, 0x18, 1, 0x123, 0x3FFFFFFF, 0, 0, 0x000A0000, 0, 0x5, 0]))), 0x80018, 1, [0x123, 0x3FFFFFFF, 0, 0,
     0x000A0000, 0, 5, 0], by decide +kernel, rfl, rfl, by decide +kernel, by decide +kernel, by decide +kernel, by decide +kernel, by decide +kernel,
     by decide +kernel, by decide +kernel, by decide +kernel, by decide +kernel⟩,
   ⟨(fun s => (s.put (.CTX_PARTNER_KIND 3) 1).put (.CTX_PARTNER_PORT 3) 1) (hoS [iw 0x13 5 0 1 1 0, 0x18, 1, 0x123, 0x3FFFFFFF, 0, 0, 0, 0, 0x5, 0]), 2,
     3, iw 0x13 5 0 1 1 0, 0x18, fieldsOf (iw 0x13 5 0 1 1 0) (0x18), (begunX 2 3 0x13 ((fun s => (s.put (.CTX_PARTNER_KIND 3) 1).put (.CTX_PARTNER_PORT 3)
     1) (hoS [iw 0x13 5 0 1 1 0, 0x18, 1, 0x123, 0x3FFFFFFF, 0, 0, 0, 0, 0x5, 0]))), 0x80018, 1, [0x123, 0x3FFFFFFF, 0, 0, 0, 0, 5, 0], by decide +kernel,
     rfl, rfl, by decide +kernel, by decide +kernel, by decide +kernel, by decide +kernel, by decide +kernel, by decide +kernel, by decide +kernel,
     by decide +kernel, by decide +kernel, by decide +kernel, by decide +kernel, by decide +kernel, by decide +kernel, by decide +kernel⟩,
   ⟨(fun s => (s.put (.CTX_PARTNER_KIND 3) 1).put (.CTX_PARTNER_PORT 3) 1) (hoS [iw 0x13 5 0 1 1 0, 0x18, 5]), 2, 3, iw 0x13 5 0 1 1 0, 0x18, fieldsOf
     (iw 0x13 5 0 1 1 0) (0x18), (begunX 2 3 0x13 ((fun s => (s.put (.CTX_PARTNER_KIND 3) 1).put (.CTX_PARTNER_PORT 3) 1) (hoS [iw 0x13 5 0 1 1 0, 0x18,
     5]))), 0x80018, 5, by decide +kernel, rfl, rfl, by decide +kernel, by decide +kernel, by decide +kernel, by decide +kernel, by decide +kernel,
     by decide +kernel⟩⟩

theorem witness_MessageInstructions_11 :
    (∃ (s : State) (e : Fin 8) (c : Nat) (w : Word) (x : Word) (h : HWord), atWords s e c 0x13 w x = true ∧ h = fieldsOf w x ∧ (noK h && h.a == 0 &&
      hasPartner s c && (refOf s c h.e).isSome) = false) ∧
    (∃ (s : State) (e : Fin 8) (c : Nat) (w : Word) (h : HWord), atWord s e c 0x13 w = true ∧ h = fieldsOf w 0#32) ∧
    (∃ (s : State) (e : Fin 8) (c : Nat) (w : Word) (h : HWord), atWord s e c 0x14 w = true ∧ h = fieldsOf w 0#32 ∧ noK h = true ∧ h.a = 0 ∧ h.d < 8 ∧
      hasPartner s c = true ∧ (h.d < 4 ∨ onCan s c = false)) :=
  ⟨⟨hoS [iw 0x13 0 0 1 1 0, 0x18], 2, 3, iw 0x13 0 0 1 1 0, 0x18, fieldsOf (iw 0x13 0 0 1 1 0) (0x18), by decide +kernel, rfl, by decide +kernel⟩,
   ⟨hoS [iw 0x13 0 0 1 0 0], 2, 3, iw 0x13 0 0 1 0 0, fieldsOf (iw 0x13 0 0 1 0 0) (0), by decide +kernel, rfl⟩,
   ⟨(fun s => (((s.put (.CTX_PARTNER_KIND 3) 1).put (.CTX_PARTNER_PORT 3) 1)).modCtx 3 (fun x => { x with inbox := [{}], evOff := true })) (hoS [iw 0x14
     3 0 1 0 0]), 2, 3, iw 0x14 3 0 1 0 0, fieldsOf (iw 0x14 3 0 1 0 0) (0), by decide +kernel, rfl, by decide +kernel, by decide +kernel,
     by decide +kernel, by decide +kernel, by decide +kernel⟩⟩

theorem witness_MessageInstructions_12 :
    (∃ (s : State) (e : Fin 8) (c : Nat) (w : Word) (h : HWord) (p : Nat), atWord s e c 0x14 w = true ∧ h = fieldsOf w 0#32 ∧ noK h = true ∧ h.a = 0 ∧ 4 ≤
      h.d ∧ h.d < 8 ∧ onCan s c = true ∧ p = s.get (.CTX_PARTNER_PORT c) ∧ (s.can p).txq.Pairwise (fun x y => x.id ≠ y.id)) ∧
    (∃ (s : State) (e : Fin 8) (c : Nat) (w : Word) (h : HWord), atWord s e c 0x14 w = true ∧ h = fieldsOf w 0#32 ∧ (noK h && h.a == 0 && decide (h.d < 8)
      && hasPartner s c) = false) ∧
    (∃ (s : State) (e : Fin 8) (c : Nat) (w : Word), atExt s e c 0x14 w = true) :=
  ⟨⟨(fun s => ((s.put (.CTX_PARTNER_KIND 3) 1).put (.CTX_PARTNER_PORT 3) 1).setCan 1
     { mode := 1, txq := [{ id := 4, src := .hoist 3, frame := {} }, { id := 5, src := .s0, frame := {} }], nextId := 6 }) (hoS [iw 0x14 4 0 1 0 0]), 2, 3,
     iw 0x14 4 0 1 0 0, fieldsOf (iw 0x14 4 0 1 0 0) (0), 1, by decide +kernel, rfl, by decide +kernel, by decide +kernel, by decide +kernel,
     by decide +kernel, by decide +kernel, by decide +kernel, by decide +kernel⟩,
   ⟨hoS [iw 0x14 3 0 1 0 0], 2, 3, iw 0x14 3 0 1 0 0, fieldsOf (iw 0x14 3 0 1 0 0) (0), by decide +kernel, rfl, by decide +kernel⟩,
   ⟨hoS [iw 0x14 0 0 1 1 0], 2, 3, iw 0x14 0 0 1 1 0, by decide +kernel⟩⟩

theorem witness_MessageInstructions_13 :
    (∃ (s : State) (e : Fin 8) (c : Nat) (w : Word) (x : Word) (h : HWord) (b : State) (a : Nat) (d : List Word), atWords s e c 0x15 w x = true ∧ h =
      fieldsOf w x ∧ b = (begunX e c 0x15 s) ∧ bare h = true ∧ onCan s c = true ∧ refOf s c h.e = some a ∧ fetchWords b c a 10 = .ok d ∧ xferOk s c true d =
      true ∧ bits (dw d 5) 31 30 = 1) ∧
    (∃ (s : State) (e : Fin 8) (c : Nat) (w : Word) (x : Word) (h : HWord) (b : State) (a : Nat) (d : List Word) (n : Nat) (l : List Word), atWords s e c
      0x15 w x = true ∧ h = fieldsOf w x ∧ b = (begunX e c 0x15 s) ∧ bare h = true ∧ onCan s c = true ∧ refOf s c h.e = some a ∧ fetchWords b c a 10 = .ok d
      ∧ xferOk s c true d = true ∧ bits (dw d 5) 31 30 ≠ 1 ∧ n = (s.get (.CTX_PROG_PROG c) + (dw d 6).toNat) % 2 ^ 32 ∧ fetchWords (touchLines a 10 b) c (n
      / 4 * 4) ((n % 4 + bits (dw d 5) 15 0 + 3) / 4) = .ok l) ∧
    (∃ (s : State) (e : Fin 8) (c : Nat) (w : Word) (x : Word) (h : HWord) (b : State) (a : Nat) (d : List Word), atWords s e c 0x15 w x = true ∧ h =
      fieldsOf w x ∧ b = (begunX e c 0x15 s) ∧ bare h = true ∧ onCan s c = true ∧ refOf s c h.e = some a ∧ fetchWords b c a 10 = .ok d ∧ xferOk s c true d =
      false) :=
  ⟨⟨(fun s => (s.put (.CTX_PARTNER_KIND 3) 1).put (.CTX_PARTNER_PORT 3) 1) (hoS [iw 0x15 0 0 1 1 0, 0x18, 0x123, 0x124, 0, 0x00000008, 0x00640064,
     0x40000010, 0, 0, 0x5, 0]), 2, 3, iw 0x15 0 0 1 1 0, 0x18, fieldsOf (iw 0x15 0 0 1 1 0) (0x18), (begunX 2 3 0x15 ((fun s => (s.put (.CTX_PARTNER_KIND
     3) 1).put (.CTX_PARTNER_PORT 3) 1) (hoS [iw 0x15 0 0 1 1 0, 0x18, 0x123, 0x124, 0, 0x00000008, 0x00640064, 0x40000010, 0, 0, 0x5, 0]))), 0x80018,
     [0x123, 0x124, 0, 8, 0x00640064, 0x40000010, 0, 0, 5, 0], by decide +kernel, rfl, rfl, by decide +kernel, by decide +kernel, by decide +kernel,
     by decide +kernel, by decide +kernel, by decide +kernel⟩,
   ⟨(fun s => (s.put (.CTX_PARTNER_KIND 3) 1).put (.CTX_PARTNER_PORT 3) 1) (hoS [iw 0x15 0 0 1 1 0, 0x18, 0x123, 0x124, 0, 0x00000008, 0x00640064,
     0x00000003, 0x19, 0, 0x5, 0]), 2, 3, iw 0x15 0 0 1 1 0, 0x18, fieldsOf (iw 0x15 0 0 1 1 0) (0x18), (begunX 2 3 0x15 ((fun s => (s.put
     (.CTX_PARTNER_KIND 3) 1).put (.CTX_PARTNER_PORT 3) 1) (hoS [iw 0x15 0 0 1 1 0, 0x18, 0x123, 0x124, 0, 0x00000008, 0x00640064, 0x00000003, 0x19, 0,
     0x5, 0]))), 0x80018, [0x123, 0x124, 0, 8, 0x00640064, 0x00000003, 0x19, 0, 5, 0], 0x80019, [0x123], by decide +kernel, rfl, rfl, by decide +kernel,
     by decide +kernel, by decide +kernel, by decide +kernel, by decide +kernel, by decide +kernel, by decide +kernel, by decide +kernel⟩,
   ⟨(fun s => (s.put (.CTX_PARTNER_KIND 3) 1).put (.CTX_PARTNER_PORT 3) 1) (hoS [iw 0x15 0 0 1 1 0, 0x18, 0x123, 0x124, 0, 0x00000008, 0x00640064,
     0x40000000, 0, 0, 0x5, 0]), 2, 3, iw 0x15 0 0 1 1 0, 0x18, fieldsOf (iw 0x15 0 0 1 1 0) (0x18), (begunX 2 3 0x15 ((fun s => (s.put (.CTX_PARTNER_KIND
     3) 1).put (.CTX_PARTNER_PORT 3) 1) (hoS [iw 0x15 0 0 1 1 0, 0x18, 0x123, 0x124, 0, 0x00000008, 0x00640064, 0x40000000, 0, 0, 0x5, 0]))), 0x80018,
     [0x123, 0x124, 0, 8, 0x00640064, 0x40000000, 0, 0, 5, 0], by decide +kernel, rfl, rfl, by decide +kernel, by decide +kernel, by decide +kernel,
     by decide +kernel, by decide +kernel⟩⟩

theorem witness_MessageInstructions_14 :
    (∃ (s : State) (e : Fin 8) (c : Nat) (w : Word) (x : Word) (h : HWord), atWords s e c 0x15 w x = true ∧ h = fieldsOf w x ∧ (bare h && onCan s c &&
      (refOf s c h.e).isSome) = false) ∧
    (∃ (s : State) (e : Fin 8) (c : Nat) (w : Word) (h : HWord), atWord s e c 0x15 w = true ∧ h = fieldsOf w 0#32) ∧
    (∃ (s : State) (e : Fin 8) (c : Nat) (w : Word) (x : Word) (h : HWord) (b : State) (a : Nat) (q : Nat) (d : List Word), atWords s e c 0x16 w x = true
      ∧ h = fieldsOf w x ∧ b = (begunX e c 0x16 s) ∧ noK h = true ∧ h.a = 0 ∧ onCan s c = true ∧ refOf s c h.e = some a ∧ resQueue s c = some q ∧ qVar s q =
      true ∧ fetchWords b c a 10 = .ok d ∧ xferOk s c false d = true) :=
  ⟨⟨hoS [iw 0x15 0 0 1 1 0, 0x18], 2, 3, iw 0x15 0 0 1 1 0, 0x18, fieldsOf (iw 0x15 0 0 1 1 0) (0x18), by decide +kernel, rfl, by decide +kernel⟩,
   ⟨hoS [iw 0x15 0 0 1 0 0], 2, 3, iw 0x15 0 0 1 0 0, fieldsOf (iw 0x15 0 0 1 0 0) (0), by decide +kernel, rfl⟩,
   ⟨(fun s => (((((s.put (.CTX_PARTNER_KIND 3) 1).put (.CTX_PARTNER_PORT 3) 1).set1 (.CTX_BIND_RESQ_EN 3)).put (.CTX_BIND_RESQ 3) 6).put (.Q_CFG_ESIZE 6)
     5).put (.Q_CFG_DEPTH 6) 12) (hoS [iw 0x16 5 0 1 1 0, 0x18, 0x123, 0x124, 0, 0x00000008, 0x00640064, 0, 0, 0x00050000, 0x5, 0]), 2, 3, iw 0x16 5 0 1 1
     0, 0x18, fieldsOf (iw 0x16 5 0 1 1 0) (0x18), (begunX 2 3 0x16 ((fun s => (((((s.put (.CTX_PARTNER_KIND 3) 1).put (.CTX_PARTNER_PORT 3) 1).set1
     (.CTX_BIND_RESQ_EN 3)).put (.CTX_BIND_RESQ 3) 6).put (.Q_CFG_ESIZE 6) 5).put (.Q_CFG_DEPTH 6) 12) (hoS [iw 0x16 5 0 1 1 0, 0x18, 0x123, 0x124, 0,
     0x00000008, 0x00640064, 0, 0, 0x00050000, 0x5, 0]))), 0x80018, 6, [0x123, 0x124, 0, 8, 0x00640064, 0, 0, 0x00050000, 5, 0], by decide +kernel, rfl,
     rfl, by decide +kernel, by decide +kernel, by decide +kernel, by decide +kernel, by decide +kernel, by decide +kernel, by decide +kernel,
     by decide +kernel⟩⟩

theorem witness_MessageInstructions_15 :
    (∃ (s : State) (e : Fin 8) (c : Nat) (w : Word) (x : Word) (h : HWord) (b : State) (a : Nat) (q : Nat) (d : List Word), atWords s e c 0x16 w x = true
      ∧ h = fieldsOf w x ∧ b = (begunX e c 0x16 s) ∧ noK h = true ∧ h.a = 0 ∧ onCan s c = true ∧ refOf s c h.e = some a ∧ resQueue s c = some q ∧ qVar s q =
      true ∧ fetchWords b c a 10 = .ok d ∧ xferOk s c false d = true ∧ (s.ctx c).inbox = [] ∧ (s.ctx c).evOff = false ∧ (s.ctx c).evAbs = false ∧ (s.ctx
      c).resv = none) ∧
    (∃ (s : State) (e : Fin 8) (c : Nat) (w : Word) (x : Word) (h : HWord), atWords s e c 0x16 w x = true ∧ h = fieldsOf w x ∧ (noK h && h.a == 0 && onCan
      s c && (refOf s c h.e).isSome && ((resQueue s c).map (qVar s)).getD false) = false) ∧
    (∃ (s : State) (e : Fin 8) (c : Nat) (w : Word) (h : HWord), atWord s e c 0x16 w = true ∧ h = fieldsOf w 0#32) :=
  ⟨⟨(fun s => (((((s.put (.CTX_PARTNER_KIND 3) 1).put (.CTX_PARTNER_PORT 3) 1).set1 (.CTX_BIND_RESQ_EN 3)).put (.CTX_BIND_RESQ 3) 6).put (.Q_CFG_ESIZE 6)
     5).put (.Q_CFG_DEPTH 6) 12) (hoS [iw 0x16 5 0 1 1 0, 0x18, 0x123, 0x124, 0, 0x00000008, 0x00640064, 0, 0, 0x00050000, 0x5, 0]), 2, 3, iw 0x16 5 0 1 1
     0, 0x18, fieldsOf (iw 0x16 5 0 1 1 0) (0x18), (begunX 2 3 0x16 ((fun s => (((((s.put (.CTX_PARTNER_KIND 3) 1).put (.CTX_PARTNER_PORT 3) 1).set1
     (.CTX_BIND_RESQ_EN 3)).put (.CTX_BIND_RESQ 3) 6).put (.Q_CFG_ESIZE 6) 5).put (.Q_CFG_DEPTH 6) 12) (hoS [iw 0x16 5 0 1 1 0, 0x18, 0x123, 0x124, 0,
     0x00000008, 0x00640064, 0, 0, 0x00050000, 0x5, 0]))), 0x80018, 6, [0x123, 0x124, 0, 8, 0x00640064, 0, 0, 0x00050000, 5, 0], by decide +kernel, rfl,
     rfl, by decide +kernel, by decide +kernel, by decide +kernel, by decide +kernel, by decide +kernel, by decide +kernel, by decide +kernel,
     by decide +kernel, by decide +kernel, by decide +kernel, by decide +kernel, by decide +kernel⟩,
   ⟨hoS [iw 0x16 0 0 1 1 0, 0x18], 2, 3, iw 0x16 0 0 1 1 0, 0x18, fieldsOf (iw 0x16 0 0 1 1 0) (0x18), by decide +kernel, rfl, by decide +kernel⟩,
   ⟨hoS [iw 0x16 0 0 1 0 0], 2, 3, iw 0x16 0 0 1 0 0, fieldsOf (iw 0x16 0 0 1 0 0) (0), by decide +kernel, rfl⟩⟩

theorem witness_UnitAndResultInstructions_1 :
    (∃ (s : State) (e : Fin 8) (c : Nat) (w : Word) (h : HWord) (p : Word × State), atWord s e c 0x26 w = true ∧ h = fieldsOf w 0#32 ∧ h.i = true ∧
      hoistAddr (regAddr s c h true) = true ∧ p = busRead (.eng e) (regAddr s c h true) (begun e c 0x26 s)) ∧
    (∃ (s : State) (e : Fin 8) (c : Nat) (w : Word) (x : Word) (h : HWord) (p : Word × State), atWords s e c 0x26 w x = true ∧ h = fieldsOf w x ∧ noK h =
      true ∧ h.a = 0 ∧ hoistAddr x.toNat = true ∧ p = busRead (.eng e) x.toNat (begunX e c 0x26 s)) ∧
    (∃ (s : State) (e : Fin 8) (c : Nat) (w : Word) (h : HWord), atWord s e c 0x26 w = true ∧ h = fieldsOf w 0#32 ∧ (h.i && hoistAddr (regAddr s c h
      true)) = false) :=
  ⟨⟨hoS [iw 0x26 5 0 1 0 0x24], 2, 3, iw 0x26 5 0 1 0 0x24, fieldsOf (iw 0x26 5 0 1 0 0x24) (0), busRead (.eng 2) (regAddr (hoS [iw 0x26 5 0 1 0 0x24]) 3
     (fieldsOf (iw 0x26 5 0 1 0 0x24) 0) true) (begun 2 3 0x26 (hoS [iw 0x26 5 0 1 0 0x24])), by decide +kernel, rfl, by decide +kernel, by decide +kernel,
     rfl⟩,
   ⟨hoS [iw 0x26 5 0 1 1 0, 0x2000], 2, 3, iw 0x26 5 0 1 1 0, 0x2000, fieldsOf (iw 0x26 5 0 1 1 0) (0x2000), busRead (.eng 2) 0x2000 (begunX 2 3 0x26
     (hoS [iw 0x26 5 0 1 1 0, 0x2000])), by decide +kernel, rfl, by decide +kernel, by decide +kernel, by decide +kernel, rfl⟩,
   ⟨hoS [iw 0x26 5 0 1 0 0x25], 2, 3, iw 0x26 5 0 1 0 0x25, fieldsOf (iw 0x26 5 0 1 0 0x25) (0), by decide +kernel, rfl, by decide +kernel⟩⟩

theorem witness_UnitAndResultInstructions_2 :
    (∃ (s : State) (e : Fin 8) (c : Nat) (w : Word) (x : Word) (h : HWord), atWords s e c 0x26 w x = true ∧ h = fieldsOf w x ∧ (noK h && h.a == 0 &&
      hoistAddr x.toNat) = false) ∧
    (∃ (s : State) (e : Fin 8) (c : Nat) (w : Word) (h : HWord) (g : Nat) (n : Nat) (v : Word), atWord s e c 0x27 w = true ∧ h = fieldsOf w 0#32 ∧ h.i =
      true ∧ g = regAddr s c h false ∧ hoistAddr g = true ∧ v = getV s c h.d ∧ n = (g - 0x20000) / 0x100 ∧ 0x20000 ≤ g ∧ g < 0x30000 ∧ isDO n = true ∧ g %
      0x100 = 0x44 ∧ doRefused s n (bitAt v 0) = false) ∧
    (∃ (s : State) (e : Fin 8) (c : Nat) (w : Word) (h : HWord) (g : Nat) (n : Nat) (v : Word), atWord s e c 0x27 w = true ∧ h = fieldsOf w 0#32 ∧ h.i =
      true ∧ g = regAddr s c h false ∧ hoistAddr g = true ∧ v = getV s c h.d ∧ n = (g - 0x20000) / 0x100 ∧ 0x20000 ≤ g ∧ g < 0x30000 ∧ isDO n = true ∧ g %
      0x100 = 0x44 ∧ doRefused s n (bitAt v 0) = true) :=
  ⟨⟨hoS [iw 0x26 5 0 1 1 0, 0xC0000], 2, 3, iw 0x26 5 0 1 1 0, 0xC0000, fieldsOf (iw 0x26 5 0 1 1 0) (0xC0000), by decide +kernel, rfl,
     by decide +kernel⟩,
   ⟨(fun s => setV 3 4 0x20000 s) (hoS [iw 0x27 1 4 1 0 0x1844]), 2, 3, iw 0x27 1 4 1 0 0x1844, fieldsOf (iw 0x27 1 4 1 0 0x1844) (0), 0x21844, 24,
     0x80000005, by decide +kernel, rfl, by decide +kernel, by decide +kernel, by decide +kernel, by decide +kernel, by decide +kernel, by decide +kernel,
     by decide +kernel, by decide +kernel, by decide +kernel, by decide +kernel⟩,
   ⟨(fun s => setV 3 4 0x20000 ((s.set1 (.CH_DO_CFG_PAIR 24)).set1 (.CH_DO_CFG_PAIR 25))) (hoS [iw 0x27 1 4 1 0 0x1944]), 2, 3, iw 0x27 1 4 1 0 0x1944,
     fieldsOf (iw 0x27 1 4 1 0 0x1944) (0), 0x21944, 25, 0x80000005, by decide +kernel, rfl, by decide +kernel, by decide +kernel, by decide +kernel,
     by decide +kernel, by decide +kernel, by decide +kernel, by decide +kernel, by decide +kernel, by decide +kernel, by decide +kernel⟩⟩

theorem witness_UnitAndResultInstructions_3 :
    (∃ (s : State) (e : Fin 8) (c : Nat) (w : Word) (h : HWord) (g : Nat) (n : Nat) (v : Word), atWord s e c 0x27 w = true ∧ h = fieldsOf w 0#32 ∧ h.i =
      true ∧ g = regAddr s c h false ∧ hoistAddr g = true ∧ v = getV s c h.d ∧ n = (g - 0x20000) / 0x100 ∧ 0x20000 ≤ g ∧ g < 0x30000 ∧ isAO n = true ∧ g %
      0x100 = 0x88) ∧
    (∃ (s : State) (e : Fin 8) (c : Nat) (w : Word) (h : HWord) (g : Nat) (u : Nat) (v : Word), atWord s e c 0x27 w = true ∧ h = fieldsOf w 0#32 ∧ h.i =
      true ∧ g = regAddr s c h false ∧ hoistAddr g = true ∧ v = getV s c h.d ∧ u = (g - 0x3000) / 0x40 ∧ 0x3000 ≤ g ∧ g < 0x3200 ∧ g % 0x40 = 0x08 ∧ bits v
      3 0 = 1 ∧ s.get (.CV_CFG_WIDTH u) ≠ 0 ∧ (s.cv u).hold ≠ .free ∧ (s.cv u).hold ≠ .ctx c) ∧
    (∃ (s : State) (e : Fin 8) (c : Nat) (w : Word) (h : HWord) (g : Nat) (v : Word), atWord s e c 0x27 w = true ∧ h = fieldsOf w 0#32 ∧ h.i = true ∧ g =
      regAddr s c h false ∧ hoistAddr g = true ∧ v = getV s c h.d ∧ wrrBlock g = true ∧ (decide (0x20000 ≤ g) && decide (g < 0x30000) && ((isDO ((g -
      0x20000) / 0x100) && g % 0x100 == 0x44) || (isAO ((g - 0x20000) / 0x100) && g % 0x100 == 0x88))) = false ∧ (decide (0x3000 ≤ g) && decide (g < 0x3200)
      && g % 0x40 == 0x08 && bits v 3 0 == 1) = false) :=
  ⟨⟨(fun s => setV 3 4 0x20000 s) (hoS [iw 0x27 1 4 1 0 0x1E88]), 2, 3, iw 0x27 1 4 1 0 0x1E88, fieldsOf (iw 0x27 1 4 1 0 0x1E88) (0), 0x21E88, 30,
     0x80000005, by decide +kernel, rfl, by decide +kernel, by decide +kernel, by decide +kernel, by decide +kernel, by decide +kernel, by decide +kernel,
     by decide +kernel, by decide +kernel, by decide +kernel⟩,
   ⟨(fun s => setV 3 1 1 (((s.put (.CV_CFG_WIDTH 2) 16).setCv 2 { hold := .ctx 4 }))) (hoS [iw 0x27 1 0 1 0 0x3088]), 2, 3, iw 0x27 1 0 1 0 0x3088,
     fieldsOf (iw 0x27 1 0 1 0 0x3088) (0), 0x3088, 2, 0x00000001, by decide +kernel, rfl, by decide +kernel, by decide +kernel, by decide +kernel,
     by decide +kernel, by decide +kernel, by decide +kernel, by decide +kernel, by decide +kernel, by decide +kernel, by decide +kernel,
     by decide +kernel, by decide +kernel⟩,
   ⟨hoS [iw 0x27 2 0 1 0 0x3000], 2, 3, iw 0x27 2 0 1 0 0x3000, fieldsOf (iw 0x27 2 0 1 0 0x3000) (0), 0x3000, 3, by decide +kernel, rfl,
     by decide +kernel, by decide +kernel, by decide +kernel, by decide +kernel, by decide +kernel, by decide +kernel, by decide +kernel⟩⟩

theorem witness_UnitAndResultInstructions_4 :
    (∃ (s : State) (e : Fin 8) (c : Nat) (w : Word) (h : HWord) (g : Nat), atWord s e c 0x27 w = true ∧ h = fieldsOf w 0#32 ∧ h.i = true ∧ g = regAddr s c
      h false ∧ hoistAddr g = true ∧ wrrBlock g = false) ∧
    (∃ (s : State) (e : Fin 8) (c : Nat) (w : Word) (x : Word) (h : HWord) (g : Nat) (n : Nat) (v : Word), atWords s e c 0x27 w x = true ∧ h = fieldsOf w
      x ∧ noK h = true ∧ h.a ≤ 1 ∧ g = x.toNat ∧ hoistAddr g = true ∧ v = getV s c h.d ∧ n = (g - 0x20000) / 0x100 ∧ 0x20000 ≤ g ∧ g < 0x30000 ∧ isDO n =
      true ∧ g % 0x100 = 0x44 ∧ doRefused s n (bitAt v 0) = false) ∧
    (∃ (s : State) (e : Fin 8) (c : Nat) (w : Word) (x : Word) (h : HWord) (g : Nat) (n : Nat) (v : Word), atWords s e c 0x27 w x = true ∧ h = fieldsOf w
      x ∧ noK h = true ∧ h.a ≤ 1 ∧ g = x.toNat ∧ hoistAddr g = true ∧ v = getV s c h.d ∧ n = (g - 0x20000) / 0x100 ∧ 0x20000 ≤ g ∧ g < 0x30000 ∧ isDO n =
      true ∧ g % 0x100 = 0x44 ∧ doRefused s n (bitAt v 0) = true) :=
  ⟨⟨hoS [iw 0x27 2 0 1 0 0x10], 2, 3, iw 0x27 2 0 1 0 0x10, fieldsOf (iw 0x27 2 0 1 0 0x10) (0), 0x10, by decide +kernel, rfl, by decide +kernel,
     by decide +kernel, by decide +kernel, by decide +kernel⟩,
   ⟨hoS [iw 0x27 1 0 1 1 0, 0x21844], 2, 3, iw 0x27 1 0 1 1 0, 0x21844, fieldsOf (iw 0x27 1 0 1 1 0) (0x21844), 0x21844, 24, 0x80000005,
     by decide +kernel, rfl, by decide +kernel, by decide +kernel, by decide +kernel, by decide +kernel, by decide +kernel, by decide +kernel,
     by decide +kernel, by decide +kernel, by decide +kernel, by decide +kernel, by decide +kernel⟩,
   ⟨(fun s => ((s.set1 (.CH_DO_CFG_PAIR 24)).set1 (.CH_DO_CFG_PAIR 25))) (hoS [iw 0x27 1 0 1 1 0, 0x21944]), 2, 3, iw 0x27 1 0 1 1 0, 0x21944, fieldsOf
     (iw 0x27 1 0 1 1 0) (0x21944), 0x21944, 25, 0x80000005, by decide +kernel, rfl, by decide +kernel, by decide +kernel, by decide +kernel,
     by decide +kernel, by decide +kernel, by decide +kernel, by decide +kernel, by decide +kernel, by decide +kernel, by decide +kernel,
     by decide +kernel⟩⟩

theorem witness_UnitAndResultInstructions_5 :
    (∃ (s : State) (e : Fin 8) (c : Nat) (w : Word) (x : Word) (h : HWord) (g : Nat) (n : Nat) (v : Word), atWords s e c 0x27 w x = true ∧ h = fieldsOf w
      x ∧ noK h = true ∧ h.a ≤ 1 ∧ g = x.toNat ∧ hoistAddr g = true ∧ v = getV s c h.d ∧ n = (g - 0x20000) / 0x100 ∧ 0x20000 ≤ g ∧ g < 0x30000 ∧ isAO n =
      true ∧ g % 0x100 = 0x88) ∧
    (∃ (s : State) (e : Fin 8) (c : Nat) (w : Word) (x : Word) (h : HWord) (g : Nat) (u : Nat) (v : Word), atWords s e c 0x27 w x = true ∧ h = fieldsOf w
      x ∧ noK h = true ∧ h.a ≤ 1 ∧ g = x.toNat ∧ hoistAddr g = true ∧ v = getV s c h.d ∧ u = (g - 0x3000) / 0x40 ∧ 0x3000 ≤ g ∧ g < 0x3200 ∧ g % 0x40 = 0x08
      ∧ bits v 3 0 = 1 ∧ s.get (.CV_CFG_WIDTH u) ≠ 0 ∧ (s.cv u).hold ≠ .free ∧ (s.cv u).hold ≠ .ctx c) ∧
    (∃ (s : State) (e : Fin 8) (c : Nat) (w : Word) (x : Word) (h : HWord) (g : Nat) (v : Word), atWords s e c 0x27 w x = true ∧ h = fieldsOf w x ∧ noK h
      = true ∧ h.a ≤ 1 ∧ g = x.toNat ∧ hoistAddr g = true ∧ v = getV s c h.d ∧ wrrBlock g = true ∧ (decide (0x20000 ≤ g) && decide (g < 0x30000) && ((isDO
      ((g - 0x20000) / 0x100) && g % 0x100 == 0x44) || (isAO ((g - 0x20000) / 0x100) && g % 0x100 == 0x88))) = false ∧ (decide (0x3000 ≤ g) && decide (g <
      0x3200) && g % 0x40 == 0x08 && bits v 3 0 == 1) = false) :=
  ⟨⟨hoS [iw 0x27 1 0 1 1 0, 0x21E88], 2, 3, iw 0x27 1 0 1 1 0, 0x21E88, fieldsOf (iw 0x27 1 0 1 1 0) (0x21E88), 0x21E88, 30, 0x80000005,
     by decide +kernel, rfl, by decide +kernel, by decide +kernel, by decide +kernel, by decide +kernel, by decide +kernel, by decide +kernel,
     by decide +kernel, by decide +kernel, by decide +kernel, by decide +kernel⟩,
   ⟨(fun s => setV 3 1 1 (((s.put (.CV_CFG_WIDTH 2) 16).setCv 2 { hold := .ctx 4 }))) (hoS [iw 0x27 1 0 1 1 0, 0x3088]), 2, 3, iw 0x27 1 0 1 1 0, 0x3088,
     fieldsOf (iw 0x27 1 0 1 1 0) (0x3088), 0x3088, 2, 0x00000001, by decide +kernel, rfl, by decide +kernel, by decide +kernel, by decide +kernel,
     by decide +kernel, by decide +kernel, by decide +kernel, by decide +kernel, by decide +kernel, by decide +kernel, by decide +kernel,
     by decide +kernel, by decide +kernel, by decide +kernel⟩,
   ⟨hoS [iw 0x27 2 0 1 1 0, 0x3000], 2, 3, iw 0x27 2 0 1 1 0, 0x3000, fieldsOf (iw 0x27 2 0 1 1 0) (0x3000), 0x3000, 3, by decide +kernel, rfl,
     by decide +kernel, by decide +kernel, by decide +kernel, by decide +kernel, by decide +kernel, by decide +kernel, by decide +kernel,
     by decide +kernel⟩⟩

theorem witness_UnitAndResultInstructions_6 :
    (∃ (s : State) (e : Fin 8) (c : Nat) (w : Word) (x : Word) (h : HWord) (g : Nat), atWords s e c 0x27 w x = true ∧ h = fieldsOf w x ∧ noK h = true ∧
      h.a ≤ 1 ∧ g = x.toNat ∧ hoistAddr g = true ∧ wrrBlock g = false) ∧
    (∃ (s : State) (e : Fin 8) (c : Nat) (w : Word) (h : HWord), atWord s e c 0x27 w = true ∧ h = fieldsOf w 0#32 ∧ (h.i && hoistAddr (regAddr s c h
      false)) = false) ∧
    (∃ (s : State) (e : Fin 8) (c : Nat) (w : Word) (x : Word) (h : HWord), atWords s e c 0x27 w x = true ∧ h = fieldsOf w x ∧ (noK h && decide (h.a ≤ 1)
      && hoistAddr x.toNat) = false) :=
  ⟨⟨hoS [iw 0x27 2 1 1 1 0, 0x10], 2, 3, iw 0x27 2 1 1 1 0, 0x10, fieldsOf (iw 0x27 2 1 1 1 0) (0x10), 0x10, by decide +kernel, rfl, by decide +kernel,
     by decide +kernel, by decide +kernel, by decide +kernel, by decide +kernel⟩,
   ⟨hoS [iw 0x27 5 0 1 0 0x25], 2, 3, iw 0x27 5 0 1 0 0x25, fieldsOf (iw 0x27 5 0 1 0 0x25) (0), by decide +kernel, rfl, by decide +kernel⟩,
   ⟨hoS [iw 0x27 5 2 1 1 0, 0x3000], 2, 3, iw 0x27 5 2 1 1 0, 0x3000, fieldsOf (iw 0x27 5 2 1 1 0) (0x3000), by decide +kernel, rfl, by decide +kernel⟩⟩

theorem witness_UnitAndResultInstructions_7 :
    (∃ (s : State) (e : Fin 8) (c : Nat) (w : Word) (h : HWord) (u : Nat), atWord s e c 0x28 w = true ∧ h = fieldsOf w 0#32 ∧ bare h = true ∧ cvOf s c =
      some u ∧ ((s.cv u).hold = .free ∨ (s.cv u).hold = .ctx c)) ∧
    (∃ (s : State) (e : Fin 8) (c : Nat) (w : Word) (h : HWord) (u : Nat), atWord s e c 0x28 w = true ∧ h = fieldsOf w 0#32 ∧ bare h = true ∧ cvOf s c =
      some u ∧ (s.cv u).hold ≠ .free ∧ (s.cv u).hold ≠ .ctx c) ∧
    (∃ (s : State) (e : Fin 8) (c : Nat) (w : Word) (h : HWord), atWord s e c 0x28 w = true ∧ h = fieldsOf w 0#32 ∧ (bare h && (cvOf s c).isSome) = false) :=
  ⟨⟨(fun s => (((s.set1 (.CTX_BIND_CVU_EN 3)).put (.CTX_BIND_CVU 3) 2).put (.CV_CFG_WIDTH 2) 16)) (hoS [iw 0x28 0 0 1 0 0]), 2, 3, iw 0x28 0 0 1 0 0,
     fieldsOf (iw 0x28 0 0 1 0 0) (0), 2, by decide +kernel, rfl, by decide +kernel, by decide +kernel, by decide +kernel⟩,
   ⟨(fun s => (((s.set1 (.CTX_BIND_CVU_EN 3)).put (.CTX_BIND_CVU 3) 2).put (.CV_CFG_WIDTH 2) 16).setCv 2 { hold := .ctx 4 }) (hoS [iw 0x28 0 0 1 0 0]),
     2, 3, iw 0x28 0 0 1 0 0, fieldsOf (iw 0x28 0 0 1 0 0) (0), 2, by decide +kernel, rfl, by decide +kernel, by decide +kernel, by decide +kernel,
     by decide +kernel⟩,
   ⟨hoS [iw 0x28 0 0 1 0 0], 2, 3, iw 0x28 0 0 1 0 0, fieldsOf (iw 0x28 0 0 1 0 0) (0), by decide +kernel, rfl, by decide +kernel⟩⟩

theorem witness_UnitAndResultInstructions_8 :
    (∃ (s : State) (e : Fin 8) (c : Nat) (w : Word), atExt s e c 0x28 w = true) ∧
    (∃ (s : State) (e : Fin 8) (c : Nat) (w : Word) (h : HWord) (u : Nat), atWord s e c 0x29 w = true ∧ h = fieldsOf w 0#32 ∧ op2Ok h = true ∧ h.a = 3 ∧
      cvOf s c = some u ∧ (s.cv u).hold = .ctx c ∧ (s.cv u).dma = none) ∧
    (∃ (s : State) (e : Fin 8) (c : Nat) (w : Word) (h : HWord) (u : Nat) (l : List Byte) (o : Nat) (n : Nat), atWord s e c 0x29 w = true ∧ h = fieldsOf w
      0#32 ∧ op2Ok h = true ∧ h.a ≤ 2 ∧ cvOf s c = some u ∧ (s.cv u).hold = .ctx c ∧ (s.cv u).dma = none ∧ feedSource s c h.a = some l ∧ o = (op2z s c
      h).toNat ∧ n = (getV s c h.d).toNat) :=
  ⟨⟨hoS [iw 0x28 0 0 1 1 0], 2, 3, iw 0x28 0 0 1 1 0, by decide +kernel⟩,
   ⟨(fun s => (((s.set1 (.CTX_BIND_CVU_EN 3)).put (.CTX_BIND_CVU 3) 2).put (.CV_CFG_WIDTH 2) 16).setCv 2 { hold := .ctx 3, run := 77 }) (hoS [iw 0x29 1 3
     1 0 0]), 2, 3, iw 0x29 1 3 1 0 0, fieldsOf (iw 0x29 1 3 1 0 0) (0), 2, by decide +kernel, rfl, by decide +kernel, by decide +kernel,
     by decide +kernel, by decide +kernel, by decide +kernel⟩,
   ⟨(fun s => (((s.set1 (.CTX_BIND_CVU_EN 3)).put (.CTX_BIND_CVU 3) 2).put (.CV_CFG_WIDTH 2) 16).setCv 2 { hold := .ctx 3, run := 77 }) (hoS [iw 0x29 2 0
     1 0 4]), 2, 3, iw 0x29 2 0 1 0 4, fieldsOf (iw 0x29 2 0 1 0 4) (0), 2, varBytes ((fun s => (((s.set1 (.CTX_BIND_CVU_EN 3)).put (.CTX_BIND_CVU 3)
     2).put (.CV_CFG_WIDTH 2) 16).setCv 2 { hold := .ctx 3, run := 77 }) (hoS [iw 0x29 2 0 1 0 4])) 3, 4, 3, by decide +kernel, rfl, by decide +kernel,
     by decide +kernel, by decide +kernel, by decide +kernel, by decide +kernel, by decide +kernel, by decide +kernel, by decide +kernel⟩⟩

theorem witness_UnitAndResultInstructions_9 :
    (∃ (s : State) (e : Fin 8) (c : Nat) (w : Word) (h : HWord), atWord s e c 0x29 w = true ∧ h = fieldsOf w 0#32 ∧ (op2Ok h && decide (h.a ≤ 3) &&
      holdsCv s c && (h.a == 3 || (feedSource s c h.a).isSome)) = false) ∧
    (∃ (s : State) (e : Fin 8) (c : Nat) (w : Word), atExt s e c 0x29 w = true) ∧
    (∃ (s : State) (e : Fin 8) (c : Nat) (w : Word) (h : HWord) (u : Nat) (n : Nat), atWord s e c 0x2A w = true ∧ h = fieldsOf w 0#32 ∧ op2Ok h = true ∧
      h.a = 0 ∧ cvOf s c = some u ∧ (s.cv u).hold = .ctx c ∧ n = (cvPar s u).finish (s.cv u).run) :=
  ⟨⟨hoS [iw 0x29 1 3 1 0 0], 2, 3, iw 0x29 1 3 1 0 0, fieldsOf (iw 0x29 1 3 1 0 0) (0), by decide +kernel, rfl, by decide +kernel⟩,
   ⟨hoS [iw 0x29 0 0 1 1 0], 2, 3, iw 0x29 0 0 1 1 0, by decide +kernel⟩,
   ⟨(fun s => (((s.set1 (.CTX_BIND_CVU_EN 3)).put (.CTX_BIND_CVU 3) 2).put (.CV_CFG_WIDTH 2) 16).setCv 2 { hold := .ctx 3, run := 77 }) (hoS [iw 0x2A 6 0
     1 0 0]), 2, 3, iw 0x2A 6 0 1 0 0, fieldsOf (iw 0x2A 6 0 1 0 0) (0), 2, (cvPar ((fun s => (((s.set1 (.CTX_BIND_CVU_EN 3)).put (.CTX_BIND_CVU 3) 2).put
     (.CV_CFG_WIDTH 2) 16).setCv 2 { hold := .ctx 3, run := 77 }) (hoS [iw 0x2A 6 0 1 0 0])) 2).finish 77, by decide +kernel, rfl, by decide +kernel,
     by decide +kernel, by decide +kernel, by decide +kernel, by decide +kernel⟩⟩

theorem witness_UnitAndResultInstructions_10 :
    (∃ (s : State) (e : Fin 8) (c : Nat) (w : Word) (h : HWord) (u : Nat) (n : Nat) (k : Nat) (v : Bool), atWord s e c 0x2A w = true ∧ h = fieldsOf w 0#32
      ∧ op2Ok h = true ∧ h.a = 1 ∧ h.i = false ∧ cvOf s c = some u ∧ (s.cv u).hold = .ctx c ∧ n = (cvPar s u).finish (s.cv u).run ∧ k = min (cvPar s u).w 32
      ∧ v = decide (n % 2 ^ k = (op2z s c h).toNat % 2 ^ k)) ∧
    (∃ (s : State) (e : Fin 8) (c : Nat) (w : Word) (h : HWord) (u : Nat) (n : Nat) (k : Nat) (l : List Byte) (v : Bool), atWord s e c 0x2A w = true ∧ h =
      fieldsOf w 0#32 ∧ op2Ok h = true ∧ (h.a = 2 ∨ h.a = 3) ∧ cvOf s c = some u ∧ (s.cv u).hold = .ctx c ∧ resvMsg s c = some l ∧ n = (cvPar s u).finish
      (s.cv u).run ∧ k = ((cvPar s u).w + 7) / 8 ∧ v = (decide (k ≤ l.length) && (if h.a = 3 then beNat (l.drop (l.length - k)) else leNat (l.drop (l.length
      - k))) == n)) ∧
    (∃ (s : State) (e : Fin 8) (c : Nat) (w : Word) (h : HWord), atWord s e c 0x2A w = true ∧ h = fieldsOf w 0#32 ∧ (op2Ok h && decide (h.a ≤ 3) && (h.a
      != 1 || !h.i) && holdsCv s c && (decide (h.a < 2) || (resvMsg s c).isSome)) = false) :=
  ⟨⟨(fun s => (((s.set1 (.CTX_BIND_CVU_EN 3)).put (.CTX_BIND_CVU 3) 2).put (.CV_CFG_WIDTH 2) 16).setCv 2 { hold := .ctx 3, run := 77 }) (hoS [iw 0x2A 6 1
     0 0 2]), 2, 3, iw 0x2A 6 1 0 0 2, fieldsOf (iw 0x2A 6 1 0 0 2) (0), 2, (cvPar ((fun s => (((s.set1 (.CTX_BIND_CVU_EN 3)).put (.CTX_BIND_CVU 3) 2).put
     (.CV_CFG_WIDTH 2) 16).setCv 2 { hold := .ctx 3, run := 77 }) (hoS [iw 0x2A 6 1 0 0 2])) 2).finish 77, 16, false, by decide +kernel, rfl,
     by decide +kernel, by decide +kernel, by decide +kernel, by decide +kernel, by decide +kernel, by decide +kernel, by decide +kernel,
     by decide +kernel⟩,
   ⟨(fun s => ((((s.set1 (.CTX_BIND_CVU_EN 3)).put (.CTX_BIND_CVU 3) 2).put (.CV_CFG_WIDTH 2) 16).setCv 2 { hold := .ctx 3, run := 77 }).setQueue 100
     { ents := [{ pos := 0, len := 16, vis := false }] } |>.modCtx 3 (fun x => { x with resv := some (100, 0), resvLen := 2, resvBytes := [0, 77] })) (hoS
     [iw 0x2A 6 3 1 0 0]), 2, 3, iw 0x2A 6 3 1 0 0, fieldsOf (iw 0x2A 6 3 1 0 0) (0), 2, (cvPar ((fun s => ((((s.set1 (.CTX_BIND_CVU_EN 3)).put
     (.CTX_BIND_CVU 3) 2).put (.CV_CFG_WIDTH 2) 16).setCv 2 { hold := .ctx 3, run := 77 }).setQueue 100 { ents := [{ pos := 0, len := 16, vis := false }] }
     |>.modCtx 3 (fun x => { x with resv := some (100, 0), resvLen := 2, resvBytes := [0, 77] })) (hoS [iw 0x2A 6 3 1 0 0])) 2).finish 77, 2, [0, 77],
     true, by decide +kernel, rfl, by decide +kernel, by decide +kernel, by decide +kernel, by decide +kernel, by decide +kernel, by decide +kernel,
     by decide +kernel, by decide +kernel⟩,
   ⟨hoS [iw 0x2A 6 0 1 0 0], 2, 3, iw 0x2A 6 0 1 0 0, fieldsOf (iw 0x2A 6 0 1 0 0) (0), by decide +kernel, rfl, by decide +kernel⟩⟩

theorem witness_UnitAndResultInstructions_11 :
    (∃ (s : State) (e : Fin 8) (c : Nat) (w : Word), atExt s e c 0x2A w = true) ∧
    (∃ (s : State) (e : Fin 8) (c : Nat) (w : Word) (h : HWord) (n : Nat) (v : Bool), atWord s e c 0x2C w = true ∧ h = fieldsOf w 0#32 ∧ h.a ≤ 1 ∧ chanOf
      s c h 9 = some n ∧ isDO n = true ∧ v = (if h.i then h.k / 256 == 1 else bitAt (getV s c h.d) 0) ∧ doRefused s n v = false) ∧
    (∃ (s : State) (e : Fin 8) (c : Nat) (w : Word) (h : HWord) (n : Nat) (v : Bool), atWord s e c 0x2C w = true ∧ h = fieldsOf w 0#32 ∧ h.a = 1 ∧ chanOf
      s c h 9 = some n ∧ isDO n = true ∧ v = (if h.i then h.k / 256 == 1 else bitAt (getV s c h.d) 0) ∧ doRefused s n v = true) :=
  ⟨⟨hoS [iw 0x2A 0 0 1 1 0], 2, 3, iw 0x2A 0 0 1 1 0, by decide +kernel⟩,
   ⟨hoS [iw 0x2C 0 0 1 0 0x118], 2, 3, iw 0x2C 0 0 1 0 0x118, fieldsOf (iw 0x2C 0 0 1 0 0x118) (0), 24, true, by decide +kernel, rfl, by decide +kernel,
     by decide +kernel, by decide +kernel, by decide +kernel, by decide +kernel⟩,
   ⟨(fun s => (s.set1 (.CH_DO_CFG_PAIR 24)).set1 (.CH_DO_CFG_PAIR 25)) (hoS [iw 0x2C 0 1 1 0 0x119]), 2, 3, iw 0x2C 0 1 1 0 0x119, fieldsOf (iw 0x2C 0 1
     1 0 0x119) (0), 25, true, by decide +kernel, rfl, by decide +kernel, by decide +kernel, by decide +kernel, by decide +kernel, by decide +kernel⟩⟩

theorem witness_UnitAndResultInstructions_12 :
    (∃ (s : State) (e : Fin 8) (c : Nat) (w : Word) (h : HWord) (n : Nat) (v : Bool), atWord s e c 0x2C w = true ∧ h = fieldsOf w 0#32 ∧ h.a = 0 ∧ chanOf
      s c h 9 = some n ∧ isDO n = true ∧ v = (if h.i then h.k / 256 == 1 else bitAt (getV s c h.d) 0) ∧ doRefused s n v = true) ∧
    (∃ (s : State) (e : Fin 8) (c : Nat) (w : Word) (h : HWord), atWord s e c 0x2C w = true ∧ h = fieldsOf w 0#32 ∧ (decide (h.a < 2) && isDO ((chanOf s c
      h 9).getD 256)) = false) ∧
    (∃ (s : State) (e : Fin 8) (c : Nat) (w : Word), atExt s e c 0x2C w = true) :=
  ⟨⟨(fun s => (s.set1 (.CH_DO_CFG_PAIR 24)).set1 (.CH_DO_CFG_PAIR 25)) (hoS [iw 0x2C 0 0 1 0 0x119]), 2, 3, iw 0x2C 0 0 1 0 0x119, fieldsOf (iw 0x2C 0 0
     1 0 0x119) (0), 25, true, by decide +kernel, rfl, by decide +kernel, by decide +kernel, by decide +kernel, by decide +kernel, by decide +kernel⟩,
   ⟨hoS [iw 0x2C 0 2 1 0 24], 2, 3, iw 0x2C 0 2 1 0 24, fieldsOf (iw 0x2C 0 2 1 0 24) (0), by decide +kernel, rfl, by decide +kernel⟩,
   ⟨hoS [iw 0x2C 0 0 1 1 0], 2, 3, iw 0x2C 0 0 1 1 0, by decide +kernel⟩⟩

theorem witness_UnitAndResultInstructions_13 :
    (∃ (s : State) (e : Fin 8) (c : Nat) (w : Word) (h : HWord) (n : Nat), atWord s e c 0x2D w = true ∧ h = fieldsOf w 0#32 ∧ h.a = 0 ∧ chanOf s c h 8 =
      some n ∧ isAO n = true) ∧
    (∃ (s : State) (e : Fin 8) (c : Nat) (w : Word) (h : HWord), atWord s e c 0x2D w = true ∧ h = fieldsOf w 0#32 ∧ (h.a == 0 && isAO ((chanOf s c h
      8).getD 256)) = false) ∧
    (∃ (s : State) (e : Fin 8) (c : Nat) (w : Word), atExt s e c 0x2D w = true) :=
  ⟨⟨hoS [iw 0x2D 1 0 1 0 30], 2, 3, iw 0x2D 1 0 1 0 30, fieldsOf (iw 0x2D 1 0 1 0 30) (0), 30, by decide +kernel, rfl, by decide +kernel,
     by decide +kernel, by decide +kernel⟩,
   ⟨hoS [iw 0x2D 1 0 1 0 3], 2, 3, iw 0x2D 1 0 1 0 3, fieldsOf (iw 0x2D 1 0 1 0 3) (0), by decide +kernel, rfl, by decide +kernel⟩,
   ⟨hoS [iw 0x2D 0 0 1 1 0], 2, 3, iw 0x2D 0 0 1 1 0, by decide +kernel⟩⟩

theorem witness_UnitAndResultInstructions_14 :
    (∃ (s : State) (e : Fin 8) (c : Nat) (w : Word) (h : HWord) (n : Nat) (v : Word), atWord s e c 0x2E w = true ∧ h = fieldsOf w 0#32 ∧ chanOf s c h 8 =
      some n ∧ h.a ≤ 2 ∧ dinWord s n h.a = some v) ∧
    (∃ (s : State) (e : Fin 8) (c : Nat) (w : Word) (h : HWord) (n : Nat) (v : Word), atWord s e c 0x2E w = true ∧ h = fieldsOf w 0#32 ∧ chanOf s c h 8 =
      some n ∧ h.a = 4 ∧ h.d ≤ 14 ∧ isAN n = true ∧ v = lastWord s n) ∧
    (∃ (s : State) (e : Fin 8) (c : Nat) (w : Word) (h : HWord) (n : Nat), atWord s e c 0x2E w = true ∧ h = fieldsOf w 0#32 ∧ chanOf s c h 8 = some n ∧
      h.a = 5 ∧ isAN n = true) :=
  ⟨⟨hoS [iw 0x2E 5 0 1 0 3], 2, 3, iw 0x2E 5 0 1 0 3, fieldsOf (iw 0x2E 5 0 1 0 3) (0), 3, 0, by decide +kernel, rfl, by decide +kernel,
     by decide +kernel, by decide +kernel⟩,
   ⟨hoS [iw 0x2E 5 4 1 0 28], 2, 3, iw 0x2E 5 4 1 0 28, fieldsOf (iw 0x2E 5 4 1 0 28) (0), 28, lastWord (hoS [iw 0x2E 5 4 1 0 28]) 28, by decide +kernel,
     rfl, by decide +kernel, by decide +kernel, by decide +kernel, by decide +kernel, by decide +kernel⟩,
   ⟨hoS [iw 0x2E 5 5 1 0 28], 2, 3, iw 0x2E 5 5 1 0 28, fieldsOf (iw 0x2E 5 5 1 0 28) (0), 28, by decide +kernel, rfl, by decide +kernel,
     by decide +kernel, by decide +kernel⟩⟩

theorem witness_UnitAndResultInstructions_15 :
    (∃ (s : State) (e : Fin 8) (c : Nat) (w : Word) (h : HWord), atWord s e c 0x2E w = true ∧ h = fieldsOf w 0#32 ∧ ((dinWord s ((chanOf s c h 8).getD
      256) h.a).isSome && (h.a != 4 || decide (h.d ≤ 14))) = false) ∧
    (∃ (s : State) (e : Fin 8) (c : Nat) (w : Word), atExt s e c 0x2E w = true) ∧
    (∃ (s : State) (e : Fin 8) (c : Nat) (w : Word) (h : HWord) (i : Nat) (r : Nat), atWord s e c 0x2F w = true ∧ h = fieldsOf w 0#32 ∧ h.i = true ∧ h.k <
      2 ^ 9 ∧ h.a ≤ 3 ∧ i = h.k % 16 ∧ r = injResponse s i (h.k / 16) (h.a % 2 == 1) ∧ (r = injAccepted ∨ r = injHeld)) :=
  ⟨⟨hoS [iw 0x2E 5 3 1 0 28], 2, 3, iw 0x2E 5 3 1 0 28, fieldsOf (iw 0x2E 5 3 1 0 28) (0), by decide +kernel, rfl, by decide +kernel⟩,
   ⟨hoS [iw 0x2E 0 0 1 1 0], 2, 3, iw 0x2E 0 0 1 1 0, by decide +kernel⟩,
   ⟨(fun s => s.set1 (.TILE_FEED_LINK_A 2)) (hoS [iw 0x2F 5 0 1 0 0x12]), 2, 3, iw 0x2F 5 0 1 0 0x12, fieldsOf (iw 0x2F 5 0 1 0 0x12) (0), 2, injResponse
     ((fun s => s.set1 (.TILE_FEED_LINK_A 2)) (hoS [iw 0x2F 5 0 1 0 0x12])) 2 1 false, by decide +kernel, rfl, by decide +kernel, by decide +kernel,
     by decide +kernel, by decide +kernel, by decide +kernel, by decide +kernel⟩⟩

theorem witness_UnitAndResultInstructions_16 :
    (∃ (s : State) (e : Fin 8) (c : Nat) (w : Word) (h : HWord) (r : Nat), atWord s e c 0x2F w = true ∧ h = fieldsOf w 0#32 ∧ h.i = true ∧ h.k < 2 ^ 9 ∧
      (h.a = 2 ∨ h.a = 3) ∧ r = injResponse s (h.k % 16) (h.k / 16) (h.a % 2 == 1) ∧ r ≠ injAccepted ∧ r ≠ injHeld ∧ (r ≠ injBusy ∨ (s.tile (h.k %
      16)).inj.length < 4)) ∧
    (∃ (s : State) (e : Fin 8) (c : Nat) (w : Word) (h : HWord), atWord s e c 0x2F w = true ∧ h = fieldsOf w 0#32 ∧ h.i = true ∧ h.k < 2 ^ 9 ∧ h.a ≤ 3 ∧
      injResponse s (h.k % 16) (h.k / 16) (h.a % 2 == 1) = injBusy ∧ 4 ≤ (s.tile (h.k % 16)).inj.length) ∧
    (∃ (s : State) (e : Fin 8) (c : Nat) (w : Word) (h : HWord) (r : Nat), atWord s e c 0x2F w = true ∧ h = fieldsOf w 0#32 ∧ h.i = true ∧ h.k < 2 ^ 9 ∧
      h.a ≤ 1 ∧ r = injResponse s (h.k % 16) (h.k / 16) (h.a % 2 == 1) ∧ r ≠ injAccepted ∧ r ≠ injHeld ∧ (r ≠ injBusy ∨ (s.tile (h.k % 16)).inj.length < 4)) :=
  ⟨⟨hoS [iw 0x2F 5 2 1 0 0x1F2], 2, 3, iw 0x2F 5 2 1 0 0x1F2, fieldsOf (iw 0x2F 5 2 1 0 0x1F2) (0), injBadTarget, by decide +kernel, rfl,
     by decide +kernel, by decide +kernel, by decide +kernel, by decide +kernel, by decide +kernel, by decide +kernel, by decide +kernel⟩,
   ⟨(fun s => (s.set1 (.TILE_FEED_LINK_A 2)).modTile 2 (fun x =>
     { x with inj := [{ target := 1, tag := 0 }, { target := 1, tag := 0 }, { target := 1, tag := 0 }, { target := 1, tag := 0 }] })) (hoS [iw 0x2F 5 0 1 0
     0x12]), 2, 3, iw 0x2F 5 0 1 0 0x12, fieldsOf (iw 0x2F 5 0 1 0 0x12) (0), by decide +kernel, rfl, by decide +kernel, by decide +kernel,
     by decide +kernel, by decide +kernel, by decide +kernel⟩,
   ⟨hoS [iw 0x2F 5 0 1 0 0x1F2], 2, 3, iw 0x2F 5 0 1 0 0x1F2, fieldsOf (iw 0x2F 5 0 1 0 0x1F2) (0), injBadTarget, by decide +kernel, rfl,
     by decide +kernel, by decide +kernel, by decide +kernel, by decide +kernel, by decide +kernel, by decide +kernel, by decide +kernel⟩⟩

theorem witness_UnitAndResultInstructions_17 :
    (∃ (s : State) (e : Fin 8) (c : Nat) (w : Word) (h : HWord), atWord s e c 0x2F w = true ∧ h = fieldsOf w 0#32 ∧ (h.i && h.k / 2 ^ 9 == 0 && decide
      (h.a < 4)) = false) ∧
    (∃ (s : State) (e : Fin 8) (c : Nat) (w : Word), atExt s e c 0x2F w = true) ∧
    (∃ (s : State) (e : Fin 8) (c : Nat) (w : Word) (h : HWord) (q : Nat) (l : List Word), atWord s e c 0x30 w = true ∧ h = fieldsOf w 0#32 ∧ h.i = true ∧
      h.a ≤ 1 ∧ resQueue s c = some q ∧ pushEntry s c q h = some l ∧ qAccepts s q .active (4 * l.length) = true) :=
  ⟨⟨hoS [iw 0x2F 5 4 1 0 2], 2, 3, iw 0x2F 5 4 1 0 2, fieldsOf (iw 0x2F 5 4 1 0 2) (0), by decide +kernel, rfl, by decide +kernel⟩,
   ⟨hoS [iw 0x2F 0 0 1 1 0], 2, 3, iw 0x2F 0 0 1 1 0, by decide +kernel⟩,
   ⟨(fun s => ((((s.set1 (.CTX_BIND_RESQ_EN 3)).put (.CTX_BIND_RESQ 3) 100).put (.Q_CFG_ESIZE 100) 1).put (.Q_CFG_DEPTH 100) 3).set1 (.Q_CFG_HOST 100))
     (hoS [iw 0x30 1 0 1 0 0]), 2, 3, iw 0x30 1 0 1 0 0, fieldsOf (iw 0x30 1 0 1 0 0) (0), 100, [0x80000005, 3], by decide +kernel, rfl, by decide +kernel,
     by decide +kernel, by decide +kernel, by decide +kernel, by decide +kernel⟩⟩

theorem witness_UnitAndResultInstructions_18 :
    (∃ (s : State) (e : Fin 8) (c : Nat) (w : Word) (h : HWord) (q : Nat) (l : List Word), atWord s e c 0x30 w = true ∧ h = fieldsOf w 0#32 ∧ h.i = true ∧
      h.a ≤ 1 ∧ resQueue s c = some q ∧ pushEntry s c q h = some l ∧ qAccepts s q .active (4 * l.length) = false ∧ s.get (.Q_CFG_POLICY q) = 2 ∧ qForeign s
      q .active = false) ∧
    (∃ (s : State) (e : Fin 8) (c : Nat) (w : Word) (h : HWord) (q : Nat) (l : List Word), atWord s e c 0x30 w = true ∧ h = fieldsOf w 0#32 ∧ h.i = true ∧
      h.a ≤ 1 ∧ resQueue s c = some q ∧ pushEntry s c q h = some l ∧ qAccepts s q .active (4 * l.length) = false ∧ (s.get (.Q_CFG_POLICY q) ≠ 2 ∨ qForeign s
      q .active = true)) ∧
    (∃ (s : State) (e : Fin 8) (c : Nat) (w : Word) (h : HWord) (l : List Byte), atWord s e c 0x30 w = true ∧ h = fieldsOf w 0#32 ∧ h.i = true ∧ h.a = 2 ∧
      (resQueue s c).isSome = true ∧ resvMsg s c = some l) :=
  ⟨⟨(fun s => (((((s.set1 (.CTX_BIND_RESQ_EN 3)).put (.CTX_BIND_RESQ 3) 100).put (.Q_CFG_ESIZE 100) 1).put (.Q_CFG_DEPTH 100) 1).put (.Q_CFG_POLICY 100)
     2).set1 (.Q_CFG_HOST 100) |>.setQueue 100 { ents := [{ pos := 0, len := 8 }, { pos := 8, len := 8 }] }) (hoS [iw 0x30 1 0 1 0 0]), 2, 3, iw 0x30 1 0 1
     0 0, fieldsOf (iw 0x30 1 0 1 0 0) (0), 100, [0x80000005, 3], by decide +kernel, rfl, by decide +kernel, by decide +kernel, by decide +kernel,
     by decide +kernel, by decide +kernel, by decide +kernel, by decide +kernel⟩,
   ⟨(fun s => ((((s.set1 (.CTX_BIND_RESQ_EN 3)).put (.CTX_BIND_RESQ 3) 100).put (.Q_CFG_ESIZE 100) 1).put (.Q_CFG_DEPTH 100) 1).set1 (.Q_CFG_HOST 100)
     |>.setQueue 100 { ents := [{ pos := 0, len := 8 }, { pos := 8, len := 8 }] }) (hoS [iw 0x30 1 0 1 0 0]), 2, 3, iw 0x30 1 0 1 0 0, fieldsOf (iw 0x30 1
     0 1 0 0) (0), 100, [0x80000005, 3], by decide +kernel, rfl, by decide +kernel, by decide +kernel, by decide +kernel, by decide +kernel,
     by decide +kernel, by decide +kernel⟩,
   ⟨(fun s => (((((s.set1 (.CTX_BIND_RESQ_EN 3)).put (.CTX_BIND_RESQ 3) 100).put (.Q_CFG_ESIZE 100) 5).put (.Q_CFG_DEPTH 100) 12).setQueue 100
     { ents := [{ pos := 0, len := 16, vis := false }] }).modCtx 3 (fun x => { x with resv := some (100, 0), resvLen := 2, resvBytes := [0, 77] })) (hoS
     [iw 0x30 0 2 1 0 0]), 2, 3, iw 0x30 0 2 1 0 0, fieldsOf (iw 0x30 0 2 1 0 0) (0), [0, 77], by decide +kernel, rfl, by decide +kernel,
     by decide +kernel, by decide +kernel, by decide +kernel⟩⟩

theorem witness_UnitAndResultInstructions_19 :
    (∃ (s : State) (e : Fin 8) (c : Nat) (w : Word) (h : HWord), atWord s e c 0x30 w = true ∧ h = fieldsOf w 0#32 ∧ h.i = true ∧ h.a = 3 ∧ (resQueue s
      c).isSome = true ∧ (resvMsg s c).isSome = true) ∧
    (∃ (s : State) (e : Fin 8) (c : Nat) (w : Word) (h : HWord), atWord s e c 0x30 w = true ∧ h = fieldsOf w 0#32 ∧ (h.i && (resQueue s c).isSome &&
      decide (h.a ≤ 3) && (if h.a < 2 then (pushEntry s c ((resQueue s c).getD 128) h).isSome else (resvMsg s c).isSome)) = false) ∧
    (∃ (s : State) (e : Fin 8) (c : Nat) (w : Word), atExt s e c 0x30 w = true) :=
  ⟨⟨(fun s => (((((s.set1 (.CTX_BIND_RESQ_EN 3)).put (.CTX_BIND_RESQ 3) 100).put (.Q_CFG_ESIZE 100) 5).put (.Q_CFG_DEPTH 100) 12).setQueue 100
     { ents := [{ pos := 0, len := 16, vis := false }] }).modCtx 3 (fun x => { x with resv := some (100, 0), resvLen := 2, resvBytes := [0, 77] })) (hoS
     [iw 0x30 0 3 1 0 0]), 2, 3, iw 0x30 0 3 1 0 0, fieldsOf (iw 0x30 0 3 1 0 0) (0), by decide +kernel, rfl, by decide +kernel, by decide +kernel,
     by decide +kernel, by decide +kernel⟩,
   ⟨hoS [iw 0x30 0 4 1 0 0], 2, 3, iw 0x30 0 4 1 0 0, fieldsOf (iw 0x30 0 4 1 0 0) (0), by decide +kernel, rfl, by decide +kernel⟩,
   ⟨hoS [iw 0x30 0 0 1 1 0], 2, 3, iw 0x30 0 0 1 1 0, by decide +kernel⟩⟩

theorem witness_UnitAndResultInstructions_20 :
    (∃ (s : State) (e : Fin 8) (c : Nat) (w : Word) (h : HWord), atWord s e c 0x31 w = true ∧ h = fieldsOf w 0#32 ∧ h.i = true ∧ h.a ≤ 1 ∧ 0x80 ≤ h.k ∧
      h.k < 256) ∧
    (∃ (s : State) (e : Fin 8) (c : Nat) (w : Word) (h : HWord), atWord s e c 0x31 w = true ∧ h = fieldsOf w 0#32 ∧ (h.i && decide (h.a < 2) && decide
      (0x80 ≤ h.k) && decide (h.k < 256)) = false) ∧
    (∃ (s : State) (e : Fin 8) (c : Nat) (w : Word), atExt s e c 0x31 w = true) :=
  ⟨⟨hoS [iw 0x31 1 1 1 0 0x85], 2, 3, iw 0x31 1 1 1 0 0x85, fieldsOf (iw 0x31 1 1 1 0 0x85) (0), by decide +kernel, rfl, by decide +kernel,
     by decide +kernel, by decide +kernel, by decide +kernel⟩,
   ⟨hoS [iw 0x31 1 1 1 0 0x7F], 2, 3, iw 0x31 1 1 1 0 0x7F, fieldsOf (iw 0x31 1 1 1 0 0x7F) (0), by decide +kernel, rfl, by decide +kernel⟩,
   ⟨hoS [iw 0x31 0 0 1 1 0], 2, 3, iw 0x31 0 0 1 1 0, by decide +kernel⟩⟩

theorem witness_UnitAndResultInstructions_21 :
    (∃ (s : State) (e : Fin 8) (c : Nat) (w : Word) (h : HWord), atWord s e c 0x34 w = true ∧ h = fieldsOf w 0#32 ∧ bare h = true ∧ hasStandby s = true) ∧
    (∃ (s : State) (e : Fin 8) (c : Nat) (w : Word) (h : HWord), atWord s e c 0x34 w = true ∧ h = fieldsOf w 0#32 ∧ bare h = true ∧ hasStandby s = false) ∧
    (∃ (s : State) (e : Fin 8) (c : Nat) (w : Word) (h : HWord), atWord s e c 0x34 w = true ∧ h = fieldsOf w 0#32 ∧ bare h = false) :=
  ⟨⟨hoS [iw 0x34 0 0 1 0 0], 2, 3, iw 0x34 0 0 1 0 0, fieldsOf (iw 0x34 0 0 1 0 0) (0), by decide +kernel, rfl, by decide +kernel, by decide +kernel⟩,
   ⟨(fun s => { s with sv := { s.sv with stby := .none } }) (hoS [iw 0x34 0 0 1 0 0]), 2, 3, iw 0x34 0 0 1 0 0, fieldsOf (iw 0x34 0 0 1 0 0) (0),
     by decide +kernel, rfl, by decide +kernel, by decide +kernel⟩,
   ⟨hoS [iw 0x34 1 0 1 0 0], 2, 3, iw 0x34 1 0 1 0 0, fieldsOf (iw 0x34 1 0 1 0 0) (0), by decide +kernel, rfl, by decide +kernel⟩⟩

theorem witness_UnitAndResultInstructions_22 :
    (∃ (s : State) (e : Fin 8) (c : Nat) (w : Word), atExt s e c 0x34 w = true) ∧
    (∃ (s : State) (e : Fin 8) (c : Nat) (w : Word) (h : HWord), atWord s e c 0x35 w = true ∧ h = fieldsOf w 0#32 ∧ bare h = true ∧ hasStandby s = true) ∧
    (∃ (s : State) (e : Fin 8) (c : Nat) (w : Word) (h : HWord), atWord s e c 0x35 w = true ∧ h = fieldsOf w 0#32 ∧ bare h = true ∧ hasStandby s = false) :=
  ⟨⟨hoS [iw 0x34 0 0 1 1 0], 2, 3, iw 0x34 0 0 1 1 0, by decide +kernel⟩,
   ⟨hoS [iw 0x35 0 0 1 0 0], 2, 3, iw 0x35 0 0 1 0 0, fieldsOf (iw 0x35 0 0 1 0 0) (0), by decide +kernel, rfl, by decide +kernel, by decide +kernel⟩,
   ⟨(fun s => { s with sv := { s.sv with stby := .none } }) (hoS [iw 0x35 0 0 1 0 0]), 2, 3, iw 0x35 0 0 1 0 0, fieldsOf (iw 0x35 0 0 1 0 0) (0),
     by decide +kernel, rfl, by decide +kernel, by decide +kernel⟩⟩

theorem witness_UnitAndResultInstructions_23 :
    (∃ (s : State) (e : Fin 8) (c : Nat) (w : Word) (h : HWord), atWord s e c 0x35 w = true ∧ h = fieldsOf w 0#32 ∧ bare h = false) ∧
    (∃ (s : State) (e : Fin 8) (c : Nat) (w : Word), atExt s e c 0x35 w = true) ∧
    (∃ (s : State) (e : Fin 8) (c : Nat) (w : Word) (h : HWord) (l : List Word), atWord s e c 0x38 w = true ∧ h = fieldsOf w 0#32 ∧ h.d = 0 ∧ h.a = 0 ∧
      op2Ok h = true ∧ l = ctxRecord s c 2 0 (op2s s c h)) :=
  ⟨⟨hoS [iw 0x35 1 0 1 0 0], 2, 3, iw 0x35 1 0 1 0 0, fieldsOf (iw 0x35 1 0 1 0 0) (0), by decide +kernel, rfl, by decide +kernel⟩,
   ⟨hoS [iw 0x35 0 0 1 1 0], 2, 3, iw 0x35 0 0 1 1 0, by decide +kernel⟩,
   ⟨hoS [iw 0x38 0 0 1 0 0x77], 2, 3, iw 0x38 0 0 1 0 0x77, fieldsOf (iw 0x38 0 0 1 0 0x77) (0), ctxRecord (hoS [iw 0x38 0 0 1 0 0x77]) 3 2 0 0x77,
     by decide +kernel, rfl, by decide +kernel, by decide +kernel, by decide +kernel, by decide +kernel⟩⟩

theorem witness_UnitAndResultInstructions_24 :
    (∃ (s : State) (e : Fin 8) (c : Nat) (w : Word) (h : HWord), atWord s e c 0x38 w = true ∧ h = fieldsOf w 0#32 ∧ (h.d == 0 && h.a == 0 && op2Ok h) =
      false) ∧
    (∃ (s : State) (e : Fin 8) (c : Nat) (w : Word), atExt s e c 0x38 w = true) :=
  ⟨⟨hoS [iw 0x38 1 0 1 0 0], 2, 3, iw 0x38 1 0 1 0 0, fieldsOf (iw 0x38 1 0 1 0 0) (0), by decide +kernel, rfl, by decide +kernel⟩,
   ⟨hoS [iw 0x38 0 0 1 1 0], 2, 3, iw 0x38 0 0 1 1 0, by decide +kernel⟩⟩

theorem witness_ContextControl :
    (∃ (s : State) (r : Req) (c : Fin 160), Admitted s r (Reg.CTX_CTL c) Msk.CTX_CTL ∧ s.is (.CTX_CFG_EN c) = true ∧ inRun s c = false ∧ ctxsHeld s =
      false) ∧
    (∃ (s : State) (r : Req) (c : Fin 160), Admitted s r (Reg.CTX_CTL c) Msk.CTX_CTL ∧ s.is (.CTX_CFG_EN c) = true ∧ (inRun s c = true ∨ ctxsHeld s =
      true) ∧ s.is (.CTX_STAT_PEND c) = false) ∧
    (∃ (s : State) (r : Req) (c : Fin 160), Admitted s r (Reg.CTX_CTL c) Msk.CTX_CTL ∧ s.is (.CTX_CFG_EN c) = true ∧ (inRun s c = true ∨ ctxsHeld s =
      true) ∧ s.is (.CTX_STAT_PEND c) = true) ∧
    (∃ (s : State) (r : Req) (c : Fin 160), Admitted s r (Reg.CTX_CTL c) Msk.CTX_CTL ∧ s.is (.CTX_CFG_EN c) = false) ∧
    (∃ (s : State) (r : Req) (c : Fin 160), Admitted s r (Reg.CTX_CTL c) Msk.CTX_CTL ∧ inRun s c = true) ∧
    (∃ (s : State) (r : Req) (c : Fin 160), Admitted s r (Reg.CTX_CTL c) Msk.CTX_CTL ∧ inRun s c = true ∧ (enabledCtxs s).all (fun k => s.get
      (.CTX_TRIG_CMP_EN k) == 0) = true) ∧
    (∃ (s : State) (r : Req) (c : Fin 160), Admitted s r (Reg.CTX_CTL c) Msk.CTX_CTL ∧ inRun s c = false) ∧
    (∃ (s : State) (r : Req) (c : Fin 160), Admitted s r (Reg.CTX_CTL c) Msk.CTX_CTL ∧ inRun s c = false) ∧
    (∃ (s : State) (r : Req) (c : Fin 160), Admitted s r (Reg.CTX_CTL c) Msk.CTX_CTL ∧ inRun s c = true) ∧
    (∃ (s : State) (e : Nat) (p : Nat) (c : Nat), hoistRuns s = true ∧ freeEngine s = some e ∧ nextReady s = some (p, c) ∧ (s.ctx c).wait = .none ∧
      fetchWord s c (s.ctx c).pc = .ok [0]) ∧
    (∃ (s : State) (e : Nat) (p : Nat) (c : Nat), hoistRuns s = true ∧ freeEngine s = some e ∧ nextReady s = some (p, c)) ∧
    (∃ (s : State), (hoistRuns s = false ∨ freeEngine s = none ∨ nextReady s = none)) ∧
    (∃ (s : State) (e : Fin 8) (c : Nat), runningOn s e = some c ∧ sliceLen s ≤ (s.eng e).count ∧ rdrGoesOn s e c = false) ∧
    (∃ (s : State) (e : Fin 8) (c : Nat), runningOn s e = some c ∧ ((s.eng e).count < sliceLen s ∨ rdrGoesOn s e c = true)) ∧
    (∃ (s : State) (e : Fin 8), runningOn s e = none) ∧
    (∃ (s : State) (c : Fin 160), inRun s c = true ∧ s.get (.CTX_LIMITS_RUNMAX c) ≠ 0 ∧ (s.ctx c).began + 49152000 * s.get (.CTX_LIMITS_RUNMAX c) ≤ clk s) ∧
    (∃ (s : State) (c : Fin 160), inRun s c = true ∧ s.get (.CTX_LIMITS_RUNMAX c) ≠ 0 ∧ (s.ctx c).began + 49152000 * s.get (.CTX_LIMITS_RUNMAX c) ≤ clk s) ∧
    (∃ (s : State) (c : Fin 160), (inRun s c = false ∨ s.get (.CTX_LIMITS_RUNMAX c) = 0 ∨ clk s < (s.ctx c).began + 49152000 * s.get (.CTX_LIMITS_RUNMAX
      c))) ∧
    (∃ (s : State) (a : BitVec 26) (l : List Nat), l = (enabledCtxs s).filter (wantsLine s a.toNat) ∧ l ≠ [] ∧ s1Run s 0 = 0) ∧
    (∃ (s : State) (a : BitVec 26) (c : Nat), (enabledCtxs s).filter (wantsLine s a.toNat) = [c] ∧ s1Run s 0 = 0) ∧
    (∃ (s : State) (a : BitVec 26) (c : Nat) (x : Nat), (enabledCtxs s).filter (wantsLine s a.toNat) = [c] ∧ (s.ctx c).wait = .fetch x ∧ s1Run s 0 = 0) ∧
    (∃ (s : State) (a : BitVec 26), ((enabledCtxs s).filter (wantsLine s a.toNat) = [] ∨ s1Run s 0 ≠ 0)) :=
  ⟨⟨runS.set1 (.CTX_CFG_EN 3), .s0, 3, ⟨by decide +kernel, by decide +kernel, by decide +kernel⟩, by decide +kernel, by decide +kernel,
     by decide +kernel⟩,
   ⟨hoS [], .s0, 3, ⟨by decide +kernel, by decide +kernel, by decide +kernel⟩, by decide +kernel, by decide +kernel, by decide +kernel⟩,
   ⟨(hoS []).set1 (.CTX_STAT_PEND 3), .s0, 3, ⟨by decide +kernel, by decide +kernel, by decide +kernel⟩, by decide +kernel, by decide +kernel,
     by decide +kernel⟩,
   ⟨runS, .s0, 3, ⟨by decide +kernel, by decide +kernel, by decide +kernel⟩, by decide +kernel⟩,
   ⟨hoS [], .s0, 3, ⟨by decide +kernel, by decide +kernel, by decide +kernel⟩, by decide +kernel⟩,
   ⟨hoS [], .s0, 3, ⟨by decide +kernel, by decide +kernel, by decide +kernel⟩, by decide +kernel, by decide +kernel⟩,
   ⟨runS, .s0, 3, ⟨by decide +kernel, by decide +kernel, by decide +kernel⟩, by decide +kernel⟩,
   ⟨runS.put (.CTX_STAT_STATE 3) 5, .s0, 3, ⟨by decide +kernel, by decide +kernel, by decide +kernel⟩, by decide +kernel⟩,
   ⟨hoS [], .s0, 3, ⟨by decide +kernel, by decide +kernel, by decide +kernel⟩, by decide +kernel⟩,
   ⟨{ ((hoS [0]).put (.CTX_STAT_STATE 3) 1).put .HE_CFG_ENG_EN 6 with engs := [] }, 1, 3, 3, by decide +kernel, by decide +kernel, by decide +kernel,
     by decide +kernel, by decide +kernel⟩,
   ⟨{ ((hoS [0]).put (.CTX_STAT_STATE 3) 1).put .HE_CFG_ENG_EN 6 with engs := [] }, 1, 3, 3, by decide +kernel, by decide +kernel, by decide +kernel⟩,
   ⟨runS, by decide +kernel⟩,
   ⟨{ hoS [0] with engs := [(2, { ctx := some 3, count := 1024 })] }, 2, 3, by decide +kernel, by decide +kernel, by decide +kernel⟩,
   ⟨hoS [0], 2, 3, by decide +kernel, by decide +kernel⟩,
   ⟨runS, 2, by decide +kernel⟩,
   ⟨((hoS [0]).put (.CTX_LIMITS_RUNMAX 3) 2).modTu (fun x => { x with edges := 98304000 }), 3, by decide +kernel, by decide +kernel, by decide +kernel⟩,
   ⟨((hoS [0]).put (.CTX_LIMITS_RUNMAX 3) 2).modTu (fun x => { x with edges := 98304000 }), 3, by decide +kernel, by decide +kernel, by decide +kernel⟩,
   ⟨runS, 3, by decide +kernel⟩,
   ⟨((hoS [0]).put (.CTX_STAT_STATE 3) 4).modCtx 3 (fun x => { x with wait := .fetch 0x10000044 }), 0x40, [3], by decide +kernel, by decide +kernel,
     by decide +kernel⟩,
   ⟨((hoS [0]).put (.CTX_STAT_STATE 3) 4).modCtx 3 (fun x => { x with wait := .fetch 0x10000044 }), 0x40, 3, by decide +kernel, by decide +kernel⟩,
   ⟨((hoS [0]).put (.CTX_STAT_STATE 3) 4).modCtx 3 (fun x => { x with wait := .fetch 0x10000044 }), 0x40, 3, 0x10000044, by decide +kernel,
     by decide +kernel, by decide +kernel⟩,
   ⟨runS, 0x40, by decide +kernel⟩⟩

theorem witness_ContextWaits :
    (∃ (s : State) (c : Fin 160) (p : Fin 4) (k : Fin 64) (x : Frame), canRuns s p = true ∧ frameOk x = true ∧ canDecodes s p x = true ∧ (3, c.val, k.val,
      false) ∈ deliveries s p x ∧ inRun s c = true ∧ (s.ctx c).inbox.length < 4 ∧ listening s c = false ∧ waitsExpect s c = false) ∧
    (∃ (s : State) (c : Fin 160) (p : Fin 4) (k : Fin 64) (x : Frame), canRuns s p = true ∧ frameOk x = true ∧ canDecodes s p x = true ∧ (3, c.val, k.val,
      false) ∈ deliveries s p x ∧ (inRun s c = false ∨ 4 ≤ (s.ctx c).inbox.length) ∧ listening s c = false ∧ waitsExpect s c = false) ∧
    (∃ (s : State) (c : Fin 160) (p : Fin 4) (k : Fin 64) (x : Frame) (w : ExpectW) (d : List Word) (f : RxEnt), canRuns s p = true ∧ frameOk x = true ∧
      canDecodes s p x = true ∧ (3, c.val, k.val, false) ∈ deliveries s p x ∧ s.get (.CTX_STAT_STATE c) = stWaiting ∧ s.get (.CTX_STAT_WAIT_ON c) = 2 ∧
      (s.ctx c).wait = .expect w ∧ w.descs = [d] ∧ w.dreg = none ∧ w.past = none ∧ expectPast s c w = false ∧ (s.ctx c).inbox = [] ∧ (s.ctx c).evOff = false
      ∧ (s.ctx c).evAbs = false ∧ f =
      { cutFrame { frame := { x with ts := now s % 2 ^ 48 }, len := x.data.length, port := p, filter := k } with at_ := clk s } ∧ f.trunc = false ∧
      frameMatch d f = true ∧ bitAt (dw d 5) 31 = false ∧ rxw s c = 0 ∧ actionOf (dw d 6) ocMatch = 0) ∧
    (∃ (s : State) (c : Fin 160) (p : Fin 4) (k : Fin 64) (x : Frame), (canRuns s p = false ∨ frameOk x = false ∨ canDecodes s p x = false ∨ (3, c.val,
      k.val, false) ∉ deliveries s p x)) ∧
    (∃ (s : State) (c : Fin 160) (d : Nat), s.get (.CTX_STAT_STATE c) = stWaiting ∧ (s.ctx c).wait = .time d ∧ d ≤ now s) ∧
    (∃ (s : State) (c : Fin 160) (i : Nat), s.get (.CTX_STAT_STATE c) = stWaiting ∧ (s.ctx c).wait = .timer i ∧ timerRuns s c i = false) ∧
    (∃ (s : State) (c : Fin 160) (d : Nat), (s.ctx c).wait = .time d ∧ now s < d) ∧
    (∃ (s : State) (c : Fin 160) (i : Nat), (s.ctx c).wait = .timer i ∧ timerRuns s c i = true) ∧
    (∃ (s : State) (c : Fin 160), s.get (.CTX_STAT_STATE c) ≠ stWaiting) ∧
    (∃ (s : State) (c : Fin 160) (w : ExpectW), s.get (.CTX_STAT_STATE c) = stWaiting ∧ (s.ctx c).wait = .expect w ∧ expectDue s c w = true) ∧
    (∃ (s : State) (c : Fin 160) (w : ExpectW), s.get (.CTX_STAT_STATE c) = stWaiting ∧ (s.ctx c).wait = .expect w ∧ expectDue s c w = true ∧ actionOf (dw
      (w.descs.getD 0 []) 6) ocTimeout = 0 ∧ w.dreg = none) ∧
    (∃ (s : State) (c : Fin 160) (w : ExpectW), (s.ctx c).wait = .expect w ∧ (s.get (.CTX_STAT_STATE c) ≠ stWaiting ∨ expectDue s c w = false)) ∧
    (∃ (s : State) (c : Fin 160) (d : Nat) (b : Bool), s.get (.CTX_STAT_STATE c) = stWaiting ∧ (s.ctx c).wait = .backoff d b ∧ d ≤ clk s ∧ (b = false ∨
      s.get (.CTX_RESYNC_ADDR c) = 0)) ∧
    (∃ (s : State) (c : Fin 160) (d : Nat), s.get (.CTX_STAT_STATE c) = stWaiting ∧ (s.ctx c).wait = .backoff d true ∧ d ≤ clk s ∧ s.get (.CTX_RESYNC_ADDR
      c) ≠ 0) ∧
    (∃ (s : State) (c : Fin 160) (d : Nat) (b : Bool), (s.ctx c).wait = .backoff d b ∧ (s.get (.CTX_STAT_STATE c) ≠ stWaiting ∨ clk s < d)) ∧
    (∃ (s : State) (c : Fin 160) (r : Ckpt), s.get (.CTX_STAT_STATE c) = stWaiting ∧ (s.ctx c).wait = .commit ∧ ckptCommitted s c = true ∧ (s.ctx c).ckpt
      = some r) ∧
    (∃ (s : State) (c : Fin 160), (s.get (.CTX_STAT_STATE c) ≠ stWaiting ∨ (s.ctx c).wait ≠ .commit ∨ ckptCommitted s c = false)) ∧
    (∃ (s : State) (c : Fin 160), s.get (.CTX_STAT_STATE c) = stBlocked ∧ s.get (.CTX_STAT_WAIT_ON c) ≠ 10 ∧ resourceFree s c = true ∧ firstBlocked s c =
      true) ∧
    (∃ (s : State) (c : Fin 160), (s.get (.CTX_STAT_STATE c) ≠ stBlocked ∨ s.get (.CTX_STAT_WAIT_ON c) = 10 ∨ resourceFree s c = false ∨ firstBlocked s c
      = false)) ∧
    (∃ (s : State) (c : Fin 160) (w : XferW) (d : Nat) (n : Nat) (p : Nat), s.get (.CTX_STAT_STATE c) = stWaiting ∧ (s.ctx c).wait = .xfer w ∧ w.deadline
      = some d ∧ d ≤ clk s ∧ w.tx = true ∧ w.phase = 4 ∧ n = tDl w.desc - tOff w.desc - 1 ∧ p = s.get (.CTX_PARTNER_PORT c) ∧ txLevel s p < 32) ∧
    (∃ (s : State) (c : Fin 160) (w : XferW) (d : Nat), s.get (.CTX_STAT_STATE c) = stWaiting ∧ (s.ctx c).wait = .xfer w ∧ w.deadline = some d ∧ d ≤ clk s
      ∧ w.tx = false ∧ w.phase = 11) ∧
    (∃ (s : State) (c : Fin 160) (w : XferW) (d : Nat), s.get (.CTX_STAT_STATE c) = stWaiting ∧ (s.ctx c).wait = .xfer w ∧ w.deadline = some d ∧ d ≤ clk s
      ∧ ((w.tx = true ∧ w.phase ≠ 4) ∨ (w.tx = false ∧ w.phase ≠ 11))) ∧
    (∃ (s : State) (c : Fin 160) (w : XferW) (d : Nat), s.get (.CTX_STAT_STATE c) = stWaiting ∧ (s.ctx c).wait = .xfer w ∧ w.deadline = some d ∧ d ≤ clk s
      ∧ ((w.tx = true ∧ w.phase ≠ 4) ∨ (w.tx = false ∧ w.phase ≠ 11)) ∧ actionOf (dw w.desc 8) ocTimeout = 0) ∧
    (∃ (s : State) (c : Fin 160) (w : XferW), (s.ctx c).wait = .xfer w ∧ (w.deadline = none ∨ s.get (.CTX_STAT_STATE c) ≠ stWaiting)) ∧
    (∃ (s : State) (c : Fin 160) (w : XferW) (d : Nat), (s.ctx c).wait = .xfer w ∧ w.deadline = some d ∧ clk s < d) :=
  ⟨⟨((((((hoS [0]).put (.CTX_STAT_STATE 3) 1).set1 (.FLT_CTL_EN 1 5)).put (.FLT_CTL_TARGET 1 5) 3).put (.FLT_CTL_INDEX 1 5) 3)).setCan 1 { mode := 1 },
     3, 1, 5, { idw := 0x123 }, by decide +kernel, by decide +kernel, by decide +kernel, by decide +kernel, by decide +kernel, by decide +kernel,
     by decide +kernel, by decide +kernel⟩,
   ⟨(((runS.set1 (.FLT_CTL_EN 1 5)).put (.FLT_CTL_TARGET 1 5) 3).put (.FLT_CTL_INDEX 1 5) 3).setCan 1 { mode := 1 }, 3, 1, 5, { idw := 0x123 },
     by decide +kernel, by decide +kernel, by decide +kernel, by decide +kernel, by decide +kernel, by decide +kernel, by decide +kernel⟩,
   ⟨((((ctxWait 3 2 (.expect { at_ := 0x80010, next := 0x80018, descs := [[0x123, 0x3FFFFFFF, 0, 0, 0, 0, 0, 0]], dreg := none, start := 0 }) (hoS
     [])).set1 (.FLT_CTL_EN 1 5)).put (.FLT_CTL_TARGET 1 5) 3).put (.FLT_CTL_INDEX 1 5) 3).setCan 1 { mode := 1 }, 3, 1, 5, { idw := 0x123 },
     { at_ := 0x80010, next := 0x80018, descs := [[0x123, 0x3FFFFFFF, 0, 0, 0, 0, 0, 0]], dreg := none, start := 0 }, [0x123, 0x3FFFFFFF, 0, 0, 0, 0, 0,
     0], { frame := { idw := 0x123, ts := 4915200000 }, len := 0, port := 1, filter := 5 }, by decide +kernel, by decide +kernel, by decide +kernel,
     by decide +kernel, by decide +kernel, by decide +kernel, by decide +kernel, by decide +kernel, by decide +kernel, by decide +kernel,
     by decide +kernel, by decide +kernel, by decide +kernel, by decide +kernel, by decide +kernel, by decide +kernel, by decide +kernel,
     by decide +kernel, by decide +kernel, by decide +kernel⟩,
   ⟨runS, 3, 1, 5, { idw := 0x123 }, by decide +kernel⟩,
   ⟨ctxWait 3 1 (.time 0) (hoS []), 3, 0, by decide +kernel, by decide +kernel, by decide +kernel⟩,
   ⟨ctxWait 3 1 (.timer 1) (hoS []), 3, 1, by decide +kernel, by decide +kernel, by decide +kernel⟩,
   ⟨ctxWait 3 1 (.time (2 ^ 60)) (hoS []), 3, 2 ^ 60, by decide +kernel, by decide +kernel⟩,
   ⟨setTimer 3 1 (some (2 ^ 60)) (ctxWait 3 1 (.timer 1) (hoS [])), 3, 1, by decide +kernel, by decide +kernel⟩,
   ⟨runS, 3, by decide +kernel⟩,
   ⟨ctxWait 3 2 (.expect { at_ := 0x80010, next := 0x80018, descs := [[0, 0, 0, 0, 0x10000, 0, 0, 0]], dreg := none, start := 0 }) (hoS [] |>.modTu (fun
     x => { x with edges := 49152 })), 3, { at_ := 0x80010, next := 0x80018, descs := [[0, 0, 0, 0, 0x10000, 0, 0, 0]], dreg := none, start := 0 },
     by decide +kernel, by decide +kernel, by decide +kernel⟩,
   ⟨ctxWait 3 2 (.expect { at_ := 0x80010, next := 0x80018, descs := [[0, 0, 0, 0, 0x10000, 0, 0, 0]], dreg := none, start := 0 }) (hoS [] |>.modTu (fun
     x => { x with edges := 49152 })), 3, { at_ := 0x80010, next := 0x80018, descs := [[0, 0, 0, 0, 0x10000, 0, 0, 0]], dreg := none, start := 0 },
     by decide +kernel, by decide +kernel, by decide +kernel, by decide +kernel, by decide +kernel⟩,
   ⟨ctxWait 3 2 (.expect { at_ := 0x80010, next := 0x80018, descs := [[0, 0, 0, 0, 0x10000, 0, 0, 0]], dreg := none, start := 0 }) (hoS []), 3,
     { at_ := 0x80010, next := 0x80018, descs := [[0, 0, 0, 0, 0x10000, 0, 0, 0]], dreg := none, start := 0 }, by decide +kernel, by decide +kernel⟩,
   ⟨ctxWait 3 4 (.backoff 0 false) (hoS []), 3, 0, false, by decide +kernel, by decide +kernel, by decide +kernel, by decide +kernel⟩,
   ⟨wr (Reg.CTX_RESYNC 3) 0x80020 (ctxWait 3 4 (.backoff 0 true) (hoS [])), 3, 0, by decide +kernel, by decide +kernel, by decide +kernel,
     by decide +kernel⟩,
   ⟨ctxWait 3 4 (.backoff (2 ^ 60) true) (hoS []), 3, 2 ^ 60, true, by decide +kernel, by decide +kernel⟩,
   ⟨{ ctxWait 3 3 .commit ((hoS []).modCtx 3 (fun x => { x with ckpt := some (ckptOf (hoS []) 3 0x80014 true 0x80010), ckptNo := 4 })) with ckptDone := [(3, 4)] },
     3, ckptOf (hoS []) 3 0x80014 true 0x80010, by decide +kernel, by decide +kernel, by decide +kernel, by decide +kernel⟩,
   ⟨runS, 3, by decide +kernel⟩,
   ⟨ctxBlock 3 5 .none (hoS []), 3, by decide +kernel, by decide +kernel, by decide +kernel, by decide +kernel⟩,
   ⟨runS, 3, by decide +kernel⟩,
   ⟨ctxWait 3 2 (.xfer
     { tx := true, at_ := 0x80010, next := 0x80018, desc := [0x123, 0x124, 0, 8, 0x00640064, 0x40000010, 0, 0, 5, 0], phase := 4, deadline := some 0, buf := [1, 2, 3], sn := 2 })
     (hoS []), 3,
     { tx := true, at_ := 0x80010, next := 0x80018, desc := [0x123, 0x124, 0, 8, 0x00640064, 0x40000010, 0, 0, 5, 0], phase := 4, deadline := some 0, buf := [1, 2, 3], sn := 2 },
     0, 7, 0, by decide +kernel, by decide +kernel, by decide +kernel, by decide +kernel, by decide +kernel, by decide +kernel, by decide +kernel,
     by decide +kernel, by decide +kernel⟩,
   ⟨ctxWait 3 2 (.xfer
     { tx := false, at_ := 0x80010, next := 0x80018, desc := [0x123, 0x124, 0, 8, 0x00640064, 0, 0, 0, 5, 0], phase := 11, deadline := some 0, total := 9 })
     (hoS []), 3,
     { tx := false, at_ := 0x80010, next := 0x80018, desc := [0x123, 0x124, 0, 8, 0x00640064, 0, 0, 0, 5, 0], phase := 11, deadline := some 0, total := 9 },
     0, by decide +kernel, by decide +kernel, by decide +kernel, by decide +kernel, by decide +kernel, by decide +kernel⟩,
   ⟨ctxWait 3 2 (.xfer
     { tx := true, at_ := 0x80010, next := 0x80018, desc := [0x123, 0x124, 0, 8, 0x00640064, 0x40000010, 0, 0, 5, 0], phase := 2, deadline := some 0 })
     (hoS []), 3,
     { tx := true, at_ := 0x80010, next := 0x80018, desc := [0x123, 0x124, 0, 8, 0x00640064, 0x40000010, 0, 0, 5, 0], phase := 2, deadline := some 0 }, 0,
     by decide +kernel, by decide +kernel, by decide +kernel, by decide +kernel, by decide +kernel⟩,
   ⟨ctxWait 3 2 (.xfer
     { tx := true, at_ := 0x80010, next := 0x80018, desc := [0x123, 0x124, 0, 8, 0x00640064, 0x40000010, 0, 0, 0, 0], phase := 2, deadline := some 0 })
     (hoS []), 3,
     { tx := true, at_ := 0x80010, next := 0x80018, desc := [0x123, 0x124, 0, 8, 0x00640064, 0x40000010, 0, 0, 0, 0], phase := 2, deadline := some 0 }, 0,
     by decide +kernel, by decide +kernel, by decide +kernel, by decide +kernel, by decide +kernel, by decide +kernel⟩,
   ⟨(hoS []).modCtx 3 (fun x => { x with wait := .xfer { tx := true, at_ := 0x80010, next := 0x80018, desc := [] } }), 3,
     { tx := true, at_ := 0x80010, next := 0x80018, desc := [] }, by decide +kernel, by decide +kernel⟩,
   ⟨(hoS []).modCtx 3 (fun x => { x with wait := .xfer { tx := true, at_ := 0x80010, next := 0x80018, desc := [], deadline := some 5 } }), 3,
     { tx := true, at_ := 0x80010, next := 0x80018, desc := [], deadline := some 5 }, 5, by decide +kernel, by decide +kernel, by decide +kernel⟩⟩

theorem witness_CheckValueUnits :
    (∃ (s : State) (r : Req) (u : Fin 8) (v : State), Admitted s r (Reg.CV_CMD u) Msk.CV_CMD ∧ s.get (.CV_CFG_WIDTH u) ≠ 0 ∧ ((s.cv u).hold = .free ∨
      (s.cv u).hold = cvOwner s r) ∧ v = cvTouch u (cvOwner s r) s) ∧
    (∃ (s : State) (r : Req) (u : Fin 8), Admitted s r (Reg.CV_CMD u) Msk.CV_CMD ∧ s.get (.CV_CFG_WIDTH u) ≠ 0 ∧ (s.cv u).hold ≠ .free ∧ (s.cv u).hold ≠
      cvOwner s r) ∧
    (∃ (s : State) (r : Req) (u : Fin 8), Admitted s r (Reg.CV_CMD u) Msk.CV_CMD ∧ s.get (.CV_CFG_WIDTH u) ≠ 0 ∧ (s.cv u).hold ≠ cvOwner s r) ∧
    (∃ (s : State) (r : Req) (u : Fin 8), Admitted s r (Reg.CV_CMD u) Msk.CV_CMD ∧ s.get (.CV_CFG_WIDTH u) ≠ 0 ∧ (s.cv u).hold ≠ cvOwner s r) ∧
    (∃ (s : State) (r : Req) (u : Fin 8), Admitted s r (Reg.CV_CMD u) Msk.CV_CMD ∧ s.get (.CV_CFG_WIDTH u) ≠ 0 ∧ (s.cv u).hold ≠ cvOwner s r) ∧
    (∃ (s : State) (r : Req) (u : Fin 8), Admitted s r (Reg.CV_DATA u) Msk.CV_DATA ∧ s.get (.CV_CFG_WIDTH u) ≠ 0 ∧ (s.cv u).hold ≠ cvOwner s r) ∧
    (∃ (s : State) (r : Req) (u : Fin 8) (v : State), Admitted s r (Reg.CV_DATA u) Msk.CV_DATA ∧ s.get (.CV_CFG_WIDTH u) ≠ 0 ∧ (s.cv u).hold = cvOwner s r
      ∧ (s.cv u).dma = none ∧ v = cvTouch u (cvOwner s r) s) ∧
    (∃ (s : State) (r : Req) (u : Fin 8) (v : State), Admitted s r (Reg.CV_DATA u) Msk.CV_DATA ∧ s.get (.CV_CFG_WIDTH u) ≠ 0 ∧ (s.cv u).hold = cvOwner s r
      ∧ (s.cv u).dma ≠ none ∧ v = cvTouch u (cvOwner s r) s) ∧
    (∃ (s : State) (r : Req) (u : Fin 8), Admitted s r (Reg.CV_DATA u) Msk.CV_DATA ∧ s.get (.CV_CFG_WIDTH u) = 0) ∧
    (∃ (s : State) (r : Req) (u : Fin 8), Admitted s r (Reg.CV_DATA8 u) Msk.CV_DATA8 ∧ s.get (.CV_CFG_WIDTH u) ≠ 0 ∧ (s.cv u).hold ≠ cvOwner s r) ∧
    (∃ (s : State) (r : Req) (u : Fin 8) (v : State), Admitted s r (Reg.CV_DATA8 u) Msk.CV_DATA8 ∧ s.get (.CV_CFG_WIDTH u) ≠ 0 ∧ (s.cv u).hold = cvOwner s
      r ∧ (s.cv u).dma = none ∧ v = cvTouch u (cvOwner s r) s) ∧
    (∃ (s : State) (r : Req) (u : Fin 8) (v : State), Admitted s r (Reg.CV_DATA8 u) Msk.CV_DATA8 ∧ s.get (.CV_CFG_WIDTH u) ≠ 0 ∧ (s.cv u).hold = cvOwner s
      r ∧ (s.cv u).dma ≠ none ∧ v = cvTouch u (cvOwner s r) s) ∧
    (∃ (s : State) (r : Req) (u : Fin 8), Admitted s r (Reg.CV_DATA8 u) Msk.CV_DATA8 ∧ s.get (.CV_CFG_WIDTH u) = 0) ∧
    (∃ (s : State) (r : Req) (u : Fin 8), Admitted s r (Reg.CV_CMD u) Msk.CV_CMD ∧ s.get (.CV_CFG_WIDTH u) ≠ 0 ∧ (s.cv u).hold = cvOwner s r ∧ (s.cv
      u).dma = none) ∧
    (∃ (s : State) (r : Req) (u : Fin 8) (v : State), Admitted s r (Reg.CV_CMD u) Msk.CV_CMD ∧ s.get (.CV_CFG_WIDTH u) ≠ 0 ∧ (s.cv u).hold = cvOwner s r ∧
      (s.cv u).dma ≠ none ∧ v = cvTouch u (cvOwner s r) s) ∧
    (∃ (s : State) (r : Req) (u : Fin 8) (v : State), Admitted s r (Reg.CV_CMD u) Msk.CV_CMD ∧ s.get (.CV_CFG_WIDTH u) ≠ 0 ∧ (s.cv u).hold = cvOwner s r ∧
      (s.cv u).dma ≠ none ∧ v = cvTouch u (cvOwner s r) s) ∧
    (∃ (s : State) (r : Req) (u : Fin 8), Admitted s r (Reg.CV_CMD u) Msk.CV_CMD ∧ s.get (.CV_CFG_WIDTH u) ≠ 0 ∧ (s.cv u).hold = cvOwner s r ∧ (s.cv
      u).dma = none ∧ s.get (.CV_DMA_LEN_LEN u) = 0) ∧
    (∃ (s : State) (r : Req) (u : Fin 8) (v : State), Admitted s r (Reg.CV_CMD u) Msk.CV_CMD ∧ s.get (.CV_CFG_WIDTH u) ≠ 0 ∧ (s.cv u).hold = cvOwner s r ∧
      (s.cv u).dma = none ∧ s.get (.CV_DMA_LEN_LEN u) ≠ 0 ∧ 0x800000 ≤ s.get (.CV_DMA_ADDR_ADDR u) ∧ s.get (.CV_DMA_ADDR_ADDR u) + s.get (.CV_DMA_LEN_LEN u)
      ≤ 0x1000000 ∧ v = cvTouch u (cvOwner s r) s) ∧
    (∃ (s : State) (r : Req) (u : Fin 8) (v : State), Admitted s r (Reg.CV_CMD u) Msk.CV_CMD ∧ s.get (.CV_CFG_WIDTH u) ≠ 0 ∧ (s.cv u).hold = cvOwner s r ∧
      (s.cv u).dma = none ∧ s.get (.CV_DMA_LEN_LEN u) ≠ 0 ∧ (s.get (.CV_DMA_ADDR_ADDR u) < 0x800000 ∨ 0x1000000 < s.get (.CV_DMA_ADDR_ADDR u) + s.get
      (.CV_DMA_LEN_LEN u)) ∧ v = cvTouch u (cvOwner s r) s) ∧
    (∃ (s : State) (r : Req) (u : Fin 8), Admitted s r (Reg.CV_CMD u) Msk.CV_CMD ∧ s.get (.CV_CFG_WIDTH u) ≠ 0 ∧ (s.cv u).hold = cvOwner s r) ∧
    (∃ (s : State) (r : Req) (u : Fin 8), Admitted s r (Reg.CV_CMD u) Msk.CV_CMD ∧ s.get (.CV_CFG_WIDTH u) = 0) ∧
    (∃ (s : State) (r : Req) (u : Fin 8), Admitted s r (Reg.CV_CMD u) Msk.CV_CMD ∧ s.get (.CV_CFG_WIDTH u) = 0) ∧
    (∃ (s : State) (r : Req) (u : Fin 8), Admitted s r (Reg.CV_CMD u) Msk.CV_CMD ∧ s.get (.CV_CFG_WIDTH u) = 0) ∧
    (∃ (s : State) (r : Req) (u : Fin 8), Admitted s r (Reg.CV_CMD u) Msk.CV_CMD ∧ s.get (.CV_CFG_WIDTH u) = 0) ∧
    (∃ (s : State) (u : Fin 8) (a : Nat) (n : Nat), (s.cv u).dma = some (a, n) ∧ (s.cv u).fin = false) ∧
    (∃ (s : State) (u : Fin 8) (a : Nat) (n : Nat), (s.cv u).dma = some (a, n) ∧ (s.cv u).fin = true) ∧
    (∃ (s : State) (u : Fin 8), (s.cv u).dma = none) ∧
    (∃ (s : State) (u : Fin 8), (s.cv u).hold.isHost = true ∧ (s.cv u).at_ + 100 * tickMs ≤ clk s) ∧
    (∃ (s : State) (u : Fin 8), ((s.cv u).hold.isHost = false ∨ clk s < (s.cv u).at_ + 100 * tickMs)) ∧
    (∃ (s : State) (r : Req) (u : Fin 8), Admitted s r (Reg.CV_CFG u) Msk.CV_CFG ∧ (s.cv u).hold ≠ .free) ∧
    (∃ (s : State) (r : Req) (u : Fin 8), Admitted s r (Reg.CV_CFG u) Msk.CV_CFG ∧ (s.cv u).hold = .free) ∧
    (∃ (s : State) (r : Req) (u : Fin 8), Admitted s r (Reg.CV_POLY u 1) Msk.CV_POLY ∧ (s.cv u).hold = .free) ∧
    (∃ (s : State) (r : Req) (u : Fin 8), Admitted s r (Reg.CV_POLY u 1) Msk.CV_POLY ∧ (s.cv u).hold ≠ .free) ∧
    (∃ (s : State) (r : Req) (u : Fin 8), Admitted s r (Reg.CV_INIT u 1) Msk.CV_INIT ∧ (s.cv u).hold = .free) ∧
    (∃ (s : State) (r : Req) (u : Fin 8), Admitted s r (Reg.CV_INIT u 1) Msk.CV_INIT ∧ (s.cv u).hold ≠ .free) ∧
    (∃ (s : State) (r : Req) (u : Fin 8), Admitted s r (Reg.CV_XOROUT u 1) Msk.CV_XOROUT ∧ (s.cv u).hold = .free) ∧
    (∃ (s : State) (r : Req) (u : Fin 8), Admitted s r (Reg.CV_XOROUT u 1) Msk.CV_XOROUT ∧ (s.cv u).hold ≠ .free) ∧
    (∃ (s : State) (r : Req) (u : Fin 8), readServed s r = true ∧ s.get (.CV_CFG_WIDTH u) = 0) :=
  ⟨⟨(runS.put (.CV_CFG_WIDTH 2) 16), .s0, 2, cvTouch 2 (.host 1) ((runS.put (.CV_CFG_WIDTH 2) 16)), ⟨by decide +kernel, by decide +kernel,
     by decide +kernel⟩, by decide +kernel, by decide +kernel, rfl⟩,
   ⟨(runS.put (.CV_CFG_WIDTH 2) 16).setCv 2 { hold := .ctx 3 }, .s0, 2, ⟨by decide +kernel, by decide +kernel, by decide +kernel⟩, by decide +kernel,
     by decide +kernel, by decide +kernel⟩,
   ⟨(runS.put (.CV_CFG_WIDTH 2) 16).setCv 2 { hold := .ctx 3 }, .s0, 2, ⟨by decide +kernel, by decide +kernel, by decide +kernel⟩, by decide +kernel,
     by decide +kernel⟩,
   ⟨(runS.put (.CV_CFG_WIDTH 2) 16).setCv 2 { hold := .ctx 3 }, .s0, 2, ⟨by decide +kernel, by decide +kernel, by decide +kernel⟩, by decide +kernel,
     by decide +kernel⟩,
   ⟨(runS.put (.CV_CFG_WIDTH 2) 16).setCv 2 { hold := .ctx 3 }, .s0, 2, ⟨by decide +kernel, by decide +kernel, by decide +kernel⟩, by decide +kernel,
     by decide +kernel⟩,
   ⟨(runS.put (.CV_CFG_WIDTH 2) 16).setCv 2 { hold := .host 2 }, .s0, 2, ⟨by decide +kernel, by decide +kernel, by decide +kernel⟩, by decide +kernel,
     by decide +kernel⟩,
   ⟨(runS.put (.CV_CFG_WIDTH 2) 16).setCv 2 { hold := .host 1, run := 5 }, .s0, 2, cvTouch 2 (.host 1) ((runS.put (.CV_CFG_WIDTH 2) 16).setCv 2
     { hold := .host 1, run := 5 }), ⟨by decide +kernel, by decide +kernel, by decide +kernel⟩, by decide +kernel, by decide +kernel, by decide +kernel,
     rfl⟩,
   ⟨(runS.put (.CV_CFG_WIDTH 2) 16).setCv 2 { hold := .host 1, dma := some (0x800000, 4) }, .s0, 2, cvTouch 2 (.host 1) ((runS.put (.CV_CFG_WIDTH 2)
     16).setCv 2 { hold := .host 1, dma := some (0x800000, 4) }), ⟨by decide +kernel, by decide +kernel, by decide +kernel⟩, by decide +kernel,
     by decide +kernel, by decide +kernel, rfl⟩,
   ⟨runS, .s0, 2, ⟨by decide +kernel, by decide +kernel, by decide +kernel⟩, by decide +kernel⟩,
   ⟨(runS.put (.CV_CFG_WIDTH 2) 16).setCv 2 { hold := .host 2 }, .s0, 2, ⟨by decide +kernel, by decide +kernel, by decide +kernel⟩, by decide +kernel,
     by decide +kernel⟩,
   ⟨(runS.put (.CV_CFG_WIDTH 2) 16).setCv 2 { hold := .host 1, run := 5 }, .s0, 2, cvTouch 2 (.host 1) ((runS.put (.CV_CFG_WIDTH 2) 16).setCv 2
     { hold := .host 1, run := 5 }), ⟨by decide +kernel, by decide +kernel, by decide +kernel⟩, by decide +kernel, by decide +kernel, by decide +kernel,
     rfl⟩,
   ⟨(runS.put (.CV_CFG_WIDTH 2) 16).setCv 2 { hold := .host 1, dma := some (0x800000, 4) }, .s0, 2, cvTouch 2 (.host 1) ((runS.put (.CV_CFG_WIDTH 2)
     16).setCv 2 { hold := .host 1, dma := some (0x800000, 4) }), ⟨by decide +kernel, by decide +kernel, by decide +kernel⟩, by decide +kernel,
     by decide +kernel, by decide +kernel, rfl⟩,
   ⟨runS, .s0, 2, ⟨by decide +kernel, by decide +kernel, by decide +kernel⟩, by decide +kernel⟩,
   ⟨(runS.put (.CV_CFG_WIDTH 2) 16).setCv 2 { hold := .host 1, run := 5 }, .s0, 2, ⟨by decide +kernel, by decide +kernel, by decide +kernel⟩,
     by decide +kernel, by decide +kernel, by decide +kernel⟩,
   ⟨(runS.put (.CV_CFG_WIDTH 2) 16).setCv 2 { hold := .host 1, run := 5, dma := some (0x800000, 4) }, .s0, 2, cvTouch 2 (.host 1) ((runS.put
     (.CV_CFG_WIDTH 2) 16).setCv 2 { hold := .host 1, run := 5, dma := some (0x800000, 4) }), ⟨by decide +kernel, by decide +kernel, by decide +kernel⟩,
     by decide +kernel, by decide +kernel, by decide +kernel, rfl⟩,
   ⟨(runS.put (.CV_CFG_WIDTH 2) 16).setCv 2 { hold := .host 1, run := 5, dma := some (0x800000, 4) }, .s0, 2, cvTouch 2 (.host 1) ((runS.put
     (.CV_CFG_WIDTH 2) 16).setCv 2 { hold := .host 1, run := 5, dma := some (0x800000, 4) }), ⟨by decide +kernel, by decide +kernel, by decide +kernel⟩,
     by decide +kernel, by decide +kernel, by decide +kernel, rfl⟩,
   ⟨(runS.put (.CV_CFG_WIDTH 2) 16).setCv 2 { hold := .host 1, run := 5 }, .s0, 2, ⟨by decide +kernel, by decide +kernel, by decide +kernel⟩,
     by decide +kernel, by decide +kernel, by decide +kernel, by decide +kernel⟩,
   ⟨(((runS.put (.CV_CFG_WIDTH 2) 16).setCv 2 { hold := .host 1, run := 5 }).put (.CV_DMA_ADDR_ADDR 2) 0xFFFFFB).put (.CV_DMA_LEN_LEN 2) 5, .s0, 2,
     cvTouch 2 (.host 1) ((((runS.put (.CV_CFG_WIDTH 2) 16).setCv 2 { hold := .host 1, run := 5 }).put (.CV_DMA_ADDR_ADDR 2) 0xFFFFFB).put (.CV_DMA_LEN_LEN
     2) 5), ⟨by decide +kernel, by decide +kernel, by decide +kernel⟩, by decide +kernel, by decide +kernel, by decide +kernel, by decide +kernel,
     by decide +kernel, by decide +kernel, rfl⟩,
   ⟨(((runS.put (.CV_CFG_WIDTH 2) 16).setCv 2 { hold := .host 1, run := 5 }).put (.CV_DMA_ADDR_ADDR 2) 0xFFFFFB).put (.CV_DMA_LEN_LEN 2) 6, .s0, 2,
     cvTouch 2 (.host 1) ((((runS.put (.CV_CFG_WIDTH 2) 16).setCv 2 { hold := .host 1, run := 5 }).put (.CV_DMA_ADDR_ADDR 2) 0xFFFFFB).put (.CV_DMA_LEN_LEN
     2) 6), ⟨by decide +kernel, by decide +kernel, by decide +kernel⟩, by decide +kernel, by decide +kernel, by decide +kernel, by decide +kernel,
     by decide +kernel, rfl⟩,
   ⟨(runS.put (.CV_CFG_WIDTH 2) 16).setCv 2 { hold := .host 1, run := 5 }, .s0, 2, ⟨by decide +kernel, by decide +kernel, by decide +kernel⟩,
     by decide +kernel, by decide +kernel⟩,
   ⟨runS, .s0, 2, ⟨by decide +kernel, by decide +kernel, by decide +kernel⟩, by decide +kernel⟩,
   ⟨runS, .s0, 2, ⟨by decide +kernel, by decide +kernel, by decide +kernel⟩, by decide +kernel⟩,
   ⟨runS, .s0, 2, ⟨by decide +kernel, by decide +kernel, by decide +kernel⟩, by decide +kernel⟩,
   ⟨runS, .s0, 2, ⟨by decide +kernel, by decide +kernel, by decide +kernel⟩, by decide +kernel⟩,
   ⟨{ (runS.put (.CV_CFG_WIDTH 2) 16).setCv 2 { hold := .host 1, run := 5, dma := some (0x800001, 4) } with qmem := [(0, 0x11223344)] }, 2, 0x800001, 4,
     by decide +kernel, by decide +kernel⟩,
   ⟨{ (runS.put (.CV_CFG_WIDTH 2) 16).setCv 2 { hold := .host 1, run := 5, dma := some (0x800001, 4), fin := true } with qmem := [(0, 0x11223344)] }, 2,
     0x800001, 4, by decide +kernel, by decide +kernel⟩,
   ⟨runS, 2, by decide +kernel⟩,
   ⟨((runS.put (.CV_CFG_WIDTH 2) 16).setCv 2 { hold := .host 1, run := 5 }).modTu (fun x => { x with edges := 98304000 }), 2, by decide +kernel,
     by decide +kernel⟩,
   ⟨runS, 2, by decide +kernel⟩,
   ⟨runS.setCv 2 { hold := .ctx 3 }, .s0, 2, ⟨by decide +kernel, by decide +kernel, by decide +kernel⟩, by decide +kernel⟩,
   ⟨runS, .s0, 2, ⟨by decide +kernel, by decide +kernel, by decide +kernel⟩, by decide +kernel⟩,
   ⟨runS, .s0, 2, ⟨by decide +kernel, by decide +kernel, by decide +kernel⟩, by decide +kernel⟩,
   ⟨runS.setCv 2 { hold := .ctx 3 }, .s0, 2, ⟨by decide +kernel, by decide +kernel, by decide +kernel⟩, by decide +kernel⟩,
   ⟨runS, .s0, 2, ⟨by decide +kernel, by decide +kernel, by decide +kernel⟩, by decide +kernel⟩,
   ⟨runS.setCv 2 { hold := .ctx 3 }, .s0, 2, ⟨by decide +kernel, by decide +kernel, by decide +kernel⟩, by decide +kernel⟩,
   ⟨runS, .s0, 2, ⟨by decide +kernel, by decide +kernel, by decide +kernel⟩, by decide +kernel⟩,
   ⟨runS.setCv 2 { hold := .ctx 3 }, .s0, 2, ⟨by decide +kernel, by decide +kernel, by decide +kernel⟩, by decide +kernel⟩,
   ⟨runS.put64 (Reg.CV_RESULT 2 0) 7, .s0, 2, by decide +kernel, by decide +kernel⟩⟩

theorem witness_HostPortFrames :
    (∃ (s : State) (cmd : Word) (addr : Word) (room : List Word) (crc : Word) (late : List Nat) (extra : Bool) (b : State), bits cmd 31 28 = 0 ∧
      s0Accepted s cmd addr room crc = true ∧ b = s0Begun cmd late extra s) ∧
    (∃ (s : State) (cmd : Word) (addr : Word) (room : List Word) (crc : Word), bits cmd 31 28 = 0 ∧ s0Accepted s cmd addr room crc = true) ∧
    (∃ (s : State) (cmd : Word) (addr : Word) (room : List Word) (crc : Word) (late : List Nat) (extra : Bool) (b : State), bits cmd 31 28 = 1 ∧
      s0Accepted s cmd addr room crc = true ∧ inWindow addr.toNat = false ∧ b = s0Result hrOk true cmd (s0Begun cmd late extra s)) ∧
    (∃ (s : State) (cmd : Word) (addr : Word) (room : List Word) (crc : Word), bits cmd 31 28 = 1 ∧ s0Accepted s cmd addr room crc = true ∧ inWindow
      addr.toNat = true ∧ winKept s cmd addr = true) ∧
    (∃ (s : State) (cmd : Word) (addr : Word) (room : List Word) (crc : Word), bits cmd 31 28 = 1 ∧ s0Accepted s cmd addr room crc = true ∧ inWindow
      addr.toNat = true ∧ winKept s cmd addr = false) ∧
    (∃ (s : State) (cmd : Word) (addr : Word) (data : List Word) (crc : Word) (late : List Nat) (extra : Bool) (b : State) (q : Bool × State), bits cmd 31
      28 = 2 ∧ s0Accepted s cmd addr data crc = true ∧ inWindow addr.toNat = false ∧ b = s0Begun cmd late extra s ∧ q = writeWords .s0 (busFn .s0)
      ((frameAddrs cmd addr).zip data) b) ∧
    (∃ (s : State) (cmd : Word) (addr : Word) (data : List Word) (crc : Word) (late : List Nat) (extra : Bool) (q : Nat × State), bits cmd 31 28 = 2 ∧
      s0Accepted s cmd addr data crc = true ∧ inWindow addr.toNat = true ∧ winOpen s = true ∧ q = winWrite (addr.toNat - winBase) (bitAt cmd 16) data
      (s0Begun cmd late extra s)) ∧
    (∃ (s : State) (cmd : Word) (addr : Word) (data : List Word) (crc : Word) (late : List Nat) (extra : Bool) (b : State), bits cmd 31 28 = 2 ∧
      s0Accepted s cmd addr data crc = true ∧ inWindow addr.toNat = true ∧ winOpen s = false ∧ b = s0Begun cmd late extra s) ∧
    (∃ (s : State) (cmd : Word) (addr : Word) (d : Word) (crc : Word), bits cmd 31 28 = 3 ∧ s0Accepted s cmd addr [d] crc = true ∧ bitAt d 0 = false) ∧
    (∃ (s : State) (cmd : Word) (addr : Word) (d : Word) (crc : Word), bits cmd 31 28 = 3 ∧ s0Accepted s cmd addr [d] crc = true ∧ bitAt d 0 = true ∧ s.is
      .SP0_CFG_QUAD_EN = true ∧ s.get .BT_STAT_STATE = 1 ∧ (s0Fall s).s0.quad = false) ∧
    (∃ (s : State) (cmd : Word) (addr : Word) (d : Word) (crc : Word), bits cmd 31 28 = 3 ∧ s0Accepted s cmd addr [d] crc = true ∧ bitAt d 0 = true ∧
      (s.is .SP0_CFG_QUAD_EN = false ∨ s.get .BT_STAT_STATE ≠ 1 ∨ (s0Fall s).s0.quad = true)) ∧
    (∃ (s : State) (cmd : Word) (addr : Word) (data : List Word) (crc : Word), s0Arrives s cmd data = true ∧ bitAt cmd 17 = true ∧ bits crc 15 0 ≠ crc16
      (cmd :: addr :: data)) ∧
    (∃ (s : State) (cmd : Word) (addr : Word) (data : List Word) (crc : Word) (late : List Nat) (extra : Bool) (b : State), s0Complete s cmd addr data crc
      = true ∧ s.is .SV_STAT_SWITCHING = true ∧ b = s0Begun cmd late extra s) ∧
    (∃ (s : State) (cmd : Word) (addr : Word) (data : List Word) (crc : Word) (late : List Nat) (extra : Bool) (b : State), s0Complete s cmd addr data crc
      = true ∧ s.is .SV_STAT_SWITCHING = false ∧ badCmd cmd crc data = true ∧ b = s0Begun cmd late extra s) ∧
    (∃ (s : State) (cmd : Word) (addr : Word) (data : List Word) (crc : Word) (late : List Nat) (extra : Bool) (b : State), s0Complete s cmd addr data crc
      = true ∧ s.is .SV_STAT_SWITCHING = false ∧ badCmd cmd crc data = false ∧ badAddr cmd addr = true ∧ b = s0Begun cmd late extra s) ∧
    (∃ (s : State) (cmd : Word) (data : List Word), data.length = dataLen (s0Fall s).s0.quad cmd ∧ s0Serves (s0Fall s) = false) ∧
    (∃ (s : State) (cmd : Word) (data : List Word), bits cmd 31 28 ≠ 3 ∧ data.length ≠ dataLen (s0Fall s).s0.quad cmd) ∧
    (∃ (s : State) (cmd : Word), 1 ≤ bits cmd 31 28 ∧ bits cmd 31 28 ≤ 3) ∧
    (∃ (s : State) (cmd : Word), bits cmd 31 28 ≠ 1) ∧
    (∃ (s : State) (cmd : Word), bits cmd 31 28 ≠ 2) ∧
    (∃ (s : State) (cmd : Word), bits cmd 31 28 ≠ 3) ∧
    (∃ (s : State) (cmd : Word) (ws : List Word), s0Serves (s0Fall s) = true ∧ frameShort (s0Fall s).s0.quad (cmd :: ws) = true) ∧
    (∃ (s : State), s0Serves (s0Fall s) = true) ∧
    (∃ (s : State) (ws : List Word), s0Serves (s0Fall s) = false ∧ frameShort (s0Fall s).s0.quad ws = true) ∧
    (∃ (s : State), s0Serves (s0Fall s) = true) ∧
    (∃ (s : State), s0Serves (s0Fall s) = true) ∧
    (∃ (s : State), s0Serves (s0Fall s) = false) ∧
    (∃ (s : State) (ws : List Word), frameShort (s0Fall s).s0.quad ws = false) ∧
    (∃ (s : State), s0Serves (s0Fall s) = true) ∧
    (∃ (s : State), s0Serves (s0Fall s) = false) :=
  ⟨⟨runS, 0x00005500, 0, [0], 0, [], true, s0Begun 0x00005500 [] true runS, by decide +kernel, by decide +kernel, rfl⟩,
   ⟨runS, 0x00005500, 0, [0], 0, by decide +kernel, by decide +kernel⟩,
   ⟨runS, 0x10005500, 0x2000, [0], 0, [], false, s0Result hrOk true 0x10005500 (s0Begun 0x10005500 [] false runS), by decide +kernel, by decide +kernel,
     by decide +kernel, rfl⟩,
   ⟨runS.modS0 (fun h => { h with buf := some { addr := 8, cnt := 0, inc := false, words := some [7] } }), 0x10005500, 0x10000008, [0], 0,
     by decide +kernel, by decide +kernel, by decide +kernel, by decide +kernel⟩,
   ⟨runS, 0x10005500, 0x10000008, [0], 0, by decide +kernel, by decide +kernel, by decide +kernel, by decide +kernel⟩,
   ⟨runS, 0x20005500, 0x14, [7], 0, [], false, s0Begun 0x20005500 [] false runS, writeWords .s0 (busFn .s0) [(0x14, 7)] (s0Begun 0x20005500 [] false
     runS), by decide +kernel, by decide +kernel, by decide +kernel, rfl, rfl⟩,
   ⟨runS, 0x20005500, 0x10000008, [7], 0, [], false, winWrite 8 false [7] (s0Begun 0x20005500 [] false runS), by decide +kernel, by decide +kernel,
     by decide +kernel, by decide +kernel, rfl⟩,
   ⟨runS.set1 .MOD_CFG_LOCK_S0_RO, 0x20005500, 0x10000008, [7], 0, [], false, s0Begun 0x20005500 [] false (runS.set1 .MOD_CFG_LOCK_S0_RO),
     by decide +kernel, by decide +kernel, by decide +kernel, by decide +kernel, rfl⟩,
   ⟨runS, 0x30005500, 0, 0, 0, by decide +kernel, by decide +kernel, by decide +kernel⟩,
   ⟨runS.set1 .SP0_CFG_QUAD_EN, 0x30005500, 0, 1, 0, by decide +kernel, by decide +kernel, by decide +kernel, by decide +kernel, by decide +kernel,
     by decide +kernel⟩,
   ⟨runS.put .SP0_CFG_QUAD_EN 0, 0x30005500, 0, 1, 0, by decide +kernel, by decide +kernel, by decide +kernel, by decide +kernel⟩,
   ⟨runS, 0x00025500, 0, [0], 0, by decide +kernel, by decide +kernel, by decide +kernel⟩,
   ⟨runS.set1 .SV_STAT_SWITCHING, 0x20005500, 0x14, [0], 0, [], false, s0Begun 0x20005500 [] false (runS.set1 .SV_STAT_SWITCHING), by decide +kernel,
     by decide +kernel, rfl⟩,
   ⟨runS, 0x50005500, 0x14, [], 0, [], false, s0Begun 0x50005500 [] false runS, by decide +kernel, by decide +kernel, by decide +kernel, rfl⟩,
   ⟨runS, 0x20005500, 0x15, [0], 0, [], false, s0Begun 0x20005500 [] false runS, by decide +kernel, by decide +kernel, by decide +kernel,
     by decide +kernel, rfl⟩,
   ⟨{}, 0x20005500, [0], by decide +kernel, by decide +kernel⟩,
   ⟨runS, 0x20005500, [], by decide +kernel, by decide +kernel⟩,
   ⟨runS, 0x10005500, by decide +kernel, by decide +kernel⟩,
   ⟨runS, 0x00005500, by decide +kernel⟩,
   ⟨runS, 0x00005500, by decide +kernel⟩,
   ⟨runS, 0x00005500, by decide +kernel⟩,
   ⟨runS, 0x20005500, [0x14], by decide +kernel, by decide +kernel⟩,
   ⟨runS, by decide +kernel⟩,
   ⟨{}, [], by decide +kernel, by decide +kernel⟩,
   ⟨runS, by decide +kernel⟩,
   ⟨runS, by decide +kernel⟩,
   ⟨{}, by decide +kernel⟩,
   ⟨runS, [0x20005500, 0x14, 7], by decide +kernel⟩,
   ⟨runS, by decide +kernel⟩,
   ⟨{}, by decide +kernel⟩⟩

theorem witness_MemoryAndGeneralPorts :
    (∃ (s : State) (b : WinBuf) (a : Nat), s.s0.buf = some b ∧ b.words = none ∧ s1Run s b.cs = 0 ∧ a = b.base * 65536 + b.addr ∧ b.inc = true) ∧
    (∃ (s : State) (b : WinBuf) (a : Nat), s.s0.buf = some b ∧ b.words = none ∧ s1Run s b.cs = 0 ∧ a = b.base * 65536 + b.addr ∧ b.inc = false) ∧
    (∃ (s : State) (b : WinBuf), s.s0.buf = some b ∧ (b.words ≠ none ∨ s1Run s b.cs ≠ 0)) ∧
    (∃ (s : State), s.s0.buf = none) ∧
    (∃ (s : State) (cs : Nat) (a : Nat) (l : List Byte) (r : List (Nat × List Byte)), s.sp1.win = some cs ∧ s.sp1.pieces = (a, l) :: r ∧ s1Run s cs = 9) ∧
    (∃ (s : State) (cs : Nat) (a : Nat) (i : Nat) (l : List Byte) (r : List (Nat × List Byte)) (x : Byte), s.sp1.win = some cs ∧ s.sp1.pieces = (a, l) ::
      r ∧ s1Run s cs = 9 ∧ cs < 2 ∧ a + l.length ≤ 2 ^ 29 ∧ l[i]? = some x) ∧
    (∃ (s : State) (cs : Nat) (a : Nat) (l : List Byte) (r : List (Nat × List Byte)) (o : Fin 3), s.sp1.win = some cs ∧ s.sp1.pieces = (a, l) :: r ∧ s1Run
      s cs = 9 ∧ o ≠ 0) ∧
    (∃ (s : State), (s.sp1.win = none ∨ s.sp1.pieces = [])) ∧
    (∃ (s : State) (cs : Nat), s.sp1.win = some cs ∧ s1Run s cs ≠ 9) ∧
    (∃ (s : State), s.sp1.win.isSome = true ∧ s.sp1.pieces = []) ∧
    (∃ (s : State), (s.sp1.win = none ∨ s.sp1.pieces ≠ [])) ∧
    (∃ (s : State) (r : Req) (et : Fin 4) (cs : Fin 2), Admitted s r Reg.SP1_CMD Msk.SP1_CMD ∧ s.get .SP1_STAT_STATE = 0 ∧ flashRefusal s r cs (s.get
      .SP1_ADDR_ADDR) (if eraseLog s cs et = 0 then 1 else 2 ^ eraseLog s cs et) (some et) = 0) ∧
    (∃ (s : State) (r : Req) (et : Fin 4) (cs : Fin 2) (n : Nat), Admitted s r Reg.SP1_CMD Msk.SP1_CMD ∧ s.get .SP1_STAT_STATE = 0 ∧ flashRefusal s r cs
      (s.get .SP1_ADDR_ADDR) (if eraseLog s cs et = 0 then 1 else 2 ^ eraseLog s cs et) (some et) = n ∧ n ≠ 0) ∧
    (∃ (s : State) (r : Req), Admitted s r Reg.SP1_CMD Msk.SP1_CMD ∧ s.get .SP1_STAT_STATE ≠ 0) ∧
    (∃ (s : State) (r : Req), Admitted s r Reg.SP1_CMD Msk.SP1_CMD ∧ s.get .SP1_STAT_STATE = 0 ∧ (s.is .SP1_CFG_RAW_EN = true ∨ s.get .BT_STAT_STATE = 2)) ∧
    (∃ (s : State) (r : Req), Admitted s r Reg.SP1_CMD Msk.SP1_CMD ∧ s.get .SP1_STAT_STATE = 0 ∧ s.is .SP1_CFG_RAW_EN = false ∧ s.get .BT_STAT_STATE ≠ 2) ∧
    (∃ (s : State) (r : Req), Admitted s r Reg.SP1_CMD Msk.SP1_CMD ∧ s.get .SP1_STAT_STATE ≠ 0) ∧
    (∃ (s : State) (cs : Nat) (a : Nat) (n : Nat), s.sp1.cmd = some (cs, .erase a n) ∧ s1Run s cs = 10 ∧ cs < 2 ∧ a + 2 ^ n ≤ 2 ^ 29) ∧
    (∃ (s : State) (cs : Nat) (a : Nat) (n : Nat) (o : Fin 3), s.sp1.cmd = some (cs, .erase a n) ∧ s1Run s cs = 10 ∧ o ≠ 0) ∧
    (∃ (s : State) (cs : Nat) (rx : List Byte) (chg : List (Nat × Byte)) (b : State), s.sp1.cmd = some (cs, .raw) ∧ s1Run s cs = 10 ∧ b = (if s.is
      .SP1_FRAME_WRITE then rawChanges cs chg s else putBuf (Reg.SP1_BUF 0) (rx.take (min (s.get .SP1_FRAME_LEN) 256)) (rawChanges cs chg s))) ∧
    (∃ (s : State), s.sp1.cmd = none) ∧
    (∃ (s : State) (cs : Nat) (j : FlashJob), s.sp1.cmd = some (cs, j) ∧ s1Run s cs ≠ 10) ∧
    (∃ (s : State) (r : Req), Admitted s r Reg.SP2_CMD Msk.SP2_CMD ∧ s.sp2.role = 1 ∧ s.is .SP2_STAT_MODF = false ∧ s.sp2.xfer = none ∧ s.is
      .SP2_CFG_FRAME = true) ∧
    (∃ (s : State) (r : Req), Admitted s r Reg.SP2_CMD Msk.SP2_CMD ∧ s.sp2.role = 1 ∧ s.is .SP2_STAT_MODF = false ∧ s.sp2.xfer = none ∧ s.is
      .SP2_CFG_FRAME = false) ∧
    (∃ (s : State) (r : Req), Admitted s r Reg.SP2_CMD Msk.SP2_CMD ∧ s.sp2.role = 1 ∧ s.is .SP2_STAT_MODF = false ∧ s.sp2.xfer ≠ none) ∧
    (∃ (s : State) (r : Req), Admitted s r Reg.SP2_CMD Msk.SP2_CMD ∧ (s.sp2.role ≠ 1 ∨ s.is .SP2_STAT_MODF = true)) ∧
    (∃ (s : State) (x : S2Xfer), s.sp2.xfer = some x ∧ x.ctx = none ∧ x.frame = false) ∧
    (∃ (s : State) (x : S2Xfer), s.sp2.xfer = some x ∧ x.ctx = none ∧ x.frame = true ∧ s.is .SP2_FRAME_WRITE = false) ∧
    (∃ (s : State) (x : S2Xfer), s.sp2.xfer = some x ∧ x.ctx = none ∧ x.frame = true ∧ s.is .SP2_FRAME_WRITE = true) ∧
    (∃ (s : State) (x : S2Xfer) (c : Nat) (k : Nat) (b : State), s.sp2.xfer = some x ∧ x.ctx = some c ∧ k = (if x.frame then 1 else wordBytes s) ∧ b =
      sp2Show (s.modSp2 (fun p => { p with xfer := none }))) ∧
    (∃ (s : State), s.sp2.xfer = none) ∧
    (∃ (s : State) (x : S2Xfer), s.sp2.role = 1 ∧ s.is .SP2_CFG_MM_EN = true ∧ s.sp2.xfer = some x ∧ x.ctx = none) ∧
    (∃ (s : State) (x : S2Xfer) (c : Nat) (b : State), s.sp2.role = 1 ∧ s.is .SP2_CFG_MM_EN = true ∧ s.sp2.xfer = some x ∧ x.ctx = some c ∧ b = (sp2Show
      ((s.set1 .SP2_STAT_MODF).modSp2 (fun p => { p with xfer := none }))).modCtx c (fun y =>
      { y with evOff := true, offAt := if y.evOff then y.offAt else clk s })) ∧
    (∃ (s : State), s.sp2.role = 1 ∧ s.is .SP2_CFG_MM_EN = true ∧ s.sp2.xfer = none) ∧
    (∃ (s : State), (s.sp2.role ≠ 1 ∨ s.is .SP2_CFG_MM_EN = false)) ∧
    (∃ (s : State) (r : Req), Admitted s r Reg.SP2_SLV_CMD Msk.SP2_SLV_CMD) ∧
    (∃ (s : State) (l : List Word), s.sp2.role = 2 ∧ s.sp2.slave = none ∧ s.sp2.post = some l) ∧
    (∃ (s : State), s.sp2.role = 2 ∧ s.sp2.slave = none ∧ s.sp2.post = none) ∧
    (∃ (s : State), (s.sp2.role ≠ 2 ∨ s.sp2.slave ≠ none)) ∧
    (∃ (s : State) (f : S2Slave) (rx : List Word) (frag : Bool) (b : State), s.sp2.slave = some f ∧ slvQ s = false ∧ slvC s = false ∧ b = (if frag then
      s.set1 .SP2_STAT_FRAG else s).modSp2 (fun p =>
      { p with slave := none, last := if rx = [] then s.sp2.last else slaveSlot s f (rx.length - 1), sent := (List.range rx.length).map (slaveSlot s f) })) ∧
    (∃ (s : State) (f : S2Slave) (rx : List Word) (frag : Bool) (b : State) (l : List Byte), s.sp2.slave = some f ∧ slvQ s = true ∧ b = (if frag then
      s.set1 .SP2_STAT_FRAG else s).modSp2 (fun p =>
      { p with slave := none, last := if rx = [] then s.sp2.last else slaveSlot s f (rx.length - 1), sent := (List.range rx.length).map (slaveSlot s f) }) ∧
      l = rxBytesOf (wordBytes s) (rx.map (fun w => wd (w.toNat % 2 ^ s2Bits s)))) ∧
    (∃ (s : State) (f : S2Slave) (rx : List Word) (frag : Bool) (b : State) (l : List Byte), s.sp2.slave = some f ∧ slvQ s = false ∧ slvC s = true ∧ b =
      (if frag then s.set1 .SP2_STAT_FRAG else s).modSp2 (fun p =>
      { p with slave := none, last := if rx = [] then s.sp2.last else slaveSlot s f (rx.length - 1), sent := (List.range rx.length).map (slaveSlot s f) }) ∧
      l = rxBytesOf (wordBytes s) (rx.map (fun w => wd (w.toNat % 2 ^ s2Bits s)))) ∧
    (∃ (s : State), s.sp2.slave = none) ∧
    (∃ (s : State), s.sp2.xfer = none ∧ s.sp2.slave = none) ∧
    (∃ (s : State), (s.sp2.xfer ≠ none ∨ s.sp2.slave ≠ none)) :=
  ⟨⟨runS.modS0 (fun h => { h with buf := some { addr := 8, cnt := 1, inc := true } }), { addr := 8, cnt := 1, inc := true }, 8, by decide +kernel,
     by decide +kernel, by decide +kernel, by decide +kernel, by decide +kernel⟩,
   ⟨runS.modS0 (fun h => { h with buf := some { addr := 8, cnt := 1, inc := false } }), { addr := 8, cnt := 1, inc := false }, 8, by decide +kernel,
     by decide +kernel, by decide +kernel, by decide +kernel, by decide +kernel⟩,
   ⟨runS.modS0 (fun h => { h with buf := some { addr := 8, cnt := 1, inc := true, words := some [1, 2] } }),
     { addr := 8, cnt := 1, inc := true, words := some [1, 2] }, by decide +kernel, by decide +kernel⟩,
   ⟨runS, by decide +kernel⟩,
   ⟨runS.modSp1 (fun p => { p with win := some 0, pieces := [(256, [0x5A, 2])], run := [(0, 9)] }), 0, 256, [0x5A, 2], [], by decide +kernel,
     by decide +kernel, by decide +kernel⟩,
   ⟨runS.modSp1 (fun p => { p with win := some 0, pieces := [(256, [0x5A, 2])], run := [(0, 9)] }), 0, 256, 1, [0x5A, 2], [], 2, by decide +kernel,
     by decide +kernel, by decide +kernel, by decide +kernel, by decide +kernel, by decide +kernel⟩,
   ⟨runS.modSp1 (fun p => { p with win := some 0, pieces := [(256, [0x5A, 2])], run := [(0, 9)] }), 0, 256, [0x5A, 2], [], 1, by decide +kernel,
     by decide +kernel, by decide +kernel, by decide +kernel⟩,
   ⟨runS, by decide +kernel⟩,
   ⟨runS.modSp1 (fun p => { p with win := some 0 }), 0, by decide +kernel, by decide +kernel⟩,
   ⟨runS.modSp1 (fun p => { p with win := some 0, winErr := 1 }), by decide +kernel, by decide +kernel⟩,
   ⟨runS, by decide +kernel⟩,
   ⟨((((runS.put ⟨Reg.SP1_ERASE 0, 7, 0⟩ 12).put (.SP1_DISC_VALID 0) 1).put (.SP1_DISC_SIZE 0) 26).put .SP1_ADDR_ADDR 0x3001000), .s0, 0, 0,
     ⟨by decide +kernel, by decide +kernel, by decide +kernel⟩, by decide +kernel, by decide +kernel⟩,
   ⟨((((runS.put ⟨Reg.SP1_ERASE 0, 7, 0⟩ 12).put (.SP1_DISC_VALID 0) 1).put (.SP1_DISC_SIZE 0) 26).put .SP1_ADDR_ADDR 0x3001004), .s0, 0, 0, 4,
     ⟨by decide +kernel, by decide +kernel, by decide +kernel⟩, by decide +kernel, by decide +kernel, by decide +kernel⟩,
   ⟨runS.put .SP1_STAT_STATE 2, .s0, ⟨by decide +kernel, by decide +kernel, by decide +kernel⟩, by decide +kernel⟩,
   ⟨runS.set1 .SP1_CFG_RAW_EN, .s0, ⟨by decide +kernel, by decide +kernel, by decide +kernel⟩, by decide +kernel, by decide +kernel⟩,
   ⟨runS, .s0, ⟨by decide +kernel, by decide +kernel, by decide +kernel⟩, by decide +kernel, by decide +kernel, by decide +kernel⟩,
   ⟨runS.put .SP1_STAT_STATE 2, .s0, ⟨by decide +kernel, by decide +kernel, by decide +kernel⟩, by decide +kernel⟩,
   ⟨{ runS with sp1 := { runS.sp1 with cmd := some (0, .erase 0x1000 3), run := [(0, 10)] }, flash := [(0x1001, 5)] }, 0, 0x1000, 3, by decide +kernel,
     by decide +kernel, by decide +kernel, by decide +kernel⟩,
   ⟨{ runS with sp1 := { runS.sp1 with cmd := some (0, .erase 0x1000 3), run := [(0, 10)] }, flash := [(0x1001, 5)] }, 0, 0x1000, 3, 1,
     by decide +kernel, by decide +kernel, by decide +kernel⟩,
   ⟨{ runS with sp1 := { runS.sp1 with cmd := some (0, .raw), run := [(0, 10)] } }, 0, [1, 2], [(5, 6)], putBuf (Reg.SP1_BUF 0) ([1, 2].take (min
     (runS.get .SP1_FRAME_LEN) 256)) (rawChanges 0 [(5, 6)] ({ runS with sp1 := { runS.sp1 with cmd := some (0, .raw), run := [(0, 10)] } })),
     by decide +kernel, by decide +kernel, rfl⟩,
   ⟨runS, by decide +kernel⟩,
   ⟨runS.modSp1 (fun p => { p with cmd := some (0, .raw) }), 0, .raw, by decide +kernel, by decide +kernel⟩,
   ⟨{ (runS.set1 .SP2_CFG_FRAME).set1 .SP2_FRAME_WRITE with sp2 := { runS.sp2 with role := 1 } }, .s0, ⟨by decide +kernel, by decide +kernel,
     by decide +kernel⟩, by decide +kernel, by decide +kernel, by decide +kernel, by decide +kernel⟩,
   ⟨{ runS with sp2 := { runS.sp2 with role := 1 } }, .s0, ⟨by decide +kernel, by decide +kernel, by decide +kernel⟩, by decide +kernel,
     by decide +kernel, by decide +kernel, by decide +kernel⟩,
   ⟨{ runS with sp2 := { runS.sp2 with role := 1, xfer := some { ss := 1, n := 1, frame := true, start := 0 } } }, .s0, ⟨by decide +kernel,
     by decide +kernel, by decide +kernel⟩, by decide +kernel, by decide +kernel, by decide +kernel⟩,
   ⟨runS, .s0, ⟨by decide +kernel, by decide +kernel, by decide +kernel⟩, by decide +kernel⟩,
   ⟨{ runS with sp2 := { runS.sp2 with role := 1, xfer := some { ss := 1, n := 2, frame := false, start := 0 } } },
     { ss := 1, n := 2, frame := false, start := 0 }, by decide +kernel, by decide +kernel, by decide +kernel⟩,
   ⟨{ runS with sp2 := { runS.sp2 with role := 1, xfer := some { ss := 1, n := 2, frame := true, start := 0 } } },
     { ss := 1, n := 2, frame := true, start := 0 }, by decide +kernel, by decide +kernel, by decide +kernel, by decide +kernel⟩,
   ⟨{ runS.set1 .SP2_FRAME_WRITE with sp2 := { runS.sp2 with role := 1, xfer := some { ss := 1, n := 2, frame := true, start := 0 } } },
     { ss := 1, n := 2, frame := true, start := 0 }, by decide +kernel, by decide +kernel, by decide +kernel, by decide +kernel⟩,
   ⟨{ hoS [] with sp2 := { runS.sp2 with role := 1, xfer := some { ctx := some 3, ss := 1, n := 2, frame := false, start := 0 } } },
     { ctx := some 3, ss := 1, n := 2, frame := false, start := 0 }, 3, wordBytes runS, sp2Show { hoS [] with sp2 := { runS.sp2 with role := 1 } },
     by decide +kernel, by decide +kernel, by decide +kernel, rfl⟩,
   ⟨runS, by decide +kernel⟩,
   ⟨{ runS.set1 .SP2_CFG_MM_EN with sp2 := { runS.sp2 with role := 1, xfer := some { ss := 1, n := 2, frame := false, start := 0 } } },
     { ss := 1, n := 2, frame := false, start := 0 }, by decide +kernel, by decide +kernel, by decide +kernel, by decide +kernel⟩,
   ⟨{ runS.set1 .SP2_CFG_MM_EN with sp2 := { runS.sp2 with role := 1, xfer := some { ctx := some 3, ss := 1, n := 2, frame := false, start := 0 } } },
     { ctx := some 3, ss := 1, n := 2, frame := false, start := 0 }, 3, (sp2Show
     { (runS.set1 .SP2_CFG_MM_EN).set1 .SP2_STAT_MODF with sp2 := { runS.sp2 with role := 1 } }).modCtx 3 (fun y =>
     { y with evOff := true, offAt := if y.evOff then y.offAt else clk runS }), by decide +kernel, by decide +kernel, by decide +kernel, by decide +kernel,
     rfl⟩,
   ⟨{ runS.set1 .SP2_CFG_MM_EN with sp2 := { runS.sp2 with role := 1 } }, by decide +kernel, by decide +kernel, by decide +kernel⟩,
   ⟨runS, by decide +kernel⟩,
   ⟨runS, .s0, ⟨by decide +kernel, by decide +kernel, by decide +kernel⟩⟩,
   ⟨{ runS with sp2 := { runS.sp2 with role := 2, post := some [5] } }, [5], by decide +kernel, by decide +kernel, by decide +kernel⟩,
   ⟨{ runS with sp2 := { runS.sp2 with role := 2 } }, by decide +kernel, by decide +kernel, by decide +kernel⟩,
   ⟨runS, by decide +kernel⟩,
   ⟨{ runS with sp2 := { runS.sp2 with role := 2, slave := some ⟨0, [5, 6], false⟩ } }, ⟨0, [5, 6], false⟩, [7], true,
     ({ runS with sp2 := { runS.sp2 with role := 2, slave := some ⟨0, [5, 6], false⟩ } }).set1 .SP2_STAT_FRAG |>.modSp2 (fun p =>
     { p with slave := none, last := 5, sent := [5] }), by decide +kernel, by decide +kernel, by decide +kernel, rfl⟩,
   ⟨{ (((runS.set1 .SP2_SLV_Q_EN).put .SP2_SLV_Q 86).put (.Q_CFG_DEPTH 86) 4).put (.Q_CFG_ESIZE 86) 5 with sp2 := { runS.sp2 with role := 2, slave := some ⟨0, [5, 6], false⟩ } },
     ⟨0, [5, 6], false⟩, [7], true,
     ({ (((runS.set1 .SP2_SLV_Q_EN).put .SP2_SLV_Q 86).put (.Q_CFG_DEPTH 86) 4).put (.Q_CFG_ESIZE 86) 5 with sp2 := { runS.sp2 with role := 2, slave := some ⟨0, [5, 6], false⟩ } }).set1
     .SP2_STAT_FRAG |>.modSp2 (fun p => { p with slave := none, last := 5, sent := [5] }), rxBytesOf (wordBytes runS) [7], by decide +kernel,
     by decide +kernel, rfl, by decide +kernel⟩,
   ⟨{ ((hoS []).set1 .SP2_SLV_CTX_EN).put .SP2_SLV_CTX 3 with sp2 := { runS.sp2 with role := 2, slave := some ⟨0, [5, 6], false⟩ } }, ⟨0, [5, 6], false⟩,
     [7], true, ({ ((hoS []).set1 .SP2_SLV_CTX_EN).put .SP2_SLV_CTX 3 with sp2 := { runS.sp2 with role := 2, slave := some ⟨0, [5, 6], false⟩ } }).set1
     .SP2_STAT_FRAG |>.modSp2 (fun p => { p with slave := none, last := 5, sent := [5] }), rxBytesOf (wordBytes runS) [7], by decide +kernel,
     by decide +kernel, by decide +kernel, rfl, by decide +kernel⟩,
   ⟨runS, by decide +kernel⟩,
   ⟨runS.put .SP2_CFG_ROLE 2, by decide +kernel, by decide +kernel⟩,
   ⟨{ runS with sp2 := { runS.sp2 with role := 2, xfer := some { ss := 1, n := 2, frame := false, start := 0 } } }, by decide +kernel⟩⟩

theorem witness_RingLinks :
    (∃ (s : State), s.csn.listen = true ∧ s.csn.phaseAt + 2 * tickMs ≤ clk s) ∧
    (∃ (s : State), s.csn.listen = true ∧ s.csn.phaseAt + 2 * tickMs ≤ clk s) ∧
    (∃ (s : State), (s.csn.listen = false ∨ clk s < s.csn.phaseAt + 2 * tickMs)) ∧
    (∃ (s : State) (ep : BitVec 16), ringBarred s = false ∧ (s.csn.relock = true ∨ (s.get .CSN_STAT_STATE = csJoinWait ∧ s.get .CSN_EPOCH_EPOCH ≠ 0 ∧
      s.get .CSN_STAT_ADDR ≠ 0xFF)) ∧ s.get .CSN_EPOCH_EPOCH = ep.toNat) ∧
    (∃ (s : State) (ep : BitVec 16), ringBarred s = false ∧ s.csn.relock = true ∧ s.get .CSN_EPOCH_EPOCH ≠ ep.toNat) ∧
    (∃ (s : State) (ep : BitVec 16), (ringBarred s = true ∨ (s.csn.relock = false ∧ (s.get .CSN_STAT_STATE ≠ csJoinWait ∨ s.get .CSN_EPOCH_EPOCH ≠
      ep.toNat)))) ∧
    (∃ (s : State), s.csn.relock = true ∧ s.csn.phaseAt + tickMs ≤ clk s) ∧
    (∃ (s : State), (s.csn.relock = false ∨ clk s < s.csn.phaseAt + tickMs)) ∧
    (∃ (s : State) (x : Fin 2), s.csn.closed = false ∧ linkUpR s x = false ∧ s.get (.CSN_LK_STAT_STEP x) = 0 ∧ (s.link x).at_ + 100 * tickMs ≤ clk s) ∧
    (∃ (s : State) (x : Fin 2), (s.csn.closed = true ∨ linkUpR s x = true ∨ s.get (.CSN_LK_STAT_STEP x) ≠ 0 ∨ clk s < (s.link x).at_ + 100 * tickMs)) ∧
    (∃ (s : State) (x : Fin 2), s.csn.closed = false ∧ s.get (.CSN_LK_STAT_STEP x) = 1) ∧
    (∃ (s : State) (x : Fin 2), s.csn.closed = false ∧ s.get (.CSN_LK_STAT_STEP x) = 2) ∧
    (∃ (s : State) (x : Fin 2), s.csn.closed = false ∧ s.get (.CSN_LK_STAT_STEP x) = 3) ∧
    (∃ (s : State) (x : Fin 2), s.csn.closed = false ∧ s.get (.CSN_LK_STAT_STEP x) = 4) ∧
    (∃ (s : State) (x : Fin 2) (rt : List Nat), s.csn.closed = false ∧ s.get (.CSN_LK_STAT_STEP x) = 5 ∧ rt.length = 16 ∧ latTight rt = true) ∧
    (∃ (s : State) (x : Fin 2) (rt : List Nat), (s.csn.closed = true ∨ s.get (.CSN_LK_STAT_STEP x) = 0 ∨ 5 < s.get (.CSN_LK_STAT_STEP x) ∨ (s.get
      (.CSN_LK_STAT_STEP x) = 5 ∧ (rt.length ≠ 16 ∨ latTight rt = false)))) ∧
    (∃ (s : State) (x : Fin 2), s.csn.closed = false ∧ s.get (.CSN_LK_STAT_STEP x) = 1 ∧ (s.link x).at_ + tryTicks 1 (s.link x).tries ≤ clk s ∧ (s.link
      x).tries + 1 < 5) ∧
    (∃ (s : State) (x : Fin 2), s.csn.closed = false ∧ s.get (.CSN_LK_STAT_STEP x) = 1 ∧ (s.link x).at_ + tryTicks 1 (s.link x).tries ≤ clk s ∧ 5 ≤
      (s.link x).tries + 1) ∧
    (∃ (s : State) (x : Fin 2), s.csn.closed = false ∧ s.get (.CSN_LK_STAT_STEP x) = 2 ∧ (s.link x).at_ + tryTicks 2 (s.link x).tries ≤ clk s ∧ (s.link
      x).tries + 1 < 3) ∧
    (∃ (s : State) (x : Fin 2), s.csn.closed = false ∧ s.get (.CSN_LK_STAT_STEP x) = 2 ∧ (s.link x).at_ + tryTicks 2 (s.link x).tries ≤ clk s ∧ 3 ≤
      (s.link x).tries + 1) ∧
    (∃ (s : State) (x : Fin 2), s.csn.closed = false ∧ s.get (.CSN_LK_STAT_STEP x) = 3 ∧ (s.link x).at_ + tryTicks 3 (s.link x).tries ≤ clk s ∧ (s.link
      x).tries + 1 < 3) ∧
    (∃ (s : State) (x : Fin 2), s.csn.closed = false ∧ s.get (.CSN_LK_STAT_STEP x) = 3 ∧ (s.link x).at_ + tryTicks 3 (s.link x).tries ≤ clk s ∧ 3 ≤
      (s.link x).tries + 1) ∧
    (∃ (s : State) (x : Fin 2), s.csn.closed = false ∧ s.get (.CSN_LK_STAT_STEP x) = 5 ∧ (s.link x).at_ + tryTicks 5 (s.link x).tries ≤ clk s ∧ (s.link
      x).tries + 1 < 3) ∧
    (∃ (s : State) (x : Fin 2), s.csn.closed = false ∧ s.get (.CSN_LK_STAT_STEP x) = 4 ∧ (s.link x).at_ + tryTicks 4 (s.link x).tries ≤ clk s) ∧
    (∃ (s : State) (x : Fin 2), s.csn.closed = false ∧ s.get (.CSN_LK_STAT_STEP x) = 5 ∧ (s.link x).at_ + tryTicks 5 (s.link x).tries ≤ clk s ∧ 3 ≤
      (s.link x).tries + 1) ∧
    (∃ (s : State) (x : Fin 2), s.csn.closed = false ∧ s.get (.CSN_LK_STAT_STEP x) = 0 ∧ (s.link x).at_ + tryTicks 0 (s.link x).tries ≤ clk s ∧ (s.link
      x).meas ≠ none ∧ (s.link x).tries + 1 < 3) ∧
    (∃ (s : State) (x : Fin 2), s.csn.closed = false ∧ s.get (.CSN_LK_STAT_STEP x) = 0 ∧ (s.link x).at_ + tryTicks 0 (s.link x).tries ≤ clk s ∧ (s.link
      x).meas ≠ none ∧ 3 ≤ (s.link x).tries + 1) ∧
    (∃ (s : State) (x : Fin 2) (k : Nat), k = s.get (.CSN_LK_STAT_STEP x) ∧ (s.csn.closed = true ∨ (k = 0 ∧ (s.link x).meas = none) ∨ clk s < (s.link
      x).at_ + tryTicks k (s.link x).tries)) ∧
    (∃ (s : State) (x : Fin 2), s.csn.closed = false ∧ linkUpR s x = true) ∧
    (∃ (s : State) (x : Fin 2), (s.csn.closed = true ∨ linkUpR s x = false)) ∧
    (∃ (s : State) (x : Fin 2) (f : RFrame), s.csn.closed = false ∧ linkUpR s x = true ∧ f.ty = 0x0D ∧ f.w2 = 0) ∧
    (∃ (s : State) (x : Fin 2) (f : RFrame) (l : List Nat), s.csn.closed = false ∧ linkUpR s x = true ∧ f.ty = 0x0D ∧ f.w2 ≠ 0 ∧ (s.link x).meas = some l
      ∧ l.length < 15) ∧
    (∃ (s : State) (x : Fin 2) (f : RFrame) (a : BitVec 64) (l : List Nat), s.csn.closed = false ∧ linkUpR s x = true ∧ f.ty = 0x0D ∧ f.w2 ≠ 0 ∧ (s.link
      x).meas = some l ∧ 15 ≤ l.length ∧ latTight (l ++ [(a.toNat - num64 f.data - f.w2.toNat)]) = true) ∧
    (∃ (s : State) (x : Fin 2) (f : RFrame) (a : BitVec 64) (l : List Nat), s.csn.closed = false ∧ linkUpR s x = true ∧ f.ty = 0x0D ∧ f.w2 ≠ 0 ∧ (s.link
      x).meas = some l ∧ 15 ≤ l.length ∧ latTight (l ++ [(a.toNat - num64 f.data - f.w2.toNat)]) = false) ∧
    (∃ (s : State) (x : Fin 2) (f : RFrame), (s.csn.closed = true ∨ linkUpR s x = false ∨ f.ty ≠ 0x0D ∨ (f.w2 ≠ 0 ∧ (s.link x).meas = none))) ∧
    (∃ (s : State) (x : Fin 2) (f : RFrame), ringGets s x f 0x0E = true) ∧
    (∃ (s : State) (r : Req) (w : Word) (k : Nat) (f : RFrame), Admitted s r Reg.CSN_CMD Msk.CSN_CMD ∧ bits w 3 0 = 1 ∧ isHead s = true ∧ k = (now s +
      245760 + 63) / 64 * 64 ∧ f = headFrame s 0x0C 0 (epochW s) (words64 k)) ∧
    (∃ (s : State) (r : Req) (w : Word), Admitted s r Reg.CSN_CMD Msk.CSN_CMD ∧ (1 < bits w 3 0 ∨ (bits w 3 0 = 1 ∧ isHead s = false))) ∧
    (∃ (s : State) (r : Req) (w : Word), Admitted s r Reg.CSN_CMD Msk.CSN_CMD ∧ bits w 3 0 = 0) ∧
    (∃ (s : State) (x : Fin 2) (f : RFrame), ringGets s x f 0x0C = true ∧ isHead s = false) ∧
    (∃ (s : State) (f : RFrame), s.csn.closed = true ∧ s.get .CSN_STAT_STATE = csJoinWait ∧ rframeOk f = true ∧ f.ty = 0x0C ∧ isHead s = false) ∧
    (∃ (s : State) (x : Fin 2) (f : RFrame), carries s x = false ∧ (s.csn.closed = false ∨ s.get .CSN_STAT_STATE ≠ csJoinWait ∨ rframeOk f = false ∨ f.ty
      ≠ 0x0C ∨ isHead s = true)) ∧
    (∃ (s : State) (k : Nat), s.csn.retrainAt = some k ∧ k ≤ now s ∧ ringBarred s = false) ∧
    (∃ (s : State) (k : Nat), s.csn.retrainAt = some k ∧ k ≤ now s ∧ ringBarred s = true) ∧
    (∃ (s : State) (k : Nat), s.csn.retrainAt = some k ∧ now s < k) ∧
    (∃ (s : State), s.csn.retrainAt = none) ∧
    (∃ (s : State) (x : Fin 2), s.csn.closed = false ∧ linkUpR s x = true ∧ s.get .CSN_STAT_STATE < csEnum) ∧
    (∃ (s : State) (x : Fin 2), s.csn.closed = false ∧ linkUpR s x = true) ∧
    (∃ (s : State) (x : Fin 2), s.csn.closed = false ∧ linkUpR s x = true ∧ csEnum ≤ s.get .CSN_STAT_STATE ∧ isHead s = true) ∧
    (∃ (s : State) (x : Fin 2), s.csn.closed = false ∧ linkUpR s x = true ∧ csEnum ≤ s.get .CSN_STAT_STATE ∧ isHead s = false ∧ (s.is .CSN_STAT_RING =
      true ∧ x.val = upPort s ∧ carries s (otherPort x) = true)) ∧
    (∃ (s : State) (x : Fin 2), s.csn.closed = false ∧ linkUpR s x = true ∧ csEnum ≤ s.get .CSN_STAT_STATE ∧ isHead s = false ∧ (s.is .CSN_STAT_RING =
      false ∨ x.val ≠ upPort s ∨ carries s (otherPort x) = false)) ∧
    (∃ (s : State) (x : Fin 2), (s.csn.closed = true ∨ linkUpR s x = false)) ∧
    (∃ (s : State) (x : Fin 2) (ep : BitVec 16), s.csn.closed = false ∧ linkUpR s x = true ∧ (s.link x).failed = true ∧ isHead s = true ∧ ep.toNat = s.get
      .CSN_EPOCH_EPOCH) ∧
    (∃ (s : State) (x : Fin 2) (ep : BitVec 16), s.csn.closed = false ∧ linkUpR s x = true ∧ (s.link x).failed = true ∧ isHead s = true ∧ ep.toNat ≠ s.get
      .CSN_EPOCH_EPOCH) ∧
    (∃ (s : State) (x : Fin 2) (ep : BitVec 16) (e : Bool), s.csn.closed = false ∧ linkUpR s x = true ∧ (s.link x).failed = true ∧ isHead s = false ∧ e =
      (ep.toNat != s.get .CSN_EPOCH_EPOCH)) ∧
    (∃ (s : State) (x : Fin 2), (s.csn.closed = true ∨ linkUpR s x = false ∨ (s.link x).failed = false)) :=
  ⟨⟨(runS.modCsn (fun c => { c with listen := true })).modTu (fun t => { t with edges := 98304000 }), by decide +kernel, by decide +kernel⟩,
   ⟨(runS.modCsn (fun c => { c with listen := true })).modTu (fun t => { t with edges := 98304000 }), by decide +kernel, by decide +kernel⟩,
   ⟨runS, by decide +kernel⟩,
   ⟨(ringS 2).modCsn (fun c => { c with relock := true }), 7, by decide +kernel, by decide +kernel, by decide +kernel⟩,
   ⟨(ringS 2).modCsn (fun c => { c with relock := true }), 8, by decide +kernel, by decide +kernel, by decide +kernel⟩,
   ⟨runS, 8, by decide +kernel⟩,
   ⟨((ringS 2).modCsn (fun c => { c with relock := true })).modTu (fun t => { t with edges := 98304000 }), by decide +kernel, by decide +kernel⟩,
   ⟨runS, by decide +kernel⟩,
   ⟨((ringS 2).put (.CSN_LK_STAT_UP 1) 0).modTu (fun t => { t with edges := 98304000 }), 1, by decide +kernel, by decide +kernel, by decide +kernel,
     by decide +kernel⟩,
   ⟨(ringS 2).put (.CSN_LK_STAT_UP 1) 0, 1, by decide +kernel⟩,
   ⟨((ringS 2).put (.CSN_LK_STAT_UP 1) 0).put (.CSN_LK_STAT_STEP 1) 1, 1, by decide +kernel, by decide +kernel⟩,
   ⟨((ringS 2).put (.CSN_LK_STAT_UP 1) 0).put (.CSN_LK_STAT_STEP 1) 2, 1, by decide +kernel, by decide +kernel⟩,
   ⟨((ringS 2).put (.CSN_LK_STAT_UP 1) 0).put (.CSN_LK_STAT_STEP 1) 3, 1, by decide +kernel, by decide +kernel⟩,
   ⟨((ringS 2).put (.CSN_LK_STAT_UP 1) 0).put (.CSN_LK_STAT_STEP 1) 4, 1, by decide +kernel, by decide +kernel⟩,
   ⟨((ringS 2).put (.CSN_LK_STAT_UP 1) 0).put (.CSN_LK_STAT_STEP 1) 5, 1, List.replicate 16 100, by decide +kernel, by decide +kernel, by decide +kernel,
     by decide +kernel⟩,
   ⟨((ringS 2).put (.CSN_LK_STAT_UP 1) 0).put (.CSN_LK_STAT_STEP 1) 5, 1, [], by decide +kernel⟩,
   ⟨((((ringS 2).put (.CSN_LK_STAT_UP 1) 0).put (.CSN_LK_STAT_STEP 1) 1).modLink 1 (fun l => { l with tries := 3 })).modTu (fun t =>
     { t with edges := 98304000 }), 1, by decide +kernel, by decide +kernel, by decide +kernel, by decide +kernel⟩,
   ⟨((((ringS 2).put (.CSN_LK_STAT_UP 1) 0).put (.CSN_LK_STAT_STEP 1) 1).modLink 1 (fun l => { l with tries := 4 })).modTu (fun t =>
     { t with edges := 98304000 }), 1, by decide +kernel, by decide +kernel, by decide +kernel, by decide +kernel⟩,
   ⟨((((ringS 2).put (.CSN_LK_STAT_UP 1) 0).put (.CSN_LK_STAT_STEP 1) 2).modLink 1 (fun l => { l with tries := 1 })).modTu (fun t =>
     { t with edges := 98304000 }), 1, by decide +kernel, by decide +kernel, by decide +kernel, by decide +kernel⟩,
   ⟨((((ringS 2).put (.CSN_LK_STAT_UP 1) 0).put (.CSN_LK_STAT_STEP 1) 2).modLink 1 (fun l => { l with tries := 2 })).modTu (fun t =>
     { t with edges := 98304000 }), 1, by decide +kernel, by decide +kernel, by decide +kernel, by decide +kernel⟩,
   ⟨((((ringS 2).put (.CSN_LK_STAT_UP 1) 0).put (.CSN_LK_STAT_STEP 1) 3).modLink 1 (fun l => { l with tries := 1 })).modTu (fun t =>
     { t with edges := 98304000 }), 1, by decide +kernel, by decide +kernel, by decide +kernel, by decide +kernel⟩,
   ⟨((((ringS 2).put (.CSN_LK_STAT_UP 1) 0).put (.CSN_LK_STAT_STEP 1) 3).modLink 1 (fun l => { l with tries := 2 })).modTu (fun t =>
     { t with edges := 98304000 }), 1, by decide +kernel, by decide +kernel, by decide +kernel, by decide +kernel⟩,
   ⟨((((ringS 2).put (.CSN_LK_STAT_UP 1) 0).put (.CSN_LK_STAT_STEP 1) 5).modLink 1 (fun l => { l with tries := 1 })).modTu (fun t =>
     { t with edges := 98304000 }), 1, by decide +kernel, by decide +kernel, by decide +kernel, by decide +kernel⟩,
   ⟨(((((ringS 2).put (.CSN_LK_STAT_UP 1) 0).put (.CSN_LK_STAT_STEP 1) 4).put (.CSN_LK_STAT_GEN 1) 2).modLink 1 (fun l => { l with tries := 0 })).modTu
     (fun t => { t with edges := 98304000 }), 1, by decide +kernel, by decide +kernel, by decide +kernel⟩,
   ⟨((((ringS 2).put (.CSN_LK_STAT_UP 1) 0).put (.CSN_LK_STAT_STEP 1) 5).modLink 1 (fun l => { l with tries := 2 })).modTu (fun t =>
     { t with edges := 98304000 }), 1, by decide +kernel, by decide +kernel, by decide +kernel, by decide +kernel⟩,
   ⟨(((ringS 2).modLink 1 (fun k => { k with meas := some [1], tries := 0 }))).modTu (fun t => { t with edges := 98304000 }), 1, by decide +kernel,
     by decide +kernel, by decide +kernel, by decide +kernel, by decide +kernel⟩,
   ⟨(((ringS 2).modLink 1 (fun k => { k with meas := some [1], tries := 2 }))).modTu (fun t => { t with edges := 98304000 }), 1, by decide +kernel,
     by decide +kernel, by decide +kernel, by decide +kernel, by decide +kernel⟩,
   ⟨((ringS 2).put (.CSN_LK_STAT_UP 1) 0).put (.CSN_LK_STAT_STEP 1) 5, 1, 5, by decide +kernel, by decide +kernel⟩,
   ⟨ringS 2, 1, by decide +kernel, by decide +kernel⟩,
   ⟨runS, 1, by decide +kernel⟩,
   ⟨ringS 2, 1, { ty := 0x0D }, by decide +kernel, by decide +kernel, by decide +kernel, by decide +kernel⟩,
   ⟨(ringS 2).modLink 1 (fun k => { k with meas := some [] }), 1, { ty := 0x0D, w2 := 1 }, [], by decide +kernel, by decide +kernel, by decide +kernel,
     by decide +kernel, by decide +kernel, by decide +kernel⟩,
   ⟨(ringS 2).modLink 1 (fun k => { k with meas := some (List.replicate 15 5), tries := 0 }), 1, { ty := 0x0D, w2 := 1 }, 5, List.replicate 15 5,
     by decide +kernel, by decide +kernel, by decide +kernel, by decide +kernel, by decide +kernel, by decide +kernel, by decide +kernel⟩,
   ⟨(ringS 2).modLink 1 (fun k => { k with meas := some (List.replicate 15 5000), tries := 0 }), 1, { ty := 0x0D, w2 := 1 }, 5, List.replicate 15 5000,
     by decide +kernel, by decide +kernel, by decide +kernel, by decide +kernel, by decide +kernel, by decide +kernel, by decide +kernel⟩,
   ⟨ringS 2, 1, { ty := 0x0D, w2 := 1 }, by decide +kernel⟩,
   ⟨ringS 2, 1, { ty := 0x0E, dst := 0, w1 := 3 }, by decide +kernel⟩,
   ⟨ringS 0, .s0, 1, (now (ringS 0) + 245760 + 63) / 64 * 64, headFrame (ringS 0) 0x0C 0 (epochW (ringS 0)) (words64 ((now (ringS 0) + 245760 + 63) / 64
     * 64)), ⟨by decide +kernel, by decide +kernel, by decide +kernel⟩, by decide +kernel, by decide +kernel, by decide +kernel, by decide +kernel⟩,
   ⟨ringS 2, .s0, 1, ⟨by decide +kernel, by decide +kernel, by decide +kernel⟩, by decide +kernel⟩,
   ⟨ringS 2, .s0, 0, ⟨by decide +kernel, by decide +kernel, by decide +kernel⟩, by decide +kernel⟩,
   ⟨ringS 2, 1, { ty := 0x0C, flags := 1, dst := 255, data := [5, 0] }, by decide +kernel, by decide +kernel⟩,
   ⟨runS.put .CSN_STAT_STATE csJoinWait, { ty := 0x0C, flags := 1, dst := 255, data := [5, 0] }, by decide +kernel, by decide +kernel, by decide +kernel,
     by decide +kernel, by decide +kernel⟩,
   ⟨runS, 1, { ty := 0x0C, flags := 1, dst := 255, data := [5, 0] }, by decide +kernel, by decide +kernel⟩,
   ⟨(ringS 2).modCsn (fun c => { c with retrainAt := some 5 }), 5, by decide +kernel, by decide +kernel, by decide +kernel⟩,
   ⟨(runS.put .CSN_CFG_EN 0).modCsn (fun c => { c with retrainAt := some 5 }), 5, by decide +kernel, by decide +kernel, by decide +kernel⟩,
   ⟨runS.modCsn (fun c => { c with retrainAt := some (2 ^ 63) }), 2 ^ 63, by decide +kernel, by decide +kernel⟩,
   ⟨runS, by decide +kernel⟩,
   ⟨(ringS 2).put .CSN_STAT_STATE 2, 1, by decide +kernel, by decide +kernel, by decide +kernel⟩,
   ⟨ringS 2, 1, by decide +kernel, by decide +kernel⟩,
   ⟨ringS 0, 1, by decide +kernel, by decide +kernel, by decide +kernel, by decide +kernel⟩,
   ⟨((ringS 2).set1 .CSN_STAT_RING).put .CSN_STAT_UP_PORT 1, 1, by decide +kernel, by decide +kernel, by decide +kernel, by decide +kernel,
     by decide +kernel⟩,
   ⟨ringS 2, 1, by decide +kernel, by decide +kernel, by decide +kernel, by decide +kernel, by decide +kernel⟩,
   ⟨runS, 1, by decide +kernel⟩,
   ⟨(ringS 0).modLink 1 (fun l => { l with failed := true, stray := true }), 1, 7, by decide +kernel, by decide +kernel, by decide +kernel,
     by decide +kernel, by decide +kernel⟩,
   ⟨(ringS 0).modLink 1 (fun l => { l with failed := true, stray := true }), 1, 8, by decide +kernel, by decide +kernel, by decide +kernel,
     by decide +kernel, by decide +kernel⟩,
   ⟨(ringS 2).modLink 1 (fun l => { l with failed := true, stray := true }), 1, 8, true, by decide +kernel, by decide +kernel, by decide +kernel,
     by decide +kernel, by decide +kernel⟩,
   ⟨ringS 2, 1, by decide +kernel⟩⟩

theorem witness_RingEnumeration :
    (∃ (s : State) (x : Fin 2) (f : RFrame) (fr : Byte) (d : BitVec 32) (i : Instr), i ∈ ringRows x f fr d ∧ carries s x = false) ∧
    (∃ (s : State) (x : Fin 2) (f : RFrame) (fr : Byte) (d : BitVec 32) (i : Instr), i ∈ ringRows x f fr d ∧ carries s x = true ∧ rframeOk f = false) ∧
    (∃ (s : State) (x : Fin 2) (f : RFrame) (fr : Byte) (d : BitVec 32) (i : Instr), i ∈ ringRows x f fr d ∧ carries s x = true ∧ rframeOk f = true ∧
      f.ty.toNat ≠ ringType i) ∧
    (∃ (s : State) (p : Nat), isHead s = true ∧ s.csn.closed = false ∧ s.get .CSN_STAT_STATE = csTraining ∧ linkSettled s 0 = true ∧ linkSettled s 1 =
      true ∧ s.csn.phaseAt + s.get .CSN_CFG_ENUM_DELAY * tickMs ≤ clk s ∧ p = (if enumPort s 1 then 1 else 0) ∧ enumPort s p = true) ∧
    (∃ (s : State), (isHead s = false ∨ s.csn.closed = true ∨ s.get .CSN_STAT_STATE ≠ csTraining ∨ linkSettled s 0 = false ∨ linkSettled s 1 = false ∨
      (enumPort s 0 = false ∧ enumPort s 1 = false) ∨ clk s < s.csn.phaseAt + s.get .CSN_CFG_ENUM_DELAY * tickMs)) ∧
    (∃ (s : State) (x : Fin 2) (f : RFrame) (m : Nat) (y : Nat) (l : Bool), ringGets s x f 0x08 = true ∧ isHead s = false ∧ s.get .CSN_STAT_ADDR = 0xFF ∧
      m = f.w1.toNat % 256 + 1 ∧ m ≤ 250 ∧ y = otherPort x ∧ l = (s.is (.CSN_LK_STAT_NOPART y) && !linkUpR s y)) ∧
    (∃ (s : State) (x : Fin 2) (f : RFrame), ringGets s x f 0x08 = true ∧ isHead s = false ∧ s.get .CSN_STAT_ADDR = 0xFF ∧ f.w1.toNat % 256 = 250) ∧
    (∃ (s : State) (x : Fin 2) (f : RFrame), ringGets s x f 0x08 = true ∧ isHead s = false ∧ s.get .CSN_STAT_ADDR ≠ 0xFF) ∧
    (∃ (s : State) (f : RFrame) (n : Nat), ringGets s 0 f 0x08 = true ∧ enumRuns s = true ∧ s.csn.side = 1 ∧ sameEpoch s f = true ∧ n = f.w1.toNat % 256) ∧
    (∃ (s : State) (x : Fin 2) (f : RFrame), ringGets s x f 0x08 = true ∧ isHead s = true ∧ (enumRuns s = false ∨ s.csn.side ≠ 1 ∨ x ≠ 0 ∨ sameEpoch s f =
      false)) ∧
    (∃ (s : State) (x : Fin 2) (f : RFrame) (m : Nat), ringGets s x f 0x09 = true ∧ isHead s = true ∧ csEnum ≤ s.get .CSN_STAT_STATE ∧ m = f.w1.toNat %
      256) ∧
    (∃ (s : State) (x : Fin 2) (f : RFrame) (m : Nat) (b : State), ringGets s x f 0x09 = true ∧ isHead s = true ∧ enumRuns s = true ∧ bitAt (wd
      f.flags.toNat) 2 = false ∧ m = f.w1.toNat % 256 ∧ b = rosterPut m (f.data.take 4) (f.data.getD 4 0) (bitAt (wd f.flags.toNat) 2) (bits f.w1 9 8) f.w2
      (ringStart s)) ∧
    (∃ (s : State) (x : Fin 2) (f : RFrame) (m : Nat) (b : State), ringGets s x f 0x09 = true ∧ isHead s = true ∧ enumRuns s = true ∧ bitAt (wd
      f.flags.toNat) 2 = true ∧ m = f.w1.toNat % 256 ∧ b = rosterPut m (f.data.take 4) (f.data.getD 4 0) (bitAt (wd f.flags.toNat) 2) (bits f.w1 9 8) f.w2
      (ringStart s)) ∧
    (∃ (s : State) (x : Fin 2) (f : RFrame) (m : Nat) (b : State), ringGets s x f 0x09 = true ∧ isHead s = true ∧ csEnum < s.get .CSN_STAT_STATE ∧ m =
      f.w1.toNat % 256 ∧ b = rosterPut m (f.data.take 4) (f.data.getD 4 0) (bitAt (wd f.flags.toNat) 2) (bits f.w1 9 8) f.w2 (ringStart s)) ∧
    (∃ (s : State) (x : Fin 2) (f : RFrame), ringGets s x f 0x09 = true ∧ isHead s = true ∧ s.get .CSN_STAT_STATE < csEnum) ∧
    (∃ (s : State) (x : Fin 2) (f : RFrame), ringGets s x f 0x09 = true ∧ isHead s = false) ∧
    (∃ (s : State), enumRuns s = true ∧ s.csn.phaseAt + 2 * tickMs ≤ clk s ∧ s.csn.side = 1 ∧ enumPort s 0 = true) ∧
    (∃ (s : State), enumRuns s = true ∧ s.csn.phaseAt + 2 * tickMs ≤ clk s ∧ (s.csn.side ≠ 1 ∨ enumPort s 0 = false)) ∧
    (∃ (s : State), (enumRuns s = false ∨ clk s < s.csn.phaseAt + 2 * tickMs)) ∧
    (∃ (s : State) (x : Fin 2) (f : RFrame), ringGets s x f 0x0A = true ∧ isHead s = false ∧ sameEpoch s f = true ∧ s.get .CSN_STAT_STATE = csEnum) ∧
    (∃ (s : State) (x : Fin 2) (f : RFrame), ringGets s x f 0x0A = true ∧ isHead s = false ∧ sameEpoch s f = true ∧ s.get .CSN_STAT_STATE = csEnum) ∧
    (∃ (s : State) (x : Fin 2) (f : RFrame), ringGets s x f 0x0A = true ∧ isHead s = false ∧ (sameEpoch s f = false ∨ s.get .CSN_STAT_STATE ≠ csEnum)) ∧
    (∃ (s : State) (x : Fin 2) (f : RFrame), ringGets s x f 0x0A = true ∧ isHead s = true) ∧
    (∃ (s : State) (x : Fin 2) (f : RFrame), ringGets s x f 0x0B = true ∧ isHead s = true) ∧
    (∃ (s : State) (x : Fin 2) (f : RFrame), ringGets s x f 0x03 = true ∧ isHead s = true) ∧
    (∃ (s : State) (x : Fin 2) (f : RFrame), ringGets s x f 0x0B = true ∧ isHead s = false ∧ sameEpoch s f = true ∧ s.get .CSN_STAT_ADDR ≠ 0xFF ∧
      f.w1.toNat % 65536 = 0xFFFF ∧ s.csn.up0 < 2 ∧ s.csn.time0 < 2) ∧
    (∃ (s : State) (x : Fin 2) (f : RFrame) (k : Nat), ringGets s x f 0x0B = true ∧ isHead s = false ∧ sameEpoch s f = true ∧ s.get .CSN_STAT_ADDR ≠ 0xFF
      ∧ f.w1.toNat % 65536 ≠ 0xFFFF ∧ hopIx (s.get .CSN_STAT_N) (bits f.w1 15 8) (bits f.w1 7 0) = some k ∧ s.is .CSN_STAT_RING = true ∧ crosses s k = true
      ∧ carries s (otherPort (upPort s)) = true) ∧
    (∃ (s : State) (x : Fin 2) (f : RFrame) (k : Nat), ringGets s x f 0x0B = true ∧ isHead s = false ∧ sameEpoch s f = true ∧ s.get .CSN_STAT_ADDR ≠ 0xFF
      ∧ f.w1.toNat % 65536 ≠ 0xFFFF ∧ hopIx (s.get .CSN_STAT_N) (bits f.w1 15 8) (bits f.w1 7 0) = some k ∧ (s.is .CSN_STAT_RING = false ∨ crosses s k =
      false ∨ carries s (otherPort (upPort s)) = false)) ∧
    (∃ (s : State) (x : Fin 2) (f : RFrame), ringGets s x f 0x0B = true ∧ isHead s = false ∧ (sameEpoch s f = false ∨ s.get .CSN_STAT_ADDR = 0xFF ∨
      (f.w1.toNat % 65536 ≠ 0xFFFF ∧ hopIx (s.get .CSN_STAT_N) (bits f.w1 15 8) (bits f.w1 7 0) = none))) ∧
    (∃ (s : State), isHead s = true ∧ s.get .CSN_STAT_STATE = csTimeLock ∧ s.csn.phaseAt + 200 * tickMs ≤ clk s) ∧
    (∃ (s : State), isHead s = false ∧ s.get .CSN_STAT_STATE = csTimeLock ∧ s.csn.phaseAt + 200 * tickMs ≤ clk s) ∧
    (∃ (s : State), (s.get .CSN_STAT_STATE ≠ csTimeLock ∨ clk s < s.csn.phaseAt + 200 * tickMs)) ∧
    (∃ (s : State) (x : Fin 2) (f : RFrame), carries s x = true ∧ rframeOk f = true ∧ f.dst ≠ myAddr s ∧ f.dst ≠ 255 ∧ f.ty ≠ 0x0D ∧ f.ty ≠ 0x0E) ∧
    (∃ (s : State) (x : Fin 2) (f : RFrame) (ok : Bool), carries s x = true ∧ (ok = false ∨ rframeOk f = false)) ∧
    (∃ (s : State) (x : Fin 2) (f : RFrame) (ok : Bool), (carries s x = false ∨ (ok = true ∧ rframeOk f = true ∧ (f.dst = myAddr s ∨ f.dst = 255 ∨ f.ty =
      0x0D ∨ f.ty = 0x0E)))) ∧
    (∃ (s : State) (f : RFrame), isHead s = true ∧ tfDue s = true ∧ f = headFrame s 0x03 (wd s.csn.tfNo) (epochW s) (words64 (now s) ++ words64 0)) ∧
    (∃ (s : State), (isHead s = false ∨ tfDue s = false)) ∧
    (∃ (s : State) (x : Fin 2) (f : RFrame) (d : BitVec 32) (b : State), ringGets s x f 0x03 = true ∧ isHead s = false ∧ (x.val ≠ s.get
      .CSN_STAT_TIME_PORT ∨ s.get .TU_STAT_SRC_EFF ≠ 2 ∨ servoRuns s = false ∨ sameEpoch s f = false) ∧ b = forward x (timeOnward x f d.toNat s) (ringStart
      s)) ∧
    (∃ (s : State) (x : Fin 2) (f : RFrame) (fr : Byte) (d : BitVec 32) (b : State) (k : State), ringGets s x f 0x03 = true ∧ isHead s = false ∧ x.val =
      s.get .CSN_STAT_TIME_PORT ∧ s.get .TU_STAT_SRC_EFF = 2 ∧ servoRuns s = true ∧ sameEpoch s f = true ∧ b = forward x (timeOnward x f d.toNat s)
      (ringStart s) ∧ k = ringSample (((now s : Int) - num64 f.data) * 256 + fr.toNat - (num64 (f.data.drop 2) + s.get (.CSN_LK_LAT_LAT x) : Nat)) (num64
      f.data) b ∧ k.tu.wantMeas = s.tu.wantMeas) ∧
    (∃ (s : State) (x : Fin 2) (f : RFrame) (fr : Byte) (d : BitVec 32) (b : State) (k : State), ringGets s x f 0x03 = true ∧ isHead s = false ∧ x.val =
      s.get .CSN_STAT_TIME_PORT ∧ s.get .TU_STAT_SRC_EFF = 2 ∧ servoRuns s = true ∧ sameEpoch s f = true ∧ b = forward x (timeOnward x f d.toNat s)
      (ringStart s) ∧ k = ringSample (((now s : Int) - num64 f.data) * 256 + fr.toNat - (num64 (f.data.drop 2) + s.get (.CSN_LK_LAT_LAT x) : Nat)) (num64
      f.data) b ∧ k.tu.wantMeas = true ∧ s.tu.wantMeas = false) ∧
    (∃ (s : State) (k : Token) (a : Nat) (i : Nat), copyDue s = some (k, a, i)) ∧
    (∃ (s : State), copyDue s = none) ∧
    (∃ (s : State) (x : Fin 2) (f : RFrame) (k : Token), ringGets s x f f.ty.toNat = true ∧ (f.ty = 0x04 ∨ f.ty = 0x05) ∧ isHead s = false ∧ k =
      { kind := f.ty.toNat - 3, id := bits f.w1 31 16, tgt := num64 f.data } ∧ k ∈ s.tu.seen) ∧
    (∃ (s : State) (x : Fin 2) (f : RFrame) (k : Token), ringGets s x f f.ty.toNat = true ∧ (f.ty = 0x04 ∨ f.ty = 0x05) ∧ isHead s = false ∧ k =
      { kind := f.ty.toNat - 3, id := bits f.w1 31 16, tgt := num64 f.data } ∧ k ∉ s.tu.seen ∧ (s.get .TU_STAT_STATE = 2 ∨ s.get .TU_STAT_STATE = 3)) ∧
    (∃ (s : State) (x : Fin 2) (f : RFrame) (k : Token), ringGets s x f f.ty.toNat = true ∧ (f.ty = 0x04 ∨ f.ty = 0x05) ∧ isHead s = false ∧ k =
      { kind := f.ty.toNat - 3, id := bits f.w1 31 16, tgt := num64 f.data } ∧ k ∉ s.tu.seen ∧ s.get .TU_STAT_STATE ≠ 2 ∧ s.get .TU_STAT_STATE ≠ 3) ∧
    (∃ (s : State) (x : Fin 2) (f : RFrame), (carries s x = false ∨ (f.ty ≠ 0x04 ∧ f.ty ≠ 0x05) ∨ (rframeOk f = true ∧ isHead s = true))) ∧
    (∃ (s : State) (x : Fin 2) (f : RFrame), carries s x = true ∧ (f.ty = 0x04 ∨ f.ty = 0x05) ∧ rframeOk f = false) :=
  ⟨⟨runS, 1, {}, 0, 0, .raReq 1 {}, by decide +kernel, by decide +kernel⟩,
   ⟨ringS 2, 1, {}, 0, 0, .enum 1 {}, by decide +kernel, by decide +kernel, by decide +kernel⟩,
   ⟨ringS 2, 1, { ty := 0x0E, dst := 0, w1 := 3 }, 0, 0, .enum 1 { ty := 0x0E, dst := 0, w1 := 3 }, by decide +kernel, by decide +kernel,
     by decide +kernel, by decide +kernel⟩,
   ⟨(((ringS 0).put .CSN_STAT_STATE 2).put .CSN_CFG_ENUM_DELAY 10).modTu (fun t => { t with edges := 98304000 }), 1, by decide +kernel,
     by decide +kernel, by decide +kernel, by decide +kernel, by decide +kernel, by decide +kernel, by decide +kernel, by decide +kernel⟩,
   ⟨runS, by decide +kernel⟩,
   ⟨((ringS 2).put .CSN_STAT_ADDR 0xFF).set1 (.CSN_LK_STAT_UP 0), 1, { ty := 8, flags := 1, dst := 255, w1 := 1, w2 := 9, src := 1 }, 2, 0, false,
     by decide +kernel, by decide +kernel, by decide +kernel, by decide +kernel, by decide +kernel, by decide +kernel, by decide +kernel⟩,
   ⟨((ringS 2).put .CSN_STAT_ADDR 0xFF).set1 (.CSN_LK_STAT_UP 0), 1, { ty := 8, flags := 1, dst := 255, w1 := 250, w2 := 9, src := 1 },
     by decide +kernel, by decide +kernel, by decide +kernel, by decide +kernel⟩,
   ⟨ringS 2, 1, { ty := 8, flags := 1, dst := 255, w1 := 1, w2 := 9, src := 1 }, by decide +kernel, by decide +kernel, by decide +kernel⟩,
   ⟨((ringS 0).put .CSN_STAT_STATE 3).modCsn (fun c => { c with side := 1 }), { ty := 8, flags := 1, dst := 255, w1 := 3, w2 := 7 }, 3,
     by decide +kernel, by decide +kernel, by decide +kernel, by decide +kernel, by decide +kernel⟩,
   ⟨ringS 0, 1, { ty := 8, flags := 1, dst := 255, w1 := 1, w2 := 9, src := 1 }, by decide +kernel, by decide +kernel, by decide +kernel⟩,
   ⟨(ringS 0).put .CSN_STAT_STATE 3, 1, { ty := 9, flags := 0, dst := 0, w1 := 2, w2 := 77, data := [1, 2, 3, 4, 5] }, 2, by decide +kernel,
     by decide +kernel, by decide +kernel, by decide +kernel⟩,
   ⟨(ringS 0).put .CSN_STAT_STATE 3, 1, { ty := 9, flags := 0, dst := 0, w1 := 2, w2 := 77, data := [1, 2, 3, 4, 5] }, 2, rosterPut 2 [1, 2, 3, 4] 5
     false 0 77 (ringStart ((ringS 0).put .CSN_STAT_STATE 3)), by decide +kernel, by decide +kernel, by decide +kernel, by decide +kernel,
     by decide +kernel, rfl⟩,
   ⟨(ringS 0).put .CSN_STAT_STATE 3, 1, { ty := 9, flags := 4, dst := 0, w1 := 2, w2 := 77, data := [1, 2, 3, 4, 5] }, 2, rosterPut 2 [1, 2, 3, 4] 5 true
     0 77 (ringStart ((ringS 0).put .CSN_STAT_STATE 3)), by decide +kernel, by decide +kernel, by decide +kernel, by decide +kernel, by decide +kernel,
     rfl⟩,
   ⟨ringS 0, 1, { ty := 9, flags := 0, dst := 0, w1 := 2, w2 := 77, data := [1, 2, 3, 4, 5] }, 2, rosterPut 2 [1, 2, 3, 4] 5 false 0 77 (ringStart (ringS
     0)), by decide +kernel, by decide +kernel, by decide +kernel, by decide +kernel, rfl⟩,
   ⟨(ringS 0).put .CSN_STAT_STATE 2, 1, { ty := 9, flags := 0, dst := 0, w1 := 2, w2 := 77, data := [1, 2, 3, 4, 5] }, by decide +kernel,
     by decide +kernel, by decide +kernel⟩,
   ⟨ringS 2, 1, { ty := 9, flags := 0, dst := 0, w1 := 2, w2 := 77, data := [1, 2, 3, 4, 5] }, by decide +kernel, by decide +kernel⟩,
   ⟨(((ringS 0).put .CSN_STAT_STATE 3).modCsn (fun c => { c with side := 1, count := 2 })).modTu (fun t => { t with edges := 98304000 }),
     by decide +kernel, by decide +kernel, by decide +kernel, by decide +kernel⟩,
   ⟨(((ringS 0).put .CSN_STAT_STATE 3).modCsn (fun c => { c with side := 0, count := 2 })).modTu (fun t => { t with edges := 98304000 }),
     by decide +kernel, by decide +kernel, by decide +kernel⟩,
   ⟨runS, by decide +kernel⟩,
   ⟨(ringS 2).put .CSN_STAT_STATE 3, 0, { ty := 10, flags := 1, dst := 255, w1 := 0x105, w2 := 7 }, by decide +kernel, by decide +kernel,
     by decide +kernel, by decide +kernel⟩,
   ⟨(ringS 2).put .CSN_STAT_STATE 3, 0, { ty := 10, flags := 1, dst := 255, w1 := 0x105, w2 := 7 }, by decide +kernel, by decide +kernel,
     by decide +kernel, by decide +kernel⟩,
   ⟨ringS 2, 0, { ty := 10, flags := 1, dst := 255, w1 := 0x105, w2 := 7 }, by decide +kernel, by decide +kernel, by decide +kernel⟩,
   ⟨ringS 0, 0, { ty := 10, flags := 1, dst := 255, w1 := 0x105, w2 := 7 }, by decide +kernel, by decide +kernel⟩,
   ⟨ringS 0, 0, { ty := 11, flags := 1, dst := 255, w1 := 0xFFFF, w2 := 7 }, by decide +kernel, by decide +kernel⟩,
   ⟨ringS 0, 0, { ty := 3, flags := 1, dst := 255, data := [1, 2, 3, 4] }, by decide +kernel, by decide +kernel⟩,
   ⟨((ringS 2).set1 .CSN_STAT_HEALED).put .CSN_STAT_UP_PORT 1, 0, { ty := 11, flags := 1, dst := 255, w1 := 0xFFFF, w2 := 7 }, by decide +kernel,
     by decide +kernel, by decide +kernel, by decide +kernel, by decide +kernel, by decide +kernel, by decide +kernel⟩,
   ⟨((ringS 2).set1 .CSN_STAT_RING).put .CSN_STAT_UP_PORT 0, 0, { ty := 11, flags := 1, dst := 255, w1 := 0x0001, w2 := 7 }, 1, by decide +kernel,
     by decide +kernel, by decide +kernel, by decide +kernel, by decide +kernel, by decide +kernel, by decide +kernel, by decide +kernel,
     by decide +kernel⟩,
   ⟨ringS 2, 0, { ty := 11, flags := 1, dst := 255, w1 := 0x0001, w2 := 7 }, 1, by decide +kernel, by decide +kernel, by decide +kernel,
     by decide +kernel, by decide +kernel, by decide +kernel, by decide +kernel⟩,
   ⟨ringS 2, 0, { ty := 11, flags := 1, dst := 255, w1 := 0xFFFF, w2 := 8 }, by decide +kernel, by decide +kernel, by decide +kernel⟩,
   ⟨((ringS 0).put .CSN_STAT_STATE 4).modTu (fun t => { t with edges := 98304000 }), by decide +kernel, by decide +kernel, by decide +kernel⟩,
   ⟨((ringS 2).put .CSN_STAT_STATE 4).modTu (fun t => { t with edges := 98304000 }), by decide +kernel, by decide +kernel, by decide +kernel⟩,
   ⟨runS, by decide +kernel⟩,
   ⟨ringS 2, 0, { ty := 1, flags := 1, dst := 3 }, by decide +kernel, by decide +kernel, by decide +kernel, by decide +kernel, by decide +kernel,
     by decide +kernel⟩,
   ⟨ringS 2, 0, { ty := 1, flags := 1, dst := 3 }, false, by decide +kernel, by decide +kernel⟩,
   ⟨runS, 0, { ty := 1, flags := 1, dst := 3 }, true, by decide +kernel⟩,
   ⟨(ringS 0).put .CSN_STAT_STATE 4, headFrame (ringS 0) 0x03 0 (epochW (ringS 0)) (words64 (now (ringS 0)) ++ words64 0), by decide +kernel,
     by decide +kernel, by decide +kernel⟩,
   ⟨ringS 2, by decide +kernel⟩,
   ⟨ringS 2, 1, { ty := 3, flags := 1, dst := 255, data := [1, 2, 3, 4], w2 := 7 }, 6, forward 1 (timeOnward 1
     { ty := 3, flags := 1, dst := 255, data := [1, 2, 3, 4], w2 := 7 } 6 (ringS 2)) (ringStart (ringS 2)), by decide +kernel, by decide +kernel,
     by decide +kernel, rfl⟩,
   ⟨(ringS 2).put .TU_STAT_SRC_EFF 2, 0, { ty := 3, flags := 1, dst := 255, data := [1, 2, 3, 4], w2 := 7 }, 5, 6, forward (0 : Fin 2) (timeOnward (0 :
     Fin 2) { ty := 3, flags := 1, dst := 255, data := [1, 2, 3, 4], w2 := 7 } (BitVec.toNat (6 : BitVec 32)) ((ringS 2).put .TU_STAT_SRC_EFF 2))
     (ringStart ((ringS 2).put .TU_STAT_SRC_EFF 2)), ringSample (((now ((ringS 2).put .TU_STAT_SRC_EFF 2) : Int) - num64
     ({ ty := 3, flags := 1, dst := 255, data := [1, 2, 3, 4], w2 := 7 } : RFrame).data) * 256 + (5 : Byte).toNat - (num64
     (({ ty := 3, flags := 1, dst := 255, data := [1, 2, 3, 4], w2 := 7 } : RFrame).data.drop 2) + State.get ((ringS 2).put .TU_STAT_SRC_EFF 2)
     (.CSN_LK_LAT_LAT (0 : Fin 2)) : Nat)) (num64 ({ ty := 3, flags := 1, dst := 255, data := [1, 2, 3, 4], w2 := 7 } : RFrame).data) (forward (0 : Fin 2)
     (timeOnward (0 : Fin 2) { ty := 3, flags := 1, dst := 255, data := [1, 2, 3, 4], w2 := 7 } (BitVec.toNat (6 : BitVec 32)) ((ringS 2).put
     .TU_STAT_SRC_EFF 2)) (ringStart ((ringS 2).put .TU_STAT_SRC_EFF 2))), by decide +kernel, by decide +kernel, by decide +kernel, by decide +kernel,
     by decide +kernel, by decide +kernel, rfl, rfl, by decide +kernel⟩,
   ⟨(((ringS 2).put .TU_STAT_SRC_EFF 2).modTu (fun u => { u with rejRun := 15, ringOff := some 5 })), 0,
     { ty := 3, flags := 1, dst := 255, data := [1, 2, 3, 4], w2 := 7 }, 5, 6, forward (0 : Fin 2) (timeOnward (0 : Fin 2)
     { ty := 3, flags := 1, dst := 255, data := [1, 2, 3, 4], w2 := 7 } (BitVec.toNat (6 : BitVec 32)) ((((ringS 2).put .TU_STAT_SRC_EFF 2).modTu (fun u =>
     { u with rejRun := 15, ringOff := some 5 })))) (ringStart ((((ringS 2).put .TU_STAT_SRC_EFF 2).modTu (fun u =>
     { u with rejRun := 15, ringOff := some 5 })))), ringSample (((now ((((ringS 2).put .TU_STAT_SRC_EFF 2).modTu (fun u =>
     { u with rejRun := 15, ringOff := some 5 }))) : Int) - num64 ({ ty := 3, flags := 1, dst := 255, data := [1, 2, 3, 4], w2 := 7 } : RFrame).data) * 256
     + (5 : Byte).toNat - (num64 (({ ty := 3, flags := 1, dst := 255, data := [1, 2, 3, 4], w2 := 7 } : RFrame).data.drop 2) + State.get ((((ringS 2).put
     .TU_STAT_SRC_EFF 2).modTu (fun u => { u with rejRun := 15, ringOff := some 5 }))) (.CSN_LK_LAT_LAT (0 : Fin 2)) : Nat)) (num64
     ({ ty := 3, flags := 1, dst := 255, data := [1, 2, 3, 4], w2 := 7 } : RFrame).data) (forward (0 : Fin 2) (timeOnward (0 : Fin 2)
     { ty := 3, flags := 1, dst := 255, data := [1, 2, 3, 4], w2 := 7 } (BitVec.toNat (6 : BitVec 32)) ((((ringS 2).put .TU_STAT_SRC_EFF 2).modTu (fun u =>
     { u with rejRun := 15, ringOff := some 5 })))) (ringStart ((((ringS 2).put .TU_STAT_SRC_EFF 2).modTu (fun u =>
     { u with rejRun := 15, ringOff := some 5 }))))), by decide +kernel, by decide +kernel, by decide +kernel, by decide +kernel, by decide +kernel,
     by decide +kernel, rfl, rfl, by decide +kernel, by decide +kernel⟩,
   ⟨(ringS 0).modTu (fun u => { u with out := [({ kind := 1, id := 4, tgt := 9 }, 5, 0)] }), { kind := 1, id := 4, tgt := 9 }, 5, 0, by decide +kernel⟩,
   ⟨runS, by decide +kernel⟩,
   ⟨(ringS 2).modTu (fun u => { u with seen := [{ kind := 2, id := 5, tgt := 9 }] }), 0,
     { ty := 5, flags := 1, dst := 255, w1 := 0x50001, data := [9, 0] }, { kind := 2, id := 5, tgt := 9 }, by decide +kernel, by decide +kernel,
     by decide +kernel, by decide +kernel, by decide +kernel⟩,
   ⟨(ringS 2).put .TU_STAT_STATE 2, 0, { ty := 5, flags := 1, dst := 255, w1 := 0x50001, data := [9, 0] }, { kind := 2, id := 5, tgt := 9 },
     by decide +kernel, by decide +kernel, by decide +kernel, by decide +kernel, by decide +kernel, by decide +kernel⟩,
   ⟨ringS 2, 0, { ty := 5, flags := 1, dst := 255, w1 := 0x50001, data := [9, 0] }, { kind := 2, id := 5, tgt := 9 }, by decide +kernel,
     by decide +kernel, by decide +kernel, by decide +kernel, by decide +kernel, by decide +kernel, by decide +kernel⟩,
   ⟨ringS 0, 0, { ty := 5, flags := 1, dst := 255, w1 := 0x50001, data := [9, 0] }, by decide +kernel⟩,
   ⟨ringS 0, 0, { ty := 5, flags := 1, dst := 255, w1 := 0x50001, data := [] }, by decide +kernel, by decide +kernel, by decide +kernel⟩⟩

theorem witness_RemoteAccessAndExport :
    (∃ (s : State) (r : Req) (w : Word), Admitted s r Reg.CSN_RA_CMD Msk.CSN_RA_CMD ∧ bitAt w 0 = false) ∧
    (∃ (s : State) (r : Req) (w : Word), Admitted s r Reg.CSN_RA_CMD Msk.CSN_RA_CMD ∧ bitAt w 0 = true ∧ s.is .CSN_RA_STAT_BUSY = true) ∧
    (∃ (s : State) (r : Req) (w : Word), Admitted s r Reg.CSN_RA_CMD Msk.CSN_RA_CMD ∧ bitAt w 0 = true ∧ s.is .CSN_RA_STAT_BUSY = false ∧ isHead s =
      false) ∧
    (∃ (s : State) (r : Req) (w : Word) (p : Nat × List Word × State), Admitted s r Reg.CSN_RA_CMD Msk.CSN_RA_CMD ∧ bitAt w 0 = true ∧ s.is
      .CSN_RA_STAT_BUSY = false ∧ isHead s = true ∧ bits w 31 24 = 0 ∧ p = raExec (busFn0 .ring) (raCmd s w) (raStart 1 (ringStart s))) ∧
    (∃ (s : State) (r : Req) (w : Word) (b : State), Admitted s r Reg.CSN_RA_CMD Msk.CSN_RA_CMD ∧ bitAt w 0 = true ∧ s.is .CSN_RA_STAT_BUSY = false ∧
      isHead s = true ∧ bits w 31 24 = 255 ∧ bits w 23 20 = 2 ∧ b = raStart 1 (ringStart s)) ∧
    (∃ (s : State) (r : Req) (w : Word), Admitted s r Reg.CSN_RA_CMD Msk.CSN_RA_CMD ∧ bitAt w 0 = true ∧ s.is .CSN_RA_STAT_BUSY = false ∧ isHead s = true
      ∧ bits w 31 24 = 255 ∧ bits w 23 20 ≠ 2) ∧
    (∃ (s : State) (r : Req) (w : Word) (m : Nat) (f : RFrame), Admitted s r Reg.CSN_RA_CMD Msk.CSN_RA_CMD ∧ bitAt w 0 = true ∧ s.is .CSN_RA_STAT_BUSY =
      false ∧ isHead s = true ∧ bits w 31 24 = m ∧ 1 ≤ m ∧ m ≤ 250 ∧ s.is (.CSN_ROS_STAT_PRESENT m) = true ∧ f =
      { headFrame s 0x01 (raW1 ((s.get .CSN_RA_STAT_RID + 1) % 2 ^ 16) (raCmd s w)) (wd (raCmd s w).addr) (raCmd s w).data with dst := BitVec.ofNat 8 m }) ∧
    (∃ (s : State) (r : Req) (w : Word) (m : Nat), Admitted s r Reg.CSN_RA_CMD Msk.CSN_RA_CMD ∧ bitAt w 0 = true ∧ s.is .CSN_RA_STAT_BUSY = false ∧ isHead
      s = true ∧ bits w 31 24 = m ∧ 1 ≤ m ∧ m ≠ 255 ∧ (250 < m ∨ s.is (.CSN_ROS_STAT_PRESENT m) = false)) ∧
    (∃ (s : State) (x : Fin 2) (f : RFrame) (p : Nat × List Word × State) (y : RFrame), ringGets s x f 0x01 = true ∧ isHead s = false ∧ raLenOk f = true ∧
      f.dst ≠ 255 ∧ f.dst = myAddr s ∧ s.csn.kept.map (fun k => k.1) ≠ some (bits f.w1 31 16) ∧ p = raExec (busFn .ring) (raOf f) (ringStart s) ∧ y =
      raReply s f p.1 p.2.1) ∧
    (∃ (s : State) (x : Fin 2) (f : RFrame) (y : RFrame), ringGets s x f 0x01 = true ∧ isHead s = false ∧ raLenOk f = true ∧ f.dst ≠ 255 ∧ f.dst = myAddr
      s ∧ s.csn.kept = some (bits f.w1 31 16, y)) ∧
    (∃ (s : State) (x : Fin 2) (f : RFrame) (p : Nat × List Word × State), ringGets s x f 0x01 = true ∧ isHead s = false ∧ raLenOk f = true ∧ f.dst = 255
      ∧ bits f.w1 15 12 = 2 ∧ s.csn.kept.map (fun k => k.1) ≠ some (bits f.w1 31 16) ∧ p = raExec (busFn .ring) (raOf f) (ringStart s)) ∧
    (∃ (s : State) (x : Fin 2) (f : RFrame), ringGets s x f 0x01 = true ∧ isHead s = false ∧ raLenOk f = true ∧ f.dst = 255 ∧ (bits f.w1 15 12 ≠ 2 ∨
      s.csn.kept.map (fun k => k.1) = some (bits f.w1 31 16))) ∧
    (∃ (s : State) (x : Fin 2) (f : RFrame), ringGets s x f 0x01 = true ∧ isHead s = false ∧ raLenOk f = true ∧ f.dst ≠ 255 ∧ f.dst ≠ myAddr s) ∧
    (∃ (s : State) (x : Fin 2) (f : RFrame), ringGets s x f 0x01 = true ∧ isHead s = false ∧ raLenOk f = false) ∧
    (∃ (s : State) (x : Fin 2) (f : RFrame), ringGets s x f 0x01 = true ∧ isHead s = true) ∧
    (∃ (s : State) (x : Fin 2) (f : RFrame), ringGets s x f 0x02 = true ∧ isHead s = true ∧ s.is .CSN_RA_STAT_BUSY = true ∧ bits f.w1 31 16 = s.get
      .CSN_RA_STAT_RID) ∧
    (∃ (s : State) (x : Fin 2) (f : RFrame), ringGets s x f 0x02 = true ∧ isHead s = true ∧ (s.is .CSN_RA_STAT_BUSY = false ∨ bits f.w1 31 16 ≠ s.get
      .CSN_RA_STAT_RID)) ∧
    (∃ (s : State) (x : Fin 2) (f : RFrame), ringGets s x f 0x02 = true ∧ isHead s = false) ∧
    (∃ (s : State) (f : RFrame) (a : Nat), s.csn.raReq = some (f, a) ∧ raTmo s * tickS ≤ (clk s - a) * 10000 ∧ s.get .CSN_RA_CFG_RETRIES < s.get
      .CSN_RA_STAT_TRIES) ∧
    (∃ (s : State) (f : RFrame) (a : Nat), s.csn.raReq = some (f, a) ∧ raTmo s * tickS ≤ (clk s - a) * 10000 ∧ s.get .CSN_RA_STAT_TRIES ≤ s.get
      .CSN_RA_CFG_RETRIES) ∧
    (∃ (s : State) (f : RFrame) (a : Nat), s.csn.raReq = some (f, a) ∧ (clk s - a) * 10000 < raTmo s * tickS) ∧
    (∃ (s : State), s.csn.raReq = none) ∧
    (∃ (s : State) (q : Nat) (e : QEnt), isHead s = true ∧ s.csn.seg = none ∧ expQueue s = some q ∧ expHead (s.queue q).ents = some e ∧ e.len ≤ 65535) ∧
    (∃ (s : State) (q : Nat) (e : QEnt), (isHead s = true ∨ (ringTrained s = true ∧ carries s (upPort s) = true ∧ (s.link (upPort s)).paused = false)) ∧
      s.csn.seg = none ∧ expQueue s = some q ∧ expHead (s.queue q).ents = some e ∧ 65535 < e.len) ∧
    (∃ (s : State) (q : Nat) (e : QEnt) (l : List QEnt), isHead s = false ∧ ringTrained s = true ∧ carries s (upPort s) = true ∧ (s.link (upPort
      s)).paused = false ∧ s.csn.seg = none ∧ expQueue s = some q ∧ expHead (s.queue q).ents = some e ∧ e.len ≤ 65535 ∧ qVar s q = false ∧ l = (expReady s
      q).take (256 / max 1 e.len)) ∧
    (∃ (s : State) (q : Nat) (e : QEnt), isHead s = false ∧ ringTrained s = true ∧ carries s (upPort s) = true ∧ (s.link (upPort s)).paused = false ∧
      s.csn.seg = none ∧ expQueue s = some q ∧ expHead (s.queue q).ents = some e ∧ e.len ≤ 65535 ∧ qVar s q = true) ∧
    (∃ (s : State) (g : SegOut), isHead s = false ∧ ringTrained s = true ∧ carries s (upPort s) = true ∧ (s.link (upPort s)).paused = false ∧ s.csn.seg =
      some g ∧ 64 < g.rest.length) ∧
    (∃ (s : State) (g : SegOut) (e : QEnt), isHead s = false ∧ ringTrained s = true ∧ carries s (upPort s) = true ∧ (s.link (upPort s)).paused = false ∧
      s.csn.seg = some g ∧ g.rest.length ≤ 64 ∧ expHead (s.queue g.q).ents = some e ∧ e.pos = g.pos ∧ e.len = g.len ∧ rd s (Reg.Q_EXPORT g.q) = g.seq) ∧
    (∃ (s : State) (g : SegOut), isHead s = false ∧ ringTrained s = true ∧ carries s (upPort s) = true ∧ (s.link (upPort s)).paused = false ∧ s.csn.seg =
      some g ∧ g.rest.length ≤ 64 ∧ (expHead (s.queue g.q).ents).map (fun e => (e.pos, e.len, rd s (Reg.Q_EXPORT g.q))) ≠ some (g.pos, g.len, g.seq)) ∧
    (∃ (s : State), isHead s = false ∧ (ringTrained s = false ∨ carries s (upPort s) = false ∨ (s.link (upPort s)).paused = true)) ∧
    (∃ (s : State), s.csn.seg = none ∧ expQueue s = none) ∧
    (∃ (s : State) (x : Fin 2) (f : RFrame) (m : Nat) (q : Nat) (n : Nat), ringGets s x f 0x06 = true ∧ isHead s = true ∧ m = f.src.toNat ∧ q = bits f.w1
      23 16 ∧ n = bits f.w1 15 0 ∧ bitAt (wd f.flags.toNat) 4 = true ∧ bitAt (wd f.flags.toNat) 5 = true) ∧
    (∃ (s : State) (x : Fin 2) (f : RFrame) (m : Nat) (q : Nat) (n : Nat), ringGets s x f 0x06 = true ∧ isHead s = true ∧ m = f.src.toNat ∧ q = bits f.w1
      23 16 ∧ n = bits f.w1 15 0 ∧ bitAt (wd f.flags.toNat) 4 = false ∧ bitAt (wd f.flags.toNat) 5 = false ∧ f.seg = 0) ∧
    (∃ (s : State) (x : Fin 2) (f : RFrame) (m : Nat) (q : Nat) (n : Nat), ringGets s x f 0x06 = true ∧ isHead s = true ∧ m = f.src.toNat ∧ q = bits f.w1
      23 16 ∧ n = bits f.w1 15 0 ∧ bitAt (wd f.flags.toNat) 4 = true ∧ bitAt (wd f.flags.toNat) 5 = false ∧ f.seg = 0) ∧
    (∃ (s : State) (x : Fin 2) (f : RFrame) (m : Nat) (q : Nat) (n : Nat), ringGets s x f 0x06 = true ∧ isHead s = true ∧ m = f.src.toNat ∧ q = bits f.w1
      23 16 ∧ n = bits f.w1 15 0 ∧ bitAt (wd f.flags.toNat) 4 = true ∧ bitAt (wd f.flags.toNat) 5 = false ∧ f.seg ≠ 0) ∧
    (∃ (s : State) (x : Fin 2) (f : RFrame) (m : Nat) (q : Nat) (n : Nat) (j : SegIn), ringGets s x f 0x06 = true ∧ isHead s = true ∧ m = f.src.toNat ∧ q
      = bits f.w1 23 16 ∧ n = bits f.w1 15 0 ∧ bitAt (wd f.flags.toNat) 4 = false ∧ bitAt (wd f.flags.toNat) 5 = true ∧ j = kget {} s.csn.joins (m * 256 +
      q) ∧ j.ix ≠ 0 ∧ j.ix = f.seg.toNat ∧ j.seq = f.w2) ∧
    (∃ (s : State) (x : Fin 2) (f : RFrame) (m : Nat) (q : Nat) (n : Nat) (j : SegIn), ringGets s x f 0x06 = true ∧ isHead s = true ∧ m = f.src.toNat ∧ q
      = bits f.w1 23 16 ∧ n = bits f.w1 15 0 ∧ bitAt (wd f.flags.toNat) 4 = false ∧ bitAt (wd f.flags.toNat) 5 = false ∧ j = kget {} s.csn.joins (m * 256 +
      q) ∧ j.ix ≠ 0 ∧ j.ix = f.seg.toNat ∧ j.seq = f.w2) ∧
    (∃ (s : State) (x : Fin 2) (f : RFrame) (m : Nat) (q : Nat) (n : Nat) (j : SegIn), ringGets s x f 0x06 = true ∧ isHead s = true ∧ m = f.src.toNat ∧ q
      = bits f.w1 23 16 ∧ n = bits f.w1 15 0 ∧ bitAt (wd f.flags.toNat) 4 = false ∧ (bitAt (wd f.flags.toNat) 5 = true ∨ f.seg ≠ 0) ∧ j = kget {}
      s.csn.joins (m * 256 + q) ∧ (j.ix = 0 ∨ j.ix ≠ f.seg.toNat ∨ j.seq ≠ f.w2)) ∧
    (∃ (s : State) (x : Fin 2), carries s x = true ∧ isHead s = true) ∧
    (∃ (s : State) (x : Fin 2), carries s x = true ∧ isHead s = false) ∧
    (∃ (s : State) (x : Fin 2) (f : RFrame), carries s x = true ∧ rframeOk f = false) ∧
    (∃ (s : State) (x : Fin 2) (f : RFrame), carries s x = true ∧ rframeOk f = true ∧ isHead s = false) ∧
    (∃ (s : State) (x : Fin 2), carries s x = false) ∧
    (∃ (s : State), isHead s = false ∧ s.is .CSN_CFG_ALARM_EN = true ∧ almBits s &&& ~~~ s.csn.alSeen ≠ 0 ∧ carries s (upPort s) = true ∧ s.csn.alAt =
      none) ∧
    (∃ (s : State) (k : Nat), isHead s = false ∧ s.is .CSN_CFG_ALARM_EN = true ∧ almBits s &&& ~~~ s.csn.alSeen ≠ 0 ∧ carries s (upPort s) = true ∧
      s.csn.alAt = some k ∧ k + tick10Ms ≤ clk s) ∧
    (∃ (s : State) (k : Nat), s.csn.alAt = some k ∧ clk s < k + tick10Ms) ∧
    (∃ (s : State), (isHead s = true ∨ s.is .CSN_CFG_ALARM_EN = false ∨ almBits s &&& ~~~ s.csn.alSeen = 0 ∨ carries s (upPort s) = false)) ∧
    (∃ (s : State) (x : Fin 2) (f : RFrame), ringGets s x f 0x07 = true ∧ isHead s = true ∧ (bits f.w1 31 24 = 1 ∨ bits f.w1 31 24 = 4 ∨ (bits f.w1 31 24
      = 3 ∧ bitAt (wd f.flags.toNat) 3 = true))) ∧
    (∃ (s : State) (x : Fin 2) (f : RFrame), ringGets s x f 0x07 = true ∧ isHead s = true ∧ bits f.w1 31 24 = 2) ∧
    (∃ (s : State) (x : Fin 2) (f : RFrame), ringGets s x f 0x07 = true ∧ isHead s = true ∧ bits f.w1 31 24 = 3 ∧ bitAt (wd f.flags.toNat) 3 = false) ∧
    (∃ (s : State) (x : Fin 2) (f : RFrame), ringGets s x f 0x07 = true ∧ isHead s = true) ∧
    (∃ (s : State) (x : Fin 2) (f : RFrame), ringGets s x f 0x07 = true ∧ isHead s = false) :=
  ⟨⟨ringS 0, .s0, 0, ⟨by decide +kernel, by decide +kernel, by decide +kernel⟩, by decide +kernel⟩,
   ⟨(ringS 0).set1 .CSN_RA_STAT_BUSY, .s0, 1, ⟨by decide +kernel, by decide +kernel, by decide +kernel⟩, by decide +kernel, by decide +kernel⟩,
   ⟨ringS 2, .s0, 1, ⟨by decide +kernel, by decide +kernel, by decide +kernel⟩, by decide +kernel, by decide +kernel, by decide +kernel⟩,
   ⟨ringS 0, .s0, 0x00120001, raExec (busFn0 .ring) (raCmd (ringS 0) 0x00120001) (raStart 1 (ringStart (ringS 0))), ⟨by decide +kernel,
     by decide +kernel, by decide +kernel⟩, by decide +kernel, by decide +kernel, by decide +kernel, by decide +kernel, rfl⟩,
   ⟨ringS 0, .s0, 0xFF220001, raStart 1 (ringStart (ringS 0)), ⟨by decide +kernel, by decide +kernel, by decide +kernel⟩, by decide +kernel,
     by decide +kernel, by decide +kernel, by decide +kernel, by decide +kernel, rfl⟩,
   ⟨ringS 0, .s0, 0xFF120001, ⟨by decide +kernel, by decide +kernel, by decide +kernel⟩, by decide +kernel, by decide +kernel, by decide +kernel,
     by decide +kernel, by decide +kernel⟩,
   ⟨(ringS 0).set1 (.CSN_ROS_STAT_PRESENT 2), .s0, 0x02120001, 2,
     { headFrame (ringS 0) 0x01 (raW1 1 (raCmd (ringS 0) 0x02120001)) (wd (raCmd (ringS 0) 0x02120001).addr) (raCmd (ringS 0) 0x02120001).data with dst := 2 },
     ⟨by decide +kernel, by decide +kernel, by decide +kernel⟩, by decide +kernel, by decide +kernel, by decide +kernel, by decide +kernel,
     by decide +kernel, by decide +kernel, by decide +kernel, by decide +kernel⟩,
   ⟨ringS 0, .s0, 0x02120001, 2, ⟨by decide +kernel, by decide +kernel, by decide +kernel⟩, by decide +kernel, by decide +kernel, by decide +kernel,
     by decide +kernel, by decide +kernel, by decide +kernel, by decide +kernel⟩,
   ⟨ringS 2, 0, { ty := 1, flags := 1, dst := 2, w1 := 0x00051000, w2 := 0x24 }, raExec (busFn .ring)
     { op := 1, inc := false, cnt := 0, addr := 0x24, data := [] } (ringStart (ringS 2)), raReply (ringS 2)
     ({ ty := 1, flags := 1, dst := 2, w1 := 0x00051000, w2 := 0x24 }) (raExec (busFn .ring) { op := 1, inc := false, cnt := 0, addr := 0x24, data := [] }
     (ringStart (ringS 2))).1 (raExec (busFn .ring) { op := 1, inc := false, cnt := 0, addr := 0x24, data := [] } (ringStart (ringS 2))).2.1,
     by decide +kernel, by decide +kernel, by decide +kernel, by decide +kernel, by decide +kernel, by decide +kernel, rfl, by decide +kernel⟩,
   ⟨(ringS 2).modCsn (fun c => { c with kept := some (5, { ty := 2 }) }), 0, { ty := 1, flags := 1, dst := 2, w1 := 0x00051000, w2 := 0x24 },
     { ty := 2 }, by decide +kernel, by decide +kernel, by decide +kernel, by decide +kernel, by decide +kernel, by decide +kernel⟩,
   ⟨ringS 2, 0, { ty := 1, flags := 1, dst := 255, w1 := 0x00052000, w2 := 0x24, data := [7] }, raExec (busFn .ring)
     { op := 2, inc := false, cnt := 0, addr := 0x24, data := [7] } (ringStart (ringS 2)), by decide +kernel, by decide +kernel, by decide +kernel,
     by decide +kernel, by decide +kernel, by decide +kernel, rfl⟩,
   ⟨ringS 2, 0, { ty := 1, flags := 1, dst := 255, w1 := 0x00051000, w2 := 0x24 }, by decide +kernel, by decide +kernel, by decide +kernel,
     by decide +kernel, by decide +kernel⟩,
   ⟨ringS 2, 0, { ty := 1, flags := 1, dst := 3, w1 := 0x00051000, w2 := 0x24 }, by decide +kernel, by decide +kernel, by decide +kernel,
     by decide +kernel, by decide +kernel⟩,
   ⟨ringS 2, 0, { ty := 1, flags := 1, dst := 2, w1 := 0x00051000, data := [1] }, by decide +kernel, by decide +kernel, by decide +kernel⟩,
   ⟨ringS 0, 0, { ty := 1, flags := 1, dst := 2, w1 := 0x00051000, w2 := 0x24 }, by decide +kernel, by decide +kernel⟩,
   ⟨((ringS 0).set1 .CSN_RA_STAT_BUSY).put .CSN_RA_STAT_RID 5, 0, { ty := 2, flags := 0, dst := 0, w1 := 0x00050000, w2 := 0x24, data := [77] },
     by decide +kernel, by decide +kernel, by decide +kernel, by decide +kernel⟩,
   ⟨ringS 0, 0, { ty := 2, flags := 0, dst := 0, w1 := 0x00050000, w2 := 0x24, data := [77] }, by decide +kernel, by decide +kernel, by decide +kernel⟩,
   ⟨ringS 2, 0, { ty := 2, flags := 0, dst := 0, w1 := 0x00050000, w2 := 0x24, data := [77] }, by decide +kernel, by decide +kernel⟩,
   ⟨((((ringS 0).put .CSN_RA_CFG_RETRIES 0).put .CSN_RA_STAT_TRIES 1).modCsn (fun c => { c with raReq := some ({}, 0) })).modTu (fun t =>
     { t with edges := 98304000 }), {}, 0, by decide +kernel, by decide +kernel, by decide +kernel⟩,
   ⟨((((ringS 0).put .CSN_RA_CFG_RETRIES 1).put .CSN_RA_STAT_TRIES 1).modCsn (fun c => { c with raReq := some ({}, 0) })).modTu (fun t =>
     { t with edges := 98304000 }), {}, 0, by decide +kernel, by decide +kernel, by decide +kernel⟩,
   ⟨(ringS 0).modCsn (fun c => { c with raReq := some ({}, 0) }), {}, 0, by decide +kernel, by decide +kernel⟩,
   ⟨runS, by decide +kernel⟩,
   ⟨(((((ringS 0).put (.Q_CFG_ESIZE 100) 1).put (.Q_CFG_DEPTH 100) 4).set1 (.Q_CFG_EXPORT 100)).setQueue 100 { ents := [{ pos := 0, len := 8 }] }), 100,
     { pos := 0, len := 8 }, by decide +kernel, by decide +kernel, by decide +kernel, by decide +kernel, by decide +kernel⟩,
   ⟨(((((ringS 0).put (.Q_CFG_ESIZE 100) 5).put (.Q_CFG_DEPTH 100) 4).set1 (.Q_CFG_EXPORT 100)).setQueue 100 { ents := [{ pos := 0, len := 70000 }] }),
     100, { pos := 0, len := 70000 }, by decide +kernel, by decide +kernel, by decide +kernel, by decide +kernel, by decide +kernel⟩,
   ⟨(((((ringS 2).put (.Q_CFG_ESIZE 100) 1).put (.Q_CFG_DEPTH 100) 4).set1 (.Q_CFG_EXPORT 100)).setQueue 100 { ents := [{ pos := 0, len := 8 }] }), 100,
     { pos := 0, len := 8 }, [{ pos := 0, len := 8 }], by decide +kernel, by decide +kernel, by decide +kernel, by decide +kernel, by decide +kernel,
     by decide +kernel, by decide +kernel, by decide +kernel, by decide +kernel, by decide +kernel⟩,
   ⟨(((((ringS 2).put (.Q_CFG_ESIZE 100) 5).put (.Q_CFG_DEPTH 100) 4).set1 (.Q_CFG_EXPORT 100)).setQueue 100 { ents := [{ pos := 0, len := 8 }] }), 100,
     { pos := 0, len := 8 }, by decide +kernel, by decide +kernel, by decide +kernel, by decide +kernel, by decide +kernel, by decide +kernel,
     by decide +kernel, by decide +kernel, by decide +kernel⟩,
   ⟨((((((ringS 2).put (.Q_CFG_ESIZE 100) 5).put (.Q_CFG_DEPTH 100) 4).set1 (.Q_CFG_EXPORT 100)).setQueue 100
     { ents := [{ pos := 0, len := 280 }] })).modCsn (fun c =>
     { c with seg := some { q := 100, pos := 0, seq := 0, len := 280, rest := List.replicate 70 7, ix := 1 } }),
     { q := 100, pos := 0, seq := 0, len := 280, rest := List.replicate 70 7, ix := 1 }, by decide +kernel, by decide +kernel, by decide +kernel,
     by decide +kernel, by decide +kernel, by decide +kernel⟩,
   ⟨((((((ringS 2).put (.Q_CFG_ESIZE 100) 5).put (.Q_CFG_DEPTH 100) 4).set1 (.Q_CFG_EXPORT 100)).setQueue 100
     { ents := [{ pos := 0, len := 20 }] })).modCsn (fun c =>
     { c with seg := some { q := 100, pos := 0, seq := 0, len := 20, rest := List.replicate 5 7, ix := 1 } }),
     { q := 100, pos := 0, seq := 0, len := 20, rest := List.replicate 5 7, ix := 1 }, { pos := 0, len := 20 }, by decide +kernel, by decide +kernel,
     by decide +kernel, by decide +kernel, by decide +kernel, by decide +kernel, by decide +kernel, by decide +kernel, by decide +kernel,
     by decide +kernel⟩,
   ⟨((((((ringS 2).put (.Q_CFG_ESIZE 100) 5).put (.Q_CFG_DEPTH 100) 4).set1 (.Q_CFG_EXPORT 100)).setQueue 100
     { ents := [{ pos := 0, len := 20 }] })).modCsn (fun c =>
     { c with seg := some { q := 100, pos := 0, seq := 3, len := 20, rest := List.replicate 5 7, ix := 1 } }),
     { q := 100, pos := 0, seq := 3, len := 20, rest := List.replicate 5 7, ix := 1 }, by decide +kernel, by decide +kernel, by decide +kernel,
     by decide +kernel, by decide +kernel, by decide +kernel, by decide +kernel⟩,
   ⟨runS, by decide +kernel, by decide +kernel⟩,
   ⟨runS, by decide +kernel, by decide +kernel⟩,
   ⟨ringS 0, 0, { ty := 6, dst := 0, src := 2, flags := 48, seg := 0, w1 := 0x00050008, w2 := 9, data := [1, 2] }, 2, 5, 8, by decide +kernel,
     by decide +kernel, by decide +kernel, by decide +kernel, by decide +kernel, by decide +kernel, by decide +kernel⟩,
   ⟨ringS 0, 0, { ty := 6, dst := 0, src := 2, flags := 0, seg := 0, w1 := 0x00050008, w2 := 9, data := [1, 2] }, 2, 5, 8, by decide +kernel,
     by decide +kernel, by decide +kernel, by decide +kernel, by decide +kernel, by decide +kernel, by decide +kernel, by decide +kernel⟩,
   ⟨ringS 0, 0, { ty := 6, dst := 0, src := 2, flags := 16, seg := 0, w1 := 0x00050008, w2 := 9, data := [1, 2] }, 2, 5, 8, by decide +kernel,
     by decide +kernel, by decide +kernel, by decide +kernel, by decide +kernel, by decide +kernel, by decide +kernel, by decide +kernel⟩,
   ⟨ringS 0, 0, { ty := 6, dst := 0, src := 2, flags := 16, seg := 1, w1 := 0x00050008, w2 := 9, data := [1, 2] }, 2, 5, 8, by decide +kernel,
     by decide +kernel, by decide +kernel, by decide +kernel, by decide +kernel, by decide +kernel, by decide +kernel, by decide +kernel⟩,
   ⟨(ringS 0).modCsn (fun c => { c with joins := [(517, { seq := 9, len := 16, words := [3, 4], ix := 1 })] }), 0,
     { ty := 6, dst := 0, src := 2, flags := 32, seg := 1, w1 := 0x00050008, w2 := 9, data := [1, 2] }, 2, 5, 8,
     { seq := 9, len := 16, words := [3, 4], ix := 1 }, by decide +kernel, by decide +kernel, by decide +kernel, by decide +kernel, by decide +kernel,
     by decide +kernel, by decide +kernel, by decide +kernel, by decide +kernel, by decide +kernel, by decide +kernel⟩,
   ⟨(ringS 0).modCsn (fun c => { c with joins := [(517, { seq := 9, len := 16, words := [3, 4], ix := 1 })] }), 0,
     { ty := 6, dst := 0, src := 2, flags := 0, seg := 1, w1 := 0x00050008, w2 := 9, data := [1, 2] }, 2, 5, 8,
     { seq := 9, len := 16, words := [3, 4], ix := 1 }, by decide +kernel, by decide +kernel, by decide +kernel, by decide +kernel, by decide +kernel,
     by decide +kernel, by decide +kernel, by decide +kernel, by decide +kernel, by decide +kernel, by decide +kernel⟩,
   ⟨(ringS 0).modCsn (fun c => { c with joins := [(517, { seq := 9, len := 16, words := [3, 4], ix := 1 })] }), 0,
     { ty := 6, dst := 0, src := 2, flags := 0, seg := 2, w1 := 0x00050008, w2 := 9, data := [1, 2] }, 2, 5, 8,
     { seq := 9, len := 16, words := [3, 4], ix := 1 }, by decide +kernel, by decide +kernel, by decide +kernel, by decide +kernel, by decide +kernel,
     by decide +kernel, by decide +kernel, by decide +kernel, by decide +kernel⟩,
   ⟨ringS 0, 0, by decide +kernel, by decide +kernel⟩,
   ⟨ringS 2, 0, by decide +kernel, by decide +kernel⟩,
   ⟨ringS 0, 0, { ty := 6, dst := 1 }, by decide +kernel, by decide +kernel⟩,
   ⟨ringS 2, 0, { ty := 6, dst := 0, src := 2, flags := 0, seg := 0, w1 := 0x00050008, w2 := 9, data := [1, 2] }, by decide +kernel, by decide +kernel,
     by decide +kernel⟩,
   ⟨runS, 0, by decide +kernel⟩,
   ⟨wr Reg.MOD_IRQ 2 (wr Reg.CSN_ALM_EN 2 ((ringS 2).set1 .CSN_CFG_ALARM_EN)), by decide +kernel, by decide +kernel, by decide +kernel,
     by decide +kernel, by decide +kernel⟩,
   ⟨((wr Reg.MOD_IRQ 2 (wr Reg.CSN_ALM_EN 2 ((ringS 2).set1 .CSN_CFG_ALARM_EN))).modCsn (fun c => { c with alAt := some 5 })).modTu (fun t =>
     { t with edges := 98304000 }), 5, by decide +kernel, by decide +kernel, by decide +kernel, by decide +kernel, by decide +kernel, by decide +kernel⟩,
   ⟨runS.modCsn (fun c => { c with alAt := some 5 }), 5, by decide +kernel, by decide +kernel⟩,
   ⟨runS, by decide +kernel⟩,
   ⟨ringS 0, 0, { ty := 7, dst := 0, src := 2, flags := 0, w1 := 0x01000000, w2 := 0x103, data := [1, 2] }, by decide +kernel, by decide +kernel,
     by decide +kernel⟩,
   ⟨ringS 0, 0, { ty := 7, dst := 0, src := 2, flags := 0, w1 := 0x02000000, w2 := 0x103, data := [1, 2] }, by decide +kernel, by decide +kernel,
     by decide +kernel⟩,
   ⟨ringS 0, 0, { ty := 7, dst := 0, src := 2, flags := 0, w1 := 0x03000000, w2 := 0x103, data := [1, 2] }, by decide +kernel, by decide +kernel,
     by decide +kernel, by decide +kernel⟩,
   ⟨ringS 0, 0, { ty := 7, dst := 0, src := 2, flags := 0, w1 := 0x03000000, w2 := 0x103, data := [1, 2] }, by decide +kernel, by decide +kernel⟩,
   ⟨ringS 2, 0, { ty := 7, dst := 0, src := 2, flags := 0, w1 := 0x01000000, w2 := 0x103, data := [1, 2] }, by decide +kernel, by decide +kernel⟩⟩

theorem witness_VerdictsAndTakeovers :
    (∃ (s : State) (d : Dom), s.pw.on = true ∧ feedOf s (otherDom d) = true) ∧
    (∃ (s : State) (d : Dom) (b : State), s.pw.on = true ∧ feedOf s (otherDom d) = false ∧ b = feedLost d s) ∧
    (∃ (s : State) (d : Dom), s.pw.on = true ∧ feedOf s (otherDom d) = false) ∧
    (∃ (s : State), s.pw.on = false) ∧
    (∃ (s : State), (s.pw.power ≠ 0 ∨ s.sv.anyActive = true ∨ s.sv.tkoFrom ≠ none)) ∧
    (∃ (s : State), s.pw.power = 0 ∧ s.sv.anyActive = false ∧ s.sv.tkoFrom = none) ∧
    (∃ (s : State) (d : Dom), s.is .SV_STAT_ARB_FAULT = false ∧ roleOf s d = .standby ∧ s.sv.anyActive = true) ∧
    (∃ (s : State) (d : Dom), s.is .SV_STAT_ARB_FAULT = false ∧ roleOf s d = .active ∧ roleOf s (otherDom d) = .standby) ∧
    (∃ (s : State) (d : Dom), s.is .SV_STAT_ARB_FAULT = false ∧ roleOf s d = .active ∧ roleOf s (otherDom d) ≠ .standby ∧ (feedOf s .a = true ∨ feedOf s
      .b = true) ∧ within24h s s.sv.restartAt = false) ∧
    (∃ (s : State) (d : Dom), s.is .SV_STAT_ARB_FAULT = false ∧ roleOf s d = .active ∧ roleOf s (otherDom d) ≠ .standby ∧ (feedOf s .a = true ∨ feedOf s
      .b = true) ∧ within24h s s.sv.restartAt = true) ∧
    (∃ (s : State) (d : Dom), (s.is .SV_STAT_ARB_FAULT = true ∨ roleOf s d = .absent ∨ roleOf s d = .fenced)) ∧
    (∃ (s : State), tickMs ≤ now s ∧ s.sv.anyActive = true) ∧
    (∃ (s : State), (now s < tickMs ∨ s.sv.anyActive = false)) ∧
    (∃ (s : State) (x : Digest) (y : Digest), s.sv.digA = some x ∧ s.sv.digB = some y ∧ (s.sv.stby ≠ .inStep ∨ x.ms ≠ y.ms ∨ x.crc = y.crc)) ∧
    (∃ (s : State) (x : Digest) (y : Digest), s.sv.digA = some x ∧ s.sv.digB = some y ∧ s.sv.stby = .inStep ∧ x.ms = y.ms ∧ x.crc ≠ y.crc ∧ linkFault s
      x.ms = true ∧ x.ms ≤ s.sv.skipTo) ∧
    (∃ (s : State) (x : Digest) (y : Digest), s.sv.digA = some x ∧ s.sv.digB = some y ∧ s.sv.stby = .inStep ∧ x.ms = y.ms ∧ x.crc ≠ y.crc ∧ linkFault s
      x.ms = true ∧ s.sv.skipTo < x.ms) ∧
    (∃ (s : State) (x : Digest) (y : Digest), s.sv.digA = some x ∧ s.sv.digB = some y ∧ s.sv.stby = .inStep ∧ x.ms = y.ms ∧ x.crc ≠ y.crc ∧ linkFault s
      x.ms = false ∧ (s.sv.lastCheck.map (fun k => decide (clk s < k + 10 * tickS))).getD false = true) ∧
    (∃ (s : State) (x : Digest) (y : Digest), s.sv.digA = some x ∧ s.sv.digB = some y ∧ s.sv.stby = .inStep ∧ x.ms = y.ms ∧ x.crc ≠ y.crc ∧ linkFault s
      x.ms = false ∧ (s.sv.lastCheck.map (fun k => decide (clk s < k + 10 * tickS))).getD false = false) ∧
    (∃ (s : State), (s.sv.digA = none ∨ s.sv.digB = none)) ∧
    (∃ (s : State) (m : Nat) (d : Dom), s.sv.selfCheck = some m ∧ activeDom s = some d) ∧
    (∃ (s : State) (m : Nat) (d : Dom) (a : Bool) (b : Bool), s.sv.selfCheck = some m ∧ activeDom s = some d ∧ (byDom d b a) = true ∧ (byDom d a b) =
      false) ∧
    (∃ (s : State) (m : Nat) (d : Dom) (a : Bool) (b : Bool), s.sv.selfCheck = some m ∧ activeDom s = some d ∧ (byDom d b a) = false ∧ (byDom d a b) =
      true) ∧
    (∃ (s : State) (m : Nat) (d : Dom), s.sv.selfCheck = some m ∧ activeDom s = some d) ∧
    (∃ (s : State), s.sv.selfCheck = none) ∧
    (∃ (s : State), activeDom s = none) ∧
    (∃ (s : State), s.is .SV_STAT_DISAGREE = true ∧ (s.sv.lastMismatch.getD 0) + 60 * tickS ≤ clk s) ∧
    (∃ (s : State), (s.is .SV_STAT_DISAGREE = false ∨ clk s < (s.sv.lastMismatch.getD 0) + 60 * tickS)) ∧
    (∃ (s : State), s.is .SV_STAT_ARB_FAULT = false ∧ s.sv.anyActive = true) ∧
    (∃ (s : State), (s.is .SV_STAT_ARB_FAULT = true ∨ s.sv.anyActive = false)) ∧
    (∃ (s : State), s.is .SV_STAT_ARB_FAULT = true) ∧
    (∃ (s : State), s.is .SV_STAT_ARB_FAULT = false) ∧
    (∃ (s : State) (d : Dom), s.sv.tkoFrom ≠ none ∧ standbyDom s = some d ∧ s.is .SV_STAT_ARB_FAULT = false ∧ s.sv.ready = false) ∧
    (∃ (s : State), (s.sv.tkoFrom = none ∨ standbyDom s = none ∨ s.is .SV_STAT_ARB_FAULT = true ∨ s.sv.ready = true)) ∧
    (∃ (s : State) (d : Dom) (k : Nat) (j : JSnap), s.sv.tkoFrom = some (d, k) ∧ s.sv.ready = true ∧ s.sv.cold = false ∧ s.jcom = some j) ∧
    (∃ (s : State) (d : Dom) (k : Nat), s.sv.tkoFrom = some (d, k) ∧ s.sv.ready = true ∧ (s.sv.cold = true ∨ s.jcom = none)) ∧
    (∃ (s : State) (d : Dom) (k : Nat), s.sv.tkoFrom = some (d, k) ∧ s.sv.ready = true ∧ s.pw.pend = none ∧ s.pw.power ≠ 2) ∧
    (∃ (s : State), (s.sv.tkoFrom = none ∨ s.sv.ready = false)) ∧
    (∃ (s : State) (d : Dom) (e : Dom), activeDom s = some d ∧ standbyDom s = some e ∧ s.is .SV_STAT_SWITCHING = true ∧ canSwitch s = true ∧ hasStandby s
      = true ∧ s.pw.pend = none) ∧
    (∃ (s : State), (activeDom s = none ∨ standbyDom s = none ∨ s.is .SV_STAT_SWITCHING = false ∨ canSwitch s = false ∨ hasStandby s = false)) ∧
    (∃ (s : State) (a : Nat), s.sv.switchAt = some a ∧ s.is .SV_STAT_SWITCHING = true ∧ switchHeld s = true ∧ a + s.get .SV_CFG_SWITCH_WAIT * tick10Ms ≤
      clk s) ∧
    (∃ (s : State), (s.sv.switchAt = none ∨ s.is .SV_STAT_SWITCHING = false ∨ switchHeld s = false ∨ clk s < s.get .SV_CFG_SWITCH_WAIT * tick10Ms)) :=
  ⟨⟨runS, .b, by decide +kernel, by decide +kernel⟩,
   ⟨runS.modSv (fun v => { v with feedB := false }), .a, feedLost .a (runS.modSv (fun v => { v with feedB := false })), by decide +kernel,
     by decide +kernel, rfl⟩,
   ⟨runS.modSv (fun v => { v with feedB := false }), .a, by decide +kernel, by decide +kernel⟩,
   ⟨{}, by decide +kernel⟩,
   ⟨runS, by decide +kernel⟩,
   ⟨{ sv := { roleB := .standby } }, by decide +kernel, by decide +kernel, by decide +kernel⟩,
   ⟨runS, .b, by decide +kernel, by decide +kernel, by decide +kernel⟩,
   ⟨runS, .a, by decide +kernel, by decide +kernel, by decide +kernel⟩,
   ⟨{ runS.modSv (fun v => { v with roleB := .fenced, stby := .none }) with tiles := [] }, .a, by decide +kernel, by decide +kernel, by decide +kernel,
     by decide +kernel, by decide +kernel⟩,
   ⟨runS.modSv (fun v => { v with roleB := .fenced, stby := .none, restartAt := some 5 }), .a, by decide +kernel, by decide +kernel, by decide +kernel,
     by decide +kernel, by decide +kernel⟩,
   ⟨runS.set1 .SV_STAT_ARB_FAULT, .a, by decide +kernel⟩,
   ⟨runS, by decide +kernel, by decide +kernel⟩,
   ⟨{}, by decide +kernel⟩,
   ⟨runS.modSv (fun v => { v with digA := some ⟨5, 6, 0⟩, digB := some ⟨5, 6, 0⟩ }), ⟨5, 6, 0⟩, ⟨5, 6, 0⟩, by decide +kernel, by decide +kernel,
     by decide +kernel⟩,
   ⟨runS.modSv (fun v => { v with digA := some ⟨5, 6, 0⟩, digB := some ⟨5, 7, 0⟩, corrupt := [(3, 5)], skipTo := 9 }), ⟨5, 6, 0⟩, ⟨5, 7, 0⟩,
     by decide +kernel, by decide +kernel, by decide +kernel, by decide +kernel, by decide +kernel, by decide +kernel, by decide +kernel⟩,
   ⟨runS.modSv (fun v => { v with digA := some ⟨5, 6, 0⟩, digB := some ⟨5, 7, 0⟩, corrupt := [(3, 5)] }), ⟨5, 6, 0⟩, ⟨5, 7, 0⟩, by decide +kernel,
     by decide +kernel, by decide +kernel, by decide +kernel, by decide +kernel, by decide +kernel, by decide +kernel⟩,
   ⟨runS.modSv (fun v => { v with digA := some ⟨5, 6, 0⟩, digB := some ⟨5, 7, 0⟩, lastCheck := some 5 }), ⟨5, 6, 0⟩, ⟨5, 7, 0⟩, by decide +kernel,
     by decide +kernel, by decide +kernel, by decide +kernel, by decide +kernel, by decide +kernel, by decide +kernel⟩,
   ⟨runS.modSv (fun v => { v with digA := some ⟨5, 6, 0⟩, digB := some ⟨5, 7, 0⟩ }), ⟨5, 6, 0⟩, ⟨5, 7, 0⟩, by decide +kernel, by decide +kernel,
     by decide +kernel, by decide +kernel, by decide +kernel, by decide +kernel, by decide +kernel⟩,
   ⟨runS, by decide +kernel⟩,
   ⟨runS.modSv (fun v => { v with selfCheck := some 5 }), 5, .a, by decide +kernel, by decide +kernel⟩,
   ⟨runS.modSv (fun v => { v with selfCheck := some 5 }), 5, .a, false, true, by decide +kernel, by decide +kernel, by decide +kernel, by decide +kernel⟩,
   ⟨runS.modSv (fun v => { v with selfCheck := some 5 }), 5, .a, true, false, by decide +kernel, by decide +kernel, by decide +kernel, by decide +kernel⟩,
   ⟨{ runS.modSv (fun v => { v with selfCheck := some 5 }) with tiles := [] }, 5, .a, by decide +kernel, by decide +kernel⟩,
   ⟨runS, by decide +kernel⟩,
   ⟨{}, by decide +kernel⟩,
   ⟨(runS.set1 .SV_STAT_DISAGREE).modTu (fun t => { t with edges := 3000000000 }), by decide +kernel, by decide +kernel⟩,
   ⟨runS, by decide +kernel⟩,
   ⟨runS, by decide +kernel, by decide +kernel⟩,
   ⟨{}, by decide +kernel⟩,
   ⟨runS.set1 .SV_STAT_ARB_FAULT, by decide +kernel⟩,
   ⟨runS, by decide +kernel⟩,
   ⟨runS.modSv (fun v => { v with roleA := .fenced, anyActive := false, tkoFrom := some (.a, 3) }), .b, by decide +kernel, by decide +kernel,
     by decide +kernel, by decide +kernel⟩,
   ⟨runS, by decide +kernel⟩,
   ⟨{ runS.modSv (fun v => { v with roleA := .fenced, roleB := .active, anyActive := false, tkoFrom := some (.a, 3), ready := true, stby := .none }) with jcom := some (snapOf 4 runS), tiles := [] },
     .a, 3, snapOf 4 runS, by decide +kernel, by decide +kernel, by decide +kernel, by decide +kernel⟩,
   ⟨runS.modSv (fun v =>
     { v with roleA := .fenced, roleB := .active, anyActive := false, tkoFrom := some (.a, 3), ready := true, stby := .none, cold := true }), .a, 3,
     by decide +kernel, by decide +kernel, by decide +kernel⟩,
   ⟨runS.modSv (fun v =>
     { v with roleA := .fenced, roleB := .active, anyActive := false, tkoFrom := some (.a, 3), ready := true, stby := .none, cold := true }), .a, 3,
     by decide +kernel, by decide +kernel, by decide +kernel, by decide +kernel⟩,
   ⟨runS, by decide +kernel⟩,
   ⟨runS.set1 .SV_STAT_SWITCHING, .a, .b, by decide +kernel, by decide +kernel, by decide +kernel, by decide +kernel, by decide +kernel,
     by decide +kernel⟩,
   ⟨runS, by decide +kernel⟩,
   ⟨((((runS.set1 .SV_STAT_SWITCHING).modSv (fun v => { v with switchAt := some 0 })).modSp1 (fun p => { p with win := some 0 }))).modTu (fun t =>
     { t with edges := 3000000000 }), 0, by decide +kernel, by decide +kernel, by decide +kernel, by decide +kernel⟩,
   ⟨runS, by decide +kernel⟩⟩

theorem witness_JournalAndRejoining :
    (∃ (s : State), hasStandby s = true) ∧
    (∃ (s : State), hasStandby s = false) ∧
    (∃ (s : State), hasStandby s = true ∧ s.sv.anyActive = true ∧ lastClose s + jTicks s ≤ clk s) ∧
    (∃ (s : State), (hasStandby s = false ∨ s.sv.anyActive = false ∨ clk s < lastClose s + jTicks s)) ∧
    (∃ (s : State) (j : JSnap) (l : List JSnap), s.jpend = j :: l ∧ hasStandby s = true) ∧
    (∃ (s : State), (s.jpend = [] ∨ hasStandby s = false)) ∧
    (∃ (s : State) (j : JSnap) (l : List JSnap) (d : Dom), s.jpend = j :: l ∧ standbyDom s = some d ∧ j.edge + 4 * jTicks s ≤ clk s) ∧
    (∃ (s : State) (j : JSnap) (l : List JSnap), s.jpend = j :: l ∧ clk s < j.edge + 4 * jTicks s) ∧
    (∃ (s : State), (s.jpend = [] ∨ standbyDom s = none)) ∧
    (∃ (s : State) (d : Dom), canRejoin s d = true ∧ roleOf s d = .standby ∧ s.sv.stby = .outOfStep) ∧
    (∃ (s : State) (d : Dom), canRejoin s d = true ∧ roleOf s d = .standby ∧ s.sv.stby = .outOfStep) ∧
    (∃ (s : State) (d : Dom), canRejoin s d = true ∧ roleOf s d = .absent) ∧
    (∃ (s : State) (d : Dom), canRejoin s d = true ∧ roleOf s d = .fenced ∧ s.is .SV_CFG_AUTO_REJOIN = true ∧ (byDom d (s.sv.stayA) (s.sv.stayB)) = false) ∧
    (∃ (s : State) (d : Dom), (canRejoin s d = false ∨ (roleOf s d = .standby ∧ s.sv.stby ≠ .outOfStep) ∨ (roleOf s d = .fenced ∧ (s.is
      .SV_CFG_AUTO_REJOIN = false ∨ (byDom d (s.sv.stayA) (s.sv.stayB)) = true)))) ∧
    (∃ (s : State) (d : Dom), s.sv.rejoin = some d ∧ standbyLinked s d = true) ∧
    (∃ (s : State) (d : Dom), s.sv.rejoin = some d ∧ standbyLinked s d = false) ∧
    (∃ (s : State) (d : Dom), s.sv.rejoin = some d) ∧
    (∃ (s : State), s.sv.rejoin = none) ∧
    (∃ (s : State) (r : Req), Admitted s r Reg.SV_CMD Msk.SV_CMD ∧ s.sv.roleA = .fenced ∧ canRejoin s .a = true) ∧
    (∃ (s : State) (r : Req), Admitted s r Reg.SV_CMD Msk.SV_CMD ∧ s.sv.roleA ≠ .fenced ∧ s.sv.roleB = .fenced ∧ canRejoin s .b = true) ∧
    (∃ (s : State) (r : Req), Admitted s r Reg.SV_CMD Msk.SV_CMD ∧ (s.sv.roleA ≠ .fenced ∨ canRejoin s .a = false) ∧ (s.sv.roleB ≠ .fenced ∨ canRejoin s
      .b = false)) ∧
    (∃ (s : State), s.sv.anyActive = false) ∧
    (∃ (s : State) (p : Bool) (b : State), s.sv.anyActive = true ∧ b = (s.when p (·.modSv (fun v => { v with scrubPasses := v.scrubPasses + 1 })))) ∧
    (∃ (s : State) (d : Dom) (m : Fin 4) (a : Word) (p : Bool) (b : State), s.sv.anyActive = true ∧ activeDom s = some d ∧ hasStandby s = true ∧ b =
      svRecord 8 1 (domIx d) m a.toNat (((s.when p (·.modSv (fun v => { v with scrubPasses := v.scrubPasses + 1 }))).inc .SV_ECC_UNCORR).modSv (fun v =>
      { v with eccUncorr := v.eccUncorr + 1 }))) ∧
    (∃ (s : State) (d : Dom) (m : Fin 4) (a : Word) (p : Bool) (b : State), s.sv.anyActive = true ∧ activeDom s = some d ∧ hasStandby s = false ∧ b =
      svRecord 8 1 (domIx d) m a.toNat (((s.when p (·.modSv (fun v => { v with scrubPasses := v.scrubPasses + 1 }))).inc .SV_ECC_UNCORR).modSv (fun v =>
      { v with eccUncorr := v.eccUncorr + 1 }))) ∧
    (∃ (s : State) (d : Dom) (m : Fin 4) (a : Word) (p : Bool) (b : State), s.sv.anyActive = true ∧ activeDom s ≠ some d ∧ b = svRecord 8 0 (domIx d) m
      a.toNat (((s.when p (·.modSv (fun v => { v with scrubPasses := v.scrubPasses + 1 }))).inc .SV_ECC_UNCORR).modSv (fun v =>
      { v with eccUncorr := v.eccUncorr + 1 }))) ∧
    (∃ (s : State), s.sv.stby = .inStep ∧ s.sv.marchAt + 4 * tickS ≤ clk s) ∧
    (∃ (s : State), s.sv.stby = .inStep ∧ s.sv.marchAt + 4 * tickS ≤ clk s ∧ s.sv.spare = true) ∧
    (∃ (s : State) (d : Dom), s.sv.stby = .inStep ∧ s.sv.marchAt + 4 * tickS ≤ clk s ∧ s.sv.spare = false ∧ standbyDom s = some d) ∧
    (∃ (s : State), (s.sv.stby ≠ .inStep ∨ clk s < s.sv.marchAt + 4 * tickS)) ∧
    (∃ (s : State), s.sv.stby = .inStep ∧ s.sv.sliceAt + tick10Ms ≤ clk s) ∧
    (∃ (s : State) (d : Dom), s.sv.stby = .inStep ∧ s.sv.sliceAt + tick10Ms ≤ clk s ∧ standbyDom s = some d) ∧
    (∃ (s : State), (s.sv.stby ≠ .inStep ∨ clk s < s.sv.sliceAt + tick10Ms)) ∧
    (∃ (s : State), s.sv.stby = .inStep ∧ s.sv.loopAt + 60 * tickS ≤ clk s) ∧
    (∃ (s : State) (d : Dom), s.sv.stby = .inStep ∧ s.sv.loopAt + 60 * tickS ≤ clk s ∧ standbyDom s = some d) ∧
    (∃ (s : State), (s.sv.stby ≠ .inStep ∨ clk s < s.sv.loopAt + 60 * tickS)) ∧
    (∃ (s : State), s.get .SV_BURGEE_PERIOD ≠ 0 ∧ s.sv.anyActive = true ∧ s.pw.power ≠ 0 ∧ s.pw.power ≠ 4 ∧ s.pw.power ≠ 6 ∧ s.sv.burgeeAt + s.get
      .SV_BURGEE_PERIOD * tickS ≤ clk s) ∧
    (∃ (s : State), (s.get .SV_BURGEE_PERIOD = 0 ∨ s.sv.anyActive = false ∨ s.pw.power = 0 ∨ s.pw.power = 4 ∨ s.pw.power = 6 ∨ clk s < s.sv.burgeeAt +
      s.get .SV_BURGEE_PERIOD * tickS)) ∧
    (∃ (s : State) (r : Req) (b : State), served s r Reg.MOD_WDOG = true ∧ s.is .MOD_WDOG_EXPIRED = true ∧ b = (if s.is .MOD_WDOG_EN then wdogDl (some
      (clk s + wdogTicks s)) s else s)) ∧
    (∃ (s : State) (r : Req) (b : State), served s r Reg.MOD_WDOG = true ∧ s.is .MOD_WDOG_EXPIRED = false ∧ b = (if s.is .MOD_WDOG_EN then wdogDl (some
      (clk s + wdogTicks s)) s else s)) ∧
    (∃ (s : State) (r : Req), served s r Reg.MOD_WDOG = false) ∧
    (∃ (s : State) (a : Nat), s.sv.wdogDl = some a ∧ a ≤ clk s ∧ s.sv.anyActive = true) ∧
    (∃ (s : State) (a : Nat), s.sv.wdogDl = some a ∧ (clk s < a ∨ s.sv.anyActive = false)) ∧
    (∃ (s : State), s.sv.wdogDl = none) :=
  ⟨⟨runS, by decide +kernel⟩,
   ⟨{}, by decide +kernel⟩,
   ⟨(runS).modTu (fun t => { t with edges := 98304000 }), by decide +kernel, by decide +kernel, by decide +kernel⟩,
   ⟨runS, by decide +kernel⟩,
   ⟨{ runS with jpend := [snapOf 6 runS] }, snapOf 6 runS, [], by decide +kernel, by decide +kernel⟩,
   ⟨runS, by decide +kernel⟩,
   ⟨({ runS with jpend := [snapOf 6 runS] }).modTu (fun t => { t with edges := 98304000 }), snapOf 6 runS, [], .b, by decide +kernel, by decide +kernel,
     by decide +kernel⟩,
   ⟨{ runS with jpend := [snapOf 6 runS] }, snapOf 6 runS, [], by decide +kernel, by decide +kernel⟩,
   ⟨runS, by decide +kernel⟩,
   ⟨runS.modSv (fun v => { v with stby := .outOfStep }), .b, by decide +kernel, by decide +kernel, by decide +kernel⟩,
   ⟨runS.modSv (fun v => { v with stby := .outOfStep }), .b, by decide +kernel, by decide +kernel, by decide +kernel⟩,
   ⟨runS.modSv (fun v => { v with roleB := .absent, stby := .none }), .b, by decide +kernel, by decide +kernel⟩,
   ⟨(runS.modSv (fun v => { v with roleB := .fenced, stby := .none })).set1 .SV_CFG_AUTO_REJOIN, .b, by decide +kernel, by decide +kernel,
     by decide +kernel, by decide +kernel⟩,
   ⟨runS, .a, by decide +kernel⟩,
   ⟨{ runS with tiles := [] }.modSv (fun v => { v with stby := .rejoining, rejoin := some .b }), .b, by decide +kernel, by decide +kernel⟩,
   ⟨(runS.modSv (fun v => { v with stby := .rejoining, rejoin := some .b })).set1 (.TILE_FEED_LINK_A 3), .b, by decide +kernel, by decide +kernel⟩,
   ⟨{ runS with tiles := [] }.modSv (fun v => { v with stby := .rejoining, rejoin := some .b }), .b, by decide +kernel⟩,
   ⟨runS, by decide +kernel⟩,
   ⟨runS.modSv (fun v => { v with roleA := .fenced, roleB := .active, stby := .none }), .s0, ⟨by decide +kernel, by decide +kernel, by decide +kernel⟩,
     by decide +kernel, by decide +kernel⟩,
   ⟨runS.modSv (fun v => { v with roleB := .fenced, stby := .none }), .s0, ⟨by decide +kernel, by decide +kernel, by decide +kernel⟩, by decide +kernel,
     by decide +kernel, by decide +kernel⟩,
   ⟨runS, .s0, ⟨by decide +kernel, by decide +kernel, by decide +kernel⟩, by decide +kernel, by decide +kernel⟩,
   ⟨{}, by decide +kernel⟩,
   ⟨runS, false, runS, by decide +kernel, rfl⟩,
   ⟨runS, .a, 1, 0x80000, false, svRecord 8 1 (domIx .a) 1 0x80000 (((runS).inc .SV_ECC_UNCORR).modSv (fun v =>
     { v with eccUncorr := v.eccUncorr + 1 })), by decide +kernel, by decide +kernel, by decide +kernel, rfl⟩,
   ⟨runS.modSv (fun v => { v with roleB := .fenced, stby := .none }), .a, 1, 0x80000, false, svRecord 8 1 (domIx .a) 1 0x80000 (((runS.modSv (fun v =>
     { v with roleB := .fenced, stby := .none })).inc .SV_ECC_UNCORR).modSv (fun v => { v with eccUncorr := v.eccUncorr + 1 })), by decide +kernel,
     by decide +kernel, by decide +kernel, rfl⟩,
   ⟨runS, .b, 1, 0x80000, false, svRecord 8 0 (domIx .b) 1 0x80000 (((runS).inc .SV_ECC_UNCORR).modSv (fun v =>
     { v with eccUncorr := v.eccUncorr + 1 })), by decide +kernel, by decide +kernel, rfl⟩,
   ⟨(runS).modTu (fun t => { t with edges := 3000000000 }), by decide +kernel, by decide +kernel⟩,
   ⟨(runS).modTu (fun t => { t with edges := 3000000000 }), by decide +kernel, by decide +kernel, by decide +kernel⟩,
   ⟨((runS).modTu (fun t => { t with edges := 3000000000 })).modSv (fun v => { v with spare := false }), .b, by decide +kernel, by decide +kernel,
     by decide +kernel, by decide +kernel⟩,
   ⟨runS, by decide +kernel⟩,
   ⟨(runS).modTu (fun t => { t with edges := 3000000000 }), by decide +kernel, by decide +kernel⟩,
   ⟨(runS).modTu (fun t => { t with edges := 3000000000 }), .b, by decide +kernel, by decide +kernel, by decide +kernel⟩,
   ⟨runS, by decide +kernel⟩,
   ⟨(runS).modTu (fun t => { t with edges := 3000000000 }), by decide +kernel, by decide +kernel⟩,
   ⟨(runS).modTu (fun t => { t with edges := 3000000000 }), .b, by decide +kernel, by decide +kernel, by decide +kernel⟩,
   ⟨runS, by decide +kernel⟩,
   ⟨(runS.put .SV_BURGEE_PERIOD 5).modTu (fun t => { t with edges := 3000000000 }), by decide +kernel, by decide +kernel, by decide +kernel,
     by decide +kernel, by decide +kernel, by decide +kernel⟩,
   ⟨runS, by decide +kernel⟩,
   ⟨(runS.set1 .MOD_WDOG_EXPIRED).set1 .MOD_WDOG_EN, .s0, wdogDl (some (clk runS + wdogTicks (runS.set1 .MOD_WDOG_EN))) ((runS.set1
     .MOD_WDOG_EXPIRED).set1 .MOD_WDOG_EN), by decide +kernel, by decide +kernel, rfl⟩,
   ⟨runS, .s0, runS, by decide +kernel, by decide +kernel, rfl⟩,
   ⟨{}, .s0, by decide +kernel⟩,
   ⟨runS.modSv (fun v => { v with wdogDl := some 0 }), 0, by decide +kernel, by decide +kernel, by decide +kernel⟩,
   ⟨runS.modSv (fun v => { v with wdogDl := some 5 }), 5, by decide +kernel, by decide +kernel⟩,
   ⟨runS, by decide +kernel⟩⟩

theorem witness_PermitsAndTiles :
    (∃ (s : State) (r : Req), Admitted s r Reg.SV_CMD Msk.SV_CMD ∧ permitAnswer s actSwitch = prGranted) ∧
    (∃ (s : State) (r : Req), Admitted s r Reg.SV_CMD Msk.SV_CMD ∧ permitAnswer s actSwitch ≠ prGranted) ∧
    (∃ (s : State) (r : Req), Admitted s r Reg.SV_CMD Msk.SV_CMD ∧ permitAnswer s actDom = prGranted ∧ hasStandby s = true) ∧
    (∃ (s : State) (r : Req), Admitted s r Reg.SV_CMD Msk.SV_CMD ∧ permitAnswer s actDom ≠ prGranted) ∧
    (∃ (s : State) (d : Dom), standbyDom s = some d ∧ s.sv.stby = .testing ∧ s.sv.domAt + 2 * tickS ≤ clk s) ∧
    (∃ (s : State) (d : Dom), standbyDom s = some d ∧ s.sv.stby = .testing) ∧
    (∃ (s : State), s.sv.stby = .testing ∧ clk s < s.sv.domAt + 2 * tickS) ∧
    (∃ (s : State), (standbyDom s = none ∨ s.sv.stby ≠ .testing)) ∧
    (∃ (s : State) (r : Req) (x : Fin 16), Admitted s r Reg.SV_CMD Msk.SV_CMD ∧ feedAnswer s x = prGranted) ∧
    (∃ (s : State) (r : Req) (x : Fin 16), Admitted s r Reg.SV_CMD Msk.SV_CMD ∧ feedAnswer s x ≠ prGranted) ∧
    (∃ (s : State) (r : Req) (x : Fin 16), Admitted s r Reg.SV_CMD Msk.SV_CMD ∧ (s.is (.TILE_FEED_A_OK x) = false ∨ s.is (.TILE_FEED_B_OK x) = false)) ∧
    (∃ (s : State) (x : Nat), s.get .SV_CFG_FT_PER ≠ 0 ∧ s.sv.anyActive = true ∧ s.sv.ftAt ≤ clk s ∧ nextFeedTile s = some x ∧ feedAnswer s x = prGranted) ∧
    (∃ (s : State) (x : Nat), s.get .SV_CFG_FT_PER ≠ 0 ∧ s.sv.anyActive = true ∧ s.sv.ftAt ≤ clk s ∧ nextFeedTile s = some x ∧ feedAnswer s x ≠ prGranted) ∧
    (∃ (s : State), s.get .SV_CFG_FT_PER ≠ 0 ∧ s.sv.anyActive = true ∧ s.sv.ftAt ≤ clk s ∧ nextFeedTile s = none) ∧
    (∃ (s : State), (s.get .SV_CFG_FT_PER = 0 ∨ s.sv.anyActive = false ∨ clk s < s.sv.ftAt)) ∧
    (∃ (s : State) (x : Nat), s.sv.feedTile = some x ∧ s.sv.feedAt + tick10Ms ≤ clk s) ∧
    (∃ (s : State) (x : Nat), s.sv.feedTile = some x ∧ x < 16) ∧
    (∃ (s : State), s.sv.feedTile ≠ none ∧ clk s < s.sv.feedAt + tick10Ms) ∧
    (∃ (s : State), s.sv.feedTile = none) ∧
    (∃ (s : State) (r : Req), Admitted s r Reg.SV_CMD Msk.SV_CMD ∧ permitAnswer s actLink = prGranted ∧ standbyDom s = some .a) ∧
    (∃ (s : State) (r : Req), Admitted s r Reg.SV_CMD Msk.SV_CMD ∧ permitAnswer s actLink = prGranted ∧ standbyDom s = some .b) ∧
    (∃ (s : State) (r : Req), Admitted s r Reg.SV_CMD Msk.SV_CMD ∧ permitAnswer s actLink ≠ prGranted) ∧
    (∃ (s : State) (r : Req), Admitted s r Reg.SV_CMD Msk.SV_CMD) ∧
    (∃ (s : State) (r : Req), Admitted s r Reg.SV_CMD Msk.SV_CMD ∧ permitHeld s actNvm = true) ∧
    (∃ (s : State) (r : Req), Admitted s r Reg.SV_CMD Msk.SV_CMD ∧ permitHeld s actNvm = false) ∧
    (∃ (s : State) (x : Fin 16) (b : Bool) (ok : Bool), s.is (if b then .TILE_FEED_B_OK x else .TILE_FEED_A_OK x) = ok) ∧
    (∃ (s : State) (x : Fin 16) (b : Bool) (ok : Bool), s.is (if b then .TILE_FEED_B_OK x else .TILE_FEED_A_OK x) = !ok ∧ ((s.tile x).power = true ∨ ok =
      false) ∧ s.sv.anyActive = true ∧ s.pw.power ≠ 4) ∧
    (∃ (s : State) (x : Fin 16) (b : Bool) (ok : Bool), s.is (if b then .TILE_FEED_B_OK x else .TILE_FEED_A_OK x) = !ok ∧ ((s.tile x).power = true ∨ ok =
      false) ∧ (s.sv.anyActive = false ∨ s.pw.power = 4)) ∧
    (∃ (s : State) (x : Fin 16) (b : Bool), s.is (if b then .TILE_FEED_B_OK x else .TILE_FEED_A_OK x) = false ∧ (s.tile x).power = false ∧ s.sv.anyActive
      = true ∧ s.pw.power ≠ 4) ∧
    (∃ (s : State) (x : Fin 16) (b : Bool), s.is (if b then .TILE_FEED_B_OK x else .TILE_FEED_A_OK x) = false ∧ (s.tile x).power = false ∧ (s.sv.anyActive
      = false ∨ s.pw.power = 4)) ∧
    (∃ (s : State) (x : Fin 16) (b : Bool), s.is (if b then .TILE_FEED_B_OK x else .TILE_FEED_A_OK x) = false ∧ (s.tile x).power = false ∧ s.pw.on = true
      ∧ s.pw.power ≠ 4) ∧
    (∃ (s : State) (x : Fin 16), (s.tile x).power = false) ∧
    (∃ (s : State) (x : Fin 16), (s.tile x).power = true ∧ (s.tile x).sweep = false) ∧
    (∃ (s : State) (x : Fin 16), (s.tile x).power = true ∧ (s.tile x).sweep = true) ∧
    (∃ (s : State) (x : Fin 16), (s.tile x).power = true ∧ (s.tile x).sweep = false) ∧
    (∃ (s : State) (x : Fin 16) (d : Dom), linkUp s x d = true ∧ standbyDom s ≠ some d) ∧
    (∃ (s : State) (x : Fin 16) (d : Dom), linkUp s x d = true ∧ standbyDom s = some d ∧ hasStandby s = true) ∧
    (∃ (s : State) (x : Fin 16) (d : Dom), linkUp s x d = false) ∧
    (∃ (s : State) (x : Fin 16) (d : Dom), linkUp s x d = true) ∧
    (∃ (s : State) (x : Fin 16) (d : Dom), linkUp s x d = false ∧ (s.tile x).power = false ∧ s.pw.power = 0) ∧
    (∃ (s : State) (x : Fin 16) (d : Dom), linkUp s x d = false ∧ (s.tile x).power = false ∧ s.pw.power ≠ 0) ∧
    (∃ (s : State) (x : Fin 16) (d : Dom), linkUp s x d = false ∧ (s.tile x).power = true ∧ standbyDom s = some d ∧ s.sv.trainTile = some x.val ∧
      permitHeld s actLink = true) ∧
    (∃ (s : State) (x : Fin 16) (d : Dom), linkUp s x d = false ∧ (s.tile x).power = true ∧ (¬ (standbyDom s = some d ∧ s.sv.trainTile = some x.val ∧
      permitHeld s actLink = true)) ∧ s.pw.power ≠ 0) ∧
    (∃ (s : State) (x : Fin 16) (d : Dom), linkUp s x d = false ∧ (s.tile x).power = true ∧ (¬ (standbyDom s = some d ∧ s.sv.trainTile = some x.val ∧
      permitHeld s actLink = true)) ∧ s.pw.power = 0) ∧
    (∃ (s : State) (x : Fin 16) (d : Dom), linkUp s x d = false ∧ (s.tile x).power = true ∧ (¬ (standbyDom s = some d ∧ s.sv.trainTile = some x.val ∧
      permitHeld s actLink = true)) ∧ s.pw.power = 0 ∧ s.get .BT_STAT_STATE = 0) ∧
    (∃ (s : State) (x : Fin 16) (d : Dom), (s.tile x).power = true ∧ (s.tile x).clk = some d) ∧
    (∃ (s : State) (x : Fin 16), ((s.tile x).power = false ∨ (s.tile x).clk = none)) :=
  ⟨⟨runS, .s0, ⟨by decide +kernel, by decide +kernel, by decide +kernel⟩, by decide +kernel⟩,
   ⟨runS.put .SV_PERMIT_HELD 2, .s0, ⟨by decide +kernel, by decide +kernel, by decide +kernel⟩, by decide +kernel⟩,
   ⟨runS, .s0, ⟨by decide +kernel, by decide +kernel, by decide +kernel⟩, by decide +kernel, by decide +kernel⟩,
   ⟨runS.put .SV_PERMIT_HELD 1, .s0, ⟨by decide +kernel, by decide +kernel, by decide +kernel⟩, by decide +kernel⟩,
   ⟨((runS).modSv (fun v => { v with stby := .testing })).modTu (fun t => { t with edges := 200000000 }), .b, by decide +kernel, by decide +kernel,
     by decide +kernel⟩,
   ⟨(runS).modSv (fun v => { v with stby := .testing }), .b, by decide +kernel, by decide +kernel⟩,
   ⟨(runS).modSv (fun v => { v with stby := .testing }), by decide +kernel, by decide +kernel⟩,
   ⟨runS, by decide +kernel⟩,
   ⟨(runS.set1 (.TILE_FEED_A_OK 3)).set1 (.TILE_FEED_B_OK 3), .s0, 3, ⟨by decide +kernel, by decide +kernel, by decide +kernel⟩, by decide +kernel⟩,
   ⟨runS, .s0, 3, ⟨by decide +kernel, by decide +kernel, by decide +kernel⟩, by decide +kernel⟩,
   ⟨runS, .s0, 3, ⟨by decide +kernel, by decide +kernel, by decide +kernel⟩, by decide +kernel⟩,
   ⟨(((runS.set1 (.TILE_FEED_A_OK 3)).set1 (.TILE_FEED_B_OK 3)).put .SV_CFG_FT_PER 6).modSv (fun v => { v with ftAt := 0 }), 3, by decide +kernel,
     by decide +kernel, by decide +kernel, by decide +kernel, by decide +kernel⟩,
   ⟨((((runS.set1 (.TILE_FEED_A_OK 3)).set1 (.TILE_FEED_B_OK 3)).put .SV_PERMIT_HELD 4).put .SV_CFG_FT_PER 6).modSv (fun v => { v with ftAt := 0 }), 3,
     by decide +kernel, by decide +kernel, by decide +kernel, by decide +kernel, by decide +kernel⟩,
   ⟨((runS).put .SV_CFG_FT_PER 6).modSv (fun v => { v with ftAt := 0 }), by decide +kernel, by decide +kernel, by decide +kernel, by decide +kernel⟩,
   ⟨runS.put .SV_CFG_FT_PER 0, by decide +kernel⟩,
   ⟨((runS).modSv (fun v => { v with feedTile := some 3 })).modTu (fun t => { t with edges := 98304000 }), 3, by decide +kernel, by decide +kernel⟩,
   ⟨((runS).modSv (fun v => { v with feedTile := some 3 })).set1 (.TILE_FEED_B_OK 3), 3, by decide +kernel, by decide +kernel⟩,
   ⟨(runS).modSv (fun v => { v with feedTile := some 3 }), by decide +kernel, by decide +kernel⟩,
   ⟨runS, by decide +kernel⟩,
   ⟨(runS).modSv (fun v => { v with roleA := .standby, roleB := .active }), .s0, ⟨by decide +kernel, by decide +kernel, by decide +kernel⟩,
     by decide +kernel, by decide +kernel⟩,
   ⟨runS, .s0, ⟨by decide +kernel, by decide +kernel, by decide +kernel⟩, by decide +kernel, by decide +kernel⟩,
   ⟨runS.put .SV_PERMIT_HELD 8, .s0, ⟨by decide +kernel, by decide +kernel, by decide +kernel⟩, by decide +kernel⟩,
   ⟨runS, .s0, ⟨by decide +kernel, by decide +kernel, by decide +kernel⟩⟩,
   ⟨runS.put .SV_PERMIT_HELD 0x20, .s0, ⟨by decide +kernel, by decide +kernel, by decide +kernel⟩, by decide +kernel⟩,
   ⟨runS, .s0, ⟨by decide +kernel, by decide +kernel, by decide +kernel⟩, by decide +kernel⟩,
   ⟨runS, 3, true, false, by decide +kernel⟩,
   ⟨runS.set1 (.TILE_FEED_B_OK 3), 3, true, false, by decide +kernel, by decide +kernel, by decide +kernel, by decide +kernel⟩,
   ⟨({ pw := { on := true } } : State).set1 (.TILE_FEED_B_OK 3), 3, true, false, by decide +kernel, by decide +kernel, by decide +kernel⟩,
   ⟨{ runS with tiles := [] }, 3, true, by decide +kernel, by decide +kernel, by decide +kernel, by decide +kernel⟩,
   ⟨{ pw := { on := true } }, 3, true, by decide +kernel, by decide +kernel, by decide +kernel⟩,
   ⟨{ runS with tiles := [] }, 3, true, by decide +kernel, by decide +kernel, by decide +kernel, by decide +kernel⟩,
   ⟨{}, 3, by decide +kernel⟩,
   ⟨runS, 3, by decide +kernel, by decide +kernel⟩,
   ⟨(runS.modTile 3 (fun y => { y with sweep := true })).modCa (fun c => { c with swStep := some 2, swTiles := 8 }), 3, by decide +kernel,
     by decide +kernel⟩,
   ⟨runS, 3, by decide +kernel, by decide +kernel⟩,
   ⟨runS.set1 (.TILE_FEED_LINK_A 3), 3, .a, by decide +kernel, by decide +kernel⟩,
   ⟨runS.set1 (.TILE_FEED_LINK_B 3), 3, .b, by decide +kernel, by decide +kernel, by decide +kernel⟩,
   ⟨runS, 3, .a, by decide +kernel⟩,
   ⟨runS.set1 (.TILE_FEED_LINK_A 3), 3, .a, by decide +kernel⟩,
   ⟨{}, 3, .a, by decide +kernel, by decide +kernel, by decide +kernel⟩,
   ⟨{ runS with tiles := [] }, 3, .a, by decide +kernel, by decide +kernel, by decide +kernel⟩,
   ⟨((runS).modSv (fun v => { v with trainTile := some 3 })).put .SV_PERMIT_HELD 0x10, 3, .b, by decide +kernel, by decide +kernel, by decide +kernel,
     by decide +kernel, by decide +kernel⟩,
   ⟨runS, 3, .a, by decide +kernel, by decide +kernel, by decide +kernel, by decide +kernel⟩,
   ⟨(runS).modPw (fun w => { w with power := 0 }), 3, .a, by decide +kernel, by decide +kernel, by decide +kernel, by decide +kernel⟩,
   ⟨((runS).modPw (fun w => { w with power := 0 })).put .BT_STAT_STATE 0, 3, .a, by decide +kernel, by decide +kernel, by decide +kernel,
     by decide +kernel, by decide +kernel⟩,
   ⟨runS.modTile 3 (fun y => { y with clk := some .a }), 3, .a, by decide +kernel, by decide +kernel⟩,
   ⟨runS, 3, by decide +kernel⟩⟩

theorem witness_PowerStates :
    (∃ (s : State) (r : Req) (q : Fin 5), powerAsk s r q = false ∧ q ≠ 0 ∧ served s r Reg.MOD_POWER = false) ∧
    (∃ (s : State) (r : Req) (q : Fin 5), powerAsk s r q = true ∧ (s.pw.power = 0 ∨ s.pw.power = 5 ∨ s.pw.power = 6)) ∧
    (∃ (s : State) (r : Req) (q : Fin 5), powerAsk s r q = true ∧ 1 ≤ s.pw.power ∧ s.pw.power ≤ 4 ∧ roleChanging s = true) ∧
    (∃ (s : State) (r : Req) (q : Fin 5), powerAsk s r q = true ∧ powerNow s = true ∧ s.pw.power = q.val) ∧
    (∃ (s : State) (r : Req), powerAsk s r 3 = true ∧ powerNow s = true ∧ s.pw.power ≠ 3 ∧ busyPermit s = false) ∧
    (∃ (s : State) (r : Req), powerAsk s r 3 = true ∧ powerNow s = true ∧ s.pw.power ≠ 3 ∧ busyPermit s = true) ∧
    (∃ (s : State) (r : Req), powerAsk s r 4 = true ∧ powerNow s = true ∧ s.pw.power ≠ 4 ∧ busyPermit s = false ∧ (s.get .MOD_POWER_ENTRY_WAIT ≠ 0 ∨ quiet
      s = true)) ∧
    (∃ (s : State) (r : Req), powerAsk s r 4 = true ∧ powerNow s = true ∧ s.pw.power ≠ 4 ∧ (busyPermit s = true ∨ (s.get .MOD_POWER_ENTRY_WAIT = 0 ∧ quiet
      s = false))) ∧
    (∃ (s : State) (r : Req), powerAsk s r 1 = true ∧ powerNow s = true ∧ s.pw.power ≠ 1 ∧ s.pw.power ≠ 3 ∧ caRuns s = false) ∧
    (∃ (s : State) (r : Req), powerAsk s r 1 = true ∧ powerNow s = true ∧ s.pw.power ≠ 1 ∧ s.pw.power ≠ 3 ∧ caRuns s = true) ∧
    (∃ (s : State) (r : Req), powerAsk s r 1 = true ∧ powerNow s = true ∧ s.pw.power ≠ 1 ∧ s.pw.power = 3) ∧
    (∃ (s : State) (r : Req), powerAsk s r 2 = true ∧ powerNow s = true ∧ s.pw.power ≠ 2 ∧ s.pw.power ≠ 3 ∧ caRuns s = false) ∧
    (∃ (s : State) (r : Req), powerAsk s r 2 = true ∧ powerNow s = true ∧ s.pw.power ≠ 2 ∧ s.pw.power ≠ 3 ∧ caRuns s = true) ∧
    (∃ (s : State) (r : Req), powerAsk s r 2 = true ∧ powerNow s = true ∧ s.pw.power ≠ 2 ∧ s.pw.power = 3) ∧
    (∃ (s : State) (q : Nat), switchDue s = some q ∧ acqRuns s = true ∧ now s % 64 = 0) ∧
    (∃ (s : State) (q : Nat), switchDue s = some q ∧ acqRuns s = true ∧ now s % 64 = 0) ∧
    (∃ (s : State), (switchDue s = none ∨ acqRuns s = false ∨ now s % 64 ≠ 0)) ∧
    (∃ (s : State) (d : Dom), s.pw.sleepReq = true ∧ quiet s = true ∧ roleChanging s = false ∧ activeDom s = some d ∧ roleOf s (otherDom d) = .standby) ∧
    (∃ (s : State), s.pw.sleepReq = true ∧ quiet s = true ∧ roleChanging s = false) ∧
    (∃ (s : State), (s.pw.sleepReq = false ∨ quiet s = false ∨ roleChanging s = true)) ∧
    (∃ (s : State), s.pw.sleepReq = true ∧ quiet s = false ∧ s.pw.sleepAt + s.get .MOD_POWER_ENTRY_WAIT * tickS ≤ clk s) ∧
    (∃ (s : State), (s.pw.sleepReq = false ∨ quiet s = true ∨ clk s < s.pw.sleepAt + s.get .MOD_POWER_ENTRY_WAIT * tickS)) ∧
    (∃ (s : State), s.pw.woken = true ∧ s.get .MOD_POWER_IDLE_SLEEP ≠ 0 ∧ 1 ≤ s.pw.power ∧ s.pw.power ≤ 3 ∧ quiet s = true ∧ roleChanging s = false ∧
      s.pw.quietAt + s.get .MOD_POWER_IDLE_SLEEP * tickS ≤ clk s) ∧
    (∃ (s : State), s.pw.woken = true ∧ s.get .MOD_POWER_IDLE_SLEEP ≠ 0 ∧ 1 ≤ s.pw.power ∧ s.pw.power ≤ 3 ∧ quiet s = true ∧ roleChanging s = false ∧
      s.pw.quietAt + s.get .MOD_POWER_IDLE_SLEEP * tickS ≤ clk s) ∧
    (∃ (s : State), (s.pw.woken = false ∨ s.get .MOD_POWER_IDLE_SLEEP = 0 ∨ s.pw.power = 0 ∨ 3 < s.pw.power ∨ quiet s = false ∨ roleChanging s = true ∨
      clk s < s.pw.quietAt + s.get .MOD_POWER_IDLE_SLEEP * tickS)) ∧
    (∃ (s : State) (b : Bool), s.is .MOD_POWER_WAKE_EN = true ∧ s.is .MOD_POWER_WAKE_POL = !b) ∧
    (∃ (s : State) (b : Bool), s.is .MOD_POWER_WAKE_EN = true ∧ s.is .MOD_POWER_WAKE_POL = !b ∧ s.pw.power = 4 ∧ s.pw.wake = none) ∧
    (∃ (s : State) (b : Bool), s.is .MOD_POWER_WAKE_EN = true ∧ s.is .MOD_POWER_WAKE_POL = !b ∧ s.pw.power = 3) ∧
    (∃ (s : State) (b : Bool), s.is .MOD_POWER_WAKE_EN = true ∧ s.is .MOD_POWER_WAKE_POL = !b ∧ s.pw.power ≠ 3 ∧ (s.pw.power ≠ 4 ∨ s.pw.wake ≠ none)) ∧
    (∃ (s : State) (b : Bool), (s.is .MOD_POWER_WAKE_EN = false ∨ s.is .MOD_POWER_WAKE_POL = b)) ∧
    (∃ (s : State) (k : Nat) (x : Nat), s.pw.power = 4 ∧ s.pw.wake = some (k, x)) ∧
    (∃ (s : State), (s.pw.power ≠ 4 ∨ s.pw.wake = none)) ∧
    (∃ (s : State), s.pw.power = 5) ∧
    (∃ (s : State), s.pw.power ≠ 5) :=
  ⟨⟨{}, .s0, 2, by decide +kernel, by decide +kernel, by decide +kernel⟩,
   ⟨(runS).modPw (fun w => { w with power := 5 }), .s0, 1, by decide +kernel, by decide +kernel⟩,
   ⟨runS.set1 .SV_STAT_SWITCHING, .s0, 2, by decide +kernel, by decide +kernel, by decide +kernel, by decide +kernel⟩,
   ⟨runS, .s0, 1, by decide +kernel, by decide +kernel, by decide +kernel⟩,
   ⟨{ runS with tiles := [] }, .s0, by decide +kernel, by decide +kernel, by decide +kernel, by decide +kernel⟩,
   ⟨runS.put .SV_PERMIT_HELD 4, .s0, by decide +kernel, by decide +kernel, by decide +kernel, by decide +kernel⟩,
   ⟨runS.put .MOD_POWER_ENTRY_WAIT 2, .s0, by decide +kernel, by decide +kernel, by decide +kernel, by decide +kernel, by decide +kernel⟩,
   ⟨runS.put .SV_PERMIT_HELD 4, .s0, by decide +kernel, by decide +kernel, by decide +kernel, by decide +kernel⟩,
   ⟨(runS).modPw (fun w => { w with power := 2 }), .s0, by decide +kernel, by decide +kernel, by decide +kernel, by decide +kernel, by decide +kernel⟩,
   ⟨((runS).modPw (fun w => { w with power := 2 })).modCa (fun c => { c with swStep := some 2 }), .s0, by decide +kernel, by decide +kernel,
     by decide +kernel, by decide +kernel, by decide +kernel⟩,
   ⟨{ (runS).modPw (fun w => { w with power := 3 }) with tiles := [] }, .s0, by decide +kernel, by decide +kernel, by decide +kernel, by decide +kernel⟩,
   ⟨(runS).modPw (fun w => { w with power := 1 }), .s0, by decide +kernel, by decide +kernel, by decide +kernel, by decide +kernel, by decide +kernel⟩,
   ⟨((runS).modPw (fun w => { w with power := 1 })).modCa (fun c => { c with swStep := some 2 }), .s0, by decide +kernel, by decide +kernel,
     by decide +kernel, by decide +kernel, by decide +kernel⟩,
   ⟨{ (runS).modPw (fun w => { w with power := 3 }) with tiles := [] }, .s0, by decide +kernel, by decide +kernel, by decide +kernel, by decide +kernel⟩,
   ⟨{ (runS).modPw (fun w => { w with edge := some 2 }) with tiles := [] }, 2, by decide +kernel, by decide +kernel, by decide +kernel⟩,
   ⟨{ (runS).modPw (fun w => { w with edge := some 2 }) with tiles := [] }, 2, by decide +kernel, by decide +kernel, by decide +kernel⟩,
   ⟨runS, by decide +kernel⟩,
   ⟨{ (runS).modPw (fun w => { w with sleepReq := true }) with tiles := [] }, .a, by decide +kernel, by decide +kernel, by decide +kernel,
     by decide +kernel, by decide +kernel⟩,
   ⟨{ (runS).modPw (fun w => { w with sleepReq := true }) with tiles := [] }, by decide +kernel, by decide +kernel, by decide +kernel⟩,
   ⟨runS, by decide +kernel⟩,
   ⟨(((runS).modPw (fun w => { w with sleepReq := true })).put .SV_PERMIT_HELD 4).modTu (fun t => { t with edges := 30000000000 }), by decide +kernel,
     by decide +kernel, by decide +kernel⟩,
   ⟨runS, by decide +kernel⟩,
   ⟨(({ (runS).modPw (fun w => { w with woken := true }) with tiles := [] }).put .MOD_POWER_IDLE_SLEEP 2).modTu (fun t =>
     { t with edges := 3000000000 }), by decide +kernel, by decide +kernel, by decide +kernel, by decide +kernel, by decide +kernel, by decide +kernel,
     by decide +kernel⟩,
   ⟨(({ (runS).modPw (fun w => { w with woken := true }) with tiles := [] }).put .MOD_POWER_IDLE_SLEEP 2).modTu (fun t =>
     { t with edges := 3000000000 }), by decide +kernel, by decide +kernel, by decide +kernel, by decide +kernel, by decide +kernel, by decide +kernel,
     by decide +kernel⟩,
   ⟨runS, by decide +kernel⟩,
   ⟨(((runS).modPw (fun w => { w with power := 3 })).put .MOD_POWER_WAKE_EN 1).put .MOD_POWER_WAKE_POL 0, true, by decide +kernel, by decide +kernel⟩,
   ⟨(((runS).modPw (fun w => { w with power := 4 })).put .MOD_POWER_WAKE_EN 1).put .MOD_POWER_WAKE_POL 0, true, by decide +kernel, by decide +kernel,
     by decide +kernel, by decide +kernel⟩,
   ⟨(({ (runS).modPw (fun w => { w with power := 3 }) with tiles := [] }).put .MOD_POWER_WAKE_EN 1).put .MOD_POWER_WAKE_POL 0, true, by decide +kernel,
     by decide +kernel, by decide +kernel⟩,
   ⟨((runS).put .MOD_POWER_WAKE_EN 1).put .MOD_POWER_WAKE_POL 0, true, by decide +kernel, by decide +kernel, by decide +kernel, by decide +kernel⟩,
   ⟨runS, true, by decide +kernel⟩,
   ⟨{ (runS).modPw (fun w => { w with power := 4, wake := some (2, 0) }) with tiles := [] }, 2, 0, by decide +kernel, by decide +kernel⟩,
   ⟨runS, by decide +kernel⟩,
   ⟨{ (runS).modPw (fun w => { w with power := 5 }) with tiles := [] }, by decide +kernel⟩,
   ⟨runS, by decide +kernel⟩⟩

theorem witness_StartsAndResets :
    (∃ (s : State) (a : Bool) (b : Bool), s.pw.on = false ∧ (a || b) = true) ∧
    (∃ (s : State) (a : Bool) (b : Bool), (s.pw.on = true ∨ (a || b) = false)) ∧
    (∃ (s : State) (a : Bool) (b : Bool), s.pw.on = true ∧ (s.get .MOD_START_STEP = 1 ∨ bothFailed s = true) ∧ (a || b) = true) ∧
    (∃ (s : State), s.pw.on = true ∧ (s.get .MOD_START_STEP = 1 ∨ bothFailed s = true)) ∧
    (∃ (s : State), (s.pw.on = false ∨ (s.get .MOD_START_STEP ≠ 1 ∧ bothFailed s = false))) ∧
    (∃ (s : State) (land : Bool) (tm : BitVec 16) (x : Nat) (r : BootRep) (b : State) (c : State), s.bt.apply = some x ∧ repHere s (bootDom s) = some r ∧
      s.get .BT_STAT_STATE = 0 ∧ b = rolesStart (showImage x tm.toNat r (unitsStart land ((s.each ((imgRecords r.copy x).getD []) loadRec).each ((imgRecords
      r.copy x).getD []) loadLock))) ∧ c = startStep 4 (b.modBt (fun y => { y with apply := none, repA := none, repB := none }))) ∧
    (∃ (s : State) (x : Nat) (r : BootRep), s.bt.apply = some x ∧ repHere s (bootDom s) = some r ∧ s.get .BT_STAT_STATE = 0) ∧
    (∃ (s : State), (s.bt.apply = none ∨ repHere s (bootDom s) = none ∨ s.get .BT_STAT_STATE ≠ 0)) ∧
    (∃ (s : State) (x : Fin 16), (s.tile x).power = false) ∧
    (∃ (s : State) (x : Fin 16) (d : Dom), (s.tile x).power = true ∧ (activeDom s ≠ some d ∨ s.get .BT_STAT_STATE ≠ 1)) ∧
    (∃ (s : State) (x : Fin 16) (d : Dom), (s.tile x).power = true ∧ activeDom s = some d ∧ s.get .BT_STAT_STATE = 1 ∧ s.pw.power ≠ 0) ∧
    (∃ (s : State) (x : Fin 16) (d : Dom), (s.tile x).power = true ∧ activeDom s = some d ∧ s.get .BT_STAT_STATE = 1 ∧ s.pw.power = 0 ∧ s.sv.anyActive =
      true ∧ (List.range 16).all (fun y => y == x.val || linkSeen s y) = true) ∧
    (∃ (s : State), s.pw.on = true) ∧
    (∃ (s : State), s.pw.on = true ∧ (s.sv.feedA || s.sv.feedB) = true) ∧
    (∃ (s : State), s.pw.on = false) ∧
    (∃ (s : State) (r : Req), Admitted s r Reg.MOD_RESET Msk.MOD_RESET ∧ s.pw.on = true) ∧
    (∃ (s : State) (r : Req), Admitted s r Reg.MOD_RESET Msk.MOD_RESET ∧ s.pw.on = true ∧ (s.sv.feedA || s.sv.feedB) = true) ∧
    (∃ (s : State) (r : Req), Admitted s r Reg.MOD_RESET Msk.MOD_RESET ∧ s.pw.on = false) ∧
    (∃ (s : State) (r : Req) (k : BitVec 16), Admitted s r Reg.MOD_RESET Msk.MOD_RESET ∧ k ≠ 0xA55A) ∧
    (∃ (s : State) (r : Req), Admitted s r Reg.MOD_RESET Msk.MOD_RESET ∧ s.pw.on = true) ∧
    (∃ (s : State) (r : Req), Admitted s r Reg.MOD_RESET Msk.MOD_RESET ∧ s.pw.on = true ∧ s.sp1.run = [] ∧ s.sv.stby = .none) ∧
    (∃ (s : State) (r : Req), Admitted s r Reg.MOD_RESET Msk.MOD_RESET ∧ s.pw.on = false) ∧
    (∃ (s : State) (r : Req) (k : BitVec 16), Admitted s r Reg.MOD_RESET Msk.MOD_RESET ∧ k ≠ 0xA55A) ∧
    (∃ (s : State) (r : Req) (x : Fin 16), Admitted s r (Reg.TILE_RST x) Msk.TILE_RST ∧ (s.tile x).power = true) ∧
    (∃ (s : State) (r : Req) (x : Fin 16), Admitted s r (Reg.TILE_RST x) Msk.TILE_RST ∧ (s.tile x).power = true ∧ (s.tile x).sweep = false) ∧
    (∃ (s : State) (r : Req) (x : Fin 16) (k : BitVec 16), Admitted s r (Reg.TILE_RST x) Msk.TILE_RST ∧ (k ≠ 0xA55A ∨ (s.tile x).power = false)) :=
  ⟨⟨{}, true, false, by decide +kernel, by decide +kernel⟩,
   ⟨runS, true, false, by decide +kernel⟩,
   ⟨({ pw := { on := true } } : State).put .MOD_START_STEP 1, true, false, by decide +kernel, by decide +kernel, by decide +kernel⟩,
   ⟨({ pw := { on := true } } : State).put .MOD_START_STEP 1, by decide +kernel, by decide +kernel⟩,
   ⟨runS, by decide +kernel⟩,
   ⟨bootS, false, 7, 0, bootR, rolesStart (showImage 0 (7 : BitVec 16).toNat bootR (unitsStart false (((bootS).each ((imgRecords (bootR).copy 0).getD [])
     loadRec).each ((imgRecords (bootR).copy 0).getD []) loadLock))), startStep 4 ((rolesStart (showImage 0 (7 : BitVec 16).toNat bootR (unitsStart false
     (((bootS).each ((imgRecords (bootR).copy 0).getD []) loadRec).each ((imgRecords (bootR).copy 0).getD []) loadLock)))).modBt (fun y =>
     { y with apply := none, repA := none, repB := none })), by decide +kernel, by decide +kernel, by decide +kernel, rfl, rfl⟩,
   ⟨bootS, 0, bootR, by decide +kernel, by decide +kernel, by decide +kernel⟩,
   ⟨runS, by decide +kernel⟩,
   ⟨{}, 3, by decide +kernel⟩,
   ⟨runS, 3, .b, by decide +kernel, by decide +kernel⟩,
   ⟨{ runS.set1 (.TILE_SAFE_IMAGE 3) with tiles := [(3, { power := true, woke := true })], pw := { on := true, power := 5 } }, 3, .a, by decide +kernel,
     by decide +kernel, by decide +kernel, by decide +kernel⟩,
   ⟨{ runS.set1 (.TILE_SAFE_IMAGE 3) with tiles := [(3, { power := true })], pw := { on := true } }, 3, .a, by decide +kernel, by decide +kernel,
     by decide +kernel, by decide +kernel, by decide +kernel, by decide +kernel⟩,
   ⟨{ runS with tiles := [] }, by decide +kernel⟩,
   ⟨{ runS with tiles := [] }, by decide +kernel, by decide +kernel⟩,
   ⟨{}, by decide +kernel⟩,
   ⟨{ runS with tiles := [] }, .s0, ⟨by decide +kernel, by decide +kernel, by decide +kernel⟩, by decide +kernel⟩,
   ⟨{ runS with tiles := [] }, .s0, ⟨by decide +kernel, by decide +kernel, by decide +kernel⟩, by decide +kernel, by decide +kernel⟩,
   ⟨(runS).modPw (fun w => { w with on := false }), .ring, ⟨by decide +kernel, by decide +kernel, by decide +kernel⟩, by decide +kernel⟩,
   ⟨runS, .s0, 0x1234, ⟨by decide +kernel, by decide +kernel, by decide +kernel⟩, by decide +kernel⟩,
   ⟨{ runS with tiles := [] }, .s0, ⟨by decide +kernel, by decide +kernel, by decide +kernel⟩, by decide +kernel⟩,
   ⟨{ (runS).modSv (fun v => { v with stby := .none }) with tiles := [] }, .s0, ⟨by decide +kernel, by decide +kernel, by decide +kernel⟩,
     by decide +kernel, by decide +kernel, by decide +kernel⟩,
   ⟨(runS).modPw (fun w => { w with on := false }), .ring, ⟨by decide +kernel, by decide +kernel, by decide +kernel⟩, by decide +kernel⟩,
   ⟨runS, .s0, 0x1234, ⟨by decide +kernel, by decide +kernel, by decide +kernel⟩, by decide +kernel⟩,
   ⟨runS, .s0, 3, ⟨by decide +kernel, by decide +kernel, by decide +kernel⟩, by decide +kernel⟩,
   ⟨runS, .s0, 3, ⟨by decide +kernel, by decide +kernel, by decide +kernel⟩, by decide +kernel, by decide +kernel⟩,
   ⟨runS, .s0, 3, 0x1234, ⟨by decide +kernel, by decide +kernel, by decide +kernel⟩, by decide +kernel⟩⟩

end Sys2Proof.Tests
end

section
/-! PROOFS. Wide values (R22 to R25, R29): what a read and a write of one of their words does, and the statements of chapter 01. -/

namespace Sys2Proof.Machine

section WideReads

variable {r : Req} {a b n : Nat} {s : State}

/-- The lowest word of a wide value is the one at its lowest address. -/
theorem wideLow_of_wideOf (h : wideOf a = some (b, n)) : wideLow a = (a == b) := by simp [wideLow, h]

/-- A read of the lowest word latches every word of the value (R22). -/
theorem busRead_lowest (h : wideOf b = some (b, n)) (hn : 0 < n) :
    busRead r b s = (liveWord s r b, noteRead r b { s with
      rsh := kset ⟨0, []⟩ s.rsh (reqIx r) ⟨b, (List.range n).map (fun i => liveWord s r (b + 4 * i))⟩ }) := by
  simp [busRead, h, hn]

/-- A read of a higher word that the requester has latched (R24). -/
theorem busRead_latched (h : wideOf a = some (b, n)) (ha : a ≠ b) (hx : (kget ⟨0, []⟩ s.rsh (reqIx r)).addr = b) :
    busRead r a s = ((kget ⟨0, []⟩ s.rsh (reqIx r)).words.getD ((a - b) / 4) 0, s) := by
  simp [busRead, h, ha, hx]

/-- A read of a higher word that the requester has not latched is live and counts a miss (R24). -/
theorem busRead_missed (h : wideOf a = some (b, n)) (ha : a ≠ b) (hx : (kget ⟨0, []⟩ s.rsh (reqIx r)).addr ≠ b) :
    busRead r a s = (liveWord s r a, noteRead r a (s.inc .MOD_XREAD_MISS_CNT)) := by
  simp [busRead, h, ha, hx]

/-- Noting a latency changes `MOD_XREAD` and the count of free values only. -/
theorem noteRead_eq (r : Req) (a : Nat) (s : State) :
    noteRead r a s = { s with regs := (noteRead r a s).regs, free := (noteRead r a s).free } := by
  unfold noteRead
  split <;> rfl

theorem rd_noteRead_ne (h : b ≠ Reg.MOD_XREAD) : rd (noteRead r a s) b = rd s b := by
  unfold noteRead
  split
  · exact rd_put_ne _ _ _ _ h
  · rfl

/-- A read that crosses islands enters its latency, a free value of 1 to 40, in the largest latency so far (R21, R29). -/
theorem get_noteRead_maxLat (hc : crossesIsland r a = true) (ha : a ≠ Reg.MOD_XREAD) :
    (noteRead r a s).get .MOD_XREAD_MAX_LAT = max (s.get .MOD_XREAD_MAX_LAT) ((freeNow s).toNat % 40 + 1) := by
  have hf : max (s.get .MOD_XREAD_MAX_LAT) ((freeNow s).toNat % 40 + 1) < 2 ^ (7 + 1 - 0) := by
    have := get_lt s .MOD_XREAD_MAX_LAT
    simp only [FldRef.MOD_XREAD_MAX_LAT] at this ⊢
    omega
  rw [noteRead, if_pos ⟨hc, ha⟩, get_congr (State.useFree_regs _), get_put _ _ _ (by decide) (by decide), Nat.mod_eq_of_lt hf]

/-- The latency that a crossing read enters is 1 to 40, and the largest one never falls. -/
theorem get_noteRead_maxLat_bounds (hc : crossesIsland r a = true) (ha : a ≠ Reg.MOD_XREAD) :
    max 1 (s.get .MOD_XREAD_MAX_LAT) ≤ (noteRead r a s).get .MOD_XREAD_MAX_LAT ∧
      (noteRead r a s).get .MOD_XREAD_MAX_LAT ≤ max 40 (s.get .MOD_XREAD_MAX_LAT) := by
  rw [get_noteRead_maxLat hc ha]
  omega

/-- `MOD_XREAD` is no wide value. -/
theorem ne_modXread_of_wideOf (h : wideOf a = some (b, n)) : a ≠ Reg.MOD_XREAD := by
  intro e
  have hx : wideOf Reg.MOD_XREAD = none := rfl
  rw [e, hx] at h
  cases h

/-- WIDE_READ_LOW where it is served: a read of the lowest word. -/
theorem exec_wideReadLow {a : Word} (h4 : a.toNat % 4 = 0) (h : wideOf a.toNat = some (a.toNat, n)) (hs : readServed s r = true) :
    exec (.wideReadLow r a) s = .next (readTo r a.toNat s) := by
  simp [exec, execWideReadLow, h4, wideLow_of_wideOf h, hs]

theorem exec_wideReadLow_skip {a : Word} (h : a.toNat % 4 ≠ 0 ∨ wideLow a.toNat = false ∨ readServed s r = false) :
    exec (.wideReadLow r a) s = .next s := by
  rcases h with h | h | h <;> simp [exec, execWideReadLow, h]

/-- WIDE_READ_HIGH where it is served: a read of a higher word. -/
theorem exec_wideReadHigh {a : Word} (h4 : a.toNat % 4 = 0) (h : wideOf a.toNat = some (b, n)) (hs : readServed s r = true)
    (ha : a.toNat ≠ b) : exec (.wideReadHigh r a) s = .next (readTo r a.toNat s) := by
  simp [exec, execWideReadHigh, h4, h, wideLow_of_wideOf h, hs, ha]

theorem exec_wideReadHigh_skip {a : Word}
    (h : a.toNat % 4 ≠ 0 ∨ wideOf a.toNat = none ∨ wideLow a.toNat = true ∨ readServed s r = false) :
    exec (.wideReadHigh r a) s = .next s := by
  rcases h with h | h | h | h <;> simp [exec, execWideReadHigh, h]

/-- WIDE_READ_LOW as the state it answers: the live word, all words latched, the latency noted. -/
theorem exec_wideReadLow_eq {a : Word} (h4 : a.toNat % 4 = 0) (h : wideOf a.toNat = some (a.toNat, n)) (hs : readServed s r = true)
    (hn : 0 < n) :
    exec (.wideReadLow r a) s = .next { noteRead r a.toNat { s with
      rsh := kset ⟨0, []⟩ s.rsh (reqIx r) ⟨a.toNat, (List.range n).map (fun i => liveWord s r (a.toNat + 4 * i))⟩ } with
        rdata := liveWord s r a.toNat } := by
  rw [exec_wideReadLow h4 h hs, readTo, busRead_lowest h hn]

end WideReads

section WideWrites

variable {r : Req} {a b n : Nat} {w : Word} {s : State}

/-- No wide value lies among the queues and the log, and none above the contexts. -/
theorem wideOf_range (h : wideOf a ≠ none) : a < 0x30000 ∨ 0x40000 ≤ a ∧ a < 0x4A000 := by
  by_contra hc
  have hr : Reg.CSN_ROS_SER 251 0 = 0x8F60 := rfl
  refine h ?_
  unfold wideOf
  rw [hr]
  iterate 15 rw [if_neg (by omega)]

/-- A write at a wide value is judged on the state as it is: only `LOG_QMAP` is brought up to date first. -/
theorem busSync_wide (h : wideOf a ≠ none) : busSync a s = s := by
  have := wideOf_range h
  exact if_neg (by omega)

theorem ne_csnRaCmd_of_wideOf (h : wideOf a ≠ none) : a ≠ Reg.CSN_RA_CMD := by
  rintro rfl
  exact h (by decide)

/-- A write at a wide value is a register write whose effect is the register's own, with no remote access. -/
theorem busWrite_wide (h : wideOf a ≠ none) : busWrite r a w s = regWrite r a (busMask a) w (busFn0 r a) s := by
  have := wideOf_range h
  have hf : busFn r a = busFn0 r a := funext fun w => funext fun s => if_neg (ne_csnRaCmd_of_wideOf h)
  rw [busWrite, if_pos (by omega), busSync_wide h, hf]

theorem busWrite_wide_unserved (h : wideOf a ≠ none) (hs : served s r a = false) : busWrite r a w s = s := by
  rw [busWrite_wide h, regWrite_unserved _ _ _ _ _ _ hs]

/-- An admitted write of a writable wide value: a lower word waits in the shadow, the highest one commits (R25). -/
theorem busWrite_wide_admitted (h : wideOf a = some (b, n)) (hm : (busMask a).rw ||| (busMask a).rwl ||| (busMask a).wo ≠ 0)
    (hs : Admitted s r a (busMask a)) :
    busWrite r a w s = if a + 4 < b + 4 * n then shadowPut r b a w s else wideFn r b n w s := by
  rw [busWrite_wide (by simp [h]), regWrite_admitted _ _ _ _ _ _ hs, busFn0, h]
  exact if_neg hm

theorem exec_wideWriteLower_skip {a : Word}
    (h : a.toNat % 4 ≠ 0 ∨ wideOf a.toNat = none ∨ wideTop a.toNat = true ∨ served s r a.toNat = false) :
    exec (.wideWriteLower r a w) s = .next s := by
  rcases h with h | h | h | h
  case inr.inr.inr =>
    by_cases hw : wideOf a.toNat = none
    · simp [exec, execWideWriteLower, hw]
    · simp [exec, execWideWriteLower, busWrite_wide_unserved hw h]
  all_goals simp [exec, execWideWriteLower, h]

/-- The highest word of a wide value belongs to one. -/
theorem wideOf_ne_none_of_wideTop (h : wideTop a = true) : wideOf a ≠ none := by
  intro hn
  simp [wideTop, hn] at h

theorem exec_wideWriteCommit_skip {a : Word} (h : a.toNat % 4 ≠ 0 ∨ wideTop a.toNat = false ∨ served s r a.toNat = false) :
    exec (.wideWriteCommit r a w) s = .next s := by
  rcases h with h | h | h
  case inr.inr =>
    cases ht : wideTop a.toNat with
    | false => simp [exec, execWideWriteCommit, ht]
    | true => simp [exec, execWideWriteCommit, busWrite_wide_unserved (wideOf_ne_none_of_wideTop ht) h]
  all_goals simp [exec, execWideWriteCommit, h]

@[simp] theorem wshOf_setWsh (s : State) (k : Nat) (x : WShadow) : (s.setWsh k x).wshOf k = x := by simp [State.wshOf, State.setWsh]

/-- A lower word is written once into the shadow, behind words of other addresses. -/
theorem wshOf_shadowPut : ∃ l : List (Nat × Word), (∀ p ∈ l, p.1 ≠ a) ∧ (shadowPut r b a w s).wshOf (reqIx r) = ⟨b, l ++ [(a, w)]⟩ := by
  refine ⟨_, fun p hp => ?_, wshOf_setWsh _ _ _⟩
  split at hp
  · simpa using (List.mem_filter.mp hp).2
  · cases hp

/-- The shadow holds a lower word as it was written last. -/
theorem shadowWord_shadowPut : shadowWord (shadowPut r b a w s) r b a = w := by
  obtain ⟨l, hl, hx⟩ := wshOf_shadowPut (r := r) (a := a) (b := b) (w := w) (s := s)
  have hn : l.find? (fun p => p.1 = a) = none := by simpa using hl
  simp [shadowWord, hx, hn]

/-- A commit of two words stores the shadow's low word and the written high word, and empties the shadow (R25). -/
theorem commitStore_two : commitStore r b 2 w s = shadowDrop r (wr (b + 4) w (wr b (shadowWord s r b b) s)) := rfl

theorem wshOf_shadowDrop : (shadowDrop r s).wshOf (reqIx r) = ⟨0, []⟩ := wshOf_setWsh _ _ _

@[simp] theorem rd_shadowDrop : rd (shadowDrop r s) a = rd s a := rfl

end WideWrites

section DipTarget

variable {r : Req} {i : Nat} {w : Word} {s : State}

theorem wideOf_dipTgt (hi : i < 2) : wideOf (Reg.MOD_DIP_TGT i) = some (Reg.MOD_DIP_TGT 0, 2) := by
  interval_cases i <;> rfl

theorem busMask_dipTgt (hi : i < 2) : busMask (Reg.MOD_DIP_TGT i) = maskAt (Reg.MOD_DIP_TGT i) := by
  interval_cases i <;> rfl

/-- Both words of `MOD_DIP_TGT` can be written. -/
theorem maskAt_dipTgt_writable (hi : i < 2) :
    (maskAt (Reg.MOD_DIP_TGT i)).rw ||| (maskAt (Reg.MOD_DIP_TGT i)).rwl ||| (maskAt (Reg.MOD_DIP_TGT i)).wo ≠ 0 := by
  interval_cases i <;> decide

/-- An admitted write of a word of `MOD_DIP_TGT`: word 0 waits in the shadow, word 1 stores both (R25, R227). -/
theorem busWrite_dipTgt (hi : i < 2) (h : Admitted s r (Reg.MOD_DIP_TGT i) (maskAt (Reg.MOD_DIP_TGT i))) :
    busWrite r (Reg.MOD_DIP_TGT i) w s =
      if i = 0 then shadowPut r (Reg.MOD_DIP_TGT 0) (Reg.MOD_DIP_TGT 0) w s else commitStore r (Reg.MOD_DIP_TGT 0) 2 w s := by
  have hm := busMask_dipTgt hi
  rw [busWrite_wide_admitted (wideOf_dipTgt hi) (hm ▸ maskAt_dipTgt_writable hi) (hm ▸ h)]
  interval_cases i <;> rfl

theorem exec_wideWriteLower_dipTgt (h : Admitted s r (Reg.MOD_DIP_TGT 0) (maskAt (Reg.MOD_DIP_TGT 0))) :
    exec (.wideWriteLower r (wd (Reg.MOD_DIP_TGT 0)) w) s = .next (shadowPut r (Reg.MOD_DIP_TGT 0) (Reg.MOD_DIP_TGT 0) w s) :=
  congrArg Host.Outcome.next (busWrite_dipTgt (i := 0) (by decide) h)

theorem exec_wideWriteCommit_dipTgt (h : Admitted s r (Reg.MOD_DIP_TGT 1) (maskAt (Reg.MOD_DIP_TGT 1))) :
    exec (.wideWriteCommit r (wd (Reg.MOD_DIP_TGT 1)) w) s = .next (commitStore r (Reg.MOD_DIP_TGT 0) 2 w s) :=
  congrArg Host.Outcome.next (busWrite_dipTgt (i := 1) (by decide) h)

end DipTarget

/-- Settles O15: each read is one case of `busRead`; a latency enters by `noteRead`. -/
theorem wideValuesReadWhole : Obligations.WideValuesReadWhole := by
  unfold Obligations.WideValuesReadWhole
  refine ⟨?low, ?latched, ?missed, ?latency, fun _ _ _ => exec_wideReadLow_skip, fun _ _ _ => exec_wideReadHigh_skip⟩
  case low =>
    rintro s r a _ n h4 h hs rfl hn
    exact exec_wideReadLow_eq h4 h hs hn
  case latched =>
    intro s r a b n h4 h hs ha hx
    rw [exec_wideReadHigh h4 h hs ha, readTo, busRead_latched h ha hx]
  case missed =>
    intro s r a b n h4 h hs ha hx
    rw [exec_wideReadHigh h4 h hs ha, readTo, busRead_missed h ha hx]
  case latency =>
    rintro s r a _ n h4 h hs rfl hn hc
    obtain ⟨hlo, hhi⟩ := get_noteRead_maxLat_bounds (s := { s with rsh := _ }) hc (ne_modXread_of_wideOf h)
    refine ⟨_, exec_wideReadLow_eq h4 h hs hn, hlo, hhi, ?_, fun b hb => rd_noteRead_ne (s := { s with rsh := _ }) hb⟩
    rw [noteRead_eq]

/-- Settles O16: a lower word goes to `shadowPut`, the highest one to `commitStore`. -/
theorem wideValuesWriteWhole : Obligations.WideValuesWriteWhole := by
  unfold Obligations.WideValuesWriteWhole
  refine ⟨fun _ _ _ => exec_wideWriteLower_dipTgt, fun _ _ _ h => ⟨_, exec_wideWriteLower_dipTgt h, shadowWord_shadowPut, rfl⟩, ?commit,
    fun _ _ _ _ => exec_wideWriteLower_skip, fun _ _ _ _ => exec_wideWriteCommit_skip⟩
  case commit =>
    intro s r w h
    refine ⟨_, exec_wideWriteCommit_dipTgt h, ?_, ?_, wshOf_shadowDrop, rfl, fun a h0 h1 => ?_⟩ <;> rw [commitStore_two, rd_shadowDrop]
    · exact rd_wr_same _ _ _
    · rw [rd_wr_ne _ _ _ _ (by decide), rd_wr_same]
    · rw [rd_wr_ne _ _ _ _ h1, rd_wr_ne _ _ _ _ h0]

end Sys2Proof.Machine
end

section
/-! PROOFS. What is stored (spec/00, spec/02): the state after reset, and which commands change OTP, flash and queue memory. -/

namespace Sys2Proof.Machine

/-- The command's own account of what it keeps, for the state that it answers. -/
theorem keeps_of_exec {c : Instr} {s t : State} (h : exec c s = .next t) : Keeps (effects c) s t := by
  obtain ⟨u, hu, hk⟩ := exec_keeps c s
  rw [hu] at h
  cases h
  exact hk

/-- No operation that keeps what must stay clears an OTP bit (R56). -/
theorem Keeps.otpBits {eff : Eff} {s t : State} (h : Keeps eff s t) (a : Nat) : otpByte s a &&& otpByte t a = otpByte s a := by
  rw [← h.otp a]
  ext i
  simp +contextual

/-- Settles O8: a step is one command or one clock edge, and either keeps every set OTP bit. -/
theorem stepNeverClearsOtpBits : Obligations.StepNeverClearsOtpBits := by
  unfold Obligations.StepNeverClearsOtpBits
  intro s t a h
  unfold step at h
  split at h
  next =>
    cases h
    exact (idle_keeps (eff := {}) s (.refl s)).otpBits a
  next c rest _ => exact (keeps_of_exec h).otpBits a

/-- Settles O10: each memory that a command's effects do not name stays whole. -/
theorem storedBytesChangeOnlyWhereNamed : Obligations.StoredBytesChangeOnlyWhereNamed := by
  unfold Obligations.StoredBytesChangeOnlyWhereNamed
  refine ⟨fun c s t a he h => ?otp, fun c s t cs a he h => ?flash, fun c s t a he h => ?qmem⟩
  case otp => rw [otpByte, (keeps_of_exec h).otpSame he, otpByte]
  case flash => rw [flashByte, (keeps_of_exec h).flashSame he, flashByte]
  case qmem => rw [(keeps_of_exec h).qmemSame he]

/-- Settles O3: nothing is listed after reset, so that every register reads its reset word. -/
theorem resetIsTheRegisterTables : Obligations.ResetIsTheRegisterTables := by
  unfold Obligations.ResetIsTheRegisterTables
  have hreset (a : Nat) : rd State.reset a = resetWord a := rfl
  refine ⟨hreset, rfl, rfl, rfl, rfl, ?lock, ?jseq, ?irq, ?irqEn, rfl, rfl, rfl, rfl, rfl⟩
  all_goals
    rw [hreset]
    decide

end Sys2Proof.Machine
end

section
/-! PROOFS. The locks of the configuration (R48, R582): what a write that they refuse does. -/

namespace Sys2Proof.Machine

variable {r : Req} {a w : Word} {s : State}

/-- A write outside the log's registers is judged on the state as it is. -/
theorem busSync_noLog {a : Nat} (h : ¬ (0x32000 ≤ a ∧ a < 0x32100)) (s : State) : busSync a s = s :=
  if_neg fun hc => h ⟨hc.1, hc.2.1⟩

/-- REGISTER_WRITE of a word outside the log's registers is a register write. -/
theorem exec_registerWrite (h4 : a.toNat % 4 = 0) (hb : a.toNat < 0x800000) (hl : ¬ (0x32000 ≤ a.toNat ∧ a.toNat < 0x32100)) :
    exec (.registerWrite r a w) s = .next (regWrite r a.toNat (busMask a.toNat) w (busFn r a.toNat) s) := by
  simp [exec, execRegisterWrite, h4, busWrite, hb, busSync_noLog hl]

/-- Settles O13: S0_RO leaves such a register no field to write. -/
theorem readOnlyHostPortRefusesWrites : Obligations.ReadOnlyHostPortRefusesWrites := by
  unfold Obligations.ReadOnlyHostPortRefusesWrites
  intro s a w h4 hb hl hdog hs hro hw1c hfields
  have hs0 : s0ReadOnly s .s0 = true := by simp [s0ReadOnly, hro]
  rw [exec_registerWrite h4 hb hl, regWrite_readOnly _ _ _ _ _ _ hs hs0]
  · simp [s0Leaves, hw1c, hdog]
  · simpa [lockedBits, hs0, hdog] using hfields

/-- Under CFG a register all of whose fields are RWL keeps them; a write that carries another value counts (R48, R582). -/
theorem regWrite_cfgLocked {a l : Nat} {f : Word → State → State} (hs : served s r a = true) (hro : s0ReadOnly s r = false)
    (hcfg : s.is .MOD_CFG_LOCK_CFG = true) (hl : l ≠ 0) :
    regWrite r a ⟨l, 0, 0, 0⟩ w f s = if rd s a &&& wd l = w &&& wd l then s else s.inc .MOD_CFG_LOCK_DENY_CNT := by
  have hlock : lockedBits s r a ⟨l, 0, 0, 0⟩ = l := by simp [lockedBits, hro, hcfg]
  have hout : lockedOut s r a ⟨l, 0, 0, 0⟩ = true := by simp [lockedOut, hlock, hl]
  have hden : denied s r a ⟨l, 0, 0, 0⟩ w = decide (rd s a &&& wd l ≠ w &&& wd l) := by
    have hx : ((rd s a &&& wd l) ^^^ w) &&& wd l = (rd s a &&& wd l) ^^^ (w &&& wd l) := by
      ext i
      simp [Bool.and_xor_distrib_right]
    simp only [denied, hro, hlock, Bool.false_and, Nat.or_zero]
    rw [if_neg (by decide), show BitVec.ofNat 32 l = wd l from rfl, hx, Bool.eq_iff_iff]
    simp [BitVec.xor_eq_zero_iff]
  by_cases h : rd s a &&& wd l = w &&& wd l <;> simp [regWrite, hs, hout, hden, h, countDenied]

/-- Settles O14: every field of `EV_CFG` is RWL. -/
theorem configurationLockKeepsFields : Obligations.ConfigurationLockKeepsFields := by
  unfold Obligations.ConfigurationLockKeepsFields
  intro s r w hs hro hcfg
  have hm : busMask Reg.EV_CFG = ⟨(maskAt Reg.EV_CFG).rwl, 0, 0, 0⟩ := by decide
  have hl : (maskAt Reg.EV_CFG).rwl ≠ 0 := by decide
  rw [exec_registerWrite (by decide) (by decide) (by decide)]
  exact congrArg Host.Outcome.next (by rw [← regWrite_cfgLocked hs hro hcfg hl, ← hm]; rfl)

end Sys2Proof.Machine
end

section
/-! PROOFS. Operations that write registers alone: the fields that they leave. -/

namespace Sys2Proof.Machine

/-- From `s` to `t` registers alone change, and every field of `P` reads as before. -/
structure Leaves (P : FldRef → Prop) (s t : State) : Prop where
  get : ∀ f, P f → t.get f = s.get f
  rest : ∃ m, t = { s with regs := m }

variable {P Q : FldRef → Prop} {s t u : State}

theorem Leaves.refl (s : State) : Leaves P s s := ⟨fun _ _ => rfl, _, rfl⟩

theorem Leaves.trans (h : Leaves P s t) (k : Leaves P t u) : Leaves P s u := by
  refine ⟨fun f hf => (k.get f hf).trans (h.get f hf), ?_⟩
  obtain ⟨_, rfl⟩ := h.rest
  obtain ⟨m, rfl⟩ := k.rest
  exact ⟨m, rfl⟩

theorem Leaves.mono (h : Leaves P s t) (hP : ∀ f, Q f → P f) : Leaves Q s t := ⟨fun f hf => h.get f (hP f hf), h.rest⟩

/-- A register is read as the field that it is as a whole. -/
theorem rd_of_get {a : Nat} (h : t.get ⟨a, 31, 0⟩ = s.get ⟨a, 31, 0⟩) : rd t a = rd s a := by
  have hw (w : Word) : bits w 31 0 = w.toNat := by simp [bits, nbits, Nat.mod_eq_of_lt w.isLt]
  rw [State.get, State.get, hw, hw] at h
  exact BitVec.eq_of_toNat_eq h

/-- Registers tell nothing of the roles. -/
theorem Leaves.sv (h : Leaves P s t) : t.sv = s.sv := by
  obtain ⟨_, rfl⟩ := h.rest
  rfl

theorem Leaves.when {f : State → State} (s : State) (c : Bool) (h : Leaves P s (f s)) : Leaves P s (s.when c f) := by
  cases c
  · exact .refl s
  · exact h

/-- A write of a register of which `P` holds no field. -/
theorem Leaves.wr (a : Nat) (w : Word) (s : State) (h : ∀ g, P g → g.a ≠ a) : Leaves P s (wr a w s) :=
  ⟨fun g hg => get_wr_ne a w s g (h g hg), _, rfl⟩

/-- A write of a field of a register of which `P` holds no field. -/
theorem Leaves.put_ne (f : FldRef) (v : Nat) (s : State) (h : ∀ g, P g → g.a ≠ f.a) : Leaves P s (s.put f v) := .wr _ _ s h

/-- A write of a field that shares no bit with one of `P`. -/
theorem Leaves.put (f : FldRef) (v : Nat) (s : State) (hf : f.lo ≤ f.hi) (h : ∀ g, P g → f.apart g ∧ g.hi < 32) : Leaves P s (s.put f v) :=
  ⟨fun g hg => get_put_apart s f g v hf (h g hg).2 (h g hg).1, _, rfl⟩

end Sys2Proof.Machine
end

section
/-! PROOFS. The start from flash (R52 to R54, R419): discovery, the domains' reports and their comparison. -/

namespace Sys2Proof.Machine

section Start

variable (s : State)

theorem startStep_leaves (n : Nat) : Leaves (fun g => FldRef.MOD_START_STEP.apart g ∧ g.hi < 32) s (startStep n s) :=
  .put _ _ _ (by simp) fun _ hg => hg

theorem startFail_leaves (n : Nat) : Leaves (fun g => FldRef.MOD_START_FAIL.apart g ∧ g.hi < 32) s (startFail n s) :=
  .put _ _ _ (by simp) fun _ hg => hg

/-- `MOD_START` shows the highest step completed. -/
theorem get_startStep {n : Nat} (hn : n < 16) : (startStep n s).get .MOD_START_STEP = max n (s.get .MOD_START_STEP) := by
  have := get_lt s .MOD_START_STEP
  rw [startStep, get_put _ _ _ (by simp) (by simp), Nat.mod_eq_of_lt]
  simp only at this ⊢
  omega

/-- `MOD_START` shows the highest step that failed. -/
theorem get_startFail {n : Nat} (hn : n < 16) : (startFail n s).get .MOD_START_FAIL = max n (s.get .MOD_START_FAIL) := by
  have := get_lt s .MOD_START_FAIL
  rw [startFail, get_put _ _ _ (by simp) (by simp), Nat.mod_eq_of_lt]
  simp only at this ⊢
  omega

theorem get_startFail_step (n : Nat) : (startFail n s).get .MOD_START_STEP = s.get .MOD_START_STEP :=
  (startFail_leaves s n).get _ (by simp [FldRef.apart])

theorem get_startStep_fail (n : Nat) : (startStep n s).get .MOD_START_FAIL = s.get .MOD_START_FAIL :=
  (startStep_leaves s n).get _ (by simp [FldRef.apart])

end Start

section Discovery

variable (s : State) (x y : Bool) (d e f h : Word)

/-- What the status of S1 writes. -/
def apartSp1Show (g : FldRef) : Prop :=
  g.hi < 32 ∧ FldRef.SP1_STAT_STATE.apart g ∧ FldRef.SP1_STAT_WBUSY.apart g ∧ FldRef.SP1_STAT_CFG_ADJ.apart g

theorem sp1Show_leaves : Leaves apartSp1Show s (sp1Show s) := by
  unfold sp1Show
  refine ((Leaves.put _ _ _ (by simp) ?_).trans (.put _ _ _ (by simp) ?_)).trans (.put _ _ _ (by simp) ?_)
  all_goals
    rintro g ⟨hg, h1, h2, h3⟩
    exact ⟨by assumption, hg⟩

/-- What discovery shows of select `k` (R419). -/
def discShow (k : Nat) (ok : Bool) (d e : Word) (s : State) : State :=
  let s1 := wr (Reg.SP1_DISC k) (if ok then d &&& BitVec.ofNat 32 (readMask (Reg.SP1_DISC k)) else 0) (wr (Reg.SP1_ERASE k) (if ok then e else 0) s)
  (s1.put (.SP1_DISC_SIZE k) (min 29 (s1.get (.SP1_DISC_SIZE k)))).putB (.SP1_DISC_VALID k) ok

theorem discShow_leaves (k : Nat) : Leaves (fun g => g.a ≠ Reg.SP1_DISC k ∧ g.a ≠ Reg.SP1_ERASE k) s (discShow k x d e s) := by
  unfold discShow
  exact (((Leaves.wr _ _ _ fun g hg => hg.2).trans (.wr _ _ _ fun g hg => hg.1)).trans (.put_ne _ _ _ fun g hg => hg.1)).trans
    (.put_ne _ _ _ fun g hg => hg.1)

theorem get_discShow_valid (k : Nat) : (discShow k x d e s).get (.SP1_DISC_VALID k) = b2n x := get_putB _ _ _ (by simp) (by simp)

/-- Both selects and CS1_ABSENT as discovery shows them. -/
def discBoth (s : State) : State := (discShow 1 y f h (discShow 0 x d e s)).putB .SP1_STAT_CS1_ABSENT (!y)

/-- The registers in which discovery shows its findings. -/
def discRegs : List Nat := [Reg.SP1_DISC 0, Reg.SP1_DISC 1, Reg.SP1_ERASE 0, Reg.SP1_ERASE 1, Reg.SP1_STAT]

theorem discBoth_leaves : Leaves (fun g => g.a ∉ discRegs) s (discBoth x y d e f h s) := by
  unfold discBoth
  refine (((discShow_leaves _ _ _ _ _).mono ?_).trans ((discShow_leaves _ _ _ _ _).mono ?_)).trans
    (.put_ne _ _ _ ?_)
  all_goals
    intro g hg
    simp only [discRegs, List.mem_cons, List.not_mem_nil, not_or] at hg
    tauto

/-- Discovery is done: step 3, or its failure where select 0 has none (R419, R540). -/
def discEnd (s : State) : State :=
  startStep 3 (((discBoth x y d e f h s).when (!x) (startFail 3)).modBt fun b => { b with sfdp := true })

/-- Beside registers discovery changes only that it is done. -/
theorem sp1Show_discEnd_eq : ∃ m, sp1Show (discEnd x y d e f h s) = { s with regs := m, bt := { s.bt with sfdp := true } } := by
  obtain ⟨_, hboth⟩ := (discBoth_leaves s x y d e f h).rest
  obtain ⟨_, hfail⟩ := (Leaves.when _ (!x) (startFail_leaves (discBoth x y d e f h s) 3)).rest
  obtain ⟨_, hend⟩ := (startStep_leaves (((discBoth x y d e f h s).when (!x) (startFail 3)).modBt fun b => { b with sfdp := true }) 3).rest
  obtain ⟨m, hshow⟩ := (sp1Show_leaves (discEnd x y d e f h s)).rest
  exact ⟨m, by rw [hshow, discEnd, hend, hfail, hboth]; rfl⟩

theorem get_discEnd_ne {g : FldRef} (hg : g.a ≠ Reg.MOD_START) : (discEnd x y d e f h s).get g = (discBoth x y d e f h s).get g := by
  rw [discEnd, startStep, get_put_ne _ _ _ _ hg, get_congr (State.modBt_regs _ _)]
  cases x
  · exact get_put_ne _ _ _ _ hg
  · rfl

/-- SFDP_DISCOVERY where it runs (R419). -/
theorem sfdpDiscovery_run (h0 : s.get .BT_STAT_STATE = 0) (h1 : s.bt.sfdp = false) (h2 : s.get .MOD_START_STEP = 2) :
    sfdpDiscovery x d e y f h s = sp1Show (discEnd x y d e f h s) := by
  rw [sfdpDiscovery, if_neg (by simp [h0, h1, h2])]
  rfl

theorem get_discEnd_step (hs : s.get .MOD_START_STEP = 2) : (discEnd x y d e f h s).get .MOD_START_STEP = 3 := by
  have hb : (discBoth x y d e f h s).get .MOD_START_STEP = 2 := by rw [(discBoth_leaves ..).get _ (by decide), hs]
  rw [discEnd, get_startStep _ (by decide), get_congr (State.modBt_regs _ _)]
  cases x <;> simp [get_startFail_step, hb]

theorem get_discEnd_fail :
    (discEnd x y d e f h s).get .MOD_START_FAIL = if x then s.get .MOD_START_FAIL else max 3 (s.get .MOD_START_FAIL) := by
  have hb : (discBoth x y d e f h s).get .MOD_START_FAIL = s.get .MOD_START_FAIL := (discBoth_leaves ..).get _ (by decide)
  rw [discEnd, get_startStep_fail, get_congr (State.modBt_regs _ _)]
  cases x <;> simp [get_startFail _ (n := 3) (by decide), hb]

theorem get_discBoth_valid0 : (discBoth x y d e f h s).get (.SP1_DISC_VALID 0) = b2n x := by
  rw [discBoth, State.putB, get_put_ne _ _ _ _ (by decide), (discShow_leaves ..).get _ (by decide), get_discShow_valid]

theorem get_discBoth_valid1 : (discBoth x y d e f h s).get (.SP1_DISC_VALID 1) = b2n y := by
  rw [discBoth, State.putB, get_put_ne _ _ _ _ (by decide), get_discShow_valid]

theorem get_discBoth_absent : (discBoth x y d e f h s).get .SP1_STAT_CS1_ABSENT = b2n (!y) := get_putB _ _ _ (by simp) (by simp)

/-- What SFDP_DISCOVERY answers where it runs (R419). -/
theorem exec_sfdpDiscovery_run (h0 : s.get .BT_STAT_STATE = 0) (h1 : s.bt.sfdp = false) (h2 : s.get .MOD_START_STEP = 2) :
    ∃ t, exec (.sfdpDiscovery x d e y f h) s = .next t ∧ t.bt = { s.bt with sfdp := true } ∧ t.get .MOD_START_STEP = 3 ∧
      t.get .MOD_START_FAIL = (if x then s.get .MOD_START_FAIL else max 3 (s.get .MOD_START_FAIL)) ∧ t.get (.SP1_DISC_VALID 0) = b2n x ∧
      t.get (.SP1_DISC_VALID 1) = b2n y ∧ t.get .SP1_STAT_CS1_ABSENT = b2n (!y) ∧ t = { s with regs := t.regs, bt := t.bt } ∧
      ∀ a, a ≠ Reg.SP1_DISC 0 → a ≠ Reg.SP1_DISC 1 → a ≠ Reg.SP1_ERASE 0 → a ≠ Reg.SP1_ERASE 1 → a ≠ Reg.SP1_STAT → a ≠ Reg.MOD_START →
        rd t a = rd s a := by
  have hshow := sp1Show_leaves (discEnd x y d e f h s)
  obtain ⟨m, ht⟩ := sp1Show_discEnd_eq s x y d e f h
  refine ⟨_, congrArg Host.Outcome.next (sfdpDiscovery_run s x y d e f h h0 h1 h2), ?bt, ?step, ?fail, ?valid0, ?valid1, ?absent, ?rest, ?regs⟩
  case bt => rw [ht]
  case step => rw [hshow.get _ (by simp [apartSp1Show, FldRef.apart]), get_discEnd_step _ _ _ _ _ _ _ h2]
  case fail => rw [hshow.get _ (by simp [apartSp1Show, FldRef.apart]), get_discEnd_fail]
  case valid0 => rw [hshow.get _ (by simp [apartSp1Show, FldRef.apart]), get_discEnd_ne _ _ _ _ _ _ _ (by decide), get_discBoth_valid0]
  case valid1 => rw [hshow.get _ (by simp [apartSp1Show, FldRef.apart]), get_discEnd_ne _ _ _ _ _ _ _ (by decide), get_discBoth_valid1]
  case absent => rw [hshow.get _ (by simp [apartSp1Show, FldRef.apart]), get_discEnd_ne _ _ _ _ _ _ _ (by decide), get_discBoth_absent]
  case rest => rw [ht]
  case regs =>
    intro a g0 g1 g2 g3 g4 g5
    apply rd_of_get
    rw [hshow.get _ ⟨by simp, .inl (Ne.symm g4), .inl (Ne.symm g4), .inl (Ne.symm g4)⟩, get_discEnd_ne _ _ _ _ _ _ _ g5,
      (discBoth_leaves ..).get _ (by simp [discRegs, g0, g1, g2, g3, g4])]

theorem exec_sfdpDiscovery_skip (h0 : s.get .BT_STAT_STATE ≠ 0 ∨ s.bt.sfdp = true ∨ s.get .MOD_START_STEP ≠ 2) :
    exec (.sfdpDiscovery x d e y f h) s = .next s := by
  simp [exec, execSfdpDiscovery, sfdpDiscovery, h0]

end Discovery

section Reports

variable {s : State} {x y : BootRep}

/-- IMAGE_LOAD of a standby domain that has not reported (R52, R54). -/
theorem exec_imageLoad_run {d : Dom} {e f : Fin 4} (h0 : s.bt.sfdp = true) (h1 : s.get .BT_STAT_STATE = 0) (h2 : roleOf s d = .standby)
    (h3 : repOf s d = none) (h4 : s.bt.apply = none) :
    ∃ t, exec (.imageLoad d e f) s = .next t ∧ repOf t d = some (slotSelect s fun x => if x = 0 then e else f) ∧
      repOf t (otherDom d) = repOf s (otherDom d) ∧ t = { s with bt := t.bt } := by
  refine ⟨_, rfl, ?_⟩
  rw [imageLoad, if_neg (by simp [h0, h1, h2, h3, h4])]
  cases d <;> exact ⟨rfl, rfl, rfl⟩

theorem exec_imageLoad_skip {d : Dom} {e f : Fin 4}
    (h : s.bt.sfdp = false ∨ s.get .BT_STAT_STATE ≠ 0 ∨ roleOf s d ≠ .standby ∨ repOf s d ≠ none ∨ s.bt.apply ≠ none) :
    exec (.imageLoad d e f) s = .next s := by
  simp only [← Option.isSome_iff_ne_none] at h
  exact congrArg Host.Outcome.next (if_pos (by simpa using h))

/-- A domain whose report is here has reported. -/
theorem ready_of_repHere {d : Dom} {r : BootRep} (h : repHere s d = some r) : (repOf s d).isSome = true := by
  unfold repHere at h
  split at h
  · simp [h]
  · cases h

theorem repHere_eq_none {d : Dom} (h : roleOf s d ≠ .standby) : repHere s d = none := if_neg h

/-- With both reports here (R54): equal ones agree, different ones are dropped once, and then one domain is fenced. -/
theorem imageCompare_both (h0 : s.get .BT_STAT_STATE = 0) (h1 : s.bt.apply = none) (ha : repHere s .a = some x) (hb : repHere s .b = some y) :
    imageCompare s =
      if x.slot = y.slot ∧ x.digest = y.digest then imageAgreed (if bootDom s = .a then x else y) s
      else if ¬ s.bt.repeated then s.modBt (fun b => { b with repA := none, repB := none, repeated := true })
      else
        let d := if x.slot.isNone then .b else if y.slot.isNone then .a else bootDom s
        imageAgreed (if d = .a then x else y) (verdict (otherDom d) true fcImage s) := by
  unfold imageCompare
  simp [h0, h1, ha, hb, ready_of_repHere ha, ready_of_repHere hb]

/-- With one domain present its report stands alone (R54). -/
theorem imageCompare_a (h0 : s.get .BT_STAT_STATE = 0) (h1 : s.bt.apply = none) (ha : repHere s .a = some x) (hb : roleOf s .b ≠ .standby) :
    imageCompare s = imageAgreed x s := by
  unfold imageCompare
  simp [h0, h1, ha, hb, ready_of_repHere ha, repHere_eq_none hb]

theorem imageCompare_b (h0 : s.get .BT_STAT_STATE = 0) (h1 : s.bt.apply = none) (hb : repHere s .b = some x) (ha : roleOf s .a ≠ .standby) :
    imageCompare s = imageAgreed x s := by
  unfold imageCompare
  simp [h0, h1, ha, hb, ready_of_repHere hb, repHere_eq_none ha]

/-- Before every domain present has reported, and once the image is decided, nothing is compared. -/
theorem imageCompare_skip
    (h : s.get .BT_STAT_STATE ≠ 0 ∨ s.bt.apply ≠ none ∨ (roleOf s .a = .standby ∧ s.bt.repA = none) ∨ (roleOf s .b = .standby ∧ s.bt.repB = none) ∨
      (roleOf s .a ≠ .standby ∧ roleOf s .b ≠ .standby)) :
    imageCompare s = s := by
  unfold imageCompare
  rcases h with h | h | h | h | ⟨ha, hb⟩
  case inr.inr.inr.inr => simp [repHere_eq_none ha, repHere_eq_none hb]
  all_goals simp [h, repOf, Option.isSome_iff_ne_none]

/-- What NO_IMAGE shows: its state, the reasons of both slots, no key (R52, R53). -/
def noImageShown (r : BootRep) (s : State) : State := showRep r ((s.put .BT_STAT_STATE 2).put .BT_STAT_KEY_USED 3)

theorem noImageShown_leaves (r : BootRep) (s : State) : Leaves (fun g => g.a ≠ Reg.BT_STAT) s (noImageShown r s) := by
  unfold noImageShown showRep
  refine (((Leaves.put_ne _ _ _ ?_).trans (.put_ne _ _ _ ?_)).trans (.put_ne _ _ _ ?_)).trans (.put_ne _ _ _ ?_) <;> exact fun g hg => hg

theorem get_noImageShown_state (r : BootRep) (s : State) : (noImageShown r s).get .BT_STAT_STATE = 2 := by
  unfold noImageShown showRep
  iterate 3 rw [get_put_apart _ _ _ _ (by simp) (by simp) (by simp [FldRef.apart])]
  exact get_put _ _ _ (by simp) (by simp)

/-- Where no domain is active, the domain that drives S1 becomes active (R539): no register changes. -/
theorem bootActive_regs (s : State) : (bootActive s).regs = s.regs := by
  unfold bootActive setRole
  split <;> rfl

theorem noneActive_congr {s t : State} (h : t.sv = s.sv) : noneActive t = noneActive s := by simp [noneActive, activeDom, h]

theorem anyActive_bootActive {s : State} (h : noneActive s = true) : (bootActive s).sv.anyActive = true := by simp [bootActive, h]

/-- In a state other than RUN, LEAN and DOZE the modulator clock keeps its rate (R530). -/
theorem setPower_else {p : Nat} (hp : ¬ (1 ≤ p ∧ p ≤ 3)) (s : State) :
    setPower p s = (s.modPw fun w => { w with power := p }).modSv fun v => { v with stby := stbyFor p v.stby } := if_neg hp

/-- NO_IMAGE (R53) where no domain is active: the state and step 4's failure are shown, and the domain that drives S1 becomes active. -/
theorem noImage_shows (h : noneActive s = true) :
    (noImage x s).get .BT_STAT_STATE = 2 ∧ (noImage x s).pw.power = 6 ∧ (noImage x s).sv.anyActive = true ∧
      (noImage x s).get .MOD_START_FAIL = max 4 (s.get .MOD_START_FAIL) := by
  have hdef : noImage x s = setPower 6 (bootActive (startFail 4 (noImageShown x s))) := rfl
  have hsv : (startFail 4 (noImageShown x s)).sv = s.sv :=
    (startFail_leaves _ 4).sv.trans (noImageShown_leaves x s).sv
  have hnone : noneActive (startFail 4 (noImageShown x s)) = true := by rw [noneActive_congr hsv, h]
  have hregs : (noImage x s).regs = (startFail 4 (noImageShown x s)).regs := by
    rw [hdef, setPower_else (by decide), State.modSv_regs, State.modPw_regs, bootActive_regs]
  refine ⟨?_, ?_, ?_, ?_⟩
  · rw [get_congr hregs, startFail, get_put_ne _ _ _ _ (by simp), get_noImageShown_state]
  · rw [hdef, setPower_else (by decide)]
    rfl
  · rw [hdef, setPower_else (by decide), State.modSv_sv, State.modPw_sv, anyActive_bootActive hnone]
  · rw [get_congr hregs, get_startFail _ (by decide), (noImageShown_leaves x s).get _ (by simp)]

end Reports

/-- Settles O17: each case of `imageCompare` by the reports that are here. -/
theorem imageStartReports : Obligations.ImageStartReports := by
  unfold Obligations.ImageStartReports
  refine ⟨fun _ _ _ _ _ _ _ => exec_sfdpDiscovery_run _ _ _ _ _ _ _, fun _ _ _ _ _ _ _ => exec_sfdpDiscovery_skip _ _ _ _ _ _ _,
    fun _ _ _ _ => exec_imageLoad_run, fun _ _ _ _ => exec_imageLoad_skip, ?agreed, ?agreedNone, ?dropped, ?fenceA, ?fenceB, ?fenceOther,
    fun _ _ h0 h1 ha hb => congrArg Host.Outcome.next (imageCompare_a h0 h1 ha hb),
    fun _ _ h0 h1 hb ha => congrArg Host.Outcome.next (imageCompare_b h0 h1 hb ha), ?noImage,
    fun _ h => congrArg Host.Outcome.next (imageCompare_skip h)⟩
  case agreed =>
    intro s x y k h0 h1 ha hb hx hy hd
    refine congrArg Host.Outcome.next ?_
    rw [imageCompare_both h0 h1 ha hb, if_pos ⟨hx.trans hy.symm, hd⟩]
    split <;> simp [imageAgreed, hx, hy]
  case agreedNone =>
    intro s x y h0 h1 ha hb hx hy hd
    refine congrArg Host.Outcome.next ?_
    rw [imageCompare_both h0 h1 ha hb, if_pos ⟨hx.trans hy.symm, hd⟩]
    split <;> simp [imageAgreed, hx, hy]
  case dropped =>
    intro s x y h0 h1 ha hb hne hr
    refine congrArg Host.Outcome.next ?_
    rw [imageCompare_both h0 h1 ha hb, if_neg (by tauto), if_pos (by simp [hr])]
  case fenceA =>
    intro s x y h0 h1 ha hb hx hy hr
    refine congrArg Host.Outcome.next ?_
    rw [imageCompare_both h0 h1 ha hb, if_neg (by simp [hx, Ne.symm hy]), if_neg (by simp [hr])]
    simp [hx, otherDom]
  case fenceB =>
    intro s x y h0 h1 ha hb hx hy hr
    refine congrArg Host.Outcome.next ?_
    rw [imageCompare_both h0 h1 ha hb, if_neg (by simp [hx, hy]), if_neg (by simp [hr])]
    simp [hx, hy, otherDom]
  case fenceOther =>
    intro s x y h0 h1 ha hb hx hy hne hr
    refine congrArg Host.Outcome.next ?_
    rw [imageCompare_both h0 h1 ha hb, if_neg (by tauto), if_neg (by simp [hr])]
    cases bootDom s <;> simp [hx, hy, otherDom, byDom]
  case noImage =>
    intro s x h0 h1 ha hb hx hn
    refine ⟨_, congrArg Host.Outcome.next (imageCompare_a h0 h1 ha hb), ?_⟩
    rw [imageAgreed, hx]
    exact noImage_shows hn

end Sys2Proof.Machine
end

section
/-! PROOFS. A release of the domains from a start that has come to step 3 (R539, R540). -/

namespace Sys2Proof.Machine

/-- A release shows step 2 as every step is shown, only where it is the higher one (R539). -/
theorem get_domainRelease_step (s : State) : (domainRelease s).get .MOD_START_STEP = max 2 (s.get .MOD_START_STEP) := by
  rw [domainRelease, get_startStep _ (by decide)]
  rfl

/-- The module on its way to step 4: discovery has completed step 3, then both domains failed, 10 s ago (R540). -/
def failedAtStep3 : State :=
  startStep 3 { pw := { on := true }, sv := { roleA := .fenced, roleB := .fenced }, tu := { edges := 10 * tickS } }

theorem get_failedAtStep3_step : failedAtStep3.get .MOD_START_STEP = 3 := by
  rw [failedAtStep3, get_startStep _ (by decide)]
  decide

theorem bothFailed_failedAtStep3 : bothFailed failedAtStep3 = true := by decide

/-- With both feeds back, the domains are released from `failedAtStep3`. -/
theorem execDomainRelease_failedAtStep3 : execDomainRelease true true failedAtStep3 =
    .next (domainRelease (failedAtStep3.modSv fun v => { v with feedA := true, feedB := true })) := by
  rw [execDomainRelease, if_pos ⟨rfl, .inr bothFailed_failedAtStep3⟩]
  rfl

/-- Refutes O60: `bothFailed` allows step 3 (`failedAtStep3`), and a release from there leaves MOD_START.STEP at 3, the highest step completed, where the
statement asks for 2. -/
theorem not_startsAndResets : ¬ Obligations.StartsAndResets := by
  unfold Obligations.StartsAndResets
  rintro ⟨-, -, hrelease, -⟩
  obtain ⟨t, ht, -, -, -, -, hstep, -⟩ := hrelease failedAtStep3 true true rfl (.inr bothFailed_failedAtStep3) rfl
  obtain rfl : domainRelease _ = t := Host.Outcome.next.inj (execDomainRelease_failedAtStep3.symm.trans ht)
  have hstep3 : (failedAtStep3.modSv fun v => { v with feedA := true, feedB := true }).get .MOD_START_STEP = 3 := get_failedAtStep3_step
  rw [get_domainRelease_step, hstep3] at hstep
  exact absurd hstep (by decide)

end Sys2Proof.Machine
end

section
/-! PROOFS. Frames: what of the state an operation may change, and which register fields it leaves. -/

namespace Sys2Proof.Machine

-- As in the tests above: one theorem after the other, since each would wait for the tests' long evaluations in a thread of its own.
set_option Elab.async false

/-- From `s` to `t` only what `f` takes from `t` changes, and every register field of `P` reads as before. -/
structure Frame (f : State → State → State) (P : FldRef → Prop) (s t : State) : Prop where
  rest : t = f s t
  get : ∀ g, P g → t.get g = s.get g

/-- `s` with its registers taken from `t`; with its channels' records beside them; with the chains' records beside them. -/
def regsFrom (s t : State) : State := { s with regs := t.regs }
def outputsFrom (s t : State) : State := { s with regs := t.regs, chans := t.chans }
def chainsFrom (s t : State) : State := { s with regs := t.regs, chains := t.chains }

variable {f g : State → State → State} {P Q : FldRef → Prop} {s t u : State}

theorem Frame.refl (s : State) (hf : ∀ s, s = f s s := by exact fun _ => rfl) : Frame f P s s := ⟨hf s, fun _ _ => rfl⟩

theorem Frame.trans (h : Frame f P s t) (k : Frame f P t u) (hf : ∀ s t u, f (f s t) u = f s u := by exact fun _ _ _ => rfl) : Frame f P s u where
  rest := by rw [← hf s t u, ← h.rest]; exact k.rest
  get p hp := (k.get p hp).trans (h.get p hp)

/-- A frame that allows more changes and names fewer fields. -/
theorem Frame.mono (h : Frame f P s t) (hP : ∀ p, Q p → P p) (hg : ∀ s t, f s t = g s (f s t) := by exact fun _ _ => rfl) : Frame g Q s t where
  rest := by rw [h.rest]; exact hg s t
  get p hp := h.get p (hP p hp)

theorem Leaves.frame (h : Leaves P s t) : Frame regsFrom P s t where
  rest := by obtain ⟨_, rfl⟩ := h.rest; rfl
  get := h.get

/-- An update of records beside the registers. -/
theorem Frame.of_regs (hr : t.regs = s.regs) (h : t = f s t) : Frame f P s t := ⟨h, fun p _ => get_congr hr p⟩

theorem Frame.ite {a b : State} {c : Prop} [Decidable c] (ha : c → Frame f P s a) (hb : ¬ c → Frame f P s b) : Frame f P s (if c then a else b) := by
  split
  · next h => exact ha h
  · next h => exact hb h

theorem Frame.each {β : Type} (l : List β) (F : β → State → State) (s : State) (hF : ∀ x ∈ l, ∀ t, Frame f P t (F x t))
    (h0 : ∀ s, s = f s s := by exact fun _ => rfl) (hf : ∀ s t u, f (f s t) u = f s u := by exact fun _ _ _ => rfl) : Frame f P s (s.each l F) :=
  each_ind (Frame f P s) l F s (.refl s h0) fun x hx t ht => ht.trans (hF x hx t) hf

theorem Frame.is (h : Frame f P s t) (p : FldRef) (hp : P p) : t.is p = s.is p := by simp only [State.is, h.get p hp]

theorem Frame.rd (h : Frame f P s t) (a : Nat) (ha : P ⟨a, 31, 0⟩) : rd t a = rd s a := rd_of_get (h.get _ ha)

/-- Registers that read alike hold fields that read alike. -/
theorem Frame.of_rd (h : t = f s t) (hr : ∀ p, P p → Machine.rd t p.a = Machine.rd s p.a) : Frame f P s t :=
  ⟨h, fun p hp => by simp only [State.get, hr p hp]⟩

end Sys2Proof.Machine
end

section
/-! PROOFS. Steps of a frame: writes of registers and fields, and updates of records beside them. -/

namespace Sys2Proof.Machine

set_option Elab.async false

variable {f : State → State → State} {P : FldRef → Prop} {s t u : State}

/-- A write of a register of which `P` holds no field. -/
theorem Frame.wr (h : Frame f P s t) (a : Nat) (w : Word) (ha : ∀ p, P p → p.a ≠ a)
    (hf : ∀ s t m, { f s t with regs := m } = f s { f s t with regs := m } := by exact fun _ _ _ => rfl) : Frame f P s (Machine.wr a w t) where
  rest := by
    show { t with regs := _ } = f s { t with regs := _ }
    rw [h.rest]
    exact hf s t _
  get p hp := (get_wr_ne a w t p (ha p hp)).trans (h.get p hp)

/-- A write of a field that shares no bit with one of `P`. -/
theorem Frame.putApart (h : Frame f P s t) (g : FldRef) (v : Nat) (hg : g.lo ≤ g.hi) (ha : ∀ p, P p → g.apart p ∧ p.hi < 32)
    (hf : ∀ s t m, { f s t with regs := m } = f s { f s t with regs := m } := by exact fun _ _ _ => rfl) : Frame f P s (t.put g v) where
  rest := by
    show { t with regs := _ } = f s { t with regs := _ }
    rw [h.rest]
    exact hf s t _
  get p hp := (get_put_apart t g p v hg (ha p hp).2 (ha p hp).1).trans (h.get p hp)

/-- A write of a field of a register of which `P` holds no field. -/
theorem Frame.put (h : Frame f P s t) (g : FldRef) (v : Nat) (ha : ∀ p, P p → p.a ≠ g.a)
    (hf : ∀ s t m, { f s t with regs := m } = f s { f s t with regs := m } := by exact fun _ _ _ => rfl) : Frame f P s (t.put g v) :=
  h.wr _ _ ha hf

/-- An update of records beside the registers. -/
theorem Frame.upd (h : Frame f P s t) (hr : u.regs = t.regs) (hu : u = f t u)
    (hf : ∀ s t u, f (f s t) u = f s u := by exact fun _ _ _ => rfl) : Frame f P s u := h.trans (.of_regs hr hu) hf

end Sys2Proof.Machine
end

section
/-! PROOFS. What a write into a queue, the triggers that it makes and an event change (R211, R238, R336). -/

namespace Sys2Proof.Machine

set_option Elab.async false

variable {s : State}

/-- A field outside the registers that a write into a queue, the triggers of contexts and an event change. -/
def offQueues (g : FldRef) : Prop := queueReg g.a = false
def offCtxs (g : FldRef) : Prop := g.a < 0x40000 ∨ 0x4A000 ≤ g.a
def offEvents (g : FldRef) : Prop := eventReg g.a = false

theorem noQueueReg_of_queueReg {a : Nat} (h : queueReg a = false) : noQueueReg a := by
  simp only [queueReg, Bool.or_eq_false_iff, Bool.and_eq_false_iff, decide_eq_false_iff_not, beq_eq_false_iff_ne] at h
  unfold noQueueReg
  omega

theorem offQueues_of_offEvents {g : FldRef} (h : offEvents g) : offQueues g := by
  simp only [offEvents, eventReg, Bool.or_eq_false_iff] at h
  exact h.1.1

theorem offCtxs_of_offEvents {g : FldRef} (h : offEvents g) : offCtxs g := by
  simp only [offEvents, eventReg, Bool.or_eq_false_iff, Bool.and_eq_false_iff, decide_eq_false_iff_not] at h
  unfold offCtxs
  omega

theorem putWords_rest (q : Nat) (l : List Word) : ∀ (pos : Nat) (s : State), ∃ m, putWords q pos l s = { s with qmem := m } := by
  induction l with
  | nil => exact fun _ s => ⟨s.qmem, rfl⟩
  | cons w l ih => exact fun pos s => ih (pos + 4) _

theorem placeEnts_rest (q : Nat) (es : List (List Word)) :
    ∀ (no pos : Nat) (b : Bool) (s : State), ∃ m, (placeEnts q no pos b es s).2 = { s with qmem := m } := by
  induction es with
  | nil => exact fun _ _ _ s => ⟨s.qmem, rfl⟩
  | cons w es ih =>
    intro no pos b s
    obtain ⟨m, hm⟩ := putWords_rest q w pos s
    obtain ⟨n, hn⟩ := ih (no + 1) (pos + 4 * w.length) false (putWords q pos w s)
    exact ⟨n, hn.trans (by rw [hm])⟩

theorem setQueue_frame {P : FldRef → Prop} (s : State) (q : Nat) (x : QSt) : Frame queuedFrom P s (s.setQueue q x) := .of_regs rfl rfl

/-- Of the registers that a push writes the laws of Laws/Frames tell; what else it changes needs no field. -/
def noField (_ : FldRef) : Prop := False

theorem Frame.putAny {s t : State} (h : Frame queuedFrom noField s t) (g : FldRef) (v : Nat) : Frame queuedFrom noField s (t.put g v) :=
  h.put g v fun _ hp => hp.elim

theorem qLevelChanged_rest (q : Nat) (s : State) : Frame queuedFrom noField s (qLevelChanged q s) := by
  have h1 : Frame queuedFrom noField s (s.put (.Q_PEAK_PEAK q) (max (qLevel s q) (s.get (.Q_PEAK_PEAK q)))) := (Frame.refl s).putAny _ _
  exact .ite (fun _ => h1.trans (setQueue_frame _ _ _)) fun _ =>
    .ite (fun _ => ((h1.trans (setQueue_frame _ _ _)).putAny _ _).putAny _ _) fun _ => h1

theorem qStore_rest (q : Nat) (l : List QEnt) (s : State) : Frame queuedFrom noField s (qStore q l s) :=
  (setQueue_frame s q _).trans (qLevelChanged_rest q _)

theorem countDisplaced_rest (q : Nat) (d : List QEnt) (s : State) : Frame queuedFrom noField s (countDisplaced q d s) :=
  ((setQueue_frame s q _).putAny _ _).putAny _ _

theorem keepLate_frame {P : FldRef → Prop} (c : Prop) [Decidable c] (l : List LateEnt) (s : State) :
    Frame queuedFrom P s (if c then { s with late := l } else s) := .ite (fun _ => .of_regs rfl rfl) fun _ => .refl s

theorem qPush1_rest (q : Nat) (p : Prod) (es : List (List Word)) (s : State) : Frame queuedFrom noField s (qPush1 q p es s) := by
  unfold qPush1
  refine .ite (fun _ => .refl s) fun _ => .ite (fun _ => (Frame.refl s).putAny _ _) fun _ => ?_
  split
  case h_1 => exact (setQueue_frame s q _).putAny _ _
  case h_2 l d _ =>
    have hplace (no pos b) (x : QSt) : Frame queuedFrom noField s ((placeEnts q no pos b es (countDisplaced q d s)).2.setQueue q x) := by
      obtain ⟨m, hm⟩ := placeEnts_rest q es no pos b (countDisplaced q d s)
      rw [hm]
      exact (countDisplaced_rest q d s).upd rfl rfl
    exact ((hplace _ _ _ _).trans (keepLate_frame _ _ _)).trans (qStore_rest q _ _)

theorem qPush1_frame (q : Nat) (p : Prod) (es : List (List Word)) (s : State) : Frame queuedFrom offQueues s (qPush1 q p es s) :=
  .of_rd (qPush1_rest q p es s).rest fun _ hg => qPush1_rd (noQueueReg_of_queueReg hg) q p es s

theorem qPush_frame (q : Nat) (p : Prod) (es : List (List Word)) (s : State) : Frame queuedFrom offQueues s (qPush q p es s) :=
  .each _ _ _ fun u _ t => qPush1_frame q p u t

theorem qPushDrop_frame (q : Nat) (p : Prod) (es : List (List Word)) (s : State) : Frame queuedFrom offQueues s (qPushDrop q p es s) := by
  have h : Frame queuedFrom noField s (qPush q p es s) := (qPush_frame q p es s).mono fun _ hp => hp.elim
  exact .of_rd (Frame.ite (fun _ => h.putAny _ _) fun _ => h).rest fun _ hg => qPushDrop_rd (noQueueReg_of_queueReg hg) q p es s

theorem qPushFixed_frame (b q : Nat) (p : Prod) (es : List (List Word)) (s : State) : Frame queuedFrom offQueues s (qPushFixed b q p es s) :=
  .ite (fun _ => qPushDrop_frame q p es s) fun _ => .refl s

end Sys2Proof.Machine
end

section
/-! PROOFS. What the triggers of contexts change (R336 to R338): the contexts and their registers. -/

namespace Sys2Proof.Machine

set_option Elab.async false

/-- `s` with its registers, its contexts and the triggers kept for a takeover taken from `t`. -/
def trigsFrom (s t : State) : State := { s with regs := t.regs, ctxs := t.ctxs, ltrigs := t.ltrigs }

theorem modCtx_frame {P : FldRef → Prop} (s : State) (c : Nat) (F : CtxSt → CtxSt) : Frame trigsFrom P s (s.modCtx c F) := .of_regs rfl rfl

theorem noteTrigs_frame {P : FldRef → Prop} (ts : List Trig) (s : State) : Frame trigsFrom P s (noteTrigs ts s) :=
  .ite (fun _ => .of_regs rfl rfl) fun _ => .refl s

/-- The contexts that a trigger can reach are the 160 of R332. -/
theorem lt_of_mem_enabledCtxs {s : State} {c : Nat} (h : c ∈ enabledCtxs s) : c < 160 := by
  simp only [enabledCtxs, List.mem_filter, List.mem_filterMap] at h
  obtain ⟨⟨p, -, hp⟩, -⟩ := h
  split at hp
  · cases hp
    omega
  · cases hp

section Trigs

variable {c : Nat} (hc : c < 160)

include hc

/-- A write of a register of context `c`. -/
theorem Frame.ctxWr {s t : State} (h : Frame trigsFrom offCtxs s t) (a : Nat) (w : Word)
    (ha : a / 0x100 = 0x400 + c := by simp only [Reg.CTX_STAT, Reg.CTX_RUNS, Reg.CTX_CNT, Reg.CTX_CKPT, Reg.CTX_TINFO]; omega) :
    Frame trigsFrom offCtxs s (Machine.wr a w t) :=
  h.wr a w fun p (hp : p.a < 0x40000 ∨ 0x4A000 ≤ p.a) => by omega

theorem Frame.ctxPut {s t : State} (h : Frame trigsFrom offCtxs s t) (g : FldRef) (v : Nat)
    (hg : g.a / 0x100 = 0x400 + c := by simp only [Reg.CTX_STAT, Reg.CTX_RUNS, Reg.CTX_CNT, Reg.CTX_CKPT, Reg.CTX_TINFO]; omega) :
    Frame trigsFrom offCtxs s (t.put g v) := h.ctxWr hc g.a _ hg

theorem trigLost_frame (s : State) : Frame trigsFrom offCtxs s (trigLost c s) :=
  ((Frame.refl s).ctxPut hc (.CTX_CNT_TRIG_LOST c) _).trans (modCtx_frame _ c _)

theorem writeCkpt_frame (r : Ckpt) (s : State) : Frame trigsFrom offCtxs s (writeCkpt c r s) :=
  .ite (fun _ => modCtx_frame s c _) fun _ =>
    (((modCtx_frame s c _).ctxPut hc (.CTX_CKPT_VALID c) _).ctxPut hc (.CTX_CKPT_ONCE c) _).ctxPut hc (.CTX_CKPT_OFFSET c) _

theorem ctxState_frame (st on : Nat) (s : State) : Frame trigsFrom offCtxs s (ctxState c st on s) :=
  ((Frame.refl s).ctxPut hc (.CTX_STAT_STATE c) _).ctxPut hc (.CTX_STAT_WAIT_ON c) _

theorem putTinfo_frame (r : TrigRec) (s : State) : Frame trigsFrom offCtxs s (putTinfo c r s) :=
  ((((Frame.refl s).ctxWr hc (Reg.CTX_TINFO c 0) _).ctxWr hc (Reg.CTX_TINFO c 1) _).ctxWr hc (Reg.CTX_TINFO c 2) _).ctxWr hc (Reg.CTX_TINFO c 3) _

theorem startRun_frame (r : TrigRec) (s : State) : Frame trigsFrom offCtxs s (startRun c r s) :=
  have h2 := (((ctxState_frame hc stReady 0 s).ctxPut hc (.CTX_STAT_PEND c) 0).ctxPut hc (.CTX_STAT_TKO c) 0).ctxPut hc (.CTX_STAT_ONCE_OPEN c) 0
  (((h2.ctxPut hc (.CTX_RUNS_RUNS c) _).trans (putTinfo_frame hc r _)).trans (modCtx_frame _ c _)).trans (writeCkpt_frame hc _ _)

theorem acceptTrig_frame (r : TrigRec) (kick : Bool) (s : State) : Frame trigsFrom offCtxs s (acceptTrig c r kick s) :=
  .ite (fun _ => .refl s) fun _ => .ite (fun _ => trigLost_frame hc s) fun _ =>
    .ite (fun _ => .ite (fun _ => trigLost_frame hc s) fun _ => ((Frame.refl s).ctxPut hc (.CTX_STAT_PEND c) 1).trans (modCtx_frame _ c _))
      fun _ => startRun_frame hc r s

end Trigs

theorem fireTrigs_frame (ts : List Trig) (s : State) : Frame trigsFrom offCtxs s (fireTrigs ts s) := by
  refine (noteTrigs_frame ts s).trans (.each _ _ _ fun c hc t => ?_)
  split
  · exact acceptTrig_frame (lt_of_mem_enabledCtxs hc) _ _ t
  · exact .refl t

end Sys2Proof.Machine
end

section
/-! PROOFS. What an event changes (R210 to R213, R218), and the diagnostic bits of a channel (R83). -/

namespace Sys2Proof.Machine

set_option Elab.async false

section Events

variable {P : FldRef → Prop}

/-- `EV_STAT` and `MOD_IRQ` are registers of events. -/
theorem ne_evStat {g : FldRef} (h : offEvents g) : g.a ≠ Reg.EV_STAT := fun e => by simp [offEvents, eventReg, e] at h
theorem ne_modIrq {g : FldRef} (h : offEvents g) : g.a ≠ Reg.MOD_IRQ := fun e => by simp [offEvents, eventReg, queueReg, e] at h

theorem Frame.queued {s t : State} (h : Frame queuedFrom offQueues s t) : Frame eventsFrom offEvents s t := h.mono fun _ => offQueues_of_offEvents

theorem raiseIrq_frame (b : Nat) (s : State) : Frame eventsFrom offEvents s (raiseIrq b s) := (Frame.refl s).put _ _ fun _ => ne_modIrq

theorem writePennant_frame (p : Prod) (w : List Word) (irq : Bool) (s : State) : Frame eventsFrom offEvents s (writePennant p w irq s) := by
  have hstat (t : State) (g : FldRef) (hg : g.a = Reg.EV_STAT) : Frame eventsFrom offEvents t (t.inc g) :=
    (Frame.refl t).put _ _ fun p hp => hg ▸ ne_evStat hp
  have hpush := ((qPush_frame (s.get .EV_CFG_PEN_Q) p [w] s).queued).trans (hstat _ .EV_STAT_PEN_CNT rfl)
  exact .ite (fun _ => .ite (fun _ => hpush.trans (raiseIrq_frame irqPen _)) fun _ => hpush) fun _ =>
    ((qPushFixed_frame 16 _ p [w] s).queued.trans (hstat _ .EV_STAT_PEN_LOST rfl)).trans (raiseIrq_frame irqPenDrop _)

/-- Dips alone change when something is brought into a bank (R218). -/
theorem dipPatch_frame (k : Nat) (F : KMap Word → KMap Word) (s : State) : Frame eventsFrom P s (dipPatch k F s) :=
  .each _ _ _ fun _ _ t => .ite (fun _ => .of_regs rfl rfl) fun _ => .refl t

theorem writePen_frame (p : Prod) (x : Pen) (s : State) : Frame eventsFrom offEvents s (writePen p x s) := by
  unfold writePen dipLevel
  exact (writePennant_frame p _ _ s).trans (dipPatch_frame _ _ _)

theorem raisePennants_frame (p : Prod) (l : List Pen) (s : State) : Frame eventsFrom offEvents s (raisePennants p l s) :=
  (Frame.each _ _ _ fun x _ t => writePen_frame p x t).trans ((fireTrigs_frame _ _).mono fun _ => offCtxs_of_offEvents)

end Events

section Diag

variable {n : Nat} {s : State}

/-- The registers of a channel are none of those that events change. -/
theorem offEvents_chan (hn : n < 256) {g : FldRef} (hg : g.a / 0x100 = 0x200 + n) : offEvents g := by
  simp only [offEvents, eventReg, queueReg, Reg.EV_STAT, Reg.MOD_IRQ, Bool.or_eq_false_iff, Bool.and_eq_false_iff, decide_eq_false_iff_not, beq_eq_false_iff_ne]
  omega

/-- A field of a channel's diagnostics fits them. -/
theorem get_diag_lt (s : State) (n : Nat) : s.get (.CH_DIAG_LATCHED n) < 2 ^ 12 ∧ s.get (.CH_DIAG_ACTIVE n) < 2 ^ 12 := ⟨get_lt _ _, get_lt _ _⟩

theorem get_latched_put (v : Nat) (h : v < 2 ^ 12) : (s.put (.CH_DIAG_LATCHED n) v).get (.CH_DIAG_LATCHED n) = v := by
  rw [get_put _ _ _ (by simp) (by simp)]
  exact Nat.mod_eq_of_lt h

theorem get_active_put (v : Nat) (h : v < 2 ^ 12) : (s.put (.CH_DIAG_ACTIVE n) v).get (.CH_DIAG_ACTIVE n) = v := by
  rw [get_put _ _ _ (by simp) (by simp)]
  exact Nat.mod_eq_of_lt h

theorem get_active_put_latched (v : Nat) : (s.put (.CH_DIAG_LATCHED n) v).get (.CH_DIAG_ACTIVE n) = s.get (.CH_DIAG_ACTIVE n) :=
  get_put_apart _ _ _ _ (by simp) (by simp) (by simp [FldRef.apart])

theorem get_latched_put_active (v : Nat) : (s.put (.CH_DIAG_ACTIVE n) v).get (.CH_DIAG_LATCHED n) = s.get (.CH_DIAG_LATCHED n) :=
  get_put_apart _ _ _ _ (by simp) (by simp) (by simp [FldRef.apart])

/-- What a channel's events and diagnostics change. -/
def offDiag (n : Nat) (g : FldRef) : Prop := offEvents g ∧ g.a ≠ Reg.CH_DIAG n

/-- What is not yet latched of `m`, latched. -/
theorem or_fresh {l m : Nat} (hm : m < 2 ^ 12) : l ||| (m &&& (0xFFF ^^^ l)) = l ||| m := by
  refine Nat.eq_of_testBit_eq fun i => ?_
  have h12 : m.testBit i = (m.testBit i && (0xFFF : Nat).testBit i) := by
    rw [← Nat.testBit_and, show (0xFFF : Nat) = 2 ^ 12 - 1 from rfl, Nat.and_two_pow_sub_one_eq_mod, Nat.mod_eq_of_lt hm]
  rw [Nat.testBit_or, Nat.testBit_or, Nat.testBit_and, Nat.testBit_xor, h12]
  cases l.testBit i <;> simp

/-- New latched bits of mask `m`: an event, with the bits latched (R83, R210). -/
theorem diagLatch_spec (hn : n < 256) {m : Nat} (hm : m < 2 ^ 12) (s : State) :
    Frame eventsFrom (offDiag n) s (diagLatch n m s) ∧
      (diagLatch n m s).get (.CH_DIAG_LATCHED n) = s.get (.CH_DIAG_LATCHED n) ||| m ∧
      (diagLatch n m s).get (.CH_DIAG_ACTIVE n) = s.get (.CH_DIAG_ACTIVE n) := by
  obtain ⟨hl, -⟩ := get_diag_lt s n
  have hfresh : s.get (.CH_DIAG_LATCHED n) ||| (m &&& (0xFFF ^^^ s.get (.CH_DIAG_LATCHED n))) = s.get (.CH_DIAG_LATCHED n) ||| m :=
    or_fresh hm
  have hev {t : State} (h : Frame eventsFrom offEvents (s.put (.CH_DIAG_LATCHED n) (s.get (.CH_DIAG_LATCHED n) ||| m)) t) :
      Frame eventsFrom (offDiag n) s t ∧ t.get (.CH_DIAG_LATCHED n) = s.get (.CH_DIAG_LATCHED n) ||| m ∧
        t.get (.CH_DIAG_ACTIVE n) = s.get (.CH_DIAG_ACTIVE n) := by
    have hoff (g : FldRef) (hg : g.a = Reg.CH_DIAG n) : offEvents g := offEvents_chan hn (by rw [hg, Reg.CH_DIAG]; omega)
    refine ⟨((Frame.refl s).put _ _ fun g hg => hg.2).trans (h.mono fun g hg => hg.1), ?_, ?_⟩
    · rw [h.get _ (hoff _ rfl), get_latched_put _ (Nat.or_lt_two_pow hl hm)]
    · rw [h.get _ (hoff _ rfl), get_active_put_latched]
  unfold diagLatch
  simp only
  split
  case isTrue h =>
    rw [h, Nat.or_zero] at hfresh
    exact ⟨.refl s, hfresh, rfl⟩
  case isFalse =>
    rw [hfresh]
    have hirq := raiseIrq_frame irqDiag (s.put (.CH_DIAG_LATCHED n) (s.get (.CH_DIAG_LATCHED n) ||| m))
    split
    · exact hev (hirq.trans (raisePennants_frame _ _ _))
    · exact hev hirq

/-- Active bits set, and latched with them (R83). -/
theorem diagSet_spec (hn : n < 256) {m : Nat} (hm : m < 2 ^ 12) (s : State) :
    Frame eventsFrom (offDiag n) s (diagSet n m s) ∧
      (diagSet n m s).get (.CH_DIAG_LATCHED n) = s.get (.CH_DIAG_LATCHED n) ||| m ∧
      (diagSet n m s).get (.CH_DIAG_ACTIVE n) = s.get (.CH_DIAG_ACTIVE n) ||| m := by
  obtain ⟨-, ha⟩ := get_diag_lt s n
  unfold diagSet
  split
  case isTrue h => simpa [h] using Frame.refl s
  case isFalse =>
    obtain ⟨hf, h1, h2⟩ := diagLatch_spec hn hm (s.put (.CH_DIAG_ACTIVE n) (s.get (.CH_DIAG_ACTIVE n) ||| m))
    refine ⟨((Frame.refl s).put _ _ fun g hg => hg.2).trans hf, ?_, ?_⟩
    · rw [h1, get_latched_put_active]
    · rw [h2, get_active_put _ (Nat.or_lt_two_pow ha hm)]

/-- A sum of truth values at places 0 to `k` − 1 has them as its bits. -/
theorem mk_bits (F : Nat → Bool) (k : Nat) :
    mk ((List.range k).map fun b => (b2n (F b), b)) < 2 ^ k ∧
      ∀ i, (mk ((List.range k).map fun b => (b2n (F b), b))).testBit i = (decide (i < k) && F i) := by
  have happ (l : List (Nat × Nat)) (x : Nat × Nat) : mk (l ++ [x]) = x.1 * 2 ^ x.2 + mk l := by
    induction l with
    | nil => simp [mk]
    | cons y l ih => simp only [List.cons_append, mk, ih]; omega
  induction k with
  | zero => simp [mk]
  | succ k ih =>
    obtain ⟨hlt, hbit⟩ := ih
    rw [List.range_succ, List.map_append, List.map_singleton, happ]
    simp only
    constructor
    · rw [pow_succ]
      cases F k
      · rw [show b2n false = 0 from rfl]; omega
      · rw [show b2n true = 1 from rfl]; omega
    · intro i
      rw [Nat.mul_comm, Nat.testBit_two_pow_mul_add _ hlt, hbit]
      rcases Nat.lt_trichotomy i k with h | rfl | h
      · simp [h, Nat.lt_succ_of_lt h]
      · cases F i <;> simp [b2n]
      · have hb : (b2n (F k)).testBit (i - k) = false := by
          refine Nat.testBit_lt_two_pow (lt_of_le_of_lt ?_ (Nat.one_lt_two_pow (by omega)))
          cases F k <;> decide
        simp [hb, show ¬ i < k by omega, show ¬ i < k + 1 by omega]

theorem testBit_diagNew (can : Nat → Bool) (s : State) (n m i : Nat) :
    (diagNew can s n m).testBit i = (decide (i < 12) && (m.testBit i && can i && !(s.get (.CH_DIAG_ACTIVE n)).testBit i)) :=
  (mk_bits _ 12).2 i

theorem diagNew_lt (can : Nat → Bool) (s : State) (n m : Nat) : diagNew can s n m < 2 ^ 12 := (mk_bits _ 12).1

end Diag

end Sys2Proof.Machine
end

section
/-! PROOFS. The status of a digital output (R74 to R79, R98): what follows from what holds, and what a refresh of it leaves. -/

namespace Sys2Proof.Machine

set_option Elab.async false

theorem ch_setCh (s : State) (n : Nat) (x : ChSt) (m : Nat) : (s.setCh n x).ch m = if m = n then x else s.ch m := kget_kset _ _ _ _ _

theorem ch_modCh (s : State) (n : Nat) (F : ChSt → ChSt) (m : Nat) : (s.modCh n F).ch m = if m = n then F (s.ch n) else s.ch m := ch_setCh _ _ _ _

@[simp] theorem ch_modCh_same (s : State) (n : Nat) (F : ChSt → ChSt) : (s.modCh n F).ch n = F (s.ch n) := by rw [ch_modCh, if_pos rfl]

theorem modCh_frame {P : FldRef → Prop} (s : State) (n : Nat) (F : ChSt → ChSt) : Frame outputsFrom P s (s.modCh n F) := .of_regs rfl rfl

@[simp] theorem ch_put (s : State) (f : FldRef) (v m : Nat) : (s.put f v).ch m = s.ch m := (rfl)

theorem Frame.tile {P : FldRef → Prop} {s t : State} (h : Frame outputsFrom P s t) (k : Nat) : t.tile k = s.tile k := by
  rw [h.rest]
  rfl

theorem Frame.clk {P : FldRef → Prop} {s t : State} (h : Frame outputsFrom P s t) : Machine.clk t = Machine.clk s := by
  rw [h.rest]
  rfl

theorem is_putB (s : State) (f : FldRef) (b : Bool) (h : f.lo ≤ f.hi) (h' : f.hi < 32) : (s.putB f b).is f = b := by
  rw [State.is, get_putB s f b h h']
  cases b <;> rfl

/-- A truth value written to another field. -/
theorem is_putB_apart (s : State) (f g : FldRef) (b : Bool) (h : f.lo ≤ f.hi) (h' : g.hi < 32) (d : f.apart g) : (s.putB f b).is g = s.is g := by
  rw [State.is, State.putB, get_put_apart s f g _ h h' d, State.is]

section Clear

variable (n : Nat) {b : Nat} (hb : b < 12) (s : State)

/-- The end of a condition clears its active bit alone (R83). -/
theorem get_active_diagClear : (diagClear n b s).get (.CH_DIAG_ACTIVE n) = s.get (.CH_DIAG_ACTIVE n) &&& (0xFFF ^^^ 2 ^ b) :=
  get_active_put _ (lt_of_le_of_lt Nat.and_le_left (get_diag_lt s n).2)

theorem get_latched_diagClear : (diagClear n b s).get (.CH_DIAG_LATCHED n) = s.get (.CH_DIAG_LATCHED n) := get_latched_put_active _

include hb in
theorem diagActive_diagClear (c : Nat) : diagActive (diagClear n b s) n c = (diagActive s n c && c != b) := by
  have hx : (0xFFF ^^^ 2 ^ b).testBit c = (decide (c < 12) && c != b) := by
    rw [Nat.testBit_xor, show (0xFFF : Nat) = 2 ^ 12 - 1 from rfl, Nat.testBit_two_pow_sub_one, Nat.testBit_two_pow]
    by_cases h : b = c
    · subst h; simp [hb]
    · simp [h, Ne.symm h]
  have hc : diagActive s n c = (diagActive s n c && decide (c < 12)) := by
    by_cases h : c < 12
    · simp [h]
    · have hlt : s.get (.CH_DIAG_ACTIVE n) < 2 ^ c := lt_of_lt_of_le (get_diag_lt s n).2 (Nat.pow_le_pow_right (by decide) (by omega))
      simp [h, diagActive, Nat.testBit_lt_two_pow hlt]
  rw [diagActive, get_active_diagClear, Nat.testBit_and, hx, ← Bool.and_assoc, ← diagActive, ← hc]

end Clear

section Output

variable {n m : Nat} {s : State}

theorem partner_partner (n : Nat) : partner (partner n) = n := by
  unfold partner
  split <;> split <;> omega

theorem partner_ne (n : Nat) : partner n ≠ n := by
  unfold partner
  split <;> omega

theorem partner_lt (hn : n < 256) : partner n < 256 := by
  unfold partner
  split <;> omega

theorem paired_partner (s : State) (n : Nat) : paired s (partner n) = paired s n := by
  rw [paired, partner_partner, Bool.and_comm, paired]

/-- The refresh of output `n` before it ends OPEN_OFF or OPEN_ON: the switch, and the four fields of its status (R98). -/
def doStatus (n : Nat) (s : State) : State :=
  (((((countOn n s).modCh n (doSwitch s n (doOn s n))).putB (.CH_DO_STATE_OUT n) (doOn s n)).putB (.CH_DO_STATE_LOCKED n) (doLocked s n)).putB
    (.CH_DO_STATE_PAIRED n) (paired s n)).putB (.CH_DO_STATE_SAFE n) (s.is (.TILE_SAFE_ACTIVE (tileOf n)))

theorem doRefresh1_eq (n : Nat) (s : State) : doRefresh1 n s = diagClear n (if doOn s n then dgOpenOff else dgOpenOn) (doStatus n s) := rfl

/-- A field that the status of output `n` does not show, and one that neither it nor the output's active bits do. -/
def offStatus (n : Nat) (g : FldRef) : Prop :=
  g.hi < 32 ∧ (FldRef.CH_DO_ONTIME_SEC n).apart g ∧ (FldRef.CH_DO_STATE_OUT n).apart g ∧ (FldRef.CH_DO_STATE_LOCKED n).apart g ∧
    (FldRef.CH_DO_STATE_PAIRED n).apart g ∧ (FldRef.CH_DO_STATE_SAFE n).apart g
def offOutput (n : Nat) (g : FldRef) : Prop := offStatus n g ∧ (FldRef.CH_DIAG_ACTIVE n).apart g

theorem doStatus_frame (n : Nat) (s : State) : Frame outputsFrom (offStatus n) s (doStatus n s) := by
  have h0 : Frame outputsFrom (offStatus n) s (countOn n s) :=
    ((Frame.refl s).putApart (.CH_DO_ONTIME_SEC n) _ (by simp) fun g hg => ⟨hg.2.1, hg.1⟩).trans (modCh_frame _ n _)
  have h1 : Frame outputsFrom (offStatus n) s ((countOn n s).modCh n (doSwitch s n (doOn s n))) := h0.trans (modCh_frame _ n _)
  refine (((h1.putApart (.CH_DO_STATE_OUT n) _ le_rfl ?_).putApart (.CH_DO_STATE_LOCKED n) _ le_rfl ?_).putApart (.CH_DO_STATE_PAIRED n) _
    le_rfl ?_).putApart (.CH_DO_STATE_SAFE n) _ le_rfl ?_
  all_goals
    rintro g ⟨hg, -, h1, h2, h3, h4⟩
    exact ⟨by assumption, hg⟩

/-- A refresh changes the channel's record, the fields of its status, and its active bits. -/
theorem doRefresh1_frame (n : Nat) (s : State) : Frame outputsFrom (offOutput n) s (doRefresh1 n s) :=
  ((doStatus_frame n s).mono fun _ => And.left).putApart (.CH_DIAG_ACTIVE n) _ (by simp) fun _ hg => ⟨hg.2, hg.1.1⟩

/-- Registers that are none of an output's status. -/
theorem offOutput_of_reg {g : FldRef} (h : outputReg n g.a = false) (hg : g.hi < 32) : offOutput n g := by
  simp only [outputReg, Bool.or_eq_false_iff, beq_eq_false_iff_ne] at h
  obtain ⟨⟨h1, h2⟩, h3⟩ := h
  exact ⟨⟨hg, .inl (Ne.symm h2), .inl (Ne.symm h1), .inl (Ne.symm h1), .inl (Ne.symm h1), .inl (Ne.symm h1)⟩, .inl (Ne.symm h3)⟩

theorem ne_chDiag_of_outputReg {a : Nat} (h : ¬ (outputReg n a = true)) : a ≠ Reg.CH_DIAG n := by
  rintro rfl
  simp [outputReg] at h

theorem ne_doState_of_outputReg {a : Nat} (h : ¬ (outputReg n a = true)) : a ≠ Reg.CH_DO_STATE n := by
  rintro rfl
  simp [outputReg] at h

/-- Fields of registers below the channels', and of a channel's settings and commands. -/
theorem offOutput_of_mod {g : FldRef} (h : g.a < 0x20000 ∨ g.a % 0x100 ≠ 0x04 ∧ g.a % 0x100 ≠ 0x48 ∧ g.a % 0x100 ≠ 0x50) (hg : g.hi < 32) :
    offOutput n g := by
  refine offOutput_of_reg ?_ hg
  simp only [outputReg, Bool.or_eq_false_iff, beq_eq_false_iff_ne, Reg.CH_DO_STATE, Reg.CH_DO_ONTIME, Reg.CH_DIAG]
  omega

theorem offOutput_tsd (n m : Nat) : offOutput n (.CH_DO_STATE_TSD m) := by
  simp only [offOutput, offStatus, FldRef.apart, Reg.CH_DO_STATE, Reg.CH_DO_ONTIME, Reg.CH_DIAG]
  omega

theorem offOutput_latched (n m : Nat) : offOutput n (.CH_DIAG_LATCHED m) := by
  simp only [offOutput, offStatus, FldRef.apart, Reg.CH_DO_STATE, Reg.CH_DO_ONTIME, Reg.CH_DIAG]
  omega

/-- The channels' records after a refresh: output `n`'s switch, the others as before. -/
theorem ch_doRefresh1 (n : Nat) (s : State) (m : Nat) : (doRefresh1 n s).ch m =
    if m = n then doSwitch s n (doOn s n) { s.ch n with onRem := onTicks s n % tickS, onMark := clk s } else s.ch m := by
  rw [doRefresh1_eq]
  unfold diagClear doStatus State.putB
  simp only [ch_put, ch_modCh, countOn, State.addSat]
  split <;> simp

@[simp] theorem lock75_doRefresh1 (n : Nat) (s : State) (m : Nat) : ((doRefresh1 n s).ch m).lock75 = (s.ch m).lock75 := by
  rw [ch_doRefresh1]
  split <;> simp [*, doSwitch]

@[simp] theorem heldOut_doRefresh1 (n : Nat) (s : State) (m : Nat) : ((doRefresh1 n s).ch m).heldOut = (s.ch m).heldOut := by
  rw [ch_doRefresh1]
  split <;> simp [*, doSwitch]

theorem get_latched_doRefresh1 (n : Nat) (s : State) (m : Nat) : (doRefresh1 n s).get (.CH_DIAG_LATCHED m) = s.get (.CH_DIAG_LATCHED m) :=
  (doRefresh1_frame n s).get _ (offOutput_latched n m)

@[simp] theorem diagLatched_doRefresh1 (n : Nat) (s : State) (m b : Nat) : diagLatched (doRefresh1 n s) m b = diagLatched s m b := by
  rw [diagLatched, get_latched_doRefresh1, diagLatched]

@[simp] theorem tsd_doRefresh1 (n : Nat) (s : State) (m : Nat) : (doRefresh1 n s).is (.CH_DO_STATE_TSD m) = s.is (.CH_DO_STATE_TSD m) :=
  (doRefresh1_frame n s).is _ (offOutput_tsd n m)

@[simp] theorem pair_doRefresh1 (n : Nat) (s : State) (m : Nat) : (doRefresh1 n s).is (.CH_DO_CFG_PAIR m) = s.is (.CH_DO_CFG_PAIR m) :=
  (doRefresh1_frame n s).is _ (offOutput_of_mod (by simp only [Reg.CH_DO_CFG]; omega) (by simp))

@[simp] theorem safeCfg_doRefresh1 (n : Nat) (s : State) (m : Nat) : (doRefresh1 n s).get (.CH_DO_CFG_SAFE m) = s.get (.CH_DO_CFG_SAFE m) :=
  (doRefresh1_frame n s).get _ (offOutput_of_mod (by simp only [Reg.CH_DO_CFG]; omega) (by simp))

@[simp] theorem cmdOn_doRefresh1 (n : Nat) (s : State) (m : Nat) : (doRefresh1 n s).is (.CH_DO_CMD_ON m) = s.is (.CH_DO_CMD_ON m) :=
  (doRefresh1_frame n s).is _ (offOutput_of_mod (by simp only [Reg.CH_DO_CMD]; omega) (by simp))

@[simp] theorem tile_doRefresh1 (n : Nat) (s : State) (t : Nat) : (doRefresh1 n s).tile t = s.tile t :=
  (doRefresh1_frame n s).tile t

@[simp] theorem clk_doRefresh1 (n : Nat) (s : State) : clk (doRefresh1 n s) = clk s := (doRefresh1_frame n s).clk

/-- A refresh of an output leaves what a tile shows of its safe state. -/
theorem tileSafe_doRefresh1 (n : Nat) (s : State) {t : Nat} (ht : t < 16) (g : FldRef) (hg : g.a = Reg.TILE_SAFE t) (hi : g.hi < 32) :
    (doRefresh1 n s).is g = s.is g :=
  (doRefresh1_frame n s).is g (offOutput_of_mod (by rw [hg, Reg.TILE_SAFE]; omega) hi)

/-- A refresh ends OPEN_OFF or OPEN_ON of its output alone (R84). -/
theorem diagActive_doRefresh1 (n : Nat) (s : State) (m b : Nat) : diagActive (doRefresh1 n s) m b =
    (diagActive s m b && !(m == n && b == if doOn s n then dgOpenOff else dgOpenOn)) := by
  by_cases h : m = n
  · subst h
    have hb : (if doOn s m then dgOpenOff else dgOpenOn) < 12 := by split <;> decide
    have ha : offStatus m (.CH_DIAG_ACTIVE m) := by
      simp only [offStatus, FldRef.apart, Reg.CH_DO_STATE, Reg.CH_DO_ONTIME, Reg.CH_DIAG]
      omega
    rw [doRefresh1_eq, diagActive_diagClear _ hb, diagActive, (doStatus_frame m s).get _ ha, ← diagActive, beq_self_eq_true, Bool.true_and, bne]
  · have ha : offOutput n (.CH_DIAG_ACTIVE m) := by
      simp only [offOutput, offStatus, FldRef.apart, Reg.CH_DO_STATE, Reg.CH_DO_ONTIME, Reg.CH_DIAG]
      omega
    simp [diagActive, (doRefresh1_frame n s).get _ ha, h]

theorem noSupply_doRefresh1 (n : Nat) (s : State) (m : Nat) : diagActive (doRefresh1 n s) m dgNoSupply = diagActive s m dgNoSupply := by
  rw [diagActive_doRefresh1]
  split <;> simp [dgNoSupply, dgOpenOff, dgOpenOn]

/-- What keeps an output off is none of what a refresh writes. -/
@[simp] theorem doPrevented_doRefresh1 (n : Nat) (s : State) (m : Nat) : doPrevented (doRefresh1 n s) m = doPrevented s m := by
  simp [doPrevented, doLocked, noSupply_doRefresh1]

/-- Whether an output conducts follows from what no refresh writes. -/
theorem doOn_doRefresh1 (n : Nat) (s : State) (hm : m < 256) : doOn (doRefresh1 n s) m = doOn s m := by
  have ht : tileOf m < 16 := by unfold tileOf; omega
  simp [doOn, doWanted, govern, paired, tileSafe_doRefresh1 n s ht]

theorem out_doRefresh1 (n : Nat) (s : State) : (doRefresh1 n s).is (.CH_DO_STATE_OUT n) = doOn s n := by
  rw [doRefresh1_eq, State.is, diagClear, get_put_ne _ _ _ _ (by simp only [Reg.CH_DO_STATE, Reg.CH_DIAG]; omega), ← State.is]
  unfold doStatus
  iterate 3 rw [is_putB_apart _ _ _ _ (by simp) (by simp) (by simp [FldRef.apart])]
  exact is_putB _ _ _ (by simp) (by simp)

theorem out_doRefresh1_ne (h : m ≠ n) (s : State) : (doRefresh1 n s).is (.CH_DO_STATE_OUT m) = s.is (.CH_DO_STATE_OUT m) := by
  refine (doRefresh1_frame n s).is _ (offOutput_of_reg ?_ (by simp))
  simp only [outputReg, Bool.or_eq_false_iff, beq_eq_false_iff_ne, Reg.CH_DO_STATE, Reg.CH_DO_ONTIME, Reg.CH_DIAG]
  omega

/-- What the refresh of an output and its partner leaves. -/
def offPair (n : Nat) (g : FldRef) : Prop := offOutput n g ∧ offOutput (partner n) g

theorem doRefresh_frame (n : Nat) (s : State) : Frame outputsFrom (offPair n) s (doRefresh n s) :=
  ((doRefresh1_frame n s).mono fun _ => And.left).trans ((doRefresh1_frame (partner n) _).mono fun _ => And.right)

theorem offPair_of_reg {a : Nat} (h : ¬ (outputReg n a = true)) (h' : ¬ (outputReg (partner n) a = true)) : offPair n ⟨a, 31, 0⟩ :=
  ⟨offOutput_of_reg (by simpa using h) (by simp), offOutput_of_reg (by simpa using h') (by simp)⟩

theorem offPair_of_mod {g : FldRef} (h : g.a < 0x20000 ∨ g.a % 0x100 ≠ 0x04 ∧ g.a % 0x100 ≠ 0x48 ∧ g.a % 0x100 ≠ 0x50) (hg : g.hi < 32) :
    offPair n g := ⟨offOutput_of_mod h hg, offOutput_of_mod h hg⟩

theorem doOn_doRefresh (n : Nat) (s : State) (hm : m < 256) : doOn (doRefresh n s) m = doOn s m := by
  rw [doRefresh, doOn_doRefresh1 _ _ hm, doOn_doRefresh1 _ _ hm]

/-- After a refresh OUT shows whether the output conducts (R98). -/
theorem out_doRefresh (hn : n < 256) (s : State) : (doRefresh n s).is (.CH_DO_STATE_OUT n) = doOn (doRefresh n s) n := by
  rw [doOn_doRefresh _ _ hn, doRefresh, out_doRefresh1_ne (partner_ne n).symm, out_doRefresh1]

theorem out_doRefresh_partner (hn : n < 256) (s : State) :
    (doRefresh n s).is (.CH_DO_STATE_OUT (partner n)) = doOn (doRefresh n s) (partner n) := by
  rw [doOn_doRefresh _ _ (partner_lt hn), doRefresh, out_doRefresh1, doOn_doRefresh1 _ _ (partner_lt hn)]

@[simp] theorem lock75_doRefresh (n : Nat) (s : State) (m : Nat) : ((doRefresh n s).ch m).lock75 = (s.ch m).lock75 := by simp [doRefresh]

@[simp] theorem tsd_doRefresh (n : Nat) (s : State) (m : Nat) : (doRefresh n s).is (.CH_DO_STATE_TSD m) = s.is (.CH_DO_STATE_TSD m) := by simp [doRefresh]

theorem get_latched_doRefresh (n : Nat) (s : State) (m : Nat) : (doRefresh n s).get (.CH_DIAG_LATCHED m) = s.get (.CH_DIAG_LATCHED m) := by
  rw [doRefresh, get_latched_doRefresh1, get_latched_doRefresh1]

/-- A refresh of a pair leaves the output's active bits, but OPEN_OFF or OPEN_ON. -/
theorem diagActive_doRefresh (n : Nat) (s : State) (b : Nat) : diagActive (doRefresh n s) n b =
    (diagActive s n b && b != if doOn s n then dgOpenOff else dgOpenOn) := by
  have h : (n == partner n) = false := by simpa using (partner_ne n).symm
  rw [doRefresh, diagActive_doRefresh1, diagActive_doRefresh1, h, Bool.false_and, Bool.not_false, Bool.and_true, beq_self_eq_true, Bool.true_and, bne]

/-- An output that something keeps off does not conduct (R75, R76), and neither does its partner in a pair (R82). -/
theorem doOn_of_prevented (h : doPrevented s n = true) : doOn s n = false := by simp [doOn, h]
theorem doOn_partner_of_prevented (h : doPrevented s n = true) (hp : paired s n = true) : doOn s (partner n) = false := by
  simp [doOn, paired_partner, partner_partner, h, hp]

end Output

end Sys2Proof.Machine
end

section
/-! PROOFS. The commands to digital outputs (R74 to R79, R82): what each one answers, and the statement of their family. -/

namespace Sys2Proof.Machine

set_option Elab.async false

section Commands

variable {n m : Nat} {on : Bool} {s t u : State}

/-- Output `m` is commanded (R74, R75, R79): its state, its count of switchings, its lock. -/
def Commanded (on : Bool) (m : Nat) (s t : State) : Prop :=
  t.is (.CH_DO_CMD_ON m) = on ∧
  t.get (.CH_DO_SWCNT_CNT m) = (if on = true ∧ s.is (.CH_DO_CMD_ON m) = false then min (s.get (.CH_DO_SWCNT_CNT m) + 1) 0xFFFFFFFF
    else s.get (.CH_DO_SWCNT_CNT m)) ∧
  (t.ch m).lock75 = (on && (s.ch m).lock75)

/-- What of output `m` a command touches is the same in both states. -/
def SameCommand (m : Nat) (s t : State) : Prop :=
  t.is (.CH_DO_CMD_ON m) = s.is (.CH_DO_CMD_ON m) ∧ t.get (.CH_DO_SWCNT_CNT m) = s.get (.CH_DO_SWCNT_CNT m) ∧ (t.ch m).lock75 = (s.ch m).lock75

theorem Commanded.of_same_before (h : SameCommand m s t) (k : Commanded on m t u) : Commanded on m s u := by
  obtain ⟨h1, h2, h3⟩ := h
  rwa [Commanded, h1, h2, h3] at k

theorem Commanded.then_same (h : Commanded on m s t) (k : SameCommand m t u) : Commanded on m s u := by
  obtain ⟨h1, h2, h3⟩ := k
  rwa [Commanded, h1, h2, h3]

/-- What a command to output `n` leaves. -/
def offCommand (n : Nat) (g : FldRef) : Prop := g.hi < 32 ∧ g.a ≠ Reg.CH_DO_CMD n ∧ g.a ≠ Reg.CH_DO_SWCNT n ∧ (FldRef.CH_DIAG_ACTIVE n).apart g

theorem offCommand_of_ne (h : m ≠ n) : offCommand n (.CH_DO_CMD_ON m) ∧ offCommand n (.CH_DO_SWCNT_CNT m) := by
  simp only [offCommand, FldRef.apart, Reg.CH_DO_CMD, Reg.CH_DO_SWCNT, Reg.CH_DIAG]
  omega

theorem doSet1_frame (n : Nat) (on : Bool) (s : State) : Frame outputsFrom (offCommand n) s (doSet1 n on s) := by
  have h1 : Frame outputsFrom (offCommand n) s (if on && !s.is (.CH_DO_CMD_ON n) then s.inc (.CH_DO_SWCNT_CNT n) else s) :=
    .ite (fun _ => (Frame.refl s).put _ _ fun g hg => hg.2.2.1) fun _ => .refl s
  have h2 := h1.put (.CH_DO_CMD_ON n) (b2n on) fun g hg => hg.2.1
  exact .ite (fun _ => h2.putApart (.CH_DIAG_ACTIVE n) _ (by simp) fun g hg => ⟨hg.2.2.2, hg.1⟩) fun _ => h2.trans (modCh_frame _ n _)

theorem doSet1_on (n : Nat) (s : State) : doSet1 n true s =
    diagClear n dgShortVf ((if s.is (.CH_DO_CMD_ON n) = false then s.inc (.CH_DO_SWCNT_CNT n) else s).putB (.CH_DO_CMD_ON n) true) := by simp [doSet1]

theorem doSet1_off (n : Nat) (s : State) :
    doSet1 n false s = (s.putB (.CH_DO_CMD_ON n) false).modCh n (fun x => { x with lock75 := false }) := by simp [doSet1]

theorem ch_doSet1 (n : Nat) (on : Bool) (s : State) (m : Nat) :
    (doSet1 n on s).ch m = if m = n ∧ on = false then { s.ch m with lock75 := false } else s.ch m := by
  cases on with
  | true =>
    rw [doSet1_on, diagClear, ch_put, State.putB, ch_put]
    by_cases h : s.is (.CH_DO_CMD_ON n) = false <;> simp [h, State.inc, State.addSat]
  | false =>
    rw [doSet1_off, ch_modCh, State.putB, ch_put, ch_put]
    by_cases h : m = n <;> simp [h]

theorem doSet1_commands (n : Nat) (on : Bool) (s : State) : Commanded on n s (doSet1 n on s) := by
  have hcnt (t : State) : (t.putB (.CH_DO_CMD_ON n) on).get (.CH_DO_SWCNT_CNT n) = t.get (.CH_DO_SWCNT_CNT n) :=
    get_put_ne _ _ _ _ (by simp only [Reg.CH_DO_SWCNT, Reg.CH_DO_CMD]; omega)
  refine ⟨?cmd, ?cnt, by rw [ch_doSet1]; cases on <;> simp⟩
  all_goals cases on
  case cmd.true =>
    rw [doSet1_on, diagClear, State.is, get_put_ne _ _ _ _ (by simp only [Reg.CH_DO_CMD, Reg.CH_DIAG]; omega), ← State.is]
    exact is_putB _ _ _ (by simp) (by simp)
  case cmd.false =>
    rw [doSet1_off, State.is, State.modCh_get, ← State.is]
    exact is_putB _ _ _ (by simp) (by simp)
  case cnt.true =>
    rw [doSet1_on, diagClear, get_put_ne _ _ _ _ (by simp only [Reg.CH_DO_SWCNT, Reg.CH_DIAG]; omega), hcnt]
    by_cases h : s.is (.CH_DO_CMD_ON n) = false
    · rw [if_pos h, if_pos ⟨rfl, h⟩]
      exact get_inc _ _ (by simp) (by simp)
    · rw [if_neg h, if_neg fun e => h e.2]
  case cnt.false =>
    rw [doSet1_off, State.modCh_get, hcnt, if_neg (by simp)]

theorem doSet1_same (h : m ≠ n) (on : Bool) (s : State) : SameCommand m s (doSet1 n on s) := by
  obtain ⟨h1, h2⟩ := offCommand_of_ne h
  exact ⟨(doSet1_frame n on s).is _ h1, (doSet1_frame n on s).get _ h2, by rw [ch_doSet1, if_neg fun e => h e.1]⟩

theorem doRefresh_same (n : Nat) (s : State) (m : Nat) : SameCommand m s (doRefresh n s) :=
  ⟨(doRefresh_frame n s).is _ (offPair_of_mod (by simp only [Reg.CH_DO_CMD]; omega) (by simp)),
    (doRefresh_frame n s).get _ (offPair_of_mod (by simp only [Reg.CH_DO_SWCNT]; omega) (by simp)), by simp⟩

end Commands

section Exec

variable {s : State} {r : Req} {n : Fin 256} {w : Word}

theorem exec_doCmdWrite (hn : isDO n = true) (ha : Admitted s r (Reg.CH_DO_CMD n) Msk.CH_DO_CMD) :
    exec (.doCmdWrite r n w) s = .next (doCmd n (bitAt w 0) s) := by
  show execDoCmdWrite r n w s = _
  rw [execDoCmdWrite, if_pos hn, regWrite_admitted _ _ _ _ _ _ ha]

/-- A command to an output that is in no pair (R74). -/
theorem doCmd_unpaired {n : Nat} {on : Bool} (hp : paired s n = false) : doCmd n on s = doRefresh n (doSet1 n on s) := by
  simp [doCmd, doRefused, hp]

theorem doCmd_lower {n : Nat} {on : Bool} (hp : paired s n = true) (h : n % 2 = 0) :
    doCmd n on s = doRefresh n (doSet1 n on (doSet1 (n + 1) on s)) := by
  simp [doCmd, doRefused, hp, h]

theorem doCmd_upper {n : Nat} {on : Bool} (hp : paired s n = true) (h : n % 2 = 1) :
    doCmd n on s = if on = s.is (.CH_DO_CMD_ON (n - 1)) then s else pairConflict n s := by
  simp [doCmd, doRefused, hp, h, lowerOf]

/-- DO_CMD_WRITE of an unpaired output (R74, R75, R79). -/
theorem doCmdWrite_unpaired (hn : isDO n = true) (hp : paired s n = false) (ha : Admitted s r (Reg.CH_DO_CMD n) Msk.CH_DO_CMD) :
    ∃ t, exec (.doCmdWrite r n w) s = .next t ∧ Commanded (bitAt w 0) n s t ∧ t.is (.CH_DO_STATE_OUT n) = doOn t n ∧
      Frame outputsFrom (fun g => offCommand n g ∧ offPair n g) s t := by
  refine ⟨_, (exec_doCmdWrite hn ha).trans (congrArg _ (doCmd_unpaired hp)), ?_, out_doRefresh n.isLt _, ?_⟩
  · exact (doSet1_commands _ _ _).then_same (doRefresh_same _ _ _)
  · exact ((doSet1_frame _ _ _).mono fun _ => And.left).trans ((doRefresh_frame _ _).mono fun _ => And.right)

/-- DO_CMD_WRITE of the lower member of a pair acts on both members (R82). -/
theorem doCmdWrite_lower {m : Nat} (hn : isDO n = true) (hp : paired s n = true) (h : n.val % 2 = 0) (hm : m = n ∨ m = n + 1)
    (ha : Admitted s r (Reg.CH_DO_CMD n) Msk.CH_DO_CMD) :
    ∃ t, exec (.doCmdWrite r n w) s = .next t ∧ Commanded (bitAt w 0) m s t ∧ t.is (.CH_DO_STATE_OUT m) = doOn t m := by
  have hpart : partner n = n + 1 := if_pos h
  refine ⟨_, (exec_doCmdWrite hn ha).trans (congrArg _ (doCmd_lower hp h)), ?_⟩
  rcases hm with rfl | rfl
  · exact ⟨.of_same_before (doSet1_same (by omega) _ _) ((doSet1_commands _ _ _).then_same (doRefresh_same _ _ _)), out_doRefresh n.isLt _⟩
  · exact ⟨((doSet1_commands _ _ _).then_same (doSet1_same (by omega) _ _)).then_same (doRefresh_same _ _ _), hpart ▸ out_doRefresh_partner n.isLt _⟩

end Exec

section Thermal

variable {s : State} {n : Nat}

/-- A row of shutdowns ends where the output had conducted for 1 s when it stops (R75). -/
theorem tsdRow_doRefresh (n : Nat) (s : State) : ((doRefresh n s).ch n).tsdRow =
    if s.is (.CH_DO_STATE_OUT n) = true ∧ (s.ch n).onSince + tickS ≤ clk s ∧ doOn s n = false then 0 else (s.ch n).tsdRow := by
  rw [doRefresh, ch_doRefresh1, if_neg (partner_ne n).symm, ch_doRefresh1, if_pos rfl]
  simp [doSwitch, and_assoc]

theorem countShutdown_frame {P : FldRef → Prop} (n : Nat) (s : State) : Frame outputsFrom P s (countShutdown n s) := by
  unfold countShutdown
  exact modCh_frame s n _

/-- What THERMAL_SHUTDOWN answers for an output that conducts (R75). -/
def shutDown (n : Nat) (s : State) : State := doRefresh n (countShutdown n (doRefresh n (s.set1 (.CH_DO_STATE_TSD n))))

theorem shutDown_frame (n : Nat) (s : State) :
    Frame outputsFrom (fun g => offPair n g ∧ g.a ≠ Reg.CH_DO_STATE n) s (shutDown n s) :=
  (((Frame.refl s).put _ _ fun _ hg => hg.2).trans ((doRefresh_frame n _).mono fun _ => And.left)).trans
    ((countShutdown_frame n _).trans ((doRefresh_frame n _).mono fun _ => And.left))

theorem tsd_shutDown (n : Nat) (s : State) : (shutDown n s).is (.CH_DO_STATE_TSD n) = true := by
  rw [shutDown, tsd_doRefresh, (countShutdown_frame (P := fun _ => True) n _).is _ trivial, tsd_doRefresh]
  exact is_set1 _ _ (by simp) (by simp)

/-- A thermal shutdown keeps an output off (R75). -/
theorem doOn_of_tsd (h : s.is (.CH_DO_STATE_TSD n) = true) : doOn s n = false := doOn_of_prevented (by simp [doPrevented, h])

theorem out_shutDown (hn : n < 256) (s : State) : (shutDown n s).is (.CH_DO_STATE_OUT n) = false := by
  have h := tsd_shutDown n s
  rw [shutDown] at h ⊢
  rw [out_doRefresh hn, doOn_of_tsd h]

theorem paired_of_frame {f : State → State → State} {P : FldRef → Prop} {t : State} (h : Frame f P s t) (hP : ∀ m, P (.CH_DO_CFG_PAIR m)) (n : Nat) :
    paired t n = paired s n := by
  rw [paired, h.is _ (hP n), h.is _ (hP _), paired]

theorem paired_shutDown (n : Nat) (s : State) (m : Nat) : paired (shutDown n s) m = paired s m :=
  paired_of_frame (shutDown_frame n s) (fun k => ⟨offPair_of_mod (by simp only [Reg.CH_DO_CFG]; omega) (by simp),
    by simp only [Reg.CH_DO_CFG, Reg.CH_DO_STATE]; omega⟩) m

theorem out_partner_shutDown (hn : n < 256) (hp : paired s n = true) : (shutDown n s).is (.CH_DO_STATE_OUT (partner n)) = false := by
  have hp' := (paired_shutDown n s n).trans hp
  have h := tsd_shutDown n s
  rw [shutDown] at h hp' ⊢
  rw [out_doRefresh_partner hn, doOn_partner_of_prevented (by simp [doPrevented, h]) hp']

/-- The shutdown is counted in its row, from 1 on after 1 s of conduction; the sixteenth locks the output (R75). -/
theorem ch_shutDown (hn : n < 256) (ho : s.is (.CH_DO_STATE_OUT n) = true) :
    ((shutDown n s).ch n).tsdRow = (if (s.ch n).onSince + tickS ≤ clk s then 1 else (s.ch n).tsdRow + 1) ∧
      (16 ≤ ((shutDown n s).ch n).tsdRow → ((shutDown n s).ch n).lock75 = true) := by
  have htsd : (s.set1 (.CH_DO_STATE_TSD n)).is (.CH_DO_STATE_TSD n) = true := is_set1 _ _ (by simp) (by simp)
  have hout : (s.set1 (.CH_DO_STATE_TSD n)).is (.CH_DO_STATE_OUT n) = true :=
    (congrArg (· == 1) (get_put_apart _ _ _ _ (by simp) (by simp) (by simp [FldRef.apart]))).trans ho
  have hch : (s.set1 (.CH_DO_STATE_TSD n)).ch n = s.ch n := ch_put _ _ _ _
  have hclk : clk (s.set1 (.CH_DO_STATE_TSD n)) = clk s := rfl
  have hrow := tsdRow_doRefresh n (s.set1 (.CH_DO_STATE_TSD n))
  have hoff := out_doRefresh hn (s.set1 (.CH_DO_STATE_TSD n))
  rw [doOn_doRefresh _ _ hn, doOn_of_tsd htsd] at hoff
  rw [hout, doOn_of_tsd htsd, hch, hclk] at hrow
  unfold shutDown
  generalize doRefresh n (s.set1 (.CH_DO_STATE_TSD n)) = u at hrow hoff
  have hcnt : ((countShutdown n u).ch n).tsdRow = (u.ch n).tsdRow + 1 ∧
      ((countShutdown n u).ch n).lock75 = ((u.ch n).lock75 || decide (16 ≤ (u.ch n).tsdRow + 1)) := by
    simp [countShutdown]
  rw [tsdRow_doRefresh, lock75_doRefresh, (countShutdown_frame (P := fun _ => True) n u).is _ trivial, hoff, if_neg (by simp), hcnt.1, hcnt.2, hrow]
  refine ⟨?_, fun h => by rw [decide_eq_true h, Bool.or_true]⟩
  by_cases h : (s.ch n).onSince + tickS ≤ clk s <;> simp [h]

theorem exec_thermalShutdown {n : Fin 256} (hn : isDO n = true) (ho : s.is (.CH_DO_STATE_OUT n) = true) :
    exec (.thermalShutdown n) s = .next (shutDown n s) := by
  show execThermalShutdown n s = _
  rw [execThermalShutdown, if_pos (by simp [hn, ho])]
  rfl

/-- What THERMAL_RESTART answers (R75). -/
theorem exec_thermalRestart {n : Fin 256} (hn : isDO n = true) (ht : s.is (.CH_DO_STATE_TSD n) = true) (hk : (s.ch n).tsdAt + tick10Ms ≤ clk s) :
    exec (.thermalRestart n) s = .next (doRefresh n (s.put (.CH_DO_STATE_TSD n) 0)) := by
  show execThermalRestart n s = _
  rw [execThermalRestart, if_pos (by simp [hn, ht, hk])]

theorem tsd_put_zero (n : Nat) (s : State) : (s.put (.CH_DO_STATE_TSD n) 0).is (.CH_DO_STATE_TSD n) = false := by
  rw [State.is, get_put _ _ _ (by simp) (by simp)]
  rfl

end Thermal

section Clamp

variable {s : State} {n : Nat} {e : Nat}

/-- The energy of a clamping event, stored and added up (R76, R99). -/
def clampNoted (n e : Nat) (s : State) : State :=
  ((s.put (.CH_DO_CLAMP_LAST_E n) (min e 0xFFFF)).addSat (.CH_DO_CLAMP_SUM_SUM n) (((s.ch n).clampRem + e) / 100)).modCh n
    (fun x => { x with clampRem := ((s.ch n).clampRem + e) % 100 })

/-- What the energy of a clamping event leaves. -/
def offClamp (n : Nat) (g : FldRef) : Prop := g.a ≠ Reg.CH_DO_CLAMP n ∧ g.a ≠ Reg.CH_DO_CLAMP_SUM n

theorem clampNoted_frame (n e : Nat) (s : State) : Frame outputsFrom (offClamp n) s (clampNoted n e s) :=
  (((Frame.refl s).put _ _ fun _ hg => hg.1).put _ _ fun _ hg => hg.2).trans (modCh_frame _ n _)

theorem ch_clampNoted (n e : Nat) (s : State) : (clampNoted n e s).ch n = { s.ch n with clampRem := ((s.ch n).clampRem + e) % 100 } := by
  rw [clampNoted, ch_modCh_same, State.addSat, ch_put, ch_put]

theorem get_clampNoted_last (n e : Nat) (s : State) : (clampNoted n e s).get (.CH_DO_CLAMP_LAST_E n) = min e 0xFFFF := by
  rw [clampNoted, State.modCh_get, State.addSat, get_put_ne _ _ _ _ (by simp only [Reg.CH_DO_CLAMP, Reg.CH_DO_CLAMP_SUM]; omega),
    get_put _ _ _ (by simp) (by simp)]
  exact Nat.mod_eq_of_lt (by simp only; omega)

theorem get_clampNoted_sum (n e : Nat) (s : State) : (clampNoted n e s).get (.CH_DO_CLAMP_SUM_SUM n) =
    min (s.get (.CH_DO_CLAMP_SUM_SUM n) + ((s.ch n).clampRem + e) / 100) 0xFFFFFFFF := by
  rw [clampNoted, State.modCh_get, get_addSat _ _ _ (by simp) (by simp), get_put_ne _ _ _ _ (by simp only [Reg.CH_DO_CLAMP, Reg.CH_DO_CLAMP_SUM]; omega)]
  rfl

theorem exec_clampEventEnd {n : Fin 256} (hn : isDO n = true) (ho : s.is (.CH_DO_STATE_OUT n) = false) (hp : (s.tile (n / 16)).power = true) :
    exec (.clampEventEnd n e) s =
      .next (if 15000 < e then doRefresh n (diagSet n (2 ^ dgClamp) (clampNoted n e s)) else clampNoted n e s) := by
  show execClampEventEnd n e s = _
  rw [execClampEventEnd, if_pos (by simp [hn, ho, tileOf, hp])]
  rfl

/-- `s` with what an event and an output's status change taken from `t`. -/
def outputEventsFrom (s t : State) : State := { eventsFrom s t with chans := t.chans }

theorem diagSet_doRefresh_frame (hn : n < 256) {m : Nat} (hm : m < 2 ^ 12) (s : State) :
    Frame outputEventsFrom (fun g => offDiag n g ∧ offPair n g) s (doRefresh n (diagSet n m s)) :=
  ((diagSet_spec hn hm s).1.mono fun _ => And.left).trans ((doRefresh_frame n _).mono fun _ => And.right)

/-- Fields of a channel's registers that are neither its diagnostics nor an output's status. -/
theorem offDiag_offPair (hn : n < 256) {g : FldRef} (hg : g.a / 0x100 = 0x200 + n) (h : g.a % 0x100 ≠ 0x04 ∧ g.a % 0x100 ≠ 0x48 ∧ g.a % 0x100 ≠ 0x50)
    (hi : g.hi < 32) : offDiag n g ∧ offPair n g := by
  refine ⟨⟨offEvents_chan hn hg, ?_⟩, offPair_of_mod (.inr h) hi⟩
  rw [Reg.CH_DIAG]
  omega

/-- Above 150 mJ CLAMP becomes active and latched, and the output is locked off (R76). -/
theorem clampTripped_spec (hn : n < 256) (s : State) :
    diagActive (doRefresh n (diagSet n (2 ^ dgClamp) s)) n dgClamp = true ∧ diagLatched (doRefresh n (diagSet n (2 ^ dgClamp) s)) n dgClamp = true ∧
      (doRefresh n (diagSet n (2 ^ dgClamp) s)).is (.CH_DO_STATE_OUT n) = false := by
  obtain ⟨-, hl, ha⟩ := diagSet_spec hn (show 2 ^ dgClamp < 2 ^ 12 by decide) s
  have hbit : (2 ^ dgClamp).testBit dgClamp = true := Nat.testBit_two_pow_self
  have hlatched : diagLatched (doRefresh n (diagSet n (2 ^ dgClamp) s)) n dgClamp = true := by
    rw [diagLatched, get_latched_doRefresh, hl, Nat.testBit_or, hbit, Bool.or_true]
  refine ⟨?_, hlatched, ?_⟩
  · rw [diagActive_doRefresh, diagActive, ha, Nat.testBit_or, hbit, Bool.or_true, Bool.true_and]
    split <;> decide
  · rw [out_doRefresh hn]
    exact doOn_of_prevented (by simp [doPrevented, doLocked, hlatched])

end Clamp

theorem exec_pullinEnd {s : State} {n : Fin 256} (hn : isDO n = true) (ho : s.is (.CH_DO_STATE_OUT n) = true)
    (hw : s.is (.CH_DO_CFG_PWM_EN (govern s n)) = true)
    (hk : (s.ch n).onSince + s.get (.CH_DO_CFG_PULLIN (govern s n)) * tick10Ms ≤ clk s) :
    exec (.pullinEnd n) s = .next (s.setCh n { s.ch n with pwm := true }) := by
  show execPullinEnd n s = _
  rw [execPullinEnd, if_pos (by simp [hn, ho, hw, hk])]
  rfl

/-- The whole field of a register is off what a channel's events and diagnostics change. -/
theorem offDiag_of_reg {n a : Nat} (he : eventReg a = false) (h : a ≠ Reg.CH_DIAG n) : offDiag n ⟨a, 31, 0⟩ := ⟨he, h⟩

/-- Settles O20: each command answers a refresh of the outputs that it touches. -/
theorem digitalOutputCommands : Obligations.DigitalOutputCommands := by
  unfold Obligations.DigitalOutputCommands
  refine ⟨?cmd, ?pair, ?upper, ?conflict, ?shutdown, ?restart, ?clamp, ?trip, fun s n hn ho hw hk => exec_pullinEnd hn ho hw hk⟩
  case cmd =>
    intro s r n w hn hp ha
    obtain ⟨t, ht, ⟨hcmd, hcnt, hlock⟩, hout, hf⟩ := doCmdWrite_unpaired (w := w) hn hp ha
    exact ⟨t, ht, hcmd, hcnt, hlock, hout, hf.rest, fun a h1 h2 h3 h4 =>
      hf.rd a ⟨⟨by simp, h1, h2, .inl (ne_chDiag_of_outputReg h3).symm⟩, offPair_of_reg h3 h4⟩⟩
  case pair =>
    intro s r n w m hn hp h hm ha
    obtain ⟨t, ht, ⟨hcmd, hcnt, hlock⟩, hout⟩ := doCmdWrite_lower (w := w) hn hp h hm ha
    exact ⟨t, ht, hcmd, hcnt, hlock, hout⟩
  case upper =>
    intro s r n w hn hp h hw ha
    rw [exec_doCmdWrite hn ha, doCmd_upper hp h, if_pos hw]
  case conflict =>
    intro s r n w hn hp h hw ha
    obtain ⟨hf, hl, -⟩ := diagLatch_spec n.isLt (show 2 ^ dgPairConflict < 2 ^ 12 by decide) s
    exact ⟨_, by rw [exec_doCmdWrite hn ha, doCmd_upper hp h, if_neg hw, pairConflict], hl, hf.rest, fun a he hd => hf.rd a (offDiag_of_reg he hd)⟩
  case shutdown =>
    intro s n hn ho
    obtain ⟨hrow, hlock⟩ := ch_shutDown n.isLt ho
    have hf := shutDown_frame n s
    exact ⟨_, exec_thermalShutdown hn ho, tsd_shutDown n s, out_shutDown n.isLt s, out_partner_shutDown n.isLt, hrow, hlock, hf.rest, fun a h h' =>
      hf.rd a ⟨offPair_of_reg h h', ne_doState_of_outputReg h⟩⟩
  case restart =>
    intro s n hn ht hk
    have hf : Frame outputsFrom (fun g => offPair n g ∧ g.a ≠ Reg.CH_DO_STATE n) s (doRefresh n (s.put (.CH_DO_STATE_TSD n) 0)) :=
      ((Frame.refl s).put _ _ fun _ hg => hg.2).trans ((doRefresh_frame n _).mono fun _ => And.left)
    refine ⟨_, exec_thermalRestart hn ht hk, ?_, out_doRefresh n.isLt _, out_doRefresh_partner n.isLt _, hf.rest, fun a h h' =>
      hf.rd a ⟨offPair_of_reg h h', ne_doState_of_outputReg h⟩⟩
    rw [tsd_doRefresh, tsd_put_zero]
  case clamp =>
    intro s n e hn ho hp he
    have hf := clampNoted_frame n e s
    refine ⟨clampNoted n e s, ?_, ?_, get_clampNoted_sum n e s, ch_clampNoted n e s, hf.rest, fun a h h' => hf.rd a ⟨h, h'⟩⟩
    · rw [exec_clampEventEnd hn ho hp, if_neg (by omega)]
    · rw [get_clampNoted_last]
      omega
  case trip =>
    intro s n e hn ho hp he
    obtain ⟨hact, hlat, hout⟩ := clampTripped_spec n.isLt (clampNoted n e s)
    have hafter := diagSet_doRefresh_frame n.isLt (show 2 ^ dgClamp < 2 ^ 12 by decide) (clampNoted n e s)
    have hf : Frame outputEventsFrom (fun g => offClamp n g ∧ offDiag n g ∧ offPair n g) s (doRefresh n (diagSet n (2 ^ dgClamp) (clampNoted n e s))) :=
      ((clampNoted_frame n e s).mono fun _ => And.left).trans (hafter.mono fun _ => And.right)
    refine ⟨_, by rw [exec_clampEventEnd hn ho hp, if_pos he], ?_, ?_, hact, hlat, hout, hf.rest, fun a hev h h' ho ho' =>
      hf.rd a ⟨⟨h, h'⟩, offDiag_of_reg hev (ne_chDiag_of_outputReg ho), offPair_of_reg ho ho'⟩⟩
    · rw [hafter.get _ (offDiag_offPair n.isLt (by simp only [Reg.CH_DO_CLAMP]; omega) (by simp only [Reg.CH_DO_CLAMP]; omega) (by simp))]
      exact get_clampNoted_last n e s
    · rw [hafter.get _ (offDiag_offPair n.isLt (by simp only [Reg.CH_DO_CLAMP_SUM]; omega) (by simp only [Reg.CH_DO_CLAMP_SUM]; omega) (by simp))]
      exact get_clampNoted_sum n e s

end Sys2Proof.Machine
end

section
/-! PROOFS. Diagnostics (R83, R84, R116, R124): what a detection, the end of a condition and a write of `CH_DIAG` do, and the statement of their family. -/

namespace Sys2Proof.Machine

set_option Elab.async false

section Detect

variable {n : Nat} {s u : State}

/-- Of the bits of mask `m` that `can` be detected those become active that were not, and are latched then (R83); `u` has the registers of `s`. -/
theorem diagSet_diagNew (hn : n < 256) (can : Nat → Bool) (m : BitVec 12) (hu : ∀ g, u.get g = s.get g) (b : Fin 12) :
    diagActive (diagSet n (diagNew can s n m.toNat) u) n b = (diagActive s n b || (m.getLsbD b && can b)) ∧
      diagLatched (diagSet n (diagNew can s n m.toNat) u) n b = (diagLatched s n b || (m.getLsbD b && can b && !diagActive s n b)) := by
  obtain ⟨-, hl, ha⟩ := diagSet_spec hn (diagNew_lt can s n m.toNat) u
  have hbit : (diagNew can s n m.toNat).testBit b = (m.getLsbD b && can b && !diagActive s n b) := by
    rw [testBit_diagNew, decide_eq_true b.isLt, Bool.true_and]
    rfl
  constructor
  · rw [diagActive, ha, hu, Nat.testBit_or, hbit, ← diagActive]
    cases diagActive s n b <;> simp
  · rw [diagLatched, hl, hu, Nat.testBit_or, hbit, ← diagLatched]

/-- Nothing new is nothing set. -/
theorem diagSet_zero (n : Nat) (s : State) : diagSet n 0 s = s := if_pos rfl

theorem diagClear_frame (n b : Nat) (s : State) : Frame regsFrom (fun g => g.a ≠ Reg.CH_DIAG n) s (diagClear n b s) :=
  (Frame.refl s).put _ _ fun _ hg => hg

end Detect

section Digital

variable {s : State} {n : Fin 256} {r : Req} {w : Word}

theorem isDO_of_isDI (h : isDI n = true) : isDO n = false := by
  simp only [isDI, isDO, Bool.and_eq_true, Bool.and_eq_false_iff, decide_eq_true_eq, decide_eq_false_iff_not] at h ⊢
  omega

theorem exec_digitalDiagDetect_in (hn : isDI n = true) (m : BitVec 12) :
    exec (.digitalDiagDetect n m) s = .next (diagSet n (diagNew (digDetectable s n) s n m.toNat) s) := by
  show execDigitalDiagDetect n m s = _
  simp only [execDigitalDiagDetect, isDO_of_isDI hn, Bool.false_eq_true, if_false]
  split
  · next h => rw [h, diagSet_zero]
  · rfl

theorem exec_digitalDiagDetect_out (hn : isDO n = true) (m : BitVec 12) :
    exec (.digitalDiagDetect n m) s = .next (if diagNew (digDetectable s n) s n m.toNat = 0 then s
      else doRefresh n (diagSet n (diagNew (digDetectable s n) s n m.toNat) s)) := by
  show execDigitalDiagDetect n m s = _
  simp only [execDigitalDiagDetect, hn, if_true]

theorem exec_digitalDiagClear_in (hn : isDI n = true) {b : Fin 12} (ha : diagActive s n b = true) (hb : b.val ≠ dgClamp) :
    exec (.digitalDiagClear n b) s =
      .next (if b.val = dgNoSupply then (diagClear n b s).modCh n (fun x => { x with run := 0 }) else diagClear n b s) := by
  show execDigitalDiagClear n b s = _
  simp [execDigitalDiagClear, hn, isDO_of_isDI hn, ha, hb]

theorem exec_digitalDiagClear_out (hn : isDO n = true) {b : Fin 12} (ha : diagActive s n b = true) (hb : b.val ≠ dgClamp)
    (ht : b.val = dgThermal → s.is (.CH_DO_STATE_TSD n) = false) :
    exec (.digitalDiagClear n b) s = .next (doRefresh n (diagClear n b s)) := by
  show execDigitalDiagClear n b s = _
  have ht' : (b.val == dgThermal && s.is (.CH_DO_STATE_TSD n)) = false := by
    by_cases h : b.val = dgThermal <;> simp [h, ht]
  simp [execDigitalDiagClear, hn, ha, hb, ht']

theorem exec_chDiagClear (ha : Admitted s r (Reg.CH_DIAG n) Msk.CH_DIAG) : exec (.chDiagClear r n w) s = .next (diagWrite n w s) := by
  show execChDiagClear r n w s = _
  rw [execChDiagClear, regWrite_admitted _ _ _ _ _ _ ha]

end Digital

section Analog

variable {s : State} {n : Fin 256}

/-- `s` with what an event, a calibration that is lost and an analog channel's status change taken from `t`. -/
def analogEventsFrom (s t : State) : State := { eventsFrom s t with ca := t.ca, chains := t.chains }

theorem chDiag_ne_anState (n : Nat) : Reg.CH_DIAG n ≠ Reg.CH_AN_STATE n := by
  simp only [Reg.CH_DIAG, Reg.CH_AN_STATE]
  omega

theorem noteMarks_frame {P : FldRef → Prop} (n : Nat) (s : State) : Frame chainsFrom P s (noteMarks n s) := .of_regs rfl rfl

theorem anRefresh_frame (n : Nat) (s : State) : Frame chainsFrom (fun g => g.a ≠ Reg.CH_AN_STATE n) s (anRefresh n s) :=
  (((Frame.refl s).put (.CH_AN_STATE_LP_ON n) _ fun _ hg => hg).put (.CH_AN_STATE_SAFE n) _ fun _ hg => hg).trans (noteMarks_frame n _)

theorem calLose_frame {P : FldRef → Prop} (t : Nat) (s : State) : Frame analogEventsFrom P s (calLose t s) :=
  .ite (fun _ => .of_regs rfl rfl) fun _ => .refl s

theorem exec_analogDiagDetect (m : BitVec 12) : exec (.analogDiagDetect n m) s =
    .next (if diagNew (anDetectable s n) s n m.toNat = 0 then s else anRefresh n (diagSet n (diagNew (anDetectable s n) s n m.toNat)
      (if (diagNew (anDetectable s n) s n m.toNat).testBit dgNoSupply then calLose (tileOf n) s else s))) := rfl

theorem exec_analogDiagClear (hn : isAN n = true) {b : Fin 12} (ha : diagActive s n b = true)
    (hi : injecting s n = true → b.val ≠ dgWireBreak ∧ b.val ≠ dgShort ∧ b.val ≠ dgOvervoltage) :
    exec (.analogDiagClear n b) s = .next (anRefresh n (diagClear n b s)) := by
  show execAnalogDiagClear n b s = _
  have hi' : (injecting s n && (b.val == dgWireBreak || b.val == dgShort || b.val == dgOvervoltage)) = false := by
    cases h : injecting s n
    · rfl
    · obtain ⟨h1, h2, h3⟩ := hi h
      simp [h1, h2, h3]
  rw [execAnalogDiagClear, hn, ha, hi']
  rfl

end Analog

/-- A detection at an output (R83, R84): OPEN_ON ends where the output is off, OPEN_OFF where it is on. -/
theorem detectOut_spec {s : State} {n : Fin 256} (hn : isDO n = true) (m : BitVec 12) : ∃ t, exec (.digitalDiagDetect n m) s = .next t ∧
    (∀ b : Fin 12, b.val ≠ dgOpenOn → b.val ≠ dgOpenOff → diagActive t n b = (diagActive s n b || (m.getLsbD b && digDetectable s n b))) ∧
    (∀ b : Fin 12, diagLatched t n b = (diagLatched s n b || (m.getLsbD b && digDetectable s n b && !diagActive s n b))) ∧
    Frame outputEventsFrom (fun g => offDiag n g ∧ offPair n g) s t := by
  have hbits := diagSet_diagNew (u := s) n.isLt (digDetectable s n) m fun _ => rfl
  refine ⟨_, exec_digitalDiagDetect_out hn m, ?_⟩
  split
  case isTrue h =>
    rw [h, diagSet_zero] at hbits
    exact ⟨fun b _ _ => (hbits b).1, fun b => (hbits b).2, .refl s⟩
  case isFalse =>
    refine ⟨fun b hon hoff => ?_, fun b => ?_, diagSet_doRefresh_frame n.isLt (diagNew_lt _ s n _) s⟩
    · rw [diagActive_doRefresh, (hbits b).1]
      split <;> simp [hon, hoff]
    · rw [diagLatched, get_latched_doRefresh]
      exact (hbits b).2

/-- The end of a condition of an input; DI sampling resumes from the held level after NO_SUPPLY (R84). -/
theorem clearIn_spec {s : State} {n : Fin 256} {b : Fin 12} (hn : isDI n = true) (ha : diagActive s n b = true) (hb : b.val ≠ dgClamp) :
    ∃ t, exec (.digitalDiagClear n b) s = .next t ∧ Frame outputsFrom (fun _ => True) (diagClear n b s) t :=
  ⟨_, exec_digitalDiagClear_in hn ha hb, .ite (fun _ => modCh_frame _ _ _) fun _ => .refl _⟩

/-- A write of an output's `CH_DIAG` (R76, R83). -/
theorem diagWrite_out {n : Nat} {w : Word} {s : State} (hn : isDO n = true) : diagWrite n w s = doRefresh n
    (if bitAt w 23 then diagClear n dgClamp (s.put (.CH_DIAG_LATCHED n) (s.get (.CH_DIAG_LATCHED n) &&& (0xFFF ^^^ bits w 27 16)))
      else s.put (.CH_DIAG_LATCHED n) (s.get (.CH_DIAG_LATCHED n) &&& (0xFFF ^^^ bits w 27 16))) := by
  have hm : (bits w 27 16).testBit dgClamp = bitAt w 23 := testBit_nbits _ _ _ _
  simp [diagWrite, hn, hm]

theorem writeOut_spec {n : Nat} (hn : n < 256) {w : Word} {s : State} (hdo : isDO n = true) :
    (diagWrite n w s).get (.CH_DIAG_LATCHED n) = s.get (.CH_DIAG_LATCHED n) &&& (0xFFF ^^^ bits w 27 16) ∧
      diagActive (diagWrite n w s) n dgClamp = (diagActive s n dgClamp && !bitAt w 23) ∧
      (diagWrite n w s).is (.CH_DO_STATE_OUT n) = doOn (diagWrite n w s) n ∧
      Frame outputsFrom (fun g => g.a ≠ Reg.CH_DIAG n ∧ offPair n g) s (diagWrite n w s) := by
  have hlt : s.get (.CH_DIAG_LATCHED n) &&& (0xFFF ^^^ bits w 27 16) < 2 ^ 12 := lt_of_le_of_lt Nat.and_le_left (get_diag_lt s n).1
  have hput : Frame regsFrom (fun g => g.a ≠ Reg.CH_DIAG n) s (s.put (.CH_DIAG_LATCHED n) (s.get (.CH_DIAG_LATCHED n) &&& (0xFFF ^^^ bits w 27 16))) :=
    (Frame.refl s).put _ _ fun _ hg => hg
  have hactive := get_active_put_latched (n := n) (s := s) (s.get (.CH_DIAG_LATCHED n) &&& (0xFFF ^^^ bits w 27 16))
  have hlatched := get_latched_put (n := n) (s := s) _ hlt
  rw [diagWrite_out hdo]
  generalize s.put (.CH_DIAG_LATCHED n) (s.get (.CH_DIAG_LATCHED n) &&& (0xFFF ^^^ bits w 27 16)) = u at hput hactive hlatched
  have hf : Frame regsFrom (fun g => g.a ≠ Reg.CH_DIAG n) s (if bitAt w 23 then diagClear n dgClamp u else u) :=
    .ite (fun _ => hput.trans (diagClear_frame _ _ _)) fun _ => hput
  refine ⟨?_, ?_, out_doRefresh hn _, (hf.mono fun _ => And.left).trans ((doRefresh_frame n _).mono fun _ => And.right)⟩
  · rw [get_latched_doRefresh, ← hlatched]
    split
    · exact get_latched_diagClear _ _
    · rfl
  · have hne (o : Bool) : (dgClamp != if o then dgOpenOff else dgOpenOn) = true := by cases o <;> rfl
    rw [diagActive_doRefresh, hne, Bool.and_true]
    have hu : diagActive u n dgClamp = diagActive s n dgClamp := by rw [diagActive, hactive, diagActive]
    cases bitAt w 23
    · simp [hu]
    · simp [diagActive_diagClear n (show dgClamp < 12 by decide)]

/-- A detection at an analog channel (R83, R116, R124). -/
theorem detectAn_spec {s : State} {n : Fin 256} (m : BitVec 12) : ∃ t, exec (.analogDiagDetect n m) s = .next t ∧
    (∀ b : Fin 12, diagActive t n b = (diagActive s n b || (m.getLsbD b && anDetectable s n b)) ∧
      diagLatched t n b = (diagLatched s n b || (m.getLsbD b && anDetectable s n b && !diagActive s n b))) ∧
    Frame analogEventsFrom (fun g => offDiag n g ∧ g.a ≠ Reg.CH_AN_STATE n) s t := by
  refine ⟨_, exec_analogDiagDetect m, ?_⟩
  split
  case isTrue h =>
    have hbits := diagSet_diagNew (u := s) n.isLt (anDetectable s n) m fun _ => rfl
    rw [h, diagSet_zero] at hbits
    exact ⟨hbits, .refl s⟩
  case isFalse =>
    have hu : Frame analogEventsFrom (fun _ => True) s (if (diagNew (anDetectable s n) s n m.toNat).testBit dgNoSupply then calLose (tileOf n) s else s) :=
      .ite (fun _ => calLose_frame _ s) fun _ => .refl s
    generalize (if (diagNew (anDetectable s n) s n m.toNat).testBit dgNoSupply then calLose (tileOf n) s else s) = u at hu
    have hset := (diagSet_spec n.isLt (diagNew_lt (anDetectable s n) s n m.toNat) u).1
    refine ⟨fun b => ?_, ((hu.mono fun _ _ => trivial).trans (hset.mono fun _ => And.left)).trans ((anRefresh_frame n _).mono fun _ => And.right)⟩
    rw [diagActive, diagLatched, (anRefresh_frame n _).get _ (chDiag_ne_anState n), (anRefresh_frame n _).get _ (chDiag_ne_anState n)]
    exact diagSet_diagNew n.isLt (anDetectable s n) m (fun g => hu.get g trivial) b

/-- Settles O21: a detection sets and latches what is new; the end of a condition, and a write of `CH_DIAG`, clear bits of that register alone. -/
theorem diagnosticCommands : Obligations.DiagnosticCommands := by
  unfold Obligations.DiagnosticCommands
  refine ⟨?detectIn, ?detectOut, ?clearIn, ?clearOut, ?write, ?writeOut, ?detectAn, ?clearAn⟩
  case detectIn =>
    intro s n m hn
    have hf := (diagSet_spec n.isLt (diagNew_lt (digDetectable s n) s n m.toNat) s).1
    exact ⟨_, exec_digitalDiagDetect_in hn m, diagSet_diagNew n.isLt _ m fun _ => rfl, hf.rest, fun a he h => hf.rd a (offDiag_of_reg he h)⟩
  case detectOut =>
    intro s n m hn
    obtain ⟨t, ht, hact, hlat, hf⟩ := detectOut_spec hn m
    refine ⟨t, ht, hact, hlat, hf.rest, fun a he h h' => hf.rd a ⟨offDiag_of_reg he (ne_chDiag_of_outputReg h), offPair_of_reg h h'⟩⟩
  case clearIn =>
    intro s n b hn ha hb
    obtain ⟨t, ht, hf⟩ := clearIn_spec hn ha hb
    have hall : Frame outputsFrom (fun g => g.a ≠ Reg.CH_DIAG n) s t := ((diagClear_frame n b s).mono fun _ => id).trans (hf.mono fun _ _ => trivial)
    refine ⟨t, ht, ?_, ?_, hall.rest, fun a h => hall.rd a h⟩
    · rw [hf.get _ trivial, get_active_diagClear]
    · rw [hf.get _ trivial, get_latched_diagClear]
  case clearOut =>
    intro s n b hn ha hb ht
    have hf : Frame outputsFrom (fun g => g.a ≠ Reg.CH_DIAG n ∧ offPair n g) s (doRefresh n (diagClear n b s)) :=
      ((diagClear_frame n b s).mono fun _ => And.left).trans ((doRefresh_frame n _).mono fun _ => And.right)
    refine ⟨_, exec_digitalDiagClear_out hn ha hb ht, ?_, ?_, out_doRefresh n.isLt _, hf.rest, fun a h h' =>
      hf.rd a ⟨ne_chDiag_of_outputReg h, offPair_of_reg h h'⟩⟩
    · rw [diagActive_doRefresh, diagActive_diagClear _ b.isLt]
      simp
    · rw [get_latched_doRefresh, get_latched_diagClear]
  case write =>
    intro s r n w hn ha
    simp [exec_chDiagClear ha, diagWrite, hn]
  case writeOut =>
    intro s r n w hn ha
    obtain ⟨hlat, hact, hout, hf⟩ := writeOut_spec n.isLt (w := w) (s := s) hn
    exact ⟨_, exec_chDiagClear ha, hlat, hact, hout, hf.rest, fun a h h' => hf.rd a ⟨ne_chDiag_of_outputReg h, offPair_of_reg h h'⟩⟩
  case detectAn =>
    intro s n m hn
    obtain ⟨t, ht, hbits, hf⟩ := detectAn_spec (s := s) (n := n) m
    exact ⟨t, ht, hbits, hf.rest, fun a he h h' => hf.rd a ⟨offDiag_of_reg he h, h'⟩⟩
  case clearAn =>
    intro s n b hn ha hi
    have hf : Frame chainsFrom (fun g => g.a ≠ Reg.CH_DIAG n ∧ g.a ≠ Reg.CH_AN_STATE n) s (anRefresh n (diagClear n b s)) :=
      ((diagClear_frame n b s).mono fun _ => And.left).trans ((anRefresh_frame n _).mono fun _ => And.right)
    refine ⟨_, exec_analogDiagClear hn ha hi, ?_, ?_, hf.rest, fun a h h' => hf.rd a ⟨h, h'⟩⟩
    · rw [(anRefresh_frame n _).get _ (chDiag_ne_anState n), get_active_diagClear]
    · rw [(anRefresh_frame n _).get _ (chDiag_ne_anState n), get_latched_diagClear]

end Sys2Proof.Machine
end

section
/-! PROOFS. The safe state of a tile (R86 to R88, R101, R498): how it follows its causes, and the statement of its family. -/

namespace Sys2Proof.Machine

set_option Elab.async false

/-- `s` with its registers, channels and chains taken from `t`; with the tiles beside them. -/
def safeFrom (s t : State) : State := { s with regs := t.regs, chans := t.chans, chains := t.chains }
def tilesFrom (s t : State) : State := { s with regs := t.regs, chans := t.chans, chains := t.chains, tiles := t.tiles }

theorem Frame.tile_safe {P : FldRef → Prop} {s t : State} (h : Frame safeFrom P s t) (k : Nat) : t.tile k = s.tile k := by
  rw [h.rest]
  rfl

/-- A field outside the registers of tile `t`'s outputs and analog channels. -/
def offTile (t : Nat) (g : FldRef) : Prop := g.hi < 32 ∧ ¬ (g.a / 0x1000 = 0x20 + t ∧ 8 ≤ g.a / 0x100 % 16)

section Refresh

variable {t : Nat} {s : State}

theorem offOutput_of_offTile {k : Nat} (h8 : 8 ≤ k) (hk : k < 16) {g : FldRef} (h : offTile t g) : offOutput (16 * t + k) g := by
  obtain ⟨hi, ha⟩ := h
  refine offOutput_of_reg ?_ hi
  simp only [outputReg, Bool.or_eq_false_iff, beq_eq_false_iff_ne, Reg.CH_DO_STATE, Reg.CH_DO_ONTIME, Reg.CH_DIAG]
  omega

theorem ne_anState_of_offTile {k : Nat} (h8 : 8 ≤ k) (hk : k < 16) {g : FldRef} (h : offTile t g) : g.a ≠ Reg.CH_AN_STATE (16 * t + k) := by
  obtain ⟨-, ha⟩ := h
  rw [Reg.CH_AN_STATE]
  omega

/-- The outputs and the analog channels of a tile, refreshed. -/
theorem tileRefresh_frame (t : Nat) (s : State) : Frame safeFrom (offTile t) s (tileRefresh t s) := by
  refine (Frame.each _ _ _ fun k hk u => ?out).trans (.each _ _ _ fun k hk u => ?an)
  case out => exact (doRefresh1_frame _ u).mono fun _ => offOutput_of_offTile (by simp at hk; omega) (by simp at hk; omega)
  case an => exact (anRefresh_frame _ u).mono fun _ => ne_anState_of_offTile (by simp at hk; omega) (by simp at hk; omega)

/-- Refreshes of several outputs show of each whether it conducts. -/
theorem out_eachRefresh (b : Nat) {m : Nat} (hm : m < 256) (l : List Nat) (s : State) :
    (s.each l fun k s => doRefresh1 (b + k) s).is (.CH_DO_STATE_OUT m) = if ∃ k ∈ l, m = b + k then doOn s m else s.is (.CH_DO_STATE_OUT m) := by
  induction l generalizing s with
  | nil => simp
  | cons k l ih =>
    rw [each_cons, ih, doOn_doRefresh1 _ _ hm]
    by_cases hk : m = b + k
    · subst hk
      simp [out_doRefresh1]
    · simp [hk, out_doRefresh1_ne hk]

theorem out_tileRefresh {m : Nat} (hn : isDO m = true) (hm : m / 16 = t) (s : State) :
    (tileRefresh t s).is (.CH_DO_STATE_OUT m) = doOn s m := by
  simp only [isDO, Bool.and_eq_true, decide_eq_true_eq] at hn
  have han (u : State) : Frame chainsFrom (fun g => g.a % 0x100 ≠ 0x84) u (u.each [12, 13, 14, 15] fun k s => anRefresh (16 * t + k) s) :=
    .each _ _ _ fun k _ v => (anRefresh_frame _ v).mono fun g hg => by rw [Reg.CH_AN_STATE]; omega
  rw [tileRefresh, (han _).is _ (by simp only [Reg.CH_DO_STATE]; omega), out_eachRefresh _ (by omega), if_pos]
  exact ⟨m % 16, by simp; omega, by omega⟩

theorem captureHeld_frame {P : FldRef → Prop} (t : Nat) (s : State) : Frame outputsFrom P s (captureHeld t s) :=
  .each _ _ _ fun _ _ u => modCh_frame u _ _

/-- The state whose outputs a change of the causes refreshes: what they had is captured at the entry (R86), and ACTIVE shows the causes (R87). -/
def safeShown (t : Nat) (s : State) : State :=
  (if tileCause s t && !s.is (.TILE_SAFE_ACTIVE t) then captureHeld t s else s).putB (.TILE_SAFE_ACTIVE t) (tileCause s t)

theorem safeRefresh_eq (t : Nat) (s : State) : safeRefresh t s = tileRefresh t (safeShown t s) := rfl

/-- What the entry into a safe state leaves before the outputs follow. -/
def offActive (t : Nat) (g : FldRef) : Prop := (FldRef.TILE_SAFE_ACTIVE t).apart g ∧ g.hi < 32

theorem safeShown_frame (t : Nat) (s : State) : Frame outputsFrom (offActive t) s (safeShown t s) :=
  (Frame.ite (fun _ => captureHeld_frame t s) fun _ => .refl s).putApart (.TILE_SAFE_ACTIVE t) _ le_rfl fun _ hg => hg

theorem active_safeShown (t : Nat) (s : State) : (safeShown t s).is (.TILE_SAFE_ACTIVE t) = tileCause s t := is_putB _ _ _ (by simp) (by simp)

theorem safeRefresh_frame (t : Nat) (s : State) : Frame safeFrom (fun g => offTile t g ∧ offActive t g) s (safeRefresh t s) :=
  ((safeShown_frame t s).mono fun _ => And.right).trans ((tileRefresh_frame t _).mono fun _ => And.left)

/-- The fields of `TILE_SAFE` are none of the channels'. -/
theorem offTile_tileSafe {g : FldRef} (hg : g.a = Reg.TILE_SAFE t) (hi : g.hi < 32) : offTile t g := by
  refine ⟨hi, ?_⟩
  rw [hg, Reg.TILE_SAFE]
  omega

/-- ACTIVE shows the causes (R87). -/
theorem active_safeRefresh (t : Nat) (s : State) : (safeRefresh t s).is (.TILE_SAFE_ACTIVE t) = tileCause s t := by
  rw [safeRefresh_eq, (tileRefresh_frame t _).is _ (offTile_tileSafe rfl (by simp)), active_safeShown]

/-- A field of `TILE_SAFE` other than ACTIVE. -/
theorem tileSafe_safeRefresh (t : Nat) (s : State) {g : FldRef} (hg : g.a = Reg.TILE_SAFE t) (hi : g.hi < 8) : (safeRefresh t s).is g = s.is g :=
  (safeRefresh_frame t s).is g ⟨offTile_tileSafe hg (by omega), .inr (.inr hi), by omega⟩

theorem tile_safeRefresh (t : Nat) (s : State) (k : Nat) : (safeRefresh t s).tile k = s.tile k :=
  (safeRefresh_frame t s).tile_safe k

/-- A change of the causes leaves them as they are. -/
theorem tileCause_safeRefresh (t : Nat) (s : State) : tileCause (safeRefresh t s) t = tileCause s t := by
  simp [tileCause, tile_safeRefresh, tileSafe_safeRefresh]

/-- An output whose safe value is OFF does not conduct in the safe state (R86). -/
theorem doOn_of_safeOff {m : Nat} (ha : s.is (.TILE_SAFE_ACTIVE (tileOf m)) = true) (h0 : s.get (.CH_DO_CFG_SAFE (govern s m)) = 0) : doOn s m = false := by
  simp [doOn, doWanted, ha, h0]

theorem govern_of_frame {f : State → State → State} {P : FldRef → Prop} {u : State} (h : Frame f P s u) (hP : ∀ m, P (.CH_DO_CFG_PAIR m)) (n : Nat) :
    govern u n = govern s n := by rw [govern, paired_of_frame h hP, govern]

/-- A cause that holds keeps the outputs with safe value OFF off (R86, R87). -/
theorem out_safeRefresh_off {m : Nat} (hn : isDO m = true) (hm : m / 16 = t) (hc : tileCause s t = true)
    (h0 : s.get (.CH_DO_CFG_SAFE (govern s m)) = 0) : (safeRefresh t s).is (.CH_DO_STATE_OUT m) = false := by
  have hcfg (g : FldRef) (k : Nat) (hg : g.a = Reg.CH_DO_CFG k) (hi : g.hi < 32) : offActive t g :=
    ⟨.inl (by simp only [hg, Reg.TILE_SAFE, Reg.CH_DO_CFG]; omega), hi⟩
  have hf := safeShown_frame t s
  rw [safeRefresh_eq, out_tileRefresh hn hm]
  refine doOn_of_safeOff ?_ ?_
  · rw [tileOf, hm, active_safeShown, hc]
  · rw [govern_of_frame hf fun k => hcfg _ k rfl (by simp), hf.get _ (hcfg _ _ rfl (by simp)), h0]

end Refresh

section Commands

variable {s : State} {t : Fin 16} {d : Dom} {e : BitVec 16}

theorem tile_modTile (s : State) (t : Nat) (F : TileSt → TileSt) : (s.modTile t F).tile t = F (s.tile t) := kget_kset_same _ _ _ _

theorem modTile_frame {P : FldRef → Prop} (s : State) (t : Nat) (F : TileSt → TileSt) : Frame tilesFrom P s (s.modTile t F) := .of_regs rfl rfl

/-- Fields outside what a tile's safe state determines. -/
def offSafe (t : Nat) (g : FldRef) : Prop := tileSafeReg t g.a = false ∧ g.hi < 32

theorem parts_of_offSafe {t : Nat} {g : FldRef} (h : offSafe t g) : offTile t g ∧ offActive t g ∧ g.a ≠ Reg.TILE_SAFE t := by
  obtain ⟨h, hi⟩ := h
  simp only [tileSafeReg, Bool.or_eq_false_iff, beq_eq_false_iff_ne, Bool.and_eq_false_iff, decide_eq_false_iff_not] at h
  exact ⟨⟨hi, by omega⟩, ⟨.inl (Ne.symm h.1), hi⟩, h.1⟩

theorem safeRefresh_offSafe (t : Nat) (s : State) : Frame safeFrom (offSafe t) s (safeRefresh t s) :=
  (safeRefresh_frame t s).mono fun _ hg => ⟨(parts_of_offSafe hg).1, (parts_of_offSafe hg).2.1⟩

/-- The whole of a register that the safe state does not determine. -/
theorem offSafe_of_reg {t a : Nat} (h : ¬ (tileSafeReg t a = true)) : offSafe t ⟨a, 31, 0⟩ := ⟨by simpa using h, by simp⟩

/-- A refresh of the tile after its record has changed. -/
theorem safeRefresh_modTile_frame (t : Nat) (F : TileSt → TileSt) (s : State) : Frame tilesFrom (offSafe t) s (safeRefresh t (s.modTile t F)) :=
  (modTile_frame s t F).trans ((safeRefresh_offSafe t _).mono fun _ => id)

theorem tile_safeRefresh_modTile (t : Nat) (F : TileSt → TileSt) (s : State) : (safeRefresh t (s.modTile t F)).tile t = F (s.tile t) := by
  rw [tile_safeRefresh, tile_modTile]

/-- Once the hold cause has ended ACTIVE is 1 only for another cause (R87). -/
theorem active_safeRefresh_modTile {F : TileSt → TileSt} (hF : (F (s.tile t)).holdC = false) :
    (safeRefresh t (s.modTile t F)).is (.TILE_SAFE_ACTIVE t) = (s.is (.TILE_SAFE_WDOG t) || s.is (.TILE_SAFE_DOZE t) || s.is (.TILE_SAFE_IMAGE t)) := by
  rw [active_safeRefresh, tileCause, tile_modTile, hF, Bool.false_or]
  rfl

/-- The hold timer's expiry marks the cause and shows it (R87, R88). -/
def holdExpired (t : Nat) (s : State) : State := safeRefresh t ((s.set1 (.TILE_SAFE_HOLD t)).modTile t (fun x => { x with holdC := true }))

theorem exec_tileHoldExpiry (hp : (s.tile t).power = true) (hk : (s.tile t).holdAt + holdMin s t ≤ clk s) :
    exec (.tileHoldExpiry t) s = .next (holdExpired t s) := by
  show execTileHoldExpiry t s = _
  rw [execTileHoldExpiry, if_pos (by simp [hp, hk])]
  rfl

theorem exec_tileFrameReceive : exec (.tileFrameReceive t d e) s = .next (frameReceive t d e.toNat s) := rfl

/-- A frame that the tile obeys (R498). -/
def frameObeyed (t : Nat) (d : Dom) (e : Nat) (s : State) : State :=
  safeRefresh t (s.modTile t (fun x => { x with epoch := e, obey := some d, clk := some d, holdC := false, holdAt := clk s }))

/-- A powered tile obeys a frame of the held epoch and domain, or of a later epoch, and counts any other as stale (R498). -/
theorem frameReceive_eq {t e : Nat} (hp : (s.tile t).power = true) : frameReceive t d e s =
    if (e ≠ 0 ∧ 1 ≤ (e + 65536 - (s.tile t).epoch) % 65536 ∧ (e + 65536 - (s.tile t).epoch) % 65536 ≤ 32767 ∨
          ((s.tile t).epoch = 0 ∧ e ≠ 0)) ∨
        ((s.tile t).epoch ≠ 0 ∧ e = (s.tile t).epoch ∧ (s.tile t).obey = some d) then
      frameObeyed t d e s
    else s.inc (.TILE_FEED_STALE_CNT t) := by
  rw [frameReceive]
  simp only
  rw [if_neg (by simp [hp])]
  rfl

theorem frameObeyed_spec (t : Fin 16) (d : Dom) (e : Nat) (s : State) :
    (frameObeyed t d e s).is (.TILE_SAFE_ACTIVE t) = (s.is (.TILE_SAFE_WDOG t) || s.is (.TILE_SAFE_DOZE t) || s.is (.TILE_SAFE_IMAGE t)) ∧
      (frameObeyed t d e s).tile t = { s.tile t with epoch := e, obey := some d, clk := some d, holdC := false, holdAt := clk s } ∧
      Frame tilesFrom (offSafe t) s (frameObeyed t d e s) :=
  ⟨active_safeRefresh_modTile rfl, tile_safeRefresh_modTile _ _ s, safeRefresh_modTile_frame _ _ s⟩

/-- The expiry sets HOLD and the cause, and no output whose safe value is OFF conducts then (R86, R88). -/
theorem holdExpired_spec (t : Fin 16) (s : State) :
    (holdExpired t s).is (.TILE_SAFE_HOLD t) = true ∧ (holdExpired t s).is (.TILE_SAFE_ACTIVE t) = true ∧ ((holdExpired t s).tile t).holdC = true ∧
      (∀ m, isDO m = true → m / 16 = t → s.get (.CH_DO_CFG_SAFE (govern s m)) = 0 → (holdExpired t s).is (.CH_DO_STATE_OUT m) = false) ∧
      Frame tilesFrom (offSafe t) s (holdExpired t s) := by
  have hset : Frame tilesFrom (fun g => g.a ≠ Reg.TILE_SAFE t) s ((s.set1 (.TILE_SAFE_HOLD t)).modTile t (fun x => { x with holdC := true })) :=
    ((Frame.refl s).put (.TILE_SAFE_HOLD t) 1 fun _ hg => hg).trans (modTile_frame _ _ _)
  have hcause : tileCause ((s.set1 (.TILE_SAFE_HOLD t)).modTile t (fun x => { x with holdC := true })) t = true := by simp [tileCause, tile_modTile]
  have hcfg (k : Nat) : Reg.CH_DO_CFG k ≠ Reg.TILE_SAFE t := by
    simp only [Reg.CH_DO_CFG, Reg.TILE_SAFE]
    omega
  refine ⟨?_, ?_, ?_, fun m hn hm h0 => ?_, (hset.mono fun _ hg => (parts_of_offSafe hg).2.2).trans ((safeRefresh_offSafe t _).mono fun _ => id)⟩
  · rw [holdExpired, tileSafe_safeRefresh _ _ rfl (by simp)]
    exact is_set1 _ _ (by simp) (by simp)
  · rw [holdExpired, active_safeRefresh, hcause]
  · rw [holdExpired, tile_safeRefresh, tile_modTile]
  · refine out_safeRefresh_off hn hm hcause ?_
    rw [govern_of_frame hset hcfg, hset.get _ (hcfg _), h0]

/-- A one-bit field is a bit of its register. -/
theorem is_bit (s : State) (a k : Nat) : s.is ⟨a, k, k⟩ = bitAt (rd s a) k := by
  simp only [State.is, State.get, bits, nbits, bitAt, Nat.testBit_eq_decide_div_mod_eq, Nat.add_sub_cancel_left, pow_one]
  exact beq_eq_decide _ _

/-- A write of 1 clears a W1C bit (R4). -/
theorem bitAt_storedWord_w1c (m : Nat) (cur w : Word) {k : Nat} (hk : k < 32) :
    bitAt (storedWord ⟨0, 0, 0, m⟩ cur w) k = (bitAt cur k && !(bitAt w k && m.testBit k)) := by
  have hb : storedWord ⟨0, 0, 0, m⟩ cur w = cur &&& ~~~ (w &&& BitVec.ofNat 32 m) := by
    rw [storedWord, show (0 : Nat) ||| 0 = 0 from rfl, blend_zero]
  simp only [hb, bitAt, BitVec.testBit_toNat, BitVec.getLsbD_and, BitVec.getLsbD_not, BitVec.getLsbD_ofNat, hk, decide_true, Bool.true_and]

/-- TILE_SAFE after a write of it, before the refresh (R87, R101): WDOG clears only while the watchdog has not expired. -/
def safeCleared (t : Nat) (w : Word) (s : State) : State :=
  store (Reg.TILE_SAFE t) Msk.TILE_SAFE (if s.is .MOD_WDOG_EXPIRED then setBits w 1 1 0 else w) s

theorem safeCleared_frame (t : Nat) (w : Word) (s : State) : Frame regsFrom (fun g => g.a ≠ Reg.TILE_SAFE t) s (safeCleared t w s) :=
  (Frame.refl s).wr _ _ fun _ hg => hg

theorem wdog_safeCleared (t : Nat) (w : Word) (s : State) :
    (safeCleared t w s).is (.TILE_SAFE_WDOG t) = (s.is (.TILE_SAFE_WDOG t) && !(bitAt w 1 && !s.is .MOD_WDOG_EXPIRED)) := by
  rw [safeCleared, store, is_bit, rd_wr_same, bitAt_storedWord_w1c _ _ _ (by decide), ← is_bit]
  cases s.is .MOD_WDOG_EXPIRED
  · simp [Nat.testBit]
  · simp [bitAt, testBit_setBits]

theorem hold_safeCleared (t : Nat) (w : Word) (s : State) :
    (safeCleared t w s).is (.TILE_SAFE_HOLD t) = (s.is (.TILE_SAFE_HOLD t) && !bitAt w 0) := by
  have hw : bitAt (if s.is .MOD_WDOG_EXPIRED then setBits w 1 1 0 else w) 0 = bitAt w 0 := by
    split
    · exact testBit_setBits w 1 1 0 0 le_rfl
    · rfl
  rw [safeCleared, store, is_bit, rd_wr_same, bitAt_storedWord_w1c _ _ _ (by decide), ← is_bit, hw]
  simp

theorem exec_tileSafeWdogClear {r : Req} {w : Word} (ha : Admitted s r (Reg.TILE_SAFE t) Msk.TILE_SAFE) :
    exec (.tileSafeWdogClear r t w) s = .next (safeRefresh t (safeCleared t w s)) := by
  show execTileSafeWdogClear r t w s = _
  rw [execTileSafeWdogClear, regWrite_admitted _ _ _ _ _ _ ha]
  rfl

end Commands

/-- Settles O22: each command changes the causes of the tile's safe state, which the refresh then shows. -/
theorem tileSafeStates : Obligations.TileSafeStates := by
  unfold Obligations.TileSafeStates
  refine ⟨?hold, ?held, ?later, ?stale, ?clear⟩
  case hold =>
    intro s t m hp hk hn hm h0
    obtain ⟨hhold, hact, hc, hout, hf⟩ := holdExpired_spec t s
    exact ⟨holdExpired t s, exec_tileHoldExpiry hp hk, hhold, hact, hc, hout m hn hm h0, hf.rest, fun a h => hf.rd a (offSafe_of_reg h)⟩
  case held =>
    intro s t d e hp h0 he hd
    obtain ⟨hact, htile, hf⟩ := frameObeyed_spec t d e.toNat s
    refine ⟨frameObeyed t d e.toNat s, ?_, hact, ?_, hf.rest, fun a h => hf.rd a (offSafe_of_reg h)⟩
    · rw [exec_tileFrameReceive, frameReceive_eq hp, if_pos (.inr ⟨h0, he.symm, hd⟩)]
    · rw [htile, ← he, ← hd]
  case later =>
    intro s t d e hp h0 he
    have h0' : e.toNat ≠ 0 := fun h => h0 (BitVec.eq_of_toNat_eq h)
    obtain ⟨hact, htile, hf⟩ := frameObeyed_spec t d e.toNat s
    refine ⟨frameObeyed t d e.toNat s, ?_, hact, htile, hf.rest, fun a h => hf.rd a (offSafe_of_reg h)⟩
    rw [exec_tileFrameReceive, frameReceive_eq hp, if_pos]
    rcases he with he | ⟨h1, h2⟩
    · exact .inl (.inr ⟨he, h0'⟩)
    · exact .inl (.inl ⟨h0', h1, h2⟩)
  case stale =>
    intro s t d e hp h0 he hne
    rw [exec_tileFrameReceive, frameReceive_eq hp, if_neg]
    rintro ((⟨h1, h2, h3⟩ | ⟨h1, -⟩) | ⟨-, h1, h2⟩)
    · rcases he with rfl | he | ⟨he, -⟩
      · exact h1 rfl
      · omega
      · omega
    · exact h0 h1
    · exact hne.elim (fun h => h h1) fun h => h h2
  case clear =>
    intro s r t w ha
    have hf : Frame safeFrom (offSafe t) s (safeRefresh t (safeCleared t w s)) :=
      ((safeCleared_frame t w s).mono fun _ hg => (parts_of_offSafe hg).2.2).trans (safeRefresh_offSafe t _)
    refine ⟨_, exec_tileSafeWdogClear ha, ?_, ?_, ?_, hf.rest, fun a h => hf.rd a (offSafe_of_reg h)⟩
    · rw [tileSafe_safeRefresh _ _ rfl (by simp), wdog_safeCleared]
    · rw [tileSafe_safeRefresh _ _ rfl (by simp), hold_safeCleared]
    · rw [tileCause_safeRefresh, active_safeRefresh]

end Sys2Proof.Machine
end

section
/-! PROOFS. Samples of digital inputs (R68, R70, R84): what a sample decides, input by input. -/

namespace Sys2Proof.Machine

set_option Elab.async false

section Sample

variable {n m : Nat} {raw : Bool} {s u : State}

/-- A sample of input `n` decides no edge: the input has no supply, or is at its level, or its run does not complete. -/
def noEdge (s : State) (n : Nat) (raw : Bool) : Prop :=
  diagActive s n dgNoSupply = true ∨ s.is (.CH_DI_STATE_LEVEL n) = raw ∨ (s.ch n).run + 1 < debRun s n

/-- The run of differing samples after a sample that decides no edge (R68). -/
def sampleRun (s : State) (n : Nat) (raw : Bool) (x : ChSt) : ChSt :=
  if raw = s.is (.CH_DI_STATE_LEVEL n) then { x with run := 0 }
  else { x with run := x.run + 1, first := if (s.ch n).run = 0 then now s else (s.ch n).first }

/-- What such a sample of a supplied input leaves behind. -/
def sampled (n : Nat) (raw : Bool) (s : State) : State :=
  (diPeriodSat n (s.putB (.CH_DI_STATE_RAW n) raw)).modCh n (sampleRun s n raw)

theorem sampleRun_agree (h : raw = s.is (.CH_DI_STATE_LEVEL n)) : sampleRun s n raw = fun x => { x with run := 0 } :=
  funext fun _ => if_pos h

theorem sampleRun_differ (h : raw ≠ s.is (.CH_DI_STATE_LEVEL n)) :
    sampleRun s n raw = fun x => { x with run := x.run + 1, first := if (s.ch n).run = 0 then now s else (s.ch n).first } :=
  funext fun _ => if_neg h

theorem diSample1_noEdge (h : noEdge s n raw) : diSample1 n raw s = (if diagActive s n dgNoSupply then s else sampled n raw s, []) := by
  unfold diSample1
  by_cases hs : diagActive s n dgNoSupply = true
  · simp [hs]
  · by_cases hl : raw = s.is (.CH_DI_STATE_LEVEL n)
    · rw [sampled, sampleRun_agree hl]
      simp [hs, hl]
    · have hr : ¬ debRun s n ≤ (s.ch n).run + 1 := by
        rcases h with h | h | h
        · exact absurd h hs
        · exact absurd h.symm hl
        · omega
      rw [sampled, sampleRun_differ hl]
      simp [hs, hl, hr]

/-- A field that a sample of input `n` without an edge does not write. -/
def offSample (n : Nat) (g : FldRef) : Prop :=
  g.hi < 32 ∧ (FldRef.CH_DI_STATE_RAW n).apart g ∧ (FldRef.CH_DI_STATE_PERIOD_SAT n).apart g ∧ g.a ≠ Reg.CH_DI_PERIOD n

theorem diPeriodSat_frame (n : Nat) (s : State) :
    Frame outputsFrom (fun g => g.hi < 32 ∧ (FldRef.CH_DI_STATE_PERIOD_SAT n).apart g ∧ g.a ≠ Reg.CH_DI_PERIOD n) s (diPeriodSat n s) := by
  unfold diPeriodSat
  split
  · exact .ite (fun _ => ((Frame.refl s).wr _ _ fun g hg => hg.2.2).putApart (.CH_DI_STATE_PERIOD_SAT n) _ le_rfl fun g hg => ⟨hg.2.1, hg.1⟩)
      fun _ => .refl s
  · exact .refl s

theorem sampled_frame (n : Nat) (raw : Bool) (s : State) : Frame outputsFrom (offSample n) s (sampled n raw s) :=
  (((Frame.refl s).putApart (.CH_DI_STATE_RAW n) _ le_rfl fun _ hg => ⟨hg.2.1, hg.1⟩).trans
    ((diPeriodSat_frame n _).mono fun _ hg => ⟨hg.1, hg.2.2⟩)).trans (modCh_frame _ n _)

theorem ch_diPeriodSat (n : Nat) (s : State) (m : Nat) : (diPeriodSat n s).ch m = s.ch m := by
  unfold diPeriodSat
  split
  · split <;> rfl
  · rfl

theorem ch_sampled (n : Nat) (raw : Bool) (s : State) (m : Nat) : (sampled n raw s).ch m = if m = n then sampleRun s n raw (s.ch n) else s.ch m := by
  rw [sampled, ch_modCh, ch_diPeriodSat, ch_diPeriodSat, State.putB, ch_put, ch_put]

theorem raw_sampled (n : Nat) (raw : Bool) (s : State) : (sampled n raw s).is (.CH_DI_STATE_RAW n) = raw := by
  have hf : Frame outputsFrom _ (s.putB (.CH_DI_STATE_RAW n) raw) (sampled n raw s) := (diPeriodSat_frame n _).trans (modCh_frame _ n _)
  rw [hf.is _ ⟨by simp, by simp [FldRef.apart], by simp only [Reg.CH_DI_STATE, Reg.CH_DI_PERIOD]; omega⟩]
  exact is_putB _ _ _ (by simp) (by simp)

theorem offSample_level (n m : Nat) : offSample n (.CH_DI_STATE_LEVEL m) := by
  simp only [offSample, FldRef.apart, Reg.CH_DI_STATE, Reg.CH_DI_PERIOD]
  omega

theorem offSample_ne (h : m ≠ n) : offSample n (.CH_DI_STATE_RAW m) := by
  simp only [offSample, FldRef.apart, Reg.CH_DI_STATE, Reg.CH_DI_PERIOD]
  omega

theorem offSample_of_mod {g : FldRef} (h : g.a % 0x100 ≠ 0x24 ∧ g.a % 0x100 ≠ 0x2C) (hi : g.hi < 32) : offSample n g := by
  simp only [offSample, FldRef.apart, Reg.CH_DI_STATE, Reg.CH_DI_PERIOD]
  omega

theorem Frame.now {P : FldRef → Prop} (h : Frame outputsFrom P s u) : Machine.now u = Machine.now s := by
  rw [h.rest]
  rfl

/-- What a sample of input `m` is decided by is the same in both states. -/
structure SameInput (m : Nat) (s u : State) : Prop where
  supply : diagActive u m dgNoSupply = diagActive s m dgNoSupply
  level : u.is (.CH_DI_STATE_LEVEL m) = s.is (.CH_DI_STATE_LEVEL m)
  ch : u.ch m = s.ch m
  deb : debRun u m = debRun s m
  now : now u = now s

theorem SameInput.noEdge (h : SameInput m s u) (k : noEdge s m raw) : Machine.noEdge u m raw := by
  rwa [Machine.noEdge, h.supply, h.level, h.ch, h.deb]

theorem SameInput.sampleRun (h : SameInput m s u) (raw : Bool) : Machine.sampleRun u m raw (u.ch m) = Machine.sampleRun s m raw (s.ch m) := by
  rw [Machine.sampleRun, Machine.sampleRun, h.level, h.ch, h.now]

theorem SameInput.of_frame {P : FldRef → Prop} (h : Frame outputsFrom P s u) (hc : u.ch m = s.ch m) (ha : P (.CH_DIAG_ACTIVE m))
    (hl : P (.CH_DI_STATE_LEVEL m)) (hd : P (.CH_DI_CFG_DEB m)) : SameInput m s u where
  supply := by rw [diagActive, h.get _ ha, diagActive]
  level := h.is _ hl
  ch := hc
  deb := by rw [debRun, h.get _ hd, debRun]
  now := h.now

end Sample

section Samples

variable {t : Nat} {raw : BitVec 8} {ks : List Nat} {s u : State}

/-- From `s` to `u` the inputs at positions `ks` of tile `t` are sampled, and none decides an edge. -/
structure Sampled (t : Nat) (raw : BitVec 8) (ks : List Nat) (s u : State) : Prop where
  frame : Frame outputsFrom (fun g => ∀ k ∈ ks, offSample (16 * t + k) g) s u
  others : ∀ m, (∀ k ∈ ks, m ≠ 16 * t + k) → u.ch m = s.ch m
  shown : ∀ k ∈ ks, diagActive s (16 * t + k) dgNoSupply = false →
    u.is (.CH_DI_STATE_RAW (16 * t + k)) = raw.toNat.testBit k ∧
      u.ch (16 * t + k) = sampleRun s (16 * t + k) (raw.toNat.testBit k) (s.ch (16 * t + k))

/-- One input's sample, as `Sampled` has it of a list. -/
theorem sampled_one (t : Nat) (raw : BitVec 8) (k : Nat) (s : State) :
    Sampled t raw [k] s (if diagActive s (16 * t + k) dgNoSupply then s else sampled (16 * t + k) (raw.toNat.testBit k) s) := by
  refine ⟨.ite (fun _ => .refl s) fun _ => (sampled_frame _ _ s).mono fun g hg => hg k (by simp), fun m hm => ?_, fun j hj hs => ?_⟩
  · split
    · rfl
    · rw [ch_sampled, if_neg (hm k (by simp))]
  · obtain rfl : j = k := by simpa using hj
    rw [hs, if_neg (by simp), raw_sampled, ch_sampled, if_pos rfl]
    exact ⟨rfl, rfl⟩

theorem Sampled.sameInput (h : Sampled t raw ks s u) {m : Nat} (hm : ∀ k ∈ ks, m ≠ 16 * t + k) : SameInput m s u :=
  .of_frame h.frame (h.others m hm) (fun _ _ => offSample_of_mod (by simp only [Reg.CH_DIAG]; omega) (by simp)) (fun _ _ => offSample_level _ m)
    fun _ _ => offSample_of_mod (by simp only [Reg.CH_DI_CFG]; omega) (by simp)

theorem Sampled.cons {k : Nat} {v : State} (hk : k ∉ ks) (h : Sampled t raw [k] s v) (i : Sampled t raw ks v u) : Sampled t raw (k :: ks) s u := by
  have hne (j : Nat) (hj : j ∈ ks) : 16 * t + j ≠ 16 * t + k := fun e => hk ((show j = k by omega) ▸ hj)
  refine ⟨(h.frame.mono fun g hg j hj => hg j (by simp_all)).trans (i.frame.mono fun g hg j hj => hg j (by simp [hj])), fun m hm => ?_, fun j hj hs => ?_⟩
  · rw [i.others m fun j hj => hm j (by simp [hj]), h.others m fun j hj => hm j (by simp_all)]
  · by_cases hjk : j = k
    · subst hjk
      obtain ⟨hr, hc⟩ := h.shown j (by simp) hs
      rw [i.frame.is _ fun l hl => offSample_ne (hne l hl).symm, i.others _ fun l hl => (hne l hl).symm]
      exact ⟨hr, hc⟩
    · replace hj : j ∈ ks := (List.mem_cons.mp hj).resolve_left hjk
      have hsame := h.sameInput (m := 16 * t + j) fun l hl => by
        obtain rfl : l = k := by simpa using hl
        exact hne j hj
      obtain ⟨hr, hc⟩ := i.shown j hj (hsame.supply.trans hs)
      exact ⟨hr, hc.trans (hsame.sampleRun _)⟩

/-- Samples none of which decides an edge make no triggers. -/
theorem diSamples_noEdge (hks : ks.Nodup) (h : ∀ k ∈ ks, noEdge s (16 * t + k) (raw.toNat.testBit k)) (l : List Trig) :
    ∃ u, diSamples t raw ks (s, l) = (u, l) ∧ Sampled t raw ks s u := by
  induction ks generalizing s with
  | nil => exact ⟨s, rfl, .refl s, fun _ _ => rfl, by simp⟩
  | cons k ks ih =>
    obtain ⟨hk, hks⟩ := List.nodup_cons.mp hks
    have hone := sampled_one t raw k s
    rw [diSamples]
    simp only
    rw [diSample1_noEdge (h k (by simp)), List.append_nil]
    obtain ⟨u, hu, hs⟩ := ih hks (s := if diagActive s (16 * t + k) dgNoSupply then s else sampled (16 * t + k) (raw.toNat.testBit k) s) fun j hj => by
      have hjk : j ≠ k := fun e => hk (e ▸ hj)
      have hsame := hone.sameInput (m := 16 * t + j) fun l hl => by
        obtain rfl : l = k := by simpa using hl
        omega
      exact hsame.noEdge (h j (by simp [hj]))
    exact ⟨u, hu, hone.cons hk hs⟩

end Samples

end Sys2Proof.Machine
end

section
/-! PROOFS. The contexts that triggers reach (R336): those whose `CTX_CFG.EN` reads 1. -/

namespace Sys2Proof.Machine

set_option Elab.async false

variable {s t : State} {c : Nat}

/-- No context is enabled after reset (R332). -/
theorem bit_reset_ctxCfg : ∀ c < 160, bits (resetWord (Reg.CTX_CFG c)) 31 31 = 0 := by decide +kernel

theorem kget_unlisted {α : Type} (d : α) {m : KMap α} {k : Nat} (h : ∀ p ∈ m, p.1 ≠ k) : kget d m k = d := by
  induction m with
  | nil => rfl
  | cons p m ih =>
    rw [kget, if_neg (h p (by simp)).symm]
    exact ih fun q hq => h q (by simp [hq])

theorem mem_enabledCtxs_iff (hc : c < 160) : c ∈ enabledCtxs s ↔ s.is (.CTX_CFG_EN c) = true := by
  constructor
  · exact fun h => (List.mem_filter.mp h).2
  · intro h
    refine List.mem_filter.mpr ⟨List.mem_filterMap.mpr ?_, h⟩
    by_contra hn
    have hrd : rd s (Reg.CTX_CFG c) = resetWord (Reg.CTX_CFG c) := kget_unlisted _ fun p hp hk =>
      hn ⟨p, hp, by rw [hk, if_pos (by simp only [Reg.CTX_CFG]; omega)]; simp only [Reg.CTX_CFG, Option.some.injEq]; omega⟩
    rw [State.is, State.get, hrd, bit_reset_ctxCfg c hc] at h
    exact absurd h (by decide)

/-- Where the contexts' enables read as before, no more contexts are enabled. -/
theorem enabledCtxs_eq_nil (h : ∀ c < 160, t.is (.CTX_CFG_EN c) = s.is (.CTX_CFG_EN c)) (hs : enabledCtxs s = []) : enabledCtxs t = [] := by
  refine List.eq_nil_iff_forall_not_mem.mpr fun c hc => ?_
  have hlt := lt_of_mem_enabledCtxs hc
  rw [mem_enabledCtxs_iff hlt, h c hlt, ← mem_enabledCtxs_iff hlt, hs] at hc
  exact absurd hc (by simp)

theorem fireTrigs_nil (s : State) : fireTrigs [] s = noteTrigs [] s :=
  each_ind (· = noteTrigs [] s) _ _ _ rfl fun _ _ _ h => h

theorem fireTrigs_of_noCtx {ts : List Trig} (h : enabledCtxs s = []) : fireTrigs ts s = noteTrigs ts s := by
  rw [fireTrigs, h]
  rfl

/-- `s` with its registers, its channels and the triggers kept for a takeover taken from `t`. -/
def samplesFrom (s t : State) : State := { s with regs := t.regs, chans := t.chans, ltrigs := t.ltrigs }

theorem noteTrigs_samples {P : FldRef → Prop} (ts : List Trig) (s : State) : Frame samplesFrom P s (noteTrigs ts s) :=
  .ite (fun _ => .of_regs rfl rfl) fun _ => .refl s

theorem is_noteTrigs (ts : List Trig) (s : State) (g : FldRef) : (noteTrigs ts s).is g = s.is g :=
  (noteTrigs_samples (P := fun _ => True) ts s).is g trivial

theorem ch_noteTrigs (ts : List Trig) (s : State) (m : Nat) : (noteTrigs ts s).ch m = s.ch m := by
  unfold noteTrigs
  split <;> rfl

end Sys2Proof.Machine
end

section
/-! PROOFS. Samples of a tile (R68): those that decide no edge, and the edge of its input 0. -/

namespace Sys2Proof.Machine

set_option Elab.async false

section Quiet

variable {t : Nat} {raw : BitVec 8} {ks : List Nat} {s u v : State}

/-- What the samples of a tile's inputs leave behind, and the triggers noted after them. -/
theorem Sampled.noted (h : Sampled t raw ks s u) (ts : List Trig) :
    Frame samplesFrom (fun g => ∀ k ∈ ks, offSample (16 * t + k) g) s (noteTrigs ts u) :=
  (h.frame.mono fun _ hg => hg).trans (noteTrigs_samples ts u)

theorem offSample_of_reg {g : FldRef} {k : Nat} (hk : k < 8) (hi : g.hi < 32) (ha : ¬ g.a / 0x1000 = 0x20 + t) : offSample (16 * t + k) g := by
  simp only [offSample, FldRef.apart, Reg.CH_DI_STATE, Reg.CH_DI_PERIOD]
  omega

end Quiet

/-- A sample of a tile that decides no edge (R68). -/
theorem exec_diSample_noEdge {s : State} {t : Fin 16} {raw : BitVec 8} (hp : (s.tile t).power = true)
    (h : ∀ k < 8, noEdge s (16 * t + k) (raw.toNat.testBit k)) :
    ∃ u, exec (.diSample t raw) s = .next (noteTrigs [] u) ∧ Sampled t raw (List.range 8) s u := by
  obtain ⟨u, hu, hs⟩ := diSamples_noEdge (t := t) (raw := raw) List.nodup_range (fun k hk => h k (List.mem_range.mp hk)) []
  refine ⟨u, ?_, hs⟩
  show execDiSample t raw s = _
  rw [execDiSample, if_pos hp, hu, ← fireTrigs_nil]

end Sys2Proof.Machine
end

section
/-! PROOFS. A debounced edge of a digital input that has no other consequence (R68, R70). -/

namespace Sys2Proof.Machine

set_option Elab.async false

section Edge

variable {n m ts : Nat} {up : Bool} {s : State}

/-- An edge of input `n` is counted, and nothing else follows from it: it raises no event, times no period, and no bank takes it. -/
structure OnlyCounted (n : Nat) (s : State) : Prop where
  event : s.get (.CH_DI_EV_EDGE n) = 0
  period : s.get (.CH_DI_CFG_PER_EDGE n) = 0
  count : s.get (.CH_DI_CFG_CNT_EDGE n) = 3
  bank0 : bankState s 0 ≠ 1
  bank1 : bankState s 1 ≠ 1

/-- What such an edge leaves behind: the level, the stamp and the count. -/
def edgeCounted (n : Nat) (up : Bool) (ts : Nat) (s : State) : State :=
  (((s.putB (.CH_DI_STATE_LEVEL n) up).modCh n (fun x => { x with run := 0 })).put64 (Reg.CH_DI_TS n 0) ts).incWrap (.CH_DI_EDGES_EDGES n)

/-- A field that such an edge does not write. -/
def offEdge (n : Nat) (g : FldRef) : Prop :=
  g.hi < 32 ∧ (FldRef.CH_DI_STATE_LEVEL n).apart g ∧ g.a ≠ Reg.CH_DI_TS n 0 ∧ g.a ≠ Reg.CH_DI_TS n 0 + 4 ∧ g.a ≠ Reg.CH_DI_EDGES n

theorem edgeCounted_frame (n : Nat) (up : Bool) (ts : Nat) (s : State) : Frame outputsFrom (offEdge n) s (edgeCounted n up ts s) :=
  (((((Frame.refl s).putApart (.CH_DI_STATE_LEVEL n) _ le_rfl fun _ hg => ⟨hg.2.1, hg.1⟩).trans (modCh_frame _ n _)).wr _ _
    fun _ hg => hg.2.2.1).wr _ _ fun _ hg => hg.2.2.2.1).put (.CH_DI_EDGES_EDGES n) _ fun _ hg => hg.2.2.2.2

theorem ch_edgeCounted (n : Nat) (up : Bool) (ts : Nat) (s : State) (m : Nat) :
    (edgeCounted n up ts s).ch m = if m = n then { s.ch n with run := 0 } else s.ch m := by
  rw [edgeCounted, State.incWrap, ch_put]
  exact ch_modCh (s.putB (.CH_DI_STATE_LEVEL n) up) n (fun x => { x with run := 0 }) m

/-- Of the input's registers that such an edge writes, no two are one. -/
theorem edge_regs_ne (n : Nat) : Reg.CH_DI_STATE n ≠ Reg.CH_DI_EDGES n ∧ Reg.CH_DI_STATE n ≠ Reg.CH_DI_TS n 0 ∧
    Reg.CH_DI_STATE n ≠ Reg.CH_DI_TS n 0 + 4 ∧ Reg.CH_DI_TS n 0 ≠ Reg.CH_DI_EDGES n ∧ Reg.CH_DI_TS n 0 + 4 ≠ Reg.CH_DI_EDGES n := by
  simp only [Reg.CH_DI_STATE, Reg.CH_DI_TS, Reg.CH_DI_EDGES]
  omega

theorem level_edgeCounted : (edgeCounted n up ts s).is (.CH_DI_STATE_LEVEL n) = up := by
  obtain ⟨h1, h2, h3, -, -⟩ := edge_regs_ne n
  rw [State.is, edgeCounted, State.incWrap, State.put64, get_put_ne _ _ _ _ h1, get_wr_ne _ _ _ _ h3, get_wr_ne _ _ _ _ h2]
  exact is_putB s (.CH_DI_STATE_LEVEL n) up (by simp) (by simp)

theorem stamp_edgeCounted (hts : ts < 2 ^ 64) : (edgeCounted n up ts s).get64 (Reg.CH_DI_TS n 0) = ts := by
  obtain ⟨-, -, -, h1, h2⟩ := edge_regs_ne n
  rw [State.get64, edgeCounted, State.incWrap, rd_put_ne _ _ _ _ h1, rd_put_ne _ _ _ _ h2, State.put64, rd_wr_same,
    rd_wr_ne _ _ _ _ (by simp), rd_wr_same]
  simp only [wd, BitVec.toNat_ofNat]
  omega

theorem setBits_all (w : Word) (v : Nat) : setBits w 31 0 v = wd v := by
  apply BitVec.eq_of_toNat_eq
  have := w.isLt
  simp [setBits, wd]
  omega

theorem edges_edgeCounted : rd (edgeCounted n up ts s) (Reg.CH_DI_EDGES n) = rd s (Reg.CH_DI_EDGES n) + 1 := by
  obtain ⟨h1, -, -, h2, h3⟩ := edge_regs_ne n
  rw [edgeCounted, State.incWrap, State.put, rd_wr_same, setBits_all, State.get, State.put64, rd_wr_ne _ _ _ _ h3.symm, rd_wr_ne _ _ _ _ h2.symm]
  rw [show rd ((s.putB (.CH_DI_STATE_LEVEL n) up).modCh n _) (Reg.CH_DI_EDGES n) = rd s (Reg.CH_DI_EDGES n) from rd_put_ne s _ _ _ h1.symm]
  apply BitVec.eq_of_toNat_eq
  simp [bits, nbits, wd, BitVec.toNat_add]

theorem dipPatch_idle (f : KMap Word → KMap Word) (h0 : bankState s 0 ≠ 1) (h1 : bankState s 1 ≠ 1) : dipPatch ts f s = s := by
  simp [dipPatch, State.each, h0, h1]

theorem offEdge_of_mod {g : FldRef} (hi : g.hi < 32) (h : g.a % 0x100 < 0x24 ∨ 0x34 < g.a % 0x100) : offEdge n g := by
  simp only [offEdge, FldRef.apart, Reg.CH_DI_STATE, Reg.CH_DI_TS, Reg.CH_DI_EDGES]
  omega

theorem diCount_onlyCounted (h : OnlyCounted n s) :
    diCount n up ts ((s.putB (.CH_DI_STATE_LEVEL n) up).modCh n (fun x => { x with run := 0 })) = edgeCounted n up ts s := by
  have hne : Reg.CH_DI_CFG n ≠ Reg.CH_DI_STATE n := by simp only [Reg.CH_DI_CFG, Reg.CH_DI_STATE]; omega
  have hget (g : FldRef) (hg : g.a = Reg.CH_DI_CFG n) : ((s.putB (.CH_DI_STATE_LEVEL n) up).modCh n (fun x => { x with run := 0 })).get g = s.get g :=
    get_put_ne s (.CH_DI_STATE_LEVEL n) g _ (hg ▸ hne)
  rw [diCount, hget _ rfl, hget _ rfl, h.count, h.period]
  rfl

theorem bankState_edgeCounted (n : Nat) (up : Bool) (ts : Nat) (s : State) (b : Nat) : bankState (edgeCounted n up ts s) b = bankState s b := by
  have hf := edgeCounted_frame n up ts s
  have hd : Reg.EV_DIP_STAT % 0x100 < 0x24 := by decide
  rw [bankState, bankState, hf.get _ (offEdge_of_mod (by simp) (.inl hd)), hf.get _ (offEdge_of_mod (by simp) (.inl hd))]

/-- Such an edge (R68, R70). -/
theorem diEdge_onlyCounted (h : OnlyCounted n s) : diEdge n up ts s = (edgeCounted n up ts s, [.di n up ts]) := by
  have hev : (edgeCounted n up ts s).get (.CH_DI_EV_EDGE n) = 0 :=
    ((edgeCounted_frame n up ts s).get _ (offEdge_of_mod (by simp) (by simp only [Reg.CH_DI_EV]; omega))).trans h.event
  rw [diEdge, diCount_onlyCounted h, dipEdge,
    dipPatch_idle _ ((bankState_edgeCounted ..).trans_ne h.bank0) ((bankState_edgeCounted ..).trans_ne h.bank1), diEvent]
  cases up <;> simp [hev]

theorem OnlyCounted.raw (h : OnlyCounted n s) (b : Bool) : OnlyCounted n (s.putB (.CH_DI_STATE_RAW n) b) := by
  have hget (g : FldRef) (hg : g.a ≠ Reg.CH_DI_STATE n) : (s.putB (.CH_DI_STATE_RAW n) b).get g = s.get g := get_put_ne s _ g _ hg
  have hcfg : Reg.CH_DI_CFG n ≠ Reg.CH_DI_STATE n := by simp only [Reg.CH_DI_CFG, Reg.CH_DI_STATE]; omega
  have hdip : Reg.EV_DIP_STAT ≠ Reg.CH_DI_STATE n := by simp only [Reg.EV_DIP_STAT, Reg.CH_DI_STATE]; omega
  have hbank (k : Nat) : bankState (s.putB (.CH_DI_STATE_RAW n) b) k = bankState s k := by
    rw [bankState, bankState, hget _ hdip, hget _ hdip]
  exact {
    event := (hget _ (by simp only [Reg.CH_DI_EV, Reg.CH_DI_STATE]; omega)).trans h.event
    period := (hget _ hcfg).trans h.period
    count := (hget _ hcfg).trans h.count
    bank0 := (hbank 0).trans_ne h.bank0
    bank1 := (hbank 1).trans_ne h.bank1 }

theorem diPeriodSat_idle (h : (s.ch n).perEdge = none) : diPeriodSat n s = s := by rw [diPeriodSat, h]

/-- The sample that completes the run of a supplied input whose period is not timed (R68). -/
theorem diSample1_edge (hs : diagActive s n dgNoSupply = false) (hl : s.is (.CH_DI_STATE_LEVEL n) = !up) (hp : (s.ch n).perEdge = none)
    (hr : 0 < (s.ch n).run) (hd : debRun s n ≤ (s.ch n).run + 1) (h : OnlyCounted n s) :
    diSample1 n up s = (edgeCounted n up (s.ch n).first (s.putB (.CH_DI_STATE_RAW n) up), [.di n up (s.ch n).first]) := by
  have hne : up ≠ !up := by cases up <;> decide
  rw [← diEdge_onlyCounted (h.raw up), diSample1, hs, hl, diPeriodSat_idle (n := n) (s := s.putB (.CH_DI_STATE_RAW n) up) hp]
  simp [hne, hd, Nat.ne_of_gt hr]

end Edge

end Sys2Proof.Machine
end

section
/-! PROOFS. The commands of digital inputs (R68, R70, R71, R232). -/

namespace Sys2Proof.Machine

set_option Elab.async false

section EdgeOnFirst

variable {t : Nat} {up : Bool} {s : State}

/-- The comparators of a tile of which input 0 alone is at a level, `up`. -/
theorem testBit_firstRaw (up : Bool) (k : Nat) : (if up then 1 else 0 : BitVec 8).toNat.testBit k = (decide (k = 0) && up) := by
  cases up
  · simp
  · rw [if_pos rfl, show (1 : BitVec 8).toNat = 2 ^ 0 from rfl, Nat.testBit_two_pow]
    simp [eq_comm]

/-- Input 0 of a tile after the sample that completes its run. -/
def firstEdge (t : Nat) (up : Bool) (s : State) : State :=
  edgeCounted (16 * t) up (s.ch (16 * t)).first (s.putB (.CH_DI_STATE_RAW (16 * t)) up)

theorem firstEdge_frame (t : Nat) (up : Bool) (s : State) :
    Frame outputsFrom (fun g => (FldRef.CH_DI_STATE_RAW (16 * t)).apart g ∧ offEdge (16 * t) g) s (firstEdge t up s) :=
  ((Frame.refl s).putApart (.CH_DI_STATE_RAW (16 * t)) _ le_rfl fun _ hg => ⟨hg.1, hg.2.1⟩).trans
    ((edgeCounted_frame _ _ _ _).mono fun _ hg => hg.2)

theorem offFirst_ne {k : Nat} {g : FldRef} (hk : k ≠ 0) (hi : g.hi < 32) (hg : g.a / 0x100 = 0x200 + 16 * t + k) :
    (FldRef.CH_DI_STATE_RAW (16 * t)).apart g ∧ offEdge (16 * t) g := by
  simp only [offEdge, FldRef.apart, Reg.CH_DI_STATE, Reg.CH_DI_TS, Reg.CH_DI_EDGES]
  omega

theorem noEdge_firstEdge {k : Nat} (hk : k ≠ 0) (hl : s.is (.CH_DI_STATE_LEVEL (16 * t + k)) = false) :
    noEdge (firstEdge t up s) (16 * t + k) ((if up then 1 else 0 : BitVec 8).toNat.testBit k) := by
  refine .inr (.inl ?_)
  rw [(firstEdge_frame t up s).is _ (offFirst_ne hk (by simp) (by simp only [Reg.CH_DI_STATE]; omega)), hl, testBit_firstRaw]
  simp [hk]

/-- The samples of a tile whose input 0 completes its run while its other inputs are quiet. -/
theorem diSamples_firstEdge
    (h : diSample1 (16 * t) up s = (firstEdge t up s, [.di (16 * t) up (s.ch (16 * t)).first]))
    (hl : ∀ k < 8, k ≠ 0 → s.is (.CH_DI_STATE_LEVEL (16 * t + k)) = false) :
    ∃ u, diSamples t (if up then 1 else 0) (List.range 8) (s, []) = (u, [.di (16 * t) up (s.ch (16 * t)).first]) ∧
      Sampled t (if up then 1 else 0) [1, 2, 3, 4, 5, 6, 7] (firstEdge t up s) u := by
  have h0 : diSample1 (16 * t + 0) ((if up then 1 else 0 : BitVec 8).toNat.testBit 0) s = (firstEdge t up s, [.di (16 * t) up (s.ch (16 * t)).first]) := by
    rw [testBit_firstRaw]
    exact h
  rw [show List.range 8 = [0, 1, 2, 3, 4, 5, 6, 7] from rfl, diSamples, h0]
  refine diSamples_noEdge (by decide) (fun k hk => noEdge_firstEdge ?_ (hl k ?_ ?_)) _ <;> (simp at hk; omega)

/-- What the state shows after such samples. -/
theorem shown_firstEdge {raw : BitVec 8} {u : State} (h : Sampled t raw [1, 2, 3, 4, 5, 6, 7] (firstEdge t up s) u) (ts : List Trig)
    (hx : (s.ch (16 * t)).first < 2 ^ 64) :
    (noteTrigs ts u).is (.CH_DI_STATE_LEVEL (16 * t)) = up ∧
      (noteTrigs ts u).get64 (Reg.CH_DI_TS (16 * t) 0) = (s.ch (16 * t)).first ∧
      rd (noteTrigs ts u) (Reg.CH_DI_EDGES (16 * t)) = rd s (Reg.CH_DI_EDGES (16 * t)) + 1 ∧
      ((noteTrigs ts u).ch (16 * t)).run = 0 ∧
      Frame samplesFrom (fun g => g.hi < 32 ∧ ¬ g.a / 0x1000 = 0x20 + t) s (noteTrigs ts u) := by
  have hf := h.noted ts
  refine ⟨?level, ?stamp, ?edges, ?run, ?frame⟩
  case level => exact (hf.is _ fun _ _ => offSample_level _ _).trans level_edgeCounted
  case stamp =>
    rw [State.get64, hf.rd _ fun _ _ => offSample_of_mod (by simp only [Reg.CH_DI_TS]; omega) (by simp),
      hf.rd _ fun _ _ => offSample_of_mod (by simp only [Reg.CH_DI_TS]; omega) (by simp)]
    exact stamp_edgeCounted hx
  case edges =>
    rw [hf.rd _ fun _ _ => offSample_of_mod (by simp only [Reg.CH_DI_EDGES]; omega) (by simp), firstEdge, edges_edgeCounted,
      State.putB, rd_put_ne _ _ _ _ (edge_regs_ne _).1.symm]
  case run =>
    rw [ch_noteTrigs, h.others _ (by simp), firstEdge, ch_edgeCounted, if_pos rfl]
  case frame =>
    refine ((firstEdge_frame t up s).mono (g := samplesFrom) fun g hg => ?_).trans (hf.mono fun g hg k hk => ?_)
    · obtain ⟨hi, ha⟩ := hg
      simp only [offEdge, FldRef.apart, Reg.CH_DI_STATE, Reg.CH_DI_TS, Reg.CH_DI_EDGES]
      omega
    · exact offSample_of_reg (by simp at hk; omega) hg.1 hg.2

end EdgeOnFirst

section Clauses

variable {s : State} {t : Fin 16}

/-- The edge of input 0 of a tile whose other inputs are quiet (R68, R70), where no context is enabled. -/
theorem exec_diSample_firstEdge {up : Bool} (hp : (s.tile t).power = true) (hc : enabledCtxs s = []) (h : OnlyCounted (16 * t) s)
    (hs : diagActive s (16 * t) dgNoSupply = false) (h0 : s.is (.CH_DI_STATE_LEVEL (16 * t)) = !up)
    (hl : ∀ k < 8, k ≠ 0 → s.is (.CH_DI_STATE_LEVEL (16 * t + k)) = false)
    (he : (s.ch (16 * t)).perEdge = none) (hr : 0 < (s.ch (16 * t)).run) (hd : debRun s (16 * t) ≤ (s.ch (16 * t)).run + 1) :
    ∃ ts u, exec (.diSample t (if up then 1 else 0)) s = .next (noteTrigs ts u) ∧
      Sampled t (if up then 1 else 0) [1, 2, 3, 4, 5, 6, 7] (firstEdge t up s) u := by
  obtain ⟨u, hu, hq⟩ := diSamples_firstEdge (diSample1_edge hs h0 he hr hd h) hl
  have hctx : enabledCtxs u = [] := enabledCtxs_eq_nil (s := s) (fun c hc => by
    rw [hq.frame.is _ fun k _ => offSample_of_mod (by simp only [Reg.CTX_CFG]; omega) (by simp)]
    exact (firstEdge_frame _ up s).is _ ⟨.inl (by simp only [Reg.CH_DI_STATE, Reg.CTX_CFG]; omega),
      offEdge_of_mod (by simp) (by simp only [Reg.CTX_CFG]; omega)⟩) hc
  refine ⟨[.di (16 * t) up (s.ch (16 * t)).first], u, ?_, hq⟩
  show execDiSample t _ s = _
  rw [execDiSample, if_pos hp, hu, ← fireTrigs_of_noCtx hctx]

theorem exec_diEdgesPreset {r : Req} {n : Fin 256} {w : Word} (hn : isDI n = true) (ha : Admitted s r (Reg.CH_DI_EDGES n) Msk.CH_DI_EDGES) :
    exec (.diEdgesPreset r n w) s = .next (wr (Reg.CH_DI_EDGES n) w s) := by
  show execDiEdgesPreset r n w s = _
  rw [execDiEdgesPreset, if_pos hn, regWrite_admitted _ _ _ _ _ _ ha]

theorem exec_diEvWrite {r : Req} {n : Fin 256} {w : Word} (hn : isDI n = true) (ha : Admitted s r (Reg.CH_DI_EV n) Msk.CH_DI_EV) :
    exec (.diEvWrite r n w) s = .next (diEvWrite n w s) := by
  show execDiEvWrite r n w s = _
  rw [execDiEvWrite, if_pos hn, regWrite_admitted _ _ _ _ _ _ ha]

theorem ch_diEvWrite (n : Nat) (w : Word) (s : State) :
    (diEvWrite n w s).ch n = { s.ch n with bucket := evCap (diEvWrite n w s) n, lastTs := now s } :=
  ch_modCh_same (store (Reg.CH_DI_EV n) Msk.CH_DI_EV w s) n fun x => { x with bucket := evCap (diEvWrite n w s) n, lastTs := now s }

end Clauses

/-- Settles O19: a sample decides each input for itself (`Sampled`), and the edge that it may decide has no consequence but its count. -/
theorem digitalInputCommands : Obligations.DigitalInputCommands := by
  unfold Obligations.DigitalInputCommands
  refine ⟨?agree, ?differ, ?edge, fun s r n w hn ha => exec_diEdgesPreset hn ha, ?settings⟩
  case agree =>
    intro s t raw hp h
    have hne (k : Nat) (hk : k < 8) : noEdge s (16 * t + k) (raw.toNat.testBit k) := (h ⟨k, hk⟩).elim .inl fun h => .inr (.inl h)
    obtain ⟨u, hu, hs⟩ := exec_diSample_noEdge hp hne
    have hf := hs.noted []
    refine ⟨_, hu, fun k => ⟨hf.is _ fun _ _ => offSample_level _ _, fun hk => ?_⟩, hf.rest,
      fun a ha => hf.rd a fun k hk => offSample_of_reg (List.mem_range.mp hk) (by simp) ha⟩
    obtain ⟨hraw, hch⟩ := hs.shown k (List.mem_range.mpr k.isLt) hk
    have hl := ((h k).resolve_left (by simp [hk])).symm
    rw [ch_noteTrigs, hch, sampleRun_agree hl]
    exact ⟨(is_noteTrigs [] u _).trans hraw, rfl⟩
  case differ =>
    intro s t raw j hp h hj hl hr
    have hne (k : Nat) (hk : k < 8) : noEdge s (16 * t + k) (raw.toNat.testBit k) := by
      by_cases hkj : k = j
      · exact hkj ▸ .inr (.inr hr)
      · exact (h ⟨k, hk⟩ fun e => hkj (congrArg Fin.val e)).elim .inl fun h => .inr (.inl h)
    obtain ⟨u, hu, hs⟩ := exec_diSample_noEdge hp hne
    have hf := hs.noted []
    obtain ⟨hraw, hch⟩ := hs.shown j (List.mem_range.mpr j.isLt) hj
    have hch' : ((noteTrigs [] u).ch (16 * t + j)) = _ := (ch_noteTrigs [] u _).trans (hch.trans (congrFun (sampleRun_differ (by rw [hl]; simp)) _))
    exact ⟨_, hu, hf.is _ fun _ _ => offSample_level _ _, (is_noteTrigs [] u _).trans hraw, by rw [hch'], by rw [hch'], hf.rest,
      fun a ha => hf.rd a fun k hk => offSample_of_reg (List.mem_range.mp hk) (by simp) ha⟩
  case edge =>
    intro s t up x hp hc hb0 hb1 hin hev hper hcnt hx hr hd hts
    subst hx
    obtain ⟨hs0, hl0, he0⟩ := hin 0
    obtain ⟨ts, u, hu, hs⟩ := exec_diSample_firstEdge (up := up) hp hc ⟨hev, hper, hcnt, hb0, hb1⟩ hs0 hl0
      (fun k hk h0 => (hin ⟨k, hk⟩).2.1.trans (if_neg fun e => h0 (congrArg Fin.val e))) he0 hr hd
    obtain ⟨hlevel, hstamp, hedges, hrun, hf⟩ := shown_firstEdge hs ts hts
    exact ⟨_, hu, hlevel, hstamp, hedges, hrun, (hf.mono (g := fun s t => { samplesFrom s t with dips := t.dips }) fun _ hg => hg).rest,
      fun a ha => hf.rd a ⟨by simp, ha⟩⟩
  case settings =>
    intro s r n w hn ha
    have hf : Frame outputsFrom (fun g => g.a ≠ Reg.CH_DI_EV n) s (diEvWrite n w s) :=
      ((Frame.refl s).wr (Reg.CH_DI_EV n) _ fun _ hg => hg).trans (modCh_frame _ n fun x => _)
    exact ⟨_, exec_diEvWrite hn ha, rd_wr_same _ _ s, ch_diEvWrite n w s, hf.rest, fun a ha => hf.rd a ha⟩

end Sys2Proof.Machine
end

section
/-! PROOFS. A reset of a filter chain (R184 to R186, R249) and inject mode (R121, R122): what they change, and what a channel then shows. -/

namespace Sys2Proof.Machine

set_option Elab.async false

section Resets

variable {P : FldRef → Prop} {n : Nat} {s t : State}

/-- `s` with its registers, its chains and the banks of the dip taken from `t`. -/
def resetsFrom (s t : State) : State := { s with regs := t.regs, chains := t.chains, dips := t.dips }

/-- A field outside the registers that a reset of channel `n`'s chain returns. -/
def offChain (n : Nat) (g : FldRef) : Prop := chainReg n g.a = false

theorem ne_of_offChain {g : FldRef} (h : offChain n g) : g.a ≠ Reg.CH_FC_STATE n ∧ g.a ≠ Reg.CH_LAST n ∧ g.a ≠ Reg.CH_LAST_SEQ n ∧
    g.a ≠ Reg.CH_TH_STATE n 0 ∧ g.a ≠ Reg.CH_TH_STATE n 1 := by
  simpa only [offChain, chainReg, Bool.or_eq_false_iff, beq_eq_false_iff_ne, and_assoc] using h

theorem setChain_frame (n : Nat) (x : ChainSt) (s : State) : Frame resetsFrom P s (s.setChain n x) := .of_regs rfl rfl

theorem dipPatch_resets (k : Nat) (F : KMap Word → KMap Word) (s : State) : Frame resetsFrom P s (dipPatch k F s) :=
  .each _ _ _ fun _ _ t => .ite (fun _ => .of_regs rfl rfl) fun _ => .refl t

theorem takeUp_frame (n : Nat) (s : State) : Frame resetsFrom (offChain n) s (takeUp n s) := by
  unfold takeUp
  extract_lets x
  split
  case h_1 => exact .refl s
  case h_2 r _ =>
    refine .ite (fun _ => ?_) fun _ => .refl s
    have hlast (x : ChainSt) := (((setChain_frame (P := offChain n) n x s).wr (Reg.CH_LAST_SEQ n) 0 fun _ hg => (ne_of_offChain hg).2.2.1).wr
      (Reg.CH_LAST n) 0xC0 fun _ hg => (ne_of_offChain hg).2.1)
    exact ((((hlast _).wr _ 0 fun _ hg => (ne_of_offChain hg).2.2.2.2).wr _ 0 fun _ hg => (ne_of_offChain hg).2.2.2.1).put
      (.CH_FC_STATE_PRESET_EFF n) _ fun _ hg => (ne_of_offChain hg).1).trans (dipPatch_resets _ _ _)

theorem orderReset_frame (n : Nat) (sync : Bool) (r : Regime) (s : State) : Frame resetsFrom (offChain n) s (orderReset n sync r s) :=
  .ite (fun _ => (setChain_frame n _ s).trans (takeUp_frame n _)) fun _ => setChain_frame n _ s

theorem discont_frame (n : Nat) (s : State) : Frame resetsFrom (offChain n) s (discont n s) :=
  .ite (fun _ => orderReset_frame n _ _ s) fun _ => .refl s

/-- Of a channel's registers those below its chain's settings are none that a reset returns. -/
theorem offChain_of_mod {g : FldRef} (h : g.a % 0x100 < 0xA0) : offChain n g := by
  simp only [offChain, chainReg, Bool.or_eq_false_iff, beq_eq_false_iff_ne, Reg.CH_FC_STATE, Reg.CH_LAST, Reg.CH_LAST_SEQ, Reg.CH_TH_STATE]
  omega

/-- What a frame's changes do not touch is the same in both states. -/
theorem Frame.unchanged {α : Type} {f : State → State → State} (h : Frame f P s t) (v : State → α)
    (hv : ∀ s t, v (f s t) = v s := by exact fun _ _ => rfl) : v t = v s := (congrArg v h.rest).trans (hv s t)

end Resets

section Inject

variable {n : Nat} {on : Bool} {s : State}

/-- A field that a switch of channel `n` into or out of inject mode leaves. -/
def offInject (n : Nat) (g : FldRef) : Prop :=
  g.hi < 32 ∧ offChain n g ∧ g.a ≠ Reg.CH_AN_INJ n ∧ (FldRef.CH_AN_STATE_INJ n).apart g

theorem setInject_eq (n : Nat) (on : Bool) (s : State) : setInject n on s = if injecting s n = on then s.putB (.CH_AN_INJ_EN n) on
    else discont n (noteMarks n ((s.putB (.CH_AN_INJ_EN n) on).putB (.CH_AN_STATE_INJ n) on)) := rfl

theorem setInject_frame (n : Nat) (on : Bool) (s : State) : Frame resetsFrom (offInject n) s (setInject n on s) := by
  have hen : Frame resetsFrom (offInject n) s (s.putB (.CH_AN_INJ_EN n) on) := (Frame.refl s).put _ _ fun _ hg => hg.2.2.1
  refine .ite (fun _ => hen) fun _ => ?_
  exact ((hen.putApart (.CH_AN_STATE_INJ n) _ le_rfl fun _ hg => ⟨hg.2.2.2, hg.1⟩).trans ((noteMarks_frame n _).mono fun _ => id)).trans
    ((discont_frame n _).mono fun _ hg => hg.2.1)

/-- After the switch EN and INJ are what it was to (R121). -/
theorem is_setInject (n : Nat) (on : Bool) (s : State) :
    (setInject n on s).is (.CH_AN_INJ_EN n) = on ∧ injecting (setInject n on s) n = on := by
  have hne : Reg.CH_AN_INJ n ≠ Reg.CH_AN_STATE n := by simp only [Reg.CH_AN_INJ, Reg.CH_AN_STATE]; omega
  have hen : (s.putB (.CH_AN_INJ_EN n) on).is (.CH_AN_INJ_EN n) = on := is_putB _ _ _ (by simp) (by simp)
  have hreset (u : State) : Frame resetsFrom (offChain n) u (discont n (noteMarks n u)) :=
    ((noteMarks_frame n u).mono fun _ => id).trans (discont_frame n _)
  have hoff (g : FldRef) (hg : g.a = Reg.CH_AN_INJ n ∨ g.a = Reg.CH_AN_STATE n) : offChain n g :=
    offChain_of_mod (by simp only [Reg.CH_AN_INJ, Reg.CH_AN_STATE] at hg; omega)
  rw [setInject_eq]
  split
  case isTrue h =>
    refine ⟨hen, ?_⟩
    rw [injecting, is_putB_apart _ _ _ _ (by simp) (by simp) (.inl hne), ← injecting, h]
  case isFalse h =>
    rw [injecting, (hreset _).is _ (hoff _ (.inl rfl)), (hreset _).is _ (hoff _ (.inr rfl)), is_putB_apart _ _ _ _ (by simp) (by simp) (.inl hne.symm)]
    exact ⟨hen, is_putB _ _ _ (by simp) (by simp)⟩

/-- The fields of `CH_AN_STATE` but INJ. -/
theorem offInject_anState {g : FldRef} (ha : g.a = Reg.CH_AN_STATE n) (hi : g.hi < 8) : offInject n g := by
  refine ⟨by omega, offChain_of_mod (by rw [ha, Reg.CH_AN_STATE]; omega), by rw [ha, Reg.CH_AN_STATE, Reg.CH_AN_INJ]; omega, .inr (.inr hi)⟩

/-- Registers of no channel. -/
theorem offInject_of_noChannel {g : FldRef} (hn : n < 256) (hi : g.hi < 32) (h : g.a < 0x20000 ∨ 0x30000 ≤ g.a) : offInject n g := by
  simp only [offInject, offChain, chainReg, FldRef.apart, Bool.or_eq_false_iff, beq_eq_false_iff_ne, Reg.CH_FC_STATE, Reg.CH_LAST, Reg.CH_LAST_SEQ,
    Reg.CH_TH_STATE, Reg.CH_AN_INJ, Reg.CH_AN_STATE]
  omega

theorem modeOf_setInject (n : Nat) (on : Bool) (s : State) : modeOf (setInject n on s) n = modeOf s n :=
  (setInject_frame n on s).get _ (offInject_anState rfl (by simp))

end Inject

end Sys2Proof.Machine
end

section
/-! PROOFS. The status and the settings of an analog channel (R104, R110, R112, R113, R115, R125): what a refresh and a stored setting leave and show. -/

namespace Sys2Proof.Machine

set_option Elab.async false

section Stored

/-- A second write at a key replaces the first. -/
theorem kset_kset {α : Type} [DecidableEq α] (d v w : α) (k : Nat) (m : KMap α) : kset d (kset d m k v) k w = kset d m k w := by
  have hins (l : KMap α) : (kins k v l).filter (fun p => p.1 ≠ k) = l.filter (fun p => p.1 ≠ k) := by
    induction l with
    | nil => simp [kins]
    | cons p l ih =>
      rw [kins]
      split
      · simp
      · rw [List.filter_cons, List.filter_cons, ih]
  have hkey : (kset d m k v).filter (fun p => p.1 ≠ k) = m.filter (fun p => p.1 ≠ k) := by
    rw [kset]
    split
    · simp
    · rw [hins]
      simp
  rw [kset, hkey]
  rfl

theorem modCh_modCh (s : State) (n : Nat) (F G : ChSt → ChSt) : (s.modCh n F).modCh n G = s.setCh n (G (F (s.ch n))) := by
  rw [State.modCh, ch_modCh_same, State.modCh]
  exact congrArg (fun m => { s with chans := m }) (kset_kset _ _ _ _ _)

/-- A bit of a register without W1C bits, where a write may change it (R4). -/
theorem bitAt_storedWord {m : WMask} {k : Nat} (cur w : Word) (hk : k < 32) (hm : (m.rwl ||| m.rw).testBit k = true) (hc : m.w1c = 0) :
    bitAt (storedWord m cur w) k = bitAt w k := by
  simp only [storedWord, blend, hc, bitAt, BitVec.testBit_toNat, BitVec.getLsbD_and, BitVec.getLsbD_or, BitVec.getLsbD_not, BitVec.getLsbD_ofNat, hk, hm]
  simp

/-- A writable field of such a register. -/
theorem bits_storedWord {m : WMask} {hi lo : Nat} (cur w : Word) (hi32 : hi < 32) (hm : ∀ k, lo ≤ k → k ≤ hi → (m.rwl ||| m.rw).testBit k = true)
    (hc : m.w1c = 0) : bits (storedWord m cur w) hi lo = bits w hi lo := by
  refine Nat.eq_of_testBit_eq fun i => ?_
  simp only [bits, testBit_nbits]
  by_cases h : i < hi + 1 - lo
  · rw [← bitAt, ← bitAt, bitAt_storedWord cur w (by omega) (hm _ (by omega) (by omega)) hc]
  · simp [h]

end Stored

section Setting

variable {s : State} {r : Req} {n : Fin 256} {w : Word}

theorem aoSend_frame {P : FldRef → Prop} (n : Nat) (s : State) : Frame outputsFrom P s (aoSend n s) := modCh_frame s n _

theorem aoSend_modCh (n : Nat) (F : ChSt → ChSt) (s : State) : aoSend n (s.modCh n F) = s.setCh n { F (s.ch n) with
    tileSet := if (F (s.ch n)).setSeen then some (s.get (.CH_AO_SET_SET n)) else none, tileTrim := rd s (Reg.CH_AO_TRIM n) } := modCh_modCh s n F _

/-- A setting is stored up to 48,000 and sent with the trims (R112, R113, R115). -/
theorem aoSet_eq (n v : Nat) (s : State) : aoSet n v s =
    ((s.put (.CH_AO_SET_SET n) (min v 48000)).putB (.CH_AN_STATE_SET_CLAMP n) (decide (48000 < v))).setCh n
      { s.ch n with setSeen := true, tileSet := some (min v 48000), tileTrim := rd s (Reg.CH_AO_TRIM n) } := by
  have hset : ((s.put (.CH_AO_SET_SET n) (min v 48000)).putB (.CH_AN_STATE_SET_CLAMP n) (decide (48000 < v))).get (.CH_AO_SET_SET n) = min v 48000 := by
    rw [State.putB, get_put_ne _ _ _ _ (by simp only [Reg.CH_AO_SET, Reg.CH_AN_STATE]; omega), get_put _ _ _ (by simp) (by simp)]
    exact Nat.mod_eq_of_lt (by simp only; omega)
  have htrim : rd ((s.put (.CH_AO_SET_SET n) (min v 48000)).putB (.CH_AN_STATE_SET_CLAMP n) (decide (48000 < v))) (Reg.CH_AO_TRIM n) =
      rd s (Reg.CH_AO_TRIM n) := by
    rw [State.putB, rd_put_ne _ _ _ _ (by simp only [Reg.CH_AO_TRIM, Reg.CH_AN_STATE]; omega),
      rd_put_ne _ _ _ _ (by simp only [Reg.CH_AO_TRIM, Reg.CH_AO_SET]; omega)]
  rw [aoSet, aoSend_modCh, hset, htrim]
  rfl

theorem exec_aoSetWrite (hn : isAO n = true) (ha : Admitted s r (Reg.CH_AO_SET n) Msk.CH_AO_SET) :
    exec (.aoSetWrite r n w) s = .next (aoSet n (bits w 15 0) s) := by
  show execAoSetWrite r n w s = _
  rw [execAoSetWrite, if_pos hn, regWrite_admitted _ _ _ _ _ _ ha]

theorem exec_aoTrimWrite (hn : isAO n = true) (ha : Admitted s r (Reg.CH_AO_TRIM n) Msk.CH_AO_TRIM) :
    exec (.aoTrimWrite r n w) s = .next (aoTrimWrite n w s) := by
  show execAoTrimWrite r n w s = _
  rw [execAoTrimWrite, if_pos hn, regWrite_admitted _ _ _ _ _ _ ha]

/-- Trims are stored whole and sent with the setting (R113, R115). -/
theorem aoTrimWrite_spec (n : Nat) (w : Word) (s : State) :
    rd (aoTrimWrite n w s) (Reg.CH_AO_TRIM n) = storedWord Msk.CH_AO_TRIM (rd s (Reg.CH_AO_TRIM n)) w ∧
      (aoTrimWrite n w s).ch n = { s.ch n with
        tileTrim := rd (aoTrimWrite n w s) (Reg.CH_AO_TRIM n), tileSet := if (s.ch n).setSeen then some (s.get (.CH_AO_SET_SET n)) else none } ∧
      Frame outputsFrom (fun g => g.a ≠ Reg.CH_AO_TRIM n) s (aoTrimWrite n w s) := by
  have hset : (store (Reg.CH_AO_TRIM n) Msk.CH_AO_TRIM w s).get (.CH_AO_SET_SET n) = s.get (.CH_AO_SET_SET n) :=
    get_wr_ne _ _ _ _ (by simp only [Reg.CH_AO_SET, Reg.CH_AO_TRIM]; omega)
  have hstore : Frame outputsFrom (fun g => g.a ≠ Reg.CH_AO_TRIM n) s (store (Reg.CH_AO_TRIM n) Msk.CH_AO_TRIM w s) :=
    (Frame.refl s).wr _ _ fun _ hg => hg
  refine ⟨rd_wr_same _ _ s, ?_, hstore.trans (aoSend_frame n _)⟩
  rw [aoTrimWrite, aoSend, ch_modCh_same, hset]
  rfl

end Setting

section Status

variable {n : Nat} {s : State}

/-- A field that the status of analog channel `n` does not show. -/
def offLoop (n : Nat) (g : FldRef) : Prop := g.hi < 32 ∧ (FldRef.CH_AN_STATE_LP_ON n).apart g ∧ (FldRef.CH_AN_STATE_SAFE n).apart g

theorem anRefresh_status (n : Nat) (s : State) : Frame chainsFrom (offLoop n) s (anRefresh n s) :=
  (((Frame.refl s).putApart (.CH_AN_STATE_LP_ON n) _ le_rfl fun _ hg => ⟨hg.2.1, hg.1⟩).putApart (.CH_AN_STATE_SAFE n) _ le_rfl
    fun _ hg => ⟨hg.2.2, hg.1⟩).trans (noteMarks_frame n _)

/-- The fields of a register below the bit of SAFE. -/
theorem offLoop_of_lt {g : FldRef} (hi : g.hi < 6) : offLoop n g :=
  ⟨by omega, .inr (.inr (by simp only; omega)), .inr (.inr hi)⟩

theorem offLoop_of_ne {g : FldRef} (hi : g.hi < 32) (ha : g.a ≠ Reg.CH_AN_STATE n) : offLoop n g := ⟨hi, .inl ha.symm, .inl ha.symm⟩

theorem lpOn_anRefresh (n : Nat) (s : State) : (anRefresh n s).is (.CH_AN_STATE_LP_ON n) = lpOn s n := by
  unfold anRefresh
  rw [(noteMarks_frame (P := fun _ => True) n _).is _ trivial, is_putB_apart _ _ _ _ (by simp) (by simp) (by simp [FldRef.apart])]
  exact is_putB _ _ _ (by simp) (by simp)

/-- No loop power during a hiccup (R110). -/
theorem lpOn_of_retry (h : s.is (.CH_AN_STATE_LP_RETRY n) = true) : lpOn s n = false := by simp [lpOn, h]

/-- Loop power once the hiccup's off-phase ends (R103, R110, R124). -/
theorem lpOn_put_retry (n : Nat) (s : State) : lpOn (s.put (.CH_AN_STATE_LP_RETRY n) 0) n =
    (modeOf s n == 4 && (s.tile (n / 16)).power && !diagActive s n dgThermal && !diagActive s n dgNoSupply) := by
  have hretry : (s.put (.CH_AN_STATE_LP_RETRY n) 0).is (.CH_AN_STATE_LP_RETRY n) = false := is_putB s (.CH_AN_STATE_LP_RETRY n) false (by simp) (by simp)
  have hmode : (s.put (.CH_AN_STATE_LP_RETRY n) 0).get (.CH_AN_STATE_MODE_EFF n) = modeOf s n :=
    get_put_apart _ _ _ _ (by simp) (by simp) (by simp [FldRef.apart])
  have hdiag (b : Nat) : diagActive (s.put (.CH_AN_STATE_LP_RETRY n) 0) n b = diagActive s n b := by
    rw [diagActive, get_put_ne _ _ _ _ (chDiag_ne_anState n), ← diagActive]
  rw [lpOn, hretry, hmode, hdiag, hdiag, Bool.not_false, Bool.and_true]
  rfl

theorem exec_lpHiccupOff {n : Fin 256} (hn : isAN n = true) (h : s.is (.CH_AN_STATE_LP_ON n) = true) :
    exec (.lpHiccupOff n) s = .next (anRefresh n (s.set1 (.CH_AN_STATE_LP_RETRY n))) := by
  show execLpHiccupOff n s = _
  rw [execLpHiccupOff, hn, h]
  rfl

theorem exec_lpHiccupOn {n : Fin 256} (hn : isAN n = true) (h : s.is (.CH_AN_STATE_LP_RETRY n) = true) :
    exec (.lpHiccupOn n) s = .next
      ((s.put (.CH_AN_STATE_LP_RETRY n) 0).putB (.CH_AN_STATE_LP_ON n) (lpOn (s.put (.CH_AN_STATE_LP_RETRY n) 0) n)) := by
  show execLpHiccupOn n s = _
  rw [execLpHiccupOn, hn, h]
  rfl

/-- LP_HICCUP_OFF of a channel that sources loop power (R110). -/
theorem lpHiccupOff_spec {n : Fin 256} (hn : isAN n = true) (h : s.is (.CH_AN_STATE_LP_ON n) = true) : ∃ t, exec (.lpHiccupOff n) s = .next t ∧
    t.is (.CH_AN_STATE_LP_RETRY n) = true ∧ t.is (.CH_AN_STATE_LP_ON n) = false ∧ Frame chainsFrom (fun g => g.a ≠ Reg.CH_AN_STATE n) s t := by
  have hretry : (s.set1 (.CH_AN_STATE_LP_RETRY n)).is (.CH_AN_STATE_LP_RETRY n) = true := is_set1 _ _ (by simp) (by simp)
  have hset : Frame chainsFrom (fun g => g.a ≠ Reg.CH_AN_STATE n) s (s.set1 (.CH_AN_STATE_LP_RETRY n)) := (Frame.refl s).put _ _ fun _ hg => hg
  refine ⟨_, exec_lpHiccupOff hn h, ?_, ?_, hset.trans (anRefresh_frame n _)⟩
  · rw [(anRefresh_status n _).is _ (by simp [offLoop, FldRef.apart]), hretry]
  · rw [lpOn_anRefresh, lpOn_of_retry hretry]

/-- LP_HICCUP_ON of a channel in a hiccup (R110). -/
theorem lpHiccupOn_spec {n : Fin 256} (hn : isAN n = true) (h : s.is (.CH_AN_STATE_LP_RETRY n) = true) : ∃ t, exec (.lpHiccupOn n) s = .next t ∧
    t.is (.CH_AN_STATE_LP_RETRY n) = false ∧
    t.is (.CH_AN_STATE_LP_ON n) = (modeOf s n == 4 && (s.tile (n / 16)).power && !diagActive s n dgThermal && !diagActive s n dgNoSupply) ∧
    Frame regsFrom (fun g => g.a ≠ Reg.CH_AN_STATE n) s t := by
  have hput : Frame regsFrom (fun g => g.a ≠ Reg.CH_AN_STATE n) s (s.put (.CH_AN_STATE_LP_RETRY n) 0) := (Frame.refl s).put _ _ fun _ hg => hg
  refine ⟨_, exec_lpHiccupOn hn h, ?_, ?_, hput.put _ _ fun _ hg => hg⟩
  · rw [is_putB_apart _ _ _ _ (by simp) (by simp) (by simp [FldRef.apart])]
    exact is_putB s (.CH_AN_STATE_LP_RETRY n) false (by simp) (by simp)
  · rw [is_putB _ _ _ (by simp) (by simp), lpOn_put_retry]

end Status

end Sys2Proof.Machine
end

section
/-! PROOFS. Inject mode, the test DAC and mode changes (R104, R120, R121, R123, R125), and the statements of current outputs and of replaced modes. -/

namespace Sys2Proof.Machine

set_option Elab.async false

section Inject

variable {s : State} {r : Req} {n : Fin 256}

theorem exec_injectEnter (hn : isAN n = true) (ha : Admitted s r (Reg.CH_AN_INJ n) Msk.CH_AN_INJ) :
    exec (.injectEnter r n) s = .next (anInjWrite n true s) := by
  show execInjectEnter r n s = _
  rw [execInjectEnter, if_pos hn, regWrite_admitted _ _ _ _ _ _ ha]

theorem exec_injectExit (hn : isAN n = true) (ha : Admitted s r (Reg.CH_AN_INJ n) Msk.CH_AN_INJ) :
    exec (.injectExit r n) s = .next (anInjWrite n false s) := by
  show execInjectExit r n s = _
  rw [execInjectExit, if_pos hn, regWrite_admitted _ _ _ _ _ _ ha]

/-- A SWEEP that holds the tile refuses (R123). -/
theorem anInjWrite_swept {n : Nat} {on : Bool} (h : (s.tile (n / 16)).sweep = true) : anInjWrite n on s = s.set1 (.TILE_TDAC_DENIED (n / 16)) := if_pos h

/-- A current output does not enter inject mode (R121). -/
theorem anInjWrite_current {n : Nat} (h : (s.tile (n / 16)).sweep = false) (hm : modeOf s n = 5) :
    anInjWrite n true s = s.set1 (.CH_AN_STATE_CFG_ADJ n) := by
  simp [anInjWrite, tileOf, h, hm]

theorem anInjWrite_free {n : Nat} {on : Bool} (h : (s.tile (n / 16)).sweep = false) (hm : on = true → modeOf s n ≠ 5) :
    anInjWrite n on s = setInject n on s := by
  rw [anInjWrite, tileOf, h, if_neg (by simp), if_neg (by simpa using hm)]

end Inject

section Tdac

variable {t : Nat} {w : Word} {s : State}

theorem exec_tdacWrite {t : Fin 16} {r : Req} (ha : Admitted s r (Reg.TILE_TDAC t) Msk.TILE_TDAC) :
    exec (.tdacWrite r t w) s = .next (tdacWrite t w s) := by
  show execTdacWrite r t w s = _
  rw [execTdacWrite, regWrite_admitted _ _ _ _ _ _ ha]

/-- DENIED as bit 16 of a write leaves it. -/
def deniedCleared (t : Nat) (w : Word) (s : State) : State := if bitAt w 16 then s.put (.TILE_TDAC_DENIED t) 0 else s

theorem deniedCleared_spec (t : Nat) (w : Word) (s : State) :
    (deniedCleared t w s).is (.TILE_TDAC_DENIED t) = (s.is (.TILE_TDAC_DENIED t) && !bitAt w 16) ∧
      (deniedCleared t w s).get (.TILE_TDAC_CODE t) = s.get (.TILE_TDAC_CODE t) ∧
      Frame regsFrom (fun g => g.a ≠ Reg.TILE_TDAC t) s (deniedCleared t w s) := by
  unfold deniedCleared
  cases bitAt w 16 with
  | false => exact ⟨(Bool.and_true _).symm, rfl, .refl s⟩
  | true => exact ⟨(is_putB s (.TILE_TDAC_DENIED t) false (by simp) (by simp)).trans (Bool.and_false _).symm,
      get_put_apart _ _ _ _ (by simp) (by simp) (by simp [FldRef.apart]), (Frame.refl s).put _ _ fun _ hg => hg⟩

/-- A write of `TILE_TDAC` (R123, R130). -/
theorem tdacWrite_spec (t : Nat) (w : Word) (s : State) :
    (tdacWrite t w s).get (.TILE_TDAC_CODE t) = (if (s.tile t).sweep then s.get (.TILE_TDAC_CODE t) else bits w 11 0) ∧
      (tdacWrite t w s).is (.TILE_TDAC_DENIED t) = ((s.tile t).sweep || (s.is (.TILE_TDAC_DENIED t) && !bitAt w 16)) ∧
      Frame regsFrom (fun g => g.a ≠ Reg.TILE_TDAC t) s (tdacWrite t w s) := by
  obtain ⟨hden, hcode, hf⟩ := deniedCleared_spec t w s
  have heq : tdacWrite t w s = if (s.tile t).sweep then (deniedCleared t w s).set1 (.TILE_TDAC_DENIED t)
      else (deniedCleared t w s).put (.TILE_TDAC_CODE t) (bits w 11 0) := rfl
  rw [heq]
  cases (s.tile t).sweep with
  | true => exact ⟨(get_put_apart _ _ _ _ (by simp) (by simp) (by simp [FldRef.apart])).trans hcode, is_set1 _ _ (by simp) (by simp),
      hf.put _ _ fun _ hg => hg⟩
  | false =>
    refine ⟨(get_put _ _ _ (by simp) (by simp)).trans (Nat.mod_eq_of_lt (bits_lt w 11 0)), ?_, hf.put _ _ fun _ hg => hg⟩
    exact (congrArg (· == 1) (get_put_apart _ _ _ _ (by simp) (by simp) (by simp [FldRef.apart]))).trans hden

end Tdac

section Mode

variable {n m : Nat} {w : Word} {s : State}

/-- `s` with its registers, its channels, its chains and the banks of the dip taken from `t`. -/
def modesFrom (s t : State) : State := { s with regs := t.regs, chans := t.chans, chains := t.chains, dips := t.dips }

theorem exec_modeChange {r : Req} {n : Fin 256} (hn : isAN n = true) (ha : Admitted s r (Reg.CH_AN_CFG n) Msk.CH_AN_CFG) :
    exec (.modeChange r n w) s = .next (anCfgWrite n w s) := by
  show execModeChange r n w s = _
  rw [execModeChange, if_pos hn, regWrite_admitted _ _ _ _ _ _ ha]

theorem modeUsed_lt (n : Nat) : modeUsed n m < 8 := by
  unfold modeUsed
  split <;> omega

/-- A written `CH_AN_CFG` as it is stored (R104). -/
def cfgStored (n : Nat) (w : Word) (s : State) : State :=
  (store (Reg.CH_AN_CFG n) Msk.CH_AN_CFG (setBits w 2 0 (modeUsed n (bits w 2 0))) s).modCh n
    fun x => { x with adjMode := decide (bits w 2 0 ≠ modeUsed n (bits w 2 0)) }

theorem anCfgWrite_eq (n : Nat) (w : Word) (s : State) : anCfgWrite n w s =
    if modeOf s n = modeUsed n (bits w 2 0) then anRefresh n (cfgStored n w s) else changeMode n (modeUsed n (bits w 2 0)) (cfgStored n w s) := rfl

theorem cfgStored_frame (n : Nat) (w : Word) (s : State) : Frame outputsFrom (fun g => g.a ≠ Reg.CH_AN_CFG n) s (cfgStored n w s) :=
  ((Frame.refl s).wr _ _ fun _ hg => hg).trans (modCh_frame _ n _)

theorem mode_cfgStored (n : Nat) (w : Word) (s : State) : (cfgStored n w s).get (.CH_AN_CFG_MODE n) = modeUsed n (bits w 2 0) := by
  have hmask : ∀ k, 0 ≤ k → k ≤ 2 → (Msk.CH_AN_CFG.rwl ||| Msk.CH_AN_CFG.rw).testBit k = true := fun k _ hk => by interval_cases k <;> decide
  rw [cfgStored, State.modCh_get, store, get_wr _ _ (.CH_AN_CFG_MODE n), bits_storedWord _ _ (by simp) hmask rfl, bits_setBits _ _ _ _ (by simp) (by simp)]
  exact Nat.mod_eq_of_lt (modeUsed_lt n)

/-- A mode put into effect at the tile (R125): no diagnostic is active, and no hiccup of the old mode goes on. -/
def modeShown (n m : Nat) (s : State) : State :=
  ((s.put (.CH_DIAG_ACTIVE n) 0).put (.CH_AN_STATE_MODE_EFF n) m).put (.CH_AN_STATE_LP_RETRY n) 0

/-- Inject mode as a current output ends it (R121). -/
def injectEnded (n : Nat) (s : State) : State :=
  ((s.put (.CH_AN_INJ_EN n) 0).put (.CH_AN_STATE_INJ n) 0).set1 (.CH_AN_STATE_CFG_ADJ n)

/-- Mode `m` in effect, before the chain is reset (R121, R125). -/
def modeTaken (n m : Nat) (s : State) : State :=
  if m = 5 ∧ injecting s n then injectEnded n (modeShown n m s) else modeShown n m s

theorem changeMode_eq (n m : Nat) (s : State) : changeMode n m s = anRefresh n (discont n (modeTaken n m s)) := rfl

/-- What a mode put into effect leaves: every register but three, and in the diagnostics the latched bits. -/
def offMode (n : Nat) (g : FldRef) : Prop :=
  g.hi < 32 ∧ (FldRef.CH_DIAG_ACTIVE n).apart g ∧ g.a ≠ Reg.CH_AN_STATE n ∧ g.a ≠ Reg.CH_AN_INJ n

theorem modeShown_frame (n m : Nat) (s : State) : Frame regsFrom (offMode n) s (modeShown n m s) := by
  have hdiag : Frame regsFrom (offMode n) s (s.put (.CH_DIAG_ACTIVE n) 0) := (Frame.refl s).putApart _ _ (by simp) fun _ hg => ⟨hg.2.1, hg.1⟩
  exact (hdiag.put _ _ fun _ hg => hg.2.2.1).put _ _ fun _ hg => hg.2.2.1

/-- What the end of inject mode leaves. -/
def offEnded (n : Nat) (g : FldRef) : Prop :=
  g.hi < 32 ∧ g.a ≠ Reg.CH_AN_INJ n ∧ (FldRef.CH_AN_STATE_INJ n).apart g ∧ (FldRef.CH_AN_STATE_CFG_ADJ n).apart g

theorem injectEnded_frame (n : Nat) (s : State) : Frame regsFrom (offEnded n) s (injectEnded n s) := by
  have hen : Frame regsFrom (offEnded n) s (s.put (.CH_AN_INJ_EN n) 0) := (Frame.refl s).put _ _ fun _ hg => hg.2.1
  exact (hen.putApart (.CH_AN_STATE_INJ n) _ le_rfl fun _ hg => ⟨hg.2.2.1, hg.1⟩).putApart (.CH_AN_STATE_CFG_ADJ n) _ le_rfl
    fun _ hg => ⟨hg.2.2.2, hg.1⟩

theorem modeTaken_frame (n m : Nat) (s : State) : Frame regsFrom (offMode n) s (modeTaken n m s) :=
  .ite (fun _ => (modeShown_frame n m s).trans ((injectEnded_frame n _).mono fun _ hg => ⟨hg.1, hg.2.2.2, .inl hg.2.2.1.symm, .inl hg.2.2.1.symm⟩))
    fun _ => modeShown_frame n m s

theorem mode_modeTaken (hm : m < 8) (n : Nat) (s : State) : modeOf (modeTaken n m s) n = m := by
  have hshown : (modeShown n m s).get (.CH_AN_STATE_MODE_EFF n) = m := by
    rw [modeShown, get_put_apart _ _ _ _ (by simp) (by simp) (by simp [FldRef.apart]), get_put _ _ _ (by simp) (by simp)]
    exact Nat.mod_eq_of_lt hm
  rw [modeOf, modeTaken]
  split
  · rw [(injectEnded_frame n _).get _ (by simp only [offEnded, FldRef.apart, Reg.CH_AN_STATE, Reg.CH_AN_INJ]; omega), hshown]
  · exact hshown

theorem active_modeTaken (n m : Nat) (s : State) : (modeTaken n m s).get (.CH_DIAG_ACTIVE n) = 0 := by
  have hne := chDiag_ne_anState n
  have hshown : (modeShown n m s).get (.CH_DIAG_ACTIVE n) = 0 := by
    rw [modeShown, get_put_ne _ _ _ _ hne, get_put_ne _ _ _ _ hne]
    exact get_put _ _ _ (by simp) (by simp)
  rw [modeTaken]
  split
  · rw [(injectEnded_frame n _).get _ ⟨by simp, by simp only [Reg.CH_DIAG, Reg.CH_AN_INJ]; omega, .inl hne.symm, .inl hne.symm⟩, hshown]
  · exact hshown

/-- No current output is in inject mode (R121). -/
theorem injecting_modeTaken (n : Nat) (s : State) : injecting (modeTaken n 5 s) n = false := by
  rw [modeTaken]
  split
  case isTrue =>
    rw [injecting, injectEnded, State.set1, State.is, get_put_apart _ _ _ _ (by simp) (by simp) (by simp [FldRef.apart]), ← State.is]
    exact is_putB _ (.CH_AN_STATE_INJ n) false (by simp) (by simp)
  case isFalse h =>
    have hkept : injecting (modeShown n 5 s) n = injecting s n := by
      rw [injecting, State.is, modeShown, get_put_apart _ _ _ _ (by simp) (by simp) (by simp [FldRef.apart]),
        get_put_apart _ _ _ _ (by simp) (by simp) (by simp [FldRef.apart]), get_put_ne _ _ _ _ (chDiag_ne_anState n).symm]
      rfl
    simpa [hkept] using h

/-- The reset of the chain and the refresh of the status that follow. -/
theorem anRefresh_discont_frame (n : Nat) (s : State) : Frame resetsFrom (fun g => offChain n g ∧ offLoop n g) s (anRefresh n (discont n s)) :=
  ((discont_frame n s).mono fun _ => And.left).trans ((anRefresh_status n _).mono fun _ => And.right)

/-- The fields of a channel's status, settings and diagnostics but LP_ON and SAFE. -/
theorem offChain_offLoop {g : FldRef} (ha : g.a % 0x100 < 0xA0) (hi : g.hi < 32) (h : g.a ≠ Reg.CH_AN_STATE n ∨ g.hi < 6 ∨ g = .CH_AN_STATE_INJ n) :
    offChain n g ∧ offLoop n g := by
  refine ⟨offChain_of_mod ha, ?_⟩
  rcases h with h | h | rfl
  · exact offLoop_of_ne hi h
  · exact offLoop_of_lt h
  · simp [offLoop, FldRef.apart]

/-- A change of the mode in effect (R121, R125). -/
theorem changeMode_spec (hm : m < 8) (n : Nat) (s : State) :
    modeOf (changeMode n m s) n = m ∧ (changeMode n m s).get (.CH_DIAG_ACTIVE n) = 0 ∧
      (changeMode n m s).get (.CH_DIAG_LATCHED n) = s.get (.CH_DIAG_LATCHED n) ∧ (m = 5 → injecting (changeMode n m s) n = false) ∧
      Frame resetsFrom (fun g => (offChain n g ∧ offLoop n g) ∧ offMode n g) s (changeMode n m s) := by
  have hf := anRefresh_discont_frame n (modeTaken n m s)
  have hdiag : Reg.CH_DIAG n % 0x100 < 0xA0 := by simp only [Reg.CH_DIAG]; omega
  have hstate : Reg.CH_AN_STATE n % 0x100 < 0xA0 := by simp only [Reg.CH_AN_STATE]; omega
  rw [changeMode_eq]
  refine ⟨?mode, ?active, ?latched, ?inject, ((modeTaken_frame n m s).mono fun _ => And.right).trans (hf.mono fun _ => And.left)⟩
  case mode => exact (hf.get _ (offChain_offLoop hstate (by simp) (.inr (.inl (by simp))))).trans (mode_modeTaken hm n s)
  case active => rw [hf.get _ (offChain_offLoop hdiag (by simp) (.inl (chDiag_ne_anState n))), active_modeTaken]
  case latched =>
    rw [hf.get _ (offChain_offLoop hdiag (by simp) (.inl (chDiag_ne_anState n))), (modeTaken_frame n m s).get]
    exact ⟨by simp, by simp [FldRef.apart], chDiag_ne_anState n, by simp only [Reg.CH_DIAG, Reg.CH_AN_INJ]; omega⟩
  case inject =>
    rintro rfl
    exact (hf.is _ (offChain_offLoop hstate (by simp) (.inr (.inr rfl)))).trans (injecting_modeTaken n s)

/-- Any write of `CH_AN_CFG` shows and uses the mode that R104 gives, and remembers whether it replaced the written one. -/
theorem anCfgWrite_spec (n : Nat) (w : Word) (s : State) :
    modeOf (anCfgWrite n w s) n = modeUsed n (bits w 2 0) ∧ (anCfgWrite n w s).get (.CH_AN_CFG_MODE n) = modeUsed n (bits w 2 0) ∧
      ((anCfgWrite n w s).ch n).adjMode = decide (bits w 2 0 ≠ modeUsed n (bits w 2 0)) := by
  have hne : Reg.CH_AN_STATE n ≠ Reg.CH_AN_CFG n := by simp only [Reg.CH_AN_STATE, Reg.CH_AN_CFG]; omega
  have hcfg : Reg.CH_AN_CFG n % 0x100 < 0xA0 := by simp only [Reg.CH_AN_CFG]; omega
  have hadj : ((cfgStored n w s).ch n).adjMode = decide (bits w 2 0 ≠ modeUsed n (bits w 2 0)) := by rw [cfgStored, ch_modCh_same]
  rw [anCfgWrite_eq]
  split
  case isTrue h =>
    have hf := anRefresh_status n (cfgStored n w s)
    refine ⟨?_, ?_, hadj⟩
    · rw [modeOf, hf.get _ (offLoop_of_lt (by simp)), (cfgStored_frame n w s).get _ hne]
      exact h
    · rw [hf.get _ (offLoop_of_lt (by simp)), mode_cfgStored]
  case isFalse =>
    obtain ⟨hmode, -, -, -, hf⟩ := changeMode_spec (modeUsed_lt n (m := bits w 2 0)) n (cfgStored n w s)
    refine ⟨hmode, ?_, by rw [hf.unchanged (State.ch · n), hadj]⟩
    rw [hf.get _ ⟨offChain_offLoop hcfg (by simp) (.inl hne.symm), by simp, .inl ?_, hne.symm, ?_⟩, mode_cfgStored]
    · simp only [Reg.CH_DIAG, Reg.CH_AN_CFG]; omega
    · simp only [Reg.CH_AN_INJ, Reg.CH_AN_CFG]; omega

end Mode

/-- Settles O23: each write does what it does at the tile, which a refresh or a reset of the chain follows. -/
theorem currentOutputCommands : Obligations.CurrentOutputCommands := by
  unfold Obligations.CurrentOutputCommands
  refine ⟨?set, ?trim, ?hiccupOff, ?hiccupOn, ?enter, ?current, ?exit, ?enterSwept, ?exitSwept, ?tdac, ?mode⟩
  case set =>
    intro s r n w hn ha
    rw [exec_aoSetWrite hn ha, aoSet_eq]
  case trim =>
    intro s r n w hn ha
    obtain ⟨hrd, hch, hf⟩ := aoTrimWrite_spec n w s
    exact ⟨_, exec_aoTrimWrite hn ha, hrd, hch, hf.rest, fun a h => hf.rd a h⟩
  case hiccupOff =>
    intro s n hn h
    obtain ⟨t, ht, hretry, hon, hf⟩ := lpHiccupOff_spec hn h
    exact ⟨t, ht, hretry, hon, hf.rest, fun a h => hf.rd a h⟩
  case hiccupOn =>
    intro s n hn h
    obtain ⟨t, ht, hretry, hon, hf⟩ := lpHiccupOn_spec hn h
    exact ⟨t, ht, hretry, hon, hf.rest, fun a h => hf.rd a h⟩
  case enter =>
    intro s r n hn ha hs hm
    obtain ⟨hen, hinj⟩ := is_setInject n true s
    exact ⟨_, by rw [exec_injectEnter hn ha, anInjWrite_free hs fun _ => hm], hen, hinj, modeOf_setInject n true s, (setInject_frame n true s).rest⟩
  case current =>
    intro s r n hn ha hs hm
    rw [exec_injectEnter hn ha, anInjWrite_current hs hm]
  case exit =>
    intro s r n hn ha hs
    obtain ⟨hen, hinj⟩ := is_setInject n false s
    exact ⟨_, by rw [exec_injectExit hn ha, anInjWrite_free hs (by simp)], hen, hinj, modeOf_setInject n false s, (setInject_frame n false s).rest⟩
  case enterSwept =>
    intro s r n hn ha hs
    rw [exec_injectEnter hn ha, anInjWrite_swept hs]
  case exitSwept =>
    intro s r n hn ha hs
    rw [exec_injectExit hn ha, anInjWrite_swept hs]
  case tdac =>
    intro s r t w ha
    obtain ⟨hcode, hden, hf⟩ := tdacWrite_spec t w s
    exact ⟨_, exec_tdacWrite ha, hcode, hden, hf.rest, fun a h => hf.rd a h⟩
  case mode =>
    intro s r n w hn ha hne
    obtain ⟨hmode, hactive, hlatched, hinj, hf⟩ := changeMode_spec (modeUsed_lt n (m := bits w 2 0)) n (cfgStored n w s)
    obtain ⟨-, hcfg, -⟩ := anCfgWrite_spec n w s
    rw [anCfgWrite_eq, if_neg hne.symm] at hcfg
    have hall : Frame modesFrom (fun _ => False) s (changeMode n (modeUsed n (bits w 2 0)) (cfgStored n w s)) :=
      ((cfgStored_frame n w s).mono fun _ h => h.elim).trans (hf.mono fun _ h => h.elim)
    refine ⟨_, by rw [exec_modeChange hn ha, anCfgWrite_eq, if_neg hne.symm], hmode, hcfg, hactive, ?_, fun h => hinj (hmode.symm.trans h), hall.rest⟩
    rw [hlatched, (cfgStored_frame n w s).get _ (by simp only [Reg.CH_DIAG, Reg.CH_AN_CFG]; omega)]

/-- Settles O24: R104 gives V10B for every such MODE, which is none of them. -/
theorem replacedModes : Obligations.ReplacedModes := by
  unfold Obligations.ReplacedModes
  intro s r n w hn ha hw
  have hused : modeUsed n (bits w 2 0) = 0 := by
    refine if_pos ?_
    simp only [isAO, Bool.and_eq_true, decide_eq_true_eq]
    omega
  obtain ⟨hmode, hcfg, hadj⟩ := anCfgWrite_spec n w s
  rw [hused] at hmode hcfg hadj
  refine ⟨_, exec_modeChange hn ha, hcfg, hmode, ?_⟩
  have hne : bits w 2 0 ≠ 0 := by omega
  simp [anAdj, hadj, hne]

end Sys2Proof.Machine
end

section
/-! PROOFS. Maintenance permits (R516, R520, R528): what their answers and their ends show and leave. -/

namespace Sys2Proof.Machine

set_option Elab.async false

variable {P : FldRef → Prop} {s : State} {a : Nat}

/-- `s` with what a write into a queue changes and the module's quiet time taken from `t`. -/
def endedFrom (s t : State) : State := { queuedFrom s t with pw := t.pw }

theorem ne_modIrq_of_offQueues {g : FldRef} (h : offQueues g) : g.a ≠ Reg.MOD_IRQ := (noQueueReg_of_queueReg h).2

/-- Registers below the queues' but `MOD_IRQ`. -/
theorem offQueues_of_lt {g : FldRef} (h : g.a < 0x30000) (hi : g.a ≠ Reg.MOD_IRQ) : offQueues g := by
  simp only [offQueues, queueReg, Bool.or_eq_false_iff, Bool.and_eq_false_iff, decide_eq_false_iff_not, beq_eq_false_iff_ne]
  omega

theorem svRecord_frame (ty detail dom arg value : Nat) (s : State) : Frame queuedFrom offQueues s (svRecord ty detail dom arg value s) :=
  (qPushFixed_frame _ _ _ _ s).put _ _ fun _ => ne_modIrq_of_offQueues

theorem permitRecord_frame (a res tile : Nat) (s : State) : Frame queuedFrom offQueues s (permitRecord a res tile s) := svRecord_frame _ _ _ _ _ s

theorem permitShow_frame (a res conflict : Nat) (s : State) : Frame regsFrom (fun g => g.a ≠ Reg.SV_PERMIT) s (permitShow a res conflict s) := by
  have hres : Frame regsFrom (fun g => g.a ≠ Reg.SV_PERMIT) s (s.put .SV_PERMIT_RESULT res) := (Frame.refl s).put _ _ fun _ hg => hg
  exact (hres.put _ _ fun _ hg => hg).put _ _ fun _ hg => hg

/-- The permits held show apart from the last request. -/
theorem held_permitShow (a res conflict : Nat) (s : State) : (permitShow a res conflict s).get .SV_PERMIT_HELD = s.get .SV_PERMIT_HELD := by
  unfold permitShow
  iterate 3 rw [get_put_apart _ _ _ _ (by simp) (by simp) (by simp [FldRef.apart])]

theorem held_permitRecord (a res tile : Nat) (s : State) : (permitRecord a res tile s).get .SV_PERMIT_HELD = s.get .SV_PERMIT_HELD :=
  (permitRecord_frame a res tile s).get _ (offQueues_of_lt (by decide) (by decide))

theorem permitSet_frame (a : Nat) (held : Bool) (s : State) : Frame regsFrom (fun g => g.a ≠ Reg.SV_PERMIT) s (permitSet a held s) :=
  (Frame.refl s).put _ _ fun _ hg => hg

theorem held_permitSet (ha : a - 1 < 7) (s : State) : (permitSet a true s).get .SV_PERMIT_HELD = s.get .SV_PERMIT_HELD ||| 2 ^ (a - 1) := by
  rw [permitSet, get_put _ _ _ (by simp) (by simp)]
  exact Nat.mod_eq_of_lt (Nat.or_lt_two_pow (get_lt s .SV_PERMIT_HELD) (Nat.pow_lt_pow_right (by decide) ha))

theorem held_permitSet_false (a : Nat) (s : State) :
    (permitSet a false s).get .SV_PERMIT_HELD = s.get .SV_PERMIT_HELD &&& (0x7F ^^^ 2 ^ (a - 1)) := by
  rw [permitSet, get_put _ _ _ (by simp) (by simp)]
  exact Nat.mod_eq_of_lt (lt_of_le_of_lt Nat.and_le_left (get_lt s .SV_PERMIT_HELD))

theorem permitDecide_frame (a ans : Nat) (s : State) : Frame queuedFrom (fun g => offQueues g ∧ g.a ≠ Reg.SV_PERMIT) s (permitDecide a ans s) := by
  have hset (u : State) : Frame regsFrom (fun g => g.a ≠ Reg.SV_PERMIT) u (if ans = prGranted then permitSet a true u else u) :=
    .ite (fun _ => permitSet_frame a true u) fun _ => .refl u
  exact (((permitShow_frame a ans _ s).trans (hset _)).mono fun _ => And.right).trans ((permitRecord_frame a ans 0 _).mono fun _ => And.left)

/-- A permit that is granted is held (R520). -/
theorem held_permitDecide (ha : a - 1 < 7) (s : State) :
    (permitDecide a prGranted s).get .SV_PERMIT_HELD = s.get .SV_PERMIT_HELD ||| 2 ^ (a - 1) := by
  rw [permitDecide, permitDecideT, held_permitRecord, if_pos rfl, held_permitSet ha, held_permitShow]

theorem permitEnd_frame (a res : Nat) (s : State) : Frame endedFrom (fun g => offQueues g ∧ g.a ≠ Reg.SV_PERMIT) s (permitEnd a res s) := by
  have hquiet : Frame endedFrom (fun g => offQueues g ∧ g.a ≠ Reg.SV_PERMIT) s (unquiet s) := .of_regs rfl rfl
  have hshow := (permitSet_frame a false (unquiet s)).trans (permitShow_frame a res 0 _)
  exact (hquiet.trans (hshow.mono fun _ => And.right)).trans ((permitRecord_frame a res 0 _).mono fun _ => And.left)

/-- The end of a permit gives it back (R520). -/
theorem held_permitEnd (a res : Nat) (s : State) : (permitEnd a res s).get .SV_PERMIT_HELD = s.get .SV_PERMIT_HELD &&& (0x7F ^^^ 2 ^ (a - 1)) := by
  rw [permitEnd, permitEndT, held_permitRecord, held_permitShow, held_permitSet_false]
  rfl

end Sys2Proof.Machine
end

section
/-! PROOFS. The tiles of a sweep (R123, R161): what is done to each of them in turn, seen from one tile. -/

namespace Sys2Proof.Machine

set_option Elab.async false

section Tiles

variable {f : State → State → State} {P : FldRef → Prop} {s t : State} {k : Nat}

/-- Of operations done one after the other for the elements of a list, that for `k` alone decides what `v` sees. -/
theorem each_at {α β : Type} (v : State → α) {l : List β} {F : β → State → State} {k : β} {x : α} (hl : l.Nodup) (hk : k ∈ l)
    (hne : ∀ j ∈ l, j ≠ k → ∀ u, v (F j u) = v u) (s : State) (hx : ∀ u, v u = v s → v (F k u) = x) : v (s.each l F) = x := by
  induction l generalizing s with
  | nil => cases hk
  | cons j l ih =>
    obtain ⟨hj, hl⟩ := List.nodup_cons.mp hl
    rw [each_cons]
    by_cases hjk : j = k
    · subst hjk
      refine each_ind (fun u => v u = x) l F _ (hx s rfl) fun i hi u hu => ?_
      rw [hne i (by simp [hi]) (fun e => hj (e ▸ hi)), hu]
    · refine ih hl ((List.mem_cons.mp hk).resolve_left (Ne.symm hjk)) (fun i hi => hne i (by simp [hi])) _ fun u hu => hx u ?_
      rw [hu, hne j (by simp) hjk]

theorem allTiles_at {α : Type} (v : State → α) {F : Nat → State → State} {x : α} (hk : k < 16)
    (hne : ∀ t < 16, t ≠ k → ∀ u, v (F t u) = v u) (s : State) (hx : ∀ u, v u = v s → v (F k u) = x) : v (allTiles F s) = x :=
  each_at v List.nodup_range (List.mem_range.mpr hk) (fun t ht => hne t (List.mem_range.mp ht)) s hx

theorem Frame.allTiles {F : Nat → State → State} (s : State) (hF : ∀ t < 16, ∀ u, Frame f P u (F t u))
    (h0 : ∀ s, s = f s s := by exact fun _ => rfl) (hf : ∀ s t u, f (f s t) u = f s u := by exact fun _ _ _ => rfl) :
    Frame f P s (Machine.allTiles F s) :=
  .each _ _ s (fun t ht u => hF t (List.mem_range.mp ht) u) h0 hf

theorem Frame.eachSwept {F : Nat → Nat → State → State} (s : State) (hF : ∀ t < 16, ∀ j < 4, ∀ u, Frame f P u (F t j u))
    (h0 : ∀ s, s = f s s := by exact fun _ => rfl) (hf : ∀ s t u, f (f s t) u = f s u := by exact fun _ _ _ => rfl) :
    Frame f P s (Machine.eachSwept F s) :=
  .allTiles s (fun t ht u => .each _ _ u (fun j hj x => .ite (fun _ => hF t ht j (by simp at hj; omega) x) fun _ => .refl x h0) h0 hf) h0 hf

theorem tile_modTile_ne {j : Nat} (h : k ≠ j) (s : State) (F : TileSt → TileSt) : (s.modTile j F).tile k = s.tile k := kget_kset_ne _ _ _ _ _ _ h

/-- `s` with its registers and its tiles taken from `t`; with its chains and the banks of the dip beside them. -/
def convertedFrom (s t : State) : State := { s with regs := t.regs, tiles := t.tiles }
def sweptFrom (s t : State) : State := { s with regs := t.regs, chains := t.chains, dips := t.dips, tiles := t.tiles }

/-- A field outside the tiles' registers; outside the channels'. -/
def offTiles (g : FldRef) : Prop := g.a < 0x10000 ∨ 0x20000 ≤ g.a
def offChannels (g : FldRef) : Prop := g.hi < 32 ∧ (g.a < 0x20000 ∨ 0x30000 ≤ g.a)

/-- What of tile `k` a sweep takes and gives back (R123), with the sweep's own record. -/
def sweptTile (k : Nat) (s : State) : Bool × Nat × Nat × CaSt := ((s.tile k).sweep, (s.tile k).swTdac, s.get (.TILE_TDAC_CODE k), s.ca)

theorem setInject_offChannels {n : Nat} (hn : n < 256) (on : Bool) (s : State) : Frame resetsFrom offChannels s (setInject n on s) :=
  (setInject_frame n on s).mono fun _ hg => offInject_of_noChannel hn hg.1 hg.2

/-- A channel's inject mode is none of what a sweep takes of a tile. -/
theorem sweptTile_resets (hk : k < 16) (h : Frame resetsFrom offChannels s t) : sweptTile k t = sweptTile k s := by
  have hcode : t.get (.TILE_TDAC_CODE k) = s.get (.TILE_TDAC_CODE k) := h.get _ ⟨by simp, by simp only [Reg.TILE_TDAC]; omega⟩
  rw [sweptTile, hcode, h.unchanged (State.tile · k), h.unchanged State.ca, sweptTile]

/-- Neither is another register, nor another tile. -/
theorem sweptTile_wr {a : Nat} (h : Reg.TILE_TDAC k ≠ a) (w : Word) (s : State) : sweptTile k (wr a w s) = sweptTile k s := by
  rw [sweptTile, get_wr_ne _ _ _ _ h, State.tile, wr_tiles, wr_ca, sweptTile, State.tile]

theorem sweptTile_modTile_ne {j : Nat} (h : k ≠ j) (s : State) (F : TileSt → TileSt) : sweptTile k (s.modTile j F) = sweptTile k s := by
  rw [sweptTile, tile_modTile_ne h, State.modTile_get, State.modTile_ca, sweptTile]

theorem sweptTile_modTile (s : State) (F : TileSt → TileSt) :
    sweptTile k (s.modTile k F) = ((F (s.tile k)).sweep, (F (s.tile k)).swTdac, s.get (.TILE_TDAC_CODE k), s.ca) := by
  rw [sweptTile, tile_modTile, State.modTile_get, State.modTile_ca]

end Tiles

section Start

variable {s : State} {k : Nat}

/-- The analog channels of tile `t` in inject mode, and what `TILE_SWEEP_RES` shows before the first comparison (R161). -/
def injMask (s : State) (t : Nat) : Nat := mk ([0, 1, 2, 3].map fun j => (s.get (.CH_AN_INJ_EN (16 * t + 12 + j)), j))
def sweepRes (s : State) (t : Nat) : Nat := mk ([0, 1, 2, 3].map fun j => ((if swept s t j then 0 else 0xFF), 8 * j))

/-- A SWEEP takes tile `t`, if it is one of its tiles (R123). -/
def tileTaken (t : Nat) (s : State) : State :=
  if s.ca.swTiles.testBit t then wr (Reg.TILE_SWEEP_RES t) (wd (sweepRes s t))
    (s.modTile t fun y => { y with sweep := true, swTdac := s.get (.TILE_TDAC_CODE t), swInj := injMask s t })
  else s

/-- The swept channels enter inject mode (R161). -/
def sweepInject (s : State) : State := eachSwept (fun t j s => setInject (16 * t + 12 + j) true s) s

theorem sweepStart_eq (s : State) : sweepStart s = sweepCode s.ca.swStart (sweepInject (allTiles tileTaken s)) := rfl

theorem tileTaken_frame {t : Nat} (ht : t < 16) (s : State) : Frame convertedFrom offTiles s (tileTaken t s) := by
  have htile (F : TileSt → TileSt) : Frame convertedFrom offTiles s (s.modTile t F) := .of_regs rfl rfl
  refine .ite (fun _ => (htile _).wr _ _ fun g hg => ?_) fun _ => .refl s
  simp only [offTiles, Reg.TILE_SWEEP_RES] at hg ⊢
  omega

theorem sweptTile_tileTaken_ne {t : Nat} (h : t ≠ k) (s : State) : sweptTile k (tileTaken t s) = sweptTile k s := by
  unfold tileTaken
  split
  · rw [sweptTile_wr (by simp only [Reg.TILE_TDAC, Reg.TILE_SWEEP_RES]; omega), sweptTile_modTile_ne h.symm]
  · rfl

theorem sweptTile_tileTaken (h : s.ca.swTiles.testBit k = true) :
    sweptTile k (tileTaken k s) = (true, s.get (.TILE_TDAC_CODE k), s.get (.TILE_TDAC_CODE k), s.ca) := by
  rw [tileTaken, if_pos h, sweptTile_wr (by simp only [Reg.TILE_TDAC, Reg.TILE_SWEEP_RES]; omega), sweptTile_modTile]

theorem sweepInject_frame (s : State) : Frame resetsFrom offChannels s (sweepInject s) :=
  .eachSwept s fun t ht j hj u => setInject_offChannels (by omega) true u

theorem toU_lt (k : Nat) (i : Int) : toU k i < 2 ^ k := by
  have hpos : (0 : Int) < (2 ^ k : Nat) := by positivity
  have := Int.emod_lt_of_pos i hpos
  have := Int.emod_nonneg i hpos.ne'
  rw [toU]
  omega

theorem toU_sext {k n : Nat} (hn : n < 2 ^ k) : toU k (sext k n) = n := by
  rw [toU, sext, Nat.mod_eq_of_lt hn]
  split
  · rw [Int.emod_eq_of_lt (by omega) (by omega)]
    rfl
  · rw [Int.sub_emod_right, Int.emod_eq_of_lt (by omega) (by omega)]
    rfl

theorem sweepCode_frame (c : Int) (s : State) : Frame regsFrom offTiles s (sweepCode c s) :=
  .allTiles s fun t ht u => .ite (fun _ => (Frame.refl u).put _ _ fun g hg => by
    simp only [offTiles, Reg.TILE_TDAC] at hg ⊢
    omega) fun _ => .refl u

/-- The tiles of a sweep get its code (R161). -/
theorem code_sweepCode (hk : k < 16) (c : Int) (h : s.ca.swTiles.testBit k = true) : (sweepCode c s).get (.TILE_TDAC_CODE k) = toU 12 c := by
  refine congrArg Prod.fst (allTiles_at (fun u => (u.get (.TILE_TDAC_CODE k), u.ca)) (x := (toU 12 c, s.ca)) hk (fun t ht htk u => ?_) s fun u hu => ?_)
  · split
    · rw [get_put_ne _ _ _ _ (by simp only [Reg.TILE_TDAC]; omega), State.put_ca]
    · rfl
  · obtain ⟨-, hca⟩ := Prod.mk.inj hu
    rw [hca, if_pos h, get_put _ _ _ (by simp) (by simp), State.put_ca, hca]
    exact congrArg (·, s.ca) (Nat.mod_eq_of_lt (toU_lt 12 c))

theorem sweepStart_frame (s : State) : Frame sweptFrom (fun g => offTiles g ∧ offChannels g) s (sweepStart s) := by
  have htaken : Frame sweptFrom (fun g => offTiles g ∧ offChannels g) s (allTiles tileTaken s) :=
    (Frame.allTiles s fun t ht u => tileTaken_frame ht u).mono fun _ => And.left
  rw [sweepStart_eq]
  exact (htaken.trans ((sweepInject_frame _).mono fun _ => And.right)).trans ((sweepCode_frame _ _).mono fun _ => And.left)

theorem sweptTile_taken (hk : k < 16) (h : s.ca.swTiles.testBit k = true) :
    sweptTile k (sweepInject (allTiles tileTaken s)) = (true, s.get (.TILE_TDAC_CODE k), s.get (.TILE_TDAC_CODE k), s.ca) := by
  rw [sweptTile_resets hk (sweepInject_frame _)]
  refine allTiles_at (sweptTile k) hk (fun t _ htk u => sweptTile_tileTaken_ne htk u) s fun u hu => ?_
  simp only [sweptTile, Prod.mk.injEq] at hu
  obtain ⟨-, -, hcode, hca⟩ := hu
  rw [sweptTile_tileTaken (hca ▸ h), hcode, hca]

/-- A tile that the sweep starts on (R123, R161). -/
theorem sweepStart_tile (hk : k < 16) (h : s.ca.swTiles.testBit k = true) : ((sweepStart s).tile k).sweep = true ∧
    ((sweepStart s).tile k).swTdac = s.get (.TILE_TDAC_CODE k) ∧ (sweepStart s).get (.TILE_TDAC_CODE k) = toU 12 s.ca.swStart := by
  have htaken := sweptTile_taken hk h
  simp only [sweptTile, Prod.mk.injEq] at htaken
  obtain ⟨hsweep, hdac, -, hca⟩ := htaken
  have htile : (sweepStart s).tile k = (sweepInject (allTiles tileTaken s)).tile k := by
    rw [sweepStart_eq, (sweepCode_frame _ _).unchanged (State.tile · k)]
  rw [htile, sweepStart_eq]
  exact ⟨hsweep, hdac, code_sweepCode hk _ (hca ▸ h)⟩

end Start

section End

variable {s : State} {k : Nat}

/-- What tile `t` had before the SWEEP, given back to it (R123): its code, and inject mode of the channels that are no current output. -/
def tileReturned (t : Nat) (s : State) : State :=
  ((s.put (.TILE_TDAC_CODE t) (s.tile t).swTdac).modTile t fun y => { y with sweep := false }).each [0, 1, 2, 3] fun j u =>
    if modeOf u (16 * t + 12 + j) = 5 then u else setInject (16 * t + 12 + j) ((s.tile t).swInj.testBit j) u

/-- The end of a SWEEP at tile `t`, if the sweep holds it. -/
def tileReleased (t : Nat) (s : State) : State := if s.ca.swTiles.testBit t && (s.tile t).sweep then tileReturned t s else s

/-- Every tile released, and the result shown. -/
def sweepShown (result : Nat) (s : State) : State := ((allTiles tileReleased s).put .CA_STAT_STATE 0).put .CA_STAT_RESULT result

theorem sweepEnd_eq (result permit : Nat) (s : State) : sweepEnd result permit s =
    raiseIrq irqCal ((permitEnd actSweep permit (sweepShown result s)).modCa fun c => { c with swStep := none, swAbort := false }) := rfl

theorem injectReturned_frame {t : Nat} (ht : t < 16) (m : Nat) (s : State) : Frame resetsFrom offChannels s (s.each [0, 1, 2, 3] fun j u =>
    if modeOf u (16 * t + 12 + j) = 5 then u else setInject (16 * t + 12 + j) (m.testBit j) u) :=
  .each _ _ s fun j hj u => .ite (fun _ => .refl u) fun _ => setInject_offChannels (by simp at hj; omega) _ u

theorem codeReturned_frame {t : Nat} (ht : t < 16) (v : Nat) (s : State) (F : TileSt → TileSt) :
    Frame convertedFrom offTiles s ((s.put (.TILE_TDAC_CODE t) v).modTile t F) := by
  have hput : Frame convertedFrom offTiles s (s.put (.TILE_TDAC_CODE t) v) := (Frame.refl s).put _ _ fun g hg => by
    simp only [offTiles, Reg.TILE_TDAC] at hg ⊢
    omega
  exact hput.trans (.of_regs rfl rfl)

theorem tileReleased_frame {t : Nat} (ht : t < 16) (s : State) : Frame sweptFrom (fun g => offTiles g ∧ offChannels g) s (tileReleased t s) :=
  .ite (fun _ => ((codeReturned_frame ht _ s _).mono fun _ => And.left).trans ((injectReturned_frame ht _ _).mono fun _ => And.right)) fun _ => .refl s

theorem sweptTile_tileReleased_ne {t : Nat} (h : t ≠ k) (ht : t < 16) (hk : k < 16) (s : State) : sweptTile k (tileReleased t s) = sweptTile k s := by
  unfold tileReleased
  split
  · rw [tileReturned, sweptTile_resets hk (injectReturned_frame ht _ _)]
    rw [sweptTile_modTile_ne h.symm, State.put, sweptTile_wr (by simp only [Reg.TILE_TDAC]; omega)]
  · rfl

theorem sweptTile_tileReleased (hk : k < 16) (h : s.ca.swTiles.testBit k = true) (hs : (s.tile k).sweep = true) :
    sweptTile k (tileReleased k s) = (false, (s.tile k).swTdac, (s.tile k).swTdac % 4096, s.ca) := by
  rw [tileReleased, h, hs, Bool.and_true, if_pos rfl, tileReturned, sweptTile_resets hk (injectReturned_frame hk _ _), sweptTile_modTile,
    get_put _ _ _ (by simp) (by simp)]
  rfl

theorem sweptTile_released (hk : k < 16) (h : s.ca.swTiles.testBit k = true) (hs : (s.tile k).sweep = true) :
    sweptTile k (allTiles tileReleased s) = (false, (s.tile k).swTdac, (s.tile k).swTdac % 4096, s.ca) := by
  refine allTiles_at (sweptTile k) hk (fun t ht htk u => sweptTile_tileReleased_ne htk ht hk u) s fun u hu => ?_
  simp only [sweptTile, Prod.mk.injEq] at hu
  obtain ⟨hsweep, hdac, -, hca⟩ := hu
  rw [sweptTile_tileReleased hk (hca ▸ h) (hsweep.trans hs), hdac, hca]

end End

end Sys2Proof.Machine
end

section
/-! PROOFS. A SWEEP from its request to its end (R123, R160, R161), and the statement of its family. -/

namespace Sys2Proof.Machine

set_option Elab.async false

section Request

variable {s : State}

/-- The settings with which a sweep starts now (R160, R161). -/
def sweepSettings (s : State) (c : CaSt) : CaSt := { c with
  swStep := some 0, swTiles := s.get .CA_SWEEP_SEL_TILES, swPos := s.get .CA_SWEEP_SEL_POS,
  swStart := sext 12 (s.get .CA_SWEEP_CFG_START), swInc := sext 12 (s.get .CA_SWEEP_CFG_STEP),
  swCount := s.get .CA_SWEEP_CFG_COUNT, swLimit := s.get .CA_SWEEP_SEL_LIMIT,
  swDwell := max (s.get .CA_SWEEP_SEL_DWELL) (if fmLean s then 8 else 2), swAt := clk s, swAbort := false }

/-- `CA_STAT` as a sweep that starts leaves it before the permit (R160): a dwell that is too short shows, the last sweep's failure does not. -/
def sweepNoted (s : State) : State :=
  (s.when (decide (s.get .CA_SWEEP_SEL_DWELL < if fmLean s then 8 else 2)) (·.set1 .CA_STAT_IGNORED)).put .CA_STAT_SWEEP_FAIL 0

/-- A sweep granted, before it takes its tiles. -/
def sweepGranted (s : State) : State :=
  (permitDecide actSweep prGranted ((sweepNoted s).modCa (sweepSettings s))).put .CA_STAT_STATE 3

/-- `s` with what a write into a queue changes and the conversion array's record taken from `t`. -/
def grantedFrom (s t : State) : State := { queuedFrom s t with ca := t.ca }

/-- What the decision about a sweep leaves. -/
def offRequest (g : FldRef) : Prop := offQueues g ∧ g.a ≠ Reg.CA_STAT ∧ g.a ≠ Reg.SV_PERMIT

theorem sweepRequest_notAllowed (h : sweepAllowed s = false) : sweepRequest s = s.put .CA_STAT_RESULT caNotAllowed := if_pos (by simp [h])

theorem sweepRequest_refused (h : sweepAllowed s = true) (hp : permitAnswer s actSweep ≠ prGranted) :
    sweepRequest s = (permitDecide actSweep (permitAnswer s actSweep) s).put .CA_STAT_RESULT caRefused := by
  rw [sweepRequest, if_neg (by simp [h]), if_pos hp]

theorem sweepRequest_granted (h : sweepAllowed s = true) (hp : permitAnswer s actSweep = prGranted) : sweepRequest s = sweepStart (sweepGranted s) := by
  rw [sweepRequest, if_neg (by simp [h]), if_neg (by simp [hp])]
  rfl

theorem sweepNoted_frame (s : State) : Frame regsFrom (fun g => g.a ≠ Reg.CA_STAT) s (sweepNoted s) := by
  have hwhen : Frame regsFrom (fun g => g.a ≠ Reg.CA_STAT) s
      (s.when (decide (s.get .CA_SWEEP_SEL_DWELL < if fmLean s then 8 else 2)) (·.set1 .CA_STAT_IGNORED)) :=
    .ite (fun _ => (Frame.refl s).put _ _ fun _ hg => hg) fun _ => .refl s
  exact hwhen.put _ _ fun _ hg => hg

theorem sweepGranted_frame (s : State) : Frame grantedFrom offRequest s (sweepGranted s) := by
  have hset : Frame grantedFrom offRequest (sweepNoted s) ((sweepNoted s).modCa (sweepSettings s)) := .of_regs rfl rfl
  have hnoted : Frame grantedFrom offRequest s ((sweepNoted s).modCa (sweepSettings s)) := ((sweepNoted_frame s).mono fun _ hg => hg.2.1).trans hset
  exact (hnoted.trans ((permitDecide_frame _ _ _).mono fun _ hg => ⟨hg.1, hg.2.2⟩)).put _ _ fun _ hg => hg.2.1

theorem ca_sweepGranted (s : State) : (sweepGranted s).ca = sweepSettings s s.ca := by
  rw [sweepGranted, State.put_ca, (permitDecide_frame _ _ _).unchanged State.ca]
  exact congrArg (sweepSettings s) ((sweepNoted_frame s).unchanged State.ca)

theorem held_sweepGranted (s : State) : (sweepGranted s).get .SV_PERMIT_HELD = s.get .SV_PERMIT_HELD ||| 2 ^ (actSweep - 1) := by
  rw [sweepGranted, get_put_ne _ _ _ _ (by decide), held_permitDecide (by decide), State.modCa_get, (sweepNoted_frame s).get _ (by decide)]

theorem state_sweepGranted (s : State) : (sweepGranted s).get .CA_STAT_STATE = 3 := get_put _ _ _ (by simp) (by simp)

/-- Registers of tiles are none that the decision changes. -/
theorem offRequest_tile {g : FldRef} (h : 0x10000 ≤ g.a ∧ g.a < 0x30000) : offRequest g := by
  obtain ⟨hlo, hhi⟩ := h
  refine ⟨offQueues_of_lt hhi ?_, ?_, ?_⟩ <;> simp only [Reg.MOD_IRQ, Reg.CA_STAT, Reg.SV_PERMIT] <;> omega

/-- Registers outside the tiles' and the channels'. -/
theorem offTiles_offChannels {g : FldRef} (hi : g.hi < 32) (h : ¬ (0x10000 ≤ g.a ∧ g.a < 0x30000)) : offTiles g ∧ offChannels g := by
  simp only [offTiles, offChannels]
  omega

/-- `s` with what a sweep that starts changes taken from `t`. -/
def startedFrom (s t : State) : State := { queuedFrom s t with ca := t.ca, chains := t.chains, dips := t.dips, tiles := t.tiles }

theorem sweepStarted_frame (s : State) :
    Frame startedFrom (fun g => offRequest g ∧ offTiles g ∧ offChannels g) s (sweepStart (sweepGranted s)) :=
  ((sweepGranted_frame s).mono fun _ => And.left).trans ((sweepStart_frame _).mono fun _ => And.right)

/-- A granted sweep's own record and status (R160, R161). -/
theorem sweepStarted_status (s : State) : (sweepStart (sweepGranted s)).ca = sweepSettings s s.ca ∧
    (sweepStart (sweepGranted s)).get .CA_STAT_STATE = 3 ∧
    (sweepStart (sweepGranted s)).get .SV_PERMIT_HELD = s.get .SV_PERMIT_HELD ||| 2 ^ (actSweep - 1) := by
  have hf := sweepStart_frame (sweepGranted s)
  refine ⟨(hf.unchanged State.ca).trans (ca_sweepGranted s), ?_, ?_⟩
  · rw [hf.get _ (offTiles_offChannels (by simp) (by decide)), state_sweepGranted]
  · rw [hf.get _ (offTiles_offChannels (by simp) (by decide)), held_sweepGranted]

/-- Each of its tiles (R123, R161). -/
theorem sweepStarted_tile {k : Nat} (hk : k < 16) (h : (s.get .CA_SWEEP_SEL_TILES).testBit k = true) :
    ((sweepStart (sweepGranted s)).tile k).sweep = true ∧ ((sweepStart (sweepGranted s)).tile k).swTdac = s.get (.TILE_TDAC_CODE k) ∧
      (sweepStart (sweepGranted s)).get (.TILE_TDAC_CODE k) = s.get .CA_SWEEP_CFG_START := by
  have hca := ca_sweepGranted s
  obtain ⟨hsweep, hdac, hcode⟩ := sweepStart_tile (s := sweepGranted s) hk (by rw [hca]; exact h)
  refine ⟨hsweep, ?_, ?_⟩
  · rw [hdac, (sweepGranted_frame s).get _ (offRequest_tile (by simp only [Reg.TILE_TDAC]; omega))]
  · rw [hcode, hca]
    exact toU_sext (get_lt s .CA_SWEEP_CFG_START)

variable {r : Req}

theorem exec_sweep (ha : Admitted s r Reg.CA_CMD Msk.CA_CMD) : exec (.sweep r) s = .next (sweepRequest s) := by
  show execSweep r s = _
  rw [execSweep, regWrite_admitted _ _ _ _ _ _ ha]
  rfl

theorem exec_sweepAbort (ha : Admitted s r Reg.CA_CMD Msk.CA_CMD) : exec (.sweepAbort r) s = .next (sweepAbortReq s) := by
  show execSweepAbort r s = _
  rw [execSweepAbort, regWrite_admitted _ _ _ _ _ _ ha]
  rfl

end Request

section Step

variable {s : State} {raw d : List Int}

/-- The test DAC's codes by tile, corrected, as the end of a dwell measures them (R161). -/
def sweepCodes (raw : List Int) (s : State) : List Int := (List.range 16).map fun t => auxCode s t (clip24 (raw.getD t 0)).1

/-- Tile `t`'s code stored as an injected conversion of auxiliary input 15 (R161). -/
def tileMeasured (d : List Int) (t : Nat) (s : State) : State :=
  if s.ca.swTiles.testBit t && tileUp s t then slotDelay t (injStore t { target := 15, tag := 0 } (d.getD t 0) false s) else s

/-- The measurement at the end of a dwell, and its comparison with the swept channels (R161). -/
def sweepMeasured (d : List Int) (s : State) : State := eachSwept (sweepCompare d) (allTiles (tileMeasured d) s)

theorem exec_sweepStep_due {i : Nat} (hi : s.ca.swStep = some i) (hd : s.ca.swAt + s.ca.swDwell * tickMs ≤ clk s) :
    exec (.sweepStep raw) s = .next (
      if s.ca.swAbort then sweepEnd caAborted prAbandoned (sweepMeasured (sweepCodes raw s) s)
      else if s.ca.swCount ≤ i + 1 then sweepEnd caOk prDone (sweepMeasured (sweepCodes raw s) s)
      else sweepCode (s.ca.swStart + (i + 1 : Nat) * s.ca.swInc)
        ((sweepMeasured (sweepCodes raw s) s).modCa fun c => { c with swStep := some (i + 1), swAt := clk s })) := by
  have hlt : ¬ clk s < s.ca.swAt + s.ca.swDwell * tickMs := by omega
  show execSweepStep raw s = _
  simp only [execSweepStep, hi, if_neg hlt]
  rfl

theorem exec_sweepStep_skip (h : s.ca.swStep = none ∨ clk s < s.ca.swAt + s.ca.swDwell * tickMs) : exec (.sweepStep raw) s = .next s := by
  show execSweepStep raw s = _
  rw [execSweepStep]
  split
  case h_1 => rfl
  case h_2 i hi => rw [if_pos (h.resolve_left (by simp [hi]))]

/-- What the measurement leaves: `CA_STAT` and the results of tiles apart, everything. -/
def offMeasured (g : FldRef) : Prop := offTiles g ∧ g.a ≠ Reg.CA_STAT

theorem injStore_frame {t : Nat} (ht : t < 16) (x : InjReq) (hx : x.target < 16) (v : Int) (ovr : Bool) (s : State) :
    Frame regsFrom offTiles s (injStore t x v ovr s) := by
  have hne (g : FldRef) (hg : offTiles g) : g.a ≠ Reg.TILE_INJ_RES t ∧ g.a ≠ Reg.TILE_INJ_TS t 0 ∧ g.a ≠ Reg.TILE_INJ_TS t 0 + 4 ∧
      g.a ≠ Reg.TILE_INJ_STAT t := by
    simp only [offTiles, Reg.TILE_INJ_RES, Reg.TILE_INJ_TS, Reg.TILE_INJ_STAT] at hg ⊢
    omega
  have hres : Frame regsFrom offTiles s (wr (Reg.TILE_INJ_RES t) (wd (toU 24 v * 256)) s) := (Frame.refl s).wr _ _ fun g hg => (hne g hg).1
  have hts (u : State) (w : Nat) : Frame regsFrom offTiles u (u.put64 (Reg.TILE_INJ_TS t 0) w) :=
    have hlo : Frame regsFrom offTiles u (wr (Reg.TILE_INJ_TS t 0) (wd w) u) := (Frame.refl u).wr _ _ fun g hg => (hne g hg).2.1
    hlo.wr _ _ fun g hg => (hne g hg).2.2.1
  unfold injStore
  rw [if_neg (by omega)]
  refine ((((Frame.put ?_ _ _ ?_).put _ _ ?_).put _ _ ?_).put _ _ ?_).put _ _ ?_
  · exact hres.trans (hts _ _)
  all_goals exact fun g hg => (hne g hg).2.2.2

theorem slotDelay_frame {P : FldRef → Prop} (t : Nat) (s : State) : Frame convertedFrom P s (slotDelay t s) := .of_regs rfl rfl

theorem tileMeasured_frame {t : Nat} (ht : t < 16) (d : List Int) (s : State) : Frame convertedFrom offTiles s (tileMeasured d t s) :=
  .ite (fun _ => ((injStore_frame ht _ (by decide) _ _ s).mono fun _ => id).trans (slotDelay_frame t _)) fun _ => .refl s

theorem sweepCompare_frame {t : Nat} (ht : t < 16) (d : List Int) (j : Nat) (s : State) : Frame regsFrom offMeasured s (sweepCompare d t j s) := by
  have hres (f : FldRef) (hf : f.a = Reg.TILE_SWEEP_RES t) (v : Nat) : Frame regsFrom offMeasured s (s.put f v) := (Frame.refl s).put _ _ fun g hg => by
    simp only [hf, offMeasured, offTiles, Reg.TILE_SWEEP_RES] at hg ⊢
    omega
  exact .ite (fun _ => .refl s) fun _ => .ite (fun _ => (hres _ rfl _).put _ _ fun _ hg => hg.2) fun _ => hres _ rfl _

theorem sweepMeasured_frame (d : List Int) (s : State) : Frame convertedFrom offMeasured s (sweepMeasured d s) := by
  have htiles : Frame convertedFrom offTiles s (allTiles (tileMeasured d) s) := .allTiles s fun t ht u => tileMeasured_frame ht d u
  have hcmp (u : State) : Frame regsFrom offMeasured u (eachSwept (sweepCompare d) u) := .eachSwept u fun t ht j _ v => sweepCompare_frame ht d j v
  exact (htiles.mono fun _ => And.left).trans ((hcmp _).mono fun _ => id)

theorem ca_sweepMeasured (d : List Int) (s : State) : (sweepMeasured d s).ca = s.ca :=
  (sweepMeasured_frame d s).unchanged State.ca

/-- The measurement keeps what the sweep will give back to a tile. -/
theorem tile_sweepMeasured (d : List Int) (s : State) (k : Nat) :
    ((sweepMeasured d s).tile k).sweep = (s.tile k).sweep ∧ ((sweepMeasured d s).tile k).swTdac = (s.tile k).swTdac := by
  have hcmp (u : State) : (eachSwept (sweepCompare d) u).tile k = u.tile k := by
    have hf : Frame regsFrom offMeasured u (eachSwept (sweepCompare d) u) := .eachSwept u fun t ht j _ v => sweepCompare_frame ht d j v
    exact hf.unchanged (State.tile · k)
  rw [sweepMeasured, hcmp]
  refine each_ind (fun u => (u.tile k).sweep = (s.tile k).sweep ∧ (u.tile k).swTdac = (s.tile k).swTdac) _ _ _ ⟨rfl, rfl⟩ fun t ht u hu => ?_
  unfold tileMeasured
  split
  · have htile : (injStore t { target := 15, tag := 0 } (d.getD t 0) false u).tile k = u.tile k :=
      (injStore_frame (List.mem_range.mp ht) { target := 15, tag := 0 } (by decide) (d.getD t 0) false u).unchanged (State.tile · k)
    rw [slotDelay]
    by_cases h : k = t
    · subst h
      rw [tile_modTile, htile]
      exact hu
    · rw [tile_modTile_ne h, htile]
      exact hu
  · exact hu

/-- `s` with its registers, its tiles and the conversion array's record taken from `t`. -/
def steppedFrom (s t : State) : State := { s with regs := t.regs, ca := t.ca, tiles := t.tiles }

/-- The next step of a sweep (R161). -/
theorem nextStep_spec (d : List Int) (s : State) (c : Int) (F : CaSt → CaSt) (hF : (F s.ca).swTiles = s.ca.swTiles) :
    (sweepCode c ((sweepMeasured d s).modCa F)).ca = F s.ca ∧
      (∀ k < 16, s.ca.swTiles.testBit k = true → (sweepCode c ((sweepMeasured d s).modCa F)).get (.TILE_TDAC_CODE k) = toU 12 c) ∧
      Frame steppedFrom offMeasured s (sweepCode c ((sweepMeasured d s).modCa F)) := by
  have hca : ((sweepMeasured d s).modCa F).ca = F s.ca := congrArg F (ca_sweepMeasured d s)
  refine ⟨?_, fun k hk h => code_sweepCode hk c (by rw [hca, hF, h]), ?_⟩
  · exact ((sweepCode_frame c _).unchanged State.ca).trans hca
  · have hmod : Frame steppedFrom offMeasured s ((sweepMeasured d s).modCa F) :=
      ((sweepMeasured_frame d s).mono fun _ => id).trans (.of_regs rfl rfl)
    exact hmod.trans ((sweepCode_frame c _).mono fun _ => And.left)

end Step

section End

variable {s : State} {k result permit : Nat}

/-- `s` with what ends a sweep's permit and its record taken from `t`; with the swept tiles beside them. -/
def closedFrom (s t : State) : State := { queuedFrom s t with ca := t.ca, pw := t.pw }
def finishedFrom (s t : State) : State := { queuedFrom s t with ca := t.ca, chains := t.chains, dips := t.dips, pw := t.pw, tiles := t.tiles }

theorem allReleased_frame (s : State) : Frame sweptFrom (fun g => offTiles g ∧ offChannels g) s (allTiles tileReleased s) :=
  .allTiles s fun _ ht u => tileReleased_frame ht u

theorem sweepShown_frame (result : Nat) (s : State) :
    Frame regsFrom (fun g => g.a ≠ Reg.CA_STAT) (allTiles tileReleased s) (sweepShown result s) := by
  have hput : Frame regsFrom (fun g => g.a ≠ Reg.CA_STAT) (allTiles tileReleased s) ((allTiles tileReleased s).put .CA_STAT_STATE 0) :=
    (Frame.refl _).put _ _ fun _ hg => hg
  exact hput.put _ _ fun _ hg => hg

/-- What ends the permit and marks the sweep as over, after the result is shown. -/
theorem sweepClosed_frame (result permit : Nat) (s : State) :
    Frame closedFrom (fun g => offQueues g ∧ g.a ≠ Reg.SV_PERMIT) (sweepShown result s) (sweepEnd result permit s) := by
  have hmod (u : State) : Frame closedFrom (fun g => offQueues g ∧ g.a ≠ Reg.SV_PERMIT) u (u.modCa fun c => { c with swStep := none, swAbort := false }) :=
    .of_regs rfl rfl
  rw [sweepEnd_eq]
  exact (((permitEnd_frame actSweep permit _).mono fun _ => id).trans (hmod _)).put _ _ fun _ hg => ne_modIrq_of_offQueues hg.1

theorem sweepEnd_frame (result permit : Nat) (s : State) :
    Frame finishedFrom (fun g => offRequest g ∧ offTiles g ∧ offChannels g) s (sweepEnd result permit s) :=
  (((allReleased_frame s).mono fun _ => And.right).trans ((sweepShown_frame result s).mono fun _ hg => hg.1.2.1)).trans
    ((sweepClosed_frame result permit s).mono fun _ hg => ⟨hg.1.1, hg.1.2.2⟩)

theorem ca_sweepEnd (result permit : Nat) (s : State) : (sweepEnd result permit s).ca = { s.ca with swStep := none, swAbort := false } := by
  have hend : (permitEnd actSweep permit (sweepShown result s)).ca = s.ca :=
    ((permitEnd_frame _ _ _).unchanged State.ca).trans (((sweepShown_frame result s).unchanged State.ca).trans ((allReleased_frame s).unchanged State.ca))
  exact congrArg (fun c : CaSt => { c with swStep := none, swAbort := false }) hend

/-- The status after the end of a sweep (R161, R163). -/
theorem sweepEnd_status (hr : result < 16) (permit : Nat) (s : State) : (sweepEnd result permit s).get .CA_STAT_STATE = 0 ∧
    (sweepEnd result permit s).get .CA_STAT_RESULT = result ∧
    (sweepEnd result permit s).get .SV_PERMIT_HELD = s.get .SV_PERMIT_HELD &&& (0x7F ^^^ 2 ^ (actSweep - 1)) := by
  have hclosed := sweepClosed_frame result permit s
  have hstat (g : FldRef) (hg : g.a = Reg.CA_STAT) : offQueues g ∧ g.a ≠ Reg.SV_PERMIT := by
    rw [offQueues, hg]
    decide
  refine ⟨?_, ?_, ?_⟩
  · rw [hclosed.get _ (hstat _ rfl), sweepShown, get_put_apart _ _ _ _ (by simp) (by simp) (by simp [FldRef.apart])]
    exact get_put _ _ _ (by simp) (by simp)
  · rw [hclosed.get _ (hstat _ rfl), sweepShown, get_put _ _ _ (by simp) (by simp)]
    exact Nat.mod_eq_of_lt hr
  · rw [sweepEnd_eq, raiseIrq, get_put_ne _ _ _ _ (by decide), State.modCa_get, held_permitEnd, (sweepShown_frame result s).get _ (by decide),
      (allReleased_frame s).get _ (offTiles_offChannels (by simp) (by decide))]

/-- A tile that the sweep has held (R123). -/
theorem sweepEnd_tile (hk : k < 16) (h : s.ca.swTiles.testBit k = true) (hs : (s.tile k).sweep = true) :
    ((sweepEnd result permit s).tile k).sweep = false ∧ (sweepEnd result permit s).get (.TILE_TDAC_CODE k) = (s.tile k).swTdac % 4096 := by
  have hreleased := sweptTile_released hk h hs
  simp only [sweptTile, Prod.mk.injEq] at hreleased
  obtain ⟨hsweep, -, hcode, -⟩ := hreleased
  have hoff : offRequest (.TILE_TDAC_CODE k) := offRequest_tile (by simp only [Reg.TILE_TDAC]; omega)
  constructor
  · have htile : (sweepEnd result permit s).tile k = (allTiles tileReleased s).tile k := by
      rw [(sweepClosed_frame result permit s).unchanged (State.tile · k), (sweepShown_frame result s).unchanged (State.tile · k)]
    rw [htile, hsweep]
  · rw [(sweepClosed_frame result permit s).get _ ⟨hoff.1, hoff.2.2⟩, (sweepShown_frame result s).get _ hoff.2.1, hcode]

/-- The end of a sweep after its last measurement (R161), as the state before the measurement shows it. -/
theorem sweepFinished_spec (hr : result < 16) (permit : Nat) (d : List Int) (s : State) :
    (sweepEnd result permit (sweepMeasured d s)).ca = { s.ca with swStep := none, swAbort := false } ∧
      (sweepEnd result permit (sweepMeasured d s)).get .CA_STAT_STATE = 0 ∧
      (sweepEnd result permit (sweepMeasured d s)).get .CA_STAT_RESULT = result ∧
      (sweepEnd result permit (sweepMeasured d s)).get .SV_PERMIT_HELD = s.get .SV_PERMIT_HELD &&& (0x7F ^^^ 2 ^ (actSweep - 1)) ∧
      (∀ k : Fin 16, s.ca.swTiles.testBit k = true → (s.tile k).sweep = true → ((sweepEnd result permit (sweepMeasured d s)).tile k).sweep = false ∧
        (sweepEnd result permit (sweepMeasured d s)).get (.TILE_TDAC_CODE k) = (s.tile k).swTdac % 4096) ∧
      Frame finishedFrom (fun g => (offRequest g ∧ offTiles g ∧ offChannels g) ∧ offMeasured g) s (sweepEnd result permit (sweepMeasured d s)) := by
  obtain ⟨hstate, hresult, hheld⟩ := sweepEnd_status hr permit (sweepMeasured d s)
  have hca := ca_sweepMeasured d s
  refine ⟨by rw [ca_sweepEnd, hca], hstate, hresult, ?_, fun k h hs => ?_,
    ((sweepMeasured_frame d s).mono fun _ => And.right).trans ((sweepEnd_frame result permit _).mono fun _ => And.left)⟩
  · rw [hheld, (sweepMeasured_frame d s).get _ ⟨.inl (by decide), by decide⟩]
  · obtain ⟨hsweep, hdac⟩ := tile_sweepMeasured d s k
    rw [← hdac]
    exact sweepEnd_tile k.isLt (hca ▸ h) (hsweep.trans hs)

end End

/-- Settles O28: a request is refused or takes the sweep's tiles, the end of a dwell measures and then steps or gives them back. -/
theorem sweepCommands : Obligations.SweepCommands := by
  unfold Obligations.SweepCommands
  refine ⟨?notAllowed, ?refused, ?granted, ?abort, ?ignored, ?next, ?finish, fun s raw h => exec_sweepStep_skip h⟩
  case notAllowed =>
    intro s r ha h
    rw [exec_sweep ha, sweepRequest_notAllowed h]
  case refused =>
    intro s r ha h hp
    have hf : Frame queuedFrom offRequest s ((permitDecide actSweep (permitAnswer s actSweep) s).put .CA_STAT_RESULT caRefused) :=
      ((permitDecide_frame _ _ s).mono fun _ hg => ⟨hg.1, hg.2.2⟩).put _ _ fun _ hg => hg.2.1
    exact ⟨_, by rw [exec_sweep ha, sweepRequest_refused h hp], get_put _ _ _ (by simp) (by simp), hf.unchanged State.ca, hf.rest,
      fun a hq hc hs => hf.rd a ⟨hq, hc, hs⟩⟩
  case granted =>
    intro s r ha h hp
    obtain ⟨hca, hstate, hheld⟩ := sweepStarted_status s
    have hf := sweepStarted_frame s
    refine ⟨_, by rw [exec_sweep ha, sweepRequest_granted h hp], ?_, ?_, ?_, ?_, ?_, ?_, hstate, hheld, fun k hk => sweepStarted_tile k.isLt hk, hf.rest,
      fun a hq hc hs hx => hf.rd a ⟨⟨hq, hc, hs⟩, offTiles_offChannels (by simp) hx⟩⟩
    all_goals
      rw [hca]
      rfl
  case abort =>
    intro s r ha h
    rw [exec_sweepAbort ha, sweepAbortReq, if_pos (Option.isSome_iff_ne_none.mpr h)]
    rfl
  case ignored =>
    intro s r ha h
    rw [exec_sweepAbort ha, sweepAbortReq, if_neg (by simp [h])]
  case next =>
    intro s raw i hi hd habort hlt
    obtain ⟨hca, hcode, hf⟩ := nextStep_spec (sweepCodes raw s) s (s.ca.swStart + (i + 1 : Nat) * s.ca.swInc)
      (fun c => { c with swStep := some (i + 1), swAt := clk s }) rfl
    refine ⟨_, by rw [exec_sweepStep_due hi hd, if_neg (by simp [habort]), if_neg (by omega)], hca, fun k hk => hcode k k.isLt hk, hf.rest,
      fun a hc hx => hf.rd a ⟨?_, hc⟩⟩
    simp only [offTiles]
    omega
  case finish =>
    intro s raw i hi hd hend
    have hexec : exec (.sweepStep raw) s = .next (sweepEnd (if s.ca.swAbort = true then caAborted else caOk)
        (if s.ca.swAbort = true then prAbandoned else prDone) (sweepMeasured (sweepCodes raw s) s)) := by
      rw [exec_sweepStep_due hi hd]
      by_cases h : s.ca.swAbort = true
      · simp [h]
      · simp [h, hend.resolve_left h]
    obtain ⟨hca, hstate, hresult, hheld, htile, hf⟩ := sweepFinished_spec (result := if s.ca.swAbort = true then caAborted else caOk)
      (by split <;> decide) (if s.ca.swAbort = true then prAbandoned else prDone) (sweepCodes raw s) s
    exact ⟨_, hexec, hca, hstate, hresult, hheld, htile, hf.rest, fun a hq hc hs hx => hf.rd a ⟨⟨⟨hq, hc, hs⟩, offTiles_offChannels (by simp) hx⟩,
      (offTiles_offChannels (g := ⟨a, 31, 0⟩) (by simp) hx).1, hc⟩⟩

end Sys2Proof.Machine
end

section
/-! PROOFS. Schedules (R280): instants beyond the last one that NEXT can hold, and the statement of their family. -/

namespace Sys2Proof.Machine

set_option Elab.async false

/-- A module in RUN whose SYNC schedule 0 is due at tick 64, one tick ahead; its period is the longest that is a multiple of 64, so that the instant after it lies
at 2^64. -/
def lastInstant : State :=
  ((({ pw := { on := true, power := 1 }, tu := { acc := 63 * 2 ^ 32 } } : State).put (.TU_SCH_CFG_KIND 0) 1).put64 (Reg.TU_SCH_PER 0 0) (2 ^ 64 - 64)
    |>.put64 (Reg.TU_SCH_NEXT 0 0) 64).set1 .CA_CFG_SYNC_SCHED_EN

theorem lastInstant_due : schActive lastInstant 0 = true ∧ schKind lastInstant 0 = 1 ∧ acqRuns lastInstant = true ∧
    lastInstant.is .CA_CFG_SYNC_SCHED_EN = true ∧ now lastInstant = 63 ∧ per lastInstant = 16 ∧ schPer lastInstant 0 = 2 ^ 64 - 64 ∧
    schNext lastInstant 0 = 64 := by decide

/-- What the model does at that instant: NEXT wraps to 0. -/
theorem schNext_schFire_lastInstant : schNext (schFire 0 lastInstant) 0 = 0 := by decide

/-- Refutes O35: where a SYNC schedule fires up to two periods ahead of its instant (`lastInstant`), the clause bounds `TU_NOW` plus the period, not NEXT plus the
period, and the next instant that it asks for is 2^64, which NEXT cannot hold. -/
theorem not_scheduleCommands : ¬ Obligations.ScheduleCommands := by
  unfold Obligations.ScheduleCommands
  rintro ⟨-, -, -, -, hlate, -⟩
  obtain ⟨hact, hkind, hacq, hen, hnow, hper, hperiod, hnext⟩ := lastInstant_due
  obtain ⟨t, ht, hinst, -⟩ := hlate lastInstant 0 hact hkind hacq hen (by rw [hnow, hper]; exact hnext.trans_lt (by decide))
    (by rw [hnow]; exact hperiod ▸ by decide)
  obtain rfl : schFire 0 lastInstant = t := Host.Outcome.next.inj ht
  have hinst : schNext (schFire 0 lastInstant) 0 = schNext lastInstant 0 +
      ((now lastInstant - schNext lastInstant 0) / schPer lastInstant 0 + 1) * schPer lastInstant 0 := hinst
  rw [schNext_schFire_lastInstant, hnow, hperiod, hnext] at hinst
  exact absurd hinst (by decide)

end Sys2Proof.Machine
end

section
/-! PROOFS. SYNC (R140 to R143, R165): what a request does, and what its edge does to every chain. -/

namespace Sys2Proof.Machine

set_option Elab.async false

section Request

variable {s : State} {src : Nat}

/-- `s` with its registers and the conversion array's record taken from `t`. -/
def arrayFrom (s t : State) : State := { s with regs := t.regs, ca := t.ca }

/-- The SYNC of source `src` that is to come as soon as may be (R142). -/
def soonSync (s : State) (src : Nat) : SyncReq := { src := src, edge := edgeAt s (now s + 2 * per s) }

theorem syncEn_land : syncEn s srcLand = s.is .CA_CFG_SYNC_LAND_EN := if_pos rfl

theorem syncEn_reg : syncEn s srcReg = s.is .CA_CFG_SYNC_REG_EN := by rw [syncEn, if_neg (by decide), if_pos rfl]

/-- A SYNC of an enabled source waits for its edge where acquisition runs (R141, R142). -/
theorem syncRequest_queued (h : acqRuns s = true) (he : syncEn s src = true) :
    syncRequest src none s = s.modCa fun c => { c with syncs := c.syncs ++ [soonSync s src] } := by
  rw [syncRequest, h, he]
  rfl

/-- Any other request is ignored and counted (R143). -/
theorem syncRequest_ignored (tgt : Option Nat) (h : acqRuns s = false ∨ syncEn s src = false) :
    syncRequest src tgt s = s.inc .CA_SYNC_INFO_IGN_CNT := by
  rw [syncRequest, if_neg (by rcases h with h | h <;> simp [h])]

theorem syncRequest_frame (src : Nat) (tgt : Option Nat) (s : State) :
    Frame arrayFrom (fun g => g.a ≠ Reg.CA_SYNC_INFO) s (syncRequest src tgt s) :=
  .ite (fun _ => .of_regs rfl rfl) fun _ => (Frame.refl s).put _ _ fun _ hg => hg

theorem syncs_syncRequest (src : Nat) (s : State) : (syncRequest src none s).ca.syncs =
    if acqRuns s = true ∧ syncEn s src = true then s.ca.syncs ++ [soonSync s src] else s.ca.syncs := by
  split
  case isTrue h =>
    rw [syncRequest_queued h.1 h.2]
    rfl
  case isFalse h =>
    rw [syncRequest_ignored none (by simpa using (Decidable.not_and_iff_or_not.mp h).imp (by simp) (by simp)), State.inc_ca]

end Request

section Apply

variable {s : State}

theorem not_chainReg_of_anyChainReg {n : Nat} (hn : n ∈ anChs) {a : Nat} (h : ¬ anyChainReg a = true) : chainReg n a = false :=
  Bool.eq_false_iff.mpr fun hc => h (List.any_eq_true.mpr ⟨n, hn, hc⟩)

/-- A field outside the registers that the resets of the chains return. -/
def offChains (g : FldRef) : Prop := ¬ anyChainReg g.a = true

theorem syncChains_frame (e : Nat) (disc : Bool) (s : State) : Frame resetsFrom offChains s (syncChains e disc s) :=
  .each _ _ s fun n hn u =>
    .ite (fun _ => (orderReset_frame n true _ u).mono fun _ hg => not_chainReg_of_anyChainReg hn hg) fun _ => setChain_frame n _ u

/-- No register below the channels' is one of their chains'. -/
theorem offChains_of_lt {g : FldRef} (h : g.a < 0x20000) : offChains g := by
  simp only [offChains, anyChainReg, List.any_eq_true, not_exists, not_and, Bool.not_eq_true]
  intro n _
  simp only [chainReg, Bool.or_eq_false_iff, beq_eq_false_iff_ne, Reg.CH_FC_STATE, Reg.CH_LAST, Reg.CH_LAST_SEQ, Reg.CH_TH_STATE]
  omega

/-- What a SYNC leaves: every register but the chains', `CA_SYNC_INFO` and `CA_SYNC_TS`. -/
def offSync (g : FldRef) : Prop := offChains g ∧ g.a ≠ Reg.CA_SYNC_INFO ∧ g.a ≠ Reg.CA_SYNC_TS 0 ∧ g.a ≠ Reg.CA_SYNC_TS 1

/-- A SYNC at edge `e` joins the SYNC shown, if that was at the same edge (R143). -/
def sameEdge (s : State) (e : Nat) : Bool := s.get .CA_SYNC_INFO_SRC != 0 && s.get64 (Reg.CA_SYNC_TS 0) == e

/-- `CA_SYNC_INFO` as a SYNC of sources `m` shows itself (R165). -/
def syncShown (s : State) (e m : Nat) (late : Bool) (u : State) : State :=
  ((u.put .CA_SYNC_INFO_SRC (if sameEdge s e then m ||| s.get .CA_SYNC_INFO_SRC else m)).putB .CA_SYNC_INFO_LATE
    (late || sameEdge s e && s.is .CA_SYNC_INFO_LATE)).put .CA_SYNC_INFO_COUNT (s.get .CA_SYNC_INFO_COUNT + b2n (!sameEdge s e))

theorem syncApplyAt_eq (e m : Nat) (late : Bool) (s : State) :
    syncApplyAt e m late s = (syncShown s e m late (syncChains e (m / 16 % 8 != 0) s)).put64 (Reg.CA_SYNC_TS 0) e := rfl

theorem syncApplyAt_frame (e m : Nat) (late : Bool) (s : State) : Frame resetsFrom offSync s (syncApplyAt e m late s) := by
  rw [syncApplyAt_eq]
  have hchains : Frame resetsFrom offSync s (syncChains e (m / 16 % 8 != 0) s) := (syncChains_frame e _ s).mono fun _ => And.left
  have hshown : Frame resetsFrom offSync s (syncShown s e m late (syncChains e (m / 16 % 8 != 0) s)) :=
    ((hchains.put _ _ fun _ hg => hg.2.1).put _ _ fun _ hg => hg.2.1).put _ _ fun _ hg => hg.2.1
  exact (hshown.wr _ _ fun _ hg => hg.2.2.1).wr _ _ fun _ hg => hg.2.2.2

/-- What `CA_SYNC_TS` and `CA_SYNC_INFO` show after a SYNC of sources `m` (R165). -/
theorem syncApplyAt_shows {e m : Nat} (he : e < 2 ^ 64) (hm : m < 2 ^ 8) (late : Bool) (s : State) :
    (syncApplyAt e m late s).get64 (Reg.CA_SYNC_TS 0) = e ∧
    (syncApplyAt e m late s).get .CA_SYNC_INFO_SRC = (if sameEdge s e then m ||| s.get .CA_SYNC_INFO_SRC else m) ∧
    (syncApplyAt e m late s).is .CA_SYNC_INFO_LATE = (late || sameEdge s e && s.is .CA_SYNC_INFO_LATE) ∧
    (syncApplyAt e m late s).get .CA_SYNC_INFO_COUNT = (s.get .CA_SYNC_INFO_COUNT + b2n (!sameEdge s e)) % 2 ^ 8 := by
  rw [syncApplyAt_eq]
  generalize syncChains e (m / 16 % 8 != 0) s = u
  have hts (v : State) (g : FldRef) (hg : g.a = Reg.CA_SYNC_INFO) : (v.put64 (Reg.CA_SYNC_TS 0) e).get g = v.get g := by
    rw [State.put64, get_wr_ne _ _ _ _ (by rw [hg]; decide), get_wr_ne _ _ _ _ (by rw [hg]; decide)]
  have hsrc : (if sameEdge s e then m ||| s.get .CA_SYNC_INFO_SRC else m) < 2 ^ 8 := by
    split
    · exact Nat.or_lt_two_pow hm (get_lt s .CA_SYNC_INFO_SRC)
    · exact hm
  refine ⟨?_, ?_, ?_, ?_⟩
  · rw [get64_put64, Nat.mod_eq_of_lt he]
  · rw [hts _ _ rfl, syncShown, get_put_apart _ _ _ _ (by simp) (by simp) (by simp [FldRef.apart]), State.putB,
      get_put_apart _ _ _ _ (by simp) (by simp) (by simp [FldRef.apart]), get_put _ _ _ (by simp) (by simp)]
    exact Nat.mod_eq_of_lt hsrc
  · rw [State.is, hts _ _ rfl, syncShown, get_put_apart _ _ _ _ (by simp) (by simp) (by simp [FldRef.apart])]
    exact is_putB _ _ _ (by simp) (by simp)
  · rw [hts _ _ rfl, syncShown, get_put _ _ _ (by simp) (by simp)]
    rfl

/-- The sources of SYNCs fit SRC. -/
theorem srcMask_lt {l : List SyncReq} (h : ∀ r ∈ l, r.src < 8) : srcMask l < 2 ^ 8 := by
  suffices ∀ m < 2 ^ 8, l.foldl (fun m r => m ||| 2 ^ r.src) m < 2 ^ 8 from this 0 (by decide)
  induction l with
  | nil => exact fun m hm => hm
  | cons r l ih =>
    intro m hm
    refine ih (fun q hq => h q (by simp [hq])) _ (Nat.or_lt_two_pow hm ?_)
    exact Nat.pow_lt_pow_right (by decide) (h r (by simp))

/-- SYNC_APPLY with the SYNCs of edge `e`: they leave the queue and show (R143). -/
def syncsTaken (e : Nat) (s : State) : State := s.modCa fun c => { c with syncs := c.syncs.filter (fun r => r.edge ≠ e) }

/-- `s` with what the edge of SYNCs changes taken from `t`. -/
def appliedFrom (s t : State) : State := { s with regs := t.regs, ca := t.ca, chains := t.chains, dips := t.dips }

theorem syncsTaken_frame {P : FldRef → Prop} (e : Nat) (s : State) : Frame appliedFrom P s (syncsTaken e s) := .of_regs rfl rfl

/-- In state CAL they merge into the CAL edge (R143). -/
def syncsMerged (e : Nat) (s : State) : State :=
  (syncsTaken e s).modCa fun c => { c with merged := c.merged ||| srcMask (s.ca.syncs.filter (fun r => r.edge = e)) }

theorem syncsTaken_array {P : FldRef → Prop} (e : Nat) (s : State) : Frame arrayFrom P s (syncsTaken e s) := .of_regs rfl rfl

theorem syncsMerged_array {P : FldRef → Prop} (e : Nat) (s : State) : Frame arrayFrom P s (syncsMerged e s) := .of_regs rfl rfl

variable {e : Nat}

theorem exec_syncApply_none (h : dueEdge s = none) : exec .syncApply s = .next s := by
  show execSyncApply s = _
  rw [execSyncApply, h]

theorem exec_syncApply_stopped (h : dueEdge s = some e) (ha : acqRuns s = false) :
    exec .syncApply s = .next ((syncsTaken e s).addSat .CA_SYNC_INFO_IGN_CNT (s.ca.syncs.filter (fun r => r.edge = e)).length) := by
  show execSyncApply s = _
  simp only [execSyncApply, h, ha]
  rfl

theorem exec_syncApply_cal (h : dueEdge s = some e) (ha : acqRuns s = true) (hc : s.get .CA_STAT_STATE = 2) :
    exec .syncApply s = .next ((syncsMerged e s).set1 .CA_STAT_SYNC_MERGED) := by
  show execSyncApply s = _
  simp only [execSyncApply, h, ha, hc]
  rfl

theorem exec_syncApply_run (h : dueEdge s = some e) (ha : acqRuns s = true) (hc : s.get .CA_STAT_STATE ≠ 2) :
    exec .syncApply s = .next (syncApplyAt e (srcMask (s.ca.syncs.filter (fun r => r.edge = e)))
      ((s.ca.syncs.filter (fun r => r.edge = e)).any (·.late)) (syncsTaken e s)) := by
  show execSyncApply s = _
  simp only [execSyncApply, h, ha, if_neg hc]
  rfl

end Apply

end Sys2Proof.Machine
end

section
/-! PROOFS. An edge of the SYNC land (R141, R219, R276) and the dip that it may request (R220 to R222), and the statement of the SYNC commands. -/

namespace Sys2Proof.Machine

set_option Elab.async false

section Bank

variable {s t : State} {b : Nat}

/-- `s` with its registers and the banks of the dip taken from `t`. -/
def banksFrom (s t : State) : State := { s with regs := t.regs, dips := t.dips }

theorem setBank_frame (b v : Nat) (s : State) : Frame banksFrom (fun g => g.a ≠ Reg.EV_DIP_STAT) s (setBank b v s) := by
  have hput (u : State) (f : FldRef) (hf : f.a = Reg.EV_DIP_STAT) (x : Nat) : Frame banksFrom (fun g => g.a ≠ Reg.EV_DIP_STAT) u (u.put f x) :=
    (Frame.refl u).put _ _ fun _ hg => hf ▸ hg
  refine Frame.trans (.ite (fun _ => ?_) fun _ => ?_) (.of_regs rfl rfl)
  · exact (hput s .EV_DIP_STAT_STATE0 rfl v).trans (hput _ .EV_DIP_STAT_REL0 rfl _)
  · exact (hput s .EV_DIP_STAT_STATE1 rfl v).trans (hput _ .EV_DIP_STAT_REL1 rfl _)

/-- The state of a bank shows apart from LAND_ID. -/
theorem landId_setBank (b v : Nat) (s : State) : (setBank b v s).get .EV_DIP_STAT_LAND_ID = s.get .EV_DIP_STAT_LAND_ID := by
  unfold setBank
  rw [State.setDip_get]
  split
  all_goals
    rw [State.putB, get_put_apart _ _ _ _ (by simp) (by simp) (by simp [FldRef.apart]), get_put_apart _ _ _ _ (by simp) (by simp) (by simp [FldRef.apart])]

theorem bankState_setBank {v : Nat} (hv : v < 4) (b : Nat) (s : State) : bankState (setBank b v s) b = v := by
  unfold bankState setBank
  simp only [State.setDip_get]
  split
  all_goals
    rw [State.putB, get_put_apart _ _ _ _ (by simp) (by simp) (by simp [FldRef.apart]), get_put _ _ _ (by simp) (by simp)]
    exact Nat.mod_eq_of_lt hv

theorem dip_setBank (b v : Nat) (s : State) : (setBank b v s).dip b = { s.dip b with hdr := setBits (s.dip b).hdr 7 6 v } := by
  have hdips : (if b = 0 then (s.put .EV_DIP_STAT_STATE0 v).putB .EV_DIP_STAT_REL0 (v == 2)
      else (s.put .EV_DIP_STAT_STATE1 v).putB .EV_DIP_STAT_REL1 (v == 2)).dip b = s.dip b := by split <;> rfl
  rw [setBank, State.dip, State.setDip, kget_kset_same, hdips]

/-- Which bank is free follows from their states, their headers and LAST (R221). -/
theorem freeBank_congr (h0 : t.get .EV_DIP_STAT_STATE0 = s.get .EV_DIP_STAT_STATE0) (h1 : t.get .EV_DIP_STAT_STATE1 = s.get .EV_DIP_STAT_STATE1)
    (hl : t.get .EV_DIP_STAT_LAST = s.get .EV_DIP_STAT_LAST) (hd : t.dips = s.dips) : freeBank t = freeBank s := by
  simp only [freeBank, bankState, State.dip, h0, h1, hl, hd]
  rfl

/-- A request for a dip at least 4,096 ticks away, with a FREE bank (R219 to R222). -/
def dipTaken (b trig id tgt : Nat) (s : State) : State :=
  setBank b 1 ((s.setDip b { hdr := wd (mk [(id % 65536, 16), (trig, 8), (b2n false, 2)]), tick := tgt, tgt := tgt }).put .EV_DIP_STAT_LAST b)

theorem dipRequest_taken {trig id tgt : Nat} (hi : dipIgnored s = false) (hb : freeBank s = some b) (ht : now s + 4096 ≤ tgt) :
    dipRequest trig id tgt s = dipTaken b trig id tgt s := by
  simp only [dipRequest, hi, hb, Nat.not_lt.mpr ht]
  rfl

theorem dipTaken_frame (b trig id tgt : Nat) (s : State) : Frame banksFrom (fun g => g.a ≠ Reg.EV_DIP_STAT) s (dipTaken b trig id tgt s) := by
  have hset : Frame banksFrom (fun g => g.a ≠ Reg.EV_DIP_STAT) s
      (s.setDip b { hdr := wd (mk [(id % 65536, 16), (trig, 8), (b2n false, 2)]), tick := tgt, tgt := tgt }) := .of_regs rfl rfl
  exact (hset.put _ _ fun _ hg => hg).trans (setBank_frame b 1 _)

theorem landId_dipTaken (b trig id tgt : Nat) (s : State) : (dipTaken b trig id tgt s).get .EV_DIP_STAT_LAND_ID = s.get .EV_DIP_STAT_LAND_ID := by
  rw [dipTaken, landId_setBank, get_put_apart _ _ _ _ (by simp) (by simp) (by simp [FldRef.apart]), State.setDip_get]

theorem bankState_dipTaken (b trig id tgt : Nat) (s : State) : bankState (dipTaken b trig id tgt s) b = 1 := bankState_setBank (by decide) b _

theorem dip_dipTaken (b trig id tgt : Nat) (s : State) : ((dipTaken b trig id tgt s).dip b).tick = tgt ∧ ((dipTaken b trig id tgt s).dip b).tgt = tgt := by
  rw [dipTaken, dip_setBank, State.dip, State.put_dips, State.setDip, kget_kset_same]
  exact ⟨rfl, rfl⟩

end Bank

section Land

variable {s : State} {rising : Bool}

/-- The land's edge as a request for a dip, counted in LAND_ID (R219); and as a request for a SYNC before that. -/
def landCounted (u : State) : State := (u.incWrap .EV_DIP_STAT_LAND_ID).modTu fun t => { t with lands := t.lands + 1 }
def landNoted (s : State) : State := landCounted (syncRequest srcLand none s)

/-- `s` with what an edge of the land notes taken from `t`; with the banks of the dip beside it. -/
def notedFrom (s t : State) : State := { s with regs := t.regs, ca := t.ca, tu := t.tu }
def landedFrom (s t : State) : State := { s with regs := t.regs, ca := t.ca, dips := t.dips, tu := t.tu }

/-- A field outside `CA_SYNC_INFO`, and outside LAND_ID. -/
def offLand (g : FldRef) : Prop := g.a ≠ Reg.CA_SYNC_INFO ∧ FldRef.EV_DIP_STAT_LAND_ID.apart g ∧ g.hi < 32

theorem modTu_frame (P : FldRef → Prop) (u : State) (F : TuSt → TuSt) : Frame notedFrom P u (u.modTu F) := .of_regs rfl rfl

theorem landCounted_frame (u : State) : Frame notedFrom offLand u (landCounted u) := by
  have hinc : Frame notedFrom offLand u (u.incWrap .EV_DIP_STAT_LAND_ID) :=
    (Frame.refl u).putApart .EV_DIP_STAT_LAND_ID _ (by simp) fun _ hg => hg.2
  exact hinc.trans (modTu_frame _ _ _)

theorem landNoted_frame (s : State) : Frame notedFrom offLand s (landNoted s) :=
  ((syncRequest_frame srcLand none s).mono fun _ hg => hg.1).trans (landCounted_frame _)

theorem landId_landNoted (s : State) : (landNoted s).get .EV_DIP_STAT_LAND_ID = (s.get .EV_DIP_STAT_LAND_ID + 1) % 2 ^ 16 := by
  rw [landNoted, landCounted, State.modTu_get, get_incWrap _ _ (by simp) (by simp), (syncRequest_frame _ _ s).get _ (by decide)]
  rfl

theorem ca_landCounted (u : State) : (landCounted u).ca = u.ca := by
  rw [landCounted, State.modTu_ca, State.incWrap_ca]

theorem now_landCounted (u : State) : now (landCounted u) = now u := by
  rw [now, now, landCounted, State.modTu_tu, State.incWrap_tu]

/-- A dip that follows the edge finds the banks, and the tick, as they were. -/
theorem now_landNoted (s : State) : now (landNoted s) = now s := by
  rw [landNoted, now_landCounted]
  exact (syncRequest_frame srcLand none s).unchanged now

theorem freeBank_landNoted (s : State) : freeBank (landNoted s) = freeBank s := by
  have hf := landNoted_frame s
  have hget (g : FldRef) (ha : g.a = Reg.EV_DIP_STAT) (hi : g.hi < 16) : (landNoted s).get g = s.get g :=
    hf.get g ⟨by rw [ha]; decide, .inr (.inr hi), by omega⟩
  exact freeBank_congr (hget _ rfl (by simp)) (hget _ rfl (by simp)) (hget _ rfl (by simp)) (hf.unchanged State.dips)

theorem dipIgnored_landNoted (s : State) : dipIgnored (landNoted s) = dipIgnored s := (landNoted_frame s).unchanged dipIgnored

theorem exec_syncLandEdge_other (h : rising = s.is .CA_CFG_LAND_EDGE) : exec (.syncLandEdge rising) s = .next s := by
  show execSyncLandEdge rising s = _
  rw [execSyncLandEdge, if_pos h]

theorem ne_of_eq_not {a b : Bool} (h : a = !b) : ¬ a = b := by
  rw [h]
  cases b <;> decide

/-- An edge of the chosen polarity under PPS (R276). -/
theorem exec_syncLandEdge_pps (h : rising = !s.is .CA_CFG_LAND_EDGE) (hp : s.get .TU_SRC_SRC = 3) : exec (.syncLandEdge rising) s = .next
    ((s.when (s.is .CA_CFG_SYNC_LAND_EN) (·.inc .CA_SYNC_INFO_IGN_CNT)).when (s.is .EV_DIP_CFG_LAND_EN) (·.inc .EV_DIP_STAT_IGN_CNT)) := by
  show execSyncLandEdge rising s = _
  rw [execSyncLandEdge, if_neg (ne_of_eq_not h), if_pos hp]

theorem exec_syncLandEdge_sync (h : rising = !s.is .CA_CFG_LAND_EDGE) (hp : s.get .TU_SRC_SRC ≠ 3) (hd : s.is .EV_DIP_CFG_LAND_EN = false) :
    exec (.syncLandEdge rising) s = .next (syncRequest srcLand none s) := by
  show execSyncLandEdge rising s = _
  simp only [execSyncLandEdge, if_neg (ne_of_eq_not h), if_neg hp, hd, Bool.false_eq_true, if_false]

theorem exec_syncLandEdge_dip (h : rising = !s.is .CA_CFG_LAND_EDGE) (hp : s.get .TU_SRC_SRC ≠ 3) (hd : s.is .EV_DIP_CFG_LAND_EN = true) :
    exec (.syncLandEdge rising) s = .next (dipRequest 2 ((landNoted s).get .EV_DIP_STAT_LAND_ID) (now s + 4096) (landNoted s)) := by
  show execSyncLandEdge rising s = _
  simp only [execSyncLandEdge, if_neg (ne_of_eq_not h), if_neg hp, if_pos hd]
  rfl

theorem exec_caSyncGo {r : Req} (ha : Admitted s r Reg.CA_SYNC Msk.CA_SYNC) : exec (.caSyncGo r) s = .next (syncRequest srcReg none s) := by
  show execCaSyncGo r s = _
  rw [execCaSyncGo, regWrite_admitted _ _ _ _ _ _ ha]
  rfl

/-- A count that a condition allows. -/
theorem get_when_inc (f : FldRef) (c : Bool) (s : State) (h : f.lo ≤ f.hi) (h' : f.hi < 32) :
    (s.when c (·.inc f)).get f = if c then min (s.get f + 1) f.max else s.get f := by
  cases c
  · rfl
  · exact get_inc s f h h'

theorem when_inc_frame (f : FldRef) (c : Bool) (s : State) : Frame regsFrom (fun g => g.a ≠ f.a) s (s.when c (·.inc f)) :=
  .ite (fun _ => (Frame.refl s).put _ _ fun _ hg => hg) fun _ => .refl s

end Land

/-- Settles O25: a request joins the queue or is counted, and its edge empties it of the SYNCs that it shows, merges or counts. -/
theorem syncCommands : Obligations.SyncCommands := by
  unfold Obligations.SyncCommands
  refine ⟨fun s rising h => exec_syncLandEdge_other h, ?pps, ?land, ?ignored, ?dip, ?reg, ?regIgnored, ?run, ?cal, ?stopped,
    fun s h => exec_syncApply_none h⟩
  case pps =>
    intro s rising h hp
    have hsync := when_inc_frame .CA_SYNC_INFO_IGN_CNT (s.is .CA_CFG_SYNC_LAND_EN) s
    have hdip := when_inc_frame .EV_DIP_STAT_IGN_CNT (s.is .EV_DIP_CFG_LAND_EN) (s.when (s.is .CA_CFG_SYNC_LAND_EN) (·.inc .CA_SYNC_INFO_IGN_CNT))
    have hf : Frame regsFrom (fun g => g.a ≠ Reg.CA_SYNC_INFO ∧ g.a ≠ Reg.EV_DIP_STAT) s _ :=
      (hsync.mono fun _ => And.left).trans (hdip.mono fun _ => And.right)
    refine ⟨_, exec_syncLandEdge_pps h hp, ?_, ?_, hf.rest, fun a hs hd => hf.rd a ⟨hs, hd⟩⟩
    · rw [hdip.get _ (by decide), get_when_inc _ _ _ (by simp) (by simp)]
    · rw [get_when_inc _ _ _ (by simp) (by simp), hsync.get _ (by decide)]
  case land =>
    intro s rising ha hen hd hp h
    rw [exec_syncLandEdge_sync h hp hd, syncRequest_queued ha (syncEn_land.trans hen)]
    rfl
  case ignored =>
    intro s rising ha hd hp h
    rw [exec_syncLandEdge_sync h hp hd, syncRequest_ignored none (ha.imp_right syncEn_land.trans)]
  case dip =>
    intro s rising b hd hp h hi hb
    have htaken : dipRequest 2 ((landNoted s).get .EV_DIP_STAT_LAND_ID) (now s + 4096) (landNoted s) = _ :=
      dipRequest_taken ((dipIgnored_landNoted s).trans hi) ((freeBank_landNoted s).trans hb) (Nat.add_le_add_right (now_landNoted s).le 4096)
    have hdip := dipTaken_frame b 2 ((landNoted s).get .EV_DIP_STAT_LAND_ID) (now s + 4096) (landNoted s)
    obtain ⟨htick, htgt⟩ := dip_dipTaken b 2 ((landNoted s).get .EV_DIP_STAT_LAND_ID) (now s + 4096) (landNoted s)
    have hf : Frame landedFrom (fun g => offLand g ∧ g.a ≠ Reg.EV_DIP_STAT) s _ :=
      ((landNoted_frame s).mono fun _ => And.left).trans (hdip.mono fun _ => And.right)
    refine ⟨_, by rw [exec_syncLandEdge_dip h hp hd, htaken], ?_, bankState_dipTaken _ _ _ _ _, htick, htgt, ?_, hf.rest,
      fun a hs he => hf.rd a ⟨⟨hs, .inl he.symm, by simp⟩, he⟩⟩
    · rw [landId_dipTaken, landId_landNoted]
    · rw [hdip.unchanged (fun u => u.ca.syncs), landNoted, ca_landCounted, syncs_syncRequest, syncEn_land]
      rfl
  case reg =>
    intro s r ha hacq hen
    rw [exec_caSyncGo ha, syncRequest_queued hacq (syncEn_reg.trans hen)]
    rfl
  case regIgnored =>
    intro s r ha h
    rw [exec_caSyncGo ha, syncRequest_ignored none (h.imp_right syncEn_reg.trans)]
  case run =>
    intro s e m same hdue hacq hcal he hsrc hm hsame
    have hlt : m < 2 ^ 8 := hm ▸ srcMask_lt fun r hr => hsrc r (List.mem_filter.mp hr).1
    have hsame : sameEdge (syncsTaken e s) e = same := hsame.symm
    obtain ⟨hts, hsrcs, hlate, hcount⟩ :=
      syncApplyAt_shows he hlt ((s.ca.syncs.filter (fun r => r.edge = e)).any (·.late)) (syncsTaken e s)
    have hsync := syncApplyAt_frame e m ((s.ca.syncs.filter (fun r => r.edge = e)).any (·.late)) (syncsTaken e s)
    rw [hsame] at hsrcs hlate hcount
    have hf : Frame appliedFrom offSync s _ := (syncsTaken_frame e s).trans (hsync.mono fun _ hg => hg)
    refine ⟨_, by rw [exec_syncApply_run hdue hacq hcal, ← hm], hsync.unchanged State.ca, hts, hsrcs, hlate, ?_, hf.rest,
      fun a h1 h2 h3 h4 => hf.rd a ⟨h4, h1, h2, h3⟩⟩
    rw [hcount]
    cases same <;> rfl
  case cal =>
    intro s e hdue hacq hcal
    have hf : Frame arrayFrom (fun g => g.a ≠ Reg.CA_STAT) s ((syncsMerged e s).set1 .CA_STAT_SYNC_MERGED) :=
      (syncsMerged_array e s).put _ _ fun _ hg => hg
    exact ⟨_, exec_syncApply_cal hdue hacq hcal, rfl, is_set1 _ _ (by simp) (by simp), hf.rest, fun a ha => hf.rd a ha⟩
  case stopped =>
    intro s e hdue hacq
    have hf : Frame arrayFrom (fun g => g.a ≠ Reg.CA_SYNC_INFO) s ((syncsTaken e s).addSat .CA_SYNC_INFO_IGN_CNT
        (s.ca.syncs.filter (fun r => r.edge = e)).length) := (syncsTaken_array e s).put _ _ fun _ hg => hg
    exact ⟨_, exec_syncApply_stopped hdue hacq, rfl, get_addSat _ _ _ (by simp) (by simp), hf.rest, fun a ha => hf.rd a ha⟩

end Sys2Proof.Machine
end

section
/-! PROOFS. Slots of an auxiliary converter (R146, R147, R207): the end of a scan slot, and what then is due. -/

namespace Sys2Proof.Machine

set_option Elab.async false

section Slot

variable {P : FldRef → Prop} {s u : State} {t e : Nat}

theorem slotBegin_frame (t e : Nat) (s : State) : Frame convertedFrom P s (slotBegin t e s) := .of_regs rfl rfl

theorem tile_slotBegin (t e : Nat) (s : State) :
    (slotBegin t e s).tile t = { s.tile t with slot := (slotUse s t).map fun u => (e + slotTicks s, u) } := tile_modTile _ _ _

/-- What a slot is for does not follow from the slot (R146, R149, R152). -/
theorem slotUse_slotBegin (t e : Nat) (s : State) : slotUse (slotBegin t e s) t = slotUse s t := by
  simp only [slotUse, tileUp, tile_slotBegin]
  rfl

theorem per_congr (h : u.get .CA_STAT_LEAN = s.get .CA_STAT_LEAN) : per u = per s := by simp only [per, fmLean, State.is, h]

theorem slotTicks_congr (h : u.get .CA_STAT_LEAN = s.get .CA_STAT_LEAN) : slotTicks u = slotTicks s := by rw [slotTicks, per_congr h, slotTicks]

/-- An idle converter (R146). -/
theorem slotRestart_idle (h : (s.tile t).slot = none) : slotRestart t s = slotBegin t (edgeAt s (now s)) s := by rw [slotRestart, h]

theorem slotRestart_frame (t : Nat) (s : State) : Frame convertedFrom P s (slotRestart t s) := by
  unfold slotRestart
  split
  · exact .refl s
  · exact slotBegin_frame t _ s

theorem inj_slotRestart (t : Nat) (s : State) : ((slotRestart t s).tile t).inj = (s.tile t).inj := by
  unfold slotRestart
  split
  · rfl
  · rw [tile_slotBegin]

end Slot

section Window

variable {s u : State} {t i : Nat}

/-- From `s` to `u` only the windows of tile `t` have gone on (R207, R208). -/
structure Windowed (t : Nat) (s u : State) : Prop where
  frame : Frame convertedFrom (fun g => g.a ≠ Reg.TILE_WIN_STATE t) s u
  tile : ∃ m v, u.tile t = { s.tile t with win := m, winUp := v }

theorem Windowed.refl (t : Nat) (s : State) : Windowed t s s := ⟨.refl s, _, _, rfl⟩

theorem Windowed.modTile (h : Windowed t s u) (F : TileSt → TileSt) (hF : ∀ y, ∃ m v, F y = { y with win := m, winUp := v }) :
    Windowed t s (u.modTile t F) := by
  refine ⟨h.frame.trans (.of_regs rfl rfl), ?_⟩
  obtain ⟨_, _, hu⟩ := h.tile
  obtain ⟨m, v, hm⟩ := hF (u.tile t)
  exact ⟨m, v, by rw [tile_modTile, hm, hu]⟩

theorem Windowed.putOut (h : Windowed t s u) (v : Nat) : Windowed t s (u.put (.TILE_WIN_STATE_OUT t) v) :=
  ⟨h.frame.put _ _ fun _ hg => hg, h.tile⟩

theorem winEval_windowed (t i : Nat) (d : Int) (s : State) : Windowed t s (winEval t i d s).1 := by
  unfold winEval
  split
  case isTrue => exact .refl t s
  case isFalse =>
    extract_lets hi lo above outside isOut x cnt s1
    have h1 : Windowed t s s1 := by
      unfold s1
      split
      · exact (Windowed.refl t s).modTile _ fun y => ⟨_, _, rfl⟩
      · exact .refl t s
    have hcount (k : Nat) : Windowed t s (s1.modTile t fun y => { y with win := kset 0 y.win i k }) := h1.modTile _ fun y => ⟨_, _, rfl⟩
    split
    · exact hcount 0
    · split
      · exact hcount (cnt + 1)
      · exact (hcount 0).putOut _

/-- `s` with what an event changes and the tiles taken from `t`. -/
def scannedFrom (s t : State) : State := { eventsFrom s t with tiles := t.tiles }

/-- What a scan's result leaves: events, the result and the window apart, everything. -/
def offScan (t i : Nat) (g : FldRef) : Prop := offEvents g ∧ g.a ≠ Reg.TILE_AUX t i ∧ g.a ≠ Reg.TILE_WIN_STATE t

theorem offEvents_tileOrChan {g : FldRef} (h : 0x10000 ≤ g.a ∧ g.a < 0x30000) : offEvents g := by
  simp only [offEvents, eventReg, queueReg, Reg.EV_STAT, Reg.MOD_IRQ, Bool.or_eq_false_iff, Bool.and_eq_false_iff, decide_eq_false_iff_not,
    beq_eq_false_iff_ne]
  omega

/-- The result in `TILE_AUXi` (R147), and the scan's place. -/
def auxStored (t i : Nat) (raw : Int) (ovr : Bool) (s : State) : State :=
  (wr (Reg.TILE_AUX t i) (wd (mk [(toU 24 (auxCode s t (clip24 raw).1), 8), (b2n ovr, 1)])) s).modTile t fun y =>
    { y with auxAt := kset 0 y.auxAt i (clk s + 1), scan := i + 1 }

theorem auxStored_frame (t i : Nat) (raw : Int) (ovr : Bool) (s : State) : Frame scannedFrom (offScan t i) s (auxStored t i raw ovr s) :=
  ((Frame.refl s).wr _ _ fun _ hg => hg.2.1).trans (.of_regs rfl rfl)

theorem tile_auxStored (t i : Nat) (raw : Int) (ovr : Bool) (s : State) :
    (auxStored t i raw ovr s).tile t = { s.tile t with auxAt := kset 0 (s.tile t).auxAt i (clk s + 1), scan := i + 1 } :=
  tile_modTile _ _ _

/-- A result is stored, then its window evaluates it and raises what follows (R146, R156, R207). -/
theorem auxResult_eq (t i : Nat) (raw : Int) (ovr : Bool) (s : State) : auxResult t i raw ovr s =
    if (s.get (.TILE_AUX_MASK_MASK t)).testBit i then
      raisePennants .both (winEval t i (auxCode s t (clip24 raw).1) (auxStored t i raw ovr s)).2
        (winEval t i (auxCode s t (clip24 raw).1) (auxStored t i raw ovr s)).1
    else auxStored t i raw ovr s := rfl

/-- What the window and its event do after the result is stored. -/
theorem auxResult_after (t i : Nat) (raw : Int) (ovr : Bool) (s : State) :
    Frame scannedFrom (fun g => offEvents g ∧ g.a ≠ Reg.TILE_WIN_STATE t) (auxStored t i raw ovr s) (auxResult t i raw ovr s) ∧
      ∃ m v, (auxResult t i raw ovr s).tile t = { (auxStored t i raw ovr s).tile t with win := m, winUp := v } := by
  rw [auxResult_eq]
  split
  case isTrue =>
    have hwin := winEval_windowed t i (auxCode s t (clip24 raw).1) (auxStored t i raw ovr s)
    have hpen := raisePennants_frame .both (winEval t i (auxCode s t (clip24 raw).1) (auxStored t i raw ovr s)).2
      (winEval t i (auxCode s t (clip24 raw).1) (auxStored t i raw ovr s)).1
    refine ⟨(hwin.frame.mono fun _ => And.right).trans (hpen.mono fun _ => And.left), ?_⟩
    rw [hpen.unchanged (State.tile · t)]
    exact hwin.tile
  case isFalse => exact ⟨.refl _, _, _, rfl⟩

theorem auxResult_frame (t i : Nat) (raw : Int) (ovr : Bool) (s : State) : Frame scannedFrom (offScan t i) s (auxResult t i raw ovr s) :=
  (auxStored_frame t i raw ovr s).trans ((auxResult_after t i raw ovr s).1.mono fun _ hg => ⟨hg.1, hg.2.2⟩)

/-- `TILE_AUXi` and the scan's place after a result (R146, R147, R156). -/
theorem auxResult_shows (ht : t < 16) (hi : i < 16) (raw : Int) (ovr : Bool) (s : State) :
    rd (auxResult t i raw ovr s) (Reg.TILE_AUX t i) = wd (mk [(toU 24 (auxCode s t (clip24 raw).1), 8), (b2n ovr, 1)]) ∧
      kget 0 ((auxResult t i raw ovr s).tile t).auxAt i = clk s + 1 ∧ ((auxResult t i raw ovr s).tile t).scan = i + 1 := by
  obtain ⟨hf, m, v, htile⟩ := auxResult_after t i raw ovr s
  refine ⟨?_, ?_, ?_⟩
  · rw [hf.rd _ ⟨offEvents_tileOrChan (by simp only [Reg.TILE_AUX]; omega), by simp only [Reg.TILE_AUX, Reg.TILE_WIN_STATE]; omega⟩, auxStored,
      State.modTile_rd, rd_wr_same]
  · rw [htile, tile_auxStored]
    exact kget_kset_same 0 (clk s + 1) i _
  · rw [htile, tile_auxStored]

end Window

section Exec

variable {s : State} {t : Fin 16} {raw : Int} {ovr : Bool} {e : Nat}

theorem exec_auxSlotEnd_scan {i : Nat} (hs : (s.tile t).slot = some (e, some i)) (hd : slotDone s t e = true) :
    exec (.auxSlotEnd t raw ovr) s = .next (slotBegin t e (auxResult t i raw ovr s)) := by
  show execAuxSlotEnd t raw ovr s = _
  simp only [execAuxSlotEnd, hs, if_pos hd]

theorem exec_auxSlotEnd_idle (hs : (s.tile t).slot = none) : exec (.auxSlotEnd t raw ovr) s = .next (slotBegin t (edgeAt s (now s)) s) := by
  show execAuxSlotEnd t raw ovr s = _
  simp only [execAuxSlotEnd, hs, slotRestart_idle hs]

theorem exec_auxSlotEnd_skip {u : Option Nat} (hs : (s.tile t).slot = some (e, u)) (h : u = none ∨ slotDone s t e = false) :
    exec (.auxSlotEnd t raw ovr) s = .next s := by
  show execAuxSlotEnd t raw ovr s = _
  cases u with
  | none => simp only [execAuxSlotEnd, hs]
  | some i => simp only [execAuxSlotEnd, hs, h.resolve_left (by simp), Bool.false_eq_true, if_false]

end Exec

end Sys2Proof.Machine
end

section
/-! PROOFS. Injected conversions (R148 to R152, R396): a request's response and place, its result, and the statement of auxiliary conversions. -/

namespace Sys2Proof.Machine

set_option Elab.async false

section Request

variable {s : State} {t : Nat}

theorem showPend_frame (t : Nat) (s : State) : Frame convertedFrom (fun g => g.a ≠ Reg.TILE_INJ_STAT t) s (showPend t s) :=
  (Frame.refl s).put _ _ fun _ hg => hg

theorem injQueue_eq (t : Nat) (x : InjReq) (s : State) : injQueue t x s =
    if ((s.tile t).slot).isNone then slotRestart t (showPend t (s.modTile t fun y => { y with inj := y.inj ++ [x] }))
    else showPend t (s.modTile t fun y => { y with inj := y.inj ++ [x] }) := rfl

/-- A request is queued last, and PEND shows it (R148). -/
theorem injQueue_spec (t : Nat) (x : InjReq) (s : State) : Frame convertedFrom (fun g => g.a ≠ Reg.TILE_INJ_STAT t) s (injQueue t x s) ∧
    ((injQueue t x s).tile t).inj = (s.tile t).inj ++ [x] ∧ (injQueue t x s).get (.TILE_INJ_STAT_PEND t) = ((s.tile t).inj.length + 1) % 8 := by
  have hmod : Frame convertedFrom (fun g => g.a ≠ Reg.TILE_INJ_STAT t) s (s.modTile t fun y => { y with inj := y.inj ++ [x] }) := .of_regs rfl rfl
  have hinj : ((s.modTile t fun y => { y with inj := y.inj ++ [x] }).tile t).inj = (s.tile t).inj ++ [x] := by rw [tile_modTile]
  have hpend : (showPend t (s.modTile t fun y => { y with inj := y.inj ++ [x] })).get (.TILE_INJ_STAT_PEND t) = ((s.tile t).inj.length + 1) % 8 := by
    rw [showPend, get_put _ _ _ (by simp) (by simp), hinj, List.length_append]
    rfl
  have hshow := hmod.trans (showPend_frame t _)
  rw [injQueue_eq]
  split
  · exact ⟨hshow.trans (slotRestart_frame t _), (inj_slotRestart t _).trans hinj, ((slotRestart_frame (P := fun _ => True) t _).get _ trivial).trans hpend⟩
  · exact ⟨hshow, hinj, hpend⟩

/-- The response to S0's request (R152). -/
def injAnswered (r : Req) (w : Word) (resp : Nat) (s : State) : State :=
  if r = .s0 then (s.put .CA_INJ_RESP_RESP resp).put .CA_INJ_RESP_TAG (bits w 15 0) else s

theorem injAnswered_frame (r : Req) (w : Word) (resp : Nat) (s : State) :
    Frame regsFrom (fun g => g.a ≠ Reg.CA_INJ_RESP) s (injAnswered r w resp s) := by
  have hresp : Frame regsFrom (fun g => g.a ≠ Reg.CA_INJ_RESP) s (s.put .CA_INJ_RESP_RESP resp) := (Frame.refl s).put _ _ fun _ hg => hg
  exact .ite (fun _ => hresp.put _ _ fun _ hg => hg) fun _ => .refl s

theorem injAnswered_shows {resp : Nat} (hr : resp < 16) (w : Word) (s : State) :
    (injAnswered .s0 w resp s).get .CA_INJ_RESP_RESP = resp ∧ (injAnswered .s0 w resp s).get .CA_INJ_RESP_TAG = bits w 15 0 := by
  rw [injAnswered, if_pos rfl]
  constructor
  · rw [get_put_apart _ _ _ _ (by simp) (by simp) (by simp [FldRef.apart]), get_put _ _ _ (by simp) (by simp)]
    exact Nat.mod_eq_of_lt hr
  · rw [get_put _ _ _ (by simp) (by simp)]
    exact Nat.mod_eq_of_lt (bits_lt w 15 0)

theorem caInjWrite_eq (r : Req) (w : Word) (s : State) (resp : Nat) (h : resp = injResponse s (bits w 19 16) (bits w 28 24) (bitAt w 31)) :
    caInjWrite r w s = if resp = injAccepted ∨ resp = injHeld then
      injQueue (bits w 19 16) { target := bits w 28 24, tag := bits w 15 0, held := decide (resp = injHeld) } (injAnswered r w resp s)
    else injAnswered r w resp s := by
  subst h
  rfl

/-- A request that is accepted or held (R148, R152). -/
theorem injResponse_taken {g : Nat} {nowait : Bool} (hg : g < 20) (hu : tileUp s t = true) (hl : (s.tile t).inj.length < 4)
    (hc : calBusy s = false ∨ nowait = false) : injResponse s t g nowait = if calBusy s then injHeld else injAccepted := by
  have hbusy : ¬ (4 ≤ (s.tile t).inj.length ∨ (nowait = true ∧ calBusy s = true)) := by
    rintro (h | ⟨hn, hb⟩)
    · omega
    · simp [hn, hb] at hc
  rw [injResponse, if_neg (by omega), if_neg (by simp [hu]), if_neg hbusy]

/-- One that is refused (R148, R152). -/
theorem injResponse_refused {g : Nat} {nowait : Bool}
    (h : 20 ≤ g ∨ tileUp s t = false ∨ 4 ≤ (s.tile t).inj.length ∨ (calBusy s = true ∧ nowait = true)) :
    injResponse s t g nowait = injBadTarget ∨ injResponse s t g nowait = injTileDown ∨ injResponse s t g nowait = injBusy := by
  unfold injResponse
  split
  · exact .inl rfl
  · split
    · exact .inr (.inl rfl)
    · next hg hu =>
      have hbusy : 4 ≤ (s.tile t).inj.length ∨ (nowait = true ∧ calBusy s = true) :=
        ((h.resolve_left hg).resolve_left (by simpa using hu)).imp_right And.symm
      rw [if_pos hbusy]
      exact .inr (.inr rfl)

theorem exec_injRequest {r : Req} {w : Word} (ha : Admitted s r Reg.CA_INJ Msk.CA_INJ) : exec (.injRequest r w) s = .next (caInjWrite r w s) := by
  show execInjRequest r w s = _
  rw [execInjRequest, regWrite_admitted _ _ _ _ _ _ ha]

end Request

section Result

variable {s : State} {t e : Nat} {x : InjReq} {d : Int} {ovr : Bool}

/-- The channel that a request's target names, where it names one (R150). -/
def injCh (t : Nat) (x : InjReq) : Nat := 16 * t + (x.target - 4)

/-- What a result leaves: every register but the tile's and the channel's of R150. -/
def offResult (t n : Nat) (g : FldRef) : Prop := g.a ≠ Reg.TILE_INJ_RES t ∧ g.a ≠ Reg.TILE_INJ_TS t 0 ∧ g.a ≠ Reg.TILE_INJ_TS t 1 ∧
  g.a ≠ Reg.TILE_INJ_STAT t ∧ g.a ≠ Reg.CH_INJ_RES n ∧ g.a ≠ Reg.CH_INJ_TAG n

/-- The result in the tile's registers (R150, R151). -/
def injShown (t : Nat) (x : InjReq) (d : Int) (ovr : Bool) (s : State) : State :=
  ((((((wr (Reg.TILE_INJ_RES t) (wd (toU 24 d * 256)) s).put64 (Reg.TILE_INJ_TS t 0) (now s)).put (.TILE_INJ_STAT_TAG t) x.tag).putB
    (.TILE_INJ_STAT_HELD t) x.held).putB (.TILE_INJ_STAT_OVR t) ovr).putB (.TILE_INJ_STAT_HOIST t) x.ctx.isSome).put (.TILE_INJ_STAT_TARGET t) x.target

theorem injStore_eq (t : Nat) (x : InjReq) (d : Int) (ovr : Bool) (s : State) : injStore t x d ovr s =
    if 16 ≤ x.target then (wr (Reg.CH_INJ_RES (injCh t x)) (wd (mk [(toU 24 d, 8), (b2n ovr, 1), (b2n x.held, 0)])) (injShown t x d ovr s)).put
      (.CH_INJ_TAG_TAG (injCh t x)) x.tag
    else injShown t x d ovr s := rfl

theorem injShown_frame (t n : Nat) (x : InjReq) (d : Int) (ovr : Bool) (s : State) : Frame regsFrom (offResult t n) s (injShown t x d ovr s) := by
  have hres : Frame regsFrom (offResult t n) s (wr (Reg.TILE_INJ_RES t) (wd (toU 24 d * 256)) s) := (Frame.refl s).wr _ _ fun _ hg => hg.1
  have hts : Frame regsFrom (offResult t n) s ((wr (Reg.TILE_INJ_RES t) (wd (toU 24 d * 256)) s).put64 (Reg.TILE_INJ_TS t 0) (now s)) :=
    (hres.wr _ _ fun _ hg => hg.2.1).wr _ _ fun _ hg => hg.2.2.1
  have hstat (u : State) (f : FldRef) (hf : f.a = Reg.TILE_INJ_STAT t) (v : Nat) (h : Frame regsFrom (offResult t n) s u) :
      Frame regsFrom (offResult t n) s (u.put f v) := h.put _ _ fun _ hg => hf ▸ hg.2.2.2.1
  exact hstat _ _ rfl _ (hstat _ _ rfl _ (hstat _ _ rfl _ (hstat _ _ rfl _ (hstat _ _ rfl _ hts))))

theorem injStore_offResult (t : Nat) (x : InjReq) (d : Int) (ovr : Bool) (s : State) :
    Frame regsFrom (offResult t (injCh t x)) s (injStore t x d ovr s) := by
  have hshown := injShown_frame t (injCh t x) x d ovr s
  rw [injStore_eq]
  exact .ite (fun _ => (hshown.wr _ _ fun _ hg => hg.2.2.2.2.1).put _ _ fun _ hg => hg.2.2.2.2.2) fun _ => hshown

/-- The tile's registers after a result (R151). -/
theorem injShown_shows (t : Nat) (x : InjReq) (d : Int) (ovr : Bool) (s : State) :
    rd (injShown t x d ovr s) (Reg.TILE_INJ_RES t) = wd (toU 24 d * 256) ∧ (injShown t x d ovr s).get64 (Reg.TILE_INJ_TS t 0) = now s ∧
      (injShown t x d ovr s).is (.TILE_INJ_STAT_HELD t) = x.held ∧ (injShown t x d ovr s).is (.TILE_INJ_STAT_OVR t) = ovr := by
  have hrd (u : State) (a : Nat) (h : a ≠ Reg.TILE_INJ_STAT t) (f : FldRef) (hf : f.a = Reg.TILE_INJ_STAT t) (v : Nat) : rd (u.put f v) a = rd u a :=
    rd_put_ne _ _ _ _ (hf ▸ h)
  have hstat (a : Nat) (h : a ≠ Reg.TILE_INJ_STAT t) : rd (injShown t x d ovr s) a =
      rd ((wr (Reg.TILE_INJ_RES t) (wd (toU 24 d * 256)) s).put64 (Reg.TILE_INJ_TS t 0) (now s)) a := by
    unfold injShown State.putB
    iterate 5 rw [hrd _ _ h _ rfl]
  refine ⟨?_, ?_, ?_, ?_⟩
  · rw [hstat _ (by simp only [Reg.TILE_INJ_RES, Reg.TILE_INJ_STAT]; omega), rd_put64, if_neg (by simp only [Reg.TILE_INJ_RES, Reg.TILE_INJ_TS]; omega),
      if_neg (by simp only [Reg.TILE_INJ_RES, Reg.TILE_INJ_TS]; omega), rd_wr_same]
  · rw [State.get64, hstat _ (by simp only [Reg.TILE_INJ_TS, Reg.TILE_INJ_STAT]; omega), hstat _ (by simp only [Reg.TILE_INJ_TS, Reg.TILE_INJ_STAT]; omega),
      ← State.get64, get64_put64]
    exact Nat.mod_eq_of_lt (Nat.mod_lt _ (by decide))
  · unfold injShown
    rw [State.is, get_put_apart _ _ _ _ (by simp) (by simp) (by simp [FldRef.apart]), State.putB,
      get_put_apart _ _ _ _ (by simp) (by simp) (by simp [FldRef.apart]), State.putB, get_put_apart _ _ _ _ (by simp) (by simp) (by simp [FldRef.apart])]
    exact is_putB _ _ _ (by simp) (by simp)
  · unfold injShown
    rw [State.is, get_put_apart _ _ _ _ (by simp) (by simp) (by simp [FldRef.apart]), State.putB,
      get_put_apart _ _ _ _ (by simp) (by simp) (by simp [FldRef.apart])]
    exact is_putB _ _ _ (by simp) (by simp)

/-- A channel's registers are none of the tile's. -/
theorem rd_injStore_tile {a : Nat} (ha : a < 0x20000) (t : Nat) (x : InjReq) (d : Int) (ovr : Bool) (s : State) :
    rd (injStore t x d ovr s) a = rd (injShown t x d ovr s) a := by
  rw [injStore_eq]
  split
  · rw [rd_put_ne _ _ _ _ (by simp only [Reg.CH_INJ_TAG]; omega), rd_wr_ne _ _ _ _ (by simp only [Reg.CH_INJ_RES]; omega)]
  · rfl

/-- The corrected code lies above the flags of a result. -/
theorem bits_code (d : Int) (a b : Bool) : bits (wd (mk [(toU 24 d, 8), (b2n a, 1), (b2n b, 0)])) 31 8 = toU 24 d := by
  have hd := toU_lt 24 d
  have hb (c : Bool) : b2n c ≤ 1 := by cases c <;> decide
  have ha := hb a
  have hb := hb b
  simp only [bits, nbits, wd, mk, BitVec.toNat_ofNat]
  omega

theorem chan_injStore (h : 16 ≤ x.target) (t : Nat) (d : Int) (ovr : Bool) (s : State) :
    bits (rd (injStore t x d ovr s) (Reg.CH_INJ_RES (injCh t x))) 31 8 = toU 24 d := by
  rw [injStore_eq, if_pos h, rd_put_ne _ _ _ _ (by simp only [Reg.CH_INJ_RES, Reg.CH_INJ_TAG]; omega), rd_wr_same, bits_code]

/-- The end of the oldest request's slot, before a context gets its code (R149 to R151). -/
def injEnded (t e : Nat) (x : InjReq) (l : List InjReq) (d : Int) (ovr : Bool) (s : State) : State :=
  slotBegin t e (showPend t (injStore t x d ovr (s.modTile t fun y => { y with inj := l })))

variable {l : List InjReq}

theorem injEnded_frame (t e : Nat) (x : InjReq) (l : List InjReq) (d : Int) (ovr : Bool) (s : State) :
    Frame convertedFrom (offResult t (injCh t x)) s (injEnded t e x l d ovr s) := by
  have hmod : Frame convertedFrom (offResult t (injCh t x)) s (s.modTile t fun y => { y with inj := l }) := .of_regs rfl rfl
  exact ((hmod.trans ((injStore_offResult t x d ovr _).mono fun _ => id)).trans ((showPend_frame t _).mono fun _ hg => hg.2.2.2.1)).trans
    (slotBegin_frame t e _)

theorem inj_injStore (t : Nat) (x : InjReq) (l : List InjReq) (d : Int) (ovr : Bool) (s : State) :
    ((injStore t x d ovr (s.modTile t fun y => { y with inj := l })).tile t).inj = l := by
  rw [(injStore_offResult t x d ovr _).unchanged (State.tile · t), tile_modTile]

theorem inj_injEnded (t e : Nat) (x : InjReq) (l : List InjReq) (d : Int) (ovr : Bool) (s : State) : ((injEnded t e x l d ovr s).tile t).inj = l := by
  rw [injEnded, tile_slotBegin]
  exact inj_injStore t x l d ovr s

/-- A register of a tile but `TILE_INJ_STAT` shows after the end what the result put there. -/
theorem rd_injEnded {a : Nat} (ha : a < 0x20000) (hs : a ≠ Reg.TILE_INJ_STAT t) :
    rd (injEnded t e x l d ovr s) a = rd (injShown t x d ovr (s.modTile t fun y => { y with inj := l })) a :=
  ((showPend_frame t _).rd a hs).trans (rd_injStore_tile ha _ _ _ _ _)

/-- PEND shows apart from the result's own flags. -/
theorem is_injEnded {g : FldRef} (ha : g.a < 0x20000) (hg : (FldRef.TILE_INJ_STAT_PEND t).apart g) (hi : g.hi < 32) :
    (injEnded t e x l d ovr s).is g = (injShown t x d ovr (s.modTile t fun y => { y with inj := l })).is g := by
  have hpend : (injEnded t e x l d ovr s).get g = (injStore t x d ovr (s.modTile t fun y => { y with inj := l })).get g :=
    get_put_apart _ _ _ _ (by simp) hi hg
  rw [State.is, hpend, State.get, rd_injStore_tile ha, ← State.get, ← State.is]

theorem pend_injEnded (hl : l.length < 4) : (injEnded t e x l d ovr s).get (.TILE_INJ_STAT_PEND t) = l.length := by
  have hpend : (injEnded t e x l d ovr s).get (.TILE_INJ_STAT_PEND t) = _ := get_put _ _ _ (by simp) (by simp)
  rw [hpend, inj_injStore]
  exact Nat.mod_eq_of_lt (by simp only; omega)

theorem exec_injComplete {t : Fin 16} {raw : Int} (hs : (s.tile t).slot = some (e, none)) (hi : (s.tile t).inj = x :: l)
    (hd : slotDone s t e = true) : exec (.injComplete t raw ovr) s = .next
      (match x.ctx with
        | some c => ainDone c (auxCode s t (clip24 raw).1) ovr x.held (injEnded t e x l (auxCode s t (clip24 raw).1) ovr s)
        | none => injEnded t e x l (auxCode s t (clip24 raw).1) ovr s) := by
  show execInjComplete t raw ovr s = _
  simp only [execInjComplete, hs, hi, if_pos hd]
  rfl

end Result

section Context

variable {s : State} {c v : Nat}

theorem ctx_modCtx (s : State) (c : Nat) (F : CtxSt → CtxSt) : (s.modCtx c F).ctx c = F (s.ctx c) := kget_kset_same _ _ _ _

theorem ctx_ctxState (st on : Nat) (s : State) (c k : Nat) : (ctxState c st on s).ctx k = s.ctx k := by
  rw [State.ctx, ctxState, State.put_ctxs, State.put_ctxs, State.ctx]

/-- A context that waits for its injected conversion gets the code and is READY (R151, R396). -/
theorem ainDone_spec (hv : v < 16) (hw : (s.ctx c).wait = .inj v) (hst : s.get (.CTX_STAT_STATE c) = stWaiting) (d : Int)
    (ovr held : Bool) : rd (ainDone c d ovr held s) (Reg.CTX_V c v) = wd (toU 32 d) ∧ (ainDone c d ovr held s).get (.CTX_STAT_STATE c) = stReady ∧
      ((ainDone c d ovr held s).ctx c).ff = false ∧ ((ainDone c d ovr held s).ctx c).vf = ovr ∧ ((ainDone c d ovr held s).ctx c).cf = held ∧
      (ainDone c d ovr held s).tiles = s.tiles := by
  have hdone : ainDone c d ovr held s = ctxResume c (s.ctx c).pc
      ((wr (Reg.CTX_V c v) (wd (toU 32 d)) s).modCtx c fun y => { y with ff := false, vf := ovr, cf := held }) := by
    simp only [ainDone, hw, if_pos hst]
  have hne : Reg.CTX_V c v ≠ Reg.CTX_STAT c := by simp only [Reg.CTX_V, Reg.CTX_STAT]; omega
  have hctx : (ctxState c stReady 0 ((wr (Reg.CTX_V c v) (wd (toU 32 d)) s).modCtx c fun y => { y with ff := false, vf := ovr, cf := held })).ctx c =
      { s.ctx c with ff := false, vf := ovr, cf := held } := by
    rw [ctx_ctxState, ctx_modCtx, State.ctx, wr_ctxs, State.ctx]
  rw [hdone, ctxResume]
  refine ⟨?_, ?_, ?_, ?_, ?_, ?_⟩
  · rw [State.modCtx_rd, ctxState, rd_put_ne _ _ _ _ hne, rd_put_ne _ _ _ _ hne, State.modCtx_rd, rd_wr_same]
  · rw [State.modCtx_get, ctxState, get_put_apart _ _ _ _ (by simp) (by simp) (by simp [FldRef.apart]), get_put _ _ _ (by simp) (by simp)]
    rfl
  · rw [ctx_modCtx, hctx]
  · rw [ctx_modCtx, hctx]
  · rw [ctx_modCtx, hctx]
  · rw [State.modCtx_tiles, ctxState, State.put_tiles, State.put_tiles, State.modCtx_tiles, wr_tiles]

end Context

/-- Settles O26: the end of a slot stores its result and begins what is due; a request takes its place or is answered; the oldest request's result shows. -/
theorem auxiliaryConversions : Obligations.AuxiliaryConversions := by
  unfold Obligations.AuxiliaryConversions
  refine ⟨?scan, fun s t raw ovr hs => exec_auxSlotEnd_idle hs, fun s t raw ovr e u hs h => exec_auxSlotEnd_skip hs h, ?taken, ?refused, ?result, ?context⟩
  case scan =>
    intro s t raw ovr i e hs hd hi
    have hf := auxResult_frame t i raw ovr s
    obtain ⟨hrd, hat, hscan⟩ := auxResult_shows t.isLt hi raw ovr s
    have htile := tile_slotBegin t e (auxResult t i raw ovr s)
    refine ⟨_, exec_auxSlotEnd_scan hs hd, hrd, by rw [htile]; exact hat, by rw [htile]; exact hscan, ?_,
      (hf.trans ((slotBegin_frame t e _).mono fun _ => id)).rest, fun a he ha hw => hf.rd a ⟨he, ha, hw⟩⟩
    rw [slotUse_slotBegin, htile, slotTicks_congr (hf.get .CA_STAT_LEAN ⟨rfl, ?_, ?_⟩)]
    · simp only [Reg.TILE_AUX, Reg.CA_STAT]
      omega
    · simp only [Reg.TILE_WIN_STATE, Reg.CA_STAT]
      omega
  case taken =>
    rintro s r w t ha rfl hg hu hl hc
    have hresp := injResponse_taken hg hu hl hc
    have hans := injAnswered_frame r w (if calBusy s then injHeld else injAccepted) s
    have htile : (injAnswered r w (if calBusy s then injHeld else injAccepted) s).tile (bits w 19 16) = s.tile (bits w 19 16) :=
      hans.unchanged (State.tile · (bits w 19 16))
    obtain ⟨hf, hinj, hpend⟩ := injQueue_spec (bits w 19 16) { target := bits w 28 24, tag := bits w 15 0, held := calBusy s }
      (injAnswered r w (if calBusy s then injHeld else injAccepted) s)
    have hheld : decide ((if calBusy s then injHeld else injAccepted) = injHeld) = calBusy s := by cases calBusy s <;> rfl
    have hall : Frame convertedFrom (fun g => g.a ≠ Reg.TILE_INJ_STAT (bits w 19 16) ∧ g.a ≠ Reg.CA_INJ_RESP) s _ :=
      (hans.mono fun _ => And.right).trans (hf.mono fun _ => And.left)
    have hne : Reg.CA_INJ_RESP ≠ Reg.TILE_INJ_STAT (bits w 19 16) := by
      simp only [Reg.CA_INJ_RESP, Reg.TILE_INJ_STAT]
      omega
    refine ⟨_, by rw [exec_injRequest ha, caInjWrite_eq r w s _ hresp.symm, if_pos (by cases calBusy s <;> simp), hheld], ?_, ?_, ?_, hall.rest,
      fun a h1 h2 => hall.rd a ⟨h1, h2⟩⟩
    · rw [hinj, htile]
    · rw [hpend, htile]
      exact Nat.mod_eq_of_lt (by omega)
    · rintro rfl
      rw [hf.get _ hne, hf.get _ hne]
      exact injAnswered_shows (by cases calBusy s <;> decide) w s
  case refused =>
    rintro s r w t ha rfl h
    have hresp := injResponse_refused h
    have hans := injAnswered_frame r w (injResponse s (bits w 19 16) (bits w 28 24) (bitAt w 31)) s
    have hnot : ¬ (injResponse s (bits w 19 16) (bits w 28 24) (bitAt w 31) = injAccepted ∨
        injResponse s (bits w 19 16) (bits w 28 24) (bitAt w 31) = injHeld) := by
      rcases hresp with h | h | h <;> rw [h] <;> decide
    refine ⟨_, by rw [exec_injRequest ha, caInjWrite_eq r w s _ rfl, if_neg hnot], ?_, hans.rest, fun a ha => hans.rd a ha⟩
    rintro rfl
    exact injAnswered_shows (by rcases hresp with h | h | h <;> rw [h] <;> decide) w s
  case result =>
    intro s t raw ovr x l e hs hi hd htarget hl hctx
    have hf := injEnded_frame t e x l (auxCode s t (clip24 raw).1) ovr s
    obtain ⟨hres, hts, hheld, hovr⟩ := injShown_shows t x (auxCode s t (clip24 raw).1) ovr (s.modTile t fun y => { y with inj := l })
    have hlow (a : Nat) (h : a ≤ 0x10018 + 0x1000 * t.val + 4) : a < 0x20000 := by omega
    refine ⟨_, by rw [exec_injComplete hs hi hd, hctx], ?_, ?_, inj_injEnded _ _ _ _ _ _ _, pend_injEnded hl, ?_, ?_, fun h => ?_, hf.rest,
      fun a h1 h2 h3 h4 h5 h6 => hf.rd a ⟨h1, h2, h3, h4, h5, h6⟩⟩
    · rw [rd_injEnded (hlow _ (by simp only [Reg.TILE_INJ_RES]; omega)) (by simp only [Reg.TILE_INJ_RES, Reg.TILE_INJ_STAT]; omega), hres]
    · rw [State.get64, rd_injEnded (hlow _ (by simp only [Reg.TILE_INJ_TS]; omega)) (by simp only [Reg.TILE_INJ_TS, Reg.TILE_INJ_STAT]; omega),
        rd_injEnded (hlow _ (by simp only [Reg.TILE_INJ_TS]; omega)) (by simp only [Reg.TILE_INJ_TS, Reg.TILE_INJ_STAT]; omega), ← State.get64, hts]
      rfl
    · rw [is_injEnded (hlow _ (by simp only [Reg.TILE_INJ_STAT]; omega)) (by simp [FldRef.apart]) (by simp), hheld]
    · rw [is_injEnded (hlow _ (by simp only [Reg.TILE_INJ_STAT]; omega)) (by simp [FldRef.apart]) (by simp), hovr]
    · have hrd : rd (injEnded t e x l (auxCode s t (clip24 raw).1) ovr s) (Reg.CH_INJ_RES (injCh t x)) = _ :=
        (showPend_frame t _).rd _ (by simp only [Reg.CH_INJ_RES, Reg.TILE_INJ_STAT]; omega)
      exact (congrArg (bits · 31 8) hrd).trans (chan_injStore h t _ ovr _)
  case context =>
    intro s t raw ovr x l e c v hs hi hd htarget hctx hc hv hw hst
    have hf := injEnded_frame t e x l (auxCode s t (clip24 raw).1) ovr s
    have hst' : (injEnded t e x l (auxCode s t (clip24 raw).1) ovr s).get (.CTX_STAT_STATE c) = stWaiting := by
      rw [hf.get _ ?_, hst]
      simp only [offResult, injCh, Reg.CTX_STAT, Reg.TILE_INJ_RES, Reg.TILE_INJ_TS, Reg.TILE_INJ_STAT, Reg.CH_INJ_RES, Reg.CH_INJ_TAG]
      omega
    have hw' : ((injEnded t e x l (auxCode s t (clip24 raw).1) ovr s).ctx c).wait = .inj v := by rw [hf.unchanged (State.ctx · c), hw]
    obtain ⟨hV, hready, hff, hvf, hcf, htiles⟩ := ainDone_spec hv hw' hst' (auxCode s t (clip24 raw).1) ovr x.held
    refine ⟨_, by rw [exec_injComplete hs hi hd, hctx], hV, hready, hff, hvf, hcf, ?_⟩
    rw [State.tile, htiles]
    exact inj_injEnded _ _ _ _ _ _ _

end Sys2Proof.Machine
end

section
/-! PROOFS. A self-calibration's request, permit, entry and end (R153, R154, R163, R520, R528). -/

namespace Sys2Proof.Machine

set_option Elab.async false

section Request

variable {s : State} {r : Req}

theorem exec_cal (ha : Admitted s r Reg.CA_CMD Msk.CA_CMD) : exec (.cal r) s = .next (calRequest s) := by
  show execCal r s = _
  rw [execCal, regWrite_admitted _ _ _ _ _ _ ha]
  rfl

theorem calRequest_busy (h : s.ca.calStep ≠ 0) : calRequest s = s.set1 .CA_STAT_IGNORED := if_pos h

theorem calRequest_notAllowed (h : s.ca.calStep = 0) (ha : acqRuns s = false) : calRequest s = s.put .CA_STAT_RESULT caNotAllowed := by
  rw [calRequest, if_neg (by simp [h]), if_pos (by simp [ha])]

/-- A request where no calibration is under way and acquisition runs, as the permit decides it (R520). -/
theorem calRequest_refused (h : s.ca.calStep = 0) (ha : acqRuns s = true) (hp : permitAnswer s actCal ≠ prGranted) :
    calRequest s = (permitDecide actCal (permitAnswer s actCal) s).put .CA_STAT_RESULT caRefused := by
  rw [calRequest, if_neg (by simp [h]), if_neg (by simp [ha]), if_pos hp]

theorem calRequest_granted (h : s.ca.calStep = 0) (ha : acqRuns s = true) (hp : permitAnswer s actCal = prGranted) :
    calRequest s = s.modCa fun c => { c with calStep := 1 } := by
  rw [calRequest, if_neg (by simp [h]), if_neg (by simp [ha]), if_neg (by simp [hp])]

/-- AUTO_CAL_START requests a calibration, once (R153). -/
theorem exec_autoCalStart (hauto : s.is .CA_CFG_AUTO_CAL = true) (ha : acqRuns s = true) (hl : linksTrained s = true) (hd : s.ca.autoDone = false)
    (hc : s.ca.calStep = 0) : exec .autoCalStart s = .next (calRequest (s.modCa fun c => { c with autoDone := true })) := by
  show execAutoCalStart s = _
  rw [execAutoCalStart, if_pos (by simp [hauto, ha, hl, hd, hc])]

end Request

section Permit

variable {s : State}

/-- A calibration whose permit is refused (R153). -/
def calRefused (s : State) : State :=
  ((permitDecide actCal (permitAnswer s actCal) s).put .CA_STAT_RESULT caRefused).modCa fun c => { c with calStep := 0 }

/-- One whose permit is granted, in CAL_WAIT (R154, step 2). -/
def calWaiting (s : State) : State :=
  ((permitDecide actCal prGranted s).put .CA_STAT_STATE 1).modCa fun c => { c with calStep := 2, lost := calCannot s }

theorem exec_calPermitGranted_refused (h : s.ca.calStep = 1) (hp : permitAnswer s actCal ≠ prGranted) :
    exec .calPermitGranted s = .next (calRefused s) := by
  show execCalPermitGranted s = _
  rw [execCalPermitGranted, if_neg (by simp [h]), if_pos (.inl hp)]
  rfl

theorem exec_calPermitGranted (h : s.ca.calStep = 1) (hp : permitAnswer s actCal = prGranted) (ha : acqRuns s = true) :
    exec .calPermitGranted s = .next (allTiles calWaitTile (calWaiting s)) := by
  show execCalPermitGranted s = _
  rw [execCalPermitGranted, if_neg (by simp [h]), if_neg (by simp [hp, ha])]
  rfl

/-- What the decision about a calibration leaves, with a field of `CA_STAT` shown beside it. -/
theorem calDecided_frame (ans : Nat) (f : FldRef) (hf : f.a = Reg.CA_STAT) (v : Nat) (s : State) :
    Frame queuedFrom offRequest s ((permitDecide actCal ans s).put f v) :=
  ((permitDecide_frame _ _ s).mono fun _ hg => ⟨hg.1, hg.2.2⟩).put _ _ fun _ hg => hf ▸ hg.2.1

theorem modCa_frame {P : FldRef → Prop} (s : State) (F : CaSt → CaSt) : Frame grantedFrom P s (s.modCa F) := .of_regs rfl rfl

theorem calRefused_frame (s : State) : Frame grantedFrom offRequest s (calRefused s) := by
  have hdec : Frame grantedFrom offRequest s ((permitDecide actCal (permitAnswer s actCal) s).put .CA_STAT_RESULT caRefused) :=
    (calDecided_frame _ .CA_STAT_RESULT rfl _ s).mono fun _ => id
  exact hdec.trans (modCa_frame _ _)

theorem ca_calRefused (s : State) : (calRefused s).ca = { s.ca with calStep := 0 } :=
  congrArg (fun c : CaSt => { c with calStep := 0 }) ((calDecided_frame _ .CA_STAT_RESULT rfl _ s).unchanged State.ca)

theorem calWaiting_frame (s : State) : Frame grantedFrom offRequest s (calWaiting s) := by
  have hdec : Frame grantedFrom offRequest s ((permitDecide actCal prGranted s).put .CA_STAT_STATE 1) :=
    (calDecided_frame _ .CA_STAT_STATE rfl _ s).mono fun _ => id
  exact hdec.trans (modCa_frame _ _)

theorem ca_calWaiting (s : State) : (calWaiting s).ca = { s.ca with calStep := 2, lost := calCannot s } :=
  congrArg (fun c : CaSt => { c with calStep := 2, lost := calCannot s }) ((calDecided_frame _ .CA_STAT_STATE rfl _ s).unchanged State.ca)

theorem calWaiting_status (s : State) : (calWaiting s).get .CA_STAT_STATE = 1 ∧
    (calWaiting s).get .SV_PERMIT_HELD = s.get .SV_PERMIT_HELD ||| 2 ^ (actCal - 1) := by
  constructor
  · rw [calWaiting, State.modCa_get, get_put _ _ _ (by simp) (by simp)]
    rfl
  · rw [calWaiting, State.modCa_get, get_put_ne _ _ _ _ (by decide), held_permitDecide (by decide)]

/-- The tiles' converters in CAL_WAIT (R154, step 2). -/
theorem calWaitTiles_frame {P : FldRef → Prop} (s : State) : Frame convertedFrom P s (allTiles calWaitTile s) := by
  have htile (t : Nat) (F : TileSt → TileSt) (u : State) : Frame convertedFrom P u (u.modTile t F) := .of_regs rfl rfl
  exact .allTiles s fun t _ u => (htile t _ u).trans (slotRestart_frame t _)

/-- `s` with what a calibration's permit and its wait change taken from `t`. -/
def waitedFrom (s t : State) : State := { queuedFrom s t with ca := t.ca, tiles := t.tiles }

theorem calWaited_frame (s : State) : Frame waitedFrom offRequest s (allTiles calWaitTile (calWaiting s)) := by
  have hwait : Frame waitedFrom offRequest s (calWaiting s) := (calWaiting_frame s).mono fun _ => id
  have htiles (u : State) : Frame waitedFrom offRequest u (allTiles calWaitTile u) := (calWaitTiles_frame u).mono fun _ => id
  exact hwait.trans (htiles _)

end Permit

section Enter

variable {s : State}

theorem nodup_anChs : anChs.Nodup :=
  List.nodup_range.map fun a b h => by
    simp only [anCh] at h
    omega

/-- The CAL markers (R242), to the queues of the enabled channels. -/
def calMarked (s : State) : State :=
  s.each anChs fun n t => if s.is (.CH_FC_CFG_EN n) && writesQueue t n then qPushDrop (t.get (.CH_QBIND_Q n)) (.chan n) [calMarker s] t else t

/-- State CAL: every chain stops (R154, step 3; R187). -/
def calEntered (s : State) : State := ((stopChains (calMarked s)).put .CA_STAT_STATE 2).modCa fun c => { c with calStep := 3, calAt := clk s }

theorem exec_calEnter (h : s.ca.calStep = 2) (hslot : ∀ k : Fin 16, (s.tile k).slot = none ∨ tileUp s k = false) :
    exec .calEnter s = .next (calEntered s) := by
  have hall : (List.range 16).all (fun t => (s.tile t).slot.isNone || !tileUp s t) = true := by
    simp only [List.all_eq_true, List.mem_range, Bool.or_eq_true, Option.isNone_iff_eq_none, Bool.not_eq_true']
    exact fun k hk => hslot ⟨k, hk⟩
  show execCalEnter s = _
  rw [execCalEnter, if_pos ⟨h, hall⟩]
  rfl

theorem calMarked_frame (s : State) : Frame queuedFrom offQueues s (calMarked s) :=
  .each _ _ s fun n _ t => .ite (fun _ => qPushDrop_frame _ _ _ t) fun _ => .refl t

theorem stopChains_frame {P : FldRef → Prop} (s : State) : Frame chainsFrom P s (stopChains s) :=
  .each _ _ s fun _ _ _ => .of_regs rfl rfl

theorem chain_setChain (s : State) (n : Nat) (x : ChainSt) : (s.setChain n x).chain n = x := kget_kset_same _ _ _ _

theorem chain_setChain_ne {n m : Nat} (h : n ≠ m) (s : State) (x : ChainSt) : (s.setChain m x).chain n = s.chain n := kget_kset_ne _ _ _ _ _ _ h

/-- A chain that is stopped (R187). -/
theorem chain_stopChains {n : Nat} (hn : n ∈ anChs) (s : State) : ((stopChains s).chain n).cur.on = false ∧ ((stopChains s).chain n).nxt = none := by
  have hstop : (fun u : State => ((u.chain n).cur.on, (u.chain n).nxt)) (stopChains s) = (false, none) := by
    rw [stopChains]
    refine each_at (fun u => ((u.chain n).cur.on, (u.chain n).nxt)) nodup_anChs hn (fun m _ hm u => ?_) s fun u _ => ?_
    · rw [chain_setChain_ne hm.symm]
    · rw [chain_setChain]
  exact Prod.mk.inj hstop

/-- `s` with what a calibration's entry changes taken from `t`. -/
def enteredFrom (s t : State) : State := { queuedFrom s t with ca := t.ca, chains := t.chains }

theorem calEntered_frame (s : State) : Frame enteredFrom (fun g => offQueues g ∧ g.a ≠ Reg.CA_STAT) s (calEntered s) := by
  have hmarked : Frame enteredFrom (fun g => offQueues g ∧ g.a ≠ Reg.CA_STAT) s (calMarked s) := (calMarked_frame s).mono fun _ => And.left
  have hstop (u : State) : Frame enteredFrom (fun g => offQueues g ∧ g.a ≠ Reg.CA_STAT) u (stopChains u) := (stopChains_frame u).mono fun _ => id
  have hmod (u : State) (F : CaSt → CaSt) : Frame enteredFrom (fun g => offQueues g ∧ g.a ≠ Reg.CA_STAT) u (u.modCa F) := .of_regs rfl rfl
  exact ((hmarked.trans (hstop _)).put .CA_STAT_STATE 2 fun _ hg => hg.2).trans (hmod _ _)

theorem ca_calEntered (s : State) : (calEntered s).ca = { s.ca with calStep := 3, calAt := clk s } := by
  have hca : ((stopChains (calMarked s)).put .CA_STAT_STATE 2).ca = s.ca := by
    rw [State.put_ca, (stopChains_frame (P := fun _ => True) _).unchanged State.ca, (calMarked_frame s).unchanged State.ca]
  exact congrArg (fun c : CaSt => { c with calStep := 3, calAt := clk s }) hca

theorem state_calEntered (s : State) : (calEntered s).get .CA_STAT_STATE = 2 := by
  rw [calEntered, State.modCa_get, get_put _ _ _ (by simp) (by simp)]
  rfl

theorem chain_calEntered {n : Nat} (hn : n ∈ anChs) (s : State) : ((calEntered s).chain n).cur.on = false ∧ ((calEntered s).chain n).nxt = none := by
  have hchain : (calEntered s).chain n = (stopChains (calMarked s)).chain n := by
    rw [calEntered, State.chain, State.modCa_chains, State.put_chains, State.chain]
  rw [hchain]
  exact chain_stopChains hn _

end Enter

section End

variable {s : State} {result permit : Nat}

theorem exec_calEnd (h : s.ca.calStep = 5) (hp : calPast s 420 1650 = true) :
    exec .calEnd s = .next (calFinish (if s.ca.calFail = 0 then caOk else caPartial) prDone s) := by
  show execCalEnd s = _
  rw [execCalEnd, if_pos ⟨h, hp⟩]

/-- The end of a calibration shown in `CA_STAT`, and the start's step 7 that may follow (R154, step 9; R539). -/
def calShown (result : Nat) (s : State) : State :=
  ((s.put .CA_STAT_STATE 0).put .CA_STAT_RESULT result).when (decide (6 ≤ s.get .MOD_START_STEP)) (startStep 7)

/-- The scan restarts (R154, step 9). -/
def scansRestarted (s : State) : State := allTiles (fun t s => slotRestart t (s.modTile t fun y => { y with scan := 0 })) s

/-- The array's record after a calibration; the permit is given back. -/
def calCleared (c : CaSt) : CaSt := { c with calStep := 0, merged := 0, s0 := [], lost := [], prev := [] }
def calReleased (permit : Nat) (s : State) : State := raiseIrq irqCal (permitEnd actCal permit (s.modCa calCleared))

/-- A calibration's end before its SYNC. -/
def calClosed (result permit : Nat) (s : State) : State := calReleased permit (scansRestarted (calShown result s))

theorem calFinish_eq (result permit : Nat) (s : State) : calFinish result permit s =
    if acqRuns (calClosed result permit s) then
      syncApplyAt (edgeAt (calClosed result permit s) (now (calClosed result permit s))) (128 ||| s.ca.merged) false (calClosed result permit s)
    else calClosed result permit s := rfl

theorem calShown_frame (result : Nat) (s : State) : Frame regsFrom (fun g => g.a ≠ Reg.CA_STAT ∧ g.a ≠ Reg.MOD_START) s (calShown result s) := by
  have hput : Frame regsFrom (fun g => g.a ≠ Reg.CA_STAT ∧ g.a ≠ Reg.MOD_START) s ((s.put .CA_STAT_STATE 0).put .CA_STAT_RESULT result) :=
    ((Frame.refl s).put .CA_STAT_STATE _ fun _ hg => hg.1).put _ _ fun _ hg => hg.1
  exact .ite (fun _ => hput.put _ _ fun _ hg => hg.2) fun _ => hput

theorem calShown_status (hr : result < 16) (s : State) :
    (calShown result s).get .CA_STAT_STATE = 0 ∧ (calShown result s).get .CA_STAT_RESULT = result := by
  have hstep (g : FldRef) (hg : g.a = Reg.CA_STAT) : (calShown result s).get g = ((s.put .CA_STAT_STATE 0).put .CA_STAT_RESULT result).get g := by
    unfold calShown State.when
    split
    · exact get_put_ne _ _ _ _ (by rw [hg]; decide)
    · rfl
  rw [hstep _ rfl, hstep _ rfl, get_put_apart _ _ _ _ (by simp) (by simp) (by simp [FldRef.apart]), get_put _ _ _ (by simp) (by simp),
    get_put _ _ _ (by simp) (by simp)]
  exact ⟨rfl, Nat.mod_eq_of_lt hr⟩

theorem scansRestarted_frame {P : FldRef → Prop} (s : State) : Frame convertedFrom P s (scansRestarted s) := by
  have htile (t : Nat) (F : TileSt → TileSt) (u : State) : Frame convertedFrom P u (u.modTile t F) := .of_regs rfl rfl
  exact .allTiles s fun t _ u => (htile t _ u).trans (slotRestart_frame t _)

theorem calReleased_frame (permit : Nat) (s : State) : Frame closedFrom (fun g => offQueues g ∧ g.a ≠ Reg.SV_PERMIT) s (calReleased permit s) := by
  have hmod : Frame closedFrom (fun g => offQueues g ∧ g.a ≠ Reg.SV_PERMIT) s (s.modCa calCleared) := .of_regs rfl rfl
  exact (hmod.trans ((permitEnd_frame actCal permit _).mono fun _ => id)).put _ _ fun _ hg => ne_modIrq_of_offQueues hg.1

/-- What is given back: the permit, the array's record, and CAL in `MOD_IRQ` (R528, R163). -/
theorem calReleased_status (permit : Nat) (s : State) : (calReleased permit s).ca = calCleared s.ca ∧
    (calReleased permit s).get .SV_PERMIT_HELD = s.get .SV_PERMIT_HELD &&& (0x7F ^^^ 2 ^ (actCal - 1)) ∧
    (calReleased permit s).get ⟨Reg.MOD_IRQ, irqCal, irqCal⟩ = 1 := by
  refine ⟨?_, ?_, get_put _ _ _ (by simp) (by decide)⟩
  · rw [calReleased, raiseIrq, State.put_ca, (permitEnd_frame _ _ _).unchanged State.ca, State.modCa_ca]
  · rw [calReleased, raiseIrq, get_put_ne _ _ _ _ (by decide), held_permitEnd, State.modCa_get]

/-- What an end leaves, before its SYNC. -/
def offEnd (g : FldRef) : Prop := offRequest g ∧ g.a ≠ Reg.MOD_START

theorem calClosed_frame (result permit : Nat) (s : State) : Frame finishedFrom offEnd s (calClosed result permit s) := by
  have hshown : Frame finishedFrom offEnd s (calShown result s) := (calShown_frame result s).mono fun _ hg => ⟨hg.1.2.1, hg.2⟩
  have hscan (u : State) : Frame finishedFrom offEnd u (scansRestarted u) := (scansRestarted_frame u).mono fun _ => id
  have hrel (u : State) : Frame finishedFrom offEnd u (calReleased permit u) := (calReleased_frame permit u).mono fun _ hg => ⟨hg.1.1, hg.1.2.2⟩
  exact (hshown.trans (hscan _)).trans (hrel _)

/-- The status at the end of a calibration (R163, R528). -/
theorem calClosed_status (hr : result < 16) (permit : Nat) (s : State) : (calClosed result permit s).ca = calCleared s.ca ∧
    (calClosed result permit s).get .CA_STAT_STATE = 0 ∧ (calClosed result permit s).get .CA_STAT_RESULT = result ∧
    (calClosed result permit s).get .SV_PERMIT_HELD = s.get .SV_PERMIT_HELD &&& (0x7F ^^^ 2 ^ (actCal - 1)) ∧
    (calClosed result permit s).get ⟨Reg.MOD_IRQ, irqCal, irqCal⟩ = 1 := by
  obtain ⟨hca, hheld, hirq⟩ := calReleased_status permit (scansRestarted (calShown result s))
  obtain ⟨hstate, hresult⟩ := calShown_status hr s
  have hscan (g : FldRef) : (scansRestarted (calShown result s)).get g = (calShown result s).get g :=
    (scansRestarted_frame (P := fun _ => True) _).get g trivial
  have hstat (g : FldRef) (hg : g.a = Reg.CA_STAT) : (calClosed result permit s).get g = (calShown result s).get g :=
    ((calReleased_frame permit _).get g (by rw [offQueues, hg]; decide)).trans (hscan g)
  refine ⟨?_, (hstat _ rfl).trans hstate, (hstat _ rfl).trans hresult, ?_, hirq⟩
  · rw [calClosed, hca, (scansRestarted_frame (P := fun _ => True) _).unchanged State.ca, (calShown_frame result s).unchanged State.ca]
  · rw [calClosed, hheld, hscan, (calShown_frame result s).get _ (by decide)]

/-- The SYNC of an end of calibration, where acquisition runs (R143, R154). -/
theorem calSync_frame (result permit : Nat) (s : State) : Frame resetsFrom offSync (calClosed result permit s) (calFinish result permit s) := by
  rw [calFinish_eq]
  exact .ite (fun _ => syncApplyAt_frame _ _ _ _) fun _ => .refl _

theorem calFinish_frame (result permit : Nat) (s : State) : Frame finishedFrom (fun g => offEnd g ∧ offSync g) s (calFinish result permit s) :=
  ((calClosed_frame result permit s).mono fun _ => And.left).trans ((calSync_frame result permit s).mono fun _ => And.right)

/-- A field of a register below the channels' that is none of the SYNC's. -/
theorem offSync_of_lt {g : FldRef} (h : g.a < 0x20000) (hi : g.a ≠ Reg.CA_SYNC_INFO ∧ g.a ≠ Reg.CA_SYNC_TS 0 ∧ g.a ≠ Reg.CA_SYNC_TS 1) : offSync g :=
  ⟨offChains_of_lt h, hi⟩

theorem calFinish_status (hr : result < 16) (permit : Nat) (s : State) : (calFinish result permit s).ca = calCleared s.ca ∧
    (calFinish result permit s).get .CA_STAT_STATE = 0 ∧ (calFinish result permit s).get .CA_STAT_RESULT = result ∧
    (calFinish result permit s).get .SV_PERMIT_HELD = s.get .SV_PERMIT_HELD &&& (0x7F ^^^ 2 ^ (actCal - 1)) ∧
    (calFinish result permit s).get ⟨Reg.MOD_IRQ, irqCal, irqCal⟩ = 1 := by
  have hsync := calSync_frame result permit s
  rw [hsync.unchanged State.ca, hsync.get .CA_STAT_STATE (offSync_of_lt (by decide) (by decide)), hsync.get .CA_STAT_RESULT (offSync_of_lt (by decide) (by decide)),
    hsync.get .SV_PERMIT_HELD (offSync_of_lt (by decide) (by decide)), hsync.get ⟨Reg.MOD_IRQ, irqCal, irqCal⟩ (offSync_of_lt (by decide) (by decide))]
  exact calClosed_status hr permit s

end End

end Sys2Proof.Machine
end

section
/-! PROOFS. The calibration factors of the converters (R155, R157, R159, R168), and the statement of self-calibration. -/

namespace Sys2Proof.Machine

set_option Elab.async false

section Registers

/-- The two factor registers of converter `i`: offset and status, and gain (R168). -/
def convOfs (i : Nat) : Nat := if i < 64 then Reg.CH_CAL_OFS (anCh i) else Reg.TILE_AUX_OFS (i - 64)
def convGainReg (i : Nat) : Nat := if i < 64 then Reg.CH_CAL_GAIN (anCh i) else Reg.TILE_AUX_GAIN (i - 64)

theorem convRegs_eq (i : Nat) : convRegs i = [convOfs i, convGainReg i] := by
  unfold convRegs convOfs convGainReg
  split <;> rfl

theorem convOfs_ne_convGainReg (i j : Nat) : convOfs i ≠ convGainReg j := by
  simp only [convOfs, convGainReg, anCh, Reg.CH_CAL_OFS, Reg.CH_CAL_GAIN, Reg.TILE_AUX_OFS, Reg.TILE_AUX_GAIN]
  split <;> split <;> omega

theorem convOfs_ne {i j : Nat} (hi : i < 80) (hj : j < 80) (h : i ≠ j) : convOfs i ≠ convOfs j := by
  simp only [convOfs, anCh, Reg.CH_CAL_OFS, Reg.TILE_AUX_OFS]
  split <;> split <;> omega

theorem convGainReg_ne {i j : Nat} (hi : i < 80) (hj : j < 80) (h : i ≠ j) : convGainReg i ≠ convGainReg j := by
  simp only [convGainReg, anCh, Reg.CH_CAL_GAIN, Reg.TILE_AUX_GAIN]
  split <;> split <;> omega

/-- `CA_STAT` is no factor register. -/
theorem factorRegs_ne_caStat (i : Nat) : convOfs i ≠ Reg.CA_STAT ∧ convGainReg i ≠ Reg.CA_STAT := by
  simp only [convOfs, convGainReg, anCh, Reg.CA_STAT, Reg.CH_CAL_OFS, Reg.CH_CAL_GAIN, Reg.TILE_AUX_OFS, Reg.TILE_AUX_GAIN]
  constructor <;> split <;> omega

/-- The fields of the factor registers: OFS and GAIN, and STALE, FAIL and HOST. -/
def ofsField (i : Nat) : FldRef := ⟨convOfs i, 23, 0⟩
def gainField (i : Nat) : FldRef := ⟨convGainReg i, 23, 0⟩
def staleField (i : Nat) : FldRef := ⟨convOfs i, 31, 31⟩
def failField (i : Nat) : FldRef := ⟨convOfs i, 30, 30⟩
def hostField (i : Nat) : FldRef := ⟨convOfs i, 29, 29⟩

/-- The factors of a converter that does not fail (R155, R159). -/
def convStored (i : Nat) (ofs gain : Int) (s : State) : State :=
  ((((s.put (ofsField i) (toU 24 ofs)).put (gainField i) gain.toNat).put (staleField i) 0).put (failField i) 0).put (hostField i) 0

/-- `convWrite` is one operation on the registers of converter `i`, analog or auxiliary. -/
theorem convWrite_eq (i : Nat) (fail : Bool) (ofs gain : Int) (s : State) :
    convWrite i fail ofs gain s = if fail then s.set1 (failField i) else convStored i ofs gain s := by
  unfold convWrite convStored ofsField gainField staleField failField hostField convOfs convGainReg
  split <;> rfl

end Registers

section Write

variable {i : Nat} {ofs gain : Int} {s u : State}

/-- A field of no factor register. -/
def offConvs (g : FldRef) : Prop := ∀ i < 80, g.a ≠ convOfs i ∧ g.a ≠ convGainReg i

theorem offConvs_of_notMem {g : FldRef} (h : ¬ g.a ∈ (List.range 80).flatMap convRegs) : offConvs g := by
  simp only [List.mem_flatMap, List.mem_range, convRegs_eq, List.mem_cons, List.not_mem_nil, or_false, not_exists, not_and, not_or] at h
  exact h

theorem convStored_frame (i : Nat) (ofs gain : Int) (s : State) :
    Frame regsFrom (fun g => g.a ≠ convOfs i ∧ g.a ≠ convGainReg i) s (convStored i ofs gain s) :=
  (((((Frame.refl s).put (ofsField i) _ fun _ hg => hg.1).put (gainField i) _ fun _ hg => hg.2).put (staleField i) _ fun _ hg => hg.1).put
    (failField i) _ fun _ hg => hg.1).put (hostField i) _ fun _ hg => hg.1

theorem convWrite_frame (i : Nat) (fail : Bool) (ofs gain : Int) (s : State) :
    Frame regsFrom (fun g => g.a ≠ convOfs i ∧ g.a ≠ convGainReg i) s (convWrite i fail ofs gain s) := by
  rw [convWrite_eq]
  exact .ite (fun _ => (Frame.refl s).put (failField i) _ fun _ hg => hg.1) fun _ => convStored_frame i ofs gain s

/-- What a converter that does not fail shows: its new factors, not stale, not failed and not written by the host (R155, R159). -/
theorem convStored_shows (ofs : Int) (hg : gain.toNat < 2 ^ 24) (s : State) : (convStored i ofs gain s).get (ofsField i) = toU 24 ofs ∧
    (convStored i ofs gain s).get (gainField i) = gain.toNat ∧ (convStored i ofs gain s).is (staleField i) = false ∧
    (convStored i ofs gain s).is (failField i) = false ∧ (convStored i ofs gain s).is (hostField i) = false := by
  have hne : convGainReg i ≠ convOfs i := (convOfs_ne_convGainReg i i).symm
  have hzero (v : State) (f : FldRef) (hf : f.lo ≤ f.hi) (hf' : f.hi < 32) : (v.put f 0).get f = 0 := (get_put _ _ _ hf hf').trans (Nat.zero_mod _)
  unfold convStored
  simp only [State.is, beq_eq_false_iff_ne]
  refine ⟨?_, ?_, ?_, ?_, ?_⟩
  · rw [get_put_apart _ _ _ _ (by simp [hostField]) (by simp [ofsField]) (by simp [FldRef.apart, hostField, ofsField]),
      get_put_apart _ _ _ _ (by simp [failField]) (by simp [ofsField]) (by simp [FldRef.apart, failField, ofsField]),
      get_put_apart _ _ _ _ (by simp [staleField]) (by simp [ofsField]) (by simp [FldRef.apart, staleField, ofsField]),
      get_put_ne _ _ _ _ hne.symm, get_put _ _ _ (by simp [ofsField]) (by simp [ofsField])]
    exact Nat.mod_eq_of_lt (toU_lt 24 ofs)
  · rw [get_put_ne _ _ _ _ hne, get_put_ne _ _ _ _ hne, get_put_ne _ _ _ _ hne, get_put _ _ _ (by simp [gainField]) (by simp [gainField])]
    exact Nat.mod_eq_of_lt hg
  · rw [get_put_apart _ _ _ _ (by simp [hostField]) (by simp [staleField]) (by simp [FldRef.apart, hostField, staleField]),
      get_put_apart _ _ _ _ (by simp [failField]) (by simp [staleField]) (by simp [FldRef.apart, failField, staleField]),
      hzero _ _ (by simp [staleField]) (by simp [staleField])]
    decide
  · rw [get_put_apart _ _ _ _ (by simp [hostField]) (by simp [failField]) (by simp [FldRef.apart, hostField, failField]),
      hzero _ _ (by simp [failField]) (by simp [failField])]
    decide
  · rw [hzero _ _ (by simp [hostField]) (by simp [hostField])]
    decide

/-- A failed converter keeps its factors and shows FAIL (R157). -/
theorem convFailed_shows (i : Nat) (s : State) : (s.set1 (failField i)).is (failField i) = true ∧
    rd (s.set1 (failField i)) (convGainReg i) = rd s (convGainReg i) ∧ (s.set1 (failField i)).get (ofsField i) = s.get (ofsField i) :=
  ⟨is_set1 _ _ (by simp [failField]) (by simp [failField]), rd_put_ne _ _ _ _ (convOfs_ne_convGainReg i i).symm,
    get_put_apart _ _ _ _ (by simp [failField]) (by simp [ofsField]) (by simp [FldRef.apart, failField, ofsField])⟩

/-- The words of converter `i`'s registers, and that `convWrite` computes them from themselves. -/
def convWords (i : Nat) (s : State) : Word × Word := (rd s (convOfs i), rd s (convGainReg i))

theorem convWords_put {f : FldRef} (h : convWords i u = convWords i s) (v : Nat) (hf : f.a = convOfs i ∨ f.a = convGainReg i) :
    convWords i (u.put f v) = convWords i (s.put f v) := by
  obtain ⟨hofs, hgain⟩ := Prod.mk.inj h
  have hput (a : Nat) (ha : rd u a = rd s a) (hfa : rd u f.a = rd s f.a) : rd (u.put f v) a = rd (s.put f v) a := by
    by_cases e : a = f.a
    · rw [e, State.put, State.put, rd_wr_same, rd_wr_same, hfa]
    · rw [rd_put_ne _ _ _ _ e, rd_put_ne _ _ _ _ e, ha]
  have hfa : rd u f.a = rd s f.a := by
    obtain e | e := hf
    · rw [e, hofs]
    · rw [e, hgain]
  exact Prod.ext (hput _ hofs hfa) (hput _ hgain hfa)

theorem convWords_convWrite (h : convWords i u = convWords i s) (fail : Bool) (ofs gain : Int) :
    convWords i (convWrite i fail ofs gain u) = convWords i (convWrite i fail ofs gain s) := by
  rw [convWrite_eq, convWrite_eq]
  cases fail with
  | true => exact convWords_put h _ (.inl rfl)
  | false =>
    exact convWords_put (convWords_put (convWords_put (convWords_put (convWords_put h _ (.inl rfl)) _ (.inr rfl)) _ (.inl rfl)) _ (.inl rfl)) _ (.inl rfl)

/-- Fields of the registers follow from their words. -/
theorem get_of_convWords (h : convWords i u = convWords i s) {f : FldRef} (hf : f.a = convOfs i ∨ f.a = convGainReg i) : u.get f = s.get f := by
  obtain ⟨hofs, hgain⟩ := Prod.mk.inj h
  simp only [State.get]
  obtain e | e := hf
  · rw [e, hofs]
  · rw [e, hgain]

end Write

section All

variable {sums : List Int} {marked l : List Nat} {s u : State} {i : Nat}

/-- Converter `i` after the gain window (R155): its factors from the sums of both windows, or its mark. -/
def convSet (sums : List Int) (marked : List Nat) (s : State) (i : Nat) (u : State) : State :=
  convWrite i (convFailed s sums marked i) (divAway (s.ca.s0.getD i 0) calPeriods)
    (convGain (devOf s (convTile i)) (s.ca.s0.getD i 0) (sums.getD i 0)) u

theorem convAll_cons (sums : List Int) (marked : List Nat) (i : Nat) (l : List Nat) (p : State × Nat) : convAll sums marked (i :: l) p =
    convAll sums marked l (convSet sums marked p.1 i p.1, p.2 + b2n (convFailed p.1 sums marked i)) := rfl

/-- Whether a tile is linked does not follow from the factors. -/
theorem tileUp_factors {t : Nat} (h : Frame regsFrom offConvs s u) : tileUp u t = tileUp s t := by
  have hlink (d : Dom) : linkUp u t d = linkUp s t d := by
    have hoff (g : FldRef) (hg : g.a = Reg.TILE_FEED t) : offConvs g := by
      intro i hi
      simp only [hg, convOfs, convGainReg, anCh, Reg.TILE_FEED, Reg.CH_CAL_OFS, Reg.CH_CAL_GAIN, Reg.TILE_AUX_OFS, Reg.TILE_AUX_GAIN]
      constructor <;> split <;> omega
    cases d with
    | a => exact h.is _ (hoff _ rfl)
    | b => exact h.is _ (hoff _ rfl)
  rw [tileUp, h.unchanged (State.tile · t), h.unchanged activeDom, tileUp]
  simp only [hlink]

/-- Neither do a converter's failure and its factors, so each converter's step is the one of the window's end. -/
theorem convSet_factors (i : Nat) (h : Frame regsFrom offConvs s u) :
    convFailed u sums marked i = convFailed s sums marked i ∧ convSet sums marked u i = convSet sums marked s i := by
  have hfail : convFailed u sums marked i = convFailed s sums marked i := by
    rw [convFailed, tileUp_factors h, h.unchanged State.ca, h.unchanged (devOf · (convTile i)), convFailed]
  refine ⟨hfail, ?_⟩
  unfold convSet
  rw [hfail, h.unchanged State.ca, h.unchanged (devOf · (convTile i))]

theorem convSet_frame (hi : i < 80) (v s : State) : Frame regsFrom offConvs s (convSet sums marked v i s) :=
  (convWrite_frame i _ _ _ s).mono fun _ hg => hg i hi

/-- `convAll` writes each converter of its list by what the window's end shows, and counts the failures (R155). -/
theorem convAll_eq (hl : ∀ i ∈ l, i < 80) (p : State × Nat) (h : Frame regsFrom offConvs s p.1) : convAll sums marked l p =
    (p.1.each l (convSet sums marked s), p.2 + (l.filter (convFailed s sums marked)).length) := by
  induction l generalizing p with
  | nil => rfl
  | cons i l ih =>
    obtain ⟨hfail, hset⟩ := convSet_factors (sums := sums) (marked := marked) i h
    rw [convAll_cons, hset, hfail, ih (fun j hj => hl j (by simp [hj])) _ (h.trans (convSet_frame (hl i (by simp)) s _)), each_cons, List.filter_cons]
    cases convFailed s sums marked i with
    | false => rfl
    | true => simp only [if_true, List.length_cons, b2n, Nat.add_assoc, Nat.add_comm 1]

/-- All factors after the gain window. -/
def allConverted (sums : List Int) (marked : List Nat) (s : State) : State := s.each (List.range 80) (convSet sums marked s)

theorem allConverted_frame (sums : List Int) (marked : List Nat) (s : State) : Frame regsFrom offConvs s (allConverted sums marked s) :=
  .each _ _ s fun _ hi u => convSet_frame (List.mem_range.mp hi) s u

theorem convWords_convSet_ne {j : Nat} (hi : i < 80) (hj : j < 80) (h : j ≠ i) (v u : State) :
    convWords i (convSet sums marked v j u) = convWords i u := by
  have hf : Frame regsFrom (fun g => g.a ≠ convOfs j ∧ g.a ≠ convGainReg j) u (convSet sums marked v j u) := convWrite_frame j _ _ _ u
  exact Prod.ext (hf.rd _ ⟨convOfs_ne hi hj h.symm, convOfs_ne_convGainReg i j⟩)
    (hf.rd _ ⟨(convOfs_ne_convGainReg j i).symm, convGainReg_ne hi hj h.symm⟩)

/-- The registers of a converter are those of its own step. -/
theorem convWords_allConverted (hi : i < 80) (sums : List Int) (marked : List Nat) (s : State) :
    convWords i (allConverted sums marked s) = convWords i (convSet sums marked s i s) :=
  each_at (convWords i) List.nodup_range (List.mem_range.mpr hi)
    (fun _ hj hji _ => convWords_convSet_ne hi (List.mem_range.mp hj) hji s _) s fun _ hu => convWords_convWrite hu _ _ _

end All

section Means

variable {sums : List Int} {marked : List Nat} {s : State} {i : Nat}

/-- The converters that fail. -/
def failCount (sums : List Int) (marked : List Nat) (s : State) : Nat := ((List.range 80).filter (convFailed s sums marked)).length

theorem failCount_le (sums : List Int) (marked : List Nat) (s : State) : failCount sums marked s ≤ 80 :=
  (List.length_filter_le _ _).trans_eq List.length_range

/-- The factors written and the failures shown (R154, step 8). -/
def calMeans (sums : List Int) (marked : List Nat) (s : State) : State :=
  ((calStale (allConverted sums marked s)).put .CA_STAT_FAIL_CNT (failCount sums marked s)).modCa fun c => { c with
    calStep := 5, calFail := failCount sums marked s, prev := factorWords s, wrote := c.wrote ++ factorWords (allConverted sums marked s) }

theorem exec_calGainMeans (h : s.ca.calStep = 4) (hp : calPast s 405 1620 = true) :
    exec (.calGainMeans sums marked) s = .next (calMeans sums marked s) := by
  have hall : convAll sums marked (List.range 80) (s, 0) = (allConverted sums marked s, failCount sums marked s) := by
    rw [convAll_eq (s := s) (fun _ => List.mem_range.mp) _ (.refl s), Nat.zero_add]
    rfl
  show execCalGainMeans sums marked s = _
  rw [execCalGainMeans, if_pos ⟨h, hp⟩, hall]
  rfl

theorem calStale_frame (s : State) : Frame regsFrom (fun g => g.a ≠ Reg.CA_STAT) s (calStale s) := (Frame.refl s).put _ _ fun _ hg => hg

/-- After the factors only `CA_STAT` and the array's record follow (R154, step 8; R159). -/
theorem calMeans_after (sums : List Int) (marked : List Nat) (s : State) :
    Frame arrayFrom (fun g => g.a ≠ Reg.CA_STAT) (allConverted sums marked s) (calMeans sums marked s) := by
  have hstale : Frame arrayFrom (fun g => g.a ≠ Reg.CA_STAT) (allConverted sums marked s) (calStale (allConverted sums marked s)) :=
    (calStale_frame _).mono fun _ => id
  have hmod (u : State) (F : CaSt → CaSt) : Frame arrayFrom (fun g => g.a ≠ Reg.CA_STAT) u (u.modCa F) := .of_regs rfl rfl
  exact (hstale.put .CA_STAT_FAIL_CNT _ fun _ hg => hg).trans (hmod _ _)

theorem calMeans_frame (sums : List Int) (marked : List Nat) (s : State) :
    Frame arrayFrom (fun g => offConvs g ∧ g.a ≠ Reg.CA_STAT) s (calMeans sums marked s) := by
  have hall : Frame arrayFrom (fun g => offConvs g ∧ g.a ≠ Reg.CA_STAT) s (allConverted sums marked s) := (allConverted_frame sums marked s).mono fun _ => And.left
  exact hall.trans ((calMeans_after sums marked s).mono fun _ => And.right)

theorem calMeans_status (sums : List Int) (marked : List Nat) (s : State) : (calMeans sums marked s).ca.calStep = 5 ∧
    (calMeans sums marked s).get .CA_STAT_FAIL_CNT = failCount sums marked s ∧ (calMeans sums marked s).ca.calFail = failCount sums marked s := by
  rw [calMeans, State.modCa_ca, State.modCa_get, get_put _ _ _ (by simp) (by simp)]
  exact ⟨rfl, Nat.mod_eq_of_lt ((failCount_le sums marked s).trans_lt (by decide)), rfl⟩

/-- The gain of a converter that does not fail is within its bounds (R155). -/
theorem convGain_lt {dev a b : Int} (h : convFails dev a b = false) : (convGain dev a b).toNat < 2 ^ 24 := by
  simp only [convFails, Bool.or_eq_false_iff, decide_eq_false_iff_not] at h
  omega

theorem convWords_calMeans (hi : i < 80) (sums : List Int) (marked : List Nat) (s : State) :
    convWords i (calMeans sums marked s) = convWords i (convSet sums marked s i s) := by
  have hne := factorRegs_ne_caStat i
  rw [← convWords_allConverted hi]
  exact Prod.ext ((calMeans_after sums marked s).rd _ hne.1) ((calMeans_after sums marked s).rd _ hne.2)

/-- Each converter after the gain window (R155, R157, R159). -/
theorem calMeans_converter (hi : i < 80) (sums : List Int) (marked : List Nat) (s : State) :
    (calMeans sums marked s).is (failField i) = convFailed s sums marked i ∧
    (convFailed s sums marked i = true → rd (calMeans sums marked s) (convGainReg i) = rd s (convGainReg i) ∧
      (calMeans sums marked s).get (ofsField i) = s.get (ofsField i)) ∧
    (convFailed s sums marked i = false → (calMeans sums marked s).get (ofsField i) = toU 24 (divAway (s.ca.s0.getD i 0) calPeriods) ∧
      (calMeans sums marked s).get (gainField i) = (convGain (devOf s (convTile i)) (s.ca.s0.getD i 0) (sums.getD i 0)).toNat ∧
      (calMeans sums marked s).is (staleField i) = false ∧ (calMeans sums marked s).is (hostField i) = false) := by
  have hwords := convWords_calMeans hi sums marked s
  rw [convSet, convWrite_eq] at hwords
  have hgain := congrArg Prod.snd hwords
  have hofs := fun f (hf : f.a = convOfs i) => get_of_convWords hwords (f := f) (.inl hf)
  cases hf : convFailed s sums marked i with
  | true =>
    rw [hf, if_pos rfl] at hwords hgain hofs
    obtain ⟨hfail, hkept, hkeptOfs⟩ := convFailed_shows i s
    exact ⟨(congrArg (· == 1) (hofs (failField i) rfl)).trans hfail, fun _ => ⟨hgain.trans hkept, (hofs (ofsField i) rfl).trans hkeptOfs⟩, nofun⟩
  | false =>
    rw [hf, if_neg Bool.false_ne_true] at hwords hgain hofs
    have hok : convFails (devOf s (convTile i)) (s.ca.s0.getD i 0) (sums.getD i 0) = false := by
      simp only [convFailed, Bool.or_eq_false_iff] at hf
      exact hf.2
    obtain ⟨hO, hG, hS, hF, hH⟩ := convStored_shows (i := i) (divAway (s.ca.s0.getD i 0) calPeriods) (convGain_lt hok) s
    exact ⟨(congrArg (· == 1) (hofs (failField i) rfl)).trans hF, nofun, fun _ => ⟨(hofs (ofsField i) rfl).trans hO,
      (get_of_convWords hwords (f := gainField i) (.inr rfl)).trans hG, (congrArg (· == 1) (hofs (staleField i) rfl)).trans hS,
      (congrArg (· == 1) (hofs (hostField i) rfl)).trans hH⟩⟩

end Means

section Host

variable {i : Nat} {g : Bool} {w : Word} {s : State}

/-- The field of a factor that a host write puts into effect (R168). -/
def factorField (i : Nat) (g : Bool) : FldRef := if g then gainField i else ofsField i

theorem get_factorField (s : State) (i : Nat) (g : Bool) :
    s.get (factorField i g) = if g then s.get (gainField i) else s.get (ofsField i) := by cases g <;> rfl

theorem factorField_a (i : Nat) (g : Bool) : (factorField i g).a = (factorReg i g).1 := by
  unfold factorField factorReg gainField ofsField convGainReg convOfs
  by_cases hi : i < 64
  · cases g <;> simp [hi]
  · cases g <;> simp [hi]

/-- The factor as the host writes it (R159). -/
def factorPut (i : Nat) (g : Bool) (w : Word) (s : State) : State :=
  ((s.put (factorField i g) (bits w 23 0)).put (staleField i) 0).set1 (hostField i)

theorem factorWrite_eq (i : Nat) (g : Bool) (w : Word) (s : State) : factorWrite i g w s =
    calStale ((factorPut i g w s).modCa fun c => { c with prev := c.prev.filter (fun p => !(convRegs i).contains p.1) }) := by
  unfold factorWrite factorPut factorField gainField ofsField staleField hostField convGainReg convOfs
  cases g <;> split <;> rfl

theorem exec_calFactorWrite {i : Fin 80} {r : Req} (ha : Admitted s r (factorReg i g).1 (factorReg i g).2) :
    exec (.calFactorWrite r i g w) s = .next (factorWrite i g w s) := by
  show execCalFactorWrite r i g w s = _
  rw [execCalFactorWrite, regWrite_admitted _ _ _ _ _ _ ha]

theorem factorPut_frame (i : Nat) (g : Bool) (w : Word) (s : State) :
    Frame regsFrom (fun f => f.a ≠ (factorReg i g).1 ∧ f.a ≠ convOfs i) s (factorPut i g w s) :=
  (((Frame.refl s).put (factorField i g) _ fun _ hf => factorField_a i g ▸ hf.1).put (staleField i) _ fun _ hf => hf.2).put (hostField i) _ fun _ hf => hf.2

theorem factorWrite_after (i : Nat) (g : Bool) (w : Word) (s : State) :
    Frame arrayFrom (fun f => f.a ≠ Reg.CA_STAT) (factorPut i g w s) (factorWrite i g w s) := by
  rw [factorWrite_eq]
  have hmod (u : State) (F : CaSt → CaSt) : Frame arrayFrom (fun f => f.a ≠ Reg.CA_STAT) u (u.modCa F) := .of_regs rfl rfl
  exact (hmod _ _).trans ((calStale_frame _).mono fun _ => id)

theorem factorWrite_frame (i : Nat) (g : Bool) (w : Word) (s : State) :
    Frame arrayFrom (fun f => (f.a ≠ (factorReg i g).1 ∧ f.a ≠ convOfs i) ∧ f.a ≠ Reg.CA_STAT) s (factorWrite i g w s) := by
  have hput : Frame arrayFrom (fun f => (f.a ≠ (factorReg i g).1 ∧ f.a ≠ convOfs i) ∧ f.a ≠ Reg.CA_STAT) s (factorPut i g w s) :=
    (factorPut_frame i g w s).mono fun _ => And.left
  exact hput.trans ((factorWrite_after i g w s).mono fun _ => And.right)

/-- A host write of a factor (R159, R168). -/
theorem factorWrite_shows (i : Nat) (g : Bool) (w : Word) (s : State) : (factorWrite i g w s).get (factorField i g) = bits w 23 0 ∧
    (factorWrite i g w s).is (staleField i) = false ∧ (factorWrite i g w s).is (hostField i) = true := by
  have hne := factorRegs_ne_caStat i
  have hafter := factorWrite_after i g w s
  have hfield : (factorField i g).a ≠ Reg.CA_STAT ∧ (factorField i g).lo ≤ (factorField i g).hi ∧ (factorField i g).hi < 24 := by
    cases g
    · exact ⟨hne.1, Nat.zero_le 23, Nat.lt_succ_self 23⟩
    · exact ⟨hne.2, Nat.zero_le 23, Nat.lt_succ_self 23⟩
  obtain ⟨hstat, hlo, hhi⟩ := hfield
  have hput : (s.put (factorField i g) (bits w 23 0)).get (factorField i g) = bits w 23 0 := by
    rw [get_put _ _ _ hlo (by omega)]
    cases g <;> exact Nat.mod_eq_of_lt (bits_lt w 23 0)
  rw [hafter.get _ hstat, hafter.is (staleField i) hne.1, hafter.is (hostField i) hne.1, factorPut]
  refine ⟨?_, ?_, is_set1 _ _ (by simp [hostField]) (by simp [hostField])⟩
  · rw [State.set1, get_put_apart _ _ _ _ (by simp [hostField]) (by omega) (.inr (.inr (by simp only [hostField]; omega))),
      get_put_apart _ _ _ _ (by simp [staleField]) (by omega) (.inr (.inr (by simp only [staleField]; omega))), hput]
  · rw [State.is, State.set1, get_put_apart _ _ _ _ (by simp [hostField]) (by simp [staleField]) (by simp [FldRef.apart, hostField, staleField])]
    exact is_putB _ (staleField i) false (by simp [staleField]) (by simp [staleField])

end Host

/-- Settles O27: a request is decided by the permit, the windows' sums give or refuse each converter's factors, the end gives the permit back. -/
theorem calibration : Obligations.Calibration := by
  unfold Obligations.Calibration
  refine ⟨?busy, ?notAllowed, ?granted, ?refused, ?auto, ?waiting, ?denied, ?enter, ?offset, ?means, ?analog, ?aux, ?finish, ?hostAnalog, ?hostAux⟩
  case busy =>
    intro s r ha h
    rw [exec_cal ha, calRequest_busy h]
  case notAllowed =>
    intro s r ha h hacq
    rw [exec_cal ha, calRequest_notAllowed h hacq]
  case granted =>
    intro s r ha h hacq hp
    rw [exec_cal ha, calRequest_granted h hacq hp]
    rfl
  case refused =>
    intro s r ha h hacq hp
    have hf := calDecided_frame (permitAnswer s actCal) .CA_STAT_RESULT rfl caRefused s
    exact ⟨_, by rw [exec_cal ha, calRequest_refused h hacq hp], get_put _ _ _ (by simp) (by simp), hf.unchanged State.ca, hf.rest,
      fun a hq hc hs => hf.rd a ⟨hq, hc, hs⟩⟩
  case auto =>
    intro s hauto ha hl hd hc hp
    rw [exec_autoCalStart hauto ha hl hd hc, calRequest_granted (s := s.modCa fun c => { c with autoDone := true }) hc ha hp]
    rfl
  case waiting =>
    intro s h hp ha
    have htiles : Frame convertedFrom (fun _ => True) (calWaiting s) (allTiles calWaitTile (calWaiting s)) := calWaitTiles_frame _
    obtain ⟨hstate, hheld⟩ := calWaiting_status s
    have hf := calWaited_frame s
    exact ⟨_, exec_calPermitGranted h hp ha, (htiles.unchanged State.ca).trans (ca_calWaiting s), (htiles.get _ trivial).trans hstate,
      (htiles.get _ trivial).trans hheld, hf.rest, fun a hq hc hs => hf.rd a ⟨hq, hc, hs⟩⟩
  case denied =>
    intro s h hp
    have hf := calRefused_frame s
    refine ⟨_, exec_calPermitGranted_refused h hp, ca_calRefused s, ?_, hf.rest, fun a hq hc hs => hf.rd a ⟨hq, hc, hs⟩⟩
    rw [calRefused, State.modCa_get, get_put _ _ _ (by simp) (by simp)]
    rfl
  case enter =>
    intro s h hslot
    have hf := calEntered_frame s
    exact ⟨_, exec_calEnter h hslot, ca_calEntered s, state_calEntered s, fun n hn => chain_calEntered hn s, hf.rest, fun a hq hc => hf.rd a ⟨hq, hc⟩⟩
  case offset =>
    intro s sums h hp
    show execCalOffsetMeans sums s = _
    rw [execCalOffsetMeans, if_pos ⟨h, hp⟩]
    rfl
  case means =>
    intro s sums marked h hp
    obtain ⟨hstep, hcnt, hfail⟩ := calMeans_status sums marked s
    have hf := calMeans_frame sums marked s
    exact ⟨_, exec_calGainMeans h hp, hstep, hcnt, hfail, hf.rest, fun a hc hm => hf.rd a ⟨offConvs_of_notMem hm, hc⟩⟩
  case analog =>
    intro s sums marked i n h hp hn
    subst hn
    have hspec := calMeans_converter (i := i) (by omega) sums marked s
    simp only [failField, ofsField, gainField, staleField, hostField, convOfs, convGainReg, convTile, i.isLt, if_true] at hspec
    exact ⟨_, exec_calGainMeans h hp, hspec⟩
  case aux =>
    intro s sums marked n h hp
    have hspec := calMeans_converter (i := 64 + n) (by omega) sums marked s
    simp only [failField, ofsField, gainField, staleField, hostField, convOfs, convGainReg, convTile, Nat.not_lt.mpr (Nat.le_add_right 64 n), if_false,
      Nat.add_sub_cancel_left] at hspec
    exact ⟨_, exec_calGainMeans h hp, hspec⟩
  case finish =>
    intro s h hp
    obtain ⟨hca, hstate, hresult, hheld, hirq⟩ := calFinish_status (result := if s.ca.calFail = 0 then caOk else caPartial) (by split <;> decide) prDone s
    have hf := calFinish_frame (if s.ca.calFail = 0 then caOk else caPartial) prDone s
    exact ⟨_, exec_calEnd h hp, hca, hstate, hresult, hheld, hirq, hf.rest,
      fun a hq hc hi h0 h1 hs hstart hch => hf.rd a ⟨⟨⟨hq, hc, hs⟩, hstart⟩, hch, hi, h0, h1⟩⟩
  case hostAnalog =>
    intro s r i g w hi ha
    have hf := factorWrite_frame i g w s
    obtain ⟨hval, hstale, hhost⟩ := factorWrite_shows i g w s
    rw [get_factorField] at hval
    simp only [gainField, ofsField, staleField, hostField, convGainReg, convOfs, hi, if_true] at hval hstale hhost hf
    exact ⟨_, exec_calFactorWrite ha, hval, hstale, hhost, hf.rest, fun a hr ho hc => hf.rd a ⟨⟨hr, ho⟩, hc⟩⟩
  case hostAux =>
    intro s r i g w hi ha
    have hf := factorWrite_frame i g w s
    obtain ⟨hval, hstale, hhost⟩ := factorWrite_shows i g w s
    rw [get_factorField] at hval
    simp only [gainField, ofsField, staleField, hostField, convGainReg, convOfs, Nat.not_lt.mpr hi, if_false] at hval hstale hhost hf
    exact ⟨_, exec_calFactorWrite ha, hval, hstale, hhost, hf.rest, fun a hr ho hc => hf.rd a ⟨⟨hr, ho⟩, hc⟩⟩

end Sys2Proof.Machine
end

section
/-! PROOFS. The phase-delay line (R183) and the delivery of a sample (R185, R195, R203, R236): what each leaves and shows. -/

namespace Sys2Proof.Machine

set_option Elab.async false

section Line

variable {P : FldRef → Prop}

/-- `s` with the chains' records, the tiles and the supervisor's taken from `t`: what a line of periods may change (R132, R183). -/
def filledFrom (s t : State) : State := { s with chains := t.chains, tiles := t.tiles, sv := t.sv }

theorem lineSpoil_frame (l : List (Int × Int)) (n : Nat) (s : State) : Frame filledFrom P s (lineSpoil l n s) := by
  unfold lineSpoil
  extract_lets x
  split
  · exact .of_regs rfl rfl
  · exact .refl s

theorem framesBad_frame (t : Nat) (l : List (Int × Int)) (s : State) : Frame filledFrom P s (framesBad t l s) := by
  refine .ite (fun _ => .refl s) fun _ => ?_
  have hmod (F : TileSt → TileSt) (G : SvSt → SvSt) : Frame filledFrom P s ((s.modTile t F).modSv G) := .of_regs rfl rfl
  exact (hmod _ _).trans (.each _ _ _ fun k _ u => lineSpoil_frame l (16 * t + k) u)

theorem lineFill_frame (n : Nat) (e : Int) (ps : List Period) (s : State) : Frame filledFrom P s (lineFill n e ps s) := by
  unfold lineFill
  extract_lets x
  split
  · exact .refl s
  · exact .ite (fun _ => .refl s) fun _ => (framesBad_frame _ _ s).trans (.of_regs rfl rfl)

end Line

section Thresholds

/-- The thresholds' states of channel `n` apart, what an event leaves. -/
def offThresholds (n : Nat) (g : FldRef) : Prop := offEvents g ∧ g.a ≠ Reg.CH_TH_STATE n 0 ∧ g.a ≠ Reg.CH_TH_STATE n 1

/-- A threshold changes its own state (R203 to R205). -/
theorem thEval_frame (n x : Nat) (d : Int) (test : Bool) (s : State) :
    Frame regsFrom (fun g => g.a ≠ Reg.CH_TH_STATE n x) s (thEval n x d test s).1 := by
  have hput {u : State} (h : Frame regsFrom (fun g => g.a ≠ Reg.CH_TH_STATE n x) s u) (f : FldRef) (v : Nat) (hf : f.a = Reg.CH_TH_STATE n x) :
      Frame regsFrom (fun g => g.a ≠ Reg.CH_TH_STATE n x) s (u.put f v) := h.put _ _ fun _ hg => hf ▸ hg
  unfold thEval
  split
  · exact .refl s
  · extract_lets level hyst dir has
    split
    · exact hput (hput (hput (.refl s) _ _ rfl) _ _ rfl) _ _ rfl
    · split
      · exact hput (.refl s) _ _ rfl
      · split
        · exact hput (hput (.refl s) _ _ rfl) _ _ rfl
        · exact hput (.refl s) _ _ rfl

theorem thresholds_frame (n : Nat) (d : Int) (test : Bool) (tick : Nat) (s : State) :
    Frame eventsFrom (offThresholds n) s (thresholds n d test tick s) := by
  have h0 : Frame eventsFrom (offThresholds n) s (thEval n 0 d test s).1 := (thEval_frame n 0 d test s).mono fun _ hg => hg.2.1
  have h1 : Frame eventsFrom (offThresholds n) s (thEval n 1 d test (thEval n 0 d test s).1).1 :=
    h0.trans ((thEval_frame n 1 d test _).mono fun _ hg => hg.2.2)
  exact h1.trans ((raisePennants_frame _ _ _).mono fun _ hg => hg.1)

end Thresholds

section Deliver

variable {n : Nat}

/-- `s` with what an event changes, the chains' records, the tiles and the supervisor's taken from `t`. -/
def deliveredFrom (s t : State) : State := { eventsFrom s t with chains := t.chains, tiles := t.tiles, sv := t.sv }

theorem sampleWrite_frame (n seq tick : Nat) (w0 : Word) (s : State) : Frame eventsFrom offEvents s (sampleWrite n seq tick w0 s) := by
  unfold sampleWrite dipLevel
  refine .ite (fun _ => ?_) fun _ => .refl s
  have hlevel (q m : Nat) (p : Prod) (es : List (List Word)) (F : KMap Word → KMap Word) :
      Frame eventsFrom offEvents s (dipPatch m F (qPushDrop q p es s)) :=
    (qPushDrop_frame q p es s).queued.trans (dipPatch_frame m F _)
  exact .ite (fun _ => (hlevel _ _ _ _ _).trans ((setQueue_frame _ _ _).queued)) fun _ => hlevel _ _ _ _ _

theorem noteDigest_frame {P : FldRef → Prop} (n e seq : Nat) (w0 : Word) (s : State) : Frame filledFrom P s (noteDigest n e seq w0 s) :=
  .ite (fun _ => .of_regs rfl rfl) fun _ => .refl s

/-- The output's value as a sample (R156, R175), and its word (R195). -/
def sampleValue (s : State) (n : Nat) (x0 : Int) : Int × Bool :=
  calCorrect (clip24 x0).1 (sext 24 (s.get (.CH_CAL_OFS_OFS n))) (s.get (.CH_CAL_GAIN_GAIN n))
def sampleWordOf (s : State) (n : Nat) (x0 : Int) (l : List LPer) : Word :=
  sampleWord s n (sampleValue s n x0).1 (l.any (·.ovr)) ((clip24 x0).2 || (sampleValue s n x0).2) (l.any (·.test)) (s.chain n).gap

/-- A sample that has been written, with its anchor no longer due; and the start's steps 8 and 9 that follow from a first one (R539). -/
def sampleNoted (n e seq : Nat) (w0 : Word) (s : State) : State :=
  let s2 := sampleWrite n seq e w0 (noteDigest n e seq w0 (dipPatch e (dipLast n w0 (wd seq)) s))
  s2.setChain n { s2.chain n with gap := false, step := false }
def firstSample (before preset : Nat) (s : State) : State :=
  s.when (decide (6 ≤ before)) fun s => if preset = 4 then startStep 8 s else if preset = 1 then startStep 9 s else s

theorem deliver_eq (n e seq : Nat) (x0 : Int) (l : List LPer) (s : State) : deliver n e seq x0 l s =
    thresholds n (sampleValue s n x0).1 (l.any (·.test)) e (wr (Reg.CH_LAST_SEQ n) (wd seq) (wr (Reg.CH_LAST n) (sampleWordOf s n x0 l)
      (firstSample (s.get .MOD_START_STEP) (s.chain n).cur.preset (sampleNoted n e seq (sampleWordOf s n x0 l) s)))) := rfl

/-- A field outside what a delivery shows: the latest sample, the thresholds, events and the start's steps. -/
def offSampled (n : Nat) (g : FldRef) : Prop := offThresholds n g ∧ g.a ≠ Reg.MOD_START ∧ g.a ≠ Reg.CH_LAST n ∧ g.a ≠ Reg.CH_LAST_SEQ n

/-- The records of a written sample. -/
theorem sampleNoted_frame (n e seq : Nat) (w0 : Word) (s : State) : Frame deliveredFrom offEvents s (sampleNoted n e seq w0 s) := by
  have hdip : Frame deliveredFrom offEvents s (dipPatch e (dipLast n w0 (wd seq)) s) := (dipPatch_frame e _ s).mono fun _ hg => hg
  have hdigest (u : State) : Frame deliveredFrom offEvents u (noteDigest n e seq w0 u) := (noteDigest_frame n e seq w0 u).mono fun _ hg => hg
  have hwrite (u : State) : Frame deliveredFrom offEvents u (sampleWrite n seq e w0 u) := (sampleWrite_frame n seq e w0 u).mono fun _ hg => hg
  have hset (u : State) (x : ChainSt) : Frame deliveredFrom offEvents u (u.setChain n x) := .of_regs rfl rfl
  exact ((hdip.trans (hdigest _)).trans (hwrite _)).trans (hset _ _)

theorem last_sampleNoted (n e seq : Nat) (w0 : Word) (s : State) : ((sampleNoted n e seq w0 s).chain n).last = (s.chain n).last := by
  have hchain (s2 : State) (h : s2.chains = s.chains) : ((s2.setChain n { s2.chain n with gap := false, step := false }).chain n).last = (s.chain n).last := by
    rw [State.chain, State.setChain, kget_kset_same, State.chain, h, State.chain]
  refine hchain _ ?_
  have hdigest (u : State) : (noteDigest n e seq w0 u).chains = u.chains := by
    unfold noteDigest
    split <;> rfl
  rw [(sampleWrite_frame n seq e w0 _).unchanged State.chains, hdigest, (dipPatch_frame (P := fun _ => True) e _ s).unchanged State.chains]

theorem firstSample_frame (k p : Nat) (s : State) : Frame regsFrom (fun g => g.a ≠ Reg.MOD_START) s (firstSample k p s) := by
  have hstep (m : Nat) : Frame regsFrom (fun g => g.a ≠ Reg.MOD_START) s (startStep m s) := (Frame.refl s).put _ _ fun _ hg => hg
  exact .ite (fun _ => .ite (fun _ => hstep 8) fun _ => .ite (fun _ => hstep 9) fun _ => .refl s) fun _ => .refl s

theorem deliver_frame (n e seq : Nat) (x0 : Int) (l : List LPer) (s : State) : Frame deliveredFrom (offSampled n) s (deliver n e seq x0 l s) := by
  rw [deliver_eq]
  have hnoted : Frame deliveredFrom (offSampled n) s (sampleNoted n e seq (sampleWordOf s n x0 l) s) := (sampleNoted_frame _ _ _ _ s).mono fun _ hg => hg.1.1
  have hfirst (k p : Nat) (u : State) : Frame deliveredFrom (offSampled n) u (firstSample k p u) := (firstSample_frame k p u).mono fun _ hg => hg.2.1
  have hth (d : Int) (test : Bool) (u : State) : Frame deliveredFrom (offSampled n) u (thresholds n d test e u) :=
    (thresholds_frame n d test e u).mono fun _ hg => hg.1
  exact (((hnoted.trans (hfirst _ _ _)).wr _ _ fun _ hg => hg.2.2.1).wr _ _ fun _ hg => hg.2.2.2).trans (hth _ _ _)

theorem last_deliver (n e seq : Nat) (x0 : Int) (l : List LPer) (s : State) : ((deliver n e seq x0 l s).chain n).last = (s.chain n).last := by
  rw [deliver_eq, (thresholds_frame n _ _ e _).unchanged (State.chain · n), State.chain, wr_chains, wr_chains, (firstSample_frame _ _ _).unchanged State.chains]
  exact last_sampleNoted n e seq _ s

/-- The channel's sample registers after a delivery (R249). -/
theorem deliver_shows (hn : n < 256) (e seq : Nat) (x0 : Int) (l : List LPer) (s : State) :
    rd (deliver n e seq x0 l s) (Reg.CH_LAST_SEQ n) = wd seq ∧ rd (deliver n e seq x0 l s) (Reg.CH_LAST n) = sampleWordOf s n x0 l := by
  have hoff (a : Nat) (h : a = Reg.CH_LAST n ∨ a = Reg.CH_LAST_SEQ n) : offThresholds n ⟨a, 31, 0⟩ := by
    refine ⟨offEvents_chan hn ?_, ?_, ?_⟩
    all_goals
      simp only [Reg.CH_LAST, Reg.CH_LAST_SEQ, Reg.CH_TH_STATE] at h ⊢
      omega
  rw [deliver_eq, (thresholds_frame n _ _ e _).rd _ (hoff _ (.inr rfl)), (thresholds_frame n _ _ e _).rd _ (hoff _ (.inl rfl)), rd_wr_same]
  exact ⟨rfl, by rw [rd_wr_ne _ _ _ _ (by simp only [Reg.CH_LAST, Reg.CH_LAST_SEQ]; omega), rd_wr_same]⟩

/-- The sample's value stands in the upper bits of its word (R195). -/
theorem bits_sampleWord (s : State) (n : Nat) (y : Int) (ovr sat test gap : Bool) : bits (sampleWord s n y ovr sat test gap) 31 8 = toU 24 y := by
  have hy := toU_lt 24 y
  have hb (b : Bool) : b2n b < 2 := by cases b <;> decide
  have hst : s.get (.CH_CAL_OFS_STALE n) < 2 := bits_lt _ _ _
  have := hb ovr; have := hb sat; have := hb test; have := hb gap; have := hb (halfMast s)
  rw [sampleWord, bits, nbits, wd, BitVec.toNat_ofNat]
  simp only [mk]
  omega

end Deliver

end Sys2Proof.Machine
end

section
/-! PROOFS. The next output of a chain (R156, R185, R249), the mark of a modulator reset (R138), and the statement of their family. -/

namespace Sys2Proof.Machine

set_option Elab.async false

section Shown

variable {n : Nat} {s : State}

/-- Output `e` numbered: it is the chain's last one, and an intermediate value that clamped shows in OVF (R175, R185). -/
def numbered (n e seq : Nat) (ovf : Bool) (u : State) : State :=
  (wr (Reg.CH_SEQ n) (wd seq) (u.setChain n { u.chain n with last := e })).when ovf (·.set1 (.CH_FC_STATE_OVF n))

theorem numbered_frame (n e seq : Nat) (ovf : Bool) (u : State) :
    Frame chainsFrom (fun g => g.a ≠ Reg.CH_SEQ n ∧ g.a ≠ Reg.CH_FC_STATE n) u (numbered n e seq ovf u) := by
  have hset (x : ChainSt) : Frame chainsFrom (fun g => g.a ≠ Reg.CH_SEQ n ∧ g.a ≠ Reg.CH_FC_STATE n) u (u.setChain n x) := .of_regs rfl rfl
  have hseq := (hset { u.chain n with last := e }).wr (Reg.CH_SEQ n) (wd seq) fun _ hg => hg.1
  exact .ite (fun _ => hseq.put (.CH_FC_STATE_OVF n) _ fun _ hg => hg.2) fun _ => hseq

theorem numbered_shows (n e seq : Nat) (ovf : Bool) (u : State) :
    rd (numbered n e seq ovf u) (Reg.CH_SEQ n) = wd seq ∧ ((numbered n e seq ovf u).chain n).last = e := by
  have hlast (a : Nat) (w : Word) : ((wr a w (u.setChain n { u.chain n with last := e })).chain n).last = e := by
    rw [State.chain, wr_chains, State.setChain, kget_kset_same]
  cases ovf with
  | false => exact ⟨rd_wr_same _ _ _, hlast _ _⟩
  | true =>
    refine ⟨(rd_put_ne _ _ _ _ ?_).trans (rd_wr_same _ _ _), ?_⟩
    · simp only [Reg.CH_SEQ, Reg.CH_FC_STATE]
      omega
    · exact (congrArg (fun m => (kget {} m n).last) (State.put_chains _ _ _)).trans (hlast _ _)

/-- The chain's value of the output at edge `e` and whether it clamped, from the delayed periods in `u` (R175, R182). -/
def outputOf (u : State) (n e : Nat) (p : Par) : Int × Bool := chainX p (((delayed u (u.chain n) e).take (p.span + p.d)).map fun y => codeWord y.code)

/-- A chain's output that is due, once a reset ordered before it is taken up (R185). -/
theorem exec_chainOutput_due {n : Fin 256} {ps : List Period} {v u : State} {e : Nat} {x : ChainSt} (hv : v = takeUp n s) (hx : x = v.chain n)
    (hu : u = lineFill n (lineEdge x e) ps v) (hn : isAN n = true) (hon : x.cur.on = true) (hst : 0 < stepTicks v x.cur)
    (he : nextEdge v x.cur x.last = e) (hdue : outputDue v x e = true) : exec (.chainOutput n ps) s = .next
      (if suppressed v x.cur e then numbered n e (seqOf v x.cur e) (outputOf u n e (regPar u x.cur)).2 u
        else deliver n e (seqOf v x.cur e) (outputOf u n e (regPar u x.cur)).1 ((delayed u (u.chain n) e).take (regPar u x.cur).span)
          (numbered n e (seqOf v x.cur e) (outputOf u n e (regPar u x.cur)).2 u)) := by
  have hcond : (isAN n && x.cur.on && decide (0 < stepTicks v x.cur) && outputDue v x (nextEdge v x.cur x.last)) = true := by
    simp [hn, hon, hst, he, hdue]
  subst hv hx hu he
  show Host.Outcome.next (chainOutput n ps s) = _
  unfold chainOutput
  rw [if_pos hcond]
  rfl

/-- A chain without an ordered reset whose output is not due; and a channel without a chain. -/
theorem exec_chainOutput_idle {n : Fin 256} {ps : List Period} (h : isAN n = false ∨ ((s.chain n).nxt = none ∧ ((s.chain n).cur.on = false ∨
    outputDue s (s.chain n) (nextEdge s (s.chain n).cur (s.chain n).last) = false))) : exec (.chainOutput n ps) s = .next s := by
  show Host.Outcome.next (chainOutput n ps s) = _
  unfold chainOutput
  obtain hn | ⟨hnxt, hidle⟩ := h
  · rw [hn]
    rfl
  · have htake : takeUp n s = s := by simp only [takeUp, hnxt]
    rw [htake, if_neg]
    obtain hon | hdue := hidle
    · simp [hon]
    · simp [hdue]

end Shown

section Frames

variable {n : Nat}

/-- `s` with its registers, the chains' records, the banks of the dip, the tiles and the supervisor's taken from `t`. -/
def numberedFrom (s t : State) : State := { s with regs := t.regs, chains := t.chains, dips := t.dips, tiles := t.tiles, sv := t.sv }

/-- A field of none of the registers of chain `n`. -/
def offNumbered (n : Nat) (g : FldRef) : Prop := g.a ≠ Reg.CH_SEQ n ∧ offChain n g

/-- The line filled and the output numbered, from the state after the reset's taking up. -/
theorem filled_frame (n e seq : Nat) (ovf : Bool) (x : Int) (ps : List Period) (v : State) :
    Frame numberedFrom (fun g => g.a ≠ Reg.CH_SEQ n ∧ g.a ≠ Reg.CH_FC_STATE n) v (numbered n e seq ovf (lineFill n x ps v)) := by
  have hfill : Frame numberedFrom (fun g => g.a ≠ Reg.CH_SEQ n ∧ g.a ≠ Reg.CH_FC_STATE n) v (lineFill n x ps v) := (lineFill_frame n x ps v).mono fun _ hg => hg
  have hnum (u : State) : Frame numberedFrom (fun g => g.a ≠ Reg.CH_SEQ n ∧ g.a ≠ Reg.CH_FC_STATE n) u (numbered n e seq ovf u) :=
    (numbered_frame n e seq ovf u).mono fun _ hg => hg
  exact hfill.trans (hnum _)

theorem output_frame (n e seq : Nat) (ovf : Bool) (x : Int) (ps : List Period) (s : State) :
    Frame numberedFrom (offNumbered n) s (numbered n e seq ovf (lineFill n x ps (takeUp n s))) := by
  have htake : Frame numberedFrom (offNumbered n) s (takeUp n s) := (takeUp_frame n s).mono fun _ hg => hg.2
  exact htake.trans ((filled_frame n e seq ovf x ps _).mono fun _ hg => ⟨hg.1, (ne_of_offChain hg.2).1⟩)

/-- A delivered output beside the registers that it shows (R185, R203, R236). -/
theorem delivered_frame (n e seq : Nat) (ovf : Bool) (x : Int) (ps : List Period) (x0 : Int) (l : List LPer) (s : State) :
    Frame deliveredFrom (fun g => offEvents g ∧ g.a ≠ Reg.MOD_START ∧ offNumbered n g) s
      (deliver n e seq x0 l (numbered n e seq ovf (lineFill n x ps (takeUp n s)))) := by
  have hout : Frame deliveredFrom (fun g => offEvents g ∧ g.a ≠ Reg.MOD_START ∧ offNumbered n g) s (numbered n e seq ovf (lineFill n x ps (takeUp n s))) :=
    (output_frame n e seq ovf x ps s).mono fun _ hg => hg.2.2
  refine hout.trans ((deliver_frame n e seq x0 l _).mono fun g hg => ?_)
  obtain ⟨hev, hstart, hseq, hoff⟩ := hg
  obtain ⟨-, hlast, hlseq, h0, h1⟩ := ne_of_offChain hoff
  exact ⟨⟨hev, h0, h1⟩, hstart, hlast, hlseq⟩

/-- The sample registers and the numbers of a delivered output. -/
theorem rd_seq_deliver (hn : n < 256) (e seq : Nat) (x0 : Int) (l : List LPer) (s : State) :
    rd (deliver n e seq x0 l s) (Reg.CH_SEQ n) = rd s (Reg.CH_SEQ n) := by
  refine (deliver_frame n e seq x0 l s).rd _ ⟨⟨offEvents_chan hn ?_, ?_, ?_⟩, ?_, ?_, ?_⟩
  all_goals
    simp only [Reg.CH_SEQ, Reg.CH_TH_STATE, Reg.MOD_START, Reg.CH_LAST, Reg.CH_LAST_SEQ]
    omega

/-- The factors that correct a sample are those before the output (R156). -/
theorem sampleValue_output (n e seq : Nat) (ovf : Bool) (x : Int) (ps : List Period) (x0 : Int) (s : State) :
    sampleValue (numbered n e seq ovf (lineFill n x ps (takeUp n s))) n x0 =
      calCorrect (clip24 x0).1 (sext 24 (s.get (.CH_CAL_OFS_OFS n))) (s.get (.CH_CAL_GAIN_GAIN n)) := by
  have hoff (g : FldRef) (hg : g.a = Reg.CH_CAL_OFS n ∨ g.a = Reg.CH_CAL_GAIN n) : offNumbered n g := by
    simp only [offNumbered, offChain, chainReg, Bool.or_eq_false_iff, beq_eq_false_iff_ne, Reg.CH_SEQ, Reg.CH_FC_STATE, Reg.CH_LAST, Reg.CH_LAST_SEQ,
      Reg.CH_TH_STATE, Reg.CH_CAL_OFS, Reg.CH_CAL_GAIN] at hg ⊢
    omega
  rw [sampleValue, (output_frame n e seq ovf x ps s).get _ (hoff _ (.inl rfl)), (output_frame n e seq ovf x ps s).get _ (hoff _ (.inr rfl))]

end Frames

/-- Settles O30: an output is numbered, then suppressed or delivered; one that is not due changes nothing; a modulator reset leaves its mark. -/
theorem chainOutputs : Obligations.ChainOutputs := by
  unfold Obligations.ChainOutputs
  refine ⟨?suppressed, ?delivered, fun s n ps h => exec_chainOutput_idle h, ?mark, ?lost⟩
  case suppressed =>
    intro s n ps v e hn hv hon hst he hdue hsupp
    subst hv
    have hframe (x : Int) (ovf : Bool) := filled_frame n e (seqOf (takeUp n s) ((takeUp n s).chain n).cur e) ovf x ps (takeUp n s)
    have hout (x : Int) (ovf : Bool) := output_frame n e (seqOf (takeUp n s) ((takeUp n s).chain n).cur e) ovf x ps s
    have hne (a : Nat) (ha : a = Reg.CH_LAST n ∨ a = Reg.CH_LAST_SEQ n) : a ≠ Reg.CH_SEQ n ∧ a ≠ Reg.CH_FC_STATE n := by
      simp only [Reg.CH_SEQ, Reg.CH_FC_STATE, Reg.CH_LAST, Reg.CH_LAST_SEQ] at ha ⊢
      omega
    have hexec := exec_chainOutput_due rfl rfl rfl hn hon hst he hdue (ps := ps)
    rw [if_pos hsupp] at hexec
    obtain ⟨hseq, hlast⟩ := numbered_shows n e (seqOf (takeUp n s) ((takeUp n s).chain n).cur e) _ _
    exact ⟨_, hexec, hseq, hlast, (hframe _ _).rd _ (hne _ (.inl rfl)), (hframe _ _).rd _ (hne _ (.inr rfl)), (hout _ _).rest,
      fun a hs hc => (hout _ _).rd a ⟨hs, by simpa [offChain] using hc⟩⟩
  case delivered =>
    intro s n ps v e u hn hv hon hst he hdue hsupp hu
    have hpar : regPar u (v.chain n).cur = regPar v (v.chain n).cur := by
      rw [hu]
      exact (lineFill_frame (P := fun _ => True) n _ ps v).unchanged fun s => regPar s (v.chain n).cur
    have hexec := exec_chainOutput_due hv rfl hu hn hon hst he hdue
    rw [if_neg (by simp [hsupp]), hpar] at hexec
    subst hv hu
    obtain ⟨hseq, hlast⟩ := numbered_shows n e (seqOf (takeUp n s) ((takeUp n s).chain n).cur e) _ _
    have hframe (x : Int) (ovf : Bool) (x0 : Int) (l : List LPer) :=
      delivered_frame n e (seqOf (takeUp n s) ((takeUp n s).chain n).cur e) ovf x ps x0 l s
    obtain ⟨hlseq, hword⟩ := deliver_shows n.isLt e _ _ _ _
    refine ⟨_, hexec, (rd_seq_deliver n.isLt _ _ _ _ _).trans hseq, hlseq, ?_, (last_deliver _ _ _ _ _ _).trans hlast, (hframe _ _ _ _).rest,
      fun a hev hs hstart hc => (hframe _ _ _ _).rd a ⟨hev, hstart, hs, by simpa [offChain] using hc⟩⟩
    rw [hword, sampleWordOf, bits_sampleWord, sampleValue_output]
    rfl
  case mark =>
    intro s n hn hp hw
    show execModulatorLoopReset n s = _
    rw [execModulatorLoopReset, tileOf, hn, hp, hw]
    rfl
  case lost =>
    intro s n hn hp hw
    show execModulatorLoopReset n s = _
    rw [execModulatorLoopReset, tileOf, hn, hp, hw]
    rfl

end Sys2Proof.Machine
end

section
/-! PROOFS. A tile that starts (R491, R544) while a sweep holds it (R123): the sweep is abandoned, and the end of its permit ends the module's quiet time. -/

namespace Sys2Proof.Machine

set_option Elab.async false

variable {s : State} {t : Nat}

section Unquiet

/-- The end of a permit breaks the module's quiet time (R535). -/
theorem pw_permitEndT (a res tile : Nat) (s : State) : (permitEndT a res tile s).pw = { s.pw with quietAt := clk s } := by
  rw [permitEndT, (permitRecord_frame a res tile _).unchanged State.pw, (permitShow_frame a res 0 _).unchanged State.pw,
    (permitSet_frame a false _).unchanged State.pw]
  rfl

/-- The end of a SWEEP ends its permit, whatever tiles it held. -/
theorem pw_sweepEnd (result permit : Nat) (s : State) : (sweepEnd result permit s).pw = { s.pw with quietAt := clk s } := by
  rw [sweepEnd_eq, raiseIrq_pw, State.modCa_pw, permitEnd, pw_permitEndT, clk, (sweepShown_frame result s).unchanged State.pw,
    (sweepShown_frame result s).unchanged State.tu, (allReleased_frame s).unchanged State.pw, (allReleased_frame s).unchanged State.tu]
  rfl

end Unquiet

section Reset

/-- `s` with what a tile's reset changes beside the end of a sweep taken from `t`. -/
def tileResetFrom (s t : State) : State := { s with regs := t.regs, chans := t.chans, chains := t.chains, dips := t.dips, tiles := t.tiles, ca := t.ca }

theorem chanReset_rest (n : Nat) (s : State) : Frame outputsFrom noField s (chanReset n s) := by
  have hregs (l : List Nat) (u : State) : Frame outputsFrom noField u (l.foldl (fun s a => wr a (resetWord a) s) u) :=
    .each l _ u fun _ _ v => (Frame.refl v).wr _ _ fun _ hg => hg.elim
  have hput (f : FldRef) (v : Nat) (u : State) : Frame outputsFrom noField u (u.put f v) := (Frame.refl u).put _ _ fun _ hg => hg.elim
  unfold chanReset
  exact .ite (fun _ => ((hput _ _ s).trans (hregs _ _)).trans (modCh_frame _ n _)) fun _ =>
    .ite (fun _ => ((hput _ _ s).trans (hregs _ _)).trans (modCh_frame _ n _)) fun _ => (hregs [Reg.CH_DIAG n] s).trans (hput _ _ _)

/-- A reset of tile `t` before its safe state follows: channels and DAC reset, inject mode over, links down, and the causes of R87 as they then are. -/
def tileCleared (t : Nat) (o s : State) : State :=
  let s1 := (wr (Reg.TILE_TDAC t) (resetWord (Reg.TILE_TDAC t)) (s.each (tileChs t) chanReset)).each [12, 13, 14, 15] fun k s => setInject (16 * t + k) false s
  let s2 := ((s1.put (.TILE_FEED_LINK_A t) 0).put (.TILE_FEED_LINK_B t) 0).modTile t fun x =>
    { x with epoch := 0, obey := none, clk := none, holdC := false, holdAt := clk o, slot := none, scan := 0, lostA := false, lostB := false, retryA := false,
             retryB := false, woke := false }
  let s3 := winReset t ((((s2.set1 (.TILE_SAFE_IMAGE t)).set1 (.TILE_SAFE_RESET t)).put (.TILE_SAFE_HOLD t) 0).put (.TILE_SAFE_CNT_GAP t) 0)
  (s3.putB (.TILE_SAFE_WDOG t) (o.is .MOD_WDOG_EXPIRED)).putB (.TILE_SAFE_DOZE t) (o.pw.power == 3)

theorem tileReset_eq (t : Nat) (s : State) : tileReset t s =
    calLose t (safeRefresh t (tileCleared t s (if (s.tile t).sweep then sweepEnd caAbandoned prAbandoned s else s))) := rfl

theorem tileCleared_rest (t : Nat) (o s : State) : Frame tileResetFrom noField s (tileCleared t o s) := by
  have hput {u v : State} (h : Frame tileResetFrom noField u v) (f : FldRef) (x : Nat) : Frame tileResetFrom noField u (v.put f x) :=
    h.put _ _ fun _ hg => hg.elim
  have htile {u v : State} (h : Frame tileResetFrom noField u v) (F : TileSt → TileSt) : Frame tileResetFrom noField u (v.modTile t F) :=
    h.upd rfl rfl
  have hchans : Frame tileResetFrom noField s (s.each (tileChs t) chanReset) := .each _ _ s fun n _ u => (chanReset_rest n u).mono fun _ => id
  have hinj (u : State) : Frame tileResetFrom noField u (u.each [12, 13, 14, 15] fun k s => setInject (16 * t + k) false s) :=
    .each _ _ u fun k _ v => (setInject_frame _ false v).mono fun _ hg => hg.elim
  have hlinks := htile (hput (hput ((hchans.wr (Reg.TILE_TDAC t) (resetWord (Reg.TILE_TDAC t)) fun _ hg => hg.elim).trans (hinj _))
    (.TILE_FEED_LINK_A t) 0) (.TILE_FEED_LINK_B t) 0)
  have hwin {u v : State} (h : Frame tileResetFrom noField u v) : Frame tileResetFrom noField u (winReset t v) := htile (hput h _ _) _
  exact hput (hput (hwin (hput (hput (hput (hput (hlinks _) _ _) _ _) _ _) _ _)) _ _) _ _

/-- What a tile's reset changes once it has ended the sweep that held the tile (R123, R544). -/
theorem tileReset_rest (t : Nat) (s : State) :
    Frame tileResetFrom noField (if (s.tile t).sweep then sweepEnd caAbandoned prAbandoned s else s) (tileReset t s) := by
  have hsafe (u : State) : Frame tileResetFrom noField u (safeRefresh t u) := (safeRefresh_frame t u).mono fun _ hg => hg.elim
  have hlose (u : State) : Frame tileResetFrom noField u (calLose t u) := .ite (fun _ => .of_regs rfl rfl) fun _ => .refl u
  rw [tileReset_eq]
  exact ((tileCleared_rest t s _).trans (hsafe _)).trans (hlose _)

theorem pw_tileReset_swept (h : (s.tile t).sweep = true) : (tileReset t s).pw = { s.pw with quietAt := clk s } := by
  have hrest := tileReset_rest t s
  rw [if_pos h] at hrest
  exact (hrest.unchanged State.pw).trans (pw_sweepEnd _ _ s)

end Reset

section Start

/-- A tile that starts is held by a sweep if it was before. -/
theorem pw_tileStart_swept (hs : (s.tile t).sweep = true) (hon : s.pw.on = true) (hp : s.pw.power ≠ 4) :
    (tileStart t s).pw = { s.pw with quietAt := clk s } := by
  have hlevels (l : List Nat) : Frame regsFrom noField s
      (s.each l fun k s => (s.put (.CH_DI_STATE_LEVEL (16 * t + k)) 0).put (.CH_DI_STATE_RAW (16 * t + k)) 0) :=
    .each l _ s fun k _ u => ((Frame.refl u).put (.CH_DI_STATE_LEVEL (16 * t + k)) 0 fun _ hg => hg.elim).put _ _ fun _ hg => hg.elim
  rw [tileStart, if_neg (by simp [hon, hp]), pw_tileReset_swept, State.modTile_pw, (hlevels _).unchanged State.pw]
  · exact congrArg (fun e => { s.pw with quietAt := e }) ((hlevels _).unchanged clk)
  · rw [tile_modTile, (hlevels _).unchanged (State.tile · t)]
    exact hs

/-- A first feed that is OK again shows, and is recorded while a domain can (R491, R516). -/
def feedShown (x k : Nat) (s : State) : State :=
  let u := (s.putB (.TILE_FEED_A_OK x) true).put (.TILE_FEED_CARRY x) k
  if s.sv.anyActive ∧ s.pw.power ≠ 4 then svRecord 6 1 0 x 1 u else u

theorem feedShown_rest (x k : Nat) (s : State) : Frame queuedFrom noField s (feedShown x k s) := by
  have hshow : Frame queuedFrom noField s ((s.putB (.TILE_FEED_A_OK x) true).put (.TILE_FEED_CARRY x) k) := ((Frame.refl s).putAny _ _).putAny _ _
  exact .ite (fun _ => hshow.trans ((svRecord_frame 6 1 0 x 1 _).mono fun _ hg => hg.elim)) fun _ => hshow

/-- The feed of a tile without power returns while a sweep holds the tile. -/
theorem exec_tileFeedChange_swept {x : Fin 16} {k : Fin 4} (hf : s.is (.TILE_FEED_A_OK x) = false) (hp : (s.tile x).power = false)
    (hs : (s.tile x).sweep = true) (hon : s.pw.on = true) (hq : s.pw.power ≠ 4) :
    ∃ t, exec (.tileFeedChange x false true k) s = .next t ∧ t.pw = { s.pw with quietAt := clk s } := by
  have hstart : exec (.tileFeedChange x false true k) s = .next (tileStart x (feedShown x k s)) := by
    show Host.Outcome.next (feedChange x 1 true k s) = _
    simp [feedChange, feedShown, hf, hp, b2n]
  have hpw : (feedShown x k s).pw = s.pw := (feedShown_rest x k s).unchanged State.pw
  refine ⟨_, hstart, (pw_tileStart_swept ?_ (hpw ▸ hon) (hpw ▸ hq)).trans ?_⟩
  · exact (congrArg TileSt.sweep ((feedShown_rest x k s).unchanged (State.tile · x))).trans hs
  · rw [hpw, (feedShown_rest x k s).unchanged clk]

/-- Domain A is active, one clock edge after the module was last busy: tile 0 has no power, and a SWEEP has taken it, as SWEEP asks of no tile
whether it has power (`sweepAllowed`). -/
def sweptDark : State := tileTaken 0
  { pw := { on := true, power := 1 }, sv := { roleA := .active, anyActive := true }, ca := { swStep := some 0, swTiles := 1 },
    tu := { edges := 1 } }

theorem sweptDark_tile : (sweptDark.tile 0).sweep = true ∧ (sweptDark.tile 0).power = false ∧ sweptDark.is (.TILE_FEED_A_OK 0) = false := by decide

end Start

/-- Refutes O58: a tile without power can be held by a sweep (`sweptDark`); when its feed returns, the tile's reset abandons the sweep, and the end of its
permit restarts the module's quiet time (R535), where the statement asks that `pw` stay. -/
theorem not_permitsAndTiles : ¬ Obligations.PermitsAndTiles := by
  unfold Obligations.PermitsAndTiles
  rintro ⟨-, -, -, -, -, -, -, -, -, -, -, -, -, -, -, -, -, -, -, -, -, -, -, -, -, -, -, -, -, -, hstart, -⟩
  obtain ⟨hsweep, hpower, hfeed⟩ := sweptDark_tile
  obtain ⟨t, ht, -, -, -, -, -, -, hpw, -⟩ := hstart sweptDark 0 false 1 hfeed hpower rfl (by decide)
  obtain ⟨u, hu, hupw⟩ := exec_tileFeedChange_swept (x := 0) (k := 1) hfeed hpower hsweep rfl (by decide)
  obtain rfl : u = t := Host.Outcome.next.inj (hu.symm.trans ht)
  have hquiet : (1 : Nat) = 0 := congrArg PwSt.quietAt (hupw.symm.trans hpw)
  exact absurd hquiet (by decide)

end Sys2Proof.Machine
end

section
/-! PROOFS. A channel's filter settings (R184, R192, R196): what settling the channel after a change of them leaves. -/

namespace Sys2Proof.Machine

set_option Elab.async false

variable {n : Nat} {s : State}

section Settle

/-- A field outside the registers that a reset of channel `n`'s chain returns; and, beside those, CFG_ADJ: what settling the channel leaves. -/
def offFilter (n : Nat) (g : FldRef) : Prop := g.hi < 32 ∧ offChain n g
def offSettle (n : Nat) (g : FldRef) : Prop := offFilter n g ∨ g = .CH_FC_STATE_CFG_ADJ n

/-- Of `CH_FC_STATE` it leaves CFG_ADJ alone. -/
theorem apart_of_offSettle {f g : FldRef} (hf : f.a = Reg.CH_FC_STATE n) (hd : f.hi < 2 ∨ 2 < f.lo) (h : offSettle n g) : f.apart g ∧ g.hi < 32 := by
  obtain ⟨hi, hoff⟩ | rfl := h
  · exact ⟨.inl (hf ▸ (ne_of_offChain hoff).1.symm), hi⟩
  · exact ⟨.inr hd, by simp⟩

/-- The latest sample and the thresholds' states are none of its fields. -/
theorem ne_of_offSettle {g : FldRef} (h : offSettle n g) :
    g.a ≠ Reg.CH_LAST n ∧ g.a ≠ Reg.CH_LAST_SEQ n ∧ g.a ≠ Reg.CH_TH_STATE n 0 ∧ g.a ≠ Reg.CH_TH_STATE n 1 := by
  obtain ⟨-, hoff⟩ | rfl := h
  · exact (ne_of_offChain hoff).2
  · simp only [Reg.CH_FC_STATE, Reg.CH_LAST, Reg.CH_LAST_SEQ, Reg.CH_TH_STATE]
    omega

theorem takeUp_settle (n : Nat) (s : State) : Frame resetsFrom (offSettle n) s (takeUp n s) := by
  unfold takeUp
  extract_lets x
  split
  case h_1 => exact .refl s
  case h_2 r _ =>
    refine .ite (fun _ => ?_) fun _ => .refl s
    have hlast (x : ChainSt) := ((setChain_frame (P := offSettle n) n x s).wr (Reg.CH_LAST_SEQ n) 0 fun _ hg => (ne_of_offSettle hg).2.1).wr
      (Reg.CH_LAST n) 0xC0 fun _ hg => (ne_of_offSettle hg).1
    have hth (x : ChainSt) := ((hlast x).wr (Reg.CH_TH_STATE n 1) 0 fun _ hg => (ne_of_offSettle hg).2.2.2).wr (Reg.CH_TH_STATE n 0) 0
      fun _ hg => (ne_of_offSettle hg).2.2.1
    exact ((hth _).putApart (.CH_FC_STATE_PRESET_EFF n) _ (by simp) fun _ => apart_of_offSettle rfl (by simp)).trans (dipPatch_resets _ _ _)

theorem orderReset_settle (n : Nat) (sync : Bool) (r : Regime) (s : State) : Frame resetsFrom (offSettle n) s (orderReset n sync r s) :=
  .ite (fun _ => (setChain_frame n _ s).trans (takeUp_settle n _)) fun _ => setChain_frame n _ s

theorem presetRestart_settle (n : Nat) (s : State) : Frame resetsFrom (offSettle n) s (presetRestart n s) :=
  .ite (fun _ => orderReset_settle n _ _ s) fun _ => setChain_frame n _ s

theorem fcRefresh_settle (n : Nat) (s : State) : Frame resetsFrom (offSettle n) s (fcRefresh n s) :=
  (((Frame.refl s).putApart (.CH_FC_STATE_CFG_ERR n) _ le_rfl fun _ => apart_of_offSettle rfl (by simp)).putApart (.CH_FC_STATE_UNAVAIL n) _ le_rfl
    fun _ => apart_of_offSettle rfl (by simp)).putApart (.CH_FC_STATE_DCG_NE1 n) _ le_rfl fun _ => apart_of_offSettle rfl (by simp)

theorem fcSettle_frame (n : Nat) (o s : State) : Frame resetsFrom (offSettle n) s (fcSettle n o s) :=
  .ite (fun _ => fcRefresh_settle n s) fun _ => (fcRefresh_settle n s).trans (presetRestart_settle n _)

theorem delayReset_frame (n : Nat) (s : State) : Frame resetsFrom (offChain n) s (delayReset n s) :=
  .ite (fun _ => orderReset_frame n _ _ s) fun _ => .refl s

/-- The registers of a channel's settings are none that a reset of channel `n`'s chain returns. -/
theorem offFilter_of_mod {g : FldRef} (hi : g.hi < 32) (h : g.a % 0x100 < 0xAC) : offFilter n g := by
  refine ⟨hi, ?_⟩
  simp only [offChain, chainReg, Bool.or_eq_false_iff, beq_eq_false_iff_ne, Reg.CH_FC_STATE, Reg.CH_LAST, Reg.CH_LAST_SEQ, Reg.CH_TH_STATE]
  omega

theorem offFilter_of_reg {a : Nat} (h : ¬ (chainReg n a = true)) : offFilter n ⟨a, 31, 0⟩ := ⟨by simp, by simpa [offChain] using h⟩

end Settle

section Stored

/-- A setting stored at `a`, and what follows from it for the channel's chain. -/
theorem stored_spec {a : Nat} {w : Word} {m : WMask} {t : State} (ha : a % 0x100 < 0xAC) (h : Frame resetsFrom (offFilter n) (store a m w s) t) :
    rd t a = storedWord m (rd s a) w ∧ t = resetsFrom s t ∧ ∀ b, b ≠ a → ¬ (chainReg n b = true) → rd t b = rd s b := by
  have hstore : Frame resetsFrom (fun g => g.a ≠ a ∧ offFilter n g) s (store a m w s) := (Frame.refl s).wr _ _ fun _ hg => hg.1
  have hall := hstore.trans (h.mono fun _ => And.right)
  exact ⟨(h.rd a (offFilter_of_mod (by simp) ha)).trans (rd_wr_same _ _ _), hall.rest, fun b hb hc => hall.rd b ⟨hb, offFilter_of_reg hc⟩⟩

end Stored

section Config

variable {r : Req} {n : Fin 256} {w : Word}

/-- The PRESET that a write stores: DEEP for 12 to 15 (R196). -/
def presetUsed (w : Word) : Nat := if 12 ≤ bits w 3 0 then 1 else bits w 3 0

theorem presetUsed_lt (w : Word) : presetUsed w < 2 ^ 4 := by
  have := bits_lt w 3 0
  unfold presetUsed
  split <;> omega

theorem exec_fcCfgWrite (hn : isAN n = true) (ha : Admitted s r (Reg.CH_FC_CFG n) Msk.CH_FC_CFG) :
    exec (.fcCfgWrite r n false w) s = .next (fcCfgWrite n w s) := by
  show execFcCfgWrite r n false w s = _
  rw [execFcCfgWrite, if_pos hn, if_neg (by simp), regWrite_admitted _ _ _ _ _ _ ha]

theorem exec_fcShiftWrite (hn : isAN n = true) (ha : Admitted s r (Reg.CH_FC_SHIFT n) Msk.CH_FC_SHIFT) :
    exec (.fcCfgWrite r n true w) s = .next (fcShiftWrite n w s) := by
  show execFcCfgWrite r n true w s = _
  rw [execFcCfgWrite, if_pos hn, if_pos rfl, regWrite_admitted _ _ _ _ _ _ ha]

theorem exec_pdelayWrite (hn : isAN n = true) (ha : Admitted s r (Reg.CH_FC_DELAY n) Msk.CH_FC_DELAY) :
    exec (.pdelayWrite r n w) s = .next (fcDelayWrite n w s) := by
  show execPdelayWrite r n w s = _
  rw [execPdelayWrite, if_pos hn, regWrite_admitted _ _ _ _ _ _ ha]

/-- Whether a write of `CH_FC_CFG` shows in CFG_ADJ (R192, R196). -/
def cfgAdjusted (w : Word) : Bool := decide (12 ≤ bits w 3 0) || (bitAt w 12 && decide (bits w 3 0 < 8))

theorem fcCfgWrite_eq (n : Nat) (w : Word) (s : State) : fcCfgWrite n w s = fcSettle n s
    ((store (Reg.CH_FC_CFG n) Msk.CH_FC_CFG (setBits w 3 0 (presetUsed w)) s).putB (.CH_FC_STATE_CFG_ADJ n) (cfgAdjusted w)) := by
  have hadj : (decide (bits w 3 0 ≠ presetUsed w) || (bitAt w 12 && decide (presetUsed w < 8))) = cfgAdjusted w := by
    unfold presetUsed cfgAdjusted
    by_cases h : 12 ≤ bits w 3 0
    · have hne : bits w 3 0 ≠ 1 := by omega
      simp [h, hne]
    · simp [h]
  rw [← hadj]
  rfl

/-- `CH_FC_CFG` after a write of it, CFG_ADJ, and what else may have changed (R184, R192, R196). -/
theorem fcCfgWrite_spec (n : Nat) (w : Word) (s : State) :
    rd (fcCfgWrite n w s) (Reg.CH_FC_CFG n) = storedWord Msk.CH_FC_CFG (rd s (Reg.CH_FC_CFG n)) (setBits w 3 0 (presetUsed w)) ∧
      fcCfgWrite n w s = resetsFrom s (fcCfgWrite n w s) ∧
      ∀ b, b ≠ Reg.CH_FC_CFG n → ¬ (chainReg n b = true) → rd (fcCfgWrite n w s) b = rd s b := by
  refine stored_spec (by simp only [Reg.CH_FC_CFG]; omega) ?_
  rw [fcCfgWrite_eq]
  have hadj (u : State) : Frame resetsFrom (offFilter n) u (u.putB (.CH_FC_STATE_CFG_ADJ n) (cfgAdjusted w)) :=
    (Frame.refl u).put _ _ fun _ hg => (ne_of_offChain hg.2).1
  exact (hadj _).trans ((fcSettle_frame n s _).mono fun _ => .inl)

theorem cfgAdj_fcCfgWrite (n : Nat) (w : Word) (s : State) : (fcCfgWrite n w s).is (.CH_FC_STATE_CFG_ADJ n) = cfgAdjusted w := by
  rw [fcCfgWrite_eq, (fcSettle_frame n s _).is _ (.inr rfl)]
  exact is_putB _ _ _ (by simp) (by simp)

/-- The fields of the stored word that the write carries (R184, R192). -/
theorem fields_fcCfgWrite (n : Nat) (w : Word) (s : State) : (fcCfgWrite n w s).get (.CH_FC_CFG_PRESET n) = presetUsed w ∧
    (fcCfgWrite n w s).is (.CH_FC_CFG_SHIFT_OWN n) = bitAt w 12 := by
  obtain ⟨hword, -, -⟩ := fcCfgWrite_spec n w s
  have hpreset : ∀ k, 0 ≤ k → k ≤ 3 → (Msk.CH_FC_CFG.rwl ||| Msk.CH_FC_CFG.rw).testBit k = true := fun k _ hk => by interval_cases k <;> decide
  have hown : ∀ k, 12 ≤ k → k ≤ 12 → (Msk.CH_FC_CFG.rwl ||| Msk.CH_FC_CFG.rw).testBit k = true := fun k h1 h2 => by interval_cases k; decide
  constructor
  · rw [State.get, hword, bits_storedWord _ _ (by simp) hpreset rfl, bits_setBits _ _ _ _ (by simp) (by simp)]
    exact Nat.mod_eq_of_lt (presetUsed_lt w)
  · rw [State.is, State.get, hword, bits_storedWord _ _ (by simp) hown rfl, bits_setBits_ne _ _ _ _ _ _ (by simp) (by simp) (.inr (by simp))]
    simp [bits, nbits, bitAt, Nat.testBit_eq_decide_div_mod_eq, beq_eq_decide]

theorem fcShiftWrite_spec (n : Nat) (w : Word) (s : State) :
    rd (fcShiftWrite n w s) (Reg.CH_FC_SHIFT n) = storedWord Msk.CH_FC_SHIFT (rd s (Reg.CH_FC_SHIFT n)) w ∧
      fcShiftWrite n w s = resetsFrom s (fcShiftWrite n w s) ∧
      ∀ b, b ≠ Reg.CH_FC_SHIFT n → ¬ (chainReg n b = true) → rd (fcShiftWrite n w s) b = rd s b :=
  stored_spec (by simp only [Reg.CH_FC_SHIFT]; omega) ((fcSettle_frame n s _).mono fun _ => .inl)

theorem fcDelayWrite_spec (n : Nat) (w : Word) (s : State) :
    rd (fcDelayWrite n w s) (Reg.CH_FC_DELAY n) = storedWord Msk.CH_FC_DELAY (rd s (Reg.CH_FC_DELAY n)) w ∧
      fcDelayWrite n w s = resetsFrom s (fcDelayWrite n w s) ∧
      ∀ b, b ≠ Reg.CH_FC_DELAY n → ¬ (chainReg n b = true) → rd (fcDelayWrite n w s) b = rd s b :=
  stored_spec (by simp only [Reg.CH_FC_DELAY]; omega) (.ite (fun _ => .refl _) fun _ => (delayReset_frame n _).mono fun _ => And.right)

/-- The phase delay that a write stores (R183). -/
theorem pdelay_fcDelayWrite (n : Nat) (w : Word) (s : State) : (fcDelayWrite n w s).get (.CH_FC_DELAY_PDELAY n) = bits w 11 0 := by
  obtain ⟨hword, -, -⟩ := fcDelayWrite_spec n w s
  have hmask : ∀ k, 0 ≤ k → k ≤ 11 → (Msk.CH_FC_DELAY.rwl ||| Msk.CH_FC_DELAY.rw).testBit k = true := fun k _ hk => by interval_cases k <;> decide
  rw [State.get, hword, bits_storedWord _ _ (by simp) hmask rfl]

end Config

end Sys2Proof.Machine
end

section
/-! PROOFS. User preset records (R189 to R193, R201): a record as it is written, and what is recomputed from it. -/

namespace Sys2Proof.Machine

set_option Elab.async false

section Record

variable {x : Nat} {s t : State}

/-- The writable registers of a record (R201), and those in which its recomputation shows. -/
def recordSet (x a : Nat) : Prop := Reg.PR_CIC x ≤ a ∧ a < Reg.PR_STAT x ∨ Reg.PR_TAP x 0 ≤ a ∧ a < Reg.PR_TAP x 64
def recordShown (x a : Nat) : Prop := a = Reg.PR_STAT x ∨ a = Reg.PR_LEN x ∨ a = Reg.PR_DEC x ∨ a = Reg.PR_GD x ∨ a = Reg.FC_STAT

theorem recordSet_of_mask {o : Nat} {m : WMask} (ho : recordMask o = some m) : recordSet x (Reg.PR_CIC x + o) := by
  have hrange : o < 0x18 ∨ 0x100 ≤ o ∧ o < 0x200 := by
    unfold recordMask at ho
    split_ifs at ho <;> omega
  simp only [recordSet, Reg.PR_CIC, Reg.PR_STAT, Reg.PR_TAP]
  omega

theorem not_recordShown {a : Nat} (h : recordSet x a) : ¬ recordShown x a := by
  simp only [recordSet, recordShown, Reg.PR_CIC, Reg.PR_STAT, Reg.PR_TAP, Reg.PR_LEN, Reg.PR_DEC, Reg.PR_GD, Reg.FC_STAT] at h ⊢
  omega

theorem prRefresh_frame (x : Nat) (s : State) : Frame resetsFrom (fun g => ¬ recordShown x g.a) s (prRefresh x s) := by
  have hput {u : State} (h : Frame resetsFrom (fun g => ¬ recordShown x g.a) s u) (f : FldRef) (v : Nat)
      (hf : recordShown x f.a := by simp [recordShown]) : Frame resetsFrom (fun g => ¬ recordShown x g.a) s (u.put f v) :=
    h.put _ _ fun _ hg e => hg (e ▸ hf)
  exact hput (hput (hput (hput (hput (hput (hput (hput (hput (.refl s) (.PR_STAT_ERR x) _) (.PR_STAT_DCG_NE1 x) _) (.PR_STAT_SUPP_LOW x) _)
    (.PR_STAT_LEAN_NA x) _) (.PR_STAT_SUPP_EFF x) _) (.PR_LEN_LEN x) _) (.PR_DEC_DEC x) _) (.PR_GD_GD x) _) _ _

/-- Parameters and error of a record follow from its writable registers (R173, R189). -/
theorem prErr_of_frame {f : State → State → State} {P : FldRef → Prop} (h : Frame f P s t) (hP : ∀ g, recordSet x g.a → g.hi < 32 → P g) :
    prErr t x = prErr s x := by
  have hget (g : FldRef) (hi : g.hi < 32 := by simp) (ha : recordSet x g.a := by
      simp only [recordSet, Reg.PR_CIC, Reg.PR_NORM, Reg.PR_FILT, Reg.PR_AVG, Reg.PR_SUPP, Reg.PR_STAT, Reg.PR_TAP]
      omega) : t.get g = s.get g := h.get g (hP g ha hi)
  have htaps : prTaps t x = prTaps s x := by
    rw [prTaps, prTaps, hget (.PR_FILT_TAPS x)]
    exact List.map_congr_left fun j hj => by
      have hj := List.mem_range.mp hj
      rw [hget (.PR_TAP_TAP x j)]
  have hshift : rd t (Reg.PR_SHIFT x) = rd s (Reg.PR_SHIFT x) :=
    h.rd _ (hP _ (by simp only [recordSet, Reg.PR_CIC, Reg.PR_SHIFT, Reg.PR_STAT]; omega) (by simp))
  have hpar : prPar t x none = prPar s x none := by
    simp only [prPar, Option.getD_none, htaps, hshift, hget (.PR_CIC_ORDER x), hget (.PR_CIC_RATIO x), hget (.PR_NORM_NORM x), hget (.PR_FILT_HBN x),
      hget (.PR_FILT_DEC x), hget (.PR_AVG_A1 x), hget (.PR_AVG_A2 x), hget (.PR_AVG_M2 x)]
  have hsupp (p : Par) : suppSet t x p = suppSet s x p := by rw [suppSet, suppSet, hget (.PR_SUPP_SET x)]
  have hlean : t.is (.PR_CIC_LEANDIV x) = s.is (.PR_CIC_LEANDIV x) := by rw [State.is, State.is, hget (.PR_CIC_LEANDIV x)]
  simp only [prErr, hpar, hsupp, hlean, hget (.PR_FILT_TAPS x)]

/-- ERR shows whether the record is in error (R189). -/
theorem err_prRefresh (x : Nat) (s : State) : (prRefresh x s).is (.PR_STAT_ERR x) = prErr (prRefresh x s) x := by
  have hshown : (prRefresh x s).is (.PR_STAT_ERR x) = prErr s x := by
    simp only [prRefresh, State.is, State.putB]
    rw [get_put_ne _ _ _ _ (by simp only [Reg.PR_STAT, Reg.FC_STAT]; omega), get_put_ne _ _ _ _ (by simp [Reg.PR_STAT, Reg.PR_GD])]
    iterate 2 rw [get_put_ne _ _ _ _ (by simp [Reg.PR_STAT, Reg.PR_LEN, Reg.PR_DEC])]
    iterate 4 rw [get_put_apart _ _ _ _ (by simp) (by simp) (by simp [FldRef.apart])]
    exact is_putB s _ _ (by simp) (by simp)
  rw [hshown, prErr_of_frame (prRefresh_frame x s) fun _ hg _ => not_recordShown hg]

end Record

section Write

variable {s : State}

/-- The channels that select record `x` follow a write of it, `b` being the state before the write (R189 to R193). -/
def recordFollow (x : Nat) (b s : State) : State := s.each anChs fun n t => if s.get (.CH_FC_CFG_PRESET n) = x then fcSettle n b t else t

theorem recordFollow_frame (x : Nat) (b s : State) : Frame resetsFrom (fun g => g.hi < 32 ∧ offChains g) s (recordFollow x b s) :=
  .each _ _ s fun n hn u => .ite (fun _ => (fcSettle_frame n b u).mono fun _ hg => .inl ⟨hg.1, not_chainReg_of_anyChainReg hn hg.2⟩) fun _ => .refl u

/-- The records are registers of no channel. -/
theorem lt_of_record {x : Nat} (hx : x < 12) {a : Nat} (h : recordSet x a ∨ a = Reg.PR_STAT x) : a < 0x20000 := by
  simp only [recordSet, Reg.PR_CIC, Reg.PR_STAT, Reg.PR_TAP] at h
  omega

/-- The chains' resets leave a record and whether it is in error (R189, R201). -/
theorem recordFollow_spec {x : Nat} (hx : x < 12) (b s : State) : (∀ a, recordSet x a → rd (recordFollow x b s) a = rd s a) ∧
    (recordFollow x b s).is (.PR_STAT_ERR x) = s.is (.PR_STAT_ERR x) ∧ prErr (recordFollow x b s) x = prErr s x := by
  have hoff (g : FldRef) (hi : g.hi < 32) (h : recordSet x g.a ∨ g.a = Reg.PR_STAT x) : g.hi < 32 ∧ offChains g :=
    ⟨hi, offChains_of_lt (lt_of_record hx h)⟩
  exact ⟨fun a ha => (recordFollow_frame x b s).rd a (hoff _ (by simp) (.inl ha)), (recordFollow_frame x b s).is _ (hoff _ (by simp) (.inr rfl)),
    prErr_of_frame (recordFollow_frame x b s) fun g hg hi => hoff g hi (.inl hg)⟩

/-- A field that a write of record `x` at offset `o` leaves. -/
def offRecord (x o : Nat) (g : FldRef) : Prop := g.a ≠ Reg.PR_CIC x + o ∧ ¬ recordShown x g.a ∧ g.hi < 32 ∧ offChains g

/-- A written record: stored, recomputed and followed (R189 to R193, R201). -/
theorem recordWrite_spec {x o : Nat} {m : WMask} {w : Word} (hx : x < 12) (ho : recordMask o = some m) (hu : recordInUse s x = false) :
    rd (recordWrite x o m w s) (Reg.PR_CIC x + o) = storedWord m (rd s (Reg.PR_CIC x + o)) w ∧
      (recordWrite x o m w s).is (.PR_STAT_ERR x) = prErr (recordWrite x o m w s) x ∧
      Frame resetsFrom (offRecord x o) s (recordWrite x o m w s) := by
  have heq : recordWrite x o m w s = recordFollow x s (prRefresh x (store (Reg.PR_CIC x + o) m w s)) := by
    rw [recordWrite, if_neg (by simp [hu])]
    rfl
  obtain ⟨hset, herr, hpr⟩ := recordFollow_spec hx s (prRefresh x (store (Reg.PR_CIC x + o) m w s))
  have hmask : recordSet x (Reg.PR_CIC x + o) := recordSet_of_mask ho
  have hstore : Frame resetsFrom (offRecord x o) s (store (Reg.PR_CIC x + o) m w s) :=
    (Frame.refl s).wr _ _ fun _ hg => hg.1
  have hrefresh := prRefresh_frame x (store (Reg.PR_CIC x + o) m w s)
  rw [heq]
  have hall := (hstore.trans (hrefresh.mono fun _ hg => hg.2.1)).trans ((recordFollow_frame x s _).mono fun _ hg => hg.2.2)
  refine ⟨?_, by rw [herr, hpr, err_prRefresh], hall⟩
  rw [hset _ hmask, hrefresh.rd _ (not_recordShown hmask), store, rd_wr_same]

theorem exec_presetRecordWrite {r : Req} {x : Fin 4} {o : Nat} {m : WMask} {w : Word} (ho : recordMask o = some m)
    (ha : Admitted s r (Reg.PR_CIC (8 + x) + o) m) : exec (.presetRecordWrite r x o w) s = .next (recordWrite (8 + x) o m w s) := by
  show execPresetRecordWrite r x o w s = _
  simp only [execPresetRecordWrite, ho, regWrite_admitted _ _ _ _ _ _ ha]

theorem exec_presetRecordWrite_none {r : Req} {x : Fin 4} {o : Nat} {w : Word} (ho : recordMask o = none) :
    exec (.presetRecordWrite r x o w) s = .next s := by
  show execPresetRecordWrite r x o w s = _
  simp only [execPresetRecordWrite, ho]

end Write

end Sys2Proof.Machine
end

section
/-! PROOFS. A threshold's settings (R204, R206) and the return of a tile's link (R176), and the statement of the filter settings. -/

namespace Sys2Proof.Machine

set_option Elab.async false

section Threshold

/-- A threshold's setting is stored, and its state becomes undefined (R204). -/
theorem thWrite_eq (n x : Nat) (k : Fin 3) (w : Word) (s : State) : thWrite n x k w s =
    wr (Reg.CH_TH_STATE n x) 0 (wr (Reg.CH_TH_CFG n x + 4 * k) (storedWord (thMask k) (rd s (Reg.CH_TH_CFG n x + 4 * k)) w) s) := by
  have hlevel : Reg.CH_TH_LEVEL n x = Reg.CH_TH_CFG n x + 4 * 1 := by simp only [Reg.CH_TH_LEVEL, Reg.CH_TH_CFG]; omega
  have hhyst : Reg.CH_TH_HYST n x = Reg.CH_TH_CFG n x + 4 * 2 := by simp only [Reg.CH_TH_HYST, Reg.CH_TH_CFG]; omega
  match k with
  | 0 => rfl
  | 1 => simp only [thWrite, store, hlevel]; rfl
  | 2 => simp only [thWrite, store, hhyst]; rfl

theorem exec_thresholdWrite {s : State} {r : Req} {n : Fin 256} {x : Fin 2} {k : Fin 3} {w : Word} (hn : isAN n = true)
    (ha : Admitted s r (Reg.CH_TH_CFG n x + 4 * k) (thMask k)) : exec (.thresholdWrite r n x k w) s = .next (thWrite n x k w s) := by
  show execThresholdWrite r n x k w s = _
  rw [execThresholdWrite, if_pos hn, regWrite_admitted _ _ _ _ _ _ ha]

end Threshold

section Link

variable {s : State} {t : Fin 16} {d : Dom}

/-- The link of tile `t` to domain `d` was lost for more than 1 ms, and as it shows once trained again (R176). -/
def linkLost1ms (s : State) (t : Nat) (d : Dom) : Bool := byDom d (s.tile t).lostA (s.tile t).lostB
def linkBack (t : Nat) (d : Dom) (s : State) : State :=
  byDom d ((s.modTile t fun x => { x with lostA := false }).set1 (.TILE_FEED_LINK_A t)) ((s.modTile t fun x => { x with lostB := false }).set1
    (.TILE_FEED_LINK_B t))

/-- The chains of tile `t` meet a discontinuity (R184). -/
def tileDiscont (t : Nat) (s : State) : State := s.each [12, 13, 14, 15] fun k u => discont (16 * t + k) u

theorem exec_linkFramesResume (t : Fin 16) (d : Dom) (s : State) : exec (.linkFramesResume t d) s =
    .next (if linkLost1ms s t d then if activeDom s = some d then tileDiscont t (linkBack t d s) else linkBack t d s else s) := by
  cases d <;> rfl

/-- A tile's analog channels. -/
theorem mem_anChs_of_tile {t k : Nat} (ht : t < 16) (hk : k ∈ [12, 13, 14, 15]) : 16 * t + k ∈ anChs := by
  have hk' : 12 ≤ k ∧ k < 16 := by simp at hk; omega
  refine List.mem_map.mpr ⟨4 * t + (k - 12), List.mem_range.mpr (by omega), ?_⟩
  rw [anCh]
  omega

theorem tileDiscont_frame {t : Nat} (ht : t < 16) (s : State) : Frame resetsFrom offChains s (tileDiscont t s) :=
  .each _ _ s fun _ hk u => (discont_frame _ u).mono fun _ hg => not_chainReg_of_anyChainReg (mem_anChs_of_tile ht hk) hg

/-- The link shows trained, and nothing else of the registers changes. -/
theorem linkBack_spec (t : Nat) (d : Dom) (s : State) : linkLost1ms (linkBack t d s) t d = false ∧ linkUp (linkBack t d s) t d = true ∧
    Frame sweptFrom (fun g => g.a ≠ Reg.TILE_FEED t) s (linkBack t d s) := by
  have htile (F : TileSt → TileSt) : Frame sweptFrom (fun g => g.a ≠ Reg.TILE_FEED t) s (s.modTile t F) := .of_regs rfl rfl
  have hlost (F : TileSt → TileSt) (f : FldRef) : ((s.modTile t F).set1 f).tile t = F (s.tile t) := tile_modTile s t F
  cases d with
  | a => exact ⟨congrArg TileSt.lostA (hlost _ _), is_set1 _ _ (by simp) (by simp), (htile _).put _ _ fun _ hg => hg⟩
  | b => exact ⟨congrArg TileSt.lostB (hlost _ _), is_set1 _ _ (by simp) (by simp), (htile _).put _ _ fun _ hg => hg⟩

/-- The active domain's link returns: the tile's chains are reset (R176, R184). -/
theorem linkFramesResume_active (hl : linkLost1ms s t d = true) (hd : activeDom s = some d) : ∃ t', exec (.linkFramesResume t d) s = .next t' ∧
    linkLost1ms t' t d = false ∧ linkUp t' t d = true ∧ t' = sweptFrom s t' ∧
    ∀ a, a ≠ Reg.TILE_FEED t → ¬ (anyChainReg a = true) → rd t' a = rd s a := by
  obtain ⟨hlost, hup, hback⟩ := linkBack_spec t d s
  have hreset := tileDiscont_frame t.isLt (linkBack t d s)
  have hall : Frame sweptFrom (fun g => g.a ≠ Reg.TILE_FEED t ∧ offChains g) s (tileDiscont t (linkBack t d s)) :=
    (hback.mono fun _ => And.left).trans (hreset.mono fun _ => And.right)
  have hlink (g : FldRef) (hg : g.a = Reg.TILE_FEED t) : offChains g := offChains_of_lt (by rw [hg, Reg.TILE_FEED]; omega)
  refine ⟨_, by rw [exec_linkFramesResume, if_pos hl, if_pos hd], ?_, ?_, hall.rest, fun a ha hc => hall.rd a ⟨ha, hc⟩⟩
  · exact (hreset.unchanged (linkLost1ms · t d)).trans hlost
  · refine Eq.trans ?_ hup
    cases d with
    | a => exact hreset.is _ (hlink _ rfl)
    | b => exact hreset.is _ (hlink _ rfl)

theorem linkFramesResume_other (hl : linkLost1ms s t d = true) (hd : activeDom s ≠ some d) : exec (.linkFramesResume t d) s = .next (linkBack t d s) := by
  rw [exec_linkFramesResume, if_pos hl, if_neg hd]

end Link

/-- Settles O29: a setting is stored and its channel settled, which leaves all but the chain's registers and keeps CFG_ADJ; a record in use is not written,
another one is recomputed; a link that returns shows it. -/
theorem filterSettings : Obligations.FilterSettings := by
  unfold Obligations.FilterSettings
  refine ⟨?config, ?shift, ?delay, ?inUse, ?record, fun s r x o w ho => exec_presetRecordWrite_none ho, ?threshold,
    fun s t hl hd => linkFramesResume_other (d := .a) hl hd, fun s t hl hd => linkFramesResume_other (d := .b) hl hd,
    fun s t hl hd => linkFramesResume_active (d := .a) hl hd, fun s t hl hd => linkFramesResume_active (d := .b) hl hd, ?idle⟩
  case config =>
    intro s r n w hn ha
    obtain ⟨hword, hrest, hrd⟩ := fcCfgWrite_spec n w s
    obtain ⟨hpreset, hown⟩ := fields_fcCfgWrite n w s
    exact ⟨_, exec_fcCfgWrite hn ha, hpreset, hown, hword, cfgAdj_fcCfgWrite n w s, hrest, hrd⟩
  case shift =>
    intro s r n w hn ha
    exact ⟨_, exec_fcShiftWrite hn ha, fcShiftWrite_spec n w s⟩
  case delay =>
    intro s r n w hn ha
    obtain ⟨-, hrest, hrd⟩ := fcDelayWrite_spec n w s
    exact ⟨_, exec_pdelayWrite hn ha, pdelay_fcDelayWrite n w s, hrest, hrd⟩
  case inUse =>
    intro s r x o m w ho ha hu
    rw [exec_presetRecordWrite ho ha, recordWrite, if_pos hu, show 16 + (8 + x.val - 8) = 16 + x.val by omega]
  case record =>
    intro s r x o m w ho ha hu
    obtain ⟨hword, herr, hframe⟩ := recordWrite_spec (w := w) (by omega) ho hu
    refine ⟨_, exec_presetRecordWrite ho ha, hword, herr, hframe.rest, fun a hao hstat hlen hdec hgd hfc hc => hframe.rd a ⟨hao, ?_, by simp, hc⟩⟩
    simp only [recordShown, not_or]
    exact ⟨hstat, hlen, hdec, hgd, hfc⟩
  case threshold =>
    intro s r n x k w hn ha
    rw [exec_thresholdWrite hn ha, thWrite_eq]
  case idle =>
    intro s t d h
    have hl : linkLost1ms s t d = false := by
      cases d with
      | a => exact h.1 rfl
      | b => exact h.2 rfl
    rw [exec_linkFramesResume, hl]
    rfl

end Sys2Proof.Machine
end

section
/-! PROOFS. Flags of `MOD_IRQ` (R216) that a write into a queue, a pennant and the triggers of contexts do not raise. -/

namespace Sys2Proof.Machine

set_option Elab.async false

variable {s t : State} {g : FldRef} {b : Nat}

/-- The flags of `MOD_IRQ` that an event itself may raise (R211, R216, R239). -/
def raisedByEvents (b : Nat) : Prop := b = irqQueue ∨ b = irqPen ∨ b = irqPenDrop

/-- Any other flag of `MOD_IRQ`. -/
def ownFlag (g : FldRef) : Prop := ∃ b, ¬ raisedByEvents b ∧ b < 32 ∧ g = ⟨Reg.MOD_IRQ, b, b⟩

theorem addr_of_ownFlag (h : ownFlag g) : g.a = Reg.MOD_IRQ := by
  obtain ⟨_, -, -, rfl⟩ := h
  rfl

theorem offCtxs_of_ownFlag (h : ownFlag g) : offCtxs g := by
  rw [offCtxs, addr_of_ownFlag h]
  decide

theorem apart_of_ownFlag (hb : raisedByEvents b) (h : ownFlag g) : FldRef.apart ⟨Reg.MOD_IRQ, b, b⟩ g ∧ g.hi < 32 := by
  obtain ⟨c, hc, hlt, rfl⟩ := h
  have hne : b ≠ c := fun e => hc (e ▸ hb)
  exact ⟨.inr (Nat.lt_or_gt_of_ne hne), hlt⟩

/-- A write of a queue's register. -/
theorem Frame.queuePut (h : Frame queuedFrom ownFlag s t) (f : FldRef) (v : Nat) (hf : 0x30000 ≤ f.a) : Frame queuedFrom ownFlag s (t.put f v) :=
  h.put f v fun p hp => by
    have hirq : Reg.MOD_IRQ < 0x30000 := by decide
    rw [addr_of_ownFlag hp]
    omega

theorem raiseIrq_ownFlag (hb : raisedByEvents b) (s : State) : Frame queuedFrom ownFlag s (raiseIrq b s) :=
  (Frame.refl s).putApart _ _ (Nat.le_refl b) fun _ => apart_of_ownFlag hb

theorem qLevelChanged_ownFlag (q : Nat) (s : State) : Frame queuedFrom ownFlag s (qLevelChanged q s) := by
  have hpeak : Frame queuedFrom ownFlag s (s.put (.Q_PEAK_PEAK q) (max (qLevel s q) (s.get (.Q_PEAK_PEAK q)))) :=
    (Frame.refl s).queuePut _ _ (by simp only [Reg.Q_PEAK]; omega)
  have hwm (x : QSt) := (hpeak.trans (setQueue_frame _ q x)).queuePut (.Q_STAT_WM q) 1 (by simp only [Reg.Q_STAT]; omega)
  exact .ite (fun _ => hpeak.trans (setQueue_frame _ _ _)) fun _ =>
    .ite (fun _ => (hwm _).trans (raiseIrq_ownFlag (.inl rfl) _)) fun _ => hpeak

theorem countDisplaced_ownFlag (q : Nat) (d : List QEnt) (s : State) : Frame queuedFrom ownFlag s (countDisplaced q d s) :=
  ((setQueue_frame s q _).queuePut (.Q_DUP_LEFT q) _ (by simp only [Reg.Q_DUP]; omega)).queuePut (.Q_LOST_OVWR_CNT q) _ (by simp only [Reg.Q_LOST]; omega)

theorem qPush1_ownFlag (q : Nat) (p : Prod) (es : List (List Word)) (s : State) : Frame queuedFrom ownFlag s (qPush1 q p es s) := by
  have hstat {t : State} (h : Frame queuedFrom ownFlag s t) (f : FldRef) (v : Nat) (hf : f.a = Reg.Q_STAT q) : Frame queuedFrom ownFlag s (t.put f v) :=
    h.queuePut f v (by simp only [hf, Reg.Q_STAT]; omega)
  unfold qPush1
  refine .ite (fun _ => .refl s) fun _ => .ite (fun _ => hstat (.refl s) (.Q_STAT_FOREIGN q) _ rfl) fun _ => ?_
  split
  case h_1 => exact hstat (setQueue_frame s q _) (.Q_STAT_DROP_CNT q) _ rfl
  case h_2 l d _ =>
    have hplace (no pos a) (x : QSt) : Frame queuedFrom ownFlag s ((placeEnts q no pos a es (countDisplaced q d s)).2.setQueue q x) := by
      obtain ⟨m, hm⟩ := placeEnts_rest q es no pos a (countDisplaced q d s)
      rw [hm]
      exact (countDisplaced_ownFlag q d s).upd rfl rfl
    exact ((hplace _ _ _ _).trans (keepLate_frame _ _ _)).trans ((setQueue_frame _ q _).trans (qLevelChanged_ownFlag q _))

theorem qPush_ownFlag (q : Nat) (p : Prod) (es : List (List Word)) (s : State) : Frame queuedFrom ownFlag s (qPush q p es s) :=
  .each _ _ _ fun u _ t => qPush1_ownFlag q p u t

theorem qPushFixed_ownFlag (n q : Nat) (p : Prod) (es : List (List Word)) (s : State) : Frame queuedFrom ownFlag s (qPushFixed n q p es s) := by
  have hpush := qPush_ownFlag q p es s
  exact .ite (fun _ => .ite (fun _ => hpush.queuePut (.Q_STAT_CFG_ADJ q) 1 (by simp only [Reg.Q_STAT]; omega)) fun _ => hpush) fun _ => .refl s

theorem writePennant_ownFlag (p : Prod) (w : List Word) (irq : Bool) (s : State) : Frame queuedFrom ownFlag s (writePennant p w irq s) := by
  have hstat {t : State} (h : Frame queuedFrom ownFlag s t) (f : FldRef) (hf : f.a = Reg.EV_STAT) : Frame queuedFrom ownFlag s (t.inc f) :=
    h.put _ _ fun _ hp => by rw [addr_of_ownFlag hp, hf]; decide
  have hpush := hstat (qPush_ownFlag (s.get .EV_CFG_PEN_Q) p [w] s) .EV_STAT_PEN_CNT rfl
  exact .ite (fun _ => .ite (fun _ => hpush.trans (raiseIrq_ownFlag (.inr (.inl rfl)) _)) fun _ => hpush) fun _ =>
    (hstat (qPushFixed_ownFlag 16 _ p [w] s) .EV_STAT_PEN_LOST rfl).trans (raiseIrq_ownFlag (.inr (.inr rfl)) _)

theorem raisePennants_ownFlag (p : Prod) (l : List Pen) (s : State) : Frame eventsFrom ownFlag s (raisePennants p l s) := by
  have hpen (x : Pen) (t : State) : Frame eventsFrom ownFlag t (writePen p x t) := by
    unfold writePen dipLevel
    exact ((writePennant_ownFlag p _ _ t).mono fun _ => id).trans (dipPatch_frame _ _ _)
  exact (Frame.each _ _ _ fun x _ t => hpen x t).trans ((fireTrigs_frame _ _).mono fun _ => offCtxs_of_ownFlag)

end Sys2Proof.Machine
end

section
/-! PROOFS. The banks of the dip (R218 to R229) and the flags of `MOD_IRQ` (R215): what each command answers, and the statement of their family. -/

namespace Sys2Proof.Machine

set_option Elab.async false

variable {s t : State} {r : Req} {w : Word} {b : Nat}

section Banks

/-- The states of the banks are fields of `EV_DIP_STAT`. -/
theorem Frame.bankState {f : State → State → State} {P : FldRef → Prop} (h : Frame f P s t) (b : Nat)
    (hP : P .EV_DIP_STAT_STATE0 ∧ P .EV_DIP_STAT_STATE1) : bankState t b = bankState s b := by
  rw [Machine.bankState, Machine.bankState, h.get _ hP.1, h.get _ hP.2]

/-- A write of a field of `EV_DIP_STAT` above the banks' states. -/
theorem bankState_put (f : FldRef) (v : Nat) (s : State) (b : Nat) (hf : 3 < f.lo ∧ f.lo ≤ f.hi) : bankState (s.put f v) b = bankState s b := by
  have hget (g : FldRef) (hg : g.hi ≤ 3) : (s.put f v).get g = s.get g := get_put_apart s f g v hf.2 (by omega) (.inr (.inr (by omega)))
  rw [bankState, bankState, hget _ (by simp), hget _ (by simp)]

/-- A change of one bank's state leaves the other bank's. -/
theorem bankState_setBank_other {c : Nat} (h : b = 0 ↔ c ≠ 0) (v : Nat) (s : State) : bankState (setBank b v s) c = bankState s c := by
  unfold bankState setBank
  simp only [State.setDip_get, State.putB]
  by_cases hb : b = 0
  · simp only [if_pos hb, if_neg (h.mp hb)]
    rw [get_put_apart _ _ _ _ (by simp) (by simp) (by simp [FldRef.apart]), get_put_apart _ _ _ _ (by simp) (by simp) (by simp [FldRef.apart])]
  · simp only [if_neg hb, if_pos (not_not.mp (mt h.mpr hb))]
    rw [get_put_apart _ _ _ _ (by simp) (by simp) (by simp [FldRef.apart]), get_put_apart _ _ _ _ (by simp) (by simp) (by simp [FldRef.apart])]

end Banks

section Request

/-- No event writes `MOD_DIP` or `EV_DIP_STAT`. -/
theorem offEvents_dip {g : FldRef} (h : g.a = Reg.MOD_DIP ∨ g.a = Reg.EV_DIP_STAT) : offEvents g := by
  rw [offEvents]
  rcases h with h | h <;> rw [h] <;> decide

theorem offEvents_bankStates : offEvents .EV_DIP_STAT_STATE0 ∧ offEvents .EV_DIP_STAT_STATE1 :=
  ⟨offEvents_dip (.inr rfl), offEvents_dip (.inr rfl)⟩

variable {trig id tgt : Nat}

/-- Bank `b` is taken for a dip whose record is `x` (R221). -/
def bankTaken (b : Nat) (x : DipBank) (s : State) : State := setBank b 1 ((s.setDip b x).put .EV_DIP_STAT_LAST b)

theorem bankTaken_frame (b : Nat) (x : DipBank) (s : State) : Frame banksFrom (fun g => g.a ≠ Reg.EV_DIP_STAT) s (bankTaken b x s) := by
  have hset : Frame banksFrom (fun g => g.a ≠ Reg.EV_DIP_STAT) s (s.setDip b x) := .of_regs rfl rfl
  exact (hset.put _ _ fun _ hg => hg).trans (setBank_frame b 1 _)

theorem bankState_bankTaken (b : Nat) (x : DipBank) (s : State) : bankState (bankTaken b x s) b = 1 := bankState_setBank (by decide) b _

theorem dip_bankTaken (b : Nat) (x : DipBank) (s : State) : (bankTaken b x s).dip b = { x with hdr := setBits x.hdr 7 6 1 } := by
  rw [bankTaken, dip_setBank, State.dip, State.put_dips, State.setDip, kget_kset_same]

/-- The record of a dip at its request (R219, R220): a target nearer than 4,096 ticks is late. -/
def askedBank (trig id tgt : Nat) (s : State) : DipBank :=
  { hdr := wd (mk [(id % 65536, 16), (trig, 8), (b2n (decide (tgt < now s + 4096)), 2)]),
    tick := if tgt < now s + 4096 then now s + 4096 else tgt, tgt := tgt }

/-- What a dip request does (R220 to R222). -/
theorem dipRequest_ignored (hi : dipIgnored s = true) : dipRequest trig id tgt s = s.inc .EV_DIP_STAT_IGN_CNT := by simp only [dipRequest, hi, if_true]

theorem dipRequest_free (hi : dipIgnored s = false) (hb : freeBank s = some b) :
    dipRequest trig id tgt s = bankTaken b (askedBank trig id tgt s) s := by
  simp only [dipRequest, hi, hb, bankTaken, askedBank, decide_eq_true_eq]
  rfl

theorem dipRequest_busy (hi : dipIgnored s = false) (hb : freeBank s = none) : dipRequest trig id tgt s = dipRefuse trig id s := by
  simp only [dipRequest, hi, hb]
  rfl

/-- A field that a refused request leaves: outside what an event changes and outside BUSY_CNT. -/
def offRefused (g : FldRef) : Prop := offEvents g ∧ FldRef.EV_DIP_STAT_BUSY_CNT.apart g ∧ g.hi < 32

theorem offRefused_dipStat {g : FldRef} (h : g.a = Reg.EV_DIP_STAT) (hi : g.hi < 8) : offRefused g :=
  ⟨offEvents_dip (.inr h), .inr (.inr hi), by omega⟩

theorem dipRefuse_frame (trig id : Nat) (s : State) : Frame eventsFrom offRefused s (dipRefuse trig id s) := by
  have hirq : Frame eventsFrom offRefused s (raiseIrq irqDipBusy s) := (raiseIrq_frame irqDipBusy s).mono fun _ hg => hg.1
  have hcnt := hirq.putApart .EV_DIP_STAT_BUSY_CNT
    (min ((raiseIrq irqDipBusy s).get .EV_DIP_STAT_BUSY_CNT + 1) (FldRef.max .EV_DIP_STAT_BUSY_CNT)) (by simp) fun _ hg => hg.2
  exact hcnt.trans ((raisePennants_frame _ _ _).mono fun _ hg => hg.1)

/-- A refused request counts in BUSY_CNT (R222). -/
theorem busyCnt_dipRefuse (trig id : Nat) (s : State) :
    (dipRefuse trig id s).get .EV_DIP_STAT_BUSY_CNT = min (s.get .EV_DIP_STAT_BUSY_CNT + 1) (FldRef.max .EV_DIP_STAT_BUSY_CNT) := by
  rw [dipRefuse, raisePennant, (raisePennants_frame _ _ _).get _ (offEvents_dip (.inr rfl)), get_inc _ _ (by simp) (by simp),
    (raiseIrq_frame irqDipBusy s).get _ (offEvents_dip (.inr rfl))]

/-- The target of a request of `MOD_DIP` (R219): MOD_DIP_TGT with AT, else now. -/
def askedTgt (w : Word) (s : State) : Nat := if bitAt w 1 then s.get64 (Reg.MOD_DIP_TGT 0) else now s

/-- `MOD_DIP` after a request by it that is not ignored: REFUSED tells its fate (R222). -/
def askedStore (w : Word) (refused : Bool) (s : State) : State := (store Reg.MOD_DIP Msk.MOD_DIP w s).putB .MOD_DIP_REFUSED refused

theorem store_frame (a : Nat) (m : WMask) (w : Word) (s : State) : Frame regsFrom (fun g => g.a ≠ a) s (store a m w s) :=
  (Frame.refl s).wr _ _ fun _ hg => hg

theorem askedStore_frame (w : Word) (refused : Bool) (s : State) : Frame regsFrom (fun g => g.a ≠ Reg.MOD_DIP) s (askedStore w refused s) :=
  (store_frame Reg.MOD_DIP Msk.MOD_DIP w s).put _ _ fun _ hg => hg

theorem refused_askedStore (w : Word) (refused : Bool) (s : State) : (askedStore w refused s).is .MOD_DIP_REFUSED = refused := by
  rw [askedStore, State.is, get_putB _ _ _ (by simp) (by simp)]
  cases refused <;> rfl

/-- `MOD_DIP` tells nothing of the banks. -/
theorem freeBank_of_frame (h : Frame regsFrom (fun g => g.a ≠ Reg.MOD_DIP) s t) : freeBank t = freeBank s :=
  freeBank_congr (h.get _ (by decide)) (h.get _ (by decide)) (h.get _ (by decide)) (h.unchanged State.dips)

/-- What a write of `MOD_DIP` does (R219, R227). -/
theorem modDipWrite_noGo (h : bitAt w 0 = false) : modDipWrite w s = store Reg.MOD_DIP Msk.MOD_DIP w s := by
  rw [modDipWrite, h]
  rfl

theorem modDipWrite_ignored (h : bitAt w 0 = true) (hi : dipIgnored s = true) :
    modDipWrite w s = (store Reg.MOD_DIP Msk.MOD_DIP w s).inc .EV_DIP_STAT_IGN_CNT := by
  have hi' : dipIgnored (store Reg.MOD_DIP Msk.MOD_DIP w s) = true := hi
  simp only [modDipWrite, h, hi', if_true, dipRequest_ignored]

theorem modDipWrite_asked (h : bitAt w 0 = true) (hi : dipIgnored s = false) :
    modDipWrite w s = dipRequest 1 (bits w 31 16) (askedTgt w s) (askedStore w (freeBank s).isNone s) := by
  have hstore := store_frame Reg.MOD_DIP Msk.MOD_DIP w s
  have hi' : dipIgnored (store Reg.MOD_DIP Msk.MOD_DIP w s) = false := hi
  have htgt : (store Reg.MOD_DIP Msk.MOD_DIP w s).get64 (Reg.MOD_DIP_TGT 0) = s.get64 (Reg.MOD_DIP_TGT 0) := by
    rw [State.get64, State.get64, hstore.rd _ (by decide), hstore.rd _ (by decide)]
  simp only [modDipWrite, h, hi', freeBank_of_frame hstore, htgt]
  rfl

theorem exec_dipRequest (ha : Admitted s r Reg.MOD_DIP Msk.MOD_DIP) : exec (.dipRequest r w) s = .next (modDipWrite w s) :=
  congrArg Host.Outcome.next (regWrite_admitted _ _ _ _ _ _ ha)

/-- A request by `MOD_DIP` with a FREE bank. -/
theorem exec_dipRequest_free (ha : Admitted s r Reg.MOD_DIP Msk.MOD_DIP) (h : bitAt w 0 = true) (hi : dipIgnored s = false) (hb : freeBank s = some b) :
    exec (.dipRequest r w) s = .next (bankTaken b (askedBank 1 (bits w 31 16) (askedTgt w s) s) (askedStore w false s)) := by
  rw [exec_dipRequest ha, modDipWrite_asked h hi, hb]
  exact congrArg Host.Outcome.next (dipRequest_free hi ((freeBank_of_frame (askedStore_frame w false s)).trans hb))

/-- A request by `MOD_DIP` without one. -/
theorem exec_dipRequest_busy (ha : Admitted s r Reg.MOD_DIP Msk.MOD_DIP) (h : bitAt w 0 = true) (hi : dipIgnored s = false) (hb : freeBank s = none) :
    exec (.dipRequest r w) s = .next (dipRefuse 1 (bits w 31 16) (askedStore w true s)) := by
  rw [exec_dipRequest ha, modDipWrite_asked h hi, hb]
  exact congrArg Host.Outcome.next (dipRequest_busy hi ((freeBank_of_frame (askedStore_frame w true s)).trans hb))

end Request

section Hold

/-- A bank's header names a takeover under which the bank becomes HELD (R224). -/
def tkoNoted (b : Nat) (s : State) : State := if s.sv.tkoFrom.isSome then s.setDip b { s.dip b with hdr := setBits (s.dip b).hdr 3 3 1 } else s

/-- Bank `b` is HELD, its flag raised, and its pennant not yet. -/
def bankHeld (b : Nat) (s : State) : State := raiseIrq irqDip (setBank b 2 (tkoNoted b s))

theorem bankHeld_frame (b : Nat) (s : State) : Frame eventsFrom (fun g => offEvents g ∧ g.a ≠ Reg.EV_DIP_STAT) s (bankHeld b s) := by
  have htko : Frame banksFrom (fun g => g.a ≠ Reg.EV_DIP_STAT) s (tkoNoted b s) := .ite (fun _ => .of_regs rfl rfl) fun _ => .refl s
  exact ((htko.trans (setBank_frame b 2 _)).mono fun _ => And.right).trans ((raiseIrq_frame irqDip _).mono fun _ => And.left)

theorem bankState_bankHeld (b : Nat) (s : State) : bankState (bankHeld b s) b = 2 :=
  ((raiseIrq_frame irqDip _).bankState b offEvents_bankStates).trans (bankState_setBank (by decide) b _)

/-- A bank that becomes HELD raises its pennant after that (R221). -/
theorem holdBank_eq (b : Nat) (s : State) : ∃ x, holdBank b s = raisePennants .both [x] (bankHeld b s) := ⟨_, rfl⟩

theorem ownFlag_irqDip : ownFlag ⟨Reg.MOD_IRQ, irqDip, irqDip⟩ := ⟨irqDip, by unfold raisedByEvents; decide, by decide, rfl⟩

theorem irqDip_bankHeld (b : Nat) (s : State) : (bankHeld b s).get ⟨Reg.MOD_IRQ, irqDip, irqDip⟩ = 1 := get_set1 _ _ (by decide) (by decide)

end Hold

section Release

/-- A release that names bank `b` if `c` (R223). -/
theorem releaseBank_frame (b : Nat) (c : Bool) (s : State) : Frame banksFrom (fun g => g.a ≠ Reg.EV_DIP_STAT) s (s.when c (releaseBank b)) :=
  .ite (fun _ => .ite (fun _ => setBank_frame b 0 s) fun _ => .refl s) fun _ => .refl s

theorem landId_releaseBank (b : Nat) (c : Bool) (s : State) :
    (s.when c (releaseBank b)).get .EV_DIP_STAT_LAND_ID = s.get .EV_DIP_STAT_LAND_ID := by
  refine when_ind (fun t => t.get .EV_DIP_STAT_LAND_ID = s.get .EV_DIP_STAT_LAND_ID) s c _ rfl fun _ => ?_
  rw [releaseBank]
  split
  · exact landId_setBank b 0 s
  · rfl

theorem bankState_releaseBank (b : Nat) (c : Bool) (s : State) :
    bankState (s.when c (releaseBank b)) b = if bankState s b = 2 ∧ c = true then 0 else bankState s b := by
  cases c with
  | false => simp
  | true =>
    rw [when_true, releaseBank]
    by_cases h : bankState s b = 2
    · simp [h, bankState_setBank]
    · simp [h]

theorem bankState_releaseBank_other {k : Nat} (h : b = 0 ↔ k ≠ 0) (c : Bool) (s : State) :
    bankState (s.when c (releaseBank b)) k = bankState s k := by
  refine when_ind (fun t => bankState t k = bankState s k) s c _ rfl fun _ => ?_
  rw [releaseBank]
  split
  · exact bankState_setBank_other h 0 s
  · rfl

theorem exec_dipRelease (ha : Admitted s r Reg.EV_DIP_STAT Msk.EV_DIP_STAT) : exec (.dipRelease r w) s = .next (dipStatWrite w s) :=
  congrArg Host.Outcome.next (regWrite_admitted _ _ _ _ _ _ ha)

theorem dipStatWrite_frame (w : Word) (s : State) : Frame banksFrom (fun g => g.a ≠ Reg.EV_DIP_STAT) s (dipStatWrite w s) := by
  have hland : Frame banksFrom (fun g => g.a ≠ Reg.EV_DIP_STAT) s (s.put .EV_DIP_STAT_LAND_ID (bits w 31 16)) := (Frame.refl s).put _ _ fun _ hg => hg
  exact (hland.trans (releaseBank_frame 0 _ _)).trans (releaseBank_frame 1 _ _)

/-- A write of `EV_DIP_STAT` decides each bank for itself (R223). -/
theorem bankState_dipStatWrite (w : Word) (s : State) :
    bankState (dipStatWrite w s) 0 = (if bankState s 0 = 2 ∧ bitAt w 4 = true then 0 else bankState s 0) ∧
    bankState (dipStatWrite w s) 1 = (if bankState s 1 = 2 ∧ bitAt w 5 = true then 0 else bankState s 1) := by
  rw [dipStatWrite]
  constructor
  · rw [bankState_releaseBank_other (by decide), bankState_releaseBank, bankState_put _ _ _ _ (by simp)]
  · rw [bankState_releaseBank, bankState_releaseBank_other (by decide), bankState_put _ _ _ _ (by simp)]

theorem landId_dipStatWrite (w : Word) (s : State) : (dipStatWrite w s).get .EV_DIP_STAT_LAND_ID = bits w 31 16 := by
  rw [dipStatWrite, landId_releaseBank, landId_releaseBank, get_put _ _ _ (by simp) (by simp)]
  exact Nat.mod_eq_of_lt (bits_lt w 31 16)

end Release

section Irq

/-- A register with W1C fields alone (R4). -/
theorem storedWord_w1c (m : Nat) (cur w : Word) : storedWord ⟨0, 0, 0, m⟩ cur w = cur &&& ~~~ (w &&& wd m) := by
  rw [storedWord, show (0 : Nat) ||| 0 = 0 from rfl, blend_zero]
  rfl

theorem exec_modIrqClear (ha : Admitted s r Reg.MOD_IRQ Msk.MOD_IRQ) : exec (.modIrqClear r w) s = .next (irqWrite w s) :=
  congrArg Host.Outcome.next (regWrite_admitted _ _ _ _ _ _ ha)

theorem rd_irqWrite (w : Word) (s : State) : rd (irqWrite w s) Reg.MOD_IRQ = rd s Reg.MOD_IRQ &&& ~~~ (w &&& wd Msk.MOD_IRQ.w1c) := by
  rw [irqWrite, State.modCsn_rd, store, rd_wr_same, storedWord_w1c]

end Irq

/-- Settles O31: a request is asked of a FREE bank, refused or ignored; a hold raises its flag, which its pennant leaves; a release decides each bank for itself. -/
theorem dipsAndInterrupts : Obligations.DipsAndInterrupts := by
  unfold Obligations.DipsAndInterrupts
  refine ⟨?taken, ?refused, ?ignored, ?noGo, ?latch, ?early, ?held, ?unheld, ?release, ?irq⟩
  case taken =>
    rintro s r w b x ha h hi hb rfl
    have hasked := askedStore_frame w false s
    have htaken := bankTaken_frame b (askedBank 1 (bits w 31 16) (askedTgt w s) s) (askedStore w false s)
    have hf : Frame banksFrom (fun g => g.a ≠ Reg.MOD_DIP ∧ g.a ≠ Reg.EV_DIP_STAT) s _ :=
      (hasked.mono fun _ => And.left).trans (htaken.mono fun _ => And.right)
    refine ⟨_, exec_dipRequest_free ha h hi hb, bankState_bankTaken _ _ _, ?_, ?_, ?_, ?_, hf.rest, fun a h1 h2 => hf.rd a ⟨h1, h2⟩⟩
    iterate 3 rw [dip_bankTaken]; rfl
    rw [htaken.is _ (by decide), refused_askedStore]
  case refused =>
    intro s r w ha h hi hb
    have hasked := askedStore_frame w true s
    have href := dipRefuse_frame 1 (bits w 31 16) (askedStore w true s)
    have hf : Frame eventsFrom (fun g => g.a ≠ Reg.MOD_DIP ∧ offRefused g) s _ := (hasked.mono fun _ => And.left).trans (href.mono fun _ => And.right)
    refine ⟨_, exec_dipRequest_busy ha h hi hb, ?_, ?_, ?_, ?_, hf.rest, fun a he h1 h2 => hf.rd a ⟨h1, he, .inl h2.symm, by simp⟩⟩
    · rw [href.is _ ⟨offEvents_dip (.inl rfl), .inl (by decide), by simp⟩, refused_askedStore]
    · rw [busyCnt_dipRefuse, hasked.get _ (by decide)]
    iterate 2 exact hf.bankState _ ⟨⟨by decide, offRefused_dipStat rfl (by simp)⟩, by decide, offRefused_dipStat rfl (by simp)⟩
  case ignored =>
    intro s r w ha h hi
    have hstore := store_frame Reg.MOD_DIP Msk.MOD_DIP w s
    have hcnt : Frame regsFrom (fun g => g.a ≠ Reg.EV_DIP_STAT) _ ((store Reg.MOD_DIP Msk.MOD_DIP w s).inc .EV_DIP_STAT_IGN_CNT) :=
      (Frame.refl _).put _ _ fun _ hg => hg
    have hf : Frame regsFrom (fun g => g.a ≠ Reg.MOD_DIP ∧ g.a ≠ Reg.EV_DIP_STAT) s _ := (hstore.mono fun _ => And.left).trans (hcnt.mono fun _ => And.right)
    refine ⟨_, by rw [exec_dipRequest ha, modDipWrite_ignored h hi], ?_, ?_, ?_, ?_, hf.rest, fun a h1 h2 => hf.rd a ⟨h1, h2⟩⟩
    · rw [hcnt.rd _ (by decide), store, rd_wr_same]
    · rw [get_inc _ _ (by simp) (by simp), hstore.get _ (by decide)]
    iterate 2 exact (bankState_put _ _ _ _ (by simp)).trans (hstore.bankState _ (by decide))
  case noGo =>
    intro s r w ha h
    rw [exec_dipRequest ha, modDipWrite_noGo h]
    rfl
  case latch =>
    intro s b h
    exact congrArg Host.Outcome.next (if_pos h)
  case early =>
    intro s b h
    exact congrArg Host.Outcome.next (if_neg (by rw [h]; decide))
  case held =>
    intro s b hb hl
    obtain ⟨x, hx⟩ := holdBank_eq b s
    have hpen := raisePennants_frame .both [x] (bankHeld b s)
    have hf : Frame eventsFrom (fun g => offEvents g ∧ g.a ≠ Reg.EV_DIP_STAT) s _ := (bankHeld_frame b s).trans (hpen.mono fun _ => And.left)
    have hexec : exec (.dipBankHeld b) s = .next (raisePennants .both [x] (bankHeld b s)) := congrArg Host.Outcome.next ((if_pos ⟨hb, hl⟩).trans hx)
    refine ⟨_, hexec, (hpen.bankState b offEvents_bankStates).trans (bankState_bankHeld b s), ?_, hf.rest, fun a he h1 => hf.rd a ⟨he, h1⟩⟩
    exact ((raisePennants_ownFlag _ _ _).get _ ownFlag_irqDip).trans (irqDip_bankHeld b s)
  case unheld =>
    intro s b h
    refine congrArg Host.Outcome.next (if_neg ?_)
    rintro ⟨hb, hl⟩
    rcases h with h | h
    · exact h hb
    · rw [h] at hl
      cases hl
  case release =>
    intro s r w ha
    have hf := dipStatWrite_frame w s
    obtain ⟨h0, h1⟩ := bankState_dipStatWrite w s
    exact ⟨_, exec_dipRelease ha, h0, h1, landId_dipStatWrite w s, hf.rest, fun a h => hf.rd a h⟩
  case irq =>
    intro s r w ha
    exact ⟨_, exec_modIrqClear ha, rd_irqWrite w s, rfl, rfl, fun a h => rd_wr_ne _ _ _ _ h⟩

end Sys2Proof.Machine
end

section
/-! PROOFS. A step on an empty queue (R262; assumption log 2). -/

namespace Sys2Proof.Machine

set_option Elab.async false

variable {s : State} {b : Nat}

theorem dipLatch_early (h : latchDue s b = false) : dipLatch b s = s := if_neg (by rw [h]; decide)

theorem step_idle (h : s.pending = []) : step s = .next (idle s) := by rw [step, h]

/-- Settles O2: the step is the clock's edge, which latches no bank before its tick. -/
theorem emptyQueueTicksTheClock : Obligations.EmptyQueueTicksTheClock := by
  unfold Obligations.EmptyQueueTicksTheClock
  constructor
  · intro s h hoff
    rw [step_idle h, idle, hoff]
    rfl
  · intro s u h hon hu
    have hedge : step s = .next (dipLatch 1 (dipLatch 0 u)) := by
      rw [step_idle h, idle, if_pos hon, hu]
      rfl
    exact ⟨hedge, fun h0 h1 => by rw [hedge, dipLatch_early h0, dipLatch_early h1]⟩

end Sys2Proof.Machine
end

section
/-! PROOFS. A write of `LOG_QMAP` that is not served (R254, R582). -/

namespace Sys2Proof.Machine

set_option Elab.async false

/-- A module in SLEEP, in which queue 0, the one that LOG_QSEL selects, goes to region 1 of the log, as a write of LOG_QMAP from 0 to 1 leaves it. -/
def asleepMapped : State := { pw := { on := true, power := 4 }, sv := { roleA := .active, anyActive := true }, logMap := [(0, 1)] }

theorem served_asleepMapped (a : Nat) : served asleepMapped .s0 a = false := rfl

/-- A write of `LOG_QMAP` that is not served still brings the word held there up to the one that it shows. -/
theorem exec_registerWrite_logQmap_asleep (w : Word) :
    exec (.registerWrite .s0 (wd (Reg.LOG_QMAP 0)) w) asleepMapped = .next (wr (Reg.LOG_QMAP 0) 1 asleepMapped) :=
  congrArg Host.Outcome.next (regWrite_unserved .s0 (Reg.LOG_QMAP 0) (busMask (Reg.LOG_QMAP 0)) w (busFn .s0 (Reg.LOG_QMAP 0))
    (busSync (Reg.LOG_QMAP 0) asleepMapped) rfl)

/-- Refutes O12: a write of S0 to LOG_QMAP in SLEEP is not served, yet the state after it holds another word there (`busSync`), where the statement asks for
the same state. -/
theorem not_registerWritesAreStored : ¬ Obligations.RegisterWritesAreStored := by
  unfold Obligations.RegisterWritesAreStored
  rintro ⟨-, -, -, -, hskip, -⟩
  have hsame := hskip asleepMapped .s0 (wd (Reg.LOG_QMAP 0)) 0 (.inr ⟨served_asleepMapped _, by decide⟩)
  have hstate : wr (Reg.LOG_QMAP 0) 1 asleepMapped = asleepMapped := Host.Outcome.next.inj ((exec_registerWrite_logQmap_asleep 0).symm.trans hsame)
  have hword : rd (wr (Reg.LOG_QMAP 0) 1 asleepMapped) (Reg.LOG_QMAP 0) = rd asleepMapped (Reg.LOG_QMAP 0) := by rw [hstate]
  rw [rd_wr_same] at hword
  exact absurd hword (by decide)

end Sys2Proof.Machine
end

section
/-! PROOFS. A queue's stored entries (R239, R250): what storing them leaves, and the head of the pops (R244) among them. -/

namespace Sys2Proof.Machine

set_option Elab.async false

variable {P : FldRef → Prop} {s t : State} {q k : Nat}

section Stored

/-- `s` with its registers and queues taken from `t`; with the pops' shadows beside them. -/
def queuesFrom (s t : State) : State := { s with regs := t.regs, queues := t.queues }
def popsFrom (s t : State) : State := { s with regs := t.regs, queues := t.queues, pops := t.pops }

/-- A field that the level of queue `q` does not reach: of no queue, or of its settings, its place or CFG_ADJ. -/
def offLevel (q : Nat) (g : FldRef) : Prop :=
  g.hi < 32 ∧ (queueReg g.a = false ∨ g.a = Reg.Q_CFG q ∨ g.a = Reg.Q_BASE q ∨ g = .Q_STAT_CFG_ADJ q)

/-- No field outside the queues lies in one of their registers. -/
theorem ne_of_offQueues {g : FldRef} {a : Nat} (h : queueReg g.a = false) (ha : queueReg a = true) : g.a ≠ a :=
  fun e => absurd ((congrArg queueReg e).symm.trans h) (by simp [ha])

/-- The registers of queue `q` are queue registers. -/
theorem queueReg_of_range {a : Nat} (hq : q < 128) (h : 0x30000 + 0x40 * q ≤ a ∧ a < 0x30040 + 0x40 * q) : queueReg a = true := by
  have hrange : 0x30000 ≤ a ∧ a < 0x32000 := by omega
  simp [queueReg, hrange]

theorem ne_of_offLevel {g : FldRef} (h : offLevel q g) (hq : q < 128) :
    g.a ≠ Reg.MOD_IRQ ∧ g.a ≠ Reg.Q_PEAK q ∧ g.a ≠ Reg.Q_LOST q ∧ g.a ≠ Reg.Q_DUP q := by
  obtain ⟨-, h | h | h | rfl⟩ := h
  · exact ⟨ne_of_offQueues h rfl, ne_of_offQueues h (queueReg_of_range hq (by simp only [Reg.Q_PEAK]; omega)),
      ne_of_offQueues h (queueReg_of_range hq (by simp only [Reg.Q_LOST]; omega)),
      ne_of_offQueues h (queueReg_of_range hq (by simp only [Reg.Q_DUP]; omega))⟩
  all_goals
    simp only [*, Reg.Q_CFG, Reg.Q_BASE, Reg.Q_STAT, Reg.Q_PEAK, Reg.Q_LOST, Reg.Q_DUP, Reg.MOD_IRQ]
    omega

/-- Of `Q_STAT` it leaves CFG_ADJ. -/
theorem apart_of_offLevel {f g : FldRef} (hf : f.a = Reg.Q_STAT q) (hd : f.hi < 5 ∨ 5 < f.lo) (h : offLevel q g) (hq : q < 128) :
    f.apart g ∧ g.hi < 32 := by
  obtain ⟨hi, h⟩ := h
  refine ⟨?_, hi⟩
  rcases h with h | h | h | rfl
  · exact .inl (hf ▸ (ne_of_offQueues h (queueReg_of_range hq (by simp only [Reg.Q_STAT]; omega))).symm)
  · exact .inl (by simp only [hf, h, Reg.Q_STAT, Reg.Q_CFG]; omega)
  · exact .inl (by simp only [hf, h, Reg.Q_STAT, Reg.Q_BASE]; omega)
  · exact .inr hd

theorem setQueue_queues (s : State) (q : Nat) (x : QSt) : Frame queuesFrom P s (s.setQueue q x) := .of_regs rfl rfl

theorem qLevelChanged_frame (hq : q < 128) (s : State) : Frame queuesFrom (offLevel q) s (qLevelChanged q s) := by
  have hpeak : Frame queuesFrom (offLevel q) s (s.put (.Q_PEAK_PEAK q) (max (qLevel s q) (s.get (.Q_PEAK_PEAK q)))) :=
    (Frame.refl s).put _ _ fun _ hg => (ne_of_offLevel hg hq).2.1
  have hwm (x : QSt) := (hpeak.trans (setQueue_queues _ q x)).putApart (.Q_STAT_WM q) 1 (by simp) fun _ hg => apart_of_offLevel rfl (by simp) hg hq
  exact .ite (fun _ => hpeak.trans (setQueue_queues _ _ _)) fun _ =>
    .ite (fun _ => (hwm _).put _ _ fun _ hg => (ne_of_offLevel hg hq).1) fun _ => hpeak

theorem qStore_frame (hq : q < 128) (l : List QEnt) (s : State) : Frame queuesFrom (offLevel q) s (qStore q l s) :=
  (setQueue_queues s q _).trans (qLevelChanged_frame hq _)

@[simp] theorem queue_setQueue_same (s : State) (q : Nat) (x : QSt) : (s.setQueue q x).queue q = x := kget_kset_same _ _ _ _

/-- The level's flags touch no entry. -/
theorem ents_qLevelChanged (q : Nat) (s : State) : ((qLevelChanged q s).queue q).ents = (s.queue q).ents := by
  rw [qLevelChanged]
  split_ifs <;> simp only [State.queue, State.setQueue, kget_kset_same, raiseIrq_queues, State.set1_queues, State.put_queues]

/-- The entries of a queue are stored less those that every consumer has passed (R250). -/
theorem ents_qStore (q : Nat) (l : List QEnt) (s : State) : ((qStore q l s).queue q).ents = liveEnts s q l := by
  rw [qStore, ents_qLevelChanged, queue_setQueue_same]

end Stored

section Head

variable {l : List QEnt} {e : QEnt}

/-- Entry `e` once requester `r` no longer keeps it (R247). -/
def unpinned (r : Nat) (e : QEnt) : QEnt := if e.pin = some r then { e with pin := none } else e

theorem unpinned_eq (r : Nat) (e : QEnt) : unpinned r e = { e with pin := (unpinned r e).pin } := by
  unfold unpinned
  split <;> rfl

/-- The head of the pops is the first visible entry that no pop has taken. -/
theorem popHead_eq_find (l : List QEnt) : popHead l = l.find? (fun e => e.vis && !e.host) := by
  induction l with
  | nil => rfl
  | cons e l ih =>
    rw [popHead, List.find?_cons, ih]
    split
    · next h => rw [h]
    · next h => rw [Bool.eq_false_iff.mpr h]

/-- What a requester keeps bears on no head. -/
theorem popHead_unpin (r : Nat) (l : List QEnt) : popHead (unpin r l) = (popHead l).map (unpinned r) := by
  have hsame : (fun e : QEnt => e.vis && !e.host) ∘ unpinned r = fun e => e.vis && !e.host := by
    funext e
    rw [Function.comp_apply, unpinned_eq]
  rw [popHead_eq_find, popHead_eq_find, show unpin r l = l.map (unpinned r) from rfl, List.find?_map, hsame]

/-- The host is still to pass the head, so that its space is not freed. -/
theorem popHead_liveEnts (hh : s.is (.Q_CFG_HOST q) = true) (l : List QEnt) : popHead (liveEnts s q l) = popHead l := by
  rw [popHead_eq_find, popHead_eq_find, liveEnts, List.find?_filter]
  congr 1
  funext e
  cases hv : e.vis <;> cases hn : e.host <;> simp [hn, passedAll, hh]

end Head

end Sys2Proof.Machine
end

section
/-! PROOFS. The pops of a queue (R244 to R248): what a pop and a read of its shadow answer and leave. -/

namespace Sys2Proof.Machine

set_option Elab.async false

variable {s t : State} {q k : Nat} {e : QEnt}

section Pop

@[simp] theorem psh_setPsh_same (s : State) (q k : Nat) (x : PSh) : (s.setPsh q k x).psh q k = x := kget_kset_same _ _ _ _

theorem Frame.pops {P : FldRef → Prop} (h : Frame queuesFrom P s t) : Frame popsFrom P s t := h.mono fun _ hg => hg

theorem Frame.psh {P : FldRef → Prop} (h : Frame queuesFrom P s t) (q k : Nat) : t.psh q k = s.psh q k := h.unchanged (State.psh · q k)

/-- Where the words of an entry lie follows from the settings of its queue (R234). -/
theorem entWords_of_frame {P : FldRef → Prop} (h : Frame queuesFrom P s t) (he : P (.Q_CFG_ESIZE q)) (hd : P (.Q_CFG_DEPTH q)) (hb : P (.Q_BASE_BASE q))
    (e : QEnt) : entWords t q e = entWords s q e := by
  have hmem : t.qmem = s.qmem := h.unchanged State.qmem
  simp only [entWords, qmemIx, regionBytes, hmem, h.get _ he, h.get _ hd, h.get _ hb]

theorem offLevel_cfg {g : FldRef} (h : g.a = Reg.Q_CFG q) (hi : g.hi < 32) : offLevel q g := ⟨hi, .inr (.inl h)⟩

theorem readable_of_frame (h : Frame queuesFrom (offLevel q) s t) (e : QEnt) : readable t q e = readable s q e := by
  simp only [readable, h.get _ (offLevel_cfg (g := .Q_CFG_ESIZE q) rfl (by simp)),
    entWords_of_frame h (offLevel_cfg rfl (by simp)) (offLevel_cfg rfl (by simp)) ⟨by simp, .inr (.inr (.inl rfl))⟩]

/-- An unread word 1 of requester `k`'s shadow counts as lost; then what the requester keeps of queue `q` is freed (R244, R247). -/
def halfNoted (k q : Nat) (s : State) : State := if (s.psh q k).words ≠ [] ∧ ¬ (s.psh q k).hiDone then s.inc (.Q_LOST_LOST_HALF q) else s
def popReady (k q : Nat) (s : State) : State := qStore q (unpin k ((halfNoted k q s).queue q).ents) (halfNoted k q s)

theorem halfNoted_frame (hq : q < 128) (k : Nat) (s : State) : Frame queuesFrom (offLevel q) s (halfNoted k q s) :=
  .ite (fun _ => (Frame.refl s).put _ _ fun _ hg => (ne_of_offLevel hg hq).2.2.1) fun _ => .refl s

theorem popReady_frame (hq : q < 128) (k : Nat) (s : State) : Frame queuesFrom (offLevel q) s (popReady k q s) :=
  (halfNoted_frame hq k s).trans (qStore_frame hq _ _)

/-- The head that a pop takes is the one before it, no longer kept by the requester. -/
theorem popHead_popReady (hq : q < 128) (hh : s.is (.Q_CFG_HOST q) = true) :
    popHead ((popReady k q s).queue q).ents = (popHead (s.queue q).ents).map (unpinned k) := by
  have hhost : (halfNoted k q s).is (.Q_CFG_HOST q) = true := ((halfNoted_frame hq k s).is _ (offLevel_cfg rfl (by simp))).trans hh
  have hents : ((halfNoted k q s).queue q).ents = (s.queue q).ents := by
    rw [halfNoted]
    split
    · simp only [State.queue, State.inc_queues]
    · rfl
  rw [popReady, ents_qStore, popHead_liveEnts hhost, popHead_unpin, hents]

/-- The entry that a pop of queue `q` takes (R244). -/
def popped (k q : Nat) (s : State) : Option QEnt :=
  if s.is (.Q_CFG_HOST q) && qOn s q then popHead ((popReady k q s).queue q).ents else none

/-- The shadow that the pop of entry `e` leaves (R244, R248). -/
def poppedShadow (k q : Nat) (e : QEnt) (s : State) : PSh :=
  let s1 := popReady k q s
  { words := readable s1 q e, pos := 1, seen := (s1.queue q).wcnt, disp := (s1.queue q).disp, dup := e.dup,
    addr := if s.get (.Q_CFG_ESIZE q) == 5 then 0x800000 + 4 * qmemIx s1 q (e.pos + 8) else 0, ovwr := decide ((s.psh q k).disp ≠ (s1.queue q).disp) }

theorem popNext_none (h : popped k q s = none) : popNext k q s = (popReady k q s).setPsh q k { disp := (s.psh q k).disp } := by
  rw [popped, popReady, halfNoted] at h
  simp only [popNext, h]
  rfl

/-- A popped entry of a duplicate window leaves it (R253). -/
def dupCounted (q : Nat) (e : QEnt) (s : State) : State := if e.dup then s.put (.Q_DUP_LEFT q) (s.get (.Q_DUP_LEFT q) - 1) else s

theorem popNext_some (h : popped k q s = some e) : ∃ l, popNext k q s = qStore q l (dupCounted q e ((popReady k q s).setPsh q k (poppedShadow k q e s))) := by
  rw [popped, popReady, halfNoted] at h
  simp only [popNext, h]
  exact ⟨_, rfl⟩

theorem dupCounted_frame (hq : q < 128) (e : QEnt) (s : State) : Frame queuesFrom (offLevel q) s (dupCounted q e s) :=
  .ite (fun _ => (Frame.refl s).put _ _ fun _ hg => (ne_of_offLevel hg hq).2.2.2) fun _ => .refl s

theorem setPsh_frame {P : FldRef → Prop} (s : State) (q k : Nat) (x : PSh) : Frame popsFrom P s (s.setPsh q k x) := .of_regs rfl rfl

theorem popNext_frame (hq : q < 128) (k : Nat) (s : State) : Frame popsFrom (offLevel q) s (popNext k q s) := by
  have hready (x : PSh) := (popReady_frame hq k s).pops.trans (setPsh_frame _ q k x)
  cases h : popped k q s with
  | none =>
    rw [popNext_none h]
    exact hready _
  | some e =>
    obtain ⟨l, hl⟩ := popNext_some h
    rw [hl]
    exact (hready _).trans ((dupCounted_frame hq e _).trans (qStore_frame hq l _)).pops

theorem psh_popNext_none (h : popped k q s = none) : (popNext k q s).psh q k = { disp := (s.psh q k).disp } := by
  rw [popNext_none h, psh_setPsh_same]

theorem psh_popNext_some (hq : q < 128) (h : popped k q s = some e) : (popNext k q s).psh q k = poppedShadow k q e s := by
  obtain ⟨l, hl⟩ := popNext_some h
  rw [hl, ((dupCounted_frame hq e _).trans (qStore_frame hq l _)).psh, psh_setPsh_same]

end Pop

section Head

/-- A queue without host pops, one that takes no entries, or one without an unpopped entry gives none. -/
theorem popped_eq_none (hq : q < 128) (h : s.is (.Q_CFG_HOST q) = false ∨ qOn s q = false ∨ popHead (s.queue q).ents = none) : popped k q s = none := by
  rw [popped]
  split
  case isFalse => rfl
  case isTrue hc =>
    simp only [Bool.and_eq_true] at hc
    simp only [hc, Bool.true_eq_false, false_or] at h
    rw [popHead_popReady hq hc.1, h]
    rfl

theorem popped_eq_some (hq : q < 128) (hh : s.is (.Q_CFG_HOST q) = true) (hon : qOn s q = true) (he : popHead (s.queue q).ents = some e) :
    popped k q s = some (unpinned k e) := by
  rw [popped, hh, hon, Bool.and_self, if_pos rfl, popHead_popReady hq hh, he]
  rfl

/-- The shadow of a pop holds the words of the oldest unpopped entry (R244, R246). -/
theorem shadow_popNext (hq : q < 128) (hh : s.is (.Q_CFG_HOST q) = true) (hon : qOn s q = true) (he : popHead (s.queue q).ents = some e) :
    ((popNext k q s).psh q k).words = readable s q e ∧ ((popNext k q s).psh q k).pos = 1 ∧ ((popNext k q s).psh q k).dup = e.dup := by
  have hwords : readable s q (unpinned k e) = readable s q e := by
    rw [unpinned_eq]
    rfl
  rw [psh_popNext_some hq (popped_eq_some hq hh hon he)]
  refine ⟨(readable_of_frame (popReady_frame hq k s) _).trans hwords, rfl, ?_⟩
  rw [poppedShadow, unpinned_eq]

/-- Its word 0 is the entry's (R244). -/
theorem popLoVal_some (hq : q < 128) (hh : s.is (.Q_CFG_HOST q) = true) (hon : qOn s q = true) (he : popHead (s.queue q).ents = some e)
    (hw : entWords s q e ≠ []) : popLoVal k q s = (entWords s q e).getD 0 0 := by
  obtain ⟨w, l, hl⟩ := List.exists_cons_of_ne_nil hw
  rw [popLoVal, (shadow_popNext hq hh hon he).1, readable, hl]
  split <;> rfl

theorem popLoVal_none (h : popped k q s = none) : popLoVal k q s = 0xC0 := by
  rw [popLoVal, psh_popNext_none h]
  rfl

end Head

section Commands

variable {r : Req} {P : FldRef → Prop} {b : Nat} {w : Word} {u : State}

/-- What a read of a queue's pops may change: registers, queues, shadows, the free values and the word that it returns. -/
def poppedFrom (s t : State) : State := { s with regs := t.regs, queues := t.queues, pops := t.pops, free := t.free, rdata := t.rdata }
def shadowFrom (s t : State) : State := { s with regs := t.regs, pops := t.pops, free := t.free, rdata := t.rdata }

/-- A read of the pops at `b` in which requester `r` has the effect `u` and gets `w`. -/
def popRead (r : Req) (b : Nat) (w : Word) (u : State) : State := { noteRead r b u with rdata := w }

/-- The latency that it notes touches no shadow, and of the registers `MOD_XREAD` alone (R21). -/
theorem popRead_frame (r : Req) (b : Nat) (w : Word) (u : State) : Frame shadowFrom (fun g => g.a ≠ Reg.MOD_XREAD) u (popRead r b w u) :=
  .of_rd (by rw [popRead, noteRead_eq]; rfl) fun _ hg => rd_noteRead_ne hg

theorem psh_popRead (r : Req) (b : Nat) (w : Word) (u : State) (q k : Nat) : (popRead r b w u).psh q k = u.psh q k := by
  rw [popRead, noteRead_eq]
  rfl

theorem exec_qPopLo {q : Fin 128} (h : readServed s r = true) :
    exec (.qPopLo r q) s = .next (popRead r (Reg.Q_POP_LO q) (popLoVal (reqIx r) q s) (popNext (reqIx r) q s)) :=
  congrArg Host.Outcome.next (if_pos h)

theorem exec_qPopHi {q : Fin 128} (h : readServed s r = true) :
    exec (.qPopHi r q) s = .next (popRead r (Reg.Q_POP_HI q) (popHiVal (reqIx r) q s) (popHi (reqIx r) q s)) :=
  congrArg Host.Outcome.next (if_pos h)

theorem exec_qPopStream {q : Fin 128} (h : readServed s r = true) :
    exec (.qPopStream r q) s = .next (popRead r (Reg.Q_POP_STREAM q) (popStreamVal (reqIx r) q s) (popStream (reqIx r) q s)) :=
  congrArg Host.Outcome.next (if_pos h)

/-- A read that pops: what it may change. -/
theorem popRead_popNext_rest (hq : q < 128) (r : Req) (b : Nat) (w : Word) (k : Nat) (s : State) :
    popRead r b w (popNext k q s) = poppedFrom s (popRead r b w (popNext k q s)) ∧
      ∀ a, a ≠ Reg.MOD_XREAD → ¬ (queueReg a = true) → rd (popRead r b w (popNext k q s)) a = rd s a := by
  have hpop : Frame poppedFrom (fun g => offLevel q g ∧ g.a ≠ Reg.MOD_XREAD) s (popNext k q s) := (popNext_frame hq k s).mono fun _ => And.left
  have hread : Frame poppedFrom (fun g => offLevel q g ∧ g.a ≠ Reg.MOD_XREAD) _ _ := (popRead_frame r b w (popNext k q s)).mono fun _ => And.right
  exact ⟨(hpop.trans hread).rest, fun a hx ha => (hpop.trans hread).rd a ⟨⟨by simp, .inl (Bool.eq_false_iff.mpr ha)⟩, hx⟩⟩

/-- A read that changes the requester's shadow alone. -/
theorem popRead_setPsh (r : Req) (b : Nat) (w : Word) (q k : Nat) (x : PSh) (s : State) :
    (popRead r b w (s.setPsh q k x)).psh q k = x ∧ popRead r b w (s.setPsh q k x) = shadowFrom s (popRead r b w (s.setPsh q k x)) ∧
      ∀ a, a ≠ Reg.MOD_XREAD → rd (popRead r b w (s.setPsh q k x)) a = rd s a := by
  have hset : Frame shadowFrom (fun g => g.a ≠ Reg.MOD_XREAD) s (s.setPsh q k x) := .of_regs rfl rfl
  have hread := hset.trans (popRead_frame r b w _)
  exact ⟨(psh_popRead r b w _ q k).trans (psh_setPsh_same s q k x), hread.rest, fun a ha => hread.rd a ha⟩

/-- A stream read goes on in the shadow, or pops (R246). -/
theorem streamPops_inside (h : (s.psh q k).pos < (s.psh q k).words.length) : streamPops k q s = false := by
  have hne : (s.psh q k).words ≠ [] := List.ne_nil_of_length_pos (by omega)
  simp [streamPops, hne, h]

theorem streamPops_end (h : (s.psh q k).words.length ≤ (s.psh q k).pos) : streamPops k q s = true := by simp [streamPops, h]

/-- The shadow after a stream read inside it: a read of word 1 marks it read (R246). -/
theorem popStream_inside (h : (s.psh q k).pos < (s.psh q k).words.length) : popStream k q s =
    s.setPsh q k { s.psh q k with pos := (s.psh q k).pos + 1, hiDone := (s.psh q k).hiDone || (s.psh q k).pos == 1 } := by
  rw [popStream, streamPops_inside h]
  by_cases h1 : (s.psh q k).pos = 1
  · simp [h1]
  · simp [h1, beq_false_of_ne h1]

theorem exec_qPopStream_inside {q : Fin 128} (h : readServed s r = true) (hp : (s.psh q (reqIx r)).pos < (s.psh q (reqIx r)).words.length) :
    exec (.qPopStream r q) s = .next (popRead r (Reg.Q_POP_STREAM q) ((s.psh q (reqIx r)).words.getD (s.psh q (reqIx r)).pos 0)
      (s.setPsh q (reqIx r) { s.psh q (reqIx r) with
        pos := (s.psh q (reqIx r)).pos + 1, hiDone := (s.psh q (reqIx r)).hiDone || (s.psh q (reqIx r)).pos == 1 })) := by
  rw [exec_qPopStream h, popStream_inside hp, popStreamVal, streamPops_inside hp]
  rfl

theorem exec_qPopStream_end {q : Fin 128} (h : readServed s r = true) (hp : (s.psh q (reqIx r)).words.length ≤ (s.psh q (reqIx r)).pos) :
    exec (.qPopStream r q) s = .next (popRead r (Reg.Q_POP_STREAM q) (popLoVal (reqIx r) q s) (popNext (reqIx r) q s)) := by
  rw [exec_qPopStream h, popStreamVal, popStream, streamPops_end hp]
  rfl

end Commands

end Sys2Proof.Machine
end

section
/-! PROOFS. The settings of a queue (R233, R234, R236): what a write of `Q_CFG` stores, shows and leaves, and the statement of the queues' commands. -/

namespace Sys2Proof.Machine

set_option Elab.async false

variable {s t : State} {q k : Nat} {w : Word}

section Placed

/-- The registers of the channels' bindings to queues (R236). -/
def bindReg (a : Nat) : Prop := 0x20000 ≤ a ∧ a < 0x30000 ∧ a % 0x100 = 0xCC

/-- A field that placing the queues leaves, seen from queue `q`: of no queue and no binding, or of its settings, or CFG_ADJ. -/
def offPlaced (q : Nat) (g : FldRef) : Prop :=
  g.hi < 32 ∧ ((queueReg g.a = false ∧ ¬ bindReg g.a) ∨ g.a = Reg.Q_CFG q ∨ g = .Q_STAT_CFG_ADJ q)

theorem offLevel_of_offPlaced {g : FldRef} (h : offPlaced q g) : offLevel q g := by
  obtain ⟨hi, h | h | h⟩ := h
  · exact ⟨hi, .inl h.1⟩
  · exact ⟨hi, .inr (.inl h)⟩
  · exact ⟨hi, .inr (.inr (.inr h))⟩

/-- Placing queue `k` writes its place and its count of duplicates; of `Q_STAT` NOMEM. -/
theorem ne_of_offPlaced {g : FldRef} (h : offPlaced q g) (hk : k < 128) :
    g.a ≠ Reg.Q_BASE k ∧ g.a ≠ Reg.Q_DUP k ∧ (FldRef.Q_STAT_NOMEM k).apart g := by
  obtain ⟨-, ⟨h, -⟩ | h | rfl⟩ := h
  · exact ⟨ne_of_offQueues h (queueReg_of_range hk (by simp only [Reg.Q_BASE]; omega)),
      ne_of_offQueues h (queueReg_of_range hk (by simp only [Reg.Q_DUP]; omega)),
      .inl (ne_of_offQueues h (queueReg_of_range hk (by simp only [Reg.Q_STAT]; omega))).symm⟩
  · simp only [FldRef.apart, h, Reg.Q_CFG, Reg.Q_BASE, Reg.Q_DUP, Reg.Q_STAT]
    omega
  · simp only [FldRef.apart, Reg.Q_BASE, Reg.Q_DUP, Reg.Q_STAT]
    omega

theorem bindReg_qbind {n : Nat} (hn : n ∈ anChs) : bindReg (Reg.CH_QBIND n) := by
  obtain ⟨i, hi, rfl⟩ := List.mem_map.mp hn
  rw [List.mem_range] at hi
  simp only [bindReg, Reg.CH_QBIND, anCh]
  omega

theorem ne_qbind_of_offPlaced {g : FldRef} (h : offPlaced q g) (hq : q < 128) {n : Nat} (hn : n ∈ anChs) : g.a ≠ Reg.CH_QBIND n := by
  intro e
  have hb : bindReg g.a := e ▸ bindReg_qbind hn
  obtain ⟨-, h | h | h⟩ := h
  · exact h.2 hb
  · simp only [bindReg, h, Reg.Q_CFG] at hb
    omega
  · simp only [bindReg, h, Reg.Q_STAT] at hb
    omega

/-- An update of the queues' records, and one of the shadows of the pops. -/
theorem queues_frame {P : FldRef → Prop} (s : State) (m : KMap QSt) : Frame popsFrom P s { s with queues := m } := .of_regs rfl rfl
theorem pops_frame {P : FldRef → Prop} (s : State) (m : KMap PSh) : Frame popsFrom P s { s with pops := m } := .of_regs rfl rfl

theorem qEmpty_frame (hk : k < 128) (nofit : Bool) (s : State) : Frame popsFrom (offPlaced q) s (qEmpty k nofit s) :=
  (((Frame.refl s).put _ _ fun _ hg => (ne_of_offPlaced hg hk).2.1).trans (queues_frame _ _)).trans (pops_frame _ _)

theorem Frame.noMem (h : Frame popsFrom (offPlaced q) s t) (hk : k < 128) (v : Nat) : Frame popsFrom (offPlaced q) s (t.put (.Q_STAT_NOMEM k) v) :=
  h.putApart _ _ (by simp) fun _ hg => ⟨(ne_of_offPlaced hg hk).2.2, hg.1⟩

theorem placeOne_frame (hk : k < 128) (p : State × Nat) : Frame popsFrom (offPlaced q) p.1 (placeOne k p).1 := by
  obtain ⟨s, b⟩ := p
  have hmem (v : Nat) := (Frame.refl s).noMem (q := q) hk v
  have hplace := (hmem 0).put (.Q_BASE_BASE k) b fun _ hg => (ne_of_offPlaced hg hk).1
  unfold placeOne
  dsimp only
  split
  · exact (hmem 0).trans (qEmpty_frame hk false _)
  split
  · exact (hmem 1).trans (qEmpty_frame hk true _)
  · exact .ite (fun _ => hplace.trans (qEmpty_frame hk false _)) fun _ => hplace

theorem lt_of_mem_placeOrder (hk : k ∈ placeOrder) : k < 128 := by
  simp only [placeOrder, List.mem_append, List.mem_map, List.mem_range] at hk
  omega

theorem placeAll_frame (l : List Nat) (hl : ∀ k ∈ l, k < 128) (p : State × Nat) :
    Frame popsFrom (offPlaced q) p.1 (l.foldl (fun st k => placeOne k st) p).1 := by
  induction l generalizing p with
  | nil => exact .refl _
  | cons k l ih => exact (placeOne_frame (hl k (by simp)) p).trans (ih (fun j hj => hl j (by simp [hj])) _)

theorem placeQueues_frame (hq : q < 128) (s : State) : Frame popsFrom (offPlaced q) s (placeQueues [q] s) := by
  have hempty := qEmpty_frame (q := q) hq (s.queue q).nofit s
  exact (hempty.trans (placeAll_frame placeOrder (fun _ => lt_of_mem_placeOrder) (_, 0))).trans (queues_frame _ _)

theorem rebind_frame (hq : q < 128) (s : State) : Frame popsFrom (offPlaced q) s (rebind s) :=
  .each _ _ s fun _ hn t => (Frame.refl t).put _ _ fun _ hg => ne_qbind_of_offPlaced hg hq hn

end Placed

section Settings

variable {r : Req}

/-- The ESIZE and the POLICY that a write stores: 0 for those that do not exist (R7, R234). -/
def esizeStored (w : Word) : Nat := if 6 ≤ bits w 10 8 then 0 else bits w 10 8
def policyStored (w : Word) : Nat := if bits w 25 24 = 3 then 0 else bits w 25 24

/-- `Q_CFG` as a write leaves it. -/
def settingsWord (w : Word) : Word := setBits (setBits w 10 8 (esizeStored w)) 25 24 (policyStored w)

/-- Whether a write of `Q_CFG` shows in CFG_ADJ (R7, R234). -/
def settingsAdjusted (w : Word) : Bool :=
  decide (6 ≤ bits w 10 8) || decide (bits w 25 24 = 3) || (esizeOn (bits w 10 8) && depthUsed (bits w 10 8) (bits w 20 16) != bits w 20 16)

/-- The state in which the settings are stored and shown, before the queues are placed anew. -/
def settingsStored (q : Nat) (w : Word) (s : State) : State := (wr (Reg.Q_CFG q) (settingsWord w) s).putB (.Q_STAT_CFG_ADJ q) (settingsAdjusted w)

/-- CFG_ADJ shows exactly a replaced kind or policy, or a depth that is used differently. -/
theorem settingsAdjusted_eq (w : Word) : ((esizeOn (esizeStored w) && decide (depthUsed (esizeStored w) (bits w 20 16) ≠ bits w 20 16)) ||
    decide (esizeStored w ≠ bits w 10 8) || decide (policyStored w ≠ bits w 25 24)) = settingsAdjusted w := by
  have hpol : policyStored w ≠ bits w 25 24 ↔ bits w 25 24 = 3 := by
    unfold policyStored
    split <;> omega
  by_cases h : 6 ≤ bits w 10 8
  · have hkind : esizeStored w ≠ bits w 10 8 := by
      rw [esizeStored, if_pos h]
      omega
    simp [settingsAdjusted, h, hkind]
  · have hkind : esizeStored w = bits w 10 8 := if_neg h
    simp only [settingsAdjusted, hkind, hpol]
    simp [h, Bool.or_comm, bne, beq_eq_decide]

/-- A change of the kind or the depth places the queues anew (R233). -/
def settingsPlaced (q : Nat) (w : Word) (s : State) : State :=
  if (s.get (.Q_CFG_ESIZE q), s.get (.Q_CFG_DEPTH q)) ≠ (esizeStored w, bits w 20 16) then rebind (placeQueues [q] (settingsStored q w s))
  else settingsStored q w s

theorem qCfgApply_eq (q : Nat) (w : Word) (s : State) :
    qCfgApply q w s = qStore q ((settingsPlaced q w s).queue q).ents (settingsPlaced q w s) := by
  rw [settingsPlaced, settingsStored, ← settingsAdjusted_eq]
  rfl

/-- What follows a stored setting leaves every setting, CFG_ADJ, and what is of no queue and no binding. -/
theorem qCfgApply_frame (hq : q < 128) (w : Word) (s : State) : Frame popsFrom (offPlaced q) (settingsStored q w s) (qCfgApply q w s) := by
  have hplaced : Frame popsFrom (offPlaced q) (settingsStored q w s) (settingsPlaced q w s) :=
    .ite (fun _ => (placeQueues_frame hq _).trans (rebind_frame hq _)) fun _ => .refl _
  rw [qCfgApply_eq]
  exact hplaced.trans ((qStore_frame hq _ _).pops.mono fun _ => offLevel_of_offPlaced)

theorem get_qCfgApply (hq : q < 128) (w : Word) (s : State) (hi lo : Nat) (h : hi < 32) :
    (qCfgApply q w s).get ⟨Reg.Q_CFG q, hi, lo⟩ = bits (settingsWord w) hi lo := by
  have hne : Reg.Q_CFG q ≠ Reg.Q_STAT q := by simp only [Reg.Q_CFG, Reg.Q_STAT]; omega
  rw [(qCfgApply_frame hq w s).get _ ⟨h, .inr (.inl rfl)⟩, settingsStored, State.putB, get_put_ne _ _ _ _ hne]
  exact get_wr (settingsWord w) s ⟨Reg.Q_CFG q, hi, lo⟩

theorem cfgAdj_qCfgApply (hq : q < 128) (w : Word) (s : State) : (qCfgApply q w s).is (.Q_STAT_CFG_ADJ q) = settingsAdjusted w :=
  ((qCfgApply_frame hq w s).is _ ⟨by simp, .inr (.inr rfl)⟩).trans (is_putB _ _ _ (by simp) (by simp))

/-- The fields beside ESIZE and POLICY are stored as written. -/
theorem bits_settingsWord (w : Word) {hi lo : Nat} (h : hi < 32) (h1 : hi < 8 ∨ 10 < lo) (h2 : hi < 24 ∨ 25 < lo) :
    bits (settingsWord w) hi lo = bits w hi lo := by
  rw [settingsWord, bits_setBits_ne _ _ _ _ _ _ (by decide) h h2, bits_setBits_ne _ _ _ _ _ _ (by decide) h h1]

theorem esize_settingsWord (w : Word) : bits (settingsWord w) 10 8 = esizeStored w := by
  have := bits_lt w 10 8
  rw [settingsWord, bits_setBits_ne _ _ _ _ _ _ (by decide) (by decide) (by decide), bits_setBits _ _ _ _ (by decide) (by decide)]
  unfold esizeStored
  split <;> omega

theorem policy_settingsWord (w : Word) : bits (settingsWord w) 25 24 = policyStored w := by
  have := bits_lt w 25 24
  rw [settingsWord, bits_setBits _ _ _ _ (by decide) (by decide)]
  unfold policyStored
  split <;> omega

/-- HOST, LOG and EXPORT are bits of the word written. -/
theorem is_qCfgApply (hq : q < 128) (w : Word) (s : State) {i : Nat} (h : 25 < i ∧ i < 32) : (qCfgApply q w s).is ⟨Reg.Q_CFG q, i, i⟩ = bitAt w i := by
  rw [State.is, get_qCfgApply hq w s i i h.2, bits_settingsWord w h.2 (by omega) (by omega)]
  simp [bits, nbits, bitAt, Nat.testBit_eq_decide_div_mod_eq, beq_eq_decide]

theorem exec_qCfgWrite {q : Fin 128} (h : Admitted s r (Reg.Q_CFG q) Msk.Q_CFG) :
    exec (.qCfgWrite r q w) s = .next (qCfgApply q (storedWord Msk.Q_CFG (rd s (Reg.Q_CFG q)) w) s) :=
  congrArg Host.Outcome.next (regWrite_admitted _ _ _ _ _ _ h)

/-- A write of the settings changes registers of queues and bindings, and what is stored in queues. -/
theorem qCfgApply_rest (hq : q < 128) (w : Word) (s : State) : qCfgApply q w s = popsFrom s (qCfgApply q w s) ∧
    ∀ a, ¬ (queueReg a = true) → ¬ bindReg a → rd (qCfgApply q w s) a = rd s a := by
  have hstored : Frame popsFrom (fun g => offPlaced q g ∧ queueReg g.a = false) s (settingsStored q w s) :=
    ((Frame.refl s).wr _ _ fun _ hg => ne_of_offQueues hg.2 (queueReg_of_range hq (by simp only [Reg.Q_CFG]; omega))).put _ _
      fun _ hg => ne_of_offQueues hg.2 (queueReg_of_range hq (by simp only [Reg.Q_STAT]; omega))
  have hall := hstored.trans ((qCfgApply_frame hq w s).mono fun _ => And.left)
  refine ⟨hall.rest, fun a ha hb => hall.rd a ?_⟩
  have hoff : queueReg a = false := Bool.eq_false_iff.mpr ha
  exact ⟨⟨by simp, .inl ⟨hoff, hb⟩⟩, hoff⟩

end Settings

/-- Settles O32: a write of the settings is `qCfgApply`; a read of the pops takes the head through `popNext`, or changes the requester's shadow alone. -/
theorem queueCommands : Obligations.QueueCommands := by
  unfold Obligations.QueueCommands
  refine ⟨?settings, ?lo, ?loNone, ?hi, ?hiNone, ?stream, ?streamPop, ?streamNone⟩
  case settings =>
    rintro s r q w v ha rfl
    have hq := q.isLt
    obtain ⟨hrest, hrd⟩ := qCfgApply_rest hq (storedWord Msk.Q_CFG (rd s (Reg.Q_CFG q)) w) s
    refine ⟨_, exec_qCfgWrite ha, ?_, ?_, ?_, is_qCfgApply hq _ s (by simp), is_qCfgApply hq _ s (by simp), is_qCfgApply hq _ s (by simp),
      cfgAdj_qCfgApply hq _ s, hrest, hrd⟩
    · exact (get_qCfgApply hq _ s 10 8 (by decide)).trans (esize_settingsWord _)
    · exact (get_qCfgApply hq _ s 20 16 (by decide)).trans (bits_settingsWord _ (by decide) (by decide) (by decide))
    · exact (get_qCfgApply hq _ s 25 24 (by decide)).trans (policy_settingsWord _)
  case lo =>
    intro s r q e hs hh hon he hw
    have hq := q.isLt
    obtain ⟨hwords, hpos, hdup⟩ := shadow_popNext (k := reqIx r) hq hh hon he
    obtain ⟨hrest, hrd⟩ := popRead_popNext_rest hq r (Reg.Q_POP_LO q) (popLoVal (reqIx r) q s) (reqIx r) s
    refine ⟨_, exec_qPopLo hs, popLoVal_some hq hh hon he hw, ?_, ?_, ?_, hrest, hrd⟩ <;> rw [psh_popRead]
    exacts [hwords, hpos, hdup]
  case loNone =>
    intro s r q hs h
    have hq := q.isLt
    have hnone := popped_eq_none (k := reqIx r) hq h
    obtain ⟨hrest, hrd⟩ := popRead_popNext_rest hq r (Reg.Q_POP_LO q) (popLoVal (reqIx r) q s) (reqIx r) s
    refine ⟨_, exec_qPopLo hs, popLoVal_none hnone, ?_, hrest, hrd⟩
    rw [psh_popRead, psh_popNext_none hnone]
  case hi =>
    intro s r q hs hw
    have heff : popHi (reqIx r) q s = s.setPsh q (reqIx r) _ := if_neg hw
    obtain ⟨hx, hrest, hrd⟩ := popRead_setPsh r (Reg.Q_POP_HI q) (popHiVal (reqIx r) q s) q (reqIx r) _ s
    refine ⟨_, (exec_qPopHi hs).trans (by rw [heff]), rfl, ?_, ?_, ?_, ?_, hrest, hrd⟩ <;> rw [hx]
  case hiNone =>
    intro s r q hs hw
    have heff : popHi (reqIx r) q s = s.setPsh q (reqIx r) _ := if_pos hw
    obtain ⟨hx, hrest, hrd⟩ := popRead_setPsh r (Reg.Q_POP_HI q) (popHiVal (reqIx r) q s) q (reqIx r) _ s
    refine ⟨_, (exec_qPopHi hs).trans (by rw [heff]), ?_, hx, hrest, hrd⟩
    show popHiVal (reqIx r) q s = 0
    rw [popHiVal, hw]
    rfl
  case stream =>
    intro s r q hs hp
    obtain ⟨hx, hrest, hrd⟩ := popRead_setPsh r (Reg.Q_POP_STREAM q) _ q (reqIx r) _ s
    exact ⟨_, exec_qPopStream_inside hs hp, rfl, hx, hrest, hrd⟩
  case streamPop =>
    intro s r q e hs hp hh hon he hw
    have hq := q.isLt
    obtain ⟨hwords, hpos, -⟩ := shadow_popNext (k := reqIx r) hq hh hon he
    refine ⟨_, exec_qPopStream_end hs hp, popLoVal_some hq hh hon he hw, ?_, ?_⟩ <;> rw [psh_popRead]
    exacts [hwords, hpos]
  case streamNone =>
    intro s r q hs hp h
    have hnone := popped_eq_none (k := reqIx r) q.isLt h
    refine ⟨_, exec_qPopStream_end hs hp, popLoVal_none hnone, ?_⟩
    rw [psh_popRead, psh_popNext_none hnone]

end Sys2Proof.Machine
end

section
/-! PROOFS. Frames of the ring at a module (R457, R458, R462): what reaches it, and what it sends and leaves. -/

namespace Sys2Proof.Machine

set_option Elab.async false

variable {P : FldRef → Prop} {s t : State} {ty : Nat} {f : RFrame}

/-- `s` with its registers and its part in the ring taken from `t`. -/
def ringFrom (s t : State) : State := { s with regs := t.regs, csn := t.csn }

theorem modCsn_frame (F : CsnSt → CsnSt) (s : State) : Frame ringFrom P s (s.modCsn F) := .of_regs rfl rfl

theorem ringStart_frame (s : State) : Frame ringFrom P s (ringStart s) := modCsn_frame _ s

theorem Frame.ring (h : Frame regsFrom P s t) : Frame ringFrom P s t := h.mono fun _ hg => hg

theorem sendOn_carried {x : Nat} (h : carries s x = true) : sendOn x f s = s.modCsn fun c => { c with sent := c.sent ++ [(x, f)] } := if_pos h

theorem sendOn_frame (x : Nat) (f : RFrame) (s : State) : Frame ringFrom P s (sendOn x f s) := .ite (fun _ => modCsn_frame _ s) fun _ => .refl s

theorem sendBoth_frame (f : RFrame) (s : State) : Frame ringFrom P s (sendBoth f s) := (sendOn_frame 0 f s).trans (sendOn_frame 1 f _)

theorem csn_sendOn (x : Nat) (f : RFrame) (s : State) :
    (sendOn x f s).csn = { s.csn with sent := if carries s x then s.csn.sent ++ [(x, f)] else s.csn.sent } := by
  rw [sendOn]
  split <;> rfl

theorem regs_sendOn (x : Nat) (f : RFrame) (s : State) : (sendOn x f s).regs = s.regs := by
  rw [sendOn]
  split
  · exact State.modCsn_regs _ _
  · rfl

variable {x : Fin 2} {g : State → State}

/-- A sound frame of the type that a row handles is handled (R462). -/
theorem ringRecv_gets (h : ringGets s x f ty = true) : ringRecv x ty f g s = g (ringStart s) := by
  simp only [ringGets, Bool.and_eq_true, beq_iff_eq] at h
  obtain ⟨⟨hc, hok⟩, hty⟩ := h
  simp only [ringRecv, hc, hok, hty, not_true_eq_false, if_false, if_true]

theorem carries_of_ringGets (h : ringGets s x f ty = true) : carries s x = true ∧ rframeOk f = true ∧ f.ty.toNat = ty := by
  simpa only [ringGets, Bool.and_eq_true, beq_iff_eq, and_assoc] using h

theorem rfieldsOk_of_rframeOk (h : rframeOk f = true) : rfieldsOk f = true := by
  simp only [rframeOk, Bool.and_eq_true] at h
  exact h.1.2

/-- The RESULT of a reply fits its field (R462). -/
theorem result_le_of_ringGets (h : ringGets s x f 0x02 = true) : bits f.w1 15 12 ≤ 3 := by
  obtain ⟨-, hok, hty⟩ := carries_of_ringGets h
  have hf := rfieldsOk_of_rframeOk hok
  simp only [rfieldsOk, hty, Bool.and_eq_true, decide_eq_true_eq] at hf
  exact hf.2

/-- A frame that exports entries names a queue (R462). -/
theorem queue_lt_of_ringGets (h : ringGets s x f 0x06 = true) : bits f.w1 23 16 < 128 := by
  obtain ⟨-, hok, hty⟩ := carries_of_ringGets h
  have hf := rfieldsOk_of_rframeOk hok
  simp only [rfieldsOk, hty, Bool.and_eq_true, decide_eq_true_eq] at hf
  exact hf.2

/-- `MOD_IRQ.RING` is raised (R216). -/
theorem bitAt_raiseIrq {b : Nat} (hb : b < 32) (s : State) : bitAt (rd (raiseIrq b s) Reg.MOD_IRQ) b = true := by
  rw [← is_bit]
  exact is_set1 s ⟨Reg.MOD_IRQ, b, b⟩ le_rfl hb

end Sys2Proof.Machine
end

section
/-! PROOFS. Remote access (R463 to R467): what GO, a request, a reply and the end of TMO do. -/

namespace Sys2Proof.Machine

set_option Elab.async false

section Go

variable {s : State} {r : Req} {w : Word} {m : Nat}

theorem exec_raGo (ha : Admitted s r Reg.CSN_RA_CMD Msk.CSN_RA_CMD) : exec (.raGo r w) s = .next (raGo w (ringStart s)) := by
  have hm : busMask Reg.CSN_RA_CMD = Msk.CSN_RA_CMD := by decide
  have hw : busWrite r Reg.CSN_RA_CMD w s = regWrite r Reg.CSN_RA_CMD Msk.CSN_RA_CMD w (busFn r Reg.CSN_RA_CMD) s := by
    rw [busWrite, if_pos (by decide), busSync_noLog (by decide), hm]
  exact congrArg Host.Outcome.next (hw.trans ((regWrite_admitted _ _ _ _ _ _ ha).trans (if_pos rfl)))

theorem raGo_noGo (h : bitAt w 0 = false) : raGo w s = s := by simp [raGo, h]

theorem raGo_busy (h : bitAt w 0 = true) (hb : s.is .CSN_RA_STAT_BUSY = true) : raGo w s = s.set1 .CSN_RA_STAT_IGNORED := by simp [raGo, h, hb]

theorem raGo_member (h : bitAt w 0 = true) (hb : s.is .CSN_RA_STAT_BUSY = false) (hh : isHead s = false) :
    raGo w s = raEnd raNotHead (s.put .CSN_RA_STAT_TRIES 0) := by simp [raGo, h, hb, hh]

variable (h : bitAt w 0 = true) (hb : s.is .CSN_RA_STAT_BUSY = false) (hh : isHead s = true)
include h hb hh

/-- A GO of the head, by the module that it names (R463). -/
theorem raGo_self (hm : bits w 31 24 = 0) :
    raGo w s = raEnd (raExec (busFn0 .ring) (raCmd s w) (raStart 1 s)).1
      (raBuf (raExec (busFn0 .ring) (raCmd s w) (raStart 1 s)).2.1 (raExec (busFn0 .ring) (raCmd s w) (raStart 1 s)).2.2) := by
  simp [raGo, h, hb, hh, hm]

theorem raGo_broadcast (hm : bits w 31 24 = 255) (hop : bits w 23 20 = 2) :
    raGo w s = raEnd raSent (sendBoth (headFrame (raStart 1 s) 0x01 (raW1 ((raStart 1 s).get .CSN_RA_STAT_RID) (raCmd s w)) (wd (raCmd s w).addr)
      (raCmd s w).data) (raStart 1 s)) := by
  have hcmd : (raCmd s w).op = 2 := hop
  simp [raGo, h, hb, hh, hm, hcmd]

theorem raGo_badBroadcast (hm : bits w 31 24 = 255) (hop : bits w 23 20 ≠ 2) : raGo w s = raEnd raBadCmd (s.put .CSN_RA_STAT_TRIES 0) := by
  have hcmd : (raCmd s w).op ≠ 2 := hop
  simp [raGo, h, hb, hh, hm, hcmd]

theorem raGo_absent (hm : bits w 31 24 = m) (h0 : 1 ≤ m) (h255 : m ≠ 255) (hp : 250 < m ∨ s.is (.CSN_ROS_STAT_PRESENT m) = false) :
    raGo w s = raEnd raNoModule (s.put .CSN_RA_STAT_TRIES 0) := by
  have hm0 : m ≠ 0 := by omega
  simp [raGo, h, hb, hh, hm, hm0, h255, hp]

omit h hb hh

/-- The state of a head that has sent a request (R463): a new RID, one try, and BUSY. -/
def raAsked (s : State) : State := (raStart 1 s).set1 .CSN_RA_STAT_BUSY

/-- The request that it sends to member `m`. -/
def raAskedFrame (w : Word) (m : Nat) (s : State) : RFrame :=
  { headFrame (raAsked s) 0x01 (raW1 ((raAsked s).get .CSN_RA_STAT_RID) (raCmd s w)) (wd (raCmd s w).addr) (raCmd s w).data with dst := BitVec.ofNat 8 m }

include h hb hh

theorem raGo_present (hm : bits w 31 24 = m) (h0 : 1 ≤ m) (h250 : m ≤ 250) (hp : s.is (.CSN_ROS_STAT_PRESENT m) = true) :
    raGo w s = sendOn (raPort (raAsked s) m) (raAskedFrame w m s)
      ((raAsked s).modCsn fun k => { k with raReq := some (raAskedFrame w m s, clk s) }) := by
  have hm0 : m ≠ 0 := by omega
  have hm255 : m ≠ 255 := by omega
  have hm250 : ¬ 250 < m := by omega
  simp only [raGo, h, hb, hh, hm, hm0, hm255, hm250, hp, not_true_eq_false, Bool.false_eq_true, or_self, if_false]
  rfl

end Go

section Asked

variable {s t : State} {w : Word} {m : Nat}

/-- A field outside `CSN_RA_STAT`. -/
def offRaStat (g : FldRef) : Prop := g.a ≠ Reg.CSN_RA_STAT

theorem raStart_frame (n : Nat) (s : State) : Frame regsFrom offRaStat s (raStart n s) :=
  (((Frame.refl s).put .CSN_RA_STAT_RID _ fun _ hg => hg).put .CSN_RA_STAT_TRIES _ fun _ hg => hg).put .CSN_RA_STAT_TKO _ fun _ hg => hg

theorem raAsked_frame (s : State) : Frame regsFrom offRaStat s (raAsked s) := (raStart_frame 1 s).put _ _ fun _ hg => hg

/-- What `CSN_RA_STAT` then shows. -/
theorem raStat_raAsked (s : State) : (raAsked s).is .CSN_RA_STAT_BUSY = true ∧ (raAsked s).get .CSN_RA_STAT_TRIES = 1 ∧
    (raAsked s).get .CSN_RA_STAT_RID = (s.get .CSN_RA_STAT_RID + 1) % 2 ^ 16 ∧ (raAsked s).is .CSN_RA_STAT_TKO = false := by
  refine ⟨is_set1 _ _ (by simp) (by simp), ?_, ?_, ?_⟩
  · rw [raAsked, State.set1, get_put_apart _ _ _ _ (by simp) (by simp) (by simp [FldRef.apart]), raStart,
      get_put_apart _ _ _ _ (by simp) (by simp) (by simp [FldRef.apart]), get_put _ _ _ (by simp) (by simp)]
    rfl
  · rw [raAsked, State.set1, get_put_apart _ _ _ _ (by simp) (by simp) (by simp [FldRef.apart]), raStart,
      get_put_apart _ _ _ _ (by simp) (by simp) (by simp [FldRef.apart]), get_put_apart _ _ _ _ (by simp) (by simp) (by simp [FldRef.apart]),
      get_incWrap _ _ (by simp) (by simp)]
    rfl
  · rw [State.is, raAsked, State.set1, get_put_apart _ _ _ _ (by simp) (by simp) (by simp [FldRef.apart]), raStart, get_put _ _ _ (by simp) (by simp)]
    rfl

/-- The module's address and the state of its links are not in `CSN_RA_STAT`, nor the way to a member. -/
theorem headFrame_of_frame (h : Frame regsFrom offRaStat s t) (ty : Byte) (w1 w2 : Word) (l : List Word) :
    headFrame t ty w1 w2 l = headFrame s ty w1 w2 l := by
  rw [headFrame, headFrame, myAddr, myAddr, h.get .CSN_STAT_ADDR (by unfold offRaStat; decide)]

theorem carries_of_frame (h : Frame regsFrom offRaStat s t) {x : Nat} (hx : x < 2) : carries t x = carries s x := by
  have hcsn : t.csn = s.csn := h.unchanged State.csn
  have hup : t.is (.CSN_LK_STAT_UP x) = s.is (.CSN_LK_STAT_UP x) := h.is _ (by simp only [offRaStat, Reg.CSN_LK_STAT, Reg.CSN_RA_STAT]; omega)
  simp only [carries, linkUpR, State.link, hup, hcsn]

/-- A request that is kept bears on no link. -/
theorem carries_asking (q : Option (RFrame × Nat)) (s : State) (x : Nat) : carries (s.modCsn fun k => { k with raReq := q }) x = carries s x := rfl

theorem raPort_of_frame (h : Frame regsFrom offRaStat s t) (m : Nat) : raPort t m = raPort s m := by
  have hcsn : t.csn = s.csn := h.unchanged State.csn
  simp only [raPort, hcsn, h.is .CSN_STAT_RING (by unfold offRaStat; decide)]

theorem raPort_lt (s : State) (m : Nat) : raPort s m < 2 := by
  unfold raPort
  split_ifs
  · split
    · split <;> decide
    · decide
  · decide
  · decide

/-- What a head's request to a present member does (R463, R465). -/
theorem raGo_present_spec (h : bitAt w 0 = true) (hb : s.is .CSN_RA_STAT_BUSY = false) (hh : isHead s = true) (hm : bits w 31 24 = m) (h0 : 1 ≤ m)
    (h250 : m ≤ 250) (hp : s.is (.CSN_ROS_STAT_PRESENT m) = true) :
    (raGo w s).regs = (raAsked s).regs ∧ raGo w s = ringFrom s (raGo w s) ∧ (raGo w s).csn = { s.csn with
      raReq := some (raAskedFrame w m s, clk s),
      sent := if carries s (raPort s m) then s.csn.sent ++ [(raPort s m, raAskedFrame w m s)] else s.csn.sent } := by
  have hf := raAsked_frame s
  have hcsn : (raAsked s).csn = s.csn := hf.unchanged State.csn
  have hcarry : carries ((raAsked s).modCsn fun k => { k with raReq := some (raAskedFrame w m s, clk s) }) (raPort s m) = carries s (raPort s m) :=
    (carries_asking _ _ _).trans (carries_of_frame hf (raPort_lt s m))
  rw [raGo_present h hb hh hm h0 h250 hp, raPort_of_frame hf]
  refine ⟨(regs_sendOn _ _ _).trans (State.modCsn_regs _ _), ((hf.ring.trans (modCsn_frame _ _)).trans (sendOn_frame _ _ _)).rest, ?_⟩
  rw [csn_sendOn, hcarry, State.modCsn_csn, hcsn]

/-- The request carries the RID that `CSN_RA_STAT` shows. -/
theorem raAskedFrame_eq (w : Word) (m : Nat) (s : State) : raAskedFrame w m s =
    { headFrame s 0x01 (raW1 ((s.get .CSN_RA_STAT_RID + 1) % 2 ^ 16) (raCmd s w)) (wd (raCmd s w).addr) (raCmd s w).data with
      dst := BitVec.ofNat 8 m } := by
  obtain ⟨-, -, hrid, -⟩ := raStat_raAsked s
  rw [raAskedFrame, headFrame_of_frame (raAsked_frame s), hrid]

end Asked

section Request

variable {s : State} {f : RFrame} {x : Fin 2}

/-- What a module does with a request that reaches it (R457, R464). -/
theorem exec_raReq (h : ringGets s x f 0x01 = true) : exec (.raReq x f) s = .next
    (if isHead s then ringStart s
    else if ¬ raLenOk f then (ringStart s).inc (.CSN_LK_ERR_CRC x)
    else if f.dst = 255 then forward x f (if bits f.w1 15 12 = 2 then raTarget f false (ringStart s) else ringStart s)
    else if f.dst = myAddr s then raTarget f true (ringStart s)
    else forward x f (ringStart s)) := congrArg Host.Outcome.next (ringRecv_gets h)

/-- A sound request at a member is for every module, for it alone, or for another (R457, R464). -/
theorem exec_raReq_member (h : ringGets s x f 0x01 = true) (hh : isHead s = false) (hl : raLenOk f = true) : exec (.raReq x f) s = .next
    (if f.dst = 255 then forward x f (if bits f.w1 15 12 = 2 then raTarget f false (ringStart s) else ringStart s)
    else if f.dst = myAddr s then raTarget f true (ringStart s)
    else forward x f (ringStart s)) := by
  rw [exec_raReq h, hh, hl, if_neg (by simp), if_neg (by simp)]

/-- A request whose RID is the last one's has been executed (R465). -/
theorem raTarget_again {y : RFrame} {reply : Bool} (h : s.csn.kept = some (bits f.w1 31 16, y)) :
    raTarget f reply s = if reply then sendUp y s else s := by
  simp only [raTarget, h, if_true]

theorem raTarget_kept (h : s.csn.kept.map (fun k => k.1) = some (bits f.w1 31 16)) : raTarget f false s = s := by
  obtain ⟨⟨_, y⟩, hk, rfl⟩ := Option.map_eq_some_iff.mp h
  exact raTarget_again hk

/-- Any other request is executed, and its reply kept (R464, R465). -/
theorem raTarget_new {reply : Bool} (h : s.csn.kept.map (fun k => k.1) ≠ some (bits f.w1 31 16)) :
    raTarget f reply s = (fun t => if reply then sendUp (raReply s f (raExec (busFn .ring) (raOf f) s).1 (raExec (busFn .ring) (raOf f) s).2.1) t else t)
      ((raExec (busFn .ring) (raOf f) s).2.2.modCsn fun k => { k with
        kept := some (bits f.w1 31 16, raReply s f (raExec (busFn .ring) (raOf f) s).1 (raExec (busFn .ring) (raOf f) s).2.1),
        tko := k.tko && !reply }) := by
  cases hk : s.csn.kept with
  | none => simp only [raTarget, hk]
  | some k =>
    have hne : k.1 ≠ bits f.w1 31 16 := fun e => h (by rw [hk, ← e]; rfl)
    simp only [raTarget, hk, hne, if_false]

end Request

section Reply

variable {s : State} {f : RFrame} {x : Fin 2} {res i : Nat}

theorem exec_raRsp (h : ringGets s x f 0x02 = true) :
    exec (.raRsp x f) s = .next (if isHead s then raReceive f (ringStart s) else forward x f (ringStart s)) :=
  congrArg Host.Outcome.next ((ringRecv_gets h).trans (if_neg (Nat.not_lt.mpr (result_le_of_ringGets h))))

/-- The words read fill `CSN_RA_BUF` from its first word on (R463). -/
theorem rd_storeFrom (l : List Word) (k : Nat) (s : State) (i : Nat) :
    rd (s.each (l.zipIdx k) fun p s => wr (Reg.CSN_RA_BUF p.2) p.1 s) (Reg.CSN_RA_BUF (k + i)) = l.getD i (rd s (Reg.CSN_RA_BUF (k + i))) := by
  induction l generalizing k s i with
  | nil => rfl
  | cons w l ih =>
    rw [List.zipIdx_cons, each_cons]
    cases i with
    | zero =>
      refine (each_ind (fun t => rd t (Reg.CSN_RA_BUF k) = w) _ _ _ (rd_wr_same _ _ _) fun p hp t ht => ?_)
      have hk := (List.mk_mem_zipIdx_iff_le_and_getElem?_sub.mp hp).1
      rw [rd_wr_ne _ _ _ _ (by simp only [Reg.CSN_RA_BUF]; omega), ht]
    | succ i =>
      rw [show k + (i + 1) = k + 1 + i by omega, ih, rd_wr_ne _ _ _ _ (by simp only [Reg.CSN_RA_BUF]; omega)]
      rfl

theorem rd_raBuf (l : List Word) (s : State) (hi : i < 64) : rd (raBuf l s) (Reg.CSN_RA_BUF i) = l.getD i (rd s (Reg.CSN_RA_BUF i)) := by
  have h := rd_storeFrom (l.take 64) 0 s i
  rw [Nat.zero_add] at h
  rw [raBuf, h]
  simp [List.getD_eq_getElem?_getD, hi]

/-- A field outside `CSN_RA_BUF`. -/
def offRaBuf (g : FldRef) : Prop := ¬ (Reg.CSN_RA_BUF 0 ≤ g.a ∧ g.a < Reg.CSN_RA_BUF 64)

theorem raBuf_frame (l : List Word) (s : State) : Frame regsFrom offRaBuf s (raBuf l s) :=
  .each _ _ s fun p hp t => (Frame.refl t).wr _ _ fun g hg e => by
    obtain ⟨hk, -⟩ := List.getElem?_eq_some_iff.mp (List.mk_mem_zipIdx_iff_getElem?.mp hp)
    rw [List.length_take] at hk
    simp only [offRaBuf, e, Reg.CSN_RA_BUF] at hg
    omega

/-- The state in which a reply with RESULT `res` has been taken, before the access ends (R465). -/
def raReplied (res : Nat) (f : RFrame) (s : State) : State :=
  (if res = raOk then raBuf f.data s else s).putB .CSN_RA_STAT_TKO (bitAt (wd f.flags.toNat) 1)

theorem raReceive_busy (hb : s.is .CSN_RA_STAT_BUSY = true) (hr : bits f.w1 31 16 = s.get .CSN_RA_STAT_RID) :
    raReceive f s = raEnd (bits f.w1 15 12) (raReplied (bits f.w1 15 12) f s) := if_pos ⟨hb, hr⟩

theorem raReceive_other (h : s.is .CSN_RA_STAT_BUSY = false ∨ bits f.w1 31 16 ≠ s.get .CSN_RA_STAT_RID) : raReceive f s = s := by
  refine if_neg ?_
  rintro ⟨hb, hr⟩
  rcases h with h | h
  · rw [hb] at h
    cases h
  · exact h hr

theorem raReplied_frame (res : Nat) (f : RFrame) (s : State) : Frame regsFrom (fun g => offRaStat g ∧ offRaBuf g) s (raReplied res f s) := by
  have hbuf : Frame regsFrom (fun g => offRaStat g ∧ offRaBuf g) s (if res = raOk then raBuf f.data s else s) :=
    .ite (fun _ => (raBuf_frame _ s).mono fun _ => And.right) fun _ => .refl s
  exact hbuf.put .CSN_RA_STAT_TKO _ fun _ hg => hg.1

theorem rd_raReplied (res : Nat) (f : RFrame) (s : State) (hi : i < 64) : rd (raReplied res f s) (Reg.CSN_RA_BUF i) =
    if res = raOk then f.data.getD i (rd s (Reg.CSN_RA_BUF i)) else rd s (Reg.CSN_RA_BUF i) := by
  rw [raReplied, State.putB, rd_put_ne _ _ _ _ (by simp only [Reg.CSN_RA_BUF, Reg.CSN_RA_STAT]; omega)]
  split
  · exact rd_raBuf _ s hi
  · rfl

/-- The end of an access writes `CSN_RA_STAT` and `MOD_IRQ` (R463, R467). -/
theorem raEnd_frame (res : Nat) (s : State) : Frame ringFrom (fun g => offRaStat g ∧ g.a ≠ Reg.MOD_IRQ) s (raEnd res s) :=
  (((modCsn_frame _ s).put .CSN_RA_STAT_BUSY 0 fun _ hg => hg.1).put .CSN_RA_STAT_RESULT res fun _ hg => hg.1).put ⟨Reg.MOD_IRQ, irqRing, irqRing⟩ 1
    fun _ hg => hg.2

theorem csn_raEnd (res : Nat) (s : State) : (raEnd res s).csn = { s.csn with raReq := none } := rfl

/-- BUSY ends, RESULT is shown, and TKO stays (R467). -/
theorem raStat_raEnd (res : Nat) (s : State) : (raEnd res s).is .CSN_RA_STAT_BUSY = false ∧ (raEnd res s).get .CSN_RA_STAT_RESULT = res % 2 ^ 4 ∧
    (raEnd res s).is .CSN_RA_STAT_TKO = s.is .CSN_RA_STAT_TKO := by
  have hirq (t : State) (g : FldRef) (hg : g.a = Reg.CSN_RA_STAT) : (raiseIrq irqRing t).get g = t.get g :=
    get_put_ne _ _ _ _ (by rw [hg]; decide)
  refine ⟨?_, ?_, ?_⟩
  · rw [State.is, raEnd, hirq _ _ rfl, get_put_apart _ _ _ _ (by simp) (by simp) (by simp [FldRef.apart]), get_put _ _ _ (by simp) (by simp)]
    rfl
  · rw [raEnd, hirq _ _ rfl, get_put _ _ _ (by simp) (by simp)]
    rfl
  · rw [State.is, raEnd, hirq _ _ rfl, get_put_apart _ _ _ _ (by simp) (by simp) (by simp [FldRef.apart]),
      get_put_apart _ _ _ _ (by simp) (by simp) (by simp [FldRef.apart]), State.modCsn_get, State.is]

end Reply

section Timeout

variable {s : State} {f : RFrame} {k : Nat}

theorem exec_raTimeout (s : State) : exec .raTimeout s = .next (raTimeout (ringStart s)) := rfl

/-- The end of TMO, of an access sent at edge `k` (R465). -/
theorem raTimeout_none (h : s.csn.raReq = none) : raTimeout s = s := by simp only [raTimeout, h]

theorem raTimeout_early (h : s.csn.raReq = some (f, k)) (he : (clk s - k) * 10000 < raTmo s * tickS) : raTimeout s = s := by
  simp only [raTimeout, h, he, if_true]

theorem raTimeout_again (h : s.csn.raReq = some (f, k)) (he : raTmo s * tickS ≤ (clk s - k) * 10000)
    (ht : s.get .CSN_RA_STAT_TRIES ≤ s.get .CSN_RA_CFG_RETRIES) : raTimeout s =
    sendOn (raPort s f.dst.toNat) f ((s.inc .CSN_RA_STAT_TRIES).modCsn fun k => { k with raReq := some (f, clk s) }) := by
  simp only [raTimeout, h, Nat.not_lt.mpr he, ht, if_false, if_true]

theorem raTimeout_last (h : s.csn.raReq = some (f, k)) (he : raTmo s * tickS ≤ (clk s - k) * 10000)
    (ht : s.get .CSN_RA_CFG_RETRIES < s.get .CSN_RA_STAT_TRIES) : raTimeout s = raEnd raNoReply s := by
  simp only [raTimeout, h, Nat.not_lt.mpr he, Nat.not_le.mpr ht, if_false]

end Timeout

end Sys2Proof.Machine
end

section
/-! PROOFS. Exported entries on the ring (R260, R468, R469): what a module sends of its queues, and what the head makes of it. -/

namespace Sys2Proof.Machine

set_option Elab.async false

section Send

variable {s : State} {q : Nat} {e : QEnt} {g : SegOut}

theorem exportSend_barred (hh : isHead s = false) (h : ringTrained s = false ∨ carries s (upPort s) = false ∨ (s.link (upPort s)).paused = true) :
    exportSend s = s := by
  rw [exportSend, if_pos]
  rw [hh]
  rcases h with h | h | h <;> simp [h]

/-- A module that can send entries of its queues: the head, or a member whose way up is trained, open and not paused (R462, R468). -/
def canExport (s : State) : Prop := isHead s = true ∨ (ringTrained s = true ∧ carries s (upPort s) = true ∧ (s.link (upPort s)).paused = false)

theorem not_exportBarred (h : canExport s) :
    ¬ (¬ isHead s = true ∧ ¬ (ringTrained s = true ∧ carries s (upPort s) = true ∧ ¬ (s.link (upPort s)).paused = true)) := by
  rcases h with h | h <;> simp [h]

/-- It sends the next segment of a long entry, or the head entry of the lowest queue with one (R468, R469). -/
theorem exportSend_segment (h : canExport s) (hg : s.csn.seg = some g) : exportSend s = expSegment g s := by
  rw [exportSend, if_neg (not_exportBarred h), hg]

theorem exportSend_entry (h : canExport s) (hg : s.csn.seg = none) (hq : expQueue s = some q) (he : expHead (s.queue q).ents = some e) :
    exportSend s = expNext q e s := by
  simp only [exportSend, if_neg (not_exportBarred h), hg, hq, he]

theorem exportSend_idle (hg : s.csn.seg = none) (hq : expQueue s = none) : exportSend s = s := by
  simp only [exportSend, hg, hq, ite_self]

/-- The head entry, by who exports it and from what queue (R468, R469). -/
theorem expNext_skip (hl : 65535 < e.len) : expNext q e s = (expTaken q 1 s).inc .CSN_SRC_STAT_SKIP := if_pos hl

theorem expNext_head (hl : e.len ≤ 65535) (hh : isHead s = true) :
    expNext q e s = expTaken q 1 (expWrite 0 q (rd s (Reg.Q_EXPORT q)) (entWords s q e) e.len s) := by
  simp only [expNext, if_neg (Nat.not_lt.mpr hl), hh, if_true]

theorem expNext_variable (hl : e.len ≤ 65535) (hh : isHead s = false) (hv : qVar s q = true) : expNext q e s =
    expSegment { q := q, pos := e.pos, seq := rd s (Reg.Q_EXPORT q), len := e.len, rest := entWords s q e, ix := 0 } s := by
  simp only [expNext, if_neg (Nat.not_lt.mpr hl), hh, hv, if_true, Bool.false_eq_true, if_false]

theorem expNext_fixed (hl : e.len ≤ 65535) (hh : isHead s = false) (hv : qVar s q = false) : expNext q e s =
    expTaken q ((expReady s q).take (256 / max 1 e.len)).length
      (sendUp (expFrame s q e.len (rd s (Reg.Q_EXPORT q)) 0 0 (((expReady s q).take (256 / max 1 e.len)).flatMap (entWords s q))) s) := by
  simp only [expNext, if_neg (Nat.not_lt.mpr hl), hh, hv, Bool.false_eq_true, if_false]

/-- The frame of the next segment, and the state in which it has left (R468). -/
def segFrame (s : State) (g : SegOut) : RFrame :=
  expFrame s g.q g.len g.seq (16 * b2n (g.ix == 0) + 32 * b2n (decide (g.rest.length ≤ 64))) g.ix (g.rest.take 64)
def segLeft (g : SegOut) (o : Option SegOut) (s : State) : State :=
  s.modCsn fun c => { c with sent := c.sent ++ [(upPort s, segFrame s g)], seg := o }

theorem expSegment_more (hc : carries s (upPort s) = true) (hl : 64 < g.rest.length) :
    expSegment g s = segLeft g (some { g with rest := g.rest.drop 64, ix := g.ix + 1 }) s := by
  simp only [expSegment, Nat.not_le.mpr hl, decide_false, Bool.false_eq_true, if_false, sendUp, sendOn_carried hc]
  rw [segLeft, segFrame, decide_eq_false (Nat.not_le.mpr hl)]
  rfl

/-- With the last segment the entry is passed, unless it is no longer the queue's head (R468). -/
theorem expSegment_last (hc : carries s (upPort s) = true) (hl : g.rest.length ≤ 64) (he : expHead (s.queue g.q).ents = some e) (hp : e.pos = g.pos)
    (hn : e.len = g.len) (hs : rd s (Reg.Q_EXPORT g.q) = g.seq) : expSegment g s = expTaken g.q 1 (segLeft g none s) := by
  simp only [expSegment, hl, decide_true, if_true, sendUp, sendOn_carried hc, he, hp, hn, hs, and_self]
  rw [segLeft, segFrame, decide_eq_true hl]
  rfl

theorem expSegment_lost (hc : carries s (upPort s) = true) (hl : g.rest.length ≤ 64)
    (hk : (expHead (s.queue g.q).ents).map (fun e => (e.pos, e.len, rd s (Reg.Q_EXPORT g.q))) ≠ some (g.pos, g.len, g.seq)) :
    expSegment g s = segLeft g none s := by
  have hleft : expSegment g s = segLeft g none s ∨ ∃ e, expHead (s.queue g.q).ents = some e ∧ e.pos = g.pos ∧ e.len = g.len ∧
      rd s (Reg.Q_EXPORT g.q) = g.seq := by
    simp only [expSegment, hl, decide_true, if_true, sendUp, sendOn_carried hc, segLeft, segFrame]
    cases he : expHead (s.queue g.q).ents with
    | none => exact .inl rfl
    | some e =>
      by_cases h : e.pos = g.pos ∧ e.len = g.len ∧ rd s (Reg.Q_EXPORT g.q) = g.seq
      · exact .inr ⟨e, rfl, h⟩
      · exact .inl (if_neg h)
  obtain h | ⟨e, he, hp, hn, hs⟩ := hleft
  · exact h
  · exact absurd (by rw [he, Option.map_some, hp, hn, hs]) hk

end Send

section Receive

variable {s : State} {x : Fin 2} {f : RFrame} {ok : Bool}

/-- What becomes of a frame that exports entries (R457, R462, R469). -/
theorem exec_exportReceive_unheard (hc : carries s x = false) : exec (.exportReceive x f ok) s = .next (ringStart s) :=
  congrArg Host.Outcome.next (if_pos (by simp [hc]))

theorem exec_exportReceive_member (hc : carries s x = true) (hh : isHead s = false) : exec (.exportReceive x f ok) s =
    .next (if ok = true ∧ rframeOk f = true then forward x f (ringStart s) else (ringStart s).inc (.CSN_LK_ERR_CRC x)) := by
  refine congrArg Host.Outcome.next ?_
  simp only [hc, hh, not_true_eq_false, if_false, Bool.false_eq_true, not_false_eq_true, if_true]

theorem exec_exportReceive_badCrc (hc : carries s x = true) (hh : isHead s = true) :
    exec (.exportReceive x f false) s = .next (((ringStart s).inc (.CSN_LK_ERR_CRC x)).inc .CSN_EXP_STAT_BAD) := by
  refine congrArg Host.Outcome.next ?_
  simp only [hc, hh, not_true_eq_false, if_false, Bool.false_eq_true, not_false_eq_true, if_true]

theorem exec_exportReceive_malformed (hc : carries s x = true) (hf : rframeOk f = false) :
    exec (.exportReceive x f true) s = .next ((ringStart s).inc (.CSN_LK_ERR_CRC x)) := by
  refine congrArg Host.Outcome.next ?_
  simp only [hc, hf, not_true_eq_false, if_false, Bool.false_eq_true, and_false, not_false_eq_true, true_or, if_true, ite_self]

theorem exec_exportReceive_head (h : ringGets s x f 0x06 = true) (hh : isHead s = true) :
    exec (.exportReceive x f true) s = .next (exportHead f (ringStart s)) := by
  obtain ⟨hc, hf, hty⟩ := carries_of_ringGets h
  have hq : ¬ 128 ≤ bits f.w1 23 16 := Nat.not_le.mpr (queue_lt_of_ringGets h)
  have hty' : f.ty = 0x06 := BitVec.eq_of_toNat_eq hty
  refine congrArg Host.Outcome.next ?_
  simp only [hc, hf, hh, hq, hty', not_true_eq_false, if_false, or_self, if_true]

/-- The sequences of segments without that of the frame's queue; with that one as it goes on; and that one (R469). -/
def joinDropped (f : RFrame) (s : State) : State :=
  s.modCsn fun c => { c with joins := c.joins.filter (fun p => p.1 ≠ f.src.toNat * 256 + bits f.w1 23 16) }
def joinKept (f : RFrame) (g : SegIn) (s : State) : State :=
  s.modCsn fun c => { c with joins := kset {} c.joins (f.src.toNat * 256 + bits f.w1 23 16) g }
def joinOf (f : RFrame) (s : State) : SegIn := kget {} s.csn.joins (f.src.toNat * 256 + bits f.w1 23 16)

/-- The head's part with exported entries, by the frame's FIRST and LAST flags (R469). -/
theorem exportHead_whole (h1 : bitAt (wd f.flags.toNat) 4 = true) (h2 : bitAt (wd f.flags.toNat) 5 = true) :
    exportHead f s = expWrite f.src.toNat (bits f.w1 23 16) f.w2 f.data (bits f.w1 15 0) (joinDropped f s) := by
  simp only [exportHead, h1, h2, and_self, if_true]
  rfl

theorem exportHead_first (h1 : bitAt (wd f.flags.toNat) 4 = true) (h2 : bitAt (wd f.flags.toNat) 5 = false) : exportHead f s =
    if f.seg = 0 then joinKept f { seq := f.w2, len := bits f.w1 15 0, words := f.data, ix := 1 } (joinDropped f s) else joinDropped f s := by
  simp only [exportHead, h1, h2, Bool.false_eq_true, and_false, if_false, if_true]
  rfl

theorem exportHead_next (h1 : bitAt (wd f.flags.toNat) 4 = false) (h2 : bitAt (wd f.flags.toNat) 5 = true ∨ f.seg ≠ 0) : exportHead f s =
    if (joinOf f s).ix ≠ 0 ∧ (joinOf f s).ix = f.seg.toNat ∧ (joinOf f s).seq = f.w2 then
      (if bitAt (wd f.flags.toNat) 5 = true then
        expWrite f.src.toNat (bits f.w1 23 16) f.w2 ((joinOf f s).words ++ f.data) (bits f.w1 15 0) (joinDropped f s)
      else joinKept f { joinOf f s with words := (joinOf f s).words ++ f.data, ix := (joinOf f s).ix + 1 } s)
    else joinDropped f s := by
  simp only [exportHead, h1, h2, Bool.false_eq_true, false_and, if_false, if_true]
  rfl

theorem exportHead_fixed (h1 : bitAt (wd f.flags.toNat) 4 = false) (h2 : bitAt (wd f.flags.toNat) 5 = false) (h0 : f.seg = 0) : exportHead f s =
    (chunks (max 1 ((bits f.w1 15 0 + 3) / 4)) f.data.length f.data).zipIdx.foldl
      (fun s p => expWrite f.src.toNat (bits f.w1 23 16) (f.w2 + wd p.2) p.1 (bits f.w1 15 0) s) s := by
  simp only [exportHead, h1, h2, h0, Bool.false_eq_true, and_self, if_false, ne_eq, not_true_eq_false, or_self]

end Receive

end Sys2Proof.Machine
end

section
/-! PROOFS. Alarms over the ring (R459, R460, R470): what a member sends and what the head makes of it. -/

namespace Sys2Proof.Machine

set_option Elab.async false

variable {s : State} {x : Fin 2} {f : RFrame}

section Send

/-- The member's last alarm lies 10 ms back (R470). -/
def alarmSpaced (s : State) : Bool :=
  match s.csn.alAt with
  | some t => decide (t + tick10Ms ≤ clk s)
  | none => true

/-- Nothing is to be told, or it cannot be told now (R470). -/
def alarmRests (s : State) : Prop :=
  isHead s = true ∨ ¬ s.is .CSN_CFG_ALARM_EN = true ∨ almBits s &&& ~~~ s.csn.alSeen = 0 ∨ ¬ alarmSpaced s = true ∨ ¬ carries s (upPort s) = true

/-- The bits of `MOD_IRQ` that have risen are noted with the time (R470); and the alarm of them has been sent beside. -/
def alarmNoted (s : State) : State := (ringStart s).modCsn fun c => { c with alSeen := c.alSeen ||| almBits s, alAt := some (clk s) }
def irqAlarmed (s : State) : State :=
  (alarmNoted s).modCsn fun c => { c with sent := [(upPort s, memberFrame s 0x07 0 0x01000000 (almBits s) (words64 (now s)))] }

theorem exec_alarmSend_quiet (h : alarmRests s) : exec .alarmSend s = .next (ringStart s) := congrArg Host.Outcome.next (if_pos h)

theorem exec_alarmSend_due (h : ¬ alarmRests s) : exec .alarmSend s = .next (sendAlarm 1 (almBits s) (alarmNoted s)) :=
  congrArg Host.Outcome.next (if_neg h)

theorem isHead_alarmNoted (s : State) : isHead (alarmNoted s) = isHead s := rfl

theorem carries_alarmNoted (s : State) : carries (alarmNoted s) (upPort (alarmNoted s)) = carries s (upPort s) := rfl

theorem exec_alarmSend (hh : isHead s = false) (hen : s.is .CSN_CFG_ALARM_EN = true) (hb : almBits s &&& ~~~ s.csn.alSeen ≠ 0)
    (hsp : alarmSpaced s = true) (hc : carries s (upPort s) = true) : exec .alarmSend s = .next (irqAlarmed s) := by
  have hdue : ¬ alarmRests s := by
    simp only [alarmRests, hh, hen, hsp, hc, Bool.false_eq_true, not_true_eq_false, or_false, false_or]
    exact hb
  have hmember : ¬ isHead (alarmNoted s) = true := by simp [isHead_alarmNoted, hh]
  rw [exec_alarmSend_due hdue, sendAlarm, if_neg hmember, sendUp, sendOn_carried ((carries_alarmNoted s).trans hc)]
  rfl

end Send

section Receive

theorem exec_alarm (h : ringGets s x f 0x07 = true) :
    exec (.alarm x f) s = .next (if isHead s then alarmHead f (ringStart s) else forward x f (ringStart s)) :=
  congrArg Host.Outcome.next (ringRecv_gets h)

/-- What the head does beside its record, by CODE (R459, R460). -/
theorem alarmHead_down (h : bits f.w1 31 24 = 2) :
    alarmHead f s = sendReroute f.src.toNat (bits f.w2 7 0) (almRecord f.src.toNat 2 f.w2 f.data s) := by
  rw [alarmHead, h]
  rfl

theorem alarmHead_up (h : bits f.w1 31 24 = 3) (hf : bitAt (wd f.flags.toNat) 3 = false) :
    alarmHead f s = sendReroute 0xFF 0xFF (almRecord f.src.toNat 3 f.w2 f.data s) := by
  rw [alarmHead, h, hf]
  rfl

theorem alarmHead_other (h2 : bits f.w1 31 24 ≠ 2) (h3 : ¬ (bits f.w1 31 24 = 3 ∧ ¬ bitAt (wd f.flags.toNat) 3 = true)) :
    alarmHead f s = almRecord f.src.toNat (bits f.w1 31 24) f.w2 f.data s := by
  simp only [alarmHead, if_neg h2, if_neg h3]

/-- What a record and the rerouting that follows it may change. -/
def alarmFrom (s t : State) : State := { queuedFrom s t with csn := t.csn }

theorem almRecord_frame (m code : Nat) (w : Word) (l : List Word) (s : State) : Frame alarmFrom offQueues s (almRecord m code w l s) := by
  have hpush : Frame alarmFrom offQueues s (if s.is .CSN_HEADQ_ALM_EN then
      qPushFixed 16 (s.get .CSN_HEADQ_ALM_Q) .active [[wd (mk [(m, 24), (code, 16)]), w, l.getD 0 0, l.getD 1 0]] s else s) :=
    .ite (fun _ => (qPushFixed_frame _ _ _ _ s).mono fun _ => id) fun _ => .refl s
  exact hpush.put _ _ fun g hg => (noQueueReg_of_queueReg hg).2

theorem sendReroute_frame {P : FldRef → Prop} (a b : Nat) (s : State) : Frame ringFrom P s (sendReroute a b s) :=
  (modCsn_frame _ s).trans (sendBoth_frame _ _)

theorem sendReroute_rd (a b : Nat) (s : State) (c : Nat) : rd (sendReroute a b s) c = rd s c :=
  (sendReroute_frame (P := fun _ => True) a b s).rd c trivial

/-- The head's part with an alarm: a record with `MOD_IRQ.RING`, and perhaps a rerouting. -/
theorem alarmHead_eq (f : RFrame) (s : State) : alarmHead f s = almRecord f.src.toNat (bits f.w1 31 24) f.w2 f.data s ∨
    ∃ a b, alarmHead f s = sendReroute a b (almRecord f.src.toNat (bits f.w1 31 24) f.w2 f.data s) := by
  by_cases h2 : bits f.w1 31 24 = 2
  · exact .inr ⟨_, _, if_pos h2⟩
  by_cases h3 : bits f.w1 31 24 = 3 ∧ ¬ bitAt (wd f.flags.toNat) 3 = true
  · exact .inr ⟨_, _, (if_neg h2).trans (if_pos h3)⟩
  · exact .inl (alarmHead_other h2 h3)

theorem alarmHead_frame (f : RFrame) (s : State) : Frame alarmFrom offQueues s (alarmHead f s) := by
  have hrec := almRecord_frame f.src.toNat (bits f.w1 31 24) f.w2 f.data s
  obtain h | ⟨a, b, h⟩ := alarmHead_eq f s <;> rw [h]
  · exact hrec
  · exact hrec.trans ((sendReroute_frame a b _).mono fun _ => id)

theorem irqRing_alarmHead (f : RFrame) (s : State) : bitAt (rd (alarmHead f s) Reg.MOD_IRQ) irqRing = true := by
  have hrec : bitAt (rd (almRecord f.src.toNat (bits f.w1 31 24) f.w2 f.data s) Reg.MOD_IRQ) irqRing = true := bitAt_raiseIrq (by decide) _
  obtain h | ⟨a, b, h⟩ := alarmHead_eq f s <;> rw [h]
  · exact hrec
  · rw [sendReroute_rd]
    exact hrec

end Receive

end Sys2Proof.Machine
end

section
/-! PROOFS. The statement of remote access, exported entries and alarms. -/

namespace Sys2Proof.Machine

set_option Elab.async false

variable {s : State} {x : Fin 2} {f : RFrame}

/-- The reply to a present member's request, as `CSN_RA_STAT` and `CSN_RA_BUF` show it (R463, R465, R467). -/
theorem raReceive_spec (s : State) (f : RFrame) (t : State) (ht : t = raEnd (bits f.w1 15 12) (raReplied (bits f.w1 15 12) f (ringStart s))) :
    t.is .CSN_RA_STAT_BUSY = false ∧ t.get .CSN_RA_STAT_RESULT = bits f.w1 15 12 ∧ t.is .CSN_RA_STAT_TKO = bitAt (wd f.flags.toNat) 1 ∧
      t.csn = { s.csn with raReq := none, sent := [] } ∧ bitAt (rd t Reg.MOD_IRQ) irqRing = true ∧
      (∀ i < 64, rd t (Reg.CSN_RA_BUF i) =
        if bits f.w1 15 12 = raOk then f.data.getD i (rd s (Reg.CSN_RA_BUF i)) else rd s (Reg.CSN_RA_BUF i)) ∧
      Frame ringFrom (fun g => (offRaStat g ∧ offRaBuf g) ∧ g.a ≠ Reg.MOD_IRQ) s t := by
  obtain ⟨hbusy, hres, htko⟩ := raStat_raEnd (bits f.w1 15 12) (raReplied (bits f.w1 15 12) f (ringStart s))
  have hend := raEnd_frame (bits f.w1 15 12) (raReplied (bits f.w1 15 12) f (ringStart s))
  have hrep := raReplied_frame (bits f.w1 15 12) f (ringStart s)
  subst ht
  refine ⟨hbusy, hres.trans (Nat.mod_eq_of_lt (bits_lt f.w1 15 12)), htko.trans (is_putB _ _ _ (by simp) (by simp)), ?_, bitAt_raiseIrq (by decide) _,
    fun i hi => ?_, ?_⟩
  · rw [csn_raEnd, hrep.unchanged State.csn]
    rfl
  · rw [hend.rd _ (by simp only [offRaStat, Reg.CSN_RA_BUF, Reg.CSN_RA_STAT, Reg.MOD_IRQ]; omega), rd_raReplied _ _ _ hi]
    rfl
  · exact ((ringStart_frame s).trans (hrep.ring.mono fun _ => And.left)).trans (hend.mono fun _ hg => ⟨hg.1.1, hg.2⟩)

/-- Settles O55: each command is one case of its unit's operation on the module with nothing sent. -/
theorem remoteAccessAndExport : Obligations.RemoteAccessAndExport := by
  unfold Obligations.RemoteAccessAndExport
  refine ⟨?noGo, ?goBusy, ?goMember, ?goSelf, ?goBroadcast, ?goBadBroadcast, ?goPresent, ?goAbsent, ?reqNew, ?reqAgain, ?reqAll, ?reqAllSeen, ?reqOther,
    ?reqLength, ?reqHead, ?rspTaken, ?rspIgnored, ?rspMember, ?tmoLast, ?tmoAgain, ?tmoEarly, ?tmoNone, ?expHead, ?expSkip, ?expFixed, ?expVariable,
    ?segMore, ?segLast, ?segLost, ?expBarred, ?expIdle, ?rcvWhole, ?rcvFixed, ?rcvFirst, ?rcvStray, ?rcvLast, ?rcvMiddle, ?rcvBroken, ?rcvBadCrc,
    ?rcvBadCrcMember, ?rcvMalformed, ?rcvMember, ?rcvUnheard, ?almFirst, ?almNext, ?almSpaced, ?almQuiet, ?almRecord, ?almDown, ?almUp, ?almFlag,
    ?almMember⟩
  case noGo => exact fun s r w ha h => (exec_raGo ha).trans (congrArg _ (raGo_noGo h))
  case goBusy => exact fun s r w ha h hb => (exec_raGo ha).trans (congrArg _ (raGo_busy h hb))
  case goMember => exact fun s r w ha h hb hh => (exec_raGo ha).trans (congrArg _ (raGo_member h hb hh))
  case goSelf =>
    rintro s r w _ ha h hb hh hm rfl
    exact (exec_raGo ha).trans (congrArg _ (raGo_self h hb hh hm))
  case goBroadcast =>
    rintro s r w _ ha h hb hh hm hop rfl
    rw [exec_raGo ha, raGo_broadcast (s := ringStart s) h hb hh hm hop, headFrame_of_frame (raStart_frame 1 (ringStart s))]
    rfl
  case goBadBroadcast => exact fun s r w ha h hb hh hm hop => (exec_raGo ha).trans (congrArg _ (raGo_badBroadcast h hb hh hm hop))
  case goPresent =>
    rintro s r w m _ ha h hb hh hm h0 h250 hp rfl
    obtain ⟨hregs, hrest, hcsn⟩ := raGo_present_spec (s := ringStart s) h hb hh hm h0 h250 hp
    obtain ⟨hbusy, htries, hrid, htko⟩ := raStat_raAsked (ringStart s)
    have hf := raAsked_frame (ringStart s)
    have hget (g : FldRef) : (raGo w (ringStart s)).get g = (raAsked (ringStart s)).get g := get_congr hregs g
    have hrd (a : Nat) : rd (raGo w (ringStart s)) a = rd (raAsked (ringStart s)) a := rd_congr hregs a
    refine ⟨_, exec_raGo ha, ?_, (hget _).trans htries, (hget _).trans hrid, ?_, ?_, hrest, fun a ha => (hrd a).trans (hf.rd a ha)⟩
    · rw [State.is, hget]
      exact hbusy
    · rw [State.is, hget]
      exact htko
    · rw [hcsn, raAskedFrame_eq]
      rfl
  case goAbsent => exact fun s r w m ha h hb hh hm h0 h255 hp => (exec_raGo ha).trans (congrArg _ (raGo_absent h hb hh hm h0 h255 hp))
  case reqNew =>
    rintro s x f _ _ hg hh hl hall hme hk rfl rfl
    rw [exec_raReq_member hg hh hl, if_neg hall, if_pos hme, raTarget_new (s := ringStart s) hk]
    simp only [Bool.not_true, Bool.and_false, if_true]
    rfl
  case reqAgain =>
    intro s x f y hg hh hl hall hme hk
    rw [exec_raReq_member hg hh hl, if_neg hall, if_pos hme, raTarget_again (s := ringStart s) hk, if_pos rfl]
  case reqAll =>
    rintro s x f _ hg hh hl hall hop hk rfl
    rw [exec_raReq_member hg hh hl, if_pos hall, if_pos hop, raTarget_new (s := ringStart s) hk]
    simp only [Bool.not_false, Bool.and_true]
    rfl
  case reqAllSeen =>
    intro s x f hg hh hl hall hseen
    rw [exec_raReq_member hg hh hl, if_pos hall]
    split
    · next hop => rw [raTarget_kept (s := ringStart s) (hseen.resolve_left (not_not.mpr hop))]
    · rfl
  case reqOther =>
    intro s x f hg hh hl hall hme
    rw [exec_raReq_member hg hh hl, if_neg hall, if_neg hme]
  case reqLength =>
    intro s x f hg hh hl
    rw [exec_raReq hg, hh, hl, if_neg (by simp), if_pos (by simp)]
  case reqHead =>
    intro s x f hg hh
    rw [exec_raReq hg, hh, if_pos rfl]
  case rspTaken =>
    intro s x f hg hh hb hr
    obtain ⟨hbusy, hres, htko, hcsn, hirq, hbuf, hf⟩ := raReceive_spec s f _ rfl
    refine ⟨_, ?_, hbusy, hres, htko, hcsn, hirq, ?_, hf.rest, fun a h1 h2 h3 => hf.rd a ⟨⟨h1, h3⟩, h2⟩⟩
    · rw [exec_raRsp hg, hh, if_pos rfl, raReceive_busy (s := ringStart s) hb hr]
    · simpa only [List.all_eq_true, List.mem_range, beq_iff_eq] using hbuf
  case rspIgnored =>
    intro s x f hg hh hother
    rw [exec_raRsp hg, hh, if_pos rfl, raReceive_other (s := ringStart s) hother]
  case rspMember =>
    intro s x f hg hh
    rw [exec_raRsp hg, hh, if_neg (by simp)]
  case tmoLast => exact fun s f k h he ht => congrArg _ (raTimeout_last (s := ringStart s) h he ht)
  case tmoAgain => exact fun s f k h he ht => congrArg _ (raTimeout_again (s := ringStart s) h he ht)
  case tmoEarly => exact fun s f k h he => congrArg _ (raTimeout_early (s := ringStart s) h he)
  case tmoNone => exact fun s h => congrArg _ (raTimeout_none (s := ringStart s) h)
  case expHead =>
    intro s q e hh hg hq he hl
    exact congrArg _ ((exportSend_entry (s := ringStart s) (.inl hh) hg hq he).trans (expNext_head hl hh))
  case expSkip =>
    intro s q e hcan hg hq he hl
    exact congrArg _ ((exportSend_entry (s := ringStart s) hcan hg hq he).trans (expNext_skip hl))
  case expFixed =>
    rintro s q e _ hh htr hc hp hg hq he hl hv rfl
    exact congrArg _ ((exportSend_entry (s := ringStart s) (.inr ⟨htr, hc, hp⟩) hg hq he).trans (expNext_fixed hl hh hv))
  case expVariable =>
    intro s q e hh htr hc hp hg hq he hl hv
    exact congrArg _ ((exportSend_entry (s := ringStart s) (.inr ⟨htr, hc, hp⟩) hg hq he).trans (expNext_variable hl hh hv))
  case segMore =>
    intro s g hh htr hc hp hg hl
    refine congrArg _ ((exportSend_segment (s := ringStart s) (.inr ⟨htr, hc, hp⟩) hg).trans ((expSegment_more (s := ringStart s) hc hl).trans ?_))
    rw [segLeft, segFrame, decide_eq_false (Nat.not_le.mpr hl)]
    rfl
  case segLast =>
    intro s g e hh htr hc hp hg hl he hpos hlen hseq
    refine congrArg _ ((exportSend_segment (s := ringStart s) (.inr ⟨htr, hc, hp⟩) hg).trans
      ((expSegment_last (s := ringStart s) hc hl he hpos hlen hseq).trans ?_))
    rw [segLeft, segFrame, decide_eq_true hl]
    rfl
  case segLost =>
    intro s g hh htr hc hp hg hl hk
    refine congrArg _ ((exportSend_segment (s := ringStart s) (.inr ⟨htr, hc, hp⟩) hg).trans ((expSegment_lost (s := ringStart s) hc hl hk).trans ?_))
    rw [segLeft, segFrame, decide_eq_true hl]
    rfl
  case expBarred => exact fun s hh h => congrArg _ (exportSend_barred (s := ringStart s) hh h)
  case expIdle => exact fun s hg hq => congrArg _ (exportSend_idle (s := ringStart s) hg hq)
  case rcvWhole =>
    rintro s x f _ _ _ hg hh rfl rfl rfl h1 h2
    exact (exec_exportReceive_head hg hh).trans (congrArg _ (exportHead_whole h1 h2))
  case rcvFixed =>
    rintro s x f _ _ _ hg hh rfl rfl rfl h1 h2 h0
    exact (exec_exportReceive_head hg hh).trans (congrArg _ (exportHead_fixed h1 h2 h0))
  case rcvFirst =>
    rintro s x f _ _ _ hg hh rfl rfl rfl h1 h2 h0
    exact (exec_exportReceive_head hg hh).trans (congrArg _ ((exportHead_first h1 h2).trans (if_pos h0)))
  case rcvStray =>
    rintro s x f _ _ _ hg hh rfl rfl rfl h1 h2 h0
    exact (exec_exportReceive_head hg hh).trans (congrArg _ ((exportHead_first h1 h2).trans (if_neg h0)))
  case rcvLast =>
    rintro s x f _ _ _ _ hg hh rfl rfl rfl h1 h2 rfl hix hseg hseq
    exact (exec_exportReceive_head hg hh).trans
      (congrArg _ ((exportHead_next (s := ringStart s) h1 (.inl h2)).trans ((if_pos ⟨hix, hseg, hseq⟩).trans (if_pos h2))))
  case rcvMiddle =>
    rintro s x f _ _ _ _ hg hh rfl rfl rfl h1 h2 rfl hix hseg hseq
    have h0 : f.seg ≠ 0 := fun e => hix (hseg.trans (by rw [e]; rfl))
    exact (exec_exportReceive_head hg hh).trans
      (congrArg _ ((exportHead_next (s := ringStart s) h1 (.inr h0)).trans ((if_pos ⟨hix, hseg, hseq⟩).trans (if_neg (by simp [h2])))))
  case rcvBroken =>
    rintro s x f _ _ _ _ hg hh rfl rfl rfl h1 h2 rfl hbad
    refine (exec_exportReceive_head hg hh).trans (congrArg _ ((exportHead_next (s := ringStart s) h1 h2).trans (if_neg ?_)))
    rintro ⟨hix, hseg, hseq⟩
    rcases hbad with h | h | h
    exacts [hix h, h hseg, h hseq]
  case rcvBadCrc => exact fun s x f hc hh => exec_exportReceive_badCrc hc hh
  case rcvBadCrcMember => exact fun s x f hc hh => (exec_exportReceive_member hc hh).trans (congrArg _ (if_neg (by simp)))
  case rcvMalformed => exact fun s x f hc hf => exec_exportReceive_malformed hc hf
  case rcvMember => exact fun s x f hc hf hh => (exec_exportReceive_member hc hh).trans (congrArg _ (if_pos ⟨rfl, hf⟩))
  case rcvUnheard => exact fun s x f ok hc => exec_exportReceive_unheard hc
  case almFirst =>
    intro s hh hen hb hc hat
    exact ⟨_, exec_alarmSend hh hen hb (by rw [alarmSpaced, hat]) hc, rfl, rfl⟩
  case almNext =>
    intro s k hh hen hb hc hat hk
    exact ⟨_, exec_alarmSend hh hen hb (by rw [alarmSpaced, hat]; exact decide_eq_true hk) hc, rfl, rfl⟩
  case almSpaced =>
    intro s k hat hk
    have hearly : alarmSpaced s = false := by
      rw [alarmSpaced, hat]
      exact decide_eq_false (Nat.not_le.mpr hk)
    exact exec_alarmSend_quiet (.inr (.inr (.inr (.inl (by simp [hearly])))))
  case almQuiet =>
    intro s h
    refine exec_alarmSend_quiet ?_
    rw [alarmRests]
    rcases h with h | h | h | h <;> simp [h]
  case almRecord =>
    intro s x f hg hh hcode
    rw [exec_alarm hg, hh, if_pos rfl, alarmHead_other (by omega)]
    rintro ⟨h3, hf⟩
    rcases hcode with h | h | h
    · omega
    · omega
    · exact hf h.2
  case almDown =>
    intro s x f hg hh hcode
    rw [exec_alarm hg, hh, if_pos rfl, alarmHead_down hcode]
  case almUp =>
    intro s x f hg hh hcode hf
    rw [exec_alarm hg, hh, if_pos rfl, alarmHead_up hcode hf]
  case almFlag =>
    intro s x f hg hh
    have hf := ((ringStart_frame s).mono fun _ hg => hg).trans (alarmHead_frame f (ringStart s))
    exact ⟨_, by rw [exec_alarm hg, hh, if_pos rfl], irqRing_alarmHead f _, hf.rest, fun a ha => hf.rd a ha⟩
  case almMember =>
    intro s x f hg hh
    rw [exec_alarm hg, hh, if_neg (by simp)]

end Sys2Proof.Machine
end

section
/-! PROOFS. Phase steps and samples of the time unit (R264, R268, R269): what each of them leaves, and the statement of the unit's settings. -/

namespace Sys2Proof.Machine

set_option Elab.async false

variable {P : FldRef → Prop} {s : State}

section Servo

/-- `s` with its registers, its chains and its tiles taken from `t`: what a change of scale dates anew (R134, R136). -/
def rebasedFrom (s t : State) : State := { s with regs := t.regs, chains := t.chains, tiles := t.tiles }

/-- `s` with what a phase step may change taken from `t`: its registers, the accumulator, and what is dated by it. -/
def stepFrom (s t : State) : State :=
  { s with regs := t.regs, tu := { s.tu with acc := t.tu.acc }, ca := t.ca, chains := t.chains, tiles := t.tiles }

/-- `s` with what the servo may change taken from `t`: its own record beside that of a phase step, and the count of free values. -/
def servoFrom (s t : State) : State :=
  { s with
    regs := t.regs, ca := t.ca, chains := t.chains, tiles := t.tiles, free := t.free
    tu := { s.tu with acc := t.tu.acc, base := t.tu.base, offPrev := t.tu.offPrev, first := t.tu.first, lockRun := t.tu.lockRun } }

/-- A field outside the registers that a phase step, and that the servo may write. -/
def offStep (g : FldRef) : Prop := g.a ≠ Reg.TU_STAT ∧ g.a ≠ Reg.CA_SYNC_INFO
def offServo (g : FldRef) : Prop := offStep g ∧ g.a ≠ Reg.TU_RATE

theorem setChain_rebased (n : Nat) (x : ChainSt) (s : State) : Frame rebasedFrom P s (s.setChain n x) := .of_regs rfl rfl

theorem modTile_rebased (n : Nat) (F : TileSt → TileSt) (s : State) : Frame rebasedFrom P s (s.modTile n F) := .of_regs rfl rfl

theorem rebaseAll_frame (r : Rebase) (s : State) : Frame rebasedFrom P s (rebaseAll r s) :=
  (Frame.each _ _ _ fun n _ u => setChain_rebased n _ u).trans (.each _ _ _ fun n _ u => modTile_rebased n _ u)

theorem modCa_steps (F : CaSt → CaSt) (s : State) : Frame stepFrom P s (s.modCa F) := .of_regs rfl rfl

theorem stepSync_frame (t : Nat) (d : Int) (s : State) : Frame stepFrom P s (stepSync t d s) := by
  unfold stepSync
  extract_lets s1 shift s2
  have h1 : Frame rebasedFrom P s s1 := rebaseAll_frame _ s
  have h2 : Frame rebasedFrom P s1 s2 := .each _ _ _ fun n _ u => setChain_rebased n _ u
  exact ((h1.trans h2).mono fun _ => id).trans (modCa_steps _ s2)

theorem phaseStep_frame (d : Int) (s : State) : Frame stepFrom offStep s (phaseStep d s) := by
  refine .ite (fun _ => .refl s) fun _ => ?_
  have hcount (u : State) : Frame stepFrom offStep u ((u.set1 .TU_STAT_STEPPED).inc .TU_STAT_STEP_CNT) :=
    ((Frame.refl u).put .TU_STAT_STEPPED 1 fun _ hg => hg.1).put .TU_STAT_STEP_CNT _ fun _ hg => hg.1
  refine Frame.trans (t := s.modTu _) (.of_regs rfl rfl) ((hcount _).trans (.ite (fun _ => ?large) fun _ => .ite (fun _ => ?small) fun _ => .refl _))
  case large =>
    refine (stepSync_frame _ d _).trans (when_ind (Frame stepFrom offStep _) _ _ _ (.refl _) fun h => ?_)
    exact h.put .CA_SYNC_INFO_IGN_CNT _ fun _ hg => hg.2
  case small =>
    have hmark (n : Nat) (u : State) : Frame rebasedFrom offStep u (if (u.chain n).cur.on then u.setChain n { u.chain n with step := true } else u) :=
      .ite (fun _ => setChain_rebased n _ u) fun _ => .refl u
    exact (Frame.each _ _ _ fun n _ u => hmark n u).mono fun _ => id

theorem Frame.servo {t : State} (h : Frame stepFrom offStep s t) : Frame servoFrom offServo s t := h.mono fun _ => And.left

theorem setRate_frame (r : Int) (s : State) : Frame regsFrom offServo s (setRate r s) :=
  ((Frame.refl s).put .TU_RATE_RATE _ fun _ hg => hg.2).put .TU_STAT_CLAMPED _ fun _ hg => hg.1.1

theorem setRate_servo (r : Int) (s : State) : Frame servoFrom offServo s (setRate r s) := (setRate_frame r s).mono fun _ => id

theorem servoState_frame (off : Int) (s : State) : Frame servoFrom offServo s (servoState off s) := by
  have hrun (k : Nat) : Frame servoFrom offServo s (s.modTu fun t => { t with lockRun := k }) := .of_regs rfl rfl
  exact .ite (fun _ => (hrun _).put .TU_STAT_STATE _ fun _ hg => hg.1.1) fun _ =>
    .ite (fun _ => (hrun _).put .TU_STAT_STATE _ fun _ hg => hg.1.1) fun _ => hrun _

/-- A sample has come (R268, R269): TU_OFFSET shows it within the register's range, and the time without one begins anew. -/
def offsetNoted (off : Int) (s : State) : State :=
  (s.put .TU_OFFSET_OFF (toU 32 (clampI (-2147483648) 2147483647 off))).modTu fun t => { t with lastSample := clk s }

/-- A sample beyond the step threshold moves TU_NOW, and the unit acquires anew (R268, R269). -/
def servoStepped (off : Int) (master : Bool) (s : State) : State :=
  (((phaseStep (-((off + 128) / 256)) s).put .TU_STAT_STATE 1).modTu fun t => { t with offPrev := 0, first := true, lockRun := 0 }).when master
    (·.set1 .TU_STAT_EPOCH_SET)

theorem servoStepped_frame (off : Int) (master : Bool) (s : State) : Frame servoFrom offServo s (servoStepped off master s) := by
  have h1 : Frame servoFrom offServo s ((phaseStep (-((off + 128) / 256)) s).put .TU_STAT_STATE 1) := (phaseStep_frame _ s).servo.put _ _ fun _ hg => hg.1.1
  have hacquire (u : State) : Frame servoFrom offServo u (u.modTu fun t => { t with offPrev := 0, first := true, lockRun := 0 }) := .of_regs rfl rfl
  exact when_ind (Frame servoFrom offServo s) _ _ _ (h1.trans (hacquire _)) fun h => h.put .TU_STAT_EPOCH_SET 1 fun _ hg => hg.1.1

/-- A sample after another one steers the rate by what R269 gives. -/
def servoRated (off d : Int) (m : Int × Int) (s : State) : State :=
  servoState off ((setRate m.2 (if d = 0 then { s with free := s.free + 2 } else s)).modTu fun t => { t with base := m.1, offPrev := off })

theorem servoRated_frame (off d : Int) (m : Int × Int) (s : State) : Frame servoFrom offServo s (servoRated off d m s) := by
  have hfree : Frame servoFrom offServo s (if d = 0 then { s with free := s.free + 2 } else s) := .ite (fun _ => .of_regs rfl rfl) fun _ => .refl s
  have hbase (u : State) : Frame servoFrom offServo u (u.modTu fun t => { t with base := m.1, offPrev := off }) := .of_regs rfl rfl
  exact ((hfree.trans (setRate_servo _ _)).trans (hbase _)).trans (servoState_frame off _)

/-- The first sample sets off_prev alone (R269). -/
def servoFirst (off : Int) (s : State) : State := servoState off (s.modTu fun t => { t with offPrev := off, first := false })

theorem servoFirst_frame (off : Int) (s : State) : Frame servoFrom offServo s (servoFirst off s) :=
  Frame.trans (t := s.modTu fun t => { t with offPrev := off, first := false }) (.of_regs rfl rfl) (servoState_frame off _)

/-- What a sample does (R269): a step, a new rate, or nothing but off_prev. -/
theorem servo_cases (off : Int) (dt : Option Int) (master : Bool) (s : State) :
    servo off dt master s = servoStepped off master (offsetNoted off s) ∨ (∃ d m, servo off dt master s = servoRated off d m (offsetNoted off s)) ∨
      servo off dt master s = servoFirst off (offsetNoted off s) := by
  unfold servo
  extract_lets s0 thr s1 s2
  split
  · exact .inl rfl
  · split
    · exact .inr (.inl ⟨_, _, rfl⟩)
    · exact .inr (.inr rfl)

theorem servo_frame (off : Int) (dt : Option Int) (master : Bool) (s : State) :
    Frame servoFrom offServo (offsetNoted off s) (servo off dt master s) := by
  obtain h | ⟨d, m, h⟩ | h := servo_cases off dt master s <;> rw [h]
  exacts [servoStepped_frame .., servoRated_frame .., servoFirst_frame ..]

/-- TU_OFFSET shows the last sample within its range (R287). -/
theorem offset_servo (off : Int) (dt : Option Int) (master : Bool) (s : State) :
    (servo off dt master s).get .TU_OFFSET_OFF = toU 32 (clampI (-2147483648) 2147483647 off) % 2 ^ 32 := by
  rw [(servo_frame off dt master s).get .TU_OFFSET_OFF (by unfold offServo offStep; decide), offsetNoted, State.modTu_get, get_put _ _ _ (by simp) (by simp)]
  rfl

end Servo

section Pulse

/-- A pulse within the window of an active module with source PPS is a sample (R276). -/
theorem exec_ppsEdge (h3 : s.get .TU_STAT_SRC_EFF = 3) (hr : servoRuns s = true) (hw : ppsOutside s (ppsOff s (now s)) = false) :
    exec .ppsEdge s = .next (servo (ppsOff s (now s)) (some 49152000) false s) :=
  congrArg Host.Outcome.next (if_pos ⟨h3, hr, by simp [hw]⟩)

/-- A module with source PPS that is ACQUIRING: a pulse now lies 10,000,000 ticks after the second. -/
def farFromSecond : State :=
  (({ pw := { on := true, power := 1 }, sv := { roleA := .active, anyActive := true }, tu := { acc := 10000003 * 2 ^ 32 } } : State).put
    .TU_STAT_SRC_EFF 3).put .TU_STAT_STATE 1

theorem farFromSecond_pulse : farFromSecond.get .TU_STAT_SRC_EFF = 3 ∧ servoRuns farFromSecond = true ∧
    ppsOff farFromSecond (now farFromSecond) = 2560000000 ∧ ppsOutside farFromSecond 2560000000 = false := by decide

end Pulse

/-- Refutes O34: a unit that is not LOCKED has no window, and a pulse may lie further from the second than TU_OFFSET can show (`farFromSecond`). The register
saturates there (R287), where the statement asks for the offset modulo 2^32. -/
theorem not_timeSettings : ¬ Obligations.TimeSettings := by
  unfold Obligations.TimeSettings
  rintro ⟨-, -, -, -, -, -, -, -, -, hpulse, -⟩
  obtain ⟨h3, hr, hoff, hw⟩ := farFromSecond_pulse
  obtain ⟨t, ht, hshown, -⟩ := hpulse farFromSecond h3 hr (hoff ▸ hw)
  obtain rfl : servo _ _ _ _ = t := Host.Outcome.next.inj ((exec_ppsEdge h3 hr (hoff ▸ hw)).symm.trans ht)
  rw [offset_servo, hoff] at hshown
  exact absurd hshown (by decide)

end Sys2Proof.Machine
end

section
/-! PROOFS. The wake of a CAN port and of the module by it (R320, R534, R537): what of the time unit and the ports it leaves. -/

namespace Sys2Proof.Machine

set_option Elab.async false

variable {s t : State}

/-- `t` with the time unit and the CAN ports of `s`. -/
def unitsOf (s t : State) : State := { t with tu := s.tu, cans := s.cans }

/-- A field of the time unit's registers (R287). -/
def inTu (g : FldRef) : Prop := (0x2000 ≤ g.a ∧ g.a < 0x3000) ∧ g.hi < 32

theorem offQueues_of_inTu {g : FldRef} (h : inTu g) : offQueues g := by
  obtain ⟨⟨hlo, hhi⟩, -⟩ := h
  simp only [offQueues, queueReg, Bool.or_eq_false_iff, Bool.and_eq_false_iff, decide_eq_false_iff_not, beq_eq_false_iff_ne, Reg.MOD_IRQ]
  omega

/-- A write of a field beyond the registers of the time unit. -/
theorem Frame.beyond (h : Frame unitsOf inTu s t) (g : FldRef) (v : Nat) (hg : g.a < 0x2000 ∨ 0x3000 ≤ g.a) : Frame unitsOf inTu s (t.put g v) :=
  h.put g v fun p hp e => by
    obtain ⟨⟨hlo, hhi⟩, -⟩ := hp
    omega

section Record

theorem canRecord_units (p ty detail : Nat) (tko hoist : Bool) (n : Nat) (w : Word) (tag stamp : Nat) (s : State) :
    Frame unitsOf inTu s (canRecord p ty detail tko hoist n w tag stamp s) := by
  unfold canRecord
  extract_lets w0 ok s1
  have hpush : Frame unitsOf inTu s s1 := (qPushFixed_frame _ _ _ _ s).mono fun _ => offQueues_of_inTu
  exact .ite (fun _ => .ite (fun _ => hpush.beyond ⟨Reg.MOD_IRQ, irqCan, irqCan⟩ 1 (.inl (by decide))) fun _ => hpush) fun _ => .refl s

end Record

section Doze

/-- A change that keeps the time unit and the ports, and whose registers are none of the unit's. -/
theorem Frame.units {f : State → State → State} {P : FldRef → Prop} (h : Frame f P s t) (hP : ∀ g, inTu g → P g)
    (hf : ∀ s t, f s t = unitsOf s (f s t) := by exact fun _ _ => rfl) : Frame unitsOf inTu s t := h.mono hP hf

theorem setChain_units (n : Nat) (x : ChainSt) (s : State) : Frame unitsOf inTu s (s.setChain n x) := (setChain_rebased n x s).units fun _ => id

theorem offChain_of_inTu {n : Nat} {g : FldRef} (h : inTu g) : offChain n g := by
  obtain ⟨⟨hlo, hhi⟩, -⟩ := h
  simp only [offChain, chainReg, Bool.or_eq_false_iff, beq_eq_false_iff_ne, Reg.CH_FC_STATE, Reg.CH_LAST, Reg.CH_LAST_SEQ, Reg.CH_TH_STATE]
  omega

theorem offSafe_of_inTu {x : Nat} {g : FldRef} (h : inTu g) : offTile x g ∧ offActive x g := by
  obtain ⟨⟨hlo, hhi⟩, hi⟩ := h
  refine ⟨⟨hi, by omega⟩, .inl ?_, hi⟩
  simp only [Reg.TILE_SAFE]
  omega

theorem fcRefresh_units (n : Nat) (s : State) : Frame unitsOf inTu s (fcRefresh n s) := by
  have hput (u : State) (g : FldRef) (v : Nat) (hg : g.a = Reg.CH_FC_STATE n) : Frame unitsOf inTu u (u.put g v) :=
    (Frame.refl u).beyond g v (.inr (by rw [hg, Reg.CH_FC_STATE]; omega))
  exact ((hput s (.CH_FC_STATE_CFG_ERR n) _ rfl).trans (hput _ (.CH_FC_STATE_UNAVAIL n) _ rfl)).trans (hput _ (.CH_FC_STATE_DCG_NE1 n) _ rfl)

theorem linesResume_units (e : Nat) (s : State) : Frame unitsOf inTu s (linesResume e s) := by
  unfold linesResume
  split
  case h_1 h _ =>
    have hca (F : CaSt → CaSt) (u : State) : Frame unitsOf inTu u (u.modCa F) := .of_regs rfl rfl
    exact ((Frame.each _ _ _ fun n _ u => setChain_units n _ u).trans (.each _ _ _ fun n _ u => (modTile_rebased n _ u).units fun _ => id)).trans (hca _ _)
  case h_2 => exact .each _ _ _ fun n _ u => .ite (fun _ => setChain_units n _ u) fun _ => .refl u

theorem startChainsAt_units (e : Nat) (s : State) : Frame unitsOf inTu s (startChainsAt e s) := by
  have hmarks : Frame unitsOf inTu s (s.each anChs fun n s => noteMarks n (fcRefresh n s)) :=
    .each _ _ _ fun n _ u => (fcRefresh_units n u).trans (setChain_units n _ _)
  refine (hmarks.trans (linesResume_units e _)).trans (.each _ _ _ fun n _ u => ?_)
  exact (setChain_units n _ u).trans ((takeUp_frame n _).units fun _ => offChain_of_inTu)

theorem setPowerAt_units (e p : Nat) (s : State) : Frame unitsOf inTu s (setPowerAt e p s) := by
  unfold setPowerAt
  extract_lets s1
  have h1 : Frame unitsOf inTu s s1 := .of_regs rfl rfl
  have hrate (lean : Bool) (u : State) : Frame unitsOf inTu u (fmSet e lean u) :=
    .ite (fun _ => .refl u) fun _ => ((rebaseAll_frame _ u).units fun _ => id).beyond .CA_STAT_LEAN _ (.inr (by decide))
  exact .ite (fun _ => h1.trans (hrate _ _)) fun _ => h1

theorem dozeCause_units (on : Bool) (s : State) : Frame unitsOf inTu s (dozeCause on s) :=
  .each _ _ _ fun n _ u => ((Frame.refl u).beyond (.TILE_SAFE_DOZE n) _ (.inr (by simp only [Reg.TILE_SAFE]; omega))).trans
    ((safeRefresh_frame n _).units fun _ => offSafe_of_inTu)

theorem leaveDoze_units (p : Nat) (s : State) : Frame unitsOf inTu s (leaveDoze p s) :=
  .ite (fun _ => .refl s) fun _ => ((setPowerAt_units _ p s).trans (startChainsAt_units _ _)).trans (dozeCause_units false _)

theorem wakeRecord_units (cause src : Nat) (s : State) : Frame unitsOf inTu s (wakeRecord cause src s) :=
  (((Frame.refl s).beyond .MOD_START_WAKE cause (.inl (by decide))).beyond .MOD_START_WAKE_SRC src (.inl (by decide))).beyond .MOD_START_PREV _
    (.inl (by decide))

theorem noteWake_units (cause src : Nat) (s : State) : Frame unitsOf inTu s (noteWake cause src s) :=
  .ite (fun _ => (wakeRecord_units cause src s).trans (leaveDoze_units _ _)) fun _ => .ite (fun _ => .of_regs rfl rfl) fun _ => .refl s

end Doze

/-- The wake of a port changes no port's queue and nothing of the time unit. -/
theorem canWake_units (p cause stamp : Nat) (idw : Word) (s : State) : Frame unitsOf inTu s (canWake p cause stamp idw s) := by
  have hput (u : State) (g : FldRef) (v : Nat) (hg : g.a = Reg.CAN_STAT p ∨ g.a = Reg.CAN_WAKE_STAT p) : Frame unitsOf inTu u (u.put g v) :=
    (Frame.refl u).beyond g v (.inr (by simp only [Reg.CAN_STAT, Reg.CAN_WAKE_STAT] at hg; omega))
  unfold canWake
  refine .ite (fun _ => ?_) fun _ => .refl s
  extract_lets s1 s2
  have h1 : Frame unitsOf inTu s s1 := (hput s (.CAN_STAT_ASLEEP p) 0 (.inl rfl)).trans (hput _ (.CAN_WAKE_STAT_CAUSE p) cause (.inr rfl))
  have h2 : Frame unitsOf inTu s s2 := (h1.trans (canRecord_units ..)).trans (hput _ (.CAN_STAT_INTEG p) _ (.inl rfl))
  exact .ite (fun _ => h2) fun _ => h2.trans (noteWake_units 1 p s2)

end Sys2Proof.Machine
end

section
/-! PROOFS. Reference messages on CAN (R270 to R273): what a master sends, what a follower makes of one, and the statement of both. -/

namespace Sys2Proof.Machine

set_option Elab.async false

section Send

variable {s : State} {p : Nat}

/-- The number of a message is shown and counted (R270, R287). -/
def refCounted (s : State) : State := (s.put .TU_CAN_STAT_SEQ s.tu.mSeq).inc .TU_CAN_STAT_REF_CNT

/-- The frame of a message (R270, R271), and its entry in the queue of port `p`. -/
def refFrame (s : State) : Sys2Proof.Frame := { idw := refId s, dlc := 8, data := b8 s.tu.mSeq :: List.replicate 7 0xFF }
def refEntry (s : State) (p : Nat) : TxEnt := { id := (s.can p).nextId, src := .tu, frame := refFrame s, noStamp := s.tu.mFirst }

/-- The state in which a message is in the queue of port `p`. -/
def refQueued (p : Nat) (s : State) : State :=
  (refCounted s).modCan p fun c => { c with txq := c.txq ++ [refEntry s p], nextId := (s.can p).nextId + 1 }

/-- The master goes on to the next number, and its period begins (R270). -/
def refNext (e : Nat) (s : State) : State := s.modTu fun t => { t with mSeq := (t.mSeq + 1) % 256, mFirst := false, refAt := some e }

/-- A message that is due is queued (R270). -/
theorem exec_tuCanRefSend (hm : s.get .TU_CAN_CFG_ROLE = 1) (hper : s.get .TU_CAN_CFG_PER ≠ 0) (hr : servoRuns s = true) (hd : refDue s = true)
    (hp : s.get .TU_CAN_CFG_PORT = p) : exec .tuCanRefSend s = .next (refNext (clk s) (txQueue p .tu 0 0 false (refFrame s) (refCounted s))) := by
  subst hp
  show execTuCanRefSend s = _
  rw [execTuCanRefSend, if_pos ⟨hm, hper, hr, hd⟩]
  rfl

/-- That may wake the port (R319). -/
theorem txQueue_refFrame (p : Nat) (s : State) : txQueue p .tu 0 0 false (refFrame s) (refCounted s) =
    if (refCounted s).is (.CAN_SLEEP_WAKE_ON_TX p) then canWake p 4 (now (refCounted s)) 0 (refQueued p s) else refQueued p s := by
  have hport : (refCounted s).can p = s.can p := by simp [refCounted, State.can]
  have htu : (refCounted s).tu = s.tu := by simp [refCounted]
  have hours : (TxSrc.tu == TxSrc.tu) = true := rfl
  rw [txQueue, hport, htu, hours, Bool.true_and, refQueued, refEntry]

theorem txQueue_units (p : Nat) (s : State) : Frame unitsOf inTu (refQueued p s) (txQueue p .tu 0 0 false (refFrame s) (refCounted s)) := by
  rw [txQueue_refFrame]
  exact .ite (fun _ => canWake_units p 4 _ 0 _) fun _ => .refl _

theorem exec_tuCanRefSend_idle (h : s.get .TU_CAN_CFG_ROLE ≠ 1 ∨ s.get .TU_CAN_CFG_PER = 0 ∨ servoRuns s = false ∨ refDue s = false) :
    exec .tuCanRefSend s = .next s := by
  refine congrArg Host.Outcome.next (if_neg ?_)
  rintro ⟨hm, hper, hr, hd⟩
  rcases h with h | h | h | h
  exacts [h hm, hper h, by simp [h] at hr, by simp [h] at hd]

theorem refCounted_frame (s : State) : Frame regsFrom (fun g => g.a ≠ Reg.TU_CAN_STAT) s (refCounted s) :=
  ((Frame.refl s).put .TU_CAN_STAT_SEQ _ fun _ hg => hg).put .TU_CAN_STAT_REF_CNT _ fun _ hg => hg

theorem tu_refQueued (p : Nat) (s : State) : (refQueued p s).tu = s.tu := by
  rw [refQueued, State.modCan_tu, (refCounted_frame s).unchanged State.tu]

theorem seq_refCounted (s : State) : (refCounted s).get .TU_CAN_STAT_SEQ = s.tu.mSeq % 256 := by
  rw [refCounted, State.inc, State.addSat, get_put_apart _ _ _ _ (by simp) (by simp) (by simp [FldRef.apart]), get_put _ _ _ (by simp) (by simp)]
  rfl

theorem refCnt_refCounted (s : State) :
    (refCounted s).get .TU_CAN_STAT_REF_CNT = min (s.get .TU_CAN_STAT_REF_CNT + 1) (FldRef.max .TU_CAN_STAT_REF_CNT) := by
  rw [refCounted, get_inc _ _ (by simp) (by simp), get_put_apart _ _ _ _ (by simp) (by simp) (by simp [FldRef.apart])]

theorem tu_refNext (e : Nat) (s : State) : (refNext e s).tu = { s.tu with mSeq := (s.tu.mSeq + 1) % 256, mFirst := false, refAt := some e } := by
  rw [refNext, State.modTu_tu]

theorem can_modTu (F : TuSt → TuSt) (s : State) (p : Nat) : (s.modTu F).can p = s.can p := by rw [State.can, State.can, State.modTu_cans]

theorem txq_refQueued (p : Nat) (s : State) : ((refQueued p s).can p).txq = (s.can p).txq ++ [refEntry s p] := by
  simp [refQueued, refCounted, State.modCan, State.setCan, State.can]

/-- What a message that wakes no port changes. -/
def sentFrom (s t : State) : State := { s with regs := t.regs, cans := t.cans, tu := t.tu }

theorem refNext_frame (p : Nat) (s : State) : Frame sentFrom (fun g => g.a ≠ Reg.TU_CAN_STAT) s (refNext (clk s) (refQueued p s)) := by
  have hqueue (F : CanSt → CanSt) (u : State) : Frame sentFrom (fun g => g.a ≠ Reg.TU_CAN_STAT) u (u.modCan p F) := .of_regs rfl rfl
  have hnext (e : Nat) (u : State) : Frame sentFrom (fun g => g.a ≠ Reg.TU_CAN_STAT) u (refNext e u) := .of_regs rfl rfl
  exact (((refCounted_frame s).mono fun _ => id).trans (hqueue _ _)).trans (hnext _ _)

/-- What sending leaves in place and what it shows, whether or not the port wakes. -/
theorem regs_refSent (p : Nat) (s : State) (g : FldRef) (hg : inTu g) :
    (refNext (clk s) (txQueue p .tu 0 0 false (refFrame s) (refCounted s))).get g = (refCounted s).get g := by
  rw [refNext, State.modTu_get, (txQueue_units p s).get g hg, refQueued, State.modCan_get]

theorem txq_refSent (p : Nat) (s : State) :
    ((refNext (clk s) (txQueue p .tu 0 0 false (refFrame s) (refCounted s))).can p).txq = (s.can p).txq ++ [refEntry s p] := by
  rw [refNext, can_modTu, (txQueue_units p s).unchanged (State.can · p), txq_refQueued]

theorem tu_refSent (p : Nat) (s : State) : (refNext (clk s) (txQueue p .tu 0 0 false (refFrame s) (refCounted s))).tu =
    { s.tu with mSeq := (s.tu.mSeq + 1) % 256, mFirst := false, refAt := some (clk s) } := by
  rw [tu_refNext, (txQueue_units p s).unchanged State.tu, tu_refQueued]

/-- A port that does not wake on a frame to send takes it as it is (R319). -/
theorem refSent_unwoken {p : Nat} (h : s.is (.CAN_SLEEP_WAKE_ON_TX p) = false) :
    txQueue p .tu 0 0 false (refFrame s) (refCounted s) = refQueued p s := by
  have hstay : (refCounted s).is (.CAN_SLEEP_WAKE_ON_TX p) = false := by
    rw [(refCounted_frame s).is _ (by simp only [Reg.CAN_SLEEP, Reg.TU_CAN_STAT]; omega), h]
  rw [txQueue_refFrame, hstay, if_neg Bool.false_ne_true]

end Send

section Receive

variable {s : State} {x : Sys2Proof.Frame} {p : Nat}

/-- The master's stamp in a message (R271): none where all its bytes are 0xFF. -/
def stampOf (x : Sys2Proof.Frame) : Option Nat := if (x.data.drop 1).all (fun b => b == 0xFF) then none else some (leNat (x.data.drop 1))

/-- A follower's port has received a message (R273). -/
theorem exec_tuCanRefReceive (hm : s.get .TU_CAN_CFG_ROLE = 2) (hp : s.get .TU_CAN_CFG_PORT = p) (hruns : canRuns s p = true)
    (hmode : (s.can p).mode = 1 ∨ (s.can p).mode = 2) (herr : s.get (.CAN_STAT_ERR_STATE p) ≠ 2) (hr : servoRuns s = true) (hok : frameOk x = true)
    (hid : x.idw = refId s) (hdlc : x.dlc = 8) (hrtr : x.rtr = false) :
    exec (.tuCanRefReceive x) s = .next (canRef (x.data.getD 0 0).toNat (stampOf x) (now s) s) := by
  subst hp
  exact congrArg Host.Outcome.next (if_pos ⟨hm, hruns, hmode, herr, hr, hok, hid, hdlc, by simp [hrtr]⟩)

theorem exec_tuCanRefReceive_other (h : s.get .TU_CAN_CFG_ROLE ≠ 2 ∨ canRuns s (s.get .TU_CAN_CFG_PORT) = false ∨
      ((s.can (s.get .TU_CAN_CFG_PORT)).mode ≠ 1 ∧ (s.can (s.get .TU_CAN_CFG_PORT)).mode ≠ 2) ∨
      s.get (.CAN_STAT_ERR_STATE (s.get .TU_CAN_CFG_PORT)) = 2 ∨ servoRuns s = false ∨ frameOk x = false ∨ x.idw ≠ refId s ∨ x.dlc ≠ 8 ∨ x.rtr = true) :
    exec (.tuCanRefReceive x) s = .next s := by
  refine congrArg Host.Outcome.next (if_neg ?_)
  rintro ⟨hm, hruns, hmode, herr, hr, hok, hid, hdlc, hrtr⟩
  rcases h with h | h | h | h | h | h | h | h | h
  exacts [h hm, by simp [h] at hruns, hmode.elim h.1 h.2, herr h, by simp [h] at hr, by simp [h] at hok, h hid, h hdlc, hrtr h]

/-- The number is shown, and the message noted with the follower's stamp `f` (R272, R273). -/
def refNoted (seq f : Nat) (s : State) : State :=
  (s.put .TU_CAN_STAT_SEQ seq).modTu fun t => { t with canF := some f, canSeq := some seq }

/-- A message that completes a pair counts, with the master's stamp `m` of the one before it (R273). -/
def refPaired (m : Nat) (s : State) : State := (s.inc .TU_CAN_STAT_REF_CNT).modTu fun t => { t with canS := some m }

/-- With source CAN a pair is a sample (R273). -/
def refSampled (off : Int) (dt : Option Int) (s : State) : State := if s.get .TU_STAT_SRC_EFF = 1 then servo off dt true s else s

variable {seq k f g m : Nat} {stamp : Option Nat}

theorem src_refPaired (m seq f : Nat) (s : State) : (refPaired m (refNoted seq f s)).get .TU_STAT_SRC_EFF = s.get .TU_STAT_SRC_EFF := by
  rw [refPaired, State.modTu_get, State.inc, State.addSat, get_put_ne _ _ _ _ (by decide), refNoted, State.modTu_get, get_put_ne _ _ _ _ (by decide)]

/-- The message after the last one, with its stamp (R273). -/
theorem canRef_next (hk : s.tu.canSeq = some k) (hg : s.tu.canF = some g) (hseq : seq = (k + 1) % 256) :
    ∃ n off dt, canRef seq (some m) f s = refSampled off dt (refPaired n (refNoted seq f s)) := by
  have hne : seq ≠ k := by omega
  simp only [canRef, hk, hg, hne, if_false, if_pos hseq]
  refine ⟨_, _, _, Eq.trans (if_congr (by rw [← src_refPaired _ seq f s]) rfl rfl) rfl⟩

/-- A message that is not the one after the last, or has no stamp, is skipped (R273); a repeated one with a stamp is not counted. -/
theorem canRef_again (hk : s.tu.canSeq = some k) (hg : s.tu.canF = some g) (hseq : seq = k) :
    canRef seq (some m) f s = refNoted seq f s := by
  simp only [canRef, hk, hg, hseq, if_true, Option.isNone_some, Bool.false_eq_true, if_false]
  rfl

theorem canRef_skipped (hk : s.tu.canSeq = some k) (hg : s.tu.canF = some g) (h : stamp = none ∨ (seq ≠ k ∧ seq ≠ (k + 1) % 256)) :
    canRef seq stamp f s = (refNoted seq f s).inc .TU_CAN_STAT_SKIP_CNT := by
  by_cases hseq : seq = k
  · have hnone : stamp = none := h.resolve_right fun hne => hne.1 hseq
    simp only [canRef, hk, hg, hseq, hnone, if_true, Option.isNone_none]
    rfl
  · have hnone : (if seq = (k + 1) % 256 then stamp else none) = none := by
      split
      · next hnext => exact h.resolve_right fun hne => hne.2 hnext
      · rfl
    simp only [canRef, hk, hg, hseq, if_false, hnone]
    rfl

/-- Before two messages have come there is no pair (R273). -/
theorem canRef_first (h : s.tu.canSeq = none ∨ s.tu.canF = none) :
    canRef seq stamp f s = if stamp.isNone then (refNoted seq f s).inc .TU_CAN_STAT_SKIP_CNT else refNoted seq f s := by
  unfold canRef
  extract_lets t s1
  split
  · next hk hg =>
    rcases h with h | h
    · exact absurd (hk.symm.trans h) (by simp)
    · exact absurd (hg.symm.trans h) (by simp)
  · rfl

/-- All that a message can do (R273). -/
theorem canRef_cases (seq : Nat) (stamp : Option Nat) (f : Nat) (s : State) :
    canRef seq stamp f s = refNoted seq f s ∨ canRef seq stamp f s = (refNoted seq f s).inc .TU_CAN_STAT_SKIP_CNT ∨
      ∃ n off dt, canRef seq stamp f s = refSampled off dt (refPaired n (refNoted seq f s)) := by
  cases hk : s.tu.canSeq with
  | none =>
    rw [canRef_first (.inl hk)]
    split
    exacts [.inr (.inl rfl), .inl rfl]
  | some k =>
    cases hg : s.tu.canF with
    | none =>
      rw [canRef_first (.inr hg)]
      split
      exacts [.inr (.inl rfl), .inl rfl]
    | some g =>
      cases stamp with
      | none => exact .inr (.inl (canRef_skipped hk hg (.inl rfl)))
      | some m =>
        by_cases hseq : seq = k
        · exact .inl (canRef_again hk hg hseq)
        · by_cases hnext : seq = (k + 1) % 256
          · exact .inr (.inr (canRef_next hk hg hnext))
          · exact .inr (.inl (canRef_skipped hk hg (.inr ⟨hseq, hnext⟩)))

end Receive

section Follow

variable {s t : State}

/-- `s` with what a message may change taken from `t`, but for the follower's note of it. -/
def refFrom (s t : State) : State :=
  { s with
    regs := t.regs, ca := t.ca, chains := t.chains, tiles := t.tiles, free := t.free
    tu := { t.tu with canF := s.tu.canF, canSeq := s.tu.canSeq } }

/-- All that a message may change. -/
def sampledFrom (s t : State) : State :=
  { s with regs := t.regs, tu := t.tu, ca := t.ca, chains := t.chains, tiles := t.tiles, free := t.free }

/-- A field that a message leaves once its number is shown: SEQ, or one outside the registers of the unit's state. -/
def offRef (g : FldRef) : Prop := (offServo g ∧ g.a ≠ Reg.TU_OFFSET) ∧ (g.a ≠ Reg.TU_CAN_STAT ∨ 24 ≤ g.lo) ∧ g.hi < 32

theorem Frame.refCount (h : Frame refFrom offRef s t) (g : FldRef) (v : Nat) (hg : g.a = Reg.TU_CAN_STAT ∧ g.lo ≤ g.hi ∧ g.hi < 24) :
    Frame refFrom offRef s (t.put g v) :=
  h.putApart g v hg.2.1 fun p hp => ⟨hp.2.1.elim (fun ha => .inl (hg.1 ▸ ha.symm)) fun hlo => .inr (.inl (by omega)), hp.2.2⟩

theorem servo_sampled (off : Int) (dt : Option Int) (master : Bool) (s : State) :
    Frame refFrom (fun g => offServo g ∧ g.a ≠ Reg.TU_OFFSET) s (servo off dt master s) := by
  have hshow : Frame refFrom (fun g => offServo g ∧ g.a ≠ Reg.TU_OFFSET) s
      (s.put .TU_OFFSET_OFF (toU 32 (clampI (-2147483648) 2147483647 off))) := (Frame.refl s).put _ _ fun _ hg => hg.2
  have htime (u : State) : Frame refFrom (fun g => offServo g ∧ g.a ≠ Reg.TU_OFFSET) u (u.modTu fun t => { t with lastSample := clk s }) := .of_regs rfl rfl
  exact (hshow.trans (htime _)).trans ((servo_frame off dt master s).mono fun _ => And.left)

theorem canRef_frame (seq : Nat) (stamp : Option Nat) (f : Nat) (s : State) : Frame refFrom offRef (refNoted seq f s) (canRef seq stamp f s) := by
  obtain h | h | ⟨n, off, dt, h⟩ := canRef_cases seq stamp f s <;> rw [h]
  · exact .refl _
  · exact (Frame.refl _).refCount .TU_CAN_STAT_SKIP_CNT _ (by decide)
  · have hcount : Frame refFrom offRef (refNoted seq f s) ((refNoted seq f s).inc .TU_CAN_STAT_REF_CNT) :=
      (Frame.refl _).refCount .TU_CAN_STAT_REF_CNT _ (by decide)
    have hstamp (u : State) : Frame refFrom offRef u (u.modTu fun t => { t with canS := some n }) := .of_regs rfl rfl
    exact (hcount.trans (hstamp _)).trans (.ite (fun _ => (servo_sampled off dt true _).mono fun _ => And.left) fun _ => .refl _)

/-- `s` with its registers and its time unit taken from `t`: what a message changes that is no sample. -/
def followedFrom (s t : State) : State := { s with regs := t.regs, tu := t.tu }

theorem modTu_noted {P : FldRef → Prop} (F : TuSt → TuSt) (s : State) : Frame followedFrom P s (s.modTu F) := .of_regs rfl rfl

/-- What the note of a message leaves and shows. -/
theorem refNoted_frame (seq f : Nat) (s : State) : Frame followedFrom (fun g => g.a ≠ Reg.TU_CAN_STAT) s (refNoted seq f s) :=
  ((Frame.refl s).put .TU_CAN_STAT_SEQ seq fun _ hg => hg).trans (modTu_noted _ _)

theorem seq_refNoted (seq f : Nat) (s : State) (h : seq < 256) : (refNoted seq f s).get .TU_CAN_STAT_SEQ = seq := by
  rw [refNoted, State.modTu_get, get_put _ _ _ (by simp) (by simp)]
  exact Nat.mod_eq_of_lt h

theorem skipCnt_refNoted (seq f : Nat) (s : State) : (refNoted seq f s).get .TU_CAN_STAT_SKIP_CNT = s.get .TU_CAN_STAT_SKIP_CNT := by
  rw [refNoted, State.modTu_get, get_put_apart _ _ _ _ (by simp) (by simp) (by simp [FldRef.apart])]

theorem refCnt_refNoted (seq f : Nat) (s : State) : (refNoted seq f s).get .TU_CAN_STAT_REF_CNT = s.get .TU_CAN_STAT_REF_CNT := by
  rw [refNoted, State.modTu_get, get_put_apart _ _ _ _ (by simp) (by simp) (by simp [FldRef.apart])]

/-- What a pair leaves and shows before it is a sample. -/
theorem refPaired_frame (n : Nat) (s : State) : Frame followedFrom (fun g => g.a ≠ Reg.TU_CAN_STAT) s (refPaired n s) :=
  ((Frame.refl s).put .TU_CAN_STAT_REF_CNT _ fun _ hg => hg).trans (modTu_noted _ _)

theorem refCnt_refPaired (n : Nat) (s : State) :
    (refPaired n s).get .TU_CAN_STAT_REF_CNT = min (s.get .TU_CAN_STAT_REF_CNT + 1) (FldRef.max .TU_CAN_STAT_REF_CNT) := by
  rw [refPaired, State.modTu_get, get_inc _ _ (by simp) (by simp)]

theorem skipCnt_refPaired (n : Nat) (s : State) : (refPaired n s).get .TU_CAN_STAT_SKIP_CNT = s.get .TU_CAN_STAT_SKIP_CNT := by
  rw [refPaired, State.modTu_get, State.inc, State.addSat, get_put_apart _ _ _ _ (by simp) (by simp) (by simp [FldRef.apart])]

/-- A skipped message, which counts. -/
theorem refSkipped_frame (s : State) : Frame followedFrom (fun g => g.a ≠ Reg.TU_CAN_STAT) s (s.inc .TU_CAN_STAT_SKIP_CNT) :=
  (Frame.refl s).put _ _ fun _ hg => hg

theorem refCnt_refSkipped (s : State) : (s.inc .TU_CAN_STAT_SKIP_CNT).get .TU_CAN_STAT_REF_CNT = s.get .TU_CAN_STAT_REF_CNT :=
  by rw [State.inc, State.addSat, get_put_apart _ _ _ _ (by simp) (by simp) (by simp [FldRef.apart])]

/-- A sample changes neither count, and its time is now (R268). -/
theorem canStat_refSampled (off : Int) (dt : Option Int) (s : State) {g : FldRef} (hg : g.a = Reg.TU_CAN_STAT) :
    (refSampled off dt s).get g = s.get g := by
  rw [refSampled]
  split
  · exact (servo_sampled off dt true s).get g (by simp only [offServo, offStep, hg]; decide)
  · rfl

theorem refSampled_other {off : Int} {dt : Option Int} (h : s.get .TU_STAT_SRC_EFF ≠ 1) : refSampled off dt s = s := if_neg h

theorem lastSample_refSampled {off : Int} {dt : Option Int} (h : s.get .TU_STAT_SRC_EFF = 1) : (refSampled off dt s).tu.lastSample = clk s := by
  rw [refSampled, if_pos h, (servo_frame off dt true s).unchanged fun t => t.tu.lastSample, offsetNoted, State.modTu_tu]

end Follow

/-- Settles O42: a message that is due is counted and queued; one that comes in is noted, and then counts, is skipped or is a sample. -/
theorem canTimeReferences : Obligations.CanTimeReferences := by
  unfold Obligations.CanTimeReferences
  refine ⟨?send, ?sendIdle, ?note, ?pair, ?skip, ?other⟩
  case send =>
    intro s p hm hper hr hd hp
    refine ⟨_, exec_tuCanRefSend hm hper hr hd hp, ?_, ?_, ?_, tu_refSent p s, fun hw => ?_⟩
    · rw [txq_refSent]
      rfl
    · rw [regs_refSent p s _ (by unfold inTu; decide), seq_refCounted]
    · rw [regs_refSent p s _ (by unfold inTu; decide), refCnt_refCounted]
    · rw [refSent_unwoken hw]
      exact ⟨(refNext_frame p s).rest, fun a ha => (refNext_frame p s).rd a ha⟩
  case sendIdle => exact fun s h => exec_tuCanRefSend_idle h
  case note =>
    intro s x p hm hp hruns hmode herr hr hok hid hdlc hrtr
    have hf := canRef_frame (x.data.getD 0 0).toNat (stampOf x) (now s) s
    have hnote := refNoted_frame (x.data.getD 0 0).toNat (now s) s
    refine ⟨_, exec_tuCanRefReceive hm hp hruns hmode herr hr hok hid hdlc hrtr, ?_, ?_, ?_, ?_, fun a h1 h2 h3 h4 h5 => ?_⟩
    · rw [hf.get _ (by unfold offRef offServo offStep; decide), seq_refNoted _ _ _ (x.data.getD 0 0).isLt]
    · exact hf.unchanged fun t => t.tu.canF
    · exact hf.unchanged fun t => t.tu.canSeq
    · exact ((hnote.mono (Q := noField) (g := sampledFrom) fun _ hg => hg.elim).trans (hf.mono (Q := noField) fun _ hg => hg.elim)).rest
    · rw [hf.rd a ⟨⟨⟨⟨h2, h5⟩, h4⟩, h3⟩, .inl h1, Nat.lt_succ_self 31⟩, hnote.rd a h1]
  case pair =>
    intro s x p k f hm hp hruns hmode herr hr hok hid hdlc hrtr hk hf hseq hstamp
    have hsome : stampOf x = some (leNat (x.data.drop 1)) := by rw [stampOf, hstamp, if_neg Bool.false_ne_true]
    obtain ⟨n, off, dt, hnext⟩ := canRef_next (m := leNat (x.data.drop 1)) (f := now s) hk hf hseq
    have hframe := (refNoted_frame (x.data.getD 0 0).toNat (now s) s).trans (refPaired_frame n _)
    refine ⟨_, exec_tuCanRefReceive hm hp hruns hmode herr hr hok hid hdlc hrtr, ?_, ?_, fun hsrc => ?_, fun hsrc => ?_⟩
    all_goals rw [hsome, hnext]
    · rw [canStat_refSampled _ _ _ rfl, refCnt_refPaired, refCnt_refNoted]
    · rw [canStat_refSampled _ _ _ rfl, skipCnt_refPaired, skipCnt_refNoted]
    · rw [refSampled_other (by rwa [src_refPaired])]
      exact ⟨hframe.rest, fun a ha => hframe.rd a ha⟩
    · rw [lastSample_refSampled (by rwa [src_refPaired])]
      simp [refPaired, refNoted, clk]
  case skip =>
    intro s x p k f hm hp hruns hmode herr hr hok hid hdlc hrtr hk hf hbad hlt
    have hnote := refNoted_frame (x.data.getD 0 0).toNat (now s) s
    have hexec := exec_tuCanRefReceive hm hp hruns hmode herr hr hok hid hdlc hrtr
    by_cases hagain : (x.data.getD 0 0).toNat = k ∧ (x.data.drop 1).all (fun b => b == 0xFF) = false
    · have hsome : stampOf x = some (leNat (x.data.drop 1)) := by rw [stampOf, hagain.2, if_neg Bool.false_ne_true]
      rw [hsome, canRef_again hk hf hagain.1] at hexec
      refine ⟨_, hexec, ?_, refCnt_refNoted _ _ _, hnote.rest, fun a ha => hnote.rd a ha⟩
      rw [skipCnt_refNoted, if_pos hagain]
    · have hskip : stampOf x = none ∨ ((x.data.getD 0 0).toNat ≠ k ∧ (x.data.getD 0 0).toNat ≠ (k + 1) % 256) := by
        cases hall : (x.data.drop 1).all (fun b => b == 0xFF) with
        | true => exact .inl (if_pos hall)
        | false => exact .inr ⟨fun h => hagain ⟨h, hall⟩, hbad.resolve_right (by rw [hall]; exact Bool.false_ne_true)⟩
      have hframe := hnote.trans (refSkipped_frame _)
      rw [canRef_skipped hk hf hskip] at hexec
      refine ⟨_, hexec, ?_, ?_, hframe.rest, fun a ha => hframe.rd a ha⟩
      · rw [if_neg hagain, get_inc _ _ (by simp) (by simp), skipCnt_refNoted]
      · rw [refCnt_refSkipped, refCnt_refNoted]
  case other => exact fun s x h => exec_tuCanRefReceive_other h

end Sys2Proof.Machine
end

section
/-! PROOFS. A frame for a latest-value buffer that comes in as its port goes bus-off (R303, R312, R349). -/

namespace Sys2Proof.Machine

set_option Elab.async false

/-- A module in RUN with CAN port 0 in NORMAL: its TEC stands at 256 while it is still error-active, its filter pair 0 delivers every frame to buffer 0, and
context 0, bound to the port, waits at an EXPECT whose deciding variable is number 0x41F0, past V15. The address of that variable is the one of `FLT_CTL` of the
pair. -/
def strayVariable : State :=
  let s : State := { pw := { on := true, power := 1 }, sv := { roleA := .active, anyActive := true }, cans := [(0, { mode := 1 })],
                     ctxs := [(0, { wait := .expect { at_ := 0, next := 0, descs := [], dreg := some 0x41F0, start := 0 } })] }
  ((((((s.put (.CAN_ERRCNT_TEC 0) 256).set1 (.FLT_CTL_EN 0 0)).put (.FLT_CTL_TARGET 0 0) 2).set1 (.CTX_CFG_EN 0)).put (.CTX_STAT_STATE 0) stWaiting).put
    (.CTX_STAT_WAIT_ON 0) 2).put (.CTX_PARTNER_KIND 0) 1

theorem strayVariable_port : canRuns strayVariable 0 = true ∧ (strayVariable.can 0).mode = 1 ∧ strayVariable.get (.CAN_STAT_ERR_STATE 0) ≠ 2 ∧
    canDecodes strayVariable 0 {} = true ∧ (lvbOf strayVariable 0 0).locks = [] := by decide +kernel

theorem deliveries_strayVariable : deliveries strayVariable 0 {} = [(2, 0, 0, false)] := by decide +kernel

/-- What the model does with a frame that is received there. -/
def strayReceived : State := frameEnd 0 (canReceive 0 { ts := now strayVariable } strayVariable)

theorem exec_canFrameReceive_strayVariable : exec (.canFrameReceive 0 {}) strayVariable = .next strayReceived := by
  obtain ⟨hruns, hmode, herr, hdec, -⟩ := strayVariable_port
  exact congrArg Host.Outcome.next (if_pos ⟨hruns, .inl hmode, herr, by decide, hdec⟩)

/-- PORT_OFF decides the EXPECT, whose variable takes index 0: the filter pair is off when the frame reaches it, and the buffer holds none. -/
theorem strayReceived_buffer : rd strayReceived (Reg.FLT_CTL 0 0) = 0 ∧ strayReceived.is (.LVB_STAT_VALID 0 0) = false := by decide +kernel

/-- Refutes O38: the statement asks for delivery in every state, and so in `strayVariable`, which the rules keep a run from (a TEC above 255 is bus-off
already, R311; the variable that takes an EXPECT's index is one of V0 to V15, R386). There the port goes bus-off before the frame passes the filters, which
makes a context overwrite the filter pair that would deliver it. -/
theorem not_canBuffers : ¬ Obligations.CanBuffers := by
  unfold Obligations.CanBuffers
  rintro ⟨hfront, -⟩
  obtain ⟨hruns, hmode, herr, hdec, hlocks⟩ := strayVariable_port
  obtain ⟨t, ht, -, -, hvalid⟩ := hfront strayVariable 0 {} 0 0 hruns (.inl hmode) herr (by decide) hdec deliveries_strayVariable hlocks
  obtain rfl : strayReceived = t := Host.Outcome.next.inj (exec_canFrameReceive_strayVariable.symm.trans ht)
  obtain ⟨-, hempty⟩ := strayReceived_buffer
  exact absurd (hempty.symm.trans hvalid) (by decide)

end Sys2Proof.Machine
end

section
/-! PROOFS. A ring's frames by their rows, links and ways (R457, R458, R462): what every row does with one, and where it leaves. -/

namespace Sys2Proof.Machine

set_option Elab.async false

section Rows

variable {s : State} {x : Fin 2} {f : RFrame} {i : Instr} {ty : Nat} {g : State → State}

/-- A port that carries no frames hears none (R458). -/
theorem ringRecv_unheard (h : carries s x = false) : ringRecv x ty f g s = ringStart s := by simp [ringRecv, h]

/-- A malformed frame is counted (R462). -/
theorem ringRecv_malformed (h : carries s x = true) (hf : rframeOk f = false) : ringRecv x ty f g s = (ringStart s).inc (.CSN_LK_ERR_CRC x) := by
  simp [ringRecv, h, hf]

theorem ringRecv_otherType (h : carries s x = true) (hf : rframeOk f = true) (ht : f.ty.toNat ≠ ty) : ringRecv x ty f g s = ringStart s := by
  simp [ringRecv, h, hf, ht]

/-- Each row hears frames of its type alone. -/
theorem exec_ringRow {fr : Byte} {d : BitVec 32} (hi : i ∈ ringRows x f fr d) : ∃ g, exec i s = .next (ringRecv x (ringType i) f g s) := by
  simp only [ringRows, List.mem_cons, List.not_mem_nil, or_false] at hi
  rcases hi with rfl | rfl | rfl | rfl | rfl | rfl | rfl | rfl | rfl
  all_goals exact ⟨_, rfl⟩

theorem exec_enum (h : ringGets s x f 0x08 = true) :
    exec (.enum x f) s = .next (if isHead s then enumHead x f (ringStart s) else enumMember x f (ringStart s)) :=
  congrArg Host.Outcome.next (ringRecv_gets h)

theorem exec_roster (h : ringGets s x f 0x09 = true) :
    exec (.roster x f) s = .next (if isHead s then rosterHead f (ringStart s) else forward x f (ringStart s)) :=
  congrArg Host.Outcome.next (ringRecv_gets h)

theorem exec_enumDone (h : ringGets s x f 0x0A = true) :
    exec (.enumDone x f) s = .next (if isHead s then ringStart s else forward x f (enumDone f (ringStart s))) :=
  congrArg Host.Outcome.next (ringRecv_gets h)

theorem exec_reroute (h : ringGets s x f 0x0B = true) :
    exec (.reroute x f) s = .next (if isHead s then ringStart s else forward x f (reroute f (ringStart s))) :=
  congrArg Host.Outcome.next (ringRecv_gets h)

theorem exec_ringTimeFrame {fr : Byte} {d : BitVec 32} (h : ringGets s x f 0x03 = true) : exec (.ringTimeFrame x f fr d) s =
    .next (if isHead s then ringStart s else timeSample x f fr.toNat (forward x (timeOnward x f d.toNat s) (ringStart s))) :=
  congrArg Host.Outcome.next (ringRecv_gets h)

theorem exec_ringTokenReceive (ht : f.ty = 0x04 ∨ f.ty = 0x05) : exec (.ringTokenReceive x f) s = .next (ringRecv x f.ty.toNat f
    (fun s => if isHead s then s else forward x f (tokenReceive { kind := f.ty.toNat - 3, id := bits f.w1 31 16, tgt := num64 f.data } s)) s) :=
  congrArg Host.Outcome.next (if_pos ht)

/-- A sound ROSTER frame holds a member's address (R462). -/
theorem rosterAddr_range (h : ringGets s x f 0x09 = true) : f.w1.toNat % 256 ≠ 0 ∧ f.w1.toNat % 256 ≤ 250 := by
  obtain ⟨-, hok, hty⟩ := carries_of_ringGets h
  have hf := rfieldsOk_of_rframeOk hok
  simp only [rfieldsOk, hty, Bool.and_eq_true, decide_eq_true_eq, bits, nbits, pow_zero, Nat.div_one, tsub_zero, Nat.reduceAdd, Nat.reducePow] at hf
  obtain ⟨⟨-, h1⟩, h250⟩ := hf
  exact ⟨by omega, h250⟩

end Rows

section Ways

variable {u : State → State → State} {P : FldRef → Prop} {s t : State} {x : Nat} {f : RFrame}

/-- A link carries frames by its UP and by the state of the ring's records alone (R458, R460). -/
theorem Frame.carries (h : Frame u P s t) (hP : P (.CSN_LK_STAT_UP x)) (hc : t.csn.closed = s.csn.closed) (hl : t.csn.links = s.csn.links) :
    Machine.carries t x = Machine.carries s x := by
  simp only [Machine.carries, linkUpR, State.link, h.is _ hP, hc, hl]

theorem Frame.enumPort (h : Frame u P s t) (hP : P (.CSN_LK_STAT_UP x)) (hc : t.csn.closed = s.csn.closed) (hl : t.csn.links = s.csn.links) :
    Machine.enumPort t x = Machine.enumPort s x := by
  simp only [Machine.enumPort, h.carries hP hc hl, State.link, hl]

theorem carries_sendOn (y : Nat) (f : RFrame) (s : State) (x : Nat) : carries (sendOn y f s) x = carries s x := by
  have h := sendOn_frame (P := fun _ => True) y f s
  have hcsn := csn_sendOn y f s
  exact h.carries trivial (by rw [hcsn]) (by rw [hcsn])

/-- A frame that the head sends leaves by the ports that carry frames. -/
theorem csn_sendBoth (f : RFrame) (s : State) : (sendBoth f s).csn =
    { s.csn with sent := s.csn.sent ++ (if carries s 0 then [(0, f)] else []) ++ (if carries s 1 then [(1, f)] else []) } := by
  rw [sendBoth, csn_sendOn, csn_sendOn, carries_sendOn]
  split <;> split <;> simp

/-- Forwarding sends at most: it changes no register (R457). -/
theorem sendPast_frame (y : Nat) (f : RFrame) (s : State) : Frame ringFrom P s (sendPast y f s) :=
  .ite (fun _ => modCsn_frame _ s) fun _ => sendOn_frame y f s

theorem forward_frame (x : Nat) (f : RFrame) (s : State) : Frame ringFrom P s (forward x f s) :=
  .ite (fun _ => .refl s) fun _ => sendPast_frame _ _ s

/-- What leaves of a frame other than an exported entry (R457, R462). -/
theorem sent_forward (hf : f.ty ≠ 0x06) (s : State) : (forward x f s).csn = { s.csn with
    sent := if isHead s = true ∨ outPort s x f = x ∨ carries s (outPort s x f) = false then s.csn.sent
      else s.csn.sent ++ [(outPort s x f, { f with hops := f.hops + 1 })] } := by
  rw [forward]
  by_cases hend : isHead s = true ∨ outPort s x f = x
  · rw [if_pos hend, if_pos (hend.imp id .inl)]
  · rw [if_neg hend, sendPast, if_neg fun h => hf h.1, csn_sendOn]
    obtain ⟨hh, ho⟩ := not_or.mp hend
    cases hc : carries s (outPort s x f) <;> simp [hh, ho]

end Ways

end Sys2Proof.Machine
end

section
/-! PROOFS. The head's enumeration (R442, R443, R454, R477): how it begins, the roster, and the end of a side and of the whole. -/

namespace Sys2Proof.Machine

set_option Elab.async false

/-- A field outside `CSN_STAT`. -/
def offCsnStat (g : FldRef) : Prop := g.a ≠ Reg.CSN_STAT

/-- A field outside the roster, and one outside the entry of module `m`. -/
def offRoster (g : FldRef) : Prop := ¬ (Reg.CSN_ROS_SER 0 0 ≤ g.a ∧ g.a < Reg.CSN_ROS_SER 251 0)
def offEntry (m : Nat) (g : FldRef) : Prop := ¬ (Reg.CSN_ROS_SER m 0 ≤ g.a ∧ g.a < Reg.CSN_ROS_SER (m + 1) 0)

section Roster

variable {s : State} {m k : Nat}

/-- What a key holds once keys have been taken out by `q`. -/
theorem kget_filter_key {α : Type} (d : α) (q : Nat → Bool) (l : KMap α) (k : Nat) :
    kget d (l.filter fun p => q p.1) k = if q k then kget d l k else d := by
  induction l with
  | nil => simp [kget]
  | cons p l ih =>
    obtain ⟨j, v⟩ := p
    rw [List.filter_cons]
    split
    · next hj =>
      rw [kget, kget, ih]
      by_cases hk : k = j
      · rw [if_pos hk, if_pos hk, hk, if_pos hj]
      · rw [if_neg hk, if_neg hk]
    · next hj =>
      rw [ih, kget]
      by_cases hk : k = j
      · rw [hk, if_neg hj, if_neg hj]
      · rw [if_neg hk]

/-- Emptying takes the roster's registers back to their reset values (R477). -/
theorem rd_rosterClear (s : State) (a : Nat) :
    rd (rosterClear s) a = if Reg.CSN_ROS_SER 0 0 ≤ a ∧ a < Reg.CSN_ROS_SER 251 0 then resetWord a else rd s a := by
  have h := kget_filter_key (resetWord a) (fun k => !(decide (Reg.CSN_ROS_SER 0 0 ≤ k) && decide (k < Reg.CSN_ROS_SER 251 0))) s.regs a
  refine Eq.trans h ?_
  by_cases ha : Reg.CSN_ROS_SER 0 0 ≤ a ∧ a < Reg.CSN_ROS_SER 251 0
  · rw [if_pos ha, if_neg (by simp [ha.1, ha.2])]
  · rw [if_neg ha, if_pos (by rw [← Bool.decide_and, decide_eq_false ha]; rfl), rd]

theorem rosterClear_frame (s : State) : Frame regsFrom offRoster s (rosterClear s) :=
  .of_rd rfl fun g hg => (rd_rosterClear s g.a).trans (if_neg hg)

/-- Nobody is present after reset (R477). -/
theorem present_reset : ∀ m < 251, bits (resetWord (Reg.CSN_ROS_STAT m)) 31 31 = 0 := by decide +kernel

theorem present_rosterClear (hm : m < 251) (s : State) : (rosterClear s).is (.CSN_ROS_STAT_PRESENT m) = false := by
  rw [State.is, State.get, rd_rosterClear, if_pos (by simp only [Reg.CSN_ROS_STAT, Reg.CSN_ROS_SER]; omega), present_reset m hm]
  rfl

variable {id : Word} {last : Bool} {gen : Nat}

/-- The serial number's words of an entry (R477). -/
def rosterSer (m : Nat) (ser : List Word) (s : State) : State := s.each (List.range 4) fun i s => wr (Reg.CSN_ROS_SER m i) (ser.getD i 0) s

theorem rd_rosterSer (hk : k < 4) (m : Nat) (ser : List Word) (s : State) : rd (rosterSer m ser s) (Reg.CSN_ROS_SER m k) = ser.getD k 0 := by
  refine each_at (fun u => rd u (Reg.CSN_ROS_SER m k)) List.nodup_range (List.mem_range.mpr hk) (fun j _ hj u => ?_) s fun u _ => rd_wr_same _ _ _
  exact rd_wr_ne _ _ _ _ (by simp only [Reg.CSN_ROS_SER]; omega)

theorem rosterSer_frame (m : Nat) (ser : List Word) (s : State) : Frame regsFrom (offEntry m) s (rosterSer m ser s) :=
  .each _ _ s fun i hi t => (Frame.refl t).wr _ _ fun g hg e => by
    rw [List.mem_range] at hi
    simp only [offEntry, e, Reg.CSN_ROS_SER] at hg
    omega

/-- The identity and the status word of an entry (R477). -/
def rosterStat (m : Nat) (id : Word) (last : Bool) (gen : Nat) (s : State) : State :=
  (((wr (Reg.CSN_ROS_ID m) id s).put (.CSN_ROS_STAT_PRESENT m) 1).putB (.CSN_ROS_STAT_LAST m) last).put (.CSN_ROS_STAT_GEN m) gen

theorem rosterPut_eq (m : Nat) (ser : List Word) (id : Word) (last : Bool) (gen : Nat) (lat : Word) (s : State) :
    rosterPut m ser id last gen lat s = wr (Reg.CSN_ROS_LAT m) lat (rosterStat m id last gen (rosterSer m ser s)) := rfl

theorem rosterStat_frame (P : FldRef → Prop) (hP : ∀ g, P g → g.a ≠ Reg.CSN_ROS_ID m ∧ g.a ≠ Reg.CSN_ROS_STAT m) (s : State) :
    Frame regsFrom P s (rosterStat m id last gen s) :=
  ((((Frame.refl s).wr _ _ fun g hg => (hP g hg).1).put _ _ fun g hg => (hP g hg).2).put _ _ fun g hg => (hP g hg).2).put _ _ fun g hg => (hP g hg).2

theorem rosterPut_frame (m : Nat) (ser : List Word) (id : Word) (last : Bool) (gen : Nat) (lat : Word) (s : State) :
    Frame regsFrom (offEntry m) s (rosterPut m ser id last gen lat s) := by
  have hoff (a : Nat) (ha : Reg.CSN_ROS_SER m 0 ≤ a ∧ a < Reg.CSN_ROS_SER (m + 1) 0) (g : FldRef) (hg : offEntry m g) : g.a ≠ a := fun e => hg (e ▸ ha)
  rw [rosterPut_eq]
  refine ((rosterSer_frame m ser s).trans (rosterStat_frame _ (fun g hg => ⟨?_, ?_⟩) _)).wr _ _ (hoff _ ?_)
  exacts [hoff _ (by simp only [Reg.CSN_ROS_SER, Reg.CSN_ROS_ID]; omega) g hg, hoff _ (by simp only [Reg.CSN_ROS_SER, Reg.CSN_ROS_STAT]; omega) g hg,
    by simp only [Reg.CSN_ROS_SER, Reg.CSN_ROS_LAT]; omega]

/-- What an entry then reads as. -/
theorem rd_rosterPut (m : Nat) (ser : List Word) (id : Word) (last : Bool) (gen : Nat) (lat : Word) (s : State) :
    rd (rosterPut m ser id last gen lat s) (Reg.CSN_ROS_LAT m) = lat ∧ rd (rosterPut m ser id last gen lat s) (Reg.CSN_ROS_ID m) = id ∧
      ∀ k < 4, rd (rosterPut m ser id last gen lat s) (Reg.CSN_ROS_SER m k) = ser.getD k 0 := by
  rw [rosterPut_eq]
  refine ⟨rd_wr_same _ _ _, ?_, fun k hk => ?_⟩
  · rw [rd_wr_ne _ _ _ _ (by simp only [Reg.CSN_ROS_ID, Reg.CSN_ROS_LAT]; omega), rosterStat, State.putB]
    iterate 3 rw [rd_put_ne _ _ _ _ (by simp only [Reg.CSN_ROS_ID, Reg.CSN_ROS_STAT]; omega)]
    exact rd_wr_same _ _ _
  · rw [rd_wr_ne _ _ _ _ (by simp only [Reg.CSN_ROS_SER, Reg.CSN_ROS_LAT]; omega)]
    have hf : Frame regsFrom (fun g => g.a = Reg.CSN_ROS_SER m k) (rosterSer m ser s) (rosterStat m id last gen (rosterSer m ser s)) :=
      rosterStat_frame _ (fun g hg => by simp only [hg, Reg.CSN_ROS_SER, Reg.CSN_ROS_ID, Reg.CSN_ROS_STAT]; omega) _
    rw [hf.rd _ rfl, rd_rosterSer hk]

theorem stat_rosterPut (m : Nat) (ser : List Word) (id : Word) (last : Bool) (gen : Nat) (lat : Word) (s : State) :
    (rosterPut m ser id last gen lat s).is (.CSN_ROS_STAT_PRESENT m) = true ∧ (rosterPut m ser id last gen lat s).is (.CSN_ROS_STAT_LAST m) = last := by
  have hlat (u : State) (g : FldRef) (hg : g.a = Reg.CSN_ROS_STAT m) : (wr (Reg.CSN_ROS_LAT m) lat u).is g = u.is g := by
    rw [State.is, get_wr_ne _ _ _ _ (by simp only [hg, Reg.CSN_ROS_STAT, Reg.CSN_ROS_LAT]; omega), State.is]
  rw [rosterPut_eq, hlat _ _ rfl, hlat _ _ rfl, rosterStat]
  constructor
  · rw [State.is, get_put_apart _ _ _ _ (by simp) (by simp) (by simp [FldRef.apart]), State.putB,
      get_put_apart _ _ _ _ (by simp) (by simp) (by simp [FldRef.apart]), get_put _ _ _ (by simp) (by simp)]
    rfl
  · rw [State.is, get_put_apart _ _ _ _ (by simp) (by simp) (by simp [FldRef.apart]), get_putB _ _ _ (by simp) (by simp)]
    cases last <;> rfl

end Roster

section Finish

variable {P : FldRef → Prop} {s : State} {n x : Nat}

/-- The frame with which the head ends its enumeration (R454). -/
def doneFrame (n : Nat) (ring : Bool) (s : State) : RFrame := headFrame s 0x0A (wd (n + 256 * b2n ring)) (epochW s) []

/-- N and RING are shown (R454). -/
def ringCounted (n : Nat) (ring : Bool) (s : State) : State := (s.put .CSN_STAT_N n).putB .CSN_STAT_RING ring

theorem enumFinish_eq (n : Nat) (ring : Bool) (s : State) :
    enumFinish n ring s = csState csTimeLock (sendBoth (doneFrame n ring s) (ringCounted n ring s)) := rfl

theorem ringCounted_frame (n : Nat) (ring : Bool) (s : State) : Frame regsFrom offCsnStat s (ringCounted n ring s) :=
  ((Frame.refl s).put .CSN_STAT_N _ fun _ hg => hg).put .CSN_STAT_RING _ fun _ hg => hg

/-- A new state of the ring, and its phase begins (R473). -/
theorem csState_frame (k : Nat) (s : State) : Frame ringFrom offCsnStat s (csState k s) :=
  ((Frame.refl s).put .CSN_STAT_STATE k fun _ hg => hg).trans (modCsn_frame _ _)

theorem csn_csState (k : Nat) (s : State) : (csState k s).csn = { s.csn with phaseAt := clk s } := rfl

theorem state_csState (k : Nat) (s : State) : (csState k s).get .CSN_STAT_STATE = k % 16 := by
  rw [csState, State.modCsn_get, get_put _ _ _ (by simp) (by simp)]
  rfl

theorem csState_apart (k : Nat) (s : State) (g : FldRef) (hg : g.hi < 12 ∨ (16 ≤ g.lo ∧ g.hi < 32)) : (csState k s).get g = s.get g := by
  rw [csState, State.modCsn_get, get_put_apart _ _ _ _ (by simp) (by omega) (by simp only [FldRef.apart]; omega)]

theorem enumFinish_frame (n : Nat) (ring : Bool) (s : State) : Frame ringFrom offCsnStat s (enumFinish n ring s) := by
  rw [enumFinish_eq]
  exact ((ringCounted_frame n ring s).ring.trans (sendBoth_frame _ _)).trans (csState_frame _ _)

theorem csn_enumFinish (n : Nat) (ring : Bool) (s : State) : (enumFinish n ring s).csn = { s.csn with
    phaseAt := clk s
    sent := s.csn.sent ++ (if carries s 0 then [(0, doneFrame n ring s)] else []) ++ (if carries s 1 then [(1, doneFrame n ring s)] else []) } := by
  have hf := ringCounted_frame n ring s
  have hcsn : (ringCounted n ring s).csn = s.csn := hf.unchanged State.csn
  have hclk : clk (sendBoth (doneFrame n ring s) (ringCounted n ring s)) = clk s :=
    congrArg TuSt.edges ((sendBoth_frame (P := fun _ => True) _ _).unchanged State.tu |>.trans (hf.unchanged State.tu))
  have hcarry (x : Nat) : carries (ringCounted n ring s) x = carries s x :=
    hf.carries (by simp only [offCsnStat, Reg.CSN_STAT, Reg.CSN_LK_STAT]; omega) (by rw [hcsn]) (by rw [hcsn])
  rw [enumFinish_eq, csn_csState, hclk, csn_sendBoth, hcarry, hcarry, hcsn]

/-- What `CSN_STAT` then shows. -/
theorem stat_enumFinish (n : Nat) (ring : Bool) (s : State) : (enumFinish n ring s).get .CSN_STAT_N = n % 256 ∧
    (enumFinish n ring s).is .CSN_STAT_RING = ring ∧ (enumFinish n ring s).get .CSN_STAT_STATE = csTimeLock := by
  have hsend (g : FldRef) := (sendBoth_frame (P := fun _ => True) (doneFrame n ring s) (ringCounted n ring s)).get g trivial
  rw [enumFinish_eq]
  refine ⟨?_, ?_, state_csState _ _⟩
  · rw [csState_apart _ _ _ (by simp), hsend, ringCounted, State.putB, get_put_apart _ _ _ _ (by simp) (by simp) (by simp [FldRef.apart]),
      get_put _ _ _ (by simp) (by simp)]
    rfl
  · rw [State.is, csState_apart _ _ _ (by simp), hsend]
    exact is_putB _ _ _ (by simp) (by simp)

/-- The head sends ENUM into a side (R454). -/
theorem enumSide_frame (x n : Nat) (s : State) : Frame ringFrom P s (enumSide x n s) :=
  ((modCsn_frame _ s).trans (modCsn_frame _ _)).trans (sendOn_frame _ _ _)

theorem enumSide_carried (h : carries s x = true) : enumSide x n s = s.modCsn fun c =>
    { c with side := x, count := n, phaseAt := clk s, sent := c.sent ++ [(x, headFrame s 0x08 (wd n) (epochW s) [])] } := by
  have hc : carries ((phaseBegin s).modCsn fun c => { c with side := x, count := n }) x = true := h
  rw [enumSide, sendOn_carried hc]
  rfl

theorem csn_enumSide (h : carries s x = true) : (enumSide x n s).csn = { s.csn with
    side := x, count := n, phaseAt := clk s, sent := s.csn.sent ++ [(x, headFrame s 0x08 (wd n) (epochW s) [])] } := by
  rw [enumSide_carried h, State.modCsn_csn]

/-- The LK1 side follows the LK2 side where it can be enumerated (R443, R454). -/
theorem sideEnd_next (h1 : s.csn.side = 1) (hp : enumPort s 0 = true) :
    sideEnd s = enumSide 0 s.csn.count (s.modCsn fun c => { c with n2 := s.csn.count }) :=
  (if_pos h1).trans (if_pos hp)

/-- Else the enumeration is over. -/
theorem sideEnd_last (h : s.csn.side ≠ 1 ∨ enumPort s 0 = false) :
    ∃ k, sideEnd s = enumFinish s.csn.count false (s.modCsn fun c => { c with n2 := k }) := by
  by_cases h1 : s.csn.side = 1
  · have hp : enumPort s 0 = false := h.resolve_left (not_not.mpr h1)
    exact ⟨s.csn.count, (if_pos h1).trans (if_neg (fun hn => Bool.false_ne_true (hp.symm.trans hn)))⟩
  · exact ⟨s.csn.n2, if_neg h1⟩

theorem sideEnd_frame (s : State) : Frame ringFrom offCsnStat s (sideEnd s) := by
  by_cases h : s.csn.side ≠ 1 ∨ enumPort s 0 = false
  · obtain ⟨k, hk⟩ := sideEnd_last h
    rw [hk]
    exact (modCsn_frame _ s).trans (enumFinish_frame _ _ _)
  · rw [not_or, not_not, Bool.not_eq_false] at h
    rw [sideEnd_next h.1 h.2]
    exact (modCsn_frame _ s).trans (enumSide_frame _ _ _)

end Finish

end Sys2Proof.Machine
end

section
/-! PROOFS. ENUM_START, and what the head makes of ENUM and ROSTER (R442, R443, R454). -/

namespace Sys2Proof.Machine

set_option Elab.async false

section Start

variable {s : State} {p x : Nat}

/-- Without one of the things that it waits for, ENUM_START does nothing (R454). -/
theorem enumStart_idle (h : isHead s = false ∨ s.csn.closed = true ∨ s.get .CSN_STAT_STATE ≠ csTraining ∨ linkSettled s 0 = false ∨
      linkSettled s 1 = false ∨ (enumPort s 0 = false ∧ enumPort s 1 = false) ∨ clk s < s.csn.phaseAt + s.get .CSN_CFG_ENUM_DELAY * tickMs) :
    enumStart s = s := by
  refine if_pos ?_
  rcases h with h | h | h | h | h | h | h
  · exact .inl (by simp [h])
  · exact .inr (.inl h)
  · exact .inr (.inr (.inl h))
  · exact .inr (.inr (.inr (.inl (by simp [h]))))
  · exact .inr (.inr (.inr (.inl (by simp [h]))))
  · exact .inr (.inr (.inr (.inr (.inl (by simp [h])))))
  · exact .inr (.inr (.inr (.inr (.inr (by simpa [phasePast] using h)))))

/-- The head's new epoch, with an empty roster (R454). -/
def epochBegun (s : State) : State := csState csEnum (rosterClear (s.incWrap .CSN_EPOCH_EPOCH))

/-- Its address is 0, and it knows of no member. -/
def aloneInRing (s : State) : State := ((s.put .CSN_STAT_ADDR 0).put .CSN_STAT_N 0).put .CSN_STAT_RING 0

/-- The head's entry is the roster's first. -/
def enumBegun (s : State) : State :=
  (rosterPut 0 (serialWords s) (rd s Reg.MOD_ID) false 0 0 (aloneInRing (epochBegun s))).modCsn fun c => { c with n2 := 0, count := 0, cut := none }

theorem enumStart_runs (hh : isHead s = true) (hc : s.csn.closed = false) (ht : s.get .CSN_STAT_STATE = csTraining) (h0 : linkSettled s 0 = true)
    (h1 : linkSettled s 1 = true) (hd : s.csn.phaseAt + s.get .CSN_CFG_ENUM_DELAY * tickMs ≤ clk s) (hp : enumPort s 0 = true ∨ enumPort s 1 = true) :
    enumStart s = if enumPort (enumBegun s) 1 then enumSide 1 0 (enumBegun s) else enumSide 0 0 (enumBegun s) := by
  refine if_neg ?_
  rintro (h | h | h | h | h | h)
  exacts [h hh, absurd (hc.symm.trans h) Bool.false_ne_true, h ht, h ⟨h0, h1⟩, h hp, h (decide_eq_true hd)]

/-- A field outside `CSN_STAT`, the epoch and the roster. -/
def offEnum (g : FldRef) : Prop := (offCsnStat g ∧ g.a ≠ Reg.CSN_EPOCH) ∧ offRoster g

theorem offEntry_of_offRoster {m : Nat} (hm : m < 251) {g : FldRef} (h : offRoster g) : offEntry m g := by
  simp only [offRoster, offEntry, Reg.CSN_ROS_SER] at h ⊢
  omega

theorem epochBegun_frame (s : State) : Frame ringFrom offEnum s (epochBegun s) := by
  have hcount : Frame ringFrom offEnum s (s.incWrap .CSN_EPOCH_EPOCH) := (Frame.refl s).put _ _ fun _ hg => hg.1.2
  exact (hcount.trans ((rosterClear_frame _).mono fun _ => And.right)).trans ((csState_frame _ _).mono fun _ hg => hg.1.1)

theorem aloneInRing_frame (s : State) : Frame regsFrom offCsnStat s (aloneInRing s) :=
  (((Frame.refl s).put .CSN_STAT_ADDR _ fun _ hg => hg).put .CSN_STAT_N _ fun _ hg => hg).put .CSN_STAT_RING _ fun _ hg => hg

theorem enumBegun_frame (s : State) : Frame ringFrom offEnum s (enumBegun s) :=
  (((epochBegun_frame s).trans ((aloneInRing_frame _).ring.mono fun _ hg => hg.1.1)).trans
    ((rosterPut_frame 0 _ _ _ _ _ _).ring.mono fun _ hg => offEntry_of_offRoster (by decide) hg.2)).trans (modCsn_frame _ _)

theorem csn_enumBegun (s : State) : (enumBegun s).csn = { s.csn with n2 := 0, count := 0, cut := none, phaseAt := clk s } := by
  have hput := (rosterPut_frame 0 (serialWords s) (rd s Reg.MOD_ID) false 0 0 (aloneInRing (epochBegun s))).unchanged State.csn
  have halone : (aloneInRing (epochBegun s)).csn = (epochBegun s).csn := (aloneInRing_frame _).unchanged State.csn
  have hcsn : (epochBegun s).csn = { s.csn with phaseAt := clk s } := rfl
  rw [enumBegun, State.modCsn_csn, hput, halone, hcsn]

/-- `CSN_STAT` and the epoch are those of the head alone; the roster holds the head alone. -/
theorem stat_enumBegun (s : State) : (enumBegun s).get .CSN_STAT_STATE = csEnum ∧ (enumBegun s).get .CSN_STAT_N = 0 ∧
    (enumBegun s).is .CSN_STAT_RING = false ∧ (enumBegun s).get .CSN_STAT_ADDR = 0 := by
  have hput (g : FldRef) (hg : g.a = Reg.CSN_STAT) : (enumBegun s).get g = (aloneInRing (epochBegun s)).get g := by
    rw [enumBegun, State.modCsn_get, (rosterPut_frame 0 _ _ _ _ _ _).get g (by simp only [offEntry, hg]; decide)]
  refine ⟨?_, ?_, ?_, ?_⟩
  · rw [hput _ rfl, aloneInRing]
    iterate 3 rw [get_put_apart _ _ _ _ (by simp) (by simp) (by simp [FldRef.apart])]
    exact state_csState _ _
  · rw [hput _ rfl, aloneInRing, get_put_apart _ _ _ _ (by simp) (by simp) (by simp [FldRef.apart]), get_put _ _ _ (by simp) (by simp),
      Nat.zero_mod]
  · rw [State.is, hput _ rfl, aloneInRing, get_put _ _ _ (by simp) (by simp)]
    rfl
  · rw [hput _ rfl, aloneInRing]
    iterate 2 rw [get_put_apart _ _ _ _ (by simp) (by simp) (by simp [FldRef.apart])]
    rw [get_put _ _ _ (by simp) (by simp), Nat.zero_mod]

theorem epoch_enumBegun (s : State) : (enumBegun s).get .CSN_EPOCH_EPOCH = (s.get .CSN_EPOCH_EPOCH + 1) % 2 ^ 16 := by
  rw [enumBegun, State.modCsn_get, (rosterPut_frame 0 _ _ _ _ _ _).get _ (by unfold offEntry; decide),
    (aloneInRing_frame _).get _ (by unfold offCsnStat; decide), epochBegun, (csState_frame _ _).get _ (by unfold offCsnStat; decide),
    (rosterClear_frame _).get _ (by unfold offRoster; decide), get_incWrap _ _ (by simp) (by simp)]
  rfl

theorem roster_enumBegun (s : State) : rd (enumBegun s) (Reg.CSN_ROS_ID 0) = rd s Reg.MOD_ID ∧
    ∀ m < 251, (enumBegun s).is (.CSN_ROS_STAT_PRESENT m) = (m == 0) := by
  obtain ⟨-, hid, -⟩ := rd_rosterPut 0 (serialWords s) (rd s Reg.MOD_ID) false 0 0 (aloneInRing (epochBegun s))
  obtain ⟨hpresent, -⟩ := stat_rosterPut 0 (serialWords s) (rd s Reg.MOD_ID) false 0 0 (aloneInRing (epochBegun s))
  have hframe := rosterPut_frame 0 (serialWords s) (rd s Reg.MOD_ID) false 0 0 (aloneInRing (epochBegun s))
  refine ⟨by rw [enumBegun, State.modCsn_rd, hid], fun m hm => ?_⟩
  rw [enumBegun, State.is, State.modCsn_get, ← State.is]
  by_cases h0 : m = 0
  · rw [h0, hpresent]
    rfl
  · have hoff : offCsnStat (.CSN_ROS_STAT_PRESENT m) := by simp only [offCsnStat, Reg.CSN_ROS_STAT, Reg.CSN_STAT]; omega
    rw [hframe.is _ (by simp only [offEntry, Reg.CSN_ROS_STAT, Reg.CSN_ROS_SER]; omega), (aloneInRing_frame _).is _ hoff, epochBegun,
      (csState_frame _ _).is _ hoff, present_rosterClear hm, beq_false_of_ne h0]

theorem enumPort_enumBegun (hx : x < 2) (s : State) : enumPort (enumBegun s) x = enumPort s x := by
  have hcsn := csn_enumBegun s
  refine (enumBegun_frame s).enumPort ?_ (by rw [hcsn]) (by rw [hcsn])
  simp only [offEnum, offCsnStat, offRoster, Reg.CSN_LK_STAT, Reg.CSN_STAT, Reg.CSN_EPOCH, Reg.CSN_ROS_SER]
  omega

/-- ENUM leaves into the LK2 side, or without one the LK1 side (R454). -/
theorem enumStart_sends (hp : p = if enumPort s 1 then 1 else 0) :
    (if enumPort (enumBegun s) 1 then enumSide 1 0 (enumBegun s) else enumSide 0 0 (enumBegun s)) = enumSide p 0 (enumBegun s) := by
  rw [hp, enumPort_enumBegun (by decide)]
  split <;> rfl

end Start

section Receive

variable {s : State} {x : Nat} {f : RFrame}

/-- The head meets its own ENUM: the ring is closed (R443). -/
theorem enumHead_own (he : enumRuns s = true) (h1 : s.csn.side = 1) (hf : sameEpoch s f = true) :
    enumHead 0 f s = enumFinish (f.w1.toNat % 256) true (s.modCsn fun c => { c with n2 := f.w1.toNat % 256, count := f.w1.toNat % 256 }) :=
  if_pos ⟨he, h1, rfl, hf⟩

/-- It meets another's (R442). -/
theorem enumHead_other (h : enumRuns s = false ∨ s.csn.side ≠ 1 ∨ x ≠ 0 ∨ sameEpoch s f = false) :
    enumHead x f s = (s.put .CSN_STAT_ERR 1).modLink x fun l => { l with noEnum := true } := by
  refine if_neg ?_
  rintro ⟨he, h1, hx, hf⟩
  rcases h with h | h | h | h
  exacts [absurd (h.symm.trans he) Bool.false_ne_true, h h1, h hx, absurd (h.symm.trans hf) Bool.false_ne_true]

/-- The entry of the roster that a ROSTER frame gives (R454, R477). -/
def rostered (f : RFrame) (s : State) : State :=
  rosterPut (f.w1.toNat % 256) (f.data.take 4) (f.data.getD 4 0) (bitAt (wd f.flags.toNat) 2) (bits f.w1 9 8) f.w2 s

/-- The member counts, and its side's time begins anew (R454). -/
def memberCounted (f : RFrame) (s : State) : State :=
  (phaseBegin (rostered f s)).modCsn fun c => { c with count := max c.count (f.w1.toNat % 256) }

variable (h0 : f.w1.toNat % 256 ≠ 0) (h250 : f.w1.toNat % 256 ≤ 250)
include h0 h250

theorem rosterHead_records (hs : csEnum ≤ s.get .CSN_STAT_STATE) : rosterHead f s =
    if enumRuns s then (if bitAt (wd f.flags.toNat) 2 then sideEnd (memberCounted f s) else memberCounted f s) else rostered f s :=
  if_neg fun h => by omega

omit h0 h250

theorem rosterHead_early (hs : s.get .CSN_STAT_STATE < csEnum) : rosterHead f s = s := if_pos (.inr (.inr hs))

theorem state_of_enumRuns (h : enumRuns s = true) : isHead s = true ∧ s.get .CSN_STAT_STATE = csEnum := by
  simpa only [enumRuns, Bool.and_eq_true, beq_iff_eq] using h

/-- Past the entry, the head changes `CSN_STAT` and its part in the ring alone. -/
theorem rosterHead_frame (h0 : f.w1.toNat % 256 ≠ 0) (h250 : f.w1.toNat % 256 ≤ 250) (hs : csEnum ≤ s.get .CSN_STAT_STATE) :
    Frame ringFrom offCsnStat (rostered f s) (rosterHead f s) := by
  have hcount : Frame ringFrom offCsnStat (rostered f s) (memberCounted f s) := (modCsn_frame _ _).trans (modCsn_frame _ _)
  rw [rosterHead_records h0 h250 hs]
  exact .ite (fun _ => .ite (fun _ => hcount.trans (sideEnd_frame _)) fun _ => hcount) fun _ => .refl _

end Receive

end Sys2Proof.Machine
end

section
/-! PROOFS. A member's enumeration and ways (R443, R454, R455, R459, R460): its address, the end of the enumeration, and the way it takes around a hop. -/

namespace Sys2Proof.Machine

set_option Elab.async false

section Hops

variable {s t : State}

/-- Hops to the head are shown in `CSN_HOPS` alone (R474). -/
theorem Frame.putHops {u : State → State → State} {P : FldRef → Prop} (h : Frame u P s t) (x n : Nat) (hP : ∀ g, P g → g.a ≠ Reg.CSN_HOPS)
    (hf : ∀ s t m, { u s t with regs := m } = u s { u s t with regs := m } := by exact fun _ _ _ => rfl) : Frame u P s (putHops x n t) :=
  .ite (fun _ => h.put _ _ hP hf) fun _ => h.put _ _ hP hf

/-- They follow from what `CSN_HOPS` shows before. -/
theorem hops_putHops (h : rd t Reg.CSN_HOPS = rd s Reg.CSN_HOPS) (x n : Nat) :
    rd (putHops x n t) Reg.CSN_HOPS = rd (putHops x n s) Reg.CSN_HOPS := by
  unfold putHops
  split <;> rw [rd_put, rd_put, if_pos rfl, if_pos rfl, h]

theorem putHops_frame (x n : Nat) (s : State) : Frame regsFrom (fun g => g.a ≠ Reg.CSN_HOPS) s (putHops x n s) :=
  (Frame.refl s).putHops x n fun _ hg => hg

/-- A frame's way depends on what it passes through alone: two states that agree on that send on the same frames (R457, R458). -/
theorem sent_forward_congr {u : State → State → State} {P : FldRef → Prop} {x : Nat} {f : RFrame} (h : Frame u P s t) (hf : f.ty ≠ 0x06)
    (hhead : P .CSN_STAT_HEAD) (hup : P .CSN_STAT_UP_PORT) (hlink : ∀ y, P (.CSN_LK_STAT_UP y)) (hc : t.csn.closed = s.csn.closed)
    (hl : t.csn.links = s.csn.links) (hs : t.csn.sent = s.csn.sent) : (forward x f t).csn.sent = (forward x f s).csn.sent := by
  have hout : outPort t x f = outPort s x f := by simp only [outPort, upPort, h.get _ hup]
  have hisHead : isHead t = isHead s := h.is _ hhead
  rw [sent_forward hf, sent_forward hf, hout, hisHead, h.carries (hlink _) hc hl, hs]

end Hops

section Join

variable {s : State} {x m : Nat} {last : Bool} {f : RFrame}

/-- The address and the ports that ENUM gives a member (R443, R454). -/
def memberPlaced (x m : Nat) (s : State) : State := ((s.put .CSN_STAT_ADDR m).put .CSN_STAT_UP_PORT x).put .CSN_STAT_TIME_PORT x

/-- A member is in enumeration with address `m` by port `x`, in epoch `e`. -/
def memberJoined (x m e far : Nat) (last : Bool) (s : State) : State :=
  csState csEnum ((putHops (otherPort x) 0xFF (putHops x m ((memberPlaced x m s).put .CSN_EPOCH_EPOCH e))).modCsn fun c =>
    { c with up0 := x, time0 := x, far := far, fwd := !last })

/-- A field that joining leaves. -/
def offJoin (g : FldRef) : Prop := (offCsnStat g ∧ g.a ≠ Reg.CSN_EPOCH) ∧ g.a ≠ Reg.CSN_HOPS

theorem offJoin_linkUp (y : Nat) : offJoin (.CSN_LK_STAT_UP y) := by
  simp only [offJoin, offCsnStat, Reg.CSN_LK_STAT, Reg.CSN_STAT, Reg.CSN_EPOCH, Reg.CSN_HOPS]
  omega

theorem memberPlaced_frame (x m : Nat) (s : State) : Frame regsFrom offCsnStat s (memberPlaced x m s) :=
  (((Frame.refl s).put .CSN_STAT_ADDR _ fun _ hg => hg).put .CSN_STAT_UP_PORT _ fun _ hg => hg).put .CSN_STAT_TIME_PORT _ fun _ hg => hg

/-- Before its state is shown. -/
theorem joinHops_frame (x m e : Nat) (s : State) : Frame regsFrom (fun g => g.a ≠ Reg.CSN_EPOCH ∧ g.a ≠ Reg.CSN_HOPS) (memberPlaced x m s)
    (putHops (otherPort x) 0xFF (putHops x m ((memberPlaced x m s).put .CSN_EPOCH_EPOCH e))) :=
  (((Frame.refl _).put .CSN_EPOCH_EPOCH e fun _ hg => hg.1).putHops _ _ fun _ hg => hg.2).putHops _ _ fun _ hg => hg.2

theorem memberJoined_frame (x m e far : Nat) (last : Bool) (s : State) : Frame ringFrom offJoin s (memberJoined x m e far last s) :=
  ((((memberPlaced_frame x m s).ring.mono fun _ hg => hg.1.1).trans ((joinHops_frame x m e s).ring.mono fun _ hg => ⟨hg.1.2, hg.2⟩)).trans
    (modCsn_frame _ _)).trans ((csState_frame _ _).mono fun _ hg => hg.1.1)

theorem csn_memberJoined (x m e far : Nat) (last : Bool) (s : State) : (memberJoined x m e far last s).csn =
    { s.csn with up0 := x, time0 := x, far := far, fwd := !last, phaseAt := clk s } := by
  have hf : Frame regsFrom offJoin s (putHops (otherPort x) 0xFF (putHops x m ((memberPlaced x m s).put .CSN_EPOCH_EPOCH e))) :=
    ((memberPlaced_frame x m s).mono fun _ hg => hg.1.1).trans ((joinHops_frame x m e s).mono fun _ hg => ⟨hg.1.2, hg.2⟩)
  have hclk (F : CsnSt → CsnSt) : clk ((putHops (otherPort x) 0xFF (putHops x m ((memberPlaced x m s).put .CSN_EPOCH_EPOCH e))).modCsn F) = clk s :=
    congrArg TuSt.edges (hf.unchanged State.tu)
  rw [memberJoined, csn_csState, hclk, State.modCsn_csn, hf.unchanged State.csn]

/-- What `CSN_STAT` and the epoch then show. -/
theorem stat_memberJoined (x m e far : Nat) (last : Bool) (s : State) (hm : m < 256) (hx : x < 2) (he : e < 65536) :
    (memberJoined x m e far last s).get .CSN_STAT_ADDR = m ∧ (memberJoined x m e far last s).get .CSN_STAT_UP_PORT = x ∧
    (memberJoined x m e far last s).get .CSN_STAT_TIME_PORT = x ∧ (memberJoined x m e far last s).get .CSN_EPOCH_EPOCH = e ∧
    (memberJoined x m e far last s).get .CSN_STAT_STATE = csEnum := by
  have hplace (g : FldRef) (hg : g.a = Reg.CSN_STAT) (hs : g.hi < 12 ∨ (16 ≤ g.lo ∧ g.hi < 32)) :
      (memberJoined x m e far last s).get g = (memberPlaced x m s).get g := by
    rw [memberJoined, csState_apart _ _ _ hs, State.modCsn_get, (joinHops_frame x m e s).get g (by rw [hg]; decide)]
  refine ⟨?_, ?_, ?_, ?_, state_csState _ _⟩
  · rw [hplace _ rfl (by simp), memberPlaced]
    iterate 2 rw [get_put_apart _ _ _ _ (by simp) (by simp) (by simp [FldRef.apart])]
    rw [get_put _ _ _ (by simp) (by simp)]
    exact Nat.mod_eq_of_lt hm
  · rw [hplace _ rfl (by simp), memberPlaced, get_put_apart _ _ _ _ (by simp) (by simp) (by simp [FldRef.apart]), get_put _ _ _ (by simp) (by simp)]
    exact Nat.mod_eq_of_lt hx
  · rw [hplace _ rfl (by simp), memberPlaced, get_put _ _ _ (by simp) (by simp)]
    exact Nat.mod_eq_of_lt hx
  · rw [memberJoined, (csState_frame _ _).get _ (by unfold offCsnStat; decide), State.modCsn_get, (putHops_frame _ _ _).get _ (by decide),
      (putHops_frame _ _ _).get _ (by decide), get_put _ _ _ (by simp) (by simp)]
    exact Nat.mod_eq_of_lt he

/-- The hops by both ports. -/
theorem hops_memberJoined (x m e far : Nat) (last : Bool) (s : State) : rd (memberJoined x m e far last s) Reg.CSN_HOPS =
    rd (putHops (otherPort x) 0xFF (putHops x m s)) Reg.CSN_HOPS := by
  rw [memberJoined, (csState_frame _ _).rd _ (by unfold offCsnStat; decide), State.modCsn_rd]
  refine hops_putHops (hops_putHops ?_ _ _) _ _
  rw [rd_put_ne _ _ _ _ (by decide), (memberPlaced_frame x m s).rd _ (by unfold offCsnStat; decide)]

/-- The member's ROSTER frame (R454, R462). -/
def rosterFrame (x m : Nat) (last : Bool) (s : State) : RFrame :=
  { ty := 0x09, flags := if last then 4 else 0, dst := 0, src := BitVec.ofNat 8 m, w1 := wd (m + 256 * s.get (.CSN_LK_STAT_GEN x)),
    w2 := rd s (Reg.CSN_LK_LAT x), data := serialWords s ++ [rd s Reg.MOD_ID] }

/-- The ENUM frame that a member sends on (R454, R462). -/
def enumOnward (m e : Nat) : RFrame := { ty := 0x08, flags := 1, dst := 255, src := BitVec.ofNat 8 m, w1 := wd m, w2 := wd e }

theorem enumFwd_frame {P : FldRef → Prop} (s : State) : Frame ringFrom P s (enumFwd s) :=
  .ite (fun _ => (sendOn_frame _ _ _).trans (modCsn_frame _ _)) fun _ => .refl s

/-- A waiting ENUM leaves by the other port where that carries frames (R454). -/
theorem csn_enumFwd (s : State) : (enumFwd s).csn = { s.csn with
    fwd := s.csn.fwd && !carries s (otherPort s.csn.up0)
    sent := s.csn.sent ++ if s.csn.fwd && carries s (otherPort s.csn.up0) then
      [(otherPort s.csn.up0, enumOnward (s.get .CSN_STAT_ADDR % 256) (s.get .CSN_EPOCH_EPOCH))] else [] } := by
  have hlt : s.get .CSN_STAT_ADDR % 256 = s.get .CSN_STAT_ADDR := Nat.mod_eq_of_lt (get_lt s .CSN_STAT_ADDR)
  rw [hlt]
  by_cases h : s.csn.fwd = true ∧ carries s (otherPort s.csn.up0) = true
  · obtain ⟨hf, hc⟩ := h
    have heq : enumFwd s = (sendOn (otherPort s.csn.up0) (enumOnward (s.get .CSN_STAT_ADDR) (s.get .CSN_EPOCH_EPOCH)) s).modCsn fun c =>
        { c with fwd := false } := if_pos ⟨hf, hc⟩
    rw [heq, State.modCsn_csn, csn_sendOn, hf, hc]
    rfl
  · have heq : enumFwd s = s := if_neg h
    have hand : (s.csn.fwd && carries s (otherPort s.csn.up0)) = false := by
      rw [← Bool.not_eq_true, Bool.and_eq_true]
      exact h
    have hnot : (s.csn.fwd && !carries s (otherPort s.csn.up0)) = s.csn.fwd := by
      cases hf : s.csn.fwd <;> simp_all
    rw [heq, hand, hnot, if_neg Bool.false_ne_true, List.append_nil]

/-- A member without an address joins by ENUM, sends ROSTER and then ENUM on (R443, R454). -/
theorem enumMember_joins (ha : s.get .CSN_STAT_ADDR = 0xFF) (hm : m = f.w1.toNat % 256 + 1) (h250 : m ≤ 250) (hx : x < 2)
    (hl : last = (s.is (.CSN_LK_STAT_NOPART (otherPort x)) && !linkUpR s (otherPort x))) :
    enumMember x f s = enumFwd (sendOn x (rosterFrame x m last s) (memberJoined x m (f.w2.toNat % 65536) f.src.toNat last s)) := by
  obtain ⟨haddr, hup, -⟩ := stat_memberJoined x m (f.w2.toNat % 65536) f.src.toNat last s (by omega) hx (Nat.mod_lt _ (by decide))
  have hsrc : myAddr (memberJoined x m (f.w2.toNat % 65536) f.src.toNat last s) = BitVec.ofNat 8 m := by rw [myAddr, haddr]
  have hsend (y : RFrame) (u : State) (hu : u.get .CSN_STAT_UP_PORT = x) : sendUp y u = sendOn x y u := congrArg (sendOn · y u) hu
  rw [← hsend _ _ hup, rosterFrame, ← hsrc]
  subst hm hl
  exact (if_neg (not_not.mpr ha)).trans (if_neg (by omega))

/-- Past 250 it gives up (R454). -/
theorem enumMember_full (ha : s.get .CSN_STAT_ADDR = 0xFF) (h : f.w1.toNat % 256 = 250) :
    enumMember x f s = ringClose csJoinWait (s.put .CSN_STAT_ERR 2) :=
  (if_neg (not_not.mpr ha)).trans (if_pos (by omega))

/-- A member with an address does nothing. -/
theorem enumMember_placed (ha : s.get .CSN_STAT_ADDR ≠ 0xFF) : enumMember x f s = s := if_pos ha

end Join

section Done

variable {s : State} {f : RFrame}

/-- A member with the count and the time port that ENUM_DONE gives, in state `k` (R454, R455). -/
def enumEnded (n : Nat) (ring : Bool) (y h tp k : Nat) (s : State) : State :=
  csState k (((putHops y h (ringCounted n ring s)).put .CSN_STAT_TIME_PORT tp).modCsn fun c => { c with time0 := tp })

/-- The state that follows (R455): step 7 for a member with source RING whose unit is not LOCKED. -/
def enumEndState (s : State) : Nat := if s.get .TU_SRC_SRC = 2 ∧ s.get .TU_STAT_STATE ≠ 2 then csTimeLock else csRunning

theorem enumEndState_lt (s : State) : enumEndState s < 16 := by
  unfold enumEndState
  split <;> decide

/-- ENUM_DONE of the member's own epoch ends its enumeration. -/
theorem enumDone_ends (he : sameEpoch s f = true) (hs : s.get .CSN_STAT_STATE = csEnum) : ∃ y h tp,
    enumDone f s = enumEnded (f.w1.toNat % 256) (bitAt f.w1 8) y h tp (enumEndState s) s := by
  refine ⟨_, _, _, if_neg ?_⟩
  rintro (h | h)
  exacts [h he, h hs]

theorem enumDone_other (h : sameEpoch s f = false ∨ s.get .CSN_STAT_STATE ≠ csEnum) : enumDone f s = s :=
  if_pos (h.imp (fun he => by simp [he]) id)

/-- A field that ENUM_DONE leaves: one outside `CSN_HOPS`, and of `CSN_STAT` one beside N, STATE, RING and TIME_PORT. -/
def offDone (g : FldRef) : Prop := (g.a ≠ Reg.CSN_HOPS ∧ g.hi < 32) ∧ (offCsnStat g ∨ g.hi < 7 ∨ (7 < g.lo ∧ g.hi < 11) ∨ 23 < g.lo)

theorem enumEnded_frame (n : Nat) (ring : Bool) (y h tp k : Nat) (s : State) : Frame ringFrom offDone s (enumEnded n ring y h tp k s) := by
  have hapart (g : FldRef) (hg : g.a = Reg.CSN_STAT ∧ (7 ≤ g.lo ∧ g.lo ≤ g.hi ∧ g.hi < 24) ∧ (g.hi < 8 ∨ 11 ≤ g.lo)) (p : FldRef)
      (hp : offDone p) : g.apart p ∧ p.hi < 32 := by
    obtain ⟨⟨-, h32⟩, hoff⟩ := hp
    refine ⟨?_, h32⟩
    by_cases ha : p.a = Reg.CSN_STAT
    · exact .inr (by have := hoff.resolve_left (not_not.mpr ha); omega)
    · exact .inl fun e => ha (e.symm.trans hg.1)
  have hcount : Frame ringFrom offDone s (ringCounted n ring s) :=
    ((Frame.refl s).putApart .CSN_STAT_N _ (by simp) (hapart _ (by simp))).putApart .CSN_STAT_RING _ le_rfl (hapart _ (by simp))
  have hport := (hcount.putHops y h fun _ hg => hg.1.1).putApart .CSN_STAT_TIME_PORT tp le_rfl (hapart _ (by simp))
  have hstate (u : State) : Frame ringFrom offDone u (csState k u) :=
    ((Frame.refl u).putApart .CSN_STAT_STATE k (by simp) (hapart _ (by simp))).trans (modCsn_frame _ _)
  exact (hport.trans (modCsn_frame _ _)).trans (hstate _)

theorem csn_enumEnded (n : Nat) (ring : Bool) (y h tp k : Nat) (s : State) : (enumEnded n ring y h tp k s).csn =
    { s.csn with time0 := tp, phaseAt := clk s } := by
  have hf : Frame regsFrom (fun g => offCsnStat g ∧ g.a ≠ Reg.CSN_HOPS) s ((putHops y h (ringCounted n ring s)).put .CSN_STAT_TIME_PORT tp) :=
    (((ringCounted_frame n ring s).mono fun _ hg => hg.1).putHops y h fun _ hg => hg.2).put _ _ fun _ hg => hg.1
  have hclk (F : CsnSt → CsnSt) : clk (((putHops y h (ringCounted n ring s)).put .CSN_STAT_TIME_PORT tp).modCsn F) = clk s :=
    congrArg TuSt.edges (hf.unchanged State.tu)
  rw [enumEnded, csn_csState, hclk, State.modCsn_csn, hf.unchanged State.csn]

theorem stat_enumEnded (n : Nat) (ring : Bool) (y h tp k : Nat) (s : State) : (enumEnded n ring y h tp k s).get .CSN_STAT_N = n % 256 ∧
    (enumEnded n ring y h tp k s).is .CSN_STAT_RING = ring ∧ (enumEnded n ring y h tp k s).get .CSN_STAT_STATE = k % 16 := by
  have hcount (g : FldRef) (hg : g.a = Reg.CSN_STAT ∧ (8 ≤ g.lo ∧ (g.hi < 12 ∨ 16 ≤ g.lo)) ∧ g.hi < 32) :
      (enumEnded n ring y h tp k s).get g = (ringCounted n ring s).get g := by
    rw [enumEnded, csState_apart _ _ _ (by omega), State.modCsn_get, get_put_apart _ _ _ _ (by simp) hg.2.2 (by simp only [FldRef.apart]; omega),
      (putHops_frame _ _ _).get g (by rw [hg.1]; decide)]
  refine ⟨?_, ?_, state_csState _ _⟩
  · rw [hcount _ (by simp), ringCounted, State.putB, get_put_apart _ _ _ _ (by simp) (by simp) (by simp [FldRef.apart]), get_put _ _ _ (by simp) (by simp)]
    rfl
  · rw [State.is, hcount _ (by simp)]
    exact is_putB _ _ _ (by simp) (by simp)

end Done

section Way

variable {s : State} {f : RFrame} {k : Nat}

/-- Both addresses of a REROUTE are none where W1's low half is 0xFFFF (R460). -/
theorem namesNone_iff (f : RFrame) : (bits f.w1 15 8 = 0xFF ∧ bits f.w1 7 0 = 0xFF) ↔ f.w1.toNat % 65536 = 0xFFFF := by
  simp only [bits, nbits]
  omega

/-- The member's ports are those of the enumeration again (R460). -/
def portsRestored (s : State) : State := ((s.put .CSN_STAT_UP_PORT s.csn.up0).put .CSN_STAT_TIME_PORT s.csn.time0).put .CSN_STAT_HEALED 0

def wayRestored (s : State) : State :=
  putHops (otherPort s.csn.up0) (hopsOther s) (putHops s.csn.up0 (s.get .CSN_STAT_ADDR) (portsRestored s))

variable (he : sameEpoch s f = true) (ha : s.get .CSN_STAT_ADDR ≠ 0xFF)
include he ha

theorem not_rerouteIgnored : ¬ (¬ sameEpoch s f = true ∨ s.get .CSN_STAT_ADDR = 0xFF) := by
  rintro (h | h)
  exacts [h he, ha h]

theorem reroute_none (h : f.w1.toNat % 65536 = 0xFFFF) : reroute f s = wayRestored s :=
  (if_neg (not_rerouteIgnored he ha)).trans (if_pos ((namesNone_iff f).mpr h))

variable (hn : f.w1.toNat % 65536 ≠ 0xFFFF)
include hn

/-- A hop that the member's way up crosses makes it take the other (R459). -/
theorem reroute_hop (hk : hopIx (s.get .CSN_STAT_N) (bits f.w1 15 8) (bits f.w1 7 0) = some k) :
    reroute f s = if s.is .CSN_STAT_RING ∧ crosses s k ∧ carries s (otherPort (upPort s)) then switchUp s else s := by
  refine (if_neg (not_rerouteIgnored he ha)).trans ((if_neg (mt (namesNone_iff f).mp hn)).trans ?_)
  simp only [hk]

theorem reroute_noHop (hk : hopIx (s.get .CSN_STAT_N) (bits f.w1 15 8) (bits f.w1 7 0) = none) : reroute f s = s := by
  refine (if_neg (not_rerouteIgnored he ha)).trans ((if_neg (mt (namesNone_iff f).mp hn)).trans ?_)
  simp only [hk]

omit he ha hn

theorem reroute_ignored (h : sameEpoch s f = false ∨ s.get .CSN_STAT_ADDR = 0xFF) : reroute f s = s :=
  if_pos (h.imp (fun he => by simp [he]) id)

theorem portsRestored_frame (s : State) : Frame regsFrom offCsnStat s (portsRestored s) :=
  (((Frame.refl s).put .CSN_STAT_UP_PORT _ fun _ hg => hg).put .CSN_STAT_TIME_PORT _ fun _ hg => hg).put .CSN_STAT_HEALED _ fun _ hg => hg

theorem restoredHops_frame (s : State) : Frame regsFrom (fun g => g.a ≠ Reg.CSN_HOPS) (portsRestored s) (wayRestored s) :=
  (putHops_frame _ _ _).trans (putHops_frame _ _ _)

theorem wayRestored_frame (s : State) : Frame regsFrom (fun g => offCsnStat g ∧ g.a ≠ Reg.CSN_HOPS) s (wayRestored s) :=
  ((portsRestored_frame s).mono fun _ hg => hg.1).trans ((restoredHops_frame s).mono fun _ hg => hg.2)

theorem hops_wayRestored (s : State) : rd (wayRestored s) Reg.CSN_HOPS =
    rd (putHops (otherPort s.csn.up0) (hopsOther s) (putHops s.csn.up0 (s.get .CSN_STAT_ADDR) s)) Reg.CSN_HOPS :=
  hops_putHops (hops_putHops ((portsRestored_frame s).rd _ (by unfold offCsnStat; decide)) _ _) _ _

theorem stat_wayRestored (hu : s.csn.up0 < 2) (ht : s.csn.time0 < 2) : (wayRestored s).get .CSN_STAT_UP_PORT = s.csn.up0 ∧
    (wayRestored s).get .CSN_STAT_TIME_PORT = s.csn.time0 ∧ (wayRestored s).is .CSN_STAT_HEALED = false := by
  refine ⟨?_, ?_, ?_⟩
  · rw [(restoredHops_frame s).get _ (by decide), portsRestored]
    iterate 2 rw [get_put_apart _ _ _ _ (by simp) (by simp) (by simp [FldRef.apart])]
    rw [get_put _ _ _ (by simp) (by simp)]
    exact Nat.mod_eq_of_lt hu
  · rw [(restoredHops_frame s).get _ (by decide), portsRestored, get_put_apart _ _ _ _ (by simp) (by simp) (by simp [FldRef.apart]),
      get_put _ _ _ (by simp) (by simp)]
    exact Nat.mod_eq_of_lt ht
  · rw [State.is, (restoredHops_frame s).get _ (by decide), portsRestored, get_put _ _ _ (by simp) (by simp)]
    rfl

end Way

end Sys2Proof.Machine
end

section
/-! PROOFS. Ring time and tokens (R277, R279, R283, R284, R455): the samples that a member takes, and what the head and a member do with a token. -/

namespace Sys2Proof.Machine

set_option Elab.async false

section Sample

variable {s : State} {off : Int} {tx x fr : Nat} {f : RFrame}

/-- Of all that a sample can do (R279), only a jump that repeats makes the unit ask for a measurement, and that takes it to HOLDOVER. -/
theorem ringSample_asks (h : (ringSample off tx s).tu.wantMeas = true) (h0 : s.tu.wantMeas = false) :
    (ringSample off tx s).get .TU_STAT_STATE = 3 := by
  have hhold (u : State) : (holdover u).get .TU_STAT_STATE = 3 := by
    rw [holdover, State.modTu_get, setRate, State.putB, get_put_apart _ _ _ _ (by simp) (by simp) (by simp [FldRef.apart]),
      get_put_ne _ _ _ _ (by decide), get_put _ _ _ (by simp) (by simp)]
    rfl
  revert h
  unfold ringSample
  extract_lets jump bad s1 s2
  rw [if_neg (by simp [h0])]
  have h1 : s1.tu.wantMeas = false := by simp [s1, h0]
  have h2 : s2.tu.wantMeas = false := by
    rw [(servo_frame off _ true s).unchanged fun t => t.tu.wantMeas, offsetNoted, State.modTu_tu, State.put_tu, h0]
  split
  · split
    · exact fun _ => (State.modTu_get ..).trans (hhold s1)
    · exact fun h => absurd (h1.symm.trans h) Bool.false_ne_true
  · exact fun h => absurd (h2.symm.trans h) Bool.false_ne_true

/-- What a time frame gives a member (R277): the sample's offset. -/
def sampleOff (x : Nat) (f : RFrame) (fr : Nat) (s : State) : Int :=
  ((now s : Int) - num64 f.data) * 256 + fr - (num64 (f.data.drop 2) + s.get (.CSN_LK_LAT_LAT x) : Nat)

/-- A time frame that is no sample (R277). -/
theorem timeSample_other (h : x ≠ s.get .CSN_STAT_TIME_PORT ∨ s.get .TU_STAT_SRC_EFF ≠ 2 ∨ servoRuns s = false ∨ sameEpoch s f = false) :
    timeSample x f fr s = s := by
  refine if_pos ?_
  rcases h with h | h | h | h
  exacts [.inl h, .inr (.inl h), .inr (.inr (.inl (by simp [h]))), .inr (.inr (.inr (by simp [h])))]

/-- Step 7 ends with the unit LOCKED (R455). -/
def lockNoted (s : State) : State := if s.get .TU_STAT_STATE = 2 then timeLockEnd s else s

variable (hx : x = s.get .CSN_STAT_TIME_PORT) (h2 : s.get .TU_STAT_SRC_EFF = 2) (hr : servoRuns s = true) (he : sameEpoch s f = true)
include hx h2 hr he

theorem timeSample_taken : timeSample x f fr s = lockNoted (if (ringSample (sampleOff x f fr s) (num64 f.data) s).tu.wantMeas ∧ ¬ s.tu.wantMeas then
      measure x (sendOn x (memberFrame (ringSample (sampleOff x f fr s) (num64 f.data) s) 0x0E 0 (wd (s.get .CSN_STAT_ADDR)) 0 [])
        (ringSample (sampleOff x f fr s) (num64 f.data) s))
    else ringSample (sampleOff x f fr s) (num64 f.data) s) := by
  refine if_neg ?_
  rintro (h | h | h | h)
  exacts [h hx, h h2, h hr, h he]

/-- A sample that makes the unit ask for no measurement. -/
theorem timeSample_quiet (h : (ringSample (sampleOff x f fr s) (num64 f.data) s).tu.wantMeas = s.tu.wantMeas) :
    timeSample x f fr s = lockNoted (ringSample (sampleOff x f fr s) (num64 f.data) s) := by
  rw [timeSample_taken hx h2 hr he, if_neg (by rw [h]; exact fun hn => hn.2 hn.1)]

/-- One that makes it ask: it asks the other end too, and is not LOCKED. -/
theorem timeSample_asks (h : (ringSample (sampleOff x f fr s) (num64 f.data) s).tu.wantMeas = true) (h0 : s.tu.wantMeas = false) :
    timeSample x f fr s = measure x (sendOn x (memberFrame (ringSample (sampleOff x f fr s) (num64 f.data) s) 0x0E 0 (wd (s.get .CSN_STAT_ADDR)) 0 [])
      (ringSample (sampleOff x f fr s) (num64 f.data) s)) := by
  have hmeasure (u : State) : Frame ringFrom (fun _ => True) u (measure x u) := .ite (fun _ => .refl u) fun _ => (modCsn_frame _ u).trans (modCsn_frame _ _)
  rw [timeSample_taken hx h2 hr he, if_pos ⟨h, by simp [h0]⟩]
  refine if_neg ?_
  rw [(hmeasure _).get _ trivial, (sendOn_frame (P := fun _ => True) _ _ _).get _ trivial, ringSample_asks h h0]
  decide

omit hx h2 hr he

/-- Forwarding leaves all that a sample depends on. -/
theorem sampleInputs_forward (y : Nat) (g f : RFrame) (x fr : Nat) {b : State} (hb : b = forward y g (ringStart s)) :
    (∀ p, b.get p = s.get p) ∧ servoRuns b = servoRuns s ∧ sameEpoch b f = sameEpoch s f ∧ sampleOff x f fr b = sampleOff x f fr s ∧ b.tu = s.tu := by
  have hf : Frame ringFrom (fun _ => True) s b := hb ▸ (ringStart_frame s).trans (forward_frame y g _)
  have htu : b.tu = s.tu := hf.unchanged State.tu
  refine ⟨fun p => hf.get p trivial, hf.unchanged servoRuns, ?_, ?_, htu⟩
  · rw [sameEpoch, hf.get _ trivial, sameEpoch]
  · rw [sampleOff, hf.get _ trivial, now, htu, sampleOff, now]

end Sample

section Token

variable {s : State} {k : Token}

/-- A copy of a token (R284). -/
theorem tokenReceive_again (h : k ∈ s.tu.seen) : tokenReceive k s = s := if_pos h

theorem tokenReceive_locked (h : k ∉ s.tu.seen) (hs : s.get .TU_STAT_STATE = 2 ∨ s.get .TU_STAT_STATE = 3) : tokenReceive k s = tokenAct k s :=
  (if_neg h).trans (if_pos hs)

theorem tokenReceive_unlocked (h : k ∉ s.tu.seen) (h2 : s.get .TU_STAT_STATE ≠ 2) (h3 : s.get .TU_STAT_STATE ≠ 3) :
    tokenReceive k s = s.inc .TU_TOKEN_STAT_UNLOCK_CNT := (if_neg h).trans (if_neg (not_or.mpr ⟨h2, h3⟩))

/-- A member forwards each copy of a token, once it has acted on it (R284). -/
theorem exec_ringTokenReceive_member {x : Fin 2} {f : RFrame} (hg : ringGets s x f f.ty.toNat = true) (ht : f.ty = 0x04 ∨ f.ty = 0x05)
    (hh : isHead s = false) (hk : k = { kind := f.ty.toNat - 3, id := bits f.w1 31 16, tgt := num64 f.data }) :
    exec (.ringTokenReceive x f) s = .next (forward x f (tokenReceive k (ringStart s))) := by
  rw [exec_ringTokenReceive ht, ringRecv_gets hg, hk]
  exact congrArg _ (if_neg fun h => Bool.false_ne_true (hh.symm.trans h))

/-- A copy that is due leaves, and the next one follows 1 ms later (R283). -/
theorem exec_tokenCopySend {a i : Nat} (h : copyDue s = some (k, a, i)) : exec .tokenCopySend s = .next
    (sendBoth (headFrame s (if k.kind = 1 then 0x04 else 0x05) (wd (k.id * 65536 + i % 4)) 0 (words64 k.tgt))
      ((ringStart s).modTu fun u => { u with out := copyNext s (k, a, i) })) := by
  show execTokenCopySend s = _
  simp only [execTokenCopySend, h]

theorem exec_tokenCopySend_none (h : copyDue s = none) : exec .tokenCopySend s = .next (ringStart s) := by
  show execTokenCopySend s = _
  simp only [execTokenCopySend, h]

end Token

end Sys2Proof.Machine
end

section
/-! PROOFS. What the rows of the enumeration and of healing do to a module with nothing sent, clause by clause, and the statement of the ring's frames. -/

namespace Sys2Proof.Machine

set_option Elab.async false

variable {s : State} {x : Fin 2} {f : RFrame}

/-- The state after ENUM_START (R442, R454). -/
theorem enumStart_spec {p : Nat} (hp : p < 2) (hport : enumPort s p = true) {t : State} (ht : t = enumSide p 0 (enumBegun (ringStart s))) :
    (∀ g, t.get g = (enumBegun (ringStart s)).get g) ∧ Frame ringFrom offEnum s t ∧ t.csn = { s.csn with
      n2 := 0, count := 0, cut := none, side := p, phaseAt := clk s, sent := [(p, headFrame t 0x08 0 (epochW t) [])] } := by
  have hget (g : FldRef) : t.get g = (enumBegun (ringStart s)).get g := by rw [ht, (enumSide_frame (P := fun _ => True) _ _ _).get g trivial]
  have hbegun : Frame ringFrom offEnum s (enumBegun (ringStart s)) := (ringStart_frame s).trans (enumBegun_frame _)
  have hclk : clk (enumBegun (ringStart s)) = clk s := congrArg TuSt.edges (hbegun.unchanged State.tu)
  have hopen : enumPort (enumBegun (ringStart s)) p = true := (enumPort_enumBegun hp _).trans hport
  have hcarry : carries (enumBegun (ringStart s)) p = true := by
    rw [enumPort, Bool.and_eq_true] at hopen
    exact hopen.1
  refine ⟨hget, ht ▸ hbegun.trans (enumSide_frame _ _ _), ?_⟩
  rw [headFrame, myAddr, epochW, hget, hget, ht, csn_enumSide hcarry, csn_enumBegun, hclk]
  rfl

/-- The state of a member that ENUM has given address `m` (R443, R454). -/
theorem enumJoin_spec {m : Nat} {l : Bool} (h250 : m ≤ 250) (hc : carries s x = true) {t : State}
    (ht : t = enumFwd (sendOn x (rosterFrame x m l s) (memberJoined x m (f.w2.toNat % 65536) f.src.toNat l (ringStart s)))) :
    (t.get .CSN_STAT_ADDR = m ∧ t.get .CSN_STAT_UP_PORT = x ∧ t.get .CSN_STAT_TIME_PORT = x ∧ t.get .CSN_EPOCH_EPOCH = f.w2.toNat % 65536 ∧
      t.get .CSN_STAT_STATE = csEnum) ∧ rd t Reg.CSN_HOPS = rd (putHops (otherPort x) 0xFF (putHops x m s)) Reg.CSN_HOPS ∧
    Frame ringFrom offJoin s t ∧ t.csn = { s.csn with
      up0 := x, time0 := x, far := f.src.toNat, phaseAt := clk s, fwd := !l && !carries s (otherPort x)
      sent := (x.val, rosterFrame x m l s) ::
        if !l && carries s (otherPort x) then [(otherPort x, enumOnward m (f.w2.toNat % 65536))] else [] } := by
  have hjoin := memberJoined_frame x m (f.w2.toNat % 65536) f.src.toNat l (ringStart s)
  obtain ⟨haddr, hup, hport, hepoch, hstate⟩ :=
    stat_memberJoined x m (f.w2.toNat % 65536) f.src.toNat l (ringStart s) (by omega) x.isLt (Nat.mod_lt _ (by decide))
  have hjcsn := csn_memberJoined x m (f.w2.toNat % 65536) f.src.toNat l (ringStart s)
  have hhops : rd (memberJoined x m (f.w2.toNat % 65536) f.src.toNat l (ringStart s)) Reg.CSN_HOPS =
      rd (putHops (otherPort x) 0xFF (putHops x m s)) Reg.CSN_HOPS :=
    (hops_memberJoined ..).trans (hops_putHops (hops_putHops (State.modCsn_rd s _ _) _ _) _ _)
  generalize memberJoined x m (f.w2.toNat % 65536) f.src.toNat l (ringStart s) = j at *
  have hcarry (y : Nat) : carries j y = carries s y := hjoin.carries (offJoin_linkUp y) (by rw [hjcsn]) (by rw [hjcsn])
  have hsend (g : FldRef) := (sendOn_frame (P := fun _ => True) x (rosterFrame x m l s) j).get g trivial
  have hcsn : (sendOn x (rosterFrame x m l s) j).csn = { s.csn with
      up0 := x, time0 := x, far := f.src.toNat, fwd := !l, phaseAt := clk s, sent := [(x.val, rosterFrame x m l s)] } := by
    rw [csn_sendOn, hcarry, hc, if_pos rfl, hjcsn]
    rfl
  have hget (g : FldRef) : t.get g = j.get g := by rw [ht, (enumFwd_frame (P := fun _ => True) _).get g trivial, hsend]
  refine ⟨?_, (rd_of_get (hget _)).trans hhops, ?_, ?_⟩
  · exact ⟨(hget _).trans haddr, (hget _).trans hup, (hget _).trans hport, (hget _).trans hepoch, (hget _).trans hstate⟩
  · rw [ht]
    exact (((ringStart_frame s).trans hjoin).trans (sendOn_frame _ _ _)).trans (enumFwd_frame _)
  · rw [ht, csn_enumFwd, carries_sendOn, hsend, hsend, haddr, hepoch, hcsn, hcarry, Nat.mod_eq_of_lt (by omega)]
    rfl

/-- The state of a head that ends its enumeration (R454). -/
theorem enumFinish_spec (n : Nat) (F : CsnSt → CsnSt) (ring : Bool) (hF : ∀ c, (F c).sent = c.sent ∧ (F c).closed = c.closed ∧ (F c).links = c.links)
    {t : State} (ht : t = enumFinish n ring ((ringStart s).modCsn F)) : t.get .CSN_STAT_N = n % 256 ∧ t.is .CSN_STAT_RING = ring ∧
      t.get .CSN_STAT_STATE = csTimeLock ∧ Frame ringFrom offCsnStat s t ∧ t.csn = { F { s.csn with sent := [] } with
        phaseAt := clk s
        sent := (if carries s 0 then [(0, doneFrame n ring s)] else []) ++ (if carries s 1 then [(1, doneFrame n ring s)] else []) } := by
  obtain ⟨hn, hring, hstate⟩ := stat_enumFinish n ring ((ringStart s).modCsn F)
  have hbegin : Frame ringFrom offCsnStat s ((ringStart s).modCsn F) := (ringStart_frame s).trans (modCsn_frame _ _)
  obtain ⟨hsent, hclosed, hlinks⟩ := hF (ringStart s).csn
  have hcarry (y : Nat) : carries ((ringStart s).modCsn F) y = carries s y :=
    hbegin.carries (by simp only [offCsnStat, Reg.CSN_LK_STAT, Reg.CSN_STAT]; omega) hclosed hlinks
  refine ⟨ht ▸ hn, ht ▸ hring, ht ▸ hstate, ht ▸ hbegin.trans (enumFinish_frame _ _ _), ?_⟩
  rw [ht, csn_enumFinish, hcarry, hcarry, State.modCsn_csn, hsent]
  rfl

/-- What the head's roster and its part in the ring are once it has recorded a ROSTER frame (R454, R477). -/
theorem rosterHead_spec (hg : ringGets s x f 0x09 = true) (hs : csEnum ≤ s.get .CSN_STAT_STATE) {t : State} (ht : t = rosterHead f (ringStart s)) :
    Frame ringFrom offCsnStat (rostered f (ringStart s)) t ∧ Frame ringFrom (fun g => offCsnStat g ∧ offEntry (f.w1.toNat % 256) g) s t := by
  obtain ⟨h0, h250⟩ := rosterAddr_range hg
  have hhead := rosterHead_frame (s := ringStart s) h0 h250 hs
  refine ⟨ht ▸ hhead, ht ▸ ((ringStart_frame s).trans ?_).trans (hhead.mono fun _ => And.left)⟩
  exact (rosterPut_frame _ _ _ _ _ _ _).ring.mono fun _ => And.right

/-- While the head enumerates, it counts the member, and LAST ends the side (R454). -/
theorem exec_roster_counts (hg : ringGets s x f 0x09 = true) (he : enumRuns s = true) : exec (.roster x f) s =
    .next (if bitAt (wd f.flags.toNat) 2 then sideEnd (memberCounted f (ringStart s)) else memberCounted f (ringStart s)) := by
  obtain ⟨h0, h250⟩ := rosterAddr_range hg
  obtain ⟨hh, hs⟩ := state_of_enumRuns he
  rw [exec_roster hg, hh, if_pos rfl, rosterHead_records (s := ringStart s) h0 h250 hs.ge, if_pos (show enumRuns (ringStart s) = true from he)]

/-- The state of a member that ENUM_DONE of its own epoch has reached (R454, R455). -/
theorem enumDone_spec (hg : ringGets s x f 0x0A = true) (he : sameEpoch s f = true) (hs : s.get .CSN_STAT_STATE = csEnum) {t : State}
    (ht : t = forward x f (enumDone f (ringStart s))) : t.get .CSN_STAT_N = f.w1.toNat % 256 ∧ t.is .CSN_STAT_RING = bitAt f.w1 8 ∧
      t.get .CSN_STAT_STATE = enumEndState s ∧ t.csn.phaseAt = clk s ∧ t.csn.sent = (forward x f (ringStart s)).csn.sent ∧
      Frame ringFrom offDone s t := by
  obtain ⟨-, -, hty⟩ := carries_of_ringGets hg
  have hne : f.ty ≠ 0x06 := fun e => by rw [e] at hty; exact absurd hty (by decide)
  obtain ⟨y, h, tp, hend⟩ := enumDone_ends (s := ringStart s) he hs
  have hcsn := csn_enumEnded (f.w1.toNat % 256) (bitAt f.w1 8) y h tp (enumEndState s) (ringStart s)
  have hframe := enumEnded_frame (f.w1.toNat % 256) (bitAt f.w1 8) y h tp (enumEndState s) (ringStart s)
  obtain ⟨hn, hring, hstate⟩ := stat_enumEnded (f.w1.toNat % 256) (bitAt f.w1 8) y h tp (enumEndState s) (ringStart s)
  rw [show enumEndState (ringStart s) = enumEndState s from rfl] at hend
  rw [hend] at ht
  generalize enumEnded (f.w1.toNat % 256) (bitAt f.w1 8) y h tp (enumEndState s) (ringStart s) = u at *
  have hfwd (g : FldRef) : t.get g = u.get g := by rw [ht, (forward_frame (P := fun _ => True) x f u).get g trivial]
  refine ⟨?_, ?_, ?_, ?_, ?_, ?_⟩
  · rw [hfwd, hn, Nat.mod_mod]
  · rw [State.is, hfwd]
    exact hring
  · rw [hfwd, hstate, Nat.mod_eq_of_lt (enumEndState_lt s)]
  · rw [ht, sent_forward hne]
    exact congrArg CsnSt.phaseAt hcsn
  · rw [ht]
    refine sent_forward_congr hframe hne (by simp [offDone]) (by simp [offDone]) (fun y => ?_) (by rw [hcsn]) (by rw [hcsn]) (by rw [hcsn])
    simp only [offDone, offCsnStat, Reg.CSN_LK_STAT, Reg.CSN_STAT, Reg.CSN_HOPS]
    omega
  · exact ht ▸ ((ringStart_frame s).trans hframe).trans (forward_frame _ _ _)

/-- Its ports, once a REROUTE that names no hop has restored them (R460). -/
theorem wayRestored_spec (hu : s.csn.up0 < 2) (htime : s.csn.time0 < 2) {t : State} (ht : t = forward x f (wayRestored (ringStart s))) :
    t.get .CSN_STAT_UP_PORT = s.csn.up0 ∧ t.get .CSN_STAT_TIME_PORT = s.csn.time0 ∧ t.is .CSN_STAT_HEALED = false ∧
      rd t Reg.CSN_HOPS = rd (putHops (otherPort s.csn.up0) (hopsOther s) (putHops s.csn.up0 (s.get .CSN_STAT_ADDR) s)) Reg.CSN_HOPS ∧
      Frame ringFrom (fun g => offCsnStat g ∧ g.a ≠ Reg.CSN_HOPS) s t := by
  obtain ⟨hup, hport, hheal⟩ := stat_wayRestored (s := ringStart s) hu htime
  have hfwd := forward_frame (P := fun _ => True) x f (wayRestored (ringStart s))
  have hhops : rd (putHops (otherPort s.csn.up0) (hopsOther s) (putHops s.csn.up0 (s.get .CSN_STAT_ADDR) (ringStart s))) Reg.CSN_HOPS =
      rd (putHops (otherPort s.csn.up0) (hopsOther s) (putHops s.csn.up0 (s.get .CSN_STAT_ADDR) s)) Reg.CSN_HOPS :=
    hops_putHops (hops_putHops (State.modCsn_rd s _ _) _ _) _ _
  subst ht
  refine ⟨(hfwd.get _ trivial).trans hup, (hfwd.get _ trivial).trans hport, (hfwd.is _ trivial).trans hheal, ?_, ?_⟩
  · exact (hfwd.rd _ trivial).trans ((hops_wayRestored (ringStart s)).trans hhops)
  · exact ((ringStart_frame s).trans (wayRestored_frame _).ring).trans (forward_frame _ _ _)

/-- Settles O54: a row begins with nothing sent, and is then one case of its unit's operation. -/
theorem ringEnumeration : Obligations.RingEnumeration := by
  unfold Obligations.RingEnumeration
  refine ⟨?unheard, ?malformed, ?otherType, ?start, ?startIdle, ?join, ?joinFull, ?joinPlaced, ?ownEnum, ?otherEnum, ?entry, ?more, ?lastMember, ?late,
    ?early, ?rosterMember, ?nextSide, ?lastSide, ?sideRuns, ?done, ?doneForward, ?doneOther, ?doneHead, ?rerouteHead, ?timeHead, ?restore, ?cross,
    ?uncrossed, ?rerouteOther, ?lockHead, ?lockMember, ?lockRuns, ?onward, ?badCrc, ?notOnward, ?timeSend, ?timeIdle, ?timeOther, ?sample, ?asks,
    ?copy, ?noCopy, ?tokenAgain, ?tokenLocked, ?tokenUnlocked, ?tokenIdle, ?tokenMalformed⟩
  case unheard =>
    intro s x f fr d i hi hc
    obtain ⟨g, hg⟩ := exec_ringRow hi
    rw [hg, ringRecv_unheard hc]
  case malformed =>
    intro s x f fr d i hi hc hf
    obtain ⟨g, hg⟩ := exec_ringRow hi
    rw [hg, ringRecv_malformed hc hf]
  case otherType =>
    intro s x f fr d i hi hc hf ht
    obtain ⟨g, hg⟩ := exec_ringRow hi
    rw [hg, ringRecv_otherType hc hf ht]
  case start =>
    intro s p hh hc htr h0 h1 hd hp hport
    have hlt : p < 2 := by rw [hp]; split <;> decide
    have hsides : enumPort s 0 = true ∨ enumPort s 1 = true := by
      split at hp
      · next h => exact .inr h
      · exact .inl (hp ▸ hport)
    obtain ⟨hget, hframe, hcsn⟩ := enumStart_spec hlt hport rfl
    obtain ⟨hstate, hn, hring, haddr⟩ := stat_enumBegun (ringStart s)
    obtain ⟨hid, hpresent⟩ := roster_enumBegun (ringStart s)
    refine ⟨enumSide p 0 (enumBegun (ringStart s)), congrArg _ ((enumStart_runs (s := ringStart s) hh hc htr h0 h1 hd hsides).trans (enumStart_sends hp)),
      (hget _).trans hstate, (hget _).trans (epoch_enumBegun _), hcsn, (hget _).trans hn, ?_, (hget _).trans haddr, ?_, (rd_of_get (hget _)).trans hid,
      hframe.rest, fun a h1 h2 h3 => hframe.rd a ⟨⟨h1, h2⟩, h3⟩⟩
    · rw [State.is, hget]
      exact hring
    · rw [List.all_eq_true]
      intro m hm
      rw [State.is, hget, ← State.is, hpresent m (List.mem_range.mp hm), beq_self_eq_true]
  case startIdle => exact fun s h => congrArg _ (enumStart_idle (s := ringStart s) h)
  case join =>
    rintro s x f m _ l hg hh ha hm h250 rfl hl
    obtain ⟨⟨haddr, hup, hport, hepoch, hstate⟩, hhops, hframe, hcsn⟩ := enumJoin_spec (f := f) (l := l) h250 (carries_of_ringGets hg).1 rfl
    have hexec : exec (.enum x f) s = .next _ := (exec_enum hg).trans (congrArg _ ((if_neg (by simp [hh])).trans
      (enumMember_joins (s := ringStart s) ha hm h250 x.isLt hl)))
    exact ⟨_, hexec, haddr, hup, hport, hepoch, hstate, hhops, congrArg CsnSt.far hcsn, congrArg CsnSt.fwd hcsn, congrArg CsnSt.sent hcsn, hframe.rest,
      fun a h1 h2 h3 => hframe.rd a ⟨⟨h1, h2⟩, h3⟩⟩
  case joinFull =>
    intro s x f hg hh ha h250
    rw [exec_enum hg, hh, if_neg Bool.false_ne_true, enumMember_full (s := ringStart s) ha h250]
  case joinPlaced =>
    intro s x f hg hh ha
    rw [exec_enum hg, hh, if_neg Bool.false_ne_true, enumMember_placed (s := ringStart s) ha]
  case ownEnum =>
    rintro s f _ hg he hside hf rfl
    obtain ⟨hn, hring, hstate, hframe, hcsn⟩ := enumFinish_spec (s := s) (f.w1.toNat % 256)
      (fun c => { c with n2 := f.w1.toNat % 256, count := f.w1.toNat % 256 }) true (fun _ => ⟨rfl, rfl, rfl⟩) rfl
    have hexec : exec (.enum 0 f) s = .next _ := (exec_enum hg).trans (congrArg _ ((if_pos (state_of_enumRuns he).1).trans
      (enumHead_own (s := ringStart s) he hside hf)))
    refine ⟨_, hexec, hn.trans (Nat.mod_mod _ _), hring, hstate, congrArg CsnSt.n2 hcsn, ?_, hframe.rest, fun a ha => hframe.rd a ha⟩
    have hcarry : carries s 0 = true := (carries_of_ringGets hg).1
    rw [hcsn, hcarry]
    rfl
  case otherEnum =>
    intro s x f hg hh h
    have hval : x ≠ 0 → x.val ≠ 0 := fun hx hv => hx (Fin.ext hv)
    rw [exec_enum hg, hh, if_pos rfl, enumHead_other (s := ringStart s) (h.imp id (Or.imp id (Or.imp_left hval)))]
  case entry =>
    rintro s x f _ hg hh hs rfl
    obtain ⟨hhead, hframe⟩ := rosterHead_spec hg hs rfl
    obtain ⟨hlat, hid, hser⟩ :=
      rd_rosterPut (f.w1.toNat % 256) (f.data.take 4) (f.data.getD 4 0) (bitAt (wd f.flags.toNat) 2) (bits f.w1 9 8) f.w2 (ringStart s)
    obtain ⟨hpresent, hlast⟩ :=
      stat_rosterPut (f.w1.toNat % 256) (f.data.take 4) (f.data.getD 4 0) (bitAt (wd f.flags.toNat) 2) (bits f.w1 9 8) f.w2 (ringStart s)
    have hoff (k : Nat) (hk : 0x7000 ≤ k) : k ≠ Reg.CSN_STAT := by simp only [Reg.CSN_STAT]; omega
    refine ⟨_, (exec_roster hg).trans (congrArg _ (if_pos hh)), (hhead.is _ (hoff _ (by simp only [Reg.CSN_ROS_STAT]; omega))).trans hpresent,
      (hhead.is _ (hoff _ (by simp only [Reg.CSN_ROS_STAT]; omega))).trans hlast, (hhead.rd _ (hoff _ (by simp only [Reg.CSN_ROS_LAT]; omega))).trans hlat,
      (hhead.rd _ (hoff _ (by simp only [Reg.CSN_ROS_ID]; omega))).trans hid, ?_, hframe.rest, fun a h1 h2 => hframe.rd a ⟨h1, h2⟩⟩
    rw [List.all_eq_true]
    intro k hk
    rw [List.mem_range] at hk
    rw [hhead.rd _ (hoff _ (by simp only [Reg.CSN_ROS_SER]; omega)), rostered, hser k hk, beq_iff_eq]
    simp [List.getD_eq_getElem?_getD, hk]
  case more =>
    rintro s x f _ _ hg hh he hl rfl rfl
    rw [exec_roster_counts hg he, hl, if_neg Bool.false_ne_true, memberCounted, rostered, hl]
  case lastMember =>
    rintro s x f _ _ hg hh he hl rfl rfl
    rw [exec_roster_counts hg he, hl, if_pos rfl, memberCounted, rostered, hl]
  case late =>
    rintro s x f _ _ hg hh hs rfl rfl
    obtain ⟨h0, h250⟩ := rosterAddr_range hg
    have he : ¬ enumRuns (ringStart s) = true := fun he => (state_of_enumRuns he).2.not_gt hs
    rw [exec_roster hg, hh, if_pos rfl, rosterHead_records (s := ringStart s) h0 h250 (Nat.le_of_lt hs), if_neg he]
    rfl
  case early =>
    intro s x f hg hh hs
    rw [exec_roster hg, hh, if_pos rfl, rosterHead_early (s := ringStart s) hs]
  case rosterMember =>
    intro s x f hg hh
    rw [exec_roster hg, hh, if_neg Bool.false_ne_true]
  case nextSide =>
    intro s he ht hside hp
    have hcarry : carries ((ringStart s).modCsn fun c => { c with n2 := s.csn.count }) 0 = true := by
      rw [enumPort, Bool.and_eq_true] at hp
      exact hp.1
    refine (congrArg Host.Outcome.next (if_pos ⟨he, decide_eq_true ht⟩)).trans
      (congrArg _ ((sideEnd_next (s := ringStart s) hside hp).trans ((enumSide_carried hcarry).trans ?_)))
    rfl
  case lastSide =>
    intro s he ht h
    obtain ⟨k, hk⟩ := sideEnd_last (s := ringStart s) h
    obtain ⟨hn, hring, hstate, hframe, hcsn⟩ := enumFinish_spec (s := s) s.csn.count (fun c => { c with n2 := k }) false (fun _ => ⟨rfl, rfl, rfl⟩) rfl
    refine ⟨_, (congrArg Host.Outcome.next (if_pos ⟨he, decide_eq_true ht⟩)).trans (congrArg _ hk), hn, hring, hstate, congrArg CsnSt.phaseAt hcsn,
      congrArg CsnSt.sent hcsn, hframe.rest, fun a ha => hframe.rd a ha⟩
  case sideRuns =>
    intro s h
    refine congrArg Host.Outcome.next (if_neg ?_)
    rintro ⟨he, ht⟩
    rcases h with h | h
    · exact absurd (h.symm.trans he) Bool.false_ne_true
    · exact absurd (of_decide_eq_true ht) (Nat.not_le.mpr h)
  case done =>
    intro s x f hg hh he hs
    obtain ⟨hn, hring, hstate, hphase, hsent, hframe⟩ := enumDone_spec hg he hs rfl
    refine ⟨_, (exec_enumDone hg).trans (congrArg _ (if_neg (by simp [hh]))), hn, hring, hstate, hphase, hsent, hframe.rest,
      fun a h1 h2 => hframe.rd a ⟨⟨h2, by simp⟩, .inl h1⟩⟩
  case doneForward =>
    intro s x f hg hh _ _
    rw [exec_enumDone hg, hh, if_neg Bool.false_ne_true]
  case doneOther =>
    intro s x f hg hh h
    rw [exec_enumDone hg, hh, if_neg Bool.false_ne_true, enumDone_other (s := ringStart s) h]
  case doneHead =>
    intro s x f hg hh
    rw [exec_enumDone hg, hh, if_pos rfl]
  case rerouteHead =>
    intro s x f hg hh
    rw [exec_reroute hg, hh, if_pos rfl]
  case timeHead =>
    intro s x f fr d hg hh
    rw [exec_ringTimeFrame hg, hh, if_pos rfl]
  case restore =>
    intro s x f hg hh he ha hn hu ht
    obtain ⟨hup, hport, hheal, hhops, hframe⟩ := wayRestored_spec (x := x) (f := f) hu ht rfl
    refine ⟨_, ?_, hup, hport, hheal, hhops, hframe.rest, fun a h1 h2 => hframe.rd a ⟨h1, h2⟩⟩
    rw [exec_reroute hg, hh, if_neg Bool.false_ne_true, reroute_none (s := ringStart s) he ha hn]
  case cross =>
    intro s x f k hg hh he ha hn hk hring hcross hcarry
    rw [exec_reroute hg, hh, if_neg Bool.false_ne_true, reroute_hop (s := ringStart s) he ha hn hk, if_pos ⟨hring, hcross, hcarry⟩]
  case uncrossed =>
    intro s x f k hg hh he ha hn hk h
    rw [exec_reroute hg, hh, if_neg Bool.false_ne_true, reroute_hop (s := ringStart s) he ha hn hk, if_neg]
    rintro ⟨hring, hcross, hcarry⟩
    rcases h with h | h | h
    exacts [absurd (h.symm.trans hring) Bool.false_ne_true, absurd (h.symm.trans hcross) Bool.false_ne_true,
      absurd (h.symm.trans hcarry) Bool.false_ne_true]
  case rerouteOther =>
    intro s x f hg hh h
    rw [exec_reroute hg, hh, if_neg Bool.false_ne_true]
    refine congrArg (fun u => Host.Outcome.next (forward x f u)) ?_
    by_cases hbad : sameEpoch s f = false ∨ s.get .CSN_STAT_ADDR = 0xFF
    · exact reroute_ignored (s := ringStart s) hbad
    · obtain ⟨he, ha⟩ := not_or.mp hbad
      obtain ⟨hn, hk⟩ := (h.resolve_left he).resolve_left ha
      exact reroute_noHop (s := ringStart s) (Bool.not_eq_false _ ▸ he) ha hn hk
  case lockHead =>
    intro s hh hs ht
    exact congrArg Host.Outcome.next ((if_neg (not_or.mpr ⟨not_not.mpr hs, not_not.mpr (decide_eq_true ht)⟩)).trans (if_pos hh))
  case lockMember =>
    intro s hh hs ht
    exact congrArg Host.Outcome.next ((if_neg (not_or.mpr ⟨not_not.mpr hs, not_not.mpr (decide_eq_true ht)⟩)).trans (if_neg (by simp [hh])))
  case lockRuns =>
    intro s h
    exact congrArg Host.Outcome.next (if_pos (h.imp id fun ht hp => absurd (of_decide_eq_true hp) (Nat.not_le.mpr ht)))
  case onward =>
    intro s x f hc hf hme hall h13 h14
    refine congrArg Host.Outcome.next ((if_neg (not_not.mpr hc)).trans ((if_neg ?_).trans (if_neg ?_)))
    · exact not_or.mpr ⟨not_not.mpr rfl, not_not.mpr hf⟩
    · rintro (h | h | h | h)
      exacts [hme h, hall h, h13 h, h14 h]
  case badCrc =>
    intro s x f ok hc h
    exact congrArg Host.Outcome.next ((if_neg (not_not.mpr hc)).trans (if_pos (h.imp (fun hok => by simp [hok]) fun hf => by simp [hf])))
  case notOnward =>
    rintro s x f ok (hc | ⟨hok, hf, h⟩)
    · exact congrArg Host.Outcome.next (if_pos (by simp [hc]))
    · refine congrArg Host.Outcome.next (ite_eq_left_iff.mpr fun hc => (if_neg ?_).trans (if_pos h))
      exact not_or.mpr ⟨not_not.mpr hok, not_not.mpr hf⟩
  case timeSend =>
    rintro s _ hh hd rfl
    exact congrArg Host.Outcome.next (if_pos ⟨hh, hd⟩)
  case timeIdle =>
    intro s h
    refine congrArg Host.Outcome.next (if_neg ?_)
    rintro ⟨hh, hd⟩
    rcases h with h | h
    exacts [absurd (h.symm.trans hh) Bool.false_ne_true, absurd (h.symm.trans hd) Bool.false_ne_true]
  case timeOther =>
    rintro s x f fr d b hg hh h hb
    obtain ⟨hget, hruns, hepoch, -, -⟩ := sampleInputs_forward x (timeOnward x f d.toNat s) f x fr.toNat hb
    rw [exec_ringTimeFrame hg, hh, if_neg Bool.false_ne_true, ← hb, timeSample_other]
    rwa [hget, hget, hruns, hepoch]
  case sample =>
    rintro s x f fr d b _ hg hh hx h2 hr he hb rfl hw
    obtain ⟨hget, hruns, hepoch, hoff, htu⟩ := sampleInputs_forward x (timeOnward x f d.toNat s) f x fr.toNat hb
    rw [exec_ringTimeFrame hg, hh, if_neg Bool.false_ne_true, ← hb,
      timeSample_quiet (hx.trans (hget _).symm) ((hget _).trans h2) (hruns.trans hr) (hepoch.trans he) (by rw [hoff, htu]; exact hw), hoff]
    rfl
  case asks =>
    rintro s x f fr d b _ hg hh hx h2 hr he hb rfl hw h0
    obtain ⟨hget, hruns, hepoch, hoff, htu⟩ := sampleInputs_forward x (timeOnward x f d.toNat s) f x fr.toNat hb
    rw [exec_ringTimeFrame hg, hh, if_neg Bool.false_ne_true, ← hb, timeSample_asks (hx.trans (hget _).symm) ((hget _).trans h2) (hruns.trans hr)
      (hepoch.trans he) (by rw [hoff]; exact hw) (by rw [htu]; exact h0), hoff, hget]
    rfl
  case copy => exact fun s k a i h => exec_tokenCopySend h
  case noCopy => exact fun s h => exec_tokenCopySend_none h
  case tokenAgain =>
    intro s x f k hg hty hh hk hseen
    rw [exec_ringTokenReceive_member hg hty hh hk, tokenReceive_again (s := ringStart s) hseen]
  case tokenLocked =>
    intro s x f k hg hty hh hk hseen hs
    rw [exec_ringTokenReceive_member hg hty hh hk, tokenReceive_locked (s := ringStart s) hseen hs]
  case tokenUnlocked =>
    intro s x f k hg hty hh hk hseen h2 h3
    rw [exec_ringTokenReceive_member hg hty hh hk, tokenReceive_unlocked (s := ringStart s) hseen h2 h3]
  case tokenIdle =>
    intro s x f h
    by_cases hty : f.ty = 0x04 ∨ f.ty = 0x05
    · rw [exec_ringTokenReceive hty]
      rcases h with hc | hother | ⟨hf, hh⟩
      · rw [ringRecv_unheard hc]
      · exact absurd hty (not_or.mpr hother)
      · cases hc : carries s x with
        | false => rw [ringRecv_unheard hc]
        | true =>
          rw [ringRecv_gets (by rw [ringGets, hc, hf, beq_self_eq_true]; rfl)]
          exact congrArg _ (if_pos hh)
    · exact congrArg Host.Outcome.next (if_neg hty)
  case tokenMalformed =>
    intro s x f hc hty hf
    rw [exec_ringTokenReceive hty, ringRecv_malformed hc hf]

end Sys2Proof.Machine
end

section
/-! PROOFS. An entry of a transmit queue that names a context beyond the 160 of R332 (R318, R381): its end makes READY a context whose register is none. -/

namespace Sys2Proof.Machine

set_option Elab.async false

/-- A module in RUN with CAN port 0 in NORMAL, whose queue holds one entry, in an attempt where `att` names it. It was made by context 200, which waits for it. -/
def strayOwner (att : Option Nat) : State :=
  let s : State := { pw := { on := true, power := 1 }, sv := { roleA := .active, anyActive := true },
                     cans := [(0, { txq := [{ id := 0, src := .hoist 200, frame := {} }], att := att, nextId := 1, mode := 1 })],
                     ctxs := [(200, { wait := .txDone 0 })] }
  (s.put .BT_STAT_STATE 1).put (.CAN_RETRY_ERR_RETRY 0) 0

/-- The register that stands where `CTX_STAT` of a context 200 would is none that an event may change, and none of port 0. -/
theorem strayStat_outside : eventReg (Reg.CTX_STAT 200) = false ∧ ¬ (canReg 0 (Reg.CTX_STAT 200) = true) := by decide

theorem admitted_strayOwner : Admitted (strayOwner none) .s0 (Reg.CAN_SLEEP 0) Msk.CAN_SLEEP :=
  ⟨by decide, by decide, fun h => absurd h (by decide)⟩

/-- The request to sleep with FLUSH abandons the entry. -/
theorem stat_strayOwner_sleep : rd (canSleepWrite 0 (setBits 4 31 31 1) (strayOwner none)) (Reg.CTX_STAT 200) ≠ rd (strayOwner none) (Reg.CTX_STAT 200) := by
  decide +kernel

/-- Refutes O36: the statement asks of every state that a sleep with FLUSH changes, beside the port, only what an event may change. In `strayOwner`, which the
rules keep a run from (there are 160 contexts, R332), the entry that is abandoned makes READY the context 200 that waits for it. -/
theorem not_canModes : ¬ Obligations.CanModes := by
  unfold Obligations.CanModes
  rintro ⟨-, -, -, -, -, hflush, -⟩
  obtain ⟨hevent, hport⟩ := strayStat_outside
  obtain ⟨t, ht, -, -, -, -, hkept⟩ := hflush (strayOwner none) .s0 0 4 admitted_strayOwner (by decide) (by decide) (by decide)
  have hexec : exec (.canSleepRequest .s0 0 4) (strayOwner none) = .next (canSleepWrite 0 (setBits 4 31 31 1) (strayOwner none)) :=
    congrArg Host.Outcome.next (regWrite_admitted _ _ _ _ _ _ admitted_strayOwner)
  obtain rfl := Host.Outcome.next.inj (hexec.symm.trans ht)
  exact stat_strayOwner_sleep (hkept _ hevent hport)

/-- An error of the attempt, without retries, abandons the entry. -/
theorem stat_strayOwner_error : rd (attemptError 0 {} (strayOwner (some 0))) (Reg.CTX_STAT 200) ≠ rd (strayOwner (some 0)) (Reg.CTX_STAT 200) := by
  decide +kernel

/-- Refutes O41: with no context enabled a failed attempt is to change, beside the port, only what an event may change, in every state. In `strayOwner`, which
the rules keep a run from (R332), the entry whose retries are used up makes READY the context 200 that waits for it. -/
theorem not_canAttempts : ¬ Obligations.CanAttempts := by
  unfold Obligations.CanAttempts
  rintro ⟨-, -, -, herror, -⟩
  obtain ⟨hevent, hport⟩ := strayStat_outside
  obtain ⟨t, ht, -, -, -, -, -, hframe⟩ := herror (strayOwner (some 0)) 0 {} { id := 0, src := .hoist 200, frame := {} } (by decide) (by decide) (by decide)
    (by decide)
  obtain rfl : attemptError 0 {} (strayOwner (some 0)) = t := Host.Outcome.next.inj ht
  obtain ⟨-, hkept⟩ := hframe (by decide)
  exact stat_strayOwner_error (hkept _ hevent hport)

end Sys2Proof.Machine
end

section
/-! PROOFS. A frame that comes in while a context waits at an EXPECT whose variable lies past V15 (R297, R312, R349, R386). -/

namespace Sys2Proof.Machine

set_option Elab.async false

/-- As `strayVariable`, with the address of `CAN_FRCNT` of port 0 as that of the deciding variable, number 0x3FFC. -/
def strayCounter : State :=
  strayVariable.modCtx 0 fun x => { x with wait := .expect { at_ := 0, next := 0, descs := [], dreg := some 0x3FFC, start := 0 } }

theorem strayCounter_port : canRuns strayCounter 0 = true ∧ (strayCounter.can 0).mode = 1 ∧ strayCounter.get (.CAN_STAT_ERR_STATE 0) ≠ 2 ∧
    canDecodes strayCounter 0 {} = true := by decide +kernel

/-- What the model does with a frame that is received there. -/
def strayCounted : State := frameEnd 0 (canReceive 0 { ts := now strayCounter } strayCounter)

theorem exec_canFrameReceive_strayCounter : exec (.canFrameReceive 0 {}) strayCounter = .next strayCounted := by
  obtain ⟨hruns, hmode, herr, hdec⟩ := strayCounter_port
  exact congrArg Host.Outcome.next (if_pos ⟨hruns, .inl hmode, herr, by decide, hdec⟩)

/-- PORT_OFF decides the EXPECT, whose variable takes index 0: the frame that was just counted is not. -/
theorem rx_strayCounted : strayCounted.get (.CAN_FRCNT_RX 0) ≠ min (strayCounter.get (.CAN_FRCNT_RX 0) + 1) (FldRef.max (.CAN_FRCNT_RX 0)) := by
  decide +kernel

/-- Refutes O37: the statement asks that a received frame is counted in every state, and so in `strayCounter`, which the rules keep a run from (a TEC above 255
is bus-off already, R311; the variable that takes an EXPECT's index is one of V0 to V15, R386). There the port goes bus-off with the frame, and a context that
takes PORT_OFF for its outcome overwrites the count. -/
theorem not_canReceiving : ¬ Obligations.CanReceiving := by
  unfold Obligations.CanReceiving
  rintro ⟨hcount, -⟩
  obtain ⟨hruns, hmode, herr, hdec⟩ := strayCounter_port
  obtain ⟨t, ht, hrx, -⟩ := hcount strayCounter 0 {} hruns (.inl hmode) herr (by decide) hdec
  obtain rfl : strayCounted = t := Host.Outcome.next.inj (exec_canFrameReceive_strayCounter.symm.trans ht)
  exact rx_strayCounted hrx

end Sys2Proof.Machine
end

section
/-! PROOFS. The wake of a CAN port and of the module by it (R320, R534, R537): what it leaves above the channels, and what the port then shows. -/

namespace Sys2Proof.Machine

set_option Elab.async false

variable {s t : State}

section Upper

/-- A field above the registers of the channels: of the queues, the contexts or the CAN ports. -/
def inUpper (g : FldRef) : Prop := 0x30000 ≤ g.a ∧ g.hi < 32

theorem lt_of_mem_anChs {n : Nat} (h : n ∈ anChs) : n < 256 := by
  simp only [anChs, List.mem_map, List.mem_range] at h
  obtain ⟨i, hi, rfl⟩ := h
  simp only [anCh]
  omega

/-- A write of a field below them. -/
theorem Frame.below (h : Frame unitsOf inUpper s t) (g : FldRef) (v : Nat) (hg : g.a < 0x30000) : Frame unitsOf inUpper s (t.put g v) :=
  h.put g v fun p hp e => by
    obtain ⟨hlo, -⟩ := hp
    omega

/-- A change that keeps the time unit and the ports, and whose registers lie below them. -/
theorem Frame.upper {f : State → State → State} {P : FldRef → Prop} (h : Frame f P s t) (hP : ∀ g, inUpper g → P g)
    (hf : ∀ s t, f s t = unitsOf s (f s t) := by exact fun _ _ => rfl) : Frame unitsOf inUpper s t := h.mono hP hf

theorem offChain_of_inUpper {n : Nat} (hn : n < 256) {g : FldRef} (h : inUpper g) : offChain n g := by
  obtain ⟨hlo, -⟩ := h
  simp only [offChain, chainReg, Bool.or_eq_false_iff, beq_eq_false_iff_ne, Reg.CH_FC_STATE, Reg.CH_LAST, Reg.CH_LAST_SEQ, Reg.CH_TH_STATE]
  omega

theorem offSafe_of_inUpper {x : Nat} (hx : x < 16) {g : FldRef} (h : inUpper g) : offTile x g ∧ offActive x g := by
  obtain ⟨hlo, hi⟩ := h
  refine ⟨⟨hi, by omega⟩, .inl ?_, hi⟩
  simp only [Reg.TILE_SAFE]
  omega

theorem fcRefresh_upper {n : Nat} (hn : n < 256) (s : State) : Frame unitsOf inUpper s (fcRefresh n s) := by
  have hput (u : State) (g : FldRef) (v : Nat) (hg : g.a = Reg.CH_FC_STATE n) : Frame unitsOf inUpper u (u.put g v) :=
    (Frame.refl u).below g v (by rw [hg, Reg.CH_FC_STATE]; omega)
  exact ((hput s (.CH_FC_STATE_CFG_ERR n) _ rfl).trans (hput _ (.CH_FC_STATE_UNAVAIL n) _ rfl)).trans (hput _ (.CH_FC_STATE_DCG_NE1 n) _ rfl)

theorem setChain_upper (n : Nat) (x : ChainSt) (s : State) : Frame unitsOf inUpper s (s.setChain n x) := (setChain_rebased n x s).upper fun _ => id

/-- The lines go on without a write of a register (R187). -/
theorem linesResume_upper (e : Nat) (s : State) : Frame unitsOf inUpper s (linesResume e s) := by
  have htile (k : Nat) (F : TileSt → TileSt) (u : State) : Frame unitsOf inUpper u (u.modTile k F) := (modTile_rebased k F u).upper fun _ => id
  have hca (F : CaSt → CaSt) (u : State) : Frame unitsOf inUpper u (u.modCa F) := .of_regs rfl rfl
  unfold linesResume
  split
  · exact ((Frame.each _ _ _ fun n _ u => setChain_upper n _ u).trans (.each _ _ _ fun k _ u => htile k _ u)).trans (hca _ _)
  · exact .each _ _ _ fun n _ u => .ite (fun _ => setChain_upper n _ u) fun _ => .refl u

theorem startChainsAt_upper (e : Nat) (s : State) : Frame unitsOf inUpper s (startChainsAt e s) := by
  have hmarks : Frame unitsOf inUpper s (s.each anChs fun n s => noteMarks n (fcRefresh n s)) :=
    .each _ _ _ fun n hn u => (fcRefresh_upper (lt_of_mem_anChs hn) u).trans (setChain_upper n _ _)
  refine (hmarks.trans (linesResume_upper e _)).trans (.each _ _ _ fun n hn u => ?_)
  exact (setChain_upper n _ _).trans ((takeUp_frame n _).upper fun _ => offChain_of_inUpper (lt_of_mem_anChs hn))

theorem setPowerAt_upper (e p : Nat) (s : State) : Frame unitsOf inUpper s (setPowerAt e p s) := by
  unfold setPowerAt
  extract_lets s1
  have h1 : Frame unitsOf inUpper s s1 := .of_regs rfl rfl
  have hrate (lean : Bool) (u : State) : Frame unitsOf inUpper u (fmSet e lean u) :=
    .ite (fun _ => .refl u) fun _ => ((rebaseAll_frame _ u).upper fun _ => id).below .CA_STAT_LEAN _ (by decide)
  exact .ite (fun _ => h1.trans (hrate _ _)) fun _ => h1

theorem dozeCause_upper (on : Bool) (s : State) : Frame unitsOf inUpper s (dozeCause on s) :=
  .allTiles s fun n hn u => ((Frame.refl u).below (.TILE_SAFE_DOZE n) _ (by simp only [Reg.TILE_SAFE]; omega)).trans
    ((safeRefresh_frame n _).upper fun _ => offSafe_of_inUpper hn)

theorem leaveDoze_upper (p : Nat) (s : State) : Frame unitsOf inUpper s (leaveDoze p s) :=
  .ite (fun _ => .refl s) fun _ => ((setPowerAt_upper _ p s).trans (startChainsAt_upper _ _)).trans (dozeCause_upper false _)

theorem noteWake_upper (cause src : Nat) (s : State) : Frame unitsOf inUpper s (noteWake cause src s) := by
  have hrecord : Frame unitsOf inUpper s (wakeRecord cause src s) :=
    (((Frame.refl s).below .MOD_START_WAKE cause (by decide)).below .MOD_START_WAKE_SRC src (by decide)).below .MOD_START_PREV _ (by decide)
  exact .ite (fun _ => hrecord.trans (leaveDoze_upper _ _)) fun _ => .ite (fun _ => .of_regs rfl rfl) fun _ => .refl s

end Upper

section Ports

variable {p : Nat}

/-- No register of a CAN port is one of the queues'. -/
theorem offQueues_of_ports {g : FldRef} (h : 0x50000 ≤ g.a) : offQueues g := by
  simp only [offQueues, queueReg, Bool.or_eq_false_iff, Bool.and_eq_false_iff, decide_eq_false_iff_not, beq_eq_false_iff_ne, Reg.MOD_IRQ]
  omega

/-- A status record of a port is a write into its queue (R321). -/
theorem canRecord_frame (p ty detail : Nat) (tko hoist : Bool) (n : Nat) (w : Word) (tag stamp : Nat) (s : State) :
    Frame queuedFrom offQueues s (canRecord p ty detail tko hoist n w tag stamp s) := by
  unfold canRecord
  extract_lets w0 ok s1
  have hpush : Frame queuedFrom offQueues s s1 := qPushFixed_frame ..
  exact .ite (fun _ => .ite (fun _ => hpush.put _ _ fun _ => ne_modIrq_of_offQueues) fun _ => hpush) fun _ => .refl s

theorem canWake_awake (cause stamp : Nat) (w : Word) (h : s.is (.CAN_STAT_ASLEEP p) = false) : canWake p cause stamp w s = s :=
  if_neg (by rw [h]; decide)

/-- A port that has woken shows it, with the cause (R320). -/
theorem canWake_shows {cause : Nat} (stamp : Nat) (w : Word) (h : s.is (.CAN_STAT_ASLEEP p) = true) (hc : cause < 16) :
    (canWake p cause stamp w s).is (.CAN_STAT_ASLEEP p) = false ∧ (canWake p cause stamp w s).get (.CAN_WAKE_STAT_CAUSE p) = cause := by
  unfold canWake
  rw [if_pos h]
  extract_lets s1 s2
  have hlast (g : FldRef) (hg : inUpper g) : (if s.get (.CAN_SLEEP_WAKE_MODE p) = 0 then s2 else noteWake 1 p s2).get g = s2.get g := by
    split
    · rfl
    · exact (noteWake_upper 1 p s2).get g hg
  have hrecord (g : FldRef) (hg : 0x50000 ≤ g.a ∧ g.hi < 32) (ha : (FldRef.CAN_STAT_INTEG p).apart g) : s2.get g = s1.get g :=
    (get_put_apart _ _ _ _ (by simp) hg.2 ha).trans ((canRecord_frame ..).get g (offQueues_of_ports hg.1))
  refine ⟨beq_eq_false_iff_ne.mpr ?_, ?_⟩
  · rw [hlast _ ⟨by simp only [Reg.CAN_STAT]; omega, by simp⟩, hrecord _ ⟨by simp only [Reg.CAN_STAT]; omega, by simp⟩ (by simp [FldRef.apart]),
      get_put_ne _ _ _ _ (by simp only [Reg.CAN_STAT, Reg.CAN_WAKE_STAT]; omega), get_put _ _ _ (by simp) (by simp), Nat.zero_mod]
    exact Nat.zero_ne_one
  · rw [hlast _ ⟨by simp only [Reg.CAN_WAKE_STAT]; omega, by simp⟩, hrecord _ ⟨by simp only [Reg.CAN_WAKE_STAT]; omega, by simp⟩
        (.inl (by simp only [Reg.CAN_STAT, Reg.CAN_WAKE_STAT]; omega)), get_put _ _ _ (by simp) (by simp)]
    exact Nat.mod_eq_of_lt hc

end Ports

end Sys2Proof.Machine
end

section
/-! PROOFS. The transmit queue of a CAN port (R305 to R307): what a GO makes of it, and the start of an attempt. -/

namespace Sys2Proof.Machine

set_option Elab.async false

section Queue

variable {s : State} {p : Nat}

@[simp] theorem can_modCan (s : State) (p : Nat) (F : CanSt → CanSt) : (s.modCan p F).can p = F (s.can p) := kget_kset_same _ _ _ _

/-- The state in which one more entry stands at the end of the queue of port `p` (R305). -/
def txQueued (p : Nat) (x : TxEnt) (s : State) : State := s.modCan p fun c => { c with txq := c.txq ++ [x], nextId := c.nextId + 1 }

/-- The entry that `src` makes there. -/
def txEntry (s : State) (p : Nat) (src : TxSrc) (prio tag : Nat) (report : Bool) (f : Sys2Proof.Frame) : TxEnt :=
  { id := (s.can p).nextId, src := src, prio := prio, tag := tag, report := report, frame := f, noStamp := src == .tu && s.tu.mFirst }

/-- A frame to send may wake the port (R319). -/
theorem txQueue_eq (p : Nat) (src : TxSrc) (prio tag : Nat) (report : Bool) (f : Sys2Proof.Frame) (s : State) : txQueue p src prio tag report f s =
    if s.is (.CAN_SLEEP_WAKE_ON_TX p) then canWake p 4 (now s) 0 (txQueued p (txEntry s p src prio tag report f) s)
    else txQueued p (txEntry s p src prio tag report f) s := rfl

/-- What it does to the ports does not depend on that. -/
theorem cans_txQueue (p : Nat) (src : TxSrc) (prio tag : Nat) (report : Bool) (f : Sys2Proof.Frame) (s : State) :
    (txQueue p src prio tag report f s).cans = (txQueued p (txEntry s p src prio tag report f) s).cans := by
  rw [txQueue_eq]
  split
  · exact (canWake_units ..).unchanged State.cans
  · rfl

theorem can_txQueue (p : Nat) (src : TxSrc) (prio tag : Nat) (report : Bool) (f : Sys2Proof.Frame) (s : State) :
    (txQueue p src prio tag report f s).can p =
      { s.can p with txq := (s.can p).txq ++ [txEntry s p src prio tag report f], nextId := (s.can p).nextId + 1 } := by
  rw [State.can, cans_txQueue, ← State.can, txQueued, can_modCan]

/-- A port that does not sleep, or does not wake by a frame to send, takes it as it is. -/
theorem txQueue_unwoken {src : TxSrc} {prio tag : Nat} {report : Bool} {f : Sys2Proof.Frame}
    (h : s.is (.CAN_SLEEP_WAKE_ON_TX p) = false ∨ s.is (.CAN_STAT_ASLEEP p) = false) :
    txQueue p src prio tag report f s = txQueued p (txEntry s p src prio tag report f) s := by
  rw [txQueue_eq]
  split
  · next hw => exact canWake_awake 4 _ _ (h.resolve_left (by rw [hw]; decide))
  · rfl

theorem txQueue_wakes {src : TxSrc} {prio tag : Nat} {report : Bool} {f : Sys2Proof.Frame} (hw : s.is (.CAN_SLEEP_WAKE_ON_TX p) = true)
    (ha : s.is (.CAN_STAT_ASLEEP p) = true) : (txQueue p src prio tag report f s).is (.CAN_STAT_ASLEEP p) = false ∧
      (txQueue p src prio tag report f s).get (.CAN_WAKE_STAT_CAUSE p) = 4 := by
  rw [txQueue_eq, if_pos hw]
  exact canWake_shows _ _ ha (by decide)

end Queue

section Go

variable {s : State} {r : Req} {p : Fin 4} {w : Word}

theorem exec_canTxGo (ha : Admitted s r (Reg.CAN_TX_CMD p) Msk.CAN_TX_CMD) :
    exec (.canTxGo r p w) s = .next (canTxCmd p r (setBits w 3 0 1) s) := congrArg Host.Outcome.next (regWrite_admitted _ _ _ _ _ _ ha)

theorem op_setBits (w : Word) : bits (setBits w 3 0 1) 3 0 = 1 := bits_setBits _ _ _ _ (by decide) (by decide)

/-- The frame is refused for its format (R306). -/
theorem canTxCmd_format (h : formatBad s p (stagedFrame s p r).1 (stagedFrame s p r).2 = true) :
    canTxCmd p r (setBits w 3 0 1) s = setTxRes p r 2 s := by
  rw [canTxCmd, if_pos (op_setBits w)]
  exact if_pos h

/-- The queue has no room (R306). -/
theorem canTxCmd_full (h : formatBad s p (stagedFrame s p r).1 (stagedFrame s p r).2 = false) (hfull : 24 ≤ txHostLevel s p ∨ 32 ≤ txLevel s p) :
    canTxCmd p r (setBits w 3 0 1) s = setTxRes p r 1 s := by
  rw [canTxCmd, if_pos (op_setBits w)]
  exact (if_neg (by rw [h]; decide)).trans (if_pos hfull)

/-- The frame is queued with the fields of the write (R305). -/
theorem canTxCmd_queued (h : formatBad s p (stagedFrame s p r).1 (stagedFrame s p r).2 = false) (hhost : txHostLevel s p < 24) (hall : txLevel s p < 32) :
    canTxCmd p r (setBits w 3 0 1) s = setTxRes p r 0
      (txQueue p (if r = .ring then .ring else .s0) (bits w 15 8) (bits w 31 16) (bitAt w 6) (stagedFrame s p r).1 s) := by
  have hfield (hi lo : Nat) (hhi : hi < 32) (hlo : 3 < lo) : bits (setBits w 3 0 1) hi lo = bits w hi lo :=
    bits_setBits_ne _ _ _ _ _ _ (by decide) hhi (.inr hlo)
  have hreport : bitAt (setBits w 3 0 1) 6 = bitAt w 6 := by
    rw [bitAt, bitAt, testBit_setBits _ _ _ _ _ (by decide)]
    rfl
  rw [canTxCmd, if_pos (op_setBits w), ← hfield 15 8 (by decide) (by decide), ← hfield 31 16 (by decide) (by decide), ← hreport]
  exact (if_neg (by rw [h]; decide)).trans (if_neg (by omega))

theorem can_setTxRes (p : Nat) (r : Req) (v : Nat) (s : State) : ((setTxRes p r v s).can p).txq = (s.can p).txq ∧
    (if r = .ring then ((setTxRes p r v s).can p).resRing else ((setTxRes p r v s).can p).resS0) = v := by
  rw [setTxRes, can_modCan]
  split <;> exact ⟨rfl, rfl⟩

end Go

section Attempt

variable {s : State} {p : Nat} {x : TxEnt}

/-- The entry that an attempt takes, with the attempt counted and begun now (R307). -/
def attempted (s : State) (p : Nat) (x : TxEnt) : TxEnt :=
  { x with attempts := x.attempts + 1, sof := some (now s), frame := attemptFrame s p x }

/-- The port has begun it. -/
def inTransmission (p : Nat) (x : TxEnt) (s : State) : State := (putTx p (attempted s p x) s).modCan p fun c => { c with att := some x.id }

theorem attemptStart_runs (hruns : canRuns s p = true) (hmode : (s.can p).mode = 1 ∨ (s.can p).mode = 3) (herr : s.get (.CAN_STAT_ERR_STATE p) ≠ 2)
    (hbusy : canBusy s p = false) (hsw : s.is .SV_STAT_SWITCHING = false) (hx : nextTx (s.can p).txq = some x) :
    attemptStart p s = tdvMeasure p x.frame (inTransmission p x s) := by
  unfold attemptStart
  rw [if_pos ⟨hruns, hmode, herr, by rw [hbusy]; decide, by rw [hsw]; decide⟩, hx]
  rfl

theorem attemptStart_not (h : canRuns s p = false ∨ ((s.can p).mode ≠ 1 ∧ (s.can p).mode ≠ 3) ∨ s.get (.CAN_STAT_ERR_STATE p) = 2 ∨ canBusy s p = true ∨
    s.is .SV_STAT_SWITCHING = true ∨ nextTx (s.can p).txq = none) : attemptStart p s = s := by
  unfold attemptStart
  dsimp only
  split
  · next hgo =>
    obtain ⟨hruns, hmode, herr, hbusy, hsw⟩ := hgo
    have hnone : nextTx (s.can p).txq = none := by
      rcases h with h | h | h | h | h | h
      · exact absurd (h.symm.trans hruns) (by decide)
      · exact absurd hmode (by omega)
      · exact absurd h herr
      · exact absurd h hbusy
      · exact absurd h hsw
      · exact h
    rw [hnone]
  · rfl

theorem can_inTransmission (p : Nat) (x : TxEnt) (s : State) : (inTransmission p x s).can p =
    { s.can p with txq := (s.can p).txq.map fun y => if y.id = x.id then attempted s p x else y, att := some x.id } := by
  rw [inTransmission, can_modCan, putTx, can_modCan]
  rfl

/-- `s` with what the measurement of a loop delay changes taken from `t`; and with the ports beside it. -/
def delayFrom (s t : State) : State := { s with regs := t.regs, free := t.free }
def attemptFrom (s t : State) : State := { s with regs := t.regs, cans := t.cans, free := t.free }

theorem tdvMeasure_frame (p : Nat) (f : Sys2Proof.Frame) (s : State) : Frame delayFrom (fun g => g.a ≠ Reg.CAN_TDC p) s (tdvMeasure p f s) :=
  have hfree (u : State) : Frame delayFrom (fun g => g.a ≠ Reg.CAN_TDC p) u u.useFree := .of_regs rfl rfl
  .ite (fun _ => ((Frame.refl s).put (.CAN_TDC_TDV p) _ fun _ hg => hg).trans (hfree _)) fun _ => .refl s

theorem tdvMeasure_off {f : Sys2Proof.Frame} (h : s.is (.CAN_TDC_EN p) = false) : tdvMeasure p f s = s := if_neg fun hon => absurd (h.symm.trans hon.1) (by decide)

theorem attempt_frame (p : Nat) (x : TxEnt) (s : State) :
    Frame attemptFrom (fun g => g.a ≠ Reg.CAN_TDC p) s (tdvMeasure p x.frame (inTransmission p x s)) :=
  have hbegun : Frame attemptFrom (fun g => g.a ≠ Reg.CAN_TDC p) s (inTransmission p x s) := .of_regs rfl rfl
  hbegun.trans ((tdvMeasure_frame p x.frame _).mono fun _ => id)

end Attempt

/-- Settles O39: a GO is refused or queued, and an attempt takes the entry that is due, or none begins. -/
theorem canTransmitQueue : Obligations.CanTransmitQueue := by
  unfold Obligations.CanTransmitQueue
  refine ⟨?queued, ?format, ?full, ?attempt, ?none⟩
  case queued =>
    intro s r p w ha hok hhost hall
    refine ⟨_, (exec_canTxGo ha).trans (congrArg _ (canTxCmd_queued hok hhost hall)), ?_, (can_setTxRes ..).2, fun hstay => ?_, fun hw hsleep => ?_⟩
    · rw [(can_setTxRes ..).1, can_txQueue, txEntry]
      split <;> rfl
    · rw [txQueue_unwoken hstay]
      rfl
    · exact txQueue_wakes hw hsleep
  case format => exact fun s r p w ha hbad => (exec_canTxGo ha).trans (congrArg _ (canTxCmd_format hbad))
  case full => exact fun s r p w ha hok hfull => (exec_canTxGo ha).trans (congrArg _ (canTxCmd_full hok hfull))
  case attempt =>
    intro s p x hruns hmode herr hbusy hsw hx
    have hcan : (tdvMeasure p x.frame (inTransmission p x s)).can p = (inTransmission p x s).can p := (tdvMeasure_frame ..).unchanged (State.can · p)
    refine ⟨_, congrArg Host.Outcome.next (attemptStart_runs hruns hmode herr hbusy hsw hx), ?_, ?_, fun htdc => ?_, (attempt_frame p x s).rest,
      fun a h => (attempt_frame p x s).rd a h⟩
    · rw [hcan, can_inTransmission]
    · rw [hcan, can_inTransmission]
      rfl
    · rw [tdvMeasure_off (s := inTransmission p x s) htdc]
      rfl
  case none => exact fun s p h => congrArg Host.Outcome.next (attemptStart_not h)

end Sys2Proof.Machine
end

section
/-! PROOFS. FLUSH of a transmit queue (R310): the entries that it abandons, the one that it marks, and those that it leaves. -/

namespace Sys2Proof.Machine

set_option Elab.async false

section Abandon

variable {s : State} {p why : Nat}

theorem can_txDrop (p id : Nat) (s : State) : (txDrop p id s).can p =
    { s.can p with txq := (s.can p).txq.filter fun y => y.id ≠ id, att := if (s.can p).att = some id then none else (s.can p).att } := can_modCan s p _

theorem cans_ctxResume (c pc : Nat) (s : State) : (ctxResume c pc s).cans = s.cans := by
  rw [ctxResume, State.modCtx_cans, ctxState, State.put_cans, State.put_cans]

/-- The context or the time unit learns of the end of an entry, the ports nothing more. -/
theorem cans_txOutcome (x : TxEnt) (ok : Bool) (s : State) : (txOutcome x ok s).cans = s.cans := by
  unfold txOutcome
  split
  · split
    · rw [cans_ctxResume, State.modCtx_cans]
    · rfl
  · split
    · rfl
    · simp
  · rfl

theorem cans_alonePut (p : Nat) (s : State) : (alonePut p s).cans = s.cans := by
  unfold alonePut
  split
  · simp
  · rfl

/-- Of the ports an abandoned entry changes only its place in the queue. -/
theorem cans_txAbandon (p why : Nat) (x : TxEnt) (s : State) : (txAbandon p why x s).cans = (txDrop p x.id s).cans := by
  unfold txAbandon
  extract_lets s1 s2
  have h2 : s2.cans = s1.cans := by
    unfold s2
    split
    · simp [cans_alonePut]
    · simp [aloneRestart]
  rw [cans_txOutcome, entRecord, (canRecord_frame ..).unchanged State.cans, h2]

theorem can_txAbandon (p why : Nat) (x : TxEnt) (s : State) : (txAbandon p why x s).can p =
    { s.can p with txq := (s.can p).txq.filter fun y => y.id ≠ x.id, att := if (s.can p).att = some x.id then none else (s.can p).att } := by
  rw [State.can, cans_txAbandon, ← State.can, can_txDrop]

/-- The entries that are left when those of a list have been abandoned. -/
theorem mem_txq_abandoned (l : List TxEnt) (s : State) (y : TxEnt) :
    y ∈ ((s.each l (txAbandon p why)).can p).txq ↔ y ∈ (s.can p).txq ∧ ∀ x ∈ l, y.id ≠ x.id := by
  induction l generalizing s with
  | nil => simp
  | cons x l ih =>
    rw [each_cons, ih, can_txAbandon]
    simp [and_assoc]

end Abandon

section Flush

variable {s : State} {p why : Nat} {f : TxEnt → Bool} {x y : TxEnt}

/-- An entry as FLUSH leaves it: marked when it is in an attempt (R310). -/
def flushMarked (why : Nat) (f : TxEnt → Bool) (att : Option Nat) (x : TxEnt) : TxEnt := if f x && att = some x.id then { x with flush := some why } else x

theorem id_flushMarked (att : Option Nat) (x : TxEnt) : (flushMarked why f att x).id = x.id := by
  unfold flushMarked
  split <;> rfl

theorem src_flushMarked (att : Option Nat) (x : TxEnt) : (flushMarked why f att x).src = x.src := by
  unfold flushMarked
  split <;> rfl

/-- The entries that a flush leaves: every one that is in no attempt and that `f` selects goes, with all of its number. -/
theorem mem_txq_txFlush : y ∈ ((txFlush p why f s).can p).txq ↔
    y ∈ (s.can p).txq.map (flushMarked why f (s.can p).att) ∧
      ∀ x ∈ (s.can p).txq.map (flushMarked why f (s.can p).att), f x = true → (s.can p).att ≠ some x.id → y.id ≠ x.id := by
  rw [txFlush, txFlushIdle, mem_txq_abandoned, can_modCan]
  show y ∈ (s.can p).txq.map (flushMarked why f (s.can p).att) ∧
    (∀ x ∈ ((s.can p).txq.map (flushMarked why f (s.can p).att)).filter (fun x => f x && (s.can p).att ≠ some x.id), y.id ≠ x.id) ↔ _
  simp only [List.mem_filter, Bool.and_eq_true, decide_eq_true_eq, and_imp]

end Flush

section Place

variable {s : State} {p c : Nat}

theorem can_setXfer (c : Nat) (w : XferW) (s : State) (p : Nat) : (setXfer c w s).can p = s.can p := rfl

/-- With room a frame of a transfer is queued at once (R391). -/
theorem xferQueue_room {w : XferW} {f : Sys2Proof.Frame} (h : txLevel s (s.get (.CTX_PARTNER_PORT c)) < 32) : xferQueue c w f s =
    setXfer c { w with todo := none } (txQueue (s.get (.CTX_PARTNER_PORT c)) (.hoist c) 0 (0x8000 + c) false f s) := if_pos h

theorem xferQueue_full {w : XferW} {f : Sys2Proof.Frame} (h : ¬ txLevel s (s.get (.CTX_PARTNER_PORT c)) < 32) : xferQueue c w f s =
    setXfer c { w with todo := some f } s := if_neg h

/-- From `s` to `t` entries of contexts, and no others, have come to the end of the queue of port `p`. -/
def hoistAppended (p : Nat) (s t : State) : Prop := ∃ l, (t.can p).txq = (s.can p).txq ++ l ∧ ∀ x ∈ l, x.src.isHost = false

theorem hoistAppended.refl (p : Nat) (s : State) : hoistAppended p s s := ⟨[], by simp, by simp⟩

theorem hoistAppended.trans {t u : State} (h : hoistAppended p s t) (k : hoistAppended p t u) : hoistAppended p s u := by
  obtain ⟨l, hl, hhost⟩ := h
  obtain ⟨m, hm, khost⟩ := k
  exact ⟨l ++ m, by rw [hm, hl, List.append_assoc], fun x hx => (List.mem_append.mp hx).elim (hhost x) (khost x)⟩

theorem xferQueue_appends (w : XferW) (f : Sys2Proof.Frame) (hp : s.get (.CTX_PARTNER_PORT c) = p) : hoistAppended p s (xferQueue c w f s) := by
  subst hp
  by_cases hroom : txLevel s (s.get (.CTX_PARTNER_PORT c)) < 32
  · refine ⟨[txEntry s (s.get (.CTX_PARTNER_PORT c)) (.hoist c) 0 (0x8000 + c) false f], ?_, by simp [txEntry, TxSrc.isHost]⟩
    rw [xferQueue_room hroom, can_setXfer, can_txQueue]
  · rw [xferQueue_full hroom]
    exact .refl _ s

theorem xferPlace_appends (hp : s.get (.CTX_PARTNER_PORT c) = p) : hoistAppended p s (xferPlace c s) := by
  unfold xferPlace
  split
  · split
    · exact xferQueue_appends _ _ hp
    · exact .refl p s
  · exact .refl p s

/-- Frames that wait take places at the end of the queue. -/
theorem portPlace_appends (p : Nat) (s : State) : hoistAppended p s (portPlace p s) :=
  each_ind (hoistAppended p s) _ _ s (.refl p s) fun c _ t ht => by
    split
    · next hp => exact ht.trans (xferPlace_appends hp)
    · exact ht

end Place

theorem exec_canTxFlush {s : State} {r : Req} {p : Fin 4} (ha : Admitted s r (Reg.CAN_TX_CMD p) Msk.CAN_TX_CMD) :
    exec (.canTxFlush r p) s = .next (portPlace p (txFlush p 5 (fun x => x.src.isHost) s)) :=
  congrArg Host.Outcome.next (regWrite_admitted _ _ _ _ _ _ ha)

/-- Settles O40: a host entry is left only in an attempt, and then marked; a hoist entry shares its number with none that goes. -/
theorem flushAbandonsHostEntries : Obligations.FlushAbandonsHostEntries := by
  unfold Obligations.FlushAbandonsHostEntries
  intro s r p ha hids
  obtain ⟨l, hl, hhoist⟩ := portPlace_appends p (txFlush p 5 (fun x => x.src.isHost) s)
  refine ⟨_, exec_canTxFlush ha, fun y hy hhost => ?host, fun x hx hsrc => ?hoist⟩
  case host =>
    have hleft : y ∈ ((txFlush p 5 (fun x => x.src.isHost) s).can p).txq := by
      rw [hl] at hy
      refine (List.mem_append.mp hy).resolve_right fun h => ?_
      exact absurd (hhost.symm.trans (hhoist y h)) (by decide)
    obtain ⟨hmark, hother⟩ := mem_txq_txFlush.mp hleft
    have hatt : (s.can p).att = some y.id := not_not.mp fun h => hother y hmark hhost h rfl
    obtain ⟨x, -, rfl⟩ := List.mem_map.mp hmark
    rw [src_flushMarked] at hhost
    refine ⟨hatt, ?_⟩
    rw [id_flushMarked] at hatt
    simp [flushMarked, hhost, hatt]
  case hoist =>
    have hno : x.src.isHost = false := by
      cases hs : x.src <;> simp_all [TxSrc.isHoist, TxSrc.isHost]
    have hkept : flushMarked 5 (fun x => x.src.isHost) (s.can p).att x = x := by simp [flushMarked, hno]
    rw [hl]
    refine List.mem_append_left _ (mem_txq_txFlush.mpr ⟨List.mem_map.mpr ⟨x, hx, hkept⟩, fun y hy hhost _ hid => ?_⟩)
    obtain ⟨z, hz, rfl⟩ := List.mem_map.mp hy
    rw [src_flushMarked] at hhost
    rw [id_flushMarked] at hid
    have hne : x ≠ z := fun e => absurd (hno.symm.trans (e ▸ hhost)) (by decide)
    have hsymm : Std.Symm fun x y : TxEnt => x.id ≠ y.id := ⟨fun _ _ => Ne.symm⟩
    exact hids.forall hx hz hne hid

end Sys2Proof.Machine
end

section
/-! PROOFS. How a context that waits goes on (R334, R376, R353, R351): what a resumption shows and leaves, and the ends of waits that it makes. -/

namespace Sys2Proof.Machine

set_option Elab.async false

/-- `s` with its registers and its contexts taken from `t`. -/
def ctxsFrom (s t : State) : State := { s with regs := t.regs, ctxs := t.ctxs }

/-- A field outside the status register of context `c`. -/
def offStat (c : Nat) (g : FldRef) : Prop := g.a ≠ Reg.CTX_STAT c

variable {P : FldRef → Prop} {s : State} {c pc : Nat}

section Resume

theorem modCtx_ctxs (s : State) (c : Nat) (F : CtxSt → CtxSt) : Frame ctxsFrom P s (s.modCtx c F) := .of_regs rfl rfl

theorem ctx_put (f : FldRef) (v : Nat) (s : State) (c : Nat) : (s.put f v).ctx c = s.ctx c := by rw [State.ctx, State.put_ctxs, ← State.ctx]

theorem ctxState_stat (st on : Nat) (s : State) : Frame regsFrom (offStat c) s (ctxState c st on s) :=
  ((Frame.refl s).put (.CTX_STAT_STATE c) _ fun _ hg => hg).put (.CTX_STAT_WAIT_ON c) _ fun _ hg => hg

theorem ctxResume_frame (c pc : Nat) (s : State) : Frame ctxsFrom (offStat c) s (ctxResume c pc s) :=
  ((ctxState_stat stReady 0 s).mono fun _ => id).trans (modCtx_ctxs _ c _)

theorem get_ctxState (st on : Nat) (s : State) : (ctxState c st on s).get (.CTX_STAT_STATE c) = st % 16 ∧
    (ctxState c st on s).get (.CTX_STAT_WAIT_ON c) = on % 16 := by
  rw [ctxState, get_put_apart _ _ _ _ (by simp) (by simp) (by simp [FldRef.apart]), get_put _ _ _ (by simp) (by simp), get_put _ _ _ (by simp) (by simp)]
  exact ⟨rfl, rfl⟩

/-- The fields of the status register below the state and its cause stay. -/
theorem get_ctxState_low (st on : Nat) (s : State) {g : FldRef} (hg : g.hi < 24) : (ctxState c st on s).get g = s.get g := by
  rw [ctxState, get_put_apart _ _ _ _ (by simp) (by omega) (.inr (.inr hg)), get_put_apart _ _ _ _ (by simp) (by omega) (.inr (.inr (by show g.hi < 28; omega)))]

theorem get_ctxResume_low (pc : Nat) (s : State) {g : FldRef} (hg : g.hi < 24) : (ctxResume c pc s).get g = s.get g := by
  rw [ctxResume, State.modCtx_get, get_ctxState_low _ _ _ hg]

theorem state_ctxResume (c pc : Nat) (s : State) : (ctxResume c pc s).get (.CTX_STAT_STATE c) = stReady := by
  rw [ctxResume, State.modCtx_get, (get_ctxState _ _ _).1]
  rfl

theorem ctx_ctxResume (c pc : Nat) (s : State) : (ctxResume c pc s).ctx c = { s.ctx c with wait := .none, pc := pc } := by
  rw [ctxResume, ctx_modCtx, ctx_ctxState]

/-- A context that waits is on no engine, so that going on makes it READY (R334). -/
theorem goOn_waiting (h : s.get (.CTX_STAT_STATE c) = stWaiting) : goOn c pc s = ctxResume c pc s := if_neg (by rw [h]; decide)

end Resume

section Time

/-- A time or a timer that a context waited for has come (R376). -/
theorem waitExpiry_time {d : Nat} (hst : s.get (.CTX_STAT_STATE c) = stWaiting) (hw : (s.ctx c).wait = .time d) :
    waitExpiry c s = if d ≤ now s then ctxResume c (s.ctx c).pc s else s := by
  unfold waitExpiry
  rw [if_neg (by rw [hst]; decide), hw]

theorem waitExpiry_timer {i : Nat} (hst : s.get (.CTX_STAT_STATE c) = stWaiting) (hw : (s.ctx c).wait = .timer i) :
    waitExpiry c s = if timerRuns s c i then s else ctxResume c (s.ctx c).pc s := by
  unfold waitExpiry
  rw [if_neg (by rw [hst]; decide), hw]

theorem waitExpiry_idle (hst : s.get (.CTX_STAT_STATE c) ≠ stWaiting) : waitExpiry c s = s := if_pos hst

/-- A context that goes on where it stopped. -/
theorem resumed_spec {t : State} (ht : t = ctxResume c (s.ctx c).pc s) : t.get (.CTX_STAT_STATE c) = stReady ∧ t.ctx c = { s.ctx c with wait := .none } ∧
    t = { s with regs := t.regs, ctxs := t.ctxs } ∧ ∀ a, a ≠ Reg.CTX_STAT c → rd t a = rd s a := by
  subst ht
  exact ⟨state_ctxResume .., ctx_ctxResume .., (ctxResume_frame ..).rest, fun a ha => (ctxResume_frame ..).rd a ha⟩

end Time

section Backoff

theorem backoffExpiry_due {d : Nat} {b : Bool} (hst : s.get (.CTX_STAT_STATE c) = stWaiting) (hw : (s.ctx c).wait = .backoff d b) (hd : d ≤ clk s) :
    backoffExpiry c s = backoffEnd c b s := by
  unfold backoffExpiry
  rw [hw]
  exact if_pos ⟨hst, hd⟩

theorem backoffExpiry_early {d : Nat} {b : Bool} (hw : (s.ctx c).wait = .backoff d b) (h : s.get (.CTX_STAT_STATE c) ≠ stWaiting ∨ clk s < d) :
    backoffExpiry c s = s := by
  unfold backoffExpiry
  rw [hw]
  exact if_neg fun hgo => h.elim (fun hst => hst hgo.1) fun hd => absurd hgo.2 (by omega)

/-- The inbox is emptied unless KEEP (R351). -/
def inboxKept (c : Nat) (s : State) : State := if s.is (.CTX_RETRY_KEEP c) then s else s.modCtx c fun x => { x with inbox := [] }

theorem inboxKept_frame (c : Nat) (s : State) : Frame ctxsFrom P s (inboxKept c s) := .ite (fun _ => .refl s) fun _ => modCtx_ctxs s c _

theorem ctx_inboxKept (c : Nat) (s : State) : (inboxKept c s).ctx c =
    { s.ctx c with inbox := if s.is (.CTX_RETRY_KEEP c) then (s.ctx c).inbox else [] } := by
  unfold inboxKept
  split
  · rfl
  · rw [ctx_modCtx]

/-- A retry resumes at the retry point (R351). -/
theorem backoffEnd_retry {b : Bool} (h : b = false ∨ s.get (.CTX_RESYNC_ADDR c) = 0) : backoffEnd c b s = ctxResume c (s.ctx c).retryPt (inboxKept c s) := by
  refine if_neg ?_
  rintro ⟨hb, ha⟩
  exact h.elim (fun h => by simp [h] at hb) ha

/-- With RESYNC the routine begins, with the retry point's offset in V15 (R351, R375). -/
def resyncBegun (c : Nat) (s : State) : State :=
  (setV c 15 (wd (offOf s c (s.ctx c).retryPt)) (inboxKept c s)).modCtx c fun x => { x with inResync := true, resyncRet := x.retryPt }

theorem backoffEnd_resync (h : s.get (.CTX_RESYNC_ADDR c) ≠ 0) : backoffEnd c true s = ctxResume c (s.get (.CTX_RESYNC_ADDR c)) (resyncBegun c s) :=
  if_pos ⟨rfl, h⟩

theorem ctx_resyncBegun (c : Nat) (s : State) : (resyncBegun c s).ctx c =
    { s.ctx c with
      inResync := true, resyncRet := (s.ctx c).retryPt, inbox := if s.is (.CTX_RETRY_KEEP c) then (s.ctx c).inbox else [] } := by
  have hset (w : Word) (u : State) : (setV c 15 w u).ctx c = u.ctx c := by rw [State.ctx, setV, wr_ctxs, ← State.ctx]
  rw [resyncBegun, ctx_modCtx, hset, ctx_inboxKept]

theorem resyncBegun_frame (c : Nat) (s : State) : Frame ctxsFrom (fun g => g.a ≠ Reg.CTX_V c 15) s (resyncBegun c s) :=
  ((inboxKept_frame c s).wr (Reg.CTX_V c 15) _ fun _ hg => hg).trans (modCtx_ctxs _ c _)

theorem v15_resyncBegun (c : Nat) (s : State) : getV (resyncBegun c s) c 15 = wd (offOf s c (s.ctx c).retryPt) := by
  rw [getV, resyncBegun, State.modCtx_rd, setV, rd_wr_same]

end Backoff

section Commit

/-- A record has committed: it shows, and a ONCE step opens (R353, R354). -/
def ckptShown (c : Nat) (r : Ckpt) (s : State) : State := if r.once then onceOpens c (showCkpt c r s) else showCkpt c r s

theorem checkpointCommitted_done {r : Ckpt} (hst : s.get (.CTX_STAT_STATE c) = stWaiting) (hw : (s.ctx c).wait = .commit) (hc : ckptCommitted s c = true)
    (hr : (s.ctx c).ckpt = some r) : checkpointCommitted c s = ctxResume c (s.ctx c).pc (ckptShown c r s) := by
  unfold checkpointCommitted
  rw [if_pos ⟨hst, hw, hc⟩, hr]
  rfl

theorem checkpointCommitted_not (h : s.get (.CTX_STAT_STATE c) ≠ stWaiting ∨ (s.ctx c).wait ≠ .commit ∨ ckptCommitted s c = false) :
    checkpointCommitted c s = s := by
  refine if_neg ?_
  rintro ⟨hst, hw, hc⟩
  rcases h with h | h | h
  exacts [h hst, h hw, by simp [h] at hc]

theorem showCkpt_frame (c : Nat) (r : Ckpt) (s : State) : Frame ctxsFrom (fun g => g.a ≠ Reg.CTX_CKPT c) s (showCkpt c r s) :=
  (((Frame.refl s).put (.CTX_CKPT_VALID c) _ fun _ hg => hg).put (.CTX_CKPT_ONCE c) _ fun _ hg => hg).put (.CTX_CKPT_OFFSET c) _ fun _ hg => hg

theorem onceOpens_frame (c : Nat) (s : State) : Frame ctxsFrom (offStat c) s (onceOpens c s) :=
  ((Frame.refl s).put (.CTX_STAT_ONCE_OPEN c) _ fun _ hg => hg).trans (modCtx_ctxs _ c _)

theorem get_showCkpt (r : Ckpt) (s : State) : (showCkpt c r s).is (.CTX_CKPT_VALID c) = true ∧ (showCkpt c r s).is (.CTX_CKPT_ONCE c) = r.once ∧
    (showCkpt c r s).get (.CTX_CKPT_OFFSET c) = offOf s c r.pc % 2 ^ 24 := by
  refine ⟨beq_iff_eq.mpr ?_, ?_, ?_⟩
  · rw [showCkpt, State.putB, get_put_apart _ _ _ _ (by simp) (by simp) (by simp [FldRef.apart]),
      get_put_apart _ _ _ _ (by simp) (by simp) (by simp [FldRef.apart]), get_put _ _ _ (by simp) (by simp)]
    simp
  · rw [showCkpt, State.is, get_put_apart _ _ _ _ (by simp) (by simp) (by simp [FldRef.apart]), get_putB _ _ _ (by simp) (by simp)]
    cases r.once <;> rfl
  · rw [showCkpt, get_put _ _ _ (by simp) (by simp)]
    rfl

/-- What the record shows stays when a ONCE step opens, which shows too. -/
theorem ckptShown_spec (c : Nat) (r : Ckpt) (s : State) : Frame ctxsFrom (fun g => offStat c g ∧ g.a ≠ Reg.CTX_CKPT c) s (ckptShown c r s) ∧
    (∀ g : FldRef, offStat c g → (ckptShown c r s).get g = (showCkpt c r s).get g) ∧
    (r.once = true → (ckptShown c r s).get (.CTX_STAT_ONCE_OPEN c) = 1 ∧ ((ckptShown c r s).ctx c).retryPre = true) := by
  have hshow : Frame ctxsFrom (fun g => offStat c g ∧ g.a ≠ Reg.CTX_CKPT c) s (showCkpt c r s) := (showCkpt_frame c r s).mono fun _ => And.right
  unfold ckptShown
  split
  · refine ⟨hshow.trans ((onceOpens_frame c _).mono fun _ => And.left), fun g hg => (onceOpens_frame c _).get g hg, fun _ => ⟨?_, ?_⟩⟩
    · rw [onceOpens, State.modCtx_get, get_set1 _ _ (by simp) (by simp)]
    · rw [onceOpens, ctx_modCtx]
  · next hno => exact ⟨hshow, fun _ _ => rfl, fun h => absurd h hno⟩

end Commit

section Unblock

theorem unblock_not (h : s.get (.CTX_STAT_STATE c) ≠ stBlocked ∨ s.get (.CTX_STAT_WAIT_ON c) = 10 ∨ resourceFree s c = false ∨ firstBlocked s c = false) :
    unblock c s = s := by
  refine if_neg ?_
  rintro ⟨hst, hon, hfree, hfirst⟩
  rcases h with h | h | h | h
  exacts [h hst, hon h, by simp [h] at hfree, by simp [h] at hfirst]

/-- The context is READY and keeps what it waits for (R335). -/
theorem ctxReady_spec (c : Nat) (s : State) : (ctxReady c s).get (.CTX_STAT_STATE c) = stReady ∧ (ctxReady c s).get (.CTX_STAT_WAIT_ON c) = 0 ∧
    Frame regsFrom (offStat c) s (ctxReady c s) :=
  ⟨(get_ctxState _ _ s).1, (get_ctxState _ _ s).2, ctxState_stat stReady 0 s⟩

end Unblock

end Sys2Proof.Machine
end

section
/-! PROOFS. The inbox of a context and an EXPECT that its frame or its timeout decides (R344, R346 to R350). -/

namespace Sys2Proof.Machine

set_option Elab.async false

variable {s : State} {c : Nat}

section Inbox

variable {e : RxEnt}

/-- The entry that a frame makes in an inbox, and the state in which it stands there (R344). -/
def inboxEntry (s : State) (e : RxEnt) : RxEnt := { cutFrame e with at_ := clk s }
def inboxTaken (c : Nat) (e : RxEnt) (s : State) : State := s.modCtx c fun x => { x with inbox := x.inbox ++ [inboxEntry s e] }

theorem inboxPut_taken (hrun : inRun s c = true) (hlen : (s.ctx c).inbox.length < 4) : inboxPut c e s = inboxTaken c e s := if_pos ⟨hrun, hlen⟩

theorem inboxPut_dropped (h : inRun s c = false ∨ 4 ≤ (s.ctx c).inbox.length) : inboxPut c e s = s.addSat (.CTX_CNT_RX_DROP c) 1 := by
  refine if_neg ?_
  rintro ⟨hrun, hlen⟩
  exact h.elim (fun h => by simp [h] at hrun) fun h => by omega

/-- A context at no EXPECT has none whose timeout could have passed. -/
theorem noteOver_noExpect (h : waitsExpect s c = false) : noteOver c s = s := by
  unfold noteOver
  split
  · next w hw => simp [waitsExpect, hw] at h
  · rfl

theorem noteOver_inTime {w : ExpectW} (hw : (s.ctx c).wait = .expect w) (h : expectPast s c w = false) : noteOver c s = s := by
  unfold noteOver
  rw [hw]
  exact if_neg fun hgo => by simp [h] at hgo

/-- A context that does not listen evaluates nothing (R345). -/
theorem pump_deaf (n : Nat) (h : listening s c = false) : pump c n s = s := by
  cases n with
  | zero => rfl
  | succ n => exact if_pos (by rw [h]; decide)

theorem listening_congr {t : State} (h : ∀ g : FldRef, g.a = Reg.CTX_STAT c → t.get g = s.get g) : listening t c = listening s c := by
  unfold listening
  rw [h (.CTX_STAT_STATE c) rfl, h (.CTX_STAT_WAIT_ON c) rfl]

theorem listening_inboxPut (e : RxEnt) (s : State) : listening (inboxPut c e s) c = listening s c := by
  refine listening_congr fun g hg => ?_
  unfold inboxPut
  split
  · rfl
  · exact get_put_ne _ _ _ _ (by simp only [hg, Reg.CTX_STAT, Reg.CTX_CNT]; omega)

/-- A frame for a context that evaluates nothing only enters its inbox, or is dropped. -/
theorem ctxFrame_deaf (hl : listening s c = false) (hw : waitsExpect s c = false) : ctxFrame c e s = inboxPut c e s := by
  rw [ctxFrame, noteOver_noExpect hw]
  exact pump_deaf 8 (by rw [listening_inboxPut, hl])

theorem exec_ctxInboxFrame {c : Fin 160} {p : Fin 4} {k : Fin 64} {x : Sys2Proof.Frame} (hruns : canRuns s p = true) (hok : frameOk x = true)
    (hdec : canDecodes s p x = true) (hd : (3, c.val, k.val, false) ∈ deliveries s p x) : exec (.ctxInboxFrame c p k x) s =
    .next (ctxFrame c { frame := { x with ts := now s % 2 ^ 48 }, len := x.data.length, port := p, filter := k } s) :=
  congrArg Host.Outcome.next (if_pos ⟨hruns, hok, hdec, hd⟩)

theorem exec_ctxInboxFrame_other {c : Fin 160} {p : Fin 4} {k : Fin 64} {x : Sys2Proof.Frame} (h : canRuns s p = false ∨ frameOk x = false ∨
    canDecodes s p x = false ∨ (3, c.val, k.val, false) ∉ deliveries s p x) : exec (.ctxInboxFrame c p k x) s = .next s := by
  refine congrArg Host.Outcome.next (if_neg ?_)
  rintro ⟨hruns, hok, hdec, hd⟩
  rcases h with h | h | h | h
  exacts [by simp [h] at hruns, by simp [h] at hok, by simp [h] at hdec, h hd]

end Inbox

section Outcome

variable {o : Nat}

theorem onOutcome_none (ho : o ≠ ocMatch) (hr : o ≠ ocRestart) : onOutcome c o none s = s.put (.CTX_STAT_LAST_OUT c) o := by
  unfold onOutcome
  rw [if_neg ho, if_neg fun h => hr h.1]

/-- TX_SEQ after MATCH: it advances when it waits for that (R382). -/
def seqAdvanced (waits : Bool) (c : Nat) (s : State) : State := if waits then advanceTx c s else s

theorem seqAdvanced_frame (waits : Bool) (c : Nat) (s : State) : Frame regsFrom (fun g => g.a ≠ Reg.CTX_SEQ c) s (seqAdvanced waits c s) :=
  .ite (fun _ => (Frame.refl s).put (.CTX_SEQ_TX_SEQ c) _ fun _ hg => hg) fun _ => .refl s

/-- MATCH begins the retries anew (R351). -/
theorem onOutcome_match (c : Nat) (s : State) : onOutcome c ocMatch none s =
    (seqAdvanced (s.ctx c).p c (s.put (.CTX_STAT_LAST_OUT c) ocMatch)).modCtx c fun x => { x with k := 0, p := false } := by
  unfold onOutcome
  rw [if_pos rfl]
  rfl

/-- What MATCH leaves, and shows as the last outcome. -/
theorem onOutcome_match_spec (c : Nat) (s : State) : Frame ctxsFrom (fun g => offStat c g ∧ g.a ≠ Reg.CTX_SEQ c) s (onOutcome c ocMatch none s) ∧
    (onOutcome c ocMatch none s).get (.CTX_STAT_LAST_OUT c) = ocMatch ∧
    (onOutcome c ocMatch none s).get (.CTX_STAT_STATE c) = s.get (.CTX_STAT_STATE c) ∧
    (onOutcome c ocMatch none s).ctx c = { s.ctx c with k := 0, p := false } := by
  have h := onOutcome_match c s
  have hF := seqAdvanced_frame (s.ctx c).p c (s.put (.CTX_STAT_LAST_OUT c) ocMatch)
  have hstat (g : FldRef) (hg : g.a = Reg.CTX_STAT c) : (onOutcome c ocMatch none s).get g = (s.put (.CTX_STAT_LAST_OUT c) ocMatch).get g := by
    rw [h, State.modCtx_get, hF.get g (by simp only [hg, Reg.CTX_STAT, Reg.CTX_SEQ]; omega)]
  refine ⟨?_, ?_, ?_, ?_⟩
  · have hput : Frame ctxsFrom (fun g => offStat c g ∧ g.a ≠ Reg.CTX_SEQ c) s (s.put (.CTX_STAT_LAST_OUT c) ocMatch) :=
      (Frame.refl s).put _ _ fun _ hg => hg.1
    rw [h]
    exact (hput.trans (hF.mono fun _ hg => hg.2)).trans (modCtx_ctxs _ c _)
  · rw [hstat _ rfl, get_put _ _ _ (by simp) (by simp)]
    rfl
  · rw [hstat _ rfl, get_put_apart _ _ _ _ (by simp) (by simp) (by simp [FldRef.apart])]
  · rw [h, ctx_modCtx, State.ctx, hF.unchanged State.ctxs, ← State.ctx, ctx_put]

end Outcome

section Expect

variable {w : ExpectW}

/-- CONTINUE goes on after the EXPECT, with the frame that decided as the current one (R350). -/
theorem expectAct_continue {j : Nat} (e : Option RxEnt) (hact : actionOf (dw (w.descs.getD (if o = ocUnexpected then 0 else j) []) 6) o = 0)
    (hd : w.dreg = none) (hst : s.get (.CTX_STAT_STATE c) = stWaiting) : expectAct c w o j e s =
      ctxResume c w.next (match e with
        | some f => s.modCtx c (fun x => { x with cur := some f })
        | none => s) := by
  have hst' : (match e with | some f => s.modCtx c (fun x => { x with cur := some f }) | none => s).get (.CTX_STAT_STATE c) = stWaiting := by
    split <;> simp [hst]
  unfold expectAct
  rw [hact, hd]
  dsimp only
  rw [if_neg fun h => absurd h.1 (by decide), if_pos (by decide), if_pos rfl]
  exact goOn_waiting hst'

theorem expectAct_timeout_continue (hact : actionOf (dw (w.descs.getD 0 []) 6) ocTimeout = 0) (hd : w.dreg = none)
    (hst : s.get (.CTX_STAT_STATE c) = stWaiting) : expectAct c w ocTimeout 0 none s = ctxResume c w.next s :=
  expectAct_continue none (by rw [ite_self, hact]) hd hst

theorem expectTimeoutDue_due (hst : s.get (.CTX_STAT_STATE c) = stWaiting) (hw : (s.ctx c).wait = .expect w) (hdue : expectDue s c w = true) :
    expectTimeoutDue c s = expectAct c w ocTimeout 0 none (onOutcome c ocTimeout none s) := by
  unfold expectTimeoutDue
  rw [hw]
  exact if_pos ⟨hst, hdue⟩

/-- TIMEOUT under CONTINUE goes on after the EXPECT (R350). -/
theorem expectTimeoutDue_continue (hst : s.get (.CTX_STAT_STATE c) = stWaiting) (hw : (s.ctx c).wait = .expect w) (hdue : expectDue s c w = true)
    (hact : actionOf (dw (w.descs.getD 0 []) 6) ocTimeout = 0) (hd : w.dreg = none) :
    expectTimeoutDue c s = ctxResume c w.next (s.put (.CTX_STAT_LAST_OUT c) ocTimeout) := by
  rw [expectTimeoutDue_due hst hw hdue, onOutcome_none (by decide) (by decide), expectAct_timeout_continue hact hd]
  rw [get_put_apart _ _ _ _ (by simp) (by simp) (by simp [FldRef.apart]), hst]

/-- What the EXPECT leaves that goes on after TIMEOUT. -/
theorem timedOut_spec {n : Nat} {t : State} (ht : t = ctxResume c n (s.put (.CTX_STAT_LAST_OUT c) ocTimeout)) : t.get (.CTX_STAT_STATE c) = stReady ∧
    t.get (.CTX_STAT_LAST_OUT c) = ocTimeout ∧ t.ctx c = { s.ctx c with wait := .none, pc := n } ∧ t = { s with regs := t.regs, ctxs := t.ctxs } ∧
      ∀ a, a ≠ Reg.CTX_STAT c → rd t a = rd s a := by
  have hnoted : Frame ctxsFrom (offStat c) s (s.put (.CTX_STAT_LAST_OUT c) ocTimeout) := (Frame.refl s).put _ _ fun _ hg => hg
  have hframe : Frame ctxsFrom (offStat c) s (ctxResume c n (s.put (.CTX_STAT_LAST_OUT c) ocTimeout)) :=
    hnoted.trans (ctxResume_frame ..)
  subst ht
  refine ⟨state_ctxResume .., ?_, ?_, hframe.rest, fun a ha => hframe.rd a ha⟩
  · rw [get_ctxResume_low _ _ (by simp), get_put _ _ _ (by simp) (by simp)]
    rfl
  · rw [ctx_ctxResume, ctx_put]

theorem expectTimeoutDue_early (hw : (s.ctx c).wait = .expect w) (h : s.get (.CTX_STAT_STATE c) ≠ stWaiting ∨ expectDue s c w = false) :
    expectTimeoutDue c s = s := by
  unfold expectTimeoutDue
  rw [hw]
  exact if_neg fun hgo => h.elim (fun hst => hst hgo.1) fun hd => by simp [hd] at hgo

/-- An inbox that holds one frame gives that one for evaluation (R349). -/
theorem expectNext_frame {f : RxEnt} (hi : (s.ctx c).inbox = [f]) (hoff : (s.ctx c).evOff = false) (habs : (s.ctx c).evAbs = false) (hp : w.past = none) :
    expectNext c w s = some (expectFrame c w s) := by
  unfold expectNext nextItem items
  rw [hi, hoff, habs, hp]
  rfl

/-- A frame of which nothing is missing is classified as it is. -/
theorem rxFull_whole {f : RxEnt} (h : rxMissing f = 0) : rxFull s f = f := by
  simp [rxFull, h]

/-- The only descriptor matches, without a check and without a sequence number (R347). -/
theorem classify_match {d : List Word} {f : RxEnt} (hw : w.descs = [d]) (hm : frameMatch d f = true) (hcheck : bitAt (dw d 5) 31 = false)
    (hseq : rxw s c = 0) : classify s c w f = .out ocMatch 0 none := by
  have hfirst : firstMatch 0 [d] f = some 0 := if_pos hm
  have htest : seqTest s c f = (ocMatch, none) := if_pos hseq
  unfold classify
  rw [hw, hfirst]
  show (if bitAt (dw d 5) 31 = true then _ else Verdict.out (seqTest s c f).1 0 (seqTest s c f).2) = _
  rw [hcheck, htest]
  rfl

theorem expectFrame_match {d : List Word} {f : RxEnt} (hi : (s.ctx c).inbox = [f]) (hwhole : rxMissing f = 0) (hw : w.descs = [d])
    (hm : frameMatch d f = true) (hcheck : bitAt (dw d 5) 31 = false) (hseq : rxw s c = 0) : expectFrame c w s =
      expectAct c w ocMatch 0 (some f) (onOutcome c ocMatch none (s.modCtx c fun x => { x with inbox := [] })) := by
  unfold expectFrame
  rw [hi]
  dsimp only
  rw [rxFull_whole hwhole, classify_match hw hm hcheck hseq, hwhole]
  rfl

end Expect

end Sys2Proof.Machine
end

section
/-! PROOFS. The timers of a transfer (R392 to R394): its next consecutive frame, and the TIMEOUT that abandons its frames. -/

namespace Sys2Proof.Machine

set_option Elab.async false

variable {s : State} {c : Nat} {w : XferW}

section Timer

theorem xferTimerExpiry_due {d : Nat} (hst : s.get (.CTX_STAT_STATE c) = stWaiting) (hw : (s.ctx c).wait = .xfer w) (hd : w.deadline = some d)
    (hdue : d ≤ clk s) : xferTimerExpiry c s = xferTimer c w s := by
  unfold xferTimerExpiry
  rw [hw]
  dsimp only
  rw [hd]
  exact if_pos ⟨hst, hdue⟩

theorem xferTimerExpiry_none (hw : (s.ctx c).wait = .xfer w) (h : w.deadline = none ∨ s.get (.CTX_STAT_STATE c) ≠ stWaiting) : xferTimerExpiry c s = s := by
  unfold xferTimerExpiry
  rw [hw]
  dsimp only
  split
  · next d hd => exact if_neg fun hgo => h.elim (fun hno => by simp [hd] at hno) fun hst => hst hgo.1
  · rfl

theorem xferTimerExpiry_early {d : Nat} (hw : (s.ctx c).wait = .xfer w) (hd : w.deadline = some d) (h : clk s < d) : xferTimerExpiry c s = s := by
  unfold xferTimerExpiry
  rw [hw]
  dsimp only
  rw [hd]
  exact if_neg fun hgo => absurd hgo.2 (by omega)

theorem xferTimer_next (ht : w.tx = true) (hp : w.phase = 4) : xferTimer c w s = xferNextCf c w s := if_pos ⟨ht, hp⟩

theorem xferTimer_reserve (ht : w.tx = false) (hp : w.phase = 11) : xferTimer c w s = xferReserve c w s :=
  (if_neg fun h => by simp [ht] at h).trans (if_pos ⟨by simp [ht], hp⟩)

theorem xferTimer_timeout (h : (w.tx = true ∧ w.phase ≠ 4) ∨ (w.tx = false ∧ w.phase ≠ 11)) :
    xferTimer c w s = xferOut c w ocTimeout false (fun s => s) s := by
  refine (if_neg fun hgo => ?_).trans (if_neg fun hgo => ?_)
  · exact h.elim (fun h => h.2 hgo.2) fun h => by simp [h.1] at hgo
  · exact h.elim (fun h => by simp [h.1] at hgo) fun h => h.2 hgo.2

end Timer

section Next

/-- A consecutive frame takes the transfer on (R392). -/
def cfSent (s : State) (w : XferW) : XferW :=
  { w with phase := 3, deadline := some (clk s + tAs w.desc), buf := w.buf.drop (tDl w.desc - tOff w.desc - 1), sn := (w.sn + 1) % 16,
           left := w.left.map (· - 1), todo := none }

/-- With room in the queue it is queued at once, and the transfer waits for its end. -/
theorem xferNextCf_spec {p n : Nat} (hp : p = s.get (.CTX_PARTNER_PORT c)) (hn : n = tDl w.desc - tOff w.desc - 1) (hroom : txLevel s p < 32) :
    ((xferNextCf c w s).can p).txq = (s.can p).txq ++
      [txEntry s p (.hoist c) 0 (0x8000 + c) false (tFrame s c w.desc (b8 (0x20 + w.sn) :: w.buf.take n))] ∧
    ((xferNextCf c w s).ctx c).wait = .xfer (cfSent s w) := by
  subst hp hn
  rw [xferNextCf, xferQueue_room hroom]
  refine ⟨?_, ?_⟩
  · rw [can_setXfer, can_txQueue]
  · rw [setXfer, ctx_modCtx, cfSent]

end Next

section Timeout

variable {p : Nat} {x : TxEnt}

/-- `s` with what an abandoned entry changes that nothing waits for taken from `t`. -/
def abandonedFrom (s t : State) : State := { queuedFrom s t with cans := t.cans }

/-- A field outside the queues, below the registers of the ports. -/
def offAbandoned (g : FldRef) : Prop := offQueues g ∧ g.a < 0x50000

theorem txOutcome_unawaited (ok : Bool) (hsrc : x.src = .hoist c) (h : (s.ctx c).wait = .none) : txOutcome x ok s = s := by
  unfold txOutcome
  rw [hsrc]
  exact if_neg fun e => by simp [h] at e

/-- An entry that its context does not wait for (R394). -/
theorem txAbandon_unawaited (p : Nat) (hsrc : x.src = .hoist c) (h : (s.ctx c).wait = .none) :
    Frame abandonedFrom offAbandoned s (txAbandon p 5 x s) := by
  have hput (u : State) (g : FldRef) (hg : g.a = Reg.CAN_STAT p) : Frame abandonedFrom offAbandoned u (u.put g 0) :=
    (Frame.refl u).put g 0 fun q hq => by
      obtain ⟨-, hlt⟩ := hq
      simp only [hg, Reg.CAN_STAT]
      omega
  have hdrop : Frame abandonedFrom offAbandoned s (txDrop p x.id s) := .of_regs rfl rfl
  have hrestart : Frame abandonedFrom offAbandoned s (aloneRestart p (txDrop p x.id s)) :=
    (hdrop.trans (hput _ (.CAN_STAT_ALONE_FR p) rfl)).trans (hput _ (.CAN_STAT_ACK_RUN p) rfl)
  have hrecord : Frame abandonedFrom offAbandoned s (entRecord p 0x02 5 x (x.sof.getD (now s)) (aloneRestart p (txDrop p x.id s))) :=
    hrestart.trans ((canRecord_frame ..).mono fun _ => And.left)
  have hwait : ((entRecord p 0x02 5 x (x.sof.getD (now s)) (aloneRestart p (txDrop p x.id s))).ctx c).wait = .none := by
    rw [hrecord.unchanged (State.ctx · c), h]
  rw [txAbandon, if_neg (by decide), txOutcome_unawaited _ hsrc hwait]
  exact hrecord

theorem xferFlush_frame (h : (s.ctx c).wait = .none) : Frame abandonedFrom offAbandoned s (xferFlush c s) := by
  refine each_ind (Frame abandonedFrom offAbandoned s) _ _ s (.refl s) fun x hx t ht => ?_
  have hsrc : x.src = .hoist c := by
    simp only [List.mem_filter, Bool.and_eq_true, decide_eq_true_eq] at hx
    exact hx.2.1
  exact ht.trans (txAbandon_unawaited _ hsrc (by rw [ht.unchanged (State.ctx · c), h]))

/-- The transfer after TIMEOUT, before it goes on: its frames are abandoned, and a receiver keeps its bytes (R394). -/
def xferTimedOut (c : Nat) (w : XferW) (s : State) : State :=
  (s.put (.CTX_STAT_LAST_OUT c) ocTimeout).modCtx c fun x => { x with wait := .none, resvBytes := if w.tx then x.resvBytes else w.buf }

/-- TIMEOUT under CONTINUE goes on after the transfer (R350, R394). -/
theorem xferOut_timeout_continue (hact : actionOf (dw w.desc 8) ocTimeout = 0) (k : State → State) :
    xferOut c w ocTimeout false k s = goOn c w.next (xferFlush c (xferTimedOut c w s)) := by
  unfold xferOut
  rw [hact, onOutcome_none (by decide) (by decide)]
  dsimp only
  rw [if_neg fun h => absurd h.1 (by decide), if_pos (by decide), if_pos rfl, if_neg (by decide : ¬ ocTimeout = ocMatch), if_neg fun h => absurd h.1 (by decide)]
  rfl

theorem xferOut_timeout_spec (hc : c < 160) (hst : s.get (.CTX_STAT_STATE c) = stWaiting) (hact : actionOf (dw w.desc 8) ocTimeout = 0)
    {t : State} (ht : t = xferOut c w ocTimeout false (fun s => s) s) : t.get (.CTX_STAT_STATE c) = stReady ∧
      t.get (.CTX_STAT_LAST_OUT c) = ocTimeout ∧ (t.ctx c).pc = w.next ∧ (t.ctx c).wait = .none := by
  have hwait : ((xferTimedOut c w s).ctx c).wait = .none := by rw [xferTimedOut, ctx_modCtx]
  have hget (g : FldRef) (hg : g.a = Reg.CTX_STAT c) : (xferFlush c (xferTimedOut c w s)).get g = (s.put (.CTX_STAT_LAST_OUT c) ocTimeout).get g := by
    refine ((xferFlush_frame hwait).get g ⟨?_, by simp only [hg, Reg.CTX_STAT]; omega⟩).trans (State.modCtx_get ..)
    simp only [offQueues, queueReg, hg, Bool.or_eq_false_iff, Bool.and_eq_false_iff, decide_eq_false_iff_not, beq_eq_false_iff_ne, Reg.MOD_IRQ, Reg.CTX_STAT]
    omega
  have hstill : (xferFlush c (xferTimedOut c w s)).get (.CTX_STAT_STATE c) = stWaiting := by
    rw [hget _ rfl, get_put_apart _ _ _ _ (by simp) (by simp) (by simp [FldRef.apart]), hst]
  rw [xferOut_timeout_continue hact, goOn_waiting hstill] at ht
  subst ht
  refine ⟨state_ctxResume .., ?_, by rw [ctx_ctxResume], by rw [ctx_ctxResume]⟩
  rw [get_ctxResume_low _ _ (by simp), hget _ rfl, get_put _ _ _ (by simp) (by simp)]
  rfl

end Timeout

end Sys2Proof.Machine
end

section
/-! PROOFS. A frame that decides an EXPECT (R344 to R350), up to what it shows. -/

namespace Sys2Proof.Machine

set_option Elab.async false

section Waits

variable {s : State} {c : Nat}

/-- Evaluation ends with the EXPECT that it decides. -/
theorem evaluate_expect {w : ExpectW} {t : State} (hl : listening s c = true) (hw : (s.ctx c).wait = .expect w) (hn : expectNext c w s = some t)
    (ht : listening t c = false) : evaluate c s = t := by
  unfold evaluate pump
  rw [if_neg (by rw [hl]; decide), hw]
  dsimp only
  rw [hn]
  exact pump_deaf 7 ht

theorem not_listening_of_ready (h : s.get (.CTX_STAT_STATE c) = stReady) : listening s c = false := by
  unfold listening
  rw [h]
  rfl

/-- What the frame that decides an EXPECT leaves before the context goes on: the inbox empty, MATCH noted, the frame as the current one. -/
def expectMatched (c : Nat) (f : RxEnt) (s : State) : State :=
  (onOutcome c ocMatch none (s.modCtx c fun x => { x with inbox := [] })).modCtx c fun x => { x with cur := some f }

/-- A frame that matches the only descriptor of an EXPECT, without a check or a number to test, and with CONTINUE for MATCH (R347, R350). -/
theorem ctxFrame_match {w : ExpectW} {d : List Word} {e : RxEnt} (hst : s.get (.CTX_STAT_STATE c) = stWaiting) (hon : s.get (.CTX_STAT_WAIT_ON c) = 2)
    (hw : (s.ctx c).wait = .expect w) (hd : w.descs = [d]) (hreg : w.dreg = none) (hpast : w.past = none) (htime : expectPast s c w = false)
    (hinbox : (s.ctx c).inbox = []) (hoff : (s.ctx c).evOff = false) (habs : (s.ctx c).evAbs = false) (hwhole : rxMissing (inboxEntry s e) = 0)
    (hm : frameMatch d (inboxEntry s e) = true) (hcheck : bitAt (dw d 5) 31 = false) (hseq : rxw s c = 0) (hact : actionOf (dw d 6) ocMatch = 0) :
    ctxFrame c e s = ctxResume c w.next (expectMatched c (inboxEntry s e) (inboxTaken c e s)) := by
  have hrun : inRun s c = true := by
    unfold inRun
    rw [hst]
    rfl
  have hctx : (inboxTaken c e s).ctx c = { s.ctx c with inbox := [inboxEntry s e] } := by rw [inboxTaken, ctx_modCtx, hinbox, List.nil_append]
  have hlisten : listening (inboxTaken c e s) c = true := by
    show listening s c = true
    unfold listening
    rw [hst, hon]
    rfl
  have hstill : (onOutcome c ocMatch none ((inboxTaken c e s).modCtx c fun x => { x with inbox := [] })).get (.CTX_STAT_STATE c) = stWaiting :=
    (onOutcome_match_spec c _).2.2.1.trans hst
  have hframe : expectFrame c w (inboxTaken c e s) = ctxResume c w.next (expectMatched c (inboxEntry s e) (inboxTaken c e s)) := by
    rw [expectFrame_match (s := inboxTaken c e s) (by rw [hctx]) hwhole hd hm hcheck hseq, expectAct_continue _ (by rw [hd]; exact hact) hreg hstill]
    rfl
  rw [ctxFrame, noteOver_inTime hw htime, inboxPut_taken hrun (by rw [hinbox]; decide)]
  refine evaluate_expect hlisten (by rw [hctx, hw]) ?_ (not_listening_of_ready (state_ctxResume ..))
  rw [expectNext_frame (f := inboxEntry s e) (by rw [hctx]) (by rw [hctx, hoff]) (by rw [hctx, habs]) hpast, hframe]

/-- What the decided EXPECT shows and leaves. -/
theorem expectMatched_spec {n : Nat} {f : RxEnt} {e : RxEnt} {t : State} (ht : t = ctxResume c n (expectMatched c f (inboxTaken c e s))) :
    t.get (.CTX_STAT_STATE c) = stReady ∧ (t.ctx c).pc = n ∧ (t.ctx c).wait = .none ∧ (t.ctx c).cur = some f ∧ (t.ctx c).inbox = [] ∧
      t.get (.CTX_STAT_LAST_OUT c) = ocMatch ∧ t = { s with regs := t.regs, ctxs := t.ctxs } ∧
      ∀ a, a ≠ Reg.CTX_STAT c → a ≠ Reg.CTX_SEQ c → rd t a = rd s a := by
  subst ht
  obtain ⟨hframe, hlast, -, hctx⟩ := onOutcome_match_spec c ((inboxTaken c e s).modCtx c fun x => { x with inbox := [] })
  have hbegun : Frame ctxsFrom (fun g => offStat c g ∧ g.a ≠ Reg.CTX_SEQ c) s ((inboxTaken c e s).modCtx c fun x => { x with inbox := [] }) :=
    (modCtx_ctxs s c _).trans (modCtx_ctxs _ c _)
  have hall := ((hbegun.trans hframe).trans (modCtx_ctxs _ c fun x => { x with cur := some f })).trans ((ctxResume_frame c n _).mono fun _ hg => hg.1)
  refine ⟨state_ctxResume .., ?_, ?_, ?_, ?_, ?_, hall.rest, fun a h1 h2 => hall.rd a ⟨h1, h2⟩⟩
  · rw [ctx_ctxResume]
  · rw [ctx_ctxResume]
  · rw [ctx_ctxResume, expectMatched, ctx_modCtx]
  · rw [ctx_ctxResume, expectMatched, ctx_modCtx, hctx, ctx_modCtx]
  · rw [get_ctxResume_low _ _ (by simp), expectMatched, State.modCtx_get, hlast]

/-- An entry that is not cut lacks no byte of its frame (R344). -/
theorem rxMissing_uncut {x : Sys2Proof.Frame} {p k : Nat} (h : (cutFrame { frame := x, len := x.data.length, port := p, filter := k }).trunc = false) :
    rxMissing (inboxEntry s { frame := x, len := x.data.length, port := p, filter := k }) = 0 := by
  simp only [cutFrame, Bool.false_or, decide_eq_false_iff_not, not_lt] at h
  simp only [rxMissing, inboxEntry, cutFrame, List.length_take]
  omega

end Waits

end Sys2Proof.Machine
end


section
/-! PROOFS. The statement of contexts that wait (R335, R344 to R354, R376, R392 to R394). -/

namespace Sys2Proof.Machine

set_option Elab.async false

/-- Settles O49: an inbox takes a frame, drops it or decides an EXPECT with it; a wait ends at its time, with its record or its resource, and not before. -/
theorem contextWaits : Obligations.ContextWaits := by
  unfold Obligations.ContextWaits
  refine ⟨?taken, ?dropped, ?decided, ?otherFrame, ?time, ?timer, ?timeEarly, ?timerRuns, ?timeIdle, ?timeout, ?timeoutGoesOn, ?timeoutEarly, ?retry,
    ?resync, ?backoffEarly, ?committed, ?uncommitted, ?unblocked, ?stillBlocked, ?nextFrame, ?reserves, ?xferTimeout, ?xferGoesOn, ?xferIdle, ?xferEarly⟩
  case taken =>
    intro s c p k x hruns hok hdec hd hrun hlen hl hw
    rw [exec_ctxInboxFrame hruns hok hdec hd, ctxFrame_deaf hl hw, inboxPut_taken hrun hlen]
    rfl
  case dropped =>
    intro s c p k x hruns hok hdec hd hfull hl hw
    rw [exec_ctxInboxFrame hruns hok hdec hd, ctxFrame_deaf hl hw, inboxPut_dropped hfull]
  case decided =>
    intro s c p k x w d f hruns hok hdec hd hst hon hw hdescs hreg hpast htime hinbox hoff habs hf htrunc hm hcheck hseq hact
    subst hf
    exact ⟨_, (exec_ctxInboxFrame hruns hok hdec hd).trans (congrArg _
      (ctxFrame_match hst hon hw hdescs hreg hpast htime hinbox hoff habs (rxMissing_uncut htrunc) hm hcheck hseq hact)), expectMatched_spec rfl⟩
  case otherFrame => exact fun s c p k x h => exec_ctxInboxFrame_other h
  case time =>
    intro s c d hst hw hd
    exact ⟨_, congrArg Host.Outcome.next ((waitExpiry_time hst hw).trans (if_pos hd)), resumed_spec rfl⟩
  case timer =>
    intro s c i hst hw hi
    exact ⟨_, congrArg Host.Outcome.next ((waitExpiry_timer hst hw).trans (if_neg (by rw [hi]; decide))), resumed_spec rfl⟩
  case timeEarly =>
    intro s c d hw hd
    refine congrArg Host.Outcome.next ?_
    by_cases hst : s.get (.CTX_STAT_STATE c) = stWaiting
    · exact (waitExpiry_time hst hw).trans (if_neg (by omega))
    · exact waitExpiry_idle hst
  case timerRuns =>
    intro s c i hw hi
    refine congrArg Host.Outcome.next ?_
    by_cases hst : s.get (.CTX_STAT_STATE c) = stWaiting
    · exact (waitExpiry_timer hst hw).trans (if_pos hi)
    · exact waitExpiry_idle hst
  case timeIdle => exact fun s c hst => congrArg Host.Outcome.next (waitExpiry_idle hst)
  case timeout => exact fun s c w hst hw hdue => congrArg Host.Outcome.next (expectTimeoutDue_due hst hw hdue)
  case timeoutGoesOn =>
    exact fun s c w hst hw hdue hact hreg =>
      ⟨_, congrArg Host.Outcome.next (expectTimeoutDue_continue hst hw hdue hact hreg), timedOut_spec rfl⟩
  case timeoutEarly => exact fun s c w hw h => congrArg Host.Outcome.next (expectTimeoutDue_early hw h)
  case retry =>
    intro s c d b hst hw hd hb
    have hframe : Frame ctxsFrom (offStat c) s (ctxResume c (s.ctx c).retryPt (inboxKept c s)) := (inboxKept_frame c s).trans (ctxResume_frame ..)
    refine ⟨_, congrArg Host.Outcome.next ((backoffExpiry_due hst hw hd).trans (backoffEnd_retry hb)), state_ctxResume .., ?_, hframe.rest,
      fun a ha => hframe.rd a ha⟩
    rw [ctx_ctxResume, ctx_inboxKept]
  case resync =>
    intro s c d hst hw hd haddr
    have hframe : Frame ctxsFrom (fun g => offStat c g ∧ g.a ≠ Reg.CTX_V c 15) s (ctxResume c (s.get (.CTX_RESYNC_ADDR c)) (resyncBegun c s)) :=
      ((resyncBegun_frame c s).mono fun _ => And.right).trans ((ctxResume_frame ..).mono fun _ => And.left)
    refine ⟨_, congrArg Host.Outcome.next ((backoffExpiry_due hst hw hd).trans (backoffEnd_resync haddr)), state_ctxResume .., ?_, ?_, hframe.rest,
      fun a h1 h2 => hframe.rd a ⟨h1, h2⟩⟩
    · rw [getV, (ctxResume_frame c _ (resyncBegun c s)).rd _ (by simp only [offStat, Reg.CTX_V, Reg.CTX_STAT]; omega), ← getV, v15_resyncBegun]
    · rw [ctx_ctxResume, ctx_resyncBegun]
  case backoffEarly => exact fun s c d b hw h => congrArg Host.Outcome.next (backoffExpiry_early hw h)
  case committed =>
    intro s c r hst hw hc hr
    obtain ⟨hshown, hckpt, honce⟩ := ckptShown_spec c r s
    obtain ⟨hvalid, honceBit, hoff⟩ := get_showCkpt (c := c) r s
    have hframe := hshown.trans ((ctxResume_frame c (s.ctx c).pc _).mono fun _ hg => hg.1)
    have hreg (g : FldRef) (hg : g.a = Reg.CTX_CKPT c) : (ctxResume c (s.ctx c).pc (ckptShown c r s)).get g = (showCkpt c r s).get g := by
      have hoffStat : offStat c g := by simp only [offStat, hg, Reg.CTX_CKPT, Reg.CTX_STAT]; omega
      rw [(ctxResume_frame ..).get g hoffStat, hckpt g hoffStat]
    refine ⟨_, congrArg Host.Outcome.next (checkpointCommitted_done hst hw hc hr), state_ctxResume .., by rw [ctx_ctxResume], by rw [ctx_ctxResume],
      ?_, ?_, ?_, fun h => ⟨?_, ?_⟩, hframe.rest, fun a h1 h2 => hframe.rd a ⟨h1, h2⟩⟩
    · rw [State.is, hreg _ rfl, ← State.is, hvalid]
    · rw [State.is, hreg _ rfl, ← State.is, honceBit]
    · rw [hreg _ rfl, hoff]
    · rw [State.is, get_ctxResume_low _ _ (by simp), (honce h).1]
      rfl
    · rw [ctx_ctxResume, (honce h).2]
  case uncommitted => exact fun s c h => congrArg Host.Outcome.next (checkpointCommitted_not h)
  case unblocked =>
    intro s c hst hon hfree hfirst
    obtain ⟨hready, hcause, hframe⟩ := ctxReady_spec (c := c) s
    exact ⟨_, congrArg Host.Outcome.next (if_pos ⟨hst, hon, hfree, hfirst⟩), hready, hcause, hframe.rest, fun a ha => hframe.rd a ha⟩
  case stillBlocked => exact fun s c h => congrArg Host.Outcome.next (unblock_not h)
  case nextFrame =>
    intro s c w d n p hst hw hd hdue htx hphase hn hp hroom
    obtain ⟨hqueue, hwait⟩ := xferNextCf_spec (w := w) hp hn hroom
    refine ⟨_, congrArg Host.Outcome.next ((xferTimerExpiry_due hst hw hd hdue).trans (xferTimer_next htx hphase)), ?_, ?_⟩
    · exact hqueue
    · rw [hwait, cfSent, hn]
  case reserves =>
    exact fun s c w d hst hw hd hdue htx hphase =>
      congrArg Host.Outcome.next ((xferTimerExpiry_due hst hw hd hdue).trans (xferTimer_reserve htx hphase))
  case xferTimeout =>
    exact fun s c w d hst hw hd hdue h => congrArg Host.Outcome.next ((xferTimerExpiry_due hst hw hd hdue).trans (xferTimer_timeout h))
  case xferGoesOn =>
    exact fun s c w d hst hw hd hdue h hact =>
      ⟨_, congrArg Host.Outcome.next ((xferTimerExpiry_due hst hw hd hdue).trans (xferTimer_timeout h)), xferOut_timeout_spec c.isLt hst hact rfl⟩
  case xferIdle => exact fun s c w hw h => congrArg Host.Outcome.next (xferTimerExpiry_none hw h)
  case xferEarly => exact fun s c w d hw hd h => congrArg Host.Outcome.next (xferTimerExpiry_early hw hd h)

end Sys2Proof.Machine
end

section
/-! PROOFS. A reservation in a queue beyond the 128 of R233 (R393): the end of its context's run writes a register that belongs to no queue. -/

namespace Sys2Proof.Machine

set_option Elab.async false

/-- A module in RUN whose engine 0 executes context 0 at the first word of hoist memory, an END. The context holds a reservation in a queue 128, which there is
not, beside another reserved entry there: giving up the reservation leaves a level of 1, noted where a queue 128 would have its `Q_PEAK`. -/
def strayReservation : State :=
  let s : State := { pw := { on := true, power := 1 }, sv := { roleA := .active, anyActive := true }, engs := [(0, { ctx := some 0 })],
                     queues := [(128, { ents := [{ vis := false }] })], ctxs := [(0, { pc := 0x80000, resv := some (128, 4) })] }
  wr 0x80000 0x18020000 ((((s.put .BT_STAT_STATE 3).set1 (.CTX_CFG_EN 0)).put (.CTX_STAT_STATE 0) stRunning).put (.CTX_PROG_PROG 0) 0x80000)

/-- The address past the last queue's registers, where a queue 128 would have its `Q_PEAK`. -/
theorem eventReg_peakPastQueues : eventReg (Reg.Q_PEAK 128) = false ∧ Reg.Q_PEAK 128 ≠ Reg.CTX_STAT 0 := by decide +kernel

theorem strayReservation_triggers : (enabledCtxs strayReservation).all (fun k => strayReservation.get (.CTX_TRIG_CMP_EN k) == 0) = true := by decide +kernel

/-- What the model does with the END there. -/
def strayEnded : State :=
  let s := begun 0 0 0x06 strayReservation
  endRun 0 ccOk (getV s 0 0) (stepOver 0 (fieldsOf 0x18020000 0#32) s)

theorem atWord_strayReservation : atWord strayReservation 0 0 0x06 0x18020000 = true ∧ bare (fieldsOf 0x18020000 0#32) = true ∧
    (strayReservation.ctx 0).pend = none := by decide +kernel

theorem exec_endRun_strayReservation : exec (.endRun 0) strayReservation = .next strayEnded := by
  obtain ⟨hat, hbare, -⟩ := atWord_strayReservation
  exact congrArg Host.Outcome.next ((runInstr_atWord 0x06 .never 0 0 _ _ _ hat).trans ((if_pos rfl).trans (if_pos hbare)))

theorem peak_strayEnded : rd strayEnded (Reg.Q_PEAK 128) ≠ rd strayReservation (Reg.Q_PEAK 128) := by decide +kernel

/-- Refutes O43: the statement asks that an END change no register but those of events in every state, and so in `strayReservation`, which the rules keep a
run from (a result queue is one of the 128, R233, R362). There the reservation that the run gives up writes past the queues' registers. -/
theorem not_flowInstructions : ¬ Obligations.FlowInstructions := by
  unfold Obligations.FlowInstructions
  rintro ⟨-, -, -, -, -, -, -, -, -, -, -, -, -, -, -, -, -, -, hend, -⟩
  obtain ⟨hat, hbare, hpend⟩ := atWord_strayReservation
  obtain ⟨hevent, hstat⟩ := eventReg_peakPastQueues
  obtain ⟨t, ht, -, -, hrd⟩ := hend strayReservation 0 0 0x18020000 _ hat rfl hbare hpend strayReservation_triggers
  obtain rfl : strayEnded = t := Host.Outcome.next.inj (exec_endRun_strayReservation.symm.trans ht)
  exact peak_strayEnded (hrd _ hevent hstat)

theorem admitted_strayReservation : Admitted strayReservation .ring (Reg.CTX_CTL 0) Msk.CTX_CTL ∧ inRun strayReservation 0 = true := by
  unfold Admitted
  decide +kernel

theorem exec_ctxAbort_strayReservation : exec (.ctxAbort .ring 0) strayReservation = .next (ctxAbort 0 strayReservation) :=
  congrArg Host.Outcome.next (regWrite_admitted _ _ _ _ _ _ admitted_strayReservation.1)

theorem peak_strayReservation_abort : rd (ctxAbort 0 strayReservation) (Reg.Q_PEAK 128) ≠ rd strayReservation (Reg.Q_PEAK 128) := by decide +kernel

/-- Refutes O48: an ABORT gives up the reservation of `strayReservation` too, and the statement asks the same of it in every state. -/
theorem not_contextControl : ¬ Obligations.ContextControl := by
  unfold Obligations.ContextControl
  rintro ⟨-, -, -, -, -, habort, -⟩
  obtain ⟨hadm, hrun⟩ := admitted_strayReservation
  obtain ⟨hevent, hstat⟩ := eventReg_peakPastQueues
  obtain ⟨t, ht, -, -, -, -, hrd⟩ := habort strayReservation .ring 0 hadm hrun strayReservation_triggers
  obtain rfl : ctxAbort 0 strayReservation = t := Host.Outcome.next.inj (exec_ctxAbort_strayReservation.symm.trans ht)
  exact peak_strayReservation_abort (hrd _ hevent hstat)

end Sys2Proof.Machine
end

section
/-! PROOFS. An epoch that holds a context beyond the 160 of R332 (R353, R502): its commit shows that context's record where there is no context. -/

namespace Sys2Proof.Machine

set_option Elab.async false

/-- A module whose standby is in step, with one open epoch. The epoch holds a checkpoint record of a context 200, which there is not. -/
def strayEpoch : State :=
  { pw := { on := true, power := 1 }, sv := { roleA := .active, roleB := .standby, stby := .inStep, anyActive := true },
    jpend := [{ ctxs := [(200, { ckpt := some {}, ckptNo := 1 })] }] }

/-- Where a context 200 would have its `CTX_CKPT` lies past the contexts, and is neither of the journal's registers. -/
theorem ckptPastContexts : Reg.CTX_CKPT 200 ≠ Reg.SV_JSEQ ∧ Reg.CTX_CKPT 200 ≠ Reg.SV_JLAG ∧
    ¬ ((List.range 160).any (fun c => Reg.CTX_CKPT 200 / 0x100 == 0x400 + c) = true) := by decide +kernel

theorem ckpt_strayEpoch : rd (journalCommit strayEpoch) (Reg.CTX_CKPT 200) ≠ rd strayEpoch (Reg.CTX_CKPT 200) := by decide +kernel

/-- Refutes O57: the statement asks that a commit change no register past the contexts in every state, and so in `strayEpoch`, which the rules keep a run from
(there are 160 contexts, R332). -/
theorem not_journalAndRejoining : ¬ Obligations.JournalAndRejoining := by
  unfold Obligations.JournalAndRejoining
  rintro ⟨-, -, -, -, -, hcommit, -⟩
  obtain ⟨hseq, hlag, hctx⟩ := ckptPastContexts
  obtain ⟨t, ht, -, -, -, -, -, -, -, -, hrd⟩ := hcommit strayEpoch _ _ rfl (by decide)
  obtain rfl : journalCommit strayEpoch = t := Host.Outcome.next.inj ht
  exact ckpt_strayEpoch (hrd _ hseq hlag hctx)

end Sys2Proof.Machine
end

section
/-! PROOFS. An instruction as the engine comes to it (R340, R366, R369, R370, R373): its own effect, or the end of the run PROG_ERR. -/

namespace Sys2Proof.Machine

set_option Elab.async false

/-- Command `i` is the instruction with opcode `op` on engine `e`: `ok` is its encoding check, `g` its own effect. -/
def Executes (i : Instr) (op : Nat) (r : XRule) (e : Nat) (ok : Nat → HWord → State → Bool) (g : Nat → HWord → State → State → State) : Prop :=
  ∀ s, exec i s = .next (runInstr op r e (fun c h s => checked c (ok c h s) (g c h s) s) s)

section Exec

variable {i : Instr} {op e c : Nat} {r : XRule} {ok : Nat → HWord → State → Bool} {g : Nat → HWord → State → State → State} {s : State}
  {w x : Word} {h : HWord}

/-- An instruction that may stand without an extension word, well encoded. -/
theorem Executes.right (hi : Executes i op r e ok g) (hr : r.ok false = true) (hat : atWord s e c op w = true) (hh : h = fieldsOf w 0#32)
    (hok : ok c h (begun e c op s) = true) : exec i s = .next (g c h (begun e c op s) (begun e c op s)) := by
  subst hh
  rw [hi s, runInstr_atWord _ _ _ _ _ _ _ hat, if_pos hr, checked, if_pos hok]

/-- A wrong encoding ends the run (R399). -/
theorem Executes.wrong (hi : Executes i op r e ok g) (hr : r.ok false = true) (hat : atWord s e c op w = true) (hh : h = fieldsOf w 0#32)
    (hok : ok c h (begun e c op s) = false) : exec i s = .next (endRun c ccProgErr (wd (offOf s c (s.ctx c).pc)) (begun e c op s)) := by
  subst hh
  rw [hi s, runInstr_atWord _ _ _ _ _ _ _ hat, if_pos hr, checked, if_neg (by rw [hok]; exact Bool.false_ne_true), progErr, begun_offOf, begun_ctx]

/-- An instruction that needs an extension word, without one. -/
theorem Executes.noExt (hi : Executes i op r e ok g) (hr : r.ok false = false) (hat : atWord s e c op w = true) :
    exec i s = .next (endRun c ccProgErr (wd (offOf s c (s.ctx c).pc)) (begun e c op s)) := by
  rw [hi s, runInstr_atWord _ _ _ _ _ _ _ hat, if_neg (by rw [hr]; exact Bool.false_ne_true), progErr, begun_offOf]

/-- An instruction that may stand with an extension word, well encoded. -/
theorem Executes.rightExt (hi : Executes i op r e ok g) (hr : r.ok true = true) (hat : atWords s e c op w x = true) (hh : h = fieldsOf w x)
    (hok : ok c h (begunX e c op s) = true) : exec i s = .next (g c h (begunX e c op s) (begunX e c op s)) := by
  subst hh
  rw [hi s, runInstr_atWords _ _ _ _ _ _ _ _ hat, if_pos hr, checked, if_pos hok]

theorem Executes.wrongExt (hi : Executes i op r e ok g) (hr : r.ok true = true) (hat : atWords s e c op w x = true) (hh : h = fieldsOf w x)
    (hok : ok c h (begunX e c op s) = false) : exec i s = .next (endRun c ccProgErr (wd (offOf s c (s.ctx c).pc)) (begunX e c op s)) := by
  subst hh
  rw [hi s, runInstr_atWords _ _ _ _ _ _ _ _ hat, if_pos hr, checked, if_neg (by rw [hok]; exact Bool.false_ne_true), progErr, begunX_offOf, begunX_ctx]

/-- X set on an instruction that takes no extension word (R370). -/
theorem Executes.ext (hi : Executes i op r e ok g) (hr : r.ok true = false) (hat : atExt s e c op w = true) :
    exec i s = .next (endRun c ccProgErr (wd (offOf s c (s.ctx c).pc)) (begun e c op s)) := by
  simp only [atExt, Bool.and_eq_true, beq_iff_eq, decide_eq_true_eq] at hat
  obtain ⟨⟨⟨⟨hrun, hslice⟩, hword⟩, hop⟩, hx⟩ := hat
  have hbegun : countInstr e (op == 0x26) (touchLines (s.ctx c).pc 1 s) = begun e c op s := rfl
  rw [hi s]
  simp [runInstr, hrun, hslice, hword, hop, hx, withWords, hr, hbegun, progErr]

theorem runningOn_of_atWord (hat : atWord s e c op w = true) : runningOn s e = some c := by
  simp only [atWord, Bool.and_eq_true, beq_iff_eq] at hat
  exact hat.1.1.1.1

theorem runningOn_of_atWords (hat : atWords s e c op w x = true) : runningOn s e = some c := by
  simp only [atWords, Bool.and_eq_true, beq_iff_eq] at hat
  exact hat.1.1.1.1.1

theorem x_of_atWord (hat : atWord s e c op w = true) (hh : h = fieldsOf w x) : h.x = false := by
  simp only [atWord, Bool.and_eq_true, Bool.not_eq_true'] at hat
  rw [hh]
  exact hat.2

theorem x_of_atWords {y : Word} (hat : atWords s e c op w x = true) (hh : h = fieldsOf w y) : h.x = true := by
  simp only [atWords, Bool.and_eq_true] at hat
  rw [hh]
  exact hat.1.2

/-- The engine that runs a context has it in RUNNING (R340). -/
theorem running_of_runningOn (h : runningOn s e = some c) : (s.eng e).ctx = some c ∧ s.get (.CTX_STAT_STATE c) = stRunning := by
  unfold runningOn at h
  split at h
  · next k hk =>
    split at h
    · next hst =>
      obtain rfl := Option.some.inj h
      exact ⟨hk, hst⟩
    · cases h
  · cases h

end Exec

end Sys2Proof.Machine
end

section
/-! PROOFS. What an instruction leaves of the state in which it has its effect (R340, R371, R399): a context's own record, its variables, its status. -/

namespace Sys2Proof.Machine

set_option Elab.async false

/-- `b` is `s` with an instruction's words fetched and counted (R340, R367). -/
structure Begun (s b : State) : Prop where
  rest : b = { s with hcache := b.hcache, engs := b.engs }

variable {s b : State} {e c op : Nat}

theorem begun_begun : Begun s (begun e c op s) := by
  obtain ⟨_, _, q⟩ := begun_eq e c op s
  rw [q]
  exact ⟨rfl⟩

theorem begun_begunX : Begun s (begunX e c op s) := by
  obtain ⟨_, _, q⟩ := begunX_eq e c op s
  rw [q]
  exact ⟨rfl⟩

theorem Begun.regs (hb : Begun s b) : b.regs = s.regs := by rw [hb.rest]
theorem Begun.ctxs (hb : Begun s b) : b.ctxs = s.ctxs := by rw [hb.rest]
theorem Begun.ctx (hb : Begun s b) (k : Nat) : b.ctx k = s.ctx k := by rw [State.ctx, hb.ctxs, ← State.ctx]
theorem Begun.rd (hb : Begun s b) (a : Nat) : rd b a = Machine.rd s a := rd_congr hb.regs a

theorem ctx_setCtx (s : State) (c : Nat) (x : CtxSt) : (s.setCtx c x).ctx c = x := kget_kset_same _ _ _ _

theorem setCtx_setCtx (s : State) (c : Nat) (x y : CtxSt) : (s.setCtx c x).setCtx c y = s.setCtx c y :=
  congrArg (fun m => { s with ctxs := m }) (kset_kset _ _ _ _ _)

theorem modCtx_setCtx (s : State) (c : Nat) (x : CtxSt) (F : CtxSt → CtxSt) : (s.setCtx c x).modCtx c F = s.setCtx c (F x) := by
  rw [State.modCtx, ctx_setCtx, setCtx_setCtx]

theorem stepOver_setCtx (h : HWord) (s : State) (x : CtxSt) : stepOver c h (s.setCtx c x) = s.setCtx c { x with pc := nextPc h x.pc } := by
  rw [stepOver, setPc, modCtx_setCtx, ctx_setCtx]

theorem stepOver_eq (h : HWord) (s : State) : stepOver c h s = s.setCtx c { s.ctx c with pc := nextPc h (s.ctx c).pc } := rfl

/-- The next word's address (R369). -/
theorem nextPc_word {h : HWord} (hx : h.x = false) (pc : Nat) : nextPc h pc = (pc + 4) % 2 ^ 32 := by rw [nextPc, hx, if_neg Bool.false_ne_true]

theorem nextPc_ext {h : HWord} (hx : h.x = true) (pc : Nat) : nextPc h pc = (pc + 8) % 2 ^ 32 := by rw [nextPc, hx, if_pos rfl]

/-- An instruction of one word goes on at the next (R369). -/
theorem stepOver_word {h : HWord} (hb : Begun s b) (hx : h.x = false) :
    stepOver c h b = b.setCtx c { s.ctx c with pc := ((s.ctx c).pc + 4) % 2 ^ 32 } := by
  rw [stepOver_eq, nextPc_word hx, hb.ctx]

theorem bitAt_msb (r : Word) : bitAt r 31 = r.msb := by
  rw [bitAt, BitVec.msb_eq_getLsbD_last]
  rfl

section Own

variable {x : CtxSt} {t : State}

/-- An instruction that changes its context's record alone. -/
theorem setCtx_spec (hb : Begun s b) (ht : t = b.setCtx c x) : t.ctx c = x ∧ t = { b with ctxs := kset {} s.ctxs c (t.ctx c) } := by
  subst ht
  rw [ctx_setCtx]
  exact ⟨rfl, by rw [State.setCtx, hb.ctxs]⟩

/-- An instruction that writes registers and changes its context's record. -/
theorem wrote_spec {u : State} (hb : Begun s b) (hu : u = { b with regs := u.regs }) (ht : t = u.setCtx c x) :
    t.ctx c = x ∧ t = { b with regs := t.regs, ctxs := kset {} s.ctxs c (t.ctx c) } := by
  have hctxs : u.ctxs = s.ctxs := by rw [hu, ← hb.ctxs]
  subst ht
  rw [ctx_setCtx]
  refine ⟨rfl, ?_⟩
  rw [State.setCtx, hctxs, hu]

/-- An instruction that writes a variable and changes its context's record. -/
theorem setV_spec {d : Nat} {r : Word} (hb : Begun s b) (ht : t = (setV c d r b).setCtx c x) : getV t c d = r ∧ t.ctx c = x ∧
    t = { b with regs := t.regs, ctxs := kset {} s.ctxs c (t.ctx c) } ∧ ∀ a, a ≠ Reg.CTX_V c d → rd t a = rd s a := by
  obtain ⟨hset, hrest⟩ := wrote_spec hb rfl ht
  refine ⟨?_, hset, hrest, fun a ha => ?_⟩
  · rw [ht]
    exact rd_wr_same _ _ _
  · rw [ht]
    exact (rd_wr_ne _ _ _ _ ha).trans (hb.rd a)

/-- An instruction that writes two variables and changes its context's record. -/
theorem setV_setV_spec {d k : Nat} {r v : Word} (hb : Begun s b) (hk : k ≠ d) (ht : t = (setV c k v (setV c d r b)).setCtx c x) :
    getV t c d = r ∧ getV t c k = v ∧ t.ctx c = x ∧ t = { b with regs := t.regs, ctxs := kset {} s.ctxs c (t.ctx c) } ∧
      ∀ a, a ≠ Reg.CTX_V c d → a ≠ Reg.CTX_V c k → rd t a = rd s a := by
  obtain ⟨hset, hrest⟩ := wrote_spec hb rfl ht
  refine ⟨?_, ?_, hset, hrest, fun a ha hak => ?_⟩
  · rw [ht]
    exact (rd_wr_ne _ _ _ _ (by simp only [Reg.CTX_V]; omega)).trans (rd_wr_same _ _ _)
  · rw [ht]
    exact rd_wr_same _ _ _
  · rw [ht]
    exact (rd_wr_ne _ _ _ _ hak).trans ((rd_wr_ne _ _ _ _ ha).trans (hb.rd a))

end Own

section Waits

variable {on : Nat} {w : Wait} {x : CtxSt}

/-- `s` with its registers, its contexts and its engines taken from `t`. -/
def waitFrom (s t : State) : State := { s with regs := t.regs, ctxs := t.ctxs, engs := t.engs }

theorem modCtx_waits {P : FldRef → Prop} (s : State) (c : Nat) (F : CtxSt → CtxSt) : Frame waitFrom P s (s.modCtx c F) := .of_regs rfl rfl

theorem setEngs_frame {P : FldRef → Prop} (s : State) (l : KMap EngSt) : Frame waitFrom P s { s with engs := l } := .of_regs rfl rfl

theorem offEngine_frame (c : Nat) (s : State) : Frame waitFrom (offStat c) s (offEngine c s) :=
  ((setEngs_frame s _).put (.CTX_STAT_ON_ENG c) 0 fun _ hg => hg).put (.CTX_STAT_ENG c) 0 fun _ hg => hg

theorem get_offEngine (s : State) {g : FldRef} (hg : 8 ≤ g.lo) (hi : g.hi < 32) : (offEngine c s).get g = s.get g := by
  rw [offEngine, get_put_apart _ _ _ _ (by simp) hi (.inr (.inl (by show 6 < g.lo; omega))),
    get_put_apart _ _ _ _ (by simp) hi (.inr (.inl (by show 7 < g.lo; omega)))]
  rfl

theorem ctx_offEngine (s : State) (k : Nat) : (offEngine c s).ctx k = s.ctx k := by
  rw [offEngine, ctx_put, ctx_put]
  rfl

theorem ctxs_ctxState (st on : Nat) (s : State) : (ctxState c st on s).ctxs = s.ctxs := by rw [ctxState, State.put_ctxs, State.put_ctxs]

theorem ctxs_offEngine (s : State) : (offEngine c s).ctxs = s.ctxs := by rw [offEngine, State.put_ctxs, State.put_ctxs]

theorem ctxWait_frame (on : Nat) (w : Wait) (s : State) : Frame waitFrom (offStat c) s (ctxWait c on w s) :=
  (((ctxState_stat _ _ s).mono fun _ => id).trans (offEngine_frame c _)).trans (modCtx_waits _ c _)

theorem ctx_ctxWait (on : Nat) (w : Wait) (s : State) : (ctxWait c on w s).ctx c = { s.ctx c with wait := w } := by
  rw [ctxWait, ctx_modCtx, ctx_offEngine, ctx_ctxState]

theorem get_ctxWait (on : Nat) (w : Wait) (s : State) :
    (ctxWait c on w s).get (.CTX_STAT_STATE c) = stWaiting ∧ (ctxWait c on w s).get (.CTX_STAT_WAIT_ON c) = on % 16 := by
  rw [ctxWait, State.modCtx_get, State.modCtx_get, get_offEngine _ (by simp) (by simp), get_offEngine _ (by simp) (by simp)]
  exact get_ctxState _ _ _

theorem ctxs_ctxWait (on : Nat) (w : Wait) (s : State) : (ctxWait c on w s).ctxs = kset {} s.ctxs c ((ctxWait c on w s).ctx c) := by
  rw [ctx_ctxWait, ctxWait, State.modCtx, State.setCtx, ctx_offEngine, ctx_ctxState]
  show kset _ (offEngine c (ctxState c stWaiting on s)).ctxs _ _ = _
  rw [ctxs_offEngine, ctxs_ctxState]

/-- An engine that runs a context is listed for that context alone, once it has counted an instruction. -/
theorem engs_countInstr {rdr : Bool} (h : (s.eng e).ctx = some c) : ∀ p ∈ (countInstr e rdr s).engs, p.1 = e → p.2.ctx = some c := by
  have hne : ¬ ({ s.eng e with count := (s.eng e).count + 1, rdrs := if rdr then (s.eng e).rdrs + 1 else 0 } : EngSt) = {} := by simp
  intro p hp hk
  rw [countInstr, State.setEng] at hp
  simp only [kset, if_neg hne, mem_kins, List.mem_filter] at hp
  rcases hp with rfl | ⟨-, hp⟩
  · exact h
  · simp [hk] at hp

theorem engs_begun (h : runningOn s e = some c) : ∀ p ∈ (begun e c op s).engs, p.1 = e → p.2.ctx = some c := by
  obtain ⟨heng, -⟩ := running_of_runningOn h
  refine engs_countInstr ?_
  obtain ⟨_, q⟩ := touchLines_eq (s.ctx c).pc 1 s
  rw [q]
  exact heng

theorem engs_offEngine (s : State) : (offEngine c s).engs = s.engs.filter fun p => p.2.ctx ≠ some c := by rw [offEngine, State.put_engs, State.put_engs]

/-- A context off its engine leaves the engine free. -/
theorem eng_offEngine (h : ∀ p ∈ s.engs, p.1 = e → p.2.ctx = some c) : ((offEngine c s).eng e).ctx = none := by
  rw [State.eng, engs_offEngine, kget_unlisted]
  intro p hp hk
  simp only [List.mem_filter, decide_eq_true_eq] at hp
  exact hp.2 (h p hp.1 hk)

theorem eng_ctxWait (h : ∀ p ∈ s.engs, p.1 = e → p.2.ctx = some c) : ((ctxWait c on w s).eng e).ctx = none := by
  rw [ctxWait, State.eng, State.modCtx_engs, ← State.eng]
  refine eng_offEngine ?_
  rw [ctxState, State.put_engs, State.put_engs]
  exact h

theorem setCtx_waits {P : FldRef → Prop} (s : State) (c : Nat) (x : CtxSt) : Frame waitFrom P s (s.setCtx c x) := .of_regs rfl rfl

/-- An instruction that writes the context's status register and whose context waits (R335, R340). -/
theorem ctxWait_wrote_spec {t u : State} (hon : on < 16) (hrun : runningOn s e = some c) (hu : Frame regsFrom (offStat c) (begun e c op s) u)
    (ht : t = ctxWait c on w (u.setCtx c x)) :
    t.get (.CTX_STAT_STATE c) = stWaiting ∧ t.get (.CTX_STAT_WAIT_ON c) = on ∧ t.ctx c = { x with wait := w } ∧ (t.eng e).ctx = none ∧
      t = { (begun e c op s) with regs := t.regs, ctxs := kset {} s.ctxs c (t.ctx c), engs := t.engs } ∧ ∀ a, a ≠ Reg.CTX_STAT c → rd t a = rd s a := by
  have hb : Begun s (begun e c op s) := begun_begun
  obtain ⟨hst, hw⟩ := get_ctxWait (c := c) on w (u.setCtx c x)
  have hctxs : u.ctxs = s.ctxs := by rw [hu.rest, regsFrom, hb.ctxs]
  have hengs : (u.setCtx c x).engs = (begun e c op s).engs := by rw [State.setCtx, hu.rest, regsFrom]
  have hwait : Frame waitFrom (offStat c) (begun e c op s) u := hu.mono fun _ => id
  have hframe : Frame waitFrom (offStat c) (begun e c op s) t := by
    rw [ht]
    exact (hwait.trans (setCtx_waits _ _ _)).trans (ctxWait_frame on w _)
  have hset : t.ctxs = kset {} s.ctxs c (t.ctx c) := by rw [ht, ctxs_ctxWait, State.setCtx, kset_kset, hctxs]
  refine ⟨ht ▸ hst, ?_, ?_, ?_, ?_, fun a ha => (hframe.rd a ha).trans (hb.rd a)⟩
  · rw [ht, hw, Nat.mod_eq_of_lt hon]
  · rw [ht, ctx_ctxWait, ctx_setCtx]
  · rw [ht]
    exact eng_ctxWait (hengs ▸ engs_begun hrun)
  · rw [← hset]
    exact hframe.rest

/-- An instruction whose context waits. -/
theorem ctxWait_spec {t : State} (hon : on < 16) (hrun : runningOn s e = some c) (hb : b = begun e c op s) (ht : t = ctxWait c on w (b.setCtx c x)) :
    t.get (.CTX_STAT_STATE c) = stWaiting ∧ t.get (.CTX_STAT_WAIT_ON c) = on ∧ t.ctx c = { x with wait := w } ∧ (t.eng e).ctx = none ∧
      t = { b with regs := t.regs, ctxs := kset {} s.ctxs c (t.ctx c), engs := t.engs } ∧ ∀ a, a ≠ Reg.CTX_STAT c → rd t a = rd s a := by
  subst hb
  exact ctxWait_wrote_spec hon hrun (.refl _) ht

end Waits

end Sys2Proof.Machine
end

section
/-! PROOFS. The time instructions (R376): the waits that they start and the timers that they set. -/

namespace Sys2Proof.Machine

set_option Elab.async false

section Rows

variable {e : Fin 8}

theorem executes_wait : Executes (.wait e) 0x08 .never e (fun _ h _ => h.d == 0 && op2Ok h && decide (h.a ≤ 6) && h.a != 3) fun c h _ u =>
    if h.a < 3 then (if (op2z u c h).toNat = 0 then stepOver c h u else ctxWait c 1 (.time (now u + unitTicks h.a (op2z u c h).toNat)) (stepOver c h u))
    else if timerRuns u c (h.a - 4) then ctxWait c 1 (.timer (h.a - 4)) (stepOver c h u) else stepOver c h u := fun _ => rfl

theorem executes_align : Executes (.align e) 0x09 .never e (fun c h s => h.d == 0 && op2Ok h && (h.a == 1 || h.a == 2) && op2z s c h != 0) fun c h _ u =>
    ctxWait c 1 (.time ((now u / unitTicks h.a (op2z u c h).toNat + 1) * unitTicks h.a (op2z u c h).toNat)) (stepOver c h u) := fun _ => rfl

theorem executes_tset : Executes (.tset e) 0x0A .never e (fun _ h _ => decide (h.d ≤ 2) && decide (h.a ≤ 2) && op2Ok h) fun c h _ u =>
    stepOver c h (setTimer c h.d (if (op2z u c h).toNat = 0 then none else some (now u + unitTicks h.a (op2z u c h).toNat)) u) := fun _ => rfl

/-- The variables that TNOW writes. -/
def tnowSet (c : Nat) (h : HWord) (s : State) : State :=
  match h.a with
  | 0 => setV c h.d (wd (now s)) s
  | 1 => setV c h.d (wd (now s / 2 ^ 32)) s
  | _ => setV c (h.d + 1) (wd (now s / 2 ^ 32)) (setV c h.d (wd (now s)) s)

theorem executes_tnow : Executes (.tnow e) 0x0B .never e (fun _ h _ => noK h && decide (h.a ≤ 2) && (h.a != 2 || decide (h.d ≤ 14))) fun c h _ u =>
    stepOver c h (tnowSet c h u) := fun _ => rfl

end Rows

variable {s : State} {e : Fin 8} {c : Nat} {w : Word} {h : HWord}

theorem toNat_eq_zero {v : Word} : v.toNat = 0 ↔ v = 0 := (BitVec.toNat_eq (y := 0)).symm

theorem setTimer_eq (i : Nat) (d : Option Nat) (u : State) :
    setTimer c i d u = u.setCtx c { u.ctx c with td := (List.range 3).map fun j => if j = i then d else (u.ctx c).td.getD j none } := rfl

theorem stepOver_setV (d : Nat) (r : Word) (u : State) : stepOver c h (setV c d r u) = setV c d r (stepOver c h u) := rfl

theorem setV_setCtx (d : Nat) (r : Word) (x : CtxSt) (u : State) : setV c d r (u.setCtx c x) = (setV c d r u).setCtx c x := rfl

theorem tnowSet_one (ha : h.a ≤ 1) (u : State) : tnowSet c h u = setV c h.d (wd (if h.a = 0 then now u else now u / 2 ^ 32)) u := by
  obtain ha | ha : h.a = 0 ∨ h.a = 1 := by omega
  all_goals rw [tnowSet, ha]
  all_goals rfl

theorem tnowSet_both (ha : h.a = 2) (u : State) : tnowSet c h u = setV c (h.d + 1) (wd (now u / 2 ^ 32)) (setV c h.d (wd (now u)) u) := by
  rw [tnowSet, ha]
  rfl

section Effects

/-- A WAIT or ALIGN that waits for `x`. -/
theorem timeWait_spec {op : Nat} (x : Wait) (hat : atWord s e c op w = true) (hh : h = fieldsOf w 0#32) (b : State) (hb : b = begun e c op s) (t : State)
    (ht : t = ctxWait c 1 x (stepOver c h b)) : t.get (.CTX_STAT_STATE c) = stWaiting ∧ t.get (.CTX_STAT_WAIT_ON c) = 1 ∧
      t.ctx c = { s.ctx c with pc := ((s.ctx c).pc + 4) % 2 ^ 32, wait := x } ∧ (t.eng e).ctx = none ∧
      t = { b with regs := t.regs, ctxs := kset {} s.ctxs c (t.ctx c), engs := t.engs } ∧ ∀ a, a ≠ Reg.CTX_STAT c → rd t a = rd s a := by
  subst hb
  rw [stepOver_word begun_begun (x_of_atWord hat hh)] at ht
  exact ctxWait_spec (by decide) (runningOn_of_atWord hat) rfl ht

theorem goesOn_spec {op : Nat} (hat : atWord s e c op w = true) (hh : h = fieldsOf w 0#32) :
    (stepOver c h (begun e c op s)).ctx c = { s.ctx c with pc := ((s.ctx c).pc + 4) % 2 ^ 32 } ∧
      stepOver c h (begun e c op s) = { (begun e c op s) with ctxs := kset {} s.ctxs c ((stepOver c h (begun e c op s)).ctx c) } :=
  setCtx_spec begun_begun (stepOver_word begun_begun (x_of_atWord hat hh))

end Effects

/-- Settles O44, by what each instruction's own effect leaves of the state in which it has it. -/
theorem timeInstructions : Obligations.TimeInstructions := by
  unfold Obligations.TimeInstructions
  refine ⟨?waits, ?zero, ?timer, ?expired, ?waitWrong, ?waitExt, ?align, ?alignWrong, ?alignExt, ?tset, ?tsetWrong, ?tsetExt, ?tnow, ?tnowBoth, ?tnowWrong,
    ?tnowExt⟩
  case waits =>
    intro s e c w h hat hh hd hop ha hz
    refine ⟨_, executes_wait.right rfl hat hh (by simp [hd, hop]; omega), timeWait_spec _ hat hh _ rfl _ ?_⟩
    rw [if_pos ha, if_neg (by rwa [begun_op2z, toNat_eq_zero]), begun_op2z, begun_now]
  case zero =>
    intro s e c w h hat hh hd hop ha hz
    have heff := executes_wait.right rfl hat hh (by simp [hd, hop]; omega)
    rw [if_pos ha, if_pos (by simp [hz])] at heff
    exact ⟨_, heff, goesOn_spec hat hh⟩
  case timer =>
    intro s e c w h hat hh hd hop ha ha' hrun
    refine ⟨_, executes_wait.right rfl hat hh (by simp [hd, hop]; omega), timeWait_spec _ hat hh _ rfl _ ?_⟩
    rw [if_neg (by omega), if_pos (by simp [hrun])]
  case expired =>
    intro s e c w h hat hh hd hop ha ha' hrun
    have heff := executes_wait.right rfl hat hh (by simp [hd, hop]; omega)
    rw [if_neg (by omega), if_neg (by simp [hrun])] at heff
    exact ⟨_, heff, goesOn_spec hat hh⟩
  case waitWrong => exact fun s e c w h hat hh hbad => executes_wait.wrong rfl hat hh hbad
  case waitExt => exact fun s e c w hat => executes_wait.ext rfl hat
  case align =>
    intro s e c w h p hat hh hd hop ha ha' hz hp
    subst hp
    have ha : h.a = 1 ∨ h.a = 2 := by omega
    refine ⟨_, executes_align.right rfl hat hh (by rw [begun_op2z]; simp [hd, hop, ha]; exact hz), timeWait_spec _ hat hh _ rfl _ ?_⟩
    simp
  case alignWrong => exact fun s e c w h hat hh hbad => executes_align.wrong rfl hat hh (by simpa using hbad)
  case alignExt => exact fun s e c w hat => executes_align.ext rfl hat
  case tset =>
    intro s e c w h hat hh hd ha hop
    refine ⟨_, executes_tset.right rfl hat hh (by simp [hd, ha, hop]), setCtx_spec begun_begun ?_⟩
    rw [setTimer_eq, stepOver_setCtx, nextPc_word (x_of_atWord hat hh), begun_ctx, begun_op2z, begun_now]
    simp only [toNat_eq_zero]
  case tsetWrong => exact fun s e c w h hat hh hbad => executes_tset.wrong rfl hat hh hbad
  case tsetExt => exact fun s e c w hat => executes_tset.ext rfl hat
  case tnow =>
    intro s e c w h hat hh hk ha
    refine ⟨_, executes_tnow.right rfl hat hh (by simp [hk]; omega), setV_spec begun_begun ?_⟩
    rw [tnowSet_one ha, stepOver_setV, stepOver_word begun_begun (x_of_atWord hat hh), begun_now, setV_setCtx]
  case tnowBoth =>
    intro s e c w h hat hh hk ha hd
    refine ⟨_, executes_tnow.right rfl hat hh (by simp [hk, ha, hd]), setV_setV_spec begun_begun (by omega) ?_⟩
    rw [tnowSet_both ha, stepOver_setV, stepOver_setV, stepOver_word begun_begun (x_of_atWord hat hh), begun_now, setV_setCtx, setV_setCtx]
  case tnowWrong => exact fun s e c w h hat hh hbad => executes_tnow.wrong rfl hat hh hbad
  case tnowExt => exact fun s e c w hat => executes_tnow.ext rfl hat

end Sys2Proof.Machine
end

section
/-! PROOFS. The variable array as bytes (R370, R378): what is stored there is read there. -/

namespace Sys2Proof.Machine

set_option Elab.async false

variable {c : Nat} {l : List Byte} {s : State}

theorem leBytes_leNat : ∀ l : List Byte, leBytes l.length (leNat l) = l
  | [] => rfl
  | b :: l => by
    have hmod : BitVec.ofNat 8 (leNat (b :: l)) = b := by
      apply BitVec.eq_of_toNat_eq
      rw [leNat, BitVec.toNat_ofNat]
      omega
    have hdiv : leNat (b :: l) / 256 = leNat l := by
      rw [leNat]
      omega
    rw [List.length_cons, leBytes, hmod, hdiv, leBytes_leNat l]

theorem leNat_lt : ∀ l : List Byte, leNat l < 2 ^ (8 * l.length)
  | [] => by decide
  | b :: l => by
    have ih := leNat_lt l
    have hpow : 2 ^ (8 * (b :: l).length) = 256 * 2 ^ (8 * l.length) := by
      rw [List.length_cons, Nat.mul_succ, Nat.pow_add, Nat.mul_comm]
    rw [leNat, hpow]
    omega

theorem length_leBytes : ∀ k n, (leBytes k n).length = k
  | 0, _ => rfl
  | k + 1, n => by rw [leBytes, List.length_cons, length_leBytes k]

/-- Four bytes are one word. -/
theorem leBytes_word {m : List Byte} (h : m.length = 4) : leBytes 4 (wd (leNat m)).toNat = m := by
  have hlt := leNat_lt m
  rw [h] at hlt
  rw [wd, BitVec.toNat_ofNat, Nat.mod_eq_of_lt hlt, ← h, leBytes_leNat]

/-- The words of a list of bytes, one after another. -/
theorem flatMap_words : ∀ (n : Nat) (l : List Byte), l.length = 4 * n → (List.range n).flatMap (fun i => (l.drop (4 * i)).take 4) = l
  | 0, l, h => by
    rw [List.length_eq_zero_iff.mp h]
    rfl
  | n + 1, l, h => by
    have ih := flatMap_words n (l.drop 4) (by rw [List.length_drop]; omega)
    rw [List.range_succ_eq_map, List.flatMap_cons, List.flatMap_map]
    simp only [List.drop_drop] at ih
    simp only [Nat.mul_succ, Nat.add_comm _ 4, Nat.mul_zero, List.drop_zero, ih]
    exact List.take_append_drop 4 l

theorem each_range_succ (f : Nat → State → State) (n : Nat) (s : State) : s.each (List.range (n + 1)) f = f n (s.each (List.range n) f) := by
  rw [State.each, List.range_succ, List.foldl_append]
  rfl

/-- The array's variables hold what was stored, one after another. -/
theorem getV_setVs (f : Nat → Word) (s : State) {i : Nat} : ∀ n, i < n → getV (s.each (List.range n) fun i s => setV c i (f i) s) c i = f i
  | n + 1, hi => by
    rw [each_range_succ]
    by_cases h : i = n
    · rw [h]
      exact rd_wr_same _ _ _
    · exact (rd_wr_ne _ _ _ _ (by simp only [Reg.CTX_V]; omega)).trans (getV_setVs f s n (by omega))

/-- Storing the array leaves every register but its variables. -/
theorem rd_putVarBytes {a : Nat} (ha : ¬ (Reg.CTX_V c 0 ≤ a ∧ a ≤ Reg.CTX_V c 15)) (l : List Byte) (s : State) : rd (putVarBytes c l s) a = rd s a :=
  each_ind (fun t => rd t a = rd s a) _ _ s rfl fun i hi t ht =>
    (rd_wr_ne _ _ _ _ (by simp only [List.mem_range, Reg.CTX_V] at *; omega)).trans ht

theorem putVarBytes_rest (c : Nat) (l : List Byte) (s : State) : putVarBytes c l s = { s with regs := (putVarBytes c l s).regs } :=
  each_ind (fun t => t = { s with regs := t.regs }) _ _ s rfl fun i _ t ht => by
    rw [ht]
    rfl

/-- The array reads as it was stored. -/
theorem varBytes_putVarBytes (hl : l.length = 64) (s : State) : varBytes (putVarBytes c l s) c = l := by
  refine Eq.trans ?_ (flatMap_words 16 l hl)
  refine List.flatMap_congr fun i hi => ?_
  have hlt : i < 16 := List.mem_range.mp hi
  rw [putVarBytes, getV_setVs _ _ _ hlt, leBytes_word]
  rw [List.length_take, List.length_drop, hl]
  omega

theorem length_varBytes (s : State) (c : Nat) : (varBytes s c).length = 64 := by simp [varBytes, length_leBytes]

theorem length_overlay {o : Nat} {b : List Byte} (h : o + b.length ≤ l.length) : (overlay l o b).length = l.length := by
  rw [overlay, List.length_append, List.length_append, List.length_take, List.length_drop]
  omega

end Sys2Proof.Machine
end

section
/-! PROOFS. The data instructions (R371, R377, R378): a result in V[D] with its flags, or bytes in the variable array. -/

namespace Sys2Proof.Machine

set_option Elab.async false

section Rows

variable {e : Fin 8}

theorem executes_movi : Executes (.movi e) 0x18 .either e (fun _ h _ => h.a == 0 && (if h.x then noK h else op2Ok h)) fun c h _ u =>
    result c h (if h.x then h.e else op2s u c h) (flagsOf (if h.x then h.e else op2s u c h)) u := fun _ => rfl

theorem executes_mov : Executes (.mov e) 0x19 .never e (fun _ h _ => h.a == 0 && op2Ok h) fun c h _ u =>
    result c h (op2z u c h) (flagsOf (op2z u c h)) u := fun _ => rfl

theorem executes_add : Executes (.add e) 0x1A .never e (fun _ h _ => op2Ok h) fun c h _ u =>
    result c h (getV u c h.a + op2s u c h) (addFlags (getV u c h.a) (op2s u c h)) u := fun _ => rfl

theorem executes_sub : Executes (.sub e) 0x1B .never e (fun _ h _ => op2Ok h) fun c h _ u =>
    result c h (getV u c h.a - op2s u c h) (subFlags (getV u c h.a) (op2s u c h)) u := fun _ => rfl

theorem executes_and : Executes (.and e) 0x1C .never e (fun _ h _ => op2Ok h) fun c h _ u =>
    result c h (getV u c h.a &&& op2z u c h) (flagsOf (getV u c h.a &&& op2z u c h)) u := fun _ => rfl

theorem executes_or : Executes (.or e) 0x1D .never e (fun _ h _ => op2Ok h) fun c h _ u =>
    result c h (getV u c h.a ||| op2z u c h) (flagsOf (getV u c h.a ||| op2z u c h)) u := fun _ => rfl

theorem executes_xor : Executes (.xor e) 0x1E .never e (fun _ h _ => op2Ok h) fun c h _ u =>
    result c h (getV u c h.a ^^^ op2z u c h) (flagsOf (getV u c h.a ^^^ op2z u c h)) u := fun _ => rfl

theorem executes_shl : Executes (.shl e) 0x1F .never e (fun _ h _ => op2Ok h) fun c h _ u =>
    result c h (getV u c h.a <<< ((op2z u c h).toNat % 32)) (flagsOf (getV u c h.a <<< ((op2z u c h).toNat % 32))) u := fun _ => rfl

theorem executes_shr : Executes (.shr e) 0x20 .never e (fun _ h _ => op2Ok h) fun c h _ u =>
    result c h (getV u c h.a >>> ((op2z u c h).toNat % 32)) (flagsOf (getV u c h.a >>> ((op2z u c h).toNat % 32))) u := fun _ => rfl

theorem executes_sar : Executes (.sar e) 0x21 .never e (fun _ h _ => op2Ok h) fun c h _ u =>
    result c h ((getV u c h.a).sshiftRight ((op2z u c h).toNat % 32)) (flagsOf ((getV u c h.a).sshiftRight ((op2z u c h).toNat % 32))) u := fun _ => rfl

theorem executes_cmp : Executes (.cmp e) 0x22 .never e (fun _ h _ => h.d == 0 && op2Ok h) fun c h _ u =>
    stepOver c h (setFlags c (subFlags (getV u c h.a) (op2s u c h)) u) := fun _ => rfl

/-- The bytes that LDB and STB move, from what LDB's A names. -/
def ldbSrc (h : HWord) (c : Nat) (s : State) : List Byte := if h.a % 2 = 1 then varBytes s c else curBytes s c

/-- The word that LDB loads. -/
def ldbWord (h : HWord) (c : Nat) (s : State) : Word :=
  wd (orderNat (h.a / 2 % 2 == 1) ((List.range (h.a / 4 + 1)).map fun i => (ldbSrc h c s).getD ((op2z s c h).toNat + i) 0))

theorem executes_ldb : Executes (.ldb e) 0x23 .never e (fun _ h _ => op2Ok h) fun c h _ u =>
    result c h (ldbWord h c u) (flagsOf (ldbWord h c u))
      (setF c (decide ((ldbSrc h c u).length < (op2z u c h).toNat + (h.a / 4 + 1))) u) := fun _ => rfl

/-- The bytes that STB stores. -/
def stbBytes (h : HWord) (c : Nat) (s : State) : List Byte :=
  let l := leBytes (h.a / 4 + 1) ((getV s c h.d).toNat % 2 ^ (8 * (h.a / 4 + 1)))
  if h.a / 2 % 2 = 1 then l.reverse else l

theorem executes_stb : Executes (.stb e) 0x24 .never e
    (fun c h s => op2Ok h && h.a % 2 == 0 && decide ((op2z s c h).toNat + (h.a / 4 + 1) ≤ 64)) fun c h _ u =>
    stepOver c h (setFlags c (flagsOf (getV u c h.d)) (putVarBytes c (overlay (varBytes u c) (op2z u c h).toNat (stbBytes h c u)) u)) := fun _ => rfl

/-- The field that FIELD takes. -/
def fieldWord (h : HWord) (c : Nat) (s : State) : Word :=
  let n := h.k / 32 % 32 + 1
  let f := bits (getV s c h.a) (h.k % 32 + n - 1) (h.k % 32)
  if h.k / 2 ^ 10 = 1 then wd (toU 32 (sext n f)) else wd f

theorem executes_field : Executes (.field e) 0x25 .never e
    (fun _ h _ => h.i && h.k / 2 ^ 11 == 0 && decide (h.k % 32 + (h.k / 32 % 32 + 1) ≤ 32)) fun c h _ u =>
    result c h (fieldWord h c u) (flagsOf (fieldWord h c u)) u := fun _ => rfl

end Rows

variable {s b t : State} {i : Instr} {e c op : Nat} {w : Word} {h : HWord} {r : Word} {cf vf : Bool}

theorem setFlags_eq (f : Flags) (u : State) : setFlags c f u = u.setCtx c { u.ctx c with zf := f.z, nf := f.n, cf := f.c, vf := f.v } := rfl

theorem setFlags_setCtx (f : Flags) (u : State) (x : CtxSt) :
    setFlags c f (u.setCtx c x) = u.setCtx c { x with zf := f.z, nf := f.n, cf := f.c, vf := f.v } := by rw [setFlags, modCtx_setCtx]

theorem setF_eq (f : Bool) (u : State) : setF c f u = u.setCtx c { u.ctx c with ff := f } := rfl

/-- An instruction with result `r`, after one that left the context `x`. -/
theorem result_setCtx (f : Flags) (u : State) (x : CtxSt) : result c h r f (u.setCtx c x) =
    (setV c h.d r u).setCtx c { x with zf := f.z, nf := f.n, cf := f.c, vf := f.v, pc := nextPc h x.pc } := by
  have hset : setV c h.d r (u.setCtx c x) = (setV c h.d r u).setCtx c x := rfl
  rw [result, hset, setFlags_setCtx, stepOver_setCtx]

theorem result_eq (f : Flags) (u : State) : result c h r f u =
    (setV c h.d r u).setCtx c { u.ctx c with zf := f.z, nf := f.n, cf := f.c, vf := f.v, pc := nextPc h (u.ctx c).pc } := by
  rw [result, setFlags_eq, stepOver_setCtx]
  rfl

/-- What an instruction with result `r` leaves (R371). -/
theorem result_spec (hb : Begun s b) (f : Flags) (hf : f = { z := r == 0, n := bitAt r 31, c := cf, v := vf }) (ht : t = result c h r f b) :
    getV t c h.d = r ∧ t.ctx c = ctxAfter s c (nextPc h (s.ctx c).pc) r cf vf ∧
      t = { b with regs := t.regs, ctxs := kset {} s.ctxs c (t.ctx c) } ∧ ∀ a, a ≠ Reg.CTX_V c h.d → rd t a = rd s a := by
  refine setV_spec hb (ht.trans ?_)
  rw [result_eq, hb.ctx, hf, bitAt_msb, ctxAfter]

/-- A data instruction of one word with result `r` and flags `f`. -/
theorem Executes.dataSpec {ok : Nat → HWord → State → Bool} {R : Nat → HWord → State → Word} {f : Nat → HWord → State → Flags}
    (hi : Executes i op .never e ok fun c h _ u => result c h (R c h u) (f c h u) u) (hat : atWord s e c op w = true) (hh : h = fieldsOf w 0#32)
    (hok : ok c h (begun e c op s) = true) (hr : R c h (begun e c op s) = r)
    (hf : f c h (begun e c op s) = { z := r == 0, n := bitAt r 31, c := cf, v := vf }) : ∃ t, exec i s = .next t ∧ getV t c h.d = r ∧
      t.ctx c = ctxAfter s c (((s.ctx c).pc + 4) % 2 ^ 32) r cf vf ∧
      (t = { (begun e c op s) with regs := t.regs, ctxs := kset {} s.ctxs c (t.ctx c) } ∧ ∀ a, a ≠ Reg.CTX_V c h.d → rd t a = rd s a) := by
  refine ⟨_, hi.right rfl hat hh hok, ?_⟩
  rw [← nextPc_word (x_of_atWord hat hh), hr]
  exact result_spec begun_begun _ hf rfl

theorem ldbSrc_begun (s : State) : ldbSrc h c (begun e c op s) = ldbSrc h c s := by rw [ldbSrc, begun_varBytes, begun_curBytes, ldbSrc]

theorem ldbWord_begun (s : State) : ldbWord h c (begun e c op s) = ldbWord h c s := by rw [ldbWord, ldbSrc_begun, begun_op2z, ldbWord]

theorem stbBytes_begun (s : State) : stbBytes h c (begun e c op s) = stbBytes h c s := by rw [stbBytes, begun_getV, stbBytes]

theorem fieldWord_begun (s : State) : fieldWord h c (begun e c op s) = fieldWord h c s := by rw [fieldWord, begun_getV, fieldWord]

theorem length_stbBytes (s : State) : (stbBytes h c s).length = h.a / 4 + 1 := by
  rw [stbBytes]
  split
  · rw [List.length_reverse, length_leBytes]
  · exact length_leBytes _ _

/-- What a store of the variable array leaves, with Z and N of `r`. -/
theorem stb_spec {l : List Byte} (hb : Begun s b) (hx : h.x = false) (hl : l.length = 64) (ht : t = stepOver c h (setFlags c (flagsOf r) (putVarBytes c l b))) :
    varBytes t c = l ∧ t.ctx c = ctxAfter s c (((s.ctx c).pc + 4) % 2 ^ 32) r false false ∧
      t = { b with regs := t.regs, ctxs := kset {} s.ctxs c (t.ctx c) } ∧ ∀ a, ¬ (Reg.CTX_V c 0 ≤ a ∧ a ≤ Reg.CTX_V c 15) → rd t a = rd s a := by
  have hput : (putVarBytes c l b).ctx c = s.ctx c := by rw [putVarBytes_rest]; exact hb.ctx c
  have ht' : t = (putVarBytes c l b).setCtx c (ctxAfter s c (((s.ctx c).pc + 4) % 2 ^ 32) r false false) := by
    rw [ht, setFlags_eq, stepOver_setCtx, nextPc_word hx, hput, flagsOf, bitAt_msb, ctxAfter]
  obtain ⟨hctx, hrest⟩ := wrote_spec hb (putVarBytes_rest c l b) ht'
  refine ⟨?_, hctx, hrest, fun a ha => ?_⟩
  · rw [ht']
    exact varBytes_putVarBytes hl b
  · rw [ht']
    exact (rd_putVarBytes ha l b).trans (hb.rd a)

/-- Settles O45, by the result, the flags and the bytes that each instruction's own effect gives. -/
theorem dataInstructions : Obligations.DataInstructions := by
  unfold Obligations.DataInstructions
  refine ⟨?movi, ?moviX, ?moviWrong, ?moviXWrong, ?mov, ?movWrong, ?movExt, ?add, ?addWrong, ?addExt, ?sub, ?subWrong, ?subExt, ?and, ?andWrong,
    ?andExt, ?or, ?orWrong, ?orExt, ?xor, ?xorWrong, ?xorExt, ?shl, ?shlWrong, ?shlExt, ?shr, ?shrWrong, ?shrExt, ?sar, ?sarWrong, ?sarExt,
    ?cmp, ?cmpWrong, ?cmpExt, ?ldb, ?ldbWrong, ?ldbExt, ?stb, ?stbWrong, ?stbExt, ?field, ?fieldWrong, ?fieldExt⟩
  case movi =>
    intro s e c w h r hat hh ha hop hr
    subst hr
    refine ⟨_, executes_movi.right rfl hat hh (by simp [ha, x_of_atWord hat hh, hop]), ?_⟩
    rw [← nextPc_word (x_of_atWord hat hh), x_of_atWord hat hh, if_neg Bool.false_ne_true, begun_op2s]
    exact result_spec begun_begun _ rfl rfl
  case moviX =>
    intro s e c w x h hat hh ha hk
    have hx := x_of_atWords hat hh
    have he : h.e = x := by rw [hh]; rfl
    refine ⟨_, executes_movi.rightExt rfl hat hh (by simp [ha, hx, hk]), ?_⟩
    rw [← nextPc_ext hx, if_pos hx, he]
    exact result_spec begun_begunX _ rfl rfl
  case moviWrong => exact fun s e c w h hat hh hbad => executes_movi.wrong rfl hat hh (by simpa [x_of_atWord hat hh] using hbad)
  case moviXWrong => exact fun s e c w x h hat hh hbad => executes_movi.wrongExt rfl hat hh (by simpa [x_of_atWords hat hh] using hbad)
  case mov =>
    intro s e c w h r hat hh ha hop hr
    subst hr
    exact executes_mov.dataSpec hat hh (by simp [ha, hop]) (begun_op2z ..) (by rw [begun_op2z, flagsOf])
  case add =>
    intro s e c w h u v hat hh hop hu hv
    subst hu hv
    refine executes_add.dataSpec hat hh hop (by rw [begun_getV, begun_op2s]) ?_
    rw [begun_getV, begun_op2s, addFlags]
    simp only [ne_comm]
  case sub =>
    intro s e c w h u v hat hh hop hu hv
    subst hu hv
    refine executes_sub.dataSpec hat hh hop (by rw [begun_getV, begun_op2s]) ?_
    rw [begun_getV, begun_op2s, subFlags]
    simp only [ne_comm]
  case and =>
    intro s e c w h r hat hh hop hr
    subst hr
    exact executes_and.dataSpec hat hh hop (by rw [begun_getV, begun_op2z]) (by rw [begun_getV, begun_op2z, flagsOf])
  case or =>
    intro s e c w h r hat hh hop hr
    subst hr
    exact executes_or.dataSpec hat hh hop (by rw [begun_getV, begun_op2z]) (by rw [begun_getV, begun_op2z, flagsOf])
  case xor =>
    intro s e c w h r hat hh hop hr
    subst hr
    exact executes_xor.dataSpec hat hh hop (by rw [begun_getV, begun_op2z]) (by rw [begun_getV, begun_op2z, flagsOf])
  case shl =>
    intro s e c w h r hat hh hop hr
    subst hr
    exact executes_shl.dataSpec hat hh hop (by rw [begun_getV, begun_op2z]) (by rw [begun_getV, begun_op2z, flagsOf])
  case shr =>
    intro s e c w h r hat hh hop hr
    subst hr
    exact executes_shr.dataSpec hat hh hop (by rw [begun_getV, begun_op2z]) (by rw [begun_getV, begun_op2z, flagsOf])
  case sar =>
    intro s e c w h r hat hh hop hr
    subst hr
    exact executes_sar.dataSpec hat hh hop (by rw [begun_getV, begun_op2z]) (by rw [begun_getV, begun_op2z, flagsOf])
  case cmp =>
    intro s e c w h u v hat hh hd hop hu hv
    subst hu hv
    refine ⟨_, executes_cmp.right rfl hat hh (by simp [hd, hop]), setCtx_spec begun_begun ?_⟩
    rw [setFlags_eq, stepOver_setCtx, nextPc_word (x_of_atWord hat hh), begun_ctx, begun_getV, begun_op2s, subFlags, bitAt_msb, ctxAfter]
    simp only [ne_eq, eq_comm]
  case ldb =>
    intro s e c w h n l r hat hh hop hn hl hr
    subst hn hl
    have hword : ldbWord h c s = r := by rw [hr, ldbWord, ldbSrc, orderNat]; simp only [beq_iff_eq]
    refine ⟨_, executes_ldb.right rfl hat hh hop, setV_spec begun_begun ?_⟩
    rw [ldbWord_begun, hword, setF_eq, result_setCtx, nextPc_word (x_of_atWord hat hh), begun_ctx, ldbSrc_begun, begun_op2z, flagsOf,
      bitAt_msb, ctxAfter, ldbSrc]
  case stb =>
    intro s e c w h n l hat hh hop ha hn hle hl
    subst hn hl
    have hlen : (overlay (varBytes s c) (op2z s c h).toNat (stbBytes h c s)).length = 64 := by
      rw [length_overlay (by rw [length_stbBytes, length_varBytes]; exact hle), length_varBytes]
    refine ⟨_, executes_stb.right rfl hat hh (by simp [hop, ha, hle]), ?_⟩
    rw [begun_getV, begun_varBytes, begun_op2z, stbBytes_begun]
    exact stb_spec begun_begun (x_of_atWord hat hh) hlen rfl
  case field =>
    intro s e c w h l n f r hat hh hi hk hl hn hle hf hr
    subst hl hn hf
    have hten : h.k / 2 ^ 10 = 1 ↔ 2 ^ 10 ≤ h.k := by omega
    have hword : fieldWord h c s = r := by rw [hr, fieldWord]; simp only [hten]
    exact executes_field.dataSpec hat hh (by simp [hi, hle]; omega) ((fieldWord_begun ..).trans hword) (by rw [fieldWord_begun, hword, flagsOf])
  case movWrong => exact fun s e c w h hat hh hbad => executes_mov.wrong rfl hat hh hbad
  case addWrong => exact fun s e c w h hat hh hbad => executes_add.wrong rfl hat hh hbad
  case subWrong => exact fun s e c w h hat hh hbad => executes_sub.wrong rfl hat hh hbad
  case andWrong => exact fun s e c w h hat hh hbad => executes_and.wrong rfl hat hh hbad
  case orWrong => exact fun s e c w h hat hh hbad => executes_or.wrong rfl hat hh hbad
  case xorWrong => exact fun s e c w h hat hh hbad => executes_xor.wrong rfl hat hh hbad
  case shlWrong => exact fun s e c w h hat hh hbad => executes_shl.wrong rfl hat hh hbad
  case shrWrong => exact fun s e c w h hat hh hbad => executes_shr.wrong rfl hat hh hbad
  case sarWrong => exact fun s e c w h hat hh hbad => executes_sar.wrong rfl hat hh hbad
  case cmpWrong => exact fun s e c w h hat hh hbad => executes_cmp.wrong rfl hat hh hbad
  case ldbWrong => exact fun s e c w h hat hh hbad => executes_ldb.wrong rfl hat hh hbad
  case stbWrong => exact fun s e c w h hat hh hbad => executes_stb.wrong rfl hat hh (by rwa [begun_op2z])
  case fieldWrong => exact fun s e c w h hat hh hbad => executes_field.wrong rfl hat hh hbad
  case movExt => exact fun s e c w hat => executes_mov.ext rfl hat
  case addExt => exact fun s e c w hat => executes_add.ext rfl hat
  case subExt => exact fun s e c w hat => executes_sub.ext rfl hat
  case andExt => exact fun s e c w hat => executes_and.ext rfl hat
  case orExt => exact fun s e c w hat => executes_or.ext rfl hat
  case xorExt => exact fun s e c w hat => executes_xor.ext rfl hat
  case shlExt => exact fun s e c w hat => executes_shl.ext rfl hat
  case shrExt => exact fun s e c w hat => executes_shr.ext rfl hat
  case sarExt => exact fun s e c w hat => executes_sar.ext rfl hat
  case cmpExt => exact fun s e c w hat => executes_cmp.ext rfl hat
  case ldbExt => exact fun s e c w hat => executes_ldb.ext rfl hat
  case stbExt => exact fun s e c w hat => executes_stb.ext rfl hat
  case fieldExt => exact fun s e c w hat => executes_field.ext rfl hat

end Sys2Proof.Machine
end

section
/-! PROOFS. What an instruction reads of the state in which it has its effect, and how it stops there: blocked (R335, R390). -/

namespace Sys2Proof.Machine

set_option Elab.async false

section Reads

variable {s b : State}

/-- What does not look at the cache and the engines is before an instruction as it was. -/
theorem Begun.congr {α : Type} (hb : Begun s b) (f : State → α)
    (hf : ∀ s m g, f { s with hcache := m, engs := g } = f s := by exact fun _ _ _ => rfl) : f b = f s := by
  rw [hb.rest]
  exact hf _ _ _

theorem Begun.get (hb : Begun s b) (g : FldRef) : b.get g = s.get g := get_congr hb.regs g

theorem regs_dipPatch (k : Nat) (F : KMap Word → KMap Word) (s : State) : (dipPatch k F s).regs = s.regs :=
  each_ind (fun t => t.regs = s.regs) _ _ s rfl fun i _ t ht => by
    split
    · exact ht
    · exact ht

/-- The registers after a chain takes up an ordered reset, if it does (R184 to R186). -/
def takenRegs (n : Nat) (s : State) : KMap Word :=
  match (s.chain n).nxt with
  | none => s.regs
  | some r =>
    if duePast s (s.chain n) r then
      ((wr (Reg.CH_TH_STATE n 0) 0 (wr (Reg.CH_TH_STATE n 1) 0 (wr (Reg.CH_LAST n) 0xC0 (wr (Reg.CH_LAST_SEQ n) 0 s)))).put
        (.CH_FC_STATE_PRESET_EFF n) r.preset).regs
    else s.regs

def settledRegs (n : Nat) (s : State) : KMap Word :=
  match (s.chain n).nxt with
  | some r => if r.anchor ≤ now s then takenRegs n s else s.regs
  | none => s.regs

theorem regs_takeUp (n : Nat) (s : State) : (takeUp n s).regs = takenRegs n s := by
  cases hn : (s.chain n).nxt with
  | none => simp only [takeUp, takenRegs, hn]
  | some r =>
    simp only [takeUp, takenRegs, hn, apply_ite State.regs, regs_dipPatch]
    rfl

theorem regs_settled (n : Nat) (s : State) : (settled n s).regs = settledRegs n s := by
  cases hn : (s.chain n).nxt with
  | none => simp only [settled, settledRegs, hn]
  | some r => simp only [settled, settledRegs, hn, apply_ite State.regs, regs_takeUp]

theorem Begun.lastWord (hb : Begun s b) (n : Nat) : lastWord b n = Machine.lastWord s n :=
  hb.congr (Machine.lastWord · n) fun s m g => rd_congr ((regs_settled n { s with hcache := m, engs := g }).trans (regs_settled n s).symm) _

theorem Begun.lastSeq (hb : Begun s b) (n : Nat) : lastSeq b n = Machine.lastSeq s n :=
  hb.congr (Machine.lastSeq · n) fun s m g => rd_congr ((regs_settled n { s with hcache := m, engs := g }).trans (regs_settled n s).symm) _

theorem Begun.dinWord (hb : Begun s b) (n a : Nat) : dinWord b n a = Machine.dinWord s n a := by
  unfold Machine.dinWord
  rw [hb.lastWord, hb.get, hb.get, hb.rd, hb.rd, hb.rd, hb.congr (onTimeVal · n), hb.congr freeNow]

end Reads

section Ends

variable {s b t : State} {e c op on : Nat} {w : Wait} {x : CtxSt}

/-- Nothing that a context stops for changes the base of its program. -/
theorem offOf_congr {t : State} (h : t.get (.CTX_PROG_PROG c) = s.get (.CTX_PROG_PROG c)) (a : Nat) : offOf t c a = offOf s c a := by
  rw [offOf, h, offOf]

/-- `s` with what a context that blocks changes taken from `t`. -/
def blockFrom (s t : State) : State := { s with regs := t.regs, ctxs := t.ctxs, engs := t.engs, blockCtr := t.blockCtr }

/-- `s` with the number of the next block. -/
def setBlockCtr (n : Nat) (s : State) : State := { s with blockCtr := n }

theorem setBlockCtr_frame {P : FldRef → Prop} (n : Nat) (s : State) : Frame blockFrom P s (setBlockCtr n s) := .of_regs rfl rfl

theorem setCtx_blocks {P : FldRef → Prop} (s : State) (c : Nat) (x : CtxSt) : Frame blockFrom P s (s.setCtx c x) := .of_regs rfl rfl

theorem ctxBlock_eq (on : Nat) (w : Wait) (s : State) : ctxBlock c on w s =
    setBlockCtr (s.blockCtr + 1) ((offEngine c (ctxState c stBlocked on s)).setCtx c { s.ctx c with wait := w, blockNo := s.blockCtr }) := by
  rw [ctxBlock, State.modCtx, ctx_offEngine, ctx_ctxState, setBlockCtr]

theorem ctxBlock_frame (on : Nat) (w : Wait) (s : State) : Frame blockFrom (offStat c) s (ctxBlock c on w s) := by
  have hoff : Frame waitFrom (offStat c) s (offEngine c (ctxState c stBlocked on s)) :=
    ((ctxState_stat _ _ s).mono fun _ => id).trans (offEngine_frame c _)
  have hblock : Frame blockFrom (offStat c) s (offEngine c (ctxState c stBlocked on s)) := hoff.mono fun _ => id
  rw [ctxBlock_eq]
  exact (hblock.trans (setCtx_blocks _ _ _)).trans (setBlockCtr_frame _ _)

theorem ctx_ctxBlock (on : Nat) (w : Wait) (s : State) : (ctxBlock c on w s).ctx c = { s.ctx c with wait := w, blockNo := s.blockCtr } := by
  have h (n : Nat) (u : State) : (setBlockCtr n u).ctx c = u.ctx c := rfl
  rw [ctxBlock_eq, h, ctx_setCtx]

theorem ctxs_ctxBlock (on : Nat) (w : Wait) (s : State) : (ctxBlock c on w s).ctxs = kset {} s.ctxs c ((ctxBlock c on w s).ctx c) := by
  have h (u : State) (x : CtxSt) : (setBlockCtr (s.blockCtr + 1) (u.setCtx c x)).ctxs = kset {} u.ctxs c x := rfl
  rw [ctx_ctxBlock, ctxBlock_eq, h, ctxs_offEngine, ctxs_ctxState]

theorem get_ctxBlock (on : Nat) (w : Wait) (s : State) :
    (ctxBlock c on w s).get (.CTX_STAT_STATE c) = stBlocked ∧ (ctxBlock c on w s).get (.CTX_STAT_WAIT_ON c) = on % 16 := by
  have h (u : State) (x : CtxSt) (g : FldRef) : (setBlockCtr (s.blockCtr + 1) (u.setCtx c x)).get g = u.get g := rfl
  rw [ctxBlock_eq, h, h, get_offEngine _ (by simp) (by simp), get_offEngine _ (by simp) (by simp)]
  exact get_ctxState _ _ _

/-- An instruction that blocks its context, which stays at it (R335). -/
theorem ctxBlock_spec (hon : on < 16) (hb : Begun s b) (ht : t = ctxBlock c on w b) :
    t.get (.CTX_STAT_STATE c) = stBlocked ∧ t.get (.CTX_STAT_WAIT_ON c) = on ∧ (t.ctx c).pc = (s.ctx c).pc ∧
      t = { b with regs := t.regs, ctxs := kset {} s.ctxs c (t.ctx c), engs := t.engs, blockCtr := t.blockCtr } ∧
      ∀ a, a ≠ Reg.CTX_STAT c → rd t a = rd s a := by
  obtain ⟨hst, hw⟩ := get_ctxBlock (c := c) on w b
  have hctxs : t.ctxs = kset {} s.ctxs c (t.ctx c) := by rw [ht, ctxs_ctxBlock, hb.ctxs]
  refine ⟨ht ▸ hst, ?_, ?_, ?_, fun a ha => ?_⟩
  · rw [ht, hw, Nat.mod_eq_of_lt hon]
  · rw [ht, ctx_ctxBlock, hb.ctx]
  · rw [← hctxs, ht]
    exact (ctxBlock_frame on w b).rest
  · rw [ht, (ctxBlock_frame on w b).rd a ha, hb.rd]

end Ends

end Sys2Proof.Machine
end

section
/-! PROOFS. Registers as contexts read them, and the base of a program beside a diagnostic event (R83, R364, R379). -/

namespace Sys2Proof.Machine

set_option Elab.async false

section BusRead

theorem ctxs_qStore (q : Nat) (l : List QEnt) (s : State) : (qStore q l s).ctxs = s.ctxs := by
  rw [(qStore_rest q l s).rest]
  rfl

theorem ctxs_popNext (k q : Nat) (s : State) : (popNext k q s).ctxs = s.ctxs := by
  have hlost : (if (s.psh q k).words ≠ [] ∧ ¬ (s.psh q k).hiDone then s.inc (.Q_LOST_LOST_HALF q) else s).ctxs = s.ctxs := by
    split
    · exact State.put_ctxs _ _ _
    · rfl
  unfold popNext
  simp only
  split
  · exact (ctxs_qStore _ _ _).trans hlost
  · rw [ctxs_qStore]
    split
    · exact (State.put_ctxs _ _ _).trans ((ctxs_qStore _ _ _).trans hlost)
    · exact (ctxs_qStore _ _ _).trans hlost

theorem ctxs_popHi (k q : Nat) (s : State) : (popHi k q s).ctxs = s.ctxs := by
  unfold popHi
  simp only
  split <;> rfl

theorem ctxs_popStream (k q : Nat) (s : State) : (popStream k q s).ctxs = s.ctxs := by
  unfold popStream
  simp only
  split
  · exact ctxs_popNext k q s
  · split <;> rfl

theorem ctxs_each {β : Type} (l : List β) (f : β → State → State) (s : State) (hf : ∀ x t, (f x t).ctxs = t.ctxs) : (s.each l f).ctxs = s.ctxs :=
  each_ind (fun t => t.ctxs = s.ctxs) l f s rfl fun x _ t ht => (hf x t).trans ht

theorem ctxs_lvbFront (p b : Nat) (e : RxEnt) (s : State) : (lvbFront p b e s).ctxs = s.ctxs := by
  rw [lvbFront, ctxs_each _ _ _ fun _ t => wr_ctxs _ _ t, wr_ctxs, wr_ctxs, wr_ctxs, wr_ctxs]

theorem ctxs_setLvb (p b : Nat) (x : LvbSt) (s : State) : (setLvb p b x s).ctxs = s.ctxs := State.modCan_ctxs _ _ _

theorem ctxs_lvbOpen (p b : Nat) (s : State) : (lvbOpen p b s).ctxs = s.ctxs := by
  unfold lvbOpen
  simp only
  split
  · rw [ctxs_lvbFront, ctxs_setLvb, State.put_ctxs, State.put_ctxs]
  · rw [ctxs_setLvb, State.put_ctxs, State.put_ctxs]

theorem ctxs_lvbUnlock (p b k : Nat) (s : State) : (lvbUnlock p b k s).ctxs = s.ctxs := by
  unfold lvbUnlock
  simp only
  split
  · split
    · exact ctxs_lvbOpen p b s
    · exact ctxs_setLvb _ _ _ s
  · rfl

theorem ctxs_clearRc (a : Nat) (s : State) : (clearRc a s).ctxs = s.ctxs := by
  unfold clearRc
  simp only
  split <;> rfl

/-- What a read does beside returning a word leaves the contexts. -/
theorem ctxs_readEffect (r : Req) (a : Nat) (s : State) : (readEffect r a s).ctxs = s.ctxs := by
  unfold readEffect
  simp only
  split
  · split
    · exact ctxs_popNext _ _ s
    · exact ctxs_popHi _ _ s
    · exact ctxs_popStream _ _ s
    · rfl
  · split
    · split
      · rfl
      · split
        · exact ctxs_lvbUnlock _ _ _ s
        · rfl
    · split
      · exact ctxs_clearRc a s
      · exact ctxs_clearRc a s

theorem ctxs_noteRead (r : Req) (a : Nat) (s : State) : (noteRead r a s).ctxs = s.ctxs := by
  unfold noteRead
  split <;> rfl

/-- A read of a word leaves the contexts. -/
theorem ctxs_busRead (r : Req) (a : Nat) (s : State) : (busRead r a s).2.ctxs = s.ctxs := by
  unfold busRead
  split
  · exact (ctxs_noteRead _ _ _).trans (ctxs_readEffect r a s)
  · split
    · exact ctxs_noteRead _ _ _
    · simp only
      split
      · rfl
      · exact (ctxs_noteRead _ _ _).trans (State.put_ctxs _ _ _)

theorem ctx_busRead (r : Req) (a : Nat) (s : State) (c : Nat) : (busRead r a s).2.ctx c = s.ctx c := by rw [State.ctx, ctxs_busRead, State.ctx]

end BusRead

section Prog

/-- The base of a context's program. -/
def progBase (g : FldRef) : Prop := ∃ c, g = .CTX_PROG_PROG c

/-- A register of a context but its `CTX_PROG`. -/
theorem Frame.progPut {f : State → State → State} {s t : State} (h : Frame f progBase s t) (g : FldRef) (v : Nat)
    (hg : ∀ c, Reg.CTX_PROG c ≠ g.a)
    (hf : ∀ s t m, { f s t with regs := m } = f s { f s t with regs := m } := by exact fun _ _ _ => rfl) : Frame f progBase s (t.put g v) :=
  h.put g v (fun p hp => by obtain ⟨c, rfl⟩ := hp; exact hg c) hf

theorem Frame.progWr {f : State → State → State} {s t : State} (h : Frame f progBase s t) (a : Nat) (w : Word) (ha : ∀ c, Reg.CTX_PROG c ≠ a)
    (hf : ∀ s t m, { f s t with regs := m } = f s { f s t with regs := m } := by exact fun _ _ _ => rfl) : Frame f progBase s (Machine.wr a w t) :=
  h.wr a w (fun p hp => by obtain ⟨c, rfl⟩ := hp; exact ha c) hf

theorem writeCkpt_prog (d : Nat) (r : Ckpt) (s : State) : Frame trigsFrom progBase s (writeCkpt d r s) := by
  have hoff (c : Nat) : Reg.CTX_PROG c ≠ Reg.CTX_CKPT d := by simp only [Reg.CTX_PROG, Reg.CTX_CKPT]; omega
  exact .ite (fun _ => modCtx_frame s d _) fun _ =>
    (((modCtx_frame s d _).progPut (.CTX_CKPT_VALID d) _ hoff).progPut (.CTX_CKPT_ONCE d) _ hoff).progPut (.CTX_CKPT_OFFSET d) _ hoff

theorem startRun_prog (d : Nat) (r : TrigRec) (s : State) : Frame trigsFrom progBase s (startRun d r s) := by
  have hstat (c : Nat) : Reg.CTX_PROG c ≠ Reg.CTX_STAT d := by simp only [Reg.CTX_PROG, Reg.CTX_STAT]; omega
  have hruns (c : Nat) : Reg.CTX_PROG c ≠ Reg.CTX_RUNS d := by simp only [Reg.CTX_PROG, Reg.CTX_RUNS]; omega
  have hinfo (i : Nat) (hi : i < 4) (c : Nat) : Reg.CTX_PROG c ≠ Reg.CTX_TINFO d i := by simp only [Reg.CTX_PROG, Reg.CTX_TINFO]; omega
  have h1 : Frame trigsFrom progBase s (ctxState d stReady 0 s) :=
    ((Frame.refl s).progPut (.CTX_STAT_STATE d) _ hstat).progPut (.CTX_STAT_WAIT_ON d) _ hstat
  have h2 (v : Nat) := (((h1.progPut (.CTX_STAT_PEND d) 0 hstat).progPut (.CTX_STAT_TKO d) 0 hstat).progPut (.CTX_STAT_ONCE_OPEN d) 0 hstat).progPut
    (.CTX_RUNS_RUNS d) v hruns
  have h3 (v : Nat) (w0 w1 w2 w3 : Word) := ((((h2 v).progWr (Reg.CTX_TINFO d 0) w0 (hinfo 0 (by decide))).progWr (Reg.CTX_TINFO d 1) w1
    (hinfo 1 (by decide))).progWr (Reg.CTX_TINFO d 2) w2 (hinfo 2 (by decide))).progWr (Reg.CTX_TINFO d 3) w3 (hinfo 3 (by decide))
  exact ((h3 _ _ _ _ _).trans (modCtx_frame _ d _)).trans (writeCkpt_prog d _ _)

theorem acceptTrig_prog (d : Nat) (r : TrigRec) (k : Bool) (s : State) : Frame trigsFrom progBase s (acceptTrig d r k s) := by
  have hlost : Frame trigsFrom progBase s (trigLost d s) :=
    ((Frame.refl s).progPut (.CTX_CNT_TRIG_LOST d) _ fun c => by simp only [Reg.CTX_PROG, Reg.CTX_CNT]; omega).trans (modCtx_frame _ d _)
  exact .ite (fun _ => .refl s) fun _ => .ite (fun _ => hlost) fun _ =>
    .ite (fun _ => .ite (fun _ => hlost) fun _ => ((Frame.refl s).progPut (.CTX_STAT_PEND d) 1 fun c => by
      simp only [Reg.CTX_PROG, Reg.CTX_STAT]; omega).trans (modCtx_frame _ d _)) fun _ => startRun_prog d r s

theorem fireTrigs_prog (ts : List Trig) (s : State) : Frame trigsFrom progBase s (fireTrigs ts s) := by
  refine (noteTrigs_frame ts s).trans (.each _ _ _ fun c _ t => ?_)
  split
  · exact acceptTrig_prog _ _ _ t
  · exact .refl t

theorem noQueueReg_prog (c : Nat) : noQueueReg (Reg.CTX_PROG c) := by simp only [noQueueReg, Reg.CTX_PROG, Reg.MOD_IRQ]; omega

theorem qPush_prog (q : Nat) (p : Prod) (es : List (List Word)) (s : State) : Frame queuedFrom progBase s (qPush q p es s) :=
  .of_rd (qPush_frame q p es s).rest fun _ ⟨c, hc⟩ => hc ▸ qPush_rd (noQueueReg_prog c) q p es s

theorem qPushFixed_prog (n q : Nat) (p : Prod) (es : List (List Word)) (s : State) : Frame queuedFrom progBase s (qPushFixed n q p es s) :=
  .of_rd (qPushFixed_frame n q p es s).rest fun _ ⟨c, hc⟩ => hc ▸ qPushFixed_rd (noQueueReg_prog c) n q p es s

theorem writePennant_prog (p : Prod) (w : List Word) (irq : Bool) (s : State) : Frame queuedFrom progBase s (writePennant p w irq s) := by
  have hstat (c : Nat) : Reg.CTX_PROG c ≠ Reg.EV_STAT := by simp only [Reg.CTX_PROG, Reg.EV_STAT]; omega
  have hirq (c : Nat) : Reg.CTX_PROG c ≠ Reg.MOD_IRQ := by simp only [Reg.CTX_PROG, Reg.MOD_IRQ]; omega
  have hpush (v : Nat) := (qPush_prog (s.get .EV_CFG_PEN_Q) p [w] s).progPut .EV_STAT_PEN_CNT v hstat
  exact .ite (fun _ => .ite (fun _ => (hpush _).progPut ⟨Reg.MOD_IRQ, irqPen, irqPen⟩ 1 hirq) fun _ => hpush _) fun _ =>
    ((qPushFixed_prog 16 _ p [w] s).progPut .EV_STAT_PEN_LOST _ hstat).progPut ⟨Reg.MOD_IRQ, irqPenDrop, irqPenDrop⟩ 1 hirq

theorem raisePennants_prog (p : Prod) (l : List Pen) (s : State) : Frame eventsFrom progBase s (raisePennants p l s) := by
  have hpen (x : Pen) (t : State) : Frame eventsFrom progBase t (writePen p x t) := by
    unfold writePen dipLevel
    exact ((writePennant_prog p _ _ t).mono fun _ => id).trans (dipPatch_frame _ _ _)
  exact (Frame.each _ _ _ fun x _ t => hpen x t).trans ((fireTrigs_prog _ _).mono fun _ => id)

/-- A diagnostic event of a channel leaves the bases of programs. -/
theorem diagLatch_prog {n : Nat} (hn : n < 256) (m : Nat) (s : State) : Frame eventsFrom progBase s (diagLatch n m s) := by
  have hdiag (c : Nat) : Reg.CTX_PROG c ≠ Reg.CH_DIAG n := by simp only [Reg.CTX_PROG, Reg.CH_DIAG]; omega
  have hirq (c : Nat) : Reg.CTX_PROG c ≠ Reg.MOD_IRQ := by simp only [Reg.CTX_PROG, Reg.MOD_IRQ]; omega
  have hset (v : Nat) : Frame eventsFrom progBase s (raiseIrq irqDiag (s.put (.CH_DIAG_LATCHED n) v)) :=
    ((Frame.refl s).progPut (.CH_DIAG_LATCHED n) v hdiag).progPut ⟨Reg.MOD_IRQ, irqDiag, irqDiag⟩ 1 hirq
  unfold diagLatch
  exact .ite (fun _ => .refl s) fun _ => .ite (fun _ => (hset _).trans (raisePennants_prog _ _ _)) fun _ => hset _

/-- An output command that is refused leaves the bases of programs (R82). -/
theorem prog_doCmd_refused {n : Nat} {v : Bool} (hn : isDO n = true) {s : State} (h : doRefused s n v = true) (c : Nat) :
    (doCmd n v s).get (.CTX_PROG_PROG c) = s.get (.CTX_PROG_PROG c) := by
  have hlt : n < 256 := by
    simp only [isDO, Bool.and_eq_true, decide_eq_true_eq] at hn
    exact hn.1.1
  rw [doCmd, if_pos h, pairConflict]
  exact (diagLatch_prog hlt _ s).get _ ⟨c, rfl⟩

end Prog

end Sys2Proof.Machine
end

section
/-! PROOFS. RDR and WRR (R371, R379, R390): how a register is read, and what a write of each block does. -/

namespace Sys2Proof.Machine

set_option Elab.async false

section Rows

variable {e : Fin 8}

theorem executes_rdr : Executes (.rdr e) 0x26 .either e (fun c h s => regForm h 0 && hoistAddr (regAddr s c h true)) fun c h s u =>
    result c h (busRead (.eng e) (regAddr s c h true) u).1 (flagsOf (busRead (.eng e) (regAddr s c h true) u).1)
      (busRead (.eng e) (regAddr s c h true) u).2 := fun _ => rfl

/-- A refusal under NOFAULT goes on with F set; without it the run ends (R390). -/
def refused (c : Nat) (nofault : Bool) (h : HWord) (pc : Nat) (s : State) : State :=
  if nofault then stepOver c h (setF c true s) else endRun c ccRefused (wd (offOf s c pc)) s

theorem refuse_eq (c pc : Nat) (nofault : Bool) (h : HWord) (s : State) :
    (if nofault = true then stepOver c h (refuse c pc nofault s) else refuse c pc nofault s) = refused c nofault h pc s := by
  cases nofault <;> rfl

theorem executes_wrr : Executes (.wrr e) 0x27 .either e (fun c h s => regForm h 1 && hoistAddr (regAddr s c h false)) fun c h s u =>
    if wrrBlock (regAddr s c h false) then wrrWrite e c (regAddr s c h false) (h.x && h.a == 1) h (getV u c h.d) u
    else if h.x && h.a == 1 then stepOver c h (refuse c (u.ctx c).pc (h.x && h.a == 1) u) else refuse c (u.ctx c).pc (h.x && h.a == 1) u := fun _ => rfl

end Rows

section Write

variable {e : Fin 8} {c g n u : Nat} {nofault : Bool} {h : HWord} {v : Word} {s b : State}

/-- WRR of `CH_DO_CMD` acts as DOUT (R379). -/
theorem wrrWrite_out (hlo : 0x20000 ≤ g) (hhi : g < 0x30000) (hn : isDO ((g - 0x20000) / 0x100) = true) (hg : g % 0x100 = 0x44)
    (hr : doRefused b ((g - 0x20000) / 0x100) (bitAt v 0) = false) : wrrWrite e c g nofault h v b =
      stepOver c h (setFlags c (flagsOf v) (setF c false (doCmd ((g - 0x20000) / 0x100) (bitAt v 0) b))) := by
  simp [wrrWrite, hlo, hhi, hn, hg, hr]

theorem wrrWrite_outRefused (hlo : 0x20000 ≤ g) (hhi : g < 0x30000) (hn : isDO ((g - 0x20000) / 0x100) = true) (hg : g % 0x100 = 0x44)
    (hr : doRefused b ((g - 0x20000) / 0x100) (bitAt v 0) = true) : wrrWrite e c g nofault h v b =
      refused c nofault h (b.ctx c).pc (doCmd ((g - 0x20000) / 0x100) (bitAt v 0) b) := by
  rw [← refuse_eq]
  simp [wrrWrite, hlo, hhi, hn, hg, hr]

/-- WRR of `CH_AO_SET` acts as AOUT. -/
theorem wrrWrite_set (hlo : 0x20000 ≤ g) (hhi : g < 0x30000) (hn : isAO ((g - 0x20000) / 0x100) = true) (hg : g % 0x100 = 0x88) :
    wrrWrite e c g nofault h v b = stepOver c h (setFlags c (flagsOf v) (aoSet ((g - 0x20000) / 0x100) (bits v 15 0) b)) := by
  simp [wrrWrite, hlo, hhi, hn, hg]

/-- A START of a unit that another holds blocks (R335). -/
theorem wrrWrite_held (hlo : 0x3000 ≤ g) (hhi : g < 0x3200) (hg : g % 0x40 = 0x08) (hv : bits v 3 0 = 1)
    (hw : b.get (.CV_CFG_WIDTH ((g - 0x3000) / 0x40)) ≠ 0) (hf : (b.cv ((g - 0x3000) / 0x40)).hold ≠ .free)
    (hc : (b.cv ((g - 0x3000) / 0x40)).hold ≠ .ctx c) : wrrWrite e c g nofault h v b = ctxBlock c 8 .none b := by
  simp [wrrWrite, hlo, hhi, hg, hv, hw, hf, hc, show ¬ 0x20000 ≤ g by omega]

/-- Every other write is the register's own. -/
theorem wrrWrite_plain (hchan : (decide (0x20000 ≤ g) && decide (g < 0x30000) && ((isDO ((g - 0x20000) / 0x100) && g % 0x100 == 0x44) ||
      (isAO ((g - 0x20000) / 0x100) && g % 0x100 == 0x88))) = false)
    (hcv : (decide (0x3000 ≤ g) && decide (g < 0x3200) && g % 0x40 == 0x08 && bits v 3 0 == 1) = false) :
    wrrWrite e c g nofault h v b = stepOver c h (setFlags c (flagsOf v) (regWrite (.eng e) g (busMask g) v (busFn0 (.eng e) g) b)) := by
  have hdo : (decide (0x20000 ≤ g) && decide (g < 0x30000) && isDO ((g - 0x20000) / 0x100) && g % 0x100 == 0x44) = false := by
    simp only [Bool.and_eq_false_iff, Bool.or_eq_false_iff] at hchan ⊢
    tauto
  have hao : (decide (0x20000 ≤ g) && decide (g < 0x30000) && isAO ((g - 0x20000) / 0x100) && g % 0x100 == 0x88) = false := by
    simp only [Bool.and_eq_false_iff, Bool.or_eq_false_iff] at hchan ⊢
    tauto
  simp only [wrrWrite, hdo, hao, hcv, Bool.false_and, Bool.false_eq_true, if_false]

end Write

section Forms

variable {e : Fin 8} {c g : Nat} {h : HWord} {v w x : Word} {s : State}

theorem regAddr_ext {y : Word} {b : Bool} (hx : h.x = true) (hh : h = fieldsOf w y) (s : State) (c : Nat) : regAddr s c h b = y.toNat := by
  rw [regAddr, if_pos hx, hh]
  rfl

/-- A WRR of one word, into its blocks or elsewhere (R379). -/
theorem exec_wrr_word (hat : atWord s e c 0x27 w = true) (hh : h = fieldsOf w 0#32) (hi : h.i = true) (hg : g = regAddr s c h false)
    (hga : hoistAddr g = true) (hv : v = getV s c h.d) : exec (.wrr e) s = .next (if wrrBlock g then wrrWrite e c g false h v (begun e c 0x27 s)
      else endRun c ccRefused (wd (offOf s c (s.ctx c).pc)) (begun e c 0x27 s)) := by
  have hx := x_of_atWord hat hh
  subst hg hv
  rw [executes_wrr.right rfl hat hh (by rw [regForm, hx, begun_regAddr, hga]; simp [hi]), begun_regAddr, begun_getV, refuse_eq, hx, Bool.false_and, refused,
    begun_offOf, begun_ctx]
  rfl

/-- A WRR with its address in an extension word. -/
theorem exec_wrr_ext (hat : atWords s e c 0x27 w x = true) (hh : h = fieldsOf w x) (hk : noK h = true) (ha : h.a ≤ 1) (hg : g = x.toNat)
    (hga : hoistAddr g = true) (hv : v = getV s c h.d) : exec (.wrr e) s = .next (if wrrBlock g then wrrWrite e c g (h.a == 1) h v (begunX e c 0x27 s)
      else refused c (h.a == 1) h (s.ctx c).pc (begunX e c 0x27 s)) := by
  have hx := x_of_atWords hat hh
  subst hg hv
  rw [executes_wrr.rightExt rfl hat hh (by rw [regForm, hx, regAddr_ext hx hh, hga]; simp [hk, ha]), regAddr_ext hx hh, begunX_getV, refuse_eq, hx,
    Bool.true_and, begunX_ctx]

theorem wrrBlock_chan (hlo : 0x20000 ≤ g) (hhi : g < 0x30000) : wrrBlock g = true := by simp [wrrBlock, hlo, hhi]
theorem wrrBlock_cv (hlo : 0x3000 ≤ g) (hhi : g < 0x3200) : wrrBlock g = true := by simp [wrrBlock, hlo, hhi]

/-- A refused output command, as its run ends (R390). -/
theorem refused_doCmd {n : Nat} {o nofault : Bool} (hn : isDO n = true) (hr : doRefused s n o = true) (pc : Nat) :
    refused c nofault h pc (doCmd n o s) =
      if nofault then stepOver c h (setF c true (doCmd n o s)) else endRun c ccRefused (wd (offOf s c pc)) (doCmd n o s) := by
  rw [refused, offOf_congr (prog_doCmd_refused hn hr c)]

end Forms

end Sys2Proof.Machine
end

section
/-! PROOFS. What the instructions of checks and of the field leave (R395, R396): the check-value unit, V[D], the flags. -/

namespace Sys2Proof.Machine

set_option Elab.async false

section Rows

variable {e : Fin 8}

theorem executes_cvstart : Executes (.cvstart e) 0x28 .never e (fun c h s => bare h && (cvOf s c).isSome) fun c h _ u =>
    if (u.cv ((cvOf u c).getD 0)).hold = .free ∨ (u.cv ((cvOf u c).getD 0)).hold = .ctx c then stepOver c h (cvTake ((cvOf u c).getD 0) (.ctx c) u)
    else ctxBlock c 8 .none u := fun _ => rfl

/-- The bytes that CVFEED feeds, and whether they run past the end of their source. -/
def fedBytes (h : HWord) (c : Nat) (s : State) : List Byte :=
  if h.a = 3 then leBytes 4 (getV s c h.d).toNat else (((feedSource s c h.a).getD []).drop (op2z s c h).toNat).take (getV s c h.d).toNat
def fedPast (h : HWord) (c : Nat) (s : State) : Bool :=
  h.a != 3 && decide (((feedSource s c h.a).getD []).length < (op2z s c h).toNat + (getV s c h.d).toNat)

theorem executes_cvfeed : Executes (.cvfeed e) 0x29 .never e
    (fun c h s => op2Ok h && decide (h.a ≤ 3) && holdsCv s c && (h.a == 3 || (feedSource s c h.a).isSome)) fun c h _ u =>
    stepOver c h (setF c (fedPast h c u) (cvFeed ((cvOf u c).getD 0) (.ctx c) (fedBytes h c u) u)) := fun _ => rfl

/-- The context's record after the comparison of a CVCHK. -/
def chkShown (x : CtxSt) : Option Bool → CtxSt
  | none => x
  | some v => { x with zf := v, ff := !v }

/-- The result of a CVCHK. -/
def chkResult (s : State) (u : Nat) : Nat := (cvPar s u).finish (s.cv u).run

theorem executes_cvchk : Executes (.cvchk e) 0x2A .never e
    (fun c h s => op2Ok h && decide (h.a ≤ 3) && (h.a != 1 || !h.i) && holdsCv s c && (decide (h.a < 2) || (resvMsg s c).isSome)) fun c h _ u =>
    stepOver c h (match chkEqual u c h (cvPar u ((cvOf u c).getD 0)).w (chkResult u ((cvOf u c).getD 0)) with
      | none => (setV c h.d (wd (chkResult u ((cvOf u c).getD 0))) u).setCv ((cvOf u c).getD 0) {}
      | some v => ((setV c h.d (wd (chkResult u ((cvOf u c).getD 0))) u).setCv ((cvOf u c).getD 0) {}).modCtx c
          fun x => { x with zf := v, ff := !v }) := fun _ => rfl

/-- The output that DOUT commands. -/
def doutOn (s : State) (c : Nat) (h : HWord) : Bool := if h.i then h.k / 256 == 1 else bitAt (getV s c h.d) 0

theorem executes_dout : Executes (.dout e) 0x2C .never e (fun c h s => decide (h.a < 2) && isDO ((chanOf s c h 9).getD 256)) fun c h s u =>
    if doRefused u ((chanOf s c h 9).getD 256) (doutOn u c h) then
      (if h.a = 1 then stepOver c h (refuse c (u.ctx c).pc (h.a == 1) (doCmd ((chanOf s c h 9).getD 256) (doutOn u c h) u))
       else refuse c (u.ctx c).pc (h.a == 1) (doCmd ((chanOf s c h 9).getD 256) (doutOn u c h) u))
    else stepOver c h (setF c false (doCmd ((chanOf s c h 9).getD 256) (doutOn u c h) u)) := fun _ => rfl

theorem executes_aout : Executes (.aout e) 0x2D .never e (fun c h s => h.a == 0 && isAO ((chanOf s c h 8).getD 256)) fun c h s u =>
    stepOver c h (aoSet ((chanOf s c h 8).getD 256) (bits (getV u c h.d) 15 0) u) := fun _ => rfl

theorem executes_din : Executes (.din e) 0x2E .never e
    (fun c h s => (dinWord s ((chanOf s c h 8).getD 256) h.a).isSome && (h.a != 4 || decide (h.d ≤ 14))) fun c h s u =>
    stepOver c h (if h.a = 4 then setF c (((dinWord u ((chanOf s c h 8).getD 256) h.a).getD 0) == 0xC0) (setV c (h.d + 1)
        (lastSeq u ((chanOf s c h 8).getD 256)) (setV c h.d ((dinWord u ((chanOf s c h 8).getD 256) h.a).getD 0) u))
      else if h.a = 5 then (setV c h.d ((dinWord u ((chanOf s c h 8).getD 256) h.a).getD 0) u).useFree
      else setV c h.d ((dinWord u ((chanOf s c h 8).getD 256) h.a).getD 0) u) := fun _ => rfl

theorem executes_ain : Executes (.ain e) 0x2F .never e (fun _ h _ => h.i && h.k / 2 ^ 9 == 0 && decide (h.a < 4)) fun c h _ u =>
    if injResponse u (h.k % 16) (h.k / 16) (h.a % 2 == 1) = injAccepted ∨ injResponse u (h.k % 16) (h.k / 16) (h.a % 2 == 1) = injHeld then
      injQueue (h.k % 16) { target := h.k / 16, tag := c, ctx := some c, held := injResponse u (h.k % 16) (h.k / 16) (h.a % 2 == 1) == injHeld }
        (ctxWait c 2 (.inj h.d) (stepOver c h u))
    else if injResponse u (h.k % 16) (h.k / 16) (h.a % 2 == 1) = injBusy ∧ 4 ≤ (u.tile (h.k % 16)).inj.length then ctxBlock c 9 .none u
    else if h.a / 2 = 1 then
      stepOver c h (refuse c (u.ctx c).pc (h.a / 2 == 1) (setV c h.d (wd (injResponse u (h.k % 16) (h.k / 16) (h.a % 2 == 1))) u))
    else refuse c (u.ctx c).pc (h.a / 2 == 1) (setV c h.d (wd (injResponse u (h.k % 16) (h.k / 16) (h.a % 2 == 1))) u) := fun _ => rfl

end Rows

variable {s b t : State} {e c u : Nat} {h : HWord} {x : CtxSt}

section Units

theorem cv_setCv (s : State) (u : Nat) (x : CvSt) : (s.setCv u x).cv u = x := kget_kset_same _ _ _ _

/-- An instruction that changes a check-value unit and its context's record. -/
theorem setCv_spec {y : CvSt} (hb : Begun s b) (ht : t = (b.setCv u y).setCtx c x) :
    t.cv u = y ∧ t.ctx c = x ∧ t = { b with ctxs := kset {} s.ctxs c (t.ctx c), cvs := t.cvs } := by
  subst ht
  rw [ctx_setCtx]
  exact ⟨cv_setCv b u y, rfl, by rw [State.setCtx, State.setCv_ctxs, hb.ctxs]; rfl⟩

/-- An instruction that writes a variable, changes a check-value unit and its context's record. -/
theorem setCv_setV_spec {y : CvSt} {d : Nat} {r : Word} (hb : Begun s b) (ht : t = ((setV c d r b).setCv u y).setCtx c x) :
    getV t c d = r ∧ t.cv u = y ∧ t.ctx c = x ∧ t = { b with regs := t.regs, ctxs := kset {} s.ctxs c (t.ctx c), cvs := t.cvs } ∧
      ∀ a, a ≠ Reg.CTX_V c d → rd t a = rd s a := by
  subst ht
  rw [ctx_setCtx]
  refine ⟨rd_wr_same _ _ _, cv_setCv (setV c d r b) u y, rfl, ?_, fun a ha => (rd_wr_ne _ _ _ _ ha).trans (hb.rd a)⟩
  rw [State.setCtx, State.setCv_ctxs, ← hb.ctxs]
  rfl

theorem width_of_cvOf (h : cvOf s c = some u) : s.get (.CV_CFG_WIDTH u) ≠ 0 := by
  unfold cvOf at h
  split at h
  · next hw =>
    obtain rfl := Option.some.inj h
    exact hw.2
  · cases h

/-- A feed of the context that holds the unit (R395, R484). -/
theorem cvFeed_held {l : List Byte} (hw : s.get (.CV_CFG_WIDTH u) ≠ 0) (hh : (s.cv u).hold = .ctx c) (hd : (s.cv u).dma = none) :
    cvFeed u (.ctx c) l s = s.setCv u { s.cv u with run := (cvPar s u).feed (s.cv u).run l } := by
  have htouch : cvTouch u (.ctx c) s = s := if_neg fun h => Bool.false_ne_true h.2
  simp only [cvFeed, htouch, if_neg hw, cvHeldBy, if_pos hh, hd, Option.isSome_none, Bool.false_eq_true, if_false]

/-- What a CVFEED leaves (R395). -/
theorem cvfeed_spec {l : List Byte} {past : Bool} (hb : Begun s b) (hx : h.x = false) (hcv : cvOf s c = some u) (hh : (s.cv u).hold = .ctx c)
    (hd : (s.cv u).dma = none) (ht : t = stepOver c h (setF c past (cvFeed u (.ctx c) l b))) :
    t.cv u = { s.cv u with run := (cvPar s u).feed (s.cv u).run l } ∧ t.ctx c = { s.ctx c with pc := ((s.ctx c).pc + 4) % 2 ^ 32, ff := past } ∧
      t = { b with ctxs := kset {} s.ctxs c (t.ctx c), cvs := t.cvs } := by
  have hcvb : b.cv u = s.cv u := hb.congr (·.cv u)
  have hpar : cvPar b u = cvPar s u := hb.congr (cvPar · u)
  have hfeed : cvFeed u (.ctx c) l b = b.setCv u { s.cv u with run := (cvPar s u).feed (s.cv u).run l } := by
    rw [cvFeed_held (by rw [hb.get]; exact width_of_cvOf hcv) (by rw [hcvb, hh]) (by rw [hcvb, hd]), hcvb, hpar]
  have hctx (y : CvSt) : (b.setCv u y).ctx c = s.ctx c := hb.ctx c
  refine setCv_spec hb ?_
  rw [ht, hfeed, setF_eq, stepOver_setCtx, nextPc_word hx, hctx]

/-- What a CVCHK leaves (R395). -/
theorem cvchk_spec (hb : Begun s b) (hx : h.x = false) (hcv : cvOf s c = some u) (v : Option Bool)
    (hv : chkEqual s c h (cvPar s u).w (chkResult s u) = v) (ht : t = stepOver c h (match chkEqual b c h (cvPar b ((cvOf b c).getD 0)).w
        (chkResult b ((cvOf b c).getD 0)) with
      | none => (setV c h.d (wd (chkResult b ((cvOf b c).getD 0))) b).setCv ((cvOf b c).getD 0) {}
      | some v => ((setV c h.d (wd (chkResult b ((cvOf b c).getD 0))) b).setCv ((cvOf b c).getD 0) {}).modCtx c fun x => { x with zf := v, ff := !v })) :
    getV t c h.d = wd (chkResult s u) ∧ t.cv u = {} ∧ t.ctx c = chkShown { s.ctx c with pc := ((s.ctx c).pc + 4) % 2 ^ 32 } v ∧
      t = { b with regs := t.regs, ctxs := kset {} s.ctxs c (t.ctx c), cvs := t.cvs } ∧ ∀ a, a ≠ Reg.CTX_V c h.d → rd t a = rd s a := by
  refine setCv_setV_spec hb ?_
  have hu : (cvOf b c).getD 0 = u := by rw [hb.congr (cvOf · c), hcv]; rfl
  have hctx (r : Word) (y : CvSt) : ((setV c h.d r b).setCv u y).ctx c = s.ctx c := hb.ctx c
  rw [ht, hu, hb.congr (cvPar · u), hb.congr (chkResult · u), hb.congr (chkEqual · c h (cvPar s u).w (chkResult s u)), hv]
  cases v with
  | none => rw [chkShown, stepOver_eq, nextPc_word hx, hctx]
  | some v =>
    dsimp only
    rw [chkShown, State.modCtx, hctx, stepOver_setCtx, nextPc_word hx]

end Units

end Sys2Proof.Machine
end

section
/-! PROOFS. What the instructions of results, recovery and host leave (R353, R354, R397), and the statement of the unit and result instructions. -/

namespace Sys2Proof.Machine

set_option Elab.async false

section Rows

variable {e : Fin 8}

/-- What PUSH does by A (R397). -/
def pushAct (c q : Nat) (h : HWord) (s : State) : State :=
  match h.a with
  | 2 => stepOver c h (setF c false (commitResv c ((resvMsg s c).getD []) s))
  | 3 => stepOver c h (setF c false (dropResv c s))
  | _ => pushTo c q h ((pushEntry s c q h).getD []) s

theorem executes_push : Executes (.push e) 0x30 .never e (fun c h s => h.i && (resQueue s c).isSome && decide (h.a ≤ 3) &&
    (if h.a < 2 then (pushEntry s c ((resQueue s c).getD 128) h).isSome else (resvMsg s c).isSome)) fun c h s u =>
    pushAct c ((resQueue s c).getD 128) h u := fun _ => rfl

theorem executes_pennant : Executes (.pennant e) 0x31 .never e (fun _ h _ => h.i && decide (h.a < 2) && decide (0x80 ≤ h.k) && decide (h.k < 256))
    fun c h _ u => raisePennant .active h.k { irq := h.a == 1, tko := u.is (.CTX_STAT_TKO c) } 4 c (getV u c h.d) (now u) (stepOver c h u) := fun _ => rfl

/-- The state of which CHECKPOINT and ONCE make their records: the ONCE step closed, and for CHECKPOINT the retry point here. -/
def closedAt (c : Nat) (h : HWord) (s : State) : State := (stepOver c h s).put (.CTX_STAT_ONCE_OPEN c) 0
def checkpointAt (c : Nat) (h : HWord) (s : State) : State :=
  (closedAt c h s).modCtx c fun x => { x with retryPt := (s.ctx c).pc, retryPre := false }

/-- A record written of `s` (R353). -/
def recorded (c : Nat) (once : Bool) (at_ : Nat) (s : State) : State := writeCkpt c (ckptOf s c (s.ctx c).pc once at_) s

theorem executes_checkpoint : Executes (.checkpoint e) 0x34 .never e (fun _ h _ => bare h) fun c h _ u =>
    if hasStandby u then ctxWait c 3 .commit (recorded c false 0 (checkpointAt c h u)) else recorded c false 0 (checkpointAt c h u) := fun _ => rfl

theorem executes_once : Executes (.once e) 0x35 .never e (fun _ h _ => bare h) fun c h _ u =>
    if hasStandby u then ctxWait c 3 .commit (recorded c true (u.ctx c).pc (closedAt c h u))
    else onceOpens c (recorded c true (u.ctx c).pc (closedAt c h u)) := fun _ => rfl

theorem executes_signal : Executes (.signal e) 0x38 .never e (fun _ h _ => h.d == 0 && h.a == 0 && op2Ok h) fun c h _ u =>
    fireTrigs [.cmp c 3 ((ctxRecord u c 2 0 (op2s u c h)).getD 0 0) (now u)] (pushCtxRecord (ctxRecord u c 2 0 (op2s u c h)) true (stepOver c h u)) :=
  fun _ => rfl

end Rows

section Wrong

variable {i : Instr} {op e c : Nat} {r : XRule} {ok : Nat → HWord → State → Bool} {g : Nat → HWord → State → State → State} {s : State}
  {w x : Word} {h : HWord}

/-- A wrong encoding, by a check that does not look at the cache and the engines. -/
theorem Executes.wrongOf (hi : Executes i op r e ok g) (hr : r.ok false = true) (hat : atWord s e c op w = true) (hh : h = fieldsOf w 0#32)
    (hok : ok c h s = false) (hf : ∀ s m g, ok c h { s with hcache := m, engs := g } = ok c h s := by exact fun _ _ _ => rfl) :
    exec i s = .next (endRun c ccProgErr (wd (offOf s c (s.ctx c).pc)) (begun e c op s)) :=
  hi.wrong hr hat hh ((begun_begun.congr (ok c h) hf).trans hok)

theorem Executes.wrongExtOf (hi : Executes i op r e ok g) (hr : r.ok true = true) (hat : atWords s e c op w x = true) (hh : h = fieldsOf w x)
    (hok : ok c h s = false) (hf : ∀ s m g, ok c h { s with hcache := m, engs := g } = ok c h s := by exact fun _ _ _ => rfl) :
    exec i s = .next (endRun c ccProgErr (wd (offOf s c (s.ctx c).pc)) (begunX e c op s)) :=
  hi.wrongExt hr hat hh ((begun_begunX.congr (ok c h) hf).trans hok)

/-- A right one. -/
theorem Executes.rightOf (hi : Executes i op r e ok g) (hr : r.ok false = true) (hat : atWord s e c op w = true) (hh : h = fieldsOf w 0#32)
    (hok : ok c h s = true) (hf : ∀ s m g, ok c h { s with hcache := m, engs := g } = ok c h s := by exact fun _ _ _ => rfl) :
    exec i s = .next (g c h (begun e c op s) (begun e c op s)) :=
  hi.right hr hat hh ((begun_begun.congr (ok c h) hf).trans hok)

end Wrong

section Records

variable {s b t : State} {e c op : Nat} {h : HWord} {x : CtxSt} {once : Bool} {at_ : Nat}

theorem put_setCtx (f : FldRef) (v : Nat) (s : State) (c : Nat) (x : CtxSt) : (s.setCtx c x).put f v = (s.put f v).setCtx c x := rfl

theorem closedAt_eq (hb : Begun s b) (hx : h.x = false) :
    closedAt c h b = (b.put (.CTX_STAT_ONCE_OPEN c) 0).setCtx c { s.ctx c with pc := ((s.ctx c).pc + 4) % 2 ^ 32 } := by
  rw [closedAt, stepOver_word hb hx, put_setCtx]

theorem checkpointAt_eq (hb : Begun s b) (hx : h.x = false) : checkpointAt c h b = (b.put (.CTX_STAT_ONCE_OPEN c) 0).setCtx c
    { s.ctx c with pc := ((s.ctx c).pc + 4) % 2 ^ 32, retryPt := (s.ctx c).pc, retryPre := false } := by
  rw [checkpointAt, closedAt_eq hb hx, modCtx_setCtx, hb.ctx]

/-- The context's record once its checkpoint record is written. -/
def withCkpt (r : Ckpt) (x : CtxSt) : CtxSt := { x with ckpt := some r, onceAt := r.onceAt, ckptNo := x.ckptNo + 1 }

/-- A record of `s`, whose context is `x`. -/
theorem recorded_setCtx (s : State) : recorded c once at_ (s.setCtx c x) =
    if hasStandby s then s.setCtx c (withCkpt (ckptOf (s.setCtx c x) c x.pc once at_) x)
    else showCkpt c (ckptOf (s.setCtx c x) c x.pc once at_) (s.setCtx c (withCkpt (ckptOf (s.setCtx c x) c x.pc once at_) x)) := by
  rw [recorded, ctx_setCtx, writeCkpt, modCtx_setCtx]
  rfl

/-- What a record holds: where the context goes on, and its variables. -/
theorem ckptOf_fields (pc : Nat) (s : State) : (ckptOf s c pc once at_).pc = pc ∧ (ckptOf s c pc once at_).once = once ∧
    (ckptOf s c pc once at_).onceAt = at_ ∧ (ckptOf s c pc once at_).v = (List.range 16).map (getV s c) := ⟨rfl, rfl, rfl, rfl⟩

theorem closed_frame (c : Nat) (s : State) : Frame regsFrom (offStat c) s (s.put (.CTX_STAT_ONCE_OPEN c) 0) := (Frame.refl s).put _ _ fun _ hg => hg

theorem ctxV_ne_stat (c i : Nat) : Reg.CTX_V c i ≠ Reg.CTX_STAT c := by simp only [Reg.CTX_V, Reg.CTX_STAT]; omega

theorem getV_closed (hb : Begun s b) (x : CtxSt) : getV ((b.put (.CTX_STAT_ONCE_OPEN c) 0).setCtx c x) c = getV s c :=
  funext fun i => (rd_put_ne _ _ _ _ (ctxV_ne_stat c i)).trans (hb.rd _)

theorem is_closed (s : State) : (s.put (.CTX_STAT_ONCE_OPEN c) 0).get (.CTX_STAT_ONCE_OPEN c) = 0 := get_put _ _ _ (by simp) (by simp)

theorem get_ctxWait_mid (on : Nat) (w : Wait) (s : State) {g : FldRef} (hlo : 8 ≤ g.lo) (hhi : g.hi < 24) : (ctxWait c on w s).get g = s.get g := by
  rw [ctxWait, State.modCtx_get, get_offEngine _ hlo (by omega), get_ctxState_low _ _ _ hhi]

/-- With a standby the context waits for the record's commit (R353). -/
theorem recorded_waits {w : Word} (hat : atWord s e c op w = true) (hs : hasStandby s = true)
    (ht : t = ctxWait c 3 .commit (recorded c once at_ (((begun e c op s).put (.CTX_STAT_ONCE_OPEN c) 0).setCtx c x))) :
    t.get (.CTX_STAT_STATE c) = stWaiting ∧ t.get (.CTX_STAT_WAIT_ON c) = 3 ∧ t.is (.CTX_STAT_ONCE_OPEN c) = false ∧
      (∃ r : Ckpt, r.pc = x.pc ∧ r.once = once ∧ r.onceAt = at_ ∧ r.v = (List.range 16).map (getV s c) ∧
        t.ctx c = { withCkpt r x with wait := .commit }) ∧
      t = { (begun e c op s) with regs := t.regs, ctxs := kset {} s.ctxs c (t.ctx c), engs := t.engs } ∧
      ∀ a, a ≠ Reg.CTX_STAT c → rd t a = rd s a := by
  have hb : Begun s (begun e c op s) := begun_begun
  have hstand : hasStandby ((begun e c op s).put (.CTX_STAT_ONCE_OPEN c) 0) = true := (hb.congr hasStandby).trans hs
  obtain ⟨hpc, honce, hat_, hv⟩ := ckptOf_fields (c := c) (once := once) (at_ := at_) x.pc (((begun e c op s).put (.CTX_STAT_ONCE_OPEN c) 0).setCtx c x)
  rw [recorded_setCtx, if_pos hstand] at ht
  obtain ⟨hst, hon, hctx, -, hrest, hrd⟩ := ctxWait_wrote_spec (by decide) (runningOn_of_atWord hat) (closed_frame c _) ht
  refine ⟨hst, hon, ?_, ⟨_, hpc, honce, hat_, hv.trans ?_, hctx⟩, hrest, hrd⟩
  · rw [ht, State.is, get_ctxWait_mid _ _ _ (by simp) (by simp)]
    exact beq_eq_false_iff_ne.mpr (by rw [State.setCtx]; exact (is_closed (begun e c op s)).trans_ne (by decide))
  · rw [getV_closed hb]

/-- A field outside the status and the checkpoint register of context `c`. -/
def offCkpt (c : Nat) (g : FldRef) : Prop := g.a ≠ Reg.CTX_STAT c ∧ g.a ≠ Reg.CTX_CKPT c

/-- Without a standby the record counts as committed at once (R353). -/
theorem recorded_shown (hb : Begun s b) (hs : hasStandby s = false) (ht : t = recorded c once at_ ((b.put (.CTX_STAT_ONCE_OPEN c) 0).setCtx c x)) :
    t.is (.CTX_CKPT_VALID c) = true ∧ t.is (.CTX_CKPT_ONCE c) = once ∧ t.get (.CTX_CKPT_OFFSET c) = offOf s c x.pc % 2 ^ 24 ∧
      t.is (.CTX_STAT_ONCE_OPEN c) = false ∧ (∃ r : Ckpt, t.ctx c = withCkpt r x) ∧ t.ctxs = kset {} s.ctxs c (t.ctx c) ∧
      Frame ctxsFrom (offCkpt c) b t := by
  have hne : Reg.CTX_STAT c ≠ Reg.CTX_CKPT c := by simp only [Reg.CTX_STAT, Reg.CTX_CKPT]; omega
  have hprog : Reg.CTX_PROG c ≠ Reg.CTX_STAT c := by simp only [Reg.CTX_STAT, Reg.CTX_PROG]; omega
  have hstand : ¬ hasStandby (b.put (.CTX_STAT_ONCE_OPEN c) 0) = true := by
    rw [show hasStandby (b.put (.CTX_STAT_ONCE_OPEN c) 0) = hasStandby s from hb.congr hasStandby, hs]
    exact Bool.false_ne_true
  rw [recorded_setCtx, if_neg hstand] at ht
  generalize hr : ckptOf ((b.put (.CTX_STAT_ONCE_OPEN c) 0).setCtx c x) c x.pc once at_ = r at ht
  have hpc : r.pc = x.pc := by rw [← hr]; rfl
  have honce : r.once = once := by rw [← hr]; rfl
  generalize hu : (b.put (.CTX_STAT_ONCE_OPEN c) 0).setCtx c (withCkpt r x) = u at ht
  have hget (g : FldRef) : u.get g = (b.put (.CTX_STAT_ONCE_OPEN c) 0).get g := by rw [← hu]; rfl
  have hctxs : t.ctxs = u.ctxs := by rw [ht, showCkpt, State.put_ctxs, State.putB, State.put_ctxs, State.put_ctxs]
  have hctx : t.ctx c = withCkpt r x := by rw [State.ctx, hctxs, ← State.ctx, ← hu, ctx_setCtx]
  obtain ⟨hvalid, ho, hoff⟩ := get_showCkpt (c := c) r u
  have hbase : u.get (.CTX_PROG_PROG c) = s.get (.CTX_PROG_PROG c) := by rw [hget, get_put_ne _ _ _ _ hprog, hb.get]
  refine ⟨ht ▸ hvalid, ht ▸ ho.trans honce, ?_, ?_, ⟨r, hctx⟩, ?_, ?_⟩
  · rw [ht, hoff, hpc, offOf_congr hbase]
  · rw [ht, State.is, (showCkpt_frame c r u).get _ hne, hget, is_closed]
    rfl
  · rw [hctx, hctxs, ← hu, State.setCtx, State.put_ctxs, hb.ctxs]
  · have hclosed : Frame ctxsFrom (offCkpt c) b (b.put (.CTX_STAT_ONCE_OPEN c) 0) := (closed_frame c b).mono fun _ hg => hg.1
    have hset : Frame ctxsFrom (offCkpt c) b u := by
      rw [← hu]
      exact hclosed.trans (.of_regs rfl rfl)
    rw [ht]
    exact hset.trans ((showCkpt_frame c r u).mono fun _ hg => hg.2)

end Records

end Sys2Proof.Machine
end

section
/-! PROOFS. The unit and result instructions (R353, R354, R379, R390, R395 to R397): their statement. -/

namespace Sys2Proof.Machine

set_option Elab.async false

section Effects

theorem not_digital {n : Nat} (hn : isAN n = true) : isDI n = false ∧ isDO n = false := by
  simp only [isAN, isDI, isDO, Bool.and_eq_true, Bool.and_eq_false_iff, decide_eq_true_eq, decide_eq_false_iff_not] at *
  omega

/-- The words that DIN reads of an analog channel (R396). -/
theorem dinWord_last {n : Nat} {s : State} (hn : isAN n = true) : dinWord s n 4 = some (lastWord s n) := by simp [dinWord, not_digital hn, hn]

theorem dinWord_free {n : Nat} {s : State} (hn : isAN n = true) : dinWord s n 5 = some (freeNow s) := by simp [dinWord, not_digital hn, hn]

variable {s b t : State} {e c n q : Nat} {h : HWord} {nofault : Bool} {l : List Word}

/-- What a DIN of the fast average leaves, which is a free value (R396). -/
theorem setV_useFree_spec {d : Nat} {r : Word} {x : CtxSt} (hb : Begun s b) (ht : t = ((setV c d r b).useFree).setCtx c x) : t.ctx c = x ∧
    t = { b with regs := t.regs, ctxs := kset {} s.ctxs c (t.ctx c), free := t.free } ∧ ∀ a, a ≠ Reg.CTX_V c d → rd t a = rd s a := by
  subst ht
  rw [ctx_setCtx]
  refine ⟨rfl, ?_, fun a ha => (rd_wr_ne _ _ _ _ ha).trans (hb.rd a)⟩
  rw [State.setCtx, State.useFree_ctxs, ← hb.ctxs]
  rfl

/-- The step of an ONCE whose record counts as committed at once is open (R353). -/
theorem onceOpens_recorded {x y : CtxSt} (hx : t.ctx c = x) (hctxs : t.ctxs = kset {} s.ctxs c (t.ctx c)) (hf : Frame ctxsFrom (offCkpt c) b t)
    (hb : Begun s b) (hy : y = { x with retryPre := true }) : (onceOpens c t).ctx c = y ∧ (onceOpens c t).is (.CTX_STAT_ONCE_OPEN c) = true ∧
      onceOpens c t = { b with regs := (onceOpens c t).regs, ctxs := kset {} s.ctxs c ((onceOpens c t).ctx c) } ∧
      ∀ a, a ≠ Reg.CTX_STAT c → a ≠ Reg.CTX_CKPT c → rd (onceOpens c t) a = rd s a := by
  have hframe : Frame ctxsFrom (offCkpt c) b (onceOpens c t) := hf.trans ((onceOpens_frame c t).mono fun _ hg => hg.1)
  have hset : (onceOpens c t).ctxs = kset {} s.ctxs c y := by
    rw [onceOpens, State.modCtx, State.setCtx, State.ctx, State.set1_ctxs, ← State.ctx, hctxs, hx, kset_kset, hy]
  have hy' : (onceOpens c t).ctx c = y := by rw [State.ctx, hset, kget_kset_same]
  refine ⟨hy', is_set1 _ _ (by simp) (by simp), ?_, fun a hst hck => (hframe.rd a ⟨hst, hck⟩).trans (hb.rd a)⟩
  rw [hy', ← hset]
  exact hframe.rest

theorem ckpt_offStat {g : FldRef} (hg : g.a = Reg.CTX_CKPT c) : offStat c g := by
  simp only [offStat, hg, Reg.CTX_STAT, Reg.CTX_CKPT]
  omega

/-- What a DIN of a word leaves. -/
theorem din_spec {v : Word} (hb : Begun s b) (hx : h.x = false) (ht : t = stepOver c h (setV c h.d v b)) : getV t c h.d = v ∧
    t.ctx c = { s.ctx c with pc := ((s.ctx c).pc + 4) % 2 ^ 32 } ∧ t = { b with regs := t.regs, ctxs := kset {} s.ctxs c (t.ctx c) } ∧
      ∀ a, a ≠ Reg.CTX_V c h.d → rd t a = rd s a := by
  refine setV_spec hb (ht.trans ?_)
  rw [stepOver_setV, stepOver_word hb hx, setV_setCtx]

theorem ctxV_ne_prog {d : Nat} (hd : d < 16) (c k : Nat) : Reg.CTX_PROG k ≠ Reg.CTX_V c d := by simp only [Reg.CTX_PROG, Reg.CTX_V]; omega

theorem d_lt (w x : Word) : (fieldsOf w x).d < 16 := bits_lt _ _ _

/-- PUSH into a queue that takes the entry, or that is not to block (R397). -/
theorem pushTo_goes (hok : ¬ (s.get (.Q_CFG_POLICY q) = 2 ∧ qAccepts s q .active (4 * l.length) = false ∧ qForeign s q .active = false)) :
    pushTo c q h l s = stepOver c h (setF c (!qAccepts s q .active (4 * l.length)) (qPush q .active [l] s)) := by
  refine if_neg fun hgo => hok ?_
  simpa using hgo

theorem pushTo_blocks (hp : s.get (.Q_CFG_POLICY q) = 2) (ha : qAccepts s q .active (4 * l.length) = false) (hf : qForeign s q .active = false) :
    pushTo c q h l s = ctxBlock c 6 .none s := if_pos (by simp [hp, ha, hf])

theorem pushAct_entry (ha : h.a ≤ 1) (s : State) : pushAct c q h s = pushTo c q h ((pushEntry s c q h).getD []) s := by
  obtain ha | ha : h.a = 0 ∨ h.a = 1 := by omega
  all_goals rw [pushAct, ha]
  all_goals rfl

/-- An entry pushed by its instruction. -/
theorem exec_push {e : Fin 8} {w : Word} (hat : atWord s e c 0x30 w = true) (hh : h = fieldsOf w 0#32) (hi : h.i = true) (ha : h.a ≤ 1)
    (hq : resQueue s c = some q) (hl : pushEntry s c q h = some l) : exec (.push e) s = .next (pushTo c q h l (begun e c 0x30 s)) := by
  have hb : Begun s (begun e c 0x30 s) := begun_begun
  rw [executes_push.rightOf rfl hat hh (by simp [hi, hq, hl]; omega), pushAct_entry ha, hb.congr (resQueue · c), hq, Option.getD_some,
    hb.congr (pushEntry · c q h), hl, Option.getD_some]

end Effects

/-- Settles O47, by what each instruction's own effect leaves of the state in which it has it. -/
theorem unitAndResultInstructions : Obligations.UnitAndResultInstructions := by
  unfold Obligations.UnitAndResultInstructions
  refine ⟨?rdr, ?rdrX, ?rdrWrong, ?rdrXWrong, ?wrrOut, ?wrrOutRefused, ?wrrSet, ?wrrHeld, ?wrrPlain, ?wrrElse, ?wrrXOut, ?wrrXOutRefused, ?wrrXSet,
    ?wrrXHeld, ?wrrXPlain, ?wrrXElse, ?wrrWrong, ?wrrXWrong, ?start, ?startBusy, ?startWrong, ?startExt, ?feedV, ?feedBytes, ?feedWrong, ?feedExt,
    ?chk, ?chkWord, ?chkMsg, ?chkWrong, ?chkExt, ?dout, ?doutNofault, ?doutRefused, ?doutWrong, ?doutExt, ?aout, ?aoutWrong, ?aoutExt, ?din,
    ?dinLast, ?dinFree, ?dinWrong, ?dinExt, ?ain, ?ainNofault, ?ainBusy, ?ainRefused, ?ainWrong, ?ainExt, ?push, ?pushStall, ?pushDrop, ?pushCommit,
    ?pushRelease, ?pushWrong, ?pushExt, ?pennant, ?pennantWrong, ?pennantExt, ?ckpt, ?ckptAlone, ?ckptWrong, ?ckptExt, ?once, ?onceAlone, ?onceWrong,
    ?onceExt, ?signal, ?signalWrong, ?signalExt⟩
  case rdr =>
    intro s e c w h p hat hh hi hg hp
    subst hp
    refine ⟨_, executes_rdr.right rfl hat hh (by simp [regForm, x_of_atWord hat hh, hi, hg]), ?_⟩
    rw [begun_regAddr]
    refine setV_spec ⟨rfl⟩ ?_
    rw [result_eq, nextPc_word (x_of_atWord hat hh), ctx_busRead, begun_ctx, flagsOf, bitAt_msb, ctxAfter, ctx_busRead, begun_ctx]
  case rdrX =>
    intro s e c w x h p hat hh hk ha hg hp
    subst hp
    have hx := x_of_atWords hat hh
    refine ⟨_, executes_rdr.rightExt rfl hat hh (by rw [regForm, hx, regAddr_ext hx hh, hg]; simp [hk, ha]), ?_⟩
    rw [regAddr_ext hx hh]
    refine setV_spec ⟨rfl⟩ ?_
    rw [result_eq, nextPc_ext hx, ctx_busRead, begunX_ctx, flagsOf, bitAt_msb, ctxAfter, ctx_busRead, begunX_ctx]
  case rdrWrong => exact fun s e c w h hat hh hbad => executes_rdr.wrongOf rfl hat hh (by simpa [regForm, x_of_atWord hat hh] using hbad)
  case rdrXWrong =>
    intro s e c w x h hat hh hbad
    have hx := x_of_atWords hat hh
    exact executes_rdr.wrongExtOf rfl hat hh (by rw [regForm, hx, regAddr_ext hx hh]; simpa using hbad)
  case wrrOut =>
    intro s e c w h g n v hat hh hi hg hga hv hn hlo hhi hdo hgo hr
    subst hn
    rw [exec_wrr_word hat hh hi hg hga hv, if_pos (wrrBlock_chan hlo hhi), wrrWrite_out hlo hhi hdo hgo ((begun_begun.congr (doRefused · _ _)).trans hr)]
  case wrrOutRefused =>
    intro s e c w h g n v hat hh hi hg hga hv hn hlo hhi hdo hgo hr
    subst hn
    have hrb := (begun_begun (e := e) (c := c) (op := 0x27)).congr (doRefused · ((g - 0x20000) / 0x100) (bitAt v 0)) |>.trans hr
    rw [exec_wrr_word hat hh hi hg hga hv, if_pos (wrrBlock_chan hlo hhi), wrrWrite_outRefused hlo hhi hdo hgo hrb, refused_doCmd hdo hrb,
      if_neg Bool.false_ne_true, begun_ctx, begun_offOf]
  case wrrSet =>
    intro s e c w h g n v hat hh hi hg hga hv hn hlo hhi hao hgo
    subst hn
    rw [exec_wrr_word hat hh hi hg hga hv, if_pos (wrrBlock_chan hlo hhi), wrrWrite_set hlo hhi hao hgo]
  case wrrHeld =>
    intro s e c w h g u v hat hh hi hg hga hv hu hlo hhi hgo hone hw hf hc
    subst hu
    have hb : Begun s (begun e c 0x27 s) := begun_begun
    have hcv (k : Nat) : (begun e c 0x27 s).cv k = s.cv k := hb.congr (·.cv k)
    rw [exec_wrr_word hat hh hi hg hga hv, if_pos (wrrBlock_cv hlo hhi), wrrWrite_held hlo hhi hgo hone (by rwa [hb.get]) (by rwa [hcv]) (by rwa [hcv])]
  case wrrPlain =>
    intro s e c w h g v hat hh hi hg hga hv hblock hchan hcv
    rw [exec_wrr_word hat hh hi hg hga hv, if_pos hblock, wrrWrite_plain hchan hcv]
  case wrrElse =>
    intro s e c w h g hat hh hi hg hga hblock
    rw [exec_wrr_word hat hh hi hg hga rfl, if_neg (by rw [hblock]; exact Bool.false_ne_true)]
  case wrrXOut =>
    intro s e c w x h g n v hat hh hk ha hg hga hv hn hlo hhi hdo hgo hr
    subst hn
    rw [exec_wrr_ext hat hh hk ha hg hga hv, if_pos (wrrBlock_chan hlo hhi), wrrWrite_out hlo hhi hdo hgo ((begun_begunX.congr (doRefused · _ _)).trans hr)]
  case wrrXOutRefused =>
    intro s e c w x h g n v hat hh hk ha hg hga hv hn hlo hhi hdo hgo hr
    subst hn
    have hrb := (begun_begunX (e := e) (c := c) (op := 0x27)).congr (doRefused · ((g - 0x20000) / 0x100) (bitAt v 0)) |>.trans hr
    rw [exec_wrr_ext hat hh hk ha hg hga hv, if_pos (wrrBlock_chan hlo hhi), wrrWrite_outRefused hlo hhi hdo hgo hrb, refused_doCmd hdo hrb,
      begunX_ctx, begunX_offOf]
  case wrrXSet =>
    intro s e c w x h g n v hat hh hk ha hg hga hv hn hlo hhi hao hgo
    subst hn
    rw [exec_wrr_ext hat hh hk ha hg hga hv, if_pos (wrrBlock_chan hlo hhi), wrrWrite_set hlo hhi hao hgo]
  case wrrXHeld =>
    intro s e c w x h g u v hat hh hk ha hg hga hv hu hlo hhi hgo hone hw hf hc
    subst hu
    have hb : Begun s (begunX e c 0x27 s) := begun_begunX
    have hcv (k : Nat) : (begunX e c 0x27 s).cv k = s.cv k := hb.congr (·.cv k)
    rw [exec_wrr_ext hat hh hk ha hg hga hv, if_pos (wrrBlock_cv hlo hhi), wrrWrite_held hlo hhi hgo hone (by rwa [hb.get]) (by rwa [hcv]) (by rwa [hcv])]
  case wrrXPlain =>
    intro s e c w x h g v hat hh hk ha hg hga hv hblock hchan hcv
    rw [exec_wrr_ext hat hh hk ha hg hga hv, if_pos hblock, wrrWrite_plain hchan hcv]
  case wrrXElse =>
    intro s e c w x h g hat hh hk ha hg hga hblock
    rw [exec_wrr_ext hat hh hk ha hg hga rfl, if_neg (by rw [hblock]; exact Bool.false_ne_true), refused, begunX_offOf]
  case wrrWrong => exact fun s e c w h hat hh hbad => executes_wrr.wrongOf rfl hat hh (by simpa [regForm, x_of_atWord hat hh] using hbad)
  case wrrXWrong =>
    intro s e c w x h hat hh hbad
    have hx := x_of_atWords hat hh
    exact executes_wrr.wrongExtOf rfl hat hh (by rw [regForm, hx, regAddr_ext hx hh]; simpa using hbad)
  case start =>
    intro s e c w h u hat hh hbare hu hfree
    have hb : Begun s (begun e c 0x28 s) := begun_begun
    have hcv : (cvOf (begun e c 0x28 s) c).getD 0 = u := by rw [hb.congr (cvOf · c), hu]; rfl
    refine ⟨_, executes_cvstart.rightOf rfl hat hh (by simp [hbare, hu]), setCv_spec hb ?_⟩
    have htake (y : CvSt) : ((begun e c 0x28 s).setCv u y).ctx c = s.ctx c := hb.ctx c
    rw [hcv, hb.congr (·.cv u), if_pos hfree, cvTake, hb.congr (cvPar · u), stepOver_eq, nextPc_word (x_of_atWord hat hh), htake]
    rfl
  case startBusy =>
    intro s e c w h u hat hh hbare hu hfree hmine
    have hb : Begun s (begun e c 0x28 s) := begun_begun
    have hcv : (cvOf (begun e c 0x28 s) c).getD 0 = u := by rw [hb.congr (cvOf · c), hu]; rfl
    refine ⟨_, executes_cvstart.rightOf rfl hat hh (by simp [hbare, hu]), ctxBlock_spec (w := .none) (by decide) hb ?_⟩
    rw [hcv, hb.congr (·.cv u), if_neg (not_or.mpr ⟨hfree, hmine⟩)]
  case startWrong => exact fun s e c w h hat hh hbad => executes_cvstart.wrongOf rfl hat hh hbad
  case startExt => exact fun s e c w hat => executes_cvstart.ext rfl hat
  case feedV =>
    intro s e c w h u hat hh hop ha hu hhold hdma
    have hb : Begun s (begun e c 0x29 s) := begun_begun
    refine ⟨_, executes_cvfeed.rightOf rfl hat hh (by simp [hop, ha, holdsCv, hu, hhold]), ?_⟩
    have hbytes : fedBytes h c (begun e c 0x29 s) = leBytes 4 (getV s c h.d).toNat := by rw [fedBytes, if_pos ha, begun_getV]
    have hpast : fedPast h c (begun e c 0x29 s) = false := by simp [fedPast, ha]
    rw [hbytes, hpast, hb.congr (cvOf · c), hu]
    exact cvfeed_spec hb (x_of_atWord hat hh) hu hhold hdma rfl
  case feedBytes =>
    intro s e c w h u l o n hat hh hop ha hu hhold hdma hl ho hn
    subst ho hn
    have hb : Begun s (begun e c 0x29 s) := begun_begun
    refine ⟨_, executes_cvfeed.rightOf rfl hat hh (by simp [hop, holdsCv, hu, hhold, hl]; omega), ?_⟩
    have hne : h.a ≠ 3 := by omega
    have hbytes : fedBytes h c (begun e c 0x29 s) = (l.drop (op2z s c h).toNat).take (getV s c h.d).toNat := by
      rw [hb.congr (fedBytes h c), fedBytes, if_neg hne, hl, Option.getD_some]
    have hpast : fedPast h c (begun e c 0x29 s) = decide (l.length < (op2z s c h).toNat + (getV s c h.d).toNat) := by
      rw [hb.congr (fedPast h c), fedPast, hl, Option.getD_some, bne_iff_ne.mpr hne, Bool.true_and]
    rw [hbytes, hpast, hb.congr (cvOf · c), hu]
    exact cvfeed_spec hb (x_of_atWord hat hh) hu hhold hdma rfl
  case feedWrong => exact fun s e c w h hat hh hbad => executes_cvfeed.wrongOf rfl hat hh hbad
  case feedExt => exact fun s e c w hat => executes_cvfeed.ext rfl hat
  case chk =>
    intro s e c w h u n hat hh hop ha hu hhold hn
    subst hn
    refine ⟨_, executes_cvchk.rightOf rfl hat hh (by simp [hop, ha, holdsCv, hu, hhold]), ?_⟩
    exact cvchk_spec begun_begun (x_of_atWord hat hh) hu none (by rw [chkEqual, ha]; rfl) rfl
  case chkWord =>
    intro s e c w h u n k v hat hh hop ha hi hu hhold hn hk hv
    subst hn hk
    refine ⟨_, executes_cvchk.rightOf rfl hat hh (by simp [hop, ha, hi, holdsCv, hu, hhold]), ?_⟩
    exact cvchk_spec begun_begun (x_of_atWord hat hh) hu (some v) (by rw [hv, chkEqual, ha]; rfl) rfl
  case chkMsg =>
    intro s e c w h u n k l v hat hh hop ha hu hhold hl hn hk hv
    subst hn hk
    refine ⟨_, executes_cvchk.rightOf rfl hat hh (by rcases ha with ha | ha <;> simp [hop, ha, holdsCv, hu, hhold, hl]), ?_⟩
    refine cvchk_spec begun_begun (x_of_atWord hat hh) hu (some v) ?_ rfl
    rcases ha with ha | ha
    · rw [hv, chkEqual, ha, hl]
      rfl
    · rw [hv, chkEqual, ha, hl]
      rfl
  case chkWrong => exact fun s e c w h hat hh hbad => executes_cvchk.wrongOf rfl hat hh hbad
  case chkExt => exact fun s e c w hat => executes_cvchk.ext rfl hat
  case dout =>
    intro s e c w h n v hat hh ha hn hdo hv hr
    have hb : Begun s (begun e c 0x2C s) := begun_begun
    rw [executes_dout.rightOf rfl hat hh (by simp [hn, hdo]; omega), hb.congr (chanOf · c h 9), hn, Option.getD_some, hb.congr (doutOn · c h),
      show doutOn s c h = v from hv.symm, hb.congr (doRefused · n v), hr, if_neg Bool.false_ne_true]
  case doutNofault =>
    intro s e c w h n v hat hh ha hn hdo hv hr
    have hb : Begun s (begun e c 0x2C s) := begun_begun
    rw [executes_dout.rightOf rfl hat hh (by simp [hn, hdo, ha]), hb.congr (chanOf · c h 9), hn, Option.getD_some, hb.congr (doutOn · c h),
      show doutOn s c h = v from hv.symm, hb.congr (doRefused · n v), hr, if_pos rfl, if_pos ha, ha]
    rfl
  case doutRefused =>
    intro s e c w h n v hat hh ha hn hdo hv hr
    have hb : Begun s (begun e c 0x2C s) := begun_begun
    have hrb : doRefused (begun e c 0x2C s) n v = true := (hb.congr (doRefused · n v)).trans hr
    rw [executes_dout.rightOf rfl hat hh (by simp [hn, hdo, ha]), hb.congr (chanOf · c h 9), hn, Option.getD_some, hb.congr (doutOn · c h),
      show doutOn s c h = v from hv.symm, hrb, if_pos rfl, if_neg (by omega), ha, begun_ctx]
    exact congrArg Host.Outcome.next ((refused_doCmd (h := h) (nofault := false) hdo hrb _).trans (by rw [if_neg Bool.false_ne_true, begun_offOf]))
  case doutWrong => exact fun s e c w h hat hh hbad => executes_dout.wrongOf rfl hat hh hbad
  case doutExt => exact fun s e c w hat => executes_dout.ext rfl hat
  case aout =>
    intro s e c w h n hat hh ha hn hao
    have hb : Begun s (begun e c 0x2D s) := begun_begun
    rw [executes_aout.rightOf rfl hat hh (by simp [ha, hn, hao]), hb.congr (chanOf · c h 8), hn, Option.getD_some, begun_getV]
  case aoutWrong => exact fun s e c w h hat hh hbad => executes_aout.wrongOf rfl hat hh hbad
  case aoutExt => exact fun s e c w hat => executes_aout.ext rfl hat
  case din =>
    intro s e c w h n v hat hh hn ha hv
    have hb : Begun s (begun e c 0x2E s) := begun_begun
    refine ⟨_, executes_din.right rfl hat hh ?_, din_spec hb (x_of_atWord hat hh) ?_⟩
    · rw [hb.congr (chanOf · c h 8), hn, Option.getD_some, hb.dinWord, hv]
      simp
      omega
    · rw [hb.congr (chanOf · c h 8), hn, Option.getD_some, hb.dinWord, hv, if_neg (by omega), if_neg (by omega), Option.getD_some]
  case dinLast =>
    intro s e c w h n v hat hh hn ha hd han hv
    have hb : Begun s (begun e c 0x2E s) := begun_begun
    have hword : dinWord s n 4 = some v := by rw [dinWord_last han, hv]
    refine ⟨_, executes_din.right rfl hat hh ?_, setV_setV_spec hb (by omega) ?_⟩
    · rw [hb.congr (chanOf · c h 8), hn, Option.getD_some, hb.dinWord, ha, hword]
      simp [hd]
    · have hctx (k : Nat) (r q : Word) : (setV c k r (setV c h.d q (begun e c 0x2E s))).ctx c = s.ctx c := hb.ctx c
      rw [hb.congr (chanOf · c h 8), hn, Option.getD_some, hb.dinWord, ha, hword, if_pos rfl, Option.getD_some, hb.lastSeq, setF_eq, hctx, stepOver_setCtx,
        nextPc_word (x_of_atWord hat hh)]
  case dinFree =>
    intro s e c w h n hat hh hn ha han
    have hb : Begun s (begun e c 0x2E s) := begun_begun
    have hword : dinWord s n 5 = some (freeNow s) := dinWord_free han
    have hd := x_of_atWord hat hh
    have heff := executes_din.right rfl hat hh (by rw [hb.congr (chanOf · c h 8), hn, Option.getD_some, hb.dinWord, ha, hword]; simp)
    rw [hb.congr (chanOf · c h 8), hn, Option.getD_some, hb.dinWord, ha, hword, if_neg (by decide), if_pos rfl, Option.getD_some] at heff
    have hctx : (setV c h.d (freeNow s) (begun e c 0x2E s)).useFree.ctx c = s.ctx c := hb.ctx c
    rw [stepOver_eq, nextPc_word hd, hctx] at heff
    exact ⟨_, heff, setV_useFree_spec hb rfl⟩
  case dinWrong =>
    intro s e c w h hat hh hbad
    refine executes_din.wrong rfl hat hh ?_
    rw [begun_begun.congr (chanOf · c h 8), begun_begun.dinWord]
    exact hbad
  case dinExt => exact fun s e c w hat => executes_din.ext rfl hat
  case ain =>
    intro s e c w h i r hat hh hi hk ha hix hr hgo
    subst hix
    have hb : Begun s (begun e c 0x2F s) := begun_begun
    rw [executes_ain.rightOf rfl hat hh (by simp [hi]; omega), hb.congr (injResponse · (h.k % 16) (h.k / 16) (h.a % 2 == 1)), ← hr, if_pos hgo]
  case ainNofault =>
    intro s e c w h r hat hh hi hk ha hr hacc hheld hbusy
    have hb : Begun s (begun e c 0x2F s) := begun_begun
    have htwo : h.a / 2 = 1 := by omega
    refine ⟨_, executes_ain.rightOf rfl hat hh (by simp [hi]; omega), setV_spec hb ?_⟩
    have hctx (r : Word) : (setV c h.d r (begun e c 0x2F s)).ctx c = s.ctx c := hb.ctx c
    rw [hb.congr (injResponse · (h.k % 16) (h.k / 16) (h.a % 2 == 1)), ← hr, if_neg (not_or.mpr ⟨hacc, hheld⟩), hb.congr (·.tile (h.k % 16)),
      if_neg (by omega), if_pos htwo, htwo, refuse, if_pos (by rfl), setF_eq, hctx, stepOver_setCtx, nextPc_word (x_of_atWord hat hh)]
  case ainBusy =>
    intro s e c w h hat hh hi hk ha hr hlen
    have hb : Begun s (begun e c 0x2F s) := begun_begun
    refine ⟨_, executes_ain.rightOf rfl hat hh (by simp [hi]; omega), ctxBlock_spec (w := .none) (by decide) hb ?_⟩
    rw [hb.congr (injResponse · (h.k % 16) (h.k / 16) (h.a % 2 == 1)), hr, if_neg (by decide), hb.congr (·.tile (h.k % 16)), if_pos ⟨rfl, hlen⟩]
  case ainRefused =>
    intro s e c w h r hat hh hi hk ha hr hacc hheld hbusy
    have hb : Begun s (begun e c 0x2F s) := begun_begun
    have hzero : h.a / 2 = 0 := by omega
    have hd : h.d < 16 := hh ▸ d_lt w _
    have hprog (r : Word) : (setV c h.d r (begun e c 0x2F s)).get (.CTX_PROG_PROG c) = s.get (.CTX_PROG_PROG c) :=
      (get_wr_ne _ _ _ _ (ctxV_ne_prog hd c c)).trans (hb.get _)
    rw [executes_ain.rightOf rfl hat hh (by simp [hi]; omega), hb.congr (injResponse · (h.k % 16) (h.k / 16) (h.a % 2 == 1)), ← hr,
      if_neg (not_or.mpr ⟨hacc, hheld⟩), hb.congr (·.tile (h.k % 16)), if_neg (by omega), if_neg (by omega), hzero, refuse, if_neg (by decide),
      offOf_congr (hprog _), begun_ctx]
  case ainWrong => exact fun s e c w h hat hh hbad => executes_ain.wrongOf rfl hat hh hbad
  case ainExt => exact fun s e c w hat => executes_ain.ext rfl hat
  case push =>
    intro s e c w h q l hat hh hi ha hq hl hacc
    have hb : Begun s (begun e c 0x30 s) := begun_begun
    have haccb : qAccepts (begun e c 0x30 s) q .active (4 * l.length) = true := (hb.congr (qAccepts · q .active _)).trans hacc
    rw [exec_push hat hh hi ha hq hl, pushTo_goes (by simp [haccb]), haccb, Bool.not_true]
  case pushStall =>
    intro s e c w h q l hat hh hi ha hq hl hacc hpol hfor
    have hb : Begun s (begun e c 0x30 s) := begun_begun
    refine ⟨_, exec_push hat hh hi ha hq hl, ctxBlock_spec (w := .none) (by decide) hb ?_⟩
    exact pushTo_blocks ((hb.get _).trans hpol) ((hb.congr (qAccepts · q .active _)).trans hacc) ((hb.congr (qForeign · q .active)).trans hfor)
  case pushDrop =>
    intro s e c w h q l hat hh hi ha hq hl hacc hor
    have hb : Begun s (begun e c 0x30 s) := begun_begun
    have haccb : qAccepts (begun e c 0x30 s) q .active (4 * l.length) = false := (hb.congr (qAccepts · q .active _)).trans hacc
    rw [exec_push hat hh hi ha hq hl, pushTo_goes ?_, haccb, Bool.not_false]
    rw [hb.get, hb.congr (qForeign · q .active)]
    rintro ⟨hpol, -, hfor⟩
    exact hor.elim (fun hne => hne hpol) fun htrue => Bool.false_ne_true (hfor.symm.trans htrue)
  case pushCommit =>
    intro s e c w h l hat hh hi ha hq hl
    rw [executes_push.rightOf rfl hat hh (by simp [hi, ha, hq, hl]), pushAct, ha, begun_begun.congr (resvMsg · c), hl]
    rfl
  case pushRelease =>
    intro s e c w h hat hh hi ha hq hl
    rw [executes_push.rightOf rfl hat hh (by simp [hi, ha, hq, hl]), pushAct, ha]
    rfl
  case pushWrong => exact fun s e c w h hat hh hbad => executes_push.wrongOf rfl hat hh hbad
  case pushExt => exact fun s e c w hat => executes_push.ext rfl hat
  case pennant =>
    intro s e c w h hat hh hi ha hlo hhi
    rw [executes_pennant.rightOf rfl hat hh (by simp [hi, hlo, hhi]; omega), State.is, begun_get, begun_getV, begun_now, ← State.is]
  case pennantWrong => exact fun s e c w h hat hh hbad => executes_pennant.wrongOf rfl hat hh hbad
  case pennantExt => exact fun s e c w hat => executes_pennant.ext rfl hat
  case ckpt =>
    intro s e c w h hat hh hbare hs
    have hb : Begun s (begun e c 0x34 s) := begun_begun
    have heff := executes_checkpoint.rightOf rfl hat hh hbare
    rw [if_pos ((hb.congr hasStandby).trans hs), checkpointAt_eq hb (x_of_atWord hat hh)] at heff
    obtain ⟨hst, hon, hopen, ⟨r, hpc, honce, -, hv, hctx⟩, hrest, hrd⟩ := recorded_waits hat hs rfl
    refine ⟨_, heff, hst, hon, hopen, ?_, ?_, ?_, ?_, ?_, ?_, hrest, hrd⟩
    all_goals rw [hctx]
    · rfl
    · rfl
    · rfl
    · show some (r.pc, r.once, r.v) = _
      rw [hpc, honce, hv]
    · rfl
  case ckptAlone =>
    intro s e c w h hat hh hbare hs
    have hb : Begun s (begun e c 0x34 s) := begun_begun
    have heff := executes_checkpoint.rightOf rfl hat hh hbare
    rw [if_neg (by rw [hb.congr hasStandby, hs]; exact Bool.false_ne_true), checkpointAt_eq hb (x_of_atWord hat hh)] at heff
    obtain ⟨hvalid, honce, hoff, hopen, ⟨r, hctx⟩, hctxs, hframe⟩ := recorded_shown hb hs rfl
    refine ⟨_, heff, hvalid, honce, hoff, hopen, ?_, ?_, ?_, fun a hst hck => (hframe.rd a ⟨hst, hck⟩).trans (hb.rd a)⟩
    · rw [hctx]
      rfl
    · rw [hctx]
      rfl
    · rw [← hctxs]
      exact hframe.rest
  case ckptWrong => exact fun s e c w h hat hh hbad => executes_checkpoint.wrongOf rfl hat hh hbad
  case ckptExt => exact fun s e c w hat => executes_checkpoint.ext rfl hat
  case once =>
    intro s e c w h hat hh hbare hs
    have hb : Begun s (begun e c 0x35 s) := begun_begun
    have heff := executes_once.rightOf rfl hat hh hbare
    rw [if_pos ((hb.congr hasStandby).trans hs), closedAt_eq hb (x_of_atWord hat hh), begun_ctx] at heff
    obtain ⟨hst, hon, hopen, ⟨r, hpc, honce, hat_, hv, hctx⟩, hrest, hrd⟩ := recorded_waits hat hs rfl
    refine ⟨_, heff, hst, hon, hopen, ?_, ?_, ?_, hrest, hrd⟩
    all_goals rw [hctx]
    · rfl
    · show some (r.pc, r.once, r.onceAt, r.v) = _
      rw [hpc, honce, hat_, hv]
  case onceAlone =>
    intro s e c w h hat hh hbare hs
    have hb : Begun s (begun e c 0x35 s) := begun_begun
    have heff := executes_once.rightOf rfl hat hh hbare
    rw [if_neg (by rw [hb.congr hasStandby, hs]; exact Bool.false_ne_true), closedAt_eq hb (x_of_atWord hat hh), begun_ctx] at heff
    obtain ⟨hvalid, honce, -, -, ⟨r, hctx⟩, hctxs, hframe⟩ := recorded_shown hb hs rfl
    obtain ⟨hy, hopen, hrest, hrd⟩ := onceOpens_recorded hctx hctxs hframe hb rfl
    have hck (g : FldRef) (hg : g.a = Reg.CTX_CKPT c) (u : State) : (onceOpens c u).is g = u.is g := (onceOpens_frame c u).is g (ckpt_offStat hg)
    refine ⟨_, heff, hopen, (hck _ rfl _).trans hvalid, (hck _ rfl _).trans honce, ?_, ?_, hrest, hrd⟩
    · rw [hy]
    · rw [hy]
      rfl
  case onceWrong => exact fun s e c w h hat hh hbad => executes_once.wrongOf rfl hat hh hbad
  case onceExt => exact fun s e c w hat => executes_once.ext rfl hat
  case signal =>
    intro s e c w h l hat hh hd ha hop hl
    subst hl
    have hb : Begun s (begun e c 0x38 s) := begun_begun
    rw [executes_signal.rightOf rfl hat hh (by simp [hd, ha, hop]), begun_op2s, begun_now, hb.congr (ctxRecord · c 2 0 (op2s s c h))]
  case signalWrong => exact fun s e c w h hat hh hbad => executes_signal.wrongOf rfl hat hh hbad
  case signalExt => exact fun s e c w hat => executes_signal.ext rfl hat

end Sys2Proof.Machine
end

section
/-! PROOFS. What a message instruction reads (R366, R370, R380) and what a send changes (R351, R382, R383): words fetched, the number, the entry queued. -/

namespace Sys2Proof.Machine

set_option Elab.async false

variable {s b u t : State} {e c op : Nat} {P : FldRef → Prop}

section Fetch

/-- `s` with the cache of `t`. -/
def cacheFrom (s t : State) : State := { s with hcache := t.hcache }

theorem touchLines_frame (a n : Nat) (s : State) : Frame cacheFrom P s (touchLines a n s) := by
  obtain ⟨m, q⟩ := touchLines_eq a n s
  rw [q]
  exact .of_regs rfl rfl

/-- An instruction's further words leave it as it was begun. -/
theorem Begun.fetched (hb : Begun s b) (hu : Frame cacheFrom P b u) : Begun s u := by
  obtain ⟨hb⟩ := hb
  obtain ⟨hu, -⟩ := hu
  refine ⟨?_⟩
  rw [hu, cacheFrom, hb]

variable {n a : Nat} {l : List Word} {f : List Word → State → State}

theorem withWords_ok (h : fetchWords s c a n = .ok l) : withWords c a n f s = f l (touchLines a n s) := by rw [withWords, h]

variable {h : HWord} {g : List Word → List Byte → State → State} {d : List Word}

/-- A literal with its data (R380). -/
theorem withLiteral_data (hr : refOf s c h.e = some a) (hl : fetchWords s c a 4 = .ok l) (hok : headOk l = true)
    (hd : fetchWords (touchLines a 4 s) c ((a + 16) % 2 ^ 32) ((bits (dw l 1) 31 20 + 3) / 4) = .ok d) : withLiteral c h true g s =
      g l (wordsBytes d) (touchLines ((a + 16) % 2 ^ 32) ((bits (dw l 1) 31 20 + 3) / 4) (touchLines a 4 s)) := by
  rw [withLiteral, hr]
  dsimp only
  rw [withWords_ok hl, if_neg (by simp [hok]), if_pos rfl, withWords_ok hd]

/-- The header words alone. -/
theorem withLiteral_head (hr : refOf s c h.e = some a) (hl : fetchWords s c a 4 = .ok l) (hok : headOk l = true) :
    withLiteral c h false g s = g l [] (touchLines a 4 s) := by
  rw [withLiteral, hr]
  dsimp only
  rw [withWords_ok hl, if_neg (by simp [hok]), if_neg Bool.false_ne_true]

theorem withLiteral_bad {data : Bool} (hr : refOf s c h.e = some a) (hl : fetchWords s c a 4 = .ok l) (hok : headOk l = false) :
    withLiteral c h data g s = progErr c ((touchLines a 4 s).ctx c).pc (touchLines a 4 s) := by
  rw [withLiteral, hr]
  dsimp only
  rw [withWords_ok hl, if_pos (by simp [hok])]

theorem withLiteral_none {data : Bool} (hr : refOf s c h.e = none) : withLiteral c h data g s = progErr c (s.ctx c).pc s := by rw [withLiteral, hr]

/-- A wrong instruction ends the run with its offset, whatever has been fetched (R399). -/
theorem Begun.progErr (hb : Begun s b) : progErr c (b.ctx c).pc b = endRun c ccProgErr (wd (offOf s c (s.ctx c).pc)) b := by
  rw [Machine.progErr, hb.ctx, hb.congr (offOf · c (s.ctx c).pc)]

end Fetch

section Own

/-- No context's record but that of `c` differs between `s` and `t`. -/
def Own (c : Nat) (s t : State) : Prop := ∀ x, kset {} t.ctxs c x = kset {} s.ctxs c x

theorem Own.of_ctxs (h : t.ctxs = s.ctxs) : Own c s t := fun x => by rw [h]

theorem Own.trans (h : Own c s t) (k : Own c t u) : Own c s u := fun x => (k x).trans (h x)

theorem Own.setCtx (x : CtxSt) (s : State) : Own c s (s.setCtx c x) := fun _ => kset_kset _ _ _ _ _

theorem Own.modCtx (F : CtxSt → CtxSt) (s : State) : Own c s (s.modCtx c F) := .setCtx _ s

/-- A state whose last change is to the record of `c`. -/
theorem Own.last {y : CtxSt} (h : Own c s u) (ht : t.ctxs = kset {} u.ctxs c y) : t.ctxs = kset {} s.ctxs c (t.ctx c) := by
  have hy : t.ctx c = y := by rw [State.ctx, ht, kget_kset_same]
  rw [hy, ht, h]

end Own

section Number

variable {nq : Bool} {l : List Byte}

/-- The number that an inserting send puts into the field (R382). -/
def txNumber (s : State) (c : Nat) : Nat :=
  if (s.ctx c).p then (s.get (.CTX_SEQ_TX_SEQ c) + 1) % 2 ^ txw s c else s.get (.CTX_SEQ_TX_SEQ c)

theorem advanceTx_number (hp : (s.ctx c).p = true) : (advanceTx c s).get (.CTX_SEQ_TX_SEQ c) = txNumber s c := by
  have hlt : (s.get (.CTX_SEQ_TX_SEQ c) + 1) % 2 ^ txw s c < 2 ^ 16 :=
    (Nat.mod_lt _ (Nat.two_pow_pos _)).trans_le (Nat.pow_le_pow_right (by decide) (min_le_right _ _))
  rw [advanceTx, get_put _ _ _ (by simp) (by simp), txNumber, if_pos hp]
  exact Nat.mod_eq_of_lt hlt

/-- A send that inserts no number (R382). -/
theorem withSeq_none (h : nq = true ∨ txw s c = 0) : withSeq c nq l s = (l, s) := if_pos h

theorem withSeq_some (h : ¬ (nq = true ∨ txw s c = 0)) : withSeq c nq l s =
    ((insertSeq (s.is (.CTX_SEQCFG_TXBE c)) (txw s c) (s.get (.CTX_SEQCFG_TXPOS c)) (txNumber s c) l).take l.length,
      (seqAdvanced (s.ctx c).p c s).modCtx c fun x => { x with p := true }) := by
  have hnum : (seqAdvanced (s.ctx c).p c s).get (.CTX_SEQ_TX_SEQ c) = txNumber s c := by
    unfold seqAdvanced
    split
    · next hp => exact advanceTx_number hp
    · next hp => rw [txNumber, if_neg hp]
  rw [← hnum]
  exact if_neg h

/-- The data do not depend on what the number's field does not hold. -/
theorem withSeq_data (hr : t.regs = s.regs) (hp : (t.ctx c).p = (s.ctx c).p) : (withSeq c nq l t).1 = (withSeq c nq l s).1 := by
  have hget (g : FldRef) : t.get g = s.get g := get_congr hr g
  have hw : txw t c = txw s c := by rw [txw, hget, txw]
  have hn : txNumber t c = txNumber s c := by rw [txNumber, txNumber, hget, hp, hw]
  by_cases h : nq = true ∨ txw s c = 0
  · rw [withSeq_none h, withSeq_none (by rwa [hw])]
  · rw [withSeq_some h, withSeq_some (by rwa [hw]), hw, hn, State.is, hget, hget, State.is]

/-- A field outside the sequence counters of context `c`. -/
def offSeq (c : Nat) (g : FldRef) : Prop := g.a ≠ Reg.CTX_SEQ c

theorem withSeq_frame (c : Nat) (nq : Bool) (l : List Byte) (s : State) : Frame ctxsFrom (offSeq c) s (withSeq c nq l s).2 := by
  by_cases h : nq = true ∨ txw s c = 0
  · rw [withSeq_none h]
    exact .refl s
  · rw [withSeq_some h]
    have hadv : Frame ctxsFrom (offSeq c) s (seqAdvanced (s.ctx c).p c s) := (seqAdvanced_frame _ c s).mono fun _ hg => hg
    exact Frame.trans hadv (modCtx_ctxs (seqAdvanced _ c s) c fun x => { x with p := true })

theorem withSeq_own (c : Nat) (nq : Bool) (l : List Byte) (s : State) : Own c s (withSeq c nq l s).2 := by
  by_cases h : nq = true ∨ txw s c = 0
  · rw [withSeq_none h]
    exact .of_ctxs rfl
  · rw [withSeq_some h]
    exact (Own.of_ctxs ((seqAdvanced_frame _ c s).unchanged State.ctxs)).trans (.modCtx _ _)

theorem ctx_withSeq (c : Nat) (nq : Bool) (l : List Byte) (s : State) : (withSeq c nq l s).2.ctx c =
    { s.ctx c with p := if nq = true ∨ txw s c = 0 then (s.ctx c).p else true } := by
  by_cases h : nq = true ∨ txw s c = 0
  · rw [withSeq_none h, if_pos h]
  · rw [withSeq_some h, if_neg h, ctx_modCtx, State.ctx, (seqAdvanced_frame _ c s).unchanged State.ctxs, ← State.ctx]

/-- The counter after an inserting send is the number that it sent. -/
theorem seq_withSeq (h : ¬ (nq = true ∨ txw s c = 0)) : (withSeq c nq l s).2.get (.CTX_SEQ_TX_SEQ c) = txNumber s c := by
  rw [withSeq_some h, State.modCtx_get, seqAdvanced]
  split
  · next hp => exact advanceTx_number hp
  · next hp => rw [txNumber, if_neg hp]

/-- The retry point of a send (R351, R375). -/
theorem ctx_retryHere (c pc : Nat) (s : State) : (retryHere c pc s).ctx c =
    if (s.ctx c).inResync then s.ctx c else { s.ctx c with retryPt := pc, retryPre := false } := ctx_modCtx ..

/-- The message's data with its number, and the state in which it goes out (R351, R382). -/
def outgoing (c : Nat) (h : HWord) (m : Msg) (s : State) : List Byte × State :=
  withSeq c (h.d % 2 == 1) m.frame.data (retryHere c (s.ctx c).pc s)

variable {h : HWord} {m : Msg}

theorem p_retryHere (c pc : Nat) (s : State) : ((retryHere c pc s).ctx c).p = (s.ctx c).p := by
  rw [ctx_retryHere]
  split <;> rfl

theorem outgoing_data (hb : Begun s u) : (outgoing c h m u).1 = (withSeq c (h.d % 2 == 1) m.frame.data s).1 :=
  withSeq_data (t := retryHere c _ u) hb.regs ((p_retryHere c _ u).trans (congrArg CtxSt.p (hb.ctx c)))

theorem outgoing_frame (c : Nat) (h : HWord) (m : Msg) (s : State) : Frame ctxsFrom (offSeq c) s (outgoing c h m s).2 :=
  (modCtx_ctxs s c _).trans (withSeq_frame c _ _ _)

theorem outgoing_own (c : Nat) (h : HWord) (m : Msg) (s : State) : Own c s (outgoing c h m s).2 := (Own.modCtx _ s).trans (withSeq_own c _ _ _)

theorem ctx_outgoing (c : Nat) (h : HWord) (m : Msg) (s : State) : ((outgoing c h m s).2.ctx c).pc = (s.ctx c).pc ∧
    ((outgoing c h m s).2.ctx c).wait = (s.ctx c).wait ∧
    ((outgoing c h m s).2.ctx c).retryPt = if (s.ctx c).inResync then (s.ctx c).retryPt else (s.ctx c).pc := by
  rw [outgoing, ctx_withSeq, ctx_retryHere]
  split <;> exact ⟨rfl, rfl, rfl⟩

end Number

section Wake

theorem ctxs_fcRefresh (n : Nat) (s : State) : (fcRefresh n s).ctxs = s.ctxs := by
  rw [fcRefresh, State.putB_ctxs, State.putB_ctxs, State.putB_ctxs]

theorem ctxs_linesResume (e : Nat) (s : State) : (linesResume e s).ctxs = s.ctxs := by
  unfold linesResume
  split
  · rw [State.modCa_ctxs, ctxs_each _ _ _ fun _ _ => State.modTile_ctxs .., ctxs_each _ _ _ fun _ _ => State.setChain_ctxs ..]
  · refine ctxs_each _ _ _ fun n t => ?_
    split
    · exact State.setChain_ctxs ..
    · rfl

theorem ctxs_startChainsAt (e : Nat) (s : State) : (startChainsAt e s).ctxs = s.ctxs := by
  have hmark (n : Nat) (t : State) : (noteMarks n (fcRefresh n t)).ctxs = t.ctxs := (State.setChain_ctxs ..).trans (ctxs_fcRefresh n t)
  have htake (n : Nat) (x : ChainSt) (t : State) : (takeUp n (t.setChain n x)).ctxs = t.ctxs :=
    ((takeUp_frame n _).unchanged State.ctxs).trans (State.setChain_ctxs ..)
  rw [startChainsAt, ctxs_each _ _ _ fun n _ => htake n _ _, ctxs_linesResume, ctxs_each _ _ _ hmark]

theorem ctxs_fmSet (e : Nat) (lean : Bool) (s : State) : (fmSet e lean s).ctxs = s.ctxs := by
  unfold fmSet
  split
  · rfl
  · rw [State.putB_ctxs, (rebaseAll_frame (P := fun _ => True) _ s).unchanged State.ctxs]

theorem ctxs_setPowerAt (e p : Nat) (s : State) : (setPowerAt e p s).ctxs = s.ctxs := by
  unfold setPowerAt
  extract_lets s1
  have h1 : s1.ctxs = s.ctxs := rfl
  split
  · rw [ctxs_fmSet, h1]
  · exact h1

theorem ctxs_dozeCause (on : Bool) (s : State) : (dozeCause on s).ctxs = s.ctxs :=
  ctxs_each _ _ _ fun n t => ((safeRefresh_frame n _).unchanged State.ctxs).trans (State.putB_ctxs ..)

theorem ctxs_noteWake (cause src : Nat) (s : State) : (noteWake cause src s).ctxs = s.ctxs := by
  have hrecord : (wakeRecord cause src s).ctxs = s.ctxs := by rw [wakeRecord, State.put_ctxs, State.put_ctxs, State.put_ctxs]
  unfold noteWake
  split
  · unfold leaveDoze
    split
    · exact hrecord
    · rw [ctxs_dozeCause, ctxs_startChainsAt, ctxs_setPowerAt, hrecord]
  · split
    · rfl
    · rfl

/-- The wake of a port is nothing to the contexts. -/
theorem ctxs_canWake (p cause stamp : Nat) (w : Word) (s : State) : (canWake p cause stamp w s).ctxs = s.ctxs := by
  unfold canWake
  split
  · extract_lets s1 s2
    have h2 : s2.ctxs = s.ctxs := by
      unfold s2 s1 canIntegrate
      rw [State.putB_ctxs, (canRecord_frame ..).unchanged State.ctxs, State.put_ctxs, State.put_ctxs]
    split
    · exact h2
    · exact (ctxs_noteWake ..).trans h2
  · rfl

/-- A field of the status or of the sequence counters of context `c`. -/
def ofRun (c : Nat) (g : FldRef) : Prop := (g.a = Reg.CTX_STAT c ∨ g.a = Reg.CTX_SEQ c) ∧ g.hi < 32

theorem get_canWake {p cause stamp : Nat} {w : Word} {g : FldRef} (hg : ofRun c g) : (canWake p cause stamp w s).get g = s.get g := by
  obtain ⟨ha, hi⟩ := hg
  simp only [Reg.CTX_STAT, Reg.CTX_SEQ] at ha
  have hput (u : State) (f : FldRef) (v : Nat) (hf : f.a = Reg.CAN_STAT p ∨ f.a = Reg.CAN_WAKE_STAT p) : (u.put f v).get g = u.get g :=
    get_put_ne _ _ _ _ (by simp only [Reg.CAN_STAT, Reg.CAN_WAKE_STAT] at hf; omega)
  have hq : offQueues g := by
    simp only [offQueues, queueReg, Bool.or_eq_false_iff, Bool.and_eq_false_iff, decide_eq_false_iff_not, beq_eq_false_iff_ne, Reg.MOD_IRQ]
    omega
  unfold canWake
  split
  · extract_lets s1 s2
    have h1 : s1.get g = s.get g := (hput _ (.CAN_WAKE_STAT_CAUSE p) _ (.inr rfl)).trans (hput _ (.CAN_STAT_ASLEEP p) _ (.inl rfl))
    have h2 : s2.get g = s.get g := (hput _ (.CAN_STAT_INTEG p) _ (.inl rfl)).trans (((canRecord_frame ..).get g hq).trans h1)
    split
    · exact h2
    · exact ((noteWake_upper 1 p s2).get g ⟨by omega, hi⟩).trans h2
  · rfl

variable {p prio tag : Nat} {src : TxSrc} {report : Bool} {f : Sys2Proof.Frame}

/-- An entry queued is nothing to the contexts, even where it wakes the port. -/
theorem ctxs_txQueue : (txQueue p src prio tag report f s).ctxs = s.ctxs := by
  rw [txQueue_eq]
  split
  · rw [ctxs_canWake]
    rfl
  · rfl

theorem get_txQueue {g : FldRef} (hg : ofRun c g) : (txQueue p src prio tag report f s).get g = s.get g := by
  rw [txQueue_eq]
  split
  · rw [get_canWake hg]
    rfl
  · rfl

end Wake

end Sys2Proof.Machine
end

section
/-! PROOFS. What a send leaves (R381 to R383): on a CAN port the entry queued, on S2 the transfer begun, or nothing but the end of the run or its wait. -/

namespace Sys2Proof.Machine

set_option Elab.async false

variable {s b u t : State} {e c op p : Nat} {h : HWord} {m : Msg} {P : FldRef → Prop}

section Can

/-- The message queued by a send to the port of `c`, and execution after it. -/
def queuedBy (c : Nat) (h : HWord) (m : Msg) (s : State) : State :=
  stepOver c h (txQueue (s.get (.CTX_PARTNER_PORT c)) (.hoist c) (h.k % 256) (0x8000 + c) (h.d / 4 % 2 == 1)
    { m.frame with data := (outgoing c h m s).1 } (outgoing c h m s).2)

/-- And under WAITTX the wait for the entry. -/
def sentBy (c : Nat) (h : HWord) (m : Msg) (s : State) : State :=
  if h.d / 2 % 2 = 1 then ctxWait c 2 (.txDone (s.can (s.get (.CTX_PARTNER_PORT c))).nextId) (queuedBy c h m s) else queuedBy c h m s

theorem sendMsg_bad (hcan : onCan s c = true) (hbad : msgOk s c m = false ∨ seqPast s c (h.d % 2 == 1) m.len = true) :
    sendMsg c h m s = progErr c (s.ctx c).pc s :=
  (if_pos hcan).trans (if_pos (hbad.imp (fun h => by simp [h]) id))

theorem sendMsg_full (hcan : onCan s c = true) (hok : msgOk s c m = true) (hpast : seqPast s c (h.d % 2 == 1) m.len = false)
    (hfull : 32 ≤ txLevel s (s.get (.CTX_PARTNER_PORT c))) : sendMsg c h m s = ctxBlock c 5 .none s :=
  (if_pos hcan).trans ((if_neg (by simp [hok, hpast])).trans (if_pos hfull))

theorem sendMsg_sent (hcan : onCan s c = true) (hok : msgOk s c m = true) (hpast : seqPast s c (h.d % 2 == 1) m.len = false)
    (hroom : txLevel s (s.get (.CTX_PARTNER_PORT c)) < 32) : sendMsg c h m s = sentBy c h m s :=
  (if_pos hcan).trans ((if_neg (by simp [hok, hpast])).trans (if_neg (by omega)))

theorem ctxs_stepOver (c : Nat) (h : HWord) (s : State) : (stepOver c h s).ctxs = kset {} s.ctxs c { s.ctx c with pc := nextPc h (s.ctx c).pc } := rfl

theorem ctx_stepOver (c : Nat) (h : HWord) (s : State) : (stepOver c h s).ctx c = { s.ctx c with pc := nextPc h (s.ctx c).pc } := ctx_modCtx ..

/-- `s` with what a message instruction may change taken from `t`. -/
def messageFrom (s t : State) : State := { s with regs := t.regs, ctxs := t.ctxs, cans := t.cans, engs := t.engs, hcache := t.hcache }

/-- A field outside the status and the sequence counters of context `c`. -/
def offSend (c : Nat) (g : FldRef) : Prop := offStat c g ∧ offSeq c g

theorem queuedBy_ctx (c : Nat) (h : HWord) (m : Msg) (s : State) : (queuedBy c h m s).ctx c =
    { (outgoing c h m s).2.ctx c with pc := nextPc h (s.ctx c).pc } := by
  obtain ⟨hpc, -, -⟩ := ctx_outgoing (c := c) (h := h) (m := m) s
  rw [queuedBy, ctx_stepOver, State.ctx, ctxs_txQueue, ← State.ctx, hpc]

theorem queuedBy_own (c : Nat) (h : HWord) (m : Msg) (s : State) : Own c s (queuedBy c h m s) :=
  ((outgoing_own c h m s).trans (.of_ctxs ctxs_txQueue)).trans (.modCtx _ _)

theorem queuedBy_get {g : FldRef} (hg : ofRun c g) : (queuedBy c h m s).get g = (outgoing c h m s).2.get g := get_txQueue hg

theorem queuedBy_can (c : Nat) (h : HWord) (m : Msg) (s : State) (hp : s.get (.CTX_PARTNER_PORT c) = p) :
    ((queuedBy c h m s).can p).txq = (s.can p).txq ++ [{
      id := (s.can p).nextId, src := .hoist c, prio := h.k % 256, tag := 0x8000 + c, report := h.d / 4 % 2 == 1,
      frame := { m.frame with data := (outgoing c h m s).1 } }] := by
  have hcan (u : State) : (stepOver c h u).can p = u.can p := rfl
  have hbefore : (outgoing c h m s).2.can p = s.can p := (outgoing_frame c h m s).unchanged (State.can · p)
  rw [queuedBy, hp, hcan, can_txQueue, txEntry, hbefore]
  rfl

theorem queuedBy_frame (hw : s.is (.CAN_SLEEP_WAKE_ON_TX (s.get (.CTX_PARTNER_PORT c))) = false) : Frame messageFrom (offSend c) s (queuedBy c h m s) := by
  have hout : Frame messageFrom (offSend c) s (outgoing c h m s).2 := (outgoing_frame c h m s).mono fun _ hg => hg.2
  have hwake : (outgoing c h m s).2.is (.CAN_SLEEP_WAKE_ON_TX (s.get (.CTX_PARTNER_PORT c))) = false := by
    rw [(outgoing_frame c h m s).is _ (by simp only [offSeq, Reg.CAN_SLEEP, Reg.CTX_SEQ]; omega), hw]
  have hqueue (k : Nat) (x : TxEnt) (v : State) : Frame messageFrom (offSend c) v (txQueued k x v) := .of_regs rfl rfl
  have hstep (v : State) : Frame messageFrom (offSend c) v (stepOver c h v) := .of_regs rfl rfl
  rw [queuedBy, txQueue_unwoken (.inl hwake)]
  exact (hout.trans (hqueue _ _ _)).trans (hstep _)

theorem state_ofRun (c : Nat) : ofRun c (.CTX_STAT_STATE c) := ⟨.inl rfl, by simp⟩

theorem sentBy_ctxs (c : Nat) (h : HWord) (m : Msg) (s : State) : (sentBy c h m s).ctxs = kset {} s.ctxs c ((sentBy c h m s).ctx c) := by
  unfold sentBy
  split
  · exact (queuedBy_own c h m s).last (ctxs_ctxWait ..)
  · exact ((outgoing_own c h m s).trans (.of_ctxs ctxs_txQueue)).last (ctxs_stepOver ..)

theorem sentBy_frame (hw : s.is (.CAN_SLEEP_WAKE_ON_TX (s.get (.CTX_PARTNER_PORT c))) = false) : Frame messageFrom (offSend c) s (sentBy c h m s) := by
  have hq : Frame messageFrom (offSend c) s (queuedBy c h m s) := queuedBy_frame hw
  exact .ite (fun _ => hq.trans ((ctxWait_frame ..).mono fun _ hg => hg.1)) fun _ => hq

theorem cans_ctxWait (on : Nat) (w : Wait) (s : State) : (ctxWait c on w s).cans = s.cans := (ctxWait_frame (c := c) on w s).unchanged State.cans

/-- What a send to a CAN port leaves (R381, R382). -/
theorem sentBy_sentOn (hb : Begun s u) (hrun : s.get (.CTX_STAT_STATE c) = stRunning) (hp : p = s.get (.CTX_PARTNER_PORT c)) :
    sentOn s (sentBy c h m u) c p (nextPc h (s.ctx c).pc) h m = true := by
  have hpu : u.get (.CTX_PARTNER_PORT c) = p := by rw [hb.get, hp]
  have hcan : u.can p = s.can p := hb.congr (State.can · p)
  obtain ⟨-, hwait, hretry⟩ := ctx_outgoing (c := c) (h := h) (m := m) u
  have hstate : (queuedBy c h m u).get (.CTX_STAT_STATE c) = stRunning := by
    rw [queuedBy_get (state_ofRun c), (outgoing_frame c h m u).get _ (by simp only [offSeq, Reg.CTX_STAT, Reg.CTX_SEQ]; omega), hb.get, hrun]
  have hq : ((queuedBy c h m u).can p).txq = (s.can p).txq ++ [{
      id := (s.can p).nextId, src := .hoist c, prio := h.k % 256, tag := 0x8000 + c, report := h.d / 4 % 2 == 1,
      frame := { m.frame with data := (withSeq c (h.d % 2 == 1) m.frame.data s).1 } }] := by
    rw [queuedBy_can c h m u hpu, hcan, outgoing_data hb]
  have hctx := queuedBy_ctx c h m u
  rw [hb.ctx] at hwait hretry hctx
  simp only [sentOn, Bool.and_eq_true, beq_iff_eq]
  unfold sentBy
  rw [hpu, hcan]
  split
  · refine ⟨⟨⟨⟨?_, ?_⟩, ?_⟩, ?_⟩, (get_ctxWait ..).1⟩
    · rw [State.can, cans_ctxWait, ← State.can, hq]
    · rw [ctx_ctxWait, hctx]
    · rw [ctx_ctxWait, hctx, hretry]
    · rw [ctx_ctxWait]
  · refine ⟨⟨⟨⟨hq, ?_⟩, ?_⟩, ?_⟩, hstate⟩
    · rw [hctx]
    · rw [hctx, hretry]
    · rw [hctx, hwait]

/-- The frame of an inserting send carries its number, which the counter then holds (R382). -/
theorem sentBy_number (hb : Begun s u) (hp : p = s.get (.CTX_PARTNER_PORT c)) (hnq : h.d % 2 = 0) (hw : 0 < txw s c) :
    (((sentBy c h m u).can p).txq.getLast?.map fun y => y.frame.data) =
      some ((insertSeq (s.is (.CTX_SEQCFG_TXBE c)) (txw s c) (s.get (.CTX_SEQCFG_TXPOS c)) (txNumber s c) m.frame.data).take m.frame.data.length) ∧
    (sentBy c h m u).get (.CTX_SEQ_TX_SEQ c) = txNumber s c ∧ ((sentBy c h m u).ctx c).p = true := by
  have hpu : u.get (.CTX_PARTNER_PORT c) = p := by rw [hb.get, hp]
  have hins : ¬ ((h.d % 2 == 1) = true ∨ txw s c = 0) := by simp; omega
  have hinsu : ¬ ((h.d % 2 == 1) = true ∨ txw (retryHere c (u.ctx c).pc u) c = 0) := by
    rwa [show txw (retryHere c (u.ctx c).pc u) c = txw u c from rfl, hb.congr (txw · c)]
  have hnum : txNumber (retryHere c (u.ctx c).pc u) c = txNumber s c := by
    have hget (pc : Nat) (g : FldRef) : (retryHere c pc u).get g = s.get g := (State.modCtx_get ..).trans (hb.get g)
    rw [txNumber, p_retryHere, hb.ctx, hget, show txw (retryHere c _ u) c = txw u c from rfl, hb.congr (txw · c), txNumber]
  have hlast : (((queuedBy c h m u).can p).txq.getLast?.map fun y => y.frame.data) =
      some ((insertSeq (s.is (.CTX_SEQCFG_TXBE c)) (txw s c) (s.get (.CTX_SEQCFG_TXPOS c)) (txNumber s c) m.frame.data).take m.frame.data.length) := by
    rw [queuedBy_can c h m u hpu, List.getLast?_concat, Option.map_some, outgoing_data hb, withSeq_some hins]
  have hseq : (queuedBy c h m u).get (.CTX_SEQ_TX_SEQ c) = txNumber s c := by
    rw [queuedBy_get ⟨.inr rfl, by simp⟩, outgoing, seq_withSeq hinsu, hnum]
  have hpend : ((queuedBy c h m u).ctx c).p = true := by rw [queuedBy_ctx, outgoing, ctx_withSeq, if_neg hinsu]
  unfold sentBy
  split
  · refine ⟨?_, ?_, ?_⟩
    · rw [State.can, cans_ctxWait, ← State.can, hlast]
    · rw [(ctxWait_frame ..).get _ (by simp only [offStat, Reg.CTX_STAT, Reg.CTX_SEQ]; omega), hseq]
    · rw [ctx_ctxWait, hpend]
  · exact ⟨hlast, hseq, hpend⟩

end Can

section Spi

/-- The transfer that a send on S2 begins, and the wait for its end (R383). -/
def spiBy (c : Nat) (h : HWord) (m : Msg) (s : State) : State :=
  ctxWait c 2 .s2 (stepOver c h (s2Send c (outgoing c h m s).1 (outgoing c h m s).2))

variable (hkind : s.get (.CTX_PARTNER_KIND c) = 2)

include hkind in
theorem offCan : onCan s c = false := by rw [onCan, hkind]; rfl

include hkind in
theorem sendMsg_nofault (hbad : s2Refuses s m.len = true) (hd : h.d / 8 = 1) : sendMsg c h m s = stepOver c h (setF c true s) := by
  have hnot : ¬ onCan s c = true := by simp [offCan hkind]
  rw [sendMsg, if_neg hnot, if_pos hbad, if_pos hd, hd]
  rfl

include hkind in
theorem sendMsg_refused (hbad : s2Refuses s m.len = true) (hd : h.d < 8) : sendMsg c h m s = endRun c ccRefused (wd (offOf s c (s.ctx c).pc)) s := by
  have hnot : ¬ onCan s c = true := by simp [offCan hkind]
  have hzero : h.d / 8 = 0 := by omega
  rw [sendMsg, if_neg hnot, if_pos hbad, if_neg (by omega), hzero]
  rfl

section Fits

variable (hok : s2Refuses s m.len = false) (hpast : seqPast s c (h.d % 2 == 1) m.len = false)

include hkind hok hpast

theorem sendMsg_busy (hx : s.sp2.xfer.isSome = true) : sendMsg c h m s = ctxBlock c 7 .none s := by
  have hnot : ¬ onCan s c = true := by simp [offCan hkind]
  rw [sendMsg, if_neg hnot, if_neg (by simp [hok]), if_neg (by simp [hpast]), if_pos hx]

theorem sendMsg_spi (hx : s.sp2.xfer = none) : sendMsg c h m s = spiBy c h m s := by
  have hnot : ¬ onCan s c = true := by simp [offCan hkind]
  rw [sendMsg, if_neg hnot, if_neg (by simp [hok]), if_neg (by simp [hpast]), if_neg (by simp [hx])]
  rfl

end Fits

variable {l : List Byte}

/-- The transfer of a context's data (R383). -/
def s2Begun (c : Nat) (l : List Byte) (s : State) : S2Xfer :=
  { ctx := some c, ss := s.get (.CTX_PARTNER_SS c), n := l.length / (if s.is .SP2_CFG_FRAME then 1 else wordBytes s), frame := s.is .SP2_CFG_FRAME,
    start := now s }

theorem sp2_s2Send (c : Nat) (l : List Byte) (s : State) : (s2Send c l s).sp2 =
    { s.sp2 with xfer := some (s2Begun c l s), sent := beWords (if s.is .SP2_CFG_FRAME then 1 else wordBytes s) l.length l } := by
  rw [s2Send, s2Start, sp2Show, State.putB_sp2, State.putB_sp2, State.putB_sp2]
  rfl

theorem ctxs_s2Send (c : Nat) (l : List Byte) (s : State) : (s2Send c l s).ctxs = s.ctxs := by
  rw [s2Send, s2Start, sp2Show, State.putB_ctxs, State.putB_ctxs, State.putB_ctxs]
  rfl

theorem cans_s2Send (c : Nat) (l : List Byte) (s : State) : (s2Send c l s).cans = s.cans := by
  rw [s2Send, s2Start, sp2Show, State.putB_cans, State.putB_cans, State.putB_cans]
  rfl

/-- What a send on S2 begins does not depend on the sequence counters. -/
theorem sp2_s2Send_outgoing (c : Nat) (h : HWord) (m : Msg) (l : List Byte) (s : State) :
    (s2Send c l (outgoing c h m s).2).sp2 = (s2Send c l s).sp2 := by
  have hf := outgoing_frame c h m s
  have hget (g : FldRef) (hg : g.a = Reg.SP2_CFG) : (outgoing c h m s).2.get g = s.get g :=
    hf.get g (by simp only [offSeq, hg, Reg.SP2_CFG, Reg.CTX_SEQ]; omega)
  have hss : (outgoing c h m s).2.get (.CTX_PARTNER_SS c) = s.get (.CTX_PARTNER_SS c) := hf.get _ (by simp only [offSeq, Reg.CTX_PARTNER, Reg.CTX_SEQ]; omega)
  have hfr : (outgoing c h m s).2.is .SP2_CFG_FRAME = s.is .SP2_CFG_FRAME := by rw [State.is, hget _ rfl, State.is]
  have hbytes : wordBytes (outgoing c h m s).2 = wordBytes s := by rw [wordBytes, s2Bits, hget _ rfl, wordBytes, s2Bits]
  have hnow : now (outgoing c h m s).2 = now s := hf.unchanged now
  rw [sp2_s2Send, sp2_s2Send, s2Begun, s2Begun, hfr, hbytes, hss, hnow, hf.unchanged State.sp2]

/-- What a send on S2 leaves. -/
theorem spiBy_spec (hb : Begun s u) (ht : t = spiBy c h m u) : t.get (.CTX_STAT_STATE c) = stWaiting ∧ t.get (.CTX_STAT_WAIT_ON c) = 2 ∧
    (t.ctx c).wait = .s2 ∧ (t.ctx c).pc = nextPc h (s.ctx c).pc ∧ t.sp2 = (s2Send c (withSeq c (h.d % 2 == 1) m.frame.data s).1 s).sp2 ∧
    t.cans = s.cans := by
  obtain ⟨hpc, -, -⟩ := ctx_outgoing (c := c) (h := h) (m := m) u
  have hstep (v : State) : (stepOver c h v).sp2 = v.sp2 ∧ (stepOver c h v).cans = v.cans := ⟨rfl, rfl⟩
  have hctx : t.ctx c = { (outgoing c h m u).2.ctx c with pc := nextPc h (u.ctx c).pc, wait := .s2 } := by
    rw [ht, spiBy, ctx_ctxWait, ctx_stepOver, State.ctx, ctxs_s2Send, ← State.ctx, hpc]
  subst ht
  refine ⟨(get_ctxWait ..).1, (get_ctxWait ..).2, ?_, ?_, ?_, ?_⟩
  · rw [hctx]
  · rw [hctx, hb.ctx]
  · rw [spiBy, (ctxWait_frame ..).unchanged State.sp2, (hstep _).1, sp2_s2Send_outgoing, outgoing_data hb,
      hb.congr fun v => (s2Send c (withSeq c (h.d % 2 == 1) m.frame.data s).1 v).sp2]
  · rw [spiBy, cans_ctxWait, (hstep _).2, cans_s2Send, (outgoing_frame c h m u).unchanged State.cans, hb.congr State.cans]

end Spi

end Sys2Proof.Machine
end

section
/-! PROOFS. What a message instruction leaves when its context stops, waits or goes on with a frame (R345 to R350, R386, R393), and FLUSH. -/

namespace Sys2Proof.Machine

set_option Elab.async false

variable {s b u t : State} {e c op on a : Nat} {h : HWord} {w : Wait} {x : CtxSt}

section Stops

/-- Every field. -/
def anyField (_ : FldRef) : Prop := True

theorem touched (a n : Nat) (s : State) : Frame cacheFrom anyField s (touchLines a n s) := touchLines_frame a n s

/-- `s` with what a context that waits, that blocks or that goes on after words were fetched changes taken from `t`. -/
def fetchedWaitFrom (s t : State) : State := { s with regs := t.regs, ctxs := t.ctxs, engs := t.engs, hcache := t.hcache }
def fetchedBlockFrom (s t : State) : State := { fetchedWaitFrom s t with blockCtr := t.blockCtr }
def fetchedCtxsFrom (s t : State) : State := { s with regs := t.regs, ctxs := t.ctxs, hcache := t.hcache }

theorem engs_begunX (h : runningOn s e = some c) : ∀ p ∈ (begunX e c op s).engs, p.1 = e → p.2.ctx = some c := by
  rw [begunX, (touched _ _ (begun e c op s)).unchanged State.engs]
  exact engs_begun h

/-- A message instruction that blocks its context. -/
theorem fetched_blocks (hon : on < 16) (hb : Begun s b) (hu : Frame cacheFrom anyField b u) (ht : t = ctxBlock c on .none u) :
    t.get (.CTX_STAT_STATE c) = stBlocked ∧ t.get (.CTX_STAT_WAIT_ON c) = on ∧ (t.ctx c).pc = (s.ctx c).pc ∧
      t = { b with regs := t.regs, ctxs := kset {} s.ctxs c (t.ctx c), engs := t.engs, hcache := t.hcache, blockCtr := t.blockCtr } ∧
      ∀ a, a ≠ Reg.CTX_STAT c → rd t a = rd s a := by
  have hbu : Begun s u := hb.fetched hu
  obtain ⟨hst, hw, hpc, -, hrd⟩ := ctxBlock_spec hon hbu ht
  have hctxs : t.ctxs = kset {} s.ctxs c (t.ctx c) := by rw [ht, ctxs_ctxBlock, hbu.ctxs]
  have hfetch : Frame fetchedBlockFrom (offStat c) b u := hu.mono fun _ _ => trivial
  have hframe : Frame fetchedBlockFrom (offStat c) b t := by
    rw [ht]
    exact hfetch.trans ((ctxBlock_frame on .none u).mono fun _ hg => hg)
  refine ⟨hst, hw, hpc, ?_, hrd⟩
  rw [← hctxs]
  exact hframe.rest

/-- A message instruction whose context waits. -/
theorem fetched_waits (hon : on < 16) (hb : Begun s b) (hu : Frame cacheFrom anyField b u) (ht : t = ctxWait c on w (u.setCtx c x)) :
    t.get (.CTX_STAT_STATE c) = stWaiting ∧ t.get (.CTX_STAT_WAIT_ON c) = on ∧ t.ctx c = { x with wait := w } ∧
      t = { b with regs := t.regs, ctxs := kset {} s.ctxs c (t.ctx c), engs := t.engs, hcache := t.hcache } ∧
      ∀ a, a ≠ Reg.CTX_STAT c → rd t a = rd s a := by
  have hctxs : t.ctxs = kset {} s.ctxs c (t.ctx c) := by
    rw [ht, ctxs_ctxWait, State.setCtx, kset_kset, (hb.fetched hu).ctxs]
  have hset (v : State) : Frame fetchedWaitFrom (offStat c) v (v.setCtx c x) := .of_regs rfl rfl
  have hfetch : Frame fetchedWaitFrom (offStat c) b u := hu.mono fun _ _ => trivial
  have hframe : Frame fetchedWaitFrom (offStat c) b t := by
    rw [ht]
    exact (hfetch.trans (hset u)).trans ((ctxWait_frame on w _).mono fun _ hg => hg)
  obtain ⟨hst, hw⟩ := get_ctxWait (c := c) on w (u.setCtx c x)
  refine ⟨ht ▸ hst, ?_, ?_, ?_, fun a ha => (hframe.rd a ha).trans (hb.rd a)⟩
  · rw [ht, hw, Nat.mod_eq_of_lt hon]
  · rw [ht, ctx_ctxWait, ctx_setCtx]
  · rw [← hctxs]
    exact hframe.rest

end Stops

section Expect

variable {k : ExpectW} {d : List Word} {f : RxEnt}

/-- Nothing has reached the context (R349). -/
theorem expectNext_nothing (hi : (s.ctx c).inbox = []) (hoff : (s.ctx c).evOff = false) (habs : (s.ctx c).evAbs = false) : expectNext c k s = none := by
  unfold expectNext nextItem items
  rw [hi, hoff, habs]
  rfl

theorem xferNext_nothing {k : XferW} (hi : (s.ctx c).inbox = []) (hoff : (s.ctx c).evOff = false) (habs : (s.ctx c).evAbs = false) :
    xferNext c k s = none := by
  unfold xferNext
  dsimp only
  rw [hi, hoff, habs]
  rfl

theorem evaluate_expect_nothing (hw : (s.ctx c).wait = .expect k) (hn : expectNext c k s = none) : evaluate c s = s := by
  unfold evaluate pump
  rw [hw]
  dsimp only
  rw [hn]
  exact ite_self _

theorem evaluate_xfer_nothing {k : XferW} (hw : (s.ctx c).wait = .xfer k) (hn : xferNext c k s = none) : evaluate c s = s := by
  unfold evaluate pump
  rw [hw]
  dsimp only
  rw [hn]
  exact ite_self _

/-- No timeout and no timer is set (R384). -/
theorem expectDue_untimed (hms : bits (dw (k.descs.getD 0 []) 4) 31 16 = 0) (hti : bits (dw (k.descs.getD 0 []) 4) 1 0 = 0) : expectDue s c k = false := by
  unfold expectDue
  dsimp only
  rw [hms, hti]
  rfl

theorem waitOn_expect (hst : s.get (.CTX_STAT_STATE c) = stRunning) (hw : (s.ctx c).wait = .expect k) (hdue : expectDue s c k = false) :
    waitOn c s = ctxWait c 2 (.expect k) s := by
  unfold waitOn
  rw [hw]
  exact (if_pos hst).trans (if_neg (by rw [hdue]; exact Bool.false_ne_true))

theorem waitOn_xfer {k : XferW} (hst : s.get (.CTX_STAT_STATE c) = stRunning) (hw : (s.ctx c).wait = .xfer k) : waitOn c s = ctxWait c 2 (.xfer k) s := by
  unfold waitOn
  rw [hw]
  exact if_pos hst

theorem waitOn_idle (hw : (s.ctx c).wait = .none) : waitOn c s = s := by
  unfold waitOn
  rw [hw]
  exact ite_self _

/-- What an EXPECT or EXPECTANY waits for, and the context's record as it begins (R345, R386). -/
def expecting (c : Nat) (h : HWord) (ds : List (List Word)) (dreg : Option Nat) (s : State) : ExpectW :=
  { at_ := (s.ctx c).pc, next := nextPc h (s.ctx c).pc, descs := ds, dreg := dreg, start := clk s }
def expectingCtx (c : Nat) (h : HWord) (ds : List (List Word)) (dreg : Option Nat) (s : State) : CtxSt :=
  { s.ctx c with pc := nextPc h (s.ctx c).pc, wait := .expect (expecting c h ds dreg s) }

variable {ds : List (List Word)} {dreg : Option Nat}

theorem expectStart_eq : expectStart c h ds dreg s = waitOn c (evaluate c (s.setCtx c (expectingCtx c h ds dreg s))) := rfl

/-- With nothing present and no timeout the context waits (R349). -/
theorem expectStart_waits (hst : s.get (.CTX_STAT_STATE c) = stRunning) (hms : bits (dw (ds.getD 0 []) 4) 31 16 = 0)
    (hti : bits (dw (ds.getD 0 []) 4) 1 0 = 0) (hi : (s.ctx c).inbox = []) (hoff : (s.ctx c).evOff = false) (habs : (s.ctx c).evAbs = false) :
    expectStart c h ds dreg s = ctxWait c 2 (.expect (expecting c h ds dreg s)) (s.setCtx c (expectingCtx c h ds dreg s)) := by
  have hctx : (s.setCtx c (expectingCtx c h ds dreg s)).ctx c = expectingCtx c h ds dreg s := ctx_setCtx ..
  have hw : ((s.setCtx c (expectingCtx c h ds dreg s)).ctx c).wait = .expect (expecting c h ds dreg s) := by rw [hctx, expectingCtx]
  rw [expectStart_eq, evaluate_expect_nothing hw (expectNext_nothing (by rw [hctx]; exact hi) (by rw [hctx]; exact hoff) (by rw [hctx]; exact habs)),
    waitOn_expect (s := s.setCtx c (expectingCtx c h ds dreg s)) hst hw (expectDue_untimed hms hti)]

/-- CONTINUE on the context's engine (R350). -/
theorem expectAct_goesOn (hact : actionOf (dw (k.descs.getD 0 []) 6) ocMatch = 0) (hd : k.dreg = none) (hst : s.get (.CTX_STAT_STATE c) = stRunning) :
    expectAct c k ocMatch 0 (some f) s = s.setCtx c { s.ctx c with cur := some f, pc := k.next, wait := .none } := by
  have hgo (v : State) (hv : v.get (.CTX_STAT_STATE c) = stRunning) : goOn c k.next v = v.modCtx c fun x => { x with pc := k.next, wait := .none } :=
    if_pos hv
  unfold expectAct
  rw [if_neg (by decide : ¬ ocMatch = ocUnexpected), hact, hd]
  dsimp only
  rw [if_neg fun h => absurd h.1 (by decide), if_pos (by decide), if_pos rfl, hgo (s.modCtx c fun x => { x with cur := some f }) hst]
  exact modCtx_setCtx s c _ _

/-- What a frame that decides the EXPECT at once leaves. -/
def matchedAt (c : Nat) (f : RxEnt) (v : State) : State :=
  (onOutcome c ocMatch none (v.modCtx c fun x => { x with inbox := [] })).setCtx c
    { (onOutcome c ocMatch none (v.modCtx c fun x => { x with inbox := [] })).ctx c with cur := some f, pc := (v.ctx c).pc, wait := .none }

/-- A frame that is present and matches decides the EXPECT (R347, R349). -/
theorem expectStart_match (hst : s.get (.CTX_STAT_STATE c) = stRunning) (hi : (s.ctx c).inbox = [f]) (hwhole : rxMissing f = 0)
    (hoff : (s.ctx c).evOff = false) (habs : (s.ctx c).evAbs = false) (hm : frameMatch d f = true) (hcheck : bitAt (dw d 5) 31 = false)
    (hseq : rxw s c = 0) (hact : actionOf (dw d 6) ocMatch = 0) :
    expectStart c h [d] none s = matchedAt c f (s.setCtx c (expectingCtx c h [d] none s)) := by
  rw [expectStart_eq]
  generalize hv : s.setCtx c (expectingCtx c h [d] none s) = v
  have hctx : v.ctx c = expectingCtx c h [d] none s := by rw [← hv, ctx_setCtx]
  have hstv : v.get (.CTX_STAT_STATE c) = stRunning := by rw [← hv]; exact hst
  have hseqv : rxw v c = 0 := by rw [← hv]; exact hseq
  have hw : (v.ctx c).wait = .expect (expecting c h [d] none s) := by rw [hctx, expectingCtx]
  have hlisten (y : State) (hy : y.get (.CTX_STAT_STATE c) = stRunning) : listening y c = true := by
    unfold listening
    rw [hy]
    rfl
  obtain ⟨-, -, hstill, -⟩ := onOutcome_match_spec c (v.modCtx c fun x => { x with inbox := [] })
  have hnext : expectNext c (expecting c h [d] none s) v = some (matchedAt c f v) := by
    rw [expectNext_frame (f := f) (by rw [hctx]; exact hi) (by rw [hctx]; exact hoff) (by rw [hctx]; exact habs) rfl,
      expectFrame_match (d := d) (by rw [hctx]; exact hi) hwhole rfl hm hcheck hseqv,
      expectAct_goesOn (k := expecting c h [d] none s) hact rfl (hstill.trans hstv), matchedAt,
      hctx]
    rfl
  have hidle : ((matchedAt c f v).ctx c).wait = .none := by rw [matchedAt, ctx_setCtx]
  have heval : evaluate c v = matchedAt c f v := by
    unfold evaluate pump
    rw [if_neg (by rw [hlisten v hstv]; decide), hw]
    dsimp only
    rw [hnext]
    dsimp only
    unfold pump
    rw [hidle]
    exact ite_self _
  rw [heval, waitOn_idle hidle]

/-- What it leaves of the state in which the EXPECT has its effect. -/
theorem matchedAt_spec (hb : Begun s b) (hu : Frame cacheFrom anyField b u) (hrun : s.get (.CTX_STAT_STATE c) = stRunning)
    (ht : t = matchedAt c f (u.setCtx c x)) : t.get (.CTX_STAT_STATE c) = stRunning ∧ t.get (.CTX_STAT_LAST_OUT c) = ocMatch ∧
      (t.ctx c).pc = x.pc ∧ (t.ctx c).cur = some f ∧ (t.ctx c).inbox = [] ∧ (t.ctx c).wait = .none ∧
      t = { b with regs := t.regs, ctxs := kset {} s.ctxs c (t.ctx c), hcache := t.hcache } ∧
      ∀ a, a ≠ Reg.CTX_STAT c → a ≠ Reg.CTX_SEQ c → rd t a = rd s a := by
  have hbu : Begun s u := hb.fetched hu
  rw [matchedAt, modCtx_setCtx, ctx_setCtx] at ht
  generalize hv : u.setCtx c { x with inbox := [] } = v at ht
  obtain ⟨hframe, hlast, hst, hctx⟩ := onOutcome_match_spec c v
  have hvs : v.get (.CTX_STAT_STATE c) = stRunning := by rw [← hv]; exact (hbu.get _).trans hrun
  have hown : Own c s (onOutcome c ocMatch none v) := by
    rw [onOutcome_match]
    have hset : Own c s v := hv ▸ (Own.of_ctxs hbu.ctxs).trans (.setCtx _ u)
    have hadv (y : State) : Own c y (seqAdvanced (v.ctx c).p c y) := .of_ctxs ((seqAdvanced_frame _ c y).unchanged State.ctxs)
    exact ((hset.trans (.of_ctxs (State.put_ctxs ..))).trans (hadv _)).trans (.modCtx _ _)
  have hset : Frame fetchedCtxsFrom (fun g => offStat c g ∧ g.a ≠ Reg.CTX_SEQ c) b v := by
    have hfetch : Frame fetchedCtxsFrom (fun g => offStat c g ∧ g.a ≠ Reg.CTX_SEQ c) b u := hu.mono fun _ _ => trivial
    rw [← hv]
    exact hfetch.trans (.of_regs rfl rfl)
  have hall : Frame fetchedCtxsFrom (fun g => offStat c g ∧ g.a ≠ Reg.CTX_SEQ c) b t := by
    have hout : Frame fetchedCtxsFrom (fun g => offStat c g ∧ g.a ≠ Reg.CTX_SEQ c) v (onOutcome c ocMatch none v) := hframe.mono fun _ hg => hg
    rw [ht]
    exact (hset.trans hout).trans (.of_regs rfl rfl)
  have hctxs : t.ctxs = kset {} s.ctxs c (t.ctx c) := hown.last (by rw [ht]; rfl)
  have hlook (g : FldRef) : t.get g = (onOutcome c ocMatch none v).get g := by rw [ht]; rfl
  refine ⟨(hlook _).trans (hst.trans hvs), (hlook _).trans hlast, ?_, ?_, ?_, ?_, ?_, fun a h1 h2 => (hall.rd a ⟨h1, h2⟩).trans (hb.rd a)⟩
  · rw [ht, ctx_setCtx]
  · rw [ht, ctx_setCtx]
  · rw [ht, ctx_setCtx, hctx, ← hv, ctx_setCtx]
  · rw [ht, ctx_setCtx]
  · rw [← hctxs]
    exact hall.rest

end Expect

section Xfer

variable {k : XferW}

/-- A receiver begins with nothing present and no earlier reservation: its context waits (R393). -/
theorem xferStart_waits (hst : s.get (.CTX_STAT_STATE c) = stRunning) (hi : (s.ctx c).inbox = []) (hoff : (s.ctx c).evOff = false)
    (habs : (s.ctx c).evAbs = false) (hresv : (s.ctx c).resv = none) : xferStart c h k (fun c w s => setXfer c w (dropResv c s)) s =
      ctxWait c 2 (.xfer k) (s.setCtx c { s.ctx c with pc := nextPc h (s.ctx c).pc, wait := .xfer k }) := by
  have hbegin : xferStart c h k (fun c w s => setXfer c w (dropResv c s)) s =
      waitOn c (evaluate c (s.setCtx c { s.ctx c with pc := nextPc h (s.ctx c).pc, wait := .xfer k })) := by
    have hdrop : dropResv c (s.setCtx c { s.ctx c with pc := nextPc h (s.ctx c).pc, wait := .xfer k }) =
        s.setCtx c { s.ctx c with pc := nextPc h (s.ctx c).pc, wait := .xfer k } := by
      rw [dropResv, ctx_setCtx]
      dsimp only
      rw [hresv]
    rw [xferStart, State.modCtx]
    dsimp only
    rw [hdrop, setXfer, modCtx_setCtx]
  rw [hbegin]
  generalize hv : s.setCtx c { s.ctx c with pc := nextPc h (s.ctx c).pc, wait := .xfer k } = v
  have hctx : v.ctx c = { s.ctx c with pc := nextPc h (s.ctx c).pc, wait := .xfer k } := by rw [← hv, ctx_setCtx]
  have hstv : v.get (.CTX_STAT_STATE c) = stRunning := by rw [← hv]; exact hst
  have hw : (v.ctx c).wait = .xfer k := by rw [hctx]
  rw [evaluate_xfer_nothing hw (xferNext_nothing (by rw [hctx]; exact hi) (by rw [hctx]; exact hoff) (by rw [hctx]; exact habs)), waitOn_xfer hstv hw]

end Xfer

end Sys2Proof.Machine
end

section
/-! PROOFS. The message instructions as the engine comes to them (R380 to R394): their encodings, a send of what they name, and FLUSH. -/

namespace Sys2Proof.Machine

set_option Elab.async false

section Rows

variable {e : Fin 8}

theorem executes_send : Executes (.send e) 0x10 .always e (fun c h s => h.a == 0 && h.i && h.k / 256 == 0 && hasPartner s c) fun c h _ u =>
    withLiteral c h true (fun w l s => sendMsg c h (plainOn s c (msgOf s c w l) l) s) u := fun _ => rfl

/-- The message of a SENDV, with header words `w`, and the bytes of the array that it needs (R381). -/
def varsMsg (c : Nat) (h : HWord) (w : List Word) (s : State) : Msg :=
  plainOn s c (msgOf s c w ((varBytes s c).drop (4 * h.a))) ((varBytes s c).drop (4 * h.a))
def varsLen (c : Nat) (m : Msg) (s : State) : Nat := if onCan s c && m.frame.rtr && !isFD m.frame.idw && !isXL m.frame.idw then 0 else m.len

def sendVars (c : Nat) (h : HWord) (w : List Word) (s : State) : State :=
  checked c (decide (4 * h.a + varsLen c (varsMsg c h w s) s ≤ 64)) (sendMsg c h (varsMsg c h w s)) s

/-- The header words of a SENDV without a literal (R381). -/
def plainHead (c : Nat) (h : HWord) (s : State) : List Word := [rd s (Reg.CTX_TXID c), wd (h.k / 256 * 2 ^ 20), 0, 0]

theorem executes_sendv : Executes (.sendv e) 0x11 .either e
    (fun c h s => h.i && hasPartner s c && (if h.x then h.k / 256 == 0 else decide (h.k / 256 ≤ 8))) fun c h _ u =>
    if h.x then withLiteral c h false (fun w _ s => sendVars c h w s) u else sendVars c h (plainHead c h u) u := fun _ => rfl

theorem executes_expect : Executes (.expect e) 0x12 .always e (fun c h s => bare h && hasPartner s c && (refOf s c h.e).isSome) fun c h _ u =>
    withWords c ((refOf u c h.e).getD 0) 8 (fun d s => checked c (descOk (cvOf s c).isSome d) (expectStart c h [d] none) s) u := fun _ => rfl

/-- The descriptors of an EXPECTANY, after the word that counts them (R386). -/
def expectAny (c : Nat) (h : HWord) (a : Nat) (n : List Word) (s : State) : State :=
  checked c (1 ≤ (dw n 0).toNat && (dw n 0).toNat ≤ 4) (withWords c ((a + 4) % 2 ^ 32) (8 * (dw n 0).toNat) fun d s =>
    checked c ((groups 8 (dw n 0).toNat d).all (descOk (cvOf s c).isSome)) (expectStart c h (groups 8 (dw n 0).toNat d) (some h.d)) s) s

theorem executes_expectany : Executes (.expectany e) 0x13 .always e
    (fun c h s => noK h && h.a == 0 && hasPartner s c && (refOf s c h.e).isSome) fun c h _ u =>
    withWords c ((refOf u c h.e).getD 0) 1 (expectAny c h ((refOf u c h.e).getD 0)) u := fun _ => rfl

/-- What FLUSH discards of the context's own (R381). -/
def flushOwn (c d : Nat) (s : State) : State :=
  let s1 := if d % 2 = 1 then s.modCtx c (fun x => { x with inbox := [], cur := none }) else s
  if d / 2 % 2 = 1 then s1.modCtx c (fun x => { x with evOff := false, evAbs := false }) else s1

theorem executes_flush : Executes (.flush e) 0x14 .never e (fun c h s => noK h && h.a == 0 && decide (h.d < 8) && hasPartner s c) fun c h _ u =>
    stepOver c h (if h.d / 4 = 1 ∧ onCan u c then xferFlush c (flushOwn c h.d u) else flushOwn c h.d u) := fun _ => rfl

/-- A transmission begins with the message `l` (R391). -/
def xferTxOf (c : Nat) (h : HWord) (d : List Word) (pc : Nat) (l : List Byte) (s : State) : State :=
  xferStart c h { tx := true, at_ := pc, next := nextPc h pc, desc := d, buf := l, total := bits (dw d 5) 15 0 } xferTxStart (retryHere c pc s)

theorem executes_xferTx : Executes (.xferTx e) 0x15 .always e (fun c h s => bare h && onCan s c && (refOf s c h.e).isSome) fun c h _ u =>
    withWords c ((refOf u c h.e).getD 0) 10 (fun d s => checked c (xferOk s c true d) (fun s =>
      if bits (dw d 5) 31 30 = 1 then xferTxOf c h d (s.ctx c).pc ((varBytes s c).take (bits (dw d 5) 15 0)) s
      else withBytes c ((s.get (.CTX_PROG_PROG c) + (dw d 6).toNat) % 2 ^ 32) (bits (dw d 5) 15 0) (xferTxOf c h d (s.ctx c).pc) s) s) u :=
  fun _ => rfl

/-- What a receiver waits for (R393). -/
def receiving (h : HWord) (d : List Word) (pc now_ : Nat) : XferW :=
  { tx := false, at_ := pc, next := nextPc h pc, desc := d, dreg := h.d, phase := 8,
    deadline := if bits (dw d 7) 31 16 = 0 then none else some (now_ + 49152 * bits (dw d 7) 31 16) }

theorem executes_xferRx : Executes (.xferRx e) 0x16 .always e
    (fun c h s => noK h && h.a == 0 && onCan s c && (refOf s c h.e).isSome && ((resQueue s c).map (qVar s)).getD false) fun c h _ u =>
    withWords c ((refOf u c h.e).getD 0) 10 (fun d s => checked c (xferOk s c false d) (fun s =>
      xferStart c h (receiving h d (s.ctx c).pc (clk s)) (fun c w s => setXfer c w (dropResv c s)) s) s) u := fun _ => rfl

end Rows

section Sends

variable {s b u t : State} {c p n : Nat} {h : HWord} {m : Msg}

theorem checked_ok {ok : Bool} {f : State → State} (hok : ok = true) : checked c ok f s = f s := if_pos hok

theorem Begun.checked_bad {ok : Bool} {f : State → State} (hb : Begun s u) (hok : ok = false) :
    checked c ok f u = endRun c ccProgErr (wd (offOf s c (s.ctx c).pc)) u := (if_neg (by rw [hok]; exact Bool.false_ne_true)).trans hb.progErr

theorem Begun.send_bad (hb : Begun s u) (hcan : onCan s c = true) (hbad : msgOk s c m = false ∨ seqPast s c (h.d % 2 == 1) m.len = true) :
    sendMsg c h m u = endRun c ccProgErr (wd (offOf s c (s.ctx c).pc)) u := by
  rw [sendMsg_bad ((hb.congr (onCan · c)).trans hcan)
    (hbad.imp (hb.congr (msgOk · c m)).trans (hb.congr (seqPast · c (h.d % 2 == 1) m.len)).trans), hb.progErr]

section Room

variable (hb : Begun s u) (hcan : onCan s c = true) (hok : msgOk s c m = true) (hpast : seqPast s c (h.d % 2 == 1) m.len = false)
  (hp : p = s.get (.CTX_PARTNER_PORT c))

include hb hcan hok hpast hp

theorem Begun.send_full (hfull : 32 ≤ txLevel s p) : sendMsg c h m u = ctxBlock c 5 .none u := by
  refine sendMsg_full ((hb.congr (onCan · c)).trans hcan) ((hb.congr (msgOk · c m)).trans hok)
    ((hb.congr (seqPast · c (h.d % 2 == 1) m.len)).trans hpast) ?_
  rwa [hb.get, ← hp, hb.congr (txLevel · p)]

theorem Begun.send_sent (hroom : txLevel s p < 32) : sendMsg c h m u = sentBy c h m u := by
  refine sendMsg_sent ((hb.congr (onCan · c)).trans hcan) ((hb.congr (msgOk · c m)).trans hok)
    ((hb.congr (seqPast · c (h.d % 2 == 1) m.len)).trans hpast) ?_
  rwa [hb.get, ← hp, hb.congr (txLevel · p)]

end Room

/-- What a send to a CAN port leaves. -/
theorem sent_spec (hb : Begun s b) (hu : Frame cacheFrom anyField b u) (hrun : s.get (.CTX_STAT_STATE c) = stRunning)
    (hp : p = s.get (.CTX_PARTNER_PORT c)) (hn : nextPc h (s.ctx c).pc = n) (ht : t = sentBy c h m u) : sentOn s t c p n h m = true ∧
      (s.is (.CAN_SLEEP_WAKE_ON_TX p) = false →
        t = { b with regs := t.regs, ctxs := kset {} s.ctxs c (t.ctx c), cans := t.cans, engs := t.engs, hcache := t.hcache } ∧
        ∀ a, a ≠ Reg.CTX_STAT c → a ≠ Reg.CTX_SEQ c → rd t a = rd s a) := by
  have hbu : Begun s u := hb.fetched hu
  subst ht hn
  refine ⟨sentBy_sentOn hbu hrun hp, fun hw => ?_⟩
  have hstay : Frame messageFrom (offSend c) u (sentBy c h m u) := sentBy_frame (by rw [hbu.get, ← hp, State.is, hbu.get]; exact hw)
  have hfetch : Frame messageFrom (offSend c) b u := hu.mono fun _ _ => trivial
  have hall : Frame messageFrom (offSend c) b (sentBy c h m u) := hfetch.trans hstay
  refine ⟨?_, fun a h1 h2 => (hall.rd a ⟨h1, h2⟩).trans (hb.rd a)⟩
  rw [← hbu.ctxs, ← sentBy_ctxs]
  exact hall.rest

section Spi

variable (hb : Begun s u) (hkind : s.get (.CTX_PARTNER_KIND c) = 2)

include hb hkind

theorem Begun.send_nofault (hbad : s2Refuses s m.len = true) (hlo : 8 ≤ h.d) (hhi : h.d < 16) :
    sendMsg c h m u = u.setCtx c { s.ctx c with pc := nextPc h (s.ctx c).pc, ff := true } := by
  rw [sendMsg_nofault ((hb.get _).trans hkind) ((hb.congr (s2Refuses · m.len)).trans hbad) (by omega), setF_eq, stepOver_setCtx, hb.ctx]

theorem Begun.send_refused (hbad : s2Refuses s m.len = true) (hd : h.d < 8) :
    sendMsg c h m u = endRun c ccRefused (wd (offOf s c (s.ctx c).pc)) u := by
  rw [sendMsg_refused ((hb.get _).trans hkind) ((hb.congr (s2Refuses · m.len)).trans hbad) hd, hb.ctx, hb.congr (offOf · c (s.ctx c).pc)]

variable (hok : s2Refuses s m.len = false) (hpast : seqPast s c (h.d % 2 == 1) m.len = false)

include hok hpast

theorem Begun.send_busy (hx : s.sp2.xfer.isSome = true) : sendMsg c h m u = ctxBlock c 7 .none u :=
  sendMsg_busy ((hb.get _).trans hkind) ((hb.congr (s2Refuses · m.len)).trans hok) ((hb.congr (seqPast · c (h.d % 2 == 1) m.len)).trans hpast)
    ((hb.congr (·.sp2.xfer.isSome)).trans hx)

theorem Begun.send_spi (hx : s.sp2.xfer = none) : sendMsg c h m u = spiBy c h m u :=
  sendMsg_spi ((hb.get _).trans hkind) ((hb.congr (s2Refuses · m.len)).trans hok) ((hb.congr (seqPast · c (h.d % 2 == 1) m.len)).trans hpast)
    ((hb.congr (·.sp2.xfer)).trans hx)

end Spi

end Sends

section Named

variable {s b : State} {e : Fin 8} {c a : Nat} {w x : Word} {h : HWord} {l d : List Word}

theorem hasPartner_can (hcan : onCan s c = true) : hasPartner s c = true := by
  unfold hasPartner
  rw [show (s.get (.CTX_PARTNER_KIND c) == 1) = true from hcan, Bool.true_or]

theorem hasPartner_spi (hkind : s.get (.CTX_PARTNER_KIND c) = 2) : hasPartner s c = true := by
  unfold hasPartner
  rw [hkind]
  rfl

theorem plainOn_can {m : Msg} {l : List Byte} (hcan : onCan s c = true) : plainOn s c m l = m := if_pos hcan

/-- The state in which the literal of a SEND has been read. -/
def literalRead (a : Nat) (l : List Word) (b : State) : State :=
  touchLines ((a + 16) % 2 ^ 32) ((bits (dw l 1) 31 20 + 3) / 4) (touchLines a 4 b)

theorem literalRead_frame (a : Nat) (l : List Word) (b : State) : Frame cacheFrom anyField b (literalRead a l b) := (touched ..).trans (touched ..)

/-- A SEND with a valid literal (R380, R381). -/
theorem exec_send (hat : atWords s e c 0x10 w x = true) (hh : h = fieldsOf w x) (hbx : b = begunX e c 0x10 s) (ha : h.a = 0) (hi : h.i = true)
    (hk : h.k / 256 = 0) (hpart : hasPartner s c = true) (hr : refOf s c h.e = some a) (hl : fetchWords b c a 4 = .ok l) (hok : headOk l = true)
    (hd : fetchWords (touchLines a 4 b) c ((a + 16) % 2 ^ 32) ((bits (dw l 1) 31 20 + 3) / 4) = .ok d) : exec (.send e) s =
      .next (sendMsg c h (plainOn s c (msgOf s c l (wordsBytes d)) (wordsBytes d)) (literalRead a l b)) := by
  subst hbx
  have hb : Begun s (begunX e c 0x10 s) := begun_begunX
  have hu : Begun s (literalRead a l (begunX e c 0x10 s)) := hb.fetched (literalRead_frame ..)
  rw [executes_send.rightExt rfl hat hh (by rw [hb.congr (hasPartner · c), hpart]; simp [ha, hi, hk]),
    withLiteral_data ((hb.congr (refOf · c h.e)).trans hr) hl hok hd]
  exact congrArg (fun m => Host.Outcome.next (sendMsg c h m (literalRead a l (begunX e c 0x10 s))))
    (hu.congr fun v => plainOn v c (msgOf v c l (wordsBytes d)) (wordsBytes d))

variable {u : State}

theorem Begun.sendVars_fits (hb : Begun s u) (hlen : 4 * h.a + varsLen c (varsMsg c h l s) s ≤ 64) :
    sendVars c h l u = sendMsg c h (varsMsg c h l s) u := by
  have hm : varsMsg c h l u = varsMsg c h l s := hb.congr (varsMsg c h l)
  rw [sendVars, hm, hb.congr (varsLen c (varsMsg c h l s)), checked_ok (decide_eq_true hlen)]

theorem Begun.sendVars_past (hb : Begun s u) (hlen : 64 < 4 * h.a + varsLen c (varsMsg c h l s) s) :
    sendVars c h l u = endRun c ccProgErr (wd (offOf s c (s.ctx c).pc)) u := by
  have hm : varsMsg c h l u = varsMsg c h l s := hb.congr (varsMsg c h l)
  rw [sendVars, hm, hb.congr (varsLen c (varsMsg c h l s)), hb.checked_bad (decide_eq_false (by omega))]

/-- A SENDV of the array's bytes (R381). -/
theorem exec_sendv (hat : atWord s e c 0x11 w = true) (hh : h = fieldsOf w 0#32) (hi : h.i = true) (hk : h.k / 256 ≤ 8)
    (hpart : hasPartner s c = true) : exec (.sendv e) s = .next (sendVars c h (plainHead c h s) (begun e c 0x11 s)) := by
  have hb : Begun s (begun e c 0x11 s) := begun_begun
  have hx := x_of_atWord hat hh
  rw [executes_sendv.right rfl hat hh (by rw [hb.congr (hasPartner · c), hpart, hx]; simp [hi, hk]), if_neg (by rw [hx]; exact Bool.false_ne_true),
    hb.congr (plainHead c h)]

theorem exec_sendv_ext (hat : atWords s e c 0x11 w x = true) (hh : h = fieldsOf w x) (hbx : b = begunX e c 0x11 s) (hi : h.i = true)
    (hk : h.k / 256 = 0) (hpart : hasPartner s c = true) (hr : refOf s c h.e = some a) (hl : fetchWords b c a 4 = .ok l) (hok : headOk l = true) :
    exec (.sendv e) s = .next (sendVars c h l (touchLines a 4 b)) := by
  subst hbx
  have hb : Begun s (begunX e c 0x11 s) := begun_begunX
  have hx := x_of_atWords hat hh
  rw [executes_sendv.rightExt rfl hat hh (by rw [hb.congr (hasPartner · c), hpart, hx]; simp [hi, hk]), if_pos hx,
    withLiteral_head ((hb.congr (refOf · c h.e)).trans hr) hl hok]

/-- A SENDV on CAN with a remote frame needs no bytes of the array, another needs LEN of them. -/
theorem varsMsg_can (hcan : onCan s c = true) : varsMsg c h l s = msgOf s c l ((varBytes s c).drop (4 * h.a)) := plainOn_can hcan

theorem varsLen_data {m : Msg} (h : onCan s c = false ∨ m.frame.rtr = false) : varsLen c m s = m.len := by
  refine if_neg ?_
  rcases h with h | h
  · simp [h]
  · simp [h]

theorem varsLen_can {m : Msg} (hcan : onCan s c = true) :
    varsLen c m s = if m.frame.rtr && !isFD m.frame.idw && !isXL m.frame.idw then 0 else m.len := by rw [varsLen, hcan, Bool.true_and]

/-- Without a literal the frame is no remote frame (R381). -/
theorem rtr_plainHead (v : List Byte) (hk : h.k / 256 ≤ 8) : (msgOf s c (plainHead c h s) v).frame.rtr = false := by
  show bitAt (wd (h.k / 256 * 2 ^ 20)) 15 = false
  generalize h.k / 256 = n at hk
  interval_cases n <;> decide

end Named

section Flush

variable {s b u t : State} {c d p : Nat} {h : HWord}

/-- The context's record after FLUSH. -/
def flushedCtx (d : Nat) (x : CtxSt) : CtxSt :=
  { x with
    inbox := if d % 2 = 1 then [] else x.inbox, cur := if d % 2 = 1 then none else x.cur, evOff := decide (d / 2 % 2 = 0) && x.evOff,
    evAbs := decide (d / 2 % 2 = 0) && x.evAbs }

theorem ctx_flushOwn (c d : Nat) (s : State) : (flushOwn c d s).ctx c = flushedCtx d (s.ctx c) := by
  unfold flushOwn flushedCtx
  dsimp only
  by_cases hev : d / 2 % 2 = 1
  · rw [if_pos hev, ctx_modCtx, decide_eq_false (by omega : ¬ d / 2 % 2 = 0), Bool.false_and, Bool.false_and]
    split
    · rw [ctx_modCtx]
    · rfl
  · rw [if_neg hev, decide_eq_true (by omega : d / 2 % 2 = 0), Bool.true_and, Bool.true_and]
    split
    · rw [ctx_modCtx]
    · rfl

/-- `s` with the contexts of `t`. -/
def recordsFrom (s t : State) : State := { s with ctxs := t.ctxs }

theorem modCtx_records (s : State) (c : Nat) (F : CtxSt → CtxSt) : Frame recordsFrom anyField s (s.modCtx c F) := .of_regs rfl rfl

theorem flushOwn_frame (c d : Nat) (s : State) : Frame recordsFrom anyField s (flushOwn c d s) := by
  have hfirst : Frame recordsFrom anyField s (if d % 2 = 1 then s.modCtx c (fun x => { x with inbox := [], cur := none }) else s) :=
    .ite (fun _ => modCtx_records ..) fun _ => .refl s
  exact .ite (fun _ => hfirst.trans (modCtx_records ..)) fun _ => hfirst

theorem flushOwn_own (c d : Nat) (s : State) : Own c s (flushOwn c d s) := by
  unfold flushOwn
  dsimp only
  split
  · split
    · exact (Own.modCtx _ s).trans (.modCtx _ _)
    · exact .modCtx _ s
  · split
    · exact .modCtx _ s
    · exact .of_ctxs rfl

/-- FLUSH of the context's own alone. -/
theorem flushed_spec (hb : Begun s b) (ht : t = stepOver c h (flushOwn c h.d b)) :
    t.ctx c = { flushedCtx h.d (s.ctx c) with pc := nextPc h (s.ctx c).pc } ∧ t = { b with ctxs := kset {} s.ctxs c (t.ctx c) } := by
  have hown : Own c s (flushOwn c h.d b) := (Own.of_ctxs hb.ctxs).trans (flushOwn_own c h.d b)
  have hframe : Frame recordsFrom anyField b t := by
    rw [ht]
    exact (flushOwn_frame c h.d b).trans (.of_regs rfl rfl)
  have hctxs : t.ctxs = kset {} s.ctxs c (t.ctx c) := hown.last (by rw [ht, ctxs_stepOver])
  refine ⟨?_, ?_⟩
  · rw [ht, ctx_stepOver, ctx_flushOwn, hb.ctx]
    rfl
  · rw [← hctxs]
    exact hframe.rest

variable {x : TxEnt} {why : Nat}

/-- An abandoned entry of the context changes neither its inbox nor where it is (R381, R394). -/
theorem ctx_txAbandon (hsrc : x.src = .hoist c) :
    ((txAbandon p why x s).ctx c).inbox = (s.ctx c).inbox ∧ ((txAbandon p why x s).ctx c).pc = (s.ctx c).pc := by
  unfold txAbandon
  extract_lets s1 s2
  have h2 : s2.ctxs = s.ctxs := by
    have h1 : s1.ctxs = s.ctxs := rfl
    unfold s2
    split
    · unfold alonePut
      split
      · rw [State.set1_ctxs, State.addSat_ctxs, h1]
      · rw [State.addSat_ctxs, h1]
    · rw [aloneRestart, State.put_ctxs, State.put_ctxs, h1]
  have hrec : (entRecord p 0x02 why x (x.sof.getD (now s)) s2).ctx c = s.ctx c := by
    rw [State.ctx, entRecord, (canRecord_frame ..).unchanged State.ctxs, h2, ← State.ctx]
  generalize entRecord p 0x02 why x (x.sof.getD (now s)) s2 = v at hrec
  unfold txOutcome
  rw [hsrc]
  dsimp only
  split
  · rw [ctx_ctxResume, ctx_modCtx, hrec]
    exact ⟨rfl, rfl⟩
  · rw [hrec]
    exact ⟨rfl, rfl⟩

theorem ctx_xferFlush (c : Nat) (s : State) : ((xferFlush c s).ctx c).inbox = (s.ctx c).inbox ∧ ((xferFlush c s).ctx c).pc = (s.ctx c).pc := by
  refine each_ind (fun t => (t.ctx c).inbox = (s.ctx c).inbox ∧ (t.ctx c).pc = (s.ctx c).pc) _ _ s ⟨rfl, rfl⟩ fun x hx t ht => ?_
  have hsrc : x.src = .hoist c := by
    simp only [List.mem_filter, Bool.and_eq_true, decide_eq_true_eq] at hx
    exact hx.2.1
  obtain ⟨hinbox, hpc⟩ := ctx_txAbandon (p := s.get (.CTX_PARTNER_PORT c)) (why := 5) (s := t) hsrc
  exact ⟨hinbox.trans ht.1, hpc.trans ht.2⟩

/-- The entries that a FLUSH of transfer frames leaves (R381, R394). -/
theorem mem_txq_xferFlush {y : TxEnt} (hp : s.get (.CTX_PARTNER_PORT c) = p) : y ∈ ((xferFlush c s).can p).txq ↔ y ∈ (s.can p).txq ∧
    ∀ x ∈ (s.can p).txq, x.src = .hoist c → (s.can p).att ≠ some x.id → y.id ≠ x.id := by
  rw [xferFlush, txFlushIdle, hp, mem_txq_abandoned]
  simp only [List.mem_filter, Bool.and_eq_true, decide_eq_true_eq, and_imp]

/-- The entries of a queue have numbers of their own. -/
theorem eq_of_id {q : List TxEnt} (hq : q.Pairwise fun x y => x.id ≠ y.id) {y : TxEnt} (hx : x ∈ q) (hy : y ∈ q) (hid : y.id = x.id) : y = x :=
  List.inj_on_of_nodup_map (f := TxEnt.id) (List.pairwise_map.mpr hq) hy hx hid

/-- FLUSH with the frames of transfers. -/
theorem flushedQueue_spec (hb : Begun s b) (hp : p = s.get (.CTX_PARTNER_PORT c)) (hq : (s.can p).txq.Pairwise fun x y => x.id ≠ y.id)
    (ht : t = stepOver c h (xferFlush c (flushOwn c h.d b))) : (∀ y ∈ (t.can p).txq, y.src = .hoist c → (s.can p).att = some y.id) ∧
      (∀ y ∈ (s.can p).txq, y.src ≠ .hoist c ∨ (s.can p).att = some y.id → y ∈ (t.can p).txq) ∧
      (t.ctx c).inbox = (if h.d % 2 = 1 then [] else (s.ctx c).inbox) ∧ (t.ctx c).pc = nextPc h (s.ctx c).pc := by
  have hf := flushOwn_frame c h.d b
  have hport : (flushOwn c h.d b).get (.CTX_PARTNER_PORT c) = p := by rw [hf.get _ trivial, hb.get, hp]
  have hcan : (flushOwn c h.d b).can p = s.can p := (hf.unchanged (State.can · p)).trans (hb.congr (State.can · p))
  have hmem (y : TxEnt) : y ∈ (t.can p).txq ↔ y ∈ (s.can p).txq ∧
      ∀ x ∈ (s.can p).txq, x.src = .hoist c → (s.can p).att ≠ some x.id → y.id ≠ x.id := by
    rw [ht, show (stepOver c h (xferFlush c (flushOwn c h.d b))).can p = (xferFlush c (flushOwn c h.d b)).can p from rfl, mem_txq_xferFlush hport, hcan]
  obtain ⟨hinbox, hpc⟩ := ctx_xferFlush c (flushOwn c h.d b)
  have hctx : (flushOwn c h.d b).ctx c = flushedCtx h.d (s.ctx c) := by rw [ctx_flushOwn, hb.ctx]
  refine ⟨fun y hy hsrc => ?_, fun y hy hkeep => ?_, ?_, ?_⟩
  · obtain ⟨hy, hgone⟩ := (hmem y).mp hy
    by_contra hatt
    exact hgone y hy hsrc hatt rfl
  · refine (hmem y).mpr ⟨hy, fun x hx hsrc hatt hid => ?_⟩
    obtain rfl := eq_of_id hq hx hy hid
    exact hkeep.elim (fun hne => hne hsrc) hatt
  · rw [ht, ctx_stepOver, hinbox, hctx]
    rfl
  · rw [ht, ctx_stepOver, hpc, hctx]
    rfl

end Flush

end Sys2Proof.Machine
end

section
/-! PROOFS. The message instructions with what they name read (R381, R384, R386, R389), and their statement. -/

namespace Sys2Proof.Machine

set_option Elab.async false

section Exec

variable {s b u t : State} {e : Fin 8} {c a k n : Nat} {w x : Word} {h : HWord} {l d : List Word} {m : Msg} {y : CtxSt}

/-- A message instruction that changes its context's record alone. -/
theorem fetched_setCtx (hb : Begun s b) (hu : Frame cacheFrom anyField b u) (ht : t = u.setCtx c y) :
    t.ctx c = y ∧ t = { b with ctxs := kset {} s.ctxs c (t.ctx c), hcache := t.hcache } := by
  obtain ⟨hctx, hrest⟩ := setCtx_spec (hb.fetched hu) ht
  refine ⟨hctx, hrest.trans ?_⟩
  have hcache : t.hcache = u.hcache := by rw [ht, State.setCtx]
  rw [hcache, hu.rest, cacheFrom]

section Sendv

variable (hat : atWord s e c 0x11 w = true) (hh : h = fieldsOf w 0#32) (hi : h.i = true) (hk : h.k / 256 ≤ 8)

include hat hh hi hk

/-- A SENDV to a CAN port, of bytes that the array holds. -/
theorem exec_sendv_can (hcan : onCan s c = true) (hm : m = msgOf s c (plainHead c h s) ((varBytes s c).drop (4 * h.a))) (hlen : 4 * h.a + m.len ≤ 64) :
    exec (.sendv e) s = .next (sendMsg c h m (begun e c 0x11 s)) := by
  have hb : Begun s (begun e c 0x11 s) := begun_begun
  have hv : varsMsg c h (plainHead c h s) s = m := (varsMsg_can hcan).trans hm.symm
  have hdata : m.frame.rtr = false := hm ▸ rtr_plainHead _ hk
  rw [exec_sendv hat hh hi hk (hasPartner_can hcan), hb.sendVars_fits (by rw [hv, varsLen_data (.inr hdata)]; exact hlen), hv]

/-- A SENDV on S2, of bytes that the array holds. -/
theorem exec_sendv_spi (hkind : s.get (.CTX_PARTNER_KIND c) = 2) (hm : m = varsMsg c h (plainHead c h s) s) (hlen : 4 * h.a + m.len ≤ 64) :
    exec (.sendv e) s = .next (sendMsg c h m (begun e c 0x11 s)) := by
  have hb : Begun s (begun e c 0x11 s) := begun_begun
  rw [exec_sendv hat hh hi hk (hasPartner_spi hkind), hb.sendVars_fits (by rw [← hm, varsLen_data (.inl (offCan hkind))]; exact hlen), ← hm]

end Sendv

/-- The number of an inserting send fits the bytes of LEN (R382). -/
theorem seqPast_fits (hn : s.get (.CTX_SEQCFG_TXPOS c) + (txw s c + 7) / 8 ≤ m.len) (nq : Bool) : seqPast s c nq m.len = false := by
  unfold seqPast
  rw [decide_eq_false (by omega), Bool.and_false]

/-- An EXPECT with its descriptor read (R384). -/
theorem exec_expect (hat : atWords s e c 0x12 w x = true) (hh : h = fieldsOf w x) (hbx : b = begunX e c 0x12 s) (hbare : bare h = true)
    (hpart : hasPartner s c = true) (hr : refOf s c h.e = some a) (hd : fetchWords b c a 8 = .ok d) : exec (.expect e) s =
      .next (checked c (descOk (cvOf s c).isSome d) (expectStart c h [d] none) (touchLines a 8 b)) := by
  subst hbx
  have hb : Begun s (begunX e c 0x12 s) := begun_begunX
  have hrb : refOf (begunX e c 0x12 s) c h.e = some a := (hb.congr (refOf · c h.e)).trans hr
  rw [executes_expect.rightExt rfl hat hh (by rw [hb.congr (hasPartner · c), hpart, hbare, hrb]; rfl), hrb, Option.getD_some, withWords_ok hd,
    (hb.fetched (touched a 8 _)).congr (cvOf · c)]

/-- An EXPECTANY with the word that counts its descriptors read (R386). -/
theorem exec_expectany (hat : atWords s e c 0x13 w x = true) (hh : h = fieldsOf w x) (hbx : b = begunX e c 0x13 s) (hk : noK h = true) (ha : h.a = 0)
    (hpart : hasPartner s c = true) (hr : refOf s c h.e = some a) (hd : fetchWords b c a 1 = .ok d) : exec (.expectany e) s =
      .next (expectAny c h a d (touchLines a 1 b)) := by
  subst hbx
  have hb : Begun s (begunX e c 0x13 s) := begun_begunX
  have hrb : refOf (begunX e c 0x13 s) c h.e = some a := (hb.congr (refOf · c h.e)).trans hr
  rw [executes_expectany.rightExt rfl hat hh (by rw [hb.congr (hasPartner · c), hpart, hk, ha, hrb]; rfl), hrb, Option.getD_some, withWords_ok hd]

/-- One to four valid descriptors. -/
theorem Begun.expectAny_starts {v : Word} (hb : Begun s u) (hlo : 1 ≤ v.toNat) (hhi : v.toNat ≤ 4)
    (hd : fetchWords u c ((a + 4) % 2 ^ 32) (8 * v.toNat) = .ok d) (hok : (groups 8 v.toNat d).all (descOk (cvOf s c).isSome) = true) :
    expectAny c h a [v] u = expectStart c h (groups 8 v.toNat d) (some h.d) (touchLines ((a + 4) % 2 ^ 32) (8 * v.toNat) u) := by
  have hone : dw [v] 0 = v := rfl
  rw [expectAny, hone, checked_ok (by simp [hlo, hhi]), withWords_ok hd, checked_ok]
  rw [(hb.fetched (touched ((a + 4) % 2 ^ 32) (8 * v.toNat) u)).congr (cvOf · c), hok]

theorem Begun.expectAny_miscounted {v : Word} (hb : Begun s u) (hbad : v.toNat = 0 ∨ 4 < v.toNat) :
    expectAny c h a [v] u = endRun c ccProgErr (wd (offOf s c (s.ctx c).pc)) u := by
  have hone : dw [v] 0 = v := rfl
  rw [expectAny, hone, hb.checked_bad]
  rw [Bool.and_eq_false_iff, decide_eq_false_iff_not, decide_eq_false_iff_not]
  omega

/-- The first of some descriptors. -/
theorem dw_groups (hn : 1 ≤ n) {i : Nat} (hi : i < 8) (d : List Word) : dw ((groups 8 n d).getD 0 []) i = dw d i := by
  obtain ⟨k, rfl⟩ : ∃ k, n = k + 1 := ⟨n - 1, by omega⟩
  simp [groups, dw, List.getD_eq_getElem?_getD, hi]

/-- An EXPECT or EXPECTANY, its words read, whose context waits for what may come (R349). -/
theorem expecting_spec {ds : List (List Word)} {dreg : Option Nat} (hb : Begun s b) (hu : Frame cacheFrom anyField b u)
    (hrun : s.get (.CTX_STAT_STATE c) = stRunning) (hms : bits (dw (ds.getD 0 []) 4) 31 16 = 0) (hti : bits (dw (ds.getD 0 []) 4) 1 0 = 0)
    (hi : (s.ctx c).inbox = []) (hoff : (s.ctx c).evOff = false) (habs : (s.ctx c).evAbs = false) (ht : t = expectStart c h ds dreg u) :
    t.get (.CTX_STAT_STATE c) = stWaiting ∧ t.get (.CTX_STAT_WAIT_ON c) = 2 ∧ (t.ctx c).pc = nextPc h (s.ctx c).pc ∧
      ((∀ p ∈ b.engs, p.1 = k → p.2.ctx = some c) → (t.eng k).ctx = none) ∧
      t = { b with regs := t.regs, ctxs := kset {} s.ctxs c (t.ctx c), engs := t.engs, hcache := t.hcache } ∧
      ∀ a, a ≠ Reg.CTX_STAT c → rd t a = rd s a := by
  have hbu : Begun s u := hb.fetched hu
  rw [expectStart_waits ((hbu.get _).trans hrun) hms hti (by rw [hbu.ctx]; exact hi) (by rw [hbu.ctx]; exact hoff) (by rw [hbu.ctx]; exact habs)] at ht
  obtain ⟨hst, hon, hctx, hrest, hrd⟩ := fetched_waits (by decide) hb hu ht
  refine ⟨hst, hon, ?_, fun heng => ?_, hrest, hrd⟩
  · rw [hctx, expectingCtx, hbu.ctx]
  · rw [ht]
    refine eng_ctxWait ?_
    rw [State.setCtx, hu.unchanged State.engs]
    exact heng

/-- A transfer instruction with its descriptor read (R389). -/
theorem exec_xferTx (hat : atWords s e c 0x15 w x = true) (hh : h = fieldsOf w x) (hbx : b = begunX e c 0x15 s) (hbare : bare h = true)
    (hcan : onCan s c = true) (hr : refOf s c h.e = some a) (hd : fetchWords b c a 10 = .ok d) (hok : xferOk s c true d = true) : exec (.xferTx e) s =
      .next (if bits (dw d 5) 31 30 = 1 then xferTxOf c h d (s.ctx c).pc ((varBytes s c).take (bits (dw d 5) 15 0)) (touchLines a 10 b)
        else withBytes c ((s.get (.CTX_PROG_PROG c) + (dw d 6).toNat) % 2 ^ 32) (bits (dw d 5) 15 0) (xferTxOf c h d (s.ctx c).pc) (touchLines a 10 b)) := by
  subst hbx
  have hb : Begun s (begunX e c 0x15 s) := begun_begunX
  have hu : Begun s (touchLines a 10 (begunX e c 0x15 s)) := hb.fetched (touched ..)
  have hrb : refOf (begunX e c 0x15 s) c h.e = some a := (hb.congr (refOf · c h.e)).trans hr
  rw [executes_xferTx.rightExt rfl hat hh (by rw [hb.congr (onCan · c), hcan, hbare, hrb]; rfl), hrb, Option.getD_some, withWords_ok hd,
    checked_ok ((hu.congr (xferOk · c true d)).trans hok), hu.ctx, hu.get, hu.congr (varBytes · c)]

theorem exec_xferTx_bad (hat : atWords s e c 0x15 w x = true) (hh : h = fieldsOf w x) (hbx : b = begunX e c 0x15 s) (hbare : bare h = true)
    (hcan : onCan s c = true) (hr : refOf s c h.e = some a) (hd : fetchWords b c a 10 = .ok d) (hok : xferOk s c true d = false) : exec (.xferTx e) s =
      .next (endRun c ccProgErr (wd (offOf s c (s.ctx c).pc)) (touchLines a 10 b)) := by
  subst hbx
  have hb : Begun s (begunX e c 0x15 s) := begun_begunX
  have hu : Begun s (touchLines a 10 (begunX e c 0x15 s)) := hb.fetched (touched ..)
  have hrb : refOf (begunX e c 0x15 s) c h.e = some a := (hb.congr (refOf · c h.e)).trans hr
  rw [executes_xferTx.rightExt rfl hat hh (by rw [hb.congr (onCan · c), hcan, hbare, hrb]; rfl), hrb, Option.getD_some, withWords_ok hd,
    hu.checked_bad ((hu.congr (xferOk · c true d)).trans hok)]

theorem exec_xferRx {q : Nat} (hat : atWords s e c 0x16 w x = true) (hh : h = fieldsOf w x) (hbx : b = begunX e c 0x16 s) (hk : noK h = true)
    (ha : h.a = 0) (hcan : onCan s c = true) (hr : refOf s c h.e = some a) (hq : resQueue s c = some q) (hvar : qVar s q = true)
    (hd : fetchWords b c a 10 = .ok d) (hok : xferOk s c false d = true) : exec (.xferRx e) s = .next (xferStart c h
      (receiving h d (s.ctx c).pc (clk s)) (fun c w s => setXfer c w (dropResv c s)) (touchLines a 10 b)) := by
  subst hbx
  have hb : Begun s (begunX e c 0x16 s) := begun_begunX
  have hu : Begun s (touchLines a 10 (begunX e c 0x16 s)) := hb.fetched (touched ..)
  have hrb : refOf (begunX e c 0x16 s) c h.e = some a := (hb.congr (refOf · c h.e)).trans hr
  have hqb : ((resQueue (begunX e c 0x16 s) c).map (qVar (begunX e c 0x16 s))).getD false = true := by
    rw [hb.congr fun v => ((resQueue v c).map (qVar v)).getD false, hq, Option.map_some, Option.getD_some, hvar]
  rw [executes_xferRx.rightExt rfl hat hh (by rw [hb.congr (onCan · c), hcan, hk, ha, hrb, hqb]; rfl), hrb, Option.getD_some, withWords_ok hd,
    checked_ok ((hu.congr (xferOk · c false d)).trans hok), hu.ctx, hu.congr clk]

end Exec

end Sys2Proof.Machine
end

section
/-! PROOFS. The message instructions (R380 to R394): their statement. -/

namespace Sys2Proof.Machine

set_option Elab.async false

/-- Settles O46, by what is read for each instruction and what its effect leaves of the state in which it has it. -/
theorem messageInstructions : Obligations.MessageInstructions := by
  unfold Obligations.MessageInstructions
  refine ⟨?send, ?sendFull, ?sendBad, ?sendSpi, ?sendBusy, ?sendNofault, ?sendRefused, ?sendHead, ?sendWrong, ?sendNoExt, ?vars, ?varsNumber, ?varsBad,
    ?varsFull, ?varsSpi, ?varsNofault, ?varsRefused, ?varsWrong, ?varsX, ?varsXSpi, ?varsXWrong, ?expect, ?expectWaits, ?expectMatch, ?expectBad,
    ?expectWrong, ?expectNoExt, ?any, ?anyWaits, ?anyCount, ?anyWrong, ?anyNoExt, ?flush, ?flushQueue, ?flushWrong, ?flushExt, ?txVars, ?txLiteral,
    ?txBad, ?txWrong, ?txNoExt, ?rx, ?rxWaits, ?rxWrong, ?rxNoExt⟩
  case send =>
    intro s e c w x h b a l d p m hat hh hbx ha hi hk hr hl hok hd hp hm hcan hmsg hpast hroom
    subst hbx
    have hb : Begun s (begunX e c 0x10 s) := begun_begunX
    have hrun := (running_of_runningOn (runningOn_of_atWords hat)).2
    refine ⟨_, exec_send hat hh rfl ha hi hk (hasPartner_can hcan) hr hl hok hd, ?_⟩
    refine sent_spec hb (literalRead_frame a l _) hrun hp (nextPc_ext (x_of_atWords hat hh) _) ?_
    rw [plainOn_can hcan, ← hm, (hb.fetched (literalRead_frame a l _)).send_sent hcan hmsg hpast hp hroom]
  case sendFull =>
    intro s e c w x h b a l d p m hat hh hbx ha hi hk hr hl hok hd hp hm hcan hmsg hpast hfull
    subst hbx
    have hb : Begun s (begunX e c 0x10 s) := begun_begunX
    refine ⟨_, exec_send hat hh rfl ha hi hk (hasPartner_can hcan) hr hl hok hd, fetched_blocks (by decide) hb (literalRead_frame a l _) ?_⟩
    rw [plainOn_can hcan, ← hm, (hb.fetched (literalRead_frame a l _)).send_full hcan hmsg hpast hp hfull]
  case sendBad =>
    intro s e c w x h b a l d m hat hh hbx ha hi hk hr hl hok hd hm hcan hbad
    subst hbx
    have hb : Begun s (begunX e c 0x10 s) := begun_begunX
    rw [exec_send hat hh rfl ha hi hk (hasPartner_can hcan) hr hl hok hd, plainOn_can hcan, ← hm,
      (hb.fetched (literalRead_frame a l _)).send_bad hcan hbad, literalRead]
  case sendSpi =>
    intro s e c w x h b a l d m hat hh hbx ha hi hk hr hl hok hd hm hkind hfits hpast hfree
    subst hbx
    have hu : Begun s (literalRead a l (begunX e c 0x10 s)) := begun_begunX.fetched (literalRead_frame ..)
    refine ⟨_, exec_send hat hh rfl ha hi hk (hasPartner_spi hkind) hr hl hok hd, ?_⟩
    rw [← nextPc_ext (x_of_atWords hat hh)]
    exact spiBy_spec hu (by rw [← hm, hu.send_spi hkind hfits hpast hfree])
  case sendBusy =>
    intro s e c w x h b a l d m hat hh hbx ha hi hk hr hl hok hd hm hkind hfits hpast hbusy
    subst hbx
    have hb : Begun s (begunX e c 0x10 s) := begun_begunX
    refine ⟨_, exec_send hat hh rfl ha hi hk (hasPartner_spi hkind) hr hl hok hd, fetched_blocks (by decide) hb (literalRead_frame a l _) ?_⟩
    rw [← hm, (hb.fetched (literalRead_frame a l _)).send_busy hkind hfits hpast hbusy]
  case sendNofault =>
    intro s e c w x h b a l d m hat hh hbx ha hi hk hr hl hok hd hm hkind hbad hnf
    subst hbx
    have hb : Begun s (begunX e c 0x10 s) := begun_begunX
    refine ⟨_, exec_send hat hh rfl ha hi hk (hasPartner_spi hkind) hr hl hok hd, fetched_setCtx hb (literalRead_frame a l _) ?_⟩
    rw [← hm, (hb.fetched (literalRead_frame a l _)).send_nofault hkind hbad hnf (hh ▸ d_lt w x), nextPc_ext (x_of_atWords hat hh)]
  case sendRefused =>
    intro s e c w x h b a l d m hat hh hbx ha hi hk hr hl hok hd hm hkind hbad hnf
    subst hbx
    have hb : Begun s (begunX e c 0x10 s) := begun_begunX
    rw [exec_send hat hh rfl ha hi hk (hasPartner_spi hkind) hr hl hok hd, ← hm,
      (hb.fetched (literalRead_frame a l _)).send_refused hkind hbad hnf, literalRead]
  case sendHead =>
    intro s e c w x h b a l hat hh hbx ha hi hk hpart hr hl hok
    subst hbx
    have hb : Begun s (begunX e c 0x10 s) := begun_begunX
    rw [executes_send.rightExt rfl hat hh (by rw [hb.congr (hasPartner · c), hpart]; simp [ha, hi, hk]),
      withLiteral_bad ((hb.congr (refOf · c h.e)).trans hr) hl hok, (hb.fetched (touched a 4 _)).progErr]
  case sendWrong =>
    intro s e c w x h hat hh hbad
    have hb : Begun s (begunX e c 0x10 s) := begun_begunX
    cases hck : h.a == 0 && h.i && h.k / 256 == 0 && hasPartner s c with
    | false => exact executes_send.wrongExtOf rfl hat hh hck
    | true =>
      have hnone : refOf s c h.e = none := hbad.resolve_left (by rw [hck]; decide)
      rw [executes_send.rightExt rfl hat hh ((hb.congr fun v => h.a == 0 && h.i && h.k / 256 == 0 && hasPartner v c).trans hck),
        withLiteral_none ((hb.congr (refOf · c h.e)).trans hnone), hb.progErr]
  case sendNoExt => exact fun s e c w h hat _ => executes_send.noExt rfl hat
  case vars =>
    intro s e c w h p m hat hh hi hk hp hm hcan hlen hmsg hpast hroom
    have hb : Begun s (begun e c 0x11 s) := begun_begun
    have hrun := (running_of_runningOn (runningOn_of_atWord hat)).2
    refine ⟨_, exec_sendv_can hat hh hi hk hcan hm hlen, sent_spec hb (.refl _) hrun hp (nextPc_word (x_of_atWord hat hh) _) ?_⟩
    rw [hb.send_sent hcan hmsg hpast hp hroom]
  case varsNumber =>
    intro s e c w h p n v m hat hh hi hk hp hm hcan hlen hmsg hnq hn hpos hfits hv hroom
    subst hn hv
    have hb : Begun s (begun e c 0x11 s) := begun_begun
    refine ⟨_, exec_sendv_can hat hh hi hk hcan hm hlen, ?_⟩
    rw [hb.send_sent hcan hmsg (seqPast_fits hfits _) hp hroom]
    exact sentBy_number hb hp hnq hpos
  case varsBad =>
    intro s e c w h m hat hh hi hk hm hcan hdata hbad
    have hb : Begun s (begun e c 0x11 s) := begun_begun
    have hv : varsMsg c h (plainHead c h s) s = m := (varsMsg_can hcan).trans hm.symm
    by_cases hlen : 4 * h.a + m.len ≤ 64
    · rw [exec_sendv_can hat hh hi hk hcan hm hlen, hb.send_bad hcan (hbad.resolve_left (by omega))]
    · rw [exec_sendv hat hh hi hk (hasPartner_can hcan), hb.sendVars_past (by rw [hv, varsLen_data (.inr hdata)]; omega)]
  case varsFull =>
    intro s e c w h p m hat hh hi hk hp hm hcan hlen hmsg hpast hfull
    have hb : Begun s (begun e c 0x11 s) := begun_begun
    refine ⟨_, exec_sendv_can hat hh hi hk hcan hm hlen, ctxBlock_spec (w := .none) (by decide) hb ?_⟩
    rw [hb.send_full hcan hmsg hpast hp hfull]
  case varsSpi =>
    intro s e c w h m hat hh hi hk hm hkind hlen hfits hpast hfree
    have hb : Begun s (begun e c 0x11 s) := begun_begun
    refine ⟨_, exec_sendv_spi hat hh hi hk hkind hm hlen, ?_⟩
    rw [← nextPc_word (x_of_atWord hat hh)]
    exact spiBy_spec hb (by rw [hb.send_spi hkind hfits hpast hfree])
  case varsNofault =>
    intro s e c w h m hat hh hi hk hm hkind hlen hbad hnf
    have hb : Begun s (begun e c 0x11 s) := begun_begun
    refine ⟨_, exec_sendv_spi hat hh hi hk hkind hm hlen, setCtx_spec hb ?_⟩
    rw [hb.send_nofault hkind hbad hnf (hh ▸ d_lt w _), nextPc_word (x_of_atWord hat hh)]
  case varsRefused =>
    intro s e c w h m hat hh hi hk hm hkind hlen hbad hnf
    have hb : Begun s (begun e c 0x11 s) := begun_begun
    rw [exec_sendv_spi hat hh hi hk hkind hm hlen, hb.send_refused hkind hbad hnf]
  case varsWrong =>
    intro s e c w h hat hh hbad
    exact executes_sendv.wrongOf rfl hat hh (by rw [x_of_atWord hat hh, if_neg Bool.false_ne_true]; exact hbad)
  case varsX =>
    intro s e c w x h b a l p m hat hh hbx hi hk hp hcan hr hl hok hm hlen hmsg hpast hroom
    subst hbx
    have hb : Begun s (begunX e c 0x11 s) := begun_begunX
    have hu : Begun s (touchLines a 4 (begunX e c 0x11 s)) := hb.fetched (touched ..)
    have hrun := (running_of_runningOn (runningOn_of_atWords hat)).2
    have hv : varsMsg c h l s = m := (varsMsg_can hcan).trans hm.symm
    refine ⟨_, exec_sendv_ext hat hh rfl hi hk (hasPartner_can hcan) hr hl hok, ?_⟩
    refine sent_spec hb (touched a 4 _) hrun hp (nextPc_ext (x_of_atWords hat hh) _) ?_
    rw [hu.sendVars_fits (by rw [hv, varsLen_can hcan]; exact hlen), hv, hu.send_sent hcan hmsg hpast hp hroom]
  case varsXSpi =>
    intro s e c w x h b a l m hat hh hbx hi hk hkind hr hl hok hm hlen
    subst hbx
    have hu : Begun s (touchLines a 4 (begunX e c 0x11 s)) := begun_begunX.fetched (touched ..)
    have hv : varsMsg c h l s = m := hm.symm
    rw [exec_sendv_ext hat hh rfl hi hk (hasPartner_spi hkind) hr hl hok,
      hu.sendVars_fits (by rw [hv, varsLen_data (.inl (offCan hkind))]; exact hlen), hv]
  case varsXWrong =>
    intro s e c w x h hat hh hbad
    have hb : Begun s (begunX e c 0x11 s) := begun_begunX
    have hx := x_of_atWords hat hh
    cases hck : h.i && hasPartner s c && h.k / 256 == 0 with
    | false => exact executes_sendv.wrongExtOf rfl hat hh (by rw [hx, if_pos rfl]; exact hck)
    | true =>
      have hnone : refOf s c h.e = none := hbad.resolve_left (by rw [hck]; decide)
      rw [executes_sendv.rightExt rfl hat hh (by rw [hb.congr (hasPartner · c), hx, if_pos rfl]; exact hck), if_pos hx,
        withLiteral_none ((hb.congr (refOf · c h.e)).trans hnone), hb.progErr]
  case expect =>
    intro s e c w x h b a d hat hh hbx hbare hpart hr hd hok
    rw [exec_expect hat hh hbx hbare hpart hr hd, checked_ok hok]
  case expectWaits =>
    intro s e c w x h b a d hat hh hbx hbare hpart hr hd hok hms hti hi hoff habs
    subst hbx
    have hat' := runningOn_of_atWords hat
    obtain ⟨hst, hon, hpc, heng, hrest, hrd⟩ := expecting_spec (h := h) (dreg := none) (ds := [d]) (k := e) begun_begunX (touched a 8 _)
      (running_of_runningOn hat').2 hms hti hi hoff habs rfl
    refine ⟨_, (exec_expect hat hh rfl hbare hpart hr hd).trans (by rw [checked_ok hok]), hst, hon, ?_, heng (engs_begunX hat'), hrest, hrd⟩
    rw [hpc, nextPc_ext (x_of_atWords hat hh)]
  case expectMatch =>
    intro s e c w x h b a d f hat hh hbx hbare hpart hr hd hok hms hti hi hwhole hoff habs hm hcheck hseq hact
    subst hbx
    have hb : Begun s (begunX e c 0x12 s) := begun_begunX
    have hu : Begun s (touchLines a 8 (begunX e c 0x12 s)) := hb.fetched (touched ..)
    have hrun := (running_of_runningOn (runningOn_of_atWords hat)).2
    refine ⟨_, exec_expect hat hh rfl hbare hpart hr hd, ?_⟩
    rw [checked_ok hok, expectStart_match ((hu.get _).trans hrun) (by rw [hu.ctx]; exact hi) hwhole (by rw [hu.ctx]; exact hoff)
      (by rw [hu.ctx]; exact habs) hm hcheck ((hu.congr (rxw · c)).trans hseq) hact, ← nextPc_ext (x_of_atWords hat hh), ← hu.ctx]
    exact matchedAt_spec hb (touched a 8 _) hrun rfl
  case expectBad =>
    intro s e c w x h b a d hat hh hbx hbare hpart hr hd hok
    have hu : Begun s (touchLines a 8 b) := Begun.fetched (hbx ▸ begun_begunX) (touched ..)
    rw [exec_expect hat hh hbx hbare hpart hr hd, hu.checked_bad hok]
  case expectWrong => exact fun s e c w x h hat hh hbad => executes_expect.wrongExtOf rfl hat hh hbad
  case expectNoExt => exact fun s e c w h hat _ => executes_expect.noExt rfl hat
  case any =>
    intro s e c w x h b a n d hat hh hbx hk ha hpart hr hn hlo hhi hd hok
    have hu : Begun s (touchLines a 1 b) := Begun.fetched (hbx ▸ begun_begunX) (touched ..)
    rw [exec_expectany hat hh hbx hk ha hpart hr hn, hu.expectAny_starts hlo hhi hd hok]
  case anyWaits =>
    intro s e c w x h b a n d hat hh hbx hk ha hpart hr hn hlo hhi hd hok hms hti hi hoff habs
    subst hbx
    have hb : Begun s (begunX e c 0x13 s) := begun_begunX
    have hu : Begun s (touchLines a 1 (begunX e c 0x13 s)) := hb.fetched (touched ..)
    have hfour : dw ((groups 8 n.toNat d).getD 0 []) 4 = dw d 4 := dw_groups hlo (by decide) d
    obtain ⟨hst, hon, hpc, -, hrest, hrd⟩ := expecting_spec (h := h) (dreg := some h.d) (ds := groups 8 n.toNat d) (k := e) hb
      ((touched a 1 _).trans (touched ((a + 4) % 2 ^ 32) (8 * n.toNat) _)) (running_of_runningOn (runningOn_of_atWords hat)).2
      (by rw [hfour]; exact hms) (by rw [hfour]; exact hti) hi hoff habs rfl
    refine ⟨_, (exec_expectany hat hh rfl hk ha hpart hr hn).trans (by rw [hu.expectAny_starts hlo hhi hd hok]), hst, hon, ?_, hrest, hrd⟩
    rw [hpc, nextPc_ext (x_of_atWords hat hh)]
  case anyCount =>
    intro s e c w x h b a n hat hh hbx hk ha hpart hr hn hbad
    have hu : Begun s (touchLines a 1 b) := Begun.fetched (hbx ▸ begun_begunX) (touched ..)
    rw [exec_expectany hat hh hbx hk ha hpart hr hn, hu.expectAny_miscounted hbad]
  case anyWrong => exact fun s e c w x h hat hh hbad => executes_expectany.wrongExtOf rfl hat hh hbad
  case anyNoExt => exact fun s e c w h hat _ => executes_expectany.noExt rfl hat
  case flush =>
    intro s e c w h hat hh hk ha hd hpart hown
    have hb : Begun s (begun e c 0x14 s) := begun_begun
    have hnot : ¬ (h.d / 4 = 1 ∧ onCan (begun e c 0x14 s) c = true) := by
      rw [hb.congr (onCan · c)]
      rintro ⟨hfour, hcan⟩
      exact hown.elim (fun hlt => by omega) fun hoff => Bool.false_ne_true (hoff.symm.trans hcan)
    obtain ⟨hctx, hrest⟩ := flushed_spec (h := h) (c := c) hb rfl
    refine ⟨_, executes_flush.rightOf rfl hat hh (by simp [hk, ha, hd, hpart]), ?_⟩
    rw [if_neg hnot, hctx, nextPc_word (x_of_atWord hat hh)]
    refine ⟨rfl, rfl, rfl, rfl, rfl, ?_⟩
    rw [nextPc_word (x_of_atWord hat hh)] at hctx
    rwa [hctx] at hrest
  case flushQueue =>
    intro s e c w h p hat hh hk ha hlo hhi hcan hp hq
    have hb : Begun s (begun e c 0x14 s) := begun_begun
    refine ⟨_, executes_flush.rightOf rfl hat hh (by simp [hk, ha, hhi, hasPartner_can hcan]), ?_⟩
    rw [if_pos ⟨by omega, (hb.congr (onCan · c)).trans hcan⟩, ← nextPc_word (x_of_atWord hat hh)]
    exact flushedQueue_spec hb hp hq rfl
  case flushWrong => exact fun s e c w h hat hh hbad => executes_flush.wrongOf rfl hat hh hbad
  case flushExt => exact fun s e c w hat => executes_flush.ext rfl hat
  case txVars =>
    intro s e c w x h b a d hat hh hbx hbare hcan hr hd hok hsrc
    rw [exec_xferTx hat hh hbx hbare hcan hr hd hok, if_pos hsrc, xferTxOf]
  case txLiteral =>
    intro s e c w x h b a d n l hat hh hbx hbare hcan hr hd hok hsrc hn hl
    subst hn
    rw [exec_xferTx hat hh hbx hbare hcan hr hd hok, if_neg hsrc, withBytes, withWords_ok hl, xferTxOf]
  case txBad => exact fun s e c w x h b a d hat hh hbx hbare hcan hr hd hok => exec_xferTx_bad hat hh hbx hbare hcan hr hd hok
  case txWrong => exact fun s e c w x h hat hh hbad => executes_xferTx.wrongExtOf rfl hat hh hbad
  case txNoExt => exact fun s e c w h hat _ => executes_xferTx.noExt rfl hat
  case rx =>
    intro s e c w x h b a q d hat hh hbx hk ha hcan hr hq hvar hd hok
    rw [exec_xferRx hat hh hbx hk ha hcan hr hq hvar hd hok, receiving]
  case rxWaits =>
    intro s e c w x h b a q d hat hh hbx hk ha hcan hr hq hvar hd hok hi hoff habs hresv
    subst hbx
    have hb : Begun s (begunX e c 0x16 s) := begun_begunX
    have hu : Begun s (touchLines a 10 (begunX e c 0x16 s)) := hb.fetched (touched ..)
    have hrun := (running_of_runningOn (runningOn_of_atWords hat)).2
    have heff := exec_xferRx hat hh rfl hk ha hcan hr hq hvar hd hok
    rw [xferStart_waits ((hu.get _).trans hrun) (by rw [hu.ctx]; exact hi) (by rw [hu.ctx]; exact hoff) (by rw [hu.ctx]; exact habs)
      (by rw [hu.ctx]; exact hresv)] at heff
    obtain ⟨hst, hon, hctx, hrest, hrd⟩ := fetched_waits (w := .xfer (receiving h d (s.ctx c).pc (clk s))) (by decide : 2 < 16) hb (touched a 10 _)
      (x := { (touchLines a 10 (begunX e c 0x16 s)).ctx c with
        pc := nextPc h ((touchLines a 10 (begunX e c 0x16 s)).ctx c).pc, wait := .xfer (receiving h d (s.ctx c).pc (clk s)) }) rfl
    refine ⟨_, heff, hst, hon, ?_, hrest, hrd⟩
    rw [hctx, hu.ctx, nextPc_ext (x_of_atWords hat hh)]
  case rxWrong => exact fun s e c w x h hat hh hbad => executes_xferRx.wrongExtOf rfl hat hh hbad
  case rxNoExt => exact fun s e c w h hat _ => executes_xferRx.noExt rfl hat

end Sys2Proof.Machine
end
